-- ==== Sys2Proof/Word.lean ====
section
/-! DEFINITION. The word and byte types of the EV48 family: registers are 32 bits wide (R12), memory is
byte addressed and little-endian (R12, R716). -/
namespace Sys2Proof

/-- A byte of memory. -/
abbrev Byte := BitVec 8

/-- A 32-bit register word (R12). -/
abbrev Word := BitVec 32

end Sys2Proof
end

