-- ==== Sys2Proof/Syntax.lean ====
section
/-! DEFINITION. The commands the block takes, one constructor per row of spec/opcode_table.json, and the types of their
operands. An operand holds what the step of that row meets: the initiator and the value of a write, a message, a pin or
supply event, a measured quantity. -/
namespace Sys2Proof

/-- Who makes an access: the initiator ID the part drives on the bus (R61), whether an application core runs in
machine mode, and the virtual channel of a Milio DMA transfer. The world bit follows from these and the Blank. -/
structure Who where
  id : Nat
  mmode : Bool
  vc : Nat
  deriving DecidableEq, Repr, Inhabited

/-- What SECDED finds on the word a memory access or a scrub reads (R27, R35). -/
inductive Ecc where
  | clean
  | corrected
  | uncorrectable
  deriving DecidableEq, Repr, Inhabited

/-- The checks a physical boot step passed (R106, R107). -/
inductive Firmware where
  | firstCopy
  | secondCopy
  | none
  deriving DecidableEq, Repr, Inhabited

/-- What an announce message says of its grandmaster and its sender (IEEE 1588-2019): priority1, clockClass, clockAccuracy,
offsetScaledLogVariance, priority2, the grandmaster's identity, stepsRemoved, and the sender's identity and port. -/
structure PtpDataSet where
  prio1 : Nat
  cls : Nat
  accuracy : Nat
  variance : Nat
  prio2 : Nat
  gm : Nat
  steps : Nat
  sender : Nat
  senderPort : Nat
  deriving DecidableEq, Repr, Inhabited

/-- What a received PTP message brings about (R198 to R210). The message formats and the best master clock algorithm are those
of IEEE 1588-2019, outside the spec: an announce message carries its data set and a valid currentUtcOffset; a timing message completes an
offset measurement, in ns, or a path delay measurement, in ps; an event message between transparent ports leaves each other one after that
egress port's residence time, in ns, of the list by port 1 to 6; a delay request, or with `peer` a peer delay request, is answered to its
requester's port identity and sequence number. Each carries the domainNumber of its header. -/
inductive PtpMessage where
  | announce (domain : Nat) (data : PtpDataSet) (utc : Option Int)
  | offset (domain : Nat) (o : Int)
  | pathDelay (domain ps : Nat)
  | event (domain : Nat) (bytes : List Byte) (residences : List Nat)
  | request (domain : Nat) (peer : Bool) (requester seq : Nat)
  deriving DecidableEq, Repr, Inhabited

/-- The timers of a PTP port (R198). -/
inductive PtpTimer where
  | sync
  | announce
  | delayReq
  | peerDelay
  | announceReceipt
  | qualification
  deriving DecidableEq, Repr, Inhabited


/-- Where a frame of the Latch or a sample arrives (12, 10): a CAN controller with the frame's ID word (IDE in bit 29), or a
Milio port and virtual channel with the payload's tag. -/
inductive FrameInput where
  | can (controller id : Nat)
  | milio (port vc tag : Nat)
  deriving DecidableEq, Repr, Inhabited

/-- Where a sample comes from (10): a CAN frame with controller and ID word, a UDP datagram on an RGMII port, a Milio packet on a port and
virtual channel, or a metrology quantity with its QUAL flags. -/
inductive SampleInput where
  | can (controller id : Nat)
  | eth (port udp : Nat)
  | milio (port vc : Nat)
  | met (quantity qual : Nat)
  deriving DecidableEq, Repr, Inhabited

/-- The error counters of a CAN controller after an event, and LASTERR, as ISO 11898-1 counts them (R618). -/
structure CanErrors where
  tec : Nat
  recv : Nat
  last : Nat
  deriving DecidableEq, Repr, Inhabited

/-- The commands (spec/opcode_table.json); the rule of each is named in its docstring. -/
inductive Instr where
  /-- R705: a write of `size` bytes of `value` to a register address. -/
  | registerWrite (who : Who) (addr size : Nat) (value : Word)
  /-- R716: a single access or a burst to a memory range; `data` is `none` for a read. `slack` says whether unclaimed
  slack of the period is left for a borrower (R233), `ecc` what the word read holds. -/
  | memoryAccess (who : Who) (addr len : Nat) (data : Option (List Byte)) (ecc : Ecc) (slack : Bool)
  /-- R18: a read of a result slot's STATUS, the slot at `addr`. -/
  | slotStatusRead (who : Who) (addr : Nat)
  /-- R19: a read of the last payload word of the slot at `addr`. -/
  | slotPayloadLastRead (who : Who) (addr : Nat)
  /-- R22: a write of TAKE of the slot at `addr`. -/
  | take (who : Who) (addr : Nat) (value : Word)
  /-- R29: the pair of cores `2 pair` and `2 pair + 1` diverges at master PC `pc`. -/
  | lockstepMismatch (pair pc : Nat)
  /-- R677: the chip level decides on the events waiting for it; a further event of detector `det` may be given. -/
  | chipLevelEvent (det : Nat)
  /-- R44: a write of `value` to SYS.UNFENCE. -/
  | unfence (who : Who) (value : Word)
  /-- R45: re-admission of region `region` ends; `again` is the detector met again, if any (R46). -/
  | readmitDone (region : Nat) (again : Option Nat)
  /-- R48: a scrubber pass ends; `corrected` words were corrected, `bad` lists the uncorrectable word addresses. -/
  | scrubPass (corrected : Nat) (bad : List Nat)
  /-- R52: training ends with success or not after `ms`; `lane` and `step` name the failure. -/
  | ddrTrainingDone (ok : Bool) (ms lane step : Nat)
  /-- R58: the refresh-rate code read from the device and the multiplier in quarters it asks for. -/
  | ddrRefreshPoll (code multiplier : Nat)
  /-- R57: a write of `value` to DDR.CLEAR. -/
  | ddrClear (who : Who) (value : Word)
  /-- R695: VIO bank `bank` (0 A to 5 F) falls below 1.5 V. -/
  | vioBankLow (bank : Nat)
  /-- R695: VIO bank `bank` is above 1.5 V again. -/
  | vioBankGood (bank : Nat)
  /-- R72: one step of the VCORE ramp; `measured` is the remote sense in mV. -/
  | vcoreRampStep (measured : Nat)
  /-- R73: phase `phase` hit its limit on 64 consecutive cycles. -/
  | phaseFault (phase : Nat)
  /-- R74: the total load in mA and the core power in mW, averaged over 1 ms, on which phases are shed or restored. -/
  | phaseShed (loadMa powerMw : Nat)
  /-- R83: VAON falls below 1.60 V. -/
  | vaonFall
  /-- R91: VAON rises above 1.65 V; `bkKept` and `bmKept` are the canaries as the domains hold them. -/
  | powerOnReset
  /-- R91: VCORE falls below 0.55 V. -/
  | brownout
  /-- R91: RESET_N low for `ns`. -/
  | resetPin (ns : Nat)
  /-- R91: the Warden watchdog runs out. -/
  | wdtWarden
  /-- R91: the Keeper watchdog runs out. -/
  | wdtKeeper
  /-- R498: no Warden health report for 3 heartbeat periods. -/
  | wardenHealthTimeout
  /-- R94: a write of `value` to SYS.RESET. -/
  | softReset (who : Who) (value : Word)
  /-- R677: VCORE below target - 50 mV for 1 µs. -/
  | vcoreUnder
  /-- R75: external rail `rail` (0 VSERDES, 1 VDDR1, 2 VDDR2, 3 VDDRQ) leaves its window. -/
  | railFault (rail : Nat)
  /-- R76: VANA crosses 3.0 V; `good` when at or above it. -/
  | vanaClassChange (good : Bool)
  /-- Monitor table: VBAT, in mV, has been below 2.20 V for 1 s. -/
  | batLow (mv : Nat)
  /-- R668: the die is above 125 °C for 1 ms. -/
  | tempCrit
  /-- R668: the clock monitor of `region` (0 to 3), or of the system clock (4), trips. -/
  | clockMonitorFault (region : Nat)
  /-- R668: the timing margin of `region` is negative; `lasting` once it has been so for 10 ms. -/
  | timingMarginFault (region : Nat) (lasting : Bool)
  /-- R77: PFI below 1.20 V for 1 µs. -/
  | powerFailWarning
  /-- R479: the emergency slot is rewritten after the warning was withdrawn. -/
  | emergencyRewrite
  /-- R80: PFI above 1.23 V again. -/
  | powerFailClear
  /-- R124: the Keeper verifies the slots in order and loads the first that passes. -/
  | blankLoad
  /-- R499: the Hinge decides the part's role. -/
  | roleDecision
  /-- R194: the end of MOUNT. `temp` is the die temperature in quarters of a degree. -/
  | mountComplete (temp : Int)
  /-- R102: a write of `value` to SYS.SAFE_REQ. -/
  | safeReq (who : Who) (value : Word)
  /-- R130: a write of STORE to BLK.CMD, SLOT in bits 6:4. -/
  | store (who : Who) (value : Word)
  /-- R132: a write of INVALIDATE to BLK.CMD. -/
  | invalidate (who : Who) (value : Word)
  /-- R130: the command of BLK.CMD finishes. -/
  | cmdDone
  /-- R134: a write of `value` to BLK.SUBMIT. -/
  | patchSubmit (who : Who) (value : Word)
  /-- R135: the checks of `region`'s running request end. -/
  | patchChecksDone (region : Nat)
  /-- R145: a usable quiesce point of `region` (R141, R142). -/
  | patchApply (region : Nat)
  /-- R144: no usable quiesce point of `region` within BLK.QTIMEOUT. -/
  | quiesceTimeout (region : Nat)
  /-- R85: VBAT falls below 1.55 V. -/
  | batteryLost
  /-- R85: VBAT, now `mv` mV, rises through 1.55 V or 2.30 V. -/
  | vbatRecovered (mv : Nat)
  /-- R75: external rail `rail` is back in its window. -/
  | railRecovered (rail : Nat)
  /-- R106: reset release; whether the PUF root regenerates (with `rootOk`), and which firmware copy verifies. -/
  | resetRelease (rootOk : Bool) (firmware : Firmware)
  /-- R165: the target of comparator `cmp` of spindle `spindle` is crossed. -/
  | softwareComparatorFire (spindle cmp : Nat)
  /-- R162: a quadrature edge on encoder `enc`, backwards when `reverse`. -/
  | encoderEdge (enc : Nat) (reverse : Bool)
  /-- R163: an index pulse on encoder `enc`. -/
  | encoderIndex (enc : Nat)
  /-- R161: an accepted zero crossing of voltage channel V1, V2 or V3 (`channel` 0 to 2): the phase error of the PLL in units
  before its step, the units the step adds, and the frequency it then runs at, in 2^-16 rev/s. -/
  | mainsCrossing (channel error advance pll : Nat)
  /-- R160: a pulse on SPN_PLS `input`: whether the PLL is then locked, the units its step adds, and its frequency in 2^-16 rev/s. -/
  | spindlePulse (input : Nat) (locked : Bool) (advance pll : Nat)
  /-- R164: a TICK received on MIL `port`: the start of its round in device time, in ns, and the round period in ns. -/
  | roundTick (port start period : Nat)
  /-- R189: a write of `value` to SPN.HOSTADV of `spindle`. -/
  | hostadv (who : Who) (spindle : Nat) (value : Word)
  /-- R170: a stall condition of `spindle` lasts STALL_MS. -/
  | spindleStall (spindle : Nat)
  /-- R174: the angular difference of `spindle` from its source reaches 0. -/
  | rejoinEnd (spindle : Nat)
  /-- R188: a read of SPN.ANGLE of `spindle`. -/
  | spnAngleRead (who : Who) (spindle : Nat)
  /-- R193: a write of `value` to TIM.STEP_GO. -/
  | timeStep (who : Who) (value : Word)
  /-- R193: counting crosses a second boundary. -/
  | second
  /-- R198: a PTP message received on a port, 1 to 6. -/
  | ptpMessage (port : Nat) (msg : PtpMessage)
  /-- R195: |o| has stayed below TIM.LOCK_THRESH for 16 s. -/
  | servoLocked
  /-- R201: the announce receipt timeout of `port`, in SLAVE state, ends. -/
  | announceTimeout (port : Nat)
  /-- R205: the slew toward a new master ends. -/
  | slewDone
  /-- R207: a write of `value` to TIM.ACCEPT_JUMP. -/
  | acceptJump (who : Who) (value : Word)
  /-- R208: the offsets have been consistent over TIM.JUMP_CONFIRM seconds. -/
  | jumpConfirmed
  /-- R196: a read of TIM.NOW_NS. -/
  | timeNowRead (who : Who)
  /-- R214: the once-a-minute comparison of the block with the cell. -/
  | rtcCompare
  /-- R217: a read of RTC.SUBSEC. -/
  | rtcSubsecRead (who : Who)
  /-- R218: a read of RTC.FRAC. -/
  | rtcFracRead (who : Who)
  /-- R219: the snapshot of initiator `id`, of the cell or the block, has stood for 1 s. -/
  | freezeExpired (id : Nat) (cell : Bool)
  /-- R221: a write of `value` to RTC.COMMIT. -/
  | commit (who : Who) (value : Word)
  /-- R223: the 1/256 s boundary of a pending commit. -/
  | commitLoad
  /-- R225: the trim accumulator overflows. -/
  | trimOverflow
  /-- R226: a write of `value` to RTC.MEAS_CTRL. -/
  | measStart (who : Who) (value : Word)
  /-- R227: the reference interval ends. -/
  | measDone
  /-- R228: the reference of the measurement is lost. -/
  | measAbort
  /-- R198: a timer of PTP `port` runs out. -/
  | ptpPortTimer (port : Nat) (timer : PtpTimer)
  /-- R217, R218: a read of RTC.YEAR (the cell) or of RTC.SEC_HI (the block). -/
  | rtcSnapshotEnd (who : Who) (cell : Bool)
  /-- R231: the Ward period comparator fires, or the internal generator's NOMP has passed. -/
  | wardPeriod
  /-- R238: 2 NOMP have passed without a firing. -/
  | periodLate
  /-- R261: a write of `value` to WRD.CLEAR. -/
  | wrdClear (who : Who) (value : Word)
  /-- R243: the millisecond's worst margins in ps of Control, Solve, Sense, Link and Keep, and the die temperature in
  quarters of a degree. -/
  | avsEvaluation (margins : List Int) (temp : Int)
  /-- R244: the millisecond's DFS evaluation, on the margins of the last AVS evaluation. -/
  | dfsEvaluation
  /-- R250: a microsecond of data on `lane`: the step of sign-sign LMS for CTLE and the five taps, each -1, 0 or 1. -/
  | linkEqUpdate (lane : Nat) (ctle : Int) (taps : List Int)
  /-- R246: 100 ms end; the thresholds follow the die temperature. -/
  | detThreshUpdate (temp : Int)
  /-- R247: the PLACE interval ends; slack of each core and utilisation of each task, in per cent. -/
  | placeEvaluation (slacks utils : List Nat)
  /-- R247: the copy of marked task `task` is finished between completion and release. -/
  | taskMove (task : Nat)
  /-- R252: STORE_PERIOD has passed. -/
  | lastGoodStore
  /-- R262: a write of `value` to ADP.STORE. -/
  | adpStore (who : Who) (value : Word)
  /-- R275: a write of `value` to LTH.SUBMIT of Lathe `lathe`. -/
  | latheSubmit (who : Who) (lathe : Nat) (value : Word)
  /-- R279: a chuck is free; the sequencer of `lathe` takes a queued descriptor. -/
  | latheDispatch (lathe : Nat)
  /-- R281: the deadline of the queued descriptor `ticket` passes. -/
  | latheDeadlineQueued (lathe ticket : Nat)
  /-- R297: the solve on `chuck` reaches its stop point, each iteration taking `iterationPs`. -/
  | latheDeadlineStop (lathe chuck iterationPs : Nat)
  /-- R304: the solve on `chuck` ends: what its write-back took beyond its estimate, the offset in the chuck's store of a word that failed while it
  ran, and the measured time of one iteration in ps. -/
  | latheCompletion (lathe chuck lateNs : Nat) (storeError : Option Nat) (iterationPs : Nat)
  /-- R282: a write of `value` to LTH.CANCEL. -/
  | cancel (who : Who) (lathe : Nat) (value : Word)
  /-- R276: a write of `value` to LTH.QCTRL. -/
  | flush (who : Who) (lathe : Nat) (value : Word)
  /-- R309: a write of `value` to LTH.CLEAR. -/
  | latheClear (who : Who) (lathe : Nat) (value : Word)
  /-- R305: a residue mismatch in cell `cell`. -/
  | latheCellFault (lathe cell : Nat)
  /-- R307: the sequencer of `lathe` halts or its watchdog expires. -/
  | sequencerHalt (lathe : Nat)
  /-- R315: the top coordinator's comparator fires. -/
  | roundStart
  /-- R317: a DOWN arrives, the payload of a packet on VC7. -/
  | fedDown (payload : List Byte)
  /-- R327: an UP arrives. -/
  | fedUp (payload : List Byte)
  /-- R322: a fragment of an AREA_DOWN arrives. -/
  | areaDown (payload : List Byte)
  /-- R322: a fragment of an AREA_UP arrives. -/
  | areaUp (payload : List Byte)
  /-- R322: MEMBER_DL passes at an area coordinator. -/
  | areaClose
  /-- R321: the close angle passes at the top coordinator. -/
  | fedClose
  /-- R332: a PLAN arrives. -/
  | fedPlan (payload : List Byte)
  /-- R331: a fragment of an AREA_PLAN arrives. -/
  | areaPlan (payload : List Byte)
  /-- R333: VALID_UNTIL of the slot's last plan passes. -/
  | planExpired
  /-- R340: a write of `value` to FED.CLEAR. -/
  | fedClear (who : Who) (value : Word)
  /-- R351: release comparator `cmp` of `spindle` fires. -/
  | taskRelease (spindle cmp : Nat)
  /-- R353: an event of a source of the event source table. -/
  | eventTaskRelease (source number : Nat)
  /-- R355: a write of `value` to TSK.TRIGGER. -/
  | trigger (who : Who) (value : Word)
  /-- R361: a write of `value` to TSK.DONE. -/
  | taskDone (who : Who) (value : Word)
  /-- R362: commit comparator `cmp` of `spindle` fires. -/
  | taskCommit (spindle cmp : Nat)
  /-- R347: the task that core `core` runs meets an access fault, an illegal instruction or an environment call. -/
  | taskFault (core : Nat)
  /-- R365: a write of `value`, MODE RUN, to TSK.PMODE of `program`. -/
  | programRun (who : Who) (program : Nat) (value : Word)
  /-- R369: a write of `value`, MODE STOP, to TSK.PMODE of `program`. -/
  | programStop (who : Who) (program : Nat) (value : Word)
  /-- R370: a write of `value`, MODE HOLD, to TSK.PMODE of `program`. -/
  | programHold (who : Who) (program : Nat) (value : Word)
  /-- R371: the task that core `core` runs hits a debug trigger. -/
  | debugBreak (core : Nat)
  /-- R377: a write of `value` to TSK.CLEAR. -/
  | tskClear (who : Who) (value : Word)
  /-- R386: the sweep comparator fires. -/
  | sweepStart
  /-- R387: signal `signal` is written while loops wait. -/
  | loopInputWritten (signal : Nat)
  /-- R391: the sweep deadline passes. -/
  | sweepDeadline
  /-- R401: a write of `value`, APPLY set, to CLE.TGO. -/
  | tuneApply (who : Who) (value : Word)
  /-- R401: an instant without a sweep. -/
  | tuneTake
  /-- R401: a write of `value`, LOAD set, to CLE.TGO. -/
  | tuneLoad (who : Who) (value : Word)
  /-- R405: a write of `value` to CLE.CLEAR. -/
  | cleClear (who : Who) (value : Word)
  /-- R406: what `input` brings, stamped `arrival` (ns of device time), is offered to the streams. -/
  | sampleIntake (input : SampleInput) (arrival : Nat) (payload : List Byte)
  /-- R407: a write of `value` to FUS.PUSH. -/
  | fusPush (who : Who) (value : Word)
  /-- R415: frame comparator `cmp` of `spindle` fires. -/
  | frameFire (spindle cmp : Nat)
  /-- R415: every stream is complete for the oldest waiting frame of `graph`. -/
  | frameFuse (graph : Nat)
  /-- R415: the wait limit of the oldest waiting frame of `graph` passes. -/
  | waitExpired (graph : Nat)
  /-- R427: the late samples of `graph` are replayed. -/
  | replay (graph : Nat)
  /-- R413: `stream` has been silent for DROPOUT frames. -/
  | streamDropped (stream : Nat)
  /-- R668: fusion engine `engine` halts. -/
  | fusionEngineHalt (engine : Nat)
  /-- R440: a write of `value` to FUS.CLEAR. -/
  | fusClear (who : Who) (value : Word)
  /-- R444: a waveform packet arrives on a port and virtual channel. -/
  | waveformPacket (port vc : Nat) (payload : List Byte)
  /-- R445: cycle comparator `cmp` of `spindle` fires; the codes of the local channels at each sampling instant of the cycle. -/
  | mainsCycleEnd (spindle cmp : Nat) (samples : List (List Int))
  /-- R451: the oldest waiting cycle of remote `system` is closed. -/
  | remoteCycleClose (system : Nat)
  /-- R458: a heat step ends; the conversions of RTD 0 to 3, in units of 2^-32. -/
  | heatStep (ratios : List Nat)
  /-- R457: a pulse on `input` has stayed high for its minimum width. -/
  | meterPulse (input : Nat)
  /-- R461: a billing interval closes. -/
  | billingClose
  /-- R462: a write of `value` to MET.INTERVAL. -/
  | intervalWrite (who : Who) (value : Word)
  /-- R469: a pulse of `output` starts. -/
  | pulseStart (output : Nat)
  /-- R469: the width of the pulse of `output` elapses. -/
  | pulseEnd (output : Nat)
  /-- R474: a second on VBAT, with the currents of L1 to L3 as FP32. -/
  | batterySecond (irms : List Nat)
  /-- R476: SAVE_PERIOD has passed. -/
  | periodicSave
  /-- R476: a write of `value` to MET.SAVE. -/
  | save (who : Who) (value : Word)
  /-- R487: a write of `value` to MET.CLEAR. -/
  | metClear (who : Who) (value : Word)
  /-- R488: a read of MET.REG_LO of `register`. -/
  | metRegRead (who : Who) (register : Nat)
  /-- R441: 128 samples of the local channels have been taken, the first at `first`. -/
  | waveformSend (first : Nat) (samples : List (List Int))
  /-- R496: HB_PERIOD has passed since the last heartbeat. -/
  | heartbeatSend
  /-- R497: the 32 bytes `frame` arrive as a heartbeat on `link`: 0 LVDS A, 1 LVDS B, 2 Milio. -/
  | heartbeat (link : Nat) (frame : List Byte)
  /-- R497: no heartbeat of `peer` for 3 HB_PERIOD. -/
  | peerLost (peer : Nat)
  /-- R498: a write of `value` to HNG.HEALTH. -/
  | healthWrite (who : Who) (value : Word)
  /-- R500: the conditions for a takeover are met. -/
  | takeover
  /-- R502: a write of `value`, OP YIELD, to HNG.CMD. -/
  | yield (who : Who) (value : Word)
  /-- R512: a write of `value`, OP HANDOVER, to HNG.CMD. -/
  | handover (who : Who) (value : Word)
  /-- R518: a write of `value`, OP CLEAR_UNFIT, to HNG.CMD. -/
  | clearUnfit (who : Who) (value : Word)
  /-- R516: a write of `value`, OP PROOF_NOW, to HNG.CMD. -/
  | proofNow (who : Who) (value : Word)
  /-- R494: a write of `value`, OP RESET_EPOCH, to HNG.CMD. -/
  | resetEpoch (who : Who) (value : Word)
  /-- R494, R662: 1 ms has passed since an epoch reset or a lifecycle transition. -/
  | delayedSoftReset
  /-- R504: a quiesce point of Control after the firing at which a cut is due. -/
  | cut
  /-- R504: CUT_WAIT has passed since a cut was due. -/
  | cutSkipped
  /-- R507: the checkpoint packet `frame` arrives on VC 6. -/
  | checkpointPacket (frame : List Byte)
  /-- R508: the stored checkpoint has been applied. -/
  | checkpointApply
  /-- R513: the target has applied the FINAL checkpoint. -/
  | finalTake
  /-- R514: the next firing of the cut comparator without the target ACTIVE. -/
  | abandoned
  /-- R515: REVERT_HOLD of steady readiness. -/
  | revertReq
  /-- R516: a proof run is due. -/
  | proofRun
  /-- R518: the proof run ends; `failed` is the injection that did not reach its response, 0 for none. -/
  | proofRunEnd (failed : Nat)
  /-- R715: a Latch status frame arrives. -/
  | latchStatus (input : FrameInput) (frame : List Byte)
  /-- R532: a write of `value` to HNG.CLEAR. -/
  | hngClear (who : Who) (value : Word)
  /-- R505: the last packet of the image has left for the last standby. -/
  | checkpointSent
  /-- R509: the cut of the applied checkpoint is older than 16 CKPT_PERIOD T_cyc. -/
  | checkpointStale
  /-- R520: a claimed COMMAND frame arrives at the Latch. -/
  | latchCommand (input : FrameInput) (frame : List Byte)
  /-- R525: a WITHDRAW frame arrives at the Latch. -/
  | latchWithdraw (input : FrameInput) (frame : List Byte)
  /-- R528: STATUS_MS has passed. -/
  | statusSend
  /-- R523: HOLD × PERIOD have passed since channel `channel` accepted a command. -/
  | latchHoldExpiry (channel : Nat)
  /-- R526: a write of `value` to LAT.CMD of `channel`. -/
  | latchCmd (who : Who) (channel : Nat) (value : Word)
  /-- R524: a write of `value` to LAT.ARM_LO, or with `high` to LAT.ARM_HI. -/
  | latchArm (who : Who) (high : Bool) (value : Word)
  /-- R533: a write of `value` to LAT.CLEAR. -/
  | latClear (who : Who) (value : Word)
  /-- R668: the pin of GPIO channel `channel` reads back another level for 10 µs. -/
  | latchStuck (channel : Nat)
  /-- R543: a write of `value` to PRF.GO. -/
  | axisGo (who : Who) (value : Word)
  /-- R549: a write of `value` to PRF.STOP. -/
  | axisStop (who : Who) (value : Word)
  /-- R547: a write of `value` to PRF.HALT. -/
  | axisHalt (who : Who) (value : Word)
  /-- R552: a write of `value`, HOME set, to PRF.HOME of `axis`. -/
  | axisHome (who : Who) (axis : Nat) (value : Word)
  /-- R553: a write of `value`, SET_POS set, to PRF.HOME of `axis`. -/
  | setPos (who : Who) (axis : Nat) (value : Word)
  /-- R538: the step timer of `axis` expires. -/
  | stepEmit (axis : Nat)
  /-- R552: PRF_HOME of `axis` reaches its active level. -/
  | homeSwitch (axis : Nat)
  /-- R540: `axis` has stood for IDLE ms. -/
  | currentReduce (axis : Nat)
  /-- R548: SAMPLE µs of `axis` have passed. -/
  | prfSample (axis : Nat)
  /-- R559: the frame comparator fires; `late` lines of the frame have no data in time. -/
  | panelFrameStart (late : Nat)
  /-- R563: a write of `value`, ON set, to PNL.CTRL. -/
  | powerUp (who : Who) (value : Word)
  /-- R566: a write of `value`, ON clear, to PNL.CTRL. -/
  | powerOff (who : Who) (value : Word)
  /-- R563: DELAY_MS of the next rail has passed. -/
  | railStep
  /-- R569: a write of `value` to PNL.UPD_GO. -/
  | updGo (who : Who) (value : Word)
  /-- R563: LIGHT_DELAY has passed since the clear. -/
  | lightDelayExpiry
  /-- R587: the bytes of a packet, from its header to its CRC-32, arrive on `link`. -/
  | packet (link : Nat) (bytes : List Byte)
  /-- R585: a NAK that names LSEQ `seq` arrives on `link`. -/
  | nak (link seq : Nat)
  /-- R585: the oldest packet held for retry on `link` has not been acknowledged for 100 µs. -/
  | ackTimeout (link : Nat)
  /-- R591: the payload of a LINKINFO arrives on `link`. -/
  | linkinfo (link : Nat) (payload : List Byte)
  /-- R600: a lane of `link` loses block lock. -/
  | blockLockLost (link : Nat)
  /-- R600: `link` retrains: 10 ms have passed while it is DOWN, or a write of MIL.CTRL sets its RETRAIN bit. -/
  | linkRetrain (link : Nat) (write : Option (Who × Word))
  /-- R593: the payload of a KX packet arrives on `link`. -/
  | kx (link : Nat) (payload : List Byte)
  /-- R594: a write of `value` to MIL.KEYCTL of `port`. -/
  | keyctl (who : Who) (port : Nat) (value : Word)
  /-- R595: 10 ms since the KX exchange of channel `vc` of `link` started, or 100 ms since it failed. -/
  | kxTimeout (link vc : Nat)
  /-- R598: a write of `value` to MIL.TXTAIL of `port` and `vc`. -/
  | txRingTail (who : Who) (port vc : Nat) (value : Word)
  /-- R599: the oldest packet that waits for a receive buffer on `link` has waited 1 ms. -/
  | rxfullTimeout (link : Nat)
  /-- R590: channel `vc` of `link` has held a packet without credit for 10 ms. -/
  | vcStall (link vc : Nat)
  /-- R605: a write of `value` to MIL.CLEAR of `port`. -/
  | milClear (who : Who) (port : Nat) (value : Word)
  /-- R602: a frame, from its destination to its FCS, arrives on `port`; `message` is what it brings about where it is a PTP message. -/
  | ethFrame (port : Nat) (frame : List Byte) (message : Option PtpMessage)
  /-- R603: a write of `value` to ETH.TXTAIL of `port`. -/
  | ethTxTail (who : Who) (port : Nat) (value : Word)
  /-- R605: a write of `value` to ETH.MDIO; `data` is what the PHY answers a read with. -/
  | ethMdio (who : Who) (value : Word) (data : Nat)
  /-- R605: a write of `value` to ETH.CLEAR. -/
  | ethClear (who : Who) (value : Word)
  /-- R600: the lanes of `link` gain block lock and deskew. -/
  | blockLockGained (link : Nat)
  /-- R584: a terminate or idle block on `link` acknowledges the packets up to LSEQ `ack` and returns `credits` to channel `vc`. -/
  | creditReturn (link ack vc credits : Nat)
  /-- R599: a write of `value` to MIL.RXTAIL of `port` and `vc`, or with `eth` to ETH.RXTAIL of `port`. -/
  | rxRingTail (who : Who) (eth : Bool) (port vc : Nat) (value : Word)
  /-- R602: the link of Ethernet `port` goes up or down, at a speed. -/
  | ethLinkChange (port : Nat) (link : Bool) (speed : Nat)
  /-- R608: a frame without error arrives at `controller`: ID word with IDE in bit 29 and RTR in bit 30, CTL with DLC, FDF, BRS and ESI, its
  data; the error counters after it. -/
  | canFrame (controller id ctl : Nat) (data : List Byte) (errors : CanErrors)
  /-- R613: a write of `value` to CAN.TXREQ_LO or, with `high`, TXREQ_HI. -/
  | txreq (who : Who) (controller : Nat) (high : Bool) (value : Word)
  /-- R615: the frame on the bus is sent, or has met its last attempt. -/
  | txEnd (controller : Nat) (sent : Bool) (errors : CanErrors)
  /-- R616: a write of `value` to CAN.TXCAN_LO or, with `high`, TXCAN_HI. -/
  | txcan (who : Who) (controller : Nat) (high : Bool) (value : Word)
  /-- R618: the controller goes bus-off. -/
  | busOff (controller : Nat) (errors : CanErrors)
  /-- R618: a write of `value`, RECOVER set, to CAN.CTRL. -/
  | recover (who : Who) (controller : Nat) (value : Word)
  /-- R618: 128 occurrences of 11 recessive bits. -/
  | recoveryDone (controller : Nat)
  /-- R611: a write of `value` to CAN.F0ACK or F1ACK. -/
  | fifoAck (who : Who) (controller fifo : Nat) (value : Word)
  /-- R612: a write of `value` to CAN.HPREL. -/
  | hprel (who : Who) (controller : Nat) (value : Word)
  /-- R623: an access of `n` bytes at `offset` of BAR `bar`; with `write` a write of those bytes. -/
  | hostAccess (bar offset n : Nat) (write : Option (List Byte)) (ecc : Ecc) (slack : Bool)
  /-- R622: the PCIe link comes up at a rate and width, or goes down. -/
  | pcieLinkChange (link : Bool) (rate width ltssm : Nat)
  /-- R622: a Function Level Reset. -/
  | flr
  /-- R626: the source mapped to MSI-X `vector` has become pending. -/
  | msiX (vector : Nat)
  /-- R628: the SPI command ID. -/
  | spiId
  /-- R628: the SPI command READ of `n` words from `addr`. -/
  | spiRead (addr n : Nat)
  /-- R628: the SPI command WRITE of words from `addr`. -/
  | spiWrite (addr : Nat) (data : List Word)
  /-- R629: HSP_CS_N rises before a transaction ends, after `reads` words of a READ or the words `data` of a WRITE, or after an unknown
  command. -/
  | spiAbandon (addr reads : Nat) (data : List Word)
  /-- R631: a write of `value` to MBX.SEND. -/
  | mbxSend (who : Who) (value : Word)
  /-- R633: a read of MBX.POP of `channel`. -/
  | pop (who : Who) (channel : Nat)
  /-- R634: a write of `value` to MBX.RING. -/
  | ring (who : Who) (value : Word)
  /-- R637: a write of `value`, OP 1, to DBG.DMI_OP. -/
  | dmiRead (who : Who) (value : Word)
  /-- R637: a write of `value`, OP 2, to DBG.DMI_OP. -/
  | dmiWrite (who : Who) (value : Word)
  /-- R638: a halt request of the debug module of `engine`. -/
  | haltRequest (engine : Nat)
  /-- R637: a probe attaches at the JTAG balls. -/
  | jtagAttach
  /-- R644: KEY serves the DIGEST request at the front of its queue. -/
  | digest
  /-- R643: KEY serves the SIGN request at the front of its queue. -/
  | sign
  /-- R643: KEY serves the VERIFY request at the front of its queue. -/
  | verify
  /-- R643: KEY serves the MAC request at the front of its queue. -/
  | mac
  /-- R643: KEY serves the ENCRYPT request at the front of its queue. -/
  | encrypt
  /-- R643: KEY serves the DECRYPT request at the front of its queue. -/
  | decrypt
  /-- R644: KEY serves the PUBLIC request at the front of its queue. -/
  | publicKey
  /-- R665: KEY serves the QUOTE request at the front of its queue. -/
  | quote
  /-- R648: KEY serves the INVALIDATE request at the front of its queue. -/
  | keyInvalidate
  /-- R649: the slots that await reclaim have been zeroed. -/
  | reclaimed
  /-- R651: KEY serves the PROVISION request at the front of its queue. -/
  | provision
  /-- R660: KEY serves the TRANSITION request at the front of its queue. -/
  | transition
  /-- R644: KEY serves the RANDOM request at the front of its queue. -/
  | random
  /-- R666: a write of `value` to KEY.CLEAR. -/
  | keyClear (who : Who) (value : Word)
  /-- R676: the collector writes its next waiting record. -/
  | faultRecordWrite
  /-- R679: a write of `value`, LIVE set, to INJ.GO. -/
  | injectLive (who : Who) (value : Word)
  /-- R679: a write of `value`, LIVE clear, to INJ.GO. -/
  | injectShadow (who : Who) (value : Word)
  /-- R681: the running request has not completed within 1 s. -/
  | injectionTimeout
  /-- R682: a write of `value` to INJ.ABORT. -/
  | injAbort (who : Who) (value : Word)
  /-- R685: a write of `value` to FLT.CLEAR. -/
  | fltClear (who : Who) (value : Word)
  /-- R697: the board puts an edge on the ball of GPIO `gpio`. -/
  | gpioEdge (gpio : Nat) (rising : Bool)
  deriving DecidableEq, Repr, Inhabited

end Sys2Proof
end

