-- ==== Sys2Proof/WellFormed.lean ====
section
/-! DEFINITION. Which commands are well formed: the numbers of units, channels and instances lie in the ranges the EV4816 has (00 to 19), and
addresses lie in the 40-bit space (01). The machine gives every command a meaning, well formed or not; where it counts instances it takes the
number modulo their count. -/
namespace Sys2Proof

/-- An initiator of the table (R61); reserved IDs never appear (R62). A Milio port has 8 virtual channels. -/
def Who.ok (w : Who) : Bool := (decide (w.id ≤ 0x19) || w.id == 0x1F) && decide (w.vc < 8)

/-- `n` bytes from `addr` lie in the 40-bit address space (01, physical address map). -/
def fits (addr n : Nat) : Bool := decide (addr + n ≤ 2 ^ 40)

/-- A register's address: a word of the 40-bit space. -/
def aligned (addr : Nat) : Bool := fits addr 4 && addr % 4 == 0

/-- The data of a write of `n` bytes. -/
def dataFits (n : Nat) (data : Option (List Byte)) : Bool := match data with
  | some bs => bs.length == n
  | none => true

/-- Error counters: TEC to 256 (bus-off), REC to 255, LEC of 3 bits (16). -/
def CanErrors.ok (e : CanErrors) : Bool := decide (e.tec ≤ 256) && decide (e.recv < 256) && decide (e.last < 8)

def FrameInput.ok : FrameInput → Bool
  | .can controller id => decide (controller < 4) && decide (id < 2 ^ 30)
  | .milio port vc tag => decide (port < 2) && decide (vc < 8) && decide (tag < 2 ^ 16)

def SampleInput.ok : SampleInput → Bool
  | .can controller id => decide (controller < 4) && decide (id < 2 ^ 30)
  | .eth port udp => decide (port < 2) && decide (udp < 2 ^ 16)
  | .milio port vc => decide (port < 2) && decide (vc < 8)
  | .met quantity qual => decide (quantity < 2 ^ 16) && decide (qual < 2 ^ 16)

def Instr.wellFormed : Instr → Bool
  | .registerWrite who addr size _ => who.ok && fits addr size && [1, 2, 4].contains size
  | .memoryAccess who addr len data _ _ => who.ok && decide (0 < len) && fits addr len && dataFits len data
  | .slotStatusRead who addr => who.ok && aligned addr
  | .slotPayloadLastRead who addr => who.ok && aligned addr
  | .take who addr _ => who.ok && aligned addr
  | .lockstepMismatch pair _ => decide (pair < 4)
  | .chipLevelEvent det => decide (det < 45)
  | .unfence who _ => who.ok
  | .readmitDone region again => decide (region < 4) && (match again with | some d => decide (d < 0x2D) | none => true)
  | .scrubPass _ bad => bad.all fun a => decide (a < 2 ^ 40)
  | .ddrTrainingDone _ ms lane step => decide (lane < 16) && decide (step < 256) && decide (ms ≤ 200)
  | .ddrRefreshPoll code _ => decide (code < 8)
  | .ddrClear who _ => who.ok
  | .vioBankLow bank => decide (bank < 6)
  | .vioBankGood bank => decide (bank < 6)
  | .vcoreRampStep measured => decide (measured < 1024)
  | .phaseFault phase => decide (phase < 4)
  | .phaseShed _ _ => true
  | .vaonFall => true
  | .powerOnReset => true
  | .brownout => true
  | .resetPin _ => true
  | .wdtWarden => true
  | .wdtKeeper => true
  | .wardenHealthTimeout => true
  | .softReset who _ => who.ok
  | .vcoreUnder => true
  | .railFault rail => decide (rail < 4)
  | .vanaClassChange _ => true
  | .batLow mv => decide (mv < 4096)
  | .tempCrit => true
  | .clockMonitorFault region => decide (region < 6)
  | .timingMarginFault region _ => decide (region < 5)
  | .powerFailWarning => true
  | .emergencyRewrite => true
  | .powerFailClear => true
  | .blankLoad => true
  | .roleDecision => true
  | .mountComplete _ => true
  | .safeReq who _ => who.ok
  | .store who _ => who.ok
  | .invalidate who _ => who.ok
  | .cmdDone => true
  | .patchSubmit who _ => who.ok
  | .patchChecksDone region => decide (region < 4)
  | .patchApply region => decide (region < 4)
  | .quiesceTimeout region => decide (region < 4)
  | .batteryLost => true
  | .vbatRecovered mv => decide (mv < 4096)
  | .railRecovered rail => decide (rail < 4)
  | .resetRelease _ _ => true
  | .softwareComparatorFire spindle cmp => decide (spindle < 8) && decide (cmp < 64)
  | .encoderEdge enc _ => decide (enc < 8)
  | .encoderIndex enc => decide (enc < 8)
  | .mainsCrossing channel _ _ _ => decide (channel < 3)
  | .spindlePulse input _ _ _ => decide (input < 8)
  | .roundTick port _ _ => decide (port < 8)
  | .hostadv who spindle _ => who.ok && decide (spindle < 8)
  | .spindleStall spindle => decide (spindle < 8)
  | .rejoinEnd spindle => decide (spindle < 8)
  | .spnAngleRead who spindle => who.ok && decide (spindle < 8)
  | .timeStep who _ => who.ok
  | .second => true
  | .ptpMessage port _ => decide (port < 7)
  | .servoLocked => true
  | .announceTimeout port => decide (port < 7)
  | .slewDone => true
  | .acceptJump who _ => who.ok
  | .jumpConfirmed => true
  | .timeNowRead who => who.ok
  | .rtcCompare => true
  | .rtcSubsecRead who => who.ok
  | .rtcFracRead who => who.ok
  | .freezeExpired id _ => decide (id < 32)
  | .commit who _ => who.ok
  | .commitLoad => true
  | .trimOverflow => true
  | .measStart who _ => who.ok
  | .measDone => true
  | .measAbort => true
  | .ptpPortTimer port _ => decide (port < 7)
  | .rtcSnapshotEnd who _ => who.ok
  | .wardPeriod => true
  | .periodLate => true
  | .wrdClear who _ => who.ok
  | .avsEvaluation margins _ => decide (margins.length = 5)
  | .dfsEvaluation => true
  | .linkEqUpdate lane _ taps => decide (lane < 4) && decide (taps.length = 5)
  | .detThreshUpdate _ => true
  | .placeEvaluation _ _ => true
  | .taskMove task => decide (task < 128)
  | .lastGoodStore => true
  | .adpStore who _ => who.ok
  | .latheSubmit who lathe _ => who.ok && decide (lathe < 4)
  | .latheDispatch lathe => decide (lathe < 4)
  | .latheDeadlineQueued lathe _ => decide (lathe < 4)
  | .latheDeadlineStop lathe chuck _ => decide (lathe < 4) && decide (chuck < 64)
  | .latheCompletion lathe chuck _ _ _ => decide (lathe < 4) && decide (chuck < 64)
  | .cancel who lathe _ => who.ok && decide (lathe < 4)
  | .flush who lathe _ => who.ok && decide (lathe < 4)
  | .latheClear who lathe _ => who.ok && decide (lathe < 4)
  | .latheCellFault lathe cell => decide (lathe < 4) && decide (cell < 1024)
  | .sequencerHalt lathe => decide (lathe < 4)
  | .roundStart => true
  | .fedDown _ => true
  | .fedUp _ => true
  | .areaDown _ => true
  | .areaUp _ => true
  | .areaClose => true
  | .fedClose => true
  | .fedPlan _ => true
  | .areaPlan _ => true
  | .planExpired => true
  | .fedClear who _ => who.ok
  | .taskRelease spindle cmp => decide (spindle < 8) && decide (cmp < 64)
  | .eventTaskRelease _ _ => true
  | .trigger who _ => who.ok
  | .taskDone who _ => who.ok
  | .taskCommit spindle cmp => decide (spindle < 8) && decide (cmp < 64)
  | .taskFault core => decide (core < 8)
  | .programRun who program _ => who.ok && decide (program < 16)
  | .programStop who program _ => who.ok && decide (program < 16)
  | .programHold who program _ => who.ok && decide (program < 16)
  | .debugBreak core => decide (core < 8)
  | .tskClear who _ => who.ok
  | .sweepStart => true
  | .loopInputWritten signal => decide (signal < 8192)
  | .sweepDeadline => true
  | .tuneApply who _ => who.ok
  | .tuneTake => true
  | .tuneLoad who _ => who.ok
  | .cleClear who _ => who.ok
  | .sampleIntake input _ _ => input.ok
  | .fusPush who _ => who.ok
  | .frameFire spindle cmp => decide (spindle < 8) && decide (cmp < 64)
  | .frameFuse graph => decide (graph < 64)
  | .waitExpired graph => decide (graph < 64)
  | .replay graph => decide (graph < 64)
  | .streamDropped stream => decide (stream < 64)
  | .fusionEngineHalt engine => decide (engine < 2)
  | .fusClear who _ => who.ok
  | .waveformPacket port vc _ => decide (port < 2) && decide (vc < 9)
  | .mainsCycleEnd spindle cmp _ => decide (spindle < 8) && decide (cmp < 64)
  | .remoteCycleClose system => decide (system < 7)
  | .heatStep ratios => decide (ratios.length ≤ 2)
  | .meterPulse input => decide (input < 4)
  | .billingClose => true
  | .intervalWrite who _ => who.ok
  | .pulseStart output => decide (output < 4)
  | .pulseEnd output => decide (output < 4)
  | .batterySecond irms => decide (irms.length ≤ 3)
  | .periodicSave => true
  | .save who _ => who.ok
  | .metClear who _ => who.ok
  | .metRegRead who register => who.ok && decide (register < 112)
  | .waveformSend _ samples => decide (samples.length = 128)
  | .heartbeatSend => true
  | .heartbeat link _ => decide (link < 4)
  | .peerLost peer => decide (peer < 2)
  | .healthWrite who _ => who.ok
  | .takeover => true
  | .yield who _ => who.ok
  | .handover who _ => who.ok
  | .clearUnfit who _ => who.ok
  | .proofNow who _ => who.ok
  | .resetEpoch who _ => who.ok
  | .delayedSoftReset => true
  | .cut => true
  | .cutSkipped => true
  | .checkpointPacket _ => true
  | .checkpointApply => true
  | .finalTake => true
  | .abandoned => true
  | .revertReq => true
  | .proofRun => true
  | .proofRunEnd _ => true
  | .latchStatus input _ => input.ok
  | .hngClear who _ => who.ok
  | .checkpointSent => true
  | .checkpointStale => true
  | .latchCommand input _ => input.ok
  | .latchWithdraw input _ => input.ok
  | .statusSend => true
  | .latchHoldExpiry channel => decide (channel < 64)
  | .latchCmd who channel _ => who.ok && decide (channel < 64)
  | .latchArm who _ _ => who.ok
  | .latClear who _ => who.ok
  | .latchStuck channel => decide (channel < 64)
  | .axisGo who _ => who.ok
  | .axisStop who _ => who.ok
  | .axisHalt who _ => who.ok
  | .axisHome who axis _ => who.ok && decide (axis < 16)
  | .setPos who axis _ => who.ok && decide (axis < 16)
  | .stepEmit axis => decide (axis < 16)
  | .homeSwitch axis => decide (axis < 16)
  | .currentReduce axis => decide (axis < 16)
  | .prfSample axis => decide (axis < 16)
  | .panelFrameStart _ => true
  | .powerUp who _ => who.ok
  | .powerOff who _ => who.ok
  | .railStep => true
  | .updGo who _ => who.ok
  | .lightDelayExpiry => true
  | .packet link bytes => decide (link < 4) && decide (bytes.length ≤ 288)
  | .nak link seq => decide (link < 4) && decide (seq < 4096)
  | .ackTimeout link => decide (link < 4)
  | .linkinfo link _ => decide (link < 4)
  | .blockLockLost link => decide (link < 4)
  | .linkRetrain link write => decide (link < 4) && (match write with | some x => x.1.ok | none => true)
  | .kx link _ => decide (link < 4)
  | .keyctl who port _ => who.ok && decide (port < 2)
  | .kxTimeout link vc => decide (link < 4) && decide (vc < 9)
  | .txRingTail who port vc _ => who.ok && decide (port < 2) && decide (vc < 9)
  | .rxfullTimeout link => decide (link < 14)
  | .vcStall link vc => decide (link < 4) && decide (vc < 9)
  | .milClear who port _ => who.ok && decide (port < 2)
  | .ethFrame port _ _ => decide (port < 6)
  | .ethTxTail who port _ => who.ok && decide (port < 6)
  | .ethMdio who _ data => who.ok && decide (data < 65536)
  | .ethClear who _ => who.ok
  | .blockLockGained link => decide (link < 4)
  | .creditReturn link ack vc _ => decide (link < 4) && decide (ack < 4096) && decide (vc < 9)
  | .rxRingTail who eth port vc _ => who.ok && decide (port < (if eth then 6 else 2)) && decide (vc < 8)
  | .ethLinkChange port _ speed => decide (port < 6) && decide (speed < 8)
  | .canFrame controller id _ data errors => decide (controller < 4) && decide (id < 2 ^ 31) && decide (data.length ≤ 64) && errors.ok
  | .txreq who controller _ _ => who.ok && decide (controller < 4)
  | .txEnd controller _ errors => decide (controller < 4) && errors.ok
  | .txcan who controller _ _ => who.ok && decide (controller < 4)
  | .busOff controller errors => decide (controller < 4) && errors.ok
  | .recover who controller _ => who.ok && decide (controller < 4)
  | .recoveryDone controller => decide (controller < 4)
  | .fifoAck who controller fifo _ => who.ok && decide (controller < 4) && decide (fifo < 2)
  | .hprel who controller _ => who.ok && decide (controller < 4)
  | .hostAccess bar _ n write _ _ => decide (bar < 6) && decide (0 < n) && dataFits n write
  | .pcieLinkChange _ rate width ltssm => decide (rate < 16) && decide (width < 64) && decide (ltssm < 64)
  | .flr => true
  | .msiX vector => decide (vector < 64)
  | .spiId => true
  | .spiRead addr n => fits addr (4 * n)
  | .spiWrite addr data => fits addr (4 * data.length)
  | .spiAbandon addr reads data => fits addr (4 * (reads + data.length))
  | .mbxSend who _ => who.ok
  | .pop who channel => who.ok && decide (channel < 64)
  | .ring who _ => who.ok
  | .dmiRead who _ => who.ok
  | .dmiWrite who _ => who.ok
  | .haltRequest engine => decide (engine < 32)
  | .jtagAttach => true
  | .digest => true
  | .sign => true
  | .verify => true
  | .mac => true
  | .encrypt => true
  | .decrypt => true
  | .publicKey => true
  | .quote => true
  | .keyInvalidate => true
  | .reclaimed => true
  | .provision => true
  | .transition => true
  | .random => true
  | .keyClear who _ => who.ok
  | .faultRecordWrite => true
  | .injectLive who _ => who.ok
  | .injectShadow who _ => who.ok
  | .injectionTimeout => true
  | .injAbort who _ => who.ok
  | .fltClear who _ => who.ok
  | .gpioEdge gpio _ => decide (gpio < 128)

end Sys2Proof
end

