-- ==== Sys2Proof/Decode.lean ====
section
/-! DEFINITION. Decoding of command words: the table gives no row any bits, since the block takes commands and no encoded
instructions. -/
namespace Sys2Proof

/-- The command a word spells by the table's bits. No row of the table has bits, so no word spells one (log entry 1). -/
def decodeTableWord (_nbits _w : Nat) : Option Instr := none

end Sys2Proof
end

