-- ==== Sys2Proof/Machine/Bits.lean ====
section
/-! DEFINITION. Bit fields of register words, bytes and little-endian numbers, two's complement, saturating
counters, and the CRC-32 of the stored records. -/
namespace Sys2Proof.Machine

/-- Field `[hi:lo]` of a word, as a number. -/
def field (w : Word) (hi lo : Nat) : Nat := (w.toNat / 2 ^ lo) % 2 ^ (hi + 1 - lo)

/-- `w` with field `[hi:lo]` set to `v` (its low bits). -/
def setField (w : Word) (hi lo v : Nat) : Word :=
  let span := 2 ^ (hi + 1 - lo)
  let old := (w.toNat / 2 ^ lo) % span
  BitVec.ofNat 32 (w.toNat - old * 2 ^ lo + (v % span) * 2 ^ lo)

/-- Bit `i` of a number. -/
def bit (n i : Nat) : Bool := (n / 2 ^ i) % 2 == 1

/-- The number with bit `i` set. -/
def setBit (n i : Nat) : Nat := if bit n i then n else n + 2 ^ i

/-- The number with bit `i` clear. -/
def clearBit (n i : Nat) : Nat := if bit n i then n - 2 ^ i else n

/-- 1 for true, 0 for false. -/
def ofBool (b : Bool) : Nat := if b then 1 else 0

/-- The positions below `n` whose bits are 1 in `m`, in rising order. -/
def bitsOf (m n : Nat) : List Nat := (List.range n).filter (bit m)

/-- The low `k` bits, read as a two's complement number. -/
def signed (k n : Nat) : Int :=
  let m := n % 2 ^ k
  if 2 * m < 2 ^ k then (m : Int) else (m : Int) - ((2 ^ k : Nat) : Int)

/-- The two's complement of an integer in `k` bits. -/
def unsigned (k : Nat) (i : Int) : Nat := (i % ((2 ^ k : Nat) : Int)).toNat

/-- An integer clamped to `[lo, hi]`. -/
def clampInt (lo hi i : Int) : Int := if i < lo then lo else if hi < i then hi else i

/-- A number clamped to `[lo, hi]` (R709). -/
def clampNat (lo hi n : Nat) : Nat := if n < lo then lo else if hi < n then hi else n

/-- The integer in 32 bits, saturating. -/
def sat32 (i : Int) : Int := clampInt (-2147483648) 2147483647 i

/-- The nearest integer to `n / d`, a tie away from zero (DEDUCED, log entry 27: the spec says "rounded" without a tie rule). -/
def roundDiv (n : Int) (d : Nat) : Int :=
  if d = 0 then 0
  else if 0 ≤ n then (2 * n + d) / (2 * (d : Int)) else -((2 * (-n) + d) / (2 * (d : Int)))

/-- The number of `n` little-endian bytes (R12). -/
def leNat : List Byte → Nat
  | [] => 0
  | b :: bs => b.toNat + 256 * leNat bs

/-- The low `n` bytes of a number, least significant first (R12). -/
def leBytes : Nat → Nat → List Byte
  | 0, _ => []
  | n + 1, v => BitVec.ofNat 8 v :: leBytes n (v / 256)

/-- `n` bytes of a list from `off`; past its end the bytes are 0. -/
def slice (bs : List Byte) (off n : Nat) : List Byte :=
  let t := (bs.drop off).take n
  t ++ List.replicate (n - t.length) 0#8

/-- Unsigned 8-, 16-, 32- and 64-bit little-endian fields at a byte offset. -/
def u8 (bs : List Byte) (off : Nat) : Nat := leNat (slice bs off 1)
def u16 (bs : List Byte) (off : Nat) : Nat := leNat (slice bs off 2)
def u32 (bs : List Byte) (off : Nat) : Nat := leNat (slice bs off 4)
def u64 (bs : List Byte) (off : Nat) : Nat := leNat (slice bs off 8)

/-- Signed little-endian fields. -/
def i8 (bs : List Byte) (off : Nat) : Int := signed 8 (u8 bs off)
def i16 (bs : List Byte) (off : Nat) : Int := signed 16 (u16 bs off)
def i32 (bs : List Byte) (off : Nat) : Int := signed 32 (u32 bs off)

/-- The bytes of `bs` with those of `new` laid over them from `off`. -/
def patchBytes (bs : List Byte) (off : Nat) (new : List Byte) : List Byte :=
  slice bs 0 off ++ new ++ bs.drop (off + new.length)

/-- Whether `n` is a power of two. -/
def isPow2 (n : Nat) : Bool := n != 0 && 2 ^ n.log2 == n

/-- `a ≤ b` in a sequence modulo `2 ^ k`: `b` is at most half the range ahead of `a` (R706). -/
def seqNewer (k b a : Nat) : Bool := (b + 2 ^ k - a % 2 ^ k) % 2 ^ k < 2 ^ (k - 1)

/-- One bit of the reflected CRC-32 register, polynomial 0xEDB8_8320. -/
def crcBit (c : Nat) : Nat := if c % 2 == 1 then (c / 2) ^^^ 0xEDB88320 else c / 2

/-- The CRC-32 register after one byte. -/
def crcByte (c : Nat) (b : Byte) : Nat :=
  crcBit (crcBit (crcBit (crcBit (crcBit (crcBit (crcBit (crcBit (c ^^^ b.toNat))))))))

/-- CRC-32 of a byte string: initial and final value all ones. -/
def crc32 (bs : List Byte) : Nat := (bs.foldl crcByte 0xFFFFFFFF) ^^^ 0xFFFFFFFF

end Sys2Proof.Machine
end

