-- ==== Sys2Proof/Machine/Reg.lean ====
section
/-! DEFINITION. The places of the registers, as offsets from 0x00_8000_0000: the window of each block (01, "Register
windows") plus the offset of each block's register table. -/
namespace Sys2Proof.Machine

/-- SYS.ID. -/
def Reg.sysId : Nat := 0x0
/-- SYS.UNITS. -/
def Reg.sysUnits : Nat := 0x4
/-- SYS.COUNTS. -/
def Reg.sysCounts : Nat := 0x8
/-- SYS.COUNTS2. -/
def Reg.sysCounts2 : Nat := 0xC
/-- DDR.STATUS. -/
def Reg.ddrStatus : Nat := 0x320000
/-- DDR.CTRL. -/
def Reg.ddrCtrl : Nat := 0x320004
/-- DDR.TRAIN. -/
def Reg.ddrTrain : Nat := 0x320008
/-- DDR.CE. -/
def Reg.ddrCe : Nat := 0x32000C
/-- DDR.UE. -/
def Reg.ddrUe : Nat := 0x320010
/-- DDR.ERRADDR_LO. -/
def Reg.ddrErraddrLo : Nat := 0x320014
/-- DDR.ERRADDR_HI. -/
def Reg.ddrErraddrHi : Nat := 0x320018
/-- DDR.CE_THRESH. -/
def Reg.ddrCeThresh : Nat := 0x32001C
/-- DDR.REFRESH. -/
def Reg.ddrRefresh : Nat := 0x320020
/-- DDR.CLEAR. -/
def Reg.ddrClear : Nat := 0x320024
/-- SYS.PAIRS. -/
def Reg.sysPairs : Nat := 0x10
/-- SYS.FENCE. -/
def Reg.sysFence : Nat := 0x14
/-- SYS.UNFENCE. -/
def Reg.sysUnfence : Nat := 0x18
/-- SYS.SCRUB. -/
def Reg.sysScrub : Nat := 0x1C
/-- SYS.SCRUB_STAT. -/
def Reg.sysScrubStat : Nat := 0x20
/-- SYS.MEMSIZE. -/
def Reg.sysMemsize : Nat := 0x24
/-- SYS.MODE. -/
def Reg.sysMode : Nat := 0x40
/-- SYS.RSTCAUSE. -/
def Reg.sysRstcause : Nat := 0x44
/-- SYS.RESET. -/
def Reg.sysReset : Nat := 0x48
/-- SYS.SAFE_REQ. -/
def Reg.sysSafeReq : Nat := 0x4C
/-- SYS.BOOT. -/
def Reg.sysBoot : Nat := 0x50
/-- PMU.CTRL. -/
def Reg.pmuCtrl : Nat := 0x10000
/-- PMU.VCORE. -/
def Reg.pmuVcore : Nat := 0x10004
/-- PMU.ICORE. -/
def Reg.pmuIcore : Nat := 0x10008
/-- PMU.RAILS. -/
def Reg.pmuRails : Nat := 0x1000C
/-- PMU.PFI. -/
def Reg.pmuPfi : Nat := 0x10010
/-- PMU.BATCTL. -/
def Reg.pmuBatctl : Nat := 0x10014
/-- PMU.BATSTAT. -/
def Reg.pmuBatstat : Nat := 0x10018
/-- PMU.PHASES. -/
def Reg.pmuPhases : Nat := 0x1001C
/-- BLK.STATUS. -/
def Reg.blkStatus : Nat := 0x20000
/-- BLK.GEN. -/
def Reg.blkGen : Nat := 0x20004
/-- BLK.RGEN0. -/
def Reg.blkRgen0 : Nat := 0x20008
/-- BLK.RGEN1. -/
def Reg.blkRgen1 : Nat := 0x2000C
/-- BLK.RGEN2. -/
def Reg.blkRgen2 : Nat := 0x20010
/-- BLK.RGEN3. -/
def Reg.blkRgen3 : Nat := 0x20014
/-- BLK.LOADERR. -/
def Reg.blkLoaderr : Nat := 0x20018
/-- BLK.LOADOFF. -/
def Reg.blkLoadoff : Nat := 0x2001C
/-- BLK.SUBMIT. -/
def Reg.blkSubmit : Nat := 0x20020
/-- BLK.QTIMEOUT. -/
def Reg.blkQtimeout : Nat := 0x20024
/-- BLK.CTRL. -/
def Reg.blkCtrl : Nat := 0x20028
/-- BLK.CMD. -/
def Reg.blkCmd : Nat := 0x20030
/-- BLK.SRC_LO. -/
def Reg.blkSrcLo : Nat := 0x20034
/-- BLK.SRC_HI. -/
def Reg.blkSrcHi : Nat := 0x20038
/-- BLK.SRC_LEN. -/
def Reg.blkSrcLen : Nat := 0x2003C
/-- BLK.CMDSTAT. -/
def Reg.blkCmdstat : Nat := 0x20040
/-- BLK.CKPT_DISCARD. -/
def Reg.blkCkptDiscard : Nat := 0x20044
/-- BLK.REQINIT, window and index. -/
def Reg.blkReqinit (i : Nat) : Nat := 0x20050 + 0x4 * i
/-- BLK.DIGEST, window and index. -/
def Reg.blkDigest (i : Nat) : Nat := 0x20080 + 0x4 * i
/-- SPN.CFG, window and index. -/
def Reg.spnCfg (i : Nat) : Nat := 0xA0000 + 0x40 * i
/-- SPN.STATE, window and index. -/
def Reg.spnState (i : Nat) : Nat := 0xA0004 + 0x40 * i
/-- SPN.ANGLE, window and index. -/
def Reg.spnAngle (i : Nat) : Nat := 0xA0008 + 0x40 * i
/-- SPN.REV, window and index. -/
def Reg.spnRev (i : Nat) : Nat := 0xA000C + 0x40 * i
/-- SPN.TRAV_LO, window and index. -/
def Reg.spnTravLo (i : Nat) : Nat := 0xA0010 + 0x40 * i
/-- SPN.TRAV_HI, window and index. -/
def Reg.spnTravHi (i : Nat) : Nat := 0xA0014 + 0x40 * i
/-- SPN.RATE, window and index. -/
def Reg.spnRate (i : Nat) : Nat := 0xA0018 + 0x40 * i
/-- SPN.STALLS, window and index. -/
def Reg.spnStalls (i : Nat) : Nat := 0xA001C + 0x40 * i
/-- SPN.HOSTADV, window and index. -/
def Reg.spnHostadv (i : Nat) : Nat := 0xA0020 + 0x40 * i
/-- SPN.PEND_LO, window and index. -/
def Reg.spnPendLo (i : Nat) : Nat := 0xA0200 + 0x8 * i
/-- SPN.PEND_HI, window and index. -/
def Reg.spnPendHi (i : Nat) : Nat := 0xA0204 + 0x8 * i
/-- SPN.CMP_ANGLE, window and index. -/
def Reg.spnCmpAngle (i j : Nat) : Nat := 0xA1000 + 0x200 * i + 0x8 * j
/-- SPN.CMP_CTL, window and index. -/
def Reg.spnCmpCtl (i j : Nat) : Nat := 0xA1004 + 0x200 * i + 0x8 * j
/-- TIM.CTRL. -/
def Reg.timCtrl : Nat := 0x90000
/-- TIM.STATUS. -/
def Reg.timStatus : Nat := 0x90004
/-- TIM.NOW_NS. -/
def Reg.timNowNs : Nat := 0x90008
/-- TIM.NOW_SLO. -/
def Reg.timNowSlo : Nat := 0x9000C
/-- TIM.NOW_SHI. -/
def Reg.timNowShi : Nat := 0x90010
/-- TIM.INCR_FRAC. -/
def Reg.timIncrFrac : Nat := 0x90014
/-- TIM.INCR_INT. -/
def Reg.timIncrInt : Nat := 0x90018
/-- TIM.STEP_SEC. -/
def Reg.timStepSec : Nat := 0x9001C
/-- TIM.STEP_NS. -/
def Reg.timStepNs : Nat := 0x90020
/-- TIM.STEP_GO. -/
def Reg.timStepGo : Nat := 0x90024
/-- TIM.OFFSET. -/
def Reg.timOffset : Nat := 0x90028
/-- TIM.HOLD_S. -/
def Reg.timHoldS : Nat := 0x9002C
/-- TIM.JUMP_LIMIT. -/
def Reg.timJumpLimit : Nat := 0x90030
/-- TIM.JUMP_CONFIRM. -/
def Reg.timJumpConfirm : Nat := 0x90034
/-- TIM.ACCEPT_JUMP. -/
def Reg.timAcceptJump : Nat := 0x90038
/-- TIM.CAND_SEC. -/
def Reg.timCandSec : Nat := 0x9003C
/-- TIM.CAND_NS. -/
def Reg.timCandNs : Nat := 0x90040
/-- TIM.LOCK_THRESH. -/
def Reg.timLockThresh : Nat := 0x90044
/-- TIM.UTC_OFFSET. -/
def Reg.timUtcOffset : Nat := 0x90048
/-- TIM.SERVO. -/
def Reg.timServo : Nat := 0x9004C
/-- TIM.STEPS. -/
def Reg.timSteps : Nat := 0x90050
/-- TIM.PORT_STATE, window and index. -/
def Reg.timPortState (i : Nat) : Nat := 0x90100 + 0x10 * i
/-- TIM.ASYM, window and index. -/
def Reg.timAsym (i : Nat) : Nat := 0x90104 + 0x10 * i
/-- TIM.PDELAY, window and index. -/
def Reg.timPdelay (i : Nat) : Nat := 0x90108 + 0x10 * i
/-- RTC.CTRL. -/
def Reg.rtcCtrl : Nat := 0x80000
/-- RTC.STATUS. -/
def Reg.rtcStatus : Nat := 0x80004
/-- RTC.SUBSEC. -/
def Reg.rtcSubsec : Nat := 0x80010
/-- RTC.SEC. -/
def Reg.rtcSec : Nat := 0x80014
/-- RTC.MIN. -/
def Reg.rtcMin : Nat := 0x80018
/-- RTC.HOUR. -/
def Reg.rtcHour : Nat := 0x8001C
/-- RTC.WDAY. -/
def Reg.rtcWday : Nat := 0x80020
/-- RTC.DAY. -/
def Reg.rtcDay : Nat := 0x80024
/-- RTC.MONTH. -/
def Reg.rtcMonth : Nat := 0x80028
/-- RTC.YEAR. -/
def Reg.rtcYear : Nat := 0x8002C
/-- RTC.FRAC. -/
def Reg.rtcFrac : Nat := 0x80040
/-- RTC.SEC_LO. -/
def Reg.rtcSecLo : Nat := 0x80044
/-- RTC.SEC_HI. -/
def Reg.rtcSecHi : Nat := 0x80048
/-- RTC.SET_TIME. -/
def Reg.rtcSetTime : Nat := 0x80060
/-- RTC.SET_DATE. -/
def Reg.rtcSetDate : Nat := 0x80064
/-- RTC.SET_BIN_LO. -/
def Reg.rtcSetBinLo : Nat := 0x80068
/-- RTC.SET_BIN_HI. -/
def Reg.rtcSetBinHi : Nat := 0x8006C
/-- RTC.COMMIT. -/
def Reg.rtcCommit : Nat := 0x80070
/-- RTC.TRIM. -/
def Reg.rtcTrim : Nat := 0x80074
/-- RTC.MEAS_CTRL. -/
def Reg.rtcMeasCtrl : Nat := 0x80078
/-- RTC.MEAS_RESULT. -/
def Reg.rtcMeasResult : Nat := 0x8007C
/-- RTC.MEAS_CYC_LO. -/
def Reg.rtcMeasCycLo : Nat := 0x80080
/-- RTC.MEAS_CYC_HI. -/
def Reg.rtcMeasCycHi : Nat := 0x80084
/-- WRD.STATUS. -/
def Reg.wrdStatus : Nat := 0xB0000
/-- WRD.PERIODS. -/
def Reg.wrdPeriods : Nat := 0xB0004
/-- WRD.LATE. -/
def Reg.wrdLate : Nat := 0xB0008
/-- WRD.LASTLEN. -/
def Reg.wrdLastlen : Nat := 0xB000C
/-- WRD.EXH_MAP_LO. -/
def Reg.wrdExhMapLo : Nat := 0xB0010
/-- WRD.EXH_MAP_HI. -/
def Reg.wrdExhMapHi : Nat := 0xB0014
/-- WRD.IE_LO. -/
def Reg.wrdIeLo : Nat := 0xB0018
/-- WRD.IE_HI. -/
def Reg.wrdIeHi : Nat := 0xB001C
/-- WRD.CLEAR. -/
def Reg.wrdClear : Nat := 0xB0020
/-- WRD.HCFG, window and index. -/
def Reg.wrdHcfg (i : Nat) : Nat := 0xB0100 + 0x10 * i
/-- WRD.HEXH_CR, window and index. -/
def Reg.wrdHexhCr (i : Nat) : Nat := 0xB0104 + 0x10 * i
/-- WRD.HEXH_BC, window and index. -/
def Reg.wrdHexhBc (i : Nat) : Nat := 0xB0108 + 0x10 * i
/-- WRD.HBORROW, window and index. -/
def Reg.wrdHborrow (i : Nat) : Nat := 0xB010C + 0x10 * i
/-- ADP.ENABLE. -/
def Reg.adpEnable : Nat := 0xC0000
/-- ADP.FREEZE. -/
def Reg.adpFreeze : Nat := 0xC0004
/-- ADP.STATUS. -/
def Reg.adpStatus : Nat := 0xC0008
/-- ADP.TEMP. -/
def Reg.adpTemp : Nat := 0xC000C
/-- ADP.AVS, window and index. -/
def Reg.adpAvs (i : Nat) : Nat := 0xC0010 + 0x4 * i
/-- ADP.DFS0. -/
def Reg.adpDfs0 : Nat := 0xC0030
/-- ADP.DFS1. -/
def Reg.adpDfs1 : Nat := 0xC0034
/-- ADP.EQ_LO, window and index. -/
def Reg.adpEqLo (i : Nat) : Nat := 0xC0040 + 0x8 * i
/-- ADP.EQ_HI, window and index. -/
def Reg.adpEqHi (i : Nat) : Nat := 0xC0044 + 0x8 * i
/-- ADP.PLACE. -/
def Reg.adpPlace : Nat := 0xC0060
/-- ADP.STORE. -/
def Reg.adpStore : Nat := 0xC0064
/-- ADP.LASTGOOD. -/
def Reg.adpLastgood : Nat := 0xC0068
/-- LTH.STATUS, window and index. -/
def Reg.lthStatus (w : Nat) : Nat := 0x100000 + 0x10000 * w
/-- LTH.QCTRL, window and index. -/
def Reg.lthQctrl (w : Nat) : Nat := 0x100004 + 0x10000 * w
/-- LTH.SUBMIT, window and index. -/
def Reg.lthSubmit (w : Nat) : Nat := 0x100008 + 0x10000 * w
/-- LTH.TICKET, window and index. -/
def Reg.lthTicket (w : Nat) : Nat := 0x10000C + 0x10000 * w
/-- LTH.CANCEL, window and index. -/
def Reg.lthCancel (w : Nat) : Nat := 0x100010 + 0x10000 * w
/-- LTH.WARM, window and index. -/
def Reg.lthWarm (w : Nat) : Nat := 0x100014 + 0x10000 * w
/-- LTH.QDEPTH, window and index. -/
def Reg.lthQdepth (w : Nat) : Nat := 0x100018 + 0x10000 * w
/-- LTH.QWATER, window and index. -/
def Reg.lthQwater (w : Nat) : Nat := 0x10001C + 0x10000 * w
/-- LTH.RUN_LO, window and index. -/
def Reg.lthRunLo (w : Nat) : Nat := 0x100020 + 0x10000 * w
/-- LTH.RUN_HI, window and index. -/
def Reg.lthRunHi (w : Nat) : Nat := 0x100024 + 0x10000 * w
/-- LTH.OUT_LO, window and index. -/
def Reg.lthOutLo (w : Nat) : Nat := 0x100028 + 0x10000 * w
/-- LTH.OUT_HI, window and index. -/
def Reg.lthOutHi (w : Nat) : Nat := 0x10002C + 0x10000 * w
/-- LTH.CELLFAIL, window and index. -/
def Reg.lthCellfail (w i : Nat) : Nat := 0x100030 + 0x10000 * w + 0x4 * i
/-- LTH.N_OK, window and index. -/
def Reg.lthNOk (w : Nat) : Nat := 0x100050 + 0x10000 * w
/-- LTH.N_NC, window and index. -/
def Reg.lthNNc (w : Nat) : Nat := 0x100054 + 0x10000 * w
/-- LTH.N_MISS, window and index. -/
def Reg.lthNMiss (w : Nat) : Nat := 0x100058 + 0x10000 * w
/-- LTH.N_PRED, window and index. -/
def Reg.lthNPred (w : Nat) : Nat := 0x10005C + 0x10000 * w
/-- LTH.N_ERR, window and index. -/
def Reg.lthNErr (w : Nat) : Nat := 0x100060 + 0x10000 * w
/-- LTH.CLEAR, window and index. -/
def Reg.lthClear (w : Nat) : Nat := 0x100064 + 0x10000 * w
/-- LTH.CHUCK, window and index. -/
def Reg.lthChuck (w i : Nat) : Nat := 0x100100 + 0x10000 * w + 0x4 * i
/-- LTH.RATE, window and index. -/
def Reg.lthRate (w i : Nat) : Nat := 0x100200 + 0x10000 * w + 0x4 * i
/-- FED.STATUS. -/
def Reg.fedStatus : Nat := 0x140000
/-- FED.CTRL. -/
def Reg.fedCtrl : Nat := 0x140004
/-- FED.STALE_ROUNDS. -/
def Reg.fedStaleRounds : Nat := 0x140008
/-- FED.BUDGET. -/
def Reg.fedBudget : Nat := 0x14000C
/-- FED.ROUND. -/
def Reg.fedRound : Nat := 0x140010
/-- FED.PLAN. -/
def Reg.fedPlan : Nat := 0x140014
/-- FED.CLAIM_HI. -/
def Reg.fedClaimHi : Nat := 0x140018
/-- FED.MCTL. -/
def Reg.fedMctl : Nat := 0x14001C
/-- FED.MSTATUS. -/
def Reg.fedMstatus : Nat := 0x140020
/-- FED.RESID_P. -/
def Reg.fedResidP : Nat := 0x140024
/-- FED.RESID_D. -/
def Reg.fedResidD : Nat := 0x140028
/-- FED.RHO. -/
def Reg.fedRho : Nat := 0x14002C
/-- FED.COUNT0. -/
def Reg.fedCount0 : Nat := 0x140030
/-- FED.COUNT1. -/
def Reg.fedCount1 : Nat := 0x140034
/-- FED.DROP_CLAIM. -/
def Reg.fedDropClaim : Nat := 0x140040
/-- FED.DROP_GEN. -/
def Reg.fedDropGen : Nat := 0x140044
/-- FED.DROP_LATE. -/
def Reg.fedDropLate : Nat := 0x140048
/-- FED.MISSED. -/
def Reg.fedMissed : Nat := 0x14004C
/-- FED.CLEAR. -/
def Reg.fedClear : Nat := 0x140050
/-- FED.CHILD, window and index. -/
def Reg.fedChild (i : Nat) : Nat := 0x141000 + 0x4 * i
/-- TSK.STATUS. -/
def Reg.tskStatus : Nat := 0x180000
/-- TSK.DONE. -/
def Reg.tskDone : Nat := 0x180008
/-- TSK.TRIGGER. -/
def Reg.tskTrigger : Nat := 0x18000C
/-- TSK.SELF. -/
def Reg.tskSelf : Nat := 0x180010
/-- TSK.PMODE, window and index. -/
def Reg.tskPmode (i : Nat) : Nat := 0x180020 + 0x4 * i
/-- TSK.OVR_MAP, window and index. -/
def Reg.tskOvrMap (i : Nat) : Nat := 0x180060 + 0x4 * i
/-- TSK.CLEAR. -/
def Reg.tskClear : Nat := 0x180070
/-- TSK.TCFG, window and index. -/
def Reg.tskTcfg (i : Nat) : Nat := 0x181000 + 0x20 * i
/-- TSK.TSTATE, window and index. -/
def Reg.tskTstate (i : Nat) : Nat := 0x181004 + 0x20 * i
/-- TSK.RELEASES, window and index. -/
def Reg.tskReleases (i : Nat) : Nat := 0x181008 + 0x20 * i
/-- TSK.OVERRUNS, window and index. -/
def Reg.tskOverruns (i : Nat) : Nat := 0x18100C + 0x20 * i
/-- TSK.LAST_START, window and index. -/
def Reg.tskLastStart (i : Nat) : Nat := 0x181010 + 0x20 * i
/-- TSK.MAX_START, window and index. -/
def Reg.tskMaxStart (i : Nat) : Nat := 0x181014 + 0x20 * i
/-- TSK.MAX_EXEC, window and index. -/
def Reg.tskMaxExec (i : Nat) : Nat := 0x181018 + 0x20 * i
/-- TSK.SKIPS, window and index. -/
def Reg.tskSkips (i : Nat) : Nat := 0x18101C + 0x20 * i
/-- CLE.STATUS. -/
def Reg.cleStatus : Nat := 0x190000
/-- CLE.CTRL. -/
def Reg.cleCtrl : Nat := 0x190004
/-- CLE.SWEEPS. -/
def Reg.cleSweeps : Nat := 0x190008
/-- CLE.MISSES. -/
def Reg.cleMisses : Nat := 0x19000C
/-- CLE.LOAD. -/
def Reg.cleLoad : Nat := 0x190010
/-- CLE.CLEAR. -/
def Reg.cleClear : Nat := 0x190014
/-- CLE.MISS_MAP, window and index. -/
def Reg.cleMissMap (i : Nat) : Nat := 0x190020 + 0x4 * i
/-- CLE.LEN, window and index. -/
def Reg.cleLen (i : Nat) : Nat := 0x190040 + 0x4 * i
/-- CLE.TSEL. -/
def Reg.cleTsel : Nat := 0x190100
/-- CLE.TK, window and index. -/
def Reg.cleTk (i : Nat) : Nat := 0x190104 + 0x4 * i
/-- CLE.TSH0. -/
def Reg.cleTsh0 : Nat := 0x190118
/-- CLE.TSH1. -/
def Reg.cleTsh1 : Nat := 0x19011C
/-- CLE.TLO. -/
def Reg.cleTlo : Nat := 0x190120
/-- CLE.THI. -/
def Reg.cleThi : Nat := 0x190124
/-- CLE.TGO. -/
def Reg.cleTgo : Nat := 0x190128
/-- CLE.TSTAT. -/
def Reg.cleTstat : Nat := 0x19012C
/-- CLE.GRP, window and index. -/
def Reg.cleGrp (i : Nat) : Nat := 0x190200 + 0x4 * i
/-- CLE.LSTATE, window and index. -/
def Reg.cleLstate (i : Nat) : Nat := 0x198000 + 0x40 * i
/-- CLE.LMISS, window and index. -/
def Reg.cleLmiss (i : Nat) : Nat := 0x198004 + 0x40 * i
/-- CLE.LOUT0, window and index. -/
def Reg.cleLout0 (i : Nat) : Nat := 0x198008 + 0x40 * i
/-- CLE.LOUT1, window and index. -/
def Reg.cleLout1 (i : Nat) : Nat := 0x19800C + 0x40 * i
/-- CLE.LP, window and index. -/
def Reg.cleLp (i j : Nat) : Nat := 0x198010 + 0x40 * i + 0x4 * j
/-- CLE.LEXEC, window and index. -/
def Reg.cleLexec (i : Nat) : Nat := 0x198020 + 0x40 * i
/-- FUS.STATUS. -/
def Reg.fusStatus : Nat := 0x200000
/-- FUS.CTRL. -/
def Reg.fusCtrl : Nat := 0x200004
/-- FUS.DRIFT_TOL. -/
def Reg.fusDriftTol : Nat := 0x200008
/-- FUS.DROPOUT. -/
def Reg.fusDropout : Nat := 0x20000C
/-- FUS.PUSH. -/
def Reg.fusPush : Nat := 0x200010
/-- FUS.PUSHSTAT. -/
def Reg.fusPushstat : Nat := 0x200014
/-- FUS.LATE_DROP. -/
def Reg.fusLateDrop : Nat := 0x200018
/-- FUS.OVERFLOW. -/
def Reg.fusOverflow : Nat := 0x20001C
/-- FUS.CLEAR. -/
def Reg.fusClear : Nat := 0x200020
/-- FUS.RVWR, window and index. -/
def Reg.fusRvwr (i : Nat) : Nat := 0x200030 + 0x4 * i
/-- FUS.GCFG, window and index. -/
def Reg.fusGcfg (i : Nat) : Nat := 0x200100 + 0x10 * i
/-- FUS.GSTATE, window and index. -/
def Reg.fusGstate (i : Nat) : Nat := 0x200104 + 0x10 * i
/-- FUS.GATE, window and index. -/
def Reg.fusGate (i : Nat) : Nat := 0x200108 + 0x10 * i
/-- FUS.WAIT, window and index. -/
def Reg.fusWait (i : Nat) : Nat := 0x20010C + 0x10 * i
/-- FUS.SSTATE, window and index. -/
def Reg.fusSstate (i : Nat) : Nat := 0x200800 + 0x10 * i
/-- FUS.SDRIFT, window and index. -/
def Reg.fusSdrift (i : Nat) : Nat := 0x200804 + 0x10 * i
/-- FUS.SRESID, window and index. -/
def Reg.fusSresid (i : Nat) : Nat := 0x200808 + 0x10 * i
/-- FUS.SCOUNT, window and index. -/
def Reg.fusScount (i : Nat) : Nat := 0x20080C + 0x10 * i
/-- MET.STATUS. -/
def Reg.metStatus : Nat := 0x210000
/-- MET.CTRL. -/
def Reg.metCtrl : Nat := 0x210004
/-- MET.INTERVAL. -/
def Reg.metInterval : Nat := 0x210008
/-- MET.SAVE_PERIOD. -/
def Reg.metSavePeriod : Nat := 0x21000C
/-- MET.JOURNAL. -/
def Reg.metJournal : Nat := 0x210010
/-- MET.RESTORE. -/
def Reg.metRestore : Nat := 0x210014
/-- MET.LOST_LO. -/
def Reg.metLostLo : Nat := 0x210018
/-- MET.LOST_HI. -/
def Reg.metLostHi : Nat := 0x21001C
/-- MET.SAVE. -/
def Reg.metSave : Nat := 0x210020
/-- MET.CLEAR. -/
def Reg.metClear : Nat := 0x210024
/-- MET.GAPS. -/
def Reg.metGaps : Nat := 0x210028
/-- MET.WAVEPOS. -/
def Reg.metWavepos : Nat := 0x21002C
/-- MET.PCONST, window and index. -/
def Reg.metPconst (i : Nat) : Nat := 0x210040 + 0x4 * i
/-- MET.PSTAT, window and index. -/
def Reg.metPstat (i : Nat) : Nat := 0x210050 + 0x4 * i
/-- MET.TAMPER. -/
def Reg.metTamper : Nat := 0x210060
/-- MET.PINCNT, window and index. -/
def Reg.metPincnt (i : Nat) : Nat := 0x210070 + 0x4 * i
/-- MET.CSCALE, window and index. -/
def Reg.metCscale (i : Nat) : Nat := 0x210100 + 0x10 * i
/-- MET.COFF, window and index. -/
def Reg.metCoff (i : Nat) : Nat := 0x210104 + 0x10 * i
/-- MET.CPHASE, window and index. -/
def Reg.metCphase (i : Nat) : Nat := 0x210108 + 0x10 * i
/-- MET.RGAIN, window and index. -/
def Reg.metRgain (i : Nat) : Nat := 0x210180 + 0x10 * i
/-- MET.ROFF, window and index. -/
def Reg.metRoff (i : Nat) : Nat := 0x210184 + 0x10 * i
/-- MET.RLEAD, window and index. -/
def Reg.metRlead (i : Nat) : Nat := 0x210188 + 0x10 * i
/-- MET.PGAIN, window and index. -/
def Reg.metPgain (i j : Nat) : Nat := 0x210200 + 0x40 * i + 0x10 * j
/-- MET.QGAIN, window and index. -/
def Reg.metQgain (i j : Nat) : Nat := 0x210204 + 0x40 * i + 0x10 * j
/-- MET.POFF, window and index. -/
def Reg.metPoff (i j : Nat) : Nat := 0x210208 + 0x40 * i + 0x10 * j
/-- MET.MODE, window and index. -/
def Reg.metMode (i j : Nat) : Nat := 0x21020C + 0x40 * i + 0x10 * j
/-- MET.REG_LO, window and index. -/
def Reg.metRegLo (i : Nat) : Nat := 0x210400 + 0x8 * i
/-- MET.REG_HI, window and index. -/
def Reg.metRegHi (i : Nat) : Nat := 0x210404 + 0x8 * i
/-- MET.BLK, window and index. -/
def Reg.metBlk (i : Nat) : Nat := 0x210800 + 0x4 * i
/-- MET.XSCALE, window and index. -/
def Reg.metXscale (i : Nat) : Nat := 0x211000 + 0x10 * i
/-- MET.XOFF, window and index. -/
def Reg.metXoff (i : Nat) : Nat := 0x211004 + 0x10 * i
/-- MET.XPHASE, window and index. -/
def Reg.metXphase (i : Nat) : Nat := 0x211008 + 0x10 * i
/-- HNG.STATUS. -/
def Reg.hngStatus : Nat := 0x60000
/-- HNG.CLAIM. -/
def Reg.hngClaim : Nat := 0x60004
/-- HNG.EPOCH. -/
def Reg.hngEpoch : Nat := 0x60008
/-- HNG.HEALTH. -/
def Reg.hngHealth : Nat := 0x6000C
/-- HNG.CMD. -/
def Reg.hngCmd : Nat := 0x60010
/-- HNG.CMDSTAT. -/
def Reg.hngCmdstat : Nat := 0x60014
/-- HNG.CKPT_PERIOD. -/
def Reg.hngCkptPeriod : Nat := 0x60018
/-- HNG.PROOF_INTERVAL. -/
def Reg.hngProofInterval : Nat := 0x6001C
/-- HNG.REVERT_HOLD. -/
def Reg.hngRevertHold : Nat := 0x60020
/-- HNG.CTRL. -/
def Reg.hngCtrl : Nat := 0x60024
/-- HNG.CKSEQ. -/
def Reg.hngCkseq : Nat := 0x60028
/-- HNG.CKAGE. -/
def Reg.hngCkage : Nat := 0x6002C
/-- HNG.CKSIZE. -/
def Reg.hngCksize : Nat := 0x60030
/-- HNG.GAPBOUND. -/
def Reg.hngGapbound : Nat := 0x60034
/-- HNG.COUNTS. -/
def Reg.hngCounts : Nat := 0x60038
/-- HNG.PROOF. -/
def Reg.hngProof : Nat := 0x6003C
/-- HNG.PEER, window and index. -/
def Reg.hngPeer (i : Nat) : Nat := 0x60040 + 0x10 * i
/-- HNG.PCLAIM, window and index. -/
def Reg.hngPclaim (i : Nat) : Nat := 0x60044 + 0x10 * i
/-- HNG.PCKSEQ, window and index. -/
def Reg.hngPckseq (i : Nat) : Nat := 0x60048 + 0x10 * i
/-- HNG.CLEAR. -/
def Reg.hngClear : Nat := 0x60060
/-- LAT.STATUS. -/
def Reg.latStatus : Nat := 0x70000
/-- LAT.CTRL. -/
def Reg.latCtrl : Nat := 0x70004
/-- LAT.WINDOW. -/
def Reg.latWindow : Nat := 0x70008
/-- LAT.SAFE_LO. -/
def Reg.latSafeLo : Nat := 0x7000C
/-- LAT.SAFE_HI. -/
def Reg.latSafeHi : Nat := 0x70010
/-- LAT.FOREIGN. -/
def Reg.latForeign : Nat := 0x70014
/-- LAT.DUPS. -/
def Reg.latDups : Nat := 0x70018
/-- LAT.ARM_LO. -/
def Reg.latArmLo : Nat := 0x7001C
/-- LAT.ARM_HI. -/
def Reg.latArmHi : Nat := 0x70020
/-- LAT.CLEAR. -/
def Reg.latClear : Nat := 0x70024
/-- LAT.CSTATE, window and index. -/
def Reg.latCstate (i : Nat) : Nat := 0x70100 + 0x20 * i
/-- LAT.HIGHEST, window and index. -/
def Reg.latHighest (i : Nat) : Nat := 0x70104 + 0x20 * i
/-- LAT.VALUE, window and index. -/
def Reg.latValue (i : Nat) : Nat := 0x70108 + 0x20 * i
/-- LAT.HOLD, window and index. -/
def Reg.latHold (i : Nat) : Nat := 0x7010C + 0x20 * i
/-- LAT.CMD, window and index. -/
def Reg.latCmd (i : Nat) : Nat := 0x70110 + 0x20 * i
/-- LAT.AGE, window and index. -/
def Reg.latAge (i : Nat) : Nat := 0x70114 + 0x20 * i
/-- LAT.DROP, window and index. -/
def Reg.latDrop (i : Nat) : Nat := 0x70118 + 0x20 * i
/-- PRF.STATUS. -/
def Reg.prfStatus : Nat := 0x1A0000
/-- PRF.CTRL. -/
def Reg.prfCtrl : Nat := 0x1A0004
/-- PRF.GO. -/
def Reg.prfGo : Nat := 0x1A0008
/-- PRF.STOP. -/
def Reg.prfStop : Nat := 0x1A000C
/-- PRF.HALT. -/
def Reg.prfHalt : Nat := 0x1A0010
/-- PRF.IE. -/
def Reg.prfIe : Nat := 0x1A0014
/-- PRF.CMDSTAT. -/
def Reg.prfCmdstat : Nat := 0x1A0018
/-- PRF.ACFG, window and index. -/
def Reg.prfAcfg (i : Nat) : Nat := 0x1A0100 + 0x20 * i
/-- PRF.ASTATE, window and index. -/
def Reg.prfAstate (i : Nat) : Nat := 0x1A0104 + 0x20 * i
/-- PRF.POS, window and index. -/
def Reg.prfPos (i : Nat) : Nat := 0x1A0108 + 0x20 * i
/-- PRF.TGT, window and index. -/
def Reg.prfTgt (i : Nat) : Nat := 0x1A010C + 0x20 * i
/-- PRF.RATE, window and index. -/
def Reg.prfRate (i : Nat) : Nat := 0x1A0110 + 0x20 * i
/-- PRF.IDLE, window and index. -/
def Reg.prfIdle (i : Nat) : Nat := 0x1A0114 + 0x20 * i
/-- PRF.HOME, window and index. -/
def Reg.prfHome (i : Nat) : Nat := 0x1A0118 + 0x20 * i
/-- PRF.STEPS, window and index. -/
def Reg.prfSteps (i : Nat) : Nat := 0x1A011C + 0x20 * i
/-- PNL.STATUS. -/
def Reg.pnlStatus : Nat := 0x310000
/-- PNL.CTRL. -/
def Reg.pnlCtrl : Nat := 0x310004
/-- PNL.LIGHT. -/
def Reg.pnlLight : Nat := 0x310008
/-- PNL.FB_LO. -/
def Reg.pnlFbLo : Nat := 0x31000C
/-- PNL.FB_HI. -/
def Reg.pnlFbHi : Nat := 0x310010
/-- PNL.UPD_XY. -/
def Reg.pnlUpdXy : Nat := 0x310014
/-- PNL.UPD_WH. -/
def Reg.pnlUpdWh : Nat := 0x310018
/-- PNL.UPD_GO. -/
def Reg.pnlUpdGo : Nat := 0x31001C
/-- PNL.UPDSTAT. -/
def Reg.pnlUpdstat : Nat := 0x310020
/-- PNL.FRAMES. -/
def Reg.pnlFrames : Nat := 0x310024
/-- PNL.SKIPS. -/
def Reg.pnlSkips : Nat := 0x310028
/-- PNL.UNDERRUN. -/
def Reg.pnlUnderrun : Nat := 0x31002C
/-- PNL.RXY, window and index. -/
def Reg.pnlRxy (i : Nat) : Nat := 0x310100 + 0x10 * i
/-- PNL.RWH, window and index. -/
def Reg.pnlRwh (i : Nat) : Nat := 0x310104 + 0x10 * i
/-- PNL.RST, window and index. -/
def Reg.pnlRst (i : Nat) : Nat := 0x310108 + 0x10 * i
/-- MIL.STATUS, window and index. -/
def Reg.milStatus (w : Nat) : Nat := 0x280000 + 0x10000 * w
/-- MIL.CTRL, window and index. -/
def Reg.milCtrl (w : Nat) : Nat := 0x280004 + 0x10000 * w
/-- MIL.NEIGH, window and index. -/
def Reg.milNeigh (w : Nat) : Nat := 0x280008 + 0x10000 * w
/-- MIL.CRCERR, window and index. -/
def Reg.milCrcerr (w : Nat) : Nat := 0x28000C + 0x10000 * w
/-- MIL.RETRIES, window and index. -/
def Reg.milRetries (w : Nat) : Nat := 0x280010 + 0x10000 * w
/-- MIL.RETRAINS, window and index. -/
def Reg.milRetrains (w : Nat) : Nat := 0x280014 + 0x10000 * w
/-- MIL.DROPS, window and index. -/
def Reg.milDrops (w : Nat) : Nat := 0x280018 + 0x10000 * w
/-- MIL.KEYCTL, window and index. -/
def Reg.milKeyctl (w : Nat) : Nat := 0x28001C + 0x10000 * w
/-- MIL.CLEAR, window and index. -/
def Reg.milClear (w : Nat) : Nat := 0x280020 + 0x10000 * w
/-- MIL.VSTATE, window and index. -/
def Reg.milVstate (w i : Nat) : Nat := 0x280100 + 0x10000 * w + 0x20 * i
/-- MIL.TXTAIL, window and index. -/
def Reg.milTxtail (w i : Nat) : Nat := 0x280104 + 0x10000 * w + 0x20 * i
/-- MIL.TXHEAD, window and index. -/
def Reg.milTxhead (w i : Nat) : Nat := 0x280108 + 0x10000 * w + 0x20 * i
/-- MIL.RXTAIL, window and index. -/
def Reg.milRxtail (w i : Nat) : Nat := 0x28010C + 0x10000 * w + 0x20 * i
/-- MIL.RXHEAD, window and index. -/
def Reg.milRxhead (w i : Nat) : Nat := 0x280110 + 0x10000 * w + 0x20 * i
/-- ETH.STATUS. -/
def Reg.ethStatus : Nat := 0x2A0000
/-- ETH.CTRL. -/
def Reg.ethCtrl : Nat := 0x2A0004
/-- ETH.MDIO. -/
def Reg.ethMdio : Nat := 0x2A0008
/-- ETH.CLEAR. -/
def Reg.ethClear : Nat := 0x2A000C
/-- ETH.PSTATE, window and index. -/
def Reg.ethPstate (i : Nat) : Nat := 0x2A0100 + 0x40 * i
/-- ETH.TXTAIL, window and index. -/
def Reg.ethTxtail (i : Nat) : Nat := 0x2A0104 + 0x40 * i
/-- ETH.TXHEAD, window and index. -/
def Reg.ethTxhead (i : Nat) : Nat := 0x2A0108 + 0x40 * i
/-- ETH.RXTAIL, window and index. -/
def Reg.ethRxtail (i : Nat) : Nat := 0x2A010C + 0x40 * i
/-- ETH.RXHEAD, window and index. -/
def Reg.ethRxhead (i : Nat) : Nat := 0x2A0110 + 0x40 * i
/-- ETH.DROPS, window and index. -/
def Reg.ethDrops (i : Nat) : Nat := 0x2A0114 + 0x40 * i
/-- CAN.STATUS, window and index. -/
def Reg.canStatus (w : Nat) : Nat := 0x2B0000 + 0x10000 * w
/-- CAN.CTRL, window and index. -/
def Reg.canCtrl (w : Nat) : Nat := 0x2B0004 + 0x10000 * w
/-- CAN.NBT, window and index. -/
def Reg.canNbt (w : Nat) : Nat := 0x2B0008 + 0x10000 * w
/-- CAN.DBT, window and index. -/
def Reg.canDbt (w : Nat) : Nat := 0x2B000C + 0x10000 * w
/-- CAN.ECR, window and index. -/
def Reg.canEcr (w : Nat) : Nat := 0x2B0010 + 0x10000 * w
/-- CAN.TSC, window and index. -/
def Reg.canTsc (w : Nat) : Nat := 0x2B0014 + 0x10000 * w
/-- CAN.LOST, window and index. -/
def Reg.canLost (w : Nat) : Nat := 0x2B0018 + 0x10000 * w
/-- CAN.HWDROP, window and index. -/
def Reg.canHwdrop (w : Nat) : Nat := 0x2B001C + 0x10000 * w
/-- CAN.TXREQ_LO, window and index. -/
def Reg.canTxreqLo (w : Nat) : Nat := 0x2B0020 + 0x10000 * w
/-- CAN.TXREQ_HI, window and index. -/
def Reg.canTxreqHi (w : Nat) : Nat := 0x2B0024 + 0x10000 * w
/-- CAN.TXCAN_LO, window and index. -/
def Reg.canTxcanLo (w : Nat) : Nat := 0x2B0028 + 0x10000 * w
/-- CAN.TXCAN_HI, window and index. -/
def Reg.canTxcanHi (w : Nat) : Nat := 0x2B002C + 0x10000 * w
/-- CAN.TXDONE_LO, window and index. -/
def Reg.canTxdoneLo (w : Nat) : Nat := 0x2B0030 + 0x10000 * w
/-- CAN.TXDONE_HI, window and index. -/
def Reg.canTxdoneHi (w : Nat) : Nat := 0x2B0034 + 0x10000 * w
/-- CAN.TXFAIL_LO, window and index. -/
def Reg.canTxfailLo (w : Nat) : Nat := 0x2B0038 + 0x10000 * w
/-- CAN.TXFAIL_HI, window and index. -/
def Reg.canTxfailHi (w : Nat) : Nat := 0x2B003C + 0x10000 * w
/-- CAN.RXNEW_LO, window and index. -/
def Reg.canRxnewLo (w : Nat) : Nat := 0x2B0040 + 0x10000 * w
/-- CAN.RXNEW_HI, window and index. -/
def Reg.canRxnewHi (w : Nat) : Nat := 0x2B0044 + 0x10000 * w
/-- CAN.F0STAT, window and index. -/
def Reg.canF0stat (w : Nat) : Nat := 0x2B0048 + 0x10000 * w
/-- CAN.F0ACK, window and index. -/
def Reg.canF0ack (w : Nat) : Nat := 0x2B004C + 0x10000 * w
/-- CAN.F1STAT, window and index. -/
def Reg.canF1stat (w : Nat) : Nat := 0x2B0050 + 0x10000 * w
/-- CAN.F1ACK, window and index. -/
def Reg.canF1ack (w : Nat) : Nat := 0x2B0054 + 0x10000 * w
/-- CAN.HPSTAT, window and index. -/
def Reg.canHpstat (w : Nat) : Nat := 0x2B0058 + 0x10000 * w
/-- CAN.HPREL, window and index. -/
def Reg.canHprel (w : Nat) : Nat := 0x2B005C + 0x10000 * w
/-- PCI.STATUS. -/
def Reg.pciStatus : Nat := 0x2F0000
/-- PCI.CTRL. -/
def Reg.pciCtrl : Nat := 0x2F0004
/-- PCI.APBASE. -/
def Reg.pciApbase : Nat := 0x2F0008
/-- PCI.ERR. -/
def Reg.pciErr : Nat := 0x2F000C
/-- PCI.IDS. -/
def Reg.pciIds : Nat := 0x2F0010
/-- PCI.VMAP, window and index. -/
def Reg.pciVmap (i : Nat) : Nat := 0x2F0100 + 0x4 * i
/-- HSP.STATUS. -/
def Reg.hspStatus : Nat := 0x300000
/-- HSP.CTRL. -/
def Reg.hspCtrl : Nat := 0x300004
/-- HSP.COUNTS. -/
def Reg.hspCounts : Nat := 0x300008
/-- HSP.IRQMAP. -/
def Reg.hspIrqmap : Nat := 0x30000C
/-- HSP.IRQMAP2. -/
def Reg.hspIrqmap2 : Nat := 0x300010
/-- MBX.WDATA, window and index. -/
def Reg.mbxWdata (i : Nat) : Nat := 0x1B0000 + 0x4 * i
/-- MBX.SEND. -/
def Reg.mbxSend : Nat := 0x1B0040
/-- MBX.RING. -/
def Reg.mbxRing : Nat := 0x1B0044
/-- MBX.FULL_LO. -/
def Reg.mbxFullLo : Nat := 0x1B0050
/-- MBX.FULL_HI. -/
def Reg.mbxFullHi : Nat := 0x1B0054
/-- MBX.DB_LO. -/
def Reg.mbxDbLo : Nat := 0x1B0058
/-- MBX.DB_HI. -/
def Reg.mbxDbHi : Nat := 0x1B005C
/-- MBX.HDR, window and index. -/
def Reg.mbxHdr (i : Nat) : Nat := 0x1B1000 + 0x80 * i
/-- MBX.DATA, window and index. -/
def Reg.mbxData (i j : Nat) : Nat := 0x1B1004 + 0x80 * i + 0x4 * j
/-- MBX.POP, window and index. -/
def Reg.mbxPop (i : Nat) : Nat := 0x1B1044 + 0x80 * i
/-- DBG.STATUS. -/
def Reg.dbgStatus : Nat := 0x340000
/-- DBG.DMI_ADDR. -/
def Reg.dbgDmiAddr : Nat := 0x340004
/-- DBG.DMI_DATA. -/
def Reg.dbgDmiData : Nat := 0x340008
/-- DBG.DMI_OP. -/
def Reg.dbgDmiOp : Nat := 0x34000C
/-- KEY.STATUS. -/
def Reg.keyStatus : Nat := 0x50000
/-- KEY.CTRL. -/
def Reg.keyCtrl : Nat := 0x50004
/-- KEY.SUBMIT. -/
def Reg.keySubmit : Nat := 0x50008
/-- KEY.SUBSTAT. -/
def Reg.keySubstat : Nat := 0x5000C
/-- KEY.LC. -/
def Reg.keyLc : Nat := 0x50010
/-- KEY.RECSEQ. -/
def Reg.keyRecseq : Nat := 0x50014
/-- KEY.MISUSE. -/
def Reg.keyMisuse : Nat := 0x50018
/-- KEY.CLEAR. -/
def Reg.keyClear : Nat := 0x5001C
/-- KEY.DEVID, window and index. -/
def Reg.keyDevid (i : Nat) : Nat := 0x50040 + 0x4 * i
/-- KEY.SLOT, window and index. -/
def Reg.keySlot (i : Nat) : Nat := 0x50100 + 0x4 * i
/-- FLT.STATUS. -/
def Reg.fltStatus : Nat := 0x30000
/-- FLT.CTRL. -/
def Reg.fltCtrl : Nat := 0x30004
/-- FLT.SEQ. -/
def Reg.fltSeq : Nat := 0x30008
/-- FLT.LOGSEQ. -/
def Reg.fltLogseq : Nat := 0x3000C
/-- FLT.LOGSKIP. -/
def Reg.fltLogskip : Nat := 0x30010
/-- FLT.CE_SRAM. -/
def Reg.fltCeSram : Nat := 0x30014
/-- FLT.CE_MRAM. -/
def Reg.fltCeMram : Nat := 0x30018
/-- FLT.CE_DDR. -/
def Reg.fltCeDdr : Nat := 0x3001C
/-- FLT.LEVELS. -/
def Reg.fltLevels : Nat := 0x30020
/-- FLT.LASTCHIP. -/
def Reg.fltLastchip : Nat := 0x30024
/-- FLT.CLEAR. -/
def Reg.fltClear : Nat := 0x30028
/-- FLT.DCOUNT, window and index. -/
def Reg.fltDcount (i : Nat) : Nat := 0x30100 + 0x4 * i
/-- INJ.STATUS. -/
def Reg.injStatus : Nat := 0x40000
/-- INJ.TARGET. -/
def Reg.injTarget : Nat := 0x40004
/-- INJ.LOC. -/
def Reg.injLoc : Nat := 0x40008
/-- INJ.ADDR_LO. -/
def Reg.injAddrLo : Nat := 0x4000C
/-- INJ.ADDR_HI. -/
def Reg.injAddrHi : Nat := 0x40010
/-- INJ.GO. -/
def Reg.injGo : Nat := 0x40014
/-- INJ.RESULT. -/
def Reg.injResult : Nat := 0x40018
/-- INJ.COUNT. -/
def Reg.injCount : Nat := 0x4001C
/-- INJ.ABORT. -/
def Reg.injAbort : Nat := 0x40020
/-- PIN.STATUS. -/
def Reg.pinStatus : Nat := 0x330000
/-- PIN.CTRL. -/
def Reg.pinCtrl : Nat := 0x330004
/-- PIN.IN, window and index. -/
def Reg.pinIn (i : Nat) : Nat := 0x330010 + 0x4 * i
/-- PIN.OUT, window and index. -/
def Reg.pinOut (i : Nat) : Nat := 0x330020 + 0x4 * i
/-- PIN.DIR, window and index. -/
def Reg.pinDir (i : Nat) : Nat := 0x330030 + 0x4 * i
/-- PIN.RISE, window and index. -/
def Reg.pinRise (i : Nat) : Nat := 0x330040 + 0x4 * i
/-- PIN.FALL, window and index. -/
def Reg.pinFall (i : Nat) : Nat := 0x330050 + 0x4 * i
/-- PIN.PEND, window and index. -/
def Reg.pinPend (i : Nat) : Nat := 0x330060 + 0x4 * i
/-- PIN.MIO, window and index. -/
def Reg.pinMio (i : Nat) : Nat := 0x330100 + 0x4 * i

end Sys2Proof.Machine
end

