-- ==== Sys2Proof/Config.lean ====
section
/-! DEFINITION. What the spec leaves open or takes from outside: values without a body, so that no proof can see them.
Each is a function of the operands it depends on. -/
namespace Sys2Proof.Config

/-- The byte an LPDDR5 address holds that nothing has written since reset `gen` (R93: undefined). -/
opaque ddrByte (gen addr : Nat) : Byte

/-- A byte of the boot ROM; the spec gives its place and size, not its contents. -/
opaque romByte (addr : Nat) : Byte

/-- A value the spec leaves undefined; the `n`-th one taken. -/
opaque freeWord (n : Nat) : Word

/-- Whether RESET_N low for `ns`, from 200 ns to 1 µs, resets the part (R91 names 1 µs, and ignores less than 200 ns). -/
opaque shortReset (ns : Nat) : Bool

/-! ### Cryptographic primitives of external standards (FIPS 202, RFC 8032, RFC 7748, SP 800-185, SP 800-38D, SP 800-90A) -/

/-- SHAKE256 (FIPS 202) of a byte string, `n` bytes of output. -/
opaque shake256 (msg : List Byte) (n : Nat) : List Byte

/-- Public key of an Ed448 seed, signature with an empty context, and verification (RFC 8032). -/
opaque ed448Public (seed : List Byte) : List Byte
opaque ed448Sign (seed msg : List Byte) : List Byte
opaque ed448Verify (pub msg sig : List Byte) : Bool

/-- Public value and shared secret of X448 (RFC 7748). -/
opaque x448Public (scalar : List Byte) : List Byte
opaque x448Shared (scalar pub : List Byte) : List Byte

/-- KMAC256 (SP 800-185) with key, input, output bytes and customisation string. -/
opaque kmac256 (key msg : List Byte) (n : Nat) (custom : List Byte) : List Byte

/-- AES-256-GCM (SP 800-38D): ciphertext and tag, and the opened plaintext when the tag verifies. -/
opaque gcmSeal (key iv aad plain : List Byte) : List Byte
opaque gcmOpen (key iv aad sealed : List Byte) : Option (List Byte)

/-- The `n`-th output of the CTR-DRBG (SP 800-90A), seeded from on-die entropy. -/
opaque drbg (n bytes : Nat) : List Byte

/-- The root secret this part's PUF yields (17). -/
opaque pufRoot : List Byte

/-- The Kamanaxon firmware verifying key of slot 2, and the digests of the Keeper, Warden, sequencer and fusion firmware. -/
opaque firmwareKey : List Byte
opaque firmwareDigest (engine : Nat) : List Byte

/-! ### The Lathe (06): what the spec leaves to the sequencer firmware -/

/-- The cell that owns a row of a problem (R285 gives the order within and between cells, not the rows of a cell). -/
opaque rowOwner (rows cells row : Nat) : Nat

/-! ### Metrology (11): the filters, the harmonic analysis and the water tables the spec names without giving their numbers; FP64 bit
patterns -/

/-- One sample through the first-order high-pass filter at 0.5 Hz of R442: its state, the sample; the new state and the output. -/
opaque highPass (state : List Nat) (x : Nat) : List Nat × Nat

/-- The fractional-delay filter (R442, and the quarter cycle of E_Q): the values of the cycle before, those of the cycle, and the delay
as a fraction of sample periods. -/
opaque fractionalDelay (before xs : List Nat) (num : Int) (den : Nat) : List Nat

/-- The harmonic group G_h of a block, and the phase of bin N·h relative to V1's fundamental (R453), from the values of each cycle. -/
opaque harmonicGroup (cycles : List (List Nat)) (h : Nat) : Nat
opaque harmonicPhase (cycles v1 : List (List Nat)) (h : Nat) : Nat

/-- Density and enthalpy of water at 1.6 MPa and `k` / 2 °C (R459, IAPWS-IF97). -/
opaque waterDensity (k : Nat) : Nat
opaque waterEnthalpy (k : Nat) : Nat

/-- Litres per pulse, no-load flow in L/h and flow timeout in s of a pulse input that no heat meter names (R459 gives it none), as FP64. -/
opaque pulseOnly (input field : Nat) : Nat

end Sys2Proof.Config
end

