-- ==== Sys2Proof/Machine/Float.lean ====
section
/-! DEFINITION. Binary floating point as the solvers, the fusion engine and the federation use it (R283, R284): FP64, FP32 and
bfloat16 numbers as bit patterns, exact arithmetic on what they stand for, and one rounding at the end. -/
namespace Sys2Proof.Machine

/-- A format: exponent bits and stored fraction bits. -/
structure Fmt where
  ebits : Nat
  mbits : Nat
  deriving DecidableEq, Repr

def f64 : Fmt := ⟨11, 52⟩
def f32 : Fmt := ⟨8, 23⟩
def bf16 : Fmt := ⟨8, 7⟩

/-- A number: not a number, an infinity, a zero, or `(-1)^neg * m * 2^e` with `m` above 0. -/
inductive Fp where
  | nan
  | inf (neg : Bool)
  | zero (neg : Bool)
  | fin (neg : Bool) (m : Nat) (e : Int)
  deriving DecidableEq, Repr, Inhabited

/-- Rounding: to nearest even, upward, downward (R284). -/
inductive Round where
  | near
  | up
  | down
  deriving DecidableEq, Repr

def Fmt.bias (f : Fmt) : Nat := 2 ^ (f.ebits - 1) - 1
/-- The exponent of the last fraction bit of a subnormal. -/
def Fmt.low (f : Fmt) : Int := 1 - (f.bias : Int) - f.mbits
def Fmt.bytes (f : Fmt) : Nat := (1 + f.ebits + f.mbits) / 8

/-- What a bit pattern stands for. -/
def Fmt.decode (f : Fmt) (b : Nat) : Fp :=
  let m := b % 2 ^ f.mbits
  let x := b / 2 ^ f.mbits % 2 ^ f.ebits
  let neg := b / 2 ^ (f.mbits + f.ebits) % 2 == 1
  if x = 2 ^ f.ebits - 1 then (if m = 0 then .inf neg else .nan)
  else if x = 0 then (if m = 0 then .zero neg else .fin neg m f.low)
  else .fin neg (m + 2 ^ f.mbits) (f.low + (x - 1 : Nat))

/-- The largest finite number of a format. -/
def Fmt.maxFin (f : Fmt) (neg : Bool) : Fp := .fin neg (2 ^ (f.mbits + 1) - 1) (f.low + (2 ^ f.ebits - 3 : Nat))

/-- Whether a magnitude with a nonzero rest rounds up. -/
def roundsUp (r : Round) (neg : Bool) (q rest half : Nat) : Bool :=
  match r with
  | .near => decide (half < rest) || (rest == half && q % 2 == 1)
  | .up => !neg && decide (0 < rest)
  | .down => neg && decide (0 < rest)

/-- Round `(-1)^neg * m * 2^e` to a format; `sticky` says that a little more than that is meant. -/
def Fmt.round (f : Fmt) (r : Round) (neg : Bool) (m : Nat) (e : Int) (sticky : Bool := false) : Fp :=
  if m = 0 then (if sticky && ((r == .up && !neg) || (r == .down && neg)) then .fin neg 1 f.low else .zero neg)
  else
    let m := 4 * m + ofBool sticky
    let e := e - 2
    let len := m.log2 + 1
    let goal := max (e + (len : Int) - (f.mbits + 1 : Nat)) f.low
    if goal ≤ e then .fin neg (m * 2 ^ (e - goal).toNat) goal
    else
      let d := (goal - e).toNat
      let q := m / 2 ^ d
      let q := if roundsUp r neg q (m % 2 ^ d) (2 ^ (d - 1)) then q + 1 else q
      if q = 0 then .zero neg
      else
        let top := f.low + (2 ^ f.ebits - 2 : Nat) + f.mbits
        if top ≤ goal + (q.log2 : Int) then
          (if r == .near || (r == .up && !neg) || (r == .down && neg) then .inf neg else f.maxFin neg)
        else .fin neg q goal

/-- The bit pattern of a number that the format holds. -/
def Fmt.encode (f : Fmt) (x : Fp) : Nat :=
  let sign := fun (n : Bool) => ofBool n * 2 ^ (f.mbits + f.ebits)
  match x with
  | .nan => (2 ^ f.ebits - 1) * 2 ^ f.mbits + 2 ^ (f.mbits - 1)
  | .inf n => sign n + (2 ^ f.ebits - 1) * 2 ^ f.mbits
  | .zero n => sign n
  | .fin n m e =>
    let len := m.log2
    if e + (len : Int) < f.low + f.mbits then sign n + m * 2 ^ (e - f.low).toNat
    else
      let m := if len ≤ f.mbits then m * 2 ^ (f.mbits - len) else m / 2 ^ (len - f.mbits)
      sign n + (e + len - f.low - f.mbits + 1).toNat * 2 ^ f.mbits + (m - 2 ^ f.mbits)

namespace Fp

def neg : Fp → Fp
  | .nan => .nan
  | .inf n => .inf !n
  | .zero n => .zero !n
  | .fin n m e => .fin (!n) m e

def abs : Fp → Fp
  | .nan => .nan
  | .inf _ => .inf false
  | .zero _ => .zero false
  | .fin _ m e => .fin false m e

def isNan : Fp → Bool
  | .nan => true
  | _ => false
def isFinite : Fp → Bool
  | .zero _ => true
  | .fin _ _ _ => true
  | _ => false
def isZero : Fp → Bool
  | .zero _ => true
  | _ => false
def isPos : Fp → Bool
  | .inf n => !n
  | .fin n _ _ => !n
  | _ => false

/-- Signed mantissa of a finite number. -/
def mant : Fp → Int
  | .fin n m _ => if n then -(m : Int) else m
  | _ => 0
def expo : Fp → Int
  | .fin _ _ e => e
  | _ => 0

/-- Round an exact `i * 2^e`; an exact zero takes the sign `z`. -/
def ofExact (f : Fmt) (r : Round) (i : Int) (e : Int) (z : Bool) : Fp :=
  if i = 0 then .zero z else f.round r (decide (i < 0)) i.natAbs e

/-- The fused sum `a * b + c`, rounded once. -/
def fma (f : Fmt) (r : Round) (a b c : Fp) : Fp :=
  match a, b with
  | .nan, _ => .nan
  | _, .nan => .nan
  | .inf x, .inf y => (match c with
    | .nan => .nan
    | .inf z => if (x != y) == z then .inf z else .nan
    | _ => .inf (x != y))
  | .inf x, .fin y _ _ => (match c with
    | .nan => .nan
    | .inf z => if (x != y) == z then .inf z else .nan
    | _ => .inf (x != y))
  | .fin x _ _, .inf y => (match c with
    | .nan => .nan
    | .inf z => if (x != y) == z then .inf z else .nan
    | _ => .inf (x != y))
  | .inf _, .zero _ => .nan
  | .zero _, .inf _ => .nan
  | _, _ =>
    match c with
    | .nan => .nan
    | .inf z => .inf z
    | _ =>
      let e1 := a.expo + b.expo
      let p := a.mant * b.mant
      let e := if p = 0 then c.expo else if c.mant = 0 then e1 else min e1 c.expo
      let sum := (if p = 0 then 0 else p * 2 ^ (e1 - e).toNat) + (if c.mant = 0 then 0 else c.mant * 2 ^ (c.expo - e).toNat)
      ofExact f r sum e (r == .down)

def one : Fp := .fin false 1 0
def add (f : Fmt) (r : Round) (a b : Fp) : Fp := fma f r a one b
def sub (f : Fmt) (r : Round) (a b : Fp) : Fp := fma f r a one b.neg

def signBit : Fp → Bool
  | .inf n => n
  | .zero n => n
  | .fin n _ _ => n
  | .nan => false

def mul (f : Fmt) (r : Round) (a b : Fp) : Fp :=
  match a, b with
  | .fin x m e, .fin y n g => f.round r (x != y) (m * n) (e + g)
  | .nan, _ => .nan
  | _, .nan => .nan
  | .inf _, .zero _ => .nan
  | .zero _, .inf _ => .nan
  | .inf _, _ => .inf (a.signBit != b.signBit)
  | _, .inf _ => .inf (a.signBit != b.signBit)
  | _, _ => .zero (a.signBit != b.signBit)

def div (f : Fmt) (r : Round) (a b : Fp) : Fp :=
  match a, b with
  | .fin x m e, .fin y n g =>
    let k := n.log2 + f.mbits + 4
    f.round r (x != y) (m * 2 ^ k / n) (e - g - k) (m * 2 ^ k % n != 0)
  | .nan, _ => .nan
  | _, .nan => .nan
  | .inf _, .inf _ => .nan
  | .zero _, .zero _ => .nan
  | .inf _, _ => .inf (a.signBit != b.signBit)
  | _, .inf _ => .zero (a.signBit != b.signBit)
  | .zero _, _ => .zero (a.signBit != b.signBit)
  | _, .zero _ => .inf (a.signBit != b.signBit)

def sqrt (f : Fmt) (r : Round) : Fp → Fp
  | .nan => .nan
  | .inf n => if n then .nan else .inf false
  | .zero n => .zero n
  | .fin n m e =>
    if n then .nan
    else
      let k := 2 * (f.mbits + 4) + (e % 2).toNat
      let x := m * 2 ^ k
      f.round r false x.sqrt ((e - k) / 2) (x.sqrt * x.sqrt != x)

/-- `a ≤ b` and `a < b` of numbers; false when one is not a number. -/
def le (a b : Fp) : Bool :=
  match a, b with
  | .nan, _ => false
  | _, .nan => false
  | .inf n, .inf k => n || !k
  | .inf n, _ => n
  | _, .inf k => !k
  | _, _ =>
    let e := min a.expo b.expo
    decide (a.mant * 2 ^ (a.expo - e).toNat ≤ b.mant * 2 ^ (b.expo - e).toNat)
def lt (a b : Fp) : Bool := a.le b && !(b.le a)
def max (a b : Fp) : Fp := if a.le b then b else a
def min (a b : Fp) : Fp := if a.le b then a else b

/-- An integer, rounded to a format. -/
def ofInt (f : Fmt) (i : Int) : Fp := ofExact f .near i 0 false

/-- The nearest integer, a tie to even; 0 of what is not finite. -/
def toInt (x : Fp) : Int :=
  match x with
  | .fin n m e =>
    let q : Nat := if 0 ≤ e then m * 2 ^ e.toNat
      else
        let d := (-e).toNat
        let q := m / 2 ^ d
        let rest := m % 2 ^ d
        if 2 ^ d < 2 * rest ∨ (2 ^ d = 2 * rest ∧ q % 2 = 1) then q + 1 else q
    if n then -(q : Int) else q
  | _ => 0

/-- A number of one format in another. -/
def convert (f : Fmt) (x : Fp) : Fp :=
  match x with
  | .fin n m e => f.round .near n m e
  | y => y

end Fp
end Sys2Proof.Machine
end

