-- ==== Sys2Proof/Machine/Sparse.lean ====
section
/-! DEFINITION. Sparse tables of plain data: a list of (key, value) pairs with strictly rising keys and no entry equal
to what an unlisted key reads as, so that equal tables are equal lists. Memory, the register file and every
per-instance table of State are of this form. -/
namespace Sys2Proof.Machine

/-- The entry of key `k`, the first one listed. -/
def cellsFind {α : Type} (k : Nat) : List (Nat × α) → Option α
  | [] => none
  | (j, v) :: r => if j = k then some v else cellsFind k r

/-- The list without any entry of key `k`. -/
def cellsErase {α : Type} (k : Nat) : List (Nat × α) → List (Nat × α)
  | [] => []
  | (j, v) :: r => if j = k then cellsErase k r else (j, v) :: cellsErase k r

/-- The list with `(k, v)` put before the first larger key. -/
def cellsInsert {α : Type} (k : Nat) (v : α) : List (Nat × α) → List (Nat × α)
  | [] => [(k, v)]
  | (j, w) :: r => if k < j then (k, v) :: (j, w) :: r else (j, w) :: cellsInsert k v r

/-- Write `v` at `k`; `d` is what `k` reads as when it is not listed. -/
def cellsPut {α : Type} [DecidableEq α] (d : α) (k : Nat) (v : α) (m : List (Nat × α)) : List (Nat × α) :=
  if v = d then cellsErase k m else cellsInsert k v (cellsErase k m)

/-- Every key of the list is larger than `k`. -/
def cellsAbove {α : Type} (k : Nat) : List (Nat × α) → Bool
  | [] => true
  | (j, _) :: r => decide (k < j) && cellsAbove k r

/-- Keys strictly rise, and no entry holds its key's unlisted value. -/
def cellsWf {α : Type} [DecidableEq α] (d : Nat → α) : List (Nat × α) → Bool
  | [] => true
  | (j, v) :: r => decide (v ≠ d j) && cellsAbove j r && cellsWf d r

/-- A sparse table: a key that is not listed reads as `default`. -/
structure Tab (α : Type) where
  cells : List (Nat × α)
  deriving DecidableEq, Repr, Inhabited

/-- The table with nothing listed. -/
def Tab.empty {α : Type} : Tab α := ⟨[]⟩

/-- The value at a key. -/
def Tab.get {α : Type} [Inhabited α] (t : Tab α) (k : Nat) : α := (cellsFind k t.cells).getD default

/-- The table with one key's value written. -/
def Tab.set {α : Type} [Inhabited α] [DecidableEq α] (t : Tab α) (k : Nat) (v : α) : Tab α :=
  ⟨cellsPut default k v t.cells⟩

/-- The table without the keys that fail a test. -/
def Tab.keep {α : Type} (t : Tab α) (f : Nat → Bool) : Tab α := ⟨t.cells.filter fun e => f e.1⟩

/-- The canonical form of a table. -/
def Tab.wf {α : Type} [Inhabited α] [DecidableEq α] (t : Tab α) : Bool := cellsWf (fun _ => default) t.cells

end Sys2Proof.Machine
end

