-- ==== Sys2Proof/Machine/State.lean ====
section
/-! DEFINITION. The state of the block: every register, memory, queue, counter, mode and pin the spec gives it, as
plain data, and State.reset. A field's docstring names the rules it follows. -/
namespace Sys2Proof.Machine

/-- Memory: bytes at rising addresses, no entry equal to what an unlisted address reads as. -/
abbrev Memory := List Host.Cell

/-- The four members of the family (00, R3). -/
inductive Variant where
  | ev4816
  | ev4808
  | ev4804
  | ev4801
  deriving DecidableEq, Repr, Inhabited

/-- The bus response of the last access: the code of R25 (0 is OK) and the bytes a read returned. -/
structure BusReply where
  code : Nat
  data : List Byte
  deriving DecidableEq, Repr, Inhabited

/-- A completed result on its way to a slot (R17). -/
structure Result where
  seq : Nat
  code : Nat
  err : Bool
  seasoning : Bool
  stale : Bool
  payload : List Byte
  deriving DecidableEq, Repr, Inhabited

/-- A result slot (R17 to R23): the result its snapshot or its memory shows, a result waiting behind a held snapshot,
whether a snapshot is held, whether a result completed since the last TAKE, the SEQ of the next result, and the
STATUS reads that returned the shown SEQ since the last TAKE, and the initiator ID that delivers to it. -/
structure Slot where
  shown : Option Result
  waiting : Option Result
  held : Bool
  fresh : Bool
  nextSeq : Nat
  reads : Nat
  writer : Nat
  deriving DecidableEq, Repr, Inhabited

/-- A fault record that waits in the collector (R671, R676). `tag` names the record until it has a SEQ, `parent` is
the tag of the lower record of an escalated one (R670), `seq` is set when a chip record fixed it (R674), and `stamp` is
the device time in ns for the order of R41. -/
structure FaultRecord where
  det : Nat
  level : Nat
  injected : Bool
  shadow : Bool
  world : Bool
  early : Bool
  loc : Nat
  stamp : Nat
  time : Nat
  init : Option Nat
  action : Nat
  code : Nat
  count : Nat
  detail : Nat
  parent : Option Nat
  tag : Nat
  seq : Option Nat
  deriving DecidableEq, Repr, Inhabited

/-- An event the chip level has to decide on (R28, R677): its detector, the tag of the lower record, whether it was
injected and whether in SHADOW. -/
structure ChipEvent where
  det : Nat
  parent : Option Nat
  injected : Bool
  deriving DecidableEq, Repr, Inhabited

/-- The fault collector (18): the records waiting, the tag of the next record, the SEQs given to records by tag, the
log writes of the last 60 s per detector (R673), the last recorded second per detector and channel or holder
(R669), stored plus one, whether SEQ is restored, the next SEQ, and the time of the last record written (in units of `chip.ran`). -/
structure FltState where
  waiting : List FaultRecord
  nextTag : Nat
  seqOf : Tab Nat
  logTimes : Tab (List Nat)
  lastSecond : Tab Nat
  ready : Bool
  nextSeq : Nat
  wrote : Nat
  deriving DecidableEq, Repr, Inhabited

/-- A running injection request (R681): initiator, detector, LOCATION, address, occurrences left, LIVE, and the clock at its start. -/
structure InjRequest where
  who : Nat
  det : Nat
  loc : Nat
  addr : Nat
  remaining : Nat
  live : Bool
  start : Nat
  deriving DecidableEq, Repr, Inhabited

/-- INJ (18): the running request, the initiator whose injected occurrence is being acted on (set only within one step), the
links whose next packet a proof run corrupts (R684, step 9), and the tag plus one of the last record of each initiator's last request. -/
structure InjState where
  run : Option InjRequest
  acting : Option Nat
  proofLinks : Nat
  tags : Tab Nat
  deriving DecidableEq, Repr, Inhabited

/-- The interrupt controller's gateway state beyond its registers: the sources claimed and not yet completed. -/
structure PlicState where
  pendingMask : Nat
  claimed : Nat
  deriving DecidableEq, Repr, Inhabited

/-- The chip level: events waiting for a decision, time since reset release in ns, the value of that clock at the
last mode change, whether SRAM is initialised (R675), whether device time has been loaded (R194), a reset that follows
a YIELD (cause bit plus one, or 0), the parts of the mount sequence done, the LPDDR5 counters of an hour, and the clock at the end of the
last scrubbing pass or when the scrubber was enabled (R48), the device time counted since reset in units of 2^-32 ns, which no step moves, and that
time when the reset of R494 or R662 was called for. -/
structure ChipState where
  events : List ChipEvent
  up : Nat
  modeSince : Nat
  stockReady : Bool
  timeLoaded : Bool
  released : Bool
  firmwareOk : Bool
  blankLoaded : Bool
  fallback : Bool
  roleKnown : Bool
  roleActive : Bool
  ddrPending : Bool
  ddrHourStart : Nat
  ddrHourCount : Nat
  ddrHourRaised : Bool
  delayedReset : Bool
  scrubbed : Nat
  ran : Nat
  delayedFrom : Nat
  deriving DecidableEq, Repr, Inhabited

/-- Supply side (02): the two battery domains' canary words as stored, the supply each draws from,
whether the AVS loop has control, the voltage requests of the five regions in mV, and the phases shed. -/
structure PowerState where
  bkLow : Word
  bkHigh : Word
  bmLow : Word
  bmHigh : Word
  onBattery : Bool
  avsControl : Bool
  requests : Tab Nat
  shed : Nat
  deriving DecidableEq, Repr, Inhabited

/-- A section of a Blank (03): its type, region, index and body. -/
structure Section where
  type : Nat
  region : Nat
  index : Nat
  body : List Byte
  deriving DecidableEq, Repr, Inhabited

/-- A patch request (R134 to R139): the descriptor's Stock offset, the requester, the copied image, whether its checks have passed, and
the clock when they had. -/
structure PatchRequest where
  desc : Nat
  who : Nat
  image : List Byte
  len : Nat
  passed : Bool
  checked : Nat
  deriving DecidableEq, Repr, Inhabited

/-- A STORE or INVALIDATE in progress (R130 to R133). -/
structure SlotCommand where
  op : Nat
  slot : Nat
  src : Nat
  len : Nat
  code : Nat
  image : List Byte
  deriving DecidableEq, Repr, Inhabited

/-- The Blank controller (03): the running configuration, the sections of the full Blank and of the last patch of
each region (R153), the running header's node, and the requests. -/
structure BlkState where
  running : List Section
  full : List Section
  patches : Tab (Option (List Section))
  node : Nat
  runs : Tab (Option PatchRequest)
  waits : Tab (Option PatchRequest)
  cmd : Option SlotCommand
  deriving DecidableEq, Repr, Inhabited

/-- The device-time counter (04, R190): whole seconds, and nanoseconds in units of 2^-32 ns. -/
structure TimeCounter where
  sec : Nat
  sub : Nat
  deriving DecidableEq, Repr, Inhabited

/-- What the part sends: what carries it, its destination (a port, node or channel), and its bytes. -/
inductive SentKind where
  | ptp
  | fed
  | heartbeat
  | latch
  | checkpoint
  | milio
  | linkControl
  | ethernet
  | mdio
  | can
  | msix
  | waveform
  | tamper
  | spi
  | handover
  deriving DecidableEq, Repr, Inhabited

structure Sent where
  kind : SentKind
  dest : Nat
  bytes : List Byte
  deriving DecidableEq, Repr, Inhabited

/-- A spindle (04): POSITION and TRAVEL in units of 2^-32 revolution, the fraction of a unit its own motion has reached (in 2^-32 ns
of a rate), the frequency of the PLL of a MAINS or PULSE in 2^-16 rev/s, the rate of its substitute or of its start in 2^-20 rev/s, whether
the source's angle is known, the source's position, its fraction and the distance it has moved, the counts of a SHAFT, the position, time
and measured rate at the last source event, whether the source has stalled since, when the rate left [RMIN, RMAX] and the last rate within
(R169, R170), the mains cycles in a row with a small phase error, the origin and period of a ROUND in ns, and the samples of POSITION and of
the source's distance over the rate window, newest first (R160, R174). Times count device time in 2^-32 ns since reset. -/
structure Spindle where
  pos : Nat
  travel : Nat
  acc : Nat
  pll : Nat
  sub : Int
  known : Bool
  src : Nat
  srcAcc : Nat
  srcRun : Nat
  count : Int
  eventPos : Nat
  eventAt : Nat
  eventRate : Int
  lost : Bool
  outSince : Option Nat
  goodRate : Int
  goodCycles : Nat
  origin : Nat
  period : Nat
  hist : List (Int × Nat)
  srcHist : List (Int × Nat)
  deriving DecidableEq, Repr, Inhabited

/-- A comparator's crossing (R165): its spindle, number and target, and its tick: the device time in ns, and the count of device time since reset. -/
structure Crossing where
  spindle : Nat
  cmp : Nat
  target : Nat
  time : Nat
  ran : Nat
  deriving DecidableEq, Repr, Inhabited

/-- The spindles, the crossings not yet served (R167) and the one served last, and the snapshots (R188): ANGLE, REV,
TRAV_LO, TRAV_HI, RATE and STATE by 8 times the initiator plus the spindle. -/
structure SpnState where
  spin : Tab Spindle
  due : List Crossing
  fired : Crossing
  snaps : Tab (List Word)
  deriving DecidableEq, Repr, Inhabited

/-- A port of the PTP instance (04): the best announce message received on it, and the sequence numbers of what it sends by message type. -/
structure PtpPort where
  best : Option PtpDataSet
  seqs : Tab Nat
  deriving DecidableEq, Repr, Inhabited

/-- Device time beyond its registers (04): the servo's integrator in 2^-15 ppb, the grandmaster followed, the new master not
yet taken, whether a master has been taken since MOUNT, whether a holdover came since and when it began, whether a refused jump has been
accepted, the last offset of the refused candidate and its time, the time since which its offsets agree, the time of the last measurement,
the time since which |o| stays below LOCK_THRESH (R195), the values of INCR while LOCKED, newest first, each with how long it held (R201),
and the PTP ports 1 to 6. Times count device time in 2^-32 ns since reset. -/
structure TimState where
  integ : Int
  gm : Option Nat
  candidate : Option Nat
  followed : Bool
  held : Bool
  heldAt : Nat
  accepted : Bool
  candLast : Option (Int × Nat)
  candSince : Option Nat
  measured : Option Nat
  goodSince : Option Nat
  incrs : List (Nat × Nat)
  ports : Tab PtpPort
  deriving DecidableEq, Repr, Inhabited

/-- A coherent read's snapshot of the cell or the block (R217, R218): seconds, ticks, and when it was taken. -/
structure RtcSnap where
  sec : Nat
  tick : Nat
  taken : Nat
  deriving DecidableEq, Repr, Inhabited

/-- The calendar (04): VALID, the cell's seconds since 1970 and its ticks of 1/32768 s, the same for the block, the trim
accumulator, TRIM as the cell holds it, the crystal's phase against the 250 MHz clock, FORM of the pending commit, the
snapshots per initiator, the initiators whose snapshot expired, the raw crystal cycles counted, and of a trim measurement the count and the
time, or TRAVEL, it started at (R226). -/
structure RtcState where
  valid : Bool
  cellSec : Nat
  cellTick : Nat
  blockSec : Nat
  blockTick : Nat
  trimAcc : Nat
  trim : Nat
  phase : Nat
  form : Bool
  cellSnaps : Tab (Option RtcSnap)
  blockSnaps : Tab (Option RtcSnap)
  expired : Tab Bool
  raw : Nat
  measRaw : Nat
  measFrom : Nat
  deriving DecidableEq, Repr, Inhabited

/-- An arbiter (05): its level (4 chip, 3 region, 2 block, 1 cell), the region whose WARD section allots it (0xF: the Stock SRAM's, of no
region), TARGET and UNIT, and the bank where an instance has several. -/
structure Arbiter where
  level : Nat
  region : Nat
  target : Nat
  unit : Nat
  bank : Nat
  deriving DecidableEq, Repr, Inhabited

/-- An access that waits for the next Ward period (R233), with the arbiters whose grants it still lacks, beat by beat. -/
structure Waiting where
  who : Who
  addr : Nat
  len : Nat
  data : Option (List Byte)
  ecc : Ecc
  slack : Bool
  left : List Arbiter
  deriving DecidableEq, Repr, Inhabited

/-- The Wards (05): the device time since reset at the period's start, the WARD bodies by region as the period took them (R240), the credit
spent by 64 times the arbiter plus the holder, the holders exhausted this period by level (4 chip, 3 region, 2 block, 1
cell) times 64 plus holder, the accesses that wait for the next period in their order, and whether the access now served has had its grants. -/
structure WardState where
  start : Nat
  bodies : Tab (List Byte)
  spent : Tab Nat
  exhausted : Tab Bool
  waiting : List Waiting
  through : Bool
  deriving DecidableEq, Repr, Inhabited

/-- The adaptive loops (05): the last margin of each region, evaluations since AVS last changed a request, since each DFS clock last changed,
updates of each lane since it came up, the die temperature that the monitor thresholds are compensated for, the innovations of each gate's last
64 frames over their degrees of freedom, frames of each gate, gate scales in sixteenths less 16, and the die temperature at the entry to STANDBY
(R256). -/
structure AdpState where
  margins : Tab Int
  avsQuiet : Nat
  dfsQuiet : Tab Nat
  eqUpdates : Tab Nat
  threshTemp : Int
  gateNis : Tab (List Fp)
  gateFrames : Tab Nat
  gates : Tab Nat
  standbyTemp : Option Int
  deriving DecidableEq, Repr, Inhabited

/-- A queued descriptor (06): its ticket, the submitting initiator, and its 64 bytes. -/
structure LatheJob where
  ticket : Nat
  who : Nat
  desc : List Byte
  deriving DecidableEq, Repr, Inhabited

/-- A running descriptor: its dispatch time in ns, the flags it carries, the unknowns matched, and the values it starts from
as bit patterns: x, z, y and ρ. -/
structure LatheRun where
  job : LatheJob
  start : Nat
  ran : Nat
  seasoning : Bool
  subst : Bool
  remapped : Bool
  discarded : Bool
  matched : Nat
  x : List Nat
  z : List Nat
  y : List Nat
  rho : Nat
  deriving DecidableEq, Repr, Inhabited

/-- A Lathe (06): its queue, oldest first, the run of each chuck, and the next ticket. -/
structure LatheState where
  queue : List LatheJob
  runs : Tab (Option LatheRun)
  next : Nat
  deriving DecidableEq, Repr, Inhabited

/-- The sums of a close that convergence is judged on (R321, R322): r², s², Σx², Σz² and Σ(ρu)² as FP64, the contributor count
the counts of members and the age of the oldest contribution, and whether any child was CURRENT. -/
structure FedSums where
  r2 : Nat
  s2 : Nat
  x2 : Nat
  z2 : Nat
  u2 : Nat
  p : Nat
  contrib : Nat
  aged : Nat
  excluded : Nat
  oldest : Nat
  heard : Bool
  deriving DecidableEq, Repr, Inhabited

/-- A DOWN a member answers (R317, R319): the ticket of its descriptor, the node that sent it, its round and plan period. -/
structure FedAsk where
  ticket : Nat
  src : Nat
  round : Nat
  plan : Nat
  deriving DecidableEq, Repr, Inhabited

/-- The plan a node wrote last (R332, R333): its number, payload, VALID_UNTIL in ns, and its SEASONING. -/
structure FedPlan where
  number : Nat
  payload : List Byte
  till : Nat
  seasoning : Bool
  deriving DecidableEq, Repr, Inhabited

/-- The federation unit beyond its registers and its state area (07). A coordinator: the values each child sent this round, as
FP32, and the flags of its last contribution; of an area child the fragments as a mask, the last one's number plus one, the sums they carried, and
whether the residual block came; the highest claim of each child; the round and TRAVEL at its start; whether it is closed, active, whether the
period's plan is published, anyone was CURRENT this period; BUDGET as the period began; that the unit resumes at the next round start, and a period
whose plan is owed from before (R337); the sums of the round closed last, and its number; that duals wait for z; a message dropped this round. A
member: the period of the last DOWN and the DOWNs it answers. Every node: the last plan and whether it expired; the type and round, the mask and the
last of the fragments of an AREA_PLAN or AREA_DOWN, and messages that stay inside. -/
structure FedState where
  values : Tab (Option (List Nat))
  flags : Tab Nat
  fragments : Tab Nat
  lastFrag : Tab Nat
  sums : Tab (List Byte)
  residual : Tab Bool
  claims : Tab Nat
  round : Nat
  began : Nat
  closed : Bool
  active : Bool
  published : Bool
  anyCurrent : Bool
  budget : Nat
  resuming : Bool
  owed : Option Nat
  judged : Option FedSums
  judgedRound : Nat
  pendingDual : Bool
  dropped : Bool
  downPlan : Nat
  asked : List FedAsk
  plan : Option FedPlan
  expired : Bool
  fragKey : Nat
  areaFrags : Nat
  areaLast : Nat
  planBlock : List Byte
  inside : List (List Byte)
  deriving DecidableEq, Repr, Inhabited

/-- A task as the dispatcher holds it (08): the number of its next instance; whether an instance is live and started, its
number, the flags it inherited, whether the release before it was skipped, and whether one was skipped during it; the
warning for the next one; its place in the order of releases; the clock at its due instant, since when it runs and how
long it ran; the outputs of a completed instance that await their commit; its core, and the core PLACE marked it for; and
the PLACE intervals since its last move. -/
structure TaskRun where
  next : Nat
  live : Bool
  started : Bool
  inst : Nat
  seasoning : Bool
  subst : Bool
  warn : Bool
  skipped : Bool
  warnNext : Bool
  order : Nat
  due : Nat
  since : Nat
  used : Nat
  outputs : Option (List (Nat × Nat))
  core : Nat
  move : Option Nat
  moved : Nat
  deriving DecidableEq, Repr, Inhabited

/-- An application core as the dispatcher starts it (R345): pc, a0, a1 and sp, and user mode. -/
structure CoreContext where
  pc : Nat
  a0 : Nat
  a1 : Nat
  sp : Nat
  user : Bool
  deriving DecidableEq, Repr, Inhabited

/-- The dispatcher (08): the tasks, the order of the next release, the task each core runs plus one, and the cores'
entry contexts; the comparators whose firing of one instant was served with another's, and the count of device time then. -/
structure TskState where
  tasks : Tab TaskRun
  orders : Nat
  running : Tab Nat
  cores : Tab CoreContext
  served : List (Nat × Nat)
  servedAt : Nat
  deriving DecidableEq, Repr, Inhabited

/-- A block of a loop (09): coefficients, shifts and limits as tuned, the PID integrator, x', x'', y', y'', the previous e or B, and
the previous output. -/
structure CleBlock where
  k : List Int
  s : List Int
  lo : Int
  hi : Int
  integ : Int
  x1 : Int
  x2 : Int
  y1 : Int
  y2 : Int
  prev : Int
  out : Int
  deriving DecidableEq, Repr, Inhabited

/-- A loop (09): its blocks, and the COUNT of each input at its last execution. -/
structure CleLoop where
  blocks : List CleBlock
  seen : List (Option Nat)
  deriving DecidableEq, Repr, Inhabited

/-- A group member's execution that waits for the group (R381, R397): loop, candidate, block outputs, blocks with their new
histories, COUNTs seen, QUAL flags, and v, e and w of its PID blocks by block number. -/
structure CleRun where
  loop : Nat
  outs : List Int
  blocks : List CleBlock
  flags : Nat
  pids : List (Nat × Int × Int × Int)
  deriving DecidableEq, Repr, Inhabited

/-- A sweep in progress (09): its deadline in TRAVEL, its firing in ns, whether its spindle seasons or is a substitute, the loops
due and not executed, the members that wait for their group, and the groups still to resolve. -/
structure CleSweep where
  deadline : Nat
  start : Nat
  seasoning : Bool
  subst : Bool
  due : List Nat
  members : List Nat
  runs : List CleRun
  groups : List Nat
  deriving DecidableEq, Repr, Inhabited

/-- An APPLY that waits for the end of a sweep (R401): initiator, loop, block, coefficients, shifts, LO and HI. -/
structure CleTune where
  who : Nat
  loop : Nat
  block : Nat
  k : List Int
  s : List Int
  lo : Int
  hi : Int
  deriving DecidableEq, Repr, Inhabited

/-- The control-law engine (09). -/
structure CleState where
  loops : Tab CleLoop
  sweep : Option CleSweep
  tunes : List CleTune
  deriving DecidableEq, Repr, Inhabited

/-- A sample as the fusion unit holds it beside its record in the ring (10): its RSEQ, its arrival and aligned time in ns, whether it is
excluded (R410, R411), whether a seasoning model placed it, and the graphs that have used it. -/
structure FusSample where
  rseq : Nat
  arrival : Nat
  atime : Nat
  excluded : Bool
  seasoning : Bool
  used : Nat
  deriving DecidableEq, Repr, Inhabited

/-- A stream (10): its samples in the ring, oldest first, RSEQ of the next, the last sensor time, the drift model's pairs in ns,
newest first, how many it took, and the clock at the last sample. -/
structure FusStream where
  samples : List FusSample
  next : Nat
  stime : Option Nat
  pairs : List (Int × Int)
  taken : Nat
  last : Nat
  deriving DecidableEq, Repr, Inhabited

/-- A track (10): its place in the table, ID, whether it is confirmed, its misses in a row, hits by frame, TOV of its birth, frames
since, x and P. -/
structure FusTrack where
  place : Nat
  id : Nat
  confirmed : Bool
  misses : Nat
  hits : Nat
  born : Nat
  age : Nat
  x : List Fp
  p : List (List Fp)
  deriving DecidableEq, Repr, Inhabited

/-- The state a graph carries from frame to frame (10): whether it has one, its time in ns, x and P or its tracks, the next track ID
and the counts of births, deletions and lost births, rejections of a single source in a row and its stream, frames issued since
initialisation, whether it is seasoning, and the newest aligned time applied. -/
structure FusFilter where
  has : Bool
  time : Nat
  x : List Fp
  p : List (List Fp)
  tracks : List FusTrack
  nextId : Nat
  births : Nat
  deletes : Nat
  lost : Nat
  rejects : Nat
  source : Nat
  frames : Nat
  grown : Bool
  newest : Option Nat
  deriving DecidableEq, Repr, Inhabited

/-- A frame (10): TOV and the TOV before it in ns, FRAME, and whether its spindle was a substitute. -/
structure FusFrame where
  tov : Nat
  prev : Nat
  number : Nat
  subst : Bool
  deriving DecidableEq, Repr, Inhabited

/-- An issued frame that a replay may revise (R427): the frame, its REV, and the state before it. -/
structure FusIssued where
  frame : FusFrame
  rev : Nat
  before : FusFilter
  deriving DecidableEq, Repr, Inhabited

/-- A graph (10): its state, the frames that wait, oldest first, the TOV of the last firing, the frame period, the issued frames of
the horizon, newest first, TOV of the newest issued, and the TOV of the oldest frame a replay has to revise. -/
structure FusGraph where
  cur : FusFilter
  waiting : List FusFrame
  last : Option Nat
  period : Nat
  issued : List FusIssued
  done : Option Nat
  replay : Option Nat
  deriving DecidableEq, Repr, Inhabited

/-- The fusion unit (10), with the next record number of each revision channel. -/
structure FusState where
  streams : Tab FusStream
  graphs : Tab FusGraph
  numbers : Tab Nat
  deriving DecidableEq, Repr, Inhabited

/-- A billing interval (11): its index, start and end in ns of device time, its length in s, the flags of its record, cycles of system 0,
remote cycles lost, the bound of R482 it carries, and the change of each register; where a time step ended it (R463), the device time right after
the step. -/
structure MetInterval where
  index : Nat
  start : Nat
  finish : Nat
  stepTo : Option Nat
  len : Nat
  flags : Nat
  cycles : Nat
  gaps : Nat
  lost : Nat
  delta : Tab Int
  deriving DecidableEq, Repr, Inhabited

/-- The tally of current-only measurement (11): ampere-seconds of L1 to L3 and watt-seconds, times 65,536, in units of 2^-1074; the
time counted in ns; the episodes. -/
structure MetTally where
  ah : Tab Int
  wh : Int
  ns : Nat
  episodes : Nat
  deriving DecidableEq, Repr, Inhabited

/-- A remote cycle that waits for its samples (R451): its start and end in device time, its duration, and its end in device time since
reset, all in ns; and what its firing carries. -/
structure MetCycle where
  start : Nat
  finish : Nat
  dur : Nat
  ran : Nat
  seasoning : Bool
  subst : Bool
  deriving DecidableEq, Repr, Inhabited

/-- A metering system (11): device time since reset and device time of its last firing; by channel position the high-pass filter's state and the values of
the last cycle; the block so far: its number, device time since reset at its start, its cycles, the values of each cycle by position, and
Σ E_P, Σ E_Q and Σ E_S by element as FP64; flags; cycles and whole blocks since its seasoning began; whether its spindle was a substitute
at the last cycle; whether VANA_CLASS was 0 within the cycle in progress (R465); remote cycles that wait. -/
structure MetSystem where
  last : Option Nat
  lastTime : Nat
  filter : Tab (List Nat)
  before : Tab (List Nat)
  block : Nat
  began : Nat
  cycles : Nat
  waves : Tab (List (List Nat))
  sums : List (Nat × Nat × Nat)
  flags : Nat
  seen : Nat
  blocks : Nat
  subst : Bool
  unclassed : Bool
  closing : List MetCycle
  deriving DecidableEq, Repr, Inhabited

/-- A pulse input (11): device time since reset at the rising edges of the newest accepted pulse and of the one before, and the pulses of the step. -/
structure MetPulse where
  newest : Option Nat
  before : Option Nat
  step : Nat
  deriving DecidableEq, Repr, Inhabited

/-- A heat meter (11): flow in L/h of the last step, ΔE of the block in Wh, both as FP64, the temperatures, SENSOR_FAULT of the last step,
and of any step of the block (R460). -/
structure MetHeat where
  flow : Nat
  wh : Nat
  supply : Nat
  ret : Nat
  fault : Bool
  faulted : Bool
  deriving DecidableEq, Repr, Inhabited

/-- A pulse output (11): its remainder, the pulses that wait, by direction (true: negative), the clock at the start of its last pulse
and that pulse's width in ns, and the last contribution: its size, what one unit is of it, and its duration in ns. -/
structure MetOut where
  rem : Int
  waiting : List (Bool × Nat)
  started : Option Nat
  width : Nat
  size : Nat
  unit : Nat
  dur : Nat
  deriving DecidableEq, Repr, Inhabited

/-- The BM retention copy (R478): whether it holds one that is not consumed, its device time in ns, the registers' changes, the
remainders, the tally and the start of an episode in progress; and what the battery's seconds have added to the tally (R474). -/
structure MetRetention where
  held : Bool
  time : Nat
  delta : Tab Int
  rems : Tab Int
  tally : MetTally
  episode : Option Nat
  gained : MetTally
  deriving DecidableEq, Repr, Inhabited

/-- The metrology block (11): residues of the registers, their values at the last journal slot, the interval in progress and the one
after it, whether system 0 ended a cycle after the boundary, systems, samples of the remote channels by stamp, pulse inputs, heat
meters, pulse outputs, heat steps, heat blocks; the tally and the start of an episode in ns; the journal's newest SEQ, the rotating slot last written,
the boundary slot last written, the clock at the last periodic save; an EMERGENCY slot and its rewrites; the last slot write, as the slot's
address, the bytes it held before, the clock at the write's start, and whether a warning abandons it (R81, R479); the BM copy and the battery's
episode; the cell's seconds when the battery took over; and register snapshots by initiator, plus one. -/
structure MetState where
  residue : Tab Int
  saved : Tab Nat
  cur : MetInterval
  nxt : Option MetInterval
  after : Bool
  systems : Tab MetSystem
  remote : Tab (List (Nat × Int))
  pulses : Tab MetPulse
  heat : Tab MetHeat
  outs : Tab MetOut
  steps : Nat
  heatBlock : Nat
  tally : MetTally
  episode : Option Nat
  seq : Nat
  rotating : Nat
  boundary : Nat
  savedAt : Nat
  emergency : Option (Nat × Nat)
  writing : Option (Nat × List Byte × Nat × Bool)
  bm : MetRetention
  battery : Option Nat
  fell : Option Nat
  snaps : Tab Nat
  deriving DecidableEq, Repr, Inhabited

/-- A Latch channel (12): the clock at its last acceptance and the time when HIGHEST was last seen, in ns (none: not since MOUNT, or
withdrawn), the SEQ of the next command of its local source, the SEQ of its next forwarded frame, whether it accepted a
command under the part's own claim, whether it is out of service (R668), and the clock of the last drop that raised source 49. -/
structure LatchChannel where
  accepted : Option Nat
  seen : Option Nat
  localSeq : Nat
  fwdSeq : Nat
  ours : Bool
  stuck : Bool
  dropped : Option Nat
  deriving DecidableEq, Repr, Inhabited

/-- The Hinge record (12): SEQ, EPOCH, CLAIM, FLAGS, UNFIT_CODE, PROOF_T and the FLOOR entries as SETID and EPOCH. -/
structure HingeRecord where
  seq : Nat
  epoch : Nat
  claim : Nat
  unfit : Bool
  wasActive : Bool
  epochReset : Bool
  unfitCode : Nat
  proofTime : Nat
  floors : List (Nat × Nat)
  deriving DecidableEq, Repr, Inhabited

/-- What a peer's heartbeats last told (12), with the clock at the last one on LVDS and on Milio, FLAGS, HBSEQ, EPOCH, HEALTH and
GEN, and its STATE before a proof run (R503). -/
structure PeerState where
  lvds : Option Nat
  milio : Option Nat
  flags : Nat
  seq : Nat
  epoch : Nat
  health : Nat
  gen : Nat
  ready : Nat
  deriving DecidableEq, Repr, Inhabited

/-- A checkpoint image at a standby (R507): CKSEQ, FINAL, the claim it was sent under, its half of CKBUF, the bytes it has, and its
length. -/
structure CheckpointIn where
  seq : Nat
  final : Bool
  claim : Nat
  half : Nat
  got : Nat
  len : Nat
  deriving DecidableEq, Repr, Inhabited

/-- A stored checkpoint: CKSEQ, FINAL (until R514 abandons it), half, length, the device time of its cut in ns, the five generation words,
whether it is applied, the clock when it was stored, and until it is applied the cut and the generations of the checkpoint applied before it. -/
structure CheckpointHeld where
  seq : Nat
  final : Bool
  half : Nat
  len : Nat
  cut : Nat
  gens : List Nat
  applied : Bool
  since : Nat
  prior : Option (Nat × List Nat)
  deriving DecidableEq, Repr, Inhabited

/-- A planned hand-over (R512 to R515): the target's UNIT, 0 for the highest-ranked ready peer, whether HNG.CMD asked for it, whether the
final cut's releases are withheld, and the target of the FINAL checkpoint as peer entry plus one. -/
structure HandOver where
  unit : Nat
  commanded : Bool
  final : Bool
  target : Nat
  deriving DecidableEq, Repr, Inhabited

/-- The Hinge (12): its record; the clock at the last heartbeat sent and at the last health report; the health word; HBSEQ; STATE, CLAIM and
FLAGS last sent; YIELD until the mode follows; the clock since when it listens, since when no ACTIVE peer is heard, and whether
the ACTIVE peer yielded; since when it is steadily ready, and REVERT_REQ (R515); the peers; whether a Latch status frame
shows a claim (R499); cut firings since the last due cut, the clock of a cut that is due, whether a checkpoint is being sent, since
when, and how long the last one took; the image coming in and the one stored; the hand-over in progress; the proof run that HNG.CMD
asked for (2 PROOF_NOW, 3 CLEAR_UNFIT), whether one runs, and the clock at the end of the last. -/
structure HingeState where
  record : HingeRecord
  lastSent : Nat
  lastHealth : Nat
  health : Nat
  hbSeq : Nat
  told : Nat × Nat × Nat
  yielding : Bool
  listen : Nat
  active : Option Nat
  yielded : Bool
  steady : Option Nat
  revert : Bool
  peers : Tab PeerState
  statusActive : Bool
  cutCount : Nat
  cutDue : Option Nat
  sending : Bool
  sendSince : Nat
  transfer : Nat
  incoming : Option CheckpointIn
  stored : Option CheckpointHeld
  handover : Option HandOver
  proofAsked : Nat
  proofRuns : Bool
  proofLast : Nat
  deriving DecidableEq, Repr, Inhabited

/-- The Latch (12): its channels, and the clock at the last STATUS frames. -/
structure LatchState where
  channels : Tab LatchChannel
  statusAt : Nat
  deriving DecidableEq, Repr, Inhabited

/-- A piece of a velocity profile (13): its duration in s, and rate, acceleration and jerk at its start. -/
structure Seg where
  dur : Fp
  v : Fp
  a : Fp
  j : Fp
  deriving DecidableEq, Repr, Inhabited

/-- A move in progress (13): its profile, in steps times `scale`; the tick of t = 0; the position already reached beyond the last
whole step; its steps, those emitted, and the way; start rate and acceleration in the profile's own units; whether it is homing;
the group it belongs to (none 15); a target that starts when it ends. -/
structure Move where
  segs : List Seg
  scale : Fp
  start : Nat
  frac : Fp
  dist : Nat
  done : Nat
  forward : Bool
  v0 : Fp
  amax : Fp
  homing : Bool
  group : Nat
  next : Option Int
  deriving DecidableEq, Repr, Inhabited

/-- An axis (13): its move, the target held under R546, the target last taken, PRF_EN, the tick of its last step (0: none of this move) and the interval
before it, the tick since when it stands, and the tick of its last sample (R548). -/
structure Axis where
  move : Option Move
  held : Option Int
  target : Int
  enable : Bool
  lastStep : Nat
  interval : Nat
  since : Nat
  sampled : Nat
  deriving DecidableEq, Repr, Inhabited

/-- A region of the panel (14): its number r, its rectangle and MODE; 1 pending, 2 updating, 3 reversing; the frame index it drives next;
whether recovery runs it, whether it clears the panel, whether its copy was made at the last frame start (R572), and the initiators
that asked for it. -/
structure PnlRegion where
  slot : Nat
  x : Nat
  y : Nat
  w : Nat
  h : Nat
  mode : Nat
  kind : Nat
  phase : Nat
  recovery : Bool
  clears : Bool
  fresh : Bool
  whos : List Nat
  deriving DecidableEq, Repr, Inhabited

/-- Where PNL is in its power sequence (R563, R566): at rest (off or on), rails rising, recovering, clearing, waiting LIGHT_DELAY, completing updates,
clearing before power-off, rails falling. -/
inductive PnlStage where
  | rest
  | rising
  | recovering
  | clearing
  | lighting
  | finishing
  | darkening
  | falling
  deriving DecidableEq, Repr, Inhabited

/-- PNL (14): the stage, the rails enabled, the clock at the last step of the sequence, LCD clear frames left, the polarity count f, the
regions in the order in which they became pending, the regions a journal record left for recovery, whether the panel is to be cleared as
under EPD_CLEAR (R577), the next journal SEQ, the clock at the end of the frame's last active line, the section body in force while PNL
powers off under it, and the frame buffer taken at the last vertical sync (R562). -/
structure PnlState where
  stage : PnlStage
  rails : Nat
  since : Nat
  clears : Nat
  pol : Nat
  regions : List PnlRegion
  recover : List PnlRegion
  mustClear : Bool
  seq : Nat
  busyUntil : Nat
  old : List Byte
  shown : Nat
  deriving DecidableEq, Repr, Inhabited

/-- A Milio packet (15): destination, originating node, virtual channel (8: management), hops, broadcast, payload; for one that is passed on
the link it came from plus one, and the credits that are returned there when it starts (R584). -/
structure MilPacket where
  dst : Nat
  src : Nat
  vc : Nat
  hops : Nat
  bcast : Bool
  payload : List Byte
  ingress : Nat := 0
  credits : Nat := 0
  deriving DecidableEq, Repr, Inhabited

/-- A link key and its generation (R593, R594). -/
structure MilKey where
  kgen : Nat
  key : List Byte
  deriving DecidableEq, Repr, Inhabited

/-- A virtual channel of a link, 9 times the link plus the channel, 8 for management packets (15): credits held toward the next
hop, packets that wait, LCNT, the transmit key, the receive key, the one before it and until when it is accepted (R594), the
exchange in progress with its generation and own scalar, whether the exchange failed, the packets that failed and passed
their tags under the receive key (R659), whose turn it is (R597), and the clock since when its first packet waits (R590). -/
structure MilVc where
  credits : Nat
  waiting : List MilPacket
  lcnt : Nat
  tx : Option MilKey
  rx : Option MilKey
  rxOld : Option (MilKey × Nat)
  rxUsed : Bool
  kx : Option MilKey
  kxSince : Nat
  lastGen : Nat
  failed : Bool
  badTags : Nat
  passed : Bool
  ringTurn : Bool
  since : Nat
  deriving DecidableEq, Repr, Inhabited

/-- A packet held for retry (R586): its sequence, channel, bytes as sent, how often it was resent, and the clock when it was last
sent. -/
structure MilSent where
  seq : Nat
  vc : Nat
  packet : MilPacket
  bytes : List Byte
  resends : Nat
  time : Nat
  deriving DecidableEq, Repr, Inhabited

/-- A link (15): the next sequence to send and to receive, whether packets are discarded until a resend (R585), the packets held
for retry, whether LINKINFO was sent and received, the peer's node, and the packets that wait for a receive buffer with the
clock and the device time at their arrival and whether they were encrypted (R599); and the clock at its last change of state (R600). -/
structure MilLink where
  nextSeq : Nat
  expect : Nat
  discarding : Bool
  sent : List MilSent
  told : Bool
  heard : Bool
  peer : Nat
  held : List (Nat × Nat × Bool × MilPacket)
  since : Nat
  deriving DecidableEq, Repr, Inhabited

/-- The Milio ports (15): links, virtual channels, packets for this node that never left it with their port (R589), and the
route entries that use their alternate. -/
structure MilState where
  links : Tab MilLink
  vcs : Tab MilVc
  loop : List (Nat × MilPacket)
  onAlt : Nat
  deriving DecidableEq, Repr, Inhabited

/-- The Ethernet ports (15): frames that wait for a receive buffer, with the clock and the device time at their arrival, by port. -/
structure EthState where
  held : Tab (List (Nat × Nat × List Byte))
  deriving DecidableEq, Repr, Inhabited

/-- The CAN controllers (16): frames of the Latch that wait, by controller, as ID word and data (R614, R617); what is on the bus, 1 a Latch
frame, 2 plus a buffer, 0 nothing; CAN.TSC and the device time at its start-of-frame; the controllers that recover from bus-off, and the time
(in units of `chip.ran`) at which each began to. -/
structure CanState where
  latch : Tab (List (Nat × List Byte))
  onBus : Tab Nat
  sof : Tab (Nat × Nat)
  recovering : Tab Bool
  recoverFrom : Tab Nat
  deriving DecidableEq, Repr, Inhabited

/-- The PCIe endpoint (16): the words of the MSI-X table as a host wrote them, entry v in words 4v to 4v+3 (bit 0 of word 4v+3 here set: not
masked), the pending bit array, and the vectors whose source's present pendency is told. -/
structure PciState where
  table : Tab Word
  pba : Nat
  told : Nat
  deriving DecidableEq, Repr, Inhabited

/-- A slot of the key store (17): state (0 EMPTY, 1 VALID, 2 ORPHANED, 3 INVALIDATED), level, type, parent, usage bits as
in the provisioning entry, WORLD, LC, INIT, the AUTH flag and the value. -/
structure KeySlot where
  state : Nat
  level : Nat
  type : Nat
  parent : Nat
  usage : Nat
  world : Nat
  lc : Nat
  init : Nat
  auth : Bool
  value : List Byte
  deriving DecidableEq, Repr, Inhabited

/-- A provisioning record (R652): SEQ, lifecycle state, transitions, and the entries of slots 3 to 15 as provisioned. -/
structure KeyRecord where
  seq : Nat
  life : Nat
  transitions : Nat
  entries : Tab (List Byte)
  deriving DecidableEq, Repr, Inhabited

/-- The KEY block (17): whether the PUF is enrolled, the two copies of the provisioning record (`none`: the tag fails),
which copy is in use, the slots, the accepted requests (initiator and descriptor offset), the slots that await reclaim,
the DRBG's request counter, and the copy last written with the time its write began (in units of `chip.ran`). -/
structure KeyState where
  enrolled : Bool
  copies : Tab (Option KeyRecord)
  current : Nat
  slots : Tab KeySlot
  queue : List (Who × Nat)
  reclaim : List Nat
  draws : Nat
  writing : Option (Nat × Nat)
  deriving DecidableEq, Repr, Inhabited

/-- The balls (19): the levels the board puts on the GPIO balls, by number, as a mask, and the level of HSP_IRQ_N that a fenced Link holds (true:
low; R36). -/
structure PinState where
  ball : Nat
  irqHeld : Option Bool
  deriving DecidableEq, Repr, Inhabited

/-- The reasons a step can stop. No rule of the spec stops the block, so no meaning raises one of these; the type is
kept closed and small. -/
inductive Fault where
  /-- A stuck block; raised by no meaning of this model, so it is safe. -/
  | stuck
  deriving DecidableEq, Repr

/-- The reasons a command has no meaning. -/
inductive Refusal where
  /-- A command of the opcode table without a meaning in this model, raised by its arm of `exec`; safe: nothing can
  be proved of what such a command does. -/
  | notModelled (mnemonic : String)
  deriving DecidableEq, Repr

/-- The state of the block. -/
structure State where
  /-- The commands that wait, first in, first out (the model's own field). -/
  pending : List Instr
  /-- The member of the family (R3). -/
  variant : Variant
  /-- Every memory of the map but the registers (R49, R55, R716). -/
  mem : Memory
  /-- The generation of the LPDDR5's undefined contents (R93), the index of a free value. -/
  ddrGen : Nat
  /-- Poisoned 64-bit words, by address, rising (R35). -/
  poison : List Nat
  /-- The registers that hold a value of their own, by offset from 0x00_8000_0000; a register kept per initiator has
  its bank above 2^32. A register that is not listed holds 0. -/
  regs : Tab Word
  /-- The number of free values taken (the model's own field). -/
  freeCounter : Nat
  /-- The last bus response (R25, R705). -/
  bus : BusReply
  /-- Result slots by address (R17 to R23). -/
  slots : Tab Slot
  plic : PlicState
  flt : FltState
  inj : InjState
  chip : ChipState
  time : TimeCounter
  pwr : PowerState
  blk : BlkState
  key : KeyState
  spn : SpnState
  tim : TimState
  rtc : RtcState
  ward : WardState
  adp : AdpState
  tsk : TskState
  lathe : Tab LatheState
  fed : FedState
  mil : MilState
  eth : EthState
  can : CanState
  pci : PciState
  fus : FusState
  met : MetState
  prf : Tab Axis
  latch : LatchState
  hinge : HingeState
  pin : PinState
  pnl : PnlState
  cle : CleState
  /-- What left the part, in order (the model's own field). -/
  outbox : List Sent
  deriving DecidableEq, Repr, Inhabited

/-! ### Reset -/

/-- SYS.ID of a variant (R3). -/
def Variant.id : Variant → Word
  | .ev4816 => 0x48160100#32
  | .ev4808 => 0x48080100#32
  | .ev4804 => 0x48040100#32
  | .ev4801 => 0x48010100#32

/-- SYS.UNITS of a variant (R3). -/
def Variant.units : Variant → Word
  | .ev4816 => 0x00FFFFFE#32
  | .ev4808 => 0x000F377E#32
  | .ev4804 => 0x00031062#32
  | .ev4801 => 0x00010000#32

/-- SYS.COUNTS of a variant (R3). -/
def Variant.counts : Variant → Word
  | .ev4816 => 0x89149040#32
  | .ev4808 => 0x448A9040#32
  | .ev4804 => 0x22224820#32
  | .ev4801 => 0x10004410#32

/-- SYS.COUNTS2 of a variant (R3). -/
def Variant.counts2 : Variant → Word
  | .ev4816 => 0x00800100#32
  | .ev4808 => 0x00800100#32
  | .ev4804 => 0x00400040#32
  | .ev4801 => 0x00200020#32

/-- The registers that read other than 0 right after reset: the reset values of the register tables, where they are not 0, and what a
board shows with every supply in its window and a battery of 3.0 V (log entry 7). -/
def resetWords (v : Variant) : List (Nat × Nat) :=
  [(Reg.sysId, v.id.toNat), (Reg.sysUnits, v.units.toNat), (Reg.sysCounts, v.counts.toNat), (Reg.sysCounts2, v.counts2.toNat),
   (Reg.sysScrub, 0x00010100), (Reg.sysMode, 0x01), (Reg.sysRstcause, 1), (Reg.sysBoot, 7), (Reg.blkStatus, 7), (Reg.pmuVcore, 0x03200320), (Reg.pmuPhases, 0xF), (Reg.pmuRails, 0x3F3F),
   (Reg.pmuBatstat, 0x0BB80001), (Reg.blkQtimeout, 0x3E8), (Reg.timCtrl, 1), (Reg.timStatus, 0x10), (Reg.timIncrInt, 4),
   (Reg.timJumpLimit, 0x186A0), (Reg.timJumpConfirm, 0x3C), (Reg.timLockThresh, 0x64), (Reg.timUtcOffset, 0x25), (Reg.timServo, 0x502),
   (Reg.rtcSetDate, 0x20000101), (Reg.adpPlace, 0xFF), (Reg.lthQwater 0, 0x300), (Reg.lthQwater 1, 0x300), (Reg.lthQwater 2, 0x300),
   (Reg.lthQwater 3, 0x300), (Reg.fedStatus, 0x20000000), (Reg.fedCtrl, 1), (Reg.latSafeLo, 0xFFFFFFFF), (Reg.latSafeHi, 0xFFFFFFFF),
   (Reg.prfStatus, 0xFFFF), (Reg.pnlLight, 0x80), (Reg.ddrCeThresh, 0x100), (Reg.pciIds, v.id.toNat / 65536 * 65536 + 0x1F5A)] ++
  (List.range 16).map fun n => (Reg.prfAstate n, 0x10000000)

/-- A register table from a list. -/
def tabOf (ws : List (Nat × Nat)) : Tab Word := ws.foldl (fun t w => t.set w.1 (BitVec.ofNat 32 w.2)) Tab.empty

/-- A part right after its reset, of a variant, as the spec gives it; nothing has been written to its memories. -/
def State.powerUp (v : Variant) : State :=
  { (default : State) with
    variant := v
    regs := tabOf (resetWords v)
    pwr := { (default : PowerState) with bkLow := 0x5A5AA5A5#32, bkHigh := 0xA5A55A5A#32, bmLow := 0x5A5AA5A5#32, bmHigh := 0xA5A55A5A#32 } }

/-- The block right after reset: an EV4816 (log entry 2). -/
def State.reset : State := State.powerUp .ev4816

end Sys2Proof.Machine
end

