-- ==== Sys2Proof/Machine/Ops.lean ====
section
/-! DEFINITION. The named operations every meaning is written with: memory, registers, the bus reply, interrupts, device
time, the mode, initiators and worlds, the running configuration, fault records, result slots, fencing. -/
namespace Sys2Proof.Machine

/-- The outcome of a command: the next state. -/
abbrev Reply := Host.Outcome State Fault Refusal

/-! ### What the variant has (R3) -/

/-- The bit of the variant in a Blank's VARIANTS byte (03, header). -/
def Variant.index : Variant → Nat
  | .ev4816 => 0
  | .ev4808 => 1
  | .ev4804 => 2
  | .ev4801 => 3

def Variant.cores (v : Variant) : Nat := field v.counts 31 28
def Variant.lathes (v : Variant) : Nat := field v.counts 27 25
def Variant.lanes (v : Variant) : Nat := field v.counts 18 16
def Variant.fusion (v : Variant) : Nat := field v.counts 20 19
def Variant.cans (v : Variant) : Nat := field v.counts 15 13
def Variant.axes (v : Variant) : Nat := field v.counts 12 8
def Variant.latch (v : Variant) : Nat := field v.counts 6 0
def Variant.tasks (v : Variant) : Nat := field v.counts2 24 16
def Variant.loops (v : Variant) : Nat := field v.counts2 8 0
/-- Cells of one Lathe (00, variants; SYS.COUNTS.CELLS counts all in units of 128). -/
def Variant.cellsPerLathe (v : Variant) : Nat := 128 * field v.counts 24 21 / max 1 v.lathes
def Variant.hasUnit (v : Variant) (b : Nat) : Bool := bit v.units.toNat b
def Variant.hasDdr (v : Variant) : Bool := v.hasUnit 9
def Variant.hasPci (v : Variant) : Bool := v.hasUnit 8
def Variant.hasMil (v : Variant) (p : Nat) : Bool := v.hasUnit (6 + p)
def Variant.hasFus (v : Variant) : Bool := v.hasUnit 10
def Variant.hasFed (v : Variant) : Bool := v.hasUnit 1
def Variant.hasFedCoordinator (v : Variant) : Bool := v.hasUnit 2

/-- Stock bytes (01, SRAM table). -/
def Variant.stockBytes : Variant → Nat
  | .ev4816 => 0x1000000
  | .ev4808 => 0x400000
  | .ev4804 => 0x600000
  | .ev4801 => 0x200000

/-- One eighth of the MRAM, `S` of R49. -/
def Variant.mramS : Variant → Nat
  | .ev4816 => 0x200000
  | .ev4808 => 0x200000
  | .ev4804 => 0x100000
  | .ev4801 => 0x80000

/-- Bytes of a Lathe's local store (01, SRAM table). -/
def Variant.latheStore : Variant → Nat
  | .ev4816 => 0x800000
  | .ev4808 => 0x800000
  | .ev4804 => 0x400000
  | .ev4801 => 0

/-! ### Addresses (01, physical address map) -/

def Addr.stock : Nat := 0x10000000
def Addr.core : Nat := 0x20000000
def Addr.lathe : Nat := 0x40000000
def Addr.align : Nat := 0x60000000
def Addr.mram : Nat := 0x70000000
def Addr.regs : Nat := 0x80000000
def Addr.ddr : Nat := 0x1000000000

/-- The address of the system records, 6·S into the MRAM (R49). -/
def Addr.records (v : Variant) : Nat := Addr.mram + 6 * v.mramS

/-! ### Memory -/

/-- What an address reads as that is not listed: the boot ROM holds bytes the spec does not give (a free value, log entry 46), SRAM is clear
after reset (R93), MRAM that nothing has written reads 0 (DESIGN CHOICE, log entry 3), LPDDR5 holds an undefined byte of its generation
(R93, log entry 4). -/
def Memory.unlisted (gen a : Nat) : Byte :=
  if a < 0x40000 then Config.romByte a else if a < Addr.ddr then 0#8 else Config.ddrByte gen a

/-- The canonical form of memory. -/
def Memory.wf (gen : Nat) (m : Memory) : Bool := cellsWf (Memory.unlisted gen) m

/-- Read one byte. -/
def Memory.read (gen : Nat) (m : Memory) (a : Nat) : Byte := (cellsFind a m).getD (Memory.unlisted gen a)

/-- Write one byte, keeping the canonical form. -/
def Memory.write (gen : Nat) (m : Memory) (a : Nat) (b : Byte) : Memory := cellsPut (Memory.unlisted gen a) a b m

/-- Write bytes at rising addresses. -/
def Memory.writeAll (gen : Nat) (m : Memory) (a : Nat) : List Byte → Memory
  | [] => m
  | b :: bs => Memory.writeAll gen (Memory.write gen m a b) (a + 1) bs

/-- Read `n` bytes at rising addresses. -/
def Memory.readAll (gen : Nat) (m : Memory) (a : Nat) : Nat → List Byte
  | 0 => []
  | n + 1 => Memory.read gen m a :: Memory.readAll gen m (a + 1) n

/-- The entries outside `[lo, hi)`, so that those addresses read as unlisted. -/
def Memory.drop (m : Memory) (lo hi : Nat) : Memory := m.filter fun c => c.1 < lo || hi ≤ c.1

def State.byte (s : State) (a : Nat) : Byte := Memory.read s.ddrGen s.mem a
def State.bytes (s : State) (a n : Nat) : List Byte := Memory.readAll s.ddrGen s.mem a n
/-- Poisoned words that `n` bytes from `a` do not write in full (R35). -/
def healed (a n : Nat) (ws : List Nat) : List Nat := ws.filter fun w => !(decide (a ≤ w) && decide (w + 8 ≤ a + n))
/-- Bytes are written; a poisoned word that they write in full is poisoned no more (R35). -/
def State.poke (s : State) (a : Nat) (bs : List Byte) : State :=
  { s with mem := Memory.writeAll s.ddrGen s.mem a bs, poison := healed a bs.length s.poison }
/-- Little-endian numbers in memory. -/
def State.mem16 (s : State) (a : Nat) : Nat := leNat (s.bytes a 2)
def State.mem32 (s : State) (a : Nat) : Nat := leNat (s.bytes a 4)
def State.mem64 (s : State) (a : Nat) : Nat := leNat (s.bytes a 8)
def State.poke32 (s : State) (a v : Nat) : State := s.poke a (leBytes 4 v)

/-! ### Registers -/

/-- The bank of a register that is kept per initiator. -/
def bankOf (id off : Nat) : Nat := (id + 1) * 0x100000000 + off

def State.reg (s : State) (r : Nat) : Word := s.regs.get r
def State.setReg (s : State) (r : Nat) (v : Word) : State := { s with regs := s.regs.set r v }
def State.num (s : State) (r : Nat) : Nat := (s.reg r).toNat
def State.setNum (s : State) (r v : Nat) : State := s.setReg r (BitVec.ofNat 32 v)
def State.fld (s : State) (r hi lo : Nat) : Nat := field (s.reg r) hi lo
def State.setFld (s : State) (r hi lo v : Nat) : State := s.setReg r (setField (s.reg r) hi lo v)
def State.flag (s : State) (r b : Nat) : Bool := bit (s.reg r).toNat b
def State.setFlag (s : State) (r b : Nat) (v : Bool) : State := s.setFld r b b (ofBool v)

/-- Add to a field that saturates at its largest value. -/
def State.bump (s : State) (r hi lo n : Nat) : State :=
  s.setFld r hi lo (min (2 ^ (hi + 1 - lo) - 1) (s.fld r hi lo + n))

/-- Add to a field modulo its width. -/
def State.roll (s : State) (r hi lo n : Nat) : State := s.setFld r hi lo (s.fld r hi lo + n)

/-! ### The bus reply (R25, R705) -/

def Code.ok : Nat := 0
def Code.absent : Nat := 0x20
def Code.denied : Nat := 0x21
def Code.mbxFull : Nat := 0x22
def Code.locked : Nat := 0x23
def Code.align : Nat := 0x24
def Code.uncorrectable : Nat := 0x25

def State.reply (s : State) (code : Nat) (data : List Byte) : State := { s with bus := { code := code, data := data } }
/-- A completed write, or a read that returns nothing. -/
def State.replyOk (s : State) : State := s.reply Code.ok []
/-- A completed read of a register. -/
def State.replyWord (s : State) (v : Nat) : State := s.reply Code.ok (leBytes 4 v)

/-! ### Device time (R190) -/

/-- Device time in whole nanoseconds. -/
def State.now (s : State) : Nat := s.time.sec * 1000000000 + s.time.sub / 2 ^ 32

/-- The deadline word of kind 0 of a time in ns: seconds in the high, nanoseconds in the low half (R184, R671). -/
def stampWord (ns : Nat) : Nat := (ns / 1000000000) % 2 ^ 31 * 2 ^ 32 + ns % 1000000000

/-! ### The mode (R96) -/

def Mode.vigil : Nat := 0
def Mode.mount : Nat := 1
def Mode.standby : Nat := 2
def Mode.run : Nat := 3
def Mode.hold : Nat := 4
def Mode.safe : Nat := 5

/-- The device mode, SYS.MODE.MODE (R96). -/
def State.mode (s : State) : Nat := s.fld Reg.sysMode 3 0
/-- Why the part is halted in MOUNT, SYS.BOOT.FAIL; 0 while it is not. -/
def State.bootFail (s : State) : Nat := s.fld Reg.sysBoot 11 8
def State.haltedInMount (s : State) : Bool := s.mode == Mode.mount && s.bootFail != 0
/-- The control engines run: RUN, or HOLD with other programs running (R97, R99). -/
def State.controlRuns (s : State) : Bool := s.mode == Mode.run || s.mode == Mode.hold

/-- Region `r` is fenced (R36). Regions: 0 Control, 1 Solve, 2 Sense, 3 Link; Keep (4) is never fenced (R38). -/
def State.fenced (s : State) (r : Nat) : Bool := decide (r < 4) && s.flag Reg.sysFence r

/-! ### Interrupts -/

/-- PLIC register places within the register range: base 0x0400_0000 (01, "Interrupts"); the layout within is that of the
RISC-V PLIC specification (PRESUMED, log entry 5). -/
def Plic.base : Nat := 0x4000000
def Plic.priority (n : Nat) : Nat := Plic.base + 4 * n
def Plic.pending (n : Nat) : Nat := Plic.base + 0x1000 + 4 * n
def Plic.enable (ctx n : Nat) : Nat := Plic.base + 0x2000 + 0x80 * ctx + 4 * n
def Plic.threshold (ctx : Nat) : Nat := Plic.base + 0x200000 + 0x1000 * ctx
def Plic.claim (ctx : Nat) : Nat := Plic.base + 0x200004 + 0x1000 * ctx

/-- The sources no block gives a meaning, which never become pending (R63). -/
def reservedSource (n : Nat) : Bool :=
  n == 0 || (104 ≤ n && n ≤ 111) || 488 ≤ n || (21 ≤ n && n ≤ 23) || (29 ≤ n && n ≤ 31) ||
  n == 462 || n == 463 || (473 ≤ n && n ≤ 479)

/-- The sources of units the variant lacks, which never become pending (R9). -/
def absentSource (v : Variant) (n : Nat) : Bool :=
  (112 ≤ n && n ≤ 175 && !v.hasUnit (12 + (n - 112) / 16)) ||
  (176 ≤ n && n ≤ 191 && !v.hasFed) ||
  (320 ≤ n && n ≤ 335 && !v.hasFus) ||
  (352 ≤ n && n ≤ 383 && !v.hasMil ((n - 352) / 16)) ||
  (416 ≤ n && n ≤ 431 && v.cans ≤ (n - 400) / 8) ||
  (432 ≤ n && n ≤ 439 && !v.hasPci) ||
  (456 ≤ n && n ≤ 463 && !v.hasDdr)

/-- Whether the part can deliver: in VIGIL only the battery domains run. -/
def State.awake (s : State) : Bool := s.mode != Mode.vigil

/-- Source `n` becomes pending (R9, R63), and a PCIe MSI-X vector mapped to it becomes due (R626). -/
def State.raise (s : State) (n : Nat) : State :=
  if reservedSource n || absentSource s.variant n || decide (511 < n) || !s.awake then s
  else { s with plic := { s.plic with pendingMask := setBit s.plic.pendingMask n } }

def State.pendingSource (s : State) (n : Nat) : Bool := bit s.plic.pendingMask n

/-- Several sources become pending. -/
def State.raiseAll (s : State) (ns : List Nat) : State := ns.foldl State.raise s

/-- Every change of mode raises source 15 (R96); SYS.MODE shows both modes. -/
def State.setMode (s : State) (m : Nat) : State :=
  if s.mode = m then s
  else
    let old := s.mode
    let s := (s.setFld Reg.sysMode 7 4 old).setFld Reg.sysMode 3 0 m
    { s with chip := { s.chip with modeSince := s.chip.up } }.raise 15

/-! ### The running configuration (03) -/

def Ty.struct : Nat := 1
def Ty.ward : Nat := 2
def Ty.spindle : Nat := 3
def Ty.task : Nat := 4
def Ty.loop : Nat := 5
def Ty.fusion : Nat := 6
def Ty.lathe : Nat := 7
def Ty.fed : Nat := 8
def Ty.metro : Nat := 9
def Ty.latch : Nat := 10
def Ty.hinge : Nat := 11
def Ty.panel : Nat := 12
def Ty.pinmux : Nat := 13
def Ty.keypol : Nat := 14

def Region.control : Nat := 0
def Region.solve : Nat := 1
def Region.sense : Nat := 2
def Region.link : Nat := 3
def Region.keep : Nat := 4

/-- The section of a type, region and index, if the configuration holds it. -/
def findSection (type region index : Nat) : List Section → Option Section
  | [] => none
  | x :: xs => if x.type = type ∧ x.region = region ∧ x.index = index then some x else findSection type region index xs

/-- The body of a section; a section left out has no entries (R712), and its bytes read 0. -/
def bodyOf (cfg : List Section) (type region index : Nat) : List Byte :=
  match findSection type region index cfg with
  | some x => x.body
  | none => []

/-- The running body of a section. -/
def State.body (s : State) (type region index : Nat) : List Byte := bodyOf s.blk.running type region index
def State.hasSection (s : State) (type region index : Nat) : Bool :=
  (findSection type region index s.blk.running).isSome

def State.keepStruct (s : State) : List Byte := s.body Ty.struct Region.keep 0
def State.controlStruct (s : State) : List Byte := s.body Ty.struct Region.control 0
def State.solveStruct (s : State) : List Byte := s.body Ty.struct Region.solve 0
def State.senseStruct (s : State) : List Byte := s.body Ty.struct Region.sense 0
def State.linkStruct (s : State) : List Byte := s.body Ty.struct Region.link 0

/-- A FLAGS bit of Keep STRUCT (03). -/
def State.keepFlag (s : State) (b : Nat) : Bool := bit (u16 s.keepStruct 2) b

/-! ### Initiators and worlds (R61) -/

/-- The first fusion engine. -/
def Init.fusion : Nat := 0x0C
def Init.warden : Nat := 0x0E
def Init.keeper : Nat := 0x0F
def Init.pcieHost : Nat := 0x10
def Init.spiHost : Nat := 0x11
def Init.milDma : Nat := 0x12
def Init.ethDma : Nat := 0x14
def Init.metDma : Nat := 0x15
def Init.cle : Nat := 0x16
def Init.fed : Nat := 0x17
def Init.pnl : Nat := 0x18
def Init.hinge : Nat := 0x19
def Init.debug : Nat := 0x1F

/-- Lifecycle states (17), shown in KEY.LC. -/
def Life.factory : Nat := 0
def Life.provisioned : Nat := 1
def Life.field : Nat := 2
def Life.service : Nat := 3
def Life.retired : Nat := 4
def State.life (s : State) : Nat := s.fld Reg.keyLc 2 0

/-- The world bit of an initiator (R61, the table of initiators). -/
def State.secure (s : State) (w : Who) : Bool :=
  if w.id < 8 then w.mmode && bit (u8 s.keepStruct 0) w.id
  else if w.id = Init.warden ∨ w.id = Init.keeper ∨ w.id = Init.metDma ∨ w.id = Init.hinge then true
  else if w.id = Init.milDma ∨ w.id = Init.milDma + 1 then
    bit (u8 s.linkStruct (0x20 + 16 * (8 * (w.id - Init.milDma) + w.vc % 8))) 0
  else if w.id = Init.debug then s.life == Life.factory || s.life == Life.service
  else false

end Sys2Proof.Machine
namespace Sys2Proof
open Machine

def Who.isCore (w : Who) : Bool := decide (w.id < 8)
def Who.isHost (w : Who) : Bool := w.id == Init.pcieHost || w.id == Init.spiHost
def Who.isWarden (w : Who) : Bool := w.id == Init.warden
def Who.isKeeper (w : Who) : Bool := w.id == Init.keeper

end Sys2Proof
namespace Sys2Proof.Machine

/-- Application cores and secure-world initiators. -/
def State.appOrSecure (s : State) (w : Who) : Bool := w.isCore || s.secure w
/-- Application cores, the host and secure-world initiators. -/
def State.appHostOrSecure (s : State) (w : Who) : Bool := w.isCore || w.isHost || s.secure w

/-! ### The fault collector (R668 to R676) -/

def Act.none : Nat := 0
def Act.corrected : Nat := 1
def Act.refused : Nat := 2
def Act.retried : Nat := 3
def Act.outOfService : Nat := 4
def Act.stopped : Nat := 5
def Act.halted : Nat := 6
def Act.replaced : Nat := 7
def Act.substituted : Nat := 8
def Act.fenced : Nat := 9
def Act.safe : Nat := 10
def Act.handover : Nat := 11
def Act.reset : Nat := 12

/-- LOCATION of a record (R671): region, block index, cell. -/
def location (region block cell : Nat) : Nat := region % 16 * 2 ^ 28 + block % 256 * 2 ^ 20 + cell % 2 ^ 20

/-- What a detector reports (R668, R671). -/
structure Detection where
  det : Nat
  level : Nat
  loc : Nat
  init : Option Nat := none
  world : Bool := false
  action : Nat := 0
  code : Nat := 0
  detail : Nat := 0
  parent : Option Nat := none
  injected : Bool := false
  shadow : Bool := false
  deriving DecidableEq, Repr

/-- The record stands before `r` in the order of R41: earlier stamp, then lower detector ID. -/
def FaultRecord.before (a b : FaultRecord) : Bool := a.stamp < b.stamp || (a.stamp == b.stamp && a.det < b.det)

/-- Insert into the waiting records: those whose SEQ is fixed (R674) stay in front, the others keep the order of R41. -/
def insertRecord (r : FaultRecord) : List FaultRecord → List FaultRecord
  | [] => [r]
  | x :: xs => if x.seq.isNone && r.before x then r :: x :: xs else x :: insertRecord r xs

/-- A record equal in detector, level, location and code takes the occurrence (R676). -/
def mergeRecord (d : Detection) : List FaultRecord → Option (List FaultRecord × Nat)
  | [] => none
  | x :: xs =>
    if x.det = d.det ∧ x.level = d.level ∧ x.loc = d.loc ∧ x.code = d.code ∧ x.injected = d.injected then
      some ({ x with count := min 0xFFFF (x.count + 1) } :: xs, x.tag)
    else (mergeRecord d xs).map fun (ys, t) => (x :: ys, t)

/-- The stamp of a record in ns: device time, or the count from reset release while device time is not loaded (R41, R707). -/
def State.recordStamp (s : State) : Nat := if s.chip.timeLoaded then s.now else s.chip.up
/-- The time a record carries, and whether it is early (R707). -/
def State.recordTime (s : State) : Nat × Bool :=
  if s.chip.timeLoaded then (stampWord s.now, false) else (stampWord s.chip.up, true)

/-- The detector only counts: SRAM_CE, MRAM_CE, DDR_CE (R669). -/
def countedOnly (det : Nat) : Bool := det == 1 || det == 3 || det == 5

/-- LATCH_REJECT and WARD_EXHAUST are recorded once per channel or holder per second, WARD_EXHAUST only for holders set in WRD.IE_LO or
WRD.IE_HI (R669). -/
def State.rateAllows (s : State) (d : Detection) : Bool :=
  let h := d.loc % 2 ^ 20
  if d.det = 0x26 ∧ (if h < 32 then s.flag Reg.wrdIeLo h else s.flag Reg.wrdIeHi (h - 32)) = false then false
  else if d.det = 0x22 ∨ d.det = 0x26 then
    s.flt.lastSecond.get (d.det * 2 ^ 32 + d.loc) == 0 ||
      s.flt.lastSecond.get (d.det * 2 ^ 32 + d.loc) + 999999999 < s.chip.up + 1
  else true

/-- A detector event without its record: the real occurrence is counted (R669, R680). -/
def State.countEvent (s : State) (d : Detection) : State :=
  if d.injected ∨ s.inj.acting.isSome ∨ d.parent.isSome ∨ 0x2C < d.det ∨ s.awake = false then s else s.bump (Reg.fltDcount d.det) 31 0 1

/-- FLT.STATUS shows the records that wait. -/
def State.showWaiting (s : State) : State := s.setFld Reg.fltStatus 15 0 s.flt.waiting.length

/-- The record an injected occurrence causes is the last of its request (R686). -/
def State.noteInjected (s : State) (t : Nat) : State := match s.inj.acting with
  | some w => { s with inj := { s.inj with tags := s.inj.tags.set w (t + 1) } }
  | none => s

/-- A detector event enters the collector (R669, R670, R676); the result names the record by its tag. What an injected
occurrence causes is injected at every level (R680). -/
def State.detect (s : State) (d : Detection) : State × Nat :=
  let d := { d with injected := d.injected || s.inj.acting.isSome }
  let s := s.countEvent d
  if !s.awake then (s, s.flt.nextTag)
  else if countedOnly d.det && !d.injected then (s, s.flt.nextTag)
  else if !d.injected && !s.rateAllows d then (s, s.flt.nextTag)
  else
    let s := if (d.det = 0x22 ∨ d.det = 0x26) ∧ d.injected = false then
        { s with flt := { s.flt with lastSecond := s.flt.lastSecond.set (d.det * 2 ^ 32 + d.loc) (s.chip.up + 1) } }
      else s
    match mergeRecord d s.flt.waiting with
    | some (ws, t) => ({ s with flt := { s.flt with waiting := ws } }.noteInjected t, t)
    | none =>
      let t := s.flt.nextTag
      let r : FaultRecord :=
        { det := d.det, level := d.level, injected := d.injected, shadow := d.shadow, world := d.world,
          early := s.recordTime.2, loc := d.loc, stamp := s.recordStamp, time := s.recordTime.1, init := d.init,
          action := d.action, code := d.code, count := 1, detail := d.detail, parent := d.parent, tag := t, seq := none }
      (({ s with flt := { s.flt with waiting := insertRecord r s.flt.waiting, nextTag := t + 1 } }).showWaiting.noteInjected t, t)

/-- A detector event whose tag is not needed. -/
def State.detected (s : State) (d : Detection) : State := (s.detect d).1

/-- The 32 bytes of a fault record (R671). -/
def FaultRecord.bytes (r : FaultRecord) (seq detail : Nat) : List Byte :=
  leBytes 2 r.det ++ leBytes 1 r.level ++
  leBytes 1 (ofBool r.injected + 2 * ofBool r.parent.isSome + 4 * ofBool r.shadow + 8 * ofBool r.world +
    16 * ofBool r.init.isNone + 32 * ofBool r.early) ++
  leBytes 4 r.loc ++ leBytes 8 r.time ++ leBytes 4 seq ++ leBytes 1 (r.init.getD 0xFF) ++ leBytes 1 r.action ++
  leBytes 2 r.code ++ leBytes 2 r.count ++ [0#8, 0#8] ++ leBytes 4 detail

/-- Where the MRAM fault log starts (R49). -/
def State.logBase (s : State) : Nat := Addr.records s.variant + 0x20000

/-- The SEQs of the log's records: a record stands at a listed cell, its DETECTOR byte not 0, since IDs start at 1 (R668, R675). -/
def logSeqs (gen base : Nat) (m : Memory) : List Nat :=
  (m.filter fun c => base ≤ c.1 && c.1 < base + 0x20000 && (c.1 - base) % 32 == 0).map
    fun c => leNat (Memory.readAll gen m (c.1 + 0x10) 4)

/-- The newest of candidate SEQs (R706): the one that no other is ahead of. -/
def newestSeq : List Nat → Option Nat
  | [] => none
  | q :: qs =>
    match newestSeq qs with
    | none => some q
    | some t => if seqNewer 32 q t then some q else some t

/-- The newest SEQ in the log. -/
def State.logNewest (s : State) : Option Nat := newestSeq (logSeqs s.ddrGen s.logBase s.mem)

/-- The log takes this record: region and chip level and injected ones always, others at most 16 per detector in 60 s
(R673); before SRAM is initialised everything (R675). -/
def State.logAdmits (s : State) (r : FaultRecord) : Bool :=
  3 ≤ r.level || r.injected || !s.chip.stockReady ||
    decide (((s.flt.logTimes.get r.det).filter fun t => s.chip.up < t + 60000000000).length < 16)

/-- An engine as an initiator. -/
def engineWho (id : Nat) : Who := { id := id, mmode := true, vc := 0 }

/-- The range overlaps `[b, b + m)`. -/
def overlaps (a n b m : Nat) : Bool := decide (a < b + m) && decide (b < a + n)

/-- The range of a STORE is locked against writes (R130). -/
def State.storeLocks (s : State) (w : Who) (a n : Nat) : Bool :=
  match s.blk.cmd with
  | some c => c.op == 1 && !w.isKeeper && overlaps a n c.src c.len
  | none => false

/-- Give a record a SEQ and write it to the ring and the log (R672, R673, R675). -/
def State.writeRecord (s : State) (r : FaultRecord) (seq : Nat) : State :=
  let detail := match r.parent with
    | some t => s.flt.seqOf.get t % 2 ^ 32
    | none => r.detail
  let bs := r.bytes seq detail
  let s := { s with flt := { s.flt with seqOf := s.flt.seqOf.set r.tag seq } }
  let s := s.setNum Reg.fltSeq seq
  let s := if s.chip.stockReady && !s.storeLocks (engineWho Init.warden) (Addr.stock + 32 * (seq % 1024)) 32 then
      s.poke (Addr.stock + 32 * (seq % 1024)) bs else s
  let logged := s.logAdmits r
  let s := if logged then
      let s := (s.poke (s.logBase + 32 * (seq % 4096)) bs)
      let s := if seqNewer 32 seq (s.num Reg.fltLogseq) then s.setNum Reg.fltLogseq seq else s
      if 3 ≤ r.level ∨ r.injected then s
      else
        let times := s.chip.up :: (s.flt.logTimes.get r.det).filter (fun t => s.chip.up < t + 60000000000)
        { s with flt := { s.flt with logTimes := s.flt.logTimes.set r.det times } }
    else (s.bump Reg.fltLogskip 31 0 1).raise 27
  let s := if r.level = 3 then (s.bump Reg.fltLevels 31 16 1).raise 24 else s
  let s := if r.level = 4 then ((s.bump Reg.fltLevels 15 0 1).setNum Reg.fltLastchip seq).raise 25 else s
  if s.flag Reg.fltCtrl 1 then s.raise 28 else s

/-- The next SEQ is taken. -/
def State.takeSeq (s : State) : State × Nat :=
  ({ s with flt := { s.flt with nextSeq := (s.flt.nextSeq + 1) % 2 ^ 32 } }, s.flt.nextSeq)

/-- SEQs are fixed for the waiting records that have none, in their order (R674). -/
def fixSeqs (next : Nat) : List FaultRecord → List FaultRecord × Nat
  | [] => ([], next)
  | x :: xs =>
    match x.seq with
    | some _ => let (ys, n) := fixSeqs next xs; (x :: ys, n)
    | none => let (ys, n) := fixSeqs ((next + 1) % 2 ^ 32) xs; ({ x with seq := some next } :: ys, n)

/-- The chip-level record takes the next SEQ and is written ahead of every waiting record (R674). -/
def State.chipRecord (s : State) (d : Detection) : State :=
  let t := s.flt.nextTag
  let d := { d with injected := d.injected || s.inj.acting.isSome }
  let r : FaultRecord :=
    { det := d.det, level := 4, injected := d.injected, shadow := d.shadow, world := d.world,
      early := s.recordTime.2, loc := d.loc, stamp := s.recordStamp, time := s.recordTime.1, init := d.init,
      action := d.action, code := d.code, count := 1, detail := d.detail, parent := d.parent, tag := t, seq := none }
  let (s, q) := s.takeSeq
  let (ws, n) := fixSeqs s.flt.nextSeq s.flt.waiting
  let seqs := ws.foldl (fun (m : Tab Nat) w => m.set w.tag (w.seq.getD 0)) s.flt.seqOf
  let s := { s with flt := { s.flt with waiting := ws, nextSeq := n, nextTag := t + 1, seqOf := seqs } }
  (s.writeRecord r q).noteInjected t


/-- Blocks whose window index names a region (01, "The five regions"): the region of a register offset. -/
def regionOfReg (off : Nat) : Nat :=
  let w := off / 0x10000
  if 0x10 ≤ w ∧ w ≤ 0x14 then 1
  else if 0x18 ≤ w ∧ w ≤ 0x1B then 0
  else if w = 0x20 ∨ w = 0x21 ∨ w = 0x0A then 2
  else if 0x28 ≤ w ∧ w ≤ 0x33 then 3
  else 4

/-- A detector event of a block, named by its window (R668): level 2. -/
def State.blockEvent (s : State) (det window cell action code detail : Nat) : State :=
  s.detected { det := det, level := 2, loc := location (regionOfReg (window * 0x10000)) window cell, action := action,
               code := code, detail := detail }

/-- A detector event of a cell or channel of a block: level 1. -/
def State.cellEvent (s : State) (det window cell action code detail : Nat) : State :=
  s.detected { det := det, level := 1, loc := location (regionOfReg (window * 0x10000)) window cell, action := action,
               code := code, detail := detail }

/-- A cell event that its block contains by taking out of service what the cell belongs to: the record of the cell level, and the escalated one
of the block (R28, R668, R670). -/
def State.cellFails (s : State) (det window cell : Nat) (shadow : Bool) : State :=
  let r := regionOfReg (window * 0x10000)
  let (s, t) := s.detect { det := det, level := 1, loc := location r window cell, detail := cell, shadow := shadow }
  s.detected { det := det, level := 2, loc := location r window 0, action := Act.outOfService, parent := some t, shadow := shadow }

/-! ### Bus errors (R8, R705) -/

/-- Banks of Stock (01, SRAM table). -/
def Variant.stockBanks : Variant → Nat
  | .ev4816 => 256
  | .ev4808 => 64
  | .ev4804 => 96
  | .ev4801 => 32

/-- A block occupies a register window (01, "Register windows"). -/
def windowUsed (w : Nat) : Bool := decide (w ≤ 0xC) || (0x10 ≤ w && w ≤ 0x14) || (0x18 ≤ w && w ≤ 0x1B) || (0x20 ≤ w && w ≤ 0x21) || (0x28 ≤ w && w ≤ 0x34)

/-- LOCATION of an address: its region, BLOCK and bank (R671; 01, SRAM table); a register window that no block occupies has no block, and stands
at chip level (log entry 45). The bank of a Lathe store is its lane, 64 more where bit 22 is set (log entry 45). -/
def locationOf (v : Variant) (a : Nat) : Nat :=
  if Addr.regs ≤ a ∧ a < Addr.regs + 0x10000000 then
    let off := a - Addr.regs
    if off < 0x4000000 then
      if windowUsed (off / 0x10000) then location (regionOfReg off) (off / 0x10000) 0 else location 0xF 0xFF 0
    else location 4 0xFF 0
  else if Addr.stock ≤ a ∧ a < Addr.stock + 0x1000000 then location 0xF 0xC0 (a / 64 % 256 % v.stockBanks)
  else if Addr.core ≤ a ∧ a < Addr.core + 0x800000 then
    location 0 0xC1 (16 * ((a - Addr.core) / 0x100000) + (a / 64) % 16)
  else if Addr.lathe ≤ a ∧ a < Addr.lathe + 0x2000000 then location 1 0xC2 (a / 8 % 64 + 64 * (a / 0x400000 % 2))
  else if Addr.align ≤ a ∧ a < Addr.align + 0x800000 then location 2 0xC3 (a / 64 % 128)
  else if Addr.mram ≤ a ∧ a < Addr.mram + 0x1000000 then location 4 0xC4 0
  else if Addr.ddr ≤ a then location 3 0xC5 0
  else location 0xF 0xFF 0

/-- An access ends in a bus error: the initiator receives the code and reads 0 (R7), and the collector records it
(R8); an ABSENT error raises source 7. -/
def State.busError (s : State) (w : Who) (addr code n : Nat) : State :=
  let s := s.detected { det := 0x27, level := 2, loc := locationOf s.variant addr, init := some w.id, world := s.secure w,
                        action := Act.refused, code := code, detail := addr % 2 ^ 32 }
  let s := if code = Code.absent then s.raise 7 else s
  s.reply code (List.replicate n 0#8)

/-! ### Poisoned words and the accesses of engines (R35, R47, R130) -/

/-- The kind of a memory: SRAM 0, MRAM 1, LPDDR5 2; the boot ROM has none. -/
def memoryKind (a : Nat) : Option Nat :=
  if a < Addr.stock then none
  else if Addr.mram ≤ a ∧ a < Addr.mram + 0x1000000 then some 1
  else if Addr.ddr ≤ a then some 2
  else some 0

/-- Detectors of a kind: SRAM_CE, MRAM_CE, DDR_CE, and the uncorrectable one (R668). -/
def ceDetector (k : Nat) : Nat := 1 + 2 * k
def ueDetector (k : Nat) : Nat := 2 + 2 * k

/-- Insert a word into the poisoned ones, by rising address. -/
def insertPoison (w : Nat) : List Nat → List Nat
  | [] => [w]
  | x :: xs => if w < x then w :: x :: xs else if w = x then x :: xs else x :: insertPoison w xs

/-- The word is poisoned: every later read of it fails until it is written in full (R35). -/
def State.poisonWord (s : State) (w : Nat) : State := { s with poison := insertPoison w s.poison }

/-- The record of an uncorrectable word that an initiator, or the scrubber, reads; in SHADOW it is all that happens (R679). -/
def State.recordBadWord (s : State) (w : Option Who) (k a : Nat) (shadow : Bool) : State :=
  s.detected { det := ueDetector k, level := 2, loc := locationOf s.variant a, init := w.map Who.id, world := w.any s.secure, action := Act.refused,
               code := Code.uncorrectable, detail := a / 8 * 8 % 2 ^ 32, shadow := shadow }

/-- An uncorrectable word is poisoned and recorded (R35), and source 4 rises; of LPDDR5, DDR holds its address and counts it (01). -/
def State.refuseWord (s : State) (w : Option Who) (k a : Nat) : State :=
  let s := ((s.recordBadWord w k a false).poisonWord (a / 8 * 8)).raise 4
  if k = 2 then
    (((s.bump Reg.ddrUe 31 0 1).setNum Reg.ddrErraddrLo (a / 8 * 8 % 2 ^ 32)).setNum Reg.ddrErraddrHi (a / 2 ^ 32 % 256)).raise 458
  else s

/-- The first poisoned word an access of `n` bytes reads. -/
def State.badWordIn (s : State) (a n : Nat) : Option Nat := s.poison.find? fun w => decide (a < w + 8) && decide (w < a + n)

/-- An engine's own access ends in a bus error, which the collector records (R7, R8). -/
def State.engineError (s : State) (w : Who) (a c : Nat) : State :=
  let s := s.detected { det := 0x27, level := 2, loc := locationOf s.variant a, init := some w.id, world := s.secure w, action := Act.refused, code := c,
                        detail := a % 2 ^ 32 }
  if c = Code.absent then s.raise 7 else s

/-- A poisoned word that a write of `n` bytes covers in part: the read of its read-modify-write fails (R47). -/
def State.partialBad (s : State) (a n : Nat) : Option Nat :=
  s.poison.find? fun p => overlaps a n p 8 && !(decide (a ≤ p) && decide (p + 8 ≤ a + n))

/-- An engine's own write: refused in a range that a STORE locks (R130), failed by a poisoned word that it covers in part (R47), and else
done. -/
def State.engineWrite (s : State) (w : Who) (a : Nat) (bs : List Byte) : State :=
  if s.storeLocks w a bs.length then s.engineError w a Code.denied
  else
    match s.partialBad a bs.length with
    | some p => s.refuseWord (some w) ((memoryKind p).getD 0) p
    | none => s.poke a bs

/-- An engine's own read: a poisoned word fails it (R35). -/
def State.engineRead (s : State) (w : Who) (a n : Nat) : State × Option (List Byte) := match s.badWordIn a n with
  | some p => (s.refuseWord (some w) ((memoryKind p).getD 0) p, none)
  | none => (s, some (s.bytes a n))

/-- A reset is called for, to follow in 1 ms (R494, R662). -/
def State.callReset (s : State) : State := { s with chip := { s.chip with delayedReset := true, delayedFrom := s.chip.ran } }

/-! ### Free values -/

/-- Take the next free value. -/
def State.free (s : State) : State × Word :=
  ({ s with freeCounter := s.freeCounter + 1 }, Config.freeWord s.freeCounter)

/-! ### Result slots (R17 to R23) -/

/-- The result's STATUS word as a read shows it. -/
def statusWord (r : Result) (ready : Bool) (repeats : Nat) : Nat :=
  ofBool ready * 2 ^ 31 + ofBool r.err * 2 ^ 30 + min 15 repeats * 2 ^ 26 + ofBool r.seasoning * 2 ^ 25 +
    ofBool r.stale * 2 ^ 24 + r.seq % 2 ^ 24

/-- The words of a result as the slot's memory shows them: STATUS, CODE, TAKE and 0x0C, then the payload (R17). -/
def State.showResult (s : State) (addr : Nat) (r : Result) (ready : Bool) (repeats : Nat) : State :=
  s.engineWrite (engineWho (s.slots.get addr).writer) addr (leBytes 4 (statusWord r ready repeats) ++ leBytes 4 (r.code % 65536) ++ leBytes 8 0 ++ r.payload)

/-- A result of initiator `id` completes for the slot at `addr`: it is shown, or waits behind a held snapshot (R20). -/
def State.deliver (s : State) (id addr : Nat) (code : Nat) (err seasoning stale : Bool) (payload : List Byte) : State :=
  let k := s.slots.get addr
  let r : Result := { seq := k.nextSeq % 2 ^ 24, code := code, err := err, seasoning := seasoning, stale := stale,
                      payload := payload }
  let k := { k with nextSeq := (k.nextSeq + 1) % 2 ^ 24, fresh := true, writer := id }
  if k.held then { s with slots := s.slots.set addr { k with waiting := some r } }
  else ({ s with slots := s.slots.set addr { k with shown := some r, waiting := none, reads := 0 } }).showResult addr r true 0

/-! ### Fencing (R36, R37, R42) -/

/-- A patch descriptor in Stock receives DONE, STATE and CODE (R134, R140) from the Keeper. -/
def State.patchResult (s : State) (desc state code : Nat) : State :=
  (s.engineWrite (engineWho Init.keeper) (Addr.stock + desc + 0xC) (leBytes 4 (2 ^ 31 + state * 2 ^ 28 + code % 65536))).raise 16

def Patch.applied : Nat := 2
def Patch.refused : Nat := 3

/-- The requests of a region are discarded with DENIED (R42, R150). -/
def State.discardPatches (s : State) (r : Nat) : State :=
  let s := match s.blk.runs.get r with
    | some q => s.patchResult q.desc Patch.refused Code.denied
    | none => s
  let s := match s.blk.waits.get r with
    | some q => s.patchResult q.desc Patch.refused Code.denied
    | none => s
  let s := { s with blk := { s.blk with runs := s.blk.runs.set r none, waits := s.blk.waits.set r none } }
  let s := (s.setFlag Reg.blkStatus (8 + r) false).setFlag Reg.blkStatus (12 + r) false
  s.setFld (Reg.blkReqinit r) 15 0 0xFFFF

/-- Every region's requests are discarded (R150). -/
def State.discardAllPatches (s : State) : State := (List.range 4).foldl State.discardPatches s

/-- Something leaves the part. -/
def State.send (s : State) (kind : SentKind) (dest : Nat) (bytes : List Byte) : State :=
  { s with outbox := s.outbox ++ [{ kind := kind, dest := dest, bytes := bytes }] }

end Sys2Proof.Machine
end

