-- ==== Sys2Proof/Machine/Operands.lean ====
section
/-! DEFINITION. The operand forms the commands read: the fields of the running Blank's sections, at the offsets the
chapters give, and the entries those sections hold. -/
namespace Sys2Proof.Machine

/-! ### TASK (08) -/

def State.taskBody (s : State) : List Byte := s.body Ty.task Region.control 0
/-- The process image: its Stock address and its bytes, 8 for each signal. -/
def State.imageBase (s : State) : Nat := Addr.stock + u32 s.taskBody 4
def State.imageBytes (s : State) : Nat := 8 * u16 s.taskBody 2

/-- Numbers of programs, tasks and signals of the section. -/
def State.nprog (s : State) : Nat := min 16 (u8 s.taskBody 0)
def State.ntask (s : State) : Nat := min 128 (u8 s.taskBody 1)
def State.nsig (s : State) : Nat := u16 s.taskBody 2
/-- Offsets of program entry `p`, task entry `t` and list entry `k`. -/
def programEntry (p : Nat) : Nat := 0x10 + 48 * p
def taskEntry (b : List Byte) (t : Nat) : Nat := 0x10 + 48 * u8 b 0 + 64 * t
def listEntry (b : List Byte) (k : Nat) : Nat := 0x10 + 48 * u8 b 0 + 64 * u8 b 1 + 8 * k
/-- A task entry as the section gives it. -/
structure TaskDef where
  prog : Nat
  event : Bool
  prio : Nat
  group : Nat
  rspin : Nat
  rcmp : Nat
  cspin : Nat
  ccmp : Nat
  elig : Nat
  flags : Nat
  ovrLimit : Nat
  number : Nat
  entry : Nat
  soff : Nat
  stateLen : Nat
  nin : Nat
  nout : Nat
  inIdx : Nat
  outIdx : Nat
  stackOff : Nat
  deriving DecidableEq, Repr
def taskDefOf (b : List Byte) (t : Nat) : TaskDef :=
  let o := taskEntry b t
  { prog := u8 b o, event := u8 b (o + 1) == 1, prio := u8 b (o + 2) % 16, group := u8 b (o + 3), rspin := u8 b (o + 4),
    rcmp := u8 b (o + 5), cspin := u8 b (o + 6), ccmp := u8 b (o + 7), elig := u8 b (o + 8), flags := u8 b (o + 9),
    ovrLimit := u8 b (o + 10), number := u16 b (o + 12), entry := u64 b (o + 0x10), soff := u32 b (o + 0x18),
    stateLen := u32 b (o + 0x1C), nin := u16 b (o + 0x20), nout := u16 b (o + 0x22), inIdx := u32 b (o + 0x24),
    outIdx := u32 b (o + 0x28), stackOff := u32 b (o + 0x2C) }
def State.taskDef (s : State) (t : Nat) : TaskDef := taskDefOf s.taskBody t
/-- The signal of a list entry, whether it has a stop value, and the value. -/
def State.listSignal (s : State) (k : Nat) : Nat := u16 s.taskBody (listEntry s.taskBody k)
def State.listHasStop (s : State) (k : Nat) : Bool := bit (u8 s.taskBody (listEntry s.taskBody k + 2)) 0
def State.listStop (s : State) (k : Nat) : Nat := u32 s.taskBody (listEntry s.taskBody k + 4)
/-- The address of a signal. -/
def State.signalAddr (s : State) (i : Nat) : Nat := s.imageBase + 8 * i

/-! ### WARD (05) -/

def State.wardBody (s : State) : List Byte := s.body Ty.ward Region.keep 0
def State.wardHolders (s : State) : Nat := u8 s.wardBody 0
def State.wardSpindle (s : State) : Nat := u8 s.wardBody 2
def State.wardComparator (s : State) : Nat := u8 s.wardBody 3
def State.wardNominal (s : State) : Nat := u32 s.wardBody 4
/-- Offset of holder entry `h`, and of the adaptive-limits block. -/
def holderEntry (h : Nat) : Nat := 0x10 + 16 * h
def State.adpLimits (s : State) : Nat := 0x10 + 16 * s.wardHolders
def State.adpByte (s : State) (o : Nat) : Nat := u8 s.wardBody (s.adpLimits + o)
def State.adpHalf (s : State) (o : Nat) : Nat := u16 s.wardBody (s.adpLimits + o)

/-! ### LATHE (06) -/

def State.latheBody (s : State) (n : Nat) : List Byte := s.body Ty.lathe Region.solve n
/-- First cell and number of cells of chuck `c` of Lathe `n`, and 0 cells beyond NCHUCK. -/
def State.chuckFirst (s : State) (n c : Nat) : Nat := 4 * (u16 (s.latheBody n) (0x80 + 2 * c) % 256)
def State.chuckCells (s : State) (n c : Nat) : Nat :=
  if c < u8 (s.latheBody n) 0 then 4 * 2 ^ (u16 (s.latheBody n) (0x80 + 2 * c) / 256 % 8) else 0
/-- The chuck that owns a byte offset of the Lathe's store (R264). -/
def State.chuckOwning (s : State) (n off : Nat) : Option Nat :=
  (List.range 64).find? fun c =>
    32768 * s.chuckFirst n c ≤ off && off < 32768 * (s.chuckFirst n c + s.chuckCells n c)

/-! ### SPINDLE (04) -/

def State.spindleBody (s : State) : List Byte := s.body Ty.spindle Region.sense 0
/-- Offset of the entry of spindle `n`. -/
def spindleEntry (n : Nat) : Nat := 0x10 + 0x40 * n
/-- SRC: 0 to 5, 7 UNUSED; without a SPINDLE section no spindle is used (R712). -/
def State.spindleSrc (s : State) (n : Nat) : Nat :=
  if s.hasSection Ty.spindle Region.sense 0 then u8 s.spindleBody (spindleEntry n) else 7
/-- INPUT, FLAGS, STALL_MS, PERIOD, ORIGIN, NOMINAL, RMIN, RMAX and INDEX_ANGLE of spindle `n`. -/
def State.spindleInput (s : State) (n : Nat) : Nat := u8 s.spindleBody (spindleEntry n + 1)
def State.spindleInterp (s : State) (n : Nat) : Bool := bit (u8 s.spindleBody (spindleEntry n + 2)) 0
def State.spindleIndex (s : State) (n : Nat) : Bool := bit (u8 s.spindleBody (spindleEntry n + 2)) 1
def State.spindleStallMs (s : State) (n : Nat) : Nat := u16 s.spindleBody (spindleEntry n + 4)
def State.spindlePeriod (s : State) (n : Nat) : Nat := u32 s.spindleBody (spindleEntry n + 8)
def State.spindleOrigin (s : State) (n : Nat) : Nat :=
  u64 s.spindleBody (spindleEntry n + 0x10) * 1000000000 + u32 s.spindleBody (spindleEntry n + 0x18)
def State.spindleNominal (s : State) (n : Nat) : Nat := u32 s.spindleBody (spindleEntry n + 0x1C)
def State.spindleRmin (s : State) (n : Nat) : Nat := u32 s.spindleBody (spindleEntry n + 0x20)
def State.spindleRmax (s : State) (n : Nat) : Nat := u32 s.spindleBody (spindleEntry n + 0x24)
def State.spindleIndexAngle (s : State) (n : Nat) : Nat := u32 s.spindleBody (spindleEntry n + 0x28)
def Src.time : Nat := 0
def Src.mains : Nat := 1
def Src.shaft : Nat := 2
def Src.pulse : Nat := 3
def Src.round : Nat := 4
def Src.host : Nat := 5
def Src.unused : Nat := 7
/-- A comparator entry of the section: SPINDLE, NUMBER, CONSUMER. -/
def comparatorEntry (k : Nat) : Nat := 0x210 + 16 * k
/-- The consumer the section assigns a comparator to; 0: software. -/
def State.consumerOf (s : State) (n c : Nat) : Nat :=
  match (List.range (u16 s.spindleBody 0)).find? fun k =>
      u8 s.spindleBody (comparatorEntry k) == n && u8 s.spindleBody (comparatorEntry k + 1) == c with
  | some k => u8 s.spindleBody (comparatorEntry k + 2)
  | none => 0
def Consumer.tsk : Nat := 1
def Consumer.cle : Nat := 2
def Consumer.met : Nat := 3
def Consumer.fus : Nat := 4
def Consumer.wrd : Nat := 5
def Consumer.fed : Nat := 6
def Consumer.pnl : Nat := 7
def State.hostInit (s : State) (n : Nat) : Nat := u8 s.spindleBody (spindleEntry n + 3)

/-! ### LATCH (12) -/

def State.latchBody (s : State) : List Byte := s.body Ty.latch Region.keep 0
/-- Offset of the entry of Latch channel `c`. -/
def latchEntry (c : Nat) : Nat := 0x20 + 0x30 * c
def State.latchUsed (s : State) (c : Nat) : Bool := u8 s.latchBody (latchEntry c) == 1
def State.latchLocal (s : State) (c : Nat) : Nat := u8 s.latchBody (latchEntry c + 2)
def State.latchDrive (s : State) (c : Nat) : Nat := u8 s.latchBody (latchEntry c + 1)
/-- INPUTS: [0] LOCAL, [1] CAN, [2] Milio. -/
def State.latchInput (s : State) (c b : Nat) : Bool := bit (u8 s.latchBody (latchEntry c + 3)) b
def State.latchSetid (s : State) (c : Nat) : Nat := u16 s.latchBody (latchEntry c + 4) % 2 ^ 14
def State.latchResumeArm (s : State) (c : Nat) : Bool := u8 s.latchBody (latchEntry c + 7) == 1
def State.latchCanid (s : State) (c : Nat) : Nat := u32 s.latchBody (latchEntry c + 8)
def State.latchMilsel (s : State) (c : Nat) : Nat := u32 s.latchBody (latchEntry c + 0xC)
/-- PERIOD in ns. -/
def State.latchPeriod (s : State) (c : Nat) : Nat := 1000 * u32 s.latchBody (latchEntry c + 0x10)
def State.latchTargetNo (s : State) (c : Nat) : Nat := u16 s.latchBody (latchEntry c + 0x14)
def State.latchSafeval (s : State) (c : Nat) : Nat := u32 s.latchBody (latchEntry c + 0x18)
/-- LINK and ID words of FWD and FWD2. -/
def State.latchFwd (s : State) (c k : Nat) : Nat × Nat :=
  (u32 s.latchBody (latchEntry c + 0x1C + 8 * k), u32 s.latchBody (latchEntry c + 0x20 + 8 * k))
def State.nlatch (s : State) : Nat := u8 s.latchBody 0

/-! ### HINGE (12); without the section the part is a set of one (R489) -/

def State.hingeBody (s : State) : List Byte := s.body Ty.hinge Region.keep 0
def State.hasHinge (s : State) : Bool := s.hasSection Ty.hinge Region.keep 0
def State.ownSetid (s : State) : Nat := if s.hasHinge then u16 s.hingeBody 4 % 2 ^ 14 else s.blk.node
def State.ownUnit (s : State) : Nat := if s.hasHinge then u8 s.hingeBody 1 else 1
def State.ownRank (s : State) : Nat := if s.hasHinge then u8 s.hingeBody 2 else 1
def State.hingeRevert (s : State) : Bool := bit (u8 s.hingeBody 3) 0
def State.hingeCold (s : State) : Bool := bit (u8 s.hingeBody 3) 1
/-- HB_PERIOD in ns. -/
def State.hbPeriod (s : State) : Nat := 1000 * (if s.hasHinge then u16 s.hingeBody 6 else 250)
def State.cutSpindle (s : State) : Nat := u8 s.hingeBody 8
def State.cutComparator (s : State) : Nat := u8 s.hingeBody 9
def State.hingeIncl (s : State) (b : Nat) : Bool := bit (u8 s.hingeBody 0xB) b
def State.cutWait (s : State) : Nat := u16 s.hingeBody 0xC
def State.ckbuf (s : State) : Nat := u64 s.hingeBody 0x18 % 2 ^ 40
def State.ckbufLen (s : State) : Nat := u32 s.hingeBody 0x20
def State.ckmax (s : State) : Nat := u32 s.hingeBody 0x24
/-- Peer entry `p`: NODE, UNIT, RANK and PATH; used when its UNIT is not 0. -/
def State.peerNode (s : State) (p : Nat) : Nat := u16 s.hingeBody (0x28 + 8 * p)
def State.peerUnit (s : State) (p : Nat) : Nat := u8 s.hingeBody (0x2A + 8 * p)
def State.peerRank (s : State) (p : Nat) : Nat := u8 s.hingeBody (0x2B + 8 * p)
def State.peerPath (s : State) (p : Nat) : Nat := u8 s.hingeBody (0x2C + 8 * p)
def State.peerUsed (s : State) (p : Nat) : Bool := decide (p < 2) && s.hasHinge && s.peerUnit p != 0

/-! ### Control STRUCT (03, 13, 16) -/

/-- Offset of the entry of axis `n`. -/
def axisEntry (n : Nat) : Nat := 0x40 + 0x40 * n
def State.axisSrc (s : State) (n : Nat) : Nat := u8 s.controlStruct (axisEntry n + 2)
def State.axisUsed (s : State) (n : Nat) : Bool := decide (n < s.variant.axes) && u8 s.controlStruct (axisEntry n) == 1
def State.axisOut (s : State) (n : Nat) : Nat := u8 s.controlStruct (axisEntry n + 1)
/-- FLAGS: [0] DIR_INV, [1] STEP_LOW, [2] HOME_NEG, [3] HOME_LOW, [4] SCURVE. -/
def State.axisFlag (s : State) (n b : Nat) : Bool := bit (u8 s.controlStruct (axisEntry n + 3)) b
def State.axisLch (s : State) (n : Nat) : Nat := u8 s.controlStruct (axisEntry n + 4)
def State.axisDirSu (s : State) (n : Nat) : Nat := u8 s.controlStruct (axisEntry n + 7)
/-- An FP32 field of the axis, as FP64 holds it. -/
def State.axisFp (s : State) (n o : Nat) : Fp := f32.decode (u32 s.controlStruct (axisEntry n + o))
def State.axisPosMin (s : State) (n : Nat) : Int := i32 s.controlStruct (axisEntry n + 0x20)
def State.axisPosMax (s : State) (n : Nat) : Int := i32 s.controlStruct (axisEntry n + 0x24)
def State.axisHomePos (s : State) (n : Nat) : Int := i32 s.controlStruct (axisEntry n + 0x28)
def State.axisHomeMax (s : State) (n : Nat) : Nat := u32 s.controlStruct (axisEntry n + 0x2C)
def State.axisCurLead (s : State) (n : Nat) : Nat := u16 s.controlStruct (axisEntry n + 0x32)
/-- MASK of group `g`, and the group of an axis, 15 for none. -/
def State.groupMask (s : State) (g : Nat) : Nat := if g < 4 then u16 s.controlStruct (0x440 + 16 * g) else 0
def State.groupOf (s : State) (n : Nat) : Nat := ((List.range 4).find? fun g => bit (s.groupMask g) n).getD 15
/-- The axes of a group. -/
def State.groupAxes (s : State) (g : Nat) : List Nat := bitsOf (s.groupMask g) 16
/-- Offset of a mailbox channel entry and of a doorbell entry. -/
def channelEntry (c : Nat) : Nat := 0x480 + 16 * c
def doorbellEntry (d : Nat) : Nat := 0x880 + 8 * d
def State.channelSend (s : State) (c : Nat) : Nat := u32 s.controlStruct (channelEntry c)
def State.channelRecv (s : State) (c : Nat) : Nat := u8 s.controlStruct (channelEntry c + 4)
def State.channelFlags (s : State) (c : Nat) : Nat := u8 s.controlStruct (channelEntry c + 5)
def State.channelStore (s : State) (c : Nat) : Nat := u32 s.controlStruct (channelEntry c + 8)
def State.doorbellRing (s : State) (d : Nat) : Nat := u32 s.controlStruct (doorbellEntry d)

/-! ### Link STRUCT (15, 16) -/

/-- Offset of the entry of an Ethernet port: RGMII 0 and 1, then the lanes. -/
def ethEntry (e : Nat) : Nat := 0x340 + 32 * e
def State.ethUsed (s : State) (e : Nat) : Bool := u8 s.linkStruct (ethEntry e) == 1

/-- The PTP entry (04): PROFILE, DOMAIN, PRIO1, PRIO2, FLAGS and the ROLE of port `p`, 1 to 6. -/
def State.ptpProfile (s : State) : Nat := u8 s.linkStruct 0x10
def State.ptpDomain (s : State) : Nat := u8 s.linkStruct 0x11
def State.ptpPrio1 (s : State) : Nat := u8 s.linkStruct 0x12
def State.ptpPrio2 (s : State) : Nat := u8 s.linkStruct 0x13
def State.ptpSlaveOnly (s : State) : Bool := bit (u8 s.linkStruct 0x14) 0
def State.ptpUdp (s : State) : Bool := bit (u8 s.linkStruct 0x14) 1
def State.ptpOneStep (s : State) : Bool := bit (u8 s.linkStruct 0x14) 2
def State.ptpEntryRole (s : State) (p : Nat) : Nat := if 1 ≤ p ∧ p ≤ 6 then u8 s.linkStruct (0x15 + p) else 0

/-- The interface of PTP port `p` is there: an RGMII port in use, the lower lane of a MIL port as MILIO (R582), or its lane as a 10GBASE-R in use. -/
def State.ptpUsable (s : State) (p : Nat) : Bool :=
  let lane := fun l => u8 s.linkStruct l == 2 && s.ethUsed (2 + l)
  match p with
  | 1 => s.ethUsed 0
  | 2 => s.ethUsed 1
  | 3 => u8 s.linkStruct 0 == 1 || lane 0
  | 4 => lane 1
  | 5 => u8 s.linkStruct 2 == 1 || lane 2
  | 6 => lane 3
  | _ => false

/-- The role a port acts in: 0 DISABLED where its interface is absent or has another use. -/
def State.ptpRole (s : State) (p : Nat) : Nat := if s.ptpUsable p then s.ptpEntryRole p else 0

/-- FLAGS of the virtual-channel entry: [0] WORLD, [1] ENC, [2] RXCOPY, [3] RINGS. -/
def vcEntry (port vc : Nat) : Nat := 0x20 + 16 * (8 * port + vc)
def State.vcFlags (s : State) (port vc : Nat) : Nat := u8 s.linkStruct (vcEntry port vc)
/-- The host part of an initiator: PCIe at 0x510, SPI at 0x570. -/
def hostPart (id : Nat) : Nat := if id = Init.pcieHost then 0x510 else 0x570
def State.hostWin (s : State) (id : Nat) : Nat := u64 s.linkStruct (hostPart id + 0x10)
def State.hostRd (s : State) (id : Nat) : Nat := u8 s.linkStruct (hostPart id + 0x18)
/-- The range `[a, a + n)` lies inside one of the HWIN ranges. -/
def State.hostMayWrite (s : State) (id a n : Nat) : Bool :=
  (List.range 4).any fun k =>
    let base := u64 s.linkStruct (hostPart id + 0x20 + 16 * k) % 2 ^ 40
    let len := u32 s.linkStruct (hostPart id + 0x28 + 16 * k)
    base ≤ a && a + n ≤ base + len

/-! ### PINMUX (19) -/

def State.pinmuxBody (s : State) : List Byte := s.body Ty.pinmux Region.link 0
/-- Balls of a package, and of one bank: 288 in banks of 48, or 144 in banks of 24 (R691). -/
def Variant.balls (v : Variant) : Nat := match v with
  | .ev4816 | .ev4808 => 288
  | .ev4804 | .ev4801 => 144
def Variant.bankBalls (v : Variant) : Nat := v.balls / 6
def State.ballEntry (s : State) (n : Nat) : Nat := if n < u16 s.pinmuxBody 0 then u32 s.pinmuxBody (0x10 + 4 * n) else 0
/-- The ball that carries a signal of a function. -/
def State.ballOf (s : State) (func index : Nat) : Option Nat :=
  (List.range s.variant.balls).find? fun n => s.ballEntry n % 256 == func && s.ballEntry n / 256 % 256 == index
/-- GPIO channels that a Latch channel drives. -/
def State.latchGpio (s : State) (g : Nat) : Bool :=
  (List.range 64).any fun c => s.latchUsed c && u8 s.latchBody (latchEntry c + 1) == 1 && u16 s.latchBody (latchEntry c + 0x14) == g

end Sys2Proof.Machine
end

