-- ==== Sys2Proof/Machine/Arbiter.lean ====
section
/-! DEFINITION. The arbiters' credits (05): the tag of a transaction, the arbiters on its path, and a grant at each (R230 to R234). -/
namespace Sys2Proof.Machine

/-! ### The tag (R230) -/

/-- The holder's KIND, SUBJECT and allotment at the crossbar, and MAY_BORROW. -/
def State.holderKind (s : State) (h : Nat) : Nat := u8 s.wardBody (holderEntry h)
def State.holderSubject (s : State) (h : Nat) : Nat := u16 s.wardBody (holderEntry h + 2)
def State.holderBorrows (s : State) (h : Nat) : Bool := bit (u8 s.wardBody (holderEntry h + 1)) 0

/-- Requests that carry no tag: of the Warden, the Keeper, the Hinge and the fault collector (R34, R230). -/
def urgent (w : Who) : Bool := w.isWarden || w.isKeeper || w.id == Init.hinge

/-- The task an initiator runs, if it is a core and runs one. -/
def State.taskOf (s : State) (w : Who) : Option Nat :=
  if w.isCore then (match s.tsk.running.get w.id with | 0 => none | t + 1 => some t) else none

/-- The holder's kind and subject match the initiator's transaction (the kind table). -/
def State.holderMatches (s : State) (w : Who) (h : Nat) : Bool :=
  let k := s.holderKind h
  let x := s.holderSubject h
  if k = 1 then (match s.taskOf w with | some t => (s.taskDef t).group == x | none => false)
  else if k = 2 then x % 256 == w.id && x / 256 == w.vc
  else if k = 3 then
    (w.id == Init.milDma || w.id == Init.milDma + 1) && x / 8 % 2 == w.id - Init.milDma && x % 8 == w.vc % 8
  else if k = 4 then (x == 0 && w.id == Init.pcieHost) || (x == 1 && w.id == Init.spiHost)
  else if k = 5 then w.id == 8 + x
  else false

/-- The tag of a transaction (R230). -/
def State.holderOf (s : State) (w : Who) : Nat :=
  ((List.range s.wardHolders).find? fun h => h != 0 && s.holderMatches w h).getD 0

/-! ### The path -/

def Arbiter.key (a : Arbiter) : Nat := (((a.level * 16 + a.region) * 256 + a.target) * 256 + a.unit) * 256 + a.bank
def Arbiter.ofKey (k : Nat) : Arbiter :=
  { level := k / 2 ^ 28, region := k / 2 ^ 24 % 16, target := k / 2 ^ 16 % 256, unit := k / 2 ^ 8 % 256, bank := k % 256 }

/-- The region whose mesh an initiator stands on, and whose fence discards what it has not yet had accepted (R37; 01, "The five regions"). -/
def initRegion (id : Nat) : Nat :=
  if id < 8 ∨ id = Init.cle then Region.control
  else if id < 0xC ∨ id = Init.fed then Region.solve
  else if id < 0xE ∨ id = Init.metDma then Region.sense
  else if (0x10 ≤ id ∧ id ≤ 0x14) ∨ id = Init.pnl then Region.link
  else Region.keep

/-- The region of an address; 0xF for the Stock SRAM, which stands at the chip crossbar. -/
def addressRegion (a : Nat) : Nat :=
  if Addr.stock ≤ a ∧ a < Addr.stock + 0x1000000 then 0xF
  else if Addr.core ≤ a ∧ a < Addr.core + 0x800000 then Region.control
  else if Addr.lathe ≤ a ∧ a < Addr.lathe + 0x2000000 then Region.solve
  else if Addr.align ≤ a ∧ a < Addr.align + 0x800000 then Region.sense
  else if Addr.regs ≤ a ∧ a < Addr.regs + 0x4000000 then regionOfReg (a - Addr.regs)
  else if Addr.ddr ≤ a then Region.link
  else Region.keep

/-- The window whose block port a transaction passes to reach an address: of a register's block, a Lathe's store, the alignment buffer, and the
LPDDR5 controller. -/
def addressBlock (a : Nat) : Option Nat :=
  if Addr.regs ≤ a ∧ a < Addr.regs + 0x4000000 then some ((a - Addr.regs) / 0x10000)
  else if Addr.lathe ≤ a ∧ a < Addr.lathe + 0x2000000 then some (0x10 + (a - Addr.lathe) / 0x800000)
  else if Addr.align ≤ a ∧ a < Addr.align + 0x800000 then some 0x20
  else if Addr.ddr ≤ a then some 0x32
  else none

/-- The cells that a beat at an address passes: the banks of the memories by their interleave (01, "SRAM"), and a Latch channel. -/
def Variant.cellArbiters (v : Variant) (a n : Nat) : List Arbiter :=
  if Addr.stock ≤ a ∧ a < Addr.stock + 0x1000000 then
    [{ level := 1, region := 0xF, target := 0x80, unit := a / 64 % 256 % max 1 v.stockBanks, bank := 0 }]
  else if Addr.core ≤ a ∧ a < Addr.core + 0x800000 then
    [{ level := 1, region := 0, target := 0x81, unit := (a - Addr.core) / 0x100000, bank := a / 64 % 16 }]
  else if Addr.lathe ≤ a ∧ a < Addr.lathe + 0x2000000 then
    (List.range (max 1 (min 32 n / 8))).map fun i =>
      { level := 1, region := 1, target := 0x82, unit := (a - Addr.lathe) / 0x800000, bank := (a / 8 + i) % 64 + 64 * (a / 0x400000 % 2) }
  else if Addr.align ≤ a ∧ a < Addr.align + 0x800000 then
    [{ level := 1, region := 2, target := 0x83, unit := a / 64 % 128, bank := 0 }]
  else if Addr.regs + 0x70100 ≤ a ∧ a < Addr.regs + 0x70900 then
    [{ level := 1, region := 4, target := 7, unit := (a - Addr.regs - 0x70100) / 0x20, bank := 0 }]
  else []

/-- The arbiters of one beat: the initiator's mesh, the crossbar where the beat leaves its region, the target's mesh, the block port, and the
cells. -/
def Variant.beatPath (v : Variant) (w : Who) (a n : Nat) : List Arbiter :=
  let from_ := initRegion w.id
  let goal := addressRegion a
  let mesh := fun r : Nat => ({ level := 3, region := r, target := 0, unit := 0, bank := 0 } : Arbiter)
  [mesh from_] ++ (if from_ = goal then [] else { level := 4, region := 4, target := 0, unit := 0, bank := 0 } :: (if goal = 0xF then [] else [mesh goal])) ++
    (match addressBlock a with
     | some t => [{ level := 2, region := goal, target := t, unit := 0, bank := 0 }]
     | none => []) ++ v.cellArbiters a n

/-- The arbiters of an access, beat by beat of 32 bytes. -/
def Variant.pathOf (v : Variant) (w : Who) (a n : Nat) : List Arbiter :=
  (List.range ((n + 31) / 32)).flatMap fun k => v.beatPath w (a + 32 * k) (min 32 (n - 32 * k))

/-! ### Allotments -/

/-- The arbiters of levels 2 and 3 have one instance each; UNIT tells those of level 1 apart. -/
def unitNames (level unit x : Nat) : Bool := unit == 0xFF || level != 1 || unit == x

/-- A WARD entry names an arbiter (05, region WARD sections). -/
def entryNames (b : List Byte) (h : Nat) (a : Arbiter) (e : Nat) : Bool :=
  let o := 0x10 + 16 * e
  u8 b o == h && u8 b (o + 1) == a.level && u8 b (o + 2) == a.target && unitNames a.level (u8 b (o + 3)) a.unit

/-- The allotment of a holder in one region's body. -/
def allotmentIn (b : List Byte) (h : Nat) (a : Arbiter) : Nat :=
  match (List.range (u16 b 0)).find? (entryNames b h a) with
  | some e => u32 b (0x10 + 16 * e + 4)
  | none => 0

/-- A holder's allotment at an arbiter, by the sections the present period took (R231, R240). -/
def State.allotment (s : State) (h : Nat) (a : Arbiter) : Nat :=
  if a.level = 4 then u32 s.wardBody (holderEntry h + 4)
  else if a.region = 0xF then (List.range 4).foldl (fun n r => max n (allotmentIn (s.ward.bodies.get r) h a)) 0
  else allotmentIn (s.ward.bodies.get a.region) h a

/-- WRD runs once the part has left MOUNT. -/
def State.wardRuns (s : State) : Bool := decide (Mode.mount < s.mode) && s.hasSection Ty.ward Region.keep 0

/-! ### A grant (R231 to R234) -/

/-- A holder finds its credit spent at a level (R234): the first time in a period it is counted, and source 88 rises for a
holder enabled in IE that was not yet exhausted at any level. -/
def State.exhaust (s : State) (h level : Nat) : State :=
  if s.ward.exhausted.get (level * 64 + h) then s
  else
    let first := !((List.range 5).any fun l => s.ward.exhausted.get (l * 64 + h))
    let s := { s with ward := { s.ward with exhausted := s.ward.exhausted.set (level * 64 + h) true } }
    let s := if level = 4 then s.bump (Reg.wrdHexhCr h) 31 16 1
      else if level = 3 then s.bump (Reg.wrdHexhCr h) 15 0 1
      else if level = 2 then s.bump (Reg.wrdHexhBc h) 31 16 1
      else s.bump (Reg.wrdHexhBc h) 15 0 1
    let s := s.cellEvent 0x26 0x0B h Act.none 0 h
    let ie := if h < 32 then s.flag Reg.wrdIeLo h else s.flag Reg.wrdIeHi (h - 32)
    if first && ie then s.raise 88 else s

/-- One beat of a holder at one arbiter: granted from its credit; without an allotment, from slack (R232); with its credit spent, from slack
where it may borrow (R233); else it is not granted in this period. -/
def State.grant (s : State) (h : Nat) (slack : Bool) (a : Arbiter) : State × Bool :=
  let allot := s.allotment h a
  let k := 64 * a.key + h
  let used := s.ward.spent.get k
  if allot = 0 then (s, slack)
  else if used < allot then ({ s with ward := { s.ward with spent := s.ward.spent.set k (used + 1) } }, true)
  else
    let s := s.exhaust h a.level
    if s.holderBorrows h && slack then (s.bump (Reg.wrdHborrow h) 31 0 1, true) else (s, false)

/-- Grants along a path; what is left begins with the arbiter where the request waits. -/
def State.travel (h : Nat) (slack : Bool) : List Arbiter → State → State × List Arbiter
  | [], s => (s, [])
  | a :: as, s =>
    let (s, granted) := s.grant h slack a
    if granted then State.travel h slack as s else (s, a :: as)

/-- Whether the access of an initiator is arbitrated under a credit: an URGENT one is not, nor any before WRD runs; an access that has waited has
had its grants. -/
def State.budgeted (s : State) (w : Who) : Bool := !urgent w && s.wardRuns && !s.ward.through

/-- The grants of an access along its path: the state they leave, and the arbiters still before it, the first of which holds it back. -/
def State.grants (s : State) (x : Waiting) : State × List Arbiter :=
  if s.budgeted x.who then State.travel (s.holderOf x.who) x.slack (s.variant.pathOf x.who x.addr x.len) s else (s, [])

/-- A request waits for the next Ward period before the arbiters left on its path. -/
def State.queued (s : State) (x : Waiting) (left : List Arbiter) : State :=
  { s with ward := { s.ward with waiting := s.ward.waiting ++ [{ x with left := left }] } }

/-- An admitted access passes the arbiters on its path and is served by `go`, or waits for the next Ward period (R233). -/
def State.arbitrated (s : State) (x : Waiting) (go : State → State) : State :=
  let (s, left) := s.grants x
  if left.isEmpty then go s else s.queued x left

/-- One 32-bit access to a register: while it is served no other request stands before an arbiter, so slack is there (DESIGN CHOICE, log
entry 142). -/
def wordAccess (w : Who) (a n : Nat) (data : Option (List Byte)) : Waiting :=
  { who := w, addr := a, len := n, data := data, ecc := .clean, slack := true, left := [] }

/-- The beats an engine moves itself: what exceeds its credit, and may not be borrowed, is granted from the next period's (log entry 84). -/
def State.owe (h : Nat) : List Arbiter → State → State
  | [], s => s
  | a :: as, s =>
    let (s, granted) := s.grant h true a
    let k := 64 * a.key + h
    State.owe h as (if granted then s else { s with ward := { s.ward with spent := s.ward.spent.set k (s.ward.spent.get k + 1) } })

/-- A Lathe reaches its own local store beside the arbiters (05, the kind table). -/
def ownStore (w : Who) (a : Nat) : Bool :=
  decide (8 ≤ w.id) && decide (w.id < 12) && decide (Addr.lathe + 0x800000 * (w.id - 8) ≤ a) && decide (a < Addr.lathe + 0x800000 * (w.id - 7))

/-- An engine's own traffic of `n` bytes at an address under its tag (R230). -/
def State.charge (s : State) (w : Who) (a n : Nat) : State :=
  if s.budgeted w && !ownStore w a then State.owe (s.holderOf w) (s.variant.pathOf w a n) s else s

/-- An engine's own write under its tag. -/
def State.dmaWrite (s : State) (w : Who) (a : Nat) (bs : List Byte) : State := (s.charge w a bs.length).engineWrite w a bs

/-- An engine delivers a result to a slot under its tag. -/
def State.post (s : State) (id addr code : Nat) (err seasoning stale : Bool) (payload : List Byte) : State :=
  (s.charge (engineWho id) addr (16 + payload.length)).deliver id addr code err seasoning stale payload

end Sys2Proof.Machine
end

