-- ==== Sys2Proof/Machine/Clock.lean ====
section
/-! DEFINITION. What device time moves (04): the device-time counter, the spindles' motion and the comparators it crosses,
the calendar's ticks; and deadline words. -/
namespace Sys2Proof.Machine

/-! ### Device time (R190, R191) -/

/-- INCR in 2^-32 ns, clamped to 3.998 ns to 4.002 ns (R191); the limits are the whole multiples of 2^-32 ns nearest to those values (DESIGN
CHOICE, log entry 133). -/
def State.incr (s : State) : Nat :=
  clampNat 17171279249 17188459119 (s.fld Reg.timIncrInt 7 0 * 2 ^ 32 + s.num Reg.timIncrFrac)

/-- Device time in units of 2^-32 ns. -/
def TimeCounter.units (t : TimeCounter) : Nat := t.sec * (1000000000 * 2 ^ 32) + t.sub

/-- The counter at a time given in units of 2^-32 ns. -/
def TimeCounter.ofUnits (u : Nat) : TimeCounter :=
  { sec := u / (1000000000 * 2 ^ 32) % 2 ^ 64, sub := u % (1000000000 * 2 ^ 32) }

/-- Units of 2^-32 ns in a second. -/
def secondUnits : Nat := 1000000000 * 2 ^ 32

/-- Device-time clock ticks until the count of device time since reset reaches `due`. -/
def State.ticksUntil (s : State) (due : Nat) : Nat := (due - s.chip.ran + s.incr - 1) / s.incr

/-- The bits and the STATE values of TIM.STATUS. -/
def Tim.spnSub : Nat := 24
def Tim.sourceRtc : Nat := 11
def Tim.domain : Nat := 10
def Tim.selfAccept : Nat := 9
def Tim.slewing : Nat := 8
def Tim.stepRefused : Nat := 7
def Tim.jumpRefused : Nat := 6
def Tim.holdover : Nat := 5
def Tim.seasoning : Nat := 4
def TimeState.free : Nat := 0
def TimeState.acquiring : Nat := 1
def TimeState.locked : Nat := 2
def TimeState.holdover : Nat := 3
def TimeState.grandmaster : Nat := 4
def State.timFlag (s : State) (b : Nat) : Bool := s.flag Reg.timStatus b
def State.setTimFlag (s : State) (b : Nat) (v : Bool) : State := s.setFlag Reg.timStatus b v
def State.timState (s : State) : Nat := s.fld Reg.timStatus 2 0
def State.setTimState (s : State) (v : Nat) : State := s.setFld Reg.timStatus 2 0 v

/-- INCR held for `d` more units; what lies beyond the last 64 s is dropped (R201). -/
def keepIncrs : Nat → List (Nat × Nat) → List (Nat × Nat)
  | _, [] => []
  | left, (d, v) :: r => if left = 0 then [] else (min left d, v) :: keepIncrs (left - d) r
def addIncr (d v : Nat) (xs : List (Nat × Nat)) : List (Nat × Nat) :=
  let xs := match xs with
    | (d0, v0) :: r => if v0 = v then (d0 + d, v) :: r else (d, v) :: xs
    | [] => [(d, v)]
  keepIncrs (64 * secondUnits) xs

/-! ### Comparators (R165 to R168) -/

/-- The target angle, divisor and multiplier of a comparator. -/
structure Comparator where
  offset : Nat
  div : Nat
  mult : Nat
  dir : Nat
  armed : Bool
  owned : Bool
  deriving DecidableEq, Repr

def State.comparator (s : State) (n c : Nat) : Comparator :=
  let w := s.reg (Reg.spnCmpCtl n c)
  { offset := s.num (Reg.spnCmpAngle n c), div := field w 23 12, mult := field w 11 0, dir := field w 29 28,
    armed := bit w.toNat 31, owned := bit w.toNat 30 }

/-- The first target above `x`, in units of 2^-32 revolution (04, "Event comparators"). -/
def Comparator.next (k : Comparator) (x : Nat) : Nat :=
  if 1 < k.div then
    let d := x + 2 ^ 32 - k.offset
    let a := d % 2 ^ 32
    let i := ((a + 1) * k.div + 2 ^ 32 - 1) / 2 ^ 32
    d / 2 ^ 32 * 2 ^ 32 + i * 2 ^ 32 / k.div + k.offset - 2 ^ 32
  else
    let r := if k.offset ≤ x % 2 ^ 32 then x / 2 ^ 32 + 1 else x / 2 ^ 32
    let m := max 1 k.mult
    (r + m - 1) / m * m * 2 ^ 32 + k.offset

/-- The targets in `(x, y]`, at most `fuel` of them. -/
def Comparator.targets (k : Comparator) (y : Nat) : Nat → Nat → List Nat
  | 0, _ => []
  | fuel + 1, x => if k.next x ≤ y then k.next x :: Comparator.targets k y fuel (k.next x) else []

/-- A bound on the targets one motion of `u` units crosses. -/
def Comparator.bound (k : Comparator) (u : Nat) : Nat := u * max 1 k.div / 2 ^ 32 + 2

/-- The comparator fires on TRAVEL: it is owned, or DIR is TRAVEL (R166). -/
def Comparator.onTravel (k : Comparator) : Bool := k.owned || k.dir == 0

/-- The targets a motion crosses: from `x` up to `y` in units, in a direction; each with its distance along the motion. A backward crossing fires
when POSITION passes from above the target to at or below it (DESIGN CHOICE, log entry 134: R165 words the rising crossing alone). -/
def Comparator.crossed (k : Comparator) (travel pos u : Nat) (forward : Bool) : List (Nat × Nat) :=
  if !k.armed then []
  else if k.onTravel then (k.targets (travel + u) (k.bound u) travel).map fun t => (t, t - travel)
  else
    let k1 := { k with mult := 1 }
    let ts :=
      if forward && (k.dir == 1 || k.dir == 3) then k1.targets (pos + u) (k.bound u) pos
      else if !forward && (k.dir == 2 || k.dir == 3) then k1.targets (pos - 1) (k.bound u) (pos - u - 1)
      else []
    (ts.map fun t => (t, t - pos + (pos - t))).filter fun e => (travel + e.2) / 2 ^ 32 % max 1 k.mult == 0

/-- Insert a crossing, after its distance, in the order of the motion (R167). -/
def insertDue (e : Nat × Crossing) : List (Nat × Crossing) → List (Nat × Crossing)
  | [] => [e]
  | x :: xs => if e.1 < x.1 then e :: x :: xs else x :: insertDue e xs

/-! ### Samples and rates (R160) -/

/-- The signed difference of two 64-bit positions. -/
def diff64 (a b : Nat) : Int := signed 64 (a + 2 ^ 64 - b % 2 ^ 64)

/-- The position at a time, between the samples around it; before the oldest, the oldest. -/
def sampleAt (t : Int) (newer : Int × Nat) : List (Int × Nat) → Nat
  | [] => newer.2
  | e :: r =>
    if e.1 ≤ t then unsigned 64 ((e.2 : Int) + diff64 newer.2 e.2 * (t - e.1) / max 1 (newer.1 - e.1)) else sampleAt t e r

/-- Samples a window needs: those within it and the first one before. -/
def keepSamples (limit : Int) : List (Int × Nat) → List (Int × Nat)
  | [] => []
  | e :: r => if e.1 ≤ limit then [e] else e :: keepSamples limit r

/-- A sample more; one on the straight line between its neighbours is dropped. -/
def addSample (now : Int) (pos : Nat) (window : Nat) (xs : List (Int × Nat)) : List (Int × Nat) :=
  let xs := match xs with
    | a :: b :: r => if diff64 pos a.2 * (a.1 - b.1) = diff64 a.2 b.2 * (now - a.1) then b :: r else xs
    | _ => xs
  (now, pos) :: keepSamples (now - window) xs

/-- The change over the window in 2^-16 rev/s, toward zero; `window` in 2^-32 ns. -/
def rateOver (now : Int) (pos : Nat) (window : Nat) (xs : List (Int × Nat)) : Int :=
  (diff64 pos (sampleAt (now - window) (now, pos) xs) * (1000000000 * 2 ^ 16)).tdiv (window : Int)

/-- A start at a rate that is taken to have run before: the samples then measure it. -/
def steadySamples (now : Int) (pos window : Nat) (rate : Int) : List (Int × Nat) :=
  [(now, pos), (now - window, unsigned 64 ((pos : Int) - rate * window / (1000000000 * 2 ^ 16)))]

/-! ### Spindle motion (R157 to R162) -/

def State.spin (s : State) (n : Nat) : Spindle := s.spn.spin.get n
def State.setSpin (s : State) (n : Nat) (p : Spindle) : State := { s with spn := { s.spn with spin := s.spn.spin.set n p } }

def Spn.subst : Nat := 31
def Spn.seasoning : Nat := 30
def Spn.locked : Nat := 29
def Spn.rejoin : Nat := 28
def Spn.reverse : Nat := 27
def Spn.indexErr : Nat := 26
def Spn.range : Nat := 25
def State.spinFlag (s : State) (n b : Nat) : Bool := s.flag (Reg.spnState n) b

/-- A bit of SPN.STATE changes; a change of SUBST, REJOIN, LOCKED or SEASONING raises source 80 + n. -/
def State.setSpinFlag (s : State) (n b : Nat) (v : Bool) : State :=
  if s.spinFlag n b = v then s
  else
    let s := s.setFlag (Reg.spnState n) b v
    if 28 ≤ b then s.raise (80 + n) else s

/-- The spindle has a source and runs. -/
def State.spinUsed (s : State) (n : Nat) : Bool := decide (n < 8) && s.spindleSrc n != Src.unused
def State.spinRuns (s : State) (n : Nat) : Bool :=
  s.spinUsed n && decide (Mode.mount < s.mode)

/-- CFG.RWIN of a spindle in 2^-32 ns: 1 ms, 10 ms, 100 ms or 1 s. -/
def State.spinWindow (s : State) (n : Nat) : Nat := 1000000 * 10 ^ (u8 s.spindleBody (spindleEntry n + 2) / 4 % 4) * 2 ^ 32

/-- The measured rate: the change of POSITION over the window, in 2^-16 rev/s (R160). -/
def State.measuredRate (s : State) (n : Nat) : Int := rateOver s.chip.ran (s.spin n).pos (s.spinWindow n) (s.spin n).hist

/-- The rate the part measures for the source, over the window (R174). -/
def State.measuredSource (s : State) (n : Nat) : Int := rateOver s.chip.ran (s.spin n).srcRun (s.spinWindow n) (s.spin n).srcHist

/-- The samples go on, STATE.RANGE shows whether the rate lies outside [RMIN, RMAX], and the time it left them is kept (R160, R169). -/
def State.noteSpindle (s : State) (n : Nat) : State :=
  let p := s.spin n
  let now : Int := s.chip.ran
  let w := s.spinWindow n
  let p := { p with hist := addSample now p.pos w p.hist, srcHist := addSample now p.srcRun w p.srcHist }
  let r := rateOver now p.pos w p.hist
  let out := decide (r < (s.spindleRmin n : Int)) || decide ((s.spindleRmax n : Int) < r)
  let p := { p with outSince := if out then p.outSince <|> some s.chip.ran else none, goodRate := if out then p.goodRate else r }
  (s.setSpin n p).setSpinFlag n Spn.range out

/-- The crossings one motion of `u` units over the last `ticks` makes, over the spindle's 64 comparators, each with its tick; while TIM generates the
spindles software's do not fire (R178). -/
def State.crossings (s : State) (n travel pos u : Nat) (forward : Bool) (ticks : Nat) : List Crossing :=
  let crossing := fun (c : Nat) (e : Nat × Nat) =>
    let ago := (ticks - (e.2 * ticks + u - 1) / u) * s.incr
    (e.2, { spindle := n, cmp := c, target := e.1, time := (s.time.units - ago) / 2 ^ 32, ran := s.chip.ran - ago : Crossing })
  ((List.range 64).foldl (fun due c =>
    let k := s.comparator n c
    if !k.owned && s.fenced Region.sense then due
    else ((k.crossed travel pos u forward).map (crossing c)).foldl (fun d e => insertDue e d) due) []).map Prod.snd

/-- A spindle moves by `d` units, evenly over the last `ticks`: POSITION follows, TRAVEL grows by the distance (R158, R159), and the crossings wait
in ascending order of angle (R165, R167). -/
def State.moveSpindle (s : State) (n : Nat) (d : Int) (ticks : Nat) : State :=
  let p := s.spin n
  let u := d.natAbs
  if u = 0 then s
  else
    let due := s.crossings n p.travel (p.pos + 2 ^ 64) u (decide (0 < d)) ticks
    let p := { p with pos := unsigned 64 ((p.pos : Int) + d), travel := (p.travel + u) % 2 ^ 64 }
    let s := s.setSpin n p
    { s with spn := { s.spn with due := s.spn.due ++ due } }

/-- The rate clamped to [RMIN, RMAX] (R170, R174). -/
def State.clampRate (s : State) (n : Nat) (r : Int) : Nat := clampNat (s.spindleRmin n) (s.spindleRmax n) r.toNat

/-- Revolutions in `ns` nanoseconds of a period, in units, from an origin: the TIME formula. -/
def angleOf (t origin period : Nat) : Int := ((t : Int) - origin) * 2 ^ 32 / (max 1 period : Nat)

/-- Origin and period of a spindle whose source's angle is a function of device time: TIME and ROUND. -/
def State.anchor (s : State) (n : Nat) : Nat × Nat :=
  if s.spindleSrc n = Src.time then (s.spindleOrigin n, s.spindlePeriod n) else ((s.spin n).origin, (s.spin n).period)

def State.anchored (s : State) (n : Nat) : Bool := s.spindleSrc n == Src.time || (s.spindleSrc n == Src.round && (s.spin n).period != 0)

/-- The source rate of a rejoin (R174): of a TIME or ROUND that of its period, else the measured one; within [RMIN, RMAX]. -/
def State.sourceRate (s : State) (n : Nat) : Nat :=
  s.clampRate n (if s.anchored n then 65536000000000 / (max 1 (s.anchor n).2 : Nat) else s.measuredSource n)

/-- The angle from the spindle to its source, in `(-2^31, 2^31]` (R174). -/
def Spindle.gap (p : Spindle) : Int :=
  let d : Nat := (p.src + 2 ^ 64 - p.pos % 2 ^ 32) % 2 ^ 32
  if d ≤ 2 ^ 31 then (d : Int) else (d : Int) - 2 ^ 32

/-- The angle of a source moves by `d` units. -/
def Spindle.moveSource (p : Spindle) (d : Int) : Spindle :=
  { p with src := unsigned 64 ((p.src : Int) + d), srcRun := unsigned 64 ((p.srcRun : Int) + d) }

/-- A difference `g` that changes by `d` reaches 0 or is carried past it. -/
def closes (g d : Int) : Bool := decide (g + d = 0) || (decide (g < 0) && decide (0 < g + d)) || (decide (0 < g) && decide (g + d < 0))

/-- Units per second of a spindle's own motion while it does not follow: its substitute or start-up rate, or while it rejoins 17/16 or 15/16 of
the source rate (R174). -/
def State.ownRate (s : State) (n : Nat) : Int :=
  if s.spinFlag n Spn.rejoin then ((s.sourceRate n * 4096 * (if 0 ≤ (s.spin n).gap then 17 else 15) : Nat) : Int)
  else (s.spin n).sub * 4096

/-- The spindle follows its source: it is no substitute, does not rejoin and knows the source's angle. -/
def State.follows (s : State) (n : Nat) : Bool :=
  !s.spinFlag n Spn.subst && !s.spinFlag n Spn.rejoin && (s.spin n).known

/-- The rate a spindle runs at, in 2^-20 rev/s. -/
def State.presentRate (s : State) (n : Nat) : Int :=
  if !s.follows n then s.ownRate n / 4096
  else if s.anchored n then ((2 ^ 20 * 1000000000 / max 1 (s.anchor n).2 : Nat) : Int)
  else s.measuredRate n * 16

/-- Units the source moves in `d` units of 2^-32 ns, device time going from `t0` to `t1`, and the fraction left. -/
def State.sourceMotion (s : State) (n d t0 t1 : Nat) : Int × Nat :=
  let p := s.spin n
  let src := s.spindleSrc n
  if s.anchored n then
    let a := s.anchor n
    (angleOf t1 a.1 a.2 - angleOf t0 a.1 a.2, p.srcAcc)
  else if src = Src.mains ∨ src = Src.pulse then
    let u := p.srcAcc + d * (p.pll * 65536)
    ((u / secondUnits : Nat), u % secondUnits)
  else (0, p.srcAcc)

/-- The motion a SHAFT with INTERP makes between edges (R162), and the fraction left: at the measured rate, never past the next expected edge. -/
def State.interpMotion (s : State) (n d : Nat) : Int × Nat :=
  let p := s.spin n
  if s.spindleSrc n = Src.shaft ∧ s.spindleInterp n = true then
    let u : Int := (p.acc : Int) + s.measuredRate n * 65536 * d
    let step : Int := ((2 ^ 32 / max 1 (s.spindlePeriod n) : Nat) : Int)
    let m := u / (secondUnits : Int)
    let c := clampInt (p.gap - step) (p.gap + step) m
    (c, if c = m then (u % (secondUnits : Int)).toNat else 0)
  else (0, p.acc)

/-- A correction of ANGLE: forward it is motion, backward it moves POSITION alone (R158). -/
def State.correctSpindle (s : State) (n : Nat) (d : Int) : State :=
  if 0 < d then s.moveSpindle n d 0
  else
    let p := s.spin n
    s.setSpin n { p with pos := unsigned 64 ((p.pos : Int) + d) }

/-- Rejoin ends: the spindle takes the source's angle and follows it; a TIME spindle takes its anchored REV (R174, R175), and the seasoning of
a new TIME source ends (R180). -/
def State.finishRejoin (s : State) (n : Nat) : State :=
  let s := s.correctSpindle n (s.spin n).gap
  let s := if s.spindleSrc n = Src.time then
      let p := s.spin n
      s.setSpin n { p with pos := unsigned 64 (angleOf s.now (s.spindleOrigin n) (s.spindlePeriod n)) }
    else s
  let s := s.setSpin n { s.spin n with acc := 0, known := true }
  ((s.setSpinFlag n Spn.subst false).setSpinFlag n Spn.rejoin false).setSpinFlag n Spn.seasoning false

/-- One spindle moves over `d` units of 2^-32 ns (R157). A rejoin whose difference reaches 0 within them ends (R174). -/
def State.elapseSpindle (s : State) (n d t0 t1 : Nat) : State :=
  if !s.spinRuns n then s
  else
    let p := s.spin n
    let m := s.sourceMotion n d t0 t1
    let s :=
      if s.follows n then
        let i := s.interpMotion n d
        (s.setSpin n ({ p with srcAcc := m.2, acc := i.2 }.moveSource m.1)).moveSpindle n (m.1 + i.1) (d / s.incr)
      else
        let u : Int := (p.acc : Int) + s.ownRate n * d
        let own := u / (secondUnits : Int)
        let ends := s.spinFlag n Spn.rejoin && closes p.gap (m.1 - own)
        let s := s.setSpin n ({ p with srcAcc := m.2, acc := (u % (secondUnits : Int)).toNat }.moveSource m.1)
        if ends then (s.moveSpindle n (p.gap + m.1) (d / s.incr)).finishRejoin n else s.moveSpindle n own (d / s.incr)
    s.noteSpindle n

/-! ### The calendar's ticks (R213, R225) -/

/-- The cell and the block advance by `d` ticks of 1/32768 s. After 2399-12-31 they count on into 2400 (DESIGN CHOICE, log entry 135: R215 gives the
years and no end of them). -/
def RtcState.advance (r : RtcState) (d : Nat) : RtcState :=
  { r with cellSec := r.cellSec + (r.cellTick + d) / 32768, cellTick := (r.cellTick + d) % 32768,
           blockSec := (r.blockSec + (r.blockTick + d) / 32768) % 2 ^ 48, blockTick := (r.blockTick + d) % 32768 }

/-- |TRIM| and its sign. -/
def RtcState.trimSize (r : RtcState) : Nat := (signed 11 r.trim).natAbs
def RtcState.trimPositive (r : RtcState) : Bool := decide (0 < signed 11 r.trim)

/-- `c` crystal cycles: the accumulator adds |TRIM| at each, and each overflow inserts or swallows a count (R225). -/
def RtcState.cycles (r : RtcState) (c : Nat) : RtcState :=
  let a := r.trimAcc + c * r.trimSize
  let extra := a / 2 ^ 23
  let r := { r with trimAcc := a % 2 ^ 23, raw := r.raw + c }
  r.advance (if r.trimPositive then c + extra else c - extra)

/-- A snapshot has stood for 1 s. -/
def RtcSnap.old (now : Nat) (e : Option RtcSnap) : Bool :=
  match e with
  | some x => decide (x.taken + secondUnits ≤ now)
  | none => false

/-- R219: snapshots that have stood for 1 s are released: the initiator's FREEZE_EXPIRED is 1 and source 58 rises. -/
def State.releaseSnaps (s : State) : State :=
  let old := fun (t : Tab (Option RtcSnap)) => (t.cells.filter fun e => RtcSnap.old s.chip.ran e.2).map Prod.fst
  let cells := old s.rtc.cellSnaps
  let blocks := old s.rtc.blockSnaps
  if cells.isEmpty && blocks.isEmpty then s
  else
    { s with rtc := { s.rtc with
      cellSnaps := s.rtc.cellSnaps.keep fun k => !cells.contains k
      blockSnaps := s.rtc.blockSnaps.keep fun k => !blocks.contains k
      expired := (cells ++ blocks).foldl (fun t k => t.set k true) s.rtc.expired } }.raise 58

/-! ### Time passes -/

/-- `k` ticks of the 250 MHz device-time clock: device time counts (R190), source 64 rises at a second boundary (R193), the spindles move
(R157), TIM.HOLD_S counts in holdover and INCR is remembered while LOCKED (R201), and the calendar's crystal runs (log entry 8). -/
def State.elapse (s : State) (k : Nat) : State :=
  let t0 := s.now
  let d := k * s.incr
  let u := s.time.units + d
  let crossed := decide (s.time.sec < u / secondUnits)
  let ph := s.rtc.phase + 32768 * k
  let incrs := if s.timState = TimeState.locked ∧ 0 < k then addIncr d s.incr s.tim.incrs else s.tim.incrs
  let s := { s with time := .ofUnits u, chip := { s.chip with up := s.chip.up + 4 * k, ran := s.chip.ran + d },
                    tim := { s.tim with incrs := incrs }, rtc := { s.rtc with phase := ph % 250000000 }.cycles (ph / 250000000) }
  let s := if s.timFlag Tim.holdover then s.setNum Reg.timHoldS (min 0xFFFFFFFF ((s.chip.ran - s.tim.heldAt) / secondUnits)) else s
  let s := if crossed then s.raise 64 else s
  ((List.range 8).foldl (fun s n => s.elapseSpindle n d t0 s.now) s).releaseSnaps

/-- Ticks until a spindle has moved `u` units by its own motion; `none` when time alone does not move it forward. -/
def State.ticksFor (s : State) (n u : Nat) : Option Nat :=
  if s.follows n && s.anchored n then
    let a := s.anchor n
    let goal : Int := angleOf s.now a.1 a.2 + u
    let ns : Int := (goal * a.2 + (2 ^ 32 - 1)) / 2 ^ 32 + a.1
    let units : Int := ns * 2 ^ 32 - s.time.units
    some ((units.toNat + s.incr - 1) / s.incr)
  else
    let src := s.spindleSrc n
    let p := s.spin n
    let rate : Nat :=
      if s.follows n then
        if src = Src.mains ∨ src = Src.pulse then p.pll * 65536
        else if src = Src.shaft ∧ s.spindleInterp n = true ∧ (u : Int) ≤ p.gap + (2 ^ 32 / max 1 (s.spindlePeriod n) : Nat) then
          (s.measuredRate n * 65536).toNat
        else 0
      else (s.ownRate n).toNat
    let acc := if s.follows n ∧ (src = Src.mains ∨ src = Src.pulse) then p.srcAcc else p.acc
    if rate = 0 then none
    else
      let d := (u * secondUnits - acc + rate - 1) / rate
      some ((d + s.incr - 1) / s.incr)

/-- Ticks until the difference of a rejoining spindle is 0 by time alone, if its own motion and the source's close it (R174). -/
def State.ticksToClose (s : State) (n : Nat) : Option Nat :=
  let src := s.spindleSrc n
  let source : Int :=
    if s.anchored n then (10 ^ 9 * 2 ^ 32 / max 1 (s.anchor n).2 : Nat)
    else if src = Src.mains ∨ src = Src.pulse then ((s.spin n).pll * 65536 : Nat) else 0
  let g := (s.spin n).gap
  let rel := s.ownRate n - source
  if (0 < g ∧ 0 < rel) ∨ (g < 0 ∧ rel < 0) then
    let d := (g.natAbs * secondUnits + rel.natAbs - 1) / rel.natAbs
    some ((d + s.incr - 1) / s.incr)
  else none

/-! ### Firing (R165 to R167) -/

/-- Take the first waiting crossing of a comparator. -/
def takeDue (n c : Nat) : List Crossing → Option (Crossing × List Crossing)
  | [] => none
  | e :: r => if e.spindle = n ∧ e.cmp = c then some (e, r) else (takeDue n c r).map fun (x, l) => (x, e :: l)

/-- The crossings that wait before the first one of comparator `c` of spindle `n`. -/
def beforeDue (n c : Nat) : List Crossing → List Crossing
  | [] => []
  | e :: r => if e.spindle = n ∧ e.cmp = c then [] else e :: beforeDue n c r

/-- A crossing of comparator `c` of spindle `n` waits. -/
def State.waits (s : State) (n c : Nat) : Bool := s.spn.due.any fun e => e.spindle == n && e.cmp == c

/-- The crossing of comparator `c` of spindle `n` that waits longest, with its target, taken off the list. A consumer serves its events of a spindle
in their order: while an earlier one of the same consumer waits, at another target, none is served (R167). -/
def State.serveDue (s : State) (n c : Nat) : Option (State × Nat) :=
  match takeDue n c s.spn.due with
  | none => none
  | some (x, r) =>
    let who := s.consumerOf n c
    if (beforeDue n c s.spn.due).any fun e => e.spindle == n && e.target != x.target && s.consumerOf n (e.cmp % 64) == who then none
    else some ({ s with spn := { s.spn with due := r, fired := x } }, x.target)

/-- The ticks until the spindle reaches the comparator's next target. -/
def State.ticksToNext (s : State) (n c : Nat) : Option Nat :=
  let p := s.spin n
  let k := s.comparator n c
  let x := if k.onTravel then p.travel else p.pos
  s.ticksFor n (k.next x - x)

/-- As `State.crossing`, from the end of a rejoin. -/
def State.afterRejoin (s : State) (n c : Nat) : Option (State × Nat) :=
  if s.waits n c then s.serveDue n c
  else
    match s.ticksToNext n c with
    | some k => (s.elapse k).serveDue n c
    | none => none

/-- The crossing of comparator `c` of spindle `n` that a firing serves, with its target: one that waits, or the next, up to
which time passes; where a rejoin ends first, the way is measured again from there. `none`: the comparator is not armed, or its target is not
reached. -/
def State.crossing (s : State) (n c : Nat) : Option (State × Nat) :=
  if s.waits n c then s.serveDue n c
  else if (s.comparator n c).armed && s.spinRuns n then
    let ends := if s.spinFlag n Spn.rejoin then s.ticksToClose n else none
    match s.ticksToNext n c, ends with
    | none, none => none
    | some k, none => (s.elapse k).serveDue n c
    | k, some j =>
      match k with
      | some k => if k ≤ j then (s.elapse k).serveDue n c else (s.elapse j).afterRejoin n c
      | none => (s.elapse j).afterRejoin n c
  else none

/-- A comparator the section assigns to a consumer fires for it. -/
def State.firing (s : State) (consumer n c : Nat) : Option (State × Nat) :=
  if s.consumerOf n c = consumer then s.crossing n c else none

/-- The clock when the count of device time since reset was `ran`, and at the crossing served last. -/
def State.ranAt (s : State) (ran : Nat) : Nat := s.chip.up - (s.chip.ran - ran) / 2 ^ 32
def State.firedAt (s : State) : Nat := s.ranAt s.spn.fired.ran

/-- The spindle is a substitute: what it drives carries SPINDLE_SUBSTITUTE (R171). -/
def State.substitute (s : State) (n : Nat) : Bool := s.spinFlag n Spn.subst

/-! ### Deadline words (R184 to R187) -/

/-- The word is valid (R186). -/
def State.deadlineValid (s : State) (w : Nat) : Bool :=
  if w / 2 ^ 63 % 2 = 0 then decide (w % 2 ^ 32 < 1000000000) else s.spindleSrc (w / 2 ^ 60 % 8) != Src.unused

/-- What is left of a deadline: nanoseconds of device time of kind 0, units of TRAVEL of kind 1; not above 0 once it has
passed (R184). -/
def State.deadlineLeft (s : State) (w : Nat) : Int :=
  if w / 2 ^ 63 % 2 = 0 then
    signed 31 (w / 2 ^ 32 % 2 ^ 31 + 2 ^ 31 - s.time.sec % 2 ^ 31) * 1000000000 + (w % 2 ^ 32 : Nat) -
      (s.time.sub / 2 ^ 32 : Nat)
  else
    let t := (s.spin (w / 2 ^ 60 % 8)).travel
    signed 28 (w / 2 ^ 32 % 2 ^ 28 + 2 ^ 28 - t / 2 ^ 32 % 2 ^ 28) * 2 ^ 32 + (w % 2 ^ 32 : Nat) - (t % 2 ^ 32 : Nat)

def State.deadlinePassed (s : State) (w : Nat) : Bool := decide (s.deadlineLeft w ≤ 0)

/-- The deadline in ns from now, for comparing kinds: TRAVEL left at the spindle's present rate. -/
def State.deadlineNs (s : State) (w : Nat) : Int :=
  if w / 2 ^ 63 % 2 = 0 then s.deadlineLeft w
  else
    let n := w / 2 ^ 60 % 8
    let r : Nat := if s.follows n then (if s.anchored n then s.sourceRate n else (s.measuredRate n).natAbs) else (s.ownRate n).natAbs / 65536
    s.deadlineLeft w * 1000000000 / ((max 1 r : Nat) * 65536 : Int)

/-- The deadline hangs on a substitute spindle. -/
def State.deadlineSubstitute (s : State) (w : Nat) : Bool := w / 2 ^ 63 % 2 == 1 && s.substitute (w / 2 ^ 60 % 8)

end Sys2Proof.Machine
end

