-- ==== Sys2Proof/Machine/Profile.lean ====
section
/-! DEFINITION. Velocity profiles (13): trapezoidal and S-curve moves as pieces of constant jerk, in FP64 (R536 to R538). The order of the
FP64 operations is the model's (log entry 33). -/
namespace Sys2Proof.Machine
namespace D

def add : Fp → Fp → Fp := Fp.add f64 .near
def sub : Fp → Fp → Fp := Fp.sub f64 .near
def mul : Fp → Fp → Fp := Fp.mul f64 .near
def div : Fp → Fp → Fp := Fp.div f64 .near
def sqrt : Fp → Fp := Fp.sqrt f64 .near
def ofNat (n : Nat) : Fp := Fp.ofInt f64 n
def zero : Fp := .zero false
def half : Fp := .fin false 1 (-1)
def two : Fp := .fin false 1 1

end D

/-- The largest whole number not above a number; 0 of one below 0. -/
def Fp.floorNat : Fp → Nat
  | .fin false m e => if 0 ≤ e then m * 2 ^ e.toNat else m / 2 ^ (-e).toNat
  | _ => 0

/-- Distance and rate `t` seconds into a piece. -/
def Seg.posAt (g : Seg) (t : Fp) : Fp :=
  D.mul t (D.add g.v (D.mul t (D.add (D.mul g.a D.half) (D.div (D.mul t g.j) (D.ofNat 6)))))
def Seg.rateAt (g : Seg) (t : Fp) : Fp := D.add g.v (D.mul t (D.add g.a (D.mul D.half (D.mul t g.j))))

/-- Distance and rate along a profile; past its end it rests. -/
def posAlong : List Seg → Fp → Fp
  | [], _ => D.zero
  | g :: r, t => if t.le g.dur then g.posAt t else D.add (g.posAt g.dur) (posAlong r (D.sub t g.dur))
def rateAlong : List Seg → Fp → Fp
  | [], _ => D.zero
  | g :: r, t => if t.le g.dur then g.rateAt t else rateAlong r (D.sub t g.dur)
def totalTime (gs : List Seg) : Fp := gs.foldl (fun t g => D.add t g.dur) D.zero

/-- The state a piece shows: 1 ACCEL, 2 CRUISE, 3 DECEL. -/
def Seg.kind (g : Seg) : Nat :=
  let e := g.rateAt g.dur
  if g.v.lt e then 1 else if e.lt g.v then 3 else 2
def kindAlong : List Seg → Fp → Nat
  | [], _ => 3
  | g :: r, t => if t.le g.dur then g.kind else kindAlong r (D.sub t g.dur)

/-- A trapezoid from rate `v` over distance `d`, with limits VSTART, VMAX and AMAX (R536; R545 from a present rate). -/
def trapezoid (v v0 vmax amax d : Fp) : List Seg :=
  let sq := fun x => D.mul x x
  let vp := Fp.min vmax (D.sqrt (D.add (D.mul amax d) (D.mul D.half (D.add (sq v) (sq v0)))))
  let da := D.div (D.sub (sq vp) (sq v)) (D.mul D.two amax)
  let dd := D.div (D.sub (sq vp) (sq v0)) (D.mul D.two amax)
  let rest := Fp.max D.zero (D.sub d (D.add da dd))
  [{ dur := D.div (D.sub vp v) amax, v := v, a := amax, j := D.zero },
   { dur := D.div rest vp, v := vp, a := D.zero, j := D.zero },
   { dur := D.div (D.sub vp v0) amax, v := vp, a := amax.neg, j := D.zero }]

/-- a_p and T_a of R537 for a peak rate. -/
def scurvePeak (v0 amax jmax vp : Fp) : Fp := Fp.min amax (D.sqrt (D.mul jmax (D.sub vp v0)))
def scurveTime (v0 amax jmax vp : Fp) : Fp :=
  let dv := D.sub vp v0
  let ap := scurvePeak v0 amax jmax vp
  if dv.isZero then D.zero else D.add (D.div dv ap) (D.div ap jmax)

/-- The distance of both ramps, 2 · (VSTART + vp) / 2 · T_a. -/
def scurveRamps (v0 amax jmax vp : Fp) : Fp := D.mul (D.add v0 vp) (scurveTime v0 amax jmax vp)

/-- Bisection for the highest vp whose ramps fit (R537). -/
def scurveBisect (v0 amax jmax d : Fp) : Nat → Fp → Fp → Fp
  | 0, lo, _ => lo
  | fuel + 1, lo, hi =>
    if (D.sub hi lo).le (D.mul hi (.fin false 1 (-30))) then lo
    else
      let m := D.mul D.half (D.add lo hi)
      if (scurveRamps v0 amax jmax m).le d then scurveBisect v0 amax jmax d fuel m hi else scurveBisect v0 amax jmax d fuel lo m

/-- An S-curve from standstill over distance `d` (R537). -/
def scurve (v0 vmax amax jmax d : Fp) : List Seg :=
  let vp := if (scurveRamps v0 amax jmax vmax).le d then vmax else scurveBisect v0 amax jmax d 128 v0 vmax
  let ap := scurvePeak v0 amax jmax vp
  let ta := scurveTime v0 amax jmax vp
  let tj := if ta.isZero then D.zero else D.div ap jmax
  let th := if ta.isZero then D.zero else Fp.max D.zero (D.sub (D.div (D.sub vp v0) ap) tj)
  let v1 := D.add v0 (D.mul D.half (D.mul ap tj))
  let v2 := D.add v1 (D.mul ap th)
  let rest := Fp.max D.zero (D.sub d (scurveRamps v0 amax jmax vp))
  [{ dur := tj, v := v0, a := D.zero, j := jmax },
   { dur := th, v := v1, a := ap, j := D.zero },
   { dur := tj, v := v2, a := ap, j := jmax.neg },
   { dur := D.div rest vp, v := vp, a := D.zero, j := D.zero },
   { dur := tj, v := vp, a := D.zero, j := jmax.neg },
   { dur := th, v := v2, a := ap.neg, j := D.zero },
   { dur := tj, v := v1, a := ap.neg, j := jmax }]

/-- A deceleration from rate `v` to VSTART (R547). -/
def braking (v v0 amax : Fp) : List Seg :=
  if v.le v0 then [] else [{ dur := D.div (D.sub v v0) amax, v := v, a := amax.neg, j := D.zero }]

/-! ### Steps of a move (R538) -/

/-- Seconds of a number of half ticks of the 250 MHz clock. -/
def halfTicks (h : Nat) : Fp := D.div (D.ofNat h) (D.ofNat 500000000)

/-- Steps reached `h` half ticks after t = 0, as a real number. -/
def Move.reached (m : Move) (h : Nat) : Fp :=
  let t := halfTicks h
  if (totalTime m.segs).le t then D.ofNat m.dist else D.add m.frac (D.mul m.scale (posAlong m.segs t))

/-- The least `n` in `[lo, hi]` with a property that stays true once it is. -/
def leastNat (p : Nat → Bool) : Nat → Nat → Nat → Nat
  | 0, lo, _ => lo
  | fuel + 1, lo, hi => if hi ≤ lo then lo else if p ((lo + hi) / 2) then leastNat p fuel lo ((lo + hi) / 2) else leastNat p fuel ((lo + hi) / 2 + 1) hi

/-- The tick of step `k`, counted from t = 0: the one nearest to t_k. -/
def Move.tickOf (m : Move) (k : Nat) : Nat :=
  let last := (Fp.floorNat (D.mul (totalTime m.segs) (D.ofNat 250000000))) + 2
  leastNat (fun n => (D.ofNat k).le (m.reached (2 * n + 1))) (last.log2 + 2) 0 last

/-- Rate and position at a tick: before t = 0 the move has not left its start. -/
def Move.elapsed (m : Move) (tick : Nat) : Fp := halfTicks (2 * (tick - m.start))
def Move.rate (m : Move) (tick : Nat) : Fp :=
  D.mul m.scale (if tick < m.start then m.v0 else rateAlong m.segs (m.elapsed tick))

end Sys2Proof.Machine
end

