-- ==== Sys2Proof/Machine/FusMath.lean ====
section
/-! DEFINITION. The arithmetic of the fusion engines (10): small matrices in FP64 (R420) and the drift models' least squares. The order of
the FP64 operations is the model's (log entry 33). -/
namespace Sys2Proof.Machine

/-- A matrix by rows. -/
abbrev Mat := List (List Fp)

namespace Mat

def dot (a b : List Fp) : Fp := (a.zip b).foldl (fun t p => D.add t (D.mul p.1 p.2)) D.zero
def col (m : Mat) (j : Nat) : List Fp := m.map fun r => r.getD j D.zero
def transpose (m : Mat) (cols : Nat) : Mat := (List.range cols).map fun j => col m j
def apply (m : Mat) (x : List Fp) : List Fp := m.map fun r => dot r x
def mul (a b : Mat) (cols : Nat) : Mat := let t := transpose b cols; a.map fun r => t.map fun c => dot r c
def plus (a b : List Fp) : List Fp := (a.zip b).map fun p => D.add p.1 p.2
def minus (a b : List Fp) : List Fp := (a.zip b).map fun p => D.sub p.1 p.2
def add (a b : Mat) : Mat := (a.zip b).map fun p => plus p.1 p.2
def sub (a b : Mat) : Mat := (a.zip b).map fun p => minus p.1 p.2
def scale (k : Fp) (m : Mat) : Mat := m.map fun r => r.map fun x => D.mul k x
def identity (n : Nat) : Mat := (List.range n).map fun i => (List.range n).map fun j => if i = j then Fp.one else D.zero

/-- One step of Gauss-Jordan elimination of `[S | I]` on column `k`. -/
def eliminate (rows : Mat) (k : Nat) : Mat :=
  let piv := rows.getD k []
  let head := piv.getD k D.zero
  let piv := piv.map fun x => D.div x head
  (List.range rows.length).map fun i =>
    let r := rows.getD i []
    if i = k then piv else let f := r.getD k D.zero; (r.zip piv).map fun p => D.sub p.1 (D.mul f p.2)

/-- The inverse of a square matrix. -/
def inverse (m : Mat) : Mat :=
  let n := m.length
  let rows := (m.zip (identity n)).map fun p => p.1 ++ p.2
  ((List.range n).foldl eliminate rows).map fun r => r.drop n

/-- vᵀ M v. -/
def quad (m : Mat) (v : List Fp) : Fp := dot v (apply m v)

/-- A matrix of FP32 values in a body, by rows. -/
def read (b : List Byte) (off rows cols : Nat) : Mat :=
  (List.range rows).map fun i => (List.range cols).map fun j => f32.decode (u32 b (off + 4 * (i * cols + j)))

end Mat

/-- The model of a graph: A, Qc, X0, P0. -/
structure FusModel where
  nx : Nat
  a : Mat
  q : Mat
  x0 : List Fp
  p0 : Mat
  deriving DecidableEq, Repr

/-- Seconds of a number of ns. -/
def secondsOf (ns : Int) : Fp := D.div (Fp.ofInt f64 ns) (D.ofNat 1000000000)

/-- R418. -/
def FusModel.predict (m : FusModel) (x : List Fp) (p : Mat) (ns : Int) : List Fp × Mat :=
  let dt := secondsOf ns
  let f := Mat.add (Mat.add (Mat.identity m.nx) (Mat.scale dt m.a))
    (Mat.scale (D.mul D.half (D.mul dt dt)) (Mat.mul m.a m.a m.nx))
  (Mat.apply f x, Mat.add (Mat.mul (Mat.mul f p m.nx) (Mat.transpose f m.nx) m.nx) (Mat.scale dt m.q))

/-- S of R419. -/
def innovation (h r p : Mat) (nx : Nat) : Mat :=
  Mat.add (Mat.mul (Mat.mul h p nx) (Mat.transpose h nx) h.length) r

/-- NIS of a measurement against a predicted state. -/
def nis (h r : Mat) (nx : Nat) (x : List Fp) (p : Mat) (z : List Fp) : Fp :=
  Mat.quad (Mat.inverse (innovation h r p nx)) (Mat.minus z (Mat.apply h x))

/-- R419. -/
def FusModel.update (m : FusModel) (h r : Mat) (x : List Fp) (p : Mat) (z : List Fp) : List Fp × Mat :=
  let ht := Mat.transpose h m.nx
  let k := Mat.mul (Mat.mul p ht h.length) (Mat.inverse (innovation h r p m.nx)) h.length
  let x := Mat.plus x (Mat.apply k (Mat.minus z (Mat.apply h x)))
  let i := Mat.sub (Mat.identity m.nx) (Mat.mul k h m.nx)
  let kt := Mat.transpose k h.length
  let p := Mat.add (Mat.mul (Mat.mul i p m.nx) (Mat.transpose i m.nx) m.nx) (Mat.mul (Mat.mul k r h.length) kt m.nx)
  (x, Mat.scale D.half (Mat.add p (Mat.transpose p m.nx)))

/-- x = X0 + Hᵀ (z - H X0) (R423). -/
def FusModel.start (m : FusModel) (h : Mat) (z : List Fp) : List Fp :=
  Mat.plus m.x0 (Mat.apply (Mat.transpose h m.nx) (Mat.minus z (Mat.apply h m.x0)))

/-- R426: a diagonal element of P is not positive, or x or P holds a NaN or an infinity. -/
def diverged (x : List Fp) (p : Mat) : Bool :=
  x.any (fun v => !v.isFinite) || p.any (fun r => r.any fun v => !v.isFinite) ||
    (List.range p.length).any fun i => !(D.zero.lt ((p.getD i []).getD i D.zero))

/-- Insert by rising value. -/
def insertFp (v : Fp) : List Fp → List Fp
  | [] => [v]
  | w :: r => if v.lt w then v :: w :: r else w :: insertFp v r

/-- The median; the mean of the middle two of an even number (R421). -/
def median (vs : List Fp) : Fp :=
  let t := vs.foldl (fun l v => insertFp v l) []
  let n := t.length
  if n % 2 = 1 then t.getD (n / 2) D.zero else D.mul D.half (D.add (t.getD (n / 2 - 1) D.zero) (t.getD (n / 2) D.zero))

def meanFp (vs : List Fp) : Fp := D.div (vs.foldl D.add D.zero) (D.ofNat vs.length)

/-- A function of each component over several vectors. -/
def componentwise (f : List Fp → Fp) (zs : List (List Fp)) : List Fp :=
  (List.range ((zs.getD 0 []).length)).map fun i => f (zs.map fun z => z.getD i D.zero)

/-! ### Drift models -/

/-- A drift line a = α + β s, with s and a relative to the newest pair, and its residual. -/
structure Drift where
  alpha : Fp
  beta : Fp
  resid : Fp
  deriving DecidableEq, Repr

/-- The least-squares line over pairs, newest first. One pair, or pairs of one s, give β = 1. -/
def fitDrift (pairs : List (Int × Int)) : Drift := match pairs with
  | [] => { alpha := D.zero, beta := Fp.one, resid := D.zero }
  | (s0, a0) :: _ =>
    let ps := pairs.map fun p => (Fp.ofInt f64 (p.1 - s0), Fp.ofInt f64 (p.2 - a0))
    let sum := fun (f : Fp × Fp → Fp) => ps.foldl (fun t p => D.add t (f p)) D.zero
    let n := D.ofNat ps.length
    let sx := sum Prod.fst
    let sy := sum Prod.snd
    let den := D.sub (D.mul n (sum fun p => D.mul p.1 p.1)) (D.mul sx sx)
    let beta := if den.isZero then Fp.one else D.div (D.sub (D.mul n (sum fun p => D.mul p.1 p.2)) (D.mul sx sy)) den
    let alpha := D.div (D.sub sy (D.mul beta sx)) n
    let err := fun (p : Fp × Fp) => D.sub p.2 (D.add alpha (D.mul beta p.1))
    { alpha := alpha, beta := beta, resid := D.sqrt (D.div (sum fun p => D.mul (err p) (err p)) n) }

end Sys2Proof.Machine
end

