-- ==== Sys2Proof/Machine/FusData.lean ====
section
/-! DEFINITION. The streams of the fusion unit (10): the FUSION section, sample records and rings, aligned time and drift, dropouts, late
samples (R406 to R413, R427 to R429). -/
namespace Sys2Proof.Machine

/-! ### The FUSION section -/

def State.fusBody (s : State) : List Byte := s.body Ty.fusion Region.sense 0
def State.nstream (s : State) : Nat := min 64 (u8 s.fusBody 0)
def State.ngraph (s : State) : Nat := min 64 (u8 s.fusBody 1)
def streamEntry (i : Nat) : Nat := 32 + 32 * i
def State.graphEntry (s : State) (g : Nat) : Nat := 32 + 32 * u8 s.fusBody 0 + 64 * g
def State.refEntry (s : State) (r : Nat) : Nat := 32 + 32 * u8 s.fusBody 0 + 64 * u8 s.fusBody 1 + 16 * r
def State.streamByte (s : State) (i o : Nat) : Nat := u8 s.fusBody (streamEntry i + o)
def State.streamWord (s : State) (i o : Nat) : Nat := u32 s.fusBody (streamEntry i + o)
def State.streamKind (s : State) (i : Nat) : Nat := if i < s.nstream then s.streamByte i 0 else 0
def State.streamTiming (s : State) (i : Nat) : Nat := s.streamByte i 1
def State.streamDepth (s : State) (i : Nat) : Nat := max 1 (u16 s.fusBody (streamEntry i + 0x10))
def State.graphByte (s : State) (g o : Nat) : Nat := u8 s.fusBody (s.graphEntry g + o)
def State.graphHalf (s : State) (g o : Nat) : Nat := u16 s.fusBody (s.graphEntry g + o)
def State.graphWord (s : State) (g o : Nat) : Nat := u32 s.fusBody (s.graphEntry g + o)
def State.graphFp (s : State) (g o : Nat) : Fp := f32.decode (s.graphWord g o)
def State.tracker (s : State) (g : Nat) : Bool := s.graphByte g 0 == 2
def Kind.can : Nat := 1
def Kind.eth : Nat := 2
def Kind.milio : Nat := 3
def Kind.met : Nat := 4
def Kind.host : Nat := 5

/-- The streams that a graph's references name, in order. -/
def State.graphStreams (s : State) (g : Nat) : List Nat :=
  (List.range (min 8 (s.graphByte g 3))).map fun k => u8 s.fusBody (s.refEntry (s.graphHalf g 0x1C + k))
/-- The graphs that reference a stream. -/
def State.graphsOf (s : State) (i : Nat) : List Nat := (List.range s.ngraph).filter fun g => (s.graphStreams g).contains i

/-- The fusion unit runs (R97, R99, R36): not in MOUNT or SAFE, not with Sense fenced. -/
def State.fusRuns (s : State) : Bool :=
  s.variant.hasFus && (s.mode == Mode.standby || s.controlRuns) && !s.fenced Region.sense &&
    s.hasSection Ty.fusion Region.sense 0

def State.stream (s : State) (i : Nat) : FusStream := s.fus.streams.get i
def State.setStream (s : State) (i : Nat) (t : FusStream) : State := { s with fus := { s.fus with streams := s.fus.streams.set i t } }
def State.graph (s : State) (g : Nat) : FusGraph := s.fus.graphs.get g
def State.setGraph (s : State) (g : Nat) (t : FusGraph) : State := { s with fus := { s.fus with graphs := s.fus.graphs.set g t } }

/-- Bytes no rule states: free words. -/
def freeBytes : Nat → State → State × List Byte
  | 0, s => (s, [])
  | n + 1, s =>
    let (s, w) := s.free
    let (s, bs) := freeBytes n s
    (s, leBytes 4 w.toNat ++ bs)

/-! ### Rings (R406, R408) -/

/-- The address of the record with an RSEQ: rings follow the first 1 MB of the fusion area in stream order. -/
def State.ringAddr (s : State) (i rseq : Nat) : Nat :=
  Addr.align + u32 s.senseStruct 0 + 0x100000 + 64 * ((List.range i).foldl (fun n k => n + s.streamDepth k) 0) +
    64 * (rseq % s.streamDepth i)

/-- A record (10, "Sample record"). -/
def sampleRecord (stream nval qual rseq stime arrival atime : Nat) (vals vars : List Byte) : List Byte :=
  leBytes 1 stream ++ leBytes 1 nval ++ leBytes 2 qual ++ leBytes 4 rseq ++ leBytes 8 stime ++ leBytes 8 (stampWord arrival) ++
    leBytes 8 (stampWord atime) ++ slice vals 0 16 ++ slice vars 0 16

/-! ### Drift (R409 to R413) -/

def Fus.dropped : Nat := 30
def Fus.unaligned : Nat := 29
def Fus.healthy : Nat := 28
def Fus.seasoning : Nat := 27

/-- A frame for a stream: the shortest frame period of the graphs that reference it; 0 before any is known. -/
def State.streamFrame (s : State) (i : Nat) : Nat :=
  (s.graphsOf i).foldl (fun t g => let p := (s.graph g).period; if p = 0 then t else if t = 0 then p else min t p) 0

/-- Frames since the stream's last sample. -/
def State.streamAge (s : State) (i : Nat) : Nat :=
  if s.streamFrame i = 0 then 0 else (s.chip.ran - (s.stream i).last) / (s.streamFrame i * 2 ^ 32)

/-- R409. -/
def State.modelHealthy (s : State) (i : Nat) : Bool :=
  let t := s.stream i
  !t.pairs.isEmpty && (fitDrift t.pairs).resid.le (D.ofNat (s.num Reg.fusDriftTol)) && decide (s.streamAge i ≤ 4)

/-- α of the model at its newest pair, in ns. -/
def driftAt (pairs : List (Int × Int)) : Int := match pairs with
  | [] => 0
  | (_, a) :: _ => a + Fp.toInt (fitDrift pairs).alpha

/-- D of a stream, in ns. -/
def driftOf (pairs : List (Int × Int)) : Int := match pairs with
  | [] => 0
  | (x, _) :: _ => driftAt pairs - x

/-- R410, R411: whether the stream is now UNALIGNED. -/
def State.streamUnaligned (s : State) (i : Nat) : Bool :=
  if s.streamTiming i = 0 then
    s.streamFrame i != 0 && !(s.stream i).pairs.isEmpty && decide (s.streamFrame i < (driftOf (s.stream i).pairs).natAbs)
  else if s.streamTiming i = 1 then !s.modelHealthy i
  else false

def State.streamFlag (s : State) (i b : Nat) : Bool := s.flag (Reg.fusSstate i) b

/-- SSTATE shows HEALTHY, SEASONING, PAIRS, AGE and UNALIGNED; a stream that becomes UNALIGNED raises source 325. -/
def State.showStream (s : State) (i : Nat) : State :=
  let r := Reg.fusSstate i
  let t := s.stream i
  let u := s.streamUnaligned i
  let rise := u && !s.flag r Fus.unaligned
  let s := ((s.setFlag r Fus.unaligned u).setFlag r Fus.healthy (s.modelHealthy i)).setFlag r Fus.seasoning (decide (t.pairs.length < 8))
  let s := (s.setFld r 23 16 (min 255 t.taken)).setFld r 15 0 (min 65535 (s.streamAge i))
  let s := s.setNum (Reg.fusSdrift i) (unsigned 32 (sat32 (driftOf t.pairs)))
  let s := s.setNum (Reg.fusSresid i) (clampInt 0 0xFFFFFFFF (Fp.toInt (fitDrift t.pairs).resid)).toNat
  if rise then s.raise 325 else s

/-- The drift model of a stream is cleared. -/
def State.clearModel (s : State) (i : Nat) : State :=
  (s.setStream i { s.stream i with pairs := [], taken := 0 }).showStream i

/-- The stream's samples are excluded (R410, R411). -/
def State.streamExcluded (s : State) (i : Nat) : Bool := s.streamFlag i Fus.unaligned && !s.modelHealthy i

/-- A device-time step: drift models restart, and no replay revises a frame issued before (10, "Coincidences"; R429). -/
def State.fusTimeStep (s : State) : State :=
  let s := (List.range s.nstream).foldl State.clearModel s
  (List.range s.ngraph).foldl (fun s g =>
    (s.setGraph g { s.graph g with issued := [], replay := none }).setFlag (Reg.fusGstate g) 25 false) s

/-! ### Intake (R406 to R412, R427, R428) -/

/-- A late sample of a graph: it marks the frame a replay starts from, or is dropped and counted. -/
def State.lateSample (s : State) (i g atime : Nat) : State :=
  let t := s.graph g
  let h := s.fld (Reg.fusWait g) 19 16
  match (t.issued.take h).find? fun e => decide (e.frame.prev < atime) && decide (atime ≤ e.frame.tov) with
  | some e =>
    if e.rev < 255 ∧ s.tracker g = false then
      (s.setGraph g { t with replay := some (match t.replay with | some r => min r e.frame.tov | none => e.frame.tov) }).setFlag
        (Reg.fusGstate g) 25 true
    else ((s.bump Reg.fusLateDrop 31 0 1).bump (Reg.fusScount i) 31 16 1).raise 326
  | none => ((s.bump Reg.fusLateDrop 31 0 1).bump (Reg.fusScount i) 31 16 1).raise 326

/-- An overwritten record was still wanted: some graph has not used it, and its horizon has not passed: its frame is to come, or within the horizon of
issued ones (R408). -/
def State.sampleLost (s : State) (i : Nat) (x : FusSample) : Bool :=
  (s.graphsOf i).any fun g =>
    !bit x.used g &&
      match (s.graph g).done with
      | none => true
      | some d => decide (d < x.atime) || ((s.graph g).issued.take (s.fld (Reg.fusWait g) 19 16)).any fun e => decide (e.frame.prev < x.atime)

/-- A sample enters its stream's ring: it feeds the drift model, gets its aligned time, overwrites the oldest record of a full ring,
and is late for the graphs that have issued its frame. -/
def State.takeSample (s : State) (i arrival stime nval qual : Nat) (vals vars : List Byte) : State :=
  let t := s.stream i
  let nominal : Int := (stime * 1000000000 / max 1 (s.streamWord i 8) : Nat)
  let a : Int := (arrival : Int) - s.streamWord i 0xC
  let timed := s.streamTiming i != 2
  let pairs := if timed then ((nominal, a) :: t.pairs).take 32 else t.pairs
  let t := { t with pairs := pairs, taken := if timed then t.taken + 1 else t.taken, stime := some stime, last := s.chip.ran }
  let s := (s.setStream i t).setFlag (Reg.fusSstate i) Fus.dropped false
  let s := (s.showStream i).roll (Reg.fusScount i) 15 0 1
  let unaligned := s.streamFlag i Fus.unaligned
  let byModel := s.streamTiming i == 1 || (s.streamTiming i == 0 && unaligned)
  let excluded := s.streamExcluded i
  let at_ : Int := if !timed then a else if byModel && !excluded then driftAt pairs else nominal
  let at_ := at_.toNat
  let rseq := t.next % 2 ^ 32
  let x : FusSample := { rseq := rseq, arrival := arrival, atime := at_, excluded := excluded,
                         seasoning := byModel && decide (pairs.length < 8), used := 0 }
  let s := s.dmaWrite (engineWho Init.fusion) (s.ringAddr i rseq) (sampleRecord i nval qual rseq stime arrival at_ vals vars)
  let full := decide (s.streamDepth i ≤ t.samples.length)
  let s := match full, t.samples with
    | true, old :: _ => if s.sampleLost i old then (s.bump Reg.fusOverflow 31 0 1).raise 327 else s
    | _, _ => s
  let s := s.setStream i { t with samples := (if full then t.samples.drop 1 else t.samples) ++ [x], next := (rseq + 1) % 2 ^ 32 }
  if excluded then s
  else (s.graphsOf i).foldl (fun s g => match (s.graph g).done with
    | some d => if at_ ≤ d then s.lateSample i g at_ else s
    | none => s) s

/-- A 4-byte sensor time is unwrapped against the stream's previous one. -/
def unwrapTime (prev : Option Nat) (t : Nat) : Nat := match prev with
  | none => t
  | some p => ((p : Int) + signed 32 (t + 2 ^ 32 - p % 2 ^ 32)).toNat

/-- The sensor time and the values of a payload (10, "Samples and streams"). -/
def State.payloadTime (s : State) (i : Nat) (b : List Byte) : Nat :=
  if s.streamByte i 0x12 = 0xFF then 0
  else if s.streamByte i 0x13 = 8 then u64 b (s.streamByte i 0x12)
  else unwrapTime (s.stream i).stime (u32 b (s.streamByte i 0x12))
def State.payloadValues (s : State) (i : Nat) (b : List Byte) : List Byte :=
  let o := s.streamByte i 0x14
  let scale := f32.decode (s.streamWord i 0x18)
  (List.range (min 4 (s.streamByte i 2))).flatMap fun k =>
    match s.streamByte i 0x15 with
    | 0 => slice b (o + 4 * k) 4
    | 1 => leBytes 4 (f32.encode (Fp.mul f32 .near (Fp.ofInt f64 (i16 b (o + 2 * k))) scale))
    | _ => leBytes 4 (f32.encode (Fp.mul f32 .near (Fp.ofInt f64 (i32 b (o + 4 * k))) scale))

/-- The bytes of a payload that a stream reads: up to the end of its time and of its values. -/
def State.payloadNeed (s : State) (i : Nat) : Nat :=
  let time := if s.streamByte i 0x12 = 0xFF then 0 else s.streamByte i 0x12 + s.streamByte i 0x13
  max time (s.streamByte i 0x14 + (if s.streamByte i 0x15 = 1 then 2 else 4) * min 4 (s.streamByte i 2))

/-- A frame, datagram or packet is offered: each stream of the kind whose MATCH it meets takes a sample (R406). What a short payload lacks of the
bytes a stream reads is free (log entry 150). -/
def State.fusOffer (s : State) (kind key arrival : Nat) (payload : List Byte) : State :=
  if !s.fusRuns then s
  else
    ((List.range s.nstream).filter fun i => s.streamKind i == kind && s.streamWord i 4 == key).foldl (fun s i =>
      let (s, more) := freeBytes ((s.payloadNeed i - payload.length + 3) / 4) s
      let payload := payload ++ more
      s.takeSample i arrival (s.payloadTime i payload) (s.streamByte i 2) 0 (s.payloadValues i payload) []) s

/-- Some stream takes it. -/
def State.fusTakes (s : State) (kind key : Nat) : Bool :=
  s.fusRuns && (List.range s.nstream).any fun i => s.streamKind i == kind && s.streamWord i 4 == key
def State.fusCan (s : State) (controller id arrival : Nat) (data : List Byte) : State :=
  s.fusOffer Kind.can (controller % 4 * 2 ^ 30 + id % 2 ^ 30) arrival data
def State.fusEth (s : State) (port udp arrival : Nat) (data : List Byte) : State :=
  s.fusOffer Kind.eth (udp % 65536 + port % 2 * 65536) arrival data
def State.fusMilio (s : State) (port vc arrival : Nat) (payload : List Byte) : State :=
  s.fusOffer Kind.milio (vc % 8 + port % 2 * 8 + u16 payload 0 * 16) arrival payload

/-- A metrology quantity at the end of its interval: STIME is the interval end in ns. -/
def State.fusMet (s : State) (quantity interval qual : Nat) (vals : List Byte) : State :=
  if !s.fusRuns then s
  else
    ((List.range s.nstream).filter fun i => s.streamKind i == Kind.met && s.streamWord i 4 == quantity).foldl (fun s i =>
      s.takeSample i interval interval (s.streamByte i 2) qual (slice vals 0 (4 * min 4 (s.streamByte i 2))) []) s

/-- R424, R45: a graph has no state and nothing waits for it; a stream's ring and model are cleared. -/
def State.clearGraph (s : State) (g : Nat) : State :=
  let r := Reg.fusGstate g
  (s.setGraph g default).setReg r (BitVec.ofNat 32 (2 ^ 30 + ofBool (s.flag r 29) * 2 ^ 29))
def State.clearStream (s : State) (i : Nat) : State :=
  (s.setStream i { (default : FusStream) with next := (s.stream i).next, last := s.chip.ran }).showStream i
def State.clearFusion (s : State) : State :=
  (List.range 64).foldl (fun s k => let s := if k < s.ngraph then s.clearGraph k else s; if k < s.nstream then s.clearStream k else s) s

end Sys2Proof.Machine
end

