-- ==== Sys2Proof/Machine/RegTable.lean ====
section
/-! DEFINITION. The register table: for every register of the register tables of 00 to 19 its place, what kind of access it
takes, the bits a write changes, and the rule that says who may write it. -/
namespace Sys2Proof.Machine

/-- How a register takes a write (00, "Access types"). -/
inductive RegKind where
  | readOnly
  | writeOnly
  | masked
  deriving DecidableEq, Repr

/-- Who may write a register; a name of a rule of its own stands for that rule. -/
inductive Perm where
  /-- Every initiator. -/
  | any
  /-- Secure-world initiators. -/
  | secure
  /-- Application cores and secure-world initiators. -/
  | app
  /-- Application cores, the host and secure-world initiators. -/
  | host
  /-- The Warden in the secure world. -/
  | warden
  /-- R102. -/
  | safeRequest
  /-- The Warden (R532). -/
  | wardenOnly
  /-- No initiator (R487). -/
  | never
  /-- R111. -/
  | pmu
  /-- R94. -/
  | reset
  /-- R128. -/
  | blankCommand
  /-- R189. -/
  | comparator
  /-- R189. -/
  | hostAdvance
  /-- R372, R373. -/
  | programMode
  /-- R440. -/
  | gate
  /-- R533. -/
  | latchCommand
  /-- R556. -/
  | axisTarget
  /-- R605. -/
  | milRing
  /-- R632. -/
  | mailboxSend
  /-- R634. -/
  | doorbell
  /-- R678, R686. -/
  | inject
  deriving DecidableEq, Repr

/-- One row: the first offset, up to three counts and strides, the kind of access, the masks of the RW, RWL, W1C and W1S bits,
who may write, the LOCK bit that governs RWL fields (its register's distance from the window and its bit), and whether
the register is kept per initiator. -/
structure RegRow where
  base : Nat
  n0 : Nat
  s0 : Nat
  n1 : Nat
  s1 : Nat
  n2 : Nat
  s2 : Nat
  kind : RegKind
  rw : Nat
  rwl : Nat
  w1c : Nat
  w1s : Nat
  perm : Perm
  lock : Option (Nat × Nat)
  perInitiator : Bool
  deriving DecidableEq, Repr


/-- The registers of SYS. -/
def regRowsSys : List RegRow := [
  ⟨0x0, 1, 0x0, 1, 0x0, 1, 0x0, .readOnly, 0x0, 0x0, 0x0, 0x0, .any, none, false⟩ /- SYS.ID -/,
  ⟨0x4, 1, 0x0, 1, 0x0, 1, 0x0, .readOnly, 0x0, 0x0, 0x0, 0x0, .any, none, false⟩ /- SYS.UNITS -/,
  ⟨0x8, 1, 0x0, 1, 0x0, 1, 0x0, .readOnly, 0x0, 0x0, 0x0, 0x0, .any, none, false⟩ /- SYS.COUNTS -/,
  ⟨0xC, 1, 0x0, 1, 0x0, 1, 0x0, .readOnly, 0x0, 0x0, 0x0, 0x0, .any, none, false⟩ /- SYS.COUNTS2 -/,
  ⟨0x10, 1, 0x0, 1, 0x0, 1, 0x0, .readOnly, 0x0, 0x0, 0x0, 0x0, .any, none, false⟩ /- SYS.PAIRS -/,
  ⟨0x14, 1, 0x0, 1, 0x0, 1, 0x0, .readOnly, 0x0, 0x0, 0x0, 0x0, .any, none, false⟩ /- SYS.FENCE -/,
  ⟨0x18, 1, 0x0, 1, 0x0, 1, 0x0, .writeOnly, 0x0, 0x0, 0x0, 0x0, .warden, none, false⟩ /- SYS.UNFENCE -/,
  ⟨0x1C, 1, 0x0, 1, 0x0, 1, 0x0, .masked, 0x1FFFF, 0x0, 0x0, 0x0, .any, none, false⟩ /- SYS.SCRUB -/,
  ⟨0x20, 1, 0x0, 1, 0x0, 1, 0x0, .readOnly, 0x0, 0x0, 0x0, 0x0, .any, none, false⟩ /- SYS.SCRUB_STAT -/,
  ⟨0x24, 1, 0x0, 1, 0x0, 1, 0x0, .readOnly, 0x0, 0x0, 0x0, 0x0, .any, none, false⟩ /- SYS.MEMSIZE -/,
  ⟨0x40, 1, 0x0, 1, 0x0, 1, 0x0, .readOnly, 0x0, 0x0, 0x0, 0x0, .any, none, false⟩ /- SYS.MODE -/,
  ⟨0x44, 1, 0x0, 1, 0x0, 1, 0x0, .masked, 0x0, 0x0, 0xFF, 0x0, .any, none, false⟩ /- SYS.RSTCAUSE -/,
  ⟨0x48, 1, 0x0, 1, 0x0, 1, 0x0, .writeOnly, 0x0, 0x0, 0x0, 0x0, .reset, none, false⟩ /- SYS.RESET -/,
  ⟨0x4C, 1, 0x0, 1, 0x0, 1, 0x0, .writeOnly, 0x0, 0x0, 0x0, 0x0, .safeRequest, none, false⟩ /- SYS.SAFE_REQ -/,
  ⟨0x50, 1, 0x0, 1, 0x0, 1, 0x0, .readOnly, 0x0, 0x0, 0x0, 0x0, .any, none, false⟩ /- SYS.BOOT -/]

/-- The registers of DDR. -/
def regRowsDdr : List RegRow := [
  ⟨0x320000, 1, 0x0, 1, 0x0, 1, 0x0, .readOnly, 0x0, 0x0, 0x0, 0x0, .any, none, false⟩ /- DDR.STATUS -/,
  ⟨0x320004, 1, 0x0, 1, 0x0, 1, 0x0, .masked, 0x0, 0x0, 0x0, 0x1, .secure, none, false⟩ /- DDR.CTRL -/,
  ⟨0x320008, 1, 0x0, 1, 0x0, 1, 0x0, .readOnly, 0x0, 0x0, 0x0, 0x0, .any, none, false⟩ /- DDR.TRAIN -/,
  ⟨0x32000C, 1, 0x0, 1, 0x0, 1, 0x0, .readOnly, 0x0, 0x0, 0x0, 0x0, .any, none, false⟩ /- DDR.CE -/,
  ⟨0x320010, 1, 0x0, 1, 0x0, 1, 0x0, .readOnly, 0x0, 0x0, 0x0, 0x0, .any, none, false⟩ /- DDR.UE -/,
  ⟨0x320014, 1, 0x0, 1, 0x0, 1, 0x0, .readOnly, 0x0, 0x0, 0x0, 0x0, .any, none, false⟩ /- DDR.ERRADDR_LO -/,
  ⟨0x320018, 1, 0x0, 1, 0x0, 1, 0x0, .readOnly, 0x0, 0x0, 0x0, 0x0, .any, none, false⟩ /- DDR.ERRADDR_HI -/,
  ⟨0x32001C, 1, 0x0, 1, 0x0, 1, 0x0, .masked, 0x0, 0xFFFF, 0x0, 0x0, .secure, (some (0x4, 0)), false⟩ /- DDR.CE_THRESH -/,
  ⟨0x320020, 1, 0x0, 1, 0x0, 1, 0x0, .readOnly, 0x0, 0x0, 0x0, 0x0, .any, none, false⟩ /- DDR.REFRESH -/,
  ⟨0x320024, 1, 0x0, 1, 0x0, 1, 0x0, .writeOnly, 0x0, 0x0, 0x0, 0x0, .secure, none, false⟩ /- DDR.CLEAR -/]

/-- The registers of PMU. -/
def regRowsPmu : List RegRow := [
  ⟨0x10000, 1, 0x0, 1, 0x0, 1, 0x0, .masked, 0x0, 0x0, 0x0, 0x1, .pmu, none, false⟩ /- PMU.CTRL -/,
  ⟨0x10004, 1, 0x0, 1, 0x0, 1, 0x0, .readOnly, 0x0, 0x0, 0x0, 0x0, .pmu, none, false⟩ /- PMU.VCORE -/,
  ⟨0x10008, 1, 0x0, 1, 0x0, 1, 0x0, .readOnly, 0x0, 0x0, 0x0, 0x0, .pmu, none, false⟩ /- PMU.ICORE -/,
  ⟨0x1000C, 1, 0x0, 1, 0x0, 1, 0x0, .readOnly, 0x0, 0x0, 0x0, 0x0, .pmu, none, false⟩ /- PMU.RAILS -/,
  ⟨0x10010, 1, 0x0, 1, 0x0, 1, 0x0, .masked, 0x0, 0x1, 0x0, 0x0, .pmu, (some (0x0, 0)), false⟩ /- PMU.PFI -/,
  ⟨0x10014, 1, 0x0, 1, 0x0, 1, 0x0, .masked, 0x0, 0x1, 0x0, 0x0, .pmu, (some (0x0, 0)), false⟩ /- PMU.BATCTL -/,
  ⟨0x10018, 1, 0x0, 1, 0x0, 1, 0x0, .readOnly, 0x0, 0x0, 0x0, 0x0, .pmu, none, false⟩ /- PMU.BATSTAT -/,
  ⟨0x1001C, 1, 0x0, 1, 0x0, 1, 0x0, .masked, 0x0, 0x1F, 0x0, 0x0, .pmu, (some (0x0, 0)), false⟩ /- PMU.PHASES -/]

/-- The registers of BLK. -/
def regRowsBlk : List RegRow := [
  ⟨0x20000, 1, 0x0, 1, 0x0, 1, 0x0, .readOnly, 0x0, 0x0, 0x0, 0x0, .any, none, false⟩ /- BLK.STATUS -/,
  ⟨0x20004, 1, 0x0, 1, 0x0, 1, 0x0, .readOnly, 0x0, 0x0, 0x0, 0x0, .any, none, false⟩ /- BLK.GEN -/,
  ⟨0x20008, 1, 0x0, 1, 0x0, 1, 0x0, .readOnly, 0x0, 0x0, 0x0, 0x0, .any, none, false⟩ /- BLK.RGEN0 -/,
  ⟨0x2000C, 1, 0x0, 1, 0x0, 1, 0x0, .readOnly, 0x0, 0x0, 0x0, 0x0, .any, none, false⟩ /- BLK.RGEN1 -/,
  ⟨0x20010, 1, 0x0, 1, 0x0, 1, 0x0, .readOnly, 0x0, 0x0, 0x0, 0x0, .any, none, false⟩ /- BLK.RGEN2 -/,
  ⟨0x20014, 1, 0x0, 1, 0x0, 1, 0x0, .readOnly, 0x0, 0x0, 0x0, 0x0, .any, none, false⟩ /- BLK.RGEN3 -/,
  ⟨0x20018, 1, 0x0, 1, 0x0, 1, 0x0, .readOnly, 0x0, 0x0, 0x0, 0x0, .any, none, false⟩ /- BLK.LOADERR -/,
  ⟨0x2001C, 1, 0x0, 1, 0x0, 1, 0x0, .readOnly, 0x0, 0x0, 0x0, 0x0, .any, none, false⟩ /- BLK.LOADOFF -/,
  ⟨0x20020, 1, 0x0, 1, 0x0, 1, 0x0, .writeOnly, 0x0, 0x0, 0x0, 0x0, .any, none, false⟩ /- BLK.SUBMIT -/,
  ⟨0x20024, 1, 0x0, 1, 0x0, 1, 0x0, .masked, 0x0, 0xFFFF, 0x0, 0x0, .warden, (some (0x28, 0)), false⟩ /- BLK.QTIMEOUT -/,
  ⟨0x20028, 1, 0x0, 1, 0x0, 1, 0x0, .masked, 0x0, 0x0, 0x0, 0x1, .warden, none, false⟩ /- BLK.CTRL -/,
  ⟨0x20030, 1, 0x0, 1, 0x0, 1, 0x0, .writeOnly, 0x0, 0x0, 0x0, 0x0, .blankCommand, none, false⟩ /- BLK.CMD -/,
  ⟨0x20034, 1, 0x0, 1, 0x0, 1, 0x0, .masked, 0xFFFFFFFF, 0x0, 0x0, 0x0, .any, none, false⟩ /- BLK.SRC_LO -/,
  ⟨0x20038, 1, 0x0, 1, 0x0, 1, 0x0, .masked, 0xFF, 0x0, 0x0, 0x0, .any, none, false⟩ /- BLK.SRC_HI -/,
  ⟨0x2003C, 1, 0x0, 1, 0x0, 1, 0x0, .masked, 0xFFFFFFFF, 0x0, 0x0, 0x0, .any, none, false⟩ /- BLK.SRC_LEN -/,
  ⟨0x20040, 1, 0x0, 1, 0x0, 1, 0x0, .readOnly, 0x0, 0x0, 0x0, 0x0, .any, none, false⟩ /- BLK.CMDSTAT -/,
  ⟨0x20044, 1, 0x0, 1, 0x0, 1, 0x0, .readOnly, 0x0, 0x0, 0x0, 0x0, .any, none, false⟩ /- BLK.CKPT_DISCARD -/,
  ⟨0x20050, 4, 0x4, 1, 0x0, 1, 0x0, .readOnly, 0x0, 0x0, 0x0, 0x0, .any, none, false⟩ /- BLK.REQINIT -/,
  ⟨0x20080, 16, 0x4, 1, 0x0, 1, 0x0, .readOnly, 0x0, 0x0, 0x0, 0x0, .any, none, false⟩ /- BLK.DIGEST -/]

/-- The registers of SPN. -/
def regRowsSpn : List RegRow := [
  ⟨0xA0000, 8, 0x40, 1, 0x0, 1, 0x0, .readOnly, 0x0, 0x0, 0x0, 0x0, .any, none, false⟩ /- SPN.CFG -/,
  ⟨0xA0004, 8, 0x40, 1, 0x0, 1, 0x0, .readOnly, 0x0, 0x0, 0x0, 0x0, .any, none, false⟩ /- SPN.STATE -/,
  ⟨0xA0008, 8, 0x40, 1, 0x0, 1, 0x0, .readOnly, 0x0, 0x0, 0x0, 0x0, .any, none, false⟩ /- SPN.ANGLE -/,
  ⟨0xA000C, 8, 0x40, 1, 0x0, 1, 0x0, .readOnly, 0x0, 0x0, 0x0, 0x0, .any, none, false⟩ /- SPN.REV -/,
  ⟨0xA0010, 8, 0x40, 1, 0x0, 1, 0x0, .readOnly, 0x0, 0x0, 0x0, 0x0, .any, none, false⟩ /- SPN.TRAV_LO -/,
  ⟨0xA0014, 8, 0x40, 1, 0x0, 1, 0x0, .readOnly, 0x0, 0x0, 0x0, 0x0, .any, none, false⟩ /- SPN.TRAV_HI -/,
  ⟨0xA0018, 8, 0x40, 1, 0x0, 1, 0x0, .readOnly, 0x0, 0x0, 0x0, 0x0, .any, none, false⟩ /- SPN.RATE -/,
  ⟨0xA001C, 8, 0x40, 1, 0x0, 1, 0x0, .readOnly, 0x0, 0x0, 0x0, 0x0, .any, none, false⟩ /- SPN.STALLS -/,
  ⟨0xA0020, 8, 0x40, 1, 0x0, 1, 0x0, .writeOnly, 0x0, 0x0, 0x0, 0x0, .hostAdvance, none, false⟩ /- SPN.HOSTADV -/,
  ⟨0xA0200, 8, 0x8, 1, 0x0, 1, 0x0, .masked, 0x0, 0x0, 0xFFFFFFFF, 0x0, .any, none, false⟩ /- SPN.PEND_LO -/,
  ⟨0xA0204, 8, 0x8, 1, 0x0, 1, 0x0, .masked, 0x0, 0x0, 0xFFFFFFFF, 0x0, .any, none, false⟩ /- SPN.PEND_HI -/,
  ⟨0xA1000, 8, 0x200, 64, 0x8, 1, 0x0, .masked, 0xFFFFFFFF, 0x0, 0x0, 0x0, .comparator, none, false⟩ /- SPN.CMP_ANGLE -/,
  ⟨0xA1004, 8, 0x200, 64, 0x8, 1, 0x0, .masked, 0xBCFFFFFF, 0x0, 0x0, 0x0, .comparator, none, false⟩ /- SPN.CMP_CTL -/]

/-- The registers of TIM. -/
def regRowsTim : List RegRow := [
  ⟨0x90000, 1, 0x0, 1, 0x0, 1, 0x0, .masked, 0x0, 0x1, 0x0, 0x2, .secure, (some (0x0, 1)), false⟩ /- TIM.CTRL -/,
  ⟨0x90004, 1, 0x0, 1, 0x0, 1, 0x0, .readOnly, 0x0, 0x0, 0x0, 0x0, .secure, none, false⟩ /- TIM.STATUS -/,
  ⟨0x90008, 1, 0x0, 1, 0x0, 1, 0x0, .readOnly, 0x0, 0x0, 0x0, 0x0, .secure, none, false⟩ /- TIM.NOW_NS -/,
  ⟨0x9000C, 1, 0x0, 1, 0x0, 1, 0x0, .readOnly, 0x0, 0x0, 0x0, 0x0, .secure, none, false⟩ /- TIM.NOW_SLO -/,
  ⟨0x90010, 1, 0x0, 1, 0x0, 1, 0x0, .readOnly, 0x0, 0x0, 0x0, 0x0, .secure, none, false⟩ /- TIM.NOW_SHI -/,
  ⟨0x90014, 1, 0x0, 1, 0x0, 1, 0x0, .masked, 0xFFFFFFFF, 0x0, 0x0, 0x0, .secure, none, false⟩ /- TIM.INCR_FRAC -/,
  ⟨0x90018, 1, 0x0, 1, 0x0, 1, 0x0, .masked, 0xFF, 0x0, 0x0, 0x0, .secure, none, false⟩ /- TIM.INCR_INT -/,
  ⟨0x9001C, 1, 0x0, 1, 0x0, 1, 0x0, .masked, 0xFFFFFFFF, 0x0, 0x0, 0x0, .secure, none, false⟩ /- TIM.STEP_SEC -/,
  ⟨0x90020, 1, 0x0, 1, 0x0, 1, 0x0, .masked, 0xFFFFFFFF, 0x0, 0x0, 0x0, .secure, none, false⟩ /- TIM.STEP_NS -/,
  ⟨0x90024, 1, 0x0, 1, 0x0, 1, 0x0, .writeOnly, 0x0, 0x0, 0x0, 0x0, .secure, none, false⟩ /- TIM.STEP_GO -/,
  ⟨0x90028, 1, 0x0, 1, 0x0, 1, 0x0, .readOnly, 0x0, 0x0, 0x0, 0x0, .secure, none, false⟩ /- TIM.OFFSET -/,
  ⟨0x9002C, 1, 0x0, 1, 0x0, 1, 0x0, .readOnly, 0x0, 0x0, 0x0, 0x0, .secure, none, false⟩ /- TIM.HOLD_S -/,
  ⟨0x90030, 1, 0x0, 1, 0x0, 1, 0x0, .masked, 0x0, 0xFFFFFFFF, 0x0, 0x0, .secure, (some (0x0, 1)), false⟩ /- TIM.JUMP_LIMIT -/,
  ⟨0x90034, 1, 0x0, 1, 0x0, 1, 0x0, .masked, 0x0, 0xFFFFFFFF, 0x0, 0x0, .secure, (some (0x0, 1)), false⟩ /- TIM.JUMP_CONFIRM -/,
  ⟨0x90038, 1, 0x0, 1, 0x0, 1, 0x0, .writeOnly, 0x0, 0x0, 0x0, 0x0, .secure, none, false⟩ /- TIM.ACCEPT_JUMP -/,
  ⟨0x9003C, 1, 0x0, 1, 0x0, 1, 0x0, .readOnly, 0x0, 0x0, 0x0, 0x0, .secure, none, false⟩ /- TIM.CAND_SEC -/,
  ⟨0x90040, 1, 0x0, 1, 0x0, 1, 0x0, .readOnly, 0x0, 0x0, 0x0, 0x0, .secure, none, false⟩ /- TIM.CAND_NS -/,
  ⟨0x90044, 1, 0x0, 1, 0x0, 1, 0x0, .masked, 0x0, 0xFFFFFFFF, 0x0, 0x0, .secure, (some (0x0, 1)), false⟩ /- TIM.LOCK_THRESH -/,
  ⟨0x90048, 1, 0x0, 1, 0x0, 1, 0x0, .masked, 0xFFFF, 0x0, 0x0, 0x0, .secure, none, false⟩ /- TIM.UTC_OFFSET -/,
  ⟨0x9004C, 1, 0x0, 1, 0x0, 1, 0x0, .masked, 0x0, 0xF0F, 0x0, 0x0, .secure, (some (0x0, 1)), false⟩ /- TIM.SERVO -/,
  ⟨0x90050, 1, 0x0, 1, 0x0, 1, 0x0, .readOnly, 0x0, 0x0, 0x0, 0x0, .secure, none, false⟩ /- TIM.STEPS -/,
  ⟨0x90100, 6, 0x10, 1, 0x0, 1, 0x0, .readOnly, 0x0, 0x0, 0x0, 0x0, .secure, none, false⟩ /- TIM.PORT_STATE -/,
  ⟨0x90104, 6, 0x10, 1, 0x0, 1, 0x0, .masked, 0xFFFFFFFF, 0x0, 0x0, 0x0, .secure, none, false⟩ /- TIM.ASYM -/,
  ⟨0x90108, 6, 0x10, 1, 0x0, 1, 0x0, .readOnly, 0x0, 0x0, 0x0, 0x0, .secure, none, false⟩ /- TIM.PDELAY -/]

/-- The registers of RTC. -/
def regRowsRtc : List RegRow := [
  ⟨0x80000, 1, 0x0, 1, 0x0, 1, 0x0, .masked, 0x0, 0x0, 0x0, 0x1, .secure, none, false⟩ /- RTC.CTRL -/,
  ⟨0x80004, 1, 0x0, 1, 0x0, 1, 0x0, .readOnly, 0x0, 0x0, 0x0, 0x0, .secure, none, false⟩ /- RTC.STATUS -/,
  ⟨0x80010, 1, 0x0, 1, 0x0, 1, 0x0, .readOnly, 0x0, 0x0, 0x0, 0x0, .secure, none, false⟩ /- RTC.SUBSEC -/,
  ⟨0x80014, 1, 0x0, 1, 0x0, 1, 0x0, .readOnly, 0x0, 0x0, 0x0, 0x0, .secure, none, false⟩ /- RTC.SEC -/,
  ⟨0x80018, 1, 0x0, 1, 0x0, 1, 0x0, .readOnly, 0x0, 0x0, 0x0, 0x0, .secure, none, false⟩ /- RTC.MIN -/,
  ⟨0x8001C, 1, 0x0, 1, 0x0, 1, 0x0, .readOnly, 0x0, 0x0, 0x0, 0x0, .secure, none, false⟩ /- RTC.HOUR -/,
  ⟨0x80020, 1, 0x0, 1, 0x0, 1, 0x0, .readOnly, 0x0, 0x0, 0x0, 0x0, .secure, none, false⟩ /- RTC.WDAY -/,
  ⟨0x80024, 1, 0x0, 1, 0x0, 1, 0x0, .readOnly, 0x0, 0x0, 0x0, 0x0, .secure, none, false⟩ /- RTC.DAY -/,
  ⟨0x80028, 1, 0x0, 1, 0x0, 1, 0x0, .readOnly, 0x0, 0x0, 0x0, 0x0, .secure, none, false⟩ /- RTC.MONTH -/,
  ⟨0x8002C, 1, 0x0, 1, 0x0, 1, 0x0, .readOnly, 0x0, 0x0, 0x0, 0x0, .secure, none, false⟩ /- RTC.YEAR -/,
  ⟨0x80040, 1, 0x0, 1, 0x0, 1, 0x0, .readOnly, 0x0, 0x0, 0x0, 0x0, .secure, none, false⟩ /- RTC.FRAC -/,
  ⟨0x80044, 1, 0x0, 1, 0x0, 1, 0x0, .readOnly, 0x0, 0x0, 0x0, 0x0, .secure, none, false⟩ /- RTC.SEC_LO -/,
  ⟨0x80048, 1, 0x0, 1, 0x0, 1, 0x0, .readOnly, 0x0, 0x0, 0x0, 0x0, .secure, none, false⟩ /- RTC.SEC_HI -/,
  ⟨0x80060, 1, 0x0, 1, 0x0, 1, 0x0, .masked, 0xFF3F7F7F, 0x0, 0x0, 0x0, .secure, none, false⟩ /- RTC.SET_TIME -/,
  ⟨0x80064, 1, 0x0, 1, 0x0, 1, 0x0, .masked, 0xFFFF1F3F, 0x0, 0x0, 0x0, .secure, none, false⟩ /- RTC.SET_DATE -/,
  ⟨0x80068, 1, 0x0, 1, 0x0, 1, 0x0, .masked, 0xFFFFFFFF, 0x0, 0x0, 0x0, .secure, none, false⟩ /- RTC.SET_BIN_LO -/,
  ⟨0x8006C, 1, 0x0, 1, 0x0, 1, 0x0, .masked, 0xFFFF, 0x0, 0x0, 0x0, .secure, none, false⟩ /- RTC.SET_BIN_HI -/,
  ⟨0x80070, 1, 0x0, 1, 0x0, 1, 0x0, .writeOnly, 0x0, 0x0, 0x0, 0x0, .secure, none, false⟩ /- RTC.COMMIT -/,
  ⟨0x80074, 1, 0x0, 1, 0x0, 1, 0x0, .masked, 0x0, 0x7FF, 0x0, 0x0, .secure, (some (0x0, 0)), false⟩ /- RTC.TRIM -/,
  ⟨0x80078, 1, 0x0, 1, 0x0, 1, 0x0, .masked, 0x0, 0xFFFFFFFF, 0x0, 0x0, .secure, (some (0x0, 0)), false⟩ /- RTC.MEAS_CTRL -/,
  ⟨0x8007C, 1, 0x0, 1, 0x0, 1, 0x0, .readOnly, 0x0, 0x0, 0x0, 0x0, .secure, none, false⟩ /- RTC.MEAS_RESULT -/,
  ⟨0x80080, 1, 0x0, 1, 0x0, 1, 0x0, .readOnly, 0x0, 0x0, 0x0, 0x0, .secure, none, false⟩ /- RTC.MEAS_CYC_LO -/,
  ⟨0x80084, 1, 0x0, 1, 0x0, 1, 0x0, .readOnly, 0x0, 0x0, 0x0, 0x0, .secure, none, false⟩ /- RTC.MEAS_CYC_HI -/]

/-- The registers of WRD. -/
def regRowsWrd : List RegRow := [
  ⟨0xB0000, 1, 0x0, 1, 0x0, 1, 0x0, .readOnly, 0x0, 0x0, 0x0, 0x0, .any, none, false⟩ /- WRD.STATUS -/,
  ⟨0xB0004, 1, 0x0, 1, 0x0, 1, 0x0, .readOnly, 0x0, 0x0, 0x0, 0x0, .any, none, false⟩ /- WRD.PERIODS -/,
  ⟨0xB0008, 1, 0x0, 1, 0x0, 1, 0x0, .readOnly, 0x0, 0x0, 0x0, 0x0, .any, none, false⟩ /- WRD.LATE -/,
  ⟨0xB000C, 1, 0x0, 1, 0x0, 1, 0x0, .readOnly, 0x0, 0x0, 0x0, 0x0, .any, none, false⟩ /- WRD.LASTLEN -/,
  ⟨0xB0010, 1, 0x0, 1, 0x0, 1, 0x0, .readOnly, 0x0, 0x0, 0x0, 0x0, .any, none, false⟩ /- WRD.EXH_MAP_LO -/,
  ⟨0xB0014, 1, 0x0, 1, 0x0, 1, 0x0, .readOnly, 0x0, 0x0, 0x0, 0x0, .any, none, false⟩ /- WRD.EXH_MAP_HI -/,
  ⟨0xB0018, 1, 0x0, 1, 0x0, 1, 0x0, .masked, 0xFFFFFFFF, 0x0, 0x0, 0x0, .secure, none, false⟩ /- WRD.IE_LO -/,
  ⟨0xB001C, 1, 0x0, 1, 0x0, 1, 0x0, .masked, 0xFFFFFFFF, 0x0, 0x0, 0x0, .secure, none, false⟩ /- WRD.IE_HI -/,
  ⟨0xB0020, 1, 0x0, 1, 0x0, 1, 0x0, .writeOnly, 0x0, 0x0, 0x0, 0x0, .secure, none, false⟩ /- WRD.CLEAR -/,
  ⟨0xB0100, 64, 0x10, 1, 0x0, 1, 0x0, .readOnly, 0x0, 0x0, 0x0, 0x0, .any, none, false⟩ /- WRD.HCFG -/,
  ⟨0xB0104, 64, 0x10, 1, 0x0, 1, 0x0, .readOnly, 0x0, 0x0, 0x0, 0x0, .any, none, false⟩ /- WRD.HEXH_CR -/,
  ⟨0xB0108, 64, 0x10, 1, 0x0, 1, 0x0, .readOnly, 0x0, 0x0, 0x0, 0x0, .any, none, false⟩ /- WRD.HEXH_BC -/,
  ⟨0xB010C, 64, 0x10, 1, 0x0, 1, 0x0, .readOnly, 0x0, 0x0, 0x0, 0x0, .any, none, false⟩ /- WRD.HBORROW -/]

/-- The registers of ADP. -/
def regRowsAdp : List RegRow := [
  ⟨0xC0000, 1, 0x0, 1, 0x0, 1, 0x0, .readOnly, 0x0, 0x0, 0x0, 0x0, .any, none, false⟩ /- ADP.ENABLE -/,
  ⟨0xC0004, 1, 0x0, 1, 0x0, 1, 0x0, .masked, 0x1F, 0x0, 0x0, 0x0, .secure, none, false⟩ /- ADP.FREEZE -/,
  ⟨0xC0008, 1, 0x0, 1, 0x0, 1, 0x0, .readOnly, 0x0, 0x0, 0x0, 0x0, .any, none, false⟩ /- ADP.STATUS -/,
  ⟨0xC000C, 1, 0x0, 1, 0x0, 1, 0x0, .readOnly, 0x0, 0x0, 0x0, 0x0, .any, none, false⟩ /- ADP.TEMP -/,
  ⟨0xC0010, 5, 0x4, 1, 0x0, 1, 0x0, .readOnly, 0x0, 0x0, 0x0, 0x0, .any, none, false⟩ /- ADP.AVS -/,
  ⟨0xC0030, 1, 0x0, 1, 0x0, 1, 0x0, .readOnly, 0x0, 0x0, 0x0, 0x0, .any, none, false⟩ /- ADP.DFS0 -/,
  ⟨0xC0034, 1, 0x0, 1, 0x0, 1, 0x0, .readOnly, 0x0, 0x0, 0x0, 0x0, .any, none, false⟩ /- ADP.DFS1 -/,
  ⟨0xC0040, 4, 0x8, 1, 0x0, 1, 0x0, .readOnly, 0x0, 0x0, 0x0, 0x0, .any, none, false⟩ /- ADP.EQ_LO -/,
  ⟨0xC0044, 4, 0x8, 1, 0x0, 1, 0x0, .readOnly, 0x0, 0x0, 0x0, 0x0, .any, none, false⟩ /- ADP.EQ_HI -/,
  ⟨0xC0060, 1, 0x0, 1, 0x0, 1, 0x0, .readOnly, 0x0, 0x0, 0x0, 0x0, .any, none, false⟩ /- ADP.PLACE -/,
  ⟨0xC0064, 1, 0x0, 1, 0x0, 1, 0x0, .writeOnly, 0x0, 0x0, 0x0, 0x0, .secure, none, false⟩ /- ADP.STORE -/,
  ⟨0xC0068, 1, 0x0, 1, 0x0, 1, 0x0, .readOnly, 0x0, 0x0, 0x0, 0x0, .any, none, false⟩ /- ADP.LASTGOOD -/]

/-- The registers of LTH. -/
def regRowsLth : List RegRow := [
  ⟨0x100000, 4, 0x10000, 1, 0x0, 1, 0x0, .readOnly, 0x0, 0x0, 0x0, 0x0, .any, none, false⟩ /- LTH.STATUS -/,
  ⟨0x100004, 4, 0x10000, 1, 0x0, 1, 0x0, .masked, 0x1, 0x0, 0x0, 0x0, .secure, none, false⟩ /- LTH.QCTRL -/,
  ⟨0x100008, 4, 0x10000, 1, 0x0, 1, 0x0, .writeOnly, 0x0, 0x0, 0x0, 0x0, .any, none, false⟩ /- LTH.SUBMIT -/,
  ⟨0x10000C, 4, 0x10000, 1, 0x0, 1, 0x0, .readOnly, 0x0, 0x0, 0x0, 0x0, .any, none, false⟩ /- LTH.TICKET -/,
  ⟨0x100010, 4, 0x10000, 1, 0x0, 1, 0x0, .writeOnly, 0x0, 0x0, 0x0, 0x0, .any, none, false⟩ /- LTH.CANCEL -/,
  ⟨0x100014, 4, 0x10000, 1, 0x0, 1, 0x0, .masked, 0x7F, 0x0, 0x0, 0x0, .secure, none, false⟩ /- LTH.WARM -/,
  ⟨0x100018, 4, 0x10000, 1, 0x0, 1, 0x0, .readOnly, 0x0, 0x0, 0x0, 0x0, .any, none, false⟩ /- LTH.QDEPTH -/,
  ⟨0x10001C, 4, 0x10000, 1, 0x0, 1, 0x0, .masked, 0x7FF, 0x0, 0x0, 0x0, .secure, none, false⟩ /- LTH.QWATER -/,
  ⟨0x100020, 4, 0x10000, 1, 0x0, 1, 0x0, .readOnly, 0x0, 0x0, 0x0, 0x0, .any, none, false⟩ /- LTH.RUN_LO -/,
  ⟨0x100024, 4, 0x10000, 1, 0x0, 1, 0x0, .readOnly, 0x0, 0x0, 0x0, 0x0, .any, none, false⟩ /- LTH.RUN_HI -/,
  ⟨0x100028, 4, 0x10000, 1, 0x0, 1, 0x0, .readOnly, 0x0, 0x0, 0x0, 0x0, .any, none, false⟩ /- LTH.OUT_LO -/,
  ⟨0x10002C, 4, 0x10000, 1, 0x0, 1, 0x0, .readOnly, 0x0, 0x0, 0x0, 0x0, .any, none, false⟩ /- LTH.OUT_HI -/,
  ⟨0x100030, 4, 0x10000, 8, 0x4, 1, 0x0, .readOnly, 0x0, 0x0, 0x0, 0x0, .any, none, false⟩ /- LTH.CELLFAIL -/,
  ⟨0x100050, 4, 0x10000, 1, 0x0, 1, 0x0, .readOnly, 0x0, 0x0, 0x0, 0x0, .any, none, false⟩ /- LTH.N_OK -/,
  ⟨0x100054, 4, 0x10000, 1, 0x0, 1, 0x0, .readOnly, 0x0, 0x0, 0x0, 0x0, .any, none, false⟩ /- LTH.N_NC -/,
  ⟨0x100058, 4, 0x10000, 1, 0x0, 1, 0x0, .readOnly, 0x0, 0x0, 0x0, 0x0, .any, none, false⟩ /- LTH.N_MISS -/,
  ⟨0x10005C, 4, 0x10000, 1, 0x0, 1, 0x0, .readOnly, 0x0, 0x0, 0x0, 0x0, .any, none, false⟩ /- LTH.N_PRED -/,
  ⟨0x100060, 4, 0x10000, 1, 0x0, 1, 0x0, .readOnly, 0x0, 0x0, 0x0, 0x0, .any, none, false⟩ /- LTH.N_ERR -/,
  ⟨0x100064, 4, 0x10000, 1, 0x0, 1, 0x0, .writeOnly, 0x0, 0x0, 0x0, 0x0, .secure, none, false⟩ /- LTH.CLEAR -/,
  ⟨0x100100, 4, 0x10000, 64, 0x4, 1, 0x0, .readOnly, 0x0, 0x0, 0x0, 0x0, .any, none, false⟩ /- LTH.CHUCK -/,
  ⟨0x100200, 4, 0x10000, 10, 0x4, 1, 0x0, .readOnly, 0x0, 0x0, 0x0, 0x0, .any, none, false⟩ /- LTH.RATE -/]

/-- The registers of FED. -/
def regRowsFed : List RegRow := [
  ⟨0x140000, 1, 0x0, 1, 0x0, 1, 0x0, .readOnly, 0x0, 0x0, 0x0, 0x0, .any, none, false⟩ /- FED.STATUS -/,
  ⟨0x140004, 1, 0x0, 1, 0x0, 1, 0x0, .masked, 0x1, 0x0, 0x0, 0x2, .secure, none, false⟩ /- FED.CTRL -/,
  ⟨0x140008, 1, 0x0, 1, 0x0, 1, 0x0, .masked, 0x0, 0xF, 0x0, 0x0, .secure, (some (0x4, 1)), false⟩ /- FED.STALE_ROUNDS -/,
  ⟨0x14000C, 1, 0x0, 1, 0x0, 1, 0x0, .masked, 0x0, 0x3FF, 0x0, 0x0, .secure, (some (0x4, 1)), false⟩ /- FED.BUDGET -/,
  ⟨0x140010, 1, 0x0, 1, 0x0, 1, 0x0, .readOnly, 0x0, 0x0, 0x0, 0x0, .any, none, false⟩ /- FED.ROUND -/,
  ⟨0x140014, 1, 0x0, 1, 0x0, 1, 0x0, .readOnly, 0x0, 0x0, 0x0, 0x0, .any, none, false⟩ /- FED.PLAN -/,
  ⟨0x140018, 1, 0x0, 1, 0x0, 1, 0x0, .readOnly, 0x0, 0x0, 0x0, 0x0, .any, none, false⟩ /- FED.CLAIM_HI -/,
  ⟨0x14001C, 1, 0x0, 1, 0x0, 1, 0x0, .masked, 0x1, 0x0, 0x0, 0x0, .app, none, false⟩ /- FED.MCTL -/,
  ⟨0x140020, 1, 0x0, 1, 0x0, 1, 0x0, .readOnly, 0x0, 0x0, 0x0, 0x0, .any, none, false⟩ /- FED.MSTATUS -/,
  ⟨0x140024, 1, 0x0, 1, 0x0, 1, 0x0, .readOnly, 0x0, 0x0, 0x0, 0x0, .any, none, false⟩ /- FED.RESID_P -/,
  ⟨0x140028, 1, 0x0, 1, 0x0, 1, 0x0, .readOnly, 0x0, 0x0, 0x0, 0x0, .any, none, false⟩ /- FED.RESID_D -/,
  ⟨0x14002C, 1, 0x0, 1, 0x0, 1, 0x0, .readOnly, 0x0, 0x0, 0x0, 0x0, .any, none, false⟩ /- FED.RHO -/,
  ⟨0x140030, 1, 0x0, 1, 0x0, 1, 0x0, .readOnly, 0x0, 0x0, 0x0, 0x0, .any, none, false⟩ /- FED.COUNT0 -/,
  ⟨0x140034, 1, 0x0, 1, 0x0, 1, 0x0, .readOnly, 0x0, 0x0, 0x0, 0x0, .any, none, false⟩ /- FED.COUNT1 -/,
  ⟨0x140040, 1, 0x0, 1, 0x0, 1, 0x0, .readOnly, 0x0, 0x0, 0x0, 0x0, .any, none, false⟩ /- FED.DROP_CLAIM -/,
  ⟨0x140044, 1, 0x0, 1, 0x0, 1, 0x0, .readOnly, 0x0, 0x0, 0x0, 0x0, .any, none, false⟩ /- FED.DROP_GEN -/,
  ⟨0x140048, 1, 0x0, 1, 0x0, 1, 0x0, .readOnly, 0x0, 0x0, 0x0, 0x0, .any, none, false⟩ /- FED.DROP_LATE -/,
  ⟨0x14004C, 1, 0x0, 1, 0x0, 1, 0x0, .readOnly, 0x0, 0x0, 0x0, 0x0, .any, none, false⟩ /- FED.MISSED -/,
  ⟨0x140050, 1, 0x0, 1, 0x0, 1, 0x0, .writeOnly, 0x0, 0x0, 0x0, 0x0, .secure, none, false⟩ /- FED.CLEAR -/,
  ⟨0x141000, 1024, 0x4, 1, 0x0, 1, 0x0, .readOnly, 0x0, 0x0, 0x0, 0x0, .any, none, false⟩ /- FED.CHILD -/]

/-- The registers of TSK. -/
def regRowsTsk : List RegRow := [
  ⟨0x180000, 1, 0x0, 1, 0x0, 1, 0x0, .readOnly, 0x0, 0x0, 0x0, 0x0, .any, none, false⟩ /- TSK.STATUS -/,
  ⟨0x180008, 1, 0x0, 1, 0x0, 1, 0x0, .writeOnly, 0x0, 0x0, 0x0, 0x0, .any, none, false⟩ /- TSK.DONE -/,
  ⟨0x18000C, 1, 0x0, 1, 0x0, 1, 0x0, .writeOnly, 0x0, 0x0, 0x0, 0x0, .app, none, false⟩ /- TSK.TRIGGER -/,
  ⟨0x180010, 1, 0x0, 1, 0x0, 1, 0x0, .readOnly, 0x0, 0x0, 0x0, 0x0, .any, none, false⟩ /- TSK.SELF -/,
  ⟨0x180020, 16, 0x4, 1, 0x0, 1, 0x0, .masked, 0x0, 0x0, 0x0, 0x0, .programMode, none, false⟩ /- TSK.PMODE -/,
  ⟨0x180060, 4, 0x4, 1, 0x0, 1, 0x0, .masked, 0x0, 0x0, 0xFFFFFFFF, 0x0, .secure, none, false⟩ /- TSK.OVR_MAP -/,
  ⟨0x180070, 1, 0x0, 1, 0x0, 1, 0x0, .writeOnly, 0x0, 0x0, 0x0, 0x0, .secure, none, false⟩ /- TSK.CLEAR -/,
  ⟨0x181000, 128, 0x20, 1, 0x0, 1, 0x0, .readOnly, 0x0, 0x0, 0x0, 0x0, .any, none, false⟩ /- TSK.TCFG -/,
  ⟨0x181004, 128, 0x20, 1, 0x0, 1, 0x0, .readOnly, 0x0, 0x0, 0x0, 0x0, .any, none, false⟩ /- TSK.TSTATE -/,
  ⟨0x181008, 128, 0x20, 1, 0x0, 1, 0x0, .readOnly, 0x0, 0x0, 0x0, 0x0, .any, none, false⟩ /- TSK.RELEASES -/,
  ⟨0x18100C, 128, 0x20, 1, 0x0, 1, 0x0, .readOnly, 0x0, 0x0, 0x0, 0x0, .any, none, false⟩ /- TSK.OVERRUNS -/,
  ⟨0x181010, 128, 0x20, 1, 0x0, 1, 0x0, .readOnly, 0x0, 0x0, 0x0, 0x0, .any, none, false⟩ /- TSK.LAST_START -/,
  ⟨0x181014, 128, 0x20, 1, 0x0, 1, 0x0, .readOnly, 0x0, 0x0, 0x0, 0x0, .any, none, false⟩ /- TSK.MAX_START -/,
  ⟨0x181018, 128, 0x20, 1, 0x0, 1, 0x0, .readOnly, 0x0, 0x0, 0x0, 0x0, .any, none, false⟩ /- TSK.MAX_EXEC -/,
  ⟨0x18101C, 128, 0x20, 1, 0x0, 1, 0x0, .readOnly, 0x0, 0x0, 0x0, 0x0, .any, none, false⟩ /- TSK.SKIPS -/]

/-- The registers of CLE. -/
def regRowsCle : List RegRow := [
  ⟨0x190000, 1, 0x0, 1, 0x0, 1, 0x0, .readOnly, 0x0, 0x0, 0x0, 0x0, .any, none, false⟩ /- CLE.STATUS -/,
  ⟨0x190004, 1, 0x0, 1, 0x0, 1, 0x0, .masked, 0x0, 0x0, 0x0, 0x1, .secure, none, false⟩ /- CLE.CTRL -/,
  ⟨0x190008, 1, 0x0, 1, 0x0, 1, 0x0, .readOnly, 0x0, 0x0, 0x0, 0x0, .any, none, false⟩ /- CLE.SWEEPS -/,
  ⟨0x19000C, 1, 0x0, 1, 0x0, 1, 0x0, .readOnly, 0x0, 0x0, 0x0, 0x0, .any, none, false⟩ /- CLE.MISSES -/,
  ⟨0x190010, 1, 0x0, 1, 0x0, 1, 0x0, .readOnly, 0x0, 0x0, 0x0, 0x0, .any, none, false⟩ /- CLE.LOAD -/,
  ⟨0x190014, 1, 0x0, 1, 0x0, 1, 0x0, .writeOnly, 0x0, 0x0, 0x0, 0x0, .secure, none, false⟩ /- CLE.CLEAR -/,
  ⟨0x190020, 8, 0x4, 1, 0x0, 1, 0x0, .masked, 0x0, 0x0, 0xFFFFFFFF, 0x0, .secure, none, false⟩ /- CLE.MISS_MAP -/,
  ⟨0x190040, 8, 0x4, 1, 0x0, 1, 0x0, .masked, 0x0, 0xFFFFFFFF, 0x0, 0x0, .app, (some (0x4, 0)), false⟩ /- CLE.LEN -/,
  ⟨0x190100, 1, 0x0, 1, 0x0, 1, 0x0, .masked, 0xFF07, 0x0, 0x0, 0x0, .app, none, true⟩ /- CLE.TSEL -/,
  ⟨0x190104, 5, 0x4, 1, 0x0, 1, 0x0, .masked, 0xFFFFFFFF, 0x0, 0x0, 0x0, .app, none, true⟩ /- CLE.TK -/,
  ⟨0x190118, 1, 0x0, 1, 0x0, 1, 0x0, .masked, 0x3F3F3F3F, 0x0, 0x0, 0x0, .app, none, true⟩ /- CLE.TSH0 -/,
  ⟨0x19011C, 1, 0x0, 1, 0x0, 1, 0x0, .masked, 0x3F, 0x0, 0x0, 0x0, .app, none, true⟩ /- CLE.TSH1 -/,
  ⟨0x190120, 1, 0x0, 1, 0x0, 1, 0x0, .masked, 0xFFFFFFFF, 0x0, 0x0, 0x0, .app, none, true⟩ /- CLE.TLO -/,
  ⟨0x190124, 1, 0x0, 1, 0x0, 1, 0x0, .masked, 0xFFFFFFFF, 0x0, 0x0, 0x0, .app, none, true⟩ /- CLE.THI -/,
  ⟨0x190128, 1, 0x0, 1, 0x0, 1, 0x0, .writeOnly, 0x0, 0x0, 0x0, 0x0, .app, none, false⟩ /- CLE.TGO -/,
  ⟨0x19012C, 1, 0x0, 1, 0x0, 1, 0x0, .readOnly, 0x0, 0x0, 0x0, 0x0, .any, none, false⟩ /- CLE.TSTAT -/,
  ⟨0x190200, 32, 0x4, 1, 0x0, 1, 0x0, .readOnly, 0x0, 0x0, 0x0, 0x0, .any, none, false⟩ /- CLE.GRP -/,
  ⟨0x198000, 256, 0x40, 1, 0x0, 1, 0x0, .readOnly, 0x0, 0x0, 0x0, 0x0, .any, none, false⟩ /- CLE.LSTATE -/,
  ⟨0x198004, 256, 0x40, 1, 0x0, 1, 0x0, .readOnly, 0x0, 0x0, 0x0, 0x0, .any, none, false⟩ /- CLE.LMISS -/,
  ⟨0x198008, 256, 0x40, 1, 0x0, 1, 0x0, .readOnly, 0x0, 0x0, 0x0, 0x0, .any, none, false⟩ /- CLE.LOUT0 -/,
  ⟨0x19800C, 256, 0x40, 1, 0x0, 1, 0x0, .readOnly, 0x0, 0x0, 0x0, 0x0, .any, none, false⟩ /- CLE.LOUT1 -/,
  ⟨0x198010, 256, 0x40, 4, 0x4, 1, 0x0, .masked, 0xFFFFFFFF, 0x0, 0x0, 0x0, .app, none, false⟩ /- CLE.LP -/,
  ⟨0x198020, 256, 0x40, 1, 0x0, 1, 0x0, .readOnly, 0x0, 0x0, 0x0, 0x0, .any, none, false⟩ /- CLE.LEXEC -/]

/-- The registers of FUS. -/
def regRowsFus : List RegRow := [
  ⟨0x200000, 1, 0x0, 1, 0x0, 1, 0x0, .readOnly, 0x0, 0x0, 0x0, 0x0, .any, none, false⟩ /- FUS.STATUS -/,
  ⟨0x200004, 1, 0x0, 1, 0x0, 1, 0x0, .masked, 0x0, 0x0, 0x0, 0x1, .secure, none, false⟩ /- FUS.CTRL -/,
  ⟨0x200008, 1, 0x0, 1, 0x0, 1, 0x0, .readOnly, 0x0, 0x0, 0x0, 0x0, .any, none, false⟩ /- FUS.DRIFT_TOL -/,
  ⟨0x20000C, 1, 0x0, 1, 0x0, 1, 0x0, .readOnly, 0x0, 0x0, 0x0, 0x0, .any, none, false⟩ /- FUS.DROPOUT -/,
  ⟨0x200010, 1, 0x0, 1, 0x0, 1, 0x0, .writeOnly, 0x0, 0x0, 0x0, 0x0, .any, none, false⟩ /- FUS.PUSH -/,
  ⟨0x200014, 1, 0x0, 1, 0x0, 1, 0x0, .readOnly, 0x0, 0x0, 0x0, 0x0, .any, none, false⟩ /- FUS.PUSHSTAT -/,
  ⟨0x200018, 1, 0x0, 1, 0x0, 1, 0x0, .readOnly, 0x0, 0x0, 0x0, 0x0, .any, none, false⟩ /- FUS.LATE_DROP -/,
  ⟨0x20001C, 1, 0x0, 1, 0x0, 1, 0x0, .readOnly, 0x0, 0x0, 0x0, 0x0, .any, none, false⟩ /- FUS.OVERFLOW -/,
  ⟨0x200020, 1, 0x0, 1, 0x0, 1, 0x0, .writeOnly, 0x0, 0x0, 0x0, 0x0, .secure, none, false⟩ /- FUS.CLEAR -/,
  ⟨0x200030, 4, 0x4, 1, 0x0, 1, 0x0, .readOnly, 0x0, 0x0, 0x0, 0x0, .any, none, false⟩ /- FUS.RVWR -/,
  ⟨0x200100, 64, 0x10, 1, 0x0, 1, 0x0, .readOnly, 0x0, 0x0, 0x0, 0x0, .any, none, false⟩ /- FUS.GCFG -/,
  ⟨0x200104, 64, 0x10, 1, 0x0, 1, 0x0, .readOnly, 0x0, 0x0, 0x0, 0x0, .any, none, false⟩ /- FUS.GSTATE -/,
  ⟨0x200108, 64, 0x10, 1, 0x0, 1, 0x0, .masked, 0x0, 0xFFFFFFFF, 0x0, 0x0, .gate, (some (0x4, 0)), false⟩ /- FUS.GATE -/,
  ⟨0x20010C, 64, 0x10, 1, 0x0, 1, 0x0, .masked, 0x0, 0xFFFFFFFF, 0x0, 0x0, .gate, (some (0x4, 0)), false⟩ /- FUS.WAIT -/,
  ⟨0x200800, 64, 0x10, 1, 0x0, 1, 0x0, .readOnly, 0x0, 0x0, 0x0, 0x0, .any, none, false⟩ /- FUS.SSTATE -/,
  ⟨0x200804, 64, 0x10, 1, 0x0, 1, 0x0, .readOnly, 0x0, 0x0, 0x0, 0x0, .any, none, false⟩ /- FUS.SDRIFT -/,
  ⟨0x200808, 64, 0x10, 1, 0x0, 1, 0x0, .readOnly, 0x0, 0x0, 0x0, 0x0, .any, none, false⟩ /- FUS.SRESID -/,
  ⟨0x20080C, 64, 0x10, 1, 0x0, 1, 0x0, .readOnly, 0x0, 0x0, 0x0, 0x0, .any, none, false⟩ /- FUS.SCOUNT -/]

/-- The registers of MET. -/
def regRowsMet : List RegRow := [
  ⟨0x210000, 1, 0x0, 1, 0x0, 1, 0x0, .readOnly, 0x0, 0x0, 0x0, 0x0, .any, none, false⟩ /- MET.STATUS -/,
  ⟨0x210004, 1, 0x0, 1, 0x0, 1, 0x0, .masked, 0x0, 0x0, 0x0, 0x1, .secure, none, false⟩ /- MET.CTRL -/,
  ⟨0x210008, 1, 0x0, 1, 0x0, 1, 0x0, .masked, 0x0, 0xFFFFFFFF, 0x0, 0x0, .secure, (some (0x4, 0)), false⟩ /- MET.INTERVAL -/,
  ⟨0x21000C, 1, 0x0, 1, 0x0, 1, 0x0, .masked, 0x0, 0xFFFFFFFF, 0x0, 0x0, .secure, (some (0x4, 0)), false⟩ /- MET.SAVE_PERIOD -/,
  ⟨0x210010, 1, 0x0, 1, 0x0, 1, 0x0, .readOnly, 0x0, 0x0, 0x0, 0x0, .any, none, false⟩ /- MET.JOURNAL -/,
  ⟨0x210014, 1, 0x0, 1, 0x0, 1, 0x0, .readOnly, 0x0, 0x0, 0x0, 0x0, .any, none, false⟩ /- MET.RESTORE -/,
  ⟨0x210018, 1, 0x0, 1, 0x0, 1, 0x0, .readOnly, 0x0, 0x0, 0x0, 0x0, .any, none, false⟩ /- MET.LOST_LO -/,
  ⟨0x21001C, 1, 0x0, 1, 0x0, 1, 0x0, .readOnly, 0x0, 0x0, 0x0, 0x0, .any, none, false⟩ /- MET.LOST_HI -/,
  ⟨0x210020, 1, 0x0, 1, 0x0, 1, 0x0, .writeOnly, 0x0, 0x0, 0x0, 0x0, .secure, none, false⟩ /- MET.SAVE -/,
  ⟨0x210024, 1, 0x0, 1, 0x0, 1, 0x0, .writeOnly, 0x0, 0x0, 0x0, 0x0, .secure, none, false⟩ /- MET.CLEAR -/,
  ⟨0x210028, 1, 0x0, 1, 0x0, 1, 0x0, .readOnly, 0x0, 0x0, 0x0, 0x0, .any, none, false⟩ /- MET.GAPS -/,
  ⟨0x21002C, 1, 0x0, 1, 0x0, 1, 0x0, .readOnly, 0x0, 0x0, 0x0, 0x0, .any, none, false⟩ /- MET.WAVEPOS -/,
  ⟨0x210040, 4, 0x4, 1, 0x0, 1, 0x0, .masked, 0x0, 0xFFFFFFFF, 0x0, 0x0, .secure, (some (0x4, 0)), false⟩ /- MET.PCONST -/,
  ⟨0x210050, 4, 0x4, 1, 0x0, 1, 0x0, .readOnly, 0x0, 0x0, 0x0, 0x0, .any, none, false⟩ /- MET.PSTAT -/,
  ⟨0x210060, 1, 0x0, 1, 0x0, 1, 0x0, .readOnly, 0x0, 0x0, 0x0, 0x0, .any, none, false⟩ /- MET.TAMPER -/,
  ⟨0x210070, 4, 0x4, 1, 0x0, 1, 0x0, .readOnly, 0x0, 0x0, 0x0, 0x0, .any, none, false⟩ /- MET.PINCNT -/,
  ⟨0x210100, 8, 0x10, 1, 0x0, 1, 0x0, .readOnly, 0x0, 0x0, 0x0, 0x0, .never, none, false⟩ /- MET.CSCALE -/,
  ⟨0x210104, 8, 0x10, 1, 0x0, 1, 0x0, .readOnly, 0x0, 0x0, 0x0, 0x0, .never, none, false⟩ /- MET.COFF -/,
  ⟨0x210108, 8, 0x10, 1, 0x0, 1, 0x0, .readOnly, 0x0, 0x0, 0x0, 0x0, .never, none, false⟩ /- MET.CPHASE -/,
  ⟨0x210180, 4, 0x10, 1, 0x0, 1, 0x0, .readOnly, 0x0, 0x0, 0x0, 0x0, .never, none, false⟩ /- MET.RGAIN -/,
  ⟨0x210184, 4, 0x10, 1, 0x0, 1, 0x0, .readOnly, 0x0, 0x0, 0x0, 0x0, .never, none, false⟩ /- MET.ROFF -/,
  ⟨0x210188, 4, 0x10, 1, 0x0, 1, 0x0, .readOnly, 0x0, 0x0, 0x0, 0x0, .never, none, false⟩ /- MET.RLEAD -/,
  ⟨0x210200, 7, 0x40, 4, 0x10, 1, 0x0, .readOnly, 0x0, 0x0, 0x0, 0x0, .never, none, false⟩ /- MET.PGAIN -/,
  ⟨0x210204, 7, 0x40, 4, 0x10, 1, 0x0, .readOnly, 0x0, 0x0, 0x0, 0x0, .never, none, false⟩ /- MET.QGAIN -/,
  ⟨0x210208, 7, 0x40, 4, 0x10, 1, 0x0, .readOnly, 0x0, 0x0, 0x0, 0x0, .never, none, false⟩ /- MET.POFF -/,
  ⟨0x21020C, 7, 0x40, 4, 0x10, 1, 0x0, .readOnly, 0x0, 0x0, 0x0, 0x0, .never, none, false⟩ /- MET.MODE -/,
  ⟨0x210400, 112, 0x8, 1, 0x0, 1, 0x0, .readOnly, 0x0, 0x0, 0x0, 0x0, .any, none, false⟩ /- MET.REG_LO -/,
  ⟨0x210404, 112, 0x8, 1, 0x0, 1, 0x0, .readOnly, 0x0, 0x0, 0x0, 0x0, .any, none, false⟩ /- MET.REG_HI -/,
  ⟨0x210800, 256, 0x4, 1, 0x0, 1, 0x0, .readOnly, 0x0, 0x0, 0x0, 0x0, .any, none, false⟩ /- MET.BLK -/,
  ⟨0x211000, 64, 0x10, 1, 0x0, 1, 0x0, .readOnly, 0x0, 0x0, 0x0, 0x0, .never, none, false⟩ /- MET.XSCALE -/,
  ⟨0x211004, 64, 0x10, 1, 0x0, 1, 0x0, .readOnly, 0x0, 0x0, 0x0, 0x0, .never, none, false⟩ /- MET.XOFF -/,
  ⟨0x211008, 64, 0x10, 1, 0x0, 1, 0x0, .readOnly, 0x0, 0x0, 0x0, 0x0, .never, none, false⟩ /- MET.XPHASE -/]

/-- The registers of HNG. -/
def regRowsHng : List RegRow := [
  ⟨0x60000, 1, 0x0, 1, 0x0, 1, 0x0, .readOnly, 0x0, 0x0, 0x0, 0x0, .any, none, false⟩ /- HNG.STATUS -/,
  ⟨0x60004, 1, 0x0, 1, 0x0, 1, 0x0, .readOnly, 0x0, 0x0, 0x0, 0x0, .any, none, false⟩ /- HNG.CLAIM -/,
  ⟨0x60008, 1, 0x0, 1, 0x0, 1, 0x0, .readOnly, 0x0, 0x0, 0x0, 0x0, .any, none, false⟩ /- HNG.EPOCH -/,
  ⟨0x6000C, 1, 0x0, 1, 0x0, 1, 0x0, .writeOnly, 0x0, 0x0, 0x0, 0x0, .wardenOnly, none, false⟩ /- HNG.HEALTH -/,
  ⟨0x60010, 1, 0x0, 1, 0x0, 1, 0x0, .writeOnly, 0x0, 0x0, 0x0, 0x0, .wardenOnly, none, false⟩ /- HNG.CMD -/,
  ⟨0x60014, 1, 0x0, 1, 0x0, 1, 0x0, .readOnly, 0x0, 0x0, 0x0, 0x0, .any, none, false⟩ /- HNG.CMDSTAT -/,
  ⟨0x60018, 1, 0x0, 1, 0x0, 1, 0x0, .masked, 0x0, 0xFF, 0x0, 0x0, .secure, (some (0x24, 0)), false⟩ /- HNG.CKPT_PERIOD -/,
  ⟨0x6001C, 1, 0x0, 1, 0x0, 1, 0x0, .masked, 0x0, 0xFFFFFFFF, 0x0, 0x0, .secure, (some (0x24, 0)), false⟩ /- HNG.PROOF_INTERVAL -/,
  ⟨0x60020, 1, 0x0, 1, 0x0, 1, 0x0, .masked, 0x0, 0xFFFFFFFF, 0x0, 0x0, .secure, (some (0x24, 0)), false⟩ /- HNG.REVERT_HOLD -/,
  ⟨0x60024, 1, 0x0, 1, 0x0, 1, 0x0, .masked, 0x0, 0x0, 0x0, 0x1, .secure, none, false⟩ /- HNG.CTRL -/,
  ⟨0x60028, 1, 0x0, 1, 0x0, 1, 0x0, .readOnly, 0x0, 0x0, 0x0, 0x0, .any, none, false⟩ /- HNG.CKSEQ -/,
  ⟨0x6002C, 1, 0x0, 1, 0x0, 1, 0x0, .readOnly, 0x0, 0x0, 0x0, 0x0, .any, none, false⟩ /- HNG.CKAGE -/,
  ⟨0x60030, 1, 0x0, 1, 0x0, 1, 0x0, .readOnly, 0x0, 0x0, 0x0, 0x0, .any, none, false⟩ /- HNG.CKSIZE -/,
  ⟨0x60034, 1, 0x0, 1, 0x0, 1, 0x0, .readOnly, 0x0, 0x0, 0x0, 0x0, .any, none, false⟩ /- HNG.GAPBOUND -/,
  ⟨0x60038, 1, 0x0, 1, 0x0, 1, 0x0, .readOnly, 0x0, 0x0, 0x0, 0x0, .any, none, false⟩ /- HNG.COUNTS -/,
  ⟨0x6003C, 1, 0x0, 1, 0x0, 1, 0x0, .readOnly, 0x0, 0x0, 0x0, 0x0, .any, none, false⟩ /- HNG.PROOF -/,
  ⟨0x60040, 2, 0x10, 1, 0x0, 1, 0x0, .readOnly, 0x0, 0x0, 0x0, 0x0, .any, none, false⟩ /- HNG.PEER -/,
  ⟨0x60044, 2, 0x10, 1, 0x0, 1, 0x0, .readOnly, 0x0, 0x0, 0x0, 0x0, .any, none, false⟩ /- HNG.PCLAIM -/,
  ⟨0x60048, 2, 0x10, 1, 0x0, 1, 0x0, .readOnly, 0x0, 0x0, 0x0, 0x0, .any, none, false⟩ /- HNG.PCKSEQ -/,
  ⟨0x60060, 1, 0x0, 1, 0x0, 1, 0x0, .writeOnly, 0x0, 0x0, 0x0, 0x0, .secure, none, false⟩ /- HNG.CLEAR -/]

/-- The registers of LAT. -/
def regRowsLat : List RegRow := [
  ⟨0x70000, 1, 0x0, 1, 0x0, 1, 0x0, .readOnly, 0x0, 0x0, 0x0, 0x0, .any, none, false⟩ /- LAT.STATUS -/,
  ⟨0x70004, 1, 0x0, 1, 0x0, 1, 0x0, .masked, 0x0, 0x0, 0x0, 0x1, .secure, none, false⟩ /- LAT.CTRL -/,
  ⟨0x70008, 1, 0x0, 1, 0x0, 1, 0x0, .masked, 0x0, 0xFFFFFFFF, 0x0, 0x0, .secure, (some (0x4, 0)), false⟩ /- LAT.WINDOW -/,
  ⟨0x7000C, 1, 0x0, 1, 0x0, 1, 0x0, .readOnly, 0x0, 0x0, 0x0, 0x0, .any, none, false⟩ /- LAT.SAFE_LO -/,
  ⟨0x70010, 1, 0x0, 1, 0x0, 1, 0x0, .readOnly, 0x0, 0x0, 0x0, 0x0, .any, none, false⟩ /- LAT.SAFE_HI -/,
  ⟨0x70014, 1, 0x0, 1, 0x0, 1, 0x0, .readOnly, 0x0, 0x0, 0x0, 0x0, .any, none, false⟩ /- LAT.FOREIGN -/,
  ⟨0x70018, 1, 0x0, 1, 0x0, 1, 0x0, .readOnly, 0x0, 0x0, 0x0, 0x0, .any, none, false⟩ /- LAT.DUPS -/,
  ⟨0x7001C, 1, 0x0, 1, 0x0, 1, 0x0, .masked, 0x0, 0x0, 0x0, 0xFFFFFFFF, .secure, none, false⟩ /- LAT.ARM_LO -/,
  ⟨0x70020, 1, 0x0, 1, 0x0, 1, 0x0, .masked, 0x0, 0x0, 0x0, 0xFFFFFFFF, .secure, none, false⟩ /- LAT.ARM_HI -/,
  ⟨0x70024, 1, 0x0, 1, 0x0, 1, 0x0, .writeOnly, 0x0, 0x0, 0x0, 0x0, .secure, none, false⟩ /- LAT.CLEAR -/,
  ⟨0x70100, 64, 0x20, 1, 0x0, 1, 0x0, .readOnly, 0x0, 0x0, 0x0, 0x0, .any, none, false⟩ /- LAT.CSTATE -/,
  ⟨0x70104, 64, 0x20, 1, 0x0, 1, 0x0, .readOnly, 0x0, 0x0, 0x0, 0x0, .any, none, false⟩ /- LAT.HIGHEST -/,
  ⟨0x70108, 64, 0x20, 1, 0x0, 1, 0x0, .readOnly, 0x0, 0x0, 0x0, 0x0, .any, none, false⟩ /- LAT.VALUE -/,
  ⟨0x7010C, 64, 0x20, 1, 0x0, 1, 0x0, .masked, 0x0, 0xFF, 0x0, 0x0, .secure, (some (0x4, 0)), false⟩ /- LAT.HOLD -/,
  ⟨0x70110, 64, 0x20, 1, 0x0, 1, 0x0, .writeOnly, 0x0, 0x0, 0x0, 0x0, .latchCommand, none, false⟩ /- LAT.CMD -/,
  ⟨0x70114, 64, 0x20, 1, 0x0, 1, 0x0, .readOnly, 0x0, 0x0, 0x0, 0x0, .any, none, false⟩ /- LAT.AGE -/,
  ⟨0x70118, 64, 0x20, 1, 0x0, 1, 0x0, .readOnly, 0x0, 0x0, 0x0, 0x0, .any, none, false⟩ /- LAT.DROP -/]

/-- The registers of PRF. -/
def regRowsPrf : List RegRow := [
  ⟨0x1A0000, 1, 0x0, 1, 0x0, 1, 0x0, .readOnly, 0x0, 0x0, 0x0, 0x0, .any, none, false⟩ /- PRF.STATUS -/,
  ⟨0x1A0004, 1, 0x0, 1, 0x0, 1, 0x0, .masked, 0x0, 0x0, 0x0, 0x1, .secure, none, false⟩ /- PRF.CTRL -/,
  ⟨0x1A0008, 1, 0x0, 1, 0x0, 1, 0x0, .writeOnly, 0x0, 0x0, 0x0, 0x0, .app, none, false⟩ /- PRF.GO -/,
  ⟨0x1A000C, 1, 0x0, 1, 0x0, 1, 0x0, .writeOnly, 0x0, 0x0, 0x0, 0x0, .app, none, false⟩ /- PRF.STOP -/,
  ⟨0x1A0010, 1, 0x0, 1, 0x0, 1, 0x0, .writeOnly, 0x0, 0x0, 0x0, 0x0, .app, none, false⟩ /- PRF.HALT -/,
  ⟨0x1A0014, 1, 0x0, 1, 0x0, 1, 0x0, .masked, 0xFFFF, 0x0, 0x0, 0x0, .app, none, false⟩ /- PRF.IE -/,
  ⟨0x1A0018, 1, 0x0, 1, 0x0, 1, 0x0, .readOnly, 0x0, 0x0, 0x0, 0x0, .any, none, false⟩ /- PRF.CMDSTAT -/,
  ⟨0x1A0100, 16, 0x20, 1, 0x0, 1, 0x0, .readOnly, 0x0, 0x0, 0x0, 0x0, .any, none, false⟩ /- PRF.ACFG -/,
  ⟨0x1A0104, 16, 0x20, 1, 0x0, 1, 0x0, .readOnly, 0x0, 0x0, 0x0, 0x0, .any, none, false⟩ /- PRF.ASTATE -/,
  ⟨0x1A0108, 16, 0x20, 1, 0x0, 1, 0x0, .readOnly, 0x0, 0x0, 0x0, 0x0, .any, none, false⟩ /- PRF.POS -/,
  ⟨0x1A010C, 16, 0x20, 1, 0x0, 1, 0x0, .masked, 0xFFFFFFFF, 0x0, 0x0, 0x0, .axisTarget, none, false⟩ /- PRF.TGT -/,
  ⟨0x1A0110, 16, 0x20, 1, 0x0, 1, 0x0, .readOnly, 0x0, 0x0, 0x0, 0x0, .any, none, false⟩ /- PRF.RATE -/,
  ⟨0x1A0114, 16, 0x20, 1, 0x0, 1, 0x0, .masked, 0x0, 0xFFFF, 0x0, 0x0, .secure, (some (0x4, 0)), false⟩ /- PRF.IDLE -/,
  ⟨0x1A0118, 16, 0x20, 1, 0x0, 1, 0x0, .writeOnly, 0x0, 0x0, 0x0, 0x0, .secure, none, false⟩ /- PRF.HOME -/,
  ⟨0x1A011C, 16, 0x20, 1, 0x0, 1, 0x0, .readOnly, 0x0, 0x0, 0x0, 0x0, .any, none, false⟩ /- PRF.STEPS -/]

/-- The registers of PNL. -/
def regRowsPnl : List RegRow := [
  ⟨0x310000, 1, 0x0, 1, 0x0, 1, 0x0, .readOnly, 0x0, 0x0, 0x0, 0x0, .any, none, false⟩ /- PNL.STATUS -/,
  ⟨0x310004, 1, 0x0, 1, 0x0, 1, 0x0, .masked, 0x7, 0x0, 0x0, 0x100, .app, none, false⟩ /- PNL.CTRL -/,
  ⟨0x310008, 1, 0x0, 1, 0x0, 1, 0x0, .masked, 0xFF, 0x0, 0x0, 0x0, .app, none, false⟩ /- PNL.LIGHT -/,
  ⟨0x31000C, 1, 0x0, 1, 0x0, 1, 0x0, .masked, 0x0, 0xFFFFFFFF, 0x0, 0x0, .app, (some (0x4, 8)), false⟩ /- PNL.FB_LO -/,
  ⟨0x310010, 1, 0x0, 1, 0x0, 1, 0x0, .masked, 0x0, 0xFF, 0x0, 0x0, .app, (some (0x4, 8)), false⟩ /- PNL.FB_HI -/,
  ⟨0x310014, 1, 0x0, 1, 0x0, 1, 0x0, .masked, 0x7FF07FF, 0x0, 0x0, 0x0, .app, none, true⟩ /- PNL.UPD_XY -/,
  ⟨0x310018, 1, 0x0, 1, 0x0, 1, 0x0, .masked, 0x7FF07FF, 0x0, 0x0, 0x0, .app, none, true⟩ /- PNL.UPD_WH -/,
  ⟨0x31001C, 1, 0x0, 1, 0x0, 1, 0x0, .writeOnly, 0x0, 0x0, 0x0, 0x0, .app, none, false⟩ /- PNL.UPD_GO -/,
  ⟨0x310020, 1, 0x0, 1, 0x0, 1, 0x0, .readOnly, 0x0, 0x0, 0x0, 0x0, .any, none, false⟩ /- PNL.UPDSTAT -/,
  ⟨0x310024, 1, 0x0, 1, 0x0, 1, 0x0, .readOnly, 0x0, 0x0, 0x0, 0x0, .any, none, false⟩ /- PNL.FRAMES -/,
  ⟨0x310028, 1, 0x0, 1, 0x0, 1, 0x0, .readOnly, 0x0, 0x0, 0x0, 0x0, .any, none, false⟩ /- PNL.SKIPS -/,
  ⟨0x31002C, 1, 0x0, 1, 0x0, 1, 0x0, .readOnly, 0x0, 0x0, 0x0, 0x0, .any, none, false⟩ /- PNL.UNDERRUN -/,
  ⟨0x310100, 24, 0x10, 1, 0x0, 1, 0x0, .readOnly, 0x0, 0x0, 0x0, 0x0, .any, none, false⟩ /- PNL.RXY -/,
  ⟨0x310104, 24, 0x10, 1, 0x0, 1, 0x0, .readOnly, 0x0, 0x0, 0x0, 0x0, .any, none, false⟩ /- PNL.RWH -/,
  ⟨0x310108, 24, 0x10, 1, 0x0, 1, 0x0, .readOnly, 0x0, 0x0, 0x0, 0x0, .any, none, false⟩ /- PNL.RST -/]

/-- The registers of MIL. -/
def regRowsMil : List RegRow := [
  ⟨0x280000, 2, 0x10000, 1, 0x0, 1, 0x0, .readOnly, 0x0, 0x0, 0x0, 0x0, .any, none, false⟩ /- MIL.STATUS -/,
  ⟨0x280004, 2, 0x10000, 1, 0x0, 1, 0x0, .masked, 0x0, 0x300, 0x0, 0x1, .secure, (some (0x4, 0)), false⟩ /- MIL.CTRL -/,
  ⟨0x280008, 2, 0x10000, 1, 0x0, 1, 0x0, .readOnly, 0x0, 0x0, 0x0, 0x0, .any, none, false⟩ /- MIL.NEIGH -/,
  ⟨0x28000C, 2, 0x10000, 1, 0x0, 1, 0x0, .readOnly, 0x0, 0x0, 0x0, 0x0, .any, none, false⟩ /- MIL.CRCERR -/,
  ⟨0x280010, 2, 0x10000, 1, 0x0, 1, 0x0, .readOnly, 0x0, 0x0, 0x0, 0x0, .any, none, false⟩ /- MIL.RETRIES -/,
  ⟨0x280014, 2, 0x10000, 1, 0x0, 1, 0x0, .readOnly, 0x0, 0x0, 0x0, 0x0, .any, none, false⟩ /- MIL.RETRAINS -/,
  ⟨0x280018, 2, 0x10000, 1, 0x0, 1, 0x0, .readOnly, 0x0, 0x0, 0x0, 0x0, .any, none, false⟩ /- MIL.DROPS -/,
  ⟨0x28001C, 2, 0x10000, 1, 0x0, 1, 0x0, .writeOnly, 0x0, 0x0, 0x0, 0x0, .secure, none, false⟩ /- MIL.KEYCTL -/,
  ⟨0x280020, 2, 0x10000, 1, 0x0, 1, 0x0, .writeOnly, 0x0, 0x0, 0x0, 0x0, .secure, none, false⟩ /- MIL.CLEAR -/,
  ⟨0x280100, 2, 0x10000, 8, 0x20, 1, 0x0, .readOnly, 0x0, 0x0, 0x0, 0x0, .any, none, false⟩ /- MIL.VSTATE -/,
  ⟨0x280104, 2, 0x10000, 8, 0x20, 1, 0x0, .masked, 0xFFF, 0x0, 0x0, 0x0, .milRing, none, false⟩ /- MIL.TXTAIL -/,
  ⟨0x280108, 2, 0x10000, 8, 0x20, 1, 0x0, .readOnly, 0x0, 0x0, 0x0, 0x0, .any, none, false⟩ /- MIL.TXHEAD -/,
  ⟨0x28010C, 2, 0x10000, 8, 0x20, 1, 0x0, .masked, 0xFFF, 0x0, 0x0, 0x0, .milRing, none, false⟩ /- MIL.RXTAIL -/,
  ⟨0x280110, 2, 0x10000, 8, 0x20, 1, 0x0, .readOnly, 0x0, 0x0, 0x0, 0x0, .any, none, false⟩ /- MIL.RXHEAD -/]

/-- The registers of ETH. -/
def regRowsEth : List RegRow := [
  ⟨0x2A0000, 1, 0x0, 1, 0x0, 1, 0x0, .readOnly, 0x0, 0x0, 0x0, 0x0, .any, none, false⟩ /- ETH.STATUS -/,
  ⟨0x2A0004, 1, 0x0, 1, 0x0, 1, 0x0, .masked, 0x0, 0x0, 0x0, 0x1, .secure, none, false⟩ /- ETH.CTRL -/,
  ⟨0x2A0008, 1, 0x0, 1, 0x0, 1, 0x0, .masked, 0xFFFFFFFF, 0x0, 0x0, 0x0, .secure, none, false⟩ /- ETH.MDIO -/,
  ⟨0x2A000C, 1, 0x0, 1, 0x0, 1, 0x0, .writeOnly, 0x0, 0x0, 0x0, 0x0, .secure, none, false⟩ /- ETH.CLEAR -/,
  ⟨0x2A0100, 6, 0x40, 1, 0x0, 1, 0x0, .readOnly, 0x0, 0x0, 0x0, 0x0, .any, none, false⟩ /- ETH.PSTATE -/,
  ⟨0x2A0104, 6, 0x40, 1, 0x0, 1, 0x0, .masked, 0xFFF, 0x0, 0x0, 0x0, .host, none, false⟩ /- ETH.TXTAIL -/,
  ⟨0x2A0108, 6, 0x40, 1, 0x0, 1, 0x0, .readOnly, 0x0, 0x0, 0x0, 0x0, .any, none, false⟩ /- ETH.TXHEAD -/,
  ⟨0x2A010C, 6, 0x40, 1, 0x0, 1, 0x0, .masked, 0xFFF, 0x0, 0x0, 0x0, .host, none, false⟩ /- ETH.RXTAIL -/,
  ⟨0x2A0110, 6, 0x40, 1, 0x0, 1, 0x0, .readOnly, 0x0, 0x0, 0x0, 0x0, .any, none, false⟩ /- ETH.RXHEAD -/,
  ⟨0x2A0114, 6, 0x40, 1, 0x0, 1, 0x0, .readOnly, 0x0, 0x0, 0x0, 0x0, .any, none, false⟩ /- ETH.DROPS -/]

/-- The registers of CAN. -/
def regRowsCan : List RegRow := [
  ⟨0x2B0000, 4, 0x10000, 1, 0x0, 1, 0x0, .readOnly, 0x0, 0x0, 0x0, 0x0, .any, none, false⟩ /- CAN.STATUS -/,
  ⟨0x2B0004, 4, 0x10000, 1, 0x0, 1, 0x0, .masked, 0xF1, 0x0, 0x0, 0x100, .secure, none, false⟩ /- CAN.CTRL -/,
  ⟨0x2B0008, 4, 0x10000, 1, 0x0, 1, 0x0, .readOnly, 0x0, 0x0, 0x0, 0x0, .any, none, false⟩ /- CAN.NBT -/,
  ⟨0x2B000C, 4, 0x10000, 1, 0x0, 1, 0x0, .readOnly, 0x0, 0x0, 0x0, 0x0, .any, none, false⟩ /- CAN.DBT -/,
  ⟨0x2B0010, 4, 0x10000, 1, 0x0, 1, 0x0, .readOnly, 0x0, 0x0, 0x0, 0x0, .any, none, false⟩ /- CAN.ECR -/,
  ⟨0x2B0014, 4, 0x10000, 1, 0x0, 1, 0x0, .readOnly, 0x0, 0x0, 0x0, 0x0, .any, none, false⟩ /- CAN.TSC -/,
  ⟨0x2B0018, 4, 0x10000, 1, 0x0, 1, 0x0, .readOnly, 0x0, 0x0, 0x0, 0x0, .any, none, false⟩ /- CAN.LOST -/,
  ⟨0x2B001C, 4, 0x10000, 1, 0x0, 1, 0x0, .readOnly, 0x0, 0x0, 0x0, 0x0, .any, none, false⟩ /- CAN.HWDROP -/,
  ⟨0x2B0020, 4, 0x10000, 1, 0x0, 1, 0x0, .masked, 0x0, 0x0, 0x0, 0xFFFFFFFF, .host, none, false⟩ /- CAN.TXREQ_LO -/,
  ⟨0x2B0024, 4, 0x10000, 1, 0x0, 1, 0x0, .masked, 0x0, 0x0, 0x0, 0xFFFFFFFF, .host, none, false⟩ /- CAN.TXREQ_HI -/,
  ⟨0x2B0028, 4, 0x10000, 1, 0x0, 1, 0x0, .masked, 0x0, 0x0, 0x0, 0xFFFFFFFF, .host, none, false⟩ /- CAN.TXCAN_LO -/,
  ⟨0x2B002C, 4, 0x10000, 1, 0x0, 1, 0x0, .masked, 0x0, 0x0, 0x0, 0xFFFFFFFF, .host, none, false⟩ /- CAN.TXCAN_HI -/,
  ⟨0x2B0030, 4, 0x10000, 1, 0x0, 1, 0x0, .masked, 0x0, 0x0, 0xFFFFFFFF, 0x0, .host, none, false⟩ /- CAN.TXDONE_LO -/,
  ⟨0x2B0034, 4, 0x10000, 1, 0x0, 1, 0x0, .masked, 0x0, 0x0, 0xFFFFFFFF, 0x0, .host, none, false⟩ /- CAN.TXDONE_HI -/,
  ⟨0x2B0038, 4, 0x10000, 1, 0x0, 1, 0x0, .masked, 0x0, 0x0, 0xFFFFFFFF, 0x0, .host, none, false⟩ /- CAN.TXFAIL_LO -/,
  ⟨0x2B003C, 4, 0x10000, 1, 0x0, 1, 0x0, .masked, 0x0, 0x0, 0xFFFFFFFF, 0x0, .host, none, false⟩ /- CAN.TXFAIL_HI -/,
  ⟨0x2B0040, 4, 0x10000, 1, 0x0, 1, 0x0, .masked, 0x0, 0x0, 0xFFFFFFFF, 0x0, .host, none, false⟩ /- CAN.RXNEW_LO -/,
  ⟨0x2B0044, 4, 0x10000, 1, 0x0, 1, 0x0, .masked, 0x0, 0x0, 0xFFFFFFFF, 0x0, .host, none, false⟩ /- CAN.RXNEW_HI -/,
  ⟨0x2B0048, 4, 0x10000, 1, 0x0, 1, 0x0, .readOnly, 0x0, 0x0, 0x0, 0x0, .any, none, false⟩ /- CAN.F0STAT -/,
  ⟨0x2B004C, 4, 0x10000, 1, 0x0, 1, 0x0, .writeOnly, 0x0, 0x0, 0x0, 0x0, .host, none, false⟩ /- CAN.F0ACK -/,
  ⟨0x2B0050, 4, 0x10000, 1, 0x0, 1, 0x0, .readOnly, 0x0, 0x0, 0x0, 0x0, .any, none, false⟩ /- CAN.F1STAT -/,
  ⟨0x2B0054, 4, 0x10000, 1, 0x0, 1, 0x0, .writeOnly, 0x0, 0x0, 0x0, 0x0, .host, none, false⟩ /- CAN.F1ACK -/,
  ⟨0x2B0058, 4, 0x10000, 1, 0x0, 1, 0x0, .readOnly, 0x0, 0x0, 0x0, 0x0, .any, none, false⟩ /- CAN.HPSTAT -/,
  ⟨0x2B005C, 4, 0x10000, 1, 0x0, 1, 0x0, .writeOnly, 0x0, 0x0, 0x0, 0x0, .host, none, false⟩ /- CAN.HPREL -/]

/-- The registers of PCI. -/
def regRowsPci : List RegRow := [
  ⟨0x2F0000, 1, 0x0, 1, 0x0, 1, 0x0, .readOnly, 0x0, 0x0, 0x0, 0x0, .any, none, false⟩ /- PCI.STATUS -/,
  ⟨0x2F0004, 1, 0x0, 1, 0x0, 1, 0x0, .masked, 0x0, 0x0, 0x0, 0x1, .secure, none, false⟩ /- PCI.CTRL -/,
  ⟨0x2F0008, 1, 0x0, 1, 0x0, 1, 0x0, .masked, 0x0, 0x1FF, 0x0, 0x0, .secure, (some (0x4, 0)), false⟩ /- PCI.APBASE -/,
  ⟨0x2F000C, 1, 0x0, 1, 0x0, 1, 0x0, .readOnly, 0x0, 0x0, 0x0, 0x0, .any, none, false⟩ /- PCI.ERR -/,
  ⟨0x2F0010, 1, 0x0, 1, 0x0, 1, 0x0, .readOnly, 0x0, 0x0, 0x0, 0x0, .any, none, false⟩ /- PCI.IDS -/,
  ⟨0x2F0100, 64, 0x4, 1, 0x0, 1, 0x0, .masked, 0x1FF, 0x0, 0x0, 0x0, .secure, none, false⟩ /- PCI.VMAP -/]

/-- The registers of HSP. -/
def regRowsHsp : List RegRow := [
  ⟨0x300000, 1, 0x0, 1, 0x0, 1, 0x0, .readOnly, 0x0, 0x0, 0x0, 0x0, .any, none, false⟩ /- HSP.STATUS -/,
  ⟨0x300004, 1, 0x0, 1, 0x0, 1, 0x0, .masked, 0x0, 0x0, 0x0, 0x1, .any, none, false⟩ /- HSP.CTRL -/,
  ⟨0x300008, 1, 0x0, 1, 0x0, 1, 0x0, .readOnly, 0x0, 0x0, 0x0, 0x0, .any, none, false⟩ /- HSP.COUNTS -/,
  ⟨0x30000C, 1, 0x0, 1, 0x0, 1, 0x0, .readOnly, 0x0, 0x0, 0x0, 0x0, .any, none, false⟩ /- HSP.IRQMAP -/,
  ⟨0x300010, 1, 0x0, 1, 0x0, 1, 0x0, .readOnly, 0x0, 0x0, 0x0, 0x0, .any, none, false⟩ /- HSP.IRQMAP2 -/]

/-- The registers of MBX. -/
def regRowsMbx : List RegRow := [
  ⟨0x1B0000, 16, 0x4, 1, 0x0, 1, 0x0, .masked, 0xFFFFFFFF, 0x0, 0x0, 0x0, .any, none, true⟩ /- MBX.WDATA -/,
  ⟨0x1B0040, 1, 0x0, 1, 0x0, 1, 0x0, .writeOnly, 0x0, 0x0, 0x0, 0x0, .mailboxSend, none, false⟩ /- MBX.SEND -/,
  ⟨0x1B0044, 1, 0x0, 1, 0x0, 1, 0x0, .writeOnly, 0x0, 0x0, 0x0, 0x0, .doorbell, none, false⟩ /- MBX.RING -/,
  ⟨0x1B0050, 1, 0x0, 1, 0x0, 1, 0x0, .readOnly, 0x0, 0x0, 0x0, 0x0, .any, none, false⟩ /- MBX.FULL_LO -/,
  ⟨0x1B0054, 1, 0x0, 1, 0x0, 1, 0x0, .readOnly, 0x0, 0x0, 0x0, 0x0, .any, none, false⟩ /- MBX.FULL_HI -/,
  ⟨0x1B0058, 1, 0x0, 1, 0x0, 1, 0x0, .masked, 0x0, 0x0, 0xFFFFFFFF, 0x0, .any, none, false⟩ /- MBX.DB_LO -/,
  ⟨0x1B005C, 1, 0x0, 1, 0x0, 1, 0x0, .masked, 0x0, 0x0, 0xFFFFFFFF, 0x0, .any, none, false⟩ /- MBX.DB_HI -/,
  ⟨0x1B1000, 64, 0x80, 1, 0x0, 1, 0x0, .readOnly, 0x0, 0x0, 0x0, 0x0, .any, none, false⟩ /- MBX.HDR -/,
  ⟨0x1B1004, 64, 0x80, 16, 0x4, 1, 0x0, .readOnly, 0x0, 0x0, 0x0, 0x0, .any, none, false⟩ /- MBX.DATA -/,
  ⟨0x1B1044, 64, 0x80, 1, 0x0, 1, 0x0, .readOnly, 0x0, 0x0, 0x0, 0x0, .any, none, false⟩ /- MBX.POP -/]

/-- The registers of DBG. -/
def regRowsDbg : List RegRow := [
  ⟨0x340000, 1, 0x0, 1, 0x0, 1, 0x0, .readOnly, 0x0, 0x0, 0x0, 0x0, .any, none, false⟩ /- DBG.STATUS -/,
  ⟨0x340004, 1, 0x0, 1, 0x0, 1, 0x0, .masked, 0xFF7F, 0x0, 0x0, 0x0, .any, none, false⟩ /- DBG.DMI_ADDR -/,
  ⟨0x340008, 1, 0x0, 1, 0x0, 1, 0x0, .masked, 0xFFFFFFFF, 0x0, 0x0, 0x0, .any, none, false⟩ /- DBG.DMI_DATA -/,
  ⟨0x34000C, 1, 0x0, 1, 0x0, 1, 0x0, .masked, 0x3, 0x0, 0x0, 0x0, .any, none, false⟩ /- DBG.DMI_OP -/]

/-- The registers of KEY. -/
def regRowsKey : List RegRow := [
  ⟨0x50000, 1, 0x0, 1, 0x0, 1, 0x0, .readOnly, 0x0, 0x0, 0x0, 0x0, .any, none, false⟩ /- KEY.STATUS -/,
  ⟨0x50004, 1, 0x0, 1, 0x0, 1, 0x0, .masked, 0x0, 0x0, 0x0, 0x1, .secure, none, false⟩ /- KEY.CTRL -/,
  ⟨0x50008, 1, 0x0, 1, 0x0, 1, 0x0, .writeOnly, 0x0, 0x0, 0x0, 0x0, .any, none, false⟩ /- KEY.SUBMIT -/,
  ⟨0x5000C, 1, 0x0, 1, 0x0, 1, 0x0, .readOnly, 0x0, 0x0, 0x0, 0x0, .any, none, false⟩ /- KEY.SUBSTAT -/,
  ⟨0x50010, 1, 0x0, 1, 0x0, 1, 0x0, .readOnly, 0x0, 0x0, 0x0, 0x0, .any, none, false⟩ /- KEY.LC -/,
  ⟨0x50014, 1, 0x0, 1, 0x0, 1, 0x0, .readOnly, 0x0, 0x0, 0x0, 0x0, .any, none, false⟩ /- KEY.RECSEQ -/,
  ⟨0x50018, 1, 0x0, 1, 0x0, 1, 0x0, .readOnly, 0x0, 0x0, 0x0, 0x0, .any, none, false⟩ /- KEY.MISUSE -/,
  ⟨0x5001C, 1, 0x0, 1, 0x0, 1, 0x0, .writeOnly, 0x0, 0x0, 0x0, 0x0, .secure, none, false⟩ /- KEY.CLEAR -/,
  ⟨0x50040, 15, 0x4, 1, 0x0, 1, 0x0, .readOnly, 0x0, 0x0, 0x0, 0x0, .any, none, false⟩ /- KEY.DEVID -/,
  ⟨0x50100, 256, 0x4, 1, 0x0, 1, 0x0, .readOnly, 0x0, 0x0, 0x0, 0x0, .any, none, false⟩ /- KEY.SLOT -/]

/-- The registers of FLT. -/
def regRowsFlt : List RegRow := [
  ⟨0x30000, 1, 0x0, 1, 0x0, 1, 0x0, .readOnly, 0x0, 0x0, 0x0, 0x0, .any, none, false⟩ /- FLT.STATUS -/,
  ⟨0x30004, 1, 0x0, 1, 0x0, 1, 0x0, .masked, 0x0, 0x2, 0x0, 0x1, .secure, (some (0x4, 0)), false⟩ /- FLT.CTRL -/,
  ⟨0x30008, 1, 0x0, 1, 0x0, 1, 0x0, .readOnly, 0x0, 0x0, 0x0, 0x0, .any, none, false⟩ /- FLT.SEQ -/,
  ⟨0x3000C, 1, 0x0, 1, 0x0, 1, 0x0, .readOnly, 0x0, 0x0, 0x0, 0x0, .any, none, false⟩ /- FLT.LOGSEQ -/,
  ⟨0x30010, 1, 0x0, 1, 0x0, 1, 0x0, .readOnly, 0x0, 0x0, 0x0, 0x0, .any, none, false⟩ /- FLT.LOGSKIP -/,
  ⟨0x30014, 1, 0x0, 1, 0x0, 1, 0x0, .readOnly, 0x0, 0x0, 0x0, 0x0, .any, none, false⟩ /- FLT.CE_SRAM -/,
  ⟨0x30018, 1, 0x0, 1, 0x0, 1, 0x0, .readOnly, 0x0, 0x0, 0x0, 0x0, .any, none, false⟩ /- FLT.CE_MRAM -/,
  ⟨0x3001C, 1, 0x0, 1, 0x0, 1, 0x0, .readOnly, 0x0, 0x0, 0x0, 0x0, .any, none, false⟩ /- FLT.CE_DDR -/,
  ⟨0x30020, 1, 0x0, 1, 0x0, 1, 0x0, .readOnly, 0x0, 0x0, 0x0, 0x0, .any, none, false⟩ /- FLT.LEVELS -/,
  ⟨0x30024, 1, 0x0, 1, 0x0, 1, 0x0, .readOnly, 0x0, 0x0, 0x0, 0x0, .any, none, false⟩ /- FLT.LASTCHIP -/,
  ⟨0x30028, 1, 0x0, 1, 0x0, 1, 0x0, .writeOnly, 0x0, 0x0, 0x0, 0x0, .secure, none, false⟩ /- FLT.CLEAR -/,
  ⟨0x30100, 45, 0x4, 1, 0x0, 1, 0x0, .readOnly, 0x0, 0x0, 0x0, 0x0, .any, none, false⟩ /- FLT.DCOUNT -/]

/-- The registers of INJ. -/
def regRowsInj : List RegRow := [
  ⟨0x40000, 1, 0x0, 1, 0x0, 1, 0x0, .readOnly, 0x0, 0x0, 0x0, 0x0, .any, none, false⟩ /- INJ.STATUS -/,
  ⟨0x40004, 1, 0x0, 1, 0x0, 1, 0x0, .masked, 0xFFFF, 0x0, 0x0, 0x0, .inject, none, true⟩ /- INJ.TARGET -/,
  ⟨0x40008, 1, 0x0, 1, 0x0, 1, 0x0, .masked, 0xFFFFFFFF, 0x0, 0x0, 0x0, .inject, none, true⟩ /- INJ.LOC -/,
  ⟨0x4000C, 1, 0x0, 1, 0x0, 1, 0x0, .masked, 0xFFFFFFFF, 0x0, 0x0, 0x0, .inject, none, true⟩ /- INJ.ADDR_LO -/,
  ⟨0x40010, 1, 0x0, 1, 0x0, 1, 0x0, .masked, 0xFF, 0x0, 0x0, 0x0, .inject, none, true⟩ /- INJ.ADDR_HI -/,
  ⟨0x40014, 1, 0x0, 1, 0x0, 1, 0x0, .writeOnly, 0x0, 0x0, 0x0, 0x0, .inject, none, false⟩ /- INJ.GO -/,
  ⟨0x40018, 1, 0x0, 1, 0x0, 1, 0x0, .readOnly, 0x0, 0x0, 0x0, 0x0, .any, none, false⟩ /- INJ.RESULT -/,
  ⟨0x4001C, 1, 0x0, 1, 0x0, 1, 0x0, .readOnly, 0x0, 0x0, 0x0, 0x0, .any, none, false⟩ /- INJ.COUNT -/,
  ⟨0x40020, 1, 0x0, 1, 0x0, 1, 0x0, .writeOnly, 0x0, 0x0, 0x0, 0x0, .inject, none, false⟩ /- INJ.ABORT -/]

/-- The registers of PIN. -/
def regRowsPin : List RegRow := [
  ⟨0x330000, 1, 0x0, 1, 0x0, 1, 0x0, .readOnly, 0x0, 0x0, 0x0, 0x0, .any, none, false⟩ /- PIN.STATUS -/,
  ⟨0x330004, 1, 0x0, 1, 0x0, 1, 0x0, .masked, 0x0, 0x0, 0x0, 0x1, .secure, none, false⟩ /- PIN.CTRL -/,
  ⟨0x330010, 4, 0x4, 1, 0x0, 1, 0x0, .readOnly, 0x0, 0x0, 0x0, 0x0, .any, none, false⟩ /- PIN.IN -/,
  ⟨0x330020, 4, 0x4, 1, 0x0, 1, 0x0, .masked, 0xFFFFFFFF, 0x0, 0x0, 0x0, .app, none, false⟩ /- PIN.OUT -/,
  ⟨0x330030, 4, 0x4, 1, 0x0, 1, 0x0, .masked, 0x0, 0xFFFFFFFF, 0x0, 0x0, .secure, (some (0x4, 0)), false⟩ /- PIN.DIR -/,
  ⟨0x330040, 4, 0x4, 1, 0x0, 1, 0x0, .masked, 0xFFFFFFFF, 0x0, 0x0, 0x0, .app, none, false⟩ /- PIN.RISE -/,
  ⟨0x330050, 4, 0x4, 1, 0x0, 1, 0x0, .masked, 0xFFFFFFFF, 0x0, 0x0, 0x0, .app, none, false⟩ /- PIN.FALL -/,
  ⟨0x330060, 4, 0x4, 1, 0x0, 1, 0x0, .masked, 0x0, 0x0, 0xFFFFFFFF, 0x0, .app, none, false⟩ /- PIN.PEND -/,
  ⟨0x330100, 288, 0x4, 1, 0x0, 1, 0x0, .readOnly, 0x0, 0x0, 0x0, 0x0, .any, none, false⟩ /- PIN.MIO -/]

/-- The rows of the block whose window holds the offset (01, "Register windows"). -/
def regRowsAt (off : Nat) : List RegRow :=
  match off / 0x10000 with
  | 0 => regRowsSys
  | 50 => regRowsDdr
  | 1 => regRowsPmu
  | 2 => regRowsBlk
  | 10 => regRowsSpn
  | 9 => regRowsTim
  | 8 => regRowsRtc
  | 11 => regRowsWrd
  | 12 => regRowsAdp
  | 16 => regRowsLth
  | 17 => regRowsLth
  | 18 => regRowsLth
  | 19 => regRowsLth
  | 20 => regRowsFed
  | 24 => regRowsTsk
  | 25 => regRowsCle
  | 32 => regRowsFus
  | 33 => regRowsMet
  | 6 => regRowsHng
  | 7 => regRowsLat
  | 26 => regRowsPrf
  | 49 => regRowsPnl
  | 40 => regRowsMil
  | 41 => regRowsMil
  | 42 => regRowsEth
  | 43 => regRowsCan
  | 44 => regRowsCan
  | 45 => regRowsCan
  | 46 => regRowsCan
  | 47 => regRowsPci
  | 48 => regRowsHsp
  | 27 => regRowsMbx
  | 52 => regRowsDbg
  | 5 => regRowsKey
  | 3 => regRowsFlt
  | 4 => regRowsInj
  | 51 => regRowsPin
  | _ => []

/-- Position of an offset among `n` places `s` apart, if it is one; the rest is what lies beyond the place. -/
def placeOf (n s d : Nat) : Option Nat := if n ≤ 1 ∨ s = 0 then some d else if d / s < n then some (d % s) else none

/-- The row holds a register at the offset. -/
def RegRow.covers (r : RegRow) (off : Nat) : Bool :=
  if off < r.base then false
  else
    match placeOf r.n0 r.s0 (off - r.base) with
    | none => false
    | some d =>
      match placeOf r.n1 r.s1 d with
      | none => false
      | some e => placeOf r.n2 r.s2 e == some 0

/-- The row of a register offset. -/
def regRowOf (off : Nat) : Option RegRow := (regRowsAt off).find? (fun r => r.covers off)

end Sys2Proof.Machine
end

