-- ==== Sys2Proof/Machine/Gate.lean ====
section
/-! DEFINITION. The admission of an access: the checks of R705 in their order, for registers and for memory. Each check
answers the code of R25 it refuses with, 0 when it admits. -/
namespace Sys2Proof.Machine

/-! ### What is absent (R5, R6, R55, R59) -/

/-- The block of a register window is absent in the variant (R5). -/
def Variant.windowAbsent (v : Variant) (w : Nat) : Bool :=
  if 0x10 ≤ w ∧ w ≤ 0x13 then decide (v.lathes ≤ w - 0x10)
  else if w = 0x14 then !v.hasFed
  else if w = 0x20 then !v.hasFus
  else if w = 0x28 then !v.hasMil 0
  else if w = 0x29 then !v.hasMil 1
  else if 0x2B ≤ w ∧ w ≤ 0x2E then decide (v.cans ≤ w - 0x2B)
  else if w = 0x2F then !v.hasPci
  else if w = 0x32 then !v.hasDdr
  else false

/-- An Ethernet port is present: RGMII0, RGMII1, or a lane in 10GBASE-R mode (15). -/
def State.ethPresent (s : State) (e : Nat) : Bool :=
  if e = 0 then true else if e = 1 then s.variant.hasUnit 5
  else decide (e - 2 < s.variant.lanes) && u8 s.linkStruct (e - 2) == 2

/-- A register place the PLIC layout gives (PRESUMED, log entry 5). -/
def plicCovers (off : Nat) : Bool :=
  let d := off - Plic.base
  (0 < d && d < 0x800) || (0x1000 ≤ d && d < 0x1040) ||
  (0x2000 ≤ d && d < 0x2000 + 0x80 * 20 && d % 0x80 < 0x40) ||
  (0x200000 ≤ d && d < 0x200000 + 0x1000 * 20 && d % 0x1000 < 8)

/-- CAN message RAM: its offset within the window lies in an element (16). -/
def canRamCovers (o : Nat) : Bool :=
  (0x1000 ≤ o && o < 0x2800) || (0x2800 ≤ o && o < 0x3400) || (0x3400 ≤ o && o < 0x4000) ||
  (0x4000 ≤ o && o < 0x4180) || (0x5000 ≤ o && o < 0x5800)

/-- A register of the block that the variant or the Blank leaves out (R405, R533, 13, 15). -/
def State.instanceAbsent (s : State) (off : Nat) : Bool :=
  let w := off / 0x10000
  let o := off % 0x10000
  if w = 0x19 then 0x8000 ≤ o && decide (s.variant.loops ≤ (o - 0x8000) / 0x40)
  else if w = 0x1A then 0x100 ≤ o && decide (s.variant.axes ≤ (o - 0x100) / 0x20)
  else if w = 0x07 then 0x100 ≤ o && decide (s.variant.latch ≤ (o - 0x100) / 0x20)
  else if w = 0x2A then
    0x100 ≤ o && !(s.ethPresent ((o - 0x100) / 0x40) && s.ethUsed ((o - 0x100) / 0x40))
  else if w = 0x18 then 0x1000 ≤ o && decide (s.variant.tasks ≤ (o - 0x1000) / 0x20)
  else false

/-- No register answers at an aligned offset from 0x00_8000_0000 (R5, R6). The spec makes ABSENT the windows that no block occupies; an offset of
an occupied window at which no register stands is ABSENT too (DESIGN CHOICE, log entry 130). -/
def State.regAbsent (s : State) (off : Nat) : Bool :=
  let o := off / 4 * 4
  if Plic.base ≤ off then !plicCovers o
  else if s.variant.windowAbsent (off / 0x10000) then true
  else if 0x2B ≤ off / 0x10000 ∧ off / 0x10000 ≤ 0x2E ∧ canRamCovers (off % 0x10000) then false
  else (regRowOf o).isNone || s.instanceAbsent o

/-- No memory answers at an address (R6, R55, R59). -/
def State.memAbsent (s : State) (a : Nat) : Bool :=
  if a < 0x40000 then false
  else if Addr.stock ≤ a ∧ a < Addr.stock + 0x1000000 then decide (Addr.stock + s.variant.stockBytes ≤ a)
  else if Addr.core ≤ a ∧ a < Addr.core + 0x800000 then decide (s.variant.cores ≤ (a - Addr.core) / 0x100000)
  else if Addr.lathe ≤ a ∧ a < Addr.lathe + 0x2000000 then
    decide (s.variant.lathes ≤ (a - Addr.lathe) / 0x800000) ||
      decide (s.variant.latheStore ≤ (a - Addr.lathe) % 0x800000)
  else if Addr.align ≤ a ∧ a < Addr.align + 0x800000 then !s.variant.hasFus
  else if Addr.mram ≤ a ∧ a < Addr.mram + 0x1000000 then decide (Addr.mram + 8 * s.variant.mramS ≤ a)
  else if Addr.ddr ≤ a then
    !s.variant.hasDdr || decide (Addr.ddr + 0x200000000 ≤ a) ||
      (s.flag Reg.sysMemsize 31 && decide (Addr.ddr + s.fld Reg.sysMemsize 5 0 * 0x8000000 ≤ a))
  else true

/-- The range of the map that an address lies in (01, "Physical address map"). -/
def mapRange (a : Nat) : Nat :=
  if a < 0x40000 then 0
  else if Addr.stock ≤ a ∧ a < Addr.stock + 0x1000000 then 1
  else if Addr.core ≤ a ∧ a < Addr.core + 0x800000 then 2
  else if Addr.lathe ≤ a ∧ a < Addr.lathe + 0x2000000 then 3
  else if Addr.align ≤ a ∧ a < Addr.align + 0x800000 then 4
  else if Addr.mram ≤ a ∧ a < Addr.mram + 0x1000000 then 5
  else if Addr.ddr ≤ a then 6
  else 7

/-- Some byte of `n` from `a` has no memory: an end is absent, or the bytes leave their range of the map. -/
def State.memAbsentIn (s : State) (a n : Nat) : Bool :=
  s.memAbsent a || s.memAbsent (a + n - 1) || mapRange a != mapRange (a + n - 1)

/-! ### The port (R109, R623, R625) -/

/-- Windows served while the part is halted in MOUNT (R109, R625): SYS, BLK, FLT, PCI, HSP, DBG. -/
def haltedWindow (w : Nat) : Bool := w == 0 || w == 2 || w == 3 || w == 0x2F || w == 0x30 || w == 0x34

/-- The initiator's port refuses a register access. -/
def State.regPortDenied (s : State) (w : Who) (off : Nat) (write : Bool) : Bool :=
  if s.haltedInMount then !(haltedWindow (off / 0x10000)) && !w.isKeeper
  else if w.isHost then !(bit (s.hostWin w.id) (off / 0x10000) || (off < 0x10000 && !write))
  else false

/-- The initiator's port refuses a memory access. -/
def State.memPortDenied (s : State) (w : Who) (a n : Nat) (write : Bool) : Bool :=
  let inStock := Addr.stock ≤ a && a < Addr.stock + 0x1000000
  let inLog := s.logBase ≤ a && a < s.logBase + 0x20000
  if s.haltedInMount then !(w.isKeeper || inStock || (inLog && !write))
  else if w.isHost then
    if write then !s.hostMayWrite w.id a n
    else !((inStock && bit (s.hostRd w.id) 0) || (Addr.ddr ≤ a && bit (s.hostRd w.id) 1))
  else false

/-! ### The target's own rules -/

/-- Initiators that INJ admits in the present lifecycle state (R678). -/
def State.mayInject (s : State) (w : Who) : Bool :=
  if s.life = Life.factory then w.isWarden || w.isKeeper || (w.isCore && s.secure w) || w.id == Init.debug || w.isHost
  else if s.life = Life.provisioned then w.isWarden || (w.isCore && s.secure w) || w.isHost
  else if s.life = Life.field then w.isWarden || w.isHost
  else if s.life = Life.service then w.isWarden || (w.isCore && s.secure w) || w.id == Init.debug || w.isHost
  else false

/-- A doorbell or channel bitmap names the initiator. -/
def named (bitmap id : Nat) : Bool := bit bitmap id

/-- The rule that says who may write a register admits this write (the access rules of each block). -/
def State.permits (s : State) (p : Perm) (w : Who) (off : Nat) (v : Word) : Bool :=
  match p with
  | .any => true
  | .secure => s.secure w
  | .app => s.appOrSecure w
  | .host => s.appHostOrSecure w
  | .warden => w.isWarden
  | .safeRequest => w.isWarden && field v 0 0 == 1
  | .wardenOnly => w.isWarden
  | .never => false
  | .pmu => w.isWarden || (w.isKeeper && s.mode == Mode.mount)
  | .reset =>
    (w.isWarden || w.isKeeper || (w.isHost && s.keepFlag 0)) && field v 31 16 == 0xA5C3 && field v 0 0 == 1
  | .blankCommand =>
    w.isWarden || (w.isHost && s.keepFlag 3) ||
      (w.isHost && s.haltedInMount && (s.bootFail == 3 || s.bootFail == 4))
  | .comparator => !s.flag ((off - Reg.spnCmpAngle 0 0) / 8 * 8 + Reg.spnCmpCtl 0 0) 30
  | .hostAdvance =>
    let n := (off - Reg.spnHostadv 0) / 0x40
    s.spindleSrc n == 5 && (s.hostInit n == 0xFF || s.hostInit n == w.id)
  | .programMode =>
    let p := (off - Reg.tskPmode 0) / 4
    (s.secure w || w.id == Init.debug) && field v 1 0 != 3 &&
      !(field v 1 0 == 2 && s.flag (Reg.tskPmode p) 10 && s.life == Life.field)
  | .gate => s.appOrSecure w
  | .latchCommand =>
    let c := (off - Reg.latCmd 0) / 0x20
    s.appOrSecure w && s.latchUsed c && s.latchLocal c == 3
  | .axisTarget => s.appOrSecure w && s.axisSrc ((off - Reg.prfTgt 0) / 0x20) != 1
  | .milRing =>
    let port := (off - Reg.milTxtail 0 0) / 0x10000
    let vc := (off % 0x10000 - 0x100) / 0x20
    s.appHostOrSecure w && (s.secure w || !bit (s.vcFlags port vc) 0)
  | .mailboxSend =>
    let c := field v 21 16
    bit (s.channelFlags c) 0 && named (s.channelSend c) w.id && (s.secure w || !bit (s.channelFlags c) 1) &&
      field v 4 0 != 0
  | .doorbell => named (s.doorbellRing (field v 5 0)) w.id
  | .inject => s.mayInject w

/-- The PLIC's own rule (R64): the context of the accessing engine. -/
def plicContextOf (w : Who) : List Nat :=
  if w.id < 8 then [2 * w.id, 2 * w.id + 1]
  else if w.id = 0x0C then [16]
  else if w.id = 0x0D then [17]
  else if w.id = Init.warden then [18]
  else if w.id = Init.keeper then [19]
  else []

/-- An access to the interrupt controller ends in DENIED (R64). -/
def plicDenied (w : Who) (off : Nat) (write : Bool) : Bool :=
  let d := off - Plic.base
  if 0x2000 ≤ d ∧ d < 0x200000 then !((plicContextOf w).contains ((d - 0x2000) / 0x80) || (w.isWarden && write))
  else if 0x200000 ≤ d then
    !((plicContextOf w).contains ((d - 0x200000) / 0x1000) || (w.isWarden && write && d % 0x1000 == 0))
  else false

/-- CAN message RAM's own rules (R613, R620). -/
def State.canRamDenied (s : State) (w : Who) (off : Nat) : Bool :=
  let k := off / 0x10000 - 0x2B
  let o := off % 0x10000
  if 0x5000 ≤ o then !s.secure w || s.flag (Reg.canCtrl k) 8
  else if o < 0x2800 then
    let b := (o - 0x1000) / 0x60
    !s.appHostOrSecure w || (if b < 32 then s.flag (Reg.canTxreqLo k) b else s.flag (Reg.canTxreqHi k) (b - 32))
  else !s.appHostOrSecure w

/-- The target's own rules refuse a register write with DENIED; a write of TIM.INCR does while the servo is enabled (R212). -/
def State.regOwnDenied (s : State) (w : Who) (off : Nat) (v : Word) : Bool :=
  if Plic.base ≤ off then plicDenied w off true
  else if 0x2B ≤ off / 0x10000 ∧ off / 0x10000 ≤ 0x2E ∧ canRamCovers (off % 0x10000) then s.canRamDenied w off
  else
    match regRowOf off with
    | some r => !s.permits r.perm w off v || ((off == Reg.timIncrFrac || off == Reg.timIncrInt) && s.flag Reg.timCtrl 0)
    | none => false

/-- The register is RWL as a whole (R16); of PMU.PFI only a field is. -/
def RegRow.whole (r : RegRow) : Bool := r.rwl != 0 && r.rw == 0 && r.w1c == 0 && r.w1s == 0 && r.base != Reg.pmuPfi

/-- A write is LOCKED while LOCK is set (R16): any write of a register that is RWL as a whole, and else one that would change an RWL field. -/
def State.regLocked (s : State) (off : Nat) (v : Word) : Bool :=
  match regRowOf off with
  | some r =>
    match r.lock with
    | some (d, b) =>
      s.flag (off / 0x10000 * 0x10000 + d) b && (r.whole || (v ^^^ s.reg off) &&& BitVec.ofNat 32 r.rwl != 0#32)
    | none => false
  | none => false

/-- The register's target lies in a fenced region (R10, R36). -/
def State.regFenced (s : State) (off : Nat) : Bool := decide (off < Plic.base) && s.fenced (regionOfReg off)

/-- Checks 1 to 4 of R705 for a register access of `size` bytes at `addr`. -/
def State.regFront (s : State) (w : Who) (addr size : Nat) (write : Bool) : Nat :=
  let off := addr - Addr.regs
  if s.regAbsent off then Code.absent
  else if s.regPortDenied w off write then Code.denied
  else if s.regFenced off then Code.denied
  else if size ≠ 4 ∨ addr % 4 ≠ 0 then Code.align
  else Code.ok

/-- The code a register write of `v` by `w` ends in before its block takes it (R705, checks 1 to 6). -/
def State.regWriteCode (s : State) (w : Who) (addr size : Nat) (v : Word) : Nat :=
  let front := s.regFront w addr size true
  if front ≠ Code.ok then front
  else if s.regOwnDenied w (addr - Addr.regs) v then Code.denied
  else if s.regLocked (addr - Addr.regs) v then Code.locked
  else Code.ok

/-- The region of a memory address that can be fenced (01): core local 0, Lathe store 1, alignment buffer 2, LPDDR5 3. -/
def memRegion (a : Nat) : Nat :=
  if Addr.core ≤ a ∧ a < Addr.core + 0x800000 then 0
  else if Addr.lathe ≤ a ∧ a < Addr.lathe + 0x2000000 then 1
  else if Addr.align ≤ a ∧ a < Addr.align + 0x800000 then 2
  else if Addr.ddr ≤ a then 3
  else 4

/-- The partition of the MRAM (R49): offset and length of each part, and whether it admits this access. -/
def State.mramParts (s : State) (w : Who) (write : Bool) : List (Nat × Nat × Bool) :=
  let S := s.variant.mramS
  [(0, 2 * S, w.isKeeper || (w.isWarden && !write)),
   (2 * S, 2 * S, (w.isKeeper && (!write || s.life == Life.factory)) || (w.isWarden && !write)),
   (4 * S, 2 * S, w.isKeeper),
   (6 * S, 0x1000, if write then w.isWarden || w.id == Init.hinge else s.secure w),
   (6 * S + 0x1000, 0x1000, w.isWarden),
   (6 * S + 0x2000, 0x1000, w.id == Init.pnl || (w.isWarden && !write)),
   (6 * S + 0x3000, 0x4000, w.isKeeper),
   (6 * S + 0x7000, 0x9000, false),
   (6 * S + 0x10000, 0x10000, !write || w.id == Init.metDma),
   (6 * S + 0x20000, 0x20000, !write),
   (6 * S + 0x40000, 0x40000, false),
   (6 * S + 0x80000, 2 * S - 0x80000, bit (if write then u32 s.keepStruct 0x10 else u32 s.keepStruct 0x0C) w.id)]

/-- Every part of the MRAM that the `n` bytes at offset `o` touch admits this access (R50). -/
def State.mramAdmits (s : State) (w : Who) (o n : Nat) (write : Bool) : Bool :=
  (s.mramParts w write).all fun p => p.2.2 || !overlaps o n p.1 p.2.1

/-- The `n` bytes at an address touch bytes of a Lathe's store that one of its chucks owns (R264, R265). -/
def State.chuckTouched (s : State) (l a n : Nat) : Bool :=
  (List.range 64).any fun c => s.chuckCells l c != 0 &&
    overlaps a n (Addr.lathe + 0x800000 * l + 32768 * s.chuckFirst l c) (32768 * s.chuckCells l c)

/-- The target's own rules refuse a memory access with DENIED. -/
def State.memOwnDenied (s : State) (w : Who) (a n : Nat) (write : Bool) : Bool :=
  if a < 0x40000 then write || !(w.isKeeper || w.isWarden)
  else if Addr.stock ≤ a ∧ a < Addr.stock + 0x1000000 then
    write && (overlaps a n Addr.stock 0x8000 || (overlaps a n s.imageBase s.imageBytes && w.id != Init.hinge) ||
      s.storeLocks w a n)
  else if Addr.core ≤ a ∧ a < Addr.core + 0x800000 then
    ((List.range 4).any fun p => s.flag Reg.sysPairs p && overlaps a n (Addr.core + 0x100000 * (2 * p + 1)) 0x100000) || (write && s.storeLocks w a n)
  else if Addr.lathe ≤ a ∧ a < Addr.lathe + 0x2000000 then
    ((List.range 4).any fun l => w.id != 8 + l && s.chuckTouched l a n) || (write && s.storeLocks w a n)
  else if Addr.mram ≤ a ∧ a < Addr.mram + 0x1000000 then
    !s.mramAdmits w (a - Addr.mram) n write || (write && s.storeLocks w a n)
  else write && s.storeLocks w a n

/-- Single accesses of 1, 2, 4 or 8 bytes, aligned, and bursts of whole 32-byte beats (R716). -/
def memAligned (a n : Nat) : Bool :=
  ((n == 1 || n == 2 || n == 4 || n == 8) && a % n == 0) || (0 < n && n % 32 == 0 && a % 32 == 0)

/-- Checks 1 to 5 of R705 for a memory access. -/
def State.memCode (s : State) (w : Who) (a n : Nat) (write : Bool) : Nat :=
  if s.memAbsentIn a n then Code.absent
  else if s.memPortDenied w a n write then Code.denied
  else if s.fenced (memRegion a) then Code.denied
  else if Addr.ddr ≤ a ∧ s.flag Reg.sysMemsize 31 = false then Code.denied
  else if !memAligned a n then Code.align
  else if s.memOwnDenied w a n write then Code.denied
  else Code.ok

/-- The code an engine's own access to a whole range ends in; its bursts are aligned. A poisoned word fails a read, and a write that covers it
in part (R35, R47). -/
def State.rangeCode (s : State) (w : Who) (a n : Nat) (write : Bool) : Nat :=
  let c := s.memCode w a 1 write
  if c ≠ Code.ok then c
  else
    let d := s.memCode w (a + n - 1) 1 write
    if d ≠ Code.ok then d
    else if s.memAbsentIn a n then Code.absent
    else if s.memOwnDenied w a n write then Code.denied
    else if (if write then s.partialBad a n else s.badWordIn a n).isSome then Code.uncorrectable
    else Code.ok

/-! ### The running task's PMP (R346) -/

def State.task (s : State) (t : Nat) : TaskRun := s.tsk.tasks.get t

/-- The base of a task's state area on a core (R344). -/
def State.stateAreaOn (s : State) (t c : Nat) : Nat := Addr.core + 0x100000 * c + 0x80000 + (s.taskDef t).soff
def State.stateArea (s : State) (t : Nat) : Nat := s.stateAreaOn t (s.task t).core

/-- What the running task's PMP lets it reach (R346): its code to read and run, its data and state areas, the image to
read, and TSK. -/
def State.pmpPermits (s : State) (t a n : Nat) (write : Bool) : Bool :=
  let d := s.taskDef t
  let p := programEntry d.prog
  let b := s.taskBody
  let inside := fun lo len => decide (lo ≤ a) && decide (a + n ≤ lo + len)
  (!write && inside (u64 b (p + 0x18) % 2 ^ 40) (u32 b (p + 8))) || inside (u64 b (p + 0x20) % 2 ^ 40) (u32 b (p + 0x14)) ||
    inside (s.stateArea t) d.stateLen || (!write && inside s.imageBase s.imageBytes) ||
    inside (Addr.regs + 0x180000) 0x10000

/-- The access does not leave its core: the core runs a task in user mode whose PMP does not admit it. The exception this is to the core
is the command TASK_FAULT (R347). -/
def State.pmpStops (s : State) (w : Who) (a n : Nat) (write : Bool) : Bool :=
  w.isCore && !w.mmode &&
    (match s.tsk.running.get w.id with
     | 0 => false
     | t + 1 => !s.pmpPermits t a n write)

/-- The initiator may read the registers of mailbox channel `c` (R633). -/
def State.mayReceive (s : State) (w : Who) (c : Nat) : Bool :=
  if s.channelRecv c = 0xFF then named (s.channelSend c) w.id else s.channelRecv c == w.id

/-- The target's own rules refuse a register read with DENIED: those of the interrupt controller and of the mailboxes (R64, R633). -/
def State.regReadDenied (s : State) (w : Who) (off : Nat) : Bool :=
  if Plic.base ≤ off then plicDenied w off false
  else if Reg.mbxHdr 0 ≤ off ∧ off < Reg.mbxHdr 64 then !s.mayReceive w ((off - Reg.mbxHdr 0) / 0x80)
  else false

/-- The code a register read ends in before its block answers (R705, checks 1 to 5). -/
def State.regReadCode (s : State) (w : Who) (addr size : Nat) : Nat :=
  let c := s.regFront w addr size false
  if c ≠ Code.ok then c else if s.regReadDenied w (addr - Addr.regs) then Code.denied else Code.ok

/-- The variant has the initiator (R3, the table of initiators); an ID the table leaves out never appears on the bus (R62). -/
def Variant.hasInit (v : Variant) (id : Nat) : Bool :=
  if id < 8 then decide (id < v.cores)
  else if id < 0xC then decide (id - 8 < v.lathes)
  else if id < 0xE then decide (id - 0xC < v.fusion)
  else if id = Init.pcieHost then v.hasPci
  else if id = Init.milDma ∨ id = Init.milDma + 1 then v.hasMil (id - Init.milDma)
  else if id = Init.fed then v.hasFed
  else decide (id ≤ Init.hinge) || id == Init.debug

/-- The checker core of a lockstep pair, under whose ID the pair issues nothing (R30). -/
def State.isChecker (s : State) (id : Nat) : Bool := decide (id < 8) && id % 2 == 1 && s.flag Reg.sysPairs (id / 2)

/-- The initiator issues no transaction that the crossbar accepts: it is absent or reserved (R62), the checker of a pair (R30), or its region
is fenced (R37). -/
def State.mute (s : State) (id : Nat) : Bool := !s.variant.hasInit id || s.isChecker id || s.fenced (initRegion id)

/-- Nothing on the die makes or answers the access: VIGIL (R97, R105), an initiator that issues none, or the PMP holds it back. -/
def State.silent (s : State) (w : Who) (a n : Nat) (write : Bool) : Bool := !s.awake || s.mute w.id || s.pmpStops w a n write

/-- A command that writes a register of its own: the checks of R705, its grants (R230 to R234), then the block takes the value. In VIGIL
nothing on the die makes or answers an access (R97, R105). -/
def State.gated (s : State) (w : Who) (off : Nat) (v : Word) (take : State → State) : State :=
  let c := s.regWriteCode w (Addr.regs + off) 4 v
  if s.silent w (Addr.regs + off) 4 true then s
  else if c = Code.ok then s.arbitrated (wordAccess w (Addr.regs + off) 4 (some (leBytes 4 v.toNat))) fun s => (take s).replyOk
  else s.busError w (Addr.regs + off) c 0

/-- The same where the block itself may still refuse the value with a code. -/
def State.gatedOr (s : State) (w : Who) (off : Nat) (v : Word) (take : State → Except Nat State) : State :=
  let c := s.regWriteCode w (Addr.regs + off) 4 v
  if s.silent w (Addr.regs + off) 4 true then s
  else if c = Code.ok then
    s.arbitrated (wordAccess w (Addr.regs + off) 4 (some (leBytes 4 v.toNat))) fun s =>
      match take s with
      | .ok t => t.replyOk
      | .error e => s.busError w (Addr.regs + off) e 0
  else s.busError w (Addr.regs + off) c 0

/-- A command that reads a register of its own: the checks of R705, its grants, then the block answers. -/
def State.gatedRead (s : State) (w : Who) (off : Nat) (take : State → State × Nat) : State :=
  let c := s.regReadCode w (Addr.regs + off) 4
  if s.silent w (Addr.regs + off) 4 false then s
  else if c = Code.ok then
    s.arbitrated (wordAccess w (Addr.regs + off) 4 none) fun s =>
      let (s, v) := take s
      s.replyWord v
  else s.busError w (Addr.regs + off) c 4

end Sys2Proof.Machine
end

