-- ==== Sys2Proof/Machine/Axis.lean ====
section
/-! DEFINITION. The axes of the profile generator (13): starting, replanning, halting and stopping moves, and the targets a Latch channel
drives. -/
namespace Sys2Proof.Machine

def State.axis (s : State) (n : Nat) : Axis := s.prf.get n
def State.setAxis (s : State) (n : Nat) (a : Axis) : State := { s with prf := s.prf.set n a }
/-- The 250 MHz tick of now. -/
def State.tick (s : State) : Nat := s.chip.up / 4
def State.axisPos (s : State) (n : Nat) : Int := signed 32 (s.num (Reg.prfPos n))
def State.setAxisPos (s : State) (n : Nat) (p : Int) : State := s.setNum (Reg.prfPos n) (unsigned 32 p)
def State.axisMoving (s : State) (n : Nat) : Bool := (s.axis n).move.isSome
def State.axisLost (s : State) (n : Nat) : Bool := s.flag (Reg.prfAstate n) 28
def State.axisHoming (s : State) (n : Nat) : Bool := match (s.axis n).move with
  | some m => m.homing
  | none => false

/-- PRF runs in RUN and HOLD, while Control is not fenced (R97, R99, R36). -/
def State.prfRuns (s : State) : Bool := s.controlRuns && !s.fenced Region.control

/-- PRF.STATUS and ASTATE show movement, POSITION_LOST and HELD. -/
def State.showAxis (s : State) (n : Nat) : State :=
  ((s.setFlag Reg.prfStatus (16 + n) (s.axisMoving n)).setFlag Reg.prfStatus n (s.axisLost n)).setFlag (Reg.prfAstate n) 23
    (s.axis n).held.isSome
def State.setLost (s : State) (n : Nat) (v : Bool) : State := (s.setFlag (Reg.prfAstate n) 28 v).showAxis n

/-- Microseconds in ticks. -/
def usTicks (us : Nat) : Nat := 250 * us

/-- R539: PRF_DIR and PRF_EN are set and a reduced current is raised; the ticks until t = 0. -/
def State.leadOf (s : State) (n : Nat) : Nat :=
  usTicks (if s.flag (Reg.prfAstate n) 26 then max (s.axisDirSu n) (s.axisCurLead n) else s.axisDirSu n)
def State.launch (s : State) (n : Nat) (m : Move) : State :=
  let s := (s.setFlag (Reg.prfAstate n) 25 (m.forward != s.axisFlag n 0)).setFlag (Reg.prfAstate n) 26 false
  (s.setAxis n { s.axis n with move := some m, enable := true, lastStep := 0, interval := 0 }).showAxis n

/-- The profile of a distance under given limits (R536, R537). -/
def profileOf (curve : Bool) (v0 vmax amax jmax d : Fp) : List Seg :=
  if curve then scurve v0 vmax amax jmax d else trapezoid v0 v0 vmax amax d

/-- A move of one axis from standstill. -/
def State.singleMove (s : State) (n : Nat) (target : Int) : Move :=
  let d := (target - s.axisPos n).natAbs
  { segs := profileOf (s.axisFlag n 4) (s.axisFp n 8) (s.axisFp n 0xC) (s.axisFp n 0x10) (s.axisFp n 0x14) (D.ofNat d),
    scale := Fp.one, start := s.tick + s.leadOf n, frac := D.zero, dist := d, done := 0,
    forward := decide (s.axisPos n < target), v0 := s.axisFp n 8, amax := s.axisFp n 0x10, homing := false, group := 15, next := none }

/-- The move of an axis is over: it stands, and source 240 rises where PRF.IE asks for it. -/
def State.finishMove (s : State) (n : Nat) : State :=
  let s := (s.setAxis n { s.axis n with move := none, since := s.tick }).showAxis n
  if s.flag Reg.prfIe n then s.raise 240 else s

def State.startSingle (s : State) (n : Nat) (target : Int) : State :=
  let s := s.setAxis n { s.axis n with target := target }
  if s.axisPos n = target then s.finishMove n else s.launch n (s.singleMove n target)

/-- The least of a list of numbers. -/
def leastFp (xs : List Fp) : Fp := match xs with
  | [] => D.zero
  | x :: r => r.foldl Fp.min x

/-- R541: the axes of a group start at one tick on one normalised profile. -/
def State.startGroup (s : State) (g : Nat) (targets : List (Nat × Int)) : State :=
  let far := targets.filter fun t => s.axisPos t.1 != t.2
  let per := fun (o : Nat) => leastFp (far.map fun t => D.div (s.axisFp t.1 o) (D.ofNat (t.2 - s.axisPos t.1).natAbs))
  let curve := (s.groupAxes g).all fun n => s.axisFlag n 4
  let segs := profileOf curve (per 8) (per 0xC) (per 0x10) (per 0x14) Fp.one
  let start := s.tick + (targets.map fun t => s.leadOf t.1).foldl max 0
  targets.foldl (fun s t =>
    let s := s.setAxis t.1 { s.axis t.1 with target := t.2 }
    let d := (t.2 - s.axisPos t.1).natAbs
    if d = 0 then s.finishMove t.1
    else s.launch t.1 { segs := segs, scale := D.ofNat d, start := start, frac := D.zero, dist := d, done := 0,
                        forward := decide (s.axisPos t.1 < t.2), v0 := per 8, amax := per 0x10, homing := false, group := g, next := none }) s

/-- A target the axis holds, or one that follows a stop, starts once it stands; a group's once all its axes stand (R545, R546). -/
def State.startHeld (s : State) (n : Nat) (next : Option Int) : State :=
  let g := s.groupOf n
  if g < 4 then
    let ns := s.groupAxes g
    if ns.any s.axisMoving then s
    else
      let ts := ns.filterMap fun k => (s.axis k).held.map fun t => (k, t)
      if ts.isEmpty then s
      else
        let s := ns.foldl (fun s k => s.setAxis k { s.axis k with held := none }) s
        (ns.foldl State.showAxis s).startGroup g ts
  else
    match (match next with | some t => some t | none => (s.axis n).held) with
    | none => s
    | some t => (s.setAxis n { s.axis n with held := none }).startSingle n t

/-- The last step of a move is out, or nothing of it is left. -/
def State.endMove (s : State) (n : Nat) (next : Option Int) : State := (s.finishMove n).startHeld n next

/-- R547: the move decelerates from its present rate to VSTART at AMAX, homing no more; `next` starts when it stands. -/
def Move.brake (m : Move) (now : Nat) (next : Option Int) : Move :=
  if now < m.start then { m with segs := [], dist := 0, done := 0, next := next }
  else
    let v := rateAlong m.segs (m.elapsed now)
    let at_ := D.mul m.scale (posAlong m.segs (m.elapsed now))
    let frac := D.sub (D.add m.frac at_) (D.ofNat m.done)
    let segs := braking v m.v0 m.amax
    let way := D.add frac (D.mul m.scale (posAlong segs (totalTime segs)))
    { m with segs := segs, start := now, frac := frac, dist := Fp.floorNat way, done := 0, next := next, homing := false }

def State.haltAxis (s : State) (n : Nat) (next : Option Int) : State :=
  match (s.axis n).move with
  | none => s
  | some m =>
    let m := m.brake s.tick next
    let s := s.setAxis n { s.axis n with move := some m }
    if m.dist = 0 then s.endMove n next else s

/-- The axes a stop or halt of some axes applies to: with an axis of a moving group the whole group (R542). Homing axes go on their own
(R552). -/
def State.withGroups (s : State) (mask : Nat) : List Nat :=
  (List.range 16).filter fun n =>
    let g := s.groupOf n
    bit mask n || (decide (g < 4) && !s.axisHoming n && ((s.groupAxes g).any fun k => bit mask k && !s.axisHoming k) &&
      (s.groupAxes g).any fun k => (s.axis k).move.any fun m => m.group == g)

/-- A held target is discarded. -/
def State.dropHeld (s : State) (n : Nat) : State :=
  if (s.axis n).held.isSome then (s.setAxis n { s.axis n with held := none }).showAxis n else s

/-- R547 for a mask: held targets are discarded. -/
def State.haltAxes (s : State) (mask : Nat) : State :=
  let ns := s.withGroups mask
  ns.foldl (fun s n => s.haltAxis n none) (ns.foldl State.dropHeld s)

/-- A detector ID that the table of R668 does not name: R550 asks for a record and names no detector, so it is a free value. -/
def State.unnamedDetector (s : State) : State × Nat :=
  let (s, w) := s.free
  (s, 0x2D + w.toNat % 0xFFD3)

/-- R549, R550: an axis stops at once, and loses its position if it was too fast. -/
def State.stopAxis (s : State) (n : Nat) : State :=
  match (s.axis n).move with
  | none => s.dropHeld n
  | some _ =>
    let a := s.axis n
    let fast := a.interval != 0 && (s.axisFp n 0x18).lt (D.div (D.ofNat 250000000) (D.ofNat a.interval))
    let s := (s.setAxis n { a with move := none, held := none, since := s.tick }).showAxis n
    let s := if fast then
        let (s, d) := s.unnamedDetector
        ((s.setLost n true).raise 241).cellEvent d 0x1A n Act.stopped 0 n
      else s
    s.raise 245

/-- R549 for a mask of axes, with the groups they move in (R542). -/
def State.stopAxes (s : State) (mask : Nat) : State := (s.withGroups mask).foldl State.stopAxis s

/-- R549, R554: entry to STANDBY or SAFE stops every axis at once; PRF_EN goes inactive and PRF_CUR to IDLE_DUTY. The outputs of a fenced
Control hold (R36). -/
def State.gateAxes (s : State) : State := if s.fenced Region.control then s else
  (List.range 16).foldl (fun s n =>
    let s := s.setAxis n { s.axis n with enable := false }
    if s.axisUsed n then (s.setFlag (Reg.prfAstate n) 26 true).showAxis n else s.showAxis n) (s.stopAxes 0xFFFF)

/-- R545, R546: a new target for an axis that moves. -/
def State.retarget (s : State) (n : Nat) (m : Move) (target : Int) : State :=
  if m.group < 4 ∨ s.axisFlag n 4 = true then (s.setAxis n { s.axis n with held := some target }).showAxis n
  else
    let sign : Int := if m.forward then 1 else -1
    let steps : Int := (target - s.axisPos n) * sign
    let started := decide (m.start ≤ s.tick)
    let v := if started then rateAlong m.segs (m.elapsed s.tick) else m.v0
    let frac := if started then D.sub (D.add m.frac (posAlong m.segs (m.elapsed s.tick))) (D.ofNat m.done) else D.zero
    let way := D.sub (Fp.ofInt f64 steps) frac
    let need := D.div (D.sub (D.mul v v) (D.mul m.v0 m.v0)) (D.mul D.two m.amax)
    if 0 < steps ∧ need.le way = true then
      let m := { m with segs := trapezoid v m.v0 (s.axisFp n 0xC) m.amax way, start := max m.start s.tick, frac := frac,
                        dist := steps.toNat, done := 0, next := none }
      s.setAxis n { s.axis n with move := some m, target := target }
    else s.haltAxis n (some target)

/-- A target for axes named by a GO: together for a group, else each on its own. -/
def State.aimSingle (s : State) (n : Nat) (target : Int) : State :=
  match (s.axis n).move with
  | some m => s.retarget n m target
  | none => s.startSingle n target
def State.aimGroup (s : State) (g : Nat) (targets : List (Nat × Int)) : State :=
  if targets.any fun t => s.axisMoving t.1 then
    targets.foldl (fun s t => (s.setAxis t.1 { s.axis t.1 with held := some t.2 }).showAxis t.1) s
  else s.startGroup g targets

/-- R544: a value that the axis's Latch channel drives. A value for a homing axis has no effect (DESIGN CHOICE, log entry 34). -/
def State.latchTarget (s : State) (n : Nat) (value : Int) : State :=
  if !s.prfRuns || !s.axisUsed n || s.axisSrc n != 1 || s.axisLost n || s.axisHoming n then s
  else if value = -2147483648 then s.haltAxes (2 ^ n)
  else
    let t := clampInt (s.axisPosMin n) (s.axisPosMax n) value
    let s := s.setFlag (Reg.prfAstate n) 24 (t != value)
    let s := if t != value then s.raise 244 else s
    if s.groupOf n < 4 then
      -- an axis of a group takes its target with the group's other axes at their own
      let g := s.groupOf n
      if (s.groupAxes g).any s.axisMoving then (s.setAxis n { s.axis n with held := some t }).showAxis n
      else s.startGroup g [(n, t)]
    else s.aimSingle n t

end Sys2Proof.Machine
end

