-- ==== Sys2Proof/Machine/Fence.lean ====
section
/-! DEFINITION. Fencing a region (R36, R37, R42, R177). -/
namespace Sys2Proof.Machine

/-- R630: what HSP_IRQ_N shows of the sources mapped to it (true: low). -/
def State.spiIrqLive (s : State) : Bool :=
  ([s.fld Reg.hspIrqmap 8 0, s.fld Reg.hspIrqmap 24 16, s.fld Reg.hspIrqmap2 8 0, s.fld Reg.hspIrqmap2 24 16] : List Nat).any
    fun n => n != 0 && s.pendingSource n

/-- R36, R630: HSP_IRQ_N is low; a fenced Link holds the level it had at the fence. -/
def State.spiIrqLow (s : State) : Bool := s.pin.irqHeld.getD s.spiIrqLive

/-- A generator in TIM continues each spindle: TIME exactly, every other source as a substitute at its rate of the fence instant (R177). -/
def State.timTakes (s : State) (n : Nat) : State :=
  if !s.spinUsed n then s
  else
    let s := s.setFlag Reg.timStatus (24 + n) true
    if s.spindleSrc n = Src.time then s
    else
      let s := s.setSpin n { s.spin n with sub := s.presentRate n, known := false, acc := 0 }
      (s.setSpinFlag n Spn.rejoin false).setSpinFlag n Spn.subst true

/-- A region is fenced: FENCED is set, its requests are discarded, source 1 rises, the record of the region level is
written and the chip level has an event to decide on (R36, R42, R28, R670). `parent` is the lower record. When Sense
fences, TIM takes the spindles (R177); when Control does, its axes stop at once (R549). -/
def State.fence (s : State) (r det : Nat) (parent : Option Nat) (injected : Bool) : State :=
  if r ≥ 4 ∨ s.fenced r ∨ s.awake = false then s
  else
    let (s, t) := s.detect { det := det, level := 3, loc := location r 0xFF 0, action := Act.fenced, parent := parent,
                             injected := injected }
    let s := if r = Region.link then { s with pin := { s.pin with irqHeld := some s.spiIrqLow } } else s
    let s := (s.setFlag Reg.sysFence r true).discardPatches r
    let s := if r = Region.control then s.stopAxes 0xFFFF else s
    let s := if r = 2 then (List.range 8).foldl State.timTakes s else s
    let injected := injected || s.inj.acting.isSome
    let s := s.raise 1
    { s with chip := { s.chip with events := s.chip.events ++ [{ det := det, parent := some t, injected := injected }] } }

end Sys2Proof.Machine
end

