-- ==== Sys2Proof/Machine/HingeRec.lean ====
section
/-! DEFINITION. The Hinge record and the epochs a part knows (12): R491, R492, R495, R522. -/
namespace Sys2Proof.Machine

/-- A claim from its parts (R490). -/
def claimOf (epoch rank unit : Nat) : Nat := epoch % 2 ^ 24 * 256 + rank % 16 * 16 + unit % 16
def epochOf (claim : Nat) : Nat := claim / 256 % 2 ^ 24

/-- The 248 bytes of a record from 0x08 on. -/
def HingeRecord.tail (r : HingeRecord) : List Byte :=
  leBytes 4 r.epoch ++ leBytes 4 r.claim ++ leBytes 4 (ofBool r.unfit + 2 * ofBool r.wasActive + 4 * ofBool r.epochReset) ++
    leBytes 4 (r.unfitCode % 65536) ++ leBytes 8 r.proofTime ++
    slice (r.floors.flatMap fun f => leBytes 2 f.1 ++ leBytes 2 0 ++ leBytes 4 f.2) 0 64 ++ List.replicate 160 0#8

def HingeRecord.bytes (r : HingeRecord) : List Byte := leBytes 4 r.seq ++ leBytes 4 (crc32 r.tail) ++ r.tail

/-- The record that 256 bytes hold. -/
def HingeRecord.ofBytes (b : List Byte) : HingeRecord :=
  { seq := u32 b 0, epoch := u32 b 8 % 2 ^ 24, claim := u32 b 0xC, unfit := bit (u32 b 0x10) 0, wasActive := bit (u32 b 0x10) 1,
    epochReset := bit (u32 b 0x10) 2, unfitCode := u16 b 0x14, proofTime := u64 b 0x18,
    floors := ((List.range 8).map fun k => (u16 b (0x20 + 8 * k) % 2 ^ 14, u32 b (0x24 + 8 * k))).filter fun f => f != (0, 0) }

def State.setHinge (s : State) (h : HingeState) : State := { s with hinge := h }

/-- Between its final cut and the end of a planned hand-over the active unit withholds releases and sweeps (R513). -/
def State.withholds (s : State) : Bool := match s.hinge.handover with
  | some h => h.final
  | none => false

/-- A record is written with the next SEQ, at rotation position SEQ mod 16 (12, "The Hinge record"). -/
def State.writeHinge (s : State) (r : HingeRecord) : State :=
  let r := { r with seq := (r.seq + 1) % 2 ^ 32, epoch := s.fld Reg.hngEpoch 23 0 }
  (s.engineWrite (engineWho Init.hinge) (Addr.records s.variant + 256 * (r.seq % 16)) r.bytes).setHinge { s.hinge with record := r }

/-- R495: while the record carries EPOCH_RESET, epochs above 0xFF_0000 are disregarded. -/
def State.disregards (s : State) (epoch : Nat) : Bool := s.hinge.record.epochReset && decide (0xFF0000 < epoch)

/-- R491: an epoch is heard. -/
def State.knowEpoch (s : State) (epoch : Nat) : State :=
  if s.disregards epoch ∨ epoch ≤ s.fld Reg.hngEpoch 23 0 then s else s.setFld Reg.hngEpoch 23 0 epoch

/-- The floor the Latch holds for a SETID, 0 where it holds none (R520). -/
def State.floor (s : State) (setid : Nat) : Nat := match s.hinge.record.floors.find? fun f => f.1 == setid with
  | some f => f.2
  | none => 0

/-- A SETID that no used channel has any more. -/
def State.setidUnused (s : State) (setid : Nat) : Bool :=
  !((List.range 64).any fun c => s.latchUsed c && s.latchSetid c == setid)

/-- R522: the floor of a SETID rises. With eight entries taken, one of a SETID without a channel gives way (DESIGN CHOICE, log
entry 36). -/
def raiseFloor (unused : Nat → Bool) (floors : List (Nat × Nat)) (setid epoch : Nat) : List (Nat × Nat) :=
  if floors.any fun f => f.1 == setid then floors.map fun f => if f.1 = setid then (setid, epoch) else f
  else if floors.length < 8 then floors ++ [(setid, epoch)]
  else (floors.eraseP fun f => unused f.1) ++ [(setid, epoch)]

end Sys2Proof.Machine
end

