-- ==== Sys2Proof/Machine/Tsk.lean ====
section
/-! DEFINITION. The task dispatcher (08): release, freeze, run, completion, commit, overrun, program modes, and the placement of
a halted core's tasks. -/
namespace Sys2Proof.Machine

def State.setTask (s : State) (t : Nat) (r : TaskRun) : State := { s with tsk := { s.tsk with tasks := s.tsk.tasks.set t r } }
def Program.stop : Nat := 0
def Program.run : Nat := 1
def Program.hold : Nat := 2
def State.programMode (s : State) (p : Nat) : Nat := s.fld (Reg.tskPmode p) 1 0
def State.tasksOf (s : State) (p : Nat) : List Nat := (List.range s.ntask).filter fun t => (s.taskDef t).prog == p

/-- SYS.PAIRS: pair `k` is formed, core `c` is halted (01). -/
def State.paired (s : State) (k : Nat) : Bool := s.flag Reg.sysPairs k
def State.coreHalted (s : State) (c : Nat) : Bool := s.flag Reg.sysPairs (8 + c)

/-- Core `c` takes tasks: it is present, not halted, and not the checker of a pair (R32, R342). -/
def State.takesTasks (s : State) (c : Nat) : Bool :=
  decide (c < s.variant.cores) && !s.coreHalted c && !(c % 2 == 1 && s.paired (c / 2))

/-- The dispatcher runs: the device is in RUN or HOLD and Control is not fenced. -/
def State.tskRuns (s : State) : Bool := s.controlRuns && !s.fenced Region.control

/-- TSK.TSTATE shows STATE, MOVING and CORE. -/
def State.showTask (s : State) (t : Nat) : State :=
  let r := s.task t
  let held := s.programMode (s.taskDef t).prog == Program.hold
  let st := if !r.live then 0 else if !r.started then 1 else if held then 3 else 2
  ((s.setFld (Reg.tskTstate t) 31 30 st).setFlag (Reg.tskTstate t) 28 r.move.isSome).setFld (Reg.tskTstate t) 26 24 r.core

/-- TSK.STATUS shows HELD_ANY and CORES. -/
def State.showCores (s : State) : State :=
  let held := (List.range s.nprog).any fun p => s.programMode p == Program.hold
  let m := ((List.range 8).filter s.takesTasks).foldl setBit 0
  (s.setFlag Reg.tskStatus 31 held).setFld Reg.tskStatus 7 0 m

/-! ### Signals (R349, R350) -/

/-- QUAL of a signal with new flags and writer, COUNT one more. -/
def nextQual (old flags writer : Nat) : Nat := flags / 2 ^ 28 % 16 * 2 ^ 28 + writer % 256 * 2 ^ 16 + (old + 1) % 65536

/-- One 64-bit write of VALUE and QUAL (R350); a STORE that locks the place denies it (R130). -/
def State.writeSignal (s : State) (i value flags writer : Nat) : State :=
  let a := s.signalAddr i
  if s.storeLocks (engineWho Init.cle) a 8 then s else s.poke a (leBytes 4 value ++ leBytes 4 (nextQual (s.mem32 (a + 4)) flags writer))

/-- The value every signal reads at MOUNT. -/
def signalAtMount : List Byte := leBytes 8 (0x00FF0000 * 2 ^ 32)

/-! ### Running (R345, R359) -/

/-- The instance of `a` goes before that of `b` on a core. -/
def State.goesBefore (s : State) (a b : Nat) : Bool :=
  let pa := (s.taskDef a).prio
  let pb := (s.taskDef b).prio
  pa < pb || (pa == pb && (s.task a).order < (s.task b).order) ||
    (pa == pb && (s.task a).order == (s.task b).order && a < b)

/-- The ready instance a core runs (R359). -/
def State.chosenOn (s : State) (c : Nat) : Option Nat :=
  ((List.range s.ntask).filter fun t =>
      (s.task t).live && (s.task t).core == c && s.programMode (s.taskDef t).prog == Program.run).foldl
    (fun best t => match best with
      | none => some t
      | some b => if s.goesBefore t b then some t else some b) none

/-- The first instruction of an instance (R345): its jitter is kept, and its entry context set. -/
def State.startTask (s : State) (t c : Nat) : State :=
  let r := s.task t
  let d := s.taskDef t
  let j := s.chip.up - r.due
  let s := s.setNum (Reg.tskLastStart t) (min (2 ^ 32 - 1) j)
  let s := if s.num (Reg.tskMaxStart t) < j then s.setNum (Reg.tskMaxStart t) (min (2 ^ 32 - 1) j) else s
  let base := s.stateAreaOn t c
  let ctx : CoreContext := { pc := d.entry % 2 ^ 40, a0 := base, a1 := r.inst % 2 ^ 32, sp := base + d.stackOff, user := true }
  { s with tsk := { s.tsk with cores := s.tsk.cores.set c ctx } }.setTask t { r with started := true }

/-- The core's running instance is paused. -/
def State.pauseCore (s : State) (c : Nat) : State :=
  match s.tsk.running.get c with
  | 0 => s
  | k + 1 =>
    let r := s.task k
    let s := s.setTask k { r with used := r.used + (s.chip.up - r.since) }
    { s with tsk := { s.tsk with running := s.tsk.running.set c 0 } }

/-- The core goes over to the instance R359 chooses. -/
def State.dispatchCore (s : State) (c : Nat) : State :=
  let want := if s.tskRuns && s.takesTasks c then (match s.chosenOn c with | some t => t + 1 | none => 0) else 0
  if s.tsk.running.get c = want then s
  else
    let s := s.pauseCore c
    match want with
    | 0 => s
    | t + 1 =>
      let s := if (s.task t).started then s else s.startTask t c
      let s := s.setTask t { s.task t with since := s.chip.up }
      { s with tsk := { s.tsk with running := s.tsk.running.set c (t + 1) } }.showTask t

def State.dispatchAll (s : State) : State := (List.range 8).foldl State.dispatchCore s

/-! ### Release (R351 to R358) -/

/-- The input freeze (R356): the task's input signals are copied to its state area. -/
def State.freezeInputs (s : State) (t : Nat) : State :=
  let d := s.taskDef t
  (List.range d.nin).foldl (fun s j =>
    s.poke (s.stateArea t + 8 * j) (s.bytes (s.signalAddr (s.listSignal (d.inIdx + j))) 8)) s

/-- Some frozen input has QUAL bit `b` (R358). -/
def State.inputFlag (s : State) (t b : Nat) : Bool :=
  let d := s.taskDef t
  (List.range d.nin).any fun j => bit (s.mem32 (s.signalAddr (s.listSignal (d.inIdx + j)) + 4)) b

/-- A new instance is released (R351, R356, R358), due at an uptime, and offered to its core. -/
def State.releaseTask (s : State) (t : Nat) (seasoning subst : Bool) (order due : Nat) : State :=
  let r := s.task t
  let se := seasoning || s.inputFlag t 31
  let su := subst || s.inputFlag t 30
  let s := s.freezeInputs t
  let r := { r with live := true, started := false, inst := r.next, next := (r.next + 1) % 2 ^ 32, seasoning := se, subst := su,
                    warn := r.warnNext, warnNext := false, skipped := false, order := order, due := due, used := 0 }
  (((s.setTask t r).roll (Reg.tskReleases t) 31 0 1).showTask t).dispatchCore r.core

/-- The program enters STOP (R369): its instances and pending events are discarded, and stop values written. -/
def State.stopTask (s : State) (t : Nat) : State :=
  let d := s.taskDef t
  let r := s.task t
  let s := if s.tsk.running.get r.core = t + 1 then s.pauseCore r.core else s
  let s := s.setTask t { s.task t with live := false, started := false, outputs := none }
  let s := (s.setFlag (Reg.tskTstate t) 29 false).showTask t
  (List.range d.nout).foldl (fun s j =>
    if s.listHasStop (d.outIdx + j) then
      s.writeSignal (s.listSignal (d.outIdx + j)) (s.listStop (d.outIdx + j)) 0 0xFE
    else s) s

/-- The device is in HOLD exactly while a program is held (R373). -/
def State.followHold (s : State) : State :=
  if !s.controlRuns then s
  else if (List.range s.nprog).any fun p => s.programMode p == Program.hold then s.setMode Mode.hold
  else s.setMode Mode.run

/-- A program takes a mode; source 194 rises. -/
def State.setProgramMode (s : State) (p m : Nat) : State :=
  let s := ((s.setFld (Reg.tskPmode p) 1 0 m).raise 194)
  let s := if m = Program.hold then s else s.setFlag (Reg.tskPmode p) 9 false
  ((s.tasksOf p).foldl State.showTask s).showCores.followHold

def State.stopProgram (s : State) (p : Nat) : State :=
  let s := s.setProgramMode p Program.stop
  ((s.tasksOf p).foldl State.stopTask s).dispatchAll

/-- A program stops for a fault (R347, R368): FAULT is set and source 193 rises. -/
def State.faultProgram (s : State) (p : Nat) : State := ((s.setFlag (Reg.tskPmode p) 8 true).stopProgram p).raise 193

/-- A release falls due while the previous instance lives (R366, R368). -/
def State.overrun (s : State) (t : Nat) : State :=
  let d := s.taskDef t
  let s := s.setTask t { s.task t with warnNext := true, skipped := true }
  let s := (s.bump (Reg.tskOverruns t) 31 0 1).bump (Reg.tskTstate t) 15 0 1
  let s := s.setFlag (Reg.tskOvrMap (t / 32)) (t % 32) true
  let stop := d.ovrLimit != 0 && decide (d.ovrLimit ≤ s.fld (Reg.tskTstate t) 15 0)
  let s := s.blockEvent 0x0A 0x18 t (if stop then Act.stopped else Act.none) 0 t
  let s := if bit d.flags 2 then s.raise 192 else s
  if stop then s.faultProgram d.prog else s

/-- A cyclic release of a task falls due (R351, R366, R370). -/
def State.cyclicRelease (s : State) (t : Nat) (seasoning subst : Bool) (order due : Nat) : State :=
  let m := s.programMode (s.taskDef t).prog
  if m = Program.hold then s.bump (Reg.tskSkips t) 31 16 1
  else if m ≠ Program.run then s
  else if (s.task t).live then s.overrun t
  else s.releaseTask t seasoning subst order due

/-! ### Completion and commit (R361 to R364) -/

/-- The outputs a completed instance leaves: VALUE and QUAL bits 31 to 29 of each entry. -/
def State.leftOutputs (s : State) (t : Nat) : List (Nat × Nat) :=
  let d := s.taskDef t
  (List.range d.nout).map fun j =>
    let a := s.stateArea t + 8 * (d.nin + j)
    (s.mem32 a, s.mem32 (a + 4) / 2 ^ 29 * 2 ^ 29)

/-- A commit writes all outputs into their signals (R363). -/
def State.commitOutputs (s : State) (t : Nat) (outs : List (Nat × Nat)) : State :=
  let d := s.taskDef t
  (outs.zipIdx).foldl (fun s o => s.writeSignal (s.listSignal (d.outIdx + o.2)) o.1.1 o.1.2 t) s

/-- The flags an instance inherited, as QUAL bits (R358). -/
def TaskRun.flags (r : TaskRun) : Nat := ofBool r.seasoning * 2 ^ 31 + ofBool r.subst * 2 ^ 30

/-- The commit of a task's waiting outputs, unless its program is held (R362, R370). -/
def State.commitTask (s : State) (t : Nat) : State :=
  match (s.task t).outputs with
  | none => s
  | some outs =>
    if s.programMode (s.taskDef t).prog = Program.run then
      (s.commitOutputs t outs).setTask t { s.task t with outputs := none }
    else s

/-- An event for a task (R353, R354): it releases, merges, pends or is lost. While a hand-over withholds releases (R513) it pends. -/
def State.eventFor (s : State) (t : Nat) : State :=
  let r := s.task t
  if s.programMode (s.taskDef t).prog ≠ Program.run then s
  else if s.withholds && !s.flag (Reg.tskTstate t) 29 then s.setFlag (Reg.tskTstate t) 29 true
  else if !r.live && !s.withholds then
    { s with tsk := { s.tsk with orders := s.tsk.orders + 1 } }.releaseTask t false false s.tsk.orders s.chip.up
  else if r.started && !s.flag (Reg.tskTstate t) 29 then s.setFlag (Reg.tskTstate t) 29 true
  else (s.bump (Reg.tskSkips t) 15 0 1).raise 196

/-- NUMBER of a task names an event: equal, but for PIN, whose NUMBER gives a GPIO and the edges it asks for, and TASK, where
0xFFFF takes any writer (08, "Event tasks"). -/
def eventMatches (source mine number : Nat) : Bool :=
  if source = 6 then mine % 128 == number % 128 && (mine / 256 &&& number / 256) % 4 != 0
  else mine == number || (source == 8 && mine == 0xFFFF)

/-- A block offers an event: every event task that names it takes it (R353). -/
def State.offerEvent (s : State) (source number : Nat) : State :=
  if !s.tskRuns then s
  else
    ((List.range s.ntask).filter fun t =>
      (s.taskDef t).event && (s.taskDef t).rspin == source && eventMatches source (s.taskDef t).number number).foldl State.eventFor s

/-- The running instance of a core completes (R361, R362, R367). -/
def State.completeTask (s : State) (t : Nat) : State :=
  let d := s.taskDef t
  let r0 := s.task t
  let s := s.pauseCore r0.core
  let r := s.task t
  let s := if s.num (Reg.tskMaxExec t) < r.used then s.setNum (Reg.tskMaxExec t) (min (2 ^ 32 - 1) r.used) else s
  let outs := (s.leftOutputs t).map fun o => (o.1, o.2 ||| r.flags)
  let s := s.setTask t { r with live := false, started := false, outputs := if d.cspin = 0xFF then none else some outs }
  let s := if d.cspin = 0xFF then s.commitOutputs t outs else s
  let s := if r.skipped then s else s.setFld (Reg.tskTstate t) 15 0 0
  let s := s.showTask t
  let s := if s.flag (Reg.tskTstate t) 29 then (s.setFlag (Reg.tskTstate t) 29 false).eventFor t else s
  s.dispatchCore r.core

/-! ### Firings (R351, R357, R362) -/

/-- Commits in ascending task number at the firings of comparators. -/
def State.commitsAt (s : State) (cs : List (Nat × Nat)) : State :=
  ((List.range s.ntask).filter fun t => cs.contains ((s.taskDef t).cspin, (s.taskDef t).ccmp)).foldl State.commitTask s

/-- The cyclic tasks that name one of some comparators, in the order of their freezes (R357). -/
def State.releasesAt (s : State) (cs : List (Nat × Nat)) : List Nat :=
  let ts := (List.range s.ntask).filter fun t => !(s.taskDef t).event && cs.contains ((s.taskDef t).rspin, (s.taskDef t).rcmp)
  (List.range 16).flatMap fun p => ts.filter fun t => (s.taskDef t).prio == p

/-- The releases of one instant's firings, due at an uptime, with the spindles' flags (R352). -/
def State.releaseAll (s : State) (cs : List (Nat × Nat)) (due : Nat) : State :=
  let order := s.tsk.orders
  let s := { s with tsk := { s.tsk with orders := order + 1 } }
  (s.releasesAt cs).foldl (fun s t =>
    let n := (s.taskDef t).rspin
    s.cyclicRelease t (s.spinFlag n Spn.seasoning) (s.substitute n) order due) s

/-- R353. -/
def execEventTaskRelease (source number : Nat) (s : State) : Reply := .next (s.offerEvent source number)

/-- R355: a write to TSK.TRIGGER releases an event task that names the writing task, or any writer. -/
def execTrigger (who : Who) (value : Word) (s : State) : Reply :=
  .next (s.gated who Reg.tskTrigger value fun s =>
    let t := field value 6 0
    let d := s.taskDef t
    let named := d.number == 0xFFFF || s.taskOf who == some d.number
    if decide (t < s.ntask) && d.event && d.rspin == 8 && named && s.tskRuns then s.eventFor t else s)

/-- R361: a write to TSK.DONE by the running task; from a base context it is ignored. -/
def execTaskDone (who : Who) (value : Word) (s : State) : Reply :=
  .next (s.gated who Reg.tskDone value fun s =>
    match s.taskOf who with
    | some t => s.completeTask t
    | none => s)

/-- A task's instance ends without a commit and its program stops (R347). -/
def State.taskFaults (s : State) (t : Nat) : State :=
  (s.blockEvent 0x09 0x18 t Act.stopped 0 t).faultProgram (s.taskDef t).prog

/-- R347. -/
def execTaskFault (core : Nat) (s : State) : Reply :=
  match s.tsk.running.get (core % 8) with
  | 0 => .next s
  | t + 1 => .next (s.taskFaults t)

/-! ### Program modes (R365 to R373) -/

/-- Outputs initialised at the entry to RUN from STOP (R365). -/
def State.initOutputs (s : State) (t : Nat) : State :=
  let d := s.taskDef t
  (List.range d.nout).foldl (fun s j =>
    let v := if s.listHasStop (d.outIdx + j) then s.listStop (d.outIdx + j) else 0
    s.poke (s.stateArea t + 8 * (d.nin + j)) (leBytes 8 v)) s

/-- The program's running instances stop where they are (R370). -/
def State.parkTask (s : State) (t : Nat) : State :=
  let r := s.task t
  let s := if s.tsk.running.get r.core = t + 1 then s.pauseCore r.core else s
  s.showTask t

def State.holdProgram (s : State) (p : Nat) : State :=
  let s := s.setProgramMode p Program.hold
  ((s.tasksOf p).foldl State.parkTask s).dispatchAll

def State.runProgram (s : State) (p : Nat) : State :=
  let fresh := s.programMode p == Program.stop
  let s := if fresh then (s.tasksOf p).foldl State.initOutputs s else s
  ((s.setFlag (Reg.tskPmode p) 8 false).setProgramMode p Program.run).dispatchAll

/-- A write of TSK.PMODE that R372 and R373 admit. -/
def State.writeProgramMode (s : State) (p m : Nat) : State :=
  if s.nprog ≤ p ∨ s.programMode p = m then s
  else if m = Program.run then s.runProgram p
  else if m = Program.stop then s.stopProgram p
  else if m = Program.hold ∧ s.programMode p = Program.run then s.holdProgram p
  else s

/-- R365. -/
def execProgramRun (who : Who) (program : Nat) (value : Word) (s : State) : Reply :=
  .next (s.gated who (Reg.tskPmode (program % 16)) value fun s => s.writeProgramMode (program % 16) (field value 1 0))

/-- R369. -/
def execProgramStop (who : Who) (program : Nat) (value : Word) (s : State) : Reply :=
  .next (s.gated who (Reg.tskPmode (program % 16)) value fun s => s.writeProgramMode (program % 16) (field value 1 0))

/-- R370. -/
def execProgramHold (who : Who) (program : Nat) (value : Word) (s : State) : Reply :=
  .next (s.gated who (Reg.tskPmode (program % 16)) value fun s => s.writeProgramMode (program % 16) (field value 1 0))

/-- Debug triggers and halt requests of a core are masked while it runs a task of a PROTECTED program in FIELD (R372). -/
def State.debugMasked (s : State) (t : Nat) : Bool :=
  s.flag (Reg.tskPmode (s.taskDef t).prog) 10 && s.life == Life.field

/-- A breakpoint or halt request holds the program of the task a core runs (R371, R638). -/
def State.breakTask (s : State) (t : Nat) : State :=
  let p := (s.taskDef t).prog
  ((s.holdProgram p).setFlag (Reg.tskPmode p) 9 true).raise 195

/-- R371. -/
def execDebugBreak (core : Nat) (s : State) : Reply :=
  match s.tsk.running.get (core % 8) with
  | 0 => .next s
  | t + 1 => .next (if s.debugMasked t then s else s.breakTask t)

/-- The counters of a task (R377): releases, overruns, jitter and execution maxima, skips. -/
def State.clearTask (s : State) (t : Nat) : State :=
  ([Reg.tskReleases t, Reg.tskOverruns t, Reg.tskMaxStart t, Reg.tskMaxExec t, Reg.tskSkips t] : List Nat).foldl
    (fun s r => s.setNum r 0) s

/-- R377. -/
def execTskClear (who : Who) (value : Word) (s : State) : Reply :=
  .next (s.gated who Reg.tskClear value fun s =>
    if bit value.toNat 7 then (List.range 128).foldl State.clearTask s else s.clearTask (field value 6 0))

/-! ### Entry to STANDBY and SAFE, halted cores, moves -/

/-- Live instances are discarded without a commit, and held programs go to STOP (R101, R103). -/
def State.gateTasks (s : State) : State :=
  let s := (List.range s.nprog).foldl (fun s p => if s.programMode p = Program.hold then s.stopProgram p else s) s
  let s := { s with tsk := { s.tsk with running := Tab.empty } }
  (List.range s.ntask).foldl (fun s t =>
    ((s.setTask t { s.task t with live := false, started := false, outputs := none }).setFlag (Reg.tskTstate t) 29 false).showTask
      t) s

/-- Pending events of tasks without an instance release one. -/
def State.releasePended (s : State) : State :=
  ((List.range s.ntask).filter fun t => s.flag (Reg.tskTstate t) 29 && !(s.task t).live).foldl
    (fun s t => (s.setFlag (Reg.tskTstate t) 29 false).eventFor t) s

/-- Tasks whose current core is `c`. -/
def State.tasksOn (s : State) (c : Nat) : Nat := ((List.range s.ntask).filter fun t => (s.task t).core == c).length

/-- The lowest-numbered core of a mask that takes tasks and has a place (R342, R374). -/
def State.placeFor (s : State) (elig : Nat) : Option Nat :=
  (List.range 8).find? fun c => bit elig c && s.takesTasks c && decide (s.tasksOn c < 32)

/-- A task moves to another core: its state area is copied, and it is no longer marked (R247, R374). -/
def State.moveTask (s : State) (t c : Nat) : State :=
  let bs := s.bytes (s.stateArea t) (s.taskDef t).stateLen
  ((s.setTask t { s.task t with core := c, move := none, moved := 0 }).poke (s.stateAreaOn t c) bs).showTask t

/-- The tasks of a halted core are placed in ascending number (R374); `none` when one has no core. An instance that had started is lost; one that
had not is released on the new core. -/
def replaceAll (c : Nat) : List Nat → State → Option State
  | [], s => some s
  | t :: ts, s =>
    if (s.task t).core = c then
      match s.placeFor (s.taskDef t).elig with
      | none => none
      | some d =>
        let r := s.task t
        let s := s.setTask t { r with live := r.live && !r.started, started := false }
        replaceAll c ts (s.moveTask t d)
    else replaceAll c ts s

/-- R374: the dispatcher places a halted core's tasks elsewhere and raises source 197. -/
def State.replaceTasks (s : State) (c : Nat) : Option State :=
  let s := { s with tsk := { s.tsk with running := s.tsk.running.set c 0 } }
  (replaceAll c (List.range s.ntask) s).map fun s => (s.raise 197).showCores.releasePended.dispatchAll

/-- TSK.SELF as an initiator reads it. -/
def State.selfWord (s : State) (w : Who) : Nat :=
  match s.taskOf w with
  | none => 0
  | some t =>
    let r := s.task t
    2 ^ 31 + ofBool r.seasoning * 2 ^ 30 + ofBool r.subst * 2 ^ 29 + ofBool r.warn * 2 ^ 28 + t % 128 * 2 ^ 16 + r.inst % 2 ^ 16

end Sys2Proof.Machine
end

