-- ==== Sys2Proof/Machine/Adp.lean ====
section
/-! DEFINITION. The adaptive loops (05): AVS, DFS, LINK_EQ, DET_THRESH, PLACE, and the last-good records (R243 to R256). -/
namespace Sys2Proof.Machine

def Loop.avs : Nat := 0
def Loop.dfs : Nat := 1
def Loop.eq : Nat := 2
def Loop.thresh : Nat := 3
def Loop.place : Nat := 4

/-- The loop acts: it is enabled and not frozen (R249, R250). -/
def State.loopActs (s : State) (l : Nat) : Bool := s.flag Reg.adpEnable l && !s.flag Reg.adpFreeze l

/-- The loop's AT_LIMIT bit follows; reaching a limit raises source 96 (R251). -/
def State.setAtLimit (s : State) (l : Nat) (v : Bool) : State :=
  if v && !s.flag Reg.adpStatus (16 + l) then (s.setFlag Reg.adpStatus (16 + l) true).raise 96
  else s.setFlag Reg.adpStatus (16 + l) v

def State.vcoreMin (s : State) : Nat := u16 s.keepStruct 4
def State.vcoreMax (s : State) : Nat := u16 s.keepStruct 6
def State.avsMargin (s : State) : Int := (s.adpHalf 2 : Nat)
def State.request (s : State) (r : Nat) : Nat := s.fld (Reg.adpAvs r) 25 16
def State.margin (s : State) (r : Nat) : Int := s.adp.margins.get r
def State.temp (s : State) : Int := signed 16 (s.fld Reg.adpTemp 15 0)
def State.dfsReg (i : Nat) : Nat := if i = 0 then Reg.adpDfs0 else Reg.adpDfs1
def State.dfsMin (s : State) (i : Nat) : Nat := if i = 0 then s.adpHalf 4 else s.adpHalf 6

/-- A region requests a voltage. -/
def State.setRequest (s : State) (r mv : Nat) : State :=
  { s.setFld (Reg.adpAvs r) 25 16 mv with pwr := { s.pwr with requests := s.pwr.requests.set r mv } }

/-- The region stands at VCORE_MAX and wants more (R243). -/
def State.avsAtLimit (s : State) (r : Nat) : Bool :=
  s.request r == s.vcoreMax && decide (s.margin r < s.avsMargin - 10)

/-- The lowest request of a region: VCORE_MIN, and for a trimmed region 100 mV below the VCORE that the requests ask for (R70, R71). -/
def State.requestFloor (s : State) (r : Nat) : Nat :=
  let top := (List.range 5).foldl (fun m k => max m (s.request k)) 0
  if r = 4 then s.vcoreMin else max s.vcoreMin (clampNat (max 600 s.vcoreMin) (min 900 s.vcoreMax) (top + 20) - 100)

/-- The region's loops are held: a fenced region, and Control in STANDBY (R256). -/
def State.adpHolds (s : State) (r : Nat) : Bool := s.fenced r || (r == 0 && s.mode == Mode.standby)

/-- One region's AVS (R243). -/
def State.avsRegion (s : State) (r : Nat) (m : Int) : State :=
  let s := s.setFld (Reg.adpAvs r) 7 0 (unsigned 8 (clampInt (-128) 127 m))
  let s := { s with adp := { s.adp with margins := s.adp.margins.set r m } }
  if !s.loopActs Loop.avs || s.adpHolds r then s
  else
    let q := s.request r
    let n :=
      if m < s.avsMargin - 10 then min s.vcoreMax (q + 5)
      else if s.avsMargin + 20 < m then max (min q (s.requestFloor r)) (q - 5)
      else q
    if n = q then s else { s.setRequest r n with adp := { s.adp with avsQuiet := 0 } }

/-- R244, R668: the temperature of a region with DFS is above its limit. -/
def State.tempHigh (s : State) (region : Nat) : State :=
  s.detected { det := 0x1B, level := 3, loc := location region 0xFF 0, action := Act.none }

/-- R243: the millisecond's margins; AVS and DFS settle after 100 ms without a change. -/
def execAvsEvaluation (margins : List Int) (temp : Int) (s : State) : Reply :=
  let hot := decide (s.temp ≤ (s.adpByte 8 : Int) * 4) && decide ((s.adpByte 8 : Int) * 4 < temp)
  let s := s.setFld Reg.adpTemp 15 0 (unsigned 16 temp)
  let s := if hot then ([Region.control, Region.sense] : List Nat).foldl State.tempHigh s else s
  let s := { s with adp := { s.adp with avsQuiet := s.adp.avsQuiet + 1 } }
  let s := (List.range 5).foldl (fun s r => s.avsRegion r (margins.getD r 0)) s
  let s : State := if s.loopActs Loop.avs then
      s.setAtLimit Loop.avs ((List.range 5).any fun r =>
        s.avsAtLimit r || (s.request r == s.requestFloor r && decide (s.avsMargin + 20 < s.margin r)))
    else s
  .next (if 100 ≤ s.adp.avsQuiet then (s.setFlag Reg.adpStatus 8 false).setFlag Reg.adpStatus 9 false else s)

/-- One region's DFS (R244); `i` is 0 for Control and 1 for Sense. -/
def State.dfsRegion (s : State) (i : Nat) : State :=
  let r := if i = 0 then Region.control else Region.sense
  let q := s.adp.dfsQuiet.get i + 1
  let s := { s with adp := { s.adp with dfsQuiet := s.adp.dfsQuiet.set i (min 10 q) } }
  if !s.loopActs Loop.dfs || s.adpHolds r || decide (q < 10) then s
  else
    let f := s.fld (State.dfsReg i) 10 0
    let limit : Int := (s.adpByte 8 : Nat)
    let n :=
      if s.avsAtLimit r ∨ limit * 4 < s.temp then max (s.dfsMin i) (f - 100)
      else if s.avsMargin + 20 < s.margin r ∧ s.request r + 20 ≤ s.vcoreMax ∧ s.temp < (limit - 5) * 4 then min 1200 (f + 100)
      else f
    if n = f then s
    else { s.setFld (State.dfsReg i) 10 0 n with adp := { s.adp with dfsQuiet := s.adp.dfsQuiet.set i 0 } }

/-- R244. -/
def execDfsEvaluation (s : State) : Reply :=
  let s := (s.dfsRegion 0).dfsRegion 1
  let limit := fun i => s.fld (State.dfsReg i) 10 0 == s.dfsMin i || s.fld (State.dfsReg i) 10 0 == 1200
  .next (if s.loopActs Loop.dfs then s.setAtLimit Loop.dfs (limit 0 || limit 1) else s)

/-! ### LINK_EQ, DET_THRESH -/

def State.ctle (s : State) (l : Nat) : Nat := s.fld (Reg.adpEqLo l) 27 24
/-- Tap `k`, 1 to 5, of a lane. -/
def State.tap (s : State) (l k : Nat) : Int :=
  if k = 5 then signed 6 (s.fld (Reg.adpEqHi l) 5 0) else signed 6 (s.fld (Reg.adpEqLo l) (29 - 6 * k) (24 - 6 * k))
def State.setTap (s : State) (l k : Nat) (v : Int) : State :=
  if k = 5 then s.setFld (Reg.adpEqHi l) 5 0 (unsigned 6 v) else s.setFld (Reg.adpEqLo l) (29 - 6 * k) (24 - 6 * k) (unsigned 6 v)

/-- CTLE or a tap of some lane of the variant stands at a limit (R251). -/
def State.eqAtLimit (s : State) : Bool :=
  (List.range s.variant.lanes).any fun l =>
    s.ctle l == 0 || s.ctle l == s.adpByte 0x11 || (List.range 5).any fun k => s.tap l (k + 1) == -32 || s.tap l (k + 1) == 31

/-- One code of a lane's CTLE and taps along the signs of the error, within their limits. -/
def State.eqStep (s : State) (lane : Nat) (ctle : Int) (taps : List Int) : State :=
  let sign := fun (x : Int) => clampInt (-1) 1 x
  let s := s.setFld (Reg.adpEqLo lane) 27 24 (clampInt 0 (s.adpByte 0x11) ((s.ctle lane : Int) + sign ctle)).toNat
  (List.range 5).foldl (fun s k => s.setTap lane (k + 1) (clampInt (-32) 31 (s.tap lane (k + 1) + sign (taps.getD k 0)))) s

/-- R249 to R251: a microsecond of received data; a frozen LINK_EQ measures but does not step. It settles after 1 s, a million updates, of the
lane being up. -/
def execLinkEqUpdate (lane : Nat) (ctle : Int) (taps : List Int) (s : State) : Reply :=
  if s.variant.lanes ≤ lane ∨ s.fenced Region.link = true ∨ s.flag Reg.adpEnable Loop.eq = false then .next s
  else
    let n := min 1000000 (s.adp.eqUpdates.get lane + 1)
    let s := { s with adp := { s.adp with eqUpdates := s.adp.eqUpdates.set lane n } }
    let s := if n = 1000000 then s.setFlag Reg.adpStatus (8 + Loop.eq) false else s
    if s.loopActs Loop.eq then
      let s := s.eqStep lane ctle taps
      .next (s.setAtLimit Loop.eq s.eqAtLimit)
    else .next s

/-- The scale of a fusion gate in sixteenths. -/
def State.gateScale (s : State) (g : Nat) : Nat := 16 + s.adp.gates.get g

/-- DET_THRESH settles after 64 frames of every gate. -/
def State.settleGates (s : State) : State :=
  if s.flag Reg.adpEnable Loop.thresh && (List.range s.ngraph).all fun g => s.adp.gateFrames.get g == 64 then
    s.setFlag Reg.adpStatus (8 + Loop.thresh) false
  else s

/-- R246, R250: a frame of a gate: the mean of its samples' innovations over their degrees of freedom joins those of the last 64 frames, whose
mean is the scale, to the nearest sixteenth within 1 and GATE_SCALE_MAX (DESIGN CHOICE, log entry 82). A frame without a sample changes nothing. -/
def State.observeGate (s : State) (g : Nat) (nis : List Fp) : State :=
  if nis.isEmpty ∨ s.flag Reg.adpEnable Loop.thresh = false then s
  else
    let window := (meanFp nis :: s.adp.gateNis.get g).take 64
    let frames := min 64 (s.adp.gateFrames.get g + 1)
    let s := { s with adp := { s.adp with gateNis := s.adp.gateNis.set g window, gateFrames := s.adp.gateFrames.set g frames } }.settleGates
    if s.loopActs Loop.thresh then
      let scale := (D.add (D.mul (meanFp window) (D.ofNat 16)) D.half).floorNat
      { s with adp := { s.adp with gates := s.adp.gates.set g (clampNat 16 (max 16 (s.adpByte 0x10)) scale - 16) } }
    else s

/-- R246: every 100 ms the monitor thresholds are compensated for the die temperature, and the loop's AT_LIMIT bit follows the gate scales,
which each frame sets (`State.observeGate`). -/
def execDetThreshUpdate (temp : Int) (s : State) : Reply :=
  let s := (s.setFld Reg.adpTemp 15 0 (unsigned 16 temp)).settleGates
  if s.loopActs Loop.thresh then
    let s := { s with adp := { s.adp with threshTemp := temp } }
    .next (s.setAtLimit Loop.thresh ((List.range s.ngraph).any fun g => s.gateScale g == 16 || s.gateScale g == max 16 (s.adpByte 0x10)))
  else .next s

/-! ### PLACE (R247, R248, R343) -/

/-- The core with the lowest, and with the highest slack. -/
def bestCore (better : Nat → Nat → Bool) (slacks : List Nat) : List Nat → Option Nat
  | [] => none
  | c :: cs =>
    match bestCore better slacks cs with
    | none => some c
    | some d => if better (slacks.getD d 0) (slacks.getD c 0) then some d else some c

/-- The task the loop marks, with its destination (05, PLACE). -/
def State.placeChoice (s : State) (slacks utils : List Nat) : Option (Nat × Nat) :=
  let cores := (List.range 8).filter s.takesTasks
  let low := s.adpByte 0x0A
  match bestCore (fun a b => decide (a < b)) slacks cores, bestCore (fun a b => decide (b < a)) slacks cores with
  | some src, some dst =>
    if slacks.getD src 0 < low ∧ s.adpByte 0x0B < slacks.getD dst 0 ∧ src ≠ dst ∧ s.tasksOn dst < 32 then
      let ts := (List.range s.ntask).filter fun t =>
        let d := s.taskDef t
        !d.event && (s.task t).core == src && bit d.elig dst && !bit d.flags 1 && (s.task t).moved == 0 &&
          s.programMode d.prog != Program.hold && decide (low + utils.getD t 0 ≤ slacks.getD dst 0)
      (bestCore (fun a b => decide (b < a)) utils ts).map fun t => (t, dst)
    else none
  | _, _ => none

/-- PLACE_DWELL in PLACE intervals. -/
def State.dwellIntervals (s : State) : Nat := (s.adpHalf 0x0C + s.adpHalf 0x0E - 1) / max 1 (s.adpHalf 0x0E)

/-- R247: at most one task is marked to move. -/
def execPlaceEvaluation (slacks utils : List Nat) (s : State) : Reply :=
  if !s.tskRuns then .next s
  else
    let s := (List.range s.ntask).foldl (fun s t => s.setTask t { s.task t with moved := (s.task t).moved - 1 }) s
    if s.loopActs Loop.place && !((List.range s.ntask).any fun t => (s.task t).move.isSome) then
      match s.placeChoice slacks utils with
      | some (t, dst) => .next ((s.setTask t { s.task t with move := some dst }).showTask t)
      | none => .next s
    else .next s

/-- R247: the copy is finished between completion and release: the task moves. -/
def execTaskMove (task : Nat) (s : State) : Reply :=
  let r := s.task task
  match r.move with
  | none => .next s
  | some dst =>
    if r.live ∨ s.tskRuns = false ∨ s.programMode (s.taskDef task).prog = Program.hold ∨ s.takesTasks dst = false ∨
        32 ≤ s.tasksOn dst then .next s
    else
      let s := s.moveTask task dst
      let s := s.setTask task { s.task task with moved := s.dwellIntervals }
      let s := ((s.bump Reg.adpPlace 31 16 1).setFld Reg.adpPlace 14 8 task).setFld Reg.adpPlace 7 0 (16 * r.core + dst)
      .next (s.raise 98)

/-! ### Last-good records (R252 to R256) -/

/-- The newest of `n` stored records of `len` bytes from `base` by SEQ, among those whose CRC is correct (R706). -/
def State.newestRecord (s : State) (base len : Nat) : List Nat → Option (List Byte)
  | [] => none
  | k :: ks =>
    let r := s.bytes (base + len * k) len
    let rest := s.newestRecord base len ks
    if u32 r 4 = crc32 (r.drop 8) then
      match rest with
      | none => some r
      | some q => if seqNewer 32 (u32 q 0) (u32 r 0) then some q else some r
    else rest

def State.lastGoodBase (s : State) : Nat := Addr.records s.variant + 0x1000
def State.lastGood (s : State) : Option (List Byte) := s.newestRecord s.lastGoodBase 256 (List.range 16)

/-- The core nibble of a task in the record. -/
def State.placeNibble (s : State) (t : Nat) : Nat := if t < s.ntask then (s.task t).core else 0xF

/-- The bytes of loop `l`'s part of a record, as ADP holds them. -/
def State.eqBytes (s : State) : List Byte :=
  (List.range 4).flatMap fun l =>
    leBytes 1 (s.ctle l) ++ ((List.range 5).flatMap fun k => leBytes 1 (unsigned 8 (s.tap l (k + 1)))) ++ [0#8, 0#8]

/-- A record of the present values; a COLD loop keeps its values and VALID bit of the previous one (R252). -/
def State.lastGoodRecord (s : State) (seq : Nat) : List Byte :=
  let prev := (s.lastGood).getD (List.replicate 256 0#8)
  let cold := fun l => s.flag Reg.adpStatus (8 + l)
  let part := fun l (now old : List Byte) => if cold l then old else now
  let valid := (List.range 5).foldl (fun m l => if (if cold l then bit (u16 prev 0xA) l else true) then setBit m l else m) 0
  let avs := (List.range 5).flatMap fun r => leBytes 2 (s.request r)
  let dfs := leBytes 2 (s.fld Reg.adpDfs0 10 0) ++ leBytes 2 (s.fld Reg.adpDfs1 10 0)
  let body := leBytes 2 (unsigned 16 s.temp) ++ leBytes 2 valid ++ leBytes 4 (s.num Reg.blkGen) ++
    ((List.range 4).flatMap fun r => leBytes 4 (s.num (Reg.blkRgen0 + 4 * r))) ++ part 0 avs (slice prev 0x20 10) ++ [0#8, 0#8] ++
    part 1 dfs (slice prev 0x2C 4) ++ List.replicate 16 0#8 ++ part 2 s.eqBytes (slice prev 0x40 32) ++
    part 3 ((List.range 64).map fun g => BitVec.ofNat 8 (s.gateScale g)) (slice prev 0x60 64) ++
    ((List.range 64).map fun k => BitVec.ofNat 8 (s.placeNibble (2 * k) + 16 * s.placeNibble (2 * k + 1))) ++ List.replicate 32 0#8
  leBytes 4 seq ++ leBytes 4 (crc32 body) ++ body

/-- ADP stores a record (R252), not while a FREEZE bit is set; source 99 rises. -/
def State.storeLastGood (s : State) : State :=
  if s.num Reg.adpFreeze % 32 ≠ 0 then s
  else
    let seq := match s.lastGood with
      | some r => (u32 r 0 + 1) % 2 ^ 32
      | none => 0
    let r := s.lastGoodRecord seq
    ((s.engineWrite (engineWho Init.warden) (s.lastGoodBase + 256 * (seq % 16)) r).setNum Reg.adpLastgood seq).raise 99

/-- R252: STORE_PERIOD has passed. -/
def execLastGoodStore (s : State) : Reply := .next (if Mode.mount < s.mode then s.storeLastGood else s)

/-- R262: a keyed write of ADP.STORE. -/
def execAdpStore (who : Who) (value : Word) (s : State) : Reply :=
  .next (s.gated who Reg.adpStore value fun s =>
    if field value 31 16 = 0x4C47 ∧ bit value.toNat 0 = true then s.storeLastGood else s)

/-- The cold default of a region's AVS and DFS (the table after R254). -/
def State.coldRegion (s : State) (r : Nat) : State :=
  let s := s.setRequest r s.vcoreMax
  let f := fun i => if 850 ≤ s.vcoreMax then 1200 else s.dfsMin i
  if r = 0 then s.setFld Reg.adpDfs0 10 0 (f 0) else if r = 2 then s.setFld Reg.adpDfs1 10 0 (f 1) else s

/-- The cold default of LINK_EQ and of the gate scales. -/
def State.coldEq (s : State) : State :=
  (List.range 4).foldl (fun s l => (s.setNum (Reg.adpEqLo l) (s.adpByte 0x11 / 2 * 2 ^ 24)).setNum (Reg.adpEqHi l) 0) s
def State.coldGates (s : State) : State := { s with adp := { s.adp with gates := Tab.empty, threshTemp := s.temp } }

/-- The first eligible core of each task: PLACE's cold default (R249). -/
def State.initialCore (s : State) (t : Nat) : Nat :=
  ((List.range 8).find? fun c => bit (s.taskDef t).elig c && s.takesTasks c).getD 0
def State.coldPlace (s : State) : State :=
  (List.range s.ntask).foldl (fun s t => (s.setTask t { s.task t with core := s.initialCore t, move := none }).showTask t) s

/-- The record R253 allows: the newest, unless the temperature differs by more than 20 degrees; the second part says that
temperature decided. -/
def State.usableRecord (s : State) : Option (List Byte) × Bool :=
  match s.lastGood with
  | none => (none, false)
  | some r => if 80 < (i16 r 8 - s.temp).natAbs then (none, true) else (some r, false)

/-- A loop takes its part of a record: it is enabled (R249) and its VALID bit is 1 (R254). -/
def State.restores (s : State) (rec : List Byte) (l : Nat) : Bool := s.flag Reg.adpEnable l && bit (u16 rec 0xA) l

/-- AVS and DFS of a region from a record, or their cold defaults (R254). -/
def State.restoreRegion (s : State) (rec : List Byte) (r : Nat) : State :=
  let s := s.coldRegion r
  let s := if s.restores rec Loop.avs then s.setRequest r (u16 rec (0x20 + 2 * r)) else s
  if !s.restores rec Loop.dfs then s
  else if r = 0 then s.setFld Reg.adpDfs0 10 0 (u16 rec 0x2C)
  else if r = 2 then s.setFld Reg.adpDfs1 10 0 (u16 rec 0x2E)
  else s

/-- The outputs of AVS and DFS in a region, which a frozen loop holds (R250). -/
def State.keepFrozen (s : State) (old : State) (r : Nat) : State :=
  let s := if s.flag Reg.adpFreeze Loop.avs then s.setRequest r (old.request r) else s
  if s.flag Reg.adpFreeze Loop.dfs && (r == 0 || r == 2) then s.setFld (State.dfsReg (r / 2)) 10 0 (old.fld (State.dfsReg (r / 2)) 10 0) else s

/-- The loops start to operate: COLD as far as they are enabled (05, "Last-good values"). -/
def State.markCold (s : State) (loops : List Nat) : State :=
  let s := loops.foldl (fun s l => s.setFlag Reg.adpStatus (8 + l) (s.flag Reg.adpEnable l)) s
  { s with adp := { s.adp with avsQuiet := 0 } }

/-- A record was used (ADP.STATUS.RESTORED, ADP.LASTGOOD), or none was: by temperature, or because there is none (R253). -/
def State.noteRecord (s : State) (rec : List Byte) : State :=
  ((s.setFlag Reg.adpStatus 0 true).setFlag Reg.adpStatus 1 false).setNum Reg.adpLastgood (u32 rec 0)
def State.noteCold (s : State) (byTemp : Bool) : State := (s.setFlag Reg.adpStatus 1 byTemp).raise 97

/-- A re-admitted region takes its AVS and DFS values under R253 and R254 (R255, R260). -/
def State.adpTakeRegion (s : State) (r : Nat) : State :=
  let t := match s.usableRecord with
    | (some rec, _) => (s.restoreRegion rec r).noteRecord rec
    | (none, byTemp) => (s.coldRegion r).noteCold byTemp
  (t.keepFrozen s r).markCold [Loop.avs, Loop.dfs]

/-- EQ, GATES and PLACE from a record (R254). -/
def State.restoreRest (s : State) (rec : List Byte) : State :=
  let same := fun r => u32 rec (0x10 + 4 * r) == s.num (Reg.blkRgen0 + 4 * r)
  let gen := u32 rec 0xC == s.num Reg.blkGen
  let s := s.coldEq.coldGates.coldPlace
  let s := if s.restores rec Loop.eq && same 3 then
      (List.range 4).foldl (fun s l =>
        let s := s.setFld (Reg.adpEqLo l) 27 24 (u8 rec (0x40 + 8 * l))
        (List.range 5).foldl (fun s k => s.setTap l (k + 1) (i8 rec (0x41 + 8 * l + k))) s) s
    else s
  let s := if s.restores rec Loop.thresh && gen && same 2 then
      { s with adp := { s.adp with gates := (List.range 64).foldl (fun (m : Tab Nat) g => m.set g (u8 rec (0x60 + g) - 16)) Tab.empty } }
    else s
  if s.restores rec Loop.place && gen && same 0 then
    (List.range s.ntask).foldl (fun s t =>
      let n := u8 rec (0xA0 + t / 2) / (if t % 2 = 0 then 1 else 16) % 16
      if n = 0xF ∨ bit (s.taskDef t).elig n = false then s
      else (s.setTask t { s.task t with core := n }).showTask t) s
  else s

/-- R253, R254: at the end of MOUNT ADP takes the newest record, or every loop starts from its cold default. -/
def State.adpRestore (s : State) : State :=
  let s := s.markCold [Loop.avs, Loop.dfs, Loop.eq, Loop.thresh]
  match s.usableRecord with
  | (some rec, _) => (((List.range 5).foldl (fun s r => s.restoreRegion rec r) s).restoreRest rec).noteRecord rec
  | (none, byTemp) => (((List.range 5).foldl State.coldRegion s).coldEq.coldGates.coldPlace).noteCold byTemp

/-- R252, R256: at the entry to STANDBY a record is stored, Control's values are held, and the temperature is kept. -/
def State.adpStandby (s : State) : State :=
  let s := s.storeLastGood
  { s with adp := { s.adp with standbyTemp := some s.temp } }

/-- R256: after a takeover Control starts from its cold default if the temperature moved by more than 20 degrees; what is frozen is held (R250).
PLACE starts from initial cores (`State.placeInitially`). -/
def State.adpTakeover (s : State) : State :=
  let moved := match s.adp.standbyTemp with
    | some t => decide (80 < (t - s.temp).natAbs)
    | none => false
  let s := if moved then ((s.coldRegion 0).keepFrozen s 0).raise 97 else s
  { s with adp := { s.adp with standbyTemp := none } }

end Sys2Proof.Machine
end

