-- ==== Sys2Proof/Machine/CheckBase.lean ====
section
/-! DEFINITION. What the checks of a section are built from (03, "Verification checks"): a list of conditions, each with the byte
offset in the body that fails with it. -/
namespace Sys2Proof.Machine

/-- A failing place: section index and byte offset in the body. -/
abbrev Place := Nat × Nat

/-- Conditions with the offsets they judge. -/
abbrev Conds := List (Bool × Nat)

/-- The offset of the first condition that fails. -/
def firstBad : Conds → Option Nat
  | [] => none
  | (ok, o) :: r => if ok then firstBad r else some o

/-- `n` reserved bytes at `off` are 0 (R121). -/
def reserved (b : List Byte) (off n : Nat) : Conds := (List.range n).map fun k => (u8 b (off + k) == 0, off + k)

/-- Inclusive ranges of fields of 1, 2 and 4 bytes, and of a signed one. -/
def in8 (b : List Byte) (off lo hi : Nat) : Conds := [(decide (lo ≤ u8 b off) && decide (u8 b off ≤ hi), off)]
def in16 (b : List Byte) (off lo hi : Nat) : Conds := [(decide (lo ≤ u16 b off) && decide (u16 b off ≤ hi), off)]
def in32 (b : List Byte) (off lo hi : Nat) : Conds := [(decide (lo ≤ u32 b off) && decide (u32 b off ≤ hi), off)]

/-- The body has exactly this length. -/
def bodyIs (b : List Byte) (n : Nat) : Conds := [(b.length == n, 0)]

/-- The next multiple of 16. -/
def pad16 (n : Nat) : Nat := (n + 15) / 16 * 16

/-- An FP32 field is finite; is finite and above 0; is finite and not below 0. -/
def fpField (b : List Byte) (off : Nat) : Fp := f32.decode (u32 b off)
def fpFinite (b : List Byte) (off : Nat) : Conds := [(u32 b off / 2 ^ 23 % 256 != 255, off)]
def fpPositive (b : List Byte) (off : Nat) : Conds :=
  [(u32 b off / 2 ^ 23 % 256 != 255 && decide (u32 b off < 2 ^ 31) && u32 b off != 0, off)]
def fpNotNegative (b : List Byte) (off : Nat) : Conds :=
  [(u32 b off / 2 ^ 23 % 256 != 255 && (decide (u32 b off < 2 ^ 31) || u32 b off == 2 ^ 31), off)]

/-- An area of memory: address and length. -/
abbrev Area := Nat × Nat
/-- Areas of which neither is empty overlap. -/
def Area.meets (a c : Area) : Bool := decide (0 < a.2) && decide (0 < c.2) && decide (a.1 < c.1 + c.2) && decide (c.1 < a.1 + a.2)
/-- No two areas of a list overlap. -/
def apart : List Area → Bool
  | [] => true
  | a :: r => r.all (fun c => !Area.meets a c) && apart r
def Area.within (a : Area) (lo n : Nat) : Bool := decide (lo ≤ a.1) && decide (a.1 + a.2 ≤ lo + n)
/-- The area lies in Stock. -/
def Area.inStock (v : Variant) (a : Area) : Bool := Area.within a Addr.stock v.stockBytes
/-- Bytes of usable LPDDR5: seven eighths of CAP GB of the DDR entry of Link STRUCT (01). -/
def usableDdr (cfg : List Section) (v : Variant) : Nat :=
  if v.hasDdr then 7 * 2 ^ 27 * u8 (bodyOf cfg Ty.struct Region.link 0) 0x480 else 0
def Area.inDdr (cfg : List Section) (v : Variant) (a : Area) : Bool := Area.within a Addr.ddr (usableDdr cfg v)
def Area.inStockOrDdr (cfg : List Section) (v : Variant) (a : Area) : Bool := Area.inStock v a || Area.inDdr cfg v a
/-- The fault ring (R672) and the process image. -/
def faultRing : Area := (Addr.stock, 0x8000)
def imageArea (cfg : List Section) : Area :=
  let b := bodyOf cfg Ty.task Region.control 0
  (Addr.stock + u32 b 4, 8 * u16 b 2)

/-- An area a section may place: in Stock or the usable LPDDR5, clear of the fault ring (R672). -/
def Area.placeable (cfg : List Section) (v : Variant) (a : Area) : Bool := Area.inStockOrDdr cfg v a && !Area.meets a faultRing
def Area.placeableInStock (v : Variant) (a : Area) : Bool := Area.inStock v a && !Area.meets a faultRing

/-- The comparator of a spindle that the SPINDLE section assigns to a consumer. -/
def assignedTo (cfg : List Section) (n c consumer : Nat) : Bool :=
  let b := bodyOf cfg Ty.spindle Region.sense 0
  (List.range (u16 b 0)).any fun k =>
    u8 b (comparatorEntry k) == n && u8 b (comparatorEntry k + 1) == c && u8 b (comparatorEntry k + 2) == consumer
/-- OFFSET, DIV and MULT of an assigned comparator. -/
def assignedAs (cfg : List Section) (n c : Nat) : Nat × Nat × Nat :=
  let b := bodyOf cfg Ty.spindle Region.sense 0
  match (List.range (u16 b 0)).find? fun k => u8 b (comparatorEntry k) == n && u8 b (comparatorEntry k + 1) == c with
  | some k => (u32 b (comparatorEntry k + 4), u16 b (comparatorEntry k + 8), u16 b (comparatorEntry k + 0xA))
  | none => (0, 0, 0)
/-- SRC of a spindle in a configuration. -/
def sourceIn (cfg : List Section) (n : Nat) : Nat :=
  match findSection Ty.spindle Region.sense 0 cfg with
  | some x => u8 x.body (spindleEntry n)
  | none => 7
def hasType (cfg : List Section) (type region : Nat) : Bool := (findSection type region 0 cfg).isSome

/-- R382, R414: comparator `c` of spindle `n` fires at most `hz` times a second. -/
def firesAtMost (cfg : List Section) (n c hz : Nat) : Bool :=
  let b := bodyOf cfg Ty.spindle Region.sense 0
  let (_, div, mult) := assignedAs cfg n c
  if sourceIn cfg n = Src.time then decide (1000000000 * max 1 div ≤ hz * u32 b (spindleEntry n + 8) * max 1 mult)
  else decide (u32 b (spindleEntry n + 0x24) * max 1 div ≤ hz * 65536 * max 1 mult)

/-- No value of a list occurs twice. -/
def distinct (xs : List Nat) : Bool := xs.eraseDups.length == xs.length

end Sys2Proof.Machine
end

