-- ==== Sys2Proof/Machine/CleMath.lean ====
section
/-! DEFINITION. The arithmetic of the control-law engine (09): the operators S and R, the block types and the PID (R378 to R381, R398). -/
namespace Sys2Proof.Machine

/-- S(a, k, s) = floor(a × k × 2^s + 1/2), exactly (R379). -/
def cleS (a k s : Int) : Int :=
  if 0 ≤ s then a * k * 2 ^ s.toNat else (2 * (a * k) + 2 ^ (-s).toNat) / (2 * 2 ^ (-s).toNat)

/-- R(x, f, g): from FRAC f to FRAC g. -/
def cleR (x : Int) (f g : Nat) : Int := sat32 (cleS x 1 ((g : Int) - f))

/-- A block as the section wires it: type, operands, FRAC, FLAGS. -/
structure BlockDef where
  type : Nat
  a : Nat
  b : Nat
  c : Nat
  frac : Nat
  flags : Nat
  deriving DecidableEq, Repr

def CleBlock.kOf (q : CleBlock) (i : Nat) : Int := q.k.getD i 0
def CleBlock.sOf (q : CleBlock) (i : Nat) : Int := q.s.getD i 0
/-! ### Places in the LOOP section -/

def loopEntry (l : Nat) : Nat := 32 + 448 * l
def blockEntry (l b : Nat) : Nat := loopEntry l + 0x40 + 48 * b
def groupEntry (body : List Byte) (g : Nat) : Nat := 32 + 448 * u16 body 0 + 16 * g

/-- The operands a block type uses. -/
def BlockDef.operands (d : BlockDef) : List Nat :=
  if d.type = 2 ∨ d.type = 8 ∨ (d.type = 5 ∧ d.flags % 4 = 2) then [d.a, d.b, d.c]
  else if d.type = 5 then [d.a, d.b]
  else [d.a]

/-- Types that use LO and HI. -/
def usesLimits (type : Nat) : Bool := type == 3 || type == 4 || type == 8

/-- One term of a sum: S(x, K_i, S_i). -/
def CleBlock.term (q : CleBlock) (x : Int) (i : Nat) : Int := cleS x (q.kOf i) (q.sOf i)

/-- What an execution computes with: inputs, set-points, the readback, if there is one that was written, with the FRAC of each,
the blocks as they stand, and whether it is a first execution. -/
structure CleInput where
  ins : List Int
  inFrac : List Nat
  set : List Int
  setFrac : List Nat
  rb : Int
  rbFrac : Nat
  rbUsed : Bool
  rbWritten : Bool
  first : Bool
  defs : List BlockDef
  blocks : List CleBlock
  deriving Repr

/-- The value of an operand, `outs` being the outputs of the blocks below. -/
def CleInput.operand (i : CleInput) (outs : List Int) (code : Nat) : Int :=
  if code < 4 then i.ins.getD code 0
  else if 0x10 ≤ code ∧ code < 0x18 then outs.getD (code - 0x10) 0
  else if 0x20 ≤ code ∧ code < 0x28 then (if i.first then 0 else ((i.blocks.getD (code - 0x20) default).out))
  else if 0x30 ≤ code ∧ code < 0x34 then i.set.getD (code - 0x30) 0
  else if code = 0x40 then i.rb
  else 0

/-- The FRAC of an operand; ZERO has that of the block. -/
def CleInput.operandFrac (i : CleInput) (code frac : Nat) : Nat :=
  if code < 4 then i.inFrac.getD code 0
  else if 0x10 ≤ code ∧ code < 0x18 then (i.defs.getD (code - 0x10) ⟨0, 0, 0, 0, frac, 0⟩).frac
  else if 0x20 ≤ code ∧ code < 0x28 then (i.defs.getD (code - 0x20) ⟨0, 0, 0, 0, frac, 0⟩).frac
  else if 0x30 ≤ code ∧ code < 0x34 then i.setFrac.getD (code - 0x30) 0
  else if code = 0x40 then i.rbFrac
  else frac

/-- The result of a block: its output, the block with its new history, and of a PID v, e and w without a group. -/
structure BlockResult where
  y : Int
  block : CleBlock
  pid : Option (Int × Int × Int)
  deriving Repr

def cleClamp (q : CleBlock) (x : Int) : Int := min (max x q.lo) q.hi

/-- One block (09, "Block types"; first-execution history R398). -/
def CleInput.eval (i : CleInput) (d : BlockDef) (q : CleBlock) (outs : List Int) : BlockResult :=
  let a := i.operand outs d.a
  let b := i.operand outs d.b
  let c := i.operand outs d.c
  let done := fun (y : Int) => { y := y, block := { q with out := y }, pid := none : BlockResult }
  match d.type with
  | 1 => done (sat32 (q.term a 0))
  | 2 => done (sat32 (q.term a 0 + q.term b 1 + q.term c 2))
  | 3 => done (cleClamp q a)
  | 4 =>
    let y1 := if i.first then a else q.out
    done (y1 + min (max (a - y1) q.lo) q.hi)
  | 5 => done (if d.flags % 4 = 0 then min a b else if d.flags % 4 = 1 then max a b else if c ≠ 0 then a else b)
  | 6 =>
    let x1 := if i.first then a else q.x1
    let y1 := if i.first then cleR a (i.operandFrac d.a d.frac) d.frac else q.y1
    let y := sat32 (q.term a 0 + q.term x1 1 + q.term y1 2)
    { y := y, block := { q with x1 := a, x2 := x1, y1 := y, y2 := y1, out := y }, pid := none }
  | 7 =>
    let r := cleR a (i.operandFrac d.a d.frac) d.frac
    let x1 := if i.first then a else q.x1
    let x2 := if i.first then a else q.x2
    let y1 := if i.first then r else q.y1
    let y2 := if i.first then r else q.y2
    let y := sat32 (q.term a 0 + q.term x1 1 + q.term x2 2 + q.term y1 3 + q.term y2 4)
    { y := y, block := { q with x1 := a, x2 := x1, y1 := y, y2 := y1, out := y }, pid := none }
  | 8 =>
    let e := sat32 (a - b)
    let dpv := bit d.flags 0
    let diff := if i.first then 0 else if dpv then -(b - q.prev) else e - q.prev
    let p := q.term e 0
    let integ :=
      if !i.first then q.integ
      else if bit d.flags 1 && i.rbUsed && i.rbWritten then (cleR i.rb i.rbFrac d.frac - p) * 65536
      else q.kOf 4 * 65536
    let v := sat32 (p + (2 * integ + 65536) / 131072 + q.term diff 2)
    let u := cleClamp q v
    { y := u, block := { q with integ := integ, prev := if dpv then b else e, out := u },
      pid := some (v, e, if d.c = 0xFF then u else c) }
  | _ => done 0

/-- The blocks in ascending number (R378): outputs, new blocks, and the PIDs. -/
def CleInput.run (i : CleInput) : List Int × List CleBlock × List (Nat × Int × Int × Int) :=
  ((i.defs.zip i.blocks).zipIdx).foldl (fun acc d =>
    let r := i.eval d.1.1 d.1.2 acc.1
    (acc.1 ++ [r.y], acc.2.1 ++ [r.block],
      match r.pid with
      | some (v, e, w) => acc.2.2 ++ [(d.2, v, e, w)]
      | none => acc.2.2)) ([], [], [])

/-- The integrator of a PID after w is known (09, "The PID block"). -/
def CleBlock.integrate (q : CleBlock) (v e w : Int) : CleBlock :=
  let i := q.integ + cleS e (q.kOf 1) (q.sOf 1 + 16) + cleS (w - v) (q.kOf 3) (q.sOf 3 + 16)
  { q with integ := min (max i (q.lo * 65536)) (q.hi * 65536) }

/-- The blocks of an execution that wrote its outputs, `winner` giving w to the PID block a group compares (R381, R397). -/
def CleRun.settle (r : CleRun) (winner : Option (Nat × Int)) : List CleBlock :=
  (r.blocks.zipIdx).map fun q =>
    match r.pids.find? fun p => p.1 == q.2 with
    | none => q.1
    | some (b, v, e, w) =>
      let w := match winner with
        | some (wb, x) => if wb = b then x else w
        | none => w
      q.1.integrate v e w

end Sys2Proof.Machine
end

