-- ==== Sys2Proof/Machine/CheckControl.lean ====
section
/-! DEFINITION. Checks 10 and 11 of the Control sections: Control STRUCT (03, 13, 16), TASK (08), LOOP (09). -/
namespace Sys2Proof.Machine

/-! ### Control STRUCT: R120, R534, R535 -/

/-- The channel entry of a Latch channel in a configuration; empty beyond NCH. -/
def latchAt (cfg : List Section) (c : Nat) : List Byte :=
  let b := bodyOf cfg Ty.latch Region.keep 0
  if c < u8 b 0 then slice b (latchEntry c) 48 else []
/-- The part's own set: SETID of the HINGE section, else the node (R489). -/
def setidOf (cfg : List Section) (node : Nat) : Nat :=
  match findSection Ty.hinge Region.keep 0 cfg with
  | some x => u16 x.body 4 % 2 ^ 14
  | none => node

/-- 0.06 as FP32 holds it: the least VSTART (13, DEDUCED). -/
def leastStart : Fp := f32.decode 0x3D75C28F

def axisConds (cfg : List Section) (node : Nat) (b : List Byte) (n : Nat) : Conds :=
  let o := axisEntry n
  if u8 b o = 0 then reserved b o 64
  else
    let out := u8 b (o + 1)
    let src := u8 b (o + 2)
    let lch := latchAt cfg (u8 b (o + 4))
    let f := fun k => fpField b (o + k)
    in8 b o 1 1 ++ in8 b (o + 1) 0 1 ++ in8 b (o + 2) 0 1 ++ in8 b (o + 3) 0 31 ++
      [(if out = 0 ∧ src = 0 then u8 b (o + 4) == 0xFF else decide (u8 b (o + 4) < 64), o + 4)] ++ reserved b (o + 5) 1 ++
      in8 b (o + 6) 10 250 ++ in8 b (o + 7) 1 100 ++ (List.range 6).flatMap (fun k => fpFinite b (o + 8 + 4 * k)) ++
      [(leastStart.le (f 8), o + 8), ((f 8).le (f 0x1C), o + 0x1C), ((f 0x1C).le (f 0x18), o + 0x18), ((f 0x18).le (f 0xC), o + 0xC),
       ((f 0xC).le (Fp.ofInt f64 2000000), o + 0xC), ((f 0x10).isPos, o + 0x10),
       (if bit (u8 b (o + 3)) 4 then (f 0x14).isPos else u32 b (o + 0x14) == 0, o + 0x14),
       ((Fp.mul f64 .near (Fp.ofInt f64 (8 * u8 b (o + 6) : Nat)) (f 0xC)).le (Fp.ofInt f64 1000000000), o + 6),
       (decide (i32 b (o + 0x20) < i32 b (o + 0x24)), o + 0x24),
       (decide (i32 b (o + 0x20) ≤ i32 b (o + 0x28)) && decide (i32 b (o + 0x28) ≤ i32 b (o + 0x24)), o + 0x28)] ++
      in32 b (o + 0x2C) 1 (2 ^ 31) ++ in16 b (o + 0x32) 0 10000 ++ in8 b (o + 0x34) 1 255 ++ in8 b (o + 0x35) 0 (u8 b (o + 0x34)) ++
      (if out = 1 then in16 b (o + 0x36) 100 10000 else reserved b (o + 0x36) 2) ++ reserved b (o + 0x38) 8 ++
      [(src == 0 || (u8 lch 0 == 1 && u8 lch 1 == 2 && u16 lch 0x14 == n && u16 lch 4 % 2 ^ 14 == setidOf cfg node), o + 2),
       (out == 0 || (u8 lch 0 == 1 && u8 lch 2 == 2 && decide (u16 b (o + 0x36) ≤ u32 lch 0x10)), o + 1)]

/-- Group entries: at least two used axes, none in two groups, none with OUT LATCH. -/
def axisGroupConds (b : List Byte) (g : Nat) : Conds :=
  let o := 0x440 + 16 * g
  let ns := bitsOf (u16 b o) 16
  let others := (List.range 4).filter (· != g)
  [(ns.isEmpty || decide (2 ≤ ns.length), o), (ns.all fun n => u8 b (axisEntry n) == 1 && u8 b (axisEntry n + 1) == 0, o),
   (others.all fun h => u16 b (0x440 + 16 * h) &&& u16 b o == 0, o)] ++ reserved b (o + 2) 14

/-- Mailbox storage of a channel in use. -/
def mailStore (b : List Byte) (c : Nat) : Area := (Addr.stock + u32 b (channelEntry c + 8), if bit (u8 b (channelEntry c + 5)) 0 then 80 else 0)

def channelConds (v : Variant) (b : List Byte) (c : Nat) : Conds :=
  let o := channelEntry c
  if bit (u8 b (o + 5)) 0 = false then reserved b o 16
  else
    [(decide (u8 b (o + 4) < 32) || u8 b (o + 4) == 0xFF, o + 4)] ++ in8 b (o + 5) 0 3 ++ reserved b (o + 6) 2 ++
      [(u32 b (o + 8) % 16 == 0 && Area.placeableInStock v (mailStore b c), o + 8)] ++ reserved b (o + 0xC) 4

def controlStructValue (cfg : List Section) (v : Variant) (node : Nat) (b : List Byte) : Conds :=
  bodyIs b 0xA80 ++ in8 b 0 0 15 ++ reserved b 1 63 ++ (List.range 16).flatMap (axisConds cfg node b) ++
    (List.range 4).flatMap (axisGroupConds b) ++ (List.range 64).flatMap (channelConds v b) ++
    [(apart ((List.range 64).map (mailStore b)), channelEntry 0 + 8)] ++ (List.range 64).flatMap fun d => reserved b (doorbellEntry d + 4) 4

def controlStructAbsent (v : Variant) (b : List Byte) : Conds :=
  ((List.range 4).map fun k => (!bit (u8 b 0) k || decide (2 * k + 1 < v.cores), 0)) ++
    (List.range 16).map fun n => (u8 b (axisEntry n) == 0 || decide (n < v.axes), axisEntry n)

/-! ### TASK: R344, R376 -/

/-- PAIRS as Control STRUCT of a configuration forms them. -/
def pairsOf (cfg : List Section) : Nat := u8 (bodyOf cfg Ty.struct Region.control 0) 0 % 16
def checkerBits (pairs : Nat) : Nat := (bitsOf pairs 4).foldl (fun m k => m + 2 ^ (2 * k + 1)) 0
def masterBits (pairs : Nat) : Nat := (bitsOf pairs 4).foldl (fun m k => m + 2 ^ (2 * k)) 0

/-- A blob reference of `n` bytes names bytes of a TASK section. -/
def blobOk (cfg : List Section) (ref n : Nat) : Bool :=
  let i := ref / 2 ^ 24
  let o := ref % 2 ^ 24
  decide (i < 64) && o % 16 == 0 &&
    match findSection Ty.task Region.control i cfg with
    | some x => decide (o + n ≤ x.body.length)
    | none => false

def programConds (cfg : List Section) (v : Variant) (b : List Byte) (p : Nat) : Conds :=
  let o := programEntry p
  let code := u64 b (o + 0x18)
  let data := u64 b (o + 0x20)
  in8 b o 0 3 ++ reserved b (o + 1) 3 ++
    [(blobOk cfg (u32 b (o + 4)) (u32 b (o + 8)), o + 4), (u32 b (o + 8) % 16 == 0, o + 8), (blobOk cfg (u32 b (o + 0xC)) (u32 b (o + 0x10)), o + 0xC),
     (decide (u32 b (o + 0x10) ≤ u32 b (o + 0x14)), o + 0x10), (u32 b (o + 0x14) % 64 == 0, o + 0x14),
     (decide (code < 2 ^ 40) && Area.placeable cfg v (code, max 1 (u32 b (o + 8))), o + 0x18),
     (decide (data < 2 ^ 40) && Area.placeable cfg v (data, max 1 (u32 b (o + 0x14))), o + 0x20)] ++ reserved b (o + 0x28) 8

/-- NUMBER lies in the range its source allows. -/
def eventNumberOk (source number : Nat) : Bool :=
  if source = 1 then decide (number < 16)
  else if source = 2 then decide (number < 64)
  else if source = 3 then decide (number < 0x400)
  else if source = 4 then number == 0
  else if source = 5 then decide (number < 9)
  else if source = 6 then number / 2 ^ 7 % 2 == 0 && decide (number < 0x400)
  else if source = 7 then decide (number < 64)
  else decide (number < 128) || number == 0xFFFF

/-- The section an event source refers into is there (R712); a unit the variant lacks is check 11's. -/
def eventSourceThere (cfg : List Section) (v : Variant) (source number : Nat) : Bool :=
  if source = 2 then !v.hasFus || hasType cfg Ty.fusion Region.sense
  else if source = 3 then decide (v.lathes ≤ number / 256) || (findSection Ty.lathe Region.solve (number / 256) cfg).isSome
  else if source = 4 then !v.hasFed || hasType cfg Ty.fed Region.solve
  else if source = 5 then hasType cfg Ty.metro Region.sense
  else true

/-- The signals of a task's outputs. -/
def outputSignals (b : List Byte) (t : Nat) : List Nat :=
  (List.range (u16 b (taskEntry b t + 0x22))).map fun j => u16 b (listEntry b (u32 b (taskEntry b t + 0x28) + j))
/-- Signals that the tasks of a configuration write. -/
def taskSignals (cfg : List Section) : List Nat :=
  let b := bodyOf cfg Ty.task Region.control 0
  (List.range (u8 b 1)).flatMap (outputSignals b)

def taskConds (cfg : List Section) (v : Variant) (b : List Byte) (t : Nat) : Conds :=
  let o := taskEntry b t
  let d := taskDefOf b t
  let pairs := pairsOf cfg
  let p := programEntry d.prog
  let code := u64 b (p + 0x18)
  let elig := d.elig
  [(decide (d.prog < u8 b 0), o)] ++ in8 b (o + 1) 0 1 ++ in8 b (o + 2) 0 15 ++ in8 b (o + 3) 0 63 ++
    (if d.event then in8 b (o + 4) 1 8 ++ reserved b (o + 5) 1
     else in8 b (o + 4) 0 7 ++ in8 b (o + 5) 0 63 ++ [(assignedTo cfg d.rspin d.rcmp Consumer.tsk, o + 4)]) ++
    (if d.cspin = 0xFF then reserved b (o + 7) 1
     else in8 b (o + 6) 0 7 ++ in8 b (o + 7) 0 63 ++ [(assignedTo cfg d.cspin d.ccmp Consumer.tsk, o + 6)]) ++
    [(elig != 0 && elig &&& checkerBits pairs == 0 && (!bit d.flags 0 || elig &&& masterBits pairs == elig), o + 8)] ++ in8 b (o + 9) 0 7 ++
    reserved b (o + 0xB) 1 ++ [(if d.event then eventNumberOk d.rspin d.number else d.number == 0, o + 0xC), (!d.event || eventSourceThere cfg v d.rspin d.number, o + 4)] ++ reserved b (o + 0xE) 2 ++
    [(decide (code ≤ d.entry) && decide (d.entry < code + u32 b (p + 8)), o + 0x10), (d.soff % 64 == 0, o + 0x18),
     (d.stateLen % 64 == 0 && decide (64 ≤ d.stateLen) && decide (d.stateLen ≤ 65536) && decide (d.soff + d.stateLen ≤ 0x80000), o + 0x1C)] ++
    in16 b (o + 0x20) 0 256 ++ in16 b (o + 0x22) 0 256 ++
    [(decide (d.inIdx + d.nin ≤ u32 b 8), o + 0x24), (decide (d.outIdx + d.nout ≤ u32 b 8), o + 0x28),
     (d.stackOff % 16 == 0 && decide (8 * (d.nin + d.nout) < d.stackOff) && decide (d.stackOff ≤ d.stateLen), o + 0x2C)] ++
    reserved b (o + 0x30) 16 ++
    (List.range d.nin).map (fun j => (u16 b (listEntry b (d.inIdx + j) + 2) == 0, listEntry b (d.inIdx + j) + 2)) ++
    [((List.range t).all fun k =>
        let e := taskDefOf b k
        elig &&& e.elig == 0 || !Area.meets (d.soff, d.stateLen) (e.soff, e.stateLen), o + 0x18),
     ((List.range t).all fun k => (outputSignals b k).all fun i => !(outputSignals b t).contains i, o + 0x28)]

/-- The lowest-numbered eligible core (R342). -/
def firstCore (elig : Nat) : Nat := ((List.range 8).find? (bit elig)).getD 0

def taskValue (cfg : List Section) (v : Variant) (b : List Byte) : Conds :=
  let n := u8 b 1
  let pairs := (bitsOf (pairsOf cfg) 4).length
  let tables := 0x10 + 48 * u8 b 0 + 64 * n + 8 * u32 b 8
  in8 b 0 1 16 ++ in8 b 1 1 (min v.tasks (32 * (v.cores - pairs))) ++ in16 b 2 1 16384 ++
    [(u32 b 4 % 8 == 0 && Area.placeableInStock v (Addr.stock + u32 b 4, 8 * u16 b 2), 4), (decide (pad16 tables ≤ b.length), 8)] ++
    reserved b 0xC 4 ++ (List.range (u8 b 0)).flatMap (programConds cfg v b) ++ (List.range n).flatMap (taskConds cfg v b) ++
    (List.range (u32 b 8)).flatMap (fun k =>
      let o := listEntry b k
      [(decide (u16 b o < u16 b 2), o), (decide (u16 b (o + 2) ≤ 1), o + 2)]) ++
    reserved b tables (pad16 tables - tables) ++
    [((List.range 8).all fun c => decide (((List.range n).filter fun t => firstCore (taskDefOf b t).elig == c).length ≤ 32), taskEntry b 0 + 8)]

def taskAbsent (v : Variant) (b : List Byte) : Conds :=
  (List.range (u8 b 1)).flatMap fun t =>
    let d := taskDefOf b t
    let o := taskEntry b t
    [(decide (d.elig < 2 ^ v.cores), o + 8),
     (!d.event || d.rspin != 1 || decide (d.number / 4 < v.cans), o + 0xC), (!d.event || d.rspin != 2 || v.hasFus, o + 4),
     (!d.event || d.rspin != 3 || decide (d.number / 256 < v.lathes), o + 0xC), (!d.event || d.rspin != 4 || v.hasFed, o + 4)]

/-! ### LOOP: R378, R380, R382, R383, R403, R404 -/

def blockDefOf (b : List Byte) (l k : Nat) : BlockDef :=
  let o := blockEntry l k
  { type := u8 b o, a := u8 b (o + 1), b := u8 b (o + 2), c := u8 b (o + 3), frac := u8 b (o + 4), flags := u8 b (o + 5) }

/-- An operand code names something defined: `k` is the block that uses it. -/
def operandOk (b : List Byte) (l k code : Nat) : Bool :=
  let e := loopEntry l
  if code < 4 then decide (code < u8 b (e + 5))
  else if 0x10 ≤ code ∧ code < 0x18 then decide (code - 0x10 < k)
  else if 0x20 ≤ code ∧ code < 0x28 then decide (code - 0x20 < u8 b e)
  else if 0x30 ≤ code ∧ code < 0x34 then true
  else if code = 0x40 then bit (u32 b (e + 0x34)) 31
  else code == 0xFF

/-- FRAC of an operand; `own` for ZERO, whose value has any. -/
def operandFracOf (b : List Byte) (l code own : Nat) : Nat :=
  let e := loopEntry l
  if code < 4 then u8 b (e + 8 + 4 * code + 2) % 32
  else if 0x10 ≤ code ∧ code < 0x28 then u8 b (blockEntry l (code % 8) + 4)
  else if 0x30 ≤ code ∧ code < 0x34 then u8 b (e + 0x30 + code - 0x30)
  else if code = 0x40 then u8 b (e + 0x36) % 32
  else own

/-- An operand field holds a code of the table, used or not. -/
def operandCode (code : Nat) : Bool :=
  decide (code < 4) || (decide (0x10 ≤ code) && decide (code < 0x18)) || (decide (0x20 ≤ code) && decide (code < 0x28)) ||
    (decide (0x30 ≤ code) && decide (code < 0x34)) || code == 0x40 || code == 0xFF

/-- R380. -/
def fracsOk (b : List Byte) (l : Nat) (d : BlockDef) : Bool :=
  let f := fun code => operandFracOf b l code d.frac
  if d.type = 3 ∨ d.type = 4 then f d.a == d.frac
  else if d.type = 5 then f d.a == d.frac && f d.b == d.frac
  else if d.type = 8 then (d.a == 0xFF || d.b == 0xFF || f d.a == f d.b) && f d.c == d.frac
  else true

/-- How many coefficients a type uses. -/
def coefficients (type : Nat) : Nat := if type = 1 then 1 else if type = 2 ∨ type = 6 then 3 else if type = 7 ∨ type = 8 then 5 else 0

def blockConds (b : List Byte) (l k : Nat) : Conds :=
  let o := blockEntry l k
  let d := blockDefOf b l k
  let lo := i32 b (o + 0x24)
  let hi := i32 b (o + 0x28)
  if u8 b (loopEntry l) ≤ k then reserved b o 48
  else
    in8 b o 1 8 ++ (List.range 3).map (fun j => (operandCode (u8 b (o + 1 + j)), o + 1 + j)) ++ [(d.operands.all (operandOk b l k), o + 1)] ++ in8 b (o + 4) 0 31 ++ [(fracsOk b l d, o + 4)] ++
      in8 b (o + 5) 0 (if d.type = 8 then 3 else if d.type = 5 then 2 else 0) ++ reserved b (o + 6) 2 ++
      (List.range 5).flatMap (fun j =>
        if j < coefficients d.type then [(decide (-31 ≤ i8 b (o + 0x1C + j)) && decide (i8 b (o + 0x1C + j) ≤ 31), o + 0x1C + j)]
        else reserved b (o + 8 + 4 * j) 4 ++ reserved b (o + 0x1C + j) 1) ++
      [(d.type != 8 || u8 b (o + 0x20) == 0, o + 0x20)] ++ reserved b (o + 0x21) 3 ++
      (if usesLimits d.type then [(decide (lo ≤ hi) && (d.type != 4 || (decide (lo ≤ 0) && decide (0 ≤ hi))), o + 0x24)] else reserved b (o + 0x24) 8) ++
      reserved b (o + 0x2C) 4

/-- A destination: a signal below NSIG that no task writes, or a Latch channel whose LOCAL is the CLE. -/
def destOk (cfg : List Section) (v : Variant) (w : Nat) : Bool :=
  if bit w 15 then
    let c := w % 2 ^ 14
    decide (c < 64) && (decide (v.latch ≤ c) || (u8 (latchAt cfg c) 0 == 1 && u8 (latchAt cfg c) 2 == 1))
  else decide (w % 2 ^ 14 < u16 (bodyOf cfg Ty.task Region.control 0) 2) && !(taskSignals cfg).contains (w % 2 ^ 14)

def loopConds (cfg : List Section) (v : Variant) (b : List Byte) (l : Nat) : Conds :=
  let e := loopEntry l
  let nsig := u16 (bodyOf cfg Ty.task Region.control 0) 2
  let inWord := fun o => decide (u32 b o < 2 ^ 25) && u32 b o / 2 ^ 14 % 4 == 0 && u32 b o / 2 ^ 21 % 8 == 0
  if u8 b e = 0 then reserved b e 448
  else
    let g := u8 b (e + 4)
    in8 b e 1 8 ++ in8 b (e + 1) 0 3 ++ in8 b (e + 2) 1 255 ++ [(decide (u8 b (e + 3) < u8 b (e + 2)), e + 3)] ++
      [(g == 0xFF || (decide (g < u8 b 2) && (List.range 8).any fun k =>
          decide (k < u8 b (groupEntry b g)) && u8 b (groupEntry b g + 8 + k) == l), e + 4)] ++ in8 b (e + 5) 0 4 ++ in8 b (e + 6) 1 2 ++
      reserved b (e + 7) 1 ++
      (List.range 4).flatMap (fun i =>
        if i < u8 b (e + 5) then [(inWord (e + 8 + 4 * i) && decide (u32 b (e + 8 + 4 * i) % 2 ^ 14 < nsig), e + 8 + 4 * i)]
        else reserved b (e + 8 + 4 * i) 4) ++
      (List.range 2).flatMap (fun i =>
        let o := e + 0x18 + 4 * i
        let w := u32 b o
        let op := w / 2 ^ 16 % 256
        if u8 b (e + 6) ≤ i then reserved b o 4
        else if i = 0 ∧ g ≠ 0xFF then [(decide (w < 2 ^ 24) && w % 2 ^ 16 == 0 && decide (0x10 ≤ op) && decide (op < 0x10 + u8 b e), o)]
        else [(decide (w < 2 ^ 24) && !bit w 14 && decide (0x10 ≤ op) && decide (op < 0x10 + u8 b e), o), (destOk cfg v w, o)]) ++
      (List.range 4).flatMap (fun i => in8 b (e + 0x30 + i) 0 31) ++
      (if bit (u32 b (e + 0x34)) 31 then
        let w := u32 b (e + 0x34) - 2 ^ 31
        [(decide (w < 2 ^ 21) && w / 2 ^ 14 % 4 == 0 && decide (w % 2 ^ 14 < nsig), e + 0x34)]
       else reserved b (e + 0x34) 4) ++ reserved b (e + 0x38) 8 ++ (List.range 8).flatMap (blockConds b l)

/-- The block that a member's OUT0 names. -/
def candidateBlock (b : List Byte) (m : Nat) : BlockDef := blockDefOf b m (u8 b (loopEntry m + 0x1A) % 16)

def groupConds (cfg : List Section) (v : Variant) (b : List Byte) (g : Nat) : Conds :=
  let o := groupEntry b g
  let n := u8 b o
  let ms := (List.range (min 8 n)).map fun k => u8 b (o + 8 + k)
  let like := fun m => (u8 b (loopEntry m + 2), u8 b (loopEntry m + 3), (candidateBlock b m).frac)
  let w := u32 b (o + 4)
  in8 b o 2 8 ++ in8 b (o + 1) 0 1 ++ reserved b (o + 2) 2 ++ [(decide (w < 2 ^ 16) && !bit w 14, o + 4), (destOk cfg v w, o + 4)] ++
    [(ms.all fun m => decide (m < u16 b 0) && u8 b (loopEntry m) != 0 && u8 b (loopEntry m + 4) == g && (candidateBlock b m).type == 8, o + 8),
     (distinct ms, o + 8), (ms.all fun m => like m == like (ms.headD 0), o + 8)] ++ reserved b (o + 8 + n) (8 - n)

/-- Destinations of the loops and groups: the low 16 bits of their words. -/
def loopDests (b : List Byte) : List Nat :=
  ((List.range (u16 b 0)).flatMap fun l =>
    let e := loopEntry l
    ((List.range (if u8 b e = 0 then 0 else min 2 (u8 b (e + 6)))).filter fun i => i != 0 || u8 b (e + 4) == 0xFF).map fun i =>
      u16 b (e + 0x18 + 4 * i)) ++
  (List.range (u8 b 2)).map fun g => u16 b (groupEntry b g + 4)

def loopValue (cfg : List Section) (v : Variant) (b : List Byte) : Conds :=
  let n := u16 b 0
  let (_, div, _) := assignedAs cfg (u8 b 4) (u8 b 5)
  in16 b 0 0 v.loops ++ in8 b 2 0 32 ++ bodyIs b (32 + 448 * n + 16 * u8 b 2) ++ reserved b 3 1 ++ in8 b 4 0 7 ++ in8 b 5 0 63 ++
    [(assignedTo cfg (u8 b 4) (u8 b 5) Consumer.cle, 4), (firesAtMost cfg (u8 b 4) (u8 b 5) 20000, 4)] ++ reserved b 6 2 ++
    in32 b 8 1 (if 1 < div then 2 ^ 32 / div - 1 else 2 ^ 32 - 1) ++ reserved b 0xC 20 ++ (List.range n).flatMap (loopConds cfg v b) ++
    (List.range (u8 b 2)).flatMap (groupConds cfg v b) ++ [(distinct (loopDests b), 0)]

/-- A Latch channel at or beyond SYS.COUNTS.LATCH (R403). -/
def loopAbsent (v : Variant) (b : List Byte) : Conds :=
  (loopDests b).map fun w => (!bit w 15 || decide (w % 2 ^ 14 < v.latch), 0)

end Sys2Proof.Machine
end

