-- ==== Sys2Proof/Machine/CheckLink.lean ====
section
/-! DEFINITION. Checks 10 and 11 of the Link sections: Link STRUCT (04, 15, 16), PANEL (14), PINMUX (19). -/
namespace Sys2Proof.Machine

/-! ### Link STRUCT: R581, R604, R606 -/

/-- The lane modes of a body form link `l`. -/
def linkFormed (b : List Byte) (l : Nat) : Bool := decide (l < 4) && u8 b l == 1 && (u8 b (4 + l / 2) == 1 || l % 2 == 0)

/-- A ring of `n` entries at a Stock offset, 0 for none. -/
def ringOk (v : Variant) (off n : Nat) : Bool :=
  if n = 0 then off == 0 else isPow2 n && decide (16 ≤ n) && decide (n ≤ 4096) && Area.placeableInStock v (Addr.stock + off, 16 * n)

/-- The virtual channels of ports 0 and 1 that other sections use: Milio spindles, fusion, metrology, Latch and Hinge (15, "Users"). -/
def vcUsed (cfg : List Section) (port vc : Nat) : Bool :=
  let spin := bodyOf cfg Ty.spindle Region.sense 0
  let fus := bodyOf cfg Ty.fusion Region.sense 0
  let met := bodyOf cfg Ty.metro Region.sense 0
  let lat := bodyOf cfg Ty.latch Region.keep 0
  let hng := bodyOf cfg Ty.hinge Region.keep 0
  let fed := bodyOf cfg Ty.fed Region.solve 0
  let link := bodyOf cfg Ty.struct Region.link 0
  let here := fun p v => p == port && v == vc
  let milLinkWord := fun w => bit w 7 && bit w 0 && here (w / 8 % 2) (w / 16 % 8)
  let sel := fun w => here (w / 8 % 2) (w % 8)
  let sendTo := fun w => here (w / 2 ^ 19 % 2) (w / 2 ^ 16 % 8)
  (vc == 7 && (List.range 8).any fun n => sourceIn cfg n == Src.round && u8 spin (spindleEntry n + 1) == port) ||
    (vc == 7 && u8 fed 0 == 3 && (List.range 4).any fun l => bit (u8 link 6) l && l / 2 == port) ||
    (vc == 6 && (List.range 2).any fun p => u8 hng (0x2A + 8 * p) != 0 && bit (u8 hng (0x2C + 8 * p)) 2 && u8 hng (0x2C + 8 * p) / 8 % 2 == port) ||
    (List.range (u8 fus 0)).any (fun i => u8 fus (32 + 32 * i) == 3 && sel (u32 fus (36 + 32 * i))) ||
    (List.range (u8 fus 1)).any (fun g =>
      let o := 32 + 32 * u8 fus 0 + 64 * g
      bit (u8 fus (o + 0x16)) 0 && sendTo (u32 fus (o + 0x20))) ||
    (List.range (u8 met 1)).any (fun r => sel (u8 met (0xC2 + 16 * r))) || (u16 met 6 % 4 != 0 && sendTo (u32 met 0x10)) ||
    (u8 met 3 != 0 && sendTo (u32 met 0x14)) || milLinkWord (u32 lat 8) ||
    (List.range (u8 lat 0)).any fun c =>
      let o := latchEntry c
      u8 lat o == 1 && ((bit (u8 lat (o + 3)) 2 && sel (u32 lat (o + 0xC))) || milLinkWord (u32 lat (o + 0x1C)) || milLinkWord (u32 lat (o + 0x24)))

def vcConds (cfg : List Section) (v : Variant) (b : List Byte) (port vc : Nat) : Conds :=
  let o := vcEntry port vc
  let rings := bit (u8 b o) 3
  let cred := u16 b (o + 2)
  in8 b o 0 15 ++ [(!rings || decide (vc < 6), o)] ++ reserved b (o + 1) 1 ++ [(cred == 0 || (decide (33 ≤ cred) && decide (cred ≤ 1008)), o + 2),
    (cred != 0 || !vcUsed cfg port vc, o + 2),
    (if rings then ringOk v (u32 b (o + 4)) (u16 b (o + 0xC)) && ringOk v (u32 b (o + 8)) (u16 b (o + 0xE)) else u64 b (o + 4) == 0 && u32 b (o + 0xC) == 0,
     o + 4)]

/-- Ring areas of the channels and Ethernet ports. -/
def ringAreas (b : List Byte) : List Area :=
  ((List.range 16).flatMap fun k =>
    let o := 0x20 + 16 * k
    [(Addr.stock + u32 b (o + 4), 16 * u16 b (o + 0xC)), (Addr.stock + u32 b (o + 8), 16 * u16 b (o + 0xE))]) ++
  (List.range 6).flatMap fun e =>
    let o := ethEntry e
    [(Addr.stock + u32 b (o + 0xC), 16 * u16 b (o + 0x14)), (Addr.stock + u32 b (o + 0x10), 16 * u16 b (o + 0x16))]

def routeConds (b : List Byte) (k : Nat) : Conds :=
  let o := 0x130 + 8 * k
  let link := fun x => linkFormed b x
  if u8 b 0x120 ≤ k then reserved b o 8
  else
    [(decide (u16 b o ≤ u16 b (o + 2)) && decide (u16 b (o + 2) < 2 ^ 14), o), (link (u8 b (o + 4)), o + 4),
     (u8 b (o + 5) == 0xFF || link (u8 b (o + 5)), o + 5), ((List.range k).all fun j =>
        decide (u16 b (0x132 + 8 * j) < u16 b o) || decide (u16 b (o + 2) < u16 b (0x130 + 8 * j)), o)] ++ reserved b (o + 6) 2

def ethConds (v : Variant) (b : List Byte) (e : Nat) : Conds :=
  let o := ethEntry e
  if u8 b o = 0 then reserved b o 32
  else
    in8 b o 1 1 ++ in8 b (o + 1) 0 3 ++ in8 b (o + 2) 0 31 ++ reserved b (o + 3) 1 ++ reserved b (o + 0xA) 2 ++
      [(ringOk v (u32 b (o + 0xC)) (u16 b (o + 0x14)), o + 0xC), (ringOk v (u32 b (o + 0x10)) (u16 b (o + 0x16)), o + 0x10),
       (decide (e < 2) || decide (v.lanes ≤ e - 2) || u8 b (e - 2) == 2, o)] ++ reserved b (o + 0x18) 8

/-- A filter element (16, "Message RAM"). -/
def filterOk (b : List Byte) (o : Nat) : Bool :=
  let w := u32 b (o + 8)
  let act := w % 8
  let target := w / 2 ^ 16 % 64
  decide (u32 b o < 2 ^ 29) && decide (u32 b (o + 4) < 2 ^ 29) && decide (w < 2 ^ 22) && w / 8 % 32 == 0 && w / 2 ^ 10 % 64 == 0 && act != 7 &&
    (act != 4 || decide (target < 4)) && u32 b (o + 0xC) == 0

def canConds (b : List Byte) (k : Nat) : Conds :=
  let o := 0x490 + 0x20 * k
  let n := u32 b (o + 4)
  let d := u32 b (o + 8)
  let f := u32 b (o + 0x10)
  let nominal := (n / 2 ^ 23 + 1) * (1 + (n / 2 ^ 8 % 2 ^ 8 + 1) + (n % 2 ^ 7 + 1))
  let data := (d / 2 ^ 16 % 2 ^ 5 + 1) * (1 + (d / 2 ^ 8 % 2 ^ 5 + 1) + (d % 2 ^ 4 + 1))
  if u8 b o = 0 then reserved b o 32
  else
    in8 b o 1 1 ++ in8 b (o + 1) 0 1 ++ [(decide (u8 b (o + 2) < 128) && u8 b (o + 2) / 8 % 4 != 3, o + 2)] ++ in8 b (o + 3) 0 15 ++
      [(!bit n 7 && decide (80 ≤ nominal), o + 4),
       (if bit (u8 b (o + 2)) 0 then d / 2 ^ 21 % 8 == 0 && d / 2 ^ 4 % 16 == 0 && decide (10 ≤ data) else d == 0, o + 8)] ++
      in8 b (o + 0xC) 0 128 ++ reserved b (o + 0xD) 3 ++ [(f % 16 == 0 && decide (0x5D0 ≤ f) && decide (f + 16 * u8 b (o + 0xC) ≤ b.length), o + 0x10)] ++
      reserved b (o + 0x14) 12 ++ (List.range (u8 b (o + 0xC))).map fun i => (filterOk b (f + 16 * i), f + 16 * i)

/-- A host part: the head by host, then the filter record. -/
def hostConds (cfg : List Section) (v : Variant) (b : List Byte) (o : Nat) (pci : Bool) : Conds :=
  if u8 b o = 0 then reserved b o 96
  else
    in8 b o 1 1 ++ in8 b (o + 1) 0 (if pci then 1 else 0) ++ reserved b (o + 2) 2 ++
      (if pci then reserved b (o + 8) 8 else (List.range 4).flatMap (fun k => in16 b (o + 4 + 2 * k) 0 511) ++ reserved b (o + 0xC) 4) ++
      in8 b (o + 0x18) 0 3 ++ reserved b (o + 0x19) 7 ++ (List.range 4).flatMap fun k =>
        let e := o + 0x20 + 16 * k
        let a : Area := (u64 b e, u32 b (e + 8))
        if a.2 = 0 then reserved b e 16
        else [(decide (a.1 < 2 ^ 40) && a.2 % 64 == 0 && Area.inStockOrDdr cfg v a && !Area.meets a (imageArea cfg), e)] ++ reserved b (e + 12) 4

def linkStructValue (cfg : List Section) (v : Variant) (b : List Byte) : Conds :=
  let split := fun p => u8 b (4 + p) == 1
  let lanes := fun p => ofBool (u8 b (2 * p) == 1) + ofBool (u8 b (2 * p + 1) == 1)
  [(decide (0x5D0 ≤ b.length), 0)] ++ (List.range 4).flatMap (fun l => in8 b l 0 2) ++ (List.range 2).flatMap (fun p =>
      in8 b (4 + p) 0 1 ++ [(lanes p == 2 || (lanes p == 1 && split p) || (lanes p == 0 && !split p), 4 + p)]) ++
    [(decide (u8 b 6 < 16) && (List.range 4).all fun l => !bit (u8 b 6) l || linkFormed b l, 6)] ++ in8 b 7 1 32 ++ reserved b 8 8 ++
    in8 b 0x10 0 2 ++ in8 b 0x11 0 127 ++ in8 b 0x14 0 7 ++ [(!bit (u8 b 0x14) 1 || u8 b 0x10 == 0, 0x14)] ++ reserved b 0x15 1 ++
    (List.range 6).flatMap (fun k => in8 b (0x16 + k) 0 2) ++ reserved b 0x1C 4 ++
    (List.range 2).flatMap (fun p => (List.range 8).flatMap (vcConds cfg v b p) ++
      [(decide ((List.range 8).foldl (fun n c => n + u16 b (vcEntry p c + 2)) 0 ≤ 1008), vcEntry p 0 + 2)]) ++
    in8 b 0x120 0 64 ++ [(u8 b 0x121 == 0xFF || linkFormed b (u8 b 0x121), 0x121)] ++ reserved b 0x122 14 ++
    (List.range 64).flatMap (routeConds b) ++
    (List.range 4).map (fun l => (u16 b (0x330 + 2 * l) == 0xFFFF || decide (u16 b (0x330 + 2 * l) < 2 ^ 14), 0x330 + 2 * l)) ++ reserved b 0x338 8 ++
    (List.range 6).flatMap (ethConds v b) ++ (List.range 16).flatMap (fun k => in8 b (0x406 + 8 * k) 0 63 ++ reserved b (0x407 + 8 * k) 1) ++
    [(apart (ringAreas b), 0x20), ([0, 1, 2, 4, 8].contains (u8 b 0x480), 0x480),
     (if u8 b 0x480 = 0 then u8 b 0x481 == 0 else decide (4 ≤ u8 b 0x481) && decide (u8 b 0x481 ≤ 16), 0x481)] ++ reserved b 0x482 14 ++
    (List.range 4).flatMap (canConds b) ++ hostConds cfg v b 0x510 true ++ hostConds cfg v b 0x570 false

def linkStructAbsent (v : Variant) (b : List Byte) : Conds :=
  ((List.range 4).map fun l => (u8 b l == 0 || decide (l < v.lanes), l)) ++
    [(u8 b 0x17 == 0 || v.hasUnit 5, 0x17)] ++ (List.range 4).map (fun l => (u8 b (0x18 + l) == 0 || decide (l < v.lanes), 0x18 + l)) ++
    ((List.range 2).filter fun p => !v.hasMil p).flatMap (fun p => reserved b (vcEntry p 0) 128) ++
    [(u8 b (ethEntry 1) == 0 || v.hasUnit 5, ethEntry 1)] ++
    (List.range 4).map (fun l => (u8 b (ethEntry (2 + l)) == 0 || decide (l < v.lanes), ethEntry (2 + l))) ++
    [(u8 b 0x480 == 0 || v.hasDdr, 0x480)] ++
    (List.range 4).map (fun k => (u8 b (0x490 + 0x20 * k) == 0 || decide (k < v.cans), 0x490 + 0x20 * k)) ++ [(u8 b 0x510 == 0 || v.hasPci, 0x510)]

/-! ### PANEL: R560, R568, R578 -/

/-- The code of frame `k` from level `x` to level `y` of a waveform table (14). -/
def driveCode (b : List Byte) (table k x y : Nat) : Nat := u8 b (table + 64 * k + 4 * x + y / 4) / 4 ^ (y % 4) % 4

/-- R568: every transition of a mode has as many codes 1 as codes 2. -/
def balanced (b : List Byte) (table frames : Nat) : Bool :=
  (List.range 16).all fun x => (List.range 16).all fun y =>
    let cs := (List.range frames).map fun k => driveCode b table k x y
    (cs.filter (· == 1)).length == (cs.filter (· == 2)).length

/-- R560: a frame fits the shortest firing interval. -/
def frameFits (cfg : List Section) (b : List Byte) : Bool :=
  let n := u8 b 2
  let (_, div, mult) := assignedAs cfg n (u8 b 3)
  let spin := bodyOf cfg Ty.spindle Region.sense 0
  let h := (if u8 b 0 = 2 then u16 b 8 / 8 else u16 b 8) + u16 b 0xA + u16 b 0xC + u16 b 0xE
  let w := u16 b 0x10 + u16 b 0x12 + u16 b 0x14 + u16 b 0x16
  if sourceIn cfg n = Src.time then decide (h * w * 1000000000 * max 1 div ≤ 1000 * u32 b 4 * u32 spin (spindleEntry n + 8) * max 1 mult)
  else decide (h * w * u32 spin (spindleEntry n + 0x24) * max 1 div ≤ 1000 * u32 b 4 * 65536 * max 1 mult)

def panelValue (cfg : List Section) (v : Variant) (b : List Byte) : Conds :=
  let epd := u8 b 0 == 2
  let n := u8 b 0x1B
  let keep := bodyOf cfg Ty.struct Region.keep 0
  let app := 2 * v.mramS - 0x80000
  let size := u16 b 8 * u16 b 0x10 / 2
  if u8 b 0 = 0 then reserved b 0 b.length
  else
    in8 b 0 1 2 ++ in8 b 1 0 31 ++ [(decide (u8 b 2 < 8) && decide (u8 b 3 < 64) && assignedTo cfg (u8 b 2) (u8 b 3) Consumer.pnl, 2)] ++
      in32 b 4 1000 75000 ++ in16 b 8 1 (if epd then 1872 else 1280) ++ [(!epd || u16 b 8 % 8 == 0, 8)] ++ in16 b 0x10 1 (if epd then 1404 else 800) ++
      in8 b 0x18 0 (if epd then 0 else 2) ++ in8 b 0x19 0 6 ++ (if epd then [] else in8 b 0x1A 1 255) ++
      (if epd then in8 b 0x1B 1 4 ++ [(decide (u8 b 0x1C < n), 0x1C)] else []) ++ reserved b 0x1D 3 ++
      (List.range 6).flatMap (fun k =>
        let o := 0x20 + 4 * k
        if u8 b 0x19 ≤ k then reserved b o 4 else in8 b o 0 5 ++ in8 b (o + 1) 0 1 ++ in16 b (o + 2) 0 1000) ++
      in16 b 0x38 0 10000 ++ reserved b 0x3A 6 ++ [(decide (u64 b 0x40 < 2 ^ 40), 0x40)] ++ reserved b 0x54 12 ++ [(frameFits cfg b, 4)] ++
      (if epd then
        [(u32 b 0x4C % 64 == 0 && decide (u32 b 0x4C + size ≤ app), 0x4C), (u32 b 0x50 % 64 == 0 && decide (u32 b 0x50 + size ≤ app), 0x50),
         (!Area.meets (u32 b 0x4C, size) (u32 b 0x50, size), 0x50), (bit (u32 keep 0xC) 0x18 && bit (u32 keep 0x10) 0x18, 0)] ++
          (List.range n).flatMap (fun m =>
            let o := 0x60 + 16 * m
            let t := u32 b (o + 4)
            in16 b o 1 256 ++ reserved b (o + 2) 2 ++ [(t % 16 == 0 && decide (t + 64 * u16 b o ≤ b.length), o + 4), (balanced b t (u16 b o), t)] ++
              reserved b (o + 8) 8)
       else [])

/-! ### PINMUX: R691, R692 -/

def muxFunc (b : List Byte) (n : Nat) : Nat := u8 b (0x10 + 4 * n)
def muxIndex (b : List Byte) (n : Nat) : Nat := u8 b (0x11 + 4 * n)
/-- The INDEX values of a function. -/
def muxIndexOk (func index : Nat) : Bool :=
  if func = 0 then index == 0
  else if func = 1 then decide (index < 128)
  else if func = 2 then decide (index < 32) && decide (index % 16 < 12)
  else if func = 3 then decide (index < 2)
  else if func = 4 then decide (index < 8)
  else if func = 5 then decide (index < 80)
  else if func = 6 then decide (index < 39)
  else if func = 7 then decide (index < 16)
  else func == 8 && decide (index < 12)

def ballConds (cfg : List Section) (v : Variant) (b : List Byte) (n : Nat) : Conds :=
  let o := 0x10 + 4 * n
  let w := u32 b o
  let f := muxFunc b n
  let bank := n / v.bankBalls
  let speed := u8 (bodyOf cfg Ty.struct Region.link 0) (ethEntry (muxIndex b n / 16) + 1)
  [(decide (w < 2 ^ 26) && w / 2 ^ 22 % 4 == 0 && w / 2 ^ 18 % 4 != 3 && (f != 0 || w == 0), o), (muxIndexOk f (muxIndex b n), o),
   (f == 0 || u8 b (2 + bank) != 0, o), (f != 2 || (decide (bank < 2) && (u8 b (2 + bank) != 3 || speed == 1 || speed == 2)), o),
   (f == 0 || (List.range n).all fun k => u16 b (0x10 + 4 * k) != u16 b o, o)]

/-- The GPIOs that Latch channels drive. -/
def latchGpios (cfg : List Section) : List Nat :=
  let b := bodyOf cfg Ty.latch Region.keep 0
  ((List.range (u8 b 0)).filter fun c => u8 b (latchEntry c) == 1 && u8 b (latchEntry c + 1) == 1).map fun c => u16 b (latchEntry c + 0x14)
/-- GPIO `g` has a ball with OUT 1. -/
def gpioDriven (v : Variant) (b : List Byte) (g : Nat) : Bool :=
  (List.range v.balls).any fun n => muxFunc b n == 1 && muxIndex b n == g && bit (u8 b (0x13 + 4 * n)) 0

def pinmuxValue (cfg : List Section) (v : Variant) (b : List Byte) : Conds :=
  [(u16 b 0 == v.balls, 0)] ++ bodyIs b (16 + 4 * v.balls) ++ (List.range 6).flatMap (fun k => in8 b (2 + k) 0 3) ++ reserved b 8 8 ++
    (List.range v.balls).flatMap (ballConds cfg v b) ++ [((latchGpios cfg).all (gpioDriven v b), 0)]

def pinmuxAbsent (v : Variant) (b : List Byte) : Conds :=
  (List.range v.balls).map fun n =>
    let f := muxFunc b n
    let i := muxIndex b n
    ((f != 2 || decide (i < 16) || v.hasUnit 5) && (f != 4 || decide (i / 2 < v.cans)) && (f != 5 || decide (i / 5 < v.axes)), 0x10 + 4 * n)

end Sys2Proof.Machine
end

