-- ==== Sys2Proof/Machine/CheckSolve.lean ====
section
/-! DEFINITION. Checks 10 and 11 of the Solve sections: Solve STRUCT (06, 07), LATHE (06), FED (07). -/
namespace Sys2Proof.Machine

/-! ### Memory an engine may read and write -/

/-- First cell and number of cells of a chuck in a LATHE body. -/
def chuckCellsIn (b : List Byte) (c : Nat) : Nat × Nat := (4 * u8 b (0x80 + 2 * c), 4 * 2 ^ (u8 b (0x81 + 2 * c) % 8))

/-- The bytes of a Lathe's store that belong to chucks. -/
def chuckAreas (cfg : List Section) (n : Nat) : List Area :=
  let b := bodyOf cfg Ty.lathe Region.solve n
  (List.range (u8 b 0)).map fun c =>
    (Addr.lathe + 0x800000 * n + 32768 * (chuckCellsIn b c).1, 32768 * (chuckCellsIn b c).2)

/-- The area lies in one memory that initiator `id` may read and write: Stock but for the fault ring and the process image, the usable LPDDR5,
a core's local SRAM, the alignment buffer, staging memory of a Lathe, the MRAM application area where Keep STRUCT names it. -/
def Area.usable (cfg : List Section) (v : Variant) (id : Nat) (a : Area) : Bool :=
  let keep := bodyOf cfg Ty.struct Region.keep 0
  (Area.placeable cfg v a && !Area.meets a (imageArea cfg)) ||
    (List.range v.cores).any (fun c => Area.within a (Addr.core + 0x100000 * c) 0x100000) ||
    (v.hasFus && Area.within a Addr.align 0x800000) ||
    (List.range v.lathes).any (fun n =>
      Area.within a (Addr.lathe + 0x800000 * n) v.latheStore && (chuckAreas cfg n).all fun k => !Area.meets a k) ||
    (bit (u32 keep 0xC) id && bit (u32 keep 0x10) id && Area.within a (Addr.records v + 0x80000) (2 * v.mramS - 0x80000))

/-! ### Solve STRUCT -/

def slotArea (b : List Byte) (n : Nat) : Area := (Addr.stock + u32 b (16 * n + 4), 32768)

def solveStructValue (cfg : List Section) (v : Variant) (b : List Byte) : Conds :=
  let role := u8 (bodyOf cfg Ty.fed Region.solve 0) 0
  let ps : Area := (Addr.stock + u32 b 0x40, 256)
  let fed := decide (1 ≤ role) && decide (role ≤ 3) && v.hasFed
  bodyIs b 0x50 ++ (List.range v.lathes).flatMap (fun n =>
    let o := 16 * n
    reserved b o 4 ++ [(u32 b (o + 4) % 128 == 0 && Area.placeableInStock v (slotArea b n), o + 4)] ++ reserved b (o + 8) 8) ++
    [(apart ((List.range v.lathes).map (slotArea b) ++ if fed then [ps] else []), 4)] ++
    (if fed then [(u32 b 0x40 % 256 == 0 && Area.placeableInStock v ps, 0x40)] else reserved b 0x40 4) ++ reserved b 0x44 12

def solveStructAbsent (v : Variant) (b : List Byte) : Conds :=
  ((List.range 4).filter fun n => v.lathes ≤ n).flatMap fun n => reserved b (16 * n) 16

/-! ### LATHE: R267, R320 -/

def warmArea (cfg : List Section) (n : Nat) : Area :=
  let b := bodyOf cfg Ty.lathe Region.solve n
  (u64 b 8, u16 b 2 * u32 b 4)

def latheValue (cfg : List Section) (v : Variant) (n : Nat) (b : List Byte) : Conds :=
  let k := u8 b 0
  let fed := bodyOf cfg Ty.fed Region.solve 0
  let cells := (List.range k).flatMap fun c => (List.range ((chuckCellsIn b c).2 / 4)).map fun i => (chuckCellsIn b c).1 / 4 + i
  bodyIs b 256 ++ in8 b 0 0 (if v = Variant.ev4804 then 32 else 64) ++ in8 b 1 0 100 ++ in16 b 2 0 256 ++
    [(u32 b 4 % 64 == 0 && decide (128 ≤ u32 b 4), 4), (u64 b 8 % 64 == 0 && decide (u64 b 8 < 2 ^ 40), 8),
     (u16 b 2 == 0 || decide (v.lathes ≤ n) || Area.usable cfg v (8 + n) (warmArea cfg n), 8),
     ((List.range 4).all fun m => m == n || !Area.meets (warmArea cfg m) (warmArea cfg n), 8)] ++ in8 b 0x10 0 1 ++ reserved b 0x11 47 ++
    (List.range 32).flatMap (fun i => in16 b (0x40 + 2 * i) 0 1024) ++
    [(!(u8 fed 0x2E != 0 && u8 fed 0x2F == n) || u16 b 0x6E != 0, 0x6E)] ++
    (List.range k).flatMap (fun c =>
      let (f, z) := chuckCellsIn b c
      [(decide (u8 b (0x81 + 2 * c) ≤ 6), 0x81 + 2 * c), (f % z == 0, 0x80 + 2 * c), (decide (v.lathes ≤ n) || decide (f + z ≤ v.cellsPerLathe), 0x80 + 2 * c)]) ++
    [(distinct cells, 0x80)] ++ reserved b (0x80 + 2 * k) (128 - 2 * k)

def latheAbsent (v : Variant) (n : Nat) : Conds := [(decide (n < v.lathes), 0)]

/-! ### FED: R311, R313, R316, R339 -/

def fedTable (b : List Byte) : Nat := 0x50 + 16 * u16 b 0xE
/-- Index-table entries the body has room for. -/
def fedEntries (b : List Byte) : Nat := (b.length - fedTable b) / 4
/-- Entries `first` to `first + n - 1` exist, name indices below NG, and carry weights or none. -/
def fedListOk (b : List Byte) (first n : Nat) (weights : Bool) : Bool :=
  decide (first + n ≤ fedEntries b) && (List.range n).all fun i =>
    let o := fedTable b + 4 * (first + i)
    decide (u16 b o < u32 b 0x40) && (if weights then u8 b (o + 2) != 0 else u8 b (o + 2) == 0)
def nodesAt (b : List Byte) (o : Nat) : List Nat := ((List.range 3).map fun k => u16 b (o + 2 * k)).filter (· != 0xFFFF)
def nodesOk (b : List Byte) (o : Nat) : Bool := !(nodesAt b o).isEmpty && (nodesAt b o).all fun n => decide (n < 2 ^ 14)

def fedChildConds (b : List Byte) (c : Nat) : Conds :=
  let o := 0x50 + 16 * c
  let area := u8 b (o + 6) == 1
  [(nodesOk b o, o)] ++ in8 b (o + 6) 0 (if u8 b 0 = 3 then 1 else 0) ++
    (if area then [(u16 b (o + 0xC) != 0 && fedListOk b (u32 b (o + 8)) (u16 b (o + 0xC)) false, o + 8)]
     else in8 b (o + 7) 1 28 ++ [(fedListOk b (u32 b (o + 8)) (u8 b (o + 7)) true, o + 8)]) ++ reserved b (o + 0xE) 2

/-- Bytes of the coordinator's state area with its area records. -/
def fedStateBytes (b : List Byte) : Nat :=
  let cs := List.range (u16 b 0xE)
  let area := fun c => u8 b (0x56 + 16 * c) == 1
  16 * u32 b 0x40 + cs.foldl (fun n c => n + if area c then 28 * u16 b (0x5C + 16 * c) + 64 else 16 * u8 b (0x57 + 16 * c)) 0

def fedValue (cfg : List Section) (v : Variant) (b : List Byte) : Conds :=
  let role := u8 b 0
  let top := role == 3
  let coord := decide (2 ≤ role)
  let member := role == 1 || bit (u8 b 1) 1
  let n := u16 b 0xE
  let areas := ((List.range n).filter fun c => u8 b (0x56 + 16 * c) == 1).length
  let (off, div, mult) := assignedAs cfg (u8 b 8) (u8 b 9)
  let round := sourceIn cfg (u8 b 8)
  let none := fun o k => reserved b o k
  let rho := fpField b 0x1C
  in8 b 0 0 3 ++ in8 b 1 0 3 ++ reserved b 0x4A 6 ++ (if top then in16 b 0xA 1 1000 ++ in16 b 0xC 1 (u16 b 0xA) else none 0xA 4) ++
    (if coord then in16 b 0xE 1 1024 else none 0xE 2) ++ [(decide (0x50 + 16 * n ≤ b.length), 0xE)] ++
    (if member then in8 b 0x2E 1 28 else none 0x2E 1 ++ none 0x30 8) ++ (if coord then in32 b 0x40 1 65536 else none 0x38 8) ++
    (if role = 2 then in16 b 0x48 1 4096 else none 0x44 6) ++
    (if role = 0 then []
     else
      in8 b 2 1 15 ++ in8 b 3 1 16 ++
        [(decide (u8 b 8 < 8) && decide (u8 b 9 < 64) && assignedTo cfg (u8 b 8) (u8 b 9) Consumer.fed, 8),
         (round == (if top then Src.time else Src.round) && off == 0 && decide (div ≤ 1) && decide (mult ≤ 1), 8),
         (decide (0 < u32 b 0x18) && decide (u32 b 0x18 < u32 b 0x10), 0x18),
         (if top && areas != 0 then decide (u32 b 0x10 < u32 b 0x14) else u32 b 0x14 == 0, 0x14),
         ((f32.decode 0x358637BD).le rho && rho.le (Fp.ofInt f64 1000000), 0x1C)] ++ fpPositive b 0x20 ++ fpPositive b 0x24 ++
        (if top then [(nodesAt b 0x28 == [], 0x28)] else [(nodesOk b 0x28, 0x28)]) ++ [(decide (areas ≤ 16), 0xE)] ++
        (List.range n).flatMap (fedChildConds b) ++ [(distinct (nodesAt b 0x28 ++ (List.range n).flatMap fun c => nodesAt b (0x50 + 16 * c)), 0x50)] ++
        (if role = 2 then [(fedListOk b (u32 b 0x44) (u16 b 0x48) false, 0x44)] else []) ++
        (List.range (fedEntries b)).map (fun i => (u8 b (fedTable b + 4 * i + 3) == 0, fedTable b + 4 * i + 3)) ++
        (if member then
          [(decide (u8 b 0x2F < 4) && (decide (v.lathes ≤ u8 b 0x2F) || (findSection Ty.lathe Region.solve (u8 b 0x2F) cfg).isSome), 0x2F),
           (Area.usable cfg v 0x17 (u64 b 0x30, 64 + 32 * u8 b 0x2E), 0x30)]
         else []) ++
        (if coord then [(Area.usable cfg v 0x17 (u64 b 0x38, fedStateBytes b), 0x38)] else []))

def fedAbsent (v : Variant) (b : List Byte) : Conds :=
  let role := u8 b 0
  let member := role == 1 || bit (u8 b 1) 1
  [(v.hasFed || v.hasFedCoordinator, 0), (decide (role < 2) || v.hasFedCoordinator, 0), (!member || v.hasFed, 0),
   (!member || decide (u8 b 0x2F < v.lathes), 0x2F)]

end Sys2Proof.Machine
end

