-- ==== Sys2Proof/Machine/Image.lean ====
section
/-! DEFINITION. The items of a checkpoint image and its size (12, "Cuts"): R714. -/
namespace Sys2Proof.Machine

/-- What an item holds: memory at an address, the state area of a task, or the state of a block. -/
inductive ItemKind where
  | memory (addr : Nat)
  | task (t : Nat)
  | tsk
  | cle
  | prf
  | fed
  deriving DecidableEq, Repr

/-- An item: what it holds, its length, and KIND of its header: its INCL bit, or 0x10 plus the segment. -/
structure ImageItem where
  what : ItemKind
  len : Nat
  kind : Nat
  deriving DecidableEq, Repr

/-- Memory that stands at an address of a section; one at address 0 is left out. -/
def memoryItem (addr len kind : Nat) : List ImageItem := if addr = 0 then [] else [{ what := .memory addr, len := len, kind := kind }]

def taskItems (cfg : List Section) : List ImageItem :=
  let b := bodyOf cfg Ty.task Region.control 0
  if !hasType cfg Ty.task Region.control then []
  else
    (List.range (u8 b 0)).flatMap (fun p => memoryItem (u64 b (programEntry p + 0x20)) (u32 b (programEntry p + 0x14)) 0) ++
      (List.range (u8 b 1)).map (fun t => { what := .task t, len := (taskDefOf b t).stateLen, kind := 0 }) ++
      [{ what := .memory (Addr.stock + u32 b 4), len := 8 * u16 b 2, kind := 0 }, { what := .tsk, len := 64 + 16 * u8 b 0 + 16 * u8 b 1, kind := 0 }]

def fedItems (cfg : List Section) : List ImageItem :=
  let b := bodyOf cfg Ty.fed Region.solve 0
  if !hasType cfg Ty.fed Region.solve then []
  else
    memoryItem (u64 b 0x38) (fedStateBytes b) 3 ++ memoryItem (u64 b 0x30) (64 + 32 * u8 b 0x2E) 3 ++
      [{ what := .fed, len := 128 + 8 * u16 b 0xE, kind := 3 }]

def warmItems (cfg : List Section) (v : Variant) : List ImageItem :=
  (List.range v.lathes).flatMap fun n =>
    let b := bodyOf cfg Ty.lathe Region.solve n
    if u16 b 2 = 0 then [] else memoryItem (u64 b 8) (u16 b 2 * u32 b 4) 4

/-- The items that INCL and the segments of a HINGE body ask for, in their order. -/
def imageItems (cfg : List Section) (v : Variant) (h : List Byte) : List ImageItem :=
  let incl := fun k => bit (u8 h 0xB) k
  (if incl 0 then taskItems cfg else []) ++
    (if incl 1 && hasType cfg Ty.loop Region.control then
      [{ what := .cle, len := 64 + 768 * u16 (bodyOf cfg Ty.loop Region.control 0) 0, kind := 1 }] else []) ++
    (if incl 2 then [{ what := .prf, len := 32 * v.axes, kind := 2 }] else []) ++ (if incl 3 then fedItems cfg else []) ++
    (if incl 4 then warmItems cfg v else []) ++
    (List.range (u8 h 0xE)).flatMap fun k => memoryItem (u64 h (0x40 + 16 * k)) (u32 h (0x48 + 16 * k)) (0x10 + k)

def imageSize (items : List ImageItem) : Nat := items.foldl (fun n i => n + 16 + i.len) 80

end Sys2Proof.Machine
end

