-- ==== Sys2Proof/Machine/CheckKeep.lean ====
section
/-! DEFINITION. Checks 10 and 11 of the Keep sections and of every region's WARD section: Keep STRUCT (03), WARD (05), LATCH and HINGE (12), KEYPOL
(17). -/
namespace Sys2Proof.Machine

/-! ### Keep STRUCT (03) -/

def keepStructValue (b : List Byte) : Conds :=
  bodyIs b 64 ++ in8 b 1 0 1 ++ in16 b 2 0 63 ++ in16 b 4 600 900 ++ in16 b 6 (u16 b 4) 900 ++ in8 b 8 0 15 ++ reserved b 9 3 ++ reserved b 0x24 28

/-- CORE_SECURE names no absent core. -/
def keepStructAbsent (v : Variant) (b : List Byte) : Conds := [(decide (u8 b 0 < 2 ^ v.cores), 0)]

/-! ### WARD: R229, R236, R242 -/

/-- SUBJECT of a holder's kind. -/
def subjectOk (kind x : Nat) : Bool :=
  if kind = 0 then x == 0
  else if kind = 1 then decide (x < 64)
  else if kind = 2 then decide (x % 256 < 32)
  else if kind = 3 then decide (x < 16)
  else if kind = 4 then decide (x < 2)
  else decide (x < 4)

def limitsConds (b : List Byte) (o : Nat) : Conds :=
  in8 b o 0 31 ++ reserved b (o + 1) 1 ++ in16 b (o + 2) 20 200 ++ in16 b (o + 4) 300 1200 ++ [(u16 b (o + 4) % 100 == 0, o + 4)] ++
    in16 b (o + 6) 300 1200 ++ [(u16 b (o + 6) % 100 == 0, o + 6)] ++ in8 b (o + 8) 70 110 ++ reserved b (o + 9) 1 ++ in8 b (o + 0xA) 1 50 ++
    in8 b (o + 0xB) (u8 b (o + 0xA) + 5) 90 ++ in16 b (o + 0xC) 100 60000 ++ in16 b (o + 0xE) 10 10000 ++ in8 b (o + 0x10) 16 64 ++
    in8 b (o + 0x11) 0 15 ++ in16 b (o + 0x12) 60 43200 ++ reserved b (o + 0x14) 44

def keepWardValue (cfg : List Section) (b : List Byte) : Conds :=
  let n := u8 b 0
  let kind := fun h => u8 b (holderEntry h)
  let sum := (List.range n).foldl (fun m h => m + u32 b (holderEntry h + 4)) 0
  in8 b 0 1 64 ++ bodyIs b (80 + 16 * n) ++ reserved b 1 1 ++
    [(decide (u8 b 2 < 8) || u8 b 2 == 0xFF, 2), (if u8 b 2 = 0xFF then u8 b 3 == 0 else decide (u8 b 3 < 64) && assignedTo cfg (u8 b 2) (u8 b 3) Consumer.wrd, 3)] ++
    in32 b 4 10000 10000000 ++ reserved b 8 8 ++
    (List.range n).flatMap (fun h =>
      let o := holderEntry h
      in8 b o 0 5 ++ [((kind h == 0) == (h == 0), o)] ++ in8 b (o + 1) 0 1 ++
        [(subjectOk (kind h) (u16 b (o + 2)), o + 2), ((List.range h).all fun k => kind k != kind h || u16 b (holderEntry k + 2) != u16 b (o + 2), o + 2)] ++
        reserved b (o + 8) 8) ++
    [(decide (8 * sum ≤ 7 * u32 b 4), 0x14)] ++ limitsConds b (holderEntry n)

/-- A holder of an absent unit. -/
def keepWardAbsent (v : Variant) (b : List Byte) : Conds :=
  (List.range (u8 b 0)).map fun h =>
    let o := holderEntry h
    let x := u16 b (o + 2)
    ((u8 b o != 3 || v.hasMil (x / 8 % 2)) && (u8 b o != 4 || x != 0 || v.hasPci) && (u8 b o != 5 || decide (x < v.lathes)), o + 2)

/-- TARGET of an entry lies in the region (R242). -/
def wardTargetOk (region level target : Nat) : Bool :=
  let block := decide (target < 0x80) && regionOfReg (target * 0x10000) == region
  if level = 1 then
    block || target == 0x80 || (target == 0x81 && region == 0) || (target == 0x82 && region == 1) || (target == 0x83 && region == 2)
  else if level = 2 then block
  else target == 0

/-- The capacity of an arbiter, rounded down: the LPDDR5 controller's is 0.65 of the period's beats (R235). -/
def wardCapacity (nomp level target : Nat) : Nat := if level = 2 ∧ target = 0x32 then 65 * nomp / 100 else nomp

/-- Entry `y` of one body and entry `x` of another name one arbiter of a region, or of the Stock SRAM. -/
def sameArbiter (b : List Byte) (x : Nat) (c : List Byte) (y : Nat) : Bool :=
  let o := 0x10 + 16 * x
  let p := 0x10 + 16 * y
  u8 b (o + 1) == u8 c (p + 1) && u8 b (o + 2) == u8 c (p + 2) && (unitNames (u8 b (o + 1)) (u8 b (o + 3)) (u8 c (p + 3)) || u8 c (p + 3) == 0xFF)

/-- The WARD bodies of other regions, whose entries may name a bank of the Stock SRAM too. -/
def otherWards (cfg : List Section) (region : Nat) : List (List Byte) :=
  ((List.range 4).filter (· != region)).map fun r => bodyOf cfg Ty.ward r 0

/-- The allotments in one body at the arbiters entry `x` of body `b` names. -/
def arbiterSumIn (b : List Byte) (x : Nat) (c : List Byte) : Nat :=
  let o := 0x10 + 16 * x
  (List.range (u16 c 0)).foldl (fun n y =>
    let p := 0x10 + 16 * y
    if u8 b (o + 1) = u8 c (p + 1) ∧ u8 b (o + 2) = u8 c (p + 2) ∧ unitNames (u8 b (o + 1)) (u8 c (p + 3)) (u8 b (o + 3)) = true
    then n + u32 c (p + 4) else n) 0

/-- The allotments at the arbiters entry `x` names (R236). -/
def arbiterSum (cfg : List Section) (region : Nat) (b : List Byte) (x : Nat) : Nat :=
  let stock := u8 b (0x10 + 16 * x + 2) == 0x80
  arbiterSumIn b x b + (if stock then ((otherWards cfg region).map (arbiterSumIn b x)).sum else 0)

/-- No entry before it, and none of another region at the Stock SRAM, names the holder and the arbiter of entry `e` (R242). -/
def arbiterOnce (cfg : List Section) (region : Nat) (b : List Byte) (e : Nat) : Bool :=
  let o := 0x10 + 16 * e
  ((List.range e).all fun k => u8 b (0x10 + 16 * k) != u8 b o || !sameArbiter b e b k) &&
    (u8 b (o + 2) != 0x80 || (otherWards cfg region).all fun c =>
      (List.range (u16 c 0)).all fun k => u8 c (0x10 + 16 * k) != u8 b o || !sameArbiter b e c k)

def regionWardValue (cfg : List Section) (region : Nat) (b : List Byte) : Conds :=
  let keep := bodyOf cfg Ty.ward Region.keep 0
  let n := u16 b 0
  in16 b 0 0 4095 ++ bodyIs b (16 + 16 * n) ++ reserved b 2 14 ++ (List.range n).flatMap fun e =>
    let o := 0x10 + 16 * e
    [(decide (u8 b o < u8 keep 0), o)] ++ in8 b (o + 1) 1 3 ++ [(wardTargetOk region (u8 b (o + 1)) (u8 b (o + 2)), o + 2),
      (arbiterOnce cfg region b e, o),
      (decide (8 * arbiterSum cfg region b e ≤ 7 * wardCapacity (u32 keep 4) (u8 b (o + 1)) (u8 b (o + 2))), o + 4)] ++ reserved b (o + 8) 8

/-- How many instances UNIT tells apart: the banks and engines of the memories, a Lathe's cells, the one port of a block and the one mesh of a
region. Of the other blocks' cells the spec gives no count. -/
def Variant.wardUnits (v : Variant) (level target : Nat) : Nat :=
  if level ≠ 1 then 1
  else if target = 0x80 then v.stockBanks
  else if target = 0x81 then v.cores
  else if target = 0x82 then v.lathes
  else if target = 0x83 then (if v.hasFus then 128 else 0)
  else if 0x10 ≤ target ∧ target ≤ 0x13 then v.cellsPerLathe
  else 255

def regionWardAbsent (v : Variant) (b : List Byte) : Conds :=
  (List.range (u16 b 0)).map fun e =>
    let o := 0x10 + 16 * e
    let l := u8 b (o + 1)
    let t := u8 b (o + 2)
    let n := v.wardUnits l t
    ((l == 3 || decide (0x80 ≤ t) || !v.windowAbsent t) && decide (0 < n) && (u8 b (o + 3) == 0xFF || decide (u8 b (o + 3) < n)), o + 2)

/-! ### LATCH: R531, R617 -/

/-- A LINK word and its ID are well-formed; a CAN link stands on a controller with FD. -/
def latchLinkOk (cfg : List Section) (w id : Nat) : Bool :=
  !bit w 7 || (decide (w < 256) && (if bit w 0 then decide (w / 16 % 8 < 6) && id / 2 ^ 14 % 4 == 0
    else decide (id < 2 ^ 30) && bit (u8 (bodyOf cfg Ty.struct Region.link 0) (0x492 + 0x20 * (w / 2 % 4))) 0))
def latchLinkHere (v : Variant) (w : Nat) : Bool := !bit w 7 || (if bit w 0 then v.hasMil (w / 8 % 2) else decide (w / 2 % 4 < v.cans))

/-- The part's SETID in a configuration; without a HINGE section its node (R489). -/
def setidIn (cfg : List Section) (node : Nat) : Nat := setidOf cfg node

def latchConds (cfg : List Section) (node : Nat) (b : List Byte) (c : Nat) : Conds :=
  let o := latchEntry c
  let drive := u8 b (o + 1)
  let t := u16 b (o + 0x14)
  if u8 b o = 0 then reserved b o 48
  else
    in8 b o 0 1 ++ in8 b (o + 1) 0 3 ++ in8 b (o + 2) 0 3 ++ in8 b (o + 3) 0 7 ++ in16 b (o + 4) 0 0x3FFF ++
      [(u8 b (o + 2) == 0 || u16 b (o + 4) == setidIn cfg node, o + 2)] ++ in8 b (o + 6) 1 255 ++ in8 b (o + 7) 0 1 ++
      [(decide (u32 b (o + 0xC) < 2 ^ 20), o + 0xC)] ++ in32 b (o + 0x10) 100 10000000 ++
      [(if drive = 0 then t == 0 else if drive = 1 then decide (t < 128) && hasType cfg Ty.pinmux Region.link else if drive = 2 then decide (t < 16)
        else decide (t < 64), o + 0x14)] ++ reserved b (o + 0x16) 2 ++
      [(latchLinkOk cfg (u32 b (o + 0x1C)) (u32 b (o + 0x20)) && (drive != 3 || bit (u32 b (o + 0x1C)) 7), o + 0x1C),
       (latchLinkOk cfg (u32 b (o + 0x24)) (u32 b (o + 0x28)), o + 0x24)] ++ reserved b (o + 0x2C) 4

def latchValue (cfg : List Section) (v : Variant) (node : Nat) (b : List Byte) : Conds :=
  let used := (List.range (u8 b 0)).filter fun c => u8 b (latchEntry c) == 1
  in8 b 0 0 v.latch ++ bodyIs b (pad16 (0x20 + 48 * u8 b 0)) ++ in8 b 1 0 1 ++ in16 b 2 10 10000 ++ in32 b 4 100 1000000 ++
    [(latchLinkOk cfg (u32 b 8) (u32 b 0xC), 8)] ++ reserved b 0x10 16 ++ (List.range (u8 b 0)).flatMap (latchConds cfg node b) ++
    [(decide ((used.map fun c => u16 b (latchEntry c + 4)).eraseDups.length ≤ 8), 0)]

def latchAbsent (v : Variant) (b : List Byte) : Conds :=
  [(latchLinkHere v (u32 b 8), 8)] ++ (List.range (u8 b 0)).flatMap fun c =>
    let o := latchEntry c
    [(!bit (u8 b (o + 3)) 1 || decide (u32 b (o + 8) / 2 ^ 30 < v.cans), o + 8), (!bit (u8 b (o + 3)) 2 || v.hasMil (u32 b (o + 0xC) / 8 % 2), o + 0xC),
     (u8 b (o + 1) != 2 || decide (u16 b (o + 0x14) < v.axes), o + 0x14), (latchLinkHere v (u32 b (o + 0x1C)), o + 0x1C),
     (latchLinkHere v (u32 b (o + 0x24)), o + 0x24)]

/-! ### HINGE: R530 -/

/-- The local SRAM of a core that is present and no checker. -/
def inCoreSram (cfg : List Section) (v : Variant) (a : Area) : Bool :=
  let c := (a.1 - Addr.core) / 0x100000
  decide (Addr.core ≤ a.1) && decide (c < v.cores) && decide (a.1 + a.2 ≤ Addr.core + 0x100000 * (c + 1)) && !bit (checkerBits (pairsOf cfg)) c

def peerConds (b : List Byte) (p : Nat) : Conds :=
  let o := 0x28 + 8 * p
  let path := u8 b (o + 4)
  if u8 b (o + 2) = 0 then reserved b o 8
  else in16 b o 0 0x3FFF ++ in8 b (o + 2) 1 15 ++ in8 b (o + 3) 1 15 ++ in8 b (o + 4) 0 15 ++ [(path % 4 == 1 || path % 4 == 2, o + 4)] ++ reserved b (o + 5) 3

def hingeValue (cfg : List Section) (v : Variant) (b : List Byte) : Conds :=
  let used := ([0, 1] : List Nat).filter fun p => u8 b (0x2A + 8 * p) != 0
  let items := u8 b 0xB != 0 || u8 b 0xE != 0
  let buf : Area := (u64 b 0x18, u32 b 0x20)
  let image := imageArea cfg
  in8 b 0 1 3 ++ bodyIs b (0x40 + 16 * u8 b 0xE) ++ in8 b 1 1 15 ++ in8 b 2 1 15 ++ in8 b 3 0 3 ++ in16 b 4 0 0x3FFF ++ in16 b 6 50 330 ++
    [(decide (u8 b 8 < 8) && decide (u8 b 9 < 64) && assignedTo cfg (u8 b 8) (u8 b 9) Consumer.tsk, 8)] ++ in8 b 0xA 1 255 ++ in8 b 0xB 0 31 ++
    in16 b 0xC 10 10000 ++ in8 b 0xE 0 32 ++ reserved b 0xF 1 ++ [(u32 b 0x10 == 0 || (decide (600 ≤ u32 b 0x10) && decide (u32 b 0x10 ≤ 604800)), 0x10)] ++
    in32 b 0x14 10 86400 ++ [(decide (u64 b 0x18 < 2 ^ 40), 0x18)] ++ ([0, 1] : List Nat).flatMap (peerConds b) ++ reserved b 0x38 8 ++
    [(used.length + 1 == u8 b 0, 0), (distinct (u8 b 1 :: used.map fun p => u8 b (0x2A + 8 * p)), 1),
     (distinct (u8 b 2 :: used.map fun p => u8 b (0x2B + 8 * p)), 2), (distinct (used.map fun p => u8 b (0x2C + 8 * p) % 4), 0x2C),
     (!items || bit (u8 b 3) 1 || used.all fun p => bit (u8 b (0x2C + 8 * p)) 2, 0xB),
     (decide (imageSize (imageItems cfg v b) ≤ u32 b 0x24), 0x24), (decide (2 * (u32 b 0x24 + 64) + 65536 ≤ u32 b 0x20), 0x20),
     (Area.placeable cfg v buf && !Area.meets buf image, 0x18)] ++
    (List.range (u8 b 0xE)).flatMap fun k =>
      let o := 0x40 + 16 * k
      let a : Area := (u64 b o, u32 b (o + 8))
      [(decide (a.1 < 2 ^ 40) && (Area.inStockOrDdr cfg v a || inCoreSram cfg v a) && !Area.meets a faultRing && !Area.meets a image, o),
       (a.2 % 64 == 0, o + 8)] ++ reserved b (o + 0xC) 4

def hingeAbsent (v : Variant) (b : List Byte) : Conds :=
  let milio := fun p => bit (u8 b (0x2C + 8 * p)) 2
  ([0, 1] : List Nat).map (fun p => (!milio p || v.hasMil (u8 b (0x2C + 8 * p) / 8 % 2), 0x2C + 8 * p)) ++
    (if v = .ev4801 then [(u8 b 0xB == 0, 0xB), (u8 b 0xE == 0, 0xE), (bit (u8 b 3) 1, 3)] else [])

/-! ### KEYPOL: R664 -/

/-- Usages a type permits. -/
def usageOk (type usage : Nat) : Bool :=
  if type = 1 then usage == 4 || usage == 8 || usage == 16
  else if type = 2 then usage == 1
  else type == 4 && usage == 4

/-- The entry of a slot among the first `n`. -/
def keyEntryOf (b : List Byte) (n slot : Nat) : Option Nat := (List.range n).find? fun k => u8 b (0x10 + 32 * k) == slot

/-- The level of an entry: one below its parent; slots 3 to 15 are at level 1. -/
def keyLevel (b : List Byte) : Nat → Nat → Nat
  | 0, _ => 4
  | fuel + 1, k =>
    let p := u8 b (0x11 + 32 * k)
    if p = 0 then 1
    else if p < 16 then 2
    else match keyEntryOf b k p with
      | some j => keyLevel b fuel j + 1
      | none => 4

def keyLinkEntry (b : List Byte) (k : Nat) : Nat := 0x10 + 32 * u16 b 0 + 8 * k

/-- A persistent slot, 3 to 15, is EMPTY or a SECRET with DERIVE. -/
def persistentOk (keys : List KeySlot) (slot : Nat) : Bool :=
  let q := keys.getD slot default
  decide (3 ≤ slot) && decide (slot < 16) && (q.state == 0 || (q.type == 1 && q.usage == 4))

def keyEntryConds (keys : List KeySlot) (b : List Byte) (k : Nat) : Conds :=
  let o := 0x10 + 32 * k
  let p := u8 b (o + 1)
  let parent := match keyEntryOf b k p with
    | some j => u8 b (0x12 + 32 * j) == 1 && u8 b (0x13 + 32 * j) == 4
    | none => p == 0 || persistentOk keys p
  in8 b o 16 255 ++ [((keyEntryOf b k (u8 b o)).isNone, o), (parent, o + 1), (decide (keyLevel b 4 k ≤ 3), o + 1),
    ([1, 2, 4].contains (u8 b (o + 2)), o + 2), (usageOk (u8 b (o + 2)) (u8 b (o + 3)), o + 3)] ++ in8 b (o + 4) 1 3 ++ in8 b (o + 5) 0 31 ++
    reserved b (o + 6) 2 ++ reserved b (o + 0x1C) 4

def linkEntryConds (cfg : List Section) (keys : List KeySlot) (b : List Byte) (k : Nat) : Conds :=
  let o := keyLinkEntry b k
  let enc := bit (u8 (bodyOf cfg Ty.struct Region.link 0) (vcEntry (u8 b o) (u8 b (o + 1)))) 1
  let root := match keyEntryOf b (u16 b 0) (u8 b (o + 2)) with
    | some j => u8 b (0x12 + 32 * j) == 1 && u8 b (0x13 + 32 * j) == 4 && bit (u32 b (0x18 + 32 * j)) (Init.milDma + u8 b o)
    | none =>
      let q := keys.getD (u8 b (o + 2)) default
      persistentOk keys (u8 b (o + 2)) && (q.state == 0 || bit q.init (Init.milDma + u8 b o))
  in8 b o 0 1 ++ in8 b (o + 1) 0 7 ++ [(root, o + 2), (enc, o), ((List.range k).all fun j => u16 b (keyLinkEntry b j) != u16 b o, o)] ++ reserved b (o + 3) 5

def keypolValue (cfg : List Section) (keys : List KeySlot) (b : List Byte) : Conds :=
  let link := bodyOf cfg Ty.struct Region.link 0
  let n := u8 b 2
  in16 b 0 0 240 ++ in8 b 2 0 16 ++ reserved b 3 13 ++ bodyIs b (pad16 (keyLinkEntry b n)) ++ (List.range (u16 b 0)).flatMap (keyEntryConds keys b) ++
    (List.range n).flatMap (linkEntryConds cfg keys b) ++
    [((List.range 16).all fun i => !bit (u8 link (vcEntry (i / 8) (i % 8))) 1 ||
      (List.range n).any fun k => u8 b (keyLinkEntry b k) == i / 8 && u8 b (keyLinkEntry b k + 1) == i % 8, 2)] ++
    reserved b (keyLinkEntry b n) (pad16 (keyLinkEntry b n) - keyLinkEntry b n)

def keypolAbsent (v : Variant) (b : List Byte) : Conds := (List.range (u8 b 2)).map fun k => (v.hasMil (u8 b (keyLinkEntry b k)), keyLinkEntry b k)

end Sys2Proof.Machine
end

