-- ==== Sys2Proof/Machine/CheckSense.lean ====
section
/-! DEFINITION. Checks 10 and 11 of the Sense sections: SPINDLE (04), FUSION (10), METRO (11) and Sense STRUCT (10, 11). -/
namespace Sys2Proof.Machine

/-! ### SPINDLE (04) -/

/-- A spindle entry's fields. -/
def spindleConds (b : List Byte) (n : Nat) : Conds :=
  let o := spindleEntry n
  let src := u8 b o
  if src = Src.unused then reserved b (o + 1) 63
  else
    let inputs := if src = Src.mains then 2 else if src = Src.shaft ∨ src = Src.pulse then 3 else if src = Src.round then 1 else 0
    let period : Conds :=
      if src = Src.time then [(decide (20000 ≤ u32 b (o + 8)), o + 8)]
      else if src = Src.shaft then in32 b (o + 8) 4 0x100000
      else if src = Src.pulse then in32 b (o + 8) 1 65536
      else reserved b (o + 8) 4
    (decide (src ≤ 5), o) :: in8 b (o + 1) 0 inputs ++ in8 b (o + 2) 0 15 ++
      [(decide (u8 b (o + 3) < 32) || u8 b (o + 3) == 0xFF, o + 3)] ++
      [(src == Src.time || src == Src.host || u16 b (o + 4) != 0, o + 4)] ++ reserved b (o + 6) 2 ++ period ++ reserved b (o + 0xC) 4 ++
      [(decide (u32 b (o + 0x18) < 1000000000) && (src == Src.time || u32 b (o + 0x18) == 0), o + 0x18)] ++
      [(u32 b (o + 0x20) != 0, o + 0x20),
       (decide (u32 b (o + 0x20) ≤ u32 b (o + 0x24)) && decide (u32 b (o + 0x24) ≤ 65535 * 65536), o + 0x24)] ++ reserved b (o + 0x2C) 20

/-- The local voltage channel of a MAINS spindle is in use in METRO (04, "The SPINDLE section"). -/
def mainsConds (cfg : List Section) (b : List Byte) (n : Nat) : Conds :=
  let o := spindleEntry n
  [(u8 b o != Src.mains || u8 (bodyOf cfg Ty.metro Region.sense 0) (0x40 + 16 * u8 b (o + 1)) != 0, o + 1)]

/-- The comparator entries; R168. -/
def comparatorConds (b : List Byte) (k : Nat) : Conds :=
  let o := comparatorEntry k
  let twin := (List.range k).any fun j => u16 b (comparatorEntry j) == u16 b o
  in8 b o 0 7 ++ in8 b (o + 1) 0 63 ++ [(!twin, o)] ++ in8 b (o + 2) 1 7 ++ reserved b (o + 3) 1 ++ in16 b (o + 8) 0 4095 ++
    in16 b (o + 0xA) 0 4095 ++ [(decide (u16 b (o + 8) ≤ 1) || decide (u16 b (o + 0xA) ≤ 1), o + 8)] ++ reserved b (o + 0xC) 4

def spindleValue (cfg : List Section) (b : List Byte) : Conds :=
  let n := u16 b 0
  in16 b 0 0 512 ++ bodyIs b (528 + 16 * n) ++ reserved b 2 14 ++ (List.range 8).flatMap (spindleConds b) ++
    (List.range 8).flatMap (mainsConds cfg b) ++ (List.range n).flatMap (comparatorConds b)

def spindleAbsent (v : Variant) (b : List Byte) : Conds :=
  ((List.range 8).map fun n =>
    (u8 b (spindleEntry n) != Src.round || v.hasMil (u8 b (spindleEntry n + 1)), spindleEntry n + 1)) ++
  (List.range (u16 b 0)).map fun k =>
    let c := u8 b (comparatorEntry k + 2)
    ((c != Consumer.fus || v.hasFus) && (c != Consumer.fed || v.hasFed), comparatorEntry k + 2)

/-! ### FUSION (10): R414, R438, R439 -/

def fusStream (i : Nat) : Nat := 32 + 32 * i
def fusGraph (b : List Byte) (g : Nat) : Nat := 32 + 32 * u8 b 0 + 64 * g
def fusRef (b : List Byte) (r : Nat) : Nat := 32 + 32 * u8 b 0 + 64 * u8 b 1 + 16 * r

def streamConds (b : List Byte) (i : Nat) : Conds :=
  let o := fusStream i
  let kind := u8 b o
  let frame := decide (kind ≤ 3)
  let m := u32 b (o + 4)
  let free := kind == 4 || kind == 5
  let fits := if kind = 2 then decide (m < 2 ^ 17) else if kind = 3 then decide (m < 2 ^ 20 ∧ m % 8 < 6)
    else if kind = 4 then decide (m < 256) else if kind = 5 then m == 0 else true
  in8 b o 1 5 ++ in8 b (o + 1) 0 2 ++ in8 b (o + 2) 1 4 ++
    [(if kind = 5 then decide (u8 b (o + 3) < 32) else u8 b (o + 3) == 0, o + 3), (fits, o + 4)] ++
    in32 b (o + 8) 1 1000000000 ++ [(kind != 4 || u32 b (o + 8) == 1000000000, o + 8)] ++ in16 b (o + 0x10) 16 8192 ++
    (if free then reserved b (o + 0x12) 4
     else [(u8 b (o + 0x12) != 0xFF || u8 b (o + 1) == 2, o + 0x12), (u8 b (o + 0x13) == 4 || u8 b (o + 0x13) == 8, o + 0x13)] ++
       in8 b (o + 0x15) 0 2) ++ reserved b (o + 0x16) 2 ++
    [(!(free || u8 b (o + 0x15) == 0) || u32 b (o + 0x18) == 0, o + 0x18)] ++ (if frame then fpFinite b (o + 0x18) else []) ++
    in32 b (o + 0x1C) 1000 4000000000

/-- The rows of H are distinct unit vectors. -/
def unitRows (b : List Byte) (h m nx : Nat) : Bool :=
  let row := fun i => (List.range nx).map fun j => u32 b (h + 4 * (nx * i + j))
  let one := 0x3F800000
  ((List.range m).all fun i => (row i).all (fun w => w == 0 || w == one) && ((row i).filter (· == one)).length == 1) &&
    ((List.range m).map row).eraseDups.length == m

/-- Values a reference uses: the bits of MAP. -/
def refValues (b : List Byte) (r : Nat) : Nat := (bitsOf (u8 b (fusRef b r + 1)) 4).length

def refConds (b : List Byte) (g r : Nat) : Conds :=
  let o := fusRef b r
  let st := u8 b o
  let m := refValues b r
  let nx := u8 b (fusGraph b g + 2)
  let h := u32 b (o + 4)
  [(decide (st < u8 b 0), o),
   (decide (0 < u8 b (o + 1)) && decide (u8 b (o + 1) < 2 ^ u8 b (fusStream st + 2)), o + 1)] ++ reserved b (o + 2) 2 ++
    [(h % 16 == 0 && decide (h + pad16 (4 * m * nx) + 4 * m * m ≤ b.length), o + 4), (unitRows b h m nx, o + 4)] ++ reserved b (o + 8) 8

/-- A byte below which the entries of the section end. -/
def fusModelStart (b : List Byte) : Nat := fusRef b (u16 b 2)

def graphConds (cfg : List Section) (v : Variant) (b : List Byte) (g : Nat) : Conds :=
  let o := fusGraph b g
  let st := bodyOf cfg Ty.struct Region.sense 0
  let kind := u8 b o
  let nx := u8 b (o + 2)
  let nref := u8 b (o + 3)
  let first := u16 b (o + 0x1C)
  let model := u32 b (o + 0x18)
  let m0 := refValues b first
  let h := fun r => slice b (u32 b (fusRef b r + 4)) (4 * refValues b r * nx)
  let send := bit (u8 b (o + 0x16)) 0
  let trk := kind == 2
  in8 b o 1 2 ++ in8 b (o + 1) 1 3 ++ in8 b (o + 2) 1 8 ++ in8 b (o + 3) 1 8 ++
    [(assignedTo cfg (u8 b (o + 4)) (u8 b (o + 5)) Consumer.fus, o + 4), (firesAtMost cfg (u8 b (o + 4)) (u8 b (o + 5)) 1000, o + 4)] ++
    in16 b (o + 6) 1 2048 ++
    in8 b (o + 8) 0 (if trk then 0 else 8) ++ in8 b (o + 9) 1 255 ++ in16 b (o + 0xA) 1 65535 ++ fpPositive b (o + 0xC) ++
    fpPositive b (o + 0x10) ++ in8 b (o + 0x14) 1 255 ++
    [(u8 b (o + 0x15) == 0xFF || (decide (u8 b (o + 0x15) < 4) && (!v.hasFus || u16 st (0x10 + 2 * u8 b (o + 0x15)) != 0)), o + 0x15)] ++
    in8 b (o + 0x16) 0 3 ++ [(!send || sourceIn cfg (u8 b (o + 4)) == Src.time, o + 4)] ++ reserved b (o + 0x17) 1 ++
    [(model % 16 == 0 && decide (fusModelStart b ≤ model) && decide (model + 3 * pad16 (4 * nx * nx) + pad16 (4 * nx) ≤ b.length), o + 0x18),
     (decide (first + nref ≤ u16 b 2), o + 0x1C)] ++ reserved b (o + 0x1E) 2 ++
    [(decide (u32 b (o + 0x20) < 2 ^ 20) && u32 b (o + 0x20) / 2 ^ 14 % 4 == 0 && decide (u32 b (o + 0x20) / 2 ^ 16 % 8 < 6) &&
        (send || u32 b (o + 0x20) == 0), o + 0x20)] ++
    (List.range nref).flatMap (fun k => refConds b g (first + k)) ++
    [((List.range nref).all fun k => refValues b (first + k) == m0 && h (first + k) == h first, o + 0x1C)] ++
    (if trk then
      let a := u64 b (o + 0x38)
      [(decide (1 ≤ u8 b (o + 0x24)) && decide (u8 b (o + 0x24) ≤ u8 b (o + 0x25)) && decide (u8 b (o + 0x25) ≤ 8), o + 0x24)] ++
        in8 b (o + 0x26) 1 255 ++ (List.range 4).flatMap (fun k => fpFinite b (o + 0x28 + 4 * k)) ++
        [(decide (a < 2 ^ 40) && Area.inStockOrDdr cfg v (a, 128 * (u8 b (o + 0x27) + 1)), o + 0x38)]
    else reserved b (o + 0x24) 28)

/-- The areas of the fusion part in Stock. -/
def fusAreas (cfg : List Section) : List Area :=
  let st := bodyOf cfg Ty.struct Region.sense 0
  let b := bodyOf cfg Ty.fusion Region.sense 0
  (Addr.stock + u32 st 8, 16384) ::
    (Addr.stock + u32 st 0xC, 256 * ((List.range 4).foldl (fun n c => n + u16 st (0x10 + 2 * c)) 0)) ::
    ((List.range (u8 b 1)).filter fun g => u8 b (fusGraph b g) == 2).map fun g =>
      (u64 b (fusGraph b g + 0x38), 128 * (u8 b (fusGraph b g + 0x27) + 1))

def fusionValue (cfg : List Section) (v : Variant) (b : List Byte) : Conds :=
  let st := bodyOf cfg Ty.struct Region.sense 0
  let depths := (List.range (u8 b 0)).foldl (fun n i => n + u16 b (fusStream i + 0x10)) 0
  in8 b 0 1 64 ++ in8 b 1 1 64 ++ in16 b 2 1 512 ++ [(decide (fusModelStart b ≤ b.length), 2)] ++ in16 b 4 0 0x3FFF ++ in8 b 6 1 255 ++
    reserved b 7 1 ++ in32 b 8 1 100000000 ++ reserved b 0xC 20 ++ (List.range (u8 b 0)).flatMap (streamConds b) ++
    (List.range (u8 b 1)).flatMap (graphConds cfg v b) ++
    [(!v.hasFus || decide (0x100000 + 64 * depths ≤ u32 st 4), 0), (apart (faultRing :: imageArea cfg :: fusAreas cfg), 0)]

def fusionAbsent (v : Variant) (b : List Byte) : Conds :=
  (v.hasFus, 0) :: (List.range (u8 b 1)).flatMap (fun g =>
    [(!bit (u8 b (fusGraph b g + 1)) 1 || decide (1 < v.fusion), fusGraph b g + 1),
     (!bit (u8 b (fusGraph b g + 0x16)) 0 || v.hasMil (u32 b (fusGraph b g + 0x20) / 2 ^ 19 % 2), fusGraph b g + 0x20)]) ++
  (List.range (u8 b 0)).map fun i =>
    (u8 b (fusStream i) != 1 || decide (u32 b (fusStream i + 4) / 2 ^ 30 < v.cans), fusStream i + 4)

/-! ### METRO (11): R443, R447, R459, R462, R486 -/

def metSystemAt (b : List Byte) (k : Nat) : Nat := 0xC0 + 16 * u8 b 1 + 128 * k
def metHeatAt (b : List Byte) (h : Nat) : Nat := metSystemAt b (u8 b 0) + 32 * h
def metRtdAt (b : List Byte) (k : Nat) : Nat := metHeatAt b 2 + 20 * k
def metPinAt (b : List Byte) (p : Nat) : Nat := metRtdAt b 4 + 16 * p
def metOutAt (b : List Byte) (n : Nat) : Nat := metPinAt b 4 + 16 * n
def metRegAt (b : List Byte) (j : Nat) : Nat := metOutAt b 4 + 4 * j

/-- KIND of a channel a selector names: 0 where it names none in use. -/
def selectorKind (b : List Byte) (x : Nat) : Nat :=
  if x < 8 then u8 b (0x40 + 16 * x)
  else if 0x40 ≤ x ∧ x < 0x40 + u8 b 1 then u8 b (0xC0 + 16 * (x - 0x40) + 3)
  else 0

/-- The KIND that suits a position of CH: three voltages, four currents, AUX. -/
def positionKind (i : Nat) : Nat := if i < 3 then 1 else if i < 7 then 2 else 3

def localConds (b : List Byte) (c : Nat) : Conds :=
  let o := 0x40 + 16 * c
  if u8 b o = 0 then reserved b o 16
  else
    in8 b o 1 3 ++ in8 b (o + 1) 0 1 ++ [(decide (-8192 ≤ i16 b (o + 2)) && decide (i16 b (o + 2) ≤ 8191) &&
      (u8 b o == 2 || u16 b (o + 2) == 0), o + 2)] ++ fpFinite b (o + 4) ++ reserved b (o + 0xC) 4

def remoteConds (b : List Byte) (r : Nat) : Conds :=
  let o := 0xC0 + 16 * r
  [(decide (u8 b (o + 2) < 16) && decide (u8 b (o + 2) % 8 < 6), o + 2)] ++ in8 b (o + 3) 0 3 ++ fpFinite b (o + 4) ++
    [(decide (-8192 ≤ i16 b (o + 0xC)) && decide (i16 b (o + 0xC) ≤ 8191) && (u8 b (o + 3) == 2 || u16 b (o + 0xC) == 0), o + 0xC)] ++
    reserved b (o + 0xE) 2

/-- Register entries of a source, element and kind. -/
def hasRegister (b : List Byte) (source element kind : Nat) : Bool :=
  (List.range (u8 b 2)).any fun j =>
    u8 b (metRegAt b j) == source && u8 b (metRegAt b j + 1) == element && u8 b (metRegAt b j + 2) == kind

/-- Channels of one sending node come by one port and on one channel, those of its WSEND (R443; DEDUCED, log entry 152). -/
def oneSender (b : List Byte) (used : List Nat) : Bool :=
  match (used.filter fun x => decide (0x40 ≤ x)).map fun x => u8 b (0xC0 + 16 * (x - 0x40) + 2) with
  | [] => true
  | p :: ps => ps.all (· == p)

def systemConds (cfg : List Section) (b : List Byte) (k : Nat) : Conds :=
  let o := metSystemAt b k
  let ch := (List.range 8).map fun i => u8 b (o + 4 + i)
  let used := ch.filter (· != 0xFF)
  [(assignedTo cfg (u8 b o) (u8 b (o + 1)) Consumer.met && sourceIn cfg (u8 b o) == Src.mains, o)] ++
    (let c := assignedAs cfg (u8 b o) (u8 b (o + 1))
     [(c.1 == 0 && decide (c.2.1 ≤ 1) && decide (c.2.2 ≤ 1), o + 1)]) ++ in8 b (o + 2) 0 1 ++ in8 b (o + 3) 0 2 ++
    ((List.range 8).map fun i => (ch.getD i 0xFF == 0xFF || selectorKind b (ch.getD i 0xFF) == positionKind i, o + 4 + i)) ++
    [((used.all fun x => decide (x < 8)) || used.all fun x => decide (0x40 ≤ x), o + 4), (oneSender b used, o + 4)] ++ fpFinite b (o + 0xC) ++
    (List.range 6).flatMap (fun i => fpNotNegative b (o + 0x10 + 4 * i)) ++ reserved b (o + 0x28) 8 ++
    (List.range 4).flatMap (fun e =>
      let p := o + 0x30 + 16 * e
      fpFinite b p ++ fpFinite b (p + 4) ++ fpFinite b (p + 8) ++ in8 b (p + 0xC) 0 1 ++ reserved b (p + 0xD) 3 ++
        [(u8 b (p + 0xC) == 0 || !hasRegister b k e 1, p + 0xC)]) ++ reserved b (o + 0x70) 16

def heatConds (b : List Byte) (h : Nat) : Conds :=
  let o := metHeatAt b h
  if u8 b o = 0 then reserved b o 32
  else
    let rtd := fun n => decide (n < 4) && u8 b (metRtdAt b n) != 0
    in8 b o 1 1 ++ [(rtd (u8 b (o + 1)), o + 1), (rtd (u8 b (o + 2)), o + 2),
      (decide (u8 b (o + 3) < 4) && u8 b (metPinAt b (u8 b (o + 3))) == 1, o + 3)] ++ in8 b (o + 4) 0 1 ++ in8 b (o + 5) 0 1 ++
      in16 b (o + 6) 1 3600 ++ fpFinite b (o + 8) ++ fpNotNegative b (o + 0xC) ++ fpNotNegative b (o + 0x10) ++
      [(u8 b (o + 5) == 0 || !hasRegister b (0x10 + h) 0 9, o + 5)] ++ reserved b (o + 0x14) 12

def rtdConds (b : List Byte) (k : Nat) : Conds :=
  let o := metRtdAt b k
  if u8 b o = 0 then reserved b o 20
  else in8 b o 1 3 ++ [(u8 b (o + 1) == 2 || u8 b (o + 1) == 4, o + 1)] ++ reserved b (o + 2) 2 ++ fpPositive b (o + 4) ++
    fpFinite b (o + 8) ++ [(u8 b (o + 1) == 2 || u32 b (o + 8) == 0, o + 8)] ++ fpFinite b (o + 0xC) ++ fpFinite b (o + 0x10)

def pinConds (b : List Byte) (p : Nat) : Conds :=
  let o := metPinAt b p
  if u8 b o = 0 then reserved b o 16 else in8 b o 1 1 ++ in8 b (o + 1) 1 255 ++ reserved b (o + 2) 14

def outConds (b : List Byte) (n : Nat) : Conds :=
  let o := metOutAt b n
  let kind := u8 b (metRegAt b (u8 b (o + 1)) + 2)
  let net := kind == 2 || kind == 10
  if u8 b o = 0 then reserved b o 16
  else in8 b o 1 2 ++ [(decide (u8 b (o + 1) < u8 b 2) && (if u8 b o = 2 then net else !net), o + 1)] ++ in8 b (o + 2) 1 200 ++
    in8 b (o + 3) 0 1 ++ [(u32 b (o + 4) != 0, o + 4)] ++ reserved b (o + 8) 8

/-- The source of a register is defined: a system, a heat meter, or for VOLUME a pulse input in use. -/
def registerConds (b : List Byte) (j : Nat) : Conds :=
  let o := metRegAt b j
  let src := u8 b o
  let kind := u8 b (o + 2)
  let ok :=
    if kind ≤ 7 then decide (src < u8 b 0) && decide (u8 b (o + 1) < 4)
    else if 0x10 ≤ src ∧ src < 0x12 then u8 b (metHeatAt b (src - 0x10)) == 1 && u8 b (o + 1) == 0
    else kind == 11 && decide (0x20 ≤ src) && decide (src < 0x24) && u8 b (metPinAt b (src - 0x20)) == 1 && u8 b (o + 1) == 0
  let twin := (List.range j).any fun i => u32 b (metRegAt b i) == u32 b o
  in8 b (o + 2) 0 11 ++ [(ok, o), (!twin, o)] ++ reserved b (o + 3) 1

/-- SEND and WSEND. -/
def sendConds (b : List Byte) (off : Nat) : Conds :=
  [(decide (u32 b off < 2 ^ 20) && u32 b off / 2 ^ 14 % 4 == 0 && decide (u32 b off / 2 ^ 16 % 8 < 6), off)]

def metAreas (cfg : List Section) : List Area :=
  let st := bodyOf cfg Ty.struct Region.sense 0
  let b := bodyOf cfg Ty.metro Region.sense 0
  [(Addr.stock + u32 st 0x20, 0xC00 + 256), (Addr.stock + u32 st 0x24, 8192 * u8 b 0), (u64 st 0x28, u32 st 0x30)]

def metroValue (cfg : List Section) (_v : Variant) (b : List Byte) : Conds :=
  in8 b 0 0 7 ++ in8 b 1 0 64 ++ in8 b 2 1 112 ++ bodyIs b (pad16 (metRegAt b (u8 b 2))) ++ in16 b 4 0 0x3FFF ++ in16 b 6 0 3 ++
    in32 b 8 10 86400 ++ [(86400 % max 1 (u32 b 8) == 0, 8)] ++ in16 b 0xC 1 3600 ++ sendConds b 0x10 ++ sendConds b 0x14 ++
    fpFinite b 0x18 ++ fpFinite b 0x1C ++ fpFinite b 0x20 ++ in32 b 0x24 1000 100000 ++ reserved b 0x28 24 ++
    (List.range 8).flatMap (localConds b) ++ (List.range (u8 b 1)).flatMap (remoteConds b) ++
    (List.range (u8 b 0)).flatMap (systemConds cfg b) ++ (List.range 2).flatMap (heatConds b) ++ (List.range 4).flatMap (rtdConds b) ++
    (List.range 4).flatMap (pinConds b) ++ (List.range 4).flatMap (outConds b) ++ (List.range (u8 b 2)).flatMap (registerConds b) ++
    reserved b (metRegAt b (u8 b 2)) (pad16 (metRegAt b (u8 b 2)) - metRegAt b (u8 b 2)) ++
    [(apart (faultRing :: imageArea cfg :: metAreas cfg ++ (if hasType cfg Ty.fusion Region.sense then fusAreas cfg else [])), 0)]

def metroAbsent (v : Variant) (b : List Byte) : Conds :=
  if v.hasMil 0 then
    ((List.range (u8 b 1)).map fun r => (v.hasMil (u8 b (0xC0 + 16 * r + 2) / 8 % 2), 0xC0 + 16 * r + 2)) ++
      [(u16 b 6 % 4 == 0 || v.hasMil (u32 b 0x10 / 2 ^ 19 % 2), 0x10), (u8 b 3 == 0 || v.hasMil (u32 b 0x14 / 2 ^ 19 % 2), 0x14)]
  else [(decide (u8 b 0 ≤ 1), 0), (u8 b 1 == 0, 1), (u8 b 3 == 0, 3), (u16 b 6 == 0, 6)]

/-! ### Sense STRUCT -/

def senseStructValue (cfg : List Section) (v : Variant) (b : List Byte) : Conds :=
  bodyIs b 0x40 ++
    (if v.hasFus then
      [(u32 b 0 % 65536 == 0 && decide (u32 b 0 + u32 b 4 ≤ 0x800000), 0),
       (u32 b 8 % 256 == 0 && Area.inStock v (Addr.stock + u32 b 8, 16384), 8),
       (u32 b 0xC % 256 == 0 && Area.inStock v (Addr.stock + u32 b 0xC, 256 * ((List.range 4).foldl (fun n c => n + u16 b (0x10 + 2 * c)) 0)), 0xC)] ++
        (List.range 4).flatMap (fun c => in16 b (0x10 + 2 * c) 0 4096) ++ reserved b 0x18 8
    else []) ++
    [(u32 b 0x20 % 256 == 0 && Area.inStock v (Addr.stock + u32 b 0x20, 0xD00), 0x20),
     (Area.inStock v (Addr.stock + u32 b 0x24, 8192 * u8 (bodyOf cfg Ty.metro Region.sense 0) 0), 0x24),
     (u64 b 0x28 == 0 || (decide (u64 b 0x28 < 2 ^ 40) && Area.inStockOrDdr cfg v (u64 b 0x28, u32 b 0x30)), 0x28),
     (u32 b 0x30 % 4096 == 0, 0x30)] ++ reserved b 0x35 11

/-- On a part without FUS the fusion entry is all 0. -/
def senseStructAbsent (v : Variant) (b : List Byte) : Conds := if v.hasFus then [] else reserved b 0 32

end Sys2Proof.Machine
end

