-- ==== Sys2Proof/Machine/Checks.lean ====
section
/-! DEFINITION. Checks 10, 11 and 12 of the verification table (03) over the sections of an image: field ranges and cross-references,
absent units, and fields that only a full load may change. -/
namespace Sys2Proof.Machine

/-- The conditions on a section's fields; `all` is the configuration its cross-references see, `keys` the slots 0 to 15. -/
def sectionValue (v : Variant) (all : List Section) (node : Nat) (keys : List KeySlot) (x : Section) : Conds :=
  let b := x.body
  if x.type = Ty.struct then
    if x.region = Region.keep then keepStructValue b
    else if x.region = Region.control then controlStructValue all v node b
    else if x.region = Region.solve then solveStructValue all v b
    else if x.region = Region.sense then senseStructValue all v b
    else linkStructValue all v b
  else if x.type = Ty.ward then if x.region = Region.keep then keepWardValue all b else regionWardValue all x.region b
  else if x.type = Ty.spindle then spindleValue all b
  else if x.type = Ty.task then if x.index = 0 then taskValue all v b else []
  else if x.type = Ty.loop then loopValue all v b
  else if x.type = Ty.fusion then fusionValue all v b
  else if x.type = Ty.lathe then latheValue all v x.index b
  else if x.type = Ty.fed then fedValue all v b
  else if x.type = Ty.metro then metroValue all v b
  else if x.type = Ty.latch then latchValue all v node b
  else if x.type = Ty.hinge then hingeValue all v b
  else if x.type = Ty.panel then panelValue all v b
  else if x.type = Ty.pinmux then pinmuxValue all v b
  else keypolValue all keys b

/-- The conditions on the units a section names or configures (R122). -/
def sectionAbsent (v : Variant) (x : Section) : Conds :=
  let b := x.body
  if x.type = Ty.struct then
    if x.region = Region.keep then keepStructAbsent v b
    else if x.region = Region.control then controlStructAbsent v b
    else if x.region = Region.solve then solveStructAbsent v b
    else if x.region = Region.sense then senseStructAbsent v b
    else linkStructAbsent v b
  else if x.type = Ty.ward then if x.region = Region.keep then keepWardAbsent v b else regionWardAbsent v b
  else if x.type = Ty.spindle then spindleAbsent v b
  else if x.type = Ty.task then if x.index = 0 then taskAbsent v b else []
  else if x.type = Ty.loop then loopAbsent v b
  else if x.type = Ty.fusion then fusionAbsent v b
  else if x.type = Ty.lathe then latheAbsent v x.index
  else if x.type = Ty.fed then fedAbsent v b
  else if x.type = Ty.metro then metroAbsent v b
  else if x.type = Ty.latch then latchAbsent v b
  else if x.type = Ty.hinge then hingeAbsent v b
  else if x.type = Ty.panel then []
  else if x.type = Ty.pinmux then pinmuxAbsent v b
  else keypolAbsent v b

/-- The first section that fails, with the first failing byte of its body. -/
def firstPlace (conds : Section → Conds) : Nat → List Section → Option Place
  | _, [] => none
  | k, x :: xs =>
    match firstBad (conds x) with
    | some off => some (k, off)
    | none => firstPlace conds (k + 1) xs

/-- Check 10 over a checked image. A patch's own sections are judged against the merged configuration; running sections of other regions that refer
into what a patch leaves out are not judged again (DESIGN CHOICE, log entry 132: the spec does not say whether such a patch is refused). -/
def valueFail (v : Variant) (all new : List Section) (node : Nat) (keys : List KeySlot) : Option Place :=
  firstPlace (sectionValue v all node keys) 0 new

/-- Check 11. -/
def absentFail (v : Variant) (new : List Section) : Option Place := firstPlace (sectionAbsent v) 0 new

/-- The calibration a METRO section carries, entry position by entry position (R713): local channels, remote channels, systems with their
elements, RTDs and heat meters. -/
def metroCalibration (cfg : List Section) : List (List Byte) :=
  match findSection Ty.metro Region.sense 0 cfg with
  | none => []
  | some x =>
    let b := x.body
    ((List.range 8).map fun c => slice b (0x42 + 16 * c) 10) ++
      ((List.range (u8 b 1)).map fun r => slice b (0xC4 + 16 * r) 10) ++
      ((List.range (u8 b 0)).map fun k =>
        slice b (metSystemAt b k + 0x10) 24 ++ (List.range 4).flatMap fun e => slice b (metSystemAt b k + 0x30 + 16 * e) 12) ++
      ((List.range 4).map fun k => slice b (metRtdAt b k + 4) 16) ++
      ((List.range 2).map fun h => slice b (metHeatAt b h + 0xC) 8)

/-- The positions of each kind that a METRO section defines (R713): remote channels and systems. -/
def metroPositions (cfg : List Section) : List Nat :=
  match findSection Ty.metro Region.sense 0 cfg with
  | none => []
  | some x => [u8 x.body 1, u8 x.body 0]

/-- The fields of the Link STRUCT and of PINMUX that only a full load may change (R149, R604): lanes, port modes, LPDDR5, the
Ethernet ports' addresses, and every ball. -/
def linkFixed (cfg : List Section) : List Byte :=
  let b := bodyOf cfg Ty.struct Region.link 0
  slice b 0 6 ++ slice b 0x480 2 ++ ((List.range 6).flatMap fun e => slice b (ethEntry e + 4) 6) ++ bodyOf cfg Ty.pinmux Region.link 0

/-- Check 12 (R149, R713): the patch of a region changes a field that only a full load may change. The Ward holders stand in Keep, which
no patch carries. -/
def patchFixed (running full new : List Section) (region : Nat) : Bool :=
  if region = Region.control then pairsOf running != pairsOf new
  else if region = Region.sense then metroPositions full != metroPositions new || metroCalibration full != metroCalibration new
  else if region = Region.link then linkFixed running != linkFixed new || hasType running Ty.pinmux Region.link != hasType new Ty.pinmux Region.link
  else false

end Sys2Proof.Machine
end

