-- ==== Sys2Proof/Machine/Key.lean ====
section
/-! DEFINITION. The KEY block (17): slots, derivation, the requests of its queue, provisioning and the lifecycle. -/
namespace Sys2Proof.Machine

/-! ### Slots -/

def KeyType.secret : Nat := 1
def KeyType.edPriv : Nat := 2
def KeyType.edPub : Nat := 3
def KeyType.xPriv : Nat := 4

/-- Usage bits of the provisioning entry. -/
def KeyUse.sign : Nat := 0
def KeyUse.verify : Nat := 1
def KeyUse.derive : Nat := 2
def KeyUse.encrypt : Nat := 3
def KeyUse.mac : Nat := 4

/-- ASCII labels. -/
def ascii (cs : List Nat) : List Byte := cs.map (BitVec.ofNat 8)
/-- "EVKD", "EVID", "EVSEAL", "EVMC", "EVLK", "EVLC". -/
def Label.evkd : List Byte := ascii [0x45, 0x56, 0x4B, 0x44]
def Label.evid : List Byte := ascii [0x45, 0x56, 0x49, 0x44]
def Label.evmc : List Byte := ascii [0x45, 0x56, 0x4D, 0x43]
def Label.evlc : List Byte := ascii [0x45, 0x56, 0x4C, 0x43]

/-- KEY.SLOTs of a slot: the USAGE field holds SIGN highest (KEY.SLOTs table). -/
def KeySlot.word (k : KeySlot) (s : Nat) : Nat :=
  k.state % 4 * 2 ^ 30 + k.level % 4 * 2 ^ 28 + k.type % 8 * 2 ^ 25 + ofBool (s < 16) * 2 ^ 24 + k.parent % 256 * 2 ^ 16 +
    (ofBool (bit k.usage 0) * 16 + ofBool (bit k.usage 1) * 8 + ofBool (bit k.usage 2) * 4 + ofBool (bit k.usage 3) * 2 +
      ofBool (bit k.usage 4)) * 2 ^ 11 + k.world % 4 * 2 ^ 9 + k.lc % 32 * 2 ^ 4

def State.keySlot (s : State) (n : Nat) : KeySlot := s.key.slots.get n

/-- A slot takes new contents, and KEY.SLOTs shows them. -/
def State.putSlot (s : State) (n : Nat) (k : KeySlot) : State :=
  { s with key := { s.key with slots := s.key.slots.set n k } }.setNum (Reg.keySlot n) (k.word n)

/-- The seed of DEVID (R642). -/
def devidSeed : List Byte := slice (Config.kmac256 Config.pufRoot Label.evid 57 Label.evkd) 0 57
def devidPublic : List Byte := slice (Config.ed448Public devidSeed) 0 57

/-- Slots 0 to 2 as the root's regeneration leaves them (17, "Slots", R642, R654). -/
def State.loadRootSlots (s : State) : State :=
  let all := 31
  let s := s.putSlot 0 { state := 1, level := 0, type := KeyType.secret, parent := 0, usage := 4, world := 3, lc := all,
                         init := 0, auth := false, value := slice Config.pufRoot 0 32 }
  let s := s.putSlot 1 { state := 1, level := 1, type := KeyType.edPriv, parent := 0, usage := 1, world := 3, lc := all,
                         init := 2 ^ Init.keeper, auth := false, value := devidSeed }
  s.putSlot 2 { state := 1, level := 1, type := KeyType.edPub, parent := 0, usage := 2, world := 3, lc := all,
                init := 2 ^ Init.keeper, auth := false, value := slice Config.firmwareKey 0 57 }

/-- KEY.DEVID0 to KEY.DEVID14 (R642). -/
def State.showDevid (s : State) : State :=
  (List.range 15).foldl (fun s n => s.setNum (Reg.keyDevid n) (u32 devidPublic (4 * n))) s

/-- The slot that a provisioning entry defines (17, "Provisioning"). -/
def slotOfEntry (e : List Byte) : KeySlot :=
  { state := 1, level := 1, type := u8 e 1, parent := 0, usage := u8 e 2, world := u8 e 3, lc := u8 e 4, init := u32 e 8,
    auth := bit (u8 e 5) 0, value := slice e 0x10 (if u8 e 1 = KeyType.edPub then 57 else 32) }

/-- The persistent slots of a record. -/
def State.loadRecord (s : State) (r : KeyRecord) : State :=
  (List.range 13).foldl (fun s i =>
    match r.entries.get (i + 3) with
    | [] => s.putSlot (i + 3) default
    | e => s.putSlot (i + 3) (slotOfEntry e)) s

/-- KEY.LC and KEY.RECSEQ show the record in use. -/
def State.showRecord (s : State) (r : KeyRecord) : State :=
  ((s.setFld Reg.keyLc 2 0 r.life).setFld Reg.keyLc 15 8 (min 255 r.transitions)).setNum Reg.keyRecseq r.seq

/-- The newer copy among those whose tag verifies, and its number (R653, R706). -/
def newestKeyRecord (c : Tab (Option KeyRecord)) : Option (Nat × KeyRecord) :=
  match c.get 0, c.get 1 with
  | none, none => none
  | some a, none => some (0, a)
  | none, some b => some (1, b)
  | some a, some b => if seqNewer 32 a.seq b.seq then some (0, a) else some (1, b)

/-- R641, R653: at MOUNT an unenrolled part enrols with an empty record in FACTORY; otherwise the newest record is used, and
with none the part is RETIRED for this boot. -/
def State.mountKeys (s : State) : State :=
  let blank : KeyRecord := { seq := 0, life := Life.factory, transitions := 0, entries := Tab.empty }
  let enrolled := (s.key.copies.set 0 (some blank)).set 1 none
  let s := if s.key.enrolled then s
    else { s with key := { s.key with enrolled := true, current := 0, copies := enrolled } }
  let s := (s.loadRootSlots.showDevid).setFlag Reg.keyStatus 31 true
  let s := s.setFlag Reg.keyStatus 29 true
  match newestKeyRecord s.key.copies with
  | some (c, r) => ({ s with key := { s.key with current := c } }.loadRecord r).showRecord r
  | none => (((s.loadRecord blank).setFlag Reg.keyStatus 30 true).setFld Reg.keyLc 2 0 Life.retired).raise 37

/-- The record in use, as the next write starts from it. -/
def State.record (s : State) : KeyRecord := (s.key.copies.get s.key.current).getD default

/-- Each write increments SEQ and goes to the copy that does not hold the newest record (R652); a reset within the 50 µs it may last may tear
it (R653). -/
def State.writeKeyRecord (s : State) (r : KeyRecord) : State :=
  let other := 1 - s.key.current
  let r := { r with seq := (s.record.seq + 1) % 2 ^ 32 }
  { s with key := { s.key with current := other, copies := s.key.copies.set other (some r), writing := some (other, s.chip.ran) } }.setNum
    Reg.keyRecseq r.seq

/-- Bytes of a derived value by type (R647). -/
def valueBytes (type : Nat) : Nat := if type = KeyType.edPriv then 57 else if type = KeyType.xPriv then 56 else 32

/-- R647: one KEYPOL entry is derived from its parent, or loaded ORPHANED. -/
def State.deriveSlot (s : State) (e : List Byte) : State :=
  let p := s.keySlot (u8 e 1)
  let x := slice e 0xC 16 ++ slice e 2 1 ++ slice e 3 1
  let v := slice (Config.kmac256 p.value x (valueBytes (u8 e 2)) Label.evkd) 0 (valueBytes (u8 e 2))
  s.putSlot (u8 e 0)
    { state := if p.state = 1 then 1 else 2, level := (if 3 ≤ u8 e 1 ∧ u8 e 1 < 16 then 1 else p.level) + 1, type := u8 e 2, parent := u8 e 1, usage := u8 e 3,
      world := u8 e 4, lc := u8 e 5, init := u32 e 8, auth := false, value := if p.state = 1 then v else [] }

/-- R647: the slots of KEYPOL, in entry order. -/
def State.deriveKeypol (s : State) (body : List Byte) : State :=
  (List.range (u16 body 0)).foldl (fun s i => s.deriveSlot (slice body (0x10 + 32 * i) 32)) s

/-! ### Requests -/

def KeyCode.empty : Nat := 0x170
def KeyCode.orphaned : Nat := 0x171
def KeyCode.misuse : Nat := 0x172
def KeyCode.sigInvalid : Nat := 0x173
def KeyCode.tagInvalid : Nat := 0x174
def KeyCode.lenInvalid : Nat := 0x175
def KeyCode.stateInvalid : Nat := 0x176
def KeyCode.authInvalid : Nat := 0x177
def KeyCode.access : Nat := 0x178
def KeyCode.opInvalid : Nat := 0x179

/-- R643, without the match of operation and usage. -/
def State.slotAdmits (s : State) (w : Who) (k : KeySlot) : Bool :=
  k.state == 1 && bit k.init w.id && bit k.lc s.life &&
    (k.world == 3 || (k.world == 1 && s.secure w) || (k.world == 2 && !s.secure w))

/-- The submitter's own access to a range would end in a bus error (R657): the checks of R705 but for alignment, which the block's own
transfers keep. -/
def State.rangeDenied (s : State) (w : Who) (a n : Nat) (write : Bool) : Bool := n != 0 && s.rangeCode w a n write != Code.ok

/-- A request descriptor's fields (17, "Operations"). -/
structure KeyRequest where
  who : Who
  at_ : Nat
  op : Nat
  slot : Nat
  ie : Bool
  srcLen : Nat
  src : Nat
  dst : Nat
  dstLen : Nat
  param : List Byte
  reservedOk : Bool
  deriving DecidableEq, Repr

/-- Read the descriptor of a request. -/
def State.readKeyRequest (s : State) (w : Who) (off : Nat) : KeyRequest :=
  let d := s.bytes (Addr.stock + off) 64
  { who := w, at_ := Addr.stock + off, op := u8 d 0, slot := u8 d 1, ie := bit (u8 d 2) 0, srcLen := u32 d 4,
    src := u64 d 8 % 2 ^ 40, dst := u64 d 0x10 % 2 ^ 40, dstLen := u32 d 0x18, param := slice d 0x20 16,
    reservedOk := u8 d 2 < 2 && u8 d 3 == 0 && u32 d 0x1C == 0 && u64 d 0x38 == 0 && u64 d 8 < 2 ^ 40 &&
      u64 d 0x10 < 2 ^ 40 }

/-- The result of serving a request: the next state, the code and the output. -/
structure KeyResult where
  state : State
  code : Nat
  out : List Byte

def KeyResult.fail (s : State) (code : Nat) : KeyResult := ⟨s, code, []⟩

/-- The code a slot of the wrong state or use earns, 0 when the request may use it (R643, R648). -/
def State.slotCode (s : State) (q : KeyRequest) (use : Nat) : Nat :=
  let k := s.keySlot q.slot
  if k.state = 0 then KeyCode.empty
  else if k.state ≠ 1 then KeyCode.orphaned
  else if s.slotAdmits q.who k && bit k.usage use then 0
  else KeyCode.misuse

/-- Deliver an output through R657 and R658, under the submitter's tag (R230). -/
def State.keyOutput (s : State) (q : KeyRequest) (out : List Byte) : KeyResult :=
  if q.dstLen < out.length then .fail s KeyCode.lenInvalid
  else if s.rangeDenied q.who q.dst out.length true then .fail s KeyCode.access
  else ⟨s.dmaWrite q.who q.dst out, Code.ok, out⟩

/-- Check length and input rights (R657, R658), read the input under the submitter's tag, and go on with it. -/
def State.withInput (s : State) (q : KeyRequest) (lenOk : Bool) (go : State → List Byte → KeyResult) : KeyResult :=
  if !lenOk then .fail s KeyCode.lenInvalid
  else if s.rangeDenied q.who q.src q.srcLen false then .fail s KeyCode.access
  else go (s.charge q.who q.src q.srcLen) (s.bytes q.src q.srcLen)

def State.serveDigest (s : State) (q : KeyRequest) : KeyResult :=
  s.withInput q true fun s m => s.keyOutput q (slice (Config.shake256 m 64) 0 64)

def State.serveSign (s : State) (q : KeyRequest) : KeyResult :=
  let c := s.slotCode q KeyUse.sign
  if c ≠ 0 then .fail s c
  else s.withInput q (q.srcLen == 64) fun s m =>
    s.keyOutput q (slice (Config.ed448Sign (s.keySlot q.slot).value m) 0 114)

def State.serveVerify (s : State) (q : KeyRequest) : KeyResult :=
  let c := s.slotCode q KeyUse.verify
  if c ≠ 0 then .fail s c
  else s.withInput q (q.srcLen == 178) fun s m =>
    .fail s (if Config.ed448Verify (s.keySlot q.slot).value (slice m 0 64) (slice m 64 114) then Code.ok else KeyCode.sigInvalid)

def State.serveMac (s : State) (q : KeyRequest) : KeyResult :=
  let c := s.slotCode q KeyUse.mac
  if c ≠ 0 then .fail s c
  else s.withInput q true fun s m =>
    s.keyOutput q (slice (Config.kmac256 (s.keySlot q.slot).value m 32 Label.evmc) 0 32)

/-- AAD length of PARAM. -/
def KeyRequest.aadLen (q : KeyRequest) : Nat := u32 q.param 12

def State.serveEncrypt (s : State) (q : KeyRequest) : KeyResult :=
  let c := s.slotCode q KeyUse.encrypt
  if c ≠ 0 then .fail s c
  else s.withInput q (q.aadLen ≤ q.srcLen) fun s m =>
    let plain := m.drop q.aadLen
    s.keyOutput q (slice (Config.gcmSeal (s.keySlot q.slot).value (slice q.param 0 12) (m.take q.aadLen) plain) 0 (plain.length + 16))

def State.serveDecrypt (s : State) (q : KeyRequest) : KeyResult :=
  let c := s.slotCode q KeyUse.encrypt
  if c ≠ 0 then .fail s c
  else s.withInput q (q.aadLen + 16 ≤ q.srcLen) fun s m =>
    let body := m.drop q.aadLen
    match Config.gcmOpen (s.keySlot q.slot).value (slice q.param 0 12) (m.take q.aadLen) body with
    | none => .fail s KeyCode.tagInvalid
    | some p => s.keyOutput q (slice p 0 (body.length - 16))

/-- The public key of a slot (R644). -/
def KeySlot.publicKey (k : KeySlot) : List Byte :=
  if k.type = KeyType.edPub then k.value
  else if k.type = KeyType.edPriv then slice (Config.ed448Public k.value) 0 57
  else slice (Config.x448Public k.value) 0 56

def State.servePublic (s : State) (q : KeyRequest) : KeyResult :=
  let k := s.keySlot q.slot
  if k.state = 0 then .fail s KeyCode.empty
  else if k.state ≠ 1 then .fail s KeyCode.orphaned
  else if k.type = KeyType.secret then .fail s KeyCode.misuse
  else s.withInput q (q.srcLen == 0) fun s _ => s.keyOutput q k.publicKey

/-- The structure of R665 before its signature. -/
def State.quoteBody (s : State) (nonce : List Byte) : List Byte :=
  ascii [0x45, 0x56, 0x51, 0x54] ++ leBytes 2 1 ++ leBytes 2 (s.blk.node % 2 ^ 14) ++ leBytes 4 s.variant.id.toNat ++
  leBytes 1 s.life ++ leBytes 1 (s.fld Reg.sysBoot 2 0) ++ leBytes 2 0 ++ leBytes 4 (s.num Reg.hngEpoch) ++
  leBytes 4 (s.num Reg.blkGen) ++ leBytes 4 (s.num Reg.blkRgen0) ++ leBytes 4 (s.num Reg.blkRgen1) ++
  leBytes 4 (s.num Reg.blkRgen2) ++ leBytes 4 (s.num Reg.blkRgen3) ++ leBytes 8 (stampWord s.now) ++ slice nonce 0 16 ++
  (List.range 16).flatMap (fun n => leBytes 4 (s.num (Reg.blkDigest n))) ++
  (List.range 4).flatMap (fun n =>
    if (n = 2 ∧ s.variant.lathes = 0) ∨ (n = 3 ∧ s.variant.fusion = 0) then leBytes 64 0 else slice (Config.firmwareDigest n) 0 64) ++
  devidPublic ++ leBytes 7 0

def State.serveQuote (s : State) (q : KeyRequest) : KeyResult :=
  if q.slot ≠ 1 then .fail s KeyCode.misuse
  else s.withInput q (q.srcLen == 0) fun s _ =>
    let b := s.quoteBody q.param
    s.keyOutput q (b ++ slice (Config.ed448Sign devidSeed (slice (Config.shake256 b 64) 0 64)) 0 114 ++ leBytes 14 0)

/-- Whether slot `d` descends from slot `n`, through at most three parents. -/
def State.descends (s : State) (n d : Nat) : Bool :=
  let p := (s.keySlot d).parent
  let pp := (s.keySlot p).parent
  (2 < d && p == n && d != n) || (15 < d && 2 < p && pp == n) || (15 < d && 15 < p && 2 < pp && (s.keySlot pp).parent == n)

/-- R648: a slot is INVALIDATED and its descendants ORPHANED; they await reclaim. -/
def State.invalidateSlot (s : State) (n : Nat) : State :=
  let ds := (List.range 256).filter fun d => (s.keySlot d).state == 1 && s.descends n d
  let s := s.putSlot n { s.keySlot n with state := 3 }
  let s := ds.foldl (fun s d => s.putSlot d { s.keySlot d with state := 2 }) s
  let s := { s with key := { s.key with reclaim := s.key.reclaim ++ n :: ds } }
  let s := if n < 16 then s.writeKeyRecord { s.record with entries := s.record.entries.set n [] } else s
  s.setFld Reg.keyStatus 7 0 (min 255 s.key.reclaim.length)

def State.serveInvalidate (s : State) (q : KeyRequest) : KeyResult :=
  let k := s.keySlot q.slot
  if q.slot < 3 then .fail s KeyCode.misuse
  else if k.state = 0 then .fail s KeyCode.empty
  else if k.state ≠ 1 then .fail s KeyCode.orphaned
  else
    let p := s.keySlot k.parent
    if q.who.isWarden || (s.slotAdmits q.who p && bit p.usage KeyUse.derive) then
      s.withInput q (q.srcLen == 0) fun s _ => ⟨s.invalidateSlot q.slot, Code.ok, []⟩
    else .fail s KeyCode.misuse

/-- A provisioning entry is well formed (17, "Provisioning"). -/
def entryOk (e : List Byte) : Bool :=
  3 ≤ u8 e 0 && u8 e 0 ≤ 15 &&
  ((u8 e 1 == KeyType.secret && (u8 e 2 == 4 || u8 e 2 == 8 || u8 e 2 == 16)) || (u8 e 1 == KeyType.edPub && u8 e 2 == 2)) &&
  1 ≤ u8 e 3 && u8 e 3 ≤ 3 && u8 e 4 < 32 && u8 e 5 < 2 && u16 e 6 == 0 && u32 e 0xC == 0 &&
  (slice e 0x49 55).all (· == 0#8) && (u8 e 1 == KeyType.edPub || (slice e 0x30 25).all (· == 0#8))

/-- Who may provision, and what in which state (R651). -/
def State.mayProvision (s : State) (w : Who) (type : Nat) : Bool :=
  (w.isKeeper || w.isWarden || (w.id == Init.debug && s.life == Life.factory)) &&
  (if type = KeyType.secret then s.life == Life.factory
   else s.life == Life.factory || s.life == Life.provisioned || s.life == Life.service)

def State.serveProvision (s : State) (q : KeyRequest) : KeyResult :=
  s.withInput q (q.srcLen == 128) fun s e =>
    if !entryOk e || !s.mayProvision q.who (u8 e 1) then .fail s KeyCode.stateInvalid
    else if (s.keySlot (u8 e 0)).state ≠ 0 then .fail s KeyCode.misuse
    else
      let s := s.putSlot (u8 e 0) (slotOfEntry e)
      ⟨s.writeKeyRecord { s.record with entries := s.record.entries.set (u8 e 0) e }, Code.ok, []⟩

/-- A VERIFY key exists among slots 3 to 15 (R660). -/
def State.hasVerifier (s : State) : Bool :=
  (List.range 13).any fun i =>
    let k := s.keySlot (i + 3)
    k.state == 1 && k.type == KeyType.edPub && bit k.usage KeyUse.verify

/-- The message an authorisation signs (R661). -/
def State.authMessage (s : State) (target : Nat) : List Byte :=
  slice (Config.shake256 (Label.evlc ++ leBytes 4 s.variant.id.toNat ++ devidPublic ++ leBytes 1 target ++ leBytes 4 s.record.seq) 64) 0 64

/-- R661: the authorisation verifies under the slot the request names (log entry 21). -/
def State.authorised (s : State) (q : KeyRequest) (target : Nat) (sig : List Byte) : Bool :=
  let k := s.keySlot q.slot
  k.state == 1 && k.type == KeyType.edPub && k.auth && sig.length == 114 && Config.ed448Verify k.value (s.authMessage target) sig

/-- The transitions of R660. -/
def transitionListed (old target : Nat) : Bool :=
  (old == Life.factory && target == Life.provisioned) || (old == Life.provisioned && target == Life.field) ||
  (old == Life.field && target == Life.service) || (old == Life.service && target == Life.field) ||
  ((old == Life.provisioned || old == Life.field || old == Life.service) && target == Life.retired)

/-- R660 to R663: the record takes the new state, and a reset with cause SOFT follows. -/
def State.serveTransition (s : State) (q : KeyRequest) : KeyResult :=
  let target := u8 q.param 0
  if !q.who.isWarden || !transitionListed s.life target || (s.life == Life.factory && !s.hasVerifier) then
    .fail s KeyCode.stateInvalid
  else
    let needs := s.life == Life.field && target == Life.service
    s.withInput q (q.srcLen == (if needs then 114 else 0)) fun s sig =>
      if needs && !s.authorised q target sig then .fail s KeyCode.authInvalid
      else
        let r := s.record
        let kept := if target = Life.retired then Tab.empty else r.entries
        let s := s.writeKeyRecord { r with life := target, transitions := min 255 (r.transitions + 1), entries := kept }
        ⟨s.callReset.raise 35, Code.ok, []⟩

def State.serveRandom (s : State) (q : KeyRequest) : KeyResult :=
  if 4096 < q.dstLen ∨ q.srcLen ≠ 0 then .fail s KeyCode.lenInvalid
  else
    let out := slice (Config.drbg s.key.draws q.dstLen) 0 q.dstLen
    { s with key := { s.key with draws := s.key.draws + 1 } }.keyOutput q out

/-- Completion of a request: OUTLEN, then RESULT; source 32 if IE is set; a misuse is recorded and raises source 33
(R645, R658). -/
def State.completeKey (s : State) (q : KeyRequest) (r : KeyResult) : State :=
  let t := r.state
  let t := t.dmaWrite q.who (q.at_ + 0x34) (leBytes 4 r.out.length)
  let t := t.dmaWrite q.who (q.at_ + 0x30) (leBytes 4 (2 ^ 31 + r.code))
  let t := if r.code = KeyCode.misuse then
      ((t.bump Reg.keyMisuse 31 0 1).detected
        { det := 0x25, level := 2, loc := location 4 5 q.slot, init := some q.who.id, world := s.secure q.who,
          action := Act.refused, code := r.code, detail := q.slot }).raise 33
    else t
  if q.ie then t.raise 32 else t

/-- In RETIRED only DIGEST, PUBLIC of slot 1 and QUOTE are served (R663). -/
def servedRetired (q : KeyRequest) : Bool := q.op == 1 || q.op == 8 || (q.op == 7 && q.slot == 1)

/-- KEY serves the request at the front of its queue, when it names the operation `op`; a request of an unknown
operation or with a reserved field set completes with OP_INVALID whichever step meets it (R658). A transition behind an
accepted one is not served: the reset discards it with the queue (17, "Coincidences"). A request whose descriptor cannot be read (R35) completes
with ACCESS whichever step meets it (log entry 146). -/
def State.serveKey (s : State) (op : Nat) (serve : State → KeyRequest → KeyResult) : State :=
  match s.key.queue with
  | [] => s
  | (w, off) :: rest =>
    let q := s.readKeyRequest w off
    let known := 1 ≤ q.op && q.op ≤ 12
    let unread := (s.badWordIn q.at_ 64).isSome
    if (!unread && known && q.op != op) || (!unread && q.op == 11 && s.chip.delayedReset) then s
    else
      let s := { s with key := { s.key with queue := rest } }.setFld Reg.keyStatus 20 16 rest.length
      let s := s.charge q.who q.at_ 64
      if unread then s.completeKey q (.fail s KeyCode.access)
      else if s.life == Life.retired && !servedRetired q then s.completeKey q (.fail s KeyCode.stateInvalid)
      else if !known || !q.reservedOk then s.completeKey q (.fail s KeyCode.opInvalid)
      else s.completeKey q (serve s q)

/-- R656: a write of KEY.SUBMIT queues a request or is refused; KEY.SUBSTAT is the writer's own (R667). -/
def State.keySubmit (s : State) (w : Who) (v : Word) : State :=
  let off := v.toNat / 64 % 2 ^ 18 * 64
  if s.variant.stockBytes ≤ off then
    (s.setNum (bankOf w.id Reg.keySubstat) (2 ^ 31 + 2 ^ 30 + 2 * 2 ^ 24)).busError w (Addr.regs + Reg.keySubmit) Code.absent 0
  else if 16 ≤ s.key.queue.length then
    (s.setNum (bankOf w.id Reg.keySubstat) (2 ^ 31 + 2 ^ 30 + 2 ^ 24)).replyOk
  else
    let s := { s with key := { s.key with queue := s.key.queue ++ [(w, off)] } }
    ((s.setFld Reg.keyStatus 20 16 s.key.queue.length).setNum (bankOf w.id Reg.keySubstat) (2 ^ 31)).replyOk

/-! ### The steps -/

/-- R644. -/
def execDigest (s : State) : Reply := .next (s.serveKey 1 State.serveDigest)
/-- R643. -/
def execSign (s : State) : Reply := .next (s.serveKey 2 State.serveSign)
/-- R643. -/
def execVerify (s : State) : Reply := .next (s.serveKey 3 State.serveVerify)
/-- R643. -/
def execMac (s : State) : Reply := .next (s.serveKey 4 State.serveMac)
/-- R643. -/
def execEncrypt (s : State) : Reply := .next (s.serveKey 5 State.serveEncrypt)
/-- R643. -/
def execDecrypt (s : State) : Reply := .next (s.serveKey 6 State.serveDecrypt)
/-- R644. -/
def execPublicKey (s : State) : Reply := .next (s.serveKey 7 State.servePublic)
/-- R665. -/
def execQuote (s : State) : Reply := .next (s.serveKey 8 State.serveQuote)
/-- R648. -/
def execKeyInvalidate (s : State) : Reply := .next (s.serveKey 9 State.serveInvalidate)
/-- R651. -/
def execProvision (s : State) : Reply := .next (s.serveKey 10 State.serveProvision)
/-- R660. -/
def execTransition (s : State) : Reply := .next (s.serveKey 11 State.serveTransition)
/-- R644. -/
def execRandom (s : State) : Reply := .next (s.serveKey 12 State.serveRandom)

/-- R649: the values are zeroed, the slots EMPTY, and source 34 rises; with nothing to reclaim nothing happens. -/
def execReclaimed (s : State) : Reply :=
  match s.key.reclaim with
  | [] => .next s
  | ns =>
    let s := ns.foldl (fun s n => s.putSlot n default) s
    .next (({ s with key := { s.key with reclaim := [] } }.setFld Reg.keyStatus 7 0 0).raise 34)

/-- R666: a write of KEY.CLEAR. -/
def execKeyClear (who : Who) (value : Word) (s : State) : Reply :=
  .next (s.gated who Reg.keyClear value fun s => if bit value.toNat 0 then s.setNum Reg.keyMisuse 0 else s)

/-- The Blank-verifying key of a slot is permitted (R118, R655). -/
def State.blankKeyOk (s : State) (slot : Nat) : Bool :=
  let k := s.keySlot slot
  3 ≤ slot && slot ≤ 15 && k.type == KeyType.edPub && k.state == 1 && bit k.usage KeyUse.verify && bit k.init Init.keeper &&
    bit k.lc s.life

end Sys2Proof.Machine
end

