-- ==== Sys2Proof/Machine/Blank.lean ====
section
/-! DEFINITION. Blanks and patches (03): the byte format, the verification checks, slot commands, and patch requests up to
their quiesce point. -/
namespace Sys2Proof.Machine

/-! ### Codes -/

def BlankCode.unitAbsent : Nat := 0x12
def BlankCode.generation : Nat := 0x11
def BlankCode.superseded : Nat := 0x10
def BlankCode.badMagic : Nat := 0x110
def BlankCode.badFormat : Nat := 0x111
def BlankCode.badLength : Nat := 0x112
def BlankCode.badSignature : Nat := 0x113
def BlankCode.badKey : Nat := 0x114
def BlankCode.badSection : Nat := 0x115
def BlankCode.badOrder : Nat := 0x116
def BlankCode.badValue : Nat := 0x117
def BlankCode.badNode : Nat := 0x118
def BlankCode.patchRegion : Nat := 0x119
def BlankCode.patchFixed : Nat := 0x11A
def BlankCode.quiesceTimeout : Nat := 0x11B
def BlankCode.slotBusy : Nat := 0x11C

/-- A failed check: its code, the section index (0x7FF outside the sections) and the byte offset in the image. -/
structure CheckFail where
  code : Nat
  section_ : Nat
  offset : Nat
  deriving DecidableEq, Repr

/-- A section with the offset of its header in the image. -/
abbrev Placed := Nat × Section

/-! ### Checks 1 to 3 -/

/-- What an image is checked for. -/
inductive ImageUse where
  /-- A load in MOUNT: at most `limit` bytes. -/
  | mount (limit : Nat)
  /-- A STORE: at most `limit` and at most the source's length. -/
  | store (limit srcLen : Nat)
  /-- A submitted patch for a region, its LENGTH equal to the descriptor's LEN. -/
  | patch (region len : Nat)
  deriving DecidableEq, Repr

/-- Check 3 (R51): LENGTH. -/
def lengthOk (u : ImageUse) (len : Nat) : Bool :=
  decide (0x40 + 16 + 256 ≤ len) && len % 16 == 0 &&
    match u with
    | .mount limit => decide (len ≤ limit)
    | .store limit srcLen => decide (len ≤ limit) && decide (len ≤ srcLen)
    | .patch _ n => decide (len ≤ 0x10000) && len == n

/-- Check 2: FORMAT, KIND and REGION. -/
def formatOk (u : ImageUse) (img : List Byte) : Bool :=
  u16 img 4 == 1 &&
    match u with
    | .patch region _ => u8 img 6 == 1 && u8 img 7 == region && decide (region < 4)
    | _ => u8 img 6 == 0 && u8 img 7 == 0xFF

/-- The byte that fails check 2: FORMAT, KIND or REGION. -/
def formatByte (u : ImageUse) (img : List Byte) : Nat :=
  let kind := match u with | .patch _ _ => 1 | _ => 0
  if u16 img 4 ≠ 1 then 4 else if u8 img 6 ≠ kind then 6 else 7

/-- "EVBK" and "EVSG". -/
def magicBlank : Nat := 0x4B425645
def magicSign : Nat := 0x47535645

/-- Checks 1 to 3. SMAGIC is tested only when LENGTH meets check 3. -/
def headFail (u : ImageUse) (img : List Byte) : Option CheckFail :=
  let len := u32 img 0xC
  if u32 img 0 ≠ magicBlank then some ⟨BlankCode.badMagic, 0x7FF, 0⟩
  else if lengthOk u len && u32 img (len - 256) != magicSign then some ⟨BlankCode.badMagic, 0x7FF, len - 256⟩
  else if !formatOk u img then some ⟨BlankCode.badFormat, 0x7FF, formatByte u img⟩
  else if !lengthOk u len then some ⟨BlankCode.badLength, 0x7FF, 0xC⟩
  else none

/-- The digest the part computes itself (R117). -/
def imageDigest (img : List Byte) : List Byte := slice (Config.shake256 (slice img 0 (u32 img 0xC - 256)) 64) 0 64

/-- Check 4: the key, then the digest, then the signature (R117, R118, R655). -/
def State.signFail (s : State) (img : List Byte) : Option CheckFail :=
  let b := u32 img 0xC - 256
  let slot := u16 img (b + 4)
  if !s.blankKeyOk slot then some ⟨BlankCode.badKey, 0x7FF, b + 4⟩
  else if slice img (b + 0x10) 64 != imageDigest img then some ⟨BlankCode.badSignature, 0x7FF, b + 0x10⟩
  else if !Config.ed448Verify (s.keySlot slot).value (imageDigest img) (slice img (b + 0x50) 114) then
    some ⟨BlankCode.badSignature, 0x7FF, b + 0x50⟩
  else none

/-- Check 5. -/
def variantFail (v : Variant) (img : List Byte) : Option CheckFail :=
  if bit (u8 img 8) v.index then none else some ⟨BlankCode.unitAbsent, 0x7FF, 8⟩

/-! ### Check 6: the sections -/

/-- The regions a section type may stand in (R119). -/
def typeInRegion (type region : Nat) : Bool :=
  if type = Ty.struct ∨ type = Ty.ward then decide (region < 5)
  else if type = Ty.spindle ∨ type = Ty.fusion ∨ type = Ty.metro then region == Region.sense
  else if type = Ty.task ∨ type = Ty.loop then region == Region.control
  else if type = Ty.lathe ∨ type = Ty.fed then region == Region.solve
  else if type = Ty.latch ∨ type = Ty.hinge ∨ type = Ty.keypol then region == Region.keep
  else if type = Ty.panel ∨ type = Ty.pinmux then region == Region.link
  else false

/-- Parse `n` more sections from `off`, up to `stop`; `k` is the index of the next. -/
def parseSections (img : List Byte) (stop : Nat) : Nat → Nat → Nat → Except CheckFail (List Placed)
  | 0, k, off => if off = stop then .ok [] else .error ⟨BlankCode.badSection, k - 1, off⟩
  | n + 1, k, off =>
    let blen := u32 img (off + 4)
    if stop < off + 16 then .error ⟨BlankCode.badSection, k, off⟩
    else if !(typeInRegion (u8 img off) (u8 img (off + 1))) then .error ⟨BlankCode.badSection, k, off⟩
    else if u8 img (off + 2) ≠ 1 then .error ⟨BlankCode.badSection, k, off + 2⟩
    else if blen % 16 ≠ 0 ∨ 0x100000 < blen ∨ stop < off + 16 + blen then .error ⟨BlankCode.badSection, k, off + 4⟩
    else if crc32 (slice img (off + 16) blen) ≠ u32 img (off + 0xC) then .error ⟨BlankCode.badSection, k, off + 0xC⟩
    else
      match parseSections img stop n (k + 1) (off + 16 + blen) with
      | .error e => .error e
      | .ok r =>
        .ok ((off, { type := u8 img off, region := u8 img (off + 1), index := u16 img (off + 8),
                     body := slice img (off + 16) blen }) :: r)

/-- The sections of an image (check 6). That NSECT is at most 1,024 is a field range, judged in check 10. -/
def imageSections (img : List Byte) : Except CheckFail (List Placed) :=
  let n := u16 img 0xA
  if n = 0 then .error ⟨BlankCode.badSection, 0x7FF, 0xA⟩ else parseSections img (u32 img 0xC - 256) n 0 0x40

/-! ### Check 7: order and counts (R116, R119, R712) -/

/-- The place of a region in R116: Keep, Control, Solve, Sense, Link. -/
def regionRank (r : Nat) : Nat := if r = Region.keep then 0 else r + 1

/-- The rank of a section in the order of R116. -/
def Section.rank (x : Section) : Nat := (regionRank x.region * 256 + x.type) * 65536 + x.index

/-- The largest INDEX a type may carry (R712). -/
def maxIndex (type : Nat) : Nat := if type = Ty.task then 63 else if type = Ty.lathe then 65535 else 0

/-- The first section out of order: ranks strictly rise and the INDEX values of one type run from 0 without a gap. -/
def orderFail (k : Nat) (prev : Option Section) : List Placed → Option CheckFail
  | [] => none
  | (off, x) :: r =>
    let bad :=
      match prev with
      | none => x.index != 0
      | some p =>
        decide (x.rank ≤ p.rank) ||
          (if x.type = p.type ∧ x.region = p.region then x.index != p.index + 1 else x.index != 0)
    if bad || maxIndex x.type < x.index then some ⟨BlankCode.badOrder, k, off⟩ else orderFail (k + 1) (some x) r

/-- The regions an image must define: all five, or the patch's own. -/
def ImageUse.regions : ImageUse → List Nat
  | .patch r _ => [r]
  | _ => [4, 0, 1, 2, 3]

/-- STRUCT exactly once in each region, WARD in Keep (R119). -/
def countFail (u : ImageUse) (xs : List Placed) : Option CheckFail :=
  let has := fun t r => xs.any fun p => p.2.type == t && p.2.region == r
  match u.regions.find? fun r => !has Ty.struct r || (r == Region.keep && !has Ty.ward r) with
  | some _ => some ⟨BlankCode.badOrder, 0x7FF, 0x40⟩
  | none => none

/-! ### Checks 8 to 13 and the whole -/

/-- The configuration a patch of a region gives: its sections in place of the region's. -/
def mergeRegion (running new : List Section) (region : Nat) : List Section :=
  running.filter (fun x => x.region != region) ++ new

/-- The byte offset in the image of a place in a section's body. -/
def placeOffset (xs : List Placed) (p : Place) : Nat :=
  match xs[p.1]? with
  | some (off, _) => off + 16 + p.2
  | none => 0

/-- Reserved bytes of the header and of the section headers, and the signature block's, are 0, and NSECT and NODE lie in their ranges (R121). -/
def reservedFail (u : ImageUse) (img : List Byte) (xs : List Placed) : Option CheckFail :=
  let b := u32 img 0xC - 256
  let zero := fun off n => (slice img off n).all (· == 0#8)
  if 16 ≤ u8 img 8 then some ⟨BlankCode.badValue, 0x7FF, 8⟩
  else if !zero 9 1 then some ⟨BlankCode.badValue, 0x7FF, 9⟩
  else if 1024 < u16 img 0xA then some ⟨BlankCode.badValue, 0x7FF, 0xA⟩
  else if 0x4000 ≤ u16 img 0x10 then some ⟨BlankCode.badValue, 0x7FF, 0x10⟩
  else if !zero 0x12 2 then some ⟨BlankCode.badValue, 0x7FF, 0x12⟩
  else if (match u with | .patch _ _ => !zero 0x20 8 | _ => false) then some ⟨BlankCode.badValue, 0x7FF, 0x20⟩
  else if !zero 0x30 16 then some ⟨BlankCode.badValue, 0x7FF, 0x30⟩
  else if !zero (b + 6) 10 then some ⟨BlankCode.badValue, 0x7FF, b + 6⟩
  else if !zero (b + 0xC2) 62 then some ⟨BlankCode.badValue, 0x7FF, b + 0xC2⟩
  else
    match xs.findIdx? (fun p => !(zero (p.1 + 3) 1 && zero (p.1 + 0xA) 2)) with
    | some k =>
      let head := placeOffset xs (k, 0) - 16
      some ⟨BlankCode.badValue, k, if zero (head + 3) 1 then (if zero (head + 0xA) 1 then head + 0xB else head + 0xA) else head + 3⟩
    | none => none

/-- Every check of the verification table for one use, in order; the sections of an accepted image. -/
def State.checkImage (s : State) (u : ImageUse) (img : List Byte) : Except CheckFail (List Section) :=
  let first := fun (o : Option CheckFail) (next : Except CheckFail (List Section)) =>
    match o with
    | some e => .error e
    | none => next
  first (headFail u img) <| first (s.signFail img) <| first (variantFail s.variant img) <|
  match imageSections img with
  | .error e => .error e
  | .ok xs =>
    let secs := xs.map Prod.snd
    let patch := match u with | .patch r _ => some r | _ => none
    let all := match patch with | some r => mergeRegion s.blk.running secs r | none => secs
    first (orderFail 0 none xs) <| first (countFail u xs) <|
    first (match patch with
      | some r =>
        match xs.findIdx? (fun p => p.2.region != r) with
        | some k => some ⟨BlankCode.patchRegion, k, placeOffset xs (k, 0) - 16⟩
        | none => if u16 img 0x10 % 2 ^ 14 ≠ s.blk.node then some ⟨BlankCode.badNode, 0x7FF, 0x10⟩ else none
      | none => none) <|
    first (reservedFail u img xs) <|
    first ((valueFail s.variant all secs (u16 img 0x10 % 2 ^ 14) ((List.range 16).map s.keySlot)).map fun p => ⟨BlankCode.badValue, p.1, placeOffset xs p⟩) <|
    first ((absentFail s.variant secs).map fun p => ⟨BlankCode.unitAbsent, p.1, placeOffset xs p⟩) <|
    first (match patch with
      | some r =>
        if patchFixed s.blk.running s.blk.full secs r then some ⟨BlankCode.patchFixed, 0x7FF, 0⟩
        else if u32 img 0x14 ≠ s.num Reg.blkGen ∨ u32 img 0x18 ≠ s.num (Reg.blkRgen0 + 4 * r) then
          some ⟨BlankCode.generation, 0x7FF, 0x14⟩
        else none
      | none => none)
    (.ok secs)

/-- A refused signature or key is a detector event (R668, BLANK_SIGNATURE). -/
def State.noteSignature (s : State) (w : Who) (code : Nat) : State :=
  if code = BlankCode.badKey ∨ code = BlankCode.badSignature then
    s.detected { det := 0x24, level := 2, loc := location 4 2 0, init := some w.id, world := s.secure w,
                 action := Act.refused, code := code }
  else s

/-- The Keeper as an initiator. -/
def Who.keeper : Who := { id := Init.keeper, mmode := true, vc := 0 }

/-! ### Slot commands (R128 to R133) -/

def State.slotBase (s : State) (slot : Nat) : Nat := Addr.mram + slot * s.variant.mramS

/-- The source lies in Stock, LPDDR5 or the MRAM application area. -/
def State.sourceOk (s : State) (a n : Nat) : Bool :=
  (Addr.stock ≤ a && a + n ≤ Addr.stock + s.variant.stockBytes) ||
  (Addr.ddr ≤ a && !s.memAbsent a && !s.memAbsent (a + n - 1) && s.flag Reg.sysMemsize 31) ||
  (Addr.mram + 6 * s.variant.mramS + 0x80000 ≤ a && a + n ≤ Addr.mram + 8 * s.variant.mramS)

/-- The immediate outcome of a command, if it ends without checks (R131); a source that cannot be read ends it (R35; log entry 146). -/
def State.slotRefusal (s : State) (op slot src len : Nat) : Option Nat :=
  if op = 0 ∨ op = 3 ∨ 3 < slot then some BlankCode.badValue
  else if slot = s.fld Reg.blkStatus 2 0 then some BlankCode.slotBusy
  else if 2 ≤ slot ∧ s.life ≠ Life.factory then some Code.denied
  else if op = 1 ∧ !s.sourceOk src len then some Code.denied
  else if op = 1 ∧ (s.badWordIn src len).isSome then some Code.uncorrectable
  else none

/-- The command starts: BUSY is set; a STORE checks the image in place and writes all but the slot's first 64 bytes, which
are zeroed first (R130, R133); an INVALIDATE zeroes the first 64 bytes (R132). -/
def State.startCommand (s : State) (v : Word) : State :=
  let op := field v 1 0
  let slot := field v 6 4
  let src := s.num Reg.blkSrcLo + s.num Reg.blkSrcHi * 2 ^ 32
  let len := s.num Reg.blkSrcLen
  let s := s.setFlag Reg.blkCmdstat 31 true
  let cmd : SlotCommand := { op := op, slot := slot, src := src, len := len, code := 0, image := [] }
  match s.slotRefusal op slot src len with
  | some c => { s with blk := { s.blk with cmd := some { cmd with code := c } } }
  | none =>
    if op = 2 then
      { s with blk := { s.blk with cmd := some cmd } }.poke (s.slotBase slot) (leBytes 64 0)
    else
      let img := s.bytes src (min len s.variant.mramS)
      match s.checkImage (.store s.variant.mramS len) img with
      | .error e => ({ s with blk := { s.blk with cmd := some { cmd with code := e.code } } }).noteSignature Who.keeper e.code
      | .ok _ =>
        let img := slice img 0 (u32 img 0xC)
        let s := { s with blk := { s.blk with cmd := some { cmd with image := img } } }
        (s.poke (s.slotBase slot) (leBytes 64 0)).poke (s.slotBase slot + 64) (img.drop 64)

/-- R128, R129: a write of BLK.CMD. -/
def State.blankCommand (s : State) (w : Who) (v : Word) : State :=
  s.gatedOr w Reg.blkCmd v fun s =>
    if s.flag Reg.blkCmdstat 31 then .error Code.denied
    else if field v 31 16 = 0x4B42 then .ok (s.startCommand v) else .ok s

/-- R130. -/
def execStore (who : Who) (value : Word) (s : State) : Reply := .next (s.blankCommand who value)
/-- R132. -/
def execInvalidate (who : Who) (value : Word) (s : State) : Reply := .next (s.blankCommand who value)

/-- R130, R133: the command completes: the first 64 bytes are written last, BUSY falls, the lock ends, source 18 rises. -/
def execCmdDone (s : State) : Reply :=
  match s.blk.cmd with
  | none => .next s
  | some c =>
    let s := { s with blk := { s.blk with cmd := none } }
    let s := match c.image with
      | [] => s
      | img => s.poke (s.slotBase c.slot) (slice img 0 64)
    .next ((s.setNum Reg.blkCmdstat c.code).raise 18)

/-! ### Patch requests (R134 to R140, R144) -/

/-- BLK.REQINIT and BLK.STATUS show the requests of a region; 0xFF where none exists. Before a region's first request BLK.REQINITn holds the
0x0000_0000 that its register table gives as reset, though its text has 0xFF there (DESIGN CHOICE, log entry 131). -/
def State.showRequests (s : State) (r : Nat) : State :=
  let run := s.blk.runs.get r
  let wait := s.blk.waits.get r
  let id := fun (q : Option PatchRequest) => match q with | some q => q.who | none => 0xFF
  ((s.setNum (Reg.blkReqinit r) (id wait * 256 + id run)).setFlag Reg.blkStatus (8 + r) run.isSome).setFlag
    Reg.blkStatus (12 + r) wait.isSome

/-- A request becomes running: STATE 1, and LEN bytes of the image, at most 64 KB, are copied (R135, R139); of an
image that cannot be read (R35) nothing is, and its checks fail (log entry 146). -/
def State.startPatch (s : State) (r : Nat) (q : PatchRequest) : State :=
  let d := Addr.stock + q.desc
  let addr := s.mem32 d + s.mem32 (d + 4) % 256 * 2 ^ 32
  let len := s.mem32 (d + 8)
  let (s, image) := s.engineRead Who.keeper addr (min len 0x10000)
  let q := { q with image := image.getD [], len := len, passed := false }
  ({ s with blk := { s.blk with runs := s.blk.runs.set r (some q) } }.poke32 (d + 0xC) (2 ^ 28)).showRequests r

/-- A request completes; the pending one, if any, becomes running at once (R138, R140). -/
def State.finishPatch (s : State) (r : Nat) (q : PatchRequest) (state code : Nat) : State :=
  let s := s.patchResult q.desc state code
  let s := { s with blk := { s.blk with runs := s.blk.runs.set r none } }
  match s.blk.waits.get r with
  | none => s.showRequests r
  | some p => { s with blk := { s.blk with waits := s.blk.waits.set r none } }.startPatch r p

/-- The initiators that may submit a patch for a region (03, Keep STRUCT). -/
def State.patchInit (s : State) (r : Nat) : Nat := u32 s.keepStruct (0x14 + 4 * r)

/-- R134: BLK takes a request descriptor; one that cannot be read ends the write in UNCORRECTABLE (R35; log entry 146). -/
def State.submitPatch (s : State) (w : Who) (v : Word) : Except Nat State :=
  let desc := v.toNat / 16 % 2 ^ 20 * 16
  if s.variant.stockBytes ≤ desc then .error Code.absent
  else if (s.badWordIn (Addr.stock + desc) 16).isSome then .error Code.uncorrectable
  else
    let region := s.mem32 (Addr.stock + desc + 4) / 2 ^ 16 % 16
    if 4 ≤ region then .ok (s.patchResult desc Patch.refused BlankCode.badFormat)
    else if !named (s.patchInit region) w.id then .ok (s.patchResult desc Patch.refused Code.denied)
    else
      let q : PatchRequest := { desc := desc, who := w.id, image := [], len := 0, passed := false, checked := 0 }
      match s.blk.runs.get region with
      | none => .ok (s.startPatch region q)
      | some _ =>
        let s := match s.blk.waits.get region with
          | some old => s.patchResult old.desc Patch.refused BlankCode.superseded
          | none => s
        .ok ({ s with blk := { s.blk with waits := s.blk.waits.set region (some q) } }.showRequests region)

/-- R134: a write to BLK.SUBMIT. -/
def execPatchSubmit (who : Who) (value : Word) (s : State) : Reply :=
  .next (s.gatedOr who Reg.blkSubmit value fun s => s.submitPatch who value)

/-- R135: the copied image finishes its checks: it is refused with the first code, or waits for a quiesce point. -/
def execPatchChecksDone (region : Nat) (s : State) : Reply :=
  match s.blk.runs.get region with
  | none => .next s
  | some q =>
    if q.passed then .next s
    else
      match s.checkImage (.patch region q.len) q.image with
      | .error e =>
        let w : Who := { id := q.who, mmode := false, vc := 0 }
        .next ((s.noteSignature w e.code).finishPatch region q Patch.refused e.code)
      | .ok _ => .next { s with blk := { s.blk with runs := s.blk.runs.set region (some { q with passed := true, checked := s.chip.up }) } }

end Sys2Proof.Machine
end

