-- ==== Sys2Proof/Machine/MilTx.lean ====
section
/-! DEFINITION. How packets leave a Milio port (15): link states, routes, credits, retry storage, encryption, management packets. The
blocks that send on Milio use these operations. -/
namespace Sys2Proof.Machine

/-! ### Links (R581) -/

def Link.off : Nat := 0
def Link.train : Nat := 1
def Link.align : Nat := 2
def Link.up : Nat := 3
def Link.miswired : Nat := 4
def Link.down : Nat := 5

def State.laneMode (s : State) (l : Nat) : Nat := if l < s.variant.lanes then u8 s.linkStruct l else 0
def State.portSplit (s : State) (p : Nat) : Bool := u8 s.linkStruct (4 + p) == 1
/-- The lane modes form link `l` (BONDED: the lower lane's number; SPLIT: each MILIO lane). -/
def State.linkExists (s : State) (l : Nat) : Bool :=
  decide (l < 4) && s.laneMode l == 1 && (s.portSplit (l / 2) || l % 2 == 0)
def State.bonded (s : State) (l : Nat) : Bool := !s.portSplit (l / 2)
/-- STATE of a link in MIL.STATUS. -/
def State.linkState (s : State) (l : Nat) : Nat :=
  if l % 2 = 0 then s.fld (Reg.milStatus (l / 2)) 2 0 else s.fld (Reg.milStatus (l / 2)) 10 8
def State.setLinkState (s : State) (l v : Nat) : State :=
  if l % 2 = 0 then s.setFld (Reg.milStatus (l / 2)) 2 0 v else s.setFld (Reg.milStatus (l / 2)) 10 8 v
def State.linkUp (s : State) (l : Nat) : Bool := s.linkExists l && s.linkState l == Link.up && !s.fenced Region.link
def State.milSource (_ : State) (l e : Nat) : Nat := 352 + 16 * (l / 2) + e

def State.milLink (s : State) (l : Nat) : MilLink := s.mil.links.get l
def State.setMilLink (s : State) (l : Nat) (k : MilLink) : State := { s with mil := { s.mil with links := s.mil.links.set l k } }
/-- Virtual channel `v` of link `l`; 8 is that of the management packets. -/
def State.milVc (s : State) (l v : Nat) : MilVc := s.mil.vcs.get (9 * l + v)
def State.setMilVc (s : State) (l v : Nat) (c : MilVc) : State := { s with mil := { s.mil with vcs := s.mil.vcs.set (9 * l + v) c } }

/-- MIL.VSTATE of a port shows the channel of its lower link, or of the one link it forms. -/
def State.showVc (s : State) (l v : Nat) : State :=
  if 8 ≤ v then s
  else if l % 2 = 1 ∧ s.linkExists (l - 1) then s
  else
    let c := s.milVc l v
    let r := Reg.milVstate (l / 2) v
    let s := (s.setFlag r 30 c.tx.isSome).setFld r 29 16 (match c.tx with | some k => k.kgen | none => 0)
    s.setFld r 10 0 (min 2047 c.credits)

/-- Whether the channel is encrypted, and its share of credits: 1,008 per lane, doubled when bonded (15, "Credits and retry"). -/
def State.vcEnc (s : State) (l v : Nat) : Bool := decide (v < 8) && bit (s.vcFlags (l / 2) v) 1
def State.vcCred (s : State) (l v : Nat) : Nat :=
  (if v = 8 then 16 else u16 s.linkStruct (vcEntry (l / 2) v + 2)) * (if s.bonded l then 2 else 1)

/-- DROPS of a port: 24 DOWN, 16 NOROUTE, 8 HOPS, 0 RXFULL, each 8 bits. -/
def Drop.down : Nat := 24
def Drop.noroute : Nat := 16
def Drop.hops : Nat := 8
def Drop.rxfull : Nat := 0
def State.milDrop (s : State) (port lo : Nat) : State := s.bump (Reg.milDrops port) (lo + 7) lo 1

/-! ### Routes (R588) -/

/-- The route entry whose range contains a node. -/
def State.routeEntry (s : State) (dst : Nat) : Option Nat :=
  (List.range (u8 s.linkStruct 0x120)).find? fun k =>
    decide (u16 s.linkStruct (0x130 + 8 * k) ≤ dst) && decide (dst ≤ u16 s.linkStruct (0x132 + 8 * k))

/-- A route: the link used, a named link that is DOWN and has no UP alternate (R601), or none (R588). -/
inductive Route where
  | via (link : Nat)
  | down
  | none
  deriving DecidableEq, Repr

/-- The route link for a node; a route that goes over to its alternate raises ROUTE_ALT. -/
def State.route (s : State) (dst : Nat) : State × Route :=
  match s.routeEntry dst with
  | some k =>
    let a := u8 s.linkStruct (0x134 + 8 * k)
    let b := u8 s.linkStruct (0x135 + 8 * k)
    if s.linkUp a then ({ s with mil := { s.mil with onAlt := clearBit s.mil.onAlt k } }, .via a)
    else if s.linkUp b then
      if bit s.mil.onAlt k then (s, .via b)
      else ({ s with mil := { s.mil with onAlt := setBit s.mil.onAlt k } }.raise (s.milSource a 8), .via b)
    else (s, if s.linkState a = Link.down then .down else .none)
  | none =>
    let d := u8 s.linkStruct 0x121
    if d = 0xFF then (s, .none) else if s.linkUp d then (s, .via d) else (s, if s.linkState d = Link.down then .down else .none)

/-! ### Sending on a link (R584 to R586, R593) -/

/-- Credits a packet takes. -/
def creditsFor (len : Nat) (enc : Bool) : Nat := (20 + len + (if enc then 16 else 0) + 63) / 64

/-- The initialisation vector of R593. -/
def milIv (vcByte kgen lcnt : Nat) : List Byte :=
  leBytes 1 vcByte ++ leBytes 1 0 ++ leBytes 2 kgen ++ leBytes 4 0 ++ leBytes 4 lcnt

/-- The bytes of a packet on a link: header, payload with its tag, CRC-32. -/
def milBytes (p : MilPacket) (seq : Nat) (key : Option MilKey) (lcnt : Nat) : List Byte :=
  let vcByte := (if p.vc = 8 then 16 else p.vc) + (if key.isSome then 8 else 0)
  let kgen := match key with
    | some k => k.kgen
    | none => 0
  let head := leBytes 2 (p.dst % 2 ^ 14 + ofBool p.bcast * 2 ^ 15) ++ leBytes 2 (p.src % 2 ^ 14) ++ leBytes 1 vcByte ++
    leBytes 1 p.hops ++ leBytes 2 p.payload.length
  let body := match key with
    | some k => Config.gcmSeal k.key (milIv vcByte kgen lcnt) head p.payload
    | none => p.payload
  let all := head ++ leBytes 2 (seq % 4096) ++ leBytes 2 kgen ++ leBytes 4 (if key.isSome then lcnt else 0) ++ body
  all ++ leBytes 4 (crc32 all)

/-- Bytes a link keeps for retry (R586). -/
def MilLink.kept (k : MilLink) : Nat := k.sent.foldl (fun n p => n + p.bytes.length) 0

/-- The channel may start this packet now: the link carries packets, credits are held, the key is there (R584, R586, R595). -/
def State.milReady (s : State) (l : Nat) (p : MilPacket) : Bool :=
  let c := s.milVc l p.vc
  let enc := s.vcEnc l p.vc
  (if p.vc = 8 then s.linkExists l && decide (Link.align ≤ s.linkState l) && s.linkState l != Link.down else s.linkUp l) &&
    decide (creditsFor p.payload.length enc ≤ c.credits) && (!enc || (c.tx.isSome && !c.failed)) &&
    decide ((s.milLink l).kept + p.payload.length + 36 ≤ 131072)

/-- What the terminate and idle blocks of a link carry (15, "Packets"): 0 an acknowledgement of LSEQ, 1 credits returned to a channel, 2 a
NAK of LSEQ; this form of them is the model's. -/
def State.linkSymbol (s : State) (l kind a b : Nat) : State := s.send .linkControl l (leBytes 1 kind ++ leBytes 2 a ++ leBytes 2 b)
/-- R584: credits of a packet passed on or delivered go back to its sender. -/
def State.returnCredits (s : State) (p : MilPacket) : State :=
  if p.ingress = 0 ∨ p.credits = 0 then s else s.linkSymbol (p.ingress - 1) 1 p.vc p.credits

/-- The packet leaves on the link: it takes credits, LSEQ and, encrypted, LCNT, and stays in retry storage. -/
def State.milTransmit (s : State) (l : Nat) (p : MilPacket) : State :=
  let c := s.milVc l p.vc
  let k := s.milLink l
  let enc := s.vcEnc l p.vc
  let bs := milBytes p k.nextSeq (if enc then c.tx else none) c.lcnt
  let c := { c with credits := c.credits - creditsFor p.payload.length enc, lcnt := if enc then c.lcnt + 1 else c.lcnt }
  let e : MilSent := { seq := k.nextSeq % 4096, vc := p.vc, packet := p, bytes := bs, resends := 0, time := s.chip.up }
  let s := ((s.setMilVc l p.vc c).showVc l p.vc).returnCredits p
  (s.setMilLink l { k with nextSeq := (k.nextSeq + 1) % 4096, sent := k.sent ++ [e] }).send .milio l bs

/-- A packet joins the ones that wait on its channel. -/
def State.milEnqueue (s : State) (l : Nat) (p : MilPacket) : State :=
  let c := s.milVc l p.vc
  s.setMilVc l p.vc { c with waiting := c.waiting ++ [p], since := if c.waiting.isEmpty then s.chip.up else c.since }

/-- A management packet of a link (15, "Management packets and keys"). -/
def State.milManage (s : State) (l : Nat) (payload : List Byte) : State :=
  let p : MilPacket := { dst := (s.milLink l).peer, src := s.blk.node, vc := 8, hops := 1, bcast := false, payload := payload }
  if s.milReady l p && (s.milVc l 8).waiting.isEmpty then s.milTransmit l p else s.milEnqueue l p

/-! ### Key exchange (R594, R659) -/

/-- A KX exchange of a channel starts: a new generation, an ephemeral scalar of the DRBG, and its public value in a KX packet. -/
def State.startKx (s : State) (l v : Nat) : State :=
  let c := s.milVc l v
  let gen := (c.lastGen + 1) % 65536
  let x := Config.drbg s.key.draws 56
  let s := { s with key := { s.key with draws := s.key.draws + 1 } }
  let s := s.setMilVc l v { c with kx := some { kgen := gen, key := x }, kxSince := s.chip.up, lastGen := gen, failed := false }
  s.milManage l (leBytes 1 3 ++ leBytes 1 v ++ leBytes 2 gen ++ Config.x448Public x)

/-- LCNT has reached 2^31: a new generation (R594). -/
def State.milRekey (s : State) (l v : Nat) : State :=
  let c := s.milVc l v
  if s.vcEnc l v && decide (2 ^ 31 ≤ c.lcnt) && c.kx.isNone then s.startKx l v else s

/-- The waiting packets of a channel that may start do so, oldest first. -/
def milPump (l v : Nat) : Nat → State → State
  | 0, s => s
  | fuel + 1, s =>
    match (s.milVc l v).waiting with
    | [] => s
    | p :: rest =>
      if s.milReady l p then
        milPump l v fuel (((s.setMilVc l v { s.milVc l v with waiting := rest, since := s.chip.up }).milTransmit l p).milRekey l v)
      else s

def State.milSend (s : State) (l : Nat) (p : MilPacket) : State :=
  let s := s.milEnqueue l p
  milPump l p.vc (s.milVc l p.vc).waiting.length s

/-! ### Packets this node originates (R587, R589, R601) -/

/-- A link takes broadcasts on from this node. -/
def State.broadcastLinks (s : State) : List Nat := (List.range 4).filter fun l => bit (u8 s.linkStruct 6) l && s.linkExists l

/-- A hardware user of port `port` sends a packet on a virtual channel: to this node it never leaves the part; a broadcast goes on
every link of BCAST_FWD and stays too; a unicast goes its route, or is dropped and counted. -/
def State.milOriginate (s : State) (port vc dst : Nat) (bcast : Bool) (payload : List Byte) : State :=
  let p : MilPacket := { dst := if bcast then 0 else dst, src := s.blk.node, vc := vc, hops := u8 s.linkStruct 7, bcast := bcast,
                         payload := payload }
  if !s.variant.hasMil port then s
  else if bcast then
    let s := (s.broadcastLinks).foldl (fun s l => if s.linkUp l then s.milSend l p else s.milDrop (l / 2) Drop.down) s
    { s with mil := { s.mil with loop := s.mil.loop ++ [(port, p)] } }
  else if dst = s.blk.node then { s with mil := { s.mil with loop := s.mil.loop ++ [(port, p)] } }
  else
    match s.route dst with
    | (s, .via l) => s.milSend l p
    | (s, .down) => s.milDrop port Drop.down
    | (s, .none) => s.milDrop port Drop.noroute

/-- The tag and two zero bytes that lead a tagged payload (12, 10, 11). -/
def tagged (tag : Nat) (bytes : List Byte) : List Byte := leBytes 2 tag ++ [0#8, 0#8] ++ bytes

end Sys2Proof.Machine
end

