-- ==== Sys2Proof/Machine/Pin.lean ====
section
/-! DEFINITION. The multiplexed balls (19): GPIO levels and edges, and the supply of the VIO banks (R67, R693 to R697). -/
namespace Sys2Proof.Machine

def State.pinGood (s : State) (bank : Nat) : Bool := s.flag Reg.pinStatus (24 + bank)
/-- The ball of a GPIO, once PINMUX is taken. -/
def State.gpioBall (s : State) (g : Nat) : Option Nat := if s.flag Reg.pinStatus 0 then s.ballOf 1 g else none
def State.gpioDir (s : State) (g : Nat) : Bool := s.flag (Reg.pinDir (g / 32)) (g % 32)
def State.gpioOut (s : State) (g : Nat) : Bool := s.flag (Reg.pinOut (g / 32)) (g % 32)
def State.gpioIn (s : State) (g : Nat) : Bool := s.flag (Reg.pinIn (g / 32)) (g % 32)

/-- The level at the ball of a GPIO: what it drives, or what the board puts on it; 0 where unassigned or its bank is held at
high impedance (R694, R695). -/
def State.gpioLevel (s : State) (g : Nat) : Bool :=
  match s.gpioBall g with
  | none => false
  | some n => s.pinGood (n / s.variant.bankBalls) && (if s.gpioDir g then s.gpioOut g else bit s.pin.ball g)

/-- An edge is seen: an enabled one sets its PEND bit and raises its group's source, and event tasks see it (R697). -/
def State.gpioEdgeSeen (s : State) (g : Nat) (rising : Bool) : State :=
  let r := if rising then Reg.pinRise (g / 32) else Reg.pinFall (g / 32)
  let s := if s.flag r (g % 32) then (s.setFlag (Reg.pinPend (g / 32)) (g % 32) true).raise (464 + g / 16) else s
  s.offerEvent 6 (g + (if rising then 256 else 512))

/-- PIN.IN follows the ball; with `edges` a change is seen as an edge. -/
def State.followBall (s : State) (g : Nat) (edges : Bool) : State :=
  let v := s.gpioLevel g
  if s.gpioIn g = v then s
  else
    let s := s.setFlag (Reg.pinIn (g / 32)) (g % 32) v
    if edges then s.gpioEdgeSeen g v else s

/-- A GPIO output takes a level. -/
def State.driveGpio (s : State) (g : Nat) (v : Bool) : State :=
  (s.setFlag (Reg.pinOut (g / 32)) (g % 32) v).followBall g true

/-- R697. -/
def execGpioEdge (gpio : Nat) (rising : Bool) (s : State) : Reply :=
  let g := gpio % 128
  let b := if rising then setBit s.pin.ball g else clearBit s.pin.ball g
  .next ({ s with pin := { s.pin with ball := b } }.followBall g true)

/-- The PINMUX section assigns a function to a ball of the bank. -/
def State.bankAssigned (s : State) (b : Nat) : Bool :=
  (List.range s.variant.bankBalls).any fun k => s.ballEntry (b * s.variant.bankBalls + k) % 256 != 0

/-- R67: a fault is recorded of a bank held at high impedance that the running PINMUX section uses (the record's detector: log entry 24). -/
def State.reportBank (s : State) (b : Nat) : State :=
  if s.bankAssigned b then s.blockEvent 0x1A 0x33 b Act.outOfService 0 b else s

/-- R67, R695: the bank is held at high impedance and its inputs read 0; source 472 rises, and a fault is recorded where PINMUX
uses the bank (the record's detector: log entry 24). That the change to 0 is no edge is a DESIGN CHOICE (log entry 35). -/
def execVioBankLow (bank : Nat) (s : State) : Reply :=
  if 6 ≤ bank then .next s
  else
    let s := (s.setFlag Reg.pmuRails (8 + bank) false).setFlag Reg.pinStatus (24 + bank) false
    let s := (List.range 128).foldl (fun s g => s.followBall g false) s
    let s := s.raise 472
    .next (s.reportBank bank)

/-- R695: the bank's balls resume their configuration; source 472 rises. -/
def execVioBankGood (bank : Nat) (s : State) : Reply :=
  if 6 ≤ bank then .next s
  else
    let s := (s.setFlag Reg.pmuRails (8 + bank) true).setFlag Reg.pinStatus (24 + bank) true
    .next (((List.range 128).foldl (fun s g => s.followBall g false) s).raise 472)

end Sys2Proof.Machine
end

