-- ==== Sys2Proof/Machine/Latch.lean ====
section
/-! DEFINITION. The Latch (12): acceptance of claimed commands, what a channel drives, forwarding, hold, SAFE and status (R519 to R528,
R533). -/
namespace Sys2Proof.Machine

def State.latchChannel (s : State) (c : Nat) : LatchChannel := s.latch.channels.get c
def State.setLatchChannel (s : State) (c : Nat) (k : LatchChannel) : State :=
  { s with latch := { s.latch with channels := s.latch.channels.set c k } }
def Lat.idle : Nat := 0
def Lat.active : Nat := 1
def Lat.safe : Nat := 3
/-- The state a channel holds: IDLE, ACTIVE (HOLDING is ACTIVE that has aged) or SAFE. -/
def State.latchHeld (s : State) (c : Nat) : Nat := s.fld (Reg.latCstate c) 30 29
def State.latchArm (c : Nat) : Nat := if c < 32 then Reg.latArmLo else Reg.latArmHi
def State.latchSafeReg (c : Nat) : Nat := if c < 32 then Reg.latSafeLo else Reg.latSafeHi

/-- The Latch takes commands (R99, R523: not before the end of MOUNT, and in SAFE every channel drives its safe value). -/
def State.latchRuns (s : State) : Bool := s.mode == Mode.standby || s.controlRuns

/-- A channel takes a state; LAT.SAFE and LAT.STATUS show it. -/
def State.setLatchHeld (s : State) (c st : Nat) : State :=
  let s := s.setFld (Reg.latCstate c) 30 29 st
  let s := s.setFlag (State.latchSafeReg c) (c % 32) (st != Lat.active)
  s.setFld Reg.latStatus 31 24 ((List.range 64).filter fun k => s.latchUsed k && s.latchHeld k == Lat.safe).length

/-- AGE in microseconds, saturating; all ones when nothing was accepted since MOUNT. -/
def State.latchAge (s : State) (c : Nat) : Nat := match (s.latchChannel c).accepted with
  | some t => min 0xFFFFFFFF ((s.chip.up - t) / 1000)
  | none => 0xFFFFFFFF

/-- STATE as LAT.CSTATE and STATUS frames show it: HOLDING when AGE is above 1.5 PERIOD. -/
def State.latchState (s : State) (c : Nat) : Nat :=
  match s.latchHeld c, (s.latchChannel c).accepted with
  | 1, some t => if 3 * s.latchPeriod c < 2 * (s.chip.up - t) then 2 else 1
  | st, _ => st

/-- HIGHEST has been seen within WINDOW and not withdrawn (R520). -/
def State.latchLive (s : State) (c : Nat) : Bool := match (s.latchChannel c).seen with
  | some t => decide (s.chip.up - t < 1000 * s.num Reg.latWindow)
  | none => false

/-- LAT.CSTATE as a read shows it. -/
def State.latchWord (s : State) (c : Nat) : Nat :=
  let w := setField (s.reg (Reg.latCstate c)) 30 29 (s.latchState c)
  let wait := s.latchHeld c == Lat.safe && s.latchResumeArm c && !s.flag (State.latchArm c) (c % 32)
  (setField (setField w 28 28 (ofBool (s.latchUsed c && wait))) 27 27 (ofBool (s.latchLive c))).toNat

/-! ### What a channel drives -/

/-- The output of a channel takes a value (12, "The Latch"); a FORWARD channel sends its frames beside this. -/
def State.latchOutput (s : State) (c v : Nat) : State :=
  let s := s.setNum (Reg.latValue c) v
  if s.latchDrive c = 1 then s.driveGpio (s.latchTargetNo c) (bit v 0)
  else if s.latchDrive c = 2 then s.latchTarget (s.latchTargetNo c) (signed 32 v)
  else s

/-- The channel drives its SAFEVAL (R523, R99); a FORWARD channel sends nothing. -/
def State.latchToSafe (s : State) (c st : Nat) : State := (s.setLatchHeld c st).latchOutput c (s.latchSafeval c)

/-! ### Frames -/

def Frame.command : Nat := 1
def Frame.status : Nat := 2
def Frame.withdraw : Nat := 3
/-- A claimed command frame (12). -/
def State.latchFrame (s : State) (ftype setid claim : Nat) (entries : List (List Byte)) : List Byte :=
  leBytes 1 ftype ++ leBytes 1 entries.length ++ leBytes 2 s.blk.node ++ leBytes 2 setid ++ leBytes 2 0 ++ leBytes 4 claim ++
    leBytes 4 0 ++ entries.flatten

/-- Zeros up to the next CAN FD data length (R617). -/
def padFd (bs : List Byte) : List Byte :=
  let n := match ([8, 12, 16, 20, 24, 32, 48, 64] : List Nat).find? fun k => bs.length ≤ k with
    | some k => k
    | none => 64
  slice bs 0 n

/-- A frame goes on a LINK to an ID (12, the LINK and ID layouts): to a CAN controller's queue of Latch frames, or, when the
controller is RESTRICTED, nowhere and counted (R619); or as a tagged Milio payload. -/
def State.sendLink (s : State) (l : Nat × Nat) (frame : List Byte) : State :=
  if !bit l.1 7 then s
  else if bit l.1 0 then
    s.milOriginate (l.1 / 8 % 2) (l.1 / 16 % 8) (l.2 % 2 ^ 14) false (tagged (l.2 / 2 ^ 16) frame)
  else
    let k := l.1 / 2 % 4
    if s.variant.cans ≤ k ∨ s.fenced Region.link = true then s
    else if s.flag (Reg.canStatus k) 28 then s.bump (Reg.canHwdrop k) 31 0 1
    else { s with can := { s.can with latch := s.can.latch.set k (s.can.latch.get k ++ [(l.2 % 2 ^ 30, padFd frame)]) } }

/-- A forwarded command waiting for its frame: channel, QUAL, SEQ and VALUE. -/
structure Forward where
  channel : Nat
  qual : Nat
  seq : Nat
  value : Nat
  deriving DecidableEq, Repr

def State.forwardEntry (s : State) (f : Forward) : List Byte :=
  leBytes 1 (s.latchTargetNo f.channel) ++ leBytes 1 f.qual ++ leBytes 2 f.seq ++ leBytes 4 f.value

/-- Two forwarded commands go to the same destination, under one SETID and claim. -/
def State.sameFrame (s : State) (a b : Nat) : Bool :=
  s.latchFwd a 0 == s.latchFwd b 0 && s.latchFwd a 1 == s.latchFwd b 1 && s.latchSetid a == s.latchSetid b &&
    s.num (Reg.latHighest a) == s.num (Reg.latHighest b)

/-- One COMMAND frame on FWD and, where used, on FWD2 (R527). -/
def State.sendForward (s : State) (fs : List Forward) : State := match fs with
  | [] => s
  | f :: _ =>
    let frame := s.latchFrame Frame.command (s.latchSetid f.channel) (s.num (Reg.latHighest f.channel)) (fs.map s.forwardEntry)
    (s.sendLink (s.latchFwd f.channel 0) frame).sendLink (s.latchFwd f.channel 1) frame

/-- The commands of one transfer, at most 6 of one destination in a frame, in ascending channel order. -/
def forwardAll : Nat → List Forward → State → State
  | 0, _, s => s
  | fuel + 1, fs, s => match fs with
    | [] => s
    | f :: rest =>
      let mine := f :: rest.filter fun g => s.sameFrame f.channel g.channel
      let now := mine.take 6
      forwardAll fuel (mine.drop 6 ++ rest.filter fun g => !s.sameFrame f.channel g.channel) (s.sendForward now)

def insertForward (f : Forward) : List Forward → List Forward
  | [] => [f]
  | g :: r => if f.channel < g.channel then f :: g :: r else g :: insertForward f r

def State.forwardSet (s : State) (fs : List Forward) : State :=
  let fs := fs.foldl (fun l f => insertForward f l) []
  forwardAll fs.length fs s

/-! ### Acceptance (R519 to R524) -/

/-- A command at a channel. -/
structure LatchCommand where
  channel : Nat
  claim : Nat
  setid : Nat
  seq : Nat
  qual : Nat
  value : Nat
  deriving DecidableEq, Repr

/-- R519. -/
def State.latchForeign (s : State) : State := (s.bump Reg.latForeign 31 0 1).raise 51

/-- R520, R524: dropped and counted; the first drop of a channel in a second raises source 49. -/
def State.latchDropped (s : State) (c : Nat) : State :=
  let s := (s.bump (Reg.latDrop c) 31 0 1).cellEvent 0x22 0x07 c Act.none 0 c
  let k := s.latchChannel c
  let again := match k.dropped with
    | some t => decide (s.chip.up - t < 1000000000)
    | none => false
  if again then s else (s.setLatchChannel c { k with dropped := some s.chip.up }).raise 49

/-- R521: newer than the last accepted SEQ. -/
def seqAhead (seq last : Nat) : Bool :=
  let d := (seq + 65536 - last % 65536) % 65536
  decide (1 ≤ d) && decide (d ≤ 32767)

/-- R522: an epoch above the floor raises it and is written to the Hinge record; R495: EPOCH_RESET clears. -/
def State.latchFloor (s : State) (setid epoch : Nat) : State :=
  let r := s.hinge.record
  if s.floor setid < epoch then
    (s.writeHinge { r with floors := raiseFloor s.setidUnused r.floors setid epoch, epochReset := false }).raise 52
  else if r.epochReset then s.writeHinge { r with epochReset := false }
  else s

/-- R522: the channel accepts a command. -/
def State.latchAccept (s : State) (m : LatchCommand) : State × Option Forward :=
  let c := m.channel
  let k := s.latchChannel c
  let resumes := s.latchHeld c == Lat.safe && s.latchResumeArm c
  let seq := (k.fwdSeq + 1) % 65536
  let fwd := s.latchDrive c == 3
  let ours := fwd && m.claim == s.num Reg.hngClaim && s.num Reg.hngClaim != 0
  let s := s.setLatchChannel c { k with accepted := some s.chip.up, seen := some s.chip.up, ours := k.ours || ours,
                                        fwdSeq := if fwd then seq else k.fwdSeq }
  let s := ((s.setNum (Reg.latHighest c) m.claim).setFld (Reg.latCstate c) 15 0 m.seq).setFld (Reg.latCstate c) 23 20 m.qual
  let s := if resumes then (s.setFlag (State.latchArm c) (c % 32) false).raise 50 else s
  let s := ((s.setLatchHeld c Lat.active).latchOutput c m.value).latchFloor m.setid (epochOf m.claim)
  (s, if fwd then some { channel := c, qual := m.qual % 16, seq := seq, value := m.value } else none)

/-- R520 to R524: a command that passed R519 is accepted or dropped. -/
def State.latchOffer (s : State) (m : LatchCommand) : State × Option Forward :=
  let c := m.channel
  let k := s.latchChannel c
  let high := s.num (Reg.latHighest c)
  let floorOk := decide (s.floor m.setid ≤ epochOf m.claim) && !s.disregards (epochOf m.claim)
  let live := high != 0 && s.latchLive c
  let s := if floorOk && m.claim == high then s.setLatchChannel c { k with seen := some s.chip.up } else s
  if k.stuck || !floorOk || (decide (m.claim < high) && live) then (s.latchDropped c, none)
  else if m.claim = high ∧ k.accepted.isSome = true ∧ seqAhead m.seq (s.fld (Reg.latCstate c) 15 0) = false then
    (s.bump Reg.latDups 31 0 1, none)
  else if s.latchHeld c = Lat.safe ∧ s.latchResumeArm c = true ∧ s.flag (State.latchArm c) (c % 32) = false then
    (s.latchDropped c, none)
  else s.latchAccept m

/-! ### Local sources (R526) -/

/-- A local source presents a command under the part's claim and SETID, with the channel's own number. -/
def State.latchPresent (s : State) (c value qual : Nat) : State × Option Forward :=
  let claim := s.num Reg.hngClaim
  if claim = 0 ∨ s.latchRuns = false then (s, none)
  else if s.latchUsed c = false ∨ s.latchInput c 0 = false ∨ s.latchSetid c ≠ s.ownSetid then (s.latchForeign, none)
  else
    let k := s.latchChannel c
    let s := s.setLatchChannel c { k with localSeq := (k.localSeq + 1) % 65536 }
    s.latchOffer { channel := c, claim := claim, setid := s.ownSetid, seq := k.localSeq, qual := qual % 16, value := value }

/-- The commands of one transfer (R527). -/
def State.latchPresentAll (s : State) (cmds : List (Nat × Nat × Nat)) : State :=
  let (s, fs) := cmds.foldl (fun (p : State × List Forward) m =>
    let (s, f) := p.1.latchPresent m.1 m.2.1 m.2.2
    (s, match f with | some x => p.2 ++ [x] | none => p.2)) (s, [])
  s.forwardSet fs

/-- R526, R501: WITHDRAW goes on every FORWARD channel that accepted a command under the part's claim. -/
def State.latchWithdrawAll (s : State) (claim : Nat) : State :=
  (List.range 64).foldl (fun s c =>
    if s.latchUsed c && (s.latchChannel c).ours then
      let s := s.setLatchChannel c { s.latchChannel c with ours := false }
      let frame := s.latchFrame Frame.withdraw (s.latchSetid c) claim []
      (s.sendLink (s.latchFwd c 0) frame).sendLink (s.latchFwd c 1) frame
    else s) s

/-! ### Frames that arrive -/

/-- The channel takes an input (R519). -/
def State.latchTakes (s : State) (c : Nat) (i : FrameInput) : Bool :=
  s.latchUsed c &&
    match i with
    | .can k id => s.latchInput c 1 && s.latchCanid c == k % 4 * 2 ^ 30 + id % 2 ^ 30
    | .milio p v t => s.latchInput c 2 && s.latchMilsel c % 2 ^ 20 == v % 8 + p % 2 * 8 + t % 2 ^ 16 * 16

/-- The Latch is offered a frame: some channel's CAN input names its controller (R609), or its Milio input matches (R596). -/
def State.latchOffered (s : State) (i : FrameInput) : Bool :=
  (List.range 64).any fun c =>
    match i with
    | .can k _ => s.latchUsed c && s.latchInput c 1 && s.latchCanid c / 2 ^ 30 == k % 4
    | .milio _ _ _ => s.latchTakes c i

def Lfr.type (f : List Byte) : Nat := u8 f 0
def Lfr.nent (f : List Byte) : Nat := min 6 (u8 f 1)
def Lfr.setid (f : List Byte) : Nat := u16 f 4 % 2 ^ 14
def Lfr.claim (f : List Byte) : Nat := u32 f 8

/-- A COMMAND frame arrives: each entry at its channel (R519 to R524), and what FORWARD channels accept goes on, each in a
frame of its own (R527). -/
def State.receiveCommand (s : State) (i : FrameInput) (f : List Byte) : State :=
  if !s.latchRuns || !s.latchOffered i then s
  else
    (List.range (Lfr.nent f)).foldl (fun s e =>
      let o := 0x10 + 8 * e
      let c := u8 f o
      if !s.latchTakes c i || s.latchSetid c != Lfr.setid f || Lfr.claim f == 0 then s.latchForeign
      else
        let (s, w) := s.latchOffer { channel := c, claim := Lfr.claim f, setid := Lfr.setid f, seq := u16 f (o + 2),
                                     qual := u8 f (o + 1) % 16, value := u32 f (o + 4) }
        match w with
        | some x => s.forwardSet [x]
        | none => s) s

/-- R525. -/
def State.receiveWithdraw (s : State) (i : FrameInput) (f : List Byte) : State :=
  if !s.latchRuns then s
  else
    (List.range 64).foldl (fun s c =>
      if s.latchTakes c i && s.latchSetid c == Lfr.setid f && s.num (Reg.latHighest c) == Lfr.claim f && Lfr.claim f != 0 then
        s.setLatchChannel c { s.latchChannel c with seen := none }
      else s) s

/-- R520: a COMMAND frame at the Latch. -/
def execLatchCommand (input : FrameInput) (frame : List Byte) (s : State) : Reply :=
  .next (if Lfr.type frame = Frame.command then s.receiveCommand input frame else s)

/-- R525: a WITHDRAW frame at the Latch. -/
def execLatchWithdraw (input : FrameInput) (frame : List Byte) (s : State) : Reply :=
  .next (if Lfr.type frame = Frame.withdraw then s.receiveWithdraw input frame else s)

/-- Entries of a STATUS frame (R528). -/
def State.statusEntry (s : State) (c : Nat) : List Byte :=
  leBytes 1 c ++ leBytes 1 (s.latchState c) ++ leBytes 2 (min 0xFFFF (s.latchAge c / 100)) ++ leBytes 4 (s.num (Reg.latHighest c))

/-- Cut a list into pieces of at most 6. -/
def sixes {α : Type} : Nat → List α → List (List α)
  | 0, _ => []
  | fuel + 1, l => match l with
    | [] => []
    | l => l.take 6 :: sixes fuel (l.drop 6)

/-- R528: STATUS frames over every used channel, those of one SETID together, at most 6 a frame, in ascending channel order; STATUS_MS after the
last ones, up to which time passes. -/
def execStatusSend (s : State) : Reply :=
  if bit (u8 s.latchBody 1) 0 ∧ Mode.mount < s.mode then
    let s := s.elapse ((s.latch.statusAt + 1000000 * u16 s.latchBody 2 - s.chip.up + 3) / 4)
    let s := { s with latch := { s.latch with statusAt := s.chip.up } }
    let used := (List.range 64).filter s.latchUsed
    let setids := (used.map s.latchSetid).eraseDups
    let frames := setids.flatMap fun id =>
      (sixes 64 (used.filter fun c => s.latchSetid c == id)).map fun cs => s.latchFrame Frame.status id 0 (cs.map s.statusEntry)
    .next (frames.foldl (fun s f => s.sendLink (u32 s.latchBody 8, u32 s.latchBody 0xC) f) s)
  else .next s

/-- R523: HOLD periods after its last acceptance a channel drives SAFEVAL and enters SAFE; time passes up to then. -/
def execLatchHoldExpiry (channel : Nat) (s : State) : Reply :=
  let c := channel % 64
  match (s.latchChannel c).accepted with
  | none => .next s
  | some t =>
    if s.latchRuns ∧ s.latchUsed c ∧ s.latchHeld c = Lat.active then
      let s := s.elapse ((t + s.fld (Reg.latHold c) 7 0 * s.latchPeriod c - s.chip.up + 3) / 4)
      .next ((s.latchToSafe c Lat.safe).raise 48)
    else .next s

/-- R526, R527: a software command on a SOFTWARE channel, in a frame of its own. -/
def execLatchCmd (who : Who) (channel : Nat) (value : Word) (s : State) : Reply :=
  .next (s.gated who (Reg.latCmd (channel % 64)) value fun s => s.latchPresentAll [(channel % 64, value.toNat, 0)])

/-- R524: a write of 1 sets the ARM bits of channels 0 to 31 or 32 to 63. -/
def execLatchArm (who : Who) (high : Bool) (value : Word) (s : State) : Reply :=
  let r := if high then Reg.latArmHi else Reg.latArmLo
  .next (s.gated who r value fun s => s.setReg r (s.reg r ||| value))

/-- R533. -/
def execLatClear (who : Who) (value : Word) (s : State) : Reply :=
  .next (s.gated who Reg.latClear value fun s =>
    if bit value.toNat 0 then
      (List.range 64).foldl (fun s c => s.setNum (Reg.latDrop c) 0) ((s.setNum Reg.latForeign 0).setNum Reg.latDups 0)
    else s)

/-- R668, LATCH_STUCK: a GPIO channel whose pin reads back another level for 10 µs is out of service. -/
def execLatchStuck (channel : Nat) (s : State) : Reply :=
  let c := channel % 64
  if s.latchUsed c ∧ s.latchDrive c = 1 ∧ Mode.mount < s.mode ∧ (s.latchChannel c).stuck = false then
    .next ((s.setLatchChannel c { s.latchChannel c with stuck := true }).cellFails 0x23 0x07 c false)
  else .next s

end Sys2Proof.Machine
end

