-- ==== Sys2Proof/Machine/Cle.lean ====
section
/-! DEFINITION. The control-law engine (09): sweeps, freshness, executions, groups, misses and tuning (R382 to R405). -/
namespace Sys2Proof.Machine

/-! ### The LOOP section -/

def State.loopBody (s : State) : List Byte := s.body Ty.loop Region.control 0
def State.nloop (s : State) : Nat := min 256 (u16 s.loopBody 0)
def State.ngroup (s : State) : Nat := u8 s.loopBody 2
def State.sweepSpindle (s : State) : Nat := u8 s.loopBody 4
def State.sweepComparator (s : State) : Nat := u8 s.loopBody 5
def State.sweepAngle (s : State) : Nat := u32 s.loopBody 8
/-- Blocks of loop `l`; 0: the slot holds no loop. -/
def State.loopBlocks (s : State) (l : Nat) : Nat := if l < s.nloop then u8 s.loopBody (loopEntry l) else 0
def State.loopByte (s : State) (l o : Nat) : Nat := u8 s.loopBody (loopEntry l + o)
def State.loopFixed (s : State) (l : Nat) : Bool := bit (s.loopByte l 1) 1
def State.loopGroup (s : State) (l : Nat) : Nat := s.loopByte l 4
/-- Input word, output word and readback word. -/
def State.loopIn (s : State) (l i : Nat) : Nat := u32 s.loopBody (loopEntry l + 8 + 4 * i)
def State.loopOut (s : State) (l i : Nat) : Nat := u32 s.loopBody (loopEntry l + 0x18 + 4 * i)
def State.loopRb (s : State) (l : Nat) : Nat := u32 s.loopBody (loopEntry l + 0x34)
def State.blockDef (s : State) (l b : Nat) : BlockDef :=
  let o := blockEntry l b
  { type := u8 s.loopBody o, a := u8 s.loopBody (o + 1), b := u8 s.loopBody (o + 2), c := u8 s.loopBody (o + 3),
    frac := u8 s.loopBody (o + 4), flags := u8 s.loopBody (o + 5) }
/-- A block's coefficients, shifts and limits as the section gives them. -/
def State.blockAtLoad (s : State) (l b : Nat) : CleBlock :=
  let o := blockEntry l b
  { k := (List.range 5).map fun i => i32 s.loopBody (o + 8 + 4 * i), s := (List.range 5).map fun i => i8 s.loopBody (o + 0x1C + i),
    lo := i32 s.loopBody (o + 0x24), hi := i32 s.loopBody (o + 0x28), integ := 0, x1 := 0, x2 := 0, y1 := 0, y2 := 0, prev := 0,
    out := 0 }
def State.groupSize (s : State) (g : Nat) : Nat := u8 s.loopBody (groupEntry s.loopBody g)
def State.groupPartial (s : State) (g : Nat) : Bool := bit (u8 s.loopBody (groupEntry s.loopBody g + 1)) 0
def State.groupDest (s : State) (g : Nat) : Nat := u32 s.loopBody (groupEntry s.loopBody g + 4)
def State.groupMembers (s : State) (g : Nat) : List Nat :=
  (List.range (s.groupSize g)).map fun k => u8 s.loopBody (groupEntry s.loopBody g + 8 + k)

/-! ### State of loops -/

def State.cleLoop (s : State) (l : Nat) : CleLoop := s.cle.loops.get l
def State.setCleLoop (s : State) (l : Nat) (k : CleLoop) : State := { s with cle := { s.cle with loops := s.cle.loops.set l k } }
def State.setSweep (s : State) (w : Option CleSweep) : State :=
  { s with cle := { s.cle with sweep := w } }.setFlag Reg.cleStatus 31 w.isSome
def State.loopEnabled (s : State) (l : Nat) : Bool := s.flag (Reg.cleLen (l / 32)) (l % 32)
/-- The CLE runs in RUN and HOLD, while Control is not fenced. -/
def State.cleRuns (s : State) : Bool := s.controlRuns && !s.fenced Region.control

/-- A loop starts anew with its section's values: histories empty, set-points and LEN as the entry gives them (R146, R398). -/
def State.cleLoadLoop (s : State) (l : Nat) : State :=
  let bs := (List.range (s.loopBlocks l)).map (s.blockAtLoad l)
  let s := s.setCleLoop l { blocks := bs, seen := [none, none, none, none] }
  let s := (List.range 4).foldl (fun s i => s.setNum (Reg.cleLp l i) (u32 s.loopBody (loopEntry l + 0x20 + 4 * i))) s
  let s := s.setFlag (Reg.cleLen (l / 32)) (l % 32) (decide (s.loopBlocks l ≠ 0) && bit (s.loopByte l 1) 0)
  if s.loopBlocks l = 0 then s.setNum (Reg.cleLstate l) 0
  else s.setNum (Reg.cleLstate l) (2 ^ 31 + 2 ^ 29 + s.loopGroup l * 2 ^ 16)

/-- The next execution of a loop is a first execution (R398). -/
def State.cleFirst (s : State) (l : Nat) : State := if s.loopBlocks l = 0 then s else s.setFlag (Reg.cleLstate l) 29 true

/-! ### Execution (R386 to R390) -/

/-- QUAL of the signal of an input word. -/
def State.qualOf (s : State) (w : Nat) : Nat := s.mem32 (s.signalAddr (w % 2 ^ 14) + 4)
def State.valueOf (s : State) (w : Nat) : Int := signed 32 (s.mem32 (s.signalAddr (w % 2 ^ 14)))

/-- A NEW input is fresh: COUNT differs from the one last seen, STALE_OUT is 0 and there is a writer. -/
def State.freshInput (s : State) (l i : Nat) : Bool :=
  let w := s.loopIn l i
  let q := s.qualOf w
  !bit w 24 || ((s.cleLoop l).seen.getD i none != some (q % 65536) && !bit q 28 && q / 65536 % 256 != 0xFF)
def State.loopFresh (s : State) (l : Nat) : Bool := (List.range (s.loopByte l 5)).all (s.freshInput l)

def State.loopRbUsed (s : State) (l : Nat) : Bool := bit (s.loopRb l) 31

/-- What an execution reads (R386, R400). -/
def State.cleInput (s : State) (l : Nat) : CleInput :=
  let nin := s.loopByte l 5
  { ins := (List.range nin).map fun i => s.valueOf (s.loopIn l i), inFrac := (List.range nin).map fun i => s.loopIn l i / 65536 % 32,
    set := (List.range 4).map fun i => signed 32 (s.num (Reg.cleLp l i)), setFrac := (List.range 4).map fun i => s.loopByte l (0x30 + i),
    rb := if s.loopRbUsed l then s.valueOf (s.loopRb l) else 0, rbFrac := s.loopRb l / 65536 % 32, rbUsed := s.loopRbUsed l,
    rbWritten := s.qualOf (s.loopRb l) / 65536 % 256 != 0xFF, first := s.flag (Reg.cleLstate l) 29,
    defs := (List.range (s.loopBlocks l)).map (s.blockDef l), blocks := (s.cleLoop l).blocks }

/-- R399: a first execution seasons when a PID has K2 ≠ 0 or a block uses a Z operand. -/
def CleInput.seasons (i : CleInput) : Bool :=
  i.first && ((i.defs.zip i.blocks).any fun d =>
    (d.1.type == 8 && d.2.kOf 2 != 0) || d.1.operands.any fun o => decide (0x20 ≤ o) && decide (o < 0x28))

/-- R390: the QUAL flags of an execution's outputs. -/
def State.cleFlags (s : State) (l : Nat) (w : CleSweep) (seasons : Bool) : Nat :=
  let ins := (List.range (s.loopByte l 5)).map fun i => s.qualOf (s.loopIn l i)
  let all := if s.loopRbUsed l then s.qualOf (s.loopRb l) :: ins else ins
  let any := fun (qs : List Nat) (b : Nat) => qs.any fun q => bit q b
  ofBool (any all 31 || w.seasoning || seasons) * 2 ^ 31 + ofBool (any all 30 || w.subst) * 2 ^ 30 +
    ofBool (any all 29 || any ins 28) * 2 ^ 29

/-- An output word takes a value: a signal is written, a Latch command kept for the transfer (R388, R390). -/
def State.clePut (s : State) (w : Nat) (v : Int) (flags : Nat) : State × List (Nat × Nat × Nat) :=
  if bit w 15 then (s, [(w % 64, unsigned 32 v, flags / 2 ^ 28 % 16)])
  else (s.writeSignal (w % 2 ^ 14) (unsigned 32 v) flags 0x80, [])

/-- A kept output (R391): its previous VALUE and flags, STALE_OUT set; nothing goes to the Latch. -/
def State.cleKeep (s : State) (w : Nat) : State :=
  if bit w 15 then s
  else s.writeSignal (w % 2 ^ 14) (unsigned 32 (s.valueOf w)) (s.qualOf w / 2 ^ 29 * 2 ^ 29 + 2 ^ 28) 0x80

/-- The value an output word takes of an execution. -/
def CleRun.outOf (r : CleRun) (w : Nat) : Int := r.outs.getD (w / 65536 % 256 - 0x10) 0

/-- Outputs `from` to NOUT - 1 of a loop. -/
def State.cleOutputs (s : State) (r : CleRun) (first : Nat) : State × List (Nat × Nat × Nat) :=
  ((List.range (s.loopByte r.loop 6)).filter fun i => first ≤ i).foldl (fun p i =>
    let w := p.1.loopOut r.loop i
    let s := p.1.setNum (if i = 0 then Reg.cleLout0 r.loop else Reg.cleLout1 r.loop) (unsigned 32 (r.outOf w))
    let (s, c) := s.clePut w (r.outOf w) r.flags
    (s, p.2 ++ c)) (s, [])

/-- The histories of an execution that wrote its outputs (R381), and LSTATE. -/
def State.cleSettle (s : State) (r : CleRun) (winner : Option (Nat × Int)) : State :=
  let s := s.setCleLoop r.loop { s.cleLoop r.loop with blocks := r.settle winner }
  ((s.setFlag (Reg.cleLstate r.loop) 29 false).setFlag (Reg.cleLstate r.loop) 27 (bit r.flags 31)).setFlag (Reg.cleLstate r.loop) 26
    (bit r.flags 30)

/-- CLE.LOAD: from the firing to this write, in units of 10 ns (09, registers). -/
def State.cleLoad (s : State) (w : CleSweep) : State :=
  let t := min 0xFFFF ((s.chip.up - w.start) / 10)
  (s.setFld Reg.cleLoad 15 0 t).setFld Reg.cleLoad 31 16 (max t (s.fld Reg.cleLoad 31 16))

/-! ### Groups (R393 to R397) -/

/-- A group keeps DEST; source 225 rises. -/
def State.groupKept (s : State) (g : Nat) : State :=
  ((s.cleKeep (s.groupDest g)).setFlag (Reg.cleGrp g) 30 true).raise 225

/-- The candidate of a member: the output of the PID block its OUT0 names. -/
def State.candidate (s : State) (r : CleRun) : Int := r.outOf (s.loopOut r.loop 0)
/-- The lowest candidate, the lower loop among equals. -/
def State.winner (s : State) (rs : List CleRun) : Option CleRun :=
  rs.foldl (fun best r => match best with
    | none => some r
    | some b =>
      if s.candidate r < s.candidate b ∨ (s.candidate r = s.candidate b ∧ r.loop < b.loop) then some r else some b) none

/-- R397: the winner's candidate goes to DEST in one transfer, and every member compared integrates toward it. -/
def State.groupResolved (s : State) (g : Nat) (w : CleSweep) (rs : List CleRun) (win : CleRun) : State :=
  let c := s.candidate win
  let flags := rs.foldl (fun f r => f ||| r.flags) 0
  let (s, cmds) := s.clePut (s.groupDest g) c flags
  let (s, cmds) := rs.foldl (fun (p : State × List (Nat × Nat × Nat)) r =>
    let (s, more) := p.1.cleOutputs r 1
    (s.cleSettle r (some (s.loopOut r.loop 0 / 65536 % 256 - 0x10, c)), p.2 ++ more)) (s, cmds)
  let s := s.latchPresentAll cmds
  let s := if s.fld (Reg.cleGrp g) 15 8 = win.loop then s else s.roll (Reg.cleGrp g) 7 0 1
  ((s.setFld (Reg.cleGrp g) 15 8 win.loop).setFlag (Reg.cleGrp g) 30 false).cleLoad w

/-- The members of a group that take part in the sweep and have not executed. -/
def CleSweep.missing (w : CleSweep) (ms : List Nat) : Bool := ms.any fun m => w.due.contains m

/-- A group that can be resolved is: when every enabled due member has executed, or, with `past`, at the deadline. -/
def State.tryGroup (s : State) (g : Nat) (past : Bool) : State :=
  match s.cle.sweep with
  | none => s
  | some w =>
    let ms := s.groupMembers g
    let part := ms.filter w.members.contains
    if !w.groups.contains g || (w.missing ms && !past) then s
    else
      let rs := w.runs.filter fun r => ms.contains r.loop
      let s := s.setSweep (some { w with groups := w.groups.filter (· != g), runs := w.runs.filter fun r => !ms.contains r.loop })
      if part.isEmpty then s
      else
        match s.winner rs with
        | none => s.groupKept g
        | some win => if rs.length < part.length ∧ s.groupPartial g = false then s.groupKept g else s.groupResolved g w rs win

/-- The sweep ends when every due loop has executed and every group is resolved (R385). -/
def State.sweepDone (s : State) : State :=
  match s.cle.sweep with
  | some w => if w.due.isEmpty && w.groups.isEmpty then s.setSweep none else s
  | none => s

/-- A loop executes (R388). -/
def State.cleExecute (s : State) (l : Nat) (w : CleSweep) : State :=
  let i := s.cleInput l
  let flags := s.cleFlags l w i.seasons
  let (outs, blocks, pids) := i.run
  let r : CleRun := { loop := l, outs := outs, blocks := blocks, flags := flags, pids := pids }
  let counts := (List.range 4).map fun k => if k < s.loopByte l 5 then some (s.qualOf (s.loopIn l k) % 65536) else none
  let s := s.setCleLoop l { s.cleLoop l with seen := counts }
  let s := (s.roll (Reg.cleLexec l) 31 0 1).setFlag (Reg.cleLstate l) 30 false
  let s := (s.setFld (Reg.cleLstate l) 15 0 0).setFlag (Reg.cleLstate l) 28 false
  let w := { w with due := w.due.filter (· != l) }
  if s.loopGroup l = 0xFF then
    let s := s.setSweep (some w)
    let (s, cmds) := s.cleOutputs r 0
    (((s.latchPresentAll cmds).cleSettle r none).cleLoad w).sweepDone
  else
    let s := s.setNum (Reg.cleLout0 l) (unsigned 32 (s.candidate r))
    ((s.setSweep (some { w with runs := w.runs ++ [r] })).tryGroup (s.loopGroup l) false).sweepDone

/-- A due loop reads its inputs: it executes when every NEW input is fresh, else it waits (R386). -/
def State.cleTry (s : State) (l : Nat) : State :=
  match s.cle.sweep with
  | none => s
  | some w =>
    if !w.due.contains l then s
    else if s.loopFresh l then s.cleExecute l w
    else s.setFlag (Reg.cleLstate l) 30 true

/-! ### Deadline (R391) -/

/-- A due loop that has not executed misses. -/
def State.cleMiss (s : State) (l : Nat) : State :=
  let first := if s.loopGroup l = 0xFF then 0 else 1
  let s := ((List.range (s.loopByte l 6)).filter fun i => first ≤ i).foldl (fun s i => s.cleKeep (s.loopOut l i)) s
  let s := ((s.bump (Reg.cleLmiss l) 31 0 1).bump Reg.cleMisses 31 0 1).bump (Reg.cleLstate l) 15 0 1
  let s := ((s.setFlag (Reg.cleLstate l) 30 false).setFlag (Reg.cleLstate l) 28 true).setFlag (Reg.cleMissMap (l / 32)) (l % 32) true
  s.blockEvent 0x0B 0x19 l Act.none 0 l

def State.cleDeadline (s : State) : State :=
  match s.cle.sweep with
  | none => s
  | some w =>
    let s := w.due.foldl State.cleMiss s
    let s := if w.due.isEmpty then s else s.raise 224
    let s := w.groups.foldl (fun s g => s.tryGroup g true) s
    (if w.due.isEmpty && w.groups.isEmpty then s else s.cleLoad w).setSweep none

/-! ### Tuning (R401, R402) -/

def Tune.notDefined : Nat := 1
def Tune.fixed : Nat := 2
def Tune.range : Nat := 3
def Tune.limits : Nat := 4

/-- The staged values of an initiator. -/
def State.staged (s : State) (id : Nat) : CleTune :=
  let r := fun off => s.reg (bankOf id off)
  let sel := r Reg.cleTsel
  { who := id, loop := field sel 15 8, block := field sel 2 0,
    k := (List.range 5).map fun i => signed 32 (r (Reg.cleTk i)).toNat,
    s := ((List.range 4).map fun i => signed 6 (field (r Reg.cleTsh0) (8 * i + 5) (8 * i))) ++ [signed 6 (field (r Reg.cleTsh1) 5 0)],
    lo := signed 32 (r Reg.cleTlo).toNat, hi := signed 32 (r Reg.cleThi).toNat }

/-- R402: why an APPLY is refused, 0 when it is not. -/
def State.tuneResult (s : State) (t : CleTune) : Nat :=
  if s.loopBlocks t.loop ≤ t.block then Tune.notDefined
  else
    let d := s.blockDef t.loop t.block
    if s.loopFixed t.loop then Tune.fixed
    else if (t.s.any fun x => x < -31) || (d.type == 8 && t.s.getD 4 0 != 0) then Tune.range
    else if t.hi < t.lo ∨ (d.type = 4 ∧ (0 < t.lo ∨ t.hi < 0)) ∨ (usesLimits d.type = false ∧ (t.lo ≠ 0 ∨ t.hi ≠ 0)) then Tune.limits
    else 0

/-- R401: one waiting APPLY takes effect, in one step. -/
def State.takeTune (s : State) (t : CleTune) : State :=
  let s := s.setNum (bankOf t.who Reg.cleTstat) 0
  let k := s.cleLoop t.loop
  let bs := (k.blocks.zipIdx).map fun q => if q.2 = t.block then { q.1 with k := t.k, s := t.s, lo := t.lo, hi := t.hi } else q.1
  (s.setCleLoop t.loop { k with blocks := bs }).raise 226
def State.takeTunes (s : State) : State :=
  if s.cle.sweep.isSome then s else s.cle.tunes.foldl State.takeTune { s with cle := { s.cle with tunes := [] } }

/-- LOAD: the block's running values go to the writer's staging. -/
def State.tuneLoadNow (s : State) (id : Nat) : State :=
  let t := s.staged id
  if s.loopBlocks t.loop ≤ t.block then s.setFld (bankOf id Reg.cleTstat) 2 0 Tune.notDefined
  else
    let q := (s.cleLoop t.loop).blocks.getD t.block default
    let s := (List.range 5).foldl (fun s i => s.setNum (bankOf id (Reg.cleTk i)) (unsigned 32 (q.kOf i))) s
    let sh := (List.range 4).foldl (fun n i => n + unsigned 6 (q.sOf i) * 2 ^ (8 * i)) 0
    let s := (s.setNum (bankOf id Reg.cleTsh0) sh).setNum (bankOf id Reg.cleTsh1) (unsigned 6 (q.sOf 4))
    let s := (s.setNum (bankOf id Reg.cleTlo) (unsigned 32 q.lo)).setNum (bankOf id Reg.cleThi) (unsigned 32 q.hi)
    s.setFld (bankOf id Reg.cleTstat) 2 0 0

/-- APPLY: the staged values wait for an instant without a sweep, or are refused; a refusal raises source 227. -/
def State.tuneApplyNow (s : State) (id : Nat) : State :=
  let t := s.staged id
  let c := s.tuneResult t
  if c ≠ 0 then (s.setFld (bankOf id Reg.cleTstat) 2 0 c).raise 227
  else { s.setNum (bankOf id Reg.cleTstat) (2 ^ 31) with cle := { s.cle with tunes := s.cle.tunes.filter (·.who != id) ++ [t] } }

/-- A write of CLE.TGO with the right KEY (R401, 09 registers). -/
def State.tuneGo (s : State) (id : Nat) (v : Word) : State :=
  if field v 31 16 ≠ 0x544E then s
  else
    let s := if bit v.toNat 0 then s.tuneLoadNow id else s
    if bit v.toNat 1 then s.tuneApplyNow id else s

/-! ### Commands -/

/-- R384 to R386: a sweep starts; the due loops take their inputs in ascending number. A sweep whose deadline was not met
before is over by now (R383), and a waiting APPLY has taken effect (R401). -/
def State.startSweep (s : State) (target : Nat) : State :=
  let s := s.cleDeadline.takeTunes
  let n := s.num Reg.cleSweeps
  let s := s.setNum Reg.cleSweeps ((n + 1) % 2 ^ 32)
  let due := (List.range s.nloop).filter fun l =>
    s.loopBlocks l != 0 && s.loopEnabled l && n % max 1 (s.loopByte l 2) == s.loopByte l 3
  let groups := (List.range s.ngroup).filter fun g => (s.groupMembers g).any due.contains
  let w : CleSweep := { deadline := target + s.sweepAngle, start := s.chip.up, seasoning := s.spinFlag s.sweepSpindle Spn.seasoning,
                        subst := s.substitute s.sweepSpindle, due := due, members := due, runs := [], groups := groups }
  (due.foldl State.cleTry (s.setSweep (some w))).sweepDone

/-- R387: the waiting loops with this NEW input read again, in ascending number, before the deadline. -/
def execLoopInputWritten (signal : Nat) (s : State) : Reply :=
  let late := match s.cle.sweep with
    | some w => decide (w.deadline ≤ (s.spin s.sweepSpindle).travel)
    | none => true
  if !s.cleRuns || late then .next s
  else
    .next (((List.range s.nloop).filter fun l => s.flag (Reg.cleLstate l) 30 &&
      (List.range (s.loopByte l 5)).any fun i => s.loopIn l i % 2 ^ 14 == signal && bit (s.loopIn l i) 24).foldl State.cleTry s)

/-- R391: TRAVEL reaches the sweep's deadline. -/
def execSweepDeadline (s : State) : Reply :=
  match s.cle.sweep with
  | none => .next s
  | some w =>
    if !s.cleRuns then .next s
    else
      let left := w.deadline - (s.spin s.sweepSpindle).travel
      match s.ticksFor s.sweepSpindle left with
      | none => .next (if left = 0 then s.cleDeadline else s)
      | some k => .next (s.elapse k).cleDeadline

/-- R401, R402. -/
def execTuneApply (who : Who) (value : Word) (s : State) : Reply :=
  .next (s.gated who Reg.cleTgo value fun s => s.tuneGo who.id value)

/-- R401: the waiting APPLYs take effect at an instant without a sweep. -/
def execTuneTake (s : State) : Reply := .next s.takeTunes

/-- R401. -/
def execTuneLoad (who : Who) (value : Word) (s : State) : Reply :=
  .next (s.gated who Reg.cleTgo value fun s => s.tuneGo who.id value)

/-- R405: the miss counters and LOAD are zeroed. -/
def execCleClear (who : Who) (value : Word) (s : State) : Reply :=
  .next (s.gated who Reg.cleClear value fun s =>
    if bit value.toNat 0 then
      (List.range 256).foldl (fun s l => s.setNum (Reg.cleLmiss l) 0) ((s.setNum Reg.cleMisses 0).setNum Reg.cleLoad 0)
    else s)

/-! ### Disabling, gating, takeover -/

/-- A loop disabled in a sweep takes no further part in it; outputs already written stand (09, coincidences). -/
def State.cleDisable (s : State) (l : Nat) : State :=
  match s.cle.sweep with
  | none => s
  | some w =>
    if !w.due.contains l && !(w.runs.any fun r => r.loop == l) then s
    else
      let w := { w with due := w.due.filter (· != l), members := w.members.filter (· != l), runs := w.runs.filter fun r => r.loop != l }
      let s := (s.setSweep (some w)).setFlag (Reg.cleLstate l) 30 false
      ((if s.loopGroup l = 0xFF then s else s.tryGroup (s.loopGroup l) false)).sweepDone

/-- A write of CLE.LEN: a bit that it sets makes a first execution next (R398); one it clears disables its loop. -/
def State.cleWriteLen (s : State) (i : Nat) (v : Word) : State :=
  let old := s.reg (Reg.cleLen i)
  let s := s.setReg (Reg.cleLen i) v
  (List.range 32).foldl (fun s j =>
    if bit v.toNat j && !bit old.toNat j then s.cleFirst (32 * i + j)
    else if bit old.toNat j && !bit v.toNat j then s.cleDisable (32 * i + j)
    else s) s

/-- Entry to STANDBY or SAFE: a sweep in progress ends without writes (R97, R99). -/
def State.cleGate (s : State) : State :=
  (List.range s.nloop).foldl (fun s l => s.setFlag (Reg.cleLstate l) 30 false) (s.setSweep none)

/-- A takeover: sweeps are numbered from 0, each loop makes a first execution, and the COUNT each loop last saw is cleared (R398,
R506). -/
def State.cleTakeover (s : State) : State :=
  (List.range s.nloop).foldl (fun s l => (s.setCleLoop l { s.cleLoop l with seen := [none, none, none, none] }).cleFirst l)
    (s.setNum Reg.cleSweeps 0)

end Sys2Proof.Machine
end

