-- ==== Sys2Proof/Machine/Fus.lean ====
section
/-! DEFINITION. Frames, filters, trackers, records and replays of the fusion unit (10), and its commands. -/
namespace Sys2Proof.Machine

/-! ### Graphs -/

/-- Bytes rounded up to 16: every matrix of the model data is 16-byte aligned (DEDUCED, log entry 38). -/
def up16 (n : Nat) : Nat := (n + 15) / 16 * 16

/-- A, Qc, X0 and P0 of a graph. -/
def State.graphModel (s : State) (g : Nat) : FusModel :=
  let n := s.graphByte g 2
  let m := s.graphWord g 0x18
  let sq := up16 (4 * n * n)
  let b := s.fusBody
  { nx := n, a := Mat.read b m n n, q := Mat.read b (m + sq) n n, x0 := (Mat.read b (m + 2 * sq) 1 n).getD 0 [],
    p0 := Mat.read b (m + 2 * sq + up16 (4 * n)) n n }

/-- A reference of a graph: its place, stream, MAP, H and R. -/
structure FusRef where
  place : Nat
  stream : Nat
  map : List Nat
  h : Mat
  r : Mat
  deriving DecidableEq, Repr

def State.graphRef (s : State) (g k : Nat) : FusRef :=
  let o := s.refEntry (s.graphHalf g 0x1C + k)
  let b := s.fusBody
  let map := bitsOf (u8 b (o + 1)) 4
  let n := s.graphByte g 2
  let m := u32 b (o + 4)
  { place := k, stream := u8 b o, map := map, h := Mat.read b m map.length n,
    r := Mat.read b (m + up16 (4 * map.length * n)) map.length map.length }
def State.graphRefs (s : State) (g : Nat) : List FusRef := (List.range (min 8 (s.graphByte g 3))).map (s.graphRef g)

/-- G of a graph: FUS.GATE times its scale in sixteenths (R246). -/
def State.gateOf (s : State) (g : Nat) : Fp :=
  D.div (D.mul (f32.decode (s.num (Reg.fusGate g))) (D.ofNat (16 + s.adp.gates.get g))) (D.ofNat 16)

/-- A usable sample of a reference in a frame: z and R′ (R419) from its record in the ring. -/
structure FusItem where
  place : Nat
  stream : Nat
  rseq : Nat
  atime : Nat
  h : Mat
  z : List Fp
  r : Mat
  qual : Nat
  seasoning : Bool
  deriving DecidableEq, Repr

def State.fusItem (s : State) (k : FusRef) (x : FusSample) : FusItem :=
  let a := s.ringAddr k.stream x.rseq
  let vals := s.bytes (a + 0x20) 16
  let vars := s.bytes (a + 0x30) 16
  let r := (List.range k.map.length).map fun i => (List.range k.map.length).map fun j =>
    let v := f32.decode (u32 vars (4 * k.map.getD i 0))
    if i = j ∧ v.isZero = false then v else (k.r.getD i []).getD j D.zero
  { place := k.place, stream := k.stream, rseq := x.rseq, atime := x.atime, h := k.h,
    z := k.map.map fun i => f32.decode (u32 vals (4 * i)), r := r, qual := s.mem16 (a + 2), seasoning := x.seasoning }

/-- The order of R420: aligned time, stream, RSEQ. -/
def FusItem.before (a b : FusItem) : Bool :=
  a.atime < b.atime || (a.atime == b.atime && (a.stream < b.stream || (a.stream == b.stream && a.rseq < b.rseq)))
def insertItem (x : FusItem) : List FusItem → List FusItem
  | [] => [x]
  | y :: r => if x.before y then x :: y :: r else y :: insertItem x r

/-- The usable samples of a frame in the order of R420: of streams not DROPPED, not excluded, with aligned time in the frame. -/
def State.frameItems (s : State) (g : Nat) (f : FusFrame) : List FusItem :=
  ((s.graphRefs g).flatMap fun k =>
    if s.streamFlag k.stream Fus.dropped then []
    else
      ((s.stream k.stream).samples.filter fun x => !x.excluded && decide (f.prev < x.atime) && decide (x.atime ≤ f.tov)).map
        (s.fusItem k)).foldl (fun l x => insertItem x l) []

/-- The latest sample of a reference. -/
def latestOf (items : List FusItem) (place : Nat) : Option FusItem := (items.filter fun x => x.place == place).getLast?

/-! ### Voting (R421, R424) -/

/-- What a frame decides: the latest samples of the accepted references, and CONFLICT and SINGLE_SOURCE. -/
structure Vote where
  accepted : List FusItem
  conflict : Bool
  single : Bool
  deriving DecidableEq, Repr

/-- The majority around the component-wise median. -/
def medianVote (g : Fp) (items : List FusItem) : Vote :=
  let m := componentwise median (items.map fun x => x.z)
  let a := items.filter fun x => (Mat.quad (Mat.inverse x.r) (Mat.minus x.z m)).le g
  if items.length < 2 * a.length then { accepted := a, conflict := false, single := false }
  else { accepted := [], conflict := true, single := false }

/-- R424: against an infinite prior. -/
def firstVote (g : Fp) (items : List FusItem) : Vote :=
  if items.length = 0 then { accepted := [], conflict := false, single := false }
  else if items.length = 1 then { accepted := items, conflict := false, single := true }
  else medianVote g items

/-- R421, on the latest samples of the present references. -/
def FusModel.vote (m : FusModel) (g : Fp) (t : FusFilter) (items : List FusItem) : Vote :=
  let near := fun (x : FusItem) =>
    let (v, p) := m.predict t.x t.p ((x.atime : Int) - t.time)
    (nis x.h x.r m.nx v p x.z).le g
  match items with
  | [] => { accepted := [], conflict := false, single := false }
  | [x] => { accepted := if near x then [x] else [], conflict := false, single := true }
  | [x, y] =>
    if (Mat.quad (Mat.inverse (Mat.add x.r y.r)) (Mat.minus x.z y.z)).le g then { accepted := items, conflict := false, single := false }
    else { accepted := [], conflict := true, single := false }
  | _ =>
    let a := items.filter near
    if items.length < 2 * a.length then { accepted := a, conflict := false, single := false } else medianVote g items

/-! ### A frame -/

/-- What a frame gives: the state after it, its code, X and COV, its flags, the streams applied and rejected, the aligned times applied,
whether what was applied carries SEASONING or SPINDLE_SUBSTITUTE, and a tracker's births, confirmations and deletions. -/
structure FrameResult where
  after : FusFilter
  code : Nat
  x : List Byte
  cov : List Byte
  flags : Nat
  contrib : Nat
  reject : Nat
  applied : List Nat
  seasoning : Bool
  subst : Bool
  events : Bool
  nis : List Fp
  deriving DecidableEq, Repr

def Fus.noState : Nat := 0x0150
def Fus.diverged : Nat := 0x0151

def fpBytes (v : Fp) : List Byte := leBytes 4 (f32.encode (Fp.convert f32 v))
/-- The upper triangle of P, row by row. -/
def triangle (p : Mat) : List Fp := (List.range p.length).flatMap fun i => (p.getD i []).drop i

def streamMask (xs : List Nat) : Nat := xs.foldl (fun m i => setBit m i) 0

/-- Samples applied one after the other (R422). -/
def FusModel.applyAll (m : FusModel) : List FusItem → FusFilter → FusFilter
  | [], t => t
  | i :: r, t =>
    let (x, p) := m.predict t.x t.p ((i.atime : Int) - t.time)
    let (x, p) := m.update i.h i.r x p i.z
    m.applyAll r { t with x := x, p := p, time := i.atime }

/-- The state predicted to TOV. -/
def FusModel.toTov (m : FusModel) (t : FusFilter) (tov : Nat) : FusFilter :=
  let (x, p) := m.predict t.x t.p ((tov : Int) - t.time)
  { t with x := x, p := p, time := tov }

/-- R423, R424: a new state from a measurement at a time. -/
def FusModel.initialise (m : FusModel) (t : FusFilter) (h : Mat) (z : List Fp) (time : Nat) : FusFilter :=
  { t with has := true, time := time, x := m.start h z, p := m.p0, rejects := 0, frames := 0, grown := false }

/-- R425: the graph is still seasoning. -/
def State.graphSeasons (s : State) (g : Nat) (t : FusFilter) : Bool :=
  t.has && !t.grown && decide (t.frames < s.graphHalf g 0xA)

/-- Every diagonal element of P is at most SEASON_VAR. -/
def State.pSmall (s : State) (g : Nat) (p : Mat) : Bool :=
  (List.range p.length).all fun i => ((p.getD i []).getD i D.zero).le (s.graphFp g 0xC)

/-- Bits of FLAGS. -/
def Ff.conflict : Nat := 2 ^ 6
def Ff.single : Nat := 2 ^ 7
def Ff.outlier : Nat := 2 ^ 8
def Ff.predicted : Nat := 2 ^ 9
def Ff.waitExpired : Nat := 2 ^ 10
def Ff.reinit : Nat := 2 ^ 11

/-- A FILTER graph's frame (R421 to R426). -/
def State.fuseFilter (s : State) (g : Nat) (f : FusFrame) (t : FusFilter) : FrameResult :=
  let m := s.graphModel g
  let items := s.frameItems g f
  let refs := s.graphRefs g
  let latest := refs.filterMap fun k => latestOf items k.place
  let again := if t.has ∧ s.graphByte g 0x14 ≤ t.rejects then latest.find? fun x => x.stream == t.source else none
  let gate := s.gateOf g
  let vote : Vote := match again with
    | some x => { accepted := [x], conflict := false, single := latest.length == 1 }
    | none => if t.has then m.vote gate t latest else firstVote gate latest
  let places := vote.accepted.map fun x => x.place
  let starts := again.isSome || (!t.has && !vote.accepted.isEmpty)
  let applied := if starts then vote.accepted else items.filter fun x => places.contains x.place
  let newest := applied.foldl (fun n x => max n x.atime) 0
  let t1 := match starts, vote.accepted with
    | true, x :: _ => m.initialise t x.h (componentwise meanFp (vote.accepted.map fun x => x.z)) newest
    | _, _ => if t.has then m.applyAll applied t else t
  let t1 := if t1.has then m.toTov t1 f.tov else t1
  let t1 := { t1 with newest := if applied.isEmpty then t1.newest else some (max newest (t1.newest.getD 0)) }
  let rejected := vote.single && vote.accepted.isEmpty
  let t1 := match latest with
    | x :: _ => if rejected then { t1 with rejects := if x.stream = t1.source then min 255 (t1.rejects + 1) else 1, source := x.stream }
                else if s.graphByte g 0x14 ≤ t1.rejects then t1 else { t1 with rejects := 0 }
    | [] => if s.graphByte g 0x14 ≤ t1.rejects then t1 else { t1 with rejects := 0 }
  let bad := t1.has && diverged t1.x t1.p
  let code := if bad then Fus.diverged else if t1.has then 0 else Fus.noState
  let outlier := !vote.accepted.isEmpty && latest.any fun x => !places.contains x.place
  let flags := (if vote.conflict then Ff.conflict else 0) + (if vote.single then Ff.single else 0) +
    (if outlier then Ff.outlier else 0) + (if t.has && applied.isEmpty then Ff.predicted else 0) + (if again.isSome then Ff.reinit else 0)
  let t1 := { t1 with grown := t1.grown || (t1.has && s.pSmall g t1.p) }
  { after := if bad then { (default : FusFilter) with newest := t1.newest } else t1, code := code,
    x := if code = 0 then slice (t1.x.flatMap fpBytes) 0 32 else List.replicate 32 0#8,
    cov := if code = 0 then slice ((triangle t1.p).flatMap fpBytes) 0 144 else List.replicate 144 0#8,
    flags := flags, contrib := streamMask (applied.map fun x => x.stream),
    reject := streamMask ((latest.filter fun x => !places.contains x.place).map fun x => x.stream),
    applied := applied.map fun x => x.atime, seasoning := applied.any fun x => x.seasoning || bit x.qual 0,
    subst := applied.any fun x => bit x.qual 1, events := false,
    nis := if t.has then latest.map fun x =>
        let (v, p) := m.predict t.x t.p ((x.atime : Int) - t.time)
        D.div (nis x.h x.r m.nx v p x.z) (D.ofNat (max 1 x.z.length))
      else [] }

/-! ### Trackers (R432 to R435) -/

/-- The lowest NIS not above the gate among tracks and detections that may still pair: track, detection. -/
def bestPair (cands : List (Fp × Nat × FusItem)) (gate : Fp) (usedItems : List FusItem) (usedRefs : List (Nat × Nat)) :
    Option (Nat × FusItem) :=
  (cands.foldl (fun (best : Option (Fp × Nat × FusItem)) c =>
    if !c.1.le gate || usedItems.contains c.2.2 || usedRefs.contains (c.2.1, c.2.2.place) then best
    else match best with
      | none => some c
      | some b => if c.1.lt b.1 then some c else best) none).map fun b => b.2

/-- R432: pairs of track and detection. -/
def pairAll (cands : List (Fp × Nat × FusItem)) (gate : Fp) : Nat → List (Nat × FusItem) → List (Nat × FusItem)
  | 0, ps => ps
  | fuel + 1, ps =>
    match bestPair cands gate (ps.map fun p => p.2) (ps.map fun p => (p.1, p.2.place)) with
    | none => ps
    | some p => pairAll cands gate fuel (ps ++ [p])

def FusTrack.filter (t : FusTrack) (time : Nat) : FusFilter := { (default : FusFilter) with has := true, x := t.x, p := t.p, time := time }

/-- An estimate lies in the region of interest. -/
def State.inRoi (s : State) (g : Nat) (x : List Fp) : Bool :=
  let a := x.getD 0 D.zero
  let b := x.getD 1 D.zero
  (s.graphFp g 0x28).le a && a.le (s.graphFp g 0x2C) && (s.graphFp g 0x30).le b && b.le (s.graphFp g 0x34)

/-- The next ID from `n` on that no track uses. -/
def freeId (tracks : List FusTrack) : Nat → Nat → Nat
  | 0, n => n % 65536
  | fuel + 1, n => if tracks.any fun t => t.id == n % 65536 then freeId tracks fuel (n + 1) else n % 65536

/-- The lowest free place of the track table. -/
def freePlace (tracks : List FusTrack) : Nat :=
  ((List.range 256).find? fun k => !(tracks.any fun t => t.place == k)).getD 255

/-- R433: a birth, or a lost one. -/
def State.birth (s : State) (g : Nat) (m : FusModel) (tov : Nat) (t : FusFilter) (x : FusItem) : FusFilter :=
  let v := m.start x.h x.z
  if !s.inRoi g v then t
  else if s.graphByte g 0x27 + 1 ≤ t.tracks.length then { t with lost := (t.lost + 1) % 65536 }
  else
    let (v, p) := m.predict v m.p0 ((tov : Int) - x.atime)
    let id := freeId t.tracks 257 t.nextId
    let k : FusTrack := { place := freePlace t.tracks, id := id, confirmed := false, misses := 0, hits := 1, born := tov, age := 0,
                          x := v, p := p }
    { t with tracks := t.tracks ++ [k], nextId := (id + 1) % 65536, births := (t.births + 1) % 65536 }

/-- R434: a track after a frame: confirmed, kept, or deleted (`none`). -/
def State.judgeTrack (s : State) (g : Nat) (k : FusTrack) : Option FusTrack :=
  let m := s.graphByte g 0x24
  let n := s.graphByte g 0x25
  let hits := (bitsOf k.hits n).length
  let k := { k with confirmed := k.confirmed || decide (m ≤ hits) }
  if k.confirmed then (if s.graphByte g 0x26 ≤ k.misses || !s.inRoi g k.x then none else some k)
  else if n ≤ k.age + 1 then none else some k

/-- A TRACKER graph's frame. -/
def State.fuseTracker (s : State) (g : Nat) (f : FusFrame) (t : FusFilter) : FrameResult :=
  let m := s.graphModel g
  let items := s.frameItems g f
  let gate := s.gateOf g
  let cands := t.tracks.flatMap fun k => items.map fun x =>
    let (v, p) := m.predict k.x k.p ((x.atime : Int) - t.time)
    (nis x.h x.r m.nx v p x.z, k.place, x)
  let pairs := pairAll cands gate items.length []
  let tracks := t.tracks.map fun k =>
    let mine := (pairs.filter fun p => p.1 == k.place).foldl (fun l p => insertItem p.2 l) []
    let u := m.toTov (m.applyAll mine (k.filter t.time)) f.tov
    let hit := !mine.isEmpty
    { k with x := u.x, p := u.p, hits := (2 * k.hits + ofBool hit) % 256, misses := if hit then 0 else min 255 (k.misses + 1), age := k.age + 1 }
  let loose := items.filter fun x => !(pairs.any fun p => p.2 == x)
  let t1 := loose.foldl (s.birth g m f.tov) { t with tracks := tracks }
  let born := t1.tracks.length - tracks.length
  let kept := t1.tracks.filterMap (s.judgeTrack g)
  let deleted := t1.tracks.length - kept.length
  let newly := (kept.filter fun k => k.confirmed && !(t.tracks.any fun j => j.place == k.place && j.id == k.id && j.confirmed)).length
  let applied := (pairs.map fun p => p.2) ++ loose.filter fun x => s.inRoi g (m.start x.h x.z)
  let t2 := { t1 with tracks := kept, deletes := (t1.deletes + deleted) % 65536, time := f.tov, has := t.has || !applied.isEmpty,
                      newest := if applied.isEmpty then t.newest else some (applied.foldl (fun (n : Nat) (x : FusItem) => max n x.atime) (t.newest.getD 0)) }
  let bad := kept.any fun k => diverged k.x k.p
  let code := if bad then Fus.diverged else if t2.has then 0 else Fus.noState
  let streams := applied.map fun x => x.stream
  let t2 := { t2 with grown := t2.grown || (t2.has && kept.all fun k => s.pSmall g k.p) }
  { after := if bad then { (default : FusFilter) with newest := t2.newest } else t2, code := code,
    x := if code = 0 then slice (leBytes 2 kept.length ++ leBytes 2 (kept.filter fun k => k.confirmed).length ++ leBytes 2 t2.births ++
      leBytes 2 t2.deletes ++ leBytes 2 t2.lost) 0 32 else List.replicate 32 0#8,
    cov := List.replicate 144 0#8, flags := if t.has && applied.isEmpty then Ff.predicted else 0,
    contrib := streamMask streams,
    reject := streamMask ((items.filter fun x => !streams.contains x.stream).map fun x => x.stream),
    applied := applied.map fun x => x.atime, seasoning := applied.any fun x => x.seasoning || bit x.qual 0,
    subst := applied.any fun x => bit x.qual 1, events := decide (0 < born + deleted + newly),
    nis := pairs.filterMap fun p => (cands.find? fun c => c.2.1 == p.1 && c.2.2 == p.2).map fun c => D.div c.1 (D.ofNat (max 1 p.2.z.length)) }

def State.fuse (s : State) (g : Nat) (f : FusFrame) (t : FusFilter) : FrameResult :=
  if s.tracker g then s.fuseTracker g f t else s.fuseFilter g f t

/-- R435: the track table. -/
def FusTrack.bytes (k : FusTrack) : List Byte :=
  leBytes 2 k.id ++ leBytes 1 (if k.confirmed then 2 else 1) ++ leBytes 1 k.misses ++ leBytes 1 k.hits ++ leBytes 3 0 ++
    leBytes 8 (stampWord k.born) ++ slice ((k.x.take 4).flatMap fpBytes) 0 16 ++
    slice (((List.range (min 4 k.p.length)).map fun i => (k.p.getD i []).getD i D.zero).flatMap fpBytes) 0 16 ++ List.replicate 16 0#8
def State.writeTracks (s : State) (g : Nat) (t : FusFilter) : State :=
  let table := u64 s.fusBody (s.graphEntry g + 0x38) % 2 ^ 40
  s.dmaWrite (engineWho Init.fusion) table ((List.range 256).flatMap fun k => match t.tracks.find? fun x => x.place == k with
    | some x => x.bytes
    | none => List.replicate 64 0#8)

/-! ### Records (R431, R436 to R438) -/

/-- AGE in µs: from the oldest applied aligned time, or from the newest ever applied; with none ever, a free value (log entry 10). -/
def State.recordAge (s : State) (f : FusFrame) (r : FrameResult) : State × Nat :=
  let since := fun (t : Nat) => min 0xFFFFFFFF ((f.tov - t) / 1000)
  match r.applied with
  | t :: ts => (s, since (ts.foldl min t))
  | [] => match r.after.newest with
    | some t => (s, since t)
    | none => let (s, w) := s.free; (s, w.toNat)

/-- The 240 bytes of a record, 0x10 to 0xFF, and its FLAGS. X and COV of a DIVERGED record are free values (log entry 10). -/
def State.recordBody (s : State) (g rev : Nat) (f : FusFrame) (r : FrameResult) (expired : Bool) :
    State × List Byte × Nat :=
  let (s, age) := s.recordAge f r
  let (s, data) := if r.code = Fus.diverged then freeBytes 44 s else (s, r.x ++ r.cov)
  let streams := s.graphStreams g
  let seasoning := s.graphSeasons g r.after || r.seasoning || s.flag Reg.timStatus 4 || s.spinFlag (s.graphByte g 4) Spn.seasoning
  let stale := bit r.flags 9 || decide (s.graphByte g 9 * (f.tov - f.prev) < 1000 * age)
  let flags := r.flags + ofBool seasoning + 2 * ofBool (f.subst || r.subst) + 4 * ofBool stale + 8 * ofBool (rev != 0) +
    16 * ofBool (streams.any fun i => s.streamFlag i Fus.unaligned) + 32 * ofBool (streams.any fun i => s.streamFlag i Fus.dropped) +
    (if expired then Ff.waitExpired else 0)
  (s, leBytes 1 g ++ leBytes 1 rev ++ leBytes 1 (if s.tracker g then 0 else s.graphByte g 2) ++ leBytes 1 0 ++ leBytes 4 flags ++
    leBytes 8 (stampWord f.tov) ++ leBytes 4 age ++ leBytes 4 f.number ++ leBytes 8 r.contrib ++ leBytes 8 r.reject ++ data ++
    leBytes 2 (u16 s.fusBody 4) ++ List.replicate 22 0#8, flags)

/-- R431: a record goes into its graph's revision channel. -/
def State.revise (s : State) (g : Nat) (body : List Byte) : State :=
  let c := s.graphByte g 0x15
  let rvn := fun c => u16 s.senseStruct (0x10 + 2 * c)
  if 4 ≤ c ∨ rvn c = 0 then s
  else
    let q := s.fus.numbers.get c
    let base := Addr.stock + u32 s.senseStruct 0xC + 256 * ((List.range c).foldl (fun n k => n + rvn k) 0)
    let s := s.dmaWrite (engineWho Init.fusion) (base + 256 * (q % rvn c)) (leBytes 4 q ++ leBytes 12 0 ++ body)
    { s with fus := { s.fus with numbers := s.fus.numbers.set c ((q + 1) % 2 ^ 32) } }.setNum (Reg.fusRvwr c) q

/-- R438. -/
def State.sendRecord (s : State) (g : Nat) (body : List Byte) : State :=
  if bit (s.graphByte g 0x16) 0 then
    let w := s.graphWord g 0x20
    s.milOriginate (w / 2 ^ 19 % 2) (w / 2 ^ 16 % 8) (w % 2 ^ 14) false body
  else s

/-- GSTATE after a frame. -/
def State.showGraph (s : State) (g : Nat) (f : FusFrame) (t : FusFilter) (flags : Nat) : State :=
  let r := Reg.fusGstate g
  s.setReg r (BitVec.ofNat 32 (ofBool t.has * 2 ^ 31 + ofBool (!t.has || s.graphSeasons g t) * 2 ^ 30 + ofBool f.subst * 2 ^ 29 +
    ofBool (bit flags 6) * 2 ^ 28 + ofBool (bit flags 7) * 2 ^ 27 + ofBool (bit flags 9) * 2 ^ 26 +
    ofBool (s.graph g).replay.isSome * 2 ^ 25 + min 255 t.rejects * 2 ^ 16 + min 65535 t.frames))

/-- The samples of a frame have been used by the graph. -/
def State.useSamples (s : State) (g : Nat) (f : FusFrame) : State :=
  (s.graphStreams g).foldl (fun s i =>
    let t := s.stream i
    s.setStream i { t with samples := t.samples.map fun x => if x.atime ≤ f.tov then { x with used := setBit x.used g } else x }) s

/-- Frames issued since initialisation. -/
def FusFilter.counted (t : FusFilter) : FusFilter := if t.has then { t with frames := min 65535 (t.frames + 1) } else t

/-- What a frame's flags report: CONFLICT and OUTLIER with a detector event (R668), REINIT, and a tracker's changes. -/
def State.reportFrame (s : State) (g : Nat) (r : FrameResult) : State :=
  let s := if bit r.flags 6 then s.raise 322 else s
  let s := if bit r.flags 8 then s.raise 323 else s
  let s := if bit r.flags 6 || bit r.flags 8 then s.blockEvent 0x11 0x20 g Act.none 0 g else s
  let s := if bit r.flags 11 then s.raise 329 else s
  if r.events && bit (s.graphByte g 0x16) 1 then s.raise 328 else s

/-- The first issue of a frame (R415, R430, R436, R437). -/
def State.issue (s : State) (g : Nat) (f : FusFrame) (expired : Bool) : State :=
  let t := (s.graph g).cur
  let r := s.fuse g f t
  let s := (s.reportFrame g r).observeGate g r.nis
  let s := if s.tracker g then s.writeTracks g r.after else s
  let (s, body, flags) := s.recordBody g 0 f r expired
  let after := r.after.counted
  let k := s.graph g
  let s := (s.setGraph g { k with cur := after, waiting := k.waiting.drop 1, issued := ({ frame := f, rev := 0, before := t } :: k.issued).take 8,
                                  done := some (max f.tov (k.done.getD 0)) }).useSamples g f
  let s := s.showGraph g f after flags
  let s := s.post (Init.fusion + g % max 1 s.variant.fusion) (Addr.stock + u32 s.senseStruct 8 + 256 * g) r.code (r.code != 0) (bit flags 0) (bit flags 2) body
  let s := (s.revise g body).sendRecord g body
  let s := s.offerEvent 2 g
  if bit (s.graphByte g 0x16) 1 then s.raise 320 else s

/-! ### Fuse instants (R415, R416) -/

/-- A stream is complete for a frame (10, "Frames and waiting"). -/
def State.complete (s : State) (i : Nat) (f : FusFrame) : Bool :=
  s.streamFlag i Fus.dropped || s.streamExcluded i ||
    ((s.stream i).samples.any fun x => decide (f.tov < x.atime)) ||
    match (s.stream i).samples.getLast? with
    | some x => decide (f.tov < x.atime + s.streamWord i 0x1C)
    | none => false
def State.frameComplete (s : State) (g : Nat) (f : FusFrame) : Bool := (s.graphStreams g).all fun i => s.complete i f

/-- Its engine runs a graph. -/
def State.graphRuns (s : State) (g : Nat) : Bool :=
  s.fusRuns && decide (g < s.ngraph) && s.flag Reg.fusStatus (30 + s.fld (Reg.fusGcfg g) 29 28)

/-- ns of one revolution of a spindle at its present rate. -/
def State.revolution (s : State) (n : Nat) : Nat := 65536000000000 / max 1 (s.sourceRate n)

/-- A frame opens for a graph at the firing just served; the first one is taken as one revolution long (DESIGN CHOICE, log entry 39). -/
def State.openFrame (s : State) (g : Nat) : State :=
  let n := s.graphByte g 4
  let k := s.graph g
  let tov := s.spn.fired.time
  let prev := match k.last with
    | some p => p
    | none => tov - s.revolution n
  let f : FusFrame := { tov := tov, prev := prev, number := s.spn.fired.target / 2 ^ 32 % 2 ^ 32, subst := s.substitute n }
  s.setGraph g { k with waiting := k.waiting ++ [f], last := some tov, period := tov - prev }

/-- R415: a frame comparator fires: frame k opens for every graph on it, and the streams' models age. -/
def execFrameFire (spindle cmp : Nat) (s : State) : Reply :=
  match s.firing Consumer.fus spindle cmp with
  | none => .next s
  | some (s, _) =>
    if s.fusRuns then
      let s := ((List.range s.ngraph).filter fun g => s.graphByte g 4 == spindle && s.graphByte g 5 == cmp).foldl State.openFrame s
      .next ((List.range s.nstream).foldl State.showStream s)
    else .next s

/-- R415: the oldest waiting frame of a graph is fused once every stream is complete for it. -/
def execFrameFuse (graph : Nat) (s : State) : Reply :=
  let g := graph % 64
  match (s.graph g).waiting with
  | [] => .next s
  | f :: _ => if s.graphRuns g && s.frameComplete g f then .next (s.issue g f false) else .next s

/-- R415: WAIT × frame / 256 after TOV the oldest waiting frame is fused with WAIT_EXPIRED; time passes up to then. -/
def execWaitExpired (graph : Nat) (s : State) : Reply :=
  let g := graph % 64
  match (s.graph g).waiting with
  | [] => .next s
  | f :: _ =>
    if s.graphRuns g && !s.frameComplete g f then
      let due := f.tov + s.fld (Reg.fusWait g) 11 0 * (f.tov - f.prev) / 256
      .next ((s.elapse ((due * 2 ^ 32 - s.time.units + s.incr - 1) / s.incr)).issue g f true)
    else .next s

/-! ### Replay (R427, R429, R430) -/

/-- Frames revised one after the other, oldest first: the state after them, and the issued frames, newest first. -/
def State.replayFrames (s : State) (g : Nat) : List FusIssued → FusFilter → List FusIssued → State × FusFilter × List FusIssued
  | [], t, done => (s, t, done)
  | e :: rest, t, done =>
    let r := s.fuse g e.frame t
    let rev := min 255 (e.rev + 1)
    let (s, body, flags) := s.recordBody g rev e.frame r false
    let after := r.after.counted
    let s := ((s.useSamples g e.frame).showGraph g e.frame after flags)
    let s := (((s.reportFrame g r).revise g body).sendRecord g body).raise 321
    s.replayFrames g rest after ({ frame := e.frame, rev := rev, before := t } :: done)

/-- R427: the frames from the marked one to the newest issued are replayed from the state stored before it. -/
def execReplay (graph : Nat) (s : State) : Reply :=
  let g := graph % 64
  let k := s.graph g
  match k.replay with
  | none => .next s
  | some from_ =>
    if !s.graphRuns g then .next s
    else
      let redo := k.issued.filter fun e => from_ ≤ e.frame.tov
      match redo.getLast? with
      | none => .next ((s.setGraph g { k with replay := none }).setFlag (Reg.fusGstate g) 25 false)
      | some first =>
        let s := s.setGraph g { k with replay := none }
        let (s, t, done) := s.replayFrames g redo.reverse first.before []
        .next (s.setGraph g { s.graph g with cur := t, issued := done ++ (s.graph g).issued.drop redo.length })

/-! ### Other commands -/

/-- R406: a CAN frame, a datagram or a packet, or a MET quantity, is offered to the streams; `arrival` is its stamp. -/
def execSampleIntake (input : SampleInput) (arrival : Nat) (payload : List Byte) (s : State) : Reply :=
  .next (match input with
    | .can k id => s.fusCan k id arrival payload
    | .eth port udp => s.fusEth port udp arrival payload
    | .milio port vc => s.fusMilio port vc arrival payload
    | .met q qual => s.fusMet q arrival qual payload)

/-- R407: a HOST sample record is copied from Stock, or the push is refused; a record that cannot be read ends the write in
UNCORRECTABLE (R35; log entry 146). -/
def State.push (s : State) (w : Who) (value : Word) : Except Nat State :=
  let a := Addr.stock + field value 23 6 * 64
  let i := u8 (s.bytes a 64) 0
  let stat := bankOf w.id Reg.fusPushstat
  if (s.badWordIn a 64).isSome then .error Code.uncorrectable
  else if s.memAbsent a || s.streamKind i != Kind.host then .ok (s.setNum stat (2 ^ 31 + 2 ^ 30 + 1 * 2 ^ 24))
  else if s.streamByte i 3 ≠ w.id then .ok (s.setNum stat (2 ^ 31 + 2 ^ 30 + 2 * 2 ^ 24))
  else
    let b := s.bytes a 64
    .ok ((s.takeSample i s.now (u64 b 8) (u8 b 1) (u16 b 2) (slice b 0x20 16) (slice b 0x30 16)).setNum stat (2 ^ 31))

def execFusPush (who : Who) (value : Word) (s : State) : Reply :=
  .next (s.gatedOr who Reg.fusPush value fun s => if s.fusRuns then s.push who value else .ok s)

/-- R413: DROPOUT frames without a sample; time passes up to then. -/
def execStreamDropped (stream : Nat) (s : State) : Reply :=
  let i := stream % 64
  if s.fusRuns ∧ s.streamKind i ≠ 0 ∧ s.streamFrame i ≠ 0 ∧ s.streamFlag i Fus.dropped = false then
    let s := s.elapse (s.ticksUntil ((s.stream i).last + s.fld Reg.fusDropout 7 0 * s.streamFrame i * 2 ^ 32))
    .next (((s.setFlag (Reg.fusSstate i) Fus.dropped true).clearModel i).raise 324)
  else .next s

/-- R668 and 10, "Coincidences": an engine halts; its graphs move to the other engine, or the event goes to the Sense region. -/
def execFusionEngineHalt (engine : Nat) (s : State) : Reply :=
  let e := engine % 2
  if s.variant.hasFus ∧ e < s.variant.fusion ∧ s.flag Reg.fusStatus (30 + e) = true ∧ s.fenced Region.sense = false then
    let s := s.setFlag Reg.fusStatus (30 + e) false
    let mine := (List.range s.ngraph).filter fun g => s.fld (Reg.fusGcfg g) 29 28 == e
    let moves := fun g => s.graphByte g 1 % 4 == 3 && s.flag Reg.fusStatus (31 - e)
    let s1 := (mine.filter moves).foldl (fun s g => s.setFld (Reg.fusGcfg g) 29 28 (1 - e)) s
    let s1 := if mine.any moves then s1.raise 330 else s1
    let (s1, t) := s1.detect { det := 0x12, level := 2, loc := location 2 (0x8C + e) 0, action := Act.replaced, detail := e }
    .next (if mine.all moves then s1 else s1.fence 2 0x12 (some t) false)
  else .next s

/-- R440: FUS.CLEAR zeroes LATE_DROP, OVERFLOW and the streams' counts. -/
def execFusClear (who : Who) (value : Word) (s : State) : Reply :=
  .next (s.gated who Reg.fusClear value fun s =>
    if bit value.toNat 0 then
      (List.range 64).foldl (fun s i => s.setNum (Reg.fusScount i) 0) ((s.setNum Reg.fusLateDrop 0).setNum Reg.fusOverflow 0)
    else s)

end Sys2Proof.Machine
end

