-- ==== Sys2Proof/Machine/MetMath.lean ====
section
/-! DEFINITION. The arithmetic of metrology (11): exact register units, cycle energies, resistance thermometers and water. Numbers are
FP64 bit patterns where State holds them. The order of the FP64 operations is the model's (log entry 33). -/
namespace Sys2Proof.Machine

def fp (b : Nat) : Fp := f64.decode b
def bits (x : Fp) : Nat := f64.encode x

/-- A finite FP64 number in units of 2^-1074, exactly. -/
def Fp.scaled : Fp → Int
  | .fin neg m e => if neg then -((m * 2 ^ (e + 1074).toNat : Nat) : Int) else ((m * 2 ^ (e + 1074).toNat : Nat) : Int)
  | _ => 0

def D.sumOf (xs : List Fp) : Fp := xs.foldl D.add D.zero
def D.sq (x : Fp) : Fp := D.mul x x
def D.ratio (n d : Nat) : Fp := D.div (D.ofNat n) (D.ofNat d)

/-- The FP32 bytes of a number. -/
def f32Of (x : Fp) : Nat := f32.encode (Fp.convert f32 x)

/-- √(Σ x² / N), 0 of no samples. -/
def rmsOf (xs : List Fp) : Fp :=
  if xs.isEmpty then D.zero else D.sqrt (D.div (D.sumOf (xs.map D.sq)) (D.ofNat xs.length))

/-- E_P, E_Q and E_S of an element, in J. -/
structure Energy where
  p : Fp
  q : Fp
  s : Fp
  deriving DecidableEq, Repr

def Energy.zero : Energy := { p := D.zero, q := D.zero, s := D.zero }
def Energy.add (a b : Energy) : Energy := { p := D.add a.p b.p, q := D.add a.q b.q, s := D.add a.s b.s }

/-- The energies of an element over a cycle (11, the formulas before R445): Ts is 62.5 µs. -/
def elementEnergy (pgain qgain poff : Fp) (v vq i : List Fp) (tc : Nat) : Energy :=
  let ts := D.ratio 625 10000000
  let t := secondsOf tc
  let sum := fun (x : List Fp) => D.sumOf ((x.zip i).map fun p => D.mul p.1 p.2)
  { p := D.add (D.mul (D.mul pgain (sum v)) ts) (D.mul poff t), q := D.mul (D.mul qgain (sum vq)) ts,
    s := D.mul (D.mul (rmsOf v) (rmsOf i)) t }

/-! ### Resistance thermometers (R456) -/

/-- R / R0 at a temperature, by the Callendar-Van Dusen equation with the coefficients of IEC 60751. -/
def cvd (t : Fp) : Fp :=
  let a := D.ratio 39083 10000000
  let b := (D.ratio 5775 10000000000).neg
  let c := (D.ratio 4183 1000000000000000).neg
  let base := D.add Fp.one (D.add (D.mul a t) (D.mul b (D.sq t)))
  if t.lt D.zero then D.add base (D.mul c (D.mul (D.sub t (D.ofNat 100)) (D.mul t (D.sq t)))) else base

/-- The temperature of a ratio between two temperatures, by bisection. -/
def cvdBisect (x : Fp) : Nat → Fp → Fp → Fp
  | 0, lo, _ => lo
  | fuel + 1, lo, hi =>
    let m := D.mul D.half (D.add lo hi)
    if (cvd m).le x then cvdBisect x fuel m hi else cvdBisect x fuel lo m

/-- R456: the temperature of a resistance, or `none` for SENSOR_FAULT. -/
def rtdTemperature (r0 r gain offset : Fp) : Option Fp :=
  let x := D.div r r0
  let lo := (D.ofNat 50).neg
  let hi := D.ofNat 200
  if (cvd lo).le x && x.le (cvd hi) then
    let t := D.add (D.mul gain (cvdBisect x 64 lo hi)) offset
    if D.zero.le t && t.le (D.ofNat 180) then some t else none
  else none

/-! ### Water (R459) -/

/-- A table in steps of 0.5 °C, interpolated linearly. -/
def waterAt (table : Nat → Nat) (t : Fp) : Fp :=
  let x := D.mul D.two t
  let k := min 359 (Fp.floorNat x)
  let a := fp (table k)
  D.add a (D.mul (D.sub x (D.ofNat k)) (D.sub (fp (table (k + 1))) a))

/-- ρ(θm) (h(θs) - h(θr)), in J per m³. -/
def heatPerVolume (supply ret mean : Fp) : Fp :=
  D.mul (waterAt Config.waterDensity mean) (D.sub (waterAt Config.waterEnthalpy supply) (waterAt Config.waterEnthalpy ret))

end Sys2Proof.Machine
end

