-- ==== Sys2Proof/Machine/MetData.lean ====
section
/-! DEFINITION. The METRO section, billing intervals, energy registers and pulse outputs (11): R445 to R450, R461 to R472. -/
namespace Sys2Proof.Machine

/-! ### The METRO section -/

def State.metBody (s : State) : List Byte := s.body Ty.metro Region.sense 0
def State.nsys (s : State) : Nat := min 7 (u8 s.metBody 0)
def State.nremote (s : State) : Nat := min 64 (u8 s.metBody 1)
def State.nreg (s : State) : Nat := min 112 (u8 s.metBody 2)
def State.metFp (s : State) (o : Nat) : Fp := f32.decode (u32 s.metBody o)
/-- Offsets of local channel, remote channel, system, heat meter, RTD, pulse input, pulse output and register entries. The four RTD
entries hold 20 bytes each, which their fields need, where the list of the section's parts says 16 (DESIGN CHOICE, log entry 40). -/
def localEntry (c : Nat) : Nat := 0x40 + 16 * c
def remoteEntry (r : Nat) : Nat := 0xC0 + 16 * r
def State.systemEntry (s : State) (k : Nat) : Nat := 0xC0 + 16 * u8 s.metBody 1 + 128 * k
def State.heatEntry (s : State) (h : Nat) : Nat := s.systemEntry (u8 s.metBody 0) + 32 * h
def State.rtdEntry (s : State) (k : Nat) : Nat := s.heatEntry 2 + 20 * k
def State.pinEntry (s : State) (p : Nat) : Nat := s.rtdEntry 4 + 16 * p
def State.outEntry (s : State) (n : Nat) : Nat := s.pinEntry 4 + 16 * n
def State.regEntry (s : State) (j : Nat) : Nat := s.outEntry 4 + 4 * j
/-- SOURCE, ELEMENT and KIND of register `j`. -/
def State.regDef (s : State) (j : Nat) : Nat × Nat × Nat :=
  (u8 s.metBody (s.regEntry j), u8 s.metBody (s.regEntry j + 1), u8 s.metBody (s.regEntry j + 2))
/-- MAPCRC: CRC-32 of the register table. -/
def State.mapCrc (s : State) : Nat := crc32 (slice s.metBody (s.regEntry 0) (4 * s.nreg))
def State.metOwner (s : State) : Nat := u16 s.metBody 4 % 2 ^ 14
def State.metSlots (s : State) : Nat := Addr.stock + u32 s.senseStruct 0x20

/-- MET measures (R97, R99, R36): after MOUNT, in every mode, while Sense is not fenced. -/
def State.metRuns (s : State) : Bool :=
  decide (Mode.mount < s.mode) && !s.fenced Region.sense && s.hasSection Ty.metro Region.sense 0

/-- Device time since reset in ns, which steps do not change. -/
def State.ranNs (s : State) : Nat := s.chip.ran / 2 ^ 32

/-- R76, R465: VANA_CLASS changes; the cycles in progress are measured in part outside the class. -/
def State.setVanaClass (s : State) (good : Bool) : State :=
  let s := s.setFlag Reg.pmuRails 5 good
  if good then s
  else { s with met := { s.met with systems := (List.range 7).foldl (fun m k => m.set k { m.get k with unclassed := true }) s.met.systems } }

/-- R81: a slot write that is cut short lets the line being written complete and leaves the rest as it was. -/
def State.tearWrite (s : State) : State := match s.met.writing with
  | some (at_, old, t, _) =>
    let done := min 16 ((s.chip.up - t) / 400 + 1)
    s.poke (at_ + 64 * done) (old.drop (64 * done))
  | none => s

def State.metSystem (s : State) (k : Nat) : MetSystem := s.met.systems.get k
def State.setMetSystem (s : State) (k : Nat) (x : MetSystem) : State :=
  { s with met := { s.met with systems := s.met.systems.set k x } }

/-- FLAGS of a record. -/
def Mf.seasoning : Nat := 0
def Mf.subst : Nat := 1
def Mf.reversed : Nat := 2
def Mf.lostInterval : Nat := 3
def Mf.currentOnly : Nat := 4
def Mf.classLost : Nat := 5
def Mf.remoteGap : Nat := 6
def Mf.outage : Nat := 7
def Mf.clockStep : Nat := 8
def Mf.mapChanged : Nat := 9
def Mf.sensorFault : Nat := 10
def Mf.boundOpen : Nat := 11
def Mf.onBattery : Nat := 12
def Mf.tallyLost : Nat := 13
def Mf.leapSecond : Nat := 14

/-! ### Intervals (R461 to R464) -/

/-- TIM.UTC_OFFSET in ns. -/
def State.utcNs (s : State) : Int := signed 16 (s.fld Reg.timUtcOffset 15 0) * 1000000000

/-- The interval of a length that contains a device time. -/
def State.intervalAt (s : State) (t len : Nat) : MetInterval :=
  let l := max 1 len
  let n := (((t : Int) - s.utcNs) / (l * 1000000000 : Nat)).toNat
  let edge := fun (k : Nat) => ((k * l * 1000000000 : Nat) + s.utcNs).toNat
  { (default : MetInterval) with index := n, start := edge n, finish := edge (n + 1), len := l }

/-- The interval after the one that is not closed yet (R462: of the length that MET.INTERVAL then holds); after a time step it is the one that
contains the time stepped to (R463). -/
def State.nextInterval (s : State) : MetInterval :=
  match s.met.cur.stepTo with
  | some t => { s.intervalAt t (s.num Reg.metInterval) with start := t }
  | none => { s.intervalAt s.met.cur.finish (s.num Reg.metInterval) with start := s.met.cur.finish }

/-- The interval after it is in progress once device time has passed the boundary, by more than the tick that reaches it. -/
def State.openNext (s : State) (t : Nat) : State :=
  if s.met.nxt.isNone && decide (s.met.cur.finish + 5 < t) then { s with met := { s.met with nxt := some s.nextInterval } } else s

/-- The update of the interval in progress. -/
def State.inProgress (s : State) (f : MetInterval → MetInterval) : State := match s.met.nxt with
  | some n => { s with met := { s.met with nxt := some (f n) } }
  | none => { s with met := { s.met with cur := f s.met.cur } }

/-- The update of the interval in which an event at a device time ends (R461). -/
def State.inInterval (s : State) (t : Nat) (f : MetInterval → MetInterval) : State :=
  if t ≤ s.met.cur.finish then { s with met := { s.met with cur := f s.met.cur } }
  else
    let n := match s.met.nxt with
      | some n => n
      | none => s.nextInterval
    { s with met := { s.met with nxt := some (f n) } }
def State.intervalOf (s : State) (t : Nat) : MetInterval :=
  if t ≤ s.met.cur.finish then s.met.cur else match s.met.nxt with
    | some n => n
    | none => s.nextInterval

/-- A flag of the interval's record is set; the first time `source` rises. -/
def State.markInterval (s : State) (t flag : Nat) (source : Nat) : State :=
  if bit (s.intervalOf t).flags flag then s
  else
    let s := s.inInterval t fun i => { i with flags := setBit i.flags flag }
    if source = 0 then s else s.raise source

/-- R463: device time steps from `t0`: forward over a boundary the interval in progress ends at the step; its record carries CLOCK_STEP. -/
def State.metTimeStep (s : State) (t0 : Nat) : State :=
  if !s.metRuns then s
  else (s.openNext t0).inProgress fun i =>
    let i := { i with flags := setBit i.flags Mf.clockStep }
    if i.finish < s.now then { i with finish := t0, stepTo := some s.now } else i

/-- R464: TIM.UTC_OFFSET takes a value; the interval in progress ends later by what the offset gains. -/
def State.metUtcChange (s : State) (w : Nat) : State :=
  let d := signed 16 w - signed 16 (s.num Reg.timUtcOffset)
  if d = 0 ∨ s.metRuns = false then s.setNum Reg.timUtcOffset w
  else ((s.openNext s.now).setNum Reg.timUtcOffset w).inProgress fun i =>
    { i with finish := ((i.finish : Int) + d * 1000000000).toNat, flags := setBit i.flags Mf.leapSecond }

/-! ### Registers and pulse outputs (R450, R468 to R472) -/

def State.energyReg (s : State) (j : Nat) : Nat := s.num (Reg.metRegLo j) + 2 ^ 32 * s.num (Reg.metRegHi j)
def State.setEnergyReg (s : State) (j v : Nat) : State :=
  (s.setNum (Reg.metRegLo j) (v % 2 ^ 32)).setNum (Reg.metRegHi j) (v / 2 ^ 32 % 2 ^ 32)

def State.metOut (s : State) (n : Nat) : MetOut := s.met.outs.get n
def State.setMetOut (s : State) (n : Nat) (o : MetOut) : State := { s with met := { s.met with outs := s.met.outs.set n o } }
def State.outMode (s : State) (n : Nat) : Nat := u8 s.metBody (s.outEntry n)
def waitingPulses (w : List (Bool × Nat)) : Nat := w.foldl (fun t p => t + p.2) 0
/-- Pulses join those that wait, behind them. -/
def joinPulses (w : List (Bool × Nat)) (neg : Bool) (k : Nat) : List (Bool × Nat) :=
  if k = 0 then w
  else match w.getLast? with
    | some l => if l.1 = neg then w.dropLast ++ [(neg, l.2 + k)] else w ++ [(neg, k)]
    | none => [(neg, k)]

/-- R468, R471: a contribution of `units` reaches the output's remainder; pulses beyond 65,535 are dropped. -/
def State.outContribution (s : State) (n : Nat) (units : Int) (size unit dur : Nat) : State :=
  let o := s.metOut n
  let c := max 1 (s.num (Reg.metPconst n))
  let r := o.rem + units
  let k := r.natAbs / c
  let rest : Int := (r.natAbs % c : Nat)
  let neg := decide (r < 0)
  let room := 65535 - waitingPulses o.waiting
  let w := joinPulses o.waiting neg (min k room)
  let s := s.setMetOut n { o with rem := if neg then -rest else rest, waiting := w, size := size, unit := unit, dur := dur }
  let s := s.setFld (Reg.metPstat n) 15 0 (waitingPulses w)
  if room < k then (s.setFlag (Reg.metPstat n) 29 true).raise 343 else s

/-- A contribution to register `j` of `amount` in parts of a unit, `unit` parts to one: whole units move into the register, the rest
stays in its residue (R450); the interval of its end and the pulse outputs on the register take it too. -/
def State.addRegister (s : State) (j : Nat) (amount : Int) (unit ended dur : Nat) : State :=
  let r := s.met.residue.get j + amount
  let whole := r / (unit : Int)
  let s := { s with met := { s.met with residue := s.met.residue.set j (r % (unit : Int)) } }
  let s := s.setEnergyReg j (unsigned 64 ((s.energyReg j : Int) + whole))
  let s := s.inInterval ended fun i => { i with delta := i.delta.set j (i.delta.get j + whole) }
  (List.range 4).foldl (fun s n =>
    if s.outMode n != 0 && u8 s.metBody (s.outEntry n + 1) == j then s.outContribution n whole amount.natAbs unit dur else s) s

/-- The registers of a source, element and kind take a contribution. -/
def State.contribute (s : State) (source element kind : Nat) (amount : Int) (unit ended dur : Nat) : State :=
  ((List.range s.nreg).filter fun j => s.regDef j == (source, element, kind)).foldl
    (fun s j => s.addRegister j amount unit ended dur) s

/-- Kinds of registers. -/
def Kd.aImp : Nat := 0
def Kd.aExp : Nat := 1
def Kd.aNet : Nat := 2
def Kd.apparent : Nat := 7
def Kd.heat : Nat := 8
def Kd.cold : Nat := 9
def Kd.hnet : Nat := 10
def Kd.volume : Nat := 11

/-- Parts of an electrical unit (2^-16 Wh in parts of 2^-1074 J) and of a unit of heat or volume. -/
def partsWh : Nat := 3600 * 2 ^ 1074
def partsUnit : Nat := 2 ^ 1074
/-- An amount in parts: 65,536 times a number, exactly. -/
def parts (x : Fp) : Int := 65536 * x.scaled

end Sys2Proof.Machine
end

