-- ==== Sys2Proof/Machine/MetJournal.lean ====
section
/-! DEFINITION. Records, the energy journal, power failure and restore of metrology (11): R466, R467, R476 to R485. -/
namespace Sys2Proof.Machine

/-! ### Records -/

/-- RECID of a record in an interval. -/
def State.recId (s : State) (record index : Nat) : Nat := s.metOwner * 2 ^ 50 + record * 2 ^ 42 + index % 2 ^ 42

/-- A record goes into its slot with code OK; STATUS copies SEASONING, and STALE of REMOTE_GAP, SENSOR_FAULT or LOST_INTERVAL (R466). -/
def State.metRecord (s : State) (off flags : Nat) (payload : List Byte) : State :=
  s.post Init.metDma (s.metSlots + off) 0 false (bit flags Mf.seasoning) (bit flags 6 || bit flags 10 || bit flags 3) payload

/-- R467: a record as one Milio packet to the node that SEND names. -/
def State.metSend (s : State) (flag : Nat) (payload : List Byte) : State :=
  let w := u32 s.metBody 0x10
  if bit (u16 s.metBody 6) flag then s.milOriginate (w / 2 ^ 19 % 2) (w / 2 ^ 16 % 8) (w % 2 ^ 14) false payload else s

/-- The tally as the journal and the tamper record hold it: ampere-hours of L1 to L3, estimated energy, seconds. -/
def MetTally.amps (t : MetTally) : List Byte :=
  (List.range 3).flatMap fun k => leBytes 4 (t.ah.get k / (partsWh : Int)).toNat
def MetTally.energy (t : MetTally) : List Byte := leBytes 8 (t.wh / (partsWh : Int)).toNat
def MetTally.seconds (t : MetTally) : List Byte := leBytes 4 (t.ns / 1000000000)
def MetTally.add (a b : MetTally) : MetTally :=
  { ah := (List.range 3).foldl (fun m k => m.set k (a.ah.get k + b.ah.get k)) a.ah, wh := a.wh + b.wh, ns := a.ns + b.ns,
    episodes := a.episodes + b.episodes }

/-! ### The journal (R476, R477, R479) -/

def Journal.periodic : Nat := 1
def Journal.boundary : Nat := 2
def Journal.emergency : Nat := 3
def Journal.merge : Nat := 4

def State.journalAddr (s : State) (slot : Nat) : Nat := Addr.records s.variant + 0x10000 + 1024 * slot

/-- Bytes 0x008 to 0x3FF of a slot. -/
def State.journalBody (s : State) (kind index : Nat) : List Byte :=
  let t := s.met.tally
  leBytes 1 kind ++ leBytes 1 s.nreg ++
    leBytes 2 (ofBool (s.flag Reg.timStatus 4) + 2 * ofBool (bit s.met.cur.flags Mf.classLost) + 4 * ofBool s.met.episode.isSome) ++
    leBytes 4 s.mapCrc ++ leBytes 8 (stampWord s.now) ++ leBytes 8 index ++
    ((List.range 4).flatMap fun n => leBytes 8 (unsigned 64 (s.metOut n).rem)) ++
    t.amps ++ leBytes 4 0 ++ t.energy ++ t.seconds ++ leBytes 2 t.episodes ++ leBytes 2 0 ++ List.replicate 32 0#8 ++
    ((List.range 112).flatMap fun j => leBytes 8 (if j < s.nreg then s.energyReg j else 0))

/-- A slot is written with the next SEQ, line by line of 64 bytes, 400 ns each (DESIGN CHOICE, log entry 60); what it held before stays known, for a
write cut short (R81, R479). A slot that does not then read as written raises source 340. -/
def State.writeJournal (s : State) (kind slot index : Nat) : State :=
  let at_ := s.journalAddr slot
  let old := s.bytes at_ 1024
  let seq := (s.met.seq + 1) % 2 ^ 32
  let body := s.journalBody kind index
  let data := leBytes 4 seq ++ leBytes 4 (crc32 body) ++ body
  let s := s.dmaWrite (engineWho Init.metDma) at_ data
  let saved := (List.range 112).foldl (fun (m : Tab Nat) j => m.set j (s.energyReg j)) s.met.saved
  let s := { s with met := { s.met with seq := seq, saved := saved, writing := some (at_, old, s.chip.up, decide (kind = Journal.periodic)) } }
  let s := s.setNum Reg.metJournal (seq % 2 ^ 24 * 256 + slot)
  if s.bytes at_ 1024 = data then s else s.raise 340

/-- R479: a warning on the MRAM path abandons a periodic write in progress, which lasts 6.4 µs. -/
def State.abandonPeriodic (s : State) : State := match s.met.writing with
  | some (_, _, t, true) => if s.chip.up < t + 6400 then { s.tearWrite with met := { s.met with writing := none } } else s
  | _ => s

/-- The rotating slot after the one last written. -/
def State.nextRotating (s : State) : Nat := (s.met.rotating + 1) % 62

/-- A write to the next rotating slot; source 346 rises for a PERIODIC one. -/
def State.writeRotating (s : State) (kind : Nat) : State :=
  let slot := s.nextRotating
  let s := s.writeJournal kind slot s.met.cur.index
  let s := { s with met := { s.met with rotating := slot } }
  if kind = Journal.periodic then s.raise 346 else s

/-- R477: the boundary slot that does not hold the newest boundary save; INDEX is that of the interval that begins. -/
def State.writeBoundary (s : State) (index : Nat) : State :=
  let slot := if s.met.boundary = 62 then 63 else 62
  let s := s.writeJournal Journal.boundary slot index
  { s with met := { s.met with boundary := slot } }.raise 346

/-! ### Power failure (R78, R478, R479) -/

def State.powerFailing (s : State) : Bool := s.flag Reg.metStatus 31
/-- The path of the last warning: the BM retention registers, or the MRAM. -/
def State.mramPath (s : State) : Bool := s.flag Reg.metStatus 30

/-- R478: the copy in the BM retention registers. -/
def State.retain (s : State) : State :=
  let delta := (List.range 112).foldl (fun (m : Tab Int) j => m.set j (signed 64 (s.energyReg j + 2 ^ 64 - s.met.saved.get j))) s.met.bm.delta
  let rems := (List.range 4).foldl (fun (m : Tab Int) n => m.set n (s.metOut n).rem) s.met.bm.rems
  { s with met := { s.met with bm := { s.met.bm with held := true, time := s.now, delta := delta, rems := rems, tally := s.met.tally, episode := s.met.episode } } }

/-- At the end of every cycle and step the copy is updated until reset. -/
def State.retainAgain (s : State) : State := if s.powerFailing && !s.mramPath then s.retain else s

/-- R77, R78: the metrology block is signalled. -/
def State.metPowerFail (s : State) : State :=
  if !s.metRuns then s
  else
    let battery := s.flag Reg.pmuBatstat 0 && s.flag Reg.pmuBatctl 0
    let s := (s.setFlag Reg.metStatus 31 true).setFlag Reg.metStatus 30 (!battery)
    if battery then s.retain
    else
      let slot := s.nextRotating
      let s := s.abandonPeriodic.writeRotating Journal.emergency
      { s with met := { s.met with emergency := some (slot, 0) } }

/-- R479: 1 ms after the last write, up to which time passes, the EMERGENCY slot is written again, in the other of two slots, 100 times at most. -/
def State.emergencyAgain (s : State) : State :=
  match s.met.emergency with
  | some (slot, n) =>
    if s.metRuns && s.powerFailing && decide (n < 100) then
      let last := match s.met.writing with
        | some w => w.2.2.1
        | none => s.chip.up
      let s := s.elapse ((last + 1000000 - s.chip.up + 3) / 4)
      let k := if n % 2 = 0 then (slot + 1) % 62 else slot
      let s := s.writeJournal Journal.emergency k s.met.cur.index
      { s with met := { s.met with rotating := k, emergency := some (slot, n + 1) } }
    else s
  | none => s

/-- R480: the warning is withdrawn. -/
def State.metPowerGood (s : State) : State :=
  if s.powerFailing then
    { s with met := { s.met with bm := { s.met.bm with held := false }, emergency := none } }.setFlag Reg.metStatus 31 false
  else s

/-! ### Tamper and billing records -/

/-- R475: an episode ends: the tamper record is written and sent, and source 338 rises. Its times are device times (R258), and it is a record of its
interval (R473, R485). -/
def State.tamperRecord (s : State) (start finish flags bound : Nat) : State :=
  let i := s.intervalOf finish
  let flags := flags ||| (i.flags &&& (2 ^ Mf.currentOnly + 2 ^ Mf.mapChanged)) ||| ofBool (s.flag Reg.timStatus 4)
  let t := s.met.tally
  let payload := leBytes 8 (stampWord start) ++ leBytes 8 (stampWord finish) ++ t.amps ++ leBytes 4 0 ++ t.energy ++ t.seconds ++
    leBytes 4 flags ++ leBytes 8 (s.recId 9 i.index) ++ leBytes 8 bound
  let payload := slice payload 0 240
  ((s.metRecord 0xC00 flags payload).metSend 1 payload).raise 338

def State.billingPayload (s : State) (i : MetInterval) : List Byte :=
  leBytes 8 i.index ++ leBytes 8 (stampWord i.start) ++ leBytes 8 (stampWord i.finish) ++ leBytes 4 i.flags ++ leBytes 1 s.nreg ++
    leBytes 3 0 ++ leBytes 4 i.cycles ++ leBytes 4 i.gaps ++ leBytes 8 i.lost ++ leBytes 8 (s.recId 8 i.index) ++
    leBytes 4 s.mapCrc ++ List.replicate 52 0#8 ++ ((List.range 112).flatMap fun j => leBytes 8 (unsigned 64 (i.delta.get j)))

/-- The billing record of an interval: slot 8, sent under R467, the METRO event and source 337 (R461). -/
def State.billingRecord (s : State) (i : MetInterval) : State :=
  let i := if s.flag Reg.timStatus 4 then { i with flags := setBit i.flags Mf.seasoning } else i
  let payload := s.billingPayload i
  (((s.metRecord 0x800 i.flags payload).metSend 0 payload).offerEvent 5 8).raise 337

/-- R461, R477: the interval in progress is closed, and the next one is in progress. -/
def State.closeInterval (s : State) : State :=
  let next := match s.met.nxt with
    | some n => n
    | none => s.nextInterval
  let s := (s.billingRecord s.met.cur).writeBoundary next.index
  ({ s with met := { s.met with cur := next, nxt := none, after := false } }).setFld Reg.metStatus 14 8 0

/-! ### Restore (R481 to R485) -/

/-- A slot's bytes, when its CRC is correct. -/
def State.journalRead (s : State) (slot : Nat) : Option (List Byte) :=
  let b := s.bytes (s.journalAddr slot) 1024
  if u8 b 8 ≠ 0 ∧ crc32 (b.drop 8) = u32 b 4 then some b else none

/-- The newest of the slots with a property (R706). -/
def State.newestJournal (s : State) (p : List Byte → Bool) : Option (Nat × List Byte) :=
  (List.range 64).foldl (fun (best : Option (Nat × List Byte)) k =>
    match s.journalRead k with
    | none => best
    | some b =>
      if !p b then best
      else match best with
        | none => some (k, b)
        | some (_, c) => if seqNewer 32 (u32 b 0) (u32 c 0) then some (k, b) else best) none

/-- Device time in ns of a kind 0 time not after now. -/
def State.pastTime (s : State) (w : Nat) : Nat :=
  let ago := (s.time.sec + 2 ^ 31 - w / 2 ^ 32 % 2 ^ 31) % 2 ^ 31
  (s.time.sec - ago) * 1000000000 + w % 2 ^ 32

/-- Power times a time in ns, in 2^-16 Wh, not above all ones. -/
def wattTime (w : Fp) (ns : Nat) : Nat :=
  min (2 ^ 64 - 1) (Fp.floorNat (D.div (D.mul (D.mul w (secondsOf ns)) (D.ofNat 65536)) (D.ofNat 3600)))

def State.pmax (s : State) (k : Nat) : Fp := s.metFp (s.systemEntry k + 0xC)

/-- The registers and remainders of a slot's bytes. -/
def State.loadRegisters (s : State) (b : List Byte) : State :=
  let s := (List.range s.nreg).foldl (fun s j => s.setEnergyReg j (u64 b (0x80 + 8 * j))) s
  let s := (List.range 4).foldl (fun s n => s.setMetOut n { s.metOut n with rem := signed 64 (u64 b (0x20 + 8 * n)) }) s
  let tally : MetTally :=
    { ah := (List.range 3).foldl (fun (m : Tab Int) k => m.set k ((u32 b (0x40 + 4 * k) * partsWh : Nat) : Int)) Tab.empty,
      wh := ((u64 b 0x50 * partsWh : Nat) : Int), ns := u32 b 0x58 * 1000000000, episodes := u16 b 0x5C }
  { s with met := { s.met with tally := tally } }

/-- The retention copy is added (R481). -/
def State.mergeRetention (s : State) : State :=
  let bm := s.met.bm
  let s := (List.range s.nreg).foldl (fun s j => s.setEnergyReg j (unsigned 64 ((s.energyReg j : Int) + bm.delta.get j))) s
  let s := (List.range 4).foldl (fun s n => s.setMetOut n { s.metOut n with rem := bm.rems.get n }) s
  { s with met := { s.met with tally := bm.tally } }

/-- The changes of the restored interval: from the boundary save at its start, from 0 where none is kept (log entry 41). -/
def State.restoredDelta (s : State) (index : Nat) : Tab Int :=
  let base := match s.newestJournal fun b => u8 b 8 == Journal.boundary && u64 b 0x18 == index && u32 b 0xC == s.mapCrc with
    | some (_, b) => b
    | none => []
  (List.range s.nreg).foldl (fun (m : Tab Int) j => m.set j (signed 64 (s.energyReg j + 2 ^ 64 - u64 base (0x80 + 8 * j)))) Tab.empty

/-- R475, R481, R483: what the battery's seconds added joins the tally, and its episode ends at the restore; with the BM canary broken that is
lost, with a bound. An episode that was in progress when measuring stopped, by the retention copy or the restored slot, goes on (DEDUCED, log
entry 151). -/
def State.batteryEnd (s : State) (broken : Bool) (going : Option Nat) : State :=
  let s := if broken then s else { s with met := { s.met with tally := s.met.tally.add s.met.bm.gained } }
  let away := match s.met.fell with
    | some t => (s.rtc.cellSec - t) * 1000000000
    | none => 0
  let s1 : State :=
    if broken then
      let flags := 2 ^ Mf.onBattery + 2 ^ Mf.tallyLost + (if s.rtc.valid then 0 else 2 ^ Mf.boundOpen)
      let bound := if s.rtc.valid then wattTime (s.pmax 0) away else 0
      if s.met.fell.isSome ∧ s.flag Reg.pmuBatctl 0 = true then
        (((s.tamperRecord (s.now - away) s.now flags bound).setFlag Reg.metTamper 29 true).setFlag Reg.metTamper 30 true).setFlag
          Reg.metRestore 26 true
      else s
    else match s.met.battery with
      | some t => (s.tamperRecord t s.now (2 ^ Mf.onBattery) 0).setFlag Reg.metTamper 30 true
      | none => s
  let ep := if broken || s.met.battery.isSome then none else going
  let s1 := { s1 with met := { s1.met with battery := none, fell := none, episode := ep, bm := { s1.met.bm with held := false, gained := default } } }
  if ep.isSome then (s1.setFlag Reg.metStatus 29 true).setFlag Reg.metTamper 31 true else s1

/-- The journal's place of writing, from what its slots hold (R481). -/
def State.journalHeads (s : State) (seq : Nat) : State :=
  let r := match s.newestJournal fun b => u8 b 8 != Journal.boundary with
    | some (k, _) => k
    | none => 61
  let b := match s.newestJournal fun b => u8 b 8 == Journal.boundary with
    | some (k, _) => k
    | none => 63
  { s with met := { s.met with seq := seq, savedAt := s.chip.up, residue := Tab.empty, rotating := r, boundary := b } }

/-- No slot matches the register map: the registers start from 0 (R481, R484). -/
def State.restoreUnmatched (s : State) (lost broken : Bool) (now : MetInterval) : State :=
  let s := (List.range 112).foldl (fun s j => s.setEnergyReg j 0) s
  let flags := 2 ^ Mf.mapChanged + (if lost then 2 ^ Mf.lostInterval + 2 ^ Mf.boundOpen else 0)
  let s := (s.setFlag Reg.metStatus 28 true).setNum Reg.metRestore
    (2 ^ 31 + 2 ^ 28 + 3 * 2 ^ 24 + (if lost then 2 ^ 30 + 2 ^ 29 else 0))
  let s := { s with met := { s.met with cur := { now with flags := flags, lost := if lost then 2 ^ 64 - 1 else 0 }, nxt := none } }
  let s := if lost then ((s.setNum Reg.metLostLo 0xFFFFFFFF).setNum Reg.metLostHi 0xFFFFFFFF).raise 341 else s
  s.batteryEnd broken none

/-- The interval of the restored slot is closed as an outage if its end has passed, else it goes on (R484). -/
def State.restoreInterval (s : State) (index time lostFlags bound : Nat) (now : MetInterval) : State :=
  if index < now.index then
    let old : MetInterval := { (default : MetInterval) with
      index := index, start := (index * now.len * 1000000000 + s.utcNs).toNat, finish := time, len := now.len,
      flags := 2 ^ Mf.outage + lostFlags, lost := bound, delta := s.restoredDelta index }
    let s := { s with met := { s.met with cur := old, nxt := none } }
    let s := (s.billingRecord old).writeBoundary now.index
    { s with met := { s.met with cur := { now with flags := 2 ^ Mf.outage } } }
  else { s with met := { s.met with cur := { now with flags := lostFlags, lost := bound, delta := s.restoredDelta index }, nxt := none } }

/-- The energy that may have been lost since the slot's time (R483). -/
def State.lostBound (s : State) (lost opened : Bool) (time : Nat) : Nat :=
  if !lost then 0 else if opened then 2 ^ 64 - 1
  else min (2 ^ 64 - 1) ((List.range s.nsys).foldl (fun n k => n + wattTime (s.pmax k) (s.now - time)) 0)

/-- Slot `k` with bytes `b` is restored and the retention copy merged (R481 to R484). -/
def State.restoreMatched (s : State) (k : Nat) (b : List Byte) (broken : Bool) (now : MetInterval) : State :=
  let s := s.loadRegisters b
  let time := s.pastTime (u64 b 0x10)
  let merged := !broken && s.met.bm.held && decide (time < s.met.bm.time)
  let going := if merged then s.met.bm.episode else if bit (u16 b 0xA) 2 then some time else none
  let s := if merged then s.mergeRetention else s
  let lost := !merged && u8 b 8 != Journal.emergency
  let opened := lost && !s.rtc.valid
  let bound := s.lostBound lost opened time
  let lostFlags := if lost then 2 ^ Mf.lostInterval + (if opened then 2 ^ Mf.boundOpen else 0) else 0
  let s := s.setNum Reg.metRestore (2 ^ 31 + ofBool lost * 2 ^ 30 + ofBool opened * 2 ^ 29 + ofBool merged * 2 ^ 27 +
    (if merged then 2 else if u8 b 8 = Journal.emergency then 1 else 0) * 2 ^ 24 + k * 2 ^ 16)
  let s := ((s.setNum Reg.metLostLo (bound % 2 ^ 32)).setNum Reg.metLostHi (bound / 2 ^ 32))
  let s := if lost then s.raise 341 else s
  let s := (s.restoreInterval (u64 b 0x18) time lostFlags bound now).batteryEnd broken going
  if merged then s.writeRotating Journal.merge
  else { s with met := { s.met with saved := (List.range 112).foldl (fun (m : Tab Nat) j => m.set j (s.energyReg j)) s.met.saved } }

/-- At the end of MOUNT, and at re-admission of Sense: the newest good slot is restored, the retention copy merged, and what was lost
recorded (R481 to R485). -/
def State.metRestore (s : State) : State :=
  if !s.hasSection Ty.metro Region.sense 0 then s
  else
    let broken := s.flag Reg.pmuBatstat 9
    match s.newestJournal fun _ => true with
    | none =>
      let s := s.journalHeads 0
      s.restoreUnmatched true broken (s.intervalAt s.now (s.num Reg.metInterval))
    | some (k, newest) =>
      let s := (s.journalHeads (u32 newest 0)).setNum Reg.metJournal (u32 newest 0 % 2 ^ 24 * 256 + k)
      let now := s.intervalAt s.now (s.num Reg.metInterval)
      match s.newestJournal fun b => u32 b 0xC == s.mapCrc with
      | none => s.restoreUnmatched false broken now
      | some (k, b) => s.restoreMatched k b broken now

end Sys2Proof.Machine
end

