-- ==== Sys2Proof/Machine/Met.lean ====
section
/-! DEFINITION. Cycles, blocks, heat, pulses and the commands of metrology (11), and the power-fail warning (R77 to R82). -/
namespace Sys2Proof.Machine

/-! ### Samples (R442) -/

/-- The selector of a channel position of a system: 0 to 7 for V1, V2, V3, I1, I2, I3, IN, AUX. -/
def State.selector (s : State) (k pos : Nat) : Nat := u8 s.metBody (s.systemEntry k + 4 + pos)
def State.selLocal (s : State) (k pos : Nat) : Bool := decide (s.selector k pos < 8)
def State.selEntry (s : State) (k pos : Nat) : Nat :=
  if s.selLocal k pos then localEntry (s.selector k pos) else remoteEntry (s.selector k pos - 0x40)
def State.selScale (s : State) (k pos : Nat) : Fp := s.metFp (s.selEntry k pos + 4)
def State.selOffset (s : State) (k pos : Nat) : Int := i32 s.metBody (s.selEntry k pos + 8)
def State.selPhase (s : State) (k pos : Nat) : Int := i16 s.metBody (s.selEntry k pos + (if s.selLocal k pos then 2 else 0xC))
def State.selHpf (s : State) (k pos : Nat) : Bool := s.selLocal k pos && bit (u8 s.metBody (s.selEntry k pos + 1)) 0
/-- The system's channels are local (R443). -/
def State.systemLocal (s : State) (k : Nat) : Bool :=
  !((List.range 8).any fun pos => decide (0x40 ≤ s.selector k pos) && s.selector k pos != 0xFF)

/-- The high-pass filter over a run of samples: its state, and the outputs. -/
def highPassAll (state : List Nat) : List Nat → List Nat × List Nat
  | [] => (state, [])
  | x :: xs =>
    let (st, y) := Config.highPass state x
    let (st, ys) := highPassAll st xs
    (st, y :: ys)

/-- R442: filter state, values before the delay, and values, of a position's codes. -/
def State.condition (s : State) (k pos : Nat) (x : MetSystem) (codes : List Int) : List Nat × List Nat × List Nat :=
  let vals := codes.map fun c => bits (D.mul (s.selScale k pos) (Fp.ofInt f64 (c - s.selOffset k pos)))
  let (st, vals) := if s.selHpf k pos then highPassAll (x.filter.get pos) vals else (x.filter.get pos, vals)
  let out := if 3 ≤ pos ∧ pos ≤ 6 ∧ s.selPhase k pos ≠ 0 then Config.fractionalDelay (x.before.get pos) vals (s.selPhase k pos) 4096 else vals
  (st, vals, out)

/-- The elements of a wiring: element, voltage position, current position. -/
def elementsOf (wiring : Nat) : List (Nat × Nat × Nat) :=
  if wiring = 0 then [(0, 0, 3), (1, 1, 4), (2, 2, 5)] else if wiring = 1 then [(0, 0, 3)] else [(0, 0, 3), (2, 2, 5)]
def State.wiring (s : State) (k : Nat) : Nat := u8 s.metBody (s.systemEntry k + 3)
def State.elemEntry (s : State) (k e : Nat) : Nat := s.systemEntry k + 0x30 + 16 * e
def State.elemAbsolute (s : State) (k e : Nat) : Bool := u8 s.metBody (s.elemEntry k e + 12) == 1
/-- Active, reactive and apparent no-load threshold of an element. -/
def State.noLoad (s : State) (k e q : Nat) : Fp := s.metFp (s.systemEntry k + 0x10 + 4 * ((if e = 3 then 3 else 0) + q))

/-! ### Contributions of a cycle (R445 to R449) -/

/-- A power, |E| / T_c, reaches a threshold. -/
def reaches (e t threshold : Fp) : Bool := threshold.le (D.div e.abs t)

/-- A cycle of an element contributes to the registers of its system. -/
def State.addCycle (s : State) (k e : Nat) (en : Energy) (c : MetCycle) : State :=
  let t := secondsOf c.dur
  let give := fun (s : State) (kind : Nat) (a : Int) => s.contribute k e kind a partsWh c.finish c.dur
  let neg := en.p.lt D.zero
  let pos := parts en.p.abs
  let s := if reaches en.p t (s.noLoad k e 0) then
      if s.elemAbsolute k e then give (give s Kd.aImp pos) Kd.aNet pos
      else if neg then give (give s Kd.aExp pos) Kd.aNet (-pos)
      else give (give s Kd.aImp pos) Kd.aNet pos
    else s
  let s := if reaches en.p t (s.noLoad k e 0) && neg && (List.range s.nreg).any fun j => (s.regDef j).1 == k && (s.regDef j).2.1 == e then
      s.markInterval c.finish Mf.reversed 339
    else s
  let quadrant := if en.q.lt D.zero then (if neg then 5 else 6) else (if neg then 4 else 3)
  let s := if reaches en.q t (s.noLoad k e 1) then give s quadrant (parts en.q.abs) else s
  if reaches en.s t (s.noLoad k e 2) then give s Kd.apparent (parts en.s) else s

/-! ### Blocks (R452 to R455) -/

def State.blockCycles (s : State) (k : Nat) : Nat := if u8 s.metBody (s.systemEntry k + 2) = 1 then 12 else 10

/-- √(Σ G_h², h = 2 to 63) / G_1, 0 when G_1 is 0. -/
def thdOf (waves : List (List Nat)) : Fp :=
  let g := fp (Config.harmonicGroup waves 1)
  if g.isZero then D.zero
  else D.div (D.sqrt (D.sumOf ((List.range 62).map fun h => D.sq (fp (Config.harmonicGroup waves (h + 2)))))) g

/-- The 32 quantity codes of a block (R452). -/
def State.blockValues (s : State) (k : Nat) (x : MetSystem) (dur : Nat) : List Fp :=
  let t := secondsOf dur
  let rms := fun (pos : Nat) => if s.selector k pos = 0xFF then D.zero else rmsOf ((x.waves.get pos).flatten.map fp)
  let elems := (elementsOf (s.wiring k)).map fun e => e.1
  let power := fun (e : Nat) (f : Nat × Nat × Nat → Nat) =>
    if e = 3 ∨ elems.contains e = true then D.div (fp (f (x.sums.getD e (0, 0, 0)))) t else D.zero
  let p := fun e => power e fun v => v.1
  let q := fun e => power e fun v => v.2.1
  let a := fun e => power e fun v => v.2.2
  let pf := fun e => if (a e).isZero then D.zero else D.div (p e) (a e)
  let thd := fun (pos : Nat) => if s.selector k pos = 0xFF then D.zero else thdOf (x.waves.get pos)
  [rms 0, rms 1, rms 2, rms 3, rms 4, rms 5, rms 6, D.div (D.ofNat x.cycles) t, p 0, p 1, p 2, p 3, q 0, q 1, q 2, q 3,
   a 0, a 1, a 2, a 3, pf 0, pf 1, pf 2, pf 3, thd 0, thd 1, thd 2, thd 3, thd 4, thd 5, rms 7, D.zero]

/-- R454: the harmonic table of a block, in buffer BUF. -/
def State.writeHarmonics (s : State) (k buf : Nat) (x : MetSystem) : State :=
  let v1 := x.waves.get 0
  (List.range 8).foldl (fun s pos =>
    let w := x.waves.get pos
    let entry := fun (h : Nat) =>
      if h = 0 then leBytes 4 x.block ++ leBytes 4 0
      else if s.selector k pos = 0xFF then leBytes 8 0
      else leBytes 4 (f32Of (fp (Config.harmonicGroup w h))) ++ leBytes 4 (f32Of (fp (Config.harmonicPhase w v1 h)))
    s.dmaWrite (engineWho Init.metDma) (Addr.stock + u32 s.senseStruct 0x24 + 8192 * k + 4096 * buf + 512 * pos) ((List.range 64).flatMap entry)) s

/-- QSEAS: the quantity codes still seasoning (R455). -/
def blockSeasons (x : MetSystem) : Nat :=
  let codes := fun (xs : List Nat) => xs.foldl (fun m c => setBit m c) 0
  (if x.seen < 1 then codes [0, 1, 2, 3, 4, 5, 6, 30] else 0) + (if x.seen < 3 then codes [7] else 0) +
    (if x.blocks < 1 then codes [24, 25, 26, 27, 28, 29] else 0)

/-- The payload of a block record. -/
def blockPayload (source buf ncyc flags tEnd block qseas : Nat) (vals : List Byte) : List Byte :=
  slice (leBytes 1 source ++ leBytes 1 buf ++ leBytes 2 ncyc ++ leBytes 4 flags ++ leBytes 8 (stampWord tEnd) ++ leBytes 4 block ++
    leBytes 4 qseas ++ List.replicate 24 0#8 ++ vals) 0 240

/-- A block's values reach MET.BLK, the record slot, the fusion streams and the dispatcher (R452). -/
def State.issueBlock (s : State) (record source buf ncyc flags tEnd block qseas : Nat) (vals : List (Nat × Fp)) (bytes : List Byte) : State :=
  let s := vals.foldl (fun s v => s.setNum (Reg.metBlk v.1) (f32Of v.2)) s
  let s := (s.metRecord (256 * record) flags (blockPayload source buf ncyc flags tEnd block qseas bytes)).raise 336
  let s := s.offerEvent 5 record
  vals.foldl (fun s v => s.fusMet v.1 tEnd (flags % 4) (leBytes 4 (f32Of v.2))) s

/-- R452: a block of a system ends; the next one begins. -/
def State.endBlock (s : State) (k : Nat) (c : MetCycle) (now : Nat) : State :=
  let x := s.metSystem k
  let vals := s.blockValues k x (now - x.began)
  let buf := x.block % 2
  let qseas := blockSeasons x
  let i := s.intervalOf c.finish
  let seasoning := qseas != 0 || s.flag Reg.timStatus 4 || bit x.flags Mf.seasoning
  let flags := (x.flags ||| (i.flags &&& (2 ^ Mf.currentOnly + 2 ^ Mf.mapChanged)))
  let flags := if seasoning then setBit flags Mf.seasoning else flags
  let s := s.writeHarmonics k buf x
  let s := s.issueBlock k k buf x.cycles flags c.finish x.block qseas ((List.range 32).zip vals |>.map fun v => (32 * k + v.1, v.2))
    (vals.flatMap fun v => leBytes 4 (f32Of v))
  s.setMetSystem k { x with block := x.block + 1, began := now, cycles := 0, waves := Tab.empty, sums := [], flags := 0, blocks := x.blocks + 1 }

/-! ### Cycles -/

/-- Phases of system 0 with Vrms below V_MIN whose Irms is at least I_START (R473), with that Irms. -/
def State.currentOnly (s : State) (v i : Nat → Fp) : List (Nat × Fp) :=
  ((elementsOf (s.wiring 0)).filter fun e => (v e.2.1).lt (s.metFp 0x1C) && (s.metFp 0x20).le (i e.2.2)).map fun e => (e.1, i e.2.2)

/-- An amount of current over a time joins the tally (R473, R474). -/
def MetTally.take (t : MetTally) (vnom : Fp) (phases : List (Nat × Fp)) (dur : Nat) : MetTally :=
  phases.foldl (fun (t : MetTally) p =>
    let a := D.mul p.2 (secondsOf dur)
    { t with ah := t.ah.set p.1 (t.ah.get p.1 + parts a), wh := t.wh + parts (D.mul vnom a) }) t

/-- R473, R475: a cycle of system 0 and the current-only episode. No rule zeroes the tally: it counts on from episode to episode, and its seconds are
those of R474 (DEDUCED, log entry 151). -/
def State.watchTamper (s : State) (c : MetCycle) (v i : Nat → Fp) : State :=
  let low := s.currentOnly v i
  let s : State :=
    if low.isEmpty then s
    else
      let s : State := if s.met.episode.isSome then s else
        let t : MetTally := { s.met.tally with episodes := s.met.tally.episodes + 1 }
        ((({ s with met := { s.met with episode := some c.finish, tally := t } }).setFlag Reg.metStatus 29 true).setFlag Reg.metTamper 31
          true).bump Reg.metTamper 15 0 1
      let s := { s with met := { s.met with tally := s.met.tally.take (s.metFp 0x18) low c.dur } }
      s.markInterval c.finish Mf.currentOnly 0
  match s.met.episode with
  | some t =>
    if (elementsOf (s.wiring 0)).all fun e => (s.metFp 0x1C).le (v e.2.1) then
      let s := s.tamperRecord t c.finish 0 0
      (({ s with met := { s.met with episode := none } }).setFlag Reg.metStatus 29 false).setFlag Reg.metTamper 31 false
    else s
  | none => s

/-- A cycle whose samples are all there is accumulated (R444 to R449, R452, R465, R473); `codes` gives each position's codes. -/
def State.closeCycle (s : State) (k : Nat) (c : MetCycle) (codes : Nat → List Int) : State :=
  let x := s.metSystem k
  let used := (List.range 8).filter fun pos => s.selector k pos != 0xFF
  let done := used.map fun pos => (pos, s.condition k pos x (codes pos))
  let vals := fun (pos : Nat) => match done.find? fun d => d.1 == pos with
    | some d => d.2.2.2.map fp
    | none => []
  let late := fun (pos : Nat) => match done.find? fun d => d.1 == pos with
    | some d => (Config.fractionalDelay (x.before.get pos) d.2.2.1 c.dur 250000).map fp
    | none => []
  let ens := (elementsOf (s.wiring k)).map fun e =>
    let o := s.elemEntry k e.1
    (e.1, elementEnergy (s.metFp o) (s.metFp (o + 4)) (s.metFp (o + 8)) (vals e.2.1) (late e.2.1) (vals e.2.2) c.dur)
  let ens := ens ++ [(3, ens.foldl (fun t e => t.add e.2) Energy.zero)]
  let good := s.flag Reg.pmuRails 5 && !x.unclassed
  let s := ens.foldl (fun s e => s.addCycle k e.1 e.2 c) s
  let s := if good then s else s.markInterval c.finish Mf.classLost 345
  let sum := fun (e : Nat) =>
    let en := match ens.find? fun v => v.1 == e with
      | some v => v.2
      | none => Energy.zero
    let old := x.sums.getD e (0, 0, 0)
    (bits (D.add (fp old.1) en.p), bits (D.add (fp old.2.1) en.q), bits (D.add (fp old.2.2) en.s))
  let flags := x.flags ||| (if good then 0 else 2 ^ Mf.classLost)
  let x := { x with
    filter := done.foldl (fun (m : Tab (List Nat)) d => m.set d.1 d.2.1) x.filter,
    before := done.foldl (fun (m : Tab (List Nat)) d => m.set d.1 d.2.2.1) x.before,
    waves := done.foldl (fun (m : Tab (List (List Nat))) d => m.set d.1 (m.get d.1 ++ [d.2.2.2])) x.waves,
    sums := (List.range 4).map sum, flags := flags, unclassed := !s.flag Reg.pmuRails 5 }
  let s := s.setMetSystem k x
  if k = 0 then s.watchTamper c (fun pos => rmsOf (vals pos)) (fun pos => rmsOf (vals pos)) else s

/-- A cycle, a lost one too, is counted in its block, its interval and its system's seasoning, and marks its records with what its firing carried
(R171, R259); a full block ends. -/
def State.countCycle (s : State) (k : Nat) (c : MetCycle) : State :=
  let s := if c.seasoning then s.markInterval c.finish Mf.seasoning 0 else s
  let s := if c.subst then s.markInterval c.finish Mf.subst 0 else s
  let x := s.metSystem k
  let restart := x.subst && !c.subst
  let s := s.setMetSystem k { x with cycles := x.cycles + 1, seen := if restart then 0 else x.seen + 1, blocks := if restart then 0 else x.blocks,
                                     subst := c.subst, flags := x.flags ||| (ofBool c.seasoning + 2 * ofBool c.subst) }
  let s := if k = 0 then s.inInterval c.finish fun i => { i with cycles := i.cycles + 1 } else s
  let s := if k = 0 ∧ s.met.cur.finish < c.finish then { s with met := { s.met with after := true } } else s
  let s := if s.blockCycles k ≤ (s.metSystem k).cycles then s.endBlock k c c.ran else s
  s.retainAgain

/-- The firing that ends a cycle of a system: a local cycle is accumulated, a remote one waits (R451). The first firing after MOUNT
only starts one. Times are those of the firing. -/
def State.cycleFiring (s : State) (k : Nat) (samples : List (List Int)) : State :=
  let x := s.metSystem k
  let n := u8 s.metBody (s.systemEntry k)
  let ran := s.spn.fired.ran / 2 ^ 32
  let time := s.spn.fired.time
  match x.last with
  | none => s.setMetSystem k { x with last := some ran, lastTime := time, began := ran, unclassed := !s.flag Reg.pmuRails 5 }
  | some t =>
    let c : MetCycle := { start := x.lastTime, finish := time, dur := ran - t, seasoning := s.spinFlag n Spn.seasoning,
                          subst := s.substitute n, ran := ran }
    let s := s.setMetSystem k { x with last := some ran, lastTime := time }
    if s.systemLocal k then
      (s.closeCycle k c fun pos => samples.map fun codes => codes.getD (s.selector k pos) 0).countCycle k c
    else s.setMetSystem k { s.metSystem k with closing := x.closing ++ [c] }

/-- R445: a cycle comparator fires; `samples` holds the codes of the 8 local channels at each sampling instant of the cycle. -/
def execMainsCycleEnd (spindle cmp : Nat) (samples : List (List Int)) (s : State) : Reply :=
  match s.firing Consumer.met spindle cmp with
  | none => .next s
  | some (s, _) =>
    if s.metRuns then
      .next (((List.range s.nsys).filter fun k =>
        u8 s.metBody (s.systemEntry k) == spindle && u8 s.metBody (s.systemEntry k + 1) == cmp).foldl (fun s k => s.cycleFiring k samples) s)
    else .next s

/-! ### Remote channels (R441, R451) -/

/-- The remote channel that a packet's port, channel and tag name. -/
def State.remoteFor (s : State) (port vc : Nat) (payload : List Byte) : Option Nat :=
  (List.range s.nremote).find? fun r =>
    u16 s.metBody (remoteEntry r) == u16 payload 0 && u8 s.metBody (remoteEntry r + 2) % 16 == vc % 8 + port % 2 * 8

/-- R444: a waveform packet reaches the remote channel that PORT, VC and TAG name; others are dropped. -/
def State.takeWaveform (s : State) (port vc : Nat) (payload : List Byte) : State :=
  if !s.metRuns then s
  else
    match s.remoteFor port vc payload with
    | none => s
    | some r =>
      let first := s.pastTime (u64 payload 8)
      let new := (List.range (min 128 (u16 payload 2))).map fun i => (first + 62500 * i, i32 payload (0x10 + 4 * i))
      { s with met := { s.met with remote := s.met.remote.set r (s.met.remote.get r ++ new) } }

def execWaveformPacket (port vc : Nat) (payload : List Byte) (s : State) : Reply := .next (s.takeWaveform port vc payload)

/-- From each of these rising stamps to the next no sample is left out: they are 62.5 µs apart, give or take half of it (log entry 42). -/
def noneMissing : List Nat → Bool
  | a :: b :: xs => decide (b < a + 93750) && noneMissing (b :: xs)
  | _ => true

/-- Every sample of a channel in `(start, finish]` has arrived: none is left out between the last one up to `start`, or `start` itself where the first
one follows within 62.5 µs, and the first one after `finish`, or `finish` itself where it follows the last one within 62.5 µs (R451). -/
def samplesComplete (samples : List (Nat × Int)) (start finish : Nat) : Bool :=
  let stamps := samples.map fun x => x.1
  let before := (stamps.filter fun x => decide (x ≤ start)).foldl max 0
  let inside := stamps.filter fun x => decide (start < x) && decide (x ≤ finish)
  let first := inside.foldl min finish
  let last := inside.foldl max 0
  let after := (stamps.filter fun x => decide (finish < x)).foldl min (finish + 93750)
  !inside.isEmpty && noneMissing inside && (decide (first < start + 62500) || decide (first < before + 93750)) &&
    (decide (finish < last + 62500) || decide (after < last + 93750))

/-- Samples of the remote channels no cycle needs any more are let go. -/
def State.dropRemote (s : State) (k finish : Nat) : State :=
  (List.range 8).foldl (fun s pos =>
    let r := s.selector k pos - 0x40
    if s.selector k pos = 0xFF ∨ s.selLocal k pos = true then s
    else { s with met := { s.met with remote := s.met.remote.set r ((s.met.remote.get r).filter fun x => finish < x.1 + 62500) } }) s

/-- R451: the oldest waiting cycle of a remote system is accumulated when its samples are there, else it counts as a gap once RLAT has
passed, up to which time passes. A lost cycle marks its records all the same (R259). -/
def execRemoteCycleClose (system : Nat) (s : State) : Reply :=
  let k := system % 7
  match (s.metSystem k).closing with
  | [] => .next s
  | c :: rest =>
    if !s.metRuns then .next s
    else
      let all := (List.range 8).all fun pos => s.selector k pos == 0xFF || samplesComplete (s.met.remote.get (s.selector k pos - 0x40)) c.start c.finish
      let s := s.setMetSystem k { s.metSystem k with closing := rest }
      if all then
        let codes := fun (pos : Nat) =>
          ((s.met.remote.get (s.selector k pos - 0x40)).filter fun x => decide (c.start < x.1) && decide (x.1 ≤ c.finish)).map fun x => x.2
        .next (((s.closeCycle k c codes).countCycle k c).dropRemote k c.finish)
      else
        let s := s.elapse (s.ticksUntil ((c.ran + 1000 * u32 s.metBody 0x24) * 2 ^ 32))
        let s := (s.bump Reg.metGaps 31 0 1).markInterval c.finish Mf.remoteGap 344
        let s := s.inInterval c.finish fun i => { i with gaps := i.gaps + 1 }
        let s := s.setFlag Reg.metStatus (8 + k) true
        .next ((s.countCycle k c).dropRemote k c.finish)

/-- R441, R442: 128 samples of the local channels have been taken, the first at `first` ns of device time: the raw-sample ring takes the
channels of WCH, and one packet goes out for each channel of WMASK. -/
def execWaveformSend (first : Nat) (samples : List (List Int)) (s : State) : Reply :=
  if !s.metRuns then .next s
  else
    let batch := samples.take 128
    let wave := u64 s.senseStruct 0x28 % 2 ^ 40
    let len := u32 s.senseStruct 0x30
    let s := if wave = 0 ∨ len = 0 then s else
      batch.foldl (fun s codes =>
        let at_ := s.num Reg.metWavepos
        let words := (List.range 8).flatMap fun c => leBytes 4 (if bit (u8 s.senseStruct 0x34) c then unsigned 32 (codes.getD c 0) else 0)
        (s.dmaWrite (engineWho Init.metDma) (wave + at_) words).setNum Reg.metWavepos ((at_ + 32) % len)) s
    let w := u32 s.metBody 0x14
    .next ((bitsOf (u8 s.metBody 3) 8).foldl (fun s c =>
      let payload := leBytes 2 (u16 s.metBody 0xE + c) ++ leBytes 2 128 ++ leBytes 4 0 ++ leBytes 8 (stampWord first) ++
        slice (batch.flatMap fun codes => leBytes 4 (unsigned 32 (codes.getD c 0))) 0 512
      s.milOriginate (w / 2 ^ 19 % 2) (w / 2 ^ 16 % 8) (w % 2 ^ 14) false payload) s)

/-! ### Heat and cold (R456 to R460) -/

def State.metPulse (s : State) (p : Nat) : MetPulse := s.met.pulses.get p
def State.setMetPulse (s : State) (p : Nat) (x : MetPulse) : State := { s with met := { s.met with pulses := s.met.pulses.set p x } }
def State.metHeat (s : State) (h : Nat) : MetHeat := s.met.heat.get h
def State.setMetHeat (s : State) (h : Nat) (x : MetHeat) : State := { s with met := { s.met with heat := s.met.heat.set h x } }

/-- R457: a pulse on an input has stayed high for MINW × 0.1 ms. -/
def execMeterPulse (input : Nat) (s : State) : Reply :=
  let p := input % 4
  let o := s.pinEntry p
  if s.metRuns ∧ u8 s.metBody o ≠ 0 then
    let x := s.metPulse p
    let edge := s.ranNs - 100000 * u8 s.metBody (o + 1)
    .next ((s.setMetPulse p { newest := some edge, before := x.newest, step := x.step + 1 }).roll (Reg.metPincnt p) 31 0 1)
  else .next s

/-- R458: the flow of an input in L/h at the end of a step, from litres per pulse, the timeout in s and the previous flow. -/
def flowOf (x : MetPulse) (volc : Fp) (timeout : Fp) (previous : Fp) (now : Nat) : Fp :=
  let perHour := fun (t : Fp) => D.div (D.mul volc (D.ofNat 3600)) t
  match x.newest with
  | none => D.zero
  | some n =>
    let since := secondsOf ((now : Int) - n)
    if timeout.lt since then D.zero
    else if x.step = 0 then Fp.min previous (perHour since)
    else match x.before with
      | some b => perHour (Fp.min (secondsOf ((n : Int) - b)) timeout)
      | none => perHour timeout

/-- The temperature of an RTD from its ratio in units of 2^-32 (R456); `none`: SENSOR_FAULT. -/
def State.rtd (s : State) (k ratio : Nat) : Option Fp :=
  let o := s.rtdEntry k
  let r0 := [0, 100, 500, 1000].getD (u8 s.metBody o) 0
  let lead := if u8 s.metBody (o + 1) = 4 then D.zero else s.metFp (o + 8)
  let r := D.sub (D.mul (D.div (D.ofNat ratio) (D.ofNat (2 ^ 32))) (s.metFp (o + 4))) lead
  if r0 = 0 then none else rtdTemperature (D.ofNat r0) r (s.metFp (o + 0xC)) (s.metFp (o + 0x10))

/-- A heat meter's step (R458 to R460). -/
def State.heatMeter (s : State) (h : Nat) (ratios : List Nat) : State :=
  let o := s.heatEntry h
  if u8 s.metBody o = 0 then s
  else
    let x := s.metHeat h
    let pulse := s.metPulse (u8 s.metBody (o + 3) % 4)
    let volc := s.metFp (o + 8)
    let flow := flowOf pulse volc (D.ofNat (u16 s.metBody (o + 6))) (fp x.flow) s.ranNs
    let ts := s.rtd (u8 s.metBody (o + 1) % 4) (ratios.getD (u8 s.metBody (o + 1) % 4) 0)
    let tr := s.rtd (u8 s.metBody (o + 2) % 4) (ratios.getD (u8 s.metBody (o + 2) % 4) 0)
    let fault := ts.isNone || tr.isNone
    let litres := D.mul (D.ofNat pulse.step) volc
    let give := fun (s : State) (kind : Nat) (a : Fp) => s.contribute (0x10 + h) 0 kind (parts a) partsUnit s.now 125000000
    let runs := (s.metFp (o + 0xC)).le flow
    let e := match ts, tr with
      | some a, some b =>
        D.div (D.mul (D.div litres (D.ofNat 1000)) (heatPerVolume a b (if u8 s.metBody (o + 4) = 0 then a else b))) (D.ofNat 3600)
      | _, _ => D.zero
    let s1 := if runs then give s Kd.volume litres else s
    let s1 := if runs && !fault && (s.metFp (o + 0x10)).le (D.div (D.mul e.abs (D.ofNat 3600)) (D.ratio 1 8)) then
        if u8 s.metBody (o + 5) = 1 then give (give s1 Kd.heat e.abs) Kd.hnet e.abs
        else if e.lt D.zero then give (give s1 Kd.cold e.abs) Kd.hnet e
        else give (give s1 Kd.heat e) Kd.hnet e
      else s1
    let s1 := s1.setMetHeat h { flow := bits flow, wh := bits (D.add (fp x.wh) (if runs then e else D.zero)),
                                supply := bits (ts.getD (fp x.supply)), ret := bits (tr.getD (fp x.ret)), fault := fault, faulted := x.faulted || fault }
    if fault then
      let s1 := s1.markInterval s1.now Mf.sensorFault 0
      if x.fault then s1 else s1.raise 342
    else s1

/-- A pulse input that registers count without temperatures (R459). -/
def State.pulseOnly (s : State) (p : Nat) : State :=
  let meter := (List.range 2).find? fun h => u8 s.metBody (s.heatEntry h) == 1 && u8 s.metBody (s.heatEntry h + 3) == p
  let value := fun (off field : Nat) => match meter with
    | some h => s.metFp (s.heatEntry h + off)
    | none => fp (Config.pulseOnly p field)
  let timeout := match meter with
    | some h => D.ofNat (u16 s.metBody (s.heatEntry h + 6))
    | none => fp (Config.pulseOnly p 2)
  let x := s.metPulse p
  let flow := flowOf x (value 8 0) timeout D.zero s.ranNs
  if (value 0xC 1).le flow then
    s.contribute (0x20 + p) 0 Kd.volume (parts (D.mul (D.ofNat x.step) (value 8 0))) partsUnit s.now 125000000
  else s

/-- The values of the heat block record. -/
def State.heatValues (s : State) (h : Nat) : List Fp :=
  let x := s.metHeat h
  if u8 s.metBody (s.heatEntry h) = 0 then List.replicate 8 D.zero
  else
    let ts := fp x.supply
    let tr := fp x.ret
    let dt := D.sub ts tr
    let k := if dt.isZero then D.zero
      else D.div (D.div (heatPerVolume ts tr (if u8 s.metBody (s.heatEntry h + 4) = 0 then ts else tr)) dt) (D.ofNat 3600000)
    [ts, tr, dt, fp x.flow, D.mul (fp x.wh) (D.ofNat 3600), k, D.zero, D.zero]

/-- Every 8 steps: the heat block record. -/
def State.heatBlock (s : State) : State :=
  let vals := (s.heatValues 0) ++ (s.heatValues 1)
  let fault := (s.metHeat 0).faulted || (s.metHeat 1).faulted
  let flags := ofBool (s.flag Reg.timStatus 4) + (if fault then 2 ^ Mf.sensorFault else 0) +
    ((s.intervalOf s.now).flags &&& (2 ^ Mf.currentOnly + 2 ^ Mf.mapChanged))
  let s := s.issueBlock 7 0x10 0 0 flags s.now s.met.heatBlock 0 ((List.range 16).zip vals |>.map fun v => (224 + v.1, v.2))
    (vals.flatMap fun v => leBytes 4 (f32Of v))
  let s := { s with met := { s.met with heatBlock := s.met.heatBlock + 1 } }
  (List.range 2).foldl (fun s h => s.setMetHeat h { s.metHeat h with wh := 0, faulted := (s.metHeat h).fault }) s

/-- R458: time passes to the next multiple of 125 ms of device time, where the heat step ends; `ratios` are the RTD conversions in
units of 2^-32. -/
def execHeatStep (ratios : List Nat) (s : State) : Reply :=
  if !s.metRuns then .next s
  else
    let left := 125000000 * 2 ^ 32 - s.time.units % (125000000 * 2 ^ 32)
    let s := s.elapse ((left + s.incr - 1) / s.incr)
    let s := (List.range 2).foldl (fun s h => s.heatMeter h ratios) s
    let s := (List.range 4).foldl State.pulseOnly s
    let s := (List.range 4).foldl (fun s p => s.setMetPulse p { s.metPulse p with step := 0 }) s
    let s := { s with met := { s.met with steps := s.met.steps + 1 } }
    let s := if s.met.steps % 8 == 0 then s.heatBlock else s
    .next s.retainAgain

/-! ### Billing, journal and registers -/

/-- A remote cycle that ends in the interval in progress still waits. -/
def State.remotePending (s : State) : Bool :=
  (List.range s.nsys).any fun k => (s.metSystem k).closing.any fun c => decide (c.finish ≤ s.met.cur.finish)

/-- R461: the closing condition is met. -/
def State.mayClose (s : State) : Bool :=
  decide (s.met.cur.finish ≤ s.now) && (s.nsys == 0 || s.met.after) && !s.remotePending

/-- R461: the interval's boundary is past and its cycles are in; with system 0 unused, time passes up to the boundary itself. -/
def execBillingClose (s : State) : Reply :=
  let s := if s.metRuns && s.nsys == 0 then s.elapse ((s.met.cur.finish * 2 ^ 32 - s.time.units + s.incr - 1) / s.incr) else s
  .next (if s.metRuns && s.mayClose then s.closeInterval else s)

/-- R462: MET.INTERVAL takes a divisor of 86,400, in force from the next boundary. -/
def execIntervalWrite (who : Who) (value : Word) (s : State) : Reply :=
  .next (s.gated who Reg.metInterval value fun s =>
    if value.toNat ≠ 0 ∧ 86400 % value.toNat = 0 then s.setReg Reg.metInterval value else s)

/-- The spacing of R469 in ns: the width of a pulse, from the last contribution to the register. -/
def State.pulseWidth (s : State) (n : Nat) : Nat :=
  let o := s.metOut n
  let pw := 1000000 * u8 s.metBody (s.outEntry n + 2)
  let est := if o.size = 0 then 2 * pw else max 1 (s.num (Reg.metPconst n)) * o.unit * o.dur / o.size
  max (min pw (est / 2)) 500000

/-- R469, R470: the first pulse that waits starts, no earlier than its spacing allows; where its direction is new, MET_PD changes first
and the pulse starts 1 ms later. Time passes up to the start. -/
def execPulseStart (output : Nat) (s : State) : Reply :=
  let n := output % 4
  let o := s.metOut n
  let st := Reg.metPstat n
  match o.waiting with
  | [] => .next s
  | (neg, k) :: rest =>
    if s.metRuns ∧ s.outMode n ≠ 0 ∧ s.flag st 30 = false then
      let due := match o.started with
        | some t => t + 2 * o.width
        | none => 0
      let s := s.elapse ((due - s.chip.up + 3) / 4)
      let turn := s.outMode n == 2 && s.flag st 31 != neg
      let s := if turn then (s.setFlag st 31 neg).elapse 250000 else s
      let w := if k ≤ 1 then rest else (neg, k - 1) :: rest
      let s := s.setMetOut n { s.metOut n with waiting := w, started := some s.chip.up, width := s.pulseWidth n }
      .next ((s.setFld st 15 0 (waitingPulses w)).setFlag st 30 true)
    else .next s

/-- R469: the pulse's width has passed and the output returns low. -/
def execPulseEnd (output : Nat) (s : State) : Reply :=
  let n := output % 4
  let o := s.metOut n
  match o.started with
  | some t =>
    if s.metRuns ∧ s.flag (Reg.metPstat n) 30 = true then
      .next ((s.elapse ((t + o.width - s.chip.up + 3) / 4)).setFlag (Reg.metPstat n) 30 false)
    else .next s
  | none => .next s

/-- R474: a second on VBAT passes; `irms` are the currents of L1 to L3 as FP32. -/
def execBatterySecond (irms : List Nat) (s : State) : Reply :=
  if s.mode = Mode.vigil ∧ s.pwr.onBattery = true ∧ s.flag Reg.pmuBatctl 0 = true then
    let s := s.elapse 250000000
    let low := ((List.range 3).map fun k => (k, f32.decode (irms.getD k 0))).filter fun p => (s.metFp 0x20).le p.2
    if low.isEmpty then .next s
    else
      let going := if s.met.bm.held then s.met.bm.episode else none
      let t := s.met.bm.gained
      let t : MetTally := if s.met.battery.isSome || going.isSome then t else { t with episodes := t.episodes + 1 }
      let start := match s.met.battery with
        | some b => b
        | none => going.getD ((s.rtc.cellSec - 1) * 1000000000)
      let t := t.take (s.metFp 0x18) low 1000000000
      .next { s with met := { s.met with battery := some start, bm := { s.met.bm with gained := { t with ns := t.ns + 1000000000 } } } }
  else .next s

/-- R476: SAVE_PERIOD seconds have passed, up to which time passes. -/
def execPeriodicSave (s : State) : Reply :=
  if s.metRuns && !s.powerFailing then
    let s := s.elapse ((s.met.savedAt + 1000000000 * s.num Reg.metSavePeriod - s.chip.up + 3) / 4)
    .next ({ s with met := { s.met with savedAt := s.chip.up } }.writeRotating Journal.periodic)
  else .next s

/-- R476: a write of MET.SAVE with KEY 0x4D53 and GO. -/
def execSave (who : Who) (value : Word) (s : State) : Reply :=
  .next (s.gated who Reg.metSave value fun s =>
    if field value 31 16 = 0x4D53 ∧ bit value.toNat 0 = true ∧ s.metRuns = true then s.writeRotating Journal.periodic else s)

/-- R487: MET.CLEAR zeroes MET.GAPS and the OVF bits. -/
def execMetClear (who : Who) (value : Word) (s : State) : Reply :=
  .next (s.gated who Reg.metClear value fun s =>
    if bit value.toNat 0 then (List.range 4).foldl (fun s n => s.setFlag (Reg.metPstat n) 29 false) (s.setNum Reg.metGaps 0) else s)

/-- R488: a read of MET.REG_LO takes the initiator's snapshot of the register. -/
def execMetRegRead (who : Who) (register : Nat) (s : State) : Reply :=
  let j := register % 112
  .next (s.gatedRead who (Reg.metRegLo j) fun s =>
    ({ s with met := { s.met with snaps := s.met.snaps.set (128 * who.id + j) (s.num (Reg.metRegHi j) + 1) } }, s.num (Reg.metRegLo j)))

/-- MET.REG_HI as an initiator reads it: its snapshot, else the register's upper half. -/
def State.regHighRead (s : State) (id j : Nat) : Nat :=
  let v := s.met.snaps.get (128 * id + j)
  if v = 0 then s.num (Reg.metRegHi j) else v - 1

/-- MET.STATUS as a read shows it: SEASONING of a system or of device time. -/
def State.metStatusWord (s : State) : Nat :=
  let seasons := s.flag Reg.timStatus 4 || (List.range s.nsys).any fun k =>
    decide ((s.metSystem k).seen < 3) || decide ((s.metSystem k).blocks < 1) || s.spinFlag (u8 s.metBody (s.systemEntry k)) Spn.seasoning
  (setField (s.reg Reg.metStatus) 27 27 (ofBool seasons)).toNat

/-! ### The power-fail warning (R77 to R82) -/

/-- R77, R78, R82: PFI below 1.20 V; in MOUNT the warning is only counted. -/
def execPowerFailWarning (s : State) : Reply :=
  if s.mode = Mode.vigil ∨ s.flag Reg.pmuPfi 0 = false ∨ s.flag Reg.pmuPfi 1 = true then .next s
  else
    let s := s.bump Reg.pmuPfi 31 16 1
    if s.mode = Mode.mount then .next s
    else
      let s := ((s.setFlag Reg.pmuPfi 1 true).raise 8).blockEvent 0x2A 0x01 0 Act.none 0 0
      .next (if s.fenced Region.link then s else s.setFlag Reg.pnlStatus 29 false).metPowerFail

/-- R479: every 1 ms after a warning on the MRAM path. -/
def execEmergencyRewrite (s : State) : Reply := .next s.emergencyAgain

/-- R80, R480: PFI rises above 1.23 V before any reset. -/
def execPowerFailClear (s : State) : Reply :=
  if s.flag Reg.pmuPfi 1 then .next (((s.setFlag Reg.pmuPfi 1 false).raise 9).metPowerGood) else .next s

end Sys2Proof.Machine
end

