-- ==== Sys2Proof/Machine/Spindle.lean ====
section
/-! DEFINITION. The spindles' events (04): comparator firings, source events, stall, substitution and rejoin, and the snapshot of
a spindle. -/
namespace Sys2Proof.Machine

/-- The words SPN shows of a spindle: ANGLE, REV, TRAV_LO, TRAV_HI, RATE, STATE (R188). -/
def State.spinWords (s : State) (n : Nat) : List Word :=
  let p := s.spin n
  [BitVec.ofNat 32 p.pos, BitVec.ofNat 32 (p.pos / 2 ^ 32), BitVec.ofNat 32 p.travel, BitVec.ofNat 32 (p.travel / 2 ^ 32),
   BitVec.ofInt 32 (s.measuredRate n), s.reg (Reg.spnState n)]

/-- The spindle's source acts: it is used, runs, and its region is not fenced (R177). -/
def State.spinListens (s : State) (n : Nat) : Bool := s.spinRuns n && !s.fenced Region.sense

/-- The spindle closes on its source (R174), at once where no difference is left. -/
def State.startRejoin (s : State) (n : Nat) : State :=
  if (s.spin n).gap = 0 then s.finishRejoin n
  else (s.setSpin n { s.spin n with acc := 0 }).setSpinFlag n Spn.rejoin true

/-- The source's angle is known (R172): seasoning ends and the spindle rejoins. -/
def State.sourceKnown (s : State) (n : Nat) : State :=
  ((s.setSpin n { s.spin n with known := true }).setSpinFlag n Spn.seasoning false).startRejoin n

/-- A source event has come: its time, the spindle's position and the rate measured then are kept for a stall (R169, R170). -/
def State.noteEvent (s : State) (n : Nat) : State :=
  let s := s.noteSpindle n
  let p := s.spin n
  s.setSpin n { p with eventPos := p.pos, eventAt := s.chip.ran, lost := false,
                       eventRate := if s.spinFlag n Spn.rejoin then s.measuredSource n else s.measuredRate n }

/-- A rejoining spindle after its source has moved from the difference `g`: a step that reaches the spindle or carries the source past it ends
the rejoin (R174). -/
def State.afterStep (s : State) (n : Nat) (g d : Int) : State := if closes g d then s.finishRejoin n else s

/-- A source event that moves the source by `d` units: a following spindle moves with it, one that rejoins ends when the
step carries the difference to or past 0 (R174), and one whose source's angle becomes `knows`n rejoins. -/
def State.sourceStep (s : State) (n : Nat) (d : Int) (knows : Bool) : State :=
  let p := s.spin n
  let f := s.follows n
  let s := s.setSpin n (p.moveSource d)
  let s :=
    if f then s.moveSpindle n (s.spin n).gap 0
    else if s.spinFlag n Spn.rejoin then s.afterStep n p.gap d
    else if knows && !p.known then s.sourceKnown n
    else s
  s.noteEvent n

/-- A source that tells its angle (an index, a round tick): a spindle whose difference is `near` takes it at once, one that rejoins goes on or ends,
and any other starts to rejoin (R163, R164). -/
def State.sourceAngle (s : State) (n : Nat) (p : Spindle) (near : Bool) : State :=
  let old := s.spin n
  let s := s.setSpin n p
  if near then s.finishRejoin n
  else if s.spinFlag n Spn.rejoin then s.afterStep n old.gap (p.gap - old.gap)
  else s.sourceKnown n

/-- The spindles of a source and input that listen. -/
def State.spinsOf (s : State) (src input : Nat) : List Nat :=
  (List.range 8).filter fun n => s.spinListens n && s.spindleSrc n == src && s.spindleInput n == input

/-- R165, R166: a software comparator fires: its pending bit is set, its source rises with IE, EN clears with ONCE; while TIM
generates the spindles it does not (R178). -/
def execSoftwareComparatorFire (spindle cmp : Nat) (s : State) : Reply :=
  if spindle < 8 ∧ cmp < 64 ∧ s.fenced Region.sense = false then
    match s.firing 0 spindle cmp with
    | none => .next s
    | some (s, _) =>
      let s := if cmp < 32 then s.setFlag (Reg.spnPendLo spindle) cmp true
        else s.setFlag (Reg.spnPendHi spindle) (cmp - 32) true
      let s := if s.flag (Reg.spnCmpCtl spindle cmp) 27 then s.raise (72 + spindle) else s
      .next (if s.flag (Reg.spnCmpCtl spindle cmp) 26 then s.setFlag (Reg.spnCmpCtl spindle cmp) 31 false else s)
  else .next s

/-- Units of `count` counts of a SHAFT. -/
def shaftUnits (count : Int) (period : Nat) : Int := count * 2 ^ 32 / (max 1 period : Nat)

/-- One count of a SHAFT spindle (R159, R162, R172). -/
def State.shaftCount (s : State) (n : Nat) (reverse : Bool) : State :=
  let p := s.spin n
  let c := if reverse then p.count - 1 else p.count + 1
  let d := shaftUnits c (s.spindlePeriod n) - shaftUnits p.count (s.spindlePeriod n)
  ((s.setSpin n { p with count := c }).setSpinFlag n Spn.reverse reverse).sourceStep n d (!s.spindleIndex n)

/-- R162: an edge advances every SHAFT spindle of the encoder by one count. -/
def execEncoderEdge (enc : Nat) (reverse : Bool) (s : State) : Reply :=
  .next ((s.spinsOf Src.shaft enc).foldl (fun s n => s.shaftCount n reverse) s)

/-- The source's angle is `angle`, in the revolution nearest to the spindle. -/
def Spindle.sourceAt (p : Spindle) (angle : Nat) : Spindle :=
  let d : Nat := (angle + 2 ^ 64 - p.pos % 2 ^ 32) % 2 ^ 32
  let e : Int := if d ≤ 2 ^ 31 then (d : Int) else (d : Int) - 2 ^ 32
  { p with src := unsigned 64 ((p.pos : Int) + e) }

/-- R163, R172: an index at one SHAFT spindle. A substitute's source angle becomes known; any other takes INDEX_ANGLE at once within 4 counts, or sets
INDEX_ERR and rejoins. -/
def State.shaftIndex (s : State) (n : Nat) : State :=
  let p := { (s.spin n).sourceAt (s.spindleIndexAngle n) with count := 0 }
  let near := decide (p.gap.natAbs * s.spindlePeriod n ≤ 4 * 2 ^ 32)
  (if s.spinFlag n Spn.subst then s.sourceAngle n p false
   else (s.setSpinFlag n Spn.indexErr (!near)).sourceAngle n p near).noteEvent n

/-- R163. -/
def execEncoderIndex (enc : Nat) (s : State) : Reply :=
  .next (((s.spinsOf Src.shaft enc).filter fun n => s.spindleIndex n).foldl State.shaftIndex s)

/-- One crossing at a MAINS spindle: the PLL's lock (R161), its step, and the source's angle known at lock (R172). -/
def State.mainsStep (s : State) (n error advance pll : Nat) : State :=
  let p := s.spin n
  let good := if error < 2 ^ 24 then p.goodCycles + 1 else 0
  let locked := if 2 ^ 26 < error then false else s.spinFlag n Spn.locked || decide (8 ≤ good)
  ((s.setSpin n { p with goodCycles := good, pll := pll }).setSpinFlag n Spn.locked locked).sourceStep n advance locked

/-- R161. -/
def execMainsCrossing (channel error advance pll : Nat) (s : State) : Reply :=
  .next ((s.spinsOf Src.mains channel).foldl (fun s n => s.mainsStep n error advance pll) s)

/-- One pulse at a PULSE spindle: its PLL's lock, step and frequency (R172). -/
def State.pulseStep (s : State) (n : Nat) (locked : Bool) (advance pll : Nat) : State :=
  ((s.setSpin n { s.spin n with pll := pll }).setSpinFlag n Spn.locked locked).sourceStep n advance locked

/-- R160. -/
def execSpindlePulse (input : Nat) (locked : Bool) (advance pll : Nat) (s : State) : Reply :=
  .next ((s.spinsOf Src.pulse input).foldl (fun s n => s.pulseStep n locked advance pll) s)

/-- A tick at a ROUND spindle (R164): its origin and period, and a difference that is corrected at once or rejoined. -/
def State.roundStep (s : State) (n start period : Nat) : State :=
  let implied := unsigned 32 (angleOf s.now start (max 1 period))
  let p := { (s.spin n).sourceAt implied with origin := start, period := max 1 period }
  (s.sourceAngle n p (decide (p.gap.natAbs ≤ 2 ^ 24))).noteEvent n

/-- R164. -/
def execRoundTick (port start period : Nat) (s : State) : Reply :=
  .next ((s.spinsOf Src.round port).foldl (fun s n => s.roundStep n start period) s)

/-- R189: a permitted write to SPN.HOSTADV advances its spindle; 0 adds nothing, above 2^31 adds 2^31. -/
def execHostadv (who : Who) (spindle : Nat) (value : Word) (s : State) : Reply :=
  .next (s.gated who (Reg.spnHostadv (spindle % 8)) value fun s =>
    if value = 0#32 ∨ s.spinListens (spindle % 8) = false then s
    else s.sourceStep (spindle % 8) (min (2 ^ 31) value.toNat : Nat) true)

/-- A stall (R170, R182): it is counted, and a spindle that follows, starts or rejoins becomes a substitute; `rate` is the last one measured before
the stall condition began. A substitute whose source had come back goes on unchanged (R173). -/
def State.stallSpindle (s : State) (n : Nat) (rate : Int) : State :=
  let p := s.spin n
  let s := (s.bump (Reg.spnStalls n) 31 0 1).blockEvent 0x28 0x0A n Act.substituted 0 n
  let s := s.setSpin n { p with lost := true }
  let r := s.clampRate n rate
  if s.spinFlag n Spn.rejoin then
    let s := s.setSpin n { s.spin n with sub := (16 * r : Nat), known := false, acc := 0 }
    (s.setSpinFlag n Spn.rejoin false).setSpinFlag n Spn.subst true
  else if s.spinFlag n Spn.subst then s
  else if !p.known then s.setSpinFlag n Spn.subst true
  else
    let goal := p.eventPos + r * 65536 * (s.chip.ran - p.eventAt) / secondUnits
    let s := s.setSpin n { s.spin n with sub := (16 * r : Nat), known := false, acc := 0 }
    ((s.correctSpindle n (diff64 goal p.pos)).noteSpindle n).setSpinFlag n Spn.subst true

/-- When the spindle stalls, in the count of device time since reset, and the last rate measured before the stall condition began (R169): STALL_MS
without a source event, or STALL_MS outside [RMIN, RMAX], whichever comes first. -/
def State.stallDue (s : State) (n : Nat) : Option (Nat × Int) :=
  let src := s.spindleSrc n
  let p := s.spin n
  let limit := s.spindleStallMs n * 1000000 * 2 ^ 32
  if s.spinListens n = false ∨ src = Src.time ∨ (src = Src.host ∧ s.spindleStallMs n = 0) then none
  else
    let silent := if p.lost then none else some (p.eventAt + limit, p.eventRate)
    let wild := if s.spinFlag n Spn.subst && !s.spinFlag n Spn.rejoin then none else p.outSince.map fun t => (t + limit, p.goodRate)
    match silent, wild with
    | some a, some b => if b.1 < a.1 then some b else some a
    | some a, none => some a
    | none, b => b

/-- A stall at this instant, whatever its condition's age (an injection, R678). -/
def State.stallNow (s : State) (n : Nat) : State :=
  if s.spinListens n = false ∨ s.spindleSrc n = Src.time then s
  else s.stallSpindle n (match s.stallDue n with | some (_, rate) => rate | none => (s.spin n).eventRate)

/-- R169, R170: the stall of a spindle that can stall; time passes until its condition has lasted STALL_MS. -/
def execSpindleStall (spindle : Nat) (s : State) : Reply :=
  let n := spindle % 8
  match s.stallDue n with
  | none => .next s
  | some (due, _) =>
    let s := s.elapse (s.ticksUntil due)
    match s.stallDue n with
    | some (due, rate) => .next (if due ≤ s.chip.ran then s.stallSpindle n rate else s)
    | none => .next s

/-- R174: time passes until the difference is 0, and rejoin ends; a difference that time alone does not close stays. -/
def execRejoinEnd (spindle : Nat) (s : State) : Reply :=
  let n := spindle % 8
  if s.spinFlag n Spn.rejoin && s.spinRuns n then
    match s.ticksToClose n with
    | none => .next s
    | some k =>
      let s := s.elapse k
      .next (if s.spinFlag n Spn.rejoin then s.finishRejoin n else s)
  else .next s

/-- R188: a read of SPN.ANGLE takes the snapshot. -/
def execSpnAngleRead (who : Who) (spindle : Nat) (s : State) : Reply :=
  let n := spindle % 8
  .next (s.gatedRead who (Reg.spnAngle n) fun s =>
    let ws := s.spinWords n
    ({ s with spn := { s.spn with snaps := s.spn.snaps.set (8 * who.id + n) ws } }, (s.spin n).pos % 2 ^ 32))

end Sys2Proof.Machine
end

