-- ==== Sys2Proof/Machine/CommitSense.lean ====
section
/-! DEFINITION. What the blocks of the Sense region take from their sections at a load, a patch or a re-admission (04, 10, 11): R146, R147,
R179, R180, R423, R424. -/
namespace Sys2Proof.Machine

/-- A part of a section is byte-identical to what it was before the patch (R147); `before` is the state a patch finds, none at a load or a
re-admission. -/
def State.same (s : State) (before : Option State) (type region index off n : Nat) : Bool := match before with
  | some s0 => slice (s0.body type region index) off n == slice (s.body type region index) off n
  | none => false

/-! ### SPN (04) -/

/-- R180: a spindle whose source a patch changes goes on as a substitute at its rate, and seasons; its stall timeout starts; a TIME source is known
at once. `rate` is in 2^-20 rev/s. -/
def State.changeSource (s : State) (n : Nat) (rate : Int) : State :=
  if s.spindleSrc n = Src.unused then s.setNum (Reg.spnState n) 0
  else
    let p := s.spin n
    let sub := clampInt (16 * s.spindleRmin n : Nat) (16 * s.spindleRmax n : Nat) rate
    let s := s.setSpin n { (default : Spindle) with pos := p.pos, travel := p.travel, hist := p.hist, sub := sub, goodRate := sub / 16, src := p.pos,
                                                    eventPos := p.pos, eventAt := s.chip.ran, eventRate := sub / 16 }
    let s := (s.setFld (Reg.spnState n) 29 25 0).setFlag (Reg.spnState n) Spn.seasoning true
    let s := s.setSpinFlag n Spn.subst true
    if s.spindleSrc n = Src.time then
      (s.setSpin n { s.spin n with known := true,
                                   src := unsigned 64 (angleOf s.now (s.spindleOrigin n) (s.spindlePeriod n)) }).startRejoin n
    else s

/-- SPN.CFG of a spindle. -/
def State.spindleCfg (s : State) (n : Nat) : Nat :=
  if s.spindleSrc n = Src.unused then Src.unused
  else
    let f := u8 s.spindleBody (spindleEntry n + 2)
    s.spindleStallMs n * 2 ^ 16 + f / 4 % 4 * 2 ^ 10 + f / 2 % 2 * 2 ^ 9 + f % 2 * 2 ^ 8 + s.spindleInput n % 16 * 2 ^ 4 + s.spindleSrc n

def State.loadSpindle (before : Option State) (s : State) (n : Nat) : State :=
  let s := s.setNum (Reg.spnCfg n) (s.spindleCfg n)
  match before with
  | none => s
  | some s0 =>
    if s0.spindleSrc n = s.spindleSrc n ∧ s.same before Ty.spindle Region.sense 0 (spindleEntry n) 64 = true then s
    else s.changeSource n (s0.presentRate n)

/-- A comparator takes its assignment, and is armed relative to the present TRAVEL (R180). -/
def State.assignComparator (s : State) (k : Nat) : State :=
  let b := s.spindleBody
  let o := comparatorEntry k
  let n := u8 b o % 8
  let c := u8 b (o + 1) % 64
  let ctl := 2 ^ 31 + 2 ^ 30 + u16 b (o + 8) % 4096 * 2 ^ 12 + u16 b (o + 0xA) % 4096
  if s.num (Reg.spnCmpAngle n c) = u32 b (o + 4) ∧ s.num (Reg.spnCmpCtl n c) = ctl then s
  else
    let s := (s.setNum (Reg.spnCmpAngle n c) (u32 b (o + 4))).setNum (Reg.spnCmpCtl n c) ctl
    { s with spn := { s.spn with due := s.spn.due.filter fun e => e.spindle != n || e.cmp % 64 != c } }

/-- A comparator that the section assigns no more is software's again; its other fields keep their values (R146). -/
def State.freeComparator (s : State) (n c : Nat) : State :=
  if s.flag (Reg.spnCmpCtl n c) 30 && s.consumerOf n c == 0 then s.setFlag (Reg.spnCmpCtl n c) 30 false else s

def State.loadSpindles (s : State) (before : Option State) : State :=
  let s := (List.range 8).foldl (State.loadSpindle before) s
  let s := (List.range 8).foldl (fun s n => (List.range 64).foldl (fun s c => s.freeComparator n c) s) s
  (List.range (u16 s.spindleBody 0)).foldl State.assignComparator s

/-! ### FUS (10) -/

/-- What makes up a graph: its entry, references, models, and the streams it names. -/
def State.graphData (s : State) (g : Nat) : List Byte :=
  let b := s.fusBody
  let nx := s.graphByte g 2
  let refs := (List.range (min 8 (s.graphByte g 3))).map fun k => s.refEntry (s.graphHalf g 0x1C + k)
  slice b (s.graphEntry g) 64 ++ slice b (s.graphWord g 0x18) (3 * up16 (4 * nx * nx) + up16 (4 * nx)) ++
    refs.flatMap fun o =>
      slice b o 16 ++ slice b (u32 b (o + 4)) (up16 (16 * nx) + 64) ++ slice b (streamEntry (u8 b o)) 32

/-- The engine that runs a graph: the lower one of its eligible engines that is up. -/
def State.engineFor (s : State) (g : Nat) : Nat :=
  let e := s.graphByte g 1
  if bit e 0 && (s.flag Reg.fusStatus 30 || !bit e 1 || !s.flag Reg.fusStatus 31) then 0 else if bit e 1 then 1 else 0

def State.graphCfg (s : State) (g engine : Nat) : Nat :=
  2 ^ 31 + ofBool (s.tracker g) * 2 ^ 30 + engine * 2 ^ 28 + (s.graphByte g 2 - 1) % 16 * 2 ^ 24 + (s.graphByte g 3 - 1) % 16 * 2 ^ 16 +
    s.graphByte g 4 % 8 * 2 ^ 12 + s.graphByte g 5 % 64

/-- A graph that changes loses its state and its replays (R424). -/
def State.loadGraph (before : Option State) (s : State) (g : Nat) : State :=
  let keep := match before with
    | some s0 => decide (g < s0.ngraph) && decide (g < s.ngraph) && s0.graphData g == s.graphData g
    | none => false
  if s.ngraph ≤ g then
    (s.setGraph g default).setNum (Reg.fusGcfg g) 0 |>.setNum (Reg.fusGstate g) 0 |>.setNum (Reg.fusGate g) 0 |>.setNum (Reg.fusWait g) 0
  else
    let s := s.setNum (Reg.fusGcfg g) (s.graphCfg g (if keep then s.fld (Reg.fusGcfg g) 29 28 else s.engineFor g))
    let s := (s.setNum (Reg.fusGate g) (s.graphWord g 0x10)).setNum (Reg.fusWait g)
      ((if s.tracker g then 0 else min 8 (s.graphByte g 8)) * 2 ^ 16 + clampNat 1 2048 (s.graphHalf g 6))
    if keep then s else s.clearGraph g

/-- A stream that changes clears its ring and model. -/
def State.loadStream (before : Option State) (s : State) (i : Nat) : State :=
  let keep := match before with
    | some s0 => decide (i < s0.nstream) && decide (i < s.nstream) && s.same before Ty.fusion Region.sense 0 (streamEntry i) 32
    | none => false
  if s.nstream ≤ i then (s.setStream i default).setNum (Reg.fusSstate i) 0
  else if keep then s
  else
    let s := s.setNum (Reg.fusSstate i) (2 ^ 31 + 2 ^ 27 + s.streamKind i % 8 * 2 ^ 24)
    (s.setStream i { (default : FusStream) with last := s.chip.up }).showStream i

/-- The rings of the streams as they stand, by stream: those of unchanged streams keep their records where the section places them now. -/
def State.ringBytes (s : State) : List (Nat × List Byte) :=
  (List.range s.nstream).map fun i => (i, s.bytes (s.ringAddr i 0) (64 * s.streamDepth i))
def State.moveRings (s : State) (s0 : State) : State :=
  if (List.range s0.nstream).all fun i => s0.ringAddr i 0 == s.ringAddr i 0 then s
  else s0.ringBytes.foldl (fun s r =>
    if s.same (some s0) Ty.fusion Region.sense 0 (streamEntry r.1) 32 then s.poke (s.ringAddr r.1 0) r.2 else s) s

def State.loadFusion (s : State) (before : Option State) : State :=
  if !s.variant.hasFus then s
  else
    let up := if before.isSome then s.fld Reg.fusStatus 31 30 else if s.variant.fusion = 2 then 3 else 1
    let s := s.setNum Reg.fusStatus (up * 2 ^ 30 + s.ngraph * 2 ^ 16 + s.nstream)
    let s := (s.setNum Reg.fusDriftTol (u32 s.fusBody 8)).setNum Reg.fusDropout (u8 s.fusBody 6)
    let s := (List.range 64).foldl (State.loadStream before) s
    let s := (List.range 64).foldl (State.loadGraph before) s
    match before with
    | some s0 => s.moveRings s0
    | none => s

/-! ### MET (11) -/

def State.loadCalibration (s : State) : State :=
  let b := s.metBody
  let s := (List.range 8).foldl (fun s c =>
    let o := localEntry c
    ((s.setNum (Reg.metCscale c) (u32 b (o + 4))).setNum (Reg.metCoff c) (u32 b (o + 8))).setNum (Reg.metCphase c) (u16 b (o + 2))) s
  let s := (List.range 4).foldl (fun s k =>
    let o := s.rtdEntry k
    ((s.setNum (Reg.metRgain k) (u32 b (o + 12))).setNum (Reg.metRoff k) (u32 b (o + 16))).setNum (Reg.metRlead k) (u32 b (o + 8))) s
  let s := (List.range s.nsys).foldl (fun s k => (List.range 4).foldl (fun s e =>
    let o := s.systemEntry k + 0x30 + 16 * e
    (((s.setNum (Reg.metPgain k e) (u32 b o)).setNum (Reg.metQgain k e) (u32 b (o + 4))).setNum
      (Reg.metPoff k e) (u32 b (o + 8))).setNum (Reg.metMode k e) (u8 b (o + 12) % 2)) s) s
  (List.range s.nremote).foldl (fun s r =>
    let o := remoteEntry r
    ((s.setNum (Reg.metXscale r) (u32 b (o + 4))).setNum (Reg.metXoff r) (u32 b (o + 8))).setNum (Reg.metXphase r) (u16 b (o + 12))) s

/-- What makes up a system: its entry and those of its channels. -/
def State.systemData (s : State) (k : Nat) : List Byte :=
  let b := s.metBody
  let ch := (List.range 8).map fun i => u8 b (s.systemEntry k + 4 + i)
  slice b (s.systemEntry k) 128 ++ ch.flatMap fun x =>
    if x < 8 then slice b (localEntry x) 16 else if x < 0x80 then slice b (remoteEntry (x - 0x40)) 16 else []

/-- A system that a patch changes seasons again; one it defines starts. -/
def State.loadSystem (before : Option State) (s : State) (k : Nat) : State := match before with
  | none => s.setMetSystem k default
  | some s0 =>
    if s.nsys ≤ k ∨ s0.nsys ≤ k then s.setMetSystem k default
    else if s0.systemData k = s.systemData k then s
    else s.setMetSystem k { s.metSystem k with seen := 0, blocks := 0 }

/-- Heat meters and pulse outputs that a patch changes start afresh. -/
def State.loadHeat (before : Option State) (s : State) (h : Nat) : State := match before with
  | none => { s with met := { s.met with heat := s.met.heat.set h default } }
  | some s0 =>
    if slice s0.metBody (s0.heatEntry h) 32 = slice s.metBody (s.heatEntry h) 32 then s
    else { s with met := { s.met with heat := s.met.heat.set h default } }
def State.loadOut (before : Option State) (s : State) (n : Nat) : State :=
  let s := s.setNum (Reg.metPconst n) (u32 s.metBody (s.outEntry n + 4))
  match before with
  | none => s.setNum (Reg.metPstat n) 0
  | some s0 =>
    if slice s0.metBody (s0.outEntry n) 4 = slice s.metBody (s.outEntry n) 4 then s
    else { s with met := { s.met with outs := s.met.outs.set n default } }.setNum (Reg.metPstat n) 0

def State.loadMetro (s : State) (before : Option State) : State :=
  let b := s.metBody
  let s := s.setFld Reg.metStatus 6 0 (2 ^ s.nsys - 1)
  let s := (s.setNum Reg.metInterval (u32 b 8)).setNum Reg.metSavePeriod (u16 b 0xC)
  let s := (List.range 4).foldl (State.loadOut before) s.loadCalibration
  let s := (List.range 7).foldl (State.loadSystem before) s
  (List.range 2).foldl (State.loadHeat before) s

/-- The Sense region takes its sections. -/
def State.loadSense (s : State) (before : Option State) : State := ((s.loadSpindles before).loadFusion before).loadMetro before

end Sys2Proof.Machine
end

