-- ==== Sys2Proof/Machine/Prf.lean ====
section
/-! DEFINITION. The commands of the profile generator (13): GO, STOP, HALT, homing, steps and samples; and what its registers show. -/
namespace Sys2Proof.Machine

/-! ### What a read shows -/

/-- ASTATE.STATE: 0 IDLE, 1 ACCEL, 2 CRUISE, 3 DECEL, 4 HOMING, 5 CUR_WAIT. -/
def State.axisState (s : State) (n : Nat) : Nat := match (s.axis n).move with
  | none => 0
  | some m => if m.homing then 4 else if s.tick < m.start then 5 else kindAlong m.segs (m.elapsed s.tick)

/-- PRF.ASTATE as a read shows it. -/
def State.axisWord (s : State) (n : Nat) : Nat := (setField (s.reg (Reg.prfAstate n)) 31 29 (s.axisState n)).toNat

/-- PRF.RATE: the present rate as FP32, 0 at standstill and before t = 0 (R539). -/
def State.axisRate (s : State) (n : Nat) : Nat := match (s.axis n).move with
  | none => 0
  | some m => if s.tick < m.start then 0 else f32.encode (Fp.convert f32 (m.rate s.tick))

/-! ### GO (R543) -/

/-- REASON of a refused command: 1 LOST, 2 RANGE, 3 SOURCE, 4 GROUP, 5 BUSY. -/
def PrfReason.lost : Nat := 1
def PrfReason.range : Nat := 2
def PrfReason.source : Nat := 3
def PrfReason.group : Nat := 4
def PrfReason.busy : Nat := 5

def State.axisTarget (s : State) (n : Nat) : Int := signed 32 (s.num (Reg.prfTgt n))

/-- The axes of a mask with a property, as a mask. -/
def maskOf (ns : List Nat) (p : Nat → Bool) : Nat := (ns.filter p).foldl (fun m n => setBit m n) 0

/-- The first reason of R543, in its order, that holds, with the axes it holds for. -/
def State.goRefusal (s : State) (ns : List Nat) : Option (Nat × Nat) :=
  [(PrfReason.source, maskOf ns fun n => s.axisSrc n == 1),
   (PrfReason.lost, maskOf ns s.axisLost),
   (PrfReason.busy, maskOf ns s.axisHoming),
   (PrfReason.range, maskOf ns fun n => s.axisTarget n < s.axisPosMin n || s.axisPosMax n < s.axisTarget n),
   (PrfReason.group, maskOf ns fun n =>
      s.groupOf n < 4 && !((s.groupAxes (s.groupOf n)).all fun k => ns.contains k))].find? fun r => r.2 != 0

/-- PRF.CMDSTAT of an initiator (R557). -/
def State.prfOutcome (s : State) (w : Who) (refused : Bool) (reason mask : Nat) : State :=
  s.setNum (bankOf w.id Reg.prfCmdstat) (ofBool refused * 2 ^ 31 + reason * 2 ^ 24 + mask)

/-- The targets of the named axes start, those of a group together (R541). -/
def State.goStart (s : State) (ns : List Nat) : State :=
  let s := (List.range 4).foldl (fun s g =>
    let ms := ns.filter fun n => s.groupOf n == g
    if ms.isEmpty then s else s.aimGroup g (ms.map fun n => (n, s.axisTarget n))) s
  (ns.filter fun n => s.groupOf n == 15).foldl (fun s n => s.aimSingle n (s.axisTarget n)) s

/-- R543: GO, refused as a whole or started; an unused axis has no target to start (log entry 37). -/
def execAxisGo (who : Who) (value : Word) (s : State) : Reply :=
  .next (s.gated who Reg.prfGo value fun s =>
    let ns := (bitsOf value.toNat 16).filter s.axisUsed
    match s.goRefusal ns with
    | some r => (s.prfOutcome who true r.1 r.2).raise 244
    | none =>
      let s := s.prfOutcome who false 0 (maskOf ns fun _ => true)
      if s.prfRuns then s.goStart ns else s)

/-- R549: PRF.STOP. -/
def execAxisStop (who : Who) (value : Word) (s : State) : Reply :=
  .next (s.gated who Reg.prfStop value fun s => s.stopAxes (value.toNat % 65536))

/-- R547: PRF.HALT. -/
def execAxisHalt (who : Who) (value : Word) (s : State) : Reply :=
  .next (s.gated who Reg.prfHalt value fun s => s.haltAxes (value.toNat % 65536))

/-! ### Homing and SET_POS (R552, R553) -/

/-- The homing move: HOME_MAX steps at HOME_RATE. -/
def State.homeMove (s : State) (n : Nat) : Move :=
  let rate := s.axisFp n 0x1C
  let d := s.axisHomeMax n
  { segs := [{ dur := D.div (D.ofNat d) rate, v := rate, a := D.zero, j := D.zero }], scale := Fp.one,
    start := s.tick + s.leadOf n, frac := D.zero, dist := d, done := 0, forward := !s.axisFlag n 2, v0 := s.axisFp n 8,
    amax := s.axisFp n 0x10, homing := true, group := 15, next := none }

/-- R552: homing begins; an axis that moves refuses it with BUSY (DESIGN CHOICE, log entry 37). -/
def State.startHome (s : State) (w : Who) (n : Nat) : State :=
  if s.axisMoving n then s.prfOutcome w true PrfReason.busy (2 ^ n)
  else
    let s := s.prfOutcome w false 0 (2 ^ n)
    if s.prfRuns && s.axisUsed n then s.launch n (s.homeMove n) else s

/-- R553. -/
def State.setPos (s : State) (w : Who) (n : Nat) : State :=
  if s.axisMoving n then s.prfOutcome w true PrfReason.busy (2 ^ n)
  else ((s.prfOutcome w false 0 (2 ^ n)).setAxisPos n (s.axisTarget n)).setLost n false

/-- A write of PRF.HOME with KEY 0x484D (R556): SET_POS, then HOME. -/
def State.homeWrite (s : State) (w : Who) (n : Nat) (value : Word) : State :=
  if field value 31 16 ≠ 0x484D then s
  else
    let s := if bit value.toNat 1 then s.setPos w n else s
    if bit value.toNat 0 then s.startHome w n else s

/-- R552: PRF.HOME with HOME. -/
def execAxisHome (who : Who) (axis : Nat) (value : Word) (s : State) : Reply :=
  .next (s.gated who (Reg.prfHome (axis % 16)) value fun s => s.homeWrite who (axis % 16) value)

/-- R553: PRF.HOME with SET_POS. -/
def execSetPos (who : Who) (axis : Nat) (value : Word) (s : State) : Reply :=
  .next (s.gated who (Reg.prfHome (axis % 16)) value fun s => s.homeWrite who (axis % 16) value)

/-- R552: the home switch reaches its active level while the axis homes. -/
def execHomeSwitch (axis : Nat) (s : State) : Reply :=
  let n := axis % 16
  if s.axisHoming n ∧ s.prfRuns = true then
    let s := (s.setAxis n { s.axis n with move := none, since := s.tick }).setAxisPos n (s.axisHomePos n)
    let s := ((s.setFlag (Reg.prfAstate n) 27 true).setLost n false).raise 242
    .next (s.startHeld n none)
  else .next s

/-! ### Steps -/

/-- The last step of a homing move: HOME_MAX steps have passed (R552). -/
def State.homeFailed (s : State) (n : Nat) : State :=
  (((s.setAxis n { s.axis n with move := none, since := s.tick }).showAxis n).raise 243).startHeld n none

/-- R538: step `done + 1` at its tick. An axis with OUT STEP gives a pulse, which PRF.STEPS counts. -/
def State.stepAxis (s : State) (n : Nat) (m : Move) : State :=
  let s := s.elapse (m.start + m.tickOf (m.done + 1) - s.tick)
  let a := s.axis n
  let m := { m with done := m.done + 1 }
  let s := s.setAxis n { a with move := some m, lastStep := s.tick, interval := if a.lastStep = 0 then 0 else s.tick - a.lastStep }
  let s := s.setAxisPos n (s.axisPos n + (if m.forward then 1 else -1))
  let s := if s.axisOut n = 0 then s.roll (Reg.prfSteps n) 31 0 1 else s
  if m.done < m.dist then s
  else if m.homing then s.homeFailed n
  else s.endMove n m.next

/-- R538: the step timer of an axis expires. -/
def execStepEmit (axis : Nat) (s : State) : Reply :=
  let n := axis % 16
  match (s.axis n).move with
  | none => .next s
  | some m => .next (if s.prfRuns && decide (m.done < m.dist) then s.stepAxis n m else s)

/-- R540: IDLE ms at standstill. -/
def execCurrentReduce (axis : Nat) (s : State) : Reply :=
  let n := axis % 16
  let idle := s.fld (Reg.prfIdle n) 15 0
  if s.prfRuns ∧ s.axisUsed n = true ∧ s.axisMoving n = false ∧ idle ≠ 0 ∧ s.flag (Reg.prfAstate n) 26 = false then
    let s := s.elapse ((s.axis n).since + 250000 * idle - s.tick)
    .next (s.setFlag (Reg.prfAstate n) 26 true)
  else .next s

/-- R548: SAMPLE µs after the last time, up to which time passes, an axis with OUT LATCH presents its position. -/
def execPrfSample (axis : Nat) (s : State) : Reply :=
  let n := axis % 16
  if s.prfRuns ∧ s.axisUsed n = true ∧ s.axisOut n = 1 then
    let s := s.elapse ((s.axis n).sampled + usTicks (u16 s.controlStruct (axisEntry n + 0x36)) - s.tick)
    let s := s.setAxis n { s.axis n with sampled := s.tick }
    .next (s.latchPresentAll [(s.axisLch n, unsigned 32 (s.axisPos n), 0)])
  else .next s

/-! ### Modes and takeover -/

/-- R551: at the end of MOUNT every axis carries POSITION_LOST. -/
def State.axesLost (s : State) : State := (List.range s.variant.axes).foldl (fun s n => s.setLost n true) s

/-- R555: an axis is restored at standstill with POS, target, HOMED, POSITION_LOST and REDUCED as at the cut; a STEP axis that
moved there has lost its position. -/
def State.restoreAxis (s : State) (n : Nat) (pos target : Int) (homed lost reduced still : Bool) : State :=
  let a := s.axis n
  let s := s.setAxis n { a with move := none, held := none, target := target, since := s.tick }
  let s := ((s.setAxisPos n pos).setFlag (Reg.prfAstate n) 27 homed).setFlag (Reg.prfAstate n) 26 reduced
  s.setLost n (lost || (!still && s.axisOut n == 0))

end Sys2Proof.Machine
end

