-- ==== Sys2Proof/Machine/CommitControl.lean ====
section
/-! DEFINITION. What the blocks of the Control region take from their sections at a load, a patch or a re-admission (08, 09, 13, 16): R120,
R146, R147, R342, R365, R398, R636, R711. -/
namespace Sys2Proof.Machine

/-! ### TSK (08) -/

/-- The bytes of a blob reference. -/
def State.blob (s : State) (ref n : Nat) : List Byte := slice (s.body Ty.task Region.control (ref / 2 ^ 24 % 64)) (ref % 2 ^ 24) n

def State.programCode (s : State) (p : Nat) : List Byte := s.blob (u32 s.taskBody (programEntry p + 4)) (u32 s.taskBody (programEntry p + 8))
def State.programInit (s : State) (p : Nat) : List Byte := s.blob (u32 s.taskBody (programEntry p + 0xC)) (u32 s.taskBody (programEntry p + 0x10))

/-- What makes up a program: its entry, its images, its tasks by number, and their lists. -/
def State.programData (s : State) (p : Nat) : List Byte :=
  let b := s.taskBody
  let lists := fun first n => (List.range n).flatMap fun j => slice b (listEntry b (first + j)) 8
  slice b (programEntry p) 48 ++ s.programCode p ++ s.programInit p ++ (s.tasksOf p).flatMap fun t =>
    let d := s.taskDef t
    BitVec.ofNat 8 t :: slice b (taskEntry b t) 64 ++ lists d.inIdx d.nin ++ lists d.outIdx d.nout

/-- R711: the process image moves to its new place; signals from the old NSIG upward start with the MOUNT value. -/
def State.moveImage (s : State) (before : Option State) : State := match before with
  | none => s.poke s.imageBase ((List.range s.nsig).flatMap fun _ => signalAtMount)
  | some s0 =>
    if s0.imageBase = s.imageBase ∧ s0.nsig = s.nsig then s
    else
      let old := s.bytes s0.imageBase (8 * min s0.nsig s.nsig)
      s.poke s.imageBase (old ++ (List.range (s.nsig - s0.nsig)).flatMap fun _ => signalAtMount)

/-- TSK.TCFG of a task. -/
def State.taskCfg (s : State) (t : Nat) : Nat :=
  let d := s.taskDef t
  2 ^ 31 + ofBool d.event * 2 ^ 30 + d.prio % 16 * 2 ^ 24 + d.prog % 16 * 2 ^ 20 + d.group % 64 * 2 ^ 14 + d.elig % 256

/-- A task starts anew: on its initial core, its state area zeroed, its counters 0, its outputs initialised (R342, R365). -/
def State.freshTask (s : State) (t : Nat) : State :=
  let d := s.taskDef t
  let s := s.setTask t { (default : TaskRun) with core := firstCore d.elig }
  let s := ((s.clearTask t).setNum (Reg.tskLastStart t) 0).setNum (Reg.tskTstate t) 0
  let s := (s.setNum (Reg.tskTcfg t) (s.taskCfg t)).showTask t
  (s.poke (s.stateArea t) (List.replicate d.stateLen 0#8)).initOutputs t

/-- Contents that the running Blank places: those for LPDDR5 are not written before training has succeeded (R53). -/
def State.place (s : State) (a : Nat) (bs : List Byte) : State := if Addr.ddr ≤ a ∧ s.flag Reg.sysMemsize 31 = false then s else s.poke a bs

/-- The code and the initial data of a program take their places. -/
def State.placeProgram (s : State) (p : Nat) : State :=
  let b := s.taskBody
  let o := programEntry p
  (s.place (u64 b (o + 0x18)) (s.programCode p)).place (u64 b (o + 0x20)) (slice (s.programInit p) 0 (u32 b (o + 0x14)))

/-- R53: training has succeeded, and what the Blank places in LPDDR5 is written there. -/
def State.placeInDdr (s : State) : State :=
  (List.range s.nprog).foldl (fun s p =>
    let b := s.taskBody
    let o := programEntry p
    let s := if Addr.ddr ≤ u64 b (o + 0x18) then s.place (u64 b (o + 0x18)) (s.programCode p) else s
    if Addr.ddr ≤ u64 b (o + 0x20) then s.place (u64 b (o + 0x20)) (slice (s.programInit p) 0 (u32 b (o + 0x14))) else s) s

/-- A program that is new or changes: its code and data are loaded, its mode is START_RUN's, and its tasks start anew (08, "Coincidences"). -/
def State.freshProgram (s : State) (p : Nat) : State :=
  let b := s.taskBody
  let o := programEntry p
  let flags := u8 b o
  let s := s.placeProgram p
  let s := s.setNum (Reg.tskPmode p) (ofBool (bit flags 0) * 2 ^ 10 + ofBool (bit flags 1))
  (s.tasksOf p).foldl State.freshTask s

/-- A program a patch leaves as it is keeps mode, state and counters (R147). -/
def State.loadProgram (before : Option State) (s : State) (p : Nat) : State :=
  let keep := match before with
    | some s0 => decide (p < s0.nprog) && s0.programData p == s.programData p
    | none => false
  if s.nprog ≤ p then s.setNum (Reg.tskPmode p) 0
  else if keep then s
  else
    let old := s.programMode p
    let s := s.freshProgram p
    if before.isSome && old != s.programMode p then s.raise 194 else s

/-- Task numbers the section leaves undefined. -/
def State.noTask (s : State) (t : Nat) : State :=
  (((s.setTask t default).clearTask t).setNum (Reg.tskLastStart t) 0).setNum (Reg.tskTcfg t) 0 |>.setNum (Reg.tskTstate t) 0

def State.loadTasks (s : State) (before : Option State) : State :=
  let s := if s.nsig = 0 then s else s.moveImage before
  let s := (s.setFld Reg.tskStatus 28 24 s.nprog).setFld Reg.tskStatus 23 16 s.ntask
  let s := (List.range 16).foldl (State.loadProgram before) s
  let s := ((List.range s.variant.tasks).filter fun t => s.ntask ≤ t).foldl State.noTask s
  s.showCores

/-! ### CLE (09) -/

/-- A loop's entry, as far as the slot is defined. -/
def State.loopBytes (s : State) (l : Nat) : List Byte := if l < s.nloop then slice s.loopBody (loopEntry l) 448 else []
/-- The entry of the group a loop is in. -/
def State.loopGroupBytes (s : State) (l : Nat) : List Byte :=
  if s.loopBlocks l = 0 ∨ s.loopGroup l = 0xFF then [] else slice s.loopBody (groupEntry s.loopBody (s.loopGroup l)) 16

/-- R146: an unchanged loop takes the section's set-points, enable, coefficients and limits again; its histories stay (R147). A change of its
group's entry makes its next execution a first one. -/
def State.retuneLoop (s : State) (l : Nat) (first : Bool) : State :=
  let k := s.cleLoop l
  let bs := (k.blocks.zipIdx).map fun q =>
    let d := s.blockAtLoad l q.2
    { q.1 with k := d.k, s := d.s, lo := d.lo, hi := d.hi }
  let s := s.setCleLoop l { k with blocks := bs }
  let s := (List.range 4).foldl (fun s i => s.setNum (Reg.cleLp l i) (u32 s.loopBody (loopEntry l + 0x20 + 4 * i))) s
  let on := decide (s.loopBlocks l ≠ 0) && bit (s.loopByte l 1) 0
  let starts := on && !s.loopEnabled l
  let s := s.setFlag (Reg.cleLen (l / 32)) (l % 32) on
  if first || starts then s.cleFirst l else s

def State.loadLoop (before : Option State) (s : State) (l : Nat) : State := match before with
  | none => s.cleLoadLoop l
  | some s0 =>
    if s0.loopBytes l = s.loopBytes l then s.retuneLoop l (s0.loopGroupBytes l != s.loopGroupBytes l) else s.cleLoadLoop l

def State.loadLoopGroup (before : Option State) (s : State) (g : Nat) : State :=
  let bytes := fun (s : State) => if g < s.ngroup then slice s.loopBody (groupEntry s.loopBody g) 16 else []
  let keep := match before with
    | some s0 => bytes s0 == bytes s
    | none => false
  if keep then s
  else if s.ngroup ≤ g then s.setNum (Reg.cleGrp g) 0
  else s.setNum (Reg.cleGrp g) (2 ^ 31 + ofBool (s.groupPartial g) * 2 ^ 29 + s.groupSize g % 16 * 2 ^ 16)

/-- An APPLY that is pending at a patch is discarded (09, "Coincidences"). -/
def State.dropTunes (s : State) : State :=
  let ts := s.cle.tunes
  let s : State := { s with cle := { s.cle with tunes := [] } }
  ts.foldl (fun s t => s.setNum (bankOf t.who Reg.cleTstat) (if s.loopBlocks t.loop ≤ t.block then Tune.notDefined else 0)) s

def State.loadLoops (s : State) (before : Option State) : State :=
  let s := ((List.range s.variant.loops).foldl (State.loadLoop before) s).dropTunes
  let s := (List.range 32).foldl (State.loadLoopGroup before) s
  (s.setFld Reg.cleStatus 24 16 s.nloop).setFld Reg.cleStatus 5 0 s.ngroup

/-! ### PRF (13) -/

/-- PRF.ACFG of an axis. -/
def State.axisCfg (s : State) (n : Nat) : Nat :=
  if s.axisUsed n then
    2 ^ 31 + ofBool (s.axisOut n == 1) * 2 ^ 30 + ofBool (s.axisSrc n == 1) * 2 ^ 29 + ofBool (s.axisFlag n 4) * 2 ^ 28 + s.groupOf n * 2 ^ 24 + s.axisLch n
  else 0

def State.loadAxis (s : State) (n : Nat) : State :=
  (s.setNum (Reg.prfAcfg n) (s.axisCfg n)).setNum (Reg.prfIdle n) (u16 s.controlStruct (axisEntry n + 0x30))

/-! ### MBX (16) -/

/-- A channel is emptied (R636): its FULL bit falls; SEQ goes on. -/
def State.emptyChannel (s : State) (c : Nat) : State :=
  let s := (s.setFlag (Reg.mbxHdr c) 31 false).setFlag (Reg.mbxFullLo + 4 * (c / 32)) (c % 32) false
  if bit (s.channelFlags c) 0 then s.poke32 (Addr.stock + s.channelStore c) (s.num (Reg.mbxHdr c)) else s

/-- R636: at entry to RUN from STANDBY, every channel is emptied and MBX.DB cleared. -/
def State.emptyMailboxes (s : State) : State :=
  (((List.range 64).foldl State.emptyChannel s).setNum Reg.mbxDbLo 0).setNum Reg.mbxDbHi 0

def State.loadChannels (s : State) (before : Option State) : State := match before with
  | none => s
  | some s0 =>
    (List.range 64).foldl (fun s c =>
      if slice s0.controlStruct (channelEntry c) 16 = slice s.controlStruct (channelEntry c) 16 then s else s.emptyChannel c) s

/-! ### The region -/

/-- R120: a full load pairs the cores. -/
def State.loadPairs (s : State) : State := s.setFld Reg.sysPairs 3 0 (pairsOf s.blk.running)

/-- The Control region takes its sections. -/
def State.loadControl (s : State) (before : Option State) : State :=
  let s := if before.isSome then s else s.loadPairs
  let s := ((s.loadTasks before).loadLoops before)
  ((List.range s.variant.axes).foldl State.loadAxis s).loadChannels before

end Sys2Proof.Machine
end

