-- ==== Sys2Proof/Machine/CommitKeep.lean ====
section
/-! DEFINITION. What the blocks of the Keep region take from their sections at a full load (02, 05, 12): R69, R113, R127, R489, R511, R523. -/
namespace Sys2Proof.Machine

/-- R113 and the limits of Keep STRUCT at the supply controller. -/
def State.loadPower (s : State) : State :=
  let b := s.keepStruct
  let s := (s.setFlag Reg.pmuBatctl 0 (s.keepFlag 4)).setFlag Reg.pmuPfi 0 (!s.keepFlag 5)
  (s.setFld Reg.pmuPhases 3 0 (u8 b 8)).setFlag Reg.pmuPhases 4 (s.keepFlag 1)

/-- WRD.HCFG of a holder. -/
def State.holderCfg (s : State) (h : Nat) : Nat :=
  if h < s.wardHolders then
    let o := holderEntry h
    2 ^ 31 + u8 s.wardBody (o + 1) % 2 * 2 ^ 30 + u8 s.wardBody o % 8 * 2 ^ 24 + u16 s.wardBody (o + 2)
  else 0

def State.loadWard (s : State) : State :=
  let s := (List.range 64).foldl (fun s h => s.setNum (Reg.wrdHcfg h) (s.holderCfg h)) s
  let s := s.setFlag Reg.wrdStatus 30 (s.wardSpindle == 0xFF)
  let bodies := (List.range 4).foldl (fun (m : Tab (List Byte)) r => m.set r (s.body Ty.ward r 0)) Tab.empty
  ({ s with ward := { (default : WardState) with start := s.chip.ran, bodies := bodies } }).setFld Reg.adpEnable 4 0 (s.adpByte 0)

/-- A Latch channel from the commit on: its registers, and SAFEVAL driven (R523, R693). -/
def State.loadChannel (s : State) (c : Nat) : State :=
  if s.latchUsed c then
    let s := (s.setFlag (Reg.latCstate c) 31 true).setFld (Reg.latHold c) 7 0 (u8 s.latchBody (latchEntry c + 6))
    s.latchOutput c (s.latchSafeval c)
  else s

def State.loadLatch (s : State) : State :=
  let s := (s.setFld Reg.latStatus 6 0 s.nlatch).setNum Reg.latWindow (u32 s.latchBody 4)
  (List.range s.variant.latch).foldl State.loadChannel s

/-- HNG takes its section, or the values of a set of one (R489). -/
def State.loadHinge (s : State) : State :=
  let b := s.hingeBody
  let s := ((s.setFld Reg.hngStatus 23 20 s.ownRank).setFld Reg.hngStatus 19 16 s.ownUnit).setFld Reg.hngStatus 13 0 s.ownSetid
  let s := (s.setNum Reg.hngCkptPeriod (max 1 (u8 b 0xA))).setNum Reg.hngProofInterval (u32 b 0x10)
  let s := s.setNum Reg.hngRevertHold (max 10 (u32 b 0x14))
  let s := s.setNum Reg.hngCksize (imageSize (imageItems s.blk.running s.variant b))
  let s := s.setNum Reg.hngGapbound ((32 * (3 * s.hbPeriod + 51000) + s.ckmax + 31999) / 32000)
  let s := (List.range 2).foldl (fun s p =>
    if s.peerUsed p then s.setNum (Reg.hngPeer p) (2 ^ 31 + s.peerRank p % 16 * 2 ^ 20 + s.peerUnit p % 16 * 2 ^ 16) else s) s
  { s with hinge := { s.hinge with lastHealth := s.chip.up, listen := s.chip.up } }

/-- R127: the generations and the digest of the image. -/
def State.loadGenerations (s : State) (image digest : List Byte) : State :=
  let s := s.setNum Reg.blkGen (u32 image 0x14)
  let s := (List.range 4).foldl (fun s r => s.setNum (Reg.blkRgen0 + 4 * r) (u32 image (0x18 + 4 * r))) s
  (List.range 16).foldl (fun s n => s.setNum (Reg.blkDigest n) (u32 digest (4 * n))) s

/-- The time domain class and SELF_ACCEPT of Keep STRUCT (R205, R208, R212). -/
def State.loadDomain (s : State) : State := (s.setFlag Reg.timStatus 10 (u8 s.keepStruct 1 == 1)).setFlag Reg.timStatus 9 (s.keepFlag 2)

/-- The Keep region takes its sections. -/
def State.loadKeep (s : State) : State := s.loadDomain.loadPower.loadWard.loadLatch.loadHinge

end Sys2Proof.Machine
end

