-- ==== Sys2Proof/Machine/MilLink.lean ====
section
/-! DEFINITION. The life of a Milio link (15): training, LINKINFO, retry, key exchange, and the software transmit rings (R581 to R601). -/
namespace Sys2Proof.Machine

/-! ### Transmit rings (15, "Software rings") -/

/-- The DMA of a port, for a virtual channel. -/
def milWho (port vc : Nat) : Who := { id := Init.milDma + port, mmode := false, vc := vc }
def State.vcRings (s : State) (port vc : Nat) : Bool := bit (s.vcFlags port vc) 3
def State.txRing (s : State) (port vc : Nat) : Nat × Nat := (Addr.stock + u32 s.linkStruct (vcEntry port vc + 4), u16 s.linkStruct (vcEntry port vc + 0xC))
def State.rxRing (s : State) (port vc : Nat) : Nat × Nat := (Addr.stock + u32 s.linkStruct (vcEntry port vc + 8), u16 s.linkStruct (vcEntry port vc + 0xE))
/-- STATUS of a transmit entry. -/
def Tx.sent : Nat := 0
def Tx.noRoute : Nat := 1
def Tx.linkDown : Nat := 2
def Tx.denied : Nat := 3
def Tx.flushed : Nat := 4

/-- A ring entry, by its bytes: address, flags, LEN, DST. -/
def entryAddr (e : List Byte) : Nat := leNat (slice e 0 5)
def entryFlag (e : List Byte) (b : Nat) : Bool := bit (u8 e 5) b
def entryLen (e : List Byte) : Nat := u16 e 6

/-- Entries of a ring between two indices. -/
def ringFill (n head tail : Nat) : Nat := if n = 0 then 0 else (tail % n + n - head % n) % n

def State.txFill (s : State) (port vc : Nat) : Nat :=
  if s.vcRings port vc then ringFill (s.txRing port vc).2 (s.num (Reg.milTxhead port vc)) (s.num (Reg.milTxtail port vc)) else 0
def State.txHeadAddr (s : State) (port vc : Nat) : Nat :=
  let r := s.txRing port vc
  r.1 + 16 * (s.num (Reg.milTxhead port vc) % max 1 r.2)

/-- R598: the entry at the head completes. -/
def State.completeTx (s : State) (port vc status : Nat) : State :=
  let a := s.txHeadAddr port vc
  let ie := bit (s.byte (a + 5)).toNat 1
  let n := max 1 (s.txRing port vc).2
  let e := s.bytes a 16
  let s := if status = Tx.sent then s.charge (milWho port vc) (entryAddr e) (entryLen e) else s
  let s := s.dmaWrite (milWho port vc) (a + 0xA) (leBytes 2 (0x8000 + status))
  let s := s.setNum (Reg.milTxhead port vc) ((s.num (Reg.milTxhead port vc) + 1) % n)
  if ie then s.raise (352 + 16 * port + 4) else s

/-- The packet of the entry at the head, or why it cannot be read. -/
def State.headPacket (s : State) (port vc : Nat) : Except (State × Nat) MilPacket :=
  let e := s.bytes (s.txHeadAddr port vc) 16
  let n := entryLen e
  let c := s.rangeCode (milWho port vc) (entryAddr e) n false
  if (s.badWordIn (s.txHeadAddr port vc) 16).isSome then
    .error (s.engineError (milWho port vc) (s.txHeadAddr port vc) Code.uncorrectable, Tx.denied)
  else if n = 0 ∨ 2048 < n then .error (s, Tx.denied)
  else if c ≠ Code.ok then .error (s.engineError (milWho port vc) (entryAddr e) c, Tx.denied)
  else
    .ok { dst := if entryFlag e 0 then 0 else u16 e 8 % 2 ^ 14, src := s.blk.node, vc := vc, hops := u8 s.linkStruct 7, bcast := entryFlag e 0,
          payload := s.bytes (entryAddr e) n }

/-- Serve the transmit ring of a channel, in turn with the hardware users' packets that wait on its link (R597, R598, R601). -/
def serveRing (port vc : Nat) : Nat → State → State
  | 0, s => s
  | fuel + 1, s =>
    if s.txFill port vc = 0 then s
    else
      match s.headPacket port vc with
      | .error (s, c) => serveRing port vc fuel (s.completeTx port vc c)
      | .ok p =>
        if p.bcast || p.dst == s.blk.node then
          serveRing port vc fuel ((s.milOriginate port vc p.dst p.bcast p.payload).completeTx port vc Tx.sent)
        else
          match s.route p.dst with
          | (s, .none) => serveRing port vc fuel (s.completeTx port vc Tx.noRoute)
          | (s, .down) => serveRing port vc fuel (s.completeTx port vc Tx.linkDown)
          | (s, .via l) =>
            match (s.milVc l vc).waiting with
            | h :: rest =>
              if (s.milVc l vc).ringTurn then
                if s.milReady l p then
                  let s := s.setMilVc l vc { s.milVc l vc with ringTurn := false }
                  serveRing port vc fuel (((s.milTransmit l p).milRekey l vc).completeTx port vc Tx.sent)
                else s
              else if s.milReady l h then
                serveRing port vc fuel (((s.setMilVc l vc { s.milVc l vc with waiting := rest, ringTurn := true, since := s.chip.up }).milTransmit l h).milRekey l vc)
              else s
            | [] =>
              if s.milReady l p then serveRing port vc fuel (((s.milTransmit l p).milRekey l vc).completeTx port vc Tx.sent) else s

/-- Everything that waits on a link and may go, goes. -/
def State.pumpLink (s : State) (l : Nat) : State :=
  let s := ([0, 1] : List Nat).foldl (fun s p => (List.range 6).foldl (fun s v =>
    serveRing p v (s.txFill p v + (List.range 4).foldl (fun n k => n + (s.milVc k v).waiting.length) 0) s) s) s
  (List.range 9).foldl (fun s v =>
    let s := milPump l v (s.milVc l v).waiting.length s
    let stuck := decide (0 < (s.milVc l v).waiting.length)
    if v < 8 ∧ s.flag (Reg.milVstate (l / 2) v) 31 = true ∧ stuck = false then s.setFlag (Reg.milVstate (l / 2) v) 31 false else s) s

/-- Entries outstanding at a Link patch that changes the rings of their port complete with FLUSHED (R604). -/
def State.flushPort (s : State) (port : Nat) : State :=
  (List.range 6).foldl (fun s v =>
    let s := (List.range (s.txFill port v)).foldl (fun s _ => s.completeTx port v Tx.flushed) s
    (((s.setNum (Reg.milTxhead port v) 0).setNum (Reg.milTxtail port v) 0).setNum (Reg.milRxhead port v) 0).setNum (Reg.milRxtail port v) 0) s

/-! ### Link states (R581, R591, R600) -/

/-- ENABLE of a link in MIL.CTRL. -/
def State.linkEnabled (s : State) (l : Nat) : Bool := s.linkExists l && s.flag (Reg.milCtrl (l / 2)) (8 + l % 2)

/-- A link changes state; leaving UP raises LINK_DOWN, entering it LINK_UP. -/
def State.linkTo (s : State) (l st : Nat) : State :=
  let old := s.linkState l
  let s := s.setLinkState l st
  let s := if old = st then s else s.setMilLink l { s.milLink l with since := s.chip.up }
  if old = st then s
  else if st = Link.up then s.raise (s.milSource l 0)
  else if old = Link.up then s.raise (s.milSource l 1)
  else s

/-- A link starts training, or is off. The packets held for retry stay. -/
def State.trainLink (s : State) (l : Nat) : State :=
  let s := s.setMilLink l { s.milLink l with told := false, heard := false }
  if s.linkEnabled l then s.linkTo l Link.train else s.linkTo l Link.off

/-- A link that starts anew: no packets, every credit (R584). -/
def State.freshLink (s : State) (l : Nat) : State :=
  let s := s.setMilLink l default
  let s := (List.range 9).foldl (fun s v => (s.setMilVc l v { (default : MilVc) with credits := s.vcCred l v }).showVc l v) s
  s.trainLink l

/-- Every configured link starts (15, the introduction). -/
def State.startLinks (s : State) : State := ((List.range 4).filter s.linkExists).foldl State.freshLink s

/-- The packets of a link that goes DOWN: unicasts with an UP alternate go there, in order; the rest are dropped (R601). -/
def State.rerouteLink (s : State) (l : Nat) : State :=
  let k := s.milLink l
  (List.range 8).foldl (fun s v =>
    let ps := (k.sent.filter fun e => e.vc == v).map (fun e => { e.packet with ingress := 0, credits := 0 }) ++ (s.milVc l v).waiting
    let s := s.setMilVc l v { s.milVc l v with waiting := [] }
    ps.foldl (fun s p =>
      if p.bcast then (s.returnCredits p).milDrop (l / 2) Drop.down
      else match s.route p.dst with
        | (s, .via a) => s.milSend a p
        | (s, _) => (s.returnCredits p).milDrop (l / 2) Drop.down) s)
    ((s.setMilLink l { k with sent := [] }).setMilVc l 8 { s.milVc l 8 with waiting := [] })

/-- R600: the link goes DOWN. -/
def State.linkLost (s : State) (l : Nat) : State :=
  if s.linkState l = Link.off ∨ s.linkState l = Link.train ∨ s.linkState l = Link.down then s
  else
    let s := s.setMilLink l { s.milLink l with told := false, heard := false }
    ((s.linkTo l Link.down).rerouteLink l).pumpLink l

/-- A write of MIL.CTRL: the enables, a retrain of either link, LOCK. -/
def State.writeMilCtrl (s : State) (port : Nat) (v : Word) : State :=
  let r := Reg.milCtrl port
  let s := s.setNum r (v.toNat / 2 ^ 8 % 4 * 2 ^ 8 + ofBool (s.flag r 0 || bit v.toNat 0))
  ([0, 1] : List Nat).foldl (fun s i =>
    let l := 2 * port + i
    if !s.linkExists l then s
    else if !s.linkEnabled l then (if s.linkState l = Link.off then s else (s.setMilLink l { s.milLink l with told := false, heard := false }).linkTo l Link.off)
    else if s.linkState l = Link.off ∨ bit v.toNat (4 + i) = true then s.trainLink l
    else s) s

/-! ### Retry (R585, R586) -/

/-- R586: a packet has been resent 16 times: the link retrains, and the packets stay. -/
def State.retrainLink (s : State) (l : Nat) : State :=
  let s := (s.bump (Reg.milRetrains (l / 2)) 31 0 1).raise (s.milSource l 2)
  let s := s.blockEvent 0x21 (0x28 + l / 2) 0 Act.retried 0 l
  let k := s.milLink l
  (s.setMilLink l { k with sent := k.sent.map fun e => { e with resends := 0 } }).trainLink l

/-- The packets held for retry from LSEQ `seq` on are resent, in order. -/
def State.resendFrom (s : State) (l seq : Nat) : State :=
  let k := s.milLink l
  let keep := k.sent.takeWhile fun e => e.seq != seq
  let again := k.sent.dropWhile fun e => e.seq != seq
  if again.any fun e => decide (16 ≤ e.resends) then s.retrainLink l
  else
    let s := s.setMilLink l { k with sent := keep ++ again.map fun e => { e with resends := e.resends + 1, time := s.chip.up } }
    let s := s.bump (Reg.milRetries (l / 2)) 31 0 again.length
    again.foldl (fun s e => s.send .milio l e.bytes) s

/-- R584, R585: an acknowledgement frees the packets up to LSEQ, and credits come back. -/
def State.creditsBack (s : State) (l ack vc n : Nat) : State :=
  let k := s.milLink l
  let s := if k.sent.any fun e => e.seq == ack then
      s.setMilLink l { k with sent := (k.sent.dropWhile fun e => e.seq != ack).drop 1 }
    else s
  let c := s.milVc l vc
  let s := (s.setMilVc l vc { c with credits := min (s.vcCred l vc) (c.credits + n) }).showVc l vc
  s.pumpLink l

/-! ### LINKINFO (R591) -/

def State.fgen (s : State) : Nat := u32 (s.body Ty.fed Region.solve 0) 4
/-- The payload of this end's LINKINFO. -/
def State.linkInfo (s : State) (l : Nat) : List Byte :=
  [1#8, 0#8, 0#8, 0#8] ++ leBytes 2 s.blk.node ++ leBytes 1 l ++ leBytes 1 (s.num Reg.blkGen) ++ leBytes 4 s.fgen

/-- The lanes have block lock: the link aligns and tells who it is (R600, R591). -/
def State.alignLink (s : State) (l : Nat) : State :=
  if s.linkState l ≠ Link.train then s
  else
    let s := s.linkTo l Link.align
    (s.milManage l (s.linkInfo l)).setMilLink l { (s.milManage l (s.linkInfo l)).milLink l with told := true }

/-- R591: the peer's LINKINFO: the link comes UP, or is MISWIRED. -/
def State.takeLinkInfo (s : State) (l : Nat) (payload : List Byte) : State :=
  let node := u16 payload 4 % 2 ^ 14
  let want := u16 s.linkStruct (0x330 + 2 * l)
  if payload.length < 12 ∨ u8 payload 0 ≠ 1 ∨ (s.linkState l ≠ Link.align ∧ s.linkState l ≠ Link.miswired ∧ s.linkState l ≠ Link.up) then s
  else
    let s := s.setMilLink l { s.milLink l with heard := true, peer := node }
    let s := if l % 2 = 0 then s.setFld (Reg.milNeigh (l / 2)) 13 0 node else s.setFld (Reg.milNeigh (l / 2)) 29 16 node
    if want ≠ 0xFFFF ∧ want ≠ node then
      if s.linkState l = Link.miswired then s else (s.linkTo l Link.miswired).raise (s.milSource l 3)
    else if s.linkState l = Link.up ∨ (s.milLink l).told = false then s
    else
      let s := s.linkTo l Link.up
      let s := { s with adp := { s.adp with eqUpdates := (s.adp.eqUpdates.set l 0).set (if s.bonded l then l + 1 else l) 0 } }
      let s := ((s.milLink l).sent).foldl (fun s e => s.send .milio l e.bytes) s
      let s := ((List.range 8).filter (s.vcEnc l)).foldl (fun s v => s.startKx l v) s
      s.pumpLink l

/-! ### Keys (R593 to R595, R659) -/

/-- The link root of a port and channel: the slot a KEYPOL link entry names, where it may derive. -/
def State.linkRoot (s : State) (port vc : Nat) : Option (List Byte) :=
  let b := s.body Ty.keypol Region.keep 0
  let o := fun k => 0x10 + 32 * u16 b 0 + 8 * k
  match (List.range (u8 b 2)).find? fun k => u8 b (o k) == port && u8 b (o k + 1) == vc with
  | some k => let q := s.keySlot (u8 b (o k + 2)); if q.state = 1 then some q.value else none
  | none => none

/-- R595: the exchange fails: nothing more on that channel, and KEY is raised. -/
def State.kxFails (s : State) (l v : Nat) : State :=
  (s.setMilVc l v { s.milVc l v with kx := none, kxSince := s.chip.up, failed := true }).raise (s.milSource l 7)

/-- The key of one direction (R659): 0 from the lower to the higher node. -/
def linkKey (root z pa pb : List Byte) (a b vc kgen dir : Nat) : List Byte :=
  Config.kmac256 root (z ++ pa ++ pb ++ leBytes 2 a ++ leBytes 2 b ++ leBytes 1 vc ++ leBytes 2 kgen ++ leBytes 1 dir) 32
    [0x45#8, 0x56#8, 0x4C#8, 0x4B#8]

/-- R593, R659: both ends of an exchange have their public values: the keys of both directions. -/
def State.finishKx (s : State) (l v kgen : Nat) (own peerPub : List Byte) : State :=
  let a := s.blk.node
  let b := (s.milLink l).peer
  let z := Config.x448Shared own peerPub
  match s.linkRoot (l / 2) v with
  | none => s.kxFails l v
  | some root =>
    if z.all (· == 0#8) then s.kxFails l v
    else
      let pub := Config.x448Public own
      let low := decide (a ≤ b)
      let key := fun dir => if low then linkKey root z pub peerPub a b v kgen dir else linkKey root z peerPub pub b a v kgen dir
      let c := s.milVc l v
      let c := { c with tx := some { kgen := kgen, key := key (if low then 0 else 1) }, rx := some { kgen := kgen, key := key (if low then 1 else 0) },
                        rxOld := c.rx.map fun k => (k, 0), rxUsed := false, lcnt := 0, kx := none, failed := false, badTags := 0, passed := false,
                        lastGen := kgen }
      (((s.setMilVc l v c).showVc l v).raise (s.milSource l 7)).pumpLink l

/-- R593: a KX packet: it answers the exchange in progress, or starts one that this end answers. -/
def State.takeKx (s : State) (l : Nat) (payload : List Byte) : State :=
  let v := u8 payload 1
  let gen := u16 payload 2
  let pub := slice payload 4 56
  if payload.length < 60 ∨ u8 payload 0 ≠ 3 ∨ 8 ≤ v ∨ s.linkState l ≠ Link.up ∨ s.vcEnc l v = false then s
  else
    match (s.milVc l v).kx with
    | some k =>
      if k.kgen = gen then s.finishKx l v gen k.key pub
      else
        let x := Config.drbg s.key.draws 56
        let s := { s with key := { s.key with draws := s.key.draws + 1 } }
        (s.milManage l (leBytes 1 3 ++ leBytes 1 v ++ leBytes 2 gen ++ Config.x448Public x)).finishKx l v gen x pub
    | none =>
      let x := Config.drbg s.key.draws 56
      let s := { s with key := { s.key with draws := s.key.draws + 1 } }
      (s.milManage l (leBytes 1 3 ++ leBytes 1 v ++ leBytes 2 gen ++ Config.x448Public x)).finishKx l v gen x pub

/-- R595: 10 ms without completion fail the exchange; 100 ms after a failure it is tried again. -/
def State.kxExpires (s : State) (l v : Nat) : State :=
  let c := s.milVc l v
  if s.linkState l ≠ Link.up ∨ s.vcEnc l v = false then s
  else if c.kx.isSome then (s.elapse ((c.kxSince + 10000000 - s.chip.up + 3) / 4)).kxFails l v
  else if c.failed then (s.elapse ((c.kxSince + 100000000 - s.chip.up + 3) / 4)).startKx l v
  else s

end Sys2Proof.Machine
end

