-- ==== Sys2Proof/Machine/Time.lean ====
section
/-! DEFINITION. Device time (04): steps, the servo, holdover and new masters, PTP messages and timers, and the snapshot of
the seconds. -/
namespace Sys2Proof.Machine

/-- After a step a TIME spindle rejoins its new anchored angle (R176). -/
def State.reanchor (s : State) (n : Nat) : State :=
  if s.spinRuns n && s.spindleSrc n == Src.time then
    let p := s.spin n
    (s.setSpin n { p with src := unsigned 64 (angleOf s.now (s.spindleOrigin n) (s.spindlePeriod n)) }).startRejoin n
  else s

/-- A step by `d` ns (R193): refused below 0 s; else the count jumps, STEPS counts, source 68 rises, the TIME spindles
rejoin, the drift models restart (10) and the billing interval is closed or marked (R463). The second part says whether it was made. -/
def State.stepTime (s : State) (d : Int) : State × Bool :=
  let u : Int := (s.time.units : Int) + d * 2 ^ 32
  if u < 0 then (s.setTimFlag Tim.stepRefused true, false)
  else
    let t0 := s.now
    let s := { s with time := .ofUnits u.toNat }
    let s := ((s.bump Reg.timSteps 31 0 1).raise 68).setTimFlag Tim.stepRefused false
    ((((List.range 8).foldl State.reanchor s).fusTimeStep).metTimeStep t0, true)

/-- R193: a keyed write of TIM.STEP_GO. -/
def execTimeStep (who : Who) (value : Word) (s : State) : Reply :=
  .next (s.gated who Reg.timStepGo value fun s =>
    if field value 31 16 = 0x5354 ∧ bit value.toNat 0 = true then
      let ns := signed 32 (s.num Reg.timStepNs)
      if ns < -999999999 ∨ 999999999 < ns then s.setTimFlag Tim.stepRefused true
      else (s.stepTime (signed 32 (s.num Reg.timStepSec) * 1000000000 + ns)).1
    else s)

/-- R193: time passes to the next second boundary, and source 64 rises. -/
def execSecond (s : State) : Reply :=
  let left := 1000000000 * 2 ^ 32 - s.time.sub
  .next (s.elapse ((left + s.incr - 1) / s.incr))

/-! ### The servo (R192, R195) -/

/-- INCR of a rate in 2^-15 ppb off nominal: 4 ns times it, rounded to 2^-32 ns. -/
def incrOf (adj : Int) : Nat := (roundDiv (4 * 2 ^ 32 * (1000000000 * 2 ^ 15 + adj)) (1000000000 * 2 ^ 15)).toNat

/-- TIM.INCR takes a value of the servo or the holdover logic. -/
def State.setIncr (s : State) (v : Nat) : State := (s.setNum Reg.timIncrFrac (v % 2 ^ 32)).setFld Reg.timIncrInt 7 0 (v / 2 ^ 32)

/-- An offset normalised to an interval of 1 s, in 2^-15 ns: over another interval since the last measurement it is that part of it (DEDUCED, log
entry 136). -/
def State.normalised (s : State) (o : Int) : Int :=
  match s.tim.measured with
  | none => o * 2 ^ 15
  | some t => if s.chip.ran = t then o * 2 ^ 15 else roundDiv (o * 2 ^ 15 * secondUnits) (s.chip.ran - t)

/-- The servo runs on an offset `o` (R192, R194); while SERVO_EN is 0 it leaves INCR alone. -/
def State.servo (s : State) (o : Int) : State :=
  let ki := s.fld Reg.timServo 11 8
  let kp := s.fld Reg.timServo 3 0
  let x := s.normalised o
  let i := s.tim.integ - x / 2 ^ ki
  let adj := clampInt (-500000 * 2 ^ 15) (500000 * 2 ^ 15) (i - x / 2 ^ kp)
  let s := { s with tim := { s.tim with integ := i } }
  if s.flag Reg.timCtrl 0 then s.setIncr (incrOf adj) else s

/-- R195: |o| has stayed below LOCK_THRESH for 16 s, up to which time passes: the servo locks; seasoning of device time ends. -/
def execServoLocked (s : State) : Reply :=
  match s.tim.goodSince with
  | none => .next s
  | some t =>
    if s.timState ≠ TimeState.acquiring then .next s
    else
      let s := s.elapse (s.ticksUntil (t + 16 * secondUnits))
      let s := ((s.setTimState TimeState.locked).setTimFlag Tim.seasoning false).raise 65
      .next { s with tim := { s.tim with incrs := [] } }

/-- An offset is below LOCK_THRESH or not: the time it stays so is kept, and a LOCKED servo whose offset is not acquires again (R195). -/
def State.noteLock (s : State) (o : Int) : State :=
  if o.natAbs < s.num Reg.timLockThresh then { s with tim := { s.tim with goodSince := s.tim.goodSince <|> some s.chip.ran } }
  else
    let s : State := { s with tim := { s.tim with goodSince := none } }
    if s.timState = TimeState.locked then s.setTimState TimeState.acquiring else s

/-- The mean of INCR over the last 64 s of LOCKED operation, or the time locked if shorter (R201). -/
def State.meanIncr (s : State) : Nat :=
  let m := s.tim.incrs.foldl (fun (m : Nat × Nat) e => (m.1 + e.1 * e.2, m.2 + e.1)) (0, 0)
  if m.2 = 0 then s.incr else m.1 / m.2

/-! ### Masters (R201 to R209) -/

def PortState.initializing : Nat := 1
def PortState.disabled : Nat := 3
def PortState.listening : Nat := 4
def PortState.preMaster : Nat := 5
def PortState.master : Nat := 6
def PortState.passive : Nat := 7
def PortState.uncalibrated : Nat := 8
def PortState.slave : Nat := 9
def State.portState (s : State) (p : Nat) : Nat := s.fld (Reg.timPortState (p - 1)) 3 0
def State.setPortState (s : State) (p v : Nat) : State := s.setFld (Reg.timPortState (p - 1)) 3 0 v

/-- HOLDOVER with INCR frozen at its mean (R201); one that lasts goes on as it is. -/
def State.freezeIncr (s : State) : State :=
  if s.timFlag Tim.holdover then s
  else
    let s := s.setIncr s.meanIncr
    let s := (((s.setTimState TimeState.holdover).setTimFlag Tim.holdover true).setTimFlag Tim.slewing false).raise 66
    let s := s.blockEvent 0x29 9 0 Act.substituted 0 0
    { s.setNum Reg.timHoldS 0 with tim := { s.tim with heldAt := s.chip.ran, goodSince := none } }

/-- R201: the SLAVE port loses its master: HOLDOVER, and a candidate is gone. -/
def State.enterHoldover (s : State) : State :=
  let s := s.freezeIncr.setTimFlag Tim.jumpRefused false
  { s with tim := { s.tim with held := true, candidate := none, candLast := none, candSince := none, accepted := false } }

/-- A new master is taken: the clock follows it from here. The servo's integral starts again at 0 (DESIGN CHOICE, log entry 137). -/
def State.takeMaster (s : State) (gm : Nat) : State :=
  let s := ((s.setTimState TimeState.acquiring).setTimFlag Tim.holdover false).setTimFlag Tim.jumpRefused false
  { s with tim := { s.tim with gm := some gm, candidate := none, followed := true, held := false, accepted := false,
                               candLast := none, candSince := none, integ := 0, measured := none, goodSince := none } }.raise 69

/-- A new master is taken by a step of `-o`, which brings the clock to the master as the servo's sign does (DESIGN CHOICE, log entry 138: an example
of 04 steps by +o); a refused step leaves the clock as it is (R193). -/
def State.stepToMaster (s : State) (gm : Nat) (o : Int) : State :=
  match s.stepTime (-o) with
  | (s, true) => s.takeMaster gm
  | (s, false) => s

/-- SLEWING toward a master at 100 ppm (R205). -/
def State.slew (s : State) (o : Int) : State :=
  (s.setIncr (incrOf ((if 0 < o then -100000 else 100000) * 2 ^ 15))).setTimFlag Tim.slewing true

/-- The refused candidate's offset is reported, and the time since which its offsets agree is kept (R206, R208). -/
def State.noteCandidate (s : State) (o : Int) : State :=
  let now := s.chip.ran
  let agree := match s.tim.candLast with
    | none => false
    | some (p, t) => decide ((o - p).natAbs ≤ s.num Reg.timLockThresh + (now - t) / 2 ^ 32 / 1000000)
  let s := (s.setReg Reg.timCandSec (BitVec.ofInt 32 (o.tdiv 1000000000))).setReg Reg.timCandNs
    (BitVec.ofInt 32 (o.tmod 1000000000))
  { s with tim := { s.tim with candLast := some (o, now), candSince := if agree then s.tim.candSince <|> some now else some now } }

/-- An offset `o` from a new master (R203 to R206). -/
def State.newMaster (s : State) (gm : Nat) (o : Int) : State :=
  let a := o.natAbs
  let large := s.timFlag Tim.domain
  if !s.tim.followed then s.stepToMaster gm o
  else if a ≤ s.num Reg.timLockThresh then (s.takeMaster gm).servo o
  else if !large || s.tim.accepted then s.stepToMaster gm o
  else if a ≤ s.num Reg.timJumpLimit then (s.takeMaster gm).slew o
  else
    let s := s.freezeIncr.noteCandidate o
    if s.timFlag Tim.jumpRefused then s else ((s.setTimFlag Tim.jumpRefused true).raise 67).blockEvent 0x29 9 0 Act.substituted 0 0

/-- An offset measurement on a port in SLAVE state, corrected by the port's asymmetry: TIM.ASYM in ps is taken toward zero to ns and subtracted
(DESIGN CHOICE, log entry 139: R200 gives neither sign nor rounding). -/
def State.measureOffset (s : State) (port : Nat) (raw : Int) : State :=
  let o := raw - (signed 32 (s.num (Reg.timAsym (port - 1)))).tdiv 1000
  let s := s.setReg Reg.timOffset (BitVec.ofInt 32 (sat32 o))
  match s.tim.candidate with
  | some gm =>
    let s := s.newMaster gm o
    if s.tim.candidate.isNone then { s.noteLock o with tim := { (s.noteLock o).tim with measured := some s.chip.ran } } else s
  | none =>
    if s.tim.gm.isNone then s
    else
      let s := if s.timFlag Tim.slewing then s.slew o else s.servo o
      let s := s.noteLock o
      { s with tim := { s.tim with measured := some s.chip.ran } }

/-- R205: the slew ends once it has covered the last offset at 100 ppm, up to which time passes; the servo's rate is back. -/
def execSlewDone (s : State) : Reply :=
  if !s.timFlag Tim.slewing then .next s
  else
    let left := (signed 32 (s.num Reg.timOffset)).natAbs * 10000 * 2 ^ 32
    let s := s.elapse (s.ticksUntil ((s.tim.measured.getD s.chip.ran) + left))
    let adj := clampInt (-500000 * 2 ^ 15) (500000 * 2 ^ 15) s.tim.integ
    .next ((s.setIncr (incrOf adj)).setTimFlag Tim.slewing false)

/-- R207: a refused master is accepted; the step is made at its next measurement. -/
def execAcceptJump (who : Who) (value : Word) (s : State) : Reply :=
  .next (s.gated who Reg.timAcceptJump value fun s =>
    if bit value.toNat 0 && s.timFlag Tim.jumpRefused then { s with tim := { s.tim with accepted := true } } else s)

/-- R208: with SELF_ACCEPT the refused master whose offsets have agreed over TIM.JUMP_CONFIRM seconds, up to which time passes, is accepted by a
step of its last offset. -/
def execJumpConfirmed (s : State) : Reply :=
  match s.tim.candidate, s.tim.candSince, s.tim.candLast with
  | some gm, some t, some (o, _) =>
    if s.timFlag Tim.selfAccept && s.timFlag Tim.jumpRefused then
      .next ((s.elapse (s.ticksUntil (t + s.num Reg.timJumpConfirm * secondUnits))).stepToMaster gm o)
    else .next s
  | _, _, _ => .next s

/-- The best master clock algorithm has chosen `gm` behind a port (R202, R209): a refusal of another candidate is over. -/
def State.chooseMaster (s : State) (gm : Nat) : State :=
  if s.tim.candidate = some gm then s
  else
    let same := decide (s.tim.gm = some gm) && !s.tim.held
    { s.setTimFlag Tim.jumpRefused false with
      tim := { s.tim with candidate := if same then none else some gm, accepted := false, candLast := none, candSince := none } }

/-- TIM.UTC_OFFSET takes a value with its VALID bit; the billing interval in progress moves its end with it (R464). -/
def State.setUtcOffset (s : State) (w : Nat) : State :=
  s.metUtcChange w

/-- R210: a valid currentUtcOffset of the followed master. -/
def State.takeUtcOffset (s : State) (utc : Int) : State :=
  (s.setUtcOffset (2 ^ 16 + unsigned 16 utc)).raise 70

/-! ### The PTP instance (R197 to R199); its data sets, algorithm and messages are those of IEEE 1588-2019 (PRESUMED, log entry 140) -/

/-- Lexicographic order of lists of one length. -/
def lexLess : List Nat → List Nat → Bool
  | a :: as, b :: bs => decide (a < b) || (a == b && lexLess as bs)
  | _, _ => false

/-- Of one grandmaster and about as far from it: better by topology alone. -/
def dataSetNear (a b : PtpDataSet) : Bool := a.gm == b.gm && decide (a.steps ≤ b.steps + 1) && decide (b.steps ≤ a.steps + 1)

/-- The data set comparison: `a` is better than `b`, or better by topology. -/
def dataSetBetter (a b : PtpDataSet) : Bool :=
  if a.gm = b.gm then lexLess [a.steps, a.sender, a.senderPort] [b.steps, b.sender, b.senderPort]
  else lexLess [a.prio1, a.cls, a.accuracy, a.variance, a.prio2, a.gm] [b.prio1, b.cls, b.accuracy, b.variance, b.prio2, b.gm]

/-- The clock identity: the EUI-64 of the first RGMII port's MAC address (04, "Network time"). -/
def State.clockIdentity (s : State) : Nat :=
  let mac := slice s.linkStruct (ethEntry 0 + 4) 6
  leNat (mac.take 3 ++ [0xFF#8, 0xFE#8] ++ mac.drop 3).reverse

/-- The instance's own data set. -/
def State.ptpDefault (s : State) : PtpDataSet :=
  { prio1 := s.ptpPrio1, cls := if s.ptpSlaveOnly then 255 else 248, accuracy := 0xFE, variance := 0xFFFF, prio2 := s.ptpPrio2,
    gm := s.clockIdentity, steps := 0, sender := s.clockIdentity, senderPort := 0 }

def State.ptpPort (s : State) (p : Nat) : PtpPort := s.tim.ports.get p
def State.setPtpPort (s : State) (p : Nat) (x : PtpPort) : State := { s with tim := { s.tim with ports := s.tim.ports.set p x } }

/-- The best announce over the ports, with its port. -/
def State.bestMaster (s : State) : Option (Nat × PtpDataSet) :=
  ([1, 2, 3, 4, 5, 6] : List Nat).foldl (fun best p =>
    match (s.ptpPort p).best with
    | none => best
    | some d =>
      match best with
      | none => some (p, d)
      | some (q, e) => if dataSetBetter d e then some (p, d) else some (q, e)) none

/-- The port becomes MASTER by way of PRE_MASTER; a slave-only clock listens. -/
def State.recommendMaster (s : State) (p : Nat) : State :=
  if s.ptpSlaveOnly then s.setPortState p PortState.listening
  else if s.portState p = PortState.master ∨ s.portState p = PortState.preMaster then s
  else s.setPortState p PortState.preMaster

/-- The state decision of a port of role 1. -/
def State.decidePort (s : State) (p : Nat) : State :=
  let st := s.portState p
  if s.ptpRole p ≠ 1 ∨ st = PortState.initializing ∨ st = PortState.disabled then s
  else
    let own := s.ptpDefault
    match s.bestMaster with
    | none => if st = PortState.listening then s else s.recommendMaster p
    | some (q, best) =>
      if dataSetBetter own best then s.recommendMaster p
      else if q = p then
        (if st = PortState.slave ∧ s.tim.candidate = none ∧ s.tim.gm = some best.gm then s
         else if st = PortState.slave ∧ s.tim.candidate = some best.gm then s
         else s.setPortState p PortState.uncalibrated).chooseMaster best.gm
      else
        match (s.ptpPort p).best with
        | some d => if dataSetNear best d && !s.ptpSlaveOnly then s.setPortState p PortState.passive else s.recommendMaster p
        | none => s.recommendMaster p

def State.decidePorts (s : State) : State := ([1, 2, 3, 4, 5, 6] : List Nat).foldl State.decidePort s

/-- Big-endian bytes. -/
def beBytes (n v : Nat) : List Byte := (leBytes n v).reverse

/-- The common header of a PTP message. -/
def State.ptpHeader (s : State) (type len flags port seq control log : Nat) : List Byte :=
  [BitVec.ofNat 8 type, 0x12#8] ++ beBytes 2 len ++ [BitVec.ofNat 8 s.ptpDomain, 0#8] ++ beBytes 2 flags ++ List.replicate 12 0#8 ++
    beBytes 8 s.clockIdentity ++ beBytes 2 port ++ beBytes 2 seq ++ [BitVec.ofNat 8 control, BitVec.ofNat 8 log]

/-- A PTP timestamp of device time. -/
def State.ptpStamp (s : State) : List Byte := beBytes 6 s.time.sec ++ beBytes 4 (s.time.sub / 2 ^ 32)

/-- A message of a port leaves: over layer 2, or with UDP over UDP and IPv4, which the destination tells by 16 more. -/
def State.sendPtp (s : State) (port : Nat) (bytes : List Byte) : State := s.send .ptp (port + if s.ptpUdp then 16 else 0) bytes

/-- A message that takes the port's next sequence number of its type. -/
def State.sendSeq (s : State) (port type : Nat) (message : Nat → List Byte) : State :=
  let x := s.ptpPort port
  let seq := x.seqs.get type
  (s.setPtpPort port { x with seqs := x.seqs.set type ((seq + 1) % 2 ^ 16) }).sendPtp port (message seq)

/-- Sync: with ONE_STEP it carries its time of departure, else a Follow_Up does. -/
def State.sendSync (s : State) (port : Nat) : State :=
  let one := s.ptpOneStep
  let seq := (s.ptpPort port).seqs.get 0
  let s := s.sendSeq port 0 fun q =>
    s.ptpHeader 0 44 (if one then 0 else 0x200) port q 0 0 ++ (if one then s.ptpStamp else List.replicate 10 0#8)
  if one then s else s.sendPtp port (s.ptpHeader 8 44 0 port seq 2 0 ++ s.ptpStamp)

/-- Announce: the data set of the master it follows, one step further, or the instance's own. -/
def State.sendAnnounce (s : State) (port : Nat) : State :=
  let own := s.ptpDefault
  let d := match s.bestMaster with
    | some (_, e) => if s.tim.gm = some e.gm && !dataSetBetter own e then { e with steps := e.steps + 1 } else own
    | none => own
  s.sendSeq port 0xB fun q =>
    s.ptpHeader 0xB 64 (8 + if s.flag Reg.timUtcOffset 16 then 4 else 0) port q 5 0 ++ List.replicate 10 0#8 ++
      beBytes 2 (s.fld Reg.timUtcOffset 15 0) ++ [0#8] ++ beBytes 1 d.prio1 ++ beBytes 1 d.cls ++ beBytes 1 d.accuracy ++ beBytes 2 d.variance ++
      beBytes 1 d.prio2 ++ beBytes 8 d.gm ++ beBytes 2 d.steps ++ [0xA0#8]

/-- Delay_Resp of a MASTER port, or Pdelay_Resp and its follow-up, to a requester. -/
def State.answerRequest (s : State) (port : Nat) (peer : Bool) (requester seq : Nat) : State :=
  if peer then
    (s.sendPtp port (s.ptpHeader 3 54 0x200 port seq 5 0x7F ++ s.ptpStamp ++ beBytes 10 requester)).sendPtp port
      (s.ptpHeader 0xA 54 0 port seq 5 0x7F ++ s.ptpStamp ++ beBytes 10 requester)
  else if s.portState port = PortState.master then
    s.sendPtp port (s.ptpHeader 9 54 0 port seq 3 0 ++ s.ptpStamp ++ beBytes 10 requester)
  else s

/-- The profile measures path delays peer to peer (R197). -/
def State.ptpPeer (s : State) : Bool := s.ptpProfile != 0

/-- The correction field of an event message grows by the residence time (R199). -/
def correctResidence (bytes : List Byte) (residence : Nat) : List Byte :=
  let c := leNat (slice bytes 8 8).reverse
  patchBytes bytes 8 (beBytes 8 (c + residence * 65536))

/-- An announce message on a port of role 1: the best one of the port is kept, and the ports' states are decided again. One of the instance itself, or
255 steps away, is not taken. -/
def State.takeAnnounce (s : State) (port : Nat) (d : PtpDataSet) (utc : Option Int) : State :=
  if d.sender = s.clockIdentity ∨ 255 ≤ d.steps then s
  else
    let x := s.ptpPort port
    let take := match x.best with
      | none => true
      | some e => (e.sender == d.sender && e.senderPort == d.senderPort) || dataSetBetter d e
    let s := (s.setPtpPort port { x with best := if take then some d else x.best }).decidePorts
    match utc with
    | some u => if s.tim.gm = some d.gm ∧ s.tim.candidate = none ∧ s.bestMaster = some (port, d) then s.takeUtcOffset u else s
    | none => s

/-- An offset measurement of a SLAVE port; the first one of an UNCALIBRATED port makes it SLAVE. -/
def State.takeOffset (s : State) (port : Nat) (o : Int) : State :=
  if s.portState port = PortState.slave then s.measureOffset port o
  else if s.portState port = PortState.uncalibrated then (s.setPortState port PortState.slave).measureOffset port o
  else s

/-- The ports work: MOUNT has ended and Link is not fenced. -/
def State.ptpRuns (s : State) : Bool := decide (Mode.mount < s.mode) && !s.fenced Region.link

/-- R198, R199: a message on a port of role 1 or 2. One of another domain is not the instance's; a transparent clock forwards event messages of any. -/
def State.takePtp (s : State) (port : Nat) (msg : PtpMessage) : State :=
  let role := s.ptpRole port
  if !s.ptpRuns then s
  else
    match msg with
    | .announce domain d utc => if role = 1 ∧ domain = s.ptpDomain then s.takeAnnounce port d utc else s
    | .offset domain o => if role = 1 ∧ domain = s.ptpDomain then s.takeOffset port o else s
    | .pathDelay domain ps =>
      if role = 0 ∨ domain ≠ s.ptpDomain then s
      else s.setReg (Reg.timPdelay (port - 1)) (BitVec.ofInt 32 ((ps : Int) - signed 32 (s.num (Reg.timAsym (port - 1)))))
    | .event _ bytes residences =>
      if role ≠ 2 then s
      else
        (List.range 6).foldl (fun s i =>
          if i + 1 ≠ port ∧ s.ptpRole (i + 1) = 2 then s.send .ptp (i + 1) (correctResidence bytes (residences.getD i 0)) else s) s
    | .request domain peer requester seq =>
      if role = 0 ∨ domain ≠ s.ptpDomain ∨ peer ≠ s.ptpPeer then s else s.answerRequest port peer requester seq

/-- R198: a PTP message arrives. -/
def execPtpMessage (port : Nat) (msg : PtpMessage) (s : State) : Reply := .next (s.takePtp port msg)

/-- A port's announce receipt timeout: what it had heard is gone; it becomes MASTER, or a slave-only clock's port listens. -/
def State.loseAnnounce (s : State) (port : Nat) : State :=
  let s := s.setPtpPort port { s.ptpPort port with best := none }
  s.setPortState port (if s.ptpSlaveOnly then PortState.listening else PortState.master)

/-- R201: a port that follows a master loses it: HOLDOVER, and the other ports are decided again. -/
def execAnnounceTimeout (port : Nat) (s : State) : Reply :=
  let st := s.portState port
  if s.ptpRole port = 1 ∧ (st = PortState.slave ∨ st = PortState.uncalibrated) then
    let s := s.loseAnnounce port
    .next (if s.tim.followed then s.enterHoldover else { s with tim := { s.tim with candidate := none } }).decidePorts
  else .next s

/-- A clock that is MASTER and has never followed is the GRANDMASTER. -/
def State.ownsTime (s : State) (port : Nat) : State :=
  if s.portState port = PortState.master ∧ s.timState = TimeState.free then s.setTimState TimeState.grandmaster else s

/-- R198: a timer of a port: it sends its message of the profile (R197), or the port advances: at the announce receipt timeout a port that follows
nobody becomes MASTER, and PRE_MASTER becomes MASTER once it is qualified. -/
def execPtpPortTimer (port : Nat) (timer : PtpTimer) (s : State) : Reply :=
  let role := s.ptpRole port
  let st := s.portState port
  if !s.ptpRuns || role = 0 then .next s
  else
    match timer with
    | .announceReceipt =>
      .next (if role = 1 ∧ (st = PortState.listening ∨ st = PortState.passive ∨ st = PortState.preMaster) then
        ((s.loseAnnounce port).decidePorts).ownsTime port else s)
    | .qualification => .next (if role = 1 ∧ st = PortState.preMaster then (s.setPortState port PortState.master).ownsTime port else s)
    | .sync => .next (if role = 1 ∧ st = PortState.master then s.sendSync port else s)
    | .announce => .next (if role = 1 ∧ st = PortState.master then s.sendAnnounce port else s)
    | .delayReq =>
      .next (if role = 1 ∧ (st = PortState.slave ∨ st = PortState.uncalibrated) ∧ s.ptpPeer = false then
        s.sendSeq port 1 fun q => s.ptpHeader 1 44 0 port q 1 0x7F ++ List.replicate 10 0#8 else s)
    | .peerDelay =>
      .next (if s.ptpPeer then s.sendSeq port 2 fun q => s.ptpHeader 2 54 0 port q 5 0x7F ++ List.replicate 20 0#8 else s)

/-- R196: a read of TIM.NOW_NS takes the snapshot of the seconds for the reading initiator; its own bank of TIM.NOW_NS tells that it
holds one. -/
def execTimeNowRead (who : Who) (s : State) : Reply :=
  .next (s.gatedRead who Reg.timNowNs fun s =>
    (((s.setNum (bankOf who.id Reg.timNowSlo) s.time.sec).setNum (bankOf who.id Reg.timNowShi) (s.time.sec / 2 ^ 32)).setNum
       (bankOf who.id Reg.timNowNs) 1, s.time.sub / 2 ^ 32))

/-- The seconds of device time an initiator reads: its snapshot, or the live ones where it holds none (R710). -/
def State.secondsFor (s : State) (id : Nat) : Nat :=
  if s.num (bankOf id Reg.timNowNs) = 1 then s.num (bankOf id Reg.timNowSlo) + s.num (bankOf id Reg.timNowShi) * 2 ^ 32 else s.time.sec

end Sys2Proof.Machine
end

