-- ==== Sys2Proof/Machine/Eth.lean ====
section
/-! DEFINITION. The Ethernet ports (15): R602, R603, R605. -/
namespace Sys2Proof.Machine

def ethWho : Who := { id := Init.ethDma, mmode := false, vc := 0 }
/-- Transmit and receive rings of a port: address and entries. -/
def State.ethTxRing (s : State) (e : Nat) : Nat × Nat := (Addr.stock + u32 s.linkStruct (ethEntry e + 0xC), u16 s.linkStruct (ethEntry e + 0x14))
def State.ethRxRing (s : State) (e : Nat) : Nat × Nat := (Addr.stock + u32 s.linkStruct (ethEntry e + 0x10), u16 s.linkStruct (ethEntry e + 0x16))
def State.ethFlag (s : State) (e b : Nat) : Bool := bit (u8 s.linkStruct (ethEntry e + 2)) b
/-- The port is there, configured, and Link is not fenced. -/
def State.ethRuns (s : State) (e : Nat) : Bool := decide (e < 6) && s.ethPresent e && s.ethUsed e && s.awake && !s.fenced Region.link
def State.ethLink (s : State) (e : Nat) : Bool := s.flag (Reg.ethPstate e) 31

/-! ### Transmission -/

def State.ethFill (s : State) (e : Nat) : Nat := ringFill (s.ethTxRing e).2 (s.num (Reg.ethTxhead e)) (s.num (Reg.ethTxtail e))

/-- The entry at the head completes. -/
def State.completeEth (s : State) (e status : Nat) : State :=
  let r := s.ethTxRing e
  let a := r.1 + 16 * (s.num (Reg.ethTxhead e) % max 1 r.2)
  let ie := bit (s.byte (a + 5)).toNat 1
  let s := s.dmaWrite ethWho (a + 0xA) (leBytes 2 (0x8000 + status))
  let s := s.setNum (Reg.ethTxhead e) ((s.num (Reg.ethTxhead e) + 1) % max 1 r.2)
  if ie then s.raise (384 + 2 * e) else s

/-- The frames of the ring leave while the link is up. -/
def serveEth (e : Nat) : Nat → State → State
  | 0, s => s
  | fuel + 1, s =>
    if s.ethFill e = 0 ∨ s.ethLink e = false then s
    else
      let r := s.ethTxRing e
      let a := r.1 + 16 * (s.num (Reg.ethTxhead e) % max 1 r.2)
      let x := s.bytes a 16
      let c := s.rangeCode ethWho (entryAddr x) (entryLen x) false
      if (s.badWordIn a 16).isSome then serveEth e fuel ((s.engineError ethWho a Code.uncorrectable).completeEth e Tx.denied)
      else if entryLen x = 0 ∨ 2048 < entryLen x then serveEth e fuel (s.completeEth e Tx.denied)
      else if c ≠ Code.ok then serveEth e fuel ((s.engineError ethWho (entryAddr x) c).completeEth e Tx.denied)
      else serveEth e fuel (((s.charge ethWho (entryAddr x) (entryLen x)).send .ethernet e (s.bytes (entryAddr x) (entryLen x))).completeEth e Tx.sent)

def State.pumpEth (s : State) (e : Nat) : State := serveEth e (s.ethFill e) s

/-- R603: a write of ETH.TXTAIL. -/
def execEthTxTail (who : Who) (port : Nat) (value : Word) (s : State) : Reply :=
  .next (s.gated who (Reg.ethTxtail (port % 6)) value fun s => (s.setNum (Reg.ethTxtail (port % 6)) (field value 11 0)).pumpEth (port % 6))

/-! ### Reception (R602, R603) -/

/-- The destination is one the port accepts. -/
def State.ethAccepts (s : State) (e : Nat) (dst : List Byte) : Bool :=
  let multicast := (List.range 16).any fun k => slice s.linkStruct (0x400 + 8 * k) 6 == dst && bit (u8 s.linkStruct (0x406 + 8 * k)) e
  dst == slice s.linkStruct (ethEntry e + 4) 6 || (dst.all (· == 0xFF#8) && s.ethFlag e 3) || (bit (u8 dst 0) 0 && multicast) || s.ethFlag e 2

/-- A big-endian 16-bit field. -/
def be16 (b : List Byte) (o : Nat) : Nat := u8 b o * 256 + u8 b (o + 1)

/-- The destination port and the data of an IPv4 UDP datagram in a frame, one VLAN tag allowed. -/
def udpOf (frame : List Byte) : Option (Nat × List Byte) :=
  let o := if be16 frame 12 = 0x8100 then 18 else 14
  let ihl := 4 * (u8 frame o % 16)
  if be16 frame (o - 2) ≠ 0x0800 ∨ u8 frame o / 16 ≠ 4 ∨ u8 frame (o + 9) ≠ 17 ∨ be16 frame (o + 6) % 0x4000 ≠ 0 then none
  else some (be16 frame (o + ihl + 2), slice frame (o + ihl + 8) (be16 frame (o + ihl + 4) - 8))

/-- A frame enters the next posted buffer; false when none is posted. -/
def State.fillEth (s : State) (e arrival : Nat) (frame : List Byte) : Option State :=
  let r := s.ethRxRing e
  let head := s.num (Reg.ethRxhead e)
  if ringFill r.2 head (s.num (Reg.ethRxtail e)) = 0 then none
  else
    let a := r.1 + 16 * (head % max 1 r.2)
    let x := s.bytes a 16
    let c := if (s.badWordIn a 16).isSome then Code.uncorrectable else s.rangeCode ethWho (entryAddr x) frame.length true
    let s := if c = Code.ok then (s.charge ethWho (entryAddr x) frame.length).poke (entryAddr x) frame else s.engineError ethWho (entryAddr x) c
    let s := s.dmaWrite ethWho (a + 6) (leBytes 2 frame.length ++ leBytes 2 0 ++ leBytes 2 0x8000 ++ leBytes 4 (arrival % 1000000000))
    let s := s.setNum (Reg.ethRxhead e) ((head + 1) % max 1 r.2)
    some (if entryFlag x 1 then s.raise (384 + 2 * e) else s)

/-- Frames that wait for a buffer are delivered, oldest first. -/
def drainEth (e : Nat) : Nat → State → State
  | 0, s => s
  | fuel + 1, s =>
    match s.eth.held.get e with
    | [] => s
    | x :: rest =>
      match s.fillEth e x.2.1 x.2.2 with
      | none => s
      | some s => drainEth e fuel { s with eth := { s.eth with held := s.eth.held.set e rest } }

/-- The frame goes to the port's receive ring, behind those that wait. -/
def State.ringEth (s : State) (e : Nat) (frame : List Byte) : State :=
  let s : State := { s with eth := { s.eth with held := s.eth.held.set e (s.eth.held.get e ++ [(s.chip.up, s.now, frame)]) } }
  drainEth e (s.eth.held.get e).length s

/-- R602, R603: a frame arrives: it is accepted and offered to TIM, then to FUS, then to the ring; or it is counted. -/
def execEthFrame (port : Nat) (frame : List Byte) (message : Option PtpMessage) (s : State) : Reply :=
  let e := port
  let n := frame.length
  let body := frame.take (n - 4)
  if !s.ethRuns e || !s.ethLink e then .next s
  else if n < 64 ∨ 1522 < n then .next (s.bump (Reg.ethDrops e) 31 16 1)
  else if crc32 body ≠ u32 frame (n - 4) then .next (s.bump (Reg.ethDrops e) 15 0 1)
  else if s.ethAccepts e (slice frame 0 6) = false then .next (s.bump (Reg.ethDrops e) 31 16 1)
  else
    let ring := fun (s : State) (taken : Bool) => if !taken || s.ethFlag e 4 then s.ringEth e body else s
    match message with
    | some m => if s.ptpRole (e + 1) = 0 then .next (ring s false) else .next (ring (s.takePtp (e + 1) m) true)
    | none =>
      match udpOf body with
      | some (udp, data) =>
        if e < 2 ∧ s.fusTakes Kind.eth (udp % 65536 + e * 65536) = true then .next (ring (s.fusEth e udp s.now data) true) else .next (ring s false)
      | none => .next (ring s false)

/-! ### Links, MDIO, counters -/

/-- R602: the link of a port goes up or down, or its speed changes. -/
def execEthLinkChange (port : Nat) (link : Bool) (speed : Nat) (s : State) : Reply :=
  let e := port
  if !s.ethRuns e then .next s
  else
    let fixed := u8 s.linkStruct (ethEntry e + 1)
    let v := if 2 ≤ e then 4 else if fixed = 0 then speed % 8 else fixed
    let w := ofBool link * 2 ^ 31 + v
    if s.num (Reg.ethPstate e) = w then .next s
    else .next ((((s.setNum (Reg.ethPstate e) w).setFlag Reg.ethStatus e link).raise (385 + 2 * e)).pumpEth e)

/-- R605: a write of ETH.MDIO with GO: a clause 22 access to a PHY; a read leaves its data. -/
def execEthMdio (who : Who) (value : Word) (data : Nat) (s : State) : Reply :=
  .next (s.gated who Reg.ethMdio value fun s =>
    let value := value &&& 0xE3FFFFFF#32
    if bit value.toNat 31 then
      let s := s.send .mdio (field value 29 29) (leBytes 4 (value.toNat % 2 ^ 31))
      let v := value.toNat % 2 ^ 31
      (s.setNum Reg.ethMdio (if bit v 30 then v / 65536 * 65536 + data % 65536 else v)).raise 396
    else s.setReg Reg.ethMdio value)

/-- R605: a write of ETH.CLEAR. -/
def execEthClear (who : Who) (value : Word) (s : State) : Reply :=
  .next (s.gated who Reg.ethClear value fun s =>
    if bit value.toNat 0 then (List.range 6).foldl (fun s e => s.setNum (Reg.ethDrops e) 0) s else s)

/-- Entries outstanding on a port whose rings change complete with FLUSHED (R604). -/
def State.flushEth (s : State) (e : Nat) : State :=
  let s := (List.range (s.ethFill e)).foldl (fun s _ => s.completeEth e Tx.flushed) s
  (((s.setNum (Reg.ethTxhead e) 0).setNum (Reg.ethTxtail e) 0).setNum (Reg.ethRxhead e) 0).setNum (Reg.ethRxtail e) 0

end Sys2Proof.Machine
end

