-- ==== Sys2Proof/Machine/Pnl.lean ====
section
/-! DEFINITION. The panel timing unit (14): frames, the power sequence, clearing, updates of bistable panels, the journal and recovery (R558 to
R580). -/
namespace Sys2Proof.Machine

def State.setPnl (s : State) (p : PnlState) : State := { s with pnl := p }

/-- The PANEL body in force: while PNL powers off under an old section, that one ("Coincidences"). -/
def State.panelBody (s : State) : List Byte := if s.pnl.old.isEmpty then s.body Ty.panel Region.link 0 else s.pnl.old
def State.panelType (s : State) : Nat := u8 s.panelBody 0
def State.panelWidth (s : State) : Nat := u16 s.panelBody 8
def State.panelHeight (s : State) : Nat := u16 s.panelBody 0x10
def State.panelRails (s : State) : Nat := u8 s.panelBody 0x19
/-- DELAY_MS of rail `k` of the list, in ns. -/
def State.railDelay (s : State) (k : Nat) : Nat := 1000000 * u16 s.panelBody (0x22 + 4 * k)
def State.epdClear (s : State) : Bool := bit (u8 s.panelBody 1) 0
def State.clearMode (s : State) : Nat := u8 s.panelBody 0x1C
/-- NFRAMES of a mode. -/
def State.modeFrames (s : State) (m : Nat) : Nat := u16 s.panelBody (0x60 + 16 * m)
def State.panelOn (s : State) : Bool := s.flag Reg.pnlCtrl 0
/-- PNL answers: Link is not fenced, and a Blank runs. -/
def State.panelRuns (s : State) : Bool := s.awake && !s.fenced Region.link && s.chip.blankLoaded

/-- POWER of PNL.STATUS: 0 off, 1 rising, 2 on, 3 falling. -/
def State.setPower (s : State) (v : Nat) : State := s.setFld Reg.pnlStatus 31 30 v
def State.setLit (s : State) (v : Bool) : State := s.setFlag Reg.pnlStatus 29 v
def State.setStage (s : State) (g : PnlStage) : State := s.setPnl { s.pnl with stage := g, since := s.chip.up }

/-! ### Regions -/

/-- Two rectangles overlap. -/
def PnlRegion.meets (a b : PnlRegion) : Bool :=
  decide (a.x < b.x + b.w) && decide (b.x < a.x + a.w) && decide (a.y < b.y + b.h) && decide (b.y < a.y + a.h)
def PnlRegion.runs (r : PnlRegion) : Bool := r.kind != 1
def State.pnlPending (s : State) : List PnlRegion := s.pnl.regions.filter fun r => r.kind == 1
def State.pnlRunning (s : State) : List PnlRegion := s.pnl.regions.filter PnlRegion.runs
/-- The lowest free region number. -/
def State.freeRegion (s : State) : Nat := ((List.range 24).find? fun k => s.pnl.regions.all fun r => r.slot != k).getD 0
def State.setRegions (s : State) (rs : List PnlRegion) : State := s.setPnl { s.pnl with regions := rs }

/-- RST.STATE of a region. -/
def PnlRegion.shown (r : PnlRegion) : Nat := if r.kind = 1 then 1 else if r.recovery then 3 else 2

/-- The region registers and the counts of PNL.STATUS follow. -/
def State.showPanel (s : State) : State :=
  let s := (List.range 24).foldl (fun s k =>
    match s.pnl.regions.find? fun r => r.slot == k with
    | some r => ((s.setNum (Reg.pnlRxy k) (r.y * 2 ^ 16 + r.x)).setNum (Reg.pnlRwh k) (r.h * 2 ^ 16 + r.w)).setNum (Reg.pnlRst k)
        (r.shown * 2 ^ 30 + r.mode % 4 * 2 ^ 24 + r.phase % 256)
    | none => ((s.setNum (Reg.pnlRxy k) 0).setNum (Reg.pnlRwh k) 0).setNum (Reg.pnlRst k) 0) s
  let s := (s.setFld Reg.pnlStatus 12 8 s.pnlPending.length).setFld Reg.pnlStatus 7 4 s.pnlRunning.length
  s.setFlag Reg.pnlStatus 27 (s.pnl.regions.any fun r => r.recovery)

/-! ### The images -/

/-- Where CUR and TGT stand (the MRAM application area, 01). -/
def State.panelImage (s : State) (o : Nat) : Nat := Addr.records s.variant + 0x80000 + u32 s.panelBody o
def State.curImage (s : State) : Nat := s.panelImage 0x4C
def State.tgtImage (s : State) : Nat := s.panelImage 0x50
/-- Byte of a pixel in an image: row-major, two pixels per byte. -/
def State.pixelByte (s : State) (x y : Nat) : Nat := (y * s.panelWidth + x) / 2
/-- The level of a pixel in an image: the even pixel in bits [3:0]. -/
def State.pixelLevel (s : State) (image x y : Nat) : Nat := (s.byte (image + s.pixelByte x y)).toNat / 16 ^ (x % 2) % 16

/-- Row `j` of a region in an image. -/
def State.regionRow (s : State) (r : PnlRegion) (image j : Nat) : Nat := image + s.pixelByte r.x (r.y + j)

/-- PNL reads `n` bytes of a buffer; bytes it may not read are 0 and recorded as bus errors (R7, R8). -/
def State.panelRead (s : State) (a n : Nat) : State × List Byte :=
  let w : Who := { id := Init.pnl, mmode := false, vc := 0 }
  let c := s.rangeCode w a n false
  if n = 0 ∨ c = Code.ok then (s.charge w a n, s.bytes a n) else (s.engineError w a c, List.replicate n 0#8)

/-- PNL.FB. -/
def State.panelFb (s : State) : Nat := s.num Reg.pnlFbLo + s.fld Reg.pnlFbHi 7 0 * 2 ^ 32

/-- R572: the region is copied from NEXT, laid out as the images, into TGT. -/
def State.copyNext (s : State) (r : PnlRegion) : State :=
  (List.range r.h).foldl (fun s j =>
    let (s, bs) := s.panelRead (s.panelFb + s.pixelByte r.x (r.y + j)) (r.w / 2)
    s.dmaWrite (engineWho Init.pnl) (s.regionRow r s.tgtImage j) bs) s

/-- R573: the region is copied from TGT into CUR. -/
def State.copyTarget (s : State) (r : PnlRegion) : State :=
  (List.range r.h).foldl (fun s j => s.dmaWrite (engineWho Init.pnl) (s.regionRow r s.curImage j) (s.bytes (s.regionRow r s.tgtImage j) (r.w / 2))) s

/-- Level 15 over a region of an image. -/
def State.fillWhite (s : State) (r : PnlRegion) (image : Nat) : State :=
  (List.range r.h).foldl (fun s j => s.dmaWrite (engineWho Init.pnl) (s.regionRow r image j) (List.replicate (r.w / 2) 0xFF#8)) s

/-- The whole panel as a region that clears it. -/
def State.wholePanel (s : State) : PnlRegion :=
  { slot := s.freeRegion, x := 0, y := 0, w := s.panelWidth, h := s.panelHeight, mode := s.clearMode, kind := 2, phase := 0,
    recovery := false, clears := true, fresh := false, whos := [] }

/-- R573, R576: the code a pixel of a running region is driven with in this frame: that of its mode for the frame, from CUR to TGT, with 1
and 2 swapped while it is reversed. -/
def State.pixelCode (s : State) (r : PnlRegion) (x y : Nat) : Nat :=
  let c := driveCode s.panelBody (u32 s.panelBody (0x64 + 16 * r.mode)) r.phase (s.pixelLevel s.curImage x y) (s.pixelLevel s.tgtImage x y)
  if r.kind = 3 then (if c = 1 then 2 else if c = 2 then 1 else c) else c

/-- R573: what a pixel receives in a frame: the code of the running region it lies in, else 0. -/
def State.driven (s : State) (x y : Nat) : Nat :=
  match s.pnl.regions.find? fun r => r.runs && !r.fresh && decide (r.x ≤ x) && decide (x < r.x + r.w) && decide (r.y ≤ y) && decide (y < r.y + r.h) with
  | some r => s.pixelCode r x y
  | none => 0

/-! ### Polarity (R561) -/

/-- PNL_POL of line `l` in frame `f`, and PNL_DOT. -/
def State.panelPol (s : State) (f l : Nat) : Nat := if s.panelType ≠ 1 then 0 else if u8 s.panelBody 0x18 = 0 then f % 2 else (f + l) % 2
def State.panelDot (s : State) : Nat := if s.panelType = 1 ∧ u8 s.panelBody 0x18 = 2 then 1 else 0

/-! ### The journal (R574) -/

def State.journalBase (s : State) : Nat := Addr.records s.variant + 0x2000

/-- A REGION entry of the record. -/
def PnlRegion.entry (r : PnlRegion) : List Byte :=
  leBytes 2 r.x ++ leBytes 2 r.y ++ leBytes 2 r.w ++ leBytes 2 r.h ++ leBytes 1 r.mode ++ leBytes 1 (if r.kind = 3 then 2 else 1) ++
    leBytes 2 r.phase ++ leBytes 4 0

/-- The record of the frame that follows. -/
def State.journalFrame (s : State) : State :=
  let rs := s.pnlRunning.filter fun r => !r.fresh
  if rs.isEmpty then s
  else
    let tail := leBytes 4 (crc32 s.panelBody) ++ leBytes 4 0 ++ leBytes 8 (stampWord s.now) ++ slice (rs.flatMap PnlRegion.entry) 0 128 ++
      List.replicate 104 0#8
    let q := s.pnl.seq
    (s.dmaWrite (engineWho Init.pnl) (s.journalBase + 256 * (q % 16)) (leBytes 4 q ++ leBytes 4 (crc32 tail) ++ tail)).setPnl { s.pnl with seq := (q + 1) % 2 ^ 32 }

/-- The newest record with a correct CRC. -/
def State.journalNewest (s : State) : Option (List Byte) :=
  (List.range 16).foldl (fun best k =>
    let b := s.bytes (s.journalBase + 256 * k) 256
    if crc32 (b.drop 8) ≠ u32 b 4 then best
    else match best with
      | none => some b
      | some o => if seqNewer 32 (u32 b 0) (u32 o 0) then some b else best) none

/-- The regions in progress that a journal record holds (R575). -/
def journalRegions (b : List Byte) : List PnlRegion :=
  ((List.range 8).filter fun k => u8 b (0x18 + 16 * k + 9) == 1 || u8 b (0x18 + 16 * k + 9) == 2).map fun k =>
    let o := 0x18 + 16 * k
    { slot := k, x := u16 b o, y := u16 b (o + 2), w := u16 b (o + 4), h := u16 b (o + 6), mode := u8 b (o + 8) % 4,
      kind := 3, phase := u16 b (o + 10), recovery := true, clears := false, fresh := false, whos := [] }

/-- A journal record is taken. -/
def State.applyJournal (s : State) (b : List Byte) : State :=
  let s := s.setPnl { s.pnl with seq := (u32 b 0 + 1) % 2 ^ 32 }
  let rs := journalRegions b
  if rs.isEmpty ∨ s.panelType ≠ 2 then s
  else if u32 b 8 = crc32 s.panelBody then s.setPnl { s.pnl with recover := rs }
  else
    let s := (s.setFlag Reg.pnlStatus 26 true).fillWhite s.wholePanel s.curImage
    s.setPnl { s.pnl with mustClear := true }

/-- R575, R577: at the end of MOUNT and at re-admission the newest record is loaded; a region it holds is to be recovered, or, under
another section, the panel is taken as white and is to be cleared. -/
def State.loadJournal (s : State) : State :=
  match s.journalNewest with
  | none => s
  | some b => s.applyJournal b

/-! ### The power sequence (R563 to R566) -/

/-- The clear is complete: LIGHT_DELAY runs. -/
def State.panelCleared (s : State) : State := s.setStage .lighting

/-- R564: the panel is cleared; an LCD by frames of data 0, a bistable panel by an update to level 15 where it is to be. -/
def State.panelClear (s : State) : State :=
  if s.panelType = 1 then (s.setStage .clearing).setPnl { s.pnl with stage := .clearing, since := s.chip.up, clears := u8 s.panelBody 0x1A }
  else if s.panelType = 2 ∧ (s.epdClear || s.pnl.mustClear) then
    let r := s.wholePanel
    let s := s.fillWhite r s.tgtImage
    s.setPnl { s.pnl with stage := .clearing, since := s.chip.up, mustClear := false, regions := s.pnl.regions ++ [r] }
  else s.panelCleared

/-- The rails are up: recovery runs first (R575). -/
def State.railsUp (s : State) : State :=
  if s.pnl.recover.isEmpty then s.panelClear
  else
    let rs := s.pnl.recover
    let keep := s.pnl.regions
    let s := s.setPnl { s.pnl with recover := [], stage := .recovering, since := s.chip.up, regions := keep }
    rs.foldl (fun s r => s.setRegions (s.pnl.regions ++ [{ r with slot := s.freeRegion }])) s

/-- R563: power-up starts. -/
def State.startPower (s : State) : State :=
  let s := (s.setPower 1).setPnl { s.pnl with stage := .rising, since := s.chip.up, rails := 0 }
  if s.panelRails = 0 then s.railsUp else s

/-- The power-off sequence has ended; under a new section, or with ON set again, power-up follows. -/
def State.powerEnded (s : State) : State :=
  let s := ((s.setPower 0).setStage .rest).raise 452
  let s := s.setPnl { s.pnl with old := [], rails := 0 }
  if s.panelOn then s.startPower else s

/-- The rails fall. -/
def State.fallRails (s : State) : State := if s.pnl.rails = 0 then s.powerEnded else s.setStage .falling

/-- Running updates have completed: an LCD is cleared, then the rails fall (R566). -/
def State.panelFinished (s : State) : State :=
  if s.panelType = 1 then s.setPnl { s.pnl with stage := .darkening, since := s.chip.up, clears := u8 s.panelBody 0x1A } else s.fallRails

/-- UPDSTAT of an initiator: VALID and the outcome. -/
def Upd.accepted : Nat := 0
def Upd.merged : Nat := 1
def Upd.full : Nat := 2
def Upd.range : Nat := 3
def Upd.off : Nat := 4
def Upd.discarded : Nat := 5
def State.updOutcome (s : State) (id code : Nat) : State :=
  let s := s.setNum (bankOf id Reg.pnlUpdstat) (2 ^ 31 + code * 2 ^ 28)
  if code = Upd.accepted ∨ code = Upd.merged then s else s.raise 450

/-- R566: power-off starts: the light goes out, pending updates are discarded, running ones complete. -/
def State.stopPower (s : State) : State :=
  let lost := s.pnlPending
  let s := ((s.setLit false).setPower 3).setRegions s.pnlRunning
  let s := lost.foldl (fun s r => r.whos.foldl (fun s id => s.updOutcome id Upd.discarded) s) s
  let s := s.setStage .finishing
  (if s.pnlRunning.isEmpty then s.panelFinished else s).showPanel

/-- A write of PNL.CTRL: LOCK stays set; a change of ON starts a sequence; LIGHT acts once the power-up has ended (R563, R565). -/
def State.writePanelCtrl (s : State) (v : Word) : State :=
  let on := s.panelOn
  let locked := s.flag Reg.pnlCtrl 8 || bit v.toNat 8
  let s := s.setNum Reg.pnlCtrl (v.toNat % 8 + ofBool locked * 2 ^ 8)
  if bit v.toNat 0 && !on then (if s.pnl.stage = .rest then s.startPower.showPanel else s)
  else if !bit v.toNat 0 && on then s.stopPower
  else if s.fld Reg.pnlStatus 31 30 = 2 then s.setLit (bit v.toNat 1)
  else s

/-- R563: a write of PNL.CTRL that sets ON. -/
def execPowerUp (who : Who) (value : Word) (s : State) : Reply := .next (s.gated who Reg.pnlCtrl value fun s => s.writePanelCtrl value)
/-- R566: a write of PNL.CTRL that clears ON. -/
def execPowerOff (who : Who) (value : Word) (s : State) : Reply := .next (s.gated who Reg.pnlCtrl value fun s => s.writePanelCtrl value)

/-- Time passes up to `ns` after the last step of the sequence. -/
def State.panelWait (s : State) (ns : Nat) : State := s.elapse ((s.pnl.since + ns - s.chip.up + 3) / 4)

/-- R563, R566: the next rail rises, each its DELAY_MS after the one before, or falls in reverse order. -/
def execRailStep (s : State) : Reply :=
  if !s.panelRuns then .next s
  else
    match s.pnl.stage with
    | .rising =>
      let s := s.panelWait (s.railDelay s.pnl.rails)
      let s := s.setPnl { s.pnl with rails := s.pnl.rails + 1, since := s.chip.up }
      .next (if s.panelRails ≤ s.pnl.rails then s.railsUp.showPanel else s)
    | .falling =>
      let s := s.panelWait (s.railDelay (s.pnl.rails - 1))
      let s := s.setPnl { s.pnl with rails := s.pnl.rails - 1, since := s.chip.up }
      .next (if s.pnl.rails = 0 then s.powerEnded.showPanel else s)
    | _ => .next s

/-- R563, R565: LIGHT_DELAY after the clear, PNL_LIGHT is driven where LIGHT asks for it; the power-up ends. -/
def execLightDelayExpiry (s : State) : Reply :=
  if s.panelRuns && s.pnl.stage == .lighting then
    let s := s.panelWait (1000000 * u16 s.panelBody 0x38)
    .next ((((s.setStage .rest).setPower 2).setLit (s.flag Reg.pnlCtrl 1)).raise 452)
  else .next s

/-- The level of each rail enable: that of a rail that is up is its active level (POL). -/
def State.panelEnables (s : State) : Nat :=
  (List.range (min 6 s.panelRails)).foldl (fun m k =>
    let o := 0x20 + 4 * k
    let active := decide (k < s.pnl.rails)
    if (active && u8 s.panelBody (o + 1) == 0) || (!active && u8 s.panelBody (o + 1) == 1) then setBit m (u8 s.panelBody o) else m) 0

/-! ### Requests (R569 to R571) -/

/-- The bounding rectangle of two regions. -/
def PnlRegion.bound (a b : PnlRegion) : PnlRegion :=
  let x := min a.x b.x
  let y := min a.y b.y
  { a with x := x, y := y, w := max (a.x + a.w) (b.x + b.w) - x, h := max (a.y + a.h) (b.y + b.h) - y, whos := (a.whos ++ b.whos).eraseDups }

/-- R570: a region and the pending ones it overlaps become one, again and again; the result, and those left. -/
def mergeRegions : Nat → PnlRegion → List PnlRegion → PnlRegion × List PnlRegion
  | 0, r, rs => (r, rs)
  | n + 1, r, rs =>
    match rs.find? fun x => x.kind == 1 && x.meets r with
    | none => (r, rs)
    | some x => mergeRegions n (r.bound x) (rs.filter fun y => y.slot != x.slot)

/-- A request that merges stands where the first pending region it overlaps stood. -/
def State.mergePanel (s : State) (r first : PnlRegion) : State :=
  let (m, rest) := mergeRegions s.pnl.regions.length r s.pnl.regions
  let before := (s.pnl.regions.takeWhile fun x => x.slot != first.slot).filter fun x => rest.any fun y => y.slot == x.slot
  let after := rest.filter fun x => before.all fun y => y.slot != x.slot
  s.setRegions (before ++ [{ m with slot := first.slot }] ++ after)

/-- R569 to R571: a staged rectangle is submitted with a MODE. -/
def State.submitUpdate (s : State) (id mode : Nat) : State :=
  let xy := s.reg (bankOf id Reg.pnlUpdXy)
  let wh := s.reg (bankOf id Reg.pnlUpdWh)
  let r : PnlRegion := { slot := s.freeRegion, x := field xy 10 0, y := field xy 26 16, w := field wh 10 0, h := field wh 26 16, mode := mode, kind := 1,
                         phase := 0, recovery := false, clears := false, fresh := false, whos := [id] }
  if !s.panelOn then s.updOutcome id Upd.off
  else if s.panelWidth < r.x + r.w ∨ s.panelHeight < r.y + r.h ∨ r.x % 2 = 1 ∨ r.w % 2 = 1 ∨ s.panelType ≠ 2 ∨ u8 s.panelBody 0x1B ≤ mode then
    s.updOutcome id Upd.range
  else
    match s.pnl.regions.find? fun x => x.kind == 1 && x.meets r with
    | some x => ((s.mergePanel r x).updOutcome id Upd.merged).showPanel
    | none =>
      if 16 ≤ s.pnlPending.length then s.updOutcome id Upd.full
      else ((s.setRegions (s.pnl.regions ++ [r])).updOutcome id Upd.accepted).showPanel

/-- R580: a write of PNL.UPD_GO with its KEY. -/
def execUpdGo (who : Who) (value : Word) (s : State) : Reply :=
  .next (s.gated who Reg.pnlUpdGo value fun s => if field value 31 16 = 0x504E then s.submitUpdate who.id (field value 1 0) else s)

/-! ### A frame (R559, R561, R562, R572 to R576) -/

/-- R572: pending regions start in their order while fewer than 8 run and none that runs is overlapped; not before the panel is cleared and
recovered. -/
def startRegions : List PnlRegion → List PnlRegion → List PnlRegion × List PnlRegion
  | [], done => (done, [])
  | r :: rs, done =>
    if r.kind = 1 ∧ ((done ++ rs).filter PnlRegion.runs).length < 8 ∧ ((done ++ rs).all fun x => !(x.runs && x.meets r)) = true then
      let (l, st) := startRegions rs (done ++ [{ r with kind := 2, phase := 0, fresh := true }])
      (l, r :: st)
    else startRegions rs (done ++ [r])

def State.startUpdates (s : State) : State :=
  if s.panelOn && (s.pnl.stage == .rest || s.pnl.stage == .lighting) then
    let (rs, started) := startRegions s.pnl.regions []
    started.foldl State.copyNext (s.setRegions rs)
  else s

/-- The end of a region's frame: the next one, or the end of its update or reversal (R573, R576). -/
def State.advanceRegion (s : State) (r : PnlRegion) : State :=
  let put := fun (s : State) (x : PnlRegion) => s.setRegions (s.pnl.regions.map fun y => if y.slot = x.slot then x else y)
  let free := fun (s : State) => s.setRegions (s.pnl.regions.filter fun y => y.slot != r.slot)
  if r.kind = 1 then s
  else if r.fresh then put s { r with fresh := false }
  else if r.kind = 3 then
    if r.phase = 0 then put (s.fillWhite r s.tgtImage) { r with kind := 2, mode := s.clearMode, phase := 0 }
    else put s { r with phase := r.phase - 1 }
  else if r.phase + 1 < s.modeFrames r.mode then put s { r with phase := r.phase + 1 }
  else
    let s := (free (s.copyTarget r)).raise 449
    if r.recovery then s.raise 451 else s

/-- The sequence goes on when the updates it waits for have ended. -/
def State.advanceStage (s : State) : State :=
  match s.pnl.stage with
  | .recovering => if s.pnl.regions.any fun r => r.recovery then s else s.panelClear
  | .clearing =>
    if s.panelType = 1 then
      if s.pnl.clears ≤ 1 then s.panelCleared else s.setPnl { s.pnl with clears := s.pnl.clears - 1 }
    else if s.pnl.regions.any fun r => r.clears then s else s.panelCleared
  | .finishing => if s.pnlRunning.isEmpty then s.panelFinished else s
  | .darkening => if s.pnl.clears ≤ 1 then s.fallRails else s.setPnl { s.pnl with clears := s.pnl.clears - 1 }
  | _ => s

/-- An LCD frame whose data are 0 reads nothing. -/
def State.panelDark (s : State) : Bool := s.pnl.stage == .clearing || s.pnl.stage == .darkening

/-- From the vertical sync to the end of the last active line, in ns. -/
def State.frameNs (s : State) : Nat :=
  let b := s.panelBody
  let h := (if u8 b 0 = 2 then u16 b 8 / 8 else u16 b 8) + u16 b 0xA + u16 b 0xC + u16 b 0xE
  h * (u16 b 0x10 + u16 b 0x14 + u16 b 0x16) * 1000000 / max 1 (u32 b 4)

/-- R562: the lines of an LCD frame are read from PNL.FB; data of a line that may not be read do not arrive. The number of those lines. -/
def State.readLines (s : State) : State × Nat :=
  (List.range s.panelHeight).foldl (fun (p : State × Nat) l =>
    let a := s.pnl.shown + u32 s.panelBody 0x48 * l
    let w : Who := { id := Init.pnl, mmode := false, vc := 0 }
    let n := 4 * s.panelWidth
    let c := p.1.rangeCode w a n false
    if n = 0 ∨ c = Code.ok then (p.1.charge w a n, p.2) else (p.1.engineError w a c, p.2 + 1)) (s, 0)

/-- A frame starts, at the instant `t` of its firing. -/
def State.panelFrame (s : State) (t late : Nat) : State :=
  let s := s.setPnl { s.pnl with pol := s.pnl.pol + 1, busyUntil := t + s.frameNs, shown := s.panelFb }
  let s := s.roll Reg.pnlFrames 31 0 1
  let s := if s.flag Reg.pnlCtrl 2 then s.raise 448 else s
  let s := if s.panelType = 1 && !s.panelDark then
      let (s, lost) := s.readLines
      s.bump Reg.pnlUnderrun 31 0 (min (late + lost) s.panelHeight)
    else s
  let s := if s.panelType = 2 then s.startUpdates.journalFrame else s
  let s := (s.pnl.regions).foldl State.advanceRegion s
  s.advanceStage.showPanel

/-- R559: the frame comparator fires: a frame starts, or, while lines of the one before are driven, none does. -/
def execPanelFrameStart (late : Nat) (s : State) : Reply :=
  if !s.panelRuns || s.panelType == 0 then .next s
  else
    match s.firing Consumer.pnl (u8 s.panelBody 2) (u8 s.panelBody 3) with
    | none => .next s
    | some (s, _) =>
      if s.firedAt < s.pnl.busyUntil then .next ((s.bump Reg.pnlSkips 31 0 1).raise 453) else .next (s.panelFrame s.firedAt late)

/-! ### A patch, a load, a re-admission -/

/-- TYPE, the RAIL list and the panel size of a section body. -/
def panelShape (b : List Byte) : List Byte := slice b 0 1 ++ slice b 0x19 1 ++ slice b 0x20 24 ++ slice b 8 2 ++ slice b 0x10 2

/-- PNL takes its section: PNL.FB, of which the section gives the initial value, unless a patch leaves the section as it is; a panel of
another shape powers off under the old section and up under the new. -/
def State.loadPanel (s : State) (before : Option State) : State :=
  let b := s.body Ty.panel Region.link 0
  let s := (s.setNum Reg.pnlFbLo (u64 b 0x40 % 2 ^ 32)).setNum Reg.pnlFbHi (u64 b 0x40 / 2 ^ 32 % 256)
  let s := s.setFld Reg.pnlStatus 1 0 (u8 b 0)
  match before with
  | none => s
  | some s0 =>
    let old := s0.panelBody
    if panelShape old = panelShape b ∨ (s.panelOn = false ∧ s.pnl.stage = .rest) then s
    else (s.setPnl { s.pnl with old := old }).stopPower

/-- R141 for PANEL: vertical blanking, and no region of a bistable panel runs. -/
def State.panelQuiet (s : State) : Bool := decide (s.pnl.busyUntil ≤ s.chip.up) && s.pnlRunning.isEmpty

end Sys2Proof.Machine
end

