-- ==== Sys2Proof/Machine/CommitLink.lean ====
section
/-! DEFINITION. What the blocks of the Link region take from their sections at a load, a patch or a re-admission (04, 14, 15, 16, 19): R146,
R147, R581, R604, R619, R693. -/
namespace Sys2Proof.Machine

/-! ### MIL (15) -/

/-- MIL.CTRL of a port enables the links its lanes form; a link that software had turned off trains again (R146). -/
def State.enablePort (before : Option State) (s : State) (p : Nat) : State :=
  let s := (s.setFlag (Reg.milCtrl p) 8 (s.linkExists (2 * p))).setFlag (Reg.milCtrl p) 9 (s.linkExists (2 * p + 1))
  if before.isNone then s
  else ([2 * p, 2 * p + 1] : List Nat).foldl (fun s l => if s.linkEnabled l && s.linkState l == Link.off then s.trainLink l else s) s

/-- The rings a configuration gives a port. -/
def portRings (b : List Byte) (p : Nat) : List (List Byte) := (List.range 6).map fun v => slice b (vcEntry p v + 4) 12

/-- The share of credits of a channel changes by what the patch changes it; a channel that is encrypted now exchanges keys. -/
def State.retuneVc (s0 : State) (s : State) (l v : Nat) : State :=
  let c := s.milVc l v
  let s := (s.setMilVc l v { c with credits := c.credits + s.vcCred l v - s0.vcCred l v }).showVc l v
  if s.vcEnc l v && !s0.vcEnc l v && s.linkUp l then s.startKx l v else s

def State.loadMil (s : State) (before : Option State) : State := match before with
  | none => ([0, 1] : List Nat).foldl (State.enablePort before) s
  | some s0 =>
    let s := ([0, 1] : List Nat).foldl (fun s p =>
      if portRings s0.linkStruct p = portRings s.linkStruct p then s
      else
        let now := s.blk
        let s : State := { s with blk := { s.blk with running := s0.blk.running } }
        { s.flushPort p with blk := now }) s
    let s := ((List.range 4).filter s.linkExists).foldl (fun s l => (List.range 8).foldl (fun s v => State.retuneVc s0 s l v) s) s
    let s := ([0, 1] : List Nat).foldl (State.enablePort before) s
    ((List.range 4).filter s.linkExists).foldl State.pumpLink s

/-! ### ETH (15) -/

def State.loadEth (before : Option State) (s : State) (e : Nat) : State :=
  let b := s.linkStruct
  let speed := if 2 ≤ e then 4 else u8 b (ethEntry e + 1)
  let s := match before with
    | some s0 =>
      if slice s0.linkStruct (ethEntry e + 0xC) 12 = slice b (ethEntry e + 0xC) 12 then s
      else
        let now := s.blk
        let s : State := { s with blk := { s.blk with running := s0.blk.running } }
        { s.flushEth e with blk := now }
    | none => s
  if !s.ethUsed e then s.setNum (Reg.ethPstate e) 0
  else if u8 b (ethEntry e + 1) = 0 ∧ e < 2 ∧ before.isSome = true then s
  else s.setFld (Reg.ethPstate e) 2 0 speed

/-! ### CAN (16) -/

def canEntry (k : Nat) : Nat := 0x490 + 0x20 * k
/-- What the configuration says of a controller: its entry and its filter table. -/
def State.canConfig (s : State) (k : Nat) : List Byte :=
  let b := s.linkStruct
  slice b (canEntry k) 32 ++ slice b (u32 b (canEntry k + 0x10)) (16 * u8 b (canEntry k + 0xC))
/-- A filter element's words in the window. -/
def canFilter (k f i : Nat) : Nat := 0x2B0000 + 0x10000 * k + 0x5000 + 16 * f + 4 * i

/-- MODE of a controller (R619): what the Latch has waiting is discarded and counted when the controller becomes RESTRICTED. -/
def State.canMode (s : State) (k : Nat) (restrict : Bool) : State :=
  let s := if restrict && !s.flag (Reg.canStatus k) 28 then
      let n := (s.can.latch.get k).length
      { s.bump (Reg.canHwdrop k) 31 0 n with can := { s.can with latch := s.can.latch.set k [], onBus := s.can.onBus.set k 0 } }
    else s
  s.setFlag (Reg.canStatus k) 28 restrict

/-- A controller takes its entry: its registers and the filter table; the elements behind it are OFF. -/
def State.loadCan (s : State) (k : Nat) : State :=
  let b := s.linkStruct
  let o := canEntry k
  let used := u8 b o == 1
  let mode := if used then u8 b (o + 1) % 2 else 0
  let s := (s.canMode k (mode == 1)).setFlag (Reg.canCtrl k) 0 (mode == 1)
  let s := s.setFld (Reg.canCtrl k) 7 4 (u8 b (o + 3))
  let s := (s.setNum (Reg.canNbt k) (u32 b (o + 4))).setNum (Reg.canDbt k) (u32 b (o + 8))
  (List.range 128).foldl (fun s f => (List.range 4).foldl (fun s i =>
    s.setNum (canFilter k f i) (if used && decide (f < u8 b (o + 0xC)) then u32 b (u32 b (o + 0x10) + 16 * f + 4 * i) else 0)) s) s

/-! ### HSP, TIM, PIN -/

def State.loadHosts (s : State) : State :=
  let b := s.linkStruct
  let pair := fun o => u16 b (o + 2) % 512 * 2 ^ 16 + u16 b o % 512
  (s.setNum Reg.hspIrqmap (pair 0x574)).setNum Reg.hspIrqmap2 (pair 0x578)

/-- A PTP port takes its role (R197); one whose use is new starts: INITIALIZING in MOUNT, LISTENING after it, DISABLED without a role. -/
def State.loadPort (before : Option State) (s : State) (p : Nat) : State :=
  let s := s.setFld (Reg.timPortState (p - 1)) 17 16 (s.ptpEntryRole p)
  let same := match before with
    | some s0 => s0.ptpRole p == s.ptpRole p
    | none => false
  if same then s
  else
    (s.setPtpPort p default).setPortState p
      (if s.ptpRole p = 0 then PortState.disabled else if s.mode = Mode.mount then PortState.initializing else PortState.listening)

def State.loadPorts (s : State) (before : Option State) : State := ([1, 2, 3, 4, 5, 6] : List Nat).foldl (State.loadPort before) s

/-- The levels and directions that PINMUX defines (R146, R693); the level of a GPIO that a Latch channel drives is the Latch's. -/
def State.loadGpios (s : State) : State :=
  (List.range s.variant.balls).foldl (fun s n =>
    let w := s.ballEntry n
    if w % 256 = 1 then
      let g := w / 256 % 128
      let s := s.setFlag (Reg.pinDir (g / 32)) (g % 32) (bit w 24)
      if s.latchGpio g then s else s.setFlag (Reg.pinOut (g / 32)) (g % 32) (bit w 25)
    else s) s

/-- PINMUX takes effect (R693): the entries, the banks, the GPIOs' first levels and directions, and what Latch channels drive. -/
def State.loadPins (s : State) : State :=
  let b := s.pinmuxBody
  let s := (List.range 288).foldl (fun s n => s.setNum (Reg.pinMio n) (s.ballEntry n)) s
  let banks := (List.range 6).foldl (fun m k => if u8 b (2 + k) = 0 then m else m + 2 ^ k) 0
  let s := (((s.setFld Reg.pinStatus 29 24 (s.fld Reg.pmuRails 13 8)).setFld Reg.pinStatus 13 8 banks).setFlag Reg.pinStatus 0
    (s.hasSection Ty.pinmux Region.link 0))
  let s := (List.range 128).foldl (fun s g => s.followBall g false) s.loadGpios
  (List.range 6).foldl (fun s b => if s.pinGood b then s else s.reportBank b) s

/-- The Latch drives its GPIOs again after a re-admission of Link. -/
def State.redriveLatch (s : State) : State :=
  (List.range 64).foldl (fun s c =>
    if s.latchUsed c && s.latchDrive c == 1 then s.latchOutput c (s.num (Reg.latValue c)) else s) s

/-- The Link region takes its sections. -/
def State.loadLink (s : State) (before : Option State) : State :=
  let s := (List.range 6).foldl (State.loadEth before) (s.loadMil before)
  let s := ((List.range s.variant.cans).foldl State.loadCan s).loadHosts.loadPorts before
  let s := s.loadPanel before
  if before.isSome then (List.range 128).foldl (fun s g => s.followBall g true) s.loadGpios else s.loadPins

end Sys2Proof.Machine
end

