-- ==== Sys2Proof/Machine/Solver.lean ====
section
/-! DEFINITION. The Lathe's arithmetic (06): inner products, the preconditioners, the four linear methods, the QP's ADMM, and certification
(R283 to R289). The order of operations within a named formulation is the published one (PRESUMED, log entry 145). -/
namespace Sys2Proof.Machine

abbrev Vec := List Fp
abbrev SparseRow := List (Nat × Fp)

/-- The chuck a solve runs on, its storage precision, and its rows. -/
structure Frame where
  fmt : Fmt
  cells : Nat
  rows : Nat
  deriving DecidableEq, Repr

/-! ### Inner products (R283, R285) -/

/-- One row times a vector, accumulated in FP64 in ascending columns. -/
def rowDot (row : SparseRow) (x : Vec) : Fp :=
  row.foldl (fun acc e => Fp.fma f64 .near e.2 (x.getD e.1 (.zero false)) acc) (.zero false)

/-- A sparse matrix-vector product, each element rounded once to the storage precision. -/
def spmv (f : Fmt) (a : List SparseRow) (x : Vec) : Vec := a.map fun row => (rowDot row x).convert f

/-- Neighbours added pairwise: one level of the binary tree. -/
def pairSums (d : Round) : Vec → Vec
  | a :: b :: r => Fp.add f64 d a b :: pairSums d r
  | l => l

/-- The binary tree in ascending cell order. -/
def treeSum (d : Round) : Nat → Vec → Fp
  | 0, l => l.headD (.zero false)
  | n + 1, l => if l.length ≤ 1 then l.headD (.zero false) else treeSum d n (pairSums d l)

/-- The partial of one cell, in a rounding direction: its own rows in ascending order. -/
def cellPartial (fr : Frame) (r : Round) (c : Nat) (u v : Vec) : Fp :=
  ((u.zip v).zipIdx).foldl (fun acc e =>
    if Config.rowOwner fr.rows fr.cells e.2 % max 1 fr.cells = c then Fp.fma f64 r e.1.1 e.1.2 acc else acc) (.zero false)

/-- The products of two vectors summed in FP64: the cells' partials, combined by the tree (R285). -/
def reduce (fr : Frame) (r : Round) (u v : Vec) : Fp := treeSum r fr.cells ((List.range fr.cells).map fun c => cellPartial fr r c u v)

/-- An inner product, rounded once to the storage precision (R283). -/
def dot (fr : Frame) (u v : Vec) : Fp := (reduce fr .near u v).convert fr.fmt

def norm2 (fr : Frame) (v : Vec) : Fp := (dot fr v v).sqrt f64 .near
def normInf (v : Vec) : Fp := v.foldl (fun m x => m.max x.abs) (.zero false)

/-- `a * x + y`, stored. -/
def axpy (f : Fmt) (a : Fp) (x y : Vec) : Vec := List.zipWith (fun p q => (Fp.fma f64 .near a p q).convert f) x y
def vsub (f : Fmt) (x y : Vec) : Vec := List.zipWith (fun p q => Fp.sub f .near p q) x y
def vadd (f : Fmt) (x y : Vec) : Vec := List.zipWith (fun p q => Fp.add f .near p q) x y
/-- `a * x`, stored. -/
def vscale (f : Fmt) (a : Fp) (x : Vec) : Vec := x.map fun v => (Fp.mul f64 .near a v).convert f
def zeroVec (x : Vec) : Vec := x.map fun _ => .zero false

/-- FP64 scalars, to nearest (R283, R284). -/
def sAdd : Fp → Fp → Fp := Fp.add f64 .near
def sSub : Fp → Fp → Fp := Fp.sub f64 .near
def sMul : Fp → Fp → Fp := Fp.mul f64 .near
def sDiv : Fp → Fp → Fp := Fp.div f64 .near
def sSqrt : Fp → Fp := Fp.sqrt f64 .near
/-- 2^-40, and no scalar a NaN or an infinity (R286). -/
def tiny40 : Fp := .fin false 1 (-40)
def finite (l : List Fp) : Bool := l.all Fp.isFinite

/-! ### Preconditioners -/

/-- The diagonal entry of a row; a missing one counts as 0. -/
def diagOf (i : Nat) (row : SparseRow) : Fp :=
  match row.find? fun e => e.1 == i with
  | some e => e.2
  | none => .zero false
def diagonal (a : List SparseRow) : Vec := (a.zipIdx).map fun e => diagOf e.2 e.1

/-- The diagonal block of rows and columns `lo` to `lo + k - 1`. -/
def denseBlock (a : List SparseRow) (lo k : Nat) : List Vec :=
  (List.range k).map fun i => (List.range k).map fun j => diagOf (lo + j) (a.getD (lo + i) [])

/-- A pivot not above this fails a block: 2^-40 of the largest magnitude in it. -/
def pivotLimit (m : List Vec) : Fp := sMul tiny40 (m.foldl (fun x r => r.foldl (fun y v => y.max v.abs) x) (.zero false))

/-- Row `i` of the Cholesky factor from the rows above it: its entries left of the diagonal, in ascending columns. -/
def choleskyRow (above : List Vec) (row : Vec) : Nat → Nat → Vec → Vec
  | 0, _, l => l
  | fuel + 1, j, l =>
    let lj := above.getD j []
    let s := (l.zip lj).foldl (fun acc e => Fp.fma f64 .near e.1.neg e.2 acc) (row.getD j (.zero false))
    choleskyRow above row fuel (j + 1) (l ++ [sDiv s (lj.getD j (.zero false))])

/-- The Cholesky factor, row by row; `none` where a pivot fails. -/
def cholesky (limit : Fp) : List Vec → List Vec → Option (List Vec)
  | [], done => some done
  | row :: rest, done =>
    let l := choleskyRow done row done.length 0 []
    let pivot := l.foldl (fun acc v => Fp.fma f64 .near v.neg v acc) (row.getD done.length (.zero false))
    if limit.lt pivot then cholesky limit rest (done ++ [l ++ [sSqrt pivot]]) else none

/-- L y = r, downward. -/
def solveLower : List Vec → Vec → Vec → Vec
  | [], _, y => y
  | l :: ls, r, y =>
    let s := (l.zip y).foldl (fun acc e => Fp.fma f64 .near e.1.neg e.2 acc) (r.getD y.length (.zero false))
    solveLower ls r (y ++ [sDiv s (l.getD y.length (.zero false))])

/-- Lᵀ x = y, upward, from the last of `k` rows. -/
def solveUpper (l : List Vec) (y : Vec) : Nat → Vec → Vec
  | 0, x => x
  | k + 1, x =>
    let column := ((l.drop (k + 1)).map fun r => r.getD k (.zero false))
    let s := (column.zip x).foldl (fun acc e => Fp.fma f64 .near e.1.neg e.2 acc) (y.getD k (.zero false))
    solveUpper l y k (sDiv s ((l.getD k []).getD k (.zero false)) :: x)

/-- The first row whose leading element has the largest magnitude, and the others. -/
def takePivot : List Vec → Option (Vec × List Vec)
  | [] => none
  | r :: rs => match takePivot rs with
    | none => some (r, [])
    | some (p, qs) => if (r.headD (.zero false)).abs.lt (p.headD (.zero false)).abs then some (p, r :: qs) else some (r, rs)

/-- LU with partial pivoting on rows that end in the right-hand side; `none` where a pivot fails. -/
def luSolve (limit : Fp) : Nat → List Vec → Option Vec
  | 0, _ => some []
  | n + 1, rows => match takePivot rows with
    | none => none
    | some (p, rest) =>
      let d := p.headD (.zero false)
      if limit.lt d.abs then
        let rows := rest.map fun r =>
          let m := sDiv (r.headD (.zero false)) d
          List.zipWith (fun x q => Fp.fma f64 .near m.neg q x) (r.drop 1) (p.drop 1)
        (luSolve limit n rows).map fun xs =>
          let s := ((p.drop 1).zip xs).foldl (fun acc e => Fp.fma f64 .near e.1.neg e.2 acc) (p.getD (n + 1) (.zero false))
          sDiv s d :: xs
      else none

/-- The blocks of B consecutive rows, from row 0: the first row of each and its size. -/
def blocksOf (rows b : Nat) : List (Nat × Nat) :=
  (List.range ((rows + b - 1) / max 1 b)).map fun k => (b * k, min b (rows - b * k))

/-- One diagonal block's solve: Cholesky for PCG and MINRES, LU otherwise; `none` where a pivot fails. -/
def blockSolve (spd : Bool) (m : List Vec) (r : Vec) : Option Vec :=
  let limit := pivotLimit m
  if spd then (cholesky limit m []).map fun l => solveUpper l (solveLower l r []) m.length []
  else luSolve limit m.length (List.zipWith (fun row v => row ++ [v]) m r)

/-- λmax of D⁻¹A: 1.1 times the estimate after 10 power iterations from the all-ones vector. -/
def powerEstimate (fr : Frame) (a : List SparseRow) (d : Vec) : Nat → Vec → Fp → Fp
  | 0, _, e => sMul e (f64.decode 0x3FF199999999999A)
  | n + 1, v, _ =>
    let w := List.zipWith (fun x y => (sDiv x y).convert fr.fmt) (spmv fr.fmt a v) d
    let e := sDiv (norm2 fr w) (norm2 fr v)
    powerEstimate fr a d n (vscale fr.fmt (sDiv .one (norm2 fr w)) w) e

/-- The Chebyshev iteration on [λmax / 30, λmax] from z = 0, by its three-term recurrence. -/
def chebyshevSteps (f : Fmt) (a : List SparseRow) (diag r : Vec) (theta2 delta : Fp) : Nat → Fp → Vec → Vec → Vec
  | 0, _, _, z => z
  | n + 1, rho, d, z =>
    let next := sDiv .one (sSub theta2 rho)
    let u := List.zipWith (fun x y => (sDiv x y).convert f) (vsub f r (spmv f a z)) diag
    let d := List.zipWith (fun p q => (sAdd (sMul (sMul next rho) p) (sMul (sDiv (sMul (.fin false 2 0) next) delta) q)).convert f) d u
    chebyshevSteps f a diag r theta2 delta n next d (vadd f z d)

/-- M⁻¹ as a function, or `none`: BREAKDOWN at setup (the preconditioner table; R286); `spd` for PCG and MINRES. -/
def precOf (fr : Frame) (kind order : Nat) (spd : Bool) (a : List SparseRow) (d : Vec) : Option (Vec → Vec) :=
  let f := fr.fmt
  let bad := d.any fun x => x.isZero || (spd && x.signBit)
  if kind = 0 then some id
  else if kind = 1 then
    if bad then none else some fun r => List.zipWith (fun x y => (sDiv x y).convert f) r d
  else if kind = 2 then
    let blocks := blocksOf a.length order
    let m := fun (b : Nat × Nat) => denseBlock a b.1 b.2
    if blocks.all fun b => (blockSolve spd (m b) (List.replicate b.2 (.zero false))).isSome then
      some fun r => blocks.flatMap fun b => ((blockSolve spd (m b) ((r.drop b.1).take b.2)).getD []).map fun x => x.convert f
    else none
  else
    let top := powerEstimate fr a d 10 (a.map fun _ => .one) (.zero false)
    let low := sDiv top (.fin false 30 0)
    let theta := sDiv (sAdd top low) (.fin false 2 0)
    let delta := sDiv (sSub top low) (.fin false 2 0)
    if bad || !finite [top] || !theta.isPos || !delta.isPos then none
    else some fun r =>
      let d0 := List.zipWith (fun x y => (sDiv (sDiv x y) theta).convert f) r d
      chebyshevSteps f a d r (sDiv (sMul (.fin false 2 0) theta) delta) delta order (sDiv delta theta) d0 d0

/-! ### PCG -/

/-- The state of a PCG recurrence, with the iterate of the lowest residual estimate. -/
structure Pcg where
  x : Vec
  r : Vec
  p : Vec
  rho : Fp
  best : Vec
  estimate : Fp
  deriving DecidableEq, Repr

/-- What ended a recurrence. -/
inductive Ended where
  | passed
  | limit
  | broke
  deriving DecidableEq, Repr

/-- An operator with its preconditioner and inner product. -/
structure Operator where
  apply : Vec → Vec
  prec : Vec → Vec
  dot : Vec → Vec → Fp
  fmt : Fmt

def Operator.norm (o : Operator) (v : Vec) : Fp := sSqrt (o.dot v v)

/-- Begin, or restart, from `x` with residual `r`. -/
def Operator.start (o : Operator) (x r : Vec) : Pcg :=
  let z := o.prec r
  { x := x, r := r, p := z, rho := o.dot r z, best := x, estimate := (o.dot r r).sqrt f64 .near }

/-- One iteration: `none` is a breakdown (σ ≤ 0, ρ ≤ 0, or a scalar that is not finite, R286); the second part is ‖r‖₂. -/
def Operator.step (o : Operator) (s : Pcg) : Option (Pcg × Fp) :=
  let q := o.apply s.p
  let sigma := o.dot s.p q
  if !sigma.isFinite || !s.rho.isFinite || !sigma.isPos || !s.rho.isPos then none
  else
    let alpha := Fp.div f64 .near s.rho sigma
    let x := axpy o.fmt alpha s.p s.x
    let r := axpy o.fmt alpha.neg q s.r
    let n := (o.dot r r).sqrt f64 .near
    let z := o.prec r
    let rho := o.dot r z
    let beta := Fp.div f64 .near rho s.rho
    if !alpha.isFinite || !n.isFinite || !beta.isFinite then none
    else
      let better := n.lt s.estimate
      some ({ x := x, r := r, p := axpy o.fmt beta s.p z, rho := rho, best := if better then x else s.best,
              estimate := if better then n else s.estimate }, n)

/-- PCG to a tolerance, without certification (the QP's inner solves): how it ended, iterations, state. -/
def Operator.runInner (o : Operator) (tol : Fp) : Nat → Nat → Pcg → Ended × Nat × Pcg
  | 0, it, s => (.limit, it, s)
  | fuel + 1, it, s =>
    match o.step s with
    | none => (.broke, it + 1, s)
    | some (t, n) => if n.le tol then (.passed, it + 1, t) else o.runInner tol fuel (it + 1) t

/-! ### Certification (R287, R288) -/

/-- γ = (w + 1) 2^-53 / (1 - (w + 1) 2^-53), rounded upward. -/
def gamma (w : Nat) : Fp :=
  let u := Fp.fin false (w + 1) (-53)
  Fp.div f64 .up u (Fp.sub f64 .down .one u)

/-- The longest row. -/
def widest (a : List SparseRow) : Nat := a.foldl (fun m r => max m r.length) 0

/-- The residual of x recomputed in FP64. -/
def residual (a : List SparseRow) (b x : Vec) : Vec :=
  List.zipWith (fun row bi => row.foldl (fun acc e => Fp.fma f64 .near e.2.neg (x.getD e.1 (.zero false)) acc) bi) a b

/-- |b| + |A| |x|, upward. -/
def magnitude (a : List SparseRow) (b x : Vec) : Vec :=
  List.zipWith (fun row bi => row.foldl (fun acc e => Fp.fma f64 .up e.2.abs (x.getD e.1 (.zero false)).abs acc) bi.abs) a b

/-- The certified bound RESID (R287). -/
def certifiedBound (fr : Frame) (a : List SparseRow) (b x : Vec) : Fp :=
  let norm := fun (v : Vec) => (reduce fr .up v v).sqrt f64 .up
  let rn := norm (residual a b x)
  let mn := norm (magnitude a b x)
  Fp.fma f64 .up (gamma (widest a)) mn rn

/-- ‖b‖₂ rounded downward. -/
def normDown (fr : Frame) (b : Vec) : Fp := (reduce fr .down b b).sqrt f64 .down

/-! ### Linear solves -/

/-- What a solve returns. -/
structure Solved where
  code : Nat
  iter : Nat
  inner : Nat
  x : Vec
  y : Vec
  z : Vec
  rho : Fp
  resid : Fp
  resid2 : Fp
  certRetry : Bool
  best : Vec
  estimate : Fp
  deriving DecidableEq, Repr, Inhabited

/-- A linear problem. -/
structure Linear where
  frame : Frame
  method : Nat
  mparam : Nat
  kind : Nat
  order : Nat
  a : List SparseRow
  b : Vec
  rtol : Fp
  maxit : Nat
  deriving DecidableEq, Repr

/-- The result of an iterate with its certified bounds. -/
def Linear.result (p : Linear) (code it : Nat) (x best : Vec) (estimate : Fp) (retry : Bool) : Solved :=
  { code := code, iter := it, inner := 0, x := x, y := [], z := [], rho := .zero false,
    resid := certifiedBound p.frame p.a p.b x, resid2 := normDown p.frame p.b, certRetry := retry, best := best, estimate := estimate }

def Linear.certified (p : Linear) (x : Vec) : Bool :=
  (certifiedBound p.frame p.a p.b x).le (Fp.mul f64 .down p.rtol (normDown p.frame p.b))

/-- The problem's operator with its preconditioner, or BREAKDOWN at setup. -/
def Linear.operator (p : Linear) : Option Operator :=
  (precOf p.frame p.kind p.order (decide (p.method < 2)) p.a (diagonal p.a)).map fun m =>
    { apply := spmv p.frame.fmt p.a, prec := m, dot := dot p.frame, fmt := p.frame.fmt }

/-- How a recurrence ended, the iterations done by then, its iterate, and the iterate of the lowest residual estimate so far. -/
structure Cycle where
  ended : Ended
  it : Nat
  x : Vec
  best : Vec
  estimate : Fp
  deriving DecidableEq, Repr

/-- The better of the best iterate so far and another. -/
def keepBest (c : Vec × Fp) (x : Vec) (n : Fp) : Vec × Fp := if n.lt c.2 then (x, n) else c

/-- PCG until its residual passes. -/
def Operator.runPcg (o : Operator) (tol : Fp) : Nat → Nat → Pcg → Cycle
  | 0, it, s => { ended := .limit, it := it, x := s.x, best := s.best, estimate := s.estimate }
  | fuel + 1, it, s =>
    match o.step s with
    | none => { ended := .broke, it := it + 1, x := s.x, best := s.best, estimate := s.estimate }
    | some (t, n) =>
      if n.le tol then { ended := .passed, it := it + 1, x := t.x, best := t.best, estimate := t.estimate } else o.runPcg tol fuel (it + 1) t

/-! ### MINRES (Paige and Saunders), BiCGStab (van der Vorst), GMRES(m) -/

/-- The Lanczos recurrence of MINRES and its rotations. -/
structure Minres where
  x : Vec
  r1 : Vec
  r2 : Vec
  y : Vec
  w1 : Vec
  w2 : Vec
  oldb : Fp
  beta : Fp
  dbar : Fp
  eps : Fp
  phibar : Fp
  cs : Fp
  sn : Fp
  best : Vec × Fp

/-- Begin at `x` with residual `r`; `none` where β₁² is negative or not a number. -/
def Operator.startMinres (o : Operator) (x r : Vec) (best : Vec × Fp) : Option Minres :=
  let y := o.prec r
  let b2 := o.dot r y
  if !b2.isFinite || (b2.signBit && !b2.isZero) then none
  else
    let beta := sSqrt b2
    let z := zeroVec x
    some { x := x, r1 := r, r2 := r, y := y, w1 := z, w2 := z, oldb := .zero false, beta := beta, dbar := .zero false, eps := .zero false,
           phibar := beta, cs := Fp.one.neg, sn := .zero false, best := keepBest best x beta }

/-- One Lanczos step and one rotation; `none` is a breakdown. -/
def Operator.stepMinres (o : Operator) (first : Bool) (s : Minres) : Option Minres :=
  let f := o.fmt
  let v := vscale f (sDiv .one s.beta) s.y
  let q := o.apply v
  let q := if first then q else axpy f (sDiv s.beta s.oldb).neg s.r1 q
  let alfa := o.dot v q
  let r := axpy f (sDiv alfa s.beta).neg s.r2 q
  let y := o.prec r
  let b2 := o.dot r y
  if b2.signBit && !b2.isZero then none
  else
    let beta := sSqrt b2
    let delta := sAdd (sMul s.cs s.dbar) (sMul s.sn alfa)
    let gbar := sSub (sMul s.sn s.dbar) (sMul s.cs alfa)
    let gamma := sSqrt (sAdd (sMul gbar gbar) (sMul beta beta))
    let cs := sDiv gbar gamma
    let sn := sDiv beta gamma
    let phi := sMul cs s.phibar
    let phibar := sMul sn s.phibar
    let inv := sDiv .one gamma
    let w := vscale f inv (axpy f delta.neg s.w2 (axpy f s.eps.neg s.w1 v))
    let x := axpy f phi w s.x
    if finite [alfa, beta, delta, gbar, gamma, cs, sn, phi, phibar, inv] then
      some { x := x, r1 := s.r2, r2 := r, y := y, w1 := s.w2, w2 := w, oldb := s.beta, beta := beta, dbar := (sMul s.cs beta).neg,
             eps := sMul s.sn beta, phibar := phibar, cs := cs, sn := sn, best := keepBest s.best x phibar }
    else none

/-- MINRES until its estimate of the preconditioned residual passes. A zero βₖ² is no breakdown where the estimate passes with it. -/
def Operator.runMinres (o : Operator) (tol : Fp) (first : Bool) : Nat → Nat → Minres → Cycle
  | 0, it, s => { ended := if first && s.phibar.le tol then .passed else .limit, it := it, x := s.x, best := s.best.1, estimate := s.best.2 }
  | fuel + 1, it, s =>
    if first && s.phibar.le tol then { ended := .passed, it := it, x := s.x, best := s.best.1, estimate := s.best.2 }
    else
      match o.stepMinres first s with
      | none => { ended := .broke, it := it + 1, x := s.x, best := s.best.1, estimate := s.best.2 }
      | some t =>
        let c : Cycle := { ended := .passed, it := it + 1, x := t.x, best := t.best.1, estimate := t.best.2 }
        if t.phibar.abs.le tol then c else if t.beta.isZero then { c with ended := .broke } else o.runMinres tol false fuel (it + 1) t

/-- BiCGStab, right preconditioned. -/
structure Bicg where
  x : Vec
  r : Vec
  p : Vec
  v : Vec
  rho : Fp
  alpha : Fp
  omega : Fp
  best : Vec × Fp

def startBicg (x r : Vec) (best : Vec × Fp) : Bicg :=
  { x := x, r := r, p := zeroVec x, v := zeroVec x, rho := .one, alpha := .one, omega := .one, best := best }

/-- BiCGStab until ‖s‖ or ‖r‖ passes; a small ρ, a small shadowᵀv, and a zero tᵀt break it down. -/
def Operator.runBicg (o : Operator) (tol : Fp) (shadow : Vec) : Nat → Nat → Bicg → Cycle
  | 0, it, s => { ended := .limit, it := it, x := s.x, best := s.best.1, estimate := s.best.2 }
  | fuel + 1, it, s =>
    let f := o.fmt
    let broke : Cycle := { ended := .broke, it := it + 1, x := s.x, best := s.best.1, estimate := s.best.2 }
    let rho := o.dot shadow s.r
    if rho.abs.le (sMul tiny40 (sMul (o.norm shadow) (o.norm s.r))) then broke
    else
      let beta := sMul (sDiv rho s.rho) (sDiv s.alpha s.omega)
      let p := axpy f beta (axpy f s.omega.neg s.v s.p) s.r
      let y := o.prec p
      let v := o.apply y
      let d := o.dot shadow v
      let alpha := sDiv rho d
      if !finite [rho, beta, d] || d.abs.le (sMul tiny40 (sMul (o.norm shadow) (o.norm v))) || !finite [alpha] then broke
      else
        let q := axpy f alpha.neg v s.r
        let nq := o.norm q
        let x := axpy f alpha y s.x
        if nq.le tol then
          let b := keepBest s.best x nq
          { ended := .passed, it := it + 1, x := x, best := b.1, estimate := b.2 }
        else
          let z := o.prec q
          let t := o.apply z
          let tt := o.dot t t
          let omega := sDiv (o.dot t q) tt
          let r := axpy f omega.neg t q
          let n := o.norm r
          if tt.isZero || !finite [nq, tt, omega, n] then broke
          else
            let x := axpy f omega z x
            let b := keepBest s.best x n
            if n.le tol then { ended := .passed, it := it + 1, x := x, best := b.1, estimate := b.2 }
            else o.runBicg tol shadow fuel (it + 1) { x := x, r := r, p := p, v := v, rho := rho, alpha := alpha, omega := omega, best := b }

/-- A cycle of GMRES: the basis, the columns of the rotated Hessenberg matrix, the rotated right-hand side, and the rotations. -/
structure Gmres where
  basis : List Vec
  cols : List Vec
  g : Vec
  rot : List (Fp × Fp)

/-- A column under the rotations so far. -/
def rotateColumn : List (Fp × Fp) → Vec → Vec
  | (c, s) :: rs, a :: b :: l => sAdd (sMul c a) (sMul s b) :: rotateColumn rs (sSub (sMul c b) (sMul s a) :: l)
  | _, l => l

/-- The small triangular system, from the last of `k` unknowns. -/
def backSolve (cols : List Vec) (g : Vec) : Nat → Vec → Vec
  | 0, y => y
  | k + 1, y =>
    let row := (cols.drop (k + 1)).map fun c => c.getD k (.zero false)
    let s := (row.zip y).foldl (fun acc e => Fp.fma f64 .near e.1.neg e.2 acc) (g.getD k (.zero false))
    backSolve cols g k (sDiv s ((cols.getD k []).getD k (.zero false)) :: y)

/-- x + M⁻¹ Σ yᵢ vᵢ, with the scalars y. -/
def Operator.gmresIterate (o : Operator) (x : Vec) (s : Gmres) : Vec × Vec :=
  let y := backSolve s.cols s.g s.cols.length []
  (vadd o.fmt x (o.prec ((y.zip s.basis).foldl (fun acc e => axpy o.fmt e.1 e.2 acc) (zeroVec x))), y)

/-- One inner step by modified Gram-Schmidt and a Givens rotation; the second part is ‖A v‖₂ and the subdiagonal element. -/
def Operator.stepGmres (o : Operator) (s : Gmres) : Option (Gmres × Fp × Fp) :=
  let f := o.fmt
  let w := o.apply (o.prec (s.basis.getLastD []))
  let nw := o.norm w
  let (w, h) := s.basis.foldl (fun (e : Vec × Vec) v =>
    let k := o.dot e.1 v
    (axpy f k.neg v e.1, e.2 ++ [k])) (w, [])
  let sub := o.norm w
  let col := rotateColumn s.rot (h ++ [sub])
  let a := col.getD (col.length - 2) (.zero false)
  let r := sSqrt (sAdd (sMul a a) (sMul sub sub))
  let c := sDiv a r
  let sn := sDiv sub r
  let j := s.cols.length
  let gj := s.g.getD j (.zero false)
  let g := s.g.take j ++ [sMul c gj, (sMul sn gj).neg]
  if finite (nw :: sub :: r :: c :: sn :: (h ++ g)) then
    some ({ basis := s.basis ++ [vscale f (sDiv .one sub) w], cols := s.cols ++ [col.take (col.length - 2) ++ [r]], g := g,
            rot := s.rot ++ [(c, sn)] }, nw, sub)
  else none

/-- GMRES(m) until the rotated residual estimate passes, with a restart after m inner steps. -/
def Operator.runGmres (o : Operator) (m : Nat) (tol : Fp) (b : Vec) : Nat → Nat → Vec → Gmres → Vec × Fp → Cycle
  | 0, it, x, s, best =>
    let (y, sc) := if s.cols.isEmpty then (x, []) else o.gmresIterate x s
    let best := if s.cols.isEmpty then best else keepBest best y (s.g.getLastD (.zero false)).abs
    { ended := if finite sc then .limit else .broke, it := it, x := y, best := best.1, estimate := best.2 }
  | fuel + 1, it, x, s, best =>
    let broke : Cycle := { ended := .broke, it := it + 1, x := x, best := best.1, estimate := best.2 }
    match o.stepGmres s with
    | none => broke
    | some (t, nw, sub) =>
      let est := (t.g.getLastD (.zero false)).abs
      let early := sub.le (sMul (.fin false 1 (-52)) nw)
      if early || est.le tol || t.cols.length == m then
        let (y, sc) := o.gmresIterate x t
        let best := keepBest best y est
        if !finite sc then broke
        else if early || est.le tol then { ended := .passed, it := it + 1, x := y, best := best.1, estimate := best.2 }
        else
          let r := vsub o.fmt b (o.apply y)
          let beta := o.norm r
          if !finite [beta] || beta.isZero then { broke with x := y, best := best.1, estimate := best.2 }
          else o.runGmres m tol b fuel (it + 1) y { basis := [vscale o.fmt (sDiv .one beta) r], cols := [], g := [beta], rot := [] } best
      else o.runGmres m tol b fuel (it + 1) x t best

/-- A method's recurrence from `x` with residual `r`, for at most `fuel` iterations more. -/
def Linear.cycle (p : Linear) (o : Operator) (tol : Fp) (fuel it : Nat) (x r : Vec) (best : Vec × Fp) : Cycle :=
  let broke : Cycle := { ended := .broke, it := it, x := x, best := best.1, estimate := best.2 }
  if p.method = 0 then
    let s := o.start x r
    let b := keepBest best x s.estimate
    if finite [s.estimate, s.rho] then o.runPcg tol fuel it { s with best := b.1, estimate := b.2 } else broke
  else if p.method = 1 then
    match o.startMinres x r best with
    | none => broke
    | some s => o.runMinres tol true fuel it s
  else if p.method = 2 then o.runBicg tol r fuel it (startBicg x r (keepBest best x (o.norm r)))
  else
    let beta := o.norm r
    if !finite [beta] then broke
    else if beta.le tol then { broke with ended := .passed }
    else o.runGmres p.mparam tol p.b fuel it x { basis := [vscale o.fmt (sDiv .one beta) r], cols := [], g := [beta], rot := [] }
      (keepBest best x beta)

/-- A method with certification: a failed one sets CERT_RETRY, and the recurrence restarts from the recomputed residual within MAXIT (R288). -/
def Linear.drive (p : Linear) (o : Operator) (tol : Fp) (limit : Nat) : Nat → Nat → Bool → Vec → Vec → Vec × Fp → Solved
  | 0, it, retry, x, _, best => p.result 3 it x best.1 best.2 retry
  | fuel + 1, it, retry, x, r, best =>
    let c := p.cycle o tol (limit - it) it x r best
    match c.ended with
    | .broke => { p.result 4 c.it c.x c.best c.estimate retry with resid := c.estimate }
    | .limit => p.result 3 c.it c.x c.best c.estimate retry
    | .passed =>
      if p.certified c.x then p.result 0 c.it c.x c.best c.estimate retry
      else p.drive o tol limit fuel c.it true c.x ((residual p.a p.b c.x).map fun v => v.convert p.frame.fmt) (c.best, c.estimate)

/-- A linear solve from `x0`, of at most `limit` iterations. -/
def Linear.solve (p : Linear) (x0 : Vec) (limit : Nat) : Solved :=
  let f := p.frame.fmt
  let limit := min limit p.maxit
  let nb := norm2 p.frame p.b
  let setup := { p.result 4 0 x0 x0 (.zero false) false with iter := 0 }
  if p.b.all Fp.isZero then p.result 0 0 (zeroVec p.b) x0 (.zero false) false
  else if !nb.isFinite then setup
  else
    match p.operator with
    | none => setup
    | some o => p.drive o (sMul p.rtol nb) limit (limit + 1) 0 false x0 (vsub f p.b (spmv f p.a x0)) (x0, .inf false)

/-! ### The constrained QP -/

/-- A QP: P, q, C, l, u and the ADMM's parameters. -/
structure Qp where
  frame : Frame
  kind : Nat
  p : List SparseRow
  q : Vec
  c : List SparseRow
  l : Vec
  u : Vec
  rtol : Fp
  maxit : Nat
  innerMax : Nat
  epsAbs : Fp
  epsRel : Fp
  sigma : Fp
  deriving DecidableEq, Repr

/-- Cᵀ v of `n` columns, in ascending rows. -/
def spmvT (f : Fmt) (n : Nat) (c : List SparseRow) (v : Vec) : Vec :=
  (List.range n).map fun j =>
    ((c.zip v).foldl (fun acc e => Fp.fma f64 .near (diagOf j e.1) e.2 acc) (.zero false)).convert f

/-- ρ of each constraint: 1,000 times where l = u. -/
def Qp.rhos (p : Qp) (rho : Fp) : Vec :=
  List.zipWith (fun l u => if l.le u && u.le l then Fp.mul f64 .near (.fin false 1000 0) rho else rho) p.l p.u

/-- (P + σ I + Cᵀ diag(ρ) C) v. -/
def Qp.apply (p : Qp) (rs v : Vec) : Vec :=
  let f := p.frame.fmt
  let t := List.zipWith (fun r w => (Fp.mul f64 .near r w).convert f) rs (spmv f p.c v)
  let ct := spmvT f p.frame.rows p.c t
  List.zipWith (fun a b => Fp.add f .near a b) (axpy f p.sigma v (spmv f p.p v)) ct

/-- The Jacobi diagonal of the inner matrix. -/
def Qp.diag (p : Qp) (rs : Vec) : Vec :=
  (p.p.zipIdx).map fun e =>
    let base := Fp.add f64 .near (diagOf e.2 e.1) p.sigma
    (p.c.zip rs).foldl (fun acc g =>
      let x := diagOf e.2 g.1
      Fp.fma f64 .near g.2 (Fp.mul f64 .near x x) acc) base

def Qp.operator (p : Qp) (rs : Vec) : Option Operator :=
  (precOf p.frame p.kind 0 true [] (p.diag rs)).map fun m => { apply := p.apply rs, prec := m, dot := dot p.frame, fmt := p.frame.fmt }

/-- The iterate of the ADMM, and the best one so far. -/
structure Admm where
  x : Vec
  z : Vec
  y : Vec
  rho : Fp
  inner : Nat
  best : Vec
  estimate : Fp
  deriving DecidableEq, Repr

/-- The residuals of an iterate and what they are compared with: rp, rd, and their two norms. -/
def Qp.residuals (p : Qp) (x z y : Vec) : Fp × Fp × Fp × Fp :=
  let f := p.frame.fmt
  let w := spmv f p.c x
  let px := spmv f p.p x
  let cy := spmvT f p.frame.rows p.c y
  let rd := List.zipWith (fun a b => Fp.add f64 .near a b) (List.zipWith (fun a b => Fp.add f64 .near a b) px p.q) cy
  (normInf (List.zipWith (fun a b => Fp.sub f64 .near a b) w z), normInf rd, (normInf w).max (normInf z),
   ((normInf px).max (normInf cy)).max (normInf p.q))

/-- rp and rd within εa + εr times their norms. -/
def Qp.within (p : Qp) (rp rd np nd : Fp) : Bool :=
  rp.le (Fp.fma f64 .near p.epsRel np p.epsAbs) && rd.le (Fp.fma f64 .near p.epsRel nd p.epsAbs)

/-- The upward-rounded bounds of rp and rd (R289). -/
def Qp.bounds (p : Qp) (x z y : Vec) : Fp × Fp :=
  let up := fun (rows : List SparseRow) (b v : Vec) =>
    let g := gamma (widest rows)
    normInf (List.zipWith (fun r m => Fp.fma f64 .up g m r.abs) (residual rows b v) (magnitude rows b v))
  let n := p.frame.rows
  let rows := (List.range n).map fun j =>
    (p.p.getD j []) ++ ((p.c.zipIdx).filterMap fun e =>
      match e.1.find? fun g => g.1 == j with
      | some g => some (n + e.2, g.2)
      | none => none)
  (up p.c z x, up rows (p.q.map Fp.neg) (x ++ y))

/-- Balance ρ (every tenth iteration); `none` where a normalised residual is not a number (R286). -/
def Qp.balance (_p : Qp) (rho rp rd np nd : Fp) : Option Fp :=
  let a := sDiv rp np
  let b := sDiv rd nd
  let ten := Fp.fin false 10 0
  let r := if (sMul ten b).lt a then sMul (.fin false 2 0) rho else if (sMul ten a).lt b then sDiv rho (.fin false 2 0) else rho
  let lo := sDiv .one (.fin false 1000000 0)
  if finite [a, b] then some ((r.max lo).min (.fin false 1000000 0)) else none

/-- One outer iteration: `none` is an inner breakdown. -/
def Qp.outer (p : Qp) (s : Admm) : Option Admm :=
  let f := p.frame.fmt
  let rs := p.rhos s.rho
  match p.operator rs with
  | none => none
  | some o =>
    let t := List.zipWith (fun (e : Fp × Fp) y => (Fp.fma f64 .near e.1 e.2 y.neg).convert f) (rs.zip s.z) s.y
    let rhs := vadd f (List.zipWith (fun x q => (Fp.fma f64 .near p.sigma x q.neg).convert f) s.x p.q) (spmvT f p.frame.rows p.c t)
    let r := vsub f rhs (o.apply s.x)
    let nr := o.norm rhs
    let tol := sMul p.rtol nr
    let done := if !finite [nr, o.norm r] then (Ended.broke, 0, o.start s.x r)
      else if (o.norm r).le tol then (Ended.passed, 0, o.start s.x r)
      else o.runInner tol p.innerMax 0 (o.start s.x r)
    match done with
    | (.broke, _, _) => none
    | (_, it, st) =>
      let w := spmv f p.c st.x
      let v := List.zipWith (fun (e : Fp × Fp) r => Fp.add f .near e.1 ((sDiv e.2 r).convert f)) (w.zip s.y) rs
      let z := List.zipWith (fun (e : Fp × Fp) u => (e.1.max e.2).min u) (v.zip p.l) p.u
      let y := List.zipWith (fun (e : Fp × Fp) r => (Fp.fma f64 .near r e.1 e.2).convert f)
        ((List.zipWith (fun a b => sSub a b) w z).zip s.y) rs
      some { s with x := st.x, z := z, y := y, inner := s.inner + it }

def Qp.result (p : Qp) (code it : Nat) (s : Admm) (retry : Bool) : Solved :=
  let b := p.bounds s.x s.z s.y
  { code := code, iter := it, inner := s.inner, x := s.x, y := s.y, z := s.z, rho := s.rho, resid := b.1, resid2 := b.2,
    certRetry := retry, best := s.best, estimate := s.estimate }

/-- The ADMM loop: its test, the certified bounds (R289), and the balance of ρ. -/
def Qp.loop (p : Qp) : Nat → Nat → Bool → Admm → Solved
  | 0, k, retry, s => p.result 3 k s retry
  | fuel + 1, k, retry, s =>
    match p.outer s with
    | none => p.result 4 (k + 1) s retry
    | some t =>
      let (rp, rd, np, nd) := p.residuals t.x t.z t.y
      if !finite [rp, rd, np, nd] then p.result 4 (k + 1) t retry
      else
        let e := rp.max rd
        let t := if e.lt t.estimate then { t with best := t.x ++ t.y, estimate := e } else t
        let b := p.bounds t.x t.z t.y
        if p.within rp rd np nd && p.within b.1 b.2 np nd then p.result 0 (k + 1) t retry
        else
          let retry := retry || p.within rp rd np nd
          if (k + 1) % 10 = 0 then
            match p.balance t.rho rp rd np nd with
            | none => p.result 4 (k + 1) t retry
            | some rho => p.loop fuel (k + 1) retry { t with rho := rho }
          else p.loop fuel (k + 1) retry t

/-- A QP solve from x, z, y and ρ, of at most `limit` outer iterations. -/
def Qp.solve (p : Qp) (x z y : Vec) (rho : Fp) (limit : Nat) : Solved :=
  let s : Admm := { x := x, z := z, y := y, rho := rho, inner := 0, best := x ++ y, estimate := .inf false }
  if (p.operator (p.rhos rho)).isNone then p.result 4 0 s false
  else p.loop (min limit p.maxit) 0 false s

end Sys2Proof.Machine
end

