-- ==== Sys2Proof/Machine/LatheData.lean ====
section
/-! DEFINITION. The Lathe's descriptor, problem data, footprint, structure signature and warm-start entries (06): R268 to R274 and
R290 to R294. -/
namespace Sys2Proof.Machine

/-! ### The descriptor (R272) -/

abbrev Desc := List Byte

def Desc.method (d : Desc) : Nat := u8 d 0
def Desc.isQp (d : Desc) : Bool := d.method == 4
def Desc.mparam (d : Desc) : Nat := u8 d 1
def Desc.kind (d : Desc) : Nat := u8 d 2 % 16
def Desc.order (d : Desc) : Nat := u8 d 2 / 16
def Desc.flag (d : Desc) (b : Nat) : Bool := bit (u8 d 3) b
def Desc.fmt (d : Desc) : Fmt := if d.flag 0 then f64 else f32
def Desc.v (d : Desc) : Nat := if d.flag 0 then 8 else 4
def Desc.warm (d : Desc) : Bool := d.flag 1
def Desc.keep (d : Desc) : Bool := d.flag 2
def Desc.noDeadline (d : Desc) : Bool := d.flag 3
def Desc.chuck (d : Desc) : Nat := u8 d 4
def Desc.rslot (d : Desc) : Nat := u8 d 5
def Desc.wsrc (d : Desc) : Nat := u8 d 6
def Desc.sig (d : Desc) : Nat := u64 d 8
def Desc.deadline (d : Desc) : Nat := u64 d 0x10
def Desc.base (d : Desc) : Nat := leNat (slice d 0x18 5)
def Desc.rows (d : Desc) : Nat := leNat (slice d 0x1D 3)
def Desc.nnz (d : Desc) : Nat := u32 d 0x20
def Desc.at (d : Desc) (o : Nat) : Nat := d.base + u32 d o
def Desc.tagOff (d : Desc) : Nat := u32 d 0x38
def Desc.tagged (d : Desc) : Bool := d.tagOff != 0xFFFFFFFF
def Desc.maxit (d : Desc) : Nat := u16 d 0x3C
def Desc.rtol (d : Desc) : Fp := bf16.decode (u16 d 0x3E)

/-- The QP extension (64 bytes at BASE + B_OFF). -/
def State.qpExt (s : State) (d : Desc) : List Byte := s.bytes (d.at 0x30) 64
def Qpx.m (x : List Byte) : Nat := u32 x 0
def Qpx.nnzc (x : List Byte) : Nat := u32 x 4

/-- A positive finite bfloat16. -/
def posFinite (b : Nat) : Bool :=
  match bf16.decode b with
  | .fin n _ _ => !n
  | _ => false

/-- METHOD and PREC may stand together. -/
def precPermitted (method kind : Nat) : Bool :=
  if method ≤ 1 then decide (kind ≤ 3) else if method ≤ 3 then decide (kind ≤ 2) else decide (kind ≤ 1)

/-- A place is a multiple of an element size. -/
def aligned (a n : Nat) : Bool := a % n == 0

/-- The extension's fields lie in their ranges. -/
def State.qpValid (s : State) (d : Desc) : Bool :=
  let x := s.qpExt d
  decide (1 ≤ Qpx.m x) && decide (Qpx.m x ≤ 65536) && decide (1 ≤ Qpx.nnzc x) && decide (1 ≤ u16 x 0x24) &&
    decide (u16 x 0x24 ≤ 1000) && posFinite (u16 x 0x26) && posFinite (u16 x 0x28) && posFinite (u16 x 0x2A) &&
    u64 x 0x30 == 0 && u64 x 0x38 == 0 && aligned (d.base + u32 x 8) 4 && aligned (d.base + u32 x 0xC) 4 &&
    aligned (d.base + u32 x 0x10) d.v && aligned (d.base + u32 x 0x14) d.v && aligned (d.base + u32 x 0x18) d.v &&
    aligned (d.base + u32 x 0x1C) d.v && (u32 x 0x20 == 0xFFFFFFFF || aligned (d.base + u32 x 0x20) 4)

/-- The running LATHE section's warm-start fields. -/
def State.nwarm (s : State) (n : Nat) : Nat := u16 (s.latheBody n) 2
def State.warmSize (s : State) (n : Nat) : Nat := u32 (s.latheBody n) 4
def State.warmAddr (s : State) (n e : Nat) : Nat := u64 (s.latheBody n) 8 % 2 ^ 40 + s.warmSize n * e

/-- R273: the descriptor is valid on Lathe `n`. -/
def State.descValid (s : State) (n : Nat) (d : Desc) : Bool :=
  decide (d.method ≤ 4) &&
    (if d.method = 3 then decide (1 ≤ d.mparam) && decide (d.mparam ≤ 32) else d.mparam == 0) && decide (d.kind ≤ 3) &&
    (if 2 ≤ d.kind then decide (1 ≤ d.order) && decide (d.order ≤ 8) else d.order == 0) &&
    precPermitted d.method d.kind && u8 d 7 == 0 &&
    (if d.warm || d.keep then decide (d.wsrc < s.nwarm n) else d.wsrc == 0) &&
    (if d.noDeadline then d.deadline == 0 else s.deadlineValid d.deadline) && decide (1 ≤ d.rows) && decide (d.rows ≤ 65536) &&
    decide (1 ≤ d.nnz) && decide (1 ≤ d.maxit) && posFinite (u16 d 0x3E) && aligned (d.at 0x24) 4 && aligned (d.at 0x28) 4 &&
    aligned (d.at 0x2C) d.v && aligned (d.at 0x30) (if d.isQp then 4 else d.v) && aligned (d.at 0x34) d.v &&
    (!d.tagged || aligned (d.at 0x38) 4) && (!d.isQp || s.qpValid d)

/-! ### The data -/

/-- `k` 32-bit words from an address, and `k` numbers of a format. -/
def State.words (s : State) (a k : Nat) : List Nat := (List.range k).map fun i => s.mem32 (a + 4 * i)
def State.numbers (s : State) (f : Fmt) (a k : Nat) : Vec :=
  (List.range k).map fun i => f.decode (leNat (s.bytes (a + f.bytes * i) f.bytes))

/-- Row pointers, column indices and values of a matrix. -/
structure CsrData where
  ptr : List Nat
  idx : List Nat
  val : Vec

def State.matrixA (s : State) (d : Desc) : CsrData :=
  { ptr := s.words (d.at 0x24) (d.rows + 1), idx := s.words (d.at 0x28) d.nnz, val := s.numbers d.fmt (d.at 0x2C) d.nnz }
def State.matrixC (s : State) (d : Desc) : CsrData :=
  let x := s.qpExt d
  { ptr := s.words (d.base + u32 x 8) (Qpx.m x + 1), idx := s.words (d.base + u32 x 0xC) (Qpx.nnzc x),
    val := s.numbers d.fmt (d.base + u32 x 0x10) (Qpx.nnzc x) }

/-- The entries of row `i`. -/
def CsrData.row (c : CsrData) (i : Nat) : SparseRow :=
  let lo := c.ptr.getD i 0
  let hi := c.ptr.getD (i + 1) 0
  ((c.idx.zip c.val).drop lo).take (hi - lo)
def CsrData.rowsOf (c : CsrData) : List SparseRow := (List.range (c.ptr.length - 1)).map c.row

def strictlyRising : List Nat → Bool
  | a :: b :: r => decide (a < b) && strictlyRising (b :: r)
  | _ => true

/-- The first row that breaks R268, for `cols` columns and `nnz` nonzeros. -/
def CsrData.badRow (c : CsrData) (nnz cols : Nat) : Option Nat :=
  let rows := c.ptr.length - 1
  if c.ptr.headD 0 ≠ 0 then some 0
  else
    match (List.range rows).find? fun i =>
        decide (c.ptr.getD (i + 1) 0 < c.ptr.getD i 0) || decide (nnz < c.ptr.getD (i + 1) 0) ||
          !strictlyRising ((c.row i).map Prod.fst) || (c.row i).any fun e => decide (cols ≤ e.1) with
    | some i => some i
    | none => if c.ptr.getD rows 0 ≠ nnz then some (rows - 1) else none

/-- The first element that is not a number, or an infinity where none is allowed. -/
def badElement (allowInf : Bool) (v : Vec) : Option Nat :=
  ((v.zipIdx).find? fun e => e.1.isNan || (!allowInf && !e.1.isFinite)).map Prod.snd

/-- The linear cost and the bounds of a QP. -/
def State.qpVec (s : State) (d : Desc) (o k : Nat) : Vec := s.numbers d.fmt (d.base + u32 (s.qpExt d) o) k

def firstSome : List (Option Nat) → Option Nat
  | [] => none
  | some a :: _ => some a
  | none :: r => firstSome r

/-- R268: the failing row of the problem. -/
def State.structFail (s : State) (d : Desc) : Option Nat :=
  firstSome ((s.matrixA d).badRow d.nnz d.rows ::
    (if d.isQp then [(s.matrixC d).badRow (Qpx.nnzc (s.qpExt d)) d.rows] else []))

/-- R269: the failing element of the problem. -/
def State.dataFail (s : State) (d : Desc) : Option Nat :=
  let a := badElement false (s.matrixA d).val
  if d.isQp then
    let m := Qpx.m (s.qpExt d)
    let l := s.qpVec d 0x18 m
    let u := s.qpVec d 0x1C m
    firstSome [a, badElement false (s.matrixC d).val, badElement false (s.qpVec d 0x14 d.rows), badElement true l, badElement true u,
      (((l.zip u).zipIdx).find? fun e => e.1.2.lt e.1.1).map Prod.snd]
  else firstSome [a, badElement false (s.numbers d.fmt (d.at 0x30) d.rows)]

/-- The structure signature (R270). -/
def State.signature (s : State) (d : Desc) : Nat :=
  let part := fun (c : CsrData) => (c.ptr.flatMap (leBytes 4)) ++ (c.idx.flatMap (leBytes 4))
  let x := s.qpExt d
  let msg := leBytes 4 d.rows ++ leBytes 4 d.nnz ++ part (s.matrixA d) ++
    (if d.isQp then leBytes 4 (Qpx.m x) ++ leBytes 4 (Qpx.nnzc x) ++ part (s.matrixC d) else [])
  leNat (Config.shake256 msg 8)

/-! ### Footprint (R271) -/

/-- Work vectors of a method, and of a preconditioner. -/
def workVectors (method mparam : Nat) : Nat :=
  if method = 0 then 5 else if method = 1 then 6 else if method = 2 then 8 else mparam + 3
def precVectors (kind order : Nat) : Nat := if kind = 0 then 0 else if kind = 1 then 1 else if kind = 2 then order else 2

/-- The footprint in bytes. -/
def State.footprint (s : State) (d : Desc) : Nat :=
  let p := precVectors d.kind d.order
  if d.isQp then
    let m := Qpx.m (s.qpExt d)
    (d.v + 4) * (d.nnz + Qpx.nnzc (s.qpExt d)) + 4 * (d.rows + 1) + 4 * (m + 1) + d.v * ((8 + p) * d.rows + 5 * m)
  else (d.v + 4) * d.nnz + 4 * (d.rows + 1) + d.v * (workVectors d.method d.mparam + p) * d.rows

/-! ### Warm-start entries (R290 to R294) -/

/-- An entry's header fields. -/
def State.warmWord (s : State) (n e o : Nat) : Nat := s.mem32 (s.warmAddr n e + o)
def State.warmFlag (s : State) (n e b : Nat) : Bool := bit (s.warmWord n e 0) b
def State.warmSig (s : State) (n e : Nat) : Nat := s.mem64 (s.warmAddr n e + 8)

/-- The entry's data: tags, x, and of a QP constraint tags, z and y, converted to `f`. -/
structure WarmData where
  tags : List Nat
  x : Vec
  ctags : List Nat
  z : Vec
  y : Vec

def State.warmData (s : State) (n e : Nat) (f : Fmt) : WarmData :=
  let a := s.warmAddr n e + 0x40
  let k := s.warmWord n e 4
  let m := s.warmWord n e 0x10
  let g := if s.warmFlag n e 1 then f64 else f32
  let cv := fun (v : Vec) => v.map fun x => x.convert f
  { tags := s.words a k, x := cv (s.numbers g (a + 4 * k) k), ctags := s.words (a + (4 + g.bytes) * k) m,
    z := cv (s.numbers g (a + (4 + g.bytes) * k + 4 * m) m),
    y := cv (s.numbers g (a + (4 + g.bytes) * k + (4 + g.bytes) * m) m) }

/-- The position of the first repeated tag's second occurrence (R293). -/
def duplicateAt : List Nat → Nat → List Nat → Option Nat
  | _, _, [] => none
  | seen, i, t :: ts => if seen.contains t then some i else duplicateAt (t :: seen) (i + 1) ts

/-- Each tag's stored value, 0 where none matches, and the number matched (R291). -/
def remap (tags stored : List Nat) (vals : Vec) : Vec × Nat :=
  let find := fun t => ((stored.zip vals).find? fun e => e.1 == t).map Prod.snd
  (tags.map fun t => (find t).getD (.zero false), (tags.filter fun t => (find t).isSome).length)

/-- What a warm start gives a run: values, flags, the count matched, or a duplicate tag's row. -/
structure WarmStart where
  x : Vec
  z : Vec
  y : Vec
  rho : Fp
  remapped : Bool
  discarded : Bool
  matched : Nat
  bad : Option Nat

/-- A cold start of `rows` unknowns and `m` constraints. -/
def coldStart (rows m : Nat) (discarded : Bool) : WarmStart :=
  { x := List.replicate rows (.zero false), z := List.replicate m (.zero false), y := List.replicate m (.zero false),
    rho := .zero false, remapped := false, discarded := discarded, matched := 0, bad := none }

/-- The tags of a descriptor's unknowns and constraints. -/
def State.descTags (s : State) (d : Desc) : List Nat := s.words (d.at 0x38) d.rows
def State.descCtags (s : State) (d : Desc) : List Nat :=
  let x := s.qpExt d
  if !d.isQp ∨ u32 x 0x20 = 0xFFFFFFFF then [] else s.words (d.base + u32 x 0x20) (Qpx.m x)

/-- The start of a descriptor's solve on Lathe `n` (R290 to R293). -/
def State.warmStart (s : State) (n : Nat) (d : Desc) : WarmStart :=
  let m := if d.isQp then Qpx.m (s.qpExt d) else 0
  let e := d.wsrc
  if !d.warm then coldStart d.rows m false
  else if !s.warmFlag n e 0 then coldStart d.rows m true
  else
    let w := s.warmData n e d.fmt
    let rho := f64.decode (s.mem64 (s.warmAddr n e + 0x20))
    if s.warmSig n e = d.sig then
      { x := (List.range d.rows).map fun i => w.x.getD i (.zero false), z := (List.range m).map fun i => w.z.getD i (.zero false),
        y := (List.range m).map fun i => w.y.getD i (.zero false), rho := rho, remapped := false, discarded := false,
        matched := 0, bad := none }
    else if !d.tagged || !s.warmFlag n e 3 then coldStart d.rows m true
    else
      let tags := s.descTags d
      let ctags := s.descCtags d
      let both := !ctags.isEmpty && s.warmFlag n e 4
      let bad := firstSome ([duplicateAt [] 0 tags, duplicateAt [] 0 w.tags] ++ (if both then [duplicateAt [] 0 ctags, duplicateAt [] 0 w.ctags] else []))
      let (x, k) := remap tags w.tags w.x
      if k * 100 < s.fld (Reg.lthWarm n) 6 0 * d.rows then { coldStart d.rows m true with matched := k, bad := bad }
      else
        let cold := List.replicate m (Fp.zero false)
        { x := x, z := if both then (remap ctags w.ctags w.z).1 else cold, y := if both then (remap ctags w.ctags w.y).1 else cold,
          rho := rho, remapped := true, discarded := false, matched := k, bad := bad }

/-- The bytes of a vector. -/
def vecBytes (f : Fmt) (v : Vec) : List Byte := v.flatMap fun x => leBytes f.bytes (f.encode x)

/-- Bytes an entry of a problem needs (06, warm start). -/
def warmNeed (rows m v : Nat) : Nat := 64 + rows * (4 + v) + m * (4 + 2 * v)

/-- The record a KEEP descriptor writes (R294). -/
def State.warmRecord (s : State) (n : Nat) (d : Desc) (r : Solved) (seq : Nat) : List Byte :=
  let e := d.wsrc
  let m := if d.isQp then Qpx.m (s.qpExt d) else 0
  let ctags := s.descCtags d
  let ok := r.code == 0
  let was := s.warmFlag n e 0
  let state := 1 + 2 * ofBool (d.flag 0) + 4 * ofBool d.isQp + 8 * ofBool d.tagged + 16 * ofBool (!ctags.isEmpty) +
    32 * ofBool (ok || (was && s.warmFlag n e 5))
  let iters := if ok then r.iter + r.inner else if was then s.warmWord n e 0x18 else 0
  let tags := if d.tagged then s.descTags d else List.replicate d.rows 0
  leBytes 4 state ++ leBytes 4 d.rows ++ leBytes 8 d.sig ++ leBytes 4 m ++ leBytes 4 seq ++ leBytes 4 iters ++ leBytes 4 0 ++
    leBytes 8 (if d.isQp then f64.encode r.rho else 0) ++ List.replicate 24 0#8 ++ tags.flatMap (leBytes 4) ++ vecBytes d.fmt r.x ++
    (if d.isQp then ((List.range m).flatMap fun i => leBytes 4 (ctags.getD i 0)) ++ vecBytes d.fmt r.z ++ vecBytes d.fmt r.y else [])

/-! ### The solve -/

def State.linearOf (s : State) (d : Desc) (cells : Nat) : Linear :=
  { frame := { fmt := d.fmt, cells := cells, rows := d.rows }, method := d.method, mparam := d.mparam, kind := d.kind,
    order := d.order, a := (s.matrixA d).rowsOf, b := s.numbers d.fmt (d.at 0x30) d.rows, rtol := d.rtol, maxit := d.maxit }

def State.qpOf (s : State) (d : Desc) (cells : Nat) : Qp :=
  let x := s.qpExt d
  let m := Qpx.m x
  { frame := { fmt := d.fmt, cells := cells, rows := d.rows }, kind := d.kind, p := (s.matrixA d).rowsOf,
    q := s.qpVec d 0x14 d.rows, c := (s.matrixC d).rowsOf, l := s.qpVec d 0x18 m, u := s.qpVec d 0x1C m, rtol := d.rtol,
    maxit := d.maxit, innerMax := u16 x 0x24, epsAbs := bf16.decode (u16 x 0x26), epsRel := bf16.decode (u16 x 0x28),
    sigma := bf16.decode (u16 x 0x2A) }

/-- ρ a QP starts from: RHO0, or the entry's, or 0.1. -/
def State.startRho (s : State) (d : Desc) (kept : Fp) : Fp :=
  let r := f32.decode (u32 (s.qpExt d) 0x2C)
  if !r.isZero then r
  else if !kept.isZero then kept
  else f64.decode 0x3FB999999999999A

/-- The solve of a run on a chuck of `cells`, of at most `limit` iterations. -/
def State.solve (s : State) (r : LatheRun) (cells limit : Nat) : Solved :=
  let d : Desc := r.job.desc
  let v := fun (l : List Nat) => l.map d.fmt.decode
  if d.isQp then (s.qpOf d cells).solve (v r.x) (v r.z) (v r.y) (s.startRho d (f64.decode r.rho)) limit
  else (s.linearOf d cells).solve (v r.x) limit

end Sys2Proof.Machine
end

