-- ==== Sys2Proof/Machine/Slots.lean ====
section
/-! DEFINITION. Reads of a result slot's STATUS and of its last payload word, and TAKE (R17 to R23). A slot is memory; the
checks of a memory access come first. -/
namespace Sys2Proof.Machine

/-- A snapshot of the newest completed result is taken (R18), and what STATUS returns of it (R17, R21). -/
def State.takeSnapshot (s : State) (addr : Nat) : State × Nat :=
  let k := s.slots.get addr
  let k := match k.waiting with
    | some r => { k with shown := some r, waiting := none, reads := 0 }
    | none => k
  match k.shown with
  | none => ({ s with slots := s.slots.set addr k }, 0)
  | some r =>
    let w := statusWord r k.fresh k.reads
    let s := { s with slots := s.slots.set addr { k with held := true, reads := min 15 (k.reads + 1) } }
    (s.showResult addr r k.fresh k.reads, w)

/-- The length in bytes of the payload a slot shows. -/
def Slot.payloadBytes (k : Slot) : Nat :=
  match k.shown with
  | some r => r.payload.length
  | none => 0

/-- R22: TAKE releases the slot: READY and REPEAT become 0, SEQ and payload stay. -/
def State.takeSlot (s : State) (addr : Nat) : State :=
  let k := s.slots.get addr
  let s := { s with slots := s.slots.set addr { k with held := false, fresh := false, reads := 0 } }
  match k.shown with
  | some r => s.engineWrite (engineWho k.writer) addr (leBytes 4 (statusWord r false 0))
  | none => s

end Sys2Proof.Machine
end

