-- ==== Sys2Proof/Machine/FedReply.lean ====
section
/-! DEFINITION. The federation unit's section, messages and the member's reply at a Lathe completion (07). -/
namespace Sys2Proof.Machine

/-! ### The FED section -/

def State.fedBody (s : State) : List Byte := s.body Ty.fed Region.solve 0
def State.fedRole (s : State) : Nat := u8 s.fedBody 0
def Fed.none : Nat := 0
def Fed.member : Nat := 1
def Fed.area : Nat := 2
def Fed.top : Nat := 3
def State.fedGen (s : State) : Nat := u32 s.fedBody 4
def State.fedSpindle (s : State) : Nat := u8 s.fedBody 8
def State.planRounds (s : State) : Nat := max 1 (u16 s.fedBody 0xA)
def State.nchild (s : State) : Nat := min 1024 (u16 s.fedBody 0xE)
def State.memberDl (s : State) : Nat := u32 s.fedBody 0x10
def State.replyAngle (s : State) : Nat := s.memberDl - u32 s.fedBody 0x18
def State.ncomp (s : State) : Nat := u8 s.fedBody 0x2E
def State.fedMem (s : State) : Nat := u64 s.fedBody 0x30 % 2 ^ 40
def State.fedArea (s : State) : Nat := u64 s.fedBody 0x38 % 2 ^ 40
def State.ng (s : State) : Nat := u32 s.fedBody 0x40
def State.upIdx (s : State) : Nat := u32 s.fedBody 0x44
def State.upN (s : State) : Nat := u16 s.fedBody 0x48
/-- A child entry: its nodes, kind, components, first index-table entry and entry count. -/
def childEntry (c : Nat) : Nat := 0x50 + 16 * c
def State.childNode (s : State) (c k : Nat) : Nat := u16 s.fedBody (childEntry c + 2 * k)
def State.childIsArea (s : State) (c : Nat) : Bool := u8 s.fedBody (childEntry c + 6) == 1
def State.childNc (s : State) (c : Nat) : Nat := u8 s.fedBody (childEntry c + 7)
def State.childIdx (s : State) (c : Nat) : Nat := u32 s.fedBody (childEntry c + 8)
def State.childNidx (s : State) (c : Nat) : Nat := u16 s.fedBody (childEntry c + 12)
/-- An index-table entry: G and the weight in sixteenths. -/
def State.tableG (s : State) (i : Nat) : Nat := u16 s.fedBody (0x50 + 16 * s.nchild + 4 * i)
def State.tableW (s : State) (i : Nat) : Nat := u8 s.fedBody (0x50 + 16 * s.nchild + 4 * i + 2)
/-- The Stock address of the plan result slot. -/
def State.planSlot (s : State) : Nat := Addr.stock + u32 s.solveStruct 0x40

/-- FED runs: it is present with a role, the control engines run, and Solve is not fenced. -/
def State.fedRuns (s : State) : Bool := s.variant.hasFed && s.fedRole != 0 && s.controlRuns && !s.fenced Region.solve
def State.fedEnabled (s : State) : Bool := s.flag Reg.fedCtrl 0

/-! ### Messages on VC7 -/

def Mtype.tick : Nat := 1
def Mtype.down : Nat := 2
def Mtype.up : Nat := 3
def Mtype.plan : Nat := 4
def Mtype.areaDown : Nat := 5
def Mtype.areaUp : Nat := 6
def Mtype.areaPlan : Nat := 7

/-- Fields of a received payload. -/
def Fmsg.type (m : List Byte) : Nat := u8 m 0
def Fmsg.flags (m : List Byte) : Nat := u8 m 1
def Fmsg.nent (m : List Byte) : Nat := u8 m 2
def Fmsg.frag (m : List Byte) : Nat := u8 m 3
def Fmsg.src (m : List Byte) : Nat := u16 m 4 % 2 ^ 14
def Fmsg.dst (m : List Byte) : Nat := u16 m 6 % 2 ^ 14
def Fmsg.gen (m : List Byte) : Nat := u32 m 8
def Fmsg.round (m : List Byte) : Nat := u32 m 0xC
def Fmsg.plan (m : List Byte) : Nat := u32 m 0x10
def Fmsg.claim (m : List Byte) : Nat := u32 m 0x14
def Fmsg.rho (m : List Byte) : Nat := u32 m 0x18
def Fmsg.code (m : List Byte) : Nat := u16 m 0x1C
def Fmsg.failed (m : List Byte) : Bool := bit (Fmsg.flags m) 2
def Fmsg.last (m : List Byte) : Bool := bit (Fmsg.flags m) 3

/-- The 32-byte header of a message this node sends. -/
def State.fedHeader (s : State) (type flags nent frag dst round plan rho code : Nat) : List Byte :=
  leBytes 1 type ++ leBytes 1 flags ++ leBytes 1 nent ++ leBytes 1 frag ++ leBytes 2 s.blk.node ++ leBytes 2 dst ++
    leBytes 4 s.fedGen ++ leBytes 4 round ++ leBytes 4 plan ++ leBytes 4 (s.num Reg.hngClaim) ++ leBytes 4 rho ++ leBytes 2 code ++
    [0#8, 0#8]

/-- The nodes of the parent set. -/
def State.parentNodes (s : State) : List Nat :=
  ((List.range 3).map fun k => u16 s.fedBody (0x28 + 2 * k)).filter fun n => n != 0xFFFF

/-- A message is dropped: the first one in a round raises source 181. -/
def State.fedDrop (s : State) (counter : Nat) : State :=
  let s := s.bump counter 31 0 1
  if s.fed.dropped then s else { s with fed := { s.fed with dropped := true } }.raise 181

/-- A message from the parent set: a lower claim is dropped, a higher one kept (R336). One from another node is not of the federation's tree and is
let go without a count (DESIGN CHOICE, log entry 148). -/
def State.parentClaim (s : State) (m : List Byte) : State × Bool :=
  if !s.parentNodes.contains (Fmsg.src m) then (s, false)
  else if Fmsg.claim m < s.num Reg.fedClaimHi then (s.fedDrop Reg.fedDropClaim, false)
  else (s.setNum Reg.fedClaimHi (Fmsg.claim m), true)

/-- The round and period a node sees: FED.ROUND, and STATUS.IDLE once the plan of the period is written. -/
def State.seeRound (s : State) (round plan : Nat) : State :=
  (s.setNum Reg.fedRound round).setFlag Reg.fedStatus 27 (match s.fed.plan with
    | some p => p.number == plan
    | none => false)

/-- A node accepts a message of its own FGEN addressed to it (R335). -/
def State.fedAccepts (s : State) (m : List Byte) : Option State :=
  if Fmsg.gen m ≠ s.fedGen then some (s.fedDrop Reg.fedDropGen)
  else if Fmsg.dst m ≠ s.blk.node then some s
  else none

/-- The child whose set holds a node, and the node's position. -/
def State.childOf (s : State) (node : Nat) : Option (Nat × Nat) :=
  (List.range s.nchild).findSome? fun c =>
    ((List.range 3).find? fun k => s.childNode c k == node).map fun k => (c, k)

/-- TRAVEL of the FED spindle since the round's start. -/
def State.roundAngle (s : State) : Nat := ((s.spin s.fedSpindle).travel + 2 ^ 64 - s.fed.began) % 2 ^ 64
/-- The angle a coordinator stops accepting a child's messages at: MEMBER_DL of members, AREA_DL of area children (R315). -/
def State.acceptAngle (s : State) (area : Bool) : Nat := if area then u32 s.fedBody 0x14 else s.memberDl

/-- A coordinator takes a message from a child: one after the close or of another round is counted and dropped (R327). -/
def State.fromChild (s : State) (m : List Byte) (area : Bool) (take : State → Nat → State) : State :=
  match s.fedAccepts m with
  | some s => s
  | none =>
    match s.childOf (Fmsg.src m) with
    | none => s
    | some (c, k) =>
      if s.childIsArea c ≠ area then s
      else if Fmsg.claim m < s.fed.claims.get c then s.fedDrop Reg.fedDropClaim
      else if s.fed.closed ∨ Fmsg.round m ≠ s.fed.round ∨ s.acceptAngle area ≤ s.roundAngle then s.fedDrop Reg.fedDropLate
      else
        let s := { s with fed := { s.fed with claims := s.fed.claims.set c (Fmsg.claim m) } }
        take ((s.setFld (Reg.fedChild c) 15 14 k).setFld (Reg.fedChild c) 13 0 (Fmsg.src m)) c

/-- An UP with values: they are this round's; with FAILED it counts as absent. -/
def State.receiveUp (s : State) (m : List Byte) : State :=
  s.fromChild m false fun s c =>
    if Fmsg.failed m then s
    else
      let vs := (List.range (s.childNc c)).map fun i => u32 m (0x20 + 4 * i)
      { s with fed := { s.fed with values := s.fed.values.set c (some vs), flags := s.fed.flags.set c (Fmsg.flags m % 4) } }

/-- A message leaves on VC7, a TICK (to 0x4000, no node) as a broadcast; with ENABLE 0 nothing does. A member message of the node to itself stays
inside (R312): an UP is taken at once, a DOWN when the round's messages are out; its plan slot is the coordinator's own. -/
def State.fedSend (s : State) (dst : Nat) (m : List Byte) : State :=
  if !s.fedEnabled then s
  else if dst = s.blk.node then
    if Fmsg.type m = Mtype.up then s.receiveUp m
    else if Fmsg.type m = Mtype.down then { s with fed := { s.fed with inside := s.fed.inside ++ [m] } }
    else s
  else s.milOriginate 0 7 dst (decide (dst = 0x4000)) m

/-! ### The member's reply (R319) -/

/-- A component table entry of the member area. -/
def State.compJvar (s : State) (c : Nat) : Nat := s.mem32 (s.fedMem + 0x40 + 32 * c)
def State.compPidx (s : State) (c : Nat) : Nat := s.mem32 (s.fedMem + 0x44 + 32 * c)
def State.compP0 (s : State) (c : Nat) : Fp := f64.decode (s.mem64 (s.fedMem + 0x48 + 32 * c))
def State.compQ0 (s : State) (c : Nat) : Fp := f64.decode (s.mem64 (s.fedMem + 0x50 + 32 * c))
def State.fedTemplate (s : State) : Desc := s.bytes s.fedMem 64

/-- At the completion of the descriptor of a DOWN with `code` the member sends its UP to the node that sent it, clears BUSY and takes the result
slot. -/
def State.fedReply (s : State) (n : Nat) (j : LatheJob) (a : FedAsk) (code : Nat) (seasoning subst : Bool) : State :=
  let d : Desc := j.desc
  let good := code == 0 || code == 3
  let flags := ofBool seasoning + 2 * ofBool subst + 4 * ofBool (!good)
  let nc := s.ncomp
  let values := if good then
      (List.range nc).flatMap fun c =>
        let x := d.fmt.decode (leNat (s.bytes (d.at 0x34 + d.v * s.compJvar c) d.v))
        leBytes 4 (f32.encode (x.convert f32))
    else []
  let s := { s with fed := { s.fed with asked := s.fed.asked.filter fun b => b.ticket != j.ticket } }
  let s := s.fedSend a.src (s.fedHeader Mtype.up flags (if good then nc else 0) 0 a.src a.round a.plan 0 code ++ values)
  let s := (s.setFlag Reg.fedMstatus 31 (!s.fed.asked.isEmpty)).setFld Reg.fedMstatus 15 0 code
  s.takeSlot (Addr.stock + u32 s.solveStruct (16 * n + 4) + 128 * d.rslot)

end Sys2Proof.Machine
end

