-- ==== Sys2Proof/Machine/Lathe.lean ====
section
/-! DEFINITION. The Lathes (06): submission, queue and dispatch, prediction, completion, cancellation, cell faults, and the
sequencers' faults (R275 to R309). -/
namespace Sys2Proof.Machine

def Lth.deadlineMiss : Nat := 1
def Lth.predictedMiss : Nat := 2
def Lth.notConverged : Nat := 3
def Lth.breakdown : Nat := 4
def Lth.structInvalid : Nat := 0x130
def Lth.footprint : Nat := 0x131
def Lth.descInvalid : Nat := 0x132
def Lth.dataInvalid : Nat := 0x133
def Lth.cancelled : Nat := 0x134
def Lth.cellFault : Nat := 0x135
def Lth.dataError : Nat := 0x136

def State.lth (s : State) (n : Nat) : LatheState := s.lathe.get n
def State.setLth (s : State) (n : Nat) (l : LatheState) : State := { s with lathe := s.lathe.set n l }
def State.latheSource (_ : State) (n e : Nat) : Nat := 112 + 16 * n + e

/-- The Lathe runs: it is present, the control engines run, and Solve is not fenced. -/
def State.latheRuns (s : State) (n : Nat) : Bool :=
  decide (n < s.variant.lathes) && s.controlRuns && !s.fenced Region.solve

def State.chuckOut (s : State) (n c : Nat) : Bool :=
  if c < 32 then s.flag (Reg.lthOutLo n) c else s.flag (Reg.lthOutHi n) (c - 32)
def State.chuckRun (s : State) (n c : Nat) : Option LatheRun := (s.lth n).runs.get c
def State.nchuck (s : State) (n : Nat) : Nat := min 64 (u8 (s.latheBody n) 0)

/-- LTH.STATUS, QDEPTH, RUN and CHUCK show the queue and the runs. -/
def State.showLathe (s : State) (n : Nat) : State :=
  let l := s.lth n
  let q := l.queue.length
  let running := (List.range 64).filter fun c => (l.runs.get c).isSome
  let s := ((s.setFld (Reg.lthStatus n) 10 0 q).setFld (Reg.lthStatus n) 22 16 running.length).setFlag (Reg.lthStatus n) 31
    (!running.isEmpty)
  let s := s.setFld (Reg.lthQdepth n) 10 0 q
  let s := if s.fld (Reg.lthQdepth n) 26 16 < q then s.setFld (Reg.lthQdepth n) 26 16 q else s
  let s := (s.setNum (Reg.lthRunLo n) ((running.filter (· < 32)).foldl setBit 0)).setNum (Reg.lthRunHi n)
    (((running.filter (32 ≤ ·)).map (· - 32)).foldl setBit 0)
  (List.range (s.nchuck n)).foldl (fun s c =>
    match l.runs.get c with
    | some r => (s.setFlag (Reg.lthChuck n c) 30 true).setFld (Reg.lthChuck n c) 15 0 r.job.ticket
    | none => (s.setFlag (Reg.lthChuck n c) 30 false).setFld (Reg.lthChuck n c) 15 0 0) s

/-! ### Completion (R302 to R304) -/

/-- What a completion reports besides its code. -/
structure LatheReport where
  iter : Nat := 0
  inner : Nat := 0
  flags : Nat := 0
  resid : Nat := 0
  resid2 : Nat := 0
  matched : Nat := 0
  detail : Nat := 0
  start : Option Nat := none
  rho : Nat := 0
  seasoning : Bool := false
  subst : Bool := false
  deriving DecidableEq, Repr

/-- The slot address of a descriptor's result. -/
def State.latheSlot (s : State) (n : Nat) (d : Desc) : Nat := Addr.stock + u32 s.solveStruct (16 * n + 4) + 128 * d.rslot

/-- The completion carries SEASONING for its deadline (R258, R259, R303). -/
def State.deadlineSeasons (s : State) (d : Desc) : Bool :=
  if d.noDeadline then false
  else if d.deadline / 2 ^ 63 = 0 then s.flag Reg.timStatus 4
  else s.spinFlag (d.deadline / 2 ^ 60 % 8) Spn.seasoning

def State.deadlineSubsts (s : State) (d : Desc) : Bool := !d.noDeadline && s.deadlineSubstitute d.deadline

/-- ERR of a code. -/
def Lth.err (code : Nat) : Bool := code != 0 && code != Lth.notConverged

/-- The counters, sources and records of a completion. -/
def State.countLathe (s : State) (n code : Nat) (ie : Bool) : State :=
  let s :=
    if code = 0 then s.bump (Reg.lthNOk n) 31 0 1
    else if code = Lth.notConverged then s.bump (Reg.lthNNc n) 31 0 1
    else if code = Lth.deadlineMiss then
      ((s.bump (Reg.lthNMiss n) 31 0 1).raise (s.latheSource n 3)).blockEvent 0x0C (0x10 + n) 0 Act.refused code 0
    else if code = Lth.predictedMiss then
      ((s.bump (Reg.lthNPred n) 31 0 1).raise (s.latheSource n 2)).blockEvent 0x0C (0x10 + n) 0 Act.refused code 0
    else
      let s := s.bump (Reg.lthNErr n) 31 0 1
      if code = Lth.breakdown then s.blockEvent 0x0D (0x10 + n) 0 Act.refused code 0 else s
  let s := if Lth.err code then s.raise (s.latheSource n 1) else s
  if ie then s.raise (s.latheSource n 0) else s

/-- A descriptor completes: its slot receives the result, counters and sources follow, and the task dispatcher is offered
the event (R302 to R304); a federation member replies (R319). -/
def State.completeJob (s : State) (n : Nat) (j : LatheJob) (code : Nat) (r : LatheReport) : State :=
  let d : Desc := j.desc
  let subst := d.flag 6 || r.subst || s.deadlineSubsts d
  let season := d.flag 5 || r.seasoning || s.deadlineSeasons d
  let payload := leBytes 4 j.ticket ++ leBytes 4 r.iter ++ leBytes 4 r.inner ++
    leBytes 4 (r.flags + (if subst ∧ bit r.flags 2 = false then 4 else 0)) ++ leBytes 8 r.resid ++ leBytes 8 r.resid2 ++ leBytes 4 r.matched ++
    leBytes 4 r.detail ++ leBytes 8 ((r.start.map stampWord).getD 0) ++ leBytes 8 (stampWord s.now) ++ leBytes 8 r.rho
  let s := s.dmaWrite (engineWho (8 + n)) (s.latheSlot n d + 0x50) (List.replicate 48 0#8)
  let s := s.post (8 + n) (s.latheSlot n d) code (Lth.err code) season false payload
  let s := (s.countLathe n code (d.flag 7)).offerEvent 3 (256 * n + d.rslot)
  match s.fed.asked.find? fun a => j.who == Init.fed && a.ticket == j.ticket with
  | some a => s.fedReply n j a code season subst
  | none => s

/-- A queued descriptor leaves the queue and completes. -/
def State.dropJob (s : State) (n : Nat) (j : LatheJob) (code : Nat) (p : LatheReport) : State :=
  let l := s.lth n
  let s := s.setLth n { l with queue := l.queue.filter fun k => k.ticket != j.ticket }
  (s.completeJob n j code p).showLathe n

/-- A descriptor that completes at its dispatch (R303: its warm-start entry lacked OKSEEN then). -/
def State.dispatchReport (s : State) (n : Nat) (d : Desc) (detail : Nat) : LatheReport :=
  { detail := detail, start := some s.now, seasoning := d.warm && !s.warmFlag n d.wsrc 5, subst := s.deadlineSubsts d }

/-- A chuck is free again, and its descriptor completes. -/
def State.endRun (s : State) (n c : Nat) (r : LatheRun) (code : Nat) (p : LatheReport) : State :=
  let l := s.lth n
  let s := s.setLth n { l with runs := l.runs.set c none }
  let flags := p.flags + ofBool r.remapped + 2 * ofBool r.discarded + 2 ^ 16 * c
  (s.completeJob n r.job code { p with flags := flags, matched := r.matched, start := some r.start, seasoning := r.seasoning,
                                       subst := r.subst }).showLathe n

/-! ### Submission (R275 to R277) -/

/-- Entries an initiator holds queued. -/
def State.heldBy (s : State) (n id : Nat) : Nat := ((s.lth n).queue.filter fun j => j.who == id).length
def State.qlimit (s : State) (n id : Nat) : Nat := u16 (s.latheBody n) (0x40 + 2 * id)

/-- The reason a submission is refused for, 0 if it is accepted (R276). -/
def State.refuseReason (s : State) (n id : Nat) : Nat :=
  if !s.flag (Reg.lthQctrl n) 0 then 1
  else if s.qlimit n id = 0 then 2
  else if s.qlimit n id ≤ s.heldBy n id then 3
  else if 1024 ≤ (s.lth n).queue.length then 4
  else 0

/-- A submission by an initiator; the second part is the ticket it received (R276, R277, R281). -/
def State.submitDesc (s : State) (n id : Nat) (desc : List Byte) : State × Option Nat :=
  let ticketReg := bankOf id (Reg.lthTicket n)
  let reason := s.refuseReason n id
  if reason ≠ 0 then
    (((s.setNum ticketReg (2 ^ 31 + 2 ^ 30 + reason * 2 ^ 24)).raise (s.latheSource n 6)), none)
  else
    let l := s.lth n
    let j : LatheJob := { ticket := l.next, who := id, desc := desc }
    let s := s.setNum ticketReg (2 ^ 31 + l.next)
    let s := s.setLth n { l with queue := l.queue ++ [j], next := (l.next + 1) % 2 ^ 24 }
    let s := s.showLathe n
    let water := s.fld (Reg.lthQwater n) 10 0
    let s := if water ≠ 0 ∧ (s.lth n).queue.length = water then s.raise (s.latheSource n 5) else s
    let d : Desc := desc
    if !d.noDeadline && s.deadlineValid d.deadline && s.deadlinePassed d.deadline then
      (s.dropJob n j Lth.deadlineMiss {}, some j.ticket)
    else (s, some j.ticket)

/-- R275: a write of LTH.SUBMIT. -/
def execLatheSubmit (who : Who) (lathe : Nat) (value : Word) (s : State) : Reply :=
  let n := lathe % 4
  let off := field value 23 6 * 64
  .next (s.gatedOr who (Reg.lthSubmit n) value fun s =>
    if s.variant.stockBytes ≤ off then .error Code.absent
    else if (s.badWordIn (Addr.stock + off) 64).isSome then .error Code.uncorrectable
    else .ok ((s.charge (engineWho (8 + n)) (Addr.stock + off) 64).submitDesc n who.id (s.bytes (Addr.stock + off) 64)).1)

/-! ### Dispatch (R279, R280, R306) -/

/-- What the sequencer does with a descriptor now. -/
inductive Dispatch where
  | wait
  | refuse (code detail : Nat)
  | run (chuck : Nat)
  deriving DecidableEq, Repr

/-- The chucks a problem of `f` bytes fits, smallest first, lowest number first among equals. -/
def State.fitting (s : State) (n f : Nat) : List Nat :=
  let fits := (List.range (s.nchuck n)).filter fun c => decide (f ≤ 32768 * s.chuckCells n c)
  (List.range 7).flatMap fun k => fits.filter fun c => s.chuckCells n c == 4 * 2 ^ k

/-- The failed cell of a chuck, for DETAIL. -/
def State.failedCell (s : State) (n c : Nat) : Nat :=
  ((List.range (s.chuckCells n c)).find? fun i =>
    let k := s.chuckFirst n c + i
    s.flag (Reg.lthCellfail n (k / 32)) (k % 32)).getD 0 + s.chuckFirst n c

/-- The decision for one descriptor (R271, R274, R280, R281, R306). -/
def State.dispatchOf (s : State) (n : Nat) (d : Desc) : Dispatch :=
  if !d.noDeadline && s.deadlineValid d.deadline && s.deadlinePassed d.deadline then .refuse Lth.deadlineMiss 0
  else if !s.descValid n d then .refuse Lth.descInvalid 0
  else
    let fit := s.fitting n (s.footprint d)
    let free := fun c => (s.chuckRun n c).isNone
    if d.chuck = 0xFF then
      match fit.filter fun c => !s.chuckOut n c with
      | [] => (match fit with
        | [] => .refuse Lth.footprint 0
        | c :: _ => .refuse Lth.cellFault (s.failedCell n c))
      | ins =>
        match ins.find? free with
        | some c => .run c
        | none => .wait
    else if d.chuck < s.nchuck n ∧ s.chuckOut n d.chuck = true then .refuse Lth.cellFault (s.failedCell n d.chuck)
    else if !fit.contains d.chuck then .refuse Lth.footprint 0
    else if free d.chuck then .run d.chuck
    else .wait

/-- `a` goes before `b`: the earlier deadline, NODL last, then the lower ticket counted from the oldest (R279). -/
def State.jobBefore (s : State) (oldest : Nat) (a b : LatheJob) : Bool :=
  let da : Desc := a.desc
  let db : Desc := b.desc
  let age := fun (j : LatheJob) => (j.ticket + 2 ^ 24 - oldest) % 2 ^ 24
  if da.noDeadline then db.noDeadline && decide (age a < age b)
  else if db.noDeadline then true
  else
    let x := s.deadlineNs da.deadline
    let y := s.deadlineNs db.deadline
    decide (x < y) || (x == y && decide (age a < age b))

def State.insertJob (s : State) (oldest : Nat) (j : LatheJob) : List LatheJob → List LatheJob
  | [] => [j]
  | k :: ks => if s.jobBefore oldest j k then j :: k :: ks else k :: s.insertJob oldest j ks

/-- The queue in the order of dispatch. -/
def State.jobOrder (s : State) (n : Nat) : List LatheJob :=
  let q := (s.lth n).queue
  let oldest := match q with | j :: _ => j.ticket | [] => 0
  q.foldr (s.insertJob oldest) []

/-- ps a byte takes to load from its memory (the timing table). -/
def loadPs (a : Nat) : Nat := if Addr.ddr ≤ a then 1250 else if Addr.mram ≤ a ∧ a < Addr.mram + 0x1000000 then 12500 else 625

/-- Bytes of the data block, and of the output area. -/
def State.dataBytes (s : State) (d : Desc) : Nat :=
  4 * (d.rows + 1) + (4 + d.v) * d.nnz + (if d.tagged then 4 * d.rows else 0) +
    (if d.isQp then
      let m := Qpx.m (s.qpExt d)
      64 + 4 * (m + 1) + (4 + d.v) * Qpx.nnzc (s.qpExt d) + d.v * (d.rows + 2 * m)
     else d.v * d.rows)
def State.outputBytes (s : State) (d : Desc) : Nat :=
  d.v * (d.rows + if d.isQp then Qpx.m (s.qpExt d) else 0)

/-- Setup cost in iterations (the preconditioner table). -/
def setupCost (kind : Nat) : Nat := if kind = 0 then 0 else if kind = 1 then 2 else if kind = 2 then 3 else 12

def Desc.rateIndex (d : Desc) : Nat := 2 * d.method + ofBool (d.flag 0)

/-- Bytes of a problem's warm-start entry. -/
def State.warmBytes (s : State) (d : Desc) : Nat := warmNeed d.rows (if d.isQp then Qpx.m (s.qpExt d) else 0) d.v

/-- T_load in ps, by the bounds of the timing table: the data block, the warm-start entry, and the signature check. -/
def State.loadPsOf (s : State) (n : Nat) (d : Desc) : Nat :=
  let m := if d.isQp then Qpx.m (s.qpExt d) else 0
  let pattern := 4 * (d.rows + 1 + d.nnz) + (if d.isQp then 4 * (m + 1 + Qpx.nnzc (s.qpExt d)) else 0)
  s.dataBytes d * loadPs d.base / 10 + (if d.warm then s.warmBytes d * loadPs (s.warmAddr n d.wsrc) / 10 else 0) +
    (if d.flag 4 then pattern * 500 else 0)

/-- T_wb in ps: the output area, the warm-start entry, and 2 µs. -/
def State.backTime (s : State) (d : Desc) : Nat := (s.outputBytes d + if d.keep then s.warmBytes d else 0) * 625 / 10 + 2000000

/-- R300: the descriptor is predicted to miss its deadline on a chuck of `cells`. The signatures agree, so nothing is remapped. -/
def State.predictsMiss (s : State) (n : Nat) (d : Desc) (cells : Nat) : Bool :=
  let e := d.wsrc
  let rate := s.reg (Reg.lthRate n d.rateIndex)
  if d.noDeadline || !bit rate.toNat 31 || !d.warm || !s.warmFlag n e 0 || !s.warmFlag n e 5 || s.warmSig n e != d.sig then false
  else
    let iters := setupCost d.kind + s.warmWord n e 0x18 + 1
    let work := iters * field rate 23 0 * s.footprint d / max 1 cells
    decide (s.deadlineNs d.deadline * 1000 < ((s.loadPsOf n d + work + s.backTime d : Nat) : Int))

/-- What the sequencer reads of a problem: its arrays, and the warm-start entry. -/
def State.readRanges (s : State) (n : Nat) (d : Desc) : List (Nat × Nat) :=
  let x := s.qpExt d
  let m := Qpx.m x
  let entry := s.warmAddr n d.wsrc
  [(d.at 0x24, 4 * (d.rows + 1)), (d.at 0x28, 4 * d.nnz), (d.at 0x2C, d.v * d.nnz)] ++
    (if d.tagged && (d.warm || d.keep) then [(d.at 0x38, 4 * d.rows)] else []) ++
    (if d.isQp then
      [(d.at 0x30, 64), (d.base + u32 x 8, 4 * (m + 1)), (d.base + u32 x 0xC, 4 * Qpx.nnzc x), (d.base + u32 x 0x10, d.v * Qpx.nnzc x),
       (d.base + u32 x 0x14, d.v * d.rows), (d.base + u32 x 0x18, d.v * m), (d.base + u32 x 0x1C, d.v * m)] ++
        (if u32 x 0x20 != 0xFFFFFFFF && (d.warm || d.keep) then [(d.base + u32 x 0x20, 4 * m)] else [])
     else [(d.at 0x30, d.v * d.rows)]) ++
    (if d.warm then [(entry, 64)] ++
      (if s.warmFlag n d.wsrc 0 then
        [(entry, min (s.warmSize n) (warmNeed (s.warmWord n d.wsrc 4) (s.warmWord n d.wsrc 0x10) (if s.warmFlag n d.wsrc 1 then 8 else 4)))] else [])
     else [])

/-- The first range that ends in a bus error or an uncorrectable error: its address, its length, the code. -/
def State.firstBad (s : State) (w : Who) (write : Bool) : List (Nat × Nat) → Option (Nat × Nat × Nat)
  | [] => none
  | (a, n) :: rs => let c := s.rangeCode w a n write
    if c = Code.ok then s.firstBad w write rs else some (a, n, c)

/-- An engine's failed access is recorded (R8, R35). -/
def State.recordFail (s : State) (w : Who) (x : Nat × Nat × Nat) : State :=
  if x.2.2 = Code.uncorrectable then
    match s.badWordIn x.1 x.2.1 with
    | some p => s.refuseWord (some w) ((memoryKind p).getD 0) p
    | none => s
  else s.engineError w x.1 x.2.2

/-- What the sequencer finds it cannot reach at the load: the data, or the output and scratch areas (log entry 64). -/
def State.unreachable (s : State) (n : Nat) (d : Desc) : Option (Nat × Nat × Nat) :=
  let w := engineWho (8 + n)
  (s.firstBad w false (s.readRanges n d)).or (s.firstBad w true [(d.at 0x34, 2 * s.outputBytes d)])

/-- What the load finds wrong with the data, as a code and DETAIL (R268 to R270, R293). -/
def State.loadFails (s : State) (d : Desc) (w : WarmStart) : Option (Nat × Nat) :=
  match s.structFail d with
  | some r => some (Lth.structInvalid, r)
  | none =>
    if d.flag 4 && s.signature d != d.sig then some (Lth.structInvalid, 0)
    else
      match s.dataFail d with
      | some e => some (Lth.dataInvalid, e)
      | none => w.bad.map fun r => (Lth.structInvalid, r)

/-- The bytes of a chuck are written by a load: no word of them stays poisoned (R35; 06, "Faults and coincidences"). -/
def State.healChuck (s : State) (n c : Nat) : State :=
  { s with poison := s.poison.filter fun p => !overlaps p 8 (Addr.lathe + 0x800000 * n + 32768 * s.chuckFirst n c) (32768 * s.chuckCells n c) }

/-- A descriptor starts on a chuck, or completes at once. -/
def State.startJob (s : State) (n c : Nat) (j : LatheJob) : State :=
  let d : Desc := j.desc
  if s.predictsMiss n d (s.chuckCells n c) then s.dropJob n j Lth.predictedMiss (s.dispatchReport n d 0)
  else
    let here := fun (s : State) (detail : Nat) => { s.dispatchReport n d detail with flags := 2 ^ 16 * c }
    match s.unreachable n d with
    | some x => (s.recordFail (engineWho (8 + n)) x).dropJob n j Lth.dataError (here s 0)
    | none =>
      let w := s.warmStart n d
      let s := (s.charge (engineWho (8 + n)) d.base (s.dataBytes d)).healChuck n c
      match s.loadFails d w with
      | some (code, detail) =>
        s.dropJob n j code { here s detail with flags := 2 ^ 16 * c + ofBool w.remapped + 2 * ofBool w.discarded, matched := w.matched }
      | none =>
        let bits := fun (v : Vec) => v.map d.fmt.encode
        let r : LatheRun :=
          { job := j, start := s.now, ran := s.chip.ran, seasoning := d.warm && !s.warmFlag n d.wsrc 5, subst := s.deadlineSubsts d,
            remapped := w.remapped, discarded := w.discarded, matched := w.matched, x := bits w.x, z := bits w.z, y := bits w.y,
            rho := f64.encode w.rho }
        let l := s.lth n
        (s.setLth n { l with queue := l.queue.filter (fun k => k.ticket != j.ticket), runs := l.runs.set c (some r) }).showLathe n

/-- R279: the first descriptor in deadline order that may run, or that completes at dispatch. -/
def execLatheDispatch (lathe : Nat) (s : State) : Reply :=
  let n := lathe % 4
  if !s.latheRuns n then .next s
  else
    match (s.jobOrder n).find? fun j => s.dispatchOf n j.desc != .wait with
    | none => .next s
    | some j =>
      match s.dispatchOf n j.desc with
      | .wait => .next s
      | .refuse code detail => .next (s.dropJob n j code (if code = Lth.deadlineMiss then {} else s.dispatchReport n j.desc detail))
      | .run c => .next (s.startJob n c j)

/-- Time passes to a deadline. -/
def State.elapseTo (s : State) (w : Nat) : State :=
  let left := s.deadlineLeft w
  if left ≤ 0 then s
  else if w / 2 ^ 63 % 2 = 0 then s.elapse ((left.toNat * 2 ^ 32 + s.incr - 1) / s.incr)
  else
    match s.ticksFor (w / 2 ^ 60 % 8) left.toNat with
    | some k => s.elapse k
    | none => s

/-- R281: a queued descriptor's deadline passes. -/
def execLatheDeadlineQueued (lathe ticket : Nat) (s : State) : Reply :=
  let n := lathe % 4
  match (s.lth n).queue.find? fun j => j.ticket == ticket with
  | none => .next s
  | some j =>
    let d : Desc := j.desc
    if !s.latheRuns n || d.noDeadline || !s.deadlineValid d.deadline then .next s
    else
      let s := s.elapseTo d.deadline
      .next (if s.deadlinePassed d.deadline then s.dropJob n j Lth.deadlineMiss {} else s)

/-! ### The end of a solve -/

/-- What a solve returned, as a report. -/
def Solved.report (r : Solved) (qp : Bool) : LatheReport :=
  { iter := r.iter, inner := r.inner, flags := 64 * ofBool r.certRetry, resid := f64.encode r.resid,
    resid2 := f64.encode r.resid2, detail := if r.code = Lth.breakdown then r.iter else 0,
    rho := if qp then f64.encode r.rho else 0 }

/-- RATE takes a measurement of at least 8 iterations (06, after R299). -/
def State.measureRateOf (s : State) (n : Nat) (d : Desc) (cells iters ps : Nat) : State :=
  if iters < 8 then s
  else
    let r := Reg.lthRate n d.rateIndex
    let m := ps * cells / max 1 (s.footprint d)
    let old := s.fld r 23 0
    let count := s.fld r 30 24
    let new : Int := if count = 0 then m else (old : Int) + roundDiv ((m : Int) - old) 8
    let count := min 127 (count + 1)
    ((s.setFld r 23 0 (min (2 ^ 24 - 1) new.toNat)).setFld r 30 24 count).setFlag r 31 (decide (4 ≤ count))

/-- The sequencer writes a result or an entry; what it may not reach is a bus error (R8). -/
def State.sequencerWrite (s : State) (n a : Nat) (bs : List Byte) : State :=
  let w := engineWho (8 + n)
  let c := s.rangeCode w a bs.length true
  if bs.isEmpty then s else if c = Code.ok then s.dmaWrite w a bs else s.recordFail w (a, bs.length, c)

/-- The output area receives x, and of a QP y. -/
def State.writeBack (s : State) (n : Nat) (d : Desc) (r : Solved) : State :=
  s.sequencerWrite n (d.at 0x34) (vecBytes d.fmt r.x ++ if d.isQp then vecBytes d.fmt r.y else [])

/-- KEEP writes the warm entry, or finds no space (R294); the second part is WARM_NOSPACE. -/
def State.keepWarm (s : State) (n : Nat) (d : Desc) (r : Solved) : State × Bool :=
  if !d.keep then (s, false)
  else if s.warmSize n < s.warmBytes d then (s, true)
  else
    let seq := (s.slots.get (s.latheSlot n d)).nextSeq % 2 ^ 24
    (s.sequencerWrite n (s.warmAddr n d.wsrc) (s.warmRecord n d r seq), false)

/-- T_load and T_remap of a run, in ps. -/
def State.runLoad (s : State) (n : Nat) (r : LatheRun) : Nat :=
  let d : Desc := r.job.desc
  let m := if d.isQp then Qpx.m (s.qpExt d) else 0
  s.loadPsOf n d + (if r.remapped then 12000 * (s.warmWord n d.wsrc 4 + d.rows + s.warmWord n d.wsrc 0x10 + m) else 0)

/-- Time passes up to `ps` after a run's dispatch. -/
def State.elapseRun (s : State) (r : LatheRun) (ps : Nat) : State := s.elapse (s.ticksUntil (r.ran + ps * 2 ^ 32 / 1000))

/-- The iterations, of `ps` each, after which the sequencer stops: the last boundary after which one more, one certification and the write-back
still fit before the deadline (R297). -/
def State.stopAfter (s : State) (n : Nat) (r : LatheRun) (ps : Nat) : Option Nat :=
  let d : Desc := r.job.desc
  if d.noDeadline then none
  else
    let due := s.deadlineNs d.deadline * 1000 + ((s.chip.ran - r.ran) * 1000 / 2 ^ 32 : Nat)
    let left := (due - ((s.runLoad n r + s.backTime d : Nat) : Int)).toNat
    some (left / max 1 ps - (setupCost d.kind + 2))

def Solved.units (r : Solved) : Nat := r.iter + r.inner

/-- The outer limit of a solve that stops after `k` iterations, inner ones counted. -/
def State.limitFor (s : State) (r : LatheRun) (cells k : Nat) : Nat :=
  let d : Desc := r.job.desc
  if d.isQp then (((List.range (d.maxit + 1)).reverse.find? fun m => (s.solve r cells m).units ≤ k).getD 0) else k

/-- R298: the solve on a chuck is stopped after `k` iterations: the best iterate goes to the scratch area. -/
def State.stopRun (s : State) (n c : Nat) (run : LatheRun) (k ps : Nat) : State :=
  let d : Desc := run.job.desc
  let r := s.solve run (s.chuckCells n c) (s.limitFor run (s.chuckCells n c) k)
  let s := s.elapseRun run (s.runLoad n run + (setupCost d.kind + k) * ps)
  let s := s.sequencerWrite n (d.at 0x34 + s.outputBytes d) (vecBytes d.fmt r.best)
  s.endRun n c run Lth.deadlineMiss
    { r.report d.isQp with flags := 8 + 64 * ofBool r.certRetry, resid := f64.encode r.estimate, resid2 := 0, detail := 0 }

/-- The solve ends by itself: written back, kept, measured and reported; `late` ns more pass in the write-back (R294, R299, R304). -/
def State.finishRun (s : State) (n c : Nat) (run : LatheRun) (r : Solved) (late ps : Nat) : State :=
  let d : Desc := run.job.desc
  let work := s.runLoad n run + (setupCost d.kind + r.units) * ps
  if r.code = Lth.breakdown then (s.elapseRun run work).endRun n c run Lth.breakdown (r.report d.isQp)
  else
    let s := s.elapseRun run (work + ps + s.backTime d + 1000 * late)
    let s := s.writeBack n d r
    let (s, full) := s.keepWarm n d r
    let s := s.measureRateOf n d (s.chuckCells n c) r.units ps
    let p := r.report d.isQp
    let missed := !d.noDeadline && s.deadlinePassed d.deadline
    s.endRun n c run r.code { p with flags := p.flags + 16 * ofBool missed + 32 * ofBool full }

/-- R307: an uncorrectable error in a chuck's store: its word is poisoned, and the running descriptor completes with DATA_ERROR. -/
def State.chuckError (s : State) (n c off : Nat) (run : LatheRun) : State :=
  let a := Addr.lathe + 0x800000 * n + 32768 * s.chuckFirst n c + off % max 8 (32768 * s.chuckCells n c) / 8 * 8
  (s.refuseWord (some (engineWho (8 + n))) 0 a).endRun n c run Lth.dataError {}

/-- R304: the solve on a chuck ends, each iteration having taken `iterationPs`; where the deadline's stop comes first, that ends it (R297). -/
def execLatheCompletion (lathe chuck lateNs : Nat) (storeError : Option Nat) (iterationPs : Nat) (s : State) : Reply :=
  let n := lathe % 4
  match s.chuckRun n chuck with
  | none => .next s
  | some run =>
    if !s.latheRuns n then .next s
    else
      match storeError with
      | some off => .next (s.chuckError n chuck off run)
      | none =>
        let d : Desc := run.job.desc
        let r := s.solve run (s.chuckCells n chuck) d.maxit
        match s.stopAfter n run iterationPs with
        | none => .next (s.finishRun n chuck run r lateNs iterationPs)
        | some k => .next (if r.units ≤ k then s.finishRun n chuck run r lateNs iterationPs else s.stopRun n chuck run k iterationPs)

/-- R297, R298: the stop before the deadline, of a solve that is not complete by then. -/
def execLatheDeadlineStop (lathe chuck iterationPs : Nat) (s : State) : Reply :=
  let n := lathe % 4
  match s.chuckRun n chuck with
  | none => .next s
  | some run =>
    if !s.latheRuns n then .next s
    else
      match s.stopAfter n run iterationPs with
      | none => .next s
      | some k =>
        let d : Desc := run.job.desc
        .next (if (s.solve run (s.chuckCells n chuck) d.maxit).units ≤ k then s else s.stopRun n chuck run k iterationPs)

/-! ### Cancellation and clearing -/

/-- R282: the descriptor of a ticket completes with CANCELLED. -/
def State.cancelTicket (s : State) (n ticket : Nat) (may : Nat → Bool) : State :=
  match (s.lth n).queue.find? fun j => j.ticket == ticket with
  | some j => if may j.who then s.dropJob n j Lth.cancelled {} else s
  | none =>
    match (List.range 64).find? fun c => match s.chuckRun n c with
        | some r => r.job.ticket == ticket
        | none => false with
    | some c =>
      match s.chuckRun n c with
      | some r => if may r.job.who then s.endRun n c r Lth.cancelled {} else s
      | none => s
    | none => s

/-- R282: a write of LTH.CANCEL. -/
def execCancel (who : Who) (lathe : Nat) (value : Word) (s : State) : Reply :=
  .next (s.gated who (Reg.lthCancel (lathe % 4)) value fun s =>
    s.cancelTicket (lathe % 4) (field value 23 0) fun id => id == who.id || s.secure who)

/-- Every queued descriptor completes with CANCELLED. -/
def State.flushQueue (s : State) (n : Nat) : State :=
  (s.lth n).queue.foldl (fun s j => s.dropJob n j Lth.cancelled {}) s

/-- R308: running and queued descriptors of every Lathe complete with CANCELLED; while Solve is fenced they leave no result. -/
def State.cancelLathes (s : State) : State :=
  if s.fenced Region.solve then s
  else
    let s := { s.setFlag Reg.fedMstatus 31 false with fed := { s.fed with asked := [] } }
    (List.range s.variant.lathes).foldl (fun s n =>
    let s := (List.range 64).foldl (fun s c =>
      match s.chuckRun n c with
      | some r => s.endRun n c r Lth.cancelled {}
      | none => s) s
    s.flushQueue n) s

/-- R276: a write of LTH.QCTRL: ENABLE is stored, FLUSH empties the queue. -/
def execFlush (who : Who) (lathe : Nat) (value : Word) (s : State) : Reply :=
  .next (s.gated who (Reg.lthQctrl (lathe % 4)) value fun s =>
    let s := s.setFlag (Reg.lthQctrl (lathe % 4)) 0 (bit value.toNat 0)
    if bit value.toNat 8 then s.flushQueue (lathe % 4) else s)

/-- R309: a write of LTH.CLEAR with GO. -/
def execLatheClear (who : Who) (lathe : Nat) (value : Word) (s : State) : Reply :=
  let n := lathe % 4
  .next (s.gated who (Reg.lthClear n) value fun s =>
    if bit value.toNat 0 then
      let s := ([Reg.lthNOk n, Reg.lthNNc n, Reg.lthNMiss n, Reg.lthNPred n, Reg.lthNErr n] : List Nat).foldl
        (fun s r => s.setNum r 0) s
      s.setFld (Reg.lthQdepth n) 26 16 0
    else s)

/-! ### Faults (R305, R307) -/

/-- A chuck goes out of service; what runs on it completes with CELL_FAULT. -/
def State.chuckFails (s : State) (n c cell : Nat) : State :=
  let s := if c < 32 then s.setFlag (Reg.lthOutLo n) c true else s.setFlag (Reg.lthOutHi n) (c - 32) true
  let s := s.setFlag (Reg.lthChuck n c) 29 true
  match s.chuckRun n c with
  | some r => s.endRun n c r Lth.cellFault { detail := cell }
  | none => s

/-- R305. -/
def execLatheCellFault (lathe cell : Nat) (s : State) : Reply :=
  let n := lathe % 4
  if s.variant.lathes ≤ n ∨ s.variant.cellsPerLathe ≤ cell ∨ s.fenced Region.solve = true then .next s
  else
    let s := (s.setFlag (Reg.lthCellfail n (cell / 32)) (cell % 32) true).raise (s.latheSource n 4)
    let s := s.cellFails 0x0E (0x10 + n) cell false
    .next (((List.range (s.nchuck n)).filter fun c =>
      decide (s.chuckFirst n c ≤ cell) && decide (cell < s.chuckFirst n c + s.chuckCells n c)).foldl (fun s c => s.chuckFails n c cell) s)

/-- R307: a block event that the Lathe cannot contain goes to the Solve region. -/
def execSequencerHalt (lathe : Nat) (s : State) : Reply :=
  let n := lathe % 4
  if s.variant.lathes ≤ n ∨ s.fenced Region.solve = true then .next s
  else
    let (s, t) := s.detect { det := 0x0F, level := 2, loc := location 1 (0x10 + n) 0, action := Act.fenced }
    .next (s.fence Region.solve 0x0F (some t) false)

/-- Every warm entry of a Lathe loses its STATE (R296). -/
def State.clearWarm (s : State) (n : Nat) : State :=
  (List.range (s.nwarm n)).foldl (fun s e => s.dmaWrite (engineWho (8 + n)) (s.warmAddr n e) (leBytes 4 0)) s

end Sys2Proof.Machine
end

