-- ==== Sys2Proof/Machine/Fed.lean ====
section
/-! DEFINITION. The federation unit (07): rounds, DOWN and UP, closes, convergence, plans (R311 to R340). -/
namespace Sys2Proof.Machine

/-! ### The coordinator's state area, in FP64 -/

def State.zAddr (s : State) (g : Nat) : Nat := s.fedArea + 8 * g
def State.zprevAddr (s : State) (g : Nat) : Nat := s.fedArea + 8 * s.ng + 8 * g
/-- Components of the member children before child `c`. -/
def State.compsBefore (s : State) (c : Nat) : Nat :=
  ((List.range c).filter fun k => !s.childIsArea k).foldl (fun n k => n + s.childNc k) 0
def State.xAddr (s : State) (c i : Nat) : Nat := s.fedArea + 16 * s.ng + 16 * (s.compsBefore c + i)
def State.uAddr (s : State) (c i : Nat) : Nat := s.xAddr c i + 8
/-- The retained sums of an area child: 28 bytes for each listed index, then its residual block. -/
def State.areaBase (s : State) (c : Nat) : Nat :=
  s.fedArea + 16 * s.ng + 16 * s.compsBefore s.nchild +
    ((List.range c).filter fun k => s.childIsArea k).foldl (fun n k => n + 28 * s.childNidx k + 64) 0
def State.fp (s : State) (a : Nat) : Fp := f64.decode (s.mem64 a)
def State.setFp (s : State) (a : Nat) (x : Fp) : State := s.dmaWrite (engineWho Init.fed) a (leBytes 8 (f64.encode x))

def State.rho (s : State) : Fp := f32.decode (s.num Reg.fedRho)
/-- ρ_ic = ρ w_ic. -/
def State.rhoOf (s : State) (c i : Nat) : Fp := Fp.mul f64 .near s.rho (.fin false (s.tableW (s.childIdx c + i)) (-4))
def add64 : Fp → Fp → Fp := Fp.add f64 .near
def sub64 : Fp → Fp → Fp := Fp.sub f64 .near
def mul64 : Fp → Fp → Fp := Fp.mul f64 .near

/-- STATE and AGE of a child: 1 CURRENT, 2 AGED, 3 EXCLUDED. -/
def State.childState (s : State) (c : Nat) : Nat := s.fld (Reg.fedChild c) 31 30
def State.childAge (s : State) (c : Nat) : Nat := s.fld (Reg.fedChild c) 23 16

/-! ### Rounds (R314, R315) -/

/-- A DOWN for a child's member set: D = z - u and R = ρ_ic of each component. -/
def State.downBody (s : State) (c : Nat) : List Byte :=
  (List.range (s.childNc c)).flatMap fun i =>
    let d := sub64 (s.fp (s.zAddr (s.tableG (s.childIdx c + i)))) (s.fp (s.uAddr c i))
    leBytes 4 (f32.encode (d.convert f32)) ++ leBytes 4 (f32.encode ((s.rhoOf c i).convert f32))

/-- The nodes of a child's set. -/
def State.childNodes (s : State) (c : Nat) : List Nat := ((List.range 3).map (s.childNode c)).filter fun n => n != 0xFFFF

def State.sendDown (s : State) (c round plan : Nat) : State :=
  let body := s.downBody c
  (s.childNodes c).foldl (fun s n =>
    s.fedSend n (s.fedHeader Mtype.down 0 (s.childNc c) 0 n round plan (s.num Reg.fedRho) 0 ++ body)) s

/-- A list in pieces of `k`, at least one. -/
def pieces (k : Nat) (l : List Nat) : Nat → List (List Nat)
  | 0 => []
  | n + 1 => l.take k :: (if (l.drop k).isEmpty then [] else pieces k (l.drop k) n)

/-- AREA_DOWN or AREA_PLAN fragments of the z of an area child's listed indices, 168 entries each. -/
def State.sendAreaZ (s : State) (c type first round plan rho flags code : Nat) : State :=
  let ps := pieces 168 (List.range (s.childNidx c)) (s.childNidx c / 168 + 1)
  (s.childNodes c).foldl (fun s n =>
    (ps.zipIdx).foldl (fun s p =>
      let body := p.1.flatMap fun i =>
        let g := s.tableG (s.childIdx c + i)
        leBytes 4 g ++ s.bytes (s.zAddr g) 8
      let last := if p.2 + 1 = ps.length then 8 else 0
      s.fedSend n (s.fedHeader type (flags ||| last) p.1.length (first + p.2) n round plan rho code ++ body)) s) s

/-- A coordinator begins a round at a TRAVEL: nothing has arrived yet. -/
def State.openRound (s : State) (round began : Nat) (active : Bool) : State :=
  { s with fed := { s.fed with values := Tab.empty, fragments := Tab.empty, lastFrag := Tab.empty, sums := Tab.empty, residual := Tab.empty,
                               round := round, began := began, closed := !active, active := active, dropped := false } }

/-- The FED spindle reaches an angle of the round. -/
def State.elapseToAngle (s : State) (angle : Nat) : State :=
  if angle ≤ s.roundAngle then s
  else
    match s.ticksFor s.fedSpindle (angle - s.roundAngle) with
    | some k => s.elapse k
    | none => s

/-- R337: the new active unit's coordinator resumes at its first round start: STATUS.RESUMED, SEASONING and source 184. RESUMED shows until the period
ends. -/
def State.resumeRound (s : State) (newPeriod : Bool) : State :=
  if s.fed.resuming then
    ({ (s.setFlag Reg.fedStatus 26 true).setFlag Reg.fedStatus 29 true with fed := { s.fed with resuming := false } }).raise 184
  else if newPeriod then s.setFlag Reg.fedStatus 26 false
  else s

/-- The member's part of a DOWN: the QP's coupling terms (R317 step 3). -/
def State.writeComponent (s : State) (d : Desc) (m : List Byte) (c : Nat) : State :=
  let dc := f32.decode (u32 m (0x20 + 8 * c))
  let rc := f32.decode (u32 m (0x24 + 8 * c))
  let p := Fp.add d.fmt .near (s.compP0 c) rc
  let q := Fp.fma d.fmt .near rc.neg dc (s.compQ0 c)
  let qOff := u32 (s.qpExt d) 0x14
  (s.dmaWrite (engineWho Init.fed) (d.at 0x2C + d.v * s.compPidx c) (leBytes d.v (d.fmt.encode p))).dmaWrite (engineWho Init.fed) (d.base + qOff + d.v * s.compJvar c)
    (leBytes d.v (d.fmt.encode q))

/-- A member does not reply in a round (R318, R668). -/
def State.fedMiss (s : State) : State := ((s.bump Reg.fedMissed 31 0 1).raise 182).blockEvent 0x10 0x14 0 Act.none 0 0

/-- R317, R318: an accepted DOWN at a member. -/
def State.takeDown (s : State) (m : List Byte) : State :=
  let n := s.fedSpindle
  let t := (s.spin n).travel
  let s := (s.seeRound (Fmsg.round m) (Fmsg.plan m)).setNum Reg.fedRho (Fmsg.rho m)
  let s := s.setFlag Reg.fedStatus 28 (s.substitute n)
  let s := s.raise 183
  if s.replyAngle ≤ t % 2 ^ 32 then (s.setFlag Reg.fedMstatus 30 true).fedMiss
  else
    let s := (s.setFlag Reg.fedMstatus 31 true).setFlag Reg.fedMstatus 30 false
    let lathe := u8 s.fedBody 0x2F % 4
    let ask : FedAsk := { ticket := (s.lth lathe).next, src := Fmsg.src m, round := Fmsg.round m, plan := Fmsg.plan m }
    let s := { s with fed := { s.fed with asked := s.fed.asked ++ [ask], downPlan := Fmsg.plan m } }
    let d := s.fedTemplate
    let s := (List.range s.ncomp).foldl (fun s c => s.writeComponent d m c) s
    let word := 2 ^ 63 + n * 2 ^ 60 + t / 2 ^ 32 % 2 ^ 28 * 2 ^ 32 + s.replyAngle
    let flags := u8 d 3 &&& 0x97
    let flags := flags + 32 * ofBool (s.flag Reg.fedMctl 0) + 64 * ofBool (s.substitute n)
    let desc := patchBytes (patchBytes d 3 (leBytes 1 flags)) 0x10 (leBytes 8 word)
    match s.submitDesc lathe Init.fed desc with
    | (s, some _) => s
    | (s, none) =>
      let asked := s.fed.asked.filter fun b => b.ticket != ask.ticket
      ({ s.setFlag Reg.fedMstatus 31 (!asked.isEmpty) with fed := { s.fed with asked := asked } }).fedMiss

/-- R317: a DOWN arrives at a member. -/
def State.receiveDown (s : State) (m : List Byte) : State :=
  if s.ncomp = 0 then s
  else
    match s.fedAccepts m with
    | some s => s
    | none =>
      match s.parentClaim m with
      | (s, true) => s.takeDown m
      | (s, false) => s

def execFedDown (payload : List Byte) (s : State) : Reply :=
  .next (if s.fedRuns ∧ Fmsg.type payload = Mtype.down then s.receiveDown payload else s)

/-! ### UP (R327, R336) -/

def execFedUp (payload : List Byte) (s : State) : Reply :=
  .next (if s.fedRuns && decide (2 ≤ s.fedRole) && Fmsg.type payload == Mtype.up then s.receiveUp payload else s)

/-- The DOWNs of a coordinator to itself as a member (R312), which no claim of a parent judges. -/
def State.deliverInside (s : State) : State :=
  s.fed.inside.foldl (fun s m => if s.ncomp = 0 then s else s.takeDown m) { s with fed := { s.fed with inside := [] } }

/-- The start of the round of a number, in ns of device time: ORIGIN and whole periods, nearest to now (R314). -/
def State.roundBegin (s : State) (round : Nat) : Nat :=
  let o : Int := s.spindleOrigin s.fedSpindle
  let p : Int := max 1 (s.spindlePeriod s.fedSpindle)
  let c := ((s.now : Int) - o) / p
  (o + (c + signed 32 ((round : Int) - c + 2 ^ 64).toNat) * p).toNat

/-- R314, R315: the top's round, which began where TRAVEL stood at the crossing's target. A period whose last active round fell into the gap of a
takeover is still to be published (R337): its next round has a close. -/
def State.startRound (s : State) (target : Nat) : State :=
  let n := s.fedSpindle
  let round := (target + (s.spin n).pos + 2 ^ 64 - (s.spin n).travel % 2 ^ 64) / 2 ^ 32 % 2 ^ 32
  let k := round % s.planRounds
  let plan := round / s.planRounds
  let new := k == 0 || plan != s.fed.downPlan
  let gap := s.fed.resuming && !s.fed.published
  let s := if new then
      { s with fed := { s.fed with published := false, anyCurrent := false, judged := none, budget := s.fld Reg.fedBudget 9 0, downPlan := plan
                                   owed := if gap then some s.fed.downPlan else none } }
    else s
  let s := (s.resumeRound new).setNum Reg.fedRound round
  let active := !s.fed.published && (decide (k < s.fed.budget) || gap)
  let s := ((s.setFld Reg.fedStatus 9 0 k).setFlag Reg.fedStatus 27 (!active)).setFlag Reg.fedStatus 28 (s.substitute n)
  let startNs := s.roundBegin round
  let s := s.fedSend 0x4000 (s.fedHeader Mtype.tick 0 0 0 0 round plan 0 0 ++
    leBytes 8 (startNs / 1000000000) ++ leBytes 4 (startNs % 1000000000) ++ leBytes 4 (s.spindlePeriod n))
  let s := s.openRound round target active
  if !active then s
  else
    let s := s.raise 183
    let s := (List.range s.nchild).foldl (fun s c =>
      if s.childIsArea c then s.sendAreaZ c Mtype.areaDown 0 round plan (s.num Reg.fedRho) 0 0 else s.sendDown c round plan) s
    s.deliverInside

def execRoundStart (s : State) : Reply :=
  if s.fedRuns ∧ s.fedRole = Fed.top then
    match s.firing Consumer.fed s.fedSpindle (u8 s.fedBody 9) with
    | none => .next s
    | some (s, target) => .next (s.startRound target)
  else .next s

/-! ### AREA_UP at the top (R322, R324) -/

/-- A fragment of an AREA_UP: the residual block, or sums of listed indices, which replace the last ones once all have arrived. -/
def State.receiveAreaUp (s : State) (m : List Byte) : State :=
  s.fromChild m true fun s c =>
    let f := Fmsg.frag m
    let s := { s with fed := { s.fed with fragments := s.fed.fragments.set c (setBit (s.fed.fragments.get c) f),
                                          lastFrag := if Fmsg.last m then s.fed.lastFrag.set c (f + 1) else s.fed.lastFrag } }
    if f = 0 then
      if Fmsg.failed m then s
      else
        { s.dmaWrite (engineWho Init.fed) (s.areaBase c + 28 * s.childNidx c) (slice m 0x20 64) with
          fed := { s.fed with residual := s.fed.residual.set c true } }
    else
      let k := 72 * (f - 1)
      let n := min (Fmsg.nent m) (s.childNidx c - k)
      let held := s.fed.sums.get c
      let held := if held.isEmpty then List.replicate (28 * s.childNidx c) 0#8 else held
      { s with fed := { s.fed with sums := s.fed.sums.set c (patchBytes held (28 * k) (slice m 0x20 (28 * n)))
                                   flags := s.fed.flags.set c (Fmsg.flags m % 4) } }

def execAreaUp (payload : List Byte) (s : State) : Reply :=
  .next (if s.fedRuns ∧ s.fedRole = Fed.top ∧ Fmsg.type payload = Mtype.areaUp then s.receiveAreaUp payload else s)

/-- The child is CURRENT in this round (07, "Late, missing and returning children"). -/
def State.childCurrent (s : State) (c : Nat) : Bool :=
  if s.childIsArea c then
    let l := s.fed.lastFrag.get c
    l != 0 && (List.range (l - 1)).all fun i => bit (s.fed.fragments.get c) (i + 1)
  else (s.fed.values.get c).isSome

/-- A child that did not contribute ages (R324). -/
def State.childMisses (s : State) (c : Nat) : State :=
  let st := s.childState c
  let s := (s.bump (Reg.fedChild c) 23 16 1).blockEvent 0x10 0x14 c Act.none 0 c
  let s := if st = 1 then (s.setFld (Reg.fedChild c) 31 30 2).raise 178 else s
  if s.childState c = 2 ∧ max 1 (s.fld Reg.fedStaleRounds 3 0) ≤ s.childAge c then (s.setFld (Reg.fedChild c) 31 30 3).raise 179
  else s

/-- Ages at a close (R324, R326). -/
def State.ageChild (s : State) (c : Nat) : State :=
  if s.childCurrent c then
    let st := s.childState c
    let s := (s.setFld (Reg.fedChild c) 31 30 1).setFld (Reg.fedChild c) 23 16 0
    if st = 3 then s.raise 180 else s
  else s.childMisses c

/-- A CURRENT child's values or sums of this round become its last contribution. -/
def State.keepValues (s : State) (c : Nat) : State :=
  if s.childIsArea c then
    if s.childCurrent c then s.dmaWrite (engineWho Init.fed) (s.areaBase c) (s.fed.sums.get c) else s
  else
    match s.fed.values.get c with
    | some vs => (vs.zipIdx).foldl (fun s v => s.setFp (s.xAddr c v.2) (f32.decode v.1)) s
    | none => s

/-- The member components at index `g`: child, component. -/
def State.componentsAt (s : State) (g : Nat) : List (Nat × Nat) :=
  (List.range s.nchild).flatMap fun c =>
    if s.childIsArea c then []
    else ((List.range (s.childNc c)).filter fun i => s.tableG (s.childIdx c + i) == g).map fun i => (c, i)

/-- N, D and E of an index (R321): members in child and component order, then the area children's sums; an EXCLUDED child leaves E (R325). -/
def State.sumsAt (s : State) (g : Nat) : Fp × Fp × Fp :=
  let zero : Fp := .zero false
  let m := (s.componentsAt g).foldl (fun (a : Fp × Fp × Fp) e =>
    let r := s.rhoOf e.1 e.2
    let x := s.fp (s.xAddr e.1 e.2)
    let u := s.fp (s.uAddr e.1 e.2)
    (add64 a.1 (mul64 r (add64 x u)), add64 a.2.1 r,
     if s.childState e.1 = 3 then a.2.2 else add64 a.2.2 (mul64 r r))) (zero, zero, zero)
  (List.range s.nchild).foldl (fun (a : Fp × Fp × Fp) c =>
    if !s.childIsArea c then a
    else
      (List.range (s.childNidx c)).foldl (fun (a : Fp × Fp × Fp) k =>
        let b := s.areaBase c + 28 * k
        if s.mem32 b = g then
          (add64 a.1 (s.fp (b + 4)), add64 a.2.1 (s.fp (b + 12)), if s.childState c = 3 then a.2.2 else add64 a.2.2 (s.fp (b + 20)))
        else a) a) m

/-- The upward list of an area coordinator. -/
def State.upward (s : State) : List Nat :=
  if s.fedRole = Fed.area then (List.range s.upN).map fun i => s.tableG (s.upIdx + i) else []

/-- z of an index becomes N / D (R321). -/
def State.closeIndex (s : State) (g : Nat) : State :=
  let (n, d, _) := s.sumsAt g
  if d.isPos then (s.dmaWrite (engineWho Init.fed) (s.zprevAddr g) (s.bytes (s.zAddr g) 8)).setFp (s.zAddr g) (Fp.div f64 .near n d) else s

/-- The sums of a close, in FP64. -/
structure Terms where
  r2 : Fp
  s2 : Fp
  x2 : Fp
  z2 : Fp
  u2 : Fp
  p : Nat

def Terms.zero : Terms := { r2 := .zero false, s2 := .zero false, x2 := .zero false, z2 := .zero false, u2 := .zero false, p := 0 }

/-- The dual update of one member component, with its terms. -/
def State.closeDual (s : State) (t : Terms) (c i : Nat) : State × Terms :=
  if s.childState c = 3 then (s, t)
  else
    let z := s.fp (s.zAddr (s.tableG (s.childIdx c + i)))
    let x := s.fp (s.xAddr c i)
    let e := sub64 x z
    let u := add64 (s.fp (s.uAddr c i)) e
    let ru := mul64 (s.rhoOf c i) u
    (s.setFp (s.uAddr c i) u,
     { t with r2 := add64 t.r2 (mul64 e e), x2 := add64 t.x2 (mul64 x x), z2 := add64 t.z2 (mul64 z z),
              u2 := add64 t.u2 (mul64 ru ru), p := t.p + 1 })

/-- The dual updates of every member component whose index passes a test. -/
def State.closeDuals (s : State) (t : Terms) (which : Nat → Bool) : State × Terms :=
  (List.range s.nchild).foldl (fun (a : State × Terms) c =>
    if a.1.childIsArea c then a
    else (List.range (a.1.childNc c)).foldl (fun (a : State × Terms) i =>
      if which (a.1.tableG (a.1.childIdx c + i)) then a.1.closeDual a.2 c i else a) a) (s, t)

/-- s² over the indices just closed. -/
def State.dualResidual (s : State) (gs : List Nat) : Fp :=
  gs.foldl (fun acc g =>
    let (_, d, e) := s.sumsAt g
    let dz := sub64 (s.fp (s.zAddr g)) (s.fp (s.zprevAddr g))
    if d.isPos then add64 acc (mul64 e (mul64 dz dz)) else acc) (.zero false)

/-- A stored residual block of an area child. -/
def State.block (s : State) (c : Nat) : List Byte := s.bytes (s.areaBase c + 28 * s.childNidx c) 64

/-- Members CURRENT, aged and excluded, and the oldest age. -/
structure FedCounts where
  contrib : Nat
  aged : Nat
  excluded : Nat
  oldest : Nat

/-- A child joins the counts. A member counts by its own state; the members of an area child as its last residual block counts them, all aged or all
excluded with the area itself, their ages then increased by its own ("Late, missing and returning children"). -/
def State.countChild (s : State) (k : FedCounts) (c : Nat) : FedCounts :=
  let st := s.childState c
  let age := s.childAge c
  let b := s.block c
  let all := if s.childIsArea c then u16 b 44 + u16 b 46 + u16 b 48 else 1
  let old := if s.childIsArea c then u16 b 50 else 0
  if st = 3 then { k with excluded := k.excluded + all, oldest := max k.oldest (old + age) }
  else if st = 2 then { k with aged := k.aged + all, oldest := max k.oldest (old + age) }
  else if s.childIsArea c then
    { contrib := k.contrib + u16 b 44, aged := k.aged + u16 b 46, excluded := k.excluded + u16 b 48, oldest := max k.oldest old }
  else { k with contrib := k.contrib + 1 }

/-- The counts over the children that pass a test. -/
def State.fedCounts (s : State) (which : Nat → Bool) : FedCounts :=
  ((List.range s.nchild).filter which).foldl s.countChild { contrib := 0, aged := 0, excluded := 0, oldest := 0 }

def Terms.sums (t : Terms) (k : FedCounts) (heard : Bool) : FedSums :=
  { r2 := f64.encode t.r2, s2 := f64.encode t.s2, x2 := f64.encode t.x2, z2 := f64.encode t.z2, u2 := f64.encode t.u2, p := t.p,
    contrib := k.contrib, aged := k.aged, excluded := k.excluded, oldest := k.oldest, heard := heard }

/-- The residual block of an AREA_UP. -/
def FedSums.bytes (f : FedSums) : List Byte :=
  leBytes 8 f.r2 ++ leBytes 8 f.s2 ++ leBytes 8 f.x2 ++ leBytes 8 f.z2 ++ leBytes 8 f.u2 ++ leBytes 4 f.p ++ leBytes 2 f.contrib ++
    leBytes 2 f.aged ++ leBytes 2 f.excluded ++ leBytes 2 f.oldest ++ List.replicate 12 0#8

/-- An area child's residual block joins the sums. -/
def FedSums.join (f : FedSums) (b : List Byte) : FedSums :=
  let plus := fun a o => f64.encode (add64 (f64.decode a) (f64.decode (u64 b o)))
  { f with r2 := plus f.r2 0, s2 := plus f.s2 8, x2 := plus f.x2 16, z2 := plus f.z2 24, u2 := plus f.u2 32, p := f.p + u32 b 40 }

/-- rp and rd with their tests (R328). -/
def FedSums.judge (f : FedSums) (epsAbs epsRel : Fp) : Fp × Fp × Bool :=
  let root := fun a => (f64.decode a).sqrt f64 .near
  let rp := root f.r2
  let rd := root f.s2
  let base := mul64 epsAbs ((Fp.ofInt f64 f.p).sqrt f64 .near)
  (rp, rd, rp.le (add64 base (mul64 epsRel ((root f.x2).max (root f.z2)))) && rd.le (add64 base (mul64 epsRel (root f.u2))))

/-! ### Area coordinators -/

/-- Every u is scaled by ρ_old / ρ_new (R323). -/
def State.takeRho (s : State) (new : Nat) : State :=
  let old := s.num Reg.fedRho
  if old = new then s
  else
    let f := Fp.div f64 .near (f32.decode old) (f32.decode new)
    let s := (List.range s.nchild).foldl (fun s c =>
      if s.childIsArea c then s
      else (List.range (s.childNc c)).foldl (fun s i => s.setFp (s.uAddr c i) (mul64 (s.fp (s.uAddr c i)) f)) s) s
    s.setNum Reg.fedRho new

/-- The ages, values and local indices of a close; the sums of the indices closed here. -/
def State.closeLocal (s : State) : State × Terms :=
  let s := (List.range s.nchild).foldl State.ageChild s
  let s := (List.range s.nchild).foldl State.keepValues s
  let up := s.upward
  let gs := (List.range s.ng).filter fun g => !up.contains g
  let s := gs.foldl State.closeIndex s
  let r := s.closeDuals Terms.zero fun g => !up.contains g
  (r.1, { r.2 with s2 := r.1.dualResidual gs })

/-- COUNT0 and COUNT1 show a close's counts. -/
def State.showCounts (s : State) (k : FedCounts) : State :=
  (((s.setFld Reg.fedCount0 15 0 (min 0xFFFF k.contrib)).setFld Reg.fedCount0 31 16 (min 0xFFFF k.aged)).setFld Reg.fedCount1 15 0
    (min 0xFFFF k.excluded)).setFld Reg.fedCount1 31 16 (min 0xFFFF k.oldest)

/-- What the coordinator sends at its close carries SEASONING and SPINDLE_SUBSTITUTE of every contribution, an EXCLUDED child's last one included
(R257), and of the FED spindle, whose angles time it (R171, R259). -/
def State.contributionFlags (s : State) : Nat :=
  let any := fun b => (List.range s.nchild).any fun c => bit (s.fed.flags.get c) b
  ofBool (any 0 || s.spinFlag s.fedSpindle Spn.seasoning) + 2 * ofBool (any 1 || s.substitute s.fedSpindle)

/-- R322: an area coordinator's close: AREA_UP with the residual block of the round before, FAILED where that round had no close of this unit (R338),
and the upward sums. -/
def State.closeArea (s : State) : State :=
  let prev := if (s.fed.judgedRound + 1) % 2 ^ 32 = s.fed.round then s.fed.judged else none
  let (s, t) := s.closeLocal
  let k := s.fedCounts fun _ => true
  let s := s.showCounts k
  let round := s.fed.round
  let plan := s.fed.downPlan
  let up := s.upward
  let flags := s.contributionFlags
  let ps := pieces 72 (List.range up.length) (up.length / 72 + 1)
  let s := (s.parentNodes).foldl (fun s n =>
    let s := match prev with
      | some f => s.fedSend n (s.fedHeader Mtype.areaUp flags 0 0 n round plan 0 0 ++ f.bytes)
      | none => s.fedSend n (s.fedHeader Mtype.areaUp (flags + 4) 0 0 n round plan 0 0)
    (ps.zipIdx).foldl (fun s p =>
      let body := p.1.flatMap fun i =>
        let (a, b, c) := s.sumsAt (up.getD i 0)
        leBytes 4 (up.getD i 0) ++ leBytes 8 (f64.encode a) ++ leBytes 8 (f64.encode b) ++ leBytes 8 (f64.encode c)
      let last := if p.2 + 1 = ps.length then 8 else 0
      s.fedSend n (s.fedHeader Mtype.areaUp (flags + last) p.1.length (p.2 + 1) n round plan 0 0 ++ body)) s) s
  let heard := (List.range s.nchild).any s.childCurrent
  { s with fed := { s.fed with closed := true, judged := some (t.sums k heard), judgedRound := round, pendingDual := true } }

def execAreaClose (s : State) : Reply :=
  .next (if s.fedRuns && s.fedRole == Fed.area && s.fed.active && !s.fed.closed then (s.elapseToAngle s.memberDl).closeArea else s)

/-- The sums of the round closed last, completed by the duals of the upward indices, for which the top's z has come (R322). -/
def State.completeDuals (s : State) : State :=
  match s.fed.pendingDual, s.fed.judged with
  | true, some f =>
    let up := s.upward
    let t0 : Terms := { r2 := f64.decode f.r2, s2 := f64.decode f.s2, x2 := f64.decode f.x2, z2 := f64.decode f.z2,
                        u2 := f64.decode f.u2, p := f.p }
    let (s, t) := s.closeDuals t0 fun g => up.contains g
    let k : FedCounts := { contrib := f.contrib, aged := f.aged, excluded := f.excluded, oldest := f.oldest }
    { s with fed := { s.fed with judged := some (t.sums k f.heard), pendingDual := false } }
  | _, _ => { s with fed := { s.fed with pendingDual := false } }

/-- The last AREA_DOWN fragment: the duals of the upward indices are completed, ρ is taken, a round opens in the present revolution and DOWNs go
out. -/
def State.areaRound (s : State) (m : List Byte) : State :=
  let s := s.completeDuals.takeRho (Fmsg.rho m)
  let s := (s.resumeRound (Fmsg.plan m != s.fed.downPlan)).seeRound (Fmsg.round m) (Fmsg.plan m)
  let s := s.openRound (Fmsg.round m) ((s.spin s.fedSpindle).travel / 2 ^ 32 * 2 ^ 32) true
  let s := { s with fed := { s.fed with downPlan := Fmsg.plan m, areaFrags := 0, areaLast := 0 } }
  let s := s.setFlag Reg.fedStatus 28 (s.substitute s.fedSpindle)
  ((List.range s.nchild).foldl (fun s c => s.sendDown c (Fmsg.round m) (Fmsg.plan m)) (s.raise 183)).deliverInside

/-- The fragments that arrived belong to one message, by its type and round: those of another are given up. -/
def State.fragmentsOf (s : State) (m : List Byte) : State :=
  let key := Fmsg.type m * 2 ^ 32 + Fmsg.round m
  if s.fed.fragKey = key then s else { s with fed := { s.fed with fragKey := key, areaFrags := 0, areaLast := 0, planBlock := [] } }

/-- A fragment has arrived. -/
def State.noteFragment (s : State) (m : List Byte) : State :=
  { s with fed := { s.fed with areaFrags := setBit s.fed.areaFrags (Fmsg.frag m),
                               areaLast := if Fmsg.last m then Fmsg.frag m + 1 else s.fed.areaLast } }

/-- All fragments have arrived. -/
def State.allFragments (s : State) : Bool := s.fed.areaLast != 0 && (List.range s.fed.areaLast).all fun i => bit s.fed.areaFrags i

/-- A fragment of z is stored; the second part says that all have arrived. -/
def State.takeFragment (s : State) (m : List Byte) : State × Bool :=
  let s := (List.range (Fmsg.nent m)).foldl (fun s i =>
    let g := u32 m (0x20 + 12 * i)
    if g < s.ng then
      (s.dmaWrite (engineWho Init.fed) (s.zprevAddr g) (s.bytes (s.zAddr g) 8)).dmaWrite (engineWho Init.fed) (s.zAddr g) (slice m (0x24 + 12 * i) 8)
    else s) s
  let s := s.noteFragment m
  (s, s.allFragments)

/-- R322: an AREA_DOWN fragment. -/
def State.receiveAreaDown (s : State) (payload : List Byte) : State :=
  if s.fedRuns && s.fedRole == Fed.area && Fmsg.type payload == Mtype.areaDown then
    match s.fedAccepts payload with
    | some s => s
    | none =>
      match s.parentClaim payload with
      | (s, false) => s
      | (s, true) =>
        match (s.fragmentsOf payload).takeFragment payload with
        | (s, true) => s.areaRound payload
        | (s, false) => s
  else s

/-- R322. -/
def execAreaDown (payload : List Byte) (s : State) : Reply := .next (s.receiveAreaDown payload)

/-! ### Plans (R329 to R334) -/

/-- A plan as a node writes it: number, rounds, plan block fields, ρ, flags and z. -/
def State.planPayload (s : State) (plan rounds : Nat) (block : List Byte) (z : List Byte) (subst : Bool) : List Byte :=
  let n := z.length / 4
  leBytes 4 plan ++ leBytes 2 rounds ++ leBytes 1 n ++ [0#8] ++ slice block 0 16 ++ slice block 16 8 ++ slice block 24 8 ++
    leBytes 4 (s.num Reg.fedRho) ++ leBytes 4 (ofBool (subst || s.substitute s.fedSpindle) + 2 * ofBool (s.flag Reg.fedStatus 26)) ++
    z ++ List.replicate (192 - z.length) 0#8

/-- The instant of a kind 0 word near now, in ns. -/
def State.instantOf (s : State) (w : Nat) : Nat := ((s.now : Int) + s.deadlineLeft w).toNat

/-- R332, R334: an accepted plan is written to the slot, shown and offered as an event. It carries what its message carried, SEASONING while device
time seasons (R258) and until an OK plan has been written. -/
def State.writePlan (s : State) (plan rounds code : Nat) (block z : List Byte) (flags : Nat) : State :=
  let stale := u16 block 20 != 0 || u16 block 22 != 0
  let ok := code == 0
  let s := if ok then s.setFlag Reg.fedStatus 29 false else s
  let season := bit flags 0 || s.flag Reg.timStatus 4 || s.flag Reg.fedStatus 29
  let payload := s.planPayload plan rounds block z (bit flags 1)
  let err := code == 0x140 || code == 0x141
  let s := s.post Init.fed s.planSlot code err season stale payload
  let s := { s with fed := { s.fed with expired := false
                                        plan := some { number := plan, payload := payload, till := s.instantOf (u64 block 8), seasoning := season } } }
  let s := ((s.setNum Reg.fedPlan plan).setFlag Reg.fedStatus 27 true).raise 176
  let s := if err then s.raise 177 else s
  s.offerEvent 4 0

/-- A plan number above that of the slot's last plan. -/
def State.newPlan (s : State) (plan : Nat) : Bool :=
  match s.fed.plan with
  | some p => decide (p.number < plan)
  | none => true

/-- The plan block of a publication. -/
def planBlock (tov until_ : Nat) (f : FedSums) (rp rd : Nat) : List Byte :=
  leBytes 8 tov ++ leBytes 8 until_ ++ leBytes 2 f.contrib ++ leBytes 2 f.aged ++ leBytes 2 f.excluded ++
    leBytes 2 (min 0xFFFF f.oldest) ++ leBytes 4 rp ++ leBytes 4 rd

/-- R329 to R331: the top publishes the plan of period `p` and sends PLAN and AREA_PLAN. TOV is the start of the next period, which round 2^32 also
begins. Their TOV is in device time, so they carry its seasoning (R258). -/
def State.publish (s : State) (p code rounds : Nat) (f : FedSums) : State :=
  let round := s.fed.round
  let n := s.fedSpindle
  let next := min (2 ^ 32) ((p + 1) * s.planRounds)
  let tov := s.roundBegin round + next * s.spindlePeriod n - round * s.spindlePeriod n
  let till := tov + u8 s.fedBody 3 * s.planRounds * s.spindlePeriod n
  let block := planBlock (stampWord tov) (stampWord till) f (s.num Reg.fedResidP) (s.num Reg.fedResidD)
  let stale := f.oldest != 0 || f.excluded != 0
  let own := s.contributionFlags
  let flags := (own ||| ofBool (s.flag Reg.timStatus 4)) + 16 * ofBool stale + 32 * ofBool (decide (code = 3))
  let s := (List.range s.nchild).foldl (fun s c =>
    if s.childIsArea c then
      let s := (s.childNodes c).foldl (fun s d => s.fedSend d (s.fedHeader Mtype.areaPlan flags 0 0 d round p 0 code ++ block)) s
      s.sendAreaZ c Mtype.areaPlan 1 round p 0 flags code
    else
      let z := (List.range (s.childNc c)).flatMap fun i =>
        leBytes 4 (f32.encode ((s.fp (s.zAddr (s.tableG (s.childIdx c + i)))).convert f32))
      (s.childNodes c).foldl (fun s d => s.fedSend d (s.fedHeader Mtype.plan flags (s.childNc c) 0 d round p 0 code ++ block ++ z)) s) s
  if s.newPlan p then s.writePlan p rounds code block [] flags else s

/-- R323: ρ is balanced after the convergence test. -/
def State.balanceRho (s : State) (rp rd : Fp) : State :=
  let ten : Fp := .fin false 10 0
  let r := s.rho
  let new := if (mul64 ten rd).lt rp then mul64 (.fin false 2 0) r
    else if (mul64 ten rp).lt rd then Fp.div f64 .near r (.fin false 2 0) else r
  let lo := Fp.div f64 .near .one (.fin false 1000000 0)
  s.takeRho (f32.encode (((new.max lo).min (.fin false 1000000 0)).convert f32))

/-- The round a close judges (R322, R328): the round just closed or, with area children, the one before, with what every area child that is not
EXCLUDED reports of it; CONTRIB is that round's. None without a residual fragment of each of them. -/
def State.judgedSums (s : State) (now : FedSums) : Option FedSums :=
  let areas := (List.range s.nchild).filter s.childIsArea
  if areas.isEmpty then some now
  else if areas.all fun c => s.childState c == 3 || s.fed.residual.get c then
    s.fed.judged.map fun f =>
      let k := s.fedCounts s.childIsArea
      { (areas.filter fun c => s.childState c != 3).foldl (fun f c => f.join (s.block c)) f with contrib := f.contrib + k.contrib }
  else none

/-- rp, rd and the test of the round a close judges (R328). -/
def State.judgeRound (s : State) (f : Option FedSums) : State × Bool × Fp × Fp :=
  match f with
  | some f =>
    let (rp, rd, ok) := f.judge (f32.decode (u32 s.fedBody 0x20)) (f32.decode (u32 s.fedBody 0x24))
    (((s.setNum Reg.fedResidP (f32.encode (rp.convert f32))).setNum Reg.fedResidD (f32.encode (rd.convert f32))), ok && f.heard, rp, rd)
  | none => (s, false, Fp.zero false, Fp.zero false)

/-- R321 to R330: the top's close. A plan's CONTRIB is the judged round's, its other counts are this close's. A period owed from before a takeover
publishes here with NOT_CONVERGED (R337). -/
def State.closeTop (s : State) : State :=
  let (s, t) := s.closeLocal
  let k := s.fedCounts fun _ => true
  let s := s.showCounts k
  let heard := (List.range s.nchild).any s.childCurrent
  let own := s.fedCounts fun c => !s.childIsArea c
  let now := t.sums own heard
  let judged := s.judgedSums now
  let s := { s with fed := { s.fed with closed := true, judged := some now, anyCurrent := s.fed.anyCurrent || heard } }
  let round := s.fld Reg.fedStatus 9 0
  let (s, conv, rp, rd) := s.judgeRound judged
  let s := if bit (u8 s.fedBody 1) 0 && (round + 1) % 10 == 0 then s.balanceRho rp rd else s
  let contrib := match judged with
    | some f => f.contrib
    | none => k.contrib
  let report := { now with contrib := contrib, aged := k.aged, excluded := k.excluded, oldest := k.oldest }
  let s := match s.fed.owed with
    | some p =>
      let s := s.publish p 3 s.fed.budget report
      { s with fed := { s.fed with owed := none } }
    | none => s
  let s := s.setFlag Reg.fedStatus 27 false
  let p := s.fed.downPlan
  let done := fun (s : State) => { s with fed := { s.fed with published := true } }
  if conv then done (s.publish p 0 (round + 1) report)
  else if s.fed.budget ≤ round + 1 then done (s.publish p (if s.fed.anyCurrent then 3 else 0x140) (round + 1) report)
  else s

def execFedClose (s : State) : Reply :=
  .next (if s.fedRuns && s.fedRole == Fed.top && s.fed.active && !s.fed.closed then
      (s.elapseToAngle (s.acceptAngle ((List.range s.nchild).any s.childIsArea))).closeTop
    else s)

/-- Rounds used, from a member's view of the periods (R330). -/
def State.roundsUsed (s : State) (m block : List Byte) : Nat :=
  let period := max 1 ((s.spin s.fedSpindle).period)
  let span := s.instantOf (u64 block 8) - s.instantOf (u64 block 0)
  let pr := span / period / max 1 (u8 s.fedBody 3)
  (Fmsg.round m - Fmsg.plan m * pr) + 1

/-- R332: a PLAN arrives. -/
def State.receivePlan (s : State) (payload : List Byte) : State :=
  if s.fedRuns && Fmsg.type payload == Mtype.plan && s.fedRole != Fed.top then
    match s.fedAccepts payload with
    | some s => s
    | none =>
      match s.parentClaim payload with
      | (s, false) => s
      | (s, true) =>
        if !s.newPlan (Fmsg.plan payload) then s
        else
          let block := slice payload 0x20 32
          let z := slice payload 0x40 (4 * min 28 (Fmsg.nent payload))
          (s.writePlan (Fmsg.plan payload) (s.roundsUsed payload block) (Fmsg.code payload) block z
            (Fmsg.flags payload))
  else s

/-- R332. -/
def execFedPlan (payload : List Byte) (s : State) : Reply := .next (s.receivePlan payload)

/-- A coordinator's z as its members' PLANs carry it. -/
def State.forwardPlans (s : State) (m block : List Byte) : State :=
  (List.range s.nchild).foldl (fun s c =>
    let z := (List.range (s.childNc c)).flatMap fun i =>
      leBytes 4 (f32.encode ((s.fp (s.zAddr (s.tableG (s.childIdx c + i)))).convert f32))
    (s.childNodes c).foldl (fun s d =>
      s.fedSend d (s.fedHeader Mtype.plan ((Fmsg.flags m ||| ofBool (s.flag Reg.timStatus 4)) &&& 0x33) (s.childNc c) 0 d (Fmsg.round m) (Fmsg.plan m) 0 (Fmsg.code m) ++
        block ++ z)) s) s

/-- R331: an AREA_PLAN fragment: fragment 0 is the plan block, later ones z; with the last the area writes its slot and
forwards PLANs. -/
def State.receiveAreaPlan (s : State) (payload : List Byte) : State :=
  if s.fedRuns && Fmsg.type payload == Mtype.areaPlan && s.fedRole == Fed.area then
    match s.fedAccepts payload with
    | some s => s
    | none =>
      match s.parentClaim payload with
      | (s, false) => s
      | (s, true) =>
        let s := s.fragmentsOf payload
        let r := if Fmsg.frag payload = 0 then
            let s := s.noteFragment payload
            let s := { s with fed := { s.fed with planBlock := slice payload 0x20 32 } }
            (s, s.allFragments)
          else s.takeFragment payload
        if !r.2 then r.1
        else
          let s := r.1
          let block := s.fed.planBlock
          let s := { s with fed := { s.fed with areaFrags := 0, areaLast := 0 } }
          let s := s.forwardPlans payload block
          if s.newPlan (Fmsg.plan payload) then
            s.writePlan (Fmsg.plan payload) (s.roundsUsed payload block) (Fmsg.code payload) block [] (Fmsg.flags payload)
          else s
  else s

/-- R331. -/
def execAreaPlan (payload : List Byte) (s : State) : Reply := .next (s.receiveAreaPlan payload)

/-- R333: VALID_UNTIL of the last plan passes: the slot is written again with PLAN_EXPIRED. -/
def execPlanExpired (s : State) : Reply :=
  match s.fed.plan with
  | some p =>
    if s.fedRuns && !s.fed.expired && s.fedRole != Fed.top then
      let s := s.elapseTo (stampWord p.till)
      let stale := u16 p.payload 0x1C != 0 || u16 p.payload 0x1E != 0
      let season := p.seasoning || s.flag Reg.fedStatus 29 || s.flag Reg.timStatus 4
      let s := s.post Init.fed s.planSlot 0x141 true season stale p.payload
      .next (({ s with fed := { s.fed with expired := true } }.raiseAll [176, 177]).offerEvent 4 0)
    else .next s
  | none => .next s

/-- R340: a write of FED.CLEAR with GO. -/
def execFedClear (who : Who) (value : Word) (s : State) : Reply :=
  .next (s.gated who Reg.fedClear value fun s =>
    if bit value.toNat 0 then
      ([Reg.fedDropClaim, Reg.fedDropGen, Reg.fedDropLate, Reg.fedMissed] : List Nat).foldl (fun s r => s.setNum r 0) s
    else s)

end Sys2Proof.Machine
end

