-- ==== Sys2Proof/Machine/CommitSolve.lean ====
section
/-! DEFINITION. What the blocks of the Solve region take from their sections at a load, a patch or a re-admission (06, 07): R146, R147, R148,
R296, R305. -/
namespace Sys2Proof.Machine

/-! ### LTH (06) -/

/-- A chuck with a failed cell is out of service (06, "Faults and coincidences"). -/
def State.chuckHasFailed (s : State) (n c : Nat) : Bool :=
  (List.range (s.chuckCells n c)).any fun i =>
    let k := s.chuckFirst n c + i
    s.flag (Reg.lthCellfail n (k / 32)) (k % 32)

/-- LTH.CHUCK and OUT of a chuck whose layout is new. -/
def State.loadChuck (n : Nat) (s : State) (c : Nat) : State :=
  let b := s.latheBody n
  let out := decide (c < s.nchuck n) && s.chuckHasFailed n c
  let s := if c < 32 then s.setFlag (Reg.lthOutLo n) c out else s.setFlag (Reg.lthOutHi n) (c - 32) out
  if c < s.nchuck n then
    s.setNum (Reg.lthChuck n c) (2 ^ 31 + ofBool out * 2 ^ 29 + u8 b (0x81 + 2 * c) % 8 * 2 ^ 24 + u8 b (0x80 + 2 * c) * 2 ^ 16)
  else s.setNum (Reg.lthChuck n c) 0

def State.loadLathe (before : Option State) (s : State) (n : Nat) : State :=
  let b := s.latheBody n
  let s := (s.setFlag (Reg.lthQctrl n) 0 (bit (u8 b 0x10) 0)).setNum (Reg.lthWarm n) (u8 b 1)
  let same := match before with
    | some s0 => s0.latheBody n == b
    | none => false
  if same then s
  else
    let s := ((List.range 64).foldl (State.loadChuck n) s).showLathe n
    match before with
    | some s0 => if slice (s0.latheBody n) 2 14 = slice b 2 14 then s else s.clearWarm n
    | none => s

/-! ### FED (07) -/

/-- FED.CHILD of a child that has not been heard: CURRENT, of AGE 0, its first node. -/
def State.loadChild (s : State) (c : Nat) : State :=
  if c < s.nchild then
    s.setNum (Reg.fedChild c) (2 ^ 30 + ofBool (s.childIsArea c) * 2 ^ 29 + (s.childNodes c).headD 0 % 2 ^ 14)
  else s.setNum (Reg.fedChild c) 0

/-- A federation section that is new starts without a state: z, duals and last values are 0, every child is CURRENT, ρ is RHO0. The claims kept
since MOUNT of children whose nodes stay the same remain (R336). -/
def State.freshFed (s : State) (before : Option State) : State :=
  let b := s.fedBody
  let same := fun c => match before with
    | some s0 => decide (c < s0.nchild) && s0.childNodes c == s.childNodes c
    | none => false
  let s : State := { s with fed := { (default : FedState) with claims := s.fed.claims.keep same } }
  let s := if 2 ≤ s.fedRole then s.poke s.fedArea (List.replicate (fedStateBytes b) 0#8) else s
  let s := (s.setNum Reg.fedStatus (s.fedRole * 2 ^ 30 + 2 ^ 29)).setNum Reg.fedRho (u32 b 0x1C)
  let s := s.setNum Reg.fedMstatus (s.ncomp * 2 ^ 16)
  (List.range 1024).foldl State.loadChild s

def State.loadFed (s : State) (before : Option State) : State :=
  if !s.variant.hasFed then s
  else
    let s := (s.setNum Reg.fedStaleRounds (u8 s.fedBody 2)).setNum Reg.fedBudget (u16 s.fedBody 0xC)
    match before with
    | some s0 => if s0.fedBody = s.fedBody then s else s.freshFed before
    | none => s.freshFed none

/-- The Solve region takes its sections. -/
def State.loadSolve (s : State) (before : Option State) : State :=
  ((List.range s.variant.lathes).foldl (State.loadLathe before) s).loadFed before

end Sys2Proof.Machine
end

