-- ==== Sys2Proof/Machine/Commit.lean ====
section
/-! DEFINITION. The apply of a patch at its quiesce point, and the re-admission of a fenced region (01, 03): R44 to R46, R141 to R153,
R179, R255, R296, R305, R481, R575. -/
namespace Sys2Proof.Machine

/-- The blocks of a region take its sections; `before` is the state a patch finds. -/
def State.loadRegion (s : State) (r : Nat) (before : Option State) : State :=
  if r = Region.control then s.loadControl before
  else if r = Region.solve then s.loadSolve before
  else if r = Region.sense then s.loadSense before
  else s.loadLink before

/-! ### The quiesce point (R141, R142) -/

/-- The apply bound in ns: 10 µs and LENGTH at 1.6 GB/s, and the move of the process image where it moves (R142, R711). -/
def State.applyBound (s new : State) (len : Nat) : Nat :=
  10000 + (len * 5 + 7) / 8 +
    (if s.imageBase = new.imageBase ∧ s.nsig = new.nsig then 0 else (max s.nsig new.nsig + 3) / 4)

/-- Comparator `c` of spindle `n` fires no consumer within `ns`, as far as time alone decides it. -/
def State.noFiring (s : State) (ns n c : Nat) : Bool :=
  let k := s.comparator n c
  !s.waits n c &&
    (!k.armed || !s.spinRuns n ||
      match s.ticksFor n (k.next (s.spin n).travel - (s.spin n).travel) with
      | none => true
      | some t => decide (ns < 4 * t))

/-- No release falls due within `ns`. -/
def State.noRelease (s : State) (ns : Nat) : Bool :=
  (List.range s.ntask).all fun t =>
    let d := s.taskDef t
    d.event || s.programMode d.prog != Program.run || s.noFiring ns d.rspin d.rcmp

/-- PRF axes that the new configuration changes stand still (R141). -/
def State.changedAxesStand (s new : State) : Bool :=
  (List.range s.variant.axes).all fun n =>
    (slice s.controlStruct (axisEntry n) 64 == slice new.controlStruct (axisEntry n) 64 && s.groupOf n == new.groupOf n) ||
      (s.axis n).move.isNone

def State.controlQuiet (s new : State) (ns : Nat) : Bool :=
  (List.range s.ntask).all (fun t => !(s.task t).live) && s.cle.sweep.isNone &&
    (List.range s.nprog).all (fun p => s.programMode p != Program.hold) && s.changedAxesStand new && s.noRelease ns &&
    (s.nloop == 0 || s.noFiring ns s.sweepSpindle s.sweepComparator)

/-- A round is active from its start until the plan of its period is published; for a member, from a DOWN until the plan it belongs to. -/
def State.roundActive (s : State) : Bool :=
  if s.fedRole = Fed.top then s.fed.active && !s.fed.published
  else if s.fedRole = 0 then false
  else !s.fed.asked.isEmpty || s.fed.downPlan != (match s.fed.plan with | some p => p.number | none => 0)

def State.solveQuiet (s new : State) (ns : Nat) : Bool :=
  (List.range s.variant.lathes).all (fun n =>
    s.latheBody n == new.latheBody n || (List.range 64).all fun c => ((s.lathe.get n).runs.get c).isNone) &&
    !s.roundActive && (s.fedRole != Fed.top || s.noFiring ns s.fedSpindle (u8 s.fedBody 9))

/-- Graphs that change have no frame waiting; the instant is a mains-cycle boundary of every system that changes; neither a frame nor a mains-cycle
boundary falls due. -/
def State.senseQuiet (s new : State) (ns : Nat) : Bool :=
  (List.range s.ngraph).all (fun g =>
    (s.graphData g == new.graphData g && decide (g < new.ngraph)) || (s.graph g).waiting.isEmpty) &&
    (List.range s.nsys).all (fun k => (decide (k < new.nsys) && s.systemData k == new.systemData k) || (s.metSystem k).last == some s.ranNs) &&
    (List.range s.ngraph).all (fun g => s.noFiring ns (s.graphByte g 4) (s.graphByte g 5)) &&
    (List.range s.nsys).all (fun k => s.noFiring ns (u8 s.metBody (s.systemEntry k)) (u8 s.metBody (s.systemEntry k + 1)))

/-- CAN controllers whose entries change have no frame on the bus; of the packets and frames of the other ports each is one step. PNL is in
vertical blanking if PANEL changes, and no panel line is scheduled within the apply bound (R142). -/
def State.linkQuiet (s new : State) (ns : Nat) : Bool :=
  ((List.range s.variant.cans).all fun k => s.canConfig k == new.canConfig k || s.can.onBus.get k == 0) &&
  (s.panelBody == new.panelBody || s.panelQuiet) &&
    (s.panelType == 0 || (decide (s.pnl.busyUntil ≤ s.chip.up) && s.noFiring ns (u8 s.panelBody 2) (u8 s.panelBody 3)))

/-- The conditions of the region's row of the table, and R142. -/
def State.quiet (s new : State) (r ns : Nat) : Bool :=
  if r = Region.control then s.controlQuiet new ns
  else if r = Region.solve then s.solveQuiet new ns
  else if r = Region.sense then s.senseQuiet new ns
  else s.linkQuiet new ns

/-! ### The apply (R145 to R148) -/

/-- The running configuration with a patch's sections in place of the region's. -/
def State.withPatch (s : State) (r : Nat) (xs : List Section) : State :=
  { s with blk := { s.blk with running := mergeRegion s.blk.running xs r, patches := s.blk.patches.set r (some xs) } }

/-- The apply lasts its bound, through which BLK.STATUS.APPLYING shows the region; it is one step, so no other command falls into it (R143). -/
def State.applyPatch (s : State) (r : Nat) (q : PatchRequest) (xs : List Section) : State :=
  let bound := s.applyBound (s.withPatch r xs) q.len
  let s := s.setFlag Reg.blkStatus (16 + r) true
  let s := (s.withPatch r xs).loadRegion r (some s)
  let s := (s.elapse ((bound + 3) / 4)).setFlag Reg.blkStatus (16 + r) false
  let s := s.setNum (Reg.blkRgen0 + 4 * r) (u32 q.image 0x1C)
  (s.finishPatch r q Patch.applied 0).raise 17

/-- The sections of a running request's image. -/
def PatchRequest.sections (q : PatchRequest) : Option (List Section) :=
  match imageSections q.image with
  | .error _ => none
  | .ok xs => some (xs.map Prod.snd)

/-- The region stands at a usable quiesce point for a request that has passed its checks (R141, R142). -/
def State.patchUsable (s : State) (r : Nat) (q : PatchRequest) : Bool :=
  match q.sections with
  | none => false
  | some xs =>
    let new := s.withPatch r xs
    decide (r < 4) && q.passed && s.awake && s.quiet new r (s.applyBound new q.len)

/-- R145: at a usable quiesce point the region's blocks take the patch at one edge. -/
def execPatchApply (region : Nat) (s : State) : Reply :=
  match s.blk.runs.get region with
  | none => .next s
  | some q =>
    match q.sections with
    | none => .next s
    | some xs => .next (if s.patchUsable region q then s.applyPatch region q xs else s)

/-- R144: no usable quiesce point within BLK.QTIMEOUT, 1 to 60,000 ms: time passes up to then, and the region keeps its configuration. A region
that stands at a usable quiesce point, now or when the limit ends, lets its patch be applied instead (R142). -/
def execQuiesceTimeout (region : Nat) (s : State) : Reply :=
  match s.blk.runs.get region with
  | none => .next s
  | some q =>
    if !q.passed || s.patchUsable region q then .next s
    else
      let due := q.checked + 1000000 * clampNat 1 60000 (s.num Reg.blkQtimeout)
      let t := s.elapse ((due - s.chip.up + 3) / 4)
      .next (if t.patchUsable region q then t else t.finishPatch region q Patch.refused BlankCode.quiesceTimeout)

/-! ### Re-admission (R44 to R46, R153) -/

/-- R44: the Warden starts the re-admission of the fenced regions it names. -/
def execUnfence (who : Who) (value : Word) (s : State) : Reply :=
  .next (s.gated who Reg.sysUnfence value fun s =>
    (List.range 4).foldl (fun s r => if bit value.toNat r && s.fenced r then s.setFlag Reg.sysFence (8 + r) true else s) s)

/-- The register keeps its value through a re-admission: SPN.STATE and the comparators with an owner, whose spindles TIM kept (R179); the LPDDR5
channel, whose contents stay; ON and the backlight of the panel, which starts again from power-up. -/
def State.keptReg (s : State) (off : Nat) : Bool :=
  let w := off / 0x10000
  if w = Reg.spnCfg 0 / 0x10000 then
    (List.range 8).any fun n => off == Reg.spnState n || (List.range 64).any fun c =>
      s.flag (Reg.spnCmpCtl n c) 30 && (off == Reg.spnCmpAngle n c || off == Reg.spnCmpCtl n c)
  else w == 0x32 || off == Reg.pnlCtrl || off == Reg.pnlLight

/-- The registers of a region take their reset values. -/
def State.resetRegion (s : State) (r : Nat) : State :=
  let ours := fun (off : Nat) => decide (off % 2 ^ 32 < Plic.base) && regionOfReg (off % 2 ^ 32) == r && !s.keptReg off
  let regs := s.regs.keep fun off => !ours off
  let regs := (resetWords s.variant).foldl (fun (t : Tab Word) e => if ours e.1 then t.set e.1 (BitVec.ofNat 32 e.2) else t) regs
  { s with regs := regs }

/-- Control restarts: every core runs again, tasks, loops and axes start anew, and the mailboxes are empty (R636). -/
def State.restartControl (s : State) : State :=
  let s : State := { s with tsk := default, cle := default, prf := Tab.empty }
  let s := ((s.setFld Reg.sysPairs 15 8 0).loadControl none).emptyMailboxes
  if s.controlRuns then s
  else (List.range s.nprog).foldl (fun s p => if s.programMode p = Program.stop then s else s.stopProgram p) s

/-- Solve restarts: queues and runs are gone, RATE and the warm entries are clear (R296, R305). -/
def State.restartSolve (s : State) : State :=
  let s := { s with lathe := Tab.empty, fed := default }.loadSolve none
  (List.range s.variant.lathes).foldl State.clearWarm s

/-- A spindle comes back from TIM: one whose source is not TIME rejoins once its source's angle is known (R172, R179); its PLL starts anew. -/
def State.returnSpindle (s : State) (n : Nat) : State :=
  if !s.spinUsed n || s.spindleSrc n == Src.time then s
  else (s.setSpin n { s.spin n with known := false, goodCycles := 0, eventAt := s.chip.ran, lost := false }).setSpinFlag n Spn.locked false

/-- Sense restarts: the spindles come back from TIM (R179), TIME ones as they are, the others to rejoin; metrology restores as at MOUNT. -/
def State.restartSense (s : State) : State :=
  let s := (List.range 8).foldl State.returnSpindle (s.setFld Reg.timStatus 31 24 0)
  let m := s.met
  let s := { s with fus := default, met := { (default : MetState) with bm := m.bm, battery := m.battery, fell := m.fell } }
  ((s.loadSense none).clearFusion).metRestore

/-- Link restarts: links train, the panel starts from power-up and recovers (R575), and the Latch drives its pins again. -/
def State.restartLink (s : State) : State :=
  let s := { s with mil := default, eth := default, can := default, pci := default, pnl := default }.loadLink none
  let s := (s.startLinks.redriveLatch).loadJournal
  if s.panelOn then s.startPower else s

/-- R45, R153, R255: the region is reset, takes its sections again, leaves the fence, and raises source 2. -/
def State.readmit (s : State) (r : Nat) : State :=
  let s := ((s.resetRegion r).setFlag Reg.sysFence r false).setFlag Reg.sysFence (8 + r) false
  let s :=
    if r = Region.control then s.restartControl
    else if r = Region.solve then s.restartSolve
    else if r = Region.sense then s.restartSense
    else { s with pin := { s.pin with irqHeld := none } }.restartLink
  (s.adpTakeRegion r).raise 2

/-- R45: re-admission ends; the same event met again fences the region again (R46). -/
def execReadmitDone (region : Nat) (again : Option Nat) (s : State) : Reply :=
  if !(s.fenced region && s.flag Reg.sysFence (8 + region)) then .next s
  else
    let s := s.readmit region
    .next (match again with
      | some det => s.fence region det none false
      | none => s)

end Sys2Proof.Machine
end

