-- ==== Sys2Proof/Machine/Dbg.lean ====
section
/-! DEFINITION. Debug (16): R637, R638. What a debug module's register reads is not given by the spec: a free value (log entry 44). -/
namespace Sys2Proof.Machine

/-- Core `c` is open to debug in FIELD: it runs no task of a PROTECTED program (R372). -/
def State.coreOpen (s : State) (c : Nat) : Bool := match s.tsk.running.get c with
  | 0 => true
  | t + 1 => !s.debugMasked t

/-- The engines whose debug modules are reachable in the present lifecycle state, a bit per initiator ID (R637). -/
def State.debugReach (s : State) : Nat :=
  let cores := (List.range s.variant.cores).filter s.coreOpen
  let fusion := (List.range s.variant.fusion).map (Init.fusion + ·)
  let ids := if s.life = Life.factory then cores ++ fusion ++ [Init.warden, Init.keeper]
    else if s.life = Life.provisioned ∨ s.life = Life.service then cores ++ fusion ++ [Init.warden]
    else if s.life = Life.field then cores
    else []
  ids.foldl setBit 0

/-- DBG.STATUS as a read shows it. -/
def State.debugWord (s : State) : Nat := ofBool (s.flag Reg.dbgStatus 31) * 2 ^ 31 + s.life % 16 * 2 ^ 16 + s.debugReach

/-- A halt request of a reachable engine (R638): a core's holds the program of the task it runs, a checker's acts through its master; it
is masked while the core runs a task of a PROTECTED program in FIELD (R372). -/
def State.haltEngine (s : State) (e : Nat) : State :=
  let c := if e < 8 ∧ e % 2 = 1 ∧ s.paired (e / 2) = true then e - 1 else e
  if !bit s.debugReach e || !s.awake then s
  else if 8 ≤ c then s.raise 482
  else
    match s.tsk.running.get c with
    | 0 => s.raise 482
    | t + 1 => if s.debugMasked t then s else (s.breakTask t).raise 482

/-- A write of DBG.DMI_OP: a read gives a free value, and a write of the debug module's dmcontrol (register 0x10) with haltreq (bit 31)
is a halt request, as the RISC-V debug specification has it. -/
def State.dmiOp (s : State) (v : Word) : State :=
  let op := field v 1 0
  let e := s.fld Reg.dbgDmiAddr 15 8
  let shown := op + ofBool (!bit s.debugReach e) * 2 ^ 30
  if op = 0 ∨ op = 3 then s.setNum Reg.dbgDmiOp op
  else
    let s : State := if !bit s.debugReach e then s
      else if op = 1 then s.free.1.setReg Reg.dbgDmiData s.free.2
      else if s.fld Reg.dbgDmiAddr 6 0 = 0x10 ∧ s.flag Reg.dbgDmiData 31 = true then s.haltEngine e
      else s
    (s.setNum Reg.dbgDmiOp shown).raise 480

/-- R637: a write of DBG.DMI_OP that asks for a read. -/
def execDmiRead (who : Who) (value : Word) (s : State) : Reply := .next (s.gated who Reg.dbgDmiOp value fun s => s.dmiOp value)

/-- R637: a write of DBG.DMI_OP that asks for a write. -/
def execDmiWrite (who : Who) (value : Word) (s : State) : Reply := .next (s.gated who Reg.dbgDmiOp value fun s => s.dmiOp value)

/-- R638. -/
def execHaltRequest (engine : Nat) (s : State) : Reply := .next (s.haltEngine engine)

/-- R637: a probe attaches, and source 481 rises; in RETIRED it reaches the boundary scan only. -/
def execJtagAttach (s : State) : Reply := .next (if s.awake then (s.setFlag Reg.dbgStatus 31 true).raise 481 else s)

end Sys2Proof.Machine
end

