-- ==== Sys2Proof/Machine/InjState.lean ====
section
/-! DEFINITION. The end of an injection request (18): R679 to R682. -/
namespace Sys2Proof.Machine

def Inj.notPermitted : Nat := 1
def Inj.busy : Nat := 2
def Inj.noPoint : Nat := 3
def Inj.liveDenied : Nat := 4
def Inj.fenced : Nat := 5
def Inj.timeout : Nat := 6
def Inj.abandoned : Nat := 7

/-- INJ.STATUS shows the running request. -/
def State.showInj (s : State) : State := match s.inj.run with
  | some q => s.setNum Reg.injStatus (2 ^ 31 + ofBool (!q.live) * 2 ^ 30 + q.remaining % 256 * 2 ^ 16 + q.det % 65536)
  | none => s.setNum Reg.injStatus 0

/-- A request ends: INJ.RESULT of its initiator holds the outcome, and source 26 rises. -/
def State.injResult (s : State) (id : Nat) (refused : Bool) (reason : Nat) : State :=
  (s.setNum (bankOf id Reg.injResult) (2 ^ 31 + ofBool refused * 2 ^ 30 + reason * 2 ^ 24)).raise 26

/-- The running request ends. -/
def State.endInjection (s : State) (reason : Nat) : State := match s.inj.run with
  | some q => ({ s with inj := { s.inj with run := none } }.showInj).injResult q.who false reason
  | none => s

/-- One occurrence of a request is presented: it is counted in INJ.COUNT, the last one ends the request, and what `f` does is the
detector's action (R679 to R681). -/
def State.occurrence (s : State) (q : InjRequest) (f : State → State) : State :=
  let s := s.bump Reg.injCount 31 0 1
  let s := if q.remaining ≤ 1 then s.endInjection 0
    else { s with inj := { s.inj with run := some { q with remaining := q.remaining - 1 } } }.showInj
  let s := f { s with inj := { s.inj with acting := some q.who } }
  { s with inj := { s.inj with acting := none } }

/-- A proof run's own injections belong to no initiator's request (R684). -/
def Inj.proof : Nat := 0x20

/-- An occurrence that a proof run injects (R516, R684). -/
def State.proofOccurrence (s : State) (f : State → State) : State :=
  let s := s.bump Reg.injCount 31 0 1
  let s := f { s with inj := { s.inj with acting := some Inj.proof } }
  { s with inj := { s.inj with acting := none } }

/-- INJ.RESULT as a read shows it: SEQ is that of the request's last record, 0 while the collector has not given it
one and in a refusal. -/
def State.injResultWord (s : State) (id : Nat) : Nat :=
  let w := s.reg (bankOf id Reg.injResult)
  let seq := match s.inj.tags.get id with
    | 0 => 0
    | t + 1 => s.flt.seqOf.get t
  if bit w.toNat 30 then w.toNat else (setField w 15 0 seq).toNat

/-- A write of INJ.ABORT, and entry to SAFE, STANDBY or MOUNT (R682). -/
def State.abandonInjection (s : State) : State := s.endInjection Inj.abandoned

/-- R681: a request that has not completed within 1 s; time passes up to then. -/
def execInjectionTimeout (s : State) : Reply := match s.inj.run with
  | some q => .next ((s.elapse ((q.start + 1000000000 - s.chip.up + 3) / 4)).endInjection Inj.timeout)
  | none => .next s

/-- R682: a write of INJ.ABORT. -/
def execInjAbort (who : Who) (value : Word) (s : State) : Reply :=
  .next (s.gated who Reg.injAbort value fun s => if bit value.toNat 0 then s.abandonInjection else s)

end Sys2Proof.Machine
end

