-- ==== Sys2Proof/Machine/Ward.lean ====
section
/-! DEFINITION. Wards (05): the Ward period's boundary and its timing, and WRD.CLEAR (R231, R238 to R240, R261). -/
namespace Sys2Proof.Machine

/-- The credit spent at the start of a period: none, but for what an engine already had beyond its last allotment. -/
def State.carried (s : State) : Tab Nat :=
  s.ward.spent.cells.foldl (fun (m : Tab Nat) c => m.set c.1 (c.2 - s.allotment (c.1 % 64) (.ofKey (c.1 / 64)))) Tab.empty

/-- A period boundary (R231, R239, R240): every credit is refilled, and the registers show the period that ends. -/
def State.wardBoundary (s : State) : State :=
  let len := (s.chip.ran - s.ward.start) / 2 ^ 32
  let map := fun lo => ((List.range 32).filter fun i =>
    (List.range 5).any fun l => s.ward.exhausted.get (l * 64 + lo + i)).foldl setBit 0
  let s := (s.setNum Reg.wrdExhMapLo (map 0)).setNum Reg.wrdExhMapHi (map 32)
  let s := (s.roll Reg.wrdPeriods 31 0 1).setNum Reg.wrdLastlen (min (2 ^ 32 - 1) len)
  let s := s.setFlag Reg.wrdStatus 31 (decide (s.wardSpindle < 8) && s.substitute s.wardSpindle)
  let spent := s.carried
  let bodies := (List.range 4).foldl (fun (m : Tab (List Byte)) r => m.set r (s.body Ty.ward r 0)) s.ward.bodies
  { s with ward := { s.ward with start := s.chip.ran, bodies := bodies, spent := spent, exhausted := Tab.empty } }

/-- Device-time ticks until `ns` of device time after the period's start. -/
def State.wardTicks (s : State) (ns : Nat) : Nat := s.ticksUntil (s.ward.start + ns * 2 ^ 32)

/-- The counters of a holder. -/
def State.clearHolder (s : State) (h : Nat) : State :=
  ((s.setNum (Reg.wrdHexhCr h) 0).setNum (Reg.wrdHexhBc h) 0).setNum (Reg.wrdHborrow h) 0

/-- R261: a write of WRD.CLEAR. -/
def execWrdClear (who : Who) (value : Word) (s : State) : Reply :=
  .next (s.gated who Reg.wrdClear value fun s =>
    if bit value.toNat 7 then (List.range 64).foldl State.clearHolder s else s.clearHolder (field value 5 0))

end Sys2Proof.Machine
end

