-- ==== Sys2Proof/Machine/Mem.lean ====
section
/-! DEFINITION. Memory accesses (01): arbitration, SECDED and poisoning (R27, R35, R47), the occurrences an injection presents to a
read (R668), result slots (R17 to R23), and the data. -/
namespace Sys2Proof.Machine

/-! ### SECDED (R27, R35) -/

/-- LPDDR5 corrected words are counted in DDR.CE, and source 459 rises once an hour of device time when they reach CE_THRESH (01). -/
def State.countDdrCe (s : State) : State :=
  let hour := s.now / 3600000000000
  let fresh := s.chip.ddrHourStart != hour
  let n := (if fresh then 0 else s.chip.ddrHourCount) + 1
  let told := !fresh && s.chip.ddrHourRaised
  let beyond := s.fld Reg.ddrCeThresh 15 0 != 0 && decide (s.fld Reg.ddrCeThresh 15 0 ≤ n)
  let s := s.bump Reg.ddrCe 31 0 1
  let s := { s with chip := { s.chip with ddrHourStart := hour, ddrHourCount := n, ddrHourRaised := told || beyond } }
  if beyond && !told then s.raise 459 else s

/-- A word of kind `k` is corrected and counted (R27). -/
def State.correctWord (s : State) (w : Who) (k a : Nat) : State :=
  let s := s.bump (if k = 0 then Reg.fltCeSram else if k = 1 then Reg.fltCeMram else Reg.fltCeDdr) 31 0 1
  let s := if k = 2 then s.countDdrCe else s
  s.detected { det := ceDetector k, level := 1, loc := locationOf s.variant a, init := some w.id, world := s.secure w, action := Act.corrected,
               detail := a / 8 * 8 % 2 ^ 32 }

/-- The access fails with UNCORRECTABLE. -/
def State.failAccess (s : State) (w : Who) (k a n : Nat) : State := (s.refuseWord (some w) k a).reply Code.uncorrectable (List.replicate n 0#8)

/-! ### Injected words (READ1, READ2; R668, R681) -/

/-- The running request waits for a read of a word that `[a, a + n)` covers, at one of these detectors. -/
def State.waitsForRead (s : State) (dets : List Nat) (a n : Nat) : Option InjRequest := match s.inj.run with
  | some q => if dets.contains q.det && decide (q.addr / 8 * 8 < a + n) && decide (a < q.addr / 8 * 8 + 8) then some q else none
  | none => none

/-- A read of the addressed word takes a correctable occurrence: LIVE, it is corrected and counted; CACHE_PAR of a core's clean line is
refetched. -/
def State.injectedCorrection (s : State) (w : Who) (k a n : Nat) : State := match s.waitsForRead (ceDetector k :: (if w.isCore then [7] else [])) a n with
  | none => s
  | some q => s.occurrence q fun s =>
    if q.det = 7 then
      s.detected { det := 7, level := 1, loc := location 0 (0x80 + w.id) 0, init := some w.id, world := s.secure w, action := Act.retried,
                   detail := a / 8 * 8 % 2 ^ 32, shadow := !q.live }
    else if q.live then s.correctWord w k q.addr
    else
      s.detected { det := q.det, level := 1, loc := locationOf s.variant q.addr, init := some w.id, world := s.secure w, action := Act.corrected,
                   detail := q.addr / 8 * 8 % 2 ^ 32, shadow := true }

/-! ### Result slots -/

/-- The slots whose word at `o` an access covers. -/
def State.slotsAt (s : State) (o a n : Nat) : List Nat :=
  (s.slots.cells.map Prod.fst).filter fun x => decide (x + o < a + n) && decide (a < x + o + 4)

/-- A read of a slot's STATUS takes the snapshot (R18). -/
def State.readSlots (s : State) (a n : Nat) : State := (s.slotsAt 0 a n).foldl (fun s x => (s.takeSnapshot x).1) s

/-- A read of a slot's last payload word ends the snapshot (R19). -/
def State.releaseSlots (s : State) (a n : Nat) : State :=
  ((s.slots.cells.map Prod.fst).filter fun x =>
    let last := x + 0x10 + (max 4 (s.slots.get x).payloadBytes - 4)
    decide (last < a + n) && decide (a < last + 4)).foldl
    (fun s x => { s with slots := s.slots.set x { s.slots.get x with held := false } }) s

/-- A write of a slot's TAKE releases it (R22); TAKE itself reads 0. -/
def State.writeSlots (s : State) (a n : Nat) : State := (s.slotsAt 8 a n).foldl (fun s x => (s.takeSlot x).poke32 (x + 8) 0) s

/-! ### The access -/

/-- A read that is served. -/
def State.serveRead (s : State) (a n : Nat) : State :=
  let s := s.readSlots a n
  let bs := s.bytes a n
  (s.releaseSlots a n).reply Code.ok bs

/-- A write into a copy of the provisioning record other than KEY's own leaves its tag failing (R652; DESIGN CHOICE, log entry 15). -/
def State.spoilRecord (s : State) (a n : Nat) : State :=
  ([0, 1] : List Nat).foldl (fun s c =>
    if overlaps a n (Addr.mram + 6 * s.variant.mramS + 0x5000 + 0x1000 * c) 0x1000 then
      { s with key := { s.key with copies := s.key.copies.set c none } }
    else s) s

/-- A write that is served. -/
def State.serveWrite (s : State) (a : Nat) (bs : List Byte) : State :=
  (((s.poke a bs).spoilRecord a bs.length).writeSlots a bs.length).replyOk

/-- What the words that an access reads go through before it is served: a poisoned or uncorrectable word fails it, a corrected one is
counted, and an injection takes its occurrence from a read that meets no real error (R683). A write reads its word only when it is of
fewer than 8 bytes (R47). `n` bytes are answered on failure. -/
def State.checkWords (s : State) (w : Who) (k a n ans : Nat) (ecc : Ecc) (go : State → State) : State :=
  match s.badWordIn (a / 8 * 8) (max n 8) with
  | some p => s.failAccess w k p ans
  | none =>
    match ecc with
    | .uncorrectable => s.failAccess w k a ans
    | .corrected => go (s.correctWord w k a)
    | .clean =>
      match s.waitsForRead [ueDetector k] a n with
      | some q =>
        if q.live then s.occurrence q fun s => s.failAccess w k q.addr ans
        else go (s.occurrence q fun s => s.recordBadWord (some w) k q.addr true)
      | none => go (s.injectedCorrection w k a n)

/-- An access of one word of a result slot: the checks of R705, arbitration, and the word's own state; then `go`. -/
def State.slotAccess (s : State) (w : Who) (a : Nat) (write : Bool) (go : State → State) : State :=
  let ans := if write then 0 else 4
  let c := s.memCode w a 4 write
  if s.silent w a 4 write then s
  else if c ≠ Code.ok then s.busError w a c ans
  else
    s.arbitrated (wordAccess w a 4 (if write then some (List.replicate 4 0#8) else none)) fun s =>
      match memoryKind a with
      | none => go s
      | some k => s.checkWords w k a 4 ans .clean go

/-- R18: a read of STATUS. -/
def execSlotStatusRead (who : Who) (addr : Nat) (s : State) : Reply :=
  .next (s.slotAccess who addr false fun s =>
    let (s, w) := s.takeSnapshot addr
    s.replyWord w)

/-- R19: a read of the last payload word ends the snapshot; the read returns that word. -/
def execSlotPayloadLastRead (who : Who) (addr : Nat) (s : State) : Reply :=
  let k := s.slots.get addr
  let last := addr + 0x10 + (max 4 k.payloadBytes - 4)
  .next (s.slotAccess who last false fun s =>
    let v := s.mem32 last
    { s with slots := s.slots.set addr { s.slots.get addr with held := false } }.replyWord v)

/-- R22: a write of any value to TAKE. -/
def execTake (who : Who) (addr : Nat) (_value : Word) (s : State) : Reply :=
  .next (s.slotAccess who (addr + 8) true fun s => (s.takeSlot addr).replyOk)

/-- R716: a single access or a burst to a memory is admitted, arbitrated under its Ward credit and served, or ends in a bus error. -/
def State.memAccess (s : State) (w : Who) (a : Nat) (n : Nat) (data : Option (List Byte)) (ecc : Ecc) (slack : Bool) : State :=
  let ans := if data.isNone then n else 0
  let c := s.memCode w a n data.isSome
  if s.silent w a n data.isSome then s
  else if c ≠ Code.ok then s.busError w a c ans
  else
    s.arbitrated { who := w, addr := a, len := n, data := data, ecc := ecc, slack := slack, left := [] } fun s =>
      let go := fun (s : State) => match data with
        | none => s.serveRead a n
        | some bs => s.serveWrite a (slice bs 0 n)
      match memoryKind a with
      | none => go s
      | some k => if data.isSome && decide (8 ≤ n) then go s else s.checkWords w k a n ans ecc go

end Sys2Proof.Machine
end

