-- ==== Sys2Proof/Machine/Ddr.lean ====
section
/-! DEFINITION. The SRAM scrubber and the DDR controller (01): R48, R52, R57, R58. -/
namespace Sys2Proof.Machine

/-- SYS.SCRUB.PERIOD in ns; 0 is treated as 1 s. -/
def State.scrubPeriod (s : State) : Nat := 1000000000 * max 1 (s.fld Reg.sysScrub 15 0)

/-- R48: a pass ends, PERIOD after the one before; up to then time passes. The corrected words are counted, the uncorrectable ones poisoned, and
source 6 rises. -/
def execScrubPass (corrected : Nat) (bad : List Nat) (s : State) : Reply :=
  if !s.awake || !s.flag Reg.sysScrub 16 then .next s
  else
    let s := s.elapse ((s.chip.scrubbed + s.scrubPeriod - s.chip.up + 3) / 4)
    let s : State := { s with chip := { s.chip with scrubbed := s.chip.up } }
    let s := ((s.roll Reg.sysScrubStat 31 16 1).bump Reg.sysScrubStat 15 0 corrected).bump Reg.fltCeSram 31 0 corrected
    let s := s.bump (Reg.fltDcount 1) 31 0 corrected
    let words := (bad.map fun a => a / 8 * 8).filter fun a => memoryKind a == some 0 && !s.memAbsent a
    .next ((words.foldl (fun s a => s.refuseWord none 0 a) s).raise 6)

/-- CAP and SPEED of the DDR entry of Link STRUCT (15). -/
def State.ddrCap (s : State) : Nat := u8 s.linkStruct 0x480
def State.ddrSpeed (s : State) : Nat := u8 s.linkStruct 0x481

/-- Training starts at the Blank commit, with the capacity and speed of the section (R52). -/
def State.startTraining (s : State) : State :=
  if s.variant.hasDdr then
    let s := (s.setFld Reg.ddrStatus 20 16 s.ddrSpeed).setFld Reg.ddrStatus 7 4 s.ddrCap
    { s with chip := { s.chip with ddrPending := s.ddrCap != 0 } }
  else s

/-- R58: the refresh-rate indication is read; above nominal, which is 4 quarters, the channel is derated. -/
def execDdrRefreshPoll (code multiplier : Nat) (s : State) : Reply :=
  if !s.awake || !s.flag Reg.ddrStatus 31 then .next s
  else
    let s := s.setNum Reg.ddrRefresh (multiplier % 256 * 256 + code % 8)
    let above := decide (4 < multiplier % 256)
    .next (if s.flag Reg.ddrStatus 28 = above then s else (s.setFlag Reg.ddrStatus 28 above).raise 460)

/-- R57: a write of DDR.CLEAR with GO. -/
def execDdrClear (who : Who) (value : Word) (s : State) : Reply :=
  .next (s.gated who Reg.ddrClear value fun s => if bit value.toNat 0 then (s.setNum Reg.ddrCe 0).setNum Reg.ddrUe 0 else s)

end Sys2Proof.Machine
end

