-- ==== Sys2Proof/Machine/Flt.lean ====
section
/-! DEFINITION. The fault collector's own steps (18). -/
namespace Sys2Proof.Machine

/-- The next waiting record is written. -/
def State.writeNext (s : State) : State :=
  match s.flt.waiting with
  | [] => s
  | r :: rest =>
    let s := { s with flt := { s.flt with waiting := rest, wrote := s.chip.ran } }
    match r.seq with
    | some q => (s.writeRecord r q).showWaiting
    | none =>
      let (s, q) := s.takeSeq
      (s.writeRecord r q).showWaiting

/-- R676: the collector writes its next waiting record, one per 50 ns; with none waiting nothing happens. -/
def execFaultRecordWrite (s : State) : Reply :=
  .next (if s.flt.waiting.isEmpty then s else (s.elapse (s.ticksUntil (s.flt.wrote + 50 * 2 ^ 32))).writeNext)

/-- The counters at 0x010 to 0x020 and every FLT.DCOUNT are zeroed. -/
def State.clearFlt (s : State) : State :=
  let s := [Reg.fltLogskip, Reg.fltCeSram, Reg.fltCeMram, Reg.fltCeDdr, Reg.fltLevels].foldl (fun s r => s.setNum r 0) s
  (List.range 45).foldl (fun s d => s.setNum (Reg.fltDcount d) 0) s

/-- R685: a write of FLT.CLEAR. -/
def execFltClear (who : Who) (value : Word) (s : State) : Reply :=
  .next (s.gated who Reg.fltClear value fun s => if bit value.toNat 0 then s.clearFlt else s)

/-- At MOUNT, SEQ continues from the newest in the log (R675); the records before it took theirs so from the reset on. -/
def State.restoreLog (s : State) : State :=
  let newest := s.logNewest.getD 0
  let s := { s with flt := { s.flt with ready := true } }
  ((s.setNum Reg.fltSeq newest).setNum Reg.fltLogseq newest).setFlag Reg.fltStatus 31 true

end Sys2Proof.Machine
end

