-- ==== Sys2Proof/Machine/HingeTell.lean ====
section
/-! DEFINITION. What a unit of a redundant set knows and tells (12): peers, readiness, heartbeats, claims, YIELD (R489 to R503, R509,
R515). -/
namespace Sys2Proof.Machine

/-! ### Peers (R497, R503) -/

def State.peer (s : State) (p : Nat) : PeerState := s.hinge.peers.get p
def State.setPeer (s : State) (p : Nat) (x : PeerState) : State := s.setHinge { s.hinge with peers := s.hinge.peers.set p x }

/-- STATE of a heartbeat. -/
def Unit.mount : Nat := 0
def Unit.ready : Nat := 1
def Unit.notReady : Nat := 2
def Unit.active : Nat := 3
def Unit.safe : Nat := 4
def Unit.proof : Nat := 5

/-- 3 heartbeat periods in ns. -/
def State.hb3 (s : State) : Nat := 3 * s.hbPeriod

/-- A time within the last 3 heartbeat periods. -/
def State.recent (s : State) (t : Option Nat) : Bool := match t with
  | some u => decide (s.chip.up < u + s.hb3)
  | none => false

/-- R497: the peer is heard. -/
def State.heard (s : State) (p : Nat) : Bool := s.peerUsed p && (s.recent (s.peer p).lvds || s.recent (s.peer p).milio)
def State.peerState (s : State) (p : Nat) : Nat := s.fld (Reg.hngPeer p) 29 27
def State.peerUnfit (s : State) (p : Nat) : Bool := bit (s.peer p).flags 1
def State.peerWardenOk (s : State) (p : Nat) : Bool := bit (s.peer p).flags 4
/-- STATE, a peer in PROOF counting as before its run (R503). -/
def State.peerReady (s : State) (p : Nat) : Nat := if s.peerState p = Unit.proof then (s.peer p).ready else s.peerState p
/-- A heard peer that is STANDBY_READY and not UNFIT. -/
def State.peerTakes (s : State) (p : Nat) : Bool := s.heard p && s.peerReady p == Unit.ready && !s.peerUnfit p

/-- R503: some peer is fit. -/
def State.anyFit (s : State) : Bool :=
  ([0, 1] : List Nat).any fun p => s.heard p && s.peerWardenOk p && !s.peerUnfit p &&
    (s.peerReady p == Unit.ready || (s.hingeCold && s.peerReady p == Unit.notReady))

/-- HNG.PEER as a read shows it. -/
def State.peerWord (s : State) (p : Nat) : Nat :=
  let w := setField (s.reg (Reg.hngPeer p)) 30 30 (ofBool (s.heard p))
  (setField (setField w 12 12 (ofBool (s.recent (s.peer p).lvds))) 13 13 (ofBool (s.recent (s.peer p).milio))).toNat

/-! ### This unit -/

def Hng.unfit : Nat := 28
def Hng.wardenOk : Nat := 27
def Hng.applying : Nat := 26
def Hng.handover : Nat := 25
def Hng.epochEnd : Nat := 24
def State.unfit (s : State) : Bool := s.flag Reg.hngStatus Hng.unfit
def State.wardenOk (s : State) : Bool := s.flag Reg.hngStatus Hng.wardenOk
def State.claim (s : State) : Nat := s.num Reg.hngClaim

/-- The five generation words (R155). -/
def State.gens (s : State) : List Nat := s.num Reg.blkGen :: (List.range 4).map fun r => s.num (Reg.blkRgen0 + 4 * r)

/-- The revolution of a spindle at its present rate, in ns. -/
def State.turnNs (s : State) (n : Nat) : Nat := 65536000000000 / max 1 (s.sourceRate n)

/-- T_cyc: the period between firings of the cut comparator, in ns. -/
def State.cutCycle (s : State) : Nat :=
  let k := s.comparator (s.cutSpindle % 8) (s.cutComparator % 64)
  if 1 < k.div then s.turnNs (s.cutSpindle % 8) / k.div else s.turnNs (s.cutSpindle % 8) * max 1 k.mult

def State.ckptPeriod (s : State) : Nat := max 1 (s.fld Reg.hngCkptPeriod 7 0)

/-- Cut and generations of the checkpoint whose state stands in place: the stored one, or the one before it while it is being applied. -/
def State.appliedCheckpoint (s : State) : Option (Nat × List Nat) := match s.hinge.stored with
  | some c => if c.applied then some (c.cut, c.gens) else c.prior
  | none => none

/-- R509: the applied checkpoint fits and is not too old. -/
def State.standbyReady (s : State) : Bool := match s.appliedCheckpoint with
  | some (cut, gens) => gens == s.gens && decide (s.now ≤ cut + 16 * s.ckptPeriod * s.cutCycle)
  | none => false

/-- STATE of this unit. -/
def State.unitState (s : State) : Nat :=
  if s.mode = Mode.safe then Unit.safe
  else if s.claim ≠ 0 ∨ s.controlRuns = true then Unit.active
  else if s.mode = Mode.standby then
    if s.hinge.proofRuns then Unit.proof else if s.standbyReady then Unit.ready else Unit.notReady
  else Unit.mount

/-- FLAGS of this unit's heartbeats. -/
def State.unitFlags (s : State) : Nat :=
  ofBool s.hinge.yielding + 2 * ofBool s.unfit + 4 * ofBool s.hinge.revert + 8 * ofBool s.withholds + 16 * ofBool s.wardenOk

/-- The 32 bytes of a heartbeat. -/
def State.heartbeatBytes (s : State) : List Byte :=
  let b := leBytes 1 1 ++ leBytes 1 s.ownUnit ++ leBytes 1 s.unitState ++ leBytes 1 s.unitFlags ++ leBytes 2 s.ownSetid ++
    leBytes 2 s.hinge.hbSeq ++ leBytes 4 s.claim ++ leBytes 4 (s.fld Reg.hngEpoch 23 0) ++ leBytes 4 (s.num Reg.hngCkseq) ++
    leBytes 4 s.hinge.health ++ leBytes 4 (s.num Reg.blkGen)
  b ++ leBytes 4 (crc32 b)

/-- The header of a checkpoint packet (12, "Checkpoint packets"). -/
def State.checkpointHeader (s : State) (ctype flags offset len : Nat) : List Byte :=
  leBytes 1 ctype ++ leBytes 1 flags ++ leBytes 2 s.blk.node ++ leBytes 4 (s.num Reg.hngCkseq) ++ leBytes 4 offset ++ leBytes 2 len ++
    leBytes 2 0 ++ leBytes 4 s.claim ++ List.replicate 12 0#8

/-- A peer's Milio path: its port, when it has one. -/
def State.peerPort (s : State) (p : Nat) : Option Nat := if bit (s.peerPath p) 2 then some (s.peerPath p / 8 % 2) else none

/-- The Hinge exchanges heartbeats: from the Blank commit on. -/
def State.hingeRuns (s : State) : Bool := s.awake && s.chip.blankLoaded && !s.haltedInMount

/-- R496: a heartbeat on every path to every peer. -/
def State.sendHeartbeats (s : State) : State :=
  if !s.hingeRuns then s
  else
    let h := s.hinge
    let s := s.setHinge { h with hbSeq := (h.hbSeq + 1) % 65536, lastSent := s.chip.up, told := (s.unitState, s.claim, s.unitFlags) }
    let b := s.heartbeatBytes
    (([0, 1] : List Nat).filter s.peerUsed).foldl (fun s p =>
      let s := if bit (s.peerPath p) 0 then s.send .heartbeat 0 b else s
      let s := if bit (s.peerPath p) 1 then s.send .heartbeat 1 b else s
      match s.peerPort p with
      | some port => s.milOriginate port 6 (s.peerNode p) false (s.checkpointHeader 4 0 0 32 ++ b)
      | none => s) s

/-- HNG.STATUS and the count of R515 follow, and a change of STATE, CLAIM or FLAGS is told at once (R496). -/
def State.tell (s : State) : State :=
  let s := (s.setFld Reg.hngStatus 31 29 s.unitState).setFlag Reg.hngStatus Hng.handover s.hinge.handover.isSome
  let ok := s.mode == Mode.standby && s.standbyReady && s.wardenOk && !s.unfit
  let h := s.hinge
  let s := s.setHinge (if ok then { h with steady := some (h.steady.getD s.chip.up) } else { h with steady := none, revert := false })
  if s.hinge.told = (s.unitState, s.claim, s.unitFlags) then s else s.sendHeartbeats

/-! ### Claims (R490 to R495) -/

/-- R491 to R493: a new claim, written to the record first; without an epoch left the unit stays a standby. -/
def State.takeClaim (s : State) (takeover : Bool) : State :=
  let e := s.fld Reg.hngEpoch 23 0 + 1
  if 0xFFFFFF < e then
    if s.flag Reg.hngStatus Hng.epochEnd then s else (s.setFlag Reg.hngStatus Hng.epochEnd true).raise 47
  else
    let c := claimOf e s.ownRank s.ownUnit
    let s := s.setFld Reg.hngEpoch 23 0 e
    let r := s.hinge.record
    let s := s.writeHinge { r with claim := c, wasActive := true, epochReset := r.epochReset && !takeover }
    s.setNum Reg.hngClaim c

/-- The part presents its claim no longer, and sends WITHDRAW on its FORWARD channels (R501, R502, R526). -/
def State.withdrawClaim (s : State) : State :=
  let c := s.claim
  if c = 0 then s else (s.latchWithdrawAll c).setNum Reg.hngClaim 0

/-- HNG.COUNTS counts no injected event (R680). -/
def State.countHinge (s : State) (hi lo : Nat) : State := if s.inj.acting.isSome then s else s.bump Reg.hngCounts hi lo 1

/-- R502: a YIELD. -/
def State.yieldClaim (s : State) : State :=
  if s.claim = 0 then s
  else
    let s := (s.withdrawClaim.countHinge 23 16).raise 41
    (s.setHinge { s.hinge with yielding := true }).sendHeartbeats

/-- A proof run stops, and with it the occurrences it still waits for (R517). -/
def State.dropProof (s : State) : State :=
  if s.hinge.proofRuns then { s.setHinge { s.hinge with proofRuns := false } with inj := { s.inj with proofLinks := 0 } } else s

/-- HNG.CMDSTAT of a command that ends. -/
def State.hingeResult (s : State) (code : Nat) : State := s.setNum Reg.hngCmdstat code
def Hng.noPeer : Nat := 0x160
def Hng.tooSlow : Nat := 0x161
def Hng.abandoned : Nat := 0x162
def Hng.notActive : Nat := 0x163
def Hng.proofFailed : Nat := 0x164
def Hng.wrongState : Nat := 0x165

/-- A planned hand-over ends; one that ends with ERR raises source 47 (R512 to R514). -/
def State.endHandover (s : State) (code : Nat) : State := match s.hinge.handover with
  | none => s
  | some h =>
    let s := s.setHinge { s.hinge with handover := none }
    let s := if h.commanded then s.hingeResult code else s
    if code = 0 then s else s.raise 47

end Sys2Proof.Machine
end

