-- ==== Sys2Proof/Machine/Checkpoint.lean ====
section
/-! DEFINITION. Checkpoints (12, "Checkpoints"): the image at a cut, its packets, and their storing and applying at a standby: R504 to R510,
R555, R714. -/
namespace Sys2Proof.Machine

/-! ### The image (R506, R714) -/

def State.items (s : State) : List ImageItem := imageItems s.blk.running s.variant s.hingeBody

/-- TSK state: per program PMODE; per task the number of its next instance, CONSEC, its core, and a pending event. -/
def State.tskImage (s : State) : List Byte :=
  leBytes 64 0 ++ ((List.range s.nprog).flatMap fun p => leBytes 4 (s.num (Reg.tskPmode p)) ++ leBytes 12 0) ++
    (List.range s.ntask).flatMap fun t =>
      leBytes 4 (s.task t).next ++ leBytes 2 (s.fld (Reg.tskTstate t) 15 0) ++ leBytes 1 (s.task t).core ++
        leBytes 1 (ofBool (s.flag (Reg.tskTstate t) 29)) ++ leBytes 8 0

/-- A block's entry of the CLE state. -/
def CleBlock.image (b : CleBlock) : List Byte :=
  ((List.range 5).flatMap fun i => leBytes 4 (unsigned 32 (b.k.getD i 0))) ++
    ((List.range 5).flatMap fun i => leBytes 1 (unsigned 8 (b.s.getD i 0))) ++ leBytes 3 0 ++ leBytes 4 (unsigned 32 b.lo) ++
    leBytes 4 (unsigned 32 b.hi) ++ leBytes 8 (unsigned 64 b.integ) ++ leBytes 4 (unsigned 32 b.x1) ++ leBytes 4 (unsigned 32 b.x2) ++
    leBytes 4 (unsigned 32 b.y1) ++ leBytes 4 (unsigned 32 b.y2) ++ leBytes 4 (unsigned 32 b.prev) ++ leBytes 4 (unsigned 32 b.out) ++
    leBytes 20 0

def State.cleImage (s : State) : List Byte :=
  ((List.range 8).flatMap fun k => leBytes 4 (s.num (Reg.cleLen k))) ++ leBytes 32 0 ++
    (List.range s.nloop).flatMap fun l =>
      ((List.range 4).flatMap fun i => leBytes 4 (s.num (Reg.cleLp l i))) ++ leBytes 16 0 ++
        slice ((s.cleLoop l).blocks.flatMap CleBlock.image ++ leBytes 704 0) 0 704 ++ leBytes 32 0

/-- PRF state: POS, the target, and the flags of R555; a held target stands for the target it replaces. -/
def State.prfImage (s : State) : List Byte :=
  (List.range s.variant.axes).flatMap fun n =>
    let a := s.axis n
    let f := s.num (Reg.prfAstate n)
    leBytes 4 (s.num (Reg.prfPos n)) ++ leBytes 4 (unsigned 32 (a.held.getD a.target)) ++
      leBytes 1 (ofBool (bit f 27) + 2 * ofBool (bit f 28) + 4 * ofBool (bit f 26) + 8 * ofBool a.move.isNone + 16 * ofBool a.held.isSome) ++
      leBytes 23 0

def State.fedImage (s : State) : List Byte :=
  let status := setField (s.reg Reg.fedStatus) 28 28 (ofBool (s.fedRole != 0 && s.substitute s.fedSpindle))
  leBytes 4 status.toNat ++ ((List.range 19).flatMap fun k => leBytes 4 (s.num (Reg.fedStatus + 4 * (k + 1)))) ++ leBytes 48 0 ++
    (List.range s.nchild).flatMap fun c => leBytes 4 (s.num (Reg.fedChild c)) ++ leBytes 4 (s.fed.claims.get c)

/-- ADDR of an item: 0 where it holds block state. -/
def State.itemAddr (s : State) (i : ImageItem) : Nat := match i.what with
  | .memory a => a
  | .task t => s.stateArea t
  | _ => 0

def State.itemData (s : State) (i : ImageItem) : List Byte := match i.what with
  | .memory a => s.bytes a i.len
  | .task t => s.bytes (s.stateArea t) i.len
  | .tsk => s.tskImage
  | .cle => s.cleImage
  | .prf => s.prfImage
  | .fed => s.fedImage

/-- The image without its tail. -/
def State.imageFront (s : State) : List Byte :=
  let items := s.items
  (s.gens.flatMap fun g => leBytes 4 g) ++ leBytes 8 (stampWord s.now) ++ leBytes 4 (imageSize items) ++ leBytes 1 (u8 s.hingeBody 0xB) ++
    leBytes 1 items.length ++ leBytes 30 0 ++
    items.flatMap fun i => leBytes 8 (s.itemAddr i % 2 ^ 40) ++ leBytes 4 i.len ++ leBytes 4 i.kind ++ slice (s.itemData i) 0 i.len

/-! ### Sending (R504, R505, R513) -/

/-- Pieces of at most 2,016 bytes. -/
def packetPieces : Nat → List Byte → List (List Byte)
  | 0, _ => []
  | _ + 1, [] => []
  | n + 1, b :: bs => (b :: bs).take 2016 :: packetPieces n ((b :: bs).drop 2016)

/-- The packets of an image: a HEAD with its 64 bytes, DATA, and a TAIL with its 16. -/
def State.imagePackets (s : State) (final : Bool) (front : List Byte) : List (List Byte) :=
  let h := fun ctype off (d : List Byte) => s.checkpointHeader ctype (ofBool final) off d.length ++ d
  let body := front.drop 64
  let ds := (packetPieces (body.length / 2016 + 1) body).zipIdx
  [h 1 0 (front.take 64)] ++ ds.map (fun d => h 2 (64 + 2016 * d.2) d.1) ++
    [h 3 front.length (leBytes 4 (crc32 front) ++ leBytes 12 0)]

/-- Standbys that are heard and have a Milio path: who receives checkpoints. -/
def State.standbys (s : State) : List Nat :=
  ([0, 1] : List Nat).filter fun p => s.heard p && (s.peerPort p).isSome &&
    (s.peerState p == Unit.ready || s.peerState p == Unit.notReady || s.peerState p == Unit.proof)

/-- A checkpoint is taken: its number is one up, and the frozen image goes to each standby in turn; FINAL to the target of a hand-over. -/
def State.takeCut (s : State) : State :=
  let s := s.setNum Reg.hngCkseq (s.num Reg.hngCkseq + 1)
  let front := s.imageFront
  let target := match s.hinge.handover with
    | some h => if h.final then h.target else 0
    | none => 0
  let ps := s.standbys
  let s := ps.foldl (fun s p =>
    match s.peerPort p with
    | some port => (s.imagePackets (target == p + 1) front).foldl (fun s b => s.milOriginate port 6 (s.peerNode p) false b) s
    | none => s) s
  s.setHinge { s.hinge with cutDue := none, sending := !ps.isEmpty, sendSince := s.chip.up }

/-- A cut is not taken: SKIPS counts it, and source 47 rises. -/
def State.skipCut (s : State) : State := ((s.setHinge { s.hinge with cutDue := none }).countHinge 7 0).raise 47

/-- A fenced region holds an included item (R505). -/
def State.itemFenced (s : State) : Bool :=
  (s.fenced Region.control && (s.hingeIncl 0 || s.hingeIncl 1 || s.hingeIncl 2)) ||
    (s.fenced Region.solve && (s.hingeIncl 3 || s.hingeIncl 4)) ||
    s.items.any fun i => match i.what with
      | .memory a => s.fenced (memRegion a)
      | .task t => s.fenced (memRegion (s.stateArea t))
      | _ => false

/-- Control is quiet for a cut (R141, R504). -/
def State.cutQuiet (s : State) : Bool :=
  (List.range s.ntask).all (fun t => !(s.task t).live) && s.cle.sweep.isNone &&
    (List.range s.nprog).all fun p => s.programMode p != Program.hold

/-- Since the firing CUT_WAIT µs have not passed. -/
def State.cutInTime (s : State) (due : Nat) : Bool := decide (s.chip.up ≤ due + 1000 * s.cutWait)

/-- R504, R505: the cut at a Control quiesce point after its firing. -/
def execCut (s : State) : Reply :=
  match s.hinge.cutDue with
  | none => .next s
  | some due =>
    if !(s.controlRuns && s.cutInTime due && s.cutQuiet) then .next s
    else if s.hinge.sending || s.itemFenced then .next s.skipCut
    else .next s.takeCut

/-- R504: CUT_WAIT passes without a quiesce point; time passes up to then. -/
def execCutSkipped (s : State) : Reply :=
  match s.hinge.cutDue with
  | none => .next s
  | some due => .next ((s.elapse ((due + 1000 * s.cutWait - s.chip.up + 3) / 4)).skipCut)

/-- R505, R512: the last packet has left; how long the transfer took is kept. -/
def execCheckpointSent (s : State) : Reply :=
  .next (if s.hinge.sending then s.setHinge { s.hinge with sending := false, transfer := s.chip.up - s.hinge.sendSince } else s)

/-! ### Storing (R155, R507) -/

/-- Where a half of CKBUF begins. -/
def State.ckHalf (s : State) (h : Nat) : Nat := s.ckbuf + h * (s.ckmax + 64)

/-- The claim of the ACTIVE peer that is heard. -/
def State.activeClaim (s : State) : Option Nat :=
  (([0, 1] : List Nat).find? fun p => s.heard p && s.peerState p == Unit.active).map fun p => s.num (Reg.hngPclaim p)

/-- The image coming in is discarded. -/
def State.discardCheckpoint (s : State) : State := (s.setHinge { s.hinge with incoming := none }).raise 47

/-- Device time of a kind 0 word near now, in ns. -/
def State.stampNs (s : State) (w : Nat) : Nat := ((s.now : Int) + s.deadlineLeft w).toNat

/-- R514: a firing of the cut comparator fell between a cut and now, as far as the spindle's rate tells. -/
def State.firedSince (s : State) (cut : Nat) : Bool :=
  let n := s.cutSpindle % 8
  let moved := (s.now - cut) * s.sourceRate n * 65536 / 1000000000
  let k := s.comparator n (s.cutComparator % 64)
  decide (k.next ((s.spin n).travel - moved) ≤ (s.spin n).travel)

/-- R507: the image is complete; it is stored, or discarded. -/
def State.storeCheckpoint (s : State) (i : CheckpointIn) (tail : List Byte) : State :=
  let base := s.ckHalf i.half
  let front := s.bytes base i.got
  let gens := (List.range 5).map fun k => u32 front (4 * k)
  let newer := match s.hinge.stored with
    | some c => i.seq != c.seq && seqNewer 32 i.seq c.seq
    | none => true
  if i.got + 16 ≠ i.len ∨ crc32 front ≠ u32 tail 0 then s.discardCheckpoint
  else if gens ≠ s.gens then (s.discardCheckpoint.bump Reg.blkCkptDiscard 31 0 1).raise 20
  else if newer = false ∨ s.activeClaim ≠ some i.claim then s.discardCheckpoint
  else
    let cut := s.stampNs (u64 front 20)
    let s := s.engineWrite (engineWho Init.hinge) (base + i.got) tail
    let n := s.cutSpindle % 8
    let c := s.cutComparator % 64
    let s := { s with spn := { s.spn with due := s.spn.due.filter fun e => !(e.spindle == n && e.cmp % 64 == c) } }
    let held : CheckpointHeld := { seq := i.seq, final := i.final && !s.firedSince cut, half := i.half, len := i.len, cut := cut, gens := gens,
                                   applied := false, since := s.chip.up, prior := s.appliedCheckpoint }
    ((s.setHinge { s.hinge with incoming := none, stored := some held }).setFlag Reg.hngStatus Hng.applying true).tell

/-- A checkpoint packet reaches a standby (R507). -/
def State.receiveCheckpoint (s : State) (b : List Byte) : State :=
  let ctype := u8 b 0
  let seq := u32 b 4
  let off := u32 b 8
  let n := u16 b 0xC
  let d := slice b 32 n
  let known := ([0, 1] : List Nat).any fun p => s.peerUsed p && (s.peerPort p).isSome && s.peerNode p % 2 ^ 14 == u16 b 2 % 2 ^ 14
  if !(s.mode == Mode.standby && s.hasHinge && known && d.length == n) then s
  else if ctype = 1 then
    let s := if s.hinge.incoming.isSome then s.discardCheckpoint else s
    let half := match s.hinge.stored with
      | some c => 1 - c.half
      | none => 0
    let len := u32 d 28
    if off ≠ 0 ∨ n ≠ 64 ∨ s.ckmax < len then s.discardCheckpoint
    else
      (s.engineWrite (engineWho Init.hinge) (s.ckHalf half) d).setHinge { s.hinge with
        incoming := some { seq := seq, final := bit (u8 b 1) 0, claim := u32 b 0x10, half := half, got := 64, len := len } }
  else
    match s.hinge.incoming with
    | none => s
    | some i =>
      if seq ≠ i.seq ∨ off ≠ i.got ∨ i.len < i.got + n then s.discardCheckpoint
      else if ctype = 2 then
        (s.engineWrite (engineWho Init.hinge) (s.ckHalf i.half + off) d).setHinge { s.hinge with incoming := some { i with got := i.got + n } }
      else if ctype = 3 then s.storeCheckpoint i d
      else s

/-- R507: a packet of a checkpoint. -/
def execCheckpointPacket (frame : List Byte) (s : State) : Reply := .next (s.receiveCheckpoint frame)

/-! ### Applying (R508, R555) -/

def State.applyTsk (s : State) (b : List Byte) : State :=
  let s := (List.range s.nprog).foldl (fun s p => s.setNum (Reg.tskPmode p) (u32 b (64 + 16 * p))) s
  let base := 64 + 16 * s.nprog
  (List.range s.ntask).foldl (fun s t =>
    let o := base + 16 * t
    let s := s.setTask t { s.task t with next := u32 b o, core := u8 b (o + 6) % 8, live := false, started := false, outputs := none }
    ((s.setFld (Reg.tskTstate t) 15 0 (u16 b (o + 4))).setFlag (Reg.tskTstate t) 29 (bit (u8 b (o + 7)) 0)).showTask t) s

/-- A block of the CLE state. -/
def CleBlock.ofImage (b : List Byte) (o n m : Nat) : CleBlock :=
  let w := fun k => signed 32 (u32 b (o + k))
  { k := (List.range n).map fun i => w (4 * i), s := (List.range m).map fun i => i8 b (o + 20 + i), lo := w 28, hi := w 32,
    integ := signed 64 (u64 b (o + 36)), x1 := w 44, x2 := w 48, y1 := w 52, y2 := w 56, prev := w 60, out := w 64 }

def State.applyCle (s : State) (b : List Byte) : State :=
  let s := (List.range 8).foldl (fun s k => s.setNum (Reg.cleLen k) (u32 b (4 * k))) s
  (List.range s.nloop).foldl (fun s l =>
    let o := 64 + 768 * l
    let s := (List.range 4).foldl (fun s i => s.setNum (Reg.cleLp l i) (u32 b (o + 4 * i))) s
    let loop := s.cleLoop l
    s.setCleLoop l { loop with blocks := (loop.blocks.zipIdx).map fun q => CleBlock.ofImage b (o + 32 + 88 * q.2) q.1.k.length q.1.s.length }) s

def State.applyPrf (s : State) (b : List Byte) : State :=
  (List.range s.variant.axes).foldl (fun s n =>
    let o := 32 * n
    let f := u8 b (o + 8)
    if s.axisUsed n then
      (s.restoreAxis n (signed 32 (u32 b o)) (signed 32 (u32 b (o + 4))) (bit f 0) (bit f 1) (bit f 2) (bit f 3)).setNum
        (Reg.prfTgt n) (u32 b (o + 4))
    else s) s

/-- The federation registers but the counters, which keep the standby's own values, and the claims of the children. -/
def State.applyFed (s : State) (b : List Byte) : State :=
  let s := (List.range 14).foldl (fun s k => s.setNum (Reg.fedStatus + 4 * k) (u32 b (4 * k))) s
  (List.range s.nchild).foldl (fun s c =>
    let o := 128 + 8 * c
    let s := s.setNum (Reg.fedChild c) (u32 b o)
    { s with fed := { s.fed with claims := s.fed.claims.set c (u32 b (o + 4)) } }) s

/-- An item goes into its place: memory to the ADDR it carries. -/
def State.applyItem (s : State) (i : ImageItem) (addr : Nat) (d : List Byte) : State := match i.what with
  | .memory _ => s.engineWrite (engineWho Init.hinge) addr d
  | .task _ => s.engineWrite (engineWho Init.hinge) addr d
  | .tsk => s.applyTsk d
  | .cle => s.applyCle d
  | .prf => s.applyPrf d
  | .fed => s.applyFed d

/-- Every item of an image, from an offset on. -/
def State.applyItems (base : Nat) : List ImageItem → Nat → State → State
  | [], _, s => s
  | i :: r, off, s =>
    let a := s.mem64 (base + off) % 2 ^ 40
    State.applyItems base r (off + 16 + i.len) (s.applyItem i a (s.bytes (base + off + 16) i.len))

/-- The stored checkpoint is applied into place. -/
def State.applyStored (s : State) (c : CheckpointHeld) : State :=
  let s := State.applyItems (s.ckHalf c.half) s.items 64 s
  let s := s.setHinge { s.hinge with stored := some { c with applied := true, prior := none } }
  (s.setFlag Reg.hngStatus Hng.applying false).setNum Reg.hngCkseq c.seq

/-- An apply in progress ends, at 32 GB/s from the storing on; time passes up to then. -/
def State.finishApply (s : State) : State := match s.hinge.stored with
  | some c => if c.applied then s else (s.elapse ((c.since + c.len / 32 - s.chip.up + 3) / 4)).applyStored c
  | none => s

/-- R508, R509: the apply ends, and readiness follows. -/
def execCheckpointApply (s : State) : Reply :=
  .next (if s.mode == Mode.standby && s.flag Reg.hngStatus Hng.applying then s.finishApply.tell else s)

/-- R509: the applied state grows too old; time passes up to then. -/
def execCheckpointStale (s : State) : Reply :=
  match s.appliedCheckpoint with
  | some (cut, gens) =>
    if s.mode == Mode.standby && gens == s.gens then
      let limit := cut + 16 * s.ckptPeriod * s.cutCycle
      .next ((s.elapse (((limit + 1 - s.now) * 2 ^ 32 + s.incr - 1) / s.incr)).tell)
    else .next s
  | none => .next s

/-- HNG.CKAGE: µs since the cut of the applied state, all ones where there is none. -/
def State.checkpointAge (s : State) : Nat := match s.appliedCheckpoint with
  | some (cut, _) => min 0xFFFFFFFF ((s.now - cut) / 1000)
  | none => 0xFFFFFFFF

end Sys2Proof.Machine
end

