-- ==== Sys2Proof/Machine/Power.lean ====
section
/-! DEFINITION. The core-supply controller and the monitors that change no mode (02): R70 to R77, R83 to R85. -/
namespace Sys2Proof.Machine

/-- The VCORE goal: the highest region request plus 20 mV, within 0.60 V to 0.90 V and the limits of STRUCT (R70); the
boot voltage of 0.80 V until AVS has control (R69). -/
def State.vcoreGoal (s : State) : Nat :=
  if s.pwr.avsControl then
    let top := (List.range 5).foldl (fun m r => max m (s.pwr.requests.get r)) 0
    clampNat (max 600 (min 900 (u16 s.keepStruct 4))) (min 900 (u16 s.keepStruct 6)) (top + 20)
  else 800

/-- The voltage of region `r`: VCORE less its trim stage's 0 mV to 100 mV, as near to its own request as the stage reaches; Keep takes VCORE
untrimmed (R71). -/
def State.regionVoltage (s : State) (r : Nat) : Nat :=
  let v := s.fld Reg.pmuVcore 9 0
  if r = Region.keep ∨ s.pwr.avsControl = false then v else v - min 100 (v - s.pwr.requests.get r)

/-- One ramp step of at most 5 mV (R72). -/
def rampToward (now goal : Nat) : Nat := if now < goal then min goal (now + 5) else max goal (now - 5)

/-- R72: the target moves at most 5 mV toward the goal; MEASURED is the remote sense. -/
def execVcoreRampStep (measured : Nat) (s : State) : Reply :=
  .next ((s.setFld Reg.pmuVcore 9 0 (rampToward (s.fld Reg.pmuVcore 9 0) s.vcoreGoal)).setFld Reg.pmuVcore 25 16 measured)

/-- The lowest of four phases set in a mask. -/
def lowestPhase (m : Nat) : Nat := if bit m 0 then 1 else if bit m 1 then 2 else if bit m 2 then 4 else if bit m 3 then 8 else 0

/-- The phases that the controller may use: those enabled and not disabled under R73 (R74). -/
def State.usablePhases (s : State) : Nat := s.fld Reg.pmuPhases 3 0 &&& (15 ^^^ s.fld Reg.pmuPhases 11 8)

/-- The phases that carry the load: the usable ones that are not shed. -/
def State.phasesOn (s : State) : Nat := s.usablePhases &&& (15 ^^^ s.pwr.shed % 16)

/-- R73: the phase is disabled and reported, and source 12 rises. The remaining phases carry the load: where they were shed, one is restored. -/
def execPhaseFault (phase : Nat) (s : State) : Reply :=
  if phase < 4 ∧ bit (s.fld Reg.pmuPhases 3 0) phase then
    let s := (s.setFlag Reg.pmuPhases (8 + phase) true).raise 12
    .next (if s.phasesOn = 0 then { s with pwr := { s.pwr with shed := s.usablePhases ^^^ lowestPhase s.usablePhases } } else s)
  else .next s

/-- R74: below 3 A of total load phases are shed, above 5 A they are restored, unless all enabled phases are fixed on.
That one phase is left on when shed is a DESIGN CHOICE (log entry 16). -/
def execPhaseShed (loadMa powerMw : Nat) (s : State) : Reply :=
  let s := (s.setFld Reg.pmuIcore 15 0 (min 0xFFFF loadMa)).setFld Reg.pmuIcore 31 16 (min 0xFFFF powerMw)
  let usable := s.usablePhases
  let fixed := s.flag Reg.pmuPhases 4
  let shed :=
    if fixed then 0
    else if loadMa < 3000 then usable ^^^ lowestPhase usable
    else if 5000 < loadMa then 0
    else s.pwr.shed
  .next { s with pwr := { s.pwr with shed := shed } }

/-- The rails a variant has: VSERDES not on the EV4801, the LPDDR5 rails only with DDR (02, supplies). -/
def Variant.hasRail (v : Variant) (rail : Nat) : Bool := if rail = 0 then decide (0 < v.lanes) else rail ≤ 3 && v.hasDdr

/-- R75: an external rail out of its window fences the Link region; source 10 rises. -/
def execRailFault (rail : Nat) (s : State) : Reply :=
  if s.variant.hasRail rail then
    .next (((s.setFlag Reg.pmuRails rail false).raise 10).fence 3 0x1A none false)
  else .next s

/-- R75: a rail is back in its window; the region stays fenced until it is re-admitted (R44). -/
def execRailRecovered (rail : Nat) (s : State) : Reply :=
  if s.variant.hasRail rail then .next (s.setFlag Reg.pmuRails rail true) else .next s

/-- R76: VANA_CLASS follows VANA; metrology continues. -/
def execVanaClassChange (good : Bool) (s : State) : Reply := .next (s.setVanaClass good)

/-- VBAT below 2.20 V for 1 s sets LOW and raises source 13 (the monitor table). -/
def execBatLow (mv : Nat) (s : State) : Reply :=
  .next (((s.setFld Reg.pmuBatstat 27 16 mv).setFlag Reg.pmuBatstat 1 true).raise 13)

/-- Storage in a domain fails from the top word down (02): the words of a domain that lost its supply are undefined;
the canaries become free values. -/
def State.loseBattery (s : State) : State :=
  let (s, a) := s.free
  let (s, b) := s.free
  let (s, c) := s.free
  let (s, d) := s.free
  { s with pwr := { s.pwr with bkLow := a, bkHigh := b, bmLow := c, bmHigh := d } }

/-- R85: VBAT below 1.55 V; a domain that draws from VBAT is no longer guaranteed its contents. -/
def execBatteryLost (s : State) : Reply :=
  let s := s.setFlag Reg.pmuBatstat 0 false
  .next (if s.pwr.onBattery then s.loseBattery else s)

/-- R85 and the monitor table: at 1.55 V BATTERY is set again, at 2.30 V LOW clears. -/
def execVbatRecovered (mv : Nat) (s : State) : Reply :=
  let s := s.setFld Reg.pmuBatstat 27 16 mv
  let s := if 1550 ≤ mv then s.setFlag Reg.pmuBatstat 0 true else s
  .next (if 2300 < mv then s.setFlag Reg.pmuBatstat 1 false else s)

end Sys2Proof.Machine
end

