-- ==== Sys2Proof/Machine/Modes.lean ====
section
/-! DEFINITION. Resets, the chip decision, entry to SAFE and STANDBY, and the monitors that bring them about (01, 02, 18): R36 to R46, R75,
R83, R91 to R105, R668, R677. -/
namespace Sys2Proof.Machine

/-! ### Resets (R91 to R95, R110) -/

def Cause.por : Nat := 0
def Cause.brownout : Nat := 1
def Cause.pin : Nat := 2
def Cause.wdtWarden : Nat := 3
def Cause.wdtKeeper : Nat := 4
def Cause.hinge : Nat := 5
def Cause.chip : Nat := 6
def Cause.soft : Nat := 7

/-- An address of the MRAM, whose contents a reset keeps (R93). -/
def inMram (a : Nat) : Bool := decide (Addr.mram ≤ a) && decide (a < Addr.mram + 0x1000000)

/-- R653: a write of the provisioning record takes up to 50 µs; whether a reset within them tears it is a free value. -/
def State.tearRecord (s : State) : State := match s.key.writing with
  | some (c, t) =>
    if s.chip.ran < t + 50000 * 2 ^ 32 then
      let (s, w) := s.free
      if bit w.toNat 0 then { s with key := { s.key with copies := s.key.copies.set c none } } else s
    else s
  | none => s

/-- The part with what loss of power or a reset leaves: MRAM, the BK and BM domains, the PUF helper data, and what the board shows (R93). The
provisioning record and the helper data stand in MRAM. A journal write in progress is torn (R81), and so may one of the provisioning record be
(R653). -/
def State.kept (s : State) : State :=
  let s := s.tearWrite.tearRecord
  let b := State.powerUp s.variant
  { b with
    pending := s.pending
    mem := s.mem.filter fun c => inMram c.1
    poison := s.poison.filter inMram
    ddrGen := s.ddrGen + 1
    freeCounter := s.freeCounter
    flt := { b.flt with nextSeq := match s.logNewest with
      | some q => (q + 1) % 2 ^ 32
      | none => 0 }
    bus := s.bus
    pwr := { (default : PowerState) with
      bkLow := s.pwr.bkLow, bkHigh := s.pwr.bkHigh, bmLow := s.pwr.bmLow, bmHigh := s.pwr.bmHigh, onBattery := s.pwr.onBattery }
    key := { (default : KeyState) with enrolled := s.key.enrolled, copies := s.key.copies, draws := s.key.draws }
    rtc := { (default : RtcState) with
      valid := s.rtc.valid, cellSec := s.rtc.cellSec, cellTick := s.rtc.cellTick, trimAcc := s.rtc.trimAcc, trim := s.rtc.trim,
      phase := s.rtc.phase }
    met := { (default : MetState) with bm := s.met.bm, battery := s.met.battery, fell := s.met.fell }
    pin := { s.pin with irqHeld := none }
    outbox := s.outbox
    regs := ((b.regs.set Reg.pmuRails (s.reg Reg.pmuRails)).set Reg.rtcTrim (s.reg Reg.rtcTrim)).set Reg.pmuBatstat
      (BitVec.ofNat 32 (s.num Reg.pmuBatstat % 2 ^ 28 / 2 ^ 16 * 2 ^ 16 + s.num Reg.pmuBatstat % 4)) }

/-- Consecutive CHIP resets, each within 10 s of the reset release before (R95); injected events are left out (R680). -/
def State.chipStreak (s : State) (cause : Nat) (injected : Bool) : Nat :=
  if cause ≠ Cause.chip then 0
  else if injected then s.fld Reg.sysBoot 23 16
  else
    let settled := (s.mode == Mode.standby || s.controlRuns) && decide (s.chip.modeSince + 10000000000 ≤ s.chip.up)
    if settled ∨ 10000000000 < s.chip.up then 0 else min 255 (s.fld Reg.sysBoot 23 16 + 1)

/-- R91: a reset takes the part to MOUNT and records its cause. -/
def State.resetPart (s : State) (cause : Nat) (injected : Bool) : State :=
  let causes := if cause = Cause.por then 1 else setBit (s.fld Reg.sysRstcause 7 0) cause
  let streak := s.chipStreak cause injected
  let prev := if s.mode = Mode.mount then s.fld Reg.sysMode 7 4 else s.mode
  let r := (s.kept.setNum Reg.sysRstcause causes).setFld Reg.sysBoot 23 16 streak
  let r := r.setNum Reg.sysMode (prev * 16 + Mode.mount)
  if s.mode = Mode.mount then r else r.raise 15

/-- R92: an active part yields first, and the reset follows 1 µs later. -/
def State.resetAfterYield (s : State) (cause : Nat) (injected : Bool) : State :=
  if !s.awake then s
  else if s.claim = 0 ∨ cause < Cause.wdtWarden then s.resetPart cause injected
  else (s.yieldClaim.elapse 250).resetPart cause injected

/-! ### Entry to SAFE and STANDBY -/

/-- LPDDR5 enters or leaves self-refresh (R56). -/
def State.selfRefresh (s : State) (v : Bool) : State :=
  if s.flag Reg.ddrStatus 31 && s.flag Reg.ddrStatus 29 != v then (s.setFlag Reg.ddrStatus 29 v).raise 461 else s

/-- The Hinge's checkpoints and hand-over end with the role. -/
def State.leaveRole (s : State) : State :=
  let s := (s.endHandover Hng.abandoned).dropProof
  s.setHinge { s.hinge with incoming := none, stored := none, cutDue := none, sending := false, cutCount := 0, yielding := false,
                            yielded := false, listen := s.chip.up }

/-- R99 to R101, R103, R150, R252, R308, R526, R549, R682: entry to SAFE. -/
def State.enterSafe (s : State) : State :=
  if s.mode = Mode.safe ∨ s.awake = false then s
  else
    let s := s.withdrawClaim.storeLastGood
    let s := (s.setMode Mode.safe).leaveRole
    let s := s.discardAllPatches.abandonInjection.cancelLathes
    let s := (List.range s.nprog).foldl (fun s p => if s.programMode p = Program.stop then s else s.stopProgram p) s
    let s := s.gateTasks.gateAxes.cleGate.selfRefresh false
    let s := (List.range 64).foldl (fun s c => if s.latchUsed c then s.latchToSafe c Lat.safe else s) s
    (s.setFlag Reg.hngStatus Hng.applying false).tell

/-- R97, R103, R150, R256, R308, R549, R682: entry to STANDBY from RUN or HOLD. -/
def State.enterStandby (s : State) : State :=
  if !s.controlRuns then s
  else
    let s := s.withdrawClaim.adpStandby
    let s := (s.setMode Mode.standby).leaveRole
    let s := s.discardAllPatches.abandonInjection.cancelLathes
    let s := s.gateTasks.gateAxes.cleGate.selfRefresh true
    s.tell

/-! ### The chip decision (R39, R40, R43, R674, R677) -/

/-- The detectors whose chip-level events reset the part, with their causes (R677). -/
def resetCause (det : Nat) : Option Nat :=
  if det = 0x13 then some Cause.wdtWarden
  else if det = 0x14 then some Cause.wdtKeeper
  else if det = 0x15 then some Cause.hinge
  else if det = 0x17 then some Cause.chip
  else if det = 0x19 then some Cause.brownout
  else none

/-- The action R677 decides on for a detector. -/
def State.chipAction (s : State) (det : Nat) : Nat :=
  if (resetCause det).isSome ∨ s.mode = Mode.safe ∨ s.mode = Mode.mount then Act.reset
  else if s.claim ≠ 0 ∧ s.anyFit = true then Act.handover
  else Act.safe

/-- The event that decides: the first of a detector that resets, else the first. -/
def leadEvent (es : List ChipEvent) : Option ChipEvent :=
  match es.find? fun e => (resetCause e.det).isSome with
  | some e => some e
  | none => es.head?

/-- Fences of one decision are one chip-level event (R43): all but the first leave no record. -/
def oneFence : Bool → List ChipEvent → List ChipEvent
  | _, [] => []
  | seen, e :: es =>
    if e.parent.isSome then (if seen then oneFence true es else e :: oneFence true es) else e :: oneFence seen es

/-- The chip level decides on its events: their records first (R674), then the action. -/
def State.decideChip (s : State) (es : List ChipEvent) : State :=
  let s : State := { s with chip := { s.chip with events := [] } }
  match leadEvent es with
  | none => s
  | some lead =>
    if !s.awake then s
    else
      let act := s.chipAction lead.det
      let s := (oneFence false es).foldl (fun s e =>
        s.chipRecord { det := e.det, level := 4, loc := location 0xF 0xFF 0, action := act, parent := e.parent, injected := e.injected }) s
      if act = Act.reset then s.resetAfterYield ((resetCause lead.det).getD Cause.chip) lead.injected
      else if act = Act.handover then s.yieldClaim.enterSafe
      else s.enterSafe

/-- A chip-level detector fires: its event joins the ones that wait, and the chip level decides. -/
def State.chipEvent (s : State) (det : Nat) (injected : Bool) : State :=
  let injected := injected || s.inj.acting.isSome
  let s := if s.awake then s.countEvent { det := det, level := 4, loc := 0, injected := injected } else s
  s.decideChip (s.chip.events ++ [{ det := det, parent := none, injected := injected }])

/-- R677: the decision on the events that wait, with one more where a detector is named. -/
def execChipLevelEvent (det : Nat) (s : State) : Reply :=
  .next (if det = 0 then s.decideChip s.chip.events else s.chipEvent det false)

/-! ### Monitors and reset sources -/

/-- R83, R86, R105, R113: the battery domains go over to VBAT, and everything else loses power. BM_EN holds until reset, and BM measures with the
METRO section it had. -/
def execVaonFall (s : State) : Reply :=
  if !s.awake then .next s
  else
    let r := s.kept
    let r := { r with met := { r.met with fell := some s.rtc.cellSec } }
    let r := { r with pwr := { r.pwr with onBattery := true } }.setNum Reg.sysMode (s.mode * 16)
    let r := (r.setNum Reg.sysRstcause (s.fld Reg.sysRstcause 7 0)).setNum Reg.pmuBatctl (s.num Reg.pmuBatctl)
    let r := { r with blk := { r.blk with running := s.blk.running.filter fun x => x.type == Ty.metro } }
    .next (if r.flag Reg.pmuBatstat 0 then r else r.loseBattery)

/-- R91, R83: power returns after VIGIL. -/
def execPowerOnReset (s : State) : Reply :=
  if s.awake then .next s
  else
    let r := s.resetPart Cause.por false
    .next { r with pwr := { r.pwr with onBattery := false } }

/-- R91, R668: VCORE below 0.55 V. -/
def execBrownout (s : State) : Reply := .next (s.chipEvent 0x19 false)

/-- R91: RESET_N low. Under 200 ns nothing happens; from 1 µs on the part resets; between, the spec does not say. -/
def execResetPin (ns : Nat) (s : State) : Reply :=
  .next (if s.awake && (decide (1000 ≤ ns) || (decide (200 ≤ ns) && Config.shortReset ns)) then s.resetPart Cause.pin false else s)

/-- R91, R668: the Warden watchdog. -/
def execWdtWarden (s : State) : Reply := .next (s.chipEvent 0x13 false)

/-- R91, R668: the Keeper watchdog. -/
def execWdtKeeper (s : State) : Reply := .next (s.chipEvent 0x14 false)

/-- R498: 3 HB_PERIOD without a write of HNG.HEALTH, from the Blank commit on; time passes up to then. -/
def execWardenHealthTimeout (s : State) : Reply :=
  if !s.hingeRuns then .next s
  else
    let s := s.elapse ((s.hinge.lastHealth + s.hb3 - s.chip.up + 3) / 4)
    .next (((s.setFlag Reg.hngStatus Hng.wardenOk false).tell).chipEvent 0x15 false)

/-- R94: a write of SYS.RESET. -/
def execSoftReset (who : Who) (value : Word) (s : State) : Reply :=
  .next (s.gated who Reg.sysReset value fun s => s.resetAfterYield Cause.soft false)

/-- R494, R662: the reset 1 ms after an epoch reset or a lifecycle transition. -/
def execDelayedSoftReset (s : State) : Reply :=
  .next (
    if s.chip.delayedReset then
      (s.elapse (s.ticksUntil (s.chip.delayedFrom + 1000000 * 2 ^ 32))).resetAfterYield Cause.soft false
    else s)

/-- R102: a write of SYS.SAFE_REQ. In MOUNT there is no transition to SAFE on request. -/
def execSafeReq (who : Who) (value : Word) (s : State) : Reply :=
  .next (s.gated who Reg.sysSafeReq value fun s =>
    if bit value.toNat 0 && (s.controlRuns || s.mode == Mode.standby) then s.enterSafe else s)

/-- R677, the monitor table: VCORE below its target less 50 mV. -/
def execVcoreUnder (s : State) : Reply := .next ((s.raise 11).chipEvent 0x18 false)

/-- R668: above 125 °C for 1 ms. -/
def execTempCrit (s : State) : Reply := .next (s.chipEvent 0x1C false)

/-- A region-level event fences its region; one of Keep is a chip-level event (R38). -/
def State.regionFails (s : State) (region det : Nat) : State :=
  if region < 4 then s.fence region det none false else s.chipEvent det false

/-- R668: the clock monitor of a region, or of the system clock. -/
def execClockMonitorFault (region : Nat) (s : State) : Reply :=
  .next (if region < 4 then s.fence region 0x16 none false else s.chipEvent 0x17 false)

/-- R668: a negative margin; DFS lowers the clock of Control or Sense at once, and 10 ms of it fence the region. -/
def execTimingMarginFault (region : Nat) (lasting : Bool) (s : State) : Reply :=
  if lasting then .next (s.regionFails region 0x1D)
  else
    let s := s.detected { det := 0x1D, level := 3, loc := location region 0xFF 0, action := Act.none }
    let lower := fun (s : State) (i : Nat) => s.setFld (State.dfsReg i) 10 0 (max (s.dfsMin i) (s.fld (State.dfsReg i) 10 0 - 100))
    .next (if !s.loopActs Loop.dfs then s else if region = Region.control then lower s 0 else if region = Region.sense then lower s 1 else s)

end Sys2Proof.Machine
end

