-- ==== Sys2Proof/Machine/HingeRx.lean ====
section
/-! DEFINITION. What the Hinge hears and does by itself (12): heartbeats, the loss of a peer, deposition, takeover, hand-over, Latch status
frames: R491, R496 to R503, R512 to R515, R715. -/
namespace Sys2Proof.Machine

/-! ### Heartbeats (R496 to R498) -/

/-- R496: HB_PERIOD after the last one; time passes up to then. -/
def execHeartbeatSend (s : State) : Reply :=
  .next (if s.hingeRuns then (s.elapse ((s.hinge.lastSent + s.hbPeriod - s.chip.up + 3) / 4)).sendHeartbeats else s)

/-- R498: the Warden reports its health. -/
def execHealthWrite (who : Who) (value : Word) (s : State) : Reply :=
  .next (s.gated who Reg.hngHealth value fun s =>
    ((s.setHinge { s.hinge with health := value.toNat, lastHealth := s.chip.up }).setFlag Reg.hngStatus Hng.wardenOk true).tell)

/-- The role ends: from RUN or HOLD into STANDBY; in MOUNT the part mounts as a standby. -/
def State.loseRole (s : State) : State :=
  if s.controlRuns then s.enterStandby
  else { s.withdrawClaim with chip := { s.chip with roleActive := false } }.tell

/-- R501: the unit is deposed. -/
def State.depose (s : State) : State := (s.loseRole).raise 46

/-- The peer that the final hand-over in progress goes to (R513). -/
def State.handoverTo (s : State) (p : Nat) : Bool := match s.hinge.handover with
  | some h => h.final && h.target == p + 1
  | none => false

/-- What a heartbeat tells is kept, with the path and the time it came (R497). -/
def State.noteHeartbeat (s : State) (p : Nat) (lvds : Bool) (b : List Byte) : State :=
  let x := s.peer p
  let st := u8 b 2 % 8
  let f := u8 b 3
  let s := s.setPeer p { x with
    lvds := if lvds then some s.chip.up else x.lvds, milio := if lvds then x.milio else some s.chip.up, flags := f, seq := u16 b 6,
    epoch := u32 b 0xC % 2 ^ 24, health := u32 b 0x14, gen := u32 b 0x18, ready := if st = Unit.proof then x.ready else st }
  let w := (s.fld (Reg.hngPeer p) 31 31) * 2 ^ 31 + 2 ^ 30 + st * 2 ^ 27 + f / 2 % 2 * 2 ^ 26 + f / 16 % 2 * 2 ^ 25 + f / 4 % 2 * 2 ^ 24 +
    s.num (Reg.hngPeer p) % 2 ^ 24 / 2 ^ 16 * 2 ^ 16
  ((s.setNum (Reg.hngPeer p) w).setNum (Reg.hngPclaim p) (u32 b 8)).setNum (Reg.hngPckseq p) (u32 b 0x10)

/-- A planned hand-over is wanted (R512). -/
def State.wantHandover (s : State) (unit : Nat) (commanded : Bool) : State := match s.hinge.handover with
  | some h => s.setHinge { s.hinge with handover := some (if commanded then { h with commanded := true, unit := if h.final then h.unit else unit } else h) }
  | none => s.setHinge { s.hinge with handover := some { unit := unit, commanded := commanded, final := false, target := 0 } }

/-- A good heartbeat of a peer. -/
def State.takeHeartbeat (s : State) (p : Nat) (lvds : Bool) (b : List Byte) : State :=
  let wasUnfit := s.peerUnfit p
  let s := (s.noteHeartbeat p lvds b).knowEpoch (u32 b 0xC % 2 ^ 24)
  let s := if s.peerUnfit p && !wasUnfit then s.raise 43 else s
  let active := u8 b 2 == Unit.active
  let s := if active then
      (if bit (u8 b 3) 0 then s.setHinge { s.hinge with yielded := true }
       else s.setHinge { s.hinge with active := some s.chip.up, yielded := false })
    else s
  let claim := u32 b 8
  if decide (s.claim ≠ 0) && decide (s.claim < claim) && !s.disregards (epochOf claim) then
    if active && s.handoverTo p then (s.endHandover 0).loseRole else s.depose
  else
    let s := if s.controlRuns && decide (s.claim ≠ 0) && bit (u8 b 3) 2 then s.wantHandover (s.peerUnit p) false else s
    s.tell

/-- The path bit of a link: LVDS A and B, then the Milio ports. -/
def State.peerOnLink (s : State) (p link : Nat) : Bool :=
  if link < 2 then bit (s.peerPath p) link else s.peerPort p == some (link - 2)

/-- R497: a heartbeat frame arrives on link 0 or 1, LVDS A or B, or on Milio port link − 2. -/
def State.receiveHeartbeat (s : State) (link : Nat) (b : List Byte) : State :=
  let good := b.length == 32 && u8 b 0 == 1 && u32 b 0x1C == crc32 (slice b 0 0x1C) && u16 b 4 % 2 ^ 14 == s.ownSetid
  if !(s.hingeRuns && good) then s
  else
    match ([0, 1] : List Nat).find? fun p => s.peerUsed p && s.peerUnit p == u8 b 1 && s.peerOnLink p link with
    | none => s
    | some p => s.takeHeartbeat p (decide (link < 2)) b

def execHeartbeat (link : Nat) (frame : List Byte) (s : State) : Reply := .next (s.receiveHeartbeat link frame)

/-- A peer is lost (R497). -/
def State.losePeer (s : State) (p : Nat) : State :=
  (((((s.setFlag (Reg.hngPeer p) 30 false).countHinge 15 8).blockEvent 0x2C 6 p Act.none 0 p)).raise 42).tell

/-- R497: 3 heartbeat periods pass without a heartbeat of a peer that was heard; time passes up to then. -/
def execPeerLost (peer : Nat) (s : State) : Reply :=
  let p := peer % 2
  if !(s.peerUsed p && s.flag (Reg.hngPeer p) 30 && s.hingeRuns) then .next s
  else
    let last := max ((s.peer p).lvds.getD 0) ((s.peer p).milio.getD 0)
    .next ((s.elapse ((last + s.hb3 - s.chip.up + 3) / 4)).losePeer p)

/-! ### Latch status frames (R715) -/

/-- A status frame's CAN identifier or Milio tag is that of an input, FWD or FWD2 of a channel of the part's own LATCH section. -/
def State.statusKnown (s : State) (i : FrameInput) : Bool :=
  (List.range 64).any fun c => s.latchUsed c &&
    match i with
    | .can _ id =>
      let fwd := fun j => let f := s.latchFwd c j; bit f.1 7 && !bit f.1 0 && f.2 % 2 ^ 30 == id % 2 ^ 30
      (s.latchInput c 1 && s.latchCanid c % 2 ^ 30 == id % 2 ^ 30) || fwd 0 || fwd 1
    | .milio _ v tag =>
      let fwd := fun j => let f := s.latchFwd c j; bit f.1 7 && bit f.1 0 && f.2 / 2 ^ 16 == tag
      decide (v < 6) && ((s.latchInput c 2 && s.latchMilsel c / 16 % 2 ^ 16 == tag) || fwd 0 || fwd 1)

/-- R491, R499, R501: an entry of a status frame. -/
def State.takeStatus (s : State) (age highest : Nat) : State :=
  let s := s.knowEpoch (epochOf highest)
  let s := if highest ≠ 0 ∧ age * 100 ≤ s.num Reg.latWindow then s.setHinge { s.hinge with statusActive := true } else s
  if decide (s.claim ≠ 0) && decide (s.claim < highest) && !s.disregards (epochOf highest) then s.depose else s

/-- R715: a Latch status frame of the part's own SETID. -/
def State.receiveStatus (s : State) (i : FrameInput) (f : List Byte) : State :=
  if Lfr.type f = Frame.status ∧ Lfr.setid f = s.ownSetid ∧ s.statusKnown i = true ∧ s.hingeRuns = true then
    (List.range (Lfr.nent f)).foldl (fun s k => s.takeStatus (u16 f (0x12 + 8 * k)) (u32 f (0x14 + 8 * k))) s
  else s

def execLatchStatus (input : FrameInput) (frame : List Byte) (s : State) : Reply := .next (s.receiveStatus input frame)

/-! ### Takeover (R500, R506, R508, R510) -/

/-- PLACE starts from initial cores: each task's state area moves there with it (R256). -/
def State.placeInitially (s : State) : State :=
  let areas := (List.range s.ntask).map fun t => s.bytes (s.stateArea t) (s.taskDef t).stateLen
  let s := if s.flag Reg.adpFreeze Loop.place then s else s.coldPlace
  (areas.zipIdx).foldl (fun s a => s.engineWrite (engineWho Init.hinge) (s.stateArea a.2) a.1) s

/-- The federation coordinator is to resume from the checkpoint at the next round start (R337): no round is open, the period of the checkpoint's
round is as STATUS.IDLE and COUNT0.CONTRIB show it. -/
def State.fedResumes (s : State) : State :=
  if s.fedRole < 2 then s
  else
    { s with fed := { (default : FedState) with
      claims := s.fed.claims, flags := s.fed.flags, plan := s.fed.plan, expired := s.fed.expired, closed := true, resuming := true
      published := s.flag Reg.fedStatus 27, anyCurrent := decide (0 < s.fld Reg.fedCount0 15 0)
      budget := s.fld Reg.fedBudget 9 0, downPlan := s.num Reg.fedRound / s.planRounds } }

/-- Firings that waited while the control engines stood still are gone. -/
def State.dropControlFirings (s : State) : State :=
  let ours := fun (e : Crossing) =>
    let k := s.consumerOf e.spindle (e.cmp % 64)
    k == Consumer.tsk || k == Consumer.cle || k == Consumer.fed
  { s with spn := { s.spn with due := s.spn.due.filter fun e => !ours e } }

/-- The unit takes control under a new claim and enters RUN; without an epoch left it stays a standby (R493). -/
def State.takeControl (s : State) : State :=
  let s := s.finishApply.cancelLathes
  let cold := !s.standbyReady
  let s := if s.hinge.proofRuns then s.dropProof.abandonInjection else s
  let s := s.takeClaim true
  if s.claim = 0 then s.tell
  else
    let s := (s.countHinge 31 24).raise 40
    let s := if cold then s.loadControl none else if s.hingeIncl 3 then s.fedResumes else s
    let s := s.cleTakeover.placeInitially.adpTakeover.emptyMailboxes
    let s := (List.range 16).foldl (fun s n => s.setAxis n { s.axis n with since := s.tick }) s
    let s := (s.selfRefresh false).dropControlFirings
    let s := s.setHinge { s.hinge with stored := none, incoming := none, active := none, yielded := false, steady := none, revert := false,
                                       cutCount := 0, cutDue := none, sending := false }
    ((s.setMode Mode.run).showCores.dispatchAll).tell

/-- R500: what the unit must be, besides the silence or the YIELD of the active peer. -/
def State.mayTake (s : State) : Bool :=
  s.mode == Mode.standby && s.wardenOk && !s.unfit &&
    (s.standbyReady || s.flag Reg.hngStatus Hng.applying || (s.hingeCold && !([0, 1] : List Nat).any s.peerTakes)) &&
    !([0, 1] : List Nat).any fun p => s.peerTakes p && decide (s.ownRank < s.peerRank p)

/-- R500: the standby takes control once the active peer has yielded or has been silent for 3 heartbeat periods; time passes up to then. -/
def execTakeover (s : State) : Reply :=
  if s.mode ≠ Mode.standby then .next s
  else
    let since := max (s.hinge.active.getD 0) s.hinge.listen
    let s := if s.hinge.yielded then s else s.elapse ((since + s.hb3 - s.chip.up + 3) / 4)
    .next (if s.mayTake then s.takeControl else s)

/-! ### Hand-over and cuts (R504, R512 to R514) -/

/-- The target of a hand-over: a unit, or for 0 the ready peer of the highest RANK. -/
def State.handoverTarget (s : State) (unit : Nat) : Option Nat :=
  let ready := ([0, 1] : List Nat).filter fun p => s.peerTakes p && (s.peerPort p).isSome && (unit == 0 || s.peerUnit p == unit)
  ready.find? fun p => ready.all fun q => decide (s.peerRank q ≤ s.peerRank p)

/-- R512: at a cut firing a wanted hand-over begins its final cut, or ends. -/
def State.beginFinal (s : State) (h : HandOver) : State :=
  match s.handoverTarget h.unit with
  | none => s.endHandover Hng.noPeer
  | some p =>
    if s.hinge.transfer + s.num Reg.hngCksize / 32 + 51000 < s.cutCycle then
      s.setHinge { s.hinge with handover := some { h with final := true, target := p + 1 } }
    else s.endHandover Hng.tooSlow

/-- A firing of the cut comparator on the active unit: a final hand-over that has not come about is abandoned (R514); at every CKPT_PERIOD-th a
cut falls due. -/
def State.cutFiring (s : State) (n c : Nat) : State :=
  if !(s.hasHinge && n == s.cutSpindle && c == s.cutComparator && decide (s.claim ≠ 0)) then s
  else
    let s := if s.withholds then (s.endHandover Hng.abandoned).releasePended else s
    let k := s.hinge.cutCount + 1
    if k < s.ckptPeriod then s.setHinge { s.hinge with cutCount := k }
    else
      let s := if s.hinge.cutDue.isSome then s.skipCut else s
      let s := s.setHinge { s.hinge with cutCount := 0, cutDue := some s.firedAt }
      (match s.hinge.handover with
        | some h => s.beginFinal h
        | none => s).tell

/-- The firings that wait for a consumer at the instant of a crossing: of its tick, and on the same spindle at its target (R167). -/
def State.waitingAt (s : State) (consumer : Nat) (x : Crossing) : List Crossing :=
  s.spn.due.filter fun e =>
    e.ran == x.ran && (e.spindle != x.spindle || e.target == x.target) && s.consumerOf e.spindle (e.cmp % 64) == consumer

/-- They are served with the command of another comparator, which is remembered for that instant. -/
def State.takeWaiting (s : State) (consumer : Nat) (x : Crossing) : State :=
  let es := s.waitingAt consumer x
  let before := if s.tsk.servedAt = s.chip.ran then s.tsk.served else []
  { s with spn := { s.spn with due := s.spn.due.filter fun e => !es.contains e }
           tsk := { s.tsk with served := before ++ es.map fun e => (e.spindle, e.cmp % 64), servedAt := s.chip.ran } }

/-- The commits of an instant, and what the Hinge does at the cut. -/
def State.commitInstant (s : State) (cs : List (Nat × Nat)) : State := cs.foldl (fun s k => s.cutFiring k.1 k.2) (s.commitsAt cs)

/-- A sweep whose firing waits at the instant starts (R389). -/
def State.sweepInstant (s : State) (x : Crossing) : State :=
  match s.waitingAt Consumer.cle x with
  | e :: _ =>
    if !s.cleRuns then s
    else
      let s := s.takeWaiting Consumer.cle x
      if s.withholds then s else s.startSweep e.target
  | [] => s

/-- TSK's firings of the instant of a crossing (R357): the commits, unless a TASK_COMMIT made those of the crossing's own comparator, then the CLE's
sweep of that instant (R389), and unless withheld the releases. -/
def State.taskInstant (s : State) (x : Crossing) (committed : Bool) : State :=
  let es := s.waitingAt Consumer.tsk x
  let own := (x.spindle, x.cmp % 64)
  let raw := (if committed then [] else [own]) ++ (es.filter fun e => decide (e.cmp < 64)).map fun e => (e.spindle, e.cmp)
  let s := ((s.takeWaiting Consumer.tsk x).commitInstant raw).sweepInstant x
  if s.withholds then s else s.releaseAll (own :: es.map fun e => (e.spindle, e.cmp % 64)) (s.ranAt x.ran)

/-- The firing of a comparator was served with that of another of the same instant. -/
def State.wasServed (s : State) (n c : Nat) : Bool := s.tsk.servedAt == s.chip.ran && s.tsk.served.contains (n, c)
def State.dropServed (s : State) (n c : Nat) : State := { s with tsk := { s.tsk with served := s.tsk.served.erase (n, c) } }

/-- R351, R357, R513: the firing's commits, unless a TASK_COMMIT of the same firing made them, then its releases. A firing whose
commits are made and whose releases are not waits as comparator number 64 + c. -/
def execTaskRelease (spindle cmp : Nat) (s : State) : Reply :=
  let n := spindle % 8
  let c := cmp % 64
  if s.wasServed n c then .next (s.dropServed n c)
  else
    match takeDue n (64 + c) s.spn.due with
    | some (x, r) =>
      let s : State := { s with spn := { s.spn with due := r, fired := x } }
      .next (if s.withholds then s else s.taskInstant x true)
    | none =>
      if !s.tskRuns then .next s
      else
        match s.firing Consumer.tsk n c with
        | none => .next s
        | some (s, _) => .next (s.taskInstant s.spn.fired false)

/-- R362: the firing's commits, unless they were made with a sweep of that instant; its releases, if tasks name the comparator, are still to come
(R357). -/
def execTaskCommit (spindle cmp : Nat) (s : State) : Reply :=
  let n := spindle % 8
  let c := cmp % 64
  if s.wasServed n c then .next (if (s.releasesAt [(n, c)]).isEmpty then s.dropServed n c else s)
  else if !s.tskRuns || (takeDue n (64 + c) s.spn.due).isSome then .next s
  else
    match s.firing Consumer.tsk n c with
    | none => .next s
    | some (s, _) =>
      let s := s.commitInstant [(n, c)]
      .next (if (s.releasesAt [(n, c)]).isEmpty then s
        else { s with spn := { s.spn with due := { s.spn.fired with cmp := 64 + c } :: s.spn.due } })

/-- TSK's commits of the instant of a sweep (R389); their releases, if tasks name the comparators, are still to come. -/
def State.commitsBefore (s : State) (x : Crossing) : State :=
  if !s.tskRuns then s
  else
    let raw := (s.waitingAt Consumer.tsk x).filter fun e => decide (e.cmp < 64)
    let due := s.spn.due.map fun e => if raw.contains e then { e with cmp := 64 + e.cmp } else e
    let s : State := { s with spn := { s.spn with due := due } }
    s.commitInstant (raw.map fun e => (e.spindle, e.cmp))

/-- R386, R389: the sweep of a firing, after the task commits of its instant. While a hand-over withholds sweeps (R513), a firing starts none. -/
def execSweepStart (s : State) : Reply :=
  let n := s.sweepSpindle
  if s.wasServed n s.sweepComparator then .next (s.dropServed n s.sweepComparator)
  else if !s.cleRuns then .next s
  else
    match s.firing Consumer.cle n s.sweepComparator with
    | none => .next s
    | some (s, t) =>
      let s := s.commitsBefore s.spn.fired
      .next (if s.withholds then s else s.startSweep t)

/-- TSK's comparators that fired with the cut comparator at its last firing, itself among them: those of its spindle that have its last target. -/
def State.cutFirings (s : State) : List (Nat × Nat) :=
  let n := s.cutSpindle % 8
  let k := s.comparator n (s.cutComparator % 64)
  let x := if k.onTravel then (s.spin n).travel else (s.spin n).pos
  match (k.targets x (k.div + 2) (x - max 1 k.mult * 2 ^ 32)).getLast? with
  | none => [(n, s.cutComparator % 64)]
  | some t => ((List.range 64).filter fun c =>
      c == s.cutComparator % 64 || (s.consumerOf n c == Consumer.tsk && (s.comparator n c).onTravel == k.onTravel &&
        (s.comparator n c).next (t - 1) == t)).map fun c => (n, c)

/-- R513: the target applies the FINAL checkpoint, takes control, and performs the releases withheld at the final cut; not after the next firing of
the cut comparator (R514). -/
def execFinalTake (s : State) : Reply :=
  match s.hinge.stored with
  | none => .next s
  | some c =>
    if !(c.final && s.mode == Mode.standby && s.wardenOk && !s.unfit) then .next s
    else
      let s := s.finishApply
      if s.waits (s.cutSpindle % 8) (s.cutComparator % 64) then .next s.tell
      else
        let s := s.takeControl
        .next (if s.claim = 0 then s else (s.releaseAll s.cutFirings s.chip.up).releasePended)

/-- R514: at the next firing of the cut comparator the active unit releases again, and the target does not take control any more. -/
def execAbandoned (s : State) : Reply :=
  let n := s.cutSpindle % 8
  let c := s.cutComparator % 64
  let final := match s.hinge.stored with
    | some c => c.final
    | none => false
  if !(s.withholds || (final && s.mode == Mode.standby)) then .next s
  else
    match s.firing Consumer.tsk n c with
    | none => .next s
    | some (s, _) =>
      if s.withholds then .next (s.taskInstant s.spn.fired false)
      else .next (s.setHinge { s.hinge with stored := s.hinge.stored.map fun c => { c with final := false } })

/-- R515: REVERT_REQ after REVERT_HOLD of steady readiness under an ACTIVE peer of lower RANK; time passes up to then. -/
def execRevertReq (s : State) : Reply :=
  let lower := ([0, 1] : List Nat).any fun p => s.heard p && s.peerState p == Unit.active && decide (s.peerRank p < s.ownRank)
  match s.hinge.steady with
  | none => .next s
  | some t =>
    if !(s.hingeRevert && s.mode == Mode.standby && lower && !s.hinge.revert) then .next s
    else
      let s := (s.elapse ((t + s.num Reg.hngRevertHold * 1000000000 - s.chip.up + 3) / 4)).tell
      .next (if s.hinge.steady.isSome then (s.setHinge { s.hinge with revert := true }).tell else s)

end Sys2Proof.Machine
end

