-- ==== Sys2Proof/Machine/Mil.lean ====
section
/-! DEFINITION. Packets that arrive on Milio links: checks, retry, forwarding, delivery, receive rings, and the ports' commands (15): R583 to
R605, R659. -/
namespace Sys2Proof.Machine

/-! ### Receive rings (R599) -/

/-- The port of a link; links 4 and 5 stand for the packets of port 0 and 1 that never left the part (R589). -/
def portOf (l : Nat) : Nat := if l < 4 then l / 2 else l % 2

/-- A packet enters the next posted buffer of its channel; none when no buffer is posted. -/
def State.fillMil (s : State) (port at_ : Nat) (enc : Bool) (p : MilPacket) : Option State :=
  let r := s.rxRing port p.vc
  let head := s.num (Reg.milRxhead port p.vc)
  if !s.vcRings port p.vc || ringFill r.2 head (s.num (Reg.milRxtail port p.vc)) == 0 then none
  else
    let a := r.1 + 16 * (head % max 1 r.2)
    let x := s.bytes a 16
    let who := milWho port p.vc
    let c := if (s.badWordIn a 16).isSome then Code.uncorrectable else s.rangeCode who (entryAddr x) p.payload.length true
    let s := if c = Code.ok then (s.charge who (entryAddr x) p.payload.length).poke (entryAddr x) p.payload else s.engineError who (entryAddr x) c
    let s := s.dmaWrite who (a + 6) (leBytes 2 p.payload.length ++ leBytes 2 (p.src % 2 ^ 14) ++
      leBytes 2 (0x8000 + ofBool p.bcast * 0x4000 + ofBool enc * 0x2000) ++ leBytes 4 (at_ % 1000000000))
    let s := s.setNum (Reg.milRxhead port p.vc) ((head + 1) % max 1 r.2)
    some (if entryFlag x 1 then s.raise (352 + 16 * port + 5) else s)

/-- The packets that wait on a link go to their rings, oldest first; one without a buffer holds back the later ones of its channel. -/
def drainHeld (l : Nat) : List (Nat × Nat × Bool × MilPacket) → Nat → List (Nat × Nat × Bool × MilPacket) → State → State
  | [], _, kept, s => s.setMilLink l { s.milLink l with held := kept }
  | x :: xs, blocked, kept, s =>
    let p := x.2.2.2
    if bit blocked p.vc then drainHeld l xs blocked (kept ++ [x]) s
    else
      match s.fillMil (portOf l) x.2.1 x.2.2.1 p with
      | some s => drainHeld l xs blocked kept (s.returnCredits p)
      | none => drainHeld l xs (setBit blocked p.vc) (kept ++ [x]) s

def State.drainLink (s : State) (l : Nat) : State := drainHeld l (s.milLink l).held 0 [] s

/-- A packet goes to its channel's receive ring, behind those that wait. -/
def State.ringMil (s : State) (l : Nat) (enc : Bool) (p : MilPacket) : State :=
  let k := s.milLink l
  (s.setMilLink l { k with held := k.held ++ [(s.chip.up, s.now, enc, p)] }).drainLink l

/-! ### Local delivery (R596, and the users of VC 6 and 7) -/

/-- A Latch frame behind its tag. -/
def State.latchFrameIn (s : State) (i : FrameInput) (f : List Byte) : State :=
  if Lfr.type f = Frame.command then s.receiveCommand i f
  else if Lfr.type f = Frame.withdraw then s.receiveWithdraw i f
  else if Lfr.type f = Frame.status then s.receiveStatus i f
  else s

/-- What the federation unit does at a TICK: FGEN is tested, DST is not (R335); one of the parent's with a lower claim is dropped (R336); FED.ROUND
follows. The second part: the TICK is accepted. -/
def State.fedTick (s : State) (m : List Byte) : State × Bool :=
  if !s.variant.hasFed then (s, true)
  else if Fmsg.gen m ≠ s.fedGen then (if s.fedRuns then s.fedDrop Reg.fedDropGen else s, false)
  else if !s.fedRuns || s.fedRole == Fed.top then (s, true)
  else
    let r := if s.parentNodes.contains (Fmsg.src m) then s.parentClaim m else (s, true)
    (if r.2 then r.1.seeRound (Fmsg.round m) (Fmsg.plan m) else r.1, r.2)

/-- A FED message (07): an accepted TICK drives the ROUND spindles of the port (R164). -/
def State.fedMessage (s : State) (port : Nat) (m : List Byte) : State :=
  let t := Fmsg.type m
  if t = Mtype.tick then
    let r := s.fedTick m
    if r.2 then (r.1.spinsOf Src.round port).foldl (fun s n => s.roundStep n (u64 m 0x20 * 1000000000 + u32 m 0x28) (u32 m 0x2C)) r.1 else r.1
  else if !s.fedRuns then s
  else if t = Mtype.down then s.receiveDown m
  else if t = Mtype.up then (if 2 ≤ s.fedRole then s.receiveUp m else s)
  else if t = Mtype.plan then s.receivePlan m
  else if t = Mtype.areaDown then s.receiveAreaDown m
  else if t = Mtype.areaUp then (if s.fedRole = Fed.top then s.receiveAreaUp m else s)
  else s.receiveAreaPlan m

/-- R596: a packet on VC 0 to 5 is offered to the hardware users it matches, and goes to the ring when none takes it or RXCOPY is set. -/
def State.offerPacket (s : State) (l : Nat) (enc : Bool) (p : MilPacket) : State :=
  let port := portOf l
  let tag := u16 p.payload 0
  let i := FrameInput.milio port p.vc tag
  let f := p.payload.drop 4
  let status := Lfr.type f == Frame.status && Lfr.setid f == s.ownSetid && s.statusKnown i
  let fus := s.fusTakes Kind.milio (p.vc % 8 + port % 2 * 8 + tag * 16)
  let met := s.metRuns && (s.remoteFor port p.vc p.payload).isSome
  let lat := s.latchOffered i || status
  let s := if fus then s.fusMilio port p.vc s.now p.payload else s
  let s := if met then s.takeWaveform port p.vc p.payload else s
  let s := if lat then s.latchFrameIn i f else s
  if !(fus || met || lat) || bit (s.vcFlags port p.vc) 2 then s.ringMil l enc p else s.returnCredits p

/-- A packet for this node. -/
def State.deliverPacket (s : State) (l : Nat) (enc : Bool) (p : MilPacket) : State :=
  if p.vc = 6 then
    let s := if u8 p.payload 0 = 4 then s.receiveHeartbeat (2 + portOf l) (p.payload.drop 32) else s.receiveCheckpoint p.payload
    s.returnCredits p
  else if p.vc = 7 then (s.fedMessage (portOf l) p.payload).returnCredits p
  else s.offerPacket l enc p

/-- Packets that never left the part are delivered (R589). -/
def State.deliverLoop (s : State) : State :=
  let ps := s.mil.loop
  ps.foldl (fun s x => s.deliverPacket (4 + x.1) false x.2) { s with mil := { s.mil with loop := [] } }

/-! ### Arrival (R585, R587, R593, R594) -/

/-- R587: what the node does with a packet from link `l`. A broadcast's credits go back with its last copy (DESIGN CHOICE, log entry 43). -/
def State.switchPacket (s : State) (l : Nat) (enc : Bool) (p : MilPacket) : State :=
  let onward := { p with hops := p.hops - 1 }
  if p.bcast then
    let out := if 1 < p.hops then (s.broadcastLinks).filter fun k => k != l else []
    let up := out.filter s.linkUp
    let s := (out.filter fun k => !s.linkUp k).foldl (fun s k => s.milDrop (k / 2) Drop.down) s
    let s := s.deliverPacket l enc (if up.isEmpty then p else { p with ingress := 0, credits := 0 })
    (up.zipIdx).foldl (fun s k =>
      s.milSend k.1 (if k.2 + 1 = up.length then onward else { onward with ingress := 0, credits := 0 })) s
  else if p.dst = s.blk.node then s.deliverPacket l enc p
  else if p.hops ≤ 1 then (s.milDrop (l / 2) Drop.hops).returnCredits p
  else
    match s.route p.dst with
    | (s, .via k) => if k = l then (s.milDrop (l / 2) Drop.noroute).returnCredits p else s.milSend k onward
    | (s, _) => (s.milDrop (l / 2) Drop.noroute).returnCredits p

/-- A copy on link `k` of a packet that failed its check, ended with an invalid CRC (the correct one inverted: DESIGN CHOICE, log entry 153). It
takes no LSEQ, no credit and no place for retry, since the resent packet is forwarded again (R590). -/
def State.sendSpoiled (s : State) (k : Nat) (p : MilPacket) : State :=
  let c := s.milVc k p.vc
  if s.milReady k p && c.waiting.isEmpty then
    let b := milBytes p (s.milLink k).nextSeq (if s.vcEnc k p.vc then c.tx else none) c.lcnt
    let n := b.length - 4
    s.send .milio k (b.take n ++ (b.drop n).map fun x => ~~~x)
  else s

/-- R590: a packet in turn whose header has arrived is already on its way out when it fails its check. -/
def State.spoilForward (s : State) (l : Nat) (b : List Byte) : State :=
  let p : MilPacket := { dst := u16 b 0 % 2 ^ 14, src := u16 b 2 % 2 ^ 14, vc := u8 b 4 % 8, hops := u8 b 5 - 1, bcast := bit (u16 b 0) 15,
                         payload := slice b 16 (u16 b 6) }
  if s.linkState l ≠ Link.up ∨ bit (u8 b 4) 4 = true ∨ u16 b 8 % 4096 ≠ (s.milLink l).expect ∨ u8 b 5 ≤ 1 then s
  else if p.bcast then ((s.broadcastLinks).filter fun k => k != l && s.linkUp k).foldl (fun s k => s.sendSpoiled k p) s
  else if p.dst = s.blk.node then s
  else match s.route p.dst with
    | (_, .via k) => if k = l then s else s.sendSpoiled k p
    | _ => s

/-- R585: a bad CRC or tag: the packet is discarded and a NAK returned, and later packets are discarded until the resent one arrives. -/
def State.rejectPacket (s : State) (l : Nat) (b : List Byte) : State :=
  let seq := u16 b 8 % 4096
  let s := s.spoilForward l b
  let s := (s.bump (Reg.milCrcerr (l / 2)) 31 0 1).cellEvent 0x20 (0x28 + l / 2) l Act.retried 0 l
  (s.setMilLink l { s.milLink l with discarding := true }).linkSymbol l 2 seq 0

/-- R659: the first 4 packets under a new key have failed their tags: the exchange counts as failed. -/
def State.tagFails (s : State) (l v : Nat) (b : List Byte) : State :=
  let c := s.milVc l v
  let s := (s.setMilVc l v { c with badTags := c.badTags + 1 }).rejectPacket l b
  if c.passed = false ∧ c.badTags + 1 = 4 then (s.kxFails l v).raise 36 else s

/-- The receive key of a generation (R594): the current one, or the one before it until 1 ms after the first packet under the new one. -/
def State.rxKey (s : State) (l v kgen : Nat) : Option MilKey :=
  let c := s.milVc l v
  match c.rx with
  | none => none
  | some k =>
    if k.kgen = kgen then some k
    else
      match c.rxOld with
      | some (o, till) => if o.kgen = kgen ∧ (c.rxUsed = false ∨ s.chip.up ≤ till) then some o else none
      | none => none

/-- A packet under the current key has passed: the old one has 1 ms left from the first. -/
def State.keyPassed (s : State) (l v kgen : Nat) : State :=
  let c := s.milVc l v
  match c.rx with
  | some k =>
    if k.kgen ≠ kgen then s
    else if c.rxUsed then s.setMilVc l v { c with passed := true }
    else s.setMilVc l v { c with passed := true, rxUsed := true, rxOld := c.rxOld.map fun o => (o.1, s.chip.up + 1000000) }
  | none => s

/-- A management packet stays on its link (15, "Management packets and keys"); PTP messages act by their own command. -/
def State.manage (s : State) (l : Nat) (p : MilPacket) : State :=
  let s := if u8 p.payload 0 = 1 then s.takeLinkInfo l p.payload else if u8 p.payload 0 = 3 then s.takeKx l p.payload else s
  s.returnCredits p

/-- A packet in order and whole: it is acknowledged and acted on. -/
def State.acceptPacket (s : State) (l seq : Nat) (enc : Bool) (p : MilPacket) : State :=
  let k := s.milLink l
  let s := (s.setMilLink l { k with expect := (seq + 1) % 4096, discarding := false }).linkSymbol l 0 seq 0
  if p.vc = 8 then s.manage l p
  else if s.linkState l = Link.up then s.switchPacket l enc p
  else s.returnCredits p

/-- The packet that the bytes hold, its tag checked where it has one; `none` for a bad tag. A packet without ENC on an encrypted channel, or with
it on another, has none that passes (DESIGN CHOICE, log entry 43). -/
def State.openPacket (s : State) (l : Nat) (b : List Byte) : Option MilPacket :=
  let vcByte := u8 b 4
  let mgmt := bit vcByte 4
  let enc := bit vcByte 3
  let v := if mgmt then 8 else vcByte % 8
  let n := u16 b 6
  let p : MilPacket := { dst := u16 b 0 % 2 ^ 14, src := u16 b 2 % 2 ^ 14, vc := v, hops := u8 b 5, bcast := bit (u16 b 0) 15,
                         payload := slice b 16 n, ingress := l + 1, credits := creditsFor n enc }
  if mgmt then (if enc then none else some p)
  else if enc != s.vcEnc l v then none
  else if enc then
    match s.rxKey l v (u16 b 0xA) with
    | none => none
    | some k => (Config.gcmOpen k.key (milIv vcByte (u16 b 0xA) (u32 b 0xC)) (slice b 0 8) (slice b 16 (n + 16))).map fun m =>
      { p with payload := m }
  else some p

/-- The bytes are a whole packet with a correct CRC-32. -/
def packetIntact (b : List Byte) : Bool :=
  decide (b.length = 20 + u16 b 6 + (if bit (u8 b 4) 3 then 16 else 0)) && crc32 (b.take (b.length - 4)) == u32 b (b.length - 4)

/-- The LINK injection that meets the next packet of a link (R668): the running request, or a step of a proof run (R684). -/
def State.linkInjection (s : State) (l : Nat) : Option InjRequest := match s.inj.run with
  | some q => if q.det = 0x20 ∧ q.loc = location 3 (0x28 + l / 2) l then some q else none
  | none => none

/-- A packet with a correct CRC: out of order it is discarded, in order it is opened and acted on. -/
def State.takeIntact (s : State) (l : Nat) (b : List Byte) : State :=
  let seq := u16 b 8 % 4096
  let k := s.milLink l
  let enc := bit (u8 b 4) 3
  if seq ≠ k.expect then
    if k.discarding then s else s.linkSymbol l 0 ((k.expect + 4095) % 4096) 0
  else
    match s.openPacket l b with
    | none => s.tagFails l (u8 b 4 % 8) b
    | some p => (if enc then s.keyPassed l p.vc (u16 b 0xA) else s).acceptPacket l seq enc p

/-- R585: a packet arrives. A LIVE injection corrupts its CRC; a SHADOW one leaves it as it is (R679). -/
def State.takePacket (s : State) (l : Nat) (b : List Byte) : State :=
  let st := s.linkState l
  let carries := s.linkExists l && s.awake && !s.fenced Region.link && (st == Link.up || st == Link.align || st == Link.miswired)
  if !carries || decide (b.length < 20) then s
  else if !packetIntact b then s.rejectPacket l b
  else if bit s.inj.proofLinks l then
    ({ s with inj := { s.inj with proofLinks := clearBit s.inj.proofLinks l } }).proofOccurrence fun s => s.rejectPacket l b
  else
    match s.linkInjection l with
    | none => s.takeIntact l b
    | some q =>
      if q.live then s.occurrence q fun s => s.rejectPacket l b
      else
        (s.occurrence q fun s =>
          s.detected { det := 0x20, level := 1, loc := q.loc, action := Act.retried, detail := l, shadow := true }).takeIntact l b

/-- R587. -/
def execPacket (link : Nat) (bytes : List Byte) (s : State) : Reply := .next (s.takePacket (link % 4) bytes)

/-! ### Retry, states and keys -/

/-- A link of this part, not fenced. -/
def State.linkActs (s : State) (l : Nat) : Bool := s.linkExists l && s.awake && !s.fenced Region.link

/-- R585: a NAK. -/
def execNak (link seq : Nat) (s : State) : Reply :=
  let l := link % 4
  .next (if s.linkActs l && decide (Link.align ≤ s.linkState l) && s.linkState l != Link.down then s.resendFrom l (seq % 4096) else s)

/-- R585: 100 µs without an acknowledgement of the oldest packet, up to which time passes. -/
def execAckTimeout (link : Nat) (s : State) : Reply :=
  let l := link % 4
  match (s.milLink l).sent with
  | [] => .next s
  | e :: _ =>
    .next (if s.linkActs l && decide (Link.align ≤ s.linkState l) && s.linkState l != Link.down then
        (s.elapse ((e.time + 100000 - s.chip.up + 3) / 4)).resendFrom l e.seq
      else s)

/-- R584. -/
def execCreditReturn (link ack vc credits : Nat) (s : State) : Reply :=
  let l := link % 4
  .next (if s.linkActs l then s.creditsBack l (ack % 4096) (vc % 9) credits else s)

/-- R591. -/
def execLinkinfo (link : Nat) (payload : List Byte) (s : State) : Reply :=
  .next (if s.linkActs (link % 4) then s.takeLinkInfo (link % 4) payload else s)

/-- R600. -/
def execBlockLockLost (link : Nat) (s : State) : Reply :=
  .next (if s.linkActs (link % 4) then s.linkLost (link % 4) else s)

/-- R600, R591. -/
def execBlockLockGained (link : Nat) (s : State) : Reply :=
  .next (if s.linkActs (link % 4) then s.alignLink (link % 4) else s)

/-- R600: a DOWN link retrains 10 ms later, up to which time passes; or a write of MIL.CTRL retrains it. -/
def execLinkRetrain (link : Nat) (write : Option (Who × Word)) (s : State) : Reply :=
  let l := link % 4
  match write with
  | some (who, v) => .next (s.gated who (Reg.milCtrl (l / 2)) v fun s => s.writeMilCtrl (l / 2) v)
  | none => .next (if s.linkActs l && s.linkState l == Link.down then
        (s.elapse (((s.milLink l).since + 10000000 - s.chip.up + 3) / 4)).trainLink l
      else s)

/-- R593. -/
def execKx (link : Nat) (payload : List Byte) (s : State) : Reply :=
  .next (if s.linkActs (link % 4) then s.takeKx (link % 4) payload else s)

/-- R594: a keyed write of MIL.KEYCTL starts a new KGEN of the channel on the port's links. -/
def execKeyctl (who : Who) (port : Nat) (value : Word) (s : State) : Reply :=
  let p := port % 2
  .next (s.gated who (Reg.milKeyctl p) value fun s =>
    let v := field value 2 0
    if field value 31 16 = 0x4B58 then
      (([2 * p, 2 * p + 1] : List Nat).filter fun l => s.linkUp l && s.vcEnc l v).foldl (fun s l => s.startKx l v) s
    else s)

/-- R595. -/
def execKxTimeout (link vc : Nat) (s : State) : Reply :=
  .next (if s.linkActs (link % 4) then s.kxExpires (link % 4) (vc % 8) else s)

/-- R590: a channel has held a packet without credit for 10 ms, up to which time passes. -/
def execVcStall (link vc : Nat) (s : State) : Reply :=
  let l := link % 4
  let v := vc % 8
  match (s.milVc l v).waiting with
  | [] => .next s
  | p :: _ =>
    if s.linkUp l && s.awake && decide ((s.milVc l v).credits < creditsFor p.payload.length (s.vcEnc l v)) &&
        !s.flag (Reg.milVstate (l / 2) v) 31 then
      let s := s.elapse (((s.milVc l v).since + 10000000 - s.chip.up + 3) / 4)
      .next ((s.setFlag (Reg.milVstate (l / 2) v) 31 true).raise (s.milSource l 6))
    else .next s

/-! ### Rings and counters -/

/-- R598: a write of MIL.TXTAIL. -/
def execTxRingTail (who : Who) (port vc : Nat) (value : Word) (s : State) : Reply :=
  let p := port % 2
  let v := vc % 8
  .next (s.gated who (Reg.milTxtail p v) value fun s =>
    let s := s.setNum (Reg.milTxtail p v) (field value 11 0)
    serveRing p v (s.txFill p v + (List.range 4).foldl (fun n k => n + (s.milVc k v).waiting.length) 0) s)

/-- R599: a write of a receive ring's tail posts buffers, and the packets or frames that wait enter them. -/
def execRxRingTail (who : Who) (eth : Bool) (port vc : Nat) (value : Word) (s : State) : Reply :=
  if eth then
    let e := port % 6
    .next (s.gated who (Reg.ethRxtail e) value fun s =>
      let s := s.setNum (Reg.ethRxtail e) (field value 11 0)
      drainEth e (s.eth.held.get e).length s)
  else
    let p := port % 2
    let v := vc % 8
    .next (s.gated who (Reg.milRxtail p v) value fun s =>
      let s := s.setNum (Reg.milRxtail p v) (field value 11 0)
      ((([2 * p, 2 * p + 1, 4 + p] : List Nat).foldl State.drainLink s).pumpLink (2 * p)).pumpLink (2 * p + 1))

/-- R599: 1 ms without a receive buffer; time passes up to then. Links 4 and 5 stand for the ports' own packets, 8 + e for Ethernet. -/
def execRxfullTimeout (link : Nat) (s : State) : Reply :=
  if 8 ≤ link then
    let e := (link - 8) % 6
    match s.eth.held.get e with
    | [] => .next s
    | x :: rest =>
      let s := s.elapse ((x.1 + 1000000 - s.chip.up + 3) / 4)
      .next { s with eth := { s.eth with held := s.eth.held.set e rest } }
  else
    let l := link % 6
    match (s.milLink l).held with
    | [] => .next s
    | x :: rest =>
      let s := s.elapse ((x.1 + 1000000 - s.chip.up + 3) / 4)
      let s := (s.setMilLink l { s.milLink l with held := rest }).milDrop (portOf l) Drop.rxfull
      .next ((s.returnCredits x.2.2.2).drainLink l)

/-- R605: a write of MIL.CLEAR. -/
def execMilClear (who : Who) (port : Nat) (value : Word) (s : State) : Reply :=
  let p := port % 2
  .next (s.gated who (Reg.milClear p) value fun s =>
    if bit value.toNat 0 then
      ([Reg.milCrcerr p, Reg.milRetries p, Reg.milRetrains p, Reg.milDrops p] : List Nat).foldl (fun s r => s.setNum r 0) s
    else s)

end Sys2Proof.Machine
end

