-- ==== Sys2Proof/Machine/Can.lean ====
section
/-! DEFINITION. The CAN FD controllers (16): R606 to R620. -/
namespace Sys2Proof.Machine

/-! ### The controller -/

def State.canFlag (s : State) (k b : Nat) : Bool := bit (u8 s.linkStruct (canEntry k + 2)) b
def State.canUsed (s : State) (k : Nat) : Bool := decide (k < s.variant.cans) && u8 s.linkStruct (canEntry k) == 1
def State.canRuns (s : State) (k : Nat) : Bool := s.canUsed k && s.awake && !s.fenced Region.link
def Can.busOff : Nat := 31
def Can.passive : Nat := 30
def Can.warn : Nat := 29
def Can.restricted : Nat := 28
def State.canIs (s : State) (k b : Nat) : Bool := s.flag (Reg.canStatus k) b
def canSource (k e : Nat) : Nat := 400 + 8 * k + e
/-- CAN.TSC (R607): 80 MHz. -/
def State.canTsc (s : State) : Nat := s.chip.up * 2 / 25 % 2 ^ 32

/-- A word of the message RAM. -/
def canRam (k o : Nat) : Nat := 0x2B0000 + 0x10000 * k + o
def canBuffer (b : Nat) : Nat := 0x1000 + 0x60 * b

/-- A bit of a register pair LO, HI. -/
def State.pairBit (s : State) (lo hi b : Nat) : Bool := if b < 32 then s.flag lo b else s.flag hi (b - 32)
def State.setPairBit (s : State) (lo hi b : Nat) (v : Bool) : State := if b < 32 then s.setFlag lo b v else s.setFlag hi (b - 32) v

def State.txreq (s : State) (k b : Nat) : Bool := s.pairBit (Reg.canTxreqLo k) (Reg.canTxreqHi k) b
def State.setTxreq (s : State) (k b : Nat) (v : Bool) : State := s.setPairBit (Reg.canTxreqLo k) (Reg.canTxreqHi k) b v
/-- TXDONE or TXFAIL of a buffer is set, and the TX source rises (R615, R616). -/
def State.txEnded (s : State) (k b : Nat) (sent : Bool) : State :=
  let s := s.setTxreq k b false
  let s := if sent then s.setPairBit (Reg.canTxdoneLo k) (Reg.canTxdoneHi k) b true else s.setPairBit (Reg.canTxfailLo k) (Reg.canTxfailHi k) b true
  s.raise (canSource k 5)

/-- A filter element (16, "Message RAM"). -/
structure CanFilter where
  id1 : Nat
  id2 : Nat
  action : Nat
  ide : Bool
  range : Bool
  target : Nat
  deriving DecidableEq, Repr

def State.canElement (s : State) (k f : Nat) : CanFilter :=
  let w := fun i => s.num (canFilter k f i)
  { id1 := w 0 % 2 ^ 29, id2 := w 1 % 2 ^ 29, action := w 2 % 8, ide := bit (w 2) 8, range := bit (w 2) 9, target := w 2 / 2 ^ 16 % 64 }

/-- R610: a buffer is a receive buffer when some filter element with ACTION BUFFER targets it. -/
def State.isReceiveBuffer (s : State) (k b : Nat) : Bool :=
  (List.range 128).any fun f => let e := s.canElement k f; e.action == 3 && e.target == b

/-- The error counters after an event; a controller that becomes error-passive raises its ERROR source (R618). In restricted operation they
do not change (R619). -/
def State.setCanErrors (s : State) (k : Nat) (e : CanErrors) : State :=
  if s.canIs k Can.restricted then s
  else
    let was := s.canIs k Can.passive
    let passive := decide (128 ≤ e.tec) || decide (128 ≤ e.recv)
    let s := s.setNum (Reg.canEcr k) (min 255 e.recv * 256 + min 255 e.tec)
    let s := (s.setFlag (Reg.canStatus k) Can.warn (decide (96 ≤ e.tec) || decide (96 ≤ e.recv))).setFlag (Reg.canStatus k) Can.passive passive
    let s := if e.last = 0 then s else s.setFld (Reg.canStatus k) 7 0 (min 6 e.last)
    if passive && !was then (s.raise (canSource k 6)).blockEvent 0x1F (0x2B + k) 0 Act.none 0 k else s

/-! ### Arbitration (R614) -/

/-- What a frame's identifier bits are on the bus, in order: base identifier, RTR or SRR, IDE, extension, RTR. -/
def arbitration (id : Nat) : Nat :=
  let ext := bit id 29
  let rtr := ofBool (bit id 30)
  (((id / 2 ^ 18 % 2 ^ 11) * 2 + (if ext then 1 else rtr)) * 2 + ofBool ext) * 2 ^ 19 + (if ext then id % 2 ^ 18 * 2 + rtr else 0)

/-- The first of a list with the least key. -/
def firstLeast (key : Nat → Nat) : List Nat → Option Nat
  | [] => none
  | x :: xs => match firstLeast key xs with
    | none => some x
    | some y => if key y < key x then some y else some x

/-- The controller may start a frame: used, on the bus, not RESTRICTED (R618, R619). -/
def State.canSends (s : State) (k : Nat) : Bool := s.canRuns k && !s.canIs k Can.busOff && !s.canIs k Can.restricted

/-- An idle bus takes the next frame: frames of the Latch before any buffer, among each the one whose arbitration field wins (R614). -/
def State.canStart (s : State) (k : Nat) : State :=
  if s.can.onBus.get k ≠ 0 ∨ s.canSends k = false then s
  else
    let ls := s.can.latch.get k
    let go := fun (s : State) (v : Nat) =>
      { s with can := { s.can with onBus := s.can.onBus.set k v, sof := s.can.sof.set k (s.canTsc, stampWord s.now) } }
    match firstLeast (fun i => arbitration (ls.getD i (0, [])).1) (List.range ls.length) with
    | some i => go { s with can := { s.can with latch := s.can.latch.set k (ls.getD i (0, []) :: ls.eraseIdx i) } } 1
    | none =>
      match firstLeast (fun b => arbitration (s.num (canRam k (canBuffer b)))) ((List.range 64).filter fun b => s.txreq k b) with
      | some b => go s (2 + b)
      | none => s

/-- The CTL word of a Latch frame (R617): the DLC of a CAN FD length, FDF, and BRS as FLAGS.BRS states. -/
def State.latchCtl (s : State) (k n : Nat) : Nat :=
  (if n ≤ 8 then n else if n ≤ 24 then 9 + (n - 12) / 4 else 13 + (n - 32) / 16) + 16 + ofBool (s.canFlag k 1) * 32

/-- The bytes of words of the message RAM. -/
def State.canWords (s : State) (k o n : Nat) : List Byte := (List.range n).flatMap fun i => leBytes 4 (s.num (canRam k (o + 4 * i)))

/-- R613: TXREQ bits are set; a receive buffer's has no effect. -/
def execTxreq (who : Who) (controller : Nat) (high : Bool) (value : Word) (s : State) : Reply :=
  let k := controller % 4
  .next (s.gated who (if high then Reg.canTxreqHi k else Reg.canTxreqLo k) value fun s =>
    let s := s.canStart k
    let bs := (bitsOf value.toNat 32).map fun b => if high then 32 + b else b
    ((bs.filter fun b => !s.isReceiveBuffer k b).foldl (fun s b => s.setTxreq k b true) s).canStart k)

/-- R615: the frame on the bus is sent, or has met its last attempt; the next one follows. -/
def execTxEnd (controller : Nat) (sent : Bool) (errors : CanErrors) (s : State) : Reply :=
  let k := controller % 4
  let s := s.canStart k
  let on := s.can.onBus.get k
  if on = 0 ∨ s.canSends k = false then .next s
  else
    let s := s.setCanErrors k errors
    if sent = false ∧ s.fld (Reg.canCtrl k) 7 4 = 0 then .next s
    else
      let idle := fun (s : State) => ({ s with can := { s.can with onBus := s.can.onBus.set k 0 } }).canStart k
      if on = 1 then
        match s.can.latch.get k with
        | [] => .next (idle s)
        | f :: rest =>
          let s : State := { s with can := { s.can with latch := s.can.latch.set k rest } }
          .next (idle (if sent then s.send .can k (leBytes 4 f.1 ++ leBytes 4 (s.latchCtl k f.2.length) ++ f.2) else s.bump (Reg.canHwdrop k) 31 0 1))
      else
        let b := on - 2
        let o := canBuffer b
        let t := s.can.sof.get k
        let s := if sent then
            let s := s.send .can k (s.canWords k o 2 ++ s.canWords k (o + 0x20) 16)
            ((s.setNum (canRam k (o + 8)) t.1).setNum (canRam k (o + 0x10)) t.2).setNum (canRam k (o + 0x14)) (t.2 / 2 ^ 32)
          else s
        .next (idle (s.txEnded k b sent))

/-- R616: TXCAN withdraws frames that have not started. -/
def execTxcan (who : Who) (controller : Nat) (high : Bool) (value : Word) (s : State) : Reply :=
  let k := controller % 4
  .next (s.gated who (if high then Reg.canTxcanHi k else Reg.canTxcanLo k) value fun s =>
    let bs := (bitsOf value.toNat 32).map fun b => if high then 32 + b else b
    (bs.filter fun b => s.txreq k b && s.can.onBus.get k != 2 + b).foldl (fun s b => s.txEnded k b false) s)

/-! ### Reception (R607 to R612) -/

def CanFilter.accepts (e : CanFilter) (id : Nat) : Bool :=
  let n := id % 2 ^ 29
  e.action != 0 && e.ide == bit id 29 && (if e.range then decide (e.id1 ≤ n) && decide (n ≤ e.id2) else (n &&& e.id2) == (e.id1 &&& e.id2))

/-- The 96 bytes of an element. -/
def canElementBytes (id ctl tsc dt : Nat) (data : List Byte) : List Byte :=
  leBytes 4 (id % 2 ^ 31) ++ leBytes 4 ctl ++ leBytes 4 tsc ++ leBytes 4 0 ++ leBytes 8 dt ++ leBytes 8 0 ++ slice data 0 64

/-- Bytes stand in the message RAM. -/
def State.canStore (s : State) (k o : Nat) (bs : List Byte) : State :=
  (List.range (bs.length / 4)).foldl (fun s i => s.setNum (canRam k (o + 4 * i)) (u32 bs (4 * i))) s

/-- A frame is lost (R610 to R612). -/
def State.canLost (s : State) (k : Nat) : State := (s.bump (Reg.canLost k) 31 0 1).raise (canSource k 7)

/-- R611: a frame for FIFO `f`. -/
def State.canFifo (s : State) (k f : Nat) (bs : List Byte) : State :=
  let r := if f = 0 then Reg.canF0stat k else Reg.canF1stat k
  let base := if f = 0 then 0x2800 else 0x3400
  let fill := s.fld r 21 16
  let get := s.fld r 4 0
  if fill < 32 then ((s.canStore k (base + 0x60 * ((get + fill) % 32)) bs).setFld r 21 16 (fill + 1)).raise (canSource k 4)
  else if s.canFlag k (5 + f) then
    (((s.canStore k (base + 0x60 * get) bs).setFld r 4 0 ((get + 1) % 32)).canLost k).raise (canSource k 4)
  else s.canLost k

/-- R610: a frame for a receive buffer. -/
def State.canIntoBuffer (s : State) (k b : Nat) (bs : List Byte) : State :=
  let s := if s.pairBit (Reg.canRxnewLo k) (Reg.canRxnewHi k) b then s.canLost k else s
  ((s.canStore k (canBuffer b) bs).setPairBit (Reg.canRxnewLo k) (Reg.canRxnewHi k) b true).raise (canSource k 4)

/-- R612: an overwritten high-priority buffer is counted in CAN.LOST; of sources the rule names the buffer's alone. -/
def State.canIntoHp (s : State) (k h : Nat) (bs : List Byte) : State :=
  let s := if s.flag (Reg.canHpstat k) h then s.bump (Reg.canLost k) 31 0 1 else s
  let s := (s.canStore k (0x4000 + 0x60 * h) bs).setFlag (Reg.canHpstat k) h true
  (s.raise (canSource k h)).offerEvent 1 (4 * k + h)

/-- R609: FUS streams and the Latch are offered an accepted frame. -/
def State.canOffer (s : State) (k id : Nat) (data : List Byte) : State :=
  let i := FrameInput.can k (id % 2 ^ 30)
  let s := s.fusCan k id s.now data
  if s.latchOffered i || (Lfr.type data == Frame.status && s.statusKnown i) then s.latchFrameIn i data else s

/-- R608: a frame without error. The filter number of a frame that no element accepted is not stated: a free value. -/
def execCanFrame (controller id ctl : Nat) (data : List Byte) (errors : CanErrors) (s : State) : Reply :=
  let k := controller % 4
  if s.canRuns k = false ∨ s.canIs k Can.busOff = true then .next s
  else
    let s := s.setCanErrors k errors
    let (s, action, target, number) := match (List.range 128).find? fun f => (s.canElement k f).accepts id with
      | some f => (s, (s.canElement k f).action, (s.canElement k f).target, f)
      | none =>
        let (s, w) := s.free
        (s, u8 s.linkStruct (canEntry k + 2) / 8 % 4 % 3, 0, w.toNat % 128)
    let bs := canElementBytes id (ctl % 128 + 256 * number) s.canTsc (stampWord s.now) data
    let s := if 1 ≤ action ∧ action ≤ 5 then s.canOffer k id data else s
    .next (
      if action = 1 then s.canFifo k 0 bs
      else if action = 2 then s.canFifo k 1 bs
      else if action = 3 then s.canIntoBuffer k target bs
      else if action = 4 then s.canIntoHp k (target % 4) bs
      else s)

/-- R611: entries consumed; a count above the fill level is clamped to it. -/
def execFifoAck (who : Who) (controller fifo : Nat) (value : Word) (s : State) : Reply :=
  let k := controller % 4
  let r := if fifo % 2 = 0 then Reg.canF0stat k else Reg.canF1stat k
  .next (s.gated who (if fifo % 2 = 0 then Reg.canF0ack k else Reg.canF1ack k) value fun s =>
    let n := min (field value 5 0) (s.fld r 21 16)
    (s.setFld r 4 0 ((s.fld r 4 0 + n) % 32)).setFld r 21 16 (s.fld r 21 16 - n))

/-- R612: a write of CAN.HPREL. -/
def execHprel (who : Who) (controller : Nat) (value : Word) (s : State) : Reply :=
  let k := controller % 4
  .next (s.gated who (Reg.canHprel k) value fun s => (bitsOf value.toNat 4).foldl (fun s h => s.setFlag (Reg.canHpstat k) h false) s)

/-! ### Errors, recovery, mode (R618, R619) -/

/-- A controller begins its recovery (R618). -/
def State.startRecovery (s : State) (k : Nat) : State :=
  { s with can := { s.can with recovering := s.can.recovering.set k true, recoverFrom := s.can.recoverFrom.set k s.chip.ran } }

/-- R618: the controller goes bus-off. -/
def State.canBusOff (s : State) (k : Nat) (errors : CanErrors) : State :=
  if s.canRuns k = false ∨ s.canIs k Can.busOff = true ∨ s.canIs k Can.restricted = true then s
  else
    let s := (s.setCanErrors k errors).setFlag (Reg.canStatus k) Can.busOff true
    let s : State := { s with can := { s.can with onBus := s.can.onBus.set k 0, recovering := s.can.recovering.set k false } }
    let s := if s.canFlag k 2 then s.startRecovery k else s
    (s.raise (canSource k 6)).blockEvent 0x1E (0x2B + k) 0 Act.none 0 k

def execBusOff (controller : Nat) (errors : CanErrors) (s : State) : Reply := .next (s.canBusOff (controller % 4) errors)

/-- A write of CAN.CTRL: MODE, RETRY, RECOVER, LOCK. -/
def State.writeCanCtrl (s : State) (k : Nat) (v : Word) : State :=
  let r := Reg.canCtrl k
  let s := s.setNum r (v.toNat % 2 + field v 7 4 * 16 + ofBool (s.flag r 8 || bit v.toNat 8) * 256)
  let s := if bit v.toNat 1 && s.canIs k Can.busOff && !s.can.recovering.get k then s.startRecovery k else s
  (s.canMode k (bit v.toNat 0)).canStart k

/-- R618: a write of CAN.CTRL.RECOVER. -/
def execRecover (who : Who) (controller : Nat) (value : Word) (s : State) : Reply :=
  let k := controller % 4
  .next (s.gated who (Reg.canCtrl k) value fun s => s.writeCanCtrl k value)

/-- The least time of 128 occurrences of 11 recessive bits, in units of 2^-32 ns: nominal bits of CAN clocks of 12.5 ns (R606, R618). -/
def State.recoveryTime (s : State) (k : Nat) : Nat :=
  let n := s.num (Reg.canNbt k)
  128 * 11 * ((n / 2 ^ 23 + 1) * (3 + n / 2 ^ 8 % 2 ^ 8 + n % 2 ^ 7)) * 25 * 2 ^ 32 / 2

/-- R618: recovery is complete, and the controller rejoins the bus; not before the recessive bits had their time. -/
def execRecoveryDone (controller : Nat) (s : State) : Reply :=
  let k := controller % 4
  if s.canRuns k && s.canIs k Can.busOff && s.can.recovering.get k then
    let s := s.elapse (s.ticksUntil (s.can.recoverFrom.get k + s.recoveryTime k))
    let s : State := { s with can := { s.can with recovering := s.can.recovering.set k false } }
    let s := ([Can.busOff, Can.passive, Can.warn] : List Nat).foldl (fun s b => s.setFlag (Reg.canStatus k) b false) (s.setNum (Reg.canEcr k) 0)
    .next ((s.raise (canSource k 6)).canStart k)
  else .next s

end Sys2Proof.Machine
end

