-- ==== Sys2Proof/Machine/Inj.lean ====
section
/-! DEFINITION. Injection requests (18): R678 to R683, and a lockstep mismatch (01, 08): R29, R374. -/
namespace Sys2Proof.Machine

/-- The state a meaning answers, or the one before where it answers none. -/
def Reply.stateOr (s : State) (r : Reply) : State := match r with
  | .next t => t
  | .fault _ => s
  | .refused _ => s

/-! ### A lockstep mismatch (R29, R374) -/

/-- SYS.PAIRS shows both cores of a pair halted. -/
def State.haltPair (s : State) (k : Nat) : State := (s.setFlag Reg.sysPairs (8 + 2 * k) true).setFlag Reg.sysPairs (9 + 2 * k) true

/-- The cores of a pair are halted, source 3 rises, and its tasks move, or the Control region fences (R28, R374). -/
def State.lockstepFails (s : State) (k pc : Nat) : State :=
  let m := 2 * k
  if !(decide (k < 4) && s.paired k && !s.coreHalted m && s.awake && !s.fenced Region.control) then s
  else
    let s := (((s.haltPair k).raise 3).showCores).pauseCore m
    let (s, t) := s.detect { det := 8, level := 2, loc := location 0 (0x80 + m) 0, init := some m, action := Act.halted, detail := pc % 2 ^ 32 }
    match s.replaceTasks m with
    | some u => u.detected { det := 8, level := 3, loc := location 0 0xFF 0, action := Act.replaced, parent := some t }
    | none => s.fence Region.control 8 (some t) false

/-- R29. -/
def execLockstepMismatch (pair pc : Nat) (s : State) : Reply := .next (s.lockstepFails pair pc)

/-! ### Locations (R671, R682) -/

def locRegion (l : Nat) : Nat := l / 2 ^ 28 % 16
def locBlock (l : Nat) : Nat := l / 2 ^ 20 % 256
def locCell (l : Nat) : Nat := l % 2 ^ 20

/-- Banks of the memory a BLOCK names; 0 for a memory the variant lacks. -/
def State.banksOf (s : State) (block : Nat) : Nat :=
  if block = 0xC0 then s.variant.stockBanks
  else if block = 0xC1 then 16 * s.variant.cores
  else if block = 0xC2 then (if s.variant.latheStore = 0 then 0 else if s.variant.latheStore = 0x800000 then 128 else 64)
  else if block = 0xC3 then ofBool s.variant.hasFus * 128
  else if block = 0xC4 then 1
  else if block = 0xC5 then ofBool s.variant.hasDdr
  else 0

/-- The region a memory's BLOCK stands in. -/
def memoryRegion (block : Nat) : Nat :=
  if block = 0xC0 then 0xF else if block = 0xC1 then 0 else if block = 0xC2 then 1 else if block = 0xC3 then 2 else if block = 0xC4 then 4 else 3

/-- A location names an instance of a detector (R668, R682). -/
def State.injectionPoint (s : State) (det l : Nat) : Bool :=
  let r := locRegion l
  let b := locBlock l
  let c := locCell l
  let memory := fun (blocks : List Nat) => blocks.contains b && r == memoryRegion b && decide (c < s.banksOf b)
  let one := fun (r' b' : Nat) => r == r' && b == b' && c == 0
  let cells := fun (r' b' n : Nat) => r == r' && b == b' && decide (c < n)
  let core := r == 0 && decide (0x80 ≤ b) && decide (b < 0x80 + s.variant.cores) && c == 0
  let lathe := r == 1 && decide (0x10 ≤ b) && decide (b < 0x10 + s.variant.lathes)
  let region := decide (r < 4) && b == 0xFF && c == 0
  let can := r == 3 && decide (0x2B ≤ b) && decide (b < 0x2B + s.variant.cans) && c == 0
  let link := r == 3 && decide (0x28 ≤ b) && decide (c < 4) && b == 0x28 + c / 2 && s.linkExists c
  if det = 1 ∨ det = 2 then memory [0xC0, 0xC1, 0xC2, 0xC3]
  else if det = 3 ∨ det = 4 then memory [0xC4]
  else if det = 5 ∨ det = 6 then memory [0xC5]
  else if det = 7 then core
  else if det = 8 then core && s.paired ((b - 0x80) / 2)
  else if det = 9 ∨ det = 0x0A then cells 0 0x18 s.ntask
  else if det = 0x0B then cells 0 0x19 s.nloop
  else if det = 0x0C ∨ det = 0x0D ∨ det = 0x0F then lathe && c == 0
  else if det = 0x0E then lathe && decide (c < s.variant.cellsPerLathe)
  else if det = 0x10 then cells 1 0x14 (max 1 s.nchild) && s.variant.hasFed
  else if det = 0x11 then cells 2 0x20 s.ngraph
  else if det = 0x12 then r == 2 && decide (0x8C ≤ b) && decide (b < 0x8C + s.variant.fusion) && c == 0
  else if det = 0x13 then one 4 0x8E
  else if det = 0x14 then one 4 0x8F
  else if det = 0x15 then one 4 6
  else if det = 0x16 ∨ det = 0x1D then region
  else if det = 0x17 then one 0xF 0xFF
  else if det = 0x18 ∨ det = 0x19 ∨ det = 0x1C ∨ det = 0x2A then one 4 1
  else if det = 0x1A then one 3 0xFF
  else if det = 0x1B then one 0 0xFF || one 2 0xFF
  else if det = 0x1E ∨ det = 0x1F then can
  else if det = 0x20 ∨ det = 0x21 then link
  else if det = 0x22 ∨ det = 0x23 then cells 4 7 64 && s.latchUsed c
  else if det = 0x24 then one 4 2
  else if det = 0x25 then one 4 5
  else if det = 0x26 then cells 4 0x0B s.wardHolders
  else if det = 0x27 then memory [0xC0, 0xC1, 0xC2, 0xC3, 0xC4, 0xC5] || (decide (b ≤ 0x34) && !s.variant.windowAbsent b && r == regionOfReg (b * 0x10000))
  else if det = 0x28 then cells 2 0x0A 8 && s.spinUsed c
  else if det = 0x29 then one 4 9
  else if det = 0x2C then cells 4 6 2 && s.peerUsed c
  else false

/-- LIVE is permitted for the detector in every lifecycle state that permits injection (R668). -/
def liveAll (det : Nat) : Bool :=
  !(([0x08, 0x09, 0x0E, 0x0F, 0x12, 0x13, 0x14, 0x15, 0x16, 0x17, 0x18, 0x19, 0x1A, 0x1C, 0x1D, 0x23, 0x2A, 0x2B] : List Nat).contains det)

/-- LIVE is permitted to an initiator for a detector (R678). -/
def State.livePermitted (s : State) (w : Who) (det : Nat) : Bool :=
  if s.life = Life.factory ∨ s.life = Life.service then true
  else if s.life = Life.provisioned then liveAll det
  else if s.life = Life.field then w.isWarden && liveAll det
  else false

/-! ### LIVE (R679) -/

/-- The lowest chuck of a Lathe that runs a descriptor. -/
def State.runningChuck (s : State) (n : Nat) : Option (Nat × LatheRun) :=
  (List.range 64).findSome? fun c => (s.chuckRun n c).map fun r => (c, r)

/-- A running descriptor of a Lathe completes with a code; with none running the event is only recorded (log entry 47). -/
def State.endSomeRun (s : State) (n det code : Nat) : State := match s.runningChuck n with
  | some (c, r) => s.endRun n c r code {}
  | none => s.blockEvent det (0x10 + n) 0 Act.refused code 0

/-- The condition of a detector at a location, as if its source had raised it. -/
def State.liveEvent (s : State) (det l : Nat) : State :=
  let r := locRegion l
  let b := locBlock l
  let c := locCell l
  if det = 8 then
    let (s, pc) := s.free
    s.lockstepFails ((b - 0x80) / 2) pc.toNat
  else if det = 9 then s.taskFaults c
  else if det = 0x0A then s.overrun c
  else if det = 0x0B then (s.cleMiss c).raise 224
  else if det = 0x0C then s.endSomeRun (b - 0x10) 0x0C Lth.deadlineMiss
  else if det = 0x0D then s.endSomeRun (b - 0x10) 0x0D Lth.breakdown
  else if det = 0x0E then (execLatheCellFault (b - 0x10) c s).stateOr s
  else if det = 0x0F then (execSequencerHalt (b - 0x10) s).stateOr s
  else if det = 0x10 then (if c < s.nchild then s.childMisses c else s.fedMiss)
  else if det = 0x11 then s.blockEvent 0x11 0x20 c Act.none 0 c
  else if det = 0x12 then (execFusionEngineHalt (b - 0x8C) s).stateOr s
  else if det = 0x13 ∨ det = 0x14 ∨ det = 0x15 ∨ det = 0x17 ∨ det = 0x19 ∨ det = 0x1C then s.chipEvent det false
  else if det = 0x18 then (s.raise 11).chipEvent 0x18 false
  else if det = 0x16 then s.fence r 0x16 none false
  else if det = 0x1A then (s.raise 10).fence 3 0x1A none false
  else if det = 0x1B then s.tempHigh r
  else if det = 0x1D then (execTimingMarginFault r false s).stateOr s
  else if det = 0x1E then
    let k := b - 0x2B
    s.canBusOff k { tec := s.fld (Reg.canEcr k) 7 0, recv := s.fld (Reg.canEcr k) 15 8, last := 0 }
  else if det = 0x1F then (s.raise (canSource (b - 0x2B) 6)).blockEvent 0x1F b 0 Act.none 0 (b - 0x2B)
  else if det = 0x21 then s.retrainLink c
  else if det = 0x22 then s.latchDropped c
  else if det = 0x23 then (execLatchStuck c s).stateOr s
  else if det = 0x24 ∨ det = 0x27 then
    let (s, code) := s.free
    s.detected { det := det, level := 2, loc := l, action := Act.refused, code := code.toNat % 65536 }
  else if det = 0x25 then s.detected { det := det, level := 2, loc := l, action := Act.refused, code := KeyCode.misuse }
  else if det = 0x26 then s.exhaust c 4
  else if det = 0x28 then s.stallNow (c % 8)
  else if det = 0x29 then s.enterHoldover
  else if det = 0x2A then (execPowerFailWarning s).stateOr s
  else if det = 0x2C then s.losePeer c
  else s

/-! ### SHADOW (R679) -/

/-- The level at which a detector acts (R668). -/
def detectorLevel (det : Nat) : Nat :=
  if ([1, 3, 5, 7, 0x0E, 0x20, 0x22, 0x23, 0x26] : List Nat).contains det then 1
  else if ([0x16, 0x1A, 0x1B, 0x1D] : List Nat).contains det then 3
  else if ([0x13, 0x14, 0x15, 0x17, 0x18, 0x19, 0x1C] : List Nat).contains det then 4
  else 2

/-- The action a detector takes at its level (R668); that of a chip-level one is the chip's decision. -/
def State.detectorAction (s : State) (det l : Nat) : Nat :=
  if det = 8 then Act.halted
  else if det = 9 then Act.stopped
  else if det = 0x0A then
    let d := s.taskDef (locCell l)
    if d.ovrLimit ≠ 0 ∧ d.ovrLimit ≤ s.fld (Reg.tskTstate (locCell l)) 15 0 + 1 then Act.stopped else Act.none
  else if det = 0x0C ∨ det = 0x0D ∨ det = 0x24 ∨ det = 0x25 ∨ det = 0x27 then Act.refused
  else if det = 0x0F ∨ det = 0x16 ∨ det = 0x1A then Act.fenced
  else if det = 0x12 then Act.replaced
  else if det = 0x20 ∨ det = 0x21 then Act.retried
  else if det = 0x28 ∨ det = 0x29 then Act.substituted
  else Act.none

/-- A detector's own block or cell level cannot contain the event, and its region would fence (R28, R307, R374; 10). -/
def State.shadowFences (s : State) (det l : Nat) : Bool :=
  if det = 8 then ((s.haltPair ((locBlock l - 0x80) / 2)).replaceTasks ((locBlock l - 0x80) / 2 * 2)).isNone
  else if det = 0x12 then
    let e := locBlock l - 0x8C
    !((List.range s.ngraph).filter fun g => s.fld (Reg.fusGcfg g) 29 28 == e).all fun g => s.graphByte g 1 % 4 == 3 && s.flag Reg.fusStatus (31 - e)
  else det == 0x0F

/-- A fence decided in SHADOW: the record of the region level, and that of the chip. -/
def State.shadowFence (s : State) (det r : Nat) (parent : Option Nat) : State :=
  let (s, t) := s.detect { det := det, level := 3, loc := location r 0xFF 0, action := Act.fenced, parent := parent, shadow := true }
  s.chipRecord { det := det, level := 4, loc := location 0xF 0xFF 0, action := s.chipAction det, parent := some t, shadow := true }

/-- The condition of a detector at a location in SHADOW: every level decides, and only the records stand. -/
def State.shadowEvent (s : State) (det l : Nat) : State :=
  let lv := detectorLevel det
  if lv = 4 then s.chipRecord { det := det, level := 4, loc := location 0xF 0xFF 0, action := s.chipAction det, shadow := true }
  else if det = 0x16 ∨ det = 0x1A then s.shadowFence det (locRegion l) none
  else if det = 0x0E ∨ det = 0x23 then s.cellFails det (locBlock l) (locCell l) true
  else
    let code := if det = 0x0C then Lth.deadlineMiss else if det = 0x0D then Lth.breakdown else if det = 0x25 then KeyCode.misuse else 0
    let (s, code) := if det = 0x24 ∨ det = 0x27 then (s.free.1, s.free.2.toNat % 65536) else (s, code)
    let (s, pc) := if det = 8 then (s.free.1, s.free.2.toNat) else (s, locCell l)
    let fences := s.shadowFences det l
    let init := if det = 8 then some ((locBlock l - 0x80) / 2 * 2) else none
    let where_ := if det = 8 then location 0 (0x80 + (locBlock l - 0x80) / 2 * 2) 0 else l
    let (s, t) := s.detect { det := det, level := lv, loc := where_, init := init, action := s.detectorAction det l, code := code, detail := pc, shadow := true }
    if fences then s.shadowFence det (if det = 8 then 0 else if det = 0x12 then 2 else 1) (some t)
    else if det = 8 then
      s.detected { det := 8, level := 3, loc := location 0 0xFF 0, action := Act.replaced, parent := some t, shadow := true }
    else s

/-! ### Requests (R681, R682, R686) -/

/-- Detectors that take their occurrences from reads or packets. -/
def waitsForPoint (det : Nat) : Bool := (decide (1 ≤ det) && decide (det ≤ 7)) || det == 0x20

/-- The point has no opportunity: its region is fenced, the pair or the engine it watches halted, the cell or the channel out of service. -/
def State.pointRests (s : State) (det l : Nat) : Bool :=
  let c := locCell l
  s.fenced (locRegion l) || (det == 8 && s.coreHalted ((locBlock l - 0x80) / 2 * 2)) ||
    (det == 0x0E && s.flag (Reg.lthCellfail (locBlock l - 0x10) (c / 32)) (c % 32)) ||
    (det == 0x12 && !s.flag Reg.fusStatus (30 + (locBlock l - 0x8C))) || (det == 0x23 && (s.latchChannel c).stuck)

/-- The occurrences of a request whose opportunities are at hand, one after the other; where none is left, the request waits. -/
def State.presentAll : Nat → State → State
  | 0, s => s
  | n + 1, s =>
    match s.inj.run with
    | none => s
    | some q => if s.pointRests q.det q.loc then s else State.presentAll n (s.occurrence q fun s => if q.live then s.liveEvent q.det q.loc else s.shadowEvent q.det q.loc)

/-- Why a request is refused (R682). -/
def State.injectionRefusal (s : State) (w : Who) (det l : Nat) (live : Bool) : Option Nat :=
  if s.life = Life.field ∧ w.isWarden = true ∧ s.hinge.proofRuns = false then some Inj.notPermitted
  else if s.inj.run.isSome then some Inj.busy
  else if live && !s.livePermitted w det then some Inj.liveDenied
  else if !s.injectionPoint det l then some Inj.noPoint
  else if s.fenced (locRegion l) then some Inj.fenced
  else none

/-- A keyed write of INJ.GO (R686); COUNT below 1 is taken as 1 (R709). -/
def State.injectGo (s : State) (w : Who) (v : Word) : State :=
  if field v 31 16 ≠ 0x494A ∨ bit v.toNat 0 = false then s
  else
    let det := s.num (bankOf w.id Reg.injTarget) % 65536
    let l := s.num (bankOf w.id Reg.injLoc)
    let addr := s.num (bankOf w.id Reg.injAddrLo) / 8 * 8 + s.num (bankOf w.id Reg.injAddrHi) % 256 * 2 ^ 32
    let live := bit v.toNat 1
    match s.injectionRefusal w det l live with
    | some r => s.injResult w.id true r
    | none =>
      let n := max 1 (field v 15 8)
      let q : InjRequest := { who := w.id, det := det, loc := l, addr := addr, remaining := n, live := live, start := s.chip.up }
      let s := { s with inj := { s.inj with run := some q, tags := s.inj.tags.set w.id 0 } }.showInj
      let s := s.setNum (bankOf w.id Reg.injResult) 0
      if waitsForPoint det then s else State.presentAll n s

/-- R679: a write of INJ.GO, LIVE. -/
def execInjectLive (who : Who) (value : Word) (s : State) : Reply := .next (s.gated who Reg.injGo value fun s => s.injectGo who value)

/-- R679: a write of INJ.GO, SHADOW. -/
def execInjectShadow (who : Who) (value : Word) (s : State) : Reply := .next (s.gated who Reg.injGo value fun s => s.injectGo who value)

end Sys2Proof.Machine
end

