-- ==== Sys2Proof/Machine/Hinge.lean ====
section
/-! DEFINITION. HNG.CMD, HNG.CLEAR, the role at mount, and proof runs (12, 18): R494, R499, R502, R512, R516 to R518, R532, R684. -/
namespace Sys2Proof.Machine

/-! ### Proof runs (R516 to R518, R684) -/

/-- R517: a proof run waits. -/
def State.proofDeferred (s : State) : Bool :=
  (([0, 1] : List Nat).any fun p => s.heard p && (s.peerState p == Unit.proof || s.peerState p == Unit.notReady)) ||
    !([0, 1] : List Nat).any fun p => s.heard p && s.peerState p == Unit.active

/-- The Hinge, and the Warden, as readers of the words a proof run picks. -/
def Who.hinge : Who := { id := Init.hinge, mmode := true, vc := 0 }
def Who.warden : Who := { id := Init.warden, mmode := true, vc := 0 }

/-- Step 1: a word of an SRAM that reads as corrected; which word, the spec leaves open. -/
def State.proofCorrect (s : State) (base len : Nat) : State :=
  let (s, w) := s.free
  s.proofOccurrence fun s => s.correctWord Who.hinge 0 (base + w.toNat % len / 8 * 8)

/-- A step in SHADOW. -/
def State.proofShadow (det : Nat) (s : State) (l : Nat) : State := s.proofOccurrence fun s => s.shadowEvent det l

/-- The scratch area at the end of CKBUF. -/
def State.proofScratch (s : State) : Nat := s.ckbuf + (s.ckbufLen - 65536)

/-- R684, steps 1 to 9; step 9 takes the next packet of each link that is UP. A step without an instance is left out. -/
def State.proofSteps (s : State) : State :=
  let s := s.proofCorrect Addr.stock s.variant.stockBytes
  let s := (List.range s.variant.cores).foldl (fun s c => s.proofCorrect (Addr.core + 0x100000 * c) 0x100000) s
  let a := s.proofScratch
  let s := if s.hasHinge && memoryKind a == some 0 then s.proofOccurrence fun s => s.recordBadWord (some Who.warden) 0 a true else s
  let s := ((List.range (s.variant.cores / 2)).filter s.paired).foldl (fun s k => State.proofShadow 8 s (location 0 (0x80 + 2 * k) 0)) s
  let s := (List.range s.variant.lathes).foldl (fun s n => State.proofShadow 0x0E s (location 1 (0x10 + n) 0)) s
  let s := (List.range 4).foldl (fun s r => State.proofShadow 0x16 s (location r 0xFF 0)) s
  let s := State.proofShadow 0x13 s (location 4 0x8E 0)
  let s := State.proofShadow 0x15 s (location 4 6 0)
  let s := State.proofShadow 0x18 s (location 4 1 0)
  { s with inj := { s.inj with proofLinks := ((List.range 4).filter s.linkUp).foldl (fun m l => setBit m l) 0 } }

/-- R684, step 10. -/
def State.proofLatch (s : State) : State := match (List.range 64).find? s.latchUsed with
  | some c => State.proofShadow 0x22 s (location 4 7 c)
  | none => s

/-- A proof run starts. -/
def State.startProof (s : State) : State :=
  (s.setHinge { s.hinge with proofRuns := true }).tell.proofSteps

/-- CLEAR_UNFIT and PROOF_NOW: a run at once, or once nothing defers it any more. -/
def State.askProof (s : State) (op : Nat) : State :=
  if s.mode ≠ Mode.standby then s.hingeResult Hng.wrongState
  else
    let s := (s.setHinge { s.hinge with proofAsked := op }).setNum Reg.hngCmdstat (2 ^ 31)
    if s.hinge.proofRuns || s.proofDeferred then s else s.startProof

/-- R516, R517: the interval has passed or a run was asked for, and nothing defers it; time passes up to then. -/
def execProofRun (s : State) : Reply :=
  if s.mode ≠ Mode.standby ∨ s.hinge.proofRuns = true then .next s
  else if s.hinge.proofAsked = 0 ∧ s.num Reg.hngProofInterval = 0 then .next s
  else
    let s := if s.hinge.proofAsked = 0 then
        s.elapse ((s.hinge.proofLast + s.num Reg.hngProofInterval * 1000000000 - s.chip.up + 3) / 4)
      else s
    .next (if s.proofDeferred then s else s.startProof)

/-- The tail's CRC-32 still fits the stored checkpoint. -/
def State.checkpointSound (s : State) (c : CheckpointHeld) : Bool :=
  let base := s.ckHalf c.half
  crc32 (s.bytes base (c.len - 16)) == s.mem32 (base + (c.len - 16))

/-- An item of the copied image equals what was applied of it; of an item of block state, restoring it again would change
nothing. -/
def State.sampleFits (s : State) (base off : Nat) (i : ImageItem) : Bool :=
  let n := min i.len (65536 - (off + 16))
  let d := s.bytes (base + off + 16) n
  let a := s.mem64 (base + off) % 2 ^ 40
  if 65536 ≤ off + 16 then true
  else match i.what with
    | .memory _ => s.bytes a n == d
    | .task _ => s.bytes a n == d
    | _ => n != i.len || (s.applyItem i a d).itemData i == s.itemData i

def State.samplesFit (s : State) (base : Nat) : List ImageItem → Nat → Bool
  | [], _ => true
  | i :: r, off => s.sampleFits base off i && State.samplesFit s base r (off + 16 + i.len)

/-- The sample restore: the first 64 KB of the stored image are copied into the scratch area. -/
def State.copySample (s : State) (c : CheckpointHeld) : State := s.engineWrite (engineWho Init.keeper) s.proofScratch (s.bytes (s.ckHalf c.half) (min 65536 c.len))

/-- The re-read and the sample restore of a run (R516); without a stored checkpoint there is nothing to read. -/
def State.proofRestore (s : State) : State × Bool := match s.hinge.stored with
  | none => (s, true)
  | some c =>
    let ok := s.checkpointSound c
    let s := s.copySample c
    (s, ok && (!c.applied || s.samplesFit s.proofScratch s.items 64))

/-- A run ends with a result: 0 is a pass (R516, R518). -/
def State.endProof (s : State) (pass : Bool) (code : Nat) : State :=
  let asked := s.hinge.proofAsked
  let unfit := !pass || (s.unfit && asked != 3)
  let s := s.setNum Reg.hngProof (2 ^ 31 + ofBool pass * 2 ^ 30 + (if pass then 0 else code % 65536))
  let r := s.hinge.record
  let first := if !pass then code % 65536 else if unfit then r.unfitCode else 0
  let s := s.writeHinge { r with unfit := unfit, unfitCode := first, proofTime := stampWord s.now }
  let s := s.setFlag Reg.hngStatus Hng.unfit unfit
  let s := if pass then s else s.raise 44
  let s := if asked = 0 then s else s.hingeResult (if pass then 0 else Hng.proofFailed)
  let s := s.dropProof
  ((s.setHinge { s.hinge with proofAsked := 0, proofLast := s.chip.up }).raise 45).tell

/-- R516, R518, R684: a run ends. A link that carried no packet in time fails step 9; the code of a checkpoint that does not fit is open. -/
def execProofRunEnd (failed : Nat) (s : State) : Reply :=
  if !s.hinge.proofRuns then .next s
  else if failed ≠ 0 then .next (s.endProof false failed)
  else if s.inj.proofLinks ≠ 0 then .next (s.endProof false 0x20)
  else
    let (s, ok) := s.proofLatch.proofRestore
    if ok then .next (s.endProof true 0)
    else
      let (s, code) := s.free
      .next (s.endProof false code.toNat)

/-! ### HNG.CMD (R532) -/

/-- R494: epochs start again. -/
def State.startEpochs (s : State) : State :=
  if s.life = Life.service ∧ s.claim = 0 then
    let s := s.setFld Reg.hngEpoch 23 0 0
    let s := s.writeHinge { s.hinge.record with claim := 0, floors := [], epochReset := true }
    let s := (s.setFlag Reg.hngStatus Hng.epochEnd false).hingeResult 0
    s.callReset
  else s.hingeResult Hng.wrongState

/-- A command by its OP; HANDOVER, CLEAR_UNFIT and PROOF_NOW are not taken while one of them is BUSY (DESIGN CHOICE, log entry 48). -/
def State.hingeCommand (s : State) (v : Word) : State :=
  let op := field v 3 0
  let busy := s.flag Reg.hngCmdstat 31
  if field v 31 16 ≠ 0x484E then s
  else if op = 1 then
    if s.claim = 0 then s.hingeResult Hng.notActive else s.yieldClaim.enterStandby.hingeResult 0
  else if op = 2 then
    if busy then s
    else if s.claim = 0 then (s.hingeResult Hng.notActive).raise 47
    else if !([0, 1] : List Nat).any s.peerUsed then (s.hingeResult Hng.noPeer).raise 47
    else ((s.setNum Reg.hngCmdstat (2 ^ 31)).wantHandover (field v 7 4) true).tell
  else if op = 3 ∨ op = 4 then
    if busy then s else s.askProof (if op = 3 then 3 else 2)
  else if op = 5 then s.startEpochs
  else s

/-- R502: OP YIELD. -/
def execYield (who : Who) (value : Word) (s : State) : Reply := .next (s.gated who Reg.hngCmd value fun s => s.hingeCommand value)

/-- R512: OP HANDOVER. -/
def execHandover (who : Who) (value : Word) (s : State) : Reply := .next (s.gated who Reg.hngCmd value fun s => s.hingeCommand value)

/-- R518: OP CLEAR_UNFIT. -/
def execClearUnfit (who : Who) (value : Word) (s : State) : Reply := .next (s.gated who Reg.hngCmd value fun s => s.hingeCommand value)

/-- R516: OP PROOF_NOW. -/
def execProofNow (who : Who) (value : Word) (s : State) : Reply := .next (s.gated who Reg.hngCmd value fun s => s.hingeCommand value)

/-- R494: OP RESET_EPOCH. -/
def execResetEpoch (who : Who) (value : Word) (s : State) : Reply := .next (s.gated who Reg.hngCmd value fun s => s.hingeCommand value)

/-- R532: a write of HNG.CLEAR zeroes HNG.COUNTS. -/
def execHngClear (who : Who) (value : Word) (s : State) : Reply :=
  .next (s.gated who Reg.hngClear value fun s => if bit value.toNat 0 then s.setNum Reg.hngCounts 0 else s)

/-! ### The role (R499) -/

/-- A peer that takes the active role before this unit (R499). -/
def State.peerLeads (s : State) (p : Nat) : Bool :=
  s.heard p && (s.peerState p == Unit.active ||
    (!s.peerUnfit p && decide (s.ownRank < s.peerRank p) &&
      (s.peerState p == Unit.mount || s.peerState p == Unit.ready || s.peerState p == Unit.notReady || s.peerState p == Unit.proof)))

/-- R499: 3 heartbeat periods after the Blank is loaded; time passes up to then. An UNFIT unit stays a standby (R518). -/
def execRoleDecision (s : State) : Reply :=
  if !(s.mode == Mode.mount && s.hingeRuns && !s.chip.roleKnown) then .next s
  else
    let s := s.elapse ((s.hinge.listen + s.hb3 - s.chip.up + 3) / 4)
    let stands := s.unfit || s.hinge.statusActive || ([0, 1] : List Nat).any s.peerLeads
    let s := if stands then s else s.takeClaim false
    let s : State := { s with chip := { s.chip with roleKnown := true, roleActive := s.claim != 0 } }
    .next s.tell

end Sys2Proof.Machine
end

