-- ==== Sys2Proof/Machine/Mbx.lean ====
section
/-! DEFINITION. Mailboxes and doorbells (16): R631 to R636. A channel's header is kept in MBX.HDR and at the start of its storage, its
words 16 bytes on. -/
namespace Sys2Proof.Machine

/-- A channel holds a message. -/
def State.channelFull (s : State) (c : Nat) : Bool := s.flag (Reg.mbxHdr c) 31
/-- The Stock address of word `i` of a channel. -/
def State.channelWord (s : State) (c i : Nat) : Nat := Addr.stock + s.channelStore c + 0x10 + 4 * i

/-- FULL of a channel in its header, in its storage and in MBX.FULL. -/
def State.setChannel (s : State) (c hdr : Nat) : State :=
  let s := (s.setNum (Reg.mbxHdr c) hdr).setFlag (Reg.mbxFullLo + 4 * (c / 32)) (c % 32) (bit hdr 31)
  s.poke32 (Addr.stock + s.channelStore c) hdr

/-- R631: the first LEN words of the initiator's message go into the channel, and the header is stamped. -/
def State.sendMessage (s : State) (w : Who) (c len : Nat) : State :=
  let n := min 16 len
  let s := (List.range n).foldl (fun s i => s.engineWrite w (s.channelWord c i) (leBytes 4 (s.num (bankOf w.id (Reg.mbxWdata i))))) s
  let q := (s.fld (Reg.mbxHdr c) 15 0 + 1) % 65536
  (s.setChannel c (2 ^ 31 + ofBool (s.secure w) * 2 ^ 30 + n * 2 ^ 24 + w.id % 256 * 2 ^ 16 + q)).raise (256 + c)

/-- R631, R632: a write of MBX.SEND; the channel's own rules are those of the register (Perm.mailboxSend). -/
def execMbxSend (who : Who) (value : Word) (s : State) : Reply :=
  .next (s.gatedOr who Reg.mbxSend value fun s =>
    if s.channelFull (field value 21 16) then .error Code.mbxFull else .ok (s.sendMessage who (field value 21 16) (field value 4 0)))

/-- R633: a read of MBX.POP returns the header and clears FULL. -/
def execPop (who : Who) (channel : Nat) (s : State) : Reply :=
  let c := channel % 64
  .next (s.gatedRead who (Reg.mbxPop c) fun s =>
    let h := s.num (Reg.mbxHdr c)
    (if s.channelFull c then s.setChannel c (clearBit h 31) else s, h))

/-- R634: a write of MBX.RING; the doorbell's own rule is that of the register (Perm.doorbell). -/
def execRing (who : Who) (value : Word) (s : State) : Reply :=
  .next (s.gated who Reg.mbxRing value fun s =>
    let d := field value 5 0
    ((s.setFlag (Reg.mbxDbLo + 4 * (d / 32)) (d % 32) true).raise (256 + d)).offerEvent 7 d)

end Sys2Proof.Machine
end

