-- ==== Sys2Proof/Machine/Plic.lean ====
section
/-! DEFINITION. The interrupt controller's registers (01, "Interrupts"): priorities, pending bits, enables, thresholds, claim and complete,
in the layout and with the meaning of the RISC-V PLIC specification, and what a context signals (R65). -/
namespace Sys2Proof.Machine

def State.sourcePriority (s : State) (n : Nat) : Nat := s.fld (Plic.priority n) 2 0
def State.sourceEnabled (s : State) (ctx n : Nat) : Bool := s.flag (Plic.enable ctx (n / 32)) (n % 32)

/-- The source goes before the best so far: a higher priority; among equals the lower number, met first. -/
def State.betterSource (s : State) (ctx : Nat) (best : Option Nat) (n : Nat) : Option Nat :=
  if !(s.pendingSource n && s.sourceEnabled ctx n) || s.sourcePriority n == 0 then best
  else
    match best with
    | none => some n
    | some b => if s.sourcePriority b < s.sourcePriority n then some n else best

/-- The pending source a context would claim. -/
def State.bestSource (s : State) (ctx : Nat) : Option Nat := (List.range 512).foldl (s.betterSource ctx) none

/-- The engine of a context is present, and no checker of a lockstep pair (R65). -/
def State.contextLives (s : State) (ctx : Nat) : Bool :=
  if ctx < 16 then decide (ctx / 2 < s.variant.cores) && !(ctx / 2 % 2 == 1 && s.paired (ctx / 4))
  else if ctx < 18 then decide (ctx - 16 < s.variant.fusion) else true

/-- The context signals an interrupt: a pending, enabled source lies above its threshold. -/
def State.contextSignals (s : State) (ctx : Nat) : Bool :=
  s.contextLives ctx &&
    match s.bestSource ctx with
    | some n => decide (s.fld (Plic.threshold ctx) 2 0 < s.sourcePriority n)
    | none => false

/-- A source is claimed: its pending bit falls, and an MSI-X vector mapped to it is told anew when it becomes pending again. -/
def State.claimSource (s : State) (n : Nat) : State :=
  let told := (List.range 64).foldl (fun m v => if s.fld (Reg.pciVmap v) 8 0 = n then clearBit m v else m) s.pci.told
  { s with plic := { pendingMask := clearBit s.plic.pendingMask n, claimed := setBit s.plic.claimed n }, pci := { s.pci with told := told } }

/-- A read of a PLIC register: a claim register answers the source it claims, 0 for none. -/
def State.plicRead (s : State) (off : Nat) : State × Nat :=
  let d := off - Plic.base
  if 0x200000 ≤ d ∧ d % 0x1000 = 4 then
    match s.bestSource ((d - 0x200000) / 0x1000) with
    | some n => (s.claimSource n, n)
    | none => (s, 0)
  else if 0x1000 ≤ d ∧ d < 0x1040 then (s, s.plic.pendingMask / 2 ^ (32 * ((d - 0x1000) / 4)) % 2 ^ 32)
  else (s, s.num off)

/-- A write of a PLIC register: priorities and thresholds hold 3 bits, source 0 has no enable, pending bits are read-only, and a
completion takes effect for a source enabled in the context. -/
def State.plicWrite (s : State) (off v : Nat) : State :=
  let d := off - Plic.base
  if d < 0x1000 then s.setNum off (v % 8)
  else if d < 0x2000 then s
  else if d < 0x200000 then s.setNum off (if (d - 0x2000) % 0x80 = 0 then v / 2 * 2 else v)
  else if d % 0x1000 = 0 then s.setNum off (v % 8)
  else if decide (v < 512) && s.sourceEnabled ((d - 0x200000) / 0x1000) v then
    { s with plic := { s.plic with claimed := clearBit s.plic.claimed v } }
  else s

end Sys2Proof.Machine
end

