-- ==== Sys2Proof/Machine/Rtc.lean ====
section
/-! DEFINITION. The calendar (04): BCD fields, coherent reads, commits, trim and its measurement (R213 to R228). -/
namespace Sys2Proof.Machine

/-! ### Calendar arithmetic: Gregorian, from 1970-01-01 (R215) -/

def leapYear (y : Nat) : Bool := (y % 4 == 0 && y % 100 != 0) || y % 400 == 0

def monthDays (y m : Nat) : Nat :=
  if m = 2 then (if leapYear y then 29 else 28) else if m = 4 ∨ m = 6 ∨ m = 9 ∨ m = 11 then 30 else 31

/-- Days from 1970-01-01 to a date of the years 1970 to 2399. -/
def daysOf (y m d : Nat) : Nat :=
  let p := y - 1
  (y - 1970) * 365 + (p / 4 - 492) + (p / 400 - 4) - (p / 100 - 19) +
    ((List.range (m - 1)).foldl (fun n k => n + monthDays y (k + 1)) 0) + (d - 1)

/-- The year of a day number: the largest whose first day is not after it. -/
def yearOf (days : Nat) : Nat :=
  let g := 1970 + days / 366
  (List.range 3).foldl (fun y _ => if daysOf (y + 1) 1 1 ≤ days then y + 1 else y) g

/-- Month and day within a year, from the day of the year. -/
def monthOf (y : Nat) : Nat → Nat → Nat → Nat × Nat
  | 0, m, d => (m, d + 1)
  | fuel + 1, m, d => if d < monthDays y m then (m, d + 1) else monthOf y fuel (m + 1) (d - monthDays y m)

/-- Two BCD digits, and the number of two. -/
def toBcd (n : Nat) : Nat := n / 10 % 10 * 16 + n % 10
def ofBcd (b : Nat) : Nat := b / 16 * 10 + b % 16
def validBcd (b : Nat) : Bool := decide (b % 16 < 10) && decide (b / 16 % 16 < 10)

/-- The cell's fields of a time in seconds since 1970. -/
def calSec (t : Nat) : Nat := toBcd (t % 60)
def calMin (t : Nat) : Nat := toBcd (t / 60 % 60)
def calHour (t : Nat) : Nat := toBcd (t / 3600 % 24)
/-- 1 Monday to 7 Sunday; 1970-01-01 was a Thursday. -/
def calWday (t : Nat) : Nat := (t / 86400 + 3) % 7 + 1
def calYearNum (t : Nat) : Nat := yearOf (t / 86400)
def calMonthDay (t : Nat) : Nat × Nat := monthOf (calYearNum t) 12 1 (t / 86400 - daysOf (calYearNum t) 1 1)
def calDay (t : Nat) : Nat := toBcd (calMonthDay t).2
def calMonth (t : Nat) : Nat := toBcd (calMonthDay t).1
def calYear (t : Nat) : Nat := toBcd (calYearNum t / 100) * 256 + toBcd (calYearNum t % 100)

/-- The first second after 2399. -/
def calEnd : Nat := daysOf 2400 1 1 * 86400

/-! ### Reads (R217 to R219) -/

/-- The cell's time an initiator reads: its snapshot, or the live one. -/
def State.cellFor (s : State) (id : Nat) : Nat × Nat :=
  match s.rtc.cellSnaps.get id with
  | some x => (x.sec, x.tick)
  | none => (s.rtc.cellSec, s.rtc.cellTick)
def State.blockFor (s : State) (id : Nat) : Nat × Nat :=
  match s.rtc.blockSnaps.get id with
  | some x => (x.sec, x.tick)
  | none => (s.rtc.blockSec, s.rtc.blockTick)

/-- R217: a read of RTC.SUBSEC takes the snapshot of the cell and clears the initiator's FREEZE_EXPIRED (R219). -/
def execRtcSubsecRead (who : Who) (s : State) : Reply :=
  .next (s.gatedRead who Reg.rtcSubsec fun s =>
    let x : RtcSnap := { sec := s.rtc.cellSec, tick := s.rtc.cellTick, taken := s.chip.ran }
    ({ s with rtc := { s.rtc with cellSnaps := s.rtc.cellSnaps.set who.id (some x), expired := s.rtc.expired.set who.id false } },
     s.rtc.cellTick / 128))

/-- R218: a read of RTC.FRAC takes the snapshot of the block; FRAC counts 2 each tick (R213). -/
def execRtcFracRead (who : Who) (s : State) : Reply :=
  .next (s.gatedRead who Reg.rtcFrac fun s =>
    let x : RtcSnap := { sec := s.rtc.blockSec, tick := s.rtc.blockTick, taken := s.chip.ran }
    ({ s with rtc := { s.rtc with blockSnaps := s.rtc.blockSnaps.set who.id (some x), expired := s.rtc.expired.set who.id false } },
     2 * s.rtc.blockTick))

/-- R217, R218: the last read of a snapshot returns it and ends it. -/
def execRtcSnapshotEnd (who : Who) (cell : Bool) (s : State) : Reply :=
  .next (s.gatedRead who (if cell then Reg.rtcYear else Reg.rtcSecHi) fun s =>
    if cell then
      ({ s with rtc := { s.rtc with cellSnaps := s.rtc.cellSnaps.set who.id none } }, calYear (s.cellFor who.id).1)
    else
      ({ s with rtc := { s.rtc with blockSnaps := s.rtc.blockSnaps.set who.id none } },
       (s.blockFor who.id).1 / 2 ^ 32))

/-- R219: a snapshot not ended within 1 s is released; time passes until it has stood for 1 s. -/
def execFreezeExpired (id : Nat) (cell : Bool) (s : State) : Reply :=
  .next (match (if cell then s.rtc.cellSnaps.get id else s.rtc.blockSnaps.get id) with
    | none => s
    | some x => s.elapse (s.ticksUntil (x.taken + secondUnits)))

/-! ### The cell's boundaries -/

/-- Cell ticks that `c` crystal cycles give. -/
def RtcState.ticksIn (r : RtcState) (c : Nat) : Nat :=
  let extra := (r.trimAcc + c * r.trimSize) / 2 ^ 23
  if r.trimPositive then c + extra else c - extra

/-- The least number of crystal cycles that give `ticks` cell ticks. -/
def RtcState.cyclesFor (r : RtcState) (ticks : Nat) : Nat :=
  let t := r.trimSize
  let about := if r.trimPositive then (ticks * 2 ^ 23 - r.trimAcc) / (2 ^ 23 + t) else (ticks * 2 ^ 23 + r.trimAcc) / (2 ^ 23 - t)
  (((List.range 5).map (about - 2 + ·)).find? fun c => decide (ticks ≤ r.ticksIn c)).getD (about + 3)

/-- Time passes until the cell has ticked `ticks` times more. -/
def State.cellElapse (s : State) (ticks : Nat) : State :=
  if ticks = 0 then s else s.elapse ((s.rtc.cyclesFor ticks * 250000000 - s.rtc.phase + 32767) / 32768)

/-! ### The minute's comparison (R214) -/

def Rtc.busy : Nat := 30
def Rtc.err : Nat := 29
def Rtc.measBusy : Nat := 27
def Rtc.measAbort : Nat := 26
def Rtc.drift : Nat := 25

/-- R214: at the cell's second boundary that begins a minute, up to which time passes, the block that differs from the cell reloads from it, sets
DRIFT and raises source 61. -/
def execRtcCompare (s : State) : Reply :=
  let s := s.cellElapse ((60 * 32768 - (s.rtc.cellSec % 60 * 32768 + s.rtc.cellTick)) % (60 * 32768))
  if s.rtc.blockSec = s.rtc.cellSec ∧ s.rtc.blockTick = s.rtc.cellTick then .next s
  else
    let s := { s with rtc := { s.rtc with blockSec := s.rtc.cellSec, blockTick := s.rtc.cellTick } }
    .next ((s.setFlag Reg.rtcStatus Rtc.drift true).raise 61)

/-! ### Commits (R221 to R224) -/

/-- R221, R224: a keyed write of RTC.COMMIT stages a load; while one waits it ends in DENIED. -/
def execCommit (who : Who) (value : Word) (s : State) : Reply :=
  .next (s.gatedOr who Reg.rtcCommit value fun s =>
    if s.flag Reg.rtcStatus Rtc.busy then .error Code.denied
    else if field value 31 16 = 0x5254 ∧ bit value.toNat 0 = true then
      let s := { s with rtc := { s.rtc with form := bit value.toNat 1 } }
      .ok (s.setFlag Reg.rtcStatus Rtc.busy true)
    else .ok s)

/-- The staged time in seconds, if it is a date of 1970 to 2399 (R223). -/
def State.stagedSec (s : State) : Option Nat :=
  let t := s.reg Reg.rtcSetTime
  let d := s.reg Reg.rtcSetDate
  if s.rtc.form then
    let n := s.num Reg.rtcSetBinLo + s.fld Reg.rtcSetBinHi 15 0 * 2 ^ 32
    if n < calEnd then some n else none
  else
    let h := field t 21 16
    let m := field t 14 8
    let c := field t 6 0
    let yh := field d 31 24
    let yl := field d 23 16
    let mo := field d 12 8
    let da := field d 5 0
    let year := ofBcd yh * 100 + ofBcd yl
    if validBcd h && validBcd m && validBcd c && validBcd yh && validBcd yl && validBcd mo && validBcd da &&
        decide (ofBcd h < 24) && decide (ofBcd m < 60) && decide (ofBcd c < 60) && decide (1970 ≤ year) &&
        decide (year ≤ 2399) && decide (1 ≤ ofBcd mo) && decide (ofBcd mo ≤ 12) && decide (1 ≤ ofBcd da) &&
        decide (ofBcd da ≤ monthDays year (ofBcd mo)) then
      some (daysOf year (ofBcd mo) (ofBcd da) * 86400 + ofBcd h * 3600 + ofBcd m * 60 + ofBcd c)
    else none

/-- R221, R223: at the cell's next 1/256 s boundary, up to which time passes, cell and block load the staged time, or the commit fails. -/
def execCommitLoad (s : State) : Reply :=
  if !s.flag Reg.rtcStatus Rtc.busy then .next s
  else
    let s := s.cellElapse (128 - s.rtc.cellTick % 128)
    let s := s.setFlag Reg.rtcStatus Rtc.busy false
    match s.stagedSec with
    | none => .next ((s.setFlag Reg.rtcStatus Rtc.err true).raise 57)
    | some n =>
      let tick := 128 * s.fld Reg.rtcSetTime 31 24
      let s := { s with rtc := { s.rtc with valid := true, cellSec := n, cellTick := tick, blockSec := n, blockTick := tick } }
      .next (((s.setFlag Reg.rtcStatus Rtc.err false).setFlag Reg.rtcStatus 31 true).raise 56)

/-! ### Trim (R225 to R228) -/

/-- R225: time passes until the accumulator overflows: one count is inserted, or one swallowed. -/
def execTrimOverflow (s : State) : Reply :=
  let t := s.rtc.trimSize
  if t = 0 then .next s
  else
    let need := (2 ^ 23 - s.rtc.trimAcc + t - 1) / t
    .next (s.elapse ((need * 250000000 - s.rtc.phase + 32767) / 32768))

/-- A measurement ends without a result (R228). -/
def State.abortMeasurement (s : State) : State :=
  (((s.setFlag Reg.rtcStatus Rtc.measBusy false).setFlag Reg.rtcMeasCtrl 0 false).setFlag Reg.rtcStatus Rtc.measAbort
    true).raise 60

/-- The spindle of a MAINS measurement. -/
def State.measSpindle (s : State) : Nat := s.fld Reg.rtcMeasCtrl 6 4

/-- R226: a write of RTC.MEAS_CTRL; START begins a measurement, or aborts at once with HOURS below its minimum. -/
def execMeasStart (who : Who) (value : Word) (s : State) : Reply :=
  .next (s.gated who Reg.rtcMeasCtrl value fun s =>
    let busy := s.flag Reg.rtcStatus Rtc.measBusy
    let s := (s.setReg Reg.rtcMeasCtrl (value &&& 0xFFFF00F6#32)).setFlag Reg.rtcMeasCtrl 0 busy
    if busy then s
    else
      if !bit value.toNat 0 then s
      else if field value 31 16 < (if bit value.toNat 1 then 24 else 1) then s.abortMeasurement
      else
        let start := if bit value.toNat 1 then (s.spin s.measSpindle).travel else s.chip.ran
        let s : State := { s with rtc := { s.rtc with measRaw := s.rtc.raw, measFrom := start } }
        ((s.setFlag Reg.rtcStatus Rtc.measBusy true).setFlag Reg.rtcStatus Rtc.measAbort false).setFlag
          Reg.rtcMeasCtrl 0 true)

/-- The reference of a measurement is lost: TIM has left LOCKED, or the spindle is a substitute (R228). -/
def State.measLost (s : State) : Bool :=
  if s.flag Reg.rtcMeasCtrl 1 then s.substitute s.measSpindle else s.timState != TimeState.locked

/-- Ticks until the reference interval ends (R226): HOURS of device time, or HOURS × 3600 × f_nom revolutions of the spindle. -/
def State.measTicks (s : State) : Option Nat :=
  let hours := s.fld Reg.rtcMeasCtrl 31 16
  if s.flag Reg.rtcMeasCtrl 1 then
    let n := s.measSpindle
    let goal := s.rtc.measFrom + hours * 3600 * (if s.flag Reg.rtcMeasCtrl 2 then 60 else 50) * 2 ^ 32
    if goal ≤ (s.spin n).travel then some 0 else if s.spinRuns n then s.ticksFor n (goal - (s.spin n).travel) else none
  else some (s.ticksUntil (s.rtc.measFrom + hours * 3600 * secondUnits))

/-- R227: the interval ends, up to which time passes, and the result follows from the raw cycles counted in it; a measurement whose reference is
lost aborts (R228). -/
def execMeasDone (s : State) : Reply :=
  if !s.flag Reg.rtcStatus Rtc.measBusy then .next s
  else if s.measLost then .next s.abortMeasurement
  else
    match s.measTicks with
    | none => .next s
    | some k =>
      let s := s.elapse k
      let cycles := s.rtc.raw - s.rtc.measRaw
      let t := s.fld Reg.rtcMeasCtrl 31 16 * 3600
      let raw := roundDiv (-((cycles : Int) - 32768 * t) * 256) t
      let trim := clampInt (-1024) 1023 raw
      let s := (s.setNum Reg.rtcMeasCycLo cycles).setNum Reg.rtcMeasCycHi (cycles / 2 ^ 32)
      let s := s.setNum Reg.rtcMeasResult (2 ^ 31 + ofBool (decide (raw ≠ trim)) * 2 ^ 30 + unsigned 11 trim)
      let s := (s.setFlag Reg.rtcStatus Rtc.measBusy false).setFlag Reg.rtcMeasCtrl 0 false
      let s := if s.flag Reg.rtcMeasCtrl 7 then
          { s.setFld Reg.rtcTrim 10 0 (unsigned 11 trim) with rtc := { s.rtc with trim := unsigned 11 trim } }
        else s
      .next (s.raise 59)

/-- R228: TIM leaves LOCKED, or the mains spindle is a substitute. -/
def execMeasAbort (s : State) : Reply :=
  if s.flag Reg.rtcStatus Rtc.measBusy && s.measLost then .next s.abortMeasurement else .next s

end Sys2Proof.Machine
end

