-- ==== Sys2Proof/Machine/Bus.lean ====
section
/-! DEFINITION. Register reads and writes by address (00): R13 to R16, R705, R708 to R710, and the words that registers show. -/
namespace Sys2Proof.Machine

/-! ### Registers whose write is a command of its own -/

/-- What a write of a register does. -/
abbrev Taker := Who → Word → State → Reply

/-- The number of a register among `n` that stand `stride` apart. -/
def hit (base n stride off : Nat) : Option Nat :=
  if base ≤ off ∧ off < base + n * stride ∧ (off - base) % stride = 0 then some ((off - base) / stride) else none

/-- R605: what a PHY answers is a free value. -/
def State.mdioWrite (s : State) (w : Who) (v : Word) : Reply :=
  let (s, d) := s.free
  execEthMdio w v d.toNat s

/-- R640: a write of KEY.SUBMIT, which the block itself answers. -/
def State.submitKey (s : State) (w : Who) (v : Word) : State :=
  let c := s.regWriteCode w (Addr.regs + Reg.keySubmit) 4 v
  if s.silent w (Addr.regs + Reg.keySubmit) 4 true then s
  else if c = Code.ok then s.arbitrated (wordAccess w (Addr.regs + Reg.keySubmit) 4 (some (leBytes 4 v.toNat))) fun s => s.keySubmit w v
  else s.busError w (Addr.regs + Reg.keySubmit) c 0

/-- Single registers. -/
def singleTakers : List (Nat × Taker) := [
  (Reg.sysUnfence, execUnfence), (Reg.sysReset, execSoftReset), (Reg.sysSafeReq, execSafeReq), (Reg.ddrClear, execDdrClear),
  (Reg.fltClear, execFltClear), (Reg.blkCmd, execStore), (Reg.blkSubmit, execPatchSubmit), (Reg.timStepGo, execTimeStep),
  (Reg.timAcceptJump, execAcceptJump), (Reg.rtcCommit, execCommit), (Reg.rtcMeasCtrl, execMeasStart), (Reg.wrdClear, execWrdClear),
  (Reg.adpStore, execAdpStore), (Reg.fedClear, execFedClear), (Reg.tskDone, execTaskDone), (Reg.tskTrigger, execTrigger),
  (Reg.tskClear, execTskClear), (Reg.cleTgo, execTuneApply), (Reg.cleClear, execCleClear)] ++ [
  (Reg.fusPush, execFusPush), (Reg.fusClear, execFusClear), (Reg.metInterval, execIntervalWrite), (Reg.metSave, execSave),
  (Reg.metClear, execMetClear), (Reg.hngHealth, execHealthWrite), (Reg.hngCmd, execYield), (Reg.hngClear, execHngClear),
  (Reg.latClear, execLatClear), (Reg.latArmLo, fun w v s => execLatchArm w false v s), (Reg.latArmHi, fun w v s => execLatchArm w true v s),
  (Reg.prfGo, execAxisGo), (Reg.prfStop, execAxisStop), (Reg.prfHalt, execAxisHalt), (Reg.pnlCtrl, execPowerUp), (Reg.pnlUpdGo, execUpdGo)] ++ [
  (Reg.ethMdio, fun w v s => s.mdioWrite w v), (Reg.ethClear, execEthClear), (Reg.keySubmit, fun w v s => .next (s.submitKey w v)),
  (Reg.keyClear, execKeyClear), (Reg.injGo, execInjectLive), (Reg.injAbort, execInjAbort), (Reg.mbxSend, execMbxSend), (Reg.mbxRing, execRing),
  (Reg.dbgDmiOp, execDmiRead)]

/-- Registers that stand in rows: the first, how many, their distance. -/
def rowTakers : List (Nat × Nat × Nat × (Nat → Taker)) := [
  (Reg.spnHostadv 0, 8, 0x40, fun n w v s => execHostadv w n v s),
  (Reg.lthSubmit 0, 4, 0x10000, fun n w v s => execLatheSubmit w n v s), (Reg.lthCancel 0, 4, 0x10000, fun n w v s => execCancel w n v s),
  (Reg.lthQctrl 0, 4, 0x10000, fun n w v s => execFlush w n v s), (Reg.lthClear 0, 4, 0x10000, fun n w v s => execLatheClear w n v s),
  (Reg.tskPmode 0, 16, 4, fun n w v s => execProgramRun w n v s), (Reg.latCmd 0, 64, 0x20, fun n w v s => execLatchCmd w n v s),
  (Reg.prfHome 0, 16, 0x20, fun n w v s => execAxisHome w n v s)] ++ [
  (Reg.milCtrl 0, 2, 0x10000, fun n w v s => execLinkRetrain (2 * n) (some (w, v)) s),
  (Reg.milKeyctl 0, 2, 0x10000, fun n w v s => execKeyctl w n v s), (Reg.milClear 0, 2, 0x10000, fun n w v s => execMilClear w n v s),
  (Reg.milTxtail 0 0, 8, 0x20, fun n w v s => execTxRingTail w 0 n v s), (Reg.milTxtail 1 0, 8, 0x20, fun n w v s => execTxRingTail w 1 n v s),
  (Reg.milRxtail 0 0, 8, 0x20, fun n w v s => execRxRingTail w false 0 n v s),
  (Reg.milRxtail 1 0, 8, 0x20, fun n w v s => execRxRingTail w false 1 n v s),
  (Reg.ethTxtail 0, 6, 0x40, fun n w v s => execEthTxTail w n v s), (Reg.ethRxtail 0, 6, 0x40, fun n w v s => execRxRingTail w true n 0 v s)] ++ [
  (Reg.canCtrl 0, 4, 0x10000, fun n w v s => execRecover w n v s),
  (Reg.canTxreqLo 0, 4, 0x10000, fun n w v s => execTxreq w n false v s), (Reg.canTxreqHi 0, 4, 0x10000, fun n w v s => execTxreq w n true v s),
  (Reg.canTxcanLo 0, 4, 0x10000, fun n w v s => execTxcan w n false v s), (Reg.canTxcanHi 0, 4, 0x10000, fun n w v s => execTxcan w n true v s),
  (Reg.canF0ack 0, 4, 0x10000, fun n w v s => execFifoAck w n 0 v s), (Reg.canF1ack 0, 4, 0x10000, fun n w v s => execFifoAck w n 1 v s),
  (Reg.canHprel 0, 4, 0x10000, fun n w v s => execHprel w n v s)]

/-- The command that a write of a register is. -/
def takerOf (off : Nat) : Option Taker := match singleTakers.find? fun e => e.1 == off with
  | some e => some e.2
  | none => rowTakers.findSome? fun e => (hit e.1 e.2.1 e.2.2.1 off).map e.2.2.2

/-! ### Registers that store what is written -/

/-- The bits a write changes: stored, cleared by 1, set by 1. -/
def RegRow.merge (r : RegRow) (old v : Word) : Word :=
  let m := BitVec.ofNat 32 (r.rw ||| r.rwl)
  let n := (old &&& ~~~m) ||| (v &&& m)
  (n &&& ~~~(v &&& BitVec.ofNat 32 r.w1c)) ||| (v &&& BitVec.ofNat 32 r.w1s)

/-- Bits of GPIO channels 32 i to 32 i + 31 that the Latch drives, which no write changes (R693). -/
def State.latchBits (s : State) (i : Nat) : Nat := ((List.range 32).filter fun j => s.latchGpio (32 * i + j)).foldl setBit 0

/-- A 32-bit register with a range (R709). -/
def clampWord (lo hi : Nat) (v : Word) : Word := BitVec.ofNat 32 (clampNat lo hi v.toNat)

/-- What a register stores of a value: the treatments that descriptions give, and the nearer end of a range (R709). -/
def State.storable (s : State) (off : Nat) (old v : Word) : Word :=
  if (hit (Reg.spnCmpCtl 0 0) 512 8 off).isSome then (if 1 < field v 23 12 ∧ 1 < field v 11 0 then setField v 11 0 1 else v)
  else if off = Reg.timJumpLimit then clampWord 1000 1000000000 v
  else if off = Reg.timJumpConfirm then clampWord 1 65535 v
  else if off = Reg.timLockThresh then clampWord 10 100000 v
  else if (hit (Reg.lthWarm 0) 4 0x10000 off).isSome then clampWord 0 100 v
  else if off = Reg.fedStaleRounds then clampWord 1 15 v
  else if off = Reg.fedBudget then clampWord 1 s.planRounds v
  else
    match hit (Reg.fusWait 0) 64 0x10 off, hit (Reg.fusGate 0) 64 0x10 off with
    | some g, _ => BitVec.ofNat 32 ((if s.tracker g then 0 else min 8 (field v 19 16)) * 2 ^ 16 + clampNat 1 2048 (field v 11 0))
    | _, some _ => if v.toNat = 0 ∨ 0x7F800000 ≤ v.toNat then old else v
    | _, _ =>
      if off = Reg.metSavePeriod then (if v.toNat = 0 ∨ 3600 < v.toNat then old else v)
      else if (hit (Reg.metPconst 0) 4 4 off).isSome then (if v.toNat = 0 then 1 else v)
      else if off = Reg.hngCkptPeriod then (if v.toNat = 0 then 1 else v)
      else if off = Reg.hngProofInterval then (if v.toNat = 0 then 0 else clampWord 600 604800 v)
      else if off = Reg.hngRevertHold then clampWord 10 86400 v
      else if off = Reg.latWindow then clampWord 100 1000000 v
      else if (hit (Reg.latHold 0) 64 0x20 off).isSome then (if v.toNat = 0 then 1 else v)
      else
        match hit (Reg.pinOut 0) 4 4 off, hit (Reg.pinDir 0) 4 4 off with
        | some i, _ => let m := BitVec.ofNat 32 (s.latchBits i); (v &&& ~~~m) ||| (old &&& m)
        | _, some i => let m := BitVec.ofNat 32 (s.latchBits i); (v &&& ~~~m) ||| (old &&& m)
        | _, _ => v

/-- What follows a stored value. -/
def State.stored (s : State) (off : Nat) : State :=
  if off = Reg.rtcTrim then { s with rtc := { s.rtc with trim := s.fld Reg.rtcTrim 10 0 } }
  else if off = Reg.sysScrub then { s with chip := { s.chip with scrubbed := s.chip.up } }
  else
    match hit (Reg.pinOut 0) 8 4 off, hit (Reg.pciVmap 0) 64 4 off with
    | some i, _ => (List.range 32).foldl (fun s j => s.followBall (32 * (i % 4) + j) true) s
    | _, some v => { s with pci := { s.pci with told := clearBit s.pci.told v } }
    | _, _ => s

/-- A register stores a value. -/
def State.storeReg (s : State) (w : Who) (r : RegRow) (off : Nat) (v : Word) : State :=
  let k := if r.perInitiator then bankOf w.id off else off
  let old := s.reg k
  let new := s.storable off old (r.merge old v)
  if off = Reg.timUtcOffset then s.setUtcOffset new.toNat
  else
    match hit (Reg.cleLen 0) 8 4 off with
    | some i => s.cleWriteLen i new
    | none => (s.setReg k new).stored off

/-- A register write that every check admits. -/
def State.takeWrite (s : State) (w : Who) (off : Nat) (v : Word) : State :=
  if Plic.base ≤ off then s.arbitrated (wordAccess w (Addr.regs + off) 4 (some (leBytes 4 v.toNat))) fun s => (s.plicWrite off v.toNat).replyOk
  else
    match takerOf off with
    | some t => (t w v s).stateOr s
    | none => s.arbitrated (wordAccess w (Addr.regs + off) 4 (some (leBytes 4 v.toNat))) fun s =>
      match regRowOf off with
      | some r => (if r.kind = .masked then s.storeReg w r off v else s).replyOk
      | none => (s.setReg off v).replyOk

/-- R705: a register write of `n` bytes of a value. -/
def State.busWrite (s : State) (w : Who) (a n : Nat) (v : Word) : State :=
  let c := s.regWriteCode w a n v
  if s.silent w a n true then s
  else if c ≠ Code.ok then s.busError w a c 0
  else s.takeWrite w (a - Addr.regs) v

/-! ### What registers show -/

/-- Registers read-only to each initiator in its own bank (R273, R402, R407, R543, R573, R642). -/
def ownView (off : Nat) : Bool :=
  (hit (Reg.lthTicket 0) 4 0x10000 off).isSome || off == Reg.cleTstat || off == Reg.fusPushstat || off == Reg.prfCmdstat ||
    off == Reg.pnlUpdstat || off == Reg.keySubstat

/-- SPN.STATE to SPN.RATE of a spindle: the initiator's snapshot, or live values (R188, R710); `k` counts 0 ANGLE to 5 STATE. -/
def State.spinView (s : State) (id n k : Nat) : Nat :=
  let t := s.spn.snaps.get (8 * id + n)
  (((if t.isEmpty then s.spinWords n else t).getD k 0#32)).toNat

/-- SUBST and SEASONING of a status word that name a spindle. -/
def State.withSpindle (s : State) (n : Nat) (w : Word) (subst : Nat) : Word := setField w subst subst (ofBool (s.substitute n))

/-- Status words that follow what they show: of the wards, the coordinator, the sweep, the metrology unit, the panel, the Hinge, the
injector, the debug module. -/
def State.statusView (s : State) (w : Who) (off : Nat) : Option Nat :=
  let v := s.reg off
  if off = Reg.wrdStatus then some (setField v 31 31 (ofBool (decide (s.wardSpindle < 8) && s.substitute s.wardSpindle))).toNat
  else if off = Reg.fedStatus then some (if s.fedRole = 0 then v else s.withSpindle s.fedSpindle v 28).toNat
  else if off = Reg.cleStatus then
    some (setField (s.withSpindle s.sweepSpindle v 30) 29 29 (ofBool (s.spinFlag s.sweepSpindle Spn.seasoning))).toNat
  else if off = Reg.metStatus then
    some ((List.range s.nsys).foldl (fun x k => s.withSpindle (u8 s.metBody (s.systemEntry k)) x (16 + k))
      (BitVec.ofNat 32 s.metStatusWord)).toNat
  else if Reg.fusGstate 0 ≤ off ∧ off ≤ Reg.fusGstate 63 ∧ (off - Reg.fusGstate 0) % 16 = 0 then
    let g := (off - Reg.fusGstate 0) / 16
    some (if g < s.ngraph then s.withSpindle (s.graphByte g 4) v 29 else v).toNat
  else if off = Reg.pnlStatus then some (if s.panelType = 0 then v else s.withSpindle (u8 s.panelBody 2) v 28).toNat
  else if off = Reg.rtcStatus then some (setField v 28 28 (ofBool (s.rtc.expired.get w.id))).toNat
  else if off = Reg.hngCkage then some s.checkpointAge
  else if off = Reg.injResult then some (s.injResultWord w.id)
  else if off = Reg.dbgStatus then some s.debugWord
  else if off = Reg.tskSelf then some (s.selfWord w)
  else none

/-- Registers of rows that follow what they show. -/
def State.rowView (s : State) (id off : Nat) : Option Nat :=
  let row := fun (base n stride : Nat) (f : Nat → Nat) => (hit base n stride off).map f
  (((((((((((row (Reg.spnState 0) 8 0x40 fun n => s.spinView id n 5).or (row (Reg.spnRev 0) 8 0x40 fun n => s.spinView id n 1)).or
    (row (Reg.spnTravLo 0) 8 0x40 fun n => s.spinView id n 2)).or (row (Reg.spnTravHi 0) 8 0x40 fun n => s.spinView id n 3)).or
    (row (Reg.spnRate 0) 8 0x40 fun n => s.spinView id n 4)).or (row (Reg.metRegHi 0) 112 8 fun j => s.regHighRead id j)).or
    (row (Reg.hngPeer 0) 2 0x10 s.peerWord)).or (row (Reg.latCstate 0) 64 0x20 s.latchWord)).or
    (row (Reg.latAge 0) 64 0x20 s.latchAge)).or (row (Reg.prfAstate 0) 16 0x20 s.axisWord)).or
    (row (Reg.prfRate 0) 16 0x20 s.axisRate)).or (row (Reg.canTsc 0) 4 0x10000 fun _ => s.canTsc)

/-- The calendar and the seconds of device time, as an initiator reads them. -/
def State.clockView (s : State) (id off : Nat) : Option Nat :=
  let c := (s.cellFor id).1
  if off = Reg.rtcSec then some (calSec c)
  else if off = Reg.rtcMin then some (calMin c)
  else if off = Reg.rtcHour then some (calHour c)
  else if off = Reg.rtcWday then some (calWday c)
  else if off = Reg.rtcDay then some (calDay c)
  else if off = Reg.rtcMonth then some (calMonth c)
  else if off = Reg.rtcSecLo then some ((s.blockFor id).1 % 2 ^ 32)
  else if off = Reg.timNowSlo then some (s.secondsFor id % 2 ^ 32)
  else if off = Reg.timNowShi then some (s.secondsFor id / 2 ^ 32)
  else none

/-- FUS.GSTATE with SUBST of the graph's frame spindle. -/
def State.graphView (s : State) (g : Nat) : Nat :=
  (if g < s.ngraph then s.withSpindle (s.graphByte g 4) (s.reg (Reg.fusGstate g)) 29 else s.reg (Reg.fusGstate g)).toNat

/-- A word of a message: channel c, word i (R633). -/
def mailboxWord (off : Nat) : Option (Nat × Nat) :=
  let d := off - Reg.mbxData 0 0
  if Reg.mbxData 0 0 ≤ off ∧ d / 0x80 < 64 ∧ d % 0x80 < 0x40 ∧ d % 4 = 0 then some (d / 0x80, d % 0x80 / 4) else none

/-- The word of a register as an initiator reads it, without effect. -/
def State.regShown (s : State) (w : Who) (off : Nat) : Nat :=
  match s.statusView w off, s.clockView w.id off, s.rowView w.id off, hit (Reg.fusGstate 0) 64 0x10 off, mailboxWord off with
  | some v, _, _, _, _ => v
  | _, some v, _, _, _ => v
  | _, _, some v, _, _ => v
  | _, _, _, some g, _ => s.graphView g
  | _, _, _, _, some (c, i) => s.mem32 (s.channelWord c i)
  | _, _, _, _, _ =>
    match regRowOf off with
    | some r =>
      if r.kind = .writeOnly then 0
      else if r.perInitiator || ownView off then s.num (bankOf w.id off) else s.num off
    | none => s.num off

/-- Registers whose read is a command of its own. -/
def readerOf (off : Nat) : Option (Who → State → Reply) :=
  if off = Reg.timNowNs then some execTimeNowRead
  else if off = Reg.rtcSubsec then some execRtcSubsecRead
  else if off = Reg.rtcFrac then some execRtcFracRead
  else if off = Reg.rtcYear then some fun w s => execRtcSnapshotEnd w true s
  else if off = Reg.rtcSecHi then some fun w s => execRtcSnapshotEnd w false s
  else
    match hit (Reg.spnAngle 0) 8 0x40 off, hit (Reg.metRegLo 0) 112 8 off, hit (Reg.mbxPop 0) 64 0x80 off with
    | some n, _, _ => some fun w s => execSpnAngleRead w n s
    | _, some j, _ => some fun w s => execMetRegRead w j s
    | _, _, some c => some fun w s => execPop w c s
    | _, _, _ => none

/-- A register read that every check admits. -/
def State.takeRead (s : State) (w : Who) (off : Nat) : State :=
  if Plic.base ≤ off then
    s.arbitrated (wordAccess w (Addr.regs + off) 4 none) fun s =>
      let (s, v) := s.plicRead off
      s.replyWord v
  else
    match readerOf off with
    | some f => (f w s).stateOr s
    | none => s.arbitrated (wordAccess w (Addr.regs + off) 4 none) fun s => s.replyWord (s.regShown w off)

/-- R705: a register read of `n` bytes. -/
def State.busRead (s : State) (w : Who) (a n : Nat) : State :=
  let c := s.regReadCode w a n
  if s.silent w a n false then s
  else if c ≠ Code.ok then s.busError w a c n
  else s.takeRead w (a - Addr.regs)

/-! ### The commands -/

/-- An address of the register range. -/
def inRegs (a : Nat) : Bool := decide (Addr.regs ≤ a) && decide (a < Addr.regs + 0x10000000)

/-- An access of any initiator to any address. -/
def State.access (s : State) (w : Who) (a n : Nat) (data : Option (List Byte)) (ecc : Ecc) (slack : Bool) : State :=
  if inRegs a then
    match data with
    | none => s.busRead w a n
    | some bs => s.busWrite w a n (BitVec.ofNat 32 (u32 bs 0))
  else s.memAccess w a n data ecc slack

/-- R705: a register write. -/
def execRegisterWrite (who : Who) (addr size : Nat) (value : Word) (s : State) : Reply :=
  .next (s.access who addr size (some (leBytes size value.toNat)) .clean false)

/-- R716: a single access or a burst. -/
def execMemoryAccess (who : Who) (addr len : Nat) (data : Option (List Byte)) (ecc : Ecc) (slack : Bool) (s : State) : Reply :=
  .next (s.access who addr len data ecc slack)

end Sys2Proof.Machine
end

