-- ==== Sys2Proof/Machine/Host.lean ====
section
/-! DEFINITION. The host's ports (16): the PCIe endpoint with its MSI-X messages (R621 to R627), and the host SPI port (R628 to R630). -/
namespace Sys2Proof.Machine

/-! ### PCIe (R622 to R624) -/

def Who.pcie : Who := { id := Init.pcieHost, mmode := false, vc := 0 }
def Who.spi : Who := { id := Init.spiHost, mmode := false, vc := 0 }

/-- The endpoint answers. -/
def State.pciUp (s : State) : Bool := s.awake && s.variant.hasPci && s.flag Reg.pciStatus 31

/-- R624: an access that ends in a bus error is counted, and source 434 rises. -/
def State.pciAnswer (s : State) (write : Bool) : State :=
  if s.bus.code = Code.ok then s
  else (if write then s.bump Reg.pciErr 15 0 1 else s.bump Reg.pciErr 31 16 1).raise 434

/-- The messages of a vector are held back. -/
def State.vectorMasked (s : State) (v : Nat) : Bool := !bit (s.pci.table.get (4 * v + 3)).toNat 0

/-- A vector sends its message: address and data of its table entry. -/
def State.sendMessageSignal (s : State) (v : Nat) : State :=
  let t := s.pci.table
  ({ s with pci := { s.pci with pba := clearBit s.pci.pba v } }).send .msix v
    (leBytes 4 (t.get (4 * v)).toNat ++ leBytes 4 (t.get (4 * v + 1)).toNat ++ leBytes 4 (t.get (4 * v + 2)).toNat)

/-- A word of the MSI-X table as a host reads it; the mask bit is kept inverted, and the other bits of Vector Control read 0. -/
def State.tableWord (s : State) (i : Nat) : Nat :=
  let w := s.pci.table.get i
  if i % 4 = 3 then ofBool (!bit w.toNat 0) else w.toNat

/-- A byte of the MSI-X table is written. -/
def State.writeTable (s : State) (i : Nat) (b : Byte) : State :=
  let w := leNat (patchBytes (leBytes 4 (s.tableWord (i / 4))) (i % 4) [b])
  let w := if i / 4 % 4 = 3 then ofBool (!bit w 0) else w
  { s with pci := { s.pci with table := s.pci.table.set (i / 4) (BitVec.ofNat 32 w) } }

/-- Bytes of the MSI-X table are written; a vector that is unmasked with its pending bit set sends its message. -/
def State.writeTableBytes (s : State) (off : Nat) (bs : List Byte) : State :=
  let s := (bs.zipIdx).foldl (fun s e => s.writeTable (off + e.2) e.1) s
  (List.range 64).foldl (fun s v => if bit s.pci.pba v && !s.vectorMasked v then s.sendMessageSignal v else s) s

/-- `n` bytes of the MSI-X table. -/
def State.readTable (s : State) (off n : Nat) : List Byte := slice ((List.range 256).flatMap fun i => leBytes 4 (s.tableWord i)) off n

/-- Where a BAR0 access to a register window goes; where a BAR2 access goes (16, the BAR table). -/
def State.barTarget (s : State) (bar off n : Nat) : Option Nat :=
  if bar = 0 then if off + n ≤ 0x400000 then some (Addr.regs + off) else none
  else if bar = 2 then
    if off + n ≤ 0x1000000 then some (Addr.stock + off)
    else if 0x1000000 ≤ off ∧ off + n ≤ 0x4000000 then some (Addr.ddr + s.fld Reg.pciApbase 8 0 * 0x1000000 + (off - 0x1000000))
    else none
  else none

/-- What a host access does: registers and memory by address, the MSI-X table and its pending bits, ABSENT elsewhere. -/
def State.barAccess (s : State) (bar off n : Nat) (write : Option (List Byte)) (ecc : Ecc) (slack : Bool) : State :=
  let ans := if write.isNone then n else 0
  if s.fenced Region.link then s.busError Who.pcie ((s.barTarget bar off n).getD (Addr.regs + 0x2F0000)) Code.denied ans
  else
    match s.barTarget bar off n with
    | some a => s.access Who.pcie a n write ecc slack
    | none =>
      if bar = 0 ∧ 0xF00000 ≤ off ∧ off + n ≤ 0xF00400 then
        match write with
        | none => s.reply Code.ok (s.readTable (off - 0xF00000) n)
        | some bs => (s.writeTableBytes (off - 0xF00000) (slice bs 0 n)).replyOk
      else if bar = 0 ∧ 0xF08000 ≤ off ∧ off + n ≤ 0xF08008 then
        if write.isNone then s.reply Code.ok (slice (leBytes 8 s.pci.pba) (off - 0xF08000) n) else s.replyOk
      else s.busError Who.pcie (Addr.regs + off) Code.absent ans

/-- R623, R624: an access of the PCIe host. One that waits for credit (R233) has no answer yet. -/
def execHostAccess (bar offset n : Nat) (write : Option (List Byte)) (ecc : Ecc) (slack : Bool) (s : State) : Reply :=
  .next (
    if s.pciUp then
      let t := s.barAccess bar offset n write ecc slack
      if t.ward.waiting.length = s.ward.waiting.length then t.pciAnswer write.isSome else t
    else s)

/-- The MSI-X table and the pending bits are reset. -/
def State.resetSignals (s : State) : State := { s with pci := { s.pci with table := .empty, pba := 0 } }

/-- R622: the link comes up or goes down; a link that goes down resets the function as the PCI Express Base Specification has it (R621). -/
def execPcieLinkChange (link : Bool) (rate width ltssm : Nat) (s : State) : Reply :=
  if !(s.awake && s.variant.hasPci && !s.fenced Region.link) then .next s
  else
    let was := s.flag Reg.pciStatus 31
    let s := s.setNum Reg.pciStatus (ofBool link * 2 ^ 31 + rate % 16 * 2 ^ 16 + width % 64 * 2 ^ 8 + ltssm % 64)
    .next (if was = link then s else if link then s.raise 432 else s.resetSignals.raise 433)

/-- R622: a Function Level Reset clears the MSI-X table and the pending bits. -/
def execFlr (s : State) : Reply :=
  .next (if s.pciUp && !s.fenced Region.link then s.resetSignals.raise 435 else s)

/-- R626: the source of a vector has become pending: its message is sent, or while the vector is masked its pending bit is set. -/
def execMsiX (vector : Nat) (s : State) : Reply :=
  let v := vector % 64
  let n := s.fld (Reg.pciVmap v) 8 0
  if !(s.pciUp && !s.fenced Region.link) || n == 0 || !s.pendingSource n || bit s.pci.told v then .next s
  else
    let s : State := { s with pci := { s.pci with told := setBit s.pci.told v } }
    .next (if s.vectorMasked v then { s with pci := { s.pci with pba := setBit s.pci.pba v } } else s.sendMessageSignal v)

/-! ### The host SPI port (R628 to R630) -/

/-- A word over SPI; a fenced Link region admits none (R36). The wait bytes cover its wait for credit (R628), so within the transaction it is
served, its beats charged to the present period or owed to the next (log entry 84). -/
def State.spiWord (s : State) (a : Nat) (data : Option (List Byte)) : State :=
  if s.fenced Region.link then s.busError Who.spi a Code.denied (if data.isNone then 4 else 0)
  else
    let admitted := if inRegs a then (match data with
        | none => s.regReadCode Who.spi a 4
        | some bs => s.regWriteCode Who.spi a 4 (BitVec.ofNat 32 (u32 bs 0))) else s.memCode Who.spi a 4 data.isSome
    let s := if admitted = Code.ok then s.charge Who.spi a 4 else s
    let s := { s with ward := { s.ward with through := true } }
    let s := s.access Who.spi a 4 data .clean false
    { s with ward := { s.ward with through := false } }

def State.spiReadWord (s : State) (a : Nat) : State := s.spiWord a none
def State.spiWriteWord (s : State) (a : Nat) (v : Word) : State := s.spiWord a (some (leBytes 4 v.toNat))

/-- Words are read from `a` on up to the first bus error: the bytes read, and the code. -/
def spiReads : Nat → Nat → State → State × List Byte × Nat
  | 0, _, s => (s, [], Code.ok)
  | n + 1, a, s =>
    let s := s.spiReadWord a
    if s.bus.code = Code.ok then
      let bs := s.bus.data
      let (t, rest, c) := spiReads n (a + 4) s
      (t, bs ++ rest, c)
    else (s, [], s.bus.code)

/-- Words are written from `a` on up to the first bus error. -/
def spiWrites : List Word → Nat → State → State × Nat
  | [], _, s => (s, Code.ok)
  | v :: vs, a, s =>
    let s := s.spiWriteWord a v
    if s.bus.code = Code.ok then spiWrites vs (a + 4) s else (s, s.bus.code)

/-- A transaction ends: HSP.STATUS holds its code, HSP.COUNTS counts it, and source 441 rises where it met a bus error. -/
def State.spiDone (s : State) (code : Nat) : State :=
  let s := (s.setNum Reg.hspStatus code).roll Reg.hspCounts 31 16 1
  if code = Code.ok then s else s.raise 441

/-- R628: ID. -/
def execSpiId (s : State) : Reply :=
  .next (if s.awake then (s.send .spi 0 (leBytes 4 (s.num Reg.sysId))).spiDone Code.ok else s)

/-- R628: READ of `n` words, 1 to 64. -/
def execSpiRead (addr n : Nat) (s : State) : Reply :=
  if !s.awake then .next s
  else
    let (s, bs, c) := spiReads (clampNat 1 64 n) addr s
    .next ((s.send .spi 0 (bs ++ leBytes 2 c)).spiDone c)

/-- R628: WRITE of at most 64 words. -/
def execSpiWrite (addr : Nat) (data : List Word) (s : State) : Reply :=
  if !s.awake then .next s
  else
    let (s, c) := spiWrites (data.take 64) addr s
    .next ((s.send .spi 0 (leBytes 2 c)).spiDone c)

/-- R629: a transaction is abandoned after some words; the words written stay, and source 440 rises. -/
def execSpiAbandon (addr reads : Nat) (data : List Word) (s : State) : Reply :=
  if !s.awake then .next s
  else
    let (s, bs, c) := spiReads (min 64 reads) addr s
    let s := if bs.isEmpty then s else s.send .spi 0 bs
    let (s, d) := if c = Code.ok then spiWrites (data.take 64) addr s else (s, c)
    .next (((s.bump Reg.hspCounts 15 0 1).spiDone d).raise 440)

end Sys2Proof.Machine
end

