-- ==== Sys2Proof/Machine/Mount.lean ====
section
/-! DEFINITION. MOUNT (02, "The mount sequence"): reset release, the load of a Blank, and the end of MOUNT; and what an idle block does. -/
namespace Sys2Proof.Machine

/-! ### Reset release (R95, R106, R107) -/

def Boot.puf : Nat := 1
def Boot.firmware : Nat := 2
def Boot.blank : Nat := 3
def Boot.loop : Nat := 4

/-- The part halts in MOUNT with a cause in SYS.BOOT.FAIL. -/
def State.haltBoot (s : State) (fail : Nat) : State := s.setFld Reg.sysBoot 11 8 fail

/-- The newest Hinge record with a correct CRC (R706). -/
def State.newestHinge (s : State) : Option (List Byte) :=
  (List.range 16).foldl (fun (best : Option (List Byte)) k =>
    let b := s.bytes (Addr.records s.variant + 256 * k) 256
    if crc32 (b.drop 8) ≠ u32 b 4 then best
    else match best with
      | none => some b
      | some o => if seqNewer 32 (u32 b 0) (u32 o 0) then some b else best) none

/-- A Hinge record is taken. -/
def State.applyHinge (s : State) (r : HingeRecord) : State :=
  ((s.setHinge { s.hinge with record := r }).setFld Reg.hngEpoch 23 0 r.epoch).setFlag Reg.hngStatus Hng.unfit r.unfit

/-- The Hinge record is read; with none the epoch is 0 (R491). -/
def State.restoreHinge (s : State) : State :=
  match s.newestHinge with
  | none => s
  | some b => s.applyHinge (HingeRecord.ofBytes b)

/-- The firmware runs: SRAM is initialised, the fault log and the Hinge record are read, and a reset loop halts the part. -/
def State.startFirmware (s : State) (second : Bool) : State :=
  let s := s.setFlag Reg.sysBoot 4 second
  let s : State := { s with chip := { s.chip with firmwareOk := true, stockReady := true } }
  let s := s.restoreLog.restoreHinge
  if 3 ≤ s.fld Reg.sysBoot 23 16 then s.haltBoot Boot.loop else s

/-- R106, R107, R95: what the steps up to the verification of the Blank find. -/
def execResetRelease (rootOk : Bool) (firmware : Firmware) (s : State) : Reply :=
  if !(s.mode == Mode.mount) || s.chip.released then .next s
  else
    let s : State := { s with chip := { s.chip with released := true } }
    .next (if !rootOk then s.haltBoot Boot.puf
      else match firmware with
        | .none => s.mountKeys.haltBoot Boot.firmware
        | .firstCopy => s.mountKeys.startFirmware false
        | .secondCopy => s.mountKeys.startFirmware true)

/-! ### The load (R123 to R127) -/

/-- The slots in the order of R123: A is 0, B 1, FACTORY 2, RECOVERY 3. -/
def State.slotOrder (s : State) : List Nat :=
  let gen := fun k => s.mem32 (s.slotBase k + 0x14)
  if gen 0 < gen 1 then [1, 0, 2, 3] else [0, 1, 2, 3]

/-- A slot's image, as long as its LENGTH says and the slot allows; never shorter than a header. -/
def State.slotImage (s : State) (slot : Nat) : List Byte :=
  s.bytes (s.slotBase slot) (max 64 (min (s.mem32 (s.slotBase slot + 0xC)) s.variant.mramS))

/-- R124: a slot is skipped; the first failure of a MOUNT is kept in BLK.LOADERR and BLK.LOADOFF. -/
def State.skipSlot (s : State) (slot : Nat) (e : CheckFail) : State :=
  let s := s.noteSignature Who.keeper e.code
  if s.flag Reg.blkLoaderr 19 then s
  else (s.setNum Reg.blkLoaderr (2 ^ 19 + slot * 2 ^ 16 + e.code)).setNum Reg.blkLoadoff (min e.section_ 0x7FF * 2 ^ 21 + e.offset)

/-- The first slot that passes, its image and its sections. -/
def State.tryslots (s : State) : List Nat → State × Option (Nat × List Byte × List Section)
  | [] => (s, none)
  | k :: ks =>
    let img := s.slotImage k
    match s.checkImage (.mount s.variant.mramS) img with
    | .ok xs => (s, some (k, img, xs))
    | .error e => (s.skipSlot k e).tryslots ks

/-- R88 to R90: one canary pair reads wrong. -/
def State.brokenCanary (s : State) (b : Nat) : State :=
  ((s.setFlag Reg.pmuBatstat (8 + b) true).blockEvent 0x2B (Reg.pmuBatstat / 0x10000) b Act.none 0 0).raise 14

/-- R214, R216: an invalid calendar starts at 2000-01-01; the block loads from the cell, and RTC.STATUS.VALID shows which it was. -/
def State.mountClock (s : State) : State :=
  let s := if s.rtc.valid then s
    else { s with rtc := { s.rtc with cellSec := 946684800, cellTick := 0 } }.raise 62
  { s with rtc := { s.rtc with blockSec := s.rtc.cellSec, blockTick := s.rtc.cellTick } }.setFlag Reg.rtcStatus 31 s.rtc.valid

/-- R87 to R90, R214: the canaries are checked and rewritten, and the RTC block loads from the cell. -/
def State.checkCanaries (s : State) : State :=
  let p := s.pwr
  let s := if p.bkLow = 0x5A5AA5A5#32 ∧ p.bkHigh = 0xA5A55A5A#32 then s
    else { s with rtc := { s.rtc with valid := false } }.brokenCanary 0
  let s := if p.bmLow = 0x5A5AA5A5#32 ∧ p.bmHigh = 0xA5A55A5A#32 then s else s.brokenCanary 1
  let s := { s with pwr := { s.pwr with bkLow := 0x5A5AA5A5#32, bkHigh := 0xA5A55A5A#32, bmLow := 0x5A5AA5A5#32, bmHigh := 0xA5A55A5A#32 } }
  s.mountClock

/-- R125, R127: every block takes its sections; the keys of KEYPOL are derived (R647), and LPDDR5 starts training (R52). -/
def State.commitBlank (s : State) (slot : Nat) (img : List Byte) (xs : List Section) : State :=
  let s : State := { s with blk := { s.blk with running := xs, full := xs, node := u16 img 0x10 % 2 ^ 14, patches := Tab.empty } }
  let s : State := { s with chip := { s.chip with blankLoaded := true } }
  let s := ((s.setFld Reg.sysBoot 2 0 slot).setFld Reg.blkStatus 2 0 slot).loadGenerations img (imageDigest img)
  let s := if s.hasSection Ty.keypol Region.keep 0 then s.deriveKeypol (s.body Ty.keypol Region.keep 0) else s
  let s := ((s.loadKeep.loadControl none).loadSolve none).loadSense none
  (s.loadLink none).startTraining

/-- R123, R124, R108: the load; the canaries are checked and the calendar loads once the Blank has. -/
def execBlankLoad (s : State) : Reply :=
  if !(s.mode == Mode.mount && s.chip.firmwareOk) || s.haltedInMount || s.chip.blankLoaded then .next s
  else
    match s.tryslots s.slotOrder with
    | (t, none) => .next (t.haltBoot Boot.blank)
    | (t, some (k, img, xs)) =>
      let t : State := { t with chip := { t.chip with fallback := s.slotOrder.head? != some k } }
      .next (t.commitBlank k img xs).checkCanaries.tell

/-- R52: training ends: TRAINED and SIZE, seven eighths of the capacity in units of 128 MB, or FAILED; sources 5 and 456 or 457. After success the
contents that the Blank places in LPDDR5 are written (R53). -/
def execDdrTrainingDone (ok : Bool) (ms lane step : Nat) (s : State) : Reply :=
  if !s.chip.ddrPending then .next s
  else
    let s : State := { s with chip := { s.chip with ddrPending := false } }
    let size := if ok then 7 * s.ddrCap else 0
    let s := ((s.setFlag Reg.sysMemsize 31 ok).setFlag Reg.sysMemsize 30 (!ok)).setFld Reg.sysMemsize 5 0 size
    let s := ((s.setFlag Reg.ddrStatus 31 ok).setFlag Reg.ddrStatus 30 (!ok)).setFld Reg.ddrStatus 13 8 size
    let s := s.setNum Reg.ddrTrain (ms % 65536 * 65536 + (if ok then 0xF000 else lane % 16 * 4096 + step % 256))
    .next (((if ok then s.placeInDdr else s).raise 5).raise (if ok then 456 else 457))

/-! ### The end of MOUNT -/

/-- R194: device time is loaded. -/
def State.loadTime (s : State) : State :=
  let sec : Int := if s.rtc.valid then (s.rtc.blockSec : Int) + signed 16 (s.fld Reg.timUtcOffset 15 0) else 0
  let s : State := { s with time := .ofUnits (sec.toNat * (1000000000 * 2 ^ 32)), chip := { s.chip with timeLoaded := true } }
  s.setTimFlag Tim.sourceRtc s.rtc.valid

/-- R710: an initiator holds no snapshot from before the end of MOUNT. -/
def State.dropSnapshots (s : State) : State :=
  let times : List Nat := [Reg.timNowNs, Reg.timNowSlo, Reg.timNowShi]
  { s with
    spn := { s.spn with snaps := Tab.empty }
    rtc := { s.rtc with cellSnaps := Tab.empty, blockSnaps := Tab.empty }
    met := { s.met with snaps := Tab.empty }
    regs := s.regs.keep fun off => !(decide (2 ^ 32 ≤ off) && times.contains (off % 2 ^ 32)) }

/-- R181, R183: a spindle starts: a TIME spindle at its anchored position, another at 0 and its NOMINAL rate, seasoning. -/
def State.startSpindle (s : State) (n : Nat) : State :=
  if !s.spinUsed n then s
  else
    let now := s.chip.ran
    let start := fun (pos : Nat) (r : Int) =>
      { (default : Spindle) with pos := pos, travel := pos, src := pos, eventPos := pos, eventAt := now, eventRate := r, goodRate := r,
                                 hist := steadySamples now pos (s.spinWindow n) r }
    if s.spindleSrc n = Src.time then
      s.setSpin n { start (unsigned 64 (angleOf s.now (s.spindleOrigin n) (s.spindlePeriod n))) (s.sourceRate n : Nat) with known := true }
    else
      let r := s.spindleNominal n
      (s.setSpin n { start 0 (r : Nat) with sub := (16 * r : Nat) }).setSpinFlag n Spn.seasoning true

/-- The PTP ports leave INITIALIZING. -/
def State.startPorts (s : State) : State :=
  ([1, 2, 3, 4, 5, 6] : List Nat).foldl (fun s p => if s.portState p = PortState.initializing then s.setPortState p PortState.listening else s) s

/-- The external rails of the variant whose GOOD bit is 0 at the end of MOUNT fence Link (R75). -/
def State.checkRails (s : State) : State :=
  if (List.range 4).any fun r => s.variant.hasRail r && !s.flag Reg.pmuRails r then s.fence Region.link 0x1A none false else s

/-- R181 to R183, R194, R253, R296, R481, R551, R575: what starts and what is restored at the end of MOUNT. -/
def State.startBlocks (s : State) (temp : Int) : State :=
  let s := s.loadTime.dropSnapshots
  let s := (List.range 8).foldl State.startSpindle s
  let s := (s.setFld Reg.adpTemp 15 0 (unsigned 16 temp)).adpRestore
  let s := (List.range s.variant.lathes).foldl State.clearWarm s
  let s := s.metRestore.loadJournal.startLinks.redriveLatch.startPorts
  let s : State := { s with pwr := { s.pwr with avsControl := true } }
  let s := (List.range 16).foldl (fun s n => s.setAxis n { s.axis n with since := s.tick }) s
  s.axesLost.setFlag Reg.pmuCtrl 0 true

/-- The entry that ends MOUNT: SAFE where the Blank declares LPDDR5 and training failed, else as the Hinge decided. -/
def State.leaveMount (s : State) : State :=
  if s.variant.hasDdr && s.ddrCap != 0 && !s.flag Reg.sysMemsize 31 then s.enterSafe
  else if s.chip.roleActive && s.claim != 0 then ((s.setMode Mode.run).showCores.dispatchAll).tell
  else
    let s := (s.adpStandby.setMode Mode.standby).cancelLathes
    (s.gateTasks.gateAxes.cleGate.selfRefresh true).tell

/-- R194: the end of MOUNT, once the Blank is loaded, the role decided and training over; source 19 for a fallback slot (R126). -/
def execMountComplete (temp : Int) (s : State) : Reply :=
  if !(s.mode == Mode.mount && s.chip.blankLoaded && s.chip.roleKnown) || s.haltedInMount || s.chip.ddrPending then .next s
  else
    let s := (s.startBlocks temp).leaveMount
    let s := if s.chip.fallback && s.mode != Mode.safe then s.raise 19 else s
    .next s.checkRails

/-! ### Idling -/

/-- With no command waiting, packets that never left the part are delivered, and else 4 ns pass (DESIGN CHOICE, log entry 11). -/
def State.idle (s : State) : State := if s.mil.loop.isEmpty then s.elapse 1 else s.deliverLoop

end Sys2Proof.Machine
end

