-- ==== Sys2Proof/Machine/WardPeriod.lean ====
section
/-! DEFINITION. The Ward period starts, and the requests that waited for it are served (R231, R233, R238). -/
namespace Sys2Proof.Machine

/-- A request that waited goes on along its path, and is served when it has every grant; slack stands open to it by then (log entry 142). -/
def State.resume (s : State) (x : Waiting) : State :=
  let (s, left) := State.travel (s.holderOf x.who) true x.left s
  if left.isEmpty then
    let s := { s with ward := { s.ward with through := true } }
    let s := s.access x.who x.addr x.len x.data x.ecc x.slack
    let s := { s with ward := { s.ward with through := false } }
    if x.who = Who.pcie then s.pciAnswer x.data.isSome else s
  else s.queued x left

/-- A Ward period starts. -/
def State.startPeriod (s : State) : State :=
  let s := s.wardBoundary
  let waiting := s.ward.waiting
  waiting.foldl State.resume { s with ward := { s.ward with waiting := [] } }

/-- R231: the comparator fires, or the internal generator reaches NOMP. -/
def execWardPeriod (s : State) : Reply :=
  if !s.wardRuns then .next s
  else if s.wardSpindle = 0xFF then .next (s.elapse (s.wardTicks s.wardNominal)).startPeriod
  else
    match s.firing Consumer.wrd s.wardSpindle s.wardComparator with
    | none => .next s
    | some (s, _) => .next s.startPeriod

/-- R238: 2 NOMP pass without a firing. A firing within them, which WARD_PERIOD takes, ends the wait. -/
def execPeriodLate (s : State) : Reply :=
  if s.wardRuns && s.wardSpindle != 0xFF then
    if s.waits s.wardSpindle s.wardComparator then .next s
    else
      let s := s.elapse (s.wardTicks (2 * s.wardNominal))
      .next (if s.waits s.wardSpindle s.wardComparator then s else ((s.bump Reg.wrdLate 31 0 1).raise 89).startPeriod)
  else .next s

end Sys2Proof.Machine
end

