-- ==== Sys2Proof/Machine/Dispatch.lean ====
section
/-! DEFINITION. The dispatch of the commands: one arm per constructor of Instr, one direct call of its meaning. -/
namespace Sys2Proof.Machine

/-- The effect of one command (the row of spec/opcode_table.json its meaning names) on everything but the queue. -/
def exec (i : Instr) (s : State) : Host.Outcome State Fault Refusal :=
  match i with
  | .registerWrite who addr size value => Sys2Proof.Machine.execRegisterWrite who addr size value s
  | .memoryAccess who addr len data ecc slack => Sys2Proof.Machine.execMemoryAccess who addr len data ecc slack s
  | .slotStatusRead who addr => Sys2Proof.Machine.execSlotStatusRead who addr s
  | .slotPayloadLastRead who addr => Sys2Proof.Machine.execSlotPayloadLastRead who addr s
  | .take who addr value => Sys2Proof.Machine.execTake who addr value s
  | .lockstepMismatch pair pc => Sys2Proof.Machine.execLockstepMismatch pair pc s
  | .chipLevelEvent det => Sys2Proof.Machine.execChipLevelEvent det s
  | .unfence who value => Sys2Proof.Machine.execUnfence who value s
  | .readmitDone region again => Sys2Proof.Machine.execReadmitDone region again s
  | .scrubPass corrected bad => Sys2Proof.Machine.execScrubPass corrected bad s
  | .ddrTrainingDone ok ms lane step => Sys2Proof.Machine.execDdrTrainingDone ok ms lane step s
  | .ddrRefreshPoll code multiplier => Sys2Proof.Machine.execDdrRefreshPoll code multiplier s
  | .ddrClear who value => Sys2Proof.Machine.execDdrClear who value s
  | .vioBankLow bank => Sys2Proof.Machine.execVioBankLow bank s
  | .vioBankGood bank => Sys2Proof.Machine.execVioBankGood bank s
  | .vcoreRampStep measured => Sys2Proof.Machine.execVcoreRampStep measured s
  | .phaseFault phase => Sys2Proof.Machine.execPhaseFault phase s
  | .phaseShed loadMa powerMw => Sys2Proof.Machine.execPhaseShed loadMa powerMw s
  | .vaonFall => Sys2Proof.Machine.execVaonFall s
  | .powerOnReset => Sys2Proof.Machine.execPowerOnReset s
  | .brownout => Sys2Proof.Machine.execBrownout s
  | .resetPin ns => Sys2Proof.Machine.execResetPin ns s
  | .wdtWarden => Sys2Proof.Machine.execWdtWarden s
  | .wdtKeeper => Sys2Proof.Machine.execWdtKeeper s
  | .wardenHealthTimeout => Sys2Proof.Machine.execWardenHealthTimeout s
  | .softReset who value => Sys2Proof.Machine.execSoftReset who value s
  | .vcoreUnder => Sys2Proof.Machine.execVcoreUnder s
  | .railFault rail => Sys2Proof.Machine.execRailFault rail s
  | .vanaClassChange good => Sys2Proof.Machine.execVanaClassChange good s
  | .batLow mv => Sys2Proof.Machine.execBatLow mv s
  | .tempCrit => Sys2Proof.Machine.execTempCrit s
  | .clockMonitorFault region => Sys2Proof.Machine.execClockMonitorFault region s
  | .timingMarginFault region lasting => Sys2Proof.Machine.execTimingMarginFault region lasting s
  | .powerFailWarning => Sys2Proof.Machine.execPowerFailWarning s
  | .emergencyRewrite => Sys2Proof.Machine.execEmergencyRewrite s
  | .powerFailClear => Sys2Proof.Machine.execPowerFailClear s
  | .blankLoad => Sys2Proof.Machine.execBlankLoad s
  | .roleDecision => Sys2Proof.Machine.execRoleDecision s
  | .mountComplete temp => Sys2Proof.Machine.execMountComplete temp s
  | .safeReq who value => Sys2Proof.Machine.execSafeReq who value s
  | .store who value => Sys2Proof.Machine.execStore who value s
  | .invalidate who value => Sys2Proof.Machine.execInvalidate who value s
  | .cmdDone => Sys2Proof.Machine.execCmdDone s
  | .patchSubmit who value => Sys2Proof.Machine.execPatchSubmit who value s
  | .patchChecksDone region => Sys2Proof.Machine.execPatchChecksDone region s
  | .patchApply region => Sys2Proof.Machine.execPatchApply region s
  | .quiesceTimeout region => Sys2Proof.Machine.execQuiesceTimeout region s
  | .batteryLost => Sys2Proof.Machine.execBatteryLost s
  | .vbatRecovered mv => Sys2Proof.Machine.execVbatRecovered mv s
  | .railRecovered rail => Sys2Proof.Machine.execRailRecovered rail s
  | .resetRelease rootOk firmware => Sys2Proof.Machine.execResetRelease rootOk firmware s
  | .softwareComparatorFire spindle cmp => Sys2Proof.Machine.execSoftwareComparatorFire spindle cmp s
  | .encoderEdge enc reverse => Sys2Proof.Machine.execEncoderEdge enc reverse s
  | .encoderIndex enc => Sys2Proof.Machine.execEncoderIndex enc s
  | .mainsCrossing channel error advance pll => Sys2Proof.Machine.execMainsCrossing channel error advance pll s
  | .spindlePulse input locked advance pll => Sys2Proof.Machine.execSpindlePulse input locked advance pll s
  | .roundTick port start period => Sys2Proof.Machine.execRoundTick port start period s
  | .hostadv who spindle value => Sys2Proof.Machine.execHostadv who spindle value s
  | .spindleStall spindle => Sys2Proof.Machine.execSpindleStall spindle s
  | .rejoinEnd spindle => Sys2Proof.Machine.execRejoinEnd spindle s
  | .spnAngleRead who spindle => Sys2Proof.Machine.execSpnAngleRead who spindle s
  | .timeStep who value => Sys2Proof.Machine.execTimeStep who value s
  | .second => Sys2Proof.Machine.execSecond s
  | .ptpMessage port msg => Sys2Proof.Machine.execPtpMessage port msg s
  | .servoLocked => Sys2Proof.Machine.execServoLocked s
  | .announceTimeout port => Sys2Proof.Machine.execAnnounceTimeout port s
  | .slewDone => Sys2Proof.Machine.execSlewDone s
  | .acceptJump who value => Sys2Proof.Machine.execAcceptJump who value s
  | .jumpConfirmed => Sys2Proof.Machine.execJumpConfirmed s
  | .timeNowRead who => Sys2Proof.Machine.execTimeNowRead who s
  | .rtcCompare => Sys2Proof.Machine.execRtcCompare s
  | .rtcSubsecRead who => Sys2Proof.Machine.execRtcSubsecRead who s
  | .rtcFracRead who => Sys2Proof.Machine.execRtcFracRead who s
  | .freezeExpired id cell => Sys2Proof.Machine.execFreezeExpired id cell s
  | .commit who value => Sys2Proof.Machine.execCommit who value s
  | .commitLoad => Sys2Proof.Machine.execCommitLoad s
  | .trimOverflow => Sys2Proof.Machine.execTrimOverflow s
  | .measStart who value => Sys2Proof.Machine.execMeasStart who value s
  | .measDone => Sys2Proof.Machine.execMeasDone s
  | .measAbort => Sys2Proof.Machine.execMeasAbort s
  | .ptpPortTimer port timer => Sys2Proof.Machine.execPtpPortTimer port timer s
  | .rtcSnapshotEnd who cell => Sys2Proof.Machine.execRtcSnapshotEnd who cell s
  | .wardPeriod => Sys2Proof.Machine.execWardPeriod s
  | .periodLate => Sys2Proof.Machine.execPeriodLate s
  | .wrdClear who value => Sys2Proof.Machine.execWrdClear who value s
  | .avsEvaluation margins temp => Sys2Proof.Machine.execAvsEvaluation margins temp s
  | .dfsEvaluation => Sys2Proof.Machine.execDfsEvaluation s
  | .linkEqUpdate lane ctle taps => Sys2Proof.Machine.execLinkEqUpdate lane ctle taps s
  | .detThreshUpdate temp => Sys2Proof.Machine.execDetThreshUpdate temp s
  | .placeEvaluation slacks utils => Sys2Proof.Machine.execPlaceEvaluation slacks utils s
  | .taskMove task => Sys2Proof.Machine.execTaskMove task s
  | .lastGoodStore => Sys2Proof.Machine.execLastGoodStore s
  | .adpStore who value => Sys2Proof.Machine.execAdpStore who value s
  | .latheSubmit who lathe value => Sys2Proof.Machine.execLatheSubmit who lathe value s
  | .latheDispatch lathe => Sys2Proof.Machine.execLatheDispatch lathe s
  | .latheDeadlineQueued lathe ticket => Sys2Proof.Machine.execLatheDeadlineQueued lathe ticket s
  | .latheDeadlineStop lathe chuck iterationPs => Sys2Proof.Machine.execLatheDeadlineStop lathe chuck iterationPs s
  | .latheCompletion lathe chuck lateNs storeError iterationPs => Sys2Proof.Machine.execLatheCompletion lathe chuck lateNs storeError iterationPs s
  | .cancel who lathe value => Sys2Proof.Machine.execCancel who lathe value s
  | .flush who lathe value => Sys2Proof.Machine.execFlush who lathe value s
  | .latheClear who lathe value => Sys2Proof.Machine.execLatheClear who lathe value s
  | .latheCellFault lathe cell => Sys2Proof.Machine.execLatheCellFault lathe cell s
  | .sequencerHalt lathe => Sys2Proof.Machine.execSequencerHalt lathe s
  | .roundStart => Sys2Proof.Machine.execRoundStart s
  | .fedDown payload => Sys2Proof.Machine.execFedDown payload s
  | .fedUp payload => Sys2Proof.Machine.execFedUp payload s
  | .areaDown payload => Sys2Proof.Machine.execAreaDown payload s
  | .areaUp payload => Sys2Proof.Machine.execAreaUp payload s
  | .areaClose => Sys2Proof.Machine.execAreaClose s
  | .fedClose => Sys2Proof.Machine.execFedClose s
  | .fedPlan payload => Sys2Proof.Machine.execFedPlan payload s
  | .areaPlan payload => Sys2Proof.Machine.execAreaPlan payload s
  | .planExpired => Sys2Proof.Machine.execPlanExpired s
  | .fedClear who value => Sys2Proof.Machine.execFedClear who value s
  | .taskRelease spindle cmp => Sys2Proof.Machine.execTaskRelease spindle cmp s
  | .eventTaskRelease source number => Sys2Proof.Machine.execEventTaskRelease source number s
  | .trigger who value => Sys2Proof.Machine.execTrigger who value s
  | .taskDone who value => Sys2Proof.Machine.execTaskDone who value s
  | .taskCommit spindle cmp => Sys2Proof.Machine.execTaskCommit spindle cmp s
  | .taskFault core => Sys2Proof.Machine.execTaskFault core s
  | .programRun who program value => Sys2Proof.Machine.execProgramRun who program value s
  | .programStop who program value => Sys2Proof.Machine.execProgramStop who program value s
  | .programHold who program value => Sys2Proof.Machine.execProgramHold who program value s
  | .debugBreak core => Sys2Proof.Machine.execDebugBreak core s
  | .tskClear who value => Sys2Proof.Machine.execTskClear who value s
  | .sweepStart => Sys2Proof.Machine.execSweepStart s
  | .loopInputWritten signal => Sys2Proof.Machine.execLoopInputWritten signal s
  | .sweepDeadline => Sys2Proof.Machine.execSweepDeadline s
  | .tuneApply who value => Sys2Proof.Machine.execTuneApply who value s
  | .tuneTake => Sys2Proof.Machine.execTuneTake s
  | .tuneLoad who value => Sys2Proof.Machine.execTuneLoad who value s
  | .cleClear who value => Sys2Proof.Machine.execCleClear who value s
  | .sampleIntake input arrival payload => Sys2Proof.Machine.execSampleIntake input arrival payload s
  | .fusPush who value => Sys2Proof.Machine.execFusPush who value s
  | .frameFire spindle cmp => Sys2Proof.Machine.execFrameFire spindle cmp s
  | .frameFuse graph => Sys2Proof.Machine.execFrameFuse graph s
  | .waitExpired graph => Sys2Proof.Machine.execWaitExpired graph s
  | .replay graph => Sys2Proof.Machine.execReplay graph s
  | .streamDropped stream => Sys2Proof.Machine.execStreamDropped stream s
  | .fusionEngineHalt engine => Sys2Proof.Machine.execFusionEngineHalt engine s
  | .fusClear who value => Sys2Proof.Machine.execFusClear who value s
  | .waveformPacket port vc payload => Sys2Proof.Machine.execWaveformPacket port vc payload s
  | .mainsCycleEnd spindle cmp samples => Sys2Proof.Machine.execMainsCycleEnd spindle cmp samples s
  | .remoteCycleClose system => Sys2Proof.Machine.execRemoteCycleClose system s
  | .heatStep ratios => Sys2Proof.Machine.execHeatStep ratios s
  | .meterPulse input => Sys2Proof.Machine.execMeterPulse input s
  | .billingClose => Sys2Proof.Machine.execBillingClose s
  | .intervalWrite who value => Sys2Proof.Machine.execIntervalWrite who value s
  | .pulseStart output => Sys2Proof.Machine.execPulseStart output s
  | .pulseEnd output => Sys2Proof.Machine.execPulseEnd output s
  | .batterySecond irms => Sys2Proof.Machine.execBatterySecond irms s
  | .periodicSave => Sys2Proof.Machine.execPeriodicSave s
  | .save who value => Sys2Proof.Machine.execSave who value s
  | .metClear who value => Sys2Proof.Machine.execMetClear who value s
  | .metRegRead who register => Sys2Proof.Machine.execMetRegRead who register s
  | .waveformSend first samples => Sys2Proof.Machine.execWaveformSend first samples s
  | .heartbeatSend => Sys2Proof.Machine.execHeartbeatSend s
  | .heartbeat link frame => Sys2Proof.Machine.execHeartbeat link frame s
  | .peerLost peer => Sys2Proof.Machine.execPeerLost peer s
  | .healthWrite who value => Sys2Proof.Machine.execHealthWrite who value s
  | .takeover => Sys2Proof.Machine.execTakeover s
  | .yield who value => Sys2Proof.Machine.execYield who value s
  | .handover who value => Sys2Proof.Machine.execHandover who value s
  | .clearUnfit who value => Sys2Proof.Machine.execClearUnfit who value s
  | .proofNow who value => Sys2Proof.Machine.execProofNow who value s
  | .resetEpoch who value => Sys2Proof.Machine.execResetEpoch who value s
  | .delayedSoftReset => Sys2Proof.Machine.execDelayedSoftReset s
  | .cut => Sys2Proof.Machine.execCut s
  | .cutSkipped => Sys2Proof.Machine.execCutSkipped s
  | .checkpointPacket frame => Sys2Proof.Machine.execCheckpointPacket frame s
  | .checkpointApply => Sys2Proof.Machine.execCheckpointApply s
  | .finalTake => Sys2Proof.Machine.execFinalTake s
  | .abandoned => Sys2Proof.Machine.execAbandoned s
  | .revertReq => Sys2Proof.Machine.execRevertReq s
  | .proofRun => Sys2Proof.Machine.execProofRun s
  | .proofRunEnd failed => Sys2Proof.Machine.execProofRunEnd failed s
  | .latchStatus input frame => Sys2Proof.Machine.execLatchStatus input frame s
  | .hngClear who value => Sys2Proof.Machine.execHngClear who value s
  | .checkpointSent => Sys2Proof.Machine.execCheckpointSent s
  | .checkpointStale => Sys2Proof.Machine.execCheckpointStale s
  | .latchCommand input frame => Sys2Proof.Machine.execLatchCommand input frame s
  | .latchWithdraw input frame => Sys2Proof.Machine.execLatchWithdraw input frame s
  | .statusSend => Sys2Proof.Machine.execStatusSend s
  | .latchHoldExpiry channel => Sys2Proof.Machine.execLatchHoldExpiry channel s
  | .latchCmd who channel value => Sys2Proof.Machine.execLatchCmd who channel value s
  | .latchArm who high value => Sys2Proof.Machine.execLatchArm who high value s
  | .latClear who value => Sys2Proof.Machine.execLatClear who value s
  | .latchStuck channel => Sys2Proof.Machine.execLatchStuck channel s
  | .axisGo who value => Sys2Proof.Machine.execAxisGo who value s
  | .axisStop who value => Sys2Proof.Machine.execAxisStop who value s
  | .axisHalt who value => Sys2Proof.Machine.execAxisHalt who value s
  | .axisHome who axis value => Sys2Proof.Machine.execAxisHome who axis value s
  | .setPos who axis value => Sys2Proof.Machine.execSetPos who axis value s
  | .stepEmit axis => Sys2Proof.Machine.execStepEmit axis s
  | .homeSwitch axis => Sys2Proof.Machine.execHomeSwitch axis s
  | .currentReduce axis => Sys2Proof.Machine.execCurrentReduce axis s
  | .prfSample axis => Sys2Proof.Machine.execPrfSample axis s
  | .panelFrameStart late => Sys2Proof.Machine.execPanelFrameStart late s
  | .powerUp who value => Sys2Proof.Machine.execPowerUp who value s
  | .powerOff who value => Sys2Proof.Machine.execPowerOff who value s
  | .railStep => Sys2Proof.Machine.execRailStep s
  | .updGo who value => Sys2Proof.Machine.execUpdGo who value s
  | .lightDelayExpiry => Sys2Proof.Machine.execLightDelayExpiry s
  | .packet link bytes => Sys2Proof.Machine.execPacket link bytes s
  | .nak link seq => Sys2Proof.Machine.execNak link seq s
  | .ackTimeout link => Sys2Proof.Machine.execAckTimeout link s
  | .linkinfo link payload => Sys2Proof.Machine.execLinkinfo link payload s
  | .blockLockLost link => Sys2Proof.Machine.execBlockLockLost link s
  | .linkRetrain link write => Sys2Proof.Machine.execLinkRetrain link write s
  | .kx link payload => Sys2Proof.Machine.execKx link payload s
  | .keyctl who port value => Sys2Proof.Machine.execKeyctl who port value s
  | .kxTimeout link vc => Sys2Proof.Machine.execKxTimeout link vc s
  | .txRingTail who port vc value => Sys2Proof.Machine.execTxRingTail who port vc value s
  | .rxfullTimeout link => Sys2Proof.Machine.execRxfullTimeout link s
  | .vcStall link vc => Sys2Proof.Machine.execVcStall link vc s
  | .milClear who port value => Sys2Proof.Machine.execMilClear who port value s
  | .ethFrame port frame message => Sys2Proof.Machine.execEthFrame port frame message s
  | .ethTxTail who port value => Sys2Proof.Machine.execEthTxTail who port value s
  | .ethMdio who value data => Sys2Proof.Machine.execEthMdio who value data s
  | .ethClear who value => Sys2Proof.Machine.execEthClear who value s
  | .blockLockGained link => Sys2Proof.Machine.execBlockLockGained link s
  | .creditReturn link ack vc credits => Sys2Proof.Machine.execCreditReturn link ack vc credits s
  | .rxRingTail who eth port vc value => Sys2Proof.Machine.execRxRingTail who eth port vc value s
  | .ethLinkChange port link speed => Sys2Proof.Machine.execEthLinkChange port link speed s
  | .canFrame controller id ctl data errors => Sys2Proof.Machine.execCanFrame controller id ctl data errors s
  | .txreq who controller high value => Sys2Proof.Machine.execTxreq who controller high value s
  | .txEnd controller sent errors => Sys2Proof.Machine.execTxEnd controller sent errors s
  | .txcan who controller high value => Sys2Proof.Machine.execTxcan who controller high value s
  | .busOff controller errors => Sys2Proof.Machine.execBusOff controller errors s
  | .recover who controller value => Sys2Proof.Machine.execRecover who controller value s
  | .recoveryDone controller => Sys2Proof.Machine.execRecoveryDone controller s
  | .fifoAck who controller fifo value => Sys2Proof.Machine.execFifoAck who controller fifo value s
  | .hprel who controller value => Sys2Proof.Machine.execHprel who controller value s
  | .hostAccess bar offset n write ecc slack => Sys2Proof.Machine.execHostAccess bar offset n write ecc slack s
  | .pcieLinkChange link rate width ltssm => Sys2Proof.Machine.execPcieLinkChange link rate width ltssm s
  | .flr => Sys2Proof.Machine.execFlr s
  | .msiX vector => Sys2Proof.Machine.execMsiX vector s
  | .spiId => Sys2Proof.Machine.execSpiId s
  | .spiRead addr n => Sys2Proof.Machine.execSpiRead addr n s
  | .spiWrite addr data => Sys2Proof.Machine.execSpiWrite addr data s
  | .spiAbandon addr reads data => Sys2Proof.Machine.execSpiAbandon addr reads data s
  | .mbxSend who value => Sys2Proof.Machine.execMbxSend who value s
  | .pop who channel => Sys2Proof.Machine.execPop who channel s
  | .ring who value => Sys2Proof.Machine.execRing who value s
  | .dmiRead who value => Sys2Proof.Machine.execDmiRead who value s
  | .dmiWrite who value => Sys2Proof.Machine.execDmiWrite who value s
  | .haltRequest engine => Sys2Proof.Machine.execHaltRequest engine s
  | .jtagAttach => Sys2Proof.Machine.execJtagAttach s
  | .digest => Sys2Proof.Machine.execDigest s
  | .sign => Sys2Proof.Machine.execSign s
  | .verify => Sys2Proof.Machine.execVerify s
  | .mac => Sys2Proof.Machine.execMac s
  | .encrypt => Sys2Proof.Machine.execEncrypt s
  | .decrypt => Sys2Proof.Machine.execDecrypt s
  | .publicKey => Sys2Proof.Machine.execPublicKey s
  | .quote => Sys2Proof.Machine.execQuote s
  | .keyInvalidate => Sys2Proof.Machine.execKeyInvalidate s
  | .reclaimed => Sys2Proof.Machine.execReclaimed s
  | .provision => Sys2Proof.Machine.execProvision s
  | .transition => Sys2Proof.Machine.execTransition s
  | .random => Sys2Proof.Machine.execRandom s
  | .keyClear who value => Sys2Proof.Machine.execKeyClear who value s
  | .faultRecordWrite => Sys2Proof.Machine.execFaultRecordWrite s
  | .injectLive who value => Sys2Proof.Machine.execInjectLive who value s
  | .injectShadow who value => Sys2Proof.Machine.execInjectShadow who value s
  | .injectionTimeout => Sys2Proof.Machine.execInjectionTimeout s
  | .injAbort who value => Sys2Proof.Machine.execInjAbort who value s
  | .fltClear who value => Sys2Proof.Machine.execFltClear who value s
  | .gpioEdge gpio rising => Sys2Proof.Machine.execGpioEdge gpio rising s

end Sys2Proof.Machine
end

