-- ==== Sys2Proof/Machine/Package.lean ====
section
/-! DEFINITION. Packages and balls (19): R687 to R691. A ball is a row, counted from 1 for A, and a column. -/
namespace Sys2Proof.Machine

/-- The package is the FCBGA-1057; else it is the FBGA-484 (R687). -/
def Variant.flipChip : Variant → Bool
  | .ev4816 => true
  | .ev4808 => true
  | .ev4804 => false
  | .ev4801 => false

/-- Rows and columns of the grid (R687). -/
def Variant.gridSide (v : Variant) : Nat := if v.flipChip then 33 else 22

/-- The letters of the rows; the FBGA ends at AC (R687). -/
def rowLetters : List String :=
  ["A", "B", "C", "D", "E", "F", "G", "H", "J", "K", "L", "M", "N", "P", "T", "U", "V", "W", "Y", "AA", "AB", "AC"] ++
  ["AD", "AE", "AF", "AG", "AH", "AJ", "AK", "AL", "AM", "AN", "AP"]

/-- A ball's name: its row's letters and its column. -/
def ballName (row col : Nat) : String := rowLetters.getD (row - 1) "" ++ toString col

/-- Distance of a row or column from the nearer edge of the FCBGA grid, 0 at the edge. -/
def edgeDistance (k : Nat) : Nat := min (k - 1) (33 - k)

/-- A position holds a ball: the FCBGA leaves out the 3 by 3 group at each corner but its ball nearest the centre (R687). -/
def Variant.populated (v : Variant) (row col : Nat) : Bool :=
  decide (1 ≤ row) && decide (row ≤ v.gridSide) && decide (1 ≤ col) && decide (col ≤ v.gridSide) &&
    !(v.flipChip && decide (edgeDistance row < 3) && decide (edgeDistance col < 3) && !(edgeDistance row == 2 && edgeDistance col == 2))

/-- First row, first column, rows and columns of a bank of MIO balls, 0 for A (R691). -/
def Variant.bankArea (v : Variant) (bank : Nat) : Nat × Nat × Nat × Nat :=
  if v.flipChip then
    [(4, 1, 24, 2), (4, 3, 24, 2), (4, 5, 2, 24), (25, 5, 2, 24), (6, 29, 24, 2), (6, 5, 2, 24)].getD bank (0, 0, 0, 0)
  else
    [(1, 1, 12, 2), (1, 3, 12, 2), (13, 1, 8, 3), (3, 16, 8, 3), (11, 16, 8, 3), (19, 4, 2, 12)].getD bank (0, 0, 0, 0)

/-- The ball of MIO `n`: row by row from its bank's first row, in a row by ascending column (R691). -/
def Variant.mioBall (v : Variant) (n : Nat) : Nat × Nat :=
  let (row, col, _, cols) := v.bankArea (n / v.bankBalls)
  (row + n % v.bankBalls / cols, col + n % v.bankBalls % cols)

/-! ### Dedicated balls (R690) -/

/-- Signals along a row from a column on. -/
def alongRow (row col : Nat) (names : List String) : List (String × Nat × Nat) := names.zipIdx.map fun e => (e.1, row, col + e.2)
/-- Signals down a column from a row on. -/
def downColumn (col row : Nat) (names : List String) : List (String × Nat × Nat) := names.zipIdx.map fun e => (e.1, row + e.2, col)
def numbered (name : String) (n : Nat) : List String := (List.range n).map fun k => name ++ toString k

def analogueSignals : List String :=
  ["V1_P", "V1_N", "V2_P", "V2_N", "V3_P", "V3_N", "I1_P", "I1_N", "I2_P", "I2_N", "I3_P", "I3_N", "IN_P", "IN_N", "AUX_P", "AUX_N"]
def rtdSignals : List String := (List.range 4).flatMap fun k => ["RTD" ++ toString k ++ "_EXC", "RTD" ++ toString k ++ "_SP", "RTD" ++ toString k ++ "_SN"]
def hingeSignals : List String := ["HNG_TXA_P", "HNG_TXA_N", "HNG_RXA_P", "HNG_RXA_N", "HNG_TXB_P", "HNG_TXB_N", "HNG_RXB_P", "HNG_RXB_N"]
def regulatorSignals : List String := numbered "PWM" 4 ++ numbered "ISEN" 4 ++ ["VSNS_P", "VSNS_N", "PMU_PG"]
def portSignals : List String := ["TCK", "TMS", "TDI", "TDO", "TRST_N", "HSP_SCLK", "HSP_MOSI", "HSP_MISO", "HSP_CS_N", "HSP_IRQ_N"]
def commandSignals : List String := numbered "CA" 7 ++ ["CK_T", "CK_C", "CS0", "CS1", "DDR_RESET_N", "ZQ"]
def bankSupplies (n : Nat) : List String :=
  (["VIO_A", "VIO_B", "VIO_C", "VIO_D", "VIO_E", "VIO_F"] : List String).flatMap fun b => List.replicate n b

/-- A differential pair each way in rows A and B. -/
def laneBalls (col : Nat) (out inp : String) : List (String × Nat × Nat) :=
  alongRow 1 col [out ++ "_P", out ++ "_N"] ++ alongRow 2 col [inp ++ "_P", inp ++ "_N"]
def serdesBalls (first lanes : Nat) : List (String × Nat × Nat) :=
  (List.range lanes).flatMap fun l => laneBalls (first + 3 * l) ("TX" ++ toString l) ("RX" ++ toString l)

/-- A byte of the LPDDR5 data bus, in a row. -/
def dataByte (row b : Nat) : List (String × Nat × Nat) :=
  let n := toString b
  alongRow row 4 (numbered ("DQ" ++ n ++ "_") 8) ++
    alongRow row 13 ["DMI" ++ n, "RDQS" ++ n ++ "_T", "RDQS" ++ n ++ "_C", "WCK" ++ n ++ "_T", "WCK" ++ n ++ "_C"]

def flipChipBalls : List (String × Nat × Nat) :=
  serdesBalls 12 4 ++ alongRow 1 24 ["MREFCLK_P", "MREFCLK_N"] ++ alongRow 3 4 (List.replicate 22 "VSERDES") ++
  (List.range 2).flatMap (fun k => laneBalls (4 + 3 * k) ("PET" ++ toString k) ("PER" ++ toString k)) ++
  alongRow 1 10 ["PCIE_REFCLK_P", "PCIE_REFCLK_N"] ++ alongRow 2 10 ["PERST_N"] ++
  (List.range 4).flatMap (fun b => dataByte (33 - b) b) ++ alongRow 29 4 commandSignals ++
  alongRow 28 4 (List.replicate 5 "VDDR1" ++ List.replicate 5 "VDDR2" ++ List.replicate 4 "VDDRQ") ++
  downColumn 33 4 (analogueSignals ++ ["VANA", "XIN", "XOUT", "RTC_XIN", "RTC_XOUT", "VBAT", "VAON", "VAON", "PFI", "RESET_N"]) ++
  downColumn 32 4 (List.replicate 17 "AGND") ++
  downColumn 31 4 (rtdSignals ++ ["RREF_P", "RREF_N", "VREF", "VANA", "VANA"] ++ hingeSignals) ++
  alongRow 32 20 regulatorSignals ++ alongRow 30 20 portSignals ++ alongRow 8 5 (bankSupplies 4)

def wireBondBalls : List (String × Nat × Nat) :=
  serdesBalls 8 2 ++ alongRow 1 14 ["MREFCLK_P", "MREFCLK_N"] ++ alongRow 3 8 (List.replicate 8 "VSERDES") ++
  downColumn 22 3 (analogueSignals ++ ["VANA", "XIN", "XOUT", "RTC_XIN"]) ++
  downColumn 21 3 (List.replicate 16 "AGND" ++ ["VAON", "VAON", "VBAT", "RTC_XOUT"]) ++
  downColumn 20 3 (rtdSignals ++ ["RREF_P", "RREF_N", "VREF", "VANA", "VANA"]) ++
  alongRow 21 20 ["RESET_N"] ++ alongRow 22 20 ["PFI"] ++ downColumn 19 3 hingeSignals ++
  alongRow 22 1 regulatorSignals ++ alongRow 21 1 portSignals ++
  (List.range 6).flatMap fun b => alongRow (3 + b) 5 ((bankSupplies 2).drop (2 * b) |>.take 2)

/-- The field of VCORE and VSS balls under the die. -/
def Variant.coreField (v : Variant) (row col : Nat) : Bool :=
  if v.flipChip then decide (10 ≤ row) && decide (row ≤ 24) && decide (10 ≤ col) && decide (col ≤ 24)
  else decide (8 ≤ row) && decide (row ≤ 15) && decide (8 ≤ col) && decide (col ≤ 15)

/-- The signals of SerDes lanes. -/
def laneSignals (lanes : List Nat) : List String :=
  lanes.flatMap fun l => ["TX" ++ toString l ++ "_P", "TX" ++ toString l ++ "_N", "RX" ++ toString l ++ "_P", "RX" ++ toString l ++ "_N"]

/-- Signals that serve only a unit the variant lacks (R689). -/
def Variant.unconnected : Variant → List String
  | .ev4816 => []
  | .ev4808 => laneSignals [2, 3]
  | .ev4804 => []
  | .ev4801 => laneSignals [0, 1] ++ ["MREFCLK_P", "MREFCLK_N", "VSERDES"]

/-- What a populated position is: a dedicated signal, an MIO ball, VCORE, or VSS (R688, R690, R691). -/
def Variant.ballSignal (v : Variant) (row col : Nat) : String :=
  if v.coreField row col then (if (row + col) % 2 = 1 then "VCORE" else "VSS")
  else match (if v.flipChip then flipChipBalls else wireBondBalls).find? fun b => b.2 == (row, col) with
    | some b => if v.unconnected.contains b.1 then "NC" else b.1
    | none => match (List.range (6 * v.bankBalls)).find? fun n => v.mioBall n == (row, col) with
      | some n => "MIO" ++ toString n
      | none => "VSS"

end Sys2Proof.Machine
end

