-- ==== Sys2Proof/Safety.lean ====
section
/-! DEFINITION. What counts as a sound state and as safe outputs, in the terms the statements use. -/
namespace Sys2Proof.Machine

/-- Memory and the register file are in their one canonical form. -/
def State.canonical (s : State) : Bool := Memory.wf s.ddrGen s.mem && s.regs.wf

/-- SYS.MODE.MODE holds one of the six modes (R96). -/
def State.legalMode (s : State) : Bool := decide (s.mode ≤ Mode.safe)

/-- A channel of the Latch is in state SAFE and drives its SAFEVAL (R99, R523). -/
def State.channelSafe (s : State) (c : Nat) : Bool := s.latchHeld c == Lat.safe && s.num (Reg.latValue c) == s.latchSafeval c

/-- Every used channel of the Latch drives its safe value (R99). -/
def State.outputsSafe (s : State) : Bool := (List.range 64).all fun c => !s.latchUsed c || s.channelSafe c

/-- A register of the fault collector, which every detector event changes (R669, R676). -/
def inFlt (q : Nat) : Prop := 0x30000 ≤ q ∧ q < 0x40000

/-- A write of a register meets no check before its own effect: the initiator acts on the bus, the register is there, its region is
not fenced, and neither the block's rule nor a LOCK stands against it (R705). -/
def State.writable (s : State) (w : Who) (off : Nat) (v : Word) : Bool :=
  !s.silent w (Addr.regs + off) 4 true && s.regWriteCode w (Addr.regs + off) 4 v == Code.ok

/-- The same of a read. -/
def State.readable (s : State) (w : Who) (off : Nat) : Bool :=
  !s.silent w (Addr.regs + off) 4 false && s.regReadCode w (Addr.regs + off) 4 == Code.ok

/-- The access of a register write on its way. -/
def writeAccess (w : Who) (off : Nat) (v : Word) : Waiting := wordAccess w (Addr.regs + off) 4 (some (leBytes 4 v.toNat))

/-- The access of a register read on its way. -/
def readAccess (w : Who) (off : Nat) : Waiting := wordAccess w (Addr.regs + off) 4 none

/-- The write meets no check in `o` and has every grant on its path, and reaches its register in `s`. Where the access is not under a Ward
credit, `s` is `o`; else the grants have been counted (R230 to R234). -/
def State.admits (o : State) (w : Who) (off : Nat) (v : Word) (s : State) : Prop :=
  o.writable w off v = true ∧ o.grants (writeAccess w off v) = (s, [])

/-- The same of a read. -/
def State.admitsRead (o : State) (w : Who) (off : Nat) (s : State) : Prop :=
  o.readable w off = true ∧ o.grants (readAccess w off) = (s, [])

/-- What the grants of an access change: the credits, the counters of spent credits, the records of them and their sources; from `o` to `s`
nothing else. -/
def Granted (o s : State) : Prop :=
  s = { o with ward := s.ward, regs := s.regs, flt := s.flt, inj := s.inj, plic := s.plic } ∧
    s.ward = { o.ward with spent := s.ward.spent, exhausted := s.ward.exhausted } ∧
    ∀ q, ¬ inFlt q → (∀ h, h < 64 → q ≠ Reg.wrdHexhCr h ∧ q ≠ Reg.wrdHexhBc h ∧ q ≠ Reg.wrdHborrow h) → s.reg q = o.reg q

/-- The write is refused with a bus error (R705). -/
def State.refusesWrite (s : State) (w : Who) (off : Nat) (v : Word) : Bool :=
  !s.silent w (Addr.regs + off) 4 true && s.regWriteCode w (Addr.regs + off) 4 v != Code.ok

/-- The commands that are a write of one register: who writes, its offset and the value. -/
def registerWriteOf : Instr → Option (Who × Nat × Word)
  | .ddrClear w v => some (w, Reg.ddrClear, v)
  | .unfence w v => some (w, Reg.sysUnfence, v)
  | .softReset w v => some (w, Reg.sysReset, v)
  | .safeReq w v => some (w, Reg.sysSafeReq, v)
  | .store w v => some (w, Reg.blkCmd, v)
  | .invalidate w v => some (w, Reg.blkCmd, v)
  | .patchSubmit w v => some (w, Reg.blkSubmit, v)
  | .hostadv w n v => some (w, Reg.spnHostadv (n % 8), v)
  | .timeStep w v => some (w, Reg.timStepGo, v)
  | .acceptJump w v => some (w, Reg.timAcceptJump, v)
  | .commit w v => some (w, Reg.rtcCommit, v)
  | .measStart w v => some (w, Reg.rtcMeasCtrl, v)
  | .wrdClear w v => some (w, Reg.wrdClear, v)
  | .adpStore w v => some (w, Reg.adpStore, v)
  | .latheSubmit w n v => some (w, Reg.lthSubmit (n % 4), v)
  | .cancel w n v => some (w, Reg.lthCancel (n % 4), v)
  | .flush w n v => some (w, Reg.lthQctrl (n % 4), v)
  | .latheClear w n v => some (w, Reg.lthClear (n % 4), v)
  | .fedClear w v => some (w, Reg.fedClear, v)
  | .trigger w v => some (w, Reg.tskTrigger, v)
  | .taskDone w v => some (w, Reg.tskDone, v)
  | .programRun w p v => some (w, Reg.tskPmode (p % 16), v)
  | .programStop w p v => some (w, Reg.tskPmode (p % 16), v)
  | .programHold w p v => some (w, Reg.tskPmode (p % 16), v)
  | .tskClear w v => some (w, Reg.tskClear, v)
  | .tuneApply w v => some (w, Reg.cleTgo, v)
  | .tuneLoad w v => some (w, Reg.cleTgo, v)
  | .cleClear w v => some (w, Reg.cleClear, v)
  | .fusPush w v => some (w, Reg.fusPush, v)
  | .fusClear w v => some (w, Reg.fusClear, v)
  | .intervalWrite w v => some (w, Reg.metInterval, v)
  | .save w v => some (w, Reg.metSave, v)
  | .metClear w v => some (w, Reg.metClear, v)
  | .healthWrite w v => some (w, Reg.hngHealth, v)
  | .yield w v => some (w, Reg.hngCmd, v)
  | .handover w v => some (w, Reg.hngCmd, v)
  | .clearUnfit w v => some (w, Reg.hngCmd, v)
  | .proofNow w v => some (w, Reg.hngCmd, v)
  | .resetEpoch w v => some (w, Reg.hngCmd, v)
  | .hngClear w v => some (w, Reg.hngClear, v)
  | .latchCmd w c v => some (w, Reg.latCmd (c % 64), v)
  | .latchArm w high v => some (w, if high then Reg.latArmHi else Reg.latArmLo, v)
  | .latClear w v => some (w, Reg.latClear, v)
  | .axisGo w v => some (w, Reg.prfGo, v)
  | .axisStop w v => some (w, Reg.prfStop, v)
  | .axisHalt w v => some (w, Reg.prfHalt, v)
  | .axisHome w n v => some (w, Reg.prfHome (n % 16), v)
  | .setPos w n v => some (w, Reg.prfHome (n % 16), v)
  | .powerUp w v => some (w, Reg.pnlCtrl, v)
  | .powerOff w v => some (w, Reg.pnlCtrl, v)
  | .updGo w v => some (w, Reg.pnlUpdGo, v)
  | .keyctl w p v => some (w, Reg.milKeyctl (p % 2), v)
  | .txRingTail w p c v => some (w, Reg.milTxtail (p % 2) (c % 8), v)
  | .milClear w p v => some (w, Reg.milClear (p % 2), v)
  | .ethTxTail w e v => some (w, Reg.ethTxtail (e % 6), v)
  | .ethMdio w v _ => some (w, Reg.ethMdio, v)
  | .ethClear w v => some (w, Reg.ethClear, v)
  | .txreq w k high v => some (w, if high then Reg.canTxreqHi (k % 4) else Reg.canTxreqLo (k % 4), v)
  | .txcan w k high v => some (w, if high then Reg.canTxcanHi (k % 4) else Reg.canTxcanLo (k % 4), v)
  | .recover w k v => some (w, Reg.canCtrl (k % 4), v)
  | .fifoAck w k f v => some (w, if f % 2 = 0 then Reg.canF0ack (k % 4) else Reg.canF1ack (k % 4), v)
  | .hprel w k v => some (w, Reg.canHprel (k % 4), v)
  | .mbxSend w v => some (w, Reg.mbxSend, v)
  | .ring w v => some (w, Reg.mbxRing, v)
  | .dmiRead w v => some (w, Reg.dbgDmiOp, v)
  | .dmiWrite w v => some (w, Reg.dbgDmiOp, v)
  | .keyClear w v => some (w, Reg.keyClear, v)
  | .injectLive w v => some (w, Reg.injGo, v)
  | .injectShadow w v => some (w, Reg.injGo, v)
  | .injAbort w v => some (w, Reg.injAbort, v)
  | .fltClear w v => some (w, Reg.fltClear, v)
  | .linkRetrain l (some (w, v)) => some (w, Reg.milCtrl (l % 4 / 2), v)
  | .rxRingTail w eth p c v => some (w, if eth then Reg.ethRxtail (p % 6) else Reg.milRxtail (p % 2) (c % 8), v)
  | _ => none

/-- The commands that are a read of one register: who reads, and its offset. -/
def registerReadOf : Instr → Option (Who × Nat)
  | .spnAngleRead w n => some (w, Reg.spnAngle (n % 8))
  | .timeNowRead w => some (w, Reg.timNowNs)
  | .rtcSubsecRead w => some (w, Reg.rtcSubsec)
  | .rtcFracRead w => some (w, Reg.rtcFrac)
  | .rtcSnapshotEnd w cell => some (w, if cell then Reg.rtcYear else Reg.rtcSecHi)
  | .metRegRead w j => some (w, Reg.metRegLo (j % 112))
  | .pop w c => some (w, Reg.mbxPop (c % 64))
  | _ => none

/-! ### What statements say of a command -/

/-- The command runs: `exec` answers a next state, and the property holds of it. -/
def Completes (c : Instr) (s : State) (P : State → Prop) : Prop := ∃ t, exec c s = .next t ∧ P t

/-- From `s` to `t` nothing changes but the registers `rs`, the pending interrupt sources and the bus reply; all of memory, every other
register and every other part of the state stand. -/
def OnlyRegs (s t : State) (rs : List Nat) : Prop :=
  t = { s with regs := t.regs, plic := t.plic, bus := t.bus } ∧ ∀ q, q ∉ rs → t.reg q = s.reg q

/-- The same where detector events may be recorded too: the collector, its registers and the record of an injection change. -/
def OnlyRegsFlt (s t : State) (rs : List Nat) : Prop :=
  t = { s with regs := t.regs, plic := t.plic, bus := t.bus, flt := t.flt, inj := t.inj } ∧
    ∀ q, q ∉ rs → ¬ inFlt q → t.reg q = s.reg q

/-- The bus acknowledges a write: OK, with no data (R25). -/
def Acked (t : State) : Prop := t.bus = { code := Code.ok, data := [] }

/-- The sources pending in `t` are those pending in `s`, and of `ns` those that may rise. -/
def Raised (s t : State) (ns : List Nat) : Prop := t.plic = (s.raiseAll ns).plic

/-- An acknowledged write, commanded in `o` and served in `s` once it has its grants, whose effect is on the registers `rs` and on the
interrupt sources `ns` alone. -/
def Writes (c : Instr) (o s : State) (rs ns : List Nat) (P : State → Prop) : Prop :=
  Completes c o fun t => Acked t ∧ OnlyRegs s t rs ∧ Raised s t ns ∧ P t

/-- An acknowledged write that sets the registers `rs` to 0 and changes nothing else. -/
def Zeroes (c : Instr) (o s : State) (rs : List Nat) : Prop := Writes c o s rs [] fun t => ∀ q ∈ rs, t.reg q = 0#32

/-- A command of its own accord: its effect is on the registers `rs` and on the interrupt sources `ns` alone. -/
def Alters (c : Instr) (s : State) (rs ns : List Nat) (P : State → Prop) : Prop :=
  Completes c s fun t => t.bus = s.bus ∧ OnlyRegs s t rs ∧ Raised s t ns ∧ P t

/-- The command finds nothing to do: the state stays as it is. -/
def Idles (c : Instr) (s : State) : Prop := exec c s = .next s

/-- The command fences region `r` for detector `det` (R36, R28): no other region changes its fence, the mode stands, the region's patch requests
end, one event waits for the chip level, and with no request to end memory stays as it is. -/
def Fences (c : Instr) (s : State) (r det : Nat) : Prop :=
  Completes c s fun t => t.fenced r = true ∧ (∀ q, q ≠ r → t.fenced q = s.fenced q) ∧ t.mode = s.mode ∧ t.bus = s.bus ∧
    t.blk.runs.get r = none ∧ t.blk.waits.get r = none ∧ (∃ e, t.chip.events = s.chip.events ++ [e] ∧ e.det = det) ∧
    (s.blk.runs.get r = none → s.blk.waits.get r = none → t.mem = s.mem) ∧ t.pendingSource 1 = true

/-- What every reset keeps and clears (R93): MRAM byte for byte but for a journal slot it finds being written (R81), the calendar cell, the
metrology's battery domain, the keys' helper data and the provisioning record but for a copy it finds being written (R653); SRAM reads 0, and LPDDR5
holds free bytes of a fresh generation. -/
def DomainsKept (s t : State) : Prop :=
  (∀ a, Addr.mram ≤ a → a < Addr.mram + 0x1000000 → (∀ x, s.met.writing = some x → a < x.1 ∨ x.1 + x.2.1.length ≤ a) → t.byte a = s.byte a) ∧
    (∀ a, Addr.stock ≤ a → a < Addr.mram → t.byte a = 0#8) ∧
    (∀ a, Addr.ddr ≤ a → t.byte a = Config.ddrByte (s.ddrGen + 1) a) ∧
    t.rtc.valid = s.rtc.valid ∧ t.rtc.cellSec = s.rtc.cellSec ∧ t.rtc.cellTick = s.rtc.cellTick ∧ t.rtc.trim = s.rtc.trim ∧
    t.met.bm = s.met.bm ∧ t.key.enrolled = s.key.enrolled ∧
    (∀ c, (∀ x, s.key.writing = some x → x.1 ≠ c) → t.key.copies.get c = s.key.copies.get c) ∧ t.pending = s.pending

/-- The command, given in `o`, resets the part from the state `s` (R91, R93): to MOUNT, with its cause set in SYS.RSTCAUSE beside those set before. -/
def Resets (c : Instr) (o s : State) (cause : Nat) : Prop :=
  Completes c o fun t => t.mode = Mode.mount ∧ t.flag Reg.sysRstcause cause = true ∧
    (∀ b, b < 8 → b ≠ cause → cause ≠ 0 → t.flag Reg.sysRstcause b = s.flag Reg.sysRstcause b) ∧ DomainsKept s t ∧
    t.pwr.bkLow = s.pwr.bkLow ∧ t.pwr.bkHigh = s.pwr.bkHigh ∧ t.pwr.bmLow = s.pwr.bmLow ∧ t.pwr.bmHigh = s.pwr.bmHigh

/-- The command resets the part through the chip level, after the records of R674: to MOUNT, with SRAM cleared and the keys' helper data kept; its cause
is set unless an event of another detector that resets waits before it, and the causes set before stand; the reset is shown beside the
mode it left. A part without a claim loses no time over it, so that its calendar stands. -/
def ResetsOnEvent (c : Instr) (s : State) (cause : Nat) : Prop :=
  Completes c s fun t => t.mode = Mode.mount ∧ t.chip.events = [] ∧
    ((∀ e ∈ s.chip.events, resetCause e.det = none) → t.flag Reg.sysRstcause cause = true) ∧
    (∀ b, b < 8 → s.flag Reg.sysRstcause b = true → t.flag Reg.sysRstcause b = true) ∧
    (∀ a, Addr.stock ≤ a → a < Addr.mram → t.byte a = 0#8) ∧ t.key.enrolled = s.key.enrolled ∧
    (s.mode ≠ Mode.mount → t.fld Reg.sysMode 7 4 = s.mode ∧ t.pendingSource 15 = true) ∧
    (s.claim = 0 → t.rtc.valid = s.rtc.valid ∧ t.rtc.cellSec = s.rtc.cellSec ∧ t.rtc.cellTick = s.rtc.cellTick)

/-- The result slot at address `a` has received a result of this code: the next SEQ, fresh, shown or waiting behind a held snapshot (R20, R21). -/
def Delivers (s t : State) (a code : Nat) : Prop :=
  (t.slots.get a).fresh = true ∧ (t.slots.get a).nextSeq = ((s.slots.get a).nextSeq + 1) % 2 ^ 24 ∧
    ∃ r, (if (s.slots.get a).held then (t.slots.get a).waiting else (t.slots.get a).shown) = some r ∧ r.code = code ∧
      r.seq = (s.slots.get a).nextSeq % 2 ^ 24

/-- A federation message is counted in register `r` and dropped; the first one in a round raises source 181 (R327, R335, R336). -/
def Drops (c : Instr) (s : State) (r : Nat) : Prop :=
  Completes c s fun t => t.bus = s.bus ∧ OnlyRegs { s with fed := t.fed } t [r] ∧ Raised s t (if s.fed.dropped then [] else [181]) ∧
    t.fed = { s.fed with dropped := true } ∧ t.num r = min (2 ^ 32 - 1) (s.num r + 1)

/-- Every byte of memory outside `[lo, hi)` reads as before. -/
def MemoryKept (s t : State) (lo hi : Nat) : Prop := ∀ a, a < lo ∨ hi ≤ a → t.byte a = s.byte a

/-- Interrupt source `n` is one the part has, and the part is awake: it may become pending (R9, R63, R97). -/
def State.canRise (s : State) (n : Nat) : Bool :=
  !(reservedSource n || absentSource s.variant n || decide (511 < n)) && s.awake

/-- Source `n` is pending afterwards, if the part has it. -/
def Rises (s t : State) (n : Nat) : Prop := s.canRise n = true → t.pendingSource n = true

end Sys2Proof.Machine
end

