-- ==== Sys2Proof/Certificates/Slice0/Obligations.lean ====
section
/-! DEFINITION. The statements about the model that are to be proved: first the machine as a whole, then every family of commands, where each
statement says which commands run to completion, on what conditions, what they leave, and what stays as it was. -/
open Sys2Proof Sys2Proof.Machine

/-! ### The machine as a whole -/

/-- One step takes the command at the front of the queue and runs it on the state with the queue's rest. With no command waiting, and no packet of the part's own to deliver,
4 ns pass: the model's choice, log entry 11.
(The model's own choices it meets: log entry 11.) -/
def Obligations.StepRunsTheFrontCommandOrLetsTimePass : Prop :=
  (∀ (c : Instr) (rest : List Instr) (s : State), s.pending = c :: rest → step s = exec c { s with pending := rest }) ∧
  (∀ s : State, s.pending = [] → s.mil.loop = [] → step s = .next (s.elapse 1))

/-- Every step keeps memory and the register file in their one canonical form. -/
def Obligations.StepKeepsTheCanonicalForm : Prop :=
  ∀ s t : State, s.canonical = true → step s = .next t → t.canonical = true

/-- The state at reset is in canonical form and in a legal mode, and no command waits.
(The model's own choices it meets: log entries 2, 6, 9.) -/
def Obligations.ResetIsSound : Prop :=
  State.reset.canonical = true ∧ State.reset.legalMode = true ∧ State.reset.pending = []

/-- Every command, with every operand and in every state, answers a next state: the part has no command that stops it; and none touches the queue or the
variant, takes back a free value or recalls anything sent.
(The model's own choices it meets: log entries 10, 90.) -/
def Obligations.EveryCommandCompletesAndLeavesTheQueue : Prop :=
  (∀ (c : Instr) (s t : State), exec c s = .next t →
      t.pending = s.pending ∧ t.variant = s.variant ∧ s.freeCounter ≤ t.freeCounter ∧ s.outbox <+: t.outbox) ∧
  (∀ (c : Instr) (s : State), ∃ t, exec c s = .next t)

/-- A register write that a check of R705 refuses answers that check's code, and only the record of the error follows: no other register, no byte of
memory and no other part of the state changes. A refused read answers its code and 0. In VIGIL nothing on the die makes or answers an access: every register command leaves
the state as it is.
(The model's own choices it meets: log entry 14.) -/
def Obligations.RefusedAccessesChangeNothing : Prop :=
  (∀ (c : Instr) (w : Who) (off : Nat) (v : Word) (s : State), registerWriteOf c = some (w, off, v) → s.refusesWrite w off v = true →
      Completes c s fun t => t.bus = { code := s.regWriteCode w (Addr.regs + off) 4 v, data := [] } ∧ OnlyRegsFlt s t []) ∧
  (∀ (c : Instr) (w : Who) (off : Nat) (s : State), registerReadOf c = some (w, off) → s.silent w (Addr.regs + off) 4 false = false →
      s.regReadCode w (Addr.regs + off) 4 ≠ Code.ok →
      Completes c s fun t => t.bus = { code := s.regReadCode w (Addr.regs + off) 4, data := List.replicate 4 0#8 } ∧ OnlyRegsFlt s t []) ∧
  (∀ (c : Instr) (s : State), ((registerWriteOf c).isSome ∨ (registerReadOf c).isSome) → s.mode = Mode.vigil → exec c s = .next s)


/-! ### Counters and their clear registers -/

/-- A write of a CLEAR register with its GO bit sets the counters it names to 0, and without GO nothing changes; it touches nothing else of the state: so for DDR, FED,
KEY, HNG, LAT, MIL, ETH and FUS, and, of one task or holder or of all, for CLE, FLT, TSK, WRD, MET and LTH; MET.CLEAR also ends a pulse output's OVF, and LTH.CLEAR
the high-water mark of the queue.
(Commands shown to complete: ddrClear, wrdClear, latheClear, fedClear, tskClear, cleClear, fusClear, metClear, hngClear, latClear, milClear, ethClear,
keyClear, fltClear.)
(The model's own choices it meets: log entry 94.) -/
def Obligations.ClearRegistersZeroTheirCounters : Prop :=
  (∀ (o s : State) (w : Who) (v : Word), let go := fun (rs : List Nat) => if bit v.toNat 0 then rs else []
      (o.admits w Reg.ddrClear v s → Zeroes (.ddrClear w v) o s (go [Reg.ddrCe, Reg.ddrUe])) ∧
      (o.admits w Reg.fedClear v s →
        Zeroes (.fedClear w v) o s (go [Reg.fedDropClaim, Reg.fedDropGen, Reg.fedDropLate, Reg.fedMissed])) ∧
      (o.admits w Reg.keyClear v s → Zeroes (.keyClear w v) o s (go [Reg.keyMisuse])) ∧
      (o.admits w Reg.hngClear v s → Zeroes (.hngClear w v) o s (go [Reg.hngCounts])) ∧
      (o.admits w Reg.latClear v s →
        Zeroes (.latClear w v) o s (go ([Reg.latForeign, Reg.latDups] ++ (List.range 64).map Reg.latDrop))) ∧
      (∀ p, p < 2 → o.admits w (Reg.milClear p) v s →
        Zeroes (.milClear w p v) o s (go [Reg.milCrcerr p, Reg.milRetries p, Reg.milRetrains p, Reg.milDrops p])) ∧
      (o.admits w Reg.ethClear v s → Zeroes (.ethClear w v) o s (go ((List.range 6).map Reg.ethDrops))) ∧
      (o.admits w Reg.fusClear v s →
        Zeroes (.fusClear w v) o s (go ([Reg.fusLateDrop, Reg.fusOverflow] ++ (List.range 64).map Reg.fusScount)))) ∧
  (∀ (o s : State) (w : Who) (v : Word), let go := fun (rs : List Nat) => if bit v.toNat 0 then rs else []
      (o.admits w Reg.cleClear v s →
        Zeroes (.cleClear w v) o s (go ([Reg.cleMisses, Reg.cleLoad] ++ (List.range 256).map Reg.cleLmiss))) ∧
      (o.admits w Reg.fltClear v s →
        Zeroes (.fltClear w v) o s (go ([Reg.fltLogskip, Reg.fltCeSram, Reg.fltCeMram, Reg.fltCeDdr, Reg.fltLevels] ++
          (List.range 45).map Reg.fltDcount))) ∧
      (o.admits w Reg.tskClear v s →
        Zeroes (.tskClear w v) o s ((if bit v.toNat 7 then List.range 128 else [field v 6 0]).flatMap fun t =>
          [Reg.tskReleases t, Reg.tskOverruns t, Reg.tskLastStart t, Reg.tskMaxStart t, Reg.tskMaxExec t, Reg.tskSkips t])) ∧
      (o.admits w Reg.wrdClear v s →
        Zeroes (.wrdClear w v) o s ((if bit v.toNat 7 then List.range 64 else [field v 5 0]).flatMap fun h =>
          [Reg.wrdHexhCr h, Reg.wrdHexhBc h, Reg.wrdHborrow h])) ∧
      (o.admits w Reg.metClear v s →
        Writes (.metClear w v) o s (go (Reg.metGaps :: (List.range 4).map Reg.metPstat)) [] fun t =>
          (bit v.toNat 0 = true → t.reg Reg.metGaps = 0#32 ∧
            ∀ n, n < 4 → t.flag (Reg.metPstat n) 29 = false ∧ ∀ b, b ≠ 29 → t.flag (Reg.metPstat n) b = s.flag (Reg.metPstat n) b)) ∧
      (∀ n, n < 4 → o.admits w (Reg.lthClear n) v s →
        let rs := [Reg.lthNOk n, Reg.lthNNc n, Reg.lthNMiss n, Reg.lthNPred n, Reg.lthNErr n]
        Writes (.latheClear w n v) o s (go (Reg.lthQdepth n :: rs)) [] fun t =>
          (bit v.toNat 0 = true → (∀ q ∈ rs, t.reg q = 0#32) ∧ t.fld (Reg.lthQdepth n) 26 16 = 0 ∧
            t.fld (Reg.lthQdepth n) 15 0 = s.fld (Reg.lthQdepth n) 15 0)))

/-! ### Who may write -/

/-- R57, R261, R666 and R685: the control and clear registers of DDR, WRD, KEY and FLT accept writes from secure-world initiators alone, and any
other write of them ends in DENIED; KEY.SUBMIT accepts writes from every initiator; every initiator may read the four blocks. What an
earlier check of R705 stops ends there. -/
def Obligations.WhoMayWriteTheControlRegisters : Prop :=
  ∀ (s : State) (w : Who) (off : Nat) (v : Word),
    (s.regFront w (Addr.regs + off) 4 true = Code.ok →
      (off ∈ [Reg.ddrCtrl, Reg.ddrCeThresh, Reg.ddrClear, Reg.wrdIeLo, Reg.wrdIeHi, Reg.wrdClear, Reg.keyCtrl, Reg.keyClear,
          Reg.fltCtrl, Reg.fltClear] →
        (s.regWriteCode w (Addr.regs + off) 4 v = Code.denied ↔ s.secure w = false)) ∧
      (off = Reg.keySubmit → s.regWriteCode w (Addr.regs + off) 4 v = Code.ok)) ∧
    (off / 0x10000 ∈ [Reg.ddrCtrl / 0x10000, Reg.wrdClear / 0x10000, Reg.keyCtrl / 0x10000, Reg.fltCtrl / 0x10000] →
      s.regFront w (Addr.regs + off) 4 false = Code.ok → s.regReadCode w (Addr.regs + off) 4 = Code.ok)

/-- R16: while the LOCK bit that governs it is set, any write of a register that is RWL as a whole ends in LOCKED and changes nothing, and so does a write
that would change an RWL field of another; one that leaves every RWL field at its value is not stopped so.
(Commands shown to complete: registerWrite.) -/
def Obligations.LockedFieldsStay : Prop :=
  ∀ (s : State) (who : Who) (off : Nat) (v : Word) (r : RegRow) (d b : Nat), regRowOf off = some r → r.lock = some (d, b) →
    s.silent who (Addr.regs + off) 4 true = false → s.regFront who (Addr.regs + off) 4 true = Code.ok →
    s.regOwnDenied who off v = false → s.flag (off / 0x10000 * 0x10000 + d) b = true →
    if r.whole = false ∧ (v ^^^ s.reg off) &&& BitVec.ofNat 32 r.rwl = 0#32 then s.regWriteCode who (Addr.regs + off) 4 v = Code.ok
    else Completes (.registerWrite who (Addr.regs + off) 4 v) s fun t =>
      t.bus = { code := Code.locked, data := [] } ∧ OnlyRegsFlt s t []

/-! ### Supplies, temperature and fences (02, 18) -/

/-- The monitors of the supply side: the VCORE target moves 5 mV toward its goal, or onto it where it is nearer, and MEASURED shows the remote sense (R72); an enabled
phase is disabled and reported with source 12, the rest carry the load, and where all of them were shed one is restored (R73); the load is shown, and below 3 A all
phases but one are shed, above 5 A or with all fixed on none is (R74); VANA_CLASS follows VANA (R76), and a loss of it is noted in every system's cycle; a rail's return
shows; VBAT below 2.20 V sets LOW with source 13, and above 2.30 V clears it (R85). Each changes the registers named and nothing else. VBAT below 1.55 V: BATTERY
clears; the canaries stand while the domains draw from VAON, and become free values when they draw from VBAT (R85).
(Commands shown to complete: vcoreRampStep, phaseFault, phaseShed, vanaClassChange, batLow, batteryLost, vbatRecovered, railRecovered.)
(The model's own choices it meets: log entries 16, 59.) -/
def Obligations.SupplyMonitorsActAndABatteryLossLosesTheDomains : Prop :=
  (∀ s : State,
      (∀ mv, Alters (.vcoreRampStep mv) s [Reg.pmuVcore] [] fun t =>
        let old := s.fld Reg.pmuVcore 9 0
        t.fld Reg.pmuVcore 9 0 = (if old < s.vcoreGoal then min s.vcoreGoal (old + 5) else max s.vcoreGoal (old - 5)) ∧
          t.fld Reg.pmuVcore 25 16 = mv % 1024) ∧
      (s.pwr.avsControl = false → s.vcoreGoal = 800) ∧
      (∀ k, if k < 4 ∧ bit (s.fld Reg.pmuPhases 3 0) k = true then
          Completes (.phaseFault k) s fun t => t.bus = s.bus ∧ Raised s t [12] ∧
            OnlyRegs { s with pwr := { s.pwr with shed := t.pwr.shed } } t [Reg.pmuPhases] ∧ t.flag Reg.pmuPhases (8 + k) = true ∧
            (∀ b, b ≠ 8 + k → t.flag Reg.pmuPhases b = s.flag Reg.pmuPhases b) ∧ (t.usablePhases ≠ 0 → t.phasesOn ≠ 0) ∧
            (t.usablePhases &&& (15 ^^^ s.pwr.shed % 16) ≠ 0 → t.pwr.shed = s.pwr.shed)
        else Idles (.phaseFault k) s) ∧
      (∀ ma mw, Completes (.phaseShed ma mw) s fun t => t.bus = s.bus ∧ Raised s t [] ∧
        OnlyRegs { s with pwr := { s.pwr with shed := t.pwr.shed } } t [Reg.pmuIcore] ∧
        t.fld Reg.pmuIcore 15 0 = min 0xFFFF ma ∧ t.fld Reg.pmuIcore 31 16 = min 0xFFFF mw ∧
        (s.flag Reg.pmuPhases 4 = true ∨ 5000 < ma → t.pwr.shed = 0 ∧ t.phasesOn = s.usablePhases) ∧
        (ma < 3000 → s.flag Reg.pmuPhases 4 = false → s.usablePhases ≠ 0 → t.phasesOn ∈ [1, 2, 4, 8]) ∧
        (3000 ≤ ma → ma ≤ 5000 → s.flag Reg.pmuPhases 4 = false → t.pwr.shed = s.pwr.shed)) ∧
      (∀ good, Completes (.vanaClassChange good) s fun t => t.bus = s.bus ∧ Raised s t [] ∧
        OnlyRegs { s with met := { s.met with systems := t.met.systems } } t [Reg.pmuRails] ∧ t.flag Reg.pmuRails 5 = good ∧
        (∀ b, b ≠ 5 → t.flag Reg.pmuRails b = s.flag Reg.pmuRails b) ∧
        ∀ k, k < 7 → t.metSystem k = if good then s.metSystem k else { s.metSystem k with unclassed := true }) ∧
      (∀ r, s.variant.hasRail r = true → Alters (.railRecovered r) s [Reg.pmuRails] [] fun t =>
        t.flag Reg.pmuRails r = true ∧ ∀ b, b ≠ r → t.flag Reg.pmuRails b = s.flag Reg.pmuRails b) ∧
      (∀ mv, mv < 4096 → Alters (.batLow mv) s [Reg.pmuBatstat] [13] fun t =>
        t.fld Reg.pmuBatstat 27 16 = mv ∧ t.flag Reg.pmuBatstat 1 = true ∧ t.flag Reg.pmuBatstat 0 = s.flag Reg.pmuBatstat 0) ∧
      (∀ mv, mv < 4096 → Alters (.vbatRecovered mv) s [Reg.pmuBatstat] [] fun t =>
        t.fld Reg.pmuBatstat 27 16 = mv ∧ t.flag Reg.pmuBatstat 0 = (decide (1550 ≤ mv) || s.flag Reg.pmuBatstat 0) ∧
          t.flag Reg.pmuBatstat 1 = (s.flag Reg.pmuBatstat 1 && !decide (2300 < mv)))) ∧
  (∀ s : State,
      Completes .batteryLost s fun t =>
        OnlyRegs { s with pwr := t.pwr, freeCounter := t.freeCounter } t [Reg.pmuBatstat] ∧ t.flag Reg.pmuBatstat 0 = false ∧
          (∀ b, b ≠ 0 → t.flag Reg.pmuBatstat b = s.flag Reg.pmuBatstat b) ∧
          (s.pwr.onBattery = false → t.pwr = s.pwr) ∧
          (s.pwr.onBattery = true → t.pwr = { s.pwr with
            bkLow := Config.freeWord s.freeCounter
            bkHigh := Config.freeWord (s.freeCounter + 1)
            bmLow := Config.freeWord (s.freeCounter + 2)
            bmHigh := Config.freeWord (s.freeCounter + 3) }))

/-- An external rail out of its window fences the Link region (R75), a stopped or wrong clock its region, 10 ms of a negative timing margin its region, and a
Lathe whose sequencer stops the Solve region (R307): source 1 rises, the region is fenced, no other is, its patch requests end, the mode stands, and one event of that detector waits
for the chip level (R28). A shorter negative margin lowers the clock of Control or Sense by 100 MHz, not below its least, while the DFS loop is enabled and not frozen (R244, R250), and fences nothing. A fusion
engine that halts leaves its graphs to the other where all of them may run there, with source 330, and else the Sense region is fenced (10).
(Commands shown to complete: railFault, clockMonitorFault, timingMarginFault, sequencerHalt, fusionEngineHalt.)
(The model's own choices it meets: log entry 26.) -/
def Obligations.UncontainedFaultsFenceTheirRegion : Prop :=
  (∀ s : State, s.awake = true →
      (∀ rail, s.variant.hasRail rail = true → s.fenced Region.link = false →
        Fences (.railFault rail) s Region.link 0x1A ∧ Completes (.railFault rail) s fun t =>
          t.flag Reg.pmuRails rail = false ∧ t.pendingSource 10 = true) ∧
      (∀ r, r < 4 → s.fenced r = false → Fences (.clockMonitorFault r) s r 0x16) ∧
      (∀ r, r < 4 → s.fenced r = false → Fences (.timingMarginFault r true) s r 0x1D) ∧
      (∀ n, n < s.variant.lathes → n < 4 → s.fenced Region.solve = false → Fences (.sequencerHalt n) s Region.solve 0x0F) ∧
      (∀ e, e < 2 →
        let graphs := (List.range s.ngraph).filter fun g => s.fld (Reg.fusGcfg g) 29 28 == e
        let moves := fun g => s.graphByte g 1 % 4 = 3 ∧ s.flag Reg.fusStatus (31 - e) = true
        if s.variant.hasFus = true ∧ e < s.variant.fusion ∧ s.flag Reg.fusStatus (30 + e) = true ∧ s.fenced Region.sense = false then
          Completes (.fusionEngineHalt e) s fun t => t.flag Reg.fusStatus (30 + e) = false ∧ t.mode = s.mode ∧
            if ∀ g ∈ graphs, moves g then t.fenced Region.sense = false ∧ (∀ g ∈ graphs, t.fld (Reg.fusGcfg g) 29 28 = 1 - e) ∧
              (graphs ≠ [] → Rises s t 330)
            else t.fenced Region.sense = true
        else Idles (.fusionEngineHalt e) s)) ∧
  (∀ (s : State) (r : Nat), Completes (.timingMarginFault r false) s fun t =>
      OnlyRegsFlt s t (if r = Region.control then [State.dfsReg 0] else if r = Region.sense then [State.dfsReg 1] else []) ∧
      (∀ i, (r = Region.control ∧ i = 0) ∨ (r = Region.sense ∧ i = 1) → s.dfsMin i < 2048 →
        t.fld (State.dfsReg i) 10 0 =
          if s.loopActs Loop.dfs = true then max (s.dfsMin i) (s.fld (State.dfsReg i) 10 0 - 100) else s.fld (State.dfsReg i) 10 0))


/-! ### Resets, modes and the chip level (02, 18) -/

/-- R91 and R93: every reset takes the part to MOUNT and records its cause; it keeps MRAM, the BK and BM domains and the PUF helper data, clears all SRAM and leaves LPDDR5
undefined, which here is a fresh generation of free bytes. So power returning after VIGIL, RESET_N held low for 1 µs, SYS.RESET, and the reset due 1 ms after an epoch
reset or a lifecycle transition. An active part yields before SYS.RESET acts (R92). R105, R83: when VAON falls the part is in VIGIL whatever it was doing, on battery,
with MRAM, the battery domains and the helper data kept, SRAM cleared, BM_EN and the causes of earlier resets standing, the mode before in PREV and the fall's time noted;
with the battery low the BK and BM domains become free values. In VIGIL nothing changes.
(Commands shown to complete: vaonFall, powerOnReset, resetPin, softReset, delayedSoftReset.)
(The model's own choices it meets: log entries 4, 9.) -/
def Obligations.ResetsAndVaonFallKeepTheDomains : Prop :=
  (∀ s : State,
      (s.awake = false → Resets .powerOnReset s s Cause.por ∧
        Completes .powerOnReset s fun t => t.pwr.onBattery = false ∧ ∀ b, b < 8 → b ≠ Cause.por → t.flag Reg.sysRstcause b = false) ∧
      (∀ ns, s.awake = true → 1000 ≤ ns → Resets (.resetPin ns) s s Cause.pin) ∧
      (∀ ns, ns < 200 → Idles (.resetPin ns) s) ∧
      (∀ o w v, o.admits w Reg.sysReset v s → s.claim = 0 → Resets (.softReset w v) o s Cause.soft ∧ Completes (.softReset w v) o Acked) ∧
      (∀ o w v, o.admits w Reg.sysReset v s → Completes (.softReset w v) o fun t => Acked t ∧ t.mode = Mode.mount ∧
        t.flag Reg.sysRstcause Cause.soft = true ∧ t.claim = 0 ∧ s.yieldClaim.outbox <+: t.outbox) ∧
      (s.awake = true → s.chip.delayedReset = true →
        let u := s.elapse (s.ticksUntil (s.chip.delayedFrom + 1000000 * 2 ^ 32))
        u.claim = 0 → Resets .delayedSoftReset s u Cause.soft) ∧
      (s.chip.delayedReset = false → Idles .delayedSoftReset s)) ∧
  (∀ s : State, (s.awake = false → Idles .vaonFall s) ∧
      (s.awake = true → Completes .vaonFall s fun t => t.mode = Mode.vigil ∧ t.fld Reg.sysMode 7 4 = s.mode ∧ t.pwr.onBattery = true ∧
        t.met.fell = some s.rtc.cellSec ∧ t.reg Reg.pmuBatctl = s.reg Reg.pmuBatctl ∧
        (∀ b, b < 8 → t.flag Reg.sysRstcause b = s.flag Reg.sysRstcause b) ∧ DomainsKept s t ∧
        (s.flag Reg.pmuBatstat 0 = true → t.pwr.bkLow = s.pwr.bkLow ∧
          t.pwr.bkHigh = s.pwr.bkHigh ∧ t.pwr.bmLow = s.pwr.bmLow ∧ t.pwr.bmHigh = s.pwr.bmHigh) ∧
        (s.flag Reg.pmuBatstat 0 = false → ∃ n, s.freeCounter ≤ n ∧ t.pwr.bkLow = Config.freeWord n ∧
          t.pwr.bkHigh = Config.freeWord (n + 1) ∧ t.pwr.bmLow = Config.freeWord (n + 2) ∧ t.pwr.bmHigh = Config.freeWord (n + 3))))

/-- The watchdogs, a brownout, the Warden's missing health writes and a fault of the system clock reset the part with their causes (R91, R498, R677); where another event
waits at the chip level whose detector resets too, its cause may be the one recorded. R677: any other detector at the chip level takes a part outside MOUNT and SAFE to
SAFE, and one in MOUNT or SAFE through a reset to MOUNT; the decision is taken on the events that wait, and none waits after it: so the critical temperature, VCORE
below its target less 50 mV, which raises source 11 too, and the chip level's own event. With no event named and none waiting there is nothing to decide.
(Commands shown to complete: chipLevelEvent, brownout, wdtWarden, wdtKeeper, wardenHealthTimeout, vcoreUnder, tempCrit, clockMonitorFault.)
(The model's own choices it meets: log entry 52.) -/
def Obligations.ChipDetectorsResetOrGoToSafe : Prop :=
  (∀ s : State, s.awake = true →
      ResetsOnEvent .brownout s Cause.brownout ∧ ResetsOnEvent .wdtWarden s Cause.wdtWarden ∧ ResetsOnEvent .wdtKeeper s Cause.wdtKeeper ∧
        ResetsOnEvent (.clockMonitorFault 4) s Cause.chip ∧
        (s.hingeRuns = true → Completes .wardenHealthTimeout s fun t => t.mode = Mode.mount ∧ t.chip.events = [] ∧
          ∀ a, Addr.stock ≤ a → a < Addr.mram → t.byte a = 0#8) ∧
        (s.hingeRuns = false → Idles .wardenHealthTimeout s)) ∧
  (∀ s : State, s.awake = true → s.chip.events = [] →
      let resets := s.mode = Mode.safe ∨ s.mode = Mode.mount
      let decided := fun (t : State) => t.chip.events = [] ∧
        if resets then t.mode = Mode.mount ∧ t.flag Reg.sysRstcause Cause.chip = true ∧ ∀ a, Addr.stock ≤ a → a < Addr.mram → t.byte a = 0#8
        else t.mode = Mode.safe ∧ t.claim = 0 ∧ t.outputsSafe = true
      Completes .tempCrit s decided ∧ Completes .vcoreUnder s decided ∧
        (¬ resets → Completes .vcoreUnder s fun t => t.pendingSource 11 = true) ∧
        (∀ det, det ≠ 0 → resetCause det = none → Completes (.chipLevelEvent det) s decided) ∧
        (∀ det cause, det ≠ 0 → resetCause det = some cause → Completes (.chipLevelEvent det) s fun t =>
          t.mode = Mode.mount ∧ t.flag Reg.sysRstcause cause = true ∧ t.chip.events = []) ∧
        Idles (.chipLevelEvent 0) s)

/-- R99, R523, R526: entry to SAFE on a SAFE_REQ of the Warden. In RUN, HOLD and STANDBY the part goes to SAFE, its claim is 0, no injection runs, no patch
request stands, and every used Latch channel is SAFE and drives its safe value. A write without REQ, or one in MOUNT or SAFE, is acknowledged and does nothing.
(Commands shown to complete: safeReq.)
(The model's own choices it meets: log entry 61.) -/
def Obligations.SafeDrivesEveryOutputSafe : Prop :=
  ∀ (o s : State) (w : Who) (v : Word), o.admits w Reg.sysSafeReq v s →
    if bit v.toNat 0 = true ∧ s.mode ∈ [Mode.run, Mode.hold, Mode.standby] then
      Completes (.safeReq w v) o fun t => Acked t ∧ t.mode = Mode.safe ∧ t.fld Reg.sysMode 7 4 = s.mode ∧ t.claim = 0 ∧ t.outputsSafe = true ∧
        t.inj.run = none ∧ (∀ r, r < 4 → t.blk.runs.get r = none ∧ t.blk.waits.get r = none)
    else Writes (.safeReq w v) o s [] [] fun _ => True


/-! ### MOUNT (02) -/

/-- R106, R107, R95: at reset release a wrong root of trust halts the part with PUF, no good firmware with FIRMWARE, and after three resets in a row with LOOP; else the
firmware runs from the copy shown in SYS.BOOT. R499: 3 HB_PERIOD after the Blank's load the part knows its role, and is active exactly when it
presents a claim: it takes one of the next epoch unless it is UNFIT, a status frame shows an active unit, or a peer leads it; without an epoch left it takes none. R123, R124, R127: the load takes the first slot in the order that passes every check: its sections run, SYS.BOOT and BLK.STATUS show the slot, and the canaries
stand written again (R87); when none passes the part halts with BLANK. The end of MOUNT: with the Blank loaded, the role known and LPDDR5 trained the part leaves MOUNT,
to SAFE where the Blank declares LPDDR5 that did not train, else to RUN where it is active with a claim, and else to STANDBY.
(Commands shown to complete: blankLoad, roleDecision, mountComplete, resetRelease.)
(The model's own choices it meets: log entries 53, 54, 55, 56, 58.) -/
def Obligations.MountRunsFromReleaseToTheModeOfTheRole : Prop :=
  ((∀ s : State, s.mode = Mode.mount →
        (s.chip.released = false →
          (∀ fw, Completes (.resetRelease false fw) s fun t =>
            t.mode = Mode.mount ∧ t.bootFail = Boot.puf ∧ t.chip.released = true ∧ OnlyRegs { s with chip := t.chip } t [Reg.sysBoot]) ∧
          (Completes (.resetRelease true .none) s fun t => t.mode = Mode.mount ∧ t.bootFail = Boot.firmware ∧ t.chip.released = true) ∧
          (∀ second : Bool, Completes (.resetRelease true (if second then .secondCopy else .firstCopy)) s fun t =>
            t.mode = Mode.mount ∧ t.chip.released = true ∧ t.chip.firmwareOk = true ∧ t.chip.stockReady = true ∧
            t.flag Reg.sysBoot 4 = second ∧ t.bootFail = (if 3 ≤ s.fld Reg.sysBoot 23 16 then Boot.loop else s.bootFail))) ∧
        (s.hingeRuns = true → s.chip.roleKnown = false →
          let u := s.elapse ((s.hinge.listen + s.hb3 - s.chip.up + 3) / 4)
          let e := u.fld Reg.hngEpoch 23 0 + 1
          Completes .roleDecision s fun t => t.mode = Mode.mount ∧ t.chip.roleKnown = true ∧ t.chip.roleActive = (t.claim != 0) ∧
            if u.unfit = true ∨ u.hinge.statusActive = true ∨ u.peerLeads 0 = true ∨ u.peerLeads 1 = true ∨ 0xFFFFFF < e then t.claim = u.claim
            else t.claim = claimOf e u.ownRank u.ownUnit % 2 ^ 32 ∧ t.fld Reg.hngEpoch 23 0 = e)) ∧
    (∀ s : State, s.mode = Mode.mount → s.chip.firmwareOk = true → s.haltedInMount = false → s.chip.blankLoaded = false →
        Completes .blankLoad s fun t => match (s.tryslots s.slotOrder).2 with
          | none => t.bootFail = Boot.blank ∧ t.blk = s.blk ∧ t.mem = s.mem
          | some (k, _, xs) => t.blk.running = xs ∧ t.blk.full = xs ∧ t.chip.blankLoaded = true ∧ t.fld Reg.sysBoot 2 0 = k % 8 ∧
              t.pwr.bkLow = 0x5A5AA5A5#32 ∧ t.pwr.bkHigh = 0xA5A55A5A#32 ∧ t.pwr.bmLow = 0x5A5AA5A5#32 ∧ t.pwr.bmHigh = 0xA5A55A5A#32 ∧
              t.rtc.blockSec = t.rtc.cellSec ∧ t.rtc.blockTick = t.rtc.cellTick)) ∧
  (∀ (s : State) (temp : Int), s.mode = Mode.mount → s.chip.blankLoaded = true → s.chip.roleKnown = true → s.haltedInMount = false →
      s.chip.ddrPending = false →
      Completes (.mountComplete temp) s fun t => t.mode =
        if s.variant.hasDdr && s.ddrCap != 0 && !s.flag Reg.sysMemsize 31 then Mode.safe
        else if s.chip.roleActive && s.claim != 0 then Mode.run else Mode.standby)

/-! ### Memories and their controllers (01) -/

/-- R48: while it is enabled a scrub pass ends PERIOD after the one before, counts the pass and the corrected words, poisons the uncorrectable ones, and raises source 6.
R52: LPDDR5 training ends with TRAINED and SIZE, or FAILED, and raises sources 5 and 456 or 457; what the Blank places there is written after a success (R53). R58: a multiplier above nominal derates the channel and the nominal one ends that, each with source 460. R697: the level of a ball
changes: PIN.IN follows where the GPIO is an input of a good bank, and an enabled edge sets PEND and raises the source of its 16 GPIOs. R695: a bank whose VIO falls shows it,
its GPIOs read 0, and source 472 rises; when VIO returns the bank is good again.
(Commands shown to complete: scrubPass, ddrTrainingDone, ddrRefreshPoll, vioBankLow, vioBankGood, gpioEdge.)
(The model's own choices it meets: log entries 12, 35.) -/
def Obligations.MemoryControllersAndBallsReport : Prop :=
  (∀ s : State, s.awake = true →
      (∀ n, s.flag Reg.sysScrub 16 = true →
        let u := s.elapse ((s.chip.scrubbed + s.scrubPeriod - s.chip.up + 3) / 4)
        (Completes (.scrubPass n []) s fun t => t.bus = s.bus ∧ Raised u t [6] ∧
          OnlyRegs { u with chip := { u.chip with scrubbed := u.chip.up } } t [Reg.sysScrubStat, Reg.fltCeSram, Reg.fltDcount 1] ∧
          t.fld Reg.sysScrubStat 31 16 = (u.fld Reg.sysScrubStat 31 16 + 1) % 65536 ∧
          t.fld Reg.sysScrubStat 15 0 = min 65535 (u.fld Reg.sysScrubStat 15 0 + n) ∧
          t.num Reg.fltCeSram = min (2 ^ 32 - 1) (u.num Reg.fltCeSram + n) ∧
          t.num (Reg.fltDcount 1) = min (2 ^ 32 - 1) (u.num (Reg.fltDcount 1) + n)) ∧
        ∀ bad, Completes (.scrubPass n bad) s fun t => t.pendingSource 6 = true ∧ t.mem = s.mem ∧
          ∀ a ∈ bad, memoryKind (a / 8 * 8) = some 0 → s.memAbsent (a / 8 * 8) = false → a / 8 * 8 ∈ t.poison) ∧
      (∀ n bad, s.flag Reg.sysScrub 16 = false → Idles (.scrubPass n bad) s) ∧
      (∀ ok ms lane step, s.chip.ddrPending = true →
        Completes (.ddrTrainingDone ok ms lane step) s fun t =>
          OnlyRegs { s with chip := t.chip, mem := t.mem, poison := t.poison } t [Reg.sysMemsize, Reg.ddrStatus, Reg.ddrTrain] ∧
          t.chip = { s.chip with ddrPending := false } ∧ (∀ a, a < Addr.ddr → t.byte a = s.byte a) ∧
          (ok = false → t.mem = s.mem ∧ t.poison = s.poison) ∧
          Raised s t [5, if ok then 456 else 457] ∧ t.flag Reg.sysMemsize 31 = ok ∧ t.flag Reg.sysMemsize 30 = !ok ∧
          t.fld Reg.sysMemsize 5 0 = (if ok then 7 * s.ddrCap else 0) % 64 ∧ t.flag Reg.ddrStatus 31 = ok ∧ t.flag Reg.ddrStatus 30 = !ok ∧
          t.fld Reg.ddrTrain 31 16 = ms % 65536) ∧
      (∀ code m, s.flag Reg.ddrStatus 31 = true →
        let above := decide (4 < m % 256)
        Alters (.ddrRefreshPoll code m) s [Reg.ddrRefresh, Reg.ddrStatus] (if s.flag Reg.ddrStatus 28 = above then [] else [460]) fun t =>
          t.flag Reg.ddrStatus 28 = above ∧ (∀ b, b ≠ 28 → t.flag Reg.ddrStatus b = s.flag Reg.ddrStatus b) ∧
          t.fld Reg.ddrRefresh 15 8 = m % 256 ∧ t.fld Reg.ddrRefresh 2 0 = code % 8)) ∧
  (∀ s : State,
      (∀ g rising n, g < 128 → s.gpioBall g = some n → s.pinGood (n / s.variant.bankBalls) = true → s.gpioDir g = false →
        Completes (.gpioEdge g rising) s fun t => t.gpioIn g = rising ∧ bit t.pin.ball g = rising ∧
          (s.gpioIn g ≠ rising → s.flag (if rising then Reg.pinRise (g / 32) else Reg.pinFall (g / 32)) (g % 32) = true → s.awake = true →
            t.flag (Reg.pinPend (g / 32)) (g % 32) = true ∧ t.pendingSource (464 + g / 16) = true)) ∧
      (∀ b, b < 6 → s.awake = true → Completes (.vioBankLow b) s fun t => t.pinGood b = false ∧ t.flag Reg.pmuRails (8 + b) = false ∧
        (∀ g n, g < 128 → s.gpioBall g = some n → n / s.variant.bankBalls = b → t.gpioIn g = false) ∧ t.pendingSource 472 = true) ∧
      (∀ b, b < 6 → s.awake = true → Completes (.vioBankGood b) s fun t => t.pinGood b = true ∧ t.flag Reg.pmuRails (8 + b) = true ∧
        t.pendingSource 472 = true))


/-! ### Power-fail, fences and the Blank's commands (02, 03, 11) -/

/-- R77 to R80: the power-fail warning sets PFI and raises source 8 outside MOUNT, is counted in both, and in MOUNT does no more; its clearing ends PFI and raises source 9.
R479: 1 ms after the write before, an emergency record is written again, in one of its two slots by turns, up to 100 times; with none to write again nothing happens.
R44: the Warden starts the re-admission of the fenced regions it names, and of no other.
R45: re-admission takes the region out of its fence and raises source 2; met again by its event it is fenced again (R46).
(Commands shown to complete: unfence, readmitDone, powerFailWarning, emergencyRewrite, powerFailClear.)
(The model's own choices it meets: log entries 60, 105.) -/
def Obligations.PowerFailWarningsAndReadmissionActAndEnd : Prop :=
  (∀ s : State,
      (s.awake = true → s.flag Reg.pmuPfi 0 = true → s.flag Reg.pmuPfi 1 = false →
        (s.mode = Mode.mount → Alters .powerFailWarning s [Reg.pmuPfi] [] fun t =>
          t.fld Reg.pmuPfi 31 16 = min 65535 (s.fld Reg.pmuPfi 31 16 + 1) ∧ t.flag Reg.pmuPfi 1 = false) ∧
        (s.mode ≠ Mode.mount → Completes .powerFailWarning s fun t => t.flag Reg.pmuPfi 1 = true ∧ t.pendingSource 8 = true ∧
          t.fld Reg.pmuPfi 31 16 = min 65535 (s.fld Reg.pmuPfi 31 16 + 1) ∧ t.mode = s.mode)) ∧
      (s.awake = true → s.flag Reg.pmuPfi 1 = true → Completes .powerFailClear s fun t => t.flag Reg.pmuPfi 1 = false ∧ t.pendingSource 9 = true ∧
        OnlyRegs { s with met := t.met } t [Reg.pmuPfi, Reg.metStatus]) ∧
      (s.flag Reg.pmuPfi 1 = false → Idles .powerFailClear s) ∧
      (∀ slot n, s.met.emergency = some (slot, n) → s.metRuns = true → s.powerFailing = true →
        Completes .emergencyRewrite s fun t =>
          if n < 100 then t.met.emergency = some (slot, n + 1) ∧ t.met.rotating = (if n % 2 = 0 then (slot + 1) % 62 else slot) else t = s) ∧
      (s.met.emergency = none ∨ s.metRuns = false ∨ s.powerFailing = false → Idles .emergencyRewrite s)) ∧
  (∀ s : State,
      (∀ o w v, o.admits w Reg.sysUnfence v s → Writes (.unfence w v) o s [Reg.sysFence] [] fun t =>
        (∀ r, r < 4 → t.flag Reg.sysFence (8 + r) = (s.flag Reg.sysFence (8 + r) || (bit v.toNat r && s.fenced r))) ∧
        ∀ r, r < 4 → t.fenced r = s.fenced r) ∧
      (∀ r, r < 4 → s.awake = true → s.fenced r = true → s.flag Reg.sysFence (8 + r) = true →
        (Completes (.readmitDone r none) s fun t => t.fenced r = false ∧ t.flag Reg.sysFence (8 + r) = false ∧ t.pendingSource 2 = true) ∧
        (∀ det, Completes (.readmitDone r (some det)) s fun t => t.fenced r = true ∧ t.pendingSource 2 = true)) ∧
      (∀ r again, s.flag Reg.sysFence (8 + r) = false → Idles (.readmitDone r again) s))

/-- R128 to R133: a STORE or INVALIDATE is taken with the KEY while no command is BUSY: BUSY is set, and a refused one has written nothing; an INVALIDATE zeroes the
slot's first 64 bytes, and a STORE whose image passes its checks writes all but those, which are zeroed. Without the KEY nothing happens; while BUSY a write ends in
DENIED. When the command completes BUSY falls, its code shows, source 18 rises, and of a STORE the first 64 bytes are written.
(Commands shown to complete: store, invalidate, cmdDone.)
(The model's own choices it meets: log entries 22, 146.) -/
def Obligations.SlotCommandsStoreAndInvalidate : Prop :=
  ∀ (s : State), (∀ (o : State) (w : Who) (v : Word), o.admits w Reg.blkCmd v s →
    if s.flag Reg.blkCmdstat 31 = true then ∀ c ∈ [Instr.store w v, Instr.invalidate w v],
      Completes c o fun t => t.bus = { code := Code.denied, data := [] } ∧ OnlyRegsFlt s t []
    else
    let src := s.num Reg.blkSrcLo + s.num Reg.blkSrcHi * 2 ^ 32
    let refusal := s.slotRefusal (field v 1 0) (field v 6 4) src (s.num Reg.blkSrcLen)
    let base := s.slotBase (field v 6 4)
    (field v 31 16 ≠ 0x4B42 → Writes (.store w v) o s [] [] (fun _ => True) ∧ Writes (.invalidate w v) o s [] [] (fun _ => True)) ∧
    (field v 31 16 = 0x4B42 → ∀ code, refusal = some code → ∀ c ∈ [Instr.store w v, Instr.invalidate w v],
      Completes c o fun t => Acked t ∧ t.flag Reg.blkCmdstat 31 = true ∧ OnlyRegs { s with blk := t.blk } t [Reg.blkCmdstat] ∧
        ∃ k, t.blk = { s.blk with cmd := some k } ∧ k.code = code ∧ k.image = []) ∧
    (field v 31 16 = 0x4B42 → refusal = none → field v 1 0 = 2 →
      Completes (.invalidate w v) o fun t => Acked t ∧ t.flag Reg.blkCmdstat 31 = true ∧ t.bytes base 64 = leBytes 64 0 ∧
        MemoryKept s t base (base + 64) ∧ OnlyRegs { s with blk := t.blk, mem := t.mem, poison := t.poison } t [Reg.blkCmdstat]) ∧
    (field v 31 16 = 0x4B42 → refusal = none → field v 1 0 = 1 →
      Completes (.store w v) o fun t => Acked t ∧ t.flag Reg.blkCmdstat 31 = true ∧
        let copy := s.bytes src (min (s.num Reg.blkSrcLen) s.variant.mramS)
        match s.checkImage (.store s.variant.mramS (s.num Reg.blkSrcLen)) copy with
        | .error e => (∃ k, t.blk.cmd = some k ∧ k.code = e.code ∧ k.image = []) ∧ t.mem = s.mem
        | .ok _ => ∃ k, t.blk.cmd = some k ∧ k.code = 0 ∧ k.image = slice copy 0 (u32 copy 0xC) ∧ t.bytes base 64 = leBytes 64 0 ∧
            t.bytes (base + 64) (k.image.length - 64) = k.image.drop 64 ∧ MemoryKept s t base (base + max 64 k.image.length))) ∧
  (∀ k, s.blk.cmd = some k → s.awake = true →
    Completes .cmdDone s fun t => t.blk = { s.blk with cmd := none } ∧ t.num Reg.blkCmdstat = k.code % 2 ^ 32 ∧ t.pendingSource 18 = true ∧
      OnlyRegs { s with blk := t.blk, mem := t.mem, poison := t.poison } t [Reg.blkCmdstat] ∧ MemoryKept s t (s.slotBase k.slot) (s.slotBase k.slot + 64) ∧
      (k.image = [] → t.mem = s.mem) ∧ (k.image ≠ [] → t.bytes (s.slotBase k.slot) 64 = slice k.image 0 64)) ∧
  (s.blk.cmd = none → Idles .cmdDone s)

/-- R134 to R140: a patch request of an initiator that may not submit, or for no region, is refused at once; an admitted one runs, or waits in place of the one that waited,
which is SUPERSEDED; a region's running request is refused with the first code of its failed checks, or has passed them; a refused or timed-out request is DONE with
its code in its descriptor. R141 to R145: at a usable quiesce point the region takes the request's sections, its generation stands in BLK.RGEN and source 17 rises, and
elsewhere nothing is applied; QTIMEOUT after its checks a request that found none is refused with QUIESCE_TIMEOUT, and the configuration stands.
(Commands shown to complete: patchSubmit, patchChecksDone, patchApply, quiesceTimeout.)
(The model's own choices it meets: log entries 98, 132, 146.) -/
def Obligations.PatchesRunOneByOne : Prop :=
  ∀ s : State,
    (∀ o w v, o.admits w Reg.blkSubmit v s → let desc := v.toNat / 16 % 2 ^ 20 * 16
      let d := Addr.stock + desc
      let r := s.mem32 (d + 4) / 2 ^ 16 % 16
      s.awake = true → s.partialBad (d + 0xC) 4 = none → Completes (.patchSubmit w v) o fun t =>
        if s.variant.stockBytes ≤ desc then t.bus = { code := Code.absent, data := [] } ∧ OnlyRegsFlt s t []
        else if s.badWordIn d 16 ≠ none then t.bus = { code := Code.uncorrectable, data := [] } ∧ OnlyRegsFlt s t []
        else Acked t ∧ if 4 ≤ r ∨ named (s.patchInit r) w.id = false then
          t.mem32 (d + 0xC) = 2 ^ 31 + 3 * 2 ^ 28 + (if 4 ≤ r then BlankCode.badFormat else Code.denied) ∧ MemoryKept s t (d + 0xC) (d + 0x10) ∧
            OnlyRegs { s with mem := t.mem, poison := t.poison } t [] ∧ t.pendingSource 16 = true
        else match s.blk.runs.get r with
          | none => (∃ q, t.blk.runs.get r = some q ∧ q.desc = desc ∧ q.who = w.id ∧ q.passed = false) ∧ t.flag Reg.blkStatus (8 + r) = true
          | some old => t.blk.runs.get r = some old ∧ (∃ q, t.blk.waits.get r = some q ∧ q.desc = desc ∧ q.who = w.id) ∧
              t.flag Reg.blkStatus (12 + r) = true) ∧
    (∀ r q, r < 4 → s.awake = true → s.blk.runs.get r = some q → q.passed = false → s.blk.waits.get r = none →
      s.partialBad (Addr.stock + q.desc + 0xC) 4 = none →
      Completes (.patchChecksDone r) s fun t => match s.checkImage (.patch r q.len) q.image with
        | .error e => t.blk.runs.get r = none ∧ t.mem32 (Addr.stock + q.desc + 0xC) = 2 ^ 31 + 3 * 2 ^ 28 + e.code % 65536 ∧ t.pendingSource 16 = true
        | .ok _ => t = { s with blk := t.blk } ∧ t.blk.runs.get r = some { q with passed := true, checked := s.chip.up }) ∧
    (∀ r q, r < 4 → s.awake = true → s.blk.runs.get r = some q → q.passed = true → s.blk.waits.get r = none →
      s.partialBad (Addr.stock + q.desc + 0xC) 4 = none →
      if s.patchUsable r q = true then Idles (.quiesceTimeout r) s
      else
        let u := s.elapse ((q.checked + 1000000 * max 1 (min 60000 (s.num Reg.blkQtimeout)) - s.chip.up + 3) / 4)
        Completes (.quiesceTimeout r) s fun t => if u.patchUsable r q = true then t = u
          else t.blk.runs.get r = none ∧ t.blk.running = s.blk.running ∧
            t.mem32 (Addr.stock + q.desc + 0xC) = 2 ^ 31 + 3 * 2 ^ 28 + BlankCode.quiesceTimeout ∧ t.pendingSource 16 = true) ∧
    (∀ r q xs, s.blk.runs.get r = some q → q.sections = some xs →
      if s.patchUsable r q = true then
        Completes (.patchApply r) s fun t => t.num (Reg.blkRgen0 + 4 * r) = u32 q.image 0x1C ∧ t.pendingSource 17 = true ∧
          t.blk.running = (s.withPatch r xs).blk.running ∧ t.flag Reg.blkStatus (16 + r) = false
      else Idles (.patchApply r) s)

/-! ### Memory, registers and result slots (00, 01) -/

/-- R716: an access that the checks of R705 admit, that has its grants, and that meets no bad word, no injection and no slot's own word: a write leaves its bytes at the
addresses from `a` on and every other byte as it was, and the words it covers are poisoned no longer (R35); a read returns the bytes there and changes no byte. A read
of a bad word, and a write of part of one (R47), fails with UNCORRECTABLE, changes no byte, and leaves the word poisoned with source 4. R18, R19, R22: a read of
STATUS returns the word of the newest result and holds it, a read of the last payload word ends that hold, and a write of TAKE ends it and marks the slot taken; each
touches its own slot and its words alone.
(Commands shown to complete: memoryAccess, slotStatusRead, slotPayloadLastRead, take.)
(The model's own choices it meets: log entries 17, 116.) -/
def Obligations.MemoryAndResultSlotsHoldTheirData : Prop :=
  (∀ (o s : State) (w : Who) (a n : Nat) (slack : Bool),
      let path := fun (data : Option (List Byte)) (ecc : Ecc) =>
        (o.silent w a n data.isSome = false ∧ o.memCode w a n data.isSome = Code.ok) ∧
          o.grants { who := w, addr := a, len := n, data := data, ecc := ecc, slack := slack, left := [] } = (s, [])
      let sound := s.badWordIn (a / 8 * 8) (max n 8) = none ∧ ∀ ds, s.waitsForRead ds a n = none
      (∀ bs ecc, bs.length = n → path (some bs) ecc → 8 ≤ n ∨ (sound ∧ ecc ≠ .uncorrectable) → s.slotsAt 8 a n = [] →
        Completes (.memoryAccess w a n (some bs) ecc slack) o fun t => Acked t ∧ t.bytes a n = bs ∧ MemoryKept s t a (a + n) ∧
          ∀ x ∈ t.poison, ¬ (a ≤ x ∧ x + 8 ≤ a + n)) ∧
      (∀ ecc, path none ecc → sound → ecc ≠ .uncorrectable → s.slotsAt 0 a n = [] →
        Completes (.memoryAccess w a n none ecc slack) o fun t => t.bus = { code := Code.ok, data := s.bytes a n } ∧ t.mem = s.mem) ∧
      (∀ data ecc, path data ecc → memoryKind a ≠ none → data = none ∨ n < 8 →
        ecc = .uncorrectable ∨ s.badWordIn (a / 8 * 8) (max n 8) ≠ none →
        Completes (.memoryAccess w a n data ecc slack) o fun t =>
          t.bus = { code := Code.uncorrectable, data := List.replicate (if data = none then n else 0) 0#8 } ∧ t.mem = s.mem ∧
          (∃ p ∈ t.poison, a / 8 * 8 < p + 8 ∧ p < a / 8 * 8 + max n 8) ∧ Rises s t 4)) ∧
  (∀ (o s : State) (w : Who) (a : Nat),
      let k := s.slots.get a
      let path := fun (x : Nat) (data : Option (List Byte)) => (o.silent w x 4 data.isSome = false ∧ o.memCode w x 4 data.isSome = Code.ok) ∧
        o.grants (wordAccess w x 4 data) = (s, []) ∧ s.badWordIn (x / 8 * 8) 8 = none ∧ ∀ ds, s.waitsForRead ds x 4 = none
      let written := fun (n : Nat) => s.partialBad a n = none ∧ s.storeLocks (engineWho k.writer) a n = false
      (∀ r, (if k.waiting = none then k.shown else k.waiting) = some r → path a none → written (16 + r.payload.length) →
        let reads := if k.waiting = none then k.reads else 0
        Completes (.slotStatusRead w a) o fun t => t.bus = { code := Code.ok, data := leBytes 4 (statusWord r k.fresh reads) } ∧
          t = { s with slots := t.slots, mem := t.mem, poison := t.poison, bus := t.bus } ∧
          t.slots.get a = { k with shown := some r, waiting := none, held := true, reads := min 15 (reads + 1) } ∧
          (∀ b, b ≠ a → t.slots.get b = s.slots.get b) ∧ MemoryKept s t a (a + 16 + r.payload.length)) ∧
      (let last := a + 0x10 + (max 4 k.payloadBytes - 4)
       path last none → Completes (.slotPayloadLastRead w a) o fun t =>
        t.bus = { code := Code.ok, data := leBytes 4 (s.mem32 last) } ∧ t = { s with slots := t.slots, bus := t.bus } ∧
        t.slots.get a = { k with held := false } ∧ (∀ b, b ≠ a → t.slots.get b = s.slots.get b)) ∧
      (∀ v r, k.shown = some r → path (a + 8) (some (List.replicate 4 0#8)) → written 4 → Completes (.take w a v) o fun t =>
        Acked t ∧ t = { s with slots := t.slots, mem := t.mem, poison := t.poison, bus := t.bus } ∧
        t.slots.get a = { k with held := false, fresh := false, reads := 0 } ∧ (∀ b, b ≠ a → t.slots.get b = s.slots.get b) ∧
        t.mem32 a = statusWord r false 0 % 2 ^ 32 ∧ MemoryKept s t a (a + 4)))

/-- R13 to R16, R708, R709: an admitted write of a register that no command of its own serves stores the writable bits, in the initiator's own bank where the register has
one, and changes nothing else, but where the register drives something: the UTC offset the metrology's local time, RTC.TRIM the cell, SYS.SCRUB the start of a pass, CLE.LEN
the loops, PIN.OUT and PIN.DIR the balls, PCI.VMAP a vector. A read-only one keeps its value.
(Commands shown to complete: registerWrite.)
(The model's own choices it meets: log entry 119.) -/
def Obligations.PlainRegistersStoreTheirWritableBits : Prop :=
  ∀ (o s : State) (w : Who) (off : Nat) (v : Word) (r : RegRow), o.admits w off v s → off < Plic.base → takerOf off = none →
    regRowOf off = some r → let k := if r.perInitiator then bankOf w.id off else off
    (r.kind ≠ .masked → Writes (.registerWrite w (Addr.regs + off) 4 v) o s [] [] fun _ => True) ∧
    (r.kind = .masked → Completes (.registerWrite w (Addr.regs + off) 4 v) o fun t =>
      Acked t ∧ t.reg k = s.storable off (s.reg k) (r.merge (s.reg k) v)) ∧
    (r.kind = .masked → off ∉ [Reg.timUtcOffset, Reg.rtcTrim, Reg.sysScrub] → hit (Reg.cleLen 0) 8 4 off = none →
      hit (Reg.pinOut 0) 8 4 off = none → hit (Reg.pciVmap 0) 64 4 off = none →
      Writes (.registerWrite w (Addr.regs + off) 4 v) o s [k] [] fun _ => True)

/-! ### Spindles (04) -/

/-- R160 to R164, R189: an event of a source moves every listening spindle of that source and input, and no other, memory stays, and a spindle that follows its source takes
the source's angle: an encoder edge is one count in its direction; an index that differs by at most 4 counts, and a round tick by at most 2^24, is taken at once, and else sets
INDEX_ERR and starts a rejoin; a mains crossing counts toward the lock, a pulse shows its lock, a round tick sets origin and period, and a host's advance makes its angle
known. R169, R170: after STALL_MS of its condition a stall is counted and leaves a substitute, a spindle that followed at the position extrapolated at the last good rate.
R174: a rejoin ends when its difference is 0; the spindle is no substitute and seasons no more. R188: a read of ANGLE answers the position and holds the six words for the
reader. R165, R166, R178: a firing of a software comparator sets its pending bit, its source with IE, and ends EN with ONCE; not while Sense is fenced.
(Commands shown to complete: softwareComparatorFire, encoderEdge, encoderIndex, mainsCrossing, spindlePulse, roundTick, hostadv, spindleStall,
rejoinEnd, spnAngleRead.)
(The model's own choices it meets: log entries 78, 79, 134, 141.) -/
def Obligations.SpindlesMoveStallRejoinAndFire : Prop :=
  (∀ s : State,
      let moves := fun (c : Instr) (ns : List Nat) (P : Nat → State → Prop) => Completes c s fun t => t.mem = s.mem ∧ t.bus = s.bus ∧
        (∀ n, n ∉ ns → t.spin n = s.spin n ∧ t.reg (Reg.spnState n) = s.reg (Reg.spnState n)) ∧ ∀ n ∈ ns, P n t
      let steps := fun (d : Int) (n : Nat) (t : State) => (t.spin n).src = unsigned 64 (((s.spin n).src : Int) + d) ∧
        (s.follows n = true → (t.spin n).gap = 0) ∧ (t.spin n).eventAt = s.chip.ran ∧ (t.spin n).lost = false
      (∀ enc rev, moves (.encoderEdge enc rev) (s.spinsOf Src.shaft enc) fun n t =>
        let count := (s.spin n).count + (if rev then -1 else 1)
        (t.spin n).count = count ∧ t.spinFlag n Spn.reverse = rev ∧
          steps (shaftUnits count (s.spindlePeriod n) - shaftUnits (s.spin n).count (s.spindlePeriod n)) n t) ∧
      (∀ enc, moves (.encoderIndex enc) ((s.spinsOf Src.shaft enc).filter fun n => s.spindleIndex n) fun n t =>
        let near := decide (((s.spin n).sourceAt (s.spindleIndexAngle n)).gap.natAbs * s.spindlePeriod n ≤ 4 * 2 ^ 32)
        (t.spin n).count = 0 ∧ (s.spinFlag n Spn.subst = false → t.spinFlag n Spn.indexErr = !near) ∧
          (s.spinFlag n Spn.subst = false → near = true → (t.spin n).gap = 0 ∧ (t.spin n).known = true) ∧
          (s.spinFlag n Spn.rejoin = false → (t.spin n).known = true ∧ (t.spinFlag n Spn.rejoin = true ∨ (t.spin n).gap = 0))) ∧
      (∀ ch err adv pll, moves (.mainsCrossing ch err adv pll) (s.spinsOf Src.mains ch) fun n t =>
        (t.spin n).pll = pll ∧ (t.spin n).goodCycles = (if err < 2 ^ 24 then (s.spin n).goodCycles + 1 else 0) ∧
          t.spinFlag n Spn.locked = (if 2 ^ 26 < err then false else s.spinFlag n Spn.locked || decide (8 ≤ (t.spin n).goodCycles)) ∧
          steps adv n t) ∧
      (∀ i locked adv pll, moves (.spindlePulse i locked adv pll) (s.spinsOf Src.pulse i) fun n t =>
        (t.spin n).pll = pll ∧ t.spinFlag n Spn.locked = locked ∧ steps adv n t) ∧
      (∀ port start period, moves (.roundTick port start period) (s.spinsOf Src.round port) fun n t =>
        let near := ((s.spin n).sourceAt (unsigned 32 (angleOf s.now start (max 1 period)))).gap.natAbs ≤ 2 ^ 24
        (t.spin n).origin = start ∧ (t.spin n).period = max 1 period ∧
          (near → (t.spin n).gap = 0 ∧ t.spinFlag n Spn.subst = false ∧ (t.spin n).known = true) ∧
          (¬ near → s.spinFlag n Spn.rejoin = false → t.spinFlag n Spn.rejoin = true ∧ (t.spin n).known = true)) ∧
      (∀ o w n v, n < 8 → o.admits w (Reg.spnHostadv n) v s →
        if v = 0#32 ∨ s.spinListens n = false then Writes (.hostadv w n v) o s [] [] fun _ => True
        else Completes (.hostadv w n v) o fun t => Acked t ∧ t.mem = s.mem ∧ (∀ m, m ≠ n → t.spin m = s.spin m) ∧
          steps (min (2 ^ 31) v.toNat : Nat) n t ∧ (s.spinFlag n Spn.rejoin = false → s.follows n = false → (t.spin n).known = true))) ∧
  (∀ s : State,
      (∀ n, n < 8 → match s.stallDue n with
        | none => Idles (.spindleStall n) s
        | some (due, _) =>
          let u := s.elapse (s.ticksUntil due)
          Completes (.spindleStall n) s fun t => match u.stallDue n with
            | none => t = u
            | some (due, rate) =>
              if u.chip.ran < due then t = u
              else t.spinFlag n Spn.subst = true ∧ t.spinFlag n Spn.rejoin = false ∧ (t.spin n).lost = true ∧
                t.num (Reg.spnStalls n) = min (2 ^ 32 - 1) (u.num (Reg.spnStalls n) + 1) ∧ t.mem = s.mem ∧ (∀ m, m ≠ n → t.spin m = u.spin m) ∧
                (u.follows n = true → (t.spin n).sub = (16 * u.clampRate n rate : Nat) ∧
                  (t.spin n).pos = ((u.spin n).eventPos + u.clampRate n rate * 65536 * (u.chip.ran - (u.spin n).eventAt) / secondUnits) % 2 ^ 64)) ∧
      (∀ n, n < 8 → match (if s.spinFlag n Spn.rejoin && s.spinRuns n then s.ticksToClose n else none) with
        | none => Idles (.rejoinEnd n) s
        | some _ => Completes (.rejoinEnd n) s fun t => t.spinFlag n Spn.subst = false ∧ t.spinFlag n Spn.rejoin = false ∧
            t.spinFlag n Spn.seasoning = false ∧ (s.spindleSrc n ≠ Src.time → (t.spin n).gap = 0) ∧ t.mem = s.mem) ∧
      (∀ o w n, n < 8 → o.admitsRead w (Reg.spnAngle n) s → Completes (.spnAngleRead w n) o fun t =>
        t.bus = { code := Code.ok, data := leBytes 4 ((s.spin n).pos % 2 ^ 32) } ∧ t = { s with spn := t.spn, bus := t.bus } ∧
          t.spn.snaps.get (8 * w.id + n) = s.spinWords n ∧ t.spn.spin = s.spn.spin) ∧
      (∀ n c, n < 8 → c < 64 → if s.fenced Region.sense = true then Idles (.softwareComparatorFire n c) s
        else Completes (.softwareComparatorFire n c) s fun t =>
        match s.firing 0 n c with
        | none => t = s
        | some (u, _) =>
          let pend := if c < 32 then Reg.spnPendLo n else Reg.spnPendHi n
          t.flag pend (c % 32) = true ∧ (u.flag (Reg.spnCmpCtl n c) 26 = true → t.flag (Reg.spnCmpCtl n c) 31 = false) ∧
            OnlyRegs u t [pend, Reg.spnCmpCtl n c] ∧ Raised u t (if u.flag (Reg.spnCmpCtl n c) 27 then [72 + n] else [])))

/-! ### Device time (04) -/

/-- R193: a keyed step within range moves device time by exactly its seconds and nanoseconds, counts it and raises source 68; one below 0 or with nanoseconds out of range is
refused and changes nothing but STEP_REFUSED; without the key nothing happens. The second boundary is reached, and source 64 rises. R195, R201, R205 to R208: after 16 s
below LOCK_THRESH the servo locks; a lost master makes HOLDOVER at the mean rate, and its port MASTER, or LISTENING where the clock is slave-only; a slew ends when it has
covered its offset; a refused master is accepted by a write, or, with SELF_ACCEPT and offsets that agreed over JUMP_CONFIRM, by a step. What has nothing to act on changes
nothing.
(Commands shown to complete: timeStep, second, servoLocked, announceTimeout, slewDone, acceptJump, jumpConfirmed.)
(The model's own choices it meets: log entries 80, 81, 133, 136, 137, 138.) -/
def Obligations.TimeStepsSecondsAndMasters : Prop :=
  (∀ s : State,
      (∀ o w v, o.admits w Reg.timStepGo v s →
        let ns := signed 32 (s.num Reg.timStepNs)
        let u : Int := (s.time.units : Int) + (signed 32 (s.num Reg.timStepSec) * 1000000000 + ns) * 2 ^ 32
        let key := decide (field v 31 16 = 0x5354) && bit v.toNat 0
        (key = false → Writes (.timeStep w v) o s [] [] fun _ => True) ∧
        (key = true → (ns < -999999999 ∨ 999999999 < ns ∨ u < 0) → Writes (.timeStep w v) o s [Reg.timStatus] [] fun t =>
          t.flag Reg.timStatus 7 = true ∧ ∀ b, b ≠ 7 → t.flag Reg.timStatus b = s.flag Reg.timStatus b) ∧
        (key = true → -999999999 ≤ ns → ns ≤ 999999999 → 0 ≤ u → Completes (.timeStep w v) o fun t => Acked t ∧
          t.time = TimeCounter.ofUnits u.toNat ∧ t.num Reg.timSteps = min (2 ^ 32 - 1) (s.num Reg.timSteps + 1) ∧ t.flag Reg.timStatus 7 = false ∧
          t.pendingSource 68 = true)) ∧
      (s.awake = true → s.time.sec + s.time.sub / (1000000000 * 2 ^ 32) + 2 < 2 ^ 64 → Completes .second s fun t =>
        s.time.sec < t.time.sec ∧ (s.time.sub < 1000000000 * 2 ^ 32 → t.time.sec = s.time.sec + 1 ∧ t.time.sub < s.incr) ∧
          t.pendingSource 64 = true ∧ t.mem = s.mem)) ∧
  (∀ s : State,
      (match (if s.timState = TimeState.acquiring then s.tim.goodSince else none) with
        | none => Idles .servoLocked s
        | some t0 =>
          let u := s.elapse (s.ticksUntil (t0 + 16 * secondUnits))
          Completes .servoLocked s fun t => t.timState = TimeState.locked ∧ t.timFlag Tim.seasoning = false ∧ t.bus = s.bus ∧
            OnlyRegs { u with tim := t.tim } t [Reg.timStatus] ∧ Raised u t [65]) ∧
      (∀ p, if s.ptpRole p = 1 ∧ s.portState p ∈ [PortState.slave, PortState.uncalibrated] then
          Completes (.announceTimeout p) s fun t =>
            t.portState p = (if s.ptpSlaveOnly then PortState.listening else PortState.master) ∧ (t.ptpPort p).best = none ∧
            OnlyRegsFlt { s with tim := t.tim } t
              ((List.range 6).map Reg.timPortState ++ [Reg.timIncrFrac, Reg.timIncrInt, Reg.timStatus, Reg.timHoldS]) ∧
            (s.tim.followed = true → s.timFlag Tim.holdover = false → t.timState = TimeState.holdover ∧ t.timFlag Tim.holdover = true ∧
              t.timFlag Tim.slewing = false ∧ t.num Reg.timHoldS = 0 ∧ t.num Reg.timIncrFrac = s.meanIncr % 2 ^ 32)
        else Idles (.announceTimeout p) s) ∧
      (if s.timFlag Tim.slewing = true then
          let u := s.elapse (s.ticksUntil (s.tim.measured.getD s.chip.ran + (signed 32 (s.num Reg.timOffset)).natAbs * 10000 * 2 ^ 32))
          Completes .slewDone s fun t => t.bus = s.bus ∧ OnlyRegs u t [Reg.timStatus, Reg.timIncrFrac, Reg.timIncrInt] ∧ Raised u t [] ∧
            t.timFlag Tim.slewing = false ∧ ∀ b, b ≠ Tim.slewing → t.timFlag b = u.timFlag b
        else Idles .slewDone s) ∧
      (∀ o w v, o.admits w Reg.timAcceptJump v s → Completes (.acceptJump w v) o fun t => Acked t ∧
        t = { s with bus := t.bus, tim := { s.tim with accepted := t.tim.accepted } } ∧
          t.tim.accepted = (s.tim.accepted || (bit v.toNat 0 && s.timFlag Tim.jumpRefused))) ∧
      (∀ gm t0 o n, s.tim.candidate = some gm → s.tim.candSince = some t0 → s.tim.candLast = some (o, n) →
        s.timFlag Tim.selfAccept = true → s.timFlag Tim.jumpRefused = true → s.awake = true →
        let u := s.elapse (s.ticksUntil (t0 + s.num Reg.timJumpConfirm * secondUnits))
        0 ≤ (u.time.units : Int) + -o * 2 ^ 32 →
        Completes .jumpConfirmed s fun t => t.tim.gm = some gm ∧ t.tim.candidate = none ∧ t.timState = TimeState.acquiring ∧
          t.timFlag Tim.jumpRefused = false ∧ t.pendingSource 69 = true ∧ t.time = .ofUnits ((u.time.units : Int) + -o * 2 ^ 32).toNat) ∧
      (s.tim.candidate = none ∨ s.timFlag Tim.selfAccept = false ∨ s.timFlag Tim.jumpRefused = false → Idles .jumpConfirmed s))

/-- R198 to R200, R202: of the messages of its domain at a port of role 1, an announcement that is better than the port's, or of the same sender, is kept, and the first
of all makes the port UNCALIBRATED; an offset makes such a port SLAVE and shows its value less the asymmetry, and the servo sets INCR from it (R194); a path delay
shows its measure less the asymmetry; an event of a transparent port leaves by the others with its residence time added; a request is answered; the port's timers send its
messages, and make a port that hears nobody MASTER. A port without a role ignores them. R196: a read of NOW_NS answers the nanoseconds and holds the seconds for the
reader.
(Commands shown to complete: ptpMessage, timeNowRead, ptpPortTimer.)
(The model's own choices it meets: log entries 12, 81, 139, 140.) -/
def Obligations.PtpPortsAndTheTimeSnapshot : Prop :=
  (∀ (s : State) (p : Nat), s.ptpRuns = true →
    (s.ptpRole p = 1 → ∀ d,
      if d.sender = s.clockIdentity ∨ 255 ≤ d.steps then Idles (.ptpMessage p (.announce s.ptpDomain d none)) s
      else Completes (.ptpMessage p (.announce s.ptpDomain d none)) s fun t => t.bus = s.bus ∧ Raised s t [] ∧
        OnlyRegs { s with tim := t.tim } t (Reg.timStatus :: (List.range 6).map Reg.timPortState) ∧
        (t.ptpPort p).best = (match (s.ptpPort p).best with
          | none => some d
          | some e => if (e.sender = d.sender ∧ e.senderPort = d.senderPort) ∨ dataSetBetter d e = true then some d else some e) ∧
        (s.bestMaster = none → s.portState p ∈ [PortState.listening, PortState.master, PortState.passive, PortState.preMaster] →
          dataSetBetter s.ptpDefault d = false → t.portState p = PortState.uncalibrated)) ∧
    (s.ptpRole p = 1 → s.portState p ∈ [PortState.slave, PortState.uncalibrated] → ∀ raw,
      let o := raw - (signed 32 (s.num (Reg.timAsym (p - 1)))).tdiv 1000
      let x := s.normalised o
      let i := s.tim.integ - x / 2 ^ s.fld Reg.timServo 11 8
      let incr := incrOf (clampInt (-500000 * 2 ^ 15) (500000 * 2 ^ 15) (i - x / 2 ^ s.fld Reg.timServo 3 0))
      Completes (.ptpMessage p (.offset s.ptpDomain raw)) s fun t => t.portState p = PortState.slave ∧
        t.reg Reg.timOffset = BitVec.ofInt 32 (sat32 o) ∧
        (s.tim.candidate = none → s.tim.gm ≠ none → s.timFlag Tim.slewing = false → t.tim.integ = i ∧
          (s.flag Reg.timCtrl 0 = true → t.num Reg.timIncrFrac = incr % 2 ^ 32 ∧ t.fld Reg.timIncrInt 7 0 = incr / 2 ^ 32 % 256) ∧
          (s.flag Reg.timCtrl 0 = false → t.num Reg.timIncrFrac = s.num Reg.timIncrFrac))) ∧
    (s.ptpRole p ≠ 0 → ∀ ps, Alters (.ptpMessage p (.pathDelay s.ptpDomain ps)) s [Reg.timPdelay (p - 1)] [] fun t =>
      t.reg (Reg.timPdelay (p - 1)) = BitVec.ofInt 32 ((ps : Int) - signed 32 (s.num (Reg.timAsym (p - 1))))) ∧
    (s.ptpRole p = 2 → ∀ dom bs ns, Completes (.ptpMessage p (.event dom bs ns)) s fun t => t = { s with outbox := t.outbox } ∧
      t.outbox = s.outbox ++ ((List.range 6).filter fun i => decide (i + 1 ≠ p) && s.ptpRole (i + 1) == 2).map fun i =>
        { kind := .ptp, dest := i + 1, bytes := correctResidence bs (ns.getD i 0) }) ∧
    (s.ptpRole p ≠ 0 → ∀ requester seq,
      (s.ptpPeer = true → Completes (.ptpMessage p (.request s.ptpDomain true requester seq)) s fun t =>
        t = { s with outbox := t.outbox } ∧ ∃ a b, t.outbox = s.outbox ++ [a, b] ∧ a.bytes.head? = some 3#8 ∧ b.bytes.head? = some 0xA#8) ∧
      (s.ptpPeer = false → s.portState p = PortState.master → Completes (.ptpMessage p (.request s.ptpDomain false requester seq)) s fun t =>
        t = { s with outbox := t.outbox } ∧ ∃ a, t.outbox = s.outbox ++ [a] ∧ a.bytes.head? = some 9#8)) ∧
    (∀ timer byte, (timer, byte) ∈ [(PtpTimer.sync, 0#8), (.announce, 0xB#8), (.delayReq, 1#8), (.peerDelay, 2#8)] →
      let sends := (timer = .peerDelay ∧ s.ptpRole p ≠ 0 ∧ s.ptpPeer = true) ∨
        (timer = .delayReq ∧ s.ptpRole p = 1 ∧ s.portState p ∈ [PortState.slave, PortState.uncalibrated] ∧ s.ptpPeer = false) ∨
        (timer ∈ [.sync, .announce] ∧ s.ptpRole p = 1 ∧ s.portState p = PortState.master)
      (sends → Completes (.ptpPortTimer p timer) s fun t => t = { s with tim := { s.tim with ports := t.tim.ports }, outbox := t.outbox } ∧
        ∃ m r, t.outbox = s.outbox ++ m :: r ∧ m.kind = .ptp ∧ m.dest = p + (if s.ptpUdp then 16 else 0) ∧ m.bytes.head? = some byte ∧
          r.length = if timer = .sync ∧ s.ptpOneStep = false then 1 else 0) ∧
      (¬ sends → Idles (.ptpPortTimer p timer) s)) ∧
    (∀ timer, timer ∈ [PtpTimer.announceReceipt, .qualification] →
      let advances := s.ptpRole p = 1 ∧ (s.portState p = PortState.preMaster ∨
        (timer = .announceReceipt ∧ s.portState p ∈ [PortState.listening, PortState.passive]))
      let state := if timer = .announceReceipt ∧ s.ptpSlaveOnly = true then PortState.listening else PortState.master
      (advances → Completes (.ptpPortTimer p timer) s fun t => t.bus = s.bus ∧ Raised s t [] ∧
        OnlyRegs { s with tim := t.tim } t (Reg.timStatus :: (List.range 6).map Reg.timPortState) ∧ t.portState p = state ∧
        t.timState = (if s.timState = TimeState.free ∧ state = PortState.master then TimeState.grandmaster else s.timState)) ∧
      (¬ advances → Idles (.ptpPortTimer p timer) s))) ∧
  (∀ (s : State) (p : Nat), s.ptpRuns = false ∨ s.ptpRole p = 0 →
    (∀ m, Idles (.ptpMessage p m) s) ∧ ∀ timer, Idles (.ptpPortTimer p timer) s) ∧
  (∀ o s w, o.admitsRead w Reg.timNowNs s → Completes (.timeNowRead w) o fun t =>
    t.bus = { code := Code.ok, data := leBytes 4 (s.time.sub / 2 ^ 32) } ∧ t.secondsFor w.id = s.time.sec % 2 ^ 64 ∧
      OnlyRegs s t [bankOf w.id Reg.timNowSlo, bankOf w.id Reg.timNowShi, bankOf w.id Reg.timNowNs])

/-! ### The calendar (04) -/

/-- R217 to R219: a read of SUBSEC or FRAC holds the cell's or the block's time for the reader, the last read of a snapshot ends it, and one that has stood for 1 s is
released, marked expired, with source 58. R214: at the next minute of the cell a block that differs from it loads from it, with DRIFT and source 61.
(Commands shown to complete: rtcCompare, rtcSubsecRead, rtcFracRead, freezeExpired, rtcSnapshotEnd.)
(The model's own choices it meets: log entries 8, 135.) -/
def Obligations.CalendarSnapshotsAndTheBlock : Prop :=
  (∀ (o s : State) (w : Who),
    (o.admitsRead w Reg.rtcSubsec s → Completes (.rtcSubsecRead w) o fun t =>
      t.bus = { code := Code.ok, data := leBytes 4 (s.rtc.cellTick / 128) } ∧ t = { s with rtc := t.rtc, bus := t.bus } ∧
        t.cellFor w.id = (s.rtc.cellSec, s.rtc.cellTick) ∧ t.rtc.expired.get w.id = false ∧ ∀ i, i ≠ w.id → t.cellFor i = s.cellFor i) ∧
    (o.admitsRead w Reg.rtcFrac s → Completes (.rtcFracRead w) o fun t =>
      t.bus = { code := Code.ok, data := leBytes 4 (2 * s.rtc.blockTick) } ∧ t = { s with rtc := t.rtc, bus := t.bus } ∧
        t.blockFor w.id = (s.rtc.blockSec, s.rtc.blockTick) ∧ t.rtc.expired.get w.id = false ∧ ∀ i, i ≠ w.id → t.blockFor i = s.blockFor i) ∧
    (∀ cell : Bool, o.admitsRead w (if cell then Reg.rtcYear else Reg.rtcSecHi) s → Completes (.rtcSnapshotEnd w cell) o fun t =>
      t.bus = { code := Code.ok, data := leBytes 4 (if cell then calYear (s.cellFor w.id).1 else (s.blockFor w.id).1 / 2 ^ 32) } ∧
        t = { s with rtc := t.rtc, bus := t.bus } ∧
        (if cell then t.rtc = { s.rtc with cellSnaps := s.rtc.cellSnaps.set w.id none }
         else t.rtc = { s.rtc with blockSnaps := s.rtc.blockSnaps.set w.id none }))) ∧
  (∀ s : State,
    (∀ (id : Nat) (cell : Bool), match (if cell then s.rtc.cellSnaps.get id else s.rtc.blockSnaps.get id) with
      | none => Idles (.freezeExpired id cell) s
      | some x => Completes (.freezeExpired id cell) s fun t => t = s.elapse (s.ticksUntil (x.taken + secondUnits)) ∧
          t.rtc.expired.get id = true ∧ (if cell then t.rtc.cellSnaps.get id = none else t.rtc.blockSnaps.get id = none) ∧
          (s.awake = true → t.pendingSource 58 = true)) ∧
    (let u := s.cellElapse ((60 * 32768 - (s.rtc.cellSec % 60 * 32768 + s.rtc.cellTick)) % (60 * 32768))
     Completes .rtcCompare s fun t => if u.rtc.blockSec = u.rtc.cellSec ∧ u.rtc.blockTick = u.rtc.cellTick then t = u
      else t.bus = s.bus ∧ OnlyRegs { u with rtc := t.rtc } t [Reg.rtcStatus] ∧ Raised u t [61] ∧ t.flag Reg.rtcStatus Rtc.drift = true ∧
        t.rtc = { u.rtc with blockSec := u.rtc.cellSec, blockTick := u.rtc.cellTick }))

/-- R221 to R224: a keyed COMMIT with GO stages a load and sets BUSY, and while one waits it ends in DENIED; at the cell's next 1/256 s boundary cell and block load the staged
time, VALID is set and source 56 rises, or with no valid date the commit fails with ERR and source 57, and the time stands. R225: when the 23-bit accumulator overflows, one
count beyond the crystal's is inserted, or one swallowed, as TRIM's sign says. R226 to R228: START begins a measurement or with HOURS too few aborts it; at the end of its
interval it shows the cycles counted and the trim they give, which with AUTO is taken; a lost reference aborts it, with source 60.
(Commands shown to complete: commit, commitLoad, trimOverflow, measStart, measDone, measAbort.)
(The model's own choices it meets: log entry 12.) -/
def Obligations.CalendarCommitsTrimsAndMeasures : Prop :=
  (∀ s : State,
      (∀ o w v, o.admits w Reg.rtcCommit v s →
        (s.flag Reg.rtcStatus Rtc.busy = true → Completes (.commit w v) o fun t => t.bus = { code := Code.denied, data := [] } ∧ OnlyRegsFlt s t []) ∧
        (s.flag Reg.rtcStatus Rtc.busy = false → field v 31 16 = 0x5254 → bit v.toNat 0 = true → Completes (.commit w v) o fun t => Acked t ∧
          OnlyRegs { s with rtc := { s.rtc with form := bit v.toNat 1 } } t [Reg.rtcStatus] ∧ t.flag Reg.rtcStatus Rtc.busy = true ∧ Raised s t []) ∧
        (s.flag Reg.rtcStatus Rtc.busy = false → (field v 31 16 ≠ 0x5254 ∨ bit v.toNat 0 = false) → Writes (.commit w v) o s [] [] fun _ => True)) ∧
      (s.flag Reg.rtcStatus Rtc.busy = true → let u := s.cellElapse (128 - s.rtc.cellTick % 128)
        Completes .commitLoad s fun t => t.flag Reg.rtcStatus Rtc.busy = false ∧ t.bus = s.bus ∧
        OnlyRegs { u with rtc := t.rtc } t [Reg.rtcStatus] ∧ match s.stagedSec with
          | none => t.rtc = u.rtc ∧ t.flag Reg.rtcStatus Rtc.err = true ∧ Raised u t [57]
          | some n => t.rtc.valid = true ∧ t.rtc.cellSec = n ∧ t.rtc.blockSec = n ∧ t.rtc.cellTick = 128 * s.fld Reg.rtcSetTime 31 24 ∧
              t.rtc.blockTick = t.rtc.cellTick ∧ t.flag Reg.rtcStatus Rtc.err = false ∧ t.flag Reg.rtcStatus 31 = true ∧ Raised u t [56]) ∧
      (s.flag Reg.rtcStatus Rtc.busy = false → Idles .commitLoad s)) ∧
  (∀ s : State,
      (s.rtc.trimSize = 0 → Idles .trimOverflow s) ∧
      (s.rtc.trimSize ≠ 0 → s.rtc.trimAcc < 2 ^ 23 → s.rtc.phase < 250000000 → Completes .trimOverflow s fun t => t.rtc.trimAcc < 2 ^ 23 ∧
        let n := (2 ^ 23 - s.rtc.trimAcc + s.rtc.trimSize - 1) / s.rtc.trimSize
        t.rtc.raw = s.rtc.raw + n ∧ t.rtc.cellSec * 32768 + t.rtc.cellTick + (if s.rtc.trimPositive then 0 else 1) =
          s.rtc.cellSec * 32768 + s.rtc.cellTick + n + (if s.rtc.trimPositive then 1 else 0)) ∧
      (∀ o w v, o.admits w Reg.rtcMeasCtrl v s → let few := decide (field v 31 16 < (if bit v.toNat 1 then 24 else 1))
        if s.flag Reg.rtcStatus Rtc.measBusy = false ∧ bit v.toNat 0 = true then
          Completes (.measStart w v) o fun t => Acked t ∧ OnlyRegs { s with rtc := t.rtc } t [Reg.rtcMeasCtrl, Reg.rtcStatus] ∧
            Raised s t (if few then [60] else []) ∧ t.flag Reg.rtcStatus Rtc.measBusy = (!few) ∧
            t.flag Reg.rtcStatus Rtc.measAbort = few ∧ t.flag Reg.rtcMeasCtrl 0 = (!few) ∧ t.fld Reg.rtcMeasCtrl 31 16 = field v 31 16 ∧
            t.rtc = (if few then s.rtc else { s.rtc with measRaw := s.rtc.raw, measFrom := t.rtc.measFrom })
        else Writes (.measStart w v) o s [Reg.rtcMeasCtrl] [] fun t => t.fld Reg.rtcMeasCtrl 31 16 = field v 31 16 ∧
          t.flag Reg.rtcMeasCtrl 0 = s.flag Reg.rtcStatus Rtc.measBusy) ∧
      (s.flag Reg.rtcStatus Rtc.measBusy = true → s.measLost = false → match s.measTicks with
        | none => Idles .measDone s
        | some k =>
          let u := s.elapse k
          let cycles := u.rtc.raw - u.rtc.measRaw
          let hours := s.fld Reg.rtcMeasCtrl 31 16
          Completes .measDone s fun t => t.bus = s.bus ∧ Raised u t [59] ∧
            OnlyRegs { u with rtc := t.rtc } t [Reg.rtcMeasCycLo, Reg.rtcMeasCycHi, Reg.rtcMeasResult, Reg.rtcStatus, Reg.rtcMeasCtrl, Reg.rtcTrim] ∧
            t.flag Reg.rtcStatus Rtc.measBusy = false ∧ t.flag Reg.rtcMeasCtrl 0 = false ∧ t.flag Reg.rtcMeasResult 31 = true ∧
            t.num Reg.rtcMeasCycLo = cycles % 2 ^ 32 ∧ t.num Reg.rtcMeasCycHi = cycles / 2 ^ 32 % 2 ^ 32 ∧
            t.fld Reg.rtcMeasResult 10 0 = unsigned 11 (clampInt (-1024) 1023
              (roundDiv (-((cycles : Int) - 32768 * (hours * 3600 : Nat)) * 256) (hours * 3600))) ∧
            (s.flag Reg.rtcMeasCtrl 7 = true → t.rtc.trim = t.fld Reg.rtcMeasResult 10 0 ∧ t.fld Reg.rtcTrim 10 0 = t.fld Reg.rtcMeasResult 10 0) ∧
            (s.flag Reg.rtcMeasCtrl 7 = false → t.rtc = u.rtc ∧ t.reg Reg.rtcTrim = u.reg Reg.rtcTrim)) ∧
      (∀ c ∈ [Instr.measAbort, .measDone], s.flag Reg.rtcStatus Rtc.measBusy = true → s.measLost = true →
        Alters c s [Reg.rtcStatus, Reg.rtcMeasCtrl] [60] fun t => t.flag Reg.rtcStatus Rtc.measBusy = false ∧
          t.flag Reg.rtcMeasCtrl 0 = false ∧ t.flag Reg.rtcStatus Rtc.measAbort = true) ∧
      (s.flag Reg.rtcStatus Rtc.measBusy = false → Idles .measAbort s ∧ Idles .measDone s) ∧ (s.measLost = false → Idles .measAbort s))

/-! ### Wards and the adaptive loops (05) -/

/-- R231 to R234: at an arbiter a beat is granted from its holder's credit; without an allotment from slack alone; with the credit spent, which is counted once in a
period and level, from slack where the holder may borrow, and else not in this period. Grants change credits and their counters alone; an access that is URGENT, or made before
wards run, needs none, and one that lacks a grant waits. R231, R238 to R240: a Ward period ends at its comparator, at NOMP of the internal generator, or counted late after 2 NOMP:
every credit is whole again but for what an engine had beyond it, the allotments are those now running, the registers show the period that ends (its number, its length, the
holders exhausted in it), and the requests that waited go on in their order.
R243 to R246, R249 to R251: AVS moves a region's request by 5 mV at most, up to VCORE_MAX; DFS moves a region's clock by 100 MHz at most, between its minimum and
1,200 MHz; LINK_EQ moves each value of a lane by 1 at most within its limits; DET_THRESH compensates for the temperature, and each frame leaves its gate's scale between 1
and GATE_SCALE_MAX. A loop that is disabled, frozen or held changes nothing it controls, and memory stays.
(Commands shown to complete: wardPeriod, periodLate, avsEvaluation, dfsEvaluation, linkEqUpdate, detThreshUpdate.)
(The model's own choices it meets: log entries 82, 84, 142.) -/
def Obligations.WardsRefillAndAdaptiveLoopsStep : Prop :=
  (((∀ (o s : State) (x : Waiting) (left : List Arbiter), o.grants x = (s, left) →
        Granted o s ∧ (o.budgeted x.who = false → s = o ∧ left = []) ∧ (urgent x.who = true → left = [])) ∧
    (∀ (s : State) (h : Nat) (slack : Bool) (a : Arbiter), h < 64 →
        let t := (s.grant h slack a).1
        let granted := (s.grant h slack a).2
        let used := s.ward.spent.get (64 * a.key + h)
        (s.allotment h a = 0 → t = s ∧ granted = slack) ∧
        (used < s.allotment h a → granted = true ∧ t = { s with ward := t.ward } ∧ t.ward.spent.get (64 * a.key + h) = used + 1) ∧
        (0 < s.allotment h a → s.allotment h a ≤ used → granted = (s.holderBorrows h && slack) ∧ t.ward.exhausted.get (64 * a.level + h) = true ∧
          t.num (Reg.wrdHborrow h) = min (2 ^ 32 - 1) (s.num (Reg.wrdHborrow h) + ofBool granted) ∧
          let first := ofBool (!s.ward.exhausted.get (64 * a.level + h))
          (a.level = 4 → t.fld (Reg.wrdHexhCr h) 31 16 = min 65535 (s.fld (Reg.wrdHexhCr h) 31 16 + first)) ∧
          (a.level = 3 → t.fld (Reg.wrdHexhCr h) 15 0 = min 65535 (s.fld (Reg.wrdHexhCr h) 15 0 + first)) ∧
          (a.level = 2 → t.fld (Reg.wrdHexhBc h) 31 16 = min 65535 (s.fld (Reg.wrdHexhBc h) 31 16 + first)) ∧
          (a.level = 1 → t.fld (Reg.wrdHexhBc h) 15 0 = min 65535 (s.fld (Reg.wrdHexhBc h) 15 0 + first)))) ∧
    (∀ (o s : State) (w : Who) (off : Nat) (a : Arbiter) (left : List Arbiter),
        (∀ c v, registerWriteOf c = some (w, off, v) → o.writable w off v = true → o.grants (writeAccess w off v) = (s, a :: left) →
          exec c o = .next (s.queued (writeAccess w off v) (a :: left))) ∧
        (∀ c, registerReadOf c = some (w, off) → o.readable w off = true → o.grants (readAccess w off) = (s, a :: left) →
          exec c o = .next (s.queued (readAccess w off) (a :: left))))) ∧
  (∀ s : State,
      let refilled := fun (u t : State) =>
        OnlyRegs { u with ward := t.ward } t [Reg.wrdExhMapLo, Reg.wrdExhMapHi, Reg.wrdPeriods, Reg.wrdLastlen, Reg.wrdStatus] ∧
          t.plic = u.plic ∧ t.bus = u.bus ∧ t.ward.exhausted = Tab.empty ∧ t.ward.start = t.chip.ran ∧ t.ward.waiting = [] ∧
          ((∀ c ∈ u.ward.spent.cells, c.2 ≤ u.allotment (c.1 % 64) (.ofKey (c.1 / 64))) → ∀ k, t.ward.spent.get k = 0) ∧
          (∀ r, r < 4 → t.ward.bodies.get r = u.body Ty.ward r 0) ∧
          t.num Reg.wrdPeriods = (u.num Reg.wrdPeriods + 1) % 2 ^ 32 ∧
          t.num Reg.wrdLastlen = min (2 ^ 32 - 1) ((t.chip.ran - u.ward.start) / 2 ^ 32) ∧
          t.flag Reg.wrdStatus 31 = (decide (u.wardSpindle < 8) && u.substitute u.wardSpindle) ∧
          ∀ h, h < 64 → t.flag (if h < 32 then Reg.wrdExhMapLo else Reg.wrdExhMapHi) (h % 32) =
            (List.range 5).any fun l => u.ward.exhausted.get (l * 64 + h)
      let starts := fun (u t : State) => ∃ b, refilled u b ∧ t = u.ward.waiting.foldl State.resume b
      (s.wardRuns = true → s.wardSpindle = 0xFF →
        (Completes .wardPeriod s fun t => starts (s.elapse (s.wardTicks s.wardNominal)) t) ∧ Idles .periodLate s) ∧
      (s.wardRuns = true → s.wardSpindle ≠ 0xFF →
        (Completes .wardPeriod s fun t => match s.firing Consumer.wrd s.wardSpindle s.wardComparator with
          | none => t = s
          | some (u, _) => starts u t) ∧
        (s.waits s.wardSpindle s.wardComparator = true → Idles .periodLate s) ∧
        (s.waits s.wardSpindle s.wardComparator = false → let u := s.elapse (s.wardTicks (2 * s.wardNominal))
          Completes .periodLate s fun t => if u.waits s.wardSpindle s.wardComparator = true then t = u
            else starts ((u.bump Reg.wrdLate 31 0 1).raise 89) t)) ∧
      (s.wardRuns = false → Idles .wardPeriod s ∧ Idles .periodLate s))) ∧
  (∀ s : State,
      (∀ margins temp, -32768 ≤ temp → temp < 32768 → Completes (.avsEvaluation margins temp) s fun t => t.bus = s.bus ∧
        OnlyRegsFlt { s with adp := t.adp, pwr := t.pwr } t ([Reg.adpTemp, Reg.adpStatus] ++ (List.range 5).map Reg.adpAvs) ∧ t.temp = temp ∧
        ∀ r, r < 5 → let m := margins.getD r 0
          t.margin r = m ∧ t.fld (Reg.adpAvs r) 7 0 = unsigned 8 (clampInt (-128) 127 m) ∧
            if s.loopActs Loop.avs = false ∨ s.adpHolds r = true then t.request r = s.request r
            else if m < s.avsMargin - 10 then t.request r = min s.vcoreMax (s.request r + 5) % 1024
            else if s.avsMargin + 20 < m then t.request r ≤ s.request r ∧ s.request r ≤ t.request r + 5
            else t.request r = s.request r) ∧
      (Completes .dfsEvaluation s fun t => t.bus = s.bus ∧ OnlyRegs { s with adp := t.adp } t [Reg.adpDfs0, Reg.adpDfs1, Reg.adpStatus] ∧ ∀ i, i < 2 →
        let r := if i = 0 then Region.control else Region.sense
        let f := s.fld (State.dfsReg i) 10 0
        t.fld (State.dfsReg i) 10 0 =
          (if s.loopActs Loop.dfs = false ∨ s.adpHolds r = true ∨ s.adp.dfsQuiet.get i + 1 < 10 then f
           else if s.avsAtLimit r = true ∨ (s.adpByte 8 : Int) * 4 < s.temp then max (s.dfsMin i) (f - 100)
           else if s.avsMargin + 20 < s.margin r ∧ s.request r + 20 ≤ s.vcoreMax ∧ s.temp < ((s.adpByte 8 : Int) - 5) * 4 then min 1200 (f + 100)
           else f) % 2048) ∧
      (∀ lane ctle taps,
        if s.variant.lanes ≤ lane ∨ s.fenced Region.link = true ∨ s.flag Reg.adpEnable Loop.eq = false then Idles (.linkEqUpdate lane ctle taps) s
        else Completes (.linkEqUpdate lane ctle taps) s fun t => t.bus = s.bus ∧
          OnlyRegs { s with adp := t.adp } t [Reg.adpEqLo lane, Reg.adpEqHi lane, Reg.adpStatus] ∧
          if s.loopActs Loop.eq = true then
            t.ctle lane = (clampInt 0 (s.adpByte 0x11 : Nat) ((s.ctle lane : Int) + clampInt (-1) 1 ctle)).toNat % 16 ∧
            ∀ k, k < 5 → t.tap lane (k + 1) = clampInt (-32) 31 (s.tap lane (k + 1) + clampInt (-1) 1 (taps.getD k 0))
          else t.reg (Reg.adpEqLo lane) = s.reg (Reg.adpEqLo lane) ∧ t.reg (Reg.adpEqHi lane) = s.reg (Reg.adpEqHi lane)) ∧
      (∀ temp, -32768 ≤ temp → temp < 32768 → Completes (.detThreshUpdate temp) s fun t => t.bus = s.bus ∧ t.temp = temp ∧
        OnlyRegs { s with adp := { s.adp with threshTemp := t.adp.threshTemp } } t [Reg.adpTemp, Reg.adpStatus] ∧
        t.adp.threshTemp = if s.loopActs Loop.thresh then temp else s.adp.threshTemp) ∧
      (∀ g nis, (s.loopActs Loop.thresh = false → (s.observeGate g nis).gateScale g = s.gateScale g) ∧
        (s.loopActs Loop.thresh = true → nis ≠ [] → 16 ≤ (s.observeGate g nis).gateScale g ∧
          (s.observeGate g nis).gateScale g ≤ max 16 (s.adpByte 0x10)) ∧
        ∀ k, k ≠ g → (s.observeGate g nis).gateScale k = s.gateScale k))

/-- R247, R248: PLACE marks at most one task, and only while it acts and no move waits; between instances the marked task moves to its core, with its state area, counted and with
source 98. R252, R262: a last-good record of the present values takes the next place of sixteen, with source 99, unless a loop is frozen or the part is in MOUNT; a write of
ADP.STORE without its key stores nothing.
(Commands shown to complete: placeEvaluation, taskMove, lastGoodStore, adpStore.)
(The model's own choices it meets: log entry 83.) -/
def Obligations.PlacementsAndLastGoodRecords : Prop :=
  ∀ s : State,
    (s.tskRuns = false → ∀ slacks utils, Idles (.placeEvaluation slacks utils) s) ∧
    (s.tskRuns = true → ∀ slacks utils, Completes (.placeEvaluation slacks utils) s fun t =>
      OnlyRegs { s with tsk := t.tsk } t ((List.range s.ntask).map Reg.tskTstate) ∧
      (∀ k, k < s.ntask → (t.task k).core = (s.task k).core ∧ (t.task k).live = (s.task k).live ∧ (t.task k).moved = (s.task k).moved - 1) ∧
      (s.loopActs Loop.place = false ∨ (∃ k, k < s.ntask ∧ (s.task k).move ≠ none) → ∀ k, (t.task k).move = (s.task k).move) ∧
      ∀ j k, (t.task j).move ≠ (s.task j).move → (t.task k).move ≠ (s.task k).move → j = k) ∧
    (∀ task, (s.task task).move = none → Idles (.taskMove task) s) ∧
    (∀ task dst, (s.task task).move = some dst →
      if (s.task task).live = true ∨ s.tskRuns = false ∨ s.programMode (s.taskDef task).prog = Program.hold ∨ s.takesTasks dst = false ∨
          32 ≤ s.tasksOn dst then Idles (.taskMove task) s
      else Completes (.taskMove task) s fun t =>
        OnlyRegs { s with tsk := t.tsk, mem := t.mem, poison := t.poison } t [Reg.tskTstate task, Reg.adpPlace] ∧ Raised s t [98] ∧ t.bus = s.bus ∧
        (t.task task).core = dst ∧ (t.task task).move = none ∧ (∀ k, k ≠ task → t.task k = s.task k) ∧
        t.fld Reg.adpPlace 31 16 = min 65535 (s.fld Reg.adpPlace 31 16 + 1) ∧
        t.bytes (s.stateAreaOn task dst) (s.taskDef task).stateLen = s.bytes (s.stateArea task) (s.taskDef task).stateLen ∧
        MemoryKept s t (s.stateAreaOn task dst) (s.stateAreaOn task dst + (s.taskDef task).stateLen)) ∧
    (let seq := match s.lastGood with
        | some r => (u32 r 0 + 1) % 2 ^ 32
        | none => 0
     let place := s.lastGoodBase + 256 * (seq % 16)
     let stored := fun (t : State) => OnlyRegs { s with mem := t.mem, poison := t.poison } t [Reg.adpLastgood] ∧ Raised s t [99] ∧ t.num Reg.adpLastgood = seq ∧
        t.bytes place 256 = s.lastGoodRecord seq ∧ MemoryKept s t place (place + 256)
     let writable := s.partialBad place 256 = none ∧ s.storeLocks (engineWho Init.warden) place 256 = false
     (s.num Reg.adpFreeze % 32 ≠ 0 ∨ s.mode ≤ Mode.mount → Idles .lastGoodStore s) ∧
     (s.num Reg.adpFreeze % 32 = 0 → Mode.mount < s.mode → writable → Completes .lastGoodStore s fun t => stored t ∧ t.bus = s.bus) ∧
     ∀ o w v, o.admits w Reg.adpStore v s →
       if field v 31 16 = 0x4C47 ∧ bit v.toNat 0 = true ∧ s.num Reg.adpFreeze % 32 = 0 then
         writable → Completes (.adpStore w v) o fun t => stored t ∧ Acked t
       else Writes (.adpStore w v) o s [] [] fun _ => True)

/-! ### The Lathes (06) -/

/-- R275 to R277, R281: a submission that is refused leaves its reason in the initiator's TICKET and raises source 6 of the Lathe; an accepted one gives the ticket and joins the
end of the queue, or completes at once with DEADLINE_MISS; one of a descriptor outside Stock, or with an uncorrectable word, ends in its bus error. R276: ENABLE is
stored, and FLUSH empties the queue.
(Commands shown to complete: latheSubmit, flush.)
(The model's own choices it meets: log entry 50.) -/
def Obligations.LathesQueueOrRefuseDescriptors : Prop :=
  ∀ (o s : State) (w : Who) (n : Nat) (v : Word), n < 4 →
    (o.admits w (Reg.lthSubmit n) v s →
      let off := field v 23 6 * 64
      let desc : Desc := s.bytes (Addr.stock + off) 64
      let u := s.charge (engineWho (8 + n)) (Addr.stock + off) 64
      let l := u.lth n
      let ticketReg := bankOf w.id (Reg.lthTicket n)
      let late := !desc.noDeadline && u.deadlineValid desc.deadline && u.deadlinePassed desc.deadline
      (s.variant.stockBytes ≤ off → Completes (.latheSubmit w n v) o fun t => t.bus = { code := Code.absent, data := [] } ∧ OnlyRegsFlt s t []) ∧
      (off < s.variant.stockBytes → s.badWordIn (Addr.stock + off) 64 ≠ none →
        Completes (.latheSubmit w n v) o fun t => t.bus = { code := Code.uncorrectable, data := [] } ∧ OnlyRegsFlt s t []) ∧
      (off < s.variant.stockBytes → s.badWordIn (Addr.stock + off) 64 = none →
        (u.refuseReason n w.id ≠ 0 → Writes (.latheSubmit w n v) o u [ticketReg] [u.latheSource n 6] fun t =>
          t.num ticketReg = 2 ^ 31 + 2 ^ 30 + u.refuseReason n w.id * 2 ^ 24) ∧
        (u.refuseReason n w.id = 0 → late = false → Completes (.latheSubmit w n v) o fun t => Acked t ∧
          t.lth n = { l with queue := l.queue ++ [{ ticket := l.next, who := w.id, desc := desc }], next := (l.next + 1) % 2 ^ 24 } ∧
          t.num ticketReg = (2 ^ 31 + l.next) % 2 ^ 32 ∧
          OnlyRegs { u with lathe := t.lathe } t ([ticketReg, Reg.lthStatus n, Reg.lthQdepth n, Reg.lthRunLo n, Reg.lthRunHi n] ++
            (List.range (s.nchuck n)).map (Reg.lthChuck n))) ∧
        (u.refuseReason n w.id = 0 → late = true → w.id ≠ Init.fed → Completes (.latheSubmit w n v) o fun t => Acked t ∧
          Delivers s t (s.latheSlot n desc) Lth.deadlineMiss))) ∧
    (o.admits w (Reg.lthQctrl n) v s →
      (bit v.toNat 8 = false → Writes (.flush w n v) o s [Reg.lthQctrl n] [] fun t => t.flag (Reg.lthQctrl n) 0 = bit v.toNat 0) ∧
      (bit v.toNat 8 = true → Completes (.flush w n v) o fun t => Acked t ∧ (t.lth n).queue = [] ∧ (t.lth n).runs = (s.lth n).runs ∧
        t.flag (Reg.lthQctrl n) 0 = bit v.toNat 0))

/-- R279 to R282, R297, R300, R304 to R307: of the queue, the first descriptor in deadline order that may run starts on its chuck or completes with what stops it; a queued
one whose deadline passes, a cancelled one, a finished, a stopped and a failed one leave their result in their slot, and a finished, stopped or failed one frees its
chuck. A solve stops where the time left to its deadline does not take it further, and else completes; a word of its store that fails is poisoned. A cell that fails takes
its chuck out of service. What is not there does nothing. (A federation's own descriptor is answered and taken by FED.)
(Commands shown to complete: latheDispatch, latheDeadlineQueued, latheDeadlineStop, latheCompletion, cancel, latheCellFault.)
(The model's own choices it meets: log entries 85, 86, 145, 147.) -/
def Obligations.LathesRunDescriptorsToTheirSlots : Prop :=
  ∀ (s : State) (n : Nat), n < 4 →
    (s.latheRuns n = false → Idles (.latheDispatch n) s) ∧
    (s.latheRuns n = true → Completes (.latheDispatch n) s fun t =>
      match (s.jobOrder n).find? fun j => s.dispatchOf n j.desc != .wait with
      | none => t = s
      | some j => j.who ≠ Init.fed → (t.lth n).queue = (s.lth n).queue.filter (fun k => k.ticket != j.ticket) ∧
        let ends := fun (code : Nat) => Delivers s t (s.latheSlot n j.desc) code ∧ (t.lth n).runs = (s.lth n).runs
        match s.dispatchOf n j.desc with
        | .wait => False
        | .refuse code _ => ends code
        | .run c =>
          if s.predictsMiss n j.desc (s.chuckCells n c) = true then ends Lth.predictedMiss
          else if (s.unreachable n j.desc).isSome = true then ends Lth.dataError
          else
            let u := (s.charge (engineWho (8 + n)) (Desc.base j.desc) (s.dataBytes j.desc)).healChuck n c
            match u.loadFails j.desc (s.warmStart n j.desc) with
            | some (code, _) => ends code
            | none => t.mem = s.mem ∧ ∃ r, t.chuckRun n c = some r ∧ r.job = j ∧ r.start = s.now ∧ r.ran = s.chip.ran) ∧
    (∀ ticket, match (s.lth n).queue.find? (fun j => j.ticket == ticket) with
      | none => Idles (.latheDeadlineQueued n ticket) s
      | some j =>
        if s.latheRuns n = false ∨ Desc.noDeadline j.desc = true ∨ s.deadlineValid (Desc.deadline j.desc) = false then
          Idles (.latheDeadlineQueued n ticket) s
        else j.who ≠ Init.fed → Completes (.latheDeadlineQueued n ticket) s fun t =>
          let u := s.elapseTo (Desc.deadline j.desc)
          if u.deadlinePassed (Desc.deadline j.desc) then Delivers u t (u.latheSlot n j.desc) Lth.deadlineMiss ∧
            (t.lth n).queue = (s.lth n).queue.filter (fun k => k.ticket != ticket) else t = u) ∧
    (∀ o w v, o.admits w (Reg.lthCancel n) v s →
      (∀ j, (s.lth n).queue.find? (fun j => j.ticket == field v 23 0) = some j →
        (j.who ≠ w.id → s.secure w = false → Writes (.cancel w n v) o s [] [] fun _ => True) ∧
        (j.who = w.id ∨ s.secure w = true → j.who ≠ Init.fed → Completes (.cancel w n v) o fun t => Acked t ∧
          Delivers s t (s.latheSlot n j.desc) Lth.cancelled ∧ (t.lth n).queue = (s.lth n).queue.filter fun k => k.ticket != j.ticket)) ∧
      ((s.lth n).queue = [] → (s.lth n).runs = Tab.empty → Writes (.cancel w n v) o s [] [] fun _ => True)) ∧
    (∀ chuck, match (if s.latheRuns n then s.chuckRun n chuck else none) with
      | none => (∀ late bad ps, Idles (.latheCompletion n chuck late bad ps) s) ∧ ∀ ps, Idles (.latheDeadlineStop n chuck ps) s
      | some run =>
        let cells := s.chuckCells n chuck
        let r := s.solve run cells (Desc.maxit run.job.desc)
        let ends := fun (t : State) (code : Nat) => t.chuckRun n chuck = none ∧
          (run.job.who ≠ Init.fed → Delivers s t (s.latheSlot n run.job.desc) code)
        (∀ late ps, Completes (.latheCompletion n chuck late none ps) s fun t => match s.stopAfter n run ps with
          | none => ends t r.code
          | some k => if r.units ≤ k then ends t r.code else ends t Lth.deadlineMiss) ∧
        (∀ late off ps, Completes (.latheCompletion n chuck late (some off) ps) s fun t => ends t Lth.dataError ∧
          (run.job.who ≠ Init.fed → s.latheSlot n run.job.desc + 256 ≤ Addr.lathe → ∃ p ∈ t.poison, p % 8 = 0 ∧ Addr.lathe + 0x800000 * n + 32768 * s.chuckFirst n chuck ≤ p ∧
            p < Addr.lathe + 0x800000 * n + 32768 * s.chuckFirst n chuck + max 8 (32768 * cells))) ∧
        (∀ ps, match s.stopAfter n run ps with
          | none => Idles (.latheDeadlineStop n chuck ps) s
          | some k => if r.units ≤ k then Idles (.latheDeadlineStop n chuck ps) s
              else Completes (.latheDeadlineStop n chuck ps) s fun t => ends t Lth.deadlineMiss)) ∧
    (∀ cell, if cell < s.variant.cellsPerLathe ∧ n < s.variant.lathes ∧ s.fenced Region.solve = false then
      Completes (.latheCellFault n cell) s fun t => t.flag (Reg.lthCellfail n (cell / 32)) (cell % 32) = true ∧ Rises s t (s.latheSource n 4) ∧
        ∀ c, c < s.nchuck n → c < 64 → s.chuckFirst n c ≤ cell → cell < s.chuckFirst n c + s.chuckCells n c →
          t.chuckOut n c = true ∧ t.chuckRun n c = none
      else Idles (.latheCellFault n cell) s)

/-! ### Federations (07) -/

/-- R314, R315, R337: at a firing of the round spindle's comparator the top begins the round of that crossing, tells it by a TICK, and in an active one sends DOWN and AREA_DOWN to its
children; a round is active while its plan is open and the period's budget lasts. R327, R335, R336: a child's UP or AREA_UP of the open round is taken and shows its sender; one of another
generation, of a lower claim, or late is counted and dropped. R322, R324, R326: a close ages the children that did not contribute and makes the others CURRENT. R321 to R330: the top publishes
when its test is met and at the budget's last round.
(Commands shown to complete: roundStart, fedUp, areaUp, areaClose, fedClose.)
(The model's own choices it meets: log entries 88, 89, 148.) -/
def Obligations.FederationRoundsOpenAndClose : Prop :=
  ∀ s : State,
    (s.fedRuns = false ∨ s.fedRole ≠ Fed.top → Idles .roundStart s) ∧
    (s.fedRuns = true → s.fedRole = Fed.top → match s.firing Consumer.fed s.fedSpindle (u8 s.fedBody 9) with
      | none => Idles .roundStart s
      | some (u, target) =>
        let n := u.fedSpindle
        let round := (target + (u.spin n).pos + 2 ^ 64 - (u.spin n).travel % 2 ^ 64) / 2 ^ 32 % 2 ^ 32
        let k := round % u.planRounds
        let plan := round / u.planRounds
        let new := k == 0 || plan != u.fed.downPlan
        let gap := u.fed.resuming && !u.fed.published
        let budget := if new then u.fld Reg.fedBudget 9 0 else u.fed.budget
        let active := (new || !u.fed.published) && (decide (k < budget) || gap)
        let start := u.roundBegin round
        Completes .roundStart s fun t => ∃ v b : State,
          (OnlyRegs { u with fed := v.fed } v [Reg.fedRound, Reg.fedStatus] ∧ Raised u v (if u.fed.resuming then [184] else []) ∧ v.bus = u.bus ∧
            v.num Reg.fedRound = round ∧ v.fld Reg.fedStatus 9 0 = k % 1024 ∧ v.flag Reg.fedStatus 27 = (!active) ∧
            v.flag Reg.fedStatus 28 = u.substitute n ∧ v.flag Reg.fedStatus 26 = (u.fed.resuming || (!new && u.flag Reg.fedStatus 26)) ∧
            v.flag Reg.fedStatus 29 = (u.fed.resuming || u.flag Reg.fedStatus 29) ∧ v.fed.budget = budget ∧ v.fed.downPlan = (if new then plan else u.fed.downPlan) ∧
            v.fed.owed = (if new then (if gap then some u.fed.downPlan else none) else u.fed.owed)) ∧
          b = { v.fedSend 0x4000 (u.fedHeader Mtype.tick 0 0 0 0 round plan 0 0 ++ leBytes 8 (start / 1000000000) ++ leBytes 4 (start % 1000000000) ++
            leBytes 4 (u.spindlePeriod n)) with fed := b.fed } ∧
          b.fed.round = round ∧ b.fed.began = target ∧ b.fed.active = active ∧ b.fed.closed = (!active) ∧ b.fed.dropped = false ∧ b.fed.values = Tab.empty ∧
          b.fed.sums = Tab.empty ∧ b.fed.fragments = Tab.empty ∧ b.fed.lastFrag = Tab.empty ∧ b.fed.residual = Tab.empty ∧
          t = if active then ((List.range u.nchild).foldl (fun x c =>
              if x.childIsArea c then x.sendAreaZ c Mtype.areaDown 0 round plan (x.num Reg.fedRho) 0 0 else x.sendDown c round plan) (b.raise 183)).deliverInside
            else b) ∧
    (∀ (m : List Byte) (area : Bool),
      let cmd : Instr := if area then .areaUp m else .fedUp m
      let on := s.fedRuns = true ∧ (if area then s.fedRole = Fed.top else 2 ≤ s.fedRole) ∧ Fmsg.type m = (if area then Mtype.areaUp else Mtype.up)
      (¬ on → Idles cmd s) ∧
      (on → Fmsg.gen m ≠ s.fedGen → Drops cmd s Reg.fedDropGen) ∧
      (on → Fmsg.gen m = s.fedGen → (Fmsg.dst m ≠ s.blk.node ∨ ∀ c k, s.childOf (Fmsg.src m) = some (c, k) → s.childIsArea c ≠ area) → Idles cmd s) ∧
      (on → Fmsg.gen m = s.fedGen → Fmsg.dst m = s.blk.node → ∀ c k, s.childOf (Fmsg.src m) = some (c, k) → s.childIsArea c = area →
        if Fmsg.claim m < s.fed.claims.get c then Drops cmd s Reg.fedDropClaim
        else if s.fed.closed = true ∨ Fmsg.round m ≠ s.fed.round ∨ s.acceptAngle area ≤ s.roundAngle then Drops cmd s Reg.fedDropLate
        else
          let f := { s.fed with claims := s.fed.claims.set c (Fmsg.claim m) }
          let p := Fmsg.frag m
          let g := { f with fragments := f.fragments.set c (setBit (f.fragments.get c) p),
                            lastFrag := if Fmsg.last m then f.lastFrag.set c (p + 1) else f.lastFrag }
          let shows := fun (t : State) => t.fld (Reg.fedChild c) 15 14 = k ∧ t.fld (Reg.fedChild c) 13 0 = Fmsg.src m ∧
            t.childState c = s.childState c ∧ t.childAge c = s.childAge c
          let taken := fun (h : FedState) => Completes cmd s fun t => t.bus = s.bus ∧
            OnlyRegs { s with fed := t.fed } t [Reg.fedChild c] ∧ Raised s t [] ∧ shows t ∧ t.fed = h
          if area = false then
            if Fmsg.failed m = true then taken f
            else taken { f with values := f.values.set c (some ((List.range (s.childNc c)).map fun i => u32 m (0x20 + 4 * i))),
                                flags := f.flags.set c (Fmsg.flags m % 4) }
          else if p ≠ 0 then
            let held := if (g.sums.get c).isEmpty then List.replicate (28 * s.childNidx c) 0#8 else g.sums.get c
            taken { g with sums := g.sums.set c (patchBytes held (28 * (72 * (p - 1))) (slice m 0x20 (28 * min (Fmsg.nent m) (s.childNidx c - 72 * (p - 1))))),
                           flags := g.flags.set c (Fmsg.flags m % 4) }
          else if Fmsg.failed m = true then taken g
          else
            let a := s.areaBase c + 28 * s.childNidx c
            s.storeLocks (engineWho Init.fed) a 64 = false → s.partialBad a 64 = none → Completes cmd s fun t => shows t ∧
              t.fed = { g with residual := g.residual.set c true } ∧ t.block c = slice m 0x20 64 ∧ MemoryKept s t a (a + 64) ∧
              ∃ u, Granted { s with fed := t.fed } u ∧ OnlyRegs { u with mem := t.mem, poison := t.poison } t [Reg.fedChild c] ∧ t.plic = u.plic)) ∧
    (let aged := fun (u t : State) => t.fed.closed = true ∧ ∀ c, c < u.nchild →
        let age := min 255 (u.childAge c + 1)
        let limit := max 1 (u.fld Reg.fedStaleRounds 3 0)
        if u.childCurrent c = true then t.childState c = 1 ∧ t.childAge c = 0 ∧ (u.childState c = 3 → Rises u t 180)
        else t.childAge c = age ∧ (u.childState c = 1 → Rises u t 178) ∧ ((u.childState c = 1 ∨ u.childState c = 2) → limit ≤ age → Rises u t 179) ∧
          t.childState c = if u.childState c = 1 ∨ u.childState c = 2 then (if limit ≤ age then 3 else 2) else u.childState c
     let open_ := s.fedRuns = true ∧ s.fed.active = true ∧ s.fed.closed = false
     (¬ (open_ ∧ s.fedRole = Fed.area) → Idles .areaClose s) ∧
     (open_ ∧ s.fedRole = Fed.area → Completes .areaClose s fun t => aged (s.elapseToAngle s.memberDl) t ∧ t.fed.pendingDual = true ∧
       t.fed.judgedRound = s.fed.round ∧ ∃ f, t.fed.judged = some f ∧ f.heard = (List.range s.nchild).any s.childCurrent) ∧
     (¬ (open_ ∧ s.fedRole = Fed.top) → Idles .fedClose s) ∧
     (open_ ∧ s.fedRole = Fed.top → Completes .fedClose s fun t =>
       let u := s.elapseToAngle (s.acceptAngle ((List.range s.nchild).any s.childIsArea))
       let last := u.fed.budget ≤ u.fld Reg.fedStatus 9 0 + 1
       aged u t ∧ t.fed.owed = none ∧ t.fed.anyCurrent = (u.fed.anyCurrent || (List.range u.nchild).any u.childCurrent) ∧
         (last → t.fed.published = true) ∧
         (u.fed.owed = none → u.fed.published = false →
           (t.fed.published = false → t.slots = u.slots ∧ t.fed.plan = u.fed.plan ∧ t.flag Reg.fedStatus 27 = false) ∧
           (t.fed.published = true → u.newPlan u.fed.downPlan = true → Rises u t 176 ∧ t.flag Reg.fedStatus 27 = true ∧
             t.num Reg.fedPlan = u.fed.downPlan % 2 ^ 32 ∧
             (∃ p, t.fed.plan = some p ∧ p.number = u.fed.downPlan ∧ u16 p.payload 4 = (u.fld Reg.fedStatus 9 0 + 1) % 65536) ∧
             ∃ code, Delivers u t u.planSlot code ∧ (code = 0 ∨ last ∧ code = if t.fed.anyCurrent then 3 else 0x140)))))

/-- R317, R318, R331, R332, R335, R336: DOWN, AREA_DOWN, PLAN and AREA_PLAN are taken from the parent set; one of another generation or of a lower claim is counted and dropped. A member that
takes a DOWN shows its round and ρ and raises source 183; it submits its descriptor to reply by, or misses the round when the reply's instant has passed or the submission is refused. An area begins
its round with the last fragment of AREA_DOWN, and takes a plan with the last of AREA_PLAN. R333: a plan not written before is delivered to the plan slot, and written again as expired when its time passes.
(Commands shown to complete: fedDown, areaDown, fedPlan, areaPlan, planExpired.)
(The model's own choices it meets: log entries 88, 89, 118, 148.) -/
def Obligations.FederationMembersTakeDownsAndPlans : Prop :=
  (∀ (s : State) (m : List Byte) (cmd : Instr) (on : Bool),
    (cmd, on) ∈ [(Instr.fedDown m, s.ncomp != 0 && Fmsg.type m == Mtype.down), (.areaDown m, s.fedRole == Fed.area && Fmsg.type m == Mtype.areaDown),
      (.fedPlan m, s.fedRole != Fed.top && Fmsg.type m == Mtype.plan), (.areaPlan m, s.fedRole == Fed.area && Fmsg.type m == Mtype.areaPlan)] →
    (on = false ∨ s.fedRuns = false → Idles cmd s) ∧
    (on = true → s.fedRuns = true → Fmsg.gen m ≠ s.fedGen → Drops cmd s Reg.fedDropGen) ∧
    (on = true → s.fedRuns = true → Fmsg.gen m = s.fedGen → (Fmsg.dst m ≠ s.blk.node ∨ s.parentNodes.contains (Fmsg.src m) = false) → Idles cmd s) ∧
    (on = true → s.fedRuns = true → Fmsg.gen m = s.fedGen → Fmsg.dst m = s.blk.node → s.parentNodes.contains (Fmsg.src m) = true →
      Fmsg.claim m < s.num Reg.fedClaimHi → Drops cmd s Reg.fedDropClaim)) ∧
  (∀ (s : State) (m : List Byte), s.fedRuns = true → Fmsg.gen m = s.fedGen → Fmsg.dst m = s.blk.node → s.parentNodes.contains (Fmsg.src m) = true →
    s.num Reg.fedClaimHi ≤ Fmsg.claim m →
    (s.ncomp ≠ 0 → Fmsg.type m = Mtype.down → Completes (.fedDown m) s fun t =>
      let lathe := u8 s.fedBody 0x2F % 4
      let travel := (s.spin s.fedSpindle).travel
      let ask : FedAsk := { ticket := (s.lth lathe).next, src := Fmsg.src m, round := Fmsg.round m, plan := Fmsg.plan m }
      let missed := t.num Reg.fedMissed = min (2 ^ 32 - 1) (s.num Reg.fedMissed + 1) ∧ Rises s t 182
      t.num Reg.fedClaimHi = Fmsg.claim m ∧ t.num Reg.fedRound = Fmsg.round m ∧ t.num Reg.fedRho = Fmsg.rho m ∧ Rises s t 183 ∧
        t.flag Reg.fedStatus 28 = s.substitute s.fedSpindle ∧
        if s.replyAngle ≤ travel % 2 ^ 32 then t.fed = s.fed ∧ t.flag Reg.fedMstatus 30 = true ∧ missed ∧
          OnlyRegsFlt s t [Reg.fedClaimHi, Reg.fedRound, Reg.fedStatus, Reg.fedRho, Reg.fedMstatus, Reg.fedMissed]
        else t.flag Reg.fedMstatus 30 = false ∧
          (s.refuseReason lathe Init.fed ≠ 0 → missed ∧ t.flag Reg.fedMstatus 31 = !t.fed.asked.isEmpty ∧
            t.fed = { s.fed with asked := (s.fed.asked ++ [ask]).filter fun b => b.ticket != ask.ticket, downPlan := Fmsg.plan m }) ∧
          (s.refuseReason lathe Init.fed = 0 → s.fedSpindle < 8 → t.flag Reg.fedMstatus 31 = true ∧
            t.fed = { s.fed with asked := s.fed.asked ++ [ask], downPlan := Fmsg.plan m } ∧
            ∃ j : LatheJob, (t.lth lathe).queue = (s.lth lathe).queue ++ [j] ∧ j.who = Init.fed ∧ j.ticket = ask.ticket ∧
              Desc.deadline j.desc = 2 ^ 63 + s.fedSpindle * 2 ^ 60 + travel / 2 ^ 32 % 2 ^ 28 * 2 ^ 32 + s.replyAngle)) ∧
    (let key := Fmsg.type m * 2 ^ 32 + Fmsg.round m
     let same := s.fed.fragKey == key
     let frags := setBit (if same then s.fed.areaFrags else 0) (Fmsg.frag m)
     let last := if Fmsg.last m then Fmsg.frag m + 1 else if same then s.fed.areaLast else 0
     let all := last != 0 && (List.range last).all fun i => bit frags i
     let held := if same then s.fed.planBlock else []
     (s.fedRole = Fed.area → Fmsg.type m = Mtype.areaDown → Completes (.areaDown m) s fun t => t.num Reg.fedClaimHi = Fmsg.claim m ∧
       (all = false → t.fed = { s.fed with fragKey := key, areaFrags := frags, areaLast := last, planBlock := held } ∧ t.num Reg.fedRound = s.num Reg.fedRound ∧
         MemoryKept s t s.fedArea (s.fedArea + 16 * s.ng)) ∧
       (all = true → t.fed.active = true ∧ t.fed.closed = false ∧ t.fed.pendingDual = false ∧ t.fed.round = Fmsg.round m ∧ t.fed.downPlan = Fmsg.plan m ∧
         t.fed.areaFrags = 0 ∧ t.fed.areaLast = 0 ∧ t.fed.inside = [] ∧ Rises s t 183)) ∧
     (s.fedRole = Fed.area → Fmsg.type m = Mtype.areaPlan → Completes (.areaPlan m) s fun t => t.num Reg.fedClaimHi = Fmsg.claim m ∧
       (all = false → t.fed = { s.fed with fragKey := key, areaFrags := frags, areaLast := last, planBlock := if Fmsg.frag m = 0 then slice m 0x20 32 else held } ∧
         t.slots = s.slots ∧ t.num Reg.fedPlan = s.num Reg.fedPlan) ∧
       (all = true → t.fed.areaFrags = 0 ∧ t.fed.areaLast = 0 ∧
         if s.newPlan (Fmsg.plan m) = true then t.num Reg.fedPlan = Fmsg.plan m ∧ Delivers s t s.planSlot (Fmsg.code m) ∧ Rises s t 176 ∧
           (Fmsg.code m = 0x140 → Rises s t 177) ∧ ∃ p, t.fed.plan = some p ∧ p.number = Fmsg.plan m
         else t.slots = s.slots ∧ t.fed.plan = s.fed.plan ∧ t.num Reg.fedPlan = s.num Reg.fedPlan))) ∧
    (s.fedRole ≠ Fed.top → Fmsg.type m = Mtype.plan →
      if s.newPlan (Fmsg.plan m) then Completes (.fedPlan m) s fun t => t.num Reg.fedPlan = Fmsg.plan m ∧ Delivers s t s.planSlot (Fmsg.code m) ∧
        t.num Reg.fedClaimHi = Fmsg.claim m ∧ t.flag Reg.fedStatus 27 = true ∧ Rises s t 176 ∧ (Fmsg.code m = 0x140 → Rises s t 177) ∧
        (Fmsg.code m = 0 → t.flag Reg.fedStatus 29 = false) ∧ ∃ p, t.fed = { s.fed with expired := false, plan := some p } ∧ p.number = Fmsg.plan m
      else Alters (.fedPlan m) s [Reg.fedClaimHi] [] fun t => t.num Reg.fedClaimHi = Fmsg.claim m)) ∧
  (∀ s : State,
    (∀ p, s.fed.plan = some p →
      if s.fedRuns = true ∧ s.fed.expired = false ∧ s.fedRole ≠ Fed.top then Completes .planExpired s fun t =>
        let u := s.elapseTo (stampWord p.till)
        Delivers u t u.planSlot 0x141 ∧ t.fed = { u.fed with expired := true } ∧ Rises u t 176 ∧ Rises u t 177
      else Idles .planExpired s) ∧
    (s.fed.plan = none → Idles .planExpired s))

/-! ### The task dispatcher (08) -/

/-- R351, R357, R362, R389: a firing serves the comparators of its instant together: their commits, the sweep that waits there, and unless a hand-over withholds them (R513) the releases of the cyclic
tasks that name one, in the order of their priority. R366, R370: a cyclic release gives its task a new instance with the next number, its inputs frozen and their flags, or counts an overrun of one that lives, or a
skip while its program is held. R353, R354: an event releases, pends or is lost. R361 to R363: a completed instance ends and its outputs are written, or wait for their commit firing.
(Commands shown to complete: taskRelease, eventTaskRelease, trigger, taskDone, taskCommit.)
(The model's own choices it meets: log entries 91, 149.) -/
def Obligations.TasksAreReleasedCompleteAndCommit : Prop :=
  let released := fun (u t : State) (k : Nat) (se su : Bool) => (t.task k).live = true ∧ (t.task k).inst = (u.task k).next ∧
    (t.task k).next = ((u.task k).next + 1) % 2 ^ 32 ∧ t.num (Reg.tskReleases k) = (u.num (Reg.tskReleases k) + 1) % 2 ^ 32 ∧
    (t.task k).seasoning = (se || u.inputFlag k 31) ∧ (t.task k).subst = (su || u.inputFlag k 30)
  let takesEvent := fun (u t : State) (k : Nat) =>
    let pends := u.flag (Reg.tskTstate k) 29
    if u.programMode (u.taskDef k).prog ≠ Program.run then t.task k = u.task k
    else if u.withholds = true ∧ pends = false then t.flag (Reg.tskTstate k) 29 = true ∧ t.task k = u.task k
    else if (u.task k).live = false ∧ u.withholds = false then released u t k false false
    else if (u.task k).started = true ∧ pends = false then t.flag (Reg.tskTstate k) 29 = true ∧ t.task k = u.task k
    else t.fld (Reg.tskSkips k) 15 0 = min 65535 (u.fld (Reg.tskSkips k) 15 0 + 1) ∧ Rises u t 196 ∧ t.task k = u.task k
  (∀ (s : State) (k : Nat) (se su : Bool) (order due : Nat),
    let t := s.cyclicRelease k se su order due
    let p := (s.taskDef k).prog
    if s.programMode p = Program.hold then t = s.bump (Reg.tskSkips k) 31 16 1
    else if s.programMode p ≠ Program.run then t = s
    else if (s.task k).live = true then
      t.num (Reg.tskOverruns k) = min (2 ^ 32 - 1) (s.num (Reg.tskOverruns k) + 1) ∧ t.flag (Reg.tskOvrMap (k / 32)) (k % 32) = true ∧ (t.task k).inst = (s.task k).inst
    else released s t k se su ∧ ((∀ j, j < (s.taskDef k).nin → s.signalAddr (s.listSignal ((s.taskDef k).inIdx + j)) + 8 ≤ Addr.core) →
      ∀ j, j < (s.taskDef k).nin → t.bytes (s.stateArea k + 8 * j) 8 = s.bytes (s.signalAddr (s.listSignal ((s.taskDef k).inIdx + j))) 8)) ∧
  (∀ (s : State) (k : Nat), takesEvent s (s.eventFor k) k) ∧
  ∀ s : State,
    (∀ n c, n < 8 → c < 64 →
      let withheld := takeDue n (64 + c) s.spn.due
      let instant := fun (u : State) (x : Crossing) (committed : Bool) (t : State) =>
        let es := u.waitingAt Consumer.tsk x
        let cs := (n, c) :: es.map fun e => (e.spindle, e.cmp % 64)
        let first := (if committed then [] else [(n, c)]) ++ (es.filter fun e => decide (e.cmp < 64)).map fun e => (e.spindle, e.cmp)
        let v := ((u.takeWaiting Consumer.tsk x).commitInstant first).sweepInstant x
        if v.withholds = true then t = v
        else t = (v.releasesAt cs).foldl (fun y k => y.cyclicRelease k (y.spinFlag (y.taskDef k).rspin Spn.seasoning) (y.substitute (y.taskDef k).rspin) v.tsk.orders
            (v.ranAt x.ran)) { v with tsk := { v.tsk with orders := v.tsk.orders + 1 } } ∧
          ∀ k, k ∈ v.releasesAt cs ↔ k < v.ntask ∧ (v.taskDef k).event = false ∧ (v.taskDef k).prio < 16 ∧ ((v.taskDef k).rspin, (v.taskDef k).rcmp) ∈ cs
      (s.wasServed n c = true → Completes (.taskRelease n c) s (· = s.dropServed n c) ∧
        Completes (.taskCommit n c) s (· = if s.releasesAt [(n, c)] = [] then s.dropServed n c else s)) ∧
      (s.wasServed n c = false → ∀ x r, withheld = some (x, r) → x.spindle = n ∧ x.cmp = 64 + c ∧ Idles (.taskCommit n c) s ∧
        Completes (.taskRelease n c) s fun t => let u := { s with spn := { s.spn with due := r, fired := x } }
          if s.withholds = true then t = u else instant u x true t) ∧
      (s.wasServed n c = false → withheld = none →
        (s.tskRuns = false ∨ s.firing Consumer.tsk n c = none → Idles (.taskRelease n c) s ∧ Idles (.taskCommit n c) s) ∧
        (s.tskRuns = true → ∀ u target, s.firing Consumer.tsk n c = some (u, target) →
          u.spn.fired.spindle = n ∧ u.spn.fired.cmp = c ∧ u.spn.fired.target = target ∧
          (Completes (.taskRelease n c) s fun t => instant u u.spn.fired false t) ∧
          Completes (.taskCommit n c) s fun t => ∃ v : State, v = { u with tsk := v.tsk, mem := v.mem, poison := v.poison } ∧
            (∀ k, k < u.ntask → v.task k = if (u.taskDef k).cspin = n ∧ (u.taskDef k).ccmp = c ∧ u.programMode (u.taskDef k).prog = Program.run then
              { u.task k with outputs := none } else u.task k) ∧
            let w := v.cutFiring n c
            t = if w.releasesAt [(n, c)] = [] then w else { w with spn := { w.spn with due := { w.spn.fired with cmp := 64 + c } :: w.spn.due } }))) ∧
    (∀ source number, if s.tskRuns = false then Idles (.eventTaskRelease source number) s
      else Completes (.eventTaskRelease source number) s (· = ((List.range s.ntask).filter fun t =>
        (s.taskDef t).event && (s.taskDef t).rspin == source && eventMatches source (s.taskDef t).number number).foldl State.eventFor s)) ∧
    (∀ o w v, o.admits w Reg.tskTrigger v s →
      let k := field v 6 0
      if k < s.ntask ∧ (s.taskDef k).event = true ∧ (s.taskDef k).rspin = 8 ∧
          ((s.taskDef k).number = 0xFFFF ∨ s.taskOf w = some (s.taskDef k).number) ∧ s.tskRuns = true then
        Completes (.trigger w v) o fun t => takesEvent s t k ∧ Acked t
      else Writes (.trigger w v) o s [] [] fun _ => True) ∧
    (∀ o w v, o.admits w Reg.tskDone v s →
      (s.taskOf w = none → Writes (.taskDone w v) o s [] [] fun _ => True) ∧
      (∀ k, s.taskOf w = some k → Completes (.taskDone w v) o fun t => Acked t ∧
        (k < s.ntask →
         let outs := (s.leftOutputs k).map fun o => (o.1, o.2 ||| (s.task k).flags)
         (t.task k).outputs = (if (s.taskDef k).cspin = 0xFF then none else some outs) ∧
         (s.flag (Reg.tskTstate k) 29 = false → (t.task k).live = false ∧ (t.task k).started = false ∧
          ((s.taskDef k).cspin ≠ 0xFF → t.mem = s.mem) ∧
          ∀ value flags, outs = [(value, flags)] → (s.taskDef k).cspin = 0xFF →
            let a := s.signalAddr (s.listSignal (s.taskDef k).outIdx)
            s.storeLocks (engineWho Init.cle) a 8 = false →
            t.mem32 a = value ∧ t.mem32 (a + 4) = nextQual (s.mem32 (a + 4)) flags k ∧ MemoryKept s t a (a + 8)))))

/-- R347, R365, R369 to R373: an admitted write of a program's mode starts, stops or holds it, with source 194, or does nothing where the modes do not allow it; the device is in HOLD exactly while a
program is held; a started program has no FAULT, and a stopped one no live task. A task's fault stops its program with FAULT and source 193; a break of a task not
protected holds its program, its instance kept, with source 195.
(Commands shown to complete: taskFault, programRun, programStop, programHold, debugBreak.)
(The model's own choices it meets: log entries 91, 92.) -/
def Obligations.ProgramsRunStopAndHold : Prop :=
  ∀ s : State,
    let holds := fun (t : State) => s.controlRuns = true →
      t.mode = if (List.range s.nprog).any (fun q => t.programMode q == Program.hold) then Mode.hold else Mode.run
    let others := fun (t : State) (p : Nat) => ∀ q, q < 16 → q ≠ p → t.reg (Reg.tskPmode q) = s.reg (Reg.tskPmode q)
    (∀ o w p v, p < 16 → o.admits w (Reg.tskPmode p) v s → ∀ c ∈ [Instr.programRun w p v, .programStop w p v, .programHold w p v],
      let m := field v 1 0
      (s.nprog ≤ p ∨ s.programMode p = m ∨ m = 3 ∨ (m = Program.hold ∧ s.programMode p ≠ Program.run) → Writes c o s [] [] fun _ => True) ∧
      (p < s.nprog → s.programMode p ≠ m → m ≠ 3 → (m = Program.hold → s.programMode p = Program.run) → Completes c o fun t => Acked t ∧
        t.programMode p = m ∧ Rises s t 194 ∧ holds t ∧ others t p ∧
        (m = Program.run → t.flag (Reg.tskPmode p) 8 = false) ∧
        (m = Program.stop → ∀ k ∈ s.tasksOf p, (t.task k).live = false ∧ (t.task k).outputs = none))) ∧
    (∀ core, s.tsk.running.get (core % 8) = 0 → Idles (.taskFault core) s ∧ Idles (.debugBreak core) s) ∧
    (∀ core k, s.tsk.running.get (core % 8) = k + 1 → k < s.ntask → (s.taskDef k).prog < s.nprog →
      let p := (s.taskDef k).prog
      (Completes (.taskFault core) s fun t => t.programMode p = Program.stop ∧ t.flag (Reg.tskPmode p) 8 = true ∧ (t.task k).live = false ∧
        Rises s t 193 ∧ Rises s t 194 ∧ holds t ∧ others t p) ∧
      (s.debugMasked k = true → Idles (.debugBreak core) s) ∧
      (s.debugMasked k = false → Completes (.debugBreak core) s fun t => t.programMode p = Program.hold ∧ t.flag (Reg.tskPmode p) 9 = true ∧
        (t.task k).live = (s.task k).live ∧ Rises s t 195 ∧ holds t ∧ others t p))

/-! ### Control laws (09) -/

/-- R384 to R389, R391: a firing of the sweep comparator numbers a sweep, after the task commits of its instant, in which each due loop executes, or waits for a fresh input; a write of that input lets it read again; at the deadline every due
loop left misses, counted and marked, and the sweep is over. R401, R402: with the KEY, LOAD shows a block's values in the writer's staging, and APPLY waits or is
refused with its reason and source 227; between sweeps the waiting ones take effect, with source 226.
(Commands shown to complete: sweepStart, loopInputWritten, sweepDeadline, tuneApply, tuneTake, tuneLoad.)
(The model's own choices it meets: log entries 93, 149.) -/
def Obligations.ControlLawsSweepMissAndTune : Prop :=
  ∀ s : State,
    let turns := fun (u t : State) (l : Nat) =>
      (t.num (Reg.cleLexec l) = (u.num (Reg.cleLexec l) + 1) % 2 ^ 32 ∧ t.flag (Reg.cleLstate l) 30 = false) ∨
        (t.num (Reg.cleLexec l) = u.num (Reg.cleLexec l) ∧ t.flag (Reg.cleLstate l) 30 = true)
    let first := s.wasServed s.sweepSpindle s.sweepComparator
    (first = true → Completes .sweepStart s (· = s.dropServed s.sweepSpindle s.sweepComparator)) ∧
    (first = false → s.cleRuns = false ∨ s.firing Consumer.cle s.sweepSpindle s.sweepComparator = none → Idles .sweepStart s) ∧
    (first = false → s.cleRuns = true → ∀ u target, s.firing Consumer.cle s.sweepSpindle s.sweepComparator = some (u, target) →
      Completes .sweepStart s fun t =>
        let v := u.commitsBefore u.spn.fired
        let y := v.cleDeadline.takeTunes
        if v.withholds = true then t = v
        else
          let due := fun l => l < y.nloop ∧ y.loopBlocks l ≠ 0 ∧ y.loopEnabled l = true ∧ y.num Reg.cleSweeps % max 1 (y.loopByte l 2) = y.loopByte l 3
          t.num Reg.cleSweeps = (y.num Reg.cleSweeps + 1) % 2 ^ 32 ∧ (∀ w, t.cle.sweep = some w → w.deadline = target + y.sweepAngle) ∧
          (∀ l, l < 256 → (due l → turns y t l) ∧ (¬ due l → t.num (Reg.cleLexec l) = y.num (Reg.cleLexec l))) ∧
          ∀ l, l < 256 → due l → (∀ k, k < l → ¬ due k) → (t.num (Reg.cleLexec l) = (y.num (Reg.cleLexec l) + ofBool (y.loopFresh l)) % 2 ^ 32)) ∧
    (∀ signal,
      let open_ := ∃ w, s.cle.sweep = some w ∧ (s.spin s.sweepSpindle).travel < w.deadline
      (¬ (s.cleRuns = true ∧ open_) → Idles (.loopInputWritten signal) s) ∧
      (s.cleRuns = true ∧ open_ → Completes (.loopInputWritten signal) s fun t => ∀ l, l < 256 →
        if l < s.nloop ∧ s.flag (Reg.cleLstate l) 30 = true ∧
            ((List.range (s.loopByte l 5)).any fun i => s.loopIn l i % 2 ^ 14 == signal && bit (s.loopIn l i) 24) = true then turns s t l
        else t.num (Reg.cleLexec l) = s.num (Reg.cleLexec l))) ∧
    (s.cle.sweep = none ∨ s.cleRuns = false → Idles .sweepDeadline s) ∧
    (∀ w, s.cleRuns = true → s.cle.sweep = some w → Completes .sweepDeadline s fun t =>
      let left := w.deadline - (s.spin s.sweepSpindle).travel
      let missed := fun (u : State) => t.cle.sweep = none ∧ (w.due ≠ [] → Rises u t 224) ∧ (w.due.Nodup → (∀ l ∈ w.due, l < 256) → (∀ g ∈ w.groups, g < 256) → ∀ l ∈ w.due,
        t.num (Reg.cleLmiss l) = min (2 ^ 32 - 1) (u.num (Reg.cleLmiss l) + 1) ∧ t.flag (Reg.cleLstate l) 28 = true ∧
          t.flag (Reg.cleLstate l) 30 = false ∧ t.flag (Reg.cleMissMap (l / 32)) (l % 32) = true)
      match s.ticksFor s.sweepSpindle left with
      | none => if left = 0 then missed s else t = s
      | some k => missed (s.elapse k)) ∧
    (∀ o w v, o.admits w Reg.cleTgo v s → ∀ c ∈ [Instr.tuneApply w v, .tuneLoad w v],
      let stat := bankOf w.id Reg.cleTstat
      let staging := stat :: ([Reg.cleTsh0, Reg.cleTsh1, Reg.cleTlo, Reg.cleThi] ++ (List.range 5).map Reg.cleTk).map (bankOf w.id)
      let loaded := fun (u t : State) =>
        let x := u.staged w.id
        let q := (u.cleLoop x.loop).blocks.getD x.block default
        t.plic = u.plic ∧ if u.loopBlocks x.loop ≤ x.block then OnlyRegs u t [stat] ∧ t.fld stat 2 0 = Tune.notDefined
        else OnlyRegs u t staging ∧ t.fld stat 2 0 = 0 ∧ t.num (bankOf w.id Reg.cleTlo) = unsigned 32 q.lo ∧ t.num (bankOf w.id Reg.cleThi) = unsigned 32 q.hi ∧
          ∀ i, i < 5 → t.num (bankOf w.id (Reg.cleTk i)) = unsigned 32 (q.kOf i) ∧ (t.staged w.id).s.getD i 0 = signed 6 (unsigned 6 (q.sOf i))
      let applied := fun (u t : State) =>
        let x := u.staged w.id
        if u.tuneResult x ≠ 0 then OnlyRegs u t [stat] ∧ Raised u t [227] ∧ t.fld stat 2 0 = u.tuneResult x
        else OnlyRegs { u with cle := t.cle } t [stat] ∧ t.plic = u.plic ∧ t.num stat = 2 ^ 31 ∧
          t.cle = { u.cle with tunes := u.cle.tunes.filter (·.who != w.id) ++ [x] }
      (field v 31 16 ≠ 0x544E ∨ field v 1 0 = 0 → Writes c o s [] [] fun _ => True) ∧
      (field v 31 16 = 0x544E → field v 1 0 = 1 → Completes c o fun t => Acked t ∧ loaded s t) ∧
      (field v 31 16 = 0x544E → field v 1 0 = 2 → Completes c o fun t => Acked t ∧ applied s t) ∧
      (field v 31 16 = 0x544E → field v 1 0 = 3 → Completes c o fun t => Acked t ∧ ∃ u, loaded s u ∧ applied u t)) ∧
    (s.cle.sweep ≠ none ∨ s.cle.tunes = [] → Idles .tuneTake s) ∧
    (s.cle.sweep = none → s.cle.tunes ≠ [] → Completes .tuneTake s fun t => t.cle.tunes = [] ∧ Rises s t 226 ∧ t.mem = s.mem ∧
      OnlyRegs { s with cle := t.cle } t (s.cle.tunes.map fun x => bankOf x.who Reg.cleTstat) ∧
      ∀ x, s.cle.tunes = [x] → t.num (bankOf x.who Reg.cleTstat) = 0 ∧
        (x.block < (s.cleLoop x.loop).blocks.length →
          let q := (t.cleLoop x.loop).blocks.getD x.block default
          q.k = x.k ∧ q.s = x.s ∧ q.lo = x.lo ∧ q.hi = x.hi))

/-! ### Sensor fusion (10) -/

/-- R406 to R413, R415, R416, R427, R436, R437: a sample of a stream takes the next RSEQ and its place in the ring; a push by another than the stream's host, or for no such stream, is refused, and one of a record that
cannot be read ends in UNCORRECTABLE; a frame
comparator opens a frame of each graph on it, which is fused once every stream is complete, or when its wait ends, and delivered to the graph's slot; a late sample's
frames are replayed; a stream without samples is DROPPED, with source 324.
(Commands shown to complete: sampleIntake, fusPush, frameFire, frameFuse, waitExpired, replay, streamDropped.)
(The model's own choices it meets: log entries 39, 95, 146, 150.) -/
def Obligations.FusionTakesSamplesAndIssuesFrames : Prop :=
  ∀ s : State,
    let counted := fun (s t : State) (i : Nat) => (t.stream i).next = ((s.stream i).next % 2 ^ 32 + 1) % 2 ^ 32 ∧ (t.stream i).last = s.chip.ran ∧
      t.streamFlag i Fus.dropped = false ∧ t.fld (Reg.fusScount i) 15 0 = (s.fld (Reg.fusScount i) 15 0 + 1) % 65536
    let taken := fun (s t : State) (i nval qual stime arrival : Nat) =>
      let rseq := (s.stream i).next % 2 ^ 32
      let a := s.ringAddr i rseq
      counted s t i ∧ (s.storeLocks (engineWho Init.fusion) a 64 = false → s.partialBad a 64 = none →
        t.bytes a 24 = (sampleRecord i nval qual rseq stime arrival 0 [] []).take 24 ∧ MemoryKept s t a (a + 64))
    let issued := fun (u t : State) (g : Nat) (f : FusFrame) (rest : List FusFrame) =>
      (t.graph g).waiting = rest ∧ (t.graph g).done = some (max f.tov ((u.graph g).done.getD 0)) ∧
        Delivers u t (Addr.stock + u32 s.senseStruct 8 + 256 * g) (u.fuse g f (u.graph g).cur).code
    (∀ input arrival payload kind key,
        (∃ k id, (input, kind, key) = (.can k id, Kind.can, k % 4 * 2 ^ 30 + id % 2 ^ 30)) ∨
        (∃ port udp, (input, kind, key) = (.eth port udp, Kind.eth, udp % 65536 + port % 2 * 65536)) ∨
        (∃ port vc, (input, kind, key) = (.milio port vc, Kind.milio, vc % 8 + port % 2 * 8 + u16 payload 0 * 16)) →
      let streams := (List.range s.nstream).filter fun i => s.streamKind i == kind && s.streamWord i 4 == key
      (s.fusRuns = false ∨ streams = [] → Idles (.sampleIntake input arrival payload) s) ∧
      (s.fusRuns = true → ∀ i, streams = [i] → Completes (.sampleIntake input arrival payload) s fun t =>
        counted s t i ∧ (s.payloadNeed i ≤ payload.length → taken s t i (s.streamByte i 2) 0 (s.payloadTime i payload) arrival)) ∧
      (s.fusRuns = true → Completes (.sampleIntake input arrival payload) s fun t => ∀ i ∈ streams, counted s t i)) ∧
    (∀ q qual arrival payload,
      let streams := (List.range s.nstream).filter fun i => s.streamKind i == Kind.met && s.streamWord i 4 == q
      (s.fusRuns = false ∨ streams = [] → Idles (.sampleIntake (.met q qual) arrival payload) s) ∧
      (s.fusRuns = true → Completes (.sampleIntake (.met q qual) arrival payload) s fun t => (∀ i ∈ streams, counted s t i) ∧
        ∀ i, streams = [i] → taken s t i (s.streamByte i 2) qual arrival arrival)) ∧
    (∀ o w v, o.admits w Reg.fusPush v s →
      let a := Addr.stock + field v 23 6 * 64
      let b := s.bytes a 64
      let i := u8 b 0
      let stat := bankOf w.id Reg.fusPushstat
      (s.fusRuns = false → Writes (.fusPush w v) o s [] [] fun _ => True) ∧
      (s.fusRuns = true → s.badWordIn a 64 ≠ none → Completes (.fusPush w v) o fun t =>
        t.bus = { code := Code.uncorrectable, data := [] } ∧ OnlyRegsFlt s t []) ∧
      (s.fusRuns = true → s.badWordIn a 64 = none → s.memAbsent a = true ∨ s.streamKind i ≠ Kind.host →
        Writes (.fusPush w v) o s [stat] [] fun t => t.num stat = 2 ^ 31 + 2 ^ 30 + 2 ^ 24) ∧
      (s.fusRuns = true → s.badWordIn a 64 = none → s.memAbsent a = false → s.streamKind i = Kind.host → s.streamByte i 3 ≠ w.id →
        Writes (.fusPush w v) o s [stat] [] fun t => t.num stat = 2 ^ 31 + 2 ^ 30 + 2 ^ 25) ∧
      (s.fusRuns = true → s.badWordIn a 64 = none → s.memAbsent a = false → s.streamKind i = Kind.host → s.streamByte i 3 = w.id →
        Completes (.fusPush w v) o fun t => Acked t ∧ t.num stat = 2 ^ 31 ∧ taken s t i (u8 b 1) (u16 b 2) (u64 b 8) s.now)) ∧
    (∀ n c, Completes (.frameFire n c) s fun t => match s.firing Consumer.fus n c with
      | none => t = s
      | some (u, _) =>
        if u.fusRuns = false then t = u
        else t.mem = u.mem ∧ ∀ g, g < 64 →
          if g < u.ngraph ∧ u.graphByte g 4 = n ∧ u.graphByte g 5 = c then
            (t.graph g).last = some u.spn.fired.time ∧ ∃ f, (t.graph g).waiting = (u.graph g).waiting ++ [f] ∧ f.tov = u.spn.fired.time ∧
              f.number = u.spn.fired.target / 2 ^ 32 % 2 ^ 32 ∧ f.subst = u.substitute n ∧ ∀ p, (u.graph g).last = some p → f.prev = p
          else t.graph g = u.graph g) ∧
    (∀ g, g < 64 → (s.graph g).waiting = [] → Idles (.frameFuse g) s ∧ Idles (.waitExpired g) s) ∧
    (∀ g f rest, g < 64 → (s.graph g).waiting = f :: rest →
      (s.graphRuns g = false → Idles (.frameFuse g) s ∧ Idles (.waitExpired g) s) ∧
      (s.graphRuns g = true → s.frameComplete g f = true →
        (Completes (.frameFuse g) s fun t => issued s t g f rest) ∧ Idles (.waitExpired g) s) ∧
      (s.graphRuns g = true → s.frameComplete g f = false → Idles (.frameFuse g) s ∧ Completes (.waitExpired g) s fun t =>
        issued (s.elapse (((f.tov + s.fld (Reg.fusWait g) 11 0 * (f.tov - f.prev) / 256) * 2 ^ 32 - s.time.units + s.incr - 1) / s.incr)) t g f rest)) ∧
    (∀ g, g < 64 →
      ((s.graph g).replay = none ∨ s.graphRuns g = false → Idles (.replay g) s) ∧
      (∀ x, (s.graph g).replay = some x → s.graphRuns g = true → Completes (.replay g) s fun t =>
        (t.graph g).replay = none ∧ (t.graph g).waiting = (s.graph g).waiting ∧ (t.graph g).done = (s.graph g).done ∧
          t.flag (Reg.fusGstate g) 25 = false ∧ ((∃ e ∈ (s.graph g).issued, x ≤ e.frame.tov) → Rises s t 321))) ∧
    (∀ i, i < 64 →
      if s.fusRuns = true ∧ s.streamKind i ≠ 0 ∧ s.streamFrame i ≠ 0 ∧ s.streamFlag i Fus.dropped = false then
        Completes (.streamDropped i) s fun t =>
          let u := s.elapse (s.ticksUntil ((s.stream i).last + s.fld Reg.fusDropout 7 0 * s.streamFrame i * 2 ^ 32))
          t.streamFlag i Fus.dropped = true ∧ (t.stream i).pairs = [] ∧ t.mem = u.mem ∧ Rises u t 324
      else Idles (.streamDropped i) s)

/-! ### Metrology (11) -/

/-- R441, R444, R445, R451, R457, R458, R488: a cycle comparator ends the cycle of each system on it; a remote system's oldest cycle closes, as a gap where samples are missing; a packet's samples join
their remote channel; a pulse and a heat step are counted; the raw-sample ring moves on; a read of a register's low half holds its high half for the reader. Before the end of
MOUNT and with Sense fenced nothing is measured.
(Commands shown to complete: waveformPacket, mainsCycleEnd, remoteCycleClose, heatStep, meterPulse, metRegRead, waveformSend.)
(The model's own choices it meets: log entries 42, 96, 152.) -/
def Obligations.MetrologyMeasuresCyclesHeatAndPulses : Prop :=
  ∀ s : State,
    (s.metRuns = false → ∀ port vc payload k ratios p first samples,
      ∀ c ∈ [Instr.waveformPacket port vc payload, .remoteCycleClose k, .heatStep ratios, .meterPulse p, .waveformSend first samples], Idles c s) ∧
    (∀ n c samples, Completes (.mainsCycleEnd n c samples) s fun t => match s.firing Consumer.met n c with
      | none => t = s
      | some (u, _) =>
        if u.metRuns = false then t = u
        else ∀ k, k < 7 →
          if k < u.nsys ∧ u8 u.metBody (u.systemEntry k) = n ∧ u8 u.metBody (u.systemEntry k + 1) = c then
            let x := u.metSystem k
            let ran := u.spn.fired.ran / 2 ^ 32
            let time := u.spn.fired.time
            (t.metSystem k).last = some ran ∧ (t.metSystem k).lastTime = time ∧
              (x.last = none → t.metSystem k = { x with last := some ran, lastTime := time, began := ran, unclassed := !u.flag Reg.pmuRails 5 }) ∧
              ∀ p, x.last = some p → u.systemLocal k = false → t.metSystem k = { x with last := some ran, lastTime := time, closing := x.closing ++
                [{ start := x.lastTime, finish := time, dur := ran - p, seasoning := u.spinFlag n Spn.seasoning, subst := u.substitute n, ran := ran }] }
          else t.metSystem k = u.metSystem k) ∧
    (∀ port vc payload, s.metRuns = true → match s.remoteFor port vc payload with
      | none => Idles (.waveformPacket port vc payload) s
      | some r => Completes (.waveformPacket port vc payload) s fun t => t = { s with met := { s.met with remote := t.met.remote } } ∧
          t.met.remote.get r = s.met.remote.get r ++
            ((List.range (min 128 (u16 payload 2))).map fun i => (s.pastTime (u64 payload 8) + 62500 * i, i32 payload (0x10 + 4 * i))) ∧
          ∀ q, q ≠ r → t.met.remote.get q = s.met.remote.get q) ∧
    (∀ k, k < 7 → (s.metSystem k).closing = [] → Idles (.remoteCycleClose k) s) ∧
    (∀ k c rest, k < 7 → (s.metSystem k).closing = c :: rest → s.metRuns = true → Completes (.remoteCycleClose k) s fun t =>
      (t.metSystem k).closing = rest ∧
        let all := (List.range 8).all fun pos =>
          s.selector k pos == 0xFF || samplesComplete (s.met.remote.get (s.selector k pos - 0x40)) c.start c.finish
        if all then t.num Reg.metGaps = s.num Reg.metGaps
        else t.num Reg.metGaps = min (2 ^ 32 - 1) (s.num Reg.metGaps + 1) ∧ t.flag Reg.metStatus (8 + k) = true) ∧
    (∀ p, p < 4 → if s.metRuns = true ∧ u8 s.metBody (s.pinEntry p) ≠ 0 then Completes (.meterPulse p) s fun t =>
        OnlyRegs { s with met := t.met } t [Reg.metPincnt p] ∧ t.num (Reg.metPincnt p) = (s.num (Reg.metPincnt p) + 1) % 2 ^ 32 ∧
          t.metPulse p = { newest := some (s.ranNs - 100000 * u8 s.metBody (s.pinEntry p + 1)), before := (s.metPulse p).newest, step := (s.metPulse p).step + 1 } ∧
          ∀ q, q ≠ p → t.metPulse q = s.metPulse q
      else Idles (.meterPulse p) s) ∧
    (∀ ratios, s.metRuns = true → Completes (.heatStep ratios) s fun t =>
      let u := s.elapse ((125000000 * 2 ^ 32 - s.time.units % (125000000 * 2 ^ 32) + s.incr - 1) / s.incr)
      t.met.steps = u.met.steps + 1 ∧ t.time = u.time ∧ ∀ p, p < 4 → (t.metPulse p).step = 0) ∧
    (∀ first samples, s.metRuns = true → Completes (.waveformSend first samples) s fun t =>
      let wave := u64 s.senseStruct 0x28 % 2 ^ 40
      let len := u32 s.senseStruct 0x30
      if wave = 0 ∨ len = 0 ∨ samples = [] then t.num Reg.metWavepos = s.num Reg.metWavepos
      else t.num Reg.metWavepos = (s.num Reg.metWavepos + 32 * min 128 samples.length) % len) ∧
    (∀ o w j, j < 112 → o.admitsRead w (Reg.metRegLo j) s → Completes (.metRegRead w j) o fun t =>
      t.bus = { code := Code.ok, data := leBytes 4 (s.num (Reg.metRegLo j)) } ∧
        t = { s with met := { s.met with snaps := t.met.snaps }, bus := t.bus } ∧ t.regHighRead w.id j = s.num (Reg.metRegHi j))

/-- R461, R462, R469, R470, R474, R476, R477: an interval past its boundary, with its cycles in, closes: its billing record is delivered and its boundary saved; MET.INTERVAL takes a divisor of a day and nothing else; a pulse
output's first waiting pulse starts and ends; a second of current on the battery is tallied; a periodic save, or one asked for with its key, takes the next of the rotating
slots, with source 346.
(Commands shown to complete: billingClose, intervalWrite, pulseStart, pulseEnd, batterySecond, periodicSave, save.)
(The model's own choices it meets: log entries 60, 151.) -/
def Obligations.MetrologyBillsPulsesAndSaves : Prop :=
  ∀ s : State,
    let saved := fun (u t : State) =>
      let slot := u.nextRotating
      let seq := (u.met.seq + 1) % 2 ^ 32
      let a := u.journalAddr slot
      t.met.rotating = slot ∧ t.met.seq = seq ∧ t.num Reg.metJournal = seq % 2 ^ 24 * 256 + slot ∧ Rises u t 346 ∧
        (u.storeLocks (engineWho Init.metDma) a 1024 = false → u.partialBad a 1024 = none →
          t.bytes a 1024 = leBytes 4 seq ++ leBytes 4 (crc32 (u.journalBody Journal.periodic u.met.cur.index)) ++ u.journalBody Journal.periodic u.met.cur.index ∧
          MemoryKept u t a (a + 1024) ∧
          ∃ g, Granted u g ∧ OnlyRegs { g with met := t.met, mem := t.mem, poison := t.poison } t [Reg.metJournal] ∧ Raised g t [346])
    (s.metRuns = false → Idles .billingClose s) ∧
    (s.metRuns = true → Completes .billingClose s fun t =>
      let u := if s.nsys = 0 then s.elapse ((s.met.cur.finish * 2 ^ 32 - s.time.units + s.incr - 1) / s.incr) else s
      if u.mayClose = false then t = u
      else Delivers u t (u.metSlots + 0x800) 0 ∧ Rises u t 337 ∧ Rises u t 346 ∧ t.met.nxt = none ∧ t.met.after = false ∧
        t.met.cur = (u.met.nxt).getD u.nextInterval ∧ t.met.boundary = (if u.met.boundary = 62 then 63 else 62) ∧
        t.met.seq = (u.met.seq + 1) % 2 ^ 32 ∧ t.fld Reg.metStatus 14 8 = 0) ∧
    (∀ o w v, o.admits w Reg.metInterval v s →
      if v.toNat ≠ 0 ∧ 86400 % v.toNat = 0 then Writes (.intervalWrite w v) o s [Reg.metInterval] [] fun t => t.reg Reg.metInterval = v
      else Writes (.intervalWrite w v) o s [] [] fun _ => True) ∧
    (∀ n, n < 4 → (s.metRuns = false ∨ (s.metOut n).waiting = [] ∨ s.outMode n = 0 ∨ s.flag (Reg.metPstat n) 30 = true → Idles (.pulseStart n) s) ∧
      (∀ neg k rest, s.metRuns = true → (s.metOut n).waiting = (neg, k) :: rest → s.outMode n ≠ 0 → s.flag (Reg.metPstat n) 30 = false →
        Completes (.pulseStart n) s fun t => let due := match (s.metOut n).started with
            | some x => x + 2 * (s.metOut n).width
            | none => 0
          t.chip.up = s.chip.up + 4 * ((due - s.chip.up + 3) / 4) + (if s.outMode n = 2 ∧ s.flag (Reg.metPstat n) 31 ≠ neg then 1000000 else 0) ∧
          t.mem = s.mem ∧ t.flag (Reg.metPstat n) 30 = true ∧ (t.metOut n).started = some t.chip.up ∧
          (t.metOut n).waiting = (if k ≤ 1 then rest else (neg, k - 1) :: rest) ∧
          t.fld (Reg.metPstat n) 15 0 = waitingPulses (t.metOut n).waiting % 65536 ∧ (s.outMode n = 2 → t.flag (Reg.metPstat n) 31 = neg)) ∧
      (s.metRuns = false ∨ (s.metOut n).started = none ∨ s.flag (Reg.metPstat n) 30 = false → Idles (.pulseEnd n) s) ∧
      (∀ x, s.metRuns = true → (s.metOut n).started = some x → s.flag (Reg.metPstat n) 30 = true → Completes (.pulseEnd n) s fun t =>
        t.flag (Reg.metPstat n) 30 = false ∧ OnlyRegs (s.elapse ((x + (s.metOut n).width - s.chip.up + 3) / 4)) t [Reg.metPstat n])) ∧
    (∀ irms, if s.mode = Mode.vigil ∧ s.pwr.onBattery = true ∧ s.flag Reg.pmuBatctl 0 = true then
        Completes (.batterySecond irms) s fun t =>
          let u := s.elapse 250000000
          if ((List.range 3).any fun k => (s.metFp 0x20).le (f32.decode (irms.getD k 0))) = false then t = u
          else
            let going := if u.met.bm.held then u.met.bm.episode else none
            t = { u with met := { u.met with battery := t.met.battery, bm := { u.met.bm with gained := t.met.bm.gained } } } ∧
              t.met.battery = some ((u.met.battery).getD (going.getD ((u.rtc.cellSec - 1) * 1000000000))) ∧
              t.met.bm.gained.ns = u.met.bm.gained.ns + 1000000000 ∧
              t.met.bm.gained.episodes = u.met.bm.gained.episodes + ofBool (u.met.battery.isNone && going.isNone)
      else Idles (.batterySecond irms) s) ∧
    (s.metRuns = true → s.powerFailing = false → Completes .periodicSave s fun t =>
      let u := s.elapse ((s.met.savedAt + 1000000000 * s.num Reg.metSavePeriod - s.chip.up + 3) / 4)
      saved u t ∧ t.met.savedAt = u.chip.up) ∧
    (s.metRuns = false ∨ s.powerFailing = true → Idles .periodicSave s) ∧
    (∀ o w v, o.admits w Reg.metSave v s →
      if field v 31 16 = 0x4D53 ∧ bit v.toNat 0 = true ∧ s.metRuns = true then
        Completes (.save w v) o fun t => Acked t ∧ saved s t ∧ t.met.savedAt = s.met.savedAt
      else Writes (.save w v) o s [] [] fun _ => True)

/-! ### The redundant set (12) -/

/-- R496 to R498, R501, R512: heartbeats leave on every path of each peer with the next HBSEQ; the Warden's health report goes out in them; a good heartbeat of a peer is kept, and one with a
higher claim deposes the unit; a frame that is no good heartbeat changes nothing; a peer that falls silent is lost.
(Commands shown to complete: heartbeatSend, heartbeat, peerLost, healthWrite.)
(The model's own choices it meets: log entries 61, 125.) -/
def Obligations.HeartbeatsTellKeepAndDepose : Prop :=
  ∀ s : State,
    (s.hingeRuns = false → Idles .heartbeatSend s ∧ (∀ link b, Idles (.heartbeat link b) s) ∧ ∀ p, Idles (.peerLost p) s) ∧
    (s.hingeRuns = true → Completes .heartbeatSend s fun t =>
      let u := s.elapse ((s.hinge.lastSent + s.hbPeriod - s.chip.up + 3) / 4)
      let sent := u.setHinge { u.hinge with hbSeq := (u.hinge.hbSeq + 1) % 65536, lastSent := u.chip.up, told := (u.unitState, u.claim, u.unitFlags) }
      t.hinge = sent.hinge ∧ t.mode = s.mode ∧ ∀ p, p < 2 → s.peerUsed p = true →
        (bit (s.peerPath p) 0 = true → { kind := .heartbeat, dest := 0, bytes := sent.heartbeatBytes } ∈ t.outbox) ∧
        (bit (s.peerPath p) 1 = true → { kind := .heartbeat, dest := 1, bytes := sent.heartbeatBytes } ∈ t.outbox)) ∧
    (∀ o w v, o.admits w Reg.hngHealth v s → Completes (.healthWrite w v) o fun t =>
      Acked t ∧ t.hinge.health = v.toNat ∧ t.hinge.lastHealth = s.chip.up ∧ t.wardenOk = true ∧ t.mode = s.mode ∧ t.claim = s.claim) ∧
    (s.hingeRuns = true → ∀ link b,
      let good := b.length = 32 ∧ u8 b 0 = 1 ∧ u32 b 0x1C = crc32 (slice b 0 0x1C) ∧ u16 b 4 % 2 ^ 14 = s.ownSetid
      let sender := fun p => s.peerUsed p = true ∧ s.peerUnit p = u8 b 1 ∧ s.peerOnLink p link = true
      (¬ good → Idles (.heartbeat link b) s) ∧ (good → ¬ sender 0 → ¬ sender 1 → Idles (.heartbeat link b) s) ∧
      ∀ p, good → p < 2 → sender p → (p = 1 → ¬ sender 0) → Completes (.heartbeat link b) s fun t =>
        let e := u32 b 0xC % 2 ^ 24
        let deposed := s.claim ≠ 0 ∧ s.claim < u32 b 8 ∧ s.disregards (epochOf (u32 b 8)) = false
        t.num (Reg.hngPclaim p) = u32 b 8 ∧ t.num (Reg.hngPckseq p) = u32 b 0x10 ∧ t.peerState p = u8 b 2 % 8 ∧ (t.peer p).flags = u8 b 3 ∧
          (t.peer p).seq = u16 b 6 ∧ (t.peer p).health = u32 b 0x14 ∧
          (if link < 2 then (t.peer p).lvds = some s.chip.up else (t.peer p).milio = some s.chip.up) ∧
          t.fld Reg.hngEpoch 23 0 = (if s.disregards e then s.fld Reg.hngEpoch 23 0 else max e (s.fld Reg.hngEpoch 23 0)) ∧
          (bit (u8 b 3) 1 = true → s.peerUnfit p = false → Rises s t 43) ∧
          (deposed → t.claim = 0 ∧ (s.controlRuns = true → t.mode = Mode.standby) ∧ (s.handoverTo p = false ∨ u8 b 2 ≠ Unit.active → Rises s t 46)) ∧
          (¬ deposed → t.claim = s.claim ∧ t.mode = s.mode ∧
            (s.controlRuns = true → s.claim ≠ 0 → bit (u8 b 3) 2 = true → t.hinge.handover ≠ none))) ∧
    ∀ p, p < 2 → (s.peerUsed p = false ∨ s.flag (Reg.hngPeer p) 30 = false → Idles (.peerLost p) s) ∧
     (s.hingeRuns = true → s.peerUsed p = true → s.flag (Reg.hngPeer p) 30 = true → Completes (.peerLost p) s fun t =>
      let last := max ((s.peer p).lvds.getD 0) ((s.peer p).milio.getD 0)
      t.chip.up = (s.elapse ((last + s.hb3 - s.chip.up + 3) / 4)).chip.up ∧ t.flag (Reg.hngPeer p) 30 = false ∧ Rises s t 42 ∧ t.mode = s.mode ∧ t.claim = s.claim ∧
        (s.inj.acting = none → t.fld Reg.hngCounts 15 8 = min 255 (s.fld Reg.hngCounts 15 8 + 1)))

/-- R492 to R494, R500, R502, R512, R515 to R518, R532: a standby that may take control after the silence or the YIELD of the active unit presents a claim of the next epoch, its rank and its unit, and runs;
the operations of HNG.CMD with their results; a request to revert; proof runs and what they leave.
(Commands shown to complete: takeover, yield, handover, clearUnfit, proofNow, resetEpoch, revertReq, proofRun, proofRunEnd.)
(The model's own choices it meets: log entries 48, 63, 65, 66, 69, 70.) -/
def Obligations.TakeoversCommandsAndProofRuns : Prop :=
  ∀ s : State,
    (if s.mode = Mode.standby then Completes .takeover s fun t =>
        let u := if s.hinge.yielded then s else s.elapse ((max (s.hinge.active.getD 0) s.hinge.listen + s.hb3 - s.chip.up + 3) / 4)
        (u.mayTake = false → t = u) ∧
        (u.mayTake = true → s.fld Reg.hngEpoch 23 0 < 0xFFFFFF → t.mode = Mode.run ∧ t.fld Reg.hngEpoch 23 0 = s.fld Reg.hngEpoch 23 0 + 1 ∧
          t.claim = claimOf (s.fld Reg.hngEpoch 23 0 + 1) s.ownRank s.ownUnit ∧ Rises s t 40)
      else Idles .takeover s) ∧
    (∀ (o : State) (w : Who) (v : Word), ∀ c ∈ [Instr.yield w v, .handover w v, .clearUnfit w v, .proofNow w v, .resetEpoch w v], o.admits w Reg.hngCmd v s →
      let is := fun op => field v 31 16 = 0x484E ∧ field v 3 0 = op
      let answers := fun code ns => Writes c o s [Reg.hngCmdstat] ns fun t => t.num Reg.hngCmdstat = code
      let busy := s.flag Reg.hngCmdstat 31
      (field v 31 16 ≠ 0x484E ∨ field v 3 0 = 0 ∨ 5 < field v 3 0 → Writes c o s [] [] fun _ => True) ∧
      (is 1 → s.claim = 0 → answers Hng.notActive []) ∧
      (is 1 → s.claim ≠ 0 → Completes c o fun t => Acked t ∧ t.claim = 0 ∧ (s.controlRuns = true → t.mode = Mode.standby) ∧
        t.num Reg.hngCmdstat = 0 ∧ Rises s t 41) ∧
      (is 2 ∨ is 3 ∨ is 4 → busy = true → Writes c o s [] [] fun _ => True) ∧
      (is 2 → busy = false → s.claim = 0 → answers Hng.notActive [47]) ∧
      (is 2 → busy = false → s.claim ≠ 0 → s.peerUsed 0 = false → s.peerUsed 1 = false → answers Hng.noPeer [47]) ∧
      (is 2 → busy = false → s.claim ≠ 0 → s.peerUsed 0 = true ∨ s.peerUsed 1 = true → s.hinge.handover = none → Completes c o fun t =>
        Acked t ∧ t.num Reg.hngCmdstat = 2 ^ 31 ∧ t.mode = s.mode ∧ t.claim = s.claim ∧
          t.hinge.handover = some { unit := field v 7 4, commanded := true, final := false, target := 0 }) ∧
      (is 3 ∨ is 4 → busy = false → s.mode ≠ Mode.standby → answers Hng.wrongState []) ∧
      (is 3 ∨ is 4 → busy = false → s.mode = Mode.standby → Completes c o fun t =>
        Acked t ∧ t.num Reg.hngCmdstat = 2 ^ 31 ∧ t.hinge.proofAsked = (if field v 3 0 = 3 then 3 else 2) ∧ t.mode = s.mode ∧
          t.hinge.proofRuns = (s.hinge.proofRuns || !s.proofDeferred)) ∧
      (is 5 → s.life = Life.service → s.claim = 0 → Completes c o fun t =>
        Acked t ∧ t.num Reg.hngCmdstat = 0 ∧ t.fld Reg.hngEpoch 23 0 = 0 ∧ t.hinge.record.epoch = 0 ∧ t.hinge.record.claim = 0 ∧
          t.hinge.record.floors = [] ∧ t.hinge.record.epochReset = true ∧ t.flag Reg.hngStatus Hng.epochEnd = false ∧
          t.chip.delayedReset = true ∧ t.chip.delayedFrom = s.chip.ran ∧ t.mode = s.mode) ∧
      (is 5 → s.life ≠ Life.service ∨ s.claim ≠ 0 → answers Hng.wrongState [])) ∧
    (∀ from_, s.hinge.steady = some from_ → s.hingeRevert = true → s.mode = Mode.standby → s.hinge.revert = false →
      (∃ p, p < 2 ∧ s.heard p = true ∧ s.peerState p = Unit.active ∧ s.peerRank p < s.ownRank) → Completes .revertReq s fun t =>
        let u := (s.elapse ((from_ + s.num Reg.hngRevertHold * 1000000000 - s.chip.up + 3) / 4)).tell
        t.mode = s.mode ∧ (u.hinge.steady = none → t = u) ∧
          (u.hinge.steady ≠ none → t.hinge.revert = (t.mode == Mode.standby && t.standbyReady && t.wardenOk && !t.unfit))) ∧
    (s.hinge.steady = none ∨ s.hingeRevert = false ∨ s.mode ≠ Mode.standby ∨ s.hinge.revert = true ∨
      ¬ (∃ p, p < 2 ∧ s.heard p = true ∧ s.peerState p = Unit.active ∧ s.peerRank p < s.ownRank) → Idles .revertReq s) ∧
    (s.mode = Mode.standby → s.hinge.proofRuns = false → s.hinge.proofAsked ≠ 0 ∨ s.num Reg.hngProofInterval ≠ 0 → Completes .proofRun s fun t =>
      let u := if s.hinge.proofAsked = 0 then s.elapse ((s.hinge.proofLast + s.num Reg.hngProofInterval * 1000000000 - s.chip.up + 3) / 4) else s
      t.mode = s.mode ∧ (u.proofDeferred = true → t = u) ∧ (u.proofDeferred = false → t.hinge.proofRuns = true)) ∧
    (s.mode ≠ Mode.standby ∨ s.hinge.proofRuns = true ∨ (s.hinge.proofAsked = 0 ∧ s.num Reg.hngProofInterval = 0) → Idles .proofRun s) ∧
    (∀ failed, s.hinge.proofRuns = true → Completes (.proofRunEnd failed) s fun t =>
      let link := if failed ≠ 0 then failed else if s.inj.proofLinks ≠ 0 then 0x20 else 0
      t.hinge.proofRuns = false ∧ t.hinge.proofAsked = 0 ∧ t.mode = s.mode ∧ Rises s t 45 ∧
        (link ≠ 0 → t.num Reg.hngProof = 2 ^ 31 + link % 65536 ∧ t.unfit = true ∧ t.hinge.record.unfit = true ∧
          t.hinge.record.unfitCode = link % 65536 ∧ Rises s t 44 ∧ (s.hinge.proofAsked ≠ 0 → t.num Reg.hngCmdstat = Hng.proofFailed)) ∧
        (link = 0 → s.proofLatch.proofRestore.2 = true → t.num Reg.hngProof = 2 ^ 31 + 2 ^ 30 ∧
          t.unfit = (s.unfit && s.hinge.proofAsked != 3) ∧ (s.hinge.proofAsked ≠ 0 → t.num Reg.hngCmdstat = 0)) ∧
        (link = 0 → s.proofLatch.proofRestore.2 = false → t.unfit = true ∧ Rises s t 44)) ∧
    (s.hinge.proofRuns = false → ∀ failed, Idles (.proofRunEnd failed) s)

/-- R155, R504, R505, R507 to R509: a due cut is taken at a quiet instant in time with the next CKSEQ, or skipped and counted; packets of one checkpoint fill the other half of CKBUF; with its tail it is stored when it is
whole, fits the generations, is newer and comes under the ACTIVE peer's claim, and discarded else; a stored one is applied.
(Commands shown to complete: cut, cutSkipped, checkpointPacket, checkpointApply, checkpointSent.)
(The model's own choices it meets: log entries 67, 68, 149.) -/
def Obligations.CheckpointsAreCutStoredAndApplied : Prop :=
  ∀ s : State,
    let skipped := fun (u t : State) => t.hinge = { u.hinge with cutDue := none } ∧ t.num Reg.hngCkseq = s.num Reg.hngCkseq ∧ t.mode = s.mode ∧
      t.mem = s.mem ∧ Rises u t 47 ∧ (s.inj.acting = none → t.fld Reg.hngCounts 7 0 = min 255 (s.fld Reg.hngCounts 7 0 + 1))
    (∀ due, s.hinge.cutDue = some due →
      (if s.controlRuns = true ∧ s.cutInTime due = true ∧ s.cutQuiet = true then Completes .cut s fun t =>
        if s.hinge.sending = true ∨ s.itemFenced = true then skipped s t
        else t.num Reg.hngCkseq = (s.num Reg.hngCkseq + 1) % 2 ^ 32 ∧ t.mode = s.mode ∧ t.mem = s.mem ∧
          t.hinge = { s.hinge with cutDue := none, sending := !s.standbys.isEmpty, sendSince := s.chip.up }
       else Idles .cut s) ∧
      Completes .cutSkipped s fun t => skipped (s.elapse ((due + 1000 * s.cutWait - s.chip.up + 3) / 4)) t) ∧
    (s.hinge.cutDue = none → Idles .cut s ∧ Idles .cutSkipped s) ∧
    (if s.hinge.sending then Completes .checkpointSent s fun t =>
        t = s.setHinge { s.hinge with sending := false, transfer := s.chip.up - s.hinge.sendSince }
      else Idles .checkpointSent s) ∧
    (∀ b : List Byte,
      let n := u16 b 0xC
      let d := slice b 32 n
      let comes := s.mode = Mode.standby ∧ s.hasHinge = true ∧ d.length = n ∧
        ∃ p, p < 2 ∧ s.peerUsed p = true ∧ s.peerPort p ≠ none ∧ s.peerNode p % 2 ^ 14 = u16 b 2 % 2 ^ 14
      let half := match s.hinge.stored with
        | some c => 1 - c.half
        | none => 0
      let dropped := fun t : State => t.hinge = { s.hinge with incoming := none } ∧ t.mem = s.mem ∧ t.mode = s.mode ∧ Rises s t 47
      (¬ comes → Idles (.checkpointPacket b) s) ∧
      let lands := fun (t : State) (a : Nat) => s.storeLocks (engineWho Init.hinge) a n = false → s.partialBad a n = none → t.bytes a n = d ∧ MemoryKept s t a (a + n)
      (comes → u8 b 0 = 1 → Completes (.checkpointPacket b) s fun t => (s.hinge.incoming ≠ none → Rises s t 47) ∧
        if u32 b 8 ≠ 0 ∨ n ≠ 64 ∨ s.ckmax < u32 d 28 then dropped t
        else t.hinge = { s.hinge with incoming := some { seq := u32 b 4, final := bit (u8 b 1) 0, claim := u32 b 0x10, half := half, got := 64,
                                                         len := u32 d 28 } } ∧ lands t (s.ckHalf half)) ∧
      (comes → u8 b 0 ≠ 1 → s.hinge.incoming = none → Idles (.checkpointPacket b) s) ∧
      ∀ i, comes → u8 b 0 ≠ 1 → s.hinge.incoming = some i →
        let next := u32 b 4 = i.seq ∧ u32 b 8 = i.got ∧ i.got + n ≤ i.len
        let base := s.ckHalf i.half
        let front := s.bytes base i.got
        let whole := i.got + 16 = i.len ∧ crc32 front = u32 d 0
        let gens := (List.range 5).map fun k => u32 front (4 * k)
        let newer := match s.hinge.stored with
          | some c => i.seq ≠ c.seq ∧ seqNewer 32 i.seq c.seq = true
          | none => True
        (¬ next → Completes (.checkpointPacket b) s dropped) ∧
        (next → u8 b 0 = 2 → Completes (.checkpointPacket b) s fun t =>
          t.hinge = { s.hinge with incoming := some { i with got := i.got + n } } ∧ lands t (base + i.got)) ∧
        (next → u8 b 0 = 3 → ¬ whole ∨ (gens = s.gens ∧ (¬ newer ∨ s.activeClaim ≠ some i.claim)) → Completes (.checkpointPacket b) s dropped) ∧
        (next → u8 b 0 = 3 → whole → gens ≠ s.gens → Completes (.checkpointPacket b) s fun t => dropped t ∧
          t.num Reg.blkCkptDiscard = min (2 ^ 32 - 1) (s.num Reg.blkCkptDiscard + 1) ∧ Rises s t 20) ∧
        (next → u8 b 0 = 3 → whole → gens = s.gens → newer → s.activeClaim = some i.claim → Completes (.checkpointPacket b) s fun t =>
          t.hinge.incoming = none ∧ t.flag Reg.hngStatus Hng.applying = true ∧ t.mode = s.mode ∧ ∃ c, t.hinge.stored = some c ∧ c.seq = i.seq ∧
            c.half = i.half ∧ c.len = i.len ∧ c.gens = s.gens ∧ c.applied = false ∧ c.prior = s.appliedCheckpoint ∧ c.since = s.chip.up ∧
            c.cut = s.stampNs (u64 front 20) ∧ c.final = (i.final && !s.firedSince c.cut) ∧
            ∀ e ∈ t.spn.due, ¬ (e.spindle = s.cutSpindle % 8 ∧ e.cmp % 64 = s.cutComparator % 64))) ∧
    (∀ c, s.mode = Mode.standby → s.flag Reg.hngStatus Hng.applying = true → s.hinge.stored = some c → c.applied = false →
      Completes .checkpointApply s fun t => t.hinge.stored = some { c with applied := true, prior := none } ∧ t.mode = s.mode ∧
        t.flag Reg.hngStatus Hng.applying = false ∧ t.num Reg.hngCkseq = c.seq % 2 ^ 32 ∧
        t.chip.up = (s.elapse ((c.since + c.len / 32 - s.chip.up + 3) / 4)).chip.up) ∧
    (s.mode = Mode.standby → s.flag Reg.hngStatus Hng.applying = true → (∀ c, s.hinge.stored = some c → c.applied = true) →
      Completes .checkpointApply s (· = s.tell)) ∧
    (s.mode ≠ Mode.standby ∨ s.flag Reg.hngStatus Hng.applying = false → Idles .checkpointApply s)

/-- R491, R499, R501, R509, R513 to R515, R715: readiness is judged anew when the applied state grows old; the target of a final checkpoint takes control under a new claim; at the next firing both units abandon a
hand-over that has not come about; Latch status frames of the own SETID tell epochs and claims, and a higher one deposes the unit.
(Commands shown to complete: finalTake, abandoned, latchStatus, checkpointStale.)
(The model's own choices it meets: log entries 66, 71.) -/
def Obligations.HandOversEndAndStatusFramesDepose : Prop :=
  ∀ s : State,
    (∀ cut gens, s.mode = Mode.standby → s.appliedCheckpoint = some (cut, gens) → gens = s.gens → Completes .checkpointStale s fun t =>
      t.chip.up = (s.elapse (((cut + 16 * s.ckptPeriod * s.cutCycle + 1 - s.now) * 2 ^ 32 + s.incr - 1) / s.incr)).chip.up ∧ t.mode = s.mode ∧ t.fld Reg.hngStatus 31 29 = t.unitState ∧ (t.standbyReady = false → t.hinge.steady = none ∧ t.hinge.revert = false)) ∧
    ((s.mode ≠ Mode.standby ∨ ∀ cut, s.appliedCheckpoint ≠ some (cut, s.gens)) → Idles .checkpointStale s) ∧
    (∀ c, s.hinge.stored = some c → c.final = true → s.mode = Mode.standby → s.wardenOk = true → s.unfit = false →
      Completes .finalTake s fun t =>
        let u := s.finishApply
        if u.waits (s.cutSpindle % 8) (s.cutComparator % 64) = true then t = u.tell
        else s.fld Reg.hngEpoch 23 0 < 0xFFFFFF →
          t.controlRuns = true ∧ t.claim = claimOf (s.fld Reg.hngEpoch 23 0 + 1) s.ownRank s.ownUnit ∧ Rises u t 40) ∧
    (s.mode ≠ Mode.standby ∨ s.wardenOk = false ∨ s.unfit = true ∨ (∀ c, s.hinge.stored = some c → c.final = false) → Idles .finalTake s) ∧
    (let n := s.cutSpindle % 8
     let c := s.cutComparator % 64
     (s.withholds = true → s.hasHinge = true → s.claim ≠ 0 → s.cutSpindle < 8 → s.cutComparator < 64 → Completes .abandoned s fun t =>
       match s.firing Consumer.tsk n c with
       | none => t = s
       | some (u, _) => t.hinge.handover = none ∧ t.claim = s.claim ∧ t.controlRuns = s.controlRuns ∧ Rises u t 47 ∧
           ∀ h, s.hinge.handover = some h → h.commanded = true → t.num Reg.hngCmdstat = Hng.abandoned) ∧
     (∀ k, s.withholds = false → s.hinge.stored = some k → k.final = true → s.mode = Mode.standby → Completes .abandoned s fun t =>
       match s.firing Consumer.tsk n c with
       | none => t = s
       | some (u, _) => t = u.setHinge { u.hinge with stored := some { k with final := false } }) ∧
     (s.withholds = false → s.mode ≠ Mode.standby ∨ (∀ k, s.hinge.stored = some k → k.final = false) → Idles .abandoned s)) ∧
    ∀ input f,
      let known := Lfr.type f = Frame.status ∧ Lfr.setid f = s.ownSetid ∧ s.statusKnown input = true ∧ s.hingeRuns = true
      let highest := fun k => u32 f (0x14 + 8 * k)
      let deposes := ∃ k, k < Lfr.nent f ∧ s.claim ≠ 0 ∧ s.claim < highest k ∧ s.disregards (epochOf (highest k)) = false
      (¬ known → Idles (.latchStatus input f) s) ∧
      (known → Completes (.latchStatus input f) s fun t =>
        (∀ k, k < Lfr.nent f → s.disregards (epochOf (highest k)) = false → epochOf (highest k) ≤ t.fld Reg.hngEpoch 23 0) ∧
        (∀ k, k < Lfr.nent f → highest k ≠ 0 → u16 f (0x12 + 8 * k) * 100 ≤ s.num Reg.latWindow → t.hinge.statusActive = true) ∧
        (deposes → t.claim = 0 ∧ (s.controlRuns = true → t.mode = Mode.standby) ∧ Rises s t 46) ∧
        (¬ deposes → t.claim = s.claim ∧ t.mode = s.mode ∧ t.chip = s.chip))

/-! ### The Latch (12) -/

/-- R519 to R526: what becomes of a command at a channel, whether it comes in a frame, entry by entry, or by LAT.CMD under the part's own claim: foreign, dropped, a duplicate, or accepted; an accepted one drives its
value, becomes HIGHEST, ends SAFE and raises the floor, and no other channel changes.
(Commands shown to complete: latchCommand, latchCmd.)
(The model's own choices it meets: log entries 36, 72.) -/
def Obligations.LatchCommandsAreAcceptedOrDropped : Prop :=
  ∀ s : State, s.latchRuns = true →
    let floorOk := fun m : LatchCommand => s.floor m.setid ≤ epochOf m.claim ∧ s.disregards (epochOf m.claim) = false
    let awaitsArm := fun c => s.latchHeld c = Lat.safe ∧ s.latchResumeArm c = true ∧ s.flag (State.latchArm c) (c % 32) = false
    let drops := fun m : LatchCommand => (s.latchChannel m.channel).stuck = true ∨ ¬ floorOk m ∨
      (m.claim < s.num (Reg.latHighest m.channel) ∧ s.latchLive m.channel = true)
    let repeats := fun m : LatchCommand => m.claim = s.num (Reg.latHighest m.channel) ∧ (s.latchChannel m.channel).accepted ≠ none ∧
      seqAhead m.seq (s.fld (Reg.latCstate m.channel) 15 0) = false
    let dropped := fun (m : LatchCommand) (t : State) => OnlyRegsFlt { s with latch := t.latch } t [Reg.latDrop m.channel] ∧
      t.num (Reg.latDrop m.channel) = min (2 ^ 32 - 1) (s.num (Reg.latDrop m.channel) + 1) ∧
      ((s.latchChannel m.channel).dropped = none → Rises s t 49)
    let repeated := fun (m : LatchCommand) (t : State) => OnlyRegs { s with latch := t.latch } t [Reg.latDups] ∧ Raised s t [] ∧
      t.num Reg.latDups = min (2 ^ 32 - 1) (s.num Reg.latDups + 1) ∧ (t.latchChannel m.channel).seen = some s.chip.up
    let accepted := fun (m : LatchCommand) (t : State) => let c := m.channel
      t.num (Reg.latValue c) = m.value ∧ t.num (Reg.latHighest c) = m.claim ∧ t.latchHeld c = Lat.active ∧
      t.fld (Reg.latCstate c) 15 0 = m.seq ∧ t.fld (Reg.latCstate c) 23 20 = m.qual ∧ (t.latchChannel c).accepted = some s.chip.up ∧
      t.floor m.setid = max (s.floor m.setid) (epochOf m.claim) ∧ (s.floor m.setid < epochOf m.claim → Rises s t 52) ∧
      t.hinge.record.epochReset = false ∧ t.mode = s.mode ∧
      (s.latchHeld c = Lat.safe → s.latchResumeArm c = true → t.flag (State.latchArm c) (c % 32) = false ∧ Rises s t 50) ∧
      ∀ d, d < 64 → d ≠ c → t.latchChannel d = s.latchChannel d ∧ t.num (Reg.latValue d) = s.num (Reg.latValue d) ∧
        t.reg (Reg.latCstate d) = s.reg (Reg.latCstate d)
    let judged := fun (m : LatchCommand) (t : State) =>
      if drops m then dropped m t else if repeats m then repeated m t else if awaitsArm m.channel then dropped m t else accepted m t
    (∀ i f, Lfr.type f = Frame.command → s.latchOffered i = true → u8 f 1 = 1 → u8 f 0x10 < 64 →
      let c := u8 f 0x10
      if s.latchTakes c i = false ∨ s.latchSetid c ≠ Lfr.setid f ∨ Lfr.claim f = 0 then
        Alters (.latchCommand i f) s [Reg.latForeign] [51] fun t => t.num Reg.latForeign = min (2 ^ 32 - 1) (s.num Reg.latForeign + 1)
      else Completes (.latchCommand i f) s (judged { channel := c, claim := Lfr.claim f, setid := Lfr.setid f, seq := u16 f 0x12, qual := u8 f 0x11 % 16,
                                                     value := u32 f 0x14 })) ∧
    (∀ i f, Lfr.type f ≠ Frame.command ∨ s.latchOffered i = false → Idles (.latchCommand i f) s) ∧
    (∀ i f, Lfr.type f = Frame.command → Completes (.latchCommand i f) s (· = (List.range (Lfr.nent f)).foldl (fun x e =>
      match exec (.latchCommand i (leBytes 1 Frame.command ++ leBytes 1 1 ++ slice f 2 14 ++ slice f (0x10 + 8 * e) 8)) x with
      | .next y => y
      | _ => x) s)) ∧
    (∀ o w c v, c < 64 → o.admits w (Reg.latCmd c) v s →
      if s.claim = 0 then Writes (.latchCmd w c v) o s [] [] fun _ => True
      else if s.latchUsed c = false ∨ s.latchInput c 0 = false ∨ s.latchSetid c ≠ s.ownSetid then
        Writes (.latchCmd w c v) o s [Reg.latForeign] [51] fun t => t.num Reg.latForeign = min (2 ^ 32 - 1) (s.num Reg.latForeign + 1)
      else Completes (.latchCmd w c v) o fun t => Acked t ∧ (t.latchChannel c).localSeq = ((s.latchChannel c).localSeq + 1) % 65536 ∧
        let m : LatchCommand := { channel := c, claim := s.claim, setid := s.ownSetid, seq := (s.latchChannel c).localSeq, qual := 0, value := v.toNat }
        (s.latchChannel c).localSeq < 65536 → judged m t)

/-- R523 to R525, R528, R526, R668: a WITHDRAW frame makes a claim unseen on the channels it acts on; a channel whose hold runs out drives its safe value in state SAFE; ARM bits are set by writing 1; status
frames go out over every used channel of a SETID; a channel whose pin does not follow is out of service; outside STANDBY, RUN and HOLD the Latch takes neither commands nor withdrawals.
(Commands shown to complete: latchWithdraw, statusSend, latchHoldExpiry, latchCmd, latchArm, latchStuck.)
(The model's own choices it meets: log entries 72, 73.) -/
def Obligations.LatchHoldsArmsAndReports : Prop :=
  ∀ s : State,
    (s.latchRuns = true → ∀ i f, Lfr.type f = Frame.withdraw → Completes (.latchWithdraw i f) s fun t => t = { s with latch := t.latch } ∧ ∀ c, c < 64 →
      let acts := s.latchTakes c i = true ∧ s.latchSetid c = Lfr.setid f ∧ s.num (Reg.latHighest c) = Lfr.claim f ∧ Lfr.claim f ≠ 0
      (acts → t.latchChannel c = { s.latchChannel c with seen := none } ∧ t.latchLive c = false) ∧
      (¬ acts → t.latchChannel c = s.latchChannel c)) ∧
    (s.latchRuns = false → ∀ i f, Idles (.latchCommand i f) s ∧ Idles (.latchWithdraw i f) s) ∧
    (s.latchRuns = false → ∀ o w c v, c < 64 → o.admits w (Reg.latCmd c) v s → Writes (.latchCmd w c v) o s [] [] fun _ => True) ∧
    (∀ c, c < 64 → match (s.latchChannel c).accepted with
      | none => Idles (.latchHoldExpiry c) s
      | some since =>
        if s.latchRuns = true ∧ s.latchUsed c = true ∧ s.latchHeld c = Lat.active then Completes (.latchHoldExpiry c) s fun t =>
          let u := s.elapse ((since + s.fld (Reg.latHold c) 7 0 * s.latchPeriod c - s.chip.up + 3) / 4)
          t.latchHeld c = Lat.safe ∧ t.num (Reg.latValue c) = s.latchSafeval c ∧ t.flag (State.latchSafeReg c) (c % 32) = true ∧
            t.latch = s.latch ∧ t.mode = s.mode ∧ Rises u t 48
        else Idles (.latchHoldExpiry c) s) ∧
    (∀ (o : State) (w : Who) (high : Bool) (v : Word), let r := if high then Reg.latArmHi else Reg.latArmLo
      o.admits w r v s → Writes (.latchArm w high v) o s [r] [] fun t => t.reg r = s.reg r ||| v) ∧
    (bit (u8 s.latchBody 1) 0 = false ∨ s.mode ≤ Mode.mount → Idles .statusSend s) ∧
    (bit (u8 s.latchBody 1) 0 = true → Mode.mount < s.mode → Completes .statusSend s fun t =>
      let used := (List.range 64).filter s.latchUsed
      let link := u32 s.latchBody 8
      let k := link / 2 % 4
      let u := s.elapse ((s.latch.statusAt + 1000000 * u16 s.latchBody 2 - s.chip.up + 3) / 4)
      let v := { u with latch := { u.latch with statusAt := u.chip.up } }
      let frame := padFd (u.latchFrame Frame.status s.ownSetid 0 (used.map u.statusEntry))
      t.latch = v.latch ∧ t.mode = s.mode ∧ t.chip = u.chip ∧ (bit link 7 = false ∨ used = [] → t = v) ∧
        (used ≠ [] → used.length ≤ 6 → (∀ c, c ∈ used → s.latchSetid c = s.ownSetid) → bit link 7 = true →
          if bit link 0 = true then t = v.milOriginate (link / 8 % 2) (link / 16 % 8) (u32 s.latchBody 0xC % 2 ^ 14) false
            (tagged (u32 s.latchBody 0xC / 2 ^ 16) (u.latchFrame Frame.status s.ownSetid 0 (used.map u.statusEntry)))
          else if s.variant.cans ≤ k ∨ s.fenced Region.link = true then t = v
          else if s.flag (Reg.canStatus k) 28 = true then t = v.bump (Reg.canHwdrop k) 31 0 1
          else t = { v with can := t.can } ∧ t.can.latch.get k = s.can.latch.get k ++ [(u32 s.latchBody 0xC % 2 ^ 30, frame)])) ∧
    ∀ c, c < 64 →
      if s.latchUsed c = true ∧ s.latchDrive c = 1 ∧ Mode.mount < s.mode ∧ (s.latchChannel c).stuck = false then
        Completes (.latchStuck c) s fun t => OnlyRegsFlt { s with latch := t.latch } t [] ∧ (t.latchChannel c).stuck = true ∧
          ∀ d, d ≠ c → t.latchChannel d = s.latchChannel d
      else Idles (.latchStuck c) s

/-! ### The profile generator (13) -/

/-- R539, R541 to R543, R547, R549, R550, R552, R553, R556, R557: a GO is refused as a whole with its first reason or starts what it names; a halt brakes the axes it applies to and an immediate stop ends their moves
where they stand, with POSITION_LOST where the last step was too fast; HOME and SET_POS at standstill; the outcome stands in the initiator's own PRF.CMDSTAT.
(Commands shown to complete: axisGo, axisStop, axisHalt, axisHome, setPos.)
(The model's own choices it meets: log entries 37, 75, 76, 77.) -/
def Obligations.AxisCommandsStartBrakeAndStop : Prop :=
  ∀ (o s : State) (w : Who) (v : Word),
    let stat := bankOf w.id Reg.prfCmdstat
    let mask := v.toNat % 65536
    let ns := (bitsOf v.toNat 16).filter s.axisUsed
    let stops := s.withGroups mask
    let tooFast := fun n => (s.axis n).interval ≠ 0 ∧
      (s.axisFp n 0x18).lt (D.div (D.ofNat 250000000) (D.ofNat (s.axis n).interval)) = true
    (o.admits w Reg.prfGo v s → match s.goRefusal ns with
      | some (reason, which) => Writes (.axisGo w v) o s [stat] [244] fun t => t.num stat = (2 ^ 31 + reason * 2 ^ 24 + which) % 2 ^ 32
      | none =>
        if s.prfRuns then Completes (.axisGo w v) o fun t => Acked t ∧ t.num stat = maskOf ns (fun _ => true) ∧ t.mode = s.mode ∧
          (∀ n, n < 16 → t.axisPos n = s.axisPos n) ∧ (∀ n, n ∉ ns → t.axis n = s.axis n) ∧
          (∀ n, n ∈ ns → s.groupOf n = 15 → s.axisMoving n = false → (t.axis n).target = s.axisTarget n ∧
            if s.axisPos n = s.axisTarget n then (t.axis n).move = none
            else (t.axis n).move = some (s.singleMove n (s.axisTarget n)) ∧ (t.axis n).enable = true) ∧
          ∀ g, g < 4 → (∃ n, n ∈ ns ∧ s.groupOf n = g) →
            if (s.groupAxes g).any s.axisMoving then ∀ n, n ∈ s.groupAxes g → t.axis n = { s.axis n with held := some (s.axisTarget n) }
            else ∃ segs start, ∀ n, n ∈ s.groupAxes g → (t.axis n).target = s.axisTarget n ∧
              if s.axisPos n = s.axisTarget n then (t.axis n).move = none
              else ∃ m, (t.axis n).move = some m ∧ m.segs = segs ∧ m.start = start ∧ s.tick + s.leadOf n ≤ start ∧ m.group = g ∧
                m.dist = (s.axisTarget n - s.axisPos n).natAbs ∧ m.forward = decide (s.axisPos n < s.axisTarget n)
        else Writes (.axisGo w v) o s [stat] [] fun t => t.num stat = maskOf ns fun _ => true) ∧
    (o.admits w Reg.prfStop v s → Completes (.axisStop w v) o fun t => Acked t ∧ t.mode = s.mode ∧ t.mem = s.mem ∧
      (∀ n, n < 16 → t.axisPos n = s.axisPos n) ∧ (∀ n, n ∉ stops → t.axis n = s.axis n) ∧
      (∀ n, n ∈ stops → (t.axis n).move = none ∧ (t.axis n).held = none) ∧
      ∀ n, n ∈ stops → s.axisMoving n = true → Rises s t 245 ∧ (tooFast n → t.axisLost n = true ∧ Rises s t 241) ∧
        (¬ tooFast n → t.axisLost n = s.axisLost n)) ∧
    (o.admits w Reg.prfHalt v s → Completes (.axisHalt w v) o fun t => Acked t ∧ t.mode = s.mode ∧ t.mem = s.mem ∧
      (∀ n, n < 16 → t.axisPos n = s.axisPos n) ∧ (∀ n, n ∉ stops → s.groupOf n = 15 → t.axis n = s.axis n) ∧
      ∀ n m, n ∈ stops → (s.axis n).move = some m → (t.axis n).held = none ∧
        let brake := m.brake s.tick none
        (t.axis n).move = if brake.dist = 0 then none else some brake) ∧
    ∀ n, n < 16 → ∀ c ∈ [Instr.axisHome w n v, Instr.setPos w n v], o.admits w (Reg.prfHome n) v s →
      let busy := 2 ^ 31 + PrfReason.busy * 2 ^ 24 + 2 ^ n
      let home := bit v.toNat 0 = true
      let set := bit v.toNat 1 = true
      let placed := [stat, Reg.prfPos n, Reg.prfAstate n, Reg.prfStatus]
      (field v 31 16 ≠ 0x484D ∨ (¬ home ∧ ¬ set) → Writes c o s [] [] fun _ => True) ∧
      (field v 31 16 = 0x484D → home ∨ set → s.axisMoving n = true → Writes c o s [stat] [] fun t => t.num stat = busy) ∧
      (field v 31 16 = 0x484D → ¬ home → set → s.axisMoving n = false → Writes c o s placed [] fun t =>
          t.num stat = 2 ^ n ∧ t.axisPos n = s.axisTarget n ∧ t.axisLost n = false) ∧
      (field v 31 16 = 0x484D → home → s.axisMoving n = false →
        if s.prfRuns = true ∧ s.axisUsed n = true then Completes c o fun t => Acked t ∧ t.num stat = 2 ^ n ∧
          (t.axis n).move = some (s.homeMove n) ∧ t.axisHoming n = true ∧ t.axisPos n = (if set then s.axisTarget n else s.axisPos n) ∧
          t.axisLost n = (s.axisLost n && !bit v.toNat 1) ∧ ∀ k, k ≠ n → t.axis k = s.axis k
        else Writes c o s (if set then placed else [stat]) [] fun t => t.num stat = 2 ^ n ∧ (set → t.axisPos n = s.axisTarget n ∧ t.axisLost n = false))

/-- R538, R540, R548, R552: a step moves POS by one in the move's direction, counts in PRF.STEPS for an axis with pulses, and the last one ends the move; the home switch ends a homing move at HOME_POS; an axis long at
standstill reduces its current; a LATCH axis presents its position to its channel.
(Commands shown to complete: stepEmit, homeSwitch, currentReduce, prfSample.)
(The model's own choices it meets: log entries 74, 77.) -/
def Obligations.AxesStepHomeRestAndPresent : Prop :=
  ∀ (s : State) (n : Nat), n < 16 →
    (∀ m, (s.axis n).move = some m → s.prfRuns = true → m.done < m.dist → Completes (.stepEmit n) s fun t =>
      let u := s.elapse (m.start + m.tickOf (m.done + 1) - s.tick)
      t.num (Reg.prfPos n) = unsigned 32 (s.axisPos n + (if m.forward then 1 else -1)) ∧ t.mode = s.mode ∧ t.mem = s.mem ∧
        (∀ k, k < 16 → k ≠ n → t.axisPos k = s.axisPos k) ∧
        t.num (Reg.prfSteps n) = (if s.axisOut n = 0 then (s.num (Reg.prfSteps n) + 1) % 2 ^ 32 else s.num (Reg.prfSteps n)) ∧
        (m.done + 1 < m.dist → (t.axis n).move = some { m with done := m.done + 1 } ∧ (t.axis n).lastStep = u.tick ∧ Raised u t [] ∧
          ∀ k, k ≠ n → t.axis k = s.axis k) ∧
        (m.dist ≤ m.done + 1 → m.next = none → (s.axis n).held = none → s.groupOf n = 15 → (t.axis n).move = none ∧
          (m.homing = true → Rises u t 243 ∧ t.axisLost n = s.axisLost n) ∧
          (m.homing = false → s.flag Reg.prfIe n = true → Rises u t 240))) ∧
    ((∀ m, (s.axis n).move = some m → s.prfRuns = false ∨ m.dist ≤ m.done) → Idles (.stepEmit n) s) ∧
    (if s.axisHoming n = true ∧ s.prfRuns = true then Completes (.homeSwitch n) s fun t =>
        t.axisPos n = s.axisHomePos n ∧ t.flag (Reg.prfAstate n) 27 = true ∧ t.axisLost n = false ∧ Rises s t 242 ∧ t.mode = s.mode ∧
          t.mem = s.mem ∧ ((s.axis n).held = none → s.groupOf n = 15 → (t.axis n).move = none)
      else Idles (.homeSwitch n) s) ∧
    (if s.prfRuns = true ∧ s.axisUsed n = true ∧ s.axisMoving n = false ∧ s.fld (Reg.prfIdle n) 15 0 ≠ 0 ∧ s.flag (Reg.prfAstate n) 26 = false then
        Completes (.currentReduce n) s fun t =>
          let u := s.elapse ((s.axis n).since + 250000 * s.fld (Reg.prfIdle n) 15 0 - s.tick)
          OnlyRegs u t [Reg.prfAstate n] ∧ Raised u t [] ∧ t.flag (Reg.prfAstate n) 26 = true
      else Idles (.currentReduce n) s) ∧
    (if s.prfRuns = true ∧ s.axisUsed n = true ∧ s.axisOut n = 1 then
        let c := s.axisLch n
        let k := s.latchChannel c
        let u := s.elapse ((s.axis n).sampled + usTicks (u16 s.controlStruct (axisEntry n + 0x36)) - s.tick)
        let v := u.setAxis n { u.axis n with sampled := u.tick }
        if s.claim = 0 then Completes (.prfSample n) s (· = v)
        else if s.latchUsed c = false ∨ s.latchInput c 0 = false ∨ s.latchSetid c ≠ s.ownSetid then
          Completes (.prfSample n) s fun t => OnlyRegs v t [Reg.latForeign] ∧ Raised v t [51] ∧
            t.num Reg.latForeign = min (2 ^ 32 - 1) (s.num Reg.latForeign + 1)
        else Completes (.prfSample n) s fun t => (t.latchChannel c).localSeq = (k.localSeq + 1) % 65536 ∧ t.mode = s.mode ∧ (t.axis n).sampled = u.tick ∧
          (c < 64 → k.stuck = false → s.floor s.ownSetid ≤ epochOf s.claim → s.disregards (epochOf s.claim) = false → s.latchHeld c ≠ Lat.safe →
            s.num (Reg.latHighest c) < s.claim → t.num (Reg.latValue c) = unsigned 32 (s.axisPos n) ∧ t.num (Reg.latHighest c) = s.claim)
      else Idles (.prfSample n) s)

/-! ### The panel (14) -/

/-- R563 to R566, R571: a write of PNL.CTRL that sets ON starts the power-up, one that clears ON starts the power-off, discarding the pending updates and putting out the light, and LIGHT acts while
the panel is on; rails rise and fall one by one after their delays; LIGHT_DELAY after the clear the power-up ends.
(Commands shown to complete: powerUp, powerOff, railStep, lightDelayExpiry.)
(The model's own choices it meets: log entry 106.) -/
def Obligations.PanelsPowerUpAndDown : Prop :=
  ∀ s : State,
    let power := fun t : State => t.fld Reg.pnlStatus 31 30
    let lit := fun t : State => t.flag Reg.pnlStatus 29
    let next := if s.pnl.recover ≠ [] then PnlStage.recovering
      else if s.panelType = 1 ∨ (s.panelType = 2 ∧ (s.epdClear = true ∨ s.pnl.mustClear = true)) then .clearing else .lighting
    (∀ (o : State) (w : Who) (v : Word), ∀ c ∈ [Instr.powerUp w v, .powerOff w v], o.admits w Reg.pnlCtrl v s →
      let ctrl := v.toNat % 8 + ofBool (s.flag Reg.pnlCtrl 8 || bit v.toNat 8) * 2 ^ 8
      (bit v.toNat 0 = true → s.panelOn = false → s.pnl.stage = .rest → Completes c o fun t =>
        Acked t ∧ t.num Reg.pnlCtrl = ctrl ∧ power t = 1 ∧ if s.panelRails = 0 then t.pnl.stage = next
          else t.pnl = { s.pnl with stage := .rising, since := s.chip.up, rails := 0 } ∧ t.mem = s.mem) ∧
      (bit v.toNat 0 = true → s.panelOn = false → s.pnl.stage ≠ .rest → Writes c o s [Reg.pnlCtrl] [] fun t => t.num Reg.pnlCtrl = ctrl) ∧
      (bit v.toNat 0 = false → s.panelOn = true → Completes c o fun t =>
        Acked t ∧ t.num Reg.pnlCtrl = ctrl ∧ lit t = false ∧ t.pnl.regions = s.pnlRunning ∧ t.mode = s.mode ∧
          (∀ r id, r ∈ s.pnlPending → id ∈ r.whos → t.num (bankOf id Reg.pnlUpdstat) = 2 ^ 31 + Upd.discarded * 2 ^ 28 ∧ Rises s t 450) ∧
          (s.pnlRunning ≠ [] → t.pnl.stage = .finishing ∧ power t = 3) ∧
          (s.pnlRunning = [] → s.panelType = 1 → t.pnl.stage = .darkening ∧ power t = 3) ∧
          (s.pnlRunning = [] → s.panelType ≠ 1 → if s.pnl.rails ≠ 0 then t.pnl.stage = .falling ∧ power t = 3
            else t.pnl.stage = .rest ∧ power t = 0 ∧ Rises s t 452)) ∧
      (bit v.toNat 0 = s.panelOn → if power s = 2 then
          Writes c o s [Reg.pnlCtrl, Reg.pnlStatus] [] fun t => t.num Reg.pnlCtrl = ctrl ∧ lit t = bit v.toNat 1 ∧ power t = 2
        else Writes c o s [Reg.pnlCtrl] [] fun t => t.num Reg.pnlCtrl = ctrl)) ∧
    (s.panelRuns = true → s.pnl.stage = .rising → Completes .railStep s fun t =>
      let u := s.panelWait (s.railDelay s.pnl.rails)
      t.pnl.rails = s.pnl.rails + 1 ∧ t.mode = s.mode ∧
        (s.pnl.rails + 1 < s.panelRails → t = u.setPnl { u.pnl with rails := s.pnl.rails + 1, since := u.chip.up }) ∧
        (s.panelRails ≤ s.pnl.rails + 1 → t.pnl.stage = next)) ∧
    (s.panelRuns = true → s.pnl.stage = .falling → Completes .railStep s fun t =>
      let u := s.panelWait (s.railDelay (s.pnl.rails - 1))
      t.mode = s.mode ∧
        (1 < s.pnl.rails → t = u.setPnl { u.pnl with rails := s.pnl.rails - 1, since := u.chip.up }) ∧
        (s.pnl.rails ≤ 1 → Rises u t 452 ∧ (s.panelOn = false → t.pnl.stage = .rest ∧ t.pnl.rails = 0 ∧ power t = 0))) ∧
    (s.panelRuns = false ∨ (s.pnl.stage ≠ .rising ∧ s.pnl.stage ≠ .falling) → Idles .railStep s) ∧
    (if s.panelRuns = true ∧ s.pnl.stage = .lighting then Completes .lightDelayExpiry s fun t =>
        let u := s.panelWait (1000000 * u16 s.panelBody 0x38)
        OnlyRegs { u with pnl := t.pnl } t [Reg.pnlStatus] ∧ Raised u t [452] ∧ t.pnl = { u.pnl with stage := .rest, since := u.chip.up } ∧
          power t = 2 ∧ lit t = s.flag Reg.pnlCtrl 1
      else Idles .lightDelayExpiry s)

/-- R559, R561, R562, R569 to R574: a request for an update is refused with its reason, merged into a pending region that then holds it, or joins the pending regions; a frame takes the frame buffer, counts, journals
the regions that run and advances them, and one that falls due while lines are driven is skipped.
(Commands shown to complete: panelFrameStart, updGo.)
(The model's own choices it meets: log entries 106, 107.) -/
def Obligations.PanelsUpdateFrameByFrame : Prop :=
  ∀ s : State,
    (∀ (o : State) (w : Who) (v : Word), o.admits w Reg.pnlUpdGo v s →
      let stat := bankOf w.id Reg.pnlUpdstat
      let xy := s.reg (bankOf w.id Reg.pnlUpdXy)
      let wh := s.reg (bankOf w.id Reg.pnlUpdWh)
      let mode := field v 1 0
      let r : PnlRegion := { slot := s.freeRegion, x := field xy 10 0, y := field xy 26 16, w := field wh 10 0, h := field wh 26 16, mode := mode,
                             kind := 1, phase := 0, recovery := false, clears := false, fresh := false, whos := [w.id] }
      let outside := s.panelWidth < r.x + r.w ∨ s.panelHeight < r.y + r.h ∨ r.x % 2 = 1 ∨ r.w % 2 = 1 ∨ s.panelType ≠ 2 ∨ u8 s.panelBody 0x1B ≤ mode
      let meets := ∃ q, q ∈ s.pnl.regions ∧ q.kind = 1 ∧ q.meets r = true
      let refused := fun code => Writes (.updGo w v) o s [stat] [450] fun t => t.num stat = 2 ^ 31 + code * 2 ^ 28
      (field v 31 16 ≠ 0x504E → Writes (.updGo w v) o s [] [] fun _ => True) ∧
      (field v 31 16 = 0x504E → s.panelOn = false → refused Upd.off) ∧
      (field v 31 16 = 0x504E → s.panelOn = true → outside → refused Upd.range) ∧
      (field v 31 16 = 0x504E → s.panelOn = true → ¬ outside → ¬ meets → 16 ≤ s.pnlPending.length → refused Upd.full) ∧
      (field v 31 16 = 0x504E → s.panelOn = true → ¬ outside → ¬ meets → s.pnlPending.length < 16 → Completes (.updGo w v) o fun t =>
        Acked t ∧ t.num stat = 2 ^ 31 ∧ t.pnl = { s.pnl with regions := s.pnl.regions ++ [r] } ∧ t.mem = s.mem ∧ t.plic = s.plic) ∧
      (field v 31 16 = 0x504E → s.panelOn = true → ¬ outside → meets → Completes (.updGo w v) o fun t =>
        Acked t ∧ t.num stat = 2 ^ 31 + Upd.merged * 2 ^ 28 ∧ t.mem = s.mem ∧ t.plic = s.plic ∧
          ∃ q, q ∈ t.pnl.regions ∧ q.kind = 1 ∧ q.mode = mode ∧ w.id ∈ q.whos ∧ q.x ≤ r.x ∧ q.y ≤ r.y ∧ r.x + r.w ≤ q.x + q.w ∧ r.y + r.h ≤ q.y + q.h)) ∧
    (∀ late, s.panelRuns = true → s.panelType ≠ 0 → Completes (.panelFrameStart late) s fun t =>
      match s.firing Consumer.pnl (u8 s.panelBody 2) (u8 s.panelBody 3) with
      | none => t = s
      | some (u, _) =>
        if u.firedAt < u.pnl.busyUntil then
          OnlyRegs u t [Reg.pnlSkips] ∧ Raised u t [453] ∧ t.num Reg.pnlSkips = min (2 ^ 32 - 1) (u.num Reg.pnlSkips + 1)
        else t.num Reg.pnlFrames = (u.num Reg.pnlFrames + 1) % 2 ^ 32 ∧ t.pnl.pol = u.pnl.pol + 1 ∧ t.pnl.shown = u.panelFb ∧ t.mode = u.mode ∧
          t.pnl.busyUntil = u.firedAt + u.frameNs ∧ (u.flag Reg.pnlCtrl 2 = true → Rises u t 448) ∧
          (u.panelType = 1 → u.panelDark = false → ∃ lost, lost ≤ u.panelHeight ∧
            t.num Reg.pnlUnderrun = min (2 ^ 32 - 1) (u.num Reg.pnlUnderrun + min (late + lost) u.panelHeight) ∧
            ((∀ l, l < u.panelHeight → u.rangeCode { id := Init.pnl, mmode := false, vc := 0 } (u.panelFb + u32 u.panelBody 0x48 * l) (4 * u.panelWidth) false = Code.ok) →
              lost = 0)) ∧
          (u.panelType ≠ 1 → t.num Reg.pnlUnderrun = u.num Reg.pnlUnderrun) ∧
          ∀ r, u.pnl.regions = [r] → r.kind = 2 → r.fresh = false → u.pnl.stage = .rest →
            (u.panelType = 2 → let a := u.journalBase + 256 * (u.pnl.seq % 16)
              t.pnl.seq = (u.pnl.seq + 1) % 2 ^ 32 ∧ (u.storeLocks (engineWho Init.pnl) a 256 = false → u.partialBad a 256 = none → t.bytes a 4 = leBytes 4 u.pnl.seq)) ∧
            if r.phase + 1 < u.modeFrames r.mode then t.pnl.regions = [{ r with phase := r.phase + 1 }]
            else t.pnl.regions = [] ∧ Rises u t 449 ∧ (r.recovery = true → Rises u t 451)) ∧
    (s.panelRuns = false ∨ s.panelType = 0 → ∀ late, Idles (.panelFrameStart late) s)

/-! ### Milio (15) -/

/-- R585, R587, R589, R590, R599, R605: a packet with a bad CRC is counted, recorded and answered by a NAK, and later ones are discarded; a copy already on its way out ends with an invalid CRC; one out of
order is acknowledged again and dropped; one in order is acknowledged and switched: one whose hops are used up, or without a route, is dropped and counted, another goes on with one hop less; one for this node that
no hardware user takes and no buffer receives waits until 1 ms drops it.
(Commands shown to complete: packet, rxfullTimeout.)
(The model's own choices it meets: log entries 43, 153.) -/
def Obligations.MilioPacketsAreCheckedInOrder : Prop :=
  ∀ (s : State) (l : Nat), l < 4 →
    let carries := s.linkExists l = true ∧ s.awake = true ∧ s.fenced Region.link = false ∧
      (s.linkState l = Link.up ∨ s.linkState l = Link.align ∨ s.linkState l = Link.miswired)
    let told := fun kind a b : Nat => ({ kind := .linkControl, dest := l, bytes := leBytes 1 kind ++ leBytes 2 a ++ leBytes 2 b } : Sent)
    (∀ b, ¬ carries ∨ b.length < 20 → Idles (.packet l b) s) ∧
    (∀ b, carries → 20 ≤ b.length → packetIntact b = false → Completes (.packet l b) s fun t =>
      OnlyRegsFlt { s with mil := t.mil, outbox := t.outbox } t [Reg.milCrcerr (l / 2)] ∧
        t.num (Reg.milCrcerr (l / 2)) = min (2 ^ 32 - 1) (s.num (Reg.milCrcerr (l / 2)) + 1) ∧ t.milLink l = { s.milLink l with discarding := true } ∧
        ∃ early, t.outbox = s.outbox ++ early ++ [told 2 (u16 b 8 % 4096) 0] ∧
          (∀ e ∈ early, e.kind = .milio ∧ e.dest ≠ l ∧ crc32 (e.bytes.take (e.bytes.length - 4)) ≠ u32 e.bytes (e.bytes.length - 4)) ∧
          (s.linkState l ≠ Link.up ∨ u16 b 8 % 4096 ≠ (s.milLink l).expect ∨ u8 b 5 ≤ 1 → early = [])) ∧
    (∀ b, carries → 20 ≤ b.length → packetIntact b = true → bit s.inj.proofLinks l = false → s.inj.run = none →
      let seq := u16 b 8 % 4096
      let n := u16 b 6
      let p : MilPacket := { dst := u16 b 0 % 2 ^ 14, src := u16 b 2 % 2 ^ 14, vc := u8 b 4 % 8, hops := u8 b 5, bcast := bit (u16 b 0) 15,
                             payload := slice b 16 n, ingress := l + 1, credits := creditsFor n false }
      let plain := bit (u8 b 4) 4 = false ∧ bit (u8 b 4) 3 = false ∧ s.vcEnc l p.vc = false ∧ s.linkState l = Link.up ∧ p.bcast = false
      let port := l / 2
      let untaken := p.vc < 6 ∧ s.fusTakes Kind.milio (p.vc % 8 + port % 2 * 8 + u16 p.payload 0 * 16) = false ∧ s.metRuns = false ∧
        s.latchOffered (.milio port p.vc (u16 p.payload 0)) = false ∧ Lfr.type (p.payload.drop 4) ≠ Frame.status
      (seq ≠ (s.milLink l).expect → (s.milLink l).discarding = true → Idles (.packet l b) s) ∧
      (seq ≠ (s.milLink l).expect → (s.milLink l).discarding = false → Completes (.packet l b) s fun t =>
        t = { s with outbox := s.outbox ++ [told 0 (((s.milLink l).expect + 4095) % 4096) 0] }) ∧
      (seq = (s.milLink l).expect → plain → p.dst ≠ s.blk.node → p.hops ≤ 1 → Completes (.packet l b) s fun t =>
        OnlyRegs { s with mil := t.mil, outbox := t.outbox } t [Reg.milDrops (l / 2)] ∧ Raised s t [] ∧
          t.fld (Reg.milDrops (l / 2)) 15 8 = min 255 (s.fld (Reg.milDrops (l / 2)) 15 8 + 1) ∧
          t.milLink l = { s.milLink l with expect := (seq + 1) % 4096, discarding := false } ∧
          t.outbox = s.outbox ++ [told 0 seq 0, told 1 p.vc p.credits]) ∧
      (seq = (s.milLink l).expect → plain → p.dst ≠ s.blk.node → 1 < p.hops → Completes (.packet l b) s fun t =>
        let u := { s.setMilLink l { s.milLink l with expect := (seq + 1) % 4096, discarding := false } with outbox := s.outbox ++ [told 0 seq 0] }
        match u.route p.dst with
        | (r, .via k) => if k = l then t.fld (Reg.milDrops (l / 2)) 23 16 = min 255 (s.fld (Reg.milDrops (l / 2)) 23 16 + 1)
            else t = r.milSend k { p with hops := p.hops - 1 }
        | _ => t.fld (Reg.milDrops (l / 2)) 23 16 = min 255 (s.fld (Reg.milDrops (l / 2)) 23 16 + 1)) ∧
      (seq = (s.milLink l).expect → plain → p.dst = s.blk.node → untaken → (s.milLink l).held = [] →
        (s.vcRings port p.vc = false ∨ ringFill (s.rxRing port p.vc).2 (s.num (Reg.milRxhead port p.vc)) (s.num (Reg.milRxtail port p.vc)) = 0) →
        Completes (.packet l b) s fun t => t = { s with mil := t.mil, outbox := s.outbox ++ [told 0 seq 0] } ∧
          t.milLink l = { s.milLink l with expect := (seq + 1) % 4096, discarding := false, held := [(s.chip.up, s.now, false, p)] })) ∧
    (∀ k, k < 6 → match (s.milLink k).held with
      | [] => Idles (.rxfullTimeout k) s
      | x :: rest => (∀ y ∈ rest, y.2.2.2.vc < 8) → Completes (.rxfullTimeout k) s fun t =>
          t.fld (Reg.milDrops (portOf k)) 7 0 = min 255 (s.fld (Reg.milDrops (portOf k)) 7 0 + 1) ∧ t.mode = s.mode ∧
            t.chip.up = (s.elapse ((x.1 + 1000000 - s.chip.up + 3) / 4)).chip.up ∧ (rest = [] → (t.milLink k).held = [])) ∧
    (∀ e, e < 6 → match s.eth.held.get e with
      | [] => Idles (.rxfullTimeout (8 + e)) s
      | x :: rest => Completes (.rxfullTimeout (8 + e)) s fun t =>
          let u := s.elapse ((x.1 + 1000000 - s.chip.up + 3) / 4)
          t = { u with eth := t.eth } ∧ t.eth.held.get e = rest)

/-- R584 to R586, R590, R597, R598: a NAK, or 100 µs without an acknowledgement, resends what is held from there on, and after 16 resends the link retrains; returned credits come back up to the
channel's share; a channel without credits shows STALL; a transmit entry leaves on its route link or completes with its status; a receive tail posts buffers.
(Commands shown to complete: nak, ackTimeout, txRingTail, vcStall, creditReturn, rxRingTail.)
(The model's own choices it meets: log entries 108, 109.) -/
def Obligations.MilioLinksRetryAndServeRings : Prop :=
  ∀ (s : State) (l : Nat), l < 4 →
    let acts := s.linkActs l = true
    let carries := acts ∧ Link.align ≤ s.linkState l ∧ s.linkState l ≠ Link.down
    let resent := fun (s : State) (seq : Nat) (t : State) =>
      let keep := (s.milLink l).sent.takeWhile fun e => e.seq != seq
      let again := (s.milLink l).sent.dropWhile fun e => e.seq != seq
      if (again.any fun e => decide (16 ≤ e.resends)) = true then
        t.linkState l = (if s.linkEnabled l then Link.train else Link.off) ∧ Rises s t (s.milSource l 2) ∧
          t.num (Reg.milRetrains (l / 2)) = min (2 ^ 32 - 1) (s.num (Reg.milRetrains (l / 2)) + 1) ∧
          (t.milLink l).sent = (s.milLink l).sent.map fun e => { e with resends := 0 }
      else OnlyRegs { s with mil := t.mil, outbox := t.outbox } t [Reg.milRetries (l / 2)] ∧ Raised s t [] ∧
        t.num (Reg.milRetries (l / 2)) = min (2 ^ 32 - 1) (s.num (Reg.milRetries (l / 2)) + again.length) ∧
        (t.milLink l).sent = keep ++ again.map (fun e => { e with resends := e.resends + 1, time := s.chip.up }) ∧
        t.outbox = s.outbox ++ again.map fun e => { kind := .milio, dest := l, bytes := e.bytes }
    (∀ seq, (carries → Completes (.nak l seq) s (resent s (seq % 4096))) ∧ (¬ carries → Idles (.nak l seq) s)) ∧
    (∀ e r, (s.milLink l).sent = e :: r → (carries → Completes (.ackTimeout l) s (resent (s.elapse ((e.time + 100000 - s.chip.up + 3) / 4)) e.seq)) ∧ (¬ carries → Idles (.ackTimeout l) s)) ∧
    ((s.milLink l).sent = [] → Idles (.ackTimeout l) s) ∧
    (∀ ack v n, ack < 4096 → v < 9 → acts → Completes (.creditReturn l ack v n) s fun t => t.mode = s.mode ∧
      ((∀ k c, (s.milVc k c).waiting = []) → (∀ p c, s.txFill p c = 0) →
        t.milVc l v = { s.milVc l v with credits := min (s.vcCred l v) ((s.milVc l v).credits + n) } ∧
        (t.milLink l).sent = if ((s.milLink l).sent.any fun e => e.seq == ack) = true
          then ((s.milLink l).sent.dropWhile fun e => e.seq != ack).drop 1 else (s.milLink l).sent)) ∧
    (¬ acts → ∀ ack v n, Idles (.creditReturn l ack v n) s) ∧
    (∀ v, v < 8 → match (s.milVc l v).waiting with
      | [] => Idles (.vcStall l v) s
      | p :: _ =>
        if s.linkUp l = true ∧ s.awake = true ∧ (s.milVc l v).credits < creditsFor p.payload.length (s.vcEnc l v) ∧
            s.flag (Reg.milVstate (l / 2) v) 31 = false then
          Completes (.vcStall l v) s fun t => let u := s.elapse (((s.milVc l v).since + 10000000 - s.chip.up + 3) / 4)
            OnlyRegs u t [Reg.milVstate (l / 2) v] ∧ Raised u t [s.milSource l 6] ∧ t.flag (Reg.milVstate (l / 2) v) 31 = true
        else Idles (.vcStall l v) s) ∧
    (∀ (o : State) (w : Who) (p v : Nat) (x : Word), p < 2 → v < 8 → o.admits w (Reg.milTxtail p v) x s →
      let u := s.setNum (Reg.milTxtail p v) (field x 11 0)
      let a := u.txHeadAddr p v + 0xA
      let done := fun (t : State) (status : Nat) => t.num (Reg.milTxhead p v) = (u.num (Reg.milTxhead p v) + 1) % max 1 (u.txRing p v).2 ∧
        (u.storeLocks (milWho p v) a 2 = false → u.partialBad a 2 = none → t.bytes a 2 = leBytes 2 (0x8000 + status))
      (u.txFill p v = 0 → Writes (.txRingTail w p v x) o s [Reg.milTxtail p v] [] fun t => t.num (Reg.milTxtail p v) = field x 11 0) ∧
      (u.txFill p v = 1 → Completes (.txRingTail w p v x) o fun t => Acked t ∧ t.num (Reg.milTxtail p v) = field x 11 0 ∧
        match u.headPacket p v with
        | .error (_, c) => done t c
        | .ok m =>
          if m.bcast = true ∨ m.dst = s.blk.node then done t Tx.sent ∧ (s.variant.hasMil p = true → ∃ y, t.mil.loop = s.mil.loop ++ [(p, y)] ∧ y.payload = m.payload ∧ y.vc = v)
          else match u.route m.dst with
            | (_, .none) => done t Tx.noRoute
            | (_, .down) => done t Tx.linkDown
            | (r, .via k) => (r.milVc k v).waiting = [] →
                if r.milReady k m then done t Tx.sent ∧
                  { kind := .milio, dest := k, bytes := milBytes m (r.milLink k).nextSeq (if r.vcEnc k v then (r.milVc k v).tx else none) (r.milVc k v).lcnt }
                    ∈ t.outbox
                else t.num (Reg.milTxhead p v) = u.num (Reg.milTxhead p v) ∧ t.mem = u.mem ∧ t.outbox = u.outbox)) ∧
    (∀ (o : State) (w : Who) (p v : Nat) (x : Word), p < 2 → v < 8 → o.admits w (Reg.milRxtail p v) x s →
      (∀ k, (s.milLink k).held = []) → Completes (.rxRingTail w false p v x) o fun t => Acked t ∧ t.num (Reg.milRxtail p v) = field x 11 0) ∧
    (∀ (o : State) (w : Who) (e : Nat) (x : Word), e < 6 → o.admits w (Reg.ethRxtail e) x s → s.eth.held.get e = [] →
      Writes (.rxRingTail w true e 0 x) o s [Reg.ethRxtail e] [] fun t => t.num (Reg.ethRxtail e) = field x 11 0)

/-- R581, R591, R600: a link with block lock aligns and tells who it is, the expected peer's LINKINFO brings it UP and another's makes it MISWIRED, the loss of block lock takes it DOWN, and it trains again of
itself or by MIL.CTRL, each change with its interrupt.
(Commands shown to complete: linkinfo, blockLockLost, linkRetrain, blockLockGained.)
(The model's own choices it meets: log entry 108.) -/
def Obligations.MilioLinksTrainAndMeetTheirPeer : Prop :=
  ∀ (s : State) (l : Nat), l < 4 →
    let acts := s.linkActs l = true
    let idle := Link.off
    (if acts ∧ s.linkState l ∉ [idle, Link.train, Link.down] then Completes (.blockLockLost l) s fun t =>
        t.linkState l = Link.down ∧ (t.milLink l).told = false ∧ (t.milLink l).heard = false ∧ t.mode = s.mode ∧
          (s.linkState l = Link.up → Rises s t (s.milSource l 1))
      else Idles (.blockLockLost l) s) ∧
    (if acts ∧ s.linkState l = Link.train then Completes (.blockLockGained l) s fun t =>
        t.linkState l = Link.align ∧ (t.milLink l).told = true ∧ t.mode = s.mode ∧ t.mem = s.mem ∧ Raised s t []
      else Idles (.blockLockGained l) s) ∧
    (if acts ∧ s.linkState l = Link.down then Completes (.linkRetrain l none) s fun t =>
        t.linkState l = (if s.linkEnabled l then Link.train else idle) ∧ (t.milLink l).told = false ∧ (t.milLink l).heard = false ∧
        let u := s.elapse (((s.milLink l).since + 10000000 - s.chip.up + 3) / 4)
        OnlyRegs { u with mil := t.mil } t [Reg.milStatus (l / 2)] ∧ Raised u t []
      else Idles (.linkRetrain l none) s) ∧
    (∀ (o : State) (w : Who) (v : Word), let r := Reg.milCtrl (l / 2)
      o.admits w r v s → Completes (.linkRetrain l (some (w, v))) o fun t => Acked t ∧
        t.num r = v.toNat / 2 ^ 8 % 4 * 2 ^ 8 + ofBool (s.flag r 0 || bit v.toNat 0) ∧ t.mode = s.mode ∧ t.mem = s.mem ∧
        t.linkState l =
          if s.linkExists l = false then s.linkState l
          else if bit v.toNat (8 + l % 2) = false then idle
          else if s.linkState l = idle ∨ bit v.toNat (4 + l % 2) = true then Link.train else s.linkState l) ∧
    ∀ payload,
      let node := u16 payload 4 % 2 ^ 14
      let want := u16 s.linkStruct (0x330 + 2 * l)
      let heard := acts ∧ 12 ≤ payload.length ∧ u8 payload 0 = 1 ∧ s.linkState l ∈ [Link.align, Link.miswired, Link.up]
      let wrong := want ≠ 0xFFFF ∧ want ≠ node
      (¬ heard → Idles (.linkinfo l payload) s) ∧
      (heard → Completes (.linkinfo l payload) s fun t => (t.milLink l).heard = true ∧ (t.milLink l).peer = node ∧ t.mode = s.mode ∧
        (if l % 2 = 0 then t.fld (Reg.milNeigh (l / 2)) 13 0 else t.fld (Reg.milNeigh (l / 2)) 29 16) = node ∧
        t.linkState l = (if wrong then Link.miswired
          else if s.linkState l = Link.up ∨ (s.milLink l).told = false then s.linkState l else Link.up) ∧
        (wrong → s.linkState l ≠ Link.miswired → Rises s t (s.milSource l 3)) ∧
        (¬ wrong → s.linkState l ≠ Link.up → (s.milLink l).told = true → Rises s t (s.milSource l 0) ∧
          ∀ e ∈ (s.milLink l).sent, { kind := .milio, dest := l, bytes := e.bytes } ∈ t.outbox))

/-- R593 to R595, R659: a KX packet with the peer's public value gives an encrypted channel the keys of both directions under the generation, derived from the link root, or the exchange fails; software starts a
new generation; an exchange that lasts 10 ms fails, and after 100 ms it is tried again.
(Commands shown to complete: kx, keyctl, kxTimeout.)
(The model's own choices it meets: log entries 13, 110.) -/
def Obligations.MilioChannelsAgreeOnKeys : Prop :=
  ∀ (s : State) (l : Nat), l < 4 →
    (∀ payload,
      let v := u8 payload 1
      let gen := u16 payload 2
      let takes := s.linkActs l = true ∧ 60 ≤ payload.length ∧ u8 payload 0 = 3 ∧ v < 8 ∧ s.linkState l = Link.up ∧ s.vcEnc l v = true
      (¬ takes → Idles (.kx l payload) s) ∧
      (takes → Completes (.kx l payload) s fun t => t.mode = s.mode ∧ Rises s t (s.milSource l 7) ∧
        (s.linkRoot (l / 2) v = none → (t.milVc l v).failed = true ∧ (t.milVc l v).kx = none ∧ (t.milVc l v).tx = (s.milVc l v).tx) ∧
        ∀ root k, s.linkRoot (l / 2) v = some root → (s.milVc l v).kx = some k → k.kgen = gen →
          let pub := slice payload 4 56
          let z := Config.x448Shared k.key pub
          let own := Config.x448Public k.key
          let low := s.blk.node ≤ (s.milLink l).peer
          let key := fun dir => if low then linkKey root z own pub s.blk.node (s.milLink l).peer v gen dir
            else linkKey root z pub own (s.milLink l).peer s.blk.node v gen dir
          if (z.all (· == 0#8)) = true then (t.milVc l v).failed = true ∧ (t.milVc l v).kx = none
          else (t.milVc l v).tx = some { kgen := gen, key := key (if low then 0 else 1) } ∧
            (t.milVc l v).rx = some { kgen := gen, key := key (if low then 1 else 0) })) ∧
    (∀ (o : State) (w : Who) (x : Word), o.admits w (Reg.milKeyctl (l / 2)) x s →
      (field x 31 16 ≠ 0x4B58 → Writes (.keyctl w (l / 2) x) o s [] [] fun _ => True) ∧
      (field x 31 16 = 0x4B58 → Completes (.keyctl w (l / 2) x) o fun t => Acked t ∧ t.mode = s.mode ∧
        let v := field x 2 0
        if s.linkUp l = true ∧ s.vcEnc l v = true then (t.milVc l v).kx.map MilKey.kgen = some (((s.milVc l v).lastGen + 1) % 65536) ∧
          (t.milVc l v).failed = false ∧ (t.milVc l v).kxSince = s.chip.up
        else t.milVc l v = s.milVc l v)) ∧
    ∀ v, v < 8 →
      let c := s.milVc l v
      if s.linkActs l = false ∨ s.linkState l ≠ Link.up ∨ s.vcEnc l v = false ∨ (c.kx = none ∧ c.failed = false) then Idles (.kxTimeout l v) s
      else Completes (.kxTimeout l v) s fun t =>
        (c.kx ≠ none → let u := s.elapse ((c.kxSince + 10000000 - s.chip.up + 3) / 4)
          OnlyRegs { u with mil := t.mil } t [] ∧ t.milVc l v = { c with kx := none, kxSince := u.chip.up, failed := true } ∧ Rises u t (s.milSource l 7)) ∧
        (c.kx = none → let u := s.elapse ((c.kxSince + 100000000 - s.chip.up + 3) / 4)
          (t.milVc l v).kx.map MilKey.kgen = some ((c.lastGen + 1) % 65536) ∧ (t.milVc l v).failed = false ∧ (t.milVc l v).kxSince = u.chip.up)

/-! ### Ethernet (15) -/

/-- R602, R603, R605: a frame of a wrong length or for another destination, and one with a bad FCS, are counted and dropped; of the others TIM takes a PTP message of a port with a role and FUS a datagram of a stream, and
those go to the receive ring only where the port passes on what it takes; a frame nothing takes goes to the receive ring; transmit entries leave while the link is up; MDIO runs its access; a change of a link is shown and raised.
(Commands shown to complete: ethFrame, ethTxTail, ethMdio, ethLinkChange.)
(The model's own choices it meets: log entry 111.) -/
def Obligations.EthernetPortsReceiveSendAndReport : Prop :=
  ∀ (s : State) (e : Nat), e < 6 →
    let dropsAt := fun (f : List Byte) (m : Option PtpMessage) (hi lo : Nat) => Alters (.ethFrame e f m) s [Reg.ethDrops e] [] fun t =>
      t.fld (Reg.ethDrops e) hi lo = min 65535 (s.fld (Reg.ethDrops e) hi lo + 1)
    (∀ f m,
      let n := f.length
      let body := f.take (n - 4)
      let runs := s.ethRuns e = true ∧ s.ethLink e = true
      let whole := crc32 body = u32 f (n - 4)
      let fits := 64 ≤ n ∧ n ≤ 1522
      let mine := s.ethAccepts e (slice f 0 6) = true
      (¬ runs → Idles (.ethFrame e f m) s) ∧
      (runs → ¬ fits → dropsAt f m 31 16) ∧ (runs → fits → ¬ whole → dropsAt f m 15 0) ∧ (runs → fits → whole → ¬ mine → dropsAt f m 31 16) ∧
      let passed := fun (u : State) => if s.ethFlag e 4 then u.ringEth e body else u
      (∀ p, m = some p → runs → fits → whole → mine → s.ptpRole (e + 1) ≠ 0 → exec (.ethFrame e f m) s = .next (passed (s.takePtp (e + 1) p))) ∧
      (∀ udp data, m = none → udpOf body = some (udp, data) → runs → fits → whole → mine → e < 2 → s.fusTakes Kind.eth (udp % 65536 + e * 65536) = true →
        exec (.ethFrame e f m) s = .next (passed (s.fusEth e udp s.now data))) ∧
      let untaken := match m with
        | some _ => s.ptpRole (e + 1) = 0
        | none => ∀ udp data, udpOf body = some (udp, data) → 2 ≤ e ∨ s.fusTakes Kind.eth (udp % 65536 + e * 65536) = false
      (runs → fits → whole → mine → untaken → s.eth.held.get e = [] →
        let r := s.ethRxRing e
        let head := s.num (Reg.ethRxhead e)
        let a := r.1 + 16 * (head % max 1 r.2)
        Completes (.ethFrame e f m) s fun t => t.mode = s.mode ∧
          if ringFill r.2 head (s.num (Reg.ethRxtail e)) = 0 then t = { s with eth := t.eth } ∧ t.eth.held.get e = [(s.chip.up, s.now, body)]
          else t.eth.held.get e = [] ∧ t.num (Reg.ethRxhead e) = (head + 1) % max 1 r.2 ∧ 
            (s.storeLocks ethWho (a + 6) 10 = false → s.partialBad (a + 6) 10 = none →
              t.bytes (a + 6) 10 = leBytes 2 body.length ++ leBytes 2 0 ++ leBytes 2 0x8000 ++ leBytes 4 (s.now % 1000000000)) ∧
            (s.badWordIn a 16 = none → s.rangeCode ethWho (entryAddr (s.bytes a 16)) body.length true = Code.ok →
              (∀ i, i < 10 → a + 6 + i < entryAddr (s.bytes a 16) ∨ entryAddr (s.bytes a 16) + body.length ≤ a + 6 + i) →
              t.bytes (entryAddr (s.bytes a 16)) body.length = body) ∧ (entryFlag (s.bytes a 16) 1 = true → Rises s t (384 + 2 * e)))) ∧
    (∀ (o : State) (w : Who) (x : Word), o.admits w (Reg.ethTxtail e) x s →
      let u := s.setNum (Reg.ethTxtail e) (field x 11 0)
      let r := u.ethTxRing e
      let a := r.1 + 16 * (u.num (Reg.ethTxhead e) % max 1 r.2)
      let b := u.bytes a 16
      let done := fun (t : State) (status : Nat) =>
        (u.storeLocks ethWho (a + 0xA) 2 = false → u.partialBad (a + 0xA) 2 = none → t.bytes (a + 0xA) 2 = leBytes 2 (0x8000 + status)) ∧
        t.num (Reg.ethTxhead e) = (u.num (Reg.ethTxhead e) + 1) % max 1 r.2
      (u.ethFill e = 0 ∨ s.ethLink e = false → Writes (.ethTxTail w e x) o s [Reg.ethTxtail e] [] fun t => t.num (Reg.ethTxtail e) = field x 11 0) ∧
      (u.ethFill e = 1 → s.ethLink e = true → Completes (.ethTxTail w e x) o fun t => Acked t ∧
        if u.badWordIn a 16 ≠ none ∨ entryLen b = 0 ∨ 2048 < entryLen b ∨ u.rangeCode ethWho (entryAddr b) (entryLen b) false ≠ Code.ok then done t Tx.denied
        else done t Tx.sent ∧ t.outbox = s.outbox ++ [{ kind := .ethernet, dest := e, bytes := u.bytes (entryAddr b) (entryLen b) }])) ∧
    (∀ (o : State) (w : Who) (x : Word) (data : Nat), o.admits w Reg.ethMdio x s →
      let v := x &&& 0xE3FFFFFF#32
      (bit x.toNat 31 = false → Writes (.ethMdio w x data) o s [Reg.ethMdio] [] fun t => t.reg Reg.ethMdio = v) ∧
      (bit x.toNat 31 = true → Completes (.ethMdio w x data) o fun t => Acked t ∧ OnlyRegs { s with outbox := t.outbox } t [Reg.ethMdio] ∧ Raised s t [396] ∧
        t.outbox = s.outbox ++ [{ kind := .mdio, dest := field x 29 29, bytes := leBytes 4 (v.toNat % 2 ^ 31) }] ∧
        t.flag Reg.ethMdio 31 = false ∧ t.fld Reg.ethMdio 30 16 = v.toNat / 65536 % 32768 ∧
        t.fld Reg.ethMdio 15 0 = if bit x.toNat 30 = true then data % 65536 else x.toNat % 65536)) ∧
    ∀ link speed,
      let fixed := u8 s.linkStruct (ethEntry e + 1)
      let shown := ofBool link * 2 ^ 31 + if 2 ≤ e then 4 else if fixed = 0 then speed % 8 else fixed
      if s.ethRuns e = false ∨ s.num (Reg.ethPstate e) = shown then Idles (.ethLinkChange e link speed) s
      else Completes (.ethLinkChange e link speed) s fun t =>
        t.num (Reg.ethPstate e) = shown ∧ t.flag Reg.ethStatus e = link ∧ t.mode = s.mode ∧ Rises s t (385 + 2 * e)

/-! ### CAN FD (16) -/

/-- R607 to R612: an error-free frame goes where the first filter element that accepts it says, with its timestamps and data: a FIFO, a receive buffer or a high-priority buffer, a full one losing a frame and
counting it; one that no element accepts goes where the controller says, with a filter number that is free; software consumes FIFO entries and releases high-priority buffers.
(Commands shown to complete: canFrame, fifoAck, hprel.)
(The model's own choices it meets: log entry 112.) -/
def Obligations.CanFramesGoWhereTheirFilterSays : Prop :=
  ∀ (s : State) (k : Nat), k < 4 →
    (∀ id ctl data errors, s.canRuns k = false ∨ s.canIs k Can.busOff = true → Idles (.canFrame k id ctl data errors) s) ∧
    (∀ id ctl data errors n target, s.canRuns k = true → s.canIs k Can.busOff = false → ∀ action,
      ((List.range 128).find? (fun f => (s.canElement k f).accepts id) = some n ∧ action = (s.canElement k n).action ∧ target = (s.canElement k n).target ∨
        (List.range 128).find? (fun f => (s.canElement k f).accepts id) = none ∧ action = u8 s.linkStruct (canEntry k + 2) / 8 % 4 % 3 ∧ target = 0 ∧
          n = (Config.freeWord s.freeCounter).toNat % 128) →
      let bytes := canElementBytes id (ctl % 128 + 256 * n) s.canTsc (stampWord s.now) data
      let holds := fun (t : State) (o : Nat) => t.canWords k o 24 = bytes
      let counted := fun t : State => t.num (Reg.canLost k) = min (2 ^ 32 - 1) (s.num (Reg.canLost k) + 1)
      let lost := fun t : State => counted t ∧ Rises s t (canSource k 7)
      Completes (.canFrame k id ctl data errors) s fun t =>
        (action = 1 ∨ action = 2 →
          let r := if action = 1 then Reg.canF0stat k else Reg.canF1stat k
          let base := if action = 1 then 0x2800 else 0x3400
          let fill := s.fld r 21 16
          let get := s.fld r 4 0
          if fill < 32 then t.fld r 21 16 = fill + 1 ∧ t.fld r 4 0 = get ∧ holds t (base + 0x60 * ((get + fill) % 32)) ∧ Rises s t (canSource k 4)
          else if s.canFlag k (4 + action) then t.fld r 21 16 = fill ∧ t.fld r 4 0 = (get + 1) % 32 ∧ holds t (base + 0x60 * get) ∧ lost t
          else t.fld r 21 16 = fill ∧ t.fld r 4 0 = get ∧ lost t) ∧
        (action = 3 → holds t (canBuffer target) ∧ t.pairBit (Reg.canRxnewLo k) (Reg.canRxnewHi k) target = true ∧
          Rises s t (canSource k 4) ∧ (s.pairBit (Reg.canRxnewLo k) (Reg.canRxnewHi k) target = true → lost t)) ∧
        (action = 4 → let h := target % 4
          holds t (0x4000 + 0x60 * h) ∧ t.flag (Reg.canHpstat k) h = true ∧ Rises s t (canSource k h) ∧
            (s.flag (Reg.canHpstat k) h = true → counted t)) ∧
        (s.canIs k Can.restricted = true → t.num (Reg.canEcr k) = s.num (Reg.canEcr k)) ∧
        (s.canIs k Can.restricted = false → t.num (Reg.canEcr k) = min 255 errors.recv * 256 + min 255 errors.tec)) ∧
    (∀ (o : State) (w : Who) (f : Nat) (v : Word), f < 2 → o.admits w (if f = 0 then Reg.canF0ack k else Reg.canF1ack k) v s →
      let r := if f = 0 then Reg.canF0stat k else Reg.canF1stat k
      let n := min (field v 5 0) (s.fld r 21 16)
      Writes (.fifoAck w k f v) o s [r] [] fun t => t.fld r 21 16 = s.fld r 21 16 - n ∧ t.fld r 4 0 = (s.fld r 4 0 + n) % 32) ∧
    ∀ (o : State) (w : Who) (v : Word), o.admits w (Reg.canHprel k) v s →
      Writes (.hprel w k v) o s [Reg.canHpstat k] [] fun t => ∀ h, h < 4 → t.flag (Reg.canHpstat k) h = (s.flag (Reg.canHpstat k) h && !bit v.toNat h)

/-- R613 to R616, R618, R619: requested buffers transmit, an end clears the request and sets TXDONE or TXFAIL, and a withdrawal ends those not started; a controller goes bus-off, recovers and restricts itself as CAN.CTRL
and its errors say.
(Commands shown to complete: txreq, txEnd, txcan, busOff, recover, recoveryDone.)
(The model's own choices it meets: log entry 112.) -/
def Obligations.CanControllersTransmitAndRecover : Prop :=
  ∀ (s : State) (k : Nat), k < 4 →
    let failed := fun (t : State) b => t.pairBit (Reg.canTxfailLo k) (Reg.canTxfailHi k) b
    let sent := fun (t : State) b => t.pairBit (Reg.canTxdoneLo k) (Reg.canTxdoneHi k) b
    let named := fun (high : Bool) (v : Word) (b : Nat) => if high then 32 ≤ b ∧ bit v.toNat (b - 32) = true else b < 32 ∧ bit v.toNat b = true
    (∀ (o : State) (w : Who) (high : Bool) (v : Word), o.admits w (if high then Reg.canTxreqHi k else Reg.canTxreqLo k) v s →
      Completes (.txreq w k high v) o fun t => Acked t ∧ t = { s with regs := t.regs, can := t.can, bus := t.bus } ∧
        (∀ b, b < 64 → t.txreq k b = if named high v b ∧ s.isReceiveBuffer k b = false then true else s.txreq k b) ∧
        (s.canSends k = true → (∃ b, b < 64 ∧ named high v b ∧ s.isReceiveBuffer k b = false) → t.can.onBus.get k ≠ 0)) ∧
    (∀ ok errors, let u := s.canStart k
      Completes (.txEnd k ok errors) s fun t => t.mode = s.mode ∧
        (u.can.onBus.get k = 0 ∨ s.canSends k = false → t = u) ∧
        (∀ b, u.can.onBus.get k = 2 + b → b < 64 → s.canSends k = true →
          (ok = true → t.txreq k b = false ∧ sent t b = true ∧ Rises s t (canSource k 5)) ∧
          (ok = false → s.fld (Reg.canCtrl k) 7 4 ≠ 0 → t.txreq k b = false ∧ failed t b = true ∧ Rises s t (canSource k 5)) ∧
          (ok = false → s.fld (Reg.canCtrl k) 7 4 = 0 → t.can = u.can ∧ t.txreq k b = s.txreq k b)) ∧
        (∀ f rest, u.can.onBus.get k = 1 → u.can.latch.get k = f :: rest → s.canSends k = true → ok = true →
          { kind := .can, dest := k, bytes := leBytes 4 f.1 ++ leBytes 4 (s.latchCtl k f.2.length) ++ f.2 } ∈ t.outbox ∧ (t.can.latch.get k).length = rest.length)) ∧
    (∀ (o : State) (w : Who) (high : Bool) (v : Word), o.admits w (if high then Reg.canTxcanHi k else Reg.canTxcanLo k) v s →
      Completes (.txcan w k high v) o fun t => Acked t ∧
        OnlyRegs s t [Reg.canTxreqLo k, Reg.canTxreqHi k, Reg.canTxfailLo k, Reg.canTxfailHi k] ∧
        ∀ b, b < 64 → if named high v b ∧ s.txreq k b = true ∧ s.can.onBus.get k ≠ 2 + b then
            t.txreq k b = false ∧ failed t b = true ∧ Rises s t (canSource k 5)
          else t.txreq k b = s.txreq k b ∧ failed t b = failed s b) ∧
    (∀ errors, if s.canRuns k = true ∧ s.canIs k Can.busOff = false ∧ s.canIs k Can.restricted = false then
        Completes (.busOff k errors) s fun t => t.canIs k Can.busOff = true ∧ t.can.onBus.get k = 0 ∧ t.can.recovering.get k = s.canFlag k 2 ∧
          t.mode = s.mode ∧ t.mem = s.mem ∧ t.num (Reg.canEcr k) = min 255 errors.recv * 256 + min 255 errors.tec ∧ Rises s t (canSource k 6)
      else Idles (.busOff k errors) s) ∧
    (∀ (o : State) (w : Who) (v : Word), o.admits w (Reg.canCtrl k) v s → Completes (.recover w k v) o fun t => Acked t ∧
      t.num (Reg.canCtrl k) = v.toNat % 2 + field v 7 4 * 16 + ofBool (s.flag (Reg.canCtrl k) 8 || bit v.toNat 8) * 256 ∧
      t.canIs k Can.restricted = bit v.toNat 0 ∧ t.mode = s.mode ∧ t.mem = s.mem ∧ t.plic = s.plic ∧
      t.can.recovering.get k = (s.can.recovering.get k || (bit v.toNat 1 && s.canIs k Can.busOff)) ∧
      (bit v.toNat 0 = true → s.canIs k Can.restricted = false → t.can.latch.get k = [] ∧ t.can.onBus.get k = 0 ∧
        t.num (Reg.canHwdrop k) = min (2 ^ 32 - 1) (s.num (Reg.canHwdrop k) + (s.can.latch.get k).length))) ∧
    (if s.canRuns k = true ∧ s.canIs k Can.busOff = true ∧ s.can.recovering.get k = true then Completes (.recoveryDone k) s fun t =>
        t.canIs k Can.busOff = false ∧ t.canIs k Can.passive = false ∧ t.canIs k Can.warn = false ∧ t.num (Reg.canEcr k) = 0 ∧
          t.can.recovering.get k = false ∧ t.chip.up = (s.elapse (s.ticksUntil (s.can.recoverFrom.get k + s.recoveryTime k))).chip.up ∧ Rises s t (canSource k 6)
      else Idles (.recoveryDone k) s)

/-! ### The host's ports (16) -/

/-- R36, R622 to R626: a host access reaches what its BAR maps, or ends in ABSENT or DENIED, and an error is counted and raised; the MSI-X table reads as written, and an unmasked vector with its pending bit set, or
whose source has become pending, sends its message; link changes, of which one that takes the link down resets the table as a function level reset does.
(Commands shown to complete: hostAccess, pcieLinkChange, flr, msiX.)
(The model's own choices it meets: log entry 113.) -/
def Obligations.PcieHostsAccessAndAreSignalled : Prop :=
  ∀ s : State,
    let word := fun i => leBytes 4 (s.pci.table.get i).toNat
    let message := fun v => ({ kind := .msix, dest := v, bytes := word (4 * v) ++ word (4 * v + 1) ++ word (4 * v + 2) } : Sent)
    let errs := fun (u t : State) (write : Bool) (code : Nat) => t.bus.code = code ∧ Rises u t 434 ∧
      if write then t.fld Reg.pciErr 15 0 = min 65535 (s.fld Reg.pciErr 15 0 + 1) else t.fld Reg.pciErr 31 16 = min 65535 (s.fld Reg.pciErr 31 16 + 1)
    (s.pciUp = false → ∀ bar off n d ecc slack, Idles (.hostAccess bar off n d ecc slack) s) ∧
    (s.pciUp = true → ∀ bar off n d ecc slack,
      (s.fenced Region.link = true → Completes (.hostAccess bar off n d ecc slack) s fun t => errs s t d.isSome Code.denied ∧ t.mem = s.mem) ∧
      (s.fenced Region.link = false → s.barTarget bar off n = none →
        (bar ≠ 0 ∨ off < 0xF00000 ∨ 0xF00400 < off + n ∧ off < 0xF08000 ∨ 0xF08008 < off + n) → Completes (.hostAccess bar off n d ecc slack) s fun t =>
        errs s t d.isSome Code.absent ∧ t.mem = s.mem) ∧
      (s.fenced Region.link = false → ∀ a, s.barTarget bar off n = some a → Completes (.hostAccess bar off n d ecc slack) s fun t =>
        let u := s.access Who.pcie a n d ecc slack
        let waits := u.ward.waiting.length ≠ s.ward.waiting.length
        t.bus = u.bus ∧ t.mem = u.mem ∧ (waits ∨ u.bus.code = Code.ok → t = u) ∧
          (¬ waits → u.bus.code ≠ Code.ok → OnlyRegs u t [Reg.pciErr] ∧ Raised u t [434] ∧
            if d.isSome then t.fld Reg.pciErr 15 0 = min 65535 (u.fld Reg.pciErr 15 0 + 1)
            else t.fld Reg.pciErr 31 16 = min 65535 (u.fld Reg.pciErr 31 16 + 1)))) ∧
    (s.pciUp = true → s.fenced Region.link = false →
      (∀ off n ecc slack, 0xF00000 ≤ off → off + n ≤ 0xF00400 → Completes (.hostAccess 0 off n none ecc slack) s fun t =>
        t = { s with bus := { code := Code.ok, data := s.readTable (off - 0xF00000) n } }) ∧
      (∀ off n ecc slack, 0xF08000 ≤ off → off + n ≤ 0xF08008 → Completes (.hostAccess 0 off n none ecc slack) s fun t =>
        t = { s with bus := { code := Code.ok, data := slice (leBytes 8 s.pci.pba) (off - 0xF08000) n } }) ∧
      (∀ v bs ecc slack, v < 64 → bs.length = 4 → s.pci.pba = (if bit s.pci.pba v then 2 ^ v else 0) →
        Completes (.hostAccess 0 (0xF0000C + 16 * v) 4 (some bs) ecc slack) s fun t =>
          Acked t ∧ t.vectorMasked v = bit (u8 bs 0) 0 ∧ (∀ k, k ≠ v → t.vectorMasked k = s.vectorMasked k) ∧
            (bit s.pci.pba v = true → bit (u8 bs 0) 0 = false → t.pci.pba = 0 ∧ t.outbox = s.outbox ++ [message v]) ∧
            (bit s.pci.pba v = false ∨ bit (u8 bs 0) 0 = true → t.pci.pba = s.pci.pba ∧ t.outbox = s.outbox))) ∧
    (if s.pciUp = true ∧ s.fenced Region.link = false then Completes .flr s fun t =>
        t = { s with pci := { s.pci with table := .empty, pba := 0 }, plic := t.plic } ∧ Raised s t [435] ∧ ∀ v, t.vectorMasked v = true
      else Idles .flr s) ∧
    (∀ v, v < 64 → let n := s.fld (Reg.pciVmap v) 8 0
      if s.pciUp = true ∧ s.fenced Region.link = false ∧ n ≠ 0 ∧ s.pendingSource n = true ∧ bit s.pci.told v = false then
        Completes (.msiX v) s fun t => t = { s with pci := t.pci, outbox := t.outbox } ∧ bit t.pci.told v = true ∧ t.pci.table = s.pci.table ∧
          (s.vectorMasked v = true → bit t.pci.pba v = true ∧ t.outbox = s.outbox) ∧
          (s.vectorMasked v = false → bit t.pci.pba v = false ∧ t.outbox = s.outbox ++ [message v])
      else Idles (.msiX v) s) ∧
    ∀ up rate width ltssm,
      if s.awake = true ∧ s.variant.hasPci = true ∧ s.fenced Region.link = false then
        Completes (.pcieLinkChange up rate width ltssm) s fun t => t.bus = s.bus ∧ OnlyRegs { s with pci := t.pci } t [Reg.pciStatus] ∧
          Raised s t (if s.flag Reg.pciStatus 31 = up then [] else if up then [432] else [433]) ∧
          t.pci = (if s.flag Reg.pciStatus 31 = true ∧ up = false then { s.pci with table := .empty, pba := 0 } else s.pci) ∧ t.flag Reg.pciStatus 31 = up ∧ t.fld Reg.pciStatus 19 16 = rate % 16 ∧ t.fld Reg.pciStatus 13 8 = width % 64 ∧
            t.fld Reg.pciStatus 5 0 = ltssm % 64
      else Idles (.pcieLinkChange up rate width ltssm) s

/-- R628, R629: the host SPI port answers ID at once, reads and writes words until the first bus error, ends each transaction with its code in HSP.STATUS and a count, and raises source 441 for an error; an
abandoned one keeps what it wrote and raises source 440.
(Commands shown to complete: spiId, spiRead, spiWrite, spiAbandon.)
(The model's own choices it meets: log entry 114.) -/
def Obligations.SpiHostsReadWriteAndAbandon : Prop :=
  ∀ s : State,
    (s.awake = false → Idles .spiId s ∧ (∀ a n, Idles (.spiRead a n) s) ∧ (∀ a ws, Idles (.spiWrite a ws) s) ∧ ∀ a n ws, Idles (.spiAbandon a n ws) s) ∧
    (s.awake = true →
    let answers := fun (u t : State) (bytes : List Byte) (code : Nat) => t.outbox = u.outbox ++ [{ kind := .spi, dest := 0, bytes := bytes }] ∧
      t.num Reg.hspStatus = code ∧ t.fld Reg.hspCounts 31 16 = (u.fld Reg.hspCounts 31 16 + 1) % 65536 ∧ t.mem = u.mem ∧
      (code ≠ Code.ok → Rises u t 441)
    (Completes .spiId s fun t => OnlyRegs { s with outbox := t.outbox } t [Reg.hspStatus, Reg.hspCounts] ∧ Raised s t [] ∧
      answers s t (leBytes 4 (s.num Reg.sysId)) Code.ok) ∧
    (∀ a n, Completes (.spiRead a n) s fun t => let r := spiReads (clampNat 1 64 n) a s
      r.2.2 < 2 ^ 32 → answers r.1 t (r.2.1 ++ leBytes 2 r.2.2) r.2.2) ∧
    (∀ a ws, Completes (.spiWrite a ws) s fun t => let r := spiWrites (ws.take 64) a s
      r.2 < 2 ^ 32 → answers r.1 t (leBytes 2 r.2) r.2) ∧
    (s.fenced Region.link = true → ∀ a n w ws,
      (Completes (.spiRead a n) s fun t => t.num Reg.hspStatus = Code.denied ∧ Rises s t 441 ∧ t.mem = s.mem) ∧
      Completes (.spiWrite a (w :: ws)) s fun t => t.num Reg.hspStatus = Code.denied ∧ Rises s t 441 ∧ t.mem = s.mem) ∧
    (∀ a (w : Word), s.fenced Region.link = false → inRegs a = false → s.silent Who.spi a 4 true = false → s.memCode Who.spi a 4 true = Code.ok →
      s.poison = [] → s.inj.run = none → s.slots.cells = [] →
      Completes (.spiWrite a [w]) s fun t => t.bytes a 4 = leBytes 4 w.toNat ∧ MemoryKept s t a (a + 4) ∧ t.num Reg.hspStatus = Code.ok) ∧
    (∀ a, s.fenced Region.link = false → inRegs a = false → s.silent Who.spi a 4 false = false → s.memCode Who.spi a 4 false = Code.ok →
      s.poison = [] → s.inj.run = none → s.slots.cells = [] →
      Completes (.spiRead a 1) s fun t => answers s t (s.bytes a 4 ++ leBytes 2 Code.ok) Code.ok) ∧
    (∀ a n ws, Completes (.spiAbandon a n ws) s fun t =>
      let r := spiReads (min 64 n) a s
      let u := if r.2.2 = Code.ok then (spiWrites (ws.take 64) a (if r.2.1.isEmpty then r.1 else r.1.send .spi 0 r.2.1)).1 else r.1
      (t.canRise 440 = true → t.pendingSource 440 = true) ∧ t.bus = u.bus ∧ t.mem = u.mem ∧
      (n = 0 → ws = [] → OnlyRegs s t [Reg.hspStatus, Reg.hspCounts] ∧ Raised s t [440] ∧ t.num Reg.hspStatus = Code.ok ∧
        t.fld Reg.hspCounts 15 0 = min 65535 (s.fld Reg.hspCounts 15 0 + 1))))


/-! ### Mailboxes, doorbells and debug (16) -/

/-- R631 to R634: a message goes into its channel's storage with its header, the sender's identity and the next SEQ, and raises the channel's source; to a full channel it
ends in MBX_FULL and changes nothing but the record; POP gives the header and frees the channel; a ring sets the doorbell and raises its source. R637, R638: an operation
on a debug module that is out of reach is refused, a read of one in reach gives its data, a write of dmcontrol with haltreq halts; a halt request holds the program of the
task that runs and is masked while that program is protected; a probe's attachment is shown.
(Commands shown to complete: mbxSend, pop, ring, dmiRead, dmiWrite, haltRequest, jtagAttach.)
(The model's own choices it meets: log entries 44, 115.) -/
def Obligations.MailboxesAndDebugModulesAct : Prop :=
  (∀ (o s : State) (w : Who) (v : Word),
      (o.admits w Reg.mbxSend v s →
        let c := field v 21 16
        let n := min 16 (field v 4 0)
        let hdr := 2 ^ 31 + ofBool (s.secure w) * 2 ^ 30 + n * 2 ^ 24 + w.id % 256 * 2 ^ 16 + (s.fld (Reg.mbxHdr c) 15 0 + 1) % 65536
        let base := Addr.stock + s.channelStore c
        let word := fun i => base + 0x10 + 4 * i
        (s.channelFull c = true → Completes (.mbxSend w v) o fun t => t.bus.code = Code.mbxFull ∧ t.mem = s.mem ∧ t.reg (Reg.mbxHdr c) = s.reg (Reg.mbxHdr c)) ∧
        (s.channelFull c = false → (∀ i, i < n → s.storeLocks w (word i) 4 = false ∧ s.partialBad (word i) 4 = none) → Completes (.mbxSend w v) o fun t => Acked t ∧
          OnlyRegs { s with mem := t.mem } t [Reg.mbxHdr c, Reg.mbxFullLo + 4 * (c / 32)] ∧ Raised s t [256 + c] ∧ t.num (Reg.mbxHdr c) = hdr ∧
          t.channelFull c = true ∧ t.flag (Reg.mbxFullLo + 4 * (c / 32)) (c % 32) = true ∧ t.mem32 base = hdr ∧
          (∀ i, i < n → t.mem32 (word i) = s.num (bankOf w.id (Reg.mbxWdata i))) ∧ MemoryKept s t base (base + 0x10 + 4 * n))) ∧
      (∀ c, c < 64 → o.admitsRead w (Reg.mbxPop c) s → Completes (.pop w c) o fun t =>
        t.bus = { code := Code.ok, data := leBytes 4 (s.num (Reg.mbxHdr c)) } ∧ t.channelFull c = false ∧ t.plic = s.plic ∧
          (s.channelFull c = false → t = { s with bus := t.bus }) ∧
          (s.channelFull c = true → OnlyRegs { s with mem := t.mem } t [Reg.mbxHdr c, Reg.mbxFullLo + 4 * (c / 32)] ∧
            t.flag (Reg.mbxFullLo + 4 * (c / 32)) (c % 32) = false ∧ t.fld (Reg.mbxHdr c) 30 0 = s.fld (Reg.mbxHdr c) 30 0 ∧
            MemoryKept s t (Addr.stock + s.channelStore c) (Addr.stock + s.channelStore c + 4))) ∧
      (o.admits w Reg.mbxRing v s → Completes (.ring w v) o fun t =>
        let d := field v 5 0
        Acked t ∧ t.flag (Reg.mbxDbLo + 4 * (d / 32)) (d % 32) = true ∧ t.mode = s.mode ∧ Rises s t (256 + d))) ∧
  (∀ s : State,
      let coreOf := fun e => if e < 8 ∧ e % 2 = 1 ∧ s.paired (e / 2) = true then e - 1 else e
      let runs := fun e => s.tsk.running.get (coreOf e)
      let masked := fun e => s.debugMasked (runs e - 1) = true
      let holds := fun (t : State) e => Rises s t 482 ∧ ∀ p, p = (s.taskDef (runs e - 1)).prog → runs e - 1 < s.ntask → p < s.nprog →
        t.programMode p = Program.hold ∧ t.flag (Reg.tskPmode p) 9 = true ∧ Rises s t 195 ∧ t.mode = (if s.controlRuns then Mode.hold else s.mode)
      (∀ (o : State) (w : Who) (v : Word), ∀ c ∈ [Instr.dmiRead w v, .dmiWrite w v], o.admits w Reg.dbgDmiOp v s →
        let op := field v 1 0
        let e := s.fld Reg.dbgDmiAddr 15 8
        let reached := bit s.debugReach e = true
        let halts := s.fld Reg.dbgDmiAddr 6 0 = 0x10 ∧ s.flag Reg.dbgDmiData 31 = true
        (op = 0 ∨ op = 3 → Writes c o s [Reg.dbgDmiOp] [] fun t => t.num Reg.dbgDmiOp = op) ∧
        (op = 1 ∨ op = 2 → ¬ reached → Writes c o s [Reg.dbgDmiOp] [480] fun t => t.num Reg.dbgDmiOp = op + 2 ^ 30) ∧
        (op = 1 → reached → Completes c o fun t => Acked t ∧ Raised s t [480] ∧ t.num Reg.dbgDmiOp = 1 ∧
          OnlyRegs { s with freeCounter := t.freeCounter } t [Reg.dbgDmiOp, Reg.dbgDmiData]) ∧
        (op = 2 → reached → ¬ halts → Writes c o s [Reg.dbgDmiOp] [480] fun t => t.num Reg.dbgDmiOp = 2) ∧
        (op = 2 → reached → halts → s.awake = true →
          if 8 ≤ coreOf e ∨ runs e = 0 then Writes c o s [Reg.dbgDmiOp] [480, 482] fun t => t.num Reg.dbgDmiOp = 2
          else if masked e then Writes c o s [Reg.dbgDmiOp] [480] fun t => t.num Reg.dbgDmiOp = 2
          else Completes c o fun t => Acked t ∧ t.num Reg.dbgDmiOp = 2 ∧ Rises s t 480 ∧ holds t e)) ∧
      (∀ e,
        if s.awake = false ∨ bit s.debugReach e = false then Idles (.haltRequest e) s
        else if 8 ≤ coreOf e ∨ runs e = 0 then Alters (.haltRequest e) s [] [482] fun _ => True
        else if masked e then Idles (.haltRequest e) s
        else Completes (.haltRequest e) s fun t => holds t e) ∧
      (s.awake = true → Alters .jtagAttach s [Reg.dbgStatus] [481] fun t => t.flag Reg.dbgStatus 31 = true) ∧
      (s.awake = false → Idles .jtagAttach s))


/-! ### Keys (17) -/

/-- R645, R656 to R658, R663: KEY serves the request at the front of its queue when it names the command's operation: one whose descriptor cannot be
read completes with ACCESS, an unknown operation or a reserved field completes with OP_INVALID, one that RETIRED does not serve
with STATE_INVALID, and any other with its code and the length of its output, source 32 where IE asks for it and source 33 for a misuse; a transition behind an accepted one waits for the reset; with nothing for the operation in front nothing happens.
(Commands shown to complete: digest, sign, verify, mac, encrypt, decrypt, publicKey, quote, keyInvalidate, provision, transition, random.)
(The model's own choices it meets: log entries 20, 146.) -/
def Obligations.KeyRequestsCompleteWithTheirCode : Prop :=
  ∀ (s : State), ∀ x ∈ ([(.digest, 1, State.serveDigest), (.sign, 2, State.serveSign), (.verify, 3, State.serveVerify), (.mac, 4, State.serveMac),
      (.encrypt, 5, State.serveEncrypt), (.decrypt, 6, State.serveDecrypt), (.publicKey, 7, State.servePublic), (.quote, 8, State.serveQuote),
      (.keyInvalidate, 9, State.serveInvalidate), (.provision, 10, State.serveProvision), (.transition, 11, State.serveTransition),
      (.random, 12, State.serveRandom)] : List (Instr × Nat × (State → KeyRequest → KeyResult))),
    (s.key.queue = [] → Idles x.1 s) ∧
    ∀ w off rest, s.key.queue = (w, off) :: rest →
      let q := s.readKeyRequest w off
      let known := 1 ≤ q.op ∧ q.op ≤ 12
      let u := { s with key := { s.key with queue := rest } }.setFld Reg.keyStatus 20 16 rest.length
      let u := u.charge q.who q.at_ 64
      let served := x.2.2 u q
      let open_ := fun a : Nat => s.storeLocks q.who a 4 = false ∧ s.partialBad a 4 = none
      let ends := fun (t : State) (code len : Nat) => t.key.queue = rest ∧ (open_ (q.at_ + 0x30) → t.mem32 (q.at_ + 0x30) = (2 ^ 31 + code) % 2 ^ 32) ∧
        (open_ (q.at_ + 0x34) → t.mem32 (q.at_ + 0x34) = len % 2 ^ 32) ∧ t.mode = s.mode ∧ t.bus = s.bus
      let unread := s.badWordIn q.at_ 64 ≠ none
      let waits := q.op = 11 ∧ s.chip.delayedReset = true
      let serves := s.life ≠ Life.retired ∨ servedRetired q = true
      (unread → Completes x.1 s fun t => ends t KeyCode.access 0 ∧ MemoryKept s t (q.at_ + 0x30) (q.at_ + 0x38) ∧ (q.ie = true → Rises s t 32)) ∧
      (¬ unread → (known ∧ q.op ≠ x.2.1) ∨ waits → Idles x.1 s) ∧
      (¬ unread → ¬ waits → serves → ¬ known ∨ (q.op = x.2.1 ∧ q.reservedOk = false) → Completes x.1 s fun t => ends t KeyCode.opInvalid 0 ∧
        t.num Reg.keyMisuse = s.num Reg.keyMisuse ∧ MemoryKept s t (q.at_ + 0x30) (q.at_ + 0x38) ∧ (q.ie = true → Rises s t 32)) ∧
      (¬ unread → ¬ waits → ¬ serves → ¬ known ∨ q.op = x.2.1 → Completes x.1 s fun t => ends t KeyCode.stateInvalid 0 ∧
        MemoryKept s t (q.at_ + 0x30) (q.at_ + 0x38) ∧ (q.ie = true → Rises s t 32)) ∧
      (¬ unread → ¬ waits → serves → q.op = x.2.1 → q.reservedOk = true → Completes x.1 s fun t =>
        ends t served.code served.out.length ∧ (q.ie = true → Rises s t 32) ∧
          (served.code = KeyCode.misuse → Rises s t 33 ∧ t.num Reg.keyMisuse = min (2 ^ 32 - 1) (s.num Reg.keyMisuse + 1)) ∧
          (served.code ≠ KeyCode.misuse → t.num Reg.keyMisuse = s.num Reg.keyMisuse))

/-- R643, R644, R648, R649, R651, R652, R660 to R662, R665: what an operation gives a request that may run it: the hash, a signature, a verdict, a MAC, a sealed or opened message, a public key, a quote, random bytes; an invalidated slot with
its descendants orphaned and then reclaimed; a provisioned slot; the next lifecycle state and a reset to follow; and the refusals of a slot that is empty, orphaned or not for the use.
(Commands shown to complete: reclaimed.)
(The model's own choices it meets: log entries 13, 15, 21, 25.) -/
def Obligations.KeyOperationsGiveTheirResults : Prop :=
  ∀ (s : State) (q : KeyRequest),
    let value := (s.keySlot q.slot).value
    let m := s.bytes q.src q.srcLen
    let readable := s.rangeDenied q.who q.src q.srcLen false = false
    let takes := fun (n : Nat) => n ≤ q.dstLen ∧ s.rangeDenied q.who q.dst n true = false
    let gives := fun (r : KeyResult) (out : List Byte) => r.code = Code.ok ∧ r.out = out ∧ MemoryKept s r.state q.dst (q.dst + out.length) ∧
      (s.storeLocks q.who q.dst out.length = false → s.partialBad q.dst out.length = none → r.state.bytes q.dst out.length = out)
    let paid := s.charge q.who q.src q.srcLen
    let allowed := fun use => s.slotCode q use = 0
    (readable → takes 64 → gives (s.serveDigest q) (slice (Config.shake256 m 64) 0 64)) ∧
    (allowed KeyUse.sign → q.srcLen = 64 → readable → takes 114 → gives (s.serveSign q) (slice (Config.ed448Sign value m) 0 114)) ∧
    (allowed KeyUse.verify → q.srcLen = 178 → readable → (s.serveVerify q).state = paid ∧
      (s.serveVerify q).code = if Config.ed448Verify value (slice m 0 64) (slice m 64 114) then Code.ok else KeyCode.sigInvalid) ∧
    (allowed KeyUse.mac → readable → takes 32 → gives (s.serveMac q) (slice (Config.kmac256 value m 32 Label.evmc) 0 32)) ∧
    (allowed KeyUse.encrypt → q.aadLen ≤ q.srcLen → readable → takes (q.srcLen - q.aadLen + 16) → gives (s.serveEncrypt q)
      (slice (Config.gcmSeal value (slice q.param 0 12) (m.take q.aadLen) (m.drop q.aadLen)) 0 (q.srcLen - q.aadLen + 16))) ∧
    (allowed KeyUse.encrypt → q.aadLen + 16 ≤ q.srcLen → readable →
      match Config.gcmOpen value (slice q.param 0 12) (m.take q.aadLen) (m.drop q.aadLen) with
      | none => (s.serveDecrypt q).code = KeyCode.tagInvalid ∧ (s.serveDecrypt q).state = paid
      | some p => takes (q.srcLen - q.aadLen - 16) → gives (s.serveDecrypt q) (slice p 0 (q.srcLen - q.aadLen - 16))) ∧
    ((s.keySlot q.slot).state = 1 → (s.keySlot q.slot).type ≠ KeyType.secret → q.srcLen = 0 → takes (s.keySlot q.slot).publicKey.length →
      gives (s.servePublic q) (s.keySlot q.slot).publicKey) ∧
    (q.dstLen ≤ 4096 → q.srcLen = 0 → s.rangeDenied q.who q.dst q.dstLen true = false → (s.serveRandom q).code = Code.ok ∧
      (s.serveRandom q).out = slice (Config.drbg s.key.draws q.dstLen) 0 q.dstLen ∧ (s.serveRandom q).state.key.draws = s.key.draws + 1) ∧
    ((s.keySlot q.slot).state = 0 → (s.serveSign q).code = KeyCode.empty ∧ (s.serveMac q).code = KeyCode.empty ∧ (s.servePublic q).code = KeyCode.empty) ∧
    ((s.keySlot q.slot).state ≠ 0 → (s.keySlot q.slot).state ≠ 1 → (s.serveSign q).code = KeyCode.orphaned ∧ (s.serveMac q).code = KeyCode.orphaned) ∧
    ((s.keySlot q.slot).state = 1 → bit (s.keySlot q.slot).usage KeyUse.sign = false → (s.serveSign q).code = KeyCode.misuse ∧ (s.serveSign q).state = s) ∧
    (q.slot ≠ 1 → (s.serveQuote q).code = KeyCode.misuse) ∧
    (q.slot = 1 → q.srcLen = 0 → takes 576 → gives (s.serveQuote q)
      (s.quoteBody q.param ++ slice (Config.ed448Sign devidSeed (slice (Config.shake256 (s.quoteBody q.param) 64) 0 64)) 0 114 ++ leBytes 14 0)) ∧
    (3 ≤ q.slot → q.slot < 256 → (s.keySlot q.slot).state = 1 → q.who.isWarden = true → q.srcLen = 0 → s.descends q.slot q.slot = false →
      (s.serveInvalidate q).code = Code.ok ∧ ((s.serveInvalidate q).state.keySlot q.slot).state = 3 ∧
        ∀ d, d < 256 → d ≠ q.slot → ((s.serveInvalidate q).state.keySlot d).state =
          if (s.keySlot d).state = 1 ∧ s.descends q.slot d = true then 2 else (s.keySlot d).state) ∧
    (match s.key.reclaim with
      | [] => Idles .reclaimed s
      | ns => Completes .reclaimed s fun t => t.key.reclaim = [] ∧ (∀ n ∈ ns, t.keySlot n = default) ∧ (∀ n, n ∉ ns → t.keySlot n = s.keySlot n) ∧
          t.mem = s.mem ∧ Rises s t 34) ∧
    (q.srcLen = 128 → readable → entryOk m = true → s.mayProvision q.who (u8 m 1) = true → (s.keySlot (u8 m 0)).state = 0 →
      (s.serveProvision q).code = Code.ok ∧ (s.serveProvision q).state.keySlot (u8 m 0) = slotOfEntry m ∧
        (s.serveProvision q).state.record.entries.get (u8 m 0) = m ∧ (s.serveProvision q).state.record.seq = (s.record.seq + 1) % 2 ^ 32 ∧
        (s.serveProvision q).state.key.writing = some (1 - s.key.current, s.chip.ran)) ∧
    (let target := u8 q.param 0
     let needs := s.life = Life.field ∧ target = Life.service
     let stays := q.who.isWarden = false ∨ transitionListed s.life target = false ∨ (s.life = Life.factory ∧ s.hasVerifier = false)
     (stays → (s.serveTransition q).code = KeyCode.stateInvalid ∧ (s.serveTransition q).state = s) ∧
     (¬ stays → q.srcLen = 114 → needs → readable → s.authorised q target m = false →
       (s.serveTransition q).code = KeyCode.authInvalid ∧ (s.serveTransition q).state = paid) ∧
     (¬ stays → q.srcLen = (if needs then 114 else 0) → readable → (needs → s.authorised q target m = true) →
       (s.serveTransition q).code = Code.ok ∧ (s.serveTransition q).state.record.life = target ∧
         (s.serveTransition q).state.record.transitions = min 255 (s.record.transitions + 1) ∧
         (s.serveTransition q).state.chip.delayedReset = true ∧ Rises s (s.serveTransition q).state 35))

/-! ### The collector, injections and lockstep (18, 08) -/

/-- R672, R673, R675, R676: the collector writes its next waiting record under its SEQ to the ring and, where the log takes it, to the log, counts and raises what its level
asks for, and counts a record that the log does not take. R29, R374, R678 to R682, R686: a keyed injection request is refused with its reason, waits for its point, or is
carried out at once: in SHADOW only records stand, a LIVE fence fences; it ends with its outcome, by timeout or by abort; a lockstep mismatch halts the pair, and its
tasks move or the region is fenced.
(Commands shown to complete: lockstepMismatch, faultRecordWrite, injectLive, injectShadow, injectionTimeout, injAbort.)
(The model's own choices it meets: log entries 19, 47, 117, 154.) -/
def Obligations.RecordsInjectionsAndMismatchesAct : Prop :=
  (∀ s : State,
      (s.flt.waiting = [] → Idles .faultRecordWrite s) ∧
      (s.flt.waiting ≠ [] → ∀ u, u = s.elapse (s.ticksUntil (s.flt.wrote + 50 * 2 ^ 32)) → ∀ r rest, u.flt.waiting = r :: rest →
        let seq := match r.seq with
          | some q => q
          | none => u.flt.nextSeq
        let bytes := r.bytes seq (match r.parent with
          | some p => u.flt.seqOf.get p % 2 ^ 32
          | none => r.detail)
        Completes .faultRecordWrite s fun t => t.flt.waiting = rest ∧ t.mode = u.mode ∧ t.num Reg.fltSeq = seq % 2 ^ 32 ∧ t.flt.seqOf.get r.tag = seq ∧
          t.flt.nextSeq = (if r.seq = none then (u.flt.nextSeq + 1) % 2 ^ 32 else u.flt.nextSeq) ∧
          t.flt.wrote = u.chip.ran ∧
          (u.chip.stockReady = true → u.storeLocks (engineWho Init.warden) (Addr.stock + 32 * (seq % 1024)) 32 = false → t.bytes (Addr.stock + 32 * (seq % 1024)) bytes.length = bytes) ∧
          (if u.logAdmits r then t.bytes (u.logBase + 32 * (seq % 4096)) bytes.length = bytes
            else (∀ a, Addr.mram ≤ a → t.byte a = u.byte a) ∧ Rises u t 27 ∧
              t.num Reg.fltLogskip = min (2 ^ 32 - 1) (u.num Reg.fltLogskip + 1)) ∧
          (r.level = 3 → Rises u t 24) ∧ (r.level = 4 → Rises u t 25 ∧ t.num Reg.fltLastchip = seq % 2 ^ 32) ∧ (u.flag Reg.fltCtrl 1 = true → Rises u t 28))) ∧
  (∀ s : State,
      (∀ (w : Who) (v : Word), ∀ c ∈ [Instr.injectLive w v, .injectShadow w v], ∀ o : State, o.admits w Reg.injGo v s →
        let result := bankOf w.id Reg.injResult
        let det := s.num (bankOf w.id Reg.injTarget) % 65536
        let l := s.num (bankOf w.id Reg.injLoc)
        let live := bit v.toNat 1
        let asked := field v 31 16 = 0x494A ∧ bit v.toNat 0 = true
        (¬ asked → Writes c o s [] [] fun _ => True) ∧
        (∀ reason, asked → s.injectionRefusal w det l live = some reason → Writes c o s [result] [26] fun t =>
          t.num result = 2 ^ 31 + 2 ^ 30 + reason * 2 ^ 24) ∧
        (asked → s.injectionRefusal w det l live = none → waitsForPoint det = true ∨ s.pointRests det l = true → Completes c o fun t => Acked t ∧ t.mem = s.mem ∧ t.mode = s.mode ∧
          t.num result = 0 ∧ t.flag Reg.injStatus 31 = true ∧
          ∃ q, t.inj.run = some q ∧ q.who = w.id ∧ q.det = det ∧ q.loc = l ∧ q.live = live ∧ q.remaining = max 1 (field v 15 8) ∧ q.start = s.chip.up) ∧
        (asked → s.injectionRefusal w det l live = none → waitsForPoint det = false → s.pointRests det l = false → live = false → field v 15 8 ≤ 1 → Completes c o fun t => Acked t ∧
          t.inj.run = none ∧ t.num result = 2 ^ 31 ∧ t.num Reg.injCount = min (2 ^ 32 - 1) (s.num Reg.injCount + 1) ∧ t.mode = s.mode ∧
            (∀ r, t.fenced r = s.fenced r) ∧ Rises s t 26) ∧
        (asked → s.injectionRefusal w det l live = none → det = 0x16 → s.pointRests det l = false → live = true → field v 15 8 ≤ 1 → Completes c o fun t => Acked t ∧
          t.inj.run = none ∧ t.num result = 2 ^ 31 ∧ t.fenced (locRegion l) = true ∧ t.mode = s.mode)) ∧
      (∀ q, s.inj.run = some q → Completes .injectionTimeout s fun t => let u := s.elapse ((q.start + 1000000000 - s.chip.up + 3) / 4)
        u.inj.run = some q → OnlyRegs { u with inj := t.inj } t [Reg.injStatus, bankOf q.who Reg.injResult] ∧ t.inj = { u.inj with run := none } ∧ Raised u t [26] ∧
          t.num (bankOf q.who Reg.injResult) = 2 ^ 31 + Inj.timeout * 2 ^ 24 ∧ t.num Reg.injStatus = 0) ∧
      (s.inj.run = none → Idles .injectionTimeout s) ∧
      (∀ (o : State) w v, o.admits w Reg.injAbort v s →
        (bit v.toNat 0 = false ∨ s.inj.run = none → Writes (.injAbort w v) o s [] [] fun _ => True) ∧
        ∀ q, bit v.toNat 0 = true → s.inj.run = some q → Completes (.injAbort w v) o fun t => Acked t ∧
          OnlyRegs { s with inj := t.inj } t [Reg.injStatus, bankOf q.who Reg.injResult] ∧ t.inj = { s.inj with run := none } ∧ Raised s t [26] ∧
            t.num (bankOf q.who Reg.injResult) = 2 ^ 31 + Inj.abandoned * 2 ^ 24 ∧ t.num Reg.injStatus = 0) ∧
      ∀ k pc,
        if k < 4 ∧ s.paired k = true ∧ s.coreHalted (2 * k) = false ∧ s.awake = true ∧ s.fenced Region.control = false then
          Completes (.lockstepMismatch k pc) s fun t => t.coreHalted (2 * k) = true ∧ t.coreHalted (2 * k + 1) = true ∧ t.mode = s.mode ∧ Rises s t 3 ∧
            (t.fenced Region.control = true ∨ Rises s t 197)
        else Idles (.lockstepMismatch k pc) s)
end

