-- ==== Sys2Proof/Laws/Cells.lean ====
section
/-! SUPPORT. Laws of the sparse tables and of memory: a read after a write, and that every operation keeps the canonical form. -/
namespace Sys2Proof.Machine

/-! ### Lists of cells -/

theorem cellsFind_erase {α : Type} (k j : Nat) (m : List (Nat × α)) :
    cellsFind j (cellsErase k m) = if j = k then none else cellsFind j m := by
  induction m with
  | nil => simp [cellsErase, cellsFind]
  | cons c r ih =>
    obtain ⟨i, v⟩ := c
    by_cases hi : i = k
    · subst hi
      by_cases hj : i = j
      · subst hj; simpa [cellsErase] using ih
      · simp only [cellsErase, if_pos, ih, cellsFind, hj, if_false]
    · by_cases hj : i = j
      · subst hj; simp [cellsErase, hi, cellsFind]
      · simp only [cellsErase, hi, if_false, cellsFind, hj, ih]

theorem cellsFind_insert {α : Type} (k j : Nat) (v : α) (m : List (Nat × α)) (h : cellsFind k m = none) :
    cellsFind j (cellsInsert k v m) = if j = k then some v else cellsFind j m := by
  induction m with
  | nil =>
    by_cases hj : j = k
    · simp [cellsInsert, cellsFind, hj]
    · have : ¬ k = j := fun e => hj e.symm
      simp [cellsInsert, cellsFind, hj, this]
  | cons c r ih =>
    obtain ⟨i, w⟩ := c
    have hi : i ≠ k := by
      intro e; subst e; simp [cellsFind] at h
    have hr : cellsFind k r = none := by simpa [cellsFind, hi] using h
    by_cases hk : k < i
    · by_cases hj : j = k
      · subst hj; simp [cellsInsert, hk, cellsFind]
      · have : k ≠ j := fun e => hj e.symm
        simp [cellsInsert, hk, cellsFind, hj, this]
    · by_cases hj : i = j
      · subst hj; simp [cellsInsert, hk, cellsFind, hi]
      · simp [cellsInsert, hk, cellsFind, hj, ih hr]

/-- A read after a write. -/
theorem cellsFind_put {α : Type} [DecidableEq α] (d : α) (k j : Nat) (v : α) (m : List (Nat × α)) :
    (cellsFind j (cellsPut d k v m)).getD d = if j = k then v else (cellsFind j m).getD d := by
  have h : cellsFind k (cellsErase k m) = none := by simp [cellsFind_erase]
  by_cases hv : v = d
  · by_cases hj : j = k <;> simp [cellsPut, hv, cellsFind_erase, hj]
  · rw [cellsPut, if_neg hv, cellsFind_insert k j v _ h, cellsFind_erase]
    split <;> rfl

theorem cellsFind_put_ne {α : Type} [DecidableEq α] (d : α) (k j : Nat) (v : α) (m : List (Nat × α)) (h : j ≠ k) :
    cellsFind j (cellsPut d k v m) = cellsFind j m := by
  have hk : cellsFind k (cellsErase k m) = none := by simp [cellsFind_erase]
  by_cases hv : v = d
  · simp [cellsPut, hv, cellsFind_erase, h]
  · simp [cellsPut, hv, cellsFind_insert k j v _ hk, cellsFind_erase, h]

theorem cellsAbove_mono {α : Type} {j k : Nat} (h : j ≤ k) (m : List (Nat × α)) (hm : cellsAbove k m = true) :
    cellsAbove j m = true := by
  induction m with
  | nil => rfl
  | cons c r ih =>
    obtain ⟨i, v⟩ := c
    simp only [cellsAbove, Bool.and_eq_true, decide_eq_true_eq] at *
    exact ⟨by omega, ih hm.2⟩

theorem cellsAbove_erase {α : Type} (j k : Nat) (m : List (Nat × α)) (h : cellsAbove j m = true) :
    cellsAbove j (cellsErase k m) = true := by
  induction m with
  | nil => rfl
  | cons c r ih =>
    obtain ⟨i, v⟩ := c
    simp only [cellsAbove, Bool.and_eq_true, decide_eq_true_eq] at h
    by_cases hi : i = k
    · simpa [cellsErase, hi] using ih h.2
    · simpa [cellsErase, hi, cellsAbove, h.1] using ih h.2

theorem cellsWf_erase {α : Type} [DecidableEq α] (d : Nat → α) (k : Nat) (m : List (Nat × α)) (h : cellsWf d m = true) :
    cellsWf d (cellsErase k m) = true := by
  induction m with
  | nil => rfl
  | cons c r ih =>
    obtain ⟨i, v⟩ := c
    simp only [cellsWf, Bool.and_eq_true, decide_eq_true_eq] at h
    by_cases hi : i = k
    · simpa [cellsErase, hi] using ih h.2
    · simpa [cellsErase, hi, cellsWf, h.1.1, cellsAbove_erase i k r h.1.2] using ih h.2

theorem cellsAbove_insert {α : Type} (j k : Nat) (v : α) (m : List (Nat × α)) (hj : j < k) (h : cellsAbove j m = true) :
    cellsAbove j (cellsInsert k v m) = true := by
  induction m with
  | nil => simp [cellsInsert, cellsAbove, hj]
  | cons c r ih =>
    obtain ⟨i, w⟩ := c
    simp only [cellsAbove, Bool.and_eq_true, decide_eq_true_eq] at h
    by_cases hk : k < i
    · simp [cellsInsert, hk, cellsAbove, hj, h.1, h.2]
    · simpa [cellsInsert, hk, cellsAbove, h.1] using ih h.2

theorem cellsWf_insert {α : Type} [DecidableEq α] (d : Nat → α) (k : Nat) (v : α) (m : List (Nat × α)) (hv : v ≠ d k)
    (hk : cellsFind k m = none) (h : cellsWf d m = true) : cellsWf d (cellsInsert k v m) = true := by
  induction m with
  | nil => simp [cellsInsert, cellsWf, cellsAbove, hv]
  | cons c r ih =>
    obtain ⟨i, w⟩ := c
    have hi : i ≠ k := by
      intro e; subst e; simp [cellsFind] at hk
    have hr : cellsFind k r = none := by simpa [cellsFind, hi] using hk
    simp only [cellsWf, Bool.and_eq_true, decide_eq_true_eq] at h
    by_cases hki : k < i
    · simp [cellsInsert, hki, cellsWf, hv, cellsAbove, h.1.1, h.1.2, h.2, cellsAbove_mono (Nat.le_of_lt hki) r h.1.2]
    · have : i < k := by omega
      simpa [cellsInsert, hki, cellsWf, h.1.1, cellsAbove_insert i k v r this h.1.2] using ih hr h.2

/-- A write keeps the canonical form. -/
theorem cellsWf_put {α : Type} [DecidableEq α] (d : Nat → α) (k : Nat) (v : α) (m : List (Nat × α)) (h : cellsWf d m = true) :
    cellsWf d (cellsPut (d k) k v m) = true := by
  by_cases hv : v = d k
  · simpa [cellsPut, hv] using cellsWf_erase d k m h
  · simpa [cellsPut, hv] using cellsWf_insert d k v _ hv (by simp [cellsFind_erase]) (cellsWf_erase d k m h)

theorem cellsAbove_filter {α : Type} (j : Nat) (p : Nat × α → Bool) (m : List (Nat × α)) (h : cellsAbove j m = true) :
    cellsAbove j (m.filter p) = true := by
  induction m with
  | nil => rfl
  | cons c r ih =>
    obtain ⟨i, v⟩ := c
    simp only [cellsAbove, Bool.and_eq_true, decide_eq_true_eq] at h
    by_cases hp : p (i, v) = true
    · simpa [List.filter_cons, hp, cellsAbove, h.1] using ih h.2
    · simpa [List.filter_cons, hp] using ih h.2

/-- Dropping cells keeps the canonical form. -/
theorem cellsWf_filter {α : Type} [DecidableEq α] (d : Nat → α) (p : Nat × α → Bool) (m : List (Nat × α)) (h : cellsWf d m = true) :
    cellsWf d (m.filter p) = true := by
  induction m with
  | nil => rfl
  | cons c r ih =>
    obtain ⟨i, v⟩ := c
    simp only [cellsWf, Bool.and_eq_true, decide_eq_true_eq] at h
    by_cases hp : p (i, v) = true
    · simpa [List.filter_cons, hp, cellsWf, h.1.1, cellsAbove_filter i p r h.1.2] using ih h.2
    · simpa [List.filter_cons, hp] using ih h.2

/-! ### Tables -/

/-- A read after a write of a table. -/
theorem Tab.get_set {α : Type} [Inhabited α] [DecidableEq α] (t : Tab α) (k j : Nat) (v : α) :
    (t.set k v).get j = if j = k then v else t.get j := cellsFind_put default k j v t.cells

@[simp] theorem Tab.get_set_eq {α : Type} [Inhabited α] [DecidableEq α] (t : Tab α) (k : Nat) (v : α) : (t.set k v).get k = v := by
  simp [Tab.get_set]

theorem Tab.get_set_ne {α : Type} [Inhabited α] [DecidableEq α] (t : Tab α) (k j : Nat) (v : α) (h : j ≠ k) :
    (t.set k v).get j = t.get j := by simp [Tab.get_set, h]

@[simp] theorem Tab.get_empty {α : Type} [Inhabited α] (k : Nat) : (Tab.empty : Tab α).get k = default := rfl

theorem Tab.wf_empty {α : Type} [Inhabited α] [DecidableEq α] : (Tab.empty : Tab α).wf = true := rfl

theorem Tab.wf_set {α : Type} [Inhabited α] [DecidableEq α] (t : Tab α) (k : Nat) (v : α) (h : t.wf = true) : (t.set k v).wf = true :=
  cellsWf_put (fun _ => default) k v t.cells h

theorem Tab.wf_keep {α : Type} [Inhabited α] [DecidableEq α] (t : Tab α) (f : Nat → Bool) (h : t.wf = true) : (t.keep f).wf = true :=
  cellsWf_filter _ _ t.cells h

/-! ### Memory -/

/-- A byte read after a byte written. -/
theorem Memory.read_write (gen : Nat) (m : Memory) (a x : Nat) (b : Byte) :
    Memory.read gen (Memory.write gen m a b) x = if x = a then b else Memory.read gen m x := by
  by_cases h : x = a
  · subst h; simpa [Memory.read, Memory.write] using cellsFind_put (Memory.unlisted gen x) x x b m
  · simp [Memory.read, Memory.write, h, cellsFind_put_ne _ a x b m h]

theorem Memory.wf_write (gen : Nat) (m : Memory) (a : Nat) (b : Byte) (h : Memory.wf gen m = true) :
    Memory.wf gen (Memory.write gen m a b) = true := cellsWf_put (Memory.unlisted gen) a b m h

theorem Memory.wf_writeAll (gen : Nat) (m : Memory) (a : Nat) (bs : List Byte) (h : Memory.wf gen m = true) :
    Memory.wf gen (Memory.writeAll gen m a bs) = true := by
  induction bs generalizing m a with
  | nil => exact h
  | cons b r ih => exact ih _ _ (Memory.wf_write gen m a b h)

theorem Memory.wf_drop (gen : Nat) (m : Memory) (lo hi : Nat) (h : Memory.wf gen m = true) : Memory.wf gen (m.drop lo hi) = true :=
  cellsWf_filter _ _ m h

/-- A write of several bytes leaves every other address alone. -/
theorem Memory.read_writeAll_outside (gen : Nat) (m : Memory) (a x : Nat) (bs : List Byte) (h : x < a ∨ a + bs.length ≤ x) :
    Memory.read gen (Memory.writeAll gen m a bs) x = Memory.read gen m x := by
  induction bs generalizing m a with
  | nil => rfl
  | cons b r ih =>
    have hx : x ≠ a := by simp at h; omega
    have := ih (Memory.write gen m a b) (a + 1) (by simp at h; omega)
    simp [Memory.writeAll, this, Memory.read_write, hx]

/-- A write of several bytes is what a read of the same addresses gives. -/
theorem Memory.readAll_writeAll (gen : Nat) (m : Memory) (a : Nat) (bs : List Byte) :
    Memory.readAll gen (Memory.writeAll gen m a bs) a bs.length = bs := by
  induction bs generalizing m a with
  | nil => rfl
  | cons b r ih =>
    have h := Memory.read_writeAll_outside gen (Memory.write gen m a b) (a + 1) a r (Or.inl (Nat.lt_succ_self a))
    simp [Memory.writeAll, Memory.readAll, h, Memory.read_write, ih]

end Sys2Proof.Machine
end

