-- ==== Sys2Proof/Laws/State.lean ====
section
/-! SUPPORT. What each named update of State leaves alone, field by field, and what a register reads as after it. -/
namespace Sys2Proof.Machine

variable (s : State)

/-! ### A register is written -/

@[simp] theorem State.setReg_pending (r : Nat) (v : Word) : (s.setReg r v).pending = s.pending := rfl
@[simp] theorem State.setReg_variant (r : Nat) (v : Word) : (s.setReg r v).variant = s.variant := rfl
@[simp] theorem State.setReg_mem (r : Nat) (v : Word) : (s.setReg r v).mem = s.mem := rfl
@[simp] theorem State.setReg_ddrGen (r : Nat) (v : Word) : (s.setReg r v).ddrGen = s.ddrGen := rfl
@[simp] theorem State.setReg_poison (r : Nat) (v : Word) : (s.setReg r v).poison = s.poison := rfl
@[simp] theorem State.setReg_freeCounter (r : Nat) (v : Word) : (s.setReg r v).freeCounter = s.freeCounter := rfl
@[simp] theorem State.setReg_bus (r : Nat) (v : Word) : (s.setReg r v).bus = s.bus := rfl
@[simp] theorem State.setReg_slots (r : Nat) (v : Word) : (s.setReg r v).slots = s.slots := rfl
@[simp] theorem State.setReg_plic (r : Nat) (v : Word) : (s.setReg r v).plic = s.plic := rfl
@[simp] theorem State.setReg_flt (r : Nat) (v : Word) : (s.setReg r v).flt = s.flt := rfl
@[simp] theorem State.setReg_inj (r : Nat) (v : Word) : (s.setReg r v).inj = s.inj := rfl
@[simp] theorem State.setReg_chip (r : Nat) (v : Word) : (s.setReg r v).chip = s.chip := rfl
@[simp] theorem State.setReg_time (r : Nat) (v : Word) : (s.setReg r v).time = s.time := rfl
@[simp] theorem State.setReg_pwr (r : Nat) (v : Word) : (s.setReg r v).pwr = s.pwr := rfl
@[simp] theorem State.setReg_blk (r : Nat) (v : Word) : (s.setReg r v).blk = s.blk := rfl
@[simp] theorem State.setReg_key (r : Nat) (v : Word) : (s.setReg r v).key = s.key := rfl
@[simp] theorem State.setReg_spn (r : Nat) (v : Word) : (s.setReg r v).spn = s.spn := rfl
@[simp] theorem State.setReg_tim (r : Nat) (v : Word) : (s.setReg r v).tim = s.tim := rfl
@[simp] theorem State.setReg_rtc (r : Nat) (v : Word) : (s.setReg r v).rtc = s.rtc := rfl
@[simp] theorem State.setReg_ward (r : Nat) (v : Word) : (s.setReg r v).ward = s.ward := rfl
@[simp] theorem State.setReg_adp (r : Nat) (v : Word) : (s.setReg r v).adp = s.adp := rfl
@[simp] theorem State.setReg_tsk (r : Nat) (v : Word) : (s.setReg r v).tsk = s.tsk := rfl
@[simp] theorem State.setReg_lathe (r : Nat) (v : Word) : (s.setReg r v).lathe = s.lathe := rfl
@[simp] theorem State.setReg_fed (r : Nat) (v : Word) : (s.setReg r v).fed = s.fed := rfl
@[simp] theorem State.setReg_mil (r : Nat) (v : Word) : (s.setReg r v).mil = s.mil := rfl
@[simp] theorem State.setReg_eth (r : Nat) (v : Word) : (s.setReg r v).eth = s.eth := rfl
@[simp] theorem State.setReg_can (r : Nat) (v : Word) : (s.setReg r v).can = s.can := rfl
@[simp] theorem State.setReg_pci (r : Nat) (v : Word) : (s.setReg r v).pci = s.pci := rfl
@[simp] theorem State.setReg_fus (r : Nat) (v : Word) : (s.setReg r v).fus = s.fus := rfl
@[simp] theorem State.setReg_met (r : Nat) (v : Word) : (s.setReg r v).met = s.met := rfl
@[simp] theorem State.setReg_prf (r : Nat) (v : Word) : (s.setReg r v).prf = s.prf := rfl
@[simp] theorem State.setReg_latch (r : Nat) (v : Word) : (s.setReg r v).latch = s.latch := rfl
@[simp] theorem State.setReg_hinge (r : Nat) (v : Word) : (s.setReg r v).hinge = s.hinge := rfl
@[simp] theorem State.setReg_pin (r : Nat) (v : Word) : (s.setReg r v).pin = s.pin := rfl
@[simp] theorem State.setReg_pnl (r : Nat) (v : Word) : (s.setReg r v).pnl = s.pnl := rfl
@[simp] theorem State.setReg_cle (r : Nat) (v : Word) : (s.setReg r v).cle = s.cle := rfl
@[simp] theorem State.setReg_outbox (r : Nat) (v : Word) : (s.setReg r v).outbox = s.outbox := rfl
@[simp] theorem State.setReg_regs (r : Nat) (v : Word) : (s.setReg r v).regs = s.regs.set r v := rfl

/-- The other writes of a register are this one. -/
@[simp] theorem State.setNum_eq (r v : Nat) : s.setNum r v = s.setReg r (BitVec.ofNat 32 v) := rfl
@[simp] theorem State.setFld_eq (r hi lo v : Nat) : s.setFld r hi lo v = s.setReg r (setField (s.reg r) hi lo v) := rfl
@[simp] theorem State.setFlag_eq (r b : Nat) (v : Bool) : s.setFlag r b v = s.setReg r (setField (s.reg r) b b (ofBool v)) := rfl
@[simp] theorem State.bump_eq (r hi lo n : Nat) :
    s.bump r hi lo n = s.setReg r (setField (s.reg r) hi lo (min (2 ^ (hi + 1 - lo) - 1) (s.fld r hi lo + n))) := rfl
@[simp] theorem State.roll_eq (r hi lo n : Nat) : s.roll r hi lo n = s.setReg r (setField (s.reg r) hi lo (s.fld r hi lo + n)) := rfl

/-- A register reads what was written to it last. -/
theorem State.reg_setReg (r q : Nat) (v : Word) : (s.setReg r v).reg q = if q = r then v else s.reg q := Tab.get_set s.regs r q v
@[simp] theorem State.reg_setReg_same (r : Nat) (v : Word) : (s.setReg r v).reg r = v := by simp [State.reg_setReg]
theorem State.reg_setReg_ne (r q : Nat) (v : Word) (h : q ≠ r) : (s.setReg r v).reg q = s.reg q := by simp [State.reg_setReg, h]

/-! ### Memory is written -/

@[simp] theorem State.poke_pending (a : Nat) (bs : List Byte) : (s.poke a bs).pending = s.pending := rfl
@[simp] theorem State.poke_variant (a : Nat) (bs : List Byte) : (s.poke a bs).variant = s.variant := rfl
@[simp] theorem State.poke_ddrGen (a : Nat) (bs : List Byte) : (s.poke a bs).ddrGen = s.ddrGen := rfl
@[simp] theorem State.poke_poison (a : Nat) (bs : List Byte) : (s.poke a bs).poison = healed a bs.length s.poison := rfl
@[simp] theorem State.poke_regs (a : Nat) (bs : List Byte) : (s.poke a bs).regs = s.regs := rfl
@[simp] theorem State.poke_freeCounter (a : Nat) (bs : List Byte) : (s.poke a bs).freeCounter = s.freeCounter := rfl
@[simp] theorem State.poke_bus (a : Nat) (bs : List Byte) : (s.poke a bs).bus = s.bus := rfl
@[simp] theorem State.poke_slots (a : Nat) (bs : List Byte) : (s.poke a bs).slots = s.slots := rfl
@[simp] theorem State.poke_plic (a : Nat) (bs : List Byte) : (s.poke a bs).plic = s.plic := rfl
@[simp] theorem State.poke_flt (a : Nat) (bs : List Byte) : (s.poke a bs).flt = s.flt := rfl
@[simp] theorem State.poke_inj (a : Nat) (bs : List Byte) : (s.poke a bs).inj = s.inj := rfl
@[simp] theorem State.poke_chip (a : Nat) (bs : List Byte) : (s.poke a bs).chip = s.chip := rfl
@[simp] theorem State.poke_time (a : Nat) (bs : List Byte) : (s.poke a bs).time = s.time := rfl
@[simp] theorem State.poke_pwr (a : Nat) (bs : List Byte) : (s.poke a bs).pwr = s.pwr := rfl
@[simp] theorem State.poke_blk (a : Nat) (bs : List Byte) : (s.poke a bs).blk = s.blk := rfl
@[simp] theorem State.poke_key (a : Nat) (bs : List Byte) : (s.poke a bs).key = s.key := rfl
@[simp] theorem State.poke_spn (a : Nat) (bs : List Byte) : (s.poke a bs).spn = s.spn := rfl
@[simp] theorem State.poke_tim (a : Nat) (bs : List Byte) : (s.poke a bs).tim = s.tim := rfl
@[simp] theorem State.poke_rtc (a : Nat) (bs : List Byte) : (s.poke a bs).rtc = s.rtc := rfl
@[simp] theorem State.poke_ward (a : Nat) (bs : List Byte) : (s.poke a bs).ward = s.ward := rfl
@[simp] theorem State.poke_adp (a : Nat) (bs : List Byte) : (s.poke a bs).adp = s.adp := rfl
@[simp] theorem State.poke_tsk (a : Nat) (bs : List Byte) : (s.poke a bs).tsk = s.tsk := rfl
@[simp] theorem State.poke_lathe (a : Nat) (bs : List Byte) : (s.poke a bs).lathe = s.lathe := rfl
@[simp] theorem State.poke_fed (a : Nat) (bs : List Byte) : (s.poke a bs).fed = s.fed := rfl
@[simp] theorem State.poke_mil (a : Nat) (bs : List Byte) : (s.poke a bs).mil = s.mil := rfl
@[simp] theorem State.poke_eth (a : Nat) (bs : List Byte) : (s.poke a bs).eth = s.eth := rfl
@[simp] theorem State.poke_can (a : Nat) (bs : List Byte) : (s.poke a bs).can = s.can := rfl
@[simp] theorem State.poke_pci (a : Nat) (bs : List Byte) : (s.poke a bs).pci = s.pci := rfl
@[simp] theorem State.poke_fus (a : Nat) (bs : List Byte) : (s.poke a bs).fus = s.fus := rfl
@[simp] theorem State.poke_met (a : Nat) (bs : List Byte) : (s.poke a bs).met = s.met := rfl
@[simp] theorem State.poke_prf (a : Nat) (bs : List Byte) : (s.poke a bs).prf = s.prf := rfl
@[simp] theorem State.poke_latch (a : Nat) (bs : List Byte) : (s.poke a bs).latch = s.latch := rfl
@[simp] theorem State.poke_hinge (a : Nat) (bs : List Byte) : (s.poke a bs).hinge = s.hinge := rfl
@[simp] theorem State.poke_pin (a : Nat) (bs : List Byte) : (s.poke a bs).pin = s.pin := rfl
@[simp] theorem State.poke_pnl (a : Nat) (bs : List Byte) : (s.poke a bs).pnl = s.pnl := rfl
@[simp] theorem State.poke_cle (a : Nat) (bs : List Byte) : (s.poke a bs).cle = s.cle := rfl
@[simp] theorem State.poke_outbox (a : Nat) (bs : List Byte) : (s.poke a bs).outbox = s.outbox := rfl
@[simp] theorem State.poke_reg (a : Nat) (bs : List Byte) (r : Nat) : (s.poke a bs).reg r = s.reg r := rfl
@[simp] theorem State.poke32_eq (a v : Nat) : s.poke32 a v = s.poke a (leBytes 4 v) := rfl

/-- Bytes outside a write read as before. -/
theorem State.byte_poke_outside (a x : Nat) (bs : List Byte) (h : x < a ∨ a + bs.length ≤ x) : (s.poke a bs).byte x = s.byte x :=
  Memory.read_writeAll_outside s.ddrGen s.mem a x bs h

/-- The bytes written are read back. -/
theorem State.bytes_poke (a : Nat) (bs : List Byte) : (s.poke a bs).bytes a bs.length = bs :=
  Memory.readAll_writeAll s.ddrGen s.mem a bs

/-! ### The bus reply -/

@[simp] theorem State.reply_pending (c : Nat) (d : List Byte) : (s.reply c d).pending = s.pending := rfl
@[simp] theorem State.reply_variant (c : Nat) (d : List Byte) : (s.reply c d).variant = s.variant := rfl
@[simp] theorem State.reply_mem (c : Nat) (d : List Byte) : (s.reply c d).mem = s.mem := rfl
@[simp] theorem State.reply_ddrGen (c : Nat) (d : List Byte) : (s.reply c d).ddrGen = s.ddrGen := rfl
@[simp] theorem State.reply_poison (c : Nat) (d : List Byte) : (s.reply c d).poison = s.poison := rfl
@[simp] theorem State.reply_regs (c : Nat) (d : List Byte) : (s.reply c d).regs = s.regs := rfl
@[simp] theorem State.reply_freeCounter (c : Nat) (d : List Byte) : (s.reply c d).freeCounter = s.freeCounter := rfl
@[simp] theorem State.reply_slots (c : Nat) (d : List Byte) : (s.reply c d).slots = s.slots := rfl
@[simp] theorem State.reply_plic (c : Nat) (d : List Byte) : (s.reply c d).plic = s.plic := rfl
@[simp] theorem State.reply_flt (c : Nat) (d : List Byte) : (s.reply c d).flt = s.flt := rfl
@[simp] theorem State.reply_inj (c : Nat) (d : List Byte) : (s.reply c d).inj = s.inj := rfl
@[simp] theorem State.reply_chip (c : Nat) (d : List Byte) : (s.reply c d).chip = s.chip := rfl
@[simp] theorem State.reply_time (c : Nat) (d : List Byte) : (s.reply c d).time = s.time := rfl
@[simp] theorem State.reply_pwr (c : Nat) (d : List Byte) : (s.reply c d).pwr = s.pwr := rfl
@[simp] theorem State.reply_blk (c : Nat) (d : List Byte) : (s.reply c d).blk = s.blk := rfl
@[simp] theorem State.reply_key (c : Nat) (d : List Byte) : (s.reply c d).key = s.key := rfl
@[simp] theorem State.reply_spn (c : Nat) (d : List Byte) : (s.reply c d).spn = s.spn := rfl
@[simp] theorem State.reply_tim (c : Nat) (d : List Byte) : (s.reply c d).tim = s.tim := rfl
@[simp] theorem State.reply_rtc (c : Nat) (d : List Byte) : (s.reply c d).rtc = s.rtc := rfl
@[simp] theorem State.reply_ward (c : Nat) (d : List Byte) : (s.reply c d).ward = s.ward := rfl
@[simp] theorem State.reply_adp (c : Nat) (d : List Byte) : (s.reply c d).adp = s.adp := rfl
@[simp] theorem State.reply_tsk (c : Nat) (d : List Byte) : (s.reply c d).tsk = s.tsk := rfl
@[simp] theorem State.reply_lathe (c : Nat) (d : List Byte) : (s.reply c d).lathe = s.lathe := rfl
@[simp] theorem State.reply_fed (c : Nat) (d : List Byte) : (s.reply c d).fed = s.fed := rfl
@[simp] theorem State.reply_mil (c : Nat) (d : List Byte) : (s.reply c d).mil = s.mil := rfl
@[simp] theorem State.reply_eth (c : Nat) (d : List Byte) : (s.reply c d).eth = s.eth := rfl
@[simp] theorem State.reply_can (c : Nat) (d : List Byte) : (s.reply c d).can = s.can := rfl
@[simp] theorem State.reply_pci (c : Nat) (d : List Byte) : (s.reply c d).pci = s.pci := rfl
@[simp] theorem State.reply_fus (c : Nat) (d : List Byte) : (s.reply c d).fus = s.fus := rfl
@[simp] theorem State.reply_met (c : Nat) (d : List Byte) : (s.reply c d).met = s.met := rfl
@[simp] theorem State.reply_prf (c : Nat) (d : List Byte) : (s.reply c d).prf = s.prf := rfl
@[simp] theorem State.reply_latch (c : Nat) (d : List Byte) : (s.reply c d).latch = s.latch := rfl
@[simp] theorem State.reply_hinge (c : Nat) (d : List Byte) : (s.reply c d).hinge = s.hinge := rfl
@[simp] theorem State.reply_pin (c : Nat) (d : List Byte) : (s.reply c d).pin = s.pin := rfl
@[simp] theorem State.reply_pnl (c : Nat) (d : List Byte) : (s.reply c d).pnl = s.pnl := rfl
@[simp] theorem State.reply_cle (c : Nat) (d : List Byte) : (s.reply c d).cle = s.cle := rfl
@[simp] theorem State.reply_outbox (c : Nat) (d : List Byte) : (s.reply c d).outbox = s.outbox := rfl
@[simp] theorem State.reply_bus (c : Nat) (d : List Byte) : (s.reply c d).bus = { code := c, data := d } := rfl
@[simp] theorem State.reply_reg (c : Nat) (d : List Byte) (r : Nat) : (s.reply c d).reg r = s.reg r := rfl
@[simp] theorem State.replyOk_eq : s.replyOk = s.reply Code.ok [] := rfl
@[simp] theorem State.replyWord_eq (v : Nat) : s.replyWord v = s.reply Code.ok (leBytes 4 v) := rfl

/-! ### An interrupt source -/

@[simp] theorem State.raise_pending (n : Nat) : (s.raise n).pending = s.pending := by unfold State.raise; split <;> rfl
@[simp] theorem State.raise_variant (n : Nat) : (s.raise n).variant = s.variant := by unfold State.raise; split <;> rfl
@[simp] theorem State.raise_mem (n : Nat) : (s.raise n).mem = s.mem := by unfold State.raise; split <;> rfl
@[simp] theorem State.raise_ddrGen (n : Nat) : (s.raise n).ddrGen = s.ddrGen := by unfold State.raise; split <;> rfl
@[simp] theorem State.raise_poison (n : Nat) : (s.raise n).poison = s.poison := by unfold State.raise; split <;> rfl
@[simp] theorem State.raise_regs (n : Nat) : (s.raise n).regs = s.regs := by unfold State.raise; split <;> rfl
@[simp] theorem State.raise_freeCounter (n : Nat) : (s.raise n).freeCounter = s.freeCounter := by unfold State.raise; split <;> rfl
@[simp] theorem State.raise_bus (n : Nat) : (s.raise n).bus = s.bus := by unfold State.raise; split <;> rfl
@[simp] theorem State.raise_slots (n : Nat) : (s.raise n).slots = s.slots := by unfold State.raise; split <;> rfl
@[simp] theorem State.raise_flt (n : Nat) : (s.raise n).flt = s.flt := by unfold State.raise; split <;> rfl
@[simp] theorem State.raise_inj (n : Nat) : (s.raise n).inj = s.inj := by unfold State.raise; split <;> rfl
@[simp] theorem State.raise_chip (n : Nat) : (s.raise n).chip = s.chip := by unfold State.raise; split <;> rfl
@[simp] theorem State.raise_time (n : Nat) : (s.raise n).time = s.time := by unfold State.raise; split <;> rfl
@[simp] theorem State.raise_pwr (n : Nat) : (s.raise n).pwr = s.pwr := by unfold State.raise; split <;> rfl
@[simp] theorem State.raise_blk (n : Nat) : (s.raise n).blk = s.blk := by unfold State.raise; split <;> rfl
@[simp] theorem State.raise_key (n : Nat) : (s.raise n).key = s.key := by unfold State.raise; split <;> rfl
@[simp] theorem State.raise_spn (n : Nat) : (s.raise n).spn = s.spn := by unfold State.raise; split <;> rfl
@[simp] theorem State.raise_tim (n : Nat) : (s.raise n).tim = s.tim := by unfold State.raise; split <;> rfl
@[simp] theorem State.raise_rtc (n : Nat) : (s.raise n).rtc = s.rtc := by unfold State.raise; split <;> rfl
@[simp] theorem State.raise_ward (n : Nat) : (s.raise n).ward = s.ward := by unfold State.raise; split <;> rfl
@[simp] theorem State.raise_adp (n : Nat) : (s.raise n).adp = s.adp := by unfold State.raise; split <;> rfl
@[simp] theorem State.raise_tsk (n : Nat) : (s.raise n).tsk = s.tsk := by unfold State.raise; split <;> rfl
@[simp] theorem State.raise_lathe (n : Nat) : (s.raise n).lathe = s.lathe := by unfold State.raise; split <;> rfl
@[simp] theorem State.raise_fed (n : Nat) : (s.raise n).fed = s.fed := by unfold State.raise; split <;> rfl
@[simp] theorem State.raise_mil (n : Nat) : (s.raise n).mil = s.mil := by unfold State.raise; split <;> rfl
@[simp] theorem State.raise_eth (n : Nat) : (s.raise n).eth = s.eth := by unfold State.raise; split <;> rfl
@[simp] theorem State.raise_can (n : Nat) : (s.raise n).can = s.can := by unfold State.raise; split <;> rfl
@[simp] theorem State.raise_pci (n : Nat) : (s.raise n).pci = s.pci := by unfold State.raise; split <;> rfl
@[simp] theorem State.raise_fus (n : Nat) : (s.raise n).fus = s.fus := by unfold State.raise; split <;> rfl
@[simp] theorem State.raise_met (n : Nat) : (s.raise n).met = s.met := by unfold State.raise; split <;> rfl
@[simp] theorem State.raise_prf (n : Nat) : (s.raise n).prf = s.prf := by unfold State.raise; split <;> rfl
@[simp] theorem State.raise_latch (n : Nat) : (s.raise n).latch = s.latch := by unfold State.raise; split <;> rfl
@[simp] theorem State.raise_hinge (n : Nat) : (s.raise n).hinge = s.hinge := by unfold State.raise; split <;> rfl
@[simp] theorem State.raise_pin (n : Nat) : (s.raise n).pin = s.pin := by unfold State.raise; split <;> rfl
@[simp] theorem State.raise_pnl (n : Nat) : (s.raise n).pnl = s.pnl := by unfold State.raise; split <;> rfl
@[simp] theorem State.raise_cle (n : Nat) : (s.raise n).cle = s.cle := by unfold State.raise; split <;> rfl
@[simp] theorem State.raise_outbox (n : Nat) : (s.raise n).outbox = s.outbox := by unfold State.raise; split <;> rfl
@[simp] theorem State.raise_reg (n r : Nat) : (s.raise n).reg r = s.reg r := by unfold State.raise; split <;> rfl

/-! ### What reads only registers or memory -/

@[simp] theorem State.setReg_byte (q : Nat) (w : Word) (x : Nat) : (s.setReg q w).byte x = s.byte x := by simp [State.byte]
@[simp] theorem State.setReg_bytes (q : Nat) (w : Word) (x k : Nat) : (s.setReg q w).bytes x k = s.bytes x k := by simp [State.bytes]
@[simp] theorem State.setReg_body (q : Nat) (w : Word) (ty r i : Nat) : (s.setReg q w).body ty r i = s.body ty r i := by simp [State.body]
@[simp] theorem State.poke_num (a : Nat) (bs : List Byte) (r : Nat) : (s.poke a bs).num r = s.num r := by simp [State.num]
@[simp] theorem State.poke_fld (a : Nat) (bs : List Byte) (r hi lo : Nat) : (s.poke a bs).fld r hi lo = s.fld r hi lo := by simp [State.fld]
@[simp] theorem State.poke_flag (a : Nat) (bs : List Byte) (r b : Nat) : (s.poke a bs).flag r b = s.flag r b := by simp [State.flag]
@[simp] theorem State.poke_mode (a : Nat) (bs : List Byte) : (s.poke a bs).mode = s.mode := by simp [State.mode]
@[simp] theorem State.poke_body (a : Nat) (bs : List Byte) (ty r i : Nat) : (s.poke a bs).body ty r i = s.body ty r i := by simp [State.body]
@[simp] theorem State.reply_num (c : Nat) (d : List Byte) (r : Nat) : (s.reply c d).num r = s.num r := by simp [State.num]
@[simp] theorem State.reply_fld (c : Nat) (d : List Byte) (r hi lo : Nat) : (s.reply c d).fld r hi lo = s.fld r hi lo := by simp [State.fld]
@[simp] theorem State.reply_flag (c : Nat) (d : List Byte) (r b : Nat) : (s.reply c d).flag r b = s.flag r b := by simp [State.flag]
@[simp] theorem State.reply_mode (c : Nat) (d : List Byte) : (s.reply c d).mode = s.mode := by simp [State.mode]
@[simp] theorem State.reply_byte (c : Nat) (d : List Byte) (x : Nat) : (s.reply c d).byte x = s.byte x := by simp [State.byte]
@[simp] theorem State.reply_bytes (c : Nat) (d : List Byte) (x k : Nat) : (s.reply c d).bytes x k = s.bytes x k := by simp [State.bytes]
@[simp] theorem State.reply_body (c : Nat) (d : List Byte) (ty r i : Nat) : (s.reply c d).body ty r i = s.body ty r i := by simp [State.body]
@[simp] theorem State.raise_num (n : Nat) (r : Nat) : (s.raise n).num r = s.num r := by simp [State.num]
@[simp] theorem State.raise_fld (n : Nat) (r hi lo : Nat) : (s.raise n).fld r hi lo = s.fld r hi lo := by simp [State.fld]
@[simp] theorem State.raise_flag (n : Nat) (r b : Nat) : (s.raise n).flag r b = s.flag r b := by simp [State.flag]
@[simp] theorem State.raise_mode (n : Nat) : (s.raise n).mode = s.mode := by simp [State.mode]
@[simp] theorem State.raise_byte (n : Nat) (x : Nat) : (s.raise n).byte x = s.byte x := by simp [State.byte]
@[simp] theorem State.raise_bytes (n : Nat) (x k : Nat) : (s.raise n).bytes x k = s.bytes x k := by simp [State.bytes]
@[simp] theorem State.raise_body (n : Nat) (ty r i : Nat) : (s.raise n).body ty r i = s.body ty r i := by simp [State.body]

end Sys2Proof.Machine
end

