-- ==== Sys2Proof/Laws/Bits.lean ====
section
/-! SUPPORT. Laws of the bit fields of register words: what a field and a bit read as after a field has been written. -/
namespace Sys2Proof.Machine

theorem bit_eq_testBit (n i : Nat) : bit n i = n.testBit i := by
  simp only [bit, Nat.testBit, Nat.shiftRight_eq_div_pow, Nat.one_and_eq_mod_two]
  rcases Nat.mod_two_eq_zero_or_one (n / 2 ^ i) with e | e <;> simp [e]

/-- A word whose field is written, as a number. -/
theorem toNat_setField (w : Word) (hi lo v : Nat) (hl : lo ≤ hi) (h : hi < 32) :
    (setField w hi lo v).toNat = (w.toNat / 2 ^ (hi + 1) * 2 ^ (hi + 1 - lo) + v % 2 ^ (hi + 1 - lo)) * 2 ^ lo + w.toNat % 2 ^ lo := by
  have hw : w.toNat < 2 ^ 32 := w.isLt
  simp only [setField, BitVec.toNat_ofNat]
  generalize w.toNat = n at *
  obtain ⟨k, hk⟩ : ∃ k, hi + 1 = lo + k := ⟨hi + 1 - lo, by omega⟩
  have e0 : lo + k - lo = k := by omega
  rw [hk, e0]
  have hv : v % 2 ^ k < 2 ^ k := Nat.mod_lt _ (by positivity)
  generalize v % 2 ^ k = x at *
  have e1 : n / 2 ^ (lo + k) = n / 2 ^ lo / 2 ^ k := by rw [Nat.pow_add, Nat.div_div_eq_div_mul]
  have e2 : 2 ^ lo * (n / 2 ^ lo) + n % 2 ^ lo = n := Nat.div_add_mod n (2 ^ lo)
  have e3 : 2 ^ k * (n / 2 ^ lo / 2 ^ k) + n / 2 ^ lo % 2 ^ k = n / 2 ^ lo := Nat.div_add_mod _ _
  have hb : n % 2 ^ lo < 2 ^ lo := Nat.mod_lt _ (by positivity)
  rw [e1]
  generalize n / 2 ^ lo / 2 ^ k = a at *
  generalize n / 2 ^ lo % 2 ^ k = o at *
  generalize n % 2 ^ lo = b at *
  have hn : n = (a * 2 ^ k + o) * 2 ^ lo + b := by rw [← e2, ← e3]; ring
  have hs : n - o * 2 ^ lo + x * 2 ^ lo = (a * 2 ^ k + x) * 2 ^ lo + b := by
    have h2 : n - o * 2 ^ lo = a * 2 ^ k * 2 ^ lo + b := by
      apply Nat.sub_eq_of_eq_add
      rw [hn]; ring
    rw [h2]; ring
  rw [hs, Nat.mod_eq_of_lt]
  -- it fits
  have hp : 2 ^ (lo + k) * 2 ^ (32 - (lo + k)) = 2 ^ 32 := by rw [← Nat.pow_add]; congr 1; omega
  have ha : a < 2 ^ (32 - (lo + k)) := by
    by_contra hc
    have : 2 ^ (lo + k) * 2 ^ (32 - (lo + k)) ≤ 2 ^ (lo + k) * a := Nat.mul_le_mul_left _ (by omega)
    have : n ≥ 2 ^ (lo + k) * a := by rw [hn, Nat.pow_add]; nlinarith
    omega
  have h5 : (a * 2 ^ k + x) * 2 ^ lo + b < (a + 1) * 2 ^ (lo + k) := by
    rw [Nat.pow_add]
    have : (a * 2 ^ k + x) + 1 ≤ (a + 1) * 2 ^ k := by nlinarith
    have := Nat.mul_le_mul_right (2 ^ lo) this
    nlinarith
  have h6 : (a + 1) * 2 ^ (lo + k) ≤ 2 ^ (32 - (lo + k)) * 2 ^ (lo + k) := Nat.mul_le_mul_right _ (by omega)
  rw [Nat.mul_comm] at hp
  omega

/-- Bit `i` of a word whose field is written. -/
theorem testBit_setField (w : Word) (hi lo v i : Nat) (hl : lo ≤ hi) (h : hi < 32) :
    (setField w hi lo v).toNat.testBit i = if lo ≤ i ∧ i ≤ hi then v.testBit (i - lo) else w.toNat.testBit i := by
  rw [toNat_setField w hi lo v hl h, Nat.mul_comm _ (2 ^ lo)]
  have hb : w.toNat % 2 ^ lo < 2 ^ lo := Nat.mod_lt _ (by positivity)
  rw [Nat.testBit_two_pow_mul_add _ hb]
  by_cases h1 : i < lo
  · have : ¬ (lo ≤ i ∧ i ≤ hi) := by omega
    simp [h1, this, Nat.testBit_mod_two_pow]
  · rw [if_neg h1, Nat.mul_comm _ (2 ^ (hi + 1 - lo)), Nat.testBit_two_pow_mul_add _ (Nat.mod_lt _ (by positivity))]
    by_cases h2 : i ≤ hi
    · have h3 : i - lo < hi + 1 - lo := by omega
      rw [if_pos h3, if_pos ⟨by omega, h2⟩, Nat.testBit_mod_two_pow]
      simp [h3]
    · have h3 : ¬ i - lo < hi + 1 - lo := by omega
      rw [if_neg h3, if_neg (by omega), Nat.testBit_div_two_pow]
      congr 1
      omega

theorem testBit_field (w : Word) (hi lo i : Nat) : (field w hi lo).testBit i = (decide (i < hi + 1 - lo) && w.toNat.testBit (lo + i)) := by
  rw [field, Nat.testBit_mod_two_pow, Nat.testBit_div_two_pow, Nat.add_comm i lo]

/-- A field reads what was written to it. -/
theorem field_setField (w : Word) (hi lo v : Nat) (hl : lo ≤ hi) (h : hi < 32) : field (setField w hi lo v) hi lo = v % 2 ^ (hi + 1 - lo) := by
  apply Nat.eq_of_testBit_eq
  intro i
  rw [testBit_field, testBit_setField w hi lo v _ hl h, Nat.testBit_mod_two_pow]
  by_cases hi' : i < hi + 1 - lo
  · have : lo ≤ lo + i ∧ lo + i ≤ hi := by omega
    rw [if_pos this]
    simp
  · simp [hi']

/-- A field apart from the one written reads as before. -/
theorem field_setField_ne (w : Word) (hi lo v a b : Nat) (hl : lo ≤ hi) (h : hi < 32) (hd : a < lo ∨ hi < b) :
    field (setField w hi lo v) a b = field w a b := by
  apply Nat.eq_of_testBit_eq
  intro i
  rw [testBit_field, testBit_field, testBit_setField w hi lo v _ hl h]
  by_cases hi' : i < a + 1 - b
  · rw [if_neg (by omega)]
  · simp [hi']

/-- A bit reads what was written to it. -/
theorem bit_setField (w : Word) (b : Nat) (v : Bool) (h : b < 32) : bit (setField w b b (ofBool v)).toNat b = v := by
  rw [bit_eq_testBit, testBit_setField w b b _ b (Nat.le_refl _) h, if_pos ⟨Nat.le_refl _, Nat.le_refl _⟩]
  cases v <;> simp [ofBool]

/-- A bit outside the field written reads as before. -/
theorem bit_setField_ne (w : Word) (hi lo v i : Nat) (hl : lo ≤ hi) (h : hi < 32) (hd : i < lo ∨ hi < i) :
    bit (setField w hi lo v).toNat i = bit w.toNat i := by
  rw [bit_eq_testBit, bit_eq_testBit, testBit_setField w hi lo v i hl h, if_neg (by omega)]

/-! ### Registers -/

variable (s : State) (r : Nat)

theorem State.reg_setFld (hi lo v : Nat) : (s.setFld r hi lo v).reg r = setField (s.reg r) hi lo v := by simp

/-- A field of a register reads what was written to it. -/
theorem State.fld_setFld (hi lo v : Nat) (hl : lo ≤ hi) (h : hi < 32) : (s.setFld r hi lo v).fld r hi lo = v % 2 ^ (hi + 1 - lo) := by
  rw [State.fld, State.reg_setFld, field_setField _ hi lo v hl h]

theorem State.fld_setFld_ne (hi lo v a b : Nat) (hl : lo ≤ hi) (h : hi < 32) (hd : a < lo ∨ hi < b) :
    (s.setFld r hi lo v).fld r a b = s.fld r a b := by
  rw [State.fld, State.reg_setFld, field_setField_ne _ hi lo v a b hl h hd, State.fld]

/-- A flag of a register reads what was written to it. -/
theorem State.flag_setFlag (b : Nat) (v : Bool) (h : b < 32) : (s.setFlag r b v).flag r b = v := by
  rw [State.flag, State.setFlag, State.reg_setFld, bit_setField _ b v h]

theorem State.flag_setFld_ne (hi lo v b : Nat) (hl : lo ≤ hi) (h : hi < 32) (hd : b < lo ∨ hi < b) :
    (s.setFld r hi lo v).flag r b = s.flag r b := by
  rw [State.flag, State.reg_setFld, bit_setField_ne _ hi lo v b hl h hd, State.flag]

theorem State.flag_setFlag_ne (a b : Nat) (v : Bool) (h : a < 32) (hd : b ≠ a) : (s.setFlag r a v).flag r b = s.flag r b :=
  s.flag_setFld_ne r a a (ofBool v) b (Nat.le_refl _) h (by omega)

theorem State.fld_setFlag_ne (a x y : Nat) (v : Bool) (h : a < 32) (hd : x < a ∨ a < y) : (s.setFlag r a v).fld r x y = s.fld r x y :=
  s.fld_setFld_ne r a a (ofBool v) x y (Nat.le_refl _) h hd

end Sys2Proof.Machine
end

