-- ==== Sys2Proof/Laws/Keeps.lean ====
section
/-! SUPPORT. The relation between a state and a later one that every operation of the model keeps: the waiting commands and the member of
the family stay, the free values and the packets sent only grow in number, and memory and registers stay in canonical form. The lemmas
`<operation>_keeps` of the files beside this one say it once for each operation, and a proof about `exec` cites them. -/
namespace Sys2Proof.Machine

/-- What every operation keeps of the state `z` it starts from. -/
structure Keeps (z t : State) : Prop where
  pending : t.pending = z.pending
  variant : t.variant = z.variant
  freeCounter : z.freeCounter ≤ t.freeCounter
  outbox : z.outbox <+: t.outbox
  canonical : z.canonical = true → t.canonical = true

/-- The same of what an operation answers. -/
def KeepsP {α : Type} (z : State) (p : State × α) : Prop := Keeps z p.1
def KeepsO (z : State) (o : Option State) : Prop := ∀ t, o = some t → Keeps z t
def KeepsOP {α : Type} (z : State) (o : Option (State × α)) : Prop := ∀ t, o = some t → Keeps z t.1
def KeepsE {ε : Type} (z : State) (o : Except ε State) : Prop := ∀ t, o = .ok t → Keeps z t
def KeepsEP {ε α : Type} (z : State) (o : Except ε (State × α)) : Prop := ∀ t, o = .ok t → Keeps z t.1
def KeepsR (z : State) (r : Host.Outcome State Fault Refusal) : Prop := ∀ t, r = .next t → Keeps z t
def KeepsK (z : State) (r : KeyResult) : Prop := Keeps z r.state

variable {z s t : State}

theorem Keeps.refl (s : State) : Keeps s s := ⟨rfl, rfl, Nat.le_refl _, List.prefix_rfl, id⟩

theorem Keeps.trans (h : Keeps z s) (k : Keeps s t) : Keeps z t :=
  ⟨k.pending.trans h.pending, k.variant.trans h.variant, Nat.le_trans h.freeCounter k.freeCounter, h.outbox.trans k.outbox,
    fun c => k.canonical (h.canonical c)⟩

/-- A state whose other fields are new. -/
theorem Keeps.same
    {xpoison : List Nat} {xbus : BusReply} {xslots : Tab Slot} {xplic : PlicState} {xflt : FltState} {xinj : InjState}
    {xchip : ChipState} {xtime : TimeCounter} {xpwr : PowerState} {xblk : BlkState} {xkey : KeyState} {xspn : SpnState}
    {xtim : TimState} {xrtc : RtcState} {xward : WardState} {xadp : AdpState} {xtsk : TskState} {xlathe : Tab LatheState}
    {xfed : FedState} {xmil : MilState} {xeth : EthState} {xcan : CanState} {xpci : PciState} {xfus : FusState} {xmet : MetState}
    {xprf : Tab Axis} {xlatch : LatchState} {xhinge : HingeState} {xpin : PinState} {xpnl : PnlState} {xcle : CleState}
    (h : Keeps z s) : Keeps z (State.mk
      s.pending s.variant s.mem s.ddrGen xpoison s.regs s.freeCounter xbus xslots xplic xflt xinj xchip xtime xpwr xblk xkey xspn
      xtim xrtc xward xadp xtsk xlathe xfed xmil xeth xcan xpci xfus xmet xprf xlatch xhinge xpin xpnl xcle s.outbox) :=
  h.trans ⟨rfl, rfl, Nat.le_refl _, List.prefix_rfl, id⟩

/-- A state whose memory and registers are new. -/
theorem Keeps.cells (h : Keeps z s) (p : t.pending = s.pending) (v : t.variant = s.variant) (f : t.freeCounter = s.freeCounter)
    (o : t.outbox = s.outbox) (c : s.canonical = true → t.canonical = true) : Keeps z t :=
  h.trans ⟨p, v, Nat.le_of_eq f.symm, by rw [o], c⟩

theorem State.canonical_iff (s : State) : s.canonical = true ↔ Memory.wf s.ddrGen s.mem = true ∧ s.regs.wf = true := by
  simp [State.canonical]

/-! ### The forms of a definition -/

theorem Keeps.ite {c : Prop} [Decidable c] {a b : State} (h : Keeps z a) (k : Keeps z b) : Keeps z (if c then a else b) := by
  split <;> assumption
theorem KeepsP.ite {α : Type} {c : Prop} [Decidable c] {a b : State × α} (h : KeepsP z a) (k : KeepsP z b) :
    KeepsP z (if c then a else b) := by split <;> assumption
theorem KeepsO.ite {c : Prop} [Decidable c] {a b : Option State} (h : KeepsO z a) (k : KeepsO z b) :
    KeepsO z (if c then a else b) := by split <;> assumption
theorem KeepsOP.ite {α : Type} {c : Prop} [Decidable c] {a b : Option (State × α)} (h : KeepsOP z a) (k : KeepsOP z b) :
    KeepsOP z (if c then a else b) := by split <;> assumption
theorem KeepsE.ite {ε : Type} {c : Prop} [Decidable c] {a b : Except ε State} (h : KeepsE z a) (k : KeepsE z b) :
    KeepsE z (if c then a else b) := by split <;> assumption
theorem KeepsEP.ite {ε α : Type} {c : Prop} [Decidable c] {a b : Except ε (State × α)} (h : KeepsEP z a) (k : KeepsEP z b) :
    KeepsEP z (if c then a else b) := by split <;> assumption
theorem KeepsR.ite {c : Prop} [Decidable c] {a b : Host.Outcome State Fault Refusal} (h : KeepsR z a) (k : KeepsR z b) :
    KeepsR z (if c then a else b) := by split <;> assumption
theorem KeepsK.ite {c : Prop} [Decidable c] {a b : KeyResult} (h : KeepsK z a) (k : KeepsK z b) :
    KeepsK z (if c then a else b) := by split <;> assumption

theorem Keeps.by_eq {a b : State} (e : a = b) (h : Keeps z b) : Keeps z a := e ▸ h
theorem KeepsP.by_eq {α : Type} {a b : State × α} (e : a = b) (h : KeepsP z b) : KeepsP z a := e ▸ h
theorem KeepsO.by_eq {a b : Option State} (e : a = b) (h : KeepsO z b) : KeepsO z a := e ▸ h
theorem KeepsOP.by_eq {α : Type} {a b : Option (State × α)} (e : a = b) (h : KeepsOP z b) : KeepsOP z a := e ▸ h
theorem KeepsE.by_eq {ε : Type} {a b : Except ε State} (e : a = b) (h : KeepsE z b) : KeepsE z a := e ▸ h
theorem KeepsEP.by_eq {ε α : Type} {a b : Except ε (State × α)} (e : a = b) (h : KeepsEP z b) : KeepsEP z a := e ▸ h
theorem KeepsR.by_eq {a b : Host.Outcome State Fault Refusal} (e : a = b) (h : KeepsR z b) : KeepsR z a := e ▸ h
theorem KeepsK.by_eq {a b : KeyResult} (e : a = b) (h : KeepsK z b) : KeepsK z a := e ▸ h

theorem Keeps.foldl {β : Type} {f : State → β → State} {l : List β} (h : Keeps z s) (k : ∀ a, Keeps z a → ∀ b, Keeps z (f a b)) :
    Keeps z (l.foldl f s) := by
  induction l generalizing s with
  | nil => exact h
  | cons b r ih => exact ih (k s h b)
theorem KeepsP.foldl {α β : Type} {f : State × α → β → State × α} {l : List β} {p : State × α} (h : KeepsP z p)
    (k : ∀ a, KeepsP z a → ∀ b, KeepsP z (f a b)) : KeepsP z (l.foldl f p) := by
  induction l generalizing p with
  | nil => exact h
  | cons b r ih => exact ih (k p h b)
theorem KeepsO.foldl {β : Type} {f : Option State → β → Option State} {l : List β} {p : Option State} (h : KeepsO z p)
    (k : ∀ a, KeepsO z a → ∀ b, KeepsO z (f a b)) : KeepsO z (l.foldl f p) := by
  induction l generalizing p with
  | nil => exact h
  | cons b r ih => exact ih (k p h b)

theorem KeepsP.mk {α : Type} {a : α} (h : Keeps z s) : KeepsP z (s, a) := h
theorem KeepsP.fst {α : Type} {p : State × α} (h : KeepsP z p) : Keeps z p.1 := h
theorem KeepsK.mk {c : Nat} {o : List Byte} (h : Keeps z s) : KeepsK z ⟨s, c, o⟩ := h
theorem KeepsK.state {r : KeyResult} (h : KeepsK z r) : Keeps z r.state := h
theorem KeepsO.some (h : Keeps z s) : KeepsO z (some s) := fun _ e => by cases e; exact h
theorem KeepsO.none : KeepsO z none := fun _ e => by cases e
theorem KeepsO.map {o : Option State} {f : State → State} (h : KeepsO z o) (k : ∀ a, Keeps z a → Keeps z (f a)) : KeepsO z (o.map f) := by
  intro t e
  obtain ⟨a, ha, rfl⟩ := Option.map_eq_some_iff.1 e
  exact k a (h a ha)
theorem KeepsOP.some {α : Type} {p : State × α} (h : KeepsP z p) : KeepsOP z (some p) := fun _ e => by cases e; exact h
theorem KeepsOP.none {α : Type} : KeepsOP (α := α) z none := fun _ e => by cases e
theorem KeepsE.ok {ε : Type} (h : Keeps z s) : KeepsE (ε := ε) z (.ok s) := fun _ e => by cases e; exact h
theorem KeepsE.error {ε : Type} {e : ε} : KeepsE z (.error e) := fun _ e => by cases e
theorem KeepsEP.ok {ε α : Type} {p : State × α} (h : KeepsP z p) : KeepsEP (ε := ε) z (.ok p) := fun _ e => by cases e; exact h
theorem KeepsEP.error {ε α : Type} {e : ε} : KeepsEP (α := α) z (.error e) := fun _ e => by cases e
theorem KeepsR.next (h : Keeps z s) : KeepsR z (.next s) := fun _ e => by cases e; exact h
theorem KeepsR.refused {r : Refusal} : KeepsR z (.refused r) := fun _ e => by cases e

theorem Keeps.of_eq (e : s = t) (h : Keeps z s) : Keeps z t := e ▸ h
theorem KeepsP.of_eq {α : Type} {p : State × α} {a : α} (e : p = (t, a)) (h : KeepsP z p) : Keeps z t := by subst e; exact h
theorem KeepsO.of_eq {o : Option State} (e : o = Option.some t) (h : KeepsO z o) : Keeps z t := h t e
theorem KeepsOP.of_eq {α : Type} {o : Option (State × α)} {a : α} (e : o = Option.some (t, a)) (h : KeepsOP z o) : Keeps z t := h _ e
theorem KeepsOP.of_pair {α : Type} {o : Option (State × α)} {p : State × α} (e : o = Option.some p) (h : KeepsOP z o) : KeepsP z p := h _ e
theorem KeepsE.of_eq {ε : Type} {o : Except ε State} (e : o = .ok t) (h : KeepsE z o) : Keeps z t := h t e
theorem KeepsEP.of_eq {ε α : Type} {o : Except ε (State × α)} {a : α} (e : o = .ok (t, a)) (h : KeepsEP z o) : Keeps z t := h _ e
theorem KeepsEP.of_pair {ε α : Type} {o : Except ε (State × α)} {p : State × α} (e : o = .ok p) (h : KeepsEP z o) : KeepsP z p := h _ e
theorem KeepsR.of_eq {r : Host.Outcome State Fault Refusal} (e : r = .next t) (h : KeepsR z r) : Keeps z t := h t e

/-! ### The operations that write memory, registers, the free counter or the packets sent -/

theorem State.setReg_keeps {r : Nat} {v : Word} (h : Keeps z s) : Keeps z (s.setReg r v) := by
  refine h.cells rfl rfl rfl rfl fun c => ?_
  rw [State.canonical_iff] at *
  exact ⟨c.1, Tab.wf_set _ _ _ c.2⟩

theorem State.poke_keeps {a : Nat} {bs : List Byte} (h : Keeps z s) : Keeps z (s.poke a bs) := by
  refine h.cells rfl rfl rfl rfl fun c => ?_
  rw [State.canonical_iff] at *
  exact ⟨Memory.wf_writeAll _ _ _ _ c.1, c.2⟩

theorem State.free_keeps (h : Keeps z s) : KeepsP z s.free :=
  h.trans ⟨rfl, rfl, Nat.le_succ _, List.prefix_rfl, id⟩

theorem State.send_keeps {k : SentKind} {d : Nat} {b : List Byte} (h : Keeps z s) : Keeps z (s.send k d b) :=
  h.trans ⟨rfl, rfl, Nat.le_refl _, List.prefix_append _ _, id⟩

theorem Tab.wf_foldl_set {β : Type} (f : Tab Word → β → Tab Word) (hf : ∀ t b, t.wf = true → (f t b).wf = true) (l : List β) (t : Tab Word)
    (h : t.wf = true) : (l.foldl f t).wf = true := by
  induction l generalizing t with
  | nil => exact h
  | cons b r ih => exact ih _ (hf t b h)

theorem State.resetRegion_keeps {r : Nat} (h : Keeps z s) : Keeps z (s.resetRegion r) := by
  refine h.cells rfl rfl rfl rfl fun c => ?_
  rw [State.canonical_iff] at *
  refine ⟨c.1, Tab.wf_foldl_set _ (fun t b ht => ?_) _ _ (Tab.wf_keep _ _ c.2)⟩
  split
  · exact Tab.wf_set _ _ _ ht
  · exact ht

theorem State.dropSnapshots_keeps (h : Keeps z s) : Keeps z s.dropSnapshots := by
  refine h.cells rfl rfl rfl rfl fun c => ?_
  rw [State.canonical_iff] at *
  exact ⟨c.1, Tab.wf_keep _ _ c.2⟩

/-- The MRAM's cells are in canonical form whatever the LPDDR5 holds. -/
theorem Memory.wf_mram (g k : Nat) (m : Memory) (h : Memory.wf g m = true) : Memory.wf k (m.filter fun c => inMram c.1) = true := by
  induction m with
  | nil => rfl
  | cons c r ih =>
    obtain ⟨i, v⟩ := c
    have h' : (decide (v ≠ Memory.unlisted g i) && cellsAbove i r && cellsWf (Memory.unlisted g) r) = true := h
    simp only [Bool.and_eq_true, decide_eq_true_eq] at h'
    by_cases hi : inMram i = true
    · have hu : Memory.unlisted k i = Memory.unlisted g i := by
        simp only [inMram, Bool.and_eq_true, Addr.mram] at hi
        have hi := And.intro (of_decide_eq_true hi.1) (of_decide_eq_true hi.2)
        have h1 : ¬ i < 0x40000 := by omega
        have h2 : i < Addr.ddr := by unfold Addr.ddr; omega
        simp [Memory.unlisted, h1, h2]
      have hr := ih h'.2
      simp only [List.filter_cons, hi, if_true]
      show (decide (v ≠ Memory.unlisted k i) && cellsAbove i _ && cellsWf (Memory.unlisted k) _) = true
      simp only [Bool.and_eq_true, decide_eq_true_eq]
      exact ⟨⟨hu ▸ h'.1.1, cellsAbove_filter i _ r h'.1.2⟩, hr⟩
    · simp only [List.filter_cons, hi]
      exact ih h'.2

theorem tabOf_wf (l : List (Nat × Nat)) : (tabOf l).wf = true := by
  exact Tab.wf_foldl_set _ (fun t b ht => Tab.wf_set _ _ _ ht) _ _ Tab.wf_empty

theorem State.tearWrite_keeps (h : Keeps z s) : Keeps z s.tearWrite := by
  unfold State.tearWrite
  split
  · exact State.poke_keeps h
  · exact h

theorem State.tearRecord_keeps (h : Keeps z s) : Keeps z s.tearRecord := by
  unfold State.tearRecord
  split
  · split
    · have k := State.free_keeps h
      exact Keeps.ite (Keeps.same k) k
    · exact h
  · exact h

theorem State.kept_keeps (h : Keeps z s) : Keeps z s.kept := by
  have h := State.tearRecord_keeps (State.tearWrite_keeps h)
  refine h.cells rfl rfl rfl rfl fun c => ?_
  rw [State.canonical_iff] at *
  refine ⟨Memory.wf_mram _ _ _ c.1, ?_⟩
  show Tab.wf (((Tab.set _ _ _).set _ _).set _ _) = true
  exact Tab.wf_set _ _ _ (Tab.wf_set _ _ _ (Tab.wf_set _ _ _ (tabOf_wf _)))

theorem Reply.stateOr_keeps {r : Reply} (h : Keeps z s) (k : KeepsR z r) : Keeps z (r.stateOr s) := by
  unfold Reply.stateOr
  split
  · exact k _ rfl
  · exact h
  · exact h

end Sys2Proof.Machine
end

