-- ==== Sys2Proof/Laws/KeepsA.lean ====
section
/-! SUPPORT. What each operation keeps, part 1: each lemma follows its definition's form. -/
namespace Sys2Proof.Machine

theorem State.raise_keeps {z s : State} {p1 : _} (h : Keeps z s) : Keeps z (State.raise s p1) :=
  Keeps.ite h h.same

theorem State.poisonWord_keeps {z s : State} {p1 : _} (h : Keeps z s) : Keeps z (State.poisonWord s p1) :=
  h.same

theorem State.setFld_keeps {z s : State} {p1 : _} {p2 : _} {p3 : _} {p4 : _} (h : Keeps z s) : Keeps z (State.setFld s p1 p2 p3 p4) :=
  State.setReg_keeps h

theorem State.bump_keeps {z s : State} {p1 : _} {p2 : _} {p3 : _} {p4 : _} (h : Keeps z s) : Keeps z (State.bump s p1 p2 p3 p4) :=
  State.setFld_keeps h

theorem State.countEvent_keeps {z s : State} {p1 : _} (h : Keeps z s) : Keeps z (State.countEvent s p1) :=
  Keeps.ite h (State.bump_keeps h)

theorem State.noteInjected_keeps {z s : State} {p1 : _} (h : Keeps z s) : Keeps z (State.noteInjected s p1) := by
  unfold State.noteInjected
  split
  · exact h.same
  · exact h

theorem State.showWaiting_keeps {z s : State} (h : Keeps z s) : Keeps z (State.showWaiting s) :=
  State.setFld_keeps h

theorem State.detect_keeps {z s : State} {p1 : _} (h : Keeps z s) : KeepsP z (State.detect s p1) := by
  unfold State.detect
  extract_lets -merge -useContext +onlyGivenNames x1
  try clear_value x1
  extract_lets -merge -useContext +onlyGivenNames x2
  have h3 : Keeps z x2 := State.countEvent_keeps h
  clear_value x2
  refine KeepsP.ite (KeepsP.mk h3) ?_
  refine KeepsP.ite (KeepsP.mk h3) ?_
  refine KeepsP.ite (KeepsP.mk h3) ?_
  extract_lets -merge -useContext +onlyGivenNames x4 x5
  try clear_value x4
  have h6 : Keeps z x5 := Keeps.ite h3.same h3
  clear_value x5
  split
  · exact KeepsP.mk (State.noteInjected_keeps h6.same)
  · extract_lets -merge -useContext +onlyGivenNames x12
    try clear_value x12
    extract_lets -merge -useContext +onlyGivenNames x13
    try clear_value x13
    exact KeepsP.mk (State.noteInjected_keeps (State.showWaiting_keeps h6.same))

theorem State.detected_keeps {z s : State} {p1 : _} (h : Keeps z s) : Keeps z (State.detected s p1) :=
  KeepsP.fst (State.detect_keeps h)

theorem State.recordBadWord_keeps {z s : State} {p1 : _} {p2 : _} {p3 : _} {p4 : _} (h : Keeps z s) : Keeps z (State.recordBadWord s p1 p2 p3 p4) :=
  State.detected_keeps h

theorem State.setNum_keeps {z s : State} {p1 : _} {p2 : _} (h : Keeps z s) : Keeps z (State.setNum s p1 p2) :=
  State.setReg_keeps h

theorem State.refuseWord_keeps {z s : State} {p1 : _} {p2 : _} {p3 : _} (h : Keeps z s) : Keeps z (State.refuseWord s p1 p2 p3) := by
  unfold State.refuseWord
  extract_lets -merge -useContext +onlyGivenNames x1
  have h2 : Keeps z x1 := State.raise_keeps (State.poisonWord_keeps (State.recordBadWord_keeps h))
  clear_value x1
  exact Keeps.ite (State.raise_keeps (State.setNum_keeps (State.setNum_keeps (State.bump_keeps h2)))) h2

theorem State.engineRead_keeps {z s : State} {p1 : _} {p2 : _} {p3 : _} (h : Keeps z s) : KeepsP z (State.engineRead s p1 p2 p3) := by
  unfold State.engineRead
  split
  · exact KeepsP.mk (State.refuseWord_keeps h)
  · exact KeepsP.mk h

theorem State.blockEvent_keeps {z s : State} {p1 : _} {p2 : _} {p3 : _} {p4 : _} {p5 : _} {p6 : _} (h : Keeps z s) : Keeps z (State.blockEvent s p1 p2 p3 p4 p5 p6) :=
  State.detected_keeps h

theorem State.engineError_keeps {z s : State} {p1 : _} {p2 : _} {p3 : _} (h : Keeps z s) : Keeps z (State.engineError s p1 p2 p3) := by
  unfold State.engineError
  extract_lets -merge -useContext +onlyGivenNames x1
  have h2 : Keeps z x1 := State.detected_keeps h
  clear_value x1
  exact Keeps.ite (State.raise_keeps h2) h2

theorem State.engineWrite_keeps {z s : State} {p1 : _} {p2 : _} {p3 : _} (h : Keeps z s) : Keeps z (State.engineWrite s p1 p2 p3) := by
  unfold State.engineWrite
  refine Keeps.ite (State.engineError_keeps h) ?_
  split
  · exact State.refuseWord_keeps h
  · exact State.poke_keeps h

theorem State.patchResult_keeps {z s : State} {p1 : _} {p2 : _} {p3 : _} (h : Keeps z s) : Keeps z (State.patchResult s p1 p2 p3) :=
  State.raise_keeps (State.engineWrite_keeps h)

theorem State.setFlag_keeps {z s : State} {p1 : _} {p2 : _} {p3 : _} (h : Keeps z s) : Keeps z (State.setFlag s p1 p2 p3) :=
  State.setFld_keeps h

theorem State.discardPatches_keeps {z s : State} {p1 : _} (h : Keeps z s) : Keeps z (State.discardPatches s p1) := by
  unfold State.discardPatches
  extract_lets -merge -useContext +onlyGivenNames x1
  have h2 : Keeps z x1 := by
    unfold x1
    split
    · exact State.patchResult_keeps h
    · exact h
  clear_value x1
  extract_lets -merge -useContext +onlyGivenNames x7
  have h8 : Keeps z x7 := by
    unfold x7
    split
    · exact State.patchResult_keeps h2
    · exact h2
  clear_value x7
  extract_lets -merge -useContext +onlyGivenNames x13 x14
  try clear_value x13
  have h15 : Keeps z x14 := h8.same
  clear_value x14
  extract_lets -merge -useContext +onlyGivenNames x16
  have h17 : Keeps z x16 := State.setFlag_keeps (State.setFlag_keeps h15)
  clear_value x16
  exact State.setFld_keeps h17

theorem State.discardAllPatches_keeps {z s : State} (h : Keeps z s) : Keeps z (State.discardAllPatches s) :=
  Keeps.foldl h fun _ h1 _ => State.discardPatches_keeps h1

theorem State.takeSeq_keeps {z s : State} (h : Keeps z s) : KeepsP z (State.takeSeq s) :=
  KeepsP.mk h.same

theorem State.writeRecord_keeps {z s : State} {p1 : _} {p2 : _} (h : Keeps z s) : Keeps z (State.writeRecord s p1 p2) := by
  unfold State.writeRecord
  extract_lets -merge -useContext +onlyGivenNames x1
  try clear_value x1
  extract_lets -merge -useContext +onlyGivenNames x2
  try clear_value x2
  extract_lets -merge -useContext +onlyGivenNames x3 x4
  try clear_value x3
  have h5 : Keeps z x4 := h.same
  clear_value x4
  extract_lets -merge -useContext +onlyGivenNames x6
  have h7 : Keeps z x6 := State.setNum_keeps h5
  clear_value x6
  extract_lets -merge -useContext +onlyGivenNames x8
  have h9 : Keeps z x8 := Keeps.ite (State.poke_keeps h7) h7
  clear_value x8
  extract_lets -merge -useContext +onlyGivenNames x10
  try clear_value x10
  extract_lets -merge -useContext +onlyGivenNames x11 x12 x13 x14 x15
  have h16 : Keeps z x11 := State.poke_keeps h9
  clear_value x11
  have h17 : Keeps z x12 := Keeps.ite (State.setNum_keeps h16) h16
  clear_value x12
  try clear_value x13
  try clear_value x14
  have h18 : Keeps z x15 := Keeps.ite (Keeps.ite h17 h17.same) (State.raise_keeps (State.bump_keeps h9))
  clear_value x15
  extract_lets -merge -useContext +onlyGivenNames x19
  have h20 : Keeps z x19 := Keeps.ite (State.raise_keeps (State.bump_keeps h18)) h18
  clear_value x19
  extract_lets -merge -useContext +onlyGivenNames x21
  have h22 : Keeps z x21 := Keeps.ite (State.raise_keeps (State.setNum_keeps (State.bump_keeps h20))) h20
  clear_value x21
  exact Keeps.ite (State.raise_keeps h22) h22

theorem State.chipRecord_keeps {z s : State} {p1 : _} (h : Keeps z s) : Keeps z (State.chipRecord s p1) := by
  unfold State.chipRecord
  extract_lets -merge -useContext +onlyGivenNames x1
  try clear_value x1
  extract_lets -merge -useContext +onlyGivenNames x2
  try clear_value x2
  extract_lets -merge -useContext +onlyGivenNames x3
  try clear_value x3
  split
  · rename_i y4 y5 e6
    have h7 : Keeps z y4 := KeepsP.of_eq e6 (State.takeSeq_keeps h)
    split
    · extract_lets -merge -useContext +onlyGivenNames x11
      try clear_value x11
      extract_lets -merge -useContext +onlyGivenNames x12 x13
      try clear_value x12
      have h14 : Keeps z x13 := h7.same
      clear_value x13
      exact State.noteInjected_keeps (State.writeRecord_keeps h14)

theorem State.setMode_keeps {z s : State} {p1 : _} (h : Keeps z s) : Keeps z (State.setMode s p1) := by
  unfold State.setMode
  refine Keeps.ite h ?_
  extract_lets -merge -useContext +onlyGivenNames x1
  try clear_value x1
  extract_lets -merge -useContext +onlyGivenNames x2
  have h3 : Keeps z x2 := State.setFld_keeps (State.setFld_keeps h)
  clear_value x2
  exact State.raise_keeps h3.same

theorem State.raiseAll_keeps {z s : State} {p1 : _} (h : Keeps z s) : Keeps z (State.raiseAll s p1) :=
  Keeps.foldl h fun _ h1 _ => State.raise_keeps h1

theorem State.callReset_keeps {z s : State} (h : Keeps z s) : Keeps z (State.callReset s) :=
  h.same

theorem State.reply_keeps {z s : State} {p1 : _} {p2 : _} (h : Keeps z s) : Keeps z (State.reply s p1 p2) :=
  h.same

theorem State.replyWord_keeps {z s : State} {p1 : _} (h : Keeps z s) : Keeps z (State.replyWord s p1) :=
  State.reply_keeps h

theorem State.roll_keeps {z s : State} {p1 : _} {p2 : _} {p3 : _} {p4 : _} (h : Keeps z s) : Keeps z (State.roll s p1 p2 p3 p4) :=
  State.setFld_keeps h

theorem State.cellEvent_keeps {z s : State} {p1 : _} {p2 : _} {p3 : _} {p4 : _} {p5 : _} {p6 : _} (h : Keeps z s) : Keeps z (State.cellEvent s p1 p2 p3 p4 p5 p6) :=
  State.detected_keeps h

theorem State.showResult_keeps {z s : State} {p1 : _} {p2 : _} {p3 : _} {p4 : _} (h : Keeps z s) : Keeps z (State.showResult s p1 p2 p3 p4) :=
  State.engineWrite_keeps h

theorem State.cellFails_keeps {z s : State} {p1 : _} {p2 : _} {p3 : _} {p4 : _} (h : Keeps z s) : Keeps z (State.cellFails s p1 p2 p3 p4) := by
  unfold State.cellFails
  extract_lets -merge -useContext +onlyGivenNames x1
  try clear_value x1
  split
  · rename_i y2 y3 e4
    have h5 : Keeps z y2 := KeepsP.of_eq e4 (State.detect_keeps h)
    exact State.detected_keeps h5

theorem State.poke32_keeps {z s : State} {p1 : _} {p2 : _} (h : Keeps z s) : Keeps z (State.poke32 s p1 p2) :=
  State.poke_keeps h

theorem State.replyOk_keeps {z s : State} (h : Keeps z s) : Keeps z (State.replyOk s) :=
  State.reply_keeps h

theorem State.deliver_keeps {z s : State} {p1 : _} {p2 : _} {p3 : _} {p4 : _} {p5 : _} {p6 : _} {p7 : _} (h : Keeps z s) : Keeps z (State.deliver s p1 p2 p3 p4 p5 p6 p7) := by
  unfold State.deliver
  extract_lets -merge -useContext +onlyGivenNames x1
  try clear_value x1
  extract_lets -merge -useContext +onlyGivenNames x2
  try clear_value x2
  extract_lets -merge -useContext +onlyGivenNames x3
  try clear_value x3
  exact Keeps.ite h.same (State.showResult_keeps h.same)

theorem State.busError_keeps {z s : State} {p1 : _} {p2 : _} {p3 : _} {p4 : _} (h : Keeps z s) : Keeps z (State.busError s p1 p2 p3 p4) := by
  unfold State.busError
  extract_lets -merge -useContext +onlyGivenNames x1
  have h2 : Keeps z x1 := State.detected_keeps h
  clear_value x1
  extract_lets -merge -useContext +onlyGivenNames x3
  have h4 : Keeps z x3 := Keeps.ite (State.raise_keeps h2) h2
  clear_value x3
  exact State.reply_keeps h4

theorem State.exhaust_keeps {z s : State} {p1 : _} {p2 : _} (h : Keeps z s) : Keeps z (State.exhaust s p1 p2) := by
  unfold State.exhaust
  refine Keeps.ite h ?_
  extract_lets -merge -useContext +onlyGivenNames x1
  try clear_value x1
  extract_lets -merge -useContext +onlyGivenNames x2 x3
  try clear_value x2
  have h4 : Keeps z x3 := h.same
  clear_value x3
  extract_lets -merge -useContext +onlyGivenNames x5
  have h6 : Keeps z x5 := Keeps.ite (State.bump_keeps h4) (Keeps.ite (State.bump_keeps h4) (Keeps.ite (State.bump_keeps h4) (State.bump_keeps h4)))
  clear_value x5
  extract_lets -merge -useContext +onlyGivenNames x7
  have h8 : Keeps z x7 := State.cellEvent_keeps h6
  clear_value x7
  extract_lets -merge -useContext +onlyGivenNames x9
  try clear_value x9
  exact Keeps.ite (State.raise_keeps h8) h8

theorem State.grant_keeps {z s : State} {p1 : _} {p2 : _} {p3 : _} (h : Keeps z s) : KeepsP z (State.grant s p1 p2 p3) := by
  unfold State.grant
  extract_lets -merge -useContext +onlyGivenNames x1
  try clear_value x1
  extract_lets -merge -useContext +onlyGivenNames x2
  try clear_value x2
  extract_lets -merge -useContext +onlyGivenNames x3
  try clear_value x3
  refine KeepsP.ite (KeepsP.mk h) ?_
  refine KeepsP.ite (KeepsP.mk h.same) ?_
  extract_lets -merge -useContext +onlyGivenNames x4
  have h5 : Keeps z x4 := State.exhaust_keeps h
  clear_value x4
  exact KeepsP.ite (KeepsP.mk (State.bump_keeps h5)) (KeepsP.mk h5)

theorem State.travel_keeps {z s : State} {p0 : _} {p1 : _} {p2 : _} (h : Keeps z s) : KeepsP z (State.travel p0 p1 p2 s) := by
  induction p2 generalizing s p0 p1 with
  | nil =>
    rw [State.travel]
    exact KeepsP.mk h
  | cons y r ih =>
    rw [State.travel]
    split
    · rename_i y1 y2 e3
      have h4 : Keeps z y1 := KeepsP.of_eq e3 (State.grant_keeps h)
      exact KeepsP.ite (ih h4) (KeepsP.mk h4)

theorem State.grants_keeps {z s : State} {p1 : _} (h : Keeps z s) : KeepsP z (State.grants s p1) :=
  KeepsP.ite (State.travel_keeps h) (KeepsP.mk h)

theorem State.owe_keeps {z s : State} {p0 : _} {p1 : _} (h : Keeps z s) : Keeps z (State.owe p0 p1 s) := by
  induction p1 generalizing s p0 with
  | nil =>
    rw [State.owe]
    exact h
  | cons y r ih =>
    rw [State.owe]
    split
    · rename_i y1 y2 e3
      have h4 : Keeps z y1 := KeepsP.of_eq e3 (State.grant_keeps h)
      extract_lets -merge -useContext +onlyGivenNames x5
      try clear_value x5
      exact ih (Keeps.ite h4 h4.same)

theorem State.queued_keeps {z s : State} {p1 : _} {p2 : _} (h : Keeps z s) : Keeps z (State.queued s p1 p2) :=
  h.same

theorem State.arbitrated_keeps {z s : State} {p1 : _} {p2 : _} (h : Keeps z s) (k2 : ∀ w1, Keeps z w1 → Keeps z (p2 w1)) : Keeps z (State.arbitrated s p1 p2) := by
  unfold State.arbitrated
  split
  · rename_i y1 y2 e3
    have h4 : Keeps z y1 := KeepsP.of_eq e3 (State.grants_keeps h)
    exact Keeps.ite (k2 _ h4) (State.queued_keeps h4)

theorem State.charge_keeps {z s : State} {p1 : _} {p2 : _} {p3 : _} (h : Keeps z s) : Keeps z (State.charge s p1 p2 p3) :=
  Keeps.ite (State.owe_keeps h) h

theorem State.dmaWrite_keeps {z s : State} {p1 : _} {p2 : _} {p3 : _} (h : Keeps z s) : Keeps z (State.dmaWrite s p1 p2 p3) :=
  State.engineWrite_keeps (State.charge_keeps h)

theorem State.post_keeps {z s : State} {p1 : _} {p2 : _} {p3 : _} {p4 : _} {p5 : _} {p6 : _} {p7 : _} (h : Keeps z s) : Keeps z (State.post s p1 p2 p3 p4 p5 p6 p7) :=
  State.deliver_keeps (State.charge_keeps h)

theorem State.setSpin_keeps {z s : State} {p1 : _} {p2 : _} (h : Keeps z s) : Keeps z (State.setSpin s p1 p2) :=
  h.same

theorem State.moveSpindle_keeps {z s : State} {p1 : _} {p2 : _} {p3 : _} (h : Keeps z s) : Keeps z (State.moveSpindle s p1 p2 p3) := by
  unfold State.moveSpindle
  extract_lets -merge -useContext +onlyGivenNames x1
  try clear_value x1
  extract_lets -merge -useContext +onlyGivenNames x2
  try clear_value x2
  refine Keeps.ite h ?_
  extract_lets -merge -useContext +onlyGivenNames x3
  try clear_value x3
  extract_lets -merge -useContext +onlyGivenNames x4
  try clear_value x4
  extract_lets -merge -useContext +onlyGivenNames x5
  have h6 : Keeps z x5 := State.setSpin_keeps h
  clear_value x5
  exact h6.same

theorem State.correctSpindle_keeps {z s : State} {p1 : _} {p2 : _} (h : Keeps z s) : Keeps z (State.correctSpindle s p1 p2) := by
  unfold State.correctSpindle
  refine Keeps.ite (State.moveSpindle_keeps h) ?_
  extract_lets -merge -useContext +onlyGivenNames x1
  try clear_value x1
  exact State.setSpin_keeps h

theorem State.setSpinFlag_keeps {z s : State} {p1 : _} {p2 : _} {p3 : _} (h : Keeps z s) : Keeps z (State.setSpinFlag s p1 p2 p3) := by
  unfold State.setSpinFlag
  refine Keeps.ite h ?_
  extract_lets -merge -useContext +onlyGivenNames x1
  have h2 : Keeps z x1 := State.setFlag_keeps h
  clear_value x1
  exact Keeps.ite (State.raise_keeps h2) h2

theorem State.finishRejoin_keeps {z s : State} {p1 : _} (h : Keeps z s) : Keeps z (State.finishRejoin s p1) := by
  unfold State.finishRejoin
  extract_lets -merge -useContext +onlyGivenNames x1
  have h2 : Keeps z x1 := State.correctSpindle_keeps h
  clear_value x1
  extract_lets -merge -useContext +onlyGivenNames x3 x4
  try clear_value x3
  have h5 : Keeps z x4 := Keeps.ite (State.setSpin_keeps h2) h2
  clear_value x4
  extract_lets -merge -useContext +onlyGivenNames x6 x7
  try clear_value x6
  have h8 : Keeps z x7 := State.setSpin_keeps h5
  clear_value x7
  exact State.setSpinFlag_keeps (State.setSpinFlag_keeps (State.setSpinFlag_keeps h8))

theorem State.serveDue_keeps {z s : State} {n c : Nat} (h : Keeps z s) : KeepsOP z (State.serveDue s n c) := by
  intro t e
  unfold State.serveDue at e
  split at e
  · cases e
  · extract_lets at e
    split at e
    · cases e
    · cases e; exact h.same

theorem State.releaseSnaps_keeps {z s : State} (h : Keeps z s) : Keeps z (State.releaseSnaps s) := by
  unfold State.releaseSnaps
  extract_lets -merge -useContext +onlyGivenNames x1
  try clear_value x1
  extract_lets -merge -useContext +onlyGivenNames x2
  try clear_value x2
  extract_lets -merge -useContext +onlyGivenNames x3
  try clear_value x3
  exact Keeps.ite h (State.raise_keeps h.same)

theorem State.noteSpindle_keeps {z s : State} {p1 : _} (h : Keeps z s) : Keeps z (State.noteSpindle s p1) := by
  unfold State.noteSpindle
  extract_lets -merge -useContext +onlyGivenNames x1
  try clear_value x1
  extract_lets -merge -useContext +onlyGivenNames x2
  try clear_value x2
  extract_lets -merge -useContext +onlyGivenNames x3
  try clear_value x3
  extract_lets -merge -useContext +onlyGivenNames x4
  try clear_value x4
  extract_lets -merge -useContext +onlyGivenNames x5
  try clear_value x5
  extract_lets -merge -useContext +onlyGivenNames x6
  try clear_value x6
  extract_lets -merge -useContext +onlyGivenNames x7
  try clear_value x7
  exact State.setSpinFlag_keeps (State.setSpin_keeps h)

theorem State.elapseSpindle_keeps {z s : State} {p1 : _} {p2 : _} {p3 : _} {p4 : _} (h : Keeps z s) : Keeps z (State.elapseSpindle s p1 p2 p3 p4) := by
  unfold State.elapseSpindle
  refine Keeps.ite h ?_
  extract_lets -merge -useContext +onlyGivenNames x1
  try clear_value x1
  extract_lets -merge -useContext +onlyGivenNames x2
  try clear_value x2
  extract_lets -merge -useContext +onlyGivenNames x3 x4 x5 x6 x7 x8
  try clear_value x3
  try clear_value x4
  try clear_value x5
  try clear_value x6
  have h9 : Keeps z x7 := State.setSpin_keeps h
  clear_value x7
  have h10 : Keeps z x8 := Keeps.ite (State.moveSpindle_keeps (State.setSpin_keeps h)) (Keeps.ite (State.finishRejoin_keeps (State.moveSpindle_keeps h9)) (State.moveSpindle_keeps h9))
  clear_value x8
  exact State.noteSpindle_keeps h10

theorem State.elapse_keeps {z s : State} {p1 : _} (h : Keeps z s) : Keeps z (State.elapse s p1) := by
  unfold State.elapse
  extract_lets -merge -useContext +onlyGivenNames x1
  try clear_value x1
  extract_lets -merge -useContext +onlyGivenNames x2
  try clear_value x2
  extract_lets -merge -useContext +onlyGivenNames x3
  try clear_value x3
  extract_lets -merge -useContext +onlyGivenNames x4
  try clear_value x4
  extract_lets -merge -useContext +onlyGivenNames x5
  try clear_value x5
  extract_lets -merge -useContext +onlyGivenNames x6
  try clear_value x6
  extract_lets -merge -useContext +onlyGivenNames x7 x8 x9 x10
  try clear_value x7
  try clear_value x8
  try clear_value x9
  have h11 : Keeps z x10 := h.same
  clear_value x10
  extract_lets -merge -useContext +onlyGivenNames x12
  have h13 : Keeps z x12 := Keeps.ite (State.setNum_keeps h11) h11
  clear_value x12
  extract_lets -merge -useContext +onlyGivenNames x14
  have h15 : Keeps z x14 := Keeps.ite (State.raise_keeps h13) h13
  clear_value x14
  exact State.releaseSnaps_keeps (Keeps.foldl h15 fun _ h16 _ => State.elapseSpindle_keeps h16)

theorem State.afterRejoin_keeps {z s : State} {p1 : _} {p2 : _} (h : Keeps z s) : KeepsOP z (State.afterRejoin s p1 p2) := by
  unfold State.afterRejoin
  refine KeepsOP.ite (State.serveDue_keeps h) ?_
  split
  · exact State.serveDue_keeps (State.elapse_keeps h)
  · exact KeepsOP.none

theorem State.crossing_keeps {z s : State} {p1 : _} {p2 : _} (h : Keeps z s) : KeepsOP z (State.crossing s p1 p2) := by
  unfold State.crossing
  refine KeepsOP.ite (State.serveDue_keeps h) ?_
  refine KeepsOP.ite ?_ KeepsOP.none
  extract_lets -merge -useContext +onlyGivenNames x1
  try clear_value x1
  split
  · exact KeepsOP.none
  · exact State.serveDue_keeps (State.elapse_keeps h)
  · split
    · exact KeepsOP.ite (State.serveDue_keeps (State.elapse_keeps h)) (State.afterRejoin_keeps (State.elapse_keeps h))
    · exact State.afterRejoin_keeps (State.elapse_keeps h)

theorem State.firing_keeps {z s : State} {p1 : _} {p2 : _} {p3 : _} (h : Keeps z s) : KeepsOP z (State.firing s p1 p2 p3) :=
  KeepsOP.ite (State.crossing_keeps h) KeepsOP.none

theorem State.setTimFlag_keeps {z s : State} {p1 : _} {p2 : _} (h : Keeps z s) : Keeps z (State.setTimFlag s p1 p2) :=
  State.setFlag_keeps h

theorem State.setTimState_keeps {z s : State} {p1 : _} (h : Keeps z s) : Keeps z (State.setTimState s p1) :=
  State.setFld_keeps h

theorem freeBytes_keeps {z s : State} {p0 : _} (h : Keeps z s) : KeepsP z (freeBytes p0 s) := by
  induction p0 generalizing s with
  | zero =>
    rw [freeBytes]
    exact KeepsP.mk h
  | succ n ih =>
    rw [freeBytes]
    split
    · rename_i y1 y2 e3
      have h4 : Keeps z y1 := KeepsP.of_eq e3 (State.free_keeps h)
      split
      · rename_i y5 y6 e7
        have h8 : Keeps z y5 := KeepsP.of_eq e7 (ih h4)
        exact KeepsP.mk h8

theorem State.setStream_keeps {z s : State} {p1 : _} {p2 : _} (h : Keeps z s) : Keeps z (State.setStream s p1 p2) :=
  h.same

theorem State.showStream_keeps {z s : State} {p1 : _} (h : Keeps z s) : Keeps z (State.showStream s p1) := by
  unfold State.showStream
  extract_lets -merge -useContext +onlyGivenNames x1
  try clear_value x1
  extract_lets -merge -useContext +onlyGivenNames x2
  try clear_value x2
  extract_lets -merge -useContext +onlyGivenNames x3
  try clear_value x3
  extract_lets -merge -useContext +onlyGivenNames x4
  try clear_value x4
  extract_lets -merge -useContext +onlyGivenNames x5
  have h6 : Keeps z x5 := State.setFlag_keeps (State.setFlag_keeps (State.setFlag_keeps h))
  clear_value x5
  extract_lets -merge -useContext +onlyGivenNames x7
  have h8 : Keeps z x7 := State.setFld_keeps (State.setFld_keeps h6)
  clear_value x7
  extract_lets -merge -useContext +onlyGivenNames x9
  have h10 : Keeps z x9 := State.setNum_keeps h8
  clear_value x9
  extract_lets -merge -useContext +onlyGivenNames x11
  have h12 : Keeps z x11 := State.setNum_keeps h10
  clear_value x11
  exact Keeps.ite (State.raise_keeps h12) h12

theorem State.setGraph_keeps {z s : State} {p1 : _} {p2 : _} (h : Keeps z s) : Keeps z (State.setGraph s p1 p2) :=
  h.same

theorem State.lateSample_keeps {z s : State} {p1 : _} {p2 : _} {p3 : _} (h : Keeps z s) : Keeps z (State.lateSample s p1 p2 p3) := by
  unfold State.lateSample
  extract_lets -merge -useContext +onlyGivenNames x1
  try clear_value x1
  extract_lets -merge -useContext +onlyGivenNames x2
  try clear_value x2
  split
  · exact Keeps.ite (State.setFlag_keeps (State.setGraph_keeps h)) (State.raise_keeps (State.bump_keeps (State.bump_keeps h)))
  · exact State.raise_keeps (State.bump_keeps (State.bump_keeps h))

theorem State.takeSample_keeps {z s : State} {p1 : _} {p2 : _} {p3 : _} {p4 : _} {p5 : _} {p6 : _} {p7 : _} (h : Keeps z s) : Keeps z (State.takeSample s p1 p2 p3 p4 p5 p6 p7) := by
  unfold State.takeSample
  extract_lets -merge -useContext +onlyGivenNames x1
  try clear_value x1
  extract_lets -merge -useContext +onlyGivenNames x2
  try clear_value x2
  extract_lets -merge -useContext +onlyGivenNames x3
  try clear_value x3
  extract_lets -merge -useContext +onlyGivenNames x4
  try clear_value x4
  extract_lets -merge -useContext +onlyGivenNames x5
  try clear_value x5
  extract_lets -merge -useContext +onlyGivenNames x6
  try clear_value x6
  extract_lets -merge -useContext +onlyGivenNames x7
  have h8 : Keeps z x7 := State.setFlag_keeps (State.setStream_keeps h)
  clear_value x7
  extract_lets -merge -useContext +onlyGivenNames x9
  have h10 : Keeps z x9 := State.roll_keeps (State.showStream_keeps h8)
  clear_value x9
  extract_lets -merge -useContext +onlyGivenNames x11
  try clear_value x11
  extract_lets -merge -useContext +onlyGivenNames x12
  try clear_value x12
  extract_lets -merge -useContext +onlyGivenNames x13
  try clear_value x13
  extract_lets -merge -useContext +onlyGivenNames x14
  try clear_value x14
  extract_lets -merge -useContext +onlyGivenNames x15
  try clear_value x15
  extract_lets -merge -useContext +onlyGivenNames x16
  try clear_value x16
  extract_lets -merge -useContext +onlyGivenNames x17
  try clear_value x17
  extract_lets -merge -useContext +onlyGivenNames x18
  have h19 : Keeps z x18 := State.dmaWrite_keeps h10
  clear_value x18
  extract_lets -merge -useContext +onlyGivenNames x20
  try clear_value x20
  extract_lets -merge -useContext +onlyGivenNames x21
  have h22 : Keeps z x21 := by
    unfold x21
    split
    · exact Keeps.ite (State.raise_keeps (State.bump_keeps h19)) h19
    · exact h19
  clear_value x21
  extract_lets -merge -useContext +onlyGivenNames x29
  have h30 : Keeps z x29 := State.setStream_keeps h22
  clear_value x29
  refine Keeps.ite h30 ?_
  refine Keeps.foldl h30 fun _ h31 _ => ?_
  split
  · exact Keeps.ite (State.lateSample_keeps h31) h31
  · exact h31

theorem State.fusOffer_keeps {z s : State} {p1 : _} {p2 : _} {p3 : _} {p4 : _} (h : Keeps z s) : Keeps z (State.fusOffer s p1 p2 p3 p4) := by
  unfold State.fusOffer
  refine Keeps.ite h ?_
  refine Keeps.foldl h fun _ h1 _ => ?_
  split
  · rename_i y2 y3 e4
    have h5 : Keeps z y2 := KeepsP.of_eq e4 (freeBytes_keeps h1)
    extract_lets -merge -useContext +onlyGivenNames x6
    try clear_value x6
    exact State.takeSample_keeps h5

theorem State.fusEth_keeps {z s : State} {p1 : _} {p2 : _} {p3 : _} {p4 : _} (h : Keeps z s) : Keeps z (State.fusEth s p1 p2 p3 p4) :=
  State.fusOffer_keeps h

theorem State.clearModel_keeps {z s : State} {p1 : _} (h : Keeps z s) : Keeps z (State.clearModel s p1) :=
  State.showStream_keeps (State.setStream_keeps h)

theorem State.fusTimeStep_keeps {z s : State} (h : Keeps z s) : Keeps z (State.fusTimeStep s) := by
  unfold State.fusTimeStep
  extract_lets -merge -useContext +onlyGivenNames x1
  have h2 : Keeps z x1 := Keeps.foldl h fun _ h3 _ => State.clearModel_keeps h3
  clear_value x1
  exact Keeps.foldl h2 fun _ h4 _ => State.setFlag_keeps (State.setGraph_keeps h4)

theorem State.fusCan_keeps {z s : State} {p1 : _} {p2 : _} {p3 : _} {p4 : _} (h : Keeps z s) : Keeps z (State.fusCan s p1 p2 p3 p4) :=
  State.fusOffer_keeps h

theorem State.clearStream_keeps {z s : State} {p1 : _} (h : Keeps z s) : Keeps z (State.clearStream s p1) :=
  State.showStream_keeps (State.setStream_keeps h)

theorem State.clearGraph_keeps {z s : State} {p1 : _} (h : Keeps z s) : Keeps z (State.clearGraph s p1) := by
  unfold State.clearGraph
  extract_lets -merge -useContext +onlyGivenNames x1
  try clear_value x1
  exact State.setReg_keeps (State.setGraph_keeps h)

theorem State.clearFusion_keeps {z s : State} (h : Keeps z s) : Keeps z (State.clearFusion s) := by
  unfold State.clearFusion
  refine Keeps.foldl h fun _ h1 _ => ?_
  extract_lets -merge -useContext +onlyGivenNames x2
  have h3 : Keeps z x2 := Keeps.ite (State.clearGraph_keeps h1) h1
  clear_value x2
  exact Keeps.ite (State.clearStream_keeps h3) h3

theorem State.fusMet_keeps {z s : State} {p1 : _} {p2 : _} {p3 : _} {p4 : _} (h : Keeps z s) : Keeps z (State.fusMet s p1 p2 p3 p4) :=
  Keeps.ite h (Keeps.foldl h fun _ h1 _ => State.takeSample_keeps h1)

theorem State.fusMilio_keeps {z s : State} {p1 : _} {p2 : _} {p3 : _} {p4 : _} (h : Keeps z s) : Keeps z (State.fusMilio s p1 p2 p3 p4) :=
  State.fusOffer_keeps h

theorem State.gatedOr_keeps {z s : State} {p1 : _} {p2 : _} {p3 : _} {p4 : _} (h : Keeps z s) (k4 : ∀ w1, Keeps z w1 → KeepsE z (p4 w1)) : Keeps z (State.gatedOr s p1 p2 p3 p4) := by
  unfold State.gatedOr
  extract_lets -merge -useContext +onlyGivenNames x1
  try clear_value x1
  refine Keeps.ite h ?_
  refine Keeps.ite ?_ (State.busError_keeps h)
  refine State.arbitrated_keeps h (fun _ h2 => ?_)
  split
  · rename_i y3 e4
    have h5 : Keeps z y3 := KeepsE.of_eq e4 (k4 _ h2)
    exact State.replyOk_keeps h5
  · exact State.busError_keeps h2

theorem State.gatedRead_keeps {z s : State} {p1 : _} {p2 : _} {p3 : _} (h : Keeps z s) (k3 : ∀ w1, Keeps z w1 → KeepsP z (p3 w1)) : Keeps z (State.gatedRead s p1 p2 p3) := by
  unfold State.gatedRead
  extract_lets -merge -useContext +onlyGivenNames x1
  try clear_value x1
  refine Keeps.ite h ?_
  refine Keeps.ite ?_ (State.busError_keeps h)
  refine State.arbitrated_keeps h (fun _ h2 => ?_)
  split
  · rename_i y3 y4 e5
    have h6 : Keeps z y3 := KeepsP.of_eq e5 (k3 _ h2)
    exact State.replyWord_keeps h6

theorem State.gated_keeps {z s : State} {p1 : _} {p2 : _} {p3 : _} {p4 : _} (h : Keeps z s) (k4 : ∀ w1, Keeps z w1 → Keeps z (p4 w1)) : Keeps z (State.gated s p1 p2 p3 p4) := by
  unfold State.gated
  extract_lets -merge -useContext +onlyGivenNames x1
  try clear_value x1
  exact Keeps.ite h (Keeps.ite (State.arbitrated_keeps h (fun _ h2 => State.replyOk_keeps (k4 _ h2))) (State.busError_keeps h))

theorem State.setAxis_keeps {z s : State} {p1 : _} {p2 : _} (h : Keeps z s) : Keeps z (State.setAxis s p1 p2) :=
  h.same

theorem State.showAxis_keeps {z s : State} {p1 : _} (h : Keeps z s) : Keeps z (State.showAxis s p1) :=
  State.setFlag_keeps (State.setFlag_keeps (State.setFlag_keeps h))

theorem State.finishMove_keeps {z s : State} {p1 : _} (h : Keeps z s) : Keeps z (State.finishMove s p1) := by
  unfold State.finishMove
  extract_lets -merge -useContext +onlyGivenNames x1 x2
  try clear_value x1
  have h3 : Keeps z x2 := State.showAxis_keeps (State.setAxis_keeps h)
  clear_value x2
  exact Keeps.ite (State.raise_keeps h3) h3

theorem State.launch_keeps {z s : State} {p1 : _} {p2 : _} (h : Keeps z s) : Keeps z (State.launch s p1 p2) := by
  unfold State.launch
  extract_lets -merge -useContext +onlyGivenNames x1
  have h2 : Keeps z x1 := State.setFlag_keeps (State.setFlag_keeps h)
  clear_value x1
  exact State.showAxis_keeps (State.setAxis_keeps h2)

theorem State.startSingle_keeps {z s : State} {p1 : _} {p2 : _} (h : Keeps z s) : Keeps z (State.startSingle s p1 p2) := by
  unfold State.startSingle
  extract_lets -merge -useContext +onlyGivenNames x1 x2
  try clear_value x1
  have h3 : Keeps z x2 := State.setAxis_keeps h
  clear_value x2
  exact Keeps.ite (State.finishMove_keeps h3) (State.launch_keeps h3)

theorem State.startGroup_keeps {z s : State} {p1 : _} {p2 : _} (h : Keeps z s) : Keeps z (State.startGroup s p1 p2) := by
  unfold State.startGroup
  extract_lets -merge -useContext +onlyGivenNames x1
  try clear_value x1
  extract_lets -merge -useContext +onlyGivenNames x2
  try clear_value x2
  extract_lets -merge -useContext +onlyGivenNames x3
  try clear_value x3
  extract_lets -merge -useContext +onlyGivenNames x4
  try clear_value x4
  extract_lets -merge -useContext +onlyGivenNames x5
  try clear_value x5
  refine Keeps.foldl h fun _ h6 _ => ?_
  extract_lets -merge -useContext +onlyGivenNames x7 x8
  try clear_value x7
  have h9 : Keeps z x8 := State.setAxis_keeps h6
  clear_value x8
  extract_lets -merge -useContext +onlyGivenNames x10
  try clear_value x10
  exact Keeps.ite (State.finishMove_keeps h9) (State.launch_keeps h9)

theorem State.aimGroup_keeps {z s : State} {p1 : _} {p2 : _} (h : Keeps z s) : Keeps z (State.aimGroup s p1 p2) :=
  Keeps.ite (Keeps.foldl h fun _ h1 _ => State.showAxis_keeps (State.setAxis_keeps h1)) (State.startGroup_keeps h)

theorem State.dropHeld_keeps {z s : State} {p1 : _} (h : Keeps z s) : Keeps z (State.dropHeld s p1) :=
  Keeps.ite (State.showAxis_keeps (State.setAxis_keeps h)) h

theorem State.unnamedDetector_keeps {z s : State} (h : Keeps z s) : KeepsP z (State.unnamedDetector s) := by
  unfold State.unnamedDetector
  split
  · rename_i y1 y2 e3
    have h4 : Keeps z y1 := KeepsP.of_eq e3 (State.free_keeps h)
    exact KeepsP.mk h4

theorem State.setLost_keeps {z s : State} {p1 : _} {p2 : _} (h : Keeps z s) : Keeps z (State.setLost s p1 p2) :=
  State.showAxis_keeps (State.setFlag_keeps h)

theorem State.stopAxis_keeps {z s : State} {p1 : _} (h : Keeps z s) : Keeps z (State.stopAxis s p1) := by
  unfold State.stopAxis
  split
  · exact State.dropHeld_keeps h
  · extract_lets -merge -useContext +onlyGivenNames x5
    try clear_value x5
    extract_lets -merge -useContext +onlyGivenNames x6
    try clear_value x6
    extract_lets -merge -useContext +onlyGivenNames x7
    have h8 : Keeps z x7 := State.showAxis_keeps (State.setAxis_keeps h)
    clear_value x7
    extract_lets -merge -useContext +onlyGivenNames x9
    have h10 : Keeps z x9 := by
      unfold x9
      refine Keeps.ite ?_ h8
      split
      · rename_i y11 y12 e13
        have h14 : Keeps z y11 := KeepsP.of_eq e13 (State.unnamedDetector_keeps h8)
        exact State.cellEvent_keeps (State.raise_keeps (State.setLost_keeps h14))
    clear_value x9
    exact State.raise_keeps h10

theorem State.stopAxes_keeps {z s : State} {p1 : _} (h : Keeps z s) : Keeps z (State.stopAxes s p1) :=
  Keeps.foldl h fun _ h1 _ => State.stopAxis_keeps h1

theorem State.gateAxes_keeps {z s : State} (h : Keeps z s) : Keeps z (State.gateAxes s) := by
  unfold State.gateAxes
  refine Keeps.ite h ?_
  refine Keeps.foldl (State.stopAxes_keeps h) fun _ h1 _ => ?_
  extract_lets -merge -useContext +onlyGivenNames x2 x3
  try clear_value x2
  have h4 : Keeps z x3 := State.setAxis_keeps h1
  clear_value x3
  exact Keeps.ite (State.showAxis_keeps (State.setFlag_keeps h4)) (State.showAxis_keeps h4)

theorem State.startHeld_keeps {z s : State} {p1 : _} {p2 : _} (h : Keeps z s) : Keeps z (State.startHeld s p1 p2) := by
  unfold State.startHeld
  extract_lets -merge -useContext +onlyGivenNames x1
  try clear_value x1
  refine Keeps.ite ?_ ?_
  · extract_lets -merge -useContext +onlyGivenNames x2
    try clear_value x2
    refine Keeps.ite h ?_
    extract_lets -merge -useContext +onlyGivenNames x3
    try clear_value x3
    refine Keeps.ite h ?_
    extract_lets -merge -useContext +onlyGivenNames x4
    have h5 : Keeps z x4 := Keeps.foldl h fun _ h6 _ => State.setAxis_keeps h6
    clear_value x4
    exact State.startGroup_keeps (Keeps.foldl h5 fun _ h7 _ => State.showAxis_keeps h7)
  · split
    · exact h
    · exact State.startSingle_keeps (State.setAxis_keeps h)

theorem State.endMove_keeps {z s : State} {p1 : _} {p2 : _} (h : Keeps z s) : Keeps z (State.endMove s p1 p2) :=
  State.startHeld_keeps (State.finishMove_keeps h)

theorem State.haltAxis_keeps {z s : State} {p1 : _} {p2 : _} (h : Keeps z s) : Keeps z (State.haltAxis s p1 p2) := by
  unfold State.haltAxis
  split
  · exact h
  · extract_lets -merge -useContext +onlyGivenNames x5
    try clear_value x5
    extract_lets -merge -useContext +onlyGivenNames x6 x7
    try clear_value x6
    have h8 : Keeps z x7 := State.setAxis_keeps h
    clear_value x7
    exact Keeps.ite (State.endMove_keeps h8) h8

theorem State.haltAxes_keeps {z s : State} {p1 : _} (h : Keeps z s) : Keeps z (State.haltAxes s p1) := by
  unfold State.haltAxes
  extract_lets -merge -useContext +onlyGivenNames x1
  try clear_value x1
  exact Keeps.foldl (Keeps.foldl h fun _ h2 _ => State.dropHeld_keeps h2) fun _ h3 _ => State.haltAxis_keeps h3

theorem State.retarget_keeps {z s : State} {p1 : _} {p2 : _} {p3 : _} (h : Keeps z s) : Keeps z (State.retarget s p1 p2 p3) := by
  unfold State.retarget
  refine Keeps.ite (State.showAxis_keeps (State.setAxis_keeps h)) ?_
  extract_lets -merge -useContext +onlyGivenNames x1
  try clear_value x1
  extract_lets -merge -useContext +onlyGivenNames x2
  try clear_value x2
  extract_lets -merge -useContext +onlyGivenNames x3
  try clear_value x3
  extract_lets -merge -useContext +onlyGivenNames x4
  try clear_value x4
  extract_lets -merge -useContext +onlyGivenNames x5
  try clear_value x5
  extract_lets -merge -useContext +onlyGivenNames x6
  try clear_value x6
  extract_lets -merge -useContext +onlyGivenNames x7
  try clear_value x7
  refine Keeps.ite ?_ (State.haltAxis_keeps h)
  extract_lets -merge -useContext +onlyGivenNames x8
  try clear_value x8
  exact State.setAxis_keeps h

theorem State.aimSingle_keeps {z s : State} {p1 : _} {p2 : _} (h : Keeps z s) : Keeps z (State.aimSingle s p1 p2) := by
  unfold State.aimSingle
  split
  · exact State.retarget_keeps h
  · exact State.startSingle_keeps h

theorem State.latchTarget_keeps {z s : State} {p1 : _} {p2 : _} (h : Keeps z s) : Keeps z (State.latchTarget s p1 p2) := by
  unfold State.latchTarget
  refine Keeps.ite h ?_
  refine Keeps.ite (State.haltAxes_keeps h) ?_
  extract_lets -merge -useContext +onlyGivenNames x1
  try clear_value x1
  extract_lets -merge -useContext +onlyGivenNames x2
  have h3 : Keeps z x2 := State.setFlag_keeps h
  clear_value x2
  extract_lets -merge -useContext +onlyGivenNames x4
  have h5 : Keeps z x4 := Keeps.ite (State.raise_keeps h3) h3
  clear_value x4
  refine Keeps.ite ?_ (State.aimSingle_keeps h5)
  extract_lets -merge -useContext +onlyGivenNames x6
  try clear_value x6
  exact Keeps.ite (State.showAxis_keeps (State.setAxis_keeps h5)) (State.startGroup_keeps h5)

theorem State.setAxisPos_keeps {z s : State} {p1 : _} {p2 : _} (h : Keeps z s) : Keeps z (State.setAxisPos s p1 p2) :=
  State.setNum_keeps h

theorem State.timTakes_keeps {z s : State} {p1 : _} (h : Keeps z s) : Keeps z (State.timTakes s p1) := by
  unfold State.timTakes
  refine Keeps.ite h ?_
  extract_lets -merge -useContext +onlyGivenNames x1
  have h2 : Keeps z x1 := State.setFlag_keeps h
  clear_value x1
  refine Keeps.ite h2 ?_
  extract_lets -merge -useContext +onlyGivenNames x3 x4
  try clear_value x3
  have h5 : Keeps z x4 := State.setSpin_keeps h2
  clear_value x4
  exact State.setSpinFlag_keeps (State.setSpinFlag_keeps h5)

theorem State.fence_keeps {z s : State} {p1 : _} {p2 : _} {p3 : _} {p4 : _} (h : Keeps z s) : Keeps z (State.fence s p1 p2 p3 p4) := by
  unfold State.fence
  refine Keeps.ite h ?_
  split
  · rename_i y1 y2 e3
    have h4 : Keeps z y1 := KeepsP.of_eq e3 (State.detect_keeps h)
    extract_lets -merge -useContext +onlyGivenNames x5 x6
    try clear_value x5
    have h7 : Keeps z x6 := Keeps.ite h4.same h4
    clear_value x6
    extract_lets -merge -useContext +onlyGivenNames x8
    have h9 : Keeps z x8 := State.discardPatches_keeps (State.setFlag_keeps h7)
    clear_value x8
    extract_lets -merge -useContext +onlyGivenNames x10
    have h11 : Keeps z x10 := Keeps.ite (State.stopAxes_keeps h9) h9
    clear_value x10
    extract_lets -merge -useContext +onlyGivenNames x12
    have h13 : Keeps z x12 := Keeps.ite (Keeps.foldl h11 fun _ h14 _ => State.timTakes_keeps h14) h11
    clear_value x12
    extract_lets -merge -useContext +onlyGivenNames x15
    try clear_value x15
    extract_lets -merge -useContext +onlyGivenNames x16
    have h17 : Keeps z x16 := State.raise_keeps h13
    clear_value x16
    exact h17.same

theorem State.setHinge_keeps {z s : State} {p1 : _} (h : Keeps z s) : Keeps z (State.setHinge s p1) :=
  h.same

theorem State.knowEpoch_keeps {z s : State} {p1 : _} (h : Keeps z s) : Keeps z (State.knowEpoch s p1) :=
  Keeps.ite h (State.setFld_keeps h)

theorem State.writeHinge_keeps {z s : State} {p1 : _} (h : Keeps z s) : Keeps z (State.writeHinge s p1) := by
  unfold State.writeHinge
  extract_lets -merge -useContext +onlyGivenNames x1
  try clear_value x1
  exact State.setHinge_keeps (State.engineWrite_keeps h)

theorem State.followHold_keeps {z s : State} (h : Keeps z s) : Keeps z (State.followHold s) :=
  Keeps.ite h (Keeps.ite (State.setMode_keeps h) (State.setMode_keeps h))

theorem State.showCores_keeps {z s : State} (h : Keeps z s) : Keeps z (State.showCores s) := by
  unfold State.showCores
  extract_lets -merge -useContext +onlyGivenNames x1
  try clear_value x1
  extract_lets -merge -useContext +onlyGivenNames x2
  try clear_value x2
  exact State.setFld_keeps (State.setFlag_keeps h)

theorem State.showTask_keeps {z s : State} {p1 : _} (h : Keeps z s) : Keeps z (State.showTask s p1) := by
  unfold State.showTask
  extract_lets -merge -useContext +onlyGivenNames x1
  try clear_value x1
  extract_lets -merge -useContext +onlyGivenNames x2
  try clear_value x2
  extract_lets -merge -useContext +onlyGivenNames x3
  try clear_value x3
  exact State.setFld_keeps (State.setFlag_keeps (State.setFld_keeps h))

theorem State.setProgramMode_keeps {z s : State} {p1 : _} {p2 : _} (h : Keeps z s) : Keeps z (State.setProgramMode s p1 p2) := by
  unfold State.setProgramMode
  extract_lets -merge -useContext +onlyGivenNames x1
  have h2 : Keeps z x1 := State.raise_keeps (State.setFld_keeps h)
  clear_value x1
  extract_lets -merge -useContext +onlyGivenNames x3
  have h4 : Keeps z x3 := Keeps.ite h2 (State.setFlag_keeps h2)
  clear_value x3
  exact State.followHold_keeps (State.showCores_keeps (Keeps.foldl h4 fun _ h5 _ => State.showTask_keeps h5))

theorem State.setTask_keeps {z s : State} {p1 : _} {p2 : _} (h : Keeps z s) : Keeps z (State.setTask s p1 p2) :=
  h.same

theorem State.pauseCore_keeps {z s : State} {p1 : _} (h : Keeps z s) : Keeps z (State.pauseCore s p1) := by
  unfold State.pauseCore
  split
  · exact h
  · extract_lets -merge -useContext +onlyGivenNames x5
    try clear_value x5
    extract_lets -merge -useContext +onlyGivenNames x6
    have h7 : Keeps z x6 := State.setTask_keeps h
    clear_value x6
    exact h7.same

theorem State.startTask_keeps {z s : State} {p1 : _} {p2 : _} (h : Keeps z s) : Keeps z (State.startTask s p1 p2) := by
  unfold State.startTask
  extract_lets -merge -useContext +onlyGivenNames x1
  try clear_value x1
  extract_lets -merge -useContext +onlyGivenNames x2
  try clear_value x2
  extract_lets -merge -useContext +onlyGivenNames x3
  try clear_value x3
  extract_lets -merge -useContext +onlyGivenNames x4
  have h5 : Keeps z x4 := State.setNum_keeps h
  clear_value x4
  extract_lets -merge -useContext +onlyGivenNames x6
  have h7 : Keeps z x6 := Keeps.ite (State.setNum_keeps h5) h5
  clear_value x6
  extract_lets -merge -useContext +onlyGivenNames x8
  try clear_value x8
  extract_lets -merge -useContext +onlyGivenNames x9
  try clear_value x9
  exact State.setTask_keeps h7.same

theorem State.dispatchCore_keeps {z s : State} {p1 : _} (h : Keeps z s) : Keeps z (State.dispatchCore s p1) := by
  unfold State.dispatchCore
  extract_lets -merge -useContext +onlyGivenNames x1
  try clear_value x1
  refine Keeps.ite h ?_
  extract_lets -merge -useContext +onlyGivenNames x2
  have h3 : Keeps z x2 := State.pauseCore_keeps h
  clear_value x2
  split
  · exact h3
  · extract_lets -merge -useContext +onlyGivenNames x6
    have h7 : Keeps z x6 := Keeps.ite h3 (State.startTask_keeps h3)
    clear_value x6
    extract_lets -merge -useContext +onlyGivenNames x8 x9
    try clear_value x8
    have h10 : Keeps z x9 := State.setTask_keeps h7
    clear_value x9
    exact State.showTask_keeps h10.same

theorem State.dispatchAll_keeps {z s : State} (h : Keeps z s) : Keeps z (State.dispatchAll s) :=
  Keeps.foldl h fun _ h1 _ => State.dispatchCore_keeps h1

theorem State.writeSignal_keeps {z s : State} {p1 : _} {p2 : _} {p3 : _} {p4 : _} (h : Keeps z s) : Keeps z (State.writeSignal s p1 p2 p3 p4) := by
  unfold State.writeSignal
  extract_lets -merge -useContext +onlyGivenNames x1
  try clear_value x1
  exact Keeps.ite h (State.poke_keeps h)

theorem State.stopTask_keeps {z s : State} {p1 : _} (h : Keeps z s) : Keeps z (State.stopTask s p1) := by
  unfold State.stopTask
  extract_lets -merge -useContext +onlyGivenNames x1
  try clear_value x1
  extract_lets -merge -useContext +onlyGivenNames x2
  try clear_value x2
  extract_lets -merge -useContext +onlyGivenNames x3
  have h4 : Keeps z x3 := Keeps.ite (State.pauseCore_keeps h) h
  clear_value x3
  extract_lets -merge -useContext +onlyGivenNames x5 x6
  try clear_value x5
  have h7 : Keeps z x6 := State.setTask_keeps h4
  clear_value x6
  extract_lets -merge -useContext +onlyGivenNames x8
  have h9 : Keeps z x8 := State.showTask_keeps (State.setFlag_keeps h7)
  clear_value x8
  exact Keeps.foldl h9 fun _ h10 _ => Keeps.ite (State.writeSignal_keeps h10) h10

theorem State.stopProgram_keeps {z s : State} {p1 : _} (h : Keeps z s) : Keeps z (State.stopProgram s p1) := by
  unfold State.stopProgram
  extract_lets -merge -useContext +onlyGivenNames x1
  have h2 : Keeps z x1 := State.setProgramMode_keeps h
  clear_value x1
  exact State.dispatchAll_keeps (Keeps.foldl h2 fun _ h3 _ => State.stopTask_keeps h3)

theorem State.faultProgram_keeps {z s : State} {p1 : _} (h : Keeps z s) : Keeps z (State.faultProgram s p1) :=
  State.raise_keeps (State.stopProgram_keeps (State.setFlag_keeps h))

theorem State.taskFaults_keeps {z s : State} {p1 : _} (h : Keeps z s) : Keeps z (State.taskFaults s p1) :=
  State.faultProgram_keeps (State.blockEvent_keeps h)

theorem State.overrun_keeps {z s : State} {p1 : _} (h : Keeps z s) : Keeps z (State.overrun s p1) := by
  unfold State.overrun
  extract_lets -merge -useContext +onlyGivenNames x1
  try clear_value x1
  extract_lets -merge -useContext +onlyGivenNames x2 x3
  try clear_value x2
  have h4 : Keeps z x3 := State.setTask_keeps h
  clear_value x3
  extract_lets -merge -useContext +onlyGivenNames x5
  have h6 : Keeps z x5 := State.bump_keeps (State.bump_keeps h4)
  clear_value x5
  extract_lets -merge -useContext +onlyGivenNames x7
  have h8 : Keeps z x7 := State.setFlag_keeps h6
  clear_value x7
  extract_lets -merge -useContext +onlyGivenNames x9
  try clear_value x9
  extract_lets -merge -useContext +onlyGivenNames x10
  have h11 : Keeps z x10 := State.blockEvent_keeps h8
  clear_value x10
  extract_lets -merge -useContext +onlyGivenNames x12
  have h13 : Keeps z x12 := Keeps.ite (State.raise_keeps h11) h11
  clear_value x12
  exact Keeps.ite (State.faultProgram_keeps h13) h13

theorem State.freezeInputs_keeps {z s : State} {p1 : _} (h : Keeps z s) : Keeps z (State.freezeInputs s p1) := by
  unfold State.freezeInputs
  extract_lets -merge -useContext +onlyGivenNames x1
  try clear_value x1
  exact Keeps.foldl h fun _ h2 _ => State.poke_keeps h2

theorem State.releaseTask_keeps {z s : State} {p1 : _} {p2 : _} {p3 : _} {p4 : _} {p5 : _} (h : Keeps z s) : Keeps z (State.releaseTask s p1 p2 p3 p4 p5) := by
  unfold State.releaseTask
  extract_lets -merge -useContext +onlyGivenNames x1
  try clear_value x1
  extract_lets -merge -useContext +onlyGivenNames x2
  try clear_value x2
  extract_lets -merge -useContext +onlyGivenNames x3
  try clear_value x3
  extract_lets -merge -useContext +onlyGivenNames x4
  have h5 : Keeps z x4 := State.freezeInputs_keeps h
  clear_value x4
  extract_lets -merge -useContext +onlyGivenNames x6
  try clear_value x6
  exact State.dispatchCore_keeps (State.showTask_keeps (State.roll_keeps (State.setTask_keeps h5)))

theorem State.cyclicRelease_keeps {z s : State} {p1 : _} {p2 : _} {p3 : _} {p4 : _} {p5 : _} (h : Keeps z s) : Keeps z (State.cyclicRelease s p1 p2 p3 p4 p5) := by
  unfold State.cyclicRelease
  extract_lets -merge -useContext +onlyGivenNames x1
  try clear_value x1
  exact Keeps.ite (State.bump_keeps h) (Keeps.ite h (Keeps.ite (State.overrun_keeps h) (State.releaseTask_keeps h)))

theorem State.releaseAll_keeps {z s : State} {p1 : _} {p2 : _} (h : Keeps z s) : Keeps z (State.releaseAll s p1 p2) := by
  unfold State.releaseAll
  extract_lets -merge -useContext +onlyGivenNames x1
  try clear_value x1
  extract_lets -merge -useContext +onlyGivenNames x2 x3
  try clear_value x2
  have h4 : Keeps z x3 := h.same
  clear_value x3
  refine Keeps.foldl h4 fun _ h5 _ => ?_
  extract_lets -merge -useContext +onlyGivenNames x6
  try clear_value x6
  exact State.cyclicRelease_keeps h5

theorem State.moveTask_keeps {z s : State} {p1 : _} {p2 : _} (h : Keeps z s) : Keeps z (State.moveTask s p1 p2) := by
  unfold State.moveTask
  extract_lets -merge -useContext +onlyGivenNames x1
  try clear_value x1
  exact State.showTask_keeps (State.poke_keeps (State.setTask_keeps h))

theorem replaceAll_keeps {z s : State} {p0 : _} {p1 : _} (h : Keeps z s) : KeepsO z (replaceAll p0 p1 s) := by
  induction p1 generalizing s p0 with
  | nil =>
    rw [replaceAll]
    exact KeepsO.some h
  | cons y r ih =>
    rw [replaceAll]
    refine KeepsO.ite ?_ (ih h)
    split
    · exact KeepsO.none
    · extract_lets -merge -useContext +onlyGivenNames x5
      try clear_value x5
      extract_lets -merge -useContext +onlyGivenNames x6
      have h7 : Keeps z x6 := State.setTask_keeps h
      clear_value x6
      exact ih (State.moveTask_keeps h7)

theorem State.initOutputs_keeps {z s : State} {p1 : _} (h : Keeps z s) : Keeps z (State.initOutputs s p1) := by
  unfold State.initOutputs
  extract_lets -merge -useContext +onlyGivenNames x1
  try clear_value x1
  refine Keeps.foldl h fun _ h2 _ => ?_
  extract_lets -merge -useContext +onlyGivenNames x3
  try clear_value x3
  exact State.poke_keeps h2

theorem State.runProgram_keeps {z s : State} {p1 : _} (h : Keeps z s) : Keeps z (State.runProgram s p1) := by
  unfold State.runProgram
  extract_lets -merge -useContext +onlyGivenNames x1
  try clear_value x1
  extract_lets -merge -useContext +onlyGivenNames x2
  have h3 : Keeps z x2 := Keeps.ite (Keeps.foldl h fun _ h4 _ => State.initOutputs_keeps h4) h
  clear_value x2
  exact State.dispatchAll_keeps (State.setProgramMode_keeps (State.setFlag_keeps h3))

theorem State.parkTask_keeps {z s : State} {p1 : _} (h : Keeps z s) : Keeps z (State.parkTask s p1) := by
  unfold State.parkTask
  extract_lets -merge -useContext +onlyGivenNames x1
  try clear_value x1
  extract_lets -merge -useContext +onlyGivenNames x2
  have h3 : Keeps z x2 := Keeps.ite (State.pauseCore_keeps h) h
  clear_value x2
  exact State.showTask_keeps h3

theorem State.holdProgram_keeps {z s : State} {p1 : _} (h : Keeps z s) : Keeps z (State.holdProgram s p1) := by
  unfold State.holdProgram
  extract_lets -merge -useContext +onlyGivenNames x1
  have h2 : Keeps z x1 := State.setProgramMode_keeps h
  clear_value x1
  exact State.dispatchAll_keeps (Keeps.foldl h2 fun _ h3 _ => State.parkTask_keeps h3)

theorem State.writeProgramMode_keeps {z s : State} {p1 : _} {p2 : _} (h : Keeps z s) : Keeps z (State.writeProgramMode s p1 p2) :=
  Keeps.ite h (Keeps.ite (State.runProgram_keeps h) (Keeps.ite (State.stopProgram_keeps h) (Keeps.ite (State.holdProgram_keeps h) h)))

end Sys2Proof.Machine
end

