-- ==== Sys2Proof/Laws/KeepsB.lean ====
section
/-! SUPPORT. What each operation keeps, part 2: each lemma follows its definition's form. -/
namespace Sys2Proof.Machine

theorem execProgramStop_keeps {z s : State} {p0 : _} {p1 : _} {p2 : _} (h : Keeps z s) : KeepsR z (execProgramStop p0 p1 p2 s) :=
  KeepsR.next (State.gated_keeps h (fun _ h1 => State.writeProgramMode_keeps h1))

theorem State.commitOutputs_keeps {z s : State} {p1 : _} {p2 : _} (h : Keeps z s) : Keeps z (State.commitOutputs s p1 p2) := by
  unfold State.commitOutputs
  extract_lets -merge -useContext +onlyGivenNames x1
  try clear_value x1
  exact Keeps.foldl h fun _ h2 _ => State.writeSignal_keeps h2

theorem State.clearTask_keeps {z s : State} {p1 : _} (h : Keeps z s) : Keeps z (State.clearTask s p1) :=
  Keeps.foldl h fun _ h1 _ => State.setNum_keeps h1

theorem State.commitTask_keeps {z s : State} {p1 : _} (h : Keeps z s) : Keeps z (State.commitTask s p1) := by
  unfold State.commitTask
  split
  · exact h
  · exact Keeps.ite (State.setTask_keeps (State.commitOutputs_keeps h)) h

theorem State.commitsAt_keeps {z s : State} {p1 : _} (h : Keeps z s) : Keeps z (State.commitsAt s p1) :=
  Keeps.foldl h fun _ h1 _ => State.commitTask_keeps h1

theorem execProgramRun_keeps {z s : State} {p0 : _} {p1 : _} {p2 : _} (h : Keeps z s) : KeepsR z (execProgramRun p0 p1 p2 s) :=
  KeepsR.next (State.gated_keeps h (fun _ h1 => State.writeProgramMode_keeps h1))

theorem State.eventFor_keeps {z s : State} {p1 : _} (h : Keeps z s) : Keeps z (State.eventFor s p1) := by
  unfold State.eventFor
  extract_lets -merge -useContext +onlyGivenNames x1
  try clear_value x1
  exact Keeps.ite h (Keeps.ite (State.setFlag_keeps h) (Keeps.ite (State.releaseTask_keeps h.same) (Keeps.ite (State.setFlag_keeps h) (State.raise_keeps (State.bump_keeps h)))))

theorem State.releasePended_keeps {z s : State} (h : Keeps z s) : Keeps z (State.releasePended s) :=
  Keeps.foldl h fun _ h1 _ => State.eventFor_keeps (State.setFlag_keeps h1)

theorem execProgramHold_keeps {z s : State} {p0 : _} {p1 : _} {p2 : _} (h : Keeps z s) : KeepsR z (execProgramHold p0 p1 p2 s) :=
  KeepsR.next (State.gated_keeps h (fun _ h1 => State.writeProgramMode_keeps h1))

theorem State.offerEvent_keeps {z s : State} {p1 : _} {p2 : _} (h : Keeps z s) : Keeps z (State.offerEvent s p1 p2) :=
  Keeps.ite h (Keeps.foldl h fun _ h1 _ => State.eventFor_keeps h1)

theorem execEventTaskRelease_keeps {z s : State} {p0 : _} {p1 : _} (h : Keeps z s) : KeepsR z (execEventTaskRelease p0 p1 s) :=
  KeepsR.next (State.offerEvent_keeps h)

theorem execTaskFault_keeps {z s : State} {p0 : _} (h : Keeps z s) : KeepsR z (execTaskFault p0 s) := by
  unfold execTaskFault
  split
  · exact KeepsR.next h
  · exact KeepsR.next (State.taskFaults_keeps h)

theorem State.breakTask_keeps {z s : State} {p1 : _} (h : Keeps z s) : Keeps z (State.breakTask s p1) := by
  unfold State.breakTask
  extract_lets -merge -useContext +onlyGivenNames x1
  try clear_value x1
  exact State.raise_keeps (State.setFlag_keeps (State.holdProgram_keeps h))

theorem execDebugBreak_keeps {z s : State} {p0 : _} (h : Keeps z s) : KeepsR z (execDebugBreak p0 s) := by
  unfold execDebugBreak
  split
  · exact KeepsR.next h
  · exact KeepsR.next (Keeps.ite h (State.breakTask_keeps h))

theorem State.replaceTasks_keeps {z s : State} {p1 : _} (h : Keeps z s) : KeepsO z (State.replaceTasks s p1) := by
  unfold State.replaceTasks
  extract_lets -merge -useContext +onlyGivenNames x1 x2
  try clear_value x1
  have h3 : Keeps z x2 := h.same
  clear_value x2
  refine KeepsO.map ?_ (fun x5 h4 => ?_)
  · exact replaceAll_keeps h3
  · exact State.dispatchAll_keeps (State.releasePended_keeps (State.showCores_keeps (State.raise_keeps h4)))

theorem State.completeTask_keeps {z s : State} {p1 : _} (h : Keeps z s) : Keeps z (State.completeTask s p1) := by
  unfold State.completeTask
  extract_lets -merge -useContext +onlyGivenNames x1
  try clear_value x1
  extract_lets -merge -useContext +onlyGivenNames x2
  try clear_value x2
  extract_lets -merge -useContext +onlyGivenNames x3
  have h4 : Keeps z x3 := State.pauseCore_keeps h
  clear_value x3
  extract_lets -merge -useContext +onlyGivenNames x5
  try clear_value x5
  extract_lets -merge -useContext +onlyGivenNames x6
  have h7 : Keeps z x6 := Keeps.ite (State.setNum_keeps h4) h4
  clear_value x6
  extract_lets -merge -useContext +onlyGivenNames x8
  try clear_value x8
  extract_lets -merge -useContext +onlyGivenNames x9
  have h10 : Keeps z x9 := State.setTask_keeps h7
  clear_value x9
  extract_lets -merge -useContext +onlyGivenNames x11
  have h12 : Keeps z x11 := Keeps.ite (State.commitOutputs_keeps h10) h10
  clear_value x11
  extract_lets -merge -useContext +onlyGivenNames x13
  have h14 : Keeps z x13 := Keeps.ite h12 (State.setFld_keeps h12)
  clear_value x13
  extract_lets -merge -useContext +onlyGivenNames x15
  have h16 : Keeps z x15 := State.showTask_keeps h14
  clear_value x15
  extract_lets -merge -useContext +onlyGivenNames x17
  have h18 : Keeps z x17 := Keeps.ite (State.eventFor_keeps (State.setFlag_keeps h16)) h16
  clear_value x17
  exact State.dispatchCore_keeps h18

theorem execTaskDone_keeps {z s : State} {p0 : _} {p1 : _} (h : Keeps z s) : KeepsR z (execTaskDone p0 p1 s) := by
  unfold execTaskDone
  refine KeepsR.next (State.gated_keeps h (fun _ h1 => ?_))
  split
  · exact State.completeTask_keeps h1
  · exact h1

theorem execTskClear_keeps {z s : State} {p0 : _} {p1 : _} (h : Keeps z s) : KeepsR z (execTskClear p0 p1 s) :=
  KeepsR.next (State.gated_keeps h (fun _ h1 => Keeps.ite (Keeps.foldl h1 fun _ h2 _ => State.clearTask_keeps h2) (State.clearTask_keeps h1)))

theorem State.gateTasks_keeps {z s : State} (h : Keeps z s) : Keeps z (State.gateTasks s) := by
  unfold State.gateTasks
  extract_lets -merge -useContext +onlyGivenNames x1
  have h2 : Keeps z x1 := Keeps.foldl h fun _ h3 _ => Keeps.ite (State.stopProgram_keeps h3) h3
  clear_value x1
  extract_lets -merge -useContext +onlyGivenNames x4 x5
  try clear_value x4
  have h6 : Keeps z x5 := h2.same
  clear_value x5
  exact Keeps.foldl h6 fun _ h7 _ => State.showTask_keeps (State.setFlag_keeps (State.setTask_keeps h7))

theorem execTrigger_keeps {z s : State} {p0 : _} {p1 : _} (h : Keeps z s) : KeepsR z (execTrigger p0 p1 s) := by
  unfold execTrigger
  refine KeepsR.next (State.gated_keeps h (fun _ h1 => ?_))
  extract_lets -merge -useContext +onlyGivenNames x2
  try clear_value x2
  extract_lets -merge -useContext +onlyGivenNames x3
  try clear_value x3
  extract_lets -merge -useContext +onlyGivenNames x4
  try clear_value x4
  exact Keeps.ite (State.eventFor_keeps h1) h1

theorem State.tempHigh_keeps {z s : State} {p1 : _} (h : Keeps z s) : Keeps z (State.tempHigh s p1) :=
  State.detected_keeps h

theorem State.setRequest_keeps {z s : State} {p1 : _} {p2 : _} (h : Keeps z s) : Keeps z (State.setRequest s p1 p2) := by
  unfold State.setRequest
  extract_lets -merge -useContext +onlyGivenNames x1
  have h2 : Keeps z x1 := State.setFld_keeps h
  clear_value x1
  exact h2.same

theorem State.avsRegion_keeps {z s : State} {p1 : _} {p2 : _} (h : Keeps z s) : Keeps z (State.avsRegion s p1 p2) := by
  unfold State.avsRegion
  extract_lets -merge -useContext +onlyGivenNames x1
  have h2 : Keeps z x1 := State.setFld_keeps h
  clear_value x1
  extract_lets -merge -useContext +onlyGivenNames x3 x4
  try clear_value x3
  have h5 : Keeps z x4 := h2.same
  clear_value x4
  refine Keeps.ite h5 ?_
  extract_lets -merge -useContext +onlyGivenNames x6
  try clear_value x6
  extract_lets -merge -useContext +onlyGivenNames x7
  try clear_value x7
  refine Keeps.ite h5 ?_
  extract_lets -merge -useContext +onlyGivenNames x8
  have h9 : Keeps z x8 := State.setRequest_keeps h5
  clear_value x8
  exact h9.same

theorem State.setAtLimit_keeps {z s : State} {p1 : _} {p2 : _} (h : Keeps z s) : Keeps z (State.setAtLimit s p1 p2) :=
  Keeps.ite (State.raise_keeps (State.setFlag_keeps h)) (State.setFlag_keeps h)

theorem execAvsEvaluation_keeps {z s : State} {p0 : _} {p1 : _} (h : Keeps z s) : KeepsR z (execAvsEvaluation p0 p1 s) := by
  unfold execAvsEvaluation
  extract_lets -merge -useContext +onlyGivenNames x1
  try clear_value x1
  extract_lets -merge -useContext +onlyGivenNames x2
  have h3 : Keeps z x2 := State.setFld_keeps h
  clear_value x2
  extract_lets -merge -useContext +onlyGivenNames x4
  have h5 : Keeps z x4 := Keeps.ite (Keeps.foldl h3 fun _ h6 _ => State.tempHigh_keeps h6) h3
  clear_value x4
  extract_lets -merge -useContext +onlyGivenNames x7 x8
  try clear_value x7
  have h9 : Keeps z x8 := h5.same
  clear_value x8
  extract_lets -merge -useContext +onlyGivenNames x10
  have h11 : Keeps z x10 := Keeps.foldl h9 fun _ h12 _ => State.avsRegion_keeps h12
  clear_value x10
  extract_lets -merge -useContext +onlyGivenNames x13
  have h14 : Keeps z x13 := Keeps.ite (State.setAtLimit_keeps h11) h11
  clear_value x13
  exact KeepsR.next (Keeps.ite (State.setFlag_keeps (State.setFlag_keeps h14)) h14)

theorem State.dfsRegion_keeps {z s : State} {p1 : _} (h : Keeps z s) : Keeps z (State.dfsRegion s p1) := by
  unfold State.dfsRegion
  extract_lets -merge -useContext +onlyGivenNames x1
  try clear_value x1
  extract_lets -merge -useContext +onlyGivenNames x2
  try clear_value x2
  extract_lets -merge -useContext +onlyGivenNames x3 x4
  try clear_value x3
  have h5 : Keeps z x4 := h.same
  clear_value x4
  refine Keeps.ite h5 ?_
  extract_lets -merge -useContext +onlyGivenNames x6
  try clear_value x6
  extract_lets -merge -useContext +onlyGivenNames x7
  try clear_value x7
  extract_lets -merge -useContext +onlyGivenNames x8
  try clear_value x8
  refine Keeps.ite h5 ?_
  extract_lets -merge -useContext +onlyGivenNames x9
  have h10 : Keeps z x9 := State.setFld_keeps h5
  clear_value x9
  exact h10.same

theorem execDfsEvaluation_keeps {z s : State} (h : Keeps z s) : KeepsR z (execDfsEvaluation s) := by
  unfold execDfsEvaluation
  extract_lets -merge -useContext +onlyGivenNames x1
  have h2 : Keeps z x1 := State.dfsRegion_keeps (State.dfsRegion_keeps h)
  clear_value x1
  extract_lets -merge -useContext +onlyGivenNames x3
  try clear_value x3
  exact KeepsR.next (Keeps.ite (State.setAtLimit_keeps h2) h2)

theorem State.settleGates_keeps {z s : State} (h : Keeps z s) : Keeps z (State.settleGates s) :=
  Keeps.ite (State.setFlag_keeps h) h

theorem State.observeGate_keeps {z s : State} {p1 : _} {p2 : _} (h : Keeps z s) : Keeps z (State.observeGate s p1 p2) := by
  unfold State.observeGate
  refine Keeps.ite h ?_
  extract_lets -merge -useContext +onlyGivenNames x1
  try clear_value x1
  extract_lets -merge -useContext +onlyGivenNames x2
  try clear_value x2
  extract_lets -merge -useContext +onlyGivenNames x3 x4
  try clear_value x3
  have h5 : Keeps z x4 := State.settleGates_keeps h.same
  clear_value x4
  refine Keeps.ite ?_ h5
  extract_lets -merge -useContext +onlyGivenNames x6
  try clear_value x6
  exact h5.same

theorem State.coldGates_keeps {z s : State} (h : Keeps z s) : Keeps z (State.coldGates s) :=
  h.same

theorem State.keepFrozen_keeps {z s : State} {p1 : _} {p2 : _} (h : Keeps z s) : Keeps z (State.keepFrozen s p1 p2) := by
  unfold State.keepFrozen
  extract_lets -merge -useContext +onlyGivenNames x1
  have h2 : Keeps z x1 := Keeps.ite (State.setRequest_keeps h) h
  clear_value x1
  exact Keeps.ite (State.setFld_keeps h2) h2

theorem State.coldRegion_keeps {z s : State} {p1 : _} (h : Keeps z s) : Keeps z (State.coldRegion s p1) := by
  unfold State.coldRegion
  extract_lets -merge -useContext +onlyGivenNames x1
  have h2 : Keeps z x1 := State.setRequest_keeps h
  clear_value x1
  extract_lets -merge -useContext +onlyGivenNames x3
  try clear_value x3
  exact Keeps.ite (State.setFld_keeps h2) (Keeps.ite (State.setFld_keeps h2) h2)

theorem State.adpTakeover_keeps {z s : State} (h : Keeps z s) : Keeps z (State.adpTakeover s) := by
  unfold State.adpTakeover
  extract_lets -merge -useContext +onlyGivenNames x1
  try clear_value x1
  extract_lets -merge -useContext +onlyGivenNames x2
  have h3 : Keeps z x2 := Keeps.ite (State.raise_keeps (State.keepFrozen_keeps (State.coldRegion_keeps h))) h
  clear_value x2
  exact h3.same

theorem State.noteRecord_keeps {z s : State} {p1 : _} (h : Keeps z s) : Keeps z (State.noteRecord s p1) :=
  State.setNum_keeps (State.setFlag_keeps (State.setFlag_keeps h))

theorem State.restoreRegion_keeps {z s : State} {p1 : _} {p2 : _} (h : Keeps z s) : Keeps z (State.restoreRegion s p1 p2) := by
  unfold State.restoreRegion
  extract_lets -merge -useContext +onlyGivenNames x1
  have h2 : Keeps z x1 := State.coldRegion_keeps h
  clear_value x1
  extract_lets -merge -useContext +onlyGivenNames x3
  have h4 : Keeps z x3 := Keeps.ite (State.setRequest_keeps h2) h2
  clear_value x3
  exact Keeps.ite h4 (Keeps.ite (State.setFld_keeps h4) (Keeps.ite (State.setFld_keeps h4) h4))

theorem State.noteCold_keeps {z s : State} {p1 : _} (h : Keeps z s) : Keeps z (State.noteCold s p1) :=
  State.raise_keeps (State.setFlag_keeps h)

theorem State.markCold_keeps {z s : State} {p1 : _} (h : Keeps z s) : Keeps z (State.markCold s p1) := by
  unfold State.markCold
  extract_lets -merge -useContext +onlyGivenNames x1
  have h2 : Keeps z x1 := Keeps.foldl h fun _ h3 _ => State.setFlag_keeps h3
  clear_value x1
  exact h2.same

theorem State.adpTakeRegion_keeps {z s : State} {p1 : _} (h : Keeps z s) : Keeps z (State.adpTakeRegion s p1) := by
  unfold State.adpTakeRegion
  extract_lets -merge -useContext +onlyGivenNames x1
  have h2 : Keeps z x1 := by
    unfold x1
    split
    · exact State.noteRecord_keeps (State.restoreRegion_keeps h)
    · exact State.noteCold_keeps (State.coldRegion_keeps h)
  clear_value x1
  exact State.markCold_keeps (State.keepFrozen_keeps h2)

theorem State.coldPlace_keeps {z s : State} (h : Keeps z s) : Keeps z (State.coldPlace s) :=
  Keeps.foldl h fun _ h1 _ => State.showTask_keeps (State.setTask_keeps h1)

theorem execPlaceEvaluation_keeps {z s : State} {p0 : _} {p1 : _} (h : Keeps z s) : KeepsR z (execPlaceEvaluation p0 p1 s) := by
  unfold execPlaceEvaluation
  refine KeepsR.ite (KeepsR.next h) ?_
  extract_lets -merge -useContext +onlyGivenNames x1
  have h2 : Keeps z x1 := Keeps.foldl h fun _ h3 _ => State.setTask_keeps h3
  clear_value x1
  refine KeepsR.ite ?_ (KeepsR.next h2)
  split
  · exact KeepsR.next (State.showTask_keeps (State.setTask_keeps h2))
  · exact KeepsR.next h2

theorem State.storeLastGood_keeps {z s : State} (h : Keeps z s) : Keeps z (State.storeLastGood s) := by
  unfold State.storeLastGood
  refine Keeps.ite h ?_
  extract_lets -merge -useContext +onlyGivenNames x1
  try clear_value x1
  extract_lets -merge -useContext +onlyGivenNames x2
  try clear_value x2
  exact State.raise_keeps (State.setNum_keeps (State.engineWrite_keeps h))

theorem execLastGoodStore_keeps {z s : State} (h : Keeps z s) : KeepsR z (execLastGoodStore s) :=
  KeepsR.next (Keeps.ite (State.storeLastGood_keeps h) h)

theorem State.setTap_keeps {z s : State} {p1 : _} {p2 : _} {p3 : _} (h : Keeps z s) : Keeps z (State.setTap s p1 p2 p3) :=
  Keeps.ite (State.setFld_keeps h) (State.setFld_keeps h)

theorem State.coldEq_keeps {z s : State} (h : Keeps z s) : Keeps z (State.coldEq s) :=
  Keeps.foldl h fun _ h1 _ => State.setNum_keeps (State.setNum_keeps h1)

theorem State.restoreRest_keeps {z s : State} {p1 : _} (h : Keeps z s) : Keeps z (State.restoreRest s p1) := by
  unfold State.restoreRest
  extract_lets -merge -useContext +onlyGivenNames x1
  try clear_value x1
  extract_lets -merge -useContext +onlyGivenNames x2
  try clear_value x2
  extract_lets -merge -useContext +onlyGivenNames x3
  have h4 : Keeps z x3 := State.coldPlace_keeps (State.coldGates_keeps (State.coldEq_keeps h))
  clear_value x3
  extract_lets -merge -useContext +onlyGivenNames x5
  have h6 : Keeps z x5 := by
    unfold x5
    refine Keeps.ite ?_ h4
    refine Keeps.foldl h4 fun _ h7 _ => ?_
    extract_lets -merge -useContext +onlyGivenNames x8
    have h9 : Keeps z x8 := State.setFld_keeps h7
    clear_value x8
    exact Keeps.foldl h9 fun _ h10 _ => State.setTap_keeps h10
  clear_value x5
  extract_lets -merge -useContext +onlyGivenNames x11 x12
  try clear_value x11
  have h13 : Keeps z x12 := Keeps.ite h6.same h6
  clear_value x12
  refine Keeps.ite ?_ h13
  refine Keeps.foldl h13 fun _ h14 _ => ?_
  extract_lets -merge -useContext +onlyGivenNames x15
  try clear_value x15
  exact Keeps.ite h14 (State.showTask_keeps (State.setTask_keeps h14))

theorem execAdpStore_keeps {z s : State} {p0 : _} {p1 : _} (h : Keeps z s) : KeepsR z (execAdpStore p0 p1 s) :=
  KeepsR.next (State.gated_keeps h (fun _ h1 => Keeps.ite (State.storeLastGood_keeps h1) h1))

theorem State.eqStep_keeps {z s : State} {p1 : _} {p2 : _} {p3 : _} (h : Keeps z s) : Keeps z (State.eqStep s p1 p2 p3) := by
  unfold State.eqStep
  extract_lets -merge -useContext +onlyGivenNames x1
  try clear_value x1
  extract_lets -merge -useContext +onlyGivenNames x2
  have h3 : Keeps z x2 := State.setFld_keeps h
  clear_value x2
  exact Keeps.foldl h3 fun _ h4 _ => State.setTap_keeps h4

theorem execDetThreshUpdate_keeps {z s : State} {p0 : _} (h : Keeps z s) : KeepsR z (execDetThreshUpdate p0 s) := by
  unfold execDetThreshUpdate
  extract_lets -merge -useContext +onlyGivenNames x1
  have h2 : Keeps z x1 := State.settleGates_keeps (State.setFld_keeps h)
  clear_value x1
  refine KeepsR.ite ?_ (KeepsR.next h2)
  extract_lets -merge -useContext +onlyGivenNames x3 x4
  try clear_value x3
  have h5 : Keeps z x4 := h2.same
  clear_value x4
  exact KeepsR.next (State.setAtLimit_keeps h5)

theorem execLinkEqUpdate_keeps {z s : State} {p0 : _} {p1 : _} {p2 : _} (h : Keeps z s) : KeepsR z (execLinkEqUpdate p0 p1 p2 s) := by
  unfold execLinkEqUpdate
  refine KeepsR.ite (KeepsR.next h) ?_
  extract_lets -merge -useContext +onlyGivenNames x1
  try clear_value x1
  extract_lets -merge -useContext +onlyGivenNames x2 x3
  try clear_value x2
  have h4 : Keeps z x3 := h.same
  clear_value x3
  extract_lets -merge -useContext +onlyGivenNames x5
  have h6 : Keeps z x5 := Keeps.ite (State.setFlag_keeps h4) h4
  clear_value x5
  refine KeepsR.ite ?_ (KeepsR.next h6)
  extract_lets -merge -useContext +onlyGivenNames x7
  have h8 : Keeps z x7 := State.eqStep_keeps h6
  clear_value x7
  exact KeepsR.next (State.setAtLimit_keeps h8)

theorem State.adpRestore_keeps {z s : State} (h : Keeps z s) : Keeps z (State.adpRestore s) := by
  unfold State.adpRestore
  extract_lets -merge -useContext +onlyGivenNames x1
  have h2 : Keeps z x1 := State.markCold_keeps h
  clear_value x1
  split
  · exact State.noteRecord_keeps (State.restoreRest_keeps (Keeps.foldl h2 fun _ h6 _ => State.restoreRegion_keeps h6))
  · exact State.noteCold_keeps (State.coldPlace_keeps (State.coldGates_keeps (State.coldEq_keeps (Keeps.foldl h2 fun _ h9 _ => State.coldRegion_keeps h9))))

theorem execTaskMove_keeps {z s : State} {p0 : _} (h : Keeps z s) : KeepsR z (execTaskMove p0 s) := by
  unfold execTaskMove
  extract_lets -merge -useContext +onlyGivenNames x1
  try clear_value x1
  split
  · exact KeepsR.next h
  · refine KeepsR.ite (KeepsR.next h) ?_
    extract_lets -merge -useContext +onlyGivenNames x6
    have h7 : Keeps z x6 := State.moveTask_keeps h
    clear_value x6
    extract_lets -merge -useContext +onlyGivenNames x8 x9
    try clear_value x8
    have h10 : Keeps z x9 := State.setTask_keeps h7
    clear_value x9
    extract_lets -merge -useContext +onlyGivenNames x11
    have h12 : Keeps z x11 := State.setFld_keeps (State.setFld_keeps (State.bump_keeps h10))
    clear_value x11
    exact KeepsR.next (State.raise_keeps h12)

theorem State.adpStandby_keeps {z s : State} (h : Keeps z s) : Keeps z (State.adpStandby s) := by
  unfold State.adpStandby
  extract_lets -merge -useContext +onlyGivenNames x1
  have h2 : Keeps z x1 := State.storeLastGood_keeps h
  clear_value x1
  exact h2.same

theorem KeyResult.fail_keeps {z s : State} {p1 : _} (h : Keeps z s) : KeepsK z (KeyResult.fail s p1) :=
  KeepsK.mk h

theorem State.withInput_keeps {z s : State} {p1 : _} {p2 : _} {p3 : _} (h : Keeps z s) (k3 : ∀ w1, Keeps z w1 → ∀ w2, KeepsK z (p3 w1 w2)) : KeepsK z (State.withInput s p1 p2 p3) :=
  KeepsK.ite (KeyResult.fail_keeps h) (KeepsK.ite (KeyResult.fail_keeps h) (k3 _ (State.charge_keeps h) _))

theorem State.putSlot_keeps {z s : State} {p1 : _} {p2 : _} (h : Keeps z s) : Keeps z (State.putSlot s p1 p2) :=
  State.setNum_keeps h.same

theorem State.writeKeyRecord_keeps {z s : State} {p1 : _} (h : Keeps z s) : Keeps z (State.writeKeyRecord s p1) := by
  unfold State.writeKeyRecord
  extract_lets -merge -useContext +onlyGivenNames x1
  try clear_value x1
  extract_lets -merge -useContext +onlyGivenNames x2
  try clear_value x2
  exact State.setNum_keeps h.same

theorem State.serveProvision_keeps {z s : State} {p1 : _} (h : Keeps z s) : KeepsK z (State.serveProvision s p1) := by
  unfold State.serveProvision
  refine State.withInput_keeps h (fun _ h1 _ => ?_)
  refine KeepsK.ite (KeyResult.fail_keeps h1) ?_
  refine KeepsK.ite (KeyResult.fail_keeps h1) ?_
  extract_lets -merge -useContext +onlyGivenNames x2
  have h3 : Keeps z x2 := State.putSlot_keeps h1
  clear_value x2
  exact KeepsK.mk (State.writeKeyRecord_keeps h3)

theorem State.keyOutput_keeps {z s : State} {p1 : _} {p2 : _} (h : Keeps z s) : KeepsK z (State.keyOutput s p1 p2) :=
  KeepsK.ite (KeyResult.fail_keeps h) (KeepsK.ite (KeyResult.fail_keeps h) (KeepsK.mk (State.dmaWrite_keeps h)))

theorem State.serveDecrypt_keeps {z s : State} {p1 : _} (h : Keeps z s) : KeepsK z (State.serveDecrypt s p1) := by
  unfold State.serveDecrypt
  extract_lets -merge -useContext +onlyGivenNames x1
  try clear_value x1
  refine KeepsK.ite (KeyResult.fail_keeps h) ?_
  refine State.withInput_keeps h (fun _ h2 _ => ?_)
  extract_lets -merge -useContext +onlyGivenNames x3
  try clear_value x3
  split
  · exact KeyResult.fail_keeps h2
  · exact State.keyOutput_keeps h2

theorem State.completeKey_keeps {z s : State} {q : KeyRequest} {r : KeyResult} (h : KeepsK z r) : Keeps z (State.completeKey s q r) := by
  unfold State.completeKey
  extract_lets t u v x
  have h0 : Keeps z v := State.dmaWrite_keeps (State.dmaWrite_keeps h)
  have h2 : Keeps z x := Keeps.ite (State.raise_keeps (State.detected_keeps (State.bump_keeps h0))) h0
  exact Keeps.ite (State.raise_keeps h2) h2

theorem State.serveKey_keeps {z s : State} {p1 : _} {p2 : _} (h : Keeps z s) (k2 : ∀ w1, Keeps z w1 → ∀ w2, KeepsK z (p2 w1 w2)) : Keeps z (State.serveKey s p1 p2) := by
  unfold State.serveKey
  split
  · exact h
  · extract_lets -merge -useContext +onlyGivenNames x7
    try clear_value x7
    extract_lets -merge -useContext +onlyGivenNames x8
    try clear_value x8
    extract_lets -merge -useContext +onlyGivenNames x9
    try clear_value x9
    refine Keeps.ite h ?_
    extract_lets -merge -useContext +onlyGivenNames x10 x11
    try clear_value x10
    have h12 : Keeps z x11 := State.setFld_keeps h.same
    clear_value x11
    extract_lets -merge -useContext +onlyGivenNames x13
    have h14 : Keeps z x13 := State.charge_keeps h12
    clear_value x13
    exact Keeps.ite (State.completeKey_keeps (KeyResult.fail_keeps h14)) (Keeps.ite (State.completeKey_keeps (KeyResult.fail_keeps h14)) (Keeps.ite (State.completeKey_keeps (KeyResult.fail_keeps h14)) (State.completeKey_keeps (k2 _ h14 _))))

theorem State.serveTransition_keeps {z s : State} {p1 : _} (h : Keeps z s) : KeepsK z (State.serveTransition s p1) := by
  unfold State.serveTransition
  extract_lets -merge -useContext +onlyGivenNames x1
  try clear_value x1
  refine KeepsK.ite (KeyResult.fail_keeps h) ?_
  extract_lets -merge -useContext +onlyGivenNames x2
  try clear_value x2
  refine State.withInput_keeps h (fun _ h3 _ => ?_)
  refine KeepsK.ite (KeyResult.fail_keeps h3) ?_
  extract_lets -merge -useContext +onlyGivenNames x4
  try clear_value x4
  extract_lets -merge -useContext +onlyGivenNames x5
  try clear_value x5
  extract_lets -merge -useContext +onlyGivenNames x6
  have h7 : Keeps z x6 := State.writeKeyRecord_keeps h3
  clear_value x6
  exact KeepsK.mk (State.raise_keeps (State.callReset_keeps h7))

theorem execTransition_keeps {z s : State} (h : Keeps z s) : KeepsR z (execTransition s) :=
  KeepsR.next (State.serveKey_keeps h (fun _ h1 _ => State.serveTransition_keeps h1))

theorem State.showDevid_keeps {z s : State} (h : Keeps z s) : Keeps z (State.showDevid s) :=
  Keeps.foldl h fun _ h1 _ => State.setNum_keeps h1

theorem State.serveEncrypt_keeps {z s : State} {p1 : _} (h : Keeps z s) : KeepsK z (State.serveEncrypt s p1) := by
  unfold State.serveEncrypt
  extract_lets -merge -useContext +onlyGivenNames x1
  try clear_value x1
  refine KeepsK.ite (KeyResult.fail_keeps h) ?_
  refine State.withInput_keeps h (fun _ h2 _ => ?_)
  extract_lets -merge -useContext +onlyGivenNames x3
  try clear_value x3
  exact State.keyOutput_keeps h2

theorem State.keySubmit_keeps {z s : State} {p1 : _} {p2 : _} (h : Keeps z s) : Keeps z (State.keySubmit s p1 p2) := by
  unfold State.keySubmit
  extract_lets -merge -useContext +onlyGivenNames x1
  try clear_value x1
  refine Keeps.ite (State.busError_keeps (State.setNum_keeps h)) ?_
  refine Keeps.ite (State.replyOk_keeps (State.setNum_keeps h)) ?_
  extract_lets -merge -useContext +onlyGivenNames x2 x3
  try clear_value x2
  have h4 : Keeps z x3 := h.same
  clear_value x3
  exact State.replyOk_keeps (State.setNum_keeps (State.setFld_keeps h4))

theorem execEncrypt_keeps {z s : State} (h : Keeps z s) : KeepsR z (execEncrypt s) :=
  KeepsR.next (State.serveKey_keeps h (fun _ h1 _ => State.serveEncrypt_keeps h1))

theorem State.serveDigest_keeps {z s : State} {p1 : _} (h : Keeps z s) : KeepsK z (State.serveDigest s p1) :=
  State.withInput_keeps h (fun _ h1 _ => State.keyOutput_keeps h1)

theorem execDigest_keeps {z s : State} (h : Keeps z s) : KeepsR z (execDigest s) :=
  KeepsR.next (State.serveKey_keeps h (fun _ h1 _ => State.serveDigest_keeps h1))

theorem State.loadRootSlots_keeps {z s : State} (h : Keeps z s) : Keeps z (State.loadRootSlots s) := by
  unfold State.loadRootSlots
  extract_lets -merge -useContext +onlyGivenNames x1
  try clear_value x1
  extract_lets -merge -useContext +onlyGivenNames x2
  have h3 : Keeps z x2 := State.putSlot_keeps h
  clear_value x2
  extract_lets -merge -useContext +onlyGivenNames x4
  have h5 : Keeps z x4 := State.putSlot_keeps h3
  clear_value x4
  exact State.putSlot_keeps h5

theorem State.showRecord_keeps {z s : State} {p1 : _} (h : Keeps z s) : Keeps z (State.showRecord s p1) :=
  State.setNum_keeps (State.setFld_keeps (State.setFld_keeps h))

theorem State.loadRecord_keeps {z s : State} {p1 : _} (h : Keeps z s) : Keeps z (State.loadRecord s p1) := by
  unfold State.loadRecord
  refine Keeps.foldl h fun _ h1 _ => ?_
  split
  · exact State.putSlot_keeps h1
  · exact State.putSlot_keeps h1

theorem State.mountKeys_keeps {z s : State} (h : Keeps z s) : Keeps z (State.mountKeys s) := by
  unfold State.mountKeys
  extract_lets -merge -useContext +onlyGivenNames x1
  try clear_value x1
  extract_lets -merge -useContext +onlyGivenNames x2
  try clear_value x2
  extract_lets -merge -useContext +onlyGivenNames x3 x4
  try clear_value x3
  have h5 : Keeps z x4 := Keeps.ite h h.same
  clear_value x4
  extract_lets -merge -useContext +onlyGivenNames x6
  have h7 : Keeps z x6 := State.setFlag_keeps (State.showDevid_keeps (State.loadRootSlots_keeps h5))
  clear_value x6
  extract_lets -merge -useContext +onlyGivenNames x8
  have h9 : Keeps z x8 := State.setFlag_keeps h7
  clear_value x8
  split
  · exact State.showRecord_keeps (State.loadRecord_keeps h9.same)
  · exact State.raise_keeps (State.setFld_keeps (State.setFlag_keeps (State.loadRecord_keeps h9)))

theorem State.serveMac_keeps {z s : State} {p1 : _} (h : Keeps z s) : KeepsK z (State.serveMac s p1) := by
  unfold State.serveMac
  extract_lets -merge -useContext +onlyGivenNames x1
  try clear_value x1
  exact KeepsK.ite (KeyResult.fail_keeps h) (State.withInput_keeps h (fun _ h2 _ => State.keyOutput_keeps h2))

theorem State.deriveSlot_keeps {z s : State} {p1 : _} (h : Keeps z s) : Keeps z (State.deriveSlot s p1) := by
  unfold State.deriveSlot
  extract_lets -merge -useContext +onlyGivenNames x1
  try clear_value x1
  extract_lets -merge -useContext +onlyGivenNames x2
  try clear_value x2
  extract_lets -merge -useContext +onlyGivenNames x3
  try clear_value x3
  exact State.putSlot_keeps h

theorem State.deriveKeypol_keeps {z s : State} {p1 : _} (h : Keeps z s) : Keeps z (State.deriveKeypol s p1) :=
  Keeps.foldl h fun _ h1 _ => State.deriveSlot_keeps h1

theorem execProvision_keeps {z s : State} (h : Keeps z s) : KeepsR z (execProvision s) :=
  KeepsR.next (State.serveKey_keeps h (fun _ h1 _ => State.serveProvision_keeps h1))

theorem execDecrypt_keeps {z s : State} (h : Keeps z s) : KeepsR z (execDecrypt s) :=
  KeepsR.next (State.serveKey_keeps h (fun _ h1 _ => State.serveDecrypt_keeps h1))

theorem State.serveRandom_keeps {z s : State} {p1 : _} (h : Keeps z s) : KeepsK z (State.serveRandom s p1) := by
  unfold State.serveRandom
  refine KeepsK.ite (KeyResult.fail_keeps h) ?_
  extract_lets -merge -useContext +onlyGivenNames x1
  try clear_value x1
  exact State.keyOutput_keeps h.same

theorem execRandom_keeps {z s : State} (h : Keeps z s) : KeepsR z (execRandom s) :=
  KeepsR.next (State.serveKey_keeps h (fun _ h1 _ => State.serveRandom_keeps h1))

theorem State.serveSign_keeps {z s : State} {p1 : _} (h : Keeps z s) : KeepsK z (State.serveSign s p1) := by
  unfold State.serveSign
  extract_lets -merge -useContext +onlyGivenNames x1
  try clear_value x1
  exact KeepsK.ite (KeyResult.fail_keeps h) (State.withInput_keeps h (fun _ h2 _ => State.keyOutput_keeps h2))

theorem State.serveQuote_keeps {z s : State} {p1 : _} (h : Keeps z s) : KeepsK z (State.serveQuote s p1) := by
  unfold State.serveQuote
  refine KeepsK.ite (KeyResult.fail_keeps h) ?_
  refine State.withInput_keeps h (fun _ h1 _ => ?_)
  extract_lets -merge -useContext +onlyGivenNames x2
  try clear_value x2
  exact State.keyOutput_keeps h1

theorem execQuote_keeps {z s : State} (h : Keeps z s) : KeepsR z (execQuote s) :=
  KeepsR.next (State.serveKey_keeps h (fun _ h1 _ => State.serveQuote_keeps h1))

theorem execReclaimed_keeps {z s : State} (h : Keeps z s) : KeepsR z (execReclaimed s) := by
  unfold execReclaimed
  split
  · exact KeepsR.next h
  · extract_lets -merge -useContext +onlyGivenNames x5
    have h6 : Keeps z x5 := Keeps.foldl h fun _ h7 _ => State.putSlot_keeps h7
    clear_value x5
    exact KeepsR.next (State.raise_keeps (State.setFld_keeps h6.same))

theorem State.serveVerify_keeps {z s : State} {p1 : _} (h : Keeps z s) : KeepsK z (State.serveVerify s p1) := by
  unfold State.serveVerify
  extract_lets -merge -useContext +onlyGivenNames x1
  try clear_value x1
  exact KeepsK.ite (KeyResult.fail_keeps h) (State.withInput_keeps h (fun _ h2 _ => KeyResult.fail_keeps h2))

theorem execVerify_keeps {z s : State} (h : Keeps z s) : KeepsR z (execVerify s) :=
  KeepsR.next (State.serveKey_keeps h (fun _ h1 _ => State.serveVerify_keeps h1))

theorem State.servePublic_keeps {z s : State} {p1 : _} (h : Keeps z s) : KeepsK z (State.servePublic s p1) := by
  unfold State.servePublic
  extract_lets -merge -useContext +onlyGivenNames x1
  try clear_value x1
  exact KeepsK.ite (KeyResult.fail_keeps h) (KeepsK.ite (KeyResult.fail_keeps h) (KeepsK.ite (KeyResult.fail_keeps h) (State.withInput_keeps h (fun _ h2 _ => State.keyOutput_keeps h2))))

theorem execPublicKey_keeps {z s : State} (h : Keeps z s) : KeepsR z (execPublicKey s) :=
  KeepsR.next (State.serveKey_keeps h (fun _ h1 _ => State.servePublic_keeps h1))

theorem State.invalidateSlot_keeps {z s : State} {p1 : _} (h : Keeps z s) : Keeps z (State.invalidateSlot s p1) := by
  unfold State.invalidateSlot
  extract_lets -merge -useContext +onlyGivenNames x1
  try clear_value x1
  extract_lets -merge -useContext +onlyGivenNames x2 x3
  try clear_value x2
  have h4 : Keeps z x3 := State.putSlot_keeps h
  clear_value x3
  extract_lets -merge -useContext +onlyGivenNames x5
  have h6 : Keeps z x5 := Keeps.foldl h4 fun _ h7 _ => State.putSlot_keeps h7
  clear_value x5
  extract_lets -merge -useContext +onlyGivenNames x8 x9
  try clear_value x8
  have h10 : Keeps z x9 := h6.same
  clear_value x9
  extract_lets -merge -useContext +onlyGivenNames x11 x12
  try clear_value x11
  have h13 : Keeps z x12 := Keeps.ite (State.writeKeyRecord_keeps h10) h10
  clear_value x12
  exact State.setFld_keeps h13

theorem State.serveInvalidate_keeps {z s : State} {p1 : _} (h : Keeps z s) : KeepsK z (State.serveInvalidate s p1) := by
  unfold State.serveInvalidate
  extract_lets -merge -useContext +onlyGivenNames x1
  try clear_value x1
  refine KeepsK.ite (KeyResult.fail_keeps h) ?_
  refine KeepsK.ite (KeyResult.fail_keeps h) ?_
  refine KeepsK.ite (KeyResult.fail_keeps h) ?_
  extract_lets -merge -useContext +onlyGivenNames x2
  try clear_value x2
  exact KeepsK.ite (State.withInput_keeps h (fun _ h3 _ => KeepsK.mk (State.invalidateSlot_keeps h3))) (KeyResult.fail_keeps h)

theorem execKeyInvalidate_keeps {z s : State} (h : Keeps z s) : KeepsR z (execKeyInvalidate s) :=
  KeepsR.next (State.serveKey_keeps h (fun _ h1 _ => State.serveInvalidate_keeps h1))

theorem execSign_keeps {z s : State} (h : Keeps z s) : KeepsR z (execSign s) :=
  KeepsR.next (State.serveKey_keeps h (fun _ h1 _ => State.serveSign_keeps h1))

theorem execKeyClear_keeps {z s : State} {p0 : _} {p1 : _} (h : Keeps z s) : KeepsR z (execKeyClear p0 p1 s) :=
  KeepsR.next (State.gated_keeps h (fun _ h1 => Keeps.ite (State.setNum_keeps h1) h1))

theorem execMac_keeps {z s : State} (h : Keeps z s) : KeepsR z (execMac s) :=
  KeepsR.next (State.serveKey_keeps h (fun _ h1 _ => State.serveMac_keeps h1))

theorem State.showRequests_keeps {z s : State} {p1 : _} (h : Keeps z s) : Keeps z (State.showRequests s p1) := by
  unfold State.showRequests
  extract_lets -merge -useContext +onlyGivenNames x1
  try clear_value x1
  extract_lets -merge -useContext +onlyGivenNames x2
  try clear_value x2
  extract_lets -merge -useContext +onlyGivenNames x3
  try clear_value x3
  exact State.setFlag_keeps (State.setFlag_keeps (State.setNum_keeps h))

theorem State.startPatch_keeps {z s : State} {p1 : _} {p2 : _} (h : Keeps z s) : Keeps z (State.startPatch s p1 p2) := by
  unfold State.startPatch
  extract_lets -merge -useContext +onlyGivenNames x1
  try clear_value x1
  extract_lets -merge -useContext +onlyGivenNames x2
  try clear_value x2
  extract_lets -merge -useContext +onlyGivenNames x3
  try clear_value x3
  split
  · rename_i y4 y5 e6
    have h7 : Keeps z y4 := KeepsP.of_eq e6 (State.engineRead_keeps h)
    extract_lets -merge -useContext +onlyGivenNames x8
    try clear_value x8
    exact State.showRequests_keeps (State.poke32_keeps h7.same)

theorem execCmdDone_keeps {z s : State} (h : Keeps z s) : KeepsR z (execCmdDone s) := by
  unfold execCmdDone
  split
  · exact KeepsR.next h
  · extract_lets -merge -useContext +onlyGivenNames x5 x6
    try clear_value x5
    have h7 : Keeps z x6 := h.same
    clear_value x6
    extract_lets -merge -useContext +onlyGivenNames x8
    have h9 : Keeps z x8 := by
      unfold x8
      split
      · exact h7
      · exact State.poke_keeps h7
    clear_value x8
    exact KeepsR.next (State.raise_keeps (State.setNum_keeps h9))

theorem State.finishPatch_keeps {z s : State} {p1 : _} {p2 : _} {p3 : _} {p4 : _} (h : Keeps z s) : Keeps z (State.finishPatch s p1 p2 p3 p4) := by
  unfold State.finishPatch
  extract_lets -merge -useContext +onlyGivenNames x1
  have h2 : Keeps z x1 := State.patchResult_keeps h
  clear_value x1
  extract_lets -merge -useContext +onlyGivenNames x3 x4
  try clear_value x3
  have h5 : Keeps z x4 := h2.same
  clear_value x4
  split
  · exact State.showRequests_keeps h5
  · exact State.startPatch_keeps h5.same

theorem State.noteSignature_keeps {z s : State} {p1 : _} {p2 : _} (h : Keeps z s) : Keeps z (State.noteSignature s p1 p2) :=
  Keeps.ite (State.detected_keeps h) h

theorem State.startCommand_keeps {z s : State} {p1 : _} (h : Keeps z s) : Keeps z (State.startCommand s p1) := by
  unfold State.startCommand
  extract_lets -merge -useContext +onlyGivenNames x1
  try clear_value x1
  extract_lets -merge -useContext +onlyGivenNames x2
  try clear_value x2
  extract_lets -merge -useContext +onlyGivenNames x3
  try clear_value x3
  extract_lets -merge -useContext +onlyGivenNames x4
  try clear_value x4
  extract_lets -merge -useContext +onlyGivenNames x5
  have h6 : Keeps z x5 := State.setFlag_keeps h
  clear_value x5
  extract_lets -merge -useContext +onlyGivenNames x7
  try clear_value x7
  split
  · exact h6.same
  · refine Keeps.ite (State.poke_keeps h6.same) ?_
    extract_lets -merge -useContext +onlyGivenNames x12
    try clear_value x12
    split
    · exact State.noteSignature_keeps h6.same
    · extract_lets -merge -useContext +onlyGivenNames x17
      try clear_value x17
      extract_lets -merge -useContext +onlyGivenNames x18 x19
      try clear_value x18
      have h20 : Keeps z x19 := h6.same
      clear_value x19
      exact State.poke_keeps (State.poke_keeps h20)

theorem State.submitPatch_keeps {z s : State} {p1 : _} {p2 : _} (h : Keeps z s) : KeepsE z (State.submitPatch s p1 p2) := by
  unfold State.submitPatch
  extract_lets -merge -useContext +onlyGivenNames x1
  try clear_value x1
  refine KeepsE.ite KeepsE.error ?_
  refine KeepsE.ite KeepsE.error ?_
  extract_lets -merge -useContext +onlyGivenNames x2
  try clear_value x2
  refine KeepsE.ite (KeepsE.ok (State.patchResult_keeps h)) ?_
  refine KeepsE.ite (KeepsE.ok (State.patchResult_keeps h)) ?_
  extract_lets -merge -useContext +onlyGivenNames x3
  try clear_value x3
  split
  · exact KeepsE.ok (State.startPatch_keeps h)
  · extract_lets -merge -useContext +onlyGivenNames x8
    have h9 : Keeps z x8 := by
      unfold x8
      split
      · exact State.patchResult_keeps h
      · exact h
    clear_value x8
    exact KeepsE.ok (State.showRequests_keeps h9.same)

theorem execPatchSubmit_keeps {z s : State} {p0 : _} {p1 : _} (h : Keeps z s) : KeepsR z (execPatchSubmit p0 p1 s) :=
  KeepsR.next (State.gatedOr_keeps h (fun _ h1 => State.submitPatch_keeps h1))

theorem State.blankCommand_keeps {z s : State} {p1 : _} {p2 : _} (h : Keeps z s) : Keeps z (State.blankCommand s p1 p2) :=
  State.gatedOr_keeps h (fun _ h1 => KeepsE.ite KeepsE.error (KeepsE.ite (KeepsE.ok (State.startCommand_keeps h1)) (KeepsE.ok h1)))

theorem execPatchChecksDone_keeps {z s : State} {p0 : _} (h : Keeps z s) : KeepsR z (execPatchChecksDone p0 s) := by
  unfold execPatchChecksDone
  split
  · exact KeepsR.next h
  · refine KeepsR.ite (KeepsR.next h) ?_
    split
    · extract_lets -merge -useContext +onlyGivenNames x7
      try clear_value x7
      exact KeepsR.next (State.finishPatch_keeps (State.noteSignature_keeps h))
    · exact KeepsR.next h.same

theorem execStore_keeps {z s : State} {p0 : _} {p1 : _} (h : Keeps z s) : KeepsR z (execStore p0 p1 s) :=
  KeepsR.next (State.blankCommand_keeps h)

theorem execInvalidate_keeps {z s : State} {p0 : _} {p1 : _} (h : Keeps z s) : KeepsR z (execInvalidate p0 p1 s) :=
  KeepsR.next (State.blankCommand_keeps h)

theorem State.injResult_keeps {z s : State} {p1 : _} {p2 : _} {p3 : _} (h : Keeps z s) : Keeps z (State.injResult s p1 p2 p3) :=
  State.raise_keeps (State.setNum_keeps h)

theorem State.showInj_keeps {z s : State} (h : Keeps z s) : Keeps z (State.showInj s) := by
  unfold State.showInj
  split
  · exact State.setNum_keeps h
  · exact State.setNum_keeps h

theorem State.endInjection_keeps {z s : State} {p1 : _} (h : Keeps z s) : Keeps z (State.endInjection s p1) := by
  unfold State.endInjection
  split
  · exact State.injResult_keeps (State.showInj_keeps h.same)
  · exact h

theorem State.abandonInjection_keeps {z s : State} (h : Keeps z s) : Keeps z (State.abandonInjection s) :=
  State.endInjection_keeps h

theorem State.occurrence_keeps {z s : State} {p1 : _} {p2 : _} (h : Keeps z s) (k2 : ∀ w1, Keeps z w1 → Keeps z (p2 w1)) : Keeps z (State.occurrence s p1 p2) := by
  unfold State.occurrence
  extract_lets -merge -useContext +onlyGivenNames x1
  have h2 : Keeps z x1 := State.bump_keeps h
  clear_value x1
  extract_lets -merge -useContext +onlyGivenNames x3 x4
  try clear_value x3
  have h5 : Keeps z x4 := Keeps.ite (State.endInjection_keeps h2) (State.showInj_keeps h2.same)
  clear_value x4
  extract_lets -merge -useContext +onlyGivenNames x6 x7
  try clear_value x6
  have h8 : Keeps z x7 := k2 _ h5.same
  clear_value x7
  exact h8.same

theorem execInjectionTimeout_keeps {z s : State} (h : Keeps z s) : KeepsR z (execInjectionTimeout s) := by
  unfold execInjectionTimeout
  split
  · exact KeepsR.next (State.endInjection_keeps (State.elapse_keeps h))
  · exact KeepsR.next h

theorem State.proofOccurrence_keeps {z s : State} {p1 : _} (h : Keeps z s) (k1 : ∀ w1, Keeps z w1 → Keeps z (p1 w1)) : Keeps z (State.proofOccurrence s p1) := by
  unfold State.proofOccurrence
  extract_lets -merge -useContext +onlyGivenNames x1
  have h2 : Keeps z x1 := State.bump_keeps h
  clear_value x1
  extract_lets -merge -useContext +onlyGivenNames x3 x4
  try clear_value x3
  have h5 : Keeps z x4 := k1 _ h2.same
  clear_value x4
  exact h5.same

theorem execInjAbort_keeps {z s : State} {p0 : _} {p1 : _} (h : Keeps z s) : KeepsR z (execInjAbort p0 p1 s) :=
  KeepsR.next (State.gated_keeps h (fun _ h1 => Keeps.ite (State.abandonInjection_keeps h1) h1))

theorem State.gpioEdgeSeen_keeps {z s : State} {p1 : _} {p2 : _} (h : Keeps z s) : Keeps z (State.gpioEdgeSeen s p1 p2) := by
  unfold State.gpioEdgeSeen
  extract_lets -merge -useContext +onlyGivenNames x1
  try clear_value x1
  extract_lets -merge -useContext +onlyGivenNames x2
  have h3 : Keeps z x2 := Keeps.ite (State.raise_keeps (State.setFlag_keeps h)) h
  clear_value x2
  exact State.offerEvent_keeps h3

theorem State.followBall_keeps {z s : State} {p1 : _} {p2 : _} (h : Keeps z s) : Keeps z (State.followBall s p1 p2) := by
  unfold State.followBall
  extract_lets -merge -useContext +onlyGivenNames x1
  try clear_value x1
  refine Keeps.ite h ?_
  extract_lets -merge -useContext +onlyGivenNames x2
  have h3 : Keeps z x2 := State.setFlag_keeps h
  clear_value x2
  exact Keeps.ite (State.gpioEdgeSeen_keeps h3) h3

theorem execVioBankGood_keeps {z s : State} {p0 : _} (h : Keeps z s) : KeepsR z (execVioBankGood p0 s) := by
  unfold execVioBankGood
  refine KeepsR.ite (KeepsR.next h) ?_
  extract_lets -merge -useContext +onlyGivenNames x1
  have h2 : Keeps z x1 := State.setFlag_keeps (State.setFlag_keeps h)
  clear_value x1
  exact KeepsR.next (State.raise_keeps (Keeps.foldl h2 fun _ h3 _ => State.followBall_keeps h3))

theorem State.driveGpio_keeps {z s : State} {p1 : _} {p2 : _} (h : Keeps z s) : Keeps z (State.driveGpio s p1 p2) :=
  State.followBall_keeps (State.setFlag_keeps h)

theorem State.reportBank_keeps {z s : State} {p1 : _} (h : Keeps z s) : Keeps z (State.reportBank s p1) :=
  Keeps.ite (State.blockEvent_keeps h) h

theorem execVioBankLow_keeps {z s : State} {p0 : _} (h : Keeps z s) : KeepsR z (execVioBankLow p0 s) := by
  unfold execVioBankLow
  refine KeepsR.ite (KeepsR.next h) ?_
  extract_lets -merge -useContext +onlyGivenNames x1
  have h2 : Keeps z x1 := State.setFlag_keeps (State.setFlag_keeps h)
  clear_value x1
  extract_lets -merge -useContext +onlyGivenNames x3
  have h4 : Keeps z x3 := Keeps.foldl h2 fun _ h5 _ => State.followBall_keeps h5
  clear_value x3
  extract_lets -merge -useContext +onlyGivenNames x6
  have h7 : Keeps z x6 := State.raise_keeps h4
  clear_value x6
  exact KeepsR.next (State.reportBank_keeps h7)

theorem execGpioEdge_keeps {z s : State} {p0 : _} {p1 : _} (h : Keeps z s) : KeepsR z (execGpioEdge p0 p1 s) := by
  unfold execGpioEdge
  extract_lets -merge -useContext +onlyGivenNames x1
  try clear_value x1
  extract_lets -merge -useContext +onlyGivenNames x2
  try clear_value x2
  exact KeepsR.next (State.followBall_keeps h.same)

theorem State.setMilVc_keeps {z s : State} {p1 : _} {p2 : _} {p3 : _} (h : Keeps z s) : Keeps z (State.setMilVc s p1 p2 p3) :=
  h.same

theorem State.milEnqueue_keeps {z s : State} {p1 : _} {p2 : _} (h : Keeps z s) : Keeps z (State.milEnqueue s p1 p2) := by
  unfold State.milEnqueue
  extract_lets -merge -useContext +onlyGivenNames x1
  try clear_value x1
  exact State.setMilVc_keeps h

theorem State.linkSymbol_keeps {z s : State} {p1 : _} {p2 : _} {p3 : _} {p4 : _} (h : Keeps z s) : Keeps z (State.linkSymbol s p1 p2 p3 p4) :=
  State.send_keeps h

theorem State.returnCredits_keeps {z s : State} {p1 : _} (h : Keeps z s) : Keeps z (State.returnCredits s p1) :=
  Keeps.ite h (State.linkSymbol_keeps h)

theorem State.showVc_keeps {z s : State} {p1 : _} {p2 : _} (h : Keeps z s) : Keeps z (State.showVc s p1 p2) := by
  unfold State.showVc
  refine Keeps.ite h ?_
  refine Keeps.ite h ?_
  extract_lets -merge -useContext +onlyGivenNames x1
  try clear_value x1
  extract_lets -merge -useContext +onlyGivenNames x2
  try clear_value x2
  extract_lets -merge -useContext +onlyGivenNames x3
  have h4 : Keeps z x3 := State.setFld_keeps (State.setFlag_keeps h)
  clear_value x3
  exact State.setFld_keeps h4

theorem State.setMilLink_keeps {z s : State} {p1 : _} {p2 : _} (h : Keeps z s) : Keeps z (State.setMilLink s p1 p2) :=
  h.same

theorem State.milTransmit_keeps {z s : State} {p1 : _} {p2 : _} (h : Keeps z s) : Keeps z (State.milTransmit s p1 p2) := by
  unfold State.milTransmit
  extract_lets -merge -useContext +onlyGivenNames x1
  try clear_value x1
  extract_lets -merge -useContext +onlyGivenNames x2
  try clear_value x2
  extract_lets -merge -useContext +onlyGivenNames x3
  try clear_value x3
  extract_lets -merge -useContext +onlyGivenNames x4
  try clear_value x4
  extract_lets -merge -useContext +onlyGivenNames x5
  try clear_value x5
  extract_lets -merge -useContext +onlyGivenNames x6
  try clear_value x6
  extract_lets -merge -useContext +onlyGivenNames x7
  have h8 : Keeps z x7 := State.returnCredits_keeps (State.showVc_keeps (State.setMilVc_keeps h))
  clear_value x7
  exact State.send_keeps (State.setMilLink_keeps h8)

theorem State.milManage_keeps {z s : State} {p1 : _} {p2 : _} (h : Keeps z s) : Keeps z (State.milManage s p1 p2) := by
  unfold State.milManage
  extract_lets -merge -useContext +onlyGivenNames x1
  try clear_value x1
  exact Keeps.ite (State.milTransmit_keeps h) (State.milEnqueue_keeps h)

theorem State.startKx_keeps {z s : State} {p1 : _} {p2 : _} (h : Keeps z s) : Keeps z (State.startKx s p1 p2) := by
  unfold State.startKx
  extract_lets -merge -useContext +onlyGivenNames x1
  try clear_value x1
  extract_lets -merge -useContext +onlyGivenNames x2
  try clear_value x2
  extract_lets -merge -useContext +onlyGivenNames x3
  try clear_value x3
  extract_lets -merge -useContext +onlyGivenNames x4 x5
  try clear_value x4
  have h6 : Keeps z x5 := h.same
  clear_value x5
  extract_lets -merge -useContext +onlyGivenNames x7
  have h8 : Keeps z x7 := State.setMilVc_keeps h6
  clear_value x7
  exact State.milManage_keeps h8

theorem State.milRekey_keeps {z s : State} {p1 : _} {p2 : _} (h : Keeps z s) : Keeps z (State.milRekey s p1 p2) := by
  unfold State.milRekey
  extract_lets -merge -useContext +onlyGivenNames x1
  try clear_value x1
  exact Keeps.ite (State.startKx_keeps h) h

theorem milPump_keeps {z s : State} {p0 : _} {p1 : _} {p2 : _} (h : Keeps z s) : Keeps z (milPump p0 p1 p2 s) := by
  induction p2 generalizing s p0 p1 with
  | zero =>
    rw [milPump]
    exact h
  | succ n ih =>
    rw [milPump]
    split
    · exact h
    · exact Keeps.ite (ih (State.milRekey_keeps (State.milTransmit_keeps (State.setMilVc_keeps h)))) h

theorem State.milSend_keeps {z s : State} {p1 : _} {p2 : _} (h : Keeps z s) : Keeps z (State.milSend s p1 p2) := by
  unfold State.milSend
  extract_lets -merge -useContext +onlyGivenNames x1
  have h2 : Keeps z x1 := State.milEnqueue_keeps h
  clear_value x1
  exact milPump_keeps h2

theorem State.route_keeps {z s : State} {p1 : _} (h : Keeps z s) : KeepsP z (State.route s p1) := by
  unfold State.route
  split
  · extract_lets -merge -useContext +onlyGivenNames x3
    try clear_value x3
    extract_lets -merge -useContext +onlyGivenNames x4
    try clear_value x4
    exact KeepsP.ite (KeepsP.mk h.same) (KeepsP.ite (KeepsP.ite (KeepsP.mk h) (KeepsP.mk (State.raise_keeps h.same))) (KeepsP.mk h))
  · extract_lets -merge -useContext +onlyGivenNames x7
    try clear_value x7
    exact KeepsP.ite (KeepsP.mk h) (KeepsP.ite (KeepsP.mk h) (KeepsP.mk h))

theorem State.milDrop_keeps {z s : State} {p1 : _} {p2 : _} (h : Keeps z s) : Keeps z (State.milDrop s p1 p2) :=
  State.bump_keeps h

theorem State.milOriginate_keeps {z s : State} {p1 : _} {p2 : _} {p3 : _} {p4 : _} {p5 : _} (h : Keeps z s) : Keeps z (State.milOriginate s p1 p2 p3 p4 p5) := by
  unfold State.milOriginate
  extract_lets -merge -useContext +onlyGivenNames x1
  try clear_value x1
  refine Keeps.ite h ?_
  refine Keeps.ite ?_ ?_
  · extract_lets -merge -useContext +onlyGivenNames x2
    have h3 : Keeps z x2 := Keeps.foldl h fun _ h4 _ => Keeps.ite (State.milSend_keeps h4) (State.milDrop_keeps h4)
    clear_value x2
    exact h3.same
  · refine Keeps.ite h.same ?_
    split
    · rename_i y5 y6 e7
      have h8 : Keeps z y5 := KeepsP.of_eq e7 (State.route_keeps h)
      exact State.milSend_keeps h8
    · rename_i y9 e10
      have h11 : Keeps z y9 := KeepsP.of_eq e10 (State.route_keeps h)
      exact State.milDrop_keeps h11
    · rename_i y12 e13
      have h14 : Keeps z y12 := KeepsP.of_eq e13 (State.route_keeps h)
      exact State.milDrop_keeps h14

theorem State.setLinkState_keeps {z s : State} {p1 : _} {p2 : _} (h : Keeps z s) : Keeps z (State.setLinkState s p1 p2) :=
  Keeps.ite (State.setFld_keeps h) (State.setFld_keeps h)

theorem State.latchFloor_keeps {z s : State} {p1 : _} {p2 : _} (h : Keeps z s) : Keeps z (State.latchFloor s p1 p2) := by
  unfold State.latchFloor
  extract_lets -merge -useContext +onlyGivenNames x1
  try clear_value x1
  exact Keeps.ite (State.raise_keeps (State.writeHinge_keeps h)) (Keeps.ite (State.writeHinge_keeps h) h)

end Sys2Proof.Machine
end

