-- ==== Sys2Proof/Laws/KeepsC.lean ====
section
/-! SUPPORT. What each operation keeps, part 3: each lemma follows its definition's form. -/
namespace Sys2Proof.Machine

theorem State.setLatchChannel_keeps {z s : State} {p1 : _} {p2 : _} (h : Keeps z s) : Keeps z (State.setLatchChannel s p1 p2) :=
  h.same

theorem State.latchDropped_keeps {z s : State} {p1 : _} (h : Keeps z s) : Keeps z (State.latchDropped s p1) := by
  unfold State.latchDropped
  extract_lets -merge -useContext +onlyGivenNames x1
  have h2 : Keeps z x1 := State.cellEvent_keeps (State.bump_keeps h)
  clear_value x1
  extract_lets -merge -useContext +onlyGivenNames x3
  try clear_value x3
  extract_lets -merge -useContext +onlyGivenNames x4
  try clear_value x4
  exact Keeps.ite h2 (State.raise_keeps (State.setLatchChannel_keeps h2))

theorem State.latchOutput_keeps {z s : State} {p1 : _} {p2 : _} (h : Keeps z s) : Keeps z (State.latchOutput s p1 p2) := by
  unfold State.latchOutput
  extract_lets -merge -useContext +onlyGivenNames x1
  have h2 : Keeps z x1 := State.setNum_keeps h
  clear_value x1
  exact Keeps.ite (State.driveGpio_keeps h2) (Keeps.ite (State.latchTarget_keeps h2) h2)

theorem State.setLatchHeld_keeps {z s : State} {p1 : _} {p2 : _} (h : Keeps z s) : Keeps z (State.setLatchHeld s p1 p2) := by
  unfold State.setLatchHeld
  extract_lets -merge -useContext +onlyGivenNames x1
  have h2 : Keeps z x1 := State.setFld_keeps h
  clear_value x1
  extract_lets -merge -useContext +onlyGivenNames x3
  have h4 : Keeps z x3 := State.setFlag_keeps h2
  clear_value x3
  exact State.setFld_keeps h4

theorem State.latchAccept_keeps {z s : State} {p1 : _} (h : Keeps z s) : KeepsP z (State.latchAccept s p1) := by
  unfold State.latchAccept
  extract_lets -merge -useContext +onlyGivenNames x1
  try clear_value x1
  extract_lets -merge -useContext +onlyGivenNames x2
  try clear_value x2
  extract_lets -merge -useContext +onlyGivenNames x3
  try clear_value x3
  extract_lets -merge -useContext +onlyGivenNames x4
  try clear_value x4
  extract_lets -merge -useContext +onlyGivenNames x5
  try clear_value x5
  extract_lets -merge -useContext +onlyGivenNames x6
  try clear_value x6
  extract_lets -merge -useContext +onlyGivenNames x7
  have h8 : Keeps z x7 := State.setLatchChannel_keeps h
  clear_value x7
  extract_lets -merge -useContext +onlyGivenNames x9
  have h10 : Keeps z x9 := State.setFld_keeps (State.setFld_keeps (State.setNum_keeps h8))
  clear_value x9
  extract_lets -merge -useContext +onlyGivenNames x11
  have h12 : Keeps z x11 := Keeps.ite (State.raise_keeps (State.setFlag_keeps h10)) h10
  clear_value x11
  extract_lets -merge -useContext +onlyGivenNames x13
  have h14 : Keeps z x13 := State.latchFloor_keeps (State.latchOutput_keeps (State.setLatchHeld_keeps h12))
  clear_value x13
  exact KeepsP.mk h14

theorem State.latchOffer_keeps {z s : State} {p1 : _} (h : Keeps z s) : KeepsP z (State.latchOffer s p1) := by
  unfold State.latchOffer
  extract_lets -merge -useContext +onlyGivenNames x1
  try clear_value x1
  extract_lets -merge -useContext +onlyGivenNames x2
  try clear_value x2
  extract_lets -merge -useContext +onlyGivenNames x3
  try clear_value x3
  extract_lets -merge -useContext +onlyGivenNames x4
  try clear_value x4
  extract_lets -merge -useContext +onlyGivenNames x5
  try clear_value x5
  extract_lets -merge -useContext +onlyGivenNames x6
  have h7 : Keeps z x6 := Keeps.ite (State.setLatchChannel_keeps h) h
  clear_value x6
  exact KeepsP.ite (KeepsP.mk (State.latchDropped_keeps h7)) (KeepsP.ite (KeepsP.mk (State.bump_keeps h7)) (KeepsP.ite (KeepsP.mk (State.latchDropped_keeps h7)) (State.latchAccept_keeps h7)))

theorem State.sendLink_keeps {z s : State} {p1 : _} {p2 : _} (h : Keeps z s) : Keeps z (State.sendLink s p1 p2) := by
  unfold State.sendLink
  refine Keeps.ite h ?_
  refine Keeps.ite (State.milOriginate_keeps h) ?_
  extract_lets -merge -useContext +onlyGivenNames x1
  try clear_value x1
  exact Keeps.ite h (Keeps.ite (State.bump_keeps h) h.same)

theorem State.sendForward_keeps {z s : State} {p1 : _} (h : Keeps z s) : Keeps z (State.sendForward s p1) := by
  unfold State.sendForward
  split
  · exact h
  · extract_lets -merge -useContext +onlyGivenNames x4
    try clear_value x4
    exact State.sendLink_keeps (State.sendLink_keeps h)

theorem forwardAll_keeps {z s : State} {n : Nat} {fs : List Forward} (h : Keeps z s) : Keeps z (forwardAll n fs s) := by
  induction n generalizing s fs with
  | zero => rw [forwardAll]; exact h
  | succ n ih =>
    unfold forwardAll
    split
    · exact h
    · exact ih (State.sendForward_keeps h)

theorem State.latchToSafe_keeps {z s : State} {p1 : _} {p2 : _} (h : Keeps z s) : Keeps z (State.latchToSafe s p1 p2) :=
  State.latchOutput_keeps (State.setLatchHeld_keeps h)

theorem execLatchHoldExpiry_keeps {z s : State} {p0 : _} (h : Keeps z s) : KeepsR z (execLatchHoldExpiry p0 s) := by
  unfold execLatchHoldExpiry
  extract_lets -merge -useContext +onlyGivenNames x1
  try clear_value x1
  split
  · exact KeepsR.next h
  · refine KeepsR.ite ?_ (KeepsR.next h)
    extract_lets -merge -useContext +onlyGivenNames x6
    have h7 : Keeps z x6 := State.elapse_keeps h
    clear_value x6
    exact KeepsR.next (State.raise_keeps (State.latchToSafe_keeps h7))

theorem State.latchForeign_keeps {z s : State} (h : Keeps z s) : Keeps z (State.latchForeign s) :=
  State.raise_keeps (State.bump_keeps h)

theorem State.forwardSet_keeps {z s : State} {p1 : _} (h : Keeps z s) : Keeps z (State.forwardSet s p1) := by
  unfold State.forwardSet
  extract_lets -merge -useContext +onlyGivenNames x1
  try clear_value x1
  exact forwardAll_keeps h

theorem State.receiveCommand_keeps {z s : State} {p1 : _} {p2 : _} (h : Keeps z s) : Keeps z (State.receiveCommand s p1 p2) := by
  unfold State.receiveCommand
  refine Keeps.ite h ?_
  refine Keeps.foldl h fun _ h1 _ => ?_
  extract_lets -merge -useContext +onlyGivenNames x2
  try clear_value x2
  extract_lets -merge -useContext +onlyGivenNames x3
  try clear_value x3
  refine Keeps.ite (State.latchForeign_keeps h1) ?_
  split
  · rename_i y4 y5 e6
    have h7 : Keeps z y4 := KeepsP.of_eq e6 (State.latchOffer_keeps h1)
    split
    · exact State.forwardSet_keeps h7
    · exact h7

theorem execLatchCommand_keeps {z s : State} {p0 : _} {p1 : _} (h : Keeps z s) : KeepsR z (execLatchCommand p0 p1 s) :=
  KeepsR.next (Keeps.ite (State.receiveCommand_keeps h) h)

theorem State.latchWithdrawAll_keeps {z s : State} {p1 : _} (h : Keeps z s) : Keeps z (State.latchWithdrawAll s p1) := by
  unfold State.latchWithdrawAll
  refine Keeps.foldl h fun _ h1 _ => ?_
  refine Keeps.ite ?_ h1
  extract_lets -merge -useContext +onlyGivenNames x2 x3
  try clear_value x2
  have h4 : Keeps z x3 := State.setLatchChannel_keeps h1
  clear_value x3
  extract_lets -merge -useContext +onlyGivenNames x5
  try clear_value x5
  exact State.sendLink_keeps (State.sendLink_keeps h4)

theorem State.receiveWithdraw_keeps {z s : State} {p1 : _} {p2 : _} (h : Keeps z s) : Keeps z (State.receiveWithdraw s p1 p2) :=
  Keeps.ite h (Keeps.foldl h fun _ h1 _ => Keeps.ite (State.setLatchChannel_keeps h1) h1)

theorem execLatchWithdraw_keeps {z s : State} {p0 : _} {p1 : _} (h : Keeps z s) : KeepsR z (execLatchWithdraw p0 p1 s) :=
  KeepsR.next (Keeps.ite (State.receiveWithdraw_keeps h) h)

theorem State.latchPresent_keeps {z s : State} {p1 : _} {p2 : _} {p3 : _} (h : Keeps z s) : KeepsP z (State.latchPresent s p1 p2 p3) := by
  unfold State.latchPresent
  extract_lets -merge -useContext +onlyGivenNames x1
  try clear_value x1
  refine KeepsP.ite (KeepsP.mk h) ?_
  refine KeepsP.ite (KeepsP.mk (State.latchForeign_keeps h)) ?_
  extract_lets -merge -useContext +onlyGivenNames x2
  try clear_value x2
  extract_lets -merge -useContext +onlyGivenNames x3
  have h4 : Keeps z x3 := State.setLatchChannel_keeps h
  clear_value x3
  exact State.latchOffer_keeps h4

theorem execLatchArm_keeps {z s : State} {p0 : _} {p1 : _} {p2 : _} (h : Keeps z s) : KeepsR z (execLatchArm p0 p1 p2 s) := by
  unfold execLatchArm
  extract_lets -merge -useContext +onlyGivenNames x1
  try clear_value x1
  exact KeepsR.next (State.gated_keeps h (fun _ h2 => State.setReg_keeps h2))

theorem execStatusSend_keeps {z s : State} (h : Keeps z s) : KeepsR z (execStatusSend s) := by
  unfold execStatusSend
  refine KeepsR.ite ?_ (KeepsR.next h)
  extract_lets -merge -useContext +onlyGivenNames x1
  have h2 : Keeps z x1 := State.elapse_keeps h
  clear_value x1
  extract_lets -merge -useContext +onlyGivenNames x3 x4
  try clear_value x3
  have h5 : Keeps z x4 := h2.same
  clear_value x4
  extract_lets -merge -useContext +onlyGivenNames x6
  try clear_value x6
  extract_lets -merge -useContext +onlyGivenNames x7
  try clear_value x7
  extract_lets -merge -useContext +onlyGivenNames x8
  try clear_value x8
  exact KeepsR.next (Keeps.foldl h5 fun _ h9 _ => State.sendLink_keeps h9)

theorem State.latchPresentAll_keeps {z s : State} {p1 : _} (h : Keeps z s) : Keeps z (State.latchPresentAll s p1) := by
  unfold State.latchPresentAll
  split
  · rename_i y1 y2 e3
    have h4 : Keeps z y1 := by
      refine KeepsP.of_eq e3 ?_
      refine KeepsP.foldl (KeepsP.mk h) fun _ h5 _ => ?_
      split
      · rename_i y6 y7 e8
        have h9 : Keeps z y6 := KeepsP.of_eq e8 (State.latchPresent_keeps (KeepsP.fst h5))
        exact KeepsP.mk h9
    exact State.forwardSet_keeps h4

theorem execLatClear_keeps {z s : State} {p0 : _} {p1 : _} (h : Keeps z s) : KeepsR z (execLatClear p0 p1 s) :=
  KeepsR.next (State.gated_keeps h (fun _ h1 => Keeps.ite (Keeps.foldl (State.setNum_keeps (State.setNum_keeps h1)) fun _ h2 _ => State.setNum_keeps h2) h1))

theorem execLatchCmd_keeps {z s : State} {p0 : _} {p1 : _} {p2 : _} (h : Keeps z s) : KeepsR z (execLatchCmd p0 p1 p2 s) :=
  KeepsR.next (State.gated_keeps h (fun _ h1 => State.latchPresentAll_keeps h1))

theorem execLatchStuck_keeps {z s : State} {p0 : _} (h : Keeps z s) : KeepsR z (execLatchStuck p0 s) := by
  unfold execLatchStuck
  extract_lets -merge -useContext +onlyGivenNames x1
  try clear_value x1
  exact KeepsR.ite (KeepsR.next (State.cellFails_keeps (State.setLatchChannel_keeps h))) (KeepsR.next h)

theorem State.sendHeartbeats_keeps {z s : State} (h : Keeps z s) : Keeps z (State.sendHeartbeats s) := by
  unfold State.sendHeartbeats
  refine Keeps.ite h ?_
  extract_lets -merge -useContext +onlyGivenNames x1
  try clear_value x1
  extract_lets -merge -useContext +onlyGivenNames x2
  have h3 : Keeps z x2 := State.setHinge_keeps h
  clear_value x2
  extract_lets -merge -useContext +onlyGivenNames x4
  try clear_value x4
  refine Keeps.foldl h3 fun _ h5 _ => ?_
  extract_lets -merge -useContext +onlyGivenNames x6
  have h7 : Keeps z x6 := Keeps.ite (State.send_keeps h5) h5
  clear_value x6
  extract_lets -merge -useContext +onlyGivenNames x8
  have h9 : Keeps z x8 := Keeps.ite (State.send_keeps h7) h7
  clear_value x8
  split
  · exact State.milOriginate_keeps h9
  · exact h9

theorem State.takeClaim_keeps {z s : State} {p1 : _} (h : Keeps z s) : Keeps z (State.takeClaim s p1) := by
  unfold State.takeClaim
  extract_lets -merge -useContext +onlyGivenNames x1
  try clear_value x1
  refine Keeps.ite (Keeps.ite h (State.raise_keeps (State.setFlag_keeps h))) ?_
  extract_lets -merge -useContext +onlyGivenNames x2
  try clear_value x2
  extract_lets -merge -useContext +onlyGivenNames x3
  have h4 : Keeps z x3 := State.setFld_keeps h
  clear_value x3
  extract_lets -merge -useContext +onlyGivenNames x5
  try clear_value x5
  extract_lets -merge -useContext +onlyGivenNames x6
  have h7 : Keeps z x6 := State.writeHinge_keeps h4
  clear_value x6
  exact State.setNum_keeps h7

theorem State.countHinge_keeps {z s : State} {p1 : _} {p2 : _} (h : Keeps z s) : Keeps z (State.countHinge s p1 p2) :=
  Keeps.ite h (State.bump_keeps h)

theorem State.hingeResult_keeps {z s : State} {p1 : _} (h : Keeps z s) : Keeps z (State.hingeResult s p1) :=
  State.setNum_keeps h

theorem State.withdrawClaim_keeps {z s : State} (h : Keeps z s) : Keeps z (State.withdrawClaim s) := by
  unfold State.withdrawClaim
  extract_lets -merge -useContext +onlyGivenNames x1
  try clear_value x1
  exact Keeps.ite h (State.setNum_keeps (State.latchWithdrawAll_keeps h))

theorem State.yieldClaim_keeps {z s : State} (h : Keeps z s) : Keeps z (State.yieldClaim s) := by
  unfold State.yieldClaim
  refine Keeps.ite h ?_
  extract_lets -merge -useContext +onlyGivenNames x1
  have h2 : Keeps z x1 := State.raise_keeps (State.countHinge_keeps (State.withdrawClaim_keeps h))
  clear_value x1
  exact State.sendHeartbeats_keeps (State.setHinge_keeps h2)

theorem State.tell_keeps {z s : State} (h : Keeps z s) : Keeps z (State.tell s) := by
  unfold State.tell
  extract_lets -merge -useContext +onlyGivenNames x1
  have h2 : Keeps z x1 := State.setFlag_keeps (State.setFld_keeps h)
  clear_value x1
  extract_lets -merge -useContext +onlyGivenNames x3
  try clear_value x3
  extract_lets -merge -useContext +onlyGivenNames x4
  try clear_value x4
  extract_lets -merge -useContext +onlyGivenNames x5
  have h6 : Keeps z x5 := State.setHinge_keeps h2
  clear_value x5
  exact Keeps.ite h6 (State.sendHeartbeats_keeps h6)

theorem State.setPeer_keeps {z s : State} {p1 : _} {p2 : _} (h : Keeps z s) : Keeps z (State.setPeer s p1 p2) :=
  State.setHinge_keeps h

theorem State.dropProof_keeps {z s : State} (h : Keeps z s) : Keeps z (State.dropProof s) := by
  unfold State.dropProof
  refine Keeps.ite ?_ h
  extract_lets -merge -useContext +onlyGivenNames x1 x2
  try clear_value x1
  have h3 : Keeps z x2 := State.setHinge_keeps h
  clear_value x2
  exact h3.same

theorem State.endHandover_keeps {z s : State} {p1 : _} (h : Keeps z s) : Keeps z (State.endHandover s p1) := by
  unfold State.endHandover
  split
  · exact h
  · extract_lets -merge -useContext +onlyGivenNames x5 x6
    try clear_value x5
    have h7 : Keeps z x6 := State.setHinge_keeps h
    clear_value x6
    extract_lets -merge -useContext +onlyGivenNames x8
    have h9 : Keeps z x8 := Keeps.ite (State.hingeResult_keeps h7) h7
    clear_value x8
    exact Keeps.ite h9 (State.raise_keeps h9)

theorem State.takeSnapshot_keeps {z s : State} {p1 : _} (h : Keeps z s) : KeepsP z (State.takeSnapshot s p1) := by
  unfold State.takeSnapshot
  extract_lets -merge -useContext +onlyGivenNames x1
  try clear_value x1
  extract_lets -merge -useContext +onlyGivenNames x2
  try clear_value x2
  split
  · exact KeepsP.mk h.same
  · extract_lets -merge -useContext +onlyGivenNames x7
    try clear_value x7
    extract_lets -merge -useContext +onlyGivenNames x8
    have h9 : Keeps z x8 := h.same
    clear_value x8
    exact KeepsP.mk (State.showResult_keeps h9)

theorem State.takeSlot_keeps {z s : State} {p1 : _} (h : Keeps z s) : Keeps z (State.takeSlot s p1) := by
  unfold State.takeSlot
  extract_lets -merge -useContext +onlyGivenNames x1
  try clear_value x1
  extract_lets -merge -useContext +onlyGivenNames x2
  have h3 : Keeps z x2 := h.same
  clear_value x2
  split
  · exact State.engineWrite_keeps h3
  · exact h3

theorem State.seeRound_keeps {z s : State} {p1 : _} {p2 : _} (h : Keeps z s) : Keeps z (State.seeRound s p1 p2) :=
  State.setFlag_keeps (State.setNum_keeps h)

theorem State.fedDrop_keeps {z s : State} {p1 : _} (h : Keeps z s) : Keeps z (State.fedDrop s p1) := by
  unfold State.fedDrop
  extract_lets -merge -useContext +onlyGivenNames x1
  have h2 : Keeps z x1 := State.bump_keeps h
  clear_value x1
  exact Keeps.ite h2 (State.raise_keeps h2.same)

theorem State.fedAccepts_keeps {z s : State} {p1 : _} (h : Keeps z s) : KeepsO z (State.fedAccepts s p1) :=
  KeepsO.ite (KeepsO.some (State.fedDrop_keeps h)) (KeepsO.ite (KeepsO.some h) KeepsO.none)

theorem State.fromChild_keeps {z s : State} {p1 : _} {p2 : _} {p3 : _} (h : Keeps z s) (k3 : ∀ w1, Keeps z w1 → ∀ w2, Keeps z (p3 w1 w2)) : Keeps z (State.fromChild s p1 p2 p3) := by
  unfold State.fromChild
  split
  · rename_i y1 e2
    have h3 : Keeps z y1 := KeepsO.of_eq e2 (State.fedAccepts_keeps h)
    exact h3
  · split
    · exact h
    · refine Keeps.ite h ?_
      refine Keeps.ite (State.fedDrop_keeps h) ?_
      refine Keeps.ite (State.fedDrop_keeps h) ?_
      extract_lets -merge -useContext +onlyGivenNames x11 x12
      try clear_value x11
      have h13 : Keeps z x12 := h.same
      clear_value x12
      exact k3 _ (State.setFld_keeps (State.setFld_keeps h13)) _

theorem State.receiveUp_keeps {z s : State} {p1 : _} (h : Keeps z s) : Keeps z (State.receiveUp s p1) := by
  unfold State.receiveUp
  refine State.fromChild_keeps h (fun _ h1 _ => ?_)
  refine Keeps.ite h1 ?_
  extract_lets -merge -useContext +onlyGivenNames x2
  try clear_value x2
  exact h1.same

theorem State.fedSend_keeps {z s : State} {p1 : _} {p2 : _} (h : Keeps z s) : Keeps z (State.fedSend s p1 p2) :=
  Keeps.ite h (Keeps.ite (Keeps.ite (State.receiveUp_keeps h) (Keeps.ite h.same h)) (State.milOriginate_keeps h))

theorem State.fedReply_keeps {z s : State} {p1 : _} {p2 : _} {p3 : _} {p4 : _} {p5 : _} {p6 : _} (h : Keeps z s) : Keeps z (State.fedReply s p1 p2 p3 p4 p5 p6) := by
  unfold State.fedReply
  extract_lets -merge -useContext +onlyGivenNames x1
  try clear_value x1
  extract_lets -merge -useContext +onlyGivenNames x2
  try clear_value x2
  extract_lets -merge -useContext +onlyGivenNames x3
  try clear_value x3
  extract_lets -merge -useContext +onlyGivenNames x4
  try clear_value x4
  extract_lets -merge -useContext +onlyGivenNames x5
  try clear_value x5
  extract_lets -merge -useContext +onlyGivenNames x6 x7
  try clear_value x6
  have h8 : Keeps z x7 := h.same
  clear_value x7
  extract_lets -merge -useContext +onlyGivenNames x9
  have h10 : Keeps z x9 := State.fedSend_keeps h8
  clear_value x9
  extract_lets -merge -useContext +onlyGivenNames x11
  have h12 : Keeps z x11 := State.setFld_keeps (State.setFlag_keeps h10)
  clear_value x11
  exact State.takeSlot_keeps h12

theorem State.parentClaim_keeps {z s : State} {p1 : _} (h : Keeps z s) : KeepsP z (State.parentClaim s p1) :=
  KeepsP.ite (KeepsP.mk h) (KeepsP.ite (KeepsP.mk (State.fedDrop_keeps h)) (KeepsP.mk (State.setNum_keeps h)))

theorem State.recordFail_keeps {z s : State} {p1 : _} {p2 : _} (h : Keeps z s) : Keeps z (State.recordFail s p1 p2) := by
  unfold State.recordFail
  refine Keeps.ite ?_ (State.engineError_keeps h)
  split
  · exact State.refuseWord_keeps h
  · exact h

theorem State.sequencerWrite_keeps {z s : State} {p1 : _} {p2 : _} {p3 : _} (h : Keeps z s) : Keeps z (State.sequencerWrite s p1 p2 p3) := by
  unfold State.sequencerWrite
  extract_lets -merge -useContext +onlyGivenNames x1
  try clear_value x1
  extract_lets -merge -useContext +onlyGivenNames x2
  try clear_value x2
  exact Keeps.ite h (Keeps.ite (State.dmaWrite_keeps h) (State.recordFail_keeps h))

theorem State.writeBack_keeps {z s : State} {p1 : _} {p2 : _} {p3 : _} (h : Keeps z s) : Keeps z (State.writeBack s p1 p2 p3) :=
  State.sequencerWrite_keeps h

theorem execLatheClear_keeps {z s : State} {p0 : _} {p1 : _} {p2 : _} (h : Keeps z s) : KeepsR z (execLatheClear p0 p1 p2 s) := by
  unfold execLatheClear
  extract_lets -merge -useContext +onlyGivenNames x1
  try clear_value x1
  refine KeepsR.next (State.gated_keeps h (fun _ h2 => ?_))
  refine Keeps.ite ?_ h2
  extract_lets -merge -useContext +onlyGivenNames x3
  have h4 : Keeps z x3 := Keeps.foldl h2 fun _ h5 _ => State.setNum_keeps h5
  clear_value x3
  exact State.setFld_keeps h4

theorem State.countLathe_keeps {z s : State} {p1 : _} {p2 : _} {p3 : _} (h : Keeps z s) : Keeps z (State.countLathe s p1 p2 p3) := by
  unfold State.countLathe
  extract_lets -merge -useContext +onlyGivenNames x1 x2
  have h3 : Keeps z x1 := State.bump_keeps h
  clear_value x1
  have h4 : Keeps z x2 := Keeps.ite (State.bump_keeps h) (Keeps.ite (State.bump_keeps h) (Keeps.ite (State.blockEvent_keeps (State.raise_keeps (State.bump_keeps h))) (Keeps.ite (State.blockEvent_keeps (State.raise_keeps (State.bump_keeps h))) (Keeps.ite (State.blockEvent_keeps h3) h3))))
  clear_value x2
  extract_lets -merge -useContext +onlyGivenNames x5
  have h6 : Keeps z x5 := Keeps.ite (State.raise_keeps h4) h4
  clear_value x5
  exact Keeps.ite (State.raise_keeps h6) h6

theorem State.elapseTo_keeps {z s : State} {p1 : _} (h : Keeps z s) : Keeps z (State.elapseTo s p1) := by
  unfold State.elapseTo
  extract_lets -merge -useContext +onlyGivenNames x1
  try clear_value x1
  refine Keeps.ite h ?_
  refine Keeps.ite (State.elapse_keeps h) ?_
  split
  · exact State.elapse_keeps h
  · exact h

theorem State.setLth_keeps {z s : State} {p1 : _} {p2 : _} (h : Keeps z s) : Keeps z (State.setLth s p1 p2) :=
  h.same

theorem State.showLathe_keeps {z s : State} {p1 : _} (h : Keeps z s) : Keeps z (State.showLathe s p1) := by
  unfold State.showLathe
  extract_lets -merge -useContext +onlyGivenNames x1
  try clear_value x1
  extract_lets -merge -useContext +onlyGivenNames x2
  try clear_value x2
  extract_lets -merge -useContext +onlyGivenNames x3
  try clear_value x3
  extract_lets -merge -useContext +onlyGivenNames x4
  have h5 : Keeps z x4 := State.setFlag_keeps (State.setFld_keeps (State.setFld_keeps h))
  clear_value x4
  extract_lets -merge -useContext +onlyGivenNames x6
  have h7 : Keeps z x6 := State.setFld_keeps h5
  clear_value x6
  extract_lets -merge -useContext +onlyGivenNames x8
  have h9 : Keeps z x8 := Keeps.ite (State.setFld_keeps h7) h7
  clear_value x8
  extract_lets -merge -useContext +onlyGivenNames x10
  have h11 : Keeps z x10 := State.setNum_keeps (State.setNum_keeps h9)
  clear_value x10
  refine Keeps.foldl h11 fun _ h12 _ => ?_
  split
  · exact State.setFld_keeps (State.setFlag_keeps h12)
  · exact State.setFld_keeps (State.setFlag_keeps h12)

theorem State.completeJob_keeps {z s : State} {p1 : _} {p2 : _} {p3 : _} {p4 : _} (h : Keeps z s) : Keeps z (State.completeJob s p1 p2 p3 p4) := by
  unfold State.completeJob
  extract_lets -merge -useContext +onlyGivenNames x1
  try clear_value x1
  extract_lets -merge -useContext +onlyGivenNames x2
  try clear_value x2
  extract_lets -merge -useContext +onlyGivenNames x3
  try clear_value x3
  extract_lets -merge -useContext +onlyGivenNames x4
  try clear_value x4
  extract_lets -merge -useContext +onlyGivenNames x5
  have h6 : Keeps z x5 := State.dmaWrite_keeps h
  clear_value x5
  extract_lets -merge -useContext +onlyGivenNames x7
  have h8 : Keeps z x7 := State.post_keeps h6
  clear_value x7
  extract_lets -merge -useContext +onlyGivenNames x9
  have h10 : Keeps z x9 := State.offerEvent_keeps (State.countLathe_keeps h8)
  clear_value x9
  split
  · exact State.fedReply_keeps h10
  · exact h10

theorem State.dropJob_keeps {z s : State} {p1 : _} {p2 : _} {p3 : _} {p4 : _} (h : Keeps z s) : Keeps z (State.dropJob s p1 p2 p3 p4) := by
  unfold State.dropJob
  extract_lets -merge -useContext +onlyGivenNames x1
  try clear_value x1
  extract_lets -merge -useContext +onlyGivenNames x2
  have h3 : Keeps z x2 := State.setLth_keeps h
  clear_value x2
  exact State.showLathe_keeps (State.completeJob_keeps h3)

theorem execLatheDeadlineQueued_keeps {z s : State} {p0 : _} {p1 : _} (h : Keeps z s) : KeepsR z (execLatheDeadlineQueued p0 p1 s) := by
  unfold execLatheDeadlineQueued
  extract_lets -merge -useContext +onlyGivenNames x1
  try clear_value x1
  split
  · exact KeepsR.next h
  · extract_lets -merge -useContext +onlyGivenNames x6
    try clear_value x6
    refine KeepsR.ite (KeepsR.next h) ?_
    extract_lets -merge -useContext +onlyGivenNames x7
    have h8 : Keeps z x7 := State.elapseTo_keeps h
    clear_value x7
    exact KeepsR.next (Keeps.ite (State.dropJob_keeps h8) h8)

theorem State.elapseRun_keeps {z s : State} {p1 : _} {p2 : _} (h : Keeps z s) : Keeps z (State.elapseRun s p1 p2) :=
  State.elapse_keeps h

theorem State.endRun_keeps {z s : State} {p1 : _} {p2 : _} {p3 : _} {p4 : _} {p5 : _} (h : Keeps z s) : Keeps z (State.endRun s p1 p2 p3 p4 p5) := by
  unfold State.endRun
  extract_lets -merge -useContext +onlyGivenNames x1
  try clear_value x1
  extract_lets -merge -useContext +onlyGivenNames x2
  have h3 : Keeps z x2 := State.setLth_keeps h
  clear_value x2
  extract_lets -merge -useContext +onlyGivenNames x4
  try clear_value x4
  exact State.showLathe_keeps (State.completeJob_keeps h3)

theorem State.stopRun_keeps {z s : State} {p1 : _} {p2 : _} {p3 : _} {p4 : _} {p5 : _} (h : Keeps z s) : Keeps z (State.stopRun s p1 p2 p3 p4 p5) := by
  unfold State.stopRun
  extract_lets -merge -useContext +onlyGivenNames x1
  try clear_value x1
  extract_lets -merge -useContext +onlyGivenNames x2
  try clear_value x2
  extract_lets -merge -useContext +onlyGivenNames x3
  have h4 : Keeps z x3 := State.elapseRun_keeps h
  clear_value x3
  extract_lets -merge -useContext +onlyGivenNames x5
  have h6 : Keeps z x5 := State.sequencerWrite_keeps h4
  clear_value x5
  exact State.endRun_keeps h6

theorem State.measureRateOf_keeps {z s : State} {p1 : _} {p2 : _} {p3 : _} {p4 : _} {p5 : _} (h : Keeps z s) : Keeps z (State.measureRateOf s p1 p2 p3 p4 p5) := by
  unfold State.measureRateOf
  refine Keeps.ite h ?_
  extract_lets -merge -useContext +onlyGivenNames x1
  try clear_value x1
  extract_lets -merge -useContext +onlyGivenNames x2
  try clear_value x2
  extract_lets -merge -useContext +onlyGivenNames x3
  try clear_value x3
  extract_lets -merge -useContext +onlyGivenNames x4
  try clear_value x4
  extract_lets -merge -useContext +onlyGivenNames x5
  try clear_value x5
  extract_lets -merge -useContext +onlyGivenNames x6
  try clear_value x6
  exact State.setFlag_keeps (State.setFld_keeps (State.setFld_keeps h))

theorem State.chuckFails_keeps {z s : State} {p1 : _} {p2 : _} {p3 : _} (h : Keeps z s) : Keeps z (State.chuckFails s p1 p2 p3) := by
  unfold State.chuckFails
  extract_lets -merge -useContext +onlyGivenNames x1
  have h2 : Keeps z x1 := Keeps.ite (State.setFlag_keeps h) (State.setFlag_keeps h)
  clear_value x1
  extract_lets -merge -useContext +onlyGivenNames x3
  have h4 : Keeps z x3 := State.setFlag_keeps h2
  clear_value x3
  split
  · exact State.endRun_keeps h4
  · exact h4

theorem State.healChuck_keeps {z s : State} {p1 : _} {p2 : _} (h : Keeps z s) : Keeps z (State.healChuck s p1 p2) :=
  h.same

theorem State.startJob_keeps {z s : State} {p1 : _} {p2 : _} {p3 : _} (h : Keeps z s) : Keeps z (State.startJob s p1 p2 p3) := by
  unfold State.startJob
  extract_lets -merge -useContext +onlyGivenNames x1
  try clear_value x1
  refine Keeps.ite (State.dropJob_keeps h) ?_
  extract_lets -merge -useContext +onlyGivenNames x2
  try clear_value x2
  split
  · exact State.dropJob_keeps (State.recordFail_keeps h)
  · extract_lets -merge -useContext +onlyGivenNames x7
    try clear_value x7
    extract_lets -merge -useContext +onlyGivenNames x8
    have h9 : Keeps z x8 := State.healChuck_keeps (State.charge_keeps h)
    clear_value x8
    split
    · exact State.dropJob_keeps h9
    · extract_lets -merge -useContext +onlyGivenNames x15
      try clear_value x15
      extract_lets -merge -useContext +onlyGivenNames x16
      try clear_value x16
      extract_lets -merge -useContext +onlyGivenNames x17
      try clear_value x17
      exact State.showLathe_keeps (State.setLth_keeps h9)

theorem execLatheDispatch_keeps {z s : State} {p0 : _} (h : Keeps z s) : KeepsR z (execLatheDispatch p0 s) := by
  unfold execLatheDispatch
  extract_lets -merge -useContext +onlyGivenNames x1
  try clear_value x1
  refine KeepsR.ite (KeepsR.next h) ?_
  split
  · exact KeepsR.next h
  · split
    · exact KeepsR.next h
    · exact KeepsR.next (State.dropJob_keeps h)
    · exact KeepsR.next (State.startJob_keeps h)

theorem State.cancelTicket_keeps {z s : State} {p1 : _} {p2 : _} {p3 : _} (h : Keeps z s) : Keeps z (State.cancelTicket s p1 p2 p3) := by
  unfold State.cancelTicket
  split
  · exact Keeps.ite (State.dropJob_keeps h) h
  · split
    · split
      · exact Keeps.ite (State.endRun_keeps h) h
      · exact h
    · exact h

theorem execCancel_keeps {z s : State} {p0 : _} {p1 : _} {p2 : _} (h : Keeps z s) : KeepsR z (execCancel p0 p1 p2 s) :=
  KeepsR.next (State.gated_keeps h (fun _ h1 => State.cancelTicket_keeps h1))

theorem execLatheDeadlineStop_keeps {z s : State} {p0 : _} {p1 : _} {p2 : _} (h : Keeps z s) : KeepsR z (execLatheDeadlineStop p0 p1 p2 s) := by
  unfold execLatheDeadlineStop
  extract_lets -merge -useContext +onlyGivenNames x1
  try clear_value x1
  split
  · exact KeepsR.next h
  · refine KeepsR.ite (KeepsR.next h) ?_
    split
    · exact KeepsR.next h
    · extract_lets -merge -useContext +onlyGivenNames x10
      try clear_value x10
      exact KeepsR.next (Keeps.ite h (State.stopRun_keeps h))

theorem State.flushQueue_keeps {z s : State} {p1 : _} (h : Keeps z s) : Keeps z (State.flushQueue s p1) :=
  Keeps.foldl h fun _ h1 _ => State.dropJob_keeps h1

theorem execFlush_keeps {z s : State} {p0 : _} {p1 : _} {p2 : _} (h : Keeps z s) : KeepsR z (execFlush p0 p1 p2 s) := by
  unfold execFlush
  refine KeepsR.next (State.gated_keeps h (fun _ h1 => ?_))
  extract_lets -merge -useContext +onlyGivenNames x2
  have h3 : Keeps z x2 := State.setFlag_keeps h1
  clear_value x2
  exact Keeps.ite (State.flushQueue_keeps h3) h3

theorem execLatheCellFault_keeps {z s : State} {p0 : _} {p1 : _} (h : Keeps z s) : KeepsR z (execLatheCellFault p0 p1 s) := by
  unfold execLatheCellFault
  extract_lets -merge -useContext +onlyGivenNames x1
  try clear_value x1
  refine KeepsR.ite (KeepsR.next h) ?_
  extract_lets -merge -useContext +onlyGivenNames x2
  have h3 : Keeps z x2 := State.raise_keeps (State.setFlag_keeps h)
  clear_value x2
  extract_lets -merge -useContext +onlyGivenNames x4
  have h5 : Keeps z x4 := State.cellFails_keeps h3
  clear_value x4
  exact KeepsR.next (Keeps.foldl h5 fun _ h6 _ => State.chuckFails_keeps h6)

theorem execSequencerHalt_keeps {z s : State} {p0 : _} (h : Keeps z s) : KeepsR z (execSequencerHalt p0 s) := by
  unfold execSequencerHalt
  extract_lets -merge -useContext +onlyGivenNames x1
  try clear_value x1
  refine KeepsR.ite (KeepsR.next h) ?_
  split
  · rename_i y2 y3 e4
    have h5 : Keeps z y2 := KeepsP.of_eq e4 (State.detect_keeps h)
    exact KeepsR.next (State.fence_keeps h5)

theorem State.chuckError_keeps {z s : State} {p1 : _} {p2 : _} {p3 : _} {p4 : _} (h : Keeps z s) : Keeps z (State.chuckError s p1 p2 p3 p4) := by
  unfold State.chuckError
  extract_lets -merge -useContext +onlyGivenNames x1
  try clear_value x1
  exact State.endRun_keeps (State.refuseWord_keeps h)

theorem State.keepWarm_keeps {z s : State} {p1 : _} {p2 : _} {p3 : _} (h : Keeps z s) : KeepsP z (State.keepWarm s p1 p2 p3) := by
  unfold State.keepWarm
  refine KeepsP.ite (KeepsP.mk h) ?_
  refine KeepsP.ite (KeepsP.mk h) ?_
  extract_lets -merge -useContext +onlyGivenNames x1
  try clear_value x1
  exact KeepsP.mk (State.sequencerWrite_keeps h)

theorem State.finishRun_keeps {z s : State} {p1 : _} {p2 : _} {p3 : _} {p4 : _} {p5 : _} {p6 : _} (h : Keeps z s) : Keeps z (State.finishRun s p1 p2 p3 p4 p5 p6) := by
  unfold State.finishRun
  extract_lets -merge -useContext +onlyGivenNames x1
  try clear_value x1
  extract_lets -merge -useContext +onlyGivenNames x2
  try clear_value x2
  refine Keeps.ite (State.endRun_keeps (State.elapseRun_keeps h)) ?_
  extract_lets -merge -useContext +onlyGivenNames x3
  have h4 : Keeps z x3 := State.elapseRun_keeps h
  clear_value x3
  extract_lets -merge -useContext +onlyGivenNames x5
  have h6 : Keeps z x5 := State.writeBack_keeps h4
  clear_value x5
  split
  · rename_i y7 y8 e9
    have h10 : Keeps z y7 := KeepsP.of_eq e9 (State.keepWarm_keeps h6)
    extract_lets -merge -useContext +onlyGivenNames x11
    have h12 : Keeps z x11 := State.measureRateOf_keeps h10
    clear_value x11
    extract_lets -merge -useContext +onlyGivenNames x13
    try clear_value x13
    extract_lets -merge -useContext +onlyGivenNames x14
    try clear_value x14
    exact State.endRun_keeps h12

theorem execLatheCompletion_keeps {z s : State} {p0 : _} {p1 : _} {p2 : _} {p3 : _} {p4 : _} (h : Keeps z s) : KeepsR z (execLatheCompletion p0 p1 p2 p3 p4 s) := by
  unfold execLatheCompletion
  extract_lets -merge -useContext +onlyGivenNames x1
  try clear_value x1
  split
  · exact KeepsR.next h
  · refine KeepsR.ite (KeepsR.next h) ?_
    split
    · exact KeepsR.next (State.chuckError_keeps h)
    · extract_lets -merge -useContext +onlyGivenNames x8
      try clear_value x8
      extract_lets -merge -useContext +onlyGivenNames x9
      try clear_value x9
      split
      · exact KeepsR.next (State.finishRun_keeps h)
      · exact KeepsR.next (Keeps.ite (State.finishRun_keeps h) (State.stopRun_keeps h))

theorem State.cancelLathes_keeps {z s : State} (h : Keeps z s) : Keeps z (State.cancelLathes s) := by
  unfold State.cancelLathes
  refine Keeps.ite h ?_
  extract_lets -merge -useContext +onlyGivenNames x1 x2 x3
  have h4 : Keeps z x1 := State.setFlag_keeps h
  clear_value x1
  try clear_value x2
  have h5 : Keeps z x3 := h4.same
  clear_value x3
  refine Keeps.foldl h5 fun _ h6 _ => ?_
  extract_lets -merge -useContext +onlyGivenNames x7
  have h8 : Keeps z x7 := by
    unfold x7
    refine Keeps.foldl h6 fun _ h9 _ => ?_
    split
    · exact State.endRun_keeps h9
    · exact h9
  clear_value x7
  exact State.flushQueue_keeps h8

theorem State.submitDesc_keeps {z s : State} {p1 : _} {p2 : _} {p3 : _} (h : Keeps z s) : KeepsP z (State.submitDesc s p1 p2 p3) := by
  unfold State.submitDesc
  extract_lets -merge -useContext +onlyGivenNames x1
  try clear_value x1
  extract_lets -merge -useContext +onlyGivenNames x2
  try clear_value x2
  refine KeepsP.ite (KeepsP.mk (State.raise_keeps (State.setNum_keeps h))) ?_
  extract_lets -merge -useContext +onlyGivenNames x3
  try clear_value x3
  extract_lets -merge -useContext +onlyGivenNames x4
  try clear_value x4
  extract_lets -merge -useContext +onlyGivenNames x5
  have h6 : Keeps z x5 := State.setNum_keeps h
  clear_value x5
  extract_lets -merge -useContext +onlyGivenNames x7
  have h8 : Keeps z x7 := State.setLth_keeps h6
  clear_value x7
  extract_lets -merge -useContext +onlyGivenNames x9
  have h10 : Keeps z x9 := State.showLathe_keeps h8
  clear_value x9
  extract_lets -merge -useContext +onlyGivenNames x11
  try clear_value x11
  extract_lets -merge -useContext +onlyGivenNames x12
  have h13 : Keeps z x12 := Keeps.ite (State.raise_keeps h10) h10
  clear_value x12
  extract_lets -merge -useContext +onlyGivenNames x14
  try clear_value x14
  exact KeepsP.ite (KeepsP.mk (State.dropJob_keeps h13)) (KeepsP.mk h13)

theorem State.clearWarm_keeps {z s : State} {p1 : _} (h : Keeps z s) : Keeps z (State.clearWarm s p1) :=
  Keeps.foldl h fun _ h1 _ => State.dmaWrite_keeps h1

theorem execLatheSubmit_keeps {z s : State} {p0 : _} {p1 : _} {p2 : _} (h : Keeps z s) : KeepsR z (execLatheSubmit p0 p1 p2 s) := by
  unfold execLatheSubmit
  extract_lets -merge -useContext +onlyGivenNames x1
  try clear_value x1
  extract_lets -merge -useContext +onlyGivenNames x2
  try clear_value x2
  exact KeepsR.next (State.gatedOr_keeps h (fun _ h3 => KeepsE.ite KeepsE.error (KeepsE.ite KeepsE.error (KeepsE.ok (KeepsP.fst (State.submitDesc_keeps (State.charge_keeps h3)))))))

theorem State.restoreAxis_keeps {z s : State} {p1 : _} {p2 : _} {p3 : _} {p4 : _} {p5 : _} {p6 : _} {p7 : _} (h : Keeps z s) : Keeps z (State.restoreAxis s p1 p2 p3 p4 p5 p6 p7) := by
  unfold State.restoreAxis
  extract_lets -merge -useContext +onlyGivenNames x1
  try clear_value x1
  extract_lets -merge -useContext +onlyGivenNames x2
  have h3 : Keeps z x2 := State.setAxis_keeps h
  clear_value x2
  extract_lets -merge -useContext +onlyGivenNames x4
  have h5 : Keeps z x4 := State.setFlag_keeps (State.setFlag_keeps (State.setAxisPos_keeps h3))
  clear_value x4
  exact State.setLost_keeps h5

theorem State.prfOutcome_keeps {z s : State} {p1 : _} {p2 : _} {p3 : _} {p4 : _} (h : Keeps z s) : Keeps z (State.prfOutcome s p1 p2 p3 p4) :=
  State.setNum_keeps h

theorem State.setPos_keeps {z s : State} {p1 : _} {p2 : _} (h : Keeps z s) : Keeps z (State.setPos s p1 p2) :=
  Keeps.ite (State.prfOutcome_keeps h) (State.setLost_keeps (State.setAxisPos_keeps (State.prfOutcome_keeps h)))

theorem State.startHome_keeps {z s : State} {p1 : _} {p2 : _} (h : Keeps z s) : Keeps z (State.startHome s p1 p2) := by
  unfold State.startHome
  refine Keeps.ite (State.prfOutcome_keeps h) ?_
  extract_lets -merge -useContext +onlyGivenNames x1
  have h2 : Keeps z x1 := State.prfOutcome_keeps h
  clear_value x1
  exact Keeps.ite (State.launch_keeps h2) h2

theorem State.homeWrite_keeps {z s : State} {p1 : _} {p2 : _} {p3 : _} (h : Keeps z s) : Keeps z (State.homeWrite s p1 p2 p3) := by
  unfold State.homeWrite
  refine Keeps.ite h ?_
  extract_lets -merge -useContext +onlyGivenNames x1
  have h2 : Keeps z x1 := Keeps.ite (State.setPos_keeps h) h
  clear_value x1
  exact Keeps.ite (State.startHome_keeps h2) h2

theorem execSetPos_keeps {z s : State} {p0 : _} {p1 : _} {p2 : _} (h : Keeps z s) : KeepsR z (execSetPos p0 p1 p2 s) :=
  KeepsR.next (State.gated_keeps h (fun _ h1 => State.homeWrite_keeps h1))

theorem execAxisHalt_keeps {z s : State} {p0 : _} {p1 : _} (h : Keeps z s) : KeepsR z (execAxisHalt p0 p1 s) :=
  KeepsR.next (State.gated_keeps h (fun _ h1 => State.haltAxes_keeps h1))

theorem State.goStart_keeps {z s : State} {p1 : _} (h : Keeps z s) : Keeps z (State.goStart s p1) := by
  unfold State.goStart
  extract_lets -merge -useContext +onlyGivenNames x1
  have h2 : Keeps z x1 := by
    unfold x1
    refine Keeps.foldl h fun _ h3 _ => ?_
    extract_lets -merge -useContext +onlyGivenNames x4
    try clear_value x4
    exact Keeps.ite h3 (State.aimGroup_keeps h3)
  clear_value x1
  exact Keeps.foldl h2 fun _ h5 _ => State.aimSingle_keeps h5

theorem execAxisGo_keeps {z s : State} {p0 : _} {p1 : _} (h : Keeps z s) : KeepsR z (execAxisGo p0 p1 s) := by
  unfold execAxisGo
  refine KeepsR.next (State.gated_keeps h (fun _ h1 => ?_))
  extract_lets -merge -useContext +onlyGivenNames x2
  try clear_value x2
  split
  · exact State.raise_keeps (State.prfOutcome_keeps h1)
  · extract_lets -merge -useContext +onlyGivenNames x7
    have h8 : Keeps z x7 := State.prfOutcome_keeps h1
    clear_value x7
    exact Keeps.ite (State.goStart_keeps h8) h8

theorem State.homeFailed_keeps {z s : State} {p1 : _} (h : Keeps z s) : Keeps z (State.homeFailed s p1) :=
  State.startHeld_keeps (State.raise_keeps (State.showAxis_keeps (State.setAxis_keeps h)))

theorem State.axesLost_keeps {z s : State} (h : Keeps z s) : Keeps z (State.axesLost s) :=
  Keeps.foldl h fun _ h1 _ => State.setLost_keeps h1

theorem execCurrentReduce_keeps {z s : State} {p0 : _} (h : Keeps z s) : KeepsR z (execCurrentReduce p0 s) := by
  unfold execCurrentReduce
  extract_lets -merge -useContext +onlyGivenNames x1
  try clear_value x1
  extract_lets -merge -useContext +onlyGivenNames x2
  try clear_value x2
  refine KeepsR.ite ?_ (KeepsR.next h)
  extract_lets -merge -useContext +onlyGivenNames x3
  have h4 : Keeps z x3 := State.elapse_keeps h
  clear_value x3
  exact KeepsR.next (State.setFlag_keeps h4)

theorem execHomeSwitch_keeps {z s : State} {p0 : _} (h : Keeps z s) : KeepsR z (execHomeSwitch p0 s) := by
  unfold execHomeSwitch
  extract_lets -merge -useContext +onlyGivenNames x1
  try clear_value x1
  refine KeepsR.ite ?_ (KeepsR.next h)
  extract_lets -merge -useContext +onlyGivenNames x2 x3
  try clear_value x2
  have h4 : Keeps z x3 := State.setAxisPos_keeps (State.setAxis_keeps h)
  clear_value x3
  extract_lets -merge -useContext +onlyGivenNames x5
  have h6 : Keeps z x5 := State.raise_keeps (State.setLost_keeps (State.setFlag_keeps h4))
  clear_value x5
  exact KeepsR.next (State.startHeld_keeps h6)

theorem execAxisHome_keeps {z s : State} {p0 : _} {p1 : _} {p2 : _} (h : Keeps z s) : KeepsR z (execAxisHome p0 p1 p2 s) :=
  KeepsR.next (State.gated_keeps h (fun _ h1 => State.homeWrite_keeps h1))

theorem execPrfSample_keeps {z s : State} {p0 : _} (h : Keeps z s) : KeepsR z (execPrfSample p0 s) := by
  unfold execPrfSample
  extract_lets -merge -useContext +onlyGivenNames x1
  try clear_value x1
  refine KeepsR.ite ?_ (KeepsR.next h)
  extract_lets -merge -useContext +onlyGivenNames x2
  have h3 : Keeps z x2 := State.elapse_keeps h
  clear_value x2
  extract_lets -merge -useContext +onlyGivenNames x4 x5
  try clear_value x4
  have h6 : Keeps z x5 := State.setAxis_keeps h3
  clear_value x5
  exact KeepsR.next (State.latchPresentAll_keeps h6)

theorem execAxisStop_keeps {z s : State} {p0 : _} {p1 : _} (h : Keeps z s) : KeepsR z (execAxisStop p0 p1 s) :=
  KeepsR.next (State.gated_keeps h (fun _ h1 => State.stopAxes_keeps h1))

theorem State.stepAxis_keeps {z s : State} {p1 : _} {p2 : _} (h : Keeps z s) : Keeps z (State.stepAxis s p1 p2) := by
  unfold State.stepAxis
  extract_lets -merge -useContext +onlyGivenNames x1
  have h2 : Keeps z x1 := State.elapse_keeps h
  clear_value x1
  extract_lets -merge -useContext +onlyGivenNames x3
  try clear_value x3
  extract_lets -merge -useContext +onlyGivenNames x4
  try clear_value x4
  extract_lets -merge -useContext +onlyGivenNames x5
  have h6 : Keeps z x5 := State.setAxis_keeps h2
  clear_value x5
  extract_lets -merge -useContext +onlyGivenNames x7
  have h8 : Keeps z x7 := State.setAxisPos_keeps h6
  clear_value x7
  extract_lets -merge -useContext +onlyGivenNames x9
  have h10 : Keeps z x9 := Keeps.ite (State.roll_keeps h8) h8
  clear_value x9
  exact Keeps.ite h10 (Keeps.ite (State.homeFailed_keeps h10) (State.endMove_keeps h10))

theorem execStepEmit_keeps {z s : State} {p0 : _} (h : Keeps z s) : KeepsR z (execStepEmit p0 s) := by
  unfold execStepEmit
  extract_lets -merge -useContext +onlyGivenNames x1
  try clear_value x1
  split
  · exact KeepsR.next h
  · exact KeepsR.next (Keeps.ite (State.stepAxis_keeps h) h)

theorem State.setSweep_keeps {z s : State} {p1 : _} (h : Keeps z s) : Keeps z (State.setSweep s p1) :=
  State.setFlag_keeps h.same

theorem State.sweepDone_keeps {z s : State} (h : Keeps z s) : Keeps z (State.sweepDone s) := by
  unfold State.sweepDone
  split
  · exact Keeps.ite (State.setSweep_keeps h) h
  · exact h

theorem State.tuneLoadNow_keeps {z s : State} {p1 : _} (h : Keeps z s) : Keeps z (State.tuneLoadNow s p1) := by
  unfold State.tuneLoadNow
  extract_lets -merge -useContext +onlyGivenNames x1
  try clear_value x1
  refine Keeps.ite (State.setFld_keeps h) ?_
  extract_lets -merge -useContext +onlyGivenNames x2
  try clear_value x2
  extract_lets -merge -useContext +onlyGivenNames x3
  have h4 : Keeps z x3 := Keeps.foldl h fun _ h5 _ => State.setNum_keeps h5
  clear_value x3
  extract_lets -merge -useContext +onlyGivenNames x6
  try clear_value x6
  extract_lets -merge -useContext +onlyGivenNames x7
  have h8 : Keeps z x7 := State.setNum_keeps (State.setNum_keeps h4)
  clear_value x7
  extract_lets -merge -useContext +onlyGivenNames x9
  have h10 : Keeps z x9 := State.setNum_keeps (State.setNum_keeps h8)
  clear_value x9
  exact State.setFld_keeps h10

theorem State.tuneApplyNow_keeps {z s : State} {p1 : _} (h : Keeps z s) : Keeps z (State.tuneApplyNow s p1) := by
  unfold State.tuneApplyNow
  extract_lets -merge -useContext +onlyGivenNames x1
  try clear_value x1
  extract_lets -merge -useContext +onlyGivenNames x2
  try clear_value x2
  refine Keeps.ite (State.raise_keeps (State.setFld_keeps h)) ?_
  extract_lets -merge -useContext +onlyGivenNames x3
  have h4 : Keeps z x3 := State.setNum_keeps h
  clear_value x3
  exact h4.same

theorem State.tuneGo_keeps {z s : State} {p1 : _} {p2 : _} (h : Keeps z s) : Keeps z (State.tuneGo s p1 p2) := by
  unfold State.tuneGo
  refine Keeps.ite h ?_
  extract_lets -merge -useContext +onlyGivenNames x1
  have h2 : Keeps z x1 := Keeps.ite (State.tuneLoadNow_keeps h) h
  clear_value x1
  exact Keeps.ite (State.tuneApplyNow_keeps h2) h2

theorem execTuneLoad_keeps {z s : State} {p0 : _} {p1 : _} (h : Keeps z s) : KeepsR z (execTuneLoad p0 p1 s) :=
  KeepsR.next (State.gated_keeps h (fun _ h1 => State.tuneGo_keeps h1))

theorem State.cleKeep_keeps {z s : State} {p1 : _} (h : Keeps z s) : Keeps z (State.cleKeep s p1) :=
  Keeps.ite h (State.writeSignal_keeps h)

theorem State.groupKept_keeps {z s : State} {p1 : _} (h : Keeps z s) : Keeps z (State.groupKept s p1) :=
  State.raise_keeps (State.setFlag_keeps (State.cleKeep_keeps h))

theorem State.clePut_keeps {z s : State} {p1 : _} {p2 : _} {p3 : _} (h : Keeps z s) : KeepsP z (State.clePut s p1 p2 p3) :=
  KeepsP.ite (KeepsP.mk h) (KeepsP.mk (State.writeSignal_keeps h))

theorem State.cleOutputs_keeps {z s : State} {p1 : _} {p2 : _} (h : Keeps z s) : KeepsP z (State.cleOutputs s p1 p2) := by
  unfold State.cleOutputs
  refine KeepsP.foldl (KeepsP.mk h) fun _ h1 _ => ?_
  extract_lets -merge -useContext +onlyGivenNames x2
  try clear_value x2
  extract_lets -merge -useContext +onlyGivenNames x3
  have h4 : Keeps z x3 := State.setNum_keeps (KeepsP.fst h1)
  clear_value x3
  split
  · rename_i y5 y6 e7
    have h8 : Keeps z y5 := KeepsP.of_eq e7 (State.clePut_keeps h4)
    exact KeepsP.mk h8

theorem State.setCleLoop_keeps {z s : State} {p1 : _} {p2 : _} (h : Keeps z s) : Keeps z (State.setCleLoop s p1 p2) :=
  h.same

theorem State.cleSettle_keeps {z s : State} {p1 : _} {p2 : _} (h : Keeps z s) : Keeps z (State.cleSettle s p1 p2) := by
  unfold State.cleSettle
  extract_lets -merge -useContext +onlyGivenNames x1 x2
  try clear_value x1
  have h3 : Keeps z x2 := State.setCleLoop_keeps h
  clear_value x2
  exact State.setFlag_keeps (State.setFlag_keeps (State.setFlag_keeps h3))

theorem State.cleLoad_keeps {z s : State} {p1 : _} (h : Keeps z s) : Keeps z (State.cleLoad s p1) := by
  unfold State.cleLoad
  extract_lets -merge -useContext +onlyGivenNames x1
  try clear_value x1
  exact State.setFld_keeps (State.setFld_keeps h)

theorem State.groupResolved_keeps {z s : State} {p1 : _} {p2 : _} {p3 : _} {p4 : _} (h : Keeps z s) : Keeps z (State.groupResolved s p1 p2 p3 p4) := by
  unfold State.groupResolved
  extract_lets -merge -useContext +onlyGivenNames x1
  try clear_value x1
  extract_lets -merge -useContext +onlyGivenNames x2
  try clear_value x2
  split
  · rename_i y3 y4 e5
    have h6 : Keeps z y3 := KeepsP.of_eq e5 (State.clePut_keeps h)
    split
    · rename_i y7 y8 e9
      have h10 : Keeps z y7 := by
        refine KeepsP.of_eq e9 ?_
        refine KeepsP.foldl (KeepsP.mk h6) fun _ h11 _ => ?_
        split
        · rename_i y12 y13 e14
          have h15 : Keeps z y12 := KeepsP.of_eq e14 (State.cleOutputs_keeps (KeepsP.fst h11))
          exact KeepsP.mk (State.cleSettle_keeps h15)
      extract_lets -merge -useContext +onlyGivenNames x16
      have h17 : Keeps z x16 := State.latchPresentAll_keeps h10
      clear_value x16
      extract_lets -merge -useContext +onlyGivenNames x18
      have h19 : Keeps z x18 := Keeps.ite h17 (State.roll_keeps h17)
      clear_value x18
      exact State.cleLoad_keeps (State.setFlag_keeps (State.setFld_keeps h19))

theorem State.tryGroup_keeps {z s : State} {p1 : _} {p2 : _} (h : Keeps z s) : Keeps z (State.tryGroup s p1 p2) := by
  unfold State.tryGroup
  split
  · exact h
  · extract_lets -merge -useContext +onlyGivenNames x5
    try clear_value x5
    extract_lets -merge -useContext +onlyGivenNames x6
    try clear_value x6
    refine Keeps.ite h ?_
    extract_lets -merge -useContext +onlyGivenNames x7
    try clear_value x7
    extract_lets -merge -useContext +onlyGivenNames x8
    have h9 : Keeps z x8 := State.setSweep_keeps h
    clear_value x8
    refine Keeps.ite h9 ?_
    split
    · exact State.groupKept_keeps h9
    · exact Keeps.ite (State.groupKept_keeps h9) (State.groupResolved_keeps h9)

theorem State.cleFirst_keeps {z s : State} {p1 : _} (h : Keeps z s) : Keeps z (State.cleFirst s p1) :=
  Keeps.ite h (State.setFlag_keeps h)

theorem State.cleDisable_keeps {z s : State} {p1 : _} (h : Keeps z s) : Keeps z (State.cleDisable s p1) := by
  unfold State.cleDisable
  split
  · exact h
  · refine Keeps.ite h ?_
    extract_lets -merge -useContext +onlyGivenNames x5
    try clear_value x5
    extract_lets -merge -useContext +onlyGivenNames x6
    have h7 : Keeps z x6 := State.setFlag_keeps (State.setSweep_keeps h)
    clear_value x6
    exact State.sweepDone_keeps (Keeps.ite h7 (State.tryGroup_keeps h7))

theorem State.cleWriteLen_keeps {z s : State} {p1 : _} {p2 : _} (h : Keeps z s) : Keeps z (State.cleWriteLen s p1 p2) := by
  unfold State.cleWriteLen
  extract_lets -merge -useContext +onlyGivenNames x1
  try clear_value x1
  extract_lets -merge -useContext +onlyGivenNames x2
  have h3 : Keeps z x2 := State.setReg_keeps h
  clear_value x2
  exact Keeps.foldl h3 fun _ h4 _ => Keeps.ite (State.cleFirst_keeps h4) (Keeps.ite (State.cleDisable_keeps h4) h4)

theorem State.cleExecute_keeps {z s : State} {p1 : _} {p2 : _} (h : Keeps z s) : Keeps z (State.cleExecute s p1 p2) := by
  unfold State.cleExecute
  extract_lets -merge -useContext +onlyGivenNames x1
  try clear_value x1
  extract_lets -merge -useContext +onlyGivenNames x2
  try clear_value x2
  split
  · extract_lets -merge -useContext +onlyGivenNames x7
    try clear_value x7
    extract_lets -merge -useContext +onlyGivenNames x8
    try clear_value x8
    extract_lets -merge -useContext +onlyGivenNames x9 x10
    try clear_value x9
    have h11 : Keeps z x10 := State.setCleLoop_keeps h
    clear_value x10
    extract_lets -merge -useContext +onlyGivenNames x12
    have h13 : Keeps z x12 := State.setFlag_keeps (State.roll_keeps h11)
    clear_value x12
    extract_lets -merge -useContext +onlyGivenNames x14
    have h15 : Keeps z x14 := State.setFlag_keeps (State.setFld_keeps h13)
    clear_value x14
    extract_lets -merge -useContext +onlyGivenNames x16
    try clear_value x16
    refine Keeps.ite ?_ ?_
    · extract_lets -merge -useContext +onlyGivenNames x17
      have h18 : Keeps z x17 := State.setSweep_keeps h15
      clear_value x17
      split
      · rename_i y19 y20 e21
        have h22 : Keeps z y19 := KeepsP.of_eq e21 (State.cleOutputs_keeps h18)
        exact State.sweepDone_keeps (State.cleLoad_keeps (State.cleSettle_keeps (State.latchPresentAll_keeps h22)))
    · extract_lets -merge -useContext +onlyGivenNames x23
      have h24 : Keeps z x23 := State.setNum_keeps h15
      clear_value x23
      exact State.sweepDone_keeps (State.tryGroup_keeps (State.setSweep_keeps h24))

end Sys2Proof.Machine
end

