-- ==== Sys2Proof/Laws/KeepsD.lean ====
section
/-! SUPPORT. What each operation keeps, part 4: each lemma follows its definition's form. -/
namespace Sys2Proof.Machine

theorem State.cleTry_keeps {z s : State} {p1 : _} (h : Keeps z s) : Keeps z (State.cleTry s p1) := by
  unfold State.cleTry
  split
  · exact h
  · exact Keeps.ite h (Keeps.ite (State.cleExecute_keeps h) (State.setFlag_keeps h))

theorem execLoopInputWritten_keeps {z s : State} {p0 : _} (h : Keeps z s) : KeepsR z (execLoopInputWritten p0 s) := by
  unfold execLoopInputWritten
  extract_lets -merge -useContext +onlyGivenNames x1
  try clear_value x1
  exact KeepsR.ite (KeepsR.next h) (KeepsR.next (Keeps.foldl h fun _ h2 _ => State.cleTry_keeps h2))

theorem State.takeTune_keeps {z s : State} {p1 : _} (h : Keeps z s) : Keeps z (State.takeTune s p1) := by
  unfold State.takeTune
  extract_lets -merge -useContext +onlyGivenNames x1
  have h2 : Keeps z x1 := State.setNum_keeps h
  clear_value x1
  extract_lets -merge -useContext +onlyGivenNames x3
  try clear_value x3
  extract_lets -merge -useContext +onlyGivenNames x4
  try clear_value x4
  exact State.raise_keeps (State.setCleLoop_keeps h2)

theorem State.takeTunes_keeps {z s : State} (h : Keeps z s) : Keeps z (State.takeTunes s) :=
  Keeps.ite h (Keeps.foldl h.same fun _ h1 _ => State.takeTune_keeps h1)

theorem execTuneTake_keeps {z s : State} (h : Keeps z s) : KeepsR z (execTuneTake s) :=
  KeepsR.next (State.takeTunes_keeps h)

theorem State.cleGate_keeps {z s : State} (h : Keeps z s) : Keeps z (State.cleGate s) :=
  Keeps.foldl (State.setSweep_keeps h) fun _ h1 _ => State.setFlag_keeps h1

theorem State.cleMiss_keeps {z s : State} {p1 : _} (h : Keeps z s) : Keeps z (State.cleMiss s p1) := by
  unfold State.cleMiss
  extract_lets -merge -useContext +onlyGivenNames x1
  try clear_value x1
  extract_lets -merge -useContext +onlyGivenNames x2
  have h3 : Keeps z x2 := Keeps.foldl h fun _ h4 _ => State.cleKeep_keeps h4
  clear_value x2
  extract_lets -merge -useContext +onlyGivenNames x5
  have h6 : Keeps z x5 := State.bump_keeps (State.bump_keeps (State.bump_keeps h3))
  clear_value x5
  extract_lets -merge -useContext +onlyGivenNames x7
  have h8 : Keeps z x7 := State.setFlag_keeps (State.setFlag_keeps (State.setFlag_keeps h6))
  clear_value x7
  exact State.blockEvent_keeps h8

theorem State.cleDeadline_keeps {z s : State} (h : Keeps z s) : Keeps z (State.cleDeadline s) := by
  unfold State.cleDeadline
  split
  · exact h
  · extract_lets -merge -useContext +onlyGivenNames x5
    have h6 : Keeps z x5 := Keeps.foldl h fun _ h7 _ => State.cleMiss_keeps h7
    clear_value x5
    extract_lets -merge -useContext +onlyGivenNames x8
    have h9 : Keeps z x8 := Keeps.ite h6 (State.raise_keeps h6)
    clear_value x8
    extract_lets -merge -useContext +onlyGivenNames x10
    have h11 : Keeps z x10 := Keeps.foldl h9 fun _ h12 _ => State.tryGroup_keeps h12
    clear_value x10
    exact State.setSweep_keeps (Keeps.ite h11 (State.cleLoad_keeps h11))

theorem execSweepDeadline_keeps {z s : State} (h : Keeps z s) : KeepsR z (execSweepDeadline s) := by
  unfold execSweepDeadline
  split
  · exact KeepsR.next h
  · refine KeepsR.ite (KeepsR.next h) ?_
    extract_lets -merge -useContext +onlyGivenNames x5
    try clear_value x5
    split
    · exact KeepsR.next (Keeps.ite (State.cleDeadline_keeps h) h)
    · exact KeepsR.next (State.cleDeadline_keeps (State.elapse_keeps h))

theorem execTuneApply_keeps {z s : State} {p0 : _} {p1 : _} (h : Keeps z s) : KeepsR z (execTuneApply p0 p1 s) :=
  KeepsR.next (State.gated_keeps h (fun _ h1 => State.tuneGo_keeps h1))

theorem State.cleLoadLoop_keeps {z s : State} {p1 : _} (h : Keeps z s) : Keeps z (State.cleLoadLoop s p1) := by
  unfold State.cleLoadLoop
  extract_lets -merge -useContext +onlyGivenNames x1
  try clear_value x1
  extract_lets -merge -useContext +onlyGivenNames x2
  have h3 : Keeps z x2 := State.setCleLoop_keeps h
  clear_value x2
  extract_lets -merge -useContext +onlyGivenNames x4
  have h5 : Keeps z x4 := Keeps.foldl h3 fun _ h6 _ => State.setNum_keeps h6
  clear_value x4
  extract_lets -merge -useContext +onlyGivenNames x7
  have h8 : Keeps z x7 := State.setFlag_keeps h5
  clear_value x7
  exact Keeps.ite (State.setNum_keeps h8) (State.setNum_keeps h8)

theorem State.cleTakeover_keeps {z s : State} (h : Keeps z s) : Keeps z (State.cleTakeover s) :=
  Keeps.foldl (State.setNum_keeps h) fun _ h1 _ => State.cleFirst_keeps (State.setCleLoop_keeps h1)

theorem execCleClear_keeps {z s : State} {p0 : _} {p1 : _} (h : Keeps z s) : KeepsR z (execCleClear p0 p1 s) :=
  KeepsR.next (State.gated_keeps h (fun _ h1 => Keeps.ite (Keeps.foldl (State.setNum_keeps (State.setNum_keeps h1)) fun _ h2 _ => State.setNum_keeps h2) h1))

theorem State.startSweep_keeps {z s : State} {p1 : _} (h : Keeps z s) : Keeps z (State.startSweep s p1) := by
  unfold State.startSweep
  extract_lets -merge -useContext +onlyGivenNames x1
  have h2 : Keeps z x1 := State.takeTunes_keeps (State.cleDeadline_keeps h)
  clear_value x1
  extract_lets -merge -useContext +onlyGivenNames x3
  try clear_value x3
  extract_lets -merge -useContext +onlyGivenNames x4
  have h5 : Keeps z x4 := State.setNum_keeps h2
  clear_value x4
  extract_lets -merge -useContext +onlyGivenNames x6
  try clear_value x6
  extract_lets -merge -useContext +onlyGivenNames x7
  try clear_value x7
  extract_lets -merge -useContext +onlyGivenNames x8
  try clear_value x8
  exact State.sweepDone_keeps (Keeps.foldl (State.setSweep_keeps h5) fun _ h9 _ => State.cleTry_keeps h9)

theorem State.setMetOut_keeps {z s : State} {p1 : _} {p2 : _} (h : Keeps z s) : Keeps z (State.setMetOut s p1 p2) :=
  h.same

theorem State.outContribution_keeps {z s : State} {p1 : _} {p2 : _} {p3 : _} {p4 : _} {p5 : _} (h : Keeps z s) : Keeps z (State.outContribution s p1 p2 p3 p4 p5) := by
  unfold State.outContribution
  extract_lets -merge -useContext +onlyGivenNames x1
  try clear_value x1
  extract_lets -merge -useContext +onlyGivenNames x2
  try clear_value x2
  extract_lets -merge -useContext +onlyGivenNames x3
  try clear_value x3
  extract_lets -merge -useContext +onlyGivenNames x4
  try clear_value x4
  extract_lets -merge -useContext +onlyGivenNames x5
  try clear_value x5
  extract_lets -merge -useContext +onlyGivenNames x6
  try clear_value x6
  extract_lets -merge -useContext +onlyGivenNames x7
  try clear_value x7
  extract_lets -merge -useContext +onlyGivenNames x8
  try clear_value x8
  extract_lets -merge -useContext +onlyGivenNames x9
  have h10 : Keeps z x9 := State.setMetOut_keeps h
  clear_value x9
  extract_lets -merge -useContext +onlyGivenNames x11
  have h12 : Keeps z x11 := State.setFld_keeps h10
  clear_value x11
  exact Keeps.ite (State.raise_keeps (State.setFlag_keeps h12)) h12

theorem State.inProgress_keeps {z s : State} {p1 : _} (h : Keeps z s) : Keeps z (State.inProgress s p1) := by
  unfold State.inProgress
  split
  · exact h.same
  · exact h.same

theorem State.openNext_keeps {z s : State} {p1 : _} (h : Keeps z s) : Keeps z (State.openNext s p1) :=
  Keeps.ite h.same h

theorem State.metUtcChange_keeps {z s : State} {p1 : _} (h : Keeps z s) : Keeps z (State.metUtcChange s p1) := by
  unfold State.metUtcChange
  extract_lets -merge -useContext +onlyGivenNames x1
  try clear_value x1
  exact Keeps.ite (State.setNum_keeps h) (State.inProgress_keeps (State.setNum_keeps (State.openNext_keeps h)))

theorem State.inInterval_keeps {z s : State} {p1 : _} {p2 : _} (h : Keeps z s) : Keeps z (State.inInterval s p1 p2) := by
  unfold State.inInterval
  refine Keeps.ite h.same ?_
  extract_lets -merge -useContext +onlyGivenNames x1
  try clear_value x1
  exact h.same

theorem State.markInterval_keeps {z s : State} {p1 : _} {p2 : _} {p3 : _} (h : Keeps z s) : Keeps z (State.markInterval s p1 p2 p3) := by
  unfold State.markInterval
  refine Keeps.ite h ?_
  extract_lets -merge -useContext +onlyGivenNames x1
  have h2 : Keeps z x1 := State.inInterval_keeps h
  clear_value x1
  exact Keeps.ite h2 (State.raise_keeps h2)

theorem State.setMetSystem_keeps {z s : State} {p1 : _} {p2 : _} (h : Keeps z s) : Keeps z (State.setMetSystem s p1 p2) :=
  h.same

theorem State.setEnergyReg_keeps {z s : State} {p1 : _} {p2 : _} (h : Keeps z s) : Keeps z (State.setEnergyReg s p1 p2) :=
  State.setNum_keeps (State.setNum_keeps h)

theorem State.addRegister_keeps {z s : State} {p1 : _} {p2 : _} {p3 : _} {p4 : _} {p5 : _} (h : Keeps z s) : Keeps z (State.addRegister s p1 p2 p3 p4 p5) := by
  unfold State.addRegister
  extract_lets -merge -useContext +onlyGivenNames x1
  try clear_value x1
  extract_lets -merge -useContext +onlyGivenNames x2
  try clear_value x2
  extract_lets -merge -useContext +onlyGivenNames x3 x4
  try clear_value x3
  have h5 : Keeps z x4 := h.same
  clear_value x4
  extract_lets -merge -useContext +onlyGivenNames x6
  have h7 : Keeps z x6 := State.setEnergyReg_keeps h5
  clear_value x6
  extract_lets -merge -useContext +onlyGivenNames x8
  have h9 : Keeps z x8 := State.inInterval_keeps h7
  clear_value x8
  exact Keeps.foldl h9 fun _ h10 _ => Keeps.ite (State.outContribution_keeps h10) h10

theorem State.contribute_keeps {z s : State} {p1 : _} {p2 : _} {p3 : _} {p4 : _} {p5 : _} {p6 : _} {p7 : _} (h : Keeps z s) : Keeps z (State.contribute s p1 p2 p3 p4 p5 p6 p7) :=
  Keeps.foldl h fun _ h1 _ => State.addRegister_keeps h1

theorem State.setVanaClass_keeps {z s : State} {p1 : _} (h : Keeps z s) : Keeps z (State.setVanaClass s p1) := by
  unfold State.setVanaClass
  extract_lets -merge -useContext +onlyGivenNames x1
  have h2 : Keeps z x1 := State.setFlag_keeps h
  clear_value x1
  exact Keeps.ite h2 h2.same

theorem State.metTimeStep_keeps {z s : State} {p1 : _} (h : Keeps z s) : Keeps z (State.metTimeStep s p1) :=
  Keeps.ite h (State.inProgress_keeps (State.openNext_keeps h))

theorem execVanaClassChange_keeps {z s : State} {p0 : _} (h : Keeps z s) : KeepsR z (execVanaClassChange p0 s) :=
  KeepsR.next (State.setVanaClass_keeps h)

theorem execRailFault_keeps {z s : State} {p0 : _} (h : Keeps z s) : KeepsR z (execRailFault p0 s) :=
  KeepsR.ite (KeepsR.next (State.fence_keeps (State.raise_keeps (State.setFlag_keeps h)))) (KeepsR.next h)

theorem execPhaseShed_keeps {z s : State} {p0 : _} {p1 : _} (h : Keeps z s) : KeepsR z (execPhaseShed p0 p1 s) := by
  unfold execPhaseShed
  extract_lets -merge -useContext +onlyGivenNames x1
  have h2 : Keeps z x1 := State.setFld_keeps (State.setFld_keeps h)
  clear_value x1
  extract_lets -merge -useContext +onlyGivenNames x3
  try clear_value x3
  extract_lets -merge -useContext +onlyGivenNames x4
  try clear_value x4
  extract_lets -merge -useContext +onlyGivenNames x5
  try clear_value x5
  exact KeepsR.next h2.same

theorem execVcoreRampStep_keeps {z s : State} {p0 : _} (h : Keeps z s) : KeepsR z (execVcoreRampStep p0 s) :=
  KeepsR.next (State.setFld_keeps (State.setFld_keeps h))

theorem execRailRecovered_keeps {z s : State} {p0 : _} (h : Keeps z s) : KeepsR z (execRailRecovered p0 s) :=
  KeepsR.ite (KeepsR.next (State.setFlag_keeps h)) (KeepsR.next h)

theorem execPhaseFault_keeps {z s : State} {p0 : _} (h : Keeps z s) : KeepsR z (execPhaseFault p0 s) := by
  unfold execPhaseFault
  refine KeepsR.ite ?_ (KeepsR.next h)
  extract_lets -merge -useContext +onlyGivenNames x1
  have h2 : Keeps z x1 := State.raise_keeps (State.setFlag_keeps h)
  clear_value x1
  exact KeepsR.next (Keeps.ite h2.same h2)

theorem State.loseBattery_keeps {z s : State} (h : Keeps z s) : Keeps z (State.loseBattery s) := by
  unfold State.loseBattery
  split
  · rename_i y1 y2 e3
    have h4 : Keeps z y1 := KeepsP.of_eq e3 (State.free_keeps h)
    split
    · rename_i y5 y6 e7
      have h8 : Keeps z y5 := KeepsP.of_eq e7 (State.free_keeps h4)
      split
      · rename_i y9 y10 e11
        have h12 : Keeps z y9 := KeepsP.of_eq e11 (State.free_keeps h8)
        split
        · rename_i y13 y14 e15
          have h16 : Keeps z y13 := KeepsP.of_eq e15 (State.free_keeps h12)
          exact h16.same

theorem execBatteryLost_keeps {z s : State} (h : Keeps z s) : KeepsR z (execBatteryLost s) := by
  unfold execBatteryLost
  extract_lets -merge -useContext +onlyGivenNames x1
  have h2 : Keeps z x1 := State.setFlag_keeps h
  clear_value x1
  exact KeepsR.next (Keeps.ite (State.loseBattery_keeps h2) h2)

theorem execBatLow_keeps {z s : State} {p0 : _} (h : Keeps z s) : KeepsR z (execBatLow p0 s) :=
  KeepsR.next (State.raise_keeps (State.setFlag_keeps (State.setFld_keeps h)))

theorem execVbatRecovered_keeps {z s : State} {p0 : _} (h : Keeps z s) : KeepsR z (execVbatRecovered p0 s) := by
  unfold execVbatRecovered
  extract_lets -merge -useContext +onlyGivenNames x1
  have h2 : Keeps z x1 := State.setFld_keeps h
  clear_value x1
  extract_lets -merge -useContext +onlyGivenNames x3
  have h4 : Keeps z x3 := Keeps.ite (State.setFlag_keeps h2) h2
  clear_value x3
  exact KeepsR.next (Keeps.ite (State.setFlag_keeps h4) h4)

theorem State.afterStep_keeps {z s : State} {p1 : _} {p2 : _} {p3 : _} (h : Keeps z s) : Keeps z (State.afterStep s p1 p2 p3) :=
  Keeps.ite (State.finishRejoin_keeps h) h

theorem State.startRejoin_keeps {z s : State} {p1 : _} (h : Keeps z s) : Keeps z (State.startRejoin s p1) :=
  Keeps.ite (State.finishRejoin_keeps h) (State.setSpinFlag_keeps (State.setSpin_keeps h))

theorem State.sourceKnown_keeps {z s : State} {p1 : _} (h : Keeps z s) : Keeps z (State.sourceKnown s p1) :=
  State.startRejoin_keeps (State.setSpinFlag_keeps (State.setSpin_keeps h))

theorem State.noteEvent_keeps {z s : State} {p1 : _} (h : Keeps z s) : Keeps z (State.noteEvent s p1) := by
  unfold State.noteEvent
  extract_lets -merge -useContext +onlyGivenNames x1
  have h2 : Keeps z x1 := State.noteSpindle_keeps h
  clear_value x1
  extract_lets -merge -useContext +onlyGivenNames x3
  try clear_value x3
  exact State.setSpin_keeps h2

theorem State.sourceStep_keeps {z s : State} {p1 : _} {p2 : _} {p3 : _} (h : Keeps z s) : Keeps z (State.sourceStep s p1 p2 p3) := by
  unfold State.sourceStep
  extract_lets -merge -useContext +onlyGivenNames x1
  try clear_value x1
  extract_lets -merge -useContext +onlyGivenNames x2
  try clear_value x2
  extract_lets -merge -useContext +onlyGivenNames x3
  have h4 : Keeps z x3 := State.setSpin_keeps h
  clear_value x3
  extract_lets -merge -useContext +onlyGivenNames x5
  have h6 : Keeps z x5 := Keeps.ite (State.moveSpindle_keeps h4) (Keeps.ite (State.afterStep_keeps h4) (Keeps.ite (State.sourceKnown_keeps h4) h4))
  clear_value x5
  exact State.noteEvent_keeps h6

theorem State.pulseStep_keeps {z s : State} {p1 : _} {p2 : _} {p3 : _} {p4 : _} (h : Keeps z s) : Keeps z (State.pulseStep s p1 p2 p3 p4) :=
  State.sourceStep_keeps (State.setSpinFlag_keeps (State.setSpin_keeps h))

theorem State.sourceAngle_keeps {z s : State} {p1 : _} {p2 : _} {p3 : _} (h : Keeps z s) : Keeps z (State.sourceAngle s p1 p2 p3) := by
  unfold State.sourceAngle
  extract_lets -merge -useContext +onlyGivenNames x1
  try clear_value x1
  extract_lets -merge -useContext +onlyGivenNames x2
  have h3 : Keeps z x2 := State.setSpin_keeps h
  clear_value x2
  exact Keeps.ite (State.finishRejoin_keeps h3) (Keeps.ite (State.afterStep_keeps h3) (State.sourceKnown_keeps h3))

theorem State.shaftIndex_keeps {z s : State} {p1 : _} (h : Keeps z s) : Keeps z (State.shaftIndex s p1) := by
  unfold State.shaftIndex
  extract_lets -merge -useContext +onlyGivenNames x1 x2
  try clear_value x1
  try clear_value x2
  extract_lets -merge -useContext +onlyGivenNames x3
  try clear_value x3
  exact State.noteEvent_keeps (Keeps.ite (State.sourceAngle_keeps h) (State.sourceAngle_keeps (State.setSpinFlag_keeps h)))

theorem State.mainsStep_keeps {z s : State} {p1 : _} {p2 : _} {p3 : _} {p4 : _} (h : Keeps z s) : Keeps z (State.mainsStep s p1 p2 p3 p4) := by
  unfold State.mainsStep
  extract_lets -merge -useContext +onlyGivenNames x1
  try clear_value x1
  extract_lets -merge -useContext +onlyGivenNames x2
  try clear_value x2
  extract_lets -merge -useContext +onlyGivenNames x3
  try clear_value x3
  exact State.sourceStep_keeps (State.setSpinFlag_keeps (State.setSpin_keeps h))

theorem execRejoinEnd_keeps {z s : State} {p0 : _} (h : Keeps z s) : KeepsR z (execRejoinEnd p0 s) := by
  unfold execRejoinEnd
  extract_lets -merge -useContext +onlyGivenNames x1
  try clear_value x1
  refine KeepsR.ite ?_ (KeepsR.next h)
  split
  · exact KeepsR.next h
  · extract_lets -merge -useContext +onlyGivenNames x6
    have h7 : Keeps z x6 := State.elapse_keeps h
    clear_value x6
    exact KeepsR.next (Keeps.ite (State.finishRejoin_keeps h7) h7)

theorem execSpnAngleRead_keeps {z s : State} {p0 : _} {p1 : _} (h : Keeps z s) : KeepsR z (execSpnAngleRead p0 p1 s) := by
  unfold execSpnAngleRead
  extract_lets -merge -useContext +onlyGivenNames x1
  try clear_value x1
  refine KeepsR.next (State.gatedRead_keeps h (fun _ h2 => ?_))
  extract_lets -merge -useContext +onlyGivenNames x3
  try clear_value x3
  exact KeepsP.mk h2.same

theorem execMainsCrossing_keeps {z s : State} {p0 : _} {p1 : _} {p2 : _} {p3 : _} (h : Keeps z s) : KeepsR z (execMainsCrossing p0 p1 p2 p3 s) :=
  KeepsR.next (Keeps.foldl h fun _ h1 _ => State.mainsStep_keeps h1)

theorem execEncoderIndex_keeps {z s : State} {p0 : _} (h : Keeps z s) : KeepsR z (execEncoderIndex p0 s) :=
  KeepsR.next (Keeps.foldl h fun _ h1 _ => State.shaftIndex_keeps h1)

theorem execHostadv_keeps {z s : State} {p0 : _} {p1 : _} {p2 : _} (h : Keeps z s) : KeepsR z (execHostadv p0 p1 p2 s) :=
  KeepsR.next (State.gated_keeps h (fun _ h1 => Keeps.ite h1 (State.sourceStep_keeps h1)))

theorem State.shaftCount_keeps {z s : State} {p1 : _} {p2 : _} (h : Keeps z s) : Keeps z (State.shaftCount s p1 p2) := by
  unfold State.shaftCount
  extract_lets -merge -useContext +onlyGivenNames x1
  try clear_value x1
  extract_lets -merge -useContext +onlyGivenNames x2
  try clear_value x2
  extract_lets -merge -useContext +onlyGivenNames x3
  try clear_value x3
  exact State.sourceStep_keeps (State.setSpinFlag_keeps (State.setSpin_keeps h))

theorem execSpindlePulse_keeps {z s : State} {p0 : _} {p1 : _} {p2 : _} {p3 : _} (h : Keeps z s) : KeepsR z (execSpindlePulse p0 p1 p2 p3 s) :=
  KeepsR.next (Keeps.foldl h fun _ h1 _ => State.pulseStep_keeps h1)

theorem execSoftwareComparatorFire_keeps {z s : State} {p0 : _} {p1 : _} (h : Keeps z s) : KeepsR z (execSoftwareComparatorFire p0 p1 s) := by
  unfold execSoftwareComparatorFire
  refine KeepsR.ite ?_ (KeepsR.next h)
  split
  · exact KeepsR.next h
  · rename_i y3 y4 e5
    have h6 : Keeps z y3 := KeepsOP.of_eq e5 (State.firing_keeps h)
    extract_lets -merge -useContext +onlyGivenNames x7
    have h8 : Keeps z x7 := Keeps.ite (State.setFlag_keeps h6) (State.setFlag_keeps h6)
    clear_value x7
    extract_lets -merge -useContext +onlyGivenNames x9
    have h10 : Keeps z x9 := Keeps.ite (State.raise_keeps h8) h8
    clear_value x9
    exact KeepsR.next (Keeps.ite (State.setFlag_keeps h10) h10)

theorem State.roundStep_keeps {z s : State} {p1 : _} {p2 : _} {p3 : _} (h : Keeps z s) : Keeps z (State.roundStep s p1 p2 p3) := by
  unfold State.roundStep
  extract_lets -merge -useContext +onlyGivenNames x1
  try clear_value x1
  extract_lets -merge -useContext +onlyGivenNames x2 x3
  try clear_value x2
  try clear_value x3
  exact State.noteEvent_keeps (State.sourceAngle_keeps h)

theorem execRoundTick_keeps {z s : State} {p0 : _} {p1 : _} {p2 : _} (h : Keeps z s) : KeepsR z (execRoundTick p0 p1 p2 s) :=
  KeepsR.next (Keeps.foldl h fun _ h1 _ => State.roundStep_keeps h1)

theorem State.stallSpindle_keeps {z s : State} {p1 : _} {p2 : _} (h : Keeps z s) : Keeps z (State.stallSpindle s p1 p2) := by
  unfold State.stallSpindle
  extract_lets -merge -useContext +onlyGivenNames x1
  try clear_value x1
  extract_lets -merge -useContext +onlyGivenNames x2
  have h3 : Keeps z x2 := State.blockEvent_keeps (State.bump_keeps h)
  clear_value x2
  extract_lets -merge -useContext +onlyGivenNames x4
  have h5 : Keeps z x4 := State.setSpin_keeps h3
  clear_value x4
  extract_lets -merge -useContext +onlyGivenNames x6
  try clear_value x6
  refine Keeps.ite ?_ ?_
  · extract_lets -merge -useContext +onlyGivenNames x7 x8
    try clear_value x7
    have h9 : Keeps z x8 := State.setSpin_keeps h5
    clear_value x8
    exact State.setSpinFlag_keeps (State.setSpinFlag_keeps h9)
  · refine Keeps.ite h5 ?_
    refine Keeps.ite (State.setSpinFlag_keeps h5) ?_
    extract_lets -merge -useContext +onlyGivenNames x10
    try clear_value x10
    extract_lets -merge -useContext +onlyGivenNames x11 x12
    try clear_value x11
    have h13 : Keeps z x12 := State.setSpin_keeps h5
    clear_value x12
    exact State.setSpinFlag_keeps (State.noteSpindle_keeps (State.correctSpindle_keeps h13))

theorem State.stallNow_keeps {z s : State} {p1 : _} (h : Keeps z s) : Keeps z (State.stallNow s p1) :=
  Keeps.ite h (State.stallSpindle_keeps h)

theorem execSpindleStall_keeps {z s : State} {p0 : _} (h : Keeps z s) : KeepsR z (execSpindleStall p0 s) := by
  unfold execSpindleStall
  extract_lets -merge -useContext +onlyGivenNames x1
  try clear_value x1
  split
  · exact KeepsR.next h
  · extract_lets -merge -useContext +onlyGivenNames x7
    have h8 : Keeps z x7 := State.elapse_keeps h
    clear_value x7
    split
    · exact KeepsR.next (Keeps.ite (State.stallSpindle_keeps h8) h8)
    · exact KeepsR.next h8

theorem execEncoderEdge_keeps {z s : State} {p0 : _} {p1 : _} (h : Keeps z s) : KeepsR z (execEncoderEdge p0 p1 s) :=
  KeepsR.next (Keeps.foldl h fun _ h1 _ => State.shaftCount_keeps h1)

theorem State.setPortState_keeps {z s : State} {p1 : _} {p2 : _} (h : Keeps z s) : Keeps z (State.setPortState s p1 p2) :=
  State.setFld_keeps h

theorem State.recommendMaster_keeps {z s : State} {p1 : _} (h : Keeps z s) : Keeps z (State.recommendMaster s p1) :=
  Keeps.ite (State.setPortState_keeps h) (Keeps.ite h (State.setPortState_keeps h))

theorem State.chooseMaster_keeps {z s : State} {p1 : _} (h : Keeps z s) : Keeps z (State.chooseMaster s p1) := by
  unfold State.chooseMaster
  refine Keeps.ite h ?_
  extract_lets -merge -useContext +onlyGivenNames x1
  try clear_value x1
  extract_lets -merge -useContext +onlyGivenNames x2
  have h3 : Keeps z x2 := State.setTimFlag_keeps h
  clear_value x2
  exact h3.same

theorem State.decidePort_keeps {z s : State} {p1 : _} (h : Keeps z s) : Keeps z (State.decidePort s p1) := by
  unfold State.decidePort
  extract_lets -merge -useContext +onlyGivenNames x1
  try clear_value x1
  refine Keeps.ite h ?_
  extract_lets -merge -useContext +onlyGivenNames x2
  try clear_value x2
  split
  · exact Keeps.ite h (State.recommendMaster_keeps h)
  · refine Keeps.ite (State.recommendMaster_keeps h) ?_
    refine Keeps.ite (State.chooseMaster_keeps (Keeps.ite h (Keeps.ite h (State.setPortState_keeps h)))) ?_
    split
    · exact Keeps.ite (State.setPortState_keeps h) (State.recommendMaster_keeps h)
    · exact State.recommendMaster_keeps h

theorem State.decidePorts_keeps {z s : State} (h : Keeps z s) : Keeps z (State.decidePorts s) :=
  Keeps.foldl h fun _ h1 _ => State.decidePort_keeps h1

theorem State.setPtpPort_keeps {z s : State} {p1 : _} {p2 : _} (h : Keeps z s) : Keeps z (State.setPtpPort s p1 p2) :=
  h.same

theorem State.setUtcOffset_keeps {z s : State} {p1 : _} (h : Keeps z s) : Keeps z (State.setUtcOffset s p1) :=
  State.metUtcChange_keeps h

theorem State.takeUtcOffset_keeps {z s : State} {p1 : _} (h : Keeps z s) : Keeps z (State.takeUtcOffset s p1) :=
  State.raise_keeps (State.setUtcOffset_keeps h)

theorem State.takeAnnounce_keeps {z s : State} {p1 : _} {p2 : _} {p3 : _} (h : Keeps z s) : Keeps z (State.takeAnnounce s p1 p2 p3) := by
  unfold State.takeAnnounce
  refine Keeps.ite h ?_
  extract_lets -merge -useContext +onlyGivenNames x1
  try clear_value x1
  extract_lets -merge -useContext +onlyGivenNames x2
  try clear_value x2
  extract_lets -merge -useContext +onlyGivenNames x3
  have h4 : Keeps z x3 := State.decidePorts_keeps (State.setPtpPort_keeps h)
  clear_value x3
  split
  · exact Keeps.ite (State.takeUtcOffset_keeps h4) h4
  · exact h4

theorem State.reanchor_keeps {z s : State} {p1 : _} (h : Keeps z s) : Keeps z (State.reanchor s p1) := by
  unfold State.reanchor
  refine Keeps.ite ?_ h
  extract_lets -merge -useContext +onlyGivenNames x1
  try clear_value x1
  exact State.startRejoin_keeps (State.setSpin_keeps h)

theorem State.stepTime_keeps {z s : State} {p1 : _} (h : Keeps z s) : KeepsP z (State.stepTime s p1) := by
  unfold State.stepTime
  extract_lets -merge -useContext +onlyGivenNames x1
  try clear_value x1
  refine KeepsP.ite (KeepsP.mk (State.setTimFlag_keeps h)) ?_
  extract_lets -merge -useContext +onlyGivenNames x2
  try clear_value x2
  extract_lets -merge -useContext +onlyGivenNames x3
  have h4 : Keeps z x3 := h.same
  clear_value x3
  extract_lets -merge -useContext +onlyGivenNames x5
  have h6 : Keeps z x5 := State.setTimFlag_keeps (State.raise_keeps (State.bump_keeps h4))
  clear_value x5
  exact KeepsP.mk (State.metTimeStep_keeps (State.fusTimeStep_keeps (Keeps.foldl h6 fun _ h7 _ => State.reanchor_keeps h7)))

theorem State.takeMaster_keeps {z s : State} {p1 : _} (h : Keeps z s) : Keeps z (State.takeMaster s p1) := by
  unfold State.takeMaster
  extract_lets -merge -useContext +onlyGivenNames x1
  have h2 : Keeps z x1 := State.setTimFlag_keeps (State.setTimFlag_keeps (State.setTimState_keeps h))
  clear_value x1
  exact State.raise_keeps h2.same

theorem State.stepToMaster_keeps {z s : State} {p1 : _} {p2 : _} (h : Keeps z s) : Keeps z (State.stepToMaster s p1 p2) := by
  unfold State.stepToMaster
  split
  · rename_i y1 e2
    have h3 : Keeps z y1 := KeepsP.of_eq e2 (State.stepTime_keeps h)
    exact State.takeMaster_keeps h3
  · rename_i y4 e5
    have h6 : Keeps z y4 := KeepsP.of_eq e5 (State.stepTime_keeps h)
    exact h6

theorem State.setIncr_keeps {z s : State} {p1 : _} (h : Keeps z s) : Keeps z (State.setIncr s p1) :=
  State.setFld_keeps (State.setNum_keeps h)

theorem State.servo_keeps {z s : State} {p1 : _} (h : Keeps z s) : Keeps z (State.servo s p1) := by
  unfold State.servo
  extract_lets -merge -useContext +onlyGivenNames x1
  try clear_value x1
  extract_lets -merge -useContext +onlyGivenNames x2
  try clear_value x2
  extract_lets -merge -useContext +onlyGivenNames x3
  try clear_value x3
  extract_lets -merge -useContext +onlyGivenNames x4
  try clear_value x4
  extract_lets -merge -useContext +onlyGivenNames x5
  try clear_value x5
  extract_lets -merge -useContext +onlyGivenNames x6 x7
  try clear_value x6
  have h8 : Keeps z x7 := h.same
  clear_value x7
  exact Keeps.ite (State.setIncr_keeps h8) h8

theorem State.slew_keeps {z s : State} {p1 : _} (h : Keeps z s) : Keeps z (State.slew s p1) :=
  State.setTimFlag_keeps (State.setIncr_keeps h)

theorem State.noteCandidate_keeps {z s : State} {p1 : _} (h : Keeps z s) : Keeps z (State.noteCandidate s p1) := by
  unfold State.noteCandidate
  extract_lets -merge -useContext +onlyGivenNames x1
  try clear_value x1
  extract_lets -merge -useContext +onlyGivenNames x2
  try clear_value x2
  extract_lets -merge -useContext +onlyGivenNames x3
  have h4 : Keeps z x3 := State.setReg_keeps (State.setReg_keeps h)
  clear_value x3
  exact h4.same

theorem State.freezeIncr_keeps {z s : State} (h : Keeps z s) : Keeps z (State.freezeIncr s) := by
  unfold State.freezeIncr
  refine Keeps.ite h ?_
  extract_lets -merge -useContext +onlyGivenNames x1
  have h2 : Keeps z x1 := State.setIncr_keeps h
  clear_value x1
  extract_lets -merge -useContext +onlyGivenNames x3
  have h4 : Keeps z x3 := State.raise_keeps (State.setTimFlag_keeps (State.setTimFlag_keeps (State.setTimState_keeps h2)))
  clear_value x3
  extract_lets -merge -useContext +onlyGivenNames x5
  have h6 : Keeps z x5 := State.blockEvent_keeps h4
  clear_value x5
  extract_lets -merge -useContext +onlyGivenNames x7
  have h8 : Keeps z x7 := State.setNum_keeps h6
  clear_value x7
  exact h8.same

theorem State.newMaster_keeps {z s : State} {p1 : _} {p2 : _} (h : Keeps z s) : Keeps z (State.newMaster s p1 p2) := by
  unfold State.newMaster
  extract_lets -merge -useContext +onlyGivenNames x1
  try clear_value x1
  extract_lets -merge -useContext +onlyGivenNames x2
  try clear_value x2
  refine Keeps.ite (State.stepToMaster_keeps h) ?_
  refine Keeps.ite (State.servo_keeps (State.takeMaster_keeps h)) ?_
  refine Keeps.ite (State.stepToMaster_keeps h) ?_
  refine Keeps.ite (State.slew_keeps (State.takeMaster_keeps h)) ?_
  extract_lets -merge -useContext +onlyGivenNames x3
  have h4 : Keeps z x3 := State.noteCandidate_keeps (State.freezeIncr_keeps h)
  clear_value x3
  exact Keeps.ite h4 (State.blockEvent_keeps (State.raise_keeps (State.setTimFlag_keeps h4)))

theorem State.noteLock_keeps {z s : State} {p1 : _} (h : Keeps z s) : Keeps z (State.noteLock s p1) := by
  unfold State.noteLock
  refine Keeps.ite h.same ?_
  extract_lets -merge -useContext +onlyGivenNames x1 x2
  try clear_value x1
  have h3 : Keeps z x2 := h.same
  clear_value x2
  exact Keeps.ite (State.setTimState_keeps h3) h3

theorem State.measureOffset_keeps {z s : State} {p1 : _} {p2 : _} (h : Keeps z s) : Keeps z (State.measureOffset s p1 p2) := by
  unfold State.measureOffset
  extract_lets -merge -useContext +onlyGivenNames x1
  try clear_value x1
  extract_lets -merge -useContext +onlyGivenNames x2
  have h3 : Keeps z x2 := State.setReg_keeps h
  clear_value x2
  split
  · extract_lets -merge -useContext +onlyGivenNames x6
    have h7 : Keeps z x6 := State.newMaster_keeps h3
    clear_value x6
    refine Keeps.ite ?_ h7
    extract_lets -merge -useContext +onlyGivenNames x8
    have h9 : Keeps z x8 := State.noteLock_keeps h7
    clear_value x8
    exact h9.same
  · refine Keeps.ite h3 ?_
    extract_lets -merge -useContext +onlyGivenNames x12
    have h13 : Keeps z x12 := Keeps.ite (State.slew_keeps h3) (State.servo_keeps h3)
    clear_value x12
    extract_lets -merge -useContext +onlyGivenNames x14
    have h15 : Keeps z x14 := State.noteLock_keeps h13
    clear_value x14
    exact h15.same

theorem State.takeOffset_keeps {z s : State} {p1 : _} {p2 : _} (h : Keeps z s) : Keeps z (State.takeOffset s p1 p2) :=
  Keeps.ite (State.measureOffset_keeps h) (Keeps.ite (State.measureOffset_keeps (State.setPortState_keeps h)) h)

theorem State.sendPtp_keeps {z s : State} {p1 : _} {p2 : _} (h : Keeps z s) : Keeps z (State.sendPtp s p1 p2) :=
  State.send_keeps h

theorem State.answerRequest_keeps {z s : State} {p1 : _} {p2 : _} {p3 : _} {p4 : _} (h : Keeps z s) : Keeps z (State.answerRequest s p1 p2 p3 p4) :=
  Keeps.ite (State.sendPtp_keeps (State.sendPtp_keeps h)) (Keeps.ite (State.sendPtp_keeps h) h)

theorem State.takePtp_keeps {z s : State} {p1 : _} {p2 : _} (h : Keeps z s) : Keeps z (State.takePtp s p1 p2) := by
  unfold State.takePtp
  extract_lets -merge -useContext +onlyGivenNames x1
  try clear_value x1
  refine Keeps.ite h ?_
  split
  · exact Keeps.ite (State.takeAnnounce_keeps h) h
  · exact Keeps.ite (State.takeOffset_keeps h) h
  · exact Keeps.ite h (State.setReg_keeps h)
  · exact Keeps.ite h (Keeps.foldl h fun _ h12 _ => Keeps.ite (State.send_keeps h12) h12)
  · exact Keeps.ite h (State.answerRequest_keeps h)

theorem execPtpMessage_keeps {z s : State} {p0 : _} {p1 : _} (h : Keeps z s) : KeepsR z (execPtpMessage p0 p1 s) :=
  KeepsR.next (State.takePtp_keeps h)

theorem State.loseAnnounce_keeps {z s : State} {p1 : _} (h : Keeps z s) : Keeps z (State.loseAnnounce s p1) := by
  unfold State.loseAnnounce
  extract_lets -merge -useContext +onlyGivenNames x1 x2
  try clear_value x1
  have h3 : Keeps z x2 := State.setPtpPort_keeps h
  clear_value x2
  exact State.setPortState_keeps h3

theorem execSecond_keeps {z s : State} (h : Keeps z s) : KeepsR z (execSecond s) := by
  unfold execSecond
  extract_lets -merge -useContext +onlyGivenNames x1
  try clear_value x1
  exact KeepsR.next (State.elapse_keeps h)

theorem execAcceptJump_keeps {z s : State} {p0 : _} {p1 : _} (h : Keeps z s) : KeepsR z (execAcceptJump p0 p1 s) :=
  KeepsR.next (State.gated_keeps h (fun _ h1 => Keeps.ite h1.same h1))

theorem State.sendSeq_keeps {z s : State} {p1 : _} {p2 : _} {p3 : _} (h : Keeps z s) : Keeps z (State.sendSeq s p1 p2 p3) := by
  unfold State.sendSeq
  extract_lets -merge -useContext +onlyGivenNames x1
  try clear_value x1
  extract_lets -merge -useContext +onlyGivenNames x2
  try clear_value x2
  exact State.sendPtp_keeps (State.setPtpPort_keeps h)

theorem State.sendSync_keeps {z s : State} {p1 : _} (h : Keeps z s) : Keeps z (State.sendSync s p1) := by
  unfold State.sendSync
  extract_lets -merge -useContext +onlyGivenNames x1
  try clear_value x1
  extract_lets -merge -useContext +onlyGivenNames x2
  try clear_value x2
  extract_lets -merge -useContext +onlyGivenNames x3
  have h4 : Keeps z x3 := State.sendSeq_keeps h
  clear_value x3
  exact Keeps.ite h4 (State.sendPtp_keeps h4)

theorem State.sendAnnounce_keeps {z s : State} {p1 : _} (h : Keeps z s) : Keeps z (State.sendAnnounce s p1) := by
  unfold State.sendAnnounce
  extract_lets -merge -useContext +onlyGivenNames x1
  try clear_value x1
  extract_lets -merge -useContext +onlyGivenNames x2
  try clear_value x2
  exact State.sendSeq_keeps h

theorem State.ownsTime_keeps {z s : State} {p1 : _} (h : Keeps z s) : Keeps z (State.ownsTime s p1) :=
  Keeps.ite (State.setTimState_keeps h) h

theorem execPtpPortTimer_keeps {z s : State} {p0 : _} {p1 : _} (h : Keeps z s) : KeepsR z (execPtpPortTimer p0 p1 s) := by
  unfold execPtpPortTimer
  extract_lets -merge -useContext +onlyGivenNames x1
  try clear_value x1
  extract_lets -merge -useContext +onlyGivenNames x2
  try clear_value x2
  refine KeepsR.ite (KeepsR.next h) ?_
  split
  · exact KeepsR.next (Keeps.ite (State.ownsTime_keeps (State.decidePorts_keeps (State.loseAnnounce_keeps h))) h)
  · exact KeepsR.next (Keeps.ite (State.ownsTime_keeps (State.setPortState_keeps h)) h)
  · exact KeepsR.next (Keeps.ite (State.sendSync_keeps h) h)
  · exact KeepsR.next (Keeps.ite (State.sendAnnounce_keeps h) h)
  · exact KeepsR.next (Keeps.ite (State.sendSeq_keeps h) h)
  · exact KeepsR.next (Keeps.ite (State.sendSeq_keeps h) h)

theorem execTimeNowRead_keeps {z s : State} {p0 : _} (h : Keeps z s) : KeepsR z (execTimeNowRead p0 s) :=
  KeepsR.next (State.gatedRead_keeps h (fun _ h1 => KeepsP.mk (State.setNum_keeps (State.setNum_keeps (State.setNum_keeps h1)))))

theorem execTimeStep_keeps {z s : State} {p0 : _} {p1 : _} (h : Keeps z s) : KeepsR z (execTimeStep p0 p1 s) := by
  unfold execTimeStep
  refine KeepsR.next (State.gated_keeps h (fun _ h1 => ?_))
  refine Keeps.ite ?_ h1
  extract_lets -merge -useContext +onlyGivenNames x2
  try clear_value x2
  exact Keeps.ite (State.setTimFlag_keeps h1) (KeepsP.fst (State.stepTime_keeps h1))

theorem State.enterHoldover_keeps {z s : State} (h : Keeps z s) : Keeps z (State.enterHoldover s) := by
  unfold State.enterHoldover
  extract_lets -merge -useContext +onlyGivenNames x1
  have h2 : Keeps z x1 := State.setTimFlag_keeps (State.freezeIncr_keeps h)
  clear_value x1
  exact h2.same

theorem execAnnounceTimeout_keeps {z s : State} {p0 : _} (h : Keeps z s) : KeepsR z (execAnnounceTimeout p0 s) := by
  unfold execAnnounceTimeout
  extract_lets -merge -useContext +onlyGivenNames x1
  try clear_value x1
  refine KeepsR.ite ?_ (KeepsR.next h)
  extract_lets -merge -useContext +onlyGivenNames x2
  have h3 : Keeps z x2 := State.loseAnnounce_keeps h
  clear_value x2
  exact KeepsR.next (State.decidePorts_keeps (Keeps.ite (State.enterHoldover_keeps h3) h3.same))

theorem execJumpConfirmed_keeps {z s : State} (h : Keeps z s) : KeepsR z (execJumpConfirmed s) := by
  unfold execJumpConfirmed
  split
  · exact KeepsR.ite (KeepsR.next (State.stepToMaster_keeps (State.elapse_keeps h))) (KeepsR.next h)
  · exact KeepsR.next h

theorem execSlewDone_keeps {z s : State} (h : Keeps z s) : KeepsR z (execSlewDone s) := by
  unfold execSlewDone
  refine KeepsR.ite (KeepsR.next h) ?_
  extract_lets -merge -useContext +onlyGivenNames x1
  try clear_value x1
  extract_lets -merge -useContext +onlyGivenNames x2
  have h3 : Keeps z x2 := State.elapse_keeps h
  clear_value x2
  extract_lets -merge -useContext +onlyGivenNames x4
  try clear_value x4
  exact KeepsR.next (State.setTimFlag_keeps (State.setIncr_keeps h3))

theorem execServoLocked_keeps {z s : State} (h : Keeps z s) : KeepsR z (execServoLocked s) := by
  unfold execServoLocked
  split
  · exact KeepsR.next h
  · refine KeepsR.ite (KeepsR.next h) ?_
    extract_lets -merge -useContext +onlyGivenNames x5
    have h6 : Keeps z x5 := State.elapse_keeps h
    clear_value x5
    extract_lets -merge -useContext +onlyGivenNames x7
    have h8 : Keeps z x7 := State.raise_keeps (State.setTimFlag_keeps (State.setTimState_keeps h6))
    clear_value x7
    exact KeepsR.next h8.same

theorem State.resetPart_keeps {z s : State} {p1 : _} {p2 : _} (h : Keeps z s) : Keeps z (State.resetPart s p1 p2) := by
  unfold State.resetPart
  extract_lets -merge -useContext +onlyGivenNames x1
  try clear_value x1
  extract_lets -merge -useContext +onlyGivenNames x2
  try clear_value x2
  extract_lets -merge -useContext +onlyGivenNames x3
  try clear_value x3
  extract_lets -merge -useContext +onlyGivenNames x4
  have h5 : Keeps z x4 := State.setFld_keeps (State.setNum_keeps (State.kept_keeps h))
  clear_value x4
  extract_lets -merge -useContext +onlyGivenNames x6
  have h7 : Keeps z x6 := State.setNum_keeps h5
  clear_value x6
  exact Keeps.ite h7 (State.raise_keeps h7)

theorem State.resetAfterYield_keeps {z s : State} {p1 : _} {p2 : _} (h : Keeps z s) : Keeps z (State.resetAfterYield s p1 p2) :=
  Keeps.ite h (Keeps.ite (State.resetPart_keeps h) (State.resetPart_keeps (State.elapse_keeps (State.yieldClaim_keeps h))))

theorem execDelayedSoftReset_keeps {z s : State} (h : Keeps z s) : KeepsR z (execDelayedSoftReset s) :=
  KeepsR.next (Keeps.ite (State.resetAfterYield_keeps (State.elapse_keeps h)) h)

theorem State.leaveRole_keeps {z s : State} (h : Keeps z s) : Keeps z (State.leaveRole s) := by
  unfold State.leaveRole
  extract_lets -merge -useContext +onlyGivenNames x1
  have h2 : Keeps z x1 := State.dropProof_keeps (State.endHandover_keeps h)
  clear_value x1
  exact State.setHinge_keeps h2

theorem State.selfRefresh_keeps {z s : State} {p1 : _} (h : Keeps z s) : Keeps z (State.selfRefresh s p1) :=
  Keeps.ite (State.raise_keeps (State.setFlag_keeps h)) h

theorem State.enterSafe_keeps {z s : State} (h : Keeps z s) : Keeps z (State.enterSafe s) := by
  unfold State.enterSafe
  refine Keeps.ite h ?_
  extract_lets -merge -useContext +onlyGivenNames x1
  have h2 : Keeps z x1 := State.storeLastGood_keeps (State.withdrawClaim_keeps h)
  clear_value x1
  extract_lets -merge -useContext +onlyGivenNames x3
  have h4 : Keeps z x3 := State.leaveRole_keeps (State.setMode_keeps h2)
  clear_value x3
  extract_lets -merge -useContext +onlyGivenNames x5
  have h6 : Keeps z x5 := State.cancelLathes_keeps (State.abandonInjection_keeps (State.discardAllPatches_keeps h4))
  clear_value x5
  extract_lets -merge -useContext +onlyGivenNames x7
  have h8 : Keeps z x7 := Keeps.foldl h6 fun _ h9 _ => Keeps.ite h9 (State.stopProgram_keeps h9)
  clear_value x7
  extract_lets -merge -useContext +onlyGivenNames x10
  have h11 : Keeps z x10 := State.selfRefresh_keeps (State.cleGate_keeps (State.gateAxes_keeps (State.gateTasks_keeps h8)))
  clear_value x10
  extract_lets -merge -useContext +onlyGivenNames x12
  have h13 : Keeps z x12 := Keeps.foldl h11 fun _ h14 _ => Keeps.ite (State.latchToSafe_keeps h14) h14
  clear_value x12
  exact State.tell_keeps (State.setFlag_keeps h13)

theorem State.decideChip_keeps {z s : State} {p1 : _} (h : Keeps z s) : Keeps z (State.decideChip s p1) := by
  unfold State.decideChip
  extract_lets -merge -useContext +onlyGivenNames x1 x2
  try clear_value x1
  have h3 : Keeps z x2 := h.same
  clear_value x2
  split
  · exact h3
  · refine Keeps.ite h3 ?_
    extract_lets -merge -useContext +onlyGivenNames x8
    try clear_value x8
    extract_lets -merge -useContext +onlyGivenNames x9
    have h10 : Keeps z x9 := Keeps.foldl h3 fun _ h11 _ => State.chipRecord_keeps h11
    clear_value x9
    exact Keeps.ite (State.resetAfterYield_keeps h10) (Keeps.ite (State.enterSafe_keeps (State.yieldClaim_keeps h10)) (State.enterSafe_keeps h10))

theorem State.chipEvent_keeps {z s : State} {p1 : _} {p2 : _} (h : Keeps z s) : Keeps z (State.chipEvent s p1 p2) := by
  unfold State.chipEvent
  extract_lets -merge -useContext +onlyGivenNames x1
  try clear_value x1
  extract_lets -merge -useContext +onlyGivenNames x2
  have h3 : Keeps z x2 := Keeps.ite (State.countEvent_keeps h) h
  clear_value x2
  exact State.decideChip_keeps h3

theorem execWdtKeeper_keeps {z s : State} (h : Keeps z s) : KeepsR z (execWdtKeeper s) :=
  KeepsR.next (State.chipEvent_keeps h)

theorem execBrownout_keeps {z s : State} (h : Keeps z s) : KeepsR z (execBrownout s) :=
  KeepsR.next (State.chipEvent_keeps h)

theorem State.enterStandby_keeps {z s : State} (h : Keeps z s) : Keeps z (State.enterStandby s) := by
  unfold State.enterStandby
  refine Keeps.ite h ?_
  extract_lets -merge -useContext +onlyGivenNames x1
  have h2 : Keeps z x1 := State.adpStandby_keeps (State.withdrawClaim_keeps h)
  clear_value x1
  extract_lets -merge -useContext +onlyGivenNames x3
  have h4 : Keeps z x3 := State.leaveRole_keeps (State.setMode_keeps h2)
  clear_value x3
  extract_lets -merge -useContext +onlyGivenNames x5
  have h6 : Keeps z x5 := State.cancelLathes_keeps (State.abandonInjection_keeps (State.discardAllPatches_keeps h4))
  clear_value x5
  extract_lets -merge -useContext +onlyGivenNames x7
  have h8 : Keeps z x7 := State.selfRefresh_keeps (State.cleGate_keeps (State.gateAxes_keeps (State.gateTasks_keeps h6)))
  clear_value x7
  exact State.tell_keeps h8

theorem execResetPin_keeps {z s : State} {p0 : _} (h : Keeps z s) : KeepsR z (execResetPin p0 s) :=
  KeepsR.next (Keeps.ite (State.resetPart_keeps h) h)

theorem execWdtWarden_keeps {z s : State} (h : Keeps z s) : KeepsR z (execWdtWarden s) :=
  KeepsR.next (State.chipEvent_keeps h)

theorem State.regionFails_keeps {z s : State} {p1 : _} {p2 : _} (h : Keeps z s) : Keeps z (State.regionFails s p1 p2) :=
  Keeps.ite (State.fence_keeps h) (State.chipEvent_keeps h)

theorem execTimingMarginFault_keeps {z s : State} {p0 : _} {p1 : _} (h : Keeps z s) : KeepsR z (execTimingMarginFault p0 p1 s) := by
  unfold execTimingMarginFault
  refine KeepsR.ite (KeepsR.next (State.regionFails_keeps h)) ?_
  extract_lets -merge -useContext +onlyGivenNames x1
  have h2 : Keeps z x1 := State.detected_keeps h
  clear_value x1
  extract_lets -merge -useContext +onlyGivenNames x3
  have h4 : ∀ w8, Keeps z w8 → ∀ w9, Keeps z (x3 w8 w9) := by
    intro y6 h5 a7
    unfold x3
    exact State.setFld_keeps h5
  clear_value x3
  exact KeepsR.next (Keeps.ite h2 (Keeps.ite (h4 _ h2 _) (Keeps.ite (h4 _ h2 _) h2)))

theorem execVaonFall_keeps {z s : State} (h : Keeps z s) : KeepsR z (execVaonFall s) := by
  unfold execVaonFall
  refine KeepsR.ite (KeepsR.next h) ?_
  extract_lets -merge -useContext +onlyGivenNames x1
  have h2 : Keeps z x1 := State.kept_keeps h
  clear_value x1
  extract_lets -merge -useContext +onlyGivenNames x3 x4
  try clear_value x3
  have h5 : Keeps z x4 := h2.same
  clear_value x4
  extract_lets -merge -useContext +onlyGivenNames x6 x7
  try clear_value x6
  have h8 : Keeps z x7 := State.setNum_keeps h5.same
  clear_value x7
  extract_lets -merge -useContext +onlyGivenNames x9
  have h10 : Keeps z x9 := State.setNum_keeps (State.setNum_keeps h8)
  clear_value x9
  extract_lets -merge -useContext +onlyGivenNames x11 x12
  try clear_value x11
  have h13 : Keeps z x12 := h10.same
  clear_value x12
  exact KeepsR.next (Keeps.ite h13 (State.loseBattery_keeps h13))

theorem execSafeReq_keeps {z s : State} {p0 : _} {p1 : _} (h : Keeps z s) : KeepsR z (execSafeReq p0 p1 s) :=
  KeepsR.next (State.gated_keeps h (fun _ h1 => Keeps.ite (State.enterSafe_keeps h1) h1))

theorem execWardenHealthTimeout_keeps {z s : State} (h : Keeps z s) : KeepsR z (execWardenHealthTimeout s) := by
  unfold execWardenHealthTimeout
  refine KeepsR.ite (KeepsR.next h) ?_
  extract_lets -merge -useContext +onlyGivenNames x1
  have h2 : Keeps z x1 := State.elapse_keeps h
  clear_value x1
  exact KeepsR.next (State.chipEvent_keeps (State.tell_keeps (State.setFlag_keeps h2)))

theorem execChipLevelEvent_keeps {z s : State} {p0 : _} (h : Keeps z s) : KeepsR z (execChipLevelEvent p0 s) :=
  KeepsR.next (Keeps.ite (State.decideChip_keeps h) (State.chipEvent_keeps h))

theorem execVcoreUnder_keeps {z s : State} (h : Keeps z s) : KeepsR z (execVcoreUnder s) :=
  KeepsR.next (State.chipEvent_keeps (State.raise_keeps h))

theorem execSoftReset_keeps {z s : State} {p0 : _} {p1 : _} (h : Keeps z s) : KeepsR z (execSoftReset p0 p1 s) :=
  KeepsR.next (State.gated_keeps h (fun _ h1 => State.resetAfterYield_keeps h1))

theorem execTempCrit_keeps {z s : State} (h : Keeps z s) : KeepsR z (execTempCrit s) :=
  KeepsR.next (State.chipEvent_keeps h)

theorem execClockMonitorFault_keeps {z s : State} {p0 : _} (h : Keeps z s) : KeepsR z (execClockMonitorFault p0 s) :=
  KeepsR.next (Keeps.ite (State.fence_keeps h) (State.chipEvent_keeps h))

theorem execPowerOnReset_keeps {z s : State} (h : Keeps z s) : KeepsR z (execPowerOnReset s) := by
  unfold execPowerOnReset
  refine KeepsR.ite (KeepsR.next h) ?_
  extract_lets -merge -useContext +onlyGivenNames x1
  have h2 : Keeps z x1 := State.resetPart_keeps h
  clear_value x1
  exact KeepsR.next h2.same

theorem State.childMisses_keeps {z s : State} {p1 : _} (h : Keeps z s) : Keeps z (State.childMisses s p1) := by
  unfold State.childMisses
  extract_lets -merge -useContext +onlyGivenNames x1
  try clear_value x1
  extract_lets -merge -useContext +onlyGivenNames x2
  have h3 : Keeps z x2 := State.blockEvent_keeps (State.bump_keeps h)
  clear_value x2
  extract_lets -merge -useContext +onlyGivenNames x4
  have h5 : Keeps z x4 := Keeps.ite (State.raise_keeps (State.setFld_keeps h3)) h3
  clear_value x4
  exact Keeps.ite (State.raise_keeps (State.setFld_keeps h5)) h5

theorem State.ageChild_keeps {z s : State} {p1 : _} (h : Keeps z s) : Keeps z (State.ageChild s p1) := by
  unfold State.ageChild
  refine Keeps.ite ?_ (State.childMisses_keeps h)
  extract_lets -merge -useContext +onlyGivenNames x1
  try clear_value x1
  extract_lets -merge -useContext +onlyGivenNames x2
  have h3 : Keeps z x2 := State.setFld_keeps (State.setFld_keeps h)
  clear_value x2
  exact Keeps.ite (State.raise_keeps h3) h3

theorem State.setFp_keeps {z s : State} {p1 : _} {p2 : _} (h : Keeps z s) : Keeps z (State.setFp s p1 p2) :=
  State.dmaWrite_keeps h

theorem State.keepValues_keeps {z s : State} {p1 : _} (h : Keeps z s) : Keeps z (State.keepValues s p1) := by
  unfold State.keepValues
  refine Keeps.ite (Keeps.ite (State.dmaWrite_keeps h) h) ?_
  split
  · exact Keeps.foldl h fun _ h3 _ => State.setFp_keeps h3
  · exact h

theorem State.closeIndex_keeps {z s : State} {p1 : _} (h : Keeps z s) : Keeps z (State.closeIndex s p1) := by
  unfold State.closeIndex
  split
  · exact Keeps.ite (State.setFp_keeps (State.dmaWrite_keeps h)) h

theorem State.closeDual_keeps {z s : State} {p1 : _} {p2 : _} {p3 : _} (h : Keeps z s) : KeepsP z (State.closeDual s p1 p2 p3) := by
  unfold State.closeDual
  refine KeepsP.ite (KeepsP.mk h) ?_
  extract_lets -merge -useContext +onlyGivenNames x1
  try clear_value x1
  extract_lets -merge -useContext +onlyGivenNames x2
  try clear_value x2
  extract_lets -merge -useContext +onlyGivenNames x3
  try clear_value x3
  extract_lets -merge -useContext +onlyGivenNames x4
  try clear_value x4
  extract_lets -merge -useContext +onlyGivenNames x5
  try clear_value x5
  exact KeepsP.mk (State.setFp_keeps h)

theorem State.closeDuals_keeps {z s : State} {p1 : _} {p2 : _} (h : Keeps z s) : KeepsP z (State.closeDuals s p1 p2) :=
  KeepsP.foldl (KeepsP.mk h) fun _ h1 _ => KeepsP.ite h1 (KeepsP.foldl h1 fun _ h2 _ => KeepsP.ite (State.closeDual_keeps (KeepsP.fst h2)) h2)

theorem State.closeLocal_keeps {z s : State} (h : Keeps z s) : KeepsP z (State.closeLocal s) := by
  unfold State.closeLocal
  extract_lets -merge -useContext +onlyGivenNames x1
  have h2 : Keeps z x1 := Keeps.foldl h fun _ h3 _ => State.ageChild_keeps h3
  clear_value x1
  extract_lets -merge -useContext +onlyGivenNames x4
  have h5 : Keeps z x4 := Keeps.foldl h2 fun _ h6 _ => State.keepValues_keeps h6
  clear_value x4
  extract_lets -merge -useContext +onlyGivenNames x7
  try clear_value x7
  extract_lets -merge -useContext +onlyGivenNames x8
  try clear_value x8
  extract_lets -merge -useContext +onlyGivenNames x9
  have h10 : Keeps z x9 := Keeps.foldl h5 fun _ h11 _ => State.closeIndex_keeps h11
  clear_value x9
  extract_lets -merge -useContext +onlyGivenNames x12
  have h13 : KeepsP z x12 := State.closeDuals_keeps h10
  clear_value x12
  exact KeepsP.mk (KeepsP.fst h13)

theorem State.showCounts_keeps {z s : State} {p1 : _} (h : Keeps z s) : Keeps z (State.showCounts s p1) :=
  State.setFld_keeps (State.setFld_keeps (State.setFld_keeps (State.setFld_keeps h)))

theorem State.judgeRound_keeps {z s : State} {p1 : _} (h : Keeps z s) : KeepsP z (State.judgeRound s p1) := by
  unfold State.judgeRound
  split
  · split
    · exact KeepsP.mk (State.setNum_keeps (State.setNum_keeps h))
  · exact KeepsP.mk h

theorem State.takeRho_keeps {z s : State} {p1 : _} (h : Keeps z s) : Keeps z (State.takeRho s p1) := by
  unfold State.takeRho
  extract_lets -merge -useContext +onlyGivenNames x1
  try clear_value x1
  refine Keeps.ite h ?_
  extract_lets -merge -useContext +onlyGivenNames x2
  try clear_value x2
  extract_lets -merge -useContext +onlyGivenNames x3
  have h4 : Keeps z x3 := Keeps.foldl h fun _ h5 _ => Keeps.ite h5 (Keeps.foldl h5 fun _ h6 _ => State.setFp_keeps h6)
  clear_value x3
  exact State.setNum_keeps h4

theorem State.balanceRho_keeps {z s : State} {p1 : _} {p2 : _} (h : Keeps z s) : Keeps z (State.balanceRho s p1 p2) := by
  unfold State.balanceRho
  extract_lets -merge -useContext +onlyGivenNames x1
  try clear_value x1
  extract_lets -merge -useContext +onlyGivenNames x2
  try clear_value x2
  extract_lets -merge -useContext +onlyGivenNames x3
  try clear_value x3
  extract_lets -merge -useContext +onlyGivenNames x4
  try clear_value x4
  exact State.takeRho_keeps h

end Sys2Proof.Machine
end

