-- ==== Sys2Proof/Laws/KeepsE.lean ====
section
/-! SUPPORT. What each operation keeps, part 5: each lemma follows its definition's form. -/
namespace Sys2Proof.Machine

theorem State.sendAreaZ_keeps {z s : State} {p1 : _} {p2 : _} {p3 : _} {p4 : _} {p5 : _} {p6 : _} {p7 : _} {p8 : _} (h : Keeps z s) : Keeps z (State.sendAreaZ s p1 p2 p3 p4 p5 p6 p7 p8) := by
  unfold State.sendAreaZ
  extract_lets -merge -useContext +onlyGivenNames x1
  try clear_value x1
  refine Keeps.foldl h fun _ h2 _ => ?_
  refine Keeps.foldl h2 fun _ h3 _ => ?_
  extract_lets -merge -useContext +onlyGivenNames x4
  try clear_value x4
  extract_lets -merge -useContext +onlyGivenNames x5
  try clear_value x5
  exact State.fedSend_keeps h3

theorem State.writePlan_keeps {z s : State} {p1 : _} {p2 : _} {p3 : _} {p4 : _} {p5 : _} {p6 : _} (h : Keeps z s) : Keeps z (State.writePlan s p1 p2 p3 p4 p5 p6) := by
  unfold State.writePlan
  extract_lets -merge -useContext +onlyGivenNames x1
  try clear_value x1
  extract_lets -merge -useContext +onlyGivenNames x2
  try clear_value x2
  extract_lets -merge -useContext +onlyGivenNames x3
  have h4 : Keeps z x3 := Keeps.ite (State.setFlag_keeps h) h
  clear_value x3
  extract_lets -merge -useContext +onlyGivenNames x5
  try clear_value x5
  extract_lets -merge -useContext +onlyGivenNames x6
  try clear_value x6
  extract_lets -merge -useContext +onlyGivenNames x7
  try clear_value x7
  extract_lets -merge -useContext +onlyGivenNames x8
  have h9 : Keeps z x8 := State.post_keeps h4
  clear_value x8
  extract_lets -merge -useContext +onlyGivenNames x10 x11
  try clear_value x10
  have h12 : Keeps z x11 := h9.same
  clear_value x11
  extract_lets -merge -useContext +onlyGivenNames x13
  have h14 : Keeps z x13 := State.raise_keeps (State.setFlag_keeps (State.setNum_keeps h12))
  clear_value x13
  extract_lets -merge -useContext +onlyGivenNames x15
  have h16 : Keeps z x15 := Keeps.ite (State.raise_keeps h14) h14
  clear_value x15
  exact State.offerEvent_keeps h16

theorem State.publish_keeps {z s : State} {p1 : _} {p2 : _} {p3 : _} {p4 : _} (h : Keeps z s) : Keeps z (State.publish s p1 p2 p3 p4) := by
  unfold State.publish
  extract_lets -merge -useContext +onlyGivenNames x1
  try clear_value x1
  extract_lets -merge -useContext +onlyGivenNames x2
  try clear_value x2
  extract_lets -merge -useContext +onlyGivenNames x3
  try clear_value x3
  extract_lets -merge -useContext +onlyGivenNames x4
  try clear_value x4
  extract_lets -merge -useContext +onlyGivenNames x5
  try clear_value x5
  extract_lets -merge -useContext +onlyGivenNames x6
  try clear_value x6
  extract_lets -merge -useContext +onlyGivenNames x7
  try clear_value x7
  extract_lets -merge -useContext +onlyGivenNames x8
  try clear_value x8
  extract_lets -merge -useContext +onlyGivenNames x9
  try clear_value x9
  extract_lets -merge -useContext +onlyGivenNames x10
  have h11 : Keeps z x10 := by
    unfold x10
    refine Keeps.foldl h fun _ h12 _ => ?_
    refine Keeps.ite ?_ ?_
    · extract_lets -merge -useContext +onlyGivenNames x13
      have h14 : Keeps z x13 := Keeps.foldl h12 fun _ h15 _ => State.fedSend_keeps h15
      clear_value x13
      exact State.sendAreaZ_keeps h14
    · extract_lets -merge -useContext +onlyGivenNames x16
      try clear_value x16
      exact Keeps.foldl h12 fun _ h17 _ => State.fedSend_keeps h17
  clear_value x10
  exact Keeps.ite (State.writePlan_keeps h11) h11

theorem State.closeTop_keeps {z s : State} (h : Keeps z s) : Keeps z (State.closeTop s) := by
  unfold State.closeTop
  split
  · rename_i y1 y2 e3
    have h4 : Keeps z y1 := KeepsP.of_eq e3 (State.closeLocal_keeps h)
    extract_lets -merge -useContext +onlyGivenNames x5
    try clear_value x5
    extract_lets -merge -useContext +onlyGivenNames x6
    have h7 : Keeps z x6 := State.showCounts_keeps h4
    clear_value x6
    extract_lets -merge -useContext +onlyGivenNames x8
    try clear_value x8
    extract_lets -merge -useContext +onlyGivenNames x9
    try clear_value x9
    extract_lets -merge -useContext +onlyGivenNames x10
    try clear_value x10
    extract_lets -merge -useContext +onlyGivenNames x11
    try clear_value x11
    extract_lets -merge -useContext +onlyGivenNames x12 x13
    try clear_value x12
    have h14 : Keeps z x13 := h7.same
    clear_value x13
    extract_lets -merge -useContext +onlyGivenNames x15
    try clear_value x15
    split
    · rename_i y16 y17 y18 y19 e20
      have h21 : Keeps z y16 := KeepsP.of_eq e20 (State.judgeRound_keeps h14)
      extract_lets -merge -useContext +onlyGivenNames x22
      have h23 : Keeps z x22 := Keeps.ite (State.balanceRho_keeps h21) h21
      clear_value x22
      extract_lets -merge -useContext +onlyGivenNames x24
      try clear_value x24
      extract_lets -merge -useContext +onlyGivenNames x25
      try clear_value x25
      extract_lets -merge -useContext +onlyGivenNames x26
      have h27 : Keeps z x26 := by
        unfold x26
        split
        · extract_lets -merge -useContext +onlyGivenNames x30
          have h31 : Keeps z x30 := State.publish_keeps h23
          clear_value x30
          exact h31.same
        · exact h23
      clear_value x26
      extract_lets -merge -useContext +onlyGivenNames x34
      have h35 : Keeps z x34 := State.setFlag_keeps h27
      clear_value x34
      extract_lets -merge -useContext +onlyGivenNames x36
      try clear_value x36
      extract_lets -merge -useContext +onlyGivenNames x37
      have h38 : ∀ w41, Keeps z w41 → Keeps z (x37 w41) := by
        intro y40 h39
        unfold x37
        exact h39.same
      clear_value x37
      exact Keeps.ite (h38 _ (State.publish_keeps h35)) (Keeps.ite (h38 _ (State.publish_keeps h35)) h35)

theorem State.elapseToAngle_keeps {z s : State} {p1 : _} (h : Keeps z s) : Keeps z (State.elapseToAngle s p1) := by
  unfold State.elapseToAngle
  refine Keeps.ite h ?_
  split
  · exact State.elapse_keeps h
  · exact h

theorem execFedClose_keeps {z s : State} (h : Keeps z s) : KeepsR z (execFedClose s) :=
  KeepsR.next (Keeps.ite (State.closeTop_keeps (State.elapseToAngle_keeps h)) h)

theorem State.fedMiss_keeps {z s : State} (h : Keeps z s) : Keeps z (State.fedMiss s) :=
  State.blockEvent_keeps (State.raise_keeps (State.bump_keeps h))

theorem State.receivePlan_keeps {z s : State} {p1 : _} (h : Keeps z s) : Keeps z (State.receivePlan s p1) := by
  unfold State.receivePlan
  refine Keeps.ite ?_ h
  split
  · rename_i y1 e2
    have h3 : Keeps z y1 := KeepsO.of_eq e2 (State.fedAccepts_keeps h)
    exact h3
  · split
    · rename_i y6 e7
      have h8 : Keeps z y6 := KeepsP.of_eq e7 (State.parentClaim_keeps h)
      exact h8
    · rename_i y9 e10
      have h11 : Keeps z y9 := KeepsP.of_eq e10 (State.parentClaim_keeps h)
      refine Keeps.ite h11 ?_
      extract_lets -merge -useContext +onlyGivenNames x12
      try clear_value x12
      extract_lets -merge -useContext +onlyGivenNames x13
      try clear_value x13
      exact State.writePlan_keeps h11

theorem execFedPlan_keeps {z s : State} {p0 : _} (h : Keeps z s) : KeepsR z (execFedPlan p0 s) :=
  KeepsR.next (State.receivePlan_keeps h)

theorem State.writeComponent_keeps {z s : State} {p1 : _} {p2 : _} {p3 : _} (h : Keeps z s) : Keeps z (State.writeComponent s p1 p2 p3) := by
  unfold State.writeComponent
  extract_lets -merge -useContext +onlyGivenNames x1
  try clear_value x1
  extract_lets -merge -useContext +onlyGivenNames x2
  try clear_value x2
  extract_lets -merge -useContext +onlyGivenNames x3
  try clear_value x3
  extract_lets -merge -useContext +onlyGivenNames x4
  try clear_value x4
  extract_lets -merge -useContext +onlyGivenNames x5
  try clear_value x5
  exact State.dmaWrite_keeps (State.dmaWrite_keeps h)

theorem State.takeDown_keeps {z s : State} {p1 : _} (h : Keeps z s) : Keeps z (State.takeDown s p1) := by
  unfold State.takeDown
  extract_lets -merge -useContext +onlyGivenNames x1
  try clear_value x1
  extract_lets -merge -useContext +onlyGivenNames x2
  try clear_value x2
  extract_lets -merge -useContext +onlyGivenNames x3
  have h4 : Keeps z x3 := State.setNum_keeps (State.seeRound_keeps h)
  clear_value x3
  extract_lets -merge -useContext +onlyGivenNames x5
  have h6 : Keeps z x5 := State.setFlag_keeps h4
  clear_value x5
  extract_lets -merge -useContext +onlyGivenNames x7
  have h8 : Keeps z x7 := State.raise_keeps h6
  clear_value x7
  refine Keeps.ite (State.fedMiss_keeps (State.setFlag_keeps h8)) ?_
  extract_lets -merge -useContext +onlyGivenNames x9
  have h10 : Keeps z x9 := State.setFlag_keeps (State.setFlag_keeps h8)
  clear_value x9
  extract_lets -merge -useContext +onlyGivenNames x11
  try clear_value x11
  extract_lets -merge -useContext +onlyGivenNames x12
  try clear_value x12
  extract_lets -merge -useContext +onlyGivenNames x13 x14
  try clear_value x13
  have h15 : Keeps z x14 := h10.same
  clear_value x14
  extract_lets -merge -useContext +onlyGivenNames x16
  try clear_value x16
  extract_lets -merge -useContext +onlyGivenNames x17
  have h18 : Keeps z x17 := Keeps.foldl h15 fun _ h19 _ => State.writeComponent_keeps h19
  clear_value x17
  extract_lets -merge -useContext +onlyGivenNames x20
  try clear_value x20
  extract_lets -merge -useContext +onlyGivenNames x21
  try clear_value x21
  extract_lets -merge -useContext +onlyGivenNames x22
  try clear_value x22
  extract_lets -merge -useContext +onlyGivenNames x23
  try clear_value x23
  split
  · rename_i y24 y25 e26
    have h27 : Keeps z y24 := KeepsP.of_eq e26 (State.submitDesc_keeps h18)
    exact h27
  · rename_i y28 e29
    have h30 : Keeps z y28 := KeepsP.of_eq e29 (State.submitDesc_keeps h18)
    extract_lets -merge -useContext +onlyGivenNames x31
    try clear_value x31
    refine State.fedMiss_keeps ?_
    extract_lets -merge -useContext +onlyGivenNames x32
    have h33 : Keeps z x32 := State.setFlag_keeps h30
    clear_value x32
    exact h33.same

theorem State.receiveDown_keeps {z s : State} {p1 : _} (h : Keeps z s) : Keeps z (State.receiveDown s p1) := by
  unfold State.receiveDown
  refine Keeps.ite h ?_
  split
  · rename_i y1 e2
    have h3 : Keeps z y1 := KeepsO.of_eq e2 (State.fedAccepts_keeps h)
    exact h3
  · split
    · rename_i y6 e7
      have h8 : Keeps z y6 := KeepsP.of_eq e7 (State.parentClaim_keeps h)
      exact State.takeDown_keeps h8
    · rename_i y9 e10
      have h11 : Keeps z y9 := KeepsP.of_eq e10 (State.parentClaim_keeps h)
      exact h11

theorem execFedDown_keeps {z s : State} {p0 : _} (h : Keeps z s) : KeepsR z (execFedDown p0 s) :=
  KeepsR.next (Keeps.ite (State.receiveDown_keeps h) h)

theorem State.receiveAreaUp_keeps {z s : State} {p1 : _} (h : Keeps z s) : Keeps z (State.receiveAreaUp s p1) := by
  unfold State.receiveAreaUp
  refine State.fromChild_keeps h (fun _ h1 _ => ?_)
  extract_lets -merge -useContext +onlyGivenNames x2
  try clear_value x2
  extract_lets -merge -useContext +onlyGivenNames x3 x4
  try clear_value x3
  have h5 : Keeps z x4 := h1.same
  clear_value x4
  refine Keeps.ite ?_ ?_
  · refine Keeps.ite h5 ?_
    extract_lets -merge -useContext +onlyGivenNames x6
    have h7 : Keeps z x6 := State.dmaWrite_keeps h5
    clear_value x6
    exact h7.same
  · extract_lets -merge -useContext +onlyGivenNames x8
    try clear_value x8
    extract_lets -merge -useContext +onlyGivenNames x9
    try clear_value x9
    extract_lets -merge -useContext +onlyGivenNames x10
    try clear_value x10
    extract_lets -merge -useContext +onlyGivenNames x11
    try clear_value x11
    exact h5.same

theorem State.forwardPlans_keeps {z s : State} {p1 : _} {p2 : _} (h : Keeps z s) : Keeps z (State.forwardPlans s p1 p2) := by
  unfold State.forwardPlans
  refine Keeps.foldl h fun _ h1 _ => ?_
  extract_lets -merge -useContext +onlyGivenNames x2
  try clear_value x2
  exact Keeps.foldl h1 fun _ h3 _ => State.fedSend_keeps h3

theorem State.fragmentsOf_keeps {z s : State} {p1 : _} (h : Keeps z s) : Keeps z (State.fragmentsOf s p1) := by
  unfold State.fragmentsOf
  extract_lets -merge -useContext +onlyGivenNames x1
  try clear_value x1
  exact Keeps.ite h h.same

theorem State.noteFragment_keeps {z s : State} {p1 : _} (h : Keeps z s) : Keeps z (State.noteFragment s p1) :=
  h.same

theorem State.takeFragment_keeps {z s : State} {p1 : _} (h : Keeps z s) : KeepsP z (State.takeFragment s p1) := by
  unfold State.takeFragment
  extract_lets -merge -useContext +onlyGivenNames x1
  have h2 : Keeps z x1 := by
    unfold x1
    refine Keeps.foldl h fun _ h3 _ => ?_
    extract_lets -merge -useContext +onlyGivenNames x4
    try clear_value x4
    exact Keeps.ite (State.dmaWrite_keeps (State.dmaWrite_keeps h3)) h3
  clear_value x1
  extract_lets -merge -useContext +onlyGivenNames x5
  have h6 : Keeps z x5 := State.noteFragment_keeps h2
  clear_value x5
  exact KeepsP.mk h6

theorem State.receiveAreaPlan_keeps {z s : State} {p1 : _} (h : Keeps z s) : Keeps z (State.receiveAreaPlan s p1) := by
  unfold State.receiveAreaPlan
  refine Keeps.ite ?_ h
  split
  · rename_i y1 e2
    have h3 : Keeps z y1 := KeepsO.of_eq e2 (State.fedAccepts_keeps h)
    exact h3
  · split
    · rename_i y6 e7
      have h8 : Keeps z y6 := KeepsP.of_eq e7 (State.parentClaim_keeps h)
      exact h8
    · rename_i y9 e10
      have h11 : Keeps z y9 := KeepsP.of_eq e10 (State.parentClaim_keeps h)
      extract_lets -merge -useContext +onlyGivenNames x12
      have h13 : Keeps z x12 := State.fragmentsOf_keeps h11
      clear_value x12
      extract_lets -merge -useContext +onlyGivenNames x14 x15 x16 x17
      have h18 : Keeps z x14 := State.noteFragment_keeps h13
      clear_value x14
      try clear_value x15
      have h19 : Keeps z x16 := h18.same
      clear_value x16
      have h20 : KeepsP z x17 := KeepsP.ite (KeepsP.mk h19) (State.takeFragment_keeps h13)
      clear_value x17
      refine Keeps.ite (KeepsP.fst h20) ?_
      extract_lets -merge -useContext +onlyGivenNames x21
      have h22 : Keeps z x21 := KeepsP.fst h20
      clear_value x21
      extract_lets -merge -useContext +onlyGivenNames x23
      try clear_value x23
      extract_lets -merge -useContext +onlyGivenNames x24 x25
      try clear_value x24
      have h26 : Keeps z x25 := h22.same
      clear_value x25
      extract_lets -merge -useContext +onlyGivenNames x27
      have h28 : Keeps z x27 := State.forwardPlans_keeps h26
      clear_value x27
      exact Keeps.ite (State.writePlan_keeps h28) h28

theorem execAreaPlan_keeps {z s : State} {p0 : _} (h : Keeps z s) : KeepsR z (execAreaPlan p0 s) :=
  KeepsR.next (State.receiveAreaPlan_keeps h)

theorem execFedClear_keeps {z s : State} {p0 : _} {p1 : _} (h : Keeps z s) : KeepsR z (execFedClear p0 p1 s) :=
  KeepsR.next (State.gated_keeps h (fun _ h1 => Keeps.ite (Keeps.foldl h1 fun _ h2 _ => State.setNum_keeps h2) h1))

theorem State.resumeRound_keeps {z s : State} {p1 : _} (h : Keeps z s) : Keeps z (State.resumeRound s p1) := by
  unfold State.resumeRound
  refine Keeps.ite ?_ (Keeps.ite (State.setFlag_keeps h) h)
  refine State.raise_keeps ?_
  extract_lets -merge -useContext +onlyGivenNames x1
  have h2 : Keeps z x1 := State.setFlag_keeps (State.setFlag_keeps h)
  clear_value x1
  exact h2.same

theorem State.sendDown_keeps {z s : State} {p1 : _} {p2 : _} {p3 : _} (h : Keeps z s) : Keeps z (State.sendDown s p1 p2 p3) := by
  unfold State.sendDown
  extract_lets -merge -useContext +onlyGivenNames x1
  try clear_value x1
  exact Keeps.foldl h fun _ h2 _ => State.fedSend_keeps h2

theorem State.closeArea_keeps {z s : State} (h : Keeps z s) : Keeps z (State.closeArea s) := by
  unfold State.closeArea
  extract_lets -merge -useContext +onlyGivenNames x1
  try clear_value x1
  split
  · rename_i y2 y3 e4
    have h5 : Keeps z y2 := KeepsP.of_eq e4 (State.closeLocal_keeps h)
    extract_lets -merge -useContext +onlyGivenNames x6
    try clear_value x6
    extract_lets -merge -useContext +onlyGivenNames x7
    have h8 : Keeps z x7 := State.showCounts_keeps h5
    clear_value x7
    extract_lets -merge -useContext +onlyGivenNames x9
    try clear_value x9
    extract_lets -merge -useContext +onlyGivenNames x10
    try clear_value x10
    extract_lets -merge -useContext +onlyGivenNames x11
    try clear_value x11
    extract_lets -merge -useContext +onlyGivenNames x12
    try clear_value x12
    extract_lets -merge -useContext +onlyGivenNames x13
    try clear_value x13
    extract_lets -merge -useContext +onlyGivenNames x14
    have h15 : Keeps z x14 := by
      unfold x14
      refine Keeps.foldl h8 fun _ h16 _ => ?_
      extract_lets -merge -useContext +onlyGivenNames x17
      have h18 : Keeps z x17 := by
        unfold x17
        split
        · exact State.fedSend_keeps h16
        · exact State.fedSend_keeps h16
      clear_value x17
      refine Keeps.foldl h18 fun _ h21 _ => ?_
      extract_lets -merge -useContext +onlyGivenNames x22
      try clear_value x22
      extract_lets -merge -useContext +onlyGivenNames x23
      try clear_value x23
      exact State.fedSend_keeps h21
    clear_value x14
    extract_lets -merge -useContext +onlyGivenNames x24
    try clear_value x24
    exact h15.same

theorem State.completeDuals_keeps {z s : State} (h : Keeps z s) : Keeps z (State.completeDuals s) := by
  unfold State.completeDuals
  split
  · extract_lets -merge -useContext +onlyGivenNames x4
    try clear_value x4
    extract_lets -merge -useContext +onlyGivenNames x5
    try clear_value x5
    split
    · rename_i y6 y7 e8
      have h9 : Keeps z y6 := KeepsP.of_eq e8 (State.closeDuals_keeps h)
      extract_lets -merge -useContext +onlyGivenNames x10
      try clear_value x10
      exact h9.same
  · exact h.same

theorem execFedUp_keeps {z s : State} {p0 : _} (h : Keeps z s) : KeepsR z (execFedUp p0 s) :=
  KeepsR.next (Keeps.ite (State.receiveUp_keeps h) h)

theorem State.deliverInside_keeps {z s : State} (h : Keeps z s) : Keeps z (State.deliverInside s) :=
  Keeps.foldl h.same fun _ h1 _ => Keeps.ite h1 (State.takeDown_keeps h1)

theorem execPlanExpired_keeps {z s : State} (h : Keeps z s) : KeepsR z (execPlanExpired s) := by
  unfold execPlanExpired
  split
  · refine KeepsR.ite ?_ (KeepsR.next h)
    extract_lets -merge -useContext +onlyGivenNames x3
    have h4 : Keeps z x3 := State.elapseTo_keeps h
    clear_value x3
    extract_lets -merge -useContext +onlyGivenNames x5
    try clear_value x5
    extract_lets -merge -useContext +onlyGivenNames x6
    try clear_value x6
    extract_lets -merge -useContext +onlyGivenNames x7
    have h8 : Keeps z x7 := State.post_keeps h4
    clear_value x7
    exact KeepsR.next (State.offerEvent_keeps (State.raiseAll_keeps h8.same))
  · exact KeepsR.next h

theorem execAreaUp_keeps {z s : State} {p0 : _} (h : Keeps z s) : KeepsR z (execAreaUp p0 s) :=
  KeepsR.next (Keeps.ite (State.receiveAreaUp_keeps h) h)

theorem State.openRound_keeps {z s : State} {p1 : _} {p2 : _} {p3 : _} (h : Keeps z s) : Keeps z (State.openRound s p1 p2 p3) :=
  h.same

theorem State.startRound_keeps {z s : State} {p1 : _} (h : Keeps z s) : Keeps z (State.startRound s p1) := by
  unfold State.startRound
  extract_lets -merge -useContext +onlyGivenNames x1
  try clear_value x1
  extract_lets -merge -useContext +onlyGivenNames x2
  try clear_value x2
  extract_lets -merge -useContext +onlyGivenNames x3
  try clear_value x3
  extract_lets -merge -useContext +onlyGivenNames x4
  try clear_value x4
  extract_lets -merge -useContext +onlyGivenNames x5
  try clear_value x5
  extract_lets -merge -useContext +onlyGivenNames x6
  try clear_value x6
  extract_lets -merge -useContext +onlyGivenNames x7 x8
  try clear_value x7
  have h9 : Keeps z x8 := Keeps.ite h.same h
  clear_value x8
  extract_lets -merge -useContext +onlyGivenNames x10
  have h11 : Keeps z x10 := State.setNum_keeps (State.resumeRound_keeps h9)
  clear_value x10
  extract_lets -merge -useContext +onlyGivenNames x12
  try clear_value x12
  extract_lets -merge -useContext +onlyGivenNames x13
  have h14 : Keeps z x13 := State.setFlag_keeps (State.setFlag_keeps (State.setFld_keeps h11))
  clear_value x13
  extract_lets -merge -useContext +onlyGivenNames x15
  try clear_value x15
  extract_lets -merge -useContext +onlyGivenNames x16
  have h17 : Keeps z x16 := State.fedSend_keeps h14
  clear_value x16
  extract_lets -merge -useContext +onlyGivenNames x18
  have h19 : Keeps z x18 := State.openRound_keeps h17
  clear_value x18
  refine Keeps.ite h19 ?_
  extract_lets -merge -useContext +onlyGivenNames x20
  have h21 : Keeps z x20 := State.raise_keeps h19
  clear_value x20
  extract_lets -merge -useContext +onlyGivenNames x22
  have h23 : Keeps z x22 := Keeps.foldl h21 fun _ h24 _ => Keeps.ite (State.sendAreaZ_keeps h24) (State.sendDown_keeps h24)
  clear_value x22
  exact State.deliverInside_keeps h23

theorem execRoundStart_keeps {z s : State} (h : Keeps z s) : KeepsR z (execRoundStart s) := by
  unfold execRoundStart
  refine KeepsR.ite ?_ (KeepsR.next h)
  split
  · exact KeepsR.next h
  · rename_i y3 y4 e5
    have h6 : Keeps z y3 := KeepsOP.of_eq e5 (State.firing_keeps h)
    exact KeepsR.next (State.startRound_keeps h6)

theorem execAreaClose_keeps {z s : State} (h : Keeps z s) : KeepsR z (execAreaClose s) :=
  KeepsR.next (Keeps.ite (State.closeArea_keeps (State.elapseToAngle_keeps h)) h)

theorem State.areaRound_keeps {z s : State} {p1 : _} (h : Keeps z s) : Keeps z (State.areaRound s p1) := by
  unfold State.areaRound
  extract_lets -merge -useContext +onlyGivenNames x1
  have h2 : Keeps z x1 := State.takeRho_keeps (State.completeDuals_keeps h)
  clear_value x1
  extract_lets -merge -useContext +onlyGivenNames x3
  have h4 : Keeps z x3 := State.seeRound_keeps (State.resumeRound_keeps h2)
  clear_value x3
  extract_lets -merge -useContext +onlyGivenNames x5
  have h6 : Keeps z x5 := State.openRound_keeps h4
  clear_value x5
  extract_lets -merge -useContext +onlyGivenNames x7 x8
  try clear_value x7
  have h9 : Keeps z x8 := h6.same
  clear_value x8
  extract_lets -merge -useContext +onlyGivenNames x10
  have h11 : Keeps z x10 := State.setFlag_keeps h9
  clear_value x10
  exact State.deliverInside_keeps (Keeps.foldl (State.raise_keeps h11) fun _ h12 _ => State.sendDown_keeps h12)

theorem State.receiveAreaDown_keeps {z s : State} {p1 : _} (h : Keeps z s) : Keeps z (State.receiveAreaDown s p1) := by
  unfold State.receiveAreaDown
  refine Keeps.ite ?_ h
  split
  · rename_i y1 e2
    have h3 : Keeps z y1 := KeepsO.of_eq e2 (State.fedAccepts_keeps h)
    exact h3
  · split
    · rename_i y6 e7
      have h8 : Keeps z y6 := KeepsP.of_eq e7 (State.parentClaim_keeps h)
      exact h8
    · rename_i y9 e10
      have h11 : Keeps z y9 := KeepsP.of_eq e10 (State.parentClaim_keeps h)
      split
      · rename_i y12 e13
        have h14 : Keeps z y12 := KeepsP.of_eq e13 (State.takeFragment_keeps (State.fragmentsOf_keeps h11))
        exact State.areaRound_keeps h14
      · rename_i y15 e16
        have h17 : Keeps z y15 := KeepsP.of_eq e16 (State.takeFragment_keeps (State.fragmentsOf_keeps h11))
        exact h17

theorem execAreaDown_keeps {z s : State} {p0 : _} (h : Keeps z s) : KeepsR z (execAreaDown p0 s) :=
  KeepsR.next (State.receiveAreaDown_keeps h)

theorem State.revise_keeps {z s : State} {p1 : _} {p2 : _} (h : Keeps z s) : Keeps z (State.revise s p1 p2) := by
  unfold State.revise
  extract_lets -merge -useContext +onlyGivenNames x1
  try clear_value x1
  extract_lets -merge -useContext +onlyGivenNames x2
  try clear_value x2
  refine Keeps.ite h ?_
  extract_lets -merge -useContext +onlyGivenNames x3
  try clear_value x3
  extract_lets -merge -useContext +onlyGivenNames x4
  try clear_value x4
  extract_lets -merge -useContext +onlyGivenNames x5
  have h6 : Keeps z x5 := State.dmaWrite_keeps h
  clear_value x5
  exact State.setNum_keeps h6.same

theorem State.writeTracks_keeps {z s : State} {p1 : _} {p2 : _} (h : Keeps z s) : Keeps z (State.writeTracks s p1 p2) := by
  unfold State.writeTracks
  extract_lets -merge -useContext +onlyGivenNames x1
  try clear_value x1
  exact State.dmaWrite_keeps h

theorem State.reportFrame_keeps {z s : State} {p1 : _} {p2 : _} (h : Keeps z s) : Keeps z (State.reportFrame s p1 p2) := by
  unfold State.reportFrame
  extract_lets -merge -useContext +onlyGivenNames x1
  have h2 : Keeps z x1 := Keeps.ite (State.raise_keeps h) h
  clear_value x1
  extract_lets -merge -useContext +onlyGivenNames x3
  have h4 : Keeps z x3 := Keeps.ite (State.raise_keeps h2) h2
  clear_value x3
  extract_lets -merge -useContext +onlyGivenNames x5
  have h6 : Keeps z x5 := Keeps.ite (State.blockEvent_keeps h4) h4
  clear_value x5
  extract_lets -merge -useContext +onlyGivenNames x7
  have h8 : Keeps z x7 := Keeps.ite (State.raise_keeps h6) h6
  clear_value x7
  exact Keeps.ite (State.raise_keeps h8) h8

theorem State.recordAge_keeps {z s : State} {p1 : _} {p2 : _} (h : Keeps z s) : KeepsP z (State.recordAge s p1 p2) := by
  unfold State.recordAge
  extract_lets -merge -useContext +onlyGivenNames x1
  try clear_value x1
  split
  · exact KeepsP.mk h
  · split
    · exact KeepsP.mk h
    · split
      · rename_i y11 y12 e13
        have h14 : Keeps z y11 := KeepsP.of_eq e13 (State.free_keeps h)
        exact KeepsP.mk h14

theorem State.recordBody_keeps {z s : State} {p1 : _} {p2 : _} {p3 : _} {p4 : _} {p5 : _} (h : Keeps z s) : KeepsP z (State.recordBody s p1 p2 p3 p4 p5) := by
  unfold State.recordBody
  split
  · rename_i y1 y2 e3
    have h4 : Keeps z y1 := KeepsP.of_eq e3 (State.recordAge_keeps h)
    split
    · rename_i y5 y6 e7
      have h8 : Keeps z y5 := KeepsP.of_eq e7 (KeepsP.ite (freeBytes_keeps h4) (KeepsP.mk h4))
      extract_lets -merge -useContext +onlyGivenNames x9
      try clear_value x9
      extract_lets -merge -useContext +onlyGivenNames x10
      try clear_value x10
      extract_lets -merge -useContext +onlyGivenNames x11
      try clear_value x11
      extract_lets -merge -useContext +onlyGivenNames x12
      try clear_value x12
      exact KeepsP.mk h8

theorem State.useSamples_keeps {z s : State} {p1 : _} {p2 : _} (h : Keeps z s) : Keeps z (State.useSamples s p1 p2) := by
  unfold State.useSamples
  refine Keeps.foldl h fun _ h1 _ => ?_
  extract_lets -merge -useContext +onlyGivenNames x2
  try clear_value x2
  exact State.setStream_keeps h1

theorem State.showGraph_keeps {z s : State} {p1 : _} {p2 : _} {p3 : _} {p4 : _} (h : Keeps z s) : Keeps z (State.showGraph s p1 p2 p3 p4) := by
  unfold State.showGraph
  extract_lets -merge -useContext +onlyGivenNames x1
  try clear_value x1
  exact State.setReg_keeps h

theorem State.sendRecord_keeps {z s : State} {p1 : _} {p2 : _} (h : Keeps z s) : Keeps z (State.sendRecord s p1 p2) := by
  unfold State.sendRecord
  refine Keeps.ite ?_ h
  extract_lets -merge -useContext +onlyGivenNames x1
  try clear_value x1
  exact State.milOriginate_keeps h

theorem State.issue_keeps {z s : State} {p1 : _} {p2 : _} {p3 : _} (h : Keeps z s) : Keeps z (State.issue s p1 p2 p3) := by
  unfold State.issue
  extract_lets -merge -useContext +onlyGivenNames x1
  try clear_value x1
  extract_lets -merge -useContext +onlyGivenNames x2
  try clear_value x2
  extract_lets -merge -useContext +onlyGivenNames x3
  have h4 : Keeps z x3 := State.observeGate_keeps (State.reportFrame_keeps h)
  clear_value x3
  extract_lets -merge -useContext +onlyGivenNames x5
  have h6 : Keeps z x5 := Keeps.ite (State.writeTracks_keeps h4) h4
  clear_value x5
  split
  · rename_i y7 y8 y9 e10
    have h11 : Keeps z y7 := KeepsP.of_eq e10 (State.recordBody_keeps h6)
    extract_lets -merge -useContext +onlyGivenNames x12
    try clear_value x12
    extract_lets -merge -useContext +onlyGivenNames x13
    try clear_value x13
    extract_lets -merge -useContext +onlyGivenNames x14
    have h15 : Keeps z x14 := State.useSamples_keeps (State.setGraph_keeps h11)
    clear_value x14
    extract_lets -merge -useContext +onlyGivenNames x16
    have h17 : Keeps z x16 := State.showGraph_keeps h15
    clear_value x16
    extract_lets -merge -useContext +onlyGivenNames x18
    have h19 : Keeps z x18 := State.post_keeps h17
    clear_value x18
    extract_lets -merge -useContext +onlyGivenNames x20
    have h21 : Keeps z x20 := State.sendRecord_keeps (State.revise_keeps h19)
    clear_value x20
    extract_lets -merge -useContext +onlyGivenNames x22
    have h23 : Keeps z x22 := State.offerEvent_keeps h21
    clear_value x22
    exact Keeps.ite (State.raise_keeps h23) h23

theorem execWaitExpired_keeps {z s : State} {p0 : _} (h : Keeps z s) : KeepsR z (execWaitExpired p0 s) := by
  unfold execWaitExpired
  extract_lets -merge -useContext +onlyGivenNames x1
  try clear_value x1
  split
  · exact KeepsR.next h
  · refine KeepsR.ite ?_ (KeepsR.next h)
    extract_lets -merge -useContext +onlyGivenNames x7
    try clear_value x7
    exact KeepsR.next (State.issue_keeps (State.elapse_keeps h))

theorem State.openFrame_keeps {z s : State} {p1 : _} (h : Keeps z s) : Keeps z (State.openFrame s p1) := by
  unfold State.openFrame
  extract_lets -merge -useContext +onlyGivenNames x1
  try clear_value x1
  extract_lets -merge -useContext +onlyGivenNames x2
  try clear_value x2
  extract_lets -merge -useContext +onlyGivenNames x3
  try clear_value x3
  extract_lets -merge -useContext +onlyGivenNames x4
  try clear_value x4
  extract_lets -merge -useContext +onlyGivenNames x5
  try clear_value x5
  exact State.setGraph_keeps h

theorem execFusionEngineHalt_keeps {z s : State} {p0 : _} (h : Keeps z s) : KeepsR z (execFusionEngineHalt p0 s) := by
  unfold execFusionEngineHalt
  extract_lets -merge -useContext +onlyGivenNames x1
  try clear_value x1
  refine KeepsR.ite ?_ (KeepsR.next h)
  extract_lets -merge -useContext +onlyGivenNames x2
  have h3 : Keeps z x2 := State.setFlag_keeps h
  clear_value x2
  extract_lets -merge -useContext +onlyGivenNames x4
  try clear_value x4
  extract_lets -merge -useContext +onlyGivenNames x5
  try clear_value x5
  extract_lets -merge -useContext +onlyGivenNames x6
  have h7 : Keeps z x6 := Keeps.foldl h3 fun _ h8 _ => State.setFld_keeps h8
  clear_value x6
  extract_lets -merge -useContext +onlyGivenNames x9
  have h10 : Keeps z x9 := Keeps.ite (State.raise_keeps h7) h7
  clear_value x9
  split
  · rename_i y11 y12 e13
    have h14 : Keeps z y11 := KeepsP.of_eq e13 (State.detect_keeps h10)
    exact KeepsR.next (Keeps.ite h14 (State.fence_keeps h14))

theorem execFusClear_keeps {z s : State} {p0 : _} {p1 : _} (h : Keeps z s) : KeepsR z (execFusClear p0 p1 s) :=
  KeepsR.next (State.gated_keeps h (fun _ h1 => Keeps.ite (Keeps.foldl (State.setNum_keeps (State.setNum_keeps h1)) fun _ h2 _ => State.setNum_keeps h2) h1))

theorem execFrameFire_keeps {z s : State} {p0 : _} {p1 : _} (h : Keeps z s) : KeepsR z (execFrameFire p0 p1 s) := by
  unfold execFrameFire
  split
  · exact KeepsR.next h
  · rename_i y3 y4 e5
    have h6 : Keeps z y3 := KeepsOP.of_eq e5 (State.firing_keeps h)
    refine KeepsR.ite ?_ (KeepsR.next h6)
    extract_lets -merge -useContext +onlyGivenNames x7
    have h8 : Keeps z x7 := Keeps.foldl h6 fun _ h9 _ => State.openFrame_keeps h9
    clear_value x7
    exact KeepsR.next (Keeps.foldl h8 fun _ h10 _ => State.showStream_keeps h10)

theorem State.replayFrames_keeps {z s : State} {p1 : _} {p2 : _} {p3 : _} {p4 : _} (h : Keeps z s) : KeepsP z (State.replayFrames s p1 p2 p3 p4) := by
  induction p2 generalizing s p1 p3 p4 with
  | nil =>
    rw [State.replayFrames]
    exact KeepsP.mk h
  | cons y r ih =>
    rw [State.replayFrames]
    split
    · rename_i y1 y2 y3 e4
      have h5 : Keeps z y1 := KeepsP.of_eq e4 (State.recordBody_keeps h)
      extract_lets -merge -useContext +onlyGivenNames x6
      try clear_value x6
      extract_lets -merge -useContext +onlyGivenNames x7
      have h8 : Keeps z x7 := State.showGraph_keeps (State.useSamples_keeps h5)
      clear_value x7
      extract_lets -merge -useContext +onlyGivenNames x9
      have h10 : Keeps z x9 := State.raise_keeps (State.sendRecord_keeps (State.revise_keeps (State.reportFrame_keeps h8)))
      clear_value x9
      exact ih h10

theorem State.push_keeps {z s : State} {p1 : _} {p2 : _} (h : Keeps z s) : KeepsE z (State.push s p1 p2) := by
  unfold State.push
  extract_lets -merge -useContext +onlyGivenNames x1
  try clear_value x1
  extract_lets -merge -useContext +onlyGivenNames x2
  try clear_value x2
  extract_lets -merge -useContext +onlyGivenNames x3
  try clear_value x3
  refine KeepsE.ite KeepsE.error ?_
  refine KeepsE.ite (KeepsE.ok (State.setNum_keeps h)) ?_
  refine KeepsE.ite (KeepsE.ok (State.setNum_keeps h)) ?_
  extract_lets -merge -useContext +onlyGivenNames x4
  try clear_value x4
  exact KeepsE.ok (State.setNum_keeps (State.takeSample_keeps h))

theorem execSampleIntake_keeps {z s : State} {p0 : _} {p1 : _} {p2 : _} (h : Keeps z s) : KeepsR z (execSampleIntake p0 p1 p2 s) := by
  unfold execSampleIntake
  refine KeepsR.next ?_
  split
  · exact State.fusCan_keeps h
  · exact State.fusEth_keeps h
  · exact State.fusMilio_keeps h
  · exact State.fusMet_keeps h

theorem execFusPush_keeps {z s : State} {p0 : _} {p1 : _} (h : Keeps z s) : KeepsR z (execFusPush p0 p1 s) :=
  KeepsR.next (State.gatedOr_keeps h (fun _ h1 => KeepsE.ite (State.push_keeps h1) (KeepsE.ok h1)))

theorem execReplay_keeps {z s : State} {p0 : _} (h : Keeps z s) : KeepsR z (execReplay p0 s) := by
  unfold execReplay
  extract_lets -merge -useContext +onlyGivenNames x1
  try clear_value x1
  extract_lets -merge -useContext +onlyGivenNames x2
  try clear_value x2
  split
  · exact KeepsR.next h
  · refine KeepsR.ite (KeepsR.next h) ?_
    extract_lets -merge -useContext +onlyGivenNames x7
    try clear_value x7
    split
    · exact KeepsR.next (State.setFlag_keeps (State.setGraph_keeps h))
    · extract_lets -merge -useContext +onlyGivenNames x12
      have h13 : Keeps z x12 := State.setGraph_keeps h
      clear_value x12
      split
      · rename_i y14 y15 y16 e17
        have h18 : Keeps z y14 := KeepsP.of_eq e17 (State.replayFrames_keeps h13)
        exact KeepsR.next (State.setGraph_keeps h18)

theorem execStreamDropped_keeps {z s : State} {p0 : _} (h : Keeps z s) : KeepsR z (execStreamDropped p0 s) := by
  unfold execStreamDropped
  extract_lets -merge -useContext +onlyGivenNames x1
  try clear_value x1
  refine KeepsR.ite ?_ (KeepsR.next h)
  extract_lets -merge -useContext +onlyGivenNames x2
  have h3 : Keeps z x2 := State.elapse_keeps h
  clear_value x2
  exact KeepsR.next (State.raise_keeps (State.clearModel_keeps (State.setFlag_keeps h3)))

theorem execFrameFuse_keeps {z s : State} {p0 : _} (h : Keeps z s) : KeepsR z (execFrameFuse p0 s) := by
  unfold execFrameFuse
  extract_lets -merge -useContext +onlyGivenNames x1
  try clear_value x1
  split
  · exact KeepsR.next h
  · exact KeepsR.ite (KeepsR.next (State.issue_keeps h)) (KeepsR.next h)

theorem State.retain_keeps {z s : State} (h : Keeps z s) : Keeps z (State.retain s) := by
  unfold State.retain
  extract_lets -merge -useContext +onlyGivenNames x1
  try clear_value x1
  extract_lets -merge -useContext +onlyGivenNames x2
  try clear_value x2
  exact h.same

theorem State.writeJournal_keeps {z s : State} {kind slot index : Nat} (h : Keeps z s) : Keeps z (State.writeJournal s kind slot index) := by
  unfold State.writeJournal
  extract_lets a o q b d s1 v m s2 s3
  have h1 : Keeps z s1 := State.dmaWrite_keeps h
  have h2 : Keeps z s2 := h1.same
  have h3 : Keeps z s3 := State.setNum_keeps h2
  exact Keeps.ite h3 (State.raise_keeps h3)

theorem State.writeBoundary_keeps {z s : State} {p1 : _} (h : Keeps z s) : Keeps z (State.writeBoundary s p1) := by
  unfold State.writeBoundary
  extract_lets -merge -useContext +onlyGivenNames x1
  try clear_value x1
  extract_lets -merge -useContext +onlyGivenNames x2
  have h3 : Keeps z x2 := State.writeJournal_keeps h
  clear_value x2
  exact State.raise_keeps h3.same

theorem State.metSend_keeps {z s : State} {p1 : _} {p2 : _} (h : Keeps z s) : Keeps z (State.metSend s p1 p2) := by
  unfold State.metSend
  extract_lets -merge -useContext +onlyGivenNames x1
  try clear_value x1
  exact Keeps.ite (State.milOriginate_keeps h) h

theorem State.metRecord_keeps {z s : State} {p1 : _} {p2 : _} {p3 : _} (h : Keeps z s) : Keeps z (State.metRecord s p1 p2 p3) :=
  State.post_keeps h

theorem State.billingRecord_keeps {z s : State} {p1 : _} (h : Keeps z s) : Keeps z (State.billingRecord s p1) := by
  unfold State.billingRecord
  extract_lets -merge -useContext +onlyGivenNames x1
  try clear_value x1
  extract_lets -merge -useContext +onlyGivenNames x2
  try clear_value x2
  exact State.raise_keeps (State.offerEvent_keeps (State.metSend_keeps (State.metRecord_keeps h)))

theorem State.restoreInterval_keeps {z s : State} {p1 : _} {p2 : _} {p3 : _} {p4 : _} {p5 : _} (h : Keeps z s) : Keeps z (State.restoreInterval s p1 p2 p3 p4 p5) := by
  unfold State.restoreInterval
  refine Keeps.ite ?_ h.same
  extract_lets -merge -useContext +onlyGivenNames x1 x2
  try clear_value x1
  try clear_value x2
  extract_lets -merge -useContext +onlyGivenNames x3 x4
  try clear_value x3
  have h5 : Keeps z x4 := h.same
  clear_value x4
  extract_lets -merge -useContext +onlyGivenNames x6
  have h7 : Keeps z x6 := State.writeBoundary_keeps (State.billingRecord_keeps h5)
  clear_value x6
  exact h7.same

theorem State.closeInterval_keeps {z s : State} (h : Keeps z s) : Keeps z (State.closeInterval s) := by
  unfold State.closeInterval
  extract_lets -merge -useContext +onlyGivenNames x1
  try clear_value x1
  extract_lets -merge -useContext +onlyGivenNames x2
  have h3 : Keeps z x2 := State.writeBoundary_keeps (State.billingRecord_keeps h)
  clear_value x2
  exact State.setFld_keeps h3.same

theorem State.emergencyAgain_keeps {z s : State} (h : Keeps z s) : Keeps z (State.emergencyAgain s) := by
  unfold State.emergencyAgain
  split
  · refine Keeps.ite ?_ h
    extract_lets -merge -useContext +onlyGivenNames x4
    try clear_value x4
    extract_lets -merge -useContext +onlyGivenNames x5
    have h6 : Keeps z x5 := State.elapse_keeps h
    clear_value x5
    extract_lets -merge -useContext +onlyGivenNames x7
    try clear_value x7
    extract_lets -merge -useContext +onlyGivenNames x8
    have h9 : Keeps z x8 := State.writeJournal_keeps h6
    clear_value x8
    exact h9.same
  · exact h

theorem State.tamperRecord_keeps {z s : State} {p1 : _} {p2 : _} {p3 : _} {p4 : _} (h : Keeps z s) : Keeps z (State.tamperRecord s p1 p2 p3 p4) := by
  unfold State.tamperRecord
  extract_lets -merge -useContext +onlyGivenNames x1
  try clear_value x1
  extract_lets -merge -useContext +onlyGivenNames x2
  try clear_value x2
  extract_lets -merge -useContext +onlyGivenNames x3
  try clear_value x3
  extract_lets -merge -useContext +onlyGivenNames x4
  try clear_value x4
  extract_lets -merge -useContext +onlyGivenNames x5
  try clear_value x5
  exact State.raise_keeps (State.metSend_keeps (State.metRecord_keeps h))

theorem State.batteryEnd_keeps {z s : State} {p1 : _} {p2 : _} (h : Keeps z s) : Keeps z (State.batteryEnd s p1 p2) := by
  unfold State.batteryEnd
  extract_lets -merge -useContext +onlyGivenNames x1 x2
  try clear_value x1
  have h3 : Keeps z x2 := Keeps.ite h h.same
  clear_value x2
  extract_lets -merge -useContext +onlyGivenNames x4
  try clear_value x4
  extract_lets -merge -useContext +onlyGivenNames x5 x6 x7
  try clear_value x5
  try clear_value x6
  have h8 : Keeps z x7 := by
    unfold x7
    refine Keeps.ite (Keeps.ite (State.setFlag_keeps (State.setFlag_keeps (State.setFlag_keeps (State.tamperRecord_keeps h3)))) h3) ?_
    split
    · exact State.setFlag_keeps (State.tamperRecord_keeps h3)
    · exact h3
  clear_value x7
  extract_lets -merge -useContext +onlyGivenNames x13
  try clear_value x13
  extract_lets -merge -useContext +onlyGivenNames x14 x15 x16
  try clear_value x14
  try clear_value x15
  have h17 : Keeps z x16 := h8.same
  clear_value x16
  exact Keeps.ite (State.setFlag_keeps (State.setFlag_keeps h17)) h17

theorem State.restoreUnmatched_keeps {z s : State} {p1 : _} {p2 : _} {p3 : _} (h : Keeps z s) : Keeps z (State.restoreUnmatched s p1 p2 p3) := by
  unfold State.restoreUnmatched
  extract_lets -merge -useContext +onlyGivenNames x1
  have h2 : Keeps z x1 := Keeps.foldl h fun _ h3 _ => State.setEnergyReg_keeps h3
  clear_value x1
  extract_lets -merge -useContext +onlyGivenNames x4
  try clear_value x4
  extract_lets -merge -useContext +onlyGivenNames x5
  have h6 : Keeps z x5 := State.setNum_keeps (State.setFlag_keeps h2)
  clear_value x5
  extract_lets -merge -useContext +onlyGivenNames x7 x8
  try clear_value x7
  have h9 : Keeps z x8 := h6.same
  clear_value x8
  extract_lets -merge -useContext +onlyGivenNames x10
  have h11 : Keeps z x10 := Keeps.ite (State.raise_keeps (State.setNum_keeps (State.setNum_keeps h9))) h9
  clear_value x10
  exact State.batteryEnd_keeps h11

theorem State.loadRegisters_keeps {z s : State} {p1 : _} (h : Keeps z s) : Keeps z (State.loadRegisters s p1) := by
  unfold State.loadRegisters
  extract_lets -merge -useContext +onlyGivenNames x1
  have h2 : Keeps z x1 := Keeps.foldl h fun _ h3 _ => State.setEnergyReg_keeps h3
  clear_value x1
  extract_lets -merge -useContext +onlyGivenNames x4
  have h5 : Keeps z x4 := Keeps.foldl h2 fun _ h6 _ => State.setMetOut_keeps h6
  clear_value x4
  extract_lets -merge -useContext +onlyGivenNames x7
  try clear_value x7
  exact h5.same

theorem State.metPowerGood_keeps {z s : State} (h : Keeps z s) : Keeps z (State.metPowerGood s) :=
  Keeps.ite (State.setFlag_keeps h.same) h

theorem State.journalHeads_keeps {z s : State} {p1 : _} (h : Keeps z s) : Keeps z (State.journalHeads s p1) := by
  unfold State.journalHeads
  extract_lets -merge -useContext +onlyGivenNames x1
  try clear_value x1
  extract_lets -merge -useContext +onlyGivenNames x2
  try clear_value x2
  exact h.same

theorem State.mergeRetention_keeps {z s : State} (h : Keeps z s) : Keeps z (State.mergeRetention s) := by
  unfold State.mergeRetention
  extract_lets -merge -useContext +onlyGivenNames x1
  try clear_value x1
  extract_lets -merge -useContext +onlyGivenNames x2
  have h3 : Keeps z x2 := Keeps.foldl h fun _ h4 _ => State.setEnergyReg_keeps h4
  clear_value x2
  extract_lets -merge -useContext +onlyGivenNames x5
  have h6 : Keeps z x5 := Keeps.foldl h3 fun _ h7 _ => State.setMetOut_keeps h7
  clear_value x5
  exact h6.same

theorem State.writeRotating_keeps {z s : State} {p1 : _} (h : Keeps z s) : Keeps z (State.writeRotating s p1) := by
  unfold State.writeRotating
  extract_lets -merge -useContext +onlyGivenNames x1
  try clear_value x1
  extract_lets -merge -useContext +onlyGivenNames x2
  have h3 : Keeps z x2 := State.writeJournal_keeps h
  clear_value x2
  extract_lets -merge -useContext +onlyGivenNames x4 x5
  try clear_value x4
  have h6 : Keeps z x5 := h3.same
  clear_value x5
  exact Keeps.ite (State.raise_keeps h6) h6

theorem State.restoreMatched_keeps {z s : State} {p1 : _} {p2 : _} {p3 : _} {p4 : _} (h : Keeps z s) : Keeps z (State.restoreMatched s p1 p2 p3 p4) := by
  unfold State.restoreMatched
  extract_lets -merge -useContext +onlyGivenNames x1
  have h2 : Keeps z x1 := State.loadRegisters_keeps h
  clear_value x1
  extract_lets -merge -useContext +onlyGivenNames x3
  try clear_value x3
  extract_lets -merge -useContext +onlyGivenNames x4
  try clear_value x4
  extract_lets -merge -useContext +onlyGivenNames x5
  try clear_value x5
  extract_lets -merge -useContext +onlyGivenNames x6
  have h7 : Keeps z x6 := Keeps.ite (State.mergeRetention_keeps h2) h2
  clear_value x6
  extract_lets -merge -useContext +onlyGivenNames x8
  try clear_value x8
  extract_lets -merge -useContext +onlyGivenNames x9
  try clear_value x9
  extract_lets -merge -useContext +onlyGivenNames x10
  try clear_value x10
  extract_lets -merge -useContext +onlyGivenNames x11
  try clear_value x11
  extract_lets -merge -useContext +onlyGivenNames x12
  have h13 : Keeps z x12 := State.setNum_keeps h7
  clear_value x12
  extract_lets -merge -useContext +onlyGivenNames x14
  have h15 : Keeps z x14 := State.setNum_keeps (State.setNum_keeps h13)
  clear_value x14
  extract_lets -merge -useContext +onlyGivenNames x16
  have h17 : Keeps z x16 := Keeps.ite (State.raise_keeps h15) h15
  clear_value x16
  extract_lets -merge -useContext +onlyGivenNames x18
  have h19 : Keeps z x18 := State.batteryEnd_keeps (State.restoreInterval_keeps h17)
  clear_value x18
  exact Keeps.ite (State.writeRotating_keeps h19) h19.same

theorem State.metRestore_keeps {z s : State} (h : Keeps z s) : Keeps z (State.metRestore s) := by
  unfold State.metRestore
  refine Keeps.ite h ?_
  extract_lets -merge -useContext +onlyGivenNames x1
  try clear_value x1
  split
  · extract_lets -merge -useContext +onlyGivenNames x4
    have h5 : Keeps z x4 := State.journalHeads_keeps h
    clear_value x4
    exact State.restoreUnmatched_keeps h5
  · extract_lets -merge -useContext +onlyGivenNames x9
    have h10 : Keeps z x9 := State.setNum_keeps (State.journalHeads_keeps h)
    clear_value x9
    extract_lets -merge -useContext +onlyGivenNames x11
    try clear_value x11
    split
    · exact State.restoreUnmatched_keeps h10
    · exact State.restoreMatched_keeps h10

theorem State.retainAgain_keeps {z s : State} (h : Keeps z s) : Keeps z (State.retainAgain s) :=
  Keeps.ite (State.retain_keeps h) h

theorem State.abandonPeriodic_keeps {z s : State} (h : Keeps z s) : Keeps z (State.abandonPeriodic s) := by
  unfold State.abandonPeriodic
  split
  · refine Keeps.ite ?_ h
    extract_lets -merge -useContext +onlyGivenNames x5
    have h6 : Keeps z x5 := State.tearWrite_keeps h
    clear_value x5
    exact h6.same
  · exact h

theorem State.metPowerFail_keeps {z s : State} (h : Keeps z s) : Keeps z (State.metPowerFail s) := by
  unfold State.metPowerFail
  refine Keeps.ite h ?_
  extract_lets -merge -useContext +onlyGivenNames x1
  try clear_value x1
  extract_lets -merge -useContext +onlyGivenNames x2
  have h3 : Keeps z x2 := State.setFlag_keeps (State.setFlag_keeps h)
  clear_value x2
  refine Keeps.ite (State.retain_keeps h3) ?_
  extract_lets -merge -useContext +onlyGivenNames x4
  try clear_value x4
  extract_lets -merge -useContext +onlyGivenNames x5
  have h6 : Keeps z x5 := State.writeRotating_keeps (State.abandonPeriodic_keeps h3)
  clear_value x5
  exact h6.same

theorem execWaveformSend_keeps {z s : State} {p0 : _} {p1 : _} (h : Keeps z s) : KeepsR z (execWaveformSend p0 p1 s) := by
  unfold execWaveformSend
  refine KeepsR.ite (KeepsR.next h) ?_
  extract_lets -merge -useContext +onlyGivenNames x1
  try clear_value x1
  extract_lets -merge -useContext +onlyGivenNames x2
  try clear_value x2
  extract_lets -merge -useContext +onlyGivenNames x3
  try clear_value x3
  extract_lets -merge -useContext +onlyGivenNames x4
  have h5 : Keeps z x4 := by
    unfold x4
    refine Keeps.ite h ?_
    refine Keeps.foldl h fun _ h6 _ => ?_
    extract_lets -merge -useContext +onlyGivenNames x7
    try clear_value x7
    extract_lets -merge -useContext +onlyGivenNames x8
    try clear_value x8
    exact State.setNum_keeps (State.dmaWrite_keeps h6)
  clear_value x4
  extract_lets -merge -useContext +onlyGivenNames x9
  try clear_value x9
  refine KeepsR.next (Keeps.foldl h5 fun _ h10 _ => ?_)
  extract_lets -merge -useContext +onlyGivenNames x11
  try clear_value x11
  exact State.milOriginate_keeps h10

theorem State.addCycle_keeps {z s : State} {p1 : _} {p2 : _} {p3 : _} {p4 : _} (h : Keeps z s) : Keeps z (State.addCycle s p1 p2 p3 p4) := by
  unfold State.addCycle
  extract_lets -merge -useContext +onlyGivenNames x1
  try clear_value x1
  extract_lets -merge -useContext +onlyGivenNames x2
  have h3 : ∀ w8, Keeps z w8 → ∀ w9, ∀ w10, Keeps z (x2 w8 w9 w10) := by
    intro y5 h4 a6 a7
    unfold x2
    exact State.contribute_keeps h4
  clear_value x2
  extract_lets -merge -useContext +onlyGivenNames x11
  try clear_value x11
  extract_lets -merge -useContext +onlyGivenNames x12
  try clear_value x12
  extract_lets -merge -useContext +onlyGivenNames x13
  have h14 : Keeps z x13 := Keeps.ite (Keeps.ite (h3 _ (h3 _ h _ _) _ _) (Keeps.ite (h3 _ (h3 _ h _ _) _ _) (h3 _ (h3 _ h _ _) _ _))) h
  clear_value x13
  extract_lets -merge -useContext +onlyGivenNames x15
  have h16 : Keeps z x15 := Keeps.ite (State.markInterval_keeps h14) h14
  clear_value x15
  extract_lets -merge -useContext +onlyGivenNames x17
  try clear_value x17
  extract_lets -merge -useContext +onlyGivenNames x18
  have h19 : Keeps z x18 := Keeps.ite (h3 _ h16 _ _) h16
  clear_value x18
  exact Keeps.ite (h3 _ h19 _ _) h19

theorem State.watchTamper_keeps {z s : State} {p1 : _} {p2 : _} {p3 : _} (h : Keeps z s) : Keeps z (State.watchTamper s p1 p2 p3) := by
  unfold State.watchTamper
  extract_lets -merge -useContext +onlyGivenNames x1
  try clear_value x1
  extract_lets -merge -useContext +onlyGivenNames x2 x3 x4 x5 x6 x7 x8
  try clear_value x2
  try clear_value x3
  try clear_value x4
  have h9 : Keeps z x5 := Keeps.ite h (State.bump_keeps (State.setFlag_keeps (State.setFlag_keeps h.same)))
  clear_value x5
  try clear_value x6
  have h10 : Keeps z x7 := h9.same
  clear_value x7
  have h11 : Keeps z x8 := Keeps.ite h (State.markInterval_keeps h10)
  clear_value x8
  split
  · refine Keeps.ite ?_ h11
    extract_lets -merge -useContext +onlyGivenNames x14
    have h15 : Keeps z x14 := State.tamperRecord_keeps h11
    clear_value x14
    exact State.setFlag_keeps (State.setFlag_keeps h15.same)
  · exact h11

theorem State.closeCycle_keeps {z s : State} {p1 : _} {p2 : _} {p3 : _} (h : Keeps z s) : Keeps z (State.closeCycle s p1 p2 p3) := by
  unfold State.closeCycle
  extract_lets -merge -useContext +onlyGivenNames x1
  try clear_value x1
  extract_lets -merge -useContext +onlyGivenNames x2
  try clear_value x2
  extract_lets -merge -useContext +onlyGivenNames x3
  try clear_value x3
  extract_lets -merge -useContext +onlyGivenNames x4
  try clear_value x4
  extract_lets -merge -useContext +onlyGivenNames x5
  try clear_value x5
  extract_lets -merge -useContext +onlyGivenNames x6
  try clear_value x6
  extract_lets -merge -useContext +onlyGivenNames x7
  try clear_value x7
  extract_lets -merge -useContext +onlyGivenNames x8
  try clear_value x8
  extract_lets -merge -useContext +onlyGivenNames x9
  have h10 : Keeps z x9 := Keeps.foldl h fun _ h11 _ => State.addCycle_keeps h11
  clear_value x9
  extract_lets -merge -useContext +onlyGivenNames x12
  have h13 : Keeps z x12 := Keeps.ite h10 (State.markInterval_keeps h10)
  clear_value x12
  extract_lets -merge -useContext +onlyGivenNames x14
  try clear_value x14
  extract_lets -merge -useContext +onlyGivenNames x15
  try clear_value x15
  extract_lets -merge -useContext +onlyGivenNames x16
  try clear_value x16
  extract_lets -merge -useContext +onlyGivenNames x17
  have h18 : Keeps z x17 := State.setMetSystem_keeps h13
  clear_value x17
  exact Keeps.ite (State.watchTamper_keeps h18) h18

end Sys2Proof.Machine
end

