-- ==== Sys2Proof/Laws/KeepsF.lean ====
section
/-! SUPPORT. What each operation keeps, part 6: each lemma follows its definition's form. -/
namespace Sys2Proof.Machine

theorem execIntervalWrite_keeps {z s : State} {p0 : _} {p1 : _} (h : Keeps z s) : KeepsR z (execIntervalWrite p0 p1 s) :=
  KeepsR.next (State.gated_keeps h (fun _ h1 => Keeps.ite (State.setReg_keeps h1) h1))

theorem State.takeWaveform_keeps {z s : State} {p1 : _} {p2 : _} {p3 : _} (h : Keeps z s) : Keeps z (State.takeWaveform s p1 p2 p3) := by
  unfold State.takeWaveform
  refine Keeps.ite h ?_
  split
  · exact h
  · extract_lets -merge -useContext +onlyGivenNames x5
    try clear_value x5
    extract_lets -merge -useContext +onlyGivenNames x6
    try clear_value x6
    exact h.same

theorem execPowerFailClear_keeps {z s : State} (h : Keeps z s) : KeepsR z (execPowerFailClear s) :=
  KeepsR.ite (KeepsR.next (State.metPowerGood_keeps (State.raise_keeps (State.setFlag_keeps h)))) (KeepsR.next h)

theorem State.writeHarmonics_keeps {z s : State} {p1 : _} {p2 : _} {p3 : _} (h : Keeps z s) : Keeps z (State.writeHarmonics s p1 p2 p3) := by
  unfold State.writeHarmonics
  extract_lets -merge -useContext +onlyGivenNames x1
  try clear_value x1
  refine Keeps.foldl h fun _ h2 _ => ?_
  extract_lets -merge -useContext +onlyGivenNames x3
  try clear_value x3
  extract_lets -merge -useContext +onlyGivenNames x4
  try clear_value x4
  exact State.dmaWrite_keeps h2

theorem State.setMetHeat_keeps {z s : State} {p1 : _} {p2 : _} (h : Keeps z s) : Keeps z (State.setMetHeat s p1 p2) :=
  h.same

theorem State.setMetPulse_keeps {z s : State} {p1 : _} {p2 : _} (h : Keeps z s) : Keeps z (State.setMetPulse s p1 p2) :=
  h.same

theorem execWaveformPacket_keeps {z s : State} {p0 : _} {p1 : _} {p2 : _} (h : Keeps z s) : KeepsR z (execWaveformPacket p0 p1 p2 s) :=
  KeepsR.next (State.takeWaveform_keeps h)

theorem execSave_keeps {z s : State} {p0 : _} {p1 : _} (h : Keeps z s) : KeepsR z (execSave p0 p1 s) :=
  KeepsR.next (State.gated_keeps h (fun _ h1 => Keeps.ite (State.writeRotating_keeps h1) h1))

theorem State.issueBlock_keeps {z s : State} {p1 : _} {p2 : _} {p3 : _} {p4 : _} {p5 : _} {p6 : _} {p7 : _} {p8 : _} {p9 : _} {p10 : _} (h : Keeps z s) : Keeps z (State.issueBlock s p1 p2 p3 p4 p5 p6 p7 p8 p9 p10) := by
  unfold State.issueBlock
  extract_lets -merge -useContext +onlyGivenNames x1
  have h2 : Keeps z x1 := Keeps.foldl h fun _ h3 _ => State.setNum_keeps h3
  clear_value x1
  extract_lets -merge -useContext +onlyGivenNames x4
  have h5 : Keeps z x4 := State.raise_keeps (State.metRecord_keeps h2)
  clear_value x4
  extract_lets -merge -useContext +onlyGivenNames x6
  have h7 : Keeps z x6 := State.offerEvent_keeps h5
  clear_value x6
  exact Keeps.foldl h7 fun _ h8 _ => State.fusMet_keeps h8

theorem State.endBlock_keeps {z s : State} {p1 : _} {p2 : _} {p3 : _} (h : Keeps z s) : Keeps z (State.endBlock s p1 p2 p3) := by
  unfold State.endBlock
  extract_lets -merge -useContext +onlyGivenNames x1
  try clear_value x1
  extract_lets -merge -useContext +onlyGivenNames x2
  try clear_value x2
  extract_lets -merge -useContext +onlyGivenNames x3
  try clear_value x3
  extract_lets -merge -useContext +onlyGivenNames x4
  try clear_value x4
  extract_lets -merge -useContext +onlyGivenNames x5
  try clear_value x5
  extract_lets -merge -useContext +onlyGivenNames x6
  try clear_value x6
  extract_lets -merge -useContext +onlyGivenNames x7
  try clear_value x7
  extract_lets -merge -useContext +onlyGivenNames x8
  try clear_value x8
  extract_lets -merge -useContext +onlyGivenNames x9
  have h10 : Keeps z x9 := State.writeHarmonics_keeps h
  clear_value x9
  extract_lets -merge -useContext +onlyGivenNames x11
  have h12 : Keeps z x11 := State.issueBlock_keeps h10
  clear_value x11
  exact State.setMetSystem_keeps h12

theorem State.countCycle_keeps {z s : State} {p1 : _} {p2 : _} (h : Keeps z s) : Keeps z (State.countCycle s p1 p2) := by
  unfold State.countCycle
  extract_lets -merge -useContext +onlyGivenNames x1
  have h2 : Keeps z x1 := Keeps.ite (State.markInterval_keeps h) h
  clear_value x1
  extract_lets -merge -useContext +onlyGivenNames x3
  have h4 : Keeps z x3 := Keeps.ite (State.markInterval_keeps h2) h2
  clear_value x3
  extract_lets -merge -useContext +onlyGivenNames x5
  try clear_value x5
  extract_lets -merge -useContext +onlyGivenNames x6
  try clear_value x6
  extract_lets -merge -useContext +onlyGivenNames x7
  have h8 : Keeps z x7 := State.setMetSystem_keeps h4
  clear_value x7
  extract_lets -merge -useContext +onlyGivenNames x9
  have h10 : Keeps z x9 := Keeps.ite (State.inInterval_keeps h8) h8
  clear_value x9
  extract_lets -merge -useContext +onlyGivenNames x11 x12
  try clear_value x11
  have h13 : Keeps z x12 := Keeps.ite h10.same h10
  clear_value x12
  extract_lets -merge -useContext +onlyGivenNames x14
  have h15 : Keeps z x14 := Keeps.ite (State.endBlock_keeps h13) h13
  clear_value x14
  exact State.retainAgain_keeps h15

theorem State.heatMeter_keeps {z s : State} {p1 : _} {p2 : _} (h : Keeps z s) : Keeps z (State.heatMeter s p1 p2) := by
  unfold State.heatMeter
  extract_lets -merge -useContext +onlyGivenNames x1
  try clear_value x1
  refine Keeps.ite h ?_
  extract_lets -merge -useContext +onlyGivenNames x2
  try clear_value x2
  extract_lets -merge -useContext +onlyGivenNames x3
  try clear_value x3
  extract_lets -merge -useContext +onlyGivenNames x4
  try clear_value x4
  extract_lets -merge -useContext +onlyGivenNames x5
  try clear_value x5
  extract_lets -merge -useContext +onlyGivenNames x6
  try clear_value x6
  extract_lets -merge -useContext +onlyGivenNames x7
  try clear_value x7
  extract_lets -merge -useContext +onlyGivenNames x8
  try clear_value x8
  extract_lets -merge -useContext +onlyGivenNames x9
  try clear_value x9
  extract_lets -merge -useContext +onlyGivenNames x10
  have h11 : ∀ w16, Keeps z w16 → ∀ w17, ∀ w18, Keeps z (x10 w16 w17 w18) := by
    intro y13 h12 a14 a15
    unfold x10
    exact State.contribute_keeps h12
  clear_value x10
  extract_lets -merge -useContext +onlyGivenNames x19
  try clear_value x19
  extract_lets -merge -useContext +onlyGivenNames x20
  try clear_value x20
  extract_lets -merge -useContext +onlyGivenNames x21
  have h22 : Keeps z x21 := Keeps.ite (h11 _ h _ _) h
  clear_value x21
  extract_lets -merge -useContext +onlyGivenNames x23
  have h24 : Keeps z x23 := Keeps.ite (Keeps.ite (h11 _ (h11 _ h22 _ _) _ _) (Keeps.ite (h11 _ (h11 _ h22 _ _) _ _) (h11 _ (h11 _ h22 _ _) _ _))) h22
  clear_value x23
  extract_lets -merge -useContext +onlyGivenNames x25
  have h26 : Keeps z x25 := State.setMetHeat_keeps h24
  clear_value x25
  refine Keeps.ite ?_ h26
  extract_lets -merge -useContext +onlyGivenNames x27
  have h28 : Keeps z x27 := State.markInterval_keeps h26
  clear_value x27
  exact Keeps.ite h28 (State.raise_keeps h28)

theorem State.pulseOnly_keeps {z s : State} {p1 : _} (h : Keeps z s) : Keeps z (State.pulseOnly s p1) := by
  unfold State.pulseOnly
  extract_lets -merge -useContext +onlyGivenNames x1
  try clear_value x1
  extract_lets -merge -useContext +onlyGivenNames x2
  try clear_value x2
  extract_lets -merge -useContext +onlyGivenNames x3
  try clear_value x3
  extract_lets -merge -useContext +onlyGivenNames x4
  try clear_value x4
  extract_lets -merge -useContext +onlyGivenNames x5
  try clear_value x5
  exact Keeps.ite (State.contribute_keeps h) h

theorem execMeterPulse_keeps {z s : State} {p0 : _} (h : Keeps z s) : KeepsR z (execMeterPulse p0 s) := by
  unfold execMeterPulse
  extract_lets -merge -useContext +onlyGivenNames x1
  try clear_value x1
  extract_lets -merge -useContext +onlyGivenNames x2
  try clear_value x2
  refine KeepsR.ite ?_ (KeepsR.next h)
  extract_lets -merge -useContext +onlyGivenNames x3
  try clear_value x3
  extract_lets -merge -useContext +onlyGivenNames x4
  try clear_value x4
  exact KeepsR.next (State.roll_keeps (State.setMetPulse_keeps h))

theorem State.heatBlock_keeps {z s : State} (h : Keeps z s) : Keeps z (State.heatBlock s) := by
  unfold State.heatBlock
  extract_lets -merge -useContext +onlyGivenNames x1
  try clear_value x1
  extract_lets -merge -useContext +onlyGivenNames x2
  try clear_value x2
  extract_lets -merge -useContext +onlyGivenNames x3
  try clear_value x3
  extract_lets -merge -useContext +onlyGivenNames x4
  have h5 : Keeps z x4 := State.issueBlock_keeps h
  clear_value x4
  extract_lets -merge -useContext +onlyGivenNames x6 x7
  try clear_value x6
  have h8 : Keeps z x7 := h5.same
  clear_value x7
  exact Keeps.foldl h8 fun _ h9 _ => State.setMetHeat_keeps h9

theorem execPeriodicSave_keeps {z s : State} (h : Keeps z s) : KeepsR z (execPeriodicSave s) := by
  unfold execPeriodicSave
  refine KeepsR.ite ?_ (KeepsR.next h)
  extract_lets -merge -useContext +onlyGivenNames x1
  have h2 : Keeps z x1 := State.elapse_keeps h
  clear_value x1
  exact KeepsR.next (State.writeRotating_keeps h2.same)

theorem State.cycleFiring_keeps {z s : State} {p1 : _} {p2 : _} (h : Keeps z s) : Keeps z (State.cycleFiring s p1 p2) := by
  unfold State.cycleFiring
  extract_lets -merge -useContext +onlyGivenNames x1
  try clear_value x1
  extract_lets -merge -useContext +onlyGivenNames x2
  try clear_value x2
  extract_lets -merge -useContext +onlyGivenNames x3
  try clear_value x3
  extract_lets -merge -useContext +onlyGivenNames x4
  try clear_value x4
  split
  · exact State.setMetSystem_keeps h
  · extract_lets -merge -useContext +onlyGivenNames x9
    try clear_value x9
    extract_lets -merge -useContext +onlyGivenNames x10
    have h11 : Keeps z x10 := State.setMetSystem_keeps h
    clear_value x10
    exact Keeps.ite (State.countCycle_keeps (State.closeCycle_keeps h11)) (State.setMetSystem_keeps h11)

theorem execPulseStart_keeps {z s : State} {p0 : _} (h : Keeps z s) : KeepsR z (execPulseStart p0 s) := by
  unfold execPulseStart
  extract_lets -merge -useContext +onlyGivenNames x1
  try clear_value x1
  extract_lets -merge -useContext +onlyGivenNames x2
  try clear_value x2
  extract_lets -merge -useContext +onlyGivenNames x3
  try clear_value x3
  split
  · exact KeepsR.next h
  · refine KeepsR.ite ?_ (KeepsR.next h)
    extract_lets -merge -useContext +onlyGivenNames x10
    try clear_value x10
    extract_lets -merge -useContext +onlyGivenNames x11
    have h12 : Keeps z x11 := State.elapse_keeps h
    clear_value x11
    extract_lets -merge -useContext +onlyGivenNames x13
    try clear_value x13
    extract_lets -merge -useContext +onlyGivenNames x14
    have h15 : Keeps z x14 := Keeps.ite (State.elapse_keeps (State.setFlag_keeps h12)) h12
    clear_value x14
    extract_lets -merge -useContext +onlyGivenNames x16
    try clear_value x16
    extract_lets -merge -useContext +onlyGivenNames x17 x18
    try clear_value x17
    have h19 : Keeps z x18 := State.setMetOut_keeps h15
    clear_value x18
    exact KeepsR.next (State.setFlag_keeps (State.setFld_keeps h19))

theorem execMetClear_keeps {z s : State} {p0 : _} {p1 : _} (h : Keeps z s) : KeepsR z (execMetClear p0 p1 s) :=
  KeepsR.next (State.gated_keeps h (fun _ h1 => Keeps.ite (Keeps.foldl (State.setNum_keeps h1) fun _ h2 _ => State.setFlag_keeps h2) h1))

theorem State.dropRemote_keeps {z s : State} {p1 : _} {p2 : _} (h : Keeps z s) : Keeps z (State.dropRemote s p1 p2) := by
  unfold State.dropRemote
  refine Keeps.foldl h fun _ h1 _ => ?_
  extract_lets -merge -useContext +onlyGivenNames x2
  try clear_value x2
  exact Keeps.ite h1 h1.same

theorem execRemoteCycleClose_keeps {z s : State} {p0 : _} (h : Keeps z s) : KeepsR z (execRemoteCycleClose p0 s) := by
  unfold execRemoteCycleClose
  extract_lets -merge -useContext +onlyGivenNames x1
  try clear_value x1
  split
  · exact KeepsR.next h
  · refine KeepsR.ite (KeepsR.next h) ?_
    extract_lets -merge -useContext +onlyGivenNames x7
    try clear_value x7
    extract_lets -merge -useContext +onlyGivenNames x8 x9
    try clear_value x8
    have h10 : Keeps z x9 := State.setMetSystem_keeps h
    clear_value x9
    refine KeepsR.ite ?_ ?_
    · extract_lets -merge -useContext +onlyGivenNames x11
      try clear_value x11
      exact KeepsR.next (State.dropRemote_keeps (State.countCycle_keeps (State.closeCycle_keeps h10)))
    · extract_lets -merge -useContext +onlyGivenNames x12
      have h13 : Keeps z x12 := State.elapse_keeps h10
      clear_value x12
      extract_lets -merge -useContext +onlyGivenNames x14
      have h15 : Keeps z x14 := State.markInterval_keeps (State.bump_keeps h13)
      clear_value x14
      extract_lets -merge -useContext +onlyGivenNames x16
      have h17 : Keeps z x16 := State.inInterval_keeps h15
      clear_value x16
      extract_lets -merge -useContext +onlyGivenNames x18
      have h19 : Keeps z x18 := State.setFlag_keeps h17
      clear_value x18
      exact KeepsR.next (State.dropRemote_keeps (State.countCycle_keeps h19))

theorem execPowerFailWarning_keeps {z s : State} (h : Keeps z s) : KeepsR z (execPowerFailWarning s) := by
  unfold execPowerFailWarning
  refine KeepsR.ite (KeepsR.next h) ?_
  extract_lets -merge -useContext +onlyGivenNames x1
  have h2 : Keeps z x1 := State.bump_keeps h
  clear_value x1
  refine KeepsR.ite (KeepsR.next h2) ?_
  extract_lets -merge -useContext +onlyGivenNames x3
  have h4 : Keeps z x3 := State.blockEvent_keeps (State.raise_keeps (State.setFlag_keeps h2))
  clear_value x3
  exact KeepsR.next (State.metPowerFail_keeps (Keeps.ite h4 (State.setFlag_keeps h4)))

theorem execBatterySecond_keeps {z s : State} {p0 : _} (h : Keeps z s) : KeepsR z (execBatterySecond p0 s) := by
  unfold execBatterySecond
  refine KeepsR.ite ?_ (KeepsR.next h)
  extract_lets -merge -useContext +onlyGivenNames x1
  have h2 : Keeps z x1 := State.elapse_keeps h
  clear_value x1
  extract_lets -merge -useContext +onlyGivenNames x3
  try clear_value x3
  refine KeepsR.ite (KeepsR.next h2) ?_
  extract_lets -merge -useContext +onlyGivenNames x4
  try clear_value x4
  extract_lets -merge -useContext +onlyGivenNames x5
  try clear_value x5
  extract_lets -merge -useContext +onlyGivenNames x6
  try clear_value x6
  extract_lets -merge -useContext +onlyGivenNames x7
  try clear_value x7
  extract_lets -merge -useContext +onlyGivenNames x8
  try clear_value x8
  exact KeepsR.next h2.same

theorem execMainsCycleEnd_keeps {z s : State} {p0 : _} {p1 : _} {p2 : _} (h : Keeps z s) : KeepsR z (execMainsCycleEnd p0 p1 p2 s) := by
  unfold execMainsCycleEnd
  split
  · exact KeepsR.next h
  · rename_i y3 y4 e5
    have h6 : Keeps z y3 := KeepsOP.of_eq e5 (State.firing_keeps h)
    exact KeepsR.ite (KeepsR.next (Keeps.foldl h6 fun _ h7 _ => State.cycleFiring_keeps h7)) (KeepsR.next h6)

theorem execEmergencyRewrite_keeps {z s : State} (h : Keeps z s) : KeepsR z (execEmergencyRewrite s) :=
  KeepsR.next (State.emergencyAgain_keeps h)

theorem execMetRegRead_keeps {z s : State} {p0 : _} {p1 : _} (h : Keeps z s) : KeepsR z (execMetRegRead p0 p1 s) := by
  unfold execMetRegRead
  extract_lets -merge -useContext +onlyGivenNames x1
  try clear_value x1
  exact KeepsR.next (State.gatedRead_keeps h (fun _ h2 => KeepsP.mk h2.same))

theorem execHeatStep_keeps {z s : State} {p0 : _} (h : Keeps z s) : KeepsR z (execHeatStep p0 s) := by
  unfold execHeatStep
  refine KeepsR.ite (KeepsR.next h) ?_
  extract_lets -merge -useContext +onlyGivenNames x1
  try clear_value x1
  extract_lets -merge -useContext +onlyGivenNames x2
  have h3 : Keeps z x2 := State.elapse_keeps h
  clear_value x2
  extract_lets -merge -useContext +onlyGivenNames x4
  have h5 : Keeps z x4 := Keeps.foldl h3 fun _ h6 _ => State.heatMeter_keeps h6
  clear_value x4
  extract_lets -merge -useContext +onlyGivenNames x7
  have h8 : Keeps z x7 := Keeps.foldl h5 fun _ h9 _ => State.pulseOnly_keeps h9
  clear_value x7
  extract_lets -merge -useContext +onlyGivenNames x10
  have h11 : Keeps z x10 := Keeps.foldl h8 fun _ h12 _ => State.setMetPulse_keeps h12
  clear_value x10
  extract_lets -merge -useContext +onlyGivenNames x13 x14
  try clear_value x13
  have h15 : Keeps z x14 := h11.same
  clear_value x14
  extract_lets -merge -useContext +onlyGivenNames x16
  have h17 : Keeps z x16 := Keeps.ite (State.heatBlock_keeps h15) h15
  clear_value x16
  exact KeepsR.next (State.retainAgain_keeps h17)

theorem execBillingClose_keeps {z s : State} (h : Keeps z s) : KeepsR z (execBillingClose s) := by
  unfold execBillingClose
  extract_lets -merge -useContext +onlyGivenNames x1
  have h2 : Keeps z x1 := Keeps.ite (State.elapse_keeps h) h
  clear_value x1
  exact KeepsR.next (Keeps.ite (State.closeInterval_keeps h2) h2)

theorem execPulseEnd_keeps {z s : State} {p0 : _} (h : Keeps z s) : KeepsR z (execPulseEnd p0 s) := by
  unfold execPulseEnd
  extract_lets -merge -useContext +onlyGivenNames x1
  try clear_value x1
  extract_lets -merge -useContext +onlyGivenNames x2
  try clear_value x2
  split
  · exact KeepsR.ite (KeepsR.next (State.setFlag_keeps (State.elapse_keeps h))) (KeepsR.next h)
  · exact KeepsR.next h

theorem State.moveRings_keeps {z s : State} {p1 : _} (h : Keeps z s) : Keeps z (State.moveRings s p1) :=
  Keeps.ite h (Keeps.foldl h fun _ h1 _ => Keeps.ite (State.poke_keeps h1) h1)

theorem State.changeSource_keeps {z s : State} {p1 : _} {p2 : _} (h : Keeps z s) : Keeps z (State.changeSource s p1 p2) := by
  unfold State.changeSource
  refine Keeps.ite (State.setNum_keeps h) ?_
  extract_lets -merge -useContext +onlyGivenNames x1
  try clear_value x1
  extract_lets -merge -useContext +onlyGivenNames x2
  try clear_value x2
  extract_lets -merge -useContext +onlyGivenNames x3 x4
  try clear_value x3
  have h5 : Keeps z x4 := State.setSpin_keeps h
  clear_value x4
  extract_lets -merge -useContext +onlyGivenNames x6
  have h7 : Keeps z x6 := State.setFlag_keeps (State.setFld_keeps h5)
  clear_value x6
  extract_lets -merge -useContext +onlyGivenNames x8
  have h9 : Keeps z x8 := State.setSpinFlag_keeps h7
  clear_value x8
  exact Keeps.ite (State.startRejoin_keeps (State.setSpin_keeps h9)) h9

theorem State.loadSpindle_keeps {z s : State} {p0 : _} {p2 : _} (h : Keeps z s) : Keeps z (State.loadSpindle p0 s p2) := by
  unfold State.loadSpindle
  extract_lets -merge -useContext +onlyGivenNames x1
  have h2 : Keeps z x1 := State.setNum_keeps h
  clear_value x1
  split
  · exact h2
  · exact Keeps.ite h2 (State.changeSource_keeps h2)

theorem State.freeComparator_keeps {z s : State} {p1 : _} {p2 : _} (h : Keeps z s) : Keeps z (State.freeComparator s p1 p2) :=
  Keeps.ite (State.setFlag_keeps h) h

theorem State.loadOut_keeps {z s : State} {p0 : _} {p2 : _} (h : Keeps z s) : Keeps z (State.loadOut p0 s p2) := by
  unfold State.loadOut
  extract_lets -merge -useContext +onlyGivenNames x1
  have h2 : Keeps z x1 := State.setNum_keeps h
  clear_value x1
  split
  · exact State.setNum_keeps h2
  · exact Keeps.ite h2 (State.setNum_keeps h2.same)

theorem State.loadCalibration_keeps {z s : State} (h : Keeps z s) : Keeps z (State.loadCalibration s) := by
  unfold State.loadCalibration
  extract_lets -merge -useContext +onlyGivenNames x1
  try clear_value x1
  extract_lets -merge -useContext +onlyGivenNames x2
  have h3 : Keeps z x2 := by
    unfold x2
    refine Keeps.foldl h fun _ h4 _ => ?_
    extract_lets -merge -useContext +onlyGivenNames x5
    try clear_value x5
    exact State.setNum_keeps (State.setNum_keeps (State.setNum_keeps h4))
  clear_value x2
  extract_lets -merge -useContext +onlyGivenNames x6
  have h7 : Keeps z x6 := by
    unfold x6
    refine Keeps.foldl h3 fun _ h8 _ => ?_
    extract_lets -merge -useContext +onlyGivenNames x9
    try clear_value x9
    exact State.setNum_keeps (State.setNum_keeps (State.setNum_keeps h8))
  clear_value x6
  extract_lets -merge -useContext +onlyGivenNames x10
  have h11 : Keeps z x10 := by
    unfold x10
    refine Keeps.foldl h7 fun _ h12 _ => ?_
    refine Keeps.foldl h12 fun _ h13 _ => ?_
    extract_lets -merge -useContext +onlyGivenNames x14
    try clear_value x14
    exact State.setNum_keeps (State.setNum_keeps (State.setNum_keeps (State.setNum_keeps h13)))
  clear_value x10
  refine Keeps.foldl h11 fun _ h15 _ => ?_
  extract_lets -merge -useContext +onlyGivenNames x16
  try clear_value x16
  exact State.setNum_keeps (State.setNum_keeps (State.setNum_keeps h15))

theorem State.loadSystem_keeps {z s : State} {p0 : _} {p2 : _} (h : Keeps z s) : Keeps z (State.loadSystem p0 s p2) := by
  unfold State.loadSystem
  split
  · exact State.setMetSystem_keeps h
  · exact Keeps.ite (State.setMetSystem_keeps h) (Keeps.ite h (State.setMetSystem_keeps h))

theorem State.loadHeat_keeps {z s : State} {p0 : _} {p2 : _} (h : Keeps z s) : Keeps z (State.loadHeat p0 s p2) := by
  unfold State.loadHeat
  split
  · exact h.same
  · exact Keeps.ite h h.same

theorem State.loadMetro_keeps {z s : State} {p1 : _} (h : Keeps z s) : Keeps z (State.loadMetro s p1) := by
  unfold State.loadMetro
  extract_lets -merge -useContext +onlyGivenNames x1
  try clear_value x1
  extract_lets -merge -useContext +onlyGivenNames x2
  have h3 : Keeps z x2 := State.setFld_keeps h
  clear_value x2
  extract_lets -merge -useContext +onlyGivenNames x4
  have h5 : Keeps z x4 := State.setNum_keeps (State.setNum_keeps h3)
  clear_value x4
  extract_lets -merge -useContext +onlyGivenNames x6
  have h7 : Keeps z x6 := Keeps.foldl (State.loadCalibration_keeps h5) fun _ h8 _ => State.loadOut_keeps h8
  clear_value x6
  extract_lets -merge -useContext +onlyGivenNames x9
  have h10 : Keeps z x9 := Keeps.foldl h7 fun _ h11 _ => State.loadSystem_keeps h11
  clear_value x9
  exact Keeps.foldl h10 fun _ h12 _ => State.loadHeat_keeps h12

theorem State.loadStream_keeps {z s : State} {p0 : _} {p2 : _} (h : Keeps z s) : Keeps z (State.loadStream p0 s p2) := by
  unfold State.loadStream
  extract_lets -merge -useContext +onlyGivenNames x1
  try clear_value x1
  refine Keeps.ite (State.setNum_keeps (State.setStream_keeps h)) ?_
  refine Keeps.ite h ?_
  extract_lets -merge -useContext +onlyGivenNames x2
  have h3 : Keeps z x2 := State.setNum_keeps h
  clear_value x2
  exact State.showStream_keeps (State.setStream_keeps h3)

theorem State.loadGraph_keeps {z s : State} {p0 : _} {p2 : _} (h : Keeps z s) : Keeps z (State.loadGraph p0 s p2) := by
  unfold State.loadGraph
  extract_lets -merge -useContext +onlyGivenNames x1
  try clear_value x1
  refine Keeps.ite (State.setNum_keeps (State.setNum_keeps (State.setNum_keeps (State.setNum_keeps (State.setGraph_keeps h))))) ?_
  extract_lets -merge -useContext +onlyGivenNames x2
  have h3 : Keeps z x2 := State.setNum_keeps h
  clear_value x2
  extract_lets -merge -useContext +onlyGivenNames x4
  have h5 : Keeps z x4 := State.setNum_keeps (State.setNum_keeps h3)
  clear_value x4
  exact Keeps.ite h5 (State.clearGraph_keeps h5)

theorem State.loadFusion_keeps {z s : State} {p1 : _} (h : Keeps z s) : Keeps z (State.loadFusion s p1) := by
  unfold State.loadFusion
  refine Keeps.ite h ?_
  extract_lets -merge -useContext +onlyGivenNames x1
  try clear_value x1
  extract_lets -merge -useContext +onlyGivenNames x2
  have h3 : Keeps z x2 := State.setNum_keeps h
  clear_value x2
  extract_lets -merge -useContext +onlyGivenNames x4
  have h5 : Keeps z x4 := State.setNum_keeps (State.setNum_keeps h3)
  clear_value x4
  extract_lets -merge -useContext +onlyGivenNames x6
  have h7 : Keeps z x6 := Keeps.foldl h5 fun _ h8 _ => State.loadStream_keeps h8
  clear_value x6
  extract_lets -merge -useContext +onlyGivenNames x9
  have h10 : Keeps z x9 := Keeps.foldl h7 fun _ h11 _ => State.loadGraph_keeps h11
  clear_value x9
  split
  · exact State.moveRings_keeps h10
  · exact h10

theorem State.assignComparator_keeps {z s : State} {p1 : _} (h : Keeps z s) : Keeps z (State.assignComparator s p1) := by
  unfold State.assignComparator
  extract_lets -merge -useContext +onlyGivenNames x1
  try clear_value x1
  extract_lets -merge -useContext +onlyGivenNames x2
  try clear_value x2
  extract_lets -merge -useContext +onlyGivenNames x3
  try clear_value x3
  extract_lets -merge -useContext +onlyGivenNames x4
  try clear_value x4
  extract_lets -merge -useContext +onlyGivenNames x5
  try clear_value x5
  refine Keeps.ite h ?_
  extract_lets -merge -useContext +onlyGivenNames x6
  have h7 : Keeps z x6 := State.setNum_keeps (State.setNum_keeps h)
  clear_value x6
  exact h7.same

theorem State.loadSpindles_keeps {z s : State} {p1 : _} (h : Keeps z s) : Keeps z (State.loadSpindles s p1) := by
  unfold State.loadSpindles
  extract_lets -merge -useContext +onlyGivenNames x1
  have h2 : Keeps z x1 := Keeps.foldl h fun _ h3 _ => State.loadSpindle_keeps h3
  clear_value x1
  extract_lets -merge -useContext +onlyGivenNames x4
  have h5 : Keeps z x4 := Keeps.foldl h2 fun _ h6 _ => Keeps.foldl h6 fun _ h7 _ => State.freeComparator_keeps h7
  clear_value x4
  exact Keeps.foldl h5 fun _ h8 _ => State.assignComparator_keeps h8

theorem State.loadSense_keeps {z s : State} {p1 : _} (h : Keeps z s) : Keeps z (State.loadSense s p1) :=
  State.loadMetro_keeps (State.loadFusion_keeps (State.loadSpindles_keeps h))

theorem State.noTask_keeps {z s : State} {p1 : _} (h : Keeps z s) : Keeps z (State.noTask s p1) :=
  State.setNum_keeps (State.setNum_keeps (State.setNum_keeps (State.clearTask_keeps (State.setTask_keeps h))))

theorem State.emptyChannel_keeps {z s : State} {p1 : _} (h : Keeps z s) : Keeps z (State.emptyChannel s p1) := by
  unfold State.emptyChannel
  extract_lets -merge -useContext +onlyGivenNames x1
  have h2 : Keeps z x1 := State.setFlag_keeps (State.setFlag_keeps h)
  clear_value x1
  exact Keeps.ite (State.poke32_keeps h2) h2

theorem State.moveImage_keeps {z s : State} {p1 : _} (h : Keeps z s) : Keeps z (State.moveImage s p1) := by
  unfold State.moveImage
  split
  · exact State.poke_keeps h
  · refine Keeps.ite h ?_
    extract_lets -merge -useContext +onlyGivenNames x3
    try clear_value x3
    exact State.poke_keeps h

theorem State.loadPairs_keeps {z s : State} (h : Keeps z s) : Keeps z (State.loadPairs s) :=
  State.setFld_keeps h

theorem State.dropTunes_keeps {z s : State} (h : Keeps z s) : Keeps z (State.dropTunes s) := by
  unfold State.dropTunes
  extract_lets -merge -useContext +onlyGivenNames x1
  try clear_value x1
  extract_lets -merge -useContext +onlyGivenNames x2 x3
  try clear_value x2
  have h4 : Keeps z x3 := h.same
  clear_value x3
  exact Keeps.foldl h4 fun _ h5 _ => State.setNum_keeps h5

theorem State.retuneLoop_keeps {z s : State} {p1 : _} {p2 : _} (h : Keeps z s) : Keeps z (State.retuneLoop s p1 p2) := by
  unfold State.retuneLoop
  extract_lets -merge -useContext +onlyGivenNames x1
  try clear_value x1
  extract_lets -merge -useContext +onlyGivenNames x2
  try clear_value x2
  extract_lets -merge -useContext +onlyGivenNames x3
  have h4 : Keeps z x3 := State.setCleLoop_keeps h
  clear_value x3
  extract_lets -merge -useContext +onlyGivenNames x5
  have h6 : Keeps z x5 := Keeps.foldl h4 fun _ h7 _ => State.setNum_keeps h7
  clear_value x5
  extract_lets -merge -useContext +onlyGivenNames x8
  try clear_value x8
  extract_lets -merge -useContext +onlyGivenNames x9
  try clear_value x9
  extract_lets -merge -useContext +onlyGivenNames x10
  have h11 : Keeps z x10 := State.setFlag_keeps h6
  clear_value x10
  exact Keeps.ite (State.cleFirst_keeps h11) h11

theorem State.loadLoop_keeps {z s : State} {p0 : _} {p2 : _} (h : Keeps z s) : Keeps z (State.loadLoop p0 s p2) := by
  unfold State.loadLoop
  split
  · exact State.cleLoadLoop_keeps h
  · exact Keeps.ite (State.retuneLoop_keeps h) (State.cleLoadLoop_keeps h)

theorem State.loadLoopGroup_keeps {z s : State} {p0 : _} {p2 : _} (h : Keeps z s) : Keeps z (State.loadLoopGroup p0 s p2) := by
  unfold State.loadLoopGroup
  extract_lets -merge -useContext +onlyGivenNames x1
  try clear_value x1
  extract_lets -merge -useContext +onlyGivenNames x2
  try clear_value x2
  exact Keeps.ite h (Keeps.ite (State.setNum_keeps h) (State.setNum_keeps h))

theorem State.loadLoops_keeps {z s : State} {p1 : _} (h : Keeps z s) : Keeps z (State.loadLoops s p1) := by
  unfold State.loadLoops
  extract_lets -merge -useContext +onlyGivenNames x1
  have h2 : Keeps z x1 := State.dropTunes_keeps (Keeps.foldl h fun _ h3 _ => State.loadLoop_keeps h3)
  clear_value x1
  extract_lets -merge -useContext +onlyGivenNames x4
  have h5 : Keeps z x4 := Keeps.foldl h2 fun _ h6 _ => State.loadLoopGroup_keeps h6
  clear_value x4
  exact State.setFld_keeps (State.setFld_keeps h5)

theorem State.place_keeps {z s : State} {p1 : _} {p2 : _} (h : Keeps z s) : Keeps z (State.place s p1 p2) :=
  Keeps.ite h (State.poke_keeps h)

theorem State.placeProgram_keeps {z s : State} {p1 : _} (h : Keeps z s) : Keeps z (State.placeProgram s p1) := by
  unfold State.placeProgram
  extract_lets -merge -useContext +onlyGivenNames x1
  try clear_value x1
  extract_lets -merge -useContext +onlyGivenNames x2
  try clear_value x2
  exact State.place_keeps (State.place_keeps h)

theorem State.freshTask_keeps {z s : State} {p1 : _} (h : Keeps z s) : Keeps z (State.freshTask s p1) := by
  unfold State.freshTask
  extract_lets -merge -useContext +onlyGivenNames x1
  try clear_value x1
  extract_lets -merge -useContext +onlyGivenNames x2 x3
  try clear_value x2
  have h4 : Keeps z x3 := State.setTask_keeps h
  clear_value x3
  extract_lets -merge -useContext +onlyGivenNames x5
  have h6 : Keeps z x5 := State.setNum_keeps (State.setNum_keeps (State.clearTask_keeps h4))
  clear_value x5
  extract_lets -merge -useContext +onlyGivenNames x7
  have h8 : Keeps z x7 := State.showTask_keeps (State.setNum_keeps h6)
  clear_value x7
  exact State.initOutputs_keeps (State.poke_keeps h8)

theorem State.freshProgram_keeps {z s : State} {p1 : _} (h : Keeps z s) : Keeps z (State.freshProgram s p1) := by
  unfold State.freshProgram
  extract_lets -merge -useContext +onlyGivenNames x1
  try clear_value x1
  extract_lets -merge -useContext +onlyGivenNames x2
  try clear_value x2
  extract_lets -merge -useContext +onlyGivenNames x3
  try clear_value x3
  extract_lets -merge -useContext +onlyGivenNames x4
  have h5 : Keeps z x4 := State.placeProgram_keeps h
  clear_value x4
  extract_lets -merge -useContext +onlyGivenNames x6
  have h7 : Keeps z x6 := State.setNum_keeps h5
  clear_value x6
  exact Keeps.foldl h7 fun _ h8 _ => State.freshTask_keeps h8

theorem State.loadProgram_keeps {z s : State} {p0 : _} {p2 : _} (h : Keeps z s) : Keeps z (State.loadProgram p0 s p2) := by
  unfold State.loadProgram
  extract_lets -merge -useContext +onlyGivenNames x1
  try clear_value x1
  refine Keeps.ite (State.setNum_keeps h) ?_
  refine Keeps.ite h ?_
  extract_lets -merge -useContext +onlyGivenNames x2
  try clear_value x2
  extract_lets -merge -useContext +onlyGivenNames x3
  have h4 : Keeps z x3 := State.freshProgram_keeps h
  clear_value x3
  exact Keeps.ite (State.raise_keeps h4) h4

theorem State.loadTasks_keeps {z s : State} {p1 : _} (h : Keeps z s) : Keeps z (State.loadTasks s p1) := by
  unfold State.loadTasks
  extract_lets -merge -useContext +onlyGivenNames x1
  have h2 : Keeps z x1 := Keeps.ite h (State.moveImage_keeps h)
  clear_value x1
  extract_lets -merge -useContext +onlyGivenNames x3
  have h4 : Keeps z x3 := State.setFld_keeps (State.setFld_keeps h2)
  clear_value x3
  extract_lets -merge -useContext +onlyGivenNames x5
  have h6 : Keeps z x5 := Keeps.foldl h4 fun _ h7 _ => State.loadProgram_keeps h7
  clear_value x5
  extract_lets -merge -useContext +onlyGivenNames x8
  have h9 : Keeps z x8 := Keeps.foldl h6 fun _ h10 _ => State.noTask_keeps h10
  clear_value x8
  exact State.showCores_keeps h9

theorem State.loadChannels_keeps {z s : State} {p1 : _} (h : Keeps z s) : Keeps z (State.loadChannels s p1) := by
  unfold State.loadChannels
  split
  · exact h
  · exact Keeps.foldl h fun _ h3 _ => Keeps.ite h3 (State.emptyChannel_keeps h3)

theorem State.loadAxis_keeps {z s : State} {p1 : _} (h : Keeps z s) : Keeps z (State.loadAxis s p1) :=
  State.setNum_keeps (State.setNum_keeps h)

theorem State.loadControl_keeps {z s : State} {p1 : _} (h : Keeps z s) : Keeps z (State.loadControl s p1) := by
  unfold State.loadControl
  extract_lets -merge -useContext +onlyGivenNames x1
  have h2 : Keeps z x1 := Keeps.ite h (State.loadPairs_keeps h)
  clear_value x1
  extract_lets -merge -useContext +onlyGivenNames x3
  have h4 : Keeps z x3 := State.loadLoops_keeps (State.loadTasks_keeps h2)
  clear_value x3
  exact State.loadChannels_keeps (Keeps.foldl h4 fun _ h5 _ => State.loadAxis_keeps h5)

theorem State.emptyMailboxes_keeps {z s : State} (h : Keeps z s) : Keeps z (State.emptyMailboxes s) :=
  State.setNum_keeps (State.setNum_keeps (Keeps.foldl h fun _ h1 _ => State.emptyChannel_keeps h1))

theorem State.placeInDdr_keeps {z s : State} (h : Keeps z s) : Keeps z (State.placeInDdr s) := by
  unfold State.placeInDdr
  refine Keeps.foldl h fun _ h1 _ => ?_
  extract_lets -merge -useContext +onlyGivenNames x2
  try clear_value x2
  extract_lets -merge -useContext +onlyGivenNames x3
  try clear_value x3
  extract_lets -merge -useContext +onlyGivenNames x4
  have h5 : Keeps z x4 := Keeps.ite (State.place_keeps h1) h1
  clear_value x4
  exact Keeps.ite (State.place_keeps h5) h5

theorem State.loadChild_keeps {z s : State} {p1 : _} (h : Keeps z s) : Keeps z (State.loadChild s p1) :=
  Keeps.ite (State.setNum_keeps h) (State.setNum_keeps h)

theorem State.freshFed_keeps {z s : State} {p1 : _} (h : Keeps z s) : Keeps z (State.freshFed s p1) := by
  unfold State.freshFed
  extract_lets -merge -useContext +onlyGivenNames x1
  try clear_value x1
  extract_lets -merge -useContext +onlyGivenNames x2
  try clear_value x2
  extract_lets -merge -useContext +onlyGivenNames x3 x4
  try clear_value x3
  have h5 : Keeps z x4 := h.same
  clear_value x4
  extract_lets -merge -useContext +onlyGivenNames x6
  have h7 : Keeps z x6 := Keeps.ite (State.poke_keeps h5) h5
  clear_value x6
  extract_lets -merge -useContext +onlyGivenNames x8
  have h9 : Keeps z x8 := State.setNum_keeps (State.setNum_keeps h7)
  clear_value x8
  extract_lets -merge -useContext +onlyGivenNames x10
  have h11 : Keeps z x10 := State.setNum_keeps h9
  clear_value x10
  exact Keeps.foldl h11 fun _ h12 _ => State.loadChild_keeps h12

theorem State.loadFed_keeps {z s : State} {p1 : _} (h : Keeps z s) : Keeps z (State.loadFed s p1) := by
  unfold State.loadFed
  refine Keeps.ite h ?_
  extract_lets -merge -useContext +onlyGivenNames x1
  have h2 : Keeps z x1 := State.setNum_keeps (State.setNum_keeps h)
  clear_value x1
  split
  · exact Keeps.ite h2 (State.freshFed_keeps h2)
  · exact State.freshFed_keeps h2

theorem State.loadChuck_keeps {z s : State} {p0 : _} {p2 : _} (h : Keeps z s) : Keeps z (State.loadChuck p0 s p2) := by
  unfold State.loadChuck
  extract_lets -merge -useContext +onlyGivenNames x1
  try clear_value x1
  extract_lets -merge -useContext +onlyGivenNames x2
  try clear_value x2
  extract_lets -merge -useContext +onlyGivenNames x3
  have h4 : Keeps z x3 := Keeps.ite (State.setFlag_keeps h) (State.setFlag_keeps h)
  clear_value x3
  exact Keeps.ite (State.setNum_keeps h4) (State.setNum_keeps h4)

theorem State.loadLathe_keeps {z s : State} {p0 : _} {p2 : _} (h : Keeps z s) : Keeps z (State.loadLathe p0 s p2) := by
  unfold State.loadLathe
  extract_lets -merge -useContext +onlyGivenNames x1
  try clear_value x1
  extract_lets -merge -useContext +onlyGivenNames x2
  have h3 : Keeps z x2 := State.setNum_keeps (State.setFlag_keeps h)
  clear_value x2
  extract_lets -merge -useContext +onlyGivenNames x4
  try clear_value x4
  refine Keeps.ite h3 ?_
  extract_lets -merge -useContext +onlyGivenNames x5
  have h6 : Keeps z x5 := State.showLathe_keeps (Keeps.foldl h3 fun _ h7 _ => State.loadChuck_keeps h7)
  clear_value x5
  split
  · exact Keeps.ite h6 (State.clearWarm_keeps h6)
  · exact h6

theorem State.loadSolve_keeps {z s : State} {p1 : _} (h : Keeps z s) : Keeps z (State.loadSolve s p1) :=
  State.loadFed_keeps (Keeps.foldl h fun _ h1 _ => State.loadLathe_keeps h1)

theorem State.setPnl_keeps {z s : State} {p1 : _} (h : Keeps z s) : Keeps z (State.setPnl s p1) :=
  h.same

theorem State.setRegions_keeps {z s : State} {p1 : _} (h : Keeps z s) : Keeps z (State.setRegions s p1) :=
  State.setPnl_keeps h

theorem State.panelWait_keeps {z s : State} {p1 : _} (h : Keeps z s) : Keeps z (State.panelWait s p1) :=
  State.elapse_keeps h

theorem State.setStage_keeps {z s : State} {p1 : _} (h : Keeps z s) : Keeps z (State.setStage s p1) :=
  State.setPnl_keeps h

theorem State.fillWhite_keeps {z s : State} {p1 : _} {p2 : _} (h : Keeps z s) : Keeps z (State.fillWhite s p1 p2) :=
  Keeps.foldl h fun _ h1 _ => State.dmaWrite_keeps h1

theorem State.panelCleared_keeps {z s : State} (h : Keeps z s) : Keeps z (State.panelCleared s) :=
  State.setStage_keeps h

theorem State.panelClear_keeps {z s : State} (h : Keeps z s) : Keeps z (State.panelClear s) := by
  unfold State.panelClear
  refine Keeps.ite (State.setPnl_keeps (State.setStage_keeps h)) ?_
  refine Keeps.ite ?_ (State.panelCleared_keeps h)
  extract_lets -merge -useContext +onlyGivenNames x1
  try clear_value x1
  extract_lets -merge -useContext +onlyGivenNames x2
  have h3 : Keeps z x2 := State.fillWhite_keeps h
  clear_value x2
  exact State.setPnl_keeps h3

theorem State.setPower_keeps {z s : State} {p1 : _} (h : Keeps z s) : Keeps z (State.setPower s p1) :=
  State.setFld_keeps h

theorem State.railsUp_keeps {z s : State} (h : Keeps z s) : Keeps z (State.railsUp s) := by
  unfold State.railsUp
  refine Keeps.ite (State.panelClear_keeps h) ?_
  extract_lets -merge -useContext +onlyGivenNames x1
  try clear_value x1
  extract_lets -merge -useContext +onlyGivenNames x2
  try clear_value x2
  extract_lets -merge -useContext +onlyGivenNames x3 x4
  try clear_value x3
  have h5 : Keeps z x4 := State.setPnl_keeps h
  clear_value x4
  exact Keeps.foldl h5 fun _ h6 _ => State.setRegions_keeps h6

theorem State.startPower_keeps {z s : State} (h : Keeps z s) : Keeps z (State.startPower s) := by
  unfold State.startPower
  extract_lets -merge -useContext +onlyGivenNames x1 x2
  try clear_value x1
  have h3 : Keeps z x2 := State.setPnl_keeps (State.setPower_keeps h)
  clear_value x2
  exact Keeps.ite (State.railsUp_keeps h3) h3

theorem State.powerEnded_keeps {z s : State} (h : Keeps z s) : Keeps z (State.powerEnded s) := by
  unfold State.powerEnded
  extract_lets -merge -useContext +onlyGivenNames x1
  have h2 : Keeps z x1 := State.raise_keeps (State.setStage_keeps (State.setPower_keeps h))
  clear_value x1
  extract_lets -merge -useContext +onlyGivenNames x3 x4
  try clear_value x3
  have h5 : Keeps z x4 := State.setPnl_keeps h2
  clear_value x4
  exact Keeps.ite (State.startPower_keeps h5) h5

theorem State.fallRails_keeps {z s : State} (h : Keeps z s) : Keeps z (State.fallRails s) :=
  Keeps.ite (State.powerEnded_keeps h) (State.setStage_keeps h)

theorem State.panelFinished_keeps {z s : State} (h : Keeps z s) : Keeps z (State.panelFinished s) :=
  Keeps.ite (State.setPnl_keeps h) (State.fallRails_keeps h)

theorem State.readLines_keeps {z s : State} (h : Keeps z s) : KeepsP z (State.readLines s) := by
  unfold State.readLines
  refine KeepsP.foldl (KeepsP.mk h) fun _ h1 _ => ?_
  extract_lets -merge -useContext +onlyGivenNames x2
  try clear_value x2
  extract_lets -merge -useContext +onlyGivenNames x3
  try clear_value x3
  extract_lets -merge -useContext +onlyGivenNames x4
  try clear_value x4
  extract_lets -merge -useContext +onlyGivenNames x5
  try clear_value x5
  exact KeepsP.ite (KeepsP.mk (State.charge_keeps (KeepsP.fst h1))) (KeepsP.mk (State.engineError_keeps (KeepsP.fst h1)))

theorem State.updOutcome_keeps {z s : State} {p1 : _} {p2 : _} (h : Keeps z s) : Keeps z (State.updOutcome s p1 p2) := by
  unfold State.updOutcome
  extract_lets -merge -useContext +onlyGivenNames x1
  have h2 : Keeps z x1 := State.setNum_keeps h
  clear_value x1
  exact Keeps.ite h2 (State.raise_keeps h2)

theorem State.showPanel_keeps {z s : State} (h : Keeps z s) : Keeps z (State.showPanel s) := by
  unfold State.showPanel
  extract_lets -merge -useContext +onlyGivenNames x1
  have h2 : Keeps z x1 := by
    unfold x1
    refine Keeps.foldl h fun _ h3 _ => ?_
    split
    · exact State.setNum_keeps (State.setNum_keeps (State.setNum_keeps h3))
    · exact State.setNum_keeps (State.setNum_keeps (State.setNum_keeps h3))
  clear_value x1
  extract_lets -merge -useContext +onlyGivenNames x8
  have h9 : Keeps z x8 := State.setFld_keeps (State.setFld_keeps h2)
  clear_value x8
  exact State.setFlag_keeps h9

theorem State.mergePanel_keeps {z s : State} {p1 : _} {p2 : _} (h : Keeps z s) : Keeps z (State.mergePanel s p1 p2) := by
  unfold State.mergePanel
  split
  · extract_lets -merge -useContext +onlyGivenNames x4
    try clear_value x4
    extract_lets -merge -useContext +onlyGivenNames x5
    try clear_value x5
    exact State.setRegions_keeps h

theorem State.submitUpdate_keeps {z s : State} {p1 : _} {p2 : _} (h : Keeps z s) : Keeps z (State.submitUpdate s p1 p2) := by
  unfold State.submitUpdate
  extract_lets -merge -useContext +onlyGivenNames x1
  try clear_value x1
  extract_lets -merge -useContext +onlyGivenNames x2
  try clear_value x2
  extract_lets -merge -useContext +onlyGivenNames x3
  try clear_value x3
  refine Keeps.ite (State.updOutcome_keeps h) ?_
  refine Keeps.ite (State.updOutcome_keeps h) ?_
  split
  · exact State.showPanel_keeps (State.updOutcome_keeps (State.mergePanel_keeps h))
  · exact Keeps.ite (State.updOutcome_keeps h) (State.showPanel_keeps (State.updOutcome_keeps (State.setRegions_keeps h)))

theorem State.panelRead_keeps {z s : State} {p1 : _} {p2 : _} (h : Keeps z s) : KeepsP z (State.panelRead s p1 p2) := by
  unfold State.panelRead
  extract_lets -merge -useContext +onlyGivenNames x1
  try clear_value x1
  extract_lets -merge -useContext +onlyGivenNames x2
  try clear_value x2
  exact KeepsP.ite (KeepsP.mk (State.charge_keeps h)) (KeepsP.mk (State.engineError_keeps h))

theorem State.copyNext_keeps {z s : State} {p1 : _} (h : Keeps z s) : Keeps z (State.copyNext s p1) := by
  unfold State.copyNext
  refine Keeps.foldl h fun _ h1 _ => ?_
  split
  · rename_i y2 y3 e4
    have h5 : Keeps z y2 := KeepsP.of_eq e4 (State.panelRead_keeps h1)
    exact State.dmaWrite_keeps h5

theorem State.setLit_keeps {z s : State} {p1 : _} (h : Keeps z s) : Keeps z (State.setLit s p1) :=
  State.setFlag_keeps h

theorem State.stopPower_keeps {z s : State} (h : Keeps z s) : Keeps z (State.stopPower s) := by
  unfold State.stopPower
  extract_lets -merge -useContext +onlyGivenNames x1
  try clear_value x1
  extract_lets -merge -useContext +onlyGivenNames x2
  have h3 : Keeps z x2 := State.setRegions_keeps (State.setPower_keeps (State.setLit_keeps h))
  clear_value x2
  extract_lets -merge -useContext +onlyGivenNames x4
  have h5 : Keeps z x4 := Keeps.foldl h3 fun _ h6 _ => Keeps.foldl h6 fun _ h7 _ => State.updOutcome_keeps h7
  clear_value x4
  extract_lets -merge -useContext +onlyGivenNames x8
  have h9 : Keeps z x8 := State.setStage_keeps h5
  clear_value x8
  exact State.showPanel_keeps (Keeps.ite (State.panelFinished_keeps h9) h9)

theorem State.writePanelCtrl_keeps {z s : State} {p1 : _} (h : Keeps z s) : Keeps z (State.writePanelCtrl s p1) := by
  unfold State.writePanelCtrl
  extract_lets -merge -useContext +onlyGivenNames x1
  try clear_value x1
  extract_lets -merge -useContext +onlyGivenNames x2
  try clear_value x2
  extract_lets -merge -useContext +onlyGivenNames x3
  have h4 : Keeps z x3 := State.setNum_keeps h
  clear_value x3
  exact Keeps.ite (Keeps.ite (State.showPanel_keeps (State.startPower_keeps h4)) h4) (Keeps.ite (State.stopPower_keeps h4) (Keeps.ite (State.setLit_keeps h4) h4))

theorem execPowerOff_keeps {z s : State} {p0 : _} {p1 : _} (h : Keeps z s) : KeepsR z (execPowerOff p0 p1 s) :=
  KeepsR.next (State.gated_keeps h (fun _ h1 => State.writePanelCtrl_keeps h1))

theorem State.copyTarget_keeps {z s : State} {p1 : _} (h : Keeps z s) : Keeps z (State.copyTarget s p1) :=
  Keeps.foldl h fun _ h1 _ => State.dmaWrite_keeps h1

theorem State.journalFrame_keeps {z s : State} (h : Keeps z s) : Keeps z (State.journalFrame s) := by
  unfold State.journalFrame
  extract_lets -merge -useContext +onlyGivenNames x1
  try clear_value x1
  refine Keeps.ite h ?_
  extract_lets -merge -useContext +onlyGivenNames x2
  try clear_value x2
  extract_lets -merge -useContext +onlyGivenNames x3
  try clear_value x3
  exact State.setPnl_keeps (State.dmaWrite_keeps h)

theorem State.startUpdates_keeps {z s : State} (h : Keeps z s) : Keeps z (State.startUpdates s) := by
  unfold State.startUpdates
  refine Keeps.ite ?_ h
  split
  · exact Keeps.foldl (State.setRegions_keeps h) fun _ h4 _ => State.copyNext_keeps h4

theorem State.advanceRegion_keeps {z s : State} {p1 : _} (h : Keeps z s) : Keeps z (State.advanceRegion s p1) := by
  unfold State.advanceRegion
  extract_lets -merge -useContext +onlyGivenNames x1
  have h2 : ∀ w6, Keeps z w6 → ∀ w7, Keeps z (x1 w6 w7) := by
    intro y4 h3 a5
    unfold x1
    exact State.setRegions_keeps h3
  clear_value x1
  extract_lets -merge -useContext +onlyGivenNames x8
  have h9 : ∀ w12, Keeps z w12 → Keeps z (x8 w12) := by
    intro y11 h10
    unfold x8
    exact State.setRegions_keeps h10
  clear_value x8
  refine Keeps.ite h ?_
  refine Keeps.ite (h2 _ h _) ?_
  refine Keeps.ite (Keeps.ite (h2 _ (State.fillWhite_keeps h) _) (h2 _ h _)) ?_
  refine Keeps.ite (h2 _ h _) ?_
  extract_lets -merge -useContext +onlyGivenNames x13
  have h14 : Keeps z x13 := State.raise_keeps (h9 _ (State.copyTarget_keeps h))
  clear_value x13
  exact Keeps.ite (State.raise_keeps h14) h14

theorem State.advanceStage_keeps {z s : State} (h : Keeps z s) : Keeps z (State.advanceStage s) := by
  unfold State.advanceStage
  split
  · exact Keeps.ite h (State.panelClear_keeps h)
  · exact Keeps.ite (Keeps.ite (State.panelCleared_keeps h) (State.setPnl_keeps h)) (Keeps.ite h (State.panelCleared_keeps h))
  · exact Keeps.ite (State.panelFinished_keeps h) h
  · exact Keeps.ite (State.fallRails_keeps h) (State.setPnl_keeps h)
  · exact h

theorem State.panelFrame_keeps {z s : State} {p1 : _} {p2 : _} (h : Keeps z s) : Keeps z (State.panelFrame s p1 p2) := by
  unfold State.panelFrame
  extract_lets -merge -useContext +onlyGivenNames x1 x2
  try clear_value x1
  have h3 : Keeps z x2 := State.setPnl_keeps h
  clear_value x2
  extract_lets -merge -useContext +onlyGivenNames x4
  have h5 : Keeps z x4 := State.roll_keeps h3
  clear_value x4
  extract_lets -merge -useContext +onlyGivenNames x6
  have h7 : Keeps z x6 := Keeps.ite (State.raise_keeps h5) h5
  clear_value x6
  extract_lets -merge -useContext +onlyGivenNames x8
  have h9 : Keeps z x8 := by
    unfold x8
    refine Keeps.ite ?_ h7
    split
    · rename_i y10 y11 e12
      have h13 : Keeps z y10 := KeepsP.of_eq e12 (State.readLines_keeps h7)
      exact State.bump_keeps h13
  clear_value x8
  extract_lets -merge -useContext +onlyGivenNames x14
  have h15 : Keeps z x14 := Keeps.ite (State.journalFrame_keeps (State.startUpdates_keeps h9)) h9
  clear_value x14
  extract_lets -merge -useContext +onlyGivenNames x16
  have h17 : Keeps z x16 := Keeps.foldl h15 fun _ h18 _ => State.advanceRegion_keeps h18
  clear_value x16
  exact State.showPanel_keeps (State.advanceStage_keeps h17)

theorem execPanelFrameStart_keeps {z s : State} {p0 : _} (h : Keeps z s) : KeepsR z (execPanelFrameStart p0 s) := by
  unfold execPanelFrameStart
  refine KeepsR.ite (KeepsR.next h) ?_
  split
  · exact KeepsR.next h
  · rename_i y3 y4 e5
    have h6 : Keeps z y3 := KeepsOP.of_eq e5 (State.firing_keeps h)
    exact KeepsR.ite (KeepsR.next (State.raise_keeps (State.bump_keeps h6))) (KeepsR.next (State.panelFrame_keeps h6))

theorem execPowerUp_keeps {z s : State} {p0 : _} {p1 : _} (h : Keeps z s) : KeepsR z (execPowerUp p0 p1 s) :=
  KeepsR.next (State.gated_keeps h (fun _ h1 => State.writePanelCtrl_keeps h1))

theorem execUpdGo_keeps {z s : State} {p0 : _} {p1 : _} (h : Keeps z s) : KeepsR z (execUpdGo p0 p1 s) :=
  KeepsR.next (State.gated_keeps h (fun _ h1 => Keeps.ite (State.submitUpdate_keeps h1) h1))

theorem State.loadPanel_keeps {z s : State} {p1 : _} (h : Keeps z s) : Keeps z (State.loadPanel s p1) := by
  unfold State.loadPanel
  extract_lets -merge -useContext +onlyGivenNames x1
  try clear_value x1
  extract_lets -merge -useContext +onlyGivenNames x2
  have h3 : Keeps z x2 := State.setNum_keeps (State.setNum_keeps h)
  clear_value x2
  extract_lets -merge -useContext +onlyGivenNames x4
  have h5 : Keeps z x4 := State.setFld_keeps h3
  clear_value x4
  split
  · exact h5
  · extract_lets -merge -useContext +onlyGivenNames x8
    try clear_value x8
    exact Keeps.ite h5 (State.stopPower_keeps (State.setPnl_keeps h5))

theorem execLightDelayExpiry_keeps {z s : State} (h : Keeps z s) : KeepsR z (execLightDelayExpiry s) := by
  unfold execLightDelayExpiry
  refine KeepsR.ite ?_ (KeepsR.next h)
  extract_lets -merge -useContext +onlyGivenNames x1
  have h2 : Keeps z x1 := State.panelWait_keeps h
  clear_value x1
  exact KeepsR.next (State.raise_keeps (State.setLit_keeps (State.setPower_keeps (State.setStage_keeps h2))))

theorem State.applyJournal_keeps {z s : State} {p1 : _} (h : Keeps z s) : Keeps z (State.applyJournal s p1) := by
  unfold State.applyJournal
  extract_lets -merge -useContext +onlyGivenNames x1 x2
  try clear_value x1
  have h3 : Keeps z x2 := State.setPnl_keeps h
  clear_value x2
  extract_lets -merge -useContext +onlyGivenNames x4
  try clear_value x4
  refine Keeps.ite h3 ?_
  refine Keeps.ite (State.setPnl_keeps h3) ?_
  extract_lets -merge -useContext +onlyGivenNames x5
  have h6 : Keeps z x5 := State.fillWhite_keeps (State.setFlag_keeps h3)
  clear_value x5
  exact State.setPnl_keeps h6

theorem execRailStep_keeps {z s : State} (h : Keeps z s) : KeepsR z (execRailStep s) := by
  unfold execRailStep
  refine KeepsR.ite (KeepsR.next h) ?_
  split
  · extract_lets -merge -useContext +onlyGivenNames x3
    have h4 : Keeps z x3 := State.panelWait_keeps h
    clear_value x3
    extract_lets -merge -useContext +onlyGivenNames x5 x6
    try clear_value x5
    have h7 : Keeps z x6 := State.setPnl_keeps h4
    clear_value x6
    exact KeepsR.next (Keeps.ite (State.showPanel_keeps (State.railsUp_keeps h7)) h7)
  · extract_lets -merge -useContext +onlyGivenNames x10
    have h11 : Keeps z x10 := State.panelWait_keeps h
    clear_value x10
    extract_lets -merge -useContext +onlyGivenNames x12 x13
    try clear_value x12
    have h14 : Keeps z x13 := State.setPnl_keeps h11
    clear_value x13
    exact KeepsR.next (Keeps.ite (State.showPanel_keeps (State.powerEnded_keeps h14)) h14)
  · exact KeepsR.next h

end Sys2Proof.Machine
end

