-- ==== Sys2Proof/Laws/KeepsG.lean ====
section
/-! SUPPORT. What each operation keeps, part 7: each lemma follows its definition's form. -/
namespace Sys2Proof.Machine

theorem State.loadJournal_keeps {z s : State} (h : Keeps z s) : Keeps z (State.loadJournal s) := by
  refine Keeps.by_eq (State.loadJournal.eq_1 ..) ?_
  split
  · exact h
  · exact State.applyJournal_keeps h

theorem State.completeTx_keeps {z s : State} {p1 : _} {p2 : _} {p3 : _} (h : Keeps z s) : Keeps z (State.completeTx s p1 p2 p3) := by
  unfold State.completeTx
  extract_lets -merge -useContext +onlyGivenNames x1
  try clear_value x1
  extract_lets -merge -useContext +onlyGivenNames x2
  try clear_value x2
  extract_lets -merge -useContext +onlyGivenNames x3
  try clear_value x3
  extract_lets -merge -useContext +onlyGivenNames x4
  try clear_value x4
  extract_lets -merge -useContext +onlyGivenNames x5
  have h6 : Keeps z x5 := Keeps.ite (State.charge_keeps h) h
  clear_value x5
  extract_lets -merge -useContext +onlyGivenNames x7
  have h8 : Keeps z x7 := State.dmaWrite_keeps h6
  clear_value x7
  extract_lets -merge -useContext +onlyGivenNames x9
  have h10 : Keeps z x9 := State.setNum_keeps h8
  clear_value x9
  exact Keeps.ite (State.raise_keeps h10) h10

theorem State.headPacket_keeps {z s u : State} {port vc c : Nat} (h : Keeps z s) (e : s.headPacket port vc = .error (u, c)) : Keeps z u := by
  unfold State.headPacket at e
  extract_lets at e
  split at e
  · simp only [Except.error.injEq, Prod.mk.injEq] at e
    obtain ⟨rfl, -⟩ := e
    exact State.engineError_keeps h
  · split at e
    · simp only [Except.error.injEq, Prod.mk.injEq] at e
      obtain ⟨rfl, -⟩ := e
      exact h
    · split at e
      · simp only [Except.error.injEq, Prod.mk.injEq] at e
        obtain ⟨rfl, -⟩ := e
        exact State.engineError_keeps h
      · simp only [reduceCtorEq] at e
theorem serveRing_keeps {z s : State} {port vc fuel : Nat} (h : Keeps z s) : Keeps z (serveRing port vc fuel s) := by
  induction fuel generalizing s with
  | zero => rw [serveRing]; exact h
  | succ n ih =>
    rw [serveRing]
    refine Keeps.ite h ?_
    split
    · rename_i e
      exact ih (State.completeTx_keeps (State.headPacket_keeps h e))
    · refine Keeps.ite (ih (State.completeTx_keeps (State.milOriginate_keeps h))) ?_
      split
      · rename_i e
        exact ih (State.completeTx_keeps (KeepsP.of_eq e (State.route_keeps h)))
      · rename_i e
        exact ih (State.completeTx_keeps (KeepsP.of_eq e (State.route_keeps h)))
      · rename_i e
        have k := KeepsP.of_eq e (State.route_keeps h)
        split
        · refine Keeps.ite (Keeps.ite ?_ k) (Keeps.ite ?_ k)
          · exact ih (State.completeTx_keeps (State.milRekey_keeps (State.milTransmit_keeps (State.setMilVc_keeps k))))
          · exact ih (State.milRekey_keeps (State.milTransmit_keeps (State.setMilVc_keeps k)))
        · exact Keeps.ite (ih (State.completeTx_keeps (State.milRekey_keeps (State.milTransmit_keeps k)))) k

theorem State.pumpLink_keeps {z s : State} {p1 : _} (h : Keeps z s) : Keeps z (State.pumpLink s p1) := by
  unfold State.pumpLink
  extract_lets -merge -useContext +onlyGivenNames x1
  have h2 : Keeps z x1 := Keeps.foldl h fun _ h3 _ => Keeps.foldl h3 fun _ h4 _ => serveRing_keeps h4
  clear_value x1
  refine Keeps.foldl h2 fun _ h5 _ => ?_
  extract_lets -merge -useContext +onlyGivenNames x6
  have h7 : Keeps z x6 := milPump_keeps h5
  clear_value x6
  extract_lets -merge -useContext +onlyGivenNames x8
  try clear_value x8
  exact Keeps.ite (State.setFlag_keeps h7) h7

theorem State.rerouteLink_keeps {z s : State} {p1 : _} (h : Keeps z s) : Keeps z (State.rerouteLink s p1) := by
  unfold State.rerouteLink
  extract_lets -merge -useContext +onlyGivenNames x1
  try clear_value x1
  refine Keeps.foldl (State.setMilVc_keeps (State.setMilLink_keeps h)) fun _ h2 _ => ?_
  extract_lets -merge -useContext +onlyGivenNames x3
  try clear_value x3
  extract_lets -merge -useContext +onlyGivenNames x4 x5
  try clear_value x4
  have h6 : Keeps z x5 := State.setMilVc_keeps h2
  clear_value x5
  refine Keeps.foldl h6 fun _ h7 _ => ?_
  refine Keeps.ite (State.milDrop_keeps (State.returnCredits_keeps h7)) ?_
  split
  · rename_i y8 y9 e10
    have h11 : Keeps z y8 := KeepsP.of_eq e10 (State.route_keeps h7)
    exact State.milSend_keeps h11
  · rename_i y12 y13 _ e14
    have h15 : Keeps z y12 := KeepsP.of_eq e14 (State.route_keeps h7)
    exact State.milDrop_keeps (State.returnCredits_keeps h15)

theorem State.linkTo_keeps {z s : State} {p1 : _} {p2 : _} (h : Keeps z s) : Keeps z (State.linkTo s p1 p2) := by
  unfold State.linkTo
  extract_lets -merge -useContext +onlyGivenNames x1
  try clear_value x1
  extract_lets -merge -useContext +onlyGivenNames x2
  have h3 : Keeps z x2 := State.setLinkState_keeps h
  clear_value x2
  extract_lets -merge -useContext +onlyGivenNames x4 x5
  try clear_value x4
  have h6 : Keeps z x5 := Keeps.ite h3 (State.setMilLink_keeps h3)
  clear_value x5
  exact Keeps.ite h6 (Keeps.ite (State.raise_keeps h6) (Keeps.ite (State.raise_keeps h6) h6))

theorem State.linkLost_keeps {z s : State} {p1 : _} (h : Keeps z s) : Keeps z (State.linkLost s p1) := by
  unfold State.linkLost
  refine Keeps.ite h ?_
  extract_lets -merge -useContext +onlyGivenNames x1 x2
  try clear_value x1
  have h3 : Keeps z x2 := State.setMilLink_keeps h
  clear_value x2
  exact State.pumpLink_keeps (State.rerouteLink_keeps (State.linkTo_keeps h3))

theorem State.trainLink_keeps {z s : State} {p1 : _} (h : Keeps z s) : Keeps z (State.trainLink s p1) := by
  unfold State.trainLink
  extract_lets -merge -useContext +onlyGivenNames x1 x2
  try clear_value x1
  have h3 : Keeps z x2 := State.setMilLink_keeps h
  clear_value x2
  exact Keeps.ite (State.linkTo_keeps h3) (State.linkTo_keeps h3)

theorem State.retrainLink_keeps {z s : State} {p1 : _} (h : Keeps z s) : Keeps z (State.retrainLink s p1) := by
  unfold State.retrainLink
  extract_lets -merge -useContext +onlyGivenNames x1
  have h2 : Keeps z x1 := State.raise_keeps (State.bump_keeps h)
  clear_value x1
  extract_lets -merge -useContext +onlyGivenNames x3
  have h4 : Keeps z x3 := State.blockEvent_keeps h2
  clear_value x3
  extract_lets -merge -useContext +onlyGivenNames x5
  try clear_value x5
  exact State.trainLink_keeps (State.setMilLink_keeps h4)

theorem State.freshLink_keeps {z s : State} {p1 : _} (h : Keeps z s) : Keeps z (State.freshLink s p1) := by
  unfold State.freshLink
  extract_lets -merge -useContext +onlyGivenNames x1
  have h2 : Keeps z x1 := State.setMilLink_keeps h
  clear_value x1
  extract_lets -merge -useContext +onlyGivenNames x3 x4
  try clear_value x3
  have h5 : Keeps z x4 := Keeps.foldl h2 fun _ h6 _ => State.showVc_keeps (State.setMilVc_keeps h6)
  clear_value x4
  exact State.trainLink_keeps h5

theorem State.creditsBack_keeps {z s : State} {p1 : _} {p2 : _} {p3 : _} {p4 : _} (h : Keeps z s) : Keeps z (State.creditsBack s p1 p2 p3 p4) := by
  unfold State.creditsBack
  extract_lets -merge -useContext +onlyGivenNames x1
  try clear_value x1
  extract_lets -merge -useContext +onlyGivenNames x2
  have h3 : Keeps z x2 := Keeps.ite (State.setMilLink_keeps h) h
  clear_value x2
  extract_lets -merge -useContext +onlyGivenNames x4
  try clear_value x4
  extract_lets -merge -useContext +onlyGivenNames x5
  have h6 : Keeps z x5 := State.showVc_keeps (State.setMilVc_keeps h3)
  clear_value x5
  exact State.pumpLink_keeps h6

theorem State.alignLink_keeps {z s : State} {p1 : _} (h : Keeps z s) : Keeps z (State.alignLink s p1) := by
  unfold State.alignLink
  refine Keeps.ite h ?_
  extract_lets -merge -useContext +onlyGivenNames x1
  have h2 : Keeps z x1 := State.linkTo_keeps h
  clear_value x1
  exact State.setMilLink_keeps (State.milManage_keeps h2)

theorem State.kxFails_keeps {z s : State} {p1 : _} {p2 : _} (h : Keeps z s) : Keeps z (State.kxFails s p1 p2) :=
  State.raise_keeps (State.setMilVc_keeps h)

theorem State.finishKx_keeps {z s : State} {p1 : _} {p2 : _} {p3 : _} {p4 : _} {p5 : _} (h : Keeps z s) : Keeps z (State.finishKx s p1 p2 p3 p4 p5) := by
  unfold State.finishKx
  extract_lets -merge -useContext +onlyGivenNames x1
  try clear_value x1
  extract_lets -merge -useContext +onlyGivenNames x2
  try clear_value x2
  extract_lets -merge -useContext +onlyGivenNames x3
  try clear_value x3
  split
  · exact State.kxFails_keeps h
  · refine Keeps.ite (State.kxFails_keeps h) ?_
    extract_lets -merge -useContext +onlyGivenNames x8
    try clear_value x8
    extract_lets -merge -useContext +onlyGivenNames x9
    try clear_value x9
    extract_lets -merge -useContext +onlyGivenNames x10
    try clear_value x10
    extract_lets -merge -useContext +onlyGivenNames x11
    try clear_value x11
    extract_lets -merge -useContext +onlyGivenNames x12
    try clear_value x12
    exact State.pumpLink_keeps (State.raise_keeps (State.showVc_keeps (State.setMilVc_keeps h)))

theorem State.takeKx_keeps {z s : State} {p1 : _} {p2 : _} (h : Keeps z s) : Keeps z (State.takeKx s p1 p2) := by
  unfold State.takeKx
  extract_lets -merge -useContext +onlyGivenNames x1
  try clear_value x1
  extract_lets -merge -useContext +onlyGivenNames x2
  try clear_value x2
  extract_lets -merge -useContext +onlyGivenNames x3
  try clear_value x3
  refine Keeps.ite h ?_
  split
  · refine Keeps.ite (State.finishKx_keeps h) ?_
    extract_lets -merge -useContext +onlyGivenNames x6
    try clear_value x6
    extract_lets -merge -useContext +onlyGivenNames x7 x8
    try clear_value x7
    have h9 : Keeps z x8 := h.same
    clear_value x8
    exact State.finishKx_keeps (State.milManage_keeps h9)
  · extract_lets -merge -useContext +onlyGivenNames x12
    try clear_value x12
    extract_lets -merge -useContext +onlyGivenNames x13 x14
    try clear_value x13
    have h15 : Keeps z x14 := h.same
    clear_value x14
    exact State.finishKx_keeps (State.milManage_keeps h15)

theorem State.writeMilCtrl_keeps {z s : State} {p1 : _} {p2 : _} (h : Keeps z s) : Keeps z (State.writeMilCtrl s p1 p2) := by
  unfold State.writeMilCtrl
  extract_lets -merge -useContext +onlyGivenNames x1
  try clear_value x1
  extract_lets -merge -useContext +onlyGivenNames x2
  have h3 : Keeps z x2 := State.setNum_keeps h
  clear_value x2
  refine Keeps.foldl h3 fun _ h4 _ => ?_
  extract_lets -merge -useContext +onlyGivenNames x5
  try clear_value x5
  exact Keeps.ite h4 (Keeps.ite (Keeps.ite h4 (State.linkTo_keeps (State.setMilLink_keeps h4))) (Keeps.ite (State.trainLink_keeps h4) h4))

theorem State.startLinks_keeps {z s : State} (h : Keeps z s) : Keeps z (State.startLinks s) :=
  Keeps.foldl h fun _ h1 _ => State.freshLink_keeps h1

theorem State.takeLinkInfo_keeps {z s : State} {p1 : _} {p2 : _} (h : Keeps z s) : Keeps z (State.takeLinkInfo s p1 p2) := by
  unfold State.takeLinkInfo
  extract_lets -merge -useContext +onlyGivenNames x1
  try clear_value x1
  extract_lets -merge -useContext +onlyGivenNames x2
  try clear_value x2
  refine Keeps.ite h ?_
  extract_lets -merge -useContext +onlyGivenNames x3 x4
  try clear_value x3
  have h5 : Keeps z x4 := State.setMilLink_keeps h
  clear_value x4
  extract_lets -merge -useContext +onlyGivenNames x6
  have h7 : Keeps z x6 := Keeps.ite (State.setFld_keeps h5) (State.setFld_keeps h5)
  clear_value x6
  refine Keeps.ite (Keeps.ite h7 (State.raise_keeps (State.linkTo_keeps h7))) ?_
  refine Keeps.ite h7 ?_
  extract_lets -merge -useContext +onlyGivenNames x8
  have h9 : Keeps z x8 := State.linkTo_keeps h7
  clear_value x8
  extract_lets -merge -useContext +onlyGivenNames x10 x11
  try clear_value x10
  have h12 : Keeps z x11 := h9.same
  clear_value x11
  extract_lets -merge -useContext +onlyGivenNames x13
  have h14 : Keeps z x13 := Keeps.foldl h12 fun _ h15 _ => State.send_keeps h15
  clear_value x13
  extract_lets -merge -useContext +onlyGivenNames x16
  have h17 : Keeps z x16 := Keeps.foldl h14 fun _ h18 _ => State.startKx_keeps h18
  clear_value x16
  exact State.pumpLink_keeps h17

theorem State.flushPort_keeps {z s : State} {p1 : _} (h : Keeps z s) : Keeps z (State.flushPort s p1) := by
  unfold State.flushPort
  refine Keeps.foldl h fun _ h1 _ => ?_
  extract_lets -merge -useContext +onlyGivenNames x2
  have h3 : Keeps z x2 := Keeps.foldl h1 fun _ h4 _ => State.completeTx_keeps h4
  clear_value x2
  exact State.setNum_keeps (State.setNum_keeps (State.setNum_keeps (State.setNum_keeps h3)))

theorem State.resendFrom_keeps {z s : State} {p1 : _} {p2 : _} (h : Keeps z s) : Keeps z (State.resendFrom s p1 p2) := by
  unfold State.resendFrom
  extract_lets -merge -useContext +onlyGivenNames x1
  try clear_value x1
  extract_lets -merge -useContext +onlyGivenNames x2
  try clear_value x2
  extract_lets -merge -useContext +onlyGivenNames x3
  try clear_value x3
  refine Keeps.ite (State.retrainLink_keeps h) ?_
  extract_lets -merge -useContext +onlyGivenNames x4
  have h5 : Keeps z x4 := State.setMilLink_keeps h
  clear_value x4
  extract_lets -merge -useContext +onlyGivenNames x6
  have h7 : Keeps z x6 := State.bump_keeps h5
  clear_value x6
  exact Keeps.foldl h7 fun _ h8 _ => State.send_keeps h8

theorem State.kxExpires_keeps {z s : State} {p1 : _} {p2 : _} (h : Keeps z s) : Keeps z (State.kxExpires s p1 p2) := by
  unfold State.kxExpires
  extract_lets -merge -useContext +onlyGivenNames x1
  try clear_value x1
  exact Keeps.ite h (Keeps.ite (State.kxFails_keeps (State.elapse_keeps h)) (Keeps.ite (State.startKx_keeps (State.elapse_keeps h)) h))

theorem State.completeEth_keeps {z s : State} {p1 : _} {p2 : _} (h : Keeps z s) : Keeps z (State.completeEth s p1 p2) := by
  unfold State.completeEth
  extract_lets -merge -useContext +onlyGivenNames x1
  try clear_value x1
  extract_lets -merge -useContext +onlyGivenNames x2
  try clear_value x2
  extract_lets -merge -useContext +onlyGivenNames x3
  try clear_value x3
  extract_lets -merge -useContext +onlyGivenNames x4
  have h5 : Keeps z x4 := State.dmaWrite_keeps h
  clear_value x4
  extract_lets -merge -useContext +onlyGivenNames x6
  have h7 : Keeps z x6 := State.setNum_keeps h5
  clear_value x6
  exact Keeps.ite (State.raise_keeps h7) h7

theorem serveEth_keeps {z s : State} {p0 : _} {p1 : _} (h : Keeps z s) : Keeps z (serveEth p0 p1 s) := by
  induction p1 generalizing s p0 with
  | zero =>
    rw [serveEth]
    exact h
  | succ n ih =>
    rw [serveEth]
    refine Keeps.ite h ?_
    extract_lets -merge -useContext +onlyGivenNames x1
    try clear_value x1
    extract_lets -merge -useContext +onlyGivenNames x2
    try clear_value x2
    extract_lets -merge -useContext +onlyGivenNames x3
    try clear_value x3
    extract_lets -merge -useContext +onlyGivenNames x4
    try clear_value x4
    exact Keeps.ite (ih (State.completeEth_keeps (State.engineError_keeps h))) (Keeps.ite (ih (State.completeEth_keeps h)) (Keeps.ite (ih (State.completeEth_keeps (State.engineError_keeps h))) (ih (State.completeEth_keeps (State.send_keeps (State.charge_keeps h))))))

theorem State.pumpEth_keeps {z s : State} {p1 : _} (h : Keeps z s) : Keeps z (State.pumpEth s p1) :=
  serveEth_keeps h

theorem execEthLinkChange_keeps {z s : State} {p0 : _} {p1 : _} {p2 : _} (h : Keeps z s) : KeepsR z (execEthLinkChange p0 p1 p2 s) := by
  unfold execEthLinkChange
  extract_lets -merge -useContext +onlyGivenNames x1
  try clear_value x1
  refine KeepsR.ite (KeepsR.next h) ?_
  extract_lets -merge -useContext +onlyGivenNames x2
  try clear_value x2
  extract_lets -merge -useContext +onlyGivenNames x3
  try clear_value x3
  extract_lets -merge -useContext +onlyGivenNames x4
  try clear_value x4
  exact KeepsR.ite (KeepsR.next h) (KeepsR.next (State.pumpEth_keeps (State.raise_keeps (State.setFlag_keeps (State.setNum_keeps h)))))

theorem State.fillEth_keeps {z s : State} {p1 : _} {p2 : _} {p3 : _} (h : Keeps z s) : KeepsO z (State.fillEth s p1 p2 p3) := by
  unfold State.fillEth
  extract_lets -merge -useContext +onlyGivenNames x1
  try clear_value x1
  extract_lets -merge -useContext +onlyGivenNames x2
  try clear_value x2
  refine KeepsO.ite KeepsO.none ?_
  extract_lets -merge -useContext +onlyGivenNames x3
  try clear_value x3
  extract_lets -merge -useContext +onlyGivenNames x4
  try clear_value x4
  extract_lets -merge -useContext +onlyGivenNames x5
  try clear_value x5
  extract_lets -merge -useContext +onlyGivenNames x6
  have h7 : Keeps z x6 := Keeps.ite (State.poke_keeps (State.charge_keeps h)) (State.engineError_keeps h)
  clear_value x6
  extract_lets -merge -useContext +onlyGivenNames x8
  have h9 : Keeps z x8 := State.dmaWrite_keeps h7
  clear_value x8
  extract_lets -merge -useContext +onlyGivenNames x10
  have h11 : Keeps z x10 := State.setNum_keeps h9
  clear_value x10
  exact KeepsO.some (Keeps.ite (State.raise_keeps h11) h11)

theorem drainEth_keeps {z s : State} {p0 : _} {p1 : _} (h : Keeps z s) : Keeps z (drainEth p0 p1 s) := by
  induction p1 generalizing s p0 with
  | zero =>
    rw [drainEth]
    exact h
  | succ n ih =>
    rw [drainEth]
    split
    · exact h
    · split
      · exact h
      · rename_i y8 e9
        have h10 : Keeps z y8 := KeepsO.of_eq e9 (State.fillEth_keeps h)
        exact ih h10.same

theorem State.ringEth_keeps {z s : State} {p1 : _} {p2 : _} (h : Keeps z s) : Keeps z (State.ringEth s p1 p2) := by
  unfold State.ringEth
  extract_lets -merge -useContext +onlyGivenNames x1 x2
  try clear_value x1
  have h3 : Keeps z x2 := h.same
  clear_value x2
  exact drainEth_keeps h3

theorem execEthFrame_keeps {z s : State} {p0 : _} {p1 : _} {p2 : _} (h : Keeps z s) : KeepsR z (execEthFrame p0 p1 p2 s) := by
  unfold execEthFrame
  extract_lets -merge -useContext +onlyGivenNames x1
  try clear_value x1
  extract_lets -merge -useContext +onlyGivenNames x2
  try clear_value x2
  extract_lets -merge -useContext +onlyGivenNames x3
  try clear_value x3
  refine KeepsR.ite (KeepsR.next h) ?_
  refine KeepsR.ite (KeepsR.next (State.bump_keeps h)) ?_
  refine KeepsR.ite (KeepsR.next (State.bump_keeps h)) ?_
  refine KeepsR.ite (KeepsR.next (State.bump_keeps h)) ?_
  extract_lets -merge -useContext +onlyGivenNames x4
  have h5 : ∀ w9, Keeps z w9 → ∀ w10, Keeps z (x4 w9 w10) := by
    intro y7 h6 a8
    unfold x4
    exact Keeps.ite (State.ringEth_keeps h6) h6
  clear_value x4
  split
  · exact KeepsR.ite (KeepsR.next (h5 _ h _)) (KeepsR.next (h5 _ (State.takePtp_keeps h) _))
  · split
    · exact KeepsR.ite (KeepsR.next (h5 _ (State.fusEth_keeps h) _)) (KeepsR.next (h5 _ h _))
    · exact KeepsR.next (h5 _ h _)

theorem execEthMdio_keeps {z s : State} {p0 : _} {p1 : _} {p2 : _} (h : Keeps z s) : KeepsR z (execEthMdio p0 p1 p2 s) := by
  unfold execEthMdio
  refine KeepsR.next (State.gated_keeps h (fun _ h1 => ?_))
  extract_lets -merge -useContext +onlyGivenNames x2
  try clear_value x2
  refine Keeps.ite ?_ (State.setReg_keeps h1)
  extract_lets -merge -useContext +onlyGivenNames x3
  have h4 : Keeps z x3 := State.send_keeps h1
  clear_value x3
  extract_lets -merge -useContext +onlyGivenNames x5
  try clear_value x5
  exact State.raise_keeps (State.setNum_keeps h4)

theorem State.flushEth_keeps {z s : State} {p1 : _} (h : Keeps z s) : Keeps z (State.flushEth s p1) := by
  unfold State.flushEth
  extract_lets -merge -useContext +onlyGivenNames x1
  have h2 : Keeps z x1 := Keeps.foldl h fun _ h3 _ => State.completeEth_keeps h3
  clear_value x1
  exact State.setNum_keeps (State.setNum_keeps (State.setNum_keeps (State.setNum_keeps h2)))

theorem execEthTxTail_keeps {z s : State} {p0 : _} {p1 : _} {p2 : _} (h : Keeps z s) : KeepsR z (execEthTxTail p0 p1 p2 s) :=
  KeepsR.next (State.gated_keeps h (fun _ h1 => State.pumpEth_keeps (State.setNum_keeps h1)))

theorem execEthClear_keeps {z s : State} {p0 : _} {p1 : _} (h : Keeps z s) : KeepsR z (execEthClear p0 p1 s) :=
  KeepsR.next (State.gated_keeps h (fun _ h1 => Keeps.ite (Keeps.foldl h1 fun _ h2 _ => State.setNum_keeps h2) h1))

theorem State.loadEth_keeps {z s : State} {p0 : _} {p2 : _} (h : Keeps z s) : Keeps z (State.loadEth p0 s p2) := by
  unfold State.loadEth
  extract_lets -merge -useContext +onlyGivenNames x1
  try clear_value x1
  extract_lets -merge -useContext +onlyGivenNames x2
  try clear_value x2
  extract_lets -merge -useContext +onlyGivenNames x3 x4 x5
  try clear_value x3
  try clear_value x4
  have h6 : Keeps z x5 := by
    unfold x5
    split
    · refine Keeps.ite h ?_
      extract_lets -merge -useContext +onlyGivenNames x8
      have h9 : Keeps z x8 := h.same
      clear_value x8
      extract_lets -merge -useContext +onlyGivenNames x10
      have h11 : Keeps z x10 := State.flushEth_keeps h9
      clear_value x10
      exact h11.same
    · exact h
  clear_value x5
  exact Keeps.ite (State.setNum_keeps h6) (Keeps.ite h6 (State.setFld_keeps h6))

theorem State.enablePort_keeps {z s : State} {p0 : _} {p2 : _} (h : Keeps z s) : Keeps z (State.enablePort p0 s p2) := by
  unfold State.enablePort
  extract_lets -merge -useContext +onlyGivenNames x1
  have h2 : Keeps z x1 := State.setFlag_keeps (State.setFlag_keeps h)
  clear_value x1
  exact Keeps.ite h2 (Keeps.foldl h2 fun _ h3 _ => Keeps.ite (State.trainLink_keeps h3) h3)

theorem State.retuneVc_keeps {z s : State} {p0 : _} {p2 : _} {p3 : _} (h : Keeps z s) : Keeps z (State.retuneVc p0 s p2 p3) := by
  unfold State.retuneVc
  extract_lets -merge -useContext +onlyGivenNames x1
  try clear_value x1
  extract_lets -merge -useContext +onlyGivenNames x2
  have h3 : Keeps z x2 := State.showVc_keeps (State.setMilVc_keeps h)
  clear_value x2
  exact Keeps.ite (State.startKx_keeps h3) h3

theorem State.loadMil_keeps {z s : State} {p1 : _} (h : Keeps z s) : Keeps z (State.loadMil s p1) := by
  unfold State.loadMil
  split
  · exact Keeps.foldl h fun _ h2 _ => State.enablePort_keeps h2
  · extract_lets -merge -useContext +onlyGivenNames x4
    have h5 : Keeps z x4 := by
      unfold x4
      refine Keeps.foldl h fun _ h6 _ => ?_
      refine Keeps.ite h6 ?_
      extract_lets -merge -useContext +onlyGivenNames x7
      try clear_value x7
      extract_lets -merge -useContext +onlyGivenNames x8 x9
      try clear_value x8
      have h10 : Keeps z x9 := h6.same
      clear_value x9
      extract_lets -merge -useContext +onlyGivenNames x11
      have h12 : Keeps z x11 := State.flushPort_keeps h10
      clear_value x11
      exact h12.same
    clear_value x4
    extract_lets -merge -useContext +onlyGivenNames x13
    have h14 : Keeps z x13 := Keeps.foldl h5 fun _ h15 _ => Keeps.foldl h15 fun _ h16 _ => State.retuneVc_keeps h16
    clear_value x13
    extract_lets -merge -useContext +onlyGivenNames x17
    have h18 : Keeps z x17 := Keeps.foldl h14 fun _ h19 _ => State.enablePort_keeps h19
    clear_value x17
    exact Keeps.foldl h18 fun _ h20 _ => State.pumpLink_keeps h20

theorem State.loadPort_keeps {z s : State} {p0 : _} {p2 : _} (h : Keeps z s) : Keeps z (State.loadPort p0 s p2) := by
  unfold State.loadPort
  extract_lets -merge -useContext +onlyGivenNames x1
  have h2 : Keeps z x1 := State.setFld_keeps h
  clear_value x1
  extract_lets -merge -useContext +onlyGivenNames x3
  try clear_value x3
  exact Keeps.ite h2 (State.setPortState_keeps (State.setPtpPort_keeps h2))

theorem State.loadPorts_keeps {z s : State} {p1 : _} (h : Keeps z s) : Keeps z (State.loadPorts s p1) :=
  Keeps.foldl h fun _ h1 _ => State.loadPort_keeps h1

theorem State.loadHosts_keeps {z s : State} (h : Keeps z s) : Keeps z (State.loadHosts s) := by
  unfold State.loadHosts
  extract_lets -merge -useContext +onlyGivenNames x1
  try clear_value x1
  extract_lets -merge -useContext +onlyGivenNames x2
  try clear_value x2
  exact State.setNum_keeps (State.setNum_keeps h)

theorem State.canMode_keeps {z s : State} {p1 : _} {p2 : _} (h : Keeps z s) : Keeps z (State.canMode s p1 p2) := by
  unfold State.canMode
  extract_lets -merge -useContext +onlyGivenNames x1 x2 x3 x4
  try clear_value x1
  have h5 : Keeps z x2 := State.bump_keeps h
  clear_value x2
  try clear_value x3
  have h6 : Keeps z x4 := Keeps.ite h5.same h
  clear_value x4
  exact State.setFlag_keeps h6

theorem State.loadCan_keeps {z s : State} {p1 : _} (h : Keeps z s) : Keeps z (State.loadCan s p1) := by
  unfold State.loadCan
  extract_lets -merge -useContext +onlyGivenNames x1
  try clear_value x1
  extract_lets -merge -useContext +onlyGivenNames x2
  try clear_value x2
  extract_lets -merge -useContext +onlyGivenNames x3
  try clear_value x3
  extract_lets -merge -useContext +onlyGivenNames x4
  try clear_value x4
  extract_lets -merge -useContext +onlyGivenNames x5
  have h6 : Keeps z x5 := State.setFlag_keeps (State.canMode_keeps h)
  clear_value x5
  extract_lets -merge -useContext +onlyGivenNames x7
  have h8 : Keeps z x7 := State.setFld_keeps h6
  clear_value x7
  extract_lets -merge -useContext +onlyGivenNames x9
  have h10 : Keeps z x9 := State.setNum_keeps (State.setNum_keeps h8)
  clear_value x9
  exact Keeps.foldl h10 fun _ h11 _ => Keeps.foldl h11 fun _ h12 _ => State.setNum_keeps h12

theorem State.loadGpios_keeps {z s : State} (h : Keeps z s) : Keeps z (State.loadGpios s) := by
  unfold State.loadGpios
  refine Keeps.foldl h fun _ h1 _ => ?_
  extract_lets -merge -useContext +onlyGivenNames x2
  try clear_value x2
  refine Keeps.ite ?_ h1
  extract_lets -merge -useContext +onlyGivenNames x3
  try clear_value x3
  extract_lets -merge -useContext +onlyGivenNames x4
  have h5 : Keeps z x4 := State.setFlag_keeps h1
  clear_value x4
  exact Keeps.ite h5 (State.setFlag_keeps h5)

theorem State.loadPins_keeps {z s : State} (h : Keeps z s) : Keeps z (State.loadPins s) := by
  unfold State.loadPins
  extract_lets -merge -useContext +onlyGivenNames x1
  try clear_value x1
  extract_lets -merge -useContext +onlyGivenNames x2
  have h3 : Keeps z x2 := Keeps.foldl h fun _ h4 _ => State.setNum_keeps h4
  clear_value x2
  extract_lets -merge -useContext +onlyGivenNames x5
  try clear_value x5
  extract_lets -merge -useContext +onlyGivenNames x6
  have h7 : Keeps z x6 := State.setFlag_keeps (State.setFld_keeps (State.setFld_keeps h3))
  clear_value x6
  extract_lets -merge -useContext +onlyGivenNames x8
  have h9 : Keeps z x8 := Keeps.foldl (State.loadGpios_keeps h7) fun _ h10 _ => State.followBall_keeps h10
  clear_value x8
  exact Keeps.foldl h9 fun _ h11 _ => Keeps.ite h11 (State.reportBank_keeps h11)

theorem State.loadLink_keeps {z s : State} {p1 : _} (h : Keeps z s) : Keeps z (State.loadLink s p1) := by
  unfold State.loadLink
  extract_lets -merge -useContext +onlyGivenNames x1
  have h2 : Keeps z x1 := Keeps.foldl (State.loadMil_keeps h) fun _ h3 _ => State.loadEth_keeps h3
  clear_value x1
  extract_lets -merge -useContext +onlyGivenNames x4
  have h5 : Keeps z x4 := State.loadPorts_keeps (State.loadHosts_keeps (Keeps.foldl h2 fun _ h6 _ => State.loadCan_keeps h6))
  clear_value x4
  extract_lets -merge -useContext +onlyGivenNames x7
  have h8 : Keeps z x7 := State.loadPanel_keeps h5
  clear_value x7
  exact Keeps.ite (Keeps.foldl (State.loadGpios_keeps h8) fun _ h9 _ => State.followBall_keeps h9) (State.loadPins_keeps h8)

theorem State.redriveLatch_keeps {z s : State} (h : Keeps z s) : Keeps z (State.redriveLatch s) :=
  Keeps.foldl h fun _ h1 _ => Keeps.ite (State.latchOutput_keeps h1) h1

theorem State.loadHinge_keeps {z s : State} (h : Keeps z s) : Keeps z (State.loadHinge s) := by
  unfold State.loadHinge
  extract_lets -merge -useContext +onlyGivenNames x1
  try clear_value x1
  extract_lets -merge -useContext +onlyGivenNames x2
  have h3 : Keeps z x2 := State.setFld_keeps (State.setFld_keeps (State.setFld_keeps h))
  clear_value x2
  extract_lets -merge -useContext +onlyGivenNames x4
  have h5 : Keeps z x4 := State.setNum_keeps (State.setNum_keeps h3)
  clear_value x4
  extract_lets -merge -useContext +onlyGivenNames x6
  have h7 : Keeps z x6 := State.setNum_keeps h5
  clear_value x6
  extract_lets -merge -useContext +onlyGivenNames x8
  have h9 : Keeps z x8 := State.setNum_keeps h7
  clear_value x8
  extract_lets -merge -useContext +onlyGivenNames x10
  have h11 : Keeps z x10 := State.setNum_keeps h9
  clear_value x10
  extract_lets -merge -useContext +onlyGivenNames x12
  have h13 : Keeps z x12 := Keeps.foldl h11 fun _ h14 _ => Keeps.ite (State.setNum_keeps h14) h14
  clear_value x12
  exact h13.same

theorem State.loadChannel_keeps {z s : State} {p1 : _} (h : Keeps z s) : Keeps z (State.loadChannel s p1) := by
  unfold State.loadChannel
  refine Keeps.ite ?_ h
  extract_lets -merge -useContext +onlyGivenNames x1
  have h2 : Keeps z x1 := State.setFld_keeps (State.setFlag_keeps h)
  clear_value x1
  exact State.latchOutput_keeps h2

theorem State.loadLatch_keeps {z s : State} (h : Keeps z s) : Keeps z (State.loadLatch s) := by
  unfold State.loadLatch
  extract_lets -merge -useContext +onlyGivenNames x1
  have h2 : Keeps z x1 := State.setNum_keeps (State.setFld_keeps h)
  clear_value x1
  exact Keeps.foldl h2 fun _ h3 _ => State.loadChannel_keeps h3

theorem State.loadWard_keeps {z s : State} (h : Keeps z s) : Keeps z (State.loadWard s) := by
  unfold State.loadWard
  extract_lets -merge -useContext +onlyGivenNames x1
  have h2 : Keeps z x1 := Keeps.foldl h fun _ h3 _ => State.setNum_keeps h3
  clear_value x1
  extract_lets -merge -useContext +onlyGivenNames x4
  have h5 : Keeps z x4 := State.setFlag_keeps h2
  clear_value x4
  extract_lets -merge -useContext +onlyGivenNames x6
  try clear_value x6
  exact State.setFld_keeps h5.same

theorem State.loadPower_keeps {z s : State} (h : Keeps z s) : Keeps z (State.loadPower s) := by
  unfold State.loadPower
  extract_lets -merge -useContext +onlyGivenNames x1
  try clear_value x1
  extract_lets -merge -useContext +onlyGivenNames x2
  have h3 : Keeps z x2 := State.setFlag_keeps (State.setFlag_keeps h)
  clear_value x2
  exact State.setFlag_keeps (State.setFld_keeps h3)

theorem State.loadDomain_keeps {z s : State} (h : Keeps z s) : Keeps z (State.loadDomain s) :=
  State.setFlag_keeps (State.setFlag_keeps h)

theorem State.loadKeep_keeps {z s : State} (h : Keeps z s) : Keeps z (State.loadKeep s) :=
  State.loadHinge_keeps (State.loadLatch_keeps (State.loadWard_keeps (State.loadPower_keeps (State.loadDomain_keeps h))))

theorem State.loadGenerations_keeps {z s : State} {p1 : _} {p2 : _} (h : Keeps z s) : Keeps z (State.loadGenerations s p1 p2) := by
  unfold State.loadGenerations
  extract_lets -merge -useContext +onlyGivenNames x1
  have h2 : Keeps z x1 := State.setNum_keeps h
  clear_value x1
  extract_lets -merge -useContext +onlyGivenNames x3
  have h4 : Keeps z x3 := Keeps.foldl h2 fun _ h5 _ => State.setNum_keeps h5
  clear_value x3
  exact Keeps.foldl h4 fun _ h6 _ => State.setNum_keeps h6

theorem State.returnSpindle_keeps {z s : State} {p1 : _} (h : Keeps z s) : Keeps z (State.returnSpindle s p1) :=
  Keeps.ite h (State.setSpinFlag_keeps (State.setSpin_keeps h))

theorem State.restartSense_keeps {z s : State} (h : Keeps z s) : Keeps z (State.restartSense s) := by
  unfold State.restartSense
  extract_lets -merge -useContext +onlyGivenNames x1
  have h2 : Keeps z x1 := Keeps.foldl (State.setFld_keeps h) fun _ h3 _ => State.returnSpindle_keeps h3
  clear_value x1
  extract_lets -merge -useContext +onlyGivenNames x4
  try clear_value x4
  extract_lets -merge -useContext +onlyGivenNames x5 x6
  try clear_value x5
  have h7 : Keeps z x6 := h2.same
  clear_value x6
  exact State.metRestore_keeps (State.clearFusion_keeps (State.loadSense_keeps h7))

theorem State.loadRegion_keeps {z s : State} {p1 : _} {p2 : _} (h : Keeps z s) : Keeps z (State.loadRegion s p1 p2) :=
  Keeps.ite (State.loadControl_keeps h) (Keeps.ite (State.loadSolve_keeps h) (Keeps.ite (State.loadSense_keeps h) (State.loadLink_keeps h)))

theorem State.restartControl_keeps {z s : State} (h : Keeps z s) : Keeps z (State.restartControl s) := by
  unfold State.restartControl
  extract_lets -merge -useContext +onlyGivenNames x1
  have h2 : Keeps z x1 := h.same
  clear_value x1
  extract_lets -merge -useContext +onlyGivenNames x3
  have h4 : Keeps z x3 := State.emptyMailboxes_keeps (State.loadControl_keeps (State.setFld_keeps h2))
  clear_value x3
  exact Keeps.ite h4 (Keeps.foldl h4 fun _ h5 _ => Keeps.ite h5 (State.stopProgram_keeps h5))

theorem State.restartSolve_keeps {z s : State} (h : Keeps z s) : Keeps z (State.restartSolve s) := by
  unfold State.restartSolve
  extract_lets -merge -useContext +onlyGivenNames x1
  have h2 : Keeps z x1 := State.loadSolve_keeps h.same
  clear_value x1
  exact Keeps.foldl h2 fun _ h3 _ => State.clearWarm_keeps h3

theorem State.restartLink_keeps {z s : State} (h : Keeps z s) : Keeps z (State.restartLink s) := by
  unfold State.restartLink
  extract_lets -merge -useContext +onlyGivenNames x1
  have h2 : Keeps z x1 := State.loadLink_keeps h.same
  clear_value x1
  extract_lets -merge -useContext +onlyGivenNames x3
  have h4 : Keeps z x3 := State.loadJournal_keeps (State.redriveLatch_keeps (State.startLinks_keeps h2))
  clear_value x3
  exact Keeps.ite (State.startPower_keeps h4) h4

theorem State.readmit_keeps {z s : State} {p1 : _} (h : Keeps z s) : Keeps z (State.readmit s p1) := by
  unfold State.readmit
  extract_lets -merge -useContext +onlyGivenNames x1
  have h2 : Keeps z x1 := State.setFlag_keeps (State.setFlag_keeps (State.resetRegion_keeps h))
  clear_value x1
  extract_lets -merge -useContext +onlyGivenNames x3 x4
  try clear_value x3
  have h5 : Keeps z x4 := Keeps.ite (State.restartControl_keeps h2) (Keeps.ite (State.restartSolve_keeps h2) (Keeps.ite (State.restartSense_keeps h2) (State.restartLink_keeps h2.same)))
  clear_value x4
  exact State.raise_keeps (State.adpTakeRegion_keeps h5)

theorem execReadmitDone_keeps {z s : State} {p0 : _} {p1 : _} (h : Keeps z s) : KeepsR z (execReadmitDone p0 p1 s) := by
  unfold execReadmitDone
  refine KeepsR.ite (KeepsR.next h) ?_
  extract_lets -merge -useContext +onlyGivenNames x1
  have h2 : Keeps z x1 := State.readmit_keeps h
  clear_value x1
  refine KeepsR.next ?_
  split
  · exact State.fence_keeps h2
  · exact h2

theorem State.withPatch_keeps {z s : State} {p1 : _} {p2 : _} (h : Keeps z s) : Keeps z (State.withPatch s p1 p2) :=
  h.same

theorem State.applyPatch_keeps {z s : State} {p1 : _} {p2 : _} {p3 : _} (h : Keeps z s) : Keeps z (State.applyPatch s p1 p2 p3) := by
  unfold State.applyPatch
  extract_lets -merge -useContext +onlyGivenNames x1
  try clear_value x1
  extract_lets -merge -useContext +onlyGivenNames x2
  have h3 : Keeps z x2 := State.setFlag_keeps h
  clear_value x2
  extract_lets -merge -useContext +onlyGivenNames x4
  have h5 : Keeps z x4 := State.loadRegion_keeps (State.withPatch_keeps h3)
  clear_value x4
  extract_lets -merge -useContext +onlyGivenNames x6
  have h7 : Keeps z x6 := State.setFlag_keeps (State.elapse_keeps h5)
  clear_value x6
  extract_lets -merge -useContext +onlyGivenNames x8
  have h9 : Keeps z x8 := State.setNum_keeps h7
  clear_value x8
  exact State.raise_keeps (State.finishPatch_keeps h9)

theorem execPatchApply_keeps {z s : State} {p0 : _} (h : Keeps z s) : KeepsR z (execPatchApply p0 s) := by
  unfold execPatchApply
  split
  · exact KeepsR.next h
  · split
    · exact KeepsR.next h
    · exact KeepsR.next (Keeps.ite (State.applyPatch_keeps h) h)

theorem execQuiesceTimeout_keeps {z s : State} {p0 : _} (h : Keeps z s) : KeepsR z (execQuiesceTimeout p0 s) := by
  unfold execQuiesceTimeout
  split
  · exact KeepsR.next h
  · refine KeepsR.ite (KeepsR.next h) ?_
    extract_lets -merge -useContext +onlyGivenNames x5
    try clear_value x5
    extract_lets -merge -useContext +onlyGivenNames x6
    have h7 : Keeps z x6 := State.elapse_keeps h
    clear_value x6
    exact KeepsR.next (Keeps.ite h7 (State.finishPatch_keeps h7))

theorem execUnfence_keeps {z s : State} {p0 : _} {p1 : _} (h : Keeps z s) : KeepsR z (execUnfence p0 p1 s) :=
  KeepsR.next (State.gated_keeps h (fun _ h1 => Keeps.foldl h1 fun _ h2 _ => Keeps.ite (State.setFlag_keeps h2) h2))

theorem State.applyCle_keeps {z s : State} {p1 : _} (h : Keeps z s) : Keeps z (State.applyCle s p1) := by
  unfold State.applyCle
  extract_lets -merge -useContext +onlyGivenNames x1
  have h2 : Keeps z x1 := Keeps.foldl h fun _ h3 _ => State.setNum_keeps h3
  clear_value x1
  refine Keeps.foldl h2 fun _ h4 _ => ?_
  extract_lets -merge -useContext +onlyGivenNames x5
  try clear_value x5
  extract_lets -merge -useContext +onlyGivenNames x6
  have h7 : Keeps z x6 := Keeps.foldl h4 fun _ h8 _ => State.setNum_keeps h8
  clear_value x6
  extract_lets -merge -useContext +onlyGivenNames x9
  try clear_value x9
  exact State.setCleLoop_keeps h7

theorem State.applyTsk_keeps {z s : State} {p1 : _} (h : Keeps z s) : Keeps z (State.applyTsk s p1) := by
  unfold State.applyTsk
  extract_lets -merge -useContext +onlyGivenNames x1
  have h2 : Keeps z x1 := Keeps.foldl h fun _ h3 _ => State.setNum_keeps h3
  clear_value x1
  extract_lets -merge -useContext +onlyGivenNames x4
  try clear_value x4
  refine Keeps.foldl h2 fun _ h5 _ => ?_
  extract_lets -merge -useContext +onlyGivenNames x6
  try clear_value x6
  extract_lets -merge -useContext +onlyGivenNames x7 x8
  try clear_value x7
  have h9 : Keeps z x8 := State.setTask_keeps h5
  clear_value x8
  exact State.showTask_keeps (State.setFlag_keeps (State.setFld_keeps h9))

theorem State.applyPrf_keeps {z s : State} {p1 : _} (h : Keeps z s) : Keeps z (State.applyPrf s p1) := by
  unfold State.applyPrf
  refine Keeps.foldl h fun _ h1 _ => ?_
  extract_lets -merge -useContext +onlyGivenNames x2
  try clear_value x2
  extract_lets -merge -useContext +onlyGivenNames x3
  try clear_value x3
  exact Keeps.ite (State.setNum_keeps (State.restoreAxis_keeps h1)) h1

theorem State.applyFed_keeps {z s : State} {p1 : _} (h : Keeps z s) : Keeps z (State.applyFed s p1) := by
  unfold State.applyFed
  extract_lets -merge -useContext +onlyGivenNames x1
  have h2 : Keeps z x1 := Keeps.foldl h fun _ h3 _ => State.setNum_keeps h3
  clear_value x1
  refine Keeps.foldl h2 fun _ h4 _ => ?_
  extract_lets -merge -useContext +onlyGivenNames x5
  try clear_value x5
  extract_lets -merge -useContext +onlyGivenNames x6
  have h7 : Keeps z x6 := State.setNum_keeps h4
  clear_value x6
  exact h7.same

theorem State.applyItem_keeps {z s : State} {p1 : _} {p2 : _} {p3 : _} (h : Keeps z s) : Keeps z (State.applyItem s p1 p2 p3) := by
  unfold State.applyItem
  split
  · exact State.engineWrite_keeps h
  · exact State.engineWrite_keeps h
  · exact State.applyTsk_keeps h
  · exact State.applyCle_keeps h
  · exact State.applyPrf_keeps h
  · exact State.applyFed_keeps h

theorem State.applyItems_keeps {z s : State} {p0 : _} {p1 : _} {p2 : _} (h : Keeps z s) : Keeps z (State.applyItems p0 p1 p2 s) := by
  induction p1 generalizing s p0 p2 with
  | nil =>
    rw [State.applyItems]
    exact h
  | cons y r ih =>
    rw [State.applyItems]
    exact ih (State.applyItem_keeps h)

theorem State.skipCut_keeps {z s : State} (h : Keeps z s) : Keeps z (State.skipCut s) :=
  State.raise_keeps (State.countHinge_keeps (State.setHinge_keeps h))

theorem execCutSkipped_keeps {z s : State} (h : Keeps z s) : KeepsR z (execCutSkipped s) := by
  unfold execCutSkipped
  split
  · exact KeepsR.next h
  · exact KeepsR.next (State.skipCut_keeps (State.elapse_keeps h))

theorem State.takeCut_keeps {z s : State} (h : Keeps z s) : Keeps z (State.takeCut s) := by
  unfold State.takeCut
  extract_lets -merge -useContext +onlyGivenNames x1
  have h2 : Keeps z x1 := State.setNum_keeps h
  clear_value x1
  extract_lets -merge -useContext +onlyGivenNames x3
  try clear_value x3
  extract_lets -merge -useContext +onlyGivenNames x4
  try clear_value x4
  extract_lets -merge -useContext +onlyGivenNames x5
  try clear_value x5
  extract_lets -merge -useContext +onlyGivenNames x6
  have h7 : Keeps z x6 := by
    unfold x6
    refine Keeps.foldl h2 fun _ h8 _ => ?_
    split
    · exact Keeps.foldl h8 fun _ h11 _ => State.milOriginate_keeps h11
    · exact h8
  clear_value x6
  exact State.setHinge_keeps h7

theorem execCut_keeps {z s : State} (h : Keeps z s) : KeepsR z (execCut s) := by
  unfold execCut
  split
  · exact KeepsR.next h
  · exact KeepsR.ite (KeepsR.next h) (KeepsR.ite (KeepsR.next (State.skipCut_keeps h)) (KeepsR.next (State.takeCut_keeps h)))

theorem State.discardCheckpoint_keeps {z s : State} (h : Keeps z s) : Keeps z (State.discardCheckpoint s) :=
  State.raise_keeps (State.setHinge_keeps h)

theorem State.storeCheckpoint_keeps {z s : State} {p1 : _} {p2 : _} (h : Keeps z s) : Keeps z (State.storeCheckpoint s p1 p2) := by
  unfold State.storeCheckpoint
  extract_lets -merge -useContext +onlyGivenNames x1
  try clear_value x1
  extract_lets -merge -useContext +onlyGivenNames x2
  try clear_value x2
  extract_lets -merge -useContext +onlyGivenNames x3
  try clear_value x3
  extract_lets -merge -useContext +onlyGivenNames x4
  try clear_value x4
  refine Keeps.ite (State.discardCheckpoint_keeps h) ?_
  refine Keeps.ite (State.raise_keeps (State.bump_keeps (State.discardCheckpoint_keeps h))) ?_
  refine Keeps.ite (State.discardCheckpoint_keeps h) ?_
  extract_lets -merge -useContext +onlyGivenNames x5
  try clear_value x5
  extract_lets -merge -useContext +onlyGivenNames x6
  have h7 : Keeps z x6 := State.engineWrite_keeps h
  clear_value x6
  extract_lets -merge -useContext +onlyGivenNames x8
  try clear_value x8
  extract_lets -merge -useContext +onlyGivenNames x9
  try clear_value x9
  extract_lets -merge -useContext +onlyGivenNames x10 x11
  try clear_value x10
  have h12 : Keeps z x11 := h7.same
  clear_value x11
  extract_lets -merge -useContext +onlyGivenNames x13
  try clear_value x13
  exact State.tell_keeps (State.setFlag_keeps (State.setHinge_keeps h12))

theorem State.receiveCheckpoint_keeps {z s : State} {p1 : _} (h : Keeps z s) : Keeps z (State.receiveCheckpoint s p1) := by
  unfold State.receiveCheckpoint
  extract_lets -merge -useContext +onlyGivenNames x1
  try clear_value x1
  extract_lets -merge -useContext +onlyGivenNames x2
  try clear_value x2
  extract_lets -merge -useContext +onlyGivenNames x3
  try clear_value x3
  extract_lets -merge -useContext +onlyGivenNames x4
  try clear_value x4
  extract_lets -merge -useContext +onlyGivenNames x5
  try clear_value x5
  extract_lets -merge -useContext +onlyGivenNames x6
  try clear_value x6
  refine Keeps.ite h ?_
  refine Keeps.ite ?_ ?_
  · extract_lets -merge -useContext +onlyGivenNames x7
    have h8 : Keeps z x7 := Keeps.ite (State.discardCheckpoint_keeps h) h
    clear_value x7
    extract_lets -merge -useContext +onlyGivenNames x9
    try clear_value x9
    extract_lets -merge -useContext +onlyGivenNames x10
    try clear_value x10
    exact Keeps.ite (State.discardCheckpoint_keeps h8) (State.setHinge_keeps (State.engineWrite_keeps h8))
  · split
    · exact h
    · exact Keeps.ite (State.discardCheckpoint_keeps h) (Keeps.ite (State.setHinge_keeps (State.engineWrite_keeps h)) (Keeps.ite (State.storeCheckpoint_keeps h) h))

theorem execCheckpointPacket_keeps {z s : State} {p0 : _} (h : Keeps z s) : KeepsR z (execCheckpointPacket p0 s) :=
  KeepsR.next (State.receiveCheckpoint_keeps h)

theorem State.applyStored_keeps {z s : State} {p1 : _} (h : Keeps z s) : Keeps z (State.applyStored s p1) := by
  unfold State.applyStored
  extract_lets -merge -useContext +onlyGivenNames x1
  have h2 : Keeps z x1 := State.applyItems_keeps h
  clear_value x1
  extract_lets -merge -useContext +onlyGivenNames x3 x4
  try clear_value x3
  have h5 : Keeps z x4 := State.setHinge_keeps h2
  clear_value x4
  exact State.setNum_keeps (State.setFlag_keeps h5)

theorem State.finishApply_keeps {z s : State} (h : Keeps z s) : Keeps z (State.finishApply s) := by
  unfold State.finishApply
  split
  · exact Keeps.ite h (State.applyStored_keeps (State.elapse_keeps h))
  · exact h

theorem execCheckpointApply_keeps {z s : State} (h : Keeps z s) : KeepsR z (execCheckpointApply s) :=
  KeepsR.next (Keeps.ite (State.tell_keeps (State.finishApply_keeps h)) h)

theorem execCheckpointSent_keeps {z s : State} (h : Keeps z s) : KeepsR z (execCheckpointSent s) :=
  KeepsR.next (Keeps.ite (State.setHinge_keeps h) h)

theorem execCheckpointStale_keeps {z s : State} (h : Keeps z s) : KeepsR z (execCheckpointStale s) := by
  unfold execCheckpointStale
  split
  · refine KeepsR.ite ?_ (KeepsR.next h)
    extract_lets -merge -useContext +onlyGivenNames x4
    try clear_value x4
    exact KeepsR.next (State.tell_keeps (State.elapse_keeps h))
  · exact KeepsR.next h

theorem State.fedResumes_keeps {z s : State} (h : Keeps z s) : Keeps z (State.fedResumes s) :=
  Keeps.ite h h.same

theorem State.placeInitially_keeps {z s : State} (h : Keeps z s) : Keeps z (State.placeInitially s) := by
  unfold State.placeInitially
  extract_lets -merge -useContext +onlyGivenNames x1
  try clear_value x1
  extract_lets -merge -useContext +onlyGivenNames x2
  have h3 : Keeps z x2 := Keeps.ite h (State.coldPlace_keeps h)
  clear_value x2
  exact Keeps.foldl h3 fun _ h4 _ => State.engineWrite_keeps h4

theorem State.dropControlFirings_keeps {z s : State} (h : Keeps z s) : Keeps z (State.dropControlFirings s) := by
  unfold State.dropControlFirings
  extract_lets -merge -useContext +onlyGivenNames x1
  try clear_value x1
  exact h.same

theorem State.takeControl_keeps {z s : State} (h : Keeps z s) : Keeps z (State.takeControl s) := by
  unfold State.takeControl
  extract_lets -merge -useContext +onlyGivenNames x1
  have h2 : Keeps z x1 := State.cancelLathes_keeps (State.finishApply_keeps h)
  clear_value x1
  extract_lets -merge -useContext +onlyGivenNames x3
  try clear_value x3
  extract_lets -merge -useContext +onlyGivenNames x4
  have h5 : Keeps z x4 := Keeps.ite (State.abandonInjection_keeps (State.dropProof_keeps h2)) h2
  clear_value x4
  extract_lets -merge -useContext +onlyGivenNames x6
  have h7 : Keeps z x6 := State.takeClaim_keeps h5
  clear_value x6
  refine Keeps.ite (State.tell_keeps h7) ?_
  extract_lets -merge -useContext +onlyGivenNames x8
  have h9 : Keeps z x8 := State.raise_keeps (State.countHinge_keeps h7)
  clear_value x8
  extract_lets -merge -useContext +onlyGivenNames x10
  have h11 : Keeps z x10 := Keeps.ite (State.loadControl_keeps h9) (Keeps.ite (State.fedResumes_keeps h9) h9)
  clear_value x10
  extract_lets -merge -useContext +onlyGivenNames x12
  have h13 : Keeps z x12 := State.emptyMailboxes_keeps (State.adpTakeover_keeps (State.placeInitially_keeps (State.cleTakeover_keeps h11)))
  clear_value x12
  extract_lets -merge -useContext +onlyGivenNames x14
  have h15 : Keeps z x14 := Keeps.foldl h13 fun _ h16 _ => State.setAxis_keeps h16
  clear_value x14
  extract_lets -merge -useContext +onlyGivenNames x17
  have h18 : Keeps z x17 := State.dropControlFirings_keeps (State.selfRefresh_keeps h15)
  clear_value x17
  extract_lets -merge -useContext +onlyGivenNames x19 x20
  try clear_value x19
  have h21 : Keeps z x20 := State.setHinge_keeps h18
  clear_value x20
  exact State.tell_keeps (State.dispatchAll_keeps (State.showCores_keeps (State.setMode_keeps h21)))

theorem execTakeover_keeps {z s : State} (h : Keeps z s) : KeepsR z (execTakeover s) := by
  unfold execTakeover
  refine KeepsR.ite (KeepsR.next h) ?_
  extract_lets -merge -useContext +onlyGivenNames x1
  try clear_value x1
  extract_lets -merge -useContext +onlyGivenNames x2
  have h3 : Keeps z x2 := Keeps.ite h (State.elapse_keeps h)
  clear_value x2
  exact KeepsR.next (Keeps.ite (State.takeControl_keeps h3) h3)

theorem State.takeWaiting_keeps {z s : State} {p1 : _} {p2 : _} (h : Keeps z s) : Keeps z (State.takeWaiting s p1 p2) := by
  unfold State.takeWaiting
  extract_lets -merge -useContext +onlyGivenNames x1
  try clear_value x1
  extract_lets -merge -useContext +onlyGivenNames x2
  try clear_value x2
  exact h.same

theorem State.sweepInstant_keeps {z s : State} {p1 : _} (h : Keeps z s) : Keeps z (State.sweepInstant s p1) := by
  unfold State.sweepInstant
  split
  · refine Keeps.ite h ?_
    extract_lets -merge -useContext +onlyGivenNames x4
    have h5 : Keeps z x4 := State.takeWaiting_keeps h
    clear_value x4
    exact Keeps.ite h5 (State.startSweep_keeps h5)
  · exact h

theorem State.dropServed_keeps {z s : State} {p1 : _} {p2 : _} (h : Keeps z s) : Keeps z (State.dropServed s p1 p2) :=
  h.same

theorem State.beginFinal_keeps {z s : State} {p1 : _} (h : Keeps z s) : Keeps z (State.beginFinal s p1) := by
  unfold State.beginFinal
  split
  · exact State.endHandover_keeps h
  · exact Keeps.ite (State.setHinge_keeps h) (State.endHandover_keeps h)

theorem State.cutFiring_keeps {z s : State} {p1 : _} {p2 : _} (h : Keeps z s) : Keeps z (State.cutFiring s p1 p2) := by
  unfold State.cutFiring
  refine Keeps.ite h ?_
  extract_lets -merge -useContext +onlyGivenNames x1
  have h2 : Keeps z x1 := Keeps.ite (State.releasePended_keeps (State.endHandover_keeps h)) h
  clear_value x1
  extract_lets -merge -useContext +onlyGivenNames x3
  try clear_value x3
  refine Keeps.ite (State.setHinge_keeps h2) ?_
  extract_lets -merge -useContext +onlyGivenNames x4
  have h5 : Keeps z x4 := Keeps.ite (State.skipCut_keeps h2) h2
  clear_value x4
  extract_lets -merge -useContext +onlyGivenNames x6 x7
  try clear_value x6
  have h8 : Keeps z x7 := State.setHinge_keeps h5
  clear_value x7
  refine State.tell_keeps ?_
  split
  · exact State.beginFinal_keeps h8
  · exact h8

theorem State.commitInstant_keeps {z s : State} {p1 : _} (h : Keeps z s) : Keeps z (State.commitInstant s p1) :=
  Keeps.foldl (State.commitsAt_keeps h) fun _ h1 _ => State.cutFiring_keeps h1

theorem State.taskInstant_keeps {z s : State} {p1 : _} {p2 : _} (h : Keeps z s) : Keeps z (State.taskInstant s p1 p2) := by
  unfold State.taskInstant
  extract_lets -merge -useContext +onlyGivenNames x1
  try clear_value x1
  extract_lets -merge -useContext +onlyGivenNames x2
  try clear_value x2
  extract_lets -merge -useContext +onlyGivenNames x3
  try clear_value x3
  extract_lets -merge -useContext +onlyGivenNames x4
  have h5 : Keeps z x4 := State.sweepInstant_keeps (State.commitInstant_keeps (State.takeWaiting_keeps h))
  clear_value x4
  exact Keeps.ite h5 (State.releaseAll_keeps h5)

theorem execTaskRelease_keeps {z s : State} {p0 : _} {p1 : _} (h : Keeps z s) : KeepsR z (execTaskRelease p0 p1 s) := by
  unfold execTaskRelease
  extract_lets -merge -useContext +onlyGivenNames x1
  try clear_value x1
  extract_lets -merge -useContext +onlyGivenNames x2
  try clear_value x2
  refine KeepsR.ite (KeepsR.next (State.dropServed_keeps h)) ?_
  split
  · extract_lets -merge -useContext +onlyGivenNames x6 x7
    try clear_value x6
    have h8 : Keeps z x7 := h.same
    clear_value x7
    exact KeepsR.next (Keeps.ite h8 (State.taskInstant_keeps h8))
  · refine KeepsR.ite (KeepsR.next h) ?_
    split
    · exact KeepsR.next h
    · rename_i y13 y14 e15
      have h16 : Keeps z y13 := KeepsOP.of_eq e15 (State.firing_keeps h)
      exact KeepsR.next (State.taskInstant_keeps h16)

end Sys2Proof.Machine
end

