-- ==== Sys2Proof/Laws/KeepsH.lean ====
section
/-! SUPPORT. What each operation keeps, part 8: each lemma follows its definition's form. -/
namespace Sys2Proof.Machine

theorem execAbandoned_keeps {z s : State} (h : Keeps z s) : KeepsR z (execAbandoned s) := by
  unfold execAbandoned
  extract_lets -merge -useContext +onlyGivenNames x1
  try clear_value x1
  extract_lets -merge -useContext +onlyGivenNames x2
  try clear_value x2
  extract_lets -merge -useContext +onlyGivenNames x3
  try clear_value x3
  refine KeepsR.ite (KeepsR.next h) ?_
  split
  · exact KeepsR.next h
  · rename_i y6 y7 e8
    have h9 : Keeps z y6 := KeepsOP.of_eq e8 (State.firing_keeps h)
    exact KeepsR.ite (KeepsR.next (State.taskInstant_keeps h9)) (KeepsR.next (State.setHinge_keeps h9))

theorem State.loseRole_keeps {z s : State} (h : Keeps z s) : Keeps z (State.loseRole s) := by
  unfold State.loseRole
  refine Keeps.ite (State.enterStandby_keeps h) ?_
  refine State.tell_keeps ?_
  extract_lets -merge -useContext +onlyGivenNames x1
  have h2 : Keeps z x1 := State.withdrawClaim_keeps h
  clear_value x1
  exact h2.same

theorem State.depose_keeps {z s : State} (h : Keeps z s) : Keeps z (State.depose s) :=
  State.raise_keeps (State.loseRole_keeps h)

theorem State.takeStatus_keeps {z s : State} {p1 : _} {p2 : _} (h : Keeps z s) : Keeps z (State.takeStatus s p1 p2) := by
  unfold State.takeStatus
  extract_lets -merge -useContext +onlyGivenNames x1
  have h2 : Keeps z x1 := State.knowEpoch_keeps h
  clear_value x1
  extract_lets -merge -useContext +onlyGivenNames x3 x4
  try clear_value x3
  have h5 : Keeps z x4 := Keeps.ite (State.setHinge_keeps h2) h2
  clear_value x4
  exact Keeps.ite (State.depose_keeps h5) h5

theorem State.receiveStatus_keeps {z s : State} {p1 : _} {p2 : _} (h : Keeps z s) : Keeps z (State.receiveStatus s p1 p2) :=
  Keeps.ite (Keeps.foldl h fun _ h1 _ => State.takeStatus_keeps h1) h

theorem State.losePeer_keeps {z s : State} {p1 : _} (h : Keeps z s) : Keeps z (State.losePeer s p1) :=
  State.tell_keeps (State.raise_keeps (State.blockEvent_keeps (State.countHinge_keeps (State.setFlag_keeps h))))

theorem State.commitsBefore_keeps {z s : State} {p1 : _} (h : Keeps z s) : Keeps z (State.commitsBefore s p1) := by
  unfold State.commitsBefore
  refine Keeps.ite h ?_
  extract_lets -merge -useContext +onlyGivenNames x1
  try clear_value x1
  extract_lets -merge -useContext +onlyGivenNames x2
  try clear_value x2
  extract_lets -merge -useContext +onlyGivenNames x3 x4
  try clear_value x3
  have h5 : Keeps z x4 := h.same
  clear_value x4
  exact State.commitInstant_keeps h5

theorem execPeerLost_keeps {z s : State} {p0 : _} (h : Keeps z s) : KeepsR z (execPeerLost p0 s) := by
  unfold execPeerLost
  extract_lets -merge -useContext +onlyGivenNames x1
  try clear_value x1
  refine KeepsR.ite (KeepsR.next h) ?_
  extract_lets -merge -useContext +onlyGivenNames x2
  try clear_value x2
  exact KeepsR.next (State.losePeer_keeps (State.elapse_keeps h))

theorem execFinalTake_keeps {z s : State} (h : Keeps z s) : KeepsR z (execFinalTake s) := by
  unfold execFinalTake
  split
  · exact KeepsR.next h
  · refine KeepsR.ite (KeepsR.next h) ?_
    extract_lets -merge -useContext +onlyGivenNames x5
    have h6 : Keeps z x5 := State.finishApply_keeps h
    clear_value x5
    refine KeepsR.ite (KeepsR.next (State.tell_keeps h6)) ?_
    extract_lets -merge -useContext +onlyGivenNames x7
    have h8 : Keeps z x7 := State.takeControl_keeps h6
    clear_value x7
    exact KeepsR.next (Keeps.ite h8 (State.releasePended_keeps (State.releaseAll_keeps h8)))

theorem execHealthWrite_keeps {z s : State} {p0 : _} {p1 : _} (h : Keeps z s) : KeepsR z (execHealthWrite p0 p1 s) :=
  KeepsR.next (State.gated_keeps h (fun _ h1 => State.tell_keeps (State.setFlag_keeps (State.setHinge_keeps h1))))

theorem execRevertReq_keeps {z s : State} (h : Keeps z s) : KeepsR z (execRevertReq s) := by
  unfold execRevertReq
  extract_lets -merge -useContext +onlyGivenNames x1
  try clear_value x1
  split
  · exact KeepsR.next h
  · refine KeepsR.ite (KeepsR.next h) ?_
    extract_lets -merge -useContext +onlyGivenNames x6
    have h7 : Keeps z x6 := State.tell_keeps (State.elapse_keeps h)
    clear_value x6
    exact KeepsR.next (Keeps.ite (State.tell_keeps (State.setHinge_keeps h7)) h7)

theorem State.noteHeartbeat_keeps {z s : State} {p1 : _} {p2 : _} {p3 : _} (h : Keeps z s) : Keeps z (State.noteHeartbeat s p1 p2 p3) := by
  unfold State.noteHeartbeat
  extract_lets -merge -useContext +onlyGivenNames x1
  try clear_value x1
  extract_lets -merge -useContext +onlyGivenNames x2
  try clear_value x2
  extract_lets -merge -useContext +onlyGivenNames x3
  try clear_value x3
  extract_lets -merge -useContext +onlyGivenNames x4
  have h5 : Keeps z x4 := State.setPeer_keeps h
  clear_value x4
  extract_lets -merge -useContext +onlyGivenNames x6
  try clear_value x6
  exact State.setNum_keeps (State.setNum_keeps (State.setNum_keeps h5))

theorem State.wantHandover_keeps {z s : State} {p1 : _} {p2 : _} (h : Keeps z s) : Keeps z (State.wantHandover s p1 p2) := by
  unfold State.wantHandover
  split
  · exact State.setHinge_keeps h
  · exact State.setHinge_keeps h

theorem State.takeHeartbeat_keeps {z s : State} {p1 : _} {p2 : _} {p3 : _} (h : Keeps z s) : Keeps z (State.takeHeartbeat s p1 p2 p3) := by
  unfold State.takeHeartbeat
  extract_lets -merge -useContext +onlyGivenNames x1
  try clear_value x1
  extract_lets -merge -useContext +onlyGivenNames x2
  have h3 : Keeps z x2 := State.knowEpoch_keeps (State.noteHeartbeat_keeps h)
  clear_value x2
  extract_lets -merge -useContext +onlyGivenNames x4
  have h5 : Keeps z x4 := Keeps.ite (State.raise_keeps h3) h3
  clear_value x4
  extract_lets -merge -useContext +onlyGivenNames x6
  try clear_value x6
  extract_lets -merge -useContext +onlyGivenNames x7 x8 x9
  try clear_value x7
  try clear_value x8
  have h10 : Keeps z x9 := Keeps.ite (Keeps.ite (State.setHinge_keeps h5) (State.setHinge_keeps h5)) h5
  clear_value x9
  extract_lets -merge -useContext +onlyGivenNames x11
  try clear_value x11
  refine Keeps.ite (Keeps.ite (State.loseRole_keeps (State.endHandover_keeps h10)) (State.depose_keeps h10)) ?_
  extract_lets -merge -useContext +onlyGivenNames x12
  have h13 : Keeps z x12 := Keeps.ite (State.wantHandover_keeps h10) h10
  clear_value x12
  exact State.tell_keeps h13

theorem State.receiveHeartbeat_keeps {z s : State} {p1 : _} {p2 : _} (h : Keeps z s) : Keeps z (State.receiveHeartbeat s p1 p2) := by
  unfold State.receiveHeartbeat
  extract_lets -merge -useContext +onlyGivenNames x1
  try clear_value x1
  refine Keeps.ite h ?_
  split
  · exact h
  · exact State.takeHeartbeat_keeps h

theorem execTaskCommit_keeps {z s : State} {p0 : _} {p1 : _} (h : Keeps z s) : KeepsR z (execTaskCommit p0 p1 s) := by
  unfold execTaskCommit
  extract_lets -merge -useContext +onlyGivenNames x1
  try clear_value x1
  extract_lets -merge -useContext +onlyGivenNames x2
  try clear_value x2
  refine KeepsR.ite (KeepsR.next (Keeps.ite (State.dropServed_keeps h) h)) ?_
  refine KeepsR.ite (KeepsR.next h) ?_
  split
  · exact KeepsR.next h
  · rename_i y5 y6 e7
    have h8 : Keeps z y5 := KeepsOP.of_eq e7 (State.firing_keeps h)
    extract_lets -merge -useContext +onlyGivenNames x9
    have h10 : Keeps z x9 := State.commitInstant_keeps h8
    clear_value x9
    exact KeepsR.next (Keeps.ite h10 h10.same)

theorem execSweepStart_keeps {z s : State} (h : Keeps z s) : KeepsR z (execSweepStart s) := by
  unfold execSweepStart
  extract_lets -merge -useContext +onlyGivenNames x1
  try clear_value x1
  refine KeepsR.ite (KeepsR.next (State.dropServed_keeps h)) ?_
  refine KeepsR.ite (KeepsR.next h) ?_
  split
  · exact KeepsR.next h
  · rename_i y4 y5 e6
    have h7 : Keeps z y4 := KeepsOP.of_eq e6 (State.firing_keeps h)
    extract_lets -merge -useContext +onlyGivenNames x8
    have h9 : Keeps z x8 := State.commitsBefore_keeps h7
    clear_value x8
    exact KeepsR.next (Keeps.ite h9 (State.startSweep_keeps h9))

theorem execHeartbeat_keeps {z s : State} {p0 : _} {p1 : _} (h : Keeps z s) : KeepsR z (execHeartbeat p0 p1 s) :=
  KeepsR.next (State.receiveHeartbeat_keeps h)

theorem execLatchStatus_keeps {z s : State} {p0 : _} {p1 : _} (h : Keeps z s) : KeepsR z (execLatchStatus p0 p1 s) :=
  KeepsR.next (State.receiveStatus_keeps h)

theorem execHeartbeatSend_keeps {z s : State} (h : Keeps z s) : KeepsR z (execHeartbeatSend s) :=
  KeepsR.next (Keeps.ite (State.sendHeartbeats_keeps (State.elapse_keeps h)) h)

theorem State.fedTick_keeps {z s : State} {p1 : _} (h : Keeps z s) : KeepsP z (State.fedTick s p1) := by
  unfold State.fedTick
  refine KeepsP.ite (KeepsP.mk h) ?_
  refine KeepsP.ite (KeepsP.mk (Keeps.ite (State.fedDrop_keeps h) h)) ?_
  refine KeepsP.ite (KeepsP.mk h) ?_
  extract_lets -merge -useContext +onlyGivenNames x1
  have h2 : KeepsP z x1 := KeepsP.ite (State.parentClaim_keeps h) (KeepsP.mk h)
  clear_value x1
  exact KeepsP.mk (Keeps.ite (State.seeRound_keeps (KeepsP.fst h2)) (KeepsP.fst h2))

theorem State.fedMessage_keeps {z s : State} {p1 : _} {p2 : _} (h : Keeps z s) : Keeps z (State.fedMessage s p1 p2) := by
  unfold State.fedMessage
  extract_lets -merge -useContext +onlyGivenNames x1
  try clear_value x1
  refine Keeps.ite ?_ (Keeps.ite h (Keeps.ite (State.receiveDown_keeps h) (Keeps.ite (Keeps.ite (State.receiveUp_keeps h) h) (Keeps.ite (State.receivePlan_keeps h) (Keeps.ite (State.receiveAreaDown_keeps h) (Keeps.ite (Keeps.ite (State.receiveAreaUp_keeps h) h) (State.receiveAreaPlan_keeps h)))))))
  extract_lets -merge -useContext +onlyGivenNames x2
  have h3 : KeepsP z x2 := State.fedTick_keeps h
  clear_value x2
  exact Keeps.ite (Keeps.foldl (KeepsP.fst h3) fun _ h4 _ => State.roundStep_keeps h4) (KeepsP.fst h3)

theorem execMilClear_keeps {z s : State} {p0 : _} {p1 : _} {p2 : _} (h : Keeps z s) : KeepsR z (execMilClear p0 p1 p2 s) := by
  unfold execMilClear
  extract_lets -merge -useContext +onlyGivenNames x1
  try clear_value x1
  exact KeepsR.next (State.gated_keeps h (fun _ h2 => Keeps.ite (Keeps.foldl h2 fun _ h3 _ => State.setNum_keeps h3) h2))

theorem State.latchFrameIn_keeps {z s : State} {p1 : _} {p2 : _} (h : Keeps z s) : Keeps z (State.latchFrameIn s p1 p2) :=
  Keeps.ite (State.receiveCommand_keeps h) (Keeps.ite (State.receiveWithdraw_keeps h) (Keeps.ite (State.receiveStatus_keeps h) h))

theorem State.fillMil_keeps {z s : State} {p1 : _} {p2 : _} {p3 : _} {p4 : _} (h : Keeps z s) : KeepsO z (State.fillMil s p1 p2 p3 p4) := by
  unfold State.fillMil
  extract_lets -merge -useContext +onlyGivenNames x1
  try clear_value x1
  extract_lets -merge -useContext +onlyGivenNames x2
  try clear_value x2
  refine KeepsO.ite KeepsO.none ?_
  extract_lets -merge -useContext +onlyGivenNames x3
  try clear_value x3
  extract_lets -merge -useContext +onlyGivenNames x4
  try clear_value x4
  extract_lets -merge -useContext +onlyGivenNames x5
  try clear_value x5
  extract_lets -merge -useContext +onlyGivenNames x6
  try clear_value x6
  extract_lets -merge -useContext +onlyGivenNames x7
  have h8 : Keeps z x7 := Keeps.ite (State.poke_keeps (State.charge_keeps h)) (State.engineError_keeps h)
  clear_value x7
  extract_lets -merge -useContext +onlyGivenNames x9
  have h10 : Keeps z x9 := State.dmaWrite_keeps h8
  clear_value x9
  extract_lets -merge -useContext +onlyGivenNames x11
  have h12 : Keeps z x11 := State.setNum_keeps h10
  clear_value x11
  exact KeepsO.some (Keeps.ite (State.raise_keeps h12) h12)

theorem drainHeld_keeps {z s : State} {p0 : _} {p1 : _} {p2 : _} {p3 : _} (h : Keeps z s) : Keeps z (drainHeld p0 p1 p2 p3 s) := by
  induction p1 generalizing s p0 p2 p3 with
  | nil =>
    rw [drainHeld]
    exact State.setMilLink_keeps h
  | cons y r ih =>
    rw [drainHeld]
    refine Keeps.ite (ih h) ?_
    split
    · rename_i y1 e2
      have h3 : Keeps z y1 := KeepsO.of_eq e2 (State.fillMil_keeps h)
      exact ih (State.returnCredits_keeps h3)
    · exact ih h

theorem State.drainLink_keeps {z s : State} {p1 : _} (h : Keeps z s) : Keeps z (State.drainLink s p1) :=
  drainHeld_keeps h

theorem State.ringMil_keeps {z s : State} {p1 : _} {p2 : _} {p3 : _} (h : Keeps z s) : Keeps z (State.ringMil s p1 p2 p3) := by
  unfold State.ringMil
  extract_lets -merge -useContext +onlyGivenNames x1
  try clear_value x1
  exact State.drainLink_keeps (State.setMilLink_keeps h)

theorem State.offerPacket_keeps {z s : State} {p1 : _} {p2 : _} {p3 : _} (h : Keeps z s) : Keeps z (State.offerPacket s p1 p2 p3) := by
  unfold State.offerPacket
  extract_lets -merge -useContext +onlyGivenNames x1
  try clear_value x1
  extract_lets -merge -useContext +onlyGivenNames x2
  try clear_value x2
  extract_lets -merge -useContext +onlyGivenNames x3
  try clear_value x3
  extract_lets -merge -useContext +onlyGivenNames x4
  try clear_value x4
  extract_lets -merge -useContext +onlyGivenNames x5
  try clear_value x5
  extract_lets -merge -useContext +onlyGivenNames x6
  try clear_value x6
  extract_lets -merge -useContext +onlyGivenNames x7
  try clear_value x7
  extract_lets -merge -useContext +onlyGivenNames x8
  try clear_value x8
  extract_lets -merge -useContext +onlyGivenNames x9
  have h10 : Keeps z x9 := Keeps.ite (State.fusMilio_keeps h) h
  clear_value x9
  extract_lets -merge -useContext +onlyGivenNames x11
  have h12 : Keeps z x11 := Keeps.ite (State.takeWaveform_keeps h10) h10
  clear_value x11
  extract_lets -merge -useContext +onlyGivenNames x13
  have h14 : Keeps z x13 := Keeps.ite (State.latchFrameIn_keeps h12) h12
  clear_value x13
  exact Keeps.ite (State.ringMil_keeps h14) (State.returnCredits_keeps h14)

theorem State.deliverPacket_keeps {z s : State} {p1 : _} {p2 : _} {p3 : _} (h : Keeps z s) : Keeps z (State.deliverPacket s p1 p2 p3) := by
  unfold State.deliverPacket
  refine Keeps.ite ?_ (Keeps.ite (State.returnCredits_keeps (State.fedMessage_keeps h)) (State.offerPacket_keeps h))
  extract_lets -merge -useContext +onlyGivenNames x1
  have h2 : Keeps z x1 := Keeps.ite (State.receiveHeartbeat_keeps h) (State.receiveCheckpoint_keeps h)
  clear_value x1
  exact State.returnCredits_keeps h2

theorem State.switchPacket_keeps {z s : State} {p1 : _} {p2 : _} {p3 : _} (h : Keeps z s) : Keeps z (State.switchPacket s p1 p2 p3) := by
  unfold State.switchPacket
  extract_lets -merge -useContext +onlyGivenNames x1
  try clear_value x1
  refine Keeps.ite ?_ ?_
  · extract_lets -merge -useContext +onlyGivenNames x2
    try clear_value x2
    extract_lets -merge -useContext +onlyGivenNames x3
    try clear_value x3
    extract_lets -merge -useContext +onlyGivenNames x4
    have h5 : Keeps z x4 := Keeps.foldl h fun _ h6 _ => State.milDrop_keeps h6
    clear_value x4
    extract_lets -merge -useContext +onlyGivenNames x7
    have h8 : Keeps z x7 := State.deliverPacket_keeps h5
    clear_value x7
    exact Keeps.foldl h8 fun _ h9 _ => State.milSend_keeps h9
  · refine Keeps.ite (State.deliverPacket_keeps h) ?_
    refine Keeps.ite (State.returnCredits_keeps (State.milDrop_keeps h)) ?_
    split
    · rename_i y10 y11 e12
      have h13 : Keeps z y10 := KeepsP.of_eq e12 (State.route_keeps h)
      exact Keeps.ite (State.returnCredits_keeps (State.milDrop_keeps h13)) (State.milSend_keeps h13)
    · rename_i y14 y15 _ e16
      have h17 : Keeps z y14 := KeepsP.of_eq e16 (State.route_keeps h)
      exact State.returnCredits_keeps (State.milDrop_keeps h17)

theorem State.manage_keeps {z s : State} {p1 : _} {p2 : _} (h : Keeps z s) : Keeps z (State.manage s p1 p2) := by
  unfold State.manage
  extract_lets -merge -useContext +onlyGivenNames x1
  have h2 : Keeps z x1 := Keeps.ite (State.takeLinkInfo_keeps h) (Keeps.ite (State.takeKx_keeps h) h)
  clear_value x1
  exact State.returnCredits_keeps h2

theorem State.acceptPacket_keeps {z s : State} {p1 : _} {p2 : _} {p3 : _} {p4 : _} (h : Keeps z s) : Keeps z (State.acceptPacket s p1 p2 p3 p4) := by
  unfold State.acceptPacket
  extract_lets -merge -useContext +onlyGivenNames x1
  try clear_value x1
  extract_lets -merge -useContext +onlyGivenNames x2
  have h3 : Keeps z x2 := State.linkSymbol_keeps (State.setMilLink_keeps h)
  clear_value x2
  exact Keeps.ite (State.manage_keeps h3) (Keeps.ite (State.switchPacket_keeps h3) (State.returnCredits_keeps h3))

theorem execKxTimeout_keeps {z s : State} {p0 : _} {p1 : _} (h : Keeps z s) : KeepsR z (execKxTimeout p0 p1 s) :=
  KeepsR.next (Keeps.ite (State.kxExpires_keeps h) h)

theorem execAckTimeout_keeps {z s : State} {p0 : _} (h : Keeps z s) : KeepsR z (execAckTimeout p0 s) := by
  unfold execAckTimeout
  extract_lets -merge -useContext +onlyGivenNames x1
  try clear_value x1
  split
  · exact KeepsR.next h
  · exact KeepsR.next (Keeps.ite (State.resendFrom_keeps (State.elapse_keeps h)) h)

theorem execKx_keeps {z s : State} {p0 : _} {p1 : _} (h : Keeps z s) : KeepsR z (execKx p0 p1 s) :=
  KeepsR.next (Keeps.ite (State.takeKx_keeps h) h)

theorem execBlockLockLost_keeps {z s : State} {p0 : _} (h : Keeps z s) : KeepsR z (execBlockLockLost p0 s) :=
  KeepsR.next (Keeps.ite (State.linkLost_keeps h) h)

theorem State.sendSpoiled_keeps {z s : State} {p1 : _} {p2 : _} (h : Keeps z s) : Keeps z (State.sendSpoiled s p1 p2) := by
  unfold State.sendSpoiled
  extract_lets -merge -useContext +onlyGivenNames x1
  try clear_value x1
  refine Keeps.ite ?_ h
  extract_lets -merge -useContext +onlyGivenNames x2
  try clear_value x2
  extract_lets -merge -useContext +onlyGivenNames x3
  try clear_value x3
  exact State.send_keeps h

theorem State.spoilForward_keeps {z s : State} {p1 : _} {p2 : _} (h : Keeps z s) : Keeps z (State.spoilForward s p1 p2) := by
  unfold State.spoilForward
  refine Keeps.ite h (Keeps.ite (Keeps.foldl h fun _ h2 _ => State.sendSpoiled_keeps h2) (Keeps.ite h ?_))
  split
  · exact Keeps.ite h (State.sendSpoiled_keeps h)
  · exact h

theorem State.rejectPacket_keeps {z s : State} {p1 : _} {p2 : _} (h : Keeps z s) : Keeps z (State.rejectPacket s p1 p2) := by
  unfold State.rejectPacket
  extract_lets -merge -useContext +onlyGivenNames x1
  try clear_value x1
  extract_lets -merge -useContext +onlyGivenNames x2
  have h3 : Keeps z x2 := State.spoilForward_keeps h
  clear_value x2
  extract_lets -merge -useContext +onlyGivenNames x4
  have h5 : Keeps z x4 := State.cellEvent_keeps (State.bump_keeps h3)
  clear_value x4
  exact State.linkSymbol_keeps (State.setMilLink_keeps h5)

theorem State.tagFails_keeps {z s : State} {p1 : _} {p2 : _} {p3 : _} (h : Keeps z s) : Keeps z (State.tagFails s p1 p2 p3) := by
  unfold State.tagFails
  extract_lets -merge -useContext +onlyGivenNames x1
  try clear_value x1
  extract_lets -merge -useContext +onlyGivenNames x2
  have h3 : Keeps z x2 := State.rejectPacket_keeps (State.setMilVc_keeps h)
  clear_value x2
  exact Keeps.ite (State.raise_keeps (State.kxFails_keeps h3)) h3

theorem State.keyPassed_keeps {z s : State} {p1 : _} {p2 : _} {p3 : _} (h : Keeps z s) : Keeps z (State.keyPassed s p1 p2 p3) := by
  unfold State.keyPassed
  extract_lets -merge -useContext +onlyGivenNames x1
  try clear_value x1
  split
  · exact Keeps.ite h (Keeps.ite (State.setMilVc_keeps h) (State.setMilVc_keeps h))
  · exact h

theorem State.takeIntact_keeps {z s : State} {p1 : _} {p2 : _} (h : Keeps z s) : Keeps z (State.takeIntact s p1 p2) := by
  unfold State.takeIntact
  extract_lets -merge -useContext +onlyGivenNames x1
  try clear_value x1
  extract_lets -merge -useContext +onlyGivenNames x2
  try clear_value x2
  extract_lets -merge -useContext +onlyGivenNames x3
  try clear_value x3
  refine Keeps.ite (Keeps.ite h (State.linkSymbol_keeps h)) ?_
  split
  · exact State.tagFails_keeps h
  · exact State.acceptPacket_keeps (Keeps.ite (State.keyPassed_keeps h) h)

theorem State.takePacket_keeps {z s : State} {p1 : _} {p2 : _} (h : Keeps z s) : Keeps z (State.takePacket s p1 p2) := by
  unfold State.takePacket
  extract_lets -merge -useContext +onlyGivenNames x1
  try clear_value x1
  extract_lets -merge -useContext +onlyGivenNames x2
  try clear_value x2
  refine Keeps.ite h ?_
  refine Keeps.ite (State.rejectPacket_keeps h) ?_
  refine Keeps.ite (State.proofOccurrence_keeps h.same (fun _ h3 => State.rejectPacket_keeps h3)) ?_
  split
  · exact State.takeIntact_keeps h
  · exact Keeps.ite (State.occurrence_keeps h (fun _ h8 => State.rejectPacket_keeps h8)) (State.takeIntact_keeps (State.occurrence_keeps h (fun _ h9 => State.detected_keeps h9)))

theorem execPacket_keeps {z s : State} {p0 : _} {p1 : _} (h : Keeps z s) : KeepsR z (execPacket p0 p1 s) :=
  KeepsR.next (State.takePacket_keeps h)

theorem execVcStall_keeps {z s : State} {p0 : _} {p1 : _} (h : Keeps z s) : KeepsR z (execVcStall p0 p1 s) := by
  unfold execVcStall
  extract_lets -merge -useContext +onlyGivenNames x1
  try clear_value x1
  extract_lets -merge -useContext +onlyGivenNames x2
  try clear_value x2
  split
  · exact KeepsR.next h
  · refine KeepsR.ite ?_ (KeepsR.next h)
    extract_lets -merge -useContext +onlyGivenNames x8
    have h9 : Keeps z x8 := State.elapse_keeps h
    clear_value x8
    exact KeepsR.next (State.raise_keeps (State.setFlag_keeps h9))

theorem execLinkRetrain_keeps {z s : State} {p0 : _} {p1 : _} (h : Keeps z s) : KeepsR z (execLinkRetrain p0 p1 s) := by
  unfold execLinkRetrain
  extract_lets -merge -useContext +onlyGivenNames x1
  try clear_value x1
  split
  · exact KeepsR.next (State.gated_keeps h (fun _ h4 => State.writeMilCtrl_keeps h4))
  · exact KeepsR.next (Keeps.ite (State.trainLink_keeps (State.elapse_keeps h)) h)

theorem execBlockLockGained_keeps {z s : State} {p0 : _} (h : Keeps z s) : KeepsR z (execBlockLockGained p0 s) :=
  KeepsR.next (Keeps.ite (State.alignLink_keeps h) h)

theorem State.deliverLoop_keeps {z s : State} (h : Keeps z s) : Keeps z (State.deliverLoop s) := by
  unfold State.deliverLoop
  extract_lets -merge -useContext +onlyGivenNames x1
  try clear_value x1
  exact Keeps.foldl h.same fun _ h2 _ => State.deliverPacket_keeps h2

theorem execLinkinfo_keeps {z s : State} {p0 : _} {p1 : _} (h : Keeps z s) : KeepsR z (execLinkinfo p0 p1 s) :=
  KeepsR.next (Keeps.ite (State.takeLinkInfo_keeps h) h)

theorem execRxRingTail_keeps {z s : State} {p0 : _} {p1 : _} {p2 : _} {p3 : _} {p4 : _} (h : Keeps z s) : KeepsR z (execRxRingTail p0 p1 p2 p3 p4 s) := by
  unfold execRxRingTail
  refine KeepsR.ite ?_ ?_
  · extract_lets -merge -useContext +onlyGivenNames x1
    try clear_value x1
    refine KeepsR.next (State.gated_keeps h (fun _ h2 => ?_))
    extract_lets -merge -useContext +onlyGivenNames x3
    have h4 : Keeps z x3 := State.setNum_keeps h2
    clear_value x3
    exact drainEth_keeps h4
  · extract_lets -merge -useContext +onlyGivenNames x5
    try clear_value x5
    extract_lets -merge -useContext +onlyGivenNames x6
    try clear_value x6
    refine KeepsR.next (State.gated_keeps h (fun _ h7 => ?_))
    extract_lets -merge -useContext +onlyGivenNames x8
    have h9 : Keeps z x8 := State.setNum_keeps h7
    clear_value x8
    exact State.pumpLink_keeps (State.pumpLink_keeps (Keeps.foldl h9 fun _ h10 _ => State.drainLink_keeps h10))

theorem execNak_keeps {z s : State} {p0 : _} {p1 : _} (h : Keeps z s) : KeepsR z (execNak p0 p1 s) := by
  unfold execNak
  extract_lets -merge -useContext +onlyGivenNames x1
  try clear_value x1
  exact KeepsR.next (Keeps.ite (State.resendFrom_keeps h) h)

theorem execKeyctl_keeps {z s : State} {p0 : _} {p1 : _} {p2 : _} (h : Keeps z s) : KeepsR z (execKeyctl p0 p1 p2 s) := by
  unfold execKeyctl
  extract_lets -merge -useContext +onlyGivenNames x1
  try clear_value x1
  refine KeepsR.next (State.gated_keeps h (fun _ h2 => ?_))
  extract_lets -merge -useContext +onlyGivenNames x3
  try clear_value x3
  exact Keeps.ite (Keeps.foldl h2 fun _ h4 _ => State.startKx_keeps h4) h2

theorem execTxRingTail_keeps {z s : State} {p0 : _} {p1 : _} {p2 : _} {p3 : _} (h : Keeps z s) : KeepsR z (execTxRingTail p0 p1 p2 p3 s) := by
  unfold execTxRingTail
  extract_lets -merge -useContext +onlyGivenNames x1
  try clear_value x1
  extract_lets -merge -useContext +onlyGivenNames x2
  try clear_value x2
  refine KeepsR.next (State.gated_keeps h (fun _ h3 => ?_))
  extract_lets -merge -useContext +onlyGivenNames x4
  have h5 : Keeps z x4 := State.setNum_keeps h3
  clear_value x4
  exact serveRing_keeps h5

theorem execRxfullTimeout_keeps {z s : State} {p0 : _} (h : Keeps z s) : KeepsR z (execRxfullTimeout p0 s) := by
  unfold execRxfullTimeout
  refine KeepsR.ite ?_ ?_
  · extract_lets -merge -useContext +onlyGivenNames x1
    try clear_value x1
    split
    · exact KeepsR.next h
    · extract_lets -merge -useContext +onlyGivenNames x7
      have h8 : Keeps z x7 := State.elapse_keeps h
      clear_value x7
      exact KeepsR.next h8.same
  · extract_lets -merge -useContext +onlyGivenNames x9
    try clear_value x9
    split
    · exact KeepsR.next h
    · extract_lets -merge -useContext +onlyGivenNames x15
      have h16 : Keeps z x15 := State.elapse_keeps h
      clear_value x15
      extract_lets -merge -useContext +onlyGivenNames x17 x18
      try clear_value x17
      have h19 : Keeps z x18 := State.milDrop_keeps (State.setMilLink_keeps h16)
      clear_value x18
      exact KeepsR.next (State.drainLink_keeps (State.returnCredits_keeps h19))

theorem execCreditReturn_keeps {z s : State} {p0 : _} {p1 : _} {p2 : _} {p3 : _} (h : Keeps z s) : KeepsR z (execCreditReturn p0 p1 p2 p3 s) := by
  unfold execCreditReturn
  extract_lets -merge -useContext +onlyGivenNames x1
  try clear_value x1
  exact KeepsR.next (Keeps.ite (State.creditsBack_keeps h) h)

theorem State.canLost_keeps {z s : State} {p1 : _} (h : Keeps z s) : Keeps z (State.canLost s p1) :=
  State.raise_keeps (State.bump_keeps h)

theorem State.setPairBit_keeps {z s : State} {p1 : _} {p2 : _} {p3 : _} {p4 : _} (h : Keeps z s) : Keeps z (State.setPairBit s p1 p2 p3 p4) :=
  Keeps.ite (State.setFlag_keeps h) (State.setFlag_keeps h)

theorem State.canStore_keeps {z s : State} {p1 : _} {p2 : _} {p3 : _} (h : Keeps z s) : Keeps z (State.canStore s p1 p2 p3) :=
  Keeps.foldl h fun _ h1 _ => State.setNum_keeps h1

theorem State.canIntoBuffer_keeps {z s : State} {p1 : _} {p2 : _} {p3 : _} (h : Keeps z s) : Keeps z (State.canIntoBuffer s p1 p2 p3) := by
  unfold State.canIntoBuffer
  extract_lets -merge -useContext +onlyGivenNames x1
  have h2 : Keeps z x1 := Keeps.ite (State.canLost_keeps h) h
  clear_value x1
  exact State.raise_keeps (State.setPairBit_keeps (State.canStore_keeps h2))

theorem State.canStart_keeps {z s : State} {p1 : _} (h : Keeps z s) : Keeps z (State.canStart s p1) := by
  unfold State.canStart
  refine Keeps.ite h ?_
  extract_lets -merge -useContext +onlyGivenNames x1
  try clear_value x1
  extract_lets -merge -useContext +onlyGivenNames x2
  have h3 : ∀ w7, Keeps z w7 → ∀ w8, Keeps z (x2 w7 w8) := by
    intro y5 h4 a6
    unfold x2
    exact h4.same
  clear_value x2
  split
  · exact h3 _ h.same _
  · split
    · exact h3 _ h _
    · exact h

theorem execRecoveryDone_keeps {z s : State} {p0 : _} (h : Keeps z s) : KeepsR z (execRecoveryDone p0 s) := by
  unfold execRecoveryDone
  extract_lets -merge -useContext +onlyGivenNames x1
  try clear_value x1
  refine KeepsR.ite ?_ (KeepsR.next h)
  extract_lets -merge -useContext +onlyGivenNames x2
  have h3 : Keeps z x2 := State.elapse_keeps h
  clear_value x2
  extract_lets -merge -useContext +onlyGivenNames x4 x5
  try clear_value x4
  have h6 : Keeps z x5 := h3.same
  clear_value x5
  extract_lets -merge -useContext +onlyGivenNames x7
  have h8 : Keeps z x7 := Keeps.foldl (State.setNum_keeps h6) fun _ h9 _ => State.setFlag_keeps h9
  clear_value x7
  exact KeepsR.next (State.canStart_keeps (State.raise_keeps h8))

theorem State.startRecovery_keeps {z s : State} {p1 : _} (h : Keeps z s) : Keeps z (State.startRecovery s p1) :=
  h.same

theorem State.setTxreq_keeps {z s : State} {p1 : _} {p2 : _} {p3 : _} (h : Keeps z s) : Keeps z (State.setTxreq s p1 p2 p3) :=
  State.setPairBit_keeps h

theorem State.txEnded_keeps {z s : State} {p1 : _} {p2 : _} {p3 : _} (h : Keeps z s) : Keeps z (State.txEnded s p1 p2 p3) := by
  unfold State.txEnded
  extract_lets -merge -useContext +onlyGivenNames x1
  have h2 : Keeps z x1 := State.setTxreq_keeps h
  clear_value x1
  extract_lets -merge -useContext +onlyGivenNames x3
  have h4 : Keeps z x3 := Keeps.ite (State.setPairBit_keeps h2) (State.setPairBit_keeps h2)
  clear_value x3
  exact State.raise_keeps h4

theorem State.setCanErrors_keeps {z s : State} {p1 : _} {p2 : _} (h : Keeps z s) : Keeps z (State.setCanErrors s p1 p2) := by
  unfold State.setCanErrors
  refine Keeps.ite h ?_
  extract_lets -merge -useContext +onlyGivenNames x1
  try clear_value x1
  extract_lets -merge -useContext +onlyGivenNames x2
  try clear_value x2
  extract_lets -merge -useContext +onlyGivenNames x3
  have h4 : Keeps z x3 := State.setNum_keeps h
  clear_value x3
  extract_lets -merge -useContext +onlyGivenNames x5
  have h6 : Keeps z x5 := State.setFlag_keeps (State.setFlag_keeps h4)
  clear_value x5
  extract_lets -merge -useContext +onlyGivenNames x7
  have h8 : Keeps z x7 := Keeps.ite h6 (State.setFld_keeps h6)
  clear_value x7
  exact Keeps.ite (State.blockEvent_keeps (State.raise_keeps h8)) h8

theorem execTxEnd_keeps {z s : State} {p0 : _} {p1 : _} {p2 : _} (h : Keeps z s) : KeepsR z (execTxEnd p0 p1 p2 s) := by
  unfold execTxEnd
  extract_lets -merge -useContext +onlyGivenNames x1
  try clear_value x1
  extract_lets -merge -useContext +onlyGivenNames x2
  have h3 : Keeps z x2 := State.canStart_keeps h
  clear_value x2
  extract_lets -merge -useContext +onlyGivenNames x4
  try clear_value x4
  refine KeepsR.ite (KeepsR.next h3) ?_
  extract_lets -merge -useContext +onlyGivenNames x5
  have h6 : Keeps z x5 := State.setCanErrors_keeps h3
  clear_value x5
  refine KeepsR.ite (KeepsR.next h6) ?_
  extract_lets -merge -useContext +onlyGivenNames x7
  have h8 : ∀ w11, Keeps z w11 → Keeps z (x7 w11) := by
    intro y10 h9
    unfold x7
    exact State.canStart_keeps h9.same
  clear_value x7
  refine KeepsR.ite ?_ ?_
  · split
    · exact KeepsR.next (h8 _ h6)
    · extract_lets -merge -useContext +onlyGivenNames x17 x18
      try clear_value x17
      have h19 : Keeps z x18 := h6.same
      clear_value x18
      exact KeepsR.next (h8 _ (Keeps.ite (State.send_keeps h19) (State.bump_keeps h19)))
  · extract_lets -merge -useContext +onlyGivenNames x20
    try clear_value x20
    extract_lets -merge -useContext +onlyGivenNames x21
    try clear_value x21
    extract_lets -merge -useContext +onlyGivenNames x22
    try clear_value x22
    extract_lets -merge -useContext +onlyGivenNames x23 x24
    have h25 : Keeps z x23 := State.send_keeps h6
    clear_value x23
    have h26 : Keeps z x24 := Keeps.ite (State.setNum_keeps (State.setNum_keeps (State.setNum_keeps h25))) h6
    clear_value x24
    exact KeepsR.next (h8 _ (State.txEnded_keeps h26))

theorem State.canOffer_keeps {z s : State} {p1 : _} {p2 : _} {p3 : _} (h : Keeps z s) : Keeps z (State.canOffer s p1 p2 p3) := by
  unfold State.canOffer
  extract_lets -merge -useContext +onlyGivenNames x1
  try clear_value x1
  extract_lets -merge -useContext +onlyGivenNames x2
  have h3 : Keeps z x2 := State.fusCan_keeps h
  clear_value x2
  exact Keeps.ite (State.latchFrameIn_keeps h3) h3

theorem State.canFifo_keeps {z s : State} {p1 : _} {p2 : _} {p3 : _} (h : Keeps z s) : Keeps z (State.canFifo s p1 p2 p3) := by
  unfold State.canFifo
  extract_lets -merge -useContext +onlyGivenNames x1
  try clear_value x1
  extract_lets -merge -useContext +onlyGivenNames x2
  try clear_value x2
  extract_lets -merge -useContext +onlyGivenNames x3
  try clear_value x3
  extract_lets -merge -useContext +onlyGivenNames x4
  try clear_value x4
  exact Keeps.ite (State.raise_keeps (State.setFld_keeps (State.canStore_keeps h))) (Keeps.ite (State.raise_keeps (State.canLost_keeps (State.setFld_keeps (State.canStore_keeps h)))) (State.canLost_keeps h))

theorem State.canIntoHp_keeps {z s : State} {p1 : _} {p2 : _} {p3 : _} (h : Keeps z s) : Keeps z (State.canIntoHp s p1 p2 p3) := by
  unfold State.canIntoHp
  extract_lets -merge -useContext +onlyGivenNames x1
  have h2 : Keeps z x1 := Keeps.ite (State.bump_keeps h) h
  clear_value x1
  extract_lets -merge -useContext +onlyGivenNames x3
  have h4 : Keeps z x3 := State.setFlag_keeps (State.canStore_keeps h2)
  clear_value x3
  exact State.offerEvent_keeps (State.raise_keeps h4)

theorem execCanFrame_keeps {z s : State} {p0 : _} {p1 : _} {p2 : _} {p3 : _} {p4 : _} (h : Keeps z s) : KeepsR z (execCanFrame p0 p1 p2 p3 p4 s) := by
  unfold execCanFrame
  extract_lets -merge -useContext +onlyGivenNames x1
  try clear_value x1
  refine KeepsR.ite (KeepsR.next h) ?_
  extract_lets -merge -useContext +onlyGivenNames x2
  have h3 : Keeps z x2 := State.setCanErrors_keeps h
  clear_value x2
  split
  · rename_i y4 y5 y6 y7 e8
    have h9 : Keeps z y4 := by
      refine KeepsP.of_eq e8 ?_
      split
      · exact KeepsP.mk h3
      · split
        · rename_i y14 y15 e16
          have h17 : Keeps z y14 := KeepsP.of_eq e16 (State.free_keeps h3)
          exact KeepsP.mk h17
    extract_lets -merge -useContext +onlyGivenNames x18
    try clear_value x18
    extract_lets -merge -useContext +onlyGivenNames x19
    have h20 : Keeps z x19 := Keeps.ite (State.canOffer_keeps h9) h9
    clear_value x19
    exact KeepsR.next (Keeps.ite (State.canFifo_keeps h20) (Keeps.ite (State.canFifo_keeps h20) (Keeps.ite (State.canIntoBuffer_keeps h20) (Keeps.ite (State.canIntoHp_keeps h20) h20))))

theorem State.writeCanCtrl_keeps {z s : State} {p1 : _} {p2 : _} (h : Keeps z s) : Keeps z (State.writeCanCtrl s p1 p2) := by
  unfold State.writeCanCtrl
  extract_lets -merge -useContext +onlyGivenNames x1
  try clear_value x1
  extract_lets -merge -useContext +onlyGivenNames x2
  have h3 : Keeps z x2 := State.setNum_keeps h
  clear_value x2
  extract_lets -merge -useContext +onlyGivenNames x4
  have h5 : Keeps z x4 := Keeps.ite (State.startRecovery_keeps h3) h3
  clear_value x4
  exact State.canStart_keeps (State.canMode_keeps h5)

theorem execRecover_keeps {z s : State} {p0 : _} {p1 : _} {p2 : _} (h : Keeps z s) : KeepsR z (execRecover p0 p1 p2 s) := by
  unfold execRecover
  extract_lets -merge -useContext +onlyGivenNames x1
  try clear_value x1
  exact KeepsR.next (State.gated_keeps h (fun _ h2 => State.writeCanCtrl_keeps h2))

theorem State.canBusOff_keeps {z s : State} {p1 : _} {p2 : _} (h : Keeps z s) : Keeps z (State.canBusOff s p1 p2) := by
  unfold State.canBusOff
  refine Keeps.ite h ?_
  extract_lets -merge -useContext +onlyGivenNames x1
  have h2 : Keeps z x1 := State.setFlag_keeps (State.setCanErrors_keeps h)
  clear_value x1
  extract_lets -merge -useContext +onlyGivenNames x3 x4
  try clear_value x3
  have h5 : Keeps z x4 := h2.same
  clear_value x4
  extract_lets -merge -useContext +onlyGivenNames x6
  have h7 : Keeps z x6 := Keeps.ite (State.startRecovery_keeps h5) h5
  clear_value x6
  exact State.blockEvent_keeps (State.raise_keeps h7)

theorem execFifoAck_keeps {z s : State} {p0 : _} {p1 : _} {p2 : _} {p3 : _} (h : Keeps z s) : KeepsR z (execFifoAck p0 p1 p2 p3 s) := by
  unfold execFifoAck
  extract_lets -merge -useContext +onlyGivenNames x1
  try clear_value x1
  extract_lets -merge -useContext +onlyGivenNames x2
  try clear_value x2
  refine KeepsR.next (State.gated_keeps h (fun _ h3 => ?_))
  extract_lets -merge -useContext +onlyGivenNames x4
  try clear_value x4
  exact State.setFld_keeps (State.setFld_keeps h3)

theorem execHprel_keeps {z s : State} {p0 : _} {p1 : _} {p2 : _} (h : Keeps z s) : KeepsR z (execHprel p0 p1 p2 s) := by
  unfold execHprel
  extract_lets -merge -useContext +onlyGivenNames x1
  try clear_value x1
  exact KeepsR.next (State.gated_keeps h (fun _ h2 => Keeps.foldl h2 fun _ h3 _ => State.setFlag_keeps h3))

theorem execTxcan_keeps {z s : State} {p0 : _} {p1 : _} {p2 : _} {p3 : _} (h : Keeps z s) : KeepsR z (execTxcan p0 p1 p2 p3 s) := by
  unfold execTxcan
  extract_lets -merge -useContext +onlyGivenNames x1
  try clear_value x1
  refine KeepsR.next (State.gated_keeps h (fun _ h2 => ?_))
  extract_lets -merge -useContext +onlyGivenNames x3
  try clear_value x3
  exact Keeps.foldl h2 fun _ h4 _ => State.txEnded_keeps h4

theorem execTxreq_keeps {z s : State} {p0 : _} {p1 : _} {p2 : _} {p3 : _} (h : Keeps z s) : KeepsR z (execTxreq p0 p1 p2 p3 s) := by
  unfold execTxreq
  extract_lets -merge -useContext +onlyGivenNames x1
  try clear_value x1
  refine KeepsR.next (State.gated_keeps h (fun _ h2 => ?_))
  extract_lets -merge -useContext +onlyGivenNames x3
  have h4 : Keeps z x3 := State.canStart_keeps h2
  clear_value x3
  extract_lets -merge -useContext +onlyGivenNames x5
  try clear_value x5
  exact State.canStart_keeps (Keeps.foldl h4 fun _ h6 _ => State.setTxreq_keeps h6)

theorem execBusOff_keeps {z s : State} {p0 : _} {p1 : _} (h : Keeps z s) : KeepsR z (execBusOff p0 p1 s) :=
  KeepsR.next (State.canBusOff_keeps h)

theorem State.clearHolder_keeps {z s : State} {p1 : _} (h : Keeps z s) : Keeps z (State.clearHolder s p1) :=
  State.setNum_keeps (State.setNum_keeps (State.setNum_keeps h))

theorem execWrdClear_keeps {z s : State} {p0 : _} {p1 : _} (h : Keeps z s) : KeepsR z (execWrdClear p0 p1 s) :=
  KeepsR.next (State.gated_keeps h (fun _ h1 => Keeps.ite (Keeps.foldl h1 fun _ h2 _ => State.clearHolder_keeps h2) (State.clearHolder_keeps h1)))

theorem State.wardBoundary_keeps {z s : State} (h : Keeps z s) : Keeps z (State.wardBoundary s) := by
  unfold State.wardBoundary
  extract_lets -merge -useContext +onlyGivenNames x1
  try clear_value x1
  extract_lets -merge -useContext +onlyGivenNames x2
  try clear_value x2
  extract_lets -merge -useContext +onlyGivenNames x3
  have h4 : Keeps z x3 := State.setNum_keeps (State.setNum_keeps h)
  clear_value x3
  extract_lets -merge -useContext +onlyGivenNames x5
  have h6 : Keeps z x5 := State.setNum_keeps (State.roll_keeps h4)
  clear_value x5
  extract_lets -merge -useContext +onlyGivenNames x7
  have h8 : Keeps z x7 := State.setFlag_keeps h6
  clear_value x7
  extract_lets -merge -useContext +onlyGivenNames x9
  try clear_value x9
  extract_lets -merge -useContext +onlyGivenNames x10
  try clear_value x10
  exact h8.same

theorem State.releaseSlots_keeps {z s : State} {p1 : _} {p2 : _} (h : Keeps z s) : Keeps z (State.releaseSlots s p1 p2) :=
  Keeps.foldl h fun _ h1 _ => h1.same

theorem State.writeSlots_keeps {z s : State} {p1 : _} {p2 : _} (h : Keeps z s) : Keeps z (State.writeSlots s p1 p2) :=
  Keeps.foldl h fun _ h1 _ => State.poke32_keeps (State.takeSlot_keeps h1)

theorem State.readSlots_keeps {z s : State} {p1 : _} {p2 : _} (h : Keeps z s) : Keeps z (State.readSlots s p1 p2) :=
  Keeps.foldl h fun _ h1 _ => KeepsP.fst (State.takeSnapshot_keeps h1)

theorem State.serveRead_keeps {z s : State} {p1 : _} {p2 : _} (h : Keeps z s) : Keeps z (State.serveRead s p1 p2) := by
  unfold State.serveRead
  extract_lets -merge -useContext +onlyGivenNames x1
  have h2 : Keeps z x1 := State.readSlots_keeps h
  clear_value x1
  extract_lets -merge -useContext +onlyGivenNames x3
  try clear_value x3
  exact State.reply_keeps (State.releaseSlots_keeps h2)

theorem State.spoilRecord_keeps {z s : State} {p1 : _} {p2 : _} (h : Keeps z s) : Keeps z (State.spoilRecord s p1 p2) :=
  Keeps.foldl h fun _ h1 _ => Keeps.ite h1.same h1

theorem State.serveWrite_keeps {z s : State} {p1 : _} {p2 : _} (h : Keeps z s) : Keeps z (State.serveWrite s p1 p2) :=
  State.replyOk_keeps (State.writeSlots_keeps (State.spoilRecord_keeps (State.poke_keeps h)))

theorem State.failAccess_keeps {z s : State} {p1 : _} {p2 : _} {p3 : _} {p4 : _} (h : Keeps z s) : Keeps z (State.failAccess s p1 p2 p3 p4) :=
  State.reply_keeps (State.refuseWord_keeps h)

theorem State.countDdrCe_keeps {z s : State} (h : Keeps z s) : Keeps z (State.countDdrCe s) := by
  unfold State.countDdrCe
  extract_lets -merge -useContext +onlyGivenNames x1
  try clear_value x1
  extract_lets -merge -useContext +onlyGivenNames x2
  try clear_value x2
  extract_lets -merge -useContext +onlyGivenNames x3
  try clear_value x3
  extract_lets -merge -useContext +onlyGivenNames x4
  try clear_value x4
  extract_lets -merge -useContext +onlyGivenNames x5
  try clear_value x5
  extract_lets -merge -useContext +onlyGivenNames x6
  have h7 : Keeps z x6 := State.bump_keeps h
  clear_value x6
  extract_lets -merge -useContext +onlyGivenNames x8 x9
  try clear_value x8
  have h10 : Keeps z x9 := h7.same
  clear_value x9
  exact Keeps.ite (State.raise_keeps h10) h10

theorem State.correctWord_keeps {z s : State} {p1 : _} {p2 : _} {p3 : _} (h : Keeps z s) : Keeps z (State.correctWord s p1 p2 p3) := by
  unfold State.correctWord
  extract_lets -merge -useContext +onlyGivenNames x1
  have h2 : Keeps z x1 := State.bump_keeps h
  clear_value x1
  extract_lets -merge -useContext +onlyGivenNames x3
  have h4 : Keeps z x3 := Keeps.ite (State.countDdrCe_keeps h2) h2
  clear_value x3
  exact State.detected_keeps h4

theorem State.injectedCorrection_keeps {z s : State} {p1 : _} {p2 : _} {p3 : _} {p4 : _} (h : Keeps z s) : Keeps z (State.injectedCorrection s p1 p2 p3 p4) := by
  unfold State.injectedCorrection
  split
  · exact h
  · exact State.occurrence_keeps h (fun _ h5 => Keeps.ite (State.detected_keeps h5) (Keeps.ite (State.correctWord_keeps h5) (State.detected_keeps h5)))

theorem State.checkWords_keeps {z s : State} {p1 : _} {p2 : _} {p3 : _} {p4 : _} {p5 : _} {p6 : _} {p7 : _} (h : Keeps z s) (k7 : ∀ w1, Keeps z w1 → Keeps z (p7 w1)) : Keeps z (State.checkWords s p1 p2 p3 p4 p5 p6 p7) := by
  unfold State.checkWords
  split
  · exact State.failAccess_keeps h
  · split
    · exact State.failAccess_keeps h
    · exact k7 _ (State.correctWord_keeps h)
    · split
      · exact Keeps.ite (State.occurrence_keeps h (fun _ h10 => State.failAccess_keeps h10)) (k7 _ (State.occurrence_keeps h (fun _ h11 => State.recordBadWord_keeps h11)))
      · exact k7 _ (State.injectedCorrection_keeps h)

theorem State.memAccess_keeps {z s : State} {p1 : _} {p2 : _} {p3 : _} {p4 : _} {p5 : _} {p6 : _} (h : Keeps z s) : Keeps z (State.memAccess s p1 p2 p3 p4 p5 p6) := by
  unfold State.memAccess
  extract_lets -merge -useContext +onlyGivenNames x1
  try clear_value x1
  extract_lets -merge -useContext +onlyGivenNames x2
  try clear_value x2
  refine Keeps.ite h ?_
  refine Keeps.ite (State.busError_keeps h) ?_
  refine State.arbitrated_keeps h (fun _ h3 => ?_)
  extract_lets -merge -useContext +onlyGivenNames x4
  have h5 : ∀ w10, Keeps z w10 → Keeps z (x4 w10) := by
    intro y7 h6
    unfold x4
    split
    · exact State.serveRead_keeps h6
    · exact State.serveWrite_keeps h6
  clear_value x4
  split
  · exact h5 _ h3
  · exact Keeps.ite (h5 _ h3) (State.checkWords_keeps h3 h5)

theorem State.slotAccess_keeps {z s : State} {p1 : _} {p2 : _} {p3 : _} {p4 : _} (h : Keeps z s) (k4 : ∀ w1, Keeps z w1 → Keeps z (p4 w1)) : Keeps z (State.slotAccess s p1 p2 p3 p4) := by
  unfold State.slotAccess
  extract_lets -merge -useContext +onlyGivenNames x1
  try clear_value x1
  extract_lets -merge -useContext +onlyGivenNames x2
  try clear_value x2
  refine Keeps.ite h ?_
  refine Keeps.ite (State.busError_keeps h) ?_
  refine State.arbitrated_keeps h (fun _ h3 => ?_)
  split
  · exact k4 _ h3
  · exact State.checkWords_keeps h3 k4

theorem execTake_keeps {z s : State} {p0 : _} {p1 : _} {p2 : _} (h : Keeps z s) : KeepsR z (execTake p0 p1 p2 s) :=
  KeepsR.next (State.slotAccess_keeps h (fun _ h1 => State.replyOk_keeps (State.takeSlot_keeps h1)))

theorem execSlotStatusRead_keeps {z s : State} {p0 : _} {p1 : _} (h : Keeps z s) : KeepsR z (execSlotStatusRead p0 p1 s) := by
  unfold execSlotStatusRead
  refine KeepsR.next (State.slotAccess_keeps h (fun _ h1 => ?_))
  split
  · rename_i y2 y3 e4
    have h5 : Keeps z y2 := KeepsP.of_eq e4 (State.takeSnapshot_keeps h1)
    exact State.replyWord_keeps h5

theorem execSlotPayloadLastRead_keeps {z s : State} {p0 : _} {p1 : _} (h : Keeps z s) : KeepsR z (execSlotPayloadLastRead p0 p1 s) := by
  unfold execSlotPayloadLastRead
  extract_lets -merge -useContext +onlyGivenNames x1
  try clear_value x1
  extract_lets -merge -useContext +onlyGivenNames x2
  try clear_value x2
  refine KeepsR.next (State.slotAccess_keeps h (fun _ h3 => ?_))
  extract_lets -merge -useContext +onlyGivenNames x4
  try clear_value x4
  exact State.replyWord_keeps h3.same

theorem State.endSomeRun_keeps {z s : State} {p1 : _} {p2 : _} {p3 : _} (h : Keeps z s) : Keeps z (State.endSomeRun s p1 p2 p3) := by
  unfold State.endSomeRun
  split
  · exact State.endRun_keeps h
  · exact State.blockEvent_keeps h

theorem State.haltPair_keeps {z s : State} {p1 : _} (h : Keeps z s) : Keeps z (State.haltPair s p1) :=
  State.setFlag_keeps (State.setFlag_keeps h)

theorem State.lockstepFails_keeps {z s : State} {p1 : _} {p2 : _} (h : Keeps z s) : Keeps z (State.lockstepFails s p1 p2) := by
  unfold State.lockstepFails
  extract_lets -merge -useContext +onlyGivenNames x1
  try clear_value x1
  refine Keeps.ite h ?_
  extract_lets -merge -useContext +onlyGivenNames x2
  have h3 : Keeps z x2 := State.pauseCore_keeps (State.showCores_keeps (State.raise_keeps (State.haltPair_keeps h)))
  clear_value x2
  split
  · rename_i y4 y5 e6
    have h7 : Keeps z y4 := KeepsP.of_eq e6 (State.detect_keeps h3)
    split
    · rename_i y8 e9
      have h10 : Keeps z y8 := KeepsO.of_eq e9 (State.replaceTasks_keeps h7)
      exact State.detected_keeps h10
    · exact State.fence_keeps h7

theorem State.shadowFence_keeps {z s : State} {p1 : _} {p2 : _} {p3 : _} (h : Keeps z s) : Keeps z (State.shadowFence s p1 p2 p3) := by
  unfold State.shadowFence
  split
  · rename_i y1 y2 e3
    have h4 : Keeps z y1 := KeepsP.of_eq e3 (State.detect_keeps h)
    exact State.chipRecord_keeps h4

theorem State.liveEvent_keeps {z s : State} {p1 : _} {p2 : _} (h : Keeps z s) : Keeps z (State.liveEvent s p1 p2) := by
  unfold State.liveEvent
  extract_lets -merge -useContext +onlyGivenNames x1
  try clear_value x1
  extract_lets -merge -useContext +onlyGivenNames x2
  try clear_value x2
  extract_lets -merge -useContext +onlyGivenNames x3
  try clear_value x3
  refine Keeps.ite ?_ ?_
  · split
    · rename_i y4 y5 e6
      have h7 : Keeps z y4 := KeepsP.of_eq e6 (State.free_keeps h)
      exact State.lockstepFails_keeps h7
  · refine Keeps.ite (State.taskFaults_keeps h) ?_
    refine Keeps.ite (State.overrun_keeps h) ?_
    refine Keeps.ite (State.raise_keeps (State.cleMiss_keeps h)) ?_
    refine Keeps.ite (State.endSomeRun_keeps h) ?_
    refine Keeps.ite (State.endSomeRun_keeps h) ?_
    refine Keeps.ite (Reply.stateOr_keeps h (execLatheCellFault_keeps h)) ?_
    refine Keeps.ite (Reply.stateOr_keeps h (execSequencerHalt_keeps h)) ?_
    refine Keeps.ite (Keeps.ite (State.childMisses_keeps h) (State.fedMiss_keeps h)) ?_
    refine Keeps.ite (State.blockEvent_keeps h) ?_
    refine Keeps.ite (Reply.stateOr_keeps h (execFusionEngineHalt_keeps h)) ?_
    refine Keeps.ite (State.chipEvent_keeps h) ?_
    refine Keeps.ite (State.chipEvent_keeps (State.raise_keeps h)) ?_
    refine Keeps.ite (State.fence_keeps h) ?_
    refine Keeps.ite (State.fence_keeps (State.raise_keeps h)) ?_
    refine Keeps.ite (State.tempHigh_keeps h) ?_
    refine Keeps.ite (Reply.stateOr_keeps h (execTimingMarginFault_keeps h)) ?_
    refine Keeps.ite ?_ ?_
    · extract_lets -merge -useContext +onlyGivenNames x8
      try clear_value x8
      exact State.canBusOff_keeps h
    · refine Keeps.ite (State.blockEvent_keeps (State.raise_keeps h)) ?_
      refine Keeps.ite (State.retrainLink_keeps h) ?_
      refine Keeps.ite (State.latchDropped_keeps h) ?_
      refine Keeps.ite (Reply.stateOr_keeps h (execLatchStuck_keeps h)) ?_
      refine Keeps.ite ?_ (Keeps.ite (State.detected_keeps h) (Keeps.ite (State.exhaust_keeps h) (Keeps.ite (State.stallNow_keeps h) (Keeps.ite (State.enterHoldover_keeps h) (Keeps.ite (Reply.stateOr_keeps h (execPowerFailWarning_keeps h)) (Keeps.ite (State.losePeer_keeps h) h))))))
      split
      · rename_i y9 y10 e11
        have h12 : Keeps z y9 := KeepsP.of_eq e11 (State.free_keeps h)
        exact State.detected_keeps h12

theorem State.shadowEvent_keeps {z s : State} {p1 : _} {p2 : _} (h : Keeps z s) : Keeps z (State.shadowEvent s p1 p2) := by
  unfold State.shadowEvent
  extract_lets -merge -useContext +onlyGivenNames x1
  try clear_value x1
  refine Keeps.ite (State.chipRecord_keeps h) ?_
  refine Keeps.ite (State.shadowFence_keeps h) ?_
  refine Keeps.ite (State.cellFails_keeps h) ?_
  extract_lets -merge -useContext +onlyGivenNames x2
  try clear_value x2
  split
  · rename_i y3 y4 e5
    have h6 : Keeps z y3 := KeepsP.of_eq e5 (KeepsP.ite (KeepsP.mk (KeepsP.fst (State.free_keeps h))) (KeepsP.mk h))
    split
    · rename_i y7 y8 e9
      have h10 : Keeps z y7 := KeepsP.of_eq e9 (KeepsP.ite (KeepsP.mk (KeepsP.fst (State.free_keeps h6))) (KeepsP.mk h6))
      extract_lets -merge -useContext +onlyGivenNames x11
      try clear_value x11
      extract_lets -merge -useContext +onlyGivenNames x12
      try clear_value x12
      extract_lets -merge -useContext +onlyGivenNames x13
      try clear_value x13
      split
      · rename_i y14 y15 e16
        have h17 : Keeps z y14 := KeepsP.of_eq e16 (State.detect_keeps h10)
        exact Keeps.ite (State.shadowFence_keeps h17) (Keeps.ite (State.detected_keeps h17) h17)

theorem State.presentAll_keeps {z s : State} {p0 : _} (h : Keeps z s) : Keeps z (State.presentAll p0 s) := by
  induction p0 generalizing s with
  | zero =>
    rw [State.presentAll]
    exact h
  | succ n ih =>
    rw [State.presentAll]
    split
    · exact h
    · exact Keeps.ite h (ih (State.occurrence_keeps h (fun _ h5 => Keeps.ite (State.liveEvent_keeps h5) (State.shadowEvent_keeps h5))))

theorem State.injectGo_keeps {z s : State} {p1 : _} {p2 : _} (h : Keeps z s) : Keeps z (State.injectGo s p1 p2) := by
  unfold State.injectGo
  refine Keeps.ite h ?_
  extract_lets -merge -useContext +onlyGivenNames x1
  try clear_value x1
  extract_lets -merge -useContext +onlyGivenNames x2
  try clear_value x2
  extract_lets -merge -useContext +onlyGivenNames x3
  try clear_value x3
  extract_lets -merge -useContext +onlyGivenNames x4
  try clear_value x4
  split
  · exact State.injResult_keeps h
  · extract_lets -merge -useContext +onlyGivenNames x9
    try clear_value x9
    extract_lets -merge -useContext +onlyGivenNames x10
    try clear_value x10
    extract_lets -merge -useContext +onlyGivenNames x11 x12
    try clear_value x11
    have h13 : Keeps z x12 := State.showInj_keeps h.same
    clear_value x12
    extract_lets -merge -useContext +onlyGivenNames x14
    have h15 : Keeps z x14 := State.setNum_keeps h13
    clear_value x14
    exact Keeps.ite h15 (State.presentAll_keeps h15)

end Sys2Proof.Machine
end

