-- ==== Sys2Proof/Laws/KeepsI.lean ====
section
/-! SUPPORT. What each operation keeps, part 9: each lemma follows its definition's form. -/
namespace Sys2Proof.Machine

theorem execInjectShadow_keeps {z s : State} {p0 : _} {p1 : _} (h : Keeps z s) : KeepsR z (execInjectShadow p0 p1 s) :=
  KeepsR.next (State.gated_keeps h (fun _ h1 => State.injectGo_keeps h1))

theorem execInjectLive_keeps {z s : State} {p0 : _} {p1 : _} (h : Keeps z s) : KeepsR z (execInjectLive p0 p1 s) :=
  KeepsR.next (State.gated_keeps h (fun _ h1 => State.injectGo_keeps h1))

theorem execLockstepMismatch_keeps {z s : State} {p0 : _} {p1 : _} (h : Keeps z s) : KeepsR z (execLockstepMismatch p0 p1 s) :=
  KeepsR.next (State.lockstepFails_keeps h)

theorem State.startEpochs_keeps {z s : State} (h : Keeps z s) : Keeps z (State.startEpochs s) := by
  unfold State.startEpochs
  refine Keeps.ite ?_ (State.hingeResult_keeps h)
  extract_lets -merge -useContext +onlyGivenNames x1
  have h2 : Keeps z x1 := State.setFld_keeps h
  clear_value x1
  extract_lets -merge -useContext +onlyGivenNames x3 x4
  try clear_value x3
  have h5 : Keeps z x4 := State.writeHinge_keeps h2
  clear_value x4
  extract_lets -merge -useContext +onlyGivenNames x6
  have h7 : Keeps z x6 := State.hingeResult_keeps (State.setFlag_keeps h5)
  clear_value x6
  exact State.callReset_keeps h7

theorem State.proofCorrect_keeps {z s : State} {p1 : _} {p2 : _} (h : Keeps z s) : Keeps z (State.proofCorrect s p1 p2) := by
  unfold State.proofCorrect
  split
  · rename_i y1 y2 e3
    have h4 : Keeps z y1 := KeepsP.of_eq e3 (State.free_keeps h)
    exact State.proofOccurrence_keeps h4 (fun _ h5 => State.correctWord_keeps h5)

theorem State.proofShadow_keeps {z s : State} {p0 : _} {p2 : _} (h : Keeps z s) : Keeps z (State.proofShadow p0 s p2) :=
  State.proofOccurrence_keeps h (fun _ h1 => State.shadowEvent_keeps h1)

theorem State.proofSteps_keeps {z s : State} (h : Keeps z s) : Keeps z (State.proofSteps s) := by
  unfold State.proofSteps
  extract_lets -merge -useContext +onlyGivenNames x1
  have h2 : Keeps z x1 := State.proofCorrect_keeps h
  clear_value x1
  extract_lets -merge -useContext +onlyGivenNames x3
  have h4 : Keeps z x3 := Keeps.foldl h2 fun _ h5 _ => State.proofCorrect_keeps h5
  clear_value x3
  extract_lets -merge -useContext +onlyGivenNames x6
  try clear_value x6
  extract_lets -merge -useContext +onlyGivenNames x7
  have h8 : Keeps z x7 := Keeps.ite (State.proofOccurrence_keeps h4 (fun _ h9 => State.recordBadWord_keeps h9)) h4
  clear_value x7
  extract_lets -merge -useContext +onlyGivenNames x10
  have h11 : Keeps z x10 := Keeps.foldl h8 fun _ h12 _ => State.proofShadow_keeps h12
  clear_value x10
  extract_lets -merge -useContext +onlyGivenNames x13
  have h14 : Keeps z x13 := Keeps.foldl h11 fun _ h15 _ => State.proofShadow_keeps h15
  clear_value x13
  extract_lets -merge -useContext +onlyGivenNames x16
  have h17 : Keeps z x16 := Keeps.foldl h14 fun _ h18 _ => State.proofShadow_keeps h18
  clear_value x16
  extract_lets -merge -useContext +onlyGivenNames x19
  have h20 : Keeps z x19 := State.proofShadow_keeps h17
  clear_value x19
  extract_lets -merge -useContext +onlyGivenNames x21
  have h22 : Keeps z x21 := State.proofShadow_keeps h20
  clear_value x21
  extract_lets -merge -useContext +onlyGivenNames x23
  have h24 : Keeps z x23 := State.proofShadow_keeps h22
  clear_value x23
  exact h24.same

theorem State.startProof_keeps {z s : State} (h : Keeps z s) : Keeps z (State.startProof s) :=
  State.proofSteps_keeps (State.tell_keeps (State.setHinge_keeps h))

theorem State.askProof_keeps {z s : State} {p1 : _} (h : Keeps z s) : Keeps z (State.askProof s p1) := by
  unfold State.askProof
  refine Keeps.ite (State.hingeResult_keeps h) ?_
  extract_lets -merge -useContext +onlyGivenNames x1 x2
  try clear_value x1
  have h3 : Keeps z x2 := State.setNum_keeps (State.setHinge_keeps h)
  clear_value x2
  exact Keeps.ite h3 (State.startProof_keeps h3)

theorem State.hingeCommand_keeps {z s : State} {p1 : _} (h : Keeps z s) : Keeps z (State.hingeCommand s p1) := by
  unfold State.hingeCommand
  extract_lets -merge -useContext +onlyGivenNames x1
  try clear_value x1
  extract_lets -merge -useContext +onlyGivenNames x2
  try clear_value x2
  exact Keeps.ite h (Keeps.ite (Keeps.ite (State.hingeResult_keeps h) (State.hingeResult_keeps (State.enterStandby_keeps (State.yieldClaim_keeps h)))) (Keeps.ite (Keeps.ite h (Keeps.ite (State.raise_keeps (State.hingeResult_keeps h)) (Keeps.ite (State.raise_keeps (State.hingeResult_keeps h)) (State.tell_keeps (State.wantHandover_keeps (State.setNum_keeps h)))))) (Keeps.ite (Keeps.ite h (State.askProof_keeps h)) (Keeps.ite (State.startEpochs_keeps h) h))))

theorem execClearUnfit_keeps {z s : State} {p0 : _} {p1 : _} (h : Keeps z s) : KeepsR z (execClearUnfit p0 p1 s) :=
  KeepsR.next (State.gated_keeps h (fun _ h1 => State.hingeCommand_keeps h1))

theorem State.proofLatch_keeps {z s : State} (h : Keeps z s) : Keeps z (State.proofLatch s) := by
  unfold State.proofLatch
  split
  · exact State.proofShadow_keeps h
  · exact h

theorem execYield_keeps {z s : State} {p0 : _} {p1 : _} (h : Keeps z s) : KeepsR z (execYield p0 p1 s) :=
  KeepsR.next (State.gated_keeps h (fun _ h1 => State.hingeCommand_keeps h1))

theorem State.endProof_keeps {z s : State} {p1 : _} {p2 : _} (h : Keeps z s) : Keeps z (State.endProof s p1 p2) := by
  unfold State.endProof
  extract_lets -merge -useContext +onlyGivenNames x1
  try clear_value x1
  extract_lets -merge -useContext +onlyGivenNames x2
  try clear_value x2
  extract_lets -merge -useContext +onlyGivenNames x3
  have h4 : Keeps z x3 := State.setNum_keeps h
  clear_value x3
  extract_lets -merge -useContext +onlyGivenNames x5
  try clear_value x5
  extract_lets -merge -useContext +onlyGivenNames x6
  try clear_value x6
  extract_lets -merge -useContext +onlyGivenNames x7
  have h8 : Keeps z x7 := State.writeHinge_keeps h4
  clear_value x7
  extract_lets -merge -useContext +onlyGivenNames x9
  have h10 : Keeps z x9 := State.setFlag_keeps h8
  clear_value x9
  extract_lets -merge -useContext +onlyGivenNames x11
  have h12 : Keeps z x11 := Keeps.ite h10 (State.raise_keeps h10)
  clear_value x11
  extract_lets -merge -useContext +onlyGivenNames x13
  have h14 : Keeps z x13 := Keeps.ite h12 (State.hingeResult_keeps h12)
  clear_value x13
  extract_lets -merge -useContext +onlyGivenNames x15
  have h16 : Keeps z x15 := State.dropProof_keeps h14
  clear_value x15
  exact State.tell_keeps (State.raise_keeps (State.setHinge_keeps h16))

theorem State.copySample_keeps {z s : State} {p1 : _} (h : Keeps z s) : Keeps z (State.copySample s p1) :=
  State.engineWrite_keeps h

theorem State.proofRestore_keeps {z s : State} (h : Keeps z s) : KeepsP z (State.proofRestore s) := by
  unfold State.proofRestore
  split
  · exact KeepsP.mk h
  · extract_lets -merge -useContext +onlyGivenNames x5
    try clear_value x5
    extract_lets -merge -useContext +onlyGivenNames x6
    have h7 : Keeps z x6 := State.copySample_keeps h
    clear_value x6
    exact KeepsP.mk h7

theorem execProofRunEnd_keeps {z s : State} {p0 : _} (h : Keeps z s) : KeepsR z (execProofRunEnd p0 s) := by
  unfold execProofRunEnd
  refine KeepsR.ite (KeepsR.next h) ?_
  refine KeepsR.ite (KeepsR.next (State.endProof_keeps h)) ?_
  refine KeepsR.ite (KeepsR.next (State.endProof_keeps h)) ?_
  split
  · rename_i y1 y2 e3
    have h4 : Keeps z y1 := KeepsP.of_eq e3 (State.proofRestore_keeps (State.proofLatch_keeps h))
    refine KeepsR.ite (KeepsR.next (State.endProof_keeps h4)) ?_
    split
    · rename_i y5 y6 e7
      have h8 : Keeps z y5 := KeepsP.of_eq e7 (State.free_keeps h4)
      exact KeepsR.next (State.endProof_keeps h8)

theorem execResetEpoch_keeps {z s : State} {p0 : _} {p1 : _} (h : Keeps z s) : KeepsR z (execResetEpoch p0 p1 s) :=
  KeepsR.next (State.gated_keeps h (fun _ h1 => State.hingeCommand_keeps h1))

theorem execHngClear_keeps {z s : State} {p0 : _} {p1 : _} (h : Keeps z s) : KeepsR z (execHngClear p0 p1 s) :=
  KeepsR.next (State.gated_keeps h (fun _ h1 => Keeps.ite (State.setNum_keeps h1) h1))

theorem execHandover_keeps {z s : State} {p0 : _} {p1 : _} (h : Keeps z s) : KeepsR z (execHandover p0 p1 s) :=
  KeepsR.next (State.gated_keeps h (fun _ h1 => State.hingeCommand_keeps h1))

theorem execProofNow_keeps {z s : State} {p0 : _} {p1 : _} (h : Keeps z s) : KeepsR z (execProofNow p0 p1 s) :=
  KeepsR.next (State.gated_keeps h (fun _ h1 => State.hingeCommand_keeps h1))

theorem execRoleDecision_keeps {z s : State} (h : Keeps z s) : KeepsR z (execRoleDecision s) := by
  unfold execRoleDecision
  refine KeepsR.ite (KeepsR.next h) ?_
  extract_lets -merge -useContext +onlyGivenNames x1
  have h2 : Keeps z x1 := State.elapse_keeps h
  clear_value x1
  extract_lets -merge -useContext +onlyGivenNames x3
  try clear_value x3
  extract_lets -merge -useContext +onlyGivenNames x4
  have h5 : Keeps z x4 := Keeps.ite h2 (State.takeClaim_keeps h2)
  clear_value x4
  extract_lets -merge -useContext +onlyGivenNames x6 x7
  try clear_value x6
  have h8 : Keeps z x7 := h5.same
  clear_value x7
  exact KeepsR.next (State.tell_keeps h8)

theorem execProofRun_keeps {z s : State} (h : Keeps z s) : KeepsR z (execProofRun s) := by
  unfold execProofRun
  refine KeepsR.ite (KeepsR.next h) ?_
  refine KeepsR.ite (KeepsR.next h) ?_
  extract_lets -merge -useContext +onlyGivenNames x1
  have h2 : Keeps z x1 := Keeps.ite (State.elapse_keeps h) h
  clear_value x1
  exact KeepsR.next (Keeps.ite h2 (State.startProof_keeps h2))

theorem State.setChannel_keeps {z s : State} {p1 : _} {p2 : _} (h : Keeps z s) : Keeps z (State.setChannel s p1 p2) := by
  unfold State.setChannel
  extract_lets -merge -useContext +onlyGivenNames x1
  have h2 : Keeps z x1 := State.setFlag_keeps (State.setNum_keeps h)
  clear_value x1
  exact State.poke32_keeps h2

theorem State.sendMessage_keeps {z s : State} {p1 : _} {p2 : _} {p3 : _} (h : Keeps z s) : Keeps z (State.sendMessage s p1 p2 p3) := by
  unfold State.sendMessage
  extract_lets -merge -useContext +onlyGivenNames x1
  try clear_value x1
  extract_lets -merge -useContext +onlyGivenNames x2
  have h3 : Keeps z x2 := Keeps.foldl h fun _ h4 _ => State.engineWrite_keeps h4
  clear_value x2
  extract_lets -merge -useContext +onlyGivenNames x5
  try clear_value x5
  exact State.raise_keeps (State.setChannel_keeps h3)

theorem execMbxSend_keeps {z s : State} {p0 : _} {p1 : _} (h : Keeps z s) : KeepsR z (execMbxSend p0 p1 s) :=
  KeepsR.next (State.gatedOr_keeps h (fun _ h1 => KeepsE.ite KeepsE.error (KeepsE.ok (State.sendMessage_keeps h1))))

theorem execPop_keeps {z s : State} {p0 : _} {p1 : _} (h : Keeps z s) : KeepsR z (execPop p0 p1 s) := by
  unfold execPop
  extract_lets -merge -useContext +onlyGivenNames x1
  try clear_value x1
  refine KeepsR.next (State.gatedRead_keeps h (fun _ h2 => ?_))
  extract_lets -merge -useContext +onlyGivenNames x3
  try clear_value x3
  exact KeepsP.mk (Keeps.ite (State.setChannel_keeps h2) h2)

theorem execRing_keeps {z s : State} {p0 : _} {p1 : _} (h : Keeps z s) : KeepsR z (execRing p0 p1 s) := by
  unfold execRing
  refine KeepsR.next (State.gated_keeps h (fun _ h1 => ?_))
  extract_lets -merge -useContext +onlyGivenNames x2
  try clear_value x2
  exact State.offerEvent_keeps (State.raise_keeps (State.setFlag_keeps h1))

theorem State.haltEngine_keeps {z s : State} {p1 : _} (h : Keeps z s) : Keeps z (State.haltEngine s p1) := by
  unfold State.haltEngine
  extract_lets -merge -useContext +onlyGivenNames x1
  try clear_value x1
  refine Keeps.ite h ?_
  refine Keeps.ite (State.raise_keeps h) ?_
  split
  · exact State.raise_keeps h
  · exact Keeps.ite h (State.raise_keeps (State.breakTask_keeps h))

theorem State.dmiOp_keeps {z s : State} {p1 : _} (h : Keeps z s) : Keeps z (State.dmiOp s p1) := by
  unfold State.dmiOp
  extract_lets -merge -useContext +onlyGivenNames x1
  try clear_value x1
  extract_lets -merge -useContext +onlyGivenNames x2
  try clear_value x2
  extract_lets -merge -useContext +onlyGivenNames x3
  try clear_value x3
  refine Keeps.ite (State.setNum_keeps h) ?_
  extract_lets -merge -useContext +onlyGivenNames x4
  have h5 : Keeps z x4 := Keeps.ite h (Keeps.ite (State.setReg_keeps (KeepsP.fst (State.free_keeps h))) (Keeps.ite (State.haltEngine_keeps h) h))
  clear_value x4
  exact State.raise_keeps (State.setNum_keeps h5)

theorem execDmiWrite_keeps {z s : State} {p0 : _} {p1 : _} (h : Keeps z s) : KeepsR z (execDmiWrite p0 p1 s) :=
  KeepsR.next (State.gated_keeps h (fun _ h1 => State.dmiOp_keeps h1))

theorem execHaltRequest_keeps {z s : State} {p0 : _} (h : Keeps z s) : KeepsR z (execHaltRequest p0 s) :=
  KeepsR.next (State.haltEngine_keeps h)

theorem execDmiRead_keeps {z s : State} {p0 : _} {p1 : _} (h : Keeps z s) : KeepsR z (execDmiRead p0 p1 s) :=
  KeepsR.next (State.gated_keeps h (fun _ h1 => State.dmiOp_keeps h1))

theorem execJtagAttach_keeps {z s : State} (h : Keeps z s) : KeepsR z (execJtagAttach s) :=
  KeepsR.next (Keeps.ite (State.raise_keeps (State.setFlag_keeps h)) h)

theorem State.plicWrite_keeps {z s : State} {p1 : _} {p2 : _} (h : Keeps z s) : Keeps z (State.plicWrite s p1 p2) := by
  unfold State.plicWrite
  extract_lets -merge -useContext +onlyGivenNames x1
  try clear_value x1
  exact Keeps.ite (State.setNum_keeps h) (Keeps.ite h (Keeps.ite (State.setNum_keeps h) (Keeps.ite (State.setNum_keeps h) (Keeps.ite h.same h))))

theorem State.claimSource_keeps {z s : State} {p1 : _} (h : Keeps z s) : Keeps z (State.claimSource s p1) := by
  unfold State.claimSource
  extract_lets -merge -useContext +onlyGivenNames x1
  try clear_value x1
  exact h.same

theorem State.plicRead_keeps {z s : State} {p1 : _} (h : Keeps z s) : KeepsP z (State.plicRead s p1) := by
  unfold State.plicRead
  extract_lets -merge -useContext +onlyGivenNames x1
  try clear_value x1
  refine KeepsP.ite ?_ (KeepsP.ite (KeepsP.mk h) (KeepsP.mk h))
  split
  · exact KeepsP.mk (State.claimSource_keeps h)
  · exact KeepsP.mk h

theorem execDdrRefreshPoll_keeps {z s : State} {p0 : _} {p1 : _} (h : Keeps z s) : KeepsR z (execDdrRefreshPoll p0 p1 s) := by
  unfold execDdrRefreshPoll
  refine KeepsR.ite (KeepsR.next h) ?_
  extract_lets -merge -useContext +onlyGivenNames x1
  have h2 : Keeps z x1 := State.setNum_keeps h
  clear_value x1
  extract_lets -merge -useContext +onlyGivenNames x3
  try clear_value x3
  exact KeepsR.next (Keeps.ite h2 (State.raise_keeps (State.setFlag_keeps h2)))

theorem execScrubPass_keeps {z s : State} {p0 : _} {p1 : _} (h : Keeps z s) : KeepsR z (execScrubPass p0 p1 s) := by
  unfold execScrubPass
  refine KeepsR.ite (KeepsR.next h) ?_
  extract_lets -merge -useContext +onlyGivenNames x1
  have h2 : Keeps z x1 := State.elapse_keeps h
  clear_value x1
  extract_lets -merge -useContext +onlyGivenNames x3 x4
  try clear_value x3
  have h5 : Keeps z x4 := h2.same
  clear_value x4
  extract_lets -merge -useContext +onlyGivenNames x6
  have h7 : Keeps z x6 := State.bump_keeps (State.bump_keeps (State.roll_keeps h5))
  clear_value x6
  extract_lets -merge -useContext +onlyGivenNames x8
  have h9 : Keeps z x8 := State.bump_keeps h7
  clear_value x8
  extract_lets -merge -useContext +onlyGivenNames x10
  try clear_value x10
  exact KeepsR.next (State.raise_keeps (Keeps.foldl h9 fun _ h11 _ => State.refuseWord_keeps h11))

theorem State.startTraining_keeps {z s : State} (h : Keeps z s) : Keeps z (State.startTraining s) := by
  unfold State.startTraining
  refine Keeps.ite ?_ h
  extract_lets -merge -useContext +onlyGivenNames x1
  have h2 : Keeps z x1 := State.setFld_keeps (State.setFld_keeps h)
  clear_value x1
  exact h2.same

theorem execDdrClear_keeps {z s : State} {p0 : _} {p1 : _} (h : Keeps z s) : KeepsR z (execDdrClear p0 p1 s) :=
  KeepsR.next (State.gated_keeps h (fun _ h1 => Keeps.ite (State.setNum_keeps (State.setNum_keeps h1)) h1))

theorem State.writeNext_keeps {z s : State} (h : Keeps z s) : Keeps z (State.writeNext s) := by
  unfold State.writeNext
  split
  · exact h
  · extract_lets -merge -useContext +onlyGivenNames x6 x7
    try clear_value x6
    have h8 : Keeps z x7 := h.same
    clear_value x7
    split
    · exact State.showWaiting_keeps (State.writeRecord_keeps h8)
    · split
      · rename_i y13 y14 e15
        have h16 : Keeps z y13 := KeepsP.of_eq e15 (State.takeSeq_keeps h8)
        exact State.showWaiting_keeps (State.writeRecord_keeps h16)

theorem State.clearFlt_keeps {z s : State} (h : Keeps z s) : Keeps z (State.clearFlt s) := by
  unfold State.clearFlt
  extract_lets -merge -useContext +onlyGivenNames x1
  have h2 : Keeps z x1 := Keeps.foldl h fun _ h3 _ => State.setNum_keeps h3
  clear_value x1
  exact Keeps.foldl h2 fun _ h4 _ => State.setNum_keeps h4

theorem execFltClear_keeps {z s : State} {p0 : _} {p1 : _} (h : Keeps z s) : KeepsR z (execFltClear p0 p1 s) :=
  KeepsR.next (State.gated_keeps h (fun _ h1 => Keeps.ite (State.clearFlt_keeps h1) h1))

theorem execFaultRecordWrite_keeps {z s : State} (h : Keeps z s) : KeepsR z (execFaultRecordWrite s) :=
  KeepsR.next (Keeps.ite h (State.writeNext_keeps (State.elapse_keeps h)))

theorem State.restoreLog_keeps {z s : State} (h : Keeps z s) : Keeps z (State.restoreLog s) := by
  unfold State.restoreLog
  extract_lets -merge -useContext +onlyGivenNames x1
  try clear_value x1
  extract_lets -merge -useContext +onlyGivenNames x2 x3
  try clear_value x2
  have h4 : Keeps z x3 := h.same
  clear_value x3
  exact State.setFlag_keeps (State.setNum_keeps (State.setNum_keeps h4))

theorem execRtcFracRead_keeps {z s : State} {p0 : _} (h : Keeps z s) : KeepsR z (execRtcFracRead p0 s) := by
  unfold execRtcFracRead
  refine KeepsR.next (State.gatedRead_keeps h (fun _ h1 => ?_))
  extract_lets -merge -useContext +onlyGivenNames x2
  try clear_value x2
  exact KeepsP.mk h1.same

theorem State.abortMeasurement_keeps {z s : State} (h : Keeps z s) : Keeps z (State.abortMeasurement s) :=
  State.raise_keeps (State.setFlag_keeps (State.setFlag_keeps (State.setFlag_keeps h)))

theorem execMeasAbort_keeps {z s : State} (h : Keeps z s) : KeepsR z (execMeasAbort s) :=
  KeepsR.ite (KeepsR.next (State.abortMeasurement_keeps h)) (KeepsR.next h)

theorem State.cellElapse_keeps {z s : State} {p1 : _} (h : Keeps z s) : Keeps z (State.cellElapse s p1) :=
  Keeps.ite h (State.elapse_keeps h)

theorem execRtcCompare_keeps {z s : State} (h : Keeps z s) : KeepsR z (execRtcCompare s) := by
  unfold execRtcCompare
  extract_lets -merge -useContext +onlyGivenNames x1
  have h2 : Keeps z x1 := State.cellElapse_keeps h
  clear_value x1
  refine KeepsR.ite (KeepsR.next h2) ?_
  extract_lets -merge -useContext +onlyGivenNames x3 x4
  try clear_value x3
  have h5 : Keeps z x4 := h2.same
  clear_value x4
  exact KeepsR.next (State.raise_keeps (State.setFlag_keeps h5))

theorem execTrimOverflow_keeps {z s : State} (h : Keeps z s) : KeepsR z (execTrimOverflow s) := by
  unfold execTrimOverflow
  extract_lets -merge -useContext +onlyGivenNames x1
  try clear_value x1
  refine KeepsR.ite (KeepsR.next h) ?_
  extract_lets -merge -useContext +onlyGivenNames x2
  try clear_value x2
  exact KeepsR.next (State.elapse_keeps h)

theorem execCommit_keeps {z s : State} {p0 : _} {p1 : _} (h : Keeps z s) : KeepsR z (execCommit p0 p1 s) := by
  unfold execCommit
  refine KeepsR.next (State.gatedOr_keeps h (fun _ h1 => ?_))
  refine KeepsE.ite KeepsE.error ?_
  refine KeepsE.ite ?_ (KeepsE.ok h1)
  extract_lets -merge -useContext +onlyGivenNames x2 x3
  try clear_value x2
  have h4 : Keeps z x3 := h1.same
  clear_value x3
  exact KeepsE.ok (State.setFlag_keeps h4)

theorem execMeasStart_keeps {z s : State} {p0 : _} {p1 : _} (h : Keeps z s) : KeepsR z (execMeasStart p0 p1 s) := by
  unfold execMeasStart
  refine KeepsR.next (State.gated_keeps h (fun _ h1 => ?_))
  extract_lets -merge -useContext +onlyGivenNames x2
  try clear_value x2
  extract_lets -merge -useContext +onlyGivenNames x3
  have h4 : Keeps z x3 := State.setFlag_keeps (State.setReg_keeps h1)
  clear_value x3
  refine Keeps.ite h4 ?_
  refine Keeps.ite h4 ?_
  refine Keeps.ite (State.abortMeasurement_keeps h4) ?_
  extract_lets -merge -useContext +onlyGivenNames x5
  try clear_value x5
  extract_lets -merge -useContext +onlyGivenNames x6 x7
  try clear_value x6
  have h8 : Keeps z x7 := h4.same
  clear_value x7
  exact State.setFlag_keeps (State.setFlag_keeps (State.setFlag_keeps h8))

theorem execRtcSubsecRead_keeps {z s : State} {p0 : _} (h : Keeps z s) : KeepsR z (execRtcSubsecRead p0 s) := by
  unfold execRtcSubsecRead
  refine KeepsR.next (State.gatedRead_keeps h (fun _ h1 => ?_))
  extract_lets -merge -useContext +onlyGivenNames x2
  try clear_value x2
  exact KeepsP.mk h1.same

theorem execFreezeExpired_keeps {z s : State} {p0 : _} {p1 : _} (h : Keeps z s) : KeepsR z (execFreezeExpired p0 p1 s) := by
  unfold execFreezeExpired
  refine KeepsR.next ?_
  split
  · exact h
  · exact State.elapse_keeps h

theorem execCommitLoad_keeps {z s : State} (h : Keeps z s) : KeepsR z (execCommitLoad s) := by
  unfold execCommitLoad
  refine KeepsR.ite (KeepsR.next h) ?_
  extract_lets -merge -useContext +onlyGivenNames x1
  have h2 : Keeps z x1 := State.cellElapse_keeps h
  clear_value x1
  extract_lets -merge -useContext +onlyGivenNames x3
  have h4 : Keeps z x3 := State.setFlag_keeps h2
  clear_value x3
  split
  · exact KeepsR.next (State.raise_keeps (State.setFlag_keeps h4))
  · extract_lets -merge -useContext +onlyGivenNames x9
    try clear_value x9
    extract_lets -merge -useContext +onlyGivenNames x10 x11
    try clear_value x10
    have h12 : Keeps z x11 := h4.same
    clear_value x11
    exact KeepsR.next (State.raise_keeps (State.setFlag_keeps (State.setFlag_keeps h12)))

theorem execMeasDone_keeps {z s : State} (h : Keeps z s) : KeepsR z (execMeasDone s) := by
  unfold execMeasDone
  refine KeepsR.ite (KeepsR.next h) ?_
  refine KeepsR.ite (KeepsR.next (State.abortMeasurement_keeps h)) ?_
  split
  · exact KeepsR.next h
  · extract_lets -merge -useContext +onlyGivenNames x5
    have h6 : Keeps z x5 := State.elapse_keeps h
    clear_value x5
    extract_lets -merge -useContext +onlyGivenNames x7
    try clear_value x7
    extract_lets -merge -useContext +onlyGivenNames x8
    try clear_value x8
    extract_lets -merge -useContext +onlyGivenNames x9
    try clear_value x9
    extract_lets -merge -useContext +onlyGivenNames x10
    try clear_value x10
    extract_lets -merge -useContext +onlyGivenNames x11
    have h12 : Keeps z x11 := State.setNum_keeps (State.setNum_keeps h6)
    clear_value x11
    extract_lets -merge -useContext +onlyGivenNames x13
    have h14 : Keeps z x13 := State.setNum_keeps h12
    clear_value x13
    extract_lets -merge -useContext +onlyGivenNames x15
    have h16 : Keeps z x15 := State.setFlag_keeps (State.setFlag_keeps h14)
    clear_value x15
    extract_lets -merge -useContext +onlyGivenNames x17 x18 x19
    have h20 : Keeps z x17 := State.setFld_keeps h16
    clear_value x17
    try clear_value x18
    have h21 : Keeps z x19 := Keeps.ite h20.same h16
    clear_value x19
    exact KeepsR.next (State.raise_keeps h21)

theorem execRtcSnapshotEnd_keeps {z s : State} {p0 : _} {p1 : _} (h : Keeps z s) : KeepsR z (execRtcSnapshotEnd p0 p1 s) :=
  KeepsR.next (State.gatedRead_keeps h (fun _ h1 => KeepsP.ite (KeepsP.mk h1.same) (KeepsP.mk h1.same)))

theorem readerOf_keeps {z s : State} {off : Nat} {f : Who → State → Reply} {w : Who} (e : readerOf off = some f) (h : Keeps z s) :
    KeepsR z (f w s) := by
  unfold readerOf at e
  split at e
  · cases e; exact execTimeNowRead_keeps h
  split at e
  · cases e; exact execRtcSubsecRead_keeps h
  split at e
  · cases e; exact execRtcFracRead_keeps h
  split at e
  · cases e; exact execRtcSnapshotEnd_keeps h
  split at e
  · cases e; exact execRtcSnapshotEnd_keeps h
  split at e
  · cases e; exact execSpnAngleRead_keeps h
  · cases e; exact execMetRegRead_keeps h
  · cases e; exact execPop_keeps h
  · cases e
theorem State.takeRead_keeps {z s : State} {p1 : _} {p2 : _} (h : Keeps z s) : Keeps z (State.takeRead s p1 p2) := by
  unfold State.takeRead
  refine Keeps.ite (State.arbitrated_keeps h fun a ha => ?_) ?_
  · split
    rename_i e
    exact State.replyWord_keeps (KeepsP.of_eq e (State.plicRead_keeps ha))
  · split
    · rename_i e
      exact Reply.stateOr_keeps h (readerOf_keeps e h)
    · exact State.arbitrated_keeps h fun _ ha => State.replyWord_keeps ha

theorem State.busRead_keeps {z s : State} {p1 : _} {p2 : _} {p3 : _} (h : Keeps z s) : Keeps z (State.busRead s p1 p2 p3) := by
  unfold State.busRead
  extract_lets -merge -useContext +onlyGivenNames x1
  try clear_value x1
  exact Keeps.ite h (Keeps.ite (State.busError_keeps h) (State.takeRead_keeps h))

theorem State.mdioWrite_keeps {z s : State} {p1 : _} {p2 : _} (h : Keeps z s) : KeepsR z (State.mdioWrite s p1 p2) := by
  unfold State.mdioWrite
  split
  · rename_i y1 y2 e3
    have h4 : Keeps z y1 := KeepsP.of_eq e3 (State.free_keeps h)
    exact execEthMdio_keeps h4

theorem State.submitKey_keeps {z s : State} {p1 : _} {p2 : _} (h : Keeps z s) : Keeps z (State.submitKey s p1 p2) := by
  unfold State.submitKey
  extract_lets -merge -useContext +onlyGivenNames x1
  try clear_value x1
  exact Keeps.ite h (Keeps.ite (State.arbitrated_keeps h (fun _ h2 => State.keySubmit_keeps h2)) (State.busError_keeps h))

theorem State.stored_keeps {z s : State} {p1 : _} (h : Keeps z s) : Keeps z (State.stored s p1) := by
  unfold State.stored
  refine Keeps.ite h.same ?_
  refine Keeps.ite h.same ?_
  split
  · exact Keeps.foldl h fun _ h5 _ => State.followBall_keeps h5
  · exact h.same
  · exact h

theorem State.storeReg_keeps {z s : State} {p1 : _} {p2 : _} {p3 : _} {p4 : _} (h : Keeps z s) : Keeps z (State.storeReg s p1 p2 p3 p4) := by
  unfold State.storeReg
  extract_lets -merge -useContext +onlyGivenNames x1
  try clear_value x1
  extract_lets -merge -useContext +onlyGivenNames x2
  try clear_value x2
  extract_lets -merge -useContext +onlyGivenNames x3
  try clear_value x3
  refine Keeps.ite (State.setUtcOffset_keeps h) ?_
  split
  · exact State.cleWriteLen_keeps h
  · exact State.stored_keeps (State.setReg_keeps h)

/-- The command that a register write is keeps what every command keeps. -/
theorem singleTakers_keeps : ∀ e ∈ singleTakers, ∀ w v (z s : State), Keeps z s → KeepsR z (e.2 w v s) := by
  unfold singleTakers
  simp only [List.forall_mem_append, List.forall_mem_cons]
  exact ⟨⟨⟨fun _ _ _ _ h => execUnfence_keeps h, fun _ _ _ _ h => execSoftReset_keeps h, fun _ _ _ _ h => execSafeReq_keeps h,
    fun _ _ _ _ h => execDdrClear_keeps h, fun _ _ _ _ h => execFltClear_keeps h, fun _ _ _ _ h => execStore_keeps h,
    fun _ _ _ _ h => execPatchSubmit_keeps h, fun _ _ _ _ h => execTimeStep_keeps h, fun _ _ _ _ h => execAcceptJump_keeps h,
    fun _ _ _ _ h => execCommit_keeps h, fun _ _ _ _ h => execMeasStart_keeps h, fun _ _ _ _ h => execWrdClear_keeps h,
    fun _ _ _ _ h => execAdpStore_keeps h, fun _ _ _ _ h => execFedClear_keeps h, fun _ _ _ _ h => execTaskDone_keeps h,
    fun _ _ _ _ h => execTrigger_keeps h, fun _ _ _ _ h => execTskClear_keeps h, fun _ _ _ _ h => execTuneApply_keeps h,
    fun _ _ _ _ h => execCleClear_keeps h, fun _ h => nomatch h⟩,
    ⟨fun _ _ _ _ h => execFusPush_keeps h, fun _ _ _ _ h => execFusClear_keeps h, fun _ _ _ _ h => execIntervalWrite_keeps h,
    fun _ _ _ _ h => execSave_keeps h, fun _ _ _ _ h => execMetClear_keeps h, fun _ _ _ _ h => execHealthWrite_keeps h,
    fun _ _ _ _ h => execYield_keeps h, fun _ _ _ _ h => execHngClear_keeps h, fun _ _ _ _ h => execLatClear_keeps h,
    fun _ _ _ _ h => execLatchArm_keeps h, fun _ _ _ _ h => execLatchArm_keeps h, fun _ _ _ _ h => execAxisGo_keeps h,
    fun _ _ _ _ h => execAxisStop_keeps h, fun _ _ _ _ h => execAxisHalt_keeps h, fun _ _ _ _ h => execPowerUp_keeps h,
    fun _ _ _ _ h => execUpdGo_keeps h, fun _ h => nomatch h⟩⟩,
    ⟨fun _ _ _ _ h => State.mdioWrite_keeps h, fun _ _ _ _ h => execEthClear_keeps h,
    fun _ _ _ _ h => KeepsR.next (State.submitKey_keeps h), fun _ _ _ _ h => execKeyClear_keeps h,
    fun _ _ _ _ h => execInjectLive_keeps h, fun _ _ _ _ h => execInjAbort_keeps h, fun _ _ _ _ h => execMbxSend_keeps h,
    fun _ _ _ _ h => execRing_keeps h, fun _ _ _ _ h => execDmiRead_keeps h, fun _ h => nomatch h⟩⟩
theorem rowTakers_keeps : ∀ e ∈ rowTakers, ∀ n w v (z s : State), Keeps z s → KeepsR z (e.2.2.2 n w v s) := by
  unfold rowTakers
  simp only [List.forall_mem_append, List.forall_mem_cons]
  exact ⟨⟨⟨fun _ _ _ _ _ h => execHostadv_keeps h, fun _ _ _ _ _ h => execLatheSubmit_keeps h, fun _ _ _ _ _ h => execCancel_keeps h,
    fun _ _ _ _ _ h => execFlush_keeps h, fun _ _ _ _ _ h => execLatheClear_keeps h, fun _ _ _ _ _ h => execProgramRun_keeps h,
    fun _ _ _ _ _ h => execLatchCmd_keeps h, fun _ _ _ _ _ h => execAxisHome_keeps h, fun _ h => nomatch h⟩,
    ⟨fun _ _ _ _ _ h => execLinkRetrain_keeps h, fun _ _ _ _ _ h => execKeyctl_keeps h, fun _ _ _ _ _ h => execMilClear_keeps h,
    fun _ _ _ _ _ h => execTxRingTail_keeps h, fun _ _ _ _ _ h => execTxRingTail_keeps h,
    fun _ _ _ _ _ h => execRxRingTail_keeps h, fun _ _ _ _ _ h => execRxRingTail_keeps h,
    fun _ _ _ _ _ h => execEthTxTail_keeps h, fun _ _ _ _ _ h => execRxRingTail_keeps h, fun _ h => nomatch h⟩⟩,
    ⟨fun _ _ _ _ _ h => execRecover_keeps h, fun _ _ _ _ _ h => execTxreq_keeps h, fun _ _ _ _ _ h => execTxreq_keeps h,
    fun _ _ _ _ _ h => execTxcan_keeps h, fun _ _ _ _ _ h => execTxcan_keeps h, fun _ _ _ _ _ h => execFifoAck_keeps h,
    fun _ _ _ _ _ h => execFifoAck_keeps h, fun _ _ _ _ _ h => execHprel_keeps h, fun _ h => nomatch h⟩⟩
theorem takerOf_keeps {z s : State} {off : Nat} {t : Taker} {w : Who} {v : Word} (e : takerOf off = some t) (h : Keeps z s) :
    KeepsR z (t w v s) := by
  unfold takerOf at e
  split at e
  · rename_i x hx
    cases e
    exact singleTakers_keeps x (List.mem_of_find?_eq_some hx) w v z s h
  · obtain ⟨x, hx, hn⟩ := List.exists_of_findSome?_eq_some e
    obtain ⟨n, -, rfl⟩ := Option.map_eq_some_iff.1 hn
    exact rowTakers_keeps x hx n w v z s h
theorem State.takeWrite_keeps {z s : State} {p1 : _} {p2 : _} {p3 : _} (h : Keeps z s) : Keeps z (State.takeWrite s p1 p2 p3) := by
  unfold State.takeWrite
  refine Keeps.ite (State.arbitrated_keeps h fun _ ha => State.replyOk_keeps (State.plicWrite_keeps ha)) ?_
  split
  · rename_i e
    exact Reply.stateOr_keeps h (takerOf_keeps e h)
  · refine State.arbitrated_keeps h fun a ha => ?_
    split
    · exact State.replyOk_keeps (Keeps.ite (State.storeReg_keeps ha) ha)
    · exact State.replyOk_keeps (State.setReg_keeps ha)

theorem State.busWrite_keeps {z s : State} {p1 : _} {p2 : _} {p3 : _} {p4 : _} (h : Keeps z s) : Keeps z (State.busWrite s p1 p2 p3 p4) := by
  unfold State.busWrite
  extract_lets -merge -useContext +onlyGivenNames x1
  try clear_value x1
  exact Keeps.ite h (Keeps.ite (State.busError_keeps h) (State.takeWrite_keeps h))

theorem State.access_keeps {z s : State} {p1 : _} {p2 : _} {p3 : _} {p4 : _} {p5 : _} {p6 : _} (h : Keeps z s) : Keeps z (State.access s p1 p2 p3 p4 p5 p6) := by
  unfold State.access
  refine Keeps.ite ?_ (State.memAccess_keeps h)
  split
  · exact State.busRead_keeps h
  · exact State.busWrite_keeps h

theorem execMemoryAccess_keeps {z s : State} {p0 : _} {p1 : _} {p2 : _} {p3 : _} {p4 : _} {p5 : _} (h : Keeps z s) : KeepsR z (execMemoryAccess p0 p1 p2 p3 p4 p5 s) :=
  KeepsR.next (State.access_keeps h)

theorem execRegisterWrite_keeps {z s : State} {p0 : _} {p1 : _} {p2 : _} {p3 : _} (h : Keeps z s) : KeepsR z (execRegisterWrite p0 p1 p2 p3 s) :=
  KeepsR.next (State.access_keeps h)

theorem State.sendMessageSignal_keeps {z s : State} {p1 : _} (h : Keeps z s) : Keeps z (State.sendMessageSignal s p1) := by
  unfold State.sendMessageSignal
  extract_lets -merge -useContext +onlyGivenNames x1
  try clear_value x1
  exact State.send_keeps h.same

theorem State.writeTable_keeps {z s : State} {p1 : _} {p2 : _} (h : Keeps z s) : Keeps z (State.writeTable s p1 p2) := by
  unfold State.writeTable
  extract_lets -merge -useContext +onlyGivenNames x1
  try clear_value x1
  extract_lets -merge -useContext +onlyGivenNames x2
  try clear_value x2
  exact h.same

theorem State.writeTableBytes_keeps {z s : State} {p1 : _} {p2 : _} (h : Keeps z s) : Keeps z (State.writeTableBytes s p1 p2) := by
  unfold State.writeTableBytes
  extract_lets -merge -useContext +onlyGivenNames x1
  have h2 : Keeps z x1 := Keeps.foldl h fun _ h3 _ => State.writeTable_keeps h3
  clear_value x1
  exact Keeps.foldl h2 fun _ h4 _ => Keeps.ite (State.sendMessageSignal_keeps h4) h4

theorem State.spiDone_keeps {z s : State} {p1 : _} (h : Keeps z s) : Keeps z (State.spiDone s p1) := by
  unfold State.spiDone
  extract_lets -merge -useContext +onlyGivenNames x1
  have h2 : Keeps z x1 := State.roll_keeps (State.setNum_keeps h)
  clear_value x1
  exact Keeps.ite h2 (State.raise_keeps h2)

theorem State.spiWord_keeps {z s : State} {p1 : _} {p2 : _} (h : Keeps z s) : Keeps z (State.spiWord s p1 p2) := by
  unfold State.spiWord
  refine Keeps.ite (State.busError_keeps h) ?_
  extract_lets -merge -useContext +onlyGivenNames x1
  try clear_value x1
  extract_lets -merge -useContext +onlyGivenNames x2
  have h3 : Keeps z x2 := Keeps.ite (State.charge_keeps h) h
  clear_value x2
  extract_lets -merge -useContext +onlyGivenNames x4 x5
  try clear_value x4
  have h6 : Keeps z x5 := h3.same
  clear_value x5
  extract_lets -merge -useContext +onlyGivenNames x7
  have h8 : Keeps z x7 := State.access_keeps h6
  clear_value x7
  exact h8.same

theorem State.spiWriteWord_keeps {z s : State} {p1 : _} {p2 : _} (h : Keeps z s) : Keeps z (State.spiWriteWord s p1 p2) :=
  State.spiWord_keeps h

theorem State.spiReadWord_keeps {z s : State} {p1 : _} (h : Keeps z s) : Keeps z (State.spiReadWord s p1) :=
  State.spiWord_keeps h

theorem State.barAccess_keeps {z s : State} {p1 : _} {p2 : _} {p3 : _} {p4 : _} {p5 : _} {p6 : _} (h : Keeps z s) : Keeps z (State.barAccess s p1 p2 p3 p4 p5 p6) := by
  unfold State.barAccess
  extract_lets -merge -useContext +onlyGivenNames x1
  try clear_value x1
  refine Keeps.ite (State.busError_keeps h) ?_
  split
  · exact State.access_keeps h
  · refine Keeps.ite ?_ (Keeps.ite (Keeps.ite (State.reply_keeps h) (State.replyOk_keeps h)) (State.busError_keeps h))
    split
    · exact State.reply_keeps h
    · exact State.replyOk_keeps (State.writeTableBytes_keeps h)

theorem execMsiX_keeps {z s : State} {p0 : _} (h : Keeps z s) : KeepsR z (execMsiX p0 s) := by
  unfold execMsiX
  extract_lets -merge -useContext +onlyGivenNames x1
  try clear_value x1
  extract_lets -merge -useContext +onlyGivenNames x2
  try clear_value x2
  refine KeepsR.ite (KeepsR.next h) ?_
  extract_lets -merge -useContext +onlyGivenNames x3 x4
  try clear_value x3
  have h5 : Keeps z x4 := h.same
  clear_value x4
  exact KeepsR.next (Keeps.ite h5.same (State.sendMessageSignal_keeps h5))

theorem spiReads_keeps {z s : State} {p0 : _} {p1 : _} (h : Keeps z s) : KeepsP z (spiReads p0 p1 s) := by
  induction p0 generalizing s p1 with
  | zero =>
    rw [spiReads]
    exact KeepsP.mk h
  | succ n ih =>
    rw [spiReads]
    refine KeepsP.ite ?_ (KeepsP.mk (State.spiReadWord_keeps h))
    extract_lets -merge -useContext +onlyGivenNames x1
    try clear_value x1
    split
    · rename_i y2 y3 y4 e5
      have h6 : Keeps z y2 := KeepsP.of_eq e5 (ih (State.spiReadWord_keeps h))
      exact KeepsP.mk h6

theorem spiWrites_keeps {z s : State} {p0 : _} {p1 : _} (h : Keeps z s) : KeepsP z (spiWrites p0 p1 s) := by
  induction p0 generalizing s p1 with
  | nil =>
    rw [spiWrites]
    exact KeepsP.mk h
  | cons y r ih =>
    rw [spiWrites]
    exact KeepsP.ite (ih (State.spiWriteWord_keeps h)) (KeepsP.mk (State.spiWriteWord_keeps h))

theorem execSpiAbandon_keeps {z s : State} {p0 : _} {p1 : _} {p2 : _} (h : Keeps z s) : KeepsR z (execSpiAbandon p0 p1 p2 s) := by
  unfold execSpiAbandon
  refine KeepsR.ite (KeepsR.next h) ?_
  split
  · rename_i y1 y2 y3 e4
    have h5 : Keeps z y1 := KeepsP.of_eq e4 (spiReads_keeps h)
    extract_lets -merge -useContext +onlyGivenNames x6
    have h7 : Keeps z x6 := Keeps.ite h5 (State.send_keeps h5)
    clear_value x6
    split
    · rename_i y8 y9 e10
      have h11 : Keeps z y8 := KeepsP.of_eq e10 (KeepsP.ite (spiWrites_keeps h7) (KeepsP.mk h7))
      exact KeepsR.next (State.raise_keeps (State.spiDone_keeps (State.bump_keeps h11)))

theorem State.pciAnswer_keeps {z s : State} {p1 : _} (h : Keeps z s) : Keeps z (State.pciAnswer s p1) :=
  Keeps.ite h (State.raise_keeps (Keeps.ite (State.bump_keeps h) (State.bump_keeps h)))

theorem State.resetSignals_keeps {z s : State} (h : Keeps z s) : Keeps z (State.resetSignals s) :=
  h.same

theorem execFlr_keeps {z s : State} (h : Keeps z s) : KeepsR z (execFlr s) :=
  KeepsR.next (Keeps.ite (State.raise_keeps (State.resetSignals_keeps h)) h)

theorem execSpiWrite_keeps {z s : State} {p0 : _} {p1 : _} (h : Keeps z s) : KeepsR z (execSpiWrite p0 p1 s) := by
  unfold execSpiWrite
  refine KeepsR.ite (KeepsR.next h) ?_
  split
  · rename_i y1 y2 e3
    have h4 : Keeps z y1 := KeepsP.of_eq e3 (spiWrites_keeps h)
    exact KeepsR.next (State.spiDone_keeps (State.send_keeps h4))

theorem execHostAccess_keeps {z s : State} {p0 : _} {p1 : _} {p2 : _} {p3 : _} {p4 : _} {p5 : _} (h : Keeps z s) : KeepsR z (execHostAccess p0 p1 p2 p3 p4 p5 s) := by
  unfold execHostAccess
  refine KeepsR.next (Keeps.ite ?_ h)
  extract_lets -merge -useContext +onlyGivenNames x1
  have h2 : Keeps z x1 := State.barAccess_keeps h
  clear_value x1
  exact Keeps.ite (State.pciAnswer_keeps h2) h2

theorem execSpiId_keeps {z s : State} (h : Keeps z s) : KeepsR z (execSpiId s) :=
  KeepsR.next (Keeps.ite (State.spiDone_keeps (State.send_keeps h)) h)

theorem execPcieLinkChange_keeps {z s : State} {p0 : _} {p1 : _} {p2 : _} {p3 : _} (h : Keeps z s) : KeepsR z (execPcieLinkChange p0 p1 p2 p3 s) := by
  unfold execPcieLinkChange
  refine KeepsR.ite (KeepsR.next h) ?_
  extract_lets -merge -useContext +onlyGivenNames x1
  try clear_value x1
  extract_lets -merge -useContext +onlyGivenNames x2
  have h3 : Keeps z x2 := State.setNum_keeps h
  clear_value x2
  exact KeepsR.next (Keeps.ite h3 (Keeps.ite (State.raise_keeps h3) (State.raise_keeps (State.resetSignals_keeps h3))))

theorem execSpiRead_keeps {z s : State} {p0 : _} {p1 : _} (h : Keeps z s) : KeepsR z (execSpiRead p0 p1 s) := by
  unfold execSpiRead
  refine KeepsR.ite (KeepsR.next h) ?_
  split
  · rename_i y1 y2 y3 e4
    have h5 : Keeps z y1 := KeepsP.of_eq e4 (spiReads_keeps h)
    exact KeepsR.next (State.spiDone_keeps (State.send_keeps h5))

theorem State.haltBoot_keeps {z s : State} {p1 : _} (h : Keeps z s) : Keeps z (State.haltBoot s p1) :=
  State.setFld_keeps h

theorem State.applyHinge_keeps {z s : State} {p1 : _} (h : Keeps z s) : Keeps z (State.applyHinge s p1) :=
  State.setFlag_keeps (State.setFld_keeps (State.setHinge_keeps h))

theorem State.restoreHinge_keeps {z s : State} (h : Keeps z s) : Keeps z (State.restoreHinge s) := by
  refine Keeps.by_eq (State.restoreHinge.eq_1 ..) ?_
  split
  · exact h
  · exact State.applyHinge_keeps h

theorem State.startFirmware_keeps {z s : State} {p1 : _} (h : Keeps z s) : Keeps z (State.startFirmware s p1) := by
  unfold State.startFirmware
  extract_lets -merge -useContext +onlyGivenNames x1
  have h2 : Keeps z x1 := State.setFlag_keeps h
  clear_value x1
  extract_lets -merge -useContext +onlyGivenNames x3 x4
  try clear_value x3
  have h5 : Keeps z x4 := h2.same
  clear_value x4
  extract_lets -merge -useContext +onlyGivenNames x6
  have h7 : Keeps z x6 := State.restoreHinge_keeps (State.restoreLog_keeps h5)
  clear_value x6
  exact Keeps.ite (State.haltBoot_keeps h7) h7

theorem execResetRelease_keeps {z s : State} {p0 : _} {p1 : _} (h : Keeps z s) : KeepsR z (execResetRelease p0 p1 s) := by
  unfold execResetRelease
  refine KeepsR.ite (KeepsR.next h) ?_
  extract_lets -merge -useContext +onlyGivenNames x1 x2
  try clear_value x1
  have h3 : Keeps z x2 := h.same
  clear_value x2
  refine KeepsR.next (Keeps.ite (State.haltBoot_keeps h3) ?_)
  split
  · exact State.haltBoot_keeps (State.mountKeys_keeps h3)
  · exact State.startFirmware_keeps (State.mountKeys_keeps h3)
  · exact State.startFirmware_keeps (State.mountKeys_keeps h3)

theorem State.skipSlot_keeps {z s : State} {p1 : _} {p2 : _} (h : Keeps z s) : Keeps z (State.skipSlot s p1 p2) := by
  unfold State.skipSlot
  extract_lets -merge -useContext +onlyGivenNames x1
  have h2 : Keeps z x1 := State.noteSignature_keeps h
  clear_value x1
  exact Keeps.ite h2 (State.setNum_keeps (State.setNum_keeps h2))

theorem State.tryslots_keeps {z s : State} {p1 : _} (h : Keeps z s) : KeepsP z (State.tryslots s p1) := by
  induction p1 generalizing s with
  | nil =>
    rw [State.tryslots]
    exact KeepsP.mk h
  | cons y r ih =>
    rw [State.tryslots]
    split
    · exact KeepsP.mk h
    · exact ih (State.skipSlot_keeps h)

theorem State.brokenCanary_keeps {z s : State} {p1 : _} (h : Keeps z s) : Keeps z (State.brokenCanary s p1) :=
  State.raise_keeps (State.blockEvent_keeps (State.setFlag_keeps h))

theorem State.mountClock_keeps {z s : State} (h : Keeps z s) : Keeps z (State.mountClock s) := by
  unfold State.mountClock
  extract_lets -merge -useContext +onlyGivenNames x1 x2
  try clear_value x1
  have h3 : Keeps z x2 := Keeps.ite h (State.raise_keeps h.same)
  clear_value x2
  exact State.setFlag_keeps h3.same

theorem State.checkCanaries_keeps {z s : State} (h : Keeps z s) : Keeps z (State.checkCanaries s) := by
  unfold State.checkCanaries
  extract_lets -merge -useContext +onlyGivenNames x1
  try clear_value x1
  extract_lets -merge -useContext +onlyGivenNames x2 x3
  try clear_value x2
  have h4 : Keeps z x3 := Keeps.ite h (State.brokenCanary_keeps h.same)
  clear_value x3
  extract_lets -merge -useContext +onlyGivenNames x5
  have h6 : Keeps z x5 := Keeps.ite h4 (State.brokenCanary_keeps h4)
  clear_value x5
  extract_lets -merge -useContext +onlyGivenNames x7 x8
  try clear_value x7
  have h9 : Keeps z x8 := h6.same
  clear_value x8
  exact State.mountClock_keeps h9

theorem State.commitBlank_keeps {z s : State} {p1 : _} {p2 : _} {p3 : _} (h : Keeps z s) : Keeps z (State.commitBlank s p1 p2 p3) := by
  unfold State.commitBlank
  extract_lets -merge -useContext +onlyGivenNames x1 x2
  try clear_value x1
  have h3 : Keeps z x2 := h.same
  clear_value x2
  extract_lets -merge -useContext +onlyGivenNames x4 x5
  try clear_value x4
  have h6 : Keeps z x5 := h3.same
  clear_value x5
  extract_lets -merge -useContext +onlyGivenNames x7
  have h8 : Keeps z x7 := State.loadGenerations_keeps (State.setFld_keeps (State.setFld_keeps h6))
  clear_value x7
  extract_lets -merge -useContext +onlyGivenNames x9
  have h10 : Keeps z x9 := Keeps.ite (State.deriveKeypol_keeps h8) h8
  clear_value x9
  extract_lets -merge -useContext +onlyGivenNames x11
  have h12 : Keeps z x11 := State.loadSense_keeps (State.loadSolve_keeps (State.loadControl_keeps (State.loadKeep_keeps h10)))
  clear_value x11
  exact State.startTraining_keeps (State.loadLink_keeps h12)

theorem execBlankLoad_keeps {z s : State} (h : Keeps z s) : KeepsR z (execBlankLoad s) := by
  unfold execBlankLoad
  refine KeepsR.ite (KeepsR.next h) ?_
  split
  · rename_i y1 e2
    have h3 : Keeps z y1 := KeepsP.of_eq e2 (State.tryslots_keeps h)
    exact KeepsR.next (State.haltBoot_keeps h3)
  · rename_i y4 y5 y6 y7 e8
    have h9 : Keeps z y4 := KeepsP.of_eq e8 (State.tryslots_keeps h)
    extract_lets -merge -useContext +onlyGivenNames x10 x11
    try clear_value x10
    have h12 : Keeps z x11 := h9.same
    clear_value x11
    exact KeepsR.next (State.tell_keeps (State.checkCanaries_keeps (State.commitBlank_keeps h12)))

theorem State.startPorts_keeps {z s : State} (h : Keeps z s) : Keeps z (State.startPorts s) :=
  Keeps.foldl h fun _ h1 _ => Keeps.ite (State.setPortState_keeps h1) h1

theorem State.leaveMount_keeps {z s : State} (h : Keeps z s) : Keeps z (State.leaveMount s) := by
  unfold State.leaveMount
  refine Keeps.ite (State.enterSafe_keeps h) ?_
  refine Keeps.ite (State.tell_keeps (State.dispatchAll_keeps (State.showCores_keeps (State.setMode_keeps h)))) ?_
  extract_lets -merge -useContext +onlyGivenNames x1
  have h2 : Keeps z x1 := State.cancelLathes_keeps (State.setMode_keeps (State.adpStandby_keeps h))
  clear_value x1
  exact State.tell_keeps (State.selfRefresh_keeps (State.cleGate_keeps (State.gateAxes_keeps (State.gateTasks_keeps h2))))

theorem State.loadTime_keeps {z s : State} (h : Keeps z s) : Keeps z (State.loadTime s) := by
  unfold State.loadTime
  extract_lets -merge -useContext +onlyGivenNames x1
  try clear_value x1
  extract_lets -merge -useContext +onlyGivenNames x2 x3
  try clear_value x2
  have h4 : Keeps z x3 := h.same
  clear_value x3
  exact State.setTimFlag_keeps h4

theorem State.startSpindle_keeps {z s : State} {p1 : _} (h : Keeps z s) : Keeps z (State.startSpindle s p1) := by
  unfold State.startSpindle
  refine Keeps.ite h ?_
  extract_lets -merge -useContext +onlyGivenNames x1
  try clear_value x1
  extract_lets -merge -useContext +onlyGivenNames x2 x3
  try clear_value x2
  try clear_value x3
  refine Keeps.ite (State.setSpin_keeps h) ?_
  extract_lets -merge -useContext +onlyGivenNames x4
  try clear_value x4
  exact State.setSpinFlag_keeps (State.setSpin_keeps h)

theorem State.startBlocks_keeps {z s : State} {p1 : _} (h : Keeps z s) : Keeps z (State.startBlocks s p1) := by
  unfold State.startBlocks
  extract_lets -merge -useContext +onlyGivenNames x1
  have h2 : Keeps z x1 := State.dropSnapshots_keeps (State.loadTime_keeps h)
  clear_value x1
  extract_lets -merge -useContext +onlyGivenNames x3
  have h4 : Keeps z x3 := Keeps.foldl h2 fun _ h5 _ => State.startSpindle_keeps h5
  clear_value x3
  extract_lets -merge -useContext +onlyGivenNames x6
  have h7 : Keeps z x6 := State.adpRestore_keeps (State.setFld_keeps h4)
  clear_value x6
  extract_lets -merge -useContext +onlyGivenNames x8
  have h9 : Keeps z x8 := Keeps.foldl h7 fun _ h10 _ => State.clearWarm_keeps h10
  clear_value x8
  extract_lets -merge -useContext +onlyGivenNames x11
  have h12 : Keeps z x11 := State.startPorts_keeps (State.redriveLatch_keeps (State.startLinks_keeps (State.loadJournal_keeps (State.metRestore_keeps h9))))
  clear_value x11
  extract_lets -merge -useContext +onlyGivenNames x13 x14
  try clear_value x13
  have h15 : Keeps z x14 := h12.same
  clear_value x14
  extract_lets -merge -useContext +onlyGivenNames x16
  have h17 : Keeps z x16 := Keeps.foldl h15 fun _ h18 _ => State.setAxis_keeps h18
  clear_value x16
  exact State.setFlag_keeps (State.axesLost_keeps h17)

theorem State.checkRails_keeps {z s : State} (h : Keeps z s) : Keeps z (State.checkRails s) :=
  Keeps.ite (State.fence_keeps h) h

theorem execMountComplete_keeps {z s : State} {p0 : _} (h : Keeps z s) : KeepsR z (execMountComplete p0 s) := by
  unfold execMountComplete
  refine KeepsR.ite (KeepsR.next h) ?_
  extract_lets -merge -useContext +onlyGivenNames x1
  have h2 : Keeps z x1 := State.leaveMount_keeps (State.startBlocks_keeps h)
  clear_value x1
  extract_lets -merge -useContext +onlyGivenNames x3
  have h4 : Keeps z x3 := Keeps.ite (State.raise_keeps h2) h2
  clear_value x3
  exact KeepsR.next (State.checkRails_keeps h4)

theorem execDdrTrainingDone_keeps {z s : State} {p0 : _} {p1 : _} {p2 : _} {p3 : _} (h : Keeps z s) : KeepsR z (execDdrTrainingDone p0 p1 p2 p3 s) := by
  unfold execDdrTrainingDone
  refine KeepsR.ite (KeepsR.next h) ?_
  extract_lets -merge -useContext +onlyGivenNames x1 x2
  try clear_value x1
  have h3 : Keeps z x2 := h.same
  clear_value x2
  extract_lets -merge -useContext +onlyGivenNames x4
  try clear_value x4
  extract_lets -merge -useContext +onlyGivenNames x5
  have h6 : Keeps z x5 := State.setFld_keeps (State.setFlag_keeps (State.setFlag_keeps h3))
  clear_value x5
  extract_lets -merge -useContext +onlyGivenNames x7
  have h8 : Keeps z x7 := State.setFld_keeps (State.setFlag_keeps (State.setFlag_keeps h6))
  clear_value x7
  extract_lets -merge -useContext +onlyGivenNames x9
  have h10 : Keeps z x9 := State.setNum_keeps h8
  clear_value x9
  exact KeepsR.next (State.raise_keeps (State.raise_keeps (Keeps.ite (State.placeInDdr_keeps h10) h10)))

theorem State.idle_keeps {z s : State} (h : Keeps z s) : Keeps z (State.idle s) :=
  Keeps.ite (State.elapse_keeps h) (State.deliverLoop_keeps h)

theorem State.resume_keeps {z s : State} {p1 : _} (h : Keeps z s) : Keeps z (State.resume s p1) := by
  unfold State.resume
  split
  · rename_i y1 y2 e3
    have h4 : Keeps z y1 := KeepsP.of_eq e3 (State.travel_keeps h)
    refine Keeps.ite ?_ (State.queued_keeps h4)
    extract_lets -merge -useContext +onlyGivenNames x5 x6
    try clear_value x5
    have h7 : Keeps z x6 := h4.same
    clear_value x6
    extract_lets -merge -useContext +onlyGivenNames x8
    have h9 : Keeps z x8 := State.access_keeps h7
    clear_value x8
    extract_lets -merge -useContext +onlyGivenNames x10 x11
    try clear_value x10
    have h12 : Keeps z x11 := h9.same
    clear_value x11
    exact Keeps.ite (State.pciAnswer_keeps h12) h12

theorem State.startPeriod_keeps {z s : State} (h : Keeps z s) : Keeps z (State.startPeriod s) := by
  unfold State.startPeriod
  extract_lets -merge -useContext +onlyGivenNames x1
  have h2 : Keeps z x1 := State.wardBoundary_keeps h
  clear_value x1
  extract_lets -merge -useContext +onlyGivenNames x3
  try clear_value x3
  exact Keeps.foldl h2.same fun _ h4 _ => State.resume_keeps h4

theorem execPeriodLate_keeps {z s : State} (h : Keeps z s) : KeepsR z (execPeriodLate s) := by
  unfold execPeriodLate
  refine KeepsR.ite ?_ (KeepsR.next h)
  refine KeepsR.ite (KeepsR.next h) ?_
  extract_lets -merge -useContext +onlyGivenNames x1
  have h2 : Keeps z x1 := State.elapse_keeps h
  clear_value x1
  exact KeepsR.next (Keeps.ite h2 (State.startPeriod_keeps (State.raise_keeps (State.bump_keeps h2))))

theorem execWardPeriod_keeps {z s : State} (h : Keeps z s) : KeepsR z (execWardPeriod s) := by
  unfold execWardPeriod
  refine KeepsR.ite (KeepsR.next h) ?_
  refine KeepsR.ite (KeepsR.next (State.startPeriod_keeps (State.elapse_keeps h))) ?_
  split
  · exact KeepsR.next h
  · rename_i y3 y4 e5
    have h6 : Keeps z y3 := KeepsOP.of_eq e5 (State.firing_keeps h)
    exact KeepsR.next (State.startPeriod_keeps h6)

end Sys2Proof.Machine
end

