-- ==== Sys2Proof/Laws/Ops.lean ====
section
/-! SUPPORT. What the shared operations can change, said once for each: raising a source, a detector event, a bus error, the checks of a
register write or read. -/
namespace Sys2Proof.Machine

variable (s : State)

/-! ### Interrupt sources -/

/-- Raising a source changes the pending sources alone. -/
theorem State.raise_only (n : Nat) : s.raise n = { s with plic := (s.raise n).plic } := by
  unfold State.raise
  split <;> rfl

theorem State.raiseAll_only (ns : List Nat) : s.raiseAll ns = { s with plic := (s.raiseAll ns).plic } := by
  unfold State.raiseAll
  induction ns generalizing s with
  | nil => rfl
  | cons n r ih =>
    simp only [List.foldl_cons]
    rw [ih (s.raise n)]
    rw [State.raise_only s n]

/-- A source that may rise is pending afterwards. -/
theorem State.raise_plic (n : Nat) (h : (reservedSource n || absentSource s.variant n || decide (511 < n) || !s.awake) = false) :
    (s.raise n).plic = { s.plic with pendingMask := setBit s.plic.pendingMask n } := by
  simp [State.raise, h]

/-- Adding to a bit that is clear is setting it. -/
theorem add_pow_or (m n : Nat) (h : m.testBit n = false) : m + 2 ^ n = m ||| 2 ^ n := by
  have h0 : m &&& 2 ^ n = 0 := by
    apply Nat.eq_of_testBit_eq
    intro i
    simp only [Nat.testBit_and, Nat.testBit_two_pow, Nat.zero_testBit]
    by_cases e : n = i
    · subst e; simp [h]
    · simp [e]
  have hp : 2 ^ n ≤ 2 ^ (m + n) := Nat.pow_le_pow_right (by omega) (by omega)
  have h1 : m < 2 ^ (m + n) := Nat.lt_of_lt_of_le Nat.lt_two_pow_self (Nat.pow_le_pow_right (by omega) (by omega))
  generalize 2 ^ n = p at *
  have hs : m + p < 2 ^ (m + n + 1) := by rw [Nat.pow_succ]; omega
  have hm : m < 2 ^ (m + n + 1) := by omega
  have hn : p < 2 ^ (m + n + 1) := by omega
  have k := congrArg BitVec.toNat (BitVec.add_eq_or_of_and_eq_zero (BitVec.ofNat (m + n + 1) m) (BitVec.ofNat (m + n + 1) p) (by
    apply BitVec.eq_of_toNat_eq
    simp [BitVec.toNat_and, Nat.mod_eq_of_lt hm, Nat.mod_eq_of_lt hn, h0]))
  simpa [BitVec.toNat_add, BitVec.toNat_or, Nat.mod_eq_of_lt hm, Nat.mod_eq_of_lt hn, Nat.mod_eq_of_lt hs] using k

theorem bit_setBit (m n k : Nat) : bit (setBit m n) k = (bit m k || k == n) := by
  unfold setBit
  by_cases h : bit m n = true
  · rw [if_pos h]
    by_cases e : k = n
    · subst e; simp [h]
    · simp [e]
  · rw [if_neg h]
    have h0 : m / 2 ^ n % 2 = 0 := by
      have : ¬ m / 2 ^ n % 2 = 1 := by simpa [bit] using h
      omega
    have hm : m = 2 ^ n * (m / 2 ^ n) + m % 2 ^ n := (Nat.div_add_mod m (2 ^ n)).symm
    have hb : ∀ x i, bit x i = x.testBit i := by
      intro x i
      simp only [bit, Nat.testBit, Nat.shiftRight_eq_div_pow, Nat.one_and_eq_mod_two]
      rcases Nat.mod_two_eq_zero_or_one (x / 2 ^ i) with e | e <;> simp [e]
    have hn : m.testBit n = false := by rw [← hb]; simpa using h
    rw [hb, hb]
    by_cases e : k = n
    · subst e
      rw [Nat.add_comm, Nat.testBit_two_pow_add_eq, hn]
      simp
    · rw [add_pow_or m n hn]
      have : (n == k) = false := by simpa using fun x => e x.symm
      simp [Nat.testBit_or, e, Ne.symm e]

/-- A source that may rise is pending once raised, and a pending source stays so. -/
theorem State.raise_rises (n : Nat) : Rises s (s.raise n) n := by
  intro h
  have h' : (reservedSource n || absentSource s.variant n || decide (511 < n) || !s.awake) = false := by
    unfold State.canRise at h
    revert h
    cases (reservedSource n || absentSource s.variant n || decide (511 < n)) <;> cases s.awake <;> simp
  rw [State.pendingSource, State.raise_plic s n h']
  simp [bit_setBit]

/-! ### Detector events -/

theorem State.countEvent_only (d : Detection) : s.countEvent d = { s with regs := (s.countEvent d).regs } := by
  unfold State.countEvent
  split <;> rfl

theorem State.countEvent_reg (d : Detection) (q : Nat) (h : ¬ inFlt q) : (s.countEvent d).reg q = s.reg q := by
  unfold State.countEvent
  split
  · rfl
  · rename_i hd
    refine State.reg_setReg_ne s _ q _ fun e => h ?_
    subst e
    have : d.det ≤ 0x2C := by omega
    unfold inFlt Reg.fltDcount
    omega

theorem State.noteInjected_only (t : Nat) : s.noteInjected t = { s with inj := (s.noteInjected t).inj } := by
  unfold State.noteInjected
  split <;> rfl

/-- A detector event changes the collector, its registers and the record of an injection alone. -/
theorem State.detect_only (d : Detection) :
    (s.detect d).1 = { s with flt := (s.detect d).1.flt, inj := (s.detect d).1.inj, regs := (s.detect d).1.regs } := by
  unfold State.detect
  extract_lets e u f v
  have hu : u = { s with regs := u.regs } := State.countEvent_only s e
  clear_value u f
  have hv : v = { s with flt := v.flt, regs := v.regs } := by
    unfold v
    split <;> rw [hu]
  clear_value v
  split
  · rw [hu]
  split
  · rw [hu]
  split
  · rw [hu]
  split
  · rw [State.noteInjected_only, hv]
  · simp only []
    rw [State.noteInjected_only]
    unfold State.showWaiting
    rw [hv]
    rfl

theorem State.detect_reg (d : Detection) (q : Nat) (h : ¬ inFlt q) : (s.detect d).1.reg q = s.reg q := by
  unfold State.detect
  extract_lets e u f v
  have hu : u.reg q = s.reg q := State.countEvent_reg s e q h
  clear_value u f
  have hv : v.reg q = s.reg q := by
    unfold v
    split <;> exact hu
  clear_value v
  split
  · exact hu
  split
  · exact hu
  split
  · exact hu
  split
  · rw [State.noteInjected_only]; exact hv
  · simp only []
    rw [State.noteInjected_only]
    refine (State.reg_setReg_ne _ _ q _ fun e => h ?_).trans hv
    subst e
    unfold inFlt Reg.fltStatus
    omega

theorem State.detected_only (d : Detection) :
    s.detected d = { s with flt := (s.detected d).flt, inj := (s.detected d).inj, regs := (s.detected d).regs } := State.detect_only s d

theorem State.detected_reg (d : Detection) (q : Nat) (h : ¬ inFlt q) : (s.detected d).reg q = s.reg q := State.detect_reg s d q h

/-! ### Bus errors -/

/-- A bus error answers its code and reads 0; it changes the collector, the pending sources and the reply alone. -/
theorem State.busError_only (w : Who) (a c n : Nat) :
    s.busError w a c n = { s with
      flt := (s.busError w a c n).flt, inj := (s.busError w a c n).inj, regs := (s.busError w a c n).regs
      plic := (s.busError w a c n).plic, bus := { code := c, data := List.replicate n 0#8 } } := by
  unfold State.busError
  extract_lets u v
  have hu : u = { s with flt := u.flt, inj := u.inj, regs := u.regs } := State.detected_only s _
  clear_value u
  have hv : v = { s with flt := v.flt, inj := v.inj, regs := v.regs, plic := v.plic } := by
    simp only [v]
    split
    · rw [State.raise_only, hu]
    · rw [hu]
  clear_value v
  unfold State.reply
  rw [hv]

theorem State.busError_reg (w : Who) (a c n q : Nat) (h : ¬ inFlt q) : (s.busError w a c n).reg q = s.reg q := by
  unfold State.busError
  extract_lets u v
  have hu : u.reg q = s.reg q := State.detected_reg s _ q h
  clear_value u
  have hv : v.reg q = s.reg q := by
    simp only [v]
    split
    · rw [State.raise_only]; exact hu
    · exact hu
  exact hv

/-! ### Grants -/

/-- An access that is not under a credit finds its target as the state stands. -/
theorem State.grants_free (x : Waiting) (h : s.budgeted x.who = false) : s.grants x = (s, []) := by simp [State.grants, h]

/-- An access with every grant on its path is served. -/
theorem State.arbitrated_ok (x : Waiting) (go : State → State) (u : State) (h : s.grants x = (u, [])) : s.arbitrated x go = go u := by
  simp [State.arbitrated, h]

/-- An access held back waits before the arbiters left. -/
theorem State.arbitrated_waits (x : Waiting) (go : State → State) (u : State) (a : Arbiter) (as : List Arbiter)
    (h : s.grants x = (u, a :: as)) : s.arbitrated x go = u.queued x (a :: as) := by
  simp [State.arbitrated, h]

/-! ### Register commands -/

/-- An admitted write: the block takes the value and acknowledges. -/
theorem State.gated_ok (w : Who) (off : Nat) (v : Word) (take : State → State) (u : State) (h : s.admits w off v u) :
    s.gated w off v take = (take u).replyOk := by
  obtain ⟨h, g⟩ := h
  simp only [State.writable, Bool.and_eq_true, Bool.not_eq_true', beq_iff_eq] at h
  simp only [State.gated, h.1, h.2, Bool.false_eq_true, ↓reduceIte]
  exact State.arbitrated_ok s _ _ u g

theorem State.gatedOr_ok (w : Who) (off : Nat) (v : Word) (take : State → Except Nat State) (u t : State) (h : s.admits w off v u)
    (k : take u = .ok t) : s.gatedOr w off v take = t.replyOk := by
  obtain ⟨h, g⟩ := h
  simp only [State.writable, Bool.and_eq_true, Bool.not_eq_true', beq_iff_eq] at h
  simp only [State.gatedOr, h.1, h.2, Bool.false_eq_true, ↓reduceIte]
  refine (State.arbitrated_ok s _ _ u g).trans ?_
  simp [k]

/-- An admitted read: the block answers. -/
theorem State.gatedRead_ok (w : Who) (off : Nat) (take : State → State × Nat) (u : State) (h : s.admitsRead w off u) :
    s.gatedRead w off take = (take u).1.replyWord (take u).2 := by
  obtain ⟨h, g⟩ := h
  simp only [State.readable, Bool.and_eq_true, Bool.not_eq_true', beq_iff_eq] at h
  simp only [State.gatedRead, h.1, h.2, Bool.false_eq_true, ↓reduceIte]
  exact State.arbitrated_ok s _ _ u g

/-- A refused write: the bus error. -/
theorem State.gated_refused (w : Who) (off : Nat) (v : Word) (take : State → State) (h : s.refusesWrite w off v = true) :
    s.gated w off v take = s.busError w (Addr.regs + off) (s.regWriteCode w (Addr.regs + off) 4 v) 0 := by
  simp only [State.refusesWrite, Bool.and_eq_true, Bool.not_eq_true', bne_iff_ne] at h
  simp [State.gated, h.1, h.2]

theorem State.gatedOr_refused (w : Who) (off : Nat) (v : Word) (take : State → Except Nat State) (h : s.refusesWrite w off v = true) :
    s.gatedOr w off v take = s.busError w (Addr.regs + off) (s.regWriteCode w (Addr.regs + off) 4 v) 0 := by
  simp only [State.refusesWrite, Bool.and_eq_true, Bool.not_eq_true', bne_iff_ne] at h
  simp [State.gatedOr, h.1, h.2]

end Sys2Proof.Machine
end

