-- ==== Sys2Proof/Tests/Slice0.lean ====
section
/-! SUPPORT. Tests of the model. First the checks of well-formedness, each with a command it refuses; then, for every statement that has hypotheses,
a state and operands that meet those of each of its clauses together (named `test_` and the statement's name); then a few steps whose outcome
the spec's own words give. -/
namespace Sys2Proof.Machine

/-- A write that meets no check and needs no credit: the premise of a statement about a write, with the state itself as the state it is served in. -/
def State.lets (s : State) (w : Who) (off : Nat) (v : Word) : Bool := s.writable w off v && !s.budgeted w

theorem State.lets_admits {s : State} {w : Who} {off : Nat} {v : Word} (h : s.lets w off v = true) : s.admits w off v s := by
  simp only [State.lets, Bool.and_eq_true, Bool.not_eq_true'] at h
  exact ⟨h.1, by simp [State.grants, writeAccess, wordAccess, h.2]⟩

/-- The same of a read. -/
def State.letsRead (s : State) (w : Who) (off : Nat) : Bool := s.readable w off && !s.budgeted w

theorem State.letsRead_admits {s : State} {w : Who} {off : Nat} (h : s.letsRead w off = true) : s.admitsRead w off s := by
  simp only [State.letsRead, Bool.and_eq_true, Bool.not_eq_true'] at h
  exact ⟨h.1, by simp [State.grants, readAccess, wordAccess, h.2]⟩

end Sys2Proof.Machine
namespace Sys2Proof.Machine.Slice0
open Sys2Proof Sys2Proof.Machine
set_option Elab.async false

/-! ### Well-formedness -/

def noWho : Who := { id := 32, mmode := true, vc := 0 }
def noErrors : CanErrors := { tec := 257, recv := 0, last := 0 }

/-- An initiator ID beyond 5 bits is refused in every command that names its initiator. -/
theorem test_wellFormed_who : ([.unfence noWho 0, .ddrClear noWho 0, .softReset noWho 0, .safeReq noWho 0, .store noWho 0, .invalidate noWho 0,
    .patchSubmit noWho 0, .hostadv noWho 0 0, .spnAngleRead noWho 0, .timeStep noWho 0, .acceptJump noWho 0, .timeNowRead noWho,
    .rtcSubsecRead noWho, .rtcFracRead noWho, .commit noWho 0, .measStart noWho 0, .rtcSnapshotEnd noWho true, .wrdClear noWho 0,
    .adpStore noWho 0, .latheSubmit noWho 0 0, .cancel noWho 0 0, .flush noWho 0 0, .latheClear noWho 0 0, .fedClear noWho 0,
    .trigger noWho 0, .taskDone noWho 0, .programRun noWho 0 0, .programStop noWho 0 0, .programHold noWho 0 0, .tskClear noWho 0,
    .tuneApply noWho 0, .tuneLoad noWho 0, .cleClear noWho 0, .fusPush noWho 0, .fusClear noWho 0, .intervalWrite noWho 0] : List Instr).all
      (fun i => !i.wellFormed) = true := by decide +kernel

theorem test_wellFormed_who_rest : ([.save noWho 0, .metClear noWho 0, .metRegRead noWho 0, .healthWrite noWho 0, .yield noWho 0, .handover noWho 0,
    .clearUnfit noWho 0, .proofNow noWho 0, .resetEpoch noWho 0, .hngClear noWho 0, .latchCmd noWho 0 0, .latchArm noWho true 0,
    .latClear noWho 0, .axisGo noWho 0, .axisStop noWho 0, .axisHalt noWho 0, .axisHome noWho 0 0, .setPos noWho 0 0, .powerUp noWho 0,
    .powerOff noWho 0, .updGo noWho 0, .linkRetrain 0 (some (noWho, 0)), .keyctl noWho 0 0, .txRingTail noWho 0 0 0, .milClear noWho 0 0,
    .ethTxTail noWho 0 0, .ethMdio noWho 0 0, .ethClear noWho 0, .rxRingTail noWho true 0 0 0, .txreq noWho 0 true 0, .txcan noWho 0 true 0,
    .recover noWho 0 0, .fifoAck noWho 0 0 0, .hprel noWho 0 0, .mbxSend noWho 0, .pop noWho 0, .ring noWho 0, .dmiRead noWho 0,
    .dmiWrite noWho 0, .keyClear noWho 0, .injectLive noWho 0, .injectShadow noWho 0, .injAbort noWho 0, .fltClear noWho 0,
    .unfence { id := 0, mmode := true, vc := 8 } 0] : List Instr).all (fun i => !i.wellFormed) = true := by decide +kernel

def aWho : Who := { id := 8, mmode := false, vc := 7 }

/-- Addresses, sizes and data of accesses. -/
theorem test_wellFormed_access : ([.registerWrite aWho (2 ^ 40) 4 0, .registerWrite aWho 0 3 0, .memoryAccess aWho 0 0 none .clean true,
    .memoryAccess aWho (2 ^ 40 - 1) 2 none .clean true, .memoryAccess aWho 0 2 (some [0#8]) .clean true, .slotStatusRead aWho 2,
    .slotPayloadLastRead aWho 1, .take aWho 2 0, .take aWho (2 ^ 40) 0, .scrubPass 0 [2 ^ 40], .hostAccess 6 0 1 none .clean true,
    .hostAccess 0 0 0 none .clean true, .hostAccess 0 0 2 (some []) .clean true, .spiRead (2 ^ 40 - 4) 2, .spiWrite (2 ^ 40 - 4) [0, 0],
    .spiAbandon (2 ^ 40 - 4) 1 [0]] : List Instr).all (fun i => !i.wellFormed) = true ∧
  ([.registerWrite aWho (2 ^ 40 - 4) 4 0, .memoryAccess aWho (2 ^ 40 - 1) 1 (some [0#8]) .clean true, .take aWho 4 0, .hostAccess 5 0 1 none .clean true,
    .spiRead (2 ^ 40 - 8) 2] : List Instr).all Instr.wellFormed = true := by decide +kernel

/-- The numbers of regions, supplies, spindles, ports and Lathes. -/
theorem test_wellFormed_units : ([.lockstepMismatch 4 0, .chipLevelEvent 45, .readmitDone 4 none, .readmitDone 0 (some 0x2D), .ddrTrainingDone true 0 16 0,
    .ddrTrainingDone true 0 0 256, .ddrTrainingDone true 201 0 0, .ddrRefreshPoll 8 4, .vioBankLow 6, .vioBankGood 6, .vcoreRampStep 1024,
    .phaseFault 4, .railFault 4, .batLow 4096, .clockMonitorFault 6, .timingMarginFault 5 true, .patchChecksDone 4, .patchApply 4,
    .quiesceTimeout 4, .vbatRecovered 4096, .railRecovered 4, .softwareComparatorFire 8 0, .softwareComparatorFire 0 64, .encoderEdge 8 true,
    .encoderIndex 8, .mainsCrossing 3 0 0 0, .spindlePulse 8 true 0 0, .roundTick 8 0 0, .hostadv aWho 8 0, .spindleStall 8, .rejoinEnd 8,
    .spnAngleRead aWho 8, .ptpMessage 7 (.offset 0 0), .announceTimeout 7, .freezeExpired 32 true, .ptpPortTimer 7 .sync, .avsEvaluation [] 0,
    .linkEqUpdate 4 0 [0, 0, 0, 0, 0], .linkEqUpdate 0 0 [0], .taskMove 128, .latheSubmit aWho 4 0, .latheDispatch 4,
    .latheDeadlineQueued 4 0, .latheDeadlineStop 4 0 0, .latheDeadlineStop 0 64 0, .latheCompletion 4 0 0 none 0,
    .latheCompletion 0 64 0 none 0, .cancel aWho 4 0, .flush aWho 4 0, .latheClear aWho 4 0, .latheCellFault 4 0, .latheCellFault 0 1024,
    .sequencerHalt 4] : List Instr).all (fun i => !i.wellFormed) = true := by decide +kernel

/-- The numbers of tasks, streams, quantities, channels, axes and links. -/
theorem test_wellFormed_channels : ([.taskRelease 8 0, .taskRelease 0 64, .taskCommit 8 0, .taskCommit 0 64, .taskFault 8, .programRun aWho 16 0,
    .programStop aWho 16 0, .programHold aWho 16 0, .debugBreak 8, .loopInputWritten 8192, .sampleIntake (.can 4 0) 0 [],
    .sampleIntake (.can 0 (2 ^ 30)) 0 [], .sampleIntake (.eth 2 0) 0 [], .sampleIntake (.eth 0 65536) 0 [], .sampleIntake (.milio 2 0) 0 [],
    .sampleIntake (.milio 0 8) 0 [], .sampleIntake (.met 65536 0) 0 [], .sampleIntake (.met 0 65536) 0 [], .frameFire 8 0, .frameFire 0 64,
    .frameFuse 64, .waitExpired 64, .replay 64, .streamDropped 64, .fusionEngineHalt 2, .waveformPacket 2 0 [], .waveformPacket 0 9 [],
    .mainsCycleEnd 8 0 [], .mainsCycleEnd 0 64 [], .remoteCycleClose 7, .heatStep [0, 0, 0], .meterPulse 4, .pulseStart 4, .pulseEnd 4,
    .batterySecond [0, 0, 0, 0], .metRegRead aWho 112, .waveformSend 0 [], .heartbeat 4 [], .peerLost 2, .latchStatus (.can 4 0) [],
    .latchStatus (.can 0 (2 ^ 30)) [], .latchStatus (.milio 2 0 0) [], .latchCommand (.milio 0 8 0) [], .latchWithdraw (.milio 0 0 65536) [],
    .latchHoldExpiry 64, .latchCmd aWho 64 0, .latchStuck 64, .axisHome aWho 16 0, .setPos aWho 16 0, .stepEmit 16, .homeSwitch 16,
    .currentReduce 16, .prfSample 16] : List Instr).all (fun i => !i.wellFormed) = true := by decide +kernel

/-- The numbers of links, ports and controllers, and their data. -/
theorem test_wellFormed_links : ([.packet 4 [], .packet 0 (List.replicate 289 0#8), .nak 4 0, .nak 0 4096, .ackTimeout 4, .linkinfo 4 [], .blockLockLost 4,
    .linkRetrain 4 none, .kx 4 [], .keyctl aWho 2 0, .kxTimeout 4 0, .kxTimeout 0 9, .txRingTail aWho 2 0 0, .txRingTail aWho 0 9 0,
    .rxfullTimeout 14, .vcStall 4 0, .vcStall 0 9, .milClear aWho 2 0, .ethFrame 6 [] none, .ethTxTail aWho 6 0, .ethMdio aWho 0 65536,
    .blockLockGained 4, .creditReturn 4 0 0 0, .creditReturn 0 4096 0 0, .creditReturn 0 0 9 0, .rxRingTail aWho true 6 0 0,
    .rxRingTail aWho false 2 0 0, .rxRingTail aWho false 0 8 0, .ethLinkChange 6 true 0, .ethLinkChange 0 true 8, .txreq aWho 4 true 0,
    .txcan aWho 4 true 0, .recover aWho 4 0, .recoveryDone 4, .fifoAck aWho 4 0 0, .fifoAck aWho 0 2 0, .hprel aWho 4 0,
    .canFrame 4 0 0 [] default, .canFrame 0 (2 ^ 31) 0 [] default, .canFrame 0 0 0 (List.replicate 65 0#8) default,
    .canFrame 0 0 0 [] noErrors, .txEnd 4 true default, .txEnd 0 true { noErrors with tec := 0, recv := 256 }, .busOff 4 default,
    .busOff 0 { noErrors with tec := 0, last := 8 }, .pcieLinkChange true 16 0 0, .pcieLinkChange true 0 64 0, .pcieLinkChange true 0 0 64,
    .msiX 64, .pop aWho 64, .haltRequest 32, .gpioEdge 128 true] : List Instr).all (fun i => !i.wellFormed) = true := by decide +kernel

/-! ### States the witnesses use -/

def warden : Who := { id := Init.warden, mmode := true, vc := 0 }

/-- A body of `n` bytes with the values `(offset, bytes, value)` in it. -/
def mkBody (n : Nat) (ps : List (Nat × Nat × Nat)) : List Byte :=
  ps.foldl (fun b p => patchBytes b p.1 (leBytes p.2.1 p.2.2)) (List.replicate n 0#8)

def cfg (s : State) (xs : List Section) : State := { s with blk := { s.blk with running := xs } }

/-- The part in a mode, from reset. -/
def inMode (m : Nat) : State := State.reset.setMode m
def run : State := inMode Mode.run

def nextIs (c : Instr) (s : State) (p : State → Bool) : Bool := match exec c s with
  | .next t => p t
  | _ => false

/-! ### Witnesses: the machine as a whole, clears, writers, locks -/

theorem test_StepRunsTheFrontCommandOrLetsTimePass :
    ({ State.reset with pending := [.digest] } : State).pending = .digest :: [] ∧ State.reset.pending = [] ∧ State.reset.mil.loop = [] := by
  decide +kernel

theorem test_StepKeepsTheCanonicalForm : State.reset.canonical = true ∧
    ∃ t, step { State.reset with pending := [.powerFailClear] } = .next t := ⟨by decide +kernel, _, rfl⟩

theorem test_EveryCommandCompletesAndLeavesTheQueue : ∃ t, exec .digest State.reset = .next t := ⟨_, rfl⟩

theorem test_RefusedAccessesChangeNothing :
    (registerWriteOf (.ddrClear aWho 1) = some (aWho, Reg.ddrClear, 1) ∧ run.refusesWrite aWho Reg.ddrClear 1 = true) ∧
    (let s := run.setFlag Reg.sysFence Region.sense true
     registerReadOf (.metRegRead warden 0) = some (warden, Reg.metRegLo 0) ∧ s.silent warden (Addr.regs + Reg.metRegLo 0) 4 false = false ∧
      s.regReadCode warden (Addr.regs + Reg.metRegLo 0) 4 ≠ Code.ok) ∧
    ((registerWriteOf (.ddrClear aWho 1)).isSome ∧ (registerReadOf (.metRegRead warden 0)).isSome ∧ (inMode Mode.vigil).mode = Mode.vigil) := by
  decide +kernel

/-- The premises of the clauses about writes: the write is admitted, here needing no credit. -/
theorem test_writes_admitted : run.admits warden Reg.ddrClear 1 run ∧ run.admitsRead warden Reg.timNowNs run :=
  ⟨State.lets_admits (by decide +kernel), State.letsRead_admits (by decide +kernel)⟩

theorem test_ClearRegistersZeroTheirCounters :
    ([Reg.ddrClear, Reg.fedClear, Reg.keyClear, Reg.hngClear, Reg.latClear, Reg.milClear 0, Reg.milClear 1, Reg.ethClear, Reg.fusClear,
      Reg.cleClear, Reg.fltClear, Reg.tskClear, Reg.wrdClear, Reg.metClear, Reg.lthClear 0, Reg.lthClear 3].all
        fun r => run.lets warden r 1 && run.lets warden r 0xFF) = true := by
  decide +kernel

theorem test_WhoMayWriteTheControlRegisters :
    (let s := run
     [Reg.ddrCtrl, Reg.ddrCeThresh, Reg.ddrClear, Reg.wrdIeLo, Reg.wrdIeHi, Reg.wrdClear, Reg.keyCtrl, Reg.keyClear, Reg.fltCtrl, Reg.fltClear,
        Reg.keySubmit].all
      (fun r => s.regFront warden (Addr.regs + r) 4 true == Code.ok && s.regFront aWho (Addr.regs + r) 4 true == Code.ok &&
        s.regFront aWho (Addr.regs + r) 4 false == Code.ok) = true ∧
     s.secure warden = true ∧ s.secure aWho = false) := by
  decide +kernel

/-- The CE_THRESH register under its LOCK: a write that changes it, and one that does not. -/
theorem test_LockedFieldsStay :
    (let s := run.setFlag Reg.ddrCtrl 0 true
     ∃ r d b, regRowOf Reg.ddrCeThresh = some r ∧ r.lock = some (d, b) ∧ s.silent warden (Addr.regs + Reg.ddrCeThresh) 4 true = false ∧
      s.regFront warden (Addr.regs + Reg.ddrCeThresh) 4 true = Code.ok ∧ s.regOwnDenied warden Reg.ddrCeThresh 0x200 = false ∧
      s.flag (Reg.ddrCeThresh / 0x10000 * 0x10000 + d) b = true ∧
      (0x200#32 ^^^ s.reg Reg.ddrCeThresh) &&& BitVec.ofNat 32 r.rwl ≠ 0#32 ∧
      (s.reg Reg.ddrCeThresh ^^^ s.reg Reg.ddrCeThresh) &&& BitVec.ofNat 32 r.rwl = 0#32 ∧
      s.regOwnDenied warden Reg.ddrCeThresh (s.reg Reg.ddrCeThresh) = false) :=
  ⟨_, 4, 0, rfl, by decide +kernel⟩


/-! ### Witnesses: supplies, resets, modes -/

theorem test_SupplyMonitorsActAndABatteryLossLosesTheDomains :
    (List.range 4).all (fun k => bit (run.fld Reg.pmuPhases 3 0) k) = true ∧ (List.range 4).all run.variant.hasRail = true ∧
    run.pwr.onBattery = false ∧ run.pwr.avsControl = false ∧ (nextIs .vaonFall run fun t => t.pwr.onBattery) = true := by
  decide +kernel

/-- A part with a fusion engine up and one graph. -/
def fusing : State :=
  (cfg run [⟨Ty.fusion, Region.sense, 0, mkBody 0x2000 [(1, 1, 1)]⟩]).setFlag Reg.fusStatus 30 true

theorem test_UncontainedFaultsFenceTheirRegion :
    run.awake = true ∧ (List.range 4).all (fun r => !run.fenced r) = true ∧ run.variant.hasRail 3 = true ∧ 3 < run.variant.lathes ∧
    fusing.variant.hasFus = true ∧ 0 < fusing.variant.fusion ∧ fusing.flag Reg.fusStatus (30 + 0) = true ∧ fusing.fenced Region.sense = false ∧
    run.flag Reg.fusStatus 31 = false ∧ run.dfsMin 0 < 2048 ∧ run.dfsMin 1 < 2048 := by
  decide +kernel

def vigil : State := inMode Mode.vigil

theorem test_ResetsAndVaonFallKeepTheDomains :
    vigil.awake = false ∧ run.awake = true ∧ run.lets warden Reg.sysReset 0xA5C30001 = true ∧ run.claim = 0 ∧ run.chip.delayedReset = false ∧
    (let s : State := { run with chip := { run.chip with delayedReset := true } }
     s.awake = true ∧ s.chip.delayedReset = true ∧ (s.elapse (s.ticksUntil (s.chip.delayedFrom + 1000000 * 2 ^ 32))).claim = 0) ∧ run.flag Reg.pmuBatstat 0 = true ∧
    (run.setFlag Reg.pmuBatstat 0 false).flag Reg.pmuBatstat 0 = false := by
  decide +kernel

/-- A part that mounted its Blank. -/
def loaded (s : State) : State :=
  { s with chip := { s.chip with released := true, firmwareOk := true, blankLoaded := true } }

theorem test_ChipDetectorsResetOrGoToSafe :
    run.awake = true ∧ (loaded run).hingeRuns = true ∧ run.chip.events = [] ∧ resetCause 1 = none ∧ run.hingeRuns = false ∧
    resetCause 0x13 = some Cause.wdtWarden := by
  decide +kernel

theorem test_SafeDrivesEveryOutputSafe :
    [Mode.run, Mode.hold, Mode.standby].all (fun m => (inMode m).lets warden Reg.sysSafeReq 1 && (inMode m).mode == m) = true := by
  decide +kernel

/-! ### Witnesses: MOUNT, memories, balls -/

/-- A part at the end of MOUNT. -/
def mounting : State := { loaded State.reset with chip := { (loaded State.reset).chip with roleKnown := true } }

theorem test_MountRunsFromReleaseToTheModeOfTheRole :
    (State.reset.mode = Mode.mount ∧ State.reset.chip.released = false) ∧
    (let s := loaded State.reset
     s.mode = Mode.mount ∧ s.hingeRuns = true ∧ s.chip.roleKnown = false ∧ (s.setFlag Reg.hngStatus Hng.unfit true).unfit = true) ∧
    (let s : State := { loaded State.reset with chip := { (loaded State.reset).chip with blankLoaded := false } }
     s.mode = Mode.mount ∧ s.chip.firmwareOk = true ∧ s.haltedInMount = false ∧ s.chip.blankLoaded = false) ∧
    (mounting.mode = Mode.mount ∧ mounting.chip.blankLoaded = true ∧ mounting.chip.roleKnown = true ∧ mounting.haltedInMount = false ∧
      mounting.chip.ddrPending = false) := by
  decide +kernel

set_option maxRecDepth 100000 in
/-- Its blocks, once started, leave it in MOUNT. -/
theorem test_MountRunsFromReleaseToTheModeOfTheRole_started : (mounting.startBlocks 300).mode = Mode.mount := by decide +kernel

/-- GPIO 127 on ball 5, its bank good. -/
def balled : State :=
  ((cfg run [⟨Ty.pinmux, Region.link, 0, mkBody 0x40 [(0, 2, 6), (0x10 + 4 * 5, 2, 1 + 127 * 256)]⟩]).setFlag Reg.pinStatus 24 true).setFlag Reg.pinStatus 0 true

theorem test_MemoryControllersAndBallsReport :
    run.awake = true ∧ (run.setFlag Reg.sysScrub 16 true).flag Reg.sysScrub 16 = true ∧
    (let s : State := { run with chip := { run.chip with ddrPending := true } }
     s.awake = true ∧ s.chip.ddrPending = true) ∧
    (run.setFlag Reg.ddrStatus 31 true).flag Reg.ddrStatus 31 = true ∧
    (balled.gpioBall 127 = some 5 ∧ balled.pinGood (5 / balled.variant.bankBalls) = true ∧ balled.gpioDir 127 = false ∧
      balled.gpioIn 127 ≠ true ∧ balled.awake = true ∧
      ((balled.setFlag (Reg.pinRise 3) 31 true).flag (Reg.pinRise (127 / 32)) (127 % 32) = true) ∧ 5 / balled.variant.bankBalls < 6) := by
  decide +kernel

/-! ### Witnesses: power-fail, Blank commands, memory, registers -/

/-- Power fails during an emergency rewrite. -/
def failing (n : Nat) : State :=
  { (cfg run [⟨Ty.metro, Region.sense, 0, mkBody 0x1000 []⟩]).setFlag Reg.metStatus 31 true with
    met := { run.met with emergency := some (61, n) } }

/-- Region 3 is fenced and awaits re-admission. -/
def fencedLink : State := (run.setFlag Reg.sysFence 3 true).setFlag Reg.sysFence 11 true

theorem test_PowerFailWarningsAndReadmissionActAndEnd :
    (let s := run.setFlag Reg.pmuPfi 0 true
     s.awake = true ∧ s.flag Reg.pmuPfi 0 = true ∧ s.flag Reg.pmuPfi 1 = false ∧ s.mode ≠ Mode.mount) ∧
    (let s := State.reset.setFlag Reg.pmuPfi 0 true
     s.awake = true ∧ s.flag Reg.pmuPfi 0 = true ∧ s.flag Reg.pmuPfi 1 = false ∧ s.mode = Mode.mount) ∧
    (run.setFlag Reg.pmuPfi 1 true).flag Reg.pmuPfi 1 = true ∧ run.flag Reg.pmuPfi 1 = false ∧
    (∀ n ∈ [99, 100], (failing n).met.emergency = some (61, n) ∧ (failing n).metRuns = true ∧ (failing n).powerFailing = true) ∧
    run.lets warden Reg.sysUnfence 8 = true ∧ fencedLink.awake = true ∧ fencedLink.fenced 3 = true ∧
    fencedLink.flag Reg.sysFence (8 + 3) = true ∧ run.flag Reg.sysFence (8 + 3) = false := by
  decide +kernel

/-- A STORE's source and length. -/
def storing : State := (run.setNum Reg.blkSrcLo Addr.stock).setNum Reg.blkSrcLen 0x200

theorem test_SlotCommandsStoreAndInvalidate :
    [0x4B420011#32, 0x4B420012#32, 0x4B420003#32, 0x1#32].all (fun v => storing.lets warden Reg.blkCmd v) = true ∧
    storing.flag Reg.blkCmdstat 31 = false ∧ (storing.setFlag Reg.blkCmdstat 31 true).flag Reg.blkCmdstat 31 = true ∧
    (storing.setFlag Reg.blkCmdstat 31 true).lets warden Reg.blkCmd 0x4B420011 = true ∧ field 0x1#32 31 16 ≠ 0x4B42 ∧ field 0x4B420003#32 31 16 = 0x4B42 ∧
    storing.slotRefusal 3 0 (storing.num Reg.blkSrcLo + storing.num Reg.blkSrcHi * 2 ^ 32) 0x200 = some BlankCode.badValue ∧
    storing.slotRefusal 1 1 (storing.num Reg.blkSrcLo + storing.num Reg.blkSrcHi * 2 ^ 32) (storing.num Reg.blkSrcLen) = none ∧
    storing.slotRefusal 2 1 (storing.num Reg.blkSrcLo + storing.num Reg.blkSrcHi * 2 ^ 32) (storing.num Reg.blkSrcLen) = none ∧
    (let k : SlotCommand := { op := 1, slot := 1, src := Addr.stock, len := 0x200, code := 0, image := List.replicate 64 1#8 }
     let s : State := { run with blk := { run.blk with cmd := some k } }
     s.blk.cmd = some k ∧ s.awake = true ∧ k.image ≠ []) ∧ run.blk.cmd = none := by
  decide +kernel

/-- A patch of Control that holds an empty WARD section. -/
def patchImage : List Byte := mkBody 0x150 [(0xA, 2, 1), (0xC, 4, 0x150), (0x40, 4, 0x10102)]
def parsed : List Placed := [(0x40, { type := Ty.ward, region := 1, index := 0, body := [] })]
def request (passed : Bool) : PatchRequest := { desc := 0x100, who := 14, image := patchImage, len := 0x150, passed := passed, checked := 0 }
def patching (passed : Bool) : State := { run with blk := { run.blk with runs := run.blk.runs.set 0 (some (request passed)) } }

/-- One that has passed and finds no quiesce point. -/
def unquiet : PatchRequest := { request true with image := [] }

theorem test_PatchesRunOneByOne :
    (run.lets warden Reg.blkSubmit 0x100 = true ∧ (0x100#32).toNat / 16 % 2 ^ 20 * 16 < run.variant.stockBytes ∧ run.awake = true ∧
      run.partialBad (Addr.stock + 0x10C) 4 = none) ∧
    (∀ p ∈ [false, true], (patching p).blk.runs.get 0 = some (request p) ∧ (request p).passed = p ∧ (patching p).blk.waits.get 0 = none ∧
      (patching p).partialBad (Addr.stock + (request p).desc + 0xC) 4 = none) ∧
    ((request true).sections = some (parsed.map Prod.snd) ∧ (patching true).patchUsable 0 (request true) = true ∧
      (patching true).patchUsable 0 unquiet = false ∧ (patching false).patchUsable 0 (request false) = false) := by
  decide +kernel

def shownResult : Result := { seq := 5, code := 0, err := false, seasoning := false, stale := false, payload := List.replicate 4 7#8 }
def shownSlot : Slot := { shown := some shownResult, waiting := none, held := false, fresh := true, nextSeq := 6, reads := 0, writer := Init.keeper }
def slotted : State := { run with slots := run.slots.set (Addr.stock + 0x8100) shownSlot }

/-- Accesses of 8 and 4 bytes, whole and partial, of sound words and of a bad one; and the words of a result slot. -/
theorem test_MemoryAndResultSlotsHoldTheirData :
    (run.silent warden (Addr.stock + 0x8000) 8 true = false ∧ run.memCode warden (Addr.stock + 0x8000) 8 true = Code.ok ∧ run.budgeted warden = false ∧
      run.badWordIn ((Addr.stock + 0x8004) / 8 * 8) (max 4 8) = none ∧ run.inj.run = none ∧ run.memCode warden (Addr.stock + 0x8004) 4 true = Code.ok ∧
      run.slotsAt 8 (Addr.stock + 0x8000) 8 = [] ∧ run.slotsAt 0 (Addr.stock + 8) 8 = [] ∧
      run.silent warden (Addr.stock + 8) 8 false = false ∧ run.memCode warden (Addr.stock + 8) 8 false = Code.ok ∧
      memoryKind (Addr.stock + 8) ≠ none ∧
      ({ run with poison := [Addr.stock + 8] } : State).badWordIn ((Addr.stock + 8) / 8 * 8) (max 8 8) ≠ none) ∧
    (let a := Addr.stock + 0x8100
     let k := slotted.slots.get a
     let last := a + 0x10 + (max 4 k.payloadBytes - 4)
     k.shown = some shownResult ∧ k.waiting = none ∧ slotted.budgeted warden = false ∧
      [(a, false), (last, false), (a + 8, true)].all (fun x => !slotted.silent warden x.1 4 x.2 && slotted.memCode warden x.1 4 x.2 == Code.ok &&
        slotted.badWordIn (x.1 / 8 * 8) 8 == none) = true ∧
      slotted.partialBad a (16 + shownResult.payload.length) = none ∧ slotted.partialBad a 4 = none ∧
      slotted.storeLocks (engineWho k.writer) a (16 + shownResult.payload.length) = false) := by
  decide +kernel

/-- No injection runs, so no read is one's opportunity. -/
theorem test_MemoryAndResultSlotsHoldTheirData_reads (ds : List Nat) (a n : Nat) : run.waitsForRead ds a n = none := by rfl

/-- A read-only register, and a stored one. -/
theorem test_PlainRegistersStoreTheirWritableBits :
    (∃ r, regRowOf Reg.sysId = some r ∧ run.lets warden Reg.sysId 1 = true ∧ Reg.sysId < Plic.base ∧ takerOf Reg.sysId = none ∧ r.kind ≠ .masked) ∧
    (∃ r, regRowOf Reg.ddrCeThresh = some r ∧ run.lets warden Reg.ddrCeThresh 1 = true ∧ Reg.ddrCeThresh < Plic.base ∧
      takerOf Reg.ddrCeThresh = none ∧ r.kind = .masked ∧ Reg.ddrCeThresh ∉ [Reg.timUtcOffset, Reg.rtcTrim, Reg.sysScrub] ∧
      hit (Reg.cleLen 0) 8 4 Reg.ddrCeThresh = none ∧ hit (Reg.pinOut 0) 8 4 Reg.ddrCeThresh = none ∧
      hit (Reg.pciVmap 0) 64 4 Reg.ddrCeThresh = none) :=
  ⟨⟨_, rfl, by decide +kernel⟩, ⟨_, rfl, by decide +kernel⟩⟩

/-! ### Witnesses: spindles, device time, the calendar -/

/-- Spindles 0 to 5 by SHAFT 7 with INDEX, MAINS 2, PULSE 7, ROUND 7, HOST with a stall time, and TIME; comparator 63 of spindle 7 is due. -/
def spinning : State :=
  let s := cfg run [⟨Ty.spindle, Region.sense, 0, mkBody 0x210 [(spindleEntry 0, 3, 0x020702), (spindleEntry 0 + 0x20, 4, 65536), (spindleEntry 0 + 0x24, 4, 6553600),
    (spindleEntry 1, 2, 0x0201), (spindleEntry 2, 2, 0x0703), (spindleEntry 3, 2, 0x0704), (spindleEntry 4, 4, 0x0E000005), (spindleEntry 4 + 4, 2, 100), (spindleEntry 6, 1, 7)]⟩]
  let s := (List.range 8).foldl (fun s n => s.setSpin n { s.spin n with known := true }) s
  { s with spn := { s.spn with due := [{ spindle := 7, cmp := 63, target := 0, time := 0, ran := 0 }] } }

theorem test_SpindlesMoveStallRejoinAndFire :
    (spinning.spinsOf Src.shaft 7 = [0] ∧ spinning.spindleIndex 0 = true ∧ spinning.spinsOf Src.mains 2 = [1] ∧
      spinning.spinsOf Src.pulse 7 = [2] ∧ spinning.spinsOf Src.round 7 = [3] ∧ [0, 1, 2, 4].all spinning.follows = true ∧
      spinning.spinFlag 0 Spn.subst = false ∧ spinning.spinFlag 3 Spn.rejoin = false) ∧
    (spinning.lets warden (Reg.spnHostadv 4) 1 = true ∧ spinning.spinListens 4 = true ∧ spinning.spinListens 6 = false ∧
      spinning.spinFlag 4 Spn.rejoin = false ∧ spinning.lets warden (Reg.spnHostadv 4) 0 = true ∧
      (spinning.setSpin 4 default).follows 4 = false) ∧
    ((spinning.stallDue 4).isSome = true ∧ spinning.stallDue 6 = none) ∧
    (let s := (spinning.setFlag (Reg.spnState 0) Spn.rejoin true).setSpin 0 { spinning.spin 0 with src := 100 }
     s.spinFlag 0 Spn.rejoin = true ∧ s.spinRuns 0 = true ∧ (s.ticksToClose 0).isSome = true ∧ s.spindleSrc 0 ≠ Src.time) ∧
    (spinning.letsRead aWho (Reg.spnAngle 7) = true ∧ spinning.fenced Region.sense = false ∧ (spinning.firing 0 7 63).isSome = true ∧
      spinning.firing 0 7 62 = none) := by
  decide +kernel

theorem test_TimeStepsSecondsAndMasters :
    (run.lets warden Reg.timStepGo 0x53540001 = true ∧ run.lets warden Reg.timStepGo 0x53540000 = true ∧
      (decide (field 0x53540001#32 31 16 = 0x5354) && bit (0x53540001#32).toNat 0) = true ∧
      (decide (field 0x53540000#32 31 16 = 0x5354) && bit (0x53540000#32).toNat 0) = false ∧
      signed 32 ((run.setNum Reg.timStepNs 0xC4653600).num Reg.timStepNs) < -999999999 ∧
      signed 32 ((run.setNum Reg.timStepNs 1000000000).num Reg.timStepNs) > 999999999 ∧
      (-999999999 ≤ signed 32 (run.num Reg.timStepNs) ∧ signed 32 (run.num Reg.timStepNs) ≤ 999999999 ∧
        0 ≤ (run.time.units : Int) + (signed 32 (run.num Reg.timStepSec) * 1000000000 + signed 32 (run.num Reg.timStepNs)) * 2 ^ 32) ∧
      (run.time.units : Int) + (signed 32 ((run.setNum Reg.timStepSec 0xFFFFFFFF).num Reg.timStepSec) * 1000000000) * 2 ^ 32 < 0) ∧
    (run.awake = true ∧ run.time.sec + run.time.sub / (1000000000 * 2 ^ 32) + 2 < 2 ^ 64 ∧ run.time.sub < 1000000000 * 2 ^ 32) ∧
    (let s : State := { run.setFld Reg.timStatus 2 0 TimeState.acquiring with tim := { run.tim with goodSince := some 0 } }
     s.timState = TimeState.acquiring ∧ s.tim.goodSince = some 0 ∧ run.timState ≠ TimeState.acquiring) := by
  decide +kernel

/-- PTP port 1 an ordinary clock in a state, port 2 transparent, the others without a role; end to end, or peer to peer. -/
def ptp (peer : Bool) (state : Nat) : State :=
  (cfg run [⟨Ty.struct, Region.link, 0, mkBody 0x600 [(0x10, 1, if peer then 1 else 0), (0x16, 1, 1), (0x17, 1, 2), (ethEntry 0, 1, 1), (ethEntry 1, 1, 1),
    (ethEntry 0 + 4, 1, 2)]⟩]).setFld (Reg.timPortState 0) 3 0 state

def aMaster : PtpDataSet := { prio1 := 0, cls := 6, accuracy := 0x20, variance := 0, prio2 := 0, gm := 9, steps := 0, sender := 9, senderPort := 1 }

theorem test_TimeStepsSecondsAndMasters_masters :
    ((ptp false PortState.slave).ptpRole 1 = 1 ∧ (ptp false PortState.slave).portState 1 = PortState.slave ∧ (ptp false PortState.slave).ptpRole 3 = 0) ∧
    (run.setFlag Reg.timStatus Tim.slewing true).timFlag Tim.slewing = true ∧ run.timFlag Tim.slewing = false ∧ run.lets warden Reg.timAcceptJump 1 = true ∧
    (let s := { (run.setFlag Reg.timStatus Tim.selfAccept true).setFlag Reg.timStatus Tim.jumpRefused true with
       tim := { run.tim with candidate := some 9, candLast := some (-5, 0), candSince := some 0 } }
     let u := s.elapse (s.ticksUntil (0 + s.num Reg.timJumpConfirm * secondUnits))
     s.tim.candidate = some 9 ∧ s.tim.candLast = some (-5, 0) ∧ s.tim.candSince = some 0 ∧ s.timFlag Tim.selfAccept = true ∧
      s.timFlag Tim.jumpRefused = true ∧ s.awake = true ∧ 0 ≤ (u.time.units : Int) + -(-5) * 2 ^ 32) ∧ run.tim.candidate = none := by
  decide +kernel

theorem test_PtpPortsAndTheTimeSnapshot :
    (let s := ptp false PortState.slave
     s.ptpRuns = true ∧ s.ptpRole 1 = 1 ∧ s.ptpRole 2 = 2 ∧ s.ptpRole 3 = 0 ∧ s.portState 1 = PortState.slave ∧ s.ptpPeer = false ∧
      State.reset.ptpRuns = false ∧ s.clockIdentity ≠ aMaster.sender ∧ s.tim.candidate = none ∧ s.timFlag Tim.slewing = false ∧
      ({ s with tim := { s.tim with gm := some 9 } } : State).tim.gm ≠ none ∧ s.flag Reg.timCtrl 0 = true ∧
      (s.setFlag Reg.timCtrl 0 false).flag Reg.timCtrl 0 = false ∧ s.letsRead aWho Reg.timNowNs = true) ∧
    (let s := ptp false PortState.listening
     s.bestMaster = none ∧ s.portState 1 = PortState.listening ∧ dataSetBetter s.ptpDefault aMaster = false ∧ s.ptpSlaveOnly = false) ∧
    (let s := ptp false PortState.master
     s.ptpRuns = true ∧ s.ptpRole 1 = 1 ∧ s.portState 1 = PortState.master ∧ s.ptpPeer = false) ∧
    ((ptp true PortState.slave).ptpPeer = true ∧ (ptp true PortState.preMaster).portState 1 = PortState.preMaster) := by
  decide +kernel

/-- A snapshot of a reader, taken at reset. -/
def aSnap : RtcSnap := { sec := 1, tick := 2, taken := 0 }

theorem test_CalendarSnapshotsAndTheBlock :
    [Reg.rtcSubsec, Reg.rtcFrac, Reg.rtcYear, Reg.rtcSecHi].all (run.letsRead aWho) = true ∧
    (let s : State := { run with rtc := { run.rtc with cellSnaps := run.rtc.cellSnaps.set 31 (some aSnap), blockSnaps := run.rtc.blockSnaps.set 0 (some aSnap) } }
     s.rtc.cellSnaps.get 31 = some aSnap ∧ s.rtc.blockSnaps.get 0 = some aSnap ∧ s.rtc.cellSnaps.get 30 = none ∧ s.awake = true) := by
  decide +kernel

/-- A commit waits, and a measurement runs: by device time, or by spindle 0. -/
def committing : State :=
  (((run.setFlag Reg.rtcStatus Rtc.busy true).setFlag Reg.rtcStatus Rtc.measBusy true).setFld Reg.timStatus 2 0 TimeState.locked).setFld Reg.rtcMeasCtrl 31 16 1

theorem test_CalendarCommitsTrimsAndMeasures :
    (committing.lets warden Reg.rtcCommit 0x52540001 = true ∧ run.lets warden Reg.rtcCommit 0x52540001 = true ∧
      committing.flag Reg.rtcStatus Rtc.busy = true ∧ run.flag Reg.rtcStatus Rtc.busy = false ∧ field 0x52540001#32 31 16 = 0x5254 ∧
      run.lets warden Reg.rtcCommit 0x52540000 = true ∧ run.stagedSec.isSome = true ∧
      (run.setNum Reg.rtcSetDate 0).stagedSec = none) ∧
    (let s : State := { run with rtc := { run.rtc with trim := 0x400 } }
     s.rtc.trimSize ≠ 0 ∧ s.rtc.trimAcc < 2 ^ 23 ∧ s.rtc.trimPositive = false ∧ s.rtc.phase < 250000000 ∧ run.rtc.trimSize = 0) ∧
    (run.lets warden Reg.rtcMeasCtrl 0x10001 = true ∧ run.flag Reg.rtcStatus Rtc.measBusy = false ∧
      run.lets warden Reg.rtcMeasCtrl 0x00170003 = true ∧ field 0x00170003#32 31 16 < 24) ∧
    (committing.flag Reg.rtcStatus Rtc.measBusy = true ∧ committing.measLost = false ∧ committing.measTicks.isSome = true ∧
      committing.flag Reg.rtcMeasCtrl 7 = false ∧ (committing.setFlag Reg.rtcMeasCtrl 7 true).flag Reg.rtcMeasCtrl 7 = true ∧
      (committing.setFld Reg.timStatus 2 0 TimeState.free).measLost = true ∧ (committing.setFlag Reg.rtcMeasCtrl 1 true).measTicks = none) := by
  decide +kernel

/-! ### Witnesses: Wards, adaptive loops, Lathes -/

/-- Wards on the internal generator, and on comparator 63 of spindle 7, which is due. -/
def warding (internal : Bool) : State :=
  let w : Section := ⟨Ty.ward, Region.keep, 0, mkBody 0x100 [(2, 2, if internal then 0xFF else 0x3F07), (4, 4, 1000)]⟩
  { cfg run [w, ⟨Ty.spindle, Region.sense, 0, mkBody 0x220 [(0, 2, 1), (comparatorEntry 0, 3, 0x053F07)]⟩] with
    spn := { run.spn with due := [{ spindle := 7, cmp := 63, target := 0, time := 0, ran := 0 }] } }

/-- Lathe 0 is holder 1: its region's mesh grants it so many beats in a period, the crossbar one. -/
def allotted (mesh : Nat) : State :=
  let keep : Section := ⟨Ty.ward, Region.keep, 0, mkBody 0x100 [(0, 1, 2), (2, 2, 0xFF), (4, 4, 1000), (holderEntry 1, 1, 5), (holderEntry 1 + 4, 4, 1)]⟩
  let solve : List Byte := mkBody 0x40 [(0, 2, 1), (0x10, 4, 0xFF000301), (0x14, 4, mesh)]
  { cfg run [keep, ⟨Ty.ward, Region.solve, 0, solve⟩] with ward := { run.ward with bodies := run.ward.bodies.set Region.solve solve } }

/-- A write of Lathe 0 that is granted from its credit, and one that meets it spent. -/
def itsWrite : Waiting := writeAccess aWho Reg.keyClear 0

theorem test_WardsRefillAndAdaptiveLoopsStep :
    ((warding true).wardRuns = true ∧ (warding true).wardSpindle = 0xFF ∧ (warding false).wardRuns = true ∧ (warding false).wardSpindle ≠ 0xFF ∧
      (warding false).waits 7 63 = true ∧ ({ warding false with spn := run.spn } : State).waits 7 63 = false ∧
      ((warding false).firing Consumer.wrd 7 63).isSome = true ∧ run.wardRuns = false) ∧
    ((allotted 1).budgeted aWho = true ∧ (allotted 1).budgeted warden = false ∧ (allotted 1).holderOf aWho = 1 ∧ ((allotted 1).grants itsWrite).2 = [] ∧
      (((allotted 1).grants itsWrite).1.grants itsWrite).2 ≠ [] ∧ (allotted 1).allotment 1 { level := 3, region := 1, target := 0, unit := 0, bank := 0 } = 1 ∧
      (allotted 1).allotment 1 { level := 3, region := 4, target := 0, unit := 0, bank := 0 } = 0) ∧
    (let s := run.setNum Reg.adpEnable 0x1F
     s.loopActs Loop.avs = true ∧ s.adpHolds 4 = false ∧ s.loopActs Loop.eq = true ∧ 3 < s.variant.lanes ∧ s.variant.lanes ≤ 4 ∧
      s.fenced Region.link = false ∧ s.loopActs Loop.thresh = true ∧ run.loopActs Loop.eq = false ∧ run.loopActs Loop.thresh = false) := by
  decide +kernel

/-- The register command of a write that waits. -/
theorem test_WardsRefillAndAdaptiveLoopsStep_waits :
    (let o := ((allotted 1).grants (writeAccess aWho (Reg.lthCancel 3) 5)).1
     o.writable aWho (Reg.lthCancel 3) 5 = true ∧ (o.grants (writeAccess aWho (Reg.lthCancel 3) 5)).2 ≠ [] ∧
      registerWriteOf (.cancel aWho 3 5) = some (aWho, Reg.lthCancel 3, 5)) := by
  decide +kernel

/-- Task 0 of two waits to move to core 6. -/
def placing : State :=
  let s := cfg run [⟨Ty.task, Region.control, 0, mkBody 0x1000 [(0, 2, 0x0201)]⟩]
  s.setTask 0 { s.task 0 with move := some 6 }

theorem test_PlacementsAndLastGoodRecords :
    State.reset.tskRuns = false ∧ placing.tskRuns = true ∧ (placing.task 1).move = none ∧ 1 < placing.ntask ∧
    ((placing.task 0).move = some 6 ∧ (placing.task 0).live = false ∧ placing.programMode (placing.taskDef 0).prog ≠ Program.hold ∧
      placing.takesTasks 6 = true ∧ placing.tasksOn 6 < 32) ∧
    ((run.setNum Reg.adpFreeze 16).num Reg.adpFreeze % 32 ≠ 0 ∧ run.num Reg.adpFreeze % 32 = 0 ∧ Mode.mount < run.mode ∧
      run.lets warden Reg.adpStore 0x4C470001 = true ∧ run.lets warden Reg.adpStore 0x4C470000 = true ∧
      field 0x4C470001#32 31 16 = 0x4C47 ∧ bit (0x4C470001#32).toNat 0 = true ∧
      (let place := run.lastGoodBase
       run.partialBad place 256 = none ∧ run.storeLocks (engineWho Init.warden) place 256 = false)) := by
  decide +kernel

/-- Lathe 3 with its queue open to the Warden, and a descriptor without a deadline in Stock at 0x8000. -/
def open3 : State :=
  (((cfg run [⟨Ty.lathe, Region.solve, 3, mkBody 0x200 [(0, 1, 1), (0x40 + 2 * 14, 2, 4)]⟩]).setFlag (Reg.lthQctrl 3) 0 true).poke
    (Addr.stock + 0x8000) [0#8, 0#8, 0#8, 8#8]).poke (Addr.stock + 0x8040) (leBytes 64 0)

def descBytes (n : Nat) : List Byte := open3.bytes (Addr.stock + 0x8000 + 64 * n) 64

theorem test_LathesQueueOrRefuseDescriptors :
    (open3.lets warden (Reg.lthSubmit 3) 0x8000 = true ∧ field 0x8000#32 23 6 * 64 < open3.variant.stockBytes ∧
      (let s := (State.powerUp .ev4804).setMode Mode.run
       s.variant.stockBytes ≤ field 0xFFFFC0#32 23 6 * 64 ∧ s.lets warden (Reg.lthSubmit 0) 0xFFFFC0 = true) ∧
      open3.refuseReason 3 warden.id = 0 ∧ run.refuseReason 3 warden.id ≠ 0 ∧ run.lets warden (Reg.lthSubmit 3) 0x8000 = true ∧
      Desc.noDeadline (descBytes 0) = true ∧ open3.badWordIn (Addr.stock + 0x8000) 64 = none ∧
      ({ open3 with poison := [Addr.stock + 0x8000] } : State).badWordIn (Addr.stock + 0x8000) 64 ≠ none) ∧
    (Desc.noDeadline (descBytes 1) = false ∧ ((open3.elapse 1).deadlineValid (Desc.deadline (descBytes 1))) = true ∧
      ((open3.elapse 1).deadlinePassed (Desc.deadline (descBytes 1))) = true ∧ (open3.elapse 1).refuseReason 3 warden.id = 0 ∧
      (open3.elapse 1).lets warden (Reg.lthSubmit 3) 0x8040 = true ∧ warden.id ≠ Init.fed) ∧
    (run.lets warden (Reg.lthQctrl 0) 0x101 = true ∧ run.lets warden (Reg.lthQctrl 0) 1 = true) := by
  decide +kernel

def aJob : LatheJob := { ticket := 5, who := 8, desc := descBytes 1 }
def aRun : LatheRun :=
  { job := aJob, start := 0, ran := 0, seasoning := false, subst := false, remapped := false, discarded := false, matched := 0,
    x := [], z := [], y := [], rho := 0 }
def queued : State := open3.setLth 3 { queue := [aJob], runs := Tab.empty.set 0 (some aRun), next := 6 }

theorem test_LathesRunDescriptorsToTheirSlots :
    State.reset.latheRuns 3 = false ∧ queued.latheRuns 3 = true ∧
    ((queued.jobOrder 3).find? fun j => queued.dispatchOf 3 j.desc != .wait) = some aJob ∧ aJob.who ≠ Init.fed ∧
    ((queued.lth 3).queue.find? fun j => j.ticket == 4) = none ∧ ((queued.lth 3).queue.find? fun j => j.ticket == 5) = some aJob ∧
    Desc.noDeadline aJob.desc = false ∧ queued.deadlineValid (Desc.deadline aJob.desc) = true ∧
    (queued.lets aWho (Reg.lthCancel 3) 5 = true ∧ aJob.who = aWho.id ∧ queued.lets { aWho with id := 9 } (Reg.lthCancel 3) 5 = true ∧
      queued.secure { aWho with id := 9 } = false) ∧
    ((open3.lth 3).queue = [] ∧ (open3.lth 3).runs = Tab.empty ∧ open3.lets aWho (Reg.lthCancel 3) 5 = true) ∧
    (queued.chuckRun 3 1 = none ∧ queued.chuckRun 3 0 = some aRun ∧ aRun.job.who ≠ Init.fed ∧
      queued.latheSlot 3 aRun.job.desc + 256 ≤ Addr.lathe) ∧
    (0 < queued.variant.cellsPerLathe ∧ 3 < queued.variant.lathes ∧ queued.fenced Region.solve = false ∧ 0 < queued.nchuck 3 ∧
      queued.chuckFirst 3 0 ≤ 0 ∧ 0 < queued.chuckFirst 3 0 + queued.chuckCells 3 0) := by
  decide +kernel

/-! ### Witnesses: federations -/

/-- A node 1 of a federation in a role, generation 7, with a member child 5 and an area child 6; its round comparator, 63 of spindle 7, is due. -/
def federated (role : Nat) : State :=
  let fed : Section := ⟨Ty.fed, Region.solve, 0, mkBody 0x200 [(0, 1, role), (4, 4, 7), (8, 2, 0x3F07), (0xA, 2, 4), (0xE, 2, 2), (0x10, 4, 1000), (0x14, 4, 2000), (0x28, 2, 9),
    (0x2E, 1, 1), (childEntry 0, 2, 5), (childEntry 0 + 7, 1, 1), (childEntry 1, 2, 6), (childEntry 1 + 6, 1, 1)]⟩
  let spindle : Section := ⟨Ty.spindle, Region.sense, 0, mkBody 0x220 [(0, 2, 1), (comparatorEntry 0, 3, 0x063F07)]⟩
  let s := cfg run [fed, spindle]
  { s with blk := { s.blk with node := 1 }, spn := { s.spn with due := [{ spindle := 7, cmp := 63, target := 0, time := 0, ran := 0 }] }, fed := { s.fed with active := true } }

def message (type flags frag src gen claim : Nat) : List Byte :=
  mkBody 64 [(0, 1, type), (1, 1, flags), (3, 1, frag), (4, 2, src), (6, 2, 1), (8, 4, gen), (0x14, 4, claim)]

theorem test_FederationRoundsOpenAndClose :
    (let s := federated Fed.top
     s.fedRuns = true ∧ s.fedRole = Fed.top ∧ (s.firing Consumer.fed s.fedSpindle (u8 s.fedBody 9)).isSome = true ∧ s.fed.active = true ∧
      s.fed.closed = false ∧ s.fed.published = false ∧ s.fed.owed = none ∧ s.newPlan s.fed.downPlan = true) ∧
    (run.fedRuns = false ∧ (federated Fed.member).fedRole ≠ Fed.top) ∧
    (∀ fl ∈ [0, 4], let s := federated Fed.area
      let m := message Mtype.up fl 0 5 7 0
      s.fedRuns = true ∧ Fmsg.gen m = s.fedGen ∧ Fmsg.dst m = s.blk.node ∧ s.childOf (Fmsg.src m) = some (0, 0) ∧ s.childIsArea 0 = false ∧
        s.fed.claims.get 0 ≤ Fmsg.claim m ∧ s.fed.closed = false ∧ Fmsg.round m = s.fed.round ∧ ¬ s.acceptAngle false ≤ s.roundAngle ∧ 2 ≤ s.fedRole ∧ Fmsg.type m = Mtype.up ∧
        Fmsg.failed m = (fl == 4)) ∧
    (∀ fl ∈ [0, 8], let s := federated Fed.top
      let m := message Mtype.areaUp fl 0 6 7 0
      s.fedRuns = true ∧ Fmsg.gen m = s.fedGen ∧ Fmsg.dst m = s.blk.node ∧ s.childOf (Fmsg.src m) = some (1, 0) ∧ s.childIsArea 1 = true ∧
        s.fed.claims.get 1 ≤ Fmsg.claim m ∧ s.fed.closed = false ∧ Fmsg.round m = s.fed.round ∧ ¬ s.acceptAngle true ≤ s.roundAngle ∧
        (let a := s.areaBase 1 + 28 * s.childNidx 1
         s.storeLocks (engineWho Init.fed) a 64 = false ∧ s.partialBad a 64 = none) ∧ s.fedRole = Fed.top ∧
        Fmsg.type m = Mtype.areaUp ∧ Fmsg.frag m = 0 ∧ Fmsg.failed m = false ∧ Fmsg.last m = (fl == 8)) ∧
    (let s := federated Fed.area
     let m := message Mtype.up 0 0 5 6 0
     s.fedRuns = true ∧ 2 ≤ s.fedRole ∧ Fmsg.type m = Mtype.up ∧ Fmsg.gen m ≠ s.fedGen ∧ s.fedRole = Fed.area ∧ s.fed.active = true ∧
      s.fed.closed = false) ∧
    (let s : State := { federated Fed.top with fed := { (federated Fed.top).fed with closed := true } }
     s.fed.closed = true) := by
  decide +kernel

def aPlan : FedPlan := { number := 4, payload := [], till := 0, seasoning := false }

/-- The same with a received plan. -/
def planned (expired : Bool) : State :=
  let s := federated Fed.area
  { s with fed := { s.fed with plan := some aPlan, expired := expired, fragKey := Mtype.areaPlan * 2 ^ 32, areaFrags := 1 } }

theorem test_FederationMembersTakeDownsAndPlans :
    (let s := (federated Fed.member).setNum Reg.fedClaimHi 3
     let m := message Mtype.down 0 0 9 7 3
     s.fedRuns = true ∧ Fmsg.gen m = s.fedGen ∧ Fmsg.dst m = s.blk.node ∧ s.parentNodes.contains (Fmsg.src m) = true ∧ s.parentNodes.contains 10 = false ∧
      s.num Reg.fedClaimHi ≤ Fmsg.claim m ∧ s.ncomp ≠ 0 ∧ s.refuseReason (u8 s.fedBody 0x2F % 4) Init.fed ≠ 0 ∧ s.fedSpindle < 8 ∧
      Fmsg.type m = Mtype.down ∧ ¬ s.replyAngle ≤ (s.spin s.fedSpindle).travel % 2 ^ 32 ∧
      Fmsg.claim (message Mtype.down 0 0 9 7 2) < s.num Reg.fedClaimHi) ∧
    (let u := (federated Fed.member).setSpin 7 { (federated Fed.member).spin 7 with travel := 1000 }
     u.fedRuns = true ∧ u.num Reg.fedClaimHi = 0 ∧ u.replyAngle ≤ (u.spin u.fedSpindle).travel % 2 ^ 32) ∧
    (run.fedRuns = false ∧ Fmsg.type (message Mtype.up 0 0 9 7 0) ≠ Mtype.down) ∧
    (let s := federated Fed.area
     s.fedRuns = true ∧ s.fedRole = Fed.area ∧ s.fed.areaLast = 0 ∧
      ∀ m ∈ [message Mtype.areaDown 0 1 9 7 0, message Mtype.areaDown 8 0 9 7 0, message Mtype.plan 0 0 9 7 0, message Mtype.areaPlan 0 0 9 7 0],
        Fmsg.gen m = s.fedGen ∧ Fmsg.dst m = s.blk.node ∧ s.parentNodes.contains (Fmsg.src m) = true ∧ s.num Reg.fedClaimHi ≤ Fmsg.claim m) := by
  decide +kernel

/-- A Lathe that takes the descriptor of FED. -/
theorem test_FederationMembersTakeDownsAndPlans_lathe :
    (let s := federated Fed.member
     let s := (cfg s (⟨Ty.lathe, Region.solve, 0, mkBody 0x200 [(0, 1, 1), (0x40 + 2 * Init.fed, 2, 4)]⟩ :: s.blk.running)).setFlag (Reg.lthQctrl 0) 0 true
     s.fedRuns = true ∧ s.refuseReason (u8 s.fedBody 0x2F % 4) Init.fed = 0) := by
  decide +kernel

theorem test_FederationMembersTakeDownsAndPlans_plans :
    ((federated Fed.area).newPlan 0 = true ∧ (planned false).newPlan 4 = false ∧ (federated Fed.area).fedRole ≠ Fed.top ∧
      (let m := mkBody 64 [(0, 1, Mtype.areaPlan), (1, 1, 8), (3, 1, 1), (6, 2, 1), (8, 4, 7), (0x10, 4, 5)]
       Fmsg.frag m = 1 ∧ Fmsg.last m = true ∧ bit (planned false).fed.areaFrags 0 = true ∧ (planned false).fed.fragKey = Fmsg.type m * 2 ^ 32 + Fmsg.round m ∧ (planned false).newPlan (Fmsg.plan m) = true)) ∧
    (∀ e ∈ [false, true], (planned e).fed.plan = some aPlan ∧ (planned e).fedRuns = true ∧ (planned e).fed.expired = e ∧
      (planned e).fedRole ≠ Fed.top) ∧ run.fed.plan = none := by
  decide +kernel

/-! ### Witnesses: tasks, programs, control laws -/

/-- Comparator 63 of spindle 7 is due for a consumer. -/
def dueFor (consumer : Nat) (s : State) : State :=
  { cfg s (⟨Ty.spindle, Region.sense, 0, mkBody 0x220 [(0, 2, 1), (comparatorEntry 0, 2, 0x3F07), (comparatorEntry 0 + 2, 1, consumer)]⟩ ::
      s.blk.running) with
    spn := { s.spn with due := [{ spindle := 7, cmp := 63, target := 0, time := 0, ran := 0 }] } }

/-- A program in RUN with a cyclic task on that comparator and an event task any writer may trigger; core 0 runs task 0. -/
def tasking : State :=
  let task : Section := ⟨Ty.task, Region.control, 0, mkBody 0x200 [(0, 2, 0x0201), (2, 2, 16), (4, 4, 0x9000), (0x44, 4, 0xFFFF3F07), (0x81, 1, 1),
    (0x84, 1, 8), (0x8C, 2, 0xFFFF), (0x86, 1, 0xFF)]⟩
  let s := (cfg run [task]).setFld (Reg.tskPmode 0) 1 0 Program.run
  { s with tsk := { s.tsk with running := s.tsk.running.set 0 1 } }

/-- The same with an output of task 0. -/
def outputting : State := cfg tasking (tasking.blk.running.map fun x => { x with body := patchBytes x.body 0x62 [1#8] })

def core0 : Who := { id := 0, mmode := false, vc := 0 }

theorem test_TasksAreReleasedCompleteAndCommit :
    (let s := dueFor Consumer.tsk tasking
     takeDue 7 (64 + 63) s.spn.due = none ∧ s.tskRuns = true ∧ (s.firing Consumer.tsk 7 63).isSome = true ∧ s.releasesAt [(7, 63)] = [0] ∧
      s.wasServed 7 63 = false ∧
      s.withholds = false ∧ s.programMode (s.taskDef 0).prog = Program.run ∧ (s.task 0).live = false ∧
      (s.taskDef 0).nin = 0 ∧ (s.setTask 0 { s.task 0 with live := true }).programMode 0 = Program.run ∧
      (s.setFld (Reg.tskPmode 0) 1 0 Program.hold).programMode 0 = Program.hold) ∧
    (let s : State := { tasking with tsk := { tasking.tsk with served := [(7, 63)], servedAt := tasking.chip.ran } }
     s.wasServed 7 63 = true) ∧
    (let x : Crossing := { spindle := 7, cmp := 64 + 63, target := 0, time := 0, ran := 0 }
     let s : State := { tasking with spn := { tasking.spn with due := [x] } }
     takeDue 7 (64 + 63) s.spn.due = some (x, []) ∧ s.wasServed 7 63 = false) ∧
    (State.reset.tskRuns = false ∧ takeDue (7 % 8) (64 + 63 % 64) State.reset.spn.due = none) ∧
    (((List.range tasking.ntask).filter fun t =>
        (tasking.taskDef t).event && (tasking.taskDef t).rspin == 8 && eventMatches 8 (tasking.taskDef t).number 5) = [1] ∧
      tasking.lets core0 Reg.tskTrigger 1 = true ∧ 1 < tasking.ntask ∧ (tasking.taskDef 1).event = true ∧ (tasking.taskDef 1).rspin = 8 ∧
      (tasking.taskDef 1).number = 0xFFFF) ∧
    (tasking.lets core0 Reg.tskDone 0 = true ∧ tasking.taskOf core0 = some 0 ∧ 0 < tasking.ntask ∧ tasking.taskOf aWho = none ∧
      tasking.lets aWho Reg.tskDone 0 = true ∧ (tasking.taskDef 0).cspin = 0xFF ∧ tasking.flag (Reg.tskTstate 0) 29 = false ∧
      (tasking.taskDef 1).cspin = 0xFF) ∧
    (let a := outputting.signalAddr (outputting.listSignal (outputting.taskDef 0).outIdx)
     outputting.lets core0 Reg.tskDone 0 = true ∧ outputting.taskOf core0 = some 0 ∧ (outputting.taskDef 0).cspin = 0xFF ∧
      ((outputting.leftOutputs 0).map fun o => (o.1, o.2 ||| (outputting.task 0).flags)).length = 1 ∧
      outputting.storeLocks (engineWho Init.cle) a 8 = false) := by
  decide +kernel

theorem test_ProgramsRunStopAndHold :
    (tasking.lets warden (Reg.tskPmode 0) 0 = true ∧ tasking.lets warden (Reg.tskPmode 0) 1 = true ∧ tasking.lets warden (Reg.tskPmode 0) 2 = true ∧
      tasking.lets warden (Reg.tskPmode 15) 1 = true ∧ tasking.nprog ≤ 15 ∧ 0 < tasking.nprog ∧ tasking.programMode 0 = 1) ∧
    (tasking.tsk.running.get (7 % 8) = 0 ∧ tasking.tsk.running.get (0 % 8) = 0 + 1 ∧ 0 < tasking.ntask ∧ (tasking.taskDef 0).prog < tasking.nprog ∧
      tasking.debugMasked 0 = false) ∧
    ((tasking.setNum Reg.keyLc Life.field).setFlag (Reg.tskPmode 0) 10 true).debugMasked 0 = true := by
  decide +kernel

/-- Two loops of one block in a LOOP section; a sweep runs, in which loop 1 waits for signal 9; an APPLY waits. -/
def looping (sweep : Bool) : State :=
  let loop : Section := ⟨Ty.loop, Region.control, 0, mkBody 0x1000 [(0, 2, 2), (4, 2, 0x3F07), (8, 4, 100), (loopEntry 0, 1, 1), (loopEntry 1, 1, 1),
    (loopEntry 1 + 5, 1, 1), (loopEntry 1 + 8, 4, 0x01000009)]⟩
  let s := (cfg run [loop]).setFlag (Reg.cleLen 0) 0 true
  let s := (s.setCleLoop 0 { s.cleLoop 0 with blocks := [default] }).setFlag (Reg.cleLstate 1) 30 sweep
  { s with cle := { s.cle with
    sweep := if sweep then some { (default : CleSweep) with deadline := 100, due := [1] } else none
    tunes := [{ (default : CleTune) with who := 14 }] } }

theorem test_ControlLawsSweepMissAndTune :
    State.reset.cleRuns = false ∧
    (let s := dueFor Consumer.cle (looping false)
     s.cleRuns = true ∧ s.wasServed s.sweepSpindle s.sweepComparator = false ∧ s.cle.sweep = none ∧ (s.firing Consumer.cle s.sweepSpindle s.sweepComparator).isSome = true ∧ s.withholds = false ∧
      0 < s.nloop ∧ s.loopBlocks 0 ≠ 0 ∧ s.loopEnabled 0 = true ∧ s.num Reg.cleSweeps % max 1 (s.loopByte 0 2) = s.loopByte 0 3) ∧
    (let s := looping true
     let w : CleSweep := { (default : CleSweep) with deadline := 100, due := [1] }
     s.cleRuns = true ∧ s.cle.sweep = some w ∧ (s.spin s.sweepSpindle).travel < w.deadline ∧ 1 < s.nloop ∧ s.flag (Reg.cleLstate 1) 30 = true ∧
      ((List.range (s.loopByte 1 5)).any fun i => s.loopIn 1 i % 2 ^ 14 == 9 && bit (s.loopIn 1 i) 24) = true ∧
      w.due ≠ [] ∧ w.due.Nodup ∧ (∀ l ∈ w.due, l < 256) ∧ ∀ g ∈ w.groups, g < 256) ∧
    ((looping true).cle.sweep ≠ none ∧ (looping false).cle.sweep = none ∧ (looping false).cle.tunes ≠ [] ∧ run.cle.sweep = none ∧
      (looping false).cle.tunes = [{ (default : CleTune) with who := 14 }] ∧ 0 < ((looping false).cleLoop 0).blocks.length) := by
  decide +kernel

theorem test_ControlLawsSweepMissAndTune_go :
    (let s := looping false
     [0x544E0000#32, 0x544E0001#32, 0x544E0002#32, 0x544E0003#32, 1#32].all (s.lets warden Reg.cleTgo) = true ∧
      (s.staged warden.id).block < s.loopBlocks (s.staged warden.id).loop ∧ s.tuneResult (s.staged warden.id) = 0 ∧
      field 0x544E0002#32 31 16 = 0x544E ∧ field 0x544E0002#32 1 0 = 2 ∧ field 0x544E0001#32 1 0 = 1 ∧ field 0x544E0003#32 1 0 = 3) ∧
    (let s := run
     s.loopBlocks (s.staged warden.id).loop ≤ (s.staged warden.id).block ∧ s.tuneResult (s.staged warden.id) ≠ 0 ∧
      s.lets warden Reg.cleTgo 0x544E0001 = true) := by
  decide +kernel

/-! ### Witnesses: fusion and metrology -/

/-- Streams 0 to 4 by CAN 3, Ethernet 1, Milio 1 VC7, a quantity, and the Warden; graph 0 needs no stream, graph 1 stream 0; both on comparator 63 of
spindle 7. -/
def fuseBody : List Byte :=
  mkBody 0x200 [(0, 2, 0x0205), (streamEntry 0, 1, Kind.can), (streamEntry 0 + 4, 4, 3 * 2 ^ 30 + 5), (streamEntry 1, 1, Kind.eth),
    (streamEntry 1 + 4, 4, 65536 + 9), (streamEntry 2, 1, Kind.milio), (streamEntry 2 + 4, 4, 7 + 8), (streamEntry 3, 1, Kind.met),
    (streamEntry 3 + 4, 4, 0xFFFF), (streamEntry 4, 1, Kind.host), (streamEntry 4 + 3, 1, 14), (32 + 32 * 5 + 4, 2, 0x3F07),
    (32 + 32 * 5 + 64 + 3, 3, 0x3F0701)]
def frame0 : FusFrame := { tov := 5, prev := 0, number := 1, subst := false }
def fuse : State :=
  let s := (cfg run [⟨Ty.fusion, Region.sense, 0, fuseBody⟩]).setFlag Reg.fusStatus 30 true
  let s := s.setGraph 0 { s.graph 0 with waiting := [frame0], period := 4, replay := some 5 }
  (s.setGraph 1 { s.graph 1 with waiting := [frame0], period := 4 }).poke (Addr.stock + 0x8000) [4#8]

theorem test_FusionTakesSamplesAndIssuesFrames :
    (fuse.fusRuns = true ∧
      ((List.range fuse.nstream).filter fun i => fuse.streamKind i == Kind.can && fuse.streamWord i 4 == 3 % 4 * 2 ^ 30 + 5 % 2 ^ 30) = [0] ∧
      ((List.range fuse.nstream).filter fun i => fuse.streamKind i == Kind.eth && fuse.streamWord i 4 == 9 % 65536 + 1 % 2 * 65536) = [1] ∧
      ((List.range fuse.nstream).filter fun i =>
        fuse.streamKind i == Kind.milio && fuse.streamWord i 4 == 7 % 8 + 1 % 2 * 8 + u16 [] 0 * 16) = [2] ∧
      ((List.range fuse.nstream).filter fun i => fuse.streamKind i == Kind.met && fuse.streamWord i 4 == 0xFFFF) = [3] ∧
      ((List.range fuse.nstream).filter fun i => fuse.streamKind i == Kind.can && fuse.streamWord i 4 == 0) = []) ∧
    (fuse.lets warden Reg.fusPush 0x8000 = true ∧ fuse.memAbsent (Addr.stock + field 0x8000#32 23 6 * 64) = false ∧
      fuse.streamKind (u8 (fuse.bytes (Addr.stock + field 0x8000#32 23 6 * 64) 64) 0) = Kind.host ∧ fuse.streamByte 4 3 = warden.id ∧
      fuse.streamByte 4 3 ≠ aWho.id ∧ fuse.lets aWho Reg.fusPush 0x8000 = true ∧ fuse.lets aWho Reg.fusPush 0x9000 = true ∧
      fuse.streamKind (u8 (fuse.bytes (Addr.stock + field 0x9000#32 23 6 * 64) 64) 0) ≠ Kind.host ∧ run.fusRuns = false ∧
      run.lets aWho Reg.fusPush 0x9000 = true) ∧
    (let s := dueFor Consumer.fus fuse
     (s.firing Consumer.fus 7 63).isSome = true ∧ s.fusRuns = true ∧ 0 < s.ngraph ∧ s.graphByte 0 4 = 7 ∧ s.graphByte 0 5 = 63) := by
  decide +kernel

theorem test_FusionTakesSamplesAndIssuesFrames_frames :
    ((fuse.graph 0).waiting = frame0 :: [] ∧ fuse.graphRuns 0 = true ∧ fuse.frameComplete 0 frame0 = true ∧ (fuse.graph 1).waiting = frame0 :: [] ∧
      fuse.graphRuns 1 = true ∧ fuse.frameComplete 1 frame0 = false ∧ (fuse.graph 63).waiting = [] ∧
      (fuse.setFlag Reg.fusStatus 30 false).graphRuns 0 = false) ∧
    ((fuse.graph 1).replay = none ∧ (fuse.graph 0).replay = some 5) ∧
    (fuse.fusRuns = true ∧ fuse.streamKind 0 ≠ 0 ∧ fuse.streamFrame 0 ≠ 0 ∧ fuse.streamFlag 0 Fus.dropped = false) := by
  decide +kernel

/-- One system on comparator 63 of spindle 7 with a cycle to close, one remote channel, pulse input 3 and pulse output 3 in use. -/
def metBody : List Byte :=
  mkBody 0x400 [(0, 2, 0x0101), (0xC0, 3, 0x0F0005), (0xD0, 2, 0x3F07), (0xD4, 8, 0xFFFFFFFFFFFFFFFF), (0x210, 1, 1), (0x250, 1, 2)]
def aCycle : MetCycle := { start := 0, finish := 1, dur := 1, ran := 1, seasoning := false, subst := false }
def metering (busy : Bool) : State :=
  let s := (cfg run [⟨Ty.metro, Region.sense, 0, metBody⟩]).setFlag (Reg.metPstat 3) 30 busy
  let s := s.setMetSystem 0 { s.metSystem 0 with closing := [aCycle] }
  s.setMetOut 3 { s.metOut 3 with waiting := [(false, 2)], started := if busy then some 0 else none }

theorem test_MetrologyMeasuresCyclesHeatAndPulses :
    run.metRuns = false ∧
    (let s := dueFor Consumer.met (metering false)
     (s.firing Consumer.met 7 63).isSome = true ∧ s.metRuns = true ∧ 0 < s.nsys ∧ u8 s.metBody (s.systemEntry 0) = 7 ∧
      u8 s.metBody (s.systemEntry 0 + 1) = 63) ∧
    (let s := metering false
     s.metRuns = true ∧ s.remoteFor 1 7 (leBytes 2 5) = some 0 ∧ s.remoteFor 1 7 (leBytes 2 6) = none ∧ (s.metSystem 6).closing = [] ∧
      (s.metSystem 0).closing = aCycle :: [] ∧
      ((List.range 8).all fun pos =>
        s.selector 0 pos == 0xFF || samplesComplete (s.met.remote.get (s.selector 0 pos - 0x40)) aCycle.start aCycle.finish) = true ∧
      u8 s.metBody (s.pinEntry 3) ≠ 0 ∧ u8 s.metBody (s.pinEntry 0) = 0 ∧ s.letsRead aWho (Reg.metRegLo 111) = true) := by
  decide +kernel

/-- On battery in VIGIL, with 1.0 A in phase 3, and the tally's threshold 1.0 A. -/
def tallying : State :=
  let s := cfg (inMode Mode.vigil) [⟨Ty.metro, Region.sense, 0, mkBody 0x400 [(0x20, 4, 0x3F800000)]⟩]
  { s.setFlag Reg.pmuBatctl 0 true with pwr := { s.pwr with onBattery := true } }

theorem test_MetrologyBillsPulsesAndSaves :
    (let s := cfg run [⟨Ty.metro, Region.sense, 0, mkBody 0x400 []⟩]
     s.metRuns = true ∧ s.mayClose = true) ∧
    (run.metRuns = false ∧ (metering false).mayClose = false ∧ run.lets warden Reg.metInterval 86400 = true ∧ 86400 % (86400#32).toNat = 0 ∧
      86400 % (86399#32).toNat ≠ 0 ∧ run.lets warden Reg.metInterval 86399 = true) ∧
    ((metering false).metRuns = true ∧ ((metering false).metOut 3).waiting = (false, 2) :: [] ∧ (metering false).outMode 3 = 2 ∧
      (metering false).flag (Reg.metPstat 3) 30 = false ∧ ((metering true).metOut 3).started = some 0 ∧
      (metering true).flag (Reg.metPstat 3) 30 = true ∧ ((metering true).metOut 0).waiting = []) ∧
    (tallying.mode = Mode.vigil ∧ tallying.pwr.onBattery = true ∧ tallying.flag Reg.pmuBatctl 0 = true ∧
      ((List.range 3).any fun k => (tallying.metFp 0x20).le (f32.decode ([0, 0, 0x3F800000].getD k 0))) = true) ∧
    ((metering false).powerFailing = false ∧ (failing 0).powerFailing = true ∧ (metering false).lets warden Reg.metSave 0x4D530001 = true ∧
      field 0x4D530001#32 31 16 = 0x4D53 ∧ bit (0x4D530001#32).toNat 0 = true ∧ (metering false).lets warden Reg.metSave 1 = true) := by
  decide +kernel

theorem test_FusionTakesSamplesAndIssuesFrames_records :
    (fuse.payloadNeed 0 ≤ (List.replicate 64 (0#8)).length ∧ ((List.range fuse.nstream).filter fun i =>
        fuse.streamKind i == Kind.milio && fuse.streamWord i 4 == 7 % 8 + 1 % 2 * 8 + u16 [] 0 * 16) = [2] ∧
      (List.range 5).all (fun i => !fuse.storeLocks (engineWho Init.fusion) (fuse.ringAddr i ((fuse.stream i).next % 2 ^ 32)) 64 &&
        (fuse.partialBad (fuse.ringAddr i ((fuse.stream i).next % 2 ^ 32)) 64).isNone) = true) ∧
    ((run.firing Consumer.fus 7 63).isNone = true ∧
      ((dueFor Consumer.fus run).firing Consumer.fus 7 63).any (fun x => !x.1.fusRuns) = true ∧
      (let s := dueFor Consumer.fus (fuse.setGraph 0 { fuse.graph 0 with last := some 3 })
       (s.firing Consumer.fus 7 63).any (fun x => x.1.fusRuns && (x.1.graph 0).last == some 3) = true)) ∧
    ((let s := fuse.setGraph 0 { fuse.graph 0 with issued := [{ ((default : FusIssued)) with frame := frame0 }] }
      (s.graph 0).replay = some 5 ∧ s.graphRuns 0 = true ∧ ((s.graph 0).issued.any fun e => 5 ≤ e.frame.tov) = true)) := by
  decide +kernel

theorem test_MetrologyMeasuresCyclesHeatAndPulses_clauses :
    (let s := dueFor Consumer.met ((cfg (metering false) [⟨Ty.metro, Region.sense, 0, mkBody 0x400 [(0, 2, 0x0101), (0xD0, 2, 0x3F07),
       (0xD4, 8, 0xFFFFFFFFFFFFFF40)]⟩]).setMetSystem 0 { (metering false).metSystem 0 with last := some 3 })
     (s.firing Consumer.met 7 63).any (fun x => x.1.metRuns && (x.1.metSystem 0).last == some 3 && !x.1.systemLocal 0) = true ∧
      ((dueFor Consumer.met (metering false)).firing Consumer.met 7 63).any (fun x => (x.1.metSystem 0).last == none) = true) ∧
    (let s := cfg (metering false) [⟨Ty.metro, Region.sense, 0, mkBody 0x400 [(0, 2, 0x0101), (0xD4, 8, 0xFFFFFFFFFFFFFF40)]⟩]
     s.metRuns = true ∧ (s.metSystem 0).closing = [aCycle] ∧
      ((List.range 8).all fun pos =>
        s.selector 0 pos == 0xFF || samplesComplete (s.met.remote.get (s.selector 0 pos - 0x40)) aCycle.start aCycle.finish) = false) ∧
    (u64 (metering false).senseStruct 0x28 % 2 ^ 40 = 0) := by
  decide +kernel

theorem test_MetrologyBillsPulsesAndSaves_clauses :
    (((List.range 3).any fun k => (tallying.metFp 0x20).le (f32.decode (([] : List Nat).getD k 0))) = false) ∧
    (let s := metering false
     let a := s.journalAddr s.nextRotating
     s.storeLocks (engineWho Init.metDma) a 1024 = false ∧ s.partialBad a 1024 = none) ∧
    (let s := metering false
     s.outMode 3 = 2 ∧ s.flag (Reg.metPstat 3) 31 = false ∧ ((s.setFlag (Reg.metPstat 3) 31 true).metOut 3).waiting = (false, 2) :: []) ∧
    (run.nsys = 0 ∧ (metering false).nsys ≠ 0) := by
  decide +kernel

/-! ### Witnesses: the redundant set -/

/-- A unit of a set: UNIT 2, RANK 9, SETID 7, REVERT; peer 0 is UNIT 1 of rank 3 on every path, peer 1 UNIT 3; cuts by comparator 63 of spindle 7. -/
def hinged (mode : Nat) : State :=
  let hinge : Section := ⟨Ty.hinge, Region.keep, 0, mkBody 0x80 [(1, 3, 0x010902), (4, 2, 7), (6, 2, 100), (8, 2, 0x3F07), (0xC, 2, 50),
    (0x18, 5, Addr.stock + 0x10000), (0x20, 4, 0x2000), (0x24, 4, 256), (0x28, 5, 0x0703010005), (0x30, 5, 0x0101030006)]⟩
  loaded (cfg (inMode mode) [hinge])
def standing : State := hinged Mode.standby
def heading (claim : Nat) : State := (hinged Mode.run).setNum Reg.hngClaim claim

def heartbeat (unit state claim : Nat) : List Byte :=
  let b := mkBody 28 [(0, 2, 1 + 256 * unit), (2, 1, state), (4, 2, 7), (8, 4, claim), (0xC, 4, 1)]
  b ++ leBytes 4 (crc32 b)

theorem test_HeartbeatsTellKeepAndDepose :
    (standing.hingeRuns = true ∧ (heading 5).hingeRuns = true ∧ standing.peerUsed 0 = true ∧ bit (standing.peerPath 0) 0 = true ∧
      bit (standing.peerPath 0) 1 = true ∧ standing.peerUsed 1 = true ∧ standing.lets warden Reg.hngHealth 1 = true) ∧
    (let b := heartbeat 1 3 0x01000000
     (b.length = 32 ∧ u8 b 0 = 1 ∧ u32 b 0x1C = crc32 (slice b 0 0x1C) ∧ u16 b 4 % 2 ^ 14 = standing.ownSetid) ∧
      (standing.peerUsed 0 = true ∧ standing.peerUnit 0 = u8 b 1 ∧ standing.peerOnLink 0 0 = true ∧ standing.peerOnLink 0 2 = true) ∧
      ((heading 5).claim ≠ 0 ∧ (heading 5).claim < u32 b 8 ∧ (heading 5).disregards (epochOf (u32 b 8)) = false) ∧
      standing.peerUnit 1 ≠ u8 b 1) ∧
    (let b := heartbeat 3 3 0
     standing.peerUsed 1 = true ∧ standing.peerUnit 1 = u8 b 1 ∧ standing.peerOnLink 1 0 = true ∧ standing.peerUnit 0 ≠ u8 b 1 ∧
      standing.peerOnLink 1 3 = false) ∧
    ([] : List Byte).length ≠ 32 ∧ (standing.setFlag (Reg.hngPeer 1) 30 true).flag (Reg.hngPeer 1) 30 = true := by
  decide +kernel

/-- A standby with the Warden in order and a checkpoint of its own generations applied; its peer 0 ACTIVE and heard. -/
def aCheckpoint (final applied : Bool) : CheckpointHeld :=
  { seq := 4, final := final, half := 0, len := 80, cut := 0, gens := standing.gens, applied := applied, prior := none, since := 0 }
def fit (final applied : Bool) : State :=
  let s := (standing.setFlag Reg.hngStatus Hng.wardenOk true).setFld (Reg.hngPeer 0) 29 27 Unit.active
  let s := s.setPeer 0 { s.peer 0 with lvds := some 0 }
  s.setHinge { s.hinge with stored := some (aCheckpoint final applied), yielded := true, steady := some 0 }

theorem test_TakeoversCommandsAndProofRuns :
    ((fit false true).mode = Mode.standby ∧ (fit false true).mayTake = true ∧ standing.mayTake = false ∧
      (fit false true).fld Reg.hngEpoch 23 0 < 0xFFFFFF) ∧
    (∀ s ∈ [standing, heading 5], [0x484E0000#32, 0x484E0001#32, 0x484E0002#32, 0x484E0003#32, 0x484E0004#32, 0x484E0005#32, 5#32].all
      (s.lets warden Reg.hngCmd) = true ∧ s.flag Reg.hngCmdstat 31 = false ∧ s.peerUsed 0 = true ∧ s.hinge.handover = none) ∧
    (field 0x484E0005#32 31 16 = 0x484E ∧ field 0x484E0005#32 3 0 = 5 ∧ field 0x484E0006#32 3 0 > 5) ∧
    ((heading 5).claim ≠ 0 ∧ (heading 5).controlRuns = true ∧ standing.claim = 0 ∧ (heading 5).mode ≠ Mode.standby ∧
      (run.setNum Reg.hngClaim 5).peerUsed 0 = false ∧ (run.setNum Reg.hngClaim 5).peerUsed 1 = false ∧
      (standing.setNum Reg.keyLc Life.service).life = Life.service ∧ standing.life ≠ Life.service ∧
      (standing.setFlag Reg.hngCmdstat 31 true).flag Reg.hngCmdstat 31 = true ∧ (standing.setFlag Reg.hngCmdstat 31 true).lets warden Reg.hngCmd 0x484E0002) := by
  decide +kernel

theorem test_TakeoversCommandsAndProofRuns_runs :
    (let s := fit false true
     s.hinge.steady = some 0 ∧ s.hingeRevert = true ∧ s.mode = Mode.standby ∧ s.hinge.revert = false ∧
      (s.heard 0 = true ∧ s.peerState 0 = Unit.active ∧ s.peerRank 0 < s.ownRank) ∧ standing.hinge.steady = none) ∧
    (let s := fit false true
     s.hinge.proofRuns = false ∧ s.proofDeferred = false ∧ standing.proofDeferred = true ∧
      (s.setNum Reg.hngProofInterval 1).num Reg.hngProofInterval ≠ 0 ∧ standing.num Reg.hngProofInterval = 0 ∧ standing.hinge.proofAsked = 0) ∧
    (let s := standing.setHinge { standing.hinge with proofRuns := true, proofAsked := 3 }
     s.hinge.proofRuns = true ∧ s.inj.proofLinks = 0 ∧ s.hinge.proofAsked ≠ 0 ∧ s.proofLatch.proofRestore.2 = true) ∧
    (fit false true).proofLatch.proofRestore.2 = false := by
  decide +kernel

/-- A frame of a checkpoint: type, CKSEQ, offset, length, claim and data. -/
def ckFrame (type seq off n : Nat) (data : List (Nat × Nat × Nat)) : List Byte :=
  mkBody 32 [(0, 1, type), (2, 2, 5), (4, 4, seq), (8, 4, off), (0xC, 2, n), (0x10, 4, 5)] ++ mkBody n data

/-- A standby that has the front of image 9, with the generations `gen`, from its ACTIVE peer of claim 5. -/
def receiving (gen : Nat) : State :=
  let s := ((fit false true).setNum (Reg.hngPclaim 0) 5).poke (standing.ckHalf 1) (mkBody 64 [(0, 4, gen), (28, 4, 80)])
  s.setHinge { s.hinge with incoming := some { seq := 9, final := false, claim := 5, half := 1, got := 64, len := 80 } }
def tailFrame (gen : Nat) : List Byte := ckFrame 3 9 64 16 [(0, 4, crc32 (mkBody 64 [(0, 4, gen), (28, 4, 80)]))]

theorem test_CheckpointsAreCutStoredAndApplied :
    (let s : State := { heading 5 with hinge := { (heading 5).hinge with cutDue := some 0 } }
     s.hinge.cutDue = some 0 ∧ s.controlRuns = true ∧ s.cutInTime 0 = true ∧ s.cutQuiet = true ∧ s.hinge.sending = false ∧
      s.itemFenced = false ∧ s.inj.acting = none ∧ run.hinge.cutDue = none ∧ standing.controlRuns = false) ∧
    (let b := ckFrame 1 9 0 64 [(28, 4, 256)]
     standing.mode = Mode.standby ∧ standing.hasHinge = true ∧ (slice b 32 (u16 b 0xC)).length = u16 b 0xC ∧
      (standing.peerUsed 0 = true ∧ standing.peerPort 0 ≠ none ∧ standing.peerNode 0 % 2 ^ 14 = u16 b 2 % 2 ^ 14) ∧ u8 b 0 = 1 ∧
      standing.hinge.incoming = none ∧ ¬ (u32 b 8 ≠ 0 ∨ u16 b 0xC ≠ 64 ∨ standing.ckmax < u32 (slice b 32 64) 28) ∧
      standing.ckmax < u32 (slice (ckFrame 1 9 0 64 [(28, 4, 257)]) 32 64) 28) := by
  decide +kernel

theorem test_CheckpointsAreCutStoredAndApplied_tail :
    (∀ gen ∈ [0, 1], let s := receiving gen
      let b := tailFrame gen
      let i : CheckpointIn := { seq := 9, final := false, claim := 5, half := 1, got := 64, len := 80 }
      let front := s.bytes (s.ckHalf i.half) i.got
      s.hinge.incoming = some i ∧ u8 b 0 = 3 ∧ u32 b 4 = i.seq ∧ u32 b 8 = i.got ∧ i.got + u16 b 0xC ≤ i.len ∧ i.got + 16 = i.len ∧
        crc32 front = u32 (slice b 32 16) 0 ∧ (decide (((List.range 5).map fun k => u32 front (4 * k)) = s.gens)) = (gen == 0) ∧
        (i.seq ≠ (aCheckpoint false true).seq ∧ seqNewer 32 i.seq (aCheckpoint false true).seq = true) ∧ s.activeClaim = some i.claim) ∧
    (u32 (ckFrame 2 9 0 16 []) 8 ≠ 64 ∧ u8 (ckFrame 2 9 64 16 []) 0 = 2 ∧ u32 (ckFrame 2 9 64 16 []) 8 = 64) ∧
    (let s := (fit false false).setFlag Reg.hngStatus Hng.applying true
     s.mode = Mode.standby ∧ s.flag Reg.hngStatus Hng.applying = true ∧ s.hinge.stored = some (aCheckpoint false false) ∧
      (aCheckpoint false false).applied = false ∧ standing.flag Reg.hngStatus Hng.applying = false) := by
  decide +kernel

/-- A Latch STATUS frame of SETID 7 with one entry whose HIGHEST is `claim`, on a CAN input. -/
def statusFrame (claim : Nat) : List Byte := mkBody 24 [(0, 2, 0x0102), (4, 2, 7), (0x14, 4, claim)]
def onCan : FrameInput := .can 3 5
/-- The unit with Latch channel 0 in use: CAN input controller 3 ID 5, LOCAL, SETID 7, SAFEVAL 9, RESUME ARM. -/
def latched (mode : Nat) : State :=
  let latch : Section := ⟨Ty.latch, Region.keep, 0, mkBody 0x60 [(0, 1, 1), (1, 1, 1), (8, 4, 0x80 + 2 * 3), (latchEntry 0, 4, 0x03030101),
    (latchEntry 0 + 4, 2, 7), (latchEntry 0 + 7, 1, 1), (latchEntry 0 + 8, 4, 3 * 2 ^ 30 + 5), (latchEntry 0 + 0x10, 4, 10),
    (latchEntry 0 + 0x18, 4, 9)]⟩
  cfg (hinged mode) (latch :: (hinged mode).blk.running)

theorem test_HandOversEndAndStatusFramesDepose :
    (let s := fit false true
     s.mode = Mode.standby ∧ s.appliedCheckpoint = some (0, s.gens) ∧ run.appliedCheckpoint = none) ∧
    (let s := fit true true
     s.hinge.stored = some (aCheckpoint true true) ∧ (aCheckpoint true true).final = true ∧ s.mode = Mode.standby ∧ s.wardenOk = true ∧
      s.unfit = false ∧ s.fld Reg.hngEpoch 23 0 < 0xFFFFFF ∧ s.withholds = false ∧ standing.hinge.stored = none ∧ standing.withholds = false) ∧
    (let s := dueFor Consumer.tsk (heading 5)
     let s := s.setHinge { s.hinge with handover := some { unit := 0, commanded := true, final := true, target := 1 } }
     s.withholds = true ∧ s.hasHinge = true ∧ s.claim ≠ 0 ∧ s.cutSpindle < 8 ∧ s.cutComparator < 64 ∧ (s.firing Consumer.tsk 7 63).isSome = true) ∧
    (let s := (latched Mode.run).setNum Reg.hngClaim 5
     let f := statusFrame 0x01000000
     Lfr.type f = Frame.status ∧ Lfr.setid f = s.ownSetid ∧ s.statusKnown onCan = true ∧ s.hingeRuns = true ∧ 0 < Lfr.nent f ∧ s.claim ≠ 0 ∧
      s.claim < u32 f (0x14 + 8 * 0) ∧ s.disregards (epochOf (u32 f (0x14 + 8 * 0))) = false ∧ s.controlRuns = true ∧
      u16 f (0x12 + 8 * 0) * 100 ≤ s.num Reg.latWindow ∧ Lfr.type (statusFrame 5) = Frame.status ∧ ¬ s.claim < u32 (statusFrame 5) 0x14) := by
  decide +kernel

theorem test_HandOversEndAndStatusFramesDepose_clauses :
    (let s := dueFor Consumer.tsk (fit true true)
     s.finishApply.waits (s.cutSpindle % 8) (s.cutComparator % 64) = true ∧ (fit true true).finishApply.waits 7 63 = false ∧
      s.withholds = false ∧ s.hinge.stored = some (aCheckpoint true true) ∧ (s.firing Consumer.tsk 7 63).isSome = true) ∧
    (let b := ckFrame 1 9 0 64 [(28, 4, 256)]
     (receiving 0).hinge.incoming ≠ none ∧ (slice b 32 (u16 b 0xC)).length = u16 b 0xC ∧
      standing.storeLocks (engineWho Init.hinge) (standing.ckHalf 0) 64 = false ∧ standing.partialBad (standing.ckHalf 0) 64 = none) ∧
    (let b := heartbeat 1 3 5
     let b := (b.take 3 ++ [4#8] ++ b.drop 4).take 28
     let b := b ++ leBytes 4 (crc32 b)
     bit (u8 b 3) 2 = true ∧ b.length = 32 ∧ u32 b 0x1C = crc32 (slice b 0 0x1C) ∧ (heading 5).controlRuns = true ∧ (heading 5).claim ≠ 0 ∧
      ¬ (heading 5).claim < u32 b 8) ∧
    (let s : State := { heading 5 with hinge := { (heading 5).hinge with cutDue := some 0, sending := true } }
     s.controlRuns = true ∧ s.cutInTime 0 = true ∧ s.cutQuiet = true ∧ s.hinge.sending = true) := by
  decide +kernel

/-! ### Witnesses: the Latch, axes, the panel -/

def commandFrame (setid claim : Nat) : List Byte := mkBody 24 [(0, 2, 0x0101), (4, 2, setid), (8, 4, claim), (0x10, 1, 0), (0x12, 2, 1), (0x14, 4, 77)]

theorem test_LatchCommandsAreAcceptedOrDropped :
    (let s := latched Mode.standby
     s.latchRuns = true ∧ s.latchOffered onCan = true ∧ s.latchTakes 0 onCan = true ∧
      (let f := commandFrame 7 0x01000000
       Lfr.type f = Frame.command ∧ u8 f 1 = 1 ∧ u8 f 0x10 = 0 ∧ s.latchSetid 0 = Lfr.setid f ∧ Lfr.claim f ≠ 0 ∧
        s.floor 7 ≤ epochOf (Lfr.claim f) ∧ s.disregards (epochOf (Lfr.claim f)) = false ∧ s.num (Reg.latHighest 0) < Lfr.claim f) ∧
      s.latchSetid 0 ≠ Lfr.setid (commandFrame 8 1) ∧ (s.latchChannel 0).stuck = false ∧ s.latchResumeArm 0 = true ∧
      s.flag (State.latchArm 0) (0 % 32) = false ∧ run.latchOffered onCan = false) ∧
    (let s := (latched Mode.run).setNum Reg.hngClaim 0x01000000
     s.lets warden (Reg.latCmd 0) 5 = true ∧ s.claim ≠ 0 ∧ s.latchUsed 0 = true ∧ s.latchInput 0 0 = true ∧ s.latchSetid 0 = s.ownSetid ∧
      (s.latchChannel 0).localSeq < 65536 ∧ (latched Mode.run).claim = 0 ∧ (latched Mode.run).lets warden (Reg.latCmd 0) 5 = true ∧
      s.latchHeld 0 ≠ Lat.safe) := by
  decide +kernel

theorem test_LatchHoldsArmsAndReports :
    (let s := (latched Mode.run).setNum (Reg.latHighest 0) 9
     let f := mkBody 24 [(0, 1, 3), (4, 2, 7), (8, 4, 9)]
     s.latchRuns = true ∧ Lfr.type f = Frame.withdraw ∧ s.latchTakes 0 onCan = true ∧ s.latchSetid 0 = Lfr.setid f ∧
      s.num (Reg.latHighest 0) = Lfr.claim f ∧ Lfr.claim f ≠ 0) ∧
    ((latched Mode.safe).latchRuns = false ∧ (latched Mode.safe).lets warden (Reg.latCmd 0) 5 = true) ∧
    (let s := (latched Mode.run).setFld (Reg.latCstate 0) 30 29 Lat.active
     let s : State := { s with latch := { s.latch with channels := s.latch.channels.set 0 { s.latchChannel 0 with accepted := some 0 } } }
     (s.latchChannel 0).accepted = some 0 ∧ s.latchRuns = true ∧ s.latchUsed 0 = true ∧ s.latchHeld 0 = Lat.active ∧
      (s.latchChannel 62).accepted = none) ∧
    (run.lets warden Reg.latArmHi 1 = true ∧ run.lets warden Reg.latArmLo 1 = true ∧ bit (u8 run.latchBody 1) 0 = false) ∧
    (let s := latched Mode.run
     bit (u8 s.latchBody 1) 0 = true ∧ Mode.mount < s.mode ∧ bit (u32 s.latchBody 8) 7 = true ∧ bit (u32 s.latchBody 8) 0 = false ∧
      u32 s.latchBody 8 / 2 % 4 < s.variant.cans ∧ s.fenced Region.link = false ∧ s.flag (Reg.canStatus 3) 28 = false ∧
      (List.range 64).filter s.latchUsed = [0] ∧ s.latchSetid 0 = s.ownSetid ∧ s.latchDrive 0 = 1 ∧ (s.latchChannel 0).stuck = false) := by
  decide +kernel

/-- Axis 15 with pulses and target 5 of at most 100, axis 14 on Latch channel 0; neither lost. -/
def axes : State :=
  let s := latched Mode.run
  let s := cfg s (⟨Ty.struct, Region.control, 0, mkBody 0x480 [(axisEntry 15, 1, 1), (axisEntry 15 + 0x24, 4, 100), (axisEntry 14, 2, 0x0101),
    (axisEntry 14 + 4, 1, 0)]⟩ :: s.blk.running)
  ((s.setFlag (Reg.prfAstate 15) 28 false).setNum (Reg.prfTgt 15) 5).setNum Reg.hngClaim 0x01000000

def aMove (homing : Bool) (dist : Nat) : Move :=
  { segs := [], scale := .zero false, start := 0, frac := .zero false, dist := dist, done := 0, forward := true, v0 := .zero false,
    amax := .zero false, homing := homing, group := 15, next := none }
def movingAxis (homing : Bool) (dist : Nat) : State :=
  axes.setAxis 15 { axes.axis 15 with move := some (aMove homing dist), interval := 1 }

theorem test_AxisCommandsStartBrakeAndStop :
    ((bitsOf (0x8000#32).toNat 16).filter axes.axisUsed = [15] ∧ axes.goRefusal [15] = none ∧ axes.prfRuns = true ∧ axes.groupOf 15 = 15 ∧
      axes.axisMoving 15 = false ∧ axes.axisTarget 15 ≠ axes.axisPos 15 ∧ (axes.goRefusal [14]).isSome = true ∧
      [Reg.prfGo, Reg.prfStop, Reg.prfHalt].all (fun r => axes.lets warden r 0x8000) = true ∧ axes.lets warden Reg.prfGo 0x4000 = true) ∧
    (let s := movingAxis false 9
     s.lets warden Reg.prfStop 0x8000 = true ∧ 15 ∈ s.withGroups 0x8000 ∧ s.axisMoving 15 = true ∧ (s.axis 15).interval ≠ 0 ∧
      s.lets warden Reg.prfHalt 0x8000 = true ∧ (s.axis 15).move = some (aMove false 9)) ∧
    ([0x484D0001#32, 0x484D0002#32, 1#32].all (fun v => axes.lets warden (Reg.prfHome 15) v) = true ∧ field 0x484D0001#32 31 16 = 0x484D ∧
      (movingAxis false 9).lets warden (Reg.prfHome 15) 0x484D0001 = true ∧ axes.axisUsed 15 = true ∧ axes.axisUsed 0 = false ∧
      axes.lets warden (Reg.prfHome 0) 0x484D0001 = true) := by
  decide +kernel

theorem test_AxesStepHomeRestAndPresent :
    (∀ h ∈ [false, true], ∀ d ∈ [1, 2], let s := movingAxis h d
      (s.axis 15).move = some (aMove h d) ∧ s.prfRuns = true ∧ (aMove h d).done < (aMove h d).dist ∧ (aMove h d).next = none ∧
        (s.axis 15).held = none ∧ s.groupOf 15 = 15 ∧ s.axisHoming 15 = h) ∧
    ((axes.axis 15).move = none ∧ (State.reset.prfRuns = false)) ∧
    (let s := axes.setNum (Reg.prfIdle 15) 1
     s.prfRuns = true ∧ s.axisUsed 15 = true ∧ s.axisMoving 15 = false ∧ s.fld (Reg.prfIdle 15) 15 0 ≠ 0 ∧ s.flag (Reg.prfAstate 15) 26 = false) ∧
    (axes.prfRuns = true ∧ axes.axisUsed 14 = true ∧ axes.axisOut 14 = 1 ∧ axes.claim ≠ 0 ∧ axes.axisLch 14 = 0 ∧ axes.latchUsed 0 = true ∧
      axes.latchInput 0 0 = true ∧ axes.latchSetid 0 = axes.ownSetid ∧ (axes.latchChannel 0).stuck = false ∧
      axes.floor axes.ownSetid ≤ epochOf axes.claim ∧ axes.disregards (epochOf axes.claim) = false ∧ axes.latchHeld 0 ≠ Lat.safe ∧
      axes.num (Reg.latHighest 0) < axes.claim) := by
  decide +kernel

/-- A panel of a type with one rail, 8 by 4 pixels, one mode of one frame, frames by comparator 63 of spindle 7. -/
def panel (type : Nat) (on : Bool) (stage : PnlStage) (rails : Nat) (regions : List PnlRegion) : State :=
  let s := loaded (cfg run [⟨Ty.panel, Region.link, 0, mkBody 0x100 [(0, 1, type), (2, 2, 0x3F07), (8, 2, 8), (0x10, 2, 4), (0x19, 1, 1), (0x1B, 1, 1),
    (0x60, 2, 1)]⟩])
  (s.setFlag Reg.pnlCtrl 0 on).setPnl { s.pnl with stage := stage, rails := rails, regions := regions }
def aRegion (kind : Nat) : PnlRegion :=
  { slot := 0, x := 0, y := 0, w := 8, h := 4, mode := 0, kind := kind, phase := 0, recovery := false, clears := false, fresh := false, whos := [8] }

theorem test_PanelsPowerUpAndDown :
    (let s := panel 2 false .rest 0 []
     s.lets warden Reg.pnlCtrl 1 = true ∧ s.panelOn = false ∧ s.pnl.stage = .rest ∧ s.panelRails ≠ 0 ∧
      (panel 2 false .falling 1 []).pnl.stage ≠ .rest ∧ (panel 2 false .falling 1 []).lets warden Reg.pnlCtrl 1 = true ∧
      s.lets warden Reg.pnlCtrl 0 = true) ∧
    (∀ k ∈ [1, 2], ∀ t ∈ [1, 2], let s := panel t true .rest 1 [aRegion k]
      s.lets warden Reg.pnlCtrl 0 = true ∧ s.panelOn = true ∧ s.panelType = t ∧ s.pnl.rails ≠ 0 ∧
        (k = 2 → s.pnlRunning ≠ []) ∧ (k = 1 → s.pnlRunning = [] ∧ aRegion 1 ∈ s.pnlPending ∧ 8 ∈ (aRegion 1).whos)) ∧
    (∀ g ∈ [PnlStage.rising, .falling, .lighting], let s := panel 2 false g 1 []
      s.panelRuns = true ∧ s.pnl.stage = g ∧ s.panelRails ≤ s.pnl.rails + 1 ∧ s.pnl.rails ≤ 1) ∧
    (run.panelRuns = false ∧ (panel 1 true .rest 1 []).lets warden Reg.pnlCtrl 1 = true) := by
  decide +kernel

/-- The Warden's update of the whole panel. -/
def updating (on : Bool) (regions : List PnlRegion) : State :=
  (panel 2 on .rest 1 regions).setNum (bankOf 14 Reg.pnlUpdWh) (8 + 4 * 65536)

theorem test_PanelsUpdateFrameByFrame :
    (∀ s ∈ [updating false [], updating true [], updating true [aRegion 1], updating true (List.replicate 16 { aRegion 1 with x := 16 })],
      s.lets warden Reg.pnlUpdGo 0x504E0000 = true) ∧ field 0x504E0000#32 31 16 = 0x504E ∧ field 0x504E0001#32 1 0 = 1 ∧
    (let s := updating true []
     let wh := s.reg (bankOf 14 Reg.pnlUpdWh)
     field wh 10 0 = 8 ∧ field wh 26 16 = 4 ∧ ¬ (s.panelWidth < 0 + 8 ∨ s.panelHeight < 0 + 4 ∨ s.panelType ≠ 2 ∨ u8 s.panelBody 0x1B ≤ 0) ∧
      u8 s.panelBody 0x1B ≤ 1 ∧ s.pnlPending.length < 16) ∧
    ((aRegion 1).meets (aRegion 1) = true ∧ ({ aRegion 1 with x := 16 } : PnlRegion).meets (aRegion 1) = false) ∧
    (let s := dueFor Consumer.pnl (panel 2 true .rest 1 [aRegion 2])
     s.panelRuns = true ∧ s.panelType = 2 ∧ (s.firing Consumer.pnl (u8 s.panelBody 2) (u8 s.panelBody 3)).isSome = true ∧
      ¬ s.chip.up < s.pnl.busyUntil ∧ s.pnl.regions = [aRegion 2] ∧ (aRegion 2).fresh = false ∧ 0 + 1 ≥ s.modeFrames 0) ∧
    16 ≤ (updating true (List.replicate 16 { aRegion 1 with x := 16 })).pnlPending.length ∧ run.panelRuns = false := by
  decide +kernel

/-- The axes with 15 and 13 in group 3. -/
def grouped (held : Bool) : State :=
  let s := cfg axes [⟨Ty.struct, Region.control, 0, mkBody 0x480 [(axisEntry 15, 1, 1), (axisEntry 15 + 0x24, 4, 100), (axisEntry 13, 1, 1),
    (axisEntry 13 + 0x24, 4, 100), (0x470, 2, 0xA000)]⟩]
  let s := s.setFlag (Reg.prfAstate 13) 28 false
  if held then s.setAxis 15 { s.axis 15 with move := some (aMove false 9), interval := 1 } else s

theorem test_AxisCommandsStartBrakeAndStop_groups :
    (∀ h ∈ [false, true], let s := grouped h
      s.groupOf 15 = 3 ∧ s.groupOf 13 = 3 ∧ s.goRefusal [13, 15] = none ∧ s.prfRuns = true ∧ (s.groupAxes 3).any s.axisMoving = h ∧
        (s.goRefusal [15]).isSome = true ∧ s.lets warden Reg.prfGo 0xA000 = true) := by
  decide +kernel

theorem test_PanelsUpdateFrameByFrame_busy :
    (let s := dueFor Consumer.pnl (panel 2 true .rest 1 [aRegion 2])
     let s := s.setPnl { s.pnl with busyUntil := 10 ^ 12 }
     (s.firing Consumer.pnl (u8 s.panelBody 2) (u8 s.panelBody 3)).any (fun x => decide (x.1.firedAt < x.1.pnl.busyUntil)) = true) ∧
    (let s := dueFor Consumer.pnl (panel 1 true .rest 1 [aRegion 2])
     (s.firing Consumer.pnl (u8 s.panelBody 2) (u8 s.panelBody 3)).any (fun x => x.1.panelType == 1 && !x.1.panelDark) = true) := by
  decide +kernel

/-! ### Witnesses: Milio -/

/-- Node 1 with all four links in a state; channel 5 of port 1 with rings of two entries, channel 7 encrypted; nodes up to 9 route to link 3. -/
def milio (st : Nat) : State :=
  let link : Section := ⟨Ty.struct, Region.link, 0, mkBody 0x600 [(0, 6, 0x010101010101), (7, 1, 4), (vcEntry 1 5, 4, 0x00040008),
    (vcEntry 1 5 + 4, 4, 0x8000), (vcEntry 1 5 + 8, 4, 0x8100), (vcEntry 1 5 + 0xC, 4, 0x00020002), (vcEntry 1 7, 4, 0x00040002), (0x120, 1, 1),
    (0x132, 2, 9), (0x134, 2, 0x0303), (0x330, 8, 0x0005000500050005), (ethEntry 0, 1, 1)]⟩
  let keys : Section := ⟨Ty.keypol, Region.keep, 0, mkBody 0x40 [(2, 1, 1), (0x10, 3, 0x090701)]⟩
  let s := cfg run [link, keys]
  let s := (List.range 4).foldl (fun s l => s.setLinkState l st) s
  ({ s with blk := { s.blk with node := 1 } }.setFld (Reg.milCtrl 1) 9 8 3)

def packetOf (dst vc hops seq n : Nat) : List Byte :=
  let b := mkBody (16 + n) [(0, 2, dst), (2, 2, 2), (4, 1, vc), (5, 1, hops), (6, 2, n), (8, 2, seq)]
  b ++ leBytes 4 (crc32 b)

def waitingPacket : MilPacket := { dst := 5, src := 1, vc := 5, hops := 4, bcast := false, payload := [1#8] }

theorem test_MilioPacketsAreCheckedInOrder :
    (let s := milio Link.up
     s.linkExists 3 = true ∧ s.awake = true ∧ s.fenced Region.link = false ∧ s.linkState 3 = Link.up ∧ run.linkExists 3 = false ∧
      (let b := packetOf 1 5 4 0 4
       20 ≤ b.length ∧ packetIntact b = true ∧ packetIntact (b.set 0 9#8) = false ∧ bit s.inj.proofLinks 3 = false ∧ s.inj.run = none ∧
        u16 b 8 % 4096 = (s.milLink 3).expect ∧ bit (u8 b 4) 4 = false ∧ bit (u8 b 4) 3 = false ∧ s.vcEnc 3 5 = false ∧ bit (u16 b 0) 15 = false ∧
        u16 b 0 % 2 ^ 14 = s.blk.node ∧ s.fusTakes Kind.milio (5 % 8 + 1 % 2 * 8 + u16 (slice b 16 4) 0 * 16) = false ∧ s.metRuns = false ∧
        s.latchOffered (.milio 1 5 (u16 (slice b 16 4) 0)) = false ∧ Lfr.type ((slice b 16 4).drop 4) ≠ Frame.status ∧
        (s.milLink 3).held = [] ∧ ringFill (s.rxRing 1 5).2 (s.num (Reg.milRxhead 1 5)) (s.num (Reg.milRxtail 1 5)) = 0) ∧
      u16 (packetOf 2 5 1 0 4) 0 % 2 ^ 14 ≠ s.blk.node ∧ u8 (packetOf 2 5 1 0 4) 5 ≤ 1 ∧
      u16 (packetOf 1 5 4 4095 4) 8 % 4096 ≠ (s.milLink 3).expect ∧ (s.milLink 3).discarding = false) ∧
    (let s := (milio Link.up).setMilLink 3 { (milio Link.up).milLink 3 with held := [(0, 0, false, waitingPacket)], discarding := true }
     (s.milLink 3).held = (0, 0, false, waitingPacket) :: [] ∧ (s.milLink 3).discarding = true) ∧
    (let s : State := { run with eth := { run.eth with held := run.eth.held.set 5 [(0, 0, [])] } }
     s.eth.held.get 5 = (0, 0, []) :: [] ∧ s.eth.held.get 0 = []) := by
  decide +kernel

def aSent (resends : Nat) : MilSent := { seq := 4095, vc := 5, packet := waitingPacket, bytes := [], resends := resends, time := 0 }
/-- A packet that waits for an acknowledgement on link 3, after some resends, and one that waits for credits. -/
def resending (resends : Nat) : State :=
  let s := (milio Link.up).setMilLink 3 { (milio Link.up).milLink 3 with sent := [aSent resends] }
  { s with mil := { s.mil with vcs := s.mil.vcs.set (9 * 3 + 5) { s.milVc 3 5 with waiting := [waitingPacket] } } }
/-- One transmit entry for node 5 in the ring of channel 5 of port 1, and credits to send it. -/
def transmitting : State :=
  let s := ((milio Link.up).poke (Addr.stock + 0x8000) (leBytes 5 (Addr.stock + 0x9000) ++ [0#8] ++ leBytes 2 4 ++ leBytes 2 5))
  { s with mil := { s.mil with vcs := s.mil.vcs.set (9 * 3 + 5) { s.milVc 3 5 with credits := 8 } } }

theorem test_MilioLinksRetryAndServeRings :
    (∀ n ∈ [15, 16], (resending n).linkActs 3 = true ∧ Link.align ≤ (resending n).linkState 3 ∧ (resending n).linkState 3 ≠ Link.down ∧
      ((resending n).milLink 3).sent = aSent n :: []) ∧
    ((milio Link.down).linkState 3 = Link.down ∧ ((milio Link.up).milLink 3).sent = [] ∧ run.linkActs 3 = false) ∧
    ((resending 0).milVc 3 5).waiting = waitingPacket :: [] ∧ (resending 0).linkUp 3 = true ∧ (resending 0).awake = true ∧
    ((resending 0).milVc 3 5).credits < creditsFor waitingPacket.payload.length ((resending 0).vcEnc 3 5) ∧
    (resending 0).flag (Reg.milVstate (3 / 2) 5) 31 = false := by
  decide +kernel

theorem test_MilioLinksRetryAndServeRings_rings :
    (transmitting.lets warden (Reg.milTxtail 1 5) 1 = true ∧ transmitting.lets warden (Reg.milTxtail 1 5) 0 = true ∧
      (transmitting.setNum (Reg.milTxtail 1 5) (field 0#32 11 0)).txFill 1 5 = 0 ∧
      (let u := transmitting.setNum (Reg.milTxtail 1 5) (field 1#32 11 0)
       let m : MilPacket := { dst := 5, src := 1, vc := 5, hops := 4, bcast := false, payload := List.replicate 4 0#8 }
       u.txFill 1 5 = 1 ∧ (u.headPacket 1 5).toOption = some m ∧ m.dst ≠ transmitting.blk.node ∧ (u.route 5).2 = .via 3 ∧
        ((u.route 5).1.milVc 3 5).waiting = [] ∧ (u.route 5).1.milReady 3 m = true)) ∧
    ((milio Link.up).lets warden (Reg.milRxtail 1 5) 1 = true ∧ (milio Link.up).lets warden (Reg.ethRxtail 0) 1 = true ∧ run.eth.held.get 0 = [] ∧
      ([0, 1, 2, 3].all fun k => ((milio Link.up).milLink k).held.isEmpty) = true) := by
  decide +kernel

theorem test_MilioLinksTrainAndMeetTheirPeer :
    (∀ st ∈ [Link.train, Link.align, Link.up, Link.miswired, Link.down], (milio st).linkActs 3 = true ∧ (milio st).linkState 3 = st ∧
      (milio st).linkEnabled 3 = true) ∧
    (milio Link.up).lets warden (Reg.milCtrl 1) 0x320 = true ∧ bit (0x320#32).toNat (8 + 3 % 2) = true ∧ bit (0x320#32).toNat (4 + 3 % 2) = true ∧
    (∀ node ∈ [5, 6], let b := mkBody 12 [(0, 1, 1), (4, 2, node)]
      12 ≤ b.length ∧ u8 b 0 = 1 ∧ u16 b 4 % 2 ^ 14 = node ∧ u16 (milio Link.align).linkStruct (0x330 + 2 * 3) = 5) := by
  decide +kernel

/-- The link root of channel 7 of port 1 in key slot 9, and an exchange under generation 4. -/
def exchanging (root : Bool) : State :=
  let s := milio Link.up
  let s : State := { s with mil := { s.mil with vcs := s.mil.vcs.set (9 * 3 + 7) { s.milVc 3 7 with kx := some { kgen := 4, key := [] } } } }
  { s with key := { s.key with slots := s.key.slots.set 9 { (default : KeySlot) with state := if root then 1 else 0, value := [7#8] } } }

theorem test_MilioChannelsAgreeOnKeys :
    (∀ r ∈ [false, true], let s := exchanging r
      let b := mkBody 60 [(0, 4, 0x00040703)]
      s.linkActs 3 = true ∧ 60 ≤ b.length ∧ u8 b 0 = 3 ∧ u8 b 1 = 7 ∧ u16 b 2 = 4 ∧ s.linkState 3 = Link.up ∧ s.vcEnc 3 7 = true ∧
        s.linkRoot (3 / 2) 7 = (if r then some [7#8] else none) ∧ (s.milVc 3 7).kx = some { kgen := 4, key := [] }) ∧
    ((milio Link.up).lets warden (Reg.milKeyctl 1) 0x4B580007 = true ∧ (milio Link.up).lets warden (Reg.milKeyctl 1) 7 = true ∧
      field 0x4B580007#32 31 16 = 0x4B58 ∧ (milio Link.up).linkUp 3 = true) ∧
    ((exchanging true).linkActs 3 = true ∧ ((milio Link.up).milVc 3 7).kx = none ∧ ((milio Link.up).milVc 3 7).failed = false) := by
  decide +kernel

theorem test_MilioPacketsAreCheckedInOrder_relay :
    (let s := milio Link.up
     let b := packetOf 5 5 4 0 4
     u16 b 0 % 2 ^ 14 ≠ s.blk.node ∧ 1 < u8 b 5 ∧ s.linkState 2 = Link.up ∧ (s.route 5).2 = .via 3 ∧ packetIntact b = true ∧
      s.vcEnc 2 5 = false ∧ bit (u16 b 0) 15 = false) ∧
    ((milio Link.align).linkState 3 ≠ Link.up ∧ (milio Link.up).txFill 1 5 = 0) := by
  decide +kernel

/-! ### Witnesses: Ethernet, CAN, the host's ports, mailboxes, debug -/

/-- Ethernet port 5 on lane 3 with rings of two entries, up; CAN controller 3 in use; channel 63 of the mailboxes from the Warden to core 7. -/
def linked : State :=
  let link : Section := ⟨Ty.struct, Region.link, 0, mkBody 0x600 [(3, 1, 2), (ethEntry 5, 1, 1), (ethEntry 5 + 4, 6, 0x020000000001),
    (ethEntry 5 + 0xC, 4, 0x8000), (ethEntry 5 + 0x10, 4, 0x8100), (ethEntry 5 + 0x14, 4, 0x00020002), (canEntry 3, 1, 1)]⟩
  let control : Section := ⟨Ty.struct, Region.control, 0, mkBody 0xA80 [(channelEntry 63, 4, 2 ^ 14), (channelEntry 63 + 4, 2, 0x0107),
    (channelEntry 63 + 8, 4, 0x9000), (doorbellEntry 63, 4, 2 ^ 14)]⟩
  (cfg run [link, control]).setFlag (Reg.ethPstate 5) 31 true

def etherFrame (dst : Nat) : List Byte :=
  let b := mkBody 60 [(0, 6, dst)]
  b ++ leBytes 4 (crc32 b)

theorem test_EthernetPortsReceiveSendAndReport :
    (let f := etherFrame 0x020000000001
     linked.ethRuns 5 = true ∧ linked.ethLink 5 = true ∧ run.ethRuns 5 = false ∧ 64 ≤ f.length ∧ f.length ≤ 1522 ∧
      crc32 (f.take (f.length - 4)) = u32 f (f.length - 4) ∧ linked.ethAccepts 5 (slice f 0 6) = true ∧ udpOf (f.take (f.length - 4)) = none ∧
      linked.eth.held.get 5 = [] ∧ ringFill (linked.ethRxRing 5).2 (linked.num (Reg.ethRxhead 5)) (linked.num (Reg.ethRxtail 5)) = 0 ∧
      (let s := linked.setNum (Reg.ethRxtail 5) 1
       ringFill (s.ethRxRing 5).2 (s.num (Reg.ethRxhead 5)) (s.num (Reg.ethRxtail 5)) = 1) ∧
      linked.ethAccepts 5 (slice (etherFrame 0x020000000002) 0 6) = false ∧ crc32 ((f.set 20 1#8).take 60) ≠ u32 (f.set 20 1#8) 60 ∧
      (f.drop 1).length < 64 ∧ 1522 < (f ++ List.replicate 1459 0#8).length) ∧
    (linked.lets warden (Reg.ethTxtail 5) 1 = true ∧ (linked.setNum (Reg.ethTxtail 5) (field 1#32 11 0)).ethFill 5 = 1 ∧
      (linked.setNum (Reg.ethTxtail 5) (field 0#32 11 0)).ethFill 5 = 0 ∧ linked.lets warden (Reg.ethTxtail 5) 0 = true) ∧
    (linked.lets warden Reg.ethMdio 0xC0000000 = true ∧ bit (0xC0000000#32).toNat 31 = true ∧ bit (0xC0000000#32).toNat 30 = true ∧
      linked.lets warden Reg.ethMdio 1 = true ∧ linked.num (Reg.ethPstate 5) ≠ 2 ^ 31 + 4) := by
  decide +kernel

/-- Filter element 127 of controller 3 takes standard identifier 5 with an action; fill of FIFO 0. -/
def filtering (action fill : Nat) : State :=
  ((linked.setNum (canFilter 3 127 0) 5).setNum (canFilter 3 127 1) 0x7FF).setNum (canFilter 3 127 2) (action + 63 * 65536)
    |>.setFld (Reg.canF0stat 3) 21 16 fill

theorem test_CanFramesGoWhereTheirFilterSays :
    (∀ a ∈ [1, 3, 4], (filtering a 0).canRuns 3 = true ∧ (filtering a 0).canIs 3 Can.busOff = false ∧
      (List.range 128).find? (fun f => ((filtering a 0).canElement 3 f).accepts 5) = some 127 ∧ ((filtering a 0).canElement 3 127).action = a) ∧
    ((filtering 1 31).fld (Reg.canF0stat 3) 21 16 < 32 ∧ ¬ (filtering 1 32).fld (Reg.canF0stat 3) 21 16 < 32 ∧ run.canRuns 3 = false) ∧
    (linked.lets warden (Reg.canF0ack 3) 63 = true ∧ linked.lets warden (Reg.canF1ack 3) 1 = true ∧ linked.lets warden (Reg.canHprel 3) 8 = true) := by
  decide +kernel

/-- Buffer 63 is on the bus of controller 3; and a Latch frame. -/
def sending (bus : Nat) : State :=
  { linked.setFlag (Reg.canTxreqHi 3) 31 true with
    can := { linked.can with onBus := linked.can.onBus.set 3 bus, latch := linked.can.latch.set 3 [(5, [])] } }

theorem test_CanControllersTransmitAndRecover :
    (linked.lets warden (Reg.canTxreqHi 3) 0x80000000 = true ∧ linked.lets warden (Reg.canTxreqLo 3) 1 = true ∧ linked.canSends 3 = true ∧
      linked.isReceiveBuffer 3 63 = false ∧ bit (0x80000000#32).toNat (63 - 32) = true ∧ (filtering 3 0).isReceiveBuffer 3 63 = true) ∧
    (((sending 65).canStart 3).can.onBus.get 3 = 2 + 63 ∧ (sending 65).canSends 3 = true ∧ (linked.canStart 3).can.onBus.get 3 = 0 ∧
      ((sending 1).canStart 3).can.onBus.get 3 = 1 ∧ ((sending 1).canStart 3).can.latch.get 3 = (5, []) :: [] ∧
      (sending 65).fld (Reg.canCtrl 3) 7 4 = 0 ∧ ((sending 65).setFld (Reg.canCtrl 3) 7 4 1).fld (Reg.canCtrl 3) 7 4 ≠ 0) ∧
    ((sending 0).lets warden (Reg.canTxcanHi 3) 0x80000000 = true ∧ (sending 0).txreq 3 63 = true ∧ (sending 0).can.onBus.get 3 ≠ 2 + 63 ∧
      linked.lets warden (Reg.canTxcanLo 3) 1 = true) ∧
    (linked.canRuns 3 = true ∧ linked.canIs 3 Can.busOff = false ∧ linked.canIs 3 Can.restricted = false ∧
      linked.lets warden (Reg.canCtrl 3) 1 = true) ∧
    (let s := linked.setFlag (Reg.canStatus 3) Can.busOff true
     let s : State := { s with can := { s.can with recovering := s.can.recovering.set 3 true } }
     s.canRuns 3 = true ∧ s.canIs 3 Can.busOff = true ∧ s.can.recovering.get 3 = true) := by
  decide +kernel

/-- The endpoint is up; Link is fenced or not; source 511 is pending and mapped to vector 63. -/
def hosting (fenced : Bool) : State :=
  let s := ((run.setFlag Reg.pciStatus 31 true).setFlag Reg.sysFence Region.link fenced).setNum (Reg.pciVmap 63) 448
  s.raise 448

theorem test_PcieHostsAccessAndAreSignalled :
    (∀ f ∈ [false, true], (hosting f).pciUp = true ∧ (hosting f).fenced Region.link = f) ∧ run.pciUp = false ∧
    ((hosting false).barTarget 1 0 4 = none ∧ (1 : Nat) ≠ 0 ∧ (hosting false).barTarget 2 0x1000000 4 = some Addr.ddr ∧
      (hosting false).barTarget 0 0x3FFFFC 4 = some (Addr.regs + 0x3FFFFC)) ∧
    ((hosting false).pci.pba = 0 ∧ (let s : State := { hosting false with pci := { (hosting false).pci with pba := 2 ^ 63 } }
      s.pci.pba = (if bit s.pci.pba 63 then 2 ^ 63 else 0) ∧ bit s.pci.pba 63 = true ∧ s.pciUp = true)) ∧
    ((hosting false).fld (Reg.pciVmap 63) 8 0 ≠ 0 ∧ (hosting false).pendingSource 448 = true ∧
      (let s : State := { hosting false with pci := { (hosting false).pci with told := 0 } }
       bit s.pci.told 63 = false ∧ s.pendingSource (s.fld (Reg.pciVmap 63) 8 0) = true)) ∧
    (run.awake = true ∧ run.variant.hasPci = true ∧ run.fenced Region.link = false) := by
  decide +kernel

/-- The SPI host may read Stock and write 0x8000 to 0x8FFF of it. -/
def spiHost : State :=
  cfg run [⟨Ty.struct, Region.link, 0, mkBody 0x600 [(0x570 + 0x18, 1, 1), (0x570 + 0x20, 5, Addr.stock + 0x8000), (0x570 + 0x28, 4, 0x1000)]⟩]

theorem test_SpiHostsReadWriteAndAbandon :
    spiHost.awake = true ∧ spiHost.fenced Region.link = false ∧ (hosting true).fenced Region.link = true ∧ (hosting true).awake = true ∧
    (let a := Addr.stock + 0x8FFC
     inRegs a = false ∧ spiHost.silent Who.spi a 4 true = false ∧ spiHost.memCode Who.spi a 4 true = Code.ok ∧ spiHost.poison = [] ∧
      spiHost.inj.run = none ∧ spiHost.slots.cells = [] ∧ spiHost.silent Who.spi a 4 false = false ∧ spiHost.memCode Who.spi a 4 false = Code.ok) ∧
    (spiReads 1 Addr.stock spiHost).2.2 < 2 ^ 32 ∧ (spiWrites [0#32] Addr.stock spiHost).2 < 2 ^ 32 := by
  decide +kernel

theorem test_MailboxesAndDebugModulesAct :
    (linked.lets warden Reg.mbxSend 0x003F0010 = true ∧ linked.channelFull 63 = false ∧ field 0x003F0010#32 21 16 = 63 ∧
      (linked.setFlag (Reg.mbxHdr 63) 31 true).channelFull 63 = true ∧
      (linked.setFlag (Reg.mbxHdr 63) 31 true).lets warden Reg.mbxSend 0x003F0001 = true) ∧
    (linked.letsRead { id := 7, mmode := true, vc := 0 } (Reg.mbxPop 63) = true ∧ linked.lets warden Reg.mbxRing 63 = true) ∧
    (let debug : Who := { id := Init.debug, mmode := false, vc := 0 }
     ∀ s ∈ [run, run.setNum Reg.keyLc Life.retired], [0#32, 1#32, 2#32].all (s.lets debug Reg.dbgDmiOp) = true) ∧
    (bit run.debugReach 7 = true ∧ bit (run.setNum Reg.keyLc Life.retired).debugReach 7 = false ∧
      (let s := (run.setNum Reg.dbgDmiAddr 0x710).setNum Reg.dbgDmiData (2 ^ 31)
       s.fld Reg.dbgDmiAddr 15 8 = 7 ∧ s.fld Reg.dbgDmiAddr 6 0 = 0x10 ∧ s.flag Reg.dbgDmiData 31 = true ∧ bit s.debugReach 7 = true) ∧
      run.awake = true ∧ vigil.awake = false ∧ run.tsk.running.get 7 = 0) := by
  decide +kernel

theorem test_EthernetPortsReceiveSendAndReport_takers :
    (let s := ptp true PortState.slave
     let s := s.setFlag (Reg.ethPstate 0) 31 true
     s.ptpRole 1 ≠ 0 ∧ s.ethRuns 0 = true ∧ s.ethLink 0 = true ∧ linked.ptpRole 6 = 0) ∧
    (let b := mkBody 60 [(0, 6, 0xFFFFFFFFFFFF), (12, 2, 0x0008), (14, 1, 0x45), (23, 1, 17), (36, 2, 9 * 256), (38, 2, 0x0900)]
     udpOf b = some (9, [0#8]) ∧ fuse.fusTakes Kind.eth (9 % 65536 + 1 * 65536) = true ∧ fuse.fusTakes Kind.eth (9 % 65536 + 0 * 65536) = false) ∧
    (linked.storeLocks ethWho ((linked.ethRxRing 5).1 + 6) 10 = false ∧ linked.partialBad ((linked.ethRxRing 5).1 + 6) 10 = none ∧
      linked.storeLocks ethWho ((linked.ethTxRing 5).1 + 10) 2 = false ∧ linked.partialBad ((linked.ethTxRing 5).1 + 10) 2 = none) := by
  decide +kernel

theorem test_CanFramesGoWhereTheirFilterSays_none :
    (List.range 128).find? (fun f => (linked.canElement 3 f).accepts 6) = none ∧ u8 linked.linkStruct (canEntry 3 + 2) / 8 % 4 % 3 = 0 ∧
    (linked.setFlag (Reg.canStatus 3) Can.restricted true).canIs 3 Can.restricted = true := by
  decide +kernel

theorem test_MailboxesAndDebugModulesAct_stores :
    ((List.range 16).all fun i => !linked.storeLocks warden (Addr.stock + linked.channelStore 63 + 0x10 + 4 * i) 4 &&
      (linked.partialBad (Addr.stock + linked.channelStore 63 + 0x10 + 4 * i) 4).isNone) = true ∧
    (linked.setFlag (Reg.mbxHdr 63) 31 true).channelFull 63 = true ∧ vigil.awake = false := by
  decide +kernel

theorem test_FusionTakesSamplesAndIssuesFrames_unread :
    (let s : State := { fuse with poison := [Addr.stock + 0x8000] }
     s.badWordIn (Addr.stock + 0x8000) 64 ≠ none ∧ s.fusRuns = true ∧ fuse.badWordIn (Addr.stock + 0x8000) 64 = none) ∧
    (let s : State := { run with poison := [Addr.stock + 0x8008] }
     s.badWordIn (Addr.stock + 0x8000) 16 ≠ none ∧ s.lets warden Reg.blkSubmit 0x8000 = true) := by
  decide +kernel

theorem test_MailboxesAndDebugModulesAct_holds :
    (let s := (tasking.setNum Reg.dbgDmiAddr 0x010).setNum Reg.dbgDmiData (2 ^ 31)
     let debug : Who := { id := Init.debug, mmode := false, vc := 0 }
     s.lets debug Reg.dbgDmiOp 2 = true ∧ bit s.debugReach 0 = true ∧ s.awake = true ∧ s.tsk.running.get 0 = 1 ∧ s.debugMasked 0 = false ∧
       0 < s.ntask ∧ (s.taskDef 0).prog < s.nprog ∧ s.controlRuns = true) ∧
    (let s := ((tasking.setFlag (Reg.tskPmode 0) 10 true).setNum Reg.keyLc Life.field).setFlag Reg.sysPairs 0 true
     s.paired 0 = true ∧ bit s.debugReach 1 = true ∧ s.debugMasked 0 = true) := by
  decide +kernel

/-! ### Witnesses: keys, records, injections, lockstep -/

/-- Slot 5 holds a key of a type and usage for every initiator and state; slot 20 is its child. -/
def keyed (type usage : Nat) : State :=
  let k : KeySlot := { state := 1, level := 1, type := type, parent := 0, usage := usage, world := 3, lc := 31, init := 2 ^ 32 - 1, auth := false, value := [] }
  let s := run.setNum Reg.keyLc Life.field
  { s with key := { s.key with slots := (s.key.slots.set 5 k).set 20 { k with parent := 5 }, reclaim := [5, 20] } }

/-- A request in front of the queue with an operation and the byte that holds IE. -/
def asking (op flags : Nat) : State :=
  let s := (keyed KeyType.secret 31).poke (Addr.stock + 0x8000) [BitVec.ofNat 8 op, 5#8, BitVec.ofNat 8 flags]
  { s with key := { s.key with queue := [(warden, 0x8000), (warden, 0x8040)] } }

theorem test_KeyRequestsCompleteWithTheirCode :
    run.key.queue = [] ∧
    (∀ op ∈ [1, 2, 3, 4, 5, 6, 7, 8, 9, 10, 11, 12], let s := asking op 1
      s.key.queue = (warden, 0x8000) :: [(warden, 0x8040)] ∧ (s.readKeyRequest warden 0x8000).op = op ∧
      (s.readKeyRequest warden 0x8000).ie = true ∧ (s.readKeyRequest warden 0x8000).reservedOk = true ∧ s.life ≠ Life.retired ∧
      ((asking op 2).readKeyRequest warden 0x8000).reservedOk = false) ∧
    ((asking 0 1).readKeyRequest warden 0x8000).op = 0 ∧ ((asking 13 1).readKeyRequest warden 0x8000).op = 13 ∧
    (let s := (asking 2 1).setNum Reg.keyLc Life.retired
     s.life = Life.retired ∧ servedRetired (s.readKeyRequest warden 0x8000) = false ∧
      servedRetired (((asking 8 1).setNum Reg.keyLc Life.retired).readKeyRequest warden 0x8000) = true) ∧
    (let s := (asking 8 1)
     let q := { s.readKeyRequest warden 0x8000 with slot := 5 }
     (s.serveQuote q).code = KeyCode.misuse) := by
  decide +kernel

def keyRequest (op slot srcLen : Nat) : KeyRequest :=
  { who := warden, at_ := Addr.stock + 0x8000, op := op, slot := slot, ie := true, srcLen := srcLen, src := Addr.stock + 0x9000, dst := Addr.stock + 0xA000,
    dstLen := 0x400, param := List.replicate 16 0#8, reservedOk := true }

/-- An entry of slot 6: a SECRET for MAC, and an Ed448 public key for VERIFY. -/
def entryOf (type usage : Nat) : List Byte := mkBody 128 [(0, 4, 6 + 256 * type + 65536 * usage + 2 ^ 24)]

theorem test_KeyOperationsGiveTheirResults :
    (∀ n ∈ [0, 64, 178, 114, 100], (keyed 1 31).rangeDenied warden (Addr.stock + 0x9000) n false = false) ∧
    (∀ n ∈ [0, 32, 57, 64, 114, 116, 1024], n ≤ (keyRequest 1 5 0).dstLen ∧ (keyed 1 31).rangeDenied warden (Addr.stock + 0xA000) n true = false) ∧
    (∀ use ∈ [KeyUse.sign, KeyUse.verify, KeyUse.mac, KeyUse.encrypt], (keyed 1 31).slotCode (keyRequest 1 5 0) use = 0) ∧
    ((keyed 2 1).keySlot 5).state = 1 ∧ ((keyed 2 1).keySlot 5).type ≠ KeyType.secret ∧
    (keyRequest 5 5 100).aadLen ≤ 100 ∧ (keyRequest 6 5 100).aadLen + 16 ≤ 100 ∧
    ((keyed 1 31).keySlot 7).state = 0 ∧
    (let s := (keyed 1 31).putSlot 7 { (keyed 1 31).keySlot 5 with state := 2 }
     (s.keySlot 7).state ≠ 0 ∧ (s.keySlot 7).state ≠ 1) ∧
    ((keyed 1 2).keySlot 5).state = 1 ∧ bit ((keyed 1 2).keySlot 5).usage KeyUse.sign = false ∧
    (warden.isWarden = true ∧ (keyed 1 31).descends 5 5 = false ∧ ((keyed 1 31).keySlot 20).state = 1 ∧ (keyed 1 31).descends 5 20 = true) ∧
    (keyed 1 31).key.reclaim = [5, 20] ∧ run.key.reclaim = [] := by
  decide +kernel

theorem test_KeyOperationsGiveTheirResults_provisioning :
    (let s := (State.reset.setNum Reg.keyLc Life.factory).poke (Addr.stock + 0x9000) (entryOf 1 16)
     let m := s.bytes (Addr.stock + 0x9000) 128
     s.rangeDenied warden (Addr.stock + 0x9000) 128 false = false ∧ entryOk m = true ∧ s.mayProvision warden (u8 m 1) = true ∧
      (s.keySlot (u8 m 0)).state = 0) ∧
    (let s := (keyed 1 31).setNum Reg.keyLc Life.provisioned
     let q := { keyRequest 11 0 0 with param := mkBody 16 [(0, 1, Life.field)] }
     warden.isWarden = true ∧ transitionListed s.life (u8 q.param 0) = true ∧ s.life ≠ Life.factory) ∧
    (let s := (keyed 3 2).setNum Reg.keyLc Life.factory
     transitionListed s.life Life.provisioned = true ∧ s.hasVerifier = true ∧ (keyed 1 2).hasVerifier = false) ∧
    transitionListed Life.field Life.provisioned = false ∧ aWho.isWarden = false := by
  decide +kernel

/-- A record at a level that waits to be written. -/
def recording (level : Nat) (seq : Option Nat) : State :=
  let s := run.setFlag Reg.fltCtrl 1 true
  { s with chip := { s.chip with stockReady := true },
           flt := { s.flt with waiting := [{ (default : FaultRecord) with det := 0x20, level := level, seq := seq, tag := 5 }] } }

/-- What INJ.TARGET and INJ.LOC of the Warden name. -/
def injecting (det l : Nat) : State :=
  ((run.setNum Reg.keyLc Life.factory).setNum (bankOf warden.id Reg.injTarget) det).setNum (bankOf warden.id Reg.injLoc) l

def injected : State :=
  let q : InjRequest := { who := warden.id, det := 1, loc := 0, addr := 0, remaining := 1, live := false, start := 0 }
  { run with inj := { run.inj with run := some q } }

theorem test_RecordsInjectionsAndMismatchesAct :
    (run.flt.waiting = [] ∧ (∀ level ∈ [0, 1, 2, 3, 4], ((recording level none).flt.waiting.map (·.level)) = [level]) ∧
      (recording 1 none).logAdmits ((recording 1 none).flt.waiting.headD default) = true ∧ (recording 1 (some 7)).chip.stockReady = true ∧
      (let s := recording 1 none
       let s : State := { s with flt := { s.flt with logTimes := s.flt.logTimes.set 0x20 (List.replicate 16 0) } }
       s.logAdmits (s.flt.waiting.headD default) = false) ∧ (recording 1 none).flag Reg.fltCtrl 1 = true) ∧
    ((injecting 0x16 0x2FF00000).lets warden Reg.injGo 0x494A0003#32 = true ∧ (injecting 1 0).lets warden Reg.injGo 0x494A0001#32 = true ∧
      field 0x494A0001#32 31 16 = 0x494A ∧ bit (0x494A0001#32).toNat 0 = true ∧ bit (0x494A0003#32).toNat 1 = true ∧
      field 0x494A0001#32 15 8 ≤ 1 ∧ field 0x1#32 31 16 ≠ 0x494A) ∧
    ((injecting 0xFFFF 0).injectionRefusal warden 0xFFFF 0 false = some Inj.noPoint ∧
      (let s := injecting 1 0xFC000000
       s.num (bankOf warden.id Reg.injTarget) % 65536 = 1 ∧ s.injectionRefusal warden 1 (s.num (bankOf warden.id Reg.injLoc)) false = none) ∧
      waitsForPoint 1 = true ∧ (injecting 0x15 0x40600000).injectionRefusal warden 0x15 0x40600000 false = none ∧ waitsForPoint 0x15 = false ∧
      (injecting 0x16 0x2FF00000).injectionRefusal warden 0x16 0x2FF00000 true = none) ∧
    (injected.inj.run.map (·.det) = some 1 ∧ run.inj.run = none ∧ injected.lets warden Reg.injAbort 1#32 = true ∧ bit (1#32).toNat 0 = true) ∧
    (let s := run.setFlag Reg.sysPairs 3 true
     s.paired 3 = true ∧ s.coreHalted 6 = false ∧ s.awake = true ∧ s.fenced Region.control = false ∧ run.paired 3 = false) := by
  decide +kernel

theorem test_KeyRequestsCompleteWithTheirCode_waits :
    (let s : State := { asking 11 1 with chip := { (asking 11 1).chip with delayedReset := true } }
     (s.readKeyRequest warden 0x8000).op = 11 ∧ s.chip.delayedReset = true) ∧
    (let s : State := { asking 1 1 with poison := [Addr.stock + 0x8008] }
     s.badWordIn (s.readKeyRequest warden 0x8000).at_ 64 ≠ none ∧ (asking 1 1).badWordIn (Addr.stock + 0x8000) 64 = none) ∧
    (let s := asking 1 1
     s.storeLocks warden (Addr.stock + 0x8030) 4 = false ∧ s.partialBad (Addr.stock + 0x8030) 4 = none ∧
      s.storeLocks warden (Addr.stock + 0x8034) 4 = false ∧ s.partialBad (Addr.stock + 0x8034) 4 = none) := by
  decide +kernel

theorem test_KeyOperationsGiveTheirResults_quote :
    ((keyRequest 8 1 0).slot = 1 ∧ (keyRequest 8 1 0).srcLen = 0 ∧ 576 ≤ (keyRequest 8 1 0).dstLen ∧
      (keyed 1 31).rangeDenied warden (Addr.stock + 0xA000) 576 true = false) ∧
    (let s := keyed 1 31
     let q := { keyRequest 11 0 114 with param := mkBody 16 [(0, 1, Life.service)] }
     s.life = Life.field ∧ u8 q.param 0 = Life.service ∧ transitionListed s.life Life.service = true ∧ warden.isWarden = true ∧
      s.rangeDenied warden (Addr.stock + 0x9000) 114 false = false ∧ s.authorised q Life.service (s.bytes q.src q.srcLen) = false) ∧
    (∀ n ∈ [32, 57, 64, 114, 576], (keyed 1 31).storeLocks warden (Addr.stock + 0xA000) n = false ∧
      (keyed 1 31).partialBad (Addr.stock + 0xA000) n = none) := by
  decide +kernel

theorem test_RecordsInjectionsAndMismatchesAct_rests :
    (let s := (injecting 0x16 0x2FF00000).setFlag Reg.sysFence 2 true
     s.pointRests 0x16 0x2FF00000 = true ∧ (injecting 0x16 0x2FF00000).pointRests 0x16 0x2FF00000 = false ∧
      (injecting 0x15 0x40600000).pointRests 0x15 0x40600000 = false) ∧
    (let s := injected
     (s.elapse ((1000000000 - s.chip.up + 3) / 4)).inj.run = s.inj.run ∧ s.inj.run ≠ none) := by
  decide +kernel

/-! ### Effects the spec's own words and examples give -/

/-- The state after one command, and the reply's data as a number. -/
def after (c : Instr) (s : State) : State := match exec c s with
  | .next t => t
  | _ => s
def answer (s : State) : Nat := u32 s.bus.data 0

/-- The check value of the CRC-32 of 03 ("123456789"). -/
theorem test_crc32 : crc32 ((List.range 9).map fun i => BitVec.ofNat 8 (0x31 + i)) = 0xCBF43926 := by decide +kernel

/-- The worked example of a slot (00): READY, REPEAT and SEQ of its reads at 10.000, 10.200 and 10.201 ms and after TAKE. -/
theorem test_slot_example :
    let slot := Addr.stock + 0x9000
    let read := fun s => after (.slotStatusRead warden slot) s
    let old := { run with slots := run.slots.set slot { (default : Slot) with shown := some { (default : Result) with seq := 0x41 }, nextSeq := 0x42 } }
    let done := (read old).deliver warden.id slot 0 false false false []
    answer (read old) = 0x41 ∧ answer (read done) = 0x80000042 ∧ answer (read (read done)) = 0x84000042 ∧
      answer (read (after (.take warden slot 1) (read done))) = 0x42 := by
  decide +kernel

/-- The worked example of a pulse (11, under R469): C of 65,536 units, PW 100 ms, 20 kW, so that T_est is 0.18 s and the width 90 ms. -/
theorem test_pulse_width_example :
    let s := ((cfg run [⟨Ty.metro, Region.sense, 0, mkBody 0x1000 []⟩]).setNum (Reg.metPconst 0) 65536)
    let s := cfg s [⟨Ty.metro, Region.sense, 0, mkBody 0x1000 [(s.outEntry 0, 4, 1 + 100 * 65536)]⟩]
    (s.setMetOut 0 { (default : MetOut) with size := 65536, unit := 1, dur := 180000000 }).pulseWidth 0 = 90000000 := by
  decide +kernel

/-- R25, 01: an access outside the address map is answered with its code, and nothing is stored. -/
theorem test_memory_absent : (after (.memoryAccess warden 0x0F00000000 4 (some (leBytes 4 1)) .clean true) run).bus.code = Code.absent := by decide +kernel

/-- A store is read back, and its neighbours read as before. -/
theorem test_memory_store :
    let s := after (.memoryAccess warden (Addr.stock + 0x9002) 2 (some [0xAB#8, 0xCD#8]) .clean true) run
    s.bytes (Addr.stock + 0x9000) 6 = [0#8, 0#8, 0xAB#8, 0xCD#8, 0#8, 0#8] := by
  decide +kernel

set_option maxRecDepth 100000 in
/-- R102: the Warden's write of 1 of SYS.SAFE_REQ takes the part from RUN to SAFE, and PREV keeps RUN. -/
theorem test_safe_req : (after (.safeReq warden 1) run).num Reg.sysMode = 5 + 3 * 16 := by decide +kernel

/-- R672: a waiting record gets the next SEQ. -/
theorem test_record_seq : (after .faultRecordWrite (recording 1 none)).num Reg.fltSeq = 0 ∧ (after .faultRecordWrite (recording 1 none)).flt.nextSeq = 1 := by
  decide +kernel

/-- R656: an unknown operation completes with OP_INVALID, 0x179, in the descriptor's STATUS word. -/
theorem test_key_unknown : (after .digest (asking 13 0)).mem32 (Addr.stock + 0x8030) = 0x80000179 := by decide +kernel

/-- The examples of 19 under R690 and R691: FCBGA MIO 2 is ball E1, FBGA MIO 48 is ball N1, and lane 3 of the FCBGA has TX_P at A21. -/
theorem test_balls : Variant.mioBall .ev4816 2 = (5, 1) ∧ rowLetters.getD 4 "" = "E" ∧ Variant.mioBall .ev4804 48 = (13, 1) ∧ rowLetters.getD 12 "" = "N" ∧
    ("TX3_P", 1, 21) ∈ flipChipBalls ∧ ("RX3_N", 2, 22) ∈ flipChipBalls ∧ Variant.populated .ev4816 1 1 = false ∧ Variant.populated .ev4816 3 3 = true := by
  decide +kernel

end Sys2Proof.Machine.Slice0
end

section
/-! Little-endian bytes: what the accessors of a list return of the bytes of a number. -/
namespace Sys2Proof.Machine

@[simp] theorem length_leBytes (n v : Nat) : (leBytes n v).length = n := by
  induction n generalizing v with
  | zero => rfl
  | succ n ih => simp [leBytes, ih]

/-- A number reads back from its bytes, modulo their width. -/
theorem leNat_leBytes (n v : Nat) : leNat (leBytes n v) = v % 2 ^ (8 * n) := by
  induction n generalizing v with
  | zero => simp [leBytes, leNat, Nat.mod_one]
  | succ n ih =>
    have hp : 2 ^ (8 * (n + 1)) = 256 * 2 ^ (8 * n) := by rw [Nat.mul_add, Nat.pow_add]; omega
    rw [leBytes, leNat, ih, hp, Nat.mod_mul, BitVec.toNat_ofNat]

/-- The slice that covers a list is the list. -/
theorem slice_all (bs : List Byte) (n : Nat) (h : bs.length = n) : slice bs 0 n = bs := by
  subst h
  simp [slice]

theorem u32_leBytes (v : Word) : u32 (leBytes 4 v.toNat) 0 = v.toNat := by
  have hv : v.toNat < 2 ^ 32 := v.isLt
  rw [u32, slice_all _ 4 (length_leBytes 4 _), leNat_leBytes, Nat.mod_eq_of_lt hv]

end Sys2Proof.Machine
end

section
/-! The path of a register access (R705): where the rows stand, what REGISTER_WRITE does with an address of the register range, and what a bus
error leaves. -/
namespace Sys2Proof.Machine

variable (s : State) (w : Who) (off : Nat) (v : Word)

/-- No block stands above the window of DBG. -/
theorem regRowsAt_beyond (h : 0x350000 ≤ off) : regRowsAt off = [] := by
  unfold regRowsAt
  split
  case h_38 => rfl
  all_goals omega

theorem regRowOf_lt {r : RegRow} (h : regRowOf off = some r) : off < 0x350000 := by
  by_contra hc
  simp [regRowOf, regRowsAt_beyond off (by omega)] at h

theorem inRegs_offset (h : off < 0x10000000) : inRegs (Addr.regs + off) = true := by
  simp [inRegs, h]

/-- A 32-bit write of an address of the register range is a register write. -/
theorem exec_registerWrite (h : off < 0x10000000) :
    exec (.registerWrite w (Addr.regs + off) 4 v) s = .next (s.busWrite w (Addr.regs + off) 4 v) := by
  show Host.Outcome.next (s.access w (Addr.regs + off) 4 (some (leBytes 4 v.toNat)) .clean false) = _
  rw [State.access, inRegs_offset off h]
  simp [u32_leBytes]

/-- A refused register write is a bus error. -/
theorem State.busWrite_refused (a n : Nat) (hs : s.silent w a n true = false) (hc : s.regWriteCode w a n v ≠ Code.ok) :
    s.busWrite w a n v = s.busError w a (s.regWriteCode w a n v) 0 := by
  simp [State.busWrite, hs, hc]

/-- After a bus error the initiator has its code and zeros, and only the record of the error has changed. -/
theorem State.busError_frame (a c n : Nat) :
    (s.busError w a c n).bus = { code := c, data := List.replicate n 0#8 } ∧ OnlyRegsFlt s (s.busError w a c n) [] := by
  have h := State.busError_only s w a c n
  refine ⟨by rw [h], ?_, fun q _ hq => State.busError_reg s w a c n q hq⟩
  rw [h]

end Sys2Proof.Machine
end

section
/-! Every command answers a next state, and keeps what the relation `Keeps` names: one lemma per command that can answer by cases, and
the arms of `exec` put together. -/
namespace Sys2Proof.Machine

/-- The reply is a next state. -/
def Completing (r : Reply) : Prop := ∃ t, r = .next t

theorem Completing.next (t : State) : Completing (.next t) := ⟨t, rfl⟩

theorem Completing.ite {c : Prop} {_ : Decidable c} {a b : Reply} (ha : Completing a) (hb : Completing b) :
    Completing (if c then a else b) := by split <;> assumption

theorem execBlankLoad_completes (s : State) : Completing (execBlankLoad s) := by
  unfold execBlankLoad
  refine .ite (.next _) ?_
  split <;> exact .next _

theorem execCmdDone_completes (s : State) : Completing (execCmdDone s) := by
  unfold execCmdDone
  split <;> exact .next _

theorem execPatchChecksDone_completes (region : Nat) (s : State) : Completing (execPatchChecksDone region s) := by
  unfold execPatchChecksDone
  split
  · exact .next _
  · refine .ite (.next _) ?_
    split <;> exact .next _

theorem execPatchApply_completes (region : Nat) (s : State) : Completing (execPatchApply region s) := by
  unfold execPatchApply
  split
  · exact .next _
  · split <;> exact .next _

theorem execQuiesceTimeout_completes (region : Nat) (s : State) : Completing (execQuiesceTimeout region s) := by
  unfold execQuiesceTimeout
  split
  exacts [.next _, .ite (.next _) (.next _)]

theorem execSoftwareComparatorFire_completes (spindle cmp : Nat) (s : State) : Completing (execSoftwareComparatorFire spindle cmp s) := by
  unfold execSoftwareComparatorFire
  refine .ite ?_ (.next _)
  split <;> exact .next _

theorem execSpindleStall_completes (spindle : Nat) (s : State) : Completing (execSpindleStall spindle s) := by
  unfold execSpindleStall
  extract_lets
  split
  · exact .next _
  · extract_lets
    split <;> exact .next _

theorem execRejoinEnd_completes (spindle : Nat) (s : State) : Completing (execRejoinEnd spindle s) := by
  unfold execRejoinEnd
  refine .ite ?_ (.next _)
  split <;> exact .next _

theorem execServoLocked_completes (s : State) : Completing (execServoLocked s) := by
  unfold execServoLocked
  split
  exacts [.next _, .ite (.next _) (.next _)]

theorem execJumpConfirmed_completes (s : State) : Completing (execJumpConfirmed s) := by
  unfold execJumpConfirmed
  split
  exacts [.ite (.next _) (.next _), .next _]

theorem execCommitLoad_completes (s : State) : Completing (execCommitLoad s) := by
  unfold execCommitLoad
  refine .ite (.next _) ?_
  extract_lets
  split <;> exact .next _

theorem execMeasDone_completes (s : State) : Completing (execMeasDone s) := by
  unfold execMeasDone
  refine .ite (.next _) ?_
  refine .ite (.next _) ?_
  split <;> exact .next _

theorem execPtpPortTimer_completes (port : Nat) (timer : PtpTimer) (s : State) : Completing (execPtpPortTimer port timer s) := by
  unfold execPtpPortTimer
  refine .ite (.next _) ?_
  split <;> exact .next _

theorem execWardPeriod_completes (s : State) : Completing (execWardPeriod s) := by
  unfold execWardPeriod
  refine .ite (.next _) ?_
  refine .ite (.next _) ?_
  split <;> exact .next _

theorem execPlaceEvaluation_completes (slacks utils : List Nat) (s : State) : Completing (execPlaceEvaluation slacks utils s) := by
  unfold execPlaceEvaluation
  refine .ite (.next _) ?_
  refine .ite ?_ (.next _)
  split <;> exact .next _

theorem execTaskMove_completes (task : Nat) (s : State) : Completing (execTaskMove task s) := by
  unfold execTaskMove
  extract_lets
  split
  exacts [.next _, .ite (.next _) (.next _)]

theorem execLatheDispatch_completes (lathe : Nat) (s : State) : Completing (execLatheDispatch lathe s) := by
  unfold execLatheDispatch
  refine .ite (.next _) ?_
  split
  · exact .next _
  · split <;> exact .next _

theorem execLatheDeadlineQueued_completes (lathe ticket : Nat) (s : State) : Completing (execLatheDeadlineQueued lathe ticket s) := by
  unfold execLatheDeadlineQueued
  extract_lets
  split
  exacts [.next _, .ite (.next _) (.next _)]

theorem execLatheDeadlineStop_completes (lathe chuck iterationPs : Nat) (s : State) :
    Completing (execLatheDeadlineStop lathe chuck iterationPs s) := by
  unfold execLatheDeadlineStop
  extract_lets
  split
  · exact .next _
  · refine .ite (.next _) ?_
    split <;> exact .next _

theorem execLatheCompletion_completes (lathe chuck lateNs : Nat) (storeError : Option Nat) (iterationPs : Nat) (s : State) :
    Completing (execLatheCompletion lathe chuck lateNs storeError iterationPs s) := by
  unfold execLatheCompletion
  extract_lets
  split
  · exact .next _
  · refine .ite (.next _) ?_
    split
    · exact .next _
    · extract_lets
      split <;> exact .next _

theorem execRoundStart_completes (s : State) : Completing (execRoundStart s) := by
  unfold execRoundStart
  refine .ite ?_ (.next _)
  split <;> exact .next _

theorem execPlanExpired_completes (s : State) : Completing (execPlanExpired s) := by
  unfold execPlanExpired
  split
  exacts [.ite (.next _) (.next _), .next _]

theorem execTaskRelease_completes (spindle cmp : Nat) (s : State) : Completing (execTaskRelease spindle cmp s) := by
  unfold execTaskRelease
  refine .ite (.next _) ?_
  split
  · exact .next _
  · refine .ite (.next _) ?_
    split <;> exact .next _

theorem execTaskCommit_completes (spindle cmp : Nat) (s : State) : Completing (execTaskCommit spindle cmp s) := by
  unfold execTaskCommit
  refine .ite (.next _) ?_
  refine .ite (.next _) ?_
  split <;> exact .next _

theorem execTaskFault_completes (core : Nat) (s : State) : Completing (execTaskFault core s) := by
  unfold execTaskFault
  split <;> exact .next _

theorem execDebugBreak_completes (core : Nat) (s : State) : Completing (execDebugBreak core s) := by
  unfold execDebugBreak
  split <;> exact .next _

theorem execSweepStart_completes (s : State) : Completing (execSweepStart s) := by
  unfold execSweepStart
  refine .ite (.next _) ?_
  refine .ite (.next _) ?_
  split <;> exact .next _

theorem execSweepDeadline_completes (s : State) : Completing (execSweepDeadline s) := by
  unfold execSweepDeadline
  split
  · exact .next _
  · refine .ite (.next _) ?_
    extract_lets
    split <;> exact .next _

theorem execFrameFire_completes (spindle cmp : Nat) (s : State) : Completing (execFrameFire spindle cmp s) := by
  unfold execFrameFire
  split
  exacts [.next _, .ite (.next _) (.next _)]

theorem execFrameFuse_completes (graph : Nat) (s : State) : Completing (execFrameFuse graph s) := by
  unfold execFrameFuse
  extract_lets
  split
  exacts [.next _, .ite (.next _) (.next _)]

theorem execWaitExpired_completes (graph : Nat) (s : State) : Completing (execWaitExpired graph s) := by
  unfold execWaitExpired
  extract_lets
  split
  exacts [.next _, .ite (.next _) (.next _)]

theorem execReplay_completes (graph : Nat) (s : State) : Completing (execReplay graph s) := by
  unfold execReplay
  extract_lets
  split
  · exact .next _
  · refine .ite (.next _) ?_
    extract_lets
    split <;> exact .next _

theorem execMainsCycleEnd_completes (spindle cmp : Nat) (samples : List (List Int)) (s : State) :
    Completing (execMainsCycleEnd spindle cmp samples s) := by
  unfold execMainsCycleEnd
  split
  exacts [.next _, .ite (.next _) (.next _)]

theorem execRemoteCycleClose_completes (system : Nat) (s : State) : Completing (execRemoteCycleClose system s) := by
  unfold execRemoteCycleClose
  extract_lets
  split
  exacts [.next _, .ite (.next _) (.ite (.next _) (.next _))]

theorem execPulseStart_completes (output : Nat) (s : State) : Completing (execPulseStart output s) := by
  unfold execPulseStart
  extract_lets
  split
  exacts [.next _, .ite (.next _) (.next _)]

theorem execPulseEnd_completes (output : Nat) (s : State) : Completing (execPulseEnd output s) := by
  unfold execPulseEnd
  extract_lets
  split
  exacts [.ite (.next _) (.next _), .next _]

theorem execCut_completes (s : State) : Completing (execCut s) := by
  unfold execCut
  split
  exacts [.next _, .ite (.next _) (.ite (.next _) (.next _))]

theorem execCutSkipped_completes (s : State) : Completing (execCutSkipped s) := by
  unfold execCutSkipped
  split <;> exact .next _

theorem execFinalTake_completes (s : State) : Completing (execFinalTake s) := by
  unfold execFinalTake
  split
  exacts [.next _, .ite (.next _) (.ite (.next _) (.next _))]

theorem execAbandoned_completes (s : State) : Completing (execAbandoned s) := by
  unfold execAbandoned
  refine .ite (.next _) ?_
  split
  exacts [.next _, .ite (.next _) (.next _)]

theorem execRevertReq_completes (s : State) : Completing (execRevertReq s) := by
  unfold execRevertReq
  extract_lets
  split
  exacts [.next _, .ite (.next _) (.next _)]

theorem execProofRunEnd_completes (failed : Nat) (s : State) : Completing (execProofRunEnd failed s) := by
  unfold execProofRunEnd
  refine .ite (.next _) ?_
  refine .ite (.next _) ?_
  refine .ite (.next _) ?_
  split
  exacts [.ite (.next _) (.next _)]

theorem execCheckpointStale_completes (s : State) : Completing (execCheckpointStale s) := by
  unfold execCheckpointStale
  split
  exacts [.ite (.next _) (.next _), .next _]

theorem execLatchHoldExpiry_completes (channel : Nat) (s : State) : Completing (execLatchHoldExpiry channel s) := by
  unfold execLatchHoldExpiry
  extract_lets
  split
  exacts [.next _, .ite (.next _) (.next _)]

theorem execStepEmit_completes (axis : Nat) (s : State) : Completing (execStepEmit axis s) := by
  unfold execStepEmit
  extract_lets
  split <;> exact .next _

theorem execPanelFrameStart_completes (late : Nat) (s : State) : Completing (execPanelFrameStart late s) := by
  unfold execPanelFrameStart
  refine .ite (.next _) ?_
  split
  exacts [.next _, .ite (.next _) (.next _)]

theorem execRailStep_completes (s : State) : Completing (execRailStep s) := by
  unfold execRailStep
  refine .ite (.next _) ?_
  split <;> exact .next _

theorem execAckTimeout_completes (link : Nat) (s : State) : Completing (execAckTimeout link s) := by
  unfold execAckTimeout
  extract_lets
  split <;> exact .next _

theorem execLinkRetrain_completes (link : Nat) (write : Option (Who × Word)) (s : State) : Completing (execLinkRetrain link write s) := by
  unfold execLinkRetrain
  extract_lets
  split <;> exact .next _

theorem execRxfullTimeout_completes (link : Nat) (s : State) : Completing (execRxfullTimeout link s) := by
  unfold execRxfullTimeout
  refine .ite ?_ ?_
  · extract_lets
    split <;> exact .next _
  · extract_lets
    split <;> exact .next _

theorem execVcStall_completes (link vc : Nat) (s : State) : Completing (execVcStall link vc s) := by
  unfold execVcStall
  extract_lets
  split
  exacts [.next _, .ite (.next _) (.next _)]

theorem execEthFrame_completes (port : Nat) (frame : List Byte) (message : Option PtpMessage) (s : State) :
    Completing (execEthFrame port frame message s) := by
  unfold execEthFrame
  refine .ite (.next _) ?_
  refine .ite (.next _) ?_
  refine .ite (.next _) ?_
  refine .ite (.next _) ?_
  extract_lets
  split
  · exact .ite (.next _) (.next _)
  · split
    exacts [.ite (.next _) (.next _), .next _]

theorem execTxEnd_completes (controller : Nat) (sent : Bool) (errors : CanErrors) (s : State) :
    Completing (execTxEnd controller sent errors s) := by
  unfold execTxEnd
  refine .ite (.next _) ?_
  refine .ite (.next _) ?_
  refine .ite ?_ (.next _)
  split <;> exact .next _

theorem execReclaimed_completes (s : State) : Completing (execReclaimed s) := by
  unfold execReclaimed
  split <;> exact .next _

theorem execInjectionTimeout_completes (s : State) : Completing (execInjectionTimeout s) := by
  unfold execInjectionTimeout
  split <;> exact .next _

theorem exec_completes (c : Instr) (s : State) : Completing (exec c s) := by
  cases c with
  | readmitDone | scrubPass | ddrTrainingDone | ddrRefreshPoll | vioBankLow | vioBankGood | phaseFault | vaonFall | powerOnReset |
    wardenHealthTimeout | railFault | timingMarginFault | powerFailClear | roleDecision | mountComplete | railRecovered | resetRelease |
    announceTimeout | slewDone | rtcCompare | trimOverflow | measAbort | detThreshUpdate | latheCellFault | sequencerHalt |
    loopInputWritten | streamDropped | fusionEngineHalt | heatStep | meterPulse | periodicSave | waveformSend | peerLost | takeover |
    statusSend | latchStuck | homeSwitch | currentReduce | prfSample | lightDelayExpiry | rxRingTail | canFrame | recoveryDone |
    pcieLinkChange | msiX | spiRead | spiWrite | spiAbandon => exact .ite (.next _) (.next _)
  | powerFailWarning | linkEqUpdate | proofRun | ethLinkChange => exact .ite (.next _) (.ite (.next _) (.next _))
  | periodLate | batterySecond => exact .ite (.ite (.next _) (.next _)) (.next _)
  | blankLoad => exact execBlankLoad_completes ..
  | cmdDone => exact execCmdDone_completes ..
  | patchChecksDone => exact execPatchChecksDone_completes ..
  | patchApply => exact execPatchApply_completes ..
  | quiesceTimeout => exact execQuiesceTimeout_completes ..
  | softwareComparatorFire => exact execSoftwareComparatorFire_completes ..
  | spindleStall => exact execSpindleStall_completes ..
  | rejoinEnd => exact execRejoinEnd_completes ..
  | servoLocked => exact execServoLocked_completes ..
  | jumpConfirmed => exact execJumpConfirmed_completes ..
  | commitLoad => exact execCommitLoad_completes ..
  | measDone => exact execMeasDone_completes ..
  | ptpPortTimer => exact execPtpPortTimer_completes ..
  | wardPeriod => exact execWardPeriod_completes ..
  | placeEvaluation => exact execPlaceEvaluation_completes ..
  | taskMove => exact execTaskMove_completes ..
  | latheDispatch => exact execLatheDispatch_completes ..
  | latheDeadlineQueued => exact execLatheDeadlineQueued_completes ..
  | latheDeadlineStop => exact execLatheDeadlineStop_completes ..
  | latheCompletion => exact execLatheCompletion_completes ..
  | roundStart => exact execRoundStart_completes ..
  | planExpired => exact execPlanExpired_completes ..
  | taskRelease => exact execTaskRelease_completes ..
  | taskCommit => exact execTaskCommit_completes ..
  | taskFault => exact execTaskFault_completes ..
  | debugBreak => exact execDebugBreak_completes ..
  | sweepStart => exact execSweepStart_completes ..
  | sweepDeadline => exact execSweepDeadline_completes ..
  | frameFire => exact execFrameFire_completes ..
  | frameFuse => exact execFrameFuse_completes ..
  | waitExpired => exact execWaitExpired_completes ..
  | replay => exact execReplay_completes ..
  | mainsCycleEnd => exact execMainsCycleEnd_completes ..
  | remoteCycleClose => exact execRemoteCycleClose_completes ..
  | pulseStart => exact execPulseStart_completes ..
  | pulseEnd => exact execPulseEnd_completes ..
  | cut => exact execCut_completes ..
  | cutSkipped => exact execCutSkipped_completes ..
  | finalTake => exact execFinalTake_completes ..
  | abandoned => exact execAbandoned_completes ..
  | revertReq => exact execRevertReq_completes ..
  | proofRunEnd => exact execProofRunEnd_completes ..
  | checkpointStale => exact execCheckpointStale_completes ..
  | latchHoldExpiry => exact execLatchHoldExpiry_completes ..
  | stepEmit => exact execStepEmit_completes ..
  | panelFrameStart => exact execPanelFrameStart_completes ..
  | railStep => exact execRailStep_completes ..
  | ackTimeout => exact execAckTimeout_completes ..
  | linkRetrain => exact execLinkRetrain_completes ..
  | rxfullTimeout => exact execRxfullTimeout_completes ..
  | vcStall => exact execVcStall_completes ..
  | ethFrame => exact execEthFrame_completes ..
  | txEnd => exact execTxEnd_completes ..
  | reclaimed => exact execReclaimed_completes ..
  | injectionTimeout => exact execInjectionTimeout_completes ..
  | _ => exact .next _

theorem exec_keeps (c : Instr) (s : State) : KeepsR s (exec c s) := by
  cases c with
  | registerWrite => exact execRegisterWrite_keeps (Keeps.refl s)
  | memoryAccess => exact execMemoryAccess_keeps (Keeps.refl s)
  | slotStatusRead => exact execSlotStatusRead_keeps (Keeps.refl s)
  | slotPayloadLastRead => exact execSlotPayloadLastRead_keeps (Keeps.refl s)
  | take w a v => exact execTake_keeps (p2 := v) (Keeps.refl s)
  | lockstepMismatch => exact execLockstepMismatch_keeps (Keeps.refl s)
  | chipLevelEvent => exact execChipLevelEvent_keeps (Keeps.refl s)
  | unfence => exact execUnfence_keeps (Keeps.refl s)
  | readmitDone => exact execReadmitDone_keeps (Keeps.refl s)
  | scrubPass => exact execScrubPass_keeps (Keeps.refl s)
  | ddrTrainingDone => exact execDdrTrainingDone_keeps (Keeps.refl s)
  | ddrRefreshPoll => exact execDdrRefreshPoll_keeps (Keeps.refl s)
  | ddrClear => exact execDdrClear_keeps (Keeps.refl s)
  | vioBankLow => exact execVioBankLow_keeps (Keeps.refl s)
  | vioBankGood => exact execVioBankGood_keeps (Keeps.refl s)
  | vcoreRampStep => exact execVcoreRampStep_keeps (Keeps.refl s)
  | phaseFault => exact execPhaseFault_keeps (Keeps.refl s)
  | phaseShed => exact execPhaseShed_keeps (Keeps.refl s)
  | vaonFall => exact execVaonFall_keeps (Keeps.refl s)
  | powerOnReset => exact execPowerOnReset_keeps (Keeps.refl s)
  | brownout => exact execBrownout_keeps (Keeps.refl s)
  | resetPin => exact execResetPin_keeps (Keeps.refl s)
  | wdtWarden => exact execWdtWarden_keeps (Keeps.refl s)
  | wdtKeeper => exact execWdtKeeper_keeps (Keeps.refl s)
  | wardenHealthTimeout => exact execWardenHealthTimeout_keeps (Keeps.refl s)
  | softReset => exact execSoftReset_keeps (Keeps.refl s)
  | vcoreUnder => exact execVcoreUnder_keeps (Keeps.refl s)
  | railFault => exact execRailFault_keeps (Keeps.refl s)
  | vanaClassChange => exact execVanaClassChange_keeps (Keeps.refl s)
  | batLow => exact execBatLow_keeps (Keeps.refl s)
  | tempCrit => exact execTempCrit_keeps (Keeps.refl s)
  | clockMonitorFault => exact execClockMonitorFault_keeps (Keeps.refl s)
  | timingMarginFault => exact execTimingMarginFault_keeps (Keeps.refl s)
  | powerFailWarning => exact execPowerFailWarning_keeps (Keeps.refl s)
  | emergencyRewrite => exact execEmergencyRewrite_keeps (Keeps.refl s)
  | powerFailClear => exact execPowerFailClear_keeps (Keeps.refl s)
  | blankLoad => exact execBlankLoad_keeps (Keeps.refl s)
  | roleDecision => exact execRoleDecision_keeps (Keeps.refl s)
  | mountComplete => exact execMountComplete_keeps (Keeps.refl s)
  | safeReq => exact execSafeReq_keeps (Keeps.refl s)
  | store => exact execStore_keeps (Keeps.refl s)
  | invalidate => exact execInvalidate_keeps (Keeps.refl s)
  | cmdDone => exact execCmdDone_keeps (Keeps.refl s)
  | patchSubmit => exact execPatchSubmit_keeps (Keeps.refl s)
  | patchChecksDone => exact execPatchChecksDone_keeps (Keeps.refl s)
  | patchApply => exact execPatchApply_keeps (Keeps.refl s)
  | quiesceTimeout => exact execQuiesceTimeout_keeps (Keeps.refl s)
  | batteryLost => exact execBatteryLost_keeps (Keeps.refl s)
  | vbatRecovered => exact execVbatRecovered_keeps (Keeps.refl s)
  | railRecovered => exact execRailRecovered_keeps (Keeps.refl s)
  | resetRelease => exact execResetRelease_keeps (Keeps.refl s)
  | softwareComparatorFire => exact execSoftwareComparatorFire_keeps (Keeps.refl s)
  | encoderEdge => exact execEncoderEdge_keeps (Keeps.refl s)
  | encoderIndex => exact execEncoderIndex_keeps (Keeps.refl s)
  | mainsCrossing => exact execMainsCrossing_keeps (Keeps.refl s)
  | spindlePulse => exact execSpindlePulse_keeps (Keeps.refl s)
  | roundTick => exact execRoundTick_keeps (Keeps.refl s)
  | hostadv => exact execHostadv_keeps (Keeps.refl s)
  | spindleStall => exact execSpindleStall_keeps (Keeps.refl s)
  | rejoinEnd => exact execRejoinEnd_keeps (Keeps.refl s)
  | spnAngleRead => exact execSpnAngleRead_keeps (Keeps.refl s)
  | timeStep => exact execTimeStep_keeps (Keeps.refl s)
  | second => exact execSecond_keeps (Keeps.refl s)
  | ptpMessage => exact execPtpMessage_keeps (Keeps.refl s)
  | servoLocked => exact execServoLocked_keeps (Keeps.refl s)
  | announceTimeout => exact execAnnounceTimeout_keeps (Keeps.refl s)
  | slewDone => exact execSlewDone_keeps (Keeps.refl s)
  | acceptJump => exact execAcceptJump_keeps (Keeps.refl s)
  | jumpConfirmed => exact execJumpConfirmed_keeps (Keeps.refl s)
  | timeNowRead => exact execTimeNowRead_keeps (Keeps.refl s)
  | rtcCompare => exact execRtcCompare_keeps (Keeps.refl s)
  | rtcSubsecRead => exact execRtcSubsecRead_keeps (Keeps.refl s)
  | rtcFracRead => exact execRtcFracRead_keeps (Keeps.refl s)
  | freezeExpired => exact execFreezeExpired_keeps (Keeps.refl s)
  | commit => exact execCommit_keeps (Keeps.refl s)
  | commitLoad => exact execCommitLoad_keeps (Keeps.refl s)
  | trimOverflow => exact execTrimOverflow_keeps (Keeps.refl s)
  | measStart => exact execMeasStart_keeps (Keeps.refl s)
  | measDone => exact execMeasDone_keeps (Keeps.refl s)
  | measAbort => exact execMeasAbort_keeps (Keeps.refl s)
  | ptpPortTimer => exact execPtpPortTimer_keeps (Keeps.refl s)
  | rtcSnapshotEnd => exact execRtcSnapshotEnd_keeps (Keeps.refl s)
  | wardPeriod => exact execWardPeriod_keeps (Keeps.refl s)
  | periodLate => exact execPeriodLate_keeps (Keeps.refl s)
  | wrdClear => exact execWrdClear_keeps (Keeps.refl s)
  | avsEvaluation => exact execAvsEvaluation_keeps (Keeps.refl s)
  | dfsEvaluation => exact execDfsEvaluation_keeps (Keeps.refl s)
  | linkEqUpdate => exact execLinkEqUpdate_keeps (Keeps.refl s)
  | detThreshUpdate => exact execDetThreshUpdate_keeps (Keeps.refl s)
  | placeEvaluation => exact execPlaceEvaluation_keeps (Keeps.refl s)
  | taskMove => exact execTaskMove_keeps (Keeps.refl s)
  | lastGoodStore => exact execLastGoodStore_keeps (Keeps.refl s)
  | adpStore => exact execAdpStore_keeps (Keeps.refl s)
  | latheSubmit => exact execLatheSubmit_keeps (Keeps.refl s)
  | latheDispatch => exact execLatheDispatch_keeps (Keeps.refl s)
  | latheDeadlineQueued => exact execLatheDeadlineQueued_keeps (Keeps.refl s)
  | latheDeadlineStop => exact execLatheDeadlineStop_keeps (Keeps.refl s)
  | latheCompletion => exact execLatheCompletion_keeps (Keeps.refl s)
  | cancel => exact execCancel_keeps (Keeps.refl s)
  | flush => exact execFlush_keeps (Keeps.refl s)
  | latheClear => exact execLatheClear_keeps (Keeps.refl s)
  | latheCellFault => exact execLatheCellFault_keeps (Keeps.refl s)
  | sequencerHalt => exact execSequencerHalt_keeps (Keeps.refl s)
  | roundStart => exact execRoundStart_keeps (Keeps.refl s)
  | fedDown => exact execFedDown_keeps (Keeps.refl s)
  | fedUp => exact execFedUp_keeps (Keeps.refl s)
  | areaDown => exact execAreaDown_keeps (Keeps.refl s)
  | areaUp => exact execAreaUp_keeps (Keeps.refl s)
  | areaClose => exact execAreaClose_keeps (Keeps.refl s)
  | fedClose => exact execFedClose_keeps (Keeps.refl s)
  | fedPlan => exact execFedPlan_keeps (Keeps.refl s)
  | areaPlan => exact execAreaPlan_keeps (Keeps.refl s)
  | planExpired => exact execPlanExpired_keeps (Keeps.refl s)
  | fedClear => exact execFedClear_keeps (Keeps.refl s)
  | taskRelease => exact execTaskRelease_keeps (Keeps.refl s)
  | eventTaskRelease => exact execEventTaskRelease_keeps (Keeps.refl s)
  | trigger => exact execTrigger_keeps (Keeps.refl s)
  | taskDone => exact execTaskDone_keeps (Keeps.refl s)
  | taskCommit => exact execTaskCommit_keeps (Keeps.refl s)
  | taskFault => exact execTaskFault_keeps (Keeps.refl s)
  | programRun => exact execProgramRun_keeps (Keeps.refl s)
  | programStop => exact execProgramStop_keeps (Keeps.refl s)
  | programHold => exact execProgramHold_keeps (Keeps.refl s)
  | debugBreak => exact execDebugBreak_keeps (Keeps.refl s)
  | tskClear => exact execTskClear_keeps (Keeps.refl s)
  | sweepStart => exact execSweepStart_keeps (Keeps.refl s)
  | loopInputWritten => exact execLoopInputWritten_keeps (Keeps.refl s)
  | sweepDeadline => exact execSweepDeadline_keeps (Keeps.refl s)
  | tuneApply => exact execTuneApply_keeps (Keeps.refl s)
  | tuneTake => exact execTuneTake_keeps (Keeps.refl s)
  | tuneLoad => exact execTuneLoad_keeps (Keeps.refl s)
  | cleClear => exact execCleClear_keeps (Keeps.refl s)
  | sampleIntake => exact execSampleIntake_keeps (Keeps.refl s)
  | fusPush => exact execFusPush_keeps (Keeps.refl s)
  | frameFire => exact execFrameFire_keeps (Keeps.refl s)
  | frameFuse => exact execFrameFuse_keeps (Keeps.refl s)
  | waitExpired => exact execWaitExpired_keeps (Keeps.refl s)
  | replay => exact execReplay_keeps (Keeps.refl s)
  | streamDropped => exact execStreamDropped_keeps (Keeps.refl s)
  | fusionEngineHalt => exact execFusionEngineHalt_keeps (Keeps.refl s)
  | fusClear => exact execFusClear_keeps (Keeps.refl s)
  | waveformPacket => exact execWaveformPacket_keeps (Keeps.refl s)
  | mainsCycleEnd => exact execMainsCycleEnd_keeps (Keeps.refl s)
  | remoteCycleClose => exact execRemoteCycleClose_keeps (Keeps.refl s)
  | heatStep => exact execHeatStep_keeps (Keeps.refl s)
  | meterPulse => exact execMeterPulse_keeps (Keeps.refl s)
  | billingClose => exact execBillingClose_keeps (Keeps.refl s)
  | intervalWrite => exact execIntervalWrite_keeps (Keeps.refl s)
  | pulseStart => exact execPulseStart_keeps (Keeps.refl s)
  | pulseEnd => exact execPulseEnd_keeps (Keeps.refl s)
  | batterySecond => exact execBatterySecond_keeps (Keeps.refl s)
  | periodicSave => exact execPeriodicSave_keeps (Keeps.refl s)
  | save => exact execSave_keeps (Keeps.refl s)
  | metClear => exact execMetClear_keeps (Keeps.refl s)
  | metRegRead => exact execMetRegRead_keeps (Keeps.refl s)
  | waveformSend => exact execWaveformSend_keeps (Keeps.refl s)
  | heartbeatSend => exact execHeartbeatSend_keeps (Keeps.refl s)
  | heartbeat => exact execHeartbeat_keeps (Keeps.refl s)
  | peerLost => exact execPeerLost_keeps (Keeps.refl s)
  | healthWrite => exact execHealthWrite_keeps (Keeps.refl s)
  | takeover => exact execTakeover_keeps (Keeps.refl s)
  | yield => exact execYield_keeps (Keeps.refl s)
  | handover => exact execHandover_keeps (Keeps.refl s)
  | clearUnfit => exact execClearUnfit_keeps (Keeps.refl s)
  | proofNow => exact execProofNow_keeps (Keeps.refl s)
  | resetEpoch => exact execResetEpoch_keeps (Keeps.refl s)
  | delayedSoftReset => exact execDelayedSoftReset_keeps (Keeps.refl s)
  | cut => exact execCut_keeps (Keeps.refl s)
  | cutSkipped => exact execCutSkipped_keeps (Keeps.refl s)
  | checkpointPacket => exact execCheckpointPacket_keeps (Keeps.refl s)
  | checkpointApply => exact execCheckpointApply_keeps (Keeps.refl s)
  | finalTake => exact execFinalTake_keeps (Keeps.refl s)
  | abandoned => exact execAbandoned_keeps (Keeps.refl s)
  | revertReq => exact execRevertReq_keeps (Keeps.refl s)
  | proofRun => exact execProofRun_keeps (Keeps.refl s)
  | proofRunEnd => exact execProofRunEnd_keeps (Keeps.refl s)
  | latchStatus => exact execLatchStatus_keeps (Keeps.refl s)
  | hngClear => exact execHngClear_keeps (Keeps.refl s)
  | checkpointSent => exact execCheckpointSent_keeps (Keeps.refl s)
  | checkpointStale => exact execCheckpointStale_keeps (Keeps.refl s)
  | latchCommand => exact execLatchCommand_keeps (Keeps.refl s)
  | latchWithdraw => exact execLatchWithdraw_keeps (Keeps.refl s)
  | statusSend => exact execStatusSend_keeps (Keeps.refl s)
  | latchHoldExpiry => exact execLatchHoldExpiry_keeps (Keeps.refl s)
  | latchCmd => exact execLatchCmd_keeps (Keeps.refl s)
  | latchArm => exact execLatchArm_keeps (Keeps.refl s)
  | latClear => exact execLatClear_keeps (Keeps.refl s)
  | latchStuck => exact execLatchStuck_keeps (Keeps.refl s)
  | axisGo => exact execAxisGo_keeps (Keeps.refl s)
  | axisStop => exact execAxisStop_keeps (Keeps.refl s)
  | axisHalt => exact execAxisHalt_keeps (Keeps.refl s)
  | axisHome => exact execAxisHome_keeps (Keeps.refl s)
  | setPos => exact execSetPos_keeps (Keeps.refl s)
  | stepEmit => exact execStepEmit_keeps (Keeps.refl s)
  | homeSwitch => exact execHomeSwitch_keeps (Keeps.refl s)
  | currentReduce => exact execCurrentReduce_keeps (Keeps.refl s)
  | prfSample => exact execPrfSample_keeps (Keeps.refl s)
  | panelFrameStart => exact execPanelFrameStart_keeps (Keeps.refl s)
  | powerUp => exact execPowerUp_keeps (Keeps.refl s)
  | powerOff => exact execPowerOff_keeps (Keeps.refl s)
  | railStep => exact execRailStep_keeps (Keeps.refl s)
  | updGo => exact execUpdGo_keeps (Keeps.refl s)
  | lightDelayExpiry => exact execLightDelayExpiry_keeps (Keeps.refl s)
  | packet => exact execPacket_keeps (Keeps.refl s)
  | nak => exact execNak_keeps (Keeps.refl s)
  | ackTimeout => exact execAckTimeout_keeps (Keeps.refl s)
  | linkinfo => exact execLinkinfo_keeps (Keeps.refl s)
  | blockLockLost => exact execBlockLockLost_keeps (Keeps.refl s)
  | linkRetrain => exact execLinkRetrain_keeps (Keeps.refl s)
  | kx => exact execKx_keeps (Keeps.refl s)
  | keyctl => exact execKeyctl_keeps (Keeps.refl s)
  | kxTimeout => exact execKxTimeout_keeps (Keeps.refl s)
  | txRingTail => exact execTxRingTail_keeps (Keeps.refl s)
  | rxfullTimeout => exact execRxfullTimeout_keeps (Keeps.refl s)
  | vcStall => exact execVcStall_keeps (Keeps.refl s)
  | milClear => exact execMilClear_keeps (Keeps.refl s)
  | ethFrame => exact execEthFrame_keeps (Keeps.refl s)
  | ethTxTail => exact execEthTxTail_keeps (Keeps.refl s)
  | ethMdio => exact execEthMdio_keeps (Keeps.refl s)
  | ethClear => exact execEthClear_keeps (Keeps.refl s)
  | blockLockGained => exact execBlockLockGained_keeps (Keeps.refl s)
  | creditReturn => exact execCreditReturn_keeps (Keeps.refl s)
  | rxRingTail => exact execRxRingTail_keeps (Keeps.refl s)
  | ethLinkChange => exact execEthLinkChange_keeps (Keeps.refl s)
  | canFrame => exact execCanFrame_keeps (Keeps.refl s)
  | txreq => exact execTxreq_keeps (Keeps.refl s)
  | txEnd => exact execTxEnd_keeps (Keeps.refl s)
  | txcan => exact execTxcan_keeps (Keeps.refl s)
  | busOff => exact execBusOff_keeps (Keeps.refl s)
  | recover => exact execRecover_keeps (Keeps.refl s)
  | recoveryDone => exact execRecoveryDone_keeps (Keeps.refl s)
  | fifoAck => exact execFifoAck_keeps (Keeps.refl s)
  | hprel => exact execHprel_keeps (Keeps.refl s)
  | hostAccess => exact execHostAccess_keeps (Keeps.refl s)
  | pcieLinkChange => exact execPcieLinkChange_keeps (Keeps.refl s)
  | flr => exact execFlr_keeps (Keeps.refl s)
  | msiX => exact execMsiX_keeps (Keeps.refl s)
  | spiId => exact execSpiId_keeps (Keeps.refl s)
  | spiRead => exact execSpiRead_keeps (Keeps.refl s)
  | spiWrite => exact execSpiWrite_keeps (Keeps.refl s)
  | spiAbandon => exact execSpiAbandon_keeps (Keeps.refl s)
  | mbxSend => exact execMbxSend_keeps (Keeps.refl s)
  | pop => exact execPop_keeps (Keeps.refl s)
  | ring => exact execRing_keeps (Keeps.refl s)
  | dmiRead => exact execDmiRead_keeps (Keeps.refl s)
  | dmiWrite => exact execDmiWrite_keeps (Keeps.refl s)
  | haltRequest => exact execHaltRequest_keeps (Keeps.refl s)
  | jtagAttach => exact execJtagAttach_keeps (Keeps.refl s)
  | digest => exact execDigest_keeps (Keeps.refl s)
  | sign => exact execSign_keeps (Keeps.refl s)
  | verify => exact execVerify_keeps (Keeps.refl s)
  | mac => exact execMac_keeps (Keeps.refl s)
  | encrypt => exact execEncrypt_keeps (Keeps.refl s)
  | decrypt => exact execDecrypt_keeps (Keeps.refl s)
  | publicKey => exact execPublicKey_keeps (Keeps.refl s)
  | quote => exact execQuote_keeps (Keeps.refl s)
  | keyInvalidate => exact execKeyInvalidate_keeps (Keeps.refl s)
  | reclaimed => exact execReclaimed_keeps (Keeps.refl s)
  | provision => exact execProvision_keeps (Keeps.refl s)
  | transition => exact execTransition_keeps (Keeps.refl s)
  | random => exact execRandom_keeps (Keeps.refl s)
  | keyClear => exact execKeyClear_keeps (Keeps.refl s)
  | faultRecordWrite => exact execFaultRecordWrite_keeps (Keeps.refl s)
  | injectLive => exact execInjectLive_keeps (Keeps.refl s)
  | injectShadow => exact execInjectShadow_keeps (Keeps.refl s)
  | injectionTimeout => exact execInjectionTimeout_keeps (Keeps.refl s)
  | injAbort => exact execInjAbort_keeps (Keeps.refl s)
  | fltClear => exact execFltClear_keeps (Keeps.refl s)
  | gpioEdge => exact execGpioEdge_keeps (Keeps.refl s)

/-- Settles O4: every arm of exec answers a next state, and every arm keeps what the relation Keeps names. -/
theorem everyCommandCompletesAndLeavesTheQueue : Obligations.EveryCommandCompletesAndLeavesTheQueue := by
  refine ⟨fun c s t h => ?_, exec_completes⟩
  obtain ⟨hp, hv, hf, ho, _⟩ := exec_keeps c s t h
  exact ⟨hp, hv, hf, ho⟩

end Sys2Proof.Machine
end

section
/-! The refusals of R705: every command that writes or reads one register passes the same gate, and so does REGISTER_WRITE. -/
namespace Sys2Proof.Machine

variable {c : Instr} {w : Who} {off : Nat} {v : Word}

/-- A command that writes one register is the gate of that register before an effect, which may itself refuse the value. -/
theorem exec_registerWriteOf (h : registerWriteOf c = some (w, off, v)) :
    (∃ take, ∀ s, exec c s = .next (s.gated w off v take)) ∨ ∃ take, ∀ s, exec c s = .next (s.gatedOr w off v take) := by
  cases c with
  | store | invalidate | patchSubmit | commit | fusPush | latheSubmit | mbxSend => cases h; exact .inr ⟨_, fun _ => rfl⟩
  | rxRingTail w eth p c v => cases eth <;> cases h <;> exact .inl ⟨_, fun _ => rfl⟩
  | linkRetrain l x => cases x <;> cases h; exact .inl ⟨_, fun _ => rfl⟩
  | _ => cases h <;> exact .inl ⟨_, fun _ => rfl⟩

/-- A command that reads one register is the gate of that register before the block's answer. -/
theorem exec_registerReadOf (h : registerReadOf c = some (w, off)) : ∃ take, ∀ s, exec c s = .next (s.gatedRead w off take) := by
  cases c with
  | _ => cases h <;> exact ⟨_, fun _ => rfl⟩

variable {s : State}

theorem State.gatedRead_refused (take : State → State × Nat) (hs : s.silent w (Addr.regs + off) 4 false = false)
    (hc : s.regReadCode w (Addr.regs + off) 4 ≠ Code.ok) :
    s.gatedRead w off take = s.busError w (Addr.regs + off) (s.regReadCode w (Addr.regs + off) 4) 4 := by
  simp [State.gatedRead, hs, hc]

/-- In VIGIL nothing on the die makes an access (R105). -/
theorem State.silent_of_vigil (h : s.mode = Mode.vigil) (a n : Nat) (write : Bool) : s.silent w a n write = true := by
  simp [State.silent, State.awake, h]

theorem exec_registerWriteOf_refused (h : registerWriteOf c = some (w, off, v)) (hr : s.refusesWrite w off v = true) :
    exec c s = .next (s.busError w (Addr.regs + off) (s.regWriteCode w (Addr.regs + off) 4 v) 0) := by
  rcases exec_registerWriteOf h with ⟨take, e⟩ | ⟨take, e⟩
  · rw [e, State.gated_refused s w off v take hr]
  · rw [e, State.gatedOr_refused s w off v take hr]

theorem exec_registerWriteOf_vigil (h : registerWriteOf c = some (w, off, v)) (hm : s.mode = Mode.vigil) : exec c s = .next s := by
  have hs := State.silent_of_vigil (w := w) hm (Addr.regs + off) 4 true
  rcases exec_registerWriteOf h with ⟨take, e⟩ | ⟨take, e⟩
  · simp [e, State.gated, hs]
  · simp [e, State.gatedOr, hs]

theorem exec_registerReadOf_vigil (h : registerReadOf c = some (w, off)) (hm : s.mode = Mode.vigil) : exec c s = .next s := by
  have hs := State.silent_of_vigil (w := w) hm (Addr.regs + off) 4 false
  obtain ⟨take, e⟩ := exec_registerReadOf h
  simp [e, State.gatedRead, hs]

/-- Settles O5: each such command is a gate, a gate that refuses is a bus error, and in VIGIL every access is silent. -/
theorem refusedAccessesChangeNothing : Obligations.RefusedAccessesChangeNothing := by
  refine ⟨fun c w off v s h hr => ?_, fun c w off s h hs hc => ?_, fun c s h hm => ?_⟩
  · exact ⟨_, exec_registerWriteOf_refused h hr, State.busError_frame s w _ _ 0⟩
  · obtain ⟨take, e⟩ := exec_registerReadOf h
    exact ⟨_, e s, State.gatedRead_refused take hs hc ▸ State.busError_frame s w _ _ 4⟩
  · rcases h with h | h
    · obtain ⟨⟨w, off, v⟩, h⟩ := Option.isSome_iff_exists.1 h
      exact exec_registerWriteOf_vigil h hm
    · obtain ⟨⟨w, off⟩, h⟩ := Option.isSome_iff_exists.1 h
      exact exec_registerReadOf_vigil h hm

/-! ### LOCK (R16) -/

/-- Under its set LOCK bit a write is LOCKED unless the register has fields beside its RWL ones and the write leaves those. -/
theorem State.regLocked_eq {r : RegRow} {d b : Nat} (hr : regRowOf off = some r) (hl : r.lock = some (d, b))
    (hf : s.flag (off / 0x10000 * 0x10000 + d) b = true) :
    s.regLocked off v = !decide (r.whole = false ∧ (v ^^^ s.reg off) &&& BitVec.ofNat 32 r.rwl = 0#32) := by
  simp only [State.regLocked, hr, hl, hf]
  cases r.whole <;> simp [bne, beq_eq_decide]

/-- The code of a write that only LOCK may still stop. -/
theorem State.regWriteCode_front (hf : s.regFront w (Addr.regs + off) 4 true = Code.ok) (ho : s.regOwnDenied w off v = false) :
    s.regWriteCode w (Addr.regs + off) 4 v = if s.regLocked off v then Code.locked else Code.ok := by
  simp [State.regWriteCode, hf, ho]

/-- Settles O8: past the earlier checks the code is LOCKED exactly where a field would change, and a refused write is a bus error. -/
theorem lockedFieldsStay : Obligations.LockedFieldsStay := by
  intro s w off v r d b hr hl hs hf ho hb
  have hc := State.regWriteCode_front hf ho
  rw [State.regLocked_eq hr hl hb] at hc
  split
  next h => simpa [h] using hc
  next h =>
    have hlocked : s.regWriteCode w (Addr.regs + off) 4 v = Code.locked := by simpa only [h, decide_false, Bool.not_false, if_true] using hc
    have hne : s.regWriteCode w (Addr.regs + off) 4 v ≠ Code.ok := by rw [hlocked]; decide
    have hlt := regRowOf_lt off hr
    refine ⟨_, exec_registerWrite s w off v (by omega), ?_⟩
    rw [State.busWrite_refused s w v _ _ hs hne, hlocked]
    exact State.busError_frame s w _ _ 0

end Sys2Proof.Machine
end

section
/-! What an access to memory leaves alone (01): its grants, a corrected word, a word that fails it. -/
namespace Sys2Proof.Machine

/-! ### Detector events, field by field -/

section
variable (s : State) (d : Detection)

@[simp] theorem State.detected_mem : (s.detected d).mem = s.mem := by rw [State.detected_only]
@[simp] theorem State.detected_ddrGen : (s.detected d).ddrGen = s.ddrGen := by rw [State.detected_only]
@[simp] theorem State.detected_poison : (s.detected d).poison = s.poison := by rw [State.detected_only]
@[simp] theorem State.detected_slots : (s.detected d).slots = s.slots := by rw [State.detected_only]
@[simp] theorem State.detected_variant : (s.detected d).variant = s.variant := by rw [State.detected_only]

@[simp] theorem State.detected_awake : (s.detected d).awake = s.awake := by
  have h : (s.detected d).reg Reg.sysMode = s.reg Reg.sysMode := State.detected_reg s d _ (by simp [inFlt, Reg.sysMode])
  simp [State.awake, State.mode, State.fld, h]

end

/-! ### States of one memory -/

/-- The memories of two states, their poisoned words and their result slots are the same. -/
structure SameMemory (z t : State) : Prop where
  mem : t.mem = z.mem
  ddrGen : t.ddrGen = z.ddrGen
  poison : t.poison = z.poison
  slots : t.slots = z.slots

namespace SameMemory
variable {z s : State}

theorem refl (s : State) : SameMemory s s := ⟨rfl, rfl, rfl, rfl⟩
theorem setReg (h : SameMemory z s) (r : Nat) (v : Word) : SameMemory z (s.setReg r v) := ⟨h.mem, h.ddrGen, h.poison, h.slots⟩
theorem raise (h : SameMemory z s) (n : Nat) : SameMemory z (s.raise n) := by constructor <;> simp [h.mem, h.ddrGen, h.poison, h.slots]
theorem detected (h : SameMemory z s) (d : Detection) : SameMemory z (s.detected d) := by
  constructor <;> simp [h.mem, h.ddrGen, h.poison, h.slots]
theorem ite {c : Prop} [Decidable c] {a b : State} (h : SameMemory z a) (k : SameMemory z b) : SameMemory z (if c then a else b) := by
  split <;> assumption

theorem byte (h : SameMemory z s) (x : Nat) : s.byte x = z.byte x := by simp [State.byte, h.mem, h.ddrGen]
theorem bytes (h : SameMemory z s) (x n : Nat) : s.bytes x n = z.bytes x n := by simp [State.bytes, h.mem, h.ddrGen]
theorem slotsAt (h : SameMemory z s) (o a n : Nat) : s.slotsAt o a n = z.slotsAt o a n := by simp [State.slotsAt, h.slots]

/-! ### Grants (R230 to R234) -/

theorem exhaust (h : SameMemory z s) (n level : Nat) : SameMemory z (s.exhaust n level) := by
  unfold State.exhaust
  refine h.ite ?_
  extract_lets first ward u v x
  have hu : SameMemory z u := ⟨h.mem, h.ddrGen, h.poison, h.slots⟩
  have hv : SameMemory z v := (hu.setReg _ _).ite ((hu.setReg _ _).ite ((hu.setReg _ _).ite (hu.setReg _ _)))
  exact ((hv.detected _).raise 88).ite (hv.detected _)

theorem grant (h : SameMemory z s) (n : Nat) (slack : Bool) (a : Arbiter) : SameMemory z (s.grant n slack a).1 := by
  have hx := h.exhaust n a.level
  unfold State.grant
  extract_lets allot k used
  split_ifs
  · exact h
  · exact ⟨h.mem, h.ddrGen, h.poison, h.slots⟩
  · exact hx.setReg _ _
  · exact hx

theorem travel (h : SameMemory z s) (n : Nat) (slack : Bool) (as : List Arbiter) : SameMemory z (State.travel n slack as s).1 := by
  induction as generalizing s with
  | nil => exact h
  | cons a as ih =>
    have hg := h.grant n slack a
    simp only [State.travel]
    split
    · exact ih hg
    · exact hg

/-- The grants of an access leave memory and the result slots alone. -/
theorem of_grants {x : Waiting} {t : State} {as : List Arbiter} (h : s.grants x = (t, as)) : SameMemory s t := by
  have e : SameMemory s (s.grants x).1 := by
    unfold State.grants
    split
    · exact (refl s).travel _ _ _
    · exact refl s
  rwa [h] at e

/-! ### A corrected word (R27) -/

theorem countDdrCe (h : SameMemory z s) : SameMemory z s.countDdrCe := by
  unfold State.countDdrCe
  extract_lets hour fresh n told beyond u chip v
  have hv : SameMemory z v := ⟨h.mem, h.ddrGen, h.poison, h.slots⟩
  exact (hv.raise 459).ite hv

theorem correctWord (h : SameMemory z s) (w : Who) (k a : Nat) : SameMemory z (s.correctWord w k a) := by
  unfold State.correctWord
  extract_lets u v
  have hu : SameMemory z u := h.setReg _ _
  have hv : SameMemory z v := hu.countDdrCe.ite hu
  exact hv.detected _

end SameMemory

/-! ### A word that fails its access (R35) -/

variable (s : State)

theorem mem_insertPoison (x w : Nat) (l : List Nat) : x ∈ insertPoison w l ↔ x = w ∨ x ∈ l := by
  induction l with
  | nil => simp [insertPoison]
  | cons y ys ih =>
    unfold insertPoison
    split_ifs with h1 h2
    · simp
    · subst h2; simp
    · simp only [List.mem_cons, ih]; tauto

/-- A pending source stays pending when another rises. -/
theorem State.pendingSource_raise (n k : Nat) (h : s.pendingSource k = true) : (s.raise n).pendingSource k = true := by
  unfold State.raise
  split
  · exact h
  · rw [State.pendingSource] at *
    simp [bit_setBit, h]

/-- The access has its code and zeros; no byte of memory changes; the word joins those poisoned before, and source 4 rises. -/
theorem State.failAccess_frame (w : Who) (k a n : Nat) :
    (s.failAccess w k a n).bus = { code := Code.uncorrectable, data := List.replicate n 0#8 } ∧ (s.failAccess w k a n).mem = s.mem ∧
      (s.failAccess w k a n).poison = insertPoison (a / 8 * 8) s.poison ∧ Rises s (s.failAccess w k a n) 4 := by
  have hr : Rises s (((s.recordBadWord (some w) k a false).poisonWord (a / 8 * 8)).raise 4) 4 := by
    intro h
    have hv : ((s.recordBadWord (some w) k a false).poisonWord (a / 8 * 8)).variant = s.variant := State.detected_variant s _
    have ha : ((s.recordBadWord (some w) k a false).poisonWord (a / 8 * 8)).awake = s.awake := State.detected_awake s _
    refine State.raise_rises _ 4 ?_
    rwa [State.canRise, hv, ha]
  unfold State.failAccess State.refuseWord
  extract_lets u
  have hm : u.mem = s.mem := by simp [u, State.poisonWord, State.recordBadWord]
  have hp : u.poison = insertPoison (a / 8 * 8) s.poison := by simp [u, State.poisonWord, State.recordBadWord]
  change Rises s u 4 at hr
  clear_value u
  split
  · exact ⟨rfl, by simpa using hm, by simpa using hp, fun h => State.pendingSource_raise _ 458 4 (hr h)⟩
  · exact ⟨rfl, hm, hp, hr⟩

end Sys2Proof.Machine
end

section
/-! Memory accesses (R716) and result slots (R17 to R22): what an admitted access does, step by step. -/
namespace Sys2Proof.Machine

variable {o s : State} {w : Who} {a n : Nat}

/-! ### Words -/

/-- Sound words, with no injection waiting for them, are served, after the count of a corrected one. -/
theorem State.checkWords_sound {k ans : Nat} {ecc : Ecc} (go : State → State) (hb : s.badWordIn (a / 8 * 8) (max n 8) = none)
    (hw : ∀ ds, s.waitsForRead ds a n = none) (he : ecc ≠ .uncorrectable) :
    ∃ u, SameMemory s u ∧ s.checkWords w k a n ans ecc go = go u := by
  cases ecc with
  | clean => exact ⟨s, .refl s, by simp [State.checkWords, hb, hw, State.injectedCorrection]⟩
  | corrected => exact ⟨_, (SameMemory.refl s).correctWord w k a, by simp [State.checkWords, hb]⟩
  | uncorrectable => exact absurd rfl he

/-- A bad word among those an access covers, or an uncorrectable one, fails it; that word is poisoned afterwards. -/
theorem State.checkWords_fails {k ans : Nat} {ecc : Ecc} (go : State → State)
    (h : ecc = .uncorrectable ∨ s.badWordIn (a / 8 * 8) (max n 8) ≠ none) :
    ∃ p, s.checkWords w k a n ans ecc go = s.failAccess w k p ans ∧
      ∃ q ∈ insertPoison (p / 8 * 8) s.poison, a / 8 * 8 < q + 8 ∧ q < a / 8 * 8 + max n 8 := by
  cases hb : s.badWordIn (a / 8 * 8) (max n 8) with
  | none =>
    have he : ecc = .uncorrectable := h.resolve_right fun hn => hn hb
    refine ⟨a, by simp [State.checkWords, hb, he], a / 8 * 8, (mem_insertPoison ..).2 (.inl rfl), by omega, by omega⟩
  | some p =>
    have hp : a / 8 * 8 < p + 8 ∧ p < a / 8 * 8 + max n 8 := by simpa using List.find?_some hb
    exact ⟨p, by simp [State.checkWords, hb], p, (mem_insertPoison ..).2 (.inr (List.mem_of_find?_eq_some hb)), hp⟩

/-! ### Admission -/

/-- No memory stands in the register range. -/
theorem State.not_inRegs_of_memCode {write : Bool} (h : s.memCode w a n write = Code.ok) : inRegs a = false := by
  by_contra hr
  have hr : Addr.regs ≤ a ∧ a < Addr.regs + 0x10000000 := by simpa [inRegs] using hr
  have habs : s.memAbsent a = true := by
    unfold State.memAbsent
    rw [if_neg, if_neg, if_neg, if_neg, if_neg, if_neg, if_neg]
    all_goals
      simp only [Addr.regs, Addr.stock, Addr.core, Addr.lathe, Addr.align, Addr.mram, Addr.ddr] at hr ⊢
      omega
  have hne : Code.absent ≠ Code.ok := by decide
  simp [State.memCode, State.memAbsentIn, habs, hne] at h

/-- What an admitted access does with memory. -/
def State.serve (s : State) (a n : Nat) : Option (List Byte) → State
  | none => s.serveRead a n
  | some bs => s.serveWrite a (slice bs 0 n)

section
variable {data : Option (List Byte)} {ecc : Ecc} {slack : Bool} (hs : o.silent w a n data.isSome = false)
  (hc : o.memCode w a n data.isSome = Code.ok)
  (hg : o.grants { who := w, addr := a, len := n, data := data, ecc := ecc, slack := slack, left := [] } = (s, []))
include hs hc hg

/-- An access that the checks admit and that has its grants is served, or has its words checked first. -/
theorem State.exec_memoryAccess : exec (.memoryAccess w a n data ecc slack) o = .next (match memoryKind a with
    | none => s.serve a n data
    | some k => if data.isSome && decide (8 ≤ n) then s.serve a n data
      else s.checkWords w k a n (if data.isNone then n else 0) ecc fun s => s.serve a n data) := by
  show Host.Outcome.next (o.access w a n data ecc slack) = _
  simp only [State.access, State.not_inRegs_of_memCode hc, State.memAccess, hs, hc, Bool.false_eq_true, if_false, ne_eq,
    not_true_eq_false]
  rw [State.arbitrated_ok o _ _ s hg]
  cases data <;> rfl

/-- A write of whole words needs no check of them. -/
theorem State.exec_memoryAccess_whole (h : data.isSome = true) (hn : 8 ≤ n) :
    exec (.memoryAccess w a n data ecc slack) o = .next (s.serve a n data) := by
  rw [State.exec_memoryAccess hs hc hg]
  split <;> simp [h, hn]

/-- An access whose words are sound is served, after the count of a corrected one. -/
theorem State.exec_memoryAccess_sound (hb : s.badWordIn (a / 8 * 8) (max n 8) = none) (hw : ∀ ds, s.waitsForRead ds a n = none)
    (he : ecc ≠ .uncorrectable) :
    ∃ u, SameMemory s u ∧ exec (.memoryAccess w a n data ecc slack) o = .next (u.serve a n data) := by
  rw [State.exec_memoryAccess hs hc hg]
  split
  · exact ⟨s, .refl s, rfl⟩
  · next k _ =>
    by_cases hd : (data.isSome && decide (8 ≤ n)) = true
    · exact ⟨s, .refl s, by rw [if_pos hd]⟩
    · obtain ⟨u, hu, e⟩ := State.checkWords_sound (w := w) (k := k) (ans := if data.isNone then n else 0) (ecc := ecc)
        (fun s => s.serve a n data) hb hw he
      exact ⟨u, hu, by rw [if_neg hd, e]⟩

end

/-- The checks of a slot's word, passed: no bad word, no injection. -/
theorem State.slotAccess_sound {write : Bool} {data : Option (List Byte)} (go : State → State)
    (hd : data = if write then some (List.replicate 4 0#8) else none) (hs : o.silent w a 4 data.isSome = false)
    (hc : o.memCode w a 4 data.isSome = Code.ok) (hg : o.grants (wordAccess w a 4 data) = (s, []))
    (hb : s.badWordIn (a / 8 * 8) 8 = none) (hw : ∀ ds, s.waitsForRead ds a 4 = none) : o.slotAccess w a write go = go s := by
  have hd' : data.isSome = write := by subst hd; cases write <;> rfl
  rw [hd'] at hs hc
  simp only [State.slotAccess, hs, hc, Bool.false_eq_true, if_false, ne_eq, not_true_eq_false]
  rw [← hd, State.arbitrated_ok o _ _ s hg]
  split
  · rfl
  · simp [State.checkWords, hb, hw, State.injectedCorrection]

/-! ### The data -/

theorem State.spoilRecord_only : s.spoilRecord a n = { s with key := (s.spoilRecord a n).key } := by
  unfold State.spoilRecord
  simp only [List.foldl_cons, List.foldl_nil]
  split_ifs <;> rfl

/-- A write that covers no slot's TAKE writes its bytes and acknowledges. -/
theorem State.serveWrite_frame {bs : List Byte} (h : s.slotsAt 8 a bs.length = []) :
    Acked (s.serveWrite a bs) ∧ SameMemory (s.poke a bs) (s.serveWrite a bs) := by
  have hk := State.spoilRecord_only (s := s.poke a bs) (a := a) (n := bs.length)
  have hs : ((s.poke a bs).spoilRecord a bs.length).slotsAt 8 a bs.length = [] := by rw [hk]; exact h
  have e : s.serveWrite a bs = ((s.poke a bs).spoilRecord a bs.length).replyOk := by
    simp [State.serveWrite, State.writeSlots, hs]
  refine ⟨by rw [e]; rfl, ?_⟩
  rw [e, hk]
  exact ⟨rfl, rfl, rfl, rfl⟩

theorem State.releaseSlots_only : s.releaseSlots a n = { s with slots := (s.releaseSlots a n).slots } := by
  unfold State.releaseSlots
  generalize List.filter _ _ = xs
  induction xs generalizing s with
  | nil => rfl
  | cons x xs ih => rw [List.foldl_cons, ih]

/-- A read that covers no slot's STATUS answers the bytes and changes none. -/
theorem State.serveRead_frame (h : s.slotsAt 0 a n = []) :
    (s.serveRead a n).bus = { code := Code.ok, data := s.bytes a n } ∧ (s.serveRead a n).mem = s.mem := by
  have e : s.serveRead a n = (s.releaseSlots a n).reply Code.ok (s.bytes a n) := by simp [State.serveRead, State.readSlots, h]
  rw [e, State.releaseSlots_only]
  exact ⟨rfl, rfl⟩

/-! ### Result slots -/

/-- An engine's write where no STORE locks the range and no bad word is covered in part. -/
theorem State.engineWrite_ok {bs : List Byte} (hl : s.storeLocks w a bs.length = false) (hp : s.partialBad a bs.length = none) :
    s.engineWrite w a bs = s.poke a bs := by
  simp [State.engineWrite, hl, hp]

/-- The words a slot's memory shows of a result. -/
def Result.shownBytes (r : Result) (ready : Bool) (repeats : Nat) : List Byte :=
  leBytes 4 (statusWord r ready repeats) ++ leBytes 4 (r.code % 65536) ++ leBytes 8 0 ++ r.payload

theorem Result.length_shownBytes (r : Result) (ready : Bool) (repeats : Nat) :
    (r.shownBytes ready repeats).length = 16 + r.payload.length := by
  simp only [Result.shownBytes, List.length_append, length_leBytes]

variable {r : Result}

/-- A slot's state is set. -/
def State.setSlot (s : State) (a : Nat) (k : Slot) : State := { s with slots := s.slots.set a k }

/-- The slot as a read of STATUS leaves it: the newest result shown and held. -/
def Slot.snapshot (k : Slot) (r : Result) : Slot :=
  { k with shown := some r, waiting := none, held := true, reads := min 15 ((if k.waiting = none then k.reads else 0) + 1) }

/-- The slot as a write of TAKE leaves it. -/
def Slot.taken (k : Slot) : Slot := { k with held := false, fresh := false, reads := 0 }

/-- R18: the newest result is shown, the snapshot held, and the slot's words written. -/
theorem State.takeSnapshot_eq {k : Slot} (hk : s.slots.get a = k) (h : (if k.waiting = none then k.shown else k.waiting) = some r)
    (hp : s.partialBad a (16 + r.payload.length) = none) (hl : s.storeLocks (engineWho k.writer) a (16 + r.payload.length) = false) :
    s.takeSnapshot a =
      ((s.setSlot a (k.snapshot r)).poke a (r.shownBytes k.fresh (if k.waiting = none then k.reads else 0)),
        statusWord r k.fresh (if k.waiting = none then k.reads else 0)) := by
  have hshow : ∀ reads, (s.setSlot a (k.snapshot r)).showResult a r k.fresh reads =
      (s.setSlot a (k.snapshot r)).poke a (r.shownBytes k.fresh reads) := by
    intro reads
    have hw : ((s.setSlot a (k.snapshot r)).slots.get a).writer = k.writer := by rw [State.setSlot, Tab.get_set_eq]; rfl
    rw [← r.length_shownBytes k.fresh reads] at hp hl
    rw [State.showResult, hw]
    exact State.engineWrite_ok hl hp
  rw [← hshow]
  unfold State.takeSnapshot
  rw [hk]
  cases hq : k.waiting with
  | none =>
    have hr : k.shown = some r := by simpa [hq] using h
    simp [Slot.snapshot, hq, State.setSlot, hr]
  | some q =>
    obtain rfl : q = r := by simpa [hq] using h
    simp [Slot.snapshot, hq, State.setSlot]

/-- R22: the snapshot is released, the slot is taken, and the word shown says so. -/
theorem State.takeSlot_eq {k : Slot} (hk : s.slots.get a = k) (h : k.shown = some r) (hp : s.partialBad a 4 = none)
    (hl : s.storeLocks (engineWho k.writer) a 4 = false) :
    s.takeSlot a = (s.setSlot a k.taken).poke a (leBytes 4 (statusWord r false 0)) := by
  have e := State.engineWrite_ok (s := s.setSlot a k.taken) (bs := leBytes 4 (statusWord r false 0)) (w := engineWho k.writer) (a := a)
    (by rwa [length_leBytes]) (by rwa [length_leBytes])
  rw [← e, State.takeSlot, hk]
  split
  · next q hq =>
    obtain rfl : q = r := Option.some.inj (hq.symm.trans h)
    rfl
  · next hq => simp [h] at hq

/-- A word reads back as it was written. -/
theorem State.mem32_poke (v : Nat) : (s.poke a (leBytes 4 v)).mem32 a = v % 2 ^ 32 := by
  have h := s.bytes_poke a (leBytes 4 v)
  rw [length_leBytes] at h
  rw [State.mem32, h, leNat_leBytes]

/-- The words outside a write are kept. -/
theorem MemoryKept.of_poke {z : State} {bs : List Byte} {hi : Nat} (h : SameMemory s z) (hi' : a + bs.length = hi) :
    MemoryKept s (z.poke a bs) a hi := by
  intro x hx
  rw [State.byte_poke_outside z a x bs (by omega), h.byte]

/-- A slot set and its words written, with an answer: no more than its memory and the answer changes. -/
theorem State.setSlot_poke_reply (k : Slot) (bs : List Byte) (c : Nat) (d : List Byte) :
    let t := ((s.setSlot a k).poke a bs).reply c d
    t = { s with slots := t.slots, mem := t.mem, poison := t.poison, bus := t.bus } ∧ t.slots.get a = k ∧
      (∀ b, b ≠ a → t.slots.get b = s.slots.get b) ∧ MemoryKept s t a (a + bs.length) :=
  ⟨rfl, Tab.get_set_eq .., fun b hb => Tab.get_set_ne _ _ _ _ hb, fun x hx => State.byte_poke_outside (s.setSlot a k) a x bs (by omega)⟩

/-! ### An access served -/

section
variable {bs : List Byte} {ecc : Ecc} {slack : Bool}

/-- A write that is served leaves its bytes, no other byte changed, and no word it covers poisoned. -/
theorem State.serve_write {u : State} (hu : SameMemory s u) (hn : bs.length = n) (h : s.slotsAt 8 a n = []) :
    Acked (u.serve a n (some bs)) ∧ (u.serve a n (some bs)).bytes a n = bs ∧ MemoryKept s (u.serve a n (some bs)) a (a + n) ∧
      ∀ x ∈ (u.serve a n (some bs)).poison, ¬ (a ≤ x ∧ x + 8 ≤ a + n) := by
  have e : u.serve a n (some bs) = u.serveWrite a bs := by rw [State.serve, slice_all bs n hn]
  subst hn
  obtain ⟨ha, hm⟩ := State.serveWrite_frame (s := u) (a := a) (bs := bs) (by rw [hu.slotsAt, h])
  rw [e]
  refine ⟨ha, by rw [hm.bytes, State.bytes_poke], ?_, ?_⟩
  · intro x hx
    rw [hm.byte]
    exact MemoryKept.of_poke hu rfl x hx
  · intro x hx
    rw [hm.poison] at hx
    have hout := (List.mem_filter.1 hx).2
    simpa [not_and, or_iff_not_imp_left] using hout

/-- A read that is served answers the bytes and changes none. -/
theorem State.serve_read {u : State} (hu : SameMemory s u) (h : s.slotsAt 0 a n = []) :
    (u.serve a n none).bus = { code := Code.ok, data := s.bytes a n } ∧ (u.serve a n none).mem = s.mem := by
  obtain ⟨hb, hm⟩ := State.serveRead_frame (s := u) (a := a) (n := n) (by rw [hu.slotsAt, h])
  exact ⟨by rw [State.serve, hb, hu.bytes], hm.trans hu.mem⟩

end

/-- Settles O19: an access goes through its checks to memory, and a slot's command through them to its slot. -/
theorem memoryAndResultSlotsHoldTheirData : Obligations.MemoryAndResultSlotsHoldTheirData := by
  unfold Obligations.MemoryAndResultSlotsHoldTheirData
  refine ⟨fun o s w a n slack => ⟨?_, ?_, ?_⟩, fun o s w a => ⟨?_, ?_, ?_⟩⟩
  · rintro bs ecc hn ⟨⟨hs, hc⟩, hg⟩ hsound hslots
    obtain ⟨u, hu, e⟩ : ∃ u, SameMemory s u ∧ exec (.memoryAccess w a n (some bs) ecc slack) o = .next (u.serve a n (some bs)) := by
      obtain h8 | ⟨⟨hb, hw⟩, he⟩ := hsound
      · exact ⟨s, .refl s, State.exec_memoryAccess_whole hs hc hg rfl h8⟩
      · exact State.exec_memoryAccess_sound hs hc hg hb hw he
    exact ⟨_, e, State.serve_write hu hn hslots⟩
  · rintro ecc ⟨⟨hs, hc⟩, hg⟩ ⟨hb, hw⟩ he hslots
    obtain ⟨u, hu, e⟩ := State.exec_memoryAccess_sound hs hc hg hb hw he
    exact ⟨_, e, State.serve_read hu hslots⟩
  · rintro data ecc ⟨⟨hs, hc⟩, hg⟩ hk hd hbad
    obtain ⟨k, hk⟩ := Option.ne_none_iff_exists'.1 hk
    have hpart : (data.isSome && decide (8 ≤ n)) = false := by
      obtain rfl | hn := hd
      · rfl
      · simp; omega
    have hn : (if data.isNone then n else 0) = if data = none then n else 0 := by cases data <;> rfl
    obtain ⟨p, e, q, hq, hin⟩ := State.checkWords_fails (w := w) (k := k) (ans := if data.isNone then n else 0)
      (fun s => s.serve a n data) hbad
    obtain ⟨hbus, hmem, hpoison, hrise⟩ := State.failAccess_frame s w k p (if data.isNone then n else 0)
    refine ⟨_, State.exec_memoryAccess hs hc hg, ?_⟩
    simp only [hk, hpart, Bool.false_eq_true, if_false]
    rw [e, ← hn]
    exact ⟨hbus, hmem, ⟨q, by rwa [hpoison], hin⟩, hrise⟩
  · intro r hr ⟨⟨hs, hc⟩, hg, hb, hw⟩ ⟨hp, hl⟩ reads
    refine ⟨_, congrArg Host.Outcome.next (State.slotAccess_sound _ rfl hs hc hg hb hw), ?_⟩
    simp only [State.takeSnapshot_eq rfl hr hp hl]
    obtain ⟨ht, hk, hks, hm⟩ := State.setSlot_poke_reply (s := s) (a := a) ((s.slots.get a).snapshot r)
      (r.shownBytes (s.slots.get a).fresh reads) Code.ok (leBytes 4 (statusWord r (s.slots.get a).fresh reads))
    rw [Result.length_shownBytes, ← Nat.add_assoc] at hm
    exact ⟨rfl, ht, hk, hks, hm⟩
  · intro last ⟨⟨hs, hc⟩, hg, hb, hw⟩
    have hlast : a + 0x10 + (max 4 (o.slots.get a).payloadBytes - 4) = last := by rw [← (SameMemory.of_grants hg).slots]
    rw [← hlast] at hs hc hg hb hw ⊢
    refine ⟨_, congrArg Host.Outcome.next (State.slotAccess_sound _ rfl hs hc hg hb hw), rfl, rfl, Tab.get_set_eq .., ?_⟩
    exact fun b hne => Tab.get_set_ne _ _ _ _ hne
  · intro v r hr ⟨⟨hs, hc⟩, hg, hb, hw⟩ ⟨hp, hl⟩
    refine ⟨_, congrArg Host.Outcome.next (State.slotAccess_sound _ rfl hs hc hg hb hw), ?_⟩
    simp only [State.takeSlot_eq rfl hr hp hl]
    obtain ⟨ht, hk, hks, hm⟩ := State.setSlot_poke_reply (s := s) (a := a) (s.slots.get a).taken (leBytes 4 (statusWord r false 0)) Code.ok []
    rw [length_leBytes] at hm
    exact ⟨rfl, ht, hk, hks, State.mem32_poke (s := s.setSlot a (s.slots.get a).taken) _, hm⟩

end Sys2Proof.Machine
end

section
/-! Registers that an operation leaves alone: the relation, and the operations of the scheduler and of the balls (09, 14). -/
namespace Sys2Proof.Machine

/-- The registers of `P` are the same in two states. -/
def RegsKept (P : Nat → Prop) (z t : State) : Prop := ∀ q, P q → t.reg q = z.reg q

namespace RegsKept
variable {P Q : Nat → Prop} {z s t : State}

theorem refl (s : State) : RegsKept P s s := fun _ _ => rfl
theorem trans (h : RegsKept P z s) (k : RegsKept P s t) : RegsKept P z t := fun q hq => (k q hq).trans (h q hq)
theorem weaken (h : RegsKept P z s) (hQ : ∀ q, Q q → P q) : RegsKept Q z s := fun q hq => h q (hQ q hq)

/-- Another part of the state changes. -/
theorem of_regs (h : RegsKept P z s) (e : t.regs = s.regs) : RegsKept P z t := by
  intro q hq
  rw [← h q hq, State.reg, e, State.reg]

theorem ite {c : Prop} [Decidable c] {a b : State} (h : RegsKept P z a) (k : RegsKept P z b) : RegsKept P z (if c then a else b) := by
  split <;> assumption

theorem foldl {α : Type} {l : List α} {f : State → α → State} (h : RegsKept P z s)
    (hf : ∀ u x, x ∈ l → RegsKept P z u → RegsKept P z (f u x)) : RegsKept P z (l.foldl f s) :=
  List.foldlRecOn l f h fun u hu x hx => hf u x hx hu

theorem setReg {r : Nat} (h : RegsKept P z s) (v : Word) (hr : ¬ P r) : RegsKept P z (s.setReg r v) := by
  intro q hq
  rw [State.reg_setReg_ne s r q v (by rintro rfl; exact hr hq), h q hq]

theorem setNum {r : Nat} (h : RegsKept P z s) (v : Nat) (hr : ¬ P r) : RegsKept P z (s.setNum r v) := h.setReg _ hr
theorem setFld {r : Nat} (h : RegsKept P z s) (hi lo v : Nat) (hr : ¬ P r) : RegsKept P z (s.setFld r hi lo v) := h.setReg _ hr
theorem setFlag {r : Nat} (h : RegsKept P z s) (b : Nat) (v : Bool) (hr : ¬ P r) : RegsKept P z (s.setFlag r b v) := h.setFld _ _ _ hr
theorem bump {r : Nat} (h : RegsKept P z s) (hi lo n : Nat) (hr : ¬ P r) : RegsKept P z (s.bump r hi lo n) := h.setFld _ _ _ hr
theorem roll {r : Nat} (h : RegsKept P z s) (hi lo n : Nat) (hr : ¬ P r) : RegsKept P z (s.roll r hi lo n) := h.setFld _ _ _ hr
theorem raise (h : RegsKept P z s) (n : Nat) : RegsKept P z (s.raise n) := fun q hq => by rw [State.raise_reg, h q hq]
theorem poke (h : RegsKept P z s) (a : Nat) (bs : List Byte) : RegsKept P z (s.poke a bs) := h.of_regs rfl

end RegsKept

/-! ### Tasks (09): their registers alone change -/

/-- A register outside the task registers. -/
def OutsideTasks (q : Nat) : Prop := q < 0x181000 ∨ 0x182000 ≤ q

theorem State.ntask_le (s : State) : s.ntask ≤ 128 := Nat.min_le_left ..

/-- A fold that keeps its value or takes the element picks its result from the list. -/
theorem foldl_pick_mem {α : Type} {f : Option α → α → Option α} (hf : ∀ b x, f b x = b ∨ f b x = some x) (l : List α) (x : α)
    (h : l.foldl f none = some x) : x ∈ l := by
  have hl := List.foldlRecOn (motive := fun b => ∀ y, b = some y → y ∈ l) l f (b := none) (by simp) fun b hb a ha y hy => by
    obtain e | e := hf b a
    · exact hb y (e.symm.trans hy)
    · obtain rfl : a = y := Option.some.inj (e.symm.trans hy)
      exact ha
  exact hl x h

/-- A task chosen is one of those there are. -/
theorem State.chosenOn_lt {s : State} {c t : Nat} (h : s.chosenOn c = some t) : t < 128 := by
  have ht := foldl_pick_mem (fun b x => ?_) _ t h
  · exact Nat.lt_of_lt_of_le (List.mem_range.1 (List.mem_filter.1 ht).1) s.ntask_le
  · cases b with
    | none => exact .inr rfl
    | some b =>
      dsimp only
      split_ifs
      · exact .inr rfl
      · exact .inl rfl

namespace RegsKept
variable {z s : State} {t : Nat}

theorem freezeInputs (h : RegsKept OutsideTasks z s) (t : Nat) : RegsKept OutsideTasks z (s.freezeInputs t) :=
  h.foldl fun _ _ _ hu => hu.poke _ _

theorem pauseCore (h : RegsKept OutsideTasks z s) (c : Nat) : RegsKept OutsideTasks z (s.pauseCore c) := by
  unfold State.pauseCore
  split
  · exact h
  · exact h.of_regs rfl

theorem showTask (h : RegsKept OutsideTasks z s) (ht : t < 128) : RegsKept OutsideTasks z (s.showTask t) := by
  have hr : ¬ OutsideTasks (Reg.tskTstate t) := by simp [OutsideTasks, Reg.tskTstate]; omega
  unfold State.showTask
  exact ((h.setFld _ _ _ hr).setFlag _ _ hr).setFld _ _ _ hr

theorem startTask (h : RegsKept OutsideTasks z s) (ht : t < 128) (c : Nat) : RegsKept OutsideTasks z (s.startTask t c) := by
  have hl : ¬ OutsideTasks (Reg.tskLastStart t) := by simp [OutsideTasks, Reg.tskLastStart]; omega
  have hm : ¬ OutsideTasks (Reg.tskMaxStart t) := by simp [OutsideTasks, Reg.tskMaxStart]; omega
  unfold State.startTask
  extract_lets r d j u v base ctx
  have hu : RegsKept OutsideTasks z u := h.setNum _ hl
  have hv : RegsKept OutsideTasks z v := (hu.setNum _ hm).ite hu
  exact hv.of_regs rfl

theorem dispatchCore (h : RegsKept OutsideTasks z s) (c : Nat) : RegsKept OutsideTasks z (s.dispatchCore c) := by
  unfold State.dispatchCore
  extract_lets want u
  have hu : RegsKept OutsideTasks z u := h.pauseCore c
  have hw : ∀ t, want = t + 1 → t < 128 := by
    intro t hw
    refine State.chosenOn_lt (s := s) (c := c) ?_
    simp only [want] at hw
    split_ifs at hw
    split at hw <;> simp_all
  clear_value want u
  refine h.ite ?_
  cases want with
  | zero => exact hu
  | succ t =>
    have ht : t < 128 := hw t rfl
    have hv : RegsKept OutsideTasks z (if (u.task t).started then u else u.startTask t c) := hu.ite (hu.startTask ht c)
    exact RegsKept.showTask (hv.of_regs rfl) ht

theorem releaseTask (h : RegsKept OutsideTasks z s) (ht : t < 128) (se su : Bool) (order due : Nat) :
    RegsKept OutsideTasks z (s.releaseTask t se su order due) := by
  have hr : ¬ OutsideTasks (Reg.tskReleases t) := by simp [OutsideTasks, Reg.tskReleases]; omega
  unfold State.releaseTask
  extract_lets r se su u r
  have hu : RegsKept OutsideTasks z u := h.freezeInputs t
  have hv : RegsKept OutsideTasks z (u.setTask t r) := hu.of_regs rfl
  exact ((hv.roll _ _ _ hr).showTask ht).dispatchCore _

theorem eventFor (h : RegsKept OutsideTasks z s) (ht : t < 128) : RegsKept OutsideTasks z (s.eventFor t) := by
  have hr : ¬ OutsideTasks (Reg.tskTstate t) := by simp [OutsideTasks, Reg.tskTstate]; omega
  have hs : ¬ OutsideTasks (Reg.tskSkips t) := by simp [OutsideTasks, Reg.tskSkips]; omega
  have ho : RegsKept OutsideTasks z { s with tsk := { s.tsk with orders := s.tsk.orders + 1 } } := h.of_regs rfl
  have hset := h.setFlag 29 true hr
  exact h.ite (hset.ite ((ho.releaseTask ht _ _ _ _).ite (hset.ite ((h.bump _ _ _ hs).raise _))))

theorem offerEvent (h : RegsKept OutsideTasks z s) (source number : Nat) : RegsKept OutsideTasks z (s.offerEvent source number) := by
  refine h.ite (h.foldl fun u t ht hu => hu.eventFor ?_)
  exact Nat.lt_of_lt_of_le (List.mem_range.1 (List.mem_filter.1 ht).1) s.ntask_le

/-! ### Balls (14) -/

variable {P : Nat → Prop} {g : Nat} (hP : ∀ q, P q → OutsideTasks q)
include hP

theorem gpioEdgeSeen (h : RegsKept P z s) (hg : ¬ P (Reg.pinPend (g / 32))) (rising : Bool) : RegsKept P z (s.gpioEdgeSeen g rising) := by
  unfold State.gpioEdgeSeen
  extract_lets r u
  have hu : RegsKept P z u := ((h.setFlag _ _ hg).raise _).ite h
  exact hu.trans (((refl u).offerEvent _ _).weaken hP)

/-- A ball that follows its level changes IN and PEND of its word, and the task registers. -/
theorem followBall (h : RegsKept P z s) (hi : ¬ P (Reg.pinIn (g / 32))) (hg : ¬ P (Reg.pinPend (g / 32))) (edges : Bool) :
    RegsKept P z (s.followBall g edges) := by
  unfold State.followBall
  extract_lets v u
  have hu : RegsKept P z u := h.setFlag _ _ hi
  exact h.ite ((hu.gpioEdgeSeen hP hg v).ite hu)

end RegsKept

end Sys2Proof.Machine
end

section
/-! What leaves the words of CLE.LEN alone: the motion (13), the Latch's outputs (12) and the packets it sends (15). -/
namespace Sys2Proof.Machine

/-- A word of CLE.LEN. -/
def IsCleLen (q : Nat) : Prop := 0x190040 ≤ q ∧ q < 0x190060

theorem isCleLen_outsideTasks (q : Nat) (h : IsCleLen q) : OutsideTasks q := by
  obtain ⟨hlo, hhi⟩ := h
  exact .inr (by omega)

theorem not_isCleLen_of_ge {r : Nat} (h : 0x190060 ≤ r) : ¬ IsCleLen r := fun hr => absurd hr.2 (by omega)
theorem not_isCleLen_of_lt {r : Nat} (h : r < 0x190040) : ¬ IsCleLen r := fun hr => absurd hr.1 (by omega)

namespace RegsKept
variable {z s : State}

theorem detected (h : RegsKept IsCleLen z s) (d : Detection) : RegsKept IsCleLen z (s.detected d) := by
  intro q hq
  obtain ⟨hlo, hhi⟩ := hq
  rw [State.detected_reg s d q (by simp only [inFlt]; omega), h q ⟨hlo, hhi⟩]

/-! ### Axes (13) -/

theorem setAxis (h : RegsKept IsCleLen z s) (n : Nat) (a : Axis) : RegsKept IsCleLen z (s.setAxis n a) := h.of_regs rfl

theorem setAstate (h : RegsKept IsCleLen z s) (n b : Nat) (v : Bool) : RegsKept IsCleLen z (s.setFlag (Reg.prfAstate n) b v) :=
  h.setFlag b v (not_isCleLen_of_ge (by simp only [Reg.prfAstate]; omega))

theorem showAxis (h : RegsKept IsCleLen z s) (n : Nat) : RegsKept IsCleLen z (s.showAxis n) := by
  have hr : ¬ IsCleLen Reg.prfStatus := not_isCleLen_of_ge (by decide)
  exact ((h.setFlag _ _ hr).setFlag _ _ hr).setAstate n _ _

theorem finishMove (h : RegsKept IsCleLen z s) (n : Nat) : RegsKept IsCleLen z (s.finishMove n) := by
  have hu := (h.setAxis n { s.axis n with move := none, since := s.tick }).showAxis n
  exact (hu.raise 240).ite hu

theorem launch (h : RegsKept IsCleLen z s) (n : Nat) (m : Move) : RegsKept IsCleLen z (s.launch n m) :=
  (((h.setAstate n _ _).setAstate n _ _).setAxis n _).showAxis n

theorem startGroup (h : RegsKept IsCleLen z s) (g : Nat) (targets : List (Nat × Int)) : RegsKept IsCleLen z (s.startGroup g targets) := by
  unfold State.startGroup
  refine h.foldl fun u t _ hu => ?_
  have hv := hu.setAxis t.1 { u.axis t.1 with target := t.2 }
  exact (hv.finishMove _).ite (hv.launch _ _)

theorem startSingle (h : RegsKept IsCleLen z s) (n : Nat) (target : Int) : RegsKept IsCleLen z (s.startSingle n target) := by
  have hv := h.setAxis n { s.axis n with target := target }
  exact (hv.finishMove n).ite (hv.launch n _)

theorem startHeld (h : RegsKept IsCleLen z s) (n : Nat) (next : Option Int) : RegsKept IsCleLen z (s.startHeld n next) := by
  unfold State.startHeld
  extract_lets g
  refine ite ?_ ?_
  · refine h.ite (h.ite (RegsKept.startGroup ?_ _ _))
    exact (h.foldl fun u k _ hu => hu.setAxis k _).foldl fun u k _ hu => hu.showAxis k
  · split
    · exact h
    · exact (h.setAxis n _).startSingle n _

theorem haltAxis (h : RegsKept IsCleLen z s) (n : Nat) (next : Option Int) : RegsKept IsCleLen z (s.haltAxis n next) := by
  unfold State.haltAxis
  split
  · exact h
  · have hu := fun m => h.setAxis n { s.axis n with move := some m }
    exact (((hu _).finishMove n).startHeld n next).ite (hu _)

theorem dropHeld (h : RegsKept IsCleLen z s) (n : Nat) : RegsKept IsCleLen z (s.dropHeld n) := ((h.setAxis n _).showAxis n).ite h

theorem haltAxes (h : RegsKept IsCleLen z s) (mask : Nat) : RegsKept IsCleLen z (s.haltAxes mask) :=
  (h.foldl fun _ n _ hu => hu.dropHeld n).foldl fun _ n _ hu => hu.haltAxis n none

theorem retarget (h : RegsKept IsCleLen z s) (n : Nat) (m : Move) (target : Int) : RegsKept IsCleLen z (s.retarget n m target) := by
  unfold State.retarget
  exact ((h.setAxis n _).showAxis n).ite ((h.setAxis n _).ite (h.haltAxis n _))

theorem aimSingle (h : RegsKept IsCleLen z s) (n : Nat) (target : Int) : RegsKept IsCleLen z (s.aimSingle n target) := by
  unfold State.aimSingle
  split
  · exact h.retarget n _ target
  · exact h.startSingle n target

theorem latchTarget (h : RegsKept IsCleLen z s) (n : Nat) (value : Int) : RegsKept IsCleLen z (s.latchTarget n value) := by
  unfold State.latchTarget
  refine h.ite ((h.haltAxes _).ite ?_)
  extract_lets t u v g
  have hu : RegsKept IsCleLen z u := h.setAstate n _ _
  have hv : RegsKept IsCleLen z v := (hu.raise 244).ite hu
  exact (((hv.setAxis n _).showAxis n).ite (hv.startGroup _ _)).ite (hv.aimSingle n t)

/-! ### Packets (15) and CAN frames (16) -/

theorem setMilVc (h : RegsKept IsCleLen z s) (l v : Nat) (c : MilVc) : RegsKept IsCleLen z (s.setMilVc l v c) := h.of_regs rfl
theorem setMilLink (h : RegsKept IsCleLen z s) (l : Nat) (k : MilLink) : RegsKept IsCleLen z (s.setMilLink l k) := h.of_regs rfl
theorem send (h : RegsKept IsCleLen z s) (k : SentKind) (d : Nat) (bs : List Byte) : RegsKept IsCleLen z (s.send k d bs) := h.of_regs rfl
theorem milEnqueue (h : RegsKept IsCleLen z s) (l : Nat) (p : MilPacket) : RegsKept IsCleLen z (s.milEnqueue l p) := h.setMilVc _ _ _

theorem returnCredits (h : RegsKept IsCleLen z s) (p : MilPacket) : RegsKept IsCleLen z (s.returnCredits p) := h.ite (h.send _ _ _)

theorem showVc (h : RegsKept IsCleLen z s) (l v : Nat) : RegsKept IsCleLen z (s.showVc l v) := by
  have hr : ¬ IsCleLen (Reg.milVstate (l / 2) v) := not_isCleLen_of_ge (by simp only [Reg.milVstate]; omega)
  unfold State.showVc
  exact h.ite (h.ite (((h.setFlag _ _ hr).setFld _ _ _ hr).setFld _ _ _ hr))

theorem milTransmit (h : RegsKept IsCleLen z s) (l : Nat) (p : MilPacket) : RegsKept IsCleLen z (s.milTransmit l p) := by
  unfold State.milTransmit
  exact ((((h.setMilVc _ _ _).showVc _ _).returnCredits p).setMilLink l _).send _ _ _

theorem milManage (h : RegsKept IsCleLen z s) (l : Nat) (bs : List Byte) : RegsKept IsCleLen z (s.milManage l bs) :=
  (h.milTransmit l _).ite (h.milEnqueue l _)

theorem startKx (h : RegsKept IsCleLen z s) (l v : Nat) : RegsKept IsCleLen z (s.startKx l v) := by
  have hu : RegsKept IsCleLen z { s with key := { s.key with draws := s.key.draws + 1 } } := h.of_regs rfl
  exact (hu.setMilVc l v _).milManage l _

theorem milRekey (h : RegsKept IsCleLen z s) (l v : Nat) : RegsKept IsCleLen z (s.milRekey l v) := (h.startKx l v).ite h

theorem milPump (h : RegsKept IsCleLen z s) (l v n : Nat) : RegsKept IsCleLen z (milPump l v n s) := by
  induction n generalizing s with
  | zero => exact h
  | succ n ih =>
    rw [Machine.milPump]
    split
    · exact h
    · exact (ih (((h.setMilVc _ _ _).milTransmit _ _).milRekey _ _)).ite h

theorem milSend (h : RegsKept IsCleLen z s) (l : Nat) (p : MilPacket) : RegsKept IsCleLen z (s.milSend l p) :=
  (h.milEnqueue l p).milPump _ _ _

theorem milDrop (h : RegsKept IsCleLen z s) (port lo : Nat) : RegsKept IsCleLen z (s.milDrop port lo) :=
  h.bump _ _ _ (not_isCleLen_of_ge (by simp only [Reg.milDrops]; omega))

theorem route (h : RegsKept IsCleLen z s) (dst : Nat) : RegsKept IsCleLen z (s.route dst).1 := by
  have hu := fun m : MilState => h.of_regs (t := { s with mil := m }) rfl
  unfold State.route
  split
  · extract_lets a b
    split_ifs
    · exact hu _
    · exact h
    · exact (hu _).raise _
    all_goals exact h
  · extract_lets d
    split_ifs <;> exact h

theorem milOriginate (h : RegsKept IsCleLen z s) (port vc dst : Nat) (bcast : Bool) (bs : List Byte) :
    RegsKept IsCleLen z (s.milOriginate port vc dst bcast bs) := by
  unfold State.milOriginate
  extract_lets p
  refine h.ite (ite ?_ (ite (h.of_regs rfl) ?_))
  · exact (h.foldl fun u l _ hu => (hu.milSend l p).ite (hu.milDrop _ _)).of_regs rfl
  · have hr := h.route dst
    split
    · next e => exact RegsKept.milSend (by rwa [e] at hr) _ _
    · next e => exact RegsKept.milDrop (by rwa [e] at hr) _ _
    · next e => exact RegsKept.milDrop (by rwa [e] at hr) _ _

theorem sendLink (h : RegsKept IsCleLen z s) (l : Nat × Nat) (frame : List Byte) : RegsKept IsCleLen z (s.sendLink l frame) := by
  have hr (k : Nat) : ¬ IsCleLen (Reg.canHwdrop k) := not_isCleLen_of_ge (by simp only [Reg.canHwdrop]; omega)
  unfold State.sendLink
  refine h.ite ((h.milOriginate _ _ _ _ _).ite ?_)
  extract_lets k
  exact h.ite ((h.bump 31 0 1 (hr k)).ite (h.of_regs rfl))

theorem sendForward (h : RegsKept IsCleLen z s) (fs : List Forward) : RegsKept IsCleLen z (s.sendForward fs) := by
  cases fs with
  | nil => exact h
  | cons f fs => exact (h.sendLink _ _).sendLink _ _

theorem forwardAll (h : RegsKept IsCleLen z s) (n : Nat) (fs : List Forward) : RegsKept IsCleLen z (forwardAll n fs s) := by
  induction n generalizing s fs with
  | zero => exact h
  | succ n ih =>
    cases fs with
    | nil => exact h
    | cons f fs => exact ih (h.sendForward _) _

theorem forwardSet (h : RegsKept IsCleLen z s) (fs : List Forward) : RegsKept IsCleLen z (s.forwardSet fs) := h.forwardAll _ _

/-! ### The Hinge's record and the Latch (12) -/

theorem refuseWord (h : RegsKept IsCleLen z s) (w : Option Who) (k a : Nat) : RegsKept IsCleLen z (s.refuseWord w k a) := by
  have hp : RegsKept IsCleLen z ((s.recordBadWord w k a false).poisonWord (a / 8 * 8)) := RegsKept.of_regs (h.detected _) rfl
  unfold State.refuseWord
  extract_lets u
  have hu : RegsKept IsCleLen z u := hp.raise 4
  refine RegsKept.ite (RegsKept.raise ?_ 458) hu
  exact ((hu.bump _ _ _ (not_isCleLen_of_ge (by decide))).setNum _ (not_isCleLen_of_ge (by decide))).setNum _ (not_isCleLen_of_ge (by decide))

theorem engineWrite (h : RegsKept IsCleLen z s) (w : Who) (a : Nat) (bs : List Byte) : RegsKept IsCleLen z (s.engineWrite w a bs) := by
  unfold State.engineWrite State.engineError
  refine ite (((h.detected _).raise 7).ite (h.detected _)) ?_
  split
  · exact h.refuseWord _ _ _
  · exact h.poke a bs

theorem writeHinge (h : RegsKept IsCleLen z s) (r : HingeRecord) : RegsKept IsCleLen z (s.writeHinge r) :=
  RegsKept.of_regs (h.engineWrite _ _ _) rfl

theorem latchFloor (h : RegsKept IsCleLen z s) (setid epoch : Nat) : RegsKept IsCleLen z (s.latchFloor setid epoch) :=
  ((h.writeHinge _).raise 52).ite ((h.writeHinge _).ite h)

theorem setLatchChannel (h : RegsKept IsCleLen z s) (c : Nat) (k : LatchChannel) : RegsKept IsCleLen z (s.setLatchChannel c k) := h.of_regs rfl

theorem driveGpio (h : RegsKept IsCleLen z s) (g : Nat) (v : Bool) : RegsKept IsCleLen z (s.driveGpio g v) :=
  (h.setFlag _ v (not_isCleLen_of_ge (by simp only [Reg.pinOut]; omega))).followBall isCleLen_outsideTasks
    (not_isCleLen_of_ge (by simp only [Reg.pinIn]; omega)) (not_isCleLen_of_ge (by simp only [Reg.pinPend]; omega)) true

variable {c : Nat}


theorem latchOutput (h : RegsKept IsCleLen z s) (hc : c < 64) (v : Nat) : RegsKept IsCleLen z (s.latchOutput c v) := by
  have hu := h.setNum (r := Reg.latValue c) v (not_isCleLen_of_lt (by simp only [Reg.latValue]; omega))
  exact (hu.driveGpio _ _).ite ((hu.latchTarget _ _).ite hu)

theorem latchDropped (h : RegsKept IsCleLen z s) (hc : c < 64) : RegsKept IsCleLen z (s.latchDropped c) := by
  have hu := (h.bump 31 0 1 (not_isCleLen_of_lt (r := Reg.latDrop c) (by simp only [Reg.latDrop]; omega))).detected
  exact (hu _).ite (((hu _).setLatchChannel c _).raise 49)

theorem setLatchHeld (h : RegsKept IsCleLen z s) (hc : c < 64) (st : Nat) : RegsKept IsCleLen z (s.setLatchHeld c st) := by
  have hs : ¬ IsCleLen (State.latchSafeReg c) := not_isCleLen_of_lt (by unfold State.latchSafeReg; split <;> decide)
  exact ((h.setFld _ _ _ (not_isCleLen_of_lt (by simp only [Reg.latCstate]; omega))).setFlag _ _ hs).setFld _ _ _ (not_isCleLen_of_lt (by decide))

theorem latchAccept (h : RegsKept IsCleLen z s) (m : LatchCommand) (hc : m.channel < 64) : RegsKept IsCleLen z (s.latchAccept m).1 := by
  have hh : ¬ IsCleLen (Reg.latHighest m.channel) := not_isCleLen_of_lt (by simp only [Reg.latHighest]; omega)
  have hs : ¬ IsCleLen (Reg.latCstate m.channel) := not_isCleLen_of_lt (by simp only [Reg.latCstate]; omega)
  have ha : ¬ IsCleLen (State.latchArm m.channel) := not_isCleLen_of_lt (by unfold State.latchArm; split <;> decide)
  unfold State.latchAccept
  extract_lets c k resumes seq fwd ours u v x y
  have hu : RegsKept IsCleLen z u := h.setLatchChannel _ _
  have hv : RegsKept IsCleLen z v := ((hu.setNum _ hh).setFld _ _ _ hs).setFld _ _ _ hs
  have hx : RegsKept IsCleLen z x := ((hv.setFlag _ _ ha).raise 50).ite hv
  exact ((hx.setLatchHeld hc _).latchOutput hc _).latchFloor _ _

theorem latchOffer (h : RegsKept IsCleLen z s) (m : LatchCommand) (hc : m.channel < 64) : RegsKept IsCleLen z (s.latchOffer m).1 := by
  unfold State.latchOffer
  extract_lets c k high floorOk live u
  have hu : RegsKept IsCleLen z u := (h.setLatchChannel _ _).ite h
  split_ifs
  · exact hu.latchDropped hc
  · exact hu.bump _ _ _ (not_isCleLen_of_lt (by decide))
  · exact hu.latchDropped hc
  · exact hu.latchAccept m hc

theorem latchPresent (h : RegsKept IsCleLen z s) (hc : c < 64) (value qual : Nat) : RegsKept IsCleLen z (s.latchPresent c value qual).1 := by
  unfold State.latchPresent
  extract_lets claim k u
  split_ifs
  · exact h
  · exact (h.bump _ _ _ (not_isCleLen_of_lt (by decide))).raise 51
  · exact (h.setLatchChannel c _).latchOffer _ hc

theorem latchPresentAll (h : RegsKept IsCleLen z s) {cmds : List (Nat × Nat × Nat)} (hc : ∀ m ∈ cmds, m.1 < 64) :
    RegsKept IsCleLen z (s.latchPresentAll cmds) := by
  have hp := List.foldlRecOn (motive := fun p : State × List Forward => RegsKept IsCleLen z p.1) cmds
    (fun (p : State × List Forward) m =>
      ((p.1.latchPresent m.1 m.2.1 m.2.2).1, match (p.1.latchPresent m.1 m.2.1 m.2.2).2 with | some x => p.2 ++ [x] | none => p.2))
    (b := (s, [])) h fun p hp m hm => hp.latchPresent (hc m hm) _ _
  exact hp.forwardSet _

end RegsKept

end Sys2Proof.Machine
end

section
/-! A write of CLE.LEN (11) and of the other plain registers (R13 to R16): what the register holds afterwards. -/
namespace Sys2Proof.Machine

namespace RegsKept
variable {z s : State}

/-! ### Loops (11) -/

theorem setLstate (h : RegsKept IsCleLen z s) (l b : Nat) (v : Bool) : RegsKept IsCleLen z (s.setFlag (Reg.cleLstate l) b v) :=
  h.setFlag b v (not_isCleLen_of_ge (by simp only [Reg.cleLstate]; omega))

theorem setSweep (h : RegsKept IsCleLen z s) (w : Option CleSweep) : RegsKept IsCleLen z (s.setSweep w) :=
  RegsKept.setFlag (h.of_regs rfl) _ _ (not_isCleLen_of_lt (by decide))

theorem sweepDone (h : RegsKept IsCleLen z s) : RegsKept IsCleLen z s.sweepDone := by
  unfold State.sweepDone
  split
  · exact (h.setSweep none).ite h
  · exact h

theorem writeSignal (h : RegsKept IsCleLen z s) (i v f w : Nat) : RegsKept IsCleLen z (s.writeSignal i v f w) := h.ite (h.poke _ _)

theorem groupKept (h : RegsKept IsCleLen z s) (g : Nat) : RegsKept IsCleLen z (s.groupKept g) :=
  (RegsKept.setFlag (h.ite (h.writeSignal _ _ _ _)) 30 true (not_isCleLen_of_ge (r := Reg.cleGrp g) (by simp only [Reg.cleGrp]; omega))).raise 225

theorem cleSettle (h : RegsKept IsCleLen z s) (r : CleRun) (winner : Option (Nat × Int)) : RegsKept IsCleLen z (s.cleSettle r winner) :=
  (((RegsKept.of_regs h rfl).setLstate _ _ _).setLstate _ _ _).setLstate _ _ _

theorem cleLoad (h : RegsKept IsCleLen z s) (w : CleSweep) : RegsKept IsCleLen z (s.cleLoad w) :=
  (h.setFld _ _ _ (not_isCleLen_of_lt (by decide))).setFld _ _ _ (not_isCleLen_of_lt (by decide))

end RegsKept

/-- A state and the Latch commands that loops put out, each of a channel there is: the words of CLE.LEN are as in `z`. -/
structure CommandsKept (z : State) (p : State × List (Nat × Nat × Nat)) : Prop where
  regs : RegsKept IsCleLen z p.1
  channels : ∀ m ∈ p.2, m.1 < 64

namespace CommandsKept
variable {z : State} {s : State}

theorem clePut (h : RegsKept IsCleLen z s) (w : Nat) (v : Int) (flags : Nat) : CommandsKept z (s.clePut w v flags) := by
  unfold State.clePut
  split_ifs
  · exact ⟨h, by simp; omega⟩
  · exact ⟨h.writeSignal _ _ _ _, by simp⟩

theorem append {p : State × List (Nat × Nat × Nat)} {l : List (Nat × Nat × Nat)} (h : CommandsKept z p) (hl : ∀ m ∈ l, m.1 < 64) :
    CommandsKept z (p.1, l ++ p.2) :=
  ⟨h.regs, fun m hm => (List.mem_append.1 hm).elim (hl m) (h.channels m)⟩

theorem foldl {α : Type} {l : List α} {f : State × List (Nat × Nat × Nat) → α → State × List (Nat × Nat × Nat)}
    {p : State × List (Nat × Nat × Nat)} (h : CommandsKept z p) (hf : ∀ p x, CommandsKept z p → CommandsKept z (f p x)) :
    CommandsKept z (l.foldl f p) :=
  List.foldlRecOn l f h fun p hp x _ => hf p x hp

theorem cleOutputs (h : RegsKept IsCleLen z s) (r : CleRun) (first : Nat) : CommandsKept z (s.cleOutputs r first) := by
  refine CommandsKept.foldl ⟨h, by simp⟩ fun p i hp => ?_
  have hr : ¬ IsCleLen (if i = 0 then Reg.cleLout0 r.loop else Reg.cleLout1 r.loop) := by
    refine not_isCleLen_of_ge ?_
    simp only [Reg.cleLout0, Reg.cleLout1]
    split <;> omega
  exact (clePut (hp.regs.setNum _ hr) _ _ _).append hp.channels

end CommandsKept

namespace RegsKept
variable {z s : State}

theorem groupResolved (h : RegsKept IsCleLen z s) (g : Nat) (w : CleSweep) (rs : List CleRun) (win : CleRun) :
    RegsKept IsCleLen z (s.groupResolved g w rs win) := by
  have hg : ¬ IsCleLen (Reg.cleGrp g) := not_isCleLen_of_ge (by simp only [Reg.cleGrp]; omega)
  have hput := CommandsKept.clePut h (s.groupDest g) (s.candidate win) (rs.foldl (fun f r => f ||| r.flags) 0)
  have hall := hput.foldl (l := rs) (f := fun p r =>
    ((p.1.cleOutputs r 1).1.cleSettle r (some ((p.1.cleOutputs r 1).1.loopOut r.loop 0 / 65536 % 256 - 0x10, s.candidate win)),
      p.2 ++ (p.1.cleOutputs r 1).2)) fun p r hp =>
        have ho := (CommandsKept.cleOutputs hp.regs r 1).append hp.channels
        ⟨ho.regs.cleSettle _ _, ho.channels⟩
  have hu := hall.regs.latchPresentAll hall.channels
  unfold State.groupResolved
  exact (((hu.ite (hu.roll 7 0 1 hg)).setFld 15 8 win.loop hg).setFlag 30 false hg).cleLoad w

theorem tryGroup (h : RegsKept IsCleLen z s) (g : Nat) (past : Bool) : RegsKept IsCleLen z (s.tryGroup g past) := by
  unfold State.tryGroup
  split
  · exact h
  · extract_lets ms part rs u
    have hu : RegsKept IsCleLen z u := h.setSweep _
    refine h.ite (hu.ite ?_)
    split
    · exact hu.groupKept g
    · exact (hu.groupKept g).ite (hu.groupResolved g _ _ _)

theorem cleDisable (h : RegsKept IsCleLen z s) (l : Nat) : RegsKept IsCleLen z (s.cleDisable l) := by
  unfold State.cleDisable
  split
  · exact h
  · next w _ =>
    refine h.ite ?_
    extract_lets w' u
    have hu : RegsKept IsCleLen z u := (h.setSweep _).setLstate l 30 false
    exact (hu.ite (hu.tryGroup _ _)).sweepDone

end RegsKept

variable {s : State}

/-- CLE.LEN holds what is written. -/
theorem State.reg_cleWriteLen {i : Nat} (hi : i < 8) (v : Word) : (s.cleWriteLen i v).reg (Reg.cleLen i) = v := by
  have hk : RegsKept IsCleLen (s.setReg (Reg.cleLen i) v) (s.cleWriteLen i v) :=
    (RegsKept.refl _).foldl fun u j _ hu => ((hu.ite (hu.setLstate _ 29 true)).ite ((hu.cleDisable _).ite hu))
  rw [hk _ (by simp only [IsCleLen, Reg.cleLen]; omega), State.reg_setReg_same]

/-! ### Plain registers (R13 to R16) -/

/-- The offset of the UTC time holds what is written. -/
theorem State.reg_setUtcOffset (v : Word) : (s.setUtcOffset v.toNat).reg Reg.timUtcOffset = v := by
  unfold State.setUtcOffset State.metUtcChange
  extract_lets d
  split_ifs
  · simp [State.setNum]
  · unfold State.inProgress
    split <;> simp [State.reg, State.setNum, State.setReg]

theorem hit_some {base n stride off i : Nat} (h : hit base n stride off = some i) : i < n ∧ off = base + i * stride := by
  unfold hit at h
  split_ifs at h with hc
  obtain ⟨hlo, hhi, hm⟩ := hc
  have hi : (off - base) / stride = i := by simpa using h
  have hd := Nat.div_add_mod (off - base) stride
  rw [hm, hi] at hd
  have hoff : off = base + i * stride := by rw [Nat.mul_comm]; omega
  have hlt : i * stride < n * stride := by omega
  exact ⟨Nat.lt_of_mul_lt_mul_right hlt, hoff⟩

theorem perInitiator_cleLen : ∀ i < 8, ((regRowOf (Reg.cleLen i)).all fun r => !r.perInitiator) = true := by decide
theorem perInitiator_utcOffset : ((regRowOf Reg.timUtcOffset).all fun r => !r.perInitiator) = true := by decide

/-- What a stored value drives leaves the register itself. -/
theorem State.stored_reg {off k : Nat} (hk : k = off ∨ 0x100000000 ≤ k) : (s.stored off).reg k = s.reg k := by
  unfold State.stored
  split_ifs
  · rfl
  · rfl
  · split
    · next _ i hi =>
      obtain ⟨hi, rfl⟩ := hit_some hi
      have hkept : RegsKept (fun q => q = k) s ((List.range 32).foldl (fun s j => s.followBall (32 * (i % 4) + j) true) s) := by
        refine (RegsKept.refl s).foldl fun u j hj hu => hu.followBall ?_ ?_ ?_ true
        · rintro q rfl
          simp only [OutsideTasks, Reg.pinOut] at *
          omega
        · have hj := List.mem_range.1 hj
          simp only [Reg.pinIn, Reg.pinOut] at *
          omega
        · have hj := List.mem_range.1 hj
          simp only [Reg.pinPend, Reg.pinOut] at *
          omega
      exact hkept k rfl
    · rfl
    · rfl

/-- A register that drives nothing is stored, no more. -/
theorem State.stored_plain {off : Nat} (hoff : off ∉ [Reg.timUtcOffset, Reg.rtcTrim, Reg.sysScrub]) (hpin : hit (Reg.pinOut 0) 8 4 off = none)
    (hmap : hit (Reg.pciVmap 0) 64 4 off = none) : s.stored off = s := by
  obtain ⟨-, htrim, hscrub⟩ : off ≠ Reg.timUtcOffset ∧ off ≠ Reg.rtcTrim ∧ off ≠ Reg.sysScrub := by simpa using hoff
  simp only [State.stored, htrim, hscrub, hpin, hmap, if_false]

/-- The register that initiator `w` reaches at `off`: its own bank's where the row has one. -/
def RegRow.place (r : RegRow) (w : Who) (off : Nat) : Nat := if r.perInitiator then bankOf w.id off else off

theorem RegRow.place_shared {r : RegRow} {off : Nat} (w : Who) (hr : regRowOf off = some r)
    (h : ((regRowOf off).all fun r => !r.perInitiator) = true) : r.place w off = off := by
  have hp : r.perInitiator = false := by simpa [hr] using h
  simp [RegRow.place, hp]

theorem RegRow.place_eq_or (r : RegRow) (w : Who) (off : Nat) : r.place w off = off ∨ 0x100000000 ≤ r.place w off := by
  unfold RegRow.place bankOf
  split <;> omega

section
variable {w : Who} {off : Nat} {v : Word} {r : RegRow}

/-- The word that a write of `v` stores. -/
def State.newWord (s : State) (w : Who) (r : RegRow) (off : Nat) (v : Word) : Word :=
  s.storable off (s.reg (r.place w off)) (r.merge (s.reg (r.place w off)) v)

theorem State.storeReg_utcOffset : s.storeReg w r Reg.timUtcOffset v = s.setUtcOffset (s.newWord w r Reg.timUtcOffset v).toNat := by
  simp only [State.storeReg, if_true]
  rfl

theorem State.storeReg_cleLen {i : Nat} (hutc : off ≠ Reg.timUtcOffset) (hi : hit (Reg.cleLen 0) 8 4 off = some i) :
    s.storeReg w r off v = s.cleWriteLen i (s.newWord w r off v) := by
  simp only [State.storeReg, hutc, if_false, hi]
  rfl

theorem State.storeReg_other (hutc : off ≠ Reg.timUtcOffset) (hi : hit (Reg.cleLen 0) 8 4 off = none) :
    s.storeReg w r off v = (s.setReg (r.place w off) (s.newWord w r off v)).stored off := by
  simp only [State.storeReg, hutc, if_false, hi]
  rfl

/-- The register holds the word stored, whatever it drives. -/
theorem State.reg_storeReg (hr : regRowOf off = some r) : (s.storeReg w r off v).reg (r.place w off) = s.newWord w r off v := by
  by_cases hutc : off = Reg.timUtcOffset
  · subst hutc
    rw [RegRow.place_shared w hr perInitiator_utcOffset, State.storeReg_utcOffset, State.reg_setUtcOffset]
  cases hi : hit (Reg.cleLen 0) 8 4 off with
  | some i =>
    rw [State.storeReg_cleLen hutc hi]
    obtain ⟨hlt, hoff⟩ := hit_some hi
    have hoff : off = Reg.cleLen i := by rw [hoff]; simp only [Reg.cleLen]; omega
    subst hoff
    rw [RegRow.place_shared w hr (perInitiator_cleLen i hlt), State.reg_cleWriteLen hlt]
  | none => rw [State.storeReg_other hutc hi, State.stored_reg (r.place_eq_or w off), State.reg_setReg_same]

/-- A register that drives nothing is all that changes. -/
theorem State.storeReg_plain (hoff : off ∉ [Reg.timUtcOffset, Reg.rtcTrim, Reg.sysScrub]) (hlen : hit (Reg.cleLen 0) 8 4 off = none)
    (hpin : hit (Reg.pinOut 0) 8 4 off = none) (hmap : hit (Reg.pciVmap 0) 64 4 off = none) :
    s.storeReg w r off v = s.setReg (r.place w off) (s.newWord w r off v) := by
  have hutc : off ≠ Reg.timUtcOffset := by rintro rfl; simp at hoff
  rw [State.storeReg_other hutc hlen, State.stored_plain hoff hpin hmap]

/-- An admitted write of a plain register stores it, if it can be written, and is acknowledged. -/
theorem exec_plainWrite {o : State} (ha : o.admits w off v s) (hplic : off < Plic.base) (ht : takerOf off = none) (hr : regRowOf off = some r) :
    exec (.registerWrite w (Addr.regs + off) 4 v) o = .next (if r.kind = .masked then s.storeReg w r off v else s).replyOk := by
  obtain ⟨hw, hg⟩ := ha
  obtain ⟨hs, hc⟩ : o.silent w (Addr.regs + off) 4 true = false ∧ o.regWriteCode w (Addr.regs + off) 4 v = Code.ok := by
    simpa [State.writable] using hw
  have hoff := regRowOf_lt off hr
  rw [exec_registerWrite o w off v (by omega)]
  have hp : ¬ Plic.base ≤ off := by omega
  simp only [State.busWrite, hs, hc, Bool.false_eq_true, if_false, ne_eq, not_true_eq_false, Nat.add_sub_cancel_left, State.takeWrite, hp, ht]
  rw [← writeAccess, State.arbitrated_ok o _ _ s hg]
  simp only [hr]

end

/-- Settles O20: the write is acknowledged in the state that the register's store leaves. -/
theorem plainRegistersStoreTheirWritableBits : Obligations.PlainRegistersStoreTheirWritableBits := by
  intro o s w off v r ha hplic ht hr k
  have e := exec_plainWrite ha hplic ht hr
  refine ⟨fun hk => ?_, fun hk => ?_, fun hk hoff hlen hpin hmap => ?_⟩
  · rw [if_neg hk] at e
    exact ⟨_, e, rfl, ⟨rfl, fun _ _ => rfl⟩, rfl, trivial⟩
  · rw [if_pos hk] at e
    exact ⟨_, e, rfl, State.reg_storeReg hr⟩
  · rw [if_pos hk, State.storeReg_plain hoff hlen hpin hmap] at e
    refine ⟨_, e, rfl, ⟨rfl, fun q hq => ?_⟩, rfl, trivial⟩
    exact State.reg_setReg_ne s _ q _ fun hqk => hq (List.mem_singleton.2 hqk)

end Sys2Proof.Machine
end

section
/-! The canonical form (01): every step keeps it, and who may write the control registers (R57, R261, R666, R685). -/
namespace Sys2Proof.Machine

/-- A step keeps what every command and every idle period keeps, but that it takes the command at the front of the queue. -/
theorem step_keeps_canonical {s t : State} (h : step s = .next t) (hc : s.canonical = true) : t.canonical = true := by
  unfold step at h
  split at h
  case h_1 =>
    obtain rfl : s.idle = t := by injection h
    exact (State.idle_keeps (Keeps.refl s)).canonical hc
  case h_2 c rest _ => exact (exec_keeps c { s with pending := rest } t h).canonical hc

/-- Settles O2: a command keeps the relation `Keeps`, and so does an idle period; both hold the canonical form. -/
theorem stepKeepsTheCanonicalForm : Obligations.StepKeepsTheCanonicalForm :=
  fun _ _ hc h => step_keeps_canonical h hc

/-! ### Who may write -/

/-- The registers of DDR, WRD, KEY and FLT that the secure world alone may write. -/
def secureRegs : List Nat := [Reg.ddrCtrl, Reg.ddrCeThresh, Reg.ddrClear, Reg.wrdIeLo, Reg.wrdIeHi, Reg.wrdClear, Reg.keyCtrl, Reg.keyClear,
  Reg.fltCtrl, Reg.fltClear]

variable {s : State} {w : Who} {off : Nat} {v : Word}

/-- An offset of a window below the interrupt controller's that holds no CAN message RAM, of a register without a rule of its own beside
its row's. -/
def ruledByRow (off : Nat) : Bool :=
  decide (off < Plic.base) && !(decide (0x2B ≤ off / 0x10000 ∧ off / 0x10000 ≤ 0x2E)) && off != Reg.timIncrFrac && off != Reg.timIncrInt

theorem secureRegs_rows : ∀ off ∈ secureRegs, ruledByRow off = true ∧ (regRowOf off).map RegRow.perm = some .secure := by decide

/-- The rule of such a register's row is its block's whole rule. -/
theorem State.regOwnDenied_row {r : RegRow} (h : ruledByRow off = true) (hr : regRowOf off = some r) :
    s.regOwnDenied w off v = !s.permits r.perm w off v := by
  simp only [ruledByRow, Bool.and_eq_true, Bool.not_eq_true', decide_eq_true_eq, decide_eq_false_iff_not, bne_iff_ne] at h
  obtain ⟨⟨⟨hplic, hcan⟩, hfrac⟩, hint⟩ := h
  have hp : ¬ Plic.base ≤ off := by omega
  have hc : ¬ (0x2B ≤ off / 0x10000 ∧ off / 0x10000 ≤ 0x2E ∧ canRamCovers (off % 0x10000) = true) := fun h => hcan ⟨h.1, h.2.1⟩
  simp [State.regOwnDenied, hp, hc, hr, hfrac, hint]

/-- The code of a write past the first four checks is DENIED exactly where the block's own rule refuses it: LOCKED is another code. -/
theorem State.regWriteCode_denied_iff (hf : s.regFront w (Addr.regs + off) 4 true = Code.ok) :
    s.regWriteCode w (Addr.regs + off) 4 v = Code.denied ↔ s.regOwnDenied w off v = true := by
  cases ho : s.regOwnDenied w off v with
  | true => simp [State.regWriteCode, hf, ho]
  | false =>
    rw [State.regWriteCode_front hf ho]
    split <;> simp [Code.locked, Code.ok, Code.denied]

theorem State.regWriteCode_secureRegs (hoff : off ∈ secureRegs) (hf : s.regFront w (Addr.regs + off) 4 true = Code.ok) :
    s.regWriteCode w (Addr.regs + off) 4 v = Code.denied ↔ s.secure w = false := by
  obtain ⟨hrule, hrow⟩ := secureRegs_rows off hoff
  obtain ⟨r, hr, hperm⟩ := Option.map_eq_some_iff.1 hrow
  rw [State.regWriteCode_denied_iff hf, State.regOwnDenied_row hrule hr, hperm]
  simp [State.permits]

theorem keySubmit_row : ruledByRow Reg.keySubmit = true ∧
    (regRowOf Reg.keySubmit).map (fun r => (r.perm, r.lock)) = some (.any, none) := by decide

theorem State.regWriteCode_keySubmit (hf : s.regFront w (Addr.regs + Reg.keySubmit) 4 true = Code.ok) :
    s.regWriteCode w (Addr.regs + Reg.keySubmit) 4 v = Code.ok := by
  obtain ⟨hrule, hrow⟩ := keySubmit_row
  obtain ⟨r, hr, hp⟩ := Option.map_eq_some_iff.1 hrow
  obtain ⟨hperm, hlock⟩ := Prod.mk.inj hp
  have ho : s.regOwnDenied w Reg.keySubmit v = false := by rw [State.regOwnDenied_row hrule hr, hperm]; rfl
  have hl : s.regLocked Reg.keySubmit v = false := by simp [State.regLocked, hr, hlock]
  simp [State.regWriteCode_front hf ho, hl]

/-- No block below the interrupt controller but MBX refuses a read. -/
theorem State.regReadCode_front (hf : s.regFront w (Addr.regs + off) 4 false = Code.ok) (hplic : off < Plic.base)
    (hmbx : off < Reg.mbxHdr 0 ∨ Reg.mbxHdr 64 ≤ off) : s.regReadCode w (Addr.regs + off) 4 = Code.ok := by
  have hp : ¬ Plic.base ≤ off := by omega
  have hm : ¬ (Reg.mbxHdr 0 ≤ off ∧ off < Reg.mbxHdr 64) := by omega
  simp [State.regReadCode, hf, State.regReadDenied, hp, hm]

/-- Settles O7: the rows name the secure world, or anyone, and the checks after them answer another code. -/
theorem whoMayWriteTheControlRegisters : Obligations.WhoMayWriteTheControlRegisters := by
  intro s w off v
  refine ⟨fun hf => ⟨fun hoff => State.regWriteCode_secureRegs hoff hf, ?_⟩, fun hwin hf => ?_⟩
  · rintro rfl
    exact State.regWriteCode_keySubmit hf
  · have hblock : off / 0x10000 ∈ [50, 11, 5, 3] := hwin
    have hout : off < Plic.base ∧ (off < Reg.mbxHdr 0 ∨ Reg.mbxHdr 64 ≤ off) := by
      simp only [List.mem_cons, List.not_mem_nil, or_false] at hblock
      simp only [Plic.base, Reg.mbxHdr]
      omega
    exact State.regReadCode_front hf hout.1 hout.2

end Sys2Proof.Machine
end

section
/-! What a command changes, as `OnlyRegs` and `Raised` name it: the frame of a register written and of a source raised. -/
namespace Sys2Proof.Machine

variable {s t : State} {rs : List Nat} {r : Nat}

theorem OnlyRegs.refl (s : State) (rs : List Nat) : OnlyRegs s s rs := ⟨rfl, fun _ _ => rfl⟩

theorem OnlyRegs.mono {qs : List Nat} (h : OnlyRegs s t qs) (hq : qs ⊆ rs) : OnlyRegs s t rs := ⟨h.1, fun q hn => h.2 q fun hm => hn (hq hm)⟩

theorem OnlyRegs.setReg (h : OnlyRegs s t rs) (hr : r ∈ rs) (v : Word) : OnlyRegs s (t.setReg r v) rs := by
  have e : t.setReg r v = State.setReg { s with regs := t.regs, plic := t.plic, bus := t.bus } r v := congrArg (fun x => x.setReg r v) h.1
  exact ⟨e, fun q hq => (State.reg_setReg_ne t r q v (by rintro rfl; exact hq hr)).trans (h.2 q hq)⟩

theorem OnlyRegs.raise (h : OnlyRegs s t rs) (n : Nat) : OnlyRegs s (t.raise n) rs := by
  refine ⟨?_, fun q hq => (State.raise_reg t n q).trans (h.2 q hq)⟩
  rw [State.raise_only]
  exact congrArg (fun x : State => { x with plic := (t.raise n).plic }) h.1

theorem OnlyRegs.reply (h : OnlyRegs s t rs) (c : Nat) (d : List Byte) : OnlyRegs s (t.reply c d) rs :=
  ⟨congrArg (fun x => x.reply c d) h.1, h.2⟩

theorem OnlyRegs.ite {c : Prop} [Decidable c] {a b : State} (h : OnlyRegs s a rs) (k : OnlyRegs s b rs) : OnlyRegs s (if c then a else b) rs := by
  split <;> assumption

theorem OnlyRegsFlt.setReg (h : OnlyRegsFlt s t rs) (hr : r ∈ rs) (v : Word) : OnlyRegsFlt s (t.setReg r v) rs := by
  have e : t.setReg r v = State.setReg { s with regs := t.regs, plic := t.plic, bus := t.bus, flt := t.flt, inj := t.inj } r v :=
    congrArg (fun x => x.setReg r v) h.1
  exact ⟨e, fun q hq hf => (State.reg_setReg_ne t r q v (by rintro rfl; exact hq hr)).trans (h.2 q hq hf)⟩

/-- Raising a source looks at the variant, the mode and the sources pending. -/
theorem State.raise_plic_congr (hv : t.variant = s.variant) (hm : t.mode = s.mode) (hp : t.plic = s.plic) (n : Nat) :
    (t.raise n).plic = (s.raise n).plic := by
  have ha : t.awake = s.awake := by rw [State.awake, hm, State.awake]
  unfold State.raise
  rw [hv, ha, hp]
  split_ifs
  · exact hp
  · rfl

theorem Raised.nil (h : t.plic = s.plic) : Raised s t [] := h

theorem Raised.single (hv : t.variant = s.variant) (hm : t.mode = s.mode) (hp : t.plic = s.plic) (n : Nat) : Raised s (t.raise n) [n] :=
  State.raise_plic_congr hv hm hp n

theorem Raised.pair (hv : t.variant = s.variant) (hm : t.mode = s.mode) (hp : t.plic = s.plic) (n k : Nat) :
    Raised s ((t.raise n).raise k) [n, k] := by
  refine State.raise_plic_congr (s := s.raise n) ?_ ?_ (State.raise_plic_congr hv hm hp n) k
  · rw [State.raise_variant, State.raise_variant, hv]
  · rw [State.raise_mode, State.raise_mode, hm]

/-- A write of another register than SYS.MODE leaves the mode. -/
theorem State.mode_setReg (h : r ≠ Reg.sysMode) (v : Word) : (s.setReg r v).mode = s.mode := by
  simp only [State.mode, State.fld, State.reg_setReg_ne s r _ v h.symm]

end Sys2Proof.Machine
end

section
/-! What the operations that serve a fence, the tasks, the spindles and passing time leave alone (01, 04, 08, 13, 18): one relation, and a
lemma per operation. -/
namespace Sys2Proof.Machine

/-! ### Detector events -/

theorem State.noteInjected_run (s : State) (n : Nat) : (s.noteInjected n).inj.run = s.inj.run := by
  unfold State.noteInjected
  split <;> rfl

theorem State.countEvent_inj (s : State) (d : Detection) : (s.countEvent d).inj = s.inj := by rw [State.countEvent_only]

/-- A detector event leaves the running injection. -/
theorem State.detect_run (s : State) (d : Detection) : (s.detect d).1.inj.run = s.inj.run := by
  unfold State.detect
  extract_lets e u f v
  have hu : u.inj.run = s.inj.run := congrArg InjState.run (s.countEvent_inj e)
  clear_value u f
  have hv : v.inj.run = s.inj.run := by
    unfold v
    split <;> exact hu
  clear_value v
  split_ifs
  · exact hu
  · exact hu
  · exact hu
  · split
    · exact (State.noteInjected_run _ _).trans hv
    · exact (State.noteInjected_run _ _).trans hv

/-! ### The relation -/

/-- The register windows that these operations write: BLK, FLT, TIM, SPN, TSK, PRF, DDR. -/
def stirredWindows : List Nat := [2, 3, 9, 0xA, 0x18, 0x1A, 0x32]

/-- A register of another window, or of an initiator's bank. -/
@[reducible] def Apart (q : Nat) : Prop := q / 0x10000 ∉ stirredWindows

theorem not_apart {q : Nat} (w : Nat) (hlo : w * 0x10000 ≤ q) (hhi : q < (w + 1) * 0x10000) (hw : w ∈ stirredWindows) : ¬ Apart q := by
  have h : q / 0x10000 = w := by omega
  rw [Apart, h, not_not]
  exact hw

theorem apart_sys {q : Nat} (h : q < 0x20000) : Apart q := by
  have h : q / 0x10000 = 0 ∨ q / 0x10000 = 1 := by omega
  rcases h with h | h <;> rw [Apart, h] <;> decide

theorem apart_bank (id off : Nat) : Apart (bankOf id off) := by
  have h : 0x10000 ≤ bankOf id off / 0x10000 := by unfold bankOf; omega
  simp only [Apart, stirredWindows, List.mem_cons, List.not_mem_nil, or_false]
  omega

/-- From `z` to `t` the registers apart, the bus reply, the balls, the chip level's events and the running injection stand, no pending source
falls, and where `M` holds memory, the configuration and the patch requests stand too. -/
structure Steady (M : Prop) (z t : State) : Prop where
  regs : RegsKept Apart z t
  variant : t.variant = z.variant
  bus : t.bus = z.bus
  ball : t.pin.ball = z.pin.ball
  events : t.chip.events = z.chip.events
  run : t.inj.run = z.inj.run
  mem : M → t.mem = z.mem
  blk : M → t.blk = z.blk
  rises : ∀ n, z.pendingSource n = true → t.pendingSource n = true

/-- The parts of a state that `Steady` compares. -/
def State.watched (s : State) := (s.regs, s.variant, s.bus, s.pin.ball, s.chip.events, s.inj.run, s.mem, s.blk, s.plic)

namespace Steady
variable {M : Prop} {z s t : State}

theorem refl (s : State) : Steady M s s := ⟨.refl s, rfl, rfl, rfl, rfl, rfl, fun _ => rfl, fun _ => rfl, fun _ h => h⟩

theorem trans (h : Steady M z s) (k : Steady M s t) : Steady M z t where
  regs := h.regs.trans k.regs
  variant := k.variant.trans h.variant
  bus := k.bus.trans h.bus
  ball := k.ball.trans h.ball
  events := k.events.trans h.events
  run := k.run.trans h.run
  mem hm := (k.mem hm).trans (h.mem hm)
  blk hm := (k.blk hm).trans (h.blk hm)
  rises n hn := k.rises n (h.rises n hn)

theorem ite {c : Prop} [Decidable c] {a b : State} (h : Steady M z a) (k : Steady M z b) : Steady M z (if c then a else b) := by
  split <;> assumption

theorem foldl {α : Type} {l : List α} {f : State → α → State} (h : Steady M z s)
    (hf : ∀ u x, x ∈ l → Steady M z u → Steady M z (f u x)) : Steady M z (l.foldl f s) :=
  List.foldlRecOn l f h fun u hu x hx => hf u x hx hu

/-- Only what the relation does not watch is new. -/
theorem alter (h : Steady M z s) (e : t.watched = s.watched) : Steady M z t := by
  simp only [State.watched, Prod.mk.injEq] at e
  obtain ⟨hr, hv, hb, hball, hev, hrun, hmem, hblk, hp⟩ := e
  exact h.trans ⟨(RegsKept.refl s).of_regs hr, hv, hb, hball, hev, hrun, fun _ => hmem, fun _ => hblk, fun n hn => by rwa [State.pendingSource, hp]⟩

theorem setReg {r : Nat} (h : Steady M z s) (v : Word) (hr : ¬ Apart r) : Steady M z (s.setReg r v) :=
  h.trans ⟨(RegsKept.refl s).setReg v hr, rfl, rfl, rfl, rfl, rfl, fun _ => rfl, fun _ => rfl, fun _ hn => hn⟩

theorem setNum {r : Nat} (h : Steady M z s) (v : Nat) (hr : ¬ Apart r) : Steady M z (s.setNum r v) := h.setReg _ hr
theorem setFld {r : Nat} (h : Steady M z s) (hi lo v : Nat) (hr : ¬ Apart r) : Steady M z (s.setFld r hi lo v) := h.setReg _ hr
theorem setFlag {r : Nat} (h : Steady M z s) (b : Nat) (v : Bool) (hr : ¬ Apart r) : Steady M z (s.setFlag r b v) := h.setFld _ _ _ hr
theorem bump {r : Nat} (h : Steady M z s) (hi lo n : Nat) (hr : ¬ Apart r) : Steady M z (s.bump r hi lo n) := h.setFld _ _ _ hr
theorem roll {r : Nat} (h : Steady M z s) (hi lo n : Nat) (hr : ¬ Apart r) : Steady M z (s.roll r hi lo n) := h.setFld _ _ _ hr

theorem raise (h : Steady M z s) (n : Nat) : Steady M z (s.raise n) :=
  h.trans { regs := (RegsKept.refl s).raise n, variant := by simp, bus := by simp, ball := by simp, events := by simp,
            run := by simp, mem := fun _ => by simp, blk := fun _ => by simp, rises := fun k hk => s.pendingSource_raise n k hk }

/-- Memory is written. -/
theorem poke (h : Steady False z s) (a : Nat) (bs : List Byte) : Steady False z (s.poke a bs) :=
  h.trans ⟨.refl s, rfl, rfl, rfl, rfl, rfl, False.elim, False.elim, fun _ hn => hn⟩

theorem send (h : Steady M z s) (k : SentKind) (d : Nat) (bs : List Byte) : Steady M z (s.send k d bs) := h.alter rfl

/-! ### What follows from it -/

theorem num (h : Steady M z s) {q : Nat} (hq : Apart q) : s.num q = z.num q := by rw [State.num, h.regs q hq, State.num]
theorem fld (h : Steady M z s) {q : Nat} (hq : Apart q) (hi lo : Nat) : s.fld q hi lo = z.fld q hi lo := by rw [State.fld, h.regs q hq, State.fld]
theorem flag (h : Steady M z s) {q : Nat} (hq : Apart q) (b : Nat) : s.flag q b = z.flag q b := by rw [State.flag, h.regs q hq, State.flag]
theorem mode (h : Steady M z s) : s.mode = z.mode := h.fld (apart_sys (by decide)) 3 0
theorem awake (h : Steady M z s) : s.awake = z.awake := by rw [State.awake, h.mode, State.awake]
theorem fenced (h : Steady M z s) (r : Nat) : s.fenced r = z.fenced r := by
  rw [State.fenced, h.flag (apart_sys (by decide)), State.fenced]
theorem canRise (h : Steady M z s) (n : Nat) : s.canRise n = z.canRise n := by simp only [State.canRise, h.variant, h.awake]

/-- A source that is raised on the way is pending at the end. -/
theorem rises_raise (h : Steady M z s) (n : Nat) (k : Steady M (s.raise n) t) : Rises z t n := by
  intro hz
  exact k.rises n (s.raise_rises n (by rwa [h.canRise]))

/-! ### Detector events, bad words and the writes of engines (18, 01) -/

theorem detect (h : Steady M z s) (d : Detection) : Steady M z (s.detect d).1 := by
  have e := s.detect_only d
  refine h.trans ⟨fun q hq => s.detect_reg d q fun hf => hq ?_, ?_, ?_, ?_, ?_, s.detect_run d, fun _ => ?_, fun _ => ?_, fun n hn => ?_⟩
  · have hw : q / 0x10000 = 3 := by unfold inFlt at hf; omega
    rw [hw]
    decide
  all_goals rw [e]
  exact hn

theorem detected (h : Steady M z s) (d : Detection) : Steady M z (s.detected d) := h.detect d

theorem refuseWord (h : Steady M z s) (w : Option Who) (k a : Nat) : Steady M z (s.refuseWord w k a) := by
  have hp : Steady M z ((s.recordBadWord w k a false).poisonWord (a / 8 * 8)) := (h.detected _).alter rfl
  have hr {r : Nat} (hlo : 0x320000 ≤ r) (hhi : r < 0x330000) : ¬ Apart r := not_apart 0x32 hlo hhi (by decide)
  unfold State.refuseWord
  extract_lets u
  have hu : Steady M z u := hp.raise 4
  refine ite (Steady.raise ?_ 458) hu
  exact ((hu.bump _ _ _ (hr (by decide) (by decide))).setNum _ (hr (by decide) (by decide))).setNum _ (hr (by decide) (by decide))

theorem engineWrite (h : Steady False z s) (w : Who) (a : Nat) (bs : List Byte) : Steady False z (s.engineWrite w a bs) := by
  unfold State.engineWrite State.engineError
  refine ite (((h.detected _).raise 7).ite (h.detected _)) ?_
  split
  · exact h.refuseWord _ _ _
  · exact h.poke a bs

theorem patchResult (h : Steady False z s) (desc state code : Nat) : Steady False z (s.patchResult desc state code) :=
  (h.engineWrite _ _ _).raise 16

/-! ### Axes (13) -/

theorem setAstate {n : Nat} (h : Steady M z s) (hn : n < 16) (b : Nat) (v : Bool) : Steady M z (s.setFlag (Reg.prfAstate n) b v) :=
  h.setFlag b v (not_apart 0x1A (by simp only [Reg.prfAstate]; omega) (by simp only [Reg.prfAstate]; omega) (by decide))

theorem showAxis {n : Nat} (h : Steady M z s) (hn : n < 16) : Steady M z (s.showAxis n) := by
  have hr : ¬ Apart Reg.prfStatus := not_apart 0x1A (by decide) (by decide) (by decide)
  exact ((h.setFlag _ _ hr).setFlag _ _ hr).setAstate hn _ _

theorem setAxis (h : Steady M z s) (n : Nat) (a : Axis) : Steady M z (s.setAxis n a) := h.alter rfl

theorem dropHeld {n : Nat} (h : Steady M z s) (hn : n < 16) : Steady M z (s.dropHeld n) := ((h.setAxis n _).showAxis hn).ite h

theorem unnamedDetector (h : Steady M z s) : Steady M z s.unnamedDetector.1 := h.alter rfl

theorem stopAxis {n : Nat} (h : Steady M z s) (hn : n < 16) : Steady M z (s.stopAxis n) := by
  unfold State.stopAxis
  split
  · exact h.dropHeld hn
  · extract_lets a fast u v
    have hu : Steady M z u := (h.setAxis n _).showAxis hn
    clear_value u
    have hv : Steady M z v := ite ((((hu.unnamedDetector.setAstate hn 28 true).showAxis hn).raise 241).detected _) hu
    exact hv.raise 245

theorem stopAxes (h : Steady M z s) (mask : Nat) : Steady M z (s.stopAxes mask) :=
  h.foldl fun _ _ hn hu => hu.stopAxis (List.mem_range.1 (List.mem_filter.1 hn).1)

/-! ### Spindles and passing time (04) -/

theorem setSpin (h : Steady M z s) (n : Nat) (p : Spindle) : Steady M z (s.setSpin n p) := h.alter rfl

theorem setSpinFlag {n : Nat} (h : Steady M z s) (hn : n < 8) (b : Nat) (v : Bool) : Steady M z (s.setSpinFlag n b v) := by
  have hr : ¬ Apart (Reg.spnState n) := not_apart 0xA (by simp only [Reg.spnState]; omega) (by simp only [Reg.spnState]; omega) (by decide)
  exact h.ite (((h.setFlag b v hr).raise _).ite (h.setFlag b v hr))

theorem timTakes {n : Nat} (h : Steady M z s) (hn : n < 8) : Steady M z (s.timTakes n) := by
  unfold State.timTakes
  refine h.ite ?_
  extract_lets u v
  have hu : Steady M z u := h.setFlag _ _ (not_apart 9 (by decide) (by decide) (by decide))
  exact hu.ite (((hu.setSpin n _).setSpinFlag hn _ _).setSpinFlag hn _ _)

theorem moveSpindle (h : Steady M z s) (n : Nat) (d : Int) (ticks : Nat) : Steady M z (s.moveSpindle n d ticks) := h.ite (h.alter rfl)

theorem correctSpindle (h : Steady M z s) (n : Nat) (d : Int) : Steady M z (s.correctSpindle n d) := (h.moveSpindle n d 0).ite (h.setSpin n _)

theorem finishRejoin {n : Nat} (h : Steady M z s) (hn : n < 8) : Steady M z (s.finishRejoin n) := by
  unfold State.finishRejoin
  extract_lets u p v w
  have hu : Steady M z u := h.correctSpindle n _
  have hv : Steady M z v := (hu.setSpin n _).ite hu
  exact (((hv.setSpin n _).setSpinFlag hn _ _).setSpinFlag hn _ _).setSpinFlag hn _ _

theorem noteSpindle {n : Nat} (h : Steady M z s) (hn : n < 8) : Steady M z (s.noteSpindle n) := (h.setSpin n _).setSpinFlag hn _ _

theorem elapseSpindle {n : Nat} (h : Steady M z s) (hn : n < 8) (d t0 t1 : Nat) : Steady M z (s.elapseSpindle n d t0 t1) := by
  unfold State.elapseSpindle
  refine h.ite (noteSpindle (ite ?_ ?_) hn)
  · exact (h.setSpin n _).moveSpindle n _ _
  · exact (((h.setSpin n _).moveSpindle n _ _).finishRejoin hn).ite ((h.setSpin n _).moveSpindle n _ _)

theorem releaseSnaps (h : Steady M z s) : Steady M z s.releaseSnaps := by
  unfold State.releaseSnaps
  extract_lets old cells blocks
  refine h.ite (Steady.raise ?_ 58)
  exact h.alter rfl

/-- Passing time moves the clocks and the spindles alone. -/
theorem elapse (h : Steady M z s) (k : Nat) : Steady M z (s.elapse k) := by
  unfold State.elapse
  extract_lets t0 d u crossed ph incrs chip tim rtc a b c
  have ha : Steady M z a := h.alter rfl
  have hb : Steady M z b := (ha.setNum _ (not_apart 9 (by decide) (by decide) (by decide))).ite ha
  have hc : Steady M z c := (hb.raise 64).ite hb
  exact (hc.foldl fun _ _ hn hu => hu.elapseSpindle (List.mem_range.1 hn) _ _ _).releaseSnaps

/-! ### Tasks (08) -/

theorem tskReg {r : Nat} (hlo : 0x180000 ≤ r) (hhi : r < 0x190000) : ¬ Apart r := not_apart 0x18 hlo hhi (by decide)

theorem setTask (h : Steady M z s) (t : Nat) (r : TaskRun) : Steady M z (s.setTask t r) := h.alter rfl

theorem freezeInputs (h : Steady False z s) (t : Nat) : Steady False z (s.freezeInputs t) := h.foldl fun _ _ _ hu => hu.poke _ _

theorem pauseCore (h : Steady M z s) (c : Nat) : Steady M z (s.pauseCore c) := by
  unfold State.pauseCore
  split
  · exact h
  · exact h.alter rfl

variable {t : Nat}

theorem showTask (h : Steady M z s) (ht : t < 128) : Steady M z (s.showTask t) := by
  have hr : ¬ Apart (Reg.tskTstate t) := tskReg (by simp only [Reg.tskTstate]; omega) (by simp only [Reg.tskTstate]; omega)
  unfold State.showTask
  exact ((h.setFld _ _ _ hr).setFlag _ _ hr).setFld _ _ _ hr

theorem showCores (h : Steady M z s) : Steady M z s.showCores := by
  have hr : ¬ Apart Reg.tskStatus := tskReg (by decide) (by decide)
  exact (h.setFlag _ _ hr).setFld _ _ _ hr

theorem startTask (h : Steady M z s) (ht : t < 128) (c : Nat) : Steady M z (s.startTask t c) := by
  have hl : ¬ Apart (Reg.tskLastStart t) := tskReg (by simp only [Reg.tskLastStart]; omega) (by simp only [Reg.tskLastStart]; omega)
  have hm : ¬ Apart (Reg.tskMaxStart t) := tskReg (by simp only [Reg.tskMaxStart]; omega) (by simp only [Reg.tskMaxStart]; omega)
  unfold State.startTask
  extract_lets r d j u v base ctx
  have hu : Steady M z u := h.setNum _ hl
  have hv : Steady M z v := (hu.setNum _ hm).ite hu
  exact hv.alter rfl

/-- A core goes over to an instance. -/
theorem dispatchCore (h : Steady M z s) (c : Nat) : Steady M z (s.dispatchCore c) := by
  unfold State.dispatchCore
  extract_lets want u
  have hu : Steady M z u := h.pauseCore c
  have hw : ∀ t, want = t + 1 → t < 128 := by
    intro t hw
    refine State.chosenOn_lt (s := s) (c := c) ?_
    simp only [want] at hw
    split_ifs at hw
    split at hw <;> simp_all
  clear_value want u
  refine h.ite ?_
  cases want with
  | zero => exact hu
  | succ t =>
    have ht : t < 128 := hw t rfl
    have hv : Steady M z (if (u.task t).started then u else u.startTask t c) := hu.ite (hu.startTask ht c)
    exact showTask (hv.alter rfl) ht

theorem dispatchAll (h : Steady M z s) : Steady M z s.dispatchAll := h.foldl fun _ c _ hu => hu.dispatchCore c

theorem releaseTask (h : Steady False z s) (ht : t < 128) (se su : Bool) (order due : Nat) :
    Steady False z (s.releaseTask t se su order due) := by
  have hr : ¬ Apart (Reg.tskReleases t) := tskReg (by simp only [Reg.tskReleases]; omega) (by simp only [Reg.tskReleases]; omega)
  unfold State.releaseTask
  extract_lets r se su u r
  have hu : Steady False z u := h.freezeInputs t
  exact (((hu.setTask t r).roll _ _ _ hr).showTask ht).dispatchCore _

theorem eventFor (h : Steady False z s) (ht : t < 128) : Steady False z (s.eventFor t) := by
  have hr : ¬ Apart (Reg.tskTstate t) := tskReg (by simp only [Reg.tskTstate]; omega) (by simp only [Reg.tskTstate]; omega)
  have hs : ¬ Apart (Reg.tskSkips t) := tskReg (by simp only [Reg.tskSkips]; omega) (by simp only [Reg.tskSkips]; omega)
  have ho : Steady False z { s with tsk := { s.tsk with orders := s.tsk.orders + 1 } } := h.alter rfl
  have hset := h.setFlag 29 true hr
  exact h.ite (hset.ite ((ho.releaseTask ht _ _ _ _).ite (hset.ite ((h.bump _ _ _ hs).raise _))))

theorem offerEvent (h : Steady False z s) (source number : Nat) : Steady False z (s.offerEvent source number) := by
  refine h.ite (h.foldl fun u t ht hu => hu.eventFor ?_)
  exact Nat.lt_of_lt_of_le (List.mem_range.1 (List.mem_filter.1 ht).1) s.ntask_le

theorem moveTask (h : Steady False z s) (ht : t < 128) (c : Nat) : Steady False z (s.moveTask t c) :=
  ((h.setTask t _).poke _ _).showTask ht

theorem releasePended (h : Steady False z s) : Steady False z s.releasePended := by
  refine h.foldl fun u t ht hu => ?_
  have ht : t < 128 := Nat.lt_of_lt_of_le (List.mem_range.1 (List.mem_filter.1 ht).1) s.ntask_le
  exact (hu.setFlag _ _ (tskReg (by simp only [Reg.tskTstate]; omega) (by simp only [Reg.tskTstate]; omega))).eventFor ht

/-- The tasks of a halted core are placed elsewhere. -/
theorem replaceAll (c : Nat) (ts : List Nat) (hts : ∀ t ∈ ts, t < 128) (h : Steady False z s) {u : State}
    (e : Machine.replaceAll c ts s = some u) : Steady False z u := by
  induction ts generalizing s with
  | nil =>
    obtain rfl : s = u := Option.some.inj e
    exact h
  | cons t ts ih =>
    have hrest : ∀ t ∈ ts, t < 128 := fun t ht => hts t (List.mem_cons_of_mem _ ht)
    have ht : t < 128 := hts t List.mem_cons_self
    rw [Machine.replaceAll] at e
    split at e
    · split at e
      · cases e
      · exact ih hrest ((h.setTask t _).moveTask ht _) e
    · exact ih hrest h e

end Steady

end Sys2Proof.Machine
end

section
/-! Fences (R36, R42, R75, R244, R307; 10): what one changes and leaves, and the detectors that call for one. -/
namespace Sys2Proof.Machine

variable {s t u : State} {r det : Nat}

/-! ### Sources that every variant has -/

/-- A source that no variant lacks, of those a block gives a meaning, is pending once raised while the part is awake. -/
theorem State.canRise_of_awake {n : Nat} (h : (reservedSource n || absentSource s.variant n || decide (511 < n)) = false) (ha : s.awake = true) :
    s.canRise n = true := by simp only [State.canRise, h, ha]; rfl

theorem State.canRise_low {n : Nat} (hn : 0 < n ∧ n ≤ 20) (ha : s.awake = true) : s.canRise n = true := by
  refine State.canRise_of_awake ?_ ha
  simp [reservedSource, absentSource]
  omega

/-! ### The fence -/

/-- From `s` to `t` region `r` has been fenced for detector `det`. -/
structure FenceOf (r det : Nat) (s t : State) : Prop where
  fenced : t.fenced r = true
  others : ∀ q, q ≠ r → t.fenced q = s.fenced q
  regs : RegsKept (fun q => Apart q ∧ q ≠ Reg.sysFence) s t
  bus : t.bus = s.bus
  runs : t.blk.runs.get r = none
  waits : t.blk.waits.get r = none
  events : ∃ e, t.chip.events = s.chip.events ++ [e] ∧ e.det = det
  run : t.inj.run = s.inj.run
  mem : s.blk.runs.get r = none → s.blk.waits.get r = none → t.mem = s.mem
  told : t.pendingSource 1 = true
  rises : ∀ n, s.pendingSource n = true → t.pendingSource n = true

/-- Both requests of a region end with DENIED; the words of their descriptors are all of memory that changes. -/
def State.denyPatches (s : State) (r : Nat) : State :=
  let s := match s.blk.runs.get r with
    | some q => s.patchResult q.desc Patch.refused Code.denied
    | none => s
  match s.blk.waits.get r with
  | some q => s.patchResult q.desc Patch.refused Code.denied
  | none => s

theorem State.denyPatches_steady (s : State) (r : Nat) : Steady False s (s.denyPatches r) := by
  have step (s u : State) (h : Steady False s u) (o : Option PatchRequest) :
      Steady False s (match o with | some q => u.patchResult q.desc Patch.refused Code.denied | none => u) := by
    cases o with
    | none => exact h
    | some q => exact h.patchResult _ _ _
  exact step s _ (step s s (.refl s) _) _

theorem State.denyPatches_none (hr : s.blk.runs.get r = none) (hw : s.blk.waits.get r = none) : s.denyPatches r = s := by
  simp only [State.denyPatches, hr, hw]

/-- The region has no request. -/
def State.dropPatches (s : State) (r : Nat) : State :=
  { s with blk := { s.blk with runs := s.blk.runs.set r none, waits := s.blk.waits.set r none } }

theorem State.discardPatches_eq (s : State) (r : Nat) : s.discardPatches r =
    (((((s.denyPatches r).dropPatches r).setFlag Reg.blkStatus (8 + r) false).setFlag Reg.blkStatus (12 + r) false).setFld (Reg.blkReqinit r) 15 0
      0xFFFF) := rfl

/-- The end of a region's requests writes memory and BLK. -/
theorem State.discardPatches_steady (s : State) (hr : r < 4) : Steady False s (s.discardPatches r) := by
  have hblk {q : Nat} (hlo : 0x20000 ≤ q) (hhi : q < 0x30000) : ¬ Apart q := not_apart 2 hlo hhi (by decide)
  have hstat : ¬ Apart Reg.blkStatus := hblk (by decide) (by decide)
  have hreq : ¬ Apart (Reg.blkReqinit r) := hblk (by simp only [Reg.blkReqinit]; omega) (by simp only [Reg.blkReqinit]; omega)
  have hd := s.denyPatches_steady r
  have hdrop : Steady False s ((s.denyPatches r).dropPatches r) :=
    ⟨hd.regs, hd.variant, hd.bus, hd.ball, hd.events, hd.run, False.elim, False.elim, hd.rises⟩
  rw [State.discardPatches_eq]
  exact Steady.setFld (Steady.setFlag (Steady.setFlag hdrop (8 + r) false hstat) (12 + r) false hstat) 15 0 0xFFFF hreq

theorem State.discardPatches_blk (s : State) (r : Nat) :
    (s.discardPatches r).blk.runs.get r = none ∧ (s.discardPatches r).blk.waits.get r = none := by
  rw [State.discardPatches_eq]
  exact ⟨Tab.get_set_eq .., Tab.get_set_eq ..⟩

theorem State.discardPatches_mem (hr : s.blk.runs.get r = none) (hw : s.blk.waits.get r = none) : (s.discardPatches r).mem = s.mem := by
  simp [State.discardPatches_eq, State.denyPatches_none hr hw, State.dropPatches]

/-- The last part of a fence: the axes stop, TIM takes the spindles, and source 1 rises. -/
def State.fenceStops (s : State) (r : Nat) : State :=
  let s := if r = Region.control then s.stopAxes 0xFFFF else s
  (if r = 2 then (List.range 8).foldl State.timTakes s else s).raise 1

theorem State.fenceStops_steady {M : Prop} (s : State) (r : Nat) : Steady M s (s.fenceStops r) ∧ Rises s (s.fenceStops r) 1 := by
  unfold State.fenceStops
  extract_lets u
  have hu : Steady M s u := ((Steady.refl s).stopAxes _).ite (.refl s)
  have hv : Steady M s (if r = 2 then (List.range 8).foldl State.timTakes u else u) :=
    (hu.foldl fun _ n hn hv => hv.timTakes (List.mem_range.1 hn)).ite hu
  exact ⟨hv.raise 1, hv.rises_raise 1 (.refl _)⟩

/-- The first part of a fence: its record, and the level of HSP_IRQ_N that a fenced Link holds. -/
def State.fenceRecord (s : State) (r det : Nat) (parent : Option Nat) (injected : Bool) : State × Nat :=
  let (s, t) := s.detect { det := det, level := 3, loc := location r 0xFF 0, action := Act.fenced, parent := parent, injected := injected }
  (if r = Region.link then { s with pin := { s.pin with irqHeld := some s.spiIrqLow } } else s, t)

theorem State.fenceRecord_steady {M : Prop} (s : State) (r det : Nat) (parent : Option Nat) (injected : Bool) :
    Steady M s (s.fenceRecord r det parent injected).1 := by
  have hd := (Steady.refl (M := M) s).detect
    { det := det, level := 3, loc := location r 0xFF 0, action := Act.fenced, parent := parent, injected := injected }
  exact Steady.ite (hd.alter rfl) hd

/-- The chip level has one more event to decide on. -/
def State.addEvent (s : State) (e : ChipEvent) : State := { s with chip := { s.chip with events := s.chip.events ++ [e] } }

variable {parent : Option Nat} {injected : Bool}

theorem State.fence_eq (hr : r < 4) (hf : s.fenced r = false) (ha : s.awake = true) : ∃ e : ChipEvent, e.det = det ∧
    s.fence r det parent injected =
      ((((s.fenceRecord r det parent injected).1.setFlag Reg.sysFence r true).discardPatches r).fenceStops r).addEvent e := by
  have h : ¬ (r ≥ 4 ∨ s.fenced r = true ∨ s.awake = false) := by simp [hf, ha]; omega
  rw [State.fence, if_neg h]
  exact ⟨_, rfl, rfl⟩

/-- A region that is not fenced, of an awake part, is fenced. -/
theorem State.fence_fences (hr : r < 4) (hf : s.fenced r = false) (ha : s.awake = true) :
    FenceOf r det s (s.fence r det parent injected) := by
  obtain ⟨e, he, heq⟩ := State.fence_eq (det := det) (parent := parent) (injected := injected) hr hf ha
  rw [heq]
  have h1 := s.fenceRecord_steady (M := True) r det parent injected
  generalize (s.fenceRecord r det parent injected).1 = a at h1 ⊢
  obtain ⟨b, hb⟩ : ∃ b, a.setFlag Reg.sysFence r true = b := ⟨_, rfl⟩
  have hreg : ∀ q, q ≠ Reg.sysFence → b.reg q = a.reg q := fun q hq => by rw [← hb]; exact State.reg_setReg_ne a _ q _ hq
  have hset : b.flag Reg.sysFence r = true := by rw [← hb]; exact a.flag_setFlag _ r true (by omega)
  have hkeep : ∀ q, q ≠ r → b.flag Reg.sysFence q = a.flag Reg.sysFence q := fun q hq => by
    rw [← hb]; exact a.flag_setFlag_ne _ r q true (by omega) hq
  have hbus : b.bus = a.bus ∧ b.blk = a.blk ∧ b.chip = a.chip ∧ b.inj = a.inj ∧ b.mem = a.mem ∧ b.plic = a.plic := by
    rw [← hb]; exact ⟨rfl, rfl, rfl, rfl, rfl, rfl⟩
  rw [hb]
  clear hb
  obtain ⟨hbus, hblk, hchip, hinj, hmem, hplic⟩ := hbus
  have h2 := b.discardPatches_steady hr
  obtain ⟨hruns, hwaits⟩ := b.discardPatches_blk r
  have hdrop := State.discardPatches_mem (s := b) (r := r)
  generalize b.discardPatches r = c at h2 hruns hwaits hdrop ⊢
  obtain ⟨h3, htold⟩ := c.fenceStops_steady (M := True) r
  generalize c.fenceStops r = d at h3 htold ⊢
  have hsys : Apart Reg.sysFence := apart_sys (by decide)
  have hfen (q : Nat) : (d.addEvent e).fenced q = (decide (q < 4) && b.flag Reg.sysFence q) :=
    congrArg (decide (q < 4) && ·) ((h3.flag hsys q).trans (h2.flag hsys q))
  have hawake : c.awake = true := by
    rw [h2.awake, ← ha, ← h1.awake]
    simp only [State.awake, State.mode, State.fld, hreg Reg.sysMode (by decide)]
  constructor
  case fenced => simp [hfen, hset, hr]
  case others =>
    intro q hq
    rw [hfen, hkeep q hq, h1.flag hsys, State.fenced]
  case regs =>
    rintro q ⟨hq, hne⟩
    calc d.reg q = c.reg q := h3.regs q hq
      _ = b.reg q := h2.regs q hq
      _ = a.reg q := hreg q hne
      _ = s.reg q := h1.regs q hq
  case bus => exact h3.bus.trans (h2.bus.trans (hbus.trans h1.bus))
  case runs => exact (congrArg (fun k => k.runs.get r) (h3.blk trivial)).trans hruns
  case waits => exact (congrArg (fun k => k.waits.get r) (h3.blk trivial)).trans hwaits
  case events =>
    have hev : d.chip.events = s.chip.events :=
      h3.events.trans (h2.events.trans ((congrArg ChipState.events hchip).trans h1.events))
    exact ⟨e, congrArg (· ++ [e]) hev, he⟩
  case run => exact h3.run.trans (h2.run.trans ((congrArg InjState.run hinj).trans h1.run))
  case mem =>
    intro hrun hwait
    rw [← h1.blk trivial, ← hblk] at hrun hwait
    exact (h3.mem trivial).trans ((hdrop hrun hwait).trans (hmem.trans (h1.mem trivial)))
  case told => exact htold (State.canRise_low (by omega) hawake)
  case rises =>
    intro n hn
    refine h3.rises n (h2.rises n ?_)
    rw [State.pendingSource, hplic]
    exact h1.rises n hn

end Sys2Proof.Machine
end

section
/-! Faults that fence their region (R36, R75, R244, R307; 10): the detectors of rails, clocks, margins, sequencers and fusion engines. -/
namespace Sys2Proof.Machine

variable {s t u : State} {r det : Nat}

/-- A command whose last act is the fence of a region, after what leaves SYS, the requests, the events and memory as they were. -/
theorem Fences.of_fence {c : Instr} (e : exec c s = .next t) (h : FenceOf r det u t) (hreg : ∀ q, q < 0x10000 → u.reg q = s.reg q)
    (hbus : u.bus = s.bus) (hblk : u.blk = s.blk) (hev : u.chip.events = s.chip.events) (hmem : u.mem = s.mem) : Fences c s r det := by
  have hfen (q : Nat) : u.fenced q = s.fenced q := by
    simp only [State.fenced, State.flag, hreg Reg.sysFence (by decide)]
  have hmode : t.mode = s.mode := by
    have ht : t.reg Reg.sysMode = u.reg Reg.sysMode := h.regs _ ⟨apart_sys (by decide), by decide⟩
    simp only [State.mode, State.fld, ht, hreg Reg.sysMode (by decide)]
  refine ⟨t, e, h.fenced, fun q hq => (h.others q hq).trans (hfen q), hmode, h.bus.trans hbus, h.runs, h.waits, ?_, ?_, h.told⟩
  · rw [← hev]
    exact h.events
  · rw [← hblk, ← hmem]
    exact h.mem

/-- The same after operations that keep what `Steady` names. -/
theorem Fences.of_steady {c : Instr} (e : exec c s = .next t) (h : FenceOf r det u t) (k : Steady True s u) : Fences c s r det :=
  .of_fence e h (fun q hq => k.regs q (apart_sys (by omega))) k.bus (k.blk trivial) k.events (k.mem trivial)

/-! ### Rails (R75) -/

section
variable {rail : Nat} (hr : s.variant.hasRail rail = true)
include hr

theorem exec_railFault : exec (.railFault rail) s = .next (((s.setFlag Reg.pmuRails rail false).raise 10).fence Region.link 0x1A none false) := by
  show execRailFault rail s = _
  rw [execRailFault, if_pos hr]
  rfl

theorem Variant.hasRail_lt : rail < 32 := by
  unfold Variant.hasRail at hr
  split at hr
  · omega
  · have hle : rail ≤ 3 := of_decide_eq_true (Bool.and_eq_true_iff.1 hr).1
    omega

theorem railFault_fences (ha : s.awake = true) (hf : s.fenced Region.link = false) :
    Fences (.railFault rail) s Region.link 0x1A ∧
      Completes (.railFault rail) s fun t => t.flag Reg.pmuRails rail = false ∧ t.pendingSource 10 = true := by
  have e := exec_railFault hr
  obtain ⟨u, hu⟩ : ∃ u, (s.setFlag Reg.pmuRails rail false).raise 10 = u := ⟨_, rfl⟩
  have hreg : ∀ q, q < 0x10000 → u.reg q = s.reg q := by
    intro q hq
    rw [← hu, State.raise_reg, State.setFlag_eq]
    exact State.reg_setReg_ne s _ q _ (by simp only [Reg.pmuRails]; omega)
  have hrail : u.flag Reg.pmuRails rail = false := by
    rw [← hu, State.raise_flag]
    exact s.flag_setFlag _ rail false (Variant.hasRail_lt hr)
  have hsame : u.bus = s.bus ∧ u.blk = s.blk ∧ u.chip = s.chip ∧ u.mem = s.mem := by simp [← hu]
  have hawake : u.awake = true := by
    rw [← ha]
    simp only [State.awake, State.mode, State.fld, hreg Reg.sysMode (by decide)]
  have hfen : u.fenced Region.link = false := by
    rw [← hf]
    simp only [State.fenced, State.flag, hreg Reg.sysFence (by decide)]
  have htold : u.pendingSource 10 = true := by
    rw [← hu] at hawake ⊢
    refine State.raise_rises _ 10 (State.canRise_low (by omega) ?_)
    simpa only [State.awake, State.raise_mode] using hawake
  rw [hu] at e
  obtain ⟨hbus, hblk, hchip, hmem⟩ := hsame
  have hfence := State.fence_fences (det := 0x1A) (parent := none) (injected := false) (by decide) hfen hawake
  refine ⟨.of_fence e hfence hreg hbus hblk (congrArg ChipState.events hchip) hmem, _, e, ?_, hfence.rises 10 htold⟩
  rw [State.flag, hfence.regs _ ⟨apart_sys (by decide), by decide⟩]
  exact hrail

end

/-! ### Clocks, margins and sequencers (R244, R307, R668) -/

theorem clockMonitorFault_fences (ha : s.awake = true) (hr : r < 4) (hf : s.fenced r = false) : Fences (.clockMonitorFault r) s r 0x16 := by
  have e : exec (.clockMonitorFault r) s = .next (s.fence r 0x16 none false) := by
    show execClockMonitorFault r s = _
    rw [execClockMonitorFault, if_pos hr]
  exact .of_steady e (State.fence_fences hr hf ha) (.refl s)

theorem timingMarginFault_fences (ha : s.awake = true) (hr : r < 4) (hf : s.fenced r = false) : Fences (.timingMarginFault r true) s r 0x1D := by
  have e : exec (.timingMarginFault r true) s = .next (s.fence r 0x1D none false) := by
    show execTimingMarginFault r true s = _
    rw [execTimingMarginFault, if_pos rfl, State.regionFails, if_pos hr]
  exact .of_steady e (State.fence_fences hr hf ha) (.refl s)

theorem sequencerHalt_fences {n : Nat} (ha : s.awake = true) (hn : n < s.variant.lathes) (h4 : n < 4) (hf : s.fenced Region.solve = false) :
    Fences (.sequencerHalt n) s Region.solve 0x0F := by
  have hk := (Steady.refl (M := True) s).detect { det := 0x0F, level := 2, loc := location 1 (0x10 + n) 0, action := Act.fenced }
  generalize hd : s.detect { det := 0x0F, level := 2, loc := location 1 (0x10 + n) 0, action := Act.fenced } = p at hk
  have e : exec (.sequencerHalt n) s = .next (p.1.fence Region.solve 0x0F (some p.2) false) := by
    have h : ¬ (s.variant.lathes ≤ n % 4 ∨ s.fenced Region.solve = true) := by simp [hf, Nat.mod_eq_of_lt h4]; omega
    show execSequencerHalt n s = _
    rw [execSequencerHalt, if_neg h, Nat.mod_eq_of_lt h4, hd]
  exact .of_steady e (State.fence_fences (by decide) ((hk.fenced _).trans hf) (hk.awake.trans ha)) hk

/-- The clock of a DFS region goes down by 100 MHz, not below its least. -/
def State.lowerClock (s : State) (i : Nat) : State :=
  s.setFld (State.dfsReg i) 10 0 (max (s.dfsMin i) (s.fld (State.dfsReg i) 10 0 - 100))

/-- The clock that a short negative margin of a region lowers, if DFS has one. -/
def dfsOf (r : Nat) : Option Nat := if r = Region.control then some 0 else if r = Region.sense then some 1 else none

theorem exec_timingMarginFault_short (s : State) (r : Nat) : exec (.timingMarginFault r false) s =
    let u := s.detected { det := 0x1D, level := 3, loc := location r 0xFF 0, action := Act.none }
    .next (if u.loopActs Loop.dfs then (dfsOf r).elim u u.lowerClock else u) := by
  show execTimingMarginFault r false s = _
  rw [execTimingMarginFault, if_neg (by decide)]
  generalize s.detected { det := 0x1D, level := 3, loc := location r 0xFF 0, action := Act.none } = u
  cases hl : u.loopActs Loop.dfs
  · simp [hl]
  · simp only [hl, Bool.not_true, Bool.false_eq_true, if_false, if_true, dfsOf]
    split_ifs <;> rfl

theorem apart_dfsReg (i : Nat) : Apart (State.dfsReg i) := by
  unfold State.dfsReg
  split <;> decide

theorem State.fld_lowerClock (s : State) (i : Nat) (h : s.dfsMin i < 2048) :
    (s.lowerClock i).fld (State.dfsReg i) 10 0 = max (s.dfsMin i) (s.fld (State.dfsReg i) 10 0 - 100) := by
  have hf : s.fld (State.dfsReg i) 10 0 < 2048 := Nat.mod_lt _ (by decide)
  rw [State.lowerClock, State.fld_setFld _ _ _ _ _ (by decide) (by decide), Nat.mod_eq_of_lt]
  exact Nat.max_lt.2 ⟨h, by omega⟩

/-- R244, R250: a short negative margin lowers the clock of its region while DFS acts. -/
theorem timingMarginFault_lowers (s : State) (r : Nat) : Completes (.timingMarginFault r false) s fun t =>
    OnlyRegsFlt s t (if r = Region.control then [State.dfsReg 0] else if r = Region.sense then [State.dfsReg 1] else []) ∧
    (∀ i, (r = Region.control ∧ i = 0) ∨ (r = Region.sense ∧ i = 1) → s.dfsMin i < 2048 →
      t.fld (State.dfsReg i) 10 0 =
        if s.loopActs Loop.dfs = true then max (s.dfsMin i) (s.fld (State.dfsReg i) 10 0 - 100) else s.fld (State.dfsReg i) 10 0) := by
  refine ⟨_, exec_timingMarginFault_short s r, ?_⟩
  have hu := (Steady.refl (M := True) s).detected { det := 0x1D, level := 3, loc := location r 0xFF 0, action := Act.none }
  have honly := s.detected_only { det := 0x1D, level := 3, loc := location r 0xFF 0, action := Act.none }
  have hreg := s.detected_reg { det := 0x1D, level := 3, loc := location r 0xFF 0, action := Act.none }
  generalize s.detected { det := 0x1D, level := 3, loc := location r 0xFF 0, action := Act.none } = u at hu honly hreg ⊢
  have hacts : u.loopActs Loop.dfs = s.loopActs Loop.dfs := by
    simp only [State.loopActs, hu.flag (show Apart Reg.adpEnable by decide), hu.flag (show Apart Reg.adpFreeze by decide)]
  have hmin (i : Nat) : u.dfsMin i = s.dfsMin i := by rw [honly]; rfl
  have hframe : OnlyRegsFlt s u [] := ⟨by rw [honly], fun q _ hq => hreg q hq⟩
  have hfld (i : Nat) : u.fld (State.dfsReg i) 10 0 = s.fld (State.dfsReg i) 10 0 := hu.fld (apart_dfsReg i) 10 0
  have hwhich : (if r = Region.control then [State.dfsReg 0] else if r = Region.sense then [State.dfsReg 1] else []) =
      (dfsOf r).toList.map State.dfsReg := by
    unfold dfsOf
    split_ifs <;> rfl
  have hindex (i : Nat) (h : (r = Region.control ∧ i = 0) ∨ (r = Region.sense ∧ i = 1)) : dfsOf r = some i := by
    obtain ⟨rfl, rfl⟩ | ⟨rfl, rfl⟩ := h <;> rfl
  dsimp only
  rw [hacts, hwhich]
  cases hl : s.loopActs Loop.dfs with
  | false => exact ⟨⟨hframe.1, fun q _ hq => hreg q hq⟩, fun i _ _ => hfld i⟩
  | true =>
    cases hd : dfsOf r with
    | none => exact ⟨hframe, fun i hi => by simp [hindex i hi] at hd⟩
    | some k =>
      refine ⟨OnlyRegsFlt.setReg ⟨hframe.1, fun q _ hq => hreg q hq⟩ (by simp) _, fun i hi hm => ?_⟩
      · obtain rfl : i = k := Option.some.inj ((hindex i hi).symm.trans hd)
        rw [← hmin] at hm ⊢
        rw [← hfld]
        exact u.fld_lowerClock i hm

end Sys2Proof.Machine
end

section
/-! A fusion engine halts (10): its graphs move to the other engine, or Sense is fenced. -/
namespace Sys2Proof.Machine

variable {s t u : State} {e : Nat}

/-- Graphs go over to an engine. -/
def State.moveGraphs (s : State) (gs : List Nat) (e : Nat) : State := gs.foldl (fun s g => s.setFld (Reg.fusGcfg g) 29 28 e) s

theorem State.setReg_only (h : u = { s with regs := u.regs }) (r : Nat) (v : Word) : u.setReg r v = { s with regs := (u.setReg r v).regs } :=
  congrArg (fun x => x.setReg r v) h

theorem State.moveGraphs_only (s : State) (gs : List Nat) (e : Nat) : s.moveGraphs gs e = { s with regs := (s.moveGraphs gs e).regs } :=
  List.foldlRecOn (motive := fun u : State => u = { s with regs := u.regs }) gs _ rfl fun _ hu _ _ => State.setReg_only hu _ _

theorem State.moveGraphs_reg (s : State) (gs : List Nat) (e : Nat) : RegsKept (fun q => q ≤ Reg.fusStatus) s (s.moveGraphs gs e) := by
  refine (RegsKept.refl s).foldl fun u g _ hu => hu.setFld 29 28 e ?_
  simp only [Reg.fusGcfg, Reg.fusStatus]
  omega

/-- Every graph moved is the other engine's. -/
theorem State.moveGraphs_fld (s : State) (gs : List Nat) (he : e < 4) : ∀ g ∈ gs, (s.moveGraphs gs e).fld (Reg.fusGcfg g) 29 28 = e := by
  have hset (u : State) (k : Nat) : (u.setFld (Reg.fusGcfg k) 29 28 e).fld (Reg.fusGcfg k) 29 28 = e := by
    rw [State.fld_setFld _ _ _ _ _ (by decide) (by decide)]
    exact Nat.mod_eq_of_lt he
  -- a graph that has moved stays moved
  have hstay (g : Nat) (gs : List Nat) (u : State) (hu : u.fld (Reg.fusGcfg g) 29 28 = e) : (u.moveGraphs gs e).fld (Reg.fusGcfg g) 29 28 = e := by
    refine List.foldlRecOn (motive := fun u : State => u.fld (Reg.fusGcfg g) 29 28 = e) gs _ hu fun u hu k _ => ?_
    by_cases hk : Reg.fusGcfg k = Reg.fusGcfg g
    · rw [← hk]
      exact hset u k
    · rw [State.fld, State.setFld, State.reg_setReg_ne u _ _ _ (Ne.symm hk)]
      exact hu
  induction gs generalizing s with
  | nil => simp
  | cons k gs ih =>
    intro g hg
    obtain rfl | hg := List.mem_cons.1 hg
    · exact hstay g gs _ (hset s g)
    · exact ih _ g hg

/-- The graphs that an engine runs. -/
def State.graphsOn (s : State) (e : Nat) : List Nat := (List.range s.ngraph).filter fun g => s.fld (Reg.fusGcfg g) 29 28 == e

/-- A graph may run on either engine, and the one other than `e` runs. -/
def State.graphMoves (s : State) (e g : Nat) : Bool := s.graphByte g 1 % 4 == 3 && s.flag Reg.fusStatus (31 - e)

/-- The engine is shown halted, and the graphs that can run elsewhere do so. -/
def State.stopFusion (s : State) (e : Nat) : State :=
  let u := (s.setFlag Reg.fusStatus (30 + e) false).moveGraphs ((s.graphsOn e).filter (s.graphMoves e)) (1 - e)
  if (s.graphsOn e).any (s.graphMoves e) then u.raise 330 else u

section
variable (he : e < 2) (hfus : s.variant.hasFus = true) (hf : e < s.variant.fusion) (hup : s.flag Reg.fusStatus (30 + e) = true)
  (hsense : s.fenced Region.sense = false)
include he hfus hf hup hsense

theorem exec_fusionEngineHalt : exec (.fusionEngineHalt e) s =
    let d := (s.stopFusion e).detect { det := 0x12, level := 2, loc := location 2 (0x8C + e) 0, action := Act.replaced, detail := e }
    .next (if (s.graphsOn e).all (s.graphMoves e) then d.1 else d.1.fence 2 0x12 (some d.2) false) := by
  have hflag : (s.setFlag Reg.fusStatus (30 + e) false).flag Reg.fusStatus (31 - e) = s.flag Reg.fusStatus (31 - e) :=
    s.flag_setFlag_ne _ _ _ _ (by omega) (by omega)
  have hmoves (g : Nat) : (s.setFlag Reg.fusStatus (30 + e) false).graphMoves e g = s.graphMoves e g := by
    rw [State.graphMoves, hflag]
    rfl
  have hon : (s.setFlag Reg.fusStatus (30 + e) false).graphsOn e = s.graphsOn e := by
    have hfld (g : Nat) : (s.setFlag Reg.fusStatus (30 + e) false).fld (Reg.fusGcfg g) 29 28 = s.fld (Reg.fusGcfg g) 29 28 := by
      rw [State.fld, State.setFlag, State.setFld, State.reg_setReg_ne s _ _ _ (by simp only [Reg.fusGcfg, Reg.fusStatus]; omega)]
      rfl
    simp only [State.graphsOn, hfld]
    rfl
  show execFusionEngineHalt e s = _
  rw [execFusionEngineHalt, Nat.mod_eq_of_lt he, if_pos ⟨hfus, hf, hup, hsense⟩]
  have hm : (fun g => (s.setFlag Reg.fusStatus (30 + e) false).graphByte g 1 % 4 == 3 &&
      (s.setFlag Reg.fusStatus (30 + e) false).flag Reg.fusStatus (31 - e)) = s.graphMoves e := funext hmoves
  simp only [State.stopFusion]
  rw [← hon]
  simp only [← hm]
  rfl

omit hfus hf hup hsense in
/-- What halting an engine leaves: SYS as it was, the engine down, the graphs that can move on the other engine, with source 330. -/
theorem State.stopFusion_frame (s : State) : (∀ q, q < Reg.fusStatus → (s.stopFusion e).reg q = s.reg q) ∧
    (s.stopFusion e).variant = s.variant ∧ (s.stopFusion e).flag Reg.fusStatus (30 + e) = false ∧
    (∀ g ∈ (s.graphsOn e).filter (s.graphMoves e), (s.stopFusion e).fld (Reg.fusGcfg g) 29 28 = 1 - e) ∧
    ((s.graphsOn e).any (s.graphMoves e) = true → Rises s (s.stopFusion e) 330) := by
  obtain ⟨a, ha⟩ : ∃ a, s.setFlag Reg.fusStatus (30 + e) false = a := ⟨_, rfl⟩
  have hdown : a.flag Reg.fusStatus (30 + e) = false := by rw [← ha]; exact s.flag_setFlag _ _ _ (by omega)
  have hreg : ∀ q, q < Reg.fusStatus → a.reg q = s.reg q := fun q hq => by
    rw [← ha]; exact State.reg_setReg_ne s _ q _ (Nat.ne_of_lt hq)
  have hvar : a.variant = s.variant := by rw [← ha]; rfl
  have honly := a.moveGraphs_only ((s.graphsOn e).filter (s.graphMoves e)) (1 - e)
  have hkept := a.moveGraphs_reg ((s.graphsOn e).filter (s.graphMoves e)) (1 - e)
  have hfld := State.moveGraphs_fld (s := a) ((s.graphsOn e).filter (s.graphMoves e)) (e := 1 - e) (by omega)
  unfold State.stopFusion
  rw [ha]
  generalize a.moveGraphs ((s.graphsOn e).filter (s.graphMoves e)) (1 - e) = b at honly hkept hfld ⊢
  have hb : b.variant = s.variant := (by rw [honly] : b.variant = a.variant).trans hvar
  have hbreg (q : Nat) (hq : q < Reg.fusStatus) : b.reg q = s.reg q := (hkept q (Nat.le_of_lt hq)).trans (hreg q hq)
  have hbdown : b.flag Reg.fusStatus (30 + e) = false := by
    rw [← hdown, State.flag, hkept _ (Nat.le_refl _)]
    rfl
  dsimp only
  split
  · refine ⟨fun q hq => (State.raise_reg ..).trans (hbreg q hq), by rw [State.raise_variant, hb], by rw [State.raise_flag, hbdown],
      fun g hg => by rw [State.raise_fld, hfld g hg], fun _ hs => State.raise_rises b 330 ?_⟩
    simpa only [State.canRise, State.awake, State.mode, State.fld, hb, hbreg Reg.sysMode (by decide)] using hs
  · next hany => exact ⟨hbreg, hb, hbdown, hfld, fun h => absurd h hany⟩

/-- An engine that halts leaves its graphs to the other, or Sense is fenced. -/
theorem fusionEngineHalt_completes (ha : s.awake = true) : Completes (.fusionEngineHalt e) s fun t =>
    t.flag Reg.fusStatus (30 + e) = false ∧ t.mode = s.mode ∧
      if (s.graphsOn e).all (s.graphMoves e) then t.fenced Region.sense = false ∧
        (∀ g ∈ s.graphsOn e, t.fld (Reg.fusGcfg g) 29 28 = 1 - e) ∧ (s.graphsOn e ≠ [] → Rises s t 330)
      else t.fenced Region.sense = true := by
  refine ⟨_, exec_fusionEngineHalt he hfus hf hup hsense, ?_⟩
  obtain ⟨hreg, hvar, hdown, hgraphs, htold⟩ := s.stopFusion_frame he
  generalize s.stopFusion e = a at hreg hvar hdown hgraphs htold ⊢
  have hmode : a.mode = s.mode := by simp only [State.mode, State.fld, hreg Reg.sysMode (by decide)]
  have hfen : a.fenced Region.sense = false := by
    rw [← hsense]
    simp only [State.fenced, State.flag, hreg Reg.sysFence (by decide)]
  have hd := (Steady.refl (M := True) a).detect
    { det := 0x12, level := 2, loc := location 2 (0x8C + e) 0, action := Act.replaced, detail := e }
  generalize a.detect { det := 0x12, level := 2, loc := location 2 (0x8C + e) 0, action := Act.replaced, detail := e } = d at hd ⊢
  have hstat : Apart Reg.fusStatus := by decide
  split
  · next hall =>
    refine ⟨(hd.flag hstat _).trans hdown, hd.mode.trans hmode, (hd.fenced _).trans hfen, fun g hg => ?_, fun hne hs => hd.rises _ ?_⟩
    · have hg' : g ∈ (s.graphsOn e).filter (s.graphMoves e) := List.mem_filter.2 ⟨hg, List.all_eq_true.1 hall g hg⟩
      have hgcfg : Apart (Reg.fusGcfg g) := by
        have hlt : g < 64 := by
          have := List.mem_range.1 (List.mem_filter.1 hg).1
          simp only [State.ngraph] at this
          omega
        have hw : Reg.fusGcfg g / 0x10000 = 0x20 := by simp only [Reg.fusGcfg]; omega
        rw [Apart, hw]
        decide
      exact (hd.fld hgcfg 29 28).trans (hgraphs g hg')
    · obtain ⟨g, hg⟩ := List.exists_mem_of_ne_nil _ hne
      exact htold (List.any_eq_true.2 ⟨g, hg, List.all_eq_true.1 hall g hg⟩) hs
  · have hawake : d.1.awake = true := by rw [hd.awake, ← ha, State.awake, hmode, State.awake]
    have hf := State.fence_fences (det := 0x12) (parent := some d.2) (injected := false) (r := Region.sense) (by decide) ((hd.fenced _).trans hfen) hawake
    have hkept {q : Nat} (hq : Apart q) (hne : q ≠ Reg.sysFence) : (d.1.fence 2 0x12 (some d.2) false).reg q = a.reg q :=
      (hf.regs q ⟨hq, hne⟩).trans (hd.regs q hq)
    refine ⟨?_, ?_, hf.fenced⟩
    · rw [State.flag, hkept hstat (by decide)]
      exact hdown
    · rw [← hmode, State.mode, State.fld, hkept (apart_sys (by decide)) (by decide)]
      rfl

end

theorem fusionEngineHalt_idles (he : e < 2)
    (h : ¬ (s.variant.hasFus = true ∧ e < s.variant.fusion ∧ s.flag Reg.fusStatus (30 + e) = true ∧ s.fenced Region.sense = false)) :
    Idles (.fusionEngineHalt e) s := by
  show execFusionEngineHalt e s = _
  rw [execFusionEngineHalt, Nat.mod_eq_of_lt he, if_neg h]

theorem State.graphsMove_iff (s : State) (e : Nat) : (s.graphsOn e).all (s.graphMoves e) = true ↔
    ∀ g ∈ (List.range s.ngraph).filter fun g => s.fld (Reg.fusGcfg g) 29 28 == e,
      s.graphByte g 1 % 4 = 3 ∧ s.flag Reg.fusStatus (31 - e) = true := by
  simp only [List.all_eq_true, State.graphMoves, Bool.and_eq_true, beq_iff_eq, State.graphsOn]

/-- Settles O10: each fault ends in the fence of its region; a short margin lowers a clock, and a fusion engine's graphs may move. -/
theorem uncontainedFaultsFenceTheirRegion : Obligations.UncontainedFaultsFenceTheirRegion := by
  refine ⟨fun s ha => ⟨fun rail hr hf => railFault_fences hr ha hf, fun r hr hf => clockMonitorFault_fences ha hr hf,
    fun r hr hf => timingMarginFault_fences ha hr hf, fun n hn h4 hf => sequencerHalt_fences ha hn h4 hf, fun e he => ?_⟩,
    timingMarginFault_lowers⟩
  dsimp only
  split
  · next h =>
    obtain ⟨hfus, hf, hup, hsense⟩ := h
    have hc := fusionEngineHalt_completes he hfus hf hup hsense ha
    simp only [State.graphsMove_iff] at hc
    exact hc
  · next h => exact fusionEngineHalt_idles he h

end Sys2Proof.Machine
end

section
/-! Fields, flags and numbers of registers after a write of the same or of another register. -/
namespace Sys2Proof.Machine

variable (s : State) {q r : Nat}

theorem State.num_setReg_ne (v : Word) (h : q ≠ r) : (s.setReg r v).num q = s.num q := by rw [State.num, State.reg_setReg_ne s r q v h, State.num]
theorem State.fld_setReg_ne (v : Word) (hi lo : Nat) (h : q ≠ r) : (s.setReg r v).fld q hi lo = s.fld q hi lo := by
  rw [State.fld, State.reg_setReg_ne s r q v h, State.fld]
theorem State.flag_setReg_ne (v : Word) (b : Nat) (h : q ≠ r) : (s.setReg r v).flag q b = s.flag q b := by
  rw [State.flag, State.reg_setReg_ne s r q v h, State.flag]

theorem State.num_setNum (r v : Nat) (h : v < 2 ^ 32) : (s.setNum r v).num r = v := by
  rw [State.num, State.setNum, State.reg_setReg_same, BitVec.toNat_ofNat, Nat.mod_eq_of_lt h]

/-- The field that spans a register is the register. -/
theorem State.fld_word (r : Nat) : s.fld r 31 0 = s.num r := by
  have h : (s.reg r).toNat < 2 ^ 32 := (s.reg r).isLt
  rw [State.fld, field, State.num, pow_zero, Nat.div_one]
  exact Nat.mod_eq_of_lt h

/-- A field that saturates holds the sum or its largest value. -/
theorem State.fld_bump (r hi lo n : Nat) (hl : lo ≤ hi) (h : hi < 32) :
    (s.bump r hi lo n).fld r hi lo = min (2 ^ (hi + 1 - lo) - 1) (s.fld r hi lo + n) := by
  have hp : 0 < 2 ^ (hi + 1 - lo) := by positivity
  rw [State.bump, State.fld_setFld _ _ _ _ _ hl h]
  exact Nat.mod_eq_of_lt (by omega)

theorem State.num_bump (r n : Nat) : (s.bump r 31 0 n).num r = min (2 ^ 32 - 1) (s.num r + n) := by
  rw [← State.fld_word, State.fld_bump _ _ _ _ _ (by decide) (by decide), State.fld_word]

/-- A field that rolls over holds the sum modulo its width. -/
theorem State.fld_roll (r hi lo n : Nat) (hl : lo ≤ hi) (h : hi < 32) :
    (s.roll r hi lo n).fld r hi lo = (s.fld r hi lo + n) % 2 ^ (hi + 1 - lo) := State.fld_setFld _ _ _ _ _ hl h

end Sys2Proof.Machine
end

section
/-! The memory controllers (01): scrubbing (R48), training (R52, R53) and refresh (R58) of LPDDR5. -/
namespace Sys2Proof.Machine

variable {s : State}

/-! ### The scrubber (R48) -/

/-- The counts of a pass: one pass more, and the corrected words. -/
def State.countScrub (s : State) (n : Nat) : State :=
  (((s.roll Reg.sysScrubStat 31 16 1).bump Reg.sysScrubStat 15 0 n).bump Reg.fltCeSram 31 0 n).bump (Reg.fltDcount 1) 31 0 n

/-- The pass ends at the present time. -/
def State.markScrub (s : State) : State := { s with chip := { s.chip with scrubbed := s.chip.up } }

/-- The state at the end of the pass: PERIOD after the one before. -/
def State.scrubEnd (s : State) : State := (s.elapse ((s.chip.scrubbed + s.scrubPeriod - s.chip.up + 3) / 4)).markScrub

/-- The words of the addresses that are SRAM words there are. -/
def State.sramWords (s : State) (bad : List Nat) : List Nat :=
  (bad.map fun a => a / 8 * 8).filter fun a => memoryKind a == some 0 && !s.memAbsent a

theorem State.sramWords_nil (s : State) : s.sramWords [] = [] := rfl

theorem exec_scrubPass (ha : s.awake = true) (hs : s.flag Reg.sysScrub 16 = true) (n : Nat) (bad : List Nat) :
    exec (.scrubPass n bad) s = .next
      ((((s.scrubEnd.countScrub n).sramWords bad).foldl (fun s a => s.refuseWord none 0 a) (s.scrubEnd.countScrub n)).raise 6) := by
  have h : ¬ (!s.awake || !s.flag Reg.sysScrub 16) = true := by simp [ha, hs]
  show execScrubPass n bad s = _
  rw [execScrubPass, if_neg h]
  rfl

theorem scrubPass_idles (n : Nat) (bad : List Nat) (hs : s.flag Reg.sysScrub 16 = false) : Idles (.scrubPass n bad) s := by
  have h : (!s.awake || !s.flag Reg.sysScrub 16) = true := by simp [hs]
  show execScrubPass n bad s = _
  rw [execScrubPass, if_pos h]

theorem State.countScrub_onlyRegs (s : State) (n : Nat) : OnlyRegs s (s.countScrub n) [Reg.sysScrubStat, Reg.fltCeSram, Reg.fltDcount 1] :=
  ((((OnlyRegs.refl s _).setReg (by simp) _).setReg (by simp) _).setReg (by simp) _).setReg (by simp) _

theorem State.countScrub_counts (s : State) (n : Nat) :
    (s.countScrub n).fld Reg.sysScrubStat 31 16 = (s.fld Reg.sysScrubStat 31 16 + 1) % 65536 ∧
      (s.countScrub n).fld Reg.sysScrubStat 15 0 = min 65535 (s.fld Reg.sysScrubStat 15 0 + n) ∧
      (s.countScrub n).num Reg.fltCeSram = min (2 ^ 32 - 1) (s.num Reg.fltCeSram + n) ∧
      (s.countScrub n).num (Reg.fltDcount 1) = min (2 ^ 32 - 1) (s.num (Reg.fltDcount 1) + n) := by
  unfold State.countScrub
  refine ⟨?_, ?_, ?_, ?_⟩
  · rw [State.bump, State.setFld, State.fld_setReg_ne _ _ _ _ (by decide), State.bump, State.setFld, State.fld_setReg_ne _ _ _ _ (by decide),
      State.bump, State.fld_setFld_ne _ _ _ _ _ _ _ (by decide) (by decide) (by decide), State.fld_roll _ _ _ _ _ (by decide) (by decide)]
    rfl
  · rw [State.bump, State.setFld, State.fld_setReg_ne _ _ _ _ (by decide), State.bump, State.setFld, State.fld_setReg_ne _ _ _ _ (by decide),
      State.fld_bump _ _ _ _ _ (by decide) (by decide), State.roll, State.fld_setFld_ne _ _ _ _ _ _ _ (by decide) (by decide) (by decide)]
    rfl
  · rw [State.bump, State.setFld, State.num_setReg_ne _ _ (by decide), State.num_bump, State.bump, State.setFld, State.num_setReg_ne _ _ (by decide),
      State.roll, State.setFld, State.num_setReg_ne _ _ (by decide)]
  · rw [State.num_bump, State.bump, State.setFld, State.num_setReg_ne _ _ (by decide), State.bump, State.setFld, State.num_setReg_ne _ _ (by decide),
      State.roll, State.setFld, State.num_setReg_ne _ _ (by decide)]

theorem Steady.markScrub {M : Prop} {z u : State} (h : Steady M z u) : Steady M z u.markScrub := h.alter rfl

theorem State.scrubEnd_steady {M : Prop} (s : State) : Steady M s s.scrubEnd := ((Steady.refl s).elapse _).markScrub

theorem State.countScrub_kept (s : State) (n : Nat) : (s.countScrub n).variant = s.variant ∧ (s.countScrub n).mem = s.mem ∧
    (s.countScrub n).plic = s.plic ∧ (s.countScrub n).bus = s.bus ∧ (s.countScrub n).mode = s.mode ∧
    (s.countScrub n).reg Reg.sysMemsize = s.reg Reg.sysMemsize := by
  obtain ⟨honly, hreg⟩ := s.countScrub_onlyRegs n
  have hmode : (s.countScrub n).reg Reg.sysMode = s.reg Reg.sysMode := hreg _ (by decide)
  refine ⟨by simp [State.countScrub], by simp [State.countScrub], by simp [State.countScrub], by simp [State.countScrub], ?_,
    hreg _ (by decide)⟩
  simp only [State.mode, State.fld, hmode]

theorem State.markScrub_counts (u : State) (n : Nat) : let t := (u.markScrub.countScrub n).raise 6
    t.bus = u.bus ∧ Raised u t [6] ∧
      OnlyRegs { u with chip := { u.chip with scrubbed := u.chip.up } } t [Reg.sysScrubStat, Reg.fltCeSram, Reg.fltDcount 1] ∧
      t.fld Reg.sysScrubStat 31 16 = (u.fld Reg.sysScrubStat 31 16 + 1) % 65536 ∧
      t.fld Reg.sysScrubStat 15 0 = min 65535 (u.fld Reg.sysScrubStat 15 0 + n) ∧
      t.num Reg.fltCeSram = min (2 ^ 32 - 1) (u.num Reg.fltCeSram + n) ∧
      t.num (Reg.fltDcount 1) = min (2 ^ 32 - 1) (u.num (Reg.fltDcount 1) + n) := by
  intro t
  obtain ⟨hvar, -, hplic, hbus, hmode, -⟩ := u.markScrub.countScrub_kept n
  obtain ⟨hpass, hcorr, hsram, hdet⟩ := u.markScrub.countScrub_counts n
  refine ⟨?_, Raised.single (s := u) hvar hmode hplic 6, (u.markScrub.countScrub_onlyRegs n).raise 6, ?_⟩
  · rw [State.raise_bus, hbus]; rfl
  · simp only [t, State.raise_fld, State.raise_num]
    exact ⟨hpass, hcorr, hsram, hdet⟩

/-- A pass that meets no bad word counts, and raises source 6. -/
theorem scrubPass_counts (ha : s.awake = true) (hs : s.flag Reg.sysScrub 16 = true) (n : Nat) :
    let u := s.elapse ((s.chip.scrubbed + s.scrubPeriod - s.chip.up + 3) / 4)
    Completes (.scrubPass n []) s fun t => t.bus = s.bus ∧ Raised u t [6] ∧
      OnlyRegs { u with chip := { u.chip with scrubbed := u.chip.up } } t [Reg.sysScrubStat, Reg.fltCeSram, Reg.fltDcount 1] ∧
      t.fld Reg.sysScrubStat 31 16 = (u.fld Reg.sysScrubStat 31 16 + 1) % 65536 ∧
      t.fld Reg.sysScrubStat 15 0 = min 65535 (u.fld Reg.sysScrubStat 15 0 + n) ∧
      t.num Reg.fltCeSram = min (2 ^ 32 - 1) (u.num Reg.fltCeSram + n) ∧
      t.num (Reg.fltDcount 1) = min (2 ^ 32 - 1) (u.num (Reg.fltDcount 1) + n) := by
  have hbus := ((Steady.refl (M := True) s).elapse ((s.chip.scrubbed + s.scrubPeriod - s.chip.up + 3) / 4)).bus
  have e := exec_scrubPass ha hs n []
  rw [State.sramWords_nil, List.foldl_nil, State.scrubEnd] at e
  obtain ⟨hb, hrest⟩ := State.markScrub_counts (s.elapse ((s.chip.scrubbed + s.scrubPeriod - s.chip.up + 3) / 4)) n
  exact ⟨_, e, hb.trans hbus, hrest⟩

theorem State.refuseWord_poison (s : State) (w : Option Who) (k a : Nat) : (s.refuseWord w k a).poison = insertPoison (a / 8 * 8) s.poison := by
  unfold State.refuseWord
  extract_lets u
  have hu : u.poison = insertPoison (a / 8 * 8) s.poison := by simp [u, State.poisonWord, State.recordBadWord]
  split
  · simpa using hu
  · exact hu

/-- Every bad word met is poisoned. -/
theorem State.refuseWords_poison (ws : List Nat) (s : State) : ∀ a, a ∈ s.poison ∨ (a ∈ ws ∧ a / 8 * 8 = a) →
    a ∈ (ws.foldl (fun s a => s.refuseWord none 0 a) s).poison := by
  induction ws generalizing s with
  | nil => simp
  | cons b ws ih =>
    intro a ha
    refine ih _ a ?_
    rw [State.refuseWord_poison, mem_insertPoison]
    rcases ha with ha | ⟨hm, h8⟩
    · exact .inl (.inr ha)
    · obtain rfl | hm := List.mem_cons.1 hm
      · exact .inl (.inl h8.symm)
      · exact .inr ⟨hm, h8⟩

/-- A pass poisons the bad words of SRAM that it meets. -/
theorem scrubPass_poisons (ha : s.awake = true) (hs : s.flag Reg.sysScrub 16 = true) (n : Nat) (bad : List Nat) :
    Completes (.scrubPass n bad) s fun t => t.pendingSource 6 = true ∧ t.mem = s.mem ∧
      ∀ a ∈ bad, memoryKind (a / 8 * 8) = some 0 → s.memAbsent (a / 8 * 8) = false → a / 8 * 8 ∈ t.poison := by
  refine ⟨_, exec_scrubPass ha hs n bad, ?_⟩
  obtain ⟨hvar, hmem, -, -, hmode, hsize⟩ := s.scrubEnd.countScrub_kept n
  have hend := s.scrubEnd_steady (M := True)
  generalize s.scrubEnd.countScrub n = v at hvar hmem hmode hsize ⊢
  have hsteady : Steady True v ((v.sramWords bad).foldl (fun s a => s.refuseWord none 0 a) v) :=
    (Steady.refl v).foldl fun u a _ hu => hu.refuseWord _ _ _
  have hpoison := State.refuseWords_poison (v.sramWords bad) v
  generalize (v.sramWords bad).foldl (fun s a => s.refuseWord none 0 a) v = x at hsteady hpoison ⊢
  refine ⟨?_, ?_, fun a hab hk habs => ?_⟩
  · refine State.raise_rises x 6 (State.canRise_low (by omega) ?_)
    rw [hsteady.awake, ← ha, State.awake, hmode, hend.mode, State.awake]
  · rw [State.raise_mem, hsteady.mem trivial, hmem, hend.mem trivial]
  · have habs' : v.memAbsent (a / 8 * 8) = s.memAbsent (a / 8 * 8) := by
      have hreg : v.reg Reg.sysMemsize = s.reg Reg.sysMemsize := hsize.trans (hend.regs _ (by decide))
      have hv : v.variant = s.variant := hvar.trans hend.variant
      unfold State.memAbsent State.flag State.fld
      rw [hv, hreg]
    rw [State.raise_poison]
    refine hpoison _ (.inr ⟨List.mem_filter.2 ⟨List.mem_map_of_mem hab, ?_⟩, by omega⟩)
    simp [hk, habs', habs]

end Sys2Proof.Machine
end

section
/-! Training and refresh of LPDDR5 (R52, R53, R58). -/
namespace Sys2Proof.Machine

variable {z s t : State}

/-- From `s` to `t` nothing changes but bytes of LPDDR5. -/
def DdrOnly (s t : State) : Prop := (∃ m p, t = { s with mem := m, poison := p }) ∧ ∀ a, a < Addr.ddr → t.byte a = s.byte a

theorem DdrOnly.refl (s : State) : DdrOnly s s := ⟨⟨s.mem, s.poison, rfl⟩, fun _ _ => rfl⟩

theorem DdrOnly.place (h : DdrOnly z s) {a : Nat} (ha : Addr.ddr ≤ a) (bs : List Byte) : DdrOnly z (s.place a bs) := by
  unfold State.place
  split
  · exact h
  · obtain ⟨⟨m, p, e⟩, hb⟩ := h
    refine ⟨⟨(s.poke a bs).mem, (s.poke a bs).poison, ?_⟩, fun b hlt => (State.byte_poke_outside s a b bs (.inl (by omega))).trans (hb b hlt)⟩
    rw [e]
    rfl

theorem DdrOnly.placeInDdr (h : DdrOnly z s) : DdrOnly z s.placeInDdr := by
  refine List.foldlRecOn _ _ h fun u hu p _ => ?_
  extract_lets b o v
  have hv : DdrOnly z v := by
    unfold v
    split
    next ha => exact hu.place ha _
    next => exact hu
  split
  next ha => exact hv.place ha _
  next => exact hv

theorem OnlyRegs.ddr {rs : List Nat} {v : State} (h : OnlyRegs z v rs) (k : DdrOnly v t) :
    OnlyRegs { z with mem := t.mem, poison := t.poison } t rs := by
  obtain ⟨⟨m, p, rfl⟩, -⟩ := k
  exact ⟨congrArg (fun x : State => { x with mem := m, poison := p }) h.1, h.2⟩

/-- A register shows whether training succeeded, and the size. -/
def State.showTrained (s : State) (r hi lo : Nat) (ok : Bool) (size : Nat) : State :=
  ((s.setFlag r 31 ok).setFlag r 30 (!ok)).setFld r hi lo size

theorem State.reg_showTrained_ne (s : State) {q r : Nat} (hi lo : Nat) (ok : Bool) (size : Nat) (h : q ≠ r) :
    (s.showTrained r hi lo ok size).reg q = s.reg q := by
  simp only [State.showTrained, State.setFlag, State.setFld, State.reg_setReg_ne _ r q _ h]

theorem State.showTrained_shows (s : State) (r : Nat) {hi lo : Nat} (hl : lo ≤ hi) (hh : hi < 30) (ok : Bool) (size : Nat) :
    (s.showTrained r hi lo ok size).flag r 31 = ok ∧ (s.showTrained r hi lo ok size).flag r 30 = !ok ∧
      (s.showTrained r hi lo ok size).fld r hi lo = size % 2 ^ (hi + 1 - lo) := by
  refine ⟨?_, ?_, State.fld_setFld _ _ _ _ _ hl (by omega)⟩
  · rw [State.showTrained, State.flag_setFld_ne _ _ _ _ _ _ hl (by omega) (by omega), State.flag_setFlag_ne _ _ _ _ _ (by decide) (by decide),
      State.flag_setFlag _ _ _ _ (by decide)]
  · rw [State.showTrained, State.flag_setFld_ne _ _ _ _ _ _ hl (by omega) (by omega), State.flag_setFlag _ _ _ _ (by decide)]

theorem OnlyRegs.showTrained {rs : List Nat} {r : Nat} (h : OnlyRegs z s rs) (hr : r ∈ rs) (hi lo : Nat) (ok : Bool) (size : Nat) :
    OnlyRegs z (s.showTrained r hi lo ok size) rs := ((h.setReg hr _).setReg hr _).setReg hr _

/-! ### Training (R52, R53) -/

/-- What the registers show once training has ended. -/
def State.showTraining (s : State) (ok : Bool) (size x : Nat) : State :=
  ((s.showTrained Reg.sysMemsize 5 0 ok size).showTrained Reg.ddrStatus 13 8 ok size).setNum Reg.ddrTrain x

theorem State.showTraining_onlyRegs (s : State) (ok : Bool) (size x : Nat) :
    OnlyRegs s (s.showTraining ok size x) [Reg.sysMemsize, Reg.ddrStatus, Reg.ddrTrain] :=
  (((OnlyRegs.refl _ _).showTrained (by simp) _ _ _ _).showTrained (by simp) _ _ _ _).setReg (by simp) _

theorem State.showTraining_shows (s : State) (ok : Bool) (size : Nat) {x : Nat} (hx : x < 2 ^ 32) :
    let t := s.showTraining ok size x
    t.flag Reg.sysMemsize 31 = ok ∧ t.flag Reg.sysMemsize 30 = !ok ∧ t.fld Reg.sysMemsize 5 0 = size % 64 ∧
      t.flag Reg.ddrStatus 31 = ok ∧ t.flag Reg.ddrStatus 30 = !ok ∧ t.num Reg.ddrTrain = x := by
  intro t
  obtain ⟨hok, hfail, hsize⟩ := s.showTrained_shows Reg.sysMemsize (hi := 5) (lo := 0) (by decide) (by decide) ok size
  obtain ⟨hok', hfail', -⟩ := (s.showTrained Reg.sysMemsize 5 0 ok size).showTrained_shows Reg.ddrStatus (hi := 13) (lo := 8)
    (by decide) (by decide) ok size
  have hstat : t.reg Reg.ddrStatus = ((s.showTrained Reg.sysMemsize 5 0 ok size).showTrained Reg.ddrStatus 13 8 ok size).reg Reg.ddrStatus :=
    State.reg_setReg_ne _ _ _ _ (by decide)
  have hmem : t.reg Reg.sysMemsize = (s.showTrained Reg.sysMemsize 5 0 ok size).reg Reg.sysMemsize :=
    (State.reg_setReg_ne _ _ _ _ (by decide)).trans (State.reg_showTrained_ne _ _ _ _ _ (by decide))
  refine ⟨?_, ?_, ?_, ?_, ?_, State.num_setNum _ _ _ hx⟩
  · rw [State.flag, hmem]; exact hok
  · rw [State.flag, hmem]; exact hfail
  · rw [State.fld, hmem]; exact hsize
  · rw [State.flag, hstat]; exact hok'
  · rw [State.flag, hstat]; exact hfail'

/-- No training is awaited. -/
def State.endTraining (s : State) : State := { s with chip := { s.chip with ddrPending := false } }

/-- DDR.TRAIN at the end of training. -/
def trainWord (ok : Bool) (ms lane step : Nat) : Nat := ms % 65536 * 65536 + (if ok then 0xF000 else lane % 16 * 4096 + step % 256)

theorem trainWord_lt (ok : Bool) (ms lane step : Nat) : trainWord ok ms lane step < 2 ^ 32 := by
  unfold trainWord
  split <;> omega

theorem trainWord_ms (ok : Bool) (ms lane step : Nat) : trainWord ok ms lane step / 2 ^ 16 % 2 ^ 16 = ms % 65536 := by
  unfold trainWord
  split <;> omega

/-- The registers at the end of training. -/
def State.trained (s : State) (ok : Bool) (ms lane step : Nat) : State :=
  s.endTraining.showTraining ok (if ok then 7 * s.endTraining.ddrCap else 0) (trainWord ok ms lane step)

theorem State.endTraining_reg (s : State) (r : Nat) : s.endTraining.reg r = s.reg r := rfl
theorem State.endTraining_plic (s : State) : s.endTraining.plic = s.plic := rfl
theorem State.showTrained_plic (s : State) (r hi lo : Nat) (ok : Bool) (size : Nat) : (s.showTrained r hi lo ok size).plic = s.plic :=
  (State.setReg_plic _ _ _).trans ((State.setReg_plic _ _ _).trans (State.setReg_plic s _ _))
theorem State.showTraining_plic (s : State) (ok : Bool) (size x : Nat) : (s.showTraining ok size x).plic = s.plic :=
  (State.setReg_plic _ _ _).trans ((State.showTrained_plic _ _ _ _ _ _).trans (s.showTrained_plic _ _ _ _ _))

theorem State.trained_onlyRegs (s : State) (ok : Bool) (ms lane step : Nat) :
    OnlyRegs s.endTraining (s.trained ok ms lane step) [Reg.sysMemsize, Reg.ddrStatus, Reg.ddrTrain] := State.showTraining_onlyRegs _ _ _ _

theorem State.trained_shows (s : State) (ok : Bool) (ms lane step : Nat) :
    let t := s.trained ok ms lane step
    t.flag Reg.sysMemsize 31 = ok ∧ t.flag Reg.sysMemsize 30 = !ok ∧ t.fld Reg.sysMemsize 5 0 = (if ok then 7 * s.ddrCap else 0) % 64 ∧
      t.flag Reg.ddrStatus 31 = ok ∧ t.flag Reg.ddrStatus 30 = !ok ∧ t.fld Reg.ddrTrain 31 16 = ms % 65536 := by
  obtain ⟨h1, h2, h3, h4, h5, hnum⟩ := s.endTraining.showTraining_shows ok (if ok then 7 * s.endTraining.ddrCap else 0)
    (trainWord_lt ok ms lane step)
  refine ⟨h1, h2, h3, h4, h5, ?_⟩
  show (s.trained ok ms lane step).num Reg.ddrTrain / 2 ^ 16 % 2 ^ 16 = _
  rw [State.trained, hnum, trainWord_ms]

theorem State.trained_plic (s : State) (ok : Bool) (ms lane step : Nat) : (s.trained ok ms lane step).plic = s.plic := by
  rw [State.trained, State.showTraining_plic, State.endTraining_plic]

theorem State.trained_mode (s : State) (ok : Bool) (ms lane step : Nat) : (s.trained ok ms lane step).mode = s.mode := by
  rw [State.mode, State.mode, State.fld, State.fld, (s.trained_onlyRegs ok ms lane step).2 _ (by decide), State.endTraining_reg]

theorem exec_ddrTrainingDone (h : s.chip.ddrPending = true) (ok : Bool) (ms lane step : Nat) :
    exec (.ddrTrainingDone ok ms lane step) s = .next
      (((if ok then (s.trained ok ms lane step).placeInDdr else s.trained ok ms lane step).raise 5).raise (if ok then 456 else 457)) := by
  show execDdrTrainingDone ok ms lane step s = _
  rw [execDdrTrainingDone, if_neg (by simp [h])]
  simp only [State.trained, State.showTraining, State.showTrained, State.endTraining, trainWord]

/-- What training ends with: the registers' values, what they leave, and the bytes of LPDDR5 that the Blank places after a success. -/
theorem ddrTrainingDone_shows (h : s.chip.ddrPending = true) (ok : Bool) (ms lane step : Nat) :
    Completes (.ddrTrainingDone ok ms lane step) s fun t =>
      OnlyRegs { s with chip := t.chip, mem := t.mem, poison := t.poison } t [Reg.sysMemsize, Reg.ddrStatus, Reg.ddrTrain] ∧
      t.chip = { s.chip with ddrPending := false } ∧ (∀ a, a < Addr.ddr → t.byte a = s.byte a) ∧
      (ok = false → t.mem = s.mem ∧ t.poison = s.poison) ∧
      Raised s t [5, if ok then 456 else 457] ∧ t.flag Reg.sysMemsize 31 = ok ∧ t.flag Reg.sysMemsize 30 = !ok ∧
      t.fld Reg.sysMemsize 5 0 = (if ok then 7 * s.ddrCap else 0) % 64 ∧ t.flag Reg.ddrStatus 31 = ok ∧ t.flag Reg.ddrStatus 30 = !ok ∧
      t.fld Reg.ddrTrain 31 16 = ms % 65536 := by
  refine ⟨_, exec_ddrTrainingDone h ok ms lane step, ?_⟩
  have honly := s.trained_onlyRegs ok ms lane step
  obtain ⟨hok, hfail, hsize, hok', hfail', hms⟩ := s.trained_shows ok ms lane step
  have hplic := s.trained_plic ok ms lane step
  have hmode := s.trained_mode ok ms lane step
  generalize s.trained ok ms lane step = v at *
  have hddr : DdrOnly v (if ok then v.placeInDdr else v) := by
    split
    · exact (DdrOnly.refl v).placeInDdr
    · exact .refl v
  have hfails : ok = false → (if ok then v.placeInDdr else v) = v := by rintro rfl; rfl
  generalize (if ok then v.placeInDdr else v) = w at *
  have hv := honly.1
  have hall := ((honly.ddr hddr).raise 5).raise (if ok then 456 else 457)
  obtain ⟨⟨m, p, hw⟩, hbytes⟩ := hddr
  have hsame : w.regs = v.regs ∧ w.chip = v.chip ∧ w.plic = v.plic ∧ w.variant = v.variant := by rw [hw]; exact ⟨rfl, rfl, rfl, rfl⟩
  obtain ⟨hregs, hwchip, hwplic, hwvar⟩ := hsame
  have hreg (r : Nat) : w.reg r = v.reg r := congrArg (Tab.get · r) hregs
  have hkept : v.chip = s.endTraining.chip ∧ v.mem = s.mem ∧ v.poison = s.poison ∧ v.variant = s.variant ∧ v.ddrGen = s.ddrGen := by
    rw [hv]; exact ⟨rfl, rfl, rfl, rfl, rfl⟩
  obtain ⟨hchip, hmem, hpoison, hvar, hgen⟩ := hkept
  simp only [State.raise_flag, State.raise_fld, State.raise_chip, State.raise_mem, State.raise_poison, State.raise_byte] at hall ⊢
  refine ⟨?_, hwchip.trans hchip, fun a ha => (hbytes a ha).trans ?_, fun hno => ?_, Raised.pair (hwvar.trans hvar) ?_ (hwplic.trans hplic) 5 _, ?_⟩
  · rw [hwchip, hchip]
    exact hall
  · simp only [State.byte, hmem, hgen]
  · rw [hfails hno]
    exact ⟨hmem, hpoison⟩
  · rw [← hmode]
    simp only [State.mode, State.fld, hreg]
  · simp only [State.flag, State.fld, hreg]
    exact ⟨hok, hfail, hsize, hok', hfail', hms⟩

/-! ### Refresh (R58) -/

/-- The refresh-rate indication that was read. -/
def State.showRefresh (s : State) (code m : Nat) : State := s.setNum Reg.ddrRefresh (m % 256 * 256 + code % 8)

theorem exec_ddrRefreshPoll (ha : s.awake = true) (h : s.flag Reg.ddrStatus 31 = true) (code m : Nat) :
    exec (.ddrRefreshPoll code m) s = .next (if s.flag Reg.ddrStatus 28 = decide (4 < m % 256) then s.showRefresh code m
      else ((s.showRefresh code m).setFlag Reg.ddrStatus 28 (decide (4 < m % 256))).raise 460) := by
  have hflag : (s.setNum Reg.ddrRefresh (m % 256 * 256 + code % 8)).flag Reg.ddrStatus 28 = s.flag Reg.ddrStatus 28 :=
    State.flag_setReg_ne _ _ _ (by decide)
  show execDdrRefreshPoll code m s = _
  rw [execDdrRefreshPoll, if_neg (by simp [ha, h])]
  simp only [hflag, State.showRefresh]

theorem State.showRefresh_shows (s : State) (code m : Nat) : (s.showRefresh code m).fld Reg.ddrRefresh 15 8 = m % 256 ∧
    (s.showRefresh code m).fld Reg.ddrRefresh 2 0 = code % 8 := by
  have hn : (s.showRefresh code m).num Reg.ddrRefresh = m % 256 * 256 + code % 8 := State.num_setNum _ _ _ (by omega)
  constructor
  · show (s.showRefresh code m).num Reg.ddrRefresh / 2 ^ 8 % 2 ^ 8 = _
    rw [hn]
    omega
  · show (s.showRefresh code m).num Reg.ddrRefresh / 2 ^ 0 % 2 ^ 3 = _
    rw [hn]
    omega

theorem State.showRefresh_kept (s : State) (code m : Nat) : OnlyRegs s (s.showRefresh code m) [Reg.ddrRefresh, Reg.ddrStatus] ∧
    (∀ b, (s.showRefresh code m).flag Reg.ddrStatus b = s.flag Reg.ddrStatus b) ∧ (s.showRefresh code m).mode = s.mode ∧
    (s.showRefresh code m).bus = s.bus ∧ (s.showRefresh code m).variant = s.variant ∧ (s.showRefresh code m).plic = s.plic :=
  ⟨(OnlyRegs.refl s _).setReg (by simp) _, fun b => State.flag_setReg_ne _ _ _ (by decide), State.mode_setReg (by decide) _,
    State.setReg_bus _ _ _, State.setReg_variant _ _ _, State.setReg_plic _ _ _⟩

/-- The channel is derated exactly while the multiplier is above nominal; each change raises source 460. -/
theorem ddrRefreshPoll_derates (ha : s.awake = true) (h : s.flag Reg.ddrStatus 31 = true) (code m : Nat) :
    let above := decide (4 < m % 256)
    Alters (.ddrRefreshPoll code m) s [Reg.ddrRefresh, Reg.ddrStatus] (if s.flag Reg.ddrStatus 28 = above then [] else [460]) fun t =>
      t.flag Reg.ddrStatus 28 = above ∧ (∀ b, b ≠ 28 → t.flag Reg.ddrStatus b = s.flag Reg.ddrStatus b) ∧
      t.fld Reg.ddrRefresh 15 8 = m % 256 ∧ t.fld Reg.ddrRefresh 2 0 = code % 8 := by
  intro above
  obtain ⟨hquarters, hcode⟩ := s.showRefresh_shows code m
  obtain ⟨honly, hflag, hmode, hbus, hvar, hplic⟩ := s.showRefresh_kept code m
  refine ⟨_, exec_ddrRefreshPoll ha h code m, ?_⟩
  generalize s.showRefresh code m = u at *
  by_cases hsame : s.flag Reg.ddrStatus 28 = decide (4 < m % 256)
  · rw [if_pos hsame, if_pos hsame]
    exact ⟨hbus, honly, Raised.nil hplic, (hflag 28).trans hsame, fun b _ => hflag b, hquarters, hcode⟩
  · rw [if_neg hsame, if_neg hsame]
    have hmode' : (u.setFlag Reg.ddrStatus 28 above).mode = s.mode := (State.mode_setReg (by decide) _).trans hmode
    have hbus' : (u.setFlag Reg.ddrStatus 28 above).bus = s.bus := (State.setReg_bus _ _ _).trans hbus
    have hvar' : (u.setFlag Reg.ddrStatus 28 above).variant = s.variant := (State.setReg_variant _ _ _).trans hvar
    have hplic' : (u.setFlag Reg.ddrStatus 28 above).plic = s.plic := (State.setReg_plic _ _ _).trans hplic
    refine ⟨(State.raise_bus _ _).trans hbus', (honly.setReg (by simp) _).raise 460, Raised.single hvar' hmode' hplic' 460, ?_⟩
    simp only [State.raise_flag, State.raise_fld]
    refine ⟨State.flag_setFlag _ _ _ _ (by decide), fun b hb => (State.flag_setFlag_ne _ _ _ _ _ (by decide) hb).trans (hflag b), ?_, ?_⟩
    · exact (State.fld_setReg_ne _ _ _ _ (by decide)).trans hquarters
    · exact (State.fld_setReg_ne _ _ _ _ (by decide)).trans hcode

end Sys2Proof.Machine
end

section
/-! The balls (19): an edge at a GPIO (R697), and the supply of a VIO bank (R695). -/
namespace Sys2Proof.Machine

variable {s t : State} {g : Nat}

theorem bit_clearBit (m n k : Nat) : bit (clearBit m n) k = (bit m k && k != n) := by
  unfold clearBit
  split
  next h =>
    have hq : m / 2 ^ n % 2 = 1 := by simpa [bit] using h
    have hle : 2 ^ n ≤ m := (Nat.div_pos_iff.1 (Nat.pos_of_ne_zero fun h0 => by simp [h0] at hq)).2
    have hoff : bit (m - 2 ^ n) n = false := by
      have hdiv : (m - 2 ^ n) / 2 ^ n = m / 2 ^ n - 1 := by simpa using Nat.sub_mul_div m (2 ^ n) 1
      simp only [bit, hdiv, beq_eq_false_iff_ne]
      omega
    have hset : setBit (m - 2 ^ n) n = m := by
      rw [setBit, if_neg (by simp [hoff])]
      omega
    have hbits := bit_setBit (m - 2 ^ n) n k
    rw [hset] at hbits
    by_cases hk : k = n
    · subst hk
      simp [hoff]
    · simp [hbits, beq_false_of_ne hk, bne]
  next h =>
    by_cases hk : k = n
    · subst hk
      simpa using h
    · simp [hk]

/-- What the registers of the balls other than IN say. -/
theorem State.gpioLevel_congr (hblk : t.blk = s.blk) (hvar : t.variant = s.variant) (hball : t.pin.ball = s.pin.ball)
    (hreg : ∀ q, q ∉ [Reg.pinIn 0, Reg.pinIn 1, Reg.pinIn 2, Reg.pinIn 3] → t.reg q = s.reg q) :
    t.gpioLevel g = s.gpioLevel g := by
  have hstat : t.reg Reg.pinStatus = s.reg Reg.pinStatus := hreg _ (by decide)
  have hdir : t.reg (Reg.pinDir (g / 32)) = s.reg (Reg.pinDir (g / 32)) :=
    hreg _ (by simp only [Reg.pinDir, Reg.pinIn, List.mem_cons, List.not_mem_nil, or_false]; omega)
  have hout : t.reg (Reg.pinOut (g / 32)) = s.reg (Reg.pinOut (g / 32)) :=
    hreg _ (by simp only [Reg.pinOut, Reg.pinIn, List.mem_cons, List.not_mem_nil, or_false]; omega)
  unfold State.gpioLevel State.gpioBall State.ballOf State.ballEntry State.pinmuxBody State.body State.pinGood State.gpioDir State.gpioOut State.flag
  rw [hstat, hdir, hout, hvar, hblk, hball]

/-! ### An edge -/

/-- The board puts a level on the ball of a GPIO. -/
def State.setBall (s : State) (g : Nat) (v : Bool) : State :=
  { s with pin := { s.pin with ball := if v then setBit s.pin.ball g else clearBit s.pin.ball g } }

theorem exec_gpioEdge (hg : g < 128) (v : Bool) : exec (.gpioEdge g v) s = .next ((s.setBall g v).followBall g true) := by
  show execGpioEdge g v s = _
  rw [execGpioEdge, Nat.mod_eq_of_lt hg]
  rfl

theorem State.setBall_ball (s : State) (g : Nat) (v : Bool) : bit (s.setBall g v).pin.ball g = v := by
  cases v
  · exact (bit_clearBit _ _ _).trans (by simp)
  · exact (bit_setBit _ _ _).trans (by simp)

theorem State.gpioLevel_input {n : Nat} (hn : s.gpioBall g = some n) (hgood : s.pinGood (n / s.variant.bankBalls) = true)
    (hdir : s.gpioDir g = false) : s.gpioLevel g = bit s.pin.ball g := by
  simp [State.gpioLevel, hn, hgood, hdir]

theorem Steady.gpioIn {M : Prop} {z : State} (h : Steady M z s) : s.gpioIn g = z.gpioIn g :=
  h.flag (by simp only [Apart, Reg.pinIn, stirredWindows, List.mem_cons, List.not_mem_nil, or_false]; omega) _

/-- An edge that a register enables sets PEND and raises the source of its 16 GPIOs; the balls stay. -/
theorem State.gpioEdgeSeen_shows (s : State) (hg : g < 128) (v : Bool) :
    (s.gpioEdgeSeen g v).gpioIn g = s.gpioIn g ∧ (s.gpioEdgeSeen g v).pin.ball = s.pin.ball ∧
      (s.flag (if v then Reg.pinRise (g / 32) else Reg.pinFall (g / 32)) (g % 32) = true → s.awake = true →
        (s.gpioEdgeSeen g v).flag (Reg.pinPend (g / 32)) (g % 32) = true ∧ (s.gpioEdgeSeen g v).pendingSource (464 + g / 16) = true) := by
  have hin : Reg.pinIn (g / 32) ≠ Reg.pinPend (g / 32) := by simp only [Reg.pinIn, Reg.pinPend]; omega
  have hpend : Apart (Reg.pinPend (g / 32)) := by
    simp only [Apart, Reg.pinPend, stirredWindows, List.mem_cons, List.not_mem_nil, or_false]; omega
  unfold State.gpioEdgeSeen
  extract_lets r u
  have hu : u.gpioIn g = s.gpioIn g ∧ u.pin.ball = s.pin.ball := by
    unfold u
    split
    · refine ⟨(State.raise_flag _ _ _ _).trans (State.flag_setReg_ne _ _ _ hin), ?_⟩
      simp
    · exact ⟨rfl, rfl⟩
  have hset : s.flag r (g % 32) = true → s.awake = true →
      u.flag (Reg.pinPend (g / 32)) (g % 32) = true ∧ u.pendingSource (464 + g / 16) = true := by
    intro hr ha
    unfold u
    rw [if_pos hr]
    refine ⟨(State.raise_flag _ _ _ _).trans (State.flag_setFlag _ _ _ _ (by omega)), State.raise_rises _ _ (State.canRise_of_awake ?_ ?_)⟩
    · simp [reservedSource, absentSource]
      omega
    · rw [← ha]
      simp only [State.awake, State.mode, State.fld, State.setFlag, State.setFld]
      rw [State.reg_setReg_ne _ _ _ _ (by simp only [Reg.sysMode, Reg.pinPend]; omega)]
  clear_value u
  obtain ⟨huin, huball⟩ := hu
  have h := (Steady.refl (M := False) u).offerEvent 6 (g + (if v then 256 else 512))
  refine ⟨h.gpioIn.trans huin, h.ball.trans huball, fun hr ha => ?_⟩
  obtain ⟨hp, hraised⟩ := hset hr ha
  exact ⟨(h.flag hpend _).trans hp, h.rises _ hraised⟩

/-- The level of an input changes: IN follows it, and a change that is enabled is told. -/
theorem gpioEdge_shows {n : Nat} (hg : g < 128) (hn : s.gpioBall g = some n) (hgood : s.pinGood (n / s.variant.bankBalls) = true)
    (hdir : s.gpioDir g = false) (v : Bool) :
    Completes (.gpioEdge g v) s fun t => t.gpioIn g = v ∧ bit t.pin.ball g = v ∧
      (s.gpioIn g ≠ v → s.flag (if v then Reg.pinRise (g / 32) else Reg.pinFall (g / 32)) (g % 32) = true → s.awake = true →
        t.flag (Reg.pinPend (g / 32)) (g % 32) = true ∧ t.pendingSource (464 + g / 16) = true) := by
  have hball := s.setBall_ball g v
  have hlevel : (s.setBall g v).gpioLevel g = v := (State.gpioLevel_input (s := s.setBall g v) hn hgood hdir).trans hball
  have hreg (r : Nat) : (s.setBall g v).reg r = s.reg r := rfl
  refine ⟨_, exec_gpioEdge hg v, ?_⟩
  generalize s.setBall g v = u at *
  have hin : u.gpioIn g = s.gpioIn g := by rw [State.gpioIn, State.flag, hreg, State.gpioIn, State.flag]
  rw [State.followBall, hlevel]
  split
  next hsame => exact ⟨hsame, hball, fun hne => absurd (hin.symm.trans hsame) hne⟩
  next hdiff =>
    obtain ⟨w, hw⟩ : ∃ w, u.setFlag (Reg.pinIn (g / 32)) (g % 32) v = w := ⟨_, rfl⟩
    have hne : (if v then Reg.pinRise (g / 32) else Reg.pinFall (g / 32)) ≠ Reg.pinIn (g / 32) := by
      simp only [Reg.pinRise, Reg.pinFall, Reg.pinIn]
      split <;> omega
    have hwin : w.gpioIn g = v := by rw [← hw]; exact State.flag_setFlag _ _ _ _ (by omega)
    have hwball : bit w.pin.ball g = v := by rw [← hw]; exact hball
    have hwreg : w.reg (if v then Reg.pinRise (g / 32) else Reg.pinFall (g / 32)) = s.reg (if v then Reg.pinRise (g / 32) else Reg.pinFall (g / 32)) := by
      rw [← hw, ← hreg]; exact State.reg_setReg_ne _ _ _ _ hne
    have hmode : w.reg Reg.sysMode = s.reg Reg.sysMode := by
      rw [← hw, ← hreg]; exact State.reg_setReg_ne _ _ _ _ (by simp only [Reg.sysMode, Reg.pinIn]; omega)
    obtain ⟨hseen, hkept, htold⟩ := w.gpioEdgeSeen_shows hg v
    rw [if_pos rfl, hw]
    refine ⟨hseen.trans hwin, (congrArg (bit · g) hkept).trans hwball, fun _ hen ha => htold ?_ ?_⟩
    · rwa [State.flag, hwreg]
    · rwa [State.awake, State.mode, State.fld, hmode]

/-! ### A VIO bank -/

/-- The words of IN. -/
def inWords : List Nat := [Reg.pinIn 0, Reg.pinIn 1, Reg.pinIn 2, Reg.pinIn 3]

theorem pinIn_mem (hg : g < 128) : Reg.pinIn (g / 32) ∈ inWords := by
  simp only [inWords, Reg.pinIn, List.mem_cons, List.not_mem_nil, or_false]
  omega

theorem State.followBall_still (s : State) (g : Nat) (hg : g < 128) :
    OnlyRegs s (s.followBall g false) inWords ∧ (s.followBall g false).gpioIn g = s.gpioLevel g ∧
      ∀ k, k < 128 → k ≠ g → (s.followBall g false).gpioIn k = s.gpioIn k := by
  unfold State.followBall
  extract_lets v u
  split
  next h => exact ⟨.refl _ _, h, fun _ _ _ => rfl⟩
  next h =>
    refine ⟨(OnlyRegs.refl s _).setReg (pinIn_mem hg) _, State.flag_setFlag _ _ _ _ (by omega), fun k hk hkg => ?_⟩
    by_cases hw : Reg.pinIn (k / 32) = Reg.pinIn (g / 32)
    · have hdiv : k / 32 = g / 32 := by simp only [Reg.pinIn] at hw; omega
      show u.flag (Reg.pinIn (k / 32)) (k % 32) = s.flag (Reg.pinIn (k / 32)) (k % 32)
      rw [hdiv]
      exact State.flag_setFlag_ne _ _ _ _ _ (by omega) (by omega)
    · exact State.flag_setReg_ne _ _ _ hw

theorem OnlyRegs.trans {u : State} {rs : List Nat} (h : OnlyRegs s t rs) (k : OnlyRegs t u rs) : OnlyRegs s u rs :=
  ⟨k.1.trans (congrArg (fun x : State => { x with regs := u.regs, plic := u.plic, bus := u.bus }) h.1),
    fun q hq => (k.2 q hq).trans (h.2 q hq)⟩

theorem OnlyRegs.gpioLevel (h : OnlyRegs s t inWords) (g : Nat) : t.gpioLevel g = s.gpioLevel g := by
  obtain ⟨e, hreg⟩ := h
  exact State.gpioLevel_congr (by rw [e]) (by rw [e]) (by rw [e]) hreg

/-- IN follows every ball of a list. -/
theorem State.followBalls_still (l : List Nat) (hl : ∀ g ∈ l, g < 128) (s : State) :
    OnlyRegs s (l.foldl (fun s g => s.followBall g false) s) inWords ∧
      ∀ k, k < 128 → (l.foldl (fun s g => s.followBall g false) s).gpioIn k = if k ∈ l then s.gpioLevel k else s.gpioIn k := by
  induction l generalizing s with
  | nil => exact ⟨.refl _ _, fun k _ => by simp⟩
  | cons g l ih =>
    obtain ⟨honly, hin, hother⟩ := s.followBall_still g (hl g List.mem_cons_self)
    obtain ⟨hrest, hfollow⟩ := ih (fun k hk => hl k (List.mem_cons_of_mem _ hk)) (s.followBall g false)
    refine ⟨honly.trans hrest, fun k hk => ?_⟩
    rw [List.foldl_cons, hfollow k hk, honly.gpioLevel]
    by_cases hkl : k ∈ l
    · simp [hkl]
    · by_cases hkg : k = g
      · subst hkg
        simp [hkl, hin]
      · simp [hkl, hkg, hother k hk hkg]

/-- The supply of a bank is good, or not. -/
def State.setBank (s : State) (b : Nat) (v : Bool) : State := (s.setFlag Reg.pmuRails (8 + b) v).setFlag Reg.pinStatus (24 + b) v

/-- IN follows all balls. -/
def State.followAll (s : State) : State := (List.range 128).foldl (fun s g => s.followBall g false) s

theorem exec_vioBankLow {b : Nat} (hb : b < 6) :
    exec (.vioBankLow b) s = .next (((s.setBank b false).followAll.raise 472).reportBank b) := by
  show execVioBankLow b s = _
  rw [execVioBankLow, if_neg (by omega)]
  rfl

theorem exec_vioBankGood {b : Nat} (hb : b < 6) : exec (.vioBankGood b) s = .next ((s.setBank b true).followAll.raise 472) := by
  show execVioBankGood b s = _
  rw [execVioBankGood, if_neg (by omega)]
  rfl

theorem State.setBank_shows (s : State) {b : Nat} (hb : b < 6) (v : Bool) :
    (s.setBank b v).pinGood b = v ∧ (s.setBank b v).flag Reg.pmuRails (8 + b) = v ∧ (s.setBank b v).awake = s.awake := by
  have hmode : (s.setBank b v).reg Reg.sysMode = s.reg Reg.sysMode :=
    (State.reg_setReg_ne _ _ _ _ (by decide)).trans (State.reg_setReg_ne _ _ _ _ (by decide))
  refine ⟨State.flag_setFlag _ _ _ _ (by omega), ?_, by simp only [State.awake, State.mode, State.fld, hmode]⟩
  exact (State.flag_setReg_ne _ _ _ (by decide)).trans (State.flag_setFlag _ _ _ _ (by omega))

/-- A ball whose bank is not good reads 0. -/
theorem State.gpioLevel_low {n : Nat} (hn : s.gpioBall g = some n) (hbad : s.pinGood (n / s.variant.bankBalls) = false) :
    s.gpioLevel g = false := by
  simp [State.gpioLevel, hn, hbad]

theorem State.setBank_ball (s : State) (b : Nat) (v : Bool) (hb : b < 6) : (s.setBank b v).gpioBall g = s.gpioBall g := by
  have hflag : (s.setBank b v).flag Reg.pinStatus 0 = s.flag Reg.pinStatus 0 :=
    (State.flag_setFlag_ne _ _ _ _ _ (by omega) (by omega)).trans (State.flag_setReg_ne _ _ _ (by decide))
  rw [State.gpioBall, hflag, State.gpioBall]
  rfl

/-- What a change of a bank's supply shows. -/
theorem State.bankChange_shows (s : State) {b : Nat} (hb : b < 6) (ha : s.awake = true) (v : Bool) :
    let t := (s.setBank b v).followAll.raise 472
    t.pinGood b = v ∧ t.flag Reg.pmuRails (8 + b) = v ∧
      (∀ g n, g < 128 → s.gpioBall g = some n → n / s.variant.bankBalls = b → v = false → t.gpioIn g = false) ∧ t.pendingSource 472 = true := by
  obtain ⟨hgood, hrail, hawake⟩ := s.setBank_shows hb v
  have hball (g : Nat) : (s.setBank b v).gpioBall g = s.gpioBall g := s.setBank_ball b v hb
  have hvar : (s.setBank b v).variant = s.variant := (State.setReg_variant _ _ _).trans (State.setReg_variant _ _ _)
  generalize s.setBank b v = u at *
  obtain ⟨⟨hu, hreg⟩, hin⟩ := State.followBalls_still (List.range 128) (fun g hg => List.mem_range.1 hg) u
  change u.followAll = _ at hu
  change ∀ q, _ → u.followAll.reg q = _ at hreg
  change ∀ k, _ → u.followAll.gpioIn k = _ at hin
  have hvar' : u.followAll.variant = u.variant := by rw [hu]
  generalize u.followAll = w at *
  have hstat : w.reg Reg.pinStatus = u.reg Reg.pinStatus := hreg _ (by decide)
  have hrails : w.reg Reg.pmuRails = u.reg Reg.pmuRails := hreg _ (by decide)
  have hmode : w.reg Reg.sysMode = u.reg Reg.sysMode := hreg _ (by decide)
  intro t
  refine ⟨?_, ?_, fun g n hg hn hb hv => ?_, State.raise_rises _ _ (State.canRise_of_awake ?_ ?_)⟩
  · rw [State.pinGood, State.raise_flag, State.flag, hstat]
    exact hgood
  · rw [State.raise_flag, State.flag, hrails]
    exact hrail
  · rw [State.gpioIn, State.raise_flag, ← State.gpioIn, hin g hg, if_pos (List.mem_range.2 hg)]
    subst hb hv
    exact State.gpioLevel_low ((hball g).trans hn) (by rw [hvar]; exact hgood)
  · simp [reservedSource, absentSource]
  · rw [← ha, ← hawake]
    simp only [State.awake, State.mode, State.fld, hmode]

theorem vioBankGood_shows {b : Nat} (hb : b < 6) (ha : s.awake = true) :
    Completes (.vioBankGood b) s fun t => t.pinGood b = true ∧ t.flag Reg.pmuRails (8 + b) = true ∧ t.pendingSource 472 = true := by
  obtain ⟨hgood, hrail, -, hraised⟩ := s.bankChange_shows hb ha true
  exact ⟨_, exec_vioBankGood hb, hgood, hrail, hraised⟩

theorem State.reportBank_steady {M : Prop} (s : State) (b : Nat) : Steady M s (s.reportBank b) := ((Steady.refl s).detected _).ite (.refl s)

theorem vioBankLow_shows {b : Nat} (hb : b < 6) (ha : s.awake = true) :
    Completes (.vioBankLow b) s fun t => t.pinGood b = false ∧ t.flag Reg.pmuRails (8 + b) = false ∧
      (∀ g n, g < 128 → s.gpioBall g = some n → n / s.variant.bankBalls = b → t.gpioIn g = false) ∧ t.pendingSource 472 = true := by
  obtain ⟨hgood, hrail, hin, hraised⟩ := s.bankChange_shows hb ha false
  refine ⟨_, exec_vioBankLow hb, ?_⟩
  generalize (s.setBank b false).followAll.raise 472 = u at *
  have h := u.reportBank_steady (M := True) b
  refine ⟨(h.flag (by decide) _).trans hgood, (h.flag (by decide) _).trans hrail, fun g n hg hn hb => ?_, h.rises _ hraised⟩
  exact h.gpioIn.trans (hin g n hg hn hb rfl)

/-- Settles O15: the scrubber, training and refresh of LPDDR5, and the balls. -/
theorem memoryControllersAndBallsReport : Obligations.MemoryControllersAndBallsReport := by
  refine ⟨fun s ha => ⟨fun n hs => ?_, fun n bad hs => scrubPass_idles n bad hs, fun ok ms lane step hp => ddrTrainingDone_shows hp ok ms lane step,
    fun code m hd => ddrRefreshPoll_derates ha hd code m⟩, fun s => ⟨fun g v n hg hn hgood hdir => gpioEdge_shows hg hn hgood hdir v,
    fun b hb ha => vioBankLow_shows hb ha, fun b hb ha => vioBankGood_shows hb ha⟩⟩
  exact ⟨scrubPass_counts ha hs n, fun bad => scrubPass_poisons ha hs n bad⟩

end Sys2Proof.Machine
end

section
/-! The PCIe endpoint (16): the MSI-X table and its messages (R622, R626). -/
namespace Sys2Proof.Machine

variable {s t : State} {v : Nat}

/-! ### A byte of Vector Control -/

/-- From `s` to `t` nothing changes but the Vector Control word of vector `v`. -/
def ControlOnly (v : Nat) (s t : State) : Prop :=
  t = { s with pci := { s.pci with table := t.pci.table } } ∧ ∀ j, j ≠ 4 * v + 3 → t.pci.table.get j = s.pci.table.get j

theorem ControlOnly.trans {u : State} (h : ControlOnly v s t) (k : ControlOnly v t u) : ControlOnly v s u :=
  ⟨k.1.trans (congrArg (fun x : State => { x with pci := { x.pci with table := u.pci.table } }) h.1), fun j hj => (k.2 j hj).trans (h.2 j hj)⟩

theorem ControlOnly.masked (h : ControlOnly v s t) {k : Nat} (hk : k ≠ v) : t.vectorMasked k = s.vectorMasked k := by
  rw [State.vectorMasked, h.2 _ (by omega), State.vectorMasked]

/-- The lowest bit of a word of which one byte is written. -/
theorem bit_patch (x : Nat) (b : Byte) {k : Nat} (hk : k < 4) :
    bit (leNat (patchBytes (leBytes 4 x) k [b])) 0 = if k = 0 then bit b.toNat 0 else bit x 0 := by
  have hlow (c : Byte) (n : Nat) : bit (c.toNat + 256 * n) 0 = bit c.toNat 0 := by
    simp only [bit, pow_zero, Nat.div_one]
    congr 1
    omega
  have hbyte (n : Nat) : bit (BitVec.ofNat 8 x).toNat 0 = bit x 0 := by
    simp only [bit, pow_zero, Nat.div_one, BitVec.toNat_ofNat]
    congr 1
    omega
  obtain rfl | rfl | rfl | rfl : k = 0 ∨ k = 1 ∨ k = 2 ∨ k = 3 := by omega
  · exact hlow b _
  · exact (hlow _ _).trans (hbyte 0)
  · exact (hlow _ _).trans (hbyte 0)
  · exact (hlow _ _).trans (hbyte 0)

theorem State.writeTable_control (s : State) (v : Nat) {k : Nat} (hk : k < 4) (b : Byte) :
    ControlOnly v s (s.writeTable (12 + 16 * v + k) b) ∧
      (s.writeTable (12 + 16 * v + k) b).vectorMasked v = if k = 0 then bit b.toNat 0 else s.vectorMasked v := by
  have hw : (12 + 16 * v + k) / 4 = 4 * v + 3 := by omega
  have hm : (12 + 16 * v + k) % 4 = k := by omega
  have h3 : (4 * v + 3) % 4 = 3 := by omega
  unfold State.writeTable
  extract_lets w x
  have hx : bit (BitVec.ofNat 32 x).toNat 0 = !(if k = 0 then bit b.toNat 0 else s.vectorMasked v) := by
    have hbit := bit_patch (s.tableWord (4 * v + 3)) b hk
    have hword : bit (s.tableWord (4 * v + 3)) 0 = s.vectorMasked v := by
      rw [State.tableWord, if_pos h3, State.vectorMasked]
      cases bit (s.pci.table.get (4 * v + 3)).toNat 0 <;> decide
    rw [hword] at hbit
    simp only [x, w, hw, hm, h3, if_true, hbit]
    cases (if k = 0 then bit b.toNat 0 else s.vectorMasked v) <;> decide
  refine ⟨⟨rfl, fun j hj => Tab.get_set_ne _ _ _ _ (by omega)⟩, ?_⟩
  rw [State.vectorMasked, hw]
  simp only [Tab.get_set_eq, hx, Bool.not_not]

/-! ### The messages that are due -/

/-- A vector whose pending bit is set sends its message unless it is masked. -/
def State.sendDue (s : State) (v : Nat) : State := if bit s.pci.pba v && !s.vectorMasked v then s.sendMessageSignal v else s

theorem bit_two_pow (v k : Nat) : bit (2 ^ v) k = (v == k) := by
  rw [bit_eq_testBit, Nat.testBit_two_pow]
  rfl

/-- Where no unmasked vector has its pending bit set, none sends. -/
theorem sendDue_none (l : List Nat) (h : ∀ k, (bit s.pci.pba k && !s.vectorMasked k) = false) : l.foldl State.sendDue s = s := by
  induction l with
  | nil => rfl
  | cons g l ih => rw [List.foldl_cons, State.sendDue, h g, if_neg Bool.false_ne_true, ih]

theorem sendDue_zero (l : List Nat) (h : s.pci.pba = 0) : l.foldl State.sendDue s = s := sendDue_none l fun k => by simp [h, bit]

/-- With no other vector pending than `v`, its message is the only one that may be due. -/
theorem sendDue_one (l : List Nat) (h : s.pci.pba = 2 ^ v) (hv : v ∈ l) :
    l.foldl State.sendDue s = if s.vectorMasked v then s else s.sendMessageSignal v := by
  split
  next hm =>
    refine sendDue_none l fun k => ?_
    rw [h, bit_two_pow]
    by_cases hk : v = k
    · simp [← hk, hm]
    · simp [hk]
  next hm =>
    have hsent : (s.sendMessageSignal v).pci.pba = 0 := by
      show clearBit s.pci.pba v = 0
      rw [h, clearBit, bit_two_pow]
      simp
    induction l with
    | nil => simp at hv
    | cons g l ih =>
      rw [List.foldl_cons, State.sendDue, h, bit_two_pow]
      by_cases hg : v = g
      · subst hg
        simpa [hm] using sendDue_zero l hsent
      · rw [if_neg (by simp [hg])]
        exact ih ((List.mem_cons.1 hv).resolve_left hg)

/-! ### Vector Control is written -/

/-- The four bytes of Vector Control are written: the mask is the lowest bit written, and nothing else changes. -/
theorem State.writeControl_shows (s : State) (v : Nat) (b0 b1 b2 b3 : Byte) :
    let t := ([b0, b1, b2, b3].zipIdx).foldl (fun s e => s.writeTable (12 + 16 * v + e.2) e.1) s
    ControlOnly v s t ∧ t.vectorMasked v = bit b0.toNat 0 := by
  obtain ⟨h0, m0⟩ := s.writeTable_control v (k := 0) (by decide) b0
  obtain ⟨h1, m1⟩ := (s.writeTable (12 + 16 * v + 0) b0).writeTable_control v (k := 1) (by decide) b1
  obtain ⟨h2, m2⟩ := ((s.writeTable (12 + 16 * v + 0) b0).writeTable (12 + 16 * v + 1) b1).writeTable_control v (k := 2) (by decide) b2
  obtain ⟨h3, m3⟩ := (((s.writeTable (12 + 16 * v + 0) b0).writeTable (12 + 16 * v + 1) b1).writeTable (12 + 16 * v + 2) b2).writeTable_control
    v (k := 3) (by decide) b3
  exact ⟨((h0.trans h1).trans h2).trans h3, m3.trans (m2.trans (m1.trans m0))⟩

theorem State.writeTableBytes_eq (s : State) (off : Nat) (bs : List Byte) : s.writeTableBytes off bs =
    (List.range 64).foldl State.sendDue ((bs.zipIdx).foldl (fun s e => s.writeTable (off + e.2) e.1) s) := rfl

/-- The message that vector `v` sends: address and data of its table entry. -/
def State.signal (s : State) (v : Nat) : Sent :=
  { kind := .msix, dest := v
    bytes := leBytes 4 (s.pci.table.get (4 * v)).toNat ++ leBytes 4 (s.pci.table.get (4 * v + 1)).toNat ++
      leBytes 4 (s.pci.table.get (4 * v + 2)).toNat }

theorem ControlOnly.signal (h : ControlOnly v s t) : t.signal v = s.signal v := by
  simp only [State.signal, h.2 (4 * v) (by omega), h.2 (4 * v + 1) (by omega), h.2 (4 * v + 2) (by omega)]

/-- Vector Control of a vector is written, where none but that vector may be pending. -/
theorem State.writeTableBytes_control (s : State) (hv : v < 64) (b0 b1 b2 b3 : Byte) (hp : s.pci.pba = if bit s.pci.pba v then 2 ^ v else 0) :
    let t := s.writeTableBytes (12 + 16 * v) [b0, b1, b2, b3]
    t.vectorMasked v = bit b0.toNat 0 ∧ (∀ k, k ≠ v → t.vectorMasked k = s.vectorMasked k) ∧
      (bit s.pci.pba v = true → bit b0.toNat 0 = false → t.pci.pba = 0 ∧ t.outbox = s.outbox ++ [s.signal v]) ∧
      (bit s.pci.pba v = false ∨ bit b0.toNat 0 = true → t.pci.pba = s.pci.pba ∧ t.outbox = s.outbox) := by
  obtain ⟨hctl, hmask⟩ := s.writeControl_shows v b0 b1 b2 b3
  rw [State.writeTableBytes_eq]
  generalize ([b0, b1, b2, b3].zipIdx).foldl (fun s e => s.writeTable (12 + 16 * v + e.2) e.1) s = u at *
  have hkept : u.pci.pba = s.pci.pba ∧ u.outbox = s.outbox := by rw [hctl.1]; exact ⟨rfl, rfl⟩
  obtain ⟨hpba, hout⟩ := hkept
  have hothers : ∀ k, k ≠ v → u.vectorMasked k = s.vectorMasked k := fun k hk => hctl.masked hk
  by_cases hbit : bit s.pci.pba v = true
  · rw [if_pos hbit] at hp
    rw [sendDue_one _ (hpba.trans hp) (List.mem_range.2 hv), hmask]
    by_cases hm : bit b0.toNat 0 = true
    · rw [if_pos hm]
      exact ⟨hmask, hothers, fun _ hno => by simp [hm] at hno, fun _ => ⟨hpba, hout⟩⟩
    · rw [if_neg hm]
      refine ⟨hmask, hothers, fun _ _ => ⟨?_, ?_⟩, fun hor => by simp [hbit, hm] at hor⟩
      · show clearBit u.pci.pba v = 0
        rw [hpba, hp, clearBit, bit_two_pow]
        simp
      · show u.outbox ++ [u.signal v] = _
        rw [hout, hctl.signal]
  · rw [if_neg hbit] at hp
    rw [sendDue_zero _ (hpba.trans hp)]
    exact ⟨hmask, hothers, fun h => absurd h hbit, fun _ => ⟨hpba, hout⟩⟩

end Sys2Proof.Machine
end

section
/-! The PCIe host (16): its accesses (R36, R623, R624), function level reset and link changes (R622), and the messages of vectors (R626). -/
namespace Sys2Proof.Machine

variable {s t : State} {v : Nat}

/-! ### Accesses -/

theorem State.pciAnswer_ok (write : Bool) (h : s.bus.code = Code.ok) : s.pciAnswer write = s := if_pos h

/-- An access that ends in a bus error counts it and raises source 434. -/
theorem State.pciAnswer_error (write : Bool) (h : s.bus.code ≠ Code.ok) :
    OnlyRegs s (s.pciAnswer write) [Reg.pciErr] ∧ Raised s (s.pciAnswer write) [434] ∧ (s.pciAnswer write).bus = s.bus ∧
      if write then (s.pciAnswer write).fld Reg.pciErr 15 0 = min 65535 (s.fld Reg.pciErr 15 0 + 1)
      else (s.pciAnswer write).fld Reg.pciErr 31 16 = min 65535 (s.fld Reg.pciErr 31 16 + 1) := by
  have hcount (hi lo : Nat) : OnlyRegs s ((s.bump Reg.pciErr hi lo 1).raise 434) [Reg.pciErr] ∧
      Raised s ((s.bump Reg.pciErr hi lo 1).raise 434) [434] ∧ ((s.bump Reg.pciErr hi lo 1).raise 434).bus = s.bus :=
    ⟨((OnlyRegs.refl s _).setReg (by simp) _).raise 434,
      Raised.single (State.setReg_variant _ _ _) (State.mode_setReg (by decide) _) (State.setReg_plic _ _ _) 434,
      (State.raise_bus _ _).trans (State.setReg_bus _ _ _)⟩
  rw [State.pciAnswer, if_neg h]
  cases write
  · obtain ⟨h1, h2, h3⟩ := hcount 31 16
    exact ⟨h1, h2, h3, (State.raise_fld _ _ _ _ _).trans (State.fld_bump _ _ _ _ _ (by decide) (by decide))⟩
  · obtain ⟨h1, h2, h3⟩ := hcount 15 0
    exact ⟨h1, h2, h3, (State.raise_fld _ _ _ _ _).trans (State.fld_bump _ _ _ _ _ (by decide) (by decide))⟩

variable {bar off n : Nat} {d : Option (List Byte)} {ecc : Ecc} {slack : Bool}

theorem exec_hostAccess (h : s.pciUp = true) : exec (.hostAccess bar off n d ecc slack) s = .next
    (if (s.barAccess bar off n d ecc slack).ward.waiting.length = s.ward.waiting.length then (s.barAccess bar off n d ecc slack).pciAnswer d.isSome
      else s.barAccess bar off n d ecc slack) := by
  show execHostAccess bar off n d ecc slack s = _
  rw [execHostAccess, if_pos h]

/-- What a host access that a check ends with a bus error shows. -/
theorem hostAccess_refused (h : s.pciUp = true) {a c m : Nat} (hc : c ≠ Code.ok) (e : s.barAccess bar off n d ecc slack = s.busError Who.pcie a c m) :
    Completes (.hostAccess bar off n d ecc slack) s fun t => (t.bus.code = c ∧ Rises s t 434 ∧
      if d.isSome then t.fld Reg.pciErr 15 0 = min 65535 (s.fld Reg.pciErr 15 0 + 1)
      else t.fld Reg.pciErr 31 16 = min 65535 (s.fld Reg.pciErr 31 16 + 1)) ∧ t.mem = s.mem := by
  refine ⟨_, exec_hostAccess h, ?_⟩
  rw [e]
  obtain ⟨hbus, honly, hreg⟩ := s.busError_frame Who.pcie a c m
  have hpci : (s.busError Who.pcie a c m).reg Reg.pciErr = s.reg Reg.pciErr := hreg _ (by simp) (by unfold inFlt; decide)
  have hmode : (s.busError Who.pcie a c m).reg Reg.sysMode = s.reg Reg.sysMode := hreg _ (by simp) (by unfold inFlt; decide)
  generalize s.busError Who.pcie a c m = u at *
  have hkept : u.ward = s.ward ∧ u.variant = s.variant ∧ u.mem = s.mem := by rw [honly]; exact ⟨rfl, rfl, rfl⟩
  obtain ⟨hward, hvar, hmem⟩ := hkept
  obtain ⟨⟨honly', -⟩, hraised, hbus', hcount⟩ := State.pciAnswer_error (s := u) d.isSome (by rw [hbus]; exact hc)
  rw [if_pos (by rw [hward])]
  refine ⟨⟨?_, fun hr => ?_, ?_⟩, ?_⟩
  · rw [hbus', hbus]
  · have hu : u.canRise 434 = true := by
      rw [← hr]
      simp only [State.canRise, State.awake, State.mode, State.fld, hvar, hmode]
    rw [State.pendingSource, hraised]
    exact u.raise_rises 434 hu
  · simpa only [State.fld, hpci] using hcount
  · rw [honly', ← hmem]

theorem State.barAccess_fenced (h : s.fenced Region.link = true) : ∃ a m, s.barAccess bar off n d ecc slack = s.busError Who.pcie a Code.denied m := by
  unfold State.barAccess
  exact ⟨_, _, if_pos h⟩

theorem State.barAccess_target (hf : s.fenced Region.link = false) {a : Nat} (ht : s.barTarget bar off n = some a) :
    s.barAccess bar off n d ecc slack = s.access Who.pcie a n d ecc slack := by
  unfold State.barAccess
  rw [if_neg (by simp [hf]), ht]

theorem State.barAccess_absent (hf : s.fenced Region.link = false) (ht : s.barTarget bar off n = none)
    (hout : bar ≠ 0 ∨ off < 0xF00000 ∨ 0xF00400 < off + n ∧ off < 0xF08000 ∨ 0xF08008 < off + n) :
    ∃ a m, s.barAccess bar off n d ecc slack = s.busError Who.pcie a Code.absent m := by
  unfold State.barAccess
  rw [if_neg (by simp [hf]), ht]
  dsimp only
  rw [if_neg (by omega), if_neg (by omega)]
  exact ⟨_, _, rfl⟩

/-- No window of BAR0 reaches the MSI-X table. -/
theorem State.barTarget_table (s : State) (h : 0xF00000 ≤ off) : s.barTarget 0 off n = none := by
  rw [State.barTarget, if_pos rfl, if_neg (by omega)]

theorem State.barAccess_table (hf : s.fenced Region.link = false) (hlo : 0xF00000 ≤ off) (hhi : off + n ≤ 0xF00400) :
    s.barAccess 0 off n none ecc slack = s.reply Code.ok (s.readTable (off - 0xF00000) n) ∧
      ∀ bs, s.barAccess 0 off n (some bs) ecc slack = (s.writeTableBytes (off - 0xF00000) (slice bs 0 n)).replyOk := by
  unfold State.barAccess
  simp only [hf, s.barTarget_table (n := n) hlo, hlo, hhi, and_self, if_true, Bool.false_eq_true, if_false, implies_true]

theorem State.barAccess_pending (hf : s.fenced Region.link = false) (hlo : 0xF08000 ≤ off) (hhi : off + n ≤ 0xF08008) :
    s.barAccess 0 off n none ecc slack = s.reply Code.ok (slice (leBytes 8 s.pci.pba) (off - 0xF08000) n) := by
  have htable : ¬ (0 = 0 ∧ 0xF00000 ≤ off ∧ off + n ≤ 0xF00400) := by omega
  unfold State.barAccess
  rw [if_neg (by simp [hf]), s.barTarget_table (by omega)]
  dsimp only
  rw [if_neg htable, if_pos ⟨rfl, hlo, hhi⟩]
  rfl

/-- An access that is answered at once with OK ends as it is. -/
theorem hostAccess_answered (h : s.pciUp = true) {u : State} (e : s.barAccess bar off n d ecc slack = u) (hw : u.ward = s.ward)
    (hok : u.bus.code = Code.ok) : exec (.hostAccess bar off n d ecc slack) s = .next u := by
  rw [exec_hostAccess h, e, if_pos (by rw [hw]), State.pciAnswer_ok _ hok]

/-- An access of a register or of memory. -/
theorem hostAccess_target (h : s.pciUp = true) (hf : s.fenced Region.link = false) {a : Nat} (ht : s.barTarget bar off n = some a) :
    Completes (.hostAccess bar off n d ecc slack) s fun t =>
      let u := s.access Who.pcie a n d ecc slack
      let waits := u.ward.waiting.length ≠ s.ward.waiting.length
      t.bus = u.bus ∧ t.mem = u.mem ∧ (waits ∨ u.bus.code = Code.ok → t = u) ∧
        (¬ waits → u.bus.code ≠ Code.ok → OnlyRegs u t [Reg.pciErr] ∧ Raised u t [434] ∧
          if d.isSome then t.fld Reg.pciErr 15 0 = min 65535 (u.fld Reg.pciErr 15 0 + 1)
          else t.fld Reg.pciErr 31 16 = min 65535 (u.fld Reg.pciErr 31 16 + 1)) := by
  refine ⟨_, exec_hostAccess h, ?_⟩
  rw [State.barAccess_target hf ht]
  generalize s.access Who.pcie a n d ecc slack = u
  intro u' waits
  by_cases hw : u.ward.waiting.length = s.ward.waiting.length
  · rw [if_pos hw]
    by_cases hc : u.bus.code = Code.ok
    · rw [State.pciAnswer_ok _ hc]
      exact ⟨rfl, rfl, fun _ => rfl, fun _ hne => absurd hc hne⟩
    · obtain ⟨honly, hraised, hbus, hcount⟩ := State.pciAnswer_error d.isSome hc
      refine ⟨hbus, by rw [honly.1], fun hor => ?_, fun _ _ => ⟨honly, hraised, hcount⟩⟩
      exact (hor.elim (fun k => k hw) hc).elim
  · rw [if_neg hw]
    exact ⟨rfl, rfl, fun _ => rfl, fun hno => (hno hw).elim⟩

theorem State.sendDue_ward (s : State) (v : Nat) : (s.sendDue v).ward = s.ward := by
  unfold State.sendDue
  split <;> rfl

theorem State.writeTableBytes_ward (s : State) (off : Nat) (bs : List Byte) : (s.writeTableBytes off bs).ward = s.ward := by
  rw [State.writeTableBytes_eq]
  refine List.foldlRecOn (motive := fun u : State => u.ward = s.ward) _ _ ?_ fun u hu v _ => (u.sendDue_ward v).trans hu
  exact List.foldlRecOn (motive := fun u : State => u.ward = s.ward) _ _ rfl fun u hu _ _ => hu

theorem u8_cons (b : Byte) (bs : List Byte) : u8 (b :: bs) 0 = b.toNat := by
  simp [u8, slice, leNat]

/-- Vector Control of a vector is written by the host. -/
theorem hostAccess_control (h : s.pciUp = true) (hf : s.fenced Region.link = false) (hv : v < 64) {bs : List Byte} (hbs : bs.length = 4)
    (hp : s.pci.pba = if bit s.pci.pba v then 2 ^ v else 0) :
    Completes (.hostAccess 0 (0xF0000C + 16 * v) 4 (some bs) ecc slack) s fun t =>
      Acked t ∧ t.vectorMasked v = bit (u8 bs 0) 0 ∧ (∀ k, k ≠ v → t.vectorMasked k = s.vectorMasked k) ∧
        (bit s.pci.pba v = true → bit (u8 bs 0) 0 = false → t.pci.pba = 0 ∧ t.outbox = s.outbox ++ [s.signal v]) ∧
        (bit s.pci.pba v = false ∨ bit (u8 bs 0) 0 = true → t.pci.pba = s.pci.pba ∧ t.outbox = s.outbox) := by
  obtain ⟨b0, b1, b2, b3, rfl⟩ : ∃ b0 b1 b2 b3, bs = [b0, b1, b2, b3] := by
    match bs, hbs with
    | [b0, b1, b2, b3], _ => exact ⟨b0, b1, b2, b3, rfl⟩
  have e := (State.barAccess_table (s := s) (n := 4) (ecc := ecc) (slack := slack) hf (off := 0xF0000C + 16 * v) (by omega) (by omega)).2 [b0, b1, b2, b3]
  have hoff : 0xF0000C + 16 * v - 0xF00000 = 12 + 16 * v := by omega
  rw [hoff, show slice [b0, b1, b2, b3] 0 4 = [b0, b1, b2, b3] from rfl] at e
  have hshow := s.writeTableBytes_control hv b0 b1 b2 b3 hp
  have hward : (s.writeTableBytes (12 + 16 * v) [b0, b1, b2, b3]).ward = s.ward := s.writeTableBytes_ward _ _
  rw [u8_cons]
  generalize s.writeTableBytes (12 + 16 * v) [b0, b1, b2, b3] = u at *
  exact ⟨_, hostAccess_answered h e hward rfl, rfl, hshow⟩

/-! ### Function level reset, vectors and link changes -/

theorem State.resetSignals_masked (s : State) (v : Nat) : s.resetSignals.vectorMasked v = true := by
  simp only [State.vectorMasked, State.resetSignals, Tab.get_empty]
  rfl

theorem State.resetSignals_reg (s : State) (r : Nat) : s.resetSignals.reg r = s.reg r := rfl
theorem State.resetSignals_flag (s : State) (r b : Nat) : s.resetSignals.flag r b = s.flag r b := by
  rw [State.flag, State.resetSignals_reg, State.flag]
theorem State.resetSignals_fld (s : State) (r hi lo : Nat) : s.resetSignals.fld r hi lo = s.fld r hi lo := by
  rw [State.fld, State.resetSignals_reg, State.fld]
theorem State.resetSignals_mode (s : State) : s.resetSignals.mode = s.mode := s.resetSignals_fld _ _ _
theorem State.resetSignals_variant (s : State) : s.resetSignals.variant = s.variant := rfl
theorem State.resetSignals_plic (s : State) : s.resetSignals.plic = s.plic := rfl

theorem State.resetSignals_bus (s : State) : s.resetSignals.bus = s.bus := rfl

theorem OnlyRegs.resetSignals {rs : List Nat} (h : OnlyRegs s t rs) : OnlyRegs { s with pci := t.resetSignals.pci } t.resetSignals rs :=
  ⟨congrArg (fun x : State => { x with pci := t.resetSignals.pci }) h.1, h.2⟩

theorem exec_flr : exec .flr s = .next (if s.pciUp && !s.fenced Region.link then s.resetSignals.raise 435 else s) := rfl

theorem flr_resets (h : s.pciUp = true) (hf : s.fenced Region.link = false) : Completes .flr s fun t =>
    t = { s with pci := { s.pci with table := .empty, pba := 0 }, plic := t.plic } ∧ Raised s t [435] ∧ ∀ v, t.vectorMasked v = true := by
  refine ⟨s.resetSignals.raise 435, by rw [exec_flr, if_pos (by simp [h, hf])], ?_,
    Raised.single s.resetSignals_variant s.resetSignals_mode s.resetSignals_plic 435, fun v => ?_⟩
  · rw [State.raise_only]
    rfl
  · rw [State.vectorMasked, State.raise_pci]
    exact s.resetSignals_masked v

theorem flr_idles (h : ¬ (s.pciUp = true ∧ s.fenced Region.link = false)) : Idles .flr s := by
  rw [Idles, exec_flr, if_neg (by simpa using h)]

/-- The host has been told of a vector. -/
def State.noteTold (s : State) (v : Nat) : State := { s with pci := { s.pci with told := setBit s.pci.told v } }

theorem exec_msiX (hv : v < 64) : exec (.msiX v) s = .next
    (if !(s.pciUp && !s.fenced Region.link) || s.fld (Reg.pciVmap v) 8 0 == 0 || !s.pendingSource (s.fld (Reg.pciVmap v) 8 0) || bit s.pci.told v then s
      else if s.vectorMasked v then { s.noteTold v with pci := { (s.noteTold v).pci with pba := setBit s.pci.pba v } } else (s.noteTold v).sendMessageSignal v) := by
  show execMsiX v s = _
  unfold execMsiX
  rw [Nat.mod_eq_of_lt hv]
  dsimp only
  split <;> rfl

theorem msiX_due (hv : v < 64) (h : s.pciUp = true) (hf : s.fenced Region.link = false) (hn : s.fld (Reg.pciVmap v) 8 0 ≠ 0)
    (hp : s.pendingSource (s.fld (Reg.pciVmap v) 8 0) = true) (ht : bit s.pci.told v = false) :
    Completes (.msiX v) s fun t => t = { s with pci := t.pci, outbox := t.outbox } ∧ bit t.pci.told v = true ∧ t.pci.table = s.pci.table ∧
      (s.vectorMasked v = true → bit t.pci.pba v = true ∧ t.outbox = s.outbox) ∧
      (s.vectorMasked v = false → bit t.pci.pba v = false ∧ t.outbox = s.outbox ++ [s.signal v]) := by
  have e := exec_msiX (s := s) hv
  rw [if_neg (by simp [h, hf, hn, hp, ht])] at e
  have htold : bit (setBit s.pci.told v) v = true := (bit_setBit _ _ _).trans (by simp)
  refine ⟨_, e, ?_⟩
  by_cases hm : s.vectorMasked v = true
  · rw [if_pos hm]
    exact ⟨rfl, htold, rfl, fun _ => ⟨(bit_setBit _ _ _).trans (by simp), rfl⟩, fun hno => by simp [hm] at hno⟩
  · rw [if_neg hm]
    exact ⟨rfl, htold, rfl, fun hyes => absurd hyes hm, fun _ => ⟨(bit_clearBit _ _ _).trans (by simp), rfl⟩⟩

theorem msiX_idles (hv : v < 64) (h : ¬ (s.pciUp = true ∧ s.fenced Region.link = false ∧ s.fld (Reg.pciVmap v) 8 0 ≠ 0 ∧
    s.pendingSource (s.fld (Reg.pciVmap v) 8 0) = true ∧ bit s.pci.told v = false)) : Idles (.msiX v) s := by
  rw [Idles, exec_msiX hv, if_pos]
  simp only [Bool.or_eq_true, Bool.not_eq_true', Bool.and_eq_false_iff, Bool.not_eq_false', beq_iff_eq]
  simp only [not_and_or, not_not, Bool.not_eq_true, Bool.not_eq_false] at h
  tauto

/-- PCI.STATUS as a link change leaves it. -/
def linkWord (up : Bool) (rate width ltssm : Nat) : Nat := ofBool up * 2 ^ 31 + rate % 16 * 2 ^ 16 + width % 64 * 2 ^ 8 + ltssm % 64

/-- The link's state is shown. -/
def State.showLink (s : State) (up : Bool) (rate width ltssm : Nat) : State := s.setNum Reg.pciStatus (linkWord up rate width ltssm)

theorem exec_pcieLinkChange (h : s.awake = true ∧ s.variant.hasPci = true ∧ s.fenced Region.link = false) (up : Bool) (rate width ltssm : Nat) :
    exec (.pcieLinkChange up rate width ltssm) s = .next
      (if s.flag Reg.pciStatus 31 = up then s.showLink up rate width ltssm
        else if up then (s.showLink up rate width ltssm).raise 432 else (s.showLink up rate width ltssm).resetSignals.raise 433) := by
  obtain ⟨ha, hv, hf⟩ := h
  show execPcieLinkChange up rate width ltssm s = _
  rw [execPcieLinkChange, if_neg (by simp [ha, hv, hf])]
  rfl

theorem State.showLink_shows (s : State) (up : Bool) (rate width ltssm : Nat) :
    (s.showLink up rate width ltssm).flag Reg.pciStatus 31 = up ∧ (s.showLink up rate width ltssm).fld Reg.pciStatus 19 16 = rate % 16 ∧
      (s.showLink up rate width ltssm).fld Reg.pciStatus 13 8 = width % 64 ∧ (s.showLink up rate width ltssm).fld Reg.pciStatus 5 0 = ltssm % 64 := by
  have hu : ofBool up ≤ 1 := by cases up <;> decide
  have hlt : linkWord up rate width ltssm < 2 ^ 32 := by unfold linkWord; omega
  have hn : ((s.showLink up rate width ltssm).reg Reg.pciStatus).toNat = linkWord up rate width ltssm := State.num_setNum s Reg.pciStatus _ hlt
  simp only [State.flag, State.fld, field, bit, hn]
  unfold linkWord
  refine ⟨?_, ?_, ?_, ?_⟩
  · have htop : (ofBool up * 2 ^ 31 + rate % 16 * 2 ^ 16 + width % 64 * 2 ^ 8 + ltssm % 64) / 2 ^ 31 % 2 = ofBool up := by omega
    rw [htop]
    cases up <;> rfl
  all_goals omega

theorem State.showLink_kept (s : State) (up : Bool) (rate width ltssm : Nat) :
    OnlyRegs s (s.showLink up rate width ltssm) [Reg.pciStatus] ∧ (s.showLink up rate width ltssm).mode = s.mode ∧
      (s.showLink up rate width ltssm).bus = s.bus ∧ (s.showLink up rate width ltssm).variant = s.variant ∧
      (s.showLink up rate width ltssm).plic = s.plic ∧ (s.showLink up rate width ltssm).pci = s.pci :=
  ⟨(OnlyRegs.refl s _).setReg (by simp) _, State.mode_setReg (by decide) _, State.setReg_bus _ _ _, State.setReg_variant _ _ _,
    State.setReg_plic _ _ _, State.setReg_pci _ _ _⟩

theorem pcieLinkChange_shows (h : s.awake = true ∧ s.variant.hasPci = true ∧ s.fenced Region.link = false) (up : Bool) (rate width ltssm : Nat) :
    Completes (.pcieLinkChange up rate width ltssm) s fun t => t.bus = s.bus ∧ OnlyRegs { s with pci := t.pci } t [Reg.pciStatus] ∧
      Raised s t (if s.flag Reg.pciStatus 31 = up then [] else if up then [432] else [433]) ∧
      t.pci = (if s.flag Reg.pciStatus 31 = true ∧ up = false then { s.pci with table := .empty, pba := 0 } else s.pci) ∧
      t.flag Reg.pciStatus 31 = up ∧ t.fld Reg.pciStatus 19 16 = rate % 16 ∧ t.fld Reg.pciStatus 13 8 = width % 64 ∧
      t.fld Reg.pciStatus 5 0 = ltssm % 64 := by
  refine ⟨_, exec_pcieLinkChange h up rate width ltssm, ?_⟩
  have hshow := s.showLink_shows up rate width ltssm
  obtain ⟨honly, hmode, hbus, hvar, hplic, hpci⟩ := s.showLink_kept up rate width ltssm
  generalize s.showLink up rate width ltssm = u at *
  by_cases hsame : s.flag Reg.pciStatus 31 = up
  · have hno : ¬ (s.flag Reg.pciStatus 31 = true ∧ up = false) := by rw [hsame]; simp
    rw [if_pos hsame, if_pos hsame, if_neg hno]
    exact ⟨hbus, by rw [hpci]; exact honly, Raised.nil hplic, hpci, hshow⟩
  · rw [if_neg hsame, if_neg hsame]
    cases up
    case true =>
      rw [if_pos rfl, if_pos rfl, if_neg (by simp)]
      simp only [State.raise_flag, State.raise_fld, State.raise_pci, State.raise_bus]
      exact ⟨hbus, by rw [hpci]; exact honly.raise 432, Raised.single hvar hmode hplic 432, hpci, hshow⟩
    case false =>
      have hwas : s.flag Reg.pciStatus 31 = true := by simpa using hsame
      rw [if_neg Bool.false_ne_true, if_neg Bool.false_ne_true, if_pos ⟨hwas, rfl⟩]
      simp only [State.raise_flag, State.raise_fld, State.raise_pci, State.raise_bus]
      have hreset : u.resetSignals.pci = { s.pci with table := .empty, pba := 0 } := by rw [State.resetSignals, hpci]
      refine ⟨u.resetSignals_bus.trans hbus, honly.resetSignals.raise 433, Raised.single (u.resetSignals_variant.trans hvar)
        (u.resetSignals_mode.trans hmode) (u.resetSignals_plic.trans hplic) 433, hreset, ?_⟩
      simpa only [State.resetSignals_flag, State.resetSignals_fld] using hshow

theorem pcieLinkChange_idles (h : ¬ (s.awake = true ∧ s.variant.hasPci = true ∧ s.fenced Region.link = false)) (up : Bool) (rate width ltssm : Nat) :
    Idles (.pcieLinkChange up rate width ltssm) s := by
  show execPcieLinkChange up rate width ltssm s = _
  rw [execPcieLinkChange, if_pos]
  simp only [not_and_or, Bool.not_eq_true, Bool.not_eq_false] at h
  simpa [or_assoc] using h

/-- Settles O55: accesses of the PCIe host, its MSI-X messages, function level reset and link changes. -/
theorem pcieHostsAccessAndAreSignalled : Obligations.PcieHostsAccessAndAreSignalled := by
  intro s word message errs
  refine ⟨fun h bar off n d ecc slack => ?_, fun h bar off n d ecc slack => ⟨fun hf => ?_, fun hf ht hout => ?_, fun hf a ht => hostAccess_target h hf ht⟩,
    fun h hf => ⟨fun off n ecc slack hlo hhi => ?_, fun off n ecc slack hlo hhi => ?_, fun v bs ecc slack hv hbs hp => hostAccess_control h hf hv hbs hp⟩,
    ?_, fun v hv => ?_, fun up rate width ltssm => ?_⟩
  · show execHostAccess bar off n d ecc slack s = _
    rw [execHostAccess, if_neg (by simp [h])]
  · obtain ⟨a, m, e⟩ := State.barAccess_fenced (bar := bar) (off := off) (n := n) (d := d) (ecc := ecc) (slack := slack) hf
    exact hostAccess_refused h (by decide) e
  · obtain ⟨a, m, e⟩ := State.barAccess_absent (d := d) (ecc := ecc) (slack := slack) hf ht hout
    exact hostAccess_refused h (by decide) e
  · exact ⟨_, hostAccess_answered h (State.barAccess_table hf hlo hhi).1 rfl rfl, rfl⟩
  · exact ⟨_, hostAccess_answered h (State.barAccess_pending hf hlo hhi) rfl rfl, rfl⟩
  · split
    next hc => exact flr_resets hc.1 hc.2
    next hc => exact flr_idles hc
  · intro n
    split
    next hc =>
      obtain ⟨hup, hf, hn, hp, ht⟩ := hc
      exact msiX_due hv hup hf hn hp ht
    next hc => exact msiX_idles hv hc
  · split
    next hc => exact pcieLinkChange_shows hc up rate width ltssm
    next hc => exact pcieLinkChange_idles hc up rate width ltssm

end Sys2Proof.Machine
end

section
/-! The collector's records (18): what the writing of one changes (R672, R673, R675, R676). -/
namespace Sys2Proof.Machine

variable {s t u : State} {r : FaultRecord} {seq : Nat} {bs : List Byte}

/-! ### Bytes that stand -/

theorem Memory.readAll_congr (gen gen' : Nat) (m m' : Memory) (a n : Nat)
    (h : ∀ x, a ≤ x → x < a + n → Memory.read gen m x = Memory.read gen' m' x) : Memory.readAll gen m a n = Memory.readAll gen' m' a n := by
  induction n generalizing a with
  | zero => rfl
  | succ n ih =>
    rw [Memory.readAll, Memory.readAll, h a (Nat.le_refl a) (by omega), ih (a + 1) fun x hx hn => h x (by omega) (by omega)]

theorem State.bytes_congr {a n : Nat} (h : ∀ x, a ≤ x → x < a + n → t.byte x = s.byte x) : t.bytes a n = s.bytes a n :=
  Memory.readAll_congr _ _ _ _ a n h

theorem FaultRecord.length_bytes (r : FaultRecord) (seq detail : Nat) : (r.bytes seq detail).length = 32 := by
  simp [FaultRecord.bytes]

/-! ### The steps of the writing -/

/-- The record takes its SEQ, which FLT.SEQ shows. -/
def State.noteSeq (s : State) (r : FaultRecord) (seq : Nat) : State :=
  { s with flt := { s.flt with seqOf := s.flt.seqOf.set r.tag seq } }.setNum Reg.fltSeq seq

/-- The record goes to the ring, where SRAM is ready and no STORE locks its place. -/
def State.writeRing (s : State) (seq : Nat) (bs : List Byte) : State :=
  if s.chip.stockReady && !s.storeLocks (engineWho Init.warden) (Addr.stock + 32 * (seq % 1024)) 32 then s.poke (Addr.stock + 32 * (seq % 1024)) bs
  else s

/-- LOGSEQ shows the newest SEQ in the log. -/
def State.showLogged (s : State) (seq : Nat) : State := if seqNewer 32 seq (s.num Reg.fltLogseq) then s.setNum Reg.fltLogseq seq else s

/-- The time of a record that the log limits is noted. -/
def State.noteLogged (s : State) (r : FaultRecord) : State :=
  if 3 ≤ r.level ∨ r.injected then s
  else
    let times := s.chip.up :: (s.flt.logTimes.get r.det).filter (fun t => s.chip.up < t + 60000000000)
    { s with flt := { s.flt with logTimes := s.flt.logTimes.set r.det times } }

/-- The record goes to the log. -/
def State.writeLog (s : State) (r : FaultRecord) (seq : Nat) (bs : List Byte) : State :=
  ((s.poke (s.logBase + 32 * (seq % 4096)) bs).showLogged seq).noteLogged r

/-- A record that the log does not take is counted. -/
def State.skipLog (s : State) : State := (s.bump Reg.fltLogskip 31 0 1).raise 27

/-- A record of the region level is counted and told. -/
def State.tellRegion (s : State) (r : FaultRecord) : State := if r.level = 3 then (s.bump Reg.fltLevels 31 16 1).raise 24 else s

/-- A record of the chip level is counted, shown and told. -/
def State.tellChip (s : State) (r : FaultRecord) (seq : Nat) : State :=
  if r.level = 4 then ((s.bump Reg.fltLevels 15 0 1).setNum Reg.fltLastchip seq).raise 25 else s

/-- Every record is told where CTRL asks for it. -/
def State.tellRecord (s : State) : State := if s.flag Reg.fltCtrl 1 then s.raise 28 else s

/-- The 32 bytes of a record. -/
def State.recordBytes (s : State) (r : FaultRecord) (seq : Nat) : List Byte :=
  r.bytes seq (match r.parent with
    | some t => s.flt.seqOf.get t % 2 ^ 32
    | none => r.detail)

/-- The record in the ring and the log. -/
def State.storeRecord (s : State) (r : FaultRecord) (seq : Nat) : State :=
  let u := (s.noteSeq r seq).writeRing seq (s.recordBytes r seq)
  if u.logAdmits r then u.writeLog r seq (s.recordBytes r seq) else u.skipLog

theorem State.writeRecord_eq (s : State) (r : FaultRecord) (seq : Nat) :
    s.writeRecord r seq = (((s.storeRecord r seq).tellRegion r).tellChip r seq).tellRecord := by
  unfold State.writeRecord State.storeRecord
  rfl

/-! ### What they leave -/

/-- From `s` to `t` the registers outside `rs`, the waiting records and the SEQs given stand, and no pending source falls. -/
structure RecordStep (rs : List Nat) (s t : State) : Prop where
  regs : ∀ q, q ∉ rs → t.reg q = s.reg q
  waiting : t.flt.waiting = s.flt.waiting
  seqOf : t.flt.seqOf = s.flt.seqOf
  nextSeq : t.flt.nextSeq = s.flt.nextSeq
  wrote : t.flt.wrote = s.flt.wrote
  chip : t.chip = s.chip
  blk : t.blk = s.blk
  variant : t.variant = s.variant
  rises : ∀ n, s.pendingSource n = true → t.pendingSource n = true

namespace RecordStep
variable {rs qs : List Nat} {z : State}

theorem refl (s : State) : RecordStep rs s s := ⟨fun _ _ => rfl, rfl, rfl, rfl, rfl, rfl, rfl, rfl, fun _ h => h⟩

theorem trans (h : RecordStep rs z s) (k : RecordStep qs s t) (hq : qs ⊆ rs) : RecordStep rs z t where
  regs q hn := (k.regs q fun hm => hn (hq hm)).trans (h.regs q hn)
  waiting := k.waiting.trans h.waiting
  seqOf := k.seqOf.trans h.seqOf
  nextSeq := k.nextSeq.trans h.nextSeq
  wrote := k.wrote.trans h.wrote
  chip := k.chip.trans h.chip
  blk := k.blk.trans h.blk
  variant := k.variant.trans h.variant
  rises n hn := k.rises n (h.rises n hn)

theorem mono (h : RecordStep qs s t) (hq : qs ⊆ rs) : RecordStep rs s t := (RecordStep.refl s).trans h hq

theorem setReg {q : Nat} (h : RecordStep rs z s) (hq : q ∈ rs) (v : Word) : RecordStep rs z (s.setReg q v) :=
  h.trans (qs := [q]) ⟨fun k hk => State.reg_setReg_ne s q k v (by simpa using hk), rfl, rfl, rfl, rfl, rfl, rfl, rfl, fun _ hn => hn⟩ (by simpa using hq)

theorem raise (h : RecordStep rs z s) (n : Nat) : RecordStep rs z (s.raise n) :=
  h.trans (qs := []) ⟨fun k _ => State.raise_reg s n k, by simp, by simp, by simp, by simp, by simp, by simp, by simp,
    fun k hk => s.pendingSource_raise n k hk⟩ (by simp)

theorem poke (h : RecordStep rs z s) (a : Nat) (bs : List Byte) : RecordStep rs z (s.poke a bs) :=
  h.trans (qs := []) ⟨fun _ _ => rfl, rfl, rfl, rfl, rfl, rfl, rfl, rfl, fun _ hn => hn⟩ (by simp)

theorem ite {c : Prop} [Decidable c] {a b : State} (h : RecordStep rs z a) (k : RecordStep rs z b) : RecordStep rs z (if c then a else b) := by
  split <;> assumption

theorem num (h : RecordStep rs z s) {q : Nat} (hq : q ∉ rs) : s.num q = z.num q := by rw [State.num, h.regs q hq, State.num]
theorem flag (h : RecordStep rs z s) {q : Nat} (hq : q ∉ rs) (b : Nat) : s.flag q b = z.flag q b := by rw [State.flag, h.regs q hq, State.flag]
theorem mode (h : RecordStep rs z s) (hq : Reg.sysMode ∉ rs) : s.mode = z.mode := by
  rw [State.mode, State.fld, h.regs _ hq, State.mode, State.fld]
theorem canRise (h : RecordStep rs z s) (hq : Reg.sysMode ∉ rs) (n : Nat) : s.canRise n = z.canRise n := by
  rw [State.canRise, State.awake, h.variant, h.mode hq, State.canRise, State.awake]

/-- A source raised after a step that keeps the mode. -/
theorem rises_raise {w : State} (h : RecordStep rs z s) (hq : Reg.sysMode ∉ rs) (n : Nat) (k : RecordStep qs (s.raise n) w) : Rises z w n :=
  fun hz => k.rises n (s.raise_rises n (by rwa [h.canRise hq]))

/-! ### Each step -/

theorem writeRing (s : State) (seq : Nat) (bs : List Byte) : RecordStep [] s (s.writeRing seq bs) := ((refl s).poke _ _).ite (refl s)

theorem showLogged (s : State) (seq : Nat) : RecordStep [Reg.fltLogseq] s (s.showLogged seq) := ((refl s).setReg (by simp) _).ite (refl s)

theorem noteLogged (s : State) (r : FaultRecord) : RecordStep [] s (s.noteLogged r) := by
  unfold State.noteLogged
  extract_lets times
  exact (refl s).ite ⟨fun _ _ => rfl, rfl, rfl, rfl, rfl, rfl, rfl, rfl, fun _ h => h⟩

theorem writeLog (s : State) (r : FaultRecord) (seq : Nat) (bs : List Byte) : RecordStep [Reg.fltLogseq] s (s.writeLog r seq bs) :=
  (((refl s).poke _ _).trans (showLogged _ seq) (by simp)).trans (noteLogged _ r) (by simp)

theorem skipLog (s : State) : RecordStep [Reg.fltLogskip] s s.skipLog := ((refl s).setReg (by simp) _).raise 27

theorem tellRegion (s : State) (r : FaultRecord) : RecordStep [Reg.fltLevels] s (s.tellRegion r) :=
  (((refl s).setReg (by simp) _).raise 24).ite (refl s)

theorem tellChip (s : State) (r : FaultRecord) (seq : Nat) : RecordStep [Reg.fltLevels, Reg.fltLastchip] s (s.tellChip r seq) :=
  ((((refl s).setReg (by simp) _).setReg (by simp) _).raise 25).ite (refl s)

theorem tellRecord (s : State) : RecordStep [] s s.tellRecord := ((refl s).raise 28).ite (refl s)

end RecordStep

/-! ### What they write -/

theorem ring_below_mram (seq x : Nat) (hx : Addr.mram ≤ x) : Addr.stock + 32 * (seq % 1024) + 32 ≤ x := by
  have : Addr.stock + 32 * 1024 ≤ Addr.mram := by decide
  omega

theorem State.logBase_above (s : State) : Addr.mram ≤ s.logBase := by
  unfold State.logBase Addr.records
  omega

/-- The ring holds the record where it is written, and MRAM stands. -/
theorem State.writeRing_bytes (s : State) (seq : Nat) (hb : bs.length = 32) :
    (s.chip.stockReady = true → s.storeLocks (engineWho Init.warden) (Addr.stock + 32 * (seq % 1024)) 32 = false →
      (s.writeRing seq bs).bytes (Addr.stock + 32 * (seq % 1024)) bs.length = bs) ∧
      ∀ x, Addr.mram ≤ x → (s.writeRing seq bs).byte x = s.byte x := by
  unfold State.writeRing
  refine ⟨fun hready hlock => ?_, fun x hx => ?_⟩
  · rw [if_pos (by simp [hready, hlock])]
    exact s.bytes_poke _ bs
  · have := ring_below_mram seq x hx
    split
    · exact State.byte_poke_outside s _ x bs (.inr (by omega))
    · rfl

theorem State.showLogged_mem (s : State) (seq : Nat) : (s.showLogged seq).mem = s.mem := by unfold State.showLogged; split <;> simp
theorem State.showLogged_ddrGen (s : State) (seq : Nat) : (s.showLogged seq).ddrGen = s.ddrGen := by unfold State.showLogged; split <;> simp
theorem State.noteLogged_mem (s : State) (r : FaultRecord) : (s.noteLogged r).mem = s.mem := by unfold State.noteLogged; split <;> rfl
theorem State.noteLogged_ddrGen (s : State) (r : FaultRecord) : (s.noteLogged r).ddrGen = s.ddrGen := by unfold State.noteLogged; split <;> rfl

theorem State.writeLog_byte (s : State) (r : FaultRecord) (seq : Nat) (bs : List Byte) (x : Nat) :
    (s.writeLog r seq bs).byte x = (s.poke (s.logBase + 32 * (seq % 4096)) bs).byte x := by
  simp only [State.byte, State.writeLog, State.noteLogged_mem, State.noteLogged_ddrGen, State.showLogged_mem, State.showLogged_ddrGen]

/-- The log holds the record, and what is below MRAM stands. -/
theorem State.writeLog_bytes (s : State) (r : FaultRecord) (seq : Nat) (bs : List Byte) :
    (s.writeLog r seq bs).bytes (s.logBase + 32 * (seq % 4096)) bs.length = bs ∧
      ∀ x, x < Addr.mram → (s.writeLog r seq bs).byte x = s.byte x := by
  refine ⟨?_, fun x hx => ?_⟩
  · rw [State.bytes_congr fun x _ _ => s.writeLog_byte r seq bs x]
    exact s.bytes_poke _ bs
  · rw [State.writeLog_byte]
    have := s.logBase_above
    exact State.byte_poke_outside s _ x bs (.inl (by omega))

theorem State.skipLog_byte (s : State) (x : Nat) : s.skipLog.byte x = s.byte x := by simp [State.skipLog, State.byte]
theorem State.tellRegion_byte (s : State) (r : FaultRecord) (x : Nat) : (s.tellRegion r).byte x = s.byte x := by
  unfold State.tellRegion; split <;> simp [State.byte]
theorem State.tellChip_byte (s : State) (r : FaultRecord) (seq x : Nat) : (s.tellChip r seq).byte x = s.byte x := by
  unfold State.tellChip; split <;> simp [State.byte]
theorem State.tellRecord_byte (s : State) (x : Nat) : s.tellRecord.byte x = s.byte x := by
  unfold State.tellRecord; split <;> simp [State.byte]

theorem State.skipLog_shows (s : State) : Rises s s.skipLog 27 ∧ s.skipLog.num Reg.fltLogskip = min (2 ^ 32 - 1) (s.num Reg.fltLogskip + 1) :=
  ⟨((RecordStep.refl s).setReg (rs := [Reg.fltLogskip]) (by simp) _).rises_raise (by decide) 27 (.refl (rs := []) _),
    (State.raise_num _ _ _).trans (State.num_bump _ _ _)⟩

theorem State.tellRegion_rises (s : State) (h : r.level = 3) : Rises s (s.tellRegion r) 24 := by
  rw [State.tellRegion, if_pos h]
  exact ((RecordStep.refl s).setReg (rs := [Reg.fltLevels]) (by simp) _).rises_raise (by decide) 24 (.refl (rs := []) _)

theorem State.tellChip_shows (s : State) (seq : Nat) (h : r.level = 4) :
    Rises s (s.tellChip r seq) 25 ∧ (s.tellChip r seq).num Reg.fltLastchip = seq % 2 ^ 32 := by
  rw [State.tellChip, if_pos h]
  refine ⟨(((RecordStep.refl s).setReg (rs := [Reg.fltLevels, Reg.fltLastchip]) (by simp) _).setReg (by simp) _).rises_raise (by decide) 25
    (.refl (rs := []) _), ?_⟩
  rw [State.raise_num, State.num, State.setNum, State.reg_setReg_same, BitVec.toNat_ofNat]

theorem State.tellRecord_rises (s : State) (h : s.flag Reg.fltCtrl 1 = true) : Rises s s.tellRecord 28 := by
  rw [State.tellRecord, if_pos h]
  exact (RecordStep.refl (rs := []) s).rises_raise (by decide) 28 (.refl (rs := []) _)

end Sys2Proof.Machine
end

section
/-! The collector writes its next waiting record (R672, R673, R675, R676). -/
namespace Sys2Proof.Machine

variable {s t u : State} {r : FaultRecord} {seq : Nat} {bs : List Byte}

/-! ### The record in the ring and the log -/

theorem State.noteSeq_reg (s : State) (r : FaultRecord) (seq : Nat) {q : Nat} (h : q ≠ Reg.fltSeq) : (s.noteSeq r seq).reg q = s.reg q :=
  State.reg_setReg_ne _ _ q _ h

theorem State.noteSeq_shows (s : State) (r : FaultRecord) (seq : Nat) :
    (s.noteSeq r seq).num Reg.fltSeq = seq % 2 ^ 32 ∧ (s.noteSeq r seq).flt.seqOf.get r.tag = seq := by
  refine ⟨?_, ?_⟩
  · rw [State.num, State.noteSeq, State.setNum, State.reg_setReg_same, BitVec.toNat_ofNat]
  · rw [State.noteSeq, State.setNum_eq, State.setReg_flt]
    exact Tab.get_set_eq _ _ _

/-- Apart from FLT.SEQ and the SEQs given, taking a SEQ changes nothing. -/
theorem State.noteSeq_kept (s : State) (r : FaultRecord) (seq : Nat) : (s.noteSeq r seq).flt = { s.flt with seqOf := s.flt.seqOf.set r.tag seq } ∧
    (s.noteSeq r seq).chip = s.chip ∧ (s.noteSeq r seq).blk = s.blk ∧ (s.noteSeq r seq).variant = s.variant ∧ (s.noteSeq r seq).plic = s.plic ∧
    (s.noteSeq r seq).mem = s.mem ∧ (s.noteSeq r seq).ddrGen = s.ddrGen :=
  ⟨State.setReg_flt _ _ _, State.setReg_chip _ _ _, State.setReg_blk _ _ _, State.setReg_variant _ _ _, State.setReg_plic _ _ _,
    State.setReg_mem _ _ _, State.setReg_ddrGen _ _ _⟩

theorem State.writeRing_flt (s : State) (seq : Nat) (bs : List Byte) : (s.writeRing seq bs).flt = s.flt := by
  unfold State.writeRing
  split <;> rfl

theorem State.logAdmits_congr (hc : t.chip = s.chip) (ht : t.flt.logTimes = s.flt.logTimes) (r : FaultRecord) : t.logAdmits r = s.logAdmits r := by
  rw [State.logAdmits, State.logAdmits, hc, ht]

theorem State.storeLocks_congr (hb : t.blk = s.blk) (w : Who) (a n : Nat) : t.storeLocks w a n = s.storeLocks w a n := by
  rw [State.storeLocks, State.storeLocks, hb]

theorem RecordStep.storeRecord (s : State) (r : FaultRecord) (seq : Nat) :
    RecordStep [Reg.fltLogseq, Reg.fltLogskip] (s.noteSeq r seq) (s.storeRecord r seq) := by
  unfold State.storeRecord
  extract_lets u
  have hu : RecordStep [Reg.fltLogseq, Reg.fltLogskip] (s.noteSeq r seq) u := (RecordStep.writeRing _ _ _).mono (by simp)
  exact (hu.trans (RecordStep.writeLog u r seq _) (by simp)).ite (hu.trans (RecordStep.skipLog u) (by simp))

/-- What the ring and the log hold of a record, and what is counted of one that the log does not take. -/
theorem State.storeRecord_shows (s : State) (r : FaultRecord) (seq : Nat) :
    let t := s.storeRecord r seq
    let bs := s.recordBytes r seq
    (s.chip.stockReady = true → s.storeLocks (engineWho Init.warden) (Addr.stock + 32 * (seq % 1024)) 32 = false →
      t.bytes (Addr.stock + 32 * (seq % 1024)) bs.length = bs) ∧
    (s.logAdmits r = true → t.bytes (s.logBase + 32 * (seq % 4096)) bs.length = bs) ∧
    (s.logAdmits r = false → (∀ a, Addr.mram ≤ a → t.byte a = s.byte a) ∧ Rises s t 27 ∧
      t.num Reg.fltLogskip = min (2 ^ 32 - 1) (s.num Reg.fltLogskip + 1)) := by
  intro t bs
  have hbs : bs.length = 32 := r.length_bytes seq _
  obtain ⟨hflt, hchip, hblk, hvar, hplic, hmem, hgen⟩ := s.noteSeq_kept r seq
  have hmode : (s.noteSeq r seq).reg Reg.sysMode = s.reg Reg.sysMode := s.noteSeq_reg r seq (by decide)
  have hskip : (s.noteSeq r seq).reg Reg.fltLogskip = s.reg Reg.fltLogskip := s.noteSeq_reg r seq (by decide)
  have ht : t = if ((s.noteSeq r seq).writeRing seq bs).logAdmits r then ((s.noteSeq r seq).writeRing seq bs).writeLog r seq bs
    else ((s.noteSeq r seq).writeRing seq bs).skipLog := rfl
  clear_value t bs
  generalize s.noteSeq r seq = a at *
  have hstep := RecordStep.writeRing a seq bs
  obtain ⟨hring, hmram⟩ := a.writeRing_bytes seq hbs
  have hadm : (a.writeRing seq bs).logAdmits r = s.logAdmits r :=
    State.logAdmits_congr (hstep.chip.trans hchip) (by rw [State.writeRing_flt, hflt]) r
  have hbase : (a.writeRing seq bs).logBase = s.logBase := by rw [State.logBase, hstep.variant, hvar, State.logBase]
  rw [hadm] at ht
  generalize a.writeRing seq bs = b at *
  have hlow (x : Nat) (hx : x < Addr.mram) : t.byte x = b.byte x := by
    rw [ht]
    split
    · exact (b.writeLog_bytes r seq bs).2 x hx
    · exact b.skipLog_byte x
  refine ⟨fun hready hlock => ?_, fun hyes => ?_, fun hno => ?_⟩
  · rw [← hring (by rw [hchip]; exact hready) (by rw [State.storeLocks_congr hblk]; exact hlock)]
    have hlen : (b.bytes (Addr.stock + 32 * (seq % 1024)) bs.length).length = bs.length := by
      rw [hring (by rw [hchip]; exact hready) (by rw [State.storeLocks_congr hblk]; exact hlock)]
    rw [hlen]
    refine State.bytes_congr fun x _ hx => hlow x ?_
    have : Addr.stock + 32 * 1024 ≤ Addr.mram := by decide
    omega
  · rw [ht, if_pos hyes, ← hbase]
    exact (b.writeLog_bytes r seq bs).1
  · rw [ht, if_neg (by simp [hno])]
    obtain ⟨hrise, hcount⟩ := b.skipLog_shows
    refine ⟨fun x hx => ?_, fun hr => hrise ?_, ?_⟩
    · rw [b.skipLog_byte, hmram x hx, State.byte, hmem, hgen, State.byte]
    · rw [hstep.canRise (by simp), State.canRise, State.awake, State.mode, State.fld, hvar, hmode]
      exact hr
    · rw [hcount, hstep.num (by simp), State.num, hskip, State.num]

/-! ### The whole record -/

/-- The registers that the writing of a record changes, beside FLT.SEQ. -/
def recordRegs : List Nat := [Reg.fltLogseq, Reg.fltLogskip, Reg.fltLevels, Reg.fltLastchip]

theorem State.writeRecord_shows (s : State) (r : FaultRecord) (seq : Nat) :
    let t := s.writeRecord r seq
    let bs := s.recordBytes r seq
    RecordStep recordRegs (s.noteSeq r seq) t ∧
    (s.chip.stockReady = true → s.storeLocks (engineWho Init.warden) (Addr.stock + 32 * (seq % 1024)) 32 = false →
      t.bytes (Addr.stock + 32 * (seq % 1024)) bs.length = bs) ∧
    (s.logAdmits r = true → t.bytes (s.logBase + 32 * (seq % 4096)) bs.length = bs) ∧
    (s.logAdmits r = false → (∀ a, Addr.mram ≤ a → t.byte a = s.byte a) ∧ Rises s t 27 ∧
      t.num Reg.fltLogskip = min (2 ^ 32 - 1) (s.num Reg.fltLogskip + 1)) ∧
    (r.level = 3 → Rises s t 24) ∧ (r.level = 4 → Rises s t 25 ∧ t.num Reg.fltLastchip = seq % 2 ^ 32) ∧
    (s.flag Reg.fltCtrl 1 = true → Rises s t 28) := by
  intro t bs
  have ht : t = (((s.storeRecord r seq).tellRegion r).tellChip r seq).tellRecord := s.writeRecord_eq r seq
  obtain ⟨hring, hlog, hskip⟩ := s.storeRecord_shows r seq
  have h0 := RecordStep.storeRecord s r seq
  have hcan (n : Nat) : (s.noteSeq r seq).canRise n = s.canRise n := by
    rw [State.canRise, State.awake, State.mode, State.fld, s.noteSeq_reg r seq (by decide), (s.noteSeq_kept r seq).2.2.2.1, State.canRise,
      State.awake, State.mode, State.fld]
  have hctrl : (s.noteSeq r seq).flag Reg.fltCtrl 1 = s.flag Reg.fltCtrl 1 := by
    rw [State.flag, s.noteSeq_reg r seq (by decide), State.flag]
  change _ → _ → (s.storeRecord r seq).bytes _ bs.length = bs at hring
  change _ → (s.storeRecord r seq).bytes _ bs.length = bs at hlog
  change _ → (∀ a, _ → (s.storeRecord r seq).byte a = _) ∧ Rises s (s.storeRecord r seq) 27 ∧ (s.storeRecord r seq).num _ = _ at hskip
  clear_value t bs
  generalize s.noteSeq r seq = z at *
  generalize s.storeRecord r seq = a at *
  have h1 := RecordStep.tellRegion a r
  have h2 := RecordStep.tellChip (a.tellRegion r) r seq
  have h3 := RecordStep.tellRecord ((a.tellRegion r).tellChip r seq)
  have hbyte (x : Nat) : t.byte x = a.byte x := by
    rw [ht, State.tellRecord_byte, State.tellChip_byte, State.tellRegion_byte]
  have hbytes (x n : Nat) : t.bytes x n = a.bytes x n := State.bytes_congr fun y _ _ => hbyte y
  rw [← ht] at h3
  have hz2 : RecordStep recordRegs z ((a.tellRegion r).tellChip r seq) :=
    ((h0.mono (by decide)).trans h1 (by decide)).trans h2 (by decide)
  refine ⟨hz2.trans h3 (by simp), fun hready hlock => (hbytes _ _).trans (hring hready hlock), fun hyes => (hbytes _ _).trans (hlog hyes), fun hno => ?_,
    fun hlv hr => ?_, fun hlv => ?_, fun hen hr => ?_⟩
  · obtain ⟨hkept, hrise, hcount⟩ := hskip hno
    refine ⟨fun x hx => (hbyte x).trans (hkept x hx), fun hr => ?_, ?_⟩
    · exact h3.rises _ (h2.rises _ (h1.rises _ (hrise hr)))
    · rw [h3.num (by simp), h2.num (by decide), h1.num (by decide), hcount]
  · have hc : a.canRise 24 = true := by rw [h0.canRise (by decide), hcan]; exact hr
    exact h3.rises _ (h2.rises _ (a.tellRegion_rises hlv hc))
  · obtain ⟨hrise, hlast⟩ := (a.tellRegion r).tellChip_shows seq hlv
    refine ⟨fun hr => h3.rises _ (hrise ?_), (h3.num (by simp)).trans hlast⟩
    rw [h1.canRise (by decide), h0.canRise (by decide), hcan]
    exact hr
  · rw [ht]
    refine State.tellRecord_rises _ ?_ ?_
    · rw [hz2.flag (by decide), hctrl]
      exact hen
    · rw [hz2.canRise (by decide), hcan]
      exact hr

/-! ### The next waiting record -/

/-- The SEQ that a record has, or takes. -/
def State.seqFor (s : State) (r : FaultRecord) : Nat := r.seq.getD s.flt.nextSeq

/-- The first waiting record is taken, with its SEQ, at the present time. -/
def State.takeRecord (s : State) (r : FaultRecord) (rest : List FaultRecord) : State :=
  { s with flt := { s.flt with
      waiting := rest, wrote := s.chip.ran, nextSeq := if r.seq = none then (s.flt.nextSeq + 1) % 2 ^ 32 else s.flt.nextSeq } }

theorem State.writeNext_eq {rest : List FaultRecord} (h : s.flt.waiting = r :: rest) :
    s.writeNext = ((s.takeRecord r rest).writeRecord r (s.seqFor r)).showWaiting := by
  unfold State.writeNext
  rw [h]
  dsimp only
  cases hr : r.seq with
  | none => simp only [State.takeRecord, State.takeSeq, State.seqFor, hr, Option.getD_none, if_true]
  | some q => simp only [State.takeRecord, State.seqFor, hr, Option.getD_some, reduceCtorEq, if_false]

theorem RecordStep.showWaiting (s : State) : RecordStep [Reg.fltStatus] s s.showWaiting := (RecordStep.refl s).setReg (by simp) _

theorem State.showWaiting_byte (s : State) (x : Nat) : s.showWaiting.byte x = s.byte x := by simp [State.showWaiting, State.byte]

/-- What the state holds once its first waiting record is written. -/
theorem State.writeNext_shows {rest : List FaultRecord} (h : s.flt.waiting = r :: rest) :
    let seq := s.seqFor r
    let bs := s.recordBytes r seq
    let t := s.writeNext
    t.flt.waiting = rest ∧ t.mode = s.mode ∧ t.num Reg.fltSeq = seq % 2 ^ 32 ∧ t.flt.seqOf.get r.tag = seq ∧
      t.flt.nextSeq = (if r.seq = none then (s.flt.nextSeq + 1) % 2 ^ 32 else s.flt.nextSeq) ∧ t.flt.wrote = s.chip.ran ∧
      (s.chip.stockReady = true → s.storeLocks (engineWho Init.warden) (Addr.stock + 32 * (seq % 1024)) 32 = false →
        t.bytes (Addr.stock + 32 * (seq % 1024)) bs.length = bs) ∧
      (if s.logAdmits r then t.bytes (s.logBase + 32 * (seq % 4096)) bs.length = bs
        else (∀ a, Addr.mram ≤ a → t.byte a = s.byte a) ∧ Rises s t 27 ∧
          t.num Reg.fltLogskip = min (2 ^ 32 - 1) (s.num Reg.fltLogskip + 1)) ∧
      (r.level = 3 → Rises s t 24) ∧ (r.level = 4 → Rises s t 25 ∧ t.num Reg.fltLastchip = seq % 2 ^ 32) ∧
      (s.flag Reg.fltCtrl 1 = true → Rises s t 28) := by
  intro seq bs t
  have ht : t = ((s.takeRecord r rest).writeRecord r seq).showWaiting := State.writeNext_eq h
  obtain ⟨hstep, hring, hlog, hskip, hregion, hchip, hctrl⟩ := (s.takeRecord r rest).writeRecord_shows r seq
  obtain ⟨hseq, hseqOf⟩ := (s.takeRecord r rest).noteSeq_shows r seq
  obtain ⟨hflt, -⟩ := (s.takeRecord r rest).noteSeq_kept r seq
  have hmode : ((s.takeRecord r rest).noteSeq r seq).reg Reg.sysMode = s.reg Reg.sysMode := State.noteSeq_reg _ r seq (by decide)
  generalize (s.takeRecord r rest).noteSeq r seq = z at *
  have hw := RecordStep.showWaiting ((s.takeRecord r rest).writeRecord r seq)
  have hbyte (x : Nat) : t.byte x = ((s.takeRecord r rest).writeRecord r seq).byte x := by rw [ht, State.showWaiting_byte]
  rw [← ht] at hw
  clear ht
  generalize (s.takeRecord r rest).writeRecord r seq = w at *
  have hbytes (x n : Nat) : t.bytes x n = w.bytes x n := State.bytes_congr fun y _ _ => hbyte y
  have hall : RecordStep (Reg.fltStatus :: recordRegs) z t := (hstep.mono (by simp)).trans hw (by simp)
  refine ⟨?_, ?_, ?_, ?_, ?_, ?_, fun hready hlock => (hbytes _ _).trans (hring hready hlock), ?_, fun hlv hr => hw.rises _ (hregion hlv hr),
    fun hlv => ?_, fun hen hr => hw.rises _ (hctrl hen hr)⟩
  · rw [hall.waiting, hflt]
    rfl
  · rw [hall.mode (by decide), State.mode, State.fld, hmode, State.mode, State.fld]
  · rw [hall.num (by decide), hseq]
  · rw [hall.seqOf, hseqOf]
  · rw [hall.nextSeq, hflt]
    rfl
  · rw [hall.wrote, hflt]
    rfl
  · split
    next hyes => exact (hbytes _ _).trans (hlog hyes)
    next hno =>
      obtain ⟨hkept, hrise, hcount⟩ := hskip (Bool.eq_false_iff.2 hno : s.logAdmits r = false)
      exact ⟨fun x hx => (hbyte x).trans (hkept x hx), fun hr => hw.rises _ (hrise hr), (hw.num (by decide)).trans hcount⟩
  · obtain ⟨hrise, hlast⟩ := hchip hlv
    exact ⟨fun hr => hw.rises _ (hrise hr), (hw.num (by decide)).trans hlast⟩

theorem faultRecordWrite_idles (h : s.flt.waiting = []) : Idles .faultRecordWrite s := by
  show execFaultRecordWrite s = _
  rw [execFaultRecordWrite, if_pos (by simp [h])]

theorem exec_faultRecordWrite (h : s.flt.waiting ≠ []) :
    exec .faultRecordWrite s = .next (s.elapse (s.ticksUntil (s.flt.wrote + 50 * 2 ^ 32))).writeNext := by
  show execFaultRecordWrite s = _
  rw [execFaultRecordWrite, if_neg (by simp [h])]

end Sys2Proof.Machine
end

section
/-! The end of an injection request (R680 to R682): its outcome in INJ.RESULT, by timeout and by abort. -/
namespace Sys2Proof.Machine

variable {s t u o : State} {q : InjRequest} {w : Who} {v : Word}

theorem bankOf_ne (id off : Nat) {r : Nat} (h : r < 2 ^ 32) : r ≠ bankOf id off := by
  unfold bankOf
  omega

theorem not_mem_bank (id off : Nat) {r : Nat} (h : r < 2 ^ 32) : r ∉ [bankOf id off] :=
  List.not_mem_cons_of_ne_of_not_mem (bankOf_ne id off h) List.not_mem_nil

theorem not_mem_injRegs (id : Nat) {r : Nat} (h : r < 2 ^ 32) (hne : r ≠ Reg.injStatus) : r ∉ [Reg.injStatus, bankOf id Reg.injResult] :=
  List.not_mem_cons_of_ne_of_not_mem hne (not_mem_bank id _ h)

theorem Acked.replyOk (s : State) : Acked s.replyOk := rfl

/-- No request runs. -/
def State.stopInjection (s : State) : State := { s with inj := { s.inj with run := none } }

theorem State.endInjection_eq (h : s.inj.run = some q) (reason : Nat) :
    s.endInjection reason = (s.stopInjection.setNum Reg.injStatus 0).injResult q.who false reason := by
  unfold State.endInjection
  rw [h]
  rfl

/-- What a result shows of an outcome. -/
theorem State.injResult_shows (s : State) (id : Nat) (refused : Bool) {reason : Nat} (h : reason < 8) :
    OnlyRegs s (s.injResult id refused reason) [bankOf id Reg.injResult] ∧ Raised s (s.injResult id refused reason) [26] ∧
      (s.injResult id refused reason).num (bankOf id Reg.injResult) = 2 ^ 31 + ofBool refused * 2 ^ 30 + reason * 2 ^ 24 := by
  have hb : ofBool refused ≤ 1 := by cases refused <;> decide
  have hmode : (s.setNum (bankOf id Reg.injResult) (2 ^ 31 + ofBool refused * 2 ^ 30 + reason * 2 ^ 24)).mode = s.mode :=
    State.mode_setReg (bankOf_ne _ _ (by decide)).symm _
  refine ⟨((OnlyRegs.refl s _).setReg (by simp) _).raise 26, Raised.single (State.setReg_variant _ _ _) hmode (State.setReg_plic _ _ _) 26, ?_⟩
  exact (State.raise_num _ _ _).trans (State.num_setNum _ _ _ (by omega))

/-- What is left of a request that ends. -/
theorem State.endInjection_shows (h : s.inj.run = some q) {reason : Nat} (hr : reason < 8) :
    let t := s.endInjection reason
    OnlyRegs { s with inj := t.inj } t [Reg.injStatus, bankOf q.who Reg.injResult] ∧ t.inj = { s.inj with run := none } ∧ Raised s t [26] ∧
      t.num (bankOf q.who Reg.injResult) = 2 ^ 31 + reason * 2 ^ 24 ∧ t.num Reg.injStatus = 0 := by
  intro t
  have ht : t = (s.stopInjection.setNum Reg.injStatus 0).injResult q.who false reason := s.endInjection_eq h reason
  have hstop : OnlyRegs s.stopInjection (s.stopInjection.setNum Reg.injStatus 0) [Reg.injStatus, bankOf q.who Reg.injResult] :=
    (OnlyRegs.refl _ _).setReg (by simp) _
  have hstat : (s.stopInjection.setNum Reg.injStatus 0).num Reg.injStatus = 0 := State.num_setNum _ _ _ (by decide)
  have hmode : (s.stopInjection.setNum Reg.injStatus 0).mode = s.stopInjection.mode := State.mode_setReg (by decide) _
  have hmode' : s.stopInjection.mode = s.mode := rfl
  have hvar : (s.stopInjection.setNum Reg.injStatus 0).variant = s.variant := State.setReg_variant _ _ _
  have hplic : (s.stopInjection.setNum Reg.injStatus 0).plic = s.plic := State.setReg_plic _ _ _
  obtain ⟨honly, hraised, hnum⟩ := (s.stopInjection.setNum Reg.injStatus 0).injResult_shows q.who false hr
  rw [← ht] at honly hraised hnum
  have hkept : (s.stopInjection.setNum Reg.injStatus 0).inj = { s.inj with run := none } := State.setReg_inj _ _ _
  have hinj : t.inj = { s.inj with run := none } := (congrArg State.inj honly.1).trans hkept
  clear ht
  generalize s.stopInjection.setNum Reg.injStatus 0 = a at *
  have hall : OnlyRegs s.stopInjection t [Reg.injStatus, bankOf q.who Reg.injResult] := hstop.trans (honly.mono (by simp))
  refine ⟨?_, hinj, ?_, by simpa [ofBool] using hnum, ?_⟩
  · rw [hinj]
    exact hall
  · exact hraised.trans (State.raise_plic_congr hvar (hmode.trans hmode') hplic 26)
  · rw [State.num, honly.2 _ (not_mem_bank _ _ (by decide)), ← State.num]
    exact hstat

theorem exec_injectionTimeout (h : s.inj.run = some q) :
    exec .injectionTimeout s = .next ((s.elapse ((q.start + 1000000000 - s.chip.up + 3) / 4)).endInjection Inj.timeout) := by
  show execInjectionTimeout s = _
  rw [execInjectionTimeout, h]

theorem injectionTimeout_idles (h : s.inj.run = none) : Idles .injectionTimeout s := by
  show execInjectionTimeout s = _
  rw [execInjectionTimeout, h]

/-- A request that has not completed within 1 s ends. -/
theorem injectionTimeout_ends (h : s.inj.run = some q) : Completes .injectionTimeout s fun t =>
    let u := s.elapse ((q.start + 1000000000 - s.chip.up + 3) / 4)
    u.inj.run = some q → OnlyRegs { u with inj := t.inj } t [Reg.injStatus, bankOf q.who Reg.injResult] ∧ t.inj = { u.inj with run := none } ∧
      Raised u t [26] ∧ t.num (bankOf q.who Reg.injResult) = 2 ^ 31 + Inj.timeout * 2 ^ 24 ∧ t.num Reg.injStatus = 0 :=
  ⟨_, exec_injectionTimeout h, fun hu => State.endInjection_shows hu (by decide)⟩

theorem exec_injAbort (h : o.admits w Reg.injAbort v s) :
    exec (.injAbort w v) o = .next (if bit v.toNat 0 then s.abandonInjection else s).replyOk :=
  congrArg Host.Outcome.next (State.gated_ok o w Reg.injAbort v _ s h)

theorem OnlyRegs.replyOk {rs : List Nat} (h : OnlyRegs s t rs) : OnlyRegs s t.replyOk rs := h.reply _ _

/-- An abort with no request to end is acknowledged. -/
theorem injAbort_idle (h : o.admits w Reg.injAbort v s) (hno : bit v.toNat 0 = false ∨ s.inj.run = none) :
    Writes (.injAbort w v) o s [] [] fun _ => True := by
  have hsame : (if bit v.toNat 0 then s.abandonInjection else s) = s := by
    split
    next hb =>
      have hrun : s.inj.run = none := hno.resolve_left (by simp [hb])
      rw [State.abandonInjection, State.endInjection, hrun]
    next => rfl
  have e := exec_injAbort h
  rw [hsame] at e
  exact ⟨_, e, Acked.replyOk s, (OnlyRegs.refl s _).replyOk, rfl, trivial⟩

/-- An abort ends the running request. -/
theorem injAbort_ends (h : o.admits w Reg.injAbort v s) (hb : bit v.toNat 0 = true) (hq : s.inj.run = some q) :
    Completes (.injAbort w v) o fun t => Acked t ∧
      OnlyRegs { s with inj := t.inj } t [Reg.injStatus, bankOf q.who Reg.injResult] ∧ t.inj = { s.inj with run := none } ∧ Raised s t [26] ∧
        t.num (bankOf q.who Reg.injResult) = 2 ^ 31 + Inj.abandoned * 2 ^ 24 ∧ t.num Reg.injStatus = 0 := by
  have e := exec_injAbort h
  rw [if_pos hb] at e
  obtain ⟨honly, hinj, hraised, hresult, hstat⟩ := State.endInjection_shows hq (reason := Inj.abandoned) (by decide)
  exact ⟨_, e, Acked.replyOk _, honly.replyOk, hinj, hraised, hresult, hstat⟩

end Sys2Proof.Machine
end

section
/-! Injection requests (18): how one starts, waits, and presents its occurrence (R678 to R682, R686). -/
namespace Sys2Proof.Machine

variable {z s t u o : State} {q : InjRequest} {w : Who} {v : Word}

/-! ### Grants leave the system registers -/

/-- The registers of SYS and PMU. -/
@[reducible] def SystemReg (q : Nat) : Prop := q < 0x20000

theorem RegsKept.detect {P : Nat → Prop} (h : RegsKept P z s) (d : Detection) (hP : ∀ q, P q → ¬ inFlt q) : RegsKept P z (s.detect d).1 :=
  fun q hq => (s.detect_reg d q (hP q hq)).trans (h q hq)

theorem not_inFlt_of_system (q : Nat) (h : SystemReg q) : ¬ inFlt q := by
  unfold inFlt
  omega

theorem RegsKept.exhaust (h : RegsKept SystemReg z s) (n level : Nat) : RegsKept SystemReg z (s.exhaust n level) := by
  have hcr : ¬ SystemReg (Reg.wrdHexhCr n) := by simp only [SystemReg, Reg.wrdHexhCr]; omega
  have hbc : ¬ SystemReg (Reg.wrdHexhBc n) := by simp only [SystemReg, Reg.wrdHexhBc]; omega
  unfold State.exhaust
  refine h.ite ?_
  extract_lets first ward u v x
  have hu : RegsKept SystemReg z u := h.of_regs rfl
  have hv : RegsKept SystemReg z v := (hu.bump _ _ _ hcr).ite ((hu.bump _ _ _ hcr).ite ((hu.bump _ _ _ hbc).ite (hu.bump _ _ _ hbc)))
  have hw := hv.detect { det := 0x26, level := 1, loc := location (regionOfReg (0x0B * 0x10000)) 0x0B n, action := Act.none, code := 0, detail := n }
    not_inFlt_of_system
  exact (hw.raise 88).ite hw

theorem RegsKept.grant (h : RegsKept SystemReg z s) (n : Nat) (slack : Bool) (a : Arbiter) : RegsKept SystemReg z (s.grant n slack a).1 := by
  have hx := h.exhaust n a.level
  have hb : ¬ SystemReg (Reg.wrdHborrow n) := by simp only [SystemReg, Reg.wrdHborrow]; omega
  unfold State.grant
  extract_lets allot k used
  split_ifs
  · exact h
  · exact h.of_regs rfl
  · exact hx.bump _ _ _ hb
  · exact hx

theorem RegsKept.travel (h : RegsKept SystemReg z s) (n : Nat) (slack : Bool) (as : List Arbiter) :
    RegsKept SystemReg z (State.travel n slack as s).1 := by
  induction as generalizing s with
  | nil => exact h
  | cons a as ih =>
    have hg := h.grant n slack a
    simp only [State.travel]
    split
    · exact ih hg
    · exact hg

theorem RegsKept.grants (s : State) (x : Waiting) : RegsKept SystemReg s (s.grants x).1 := by
  unfold State.grants
  split
  · exact (RegsKept.refl s).travel _ _ _
  · exact .refl s

/-- Who writes a register is on a part that is awake. -/
theorem State.admits_awake {off : Nat} (h : o.admits w off v s) : s.awake = true := by
  obtain ⟨hw, hg⟩ := h
  have ho : o.awake = true := by
    simp only [State.writable, State.silent, Bool.and_eq_true, Bool.not_eq_true', Bool.or_eq_false_iff, Bool.not_eq_false'] at hw
    exact hw.1.1.1
  have hmode : s.reg Reg.sysMode = o.reg Reg.sysMode := by
    have hkept := RegsKept.grants o (writeAccess w off v) Reg.sysMode (by decide)
    rwa [hg] at hkept
  rw [← ho, State.awake, State.awake, State.mode, State.mode, State.fld, State.fld, hmode]

/-! ### What stays while the collector writes -/

theorem Steady.noteInjected {M : Prop} (h : Steady M z s) (n : Nat) : Steady M z (s.noteInjected n) := by
  unfold State.noteInjected
  split
  · exact h.alter rfl
  · exact h

theorem not_apart_flt {r : Nat} (hlo : 0x30000 ≤ r) (hhi : r < 0x40000) : ¬ Apart r := not_apart 3 hlo hhi (by decide)

theorem Steady.writeRecord (h : Steady False z s) (r : FaultRecord) (seq : Nat) : Steady False z (s.writeRecord r seq) := by
  have hn : Steady False z (s.noteSeq r seq) := by
    have hz : Steady False z { s with flt := { s.flt with seqOf := s.flt.seqOf.set r.tag seq } } := h.alter rfl
    exact hz.setNum _ (not_apart_flt (by decide) (by decide))
  have hr : Steady False z ((s.noteSeq r seq).writeRing seq (s.recordBytes r seq)) := (hn.poke _ _).ite hn
  have hs : Steady False z (s.storeRecord r seq) := by
    unfold State.storeRecord
    extract_lets u
    change Steady False z u at hr
    have hl : Steady False z ((u.poke (u.logBase + 32 * (seq % 4096)) (s.recordBytes r seq)).showLogged seq) :=
      ((hr.poke _ _).setNum _ (not_apart_flt (by decide) (by decide))).ite (hr.poke _ _)
    have hnote {a : State} (ha : Steady False z a) : Steady False z (a.noteLogged r) := by
      unfold State.noteLogged
      exact ha.ite (ha.alter rfl)
    exact (hnote hl).ite ((hr.bump _ _ _ (not_apart_flt (by decide) (by decide))).raise 27)
  have h3 : Steady False z ((s.storeRecord r seq).tellRegion r) := ((hs.bump _ _ _ (not_apart_flt (by decide) (by decide))).raise 24).ite hs
  have h4 : Steady False z (((s.storeRecord r seq).tellRegion r).tellChip r seq) :=
    (((h3.bump _ _ _ (not_apart_flt (by decide) (by decide))).setNum _ (not_apart_flt (by decide) (by decide))).raise 25).ite h3
  rw [State.writeRecord_eq]
  exact (h4.raise 28).ite h4

/-- The waiting records have their SEQs, and one more record its tag. -/
def State.fixWaiting (s : State) : State :=
  let fixed := fixSeqs ((s.flt.nextSeq + 1) % 2 ^ 32) s.flt.waiting
  { s with flt := { s.flt with
      waiting := fixed.1, nextSeq := fixed.2, nextTag := s.flt.nextTag + 1
      seqOf := fixed.1.foldl (fun (m : Tab Nat) w => m.set w.tag (w.seq.getD 0)) s.flt.seqOf } }

theorem State.chipRecord_eq (s : State) (d : Detection) : ∃ r q n, s.chipRecord d = (s.fixWaiting.writeRecord r q).noteInjected n :=
  ⟨_, _, _, rfl⟩

theorem Steady.fixWaiting {M : Prop} (h : Steady M z s) : Steady M z s.fixWaiting := h.alter rfl

theorem Steady.chipRecord (h : Steady False z s) (d : Detection) : Steady False z (s.chipRecord d) := by
  obtain ⟨r, q, n, e⟩ := s.chipRecord_eq d
  rw [e]
  exact (h.fixWaiting.writeRecord r q).noteInjected n

theorem Steady.shadowFence (h : Steady False z s) (det r : Nat) (parent : Option Nat) : Steady False z (s.shadowFence det r parent) :=
  (h.detect _).chipRecord _

theorem Steady.cellFails (h : Steady False z s) (det window cell : Nat) (shadow : Bool) : Steady False z (s.cellFails det window cell shadow) :=
  (h.detect _).detected _

theorem Steady.free (h : Steady False z s) : Steady False z s.free.1 := h.alter rfl

/-- In SHADOW only records stand. -/
theorem Steady.shadowEvent (h : Steady False z s) (det l : Nat) : Steady False z (s.shadowEvent det l) := by
  unfold State.shadowEvent
  extract_lets lv code
  refine (h.chipRecord _).ite (Steady.ite (h.shadowFence _ _ _) (Steady.ite (h.cellFails _ _ _ _) ?_))
  have hcode : Steady False z (if det = 0x24 ∨ det = 0x27 then (s.free.1, s.free.2.toNat % 65536) else (s, code)).1 := by
    split
    · exact h.free
    · exact h
  generalize (if det = 0x24 ∨ det = 0x27 then (s.free.1, s.free.2.toNat % 65536) else (s, code)) = p at hcode ⊢
  obtain ⟨a, code⟩ := p
  have hpc : Steady False z (if det = 8 then (a.free.1, a.free.2.toNat) else (a, locCell l)).1 := by
    split
    · exact hcode.free
    · exact hcode
  dsimp only
  generalize (if det = 8 then (a.free.1, a.free.2.toNat) else (a, locCell l)) = p at hpc ⊢
  obtain ⟨b, pc⟩ := p
  exact ((hpc.detect _).shadowFence _ _ _).ite (((hpc.detect _).detected _).ite (hpc.detect _))

end Sys2Proof.Machine
end

section
/-! Injection requests (18): a request that is refused, waits, or presents its one occurrence (R678 to R682, R686). -/
namespace Sys2Proof.Machine

variable {z s t u o : State} {q : InjRequest} {w : Who} {v : Word}

/-! ### Parts that a write of registers leaves -/

theorem OnlyRegs.inj {rs : List Nat} (h : OnlyRegs s t rs) : t.inj = s.inj := by rw [h.1]
theorem OnlyRegs.latch {rs : List Nat} (h : OnlyRegs s t rs) : t.latch = s.latch := by rw [h.1]
theorem OnlyRegs.variant {rs : List Nat} (h : OnlyRegs s t rs) : t.variant = s.variant := by rw [h.1]
theorem OnlyRegs.mem {rs : List Nat} (h : OnlyRegs s t rs) : t.mem = s.mem := by rw [h.1]

/-! ### The acknowledgement changes nothing else -/

theorem State.replyOk_reg (s : State) (r : Nat) : s.replyOk.reg r = s.reg r := rfl
theorem State.replyOk_num (s : State) (r : Nat) : s.replyOk.num r = s.num r := by rw [State.num, State.replyOk_reg, State.num]
theorem State.replyOk_flag (s : State) (r b : Nat) : s.replyOk.flag r b = s.flag r b := by rw [State.flag, State.replyOk_reg, State.flag]
theorem State.replyOk_mode (s : State) : s.replyOk.mode = s.mode := by rw [State.mode, State.fld, State.replyOk_reg, State.mode, State.fld]
theorem State.replyOk_mem (s : State) : s.replyOk.mem = s.mem := rfl
theorem State.replyOk_inj (s : State) : s.replyOk.inj = s.inj := rfl
theorem Raised.replyOk {ns : List Nat} (h : Raised s t ns) : Raised s t.replyOk ns := h

/-! ### A request starts -/

/-- INJ.STATUS of a running request. -/
def InjRequest.status (q : InjRequest) : Nat := 2 ^ 31 + ofBool (!q.live) * 2 ^ 30 + q.remaining % 256 * 2 ^ 16 + q.det % 65536

/-- The request runs, and no record is its own yet. -/
def State.runInjection (s : State) (q : InjRequest) : State := { s with inj := { s.inj with run := some q, tags := s.inj.tags.set q.who 0 } }

/-- A request runs, and INJ.STATUS and INJ.RESULT show it. -/
def State.startInjection (s : State) (q : InjRequest) : State :=
  ((s.runInjection q).setNum Reg.injStatus q.status).setNum (bankOf q.who Reg.injResult) 0

/-- The request that a write of INJ.GO asks for. -/
def State.requestOf (s : State) (w : Who) (v : Word) : InjRequest :=
  { who := w.id, det := s.num (bankOf w.id Reg.injTarget) % 65536, loc := s.num (bankOf w.id Reg.injLoc)
    addr := s.num (bankOf w.id Reg.injAddrLo) / 8 * 8 + s.num (bankOf w.id Reg.injAddrHi) % 256 * 2 ^ 32
    remaining := max 1 (field v 15 8), live := bit v.toNat 1, start := s.chip.up }

/-- The write carries the key and asks to go. -/
def asksInjection (v : Word) : Prop := field v 31 16 = 0x494A ∧ bit v.toNat 0 = true

theorem State.injectGo_idle (s : State) (w : Who) (h : ¬ asksInjection v) : s.injectGo w v = s := by
  rw [State.injectGo, if_pos]
  by_contra hno
  simp only [not_or, ne_eq, not_not, Bool.not_eq_false] at hno
  exact h hno

theorem State.injectGo_refused (h : asksInjection v) {reason : Nat}
    (hr : s.injectionRefusal w (s.requestOf w v).det (s.requestOf w v).loc (bit v.toNat 1) = some reason) :
    s.injectGo w v = s.injResult w.id true reason := by
  obtain ⟨hkey, hgo⟩ := h
  unfold State.injectGo
  rw [if_neg (by simp [hkey, hgo])]
  extract_lets det l addr live
  change s.injectionRefusal w det l live = _ at hr
  rw [hr]

theorem State.injectGo_starts (h : asksInjection v)
    (hr : s.injectionRefusal w (s.requestOf w v).det (s.requestOf w v).loc (bit v.toNat 1) = none) :
    s.injectGo w v = if waitsForPoint (s.requestOf w v).det then s.startInjection (s.requestOf w v)
      else State.presentAll (max 1 (field v 15 8)) (s.startInjection (s.requestOf w v)) := by
  obtain ⟨hkey, hgo⟩ := h
  unfold State.injectGo
  rw [if_neg (by simp [hkey, hgo])]
  extract_lets det l addr live
  change s.injectionRefusal w det l live = _ at hr
  rw [hr]
  rfl

theorem State.injectionRefusal_lt {det l reason : Nat} {live : Bool} (h : s.injectionRefusal w det l live = some reason) : reason < 8 := by
  unfold State.injectionRefusal at h
  split_ifs at h <;> (obtain rfl := Option.some.inj h; decide)

theorem State.startInjection_shows (s : State) (q : InjRequest) :
    let t := s.startInjection q
    OnlyRegs { s with inj := t.inj } t [Reg.injStatus, bankOf q.who Reg.injResult] ∧ t.inj.run = some q ∧
      t.num (bankOf q.who Reg.injResult) = 0 ∧ t.flag Reg.injStatus 31 = true := by
  intro t
  have honly : OnlyRegs (s.runInjection q) t [Reg.injStatus, bankOf q.who Reg.injResult] :=
    ((OnlyRegs.refl _ _).setReg (by simp) _).setReg (by simp) _
  have hinj : t.inj = (s.runInjection q).inj := honly.inj
  have hres : t.num (bankOf q.who Reg.injResult) = 0 := State.num_setNum _ _ _ (by decide)
  have hstat : t.flag Reg.injStatus 31 = ((s.runInjection q).setNum Reg.injStatus q.status).flag Reg.injStatus 31 :=
    State.flag_setReg_ne _ _ _ (bankOf_ne _ _ (by decide))
  have hlive : ofBool (!q.live) ≤ 1 := by cases q.live <;> decide
  have hlt : q.status < 2 ^ 32 := by unfold InjRequest.status; omega
  have hword : (((s.runInjection q).setNum Reg.injStatus q.status).reg Reg.injStatus).toNat = q.status := State.num_setNum _ _ _ hlt
  have htop : q.status / 2 ^ 31 % 2 = 1 := by unfold InjRequest.status; omega
  clear_value t
  refine ⟨?_, by rw [hinj]; rfl, hres, ?_⟩
  · rw [hinj]
    exact honly
  · rw [hstat, State.flag, hword, bit, htop]
    rfl

/-- The point of a request does not look at what its start changes. -/
theorem State.pointRests_congr (hreg : ∀ r, r < 2 ^ 32 → r ≠ Reg.injStatus → t.reg r = s.reg r) (hlatch : t.latch = s.latch) (det l : Nat) :
    t.pointRests det l = s.pointRests det l := by
  have hflag (r b : Nat) (h : r < 2 ^ 32 ∧ r ≠ Reg.injStatus) : t.flag r b = s.flag r b := by rw [State.flag, hreg r h.1 h.2, State.flag]
  have hcell : Reg.lthCellfail (locBlock l - 0x10) (locCell l / 32) < 2 ^ 32 ∧
      Reg.lthCellfail (locBlock l - 0x10) (locCell l / 32) ≠ Reg.injStatus := by
    simp only [Reg.lthCellfail, Reg.injStatus, locBlock, locCell]
    omega
  unfold State.pointRests State.fenced State.coreHalted State.latchChannel
  extract_lets c
  rw [hflag _ _ (by decide), hflag _ _ (by decide), hflag _ _ hcell, hflag _ _ (by decide), hlatch]

theorem OnlyRegs.startKeeps {x : InjState} {id : Nat} (h : OnlyRegs { s with inj := x } t [Reg.injStatus, bankOf id Reg.injResult]) :
    (∀ r, r < 2 ^ 32 → r ≠ Reg.injStatus → t.reg r = s.reg r) ∧ t.latch = s.latch ∧ t.variant = s.variant ∧ t.mem = s.mem ∧ t.mode = s.mode := by
  have hreg : ∀ r, r < 2 ^ 32 → r ≠ Reg.injStatus → t.reg r = s.reg r := fun r hr hne => h.2 r (not_mem_injRegs id hr hne)
  refine ⟨hreg, h.latch, h.variant, h.mem, ?_⟩
  rw [State.mode, State.fld, hreg _ (by decide) (by decide), State.mode, State.fld]

theorem OnlyRegs.pointRests {x : InjState} {id : Nat} (h : OnlyRegs { s with inj := x } t [Reg.injStatus, bankOf id Reg.injResult]) (det l : Nat) :
    t.pointRests det l = s.pointRests det l := State.pointRests_congr h.startKeeps.1 h.startKeeps.2.1 det l

theorem State.startInjection_rests (s : State) (q : InjRequest) (det l : Nat) :
    (s.startInjection q).pointRests det l = s.pointRests det l := (s.startInjection_shows q).1.pointRests det l

/-! ### A request that waits -/

theorem State.presentAll_rests (n : Nat) (h : s.inj.run = some q) (hr : s.pointRests q.det q.loc = true) : State.presentAll n s = s := by
  cases n with
  | zero => rfl
  | succ n => rw [State.presentAll, h]; exact if_pos hr

/-! ### The last occurrence -/

/-- No occurrence acts. -/
def State.endOccurrence (s : State) : State := { s with inj := { s.inj with acting := none } }

/-- The occurrence acts for its request. -/
def State.actFor (s : State) (q : InjRequest) : State := { s with inj := { s.inj with acting := some q.who } }

/-- The last occurrence is counted, its request has ended, and it acts. -/
def State.lastOccurrence (s : State) (q : InjRequest) : State := ((s.bump Reg.injCount 31 0 1).endInjection 0).actFor q

theorem State.occurrence_last (s : State) (h : q.remaining ≤ 1) (f : State → State) :
    s.occurrence q f = (f (s.lastOccurrence q)).endOccurrence := by
  simp only [State.occurrence, if_pos h]
  rfl

/-- A request of one occurrence whose point does not rest presents it. -/
theorem State.presentAll_one (h : s.inj.run = some q) (hq : q.remaining ≤ 1) (hr : s.pointRests q.det q.loc = false) :
    State.presentAll 1 s = ((if q.live then (s.lastOccurrence q).liveEvent q.det q.loc else (s.lastOccurrence q).shadowEvent q.det q.loc)).endOccurrence := by
  rw [State.presentAll, h]
  dsimp only
  rw [if_neg (by simp [hr]), State.presentAll, State.occurrence_last s hq]

/-- What a last occurrence leaves before it acts. -/
theorem State.lastOccurrence_shows (h : s.inj.run = some q) :
    let t := s.lastOccurrence q
    t.inj.run = none ∧ t.num (bankOf q.who Reg.injResult) = 2 ^ 31 ∧ t.num Reg.injCount = min (2 ^ 32 - 1) (s.num Reg.injCount + 1) ∧
      (∀ r, r < 2 ^ 32 → r ≠ Reg.injStatus → r ≠ Reg.injCount → t.reg r = s.reg r) ∧ t.variant = s.variant ∧ Rises s t 26 := by
  intro t
  have ht : t = ((s.bump Reg.injCount 31 0 1).endInjection 0).actFor q := rfl
  have hcount := s.num_bump Reg.injCount 1
  have hkept : ∀ r, r ≠ Reg.injCount → (s.bump Reg.injCount 31 0 1).reg r = s.reg r := fun r hr => State.reg_setReg_ne _ _ r _ hr
  have hinj : (s.bump Reg.injCount 31 0 1).inj = s.inj := State.setReg_inj _ _ _
  have hvar : (s.bump Reg.injCount 31 0 1).variant = s.variant := State.setReg_variant _ _ _
  generalize s.bump Reg.injCount 31 0 1 = a at *
  obtain ⟨honly, hrun, hraised, hres, -⟩ := State.endInjection_shows (s := a) (q := q) (by rw [hinj, h]) (reason := 0) (by decide)
  generalize a.endInjection 0 = b at *
  have hreg (r : Nat) : t.reg r = b.reg r := by rw [ht]; rfl
  have hrest : t.inj.run = b.inj.run ∧ t.variant = b.variant ∧ t.plic = b.plic := by rw [ht]; exact ⟨rfl, rfl, rfl⟩
  obtain ⟨hrun', hvar', hplic⟩ := hrest
  have hbvar : b.variant = a.variant := honly.variant
  refine ⟨by rw [hrun', hrun], ?_, ?_, fun r hlt hs hc => ?_, hvar'.trans (hbvar.trans hvar), fun hr => ?_⟩
  · rw [State.num, hreg, ← State.num, hres]
    rfl
  · rw [State.num, hreg, honly.2 _ (not_mem_injRegs _ (by decide) (by decide)), ← State.num]
    exact hcount
  · exact (hreg r).trans ((honly.2 r (not_mem_injRegs _ hlt hs)).trans (hkept r hc))
  · have ha : a.canRise 26 = true := by
      rw [← hr, State.canRise, State.canRise, State.awake, State.awake, State.mode, State.mode, State.fld, State.fld, hvar, hkept _ (by decide)]
    rw [State.pendingSource, hplic, hraised]
    exact a.raise_rises 26 ha

/-- What a request of one occurrence leaves before the occurrence acts. -/
theorem State.startOccurrence_shows (s : State) (q : InjRequest) :
    let t := (s.startInjection q).lastOccurrence q
    t.inj.run = none ∧ t.num (bankOf q.who Reg.injResult) = 2 ^ 31 ∧ t.num Reg.injCount = min (2 ^ 32 - 1) (s.num Reg.injCount + 1) ∧
      (∀ r, r < 2 ^ 32 → r ≠ Reg.injStatus → r ≠ Reg.injCount → t.reg r = s.reg r) ∧ t.variant = s.variant ∧ Rises s t 26 := by
  obtain ⟨honly, hrun, -⟩ := s.startInjection_shows q
  obtain ⟨hold, -, huvar, -, humode⟩ := honly.startKeeps
  obtain ⟨hrun', hres, hcount, hkept, hvar, hrise⟩ := State.lastOccurrence_shows hrun
  refine ⟨hrun', hres, ?_, fun r hlt hs hc => (hkept r hlt hs hc).trans (hold r hlt hs), hvar.trans huvar, fun hr => hrise ?_⟩
  · rw [hcount, State.num, hold _ (by decide) (by decide), ← State.num]
  · rw [← hr, State.canRise, State.canRise, State.awake, State.awake, huvar, humode]

/-! ### A write of INJ.GO -/

theorem exec_injectGo {c : Instr} (hc : c ∈ [Instr.injectLive w v, .injectShadow w v]) (h : o.admits w Reg.injGo v s) :
    exec c o = .next (s.injectGo w v).replyOk := by
  simp only [List.mem_cons, List.not_mem_nil, or_false] at hc
  obtain rfl | rfl := hc
  · exact congrArg Host.Outcome.next (State.gated_ok o w Reg.injGo v _ s h)
  · exact congrArg Host.Outcome.next (State.gated_ok o w Reg.injGo v _ s h)

variable {c : Instr} (hc : c ∈ [Instr.injectLive w v, .injectShadow w v]) (h : o.admits w Reg.injGo v s)
include hc h

/-- A write without the key, or without GO, changes nothing. -/
theorem injectGo_idle (hno : ¬ asksInjection v) : Writes c o s [] [] fun _ => True := by
  have e := exec_injectGo hc h
  rw [State.injectGo_idle s w hno] at e
  exact ⟨_, e, Acked.replyOk s, (OnlyRegs.refl s _).replyOk, rfl, trivial⟩

/-- A refused request shows its reason. -/
theorem injectGo_refused (hask : asksInjection v) {reason : Nat}
    (hr : s.injectionRefusal w (s.requestOf w v).det (s.requestOf w v).loc (bit v.toNat 1) = some reason) :
    Writes c o s [bankOf w.id Reg.injResult] [26] fun t => t.num (bankOf w.id Reg.injResult) = 2 ^ 31 + 2 ^ 30 + reason * 2 ^ 24 := by
  have e := exec_injectGo hc h
  rw [State.injectGo_refused hask hr] at e
  obtain ⟨honly, hraised, hnum⟩ := s.injResult_shows w.id true (State.injectionRefusal_lt hr)
  exact ⟨_, e, Acked.replyOk _, honly.replyOk, hraised.replyOk, (State.replyOk_num _ _).trans hnum⟩

/-- A request whose point is a read or a packet, or rests, waits. -/
theorem injectGo_waits (hask : asksInjection v)
    (hr : s.injectionRefusal w (s.requestOf w v).det (s.requestOf w v).loc (bit v.toNat 1) = none)
    (hwait : waitsForPoint (s.requestOf w v).det = true ∨ s.pointRests (s.requestOf w v).det (s.requestOf w v).loc = true) :
    Completes c o fun t => Acked t ∧ t.mem = s.mem ∧ t.mode = s.mode ∧ t.num (bankOf w.id Reg.injResult) = 0 ∧ t.flag Reg.injStatus 31 = true ∧
      t.inj.run = some (s.requestOf w v) := by
  have e := exec_injectGo hc h
  rw [State.injectGo_starts hask hr] at e
  obtain ⟨honly, hrun, hres, hstat⟩ := s.startInjection_shows (s.requestOf w v)
  have hgo : (if waitsForPoint (s.requestOf w v).det then s.startInjection (s.requestOf w v)
      else State.presentAll (max 1 (field v 15 8)) (s.startInjection (s.requestOf w v))) = s.startInjection (s.requestOf w v) := by
    split
    · rfl
    next hno =>
      refine State.presentAll_rests _ hrun ?_
      rw [State.startInjection_rests]
      exact hwait.resolve_left hno
  rw [hgo] at e
  obtain ⟨-, -, -, hmem, hmode⟩ := honly.startKeeps
  exact ⟨_, e, Acked.replyOk _, (State.replyOk_mem _).trans hmem, (State.replyOk_mode _).trans hmode, (State.replyOk_num _ _).trans hres,
    (State.replyOk_flag _ _ _).trans hstat, (congrArg InjState.run (State.replyOk_inj _)).trans hrun⟩

/-- A request of one occurrence whose point is at hand presents it at once. -/
theorem exec_injectGo_presents (hask : asksInjection v)
    (hr : s.injectionRefusal w (s.requestOf w v).det (s.requestOf w v).loc (bit v.toNat 1) = none)
    (hwait : waitsForPoint (s.requestOf w v).det = false) (hrest : s.pointRests (s.requestOf w v).det (s.requestOf w v).loc = false)
    (hone : field v 15 8 ≤ 1) :
    exec c o = .next (if bit v.toNat 1 then ((s.startInjection (s.requestOf w v)).lastOccurrence (s.requestOf w v)).liveEvent
        (s.requestOf w v).det (s.requestOf w v).loc
      else ((s.startInjection (s.requestOf w v)).lastOccurrence (s.requestOf w v)).shadowEvent
        (s.requestOf w v).det (s.requestOf w v).loc).endOccurrence.replyOk := by
  have e := exec_injectGo hc h
  have hmax : max 1 (field v 15 8) = 1 := by omega
  have hleft : (s.requestOf w v).remaining ≤ 1 := Nat.le_of_eq hmax
  obtain ⟨-, hrun, -⟩ := s.startInjection_shows (s.requestOf w v)
  rw [State.injectGo_starts hask hr, if_neg (by simp [hwait]), hmax,
    State.presentAll_one hrun hleft (by rw [State.startInjection_rests]; exact hrest)] at e
  exact e

end Sys2Proof.Machine
end

section
/-! Injection requests (18): an occurrence in SHADOW leaves records alone, and one that fences LIVE fences (R679, R686). -/
namespace Sys2Proof.Machine

variable {s u x o : State} {w : Who} {v : Word}

/-! ### The end of an occurrence -/

/-- The state once an occurrence is over and its write acknowledged. -/
def State.answerOccurrence (s : State) : State := s.endOccurrence.replyOk

theorem State.answerOccurrence_acked (s : State) : Acked s.answerOccurrence := Acked.replyOk _
theorem State.answerOccurrence_run (s : State) : s.answerOccurrence.inj.run = s.inj.run := rfl
theorem State.answerOccurrence_reg (s : State) (r : Nat) : s.answerOccurrence.reg r = s.reg r := rfl
theorem State.answerOccurrence_pending (s : State) (n : Nat) : s.answerOccurrence.pendingSource n = s.pendingSource n := rfl
theorem State.answerOccurrence_num (s : State) (r : Nat) : s.answerOccurrence.num r = s.num r := by
  rw [State.num, State.answerOccurrence_reg, State.num]
theorem State.answerOccurrence_mode (s : State) : s.answerOccurrence.mode = s.mode := by
  rw [State.mode, State.fld, State.answerOccurrence_reg, State.mode, State.fld]
theorem State.answerOccurrence_fenced (s : State) (r : Nat) : s.answerOccurrence.fenced r = s.fenced r := by
  rw [State.fenced, State.flag, State.answerOccurrence_reg, State.fenced, State.flag]

/-! ### What an occurrence shows, from the state it acts in -/

/-- In `x` the last occurrence of a request of `id`, written in `s`, has been counted, and is about to act. -/
structure Acting (id : Nat) (s x : State) : Prop where
  run : x.inj.run = none
  result : x.num (bankOf id Reg.injResult) = 2 ^ 31
  count : x.num Reg.injCount = min (2 ^ 32 - 1) (s.num Reg.injCount + 1)
  mode : x.mode = s.mode
  fenced : ∀ r, x.fenced r = s.fenced r
  told : Rises s x 26

theorem Acting.of_start (s : State) (q : InjRequest) : Acting q.who s ((s.startInjection q).lastOccurrence q) := by
  obtain ⟨hrun, hres, hcount, hreg, -, hrise⟩ := s.startOccurrence_shows q
  refine ⟨hrun, hres, hcount, ?_, fun r => ?_, hrise⟩
  · rw [State.mode, State.fld, hreg _ (by decide) (by decide) (by decide), State.mode, State.fld]
  · rw [State.fenced, State.flag, hreg _ (by decide) (by decide) (by decide), State.fenced, State.flag]

/-- An occurrence that leaves the system registers, INJ and the results leaves its request ended and counted. -/
theorem Acting.steady {id : Nat} (h : Acting id s x) (k : Steady False x u) :
    u.inj.run = none ∧ u.num (bankOf id Reg.injResult) = 2 ^ 31 ∧ u.num Reg.injCount = min (2 ^ 32 - 1) (s.num Reg.injCount + 1) ∧
      u.mode = s.mode ∧ (∀ r, u.fenced r = s.fenced r) ∧ Rises s u 26 :=
  ⟨k.run.trans h.run, (k.num (apart_bank _ _)).trans h.result, (k.num (by decide)).trans h.count, k.mode.trans h.mode,
    fun r => (k.fenced r).trans (h.fenced r), fun hr => k.rises _ (h.told hr)⟩

/-- An occurrence that fences a region. -/
theorem Acting.fences {id r det : Nat} (h : Acting id s x) (k : FenceOf r det x u) :
    u.inj.run = none ∧ u.num (bankOf id Reg.injResult) = 2 ^ 31 ∧ u.fenced r = true ∧ u.mode = s.mode := by
  have hbank : u.reg (bankOf id Reg.injResult) = x.reg (bankOf id Reg.injResult) :=
    k.regs _ ⟨apart_bank _ _, (bankOf_ne _ _ (by decide)).symm⟩
  have hmode : u.reg Reg.sysMode = x.reg Reg.sysMode := k.regs _ ⟨apart_sys (by decide), by decide⟩
  refine ⟨k.run.trans h.run, ?_, k.fenced, ?_⟩
  · rw [State.num, hbank]
    exact h.result
  · rw [State.mode, State.fld, hmode, ← h.mode, State.mode, State.fld]

/-! ### The writes -/

section
variable {c : Instr} (hc : c ∈ [Instr.injectLive w v, .injectShadow w v]) (h : o.admits w Reg.injGo v s)
include hc h

/-- A request of one occurrence in SHADOW. -/
theorem injectGo_shadow (hask : asksInjection v)
    (hr : s.injectionRefusal w (s.requestOf w v).det (s.requestOf w v).loc (bit v.toNat 1) = none)
    (hwait : waitsForPoint (s.requestOf w v).det = false) (hrest : s.pointRests (s.requestOf w v).det (s.requestOf w v).loc = false)
    (hlive : bit v.toNat 1 = false) (hone : field v 15 8 ≤ 1) :
    Completes c o fun t => Acked t ∧ t.inj.run = none ∧ t.num (bankOf w.id Reg.injResult) = 2 ^ 31 ∧
      t.num Reg.injCount = min (2 ^ 32 - 1) (s.num Reg.injCount + 1) ∧ t.mode = s.mode ∧ (∀ r, t.fenced r = s.fenced r) ∧ Rises s t 26 := by
  have e := exec_injectGo_presents hc h hask hr hwait hrest hone
  rw [hlive, if_neg Bool.false_ne_true] at e
  obtain ⟨hrun, hres, hcount, hmode, hfenced, hrise⟩ := (Acting.of_start s (s.requestOf w v)).steady
    ((Steady.refl _).shadowEvent (s.requestOf w v).det (s.requestOf w v).loc)
  refine ⟨_, e, State.answerOccurrence_acked _, (State.answerOccurrence_run _).trans hrun, (State.answerOccurrence_num _ _).trans hres,
    (State.answerOccurrence_num _ _).trans hcount, (State.answerOccurrence_mode _).trans hmode,
    fun r => (State.answerOccurrence_fenced _ r).trans (hfenced r), fun hz => (State.answerOccurrence_pending _ _).trans (hrise hz)⟩

omit hc h in
theorem State.liveEvent_margin (s : State) (l : Nat) : s.liveEvent 0x16 l = s.fence (locRegion l) 0x16 none false := rfl

omit hc h in
/-- The points of detector 0x16 are the four regions. -/
theorem State.injectionPoint_region {l : Nat} (hp : s.injectionPoint 0x16 l = true) : locRegion l < 4 := by
  simp [State.injectionPoint] at hp
  exact hp.1.1

omit hc h in
theorem State.injectionRefusal_none {det l : Nat} {live : Bool} (hr : s.injectionRefusal w det l live = none) :
    s.injectionPoint det l = true ∧ s.fenced (locRegion l) = false := by
  unfold State.injectionRefusal at hr
  split_ifs at hr
  simp_all

/-- A LIVE request for the detector of a region fences it. -/
theorem injectGo_fences (hask : asksInjection v)
    (hr : s.injectionRefusal w (s.requestOf w v).det (s.requestOf w v).loc (bit v.toNat 1) = none)
    (hdet : (s.requestOf w v).det = 0x16) (hrest : s.pointRests (s.requestOf w v).det (s.requestOf w v).loc = false)
    (hlive : bit v.toNat 1 = true) (hone : field v 15 8 ≤ 1) :
    Completes c o fun t => Acked t ∧ t.inj.run = none ∧ t.num (bankOf w.id Reg.injResult) = 2 ^ 31 ∧
      t.fenced (locRegion (s.requestOf w v).loc) = true ∧ t.mode = s.mode := by
  have e := exec_injectGo_presents hc h hask hr (by rw [hdet]; decide) hrest hone
  rw [hlive, if_pos rfl, hdet, State.liveEvent_margin] at e
  rw [hdet] at hr
  obtain ⟨hpoint, hopen⟩ := State.injectionRefusal_none hr
  have hact := Acting.of_start s (s.requestOf w v)
  have hawake : ((s.startInjection (s.requestOf w v)).lastOccurrence (s.requestOf w v)).awake = true := by
    rw [State.awake, hact.mode, ← State.awake]
    exact State.admits_awake h
  obtain ⟨hrun, hres, hfenced, hmode⟩ := hact.fences
    (State.fence_fences (det := 0x16) (parent := none) (injected := false) (State.injectionPoint_region hpoint) ((hact.fenced _).trans hopen) hawake)
  exact ⟨_, e, State.answerOccurrence_acked _, (State.answerOccurrence_run _).trans hrun, (State.answerOccurrence_num _ _).trans hres,
    (State.answerOccurrence_fenced _ _).trans hfenced, (State.answerOccurrence_mode _).trans hmode⟩

end

end Sys2Proof.Machine
end

section
/-! A lockstep mismatch (01, 08): R29, R374. -/
namespace Sys2Proof.Machine

variable {s t u : State} {k : Nat}

/-- Both cores of the pair are halted, and nothing but SYS.PAIRS changes. -/
theorem State.haltPair_shows (s : State) (hk : k < 4) :
    (s.haltPair k).coreHalted (2 * k) = true ∧ (s.haltPair k).coreHalted (2 * k + 1) = true ∧ OnlyRegs s (s.haltPair k) [Reg.sysPairs] := by
  refine ⟨?_, ?_, ((OnlyRegs.refl s _).setReg (by simp) _).setReg (by simp) _⟩
  · exact (State.flag_setFlag_ne _ _ _ _ _ (by omega) (by omega)).trans (State.flag_setFlag _ _ _ _ (by omega))
  · rw [State.coreHalted, show 8 + (2 * k + 1) = 9 + 2 * k by omega]
    exact State.flag_setFlag _ _ _ _ (by omega)

/-- The tasks of a core move to other cores: source 197 rises. -/
theorem Steady.replaceTasks {c : Nat} (e : s.replaceTasks c = some u) : Steady False s u ∧ Rises s u 197 := by
  unfold State.replaceTasks at e
  extract_lets tsk a at e
  have ha : Steady False s a := (Steady.refl s).alter rfl
  clear_value a
  obtain ⟨b, hb, rfl⟩ := Option.map_eq_some_iff.1 e
  have hall : Steady False s b := ha.replaceAll c _ (fun t ht => Nat.lt_of_lt_of_le (List.mem_range.1 ht) a.ntask_le) hb
  exact ⟨(hall.raise 197).showCores.releasePended.dispatchAll,
    hall.rises_raise 197 (Steady.refl _).showCores.releasePended.dispatchAll⟩

/-- The pair is halted and told, and the mismatch is recorded. -/
def State.noteMismatch (s : State) (k pc : Nat) : State × Nat :=
  ((((s.haltPair k).raise 3).showCores).pauseCore (2 * k)).detect
    { det := 8, level := 2, loc := location 0 (0x80 + 2 * k) 0, init := some (2 * k), action := Act.halted, detail := pc % 2 ^ 32 }

theorem State.noteMismatch_steady (s : State) (k pc : Nat) :
    Steady False (s.haltPair k) (s.noteMismatch k pc).1 ∧ Rises (s.haltPair k) (s.noteMismatch k pc).1 3 :=
  ⟨(((Steady.refl _).raise 3).showCores.pauseCore _).detect _, (Steady.refl (M := False) _).rises_raise 3 (((Steady.refl _).showCores.pauseCore _).detect _)⟩

theorem exec_lockstepMismatch (h : k < 4 ∧ s.paired k = true ∧ s.coreHalted (2 * k) = false ∧ s.awake = true ∧ s.fenced Region.control = false)
    (pc : Nat) : exec (.lockstepMismatch k pc) s = .next
      (match (s.noteMismatch k pc).1.replaceTasks (2 * k) with
        | some u => u.detected { det := 8, level := 3, loc := location 0 0xFF 0, action := Act.replaced, parent := some (s.noteMismatch k pc).2 }
        | none => (s.noteMismatch k pc).1.fence Region.control 8 (some (s.noteMismatch k pc).2) false) := by
  obtain ⟨hk, hp, hh, ha, hf⟩ := h
  show Host.Outcome.next (s.lockstepFails k pc) = _
  unfold State.lockstepFails
  extract_lets m
  rw [if_neg (by simp [m, hk, hp, hh, ha, hf])]
  rfl

theorem lockstepMismatch_idles (h : ¬ (k < 4 ∧ s.paired k = true ∧ s.coreHalted (2 * k) = false ∧ s.awake = true ∧ s.fenced Region.control = false))
    (pc : Nat) : Idles (.lockstepMismatch k pc) s := by
  show Host.Outcome.next (s.lockstepFails k pc) = _
  unfold State.lockstepFails
  extract_lets m
  rw [if_pos]
  simp only [not_and_or, Bool.not_eq_true, Bool.not_eq_false] at h
  simpa [m, or_assoc] using h

theorem Steady.coreHalted {M : Prop} {z : State} (h : Steady M z s) (c : Nat) : s.coreHalted c = z.coreHalted c := h.flag (by decide) _

/-- A mismatch halts the pair, and its tasks move, or the Control region is fenced. -/
theorem lockstepMismatch_acts (h : k < 4 ∧ s.paired k = true ∧ s.coreHalted (2 * k) = false ∧ s.awake = true ∧ s.fenced Region.control = false)
    (pc : Nat) : Completes (.lockstepMismatch k pc) s fun t => t.coreHalted (2 * k) = true ∧ t.coreHalted (2 * k + 1) = true ∧ t.mode = s.mode ∧
      Rises s t 3 ∧ (t.fenced Region.control = true ∨ Rises s t 197) := by
  refine ⟨_, exec_lockstepMismatch h pc, ?_⟩
  obtain ⟨hk, -, -, ha, hf⟩ := h
  obtain ⟨hmain, hchecker, honly⟩ := s.haltPair_shows hk
  obtain ⟨hsteady, htold⟩ := s.noteMismatch_steady k pc
  have hmode : (s.haltPair k).mode = s.mode := by
    rw [State.mode, State.fld, honly.2 _ (by decide), State.mode, State.fld]
  have hopen : (s.haltPair k).fenced Region.control = s.fenced Region.control := by
    rw [State.fenced, State.flag, honly.2 _ (by decide), State.fenced, State.flag]
  have hcan (n : Nat) : (s.haltPair k).canRise n = s.canRise n := by
    rw [State.canRise, State.canRise, State.awake, State.awake, honly.variant, hmode]
  generalize s.haltPair k = a at *
  generalize s.noteMismatch k pc = p at *
  obtain ⟨b, tag⟩ := p
  dsimp only at *
  split
  next u hu =>
    obtain ⟨hmoved, hrise⟩ := Steady.replaceTasks hu
    have hrec := (Steady.refl (M := False) u).detected
      { det := 8, level := 3, loc := location 0 0xFF 0, action := Act.replaced, parent := some tag }
    have hall : Steady False a (u.detected
      { det := 8, level := 3, loc := location 0 0xFF 0, action := Act.replaced, parent := some tag }) := (hsteady.trans hmoved).trans hrec
    refine ⟨(hall.coreHalted _).trans hmain, (hall.coreHalted _).trans hchecker, hall.mode.trans hmode, fun hr => ?_, .inr fun hr => ?_⟩
    · exact hrec.rises _ (hmoved.rises _ (htold (by rwa [hcan])))
    · exact hrec.rises _ (hrise (by rwa [hsteady.canRise, hcan]))
  next hu =>
    have hb : b.awake = true := by rw [hsteady.awake, ← ha, State.awake, State.awake, hmode]
    have hfence : FenceOf Region.control 8 b (b.fence Region.control 8 (some tag) false) :=
      State.fence_fences (by decide) ((hsteady.fenced _).trans (hopen.trans hf)) hb
    have hreg (r : Nat) (hr : Apart r) (hne : r ≠ Reg.sysFence) : (b.fence Region.control 8 (some tag) false).reg r = a.reg r :=
      (hfence.regs r ⟨hr, hne⟩).trans (hsteady.regs r hr)
    refine ⟨?_, ?_, ?_, fun hr => hfence.rises _ (htold (by rwa [hcan])), .inl hfence.fenced⟩
    · rw [State.coreHalted, State.flag, hreg _ (by decide) (by decide)]
      exact hmain
    · rw [State.coreHalted, State.flag, hreg _ (by decide) (by decide)]
      exact hchecker
    · rw [State.mode, State.fld, hreg _ (by decide) (by decide), ← hmode, State.mode, State.fld]

/-- Settles O60: the collector's records, injections, and lockstep mismatches. -/
theorem recordsInjectionsAndMismatchesAct : Obligations.RecordsInjectionsAndMismatchesAct := by
  refine ⟨fun s => ⟨faultRecordWrite_idles, fun hw u hu r rest hr => ?_⟩, fun s => ⟨fun w v c hc o h => ⟨fun hno => injectGo_idle hc h hno,
    fun reason hask hr => injectGo_refused hc h hask hr, fun hask hr hwait => ?_, fun hask hr hwait hrest hlive hone => ?_,
    fun hask hr hdet hrest hlive hone => ?_⟩, fun q hq => injectionTimeout_ends hq, injectionTimeout_idles,
    fun o w v h => ⟨injAbort_idle h, fun q hb hq => injAbort_ends h hb hq⟩, fun k pc => ?_⟩⟩
  · have e := exec_faultRecordWrite hw
    rw [← hu] at e
    intro seq bytes
    have hseq : seq = u.seqFor r := by
      show (match r.seq with | some q => q | none => u.flt.nextSeq) = r.seq.getD u.flt.nextSeq
      cases r.seq <;> rfl
    have hbytes : bytes = u.recordBytes r seq := rfl
    rw [hseq] at hbytes
    clear_value bytes seq
    subst hseq hbytes
    exact ⟨_, e, State.writeNext_shows hr⟩
  · obtain ⟨t, e, hack, hmem, hmode, hres, hstat, hrun⟩ := injectGo_waits hc h hask hr hwait
    exact ⟨t, e, hack, hmem, hmode, hres, hstat, s.requestOf w v, hrun, rfl, rfl, rfl, rfl, rfl, rfl⟩
  · exact injectGo_shadow hc h hask hr hwait hrest hlive hone
  · exact injectGo_fences hc h hask hr hdet hrest hlive hone
  · split
    next hc => exact lockstepMismatch_acts hc pc
    next hc => exact lockstepMismatch_idles hc pc

end Sys2Proof.Machine
end

section
/-! What the entry to SAFE, the mount sequence and the operations they call leave alone (02): one relation, and its general laws. -/
namespace Sys2Proof.Machine

/-- The registers watched: SYS but its first words, the claim and the epoch of HNG, and the state and value of the Latch channels of `K`. -/
def Sheltered (K : Nat → Prop) (q : Nat) : Prop :=
  (0x20 ≤ q ∧ q < 0x10000) ∨ q = Reg.hngClaim ∨ q = Reg.hngEpoch ∨ ∃ c, c < 64 ∧ K c ∧ (q = Reg.latCstate c ∨ q = Reg.latValue c)

theorem sheltered_sys {K : Nat → Prop} {q : Nat} (hlo : 0x20 ≤ q) (hhi : q < 0x10000) : Sheltered K q := .inl ⟨hlo, hhi⟩
theorem sheltered_claim (K : Nat → Prop) : Sheltered K Reg.hngClaim := .inr (.inl rfl)
theorem sheltered_epoch (K : Nat → Prop) : Sheltered K Reg.hngEpoch := .inr (.inr (.inl rfl))
theorem sheltered_cstate {K : Nat → Prop} {c : Nat} (hc : c < 64) (hK : K c) : Sheltered K (Reg.latCstate c) :=
  .inr (.inr (.inr ⟨c, hc, hK, .inl rfl⟩))
theorem sheltered_value {K : Nat → Prop} {c : Nat} (hc : c < 64) (hK : K c) : Sheltered K (Reg.latValue c) :=
  .inr (.inr (.inr ⟨c, hc, hK, .inr rfl⟩))

theorem not_sheltered {K : Nat → Prop} {r : Nat} (h : r < 0x20 ∨ (0x10000 ≤ r ∧ r < 0x60004) ∨ (0x60008 < r ∧ r < 0x70100) ∨ 0x80000 ≤ r) :
    ¬ Sheltered K r := by
  unfold Sheltered Reg.hngClaim Reg.hngEpoch Reg.latCstate Reg.latValue
  rintro (hs | hs | hs | ⟨c, hc, -, hs⟩) <;> omega

theorem not_sheltered_of_ge {K : Nat → Prop} {r : Nat} (h : 0x80000 ≤ r) : ¬ Sheltered K r := not_sheltered (.inr (.inr (.inr h)))

/-- The parts of a state watched beside registers. -/
def State.settled (s : State) :=
  (s.variant, s.blk, s.chip, s.inj.run, s.rtc, s.pwr.bkLow, s.pwr.bkHigh, s.pwr.bmLow, s.pwr.bmHigh)

/-- From `z` to `t` the sheltered registers stand, and so do the member, the configuration and its requests, the chip level, the running injection,
the calendar and the canaries. -/
structure Calm (K : Nat → Prop) (z t : State) : Prop where
  regs : RegsKept (Sheltered K) z t
  settled : t.settled = z.settled

namespace Calm
variable {K L : Nat → Prop} {z s t : State}

theorem refl (s : State) : Calm K s s := ⟨.refl s, rfl⟩
theorem trans (h : Calm K z s) (k : Calm K s t) : Calm K z t := ⟨h.regs.trans k.regs, k.settled.trans h.settled⟩

/-- Fewer Latch channels are watched. -/
theorem weaken (h : Calm K z s) (hL : ∀ c, L c → K c) : Calm L z s := by
  refine ⟨h.regs.weaken fun q hq => ?_, h.settled⟩
  obtain hq | hq | hq | ⟨c, hc, hl, hq⟩ := hq
  · exact .inl hq
  · exact .inr (.inl hq)
  · exact .inr (.inr (.inl hq))
  · exact .inr (.inr (.inr ⟨c, hc, hL c hl, hq⟩))

theorem ite {c : Prop} [Decidable c] {a b : State} (h : Calm K z a) (k : Calm K z b) : Calm K z (if c then a else b) := by
  split <;> assumption

theorem foldl {α : Type} {l : List α} {f : State → α → State} (h : Calm K z s)
    (hf : ∀ u x, x ∈ l → Calm K z u → Calm K z (f u x)) : Calm K z (l.foldl f s) :=
  List.foldlRecOn l f h fun u hu x hx => hf u x hx hu

/-- Only what the relation does not watch is new. -/
theorem alter (h : Calm K z s) (er : t.regs = s.regs) (es : t.settled = s.settled) : Calm K z t :=
  ⟨h.regs.of_regs er, es.trans h.settled⟩

/-- A state whose other parts are new. -/
theorem same {xpending : List Instr} {xmem : Memory} {xgen xfree : Nat} {xpoison : List Nat} {xbus : BusReply} {xslots : Tab Slot}
    {xplic : PlicState} {xflt : FltState} {xtime : TimeCounter} {xkey : KeyState} {xspn : SpnState} {xtim : TimState} {xward : WardState}
    {xadp : AdpState} {xtsk : TskState} {xlathe : Tab LatheState} {xfed : FedState} {xmil : MilState} {xeth : EthState} {xcan : CanState}
    {xpci : PciState} {xfus : FusState} {xmet : MetState} {xprf : Tab Axis} {xlatch : LatchState} {xhinge : HingeState} {xpin : PinState}
    {xpnl : PnlState} {xcle : CleState} {xoutbox : List Sent} (h : Calm K z s) : Calm K z (State.mk
      xpending s.variant xmem xgen xpoison s.regs xfree xbus xslots xplic xflt s.inj s.chip xtime s.pwr s.blk xkey xspn xtim s.rtc xward xadp
      xtsk xlathe xfed xmil xeth xcan xpci xfus xmet xprf xlatch xhinge xpin xpnl xcle xoutbox) :=
  h.alter rfl rfl

theorem setReg {r : Nat} (h : Calm K z s) (v : Word) (hr : ¬ Sheltered K r) : Calm K z (s.setReg r v) := ⟨h.regs.setReg v hr, h.settled⟩
theorem setNum {r : Nat} (h : Calm K z s) (v : Nat) (hr : ¬ Sheltered K r) : Calm K z (s.setNum r v) := h.setReg _ hr
theorem setFld {r : Nat} (h : Calm K z s) (hi lo v : Nat) (hr : ¬ Sheltered K r) : Calm K z (s.setFld r hi lo v) := h.setReg _ hr
theorem setFlag {r : Nat} (h : Calm K z s) (b : Nat) (v : Bool) (hr : ¬ Sheltered K r) : Calm K z (s.setFlag r b v) := h.setReg _ hr
theorem bump {r : Nat} (h : Calm K z s) (hi lo n : Nat) (hr : ¬ Sheltered K r) : Calm K z (s.bump r hi lo n) := h.setReg _ hr
theorem roll {r : Nat} (h : Calm K z s) (hi lo n : Nat) (hr : ¬ Sheltered K r) : Calm K z (s.roll r hi lo n) := h.setReg _ hr

theorem raise (h : Calm K z s) (n : Nat) : Calm K z (s.raise n) := h.alter (s.raise_regs n) (by rw [State.raise_only]; rfl)
theorem poke (h : Calm K z s) (a : Nat) (bs : List Byte) : Calm K z (s.poke a bs) := h.alter rfl rfl
theorem send (h : Calm K z s) (k : SentKind) (d : Nat) (bs : List Byte) : Calm K z (s.send k d bs) := h.alter rfl rfl
theorem setHinge (h : Calm K z s) (x : HingeState) : Calm K z (s.setHinge x) := h.alter rfl rfl

/-! ### What follows from it -/

theorem reg (h : Calm K z s) {q : Nat} (hq : Sheltered K q) : s.reg q = z.reg q := h.regs q hq
theorem num (h : Calm K z s) {q : Nat} (hq : Sheltered K q) : s.num q = z.num q := by rw [State.num, h.reg hq, State.num]
theorem fld (h : Calm K z s) {q : Nat} (hq : Sheltered K q) (hi lo : Nat) : s.fld q hi lo = z.fld q hi lo := by
  rw [State.fld, h.reg hq, State.fld]
theorem flag (h : Calm K z s) {q : Nat} (hq : Sheltered K q) (b : Nat) : s.flag q b = z.flag q b := by rw [State.flag, h.reg hq, State.flag]
theorem mode (h : Calm K z s) : s.mode = z.mode := h.fld (sheltered_sys (by decide) (by decide)) 3 0
theorem awake (h : Calm K z s) : s.awake = z.awake := by rw [State.awake, h.mode, State.awake]
theorem controlRuns (h : Calm K z s) : s.controlRuns = z.controlRuns := by rw [State.controlRuns, h.mode, State.controlRuns]
theorem bootFail (h : Calm K z s) : s.bootFail = z.bootFail := h.fld (sheltered_sys (by decide) (by decide)) 11 8
theorem claim (h : Calm K z s) : s.claim = z.claim := h.num (sheltered_claim K)
theorem variant (h : Calm K z s) : s.variant = z.variant := congrArg (·.1) h.settled
theorem blk (h : Calm K z s) : s.blk = z.blk := congrArg (·.2.1) h.settled
theorem chip (h : Calm K z s) : s.chip = z.chip := congrArg (·.2.2.1) h.settled
theorem run (h : Calm K z s) : s.inj.run = z.inj.run := congrArg (·.2.2.2.1) h.settled
theorem rtc (h : Calm K z s) : s.rtc = z.rtc := congrArg (·.2.2.2.2.1) h.settled
theorem canaries (h : Calm K z s) :
    (s.pwr.bkLow, s.pwr.bkHigh, s.pwr.bmLow, s.pwr.bmHigh) = (z.pwr.bkLow, z.pwr.bkHigh, z.pwr.bmLow, z.pwr.bmHigh) :=
  congrArg (·.2.2.2.2.2) h.settled
theorem body (h : Calm K z s) (ty r i : Nat) : s.body ty r i = z.body ty r i := by rw [State.body, h.blk, State.body]

/-! ### Detector events and the writes of engines (18, 01) -/

theorem detect (h : Calm K z s) (d : Detection) : Calm K z (s.detect d).1 := by
  have e := s.detect_only d
  refine h.trans ⟨fun q hq => s.detect_reg d q fun hf => ?_, ?_⟩
  · unfold inFlt at hf
    exact not_sheltered (.inr (.inl (by omega))) hq
  · rw [State.settled, s.detect_run d, e, State.settled]

theorem detected (h : Calm K z s) (d : Detection) : Calm K z (s.detected d) := h.detect d

theorem refuseWord (h : Calm K z s) (w : Option Who) (k a : Nat) : Calm K z (s.refuseWord w k a) := by
  have hp : Calm K z ((s.recordBadWord w k a false).poisonWord (a / 8 * 8)) := (h.detected _).alter rfl rfl
  unfold State.refuseWord
  extract_lets u
  have hu : Calm K z u := hp.raise 4
  refine ite (raise ?_ 458) hu
  exact ((hu.bump _ _ _ (not_sheltered_of_ge (by decide))).setNum _ (not_sheltered_of_ge (by decide))).setNum _ (not_sheltered_of_ge (by decide))

theorem engineWrite (h : Calm K z s) (w : Who) (a : Nat) (bs : List Byte) : Calm K z (s.engineWrite w a bs) := by
  unfold State.engineWrite State.engineError
  refine ite (((h.detected _).raise 7).ite (h.detected _)) ?_
  split
  · exact h.refuseWord _ _ _
  · exact h.poke a bs

theorem exhaust (h : Calm K z s) (holder level : Nat) : Calm K z (s.exhaust holder level) := by
  have hc : ¬ Sheltered K (Reg.wrdHexhCr holder) := not_sheltered_of_ge (by unfold Reg.wrdHexhCr; omega)
  have hb : ¬ Sheltered K (Reg.wrdHexhBc holder) := not_sheltered_of_ge (by unfold Reg.wrdHexhBc; omega)
  unfold State.exhaust
  extract_lets first x u v w ie
  have hu : Calm K z u := h.alter rfl rfl
  have hv : Calm K z v := (hu.bump _ _ _ hc).ite ((hu.bump _ _ _ hc).ite ((hu.bump _ _ _ hb).ite (hu.bump _ _ _ hb)))
  have hw : Calm K z w := hv.detected _
  exact h.ite ((hw.raise 88).ite hw)

theorem grant (h : Calm K z s) (holder : Nat) (slack : Bool) (a : Arbiter) : Calm K z (s.grant holder slack a).1 := by
  have hb : ¬ Sheltered K (Reg.wrdHborrow holder) := not_sheltered_of_ge (by unfold Reg.wrdHborrow; omega)
  unfold State.grant
  extract_lets allot k used x u
  have hu : Calm K z u := h.exhaust holder a.level
  split_ifs
  · exact h
  · exact h.alter rfl rfl
  · exact hu.bump _ _ _ hb
  · exact hu

theorem owe (h : Calm K z s) (holder : Nat) (as : List Arbiter) : Calm K z (State.owe holder as s) := by
  induction as generalizing s with
  | nil => exact h
  | cons a as ih =>
    have hu : Calm K z (s.grant holder true a).1 := h.grant holder true a
    exact ih (hu.ite (hu.alter rfl rfl))

theorem charge (h : Calm K z s) (w : Who) (a n : Nat) : Calm K z (s.charge w a n) := (h.owe _ _).ite h
theorem dmaWrite (h : Calm K z s) (w : Who) (a : Nat) (bs : List Byte) : Calm K z (s.dmaWrite w a bs) := (h.charge _ _ _).engineWrite _ _ _

theorem deliver (h : Calm K z s) (id addr code : Nat) (err seasoning stale : Bool) (payload : List Byte) :
    Calm K z (s.deliver id addr code err seasoning stale payload) := by
  have hu := fun x : Tab Slot => h.alter (t := { s with slots := x }) rfl rfl
  exact (hu _).ite ((hu _).engineWrite _ _ _)

theorem post (h : Calm K z s) (id addr code : Nat) (err seasoning stale : Bool) (payload : List Byte) :
    Calm K z (s.post id addr code err seasoning stale payload) := (h.charge _ _ _).deliver _ _ _ _ _ _ _

theorem takeSlot (h : Calm K z s) (addr : Nat) : Calm K z (s.takeSlot addr) := by
  unfold State.takeSlot
  extract_lets k u
  have hu : Calm K z u := h.alter rfl rfl
  split
  · exact hu.engineWrite _ _ _
  · exact hu

theorem patchResult (h : Calm K z s) (desc state code : Nat) : Calm K z (s.patchResult desc state code) := (h.engineWrite _ _ _).raise 16

/-! ### Packets (15) and CAN frames (16) -/

theorem setMilVc (h : Calm K z s) (l v : Nat) (c : MilVc) : Calm K z (s.setMilVc l v c) := h.alter rfl rfl
theorem setMilLink (h : Calm K z s) (l : Nat) (k : MilLink) : Calm K z (s.setMilLink l k) := h.alter rfl rfl
theorem milEnqueue (h : Calm K z s) (l : Nat) (p : MilPacket) : Calm K z (s.milEnqueue l p) := h.setMilVc _ _ _
theorem returnCredits (h : Calm K z s) (p : MilPacket) : Calm K z (s.returnCredits p) := h.ite (h.send _ _ _)

theorem showVc (h : Calm K z s) (l v : Nat) : Calm K z (s.showVc l v) := by
  have hr : ¬ Sheltered K (Reg.milVstate (l / 2) v) := not_sheltered_of_ge (by unfold Reg.milVstate; omega)
  unfold State.showVc
  exact h.ite (h.ite (((h.setFlag _ _ hr).setFld _ _ _ hr).setFld _ _ _ hr))

theorem milTransmit (h : Calm K z s) (l : Nat) (p : MilPacket) : Calm K z (s.milTransmit l p) := by
  unfold State.milTransmit
  exact ((((h.setMilVc _ _ _).showVc _ _).returnCredits p).setMilLink l _).send _ _ _

theorem milManage (h : Calm K z s) (l : Nat) (bs : List Byte) : Calm K z (s.milManage l bs) := (h.milTransmit l _).ite (h.milEnqueue l _)

theorem startKx (h : Calm K z s) (l v : Nat) : Calm K z (s.startKx l v) := by
  have hu : Calm K z { s with key := { s.key with draws := s.key.draws + 1 } } := h.alter rfl rfl
  exact (hu.setMilVc l v _).milManage l _

theorem milRekey (h : Calm K z s) (l v : Nat) : Calm K z (s.milRekey l v) := (h.startKx l v).ite h

theorem milPump (h : Calm K z s) (l v n : Nat) : Calm K z (milPump l v n s) := by
  induction n generalizing s with
  | zero => exact h
  | succ n ih =>
    rw [Machine.milPump]
    split
    · exact h
    · exact (ih (((h.setMilVc _ _ _).milTransmit _ _).milRekey _ _)).ite h

theorem milSend (h : Calm K z s) (l : Nat) (p : MilPacket) : Calm K z (s.milSend l p) := (h.milEnqueue l p).milPump _ _ _

theorem milDrop (h : Calm K z s) (port lo : Nat) : Calm K z (s.milDrop port lo) :=
  h.bump _ _ _ (not_sheltered_of_ge (by unfold Reg.milDrops; omega))

theorem route (h : Calm K z s) (dst : Nat) : Calm K z (s.route dst).1 := by
  have hu := fun m : MilState => h.alter (t := { s with mil := m }) rfl rfl
  unfold State.route
  split
  · extract_lets a b
    split_ifs
    · exact hu _
    · exact h
    · exact (hu _).raise _
    all_goals exact h
  · extract_lets d
    split_ifs <;> exact h

theorem milOriginate (h : Calm K z s) (port vc dst : Nat) (bcast : Bool) (bs : List Byte) : Calm K z (s.milOriginate port vc dst bcast bs) := by
  unfold State.milOriginate
  extract_lets p
  refine h.ite (ite ?_ (ite (h.alter rfl rfl) ?_))
  · exact (h.foldl fun u l _ hu => (hu.milSend l p).ite (hu.milDrop _ _)).alter rfl rfl
  · have hr := h.route dst
    split
    · next e => exact milSend (by rwa [e] at hr) _ _
    · next e => exact milDrop (by rwa [e] at hr) _ _
    · next e => exact milDrop (by rwa [e] at hr) _ _

theorem sendLink (h : Calm K z s) (l : Nat × Nat) (frame : List Byte) : Calm K z (s.sendLink l frame) := by
  have hr (k : Nat) : ¬ Sheltered K (Reg.canHwdrop k) := not_sheltered_of_ge (by unfold Reg.canHwdrop; omega)
  unfold State.sendLink
  refine h.ite ((h.milOriginate _ _ _ _ _).ite ?_)
  extract_lets k
  exact h.ite ((h.bump 31 0 1 (hr k)).ite (h.alter rfl rfl))

/-! ### Heartbeats (12) -/

theorem sendHeartbeats (h : Calm K z s) : Calm K z s.sendHeartbeats := by
  unfold State.sendHeartbeats
  extract_lets x u b
  have hu : Calm K z u := h.setHinge _
  refine h.ite (hu.foldl fun u p _ hu => ?_)
  extract_lets v w
  have hv : Calm K z v := (hu.send _ _ _).ite hu
  have hw : Calm K z w := (hv.send _ _ _).ite hv
  split
  · exact hw.milOriginate _ _ _ _ _
  · exact hw

/-- The Hinge shows and tells its state. -/
theorem tell (h : Calm K z s) : Calm K z s.tell := by
  have hr : ¬ Sheltered K Reg.hngStatus := not_sheltered (by decide)
  unfold State.tell
  extract_lets u ok x v
  have hu : Calm K z u := (h.setFld _ _ _ hr).setFlag _ _ hr
  have hv : Calm K z v := hu.setHinge _
  exact hv.ite hv.sendHeartbeats

end Calm

end Sys2Proof.Machine
end

section
/-! What the axes, the tasks, the balls, the Latch's outputs and the Lathes leave alone (06, 08, 12, 13, 19), in the terms of `Calm`. -/
namespace Sys2Proof.Machine

namespace Calm
variable {K : Nat → Prop} {z s : State}

/-! ### Axes (13) -/

theorem setAxis (h : Calm K z s) (n : Nat) (a : Axis) : Calm K z (s.setAxis n a) := h.same

theorem setAstate (h : Calm K z s) (n b : Nat) (v : Bool) : Calm K z (s.setFlag (Reg.prfAstate n) b v) :=
  h.setFlag b v (not_sheltered_of_ge (by unfold Reg.prfAstate; omega))

theorem showAxis (h : Calm K z s) (n : Nat) : Calm K z (s.showAxis n) := by
  have hr : ¬ Sheltered K Reg.prfStatus := not_sheltered_of_ge (by decide)
  exact ((h.setFlag _ _ hr).setFlag _ _ hr).setAstate n _ _

theorem setLost (h : Calm K z s) (n : Nat) (v : Bool) : Calm K z (s.setLost n v) := (h.setAstate n _ _).showAxis n

theorem finishMove (h : Calm K z s) (n : Nat) : Calm K z (s.finishMove n) := by
  have hu := (h.setAxis n { s.axis n with move := none, since := s.tick }).showAxis n
  exact (hu.raise 240).ite hu

theorem launch (h : Calm K z s) (n : Nat) (m : Move) : Calm K z (s.launch n m) :=
  (((h.setAstate n _ _).setAstate n _ _).setAxis n _).showAxis n

theorem startGroup (h : Calm K z s) (g : Nat) (targets : List (Nat × Int)) : Calm K z (s.startGroup g targets) := by
  unfold State.startGroup
  refine h.foldl fun u t _ hu => ?_
  have hv := hu.setAxis t.1 { u.axis t.1 with target := t.2 }
  exact (hv.finishMove _).ite (hv.launch _ _)

theorem startSingle (h : Calm K z s) (n : Nat) (target : Int) : Calm K z (s.startSingle n target) := by
  have hv := h.setAxis n { s.axis n with target := target }
  exact (hv.finishMove n).ite (hv.launch n _)

theorem startHeld (h : Calm K z s) (n : Nat) (next : Option Int) : Calm K z (s.startHeld n next) := by
  unfold State.startHeld
  extract_lets g
  refine ite ?_ ?_
  · refine h.ite (h.ite (startGroup ?_ _ _))
    exact (h.foldl fun u k _ hu => hu.setAxis k _).foldl fun u k _ hu => hu.showAxis k
  · split
    · exact h
    · exact (h.setAxis n _).startSingle n _

theorem haltAxis (h : Calm K z s) (n : Nat) (next : Option Int) : Calm K z (s.haltAxis n next) := by
  unfold State.haltAxis
  split
  · exact h
  · have hu := fun m => h.setAxis n { s.axis n with move := some m }
    exact (((hu _).finishMove n).startHeld n next).ite (hu _)

theorem dropHeld (h : Calm K z s) (n : Nat) : Calm K z (s.dropHeld n) := ((h.setAxis n _).showAxis n).ite h

theorem haltAxes (h : Calm K z s) (mask : Nat) : Calm K z (s.haltAxes mask) :=
  (h.foldl fun _ n _ hu => hu.dropHeld n).foldl fun _ n _ hu => hu.haltAxis n none

theorem stopAxis (h : Calm K z s) (n : Nat) : Calm K z (s.stopAxis n) := by
  unfold State.stopAxis
  split
  · exact h.dropHeld n
  · extract_lets a fast u v
    have hu : Calm K z u := (h.setAxis n _).showAxis n
    clear_value u
    have hd : Calm K z u.unnamedDetector.1 := hu.same
    have hv : Calm K z v := ite (((hd.setLost n true).raise 241).detected _) hu
    exact hv.raise 245

theorem stopAxes (h : Calm K z s) (mask : Nat) : Calm K z (s.stopAxes mask) := h.foldl fun _ n _ hu => hu.stopAxis n

theorem gateAxes (h : Calm K z s) : Calm K z s.gateAxes := by
  refine h.ite ((h.stopAxes _).foldl fun u n _ hu => ?_)
  have hv : Calm K z (u.setAxis n { u.axis n with enable := false }) := hu.setAxis n _
  exact ((hv.setAstate n _ _).showAxis n).ite (hv.showAxis n)

theorem retarget (h : Calm K z s) (n : Nat) (m : Move) (target : Int) : Calm K z (s.retarget n m target) := by
  unfold State.retarget
  exact ((h.setAxis n _).showAxis n).ite ((h.setAxis n _).ite (h.haltAxis n _))

theorem aimSingle (h : Calm K z s) (n : Nat) (target : Int) : Calm K z (s.aimSingle n target) := by
  unfold State.aimSingle
  split
  · exact h.retarget n _ target
  · exact h.startSingle n target

theorem latchTarget (h : Calm K z s) (n : Nat) (value : Int) : Calm K z (s.latchTarget n value) := by
  unfold State.latchTarget
  refine h.ite ((h.haltAxes _).ite ?_)
  extract_lets t u v g
  have hu : Calm K z u := h.setAstate n _ _
  have hv : Calm K z v := (hu.raise 244).ite hu
  exact (((hv.setAxis n _).showAxis n).ite (hv.startGroup _ _)).ite (hv.aimSingle n t)

/-! ### Tasks and programs (08) -/

theorem setTask (h : Calm K z s) (t : Nat) (r : TaskRun) : Calm K z (s.setTask t r) := h.same

theorem freezeInputs (h : Calm K z s) (t : Nat) : Calm K z (s.freezeInputs t) := h.foldl fun _ _ _ hu => hu.poke _ _

theorem pauseCore (h : Calm K z s) (c : Nat) : Calm K z (s.pauseCore c) := by
  unfold State.pauseCore
  split
  · exact h
  · exact h.same

theorem setTstate (h : Calm K z s) (t b : Nat) (v : Bool) : Calm K z (s.setFlag (Reg.tskTstate t) b v) :=
  h.setFlag b v (not_sheltered_of_ge (by unfold Reg.tskTstate; omega))

theorem showTask (h : Calm K z s) (t : Nat) : Calm K z (s.showTask t) := by
  have hr : ¬ Sheltered K (Reg.tskTstate t) := not_sheltered_of_ge (by unfold Reg.tskTstate; omega)
  exact ((h.setFld _ _ _ hr).setFlag _ _ hr).setFld _ _ _ hr

theorem showCores (h : Calm K z s) : Calm K z s.showCores := by
  have hr : ¬ Sheltered K Reg.tskStatus := not_sheltered_of_ge (by decide)
  exact (h.setFlag _ _ hr).setFld _ _ _ hr

theorem startTask (h : Calm K z s) (t c : Nat) : Calm K z (s.startTask t c) := by
  have hl : ¬ Sheltered K (Reg.tskLastStart t) := not_sheltered_of_ge (by unfold Reg.tskLastStart; omega)
  have hm : ¬ Sheltered K (Reg.tskMaxStart t) := not_sheltered_of_ge (by unfold Reg.tskMaxStart; omega)
  unfold State.startTask
  extract_lets r d j u v base ctx
  have hu : Calm K z u := h.setNum _ hl
  have hv : Calm K z v := (hu.setNum _ hm).ite hu
  exact hv.same

/-- A core goes over to the task it wants. -/
theorem dispatchCore (h : Calm K z s) (c : Nat) : Calm K z (s.dispatchCore c) := by
  unfold State.dispatchCore
  extract_lets want u
  have hu : Calm K z u := h.pauseCore c
  clear_value want u
  refine h.ite ?_
  cases want with
  | zero => exact hu
  | succ t =>
    have hv : Calm K z (if (u.task t).started then u else u.startTask t c) := hu.ite (hu.startTask t c)
    exact showTask hv.same t

theorem dispatchAll (h : Calm K z s) : Calm K z s.dispatchAll := h.foldl fun _ c _ hu => hu.dispatchCore c

theorem releaseTask (h : Calm K z s) (t : Nat) (se su : Bool) (order due : Nat) : Calm K z (s.releaseTask t se su order due) := by
  have hr : ¬ Sheltered K (Reg.tskReleases t) := not_sheltered_of_ge (by unfold Reg.tskReleases; omega)
  unfold State.releaseTask
  extract_lets r se su u r
  have hu : Calm K z u := h.freezeInputs t
  exact (((hu.setTask t r).roll _ _ _ hr).showTask t).dispatchCore _

theorem eventFor (h : Calm K z s) (t : Nat) : Calm K z (s.eventFor t) := by
  have hs : ¬ Sheltered K (Reg.tskSkips t) := not_sheltered_of_ge (by unfold Reg.tskSkips; omega)
  have ho : Calm K z { s with tsk := { s.tsk with orders := s.tsk.orders + 1 } } := h.same
  have hset := h.setTstate t 29 true
  exact h.ite (hset.ite ((ho.releaseTask t _ _ _ _).ite (hset.ite ((h.bump _ _ _ hs).raise _))))

theorem offerEvent (h : Calm K z s) (source number : Nat) : Calm K z (s.offerEvent source number) :=
  h.ite (h.foldl fun _ t _ hu => hu.eventFor t)

theorem writeSignal (h : Calm K z s) (i v f w : Nat) : Calm K z (s.writeSignal i v f w) := h.ite (h.poke _ _)

theorem stopTask (h : Calm K z s) (t : Nat) : Calm K z (s.stopTask t) := by
  unfold State.stopTask
  extract_lets d r u x v w
  have hu : Calm K z u := (h.pauseCore _).ite h
  have hv : Calm K z v := hu.setTask t _
  have hw : Calm K z w := (hv.setTstate t _ _).showTask t
  clear_value w
  exact hw.foldl fun x j _ hx => (hx.writeSignal _ _ _ _).ite hx

/-- With the control engines at rest a program's mode takes the device to no other mode. -/
theorem setProgramMode (h : Calm K z s) (hz : z.controlRuns = false) (p m : Nat) : Calm K z (s.setProgramMode p m) := by
  have hr : ¬ Sheltered K (Reg.tskPmode p) := not_sheltered_of_ge (by unfold Reg.tskPmode; omega)
  unfold State.setProgramMode
  extract_lets u v
  have hu : Calm K z u := (h.setFld _ _ _ hr).raise 194
  have hv : Calm K z v := hu.ite (hu.setFlag _ _ hr)
  have hw : Calm K z ((v.tasksOf p).foldl State.showTask v).showCores := showCores (hv.foldl fun x t _ hx => hx.showTask t)
  rw [State.followHold, hw.controlRuns, hz]
  exact hw

theorem stopProgram (h : Calm K z s) (hz : z.controlRuns = false) (p : Nat) : Calm K z (s.stopProgram p) :=
  dispatchAll ((h.setProgramMode hz p _).foldl fun _ t _ hx => hx.stopTask t)

theorem gateTasks (h : Calm K z s) (hz : z.controlRuns = false) : Calm K z s.gateTasks := by
  unfold State.gateTasks
  extract_lets u x v
  have hu : Calm K z u := h.foldl fun w p _ hw => (hw.stopProgram hz p).ite hw
  have hv : Calm K z v := hu.same
  exact hv.foldl fun w t _ hw => ((hw.setTask t _).setTstate t _ _).showTask t

theorem setSweep (h : Calm K z s) (w : Option CleSweep) : Calm K z (s.setSweep w) := by
  have hu : Calm K z { s with cle := { s.cle with sweep := w } } := h.same
  exact hu.setFlag _ _ (not_sheltered_of_ge (by decide))

theorem cleGate (h : Calm K z s) : Calm K z s.cleGate :=
  (h.setSweep none).foldl fun _ l _ hu => hu.setFlag _ _ (not_sheltered_of_ge (by unfold Reg.cleLstate; omega))

/-! ### Balls (19) and the Latch's outputs (12) -/

theorem gpioEdgeSeen (h : Calm K z s) (g : Nat) (rising : Bool) : Calm K z (s.gpioEdgeSeen g rising) := by
  unfold State.gpioEdgeSeen
  extract_lets r u
  have hu : Calm K z u := ((h.setFlag _ _ (not_sheltered_of_ge (by unfold Reg.pinPend; omega))).raise _).ite h
  exact hu.offerEvent _ _

theorem followBall (h : Calm K z s) (g : Nat) (edges : Bool) : Calm K z (s.followBall g edges) := by
  unfold State.followBall
  extract_lets v u
  have hu : Calm K z u := h.setFlag _ _ (not_sheltered_of_ge (by unfold Reg.pinIn; omega))
  exact h.ite ((hu.gpioEdgeSeen g v).ite hu)

theorem driveGpio (h : Calm K z s) (g : Nat) (v : Bool) : Calm K z (s.driveGpio g v) :=
  (h.setFlag _ v (not_sheltered_of_ge (by unfold Reg.pinOut; omega))).followBall g true

/-- What drives an output, once VALUE shows it. -/
theorem latchOutput (h : Calm K z s) {c : Nat} (hc : ¬ Sheltered K (Reg.latValue c)) (v : Nat) : Calm K z (s.latchOutput c v) := by
  have hu := h.setNum v hc
  exact (hu.driveGpio _ _).ite ((hu.latchTarget _ _).ite hu)

theorem latchWithdrawAll (h : Calm K z s) (claim : Nat) : Calm K z (s.latchWithdrawAll claim) := by
  refine h.foldl fun u c _ hu => ite ?_ hu
  have hv : Calm K z (u.setLatchChannel c { u.latchChannel c with ours := false }) := hu.same
  exact (hv.sendLink _ _).sendLink _ _

/-! ### Lathes (06) and federations (07) -/

theorem fedDrop (h : Calm K z s) {r : Nat} (hr : 0x80000 ≤ r) : Calm K z (s.fedDrop r) := by
  have hu : Calm K z (s.bump r 31 0 1) := h.bump _ _ _ (not_sheltered_of_ge hr)
  unfold State.fedDrop
  exact ite hu (raise hu.same 181)

theorem fedAccepts (h : Calm K z s) {m : List Byte} {u : State} (e : s.fedAccepts m = some u) : Calm K z u := by
  unfold State.fedAccepts at e
  split_ifs at e <;> cases e
  · exact h.fedDrop (by decide)
  · exact h

theorem receiveUp (h : Calm K z s) (m : List Byte) : Calm K z (s.receiveUp m) := by
  unfold State.receiveUp State.fromChild
  split
  · next e => exact h.fedAccepts e
  · split
    · exact h
    · next c k _ =>
      extract_lets x u
      have hu : Calm K z u := h.same
      have hr : ¬ Sheltered K (Reg.fedChild c) := not_sheltered_of_ge (by unfold Reg.fedChild; omega)
      have hv := (hu.setFld 15 14 k hr).setFld 13 0 (Fmsg.src m) hr
      exact h.ite ((h.fedDrop (by decide)).ite ((h.fedDrop (by decide)).ite (hv.ite hv.same)))

theorem fedSend (h : Calm K z s) (dst : Nat) (m : List Byte) : Calm K z (s.fedSend dst m) := by
  unfold State.fedSend
  exact ite h (ite (ite (h.receiveUp m) (ite h.same h)) (h.milOriginate _ _ _ _ _))

theorem setFedMstatus (h : Calm K z s) (hi lo v : Nat) : Calm K z (s.setFld Reg.fedMstatus hi lo v) :=
  h.setFld _ _ _ (not_sheltered_of_ge (by decide))

theorem fedReply (h : Calm K z s) (n : Nat) (j : LatheJob) (a : FedAsk) (code : Nat) (se su : Bool) :
    Calm K z (s.fedReply n j a code se su) := by
  unfold State.fedReply
  extract_lets d good flags nc values x u v w
  have hu : Calm K z u := h.same
  have hv : Calm K z v := hu.fedSend _ _
  have hw : Calm K z w := (hv.setFedMstatus _ _ _).setFedMstatus _ _ _
  exact hw.takeSlot _

theorem setLth (h : Calm K z s) (n : Nat) (l : LatheState) : Calm K z (s.setLth n l) := h.same

theorem showLathe (h : Calm K z s) (n : Nat) : Calm K z (s.showLathe n) := by
  have hst : ¬ Sheltered K (Reg.lthStatus n) := not_sheltered_of_ge (by unfold Reg.lthStatus; omega)
  have hq : ¬ Sheltered K (Reg.lthQdepth n) := not_sheltered_of_ge (by unfold Reg.lthQdepth; omega)
  have hlo : ¬ Sheltered K (Reg.lthRunLo n) := not_sheltered_of_ge (by unfold Reg.lthRunLo; omega)
  have hhi : ¬ Sheltered K (Reg.lthRunHi n) := not_sheltered_of_ge (by unfold Reg.lthRunHi; omega)
  unfold State.showLathe
  extract_lets l q running u v w x
  have hu : Calm K z u := ((h.setFld _ _ _ hst).setFld _ _ _ hst).setFlag _ _ hst
  have hv : Calm K z v := hu.setFld _ _ _ hq
  have hw : Calm K z w := (hv.setFld _ _ _ hq).ite hv
  have hx : Calm K z x := (hw.setNum _ hlo).setNum _ hhi
  refine hx.foldl fun y c _ hy => ?_
  have hc : ¬ Sheltered K (Reg.lthChuck n c) := not_sheltered_of_ge (by unfold Reg.lthChuck; omega)
  split <;> exact (hy.setFlag _ _ hc).setFld _ _ _ hc

theorem countLathe (h : Calm K z s) (n code : Nat) (ie : Bool) : Calm K z (s.countLathe n code ie) := by
  have hok : ¬ Sheltered K (Reg.lthNOk n) := not_sheltered_of_ge (by unfold Reg.lthNOk; omega)
  have hnc : ¬ Sheltered K (Reg.lthNNc n) := not_sheltered_of_ge (by unfold Reg.lthNNc; omega)
  have hmiss : ¬ Sheltered K (Reg.lthNMiss n) := not_sheltered_of_ge (by unfold Reg.lthNMiss; omega)
  have hpred : ¬ Sheltered K (Reg.lthNPred n) := not_sheltered_of_ge (by unfold Reg.lthNPred; omega)
  have herr : ¬ Sheltered K (Reg.lthNErr n) := not_sheltered_of_ge (by unfold Reg.lthNErr; omega)
  unfold State.countLathe
  extract_lets x u v
  have hx : Calm K z x := h.bump _ _ _ herr
  have hu : Calm K z u := (h.bump _ _ _ hok).ite ((h.bump _ _ _ hnc).ite
    ((((h.bump _ _ _ hmiss).raise _).detected _).ite ((((h.bump _ _ _ hpred).raise _).detected _).ite ((hx.detected _).ite hx))))
  have hv : Calm K z v := (hu.raise _).ite hu
  exact (hv.raise _).ite hv

theorem completeJob (h : Calm K z s) (n : Nat) (j : LatheJob) (code : Nat) (r : LatheReport) : Calm K z (s.completeJob n j code r) := by
  unfold State.completeJob
  extract_lets d subst season payload u v w
  have hu : Calm K z u := h.dmaWrite _ _ _
  have hv : Calm K z v := hu.post _ _ _ _ _ _ _
  have hw : Calm K z w := (hv.countLathe _ _ _).offerEvent _ _
  clear_value w
  split
  · exact hw.fedReply _ _ _ _ _ _
  · exact hw

theorem dropJob (h : Calm K z s) (n : Nat) (j : LatheJob) (code : Nat) (p : LatheReport) : Calm K z (s.dropJob n j code p) := by
  unfold State.dropJob
  exact ((h.setLth n _).completeJob n j code p).showLathe n

theorem endRun (h : Calm K z s) (n c : Nat) (r : LatheRun) (code : Nat) (p : LatheReport) : Calm K z (s.endRun n c r code p) := by
  unfold State.endRun
  exact ((h.setLth n _).completeJob n _ code _).showLathe n

theorem cancelLathes (h : Calm K z s) : Calm K z s.cancelLathes := by
  have hu : Calm K z { s.setFlag Reg.fedMstatus 31 false with fed := { s.fed with asked := [] } } :=
    (h.setFedMstatus 31 31 (ofBool false)).same
  refine h.ite (hu.foldl fun u n _ hu => ?_)
  have hv : Calm K z ((List.range 64).foldl (fun s c => match s.chuckRun n c with
      | some r => s.endRun n c r Lth.cancelled {}
      | none => s) u) := by
    refine hu.foldl fun v c _ hv => ?_
    split
    · exact hv.endRun n c _ _ _
    · exact hv
  exact hv.foldl fun v j _ hv => hv.dropJob n j _ _

end Calm

end Sys2Proof.Machine
end

section
/-! The entry to SAFE (R99, R150, R523, R526), stage by stage: the mode, the role, the engines, and the Latch's channels. -/
namespace Sys2Proof.Machine

namespace Calm
variable {K : Nat → Prop} {z s : State}

theorem storeLastGood (h : Calm K z s) : Calm K z s.storeLastGood :=
  h.ite (((h.engineWrite _ _ _).setNum _ (not_sheltered_of_ge (by decide))).raise 99)

theorem selfRefresh (h : Calm K z s) (v : Bool) : Calm K z (s.selfRefresh v) :=
  ((h.setFlag _ _ (not_sheltered_of_ge (by decide))).raise 461).ite h

theorem endHandover (h : Calm K z s) (code : Nat) : Calm K z (s.endHandover code) := by
  unfold State.endHandover
  split
  · exact h
  · have hr : ¬ Sheltered K Reg.hngCmdstat := not_sheltered (by decide)
    extract_lets x u v
    have hu : Calm K z u := h.setHinge _
    have hv : Calm K z v := (hu.setNum _ hr).ite hu
    exact hv.ite (hv.raise 47)

theorem dropProof (h : Calm K z s) : Calm K z s.dropProof := by
  unfold State.dropProof
  exact ite (h.alter rfl rfl) h

theorem leaveRole (h : Calm K z s) : Calm K z s.leaveRole := ((h.endHandover _).dropProof).setHinge _

end Calm

variable {K : Nat → Prop} {s t : State}

/-! ### The claim and the mode -/

/-- The claim is gone; of the sheltered registers it alone may differ. -/
theorem State.withdrawClaim_calm (s : State) : Calm K (s.setNum Reg.hngClaim 0) s.withdrawClaim := by
  unfold State.withdrawClaim
  extract_lets c
  split
  next hc =>
    refine ⟨fun q _ => ?_, rfl⟩
    rw [State.setNum, State.reg_setReg]
    split
    next hq =>
      have hz : (s.reg Reg.hngClaim).toNat = 0 := hc
      rw [hq]
      exact BitVec.eq_of_toNat_eq (by simpa using hz)
    next => rfl
  next =>
    have hw : Calm K s (s.latchWithdrawAll c) := (Calm.refl s).latchWithdrawAll c
    generalize s.latchWithdrawAll c = u at hw ⊢
    refine ⟨fun q hq => ?_, hw.settled⟩
    rw [State.setNum, State.setNum, State.reg_setReg, State.reg_setReg, hw.reg hq]

theorem State.withdrawClaim_claim (s : State) : s.withdrawClaim.claim = 0 := by
  rw [(State.withdrawClaim_calm (K := fun _ => True) s).claim, State.claim, State.num_setNum _ _ _ (by decide)]

theorem State.withdrawClaim_mode (s : State) : s.withdrawClaim.mode = s.mode :=
  (State.withdrawClaim_calm (K := fun _ => True) s).mode.trans (State.mode_setReg (by decide) _)

theorem State.mode_lt (s : State) : s.mode < 16 := Nat.mod_lt _ (by decide)

/-- A change of mode shows both modes, and no other register changes. -/
theorem State.setMode_shows {m : Nat} (hm : m < 16) (h : s.mode ≠ m) :
    (s.setMode m).mode = m ∧ (s.setMode m).fld Reg.sysMode 7 4 = s.mode ∧ ∀ q, q ≠ Reg.sysMode → (s.setMode m).reg q = s.reg q := by
  have hreg : ∀ q, (s.setMode m).reg q = ((s.setFld Reg.sysMode 7 4 s.mode).setFld Reg.sysMode 3 0 m).reg q := by
    intro q
    rw [State.setMode, if_neg h, State.raise_reg]
    rfl
  refine ⟨?_, ?_, fun q hq => ?_⟩
  · rw [State.mode, State.fld, hreg]
    exact (State.fld_setFld _ _ 3 0 m (by decide) (by decide)).trans (Nat.mod_eq_of_lt hm)
  · rw [State.fld, hreg]
    exact (State.fld_setFld_ne _ _ 3 0 m 7 4 (by decide) (by decide) (by decide)).trans
      ((State.fld_setFld _ _ 7 4 _ (by decide) (by decide)).trans (Nat.mod_eq_of_lt s.mode_lt))
  · rw [hreg]
    exact (State.reg_setReg_ne _ _ _ _ hq).trans (State.reg_setReg_ne _ _ _ _ hq)

/-- The claim, the last-good record and the mode. -/
def State.toSafe (s : State) : State := s.withdrawClaim.storeLastGood.setMode Mode.safe

theorem State.toSafe_shows (h : s.mode ≠ Mode.safe) :
    s.toSafe.mode = Mode.safe ∧ s.toSafe.fld Reg.sysMode 7 4 = s.mode ∧ s.toSafe.claim = 0 := by
  have hl : Calm (fun _ => True) s.withdrawClaim s.withdrawClaim.storeLastGood := (Calm.refl _).storeLastGood
  have hmode := hl.mode.trans s.withdrawClaim_mode
  obtain ⟨h1, h2, h3⟩ := State.setMode_shows (m := Mode.safe) (by decide) (by rwa [hmode])
  refine ⟨h1, h2.trans hmode, ?_⟩
  rw [State.claim, State.num, State.toSafe, h3 _ (by decide)]
  exact hl.claim.trans s.withdrawClaim_claim

/-! ### The role, the patch requests and the injection -/

/-- Requests are discarded: beside memory and BLK nothing that `Calm` watches changes. -/
theorem State.discardPatches_calm (s : State) {r : Nat} (hr : r < 4) : Calm K (s.dropPatches r) (s.discardPatches r) := by
  have step (u : State) (h : Calm K s u) (o : Option PatchRequest) :
      Calm K s (match o with | some q => u.patchResult q.desc Patch.refused Code.denied | none => u) := by
    cases o with
    | none => exact h
    | some q => exact h.patchResult _ _ _
  have hd : Calm K s (s.denyPatches r) := step _ (step s (.refl s) _) _
  have hdrop : Calm K (s.dropPatches r) ((s.denyPatches r).dropPatches r) := by
    refine ⟨hd.regs, ?_⟩
    simp only [State.settled, State.dropPatches, hd.variant, hd.blk, hd.chip, hd.run, hd.rtc]
    rw [hd.canaries]
  have hreq : ¬ Sheltered K (Reg.blkReqinit r) := not_sheltered (.inr (.inl (by unfold Reg.blkReqinit; omega)))
  have hstat : ¬ Sheltered K Reg.blkStatus := not_sheltered (by decide)
  rw [State.discardPatches_eq]
  exact Calm.setFld (Calm.setFlag (Calm.setFlag hdrop (8 + r) false hstat) (12 + r) false hstat) 15 0 0xFFFF hreq

/-- A region has no request. -/
def State.noPatch (s : State) (r : Nat) : Prop := s.blk.runs.get r = none ∧ s.blk.waits.get r = none

theorem State.noPatch_discardPatches (s : State) {q r : Nat} (h : r = q ∨ s.noPatch r) (hq : q < 4) : (s.discardPatches q).noPatch r := by
  have hb : (s.discardPatches q).blk = (s.dropPatches q).blk := (s.discardPatches_calm (K := fun _ => False) hq).blk
  rw [State.noPatch, hb]
  simp only [State.dropPatches, Tab.get_set]
  split
  next => exact ⟨rfl, rfl⟩
  next hne => exact h.resolve_left hne

/-- No region of a list has a request once the list's are discarded. -/
theorem State.discardPatches_all (rs : List Nat) (hrs : ∀ r ∈ rs, r < 4) (s : State) :
    RegsKept (Sheltered K) s (rs.foldl State.discardPatches s) ∧ ∀ r, r ∈ rs ∨ s.noPatch r → (rs.foldl State.discardPatches s).noPatch r := by
  induction rs generalizing s with
  | nil => exact ⟨.refl s, fun r h => h.resolve_left List.not_mem_nil⟩
  | cons q rs ih =>
    have hq : q < 4 := hrs q List.mem_cons_self
    obtain ⟨hk, hall⟩ := ih (fun r hr => hrs r (List.mem_cons_of_mem q hr)) (s.discardPatches q)
    refine ⟨RegsKept.trans (s.discardPatches_calm hq).regs hk, fun r h => hall r ?_⟩
    by_cases hr : r ∈ rs
    · exact .inl hr
    · exact .inr (s.noPatch_discardPatches (h.imp_left fun hm => (List.mem_cons.1 hm).resolve_right hr) hq)

/-- No injection runs afterwards, and nothing else that `Calm` watches changes. -/
theorem State.abandonInjection_calm (s : State) : Calm K s.stopInjection s.abandonInjection := by
  unfold State.abandonInjection
  cases e : s.inj.run with
  | none =>
    rw [State.endInjection, e]
    refine ⟨.refl s, ?_⟩
    simp only [State.settled, State.stopInjection, e]
  | some q =>
    rw [State.endInjection_eq e]
    refine Calm.raise (Calm.setNum (Calm.setNum (.refl _) _ (not_sheltered (by decide))) _ (not_sheltered_of_ge ?_)) 26
    unfold bankOf
    omega

/-- What ends with the role: hand-over, patch requests and injection. -/
def State.endRole (s : State) : State := s.leaveRole.discardAllPatches.abandonInjection

theorem State.endRole_shows (s : State) :
    RegsKept (Sheltered K) s s.endRole ∧ s.endRole.inj.run = none ∧ ∀ r, r < 4 → s.endRole.noPatch r := by
  have hl : Calm K s s.leaveRole := (Calm.refl s).leaveRole
  obtain ⟨hd, hp⟩ := State.discardPatches_all (K := K) (List.range 4) (fun r hr => List.mem_range.1 hr) s.leaveRole
  have e : s.endRole = ((List.range 4).foldl State.discardPatches s.leaveRole).abandonInjection := rfl
  rw [e]
  generalize (List.range 4).foldl State.discardPatches s.leaveRole = u at hd hp ⊢
  have ha := u.abandonInjection_calm (K := K)
  refine ⟨(hl.regs.trans hd).trans ha.regs, ha.run, fun r hr => ?_⟩
  rw [State.noPatch, ha.blk]
  exact hp r (.inl (List.mem_range.2 hr))

/-! ### The engines -/

/-- Every engine stops. -/
def State.stopEngines (s : State) : State :=
  let s := s.cancelLathes
  let s := (List.range s.nprog).foldl (fun s p => if s.programMode p = Program.stop then s else s.stopProgram p) s
  s.gateTasks.gateAxes.cleGate.selfRefresh false

theorem State.stopEngines_calm (hs : s.controlRuns = false) : Calm K s s.stopEngines := by
  have hc : Calm K s s.cancelLathes := (Calm.refl s).cancelLathes
  have hp : Calm K s ((List.range s.cancelLathes.nprog).foldl (fun s p => if s.programMode p = Program.stop then s else s.stopProgram p) s.cancelLathes) :=
    hc.foldl fun u p _ hu => hu.ite (hu.stopProgram hs p)
  exact ((hp.gateTasks hs).gateAxes.cleGate).selfRefresh false

/-! ### The Latch's channels -/

theorem State.latchUsed_calm {L : Nat → Prop} (h : Calm L s t) (c : Nat) : t.latchUsed c = s.latchUsed c := by
  simp only [State.latchUsed, State.latchBody, h.body]

theorem State.latchSafeval_calm {L : Nat → Prop} (h : Calm L s t) (c : Nat) : t.latchSafeval c = s.latchSafeval c := by
  simp only [State.latchSafeval, State.latchBody, h.body]

/-- A channel watched holds its state and its value. -/
theorem State.channelSafe_calm (h : Calm K s t) {c : Nat} (hc : c < 64) (hK : K c) : t.channelSafe c = s.channelSafe c := by
  rw [State.channelSafe, State.latchHeld, h.fld (sheltered_cstate hc hK), h.num (sheltered_value hc hK), State.latchSafeval_calm h]
  rfl

theorem State.latchSafeval_lt (s : State) (c : Nat) : s.latchSafeval c < 2 ^ 32 := by
  have hlt : ∀ bs : List Byte, leNat bs < 2 ^ (8 * bs.length) := by
    intro bs
    induction bs with
    | nil => decide
    | cons b bs ih =>
      have hb := b.isLt
      have hp : 2 ^ (8 * (bs.length + 1)) = 256 * 2 ^ (8 * bs.length) := by rw [Nat.mul_add, Nat.pow_add]; omega
      rw [List.length_cons, hp, leNat]
      omega
  refine Nat.lt_of_lt_of_le (hlt _) (Nat.pow_le_pow_right (by decide) ?_)
  simp [slice]

/-- The registers of a channel are not among those of the others. -/
theorem not_sheltered_own {c : Nat} (hc : c < 64) : ¬ Sheltered (· ≠ c) (Reg.latCstate c) ∧ ¬ Sheltered (· ≠ c) (Reg.latValue c) := by
  unfold Sheltered Reg.hngClaim Reg.hngEpoch Reg.latCstate Reg.latValue
  constructor <;> rintro (h | h | h | ⟨d, hd, hne, h | h⟩) <;> omega

/-- A channel goes to SAFE, and no other channel changes. -/
theorem State.latchToSafe_shows (s : State) {c : Nat} (hc : c < 64) :
    Calm (· ≠ c) s (s.latchToSafe c Lat.safe) ∧ (s.latchToSafe c Lat.safe).channelSafe c = true := by
  obtain ⟨hst, hval⟩ := not_sheltered_own hc
  have hsafe (K : Nat → Prop) : ¬ Sheltered K (State.latchSafeReg c) := by
    unfold State.latchSafeReg
    split <;> exact not_sheltered (by decide)
  have hstat (K : Nat → Prop) : ¬ Sheltered K Reg.latStatus := not_sheltered (by decide)
  have hall : Calm (fun _ => True) (s.setFld (Reg.latCstate c) 30 29 Lat.safe) (s.setLatchHeld c Lat.safe) :=
    ((Calm.refl _).setFlag _ _ (hsafe _)).setFld _ _ _ (hstat _)
  obtain ⟨u, hu⟩ : ∃ u, s.setLatchHeld c Lat.safe = u := ⟨_, rfl⟩
  have hown : Calm (· ≠ c) s u := hu ▸ (((Calm.refl s).setFld _ _ _ hst).setFlag _ _ (hsafe _)).setFld _ _ _ (hstat _)
  rw [hu] at hall
  have hheld : u.latchHeld c = Lat.safe :=
    (hall.fld (sheltered_cstate hc trivial) 30 29).trans (State.fld_setFld _ _ 30 29 _ (by decide) (by decide))
  have hout (K : Nat → Prop) : Calm K (u.setNum (Reg.latValue c) (s.latchSafeval c)) (u.latchOutput c (s.latchSafeval c)) :=
    ((Calm.refl _).driveGpio _ _).ite (((Calm.refl _).latchTarget _ _).ite (.refl _))
  have hdrive := hout fun _ => True
  rw [State.latchToSafe, hu]
  have hto : Calm (· ≠ c) s (u.latchOutput c (s.latchSafeval c)) := hown.latchOutput hval _
  refine ⟨hto, ?_⟩
  rw [State.channelSafe, State.latchSafeval_calm hto, hdrive.num (sheltered_value hc trivial), State.num_setNum _ _ _ (s.latchSafeval_lt c),
    State.latchHeld, hdrive.fld (sheltered_cstate hc trivial)]
  have hfld : (u.setNum (Reg.latValue c) (s.latchSafeval c)).fld (Reg.latCstate c) 30 29 = u.latchHeld c :=
    State.fld_setReg_ne u _ 30 29 (by unfold Reg.latCstate Reg.latValue; omega)
  rw [hfld, hheld]
  simp

/-- Every used channel of a list goes to SAFE. -/
def State.latchesToSafe (s : State) (cs : List Nat) : State := cs.foldl (fun s c => if s.latchUsed c then s.latchToSafe c Lat.safe else s) s

/-- A used channel drives its safe value. -/
def State.channelAtRest (s : State) (c : Nat) : Prop := s.latchUsed c = true → s.channelSafe c = true

theorem State.channelAtRest_calm (h : Calm K s t) {c : Nat} (hc : c < 64) (hK : K c) (hs : s.channelAtRest c) : t.channelAtRest c := by
  intro hused
  rw [State.channelSafe_calm h hc hK]
  exact hs ((State.latchUsed_calm h c).symm.trans hused)

theorem State.latchesToSafe_shows (cs : List Nat) (hcs : ∀ c ∈ cs, c < 64) (s : State) : Calm (fun _ => False) s (s.latchesToSafe cs) ∧
    ∀ c, c < 64 → c ∈ cs ∨ s.channelAtRest c → (s.latchesToSafe cs).channelAtRest c := by
  induction cs generalizing s with
  | nil => exact ⟨.refl s, fun c _ h => h.resolve_left (List.not_mem_nil)⟩
  | cons d cs ih =>
    have hd : d < 64 := hcs d List.mem_cons_self
    obtain ⟨u, hu⟩ : ∃ u, (if s.latchUsed d then s.latchToSafe d Lat.safe else s) = u := ⟨_, rfl⟩
    have hstep : Calm (· ≠ d) s u ∧ u.channelAtRest d := by
      rw [← hu]
      split
      · obtain ⟨hk, hsafe⟩ := s.latchToSafe_shows hd
        exact ⟨hk, fun _ => hsafe⟩
      next hno => exact ⟨.refl s, fun hused => absurd hused hno⟩
    obtain ⟨hk, hrest⟩ := hstep
    obtain ⟨hks, hall⟩ := ih (fun c hc => hcs c (List.mem_cons_of_mem d hc)) u
    have e : s.latchesToSafe (d :: cs) = u.latchesToSafe cs := by rw [State.latchesToSafe, List.foldl_cons, hu, State.latchesToSafe]
    rw [e]
    refine ⟨(hk.weaken fun _ h => h.elim).trans hks, fun c hc h => hall c hc ?_⟩
    by_cases hcd : c = d
    · exact .inr (hcd ▸ hrest)
    · obtain hmem | hs := h
      · exact .inl ((List.mem_cons.1 hmem).resolve_left hcd)
      · exact .inr (State.channelAtRest_calm hk hc hcd hs)

theorem State.outputsSafe_iff (s : State) : s.outputsSafe = true ↔ ∀ c, c < 64 → s.channelAtRest c := by
  simp only [State.outputsSafe, State.channelAtRest, List.all_eq_true, List.mem_range, Bool.or_eq_true, Bool.not_eq_true']
  refine forall₂_congr fun c _ => ?_
  cases s.latchUsed c <;> simp

/-! ### The entry -/

theorem State.enterSafe_eq (h : s.mode ≠ Mode.safe) (ha : s.awake = true) : s.enterSafe =
    ((s.toSafe.endRole.stopEngines.latchesToSafe (List.range 64)).setFlag Reg.hngStatus Hng.applying false).tell := by
  rw [State.enterSafe, if_neg (by simp [h, ha])]
  rfl

/-- An awake part that enters SAFE shows its mode before, presents no claim, drives its outputs safe, and has neither injection nor patch request. -/
theorem State.enterSafe_shows (h : s.mode ≠ Mode.safe) (ha : s.awake = true) :
    s.enterSafe.mode = Mode.safe ∧ s.enterSafe.fld Reg.sysMode 7 4 = s.mode ∧ s.enterSafe.claim = 0 ∧ s.enterSafe.outputsSafe = true ∧
      s.enterSafe.inj.run = none ∧ ∀ r, r < 4 → s.enterSafe.noPatch r := by
  obtain ⟨hmode, hprev, hclaim⟩ := State.toSafe_shows h
  obtain ⟨hregs, hrun, hpatch⟩ := s.toSafe.endRole_shows (K := fun _ => False)
  have hstill : s.toSafe.endRole.controlRuns = false := by
    have hm : s.toSafe.endRole.mode = Mode.safe :=
      (congrArg (fun w => field w 3 0) (hregs _ (sheltered_sys (by decide) (by decide)))).trans hmode
    rw [State.controlRuns, hm]
    decide
  have hstop := State.stopEngines_calm (K := fun _ => False) hstill
  obtain ⟨hlatch, hrest⟩ := State.latchesToSafe_shows (List.range 64) (fun c hc => List.mem_range.1 hc) s.toSafe.endRole.stopEngines
  rw [State.enterSafe_eq h ha]
  generalize s.toSafe.endRole.stopEngines.latchesToSafe (List.range 64) = u at hlatch hrest ⊢
  have hflag : ¬ Sheltered (fun _ => True) Reg.hngStatus := not_sheltered (by decide)
  have htell : Calm (fun _ => True) u (u.setFlag Reg.hngStatus Hng.applying false).tell := ((Calm.refl u).setFlag _ _ hflag).tell
  have hend : Calm (fun _ => False) s.toSafe.endRole (u.setFlag Reg.hngStatus Hng.applying false).tell :=
    (hstop.trans hlatch).trans (htell.weaken fun _ h => h.elim)
  generalize (u.setFlag Reg.hngStatus Hng.applying false).tell = t at htell hend ⊢
  have hreg : RegsKept (Sheltered fun _ => False) s.toSafe t := hregs.trans hend.regs
  have hsys := hreg Reg.sysMode (sheltered_sys (by decide) (by decide))
  refine ⟨(congrArg (fun w => field w 3 0) hsys).trans hmode, (congrArg (fun w => field w 7 4) hsys).trans hprev,
    (congrArg BitVec.toNat (hreg _ (sheltered_claim _))).trans hclaim, ?_, hend.run.trans hrun, fun r hr => ?_⟩
  · exact t.outputsSafe_iff.2 fun c hc => State.channelAtRest_calm htell hc trivial (hrest c hc (.inl (List.mem_range.2 hc)))
  · rw [State.noPatch, hend.blk]
    exact hpatch r hr

/-! ### SAFE_REQ (R102) -/

variable {o : State} {w : Who} {v : Word}

theorem exec_safeReq (h : o.admits w Reg.sysSafeReq v s) : exec (.safeReq w v) o =
    .next (if bit v.toNat 0 && (s.controlRuns || s.mode == Mode.standby) then s.enterSafe else s).replyOk :=
  congrArg Host.Outcome.next (State.gated_ok o w Reg.sysSafeReq v _ s h)

theorem safeReq_acts_iff (s : State) (v : Word) : (bit v.toNat 0 && (s.controlRuns || s.mode == Mode.standby)) = true ↔
    bit v.toNat 0 = true ∧ s.mode ∈ [Mode.run, Mode.hold, Mode.standby] := by
  simp [State.controlRuns, or_assoc]

/-- Settles O13: where the write acts it is the entry to SAFE, acknowledged, and else the acknowledgement alone. -/
theorem safeDrivesEveryOutputSafe : Obligations.SafeDrivesEveryOutputSafe := by
  intro o s w v h
  have e := exec_safeReq h
  split
  next hact =>
    rw [if_pos ((safeReq_acts_iff s v).2 hact)] at e
    have hsafe : s.mode ≠ Mode.safe := by
      rintro hm
      rw [hm] at hact
      exact absurd hact.2 (by decide)
    obtain ⟨hmode, hprev, hclaim, hout, hrun, hpatch⟩ := State.enterSafe_shows hsafe (State.admits_awake h)
    exact ⟨_, e, .replyOk _, hmode, hprev, hclaim, hout, hrun, hpatch⟩
  next hidle =>
    rw [if_neg fun ha => hidle ((safeReq_acts_iff s v).1 ha)] at e
    exact ⟨_, e, .replyOk s, (OnlyRegs.refl s []).replyOk, rfl, trivial⟩

end Sys2Proof.Machine
end

section
/-! The core supply and its monitors (R72 to R76, R85): each command as one state, and what that state shows. -/
namespace Sys2Proof.Machine

variable {s t u : State} {rs : List Nat}

theorem OnlyRegs.setFld {r : Nat} (h : OnlyRegs s t rs) (hr : r ∈ rs) (hi lo v : Nat) : OnlyRegs s (t.setFld r hi lo v) rs := h.setReg hr _
theorem OnlyRegs.setFlag {r : Nat} (h : OnlyRegs s t rs) (hr : r ∈ rs) (b : Nat) (v : Bool) : OnlyRegs s (t.setFlag r b v) rs := h.setReg hr _

/-! ### What the write of a field leaves -/

theorem State.setFld_bus (s : State) (r hi lo v : Nat) : (s.setFld r hi lo v).bus = s.bus := State.setReg_bus _ _ _
theorem State.setFld_plic (s : State) (r hi lo v : Nat) : (s.setFld r hi lo v).plic = s.plic := State.setReg_plic _ _ _
theorem State.setFld_pwr (s : State) (r hi lo v : Nat) : (s.setFld r hi lo v).pwr = s.pwr := State.setReg_pwr _ _ _
theorem State.setFld_variant (s : State) (r hi lo v : Nat) : (s.setFld r hi lo v).variant = s.variant := State.setReg_variant _ _ _
theorem State.setFlag_bus (s : State) (r b : Nat) (v : Bool) : (s.setFlag r b v).bus = s.bus := State.setReg_bus _ _ _
theorem State.setFlag_plic (s : State) (r b : Nat) (v : Bool) : (s.setFlag r b v).plic = s.plic := State.setReg_plic _ _ _
theorem State.setFlag_variant (s : State) (r b : Nat) (v : Bool) : (s.setFlag r b v).variant = s.variant := State.setReg_variant _ _ _

/-! ### VCORE (R69 to R72) -/

theorem State.vcoreGoal_le (s : State) : s.vcoreGoal ≤ 900 := by
  unfold State.vcoreGoal
  split
  · dsimp only
    unfold clampNat
    split_ifs <;> omega
  · decide

theorem State.vcoreGoal_boot (h : s.pwr.avsControl = false) : s.vcoreGoal = 800 := by simp [State.vcoreGoal, h]

theorem vcoreRampStep_moves (s : State) (mv : Nat) : Alters (.vcoreRampStep mv) s [Reg.pmuVcore] [] fun t =>
    t.fld Reg.pmuVcore 9 0 = rampToward (s.fld Reg.pmuVcore 9 0) s.vcoreGoal ∧ t.fld Reg.pmuVcore 25 16 = mv % 1024 := by
  have hold : s.fld Reg.pmuVcore 9 0 < 1024 := Nat.mod_lt _ (by decide)
  have hnew : rampToward (s.fld Reg.pmuVcore 9 0) s.vcoreGoal < 1024 := by
    have := s.vcoreGoal_le
    unfold rampToward
    split <;> omega
  refine ⟨_, rfl, (State.setFld_bus _ _ _ _ _).trans (State.setFld_bus _ _ _ _ _),
    ((OnlyRegs.refl s _).setFld (by simp) 9 0 _).setFld (by simp) 25 16 mv,
    Raised.nil ((State.setFld_plic _ _ _ _ _).trans (State.setFld_plic _ _ _ _ _)), ?_, State.fld_setFld _ _ 25 16 mv (by decide) (by decide)⟩
  exact (State.fld_setFld_ne _ _ 25 16 mv 9 0 (by decide) (by decide) (by decide)).trans
    ((State.fld_setFld _ _ 9 0 _ (by decide) (by decide)).trans (Nat.mod_eq_of_lt hnew))

/-! ### Phases (R73, R74) -/

/-- Other phases are shed. -/
def State.setShed (s : State) (x : Nat) : State := { s with pwr := { s.pwr with shed := x } }

theorem OnlyRegs.setShed (h : OnlyRegs s t rs) (x : Nat) : OnlyRegs (s.setShed x) (t.setShed x) rs :=
  ⟨congrArg (·.setShed x) h.1, h.2⟩

theorem State.setShed_bus (s : State) (x : Nat) : (s.setShed x).bus = s.bus := rfl
theorem State.setShed_plic (s : State) (x : Nat) : (s.setShed x).plic = s.plic := rfl
theorem State.setShed_fld (s : State) (x r hi lo : Nat) : (s.setShed x).fld r hi lo = s.fld r hi lo := rfl
theorem State.setShed_phasesOn (s : State) (x : Nat) : (s.setShed x).phasesOn = s.usablePhases &&& (15 ^^^ x % 16) := rfl

theorem State.usablePhases_lt (s : State) : s.usablePhases < 16 :=
  Nat.and_lt_two_pow (n := 4) _ (Nat.xor_lt_two_pow (by decide) (Nat.mod_lt _ (by decide)))

/-- With all phases shed but the lowest, the lowest carries the load. -/
theorem phases_but_lowest : ∀ m < 16, m &&& (15 ^^^ (m ^^^ lowestPhase m) % 16) = lowestPhase m := by decide
theorem lowestPhase_mem : ∀ m < 16, m ≠ 0 → lowestPhase m ∈ [1, 2, 4, 8] := by decide
theorem phases_all : ∀ m < 16, m &&& (15 ^^^ 0 % 16) = m := by decide

/-- The phases shed once one is disabled: where no usable one was left on, all but the lowest. -/
def State.shedLeft (s : State) : Nat := if s.phasesOn = 0 then s.usablePhases ^^^ lowestPhase s.usablePhases else s.pwr.shed

theorem State.shedLeft_carries (h : s.usablePhases ≠ 0) : (s.setShed s.shedLeft).phasesOn ≠ 0 := by
  have hlow := lowestPhase_mem _ s.usablePhases_lt h
  rw [State.setShed_phasesOn, State.shedLeft]
  split
  · rw [phases_but_lowest _ s.usablePhases_lt]
    intro h0
    rw [h0] at hlow
    exact absurd hlow (by decide)
  next hon => exact hon

/-- A phase is disabled and reported. -/
def State.disablePhase (s : State) (k : Nat) : State := (s.setFlag Reg.pmuPhases (8 + k) true).raise 12

theorem exec_phaseFault {k : Nat} (h : k < 4 ∧ bit (s.fld Reg.pmuPhases 3 0) k = true) :
    exec (.phaseFault k) s = .next ((s.disablePhase k).setShed (s.disablePhase k).shedLeft) := by
  have e : exec (.phaseFault k) s = if k < 4 ∧ bit (s.fld Reg.pmuPhases 3 0) k = true then
      .next (if (s.disablePhase k).phasesOn = 0 then
        (s.disablePhase k).setShed ((s.disablePhase k).usablePhases ^^^ lowestPhase (s.disablePhase k).usablePhases) else s.disablePhase k)
      else .next s := rfl
  rw [e, if_pos h, State.shedLeft]
  split <;> rfl

theorem State.disablePhase_pwr (s : State) (k : Nat) : (s.disablePhase k).pwr = s.pwr := State.raise_pwr _ _

theorem phaseFault_disables {k : Nat} (h : k < 4 ∧ bit (s.fld Reg.pmuPhases 3 0) k = true) :
    Completes (.phaseFault k) s fun t => t.bus = s.bus ∧ Raised s t [12] ∧
      OnlyRegs { s with pwr := { s.pwr with shed := t.pwr.shed } } t [Reg.pmuPhases] ∧ t.flag Reg.pmuPhases (8 + k) = true ∧
      (∀ b, b ≠ 8 + k → t.flag Reg.pmuPhases b = s.flag Reg.pmuPhases b) ∧ (t.usablePhases ≠ 0 → t.phasesOn ≠ 0) ∧
      (t.usablePhases &&& (15 ^^^ s.pwr.shed % 16) ≠ 0 → t.pwr.shed = s.pwr.shed) := by
  have hk : 8 + k < 32 := by omega
  have honly : OnlyRegs s (s.disablePhase k) [Reg.pmuPhases] := ((OnlyRegs.refl s _).setFlag (by simp) _ true).raise 12
  have hmode : (s.setFlag Reg.pmuPhases (8 + k) true).mode = s.mode := State.mode_setReg (by decide) _
  have hraised : Raised s (s.disablePhase k) [12] := Raised.single (State.setReg_variant _ _ _) hmode (State.setReg_plic _ _ _) 12
  have hset : (s.disablePhase k).flag Reg.pmuPhases (8 + k) = true := (State.raise_flag _ _ _ _).trans (State.flag_setFlag _ _ _ _ hk)
  have hother : ∀ b, b ≠ 8 + k → (s.disablePhase k).flag Reg.pmuPhases b = s.flag Reg.pmuPhases b := fun b hb =>
    (State.raise_flag _ _ _ _).trans (State.flag_setFlag_ne _ _ _ _ true hk hb)
  have hbus : (s.disablePhase k).bus = s.bus := State.raise_bus _ _
  have hpwr := s.disablePhase_pwr k
  refine ⟨_, exec_phaseFault h, hbus, hraised, honly.setShed _, hset, hother, fun h => State.shedLeft_carries h, fun hon => ?_⟩
  have hon : (s.disablePhase k).phasesOn ≠ 0 := by rwa [State.phasesOn, hpwr]
  exact (if_neg hon).trans (congrArg PowerState.shed hpwr)

/-- The load and the power are shown. -/
def State.showLoad (s : State) (ma mw : Nat) : State := (s.setFld Reg.pmuIcore 15 0 (min 0xFFFF ma)).setFld Reg.pmuIcore 31 16 (min 0xFFFF mw)

/-- The phases shed at a load (R74). -/
def State.shedAt (s : State) (ma : Nat) : Nat :=
  if s.flag Reg.pmuPhases 4 then 0
  else if ma < 3000 then s.usablePhases ^^^ lowestPhase s.usablePhases
  else if 5000 < ma then 0
  else s.pwr.shed

theorem State.showLoad_flag (s : State) (ma mw b : Nat) : (s.showLoad ma mw).flag Reg.pmuPhases b = s.flag Reg.pmuPhases b :=
  (State.flag_setReg_ne _ _ b (by decide)).trans (State.flag_setReg_ne _ _ b (by decide))

theorem State.showLoad_bus (s : State) (ma mw : Nat) : (s.showLoad ma mw).bus = s.bus :=
  (State.setFld_bus _ _ _ _ _).trans (State.setFld_bus _ _ _ _ _)
theorem State.showLoad_plic (s : State) (ma mw : Nat) : (s.showLoad ma mw).plic = s.plic :=
  (State.setFld_plic _ _ _ _ _).trans (State.setFld_plic _ _ _ _ _)
theorem State.showLoad_pwr (s : State) (ma mw : Nat) : (s.showLoad ma mw).pwr = s.pwr :=
  (State.setFld_pwr _ _ _ _ _).trans (State.setFld_pwr _ _ _ _ _)

theorem State.showLoad_usablePhases (s : State) (ma mw : Nat) : (s.showLoad ma mw).usablePhases = s.usablePhases := by
  have h (hi lo : Nat) : (s.showLoad ma mw).fld Reg.pmuPhases hi lo = s.fld Reg.pmuPhases hi lo :=
    (State.fld_setReg_ne _ _ hi lo (by decide)).trans (State.fld_setReg_ne _ _ hi lo (by decide))
  rw [State.usablePhases, h, h, State.usablePhases]

theorem exec_phaseShed (s : State) (ma mw : Nat) : exec (.phaseShed ma mw) s = .next ((s.showLoad ma mw).setShed (s.shedAt ma)) := by
  have e : exec (.phaseShed ma mw) s = .next ((s.showLoad ma mw).setShed ((s.showLoad ma mw).shedAt ma)) := rfl
  rw [e, State.shedAt, State.showLoad_flag, State.showLoad_usablePhases, State.showLoad_pwr, State.shedAt]

theorem phaseShed_sheds (s : State) (ma mw : Nat) : Completes (.phaseShed ma mw) s fun t => t.bus = s.bus ∧ Raised s t [] ∧
    OnlyRegs { s with pwr := { s.pwr with shed := t.pwr.shed } } t [Reg.pmuIcore] ∧
    t.fld Reg.pmuIcore 15 0 = min 0xFFFF ma ∧ t.fld Reg.pmuIcore 31 16 = min 0xFFFF mw ∧
    (s.flag Reg.pmuPhases 4 = true ∨ 5000 < ma → t.pwr.shed = 0 ∧ t.phasesOn = s.usablePhases) ∧
    (ma < 3000 → s.flag Reg.pmuPhases 4 = false → s.usablePhases ≠ 0 → t.phasesOn ∈ [1, 2, 4, 8]) ∧
    (3000 ≤ ma → ma ≤ 5000 → s.flag Reg.pmuPhases 4 = false → t.pwr.shed = s.pwr.shed) := by
  have honly : OnlyRegs s (s.showLoad ma mw) [Reg.pmuIcore] := ((OnlyRegs.refl s _).setFld (by simp) _ _ _).setFld (by simp) _ _ _
  have hma : (s.showLoad ma mw).fld Reg.pmuIcore 15 0 = min 0xFFFF ma :=
    (State.fld_setFld_ne _ _ 31 16 _ 15 0 (by decide) (by decide) (by decide)).trans
      ((State.fld_setFld _ _ 15 0 _ (by decide) (by decide)).trans (Nat.mod_eq_of_lt (by omega)))
  have hmw : (s.showLoad ma mw).fld Reg.pmuIcore 31 16 = min 0xFFFF mw :=
    (State.fld_setFld _ _ 31 16 _ (by decide) (by decide)).trans (Nat.mod_eq_of_lt (by omega))
  have hon : ((s.showLoad ma mw).setShed (s.shedAt ma)).phasesOn = s.usablePhases &&& (15 ^^^ s.shedAt ma % 16) := by
    rw [State.setShed_phasesOn, State.showLoad_usablePhases]
  have hbus := (State.setShed_bus _ (s.shedAt ma)).trans (s.showLoad_bus ma mw)
  have hplic := (State.setShed_plic _ (s.shedAt ma)).trans (s.showLoad_plic ma mw)
  refine ⟨_, exec_phaseShed s ma mw, hbus, Raised.nil hplic, honly.setShed _, (State.setShed_fld _ _ _ _ _).trans hma,
    (State.setShed_fld _ _ _ _ _).trans hmw, fun hall => ?_, fun hlow hfix huse => ?_, fun hlo hhi hfix => ?_⟩
  · have hshed : s.shedAt ma = 0 := by
      rcases hall with hfix | hhi
      · exact if_pos hfix
      · rw [State.shedAt, if_neg (show ¬ ma < 3000 by omega), if_pos hhi, ite_self]
    exact ⟨hshed, by rw [hon, hshed, phases_all _ s.usablePhases_lt]⟩
  · rw [hon, State.shedAt, hfix, if_neg (by decide), if_pos hlow, phases_but_lowest _ s.usablePhases_lt]
    exact lowestPhase_mem _ s.usablePhases_lt huse
  · show s.shedAt ma = s.pwr.shed
    rw [State.shedAt, hfix, if_neg (by decide), if_neg (by omega), if_neg (by omega)]

/-! ### Rails (R75, R76) -/

/-- The first systems of a table are marked. -/
theorem markUnclassed_get (m : Tab MetSystem) (n k : Nat) :
    ((List.range n).foldl (fun m k => m.set k { m.get k with unclassed := true }) m).get k =
      if k < n then { m.get k with unclassed := true } else m.get k := by
  induction n with
  | zero => rfl
  | succ n ih =>
    rw [List.range_succ, List.foldl_append, List.foldl_cons, List.foldl_nil, Tab.get_set]
    rcases Nat.lt_trichotomy k n with h | h | h
    · rw [if_neg (by omega), ih, if_pos h, if_pos (by omega)]
    · subst h
      rw [if_pos rfl, ih, if_neg (by omega), if_pos (by omega)]
    · rw [if_neg (by omega), ih, if_neg (by omega), if_neg (by omega)]

/-- Every cycle of the metering is told that VANA is lost. -/
def State.unclassAll (s : State) : Tab MetSystem :=
  (List.range 7).foldl (fun m k => m.set k { m.get k with unclassed := true }) s.met.systems

/-- The table of the metered systems is replaced. -/
def State.setSystems (s : State) (m : Tab MetSystem) : State := { s with met := { s.met with systems := m } }

theorem exec_vanaClassChange (s : State) (good : Bool) : exec (.vanaClassChange good) s = .next
    (if good then s.setFlag Reg.pmuRails 5 good else (s.setFlag Reg.pmuRails 5 good).setSystems s.unclassAll) := rfl

theorem vanaClassChange_marks (s : State) (good : Bool) : Completes (.vanaClassChange good) s fun t => t.bus = s.bus ∧ Raised s t [] ∧
    OnlyRegs { s with met := { s.met with systems := t.met.systems } } t [Reg.pmuRails] ∧ t.flag Reg.pmuRails 5 = good ∧
    (∀ b, b ≠ 5 → t.flag Reg.pmuRails b = s.flag Reg.pmuRails b) ∧
    ∀ k, k < 7 → t.metSystem k = if good then s.metSystem k else { s.metSystem k with unclassed := true } := by
  have honly : OnlyRegs s (s.setFlag Reg.pmuRails 5 good) [Reg.pmuRails] := (OnlyRegs.refl s _).setFlag (by simp) 5 good
  have hset : (s.setFlag Reg.pmuRails 5 good).flag Reg.pmuRails 5 = good := State.flag_setFlag _ _ _ _ (by decide)
  have hother : ∀ b, b ≠ 5 → (s.setFlag Reg.pmuRails 5 good).flag Reg.pmuRails b = s.flag Reg.pmuRails b := fun b hb =>
    State.flag_setFlag_ne _ _ _ _ good (by decide) hb
  have e := exec_vanaClassChange s good
  have hmark (k : Nat) (hk : k < 7) : s.unclassAll.get k = { s.metSystem k with unclassed := true } :=
    (markUnclassed_get _ 7 k).trans (if_pos hk)
  generalize s.unclassAll = m at e hmark
  cases good with
  | true => exact ⟨_, e, rfl, rfl, honly, hset, hother, fun _ _ => rfl⟩
  | false => exact ⟨_, e, rfl, rfl, ⟨congrArg (·.setSystems m) honly.1, honly.2⟩, hset, hother, hmark⟩

theorem railRecovered_shows {r : Nat} (h : s.variant.hasRail r = true) : Alters (.railRecovered r) s [Reg.pmuRails] [] fun t =>
    t.flag Reg.pmuRails r = true ∧ ∀ b, b ≠ r → t.flag Reg.pmuRails b = s.flag Reg.pmuRails b := by
  have hr := Variant.hasRail_lt h
  have e : exec (.railRecovered r) s = .next (s.setFlag Reg.pmuRails r true) :=
    (rfl : exec (.railRecovered r) s = if s.variant.hasRail r then .next (s.setFlag Reg.pmuRails r true) else .next s).trans (if_pos h)
  exact ⟨_, e, rfl, (OnlyRegs.refl s _).setFlag (by simp) r true, rfl, State.flag_setFlag _ _ _ _ (by omega),
    fun b hb => State.flag_setFlag_ne _ _ _ _ true (by omega) hb⟩

/-! ### The battery (R85) -/

/-- The battery voltage is shown. -/
def State.showVbat (s : State) (mv : Nat) : State := s.setFld Reg.pmuBatstat 27 16 mv

theorem State.showVbat_fld (s : State) {mv : Nat} (h : mv < 4096) : (s.showVbat mv).fld Reg.pmuBatstat 27 16 = mv :=
  (State.fld_setFld _ _ 27 16 mv (by decide) (by decide)).trans (Nat.mod_eq_of_lt h)

theorem State.showVbat_flag (s : State) (mv : Nat) {b : Nat} (hb : b < 16) : (s.showVbat mv).flag Reg.pmuBatstat b = s.flag Reg.pmuBatstat b :=
  State.flag_setFld_ne _ _ 27 16 mv b (by decide) (by decide) (.inl hb)

theorem State.showVbat_bus (s : State) (mv : Nat) : (s.showVbat mv).bus = s.bus := State.setFld_bus _ _ _ _ _
theorem State.showVbat_plic (s : State) (mv : Nat) : (s.showVbat mv).plic = s.plic := State.setFld_plic _ _ _ _ _
theorem State.showVbat_variant (s : State) (mv : Nat) : (s.showVbat mv).variant = s.variant := State.setFld_variant _ _ _ _ _

theorem batLow_shows (s : State) {mv : Nat} (h : mv < 4096) : Alters (.batLow mv) s [Reg.pmuBatstat] [13] fun t =>
    t.fld Reg.pmuBatstat 27 16 = mv ∧ t.flag Reg.pmuBatstat 1 = true ∧ t.flag Reg.pmuBatstat 0 = s.flag Reg.pmuBatstat 0 := by
  have honly : OnlyRegs s (((s.showVbat mv).setFlag Reg.pmuBatstat 1 true).raise 13) [Reg.pmuBatstat] :=
    (((OnlyRegs.refl s _).setFld (by simp) _ _ _).setFlag (by simp) _ _).raise 13
  have hmode : ((s.showVbat mv).setFlag Reg.pmuBatstat 1 true).mode = s.mode :=
    (State.mode_setReg (by decide) _).trans (State.mode_setReg (by decide) _)
  have hraised : Raised s (((s.showVbat mv).setFlag Reg.pmuBatstat 1 true).raise 13) [13] :=
    Raised.single ((State.setFlag_variant _ _ _ _).trans (s.showVbat_variant mv)) hmode ((State.setFlag_plic _ _ _ _).trans (s.showVbat_plic mv)) 13
  have hbus : (((s.showVbat mv).setFlag Reg.pmuBatstat 1 true).raise 13).bus = s.bus :=
    (State.raise_bus _ _).trans ((State.setFlag_bus _ _ _ _).trans (s.showVbat_bus mv))
  refine ⟨_, rfl, hbus, honly, hraised, ?_, ?_, ?_⟩
  · exact (State.raise_fld _ _ _ _ _).trans ((State.fld_setFlag_ne _ _ 1 27 16 true (by decide) (by decide)).trans (s.showVbat_fld h))
  · exact (State.raise_flag _ _ _ _).trans (State.flag_setFlag _ _ _ _ (by decide))
  · exact (State.raise_flag _ _ _ _).trans ((State.flag_setFlag_ne _ _ 1 0 true (by decide) (by decide)).trans (s.showVbat_flag mv (by decide)))

/-- A flag that is written where a condition holds. -/
theorem State.flag_ite_setFlag (s : State) (c : Prop) [Decidable c] (r : Nat) {b : Nat} (v : Bool) (hb : b < 32) :
    (if c then s.setFlag r b v else s).flag r b = if c then v else s.flag r b := by
  split
  · exact State.flag_setFlag _ _ _ _ hb
  · rfl

theorem State.flag_ite_setFlag_ne (s : State) (c : Prop) [Decidable c] (r : Nat) {a b : Nat} (v : Bool) (ha : a < 32) (hd : b ≠ a) :
    (if c then s.setFlag r a v else s).flag r b = s.flag r b := by
  split
  · exact State.flag_setFlag_ne _ _ _ _ v ha hd
  · rfl

theorem State.fld_ite_setFlag_ne (s : State) (c : Prop) [Decidable c] (r : Nat) {a x y : Nat} (v : Bool) (ha : a < 32) (hd : x < a ∨ a < y) :
    (if c then s.setFlag r a v else s).fld r x y = s.fld r x y := by
  split
  · exact State.fld_setFlag_ne _ _ _ _ _ v ha hd
  · rfl

theorem vbatRecovered_shows (s : State) {mv : Nat} (h : mv < 4096) : Alters (.vbatRecovered mv) s [Reg.pmuBatstat] [] fun t =>
    t.fld Reg.pmuBatstat 27 16 = mv ∧ t.flag Reg.pmuBatstat 0 = (decide (1550 ≤ mv) || s.flag Reg.pmuBatstat 0) ∧
      t.flag Reg.pmuBatstat 1 = (s.flag Reg.pmuBatstat 1 && !decide (2300 < mv)) := by
  obtain ⟨u, hu⟩ : ∃ u, (if 1550 ≤ mv then (s.showVbat mv).setFlag Reg.pmuBatstat 0 true else s.showVbat mv) = u := ⟨_, rfl⟩
  have e : exec (.vbatRecovered mv) s = .next (if 2300 < mv then u.setFlag Reg.pmuBatstat 1 false else u) := hu ▸ rfl
  have hshow : OnlyRegs s (s.showVbat mv) [Reg.pmuBatstat] := (OnlyRegs.refl s _).setFld (by simp) _ _ _
  have honly : OnlyRegs s u [Reg.pmuBatstat] := hu ▸ (hshow.setFlag (by simp) _ _).ite hshow
  have hrest : u.bus = s.bus ∧ u.plic = s.plic := by
    rw [← hu]
    split
    · exact ⟨(State.setFlag_bus _ _ _ _).trans (s.showVbat_bus mv), (State.setFlag_plic _ _ _ _).trans (s.showVbat_plic mv)⟩
    · exact ⟨s.showVbat_bus mv, s.showVbat_plic mv⟩
  obtain ⟨hbus, hplic⟩ := hrest
  have hfld : u.fld Reg.pmuBatstat 27 16 = mv :=
    hu ▸ (State.fld_ite_setFlag_ne _ _ _ true (by decide) (by decide)).trans (s.showVbat_fld h)
  have h0 : u.flag Reg.pmuBatstat 0 = (decide (1550 ≤ mv) || s.flag Reg.pmuBatstat 0) := by
    rw [← hu, State.flag_ite_setFlag _ _ _ true (by decide), s.showVbat_flag mv (by decide)]
    split
    next hgood => rw [decide_eq_true hgood, Bool.true_or]
    next hbad => rw [decide_eq_false hbad, Bool.false_or]
  have h1 : u.flag Reg.pmuBatstat 1 = s.flag Reg.pmuBatstat 1 :=
    hu ▸ (State.flag_ite_setFlag_ne _ _ _ true (by decide) (by decide)).trans (s.showVbat_flag mv (by decide))
  have hsame : ∀ c : Prop, [Decidable c] → (if c then u.setFlag Reg.pmuBatstat 1 false else u).bus = s.bus ∧
      (if c then u.setFlag Reg.pmuBatstat 1 false else u).plic = s.plic := by
    intro c _
    split <;> exact ⟨hbus, hplic⟩
  refine ⟨_, e, (hsame _).1, (honly.setFlag (by simp) _ _).ite honly, (hsame _).2, ?_, ?_, ?_⟩
  · rw [State.fld_ite_setFlag_ne _ _ _ false (by decide) (by decide), hfld]
  · rw [State.flag_ite_setFlag_ne _ _ _ false (by decide) (by decide), h0]
  · rw [State.flag_ite_setFlag _ _ _ false (by decide), h1]
    split
    next hhigh => rw [decide_eq_true hhigh, Bool.not_true, Bool.and_false]
    next hlow => rw [decide_eq_false hlow, Bool.not_false, Bool.and_true]

theorem exec_batteryLost (s : State) : exec .batteryLost s = .next
    (if s.pwr.onBattery then (s.setFlag Reg.pmuBatstat 0 false).loseBattery else s.setFlag Reg.pmuBatstat 0 false) := rfl

theorem batteryLost_loses (s : State) : Completes .batteryLost s fun t =>
    OnlyRegs { s with pwr := t.pwr, freeCounter := t.freeCounter } t [Reg.pmuBatstat] ∧ t.flag Reg.pmuBatstat 0 = false ∧
      (∀ b, b ≠ 0 → t.flag Reg.pmuBatstat b = s.flag Reg.pmuBatstat b) ∧ (s.pwr.onBattery = false → t.pwr = s.pwr) ∧
      (s.pwr.onBattery = true → t.pwr = { s.pwr with
        bkLow := Config.freeWord s.freeCounter
        bkHigh := Config.freeWord (s.freeCounter + 1)
        bmLow := Config.freeWord (s.freeCounter + 2)
        bmHigh := Config.freeWord (s.freeCounter + 3) }) := by
  have honly : OnlyRegs s (s.setFlag Reg.pmuBatstat 0 false) [Reg.pmuBatstat] := (OnlyRegs.refl s _).setFlag (by simp) 0 false
  have hset : (s.setFlag Reg.pmuBatstat 0 false).flag Reg.pmuBatstat 0 = false := State.flag_setFlag _ _ _ _ (by decide)
  have hother : ∀ b, b ≠ 0 → (s.setFlag Reg.pmuBatstat 0 false).flag Reg.pmuBatstat b = s.flag Reg.pmuBatstat b := fun b hb =>
    State.flag_setFlag_ne _ _ _ _ false (by decide) hb
  have e := exec_batteryLost s
  cases hb : s.pwr.onBattery with
  | false =>
    rw [hb, if_neg (by decide)] at e
    exact ⟨_, e, honly, hset, hother, fun _ => rfl, fun h => absurd h (by decide)⟩
  | true =>
    rw [hb, if_pos rfl] at e
    exact ⟨_, e, ⟨rfl, honly.2⟩, hset, hother, fun h => absurd h (by decide), fun _ => rfl⟩

/-- Settles O9: each monitor's command is one write of its register, and a lost battery takes four free values. -/
theorem supplyMonitorsActAndABatteryLossLosesTheDomains : Obligations.SupplyMonitorsActAndABatteryLossLosesTheDomains := by
  refine ⟨fun s => ⟨vcoreRampStep_moves s, State.vcoreGoal_boot, fun k => ?_, phaseShed_sheds s, vanaClassChange_marks s,
    fun r => railRecovered_shows, fun mv => batLow_shows s, fun mv => vbatRecovered_shows s⟩, batteryLost_loses⟩
  split
  next h => exact phaseFault_disables h
  next h => exact if_neg h

end Sys2Proof.Machine
end

section
/-! The reset state (R91, R93, R96). -/
namespace Sys2Proof.Machine

/-- Settles O3: memory is empty, the register file is built by writes alone, and SYS.MODE holds its reset value. -/
theorem resetIsSound : Obligations.ResetIsSound :=
  ⟨(State.canonical_iff _).2 ⟨rfl, tabOf_wf _⟩, by decide, rfl⟩

end Sys2Proof.Machine
end

section
/-! Resets and the fall of VAON (R83, R91 to R94, R105): what the part keeps, and then what each command makes of it. -/
namespace Sys2Proof.Machine

variable {s t u o : State} {w : Who} {v : Word}

/-! ### Torn writes (R81, R653) -/

theorem cellsFind_filter {α : Type} (p : Nat → Bool) (k : Nat) (m : List (Nat × α)) :
    cellsFind k (m.filter fun c => p c.1) = if p k then cellsFind k m else none := by
  induction m with
  | nil => simp [cellsFind]
  | cons c r ih =>
    obtain ⟨j, x⟩ := c
    by_cases hj : j = k
    · subst hj
      cases hp : p j <;> simp [hp, cellsFind, ih]
    · cases hp : p j <;> simp [hp, cellsFind, ih, hj]

/-- The part with the writes that a reset cuts short. -/
def State.torn (s : State) : State := s.tearWrite.tearRecord

theorem State.tearWrite_only (s : State) : s.tearWrite = { s with mem := s.tearWrite.mem, poison := s.tearWrite.poison } := by
  unfold State.tearWrite
  split <;> rfl

theorem State.tearRecord_only (s : State) :
    s.tearRecord = { s with key := { s.key with copies := s.tearRecord.key.copies }, freeCounter := s.tearRecord.freeCounter } := by
  unfold State.tearRecord
  split
  · split
    · dsimp only
      split <;> rfl
    · rfl
  · rfl

theorem State.torn_only (s : State) : s.torn = { s with
    mem := s.tearWrite.mem, poison := s.tearWrite.poison, key := { s.key with copies := s.torn.key.copies }, freeCounter := s.torn.freeCounter } := by
  have h := s.tearWrite.tearRecord_only
  rw [← State.torn] at h
  generalize s.torn.key.copies = c, s.torn.freeCounter = n at h ⊢
  rw [h]
  generalize e : s.tearWrite = u at *
  rw [← e, s.tearWrite_only]

theorem State.tearWrite_byte {a : Nat} (h : ∀ x, s.met.writing = some x → a < x.1 ∨ x.1 + x.2.1.length ≤ a) : s.tearWrite.byte a = s.byte a := by
  unfold State.tearWrite
  split
  next at_ old _ _ hw =>
    have := h _ hw
    refine State.byte_poke_outside _ _ _ _ ?_
    rw [List.length_drop]
    simp only at this
    omega
  · rfl

theorem State.tearRecord_copies {c : Nat} (h : ∀ x, s.key.writing = some x → x.1 ≠ c) : s.tearRecord.key.copies.get c = s.key.copies.get c := by
  unfold State.tearRecord
  split
  next hw =>
    split
    · dsimp only
      split
      · exact Tab.get_set_ne _ _ _ _ (Ne.symm (h _ hw))
      · rfl
    · rfl
  · rfl

theorem State.torn_copies {c : Nat} (h : ∀ x, s.key.writing = some x → x.1 ≠ c) : s.torn.key.copies.get c = s.key.copies.get c := by
  have hkey : s.tearWrite.key = s.key := (congrArg State.key s.tearWrite_only :)
  exact (State.tearRecord_copies (by rwa [hkey])).trans (by rw [hkey])

theorem State.torn_freeCounter_le (s : State) : s.freeCounter ≤ s.torn.freeCounter :=
  (State.tearRecord_keeps (State.tearWrite_keeps (Keeps.refl s))).freeCounter

/-! ### What is kept (R93) -/

theorem State.kept_byte (s : State) (a : Nat) :
    s.kept.byte a = if inMram a then s.tearWrite.byte a else Memory.unlisted (s.ddrGen + 1) a := by
  have hmem : s.torn.mem = s.tearWrite.mem := (congrArg State.mem s.torn_only :)
  have hgen : s.torn.ddrGen = s.ddrGen := (congrArg State.ddrGen s.torn_only :)
  have hgen' : s.tearWrite.ddrGen = s.ddrGen := (congrArg State.ddrGen s.tearWrite_only :)
  have e : s.kept.byte a = (cellsFind a (s.torn.mem.filter fun c => inMram c.1)).getD (Memory.unlisted (s.torn.ddrGen + 1) a) := rfl
  rw [e, hmem, hgen, cellsFind_filter]
  split
  next h =>
    obtain ⟨hlo, hhi⟩ : Addr.mram ≤ a ∧ a < Addr.mram + 0x1000000 := by simpa [inMram] using h
    have hrom : ¬ a < 0x40000 := by unfold Addr.mram at hlo; omega
    have hddr : a < Addr.ddr := by unfold Addr.mram at hhi; unfold Addr.ddr; omega
    rw [State.byte, Memory.read, hgen', Memory.unlisted, Memory.unlisted, if_neg hrom, if_neg hrom, if_pos hddr, if_pos hddr]
  · rfl

theorem State.kept_domains (s : State) : DomainsKept s s.kept := by
  have hrtc : s.torn.rtc = s.rtc := (congrArg State.rtc s.torn_only :)
  have hmet : s.torn.met = s.met := (congrArg State.met s.torn_only :)
  have henrolled : s.torn.key.enrolled = s.key.enrolled := (congrArg (·.key.enrolled) s.torn_only :)
  have hpending : s.torn.pending = s.pending := (congrArg State.pending s.torn_only :)
  refine ⟨fun a hlo hhi hw => ?_, fun a hlo hhi => ?_, fun a ha => ?_, (congrArg RtcState.valid hrtc :), (congrArg RtcState.cellSec hrtc :),
    (congrArg RtcState.cellTick hrtc :), (congrArg RtcState.trim hrtc :), (congrArg MetState.bm hmet :), henrolled,
    fun c hc => State.torn_copies hc, hpending⟩
  · rw [s.kept_byte, if_pos (by simp [inMram, hlo, hhi]), State.tearWrite_byte hw]
  · have hout : inMram a ≠ true := by simp [inMram, hhi]
    have hrom : ¬ a < 0x40000 := by unfold Addr.stock at hlo; omega
    have hddr : a < Addr.ddr := by unfold Addr.mram at hhi; unfold Addr.ddr; omega
    rw [s.kept_byte, if_neg hout, Memory.unlisted, if_neg hrom, if_pos hddr]
  · have hfar : 0x1000000000 ≤ a := ha
    have hout : inMram a ≠ true := by
      have : ¬ a < Addr.mram + 0x1000000 := by unfold Addr.mram; omega
      simp [inMram, this]
    rw [s.kept_byte, if_neg hout, Memory.unlisted, if_neg (by omega), if_neg (by unfold Addr.ddr; omega)]

/-- The power state that is kept: the words of the domains, and what they draw from. -/
theorem State.kept_pwr (s : State) : s.kept.pwr.bkLow = s.pwr.bkLow ∧ s.kept.pwr.bkHigh = s.pwr.bkHigh ∧ s.kept.pwr.bmLow = s.pwr.bmLow ∧
    s.kept.pwr.bmHigh = s.pwr.bmHigh := by
  have hpwr : s.torn.pwr = s.pwr := (congrArg State.pwr s.torn_only :)
  exact ⟨(congrArg PowerState.bkLow hpwr :), (congrArg PowerState.bkHigh hpwr :), (congrArg PowerState.bmLow hpwr :), (congrArg PowerState.bmHigh hpwr :)⟩

theorem State.kept_reg (s : State) {q : Nat} (h : q ≠ Reg.pmuRails ∧ q ≠ Reg.rtcTrim ∧ q ≠ Reg.pmuBatstat) :
    s.kept.reg q = (State.powerUp s.variant).reg q := by
  obtain ⟨h1, h2, h3⟩ := h
  have hv : s.torn.variant = s.variant := (congrArg State.variant s.torn_only :)
  exact ((Tab.get_set_ne _ _ _ _ h3).trans ((Tab.get_set_ne _ _ _ _ h2).trans (Tab.get_set_ne _ _ _ _ h1))).trans
    (congrArg (fun v => (State.powerUp v).reg q) hv)

theorem State.kept_claim (s : State) : s.kept.claim = 0 := by
  rw [State.claim, State.num, s.kept_reg (by decide)]
  cases s.variant <;> decide

theorem State.kept_batteryGood (s : State) : s.kept.flag Reg.pmuBatstat 0 = s.flag Reg.pmuBatstat 0 := by
  have hreg : s.torn.reg Reg.pmuBatstat = s.reg Reg.pmuBatstat := (congrArg (fun t => t.reg Reg.pmuBatstat) s.torn_only :)
  have e : s.kept.reg Reg.pmuBatstat =
      BitVec.ofNat 32 (s.torn.num Reg.pmuBatstat % 2 ^ 28 / 2 ^ 16 * 2 ^ 16 + s.torn.num Reg.pmuBatstat % 4) := Tab.get_set_eq _ _ _
  rw [State.flag, State.flag, e, State.num, hreg]
  generalize (s.reg Reg.pmuBatstat).toNat = n
  have hlow : (BitVec.ofNat 32 (n % 2 ^ 28 / 2 ^ 16 * 2 ^ 16 + n % 4)).toNat % 2 = n % 2 := by
    rw [BitVec.toNat_ofNat]
    omega
  simp only [bit, pow_zero, Nat.div_one, hlow]

/-! ### The reset (R91) -/

/-- What a reset with this cause makes of `s`. -/
def ResetOf (cause : Nat) (s t : State) : Prop :=
  t.mode = Mode.mount ∧ t.flag Reg.sysRstcause cause = true ∧
    (∀ b, b < 8 → b ≠ cause → cause ≠ 0 → t.flag Reg.sysRstcause b = s.flag Reg.sysRstcause b) ∧ DomainsKept s t ∧
    t.pwr.bkLow = s.pwr.bkLow ∧ t.pwr.bkHigh = s.pwr.bkHigh ∧ t.pwr.bmLow = s.pwr.bmLow ∧ t.pwr.bmHigh = s.pwr.bmHigh

theorem DomainsKept.setReg (h : DomainsKept s t) (r : Nat) (x : Word) : DomainsKept s (t.setReg r x) := h
theorem ResetOf.replyOk {cause : Nat} (h : ResetOf cause s t) : ResetOf cause s t.replyOk := h

theorem ResetOf.raise {cause : Nat} (h : ResetOf cause s t) (n : Nat) : ResetOf cause s (t.raise n) := by
  rw [State.raise_only]
  generalize (t.raise n).plic = p
  exact h

/-- The causes that SYS.RSTCAUSE shows after a reset. -/
def State.causesAfter (s : State) (cause : Nat) : Nat := if cause = Cause.por then 1 else setBit (s.fld Reg.sysRstcause 7 0) cause

/-- The mode that PREV shows after a reset. -/
def State.prevMode (s : State) : Nat := if s.mode = Mode.mount then s.fld Reg.sysMode 7 4 else s.mode

/-- What a reset shows in the registers of SYS. -/
def State.showReset (s r : State) (cause : Nat) (injected : Bool) : State :=
  ((r.setNum Reg.sysRstcause (s.causesAfter cause)).setFld Reg.sysBoot 23 16 (s.chipStreak cause injected)).setNum Reg.sysMode
    (s.prevMode * 16 + Mode.mount)

theorem State.resetPart_eq (s : State) (cause : Nat) (injected : Bool) : s.resetPart cause injected =
    if s.mode = Mode.mount then s.showReset s.kept cause injected else (s.showReset s.kept cause injected).raise 15 := rfl

theorem State.prevMode_lt (s : State) : s.prevMode < 16 := by
  unfold State.prevMode
  split
  · exact Nat.mod_lt _ (by decide)
  · exact s.mode_lt

theorem bit_fld_low (s : State) (r : Nat) {b : Nat} (hb : b < 8) : bit (s.fld r 7 0) b = s.flag r b := by
  have : s.fld r 7 0 = (s.reg r).toNat % 2 ^ 8 := by simp [State.fld, field]
  rw [this, State.flag, bit_eq_testBit, bit_eq_testBit, Nat.testBit_mod_two_pow]
  simp [hb]

theorem State.causesAfter_lt (s : State) {cause : Nat} (h : cause < 8) : s.causesAfter cause < 2 ^ 32 := by
  have hlt : s.fld Reg.sysRstcause 7 0 < 256 := Nat.mod_lt _ (by decide)
  have hpow : 2 ^ cause ≤ 2 ^ 7 := Nat.pow_le_pow_right (by decide) (by omega)
  unfold State.causesAfter setBit
  split_ifs <;> omega

theorem State.showReset_mode (s r : State) (cause : Nat) (injected : Bool) : (s.showReset r cause injected).mode = Mode.mount := by
  have hlt := s.prevMode_lt
  have hnum : ((s.showReset r cause injected).reg Reg.sysMode).toNat = s.prevMode * 16 + Mode.mount :=
    State.num_setNum _ _ _ (by unfold Mode.mount; omega)
  rw [State.mode, State.fld, field, hnum]
  unfold Mode.mount
  omega

theorem State.showReset_causes (s r : State) {cause : Nat} (injected : Bool) (hc : cause < 8) (b : Nat) :
    (s.showReset r cause injected).flag Reg.sysRstcause b = bit (s.causesAfter cause) b :=
  (State.flag_setReg_ne _ _ b (by decide)).trans ((State.flag_setReg_ne _ _ b (by decide)).trans
    (congrArg (bit · b) (State.num_setNum _ _ _ (s.causesAfter_lt hc))))

theorem State.showReset_claim (s : State) (cause : Nat) (injected : Bool) : (s.showReset s.kept cause injected).claim = 0 :=
  (State.num_setReg_ne _ _ (by decide)).trans ((State.num_setReg_ne _ _ (by decide)).trans ((State.num_setReg_ne _ _ (by decide)).trans s.kept_claim))

/-- A reset keeps the domains and records its cause beside those before. -/
theorem State.resetPart_resets (s : State) {cause : Nat} (injected : Bool) (hc : cause < 8) : ResetOf cause s (s.resetPart cause injected) := by
  have hset : bit (s.causesAfter cause) cause = true := by
    unfold State.causesAfter
    split
    next h => rw [h]; decide
    · rw [bit_setBit]; simp
  have hother (b : Nat) (hb : b < 8) (hne : b ≠ cause) (h0 : cause ≠ 0) : bit (s.causesAfter cause) b = s.flag Reg.sysRstcause b := by
    rw [State.causesAfter, if_neg (show cause ≠ Cause.por from h0), bit_setBit, bit_fld_low s _ hb]
    simp [hne]
  have hshow : ResetOf cause s (s.showReset s.kept cause injected) :=
    ⟨s.showReset_mode _ _ _, (s.showReset_causes _ _ hc _).trans hset, fun b hb hne h0 => (s.showReset_causes _ _ hc b).trans (hother b hb hne h0),
      ((s.kept_domains.setReg _ _).setReg _ _).setReg _ _, s.kept_pwr⟩
  rw [s.resetPart_eq]
  split
  · exact hshow
  · exact hshow.raise 15

/-- A reset shows its registers whether or not it raises its source. -/
theorem State.resetPart_reg (s : State) (cause : Nat) (injected : Bool) (q : Nat) :
    (s.resetPart cause injected).reg q = (s.showReset s.kept cause injected).reg q := by
  rw [s.resetPart_eq]
  split
  · rfl
  · exact State.raise_reg _ _ _

theorem causes_of_por : ∀ b < 8, b ≠ Cause.por → bit 1 b = false := by decide

theorem State.resetPart_por_causes (s : State) (injected : Bool) {b : Nat} (h : b ≠ Cause.por) (hb : b < 8) :
    (s.resetPart Cause.por injected).flag Reg.sysRstcause b = false := by
  rw [State.flag, s.resetPart_reg]
  exact (s.showReset_causes _ injected (by decide) b).trans (causes_of_por b hb h)

theorem State.resetPart_claim (s : State) (cause : Nat) (injected : Bool) : (s.resetPart cause injected).claim = 0 := by
  rw [State.claim, State.num, s.resetPart_reg]
  exact s.showReset_claim _ _

/-! ### The commands that reset -/

theorem powerOnReset_resets (h : s.awake = false) : Resets .powerOnReset s s Cause.por ∧
    Completes .powerOnReset s fun t => t.pwr.onBattery = false ∧ ∀ b, b < 8 → b ≠ Cause.por → t.flag Reg.sysRstcause b = false := by
  have e : exec .powerOnReset s = .next { s.resetPart Cause.por false with pwr := { (s.resetPart Cause.por false).pwr with onBattery := false } } := by
    show execPowerOnReset s = _
    rw [execPowerOnReset, if_neg (by rw [h]; decide)]
  have hr := s.resetPart_resets (cause := Cause.por) false (by decide)
  have hcauses := fun b hb hne => s.resetPart_por_causes (b := b) false hne hb
  generalize s.resetPart Cause.por false = r at e hr hcauses
  exact ⟨⟨_, e, hr⟩, _, e, rfl, hcauses⟩

theorem resetPin_resets {ns : Nat} (ha : s.awake = true) (h : 1000 ≤ ns) : Resets (.resetPin ns) s s Cause.pin := by
  have e : exec (.resetPin ns) s = .next (s.resetPart Cause.pin false) := by
    show execResetPin ns s = _
    simp [execResetPin, ha, h]
  exact ⟨_, e, s.resetPart_resets false (by decide)⟩

theorem resetPin_idles {ns : Nat} (h : ns < 200) : Idles (.resetPin ns) s := by
  show execResetPin ns s = _
  rw [execResetPin, if_neg]
  have h1 : ¬ 1000 ≤ ns := by omega
  have h2 : ¬ 200 ≤ ns := by omega
  simp [h1, h2]

theorem State.resetAfterYield_noClaim (ha : s.awake = true) (h : s.claim = 0) (cause : Nat) (injected : Bool) :
    s.resetAfterYield cause injected = s.resetPart cause injected := by
  rw [State.resetAfterYield, if_neg (by rw [ha]; decide), if_pos (.inl h)]

/-- A reset after a yield: the part yields where it is active, and resets. -/
theorem State.resetAfterYield_shows (ha : s.awake = true) {cause : Nat} (injected : Bool) (hc : cause < 8) :
    (s.resetAfterYield cause injected).mode = Mode.mount ∧ (s.resetAfterYield cause injected).flag Reg.sysRstcause cause = true ∧
      (s.resetAfterYield cause injected).claim = 0 ∧
      (Cause.wdtWarden ≤ cause → s.yieldClaim.outbox <+: (s.resetAfterYield cause injected).outbox) := by
  have hresets (u : State) : (u.resetPart cause injected).mode = Mode.mount ∧ (u.resetPart cause injected).flag Reg.sysRstcause cause = true ∧
      (u.resetPart cause injected).claim = 0 :=
    ⟨(u.resetPart_resets injected hc).1, (u.resetPart_resets injected hc).2.1, u.resetPart_claim _ _⟩
  rw [State.resetAfterYield, if_neg (by rw [ha]; decide)]
  split
  next h =>
    obtain ⟨h1, h2, h3⟩ := hresets s
    refine ⟨h1, h2, h3, fun hw => ?_⟩
    have hy : s.yieldClaim = s := if_pos (h.resolve_right (by omega))
    rw [hy]
    exact (State.resetPart_keeps (Keeps.refl s)).outbox
  · obtain ⟨h1, h2, h3⟩ := hresets (s.yieldClaim.elapse 250)
    exact ⟨h1, h2, h3, fun _ => (State.resetPart_keeps (State.elapse_keeps (Keeps.refl s.yieldClaim))).outbox⟩

theorem exec_softReset (h : o.admits w Reg.sysReset v s) : exec (.softReset w v) o = .next (s.resetAfterYield Cause.soft false).replyOk :=
  congrArg Host.Outcome.next (State.gated_ok o w Reg.sysReset v _ s h)

theorem softReset_resets (h : o.admits w Reg.sysReset v s) (hc : s.claim = 0) :
    Resets (.softReset w v) o s Cause.soft ∧ Completes (.softReset w v) o Acked := by
  have e := exec_softReset h
  rw [State.resetAfterYield_noClaim (State.admits_awake h) hc] at e
  have hr := s.resetPart_resets (cause := Cause.soft) false (by decide)
  generalize s.resetPart Cause.soft false = r at e hr
  exact ⟨⟨_, e, hr.replyOk⟩, _, e, rfl⟩

theorem softReset_yields (h : o.admits w Reg.sysReset v s) : Completes (.softReset w v) o fun t => Acked t ∧ t.mode = Mode.mount ∧
    t.flag Reg.sysRstcause Cause.soft = true ∧ t.claim = 0 ∧ s.yieldClaim.outbox <+: t.outbox := by
  have e := exec_softReset h
  obtain ⟨hmode, hcause, hclaim, hout⟩ := State.resetAfterYield_shows (State.admits_awake h) (cause := Cause.soft) false (by decide)
  have hout := hout (by decide)
  generalize s.resetAfterYield Cause.soft false = r at e hmode hcause hclaim hout
  exact ⟨_, e, rfl, hmode, hcause, hclaim, hout⟩

theorem delayedSoftReset_resets (ha : s.awake = true) (hd : s.chip.delayedReset = true) :
    let u := s.elapse (s.ticksUntil (s.chip.delayedFrom + 1000000 * 2 ^ 32))
    u.claim = 0 → Resets .delayedSoftReset s u Cause.soft := by
  intro u hc
  have hmode : u.mode = s.mode := ((Steady.refl (M := True) s).elapse _).mode
  have hawake : u.awake = true := by rw [State.awake, hmode]; exact ha
  have e : exec .delayedSoftReset s = .next (u.resetAfterYield Cause.soft false) := by
    show execDelayedSoftReset s = _
    rw [execDelayedSoftReset, if_pos hd]
  rw [State.resetAfterYield_noClaim hawake hc] at e
  exact ⟨_, e, u.resetPart_resets false (by decide)⟩

/-! ### The fall of VAON (R83, R105) -/

/-- The note that VAON fell, on battery from then on. -/
def State.noteFall (r s : State) : State :=
  { r with met := { r.met with fell := some s.rtc.cellSec }, pwr := { r.pwr with onBattery := true } }

/-- What SYS and PMU show of a part in VIGIL. -/
def State.showVigil (r s : State) : State :=
  ((r.setNum Reg.sysMode (s.mode * 16)).setNum Reg.sysRstcause (s.fld Reg.sysRstcause 7 0)).setNum Reg.pmuBatctl (s.num Reg.pmuBatctl)

/-- Of the configuration only the METRO section stands. -/
def State.keepMetro (r s : State) : State :=
  { r with blk := { r.blk with running := s.blk.running.filter fun x => x.type == Ty.metro } }

/-- The part in VIGIL. -/
def State.fallen (s : State) : State := ((s.kept.noteFall s).showVigil s).keepMetro s

theorem exec_vaonFall (h : s.awake = true) : exec .vaonFall s =
    .next (if s.fallen.flag Reg.pmuBatstat 0 then s.fallen else s.fallen.loseBattery) := by
  show execVaonFall s = _
  rw [execVaonFall, if_neg (by rw [h]; decide)]
  rfl

theorem DomainsKept.noteFall (h : DomainsKept s t) (u : State) : DomainsKept s (t.noteFall u) := h

/-- The part in VIGIL but for the words of its battery domains. -/
def FallOf (s t : State) : Prop :=
  t.mode = Mode.vigil ∧ t.fld Reg.sysMode 7 4 = s.mode ∧ t.pwr.onBattery = true ∧ t.met.fell = some s.rtc.cellSec ∧
    t.reg Reg.pmuBatctl = s.reg Reg.pmuBatctl ∧ (∀ b, b < 8 → t.flag Reg.sysRstcause b = s.flag Reg.sysRstcause b) ∧ DomainsKept s t

theorem FallOf.loseBattery (h : FallOf s t) : FallOf s t.loseBattery := h

theorem State.showVigil_shows (r s : State) : (r.showVigil s).mode = Mode.vigil ∧ (r.showVigil s).fld Reg.sysMode 7 4 = s.mode ∧
    (r.showVigil s).reg Reg.pmuBatctl = s.reg Reg.pmuBatctl ∧ ∀ b, b < 8 → (r.showVigil s).flag Reg.sysRstcause b = s.flag Reg.sysRstcause b := by
  have hlt := s.mode_lt
  have hcauses : s.fld Reg.sysRstcause 7 0 < 2 ^ 32 := Nat.lt_trans (Nat.mod_lt _ (by decide)) (by decide : 2 ^ (7 + 1 - 0) < 2 ^ 32)
  have hnum : (r.showVigil s).num Reg.sysMode = s.mode * 16 :=
    (State.num_setReg_ne _ _ (by decide)).trans ((State.num_setReg_ne _ _ (by decide)).trans (State.num_setNum _ _ _ (by omega)))
  refine ⟨?_, ?_, ?_, fun b hb => ?_⟩
  · have e : (r.showVigil s).mode = (r.showVigil s).num Reg.sysMode / 2 ^ 0 % 2 ^ 4 := rfl
    rw [e, hnum, Mode.vigil]
    omega
  · have e : (r.showVigil s).fld Reg.sysMode 7 4 = (r.showVigil s).num Reg.sysMode / 2 ^ 4 % 2 ^ 4 := rfl
    rw [e, hnum]
    omega
  · exact (State.reg_setReg_same _ _ _).trans (BitVec.ofNat_toNat 32 _ |>.trans (BitVec.setWidth_eq _))
  · exact (State.flag_setReg_ne _ _ b (by decide)).trans
      ((congrArg (bit · b) (State.num_setNum _ _ _ hcauses)).trans (bit_fld_low s _ hb))

theorem State.showVigil_pwr (r s : State) : (r.showVigil s).pwr = r.pwr :=
  (State.setReg_pwr _ _ _).trans ((State.setReg_pwr _ _ _).trans (State.setReg_pwr _ _ _))
theorem State.showVigil_met (r s : State) : (r.showVigil s).met = r.met :=
  (State.setReg_met _ _ _).trans ((State.setReg_met _ _ _).trans (State.setReg_met _ _ _))
theorem State.showVigil_freeCounter (r s : State) : (r.showVigil s).freeCounter = r.freeCounter :=
  (State.setReg_freeCounter _ _ _).trans ((State.setReg_freeCounter _ _ _).trans (State.setReg_freeCounter _ _ _))
theorem State.showVigil_batteryGood (r s : State) : (r.showVigil s).flag Reg.pmuBatstat 0 = r.flag Reg.pmuBatstat 0 :=
  (State.flag_setReg_ne _ _ 0 (by decide)).trans ((State.flag_setReg_ne _ _ 0 (by decide)).trans (State.flag_setReg_ne _ _ 0 (by decide)))

theorem State.noteFall_batteryGood (r s : State) : (r.noteFall s).flag Reg.pmuBatstat 0 = r.flag Reg.pmuBatstat 0 := rfl
theorem State.keepMetro_batteryGood (r s : State) : (r.keepMetro s).flag Reg.pmuBatstat 0 = r.flag Reg.pmuBatstat 0 := rfl
theorem State.keepMetro_pwr (r s : State) : (r.keepMetro s).pwr = r.pwr := rfl
theorem State.keepMetro_freeCounter (r s : State) : (r.keepMetro s).freeCounter = r.freeCounter := rfl

/-- The words of the battery domains stand in VIGIL. -/
theorem State.noteFall_words (r s : State) : (r.noteFall s).pwr.bkLow = r.pwr.bkLow ∧ (r.noteFall s).pwr.bkHigh = r.pwr.bkHigh ∧
    (r.noteFall s).pwr.bmLow = r.pwr.bmLow ∧ (r.noteFall s).pwr.bmHigh = r.pwr.bmHigh := ⟨rfl, rfl, rfl, rfl⟩

theorem FallOf.keepMetro (h : FallOf s t) : FallOf s (t.keepMetro s) := h

theorem State.fallen_falls (s : State) : FallOf s s.fallen := by
  obtain ⟨hmode, hprev, hctl, hcauses⟩ := (s.kept.noteFall s).showVigil_shows s
  have hbattery : (s.kept.noteFall s).pwr.onBattery = true := rfl
  have hfell : (s.kept.noteFall s).met.fell = some s.rtc.cellSec := rfl
  have hkept : DomainsKept s (s.kept.noteFall s) := s.kept_domains.noteFall s
  rw [State.fallen]
  generalize s.kept.noteFall s = r at hmode hprev hctl hcauses hbattery hfell hkept
  refine FallOf.keepMetro ⟨hmode, hprev, ?_, ?_, hctl, hcauses, ((hkept.setReg _ _).setReg _ _).setReg _ _⟩
  · rw [State.showVigil_pwr, hbattery]
  · rw [State.showVigil_met, hfell]

theorem State.fallen_batteryGood (s : State) : s.fallen.flag Reg.pmuBatstat 0 = s.flag Reg.pmuBatstat 0 := by
  rw [State.fallen, State.keepMetro_batteryGood, State.showVigil_batteryGood, State.noteFall_batteryGood, State.kept_batteryGood]

theorem State.fallen_pwr (s : State) : s.fallen.pwr = (s.kept.noteFall s).pwr := by
  rw [State.fallen, State.keepMetro_pwr, State.showVigil_pwr]

theorem State.fallen_freeCounter (s : State) : s.fallen.freeCounter = (s.kept.noteFall s).freeCounter := by
  rw [State.fallen, State.keepMetro_freeCounter, State.showVigil_freeCounter]

theorem State.loseBattery_words (s : State) : s.loseBattery.pwr.bkLow = Config.freeWord s.freeCounter ∧
    s.loseBattery.pwr.bkHigh = Config.freeWord (s.freeCounter + 1) ∧ s.loseBattery.pwr.bmLow = Config.freeWord (s.freeCounter + 2) ∧
    s.loseBattery.pwr.bmHigh = Config.freeWord (s.freeCounter + 3) := ⟨rfl, rfl, rfl, rfl⟩

theorem vaonFall_idles (h : s.awake = false) : Idles .vaonFall s := by
  show execVaonFall s = _
  rw [execVaonFall, if_pos (by rw [h]; decide)]

theorem vaonFall_falls (h : s.awake = true) : Completes .vaonFall s fun t => FallOf s t ∧
    (s.flag Reg.pmuBatstat 0 = true → t.pwr.bkLow = s.pwr.bkLow ∧
      t.pwr.bkHigh = s.pwr.bkHigh ∧ t.pwr.bmLow = s.pwr.bmLow ∧ t.pwr.bmHigh = s.pwr.bmHigh) ∧
    (s.flag Reg.pmuBatstat 0 = false → ∃ n, s.freeCounter ≤ n ∧ t.pwr.bkLow = Config.freeWord n ∧
      t.pwr.bkHigh = Config.freeWord (n + 1) ∧ t.pwr.bmLow = Config.freeWord (n + 2) ∧ t.pwr.bmHigh = Config.freeWord (n + 3)) := by
  have e := exec_vaonFall h
  rw [s.fallen_batteryGood] at e
  have hfalls := s.fallen_falls
  have hwords : s.fallen.pwr.bkLow = s.pwr.bkLow ∧ s.fallen.pwr.bkHigh = s.pwr.bkHigh ∧ s.fallen.pwr.bmLow = s.pwr.bmLow ∧
      s.fallen.pwr.bmHigh = s.pwr.bmHigh := by
    obtain ⟨h1, h2, h3, h4⟩ := s.kept.noteFall_words s
    obtain ⟨k1, k2, k3, k4⟩ := s.kept_pwr
    rw [s.fallen_pwr]
    exact ⟨h1.trans k1, h2.trans k2, h3.trans k3, h4.trans k4⟩
  have hcount : s.freeCounter ≤ s.fallen.freeCounter := by
    rw [s.fallen_freeCounter]
    exact s.torn_freeCounter_le
  generalize s.fallen = r at e hfalls hwords hcount
  cases hgood : s.flag Reg.pmuBatstat 0 with
  | true =>
    rw [hgood, if_pos rfl] at e
    exact ⟨r, e, hfalls, fun _ => hwords, fun h => absurd h (by decide)⟩
  | false =>
    rw [hgood, if_neg (by decide)] at e
    exact ⟨r.loseBattery, e, hfalls.loseBattery, fun h => absurd h (by decide), fun _ => ⟨_, hcount, r.loseBattery_words⟩⟩

/-- Settles O11: every reset is `State.resetPart`, over what `State.kept` leaves, and so is the fall of VAON. -/
theorem resetsAndVaonFallKeepTheDomains : Obligations.ResetsAndVaonFallKeepTheDomains := by
  refine ⟨fun s => ⟨powerOnReset_resets, fun ns => resetPin_resets, fun ns => resetPin_idles, fun o w v => softReset_resets,
    fun o w v => softReset_yields, delayedSoftReset_resets, fun h => ?_⟩, fun s => ⟨vaonFall_idles, fun h => ?_⟩⟩
  · show execDelayedSoftReset s = _
    rw [execDelayedSoftReset, if_neg (by rw [h]; decide)]
  · obtain ⟨t, e, ⟨h1, h2, h3, h4, h5, h6, h7⟩, hgood, hlow⟩ := vaonFall_falls h
    exact ⟨t, e, h1, h2, h3, h4, h5, h6, h7, hgood, hlow⟩

end Sys2Proof.Machine
end

section
/-! What the load of a Blank leaves alone beside the configuration itself (R123 to R127), block by block, in the terms of `Calm`. -/
namespace Sys2Proof.Machine

/-- No Latch channel is watched. -/
def NoChannel (_ : Nat) : Prop := False

/-- Beyond SYS, with no Latch channel watched, the claim and the epoch are the only sheltered registers. -/
theorem not_sheltered_noChannel {r : Nat} (h : 0x60008 < r) : ¬ Sheltered NoChannel r := by
  unfold Sheltered Reg.hngClaim Reg.hngEpoch
  rintro (hs | hs | hs | ⟨c, -, hc, -⟩)
  · omega
  · omega
  · omega
  · exact hc

theorem leNat_lt (bs : List Byte) : leNat bs < 256 ^ bs.length := by
  induction bs with
  | nil => decide
  | cons b bs ih =>
    have := b.isLt
    rw [leNat, List.length_cons, Nat.pow_succ]
    omega

theorem u8_lt (bs : List Byte) (o : Nat) : u8 bs o < 256 := by
  have hlen : (slice bs o 1).length = 1 := by
    have : ((bs.drop o).take 1).length ≤ 1 := List.length_take_le _ _
    unfold slice
    rw [List.length_append, List.length_replicate]
    omega
  have := leNat_lt (slice bs o 1)
  rwa [hlen] at this

namespace Calm
variable {K : Nat → Prop} {z s : State}

/-! ### Keep (03, 05, 12, 17) -/

theorem putSlot (h : Calm K z s) {n : Nat} (hn : n < 256) (k : KeySlot) : Calm K z (s.putSlot n k) :=
  setNum h.same _ (not_sheltered (.inr (.inl (by unfold Reg.keySlot; omega))))

theorem deriveKeypol (h : Calm K z s) (body : List Byte) : Calm K z (s.deriveKeypol body) :=
  h.foldl fun _ _ _ hu => hu.putSlot (u8_lt _ _) _

theorem loadGenerations (h : Calm K z s) (image digest : List Byte) : Calm K z (s.loadGenerations image digest) := by
  have hgen : ¬ Sheltered K Reg.blkGen := not_sheltered (by decide)
  refine ((h.setNum _ hgen).foldl fun u r hr hu => hu.setNum _ ?_).foldl fun u n hn hu => hu.setNum _ ?_
  · exact not_sheltered (.inr (.inl (by have := List.mem_range.1 hr; unfold Reg.blkRgen0; omega)))
  · exact not_sheltered (.inr (.inl (by have := List.mem_range.1 hn; unfold Reg.blkDigest; omega)))

theorem loadDomain (h : Calm K z s) : Calm K z s.loadDomain := by
  have hr : ¬ Sheltered K Reg.timStatus := not_sheltered_of_ge (by decide)
  exact (h.setFlag _ _ hr).setFlag _ _ hr

theorem loadPower (h : Calm K z s) : Calm K z s.loadPower := by
  have hctl : ¬ Sheltered K Reg.pmuBatctl := not_sheltered (by decide)
  have hpfi : ¬ Sheltered K Reg.pmuPfi := not_sheltered (by decide)
  have hph : ¬ Sheltered K Reg.pmuPhases := not_sheltered (by decide)
  exact (((h.setFlag _ _ hctl).setFlag _ _ hpfi).setFld _ _ _ hph).setFlag _ _ hph

theorem loadWard (h : Calm K z s) : Calm K z s.loadWard := by
  unfold State.loadWard
  extract_lets u v bodies x
  have hu : Calm K z u := h.foldl fun w n _ hw => hw.setNum _ (not_sheltered_of_ge (by unfold Reg.wrdHcfg; omega))
  have hv : Calm K z v := hu.setFlag _ _ (not_sheltered_of_ge (by decide))
  exact setFld hv.same _ _ _ (not_sheltered_of_ge (by decide))

theorem loadChannel (h : Calm NoChannel z s) (c : Nat) : Calm NoChannel z (s.loadChannel c) := by
  have hstate : ¬ Sheltered NoChannel (Reg.latCstate c) := not_sheltered_noChannel (by unfold Reg.latCstate; omega)
  have hhold : ¬ Sheltered NoChannel (Reg.latHold c) := not_sheltered_noChannel (by unfold Reg.latHold; omega)
  have hvalue : ¬ Sheltered NoChannel (Reg.latValue c) := not_sheltered_noChannel (by unfold Reg.latValue; omega)
  exact (((h.setFlag _ _ hstate).setFld _ _ _ hhold).latchOutput hvalue _).ite h

theorem loadLatch (h : Calm NoChannel z s) : Calm NoChannel z s.loadLatch :=
  ((h.setFld _ _ _ (not_sheltered (by decide))).setNum _ (not_sheltered (by decide))).foldl fun _ c _ hu => hu.loadChannel c

theorem loadHinge (h : Calm K z s) : Calm K z s.loadHinge := by
  have hst : ¬ Sheltered K Reg.hngStatus := not_sheltered (by decide)
  have hck : ¬ Sheltered K Reg.hngCkptPeriod := not_sheltered (by decide)
  have hpi : ¬ Sheltered K Reg.hngProofInterval := not_sheltered (by decide)
  have hrh : ¬ Sheltered K Reg.hngRevertHold := not_sheltered (by decide)
  have hcs : ¬ Sheltered K Reg.hngCksize := not_sheltered (by decide)
  have hgb : ¬ Sheltered K Reg.hngGapbound := not_sheltered (by decide)
  unfold State.loadHinge
  extract_lets b u v w x y q
  have hu : Calm K z u := ((h.setFld _ _ _ hst).setFld _ _ _ hst).setFld _ _ _ hst
  have hv : Calm K z v := (hu.setNum _ hck).setNum _ hpi
  have hw : Calm K z w := hv.setNum _ hrh
  have hx : Calm K z x := hw.setNum _ hcs
  have hy : Calm K z y := hx.setNum _ hgb
  have hq : Calm K z q := hy.foldl fun r p hp hr => by
    have hp := List.mem_range.1 hp
    exact (hr.setNum _ (not_sheltered (.inr (.inr (.inl (by unfold Reg.hngPeer; omega)))))).ite hr
  exact hq.same

theorem loadKeep (h : Calm NoChannel z s) : Calm NoChannel z s.loadKeep := h.loadDomain.loadPower.loadWard.loadLatch.loadHinge

/-! ### Control (08, 09, 13) -/

theorem place (h : Calm K z s) (a : Nat) (bs : List Byte) : Calm K z (s.place a bs) := h.ite (h.poke a bs)

theorem clearTask (h : Calm K z s) (t : Nat) : Calm K z (s.clearTask t) := by
  refine h.foldl fun u r hr hu => hu.setNum 0 (not_sheltered_of_ge ?_)
  simp only [List.mem_cons, List.not_mem_nil, or_false] at hr
  unfold Reg.tskReleases Reg.tskOverruns Reg.tskMaxStart Reg.tskMaxExec Reg.tskSkips at hr
  omega

theorem initOutputs (h : Calm K z s) (t : Nat) : Calm K z (s.initOutputs t) := h.foldl fun _ _ _ hu => hu.poke _ _

theorem freshTask (h : Calm K z s) (t : Nat) : Calm K z (s.freshTask t) := by
  have hl : ¬ Sheltered K (Reg.tskLastStart t) := not_sheltered_of_ge (by unfold Reg.tskLastStart; omega)
  have hs : ¬ Sheltered K (Reg.tskTstate t) := not_sheltered_of_ge (by unfold Reg.tskTstate; omega)
  have hc : ¬ Sheltered K (Reg.tskTcfg t) := not_sheltered_of_ge (by unfold Reg.tskTcfg; omega)
  unfold State.freshTask
  exact (((((((h.setTask t _).clearTask t).setNum _ hl).setNum _ hs).setNum _ hc).showTask t).poke _ _).initOutputs t

theorem noTask (h : Calm K z s) (t : Nat) : Calm K z (s.noTask t) := by
  have hl : ¬ Sheltered K (Reg.tskLastStart t) := not_sheltered_of_ge (by unfold Reg.tskLastStart; omega)
  have hs : ¬ Sheltered K (Reg.tskTstate t) := not_sheltered_of_ge (by unfold Reg.tskTstate; omega)
  have hc : ¬ Sheltered K (Reg.tskTcfg t) := not_sheltered_of_ge (by unfold Reg.tskTcfg; omega)
  exact ((((h.setTask t _).clearTask t).setNum _ hl).setNum _ hc).setNum _ hs

theorem freshProgram (h : Calm K z s) (p : Nat) : Calm K z (s.freshProgram p) := by
  have hp : ¬ Sheltered K (Reg.tskPmode p) := not_sheltered_of_ge (by unfold Reg.tskPmode; omega)
  unfold State.freshProgram State.placeProgram
  exact (((h.place _ _).place _ _).setNum _ hp).foldl fun _ t _ hu => hu.freshTask t

theorem loadProgram (h : Calm K z s) (p : Nat) : Calm K z (s.loadProgram none p) := by
  have hp : ¬ Sheltered K (Reg.tskPmode p) := not_sheltered_of_ge (by unfold Reg.tskPmode; omega)
  have hf := h.freshProgram p
  exact (h.setNum _ hp).ite (h.ite ((hf.raise _).ite hf))

theorem loadTasks (h : Calm K z s) : Calm K z (s.loadTasks none) := by
  have hr : ¬ Sheltered K Reg.tskStatus := not_sheltered_of_ge (by decide)
  unfold State.loadTasks State.moveImage
  extract_lets u v w x
  have hu : Calm K z u := h.ite (h.poke _ _)
  have hv : Calm K z v := (hu.setFld _ _ _ hr).setFld _ _ _ hr
  have hw : Calm K z w := hv.foldl fun _ p _ hy => hy.loadProgram p
  have hx : Calm K z x := hw.foldl fun _ t _ hy => hy.noTask t
  exact hx.showCores

theorem cleLoadLoop (h : Calm K z s) (l : Nat) : Calm K z (s.cleLoadLoop l) := by
  have hs : ¬ Sheltered K (Reg.cleLstate l) := not_sheltered_of_ge (by unfold Reg.cleLstate; omega)
  have he : ¬ Sheltered K (Reg.cleLen (l / 32)) := not_sheltered_of_ge (by unfold Reg.cleLen; omega)
  unfold State.cleLoadLoop
  extract_lets bs u v w
  have hu : Calm K z u := h.same
  have hv : Calm K z v := hu.foldl fun _ i _ hy => hy.setNum _ (not_sheltered_of_ge (by unfold Reg.cleLp; omega))
  have hw : Calm K z w := hv.setFlag _ _ he
  exact (hw.setNum _ hs).ite (hw.setNum _ hs)

theorem dropTunes (h : Calm K z s) : Calm K z s.dropTunes := by
  unfold State.dropTunes
  extract_lets ts x u
  have hu : Calm K z u := h.same
  exact hu.foldl fun _ t _ hy => hy.setNum _ (not_sheltered_of_ge (by unfold bankOf; omega))

theorem loadLoopGroup (h : Calm K z s) (g : Nat) : Calm K z (s.loadLoopGroup none g) := by
  have hr : ¬ Sheltered K (Reg.cleGrp g) := not_sheltered_of_ge (by unfold Reg.cleGrp; omega)
  unfold State.loadLoopGroup
  extract_lets bytes keep
  exact h.ite ((h.setNum _ hr).ite (h.setNum _ hr))

theorem loadLoops (h : Calm K z s) : Calm K z (s.loadLoops none) := by
  have hr : ¬ Sheltered K Reg.cleStatus := not_sheltered_of_ge (by decide)
  unfold State.loadLoops
  extract_lets u v
  have hu : Calm K z u := dropTunes (h.foldl fun _ l _ hy => hy.cleLoadLoop l)
  have hv : Calm K z v := hu.foldl fun _ g _ hy => hy.loadLoopGroup g
  exact (hv.setFld _ _ _ hr).setFld _ _ _ hr

theorem loadAxis (h : Calm K z s) (n : Nat) : Calm K z (s.loadAxis n) :=
  (h.setNum _ (not_sheltered_of_ge (by unfold Reg.prfAcfg; omega))).setNum _ (not_sheltered_of_ge (by unfold Reg.prfIdle; omega))

theorem loadControl (h : Calm K z s) : Calm K z (s.loadControl none) := by
  have hp : Calm K z s.loadPairs := h.setFld _ _ _ (not_sheltered (by decide))
  exact hp.loadTasks.loadLoops.foldl fun _ n _ hy => hy.loadAxis n

/-! ### Solve (06, 07) -/

theorem loadChuck (h : Calm K z s) (n c : Nat) : Calm K z (s.loadChuck n c) := by
  have hlo : ¬ Sheltered K (Reg.lthOutLo n) := not_sheltered_of_ge (by unfold Reg.lthOutLo; omega)
  have hhi : ¬ Sheltered K (Reg.lthOutHi n) := not_sheltered_of_ge (by unfold Reg.lthOutHi; omega)
  have hc : ¬ Sheltered K (Reg.lthChuck n c) := not_sheltered_of_ge (by unfold Reg.lthChuck; omega)
  unfold State.loadChuck
  extract_lets b out u
  have hu : Calm K z u := (h.setFlag _ _ hlo).ite (h.setFlag _ _ hhi)
  exact (hu.setNum _ hc).ite (hu.setNum _ hc)

theorem loadLathe (h : Calm K z s) (n : Nat) : Calm K z (s.loadLathe none n) := by
  have hq : ¬ Sheltered K (Reg.lthQctrl n) := not_sheltered_of_ge (by unfold Reg.lthQctrl; omega)
  have hw : ¬ Sheltered K (Reg.lthWarm n) := not_sheltered_of_ge (by unfold Reg.lthWarm; omega)
  unfold State.loadLathe
  extract_lets b u same v
  have hu : Calm K z u := (h.setFlag _ _ hq).setNum _ hw
  have hv : Calm K z v := showLathe (hu.foldl fun _ c _ hy => hy.loadChuck n c) n
  exact hu.ite hv

theorem loadChild (h : Calm K z s) (c : Nat) : Calm K z (s.loadChild c) := by
  have hr : ¬ Sheltered K (Reg.fedChild c) := not_sheltered_of_ge (by unfold Reg.fedChild; omega)
  exact (h.setNum _ hr).ite (h.setNum _ hr)

theorem freshFed (h : Calm K z s) : Calm K z (s.freshFed none) := by
  unfold State.freshFed
  extract_lets b same f u v w x
  have hu : Calm K z u := h.same
  have hv : Calm K z v := (hu.poke _ _).ite hu
  have hw : Calm K z w := (hv.setNum _ (not_sheltered_of_ge (by decide))).setNum _ (not_sheltered_of_ge (by decide))
  have hx : Calm K z x := hw.setNum _ (not_sheltered_of_ge (by decide))
  exact hx.foldl fun _ c _ hy => hy.loadChild c

theorem loadFed (h : Calm K z s) : Calm K z (s.loadFed none) :=
  h.ite (freshFed ((h.setNum _ (not_sheltered_of_ge (by decide))).setNum _ (not_sheltered_of_ge (by decide))))

theorem loadSolve (h : Calm K z s) : Calm K z (s.loadSolve none) := loadFed (h.foldl fun _ n _ hy => hy.loadLathe n)

/-! ### Sense (04, 10, 11) -/

theorem setSpin (h : Calm K z s) (n : Nat) (p : Spindle) : Calm K z (s.setSpin n p) := h.same

theorem loadSpindle (h : Calm K z s) (n : Nat) : Calm K z (s.loadSpindle none n) :=
  h.setNum _ (not_sheltered_of_ge (by unfold Reg.spnCfg; omega))

theorem freeComparator (h : Calm K z s) (n c : Nat) : Calm K z (s.freeComparator n c) :=
  (h.setFlag _ _ (not_sheltered_of_ge (by unfold Reg.spnCmpCtl; omega))).ite h

theorem assignComparator (h : Calm K z s) (k : Nat) : Calm K z (s.assignComparator k) := by
  unfold State.assignComparator
  extract_lets b o n c ctl u
  have hu : Calm K z u := (h.setNum _ (not_sheltered_of_ge (by unfold Reg.spnCmpAngle; omega))).setNum _
    (not_sheltered_of_ge (by unfold Reg.spnCmpCtl; omega))
  exact h.ite hu.same

theorem loadSpindles (h : Calm K z s) : Calm K z (s.loadSpindles none) := by
  unfold State.loadSpindles
  extract_lets u v
  have hu : Calm K z u := h.foldl fun _ n _ hy => hy.loadSpindle n
  have hv : Calm K z v := hu.foldl fun _ n _ hy => hy.foldl fun _ c _ hx => hx.freeComparator n c
  exact hv.foldl fun _ k _ hy => hy.assignComparator k

theorem setStream (h : Calm K z s) (i : Nat) (t : FusStream) : Calm K z (s.setStream i t) := h.same
theorem setGraph (h : Calm K z s) (g : Nat) (t : FusGraph) : Calm K z (s.setGraph g t) := h.same

theorem showStream (h : Calm K z s) (i : Nat) : Calm K z (s.showStream i) := by
  have hst : ¬ Sheltered K (Reg.fusSstate i) := not_sheltered_of_ge (by unfold Reg.fusSstate; omega)
  have hdr : ¬ Sheltered K (Reg.fusSdrift i) := not_sheltered_of_ge (by unfold Reg.fusSdrift; omega)
  have hre : ¬ Sheltered K (Reg.fusSresid i) := not_sheltered_of_ge (by unfold Reg.fusSresid; omega)
  unfold State.showStream
  extract_lets r t u rise v w x y
  have hv : Calm K z v := ((h.setFlag _ _ hst).setFlag _ _ hst).setFlag _ _ hst
  have hw : Calm K z w := (hv.setFld _ _ _ hst).setFld _ _ _ hst
  have hx : Calm K z x := hw.setNum _ hdr
  have hy : Calm K z y := hx.setNum _ hre
  exact (hy.raise _).ite hy

theorem loadStream (h : Calm K z s) (i : Nat) : Calm K z (s.loadStream none i) := by
  have hst : ¬ Sheltered K (Reg.fusSstate i) := not_sheltered_of_ge (by unfold Reg.fusSstate; omega)
  exact ((h.setStream i _).setNum _ hst).ite (h.ite (((h.setNum _ hst).setStream i _).showStream i))

theorem loadGraph (h : Calm K z s) (g : Nat) : Calm K z (s.loadGraph none g) := by
  have hcfg : ¬ Sheltered K (Reg.fusGcfg g) := not_sheltered_of_ge (by unfold Reg.fusGcfg; omega)
  have hst : ¬ Sheltered K (Reg.fusGstate g) := not_sheltered_of_ge (by unfold Reg.fusGstate; omega)
  have hgate : ¬ Sheltered K (Reg.fusGate g) := not_sheltered_of_ge (by unfold Reg.fusGate; omega)
  have hwait : ¬ Sheltered K (Reg.fusWait g) := not_sheltered_of_ge (by unfold Reg.fusWait; omega)
  unfold State.loadGraph
  extract_lets keep u v
  have hu : Calm K z u := h.setNum _ hcfg
  have hv : Calm K z v := (hu.setNum _ hgate).setNum _ hwait
  have hclear : Calm K z (v.clearGraph g) := (hv.setGraph g default).setReg _ hst
  exact (((((h.setGraph g default).setNum _ hcfg).setNum _ hst).setNum _ hgate).setNum _ hwait).ite (hv.ite hclear)

theorem loadFusion (h : Calm K z s) : Calm K z (s.loadFusion none) := by
  unfold State.loadFusion
  extract_lets up u v w x
  have hu : Calm K z u := h.setNum _ (not_sheltered_of_ge (by decide))
  have hv : Calm K z v := (hu.setNum _ (not_sheltered_of_ge (by decide))).setNum _ (not_sheltered_of_ge (by decide))
  have hw : Calm K z w := hv.foldl fun _ i _ hy => hy.loadStream i
  have hx : Calm K z x := hw.foldl fun _ g _ hy => hy.loadGraph g
  exact h.ite hx

theorem loadCalibration (h : Calm K z s) : Calm K z s.loadCalibration := by
  unfold State.loadCalibration
  extract_lets b u v w
  have hu : Calm K z u := h.foldl fun _ c _ hy =>
    ((hy.setNum _ (not_sheltered_of_ge (by unfold Reg.metCscale; omega))).setNum _
      (not_sheltered_of_ge (by unfold Reg.metCoff; omega))).setNum _ (not_sheltered_of_ge (by unfold Reg.metCphase; omega))
  have hv : Calm K z v := hu.foldl fun _ k _ hy =>
    ((hy.setNum _ (not_sheltered_of_ge (by unfold Reg.metRgain; omega))).setNum _
      (not_sheltered_of_ge (by unfold Reg.metRoff; omega))).setNum _ (not_sheltered_of_ge (by unfold Reg.metRlead; omega))
  have hw : Calm K z w := hv.foldl fun _ k _ hy => hy.foldl fun _ e _ hx =>
    (((hx.setNum _ (not_sheltered_of_ge (by unfold Reg.metPgain; omega))).setNum _
      (not_sheltered_of_ge (by unfold Reg.metQgain; omega))).setNum _ (not_sheltered_of_ge (by unfold Reg.metPoff; omega))).setNum _
      (not_sheltered_of_ge (by unfold Reg.metMode; omega))
  exact hw.foldl fun _ r _ hy =>
    ((hy.setNum _ (not_sheltered_of_ge (by unfold Reg.metXscale; omega))).setNum _
      (not_sheltered_of_ge (by unfold Reg.metXoff; omega))).setNum _ (not_sheltered_of_ge (by unfold Reg.metXphase; omega))

theorem loadOut (h : Calm K z s) (n : Nat) : Calm K z (s.loadOut none n) :=
  (h.setNum _ (not_sheltered_of_ge (by unfold Reg.metPconst; omega))).setNum _ (not_sheltered_of_ge (by unfold Reg.metPstat; omega))

theorem loadSystem (h : Calm K z s) (k : Nat) : Calm K z (s.loadSystem none k) := h.same
theorem loadHeat (h : Calm K z s) (k : Nat) : Calm K z (s.loadHeat none k) := h.same

theorem loadMetro (h : Calm K z s) : Calm K z (s.loadMetro none) := by
  unfold State.loadMetro
  extract_lets b u v w x
  have hu : Calm K z u := h.setFld _ _ _ (not_sheltered_of_ge (by decide))
  have hv : Calm K z v := (hu.setNum _ (not_sheltered_of_ge (by decide))).setNum _ (not_sheltered_of_ge (by decide))
  have hw : Calm K z w := hv.loadCalibration.foldl fun _ n _ hy => hy.loadOut n
  have hx : Calm K z x := hw.foldl fun _ k _ hy => hy.loadSystem k
  exact hx.foldl fun _ k _ hy => hy.loadHeat k

theorem loadSense (h : Calm K z s) : Calm K z (s.loadSense none) := h.loadSpindles.loadFusion.loadMetro

/-! ### Link (14 to 17, 19) -/

theorem enablePort (h : Calm K z s) (p : Nat) : Calm K z (s.enablePort none p) := by
  have hr : ¬ Sheltered K (Reg.milCtrl p) := not_sheltered_of_ge (by unfold Reg.milCtrl; omega)
  exact (h.setFlag _ _ hr).setFlag _ _ hr

theorem loadMil (h : Calm K z s) : Calm K z (s.loadMil none) := (h.enablePort 0).enablePort 1

theorem loadEth (h : Calm K z s) (e : Nat) : Calm K z (s.loadEth none e) := by
  have hr : ¬ Sheltered K (Reg.ethPstate e) := not_sheltered_of_ge (by unfold Reg.ethPstate; omega)
  exact (h.setNum _ hr).ite (h.ite (h.setFld _ _ _ hr))

theorem canMode (h : Calm K z s) (k : Nat) (restrict : Bool) : Calm K z (s.canMode k restrict) := by
  have hst : ¬ Sheltered K (Reg.canStatus k) := not_sheltered_of_ge (by unfold Reg.canStatus; omega)
  have hdrop : ¬ Sheltered K (Reg.canHwdrop k) := not_sheltered_of_ge (by unfold Reg.canHwdrop; omega)
  have hu := h.bump 31 0 (s.can.latch.get k).length hdrop
  exact setFlag (ite hu.same h) _ _ hst

theorem loadCan (h : Calm K z s) (k : Nat) : Calm K z (s.loadCan k) := by
  have hctrl : ¬ Sheltered K (Reg.canCtrl k) := not_sheltered_of_ge (by unfold Reg.canCtrl; omega)
  have hnbt : ¬ Sheltered K (Reg.canNbt k) := not_sheltered_of_ge (by unfold Reg.canNbt; omega)
  have hdbt : ¬ Sheltered K (Reg.canDbt k) := not_sheltered_of_ge (by unfold Reg.canDbt; omega)
  unfold State.loadCan
  extract_lets b o used mode u v w
  have hu : Calm K z u := (h.canMode k _).setFlag _ _ hctrl
  have hv : Calm K z v := hu.setFld _ _ _ hctrl
  have hw : Calm K z w := (hv.setNum _ hnbt).setNum _ hdbt
  exact hw.foldl fun _ f _ hy => hy.foldl fun _ i _ hx => hx.setNum _ (not_sheltered_of_ge (by unfold canFilter; omega))

theorem loadHosts (h : Calm K z s) : Calm K z s.loadHosts :=
  (h.setNum _ (not_sheltered_of_ge (by decide))).setNum _ (not_sheltered_of_ge (by decide))

theorem setPortState (h : Calm K z s) (p v : Nat) : Calm K z (s.setPortState p v) :=
  h.setFld _ _ _ (not_sheltered_of_ge (by unfold Reg.timPortState; omega))

theorem loadPort (h : Calm K z s) (p : Nat) : Calm K z (s.loadPort none p) := by
  unfold State.loadPort
  extract_lets u same
  have hu : Calm K z u := h.setFld _ _ _ (not_sheltered_of_ge (by unfold Reg.timPortState; omega))
  have hv : Calm K z (u.setPtpPort p default) := hu.same
  exact hu.ite (hv.setPortState p _)

theorem loadPorts (h : Calm K z s) : Calm K z (s.loadPorts none) := h.foldl fun _ p _ hy => hy.loadPort p

theorem loadPanel (h : Calm K z s) : Calm K z (s.loadPanel none) :=
  ((h.setNum _ (not_sheltered_of_ge (by decide))).setNum _ (not_sheltered_of_ge (by decide))).setFld _ _ _ (not_sheltered_of_ge (by decide))

theorem loadGpios (h : Calm K z s) : Calm K z s.loadGpios := by
  refine h.foldl fun u n _ hu => ite ?_ hu
  have hd := hu.setFlag (u.ballEntry n / 256 % 128 % 32) (bit (u.ballEntry n) 24)
    (not_sheltered_of_ge (r := Reg.pinDir (u.ballEntry n / 256 % 128 / 32)) (by unfold Reg.pinDir; omega))
  exact hd.ite (hd.setFlag _ _ (not_sheltered_of_ge (by unfold Reg.pinOut; omega)))

theorem loadPins (h : Calm K z s) : Calm K z s.loadPins := by
  have hr : ¬ Sheltered K Reg.pinStatus := not_sheltered_of_ge (by decide)
  unfold State.loadPins
  extract_lets b u banks v w
  have hu : Calm K z u := h.foldl fun _ n _ hy => hy.setNum _ (not_sheltered_of_ge (by unfold Reg.pinMio; omega))
  have hv : Calm K z v := ((hu.setFld _ _ _ hr).setFld _ _ _ hr).setFlag _ _ hr
  have hw : Calm K z w := hv.loadGpios.foldl fun _ g _ hy => hy.followBall g false
  exact hw.foldl fun _ n _ hy => hy.ite ((hy.detected _).ite hy)

theorem loadLink (h : Calm K z s) : Calm K z (s.loadLink none) := by
  unfold State.loadLink
  extract_lets u v w
  have hu : Calm K z u := h.loadMil.foldl fun _ e _ hy => hy.loadEth e
  have hv : Calm K z v := (hu.foldl fun _ k _ hy => hy.loadCan k).loadHosts.loadPorts
  exact hv.loadPanel.loadPins

end Calm

end Sys2Proof.Machine
end

section
/-! What the blocks' start at the end of MOUNT leaves alone (R113, R253, R471, R600), block by block, in the terms of `Calm`. -/
namespace Sys2Proof.Machine

namespace Calm
variable {K : Nat → Prop} {z s : State}

/-! ### Spindles (04) -/

theorem setSpinFlag (h : Calm K z s) (n b : Nat) (v : Bool) : Calm K z (s.setSpinFlag n b v) := by
  have hu := h.setFlag b v (not_sheltered_of_ge (r := Reg.spnState n) (by unfold Reg.spnState; omega))
  exact h.ite ((hu.raise _).ite hu)

theorem startSpindle (h : Calm K z s) (n : Nat) : Calm K z (s.startSpindle n) :=
  h.ite ((h.setSpin n _).ite ((h.setSpin n _).setSpinFlag n _ _))

/-! ### The adaptive loops (05) -/

/-- The power state may change but for the words of the battery domains. -/
theorem setPwr (h : Calm K z s) {p : PowerState}
    (hp : (p.bkLow, p.bkHigh, p.bmLow, p.bmHigh) = (s.pwr.bkLow, s.pwr.bkHigh, s.pwr.bmLow, s.pwr.bmHigh)) :
    Calm K z { s with pwr := p } := by
  refine h.alter rfl ?_
  rw [State.settled, hp, State.settled]

theorem setRequest (h : Calm K z s) (r mv : Nat) : Calm K z (s.setRequest r mv) := by
  have hr : ¬ Sheltered K (Reg.adpAvs r) := not_sheltered_of_ge (by unfold Reg.adpAvs; omega)
  refine (h.setFld 25 16 mv hr).setPwr ?_
  rw [State.setFld_pwr]

theorem setTap (h : Calm K z s) (l k : Nat) (v : Int) : Calm K z (s.setTap l k v) :=
  (h.setFld _ _ _ (not_sheltered_of_ge (by unfold Reg.adpEqHi; omega))).ite
    (h.setFld _ _ _ (not_sheltered_of_ge (by unfold Reg.adpEqLo; omega)))

theorem setDfs (h : Calm K z s) (r f0 f1 : Nat) : Calm K z
    (if r = 0 then s.setFld Reg.adpDfs0 10 0 f0 else if r = 2 then s.setFld Reg.adpDfs1 10 0 f1 else s) :=
  (h.setFld _ _ _ (not_sheltered_of_ge (by decide))).ite ((h.setFld _ _ _ (not_sheltered_of_ge (by decide))).ite h)

theorem coldRegion (h : Calm K z s) (r : Nat) : Calm K z (s.coldRegion r) := (h.setRequest r _).setDfs r _ _

theorem coldEq (h : Calm K z s) : Calm K z s.coldEq :=
  h.foldl fun _ _ _ hu => (hu.setNum _ (not_sheltered_of_ge (by unfold Reg.adpEqLo; omega))).setNum _
    (not_sheltered_of_ge (by unfold Reg.adpEqHi; omega))

theorem coldGates (h : Calm K z s) : Calm K z s.coldGates := h.same

theorem coldPlace (h : Calm K z s) : Calm K z s.coldPlace := h.foldl fun _ t _ hu => (hu.setTask t _).showTask t

theorem restoreRegion (h : Calm K z s) (rec : List Byte) (r : Nat) : Calm K z (s.restoreRegion rec r) := by
  unfold State.restoreRegion
  extract_lets u v
  have hu : Calm K z u := h.coldRegion r
  have hv : Calm K z v := (hu.setRequest r _).ite hu
  exact hv.ite (hv.setDfs r _ _)

theorem markCold (h : Calm K z s) (loops : List Nat) : Calm K z (s.markCold loops) :=
  same (h.foldl fun _ _ _ hu => hu.setFlag _ _ (not_sheltered_of_ge (by decide)))

theorem noteRecord (h : Calm K z s) (rec : List Byte) : Calm K z (s.noteRecord rec) := by
  have hr : ¬ Sheltered K Reg.adpStatus := not_sheltered_of_ge (by decide)
  exact ((h.setFlag _ _ hr).setFlag _ _ hr).setNum _ (not_sheltered_of_ge (by decide))

theorem noteCold (h : Calm K z s) (byTemp : Bool) : Calm K z (s.noteCold byTemp) :=
  (h.setFlag _ _ (not_sheltered_of_ge (by decide))).raise _

theorem restoreRest (h : Calm K z s) (rec : List Byte) : Calm K z (s.restoreRest rec) := by
  unfold State.restoreRest
  extract_lets same gen u v x w
  have hu : Calm K z u := h.coldEq.coldGates.coldPlace
  have hv : Calm K z v := by
    refine ite (hu.foldl fun y l _ hy => ?_) hu
    exact foldl (hy.setFld _ _ _ (not_sheltered_of_ge (by unfold Reg.adpEqLo; omega))) fun _ k _ hx => hx.setTap l _ _
  have hw : Calm K z w := ite hv.same hv
  exact ite (hw.foldl fun _ t _ hy => hy.ite ((hy.setTask t _).showTask t)) hw

theorem adpRestore (h : Calm K z s) : Calm K z s.adpRestore := by
  unfold State.adpRestore
  extract_lets u
  have hu : Calm K z u := h.markCold _
  split
  · exact ((hu.foldl fun _ r _ hy => hy.restoreRegion _ r).restoreRest _).noteRecord _
  · exact (hu.foldl fun _ r _ hy => hy.coldRegion r).coldEq.coldGates.coldPlace.noteCold _

theorem adpStandby (h : Calm K z s) : Calm K z s.adpStandby := h.storeLastGood.same

/-! ### Lathes (06) -/

theorem clearWarm (h : Calm K z s) (n : Nat) : Calm K z (s.clearWarm n) := h.foldl fun _ _ _ hu => hu.dmaWrite _ _ _

/-! ### The metrology (11) -/

theorem setEnergyReg (h : Calm K z s) (j v : Nat) : Calm K z (s.setEnergyReg j v) :=
  (h.setNum _ (not_sheltered_of_ge (by unfold Reg.metRegLo; omega))).setNum _ (not_sheltered_of_ge (by unfold Reg.metRegHi; omega))

theorem setMetOut (h : Calm K z s) (n : Nat) (o : MetOut) : Calm K z (s.setMetOut n o) := h.same

theorem metRecord (h : Calm K z s) (off flags : Nat) (payload : List Byte) : Calm K z (s.metRecord off flags payload) := h.post _ _ _ _ _ _ _

theorem metSend (h : Calm K z s) (flag : Nat) (payload : List Byte) : Calm K z (s.metSend flag payload) := (h.milOriginate _ _ _ _ _).ite h

theorem writeJournal (h : Calm K z s) (kind slot index : Nat) : Calm K z (s.writeJournal kind slot index) := by
  unfold State.writeJournal
  extract_lets at_ old seq body data u saved x v w
  have hu : Calm K z u := h.dmaWrite _ _ _
  have hv : Calm K z v := hu.same
  have hw : Calm K z w := hv.setNum _ (not_sheltered_of_ge (by decide))
  exact hw.ite (hw.raise _)

theorem writeRotating (h : Calm K z s) (kind : Nat) : Calm K z (s.writeRotating kind) := by
  unfold State.writeRotating
  extract_lets slot u x v
  have hu : Calm K z u := h.writeJournal _ _ _
  have hv : Calm K z v := hu.same
  exact (hv.raise _).ite hv

theorem writeBoundary (h : Calm K z s) (index : Nat) : Calm K z (s.writeBoundary index) := by
  unfold State.writeBoundary
  extract_lets slot u
  have hu : Calm K z u := h.writeJournal _ _ _
  exact raise hu.same _

theorem tamperRecord (h : Calm K z s) (start finish flags bound : Nat) : Calm K z (s.tamperRecord start finish flags bound) := by
  unfold State.tamperRecord
  exact ((h.metRecord _ _ _).metSend _ _).raise _

theorem billingRecord (h : Calm K z s) (i : MetInterval) : Calm K z (s.billingRecord i) := by
  unfold State.billingRecord
  exact (((h.metRecord _ _ _).metSend _ _).offerEvent _ _).raise _

theorem loadRegisters (h : Calm K z s) (b : List Byte) : Calm K z (s.loadRegisters b) := by
  unfold State.loadRegisters
  extract_lets u v tally
  have hu : Calm K z u := h.foldl fun _ _ _ hy => hy.setEnergyReg _ _
  have hv : Calm K z v := hu.foldl fun _ n _ hy => hy.setMetOut n _
  exact hv.same

theorem mergeRetention (h : Calm K z s) : Calm K z s.mergeRetention := by
  unfold State.mergeRetention
  extract_lets bm u v
  have hu : Calm K z u := h.foldl fun _ _ _ hy => hy.setEnergyReg _ _
  have hv : Calm K z v := hu.foldl fun _ n _ hy => hy.setMetOut n _
  exact hv.same

theorem setTamper (h : Calm K z s) (b : Nat) (v : Bool) : Calm K z (s.setFlag Reg.metTamper b v) :=
  h.setFlag _ _ (not_sheltered_of_ge (by decide))

theorem batteryEnd (h : Calm K z s) (broken : Bool) (going : Option Nat) : Calm K z (s.batteryEnd broken going) := by
  have hrestore : ¬ Sheltered K Reg.metRestore := not_sheltered_of_ge (by decide)
  have hstatus : ¬ Sheltered K Reg.metStatus := not_sheltered_of_ge (by decide)
  unfold State.batteryEnd
  extract_lets x u away flags bound v ep y q w
  have hu : Calm K z u := ite h h.same
  have hv : Calm K z v := by
    refine ite (ite ?_ hu) ?_
    · exact (((hu.tamperRecord _ _ _ _).setTamper _ _).setTamper _ _).setFlag _ _ hrestore
    · split
      · exact (hu.tamperRecord _ _ _ _).setTamper _ _
      · exact hu
  have hw : Calm K z w := hv.same
  exact ((hw.setFlag _ _ hstatus).setTamper _ _).ite hw

theorem journalHeads (h : Calm K z s) (seq : Nat) : Calm K z (s.journalHeads seq) := h.same

theorem restoreUnmatched (h : Calm K z s) (lost broken : Bool) (now : MetInterval) : Calm K z (s.restoreUnmatched lost broken now) := by
  unfold State.restoreUnmatched
  extract_lets u flags v x w y
  have hu : Calm K z u := h.foldl fun _ _ _ hy => hy.setEnergyReg _ _
  have hv : Calm K z v := (hu.setFlag _ _ (not_sheltered_of_ge (by decide))).setNum _ (not_sheltered_of_ge (by decide))
  have hw : Calm K z w := hv.same
  have hy : Calm K z y :=
    (((hw.setNum _ (not_sheltered_of_ge (by decide))).setNum _ (not_sheltered_of_ge (by decide))).raise _).ite hw
  exact hy.batteryEnd _ _

theorem restoreInterval (h : Calm K z s) (index time lostFlags bound : Nat) (now : MetInterval) :
    Calm K z (s.restoreInterval index time lostFlags bound now) := by
  unfold State.restoreInterval
  extract_lets d old x u v y
  have hu : Calm K z u := h.same
  have hv : Calm K z v := (hu.billingRecord _).writeBoundary _
  exact ite hv.same h.same

theorem restoreMatched (h : Calm K z s) (k : Nat) (b : List Byte) (broken : Bool) (now : MetInterval) :
    Calm K z (s.restoreMatched k b broken now) := by
  unfold State.restoreMatched
  extract_lets u time merged going v lost opened bound lostFlags w x y q
  have hu : Calm K z u := h.loadRegisters b
  have hv : Calm K z v := hu.mergeRetention.ite hu
  have hw : Calm K z w := hv.setNum _ (not_sheltered_of_ge (by decide))
  have hx : Calm K z x := (hw.setNum _ (not_sheltered_of_ge (by decide))).setNum _ (not_sheltered_of_ge (by decide))
  have hy : Calm K z y := (hx.raise _).ite hx
  have hq : Calm K z q := (hy.restoreInterval _ _ _ _ _).batteryEnd _ _
  exact ite (hq.writeRotating _) hq.same

theorem metRestore (h : Calm K z s) : Calm K z s.metRestore := by
  unfold State.metRestore
  extract_lets broken
  refine h.ite ?_
  split
  · exact (h.journalHeads _).restoreUnmatched _ _ _
  · extract_lets u now
    have hu : Calm K z u := (h.journalHeads _).setNum _ (not_sheltered_of_ge (by decide))
    split
    · exact hu.restoreUnmatched _ _ _
    · exact hu.restoreMatched _ _ _ _

/-! ### The panel, the Milio links and the time ports (14, 15, 04) -/

theorem setPnl (h : Calm K z s) (p : PnlState) : Calm K z (s.setPnl p) := h.same

theorem fillWhite (h : Calm K z s) (r : PnlRegion) (image : Nat) : Calm K z (s.fillWhite r image) := h.foldl fun _ _ _ hu => hu.dmaWrite _ _ _

theorem applyJournal (h : Calm K z s) (b : List Byte) : Calm K z (s.applyJournal b) := by
  unfold State.applyJournal
  extract_lets x u rs y v q
  have hu : Calm K z u := h.setPnl _
  clear_value u
  have hv : Calm K z v := (hu.setFlag _ _ (not_sheltered_of_ge (by decide))).fillWhite _ _
  clear_value v
  exact hu.ite ((hu.setPnl _).ite (hv.setPnl _))

theorem loadJournal (h : Calm K z s) : Calm K z s.loadJournal := by
  rw [State.loadJournal]
  generalize s.journalNewest = newest
  cases newest with
  | none => exact h
  | some b => exact h.applyJournal b

theorem linkTo (h : Calm K z s) (l st : Nat) : Calm K z (s.linkTo l st) := by
  have hr : ¬ Sheltered K (Reg.milStatus (l / 2)) := not_sheltered_of_ge (by unfold Reg.milStatus; omega)
  unfold State.linkTo
  extract_lets old u x v
  have hu : Calm K z u := (h.setFld _ _ _ hr).ite (h.setFld _ _ _ hr)
  have hv : Calm K z v := hu.ite (hu.setMilLink l _)
  exact hv.ite ((hv.raise _).ite ((hv.raise _).ite hv))

theorem trainLink (h : Calm K z s) (l : Nat) : Calm K z (s.trainLink l) := by
  have hu := h.setMilLink l { s.milLink l with told := false, heard := false }
  exact (hu.linkTo l _).ite (hu.linkTo l _)

theorem freshLink (h : Calm K z s) (l : Nat) : Calm K z (s.freshLink l) :=
  trainLink ((h.setMilLink l default).foldl fun _ v _ hu => (hu.setMilVc l v _).showVc l v) l

theorem startLinks (h : Calm K z s) : Calm K z s.startLinks := h.foldl fun _ l _ hu => hu.freshLink l

theorem startPorts (h : Calm K z s) : Calm K z s.startPorts := h.foldl fun _ p _ hu => (hu.setPortState p _).ite hu

/-! ### Outputs and axes (12, 13) -/

theorem redriveLatch (h : Calm NoChannel z s) : Calm NoChannel z s.redriveLatch := by
  refine h.foldl fun u c _ hu => ite (hu.latchOutput (not_sheltered_noChannel ?_) _) hu
  unfold Reg.latValue
  omega

theorem axesLost (h : Calm K z s) : Calm K z s.axesLost := h.foldl fun _ n _ hu => hu.setLost n true

end Calm

end Sys2Proof.Machine
end

section
/-! The steps of MOUNT (R95, R106, R107, R499): reset release and the role. -/
namespace Sys2Proof.Machine

variable {K : Nat → Prop} {z s t u : State}

/-! ### Reset release (R95, R106, R107) -/

namespace Calm

theorem loadRootSlots (h : Calm K z s) : Calm K z s.loadRootSlots := ((h.putSlot (by decide) _).putSlot (by decide) _).putSlot (by decide) _

theorem showDevid (h : Calm K z s) : Calm K z s.showDevid :=
  h.foldl fun _ n hn hu => hu.setNum _ (not_sheltered (.inr (.inl (by have := List.mem_range.1 hn; unfold Reg.keyDevid; omega))))

theorem loadRecord (h : Calm K z s) (r : KeyRecord) : Calm K z (s.loadRecord r) := by
  refine h.foldl fun u i hi hu => ?_
  have hi : i + 3 < 256 := by have := List.mem_range.1 hi; omega
  split
  · exact hu.putSlot hi _
  · exact hu.putSlot hi _

theorem showRecord (h : Calm K z s) (r : KeyRecord) : Calm K z (s.showRecord r) :=
  ((h.setFld _ _ _ (not_sheltered (by decide))).setFld _ _ _ (not_sheltered (by decide))).setNum _ (not_sheltered (by decide))

theorem mountKeys (h : Calm K z s) : Calm K z s.mountKeys := by
  have hst : ¬ Sheltered K Reg.keyStatus := not_sheltered (by decide)
  unfold State.mountKeys
  extract_lets blank enrolled x u v w
  have hu : Calm K z u := h.ite h.same
  have hv : Calm K z v := hu.loadRootSlots.showDevid.setFlag _ _ hst
  have hw : Calm K z w := hv.setFlag _ _ hst
  clear_value w
  split
  · exact (loadRecord hw.same _).showRecord _
  · exact (((hw.loadRecord _).setFlag _ _ hst).setFld _ _ _ (not_sheltered (by decide))).raise _

theorem restoreLog (h : Calm K z s) : Calm K z s.restoreLog := by
  unfold State.restoreLog
  extract_lets newest x u
  have hu : Calm K z u := h.same
  exact ((hu.setNum _ (not_sheltered (by decide))).setNum _ (not_sheltered (by decide))).setFlag _ _ (not_sheltered (by decide))

end Calm

/-- The part is out of reset. -/
def State.markReleased (s : State) : State := { s with chip := { s.chip with released := true } }

/-- The firmware runs, and the Stock is ready. -/
def State.markFirmware (s : State) : State := { s with chip := { s.chip with firmwareOk := true, stockReady := true } }

/-- The boot ROM goes over to the firmware it found good. -/
def State.bootFrom (s : State) : Firmware → State
  | .none => s.mountKeys.haltBoot Boot.firmware
  | .firstCopy => s.mountKeys.startFirmware false
  | .secondCopy => s.mountKeys.startFirmware true

theorem State.bootFrom_copy (s : State) (second : Bool) :
    s.bootFrom (if second then .secondCopy else .firstCopy) = s.mountKeys.startFirmware second := by
  cases second with
  | false => rw [if_neg (by decide), State.bootFrom]
  | true => rw [if_pos rfl, State.bootFrom]

theorem exec_resetRelease (rootOk : Bool) (fw : Firmware) (hm : s.mode = Mode.mount) (hr : s.chip.released = false) :
    exec (.resetRelease rootOk fw) s = .next (if !rootOk then s.markReleased.haltBoot Boot.puf else s.markReleased.bootFrom fw) := by
  show execResetRelease rootOk fw s = _
  rw [execResetRelease, if_neg (by rw [hm, hr]; decide)]
  rfl

theorem State.haltBoot_shows (s : State) {fail : Nat} (h : fail < 16) :
    (s.haltBoot fail).mode = s.mode ∧ (s.haltBoot fail).bootFail = fail ∧ (s.haltBoot fail).flag Reg.sysBoot 4 = s.flag Reg.sysBoot 4 ∧
      (s.haltBoot fail).chip = s.chip :=
  ⟨State.mode_setReg (by decide) _, (State.fld_setFld _ _ 11 8 _ (by decide) (by decide)).trans (Nat.mod_eq_of_lt h),
    State.flag_setFld_ne _ _ 11 8 _ 4 (by decide) (by decide) (by decide), rfl⟩

theorem resetRelease_puf (hm : s.mode = Mode.mount) (hr : s.chip.released = false) (fw : Firmware) :
    Completes (.resetRelease false fw) s fun t => t.mode = Mode.mount ∧ t.bootFail = Boot.puf ∧ t.chip.released = true ∧
      OnlyRegs { s with chip := t.chip } t [Reg.sysBoot] := by
  obtain ⟨hmode, hfail, -, -⟩ := s.markReleased.haltBoot_shows (fail := Boot.puf) (by decide)
  exact ⟨_, exec_resetRelease false fw hm hr, hmode.trans hm, hfail, rfl, (OnlyRegs.refl s.markReleased _).setFld (by simp) _ _ _⟩

theorem resetRelease_firmware (hm : s.mode = Mode.mount) (hr : s.chip.released = false) :
    Completes (.resetRelease true .none) s fun t => t.mode = Mode.mount ∧ t.bootFail = Boot.firmware ∧ t.chip.released = true := by
  have e := exec_resetRelease true .none hm hr
  rw [if_neg (by decide), State.bootFrom] at e
  have hk : Calm NoChannel s.markReleased s.markReleased.mountKeys := (Calm.refl _).mountKeys
  have hchip : s.markReleased.mountKeys.chip.released = true := congrArg ChipState.released hk.chip
  have hmode : s.markReleased.mountKeys.mode = Mode.mount := hk.mode.trans hm
  generalize s.markReleased.mountKeys = u at e hchip hmode
  obtain ⟨hm', hfail, -, -⟩ := u.haltBoot_shows (fail := Boot.firmware) (by decide)
  exact ⟨_, e, hm'.trans hmode, hfail, hchip⟩

theorem State.applyHinge_shows (s : State) (r : HingeRecord) :
    (s.applyHinge r).chip = s.chip ∧ ∀ q, q ≠ Reg.hngEpoch → q ≠ Reg.hngStatus → (s.applyHinge r).reg q = s.reg q := by
  refine ⟨?_, fun _ he hs => (State.reg_setReg_ne _ _ _ _ hs).trans (State.reg_setReg_ne _ _ _ _ he)⟩
  rw [State.applyHinge, State.setFlag, State.setFld, State.setReg_chip, State.setFld, State.setReg_chip]
  rfl

/-- The Hinge's record brings back the epoch and UNFIT alone. -/
theorem State.restoreHinge_shows (s : State) :
    s.restoreHinge.chip = s.chip ∧ ∀ q, q ≠ Reg.hngEpoch → q ≠ Reg.hngStatus → s.restoreHinge.reg q = s.reg q := by
  rw [State.restoreHinge]
  generalize s.newestHinge = newest
  cases newest with
  | none => exact ⟨rfl, fun _ _ _ => rfl⟩
  | some b => exact s.applyHinge_shows _

theorem State.startFirmware_shows (s : State) (second : Bool) : let t := s.startFirmware second
    t.mode = s.mode ∧ t.chip.released = s.chip.released ∧ t.chip.firmwareOk = true ∧ t.chip.stockReady = true ∧
      t.flag Reg.sysBoot 4 = second ∧ t.bootFail = if 3 ≤ s.fld Reg.sysBoot 23 16 then Boot.loop else s.bootFail := by
  intro t
  obtain ⟨v, hv⟩ : ∃ v, (s.setFlag Reg.sysBoot 4 second).markFirmware.restoreLog.restoreHinge = v := ⟨_, rfl⟩
  have et : t = if 3 ≤ v.fld Reg.sysBoot 23 16 then v.haltBoot Boot.loop else v := hv ▸ rfl
  have hlog : Calm NoChannel (s.setFlag Reg.sysBoot 4 second).markFirmware (s.setFlag Reg.sysBoot 4 second).markFirmware.restoreLog :=
    (Calm.refl _).restoreLog
  obtain ⟨hchip, hreg⟩ := (s.setFlag Reg.sysBoot 4 second).markFirmware.restoreLog.restoreHinge_shows
  rw [hv] at hchip hreg
  have hchip : v.chip = (s.setFlag Reg.sysBoot 4 second).markFirmware.chip := hchip.trans hlog.chip
  have hboot : v.reg Reg.sysBoot = (s.setFlag Reg.sysBoot 4 second).reg Reg.sysBoot :=
    (hreg _ (by decide) (by decide)).trans (hlog.reg (sheltered_sys (by decide) (by decide)))
  have hmode : v.mode = s.mode :=
    (congrArg (field · 3 0) ((hreg Reg.sysMode (by decide) (by decide)).trans (hlog.reg (sheltered_sys (by decide) (by decide))))).trans
      (State.mode_setReg (by decide) _)
  have hflag : v.flag Reg.sysBoot 4 = second := by
    rw [State.flag, hboot]
    exact State.flag_setFlag _ _ _ _ (by decide)
  have hfld (hi lo : Nat) (hd : hi < 4 ∨ 4 < lo) : v.fld Reg.sysBoot hi lo = s.fld Reg.sysBoot hi lo := by
    rw [State.fld, hboot]
    exact State.fld_setFlag_ne _ _ 4 hi lo second (by decide) hd
  obtain ⟨hm, hfail, h4, hc⟩ := v.haltBoot_shows (fail := Boot.loop) (by decide)
  rw [← hfld 23 16 (by decide), et]
  split
  · exact ⟨hm.trans hmode, by rw [hc, hchip]; rfl, by rw [hc, hchip]; rfl, by rw [hc, hchip]; rfl, h4.trans hflag, hfail⟩
  · exact ⟨hmode, by rw [hchip]; rfl, by rw [hchip]; rfl, by rw [hchip]; rfl, hflag, hfld 11 8 (by decide)⟩

theorem resetRelease_runs (hm : s.mode = Mode.mount) (hr : s.chip.released = false) (second : Bool) :
    Completes (.resetRelease true (if second then .secondCopy else .firstCopy)) s fun t =>
      t.mode = Mode.mount ∧ t.chip.released = true ∧ t.chip.firmwareOk = true ∧ t.chip.stockReady = true ∧
        t.flag Reg.sysBoot 4 = second ∧ t.bootFail = (if 3 ≤ s.fld Reg.sysBoot 23 16 then Boot.loop else s.bootFail) := by
  have e := exec_resetRelease true (if second then .secondCopy else .firstCopy) hm hr
  rw [State.bootFrom_copy] at e
  have hk : Calm NoChannel s.markReleased s.markReleased.mountKeys := (Calm.refl _).mountKeys
  have hchip : s.markReleased.mountKeys.chip.released = true := congrArg ChipState.released hk.chip
  have hmode : s.markReleased.mountKeys.mode = Mode.mount := hk.mode.trans hm
  have hstreak : s.markReleased.mountKeys.fld Reg.sysBoot 23 16 = s.fld Reg.sysBoot 23 16 := hk.fld (sheltered_sys (by decide) (by decide)) _ _
  have hfail : s.markReleased.mountKeys.bootFail = s.bootFail := hk.bootFail
  generalize s.markReleased.mountKeys = u at e hchip hmode hstreak hfail
  rw [Bool.not_true, if_neg Bool.false_ne_true] at e
  obtain ⟨h1, h2, h3, h4, h5, h6⟩ := u.startFirmware_shows second
  exact ⟨_, e, h1.trans hmode, h2.trans hchip, h3, h4, h5, by rw [h6, hstreak, hfail]⟩

/-! ### The role (R491 to R493, R499) -/

/-- The part knows its role: it is active exactly when it presents a claim. -/
def State.knowRole (s : State) : State := { s with chip := { s.chip with roleKnown := true, roleActive := s.claim != 0 } }

/-- The part presents no claim of its own accord: it is UNFIT, or another unit leads. -/
def State.standsBy (s : State) : Bool := s.unfit || s.hinge.statusActive || ([0, 1] : List Nat).any s.peerLeads

theorem State.standsBy_iff (s : State) :
    s.standsBy = true ↔ s.unfit = true ∨ s.hinge.statusActive = true ∨ s.peerLeads 0 = true ∨ s.peerLeads 1 = true := by
  simp [State.standsBy, or_assoc]

/-- A part that does not stand by takes a claim. -/
def State.takeRole (s : State) : State := if s.standsBy then s else s.takeClaim false

theorem exec_roleDecision (hm : s.mode = Mode.mount) (hh : s.hingeRuns = true) (hr : s.chip.roleKnown = false) :
    exec .roleDecision s = .next
      (s.elapse ((s.hinge.listen + s.hb3 - s.chip.up + 3) / 4)).takeRole.knowRole.tell := by
  show execRoleDecision s = _
  rw [execRoleDecision, if_neg (by rw [hm, hh, hr]; decide)]
  rfl

/-- Without an epoch left the part takes no claim (R493). -/
theorem State.takeClaim_end (h : 0xFFFFFF < s.fld Reg.hngEpoch 23 0 + 1) (takeover : Bool) : Calm K s (s.takeClaim takeover) := by
  rw [State.takeClaim, if_pos h]
  exact (Calm.refl s).ite (((Calm.refl s).setFlag _ _ (not_sheltered (by decide))).raise 47)

/-- The part takes a claim of the next epoch. -/
theorem State.takeClaim_takes (h : ¬ 0xFFFFFF < s.fld Reg.hngEpoch 23 0 + 1) (takeover : Bool) :
    (s.takeClaim takeover).mode = s.mode ∧
      (s.takeClaim takeover).claim = claimOf (s.fld Reg.hngEpoch 23 0 + 1) s.ownRank s.ownUnit % 2 ^ 32 ∧
      (s.takeClaim takeover).fld Reg.hngEpoch 23 0 = s.fld Reg.hngEpoch 23 0 + 1 := by
  have hwrite (r : HingeRecord) (v : State) : Calm NoChannel v (v.writeHinge r) := ((Calm.refl v).engineWrite _ _ _).setHinge _
  rw [State.takeClaim, if_neg h]
  extract_lets c v r w
  have hw : Calm NoChannel v w := hwrite _ v
  have hepoch : v.fld Reg.hngEpoch 23 0 = s.fld Reg.hngEpoch 23 0 + 1 :=
    (State.fld_setFld _ _ 23 0 _ (by decide) (by decide)).trans (Nat.mod_eq_of_lt (by omega))
  have hmode : v.mode = s.mode := State.mode_setReg (by decide) _
  clear_value w
  refine ⟨(State.mode_setReg (by decide) _).trans (hw.mode.trans hmode), ?_, ?_⟩
  · rw [State.claim, State.num, State.setNum, State.reg_setReg_same, BitVec.toNat_ofNat]
  · exact (State.fld_setReg_ne _ _ 23 0 (by decide)).trans ((hw.fld (sheltered_epoch _) 23 0).trans hepoch)

/-- A part that stands by keeps its claim; another takes one of the next epoch while there is one. -/
theorem State.takeRole_shows (u : State) : u.takeRole.mode = u.mode ∧
    if u.standsBy = true ∨ 0xFFFFFF < u.fld Reg.hngEpoch 23 0 + 1 then u.takeRole.claim = u.claim
    else u.takeRole.claim = claimOf (u.fld Reg.hngEpoch 23 0 + 1) u.ownRank u.ownUnit % 2 ^ 32 ∧
      u.takeRole.fld Reg.hngEpoch 23 0 = u.fld Reg.hngEpoch 23 0 + 1 := by
  by_cases hs : u.standsBy = true
  · have hv : u.takeRole = u := if_pos hs
    rw [hv, if_pos (.inl hs)]
    exact ⟨rfl, rfl⟩
  · have hv : u.takeRole = u.takeClaim false := if_neg hs
    rw [hv]
    by_cases he : 0xFFFFFF < u.fld Reg.hngEpoch 23 0 + 1
    · have hc : Calm NoChannel u (u.takeClaim false) := State.takeClaim_end he false
      rw [if_pos (.inr he)]
      exact ⟨hc.mode, hc.claim⟩
    · rw [if_neg (by simp only [hs, he]; decide)]
      exact State.takeClaim_takes he false

theorem State.knowRole_shows (u : State) : let t := u.takeRole.knowRole.tell
    t.mode = u.mode ∧ t.chip.roleKnown = true ∧ t.chip.roleActive = (t.claim != 0) ∧
      if u.standsBy = true ∨ 0xFFFFFF < u.fld Reg.hngEpoch 23 0 + 1 then t.claim = u.claim
      else t.claim = claimOf (u.fld Reg.hngEpoch 23 0 + 1) u.ownRank u.ownUnit % 2 ^ 32 ∧
        t.fld Reg.hngEpoch 23 0 = u.fld Reg.hngEpoch 23 0 + 1 := by
  obtain ⟨hmode, hclaim⟩ := u.takeRole_shows
  generalize u.takeRole = v at hmode hclaim ⊢
  have ht : Calm NoChannel v.knowRole v.knowRole.tell := (Calm.refl _).tell
  have htmode : v.knowRole.tell.mode = v.mode := ht.mode
  have htclaim : v.knowRole.tell.claim = v.claim := ht.claim
  have htepoch : v.knowRole.tell.fld Reg.hngEpoch 23 0 = v.fld Reg.hngEpoch 23 0 := ht.fld (sheltered_epoch _) 23 0
  have htchip : v.knowRole.tell.chip = v.knowRole.chip := ht.chip
  generalize v.knowRole.tell = t at htmode htclaim htepoch htchip
  refine ⟨htmode.trans hmode, by rw [htchip]; rfl, by rw [htchip, htclaim]; rfl, ?_⟩
  rwa [htclaim, htepoch]

theorem roleDecision_decides (hm : s.mode = Mode.mount) (hh : s.hingeRuns = true) (hr : s.chip.roleKnown = false) :
    let u := s.elapse ((s.hinge.listen + s.hb3 - s.chip.up + 3) / 4)
    let e := u.fld Reg.hngEpoch 23 0 + 1
    Completes .roleDecision s fun t => t.mode = Mode.mount ∧ t.chip.roleKnown = true ∧ t.chip.roleActive = (t.claim != 0) ∧
      if u.unfit = true ∨ u.hinge.statusActive = true ∨ u.peerLeads 0 = true ∨ u.peerLeads 1 = true ∨ 0xFFFFFF < e then t.claim = u.claim
      else t.claim = claimOf e u.ownRank u.ownUnit % 2 ^ 32 ∧ t.fld Reg.hngEpoch 23 0 = e := by
  have hexec := exec_roleDecision hm hh hr
  have hmode : (s.elapse ((s.hinge.listen + s.hb3 - s.chip.up + 3) / 4)).mode = Mode.mount := ((Steady.refl (M := True) s).elapse _).mode.trans hm
  generalize s.elapse ((s.hinge.listen + s.hb3 - s.chip.up + 3) / 4) = u at hexec hmode
  obtain ⟨h1, h2, h3, h4⟩ := u.knowRole_shows
  simp only [u.standsBy_iff, or_assoc] at h4
  exact ⟨_, hexec, h1.trans hmode, h2, h3, h4⟩

end Sys2Proof.Machine
end

section
/-! The load of the Blank (R87, R123 to R127) and the end of MOUNT (R113), and the obligation on the mount sequence. -/
namespace Sys2Proof.Machine

variable {K : Nat → Prop} {z s t u : State}

/-! ### The slots tried (R123, R124) -/

theorem State.detected_memBlk (s : State) (d : Detection) : (s.detected d).mem = s.mem ∧ (s.detected d).blk = s.blk := by
  rw [State.detected, State.detect_only]
  exact ⟨rfl, rfl⟩

theorem State.noteSignature_memBlk (s : State) (w : Who) (code : Nat) :
    (s.noteSignature w code).mem = s.mem ∧ (s.noteSignature w code).blk = s.blk := by
  unfold State.noteSignature
  split
  · exact s.detected_memBlk _
  · exact ⟨rfl, rfl⟩

/-- A slot that fails its check is recorded; memory and the configuration stand. -/
theorem State.skipSlot_memBlk (s : State) (slot : Nat) (e : CheckFail) : (s.skipSlot slot e).mem = s.mem ∧ (s.skipSlot slot e).blk = s.blk := by
  unfold State.skipSlot
  extract_lets u
  have hu : u.mem = s.mem ∧ u.blk = s.blk := s.noteSignature_memBlk _ _
  clear_value u
  split
  · exact hu
  · exact ⟨(State.setReg_mem _ _ _).trans ((State.setReg_mem _ _ _).trans hu.1),
      (State.setReg_blk _ _ _).trans ((State.setReg_blk _ _ _).trans hu.2)⟩

theorem State.tryslots_memBlk (s : State) (ks : List Nat) : (s.tryslots ks).1.mem = s.mem ∧ (s.tryslots ks).1.blk = s.blk := by
  induction ks generalizing s with
  | nil => exact ⟨rfl, rfl⟩
  | cons k ks ih =>
    rw [State.tryslots]
    split
    · exact ⟨rfl, rfl⟩
    next e _ =>
      obtain ⟨hmem, hblk⟩ := ih (s.skipSlot k e)
      obtain ⟨hmem', hblk'⟩ := s.skipSlot_memBlk k e
      exact ⟨hmem.trans hmem', hblk.trans hblk'⟩

/-! ### The sections run (R124, R127) -/

/-- The sections of slot `k` run, and SYS.BOOT shows the slot. -/
def State.runs (t : State) (k : Nat) (xs : List Section) : Prop :=
  t.blk.running = xs ∧ t.blk.full = xs ∧ t.chip.blankLoaded = true ∧ t.fld Reg.sysBoot 2 0 = k % 8

theorem State.runs.calm {k : Nat} {xs : List Section} (h : z.runs k xs) (c : Calm K z t) : t.runs k xs := by
  obtain ⟨hrun, hfull, hloaded, hslot⟩ := h
  refine ⟨?_, ?_, ?_, (c.fld (sheltered_sys (by decide) (by decide)) 2 0).trans hslot⟩
  · rw [c.blk, hrun]
  · rw [c.blk, hfull]
  · rw [c.chip, hloaded]

/-- The image's sections become the configuration, and the slot is shown. -/
def State.takeImage (s : State) (slot : Nat) (img : List Byte) (xs : List Section) : State :=
  let s : State := { s with blk := { s.blk with running := xs, full := xs, node := u16 img 0x10 % 2 ^ 14, patches := Tab.empty } }
  let s : State := { s with chip := { s.chip with blankLoaded := true } }
  (s.setFld Reg.sysBoot 2 0 slot).setFld Reg.blkStatus 2 0 slot

theorem State.takeImage_runs (s : State) (slot : Nat) (img : List Byte) (xs : List Section) : (s.takeImage slot img xs).runs slot xs :=
  ⟨rfl, rfl, rfl, (State.fld_setReg_ne _ _ 2 0 (by decide)).trans (State.fld_setFld _ _ 2 0 _ (by decide) (by decide))⟩

/-- The keys are derived where the Blank has a policy. -/
def State.derivePolicy (s : State) : State :=
  if s.hasSection Ty.keypol Region.keep 0 then s.deriveKeypol (s.body Ty.keypol Region.keep 0) else s

theorem State.commitBlank_eq (s : State) (slot : Nat) (img : List Byte) (xs : List Section) : s.commitBlank slot img xs =
    ((((((s.takeImage slot img xs).loadGenerations img (imageDigest img)).derivePolicy.loadKeep.loadControl none).loadSolve none).loadSense
      none).loadLink none).startTraining := rfl

/-- The LPDDR5 the Blank declares is shown. -/
def State.showDdr (s : State) : State := (s.setFld Reg.ddrStatus 20 16 s.ddrSpeed).setFld Reg.ddrStatus 7 4 s.ddrCap

/-- The training is under way where there is LPDDR5 to train. -/
def State.awaitDdr (s : State) : State := { s with chip := { s.chip with ddrPending := s.ddrCap != 0 } }

theorem State.startTraining_eq (s : State) : s.startTraining = if s.variant.hasDdr then s.showDdr.awaitDdr else s := rfl

theorem State.awaitDdr_runs {k : Nat} {xs : List Section} (h : s.runs k xs) : s.awaitDdr.runs k xs := h

theorem State.startTraining_runs {k : Nat} {xs : List Section} (h : s.runs k xs) : s.startTraining.runs k xs := by
  have hr : ¬ Sheltered NoChannel Reg.ddrStatus := not_sheltered_of_ge (by decide)
  have hshow : Calm NoChannel s s.showDdr := ((Calm.refl s).setFld _ _ _ hr).setFld _ _ _ hr
  rw [State.startTraining_eq]
  split
  · exact State.awaitDdr_runs (h.calm hshow)
  · exact h

theorem State.commitBlank_runs (s : State) (slot : Nat) (img : List Byte) (xs : List Section) : (s.commitBlank slot img xs).runs slot xs := by
  have hgen := (Calm.refl (K := NoChannel) (s.takeImage slot img xs)).loadGenerations img (imageDigest img)
  have hkey : Calm NoChannel (s.takeImage slot img xs) ((s.takeImage slot img xs).loadGenerations img (imageDigest img)).derivePolicy :=
    (hgen.deriveKeypol _).ite hgen
  rw [State.commitBlank_eq]
  exact State.startTraining_runs ((s.takeImage_runs slot img xs).calm hkey.loadKeep.loadControl.loadSolve.loadSense.loadLink)

/-! ### The canaries (R87) -/

/-- Both domains hold their words, and the block's clock shows the cell's. -/
def State.canariesStand (t : State) : Prop :=
  t.pwr.bkLow = 0x5A5AA5A5#32 ∧ t.pwr.bkHigh = 0xA5A55A5A#32 ∧ t.pwr.bmLow = 0x5A5AA5A5#32 ∧ t.pwr.bmHigh = 0xA5A55A5A#32 ∧
    t.rtc.blockSec = t.rtc.cellSec ∧ t.rtc.blockTick = t.rtc.cellTick

theorem State.canariesStand.calm (h : z.canariesStand) (c : Calm K z t) : t.canariesStand := by
  have hwords := c.canaries
  simp only [Prod.mk.injEq] at hwords
  obtain ⟨w1, w2, w3, w4⟩ := hwords
  obtain ⟨h1, h2, h3, h4, h5, h6⟩ := h
  exact ⟨w1.trans h1, w2.trans h2, w3.trans h3, w4.trans h4, by rw [c.rtc, h5], by rw [c.rtc, h6]⟩

/-- The words are written again. -/
def State.writeCanaries (s : State) : State :=
  { s with pwr := { s.pwr with bkLow := 0x5A5AA5A5#32, bkHigh := 0xA5A55A5A#32, bmLow := 0x5A5AA5A5#32, bmHigh := 0xA5A55A5A#32 } }

/-- The cell is no longer trusted. -/
def State.distrustCell (s : State) : State := { s with rtc := { s.rtc with valid := false } }

theorem Calm.brokenCanary (h : Calm K z s) (b : Nat) : Calm K z (s.brokenCanary b) :=
  ((h.setFlag _ _ (not_sheltered (by decide))).detected _).raise _

theorem State.distrustCell_runs {k : Nat} {xs : List Section} (h : s.runs k xs) : s.distrustCell.runs k xs := h
theorem State.writeCanaries_runs {k : Nat} {xs : List Section} (h : s.runs k xs) : s.writeCanaries.runs k xs := h

/-- The words that are not as written are reported. -/
def State.reportCanaries (s : State) : State :=
  let p := s.pwr
  let s := if p.bkLow = 0x5A5AA5A5#32 ∧ p.bkHigh = 0xA5A55A5A#32 then s else s.distrustCell.brokenCanary 0
  if p.bmLow = 0x5A5AA5A5#32 ∧ p.bmHigh = 0xA5A55A5A#32 then s else s.brokenCanary 1

theorem State.checkCanaries_eq (s : State) : s.checkCanaries = s.reportCanaries.writeCanaries.mountClock := rfl

theorem State.reportCanaries_runs {k : Nat} {xs : List Section} (h : s.runs k xs) : s.reportCanaries.runs k xs := by
  unfold State.reportCanaries
  extract_lets p u
  have hu : u.runs k xs := by
    unfold u
    split
    · exact h
    · exact (State.distrustCell_runs h).calm ((Calm.refl (K := NoChannel) _).brokenCanary 0)
  clear_value u
  split
  · exact hu
  · exact hu.calm ((Calm.refl (K := NoChannel) u).brokenCanary 1)

/-- The cell starts anew where it lost its time. -/
def State.restartCell (s : State) : State :=
  if s.rtc.valid then s else { s with rtc := { s.rtc with cellSec := 946684800, cellTick := 0 } }.raise 62

/-- The block's clock takes the cell's time. -/
def State.copyCell (s : State) : State := { s with rtc := { s.rtc with blockSec := s.rtc.cellSec, blockTick := s.rtc.cellTick } }

theorem State.mountClock_eq (s : State) : s.mountClock = s.restartCell.copyCell.setFlag Reg.rtcStatus 31 s.restartCell.rtc.valid := rfl

theorem State.restartCell_runs {k : Nat} {xs : List Section} (h : s.runs k xs) : s.restartCell.runs k xs := by
  unfold State.restartCell
  split
  · exact h
  · exact State.runs.calm (z := { s with rtc := { s.rtc with cellSec := 946684800, cellTick := 0 } }) h
      ((Calm.refl (K := NoChannel) _).raise 62)

theorem State.restartCell_pwr (s : State) : s.restartCell.pwr = s.pwr := by
  unfold State.restartCell
  split
  · rfl
  · exact State.raise_pwr _ _

theorem State.mountClock_calm (s : State) : Calm K s.restartCell.copyCell s.mountClock := by
  rw [State.mountClock_eq]
  exact (Calm.refl s.restartCell.copyCell).setFlag _ _ (not_sheltered_of_ge (by decide))

theorem State.checkCanaries_runs {k : Nat} {xs : List Section} (h : s.runs k xs) : s.checkCanaries.runs k xs := by
  have hw := State.restartCell_runs (State.writeCanaries_runs (State.reportCanaries_runs h))
  have hc := s.reportCanaries.writeCanaries.mountClock_calm (K := NoChannel)
  rw [State.checkCanaries_eq]
  generalize s.reportCanaries.writeCanaries.restartCell = u at hw hc
  have hu : u.copyCell.runs k xs := hw
  exact hu.calm hc

theorem State.checkCanaries_stand (s : State) : s.checkCanaries.canariesStand := by
  have hpwr := s.reportCanaries.writeCanaries.restartCell_pwr
  have hc := s.reportCanaries.writeCanaries.mountClock_calm (K := NoChannel)
  rw [State.checkCanaries_eq]
  generalize s.reportCanaries.writeCanaries.restartCell = u at hpwr hc
  have hu : u.copyCell.canariesStand :=
    ⟨congrArg PowerState.bkLow hpwr, congrArg PowerState.bkHigh hpwr, congrArg PowerState.bmLow hpwr, congrArg PowerState.bmHigh hpwr, rfl, rfl⟩
  exact hu.calm hc

/-! ### The load (R123, R124, R127) -/

/-- The Blank loaded is not the first of the order. -/
def State.markFallback (s : State) (b : Bool) : State := { s with chip := { s.chip with fallback := b } }

/-- What the load makes of the slots tried. -/
def State.endLoad (order : List Nat) : State × Option (Nat × List Byte × List Section) → State
  | (t, none) => t.haltBoot Boot.blank
  | (t, some (k, img, xs)) => ((t.markFallback (order.head? != some k)).commitBlank k img xs).checkCanaries.tell

theorem State.haltBoot_memBlk (s : State) (fail : Nat) : (s.haltBoot fail).mem = s.mem ∧ (s.haltBoot fail).blk = s.blk := ⟨rfl, rfl⟩

theorem exec_blankLoad (hm : s.mode = Mode.mount) (hf : s.chip.firmwareOk = true) (hh : s.haltedInMount = false) (hl : s.chip.blankLoaded = false) :
    exec .blankLoad s = .next (State.endLoad s.slotOrder (s.tryslots s.slotOrder)) := by
  show execBlankLoad s = _
  rw [execBlankLoad, if_neg (by rw [hm, hf, hh, hl]; decide)]
  generalize s.tryslots s.slotOrder = found
  obtain ⟨u, found⟩ := found
  cases found with
  | none => rw [State.endLoad]
  | some x =>
    rw [State.endLoad]
    rfl

theorem blankLoad_loads (hm : s.mode = Mode.mount) (hf : s.chip.firmwareOk = true) (hh : s.haltedInMount = false) (hl : s.chip.blankLoaded = false) :
    Completes .blankLoad s fun t => match (s.tryslots s.slotOrder).2 with
      | none => t.bootFail = Boot.blank ∧ t.blk = s.blk ∧ t.mem = s.mem
      | some (k, _, xs) => t.blk.running = xs ∧ t.blk.full = xs ∧ t.chip.blankLoaded = true ∧ t.fld Reg.sysBoot 2 0 = k % 8 ∧
          t.pwr.bkLow = 0x5A5AA5A5#32 ∧ t.pwr.bkHigh = 0xA5A55A5A#32 ∧ t.pwr.bmLow = 0x5A5AA5A5#32 ∧ t.pwr.bmHigh = 0xA5A55A5A#32 ∧
          t.rtc.blockSec = t.rtc.cellSec ∧ t.rtc.blockTick = t.rtc.cellTick := by
  have e := exec_blankLoad hm hf hh hl
  obtain ⟨hmem, hblk⟩ := s.tryslots_memBlk s.slotOrder
  generalize s.tryslots s.slotOrder = found at e hmem hblk ⊢
  obtain ⟨u, found⟩ := found
  cases found with
  | none =>
    rw [State.endLoad] at e
    obtain ⟨-, hfail, -, -⟩ := u.haltBoot_shows (fail := Boot.blank) (by decide)
    obtain ⟨hmem', hblk'⟩ := u.haltBoot_memBlk Boot.blank
    exact ⟨_, e, hfail, hblk'.trans hblk, hmem'.trans hmem⟩
  | some x =>
    obtain ⟨k, img, xs⟩ := x
    rw [State.endLoad] at e
    generalize u.markFallback (s.slotOrder.head? != some k) = u at e
    have hr := u.commitBlank_runs k img xs
    generalize u.commitBlank k img xs = v at e hr
    have hc := v.checkCanaries_stand
    have hr := State.checkCanaries_runs hr
    generalize v.checkCanaries = w at e hr hc
    have ht : Calm NoChannel w w.tell := (Calm.refl w).tell
    obtain ⟨h1, h2, h3, h4⟩ := hr.calm ht
    obtain ⟨c1, c2, c3, c4, c5, c6⟩ := hc.calm ht
    generalize w.tell = t at e h1 h2 h3 h4 c1 c2 c3 c4 c5 c6
    exact ⟨t, e, h1, h2, h3, h4, c1, c2, c3, c4, c5, c6⟩

/-! ### The end of MOUNT (R113) -/

theorem Tab.get_keep {α : Type} [Inhabited α] (t : Tab α) (f : Nat → Bool) {k : Nat} (h : f k = true) : (t.keep f).get k = t.get k := by
  have e : cellsFind k (t.cells.filter fun c => f c.1) = cellsFind k t.cells := (cellsFind_filter f k t.cells).trans (if_pos h)
  exact congrArg (·.getD default) e

/-- What stands until the part leaves MOUNT: its registers in SYS and HNG, the member, the configuration, and its role. -/
structure SameRole (z t : State) : Prop where
  regs : RegsKept (Sheltered NoChannel) z t
  variant : t.variant = z.variant
  blk : t.blk = z.blk
  role : t.chip.roleActive = z.chip.roleActive

theorem SameRole.calm (h : SameRole z s) (c : Calm NoChannel s t) : SameRole z t :=
  ⟨h.regs.trans c.regs, c.variant.trans h.variant, c.blk.trans h.blk, by rw [c.chip, h.role]⟩

/-- The registers sheltered are no copies kept per initiator. -/
theorem Sheltered.lt {q : Nat} (h : Sheltered NoChannel q) : q < 0x80000 := by
  obtain ⟨-, h⟩ | h | h | ⟨_, _, h, _⟩ := h
  · omega
  · rw [h]; decide
  · rw [h]; decide
  · exact absurd h id

theorem State.loadTime_sameRole (s : State) : SameRole s s.loadTime :=
  ⟨(RegsKept.refl s).setReg _ (not_sheltered_of_ge (by decide)), rfl, rfl, rfl⟩

theorem State.dropSnapshots_sameRole (s : State) : SameRole s s.dropSnapshots := by
  refine ⟨fun q hq => Tab.get_keep _ _ ?_, rfl, rfl, rfl⟩
  have hlt := hq.lt
  have hbank : decide (2 ^ 32 ≤ q) = false := decide_eq_false (by omega)
  rw [hbank, Bool.false_and, Bool.not_false]

theorem SameRole.trans (h : SameRole z s) (k : SameRole s t) : SameRole z t :=
  ⟨h.regs.trans k.regs, k.variant.trans h.variant, k.blk.trans h.blk, k.role.trans h.role⟩

/-- AVS acts from the end of MOUNT on. -/
def State.startAvs (s : State) : State := { s with pwr := { s.pwr with avsControl := true } }

/-- The engines that start from what they kept. -/
def State.restoreEngines (s : State) (temp : Int) : State :=
  let s := (List.range 8).foldl State.startSpindle s
  let s := (s.setFld Reg.adpTemp 15 0 (unsigned 16 temp)).adpRestore
  let s := (List.range s.variant.lathes).foldl State.clearWarm s
  s.metRestore.loadJournal.startLinks.redriveLatch.startPorts.startAvs

/-- The axes stand, their position lost. -/
def State.startAxes (s : State) : State :=
  ((List.range 16).foldl (fun s n => s.setAxis n { s.axis n with since := s.tick }) s).axesLost.setFlag Reg.pmuCtrl 0 true

theorem State.startBlocks_eq (s : State) (temp : Int) : s.startBlocks temp = (s.loadTime.dropSnapshots.restoreEngines temp).startAxes := rfl

theorem Calm.startAvs (h : Calm K z s) : Calm K z s.startAvs := h.setPwr rfl

theorem Calm.restoreEngines (h : Calm NoChannel z s) (temp : Int) : Calm NoChannel z (s.restoreEngines temp) := by
  unfold State.restoreEngines
  extract_lets u v w
  have hu : Calm NoChannel z u := h.foldl fun _ n _ hy => hy.startSpindle n
  have hv : Calm NoChannel z v := (hu.setFld _ _ _ (not_sheltered_of_ge (by decide))).adpRestore
  have hw : Calm NoChannel z w := hv.foldl fun _ n _ hy => hy.clearWarm n
  exact hw.metRestore.loadJournal.startLinks.redriveLatch.startPorts.startAvs

theorem Calm.startAxes (h : Calm K z s) : Calm K z s.startAxes := by
  have hu := h.foldl (l := List.range 16) (f := fun s n => s.setAxis n { s.axis n with since := s.tick }) fun _ n _ hy => hy.setAxis n _
  exact hu.axesLost.setFlag _ _ (not_sheltered (by decide))

theorem State.startBlocks_sameRole (s : State) (temp : Int) : SameRole s (s.startBlocks temp) := by
  rw [State.startBlocks_eq]
  exact (s.loadTime_sameRole.trans s.loadTime.dropSnapshots_sameRole).calm (((Calm.refl _).restoreEngines temp).startAxes)

/-- The mode that a part enters at the end of MOUNT. -/
def State.modeAfterMount (s : State) : Nat :=
  if s.variant.hasDdr && s.ddrCap != 0 && !s.flag Reg.sysMemsize 31 then Mode.safe
  else if s.chip.roleActive && s.claim != 0 then Mode.run else Mode.standby

theorem SameRole.modeAfterMount (h : SameRole z t) : t.modeAfterMount = z.modeAfterMount := by
  have hflag : t.flag Reg.sysMemsize 31 = z.flag Reg.sysMemsize 31 := by
    rw [State.flag, h.regs _ (sheltered_sys (by decide) (by decide)), State.flag]
  have hclaim : t.claim = z.claim := by rw [State.claim, State.num, h.regs _ (sheltered_claim _), State.claim, State.num]
  have hcap : t.ddrCap = z.ddrCap := congrArg (fun b : BlkState => u8 (bodyOf b.running Ty.struct Region.link 0) 0x480) h.blk
  rw [State.modeAfterMount, hflag, hclaim, hcap, h.variant, h.role, State.modeAfterMount]

theorem State.enterRun_mode (s : State) (h : s.mode = Mode.mount) : (s.setMode Mode.run).showCores.dispatchAll.tell.mode = Mode.run := by
  obtain ⟨hmode, -, -⟩ := State.setMode_shows (s := s) (m := Mode.run) (by decide) (by rw [h]; decide)
  exact (((Calm.refl (K := NoChannel) (s.setMode Mode.run)).showCores.dispatchAll).tell).mode.trans hmode

theorem State.enterStandby_mode (s : State) (h : s.mode = Mode.mount) :
    ((s.adpStandby.setMode Mode.standby).cancelLathes.gateTasks.gateAxes.cleGate.selfRefresh true).tell.mode = Mode.standby := by
  have hs : s.adpStandby.mode = Mode.mount := ((Calm.refl (K := NoChannel) s).adpStandby).mode.trans h
  obtain ⟨hmode, -, -⟩ := State.setMode_shows (s := s.adpStandby) (m := Mode.standby) (by decide) (by rw [hs]; decide)
  generalize s.adpStandby.setMode Mode.standby = u at hmode
  have hrest : u.controlRuns = false := by rw [State.controlRuns, hmode]; decide
  exact (((((Calm.refl (K := NoChannel) u).cancelLathes.gateTasks hrest).gateAxes.cleGate).selfRefresh true).tell).mode.trans hmode

theorem State.leaveMount_mode (s : State) (h : s.mode = Mode.mount) : s.leaveMount.mode = s.modeAfterMount := by
  unfold State.leaveMount State.modeAfterMount
  split
  · exact (State.enterSafe_shows (by rw [h]; decide) (by rw [State.awake, h]; decide)).1
  · split
    · exact s.enterRun_mode h
    · exact s.enterStandby_mode h

/-- A rail that is down fences Link; the mode stands. -/
theorem State.checkRails_mode (s : State) : s.checkRails.mode = s.mode := by
  unfold State.checkRails
  split
  · by_cases hf : s.fenced Region.link = false ∧ s.awake = true
    · exact congrArg (field · 3 0) ((State.fence_fences (by decide) hf.1 hf.2).regs Reg.sysMode ⟨apart_sys (by decide), by decide⟩)
    · rw [State.fence, if_pos]
      rw [not_and_or] at hf
      simp only [Bool.not_eq_false, Bool.not_eq_true] at hf
      exact .inr hf
  · rfl

theorem mountComplete_leaves (temp : Int) (hm : s.mode = Mode.mount) (hl : s.chip.blankLoaded = true) (hr : s.chip.roleKnown = true)
    (hh : s.haltedInMount = false) (hd : s.chip.ddrPending = false) : Completes (.mountComplete temp) s fun t => t.mode = s.modeAfterMount := by
  have hsame := s.startBlocks_sameRole temp
  have hmount : (s.startBlocks temp).mode = Mode.mount := by
    rw [← hm]
    exact congrArg (field · 3 0) (hsame.regs Reg.sysMode (sheltered_sys (by decide) (by decide)))
  have hleave := ((s.startBlocks temp).leaveMount_mode hmount).trans hsame.modeAfterMount
  obtain ⟨u, hu⟩ : ∃ u, (s.startBlocks temp).leaveMount = u := ⟨_, rfl⟩
  have e : exec (.mountComplete temp) s = .next (if u.chip.fallback && u.mode != Mode.safe then u.raise 19 else u).checkRails := by
    show execMountComplete temp s = _
    rw [execMountComplete, if_neg (by rw [hm, hl, hr, hh, hd]; decide), ← hu]
  refine ⟨_, e, (State.checkRails_mode _).trans ?_⟩
  rw [hu] at hleave
  split
  · rw [State.raise_mode, hleave]
  · exact hleave

/-- Settles O14: reset release and the role by their cases, the load by what the configuration's load leaves alone, and the end of MOUNT by what the
blocks' start leaves alone. -/
theorem mountRunsFromReleaseToTheModeOfTheRole : Obligations.MountRunsFromReleaseToTheModeOfTheRole := by
  refine ⟨⟨fun s hm => ⟨fun hr => ?_, roleDecision_decides hm⟩, fun s => blankLoad_loads⟩, fun s temp => mountComplete_leaves temp⟩
  exact ⟨resetRelease_puf hm hr, resetRelease_firmware hm hr, resetRelease_runs hm hr⟩

end Sys2Proof.Machine
end

section
/-! Slot commands (R128 to R133): STORE and INVALIDATE taken, refused or started, and the completion of the command that runs. -/
namespace Sys2Proof.Machine

variable {o s t : State} {w : Who} {v : Word}

/-- An admitted write that the block refuses with a code is a bus error. -/
theorem State.gatedOr_error {off e : Nat} {take : State → Except Nat State} (h : o.admits w off v s) (k : take s = .error e) :
    o.gatedOr w off v take = s.busError w (Addr.regs + off) e 0 := by
  obtain ⟨h, g⟩ := h
  simp only [State.writable, Bool.and_eq_true, Bool.not_eq_true', beq_iff_eq] at h
  simp only [State.gatedOr, h.1, h.2, Bool.false_eq_true, ↓reduceIte]
  refine (State.arbitrated_ok o _ _ s g).trans ?_
  simp [k]

/-! ### BLK.CMD is written -/

/-- STORE and INVALIDATE are one write of BLK.CMD. -/
theorem exec_slotCommand {c : Instr} (hc : c ∈ [Instr.store w v, .invalidate w v]) : exec c o = .next (o.blankCommand w v) := by
  rw [List.mem_pair] at hc
  obtain rfl | rfl := hc <;> rfl

variable (h : o.admits w Reg.blkCmd v s)
include h

theorem State.blankCommand_busy (hb : s.flag Reg.blkCmdstat 31 = true) :
    o.blankCommand w v = s.busError w (Addr.regs + Reg.blkCmd) Code.denied 0 := State.gatedOr_error h (if_pos hb)

theorem State.blankCommand_keyless (hb : s.flag Reg.blkCmdstat 31 = false) (hk : field v 31 16 ≠ 0x4B42) : o.blankCommand w v = s.replyOk := by
  refine State.gatedOr_ok o w _ v _ s s h ?_
  simp [hb, hk]

theorem State.blankCommand_starts (hb : s.flag Reg.blkCmdstat 31 = false) (hk : field v 31 16 = 0x4B42) :
    o.blankCommand w v = (s.startCommand v).replyOk := by
  refine State.gatedOr_ok o w _ v _ s _ h ?_
  simp [hb, hk]

omit h

/-! ### The command starts -/

/-- The command that runs. -/
def State.setCommand (s : State) (k : Option SlotCommand) : State := { s with blk := { s.blk with cmd := k } }

theorem State.setCommand_slotBase (s : State) (k : Option SlotCommand) (slot : Nat) : (s.setCommand k).slotBase slot = s.slotBase slot := rfl

/-- A command is BUSY. -/
def State.busy (s : State) : State := s.setFlag Reg.blkCmdstat 31 true

@[simp] theorem State.busy_variant (s : State) : s.busy.variant = s.variant := s.setReg_variant _ _
@[simp] theorem State.busy_mem (s : State) : s.busy.mem = s.mem := s.setReg_mem _ _
@[simp] theorem State.busy_ddrGen (s : State) : s.busy.ddrGen = s.ddrGen := s.setReg_ddrGen _ _
@[simp] theorem State.busy_poison (s : State) : s.busy.poison = s.poison := s.setReg_poison _ _
@[simp] theorem State.busy_key (s : State) : s.busy.key = s.key := s.setReg_key _ _
@[simp] theorem State.busy_blk (s : State) : s.busy.blk = s.blk := s.setReg_blk _ _
theorem State.busy_fld (s : State) {q : Nat} (hi lo : Nat) (h : q ≠ Reg.blkCmdstat) : s.busy.fld q hi lo = s.fld q hi lo :=
  s.fld_setReg_ne _ hi lo h
theorem State.busy_flag (s : State) {q : Nat} (b : Nat) (h : q ≠ Reg.blkCmdstat) : s.busy.flag q b = s.flag q b := s.flag_setReg_ne _ b h
theorem State.busy_shows (s : State) : s.busy.flag Reg.blkCmdstat 31 = true := s.flag_setFlag _ 31 true (by decide)
@[simp] theorem State.busy_bytes (s : State) (a n : Nat) : s.busy.bytes a n = s.bytes a n := by simp [State.bytes]
@[simp] theorem State.busy_slotBase (s : State) (slot : Nat) : s.busy.slotBase slot = s.slotBase slot := by simp [State.slotBase]

/-- The command a write of BLK.CMD names, of a source and its length. -/
def namedCommand (v : Word) (src len : Nat) : SlotCommand :=
  { op := field v 1 0, slot := field v 6 4, src := src, len := len, code := 0, image := [] }

/-- The refusals look at BLK.STATUS, the lifecycle, the source's place and the poisoned words alone. -/
theorem State.slotRefusal_congr {op slot src len : Nat} (hst : t.fld Reg.blkStatus 2 0 = s.fld Reg.blkStatus 2 0) (hl : t.life = s.life)
    (ho : t.sourceOk src len = s.sourceOk src len) (hb : t.badWordIn src len = s.badWordIn src len) :
    t.slotRefusal op slot src len = s.slotRefusal op slot src len := by
  unfold State.slotRefusal
  rw [hst, hl, ho, hb]

theorem State.busy_slotRefusal (s : State) (op slot src len : Nat) : s.busy.slotRefusal op slot src len = s.slotRefusal op slot src len := by
  have habs (a : Nat) : s.busy.memAbsent a = s.memAbsent a := by
    unfold State.memAbsent
    rw [s.busy_variant, s.busy_fld _ _ (by decide), s.busy_flag _ (by decide)]
  refine State.slotRefusal_congr (s.busy_fld _ _ (by decide)) (s.busy_fld _ _ (by decide)) ?_ ?_
  · unfold State.sourceOk
    rw [s.busy_variant, habs, habs, s.busy_flag _ (by decide)]
  · rw [State.badWordIn, s.busy_poison, State.badWordIn]

/-- The checks of a STORE look at the keys, the lifecycle and the member alone. -/
theorem State.checkImage_store_congr (hk : t.key = s.key) (hl : t.life = s.life) (hv : t.variant = s.variant) (limit len : Nat) (img : List Byte) :
    t.checkImage (.store limit len) img = s.checkImage (.store limit len) img := by
  have hslot : t.keySlot = s.keySlot := by
    funext n
    rw [State.keySlot, hk, State.keySlot]
  have hsign : t.signFail img = s.signFail img := by
    unfold State.signFail State.blankKeyOk
    rw [hslot, hl]
  unfold State.checkImage
  dsimp only
  rw [hsign, hslot, hv]

theorem State.busy_checkImage (s : State) (limit len : Nat) (img : List Byte) :
    s.busy.checkImage (.store limit len) img = s.checkImage (.store limit len) img :=
  State.checkImage_store_congr s.busy_key (s.busy_fld _ _ (by decide)) s.busy_variant limit len img

section
variable {src len : Nat} (hsrc : s.num Reg.blkSrcLo + s.num Reg.blkSrcHi * 2 ^ 32 = src) (hlen : s.num Reg.blkSrcLen = len)
include hsrc hlen

/-- A command that ends without checks. -/
theorem State.startCommand_refused {code : Nat} (hr : s.slotRefusal (field v 1 0) (field v 6 4) src len = some code) :
    s.startCommand v = s.busy.setCommand (some { namedCommand v src len with code := code }) := by
  have hr := (s.busy_slotRefusal _ _ _ _).trans hr
  unfold State.startCommand
  dsimp only
  rw [hsrc, hlen, ← State.busy, hr]
  generalize s.busy = u
  rfl

/-- R132. -/
theorem State.startCommand_invalidates (hr : s.slotRefusal (field v 1 0) (field v 6 4) src len = none) (hop : field v 1 0 = 2) :
    s.startCommand v = (s.busy.setCommand (some (namedCommand v src len))).poke (s.slotBase (field v 6 4)) (leBytes 64 0) := by
  have hr := (s.busy_slotRefusal _ _ _ _).trans hr
  rw [← s.busy_slotBase]
  unfold State.startCommand
  dsimp only
  rw [hsrc, hlen, ← State.busy, hr]
  generalize s.busy = u
  exact if_pos hop

theorem State.startCommand_failsChecks {e : CheckFail} (hr : s.slotRefusal (field v 1 0) (field v 6 4) src len = none) (hop : field v 1 0 = 1)
    (he : s.checkImage (.store s.variant.mramS len) (s.bytes src (min len s.variant.mramS)) = .error e) :
    s.startCommand v = (s.busy.setCommand (some { namedCommand v src len with code := e.code })).noteSignature Who.keeper e.code := by
  have hr := (s.busy_slotRefusal _ _ _ _).trans hr
  have hne : field v 1 0 ≠ 2 := by omega
  rw [← s.busy_checkImage, ← s.busy_variant, ← s.busy_bytes] at he
  unfold State.startCommand
  dsimp only
  rw [hsrc, hlen, ← State.busy, hr]
  dsimp only
  rw [if_neg hne, he]
  generalize s.busy = u
  rfl

/-- R130, R133: the image but its first 64 bytes, which are zeroed. -/
theorem State.startCommand_stores {xs : List Section} {copy img : List Byte} (hr : s.slotRefusal (field v 1 0) (field v 6 4) src len = none)
    (hop : field v 1 0 = 1) (hcopy : s.bytes src (min len s.variant.mramS) = copy)
    (he : s.checkImage (.store s.variant.mramS len) copy = .ok xs) (himg : slice copy 0 (u32 copy 0xC) = img) :
    s.startCommand v = ((s.busy.setCommand (some { namedCommand v src len with image := img })).poke (s.slotBase (field v 6 4)) (leBytes 64 0)).poke
      (s.slotBase (field v 6 4) + 64) (img.drop 64) := by
  have hr := (s.busy_slotRefusal _ _ _ _).trans hr
  have hne : field v 1 0 ≠ 2 := by omega
  rw [← s.busy_checkImage, ← s.busy_variant] at he
  rw [← s.busy_bytes, ← s.busy_variant] at hcopy
  rw [← s.busy_slotBase, ← s.busy.setCommand_slotBase (some { namedCommand v src len with image := img })]
  unfold State.startCommand
  dsimp only
  rw [hsrc, hlen, ← State.busy, hr]
  dsimp only
  rw [if_neg hne, hcopy, he, himg]
  generalize s.busy = u
  rfl

end

/-! ### What the start shows -/

theorem OnlyRegs.setCommand {rs : List Nat} (h : OnlyRegs s t rs) (k : Option SlotCommand) : OnlyRegs (s.setCommand k) (t.setCommand k) rs :=
  ⟨congrArg (fun x => x.setCommand k) h.1, h.2⟩

theorem OnlyRegs.busy (s : State) : OnlyRegs s s.busy [Reg.blkCmdstat] := (OnlyRegs.refl s _).setFlag (by simp) 31 true

theorem State.setCommand_flag (s : State) (k : Option SlotCommand) (q b : Nat) : (s.setCommand k).flag q b = s.flag q b := rfl
theorem State.setCommand_blk (s : State) (k : Option SlotCommand) : (s.setCommand k).blk = { s.blk with cmd := k } := rfl
theorem SameMemory.setCommand (h : SameMemory s t) (k : Option SlotCommand) : SameMemory s (t.setCommand k) := ⟨h.mem, h.ddrGen, h.poison, h.slots⟩

theorem State.replyOk_bytes (s : State) (a n : Nat) : s.replyOk.bytes a n = s.bytes a n := rfl
theorem State.replyOk_blk (s : State) : s.replyOk.blk = s.blk := rfl
theorem MemoryKept.replyOk {lo hi : Nat} (h : MemoryKept s t lo hi) : MemoryKept s t.replyOk lo hi := h

/-- A command is BUSY, and memory stands. -/
theorem State.busy_setCommand_shows (s : State) (k : Option SlotCommand) :
    (s.busy.setCommand k).flag Reg.blkCmdstat 31 = true ∧ (s.busy.setCommand k).blk = { s.blk with cmd := k } ∧
      SameMemory s (s.busy.setCommand k) ∧ OnlyRegs { s with blk := (s.busy.setCommand k).blk } (s.busy.setCommand k) [Reg.blkCmdstat] := by
  have hblk : (s.busy.setCommand k).blk = { s.blk with cmd := k } := by rw [State.setCommand_blk, State.busy_blk]
  refine ⟨(s.busy.setCommand_flag k _ _).trans s.busy_shows, hblk, ((SameMemory.refl s).setReg _ _).setCommand k, ?_⟩
  rw [hblk]
  exact (OnlyRegs.busy s).setCommand k

/-- Memory is written, and nothing else that `OnlyRegs` watches changes. -/
theorem OnlyRegs.poke {rs : List Nat} (h : OnlyRegs s t rs) (a : Nat) (bs : List Byte) :
    OnlyRegs { s with mem := (t.poke a bs).mem, poison := (t.poke a bs).poison } (t.poke a bs) rs :=
  ⟨congrArg (fun x : State => { x with mem := (t.poke a bs).mem, poison := (t.poke a bs).poison }) h.1, h.2⟩

theorem State.poke_kept (s : State) (a : Nat) (bs : List Byte) {hi : Nat} (hi' : a + bs.length ≤ hi) : MemoryKept s (s.poke a bs) a hi :=
  fun x hx => s.byte_poke_outside a x bs (by omega)

/-- A refused signature is recorded; the registers of BLK stand. -/
theorem State.noteSignature_flag (s : State) (w : Who) (code b : Nat) :
    (s.noteSignature w code).flag Reg.blkCmdstat b = s.flag Reg.blkCmdstat b := by
  unfold State.noteSignature
  split
  · rw [State.flag, State.detected_reg _ _ _ (by simp [inFlt, Reg.blkCmdstat]), State.flag]
  · rfl

section
variable {src len : Nat} (h : o.admits w Reg.blkCmd v s) (hb : s.flag Reg.blkCmdstat 31 = false) (hk : field v 31 16 = 0x4B42)
  (hsrc : s.num Reg.blkSrcLo + s.num Reg.blkSrcHi * 2 ^ 32 = src) (hlen : s.num Reg.blkSrcLen = len)
include h hb hk hsrc hlen

theorem slotCommand_refused {code : Nat} {c : Instr} (hr : s.slotRefusal (field v 1 0) (field v 6 4) src len = some code)
    (hc : c ∈ [Instr.store w v, .invalidate w v]) :
    Completes c o fun t => Acked t ∧ t.flag Reg.blkCmdstat 31 = true ∧ OnlyRegs { s with blk := t.blk } t [Reg.blkCmdstat] ∧
      ∃ k, t.blk = { s.blk with cmd := some k } ∧ k.code = code ∧ k.image = [] := by
  refine ⟨_, exec_slotCommand hc, ?_⟩
  rw [State.blankCommand_starts h hb hk, State.startCommand_refused hsrc hlen hr]
  obtain ⟨hflag, hblk, -, honly⟩ := s.busy_setCommand_shows (some { namedCommand v src len with code := code })
  generalize s.busy.setCommand (some { namedCommand v src len with code := code }) = u at hflag hblk honly ⊢
  exact ⟨.replyOk _, (u.replyOk_flag _ _).trans hflag, honly.replyOk, _, u.replyOk_blk.trans hblk, rfl, rfl⟩

theorem invalidate_zeroes (hr : s.slotRefusal (field v 1 0) (field v 6 4) src len = none) (hop : field v 1 0 = 2) :
    Completes (.invalidate w v) o fun t => Acked t ∧ t.flag Reg.blkCmdstat 31 = true ∧
      t.bytes (s.slotBase (field v 6 4)) 64 = leBytes 64 0 ∧
      MemoryKept s t (s.slotBase (field v 6 4)) (s.slotBase (field v 6 4) + 64) ∧
      OnlyRegs { s with blk := t.blk, mem := t.mem, poison := t.poison } t [Reg.blkCmdstat] := by
  refine ⟨_, exec_slotCommand (v := v) (w := w) (by simp), ?_⟩
  rw [State.blankCommand_starts h hb hk, State.startCommand_invalidates hsrc hlen hr hop]
  obtain ⟨hflag, -, hsame, honly⟩ := s.busy_setCommand_shows (some (namedCommand v src len))
  generalize s.busy.setCommand (some (namedCommand v src len)) = u at hflag hsame honly ⊢
  have hbytes := u.bytes_poke (s.slotBase (field v 6 4)) (leBytes 64 0)
  have hkept : MemoryKept s (u.poke (s.slotBase (field v 6 4)) (leBytes 64 0)) _ _ := .of_poke hsame rfl
  rw [length_leBytes] at hbytes hkept
  refine ⟨.replyOk _, ?_, (State.replyOk_bytes _ _ _).trans hbytes, hkept.replyOk, (honly.poke _ _).replyOk⟩
  rw [State.replyOk_flag, State.poke_flag, hflag]

theorem store_fails {e : CheckFail} (hr : s.slotRefusal (field v 1 0) (field v 6 4) src len = none) (hop : field v 1 0 = 1)
    (he : s.checkImage (.store s.variant.mramS len) (s.bytes src (min len s.variant.mramS)) = .error e) :
    Completes (.store w v) o fun t => Acked t ∧ t.flag Reg.blkCmdstat 31 = true ∧
      (∃ k, t.blk.cmd = some k ∧ k.code = e.code ∧ k.image = []) ∧ t.mem = s.mem := by
  refine ⟨_, exec_slotCommand (v := v) (w := w) (by simp), ?_⟩
  rw [State.blankCommand_starts h hb hk, State.startCommand_failsChecks hsrc hlen hr hop he]
  obtain ⟨hflag, hblk, hsame, -⟩ := s.busy_setCommand_shows (some { namedCommand v src len with code := e.code })
  generalize s.busy.setCommand (some { namedCommand v src len with code := e.code }) = u at hflag hblk hsame ⊢
  obtain ⟨hm, hb⟩ := u.noteSignature_memBlk Who.keeper e.code
  refine ⟨.replyOk _, ?_, ⟨_, congrArg BlkState.cmd ((State.replyOk_blk _).trans (hb.trans hblk)), rfl, rfl⟩,
    (State.replyOk_mem _).trans (hm.trans hsame.mem)⟩
  rw [State.replyOk_flag, State.noteSignature_flag, hflag]

theorem store_writes {xs : List Section} {copy : List Byte} (hr : s.slotRefusal (field v 1 0) (field v 6 4) src len = none)
    (hop : field v 1 0 = 1) (hcopy : s.bytes src (min len s.variant.mramS) = copy)
    (he : s.checkImage (.store s.variant.mramS len) copy = .ok xs) :
    Completes (.store w v) o fun t => Acked t ∧ t.flag Reg.blkCmdstat 31 = true ∧ ∃ k, t.blk.cmd = some k ∧ k.code = 0 ∧
      k.image = slice copy 0 (u32 copy 0xC) ∧ t.bytes (s.slotBase (field v 6 4)) 64 = leBytes 64 0 ∧
      t.bytes (s.slotBase (field v 6 4) + 64) (k.image.length - 64) = k.image.drop 64 ∧
      MemoryKept s t (s.slotBase (field v 6 4)) (s.slotBase (field v 6 4) + max 64 k.image.length) := by
  obtain ⟨img, himg⟩ : ∃ img, slice copy 0 (u32 copy 0xC) = img := ⟨_, rfl⟩
  refine ⟨_, exec_slotCommand (v := v) (w := w) (by simp), ?_⟩
  rw [State.blankCommand_starts h hb hk, State.startCommand_stores hsrc hlen hr hop hcopy he himg]
  generalize s.slotBase (field v 6 4) = base
  obtain ⟨k, hk, hcode, rfl⟩ : ∃ k : SlotCommand, { namedCommand v src len with image := img } = k ∧ k.code = 0 ∧ k.image = img :=
    ⟨_, rfl, rfl, rfl⟩
  rw [hk]
  obtain ⟨hflag, hblk, hsame, -⟩ := s.busy_setCommand_shows (some k)
  generalize s.busy.setCommand (some k) = u at hflag hblk hsame ⊢
  have hcmd : u.blk.cmd = some k := by rw [hblk]
  have hzero := u.bytes_poke base (leBytes 64 0)
  have himage := (u.poke base (leBytes 64 0)).bytes_poke (base + 64) (k.image.drop 64)
  rw [length_leBytes] at hzero
  rw [List.length_drop] at himage
  refine ⟨.replyOk _, ?_, k, hcmd, hcode, himg.symm, ?_, (State.replyOk_bytes _ _ _).trans himage, MemoryKept.replyOk fun x hx => ?_⟩
  · rw [State.replyOk_flag, State.poke_flag, State.poke_flag, hflag]
  · rw [State.replyOk_bytes]
    refine Eq.trans (State.bytes_congr fun x _ hx => ?_) hzero
    exact State.byte_poke_outside _ _ _ _ (by omega)
  · rw [State.byte_poke_outside _ _ _ _ (by rw [List.length_drop]; omega), State.byte_poke_outside _ _ _ _ (by rw [length_leBytes]; omega),
      hsame.byte]

end

/-! ### The command completes -/

/-- The first 64 bytes of an image are written last (R133). -/
def State.finishImage (s : State) (a : Nat) : List Byte → State
  | [] => s
  | img => s.poke a (slice img 0 64)

theorem length_slice (bs : List Byte) (off n : Nat) : (slice bs off n).length = n := by simp [slice]

theorem State.finishImage_shows (s : State) (a : Nat) (img : List Byte) :
    s.finishImage a img = { s with mem := (s.finishImage a img).mem, poison := (s.finishImage a img).poison } ∧
      MemoryKept s (s.finishImage a img) a (a + 64) ∧ (img = [] → (s.finishImage a img).mem = s.mem) ∧
      (img ≠ [] → (s.finishImage a img).bytes a 64 = slice img 0 64) := by
  cases img with
  | nil => exact ⟨rfl, fun _ _ => rfl, fun _ => rfl, fun h => absurd rfl h⟩
  | cons b bs =>
    have hbytes := s.bytes_poke a (slice (b :: bs) 0 64)
    rw [length_slice] at hbytes
    exact ⟨rfl, s.poke_kept a _ (by rw [length_slice]), fun h => absurd h (List.cons_ne_nil _ _), fun _ => hbytes⟩

theorem exec_cmdDone {k : SlotCommand} (hk : s.blk.cmd = some k) : exec .cmdDone s =
    .next (((State.finishImage { s with blk := { s.blk with cmd := none } } (s.slotBase k.slot) k.image).setNum Reg.blkCmdstat k.code).raise 18) := by
  show execCmdDone s = _
  unfold execCmdDone
  rw [hk]
  obtain ⟨op, slot, src, len, code, image⟩ := k
  cases image <;> rfl

theorem cmdDone_completes {k : SlotCommand} (hk : s.blk.cmd = some k) (ha : s.awake = true) : Completes .cmdDone s fun t =>
    t.blk = { s.blk with cmd := none } ∧ t.num Reg.blkCmdstat = k.code % 2 ^ 32 ∧ t.pendingSource 18 = true ∧
      OnlyRegs { s with blk := t.blk, mem := t.mem, poison := t.poison } t [Reg.blkCmdstat] ∧
      MemoryKept s t (s.slotBase k.slot) (s.slotBase k.slot + 64) ∧ (k.image = [] → t.mem = s.mem) ∧
      (k.image ≠ [] → t.bytes (s.slotBase k.slot) 64 = slice k.image 0 64) := by
  refine ⟨_, exec_cmdDone hk, ?_⟩
  obtain ⟨honly, hkept, hnone, hsome⟩ := State.finishImage_shows { s with blk := { s.blk with cmd := none } } (s.slotBase k.slot) k.image
  generalize State.finishImage { s with blk := { s.blk with cmd := none } } (s.slotBase k.slot) k.image = u at honly hkept hnone hsome ⊢
  have hawake : (u.setNum Reg.blkCmdstat k.code).awake = true := by
    rw [State.awake, State.setNum, State.mode_setReg (by decide), honly]
    exact ha
  have hnum : ((u.setNum Reg.blkCmdstat k.code).raise 18).num Reg.blkCmdstat = k.code % 2 ^ 32 := by
    rw [State.num, State.raise_reg, State.setNum, State.reg_setReg_same, BitVec.toNat_ofNat]
  have hrise := State.raise_rises (u.setNum Reg.blkCmdstat k.code) 18 (State.canRise_low (by decide) hawake)
  have hsame : SameMemory u ((u.setNum Reg.blkCmdstat k.code).raise 18) := ((SameMemory.refl u).setReg _ _).raise 18
  have hregs : OnlyRegs u ((u.setNum Reg.blkCmdstat k.code).raise 18) [Reg.blkCmdstat] := ((OnlyRegs.refl u _).setReg (by simp) _).raise 18
  generalize (u.setNum Reg.blkCmdstat k.code).raise 18 = t at hnum hrise hsame hregs ⊢
  have hblk : t.blk = { s.blk with cmd := none } := by rw [hregs.1, honly]
  have hframe : u = { s with blk := t.blk, mem := t.mem, poison := t.poison } := by rwa [hblk, hsame.mem, hsame.poison]
  refine ⟨hblk, hnum, hrise, hframe ▸ hregs, fun x hx => (hsame.byte x).trans (hkept x hx), fun h => hsame.mem.trans (hnone h),
    fun h => (hsame.bytes _ _).trans (hsome h)⟩

/-- Settles O17: a write of BLK.CMD by its KEY and its refusal, and the completion of the command that runs. -/
theorem slotCommandsStoreAndInvalidate : Obligations.SlotCommandsStoreAndInvalidate := by
  intro s
  refine ⟨fun o w v h => ?_, fun k => cmdDone_completes, fun hn => ?_⟩
  · split
    next hb =>
      intro c hc
      refine ⟨_, exec_slotCommand hc, ?_⟩
      rw [State.blankCommand_busy h hb]
      exact State.busError_frame s w _ _ 0
    next hb =>
      have hb : s.flag Reg.blkCmdstat 31 = false := by simpa using hb
      refine ⟨fun hk => ?_, fun hk code hr c hc => slotCommand_refused h hb hk rfl rfl hr hc,
        fun hk => invalidate_zeroes h hb hk rfl rfl, fun hk hr hop => ?_⟩
      · have hidle : ∀ c ∈ [Instr.store w v, .invalidate w v], Writes c o s [] [] fun _ => True := by
          intro c hc
          refine ⟨_, exec_slotCommand hc, ?_⟩
          rw [State.blankCommand_keyless h hb hk]
          exact ⟨.replyOk s, (OnlyRegs.refl s []).replyOk, rfl, trivial⟩
        exact ⟨hidle _ (by simp), hidle _ (by simp)⟩
      · cases he : s.checkImage (.store s.variant.mramS (s.num Reg.blkSrcLen))
            (s.bytes (s.num Reg.blkSrcLo + s.num Reg.blkSrcHi * 2 ^ 32) (min (s.num Reg.blkSrcLen) s.variant.mramS)) with
        | error e =>
          dsimp only
          rw [he]
          exact store_fails h hb hk rfl rfl hr hop he
        | ok xs =>
          dsimp only
          rw [he]
          exact store_writes h hb hk rfl rfl hr hop rfl he
  · show execCmdDone s = _
    rw [execCmdDone, hn]

end Sys2Proof.Machine
end

section
/-! What the sending of packets leaves alone (15), and what the Hinge leaves of its state when it tells it (12). -/
namespace Sys2Proof.Machine

/-- The parts of a state watched beside registers. -/
def State.unsent (s : State) := (s.mem, s.chip, s.hinge, s.spn)

/-- From `z` to `t` packets were sent: memory, the chip level, the Hinge, the spindles and the registers below those of the blocks that send stand. -/
structure Posts (z t : State) : Prop where
  regs : RegsKept (· < 0x80000) z t
  unsent : t.unsent = z.unsent

namespace Posts
variable {z s t : State}

theorem refl (s : State) : Posts s s := ⟨.refl s, rfl⟩

theorem ite {c : Prop} [Decidable c] {a b : State} (h : Posts z a) (k : Posts z b) : Posts z (if c then a else b) := by
  split <;> assumption

theorem foldl {α : Type} {l : List α} {f : State → α → State} (h : Posts z s) (hf : ∀ u x, Posts z u → Posts z (f u x)) :
    Posts z (l.foldl f s) :=
  List.foldlRecOn l f h fun u hu x _ => hf u x hu

/-- Only what the relation does not watch is new. -/
theorem alter (h : Posts z s) (er : t.regs = s.regs) (eu : t.unsent = s.unsent) : Posts z t := ⟨h.regs.of_regs er, eu.trans h.unsent⟩

theorem setFld {r : Nat} (h : Posts z s) (hi lo v : Nat) (hr : 0x80000 ≤ r) : Posts z (s.setFld r hi lo v) :=
  ⟨h.regs.setFld hi lo v (Nat.not_lt.2 hr), h.unsent⟩

theorem raise (h : Posts z s) (n : Nat) : Posts z (s.raise n) := h.alter (s.raise_regs n) (by rw [State.raise_only]; rfl)
theorem send (h : Posts z s) (k : SentKind) (d : Nat) (bs : List Byte) : Posts z (s.send k d bs) := h.alter rfl rfl

theorem reg (h : Posts z s) {q : Nat} (hq : q < 0x80000) : s.reg q = z.reg q := h.regs q hq
theorem mem (h : Posts z s) : s.mem = z.mem := congrArg (·.1) h.unsent
theorem chip (h : Posts z s) : s.chip = z.chip := congrArg (·.2.1) h.unsent
theorem hinge (h : Posts z s) : s.hinge = z.hinge := congrArg (·.2.2.1) h.unsent
theorem spn (h : Posts z s) : s.spn = z.spn := congrArg (·.2.2.2) h.unsent

/-! ### Packets (15) -/

theorem setMilVc (h : Posts z s) (l v : Nat) (c : MilVc) : Posts z (s.setMilVc l v c) := h.alter rfl rfl
theorem setMilLink (h : Posts z s) (l : Nat) (k : MilLink) : Posts z (s.setMilLink l k) := h.alter rfl rfl
theorem milEnqueue (h : Posts z s) (l : Nat) (p : MilPacket) : Posts z (s.milEnqueue l p) := h.setMilVc _ _ _

theorem showVc (h : Posts z s) (l v : Nat) : Posts z (s.showVc l v) := by
  have hr : 0x80000 ≤ Reg.milVstate (l / 2) v := by unfold Reg.milVstate; omega
  exact h.ite (h.ite (((h.setFld 30 30 _ hr).setFld _ _ _ hr).setFld _ _ _ hr))

theorem returnCredits (h : Posts z s) (p : MilPacket) : Posts z (s.returnCredits p) := h.ite (h.send _ _ _)

theorem milTransmit (h : Posts z s) (l : Nat) (p : MilPacket) : Posts z (s.milTransmit l p) := by
  unfold State.milTransmit
  exact ((((h.setMilVc _ _ _).showVc _ _).returnCredits p).setMilLink l _).send _ _ _

theorem milManage (h : Posts z s) (l : Nat) (bs : List Byte) : Posts z (s.milManage l bs) := (h.milTransmit l _).ite (h.milEnqueue l _)

theorem startKx (h : Posts z s) (l v : Nat) : Posts z (s.startKx l v) := by
  have hdraw : Posts z { s with key := { s.key with draws := s.key.draws + 1 } } := h.alter rfl rfl
  exact (hdraw.setMilVc l v _).milManage l _

theorem milRekey (h : Posts z s) (l v : Nat) : Posts z (s.milRekey l v) := (h.startKx l v).ite h

theorem milPump (h : Posts z s) (l v n : Nat) : Posts z (milPump l v n s) := by
  induction n generalizing s with
  | zero => exact h
  | succ n ih =>
    rw [Machine.milPump]
    split
    · exact h
    · exact (ih (((h.setMilVc _ _ _).milTransmit _ _).milRekey _ _)).ite h

theorem milSend (h : Posts z s) (l : Nat) (p : MilPacket) : Posts z (s.milSend l p) := (h.milEnqueue l p).milPump _ _ _

theorem milDrop (h : Posts z s) (port lo : Nat) : Posts z (s.milDrop port lo) := h.setFld _ _ _ (by unfold Reg.milDrops; omega)

theorem route (h : Posts z s) (dst : Nat) : Posts z (s.route dst).1 := by
  have halt := fun m : MilState => h.alter (t := { s with mil := m }) rfl rfl
  unfold State.route
  split
  · extract_lets a b
    split_ifs
    · exact halt _
    · exact h
    · exact (halt _).raise _
    all_goals exact h
  · extract_lets d
    split_ifs <;> exact h

theorem milOriginate (h : Posts z s) (port vc dst : Nat) (bcast : Bool) (bs : List Byte) : Posts z (s.milOriginate port vc dst bcast bs) := by
  unfold State.milOriginate
  extract_lets p
  refine h.ite (ite ?_ (ite (h.alter rfl rfl) ?_))
  · exact (h.foldl fun u l hu => (hu.milSend l p).ite (hu.milDrop _ _)).alter rfl rfl
  · have hr := h.route dst
    split
    next e => exact milSend (by rwa [e] at hr) _ _
    next e => exact milDrop (by rwa [e] at hr) _ _
    next e => exact milDrop (by rwa [e] at hr) _ _

end Posts

variable {s : State}

/-! ### The Hinge tells its state (R496, R515) -/

/-- What the Hinge leaves when it sends: the checkpoints, the spindles, and the registers below those of the blocks that send. -/
structure Tells (z t : State) : Prop where
  stored : t.hinge.stored = z.hinge.stored
  incoming : t.hinge.incoming = z.hinge.incoming
  spn : t.spn = z.spn
  reg : ∀ q, q < 0x80000 → t.reg q = z.reg q

/-- Packets after a change of the Hinge that is none of its checkpoints. -/
theorem Tells.of_posts {u t : State} {h : HingeState} (hs : h.stored = u.hinge.stored) (hi : h.incoming = u.hinge.incoming)
    (hp : Posts (u.setHinge h) t) : Tells u t :=
  ⟨(congrArg HingeState.stored hp.hinge).trans hs, (congrArg HingeState.incoming hp.hinge).trans hi, hp.spn, fun _ hq => hp.reg hq⟩

theorem Tells.refl (s : State) : Tells s s := ⟨rfl, rfl, rfl, fun _ _ => rfl⟩
theorem Tells.setHinge {h : HingeState} (hs : h.stored = s.hinge.stored) (hi : h.incoming = s.hinge.incoming) : Tells s (s.setHinge h) :=
  ⟨hs, hi, rfl, fun _ _ => rfl⟩

theorem Tells.trans {z u t : State} (h : Tells z u) (k : Tells u t) : Tells z t :=
  ⟨k.stored.trans h.stored, k.incoming.trans h.incoming, k.spn.trans h.spn, fun q hq => (k.reg q hq).trans (h.reg q hq)⟩

theorem State.sendHeartbeats_tells (s : State) : Tells s s.sendHeartbeats := by
  unfold State.sendHeartbeats
  split
  · exact .refl s
  · extract_lets h u bs
    refine .of_posts (h := u.hinge) rfl rfl ((Posts.refl u).foldl fun x p hx => ?_)
    extract_lets v w
    have hv : Posts u v := (hx.send _ _ _).ite hx
    have hw : Posts u w := (hv.send _ _ _).ite hv
    split
    · exact hw.milOriginate _ _ _ _ _
    · exact hw

/-- HNG.STATUS shows the unit's STATE and a hand-over. -/
def State.showUnit (s : State) : State :=
  (s.setFld Reg.hngStatus 31 29 s.unitState).setFlag Reg.hngStatus Hng.handover s.hinge.handover.isSome

/-- The count of R515 follows the unit's readiness. -/
def State.countSteady (s : State) : State :=
  s.setHinge (if s.mode == Mode.standby && s.standbyReady && s.wardenOk && !s.unfit then
      { s.hinge with steady := some (s.hinge.steady.getD s.chip.up) }
    else { s.hinge with steady := none, revert := false })

/-- A change is told at once (R496). -/
def State.tellChange (s : State) : State := if s.hinge.told = (s.unitState, s.claim, s.unitFlags) then s else s.sendHeartbeats

theorem State.tell_eq (s : State) : s.tell = s.showUnit.countSteady.tellChange := rfl

theorem State.countSteady_tells (s : State) : Tells s s.countSteady := by
  unfold State.countSteady
  split <;> exact .setHinge rfl rfl

theorem State.tellChange_tells (s : State) : Tells s s.tellChange := by
  unfold State.tellChange
  split
  · exact .refl s
  · exact s.sendHeartbeats_tells

theorem State.showUnit_reg (s : State) {q : Nat} (h : q ≠ Reg.hngStatus) : s.showUnit.reg q = s.reg q :=
  (State.reg_setReg_ne (s.setFld Reg.hngStatus 31 29 s.unitState) _ q _ h).trans (State.reg_setReg_ne s _ q _ h)
theorem State.showUnit_applying (s : State) : s.showUnit.flag Reg.hngStatus Hng.applying = s.flag Reg.hngStatus Hng.applying :=
  (State.flag_setFlag_ne _ _ Hng.handover Hng.applying _ (by decide) (by decide)).trans
    (State.flag_setFld_ne _ _ 31 29 _ Hng.applying (by decide) (by decide) (by decide))
theorem State.showUnit_hinge (s : State) : s.showUnit.hinge = s.hinge := (State.setReg_hinge _ _ _).trans (State.setReg_hinge _ _ _)
theorem State.showUnit_spn (s : State) : s.showUnit.spn = s.spn := (State.setReg_spn _ _ _).trans (State.setReg_spn _ _ _)

/-- What telling leaves: the checkpoints, the spindles, every register of HNG but STATUS, and APPLYING of that. -/
theorem State.tell_shows (s : State) : s.tell.hinge.stored = s.hinge.stored ∧ s.tell.hinge.incoming = s.hinge.incoming ∧ s.tell.spn = s.spn ∧
    (∀ q, q < 0x80000 → q ≠ Reg.hngStatus → s.tell.reg q = s.reg q) ∧
    s.tell.flag Reg.hngStatus Hng.applying = s.flag Reg.hngStatus Hng.applying := by
  have ht : Tells s.showUnit s.tell := s.tell_eq ▸ s.showUnit.countSteady_tells.trans s.showUnit.countSteady.tellChange_tells
  refine ⟨?_, ?_, ht.spn.trans s.showUnit_spn, fun q hq hne => (ht.reg q hq).trans (s.showUnit_reg hne), ?_⟩
  · rw [ht.stored, s.showUnit_hinge]
  · rw [ht.incoming, s.showUnit_hinge]
  · rw [← s.showUnit_applying, State.flag, ht.reg _ (by decide), State.flag]

end Sys2Proof.Machine
end

section
/-! Cuts (R504, R505): taken, skipped and sent. -/
namespace Sys2Proof.Machine

variable {s t : State}

/-! ### Passing time leaves injections alone (04) -/

/-- The record of injections stands. -/
def InjKept (z t : State) : Prop := t.inj = z.inj

namespace InjKept
variable {z : State}

theorem ite {c : Prop} [Decidable c] {a b : State} (h : InjKept z a) (k : InjKept z b) : InjKept z (if c then a else b) := by
  split <;> assumption

theorem raise (h : InjKept z s) (n : Nat) : InjKept z (s.raise n) := (State.raise_inj s n).trans h
theorem setSpin (h : InjKept z s) (n : Nat) (p : Spindle) : InjKept z (s.setSpin n p) := h
theorem setReg (h : InjKept z s) (r : Nat) (v : Word) : InjKept z (s.setReg r v) := h
theorem setSpinFlag (h : InjKept z s) (n b : Nat) (v : Bool) : InjKept z (s.setSpinFlag n b v) :=
  h.ite (((h.setReg _ _).raise _).ite (h.setReg _ _))
theorem moveSpindle (h : InjKept z s) (n : Nat) (d : Int) (k : Nat) : InjKept z (s.moveSpindle n d k) := h.ite h
theorem correctSpindle (h : InjKept z s) (n : Nat) (d : Int) : InjKept z (s.correctSpindle n d) := (h.moveSpindle n d 0).ite (h.setSpin n _)

theorem finishRejoin (h : InjKept z s) (n : Nat) : InjKept z (s.finishRejoin n) := by
  unfold State.finishRejoin
  extract_lets u p v w
  have hu : InjKept z u := h.correctSpindle n _
  have hv : InjKept z v := (hu.setSpin n _).ite hu
  exact (((hv.setSpin n _).setSpinFlag n _ _).setSpinFlag n _ _).setSpinFlag n _ _

theorem elapseSpindle (h : InjKept z s) (n d t0 t1 : Nat) : InjKept z (s.elapseSpindle n d t0 t1) := by
  have note {u : State} (hu : InjKept z u) : InjKept z (u.noteSpindle n) := (hu.setSpin n _).setSpinFlag n _ _
  unfold State.elapseSpindle
  refine h.ite (note (ite ?_ ?_))
  · exact (h.setSpin n _).moveSpindle n _ _
  · exact (((h.setSpin n _).moveSpindle n _ _).finishRejoin n).ite ((h.setSpin n _).moveSpindle n _ _)

theorem elapse (h : InjKept z s) (k : Nat) : InjKept z (s.elapse k) := by
  have release {u : State} (hu : InjKept z u) : InjKept z u.releaseSnaps := by
    unfold State.releaseSnaps
    extract_lets old cells blocks
    refine hu.ite (raise ?_ 58)
    exact hu
  unfold State.elapse
  extract_lets t0 d u crossed ph incrs chip tim rtc a b c
  have ha : InjKept z a := h
  have hb : InjKept z b := (ha.setReg _ _).ite ha
  have hc : InjKept z c := (hb.raise 64).ite hb
  exact release (List.foldlRecOn _ _ hc fun x hx n _ => hx.elapseSpindle n _ _ _)

end InjKept

theorem State.elapse_inj (s : State) (k : Nat) : (s.elapse k).inj = s.inj := InjKept.elapse rfl k

/-! ### A cut is skipped -/

theorem apart_hng {q : Nat} (h : q / 0x10000 = 6) : Apart q := by
  rw [Apart, h]
  decide

/-- From `u` to `t` a due cut is not taken: SKIPS counts it unless an injected event acts, and source 47 rises. -/
structure CutSkipped (u t : State) : Prop where
  hinge : t.hinge = { u.hinge with cutDue := none }
  ckseq : t.num Reg.hngCkseq = u.num Reg.hngCkseq
  mode : t.mode = u.mode
  mem : t.mem = u.mem
  rises : Rises u t 47
  counts : u.inj.acting = none → t.fld Reg.hngCounts 7 0 = min 255 (u.fld Reg.hngCounts 7 0 + 1)

theorem State.skipCut_skips (s : State) : CutSkipped s s.skipCut := by
  obtain ⟨u, hu⟩ : ∃ u, (s.setHinge { s.hinge with cutDue := none }).countHinge 7 0 = u := ⟨_, rfl⟩
  have hsame : u.hinge = { s.hinge with cutDue := none } ∧ u.mem = s.mem ∧ u.variant = s.variant := by
    rw [← hu, State.countHinge]
    split <;> exact ⟨rfl, rfl, rfl⟩
  have hreg : ∀ q, q ≠ Reg.hngCounts → u.reg q = s.reg q := by
    intro q hq
    rw [← hu, State.countHinge]
    split
    · rfl
    · exact State.reg_setReg_ne _ _ _ _ hq
  obtain ⟨hh, hm, hv⟩ := hsame
  have hmode : u.mode = s.mode := congrArg (fun x => field x 3 0) (hreg Reg.sysMode (by decide))
  have hrise : Rises u (u.raise 47) 47 := u.raise_rises 47
  have e : s.skipCut = u.raise 47 := by rw [State.skipCut, hu]
  rw [e]
  refine ⟨(State.raise_hinge _ _).trans hh, ?_, (State.raise_mode _ _).trans hmode, (State.raise_mem _ _).trans hm, fun hc => hrise ?_, fun hi => ?_⟩
  · rw [State.num, State.raise_reg, hreg _ (by decide), State.num]
  · rwa [State.canRise, hv, State.awake, hmode]
  · rw [State.fld, State.raise_reg, ← hu, State.countHinge, if_neg (by simp [State.setHinge, hi])]
    exact State.fld_bump _ _ 7 0 1 (by decide) (by decide)

/-- Passing time leaves what a skipped cut is compared with. -/
theorem CutSkipped.after_elapse {k : Nat} (h : CutSkipped (s.elapse k) t) : t.num Reg.hngCkseq = s.num Reg.hngCkseq ∧ t.mode = s.mode ∧
    t.mem = s.mem ∧ (s.inj.acting = none → t.fld Reg.hngCounts 7 0 = min 255 (s.fld Reg.hngCounts 7 0 + 1)) := by
  have hs : Steady True s (s.elapse k) := (Steady.refl s).elapse k
  refine ⟨h.ckseq.trans (hs.num (apart_hng (by decide))), h.mode.trans hs.mode, h.mem.trans (hs.mem trivial), fun hi => ?_⟩
  rw [h.counts (by rw [State.elapse_inj]; exact hi), hs.fld (apart_hng (by decide))]

/-! ### A cut is taken -/

/-- The packets of the image to a standby. -/
def State.sendImage (s : State) (target : Nat) (front : List Byte) (p : Nat) : State := match s.peerPort p with
  | some port => (s.imagePackets (target == p + 1) front).foldl (fun s b => s.milOriginate port 6 (s.peerNode p) false b) s
  | none => s

theorem Posts.sendImage {z : State} (h : Posts z s) (target : Nat) (front : List Byte) (p : Nat) : Posts z (s.sendImage target front p) := by
  unfold State.sendImage
  split
  · exact h.foldl fun u b hu => hu.milOriginate _ _ _ _ _
  · exact h

/-- Who receives checkpoints does not hang on their number. -/
theorem State.standbys_setNum (s : State) (v : Nat) : (s.setNum Reg.hngCkseq v).standbys = s.standbys := by
  refine List.filter_congr fun p hp => ?_
  have hp : p < 2 := by
    simp only [List.mem_cons, List.not_mem_nil, or_false] at hp
    omega
  have hst : (s.setNum Reg.hngCkseq v).peerState p = s.peerState p :=
    State.fld_setReg_ne s _ 29 27 (by unfold Reg.hngPeer Reg.hngCkseq; omega)
  rw [hst]
  rfl

/-- No cut is due, and the image is on its way. -/
def State.endCut (s : State) (sends : Bool) : State := s.setHinge { s.hinge with cutDue := none, sending := sends, sendSince := s.chip.up }

theorem State.takeCut_eq (s : State) : ∃ target front, s.takeCut = State.endCut
    ((s.setNum Reg.hngCkseq (s.num Reg.hngCkseq + 1)).standbys.foldl (fun s p => s.sendImage target front p)
      (s.setNum Reg.hngCkseq (s.num Reg.hngCkseq + 1)))
    (!(s.setNum Reg.hngCkseq (s.num Reg.hngCkseq + 1)).standbys.isEmpty) := ⟨_, _, rfl⟩

theorem State.takeCut_takes (s : State) : s.takeCut.num Reg.hngCkseq = (s.num Reg.hngCkseq + 1) % 2 ^ 32 ∧ s.takeCut.mode = s.mode ∧
    s.takeCut.mem = s.mem ∧ s.takeCut.hinge = { s.hinge with cutDue := none, sending := !s.standbys.isEmpty, sendSince := s.chip.up } := by
  obtain ⟨target, front, e⟩ := s.takeCut_eq
  rw [s.standbys_setNum] at e
  have hseq : (s.setNum Reg.hngCkseq (s.num Reg.hngCkseq + 1)).reg Reg.hngCkseq = BitVec.ofNat 32 (s.num Reg.hngCkseq + 1) :=
    State.reg_setReg_same s _ _
  have hmode : (s.setNum Reg.hngCkseq (s.num Reg.hngCkseq + 1)).reg Reg.sysMode = s.reg Reg.sysMode :=
    State.reg_setReg_ne s _ _ _ (by decide)
  have hmem := s.setReg_mem Reg.hngCkseq (BitVec.ofNat 32 (s.num Reg.hngCkseq + 1))
  have hhinge := s.setReg_hinge Reg.hngCkseq (BitVec.ofNat 32 (s.num Reg.hngCkseq + 1))
  have hchip := s.setReg_chip Reg.hngCkseq (BitVec.ofNat 32 (s.num Reg.hngCkseq + 1))
  rw [← State.setNum] at hmem hhinge hchip
  generalize s.setNum Reg.hngCkseq (s.num Reg.hngCkseq + 1) = u at e hseq hmode hmem hhinge hchip
  have hv : Posts u (s.standbys.foldl (fun s p => s.sendImage target front p) u) := (Posts.refl u).foldl fun _ p hx => hx.sendImage target front p
  generalize s.standbys.foldl (fun s p => s.sendImage target front p) u = v at e hv
  rw [e]
  refine ⟨?_, congrArg (fun x => field x 3 0) ((hv.reg (by decide)).trans hmode), hv.mem.trans hmem, ?_⟩
  · exact (congrArg BitVec.toNat ((hv.reg (by decide)).trans hseq)).trans (BitVec.toNat_ofNat _ _)
  · rw [State.endCut, State.setHinge, hv.hinge, hv.chip, hhinge, hchip]

/-! ### The commands -/

theorem exec_cut {due : Nat} (h : s.hinge.cutDue = some due) : exec .cut s = .next (
    if s.controlRuns = true ∧ s.cutInTime due = true ∧ s.cutQuiet = true then
      if s.hinge.sending = true ∨ s.itemFenced = true then s.skipCut else s.takeCut
    else s) := by
  show execCut s = _
  rw [execCut, h]
  simp only [Bool.not_eq_true', Bool.and_eq_false_iff, Bool.or_eq_true]
  split_ifs <;> simp_all

theorem exec_cutSkipped {due : Nat} (h : s.hinge.cutDue = some due) :
    exec .cutSkipped s = .next (s.elapse ((due + 1000 * s.cutWait - s.chip.up + 3) / 4)).skipCut := by
  show execCutSkipped s = _
  rw [execCutSkipped, h]

theorem cut_idles (h : s.hinge.cutDue = none) : Idles .cut s ∧ Idles .cutSkipped s := by
  constructor
  · show execCut s = _
    rw [execCut, h]
  · show execCutSkipped s = _
    rw [execCutSkipped, h]

theorem exec_checkpointSent (s : State) : exec .checkpointSent s =
    .next (if s.hinge.sending then s.setHinge { s.hinge with sending := false, transfer := s.chip.up - s.hinge.sendSince } else s) := rfl

end Sys2Proof.Machine
end

section
/-! What the write of an engine leaves alone (01): the clocks, the spindles, the configuration, the Hinge, and their registers. -/
namespace Sys2Proof.Machine

/-- A register of neither the collector nor DDR. -/
def Unwritten (q : Nat) : Prop := ¬ inFlt q ∧ q < 0x320000

/-- The parts of a state watched beside registers. -/
def State.unwritten (s : State) := (s.hinge, s.chip, s.time, s.spn, s.blk)

/-- From `z` to `t` an engine wrote to memory, or met the errors of such a write. -/
structure Wrote (z t : State) : Prop where
  regs : RegsKept Unwritten z t
  unwritten : t.unwritten = z.unwritten

namespace Wrote
variable {z s t : State}

theorem refl (s : State) : Wrote s s := ⟨.refl s, rfl⟩

theorem ite {c : Prop} [Decidable c] {a b : State} (h : Wrote z a) (k : Wrote z b) : Wrote z (if c then a else b) := by
  split <;> assumption

/-- Only what the relation does not watch is new. -/
theorem alter (h : Wrote z s) (er : t.regs = s.regs) (eu : t.unwritten = s.unwritten) : Wrote z t := ⟨h.regs.of_regs er, eu.trans h.unwritten⟩

theorem setReg {r : Nat} (h : Wrote z s) (v : Word) (hr : 0x320000 ≤ r) : Wrote z (s.setReg r v) :=
  ⟨h.regs.setReg v fun hu => by have := hu.2; omega, h.unwritten⟩

theorem raise (h : Wrote z s) (n : Nat) : Wrote z (s.raise n) := h.alter (s.raise_regs n) (by rw [State.raise_only]; rfl)

theorem detected (h : Wrote z s) (d : Detection) : Wrote z (s.detected d) := by
  refine ⟨fun q hq => (s.detected_reg d q hq.1).trans (h.regs q hq), Eq.trans ?_ h.unwritten⟩
  rw [s.detected_only d]
  rfl

theorem refuseWord (h : Wrote z s) (w : Option Who) (k a : Nat) : Wrote z (s.refuseWord w k a) := by
  have hp : Wrote z ((s.recordBadWord w k a false).poisonWord (a / 8 * 8)) := (h.detected _).alter rfl rfl
  unfold State.refuseWord
  extract_lets u
  have hu : Wrote z u := hp.raise 4
  exact ite ((((hu.setReg _ (by decide)).setReg _ (by decide)).setReg _ (by decide)).raise 458) hu

theorem engineWrite (h : Wrote z s) (w : Who) (a : Nat) (bs : List Byte) : Wrote z (s.engineWrite w a bs) := by
  unfold State.engineWrite State.engineError
  refine ite (((h.detected _).raise 7).ite (h.detected _)) ?_
  split
  · exact h.refuseWord _ _ _
  · exact h.alter rfl rfl

theorem reg (h : Wrote z s) {q : Nat} (hf : ¬ inFlt q) (hd : q < 0x320000) : s.reg q = z.reg q := h.regs q ⟨hf, hd⟩
theorem hinge (h : Wrote z s) : s.hinge = z.hinge := congrArg (·.1) h.unwritten
theorem chip (h : Wrote z s) : s.chip = z.chip := congrArg (·.2.1) h.unwritten
theorem time (h : Wrote z s) : s.time = z.time := congrArg (·.2.2.1) h.unwritten
theorem spn (h : Wrote z s) : s.spn = z.spn := congrArg (·.2.2.2.1) h.unwritten
theorem blk (h : Wrote z s) : s.blk = z.blk := congrArg (·.2.2.2.2) h.unwritten

end Wrote

/-- A write that no STORE locks out and no bad word fails leaves its bytes, and every other byte as it was. -/
theorem State.engineWrite_lands {s : State} {w : Who} {a n : Nat} {bs : List Byte} (hn : bs.length = n) (hl : s.storeLocks w a n = false)
    (hp : s.partialBad a n = none) : (s.engineWrite w a bs).bytes a n = bs ∧ MemoryKept s (s.engineWrite w a bs) a (a + n) := by
  subst hn
  rw [State.engineWrite_ok hl hp]
  exact ⟨s.bytes_poke a bs, s.poke_kept a bs (Nat.le_refl _)⟩

end Sys2Proof.Machine
end

section
/-! Checkpoint packets at a standby (R155, R507): discarded, taken into CKBUF, and stored. -/
namespace Sys2Proof.Machine

variable {s t u : State} {b : List Byte}

/-! ### The image coming in is discarded -/

/-- From `s` to `t` the image coming in is dropped, and source 47 rises. -/
def DropsImage (s t : State) : Prop := t.hinge = { s.hinge with incoming := none } ∧ t.mem = s.mem ∧ t.mode = s.mode ∧ Rises s t 47

theorem State.discardCheckpoint_only (s : State) :
    s.discardCheckpoint = { s with hinge := { s.hinge with incoming := none }, plic := s.discardCheckpoint.plic } := State.raise_only _ _

theorem State.discardCheckpoint_drops (s : State) : DropsImage s s.discardCheckpoint := by
  have hr : Rises s s.discardCheckpoint 47 := State.raise_rises (s.setHinge { s.hinge with incoming := none }) 47
  rw [State.discardCheckpoint_only] at hr ⊢
  exact ⟨rfl, rfl, rfl, hr⟩

/-- A source more rises, and a register other than SYS.MODE is written. -/
theorem DropsImage.setReg_raise {r : Nat} (h : DropsImage s t) (v : Word) (hr : r ≠ Reg.sysMode) (n : Nat) :
    DropsImage s ((t.setReg r v).raise n) := by
  obtain ⟨hh, hm, hmode, hrise⟩ := h
  exact ⟨(State.raise_hinge _ _).trans hh, (State.raise_mem _ _).trans hm, (State.raise_mode _ _).trans ((State.mode_setReg hr v).trans hmode),
    fun hc => State.pendingSource_raise _ n 47 (hrise hc)⟩

/-- A new image begins: one that was coming in is discarded. -/
def State.restart (s : State) : State := if s.hinge.incoming.isSome then s.discardCheckpoint else s

theorem State.restart_only (s : State) : s.restart = { s with hinge := { s.hinge with incoming := none }, plic := s.restart.plic } := by
  unfold State.restart
  split
  · exact s.discardCheckpoint_only
  next h =>
    have hnone : s.hinge.incoming = none := by simpa using h
    have hsame : { s.hinge with incoming := none } = s.hinge := by rw [← hnone]
    rw [hsame]

theorem State.restart_hinge (s : State) : s.restart.hinge = { s.hinge with incoming := none } := by rw [State.restart_only]
theorem State.restart_blk (s : State) : s.restart.blk = s.blk := by rw [State.restart_only]
theorem State.restart_same (s : State) : SameMemory s s.restart := by
  rw [State.restart_only]
  exact ⟨rfl, rfl, rfl, rfl⟩
theorem State.restart_regs (s : State) : s.restart.regs = s.regs := by rw [State.restart_only]
theorem State.restart_variant (s : State) : s.restart.variant = s.variant := by rw [State.restart_only]
theorem State.restart_mode (s : State) : s.restart.mode = s.mode := by rw [State.mode, State.fld, State.reg, s.restart_regs]; rfl

theorem State.restart_rises (h : s.hinge.incoming ≠ none) : Rises s s.restart 47 := by
  rw [State.restart, if_pos (Option.isSome_iff_ne_none.2 h)]
  exact s.discardCheckpoint_drops.2.2.2

theorem State.restart_discard_drops (s : State) : DropsImage s s.restart.discardCheckpoint := by
  obtain ⟨hh, hm, hmode, hr⟩ := s.restart.discardCheckpoint_drops
  refine ⟨hh.trans ?_, hm.trans s.restart_same.mem, hmode.trans s.restart_mode, fun hc => hr ?_⟩
  · rw [s.restart_hinge]
  · rwa [State.canRise, s.restart_variant, State.awake, s.restart_mode]

/-! ### Data come into CKBUF -/

/-- From `s` to `t` an engine of the Hinge has written `d` at `a`, unless a STORE locks the place or a bad word fails the write. -/
def Lands (s t : State) (d : List Byte) (a n : Nat) : Prop :=
  s.storeLocks (engineWho Init.hinge) a n = false → s.partialBad a n = none → t.bytes a n = d ∧ MemoryKept s t a (a + n)

theorem Lands.of_same {d : List Byte} {a n : Nat} (hm : SameMemory s u) (hb : u.blk = s.blk) (h : Lands u t d a n) : Lands s t d a n := by
  intro hl hp
  obtain ⟨hd, hk⟩ := h ((State.storeLocks_congr hb _ _ _).trans hl) (by rwa [State.partialBad, hm.poison])
  exact ⟨hd, fun x hx => (hk x hx).trans (hm.byte x)⟩

/-- An engine of the Hinge writes into CKBUF, and the image coming in has grown. -/
def State.takeData (s : State) (a : Nat) (d : List Byte) (i : CheckpointIn) : State :=
  (s.engineWrite (engineWho Init.hinge) a d).setHinge { s.hinge with incoming := some i }

theorem State.takeData_hinge (s : State) (a : Nat) (d : List Byte) (i : CheckpointIn) :
    (s.takeData a d i).hinge = { s.hinge with incoming := some i } := rfl

theorem State.takeData_lands {d : List Byte} {n : Nat} (s : State) (a : Nat) (i : CheckpointIn) (hn : d.length = n) :
    Lands s (s.takeData a d i) d a n := fun hl hp => State.engineWrite_lands (w := engineWho Init.hinge) hn hl hp

theorem State.takeData_rises (s : State) (a : Nat) (d : List Byte) (i : CheckpointIn) {n : Nat} (h : s.pendingSource n = true) :
    (s.takeData a d i).pendingSource n = true := ((Steady.refl s).engineWrite (engineWho Init.hinge) a d).rises n h

/-! ### Packets of an image -/

/-- The packet comes to a standby from a peer, whole. -/
def State.packetComes (s : State) (b : List Byte) : Prop :=
  s.mode = Mode.standby ∧ s.hasHinge = true ∧ (slice b 32 (u16 b 0xC)).length = u16 b 0xC ∧
    ∃ p, p < 2 ∧ s.peerUsed p = true ∧ s.peerPort p ≠ none ∧ s.peerNode p % 2 ^ 14 = u16 b 2 % 2 ^ 14

theorem State.packetComes_iff (s : State) (b : List Byte) : s.packetComes b ↔
    (s.mode == Mode.standby && s.hasHinge &&
      (([0, 1] : List Nat).any fun p => s.peerUsed p && (s.peerPort p).isSome && s.peerNode p % 2 ^ 14 == u16 b 2 % 2 ^ 14) &&
      (slice b 32 (u16 b 0xC)).length == u16 b 0xC) = true := by
  have hp : (∃ p, p < 2 ∧ s.peerUsed p = true ∧ s.peerPort p ≠ none ∧ s.peerNode p % 2 ^ 14 = u16 b 2 % 2 ^ 14) ↔
      (([0, 1] : List Nat).any fun p => s.peerUsed p && (s.peerPort p).isSome && s.peerNode p % 2 ^ 14 == u16 b 2 % 2 ^ 14) = true := by
    simp only [List.any_eq_true, Bool.and_eq_true, beq_iff_eq, Option.isSome_iff_ne_none, and_assoc]
    refine exists_congr fun p => and_congr_left fun _ => ?_
    simp only [List.mem_cons, List.not_mem_nil, or_false]
    omega
  rw [State.packetComes, hp]
  simp only [Bool.and_eq_true, beq_iff_eq]
  tauto

/-- The half of CKBUF that the next image takes. -/
def State.freeHalf (s : State) : Nat := match s.hinge.stored with
  | some c => 1 - c.half
  | none => 0

/-- What a HEAD says of its image. -/
def State.announced (s : State) (b : List Byte) : CheckpointIn :=
  { seq := u32 b 4, final := bit (u8 b 1) 0, claim := u32 b 0x10, half := s.freeHalf, got := 64, len := u32 (slice b 32 (u16 b 0xC)) 28 }

/-- A HEAD once the image before it is gone. -/
def State.takeHead (s : State) (b : List Byte) : State :=
  if u32 b 8 ≠ 0 ∨ u16 b 0xC ≠ 64 ∨ s.ckmax < u32 (slice b 32 (u16 b 0xC)) 28 then s.discardCheckpoint
  else s.takeData (s.ckHalf s.freeHalf) (slice b 32 (u16 b 0xC)) (s.announced b)

/-- The packet is the one that comes next of the image. -/
def CheckpointIn.nextIs (i : CheckpointIn) (b : List Byte) : Prop := u32 b 4 = i.seq ∧ u32 b 8 = i.got ∧ i.got + u16 b 0xC ≤ i.len

theorem State.restart_ckmax (s : State) : s.restart.ckmax = s.ckmax := by rw [State.restart_only]; rfl
theorem State.restart_ckHalf (s : State) (k : Nat) : s.restart.ckHalf k = s.ckHalf k := by rw [State.restart_only]; rfl
theorem State.restart_freeHalf (s : State) : s.restart.freeHalf = s.freeHalf := by rw [State.restart_only]; rfl
theorem State.restart_announced (s : State) (b : List Byte) : s.restart.announced b = s.announced b := by
  rw [State.announced, s.restart_freeHalf, State.announced]

theorem State.receiveCheckpoint_ignored (h : ¬ s.packetComes b) : s.receiveCheckpoint b = s := by
  rw [State.packetComes_iff, Bool.not_eq_true] at h
  unfold State.receiveCheckpoint
  extract_lets ctype seq off n d known
  exact if_pos (by rw [h]; rfl)

section
variable (h : s.packetComes b)
include h

theorem State.receiveCheckpoint_takeHead (ht : u8 b 0 = 1) : s.receiveCheckpoint b = s.restart.takeHead b := by
  rw [State.packetComes_iff] at h
  unfold State.receiveCheckpoint
  extract_lets ctype seq off n d known
  rw [if_neg (by rw [h]; decide), if_pos ht]
  rfl

theorem State.receiveCheckpoint_head (ht : u8 b 0 = 1) : s.receiveCheckpoint b =
    if u32 b 8 ≠ 0 ∨ u16 b 0xC ≠ 64 ∨ s.ckmax < u32 (slice b 32 (u16 b 0xC)) 28 then s.restart.discardCheckpoint
    else s.restart.takeData (s.ckHalf s.freeHalf) (slice b 32 (u16 b 0xC)) (s.announced b) := by
  rw [State.receiveCheckpoint_takeHead h ht, State.takeHead, s.restart_ckmax, s.restart_ckHalf, s.restart_freeHalf, s.restart_announced]

theorem State.receiveCheckpoint_unannounced (ht : u8 b 0 ≠ 1) (hi : s.hinge.incoming = none) : s.receiveCheckpoint b = s := by
  rw [State.packetComes_iff] at h
  unfold State.receiveCheckpoint
  extract_lets ctype seq off n d known
  rw [if_neg (by rw [h]; decide), if_neg ht, hi]

variable {i : CheckpointIn}

theorem State.receiveCheckpoint_astray (ht : u8 b 0 ≠ 1) (hi : s.hinge.incoming = some i) (hn : ¬ i.nextIs b) :
    s.receiveCheckpoint b = s.discardCheckpoint := by
  rw [State.packetComes_iff] at h
  unfold State.receiveCheckpoint
  extract_lets ctype seq off n d known
  rw [if_neg (by rw [h]; decide), if_neg ht, hi]
  refine if_pos ?_
  unfold CheckpointIn.nextIs at hn
  omega

theorem State.receiveCheckpoint_next (ht : u8 b 0 ≠ 1) (hi : s.hinge.incoming = some i) (hn : i.nextIs b) : s.receiveCheckpoint b =
    if u8 b 0 = 2 then s.takeData (s.ckHalf i.half + i.got) (slice b 32 (u16 b 0xC)) { i with got := i.got + u16 b 0xC }
    else if u8 b 0 = 3 then s.storeCheckpoint i (slice b 32 (u16 b 0xC)) else s := by
  obtain ⟨hseq, hoff, hlen⟩ := hn
  rw [State.packetComes_iff] at h
  unfold State.receiveCheckpoint
  extract_lets ctype seq off n d known
  rw [if_neg (by rw [h]; decide), if_neg ht, hi]
  refine (if_neg (by omega)).trans ?_
  rw [← hoff]
  rfl

end

/-! ### The image is complete -/

/-- The image without its tail, as CKBUF holds it. -/
def State.receivedFront (s : State) (i : CheckpointIn) : List Byte := s.bytes (s.ckHalf i.half) i.got

/-- The five generation words of an image. -/
def frontGens (front : List Byte) : List Nat := (List.range 5).map fun k => u32 front (4 * k)

def State.receivedWhole (s : State) (i : CheckpointIn) (tail : List Byte) : Prop := i.got + 16 = i.len ∧ crc32 (s.receivedFront i) = u32 tail 0

/-- The image is newer than the one stored. -/
def State.receivedNewer (s : State) (i : CheckpointIn) : Prop := match s.hinge.stored with
  | some c => i.seq ≠ c.seq ∧ seqNewer 32 i.seq c.seq = true
  | none => True

/-- The same as the part judges it. -/
def State.judgesNewer (s : State) (i : CheckpointIn) : Bool := match s.hinge.stored with
  | some c => i.seq != c.seq && seqNewer 32 i.seq c.seq
  | none => true

theorem State.judgesNewer_iff (s : State) (i : CheckpointIn) : s.judgesNewer i = true ↔ s.receivedNewer i := by
  unfold State.judgesNewer State.receivedNewer
  cases s.hinge.stored with
  | none => simp
  | some c => simp

section
variable {i : CheckpointIn} {tail : List Byte}

theorem State.storeCheckpoint_torn (h : ¬ s.receivedWhole i tail) : s.storeCheckpoint i tail = s.discardCheckpoint := by
  unfold State.storeCheckpoint
  extract_lets base front gens newer
  refine if_pos ?_
  unfold State.receivedWhole at h
  tauto

theorem State.storeCheckpoint_misfits (h : s.receivedWhole i tail) (hg : frontGens (s.receivedFront i) ≠ s.gens) :
    s.storeCheckpoint i tail = (s.discardCheckpoint.bump Reg.blkCkptDiscard 31 0 1).raise 20 := by
  obtain ⟨hlen, hcrc⟩ := h
  unfold State.storeCheckpoint
  extract_lets base front gens newer
  exact (if_neg (by simp [hlen]; exact hcrc)).trans (if_pos hg)

theorem State.storeCheckpoint_stale (h : s.receivedWhole i tail) (hg : frontGens (s.receivedFront i) = s.gens)
    (hn : ¬ s.receivedNewer i ∨ s.activeClaim ≠ some i.claim) : s.storeCheckpoint i tail = s.discardCheckpoint := by
  obtain ⟨hlen, hcrc⟩ := h
  rw [← State.judgesNewer_iff, Bool.not_eq_true] at hn
  unfold State.storeCheckpoint
  extract_lets base front gens newer
  exact (if_neg (by simp [hlen]; exact hcrc)).trans ((if_neg (not_not.2 hg)).trans (if_pos hn))

end

/-! ### The packets -/

theorem exec_checkpointPacket (s : State) (b : List Byte) : exec (.checkpointPacket b) s = .next (s.receiveCheckpoint b) := rfl

theorem checkpointPacket_head (h : s.packetComes b) (ht : u8 b 0 = 1) : Completes (.checkpointPacket b) s fun t =>
    (s.hinge.incoming ≠ none → Rises s t 47) ∧
      if u32 b 8 ≠ 0 ∨ u16 b 0xC ≠ 64 ∨ s.ckmax < u32 (slice b 32 (u16 b 0xC)) 28 then DropsImage s t
      else t.hinge = { s.hinge with incoming := some (s.announced b) } ∧
        Lands s t (slice b 32 (u16 b 0xC)) (s.ckHalf s.freeHalf) (u16 b 0xC) := by
  refine ⟨_, exec_checkpointPacket s b, ?_⟩
  rw [State.receiveCheckpoint_head h ht]
  split
  · exact ⟨fun _ => s.restart_discard_drops.2.2.2, s.restart_discard_drops⟩
  · refine ⟨fun hi hc => State.takeData_rises _ _ _ _ (State.restart_rises hi hc), ?_, ?_⟩
    · rw [State.takeData_hinge, s.restart_hinge]
    · exact Lands.of_same s.restart_same s.restart_blk (State.takeData_lands _ _ _ (length_slice _ _ _))

section
variable {i : CheckpointIn} (h : s.packetComes b) (ht : u8 b 0 ≠ 1) (hi : s.hinge.incoming = some i)
include h ht hi

theorem checkpointPacket_astray (hn : ¬ i.nextIs b) : Completes (.checkpointPacket b) s (DropsImage s) :=
  ⟨_, exec_checkpointPacket s b, State.receiveCheckpoint_astray h ht hi hn ▸ s.discardCheckpoint_drops⟩

theorem checkpointPacket_data (hn : i.nextIs b) (hd : u8 b 0 = 2) : Completes (.checkpointPacket b) s fun t =>
    t.hinge = { s.hinge with incoming := some { i with got := i.got + u16 b 0xC } } ∧
      Lands s t (slice b 32 (u16 b 0xC)) (s.ckHalf i.half + i.got) (u16 b 0xC) := by
  refine ⟨_, exec_checkpointPacket s b, ?_⟩
  rw [State.receiveCheckpoint_next h ht hi hn, if_pos hd]
  exact ⟨s.takeData_hinge _ _ _, s.takeData_lands _ _ (length_slice _ _ _)⟩

theorem exec_checkpointPacket_tail (hn : i.nextIs b) (hd : u8 b 0 = 3) :
    exec (.checkpointPacket b) s = .next (s.storeCheckpoint i (slice b 32 (u16 b 0xC))) := by
  have hne : ¬ u8 b 0 = 2 := by omega
  rw [exec_checkpointPacket, State.receiveCheckpoint_next h ht hi hn, if_neg hne, if_pos hd]

theorem checkpointPacket_discards (hn : i.nextIs b) (hd : u8 b 0 = 3) (hbad : ¬ s.receivedWhole i (slice b 32 (u16 b 0xC)) ∨
    (frontGens (s.receivedFront i) = s.gens ∧ (¬ s.receivedNewer i ∨ s.activeClaim ≠ some i.claim))) :
    Completes (.checkpointPacket b) s (DropsImage s) := by
  refine ⟨_, exec_checkpointPacket_tail h ht hi hn hd, ?_⟩
  by_cases hw : s.receivedWhole i (slice b 32 (u16 b 0xC))
  · obtain ⟨hg, hold⟩ := hbad.resolve_left (not_not.2 hw)
    rw [State.storeCheckpoint_stale hw hg hold]
    exact s.discardCheckpoint_drops
  · rw [State.storeCheckpoint_torn hw]
    exact s.discardCheckpoint_drops

theorem checkpointPacket_misfits (hn : i.nextIs b) (hd : u8 b 0 = 3) (hw : s.receivedWhole i (slice b 32 (u16 b 0xC)))
    (hg : frontGens (s.receivedFront i) ≠ s.gens) : Completes (.checkpointPacket b) s fun t => DropsImage s t ∧
      t.num Reg.blkCkptDiscard = min (2 ^ 32 - 1) (s.num Reg.blkCkptDiscard + 1) ∧ Rises s t 20 := by
  refine ⟨_, exec_checkpointPacket_tail h ht hi hn hd, ?_⟩
  rw [State.storeCheckpoint_misfits hw hg]
  have hdrop := s.discardCheckpoint_drops
  have hnum : s.discardCheckpoint.num Reg.blkCkptDiscard = s.num Reg.blkCkptDiscard := by rw [State.discardCheckpoint_only]; rfl
  have hvar : s.discardCheckpoint.variant = s.variant := by rw [State.discardCheckpoint_only]
  generalize s.discardCheckpoint = u at hdrop hnum hvar ⊢
  have hmode : (u.bump Reg.blkCkptDiscard 31 0 1).mode = s.mode := (State.mode_setReg (by decide) _).trans hdrop.2.2.1
  refine ⟨hdrop.setReg_raise _ (by decide) 20, ?_, fun hc => State.raise_rises _ 20 ?_⟩
  · rw [State.raise_num, State.num_bump, hnum]
  · have hv : (u.bump Reg.blkCkptDiscard 31 0 1).variant = s.variant := (State.setReg_variant _ _ _).trans hvar
    rwa [State.canRise, hv, State.awake, hmode]

end

end Sys2Proof.Machine
end

section
/-! A whole image is stored (R155, R507), and applied (R508, R509). -/
namespace Sys2Proof.Machine

variable {s t : State} {i : CheckpointIn} {tail : List Byte}

/-! ### The image is closed -/

/-- A crossing of the cut comparator. -/
def State.cutCrossing (s : State) (e : Crossing) : Bool := e.spindle == s.cutSpindle % 8 && e.cmp % 64 == s.cutComparator % 64

/-- Crossings of the cut comparator wait no longer. -/
def State.dropCrossings (s : State) : State := { s with spn := { s.spn with due := s.spn.due.filter fun e => !s.cutCrossing e } }

/-- The tail is written into CKBUF. -/
def State.closeImage (s : State) (i : CheckpointIn) (tail : List Byte) : State :=
  (s.engineWrite (engineWho Init.hinge) (s.ckHalf i.half + i.got) tail).dropCrossings

/-- The image has become the stored checkpoint, which is being applied. -/
def State.hold (s : State) (c : CheckpointHeld) : State :=
  (s.setHinge { s.hinge with incoming := none, stored := some c }).setFlag Reg.hngStatus Hng.applying true

/-- The checkpoint of an image cut at `cut`. -/
def State.heldOf (s : State) (i : CheckpointIn) (cut : Nat) (gens : List Nat) : CheckpointHeld :=
  { seq := i.seq, final := i.final && !s.firedSince cut, half := i.half, len := i.len, cut := cut, gens := gens, applied := false,
    since := s.chip.up, prior := s.appliedCheckpoint }

theorem State.storeCheckpoint_stores (h : s.receivedWhole i tail) (hg : frontGens (s.receivedFront i) = s.gens) (hn : s.receivedNewer i)
    (hc : s.activeClaim = some i.claim) : s.storeCheckpoint i tail = ((s.closeImage i tail).hold
      ((s.closeImage i tail).heldOf i (s.stampNs (u64 (s.receivedFront i) 20)) (frontGens (s.receivedFront i)))).tell := by
  obtain ⟨hlen, hcrc⟩ := h
  have hn := (s.judgesNewer_iff i).2 hn
  have hcrc : ¬ (i.got + 16 ≠ i.len ∨ crc32 (s.receivedFront i) ≠ u32 tail 0) := by simp [hlen, hcrc]
  unfold State.storeCheckpoint
  extract_lets base front gens newer
  have hnewer : newer = true := hn
  have hclaim : ¬ (newer = false ∨ s.activeClaim ≠ some i.claim) := by simp [hnewer, hc]
  exact (if_neg hcrc).trans ((if_neg (not_not.2 hg)).trans ((if_neg hclaim).trans rfl))

/-- Whether the cut comparator fired looks at the configuration, the clocks, the spindles and the comparators. -/
theorem State.firedSince_congr (hb : t.blk = s.blk) (hs : t.spn.spin = s.spn.spin) (hc : t.chip = s.chip) (ht : t.time = s.time)
    (hk : t.comparator (s.cutSpindle % 8) (s.cutComparator % 64) = s.comparator (s.cutSpindle % 8) (s.cutComparator % 64)) (cut : Nat) :
    t.firedSince cut = s.firedSince cut := by
  have hbody (ty r n : Nat) : t.body ty r n = s.body ty r n := by rw [State.body, hb, State.body]
  have hsec (ty r n : Nat) : t.hasSection ty r n = s.hasSection ty r n := by rw [State.hasSection, hb, State.hasSection]
  have hspin (n : Nat) : t.spin n = s.spin n := by rw [State.spin, hs, State.spin]
  have hsp : t.cutSpindle = s.cutSpindle := by rw [State.cutSpindle, State.hingeBody, hbody]; rfl
  have hcmp : t.cutComparator = s.cutComparator := by rw [State.cutComparator, State.hingeBody, hbody]; rfl
  have hspb : t.spindleBody = s.spindleBody := hbody _ _ _
  have hsrc (n : Nat) : t.spindleSrc n = s.spindleSrc n := by
    unfold State.spindleSrc
    rw [hsec, hspb]
  have hanchor (n : Nat) : t.anchor n = s.anchor n := by
    unfold State.anchor State.spindleOrigin State.spindlePeriod
    rw [hsrc, hspb, hspin]
  have hanchored (n : Nat) : t.anchored n = s.anchored n := by
    unfold State.anchored
    rw [hsrc, hspin]
  have hmeas (n : Nat) : t.measuredSource n = s.measuredSource n := by
    unfold State.measuredSource State.spinWindow
    rw [hspb, hspin, hc]
  have hrate (n : Nat) : t.sourceRate n = s.sourceRate n := by
    unfold State.sourceRate State.clampRate State.spindleRmin State.spindleRmax
    rw [hanchored, hanchor, hmeas, hspb]
  unfold State.firedSince State.now
  dsimp only
  rw [hsp, hcmp, hrate, hspin, hk, ht]

theorem State.comparator_congr {n c : Nat} (ha : t.reg (Reg.spnCmpAngle n c) = s.reg (Reg.spnCmpAngle n c))
    (hc : t.reg (Reg.spnCmpCtl n c) = s.reg (Reg.spnCmpCtl n c)) : t.comparator n c = s.comparator n c := by
  unfold State.comparator State.num
  rw [ha, hc]

theorem State.cutCrossing_congr (hb : t.blk = s.blk) (e : Crossing) : t.cutCrossing e = s.cutCrossing e := by
  unfold State.cutCrossing State.cutSpindle State.cutComparator State.hingeBody State.body
  rw [hb]

/-- The write of the tail leaves what a stored checkpoint is made of. -/
theorem State.heldOf_closeImage (s : State) (i : CheckpointIn) (tail : List Byte) (cut : Nat) (gens : List Nat) :
    (s.closeImage i tail).heldOf i cut gens = s.heldOf i cut gens := by
  have hw : Wrote s (s.engineWrite (engineWho Init.hinge) (s.ckHalf i.half + i.got) tail) := (Wrote.refl s).engineWrite _ _ _
  unfold State.closeImage
  generalize s.engineWrite (engineWho Init.hinge) (s.ckHalf i.half + i.got) tail = u at hw ⊢
  have hreg (q : Nat) (hlo : 0xA0000 ≤ q) (hhi : q < 0xB0000) : u.dropCrossings.reg q = s.reg q :=
    hw.reg (by unfold inFlt; omega) (by omega)
  have hk : u.dropCrossings.comparator (s.cutSpindle % 8) (s.cutComparator % 64) = s.comparator (s.cutSpindle % 8) (s.cutComparator % 64) :=
    State.comparator_congr (hreg _ (by unfold Reg.spnCmpAngle; omega) (by unfold Reg.spnCmpAngle; omega))
      (hreg _ (by unfold Reg.spnCmpCtl; omega) (by unfold Reg.spnCmpCtl; omega))
  have hfired : u.dropCrossings.firedSince cut = s.firedSince cut :=
    State.firedSince_congr hw.blk (congrArg SpnState.spin hw.spn) hw.chip hw.time hk cut
  have hprior : u.dropCrossings.appliedCheckpoint = s.appliedCheckpoint := by
    have hh : u.dropCrossings.hinge = s.hinge := hw.hinge
    rw [State.appliedCheckpoint, hh, State.appliedCheckpoint]
  have hup : u.dropCrossings.chip = s.chip := hw.chip
  rw [State.heldOf, hfired, hprior, hup, State.heldOf]

/-- A whole image that fits, is newer and comes under the ACTIVE peer's claim is the stored checkpoint, APPLYING, and no crossing of the cut
comparator waits. -/
theorem State.storeCheckpoint_holds (h : s.receivedWhole i tail) (hg : frontGens (s.receivedFront i) = s.gens) (hn : s.receivedNewer i)
    (hc : s.activeClaim = some i.claim) : let t := s.storeCheckpoint i tail
    t.hinge.incoming = none ∧ t.flag Reg.hngStatus Hng.applying = true ∧ t.mode = s.mode ∧
      t.hinge.stored = some (s.heldOf i (s.stampNs (u64 (s.receivedFront i) 20)) s.gens) ∧ ∀ e ∈ t.spn.due, s.cutCrossing e = false := by
  intro t
  have ht : t = _ := State.storeCheckpoint_stores h hg hn hc
  rw [hg, State.heldOf_closeImage] at ht
  generalize s.heldOf i (s.stampNs (u64 (s.receivedFront i) 20)) s.gens = c at ht ⊢
  have hw : Wrote s (s.engineWrite (engineWho Init.hinge) (s.ckHalf i.half + i.got) tail) := (Wrote.refl s).engineWrite _ _ _
  have hcalm : Calm (fun _ => False) s (s.closeImage i tail) := ((Calm.refl s).engineWrite _ _ _).same
  have hdue : ∀ e ∈ (s.closeImage i tail).spn.due, s.cutCrossing e = false := by
    intro e he
    have hkeep := (List.mem_filter.1 he).2
    rw [State.cutCrossing_congr hw.blk] at hkeep
    simpa using hkeep
  generalize s.closeImage i tail = u at ht hcalm hdue
  have hmode : Calm (fun _ => False) s (u.hold c).tell := ((hcalm.setHinge _).setFlag _ _ (not_sheltered (by decide))).tell
  have happly : (u.hold c).flag Reg.hngStatus Hng.applying = true := State.flag_setFlag _ _ _ true (by decide)
  have hhinge : (u.hold c).hinge = { u.hinge with incoming := none, stored := some c } := State.setReg_hinge _ _ _
  have hspn : (u.hold c).spn = u.spn := State.setReg_spn _ _ _
  generalize u.hold c = x at ht hmode happly hhinge hspn
  obtain ⟨hst, hin, hsp, -, hap⟩ := x.tell_shows
  rw [ht]
  refine ⟨by rw [hin, hhinge], hap.trans happly, hmode.mode, by rw [hst, hhinge], ?_⟩
  rw [hsp, hspn]
  exact hdue

/-! ### The stored checkpoint is applied -/

namespace Calm
variable {K : Nat → Prop} {z : State}

theorem applyTsk (h : Calm K z s) (b : List Byte) : Calm K z (s.applyTsk b) := by
  unfold State.applyTsk
  extract_lets u base
  have hu : Calm K z u := h.foldl fun v p _ hv => hv.setNum _ (not_sheltered_of_ge (by unfold Reg.tskPmode; omega))
  refine hu.foldl fun v n _ hv => ?_
  have hr : ¬ Sheltered K (Reg.tskTstate n) := not_sheltered_of_ge (by unfold Reg.tskTstate; omega)
  exact (((hv.setTask n _).setFld _ _ _ hr).setFlag _ _ hr).showTask n

theorem applyCle (h : Calm K z s) (b : List Byte) : Calm K z (s.applyCle b) := by
  unfold State.applyCle
  extract_lets u
  have hu : Calm K z u := h.foldl fun v k _ hv => hv.setNum _ (not_sheltered_of_ge (by unfold Reg.cleLen; omega))
  refine hu.foldl fun v l _ hv => ?_
  extract_lets o w loop
  have hw : Calm K z w := hv.foldl fun x k _ hx => hx.setNum _ (not_sheltered_of_ge (by unfold Reg.cleLp; omega))
  exact hw.same

theorem restoreAxis (h : Calm K z s) (n : Nat) (pos target : Int) (homed lost reduced still : Bool) :
    Calm K z (s.restoreAxis n pos target homed lost reduced still) := by
  have hpos := (h.setAxis n { s.axis n with move := none, held := none, target := target, since := s.tick }).setNum (r := Reg.prfPos n)
    (unsigned 32 pos) (not_sheltered_of_ge (by unfold Reg.prfPos; omega))
  exact ((hpos.setAstate n 27 homed).setAstate n 26 reduced).setLost n _

theorem applyPrf (h : Calm K z s) (b : List Byte) : Calm K z (s.applyPrf b) :=
  h.foldl fun _ n _ hu => ((hu.restoreAxis n _ _ _ _ _ _).setNum _ (not_sheltered_of_ge (by unfold Reg.prfTgt; omega))).ite hu

theorem applyFed (h : Calm K z s) (b : List Byte) : Calm K z (s.applyFed b) := by
  unfold State.applyFed
  extract_lets u
  have hu : Calm K z u := h.foldl fun v k _ hv => hv.setNum _ (not_sheltered_of_ge (by unfold Reg.fedStatus; omega))
  refine hu.foldl fun v c _ hv => ?_
  extract_lets o w
  have hw : Calm K z w := hv.setNum _ (not_sheltered_of_ge (by unfold Reg.fedChild; omega))
  exact hw.same

theorem applyItem (h : Calm K z s) (i : ImageItem) (a : Nat) (d : List Byte) : Calm K z (s.applyItem i a d) := by
  unfold State.applyItem
  split
  · exact h.engineWrite _ _ _
  · exact h.engineWrite _ _ _
  · exact h.applyTsk d
  · exact h.applyCle d
  · exact h.applyPrf d
  · exact h.applyFed d

theorem applyItems (h : Calm K z s) (base : Nat) (is : List ImageItem) (off : Nat) : Calm K z (State.applyItems base is off s) := by
  induction is generalizing s off with
  | nil => exact h
  | cons i is ih => exact ih (h.applyItem i _ _) _

end Calm

/-- The items are in place: the checkpoint is applied, and HNG shows its number. -/
def State.endApply (s : State) (c : CheckpointHeld) : State :=
  ((s.setHinge { s.hinge with stored := some { c with applied := true, prior := none } }).setFlag Reg.hngStatus Hng.applying false).setNum
    Reg.hngCkseq c.seq

theorem State.applyStored_eq (s : State) (c : CheckpointHeld) :
    s.applyStored c = (State.applyItems (s.ckHalf c.half) s.items 64 s).endApply c := rfl

theorem State.endApply_shows (s : State) (c : CheckpointHeld) : (s.endApply c).hinge.stored = some { c with applied := true, prior := none } ∧
    (s.endApply c).flag Reg.hngStatus Hng.applying = false ∧ (s.endApply c).num Reg.hngCkseq = c.seq % 2 ^ 32 := by
  unfold State.endApply
  have hh : (s.setHinge { s.hinge with stored := some { c with applied := true, prior := none } }).hinge.stored =
    some { c with applied := true, prior := none } := rfl
  generalize s.setHinge { s.hinge with stored := some { c with applied := true, prior := none } } = u at hh ⊢
  have hflag : (u.setFlag Reg.hngStatus Hng.applying false).flag Reg.hngStatus Hng.applying = false := State.flag_setFlag _ _ _ false (by decide)
  have hhinge : (u.setFlag Reg.hngStatus Hng.applying false).hinge = u.hinge := State.setReg_hinge _ _ _
  generalize u.setFlag Reg.hngStatus Hng.applying false = x at hflag hhinge
  refine ⟨?_, (State.flag_setReg_ne _ _ _ (by decide)).trans hflag, ?_⟩
  · rw [State.setNum, State.setReg_hinge, hhinge, hh]
  · rw [State.num, State.setNum, State.reg_setReg_same, BitVec.toNat_ofNat]

/-- R508: what the end of an apply leaves. -/
theorem State.applyStored_applies (s : State) (c : CheckpointHeld) : let t := (s.applyStored c).tell
    t.hinge.stored = some { c with applied := true, prior := none } ∧ t.mode = s.mode ∧ t.flag Reg.hngStatus Hng.applying = false ∧
      t.num Reg.hngCkseq = c.seq % 2 ^ 32 ∧ t.chip = s.chip := by
  intro t
  have ht : t = (s.applyStored c).tell := rfl
  have hitems : Calm (fun _ => False) s (State.applyItems (s.ckHalf c.half) s.items 64 s) := (Calm.refl s).applyItems _ _ _
  rw [State.applyStored_eq] at ht
  generalize State.applyItems (s.ckHalf c.half) s.items 64 s = u at ht hitems
  have hcalm : Calm (fun _ => False) s (u.endApply c).tell :=
    (((hitems.setHinge _).setFlag _ _ (not_sheltered (by decide))).setNum _ (not_sheltered (by decide))).tell
  obtain ⟨hstored, happly, hseq⟩ := u.endApply_shows c
  generalize u.endApply c = x at ht hcalm hstored happly hseq
  obtain ⟨hst, -, -, hreg, hap⟩ := x.tell_shows
  rw [ht]
  refine ⟨hst.trans hstored, hcalm.mode, hap.trans happly, ?_, hcalm.chip⟩
  rw [State.num, hreg _ (by decide) (by decide)]
  exact hseq

theorem exec_checkpointApply (s : State) : exec .checkpointApply s =
    .next (if s.mode == Mode.standby && s.flag Reg.hngStatus Hng.applying then s.finishApply.tell else s) := rfl

section
variable (hm : s.mode = Mode.standby) (hf : s.flag Reg.hngStatus Hng.applying = true)
include hm hf

theorem exec_checkpointApply_applying : exec .checkpointApply s = .next s.finishApply.tell := by
  rw [exec_checkpointApply, if_pos (by simp [hm, hf])]

theorem checkpointApply_applies {c : CheckpointHeld} (hc : s.hinge.stored = some c) (ha : c.applied = false) : Completes .checkpointApply s fun t =>
    t.hinge.stored = some { c with applied := true, prior := none } ∧ t.mode = s.mode ∧ t.flag Reg.hngStatus Hng.applying = false ∧
      t.num Reg.hngCkseq = c.seq % 2 ^ 32 ∧ t.chip.up = (s.elapse ((c.since + c.len / 32 - s.chip.up + 3) / 4)).chip.up := by
  refine ⟨_, exec_checkpointApply_applying hm hf, ?_⟩
  have hfinish : s.finishApply = (s.elapse ((c.since + c.len / 32 - s.chip.up + 3) / 4)).applyStored c := by
    rw [State.finishApply, hc]
    simp only [ha, Bool.false_eq_true, if_false]
  have hmode : (s.elapse ((c.since + c.len / 32 - s.chip.up + 3) / 4)).mode = s.mode := ((Steady.refl (M := False) s).elapse _).mode
  rw [hfinish]
  generalize s.elapse ((c.since + c.len / 32 - s.chip.up + 3) / 4) = u at hmode ⊢
  obtain ⟨hstored, hmd, hflag, hseq, hchip⟩ := u.applyStored_applies c
  exact ⟨hstored, hmd.trans hmode, hflag, hseq, congrArg ChipState.up hchip⟩

theorem checkpointApply_tells (hc : ∀ c, s.hinge.stored = some c → c.applied = true) : Completes .checkpointApply s (· = s.tell) := by
  refine ⟨_, exec_checkpointApply_applying hm hf, ?_⟩
  have hfinish : s.finishApply = s := by
    unfold State.finishApply
    split
    next c hs => exact if_pos (hc c hs)
    next => rfl
  rw [hfinish]

end

theorem checkpointApply_idles (h : s.mode ≠ Mode.standby ∨ s.flag Reg.hngStatus Hng.applying = false) : Idles .checkpointApply s := by
  show exec _ s = _
  rw [exec_checkpointApply, if_neg]
  simp only [Bool.and_eq_true, beq_iff_eq]
  rintro ⟨hm, hf⟩
  rcases h with h | h
  · exact h hm
  · rw [h] at hf
    contradiction

/-- Settles O40: each command by its cases; a cut is a write of CKSEQ and packets, a packet is one of the image that comes in, and an apply ends
in what the stored checkpoint says. -/
theorem checkpointsAreCutStoredAndApplied : Obligations.CheckpointsAreCutStoredAndApplied := by
  intro s skipped
  have hskip {u : State} (h : CutSkipped s u) : skipped s u := ⟨h.hinge, h.ckseq, h.mode, h.mem, h.rises, h.counts⟩
  refine ⟨fun due hdue => ⟨?_, _, exec_cutSkipped hdue, ?_⟩, fun h => cut_idles h, ?_, fun b => ?_, fun c hm hf hc ha => checkpointApply_applies hm hf hc ha,
    fun hm hf hc => checkpointApply_tells hm hf hc, fun h => checkpointApply_idles h⟩
  · have e := exec_cut hdue
    split
    next hquiet =>
      rw [if_pos hquiet] at e
      refine ⟨_, e, ?_⟩
      split
      · exact hskip s.skipCut_skips
      · exact s.takeCut_takes
    next hnot =>
      rw [if_neg hnot] at e
      exact e
  · have h := (s.elapse ((due + 1000 * s.cutWait - s.chip.up + 3) / 4)).skipCut_skips
    obtain ⟨hseq, hmode, hmem, hcounts⟩ := h.after_elapse
    exact ⟨h.hinge, hseq, hmode, hmem, h.rises, hcounts⟩
  · have e := exec_checkpointSent s
    split
    next hs =>
      rw [if_pos hs] at e
      exact ⟨_, e, rfl⟩
    next hs =>
      rw [if_neg hs] at e
      exact e
  · refine ⟨fun hc => ?_, fun hc ht => checkpointPacket_head hc ht, fun hc ht hi => ?_, fun i hc ht hi => ⟨fun hn => checkpointPacket_astray hc ht hi hn,
      fun hn hd => checkpointPacket_data hc ht hi hn hd, fun hn hd hbad => checkpointPacket_discards hc ht hi hn hd hbad,
      fun hn hd hw hg => checkpointPacket_misfits hc ht hi hn hd hw hg, fun hn hd hw hg hnew hclaim => ?_⟩⟩
    · exact congrArg Host.Outcome.next (State.receiveCheckpoint_ignored hc)
    · exact congrArg Host.Outcome.next (State.receiveCheckpoint_unannounced hc ht hi)
    · refine ⟨_, exec_checkpointPacket_tail hc ht hi hn hd, ?_⟩
      obtain ⟨hin, hap, hmode, hst, hdue⟩ := State.storeCheckpoint_holds hw hg hnew hclaim
      refine ⟨hin, hap, hmode, _, hst, rfl, rfl, rfl, rfl, rfl, rfl, rfl, rfl, rfl, fun e he hcut => ?_⟩
      have hno := hdue e he
      simp [State.cutCrossing, hcut] at hno

end Sys2Proof.Machine
end
section
/-! A step (00): the command in front runs, or 4 ns pass. -/
namespace Sys2Proof.Machine

/-- Settles O1: by the two forms of the queue; with no packet of its own to deliver the part idles. -/
theorem stepRunsTheFrontCommandOrLetsTimePass : Obligations.StepRunsTheFrontCommandOrLetsTimePass := by
  refine ⟨fun c rest s h => ?_, fun s hp hl => ?_⟩
  · rw [step, h]
  · rw [step, hp]
    exact congrArg Host.Outcome.next (if_pos (by rw [hl]; rfl))

end Sys2Proof.Machine
end

section
/-! What the motion of spindles changes (04): their records, their STATE words, the crossings that wait and the pending sources. -/
namespace Sys2Proof.Machine

/-! ### The frame -/

theorem spnState_injective : Function.Injective Reg.spnState := fun m n h => by
  simp only [Reg.spnState] at h
  omega

/-- From `z` to `t` spindles of `N` moved, and no other; nothing changes but their records and STATE words, the crossings that wait and the
sources pending, of which none falls. -/
structure SpinsMoved (N : Nat → Prop) (z t : State) : Prop where
  only : t = { z with spn := t.spn, regs := t.regs, plic := t.plic }
  spin : ∀ m, ¬ N m → t.spin m = z.spin m
  reg : ∀ q, (∀ m, N m → q ≠ Reg.spnState m) → t.reg q = z.reg q
  rises : ∀ k, z.pendingSource k = true → t.pendingSource k = true

namespace SpinsMoved
variable {N M : Nat → Prop} {z s t : State} {n : Nat}

theorem refl (s : State) : SpinsMoved N s s := ⟨rfl, fun _ _ => rfl, fun _ _ => rfl, fun _ h => h⟩

theorem trans (h : SpinsMoved N z s) (k : SpinsMoved N s t) : SpinsMoved N z t where
  only := k.only.trans (congrArg (fun x : State => { x with spn := t.spn, regs := t.regs, plic := t.plic }) h.only)
  spin m hm := (k.spin m hm).trans (h.spin m hm)
  reg q hq := (k.reg q hq).trans (h.reg q hq)
  rises k' hk := k.rises k' (h.rises k' hk)

theorem weaken (h : SpinsMoved N z t) (hM : ∀ m, N m → M m) : SpinsMoved M z t :=
  ⟨h.only, fun m hm => h.spin m fun hn => hm (hM m hn), fun q hq => h.reg q fun m hm => hq m (hM m hm), h.rises⟩

theorem ite {c : Prop} [Decidable c] {a b : State} (h : SpinsMoved N z a) (k : SpinsMoved N z b) : SpinsMoved N z (if c then a else b) := by
  split <;> assumption

theorem foldl {α : Type} {l : List α} {f : State → α → State} (h : SpinsMoved N z s)
    (hf : ∀ u x, x ∈ l → SpinsMoved N z u → SpinsMoved N z (f u x)) : SpinsMoved N z (l.foldl f s) :=
  List.foldlRecOn l f h fun u hu x hx => hf u x hx hu

theorem setSpin (h : SpinsMoved N z s) (hn : N n) (p : Spindle) : SpinsMoved N z (s.setSpin n p) :=
  h.trans ⟨rfl, fun m hm => Tab.get_set_ne _ _ _ _ (by rintro rfl; exact hm hn), fun _ _ => rfl, fun _ hk => hk⟩

theorem raise (h : SpinsMoved N z s) (k : Nat) : SpinsMoved N z (s.raise k) := by
  refine h.trans ⟨?_, fun m _ => ?_, fun q _ => s.raise_reg k q, s.pendingSource_raise k⟩
  all_goals rw [State.raise_only]
  rfl

theorem setState (h : SpinsMoved N z s) (hn : N n) (b : Nat) (v : Bool) : SpinsMoved N z (s.setFlag (Reg.spnState n) b v) :=
  h.trans ⟨rfl, fun _ _ => rfl, fun q hq => State.reg_setReg_ne s _ q _ (hq n hn), fun _ hk => hk⟩

theorem setSpinFlag (h : SpinsMoved N z s) (hn : N n) (b : Nat) (v : Bool) : SpinsMoved N z (s.setSpinFlag n b v) :=
  h.ite (((h.setState hn b v).raise _).ite (h.setState hn b v))

theorem moveSpindle (h : SpinsMoved N z s) (hn : N n) (d : Int) (k : Nat) : SpinsMoved N z (s.moveSpindle n d k) :=
  h.ite ((h.setSpin hn _).trans ⟨rfl, fun _ _ => rfl, fun _ _ => rfl, fun _ hk => hk⟩)

theorem correctSpindle (h : SpinsMoved N z s) (hn : N n) (d : Int) : SpinsMoved N z (s.correctSpindle n d) :=
  (h.moveSpindle hn d 0).ite (h.setSpin hn _)

theorem finishRejoin (h : SpinsMoved N z s) (hn : N n) : SpinsMoved N z (s.finishRejoin n) := by
  unfold State.finishRejoin
  extract_lets u p v w
  have hu : SpinsMoved N z u := h.correctSpindle hn _
  have hv : SpinsMoved N z v := (hu.setSpin hn _).ite hu
  exact (((hv.setSpin hn _).setSpinFlag hn _ _).setSpinFlag hn _ _).setSpinFlag hn _ _

theorem noteSpindle (h : SpinsMoved N z s) (hn : N n) : SpinsMoved N z (s.noteSpindle n) := (h.setSpin hn _).setSpinFlag hn _ _

theorem elapseSpindle (h : SpinsMoved N z s) (hn : N n) (d t0 t1 : Nat) : SpinsMoved N z (s.elapseSpindle n d t0 t1) := by
  unfold State.elapseSpindle
  refine h.ite (noteSpindle (ite ?_ ?_) hn)
  · exact (h.setSpin hn _).moveSpindle hn _ _
  · exact (((h.setSpin hn _).moveSpindle hn _ _).finishRejoin hn).ite ((h.setSpin hn _).moveSpindle hn _ _)

theorem startRejoin (h : SpinsMoved N z s) (hn : N n) : SpinsMoved N z (s.startRejoin n) :=
  (h.finishRejoin hn).ite ((h.setSpin hn _).setSpinFlag hn _ _)

theorem sourceKnown (h : SpinsMoved N z s) (hn : N n) : SpinsMoved N z (s.sourceKnown n) :=
  ((h.setSpin hn _).setSpinFlag hn _ _).startRejoin hn

theorem noteEvent (h : SpinsMoved N z s) (hn : N n) : SpinsMoved N z (s.noteEvent n) := (h.noteSpindle hn).setSpin hn _

theorem afterStep (h : SpinsMoved N z s) (hn : N n) (g d : Int) : SpinsMoved N z (s.afterStep n g d) := (h.finishRejoin hn).ite h

theorem sourceStep (h : SpinsMoved N z s) (hn : N n) (d : Int) (knows : Bool) : SpinsMoved N z (s.sourceStep n d knows) := by
  unfold State.sourceStep
  have hu := h.setSpin hn ((s.spin n).moveSource d)
  exact noteEvent (ite (hu.moveSpindle hn _ _) (ite (hu.afterStep hn _ _) ((hu.sourceKnown hn).ite hu))) hn

theorem sourceAngle (h : SpinsMoved N z s) (hn : N n) (p : Spindle) (near : Bool) : SpinsMoved N z (s.sourceAngle n p near) := by
  unfold State.sourceAngle
  have hu := h.setSpin hn p
  exact ite (hu.finishRejoin hn) (ite (hu.afterStep hn _ _) (hu.sourceKnown hn))

theorem shaftCount (h : SpinsMoved N z s) (hn : N n) (rev : Bool) : SpinsMoved N z (s.shaftCount n rev) :=
  ((h.setSpin hn _).setSpinFlag hn _ _).sourceStep hn _ _

theorem shaftIndex (h : SpinsMoved N z s) (hn : N n) : SpinsMoved N z (s.shaftIndex n) := by
  unfold State.shaftIndex
  exact noteEvent ((h.sourceAngle hn _ _).ite ((h.setSpinFlag hn _ _).sourceAngle hn _ _)) hn

theorem mainsStep (h : SpinsMoved N z s) (hn : N n) (err adv pll : Nat) : SpinsMoved N z (s.mainsStep n err adv pll) :=
  ((h.setSpin hn _).setSpinFlag hn _ _).sourceStep hn _ _

theorem pulseStep (h : SpinsMoved N z s) (hn : N n) (locked : Bool) (adv pll : Nat) : SpinsMoved N z (s.pulseStep n locked adv pll) :=
  ((h.setSpin hn _).setSpinFlag hn _ _).sourceStep hn _ _

theorem roundStep (h : SpinsMoved N z s) (hn : N n) (start period : Nat) : SpinsMoved N z (s.roundStep n start period) :=
  (h.sourceAngle hn _ _).noteEvent hn

theorem reanchor (h : SpinsMoved N z s) (hn : N n) : SpinsMoved N z (s.reanchor n) := by
  unfold State.reanchor
  exact ((h.setSpin hn _).startRejoin hn).ite h

/-! ### What follows from it -/

theorem mem (h : SpinsMoved N z t) : t.mem = z.mem := by rw [h.only]
theorem bus (h : SpinsMoved N z t) : t.bus = z.bus := by rw [h.only]
theorem chip (h : SpinsMoved N z t) : t.chip = z.chip := by rw [h.only]
theorem time (h : SpinsMoved N z t) : t.time = z.time := by rw [h.only]
theorem now (h : SpinsMoved N z t) : t.now = z.now := by rw [State.now, h.time, State.now]
theorem tim (h : SpinsMoved N z t) : t.tim = z.tim := by rw [h.only]
theorem rtc (h : SpinsMoved N z t) : t.rtc = z.rtc := by rw [h.only]
theorem blk (h : SpinsMoved N z t) : t.blk = z.blk := by rw [h.only]

/-- A spindle that did not move shows what it showed. -/
theorem state (h : SpinsMoved N z t) (hn : ¬ N n) : t.reg (Reg.spnState n) = z.reg (Reg.spnState n) :=
  h.reg _ fun _ hm e => hn (spnState_injective e ▸ hm)

theorem spinFlag (h : SpinsMoved N z t) (hn : ¬ N n) (b : Nat) : t.spinFlag n b = z.spinFlag n b := by
  rw [State.spinFlag, State.flag, h.state hn]
  rfl

theorem follows (h : SpinsMoved N z t) (hn : ¬ N n) : t.follows n = z.follows n := by
  rw [State.follows, h.spinFlag hn, h.spinFlag hn, h.spin n hn, State.follows]

end SpinsMoved

end Sys2Proof.Machine
end
section
/-! What each operation of a spindle's motion makes of it (04): its angle against its source's, its record, its STATE word. -/
namespace Sys2Proof.Machine

/-! ### Angles -/

/-- The difference is 0 where spindle and source stand at one angle. -/
theorem Spindle.gap_eq_zero_iff (p : Spindle) : p.gap = 0 ↔ p.pos % 2 ^ 32 = p.src % 2 ^ 32 := by
  simp only [Spindle.gap]
  split <;> omega

/-- A position that moves by the difference stands at the source's angle. -/
theorem Spindle.angle_add_gap (p : Spindle) : unsigned 64 ((p.pos : Int) + p.gap) % 2 ^ 32 = p.src % 2 ^ 32 := by
  simp only [Spindle.gap, unsigned]
  split <;> omega

/-- A position that moves by its difference from a goal reaches the goal. -/
theorem unsigned_add_diff64 (pos goal : Nat) : unsigned 64 ((pos : Int) + diff64 goal pos) = goal % 2 ^ 64 := by
  simp only [unsigned, diff64, signed]
  split <;> omega

/-! ### Records and flags -/

section
variable (s : State) (n : Nat)

@[simp] theorem State.setSpin_spin (p : Spindle) : (s.setSpin n p).spin n = p := Tab.get_set_eq _ _ _
@[simp] theorem State.setSpin_spinFlag (p : Spindle) (m b : Nat) : (s.setSpin n p).spinFlag m b = s.spinFlag m b := rfl

@[simp] theorem State.setSpinFlag_spin (b : Nat) (v : Bool) (m : Nat) : (s.setSpinFlag n b v).spin m = s.spin m := by
  have h := State.raise_spn (s.setFlag (Reg.spnState n) b v) (80 + n)
  unfold State.setSpinFlag
  split
  · rfl
  · dsimp only
    split
    · rw [State.spin, h]
      rfl
    · rfl

/-- A flag reads what was written to it, any other what it read. -/
theorem State.setSpinFlag_spinFlag (b : Nat) (v : Bool) (c : Nat) (hb : b < 32) :
    (s.setSpinFlag n b v).spinFlag n c = if c = b then v else s.spinFlag n c := by
  have hset : (s.setFlag (Reg.spnState n) b v).flag (Reg.spnState n) c = if c = b then v else s.spinFlag n c := by
    split
    next e => rw [e]; exact State.flag_setFlag s _ b v hb
    next e => exact State.flag_setFlag_ne s _ b c v hb e
  unfold State.setSpinFlag
  split
  next h => split <;> simp_all
  next =>
    dsimp only
    split
    · rw [State.spinFlag, State.raise_flag, hset]
    · exact hset

theorem State.setSpinFlag_same (b : Nat) (v : Bool) (hb : b < 32) : (s.setSpinFlag n b v).spinFlag n b = v := by
  rw [State.setSpinFlag_spinFlag _ _ _ _ _ hb, if_pos rfl]
theorem State.setSpinFlag_ne (b : Nat) (v : Bool) (c : Nat) (hb : b < 32) (hc : c ≠ b) : (s.setSpinFlag n b v).spinFlag n c = s.spinFlag n c := by
  rw [State.setSpinFlag_spinFlag _ _ _ _ _ hb, if_neg hc]

/-- The record of a spindle that has moved by `d`. -/
def Spindle.moved (p : Spindle) (d : Int) : Spindle :=
  if d.natAbs = 0 then p else { p with pos := unsigned 64 ((p.pos : Int) + d), travel := (p.travel + d.natAbs) % 2 ^ 64 }

theorem State.moveSpindle_spin (d : Int) (k : Nat) : (s.moveSpindle n d k).spin n = (s.spin n).moved d := by
  unfold State.moveSpindle Spindle.moved
  dsimp only
  split
  · rfl
  · exact Tab.get_set_eq _ _ _

@[simp] theorem State.moveSpindle_spinFlag (d : Int) (k m b : Nat) : (s.moveSpindle n d k).spinFlag m b = s.spinFlag m b := by
  unfold State.moveSpindle
  dsimp only
  split <;> rfl

@[simp] theorem State.correctSpindle_spinFlag (d : Int) (m b : Nat) : (s.correctSpindle n d).spinFlag m b = s.spinFlag m b := by
  unfold State.correctSpindle
  split
  · exact State.moveSpindle_spinFlag _ _ _ _ _ _
  · rfl

/-- A correction moves the position; what else it changes is TRAVEL. -/
theorem State.correctSpindle_spin (d : Int) : ∃ k, (s.correctSpindle n d).spin n =
    { s.spin n with pos := unsigned 64 (((s.spin n).pos : Int) + d), travel := k } := by
  unfold State.correctSpindle
  split
  next h =>
    exact ⟨_, (State.moveSpindle_spin s n d 0).trans (if_neg (by omega))⟩
  next => exact ⟨_, State.setSpin_spin _ _ _⟩

/-- A sample changes the samples and what they measure. -/
theorem State.noteSpindle_spin : ∃ xs ys o g, (s.noteSpindle n).spin n =
    { s.spin n with hist := xs, srcHist := ys, outSince := o, goodRate := g } :=
  ⟨_, _, _, _, (State.setSpinFlag_spin _ _ _ _ _).trans (State.setSpin_spin _ _ _)⟩

theorem State.noteSpindle_spinFlag {b : Nat} (hb : b ≠ Spn.range) : (s.noteSpindle n).spinFlag n b = s.spinFlag n b :=
  State.setSpinFlag_ne _ _ _ _ _ (by decide) hb

/-- An event of the source changes the samples, what they measure, and the record of the event. -/
theorem State.noteEvent_spin : ∃ xs ys o g p r, (s.noteEvent n).spin n = { s.spin n with
    hist := xs, srcHist := ys, outSince := o, goodRate := g, eventPos := p, eventAt := s.chip.ran, lost := false, eventRate := r } := by
  obtain ⟨xs, ys, o, g, e⟩ := s.noteSpindle_spin n
  have hc : (s.noteSpindle n).chip = s.chip := ((SpinsMoved.refl (N := (· = n)) s).noteSpindle rfl).chip
  unfold State.noteEvent
  rw [State.setSpin_spin, e, hc]
  exact ⟨xs, ys, o, g, _, _, rfl⟩

theorem State.noteEvent_spinFlag {b : Nat} (hb : b ≠ Spn.range) : (s.noteEvent n).spinFlag n b = s.spinFlag n b :=
  State.noteSpindle_spinFlag s n hb

end

/-- The sources of spindles are the configuration's. -/
theorem State.spindleSrc_congr {s t : State} (h : t.blk = s.blk) (n : Nat) : t.spindleSrc n = s.spindleSrc n := by
  unfold State.spindleSrc State.hasSection State.spindleBody State.body
  rw [h]

/-! ### A rejoin that ends (R174) -/

/-- Spindle `n` follows its source: no substitute, no rejoin, no seasoning, and its source's angle known; its own angle is the source's, unless
its source is device time, which gives it its anchored one. -/
structure Settled (s : State) (n : Nat) : Prop where
  subst : s.spinFlag n Spn.subst = false
  rejoin : s.spinFlag n Spn.rejoin = false
  seasoning : s.spinFlag n Spn.seasoning = false
  known : (s.spin n).known = true
  gap : s.spindleSrc n ≠ Src.time → (s.spin n).gap = 0

/-- The source's side of a spindle, and its substitute rate. -/
def Spindle.sourceSide (p : Spindle) := (p.src, p.count, p.pll, p.goodCycles, p.origin, p.period, p.sub)

section
variable {p q : Spindle} (h : p.sourceSide = q.sourceSide)
include h

theorem Spindle.src_of_side : p.src = q.src := congrArg (·.1) h
theorem Spindle.count_of_side : p.count = q.count := congrArg (·.2.1) h
theorem Spindle.pll_of_side : p.pll = q.pll := congrArg (·.2.2.1) h
theorem Spindle.goodCycles_of_side : p.goodCycles = q.goodCycles := congrArg (·.2.2.2.1) h
theorem Spindle.origin_of_side : p.origin = q.origin := congrArg (·.2.2.2.2.1) h
theorem Spindle.period_of_side : p.period = q.period := congrArg (·.2.2.2.2.2.1) h

end

/-- The flags that the rejoin of a spindle and its samples write. -/
def motionFlags : List Nat := [Spn.subst, Spn.seasoning, Spn.rejoin, Spn.range]

/-- From `z` to `t` spindle `n` moves, by itself or to its source; the source's side and the flags of its lock, direction and index stand. -/
structure Answers (n : Nat) (z t : State) : Prop where
  moved : SpinsMoved (· = n) z t
  side : (t.spin n).sourceSide = (z.spin n).sourceSide
  shown : ∀ b, b ∉ motionFlags → t.spinFlag n b = z.spinFlag n b

namespace Answers
variable {n : Nat} {z s t : State}

theorem refl (s : State) : Answers n s s := ⟨.refl s, rfl, fun _ _ => rfl⟩

theorem trans (h : Answers n z s) (k : Answers n s t) : Answers n z t :=
  ⟨h.moved.trans k.moved, k.side.trans h.side, fun b hb => (k.shown b hb).trans (h.shown b hb)⟩

theorem ite {c : Prop} [Decidable c] {a b : State} (h : Answers n z a) (k : Answers n z b) : Answers n z (if c then a else b) := by
  split <;> assumption

/-- The spindle's record changes but for the source's side. -/
theorem setMotion {pos travel acc eventPos eventAt : Nat} {known lost : Bool} {eventRate goodRate : Int} {outSince : Option Nat}
    {hist srcHist : List (Int × Nat)} (h : Answers n z s) : Answers n z (s.setSpin n { s.spin n with
      pos := pos, travel := travel, acc := acc, known := known, eventPos := eventPos, eventAt := eventAt, eventRate := eventRate, lost := lost
      outSince := outSince, goodRate := goodRate, hist := hist, srcHist := srcHist }) :=
  h.trans ⟨(SpinsMoved.refl s).setSpin (by rfl) _, by rw [State.setSpin_spin]; rfl, fun _ _ => rfl⟩

theorem setPos (h : Answers n z s) (x : Nat) : Answers n z (s.setSpin n { s.spin n with pos := x }) := h.setMotion

theorem setSpinFlag {b : Nat} (h : Answers n z s) (hb : b ∈ motionFlags) (v : Bool) : Answers n z (s.setSpinFlag n b v) := by
  have hlt : ∀ b ∈ motionFlags, b < 32 := by decide
  refine h.trans ⟨(SpinsMoved.refl s).setSpinFlag (by rfl) b v, by rw [State.setSpinFlag_spin], fun c hc => ?_⟩
  exact State.setSpinFlag_ne s n b v c (hlt b hb) (by rintro rfl; exact hc hb)

theorem moveSpindle (h : Answers n z s) (d : Int) (k : Nat) : Answers n z (s.moveSpindle n d k) := by
  refine h.trans ⟨(SpinsMoved.refl s).moveSpindle (by rfl) d k, ?_, fun b _ => State.moveSpindle_spinFlag s n d k n b⟩
  rw [State.moveSpindle_spin, Spindle.moved]
  split <;> rfl

theorem correctSpindle (h : Answers n z s) (d : Int) : Answers n z (s.correctSpindle n d) := by
  unfold State.correctSpindle
  exact (h.moveSpindle d 0).ite h.setMotion

theorem anchored {c : Prop} [Decidable c] (h : Answers n z s) (x : Nat) :
    Answers n z (if c then s.setSpin n { s.spin n with pos := x } else s) := (h.setPos x).ite h

theorem finishRejoin (h : Answers n z s) : Answers n z (s.finishRejoin n) := by
  unfold State.finishRejoin
  generalize hu : s.correctSpindle n (s.spin n).gap = u
  have h : Answers n z u := hu ▸ h.correctSpindle _
  dsimp only
  generalize unsigned 64 (angleOf u.now (u.spindleOrigin n) (u.spindlePeriod n)) = x
  exact (((h.anchored x).setMotion.setSpinFlag (by decide) _).setSpinFlag (by decide) _).setSpinFlag (by decide) _

theorem startRejoin (h : Answers n z s) : Answers n z (s.startRejoin n) := by
  unfold State.startRejoin
  exact h.finishRejoin.ite (h.setMotion.setSpinFlag (by decide) _)

theorem sourceKnown (h : Answers n z s) : Answers n z (s.sourceKnown n) := by
  unfold State.sourceKnown
  exact (h.setMotion.setSpinFlag (by decide) _).startRejoin

theorem afterStep (h : Answers n z s) (g d : Int) : Answers n z (s.afterStep n g d) := by
  unfold State.afterStep
  exact h.finishRejoin.ite h

theorem noteSpindle (h : Answers n z s) : Answers n z (s.noteSpindle n) := by
  unfold State.noteSpindle
  exact h.setMotion.setSpinFlag (by decide) _

theorem noteEvent (h : Answers n z s) : Answers n z (s.noteEvent n) := by
  unfold State.noteEvent
  exact h.noteSpindle.setMotion

end Answers

variable (s : State) (n : Nat)

theorem State.finishRejoin_spinFlag (b : Nat) : (s.finishRejoin n).spinFlag n b =
    if b = Spn.seasoning then false else if b = Spn.rejoin then false else if b = Spn.subst then false else s.spinFlag n b := by
  unfold State.finishRejoin
  extract_lets u p v w
  have hu : u.spinFlag n b = s.spinFlag n b := s.correctSpindle_spinFlag n _ n b
  have hv : v.spinFlag n b = s.spinFlag n b := by
    simp only [v]
    split
    · rw [State.setSpin_spinFlag, hu]
    · exact hu
  rw [State.setSpinFlag_spinFlag _ _ _ _ _ (by decide), State.setSpinFlag_spinFlag _ _ _ _ _ (by decide),
    State.setSpinFlag_spinFlag _ _ _ _ _ (by decide), State.setSpin_spinFlag, hv]

/-- Where device time is not its source, a spindle takes its source's angle. -/
theorem State.finishRejoin_gap (h : s.spindleSrc n ≠ Src.time) : ((s.finishRejoin n).spin n).gap = 0 := by
  obtain ⟨k, hk⟩ := s.correctSpindle_spin n (s.spin n).gap
  have hsrc : (s.correctSpindle n (s.spin n).gap).spindleSrc n ≠ Src.time := by
    rwa [State.spindleSrc_congr ((SpinsMoved.refl (N := (· = n)) s).correctSpindle rfl _).blk]
  unfold State.finishRejoin
  dsimp only
  rw [if_neg hsrc, State.setSpinFlag_spin, State.setSpinFlag_spin, State.setSpinFlag_spin, State.setSpin_spin, hk, Spindle.gap_eq_zero_iff]
  exact (s.spin n).angle_add_gap

theorem State.finishRejoin_settled : Settled (s.finishRejoin n) n := by
  refine ⟨s.finishRejoin_spinFlag n _, s.finishRejoin_spinFlag n _, s.finishRejoin_spinFlag n _, ?_, fun h => ?_⟩
  · unfold State.finishRejoin
    rw [State.setSpinFlag_spin, State.setSpinFlag_spin, State.setSpinFlag_spin, State.setSpin_spin]
  · rw [State.spindleSrc_congr ((SpinsMoved.refl (N := (· = n)) s).finishRejoin rfl).blk] at h
    exact s.finishRejoin_gap n h

/-- A rejoin has started: it goes on until the difference is 0. -/
theorem State.startRejoin_shows (hk : (s.spin n).known = true) : ((s.startRejoin n).spin n).known = true ∧
    ((s.startRejoin n).spinFlag n Spn.rejoin = true ∨ (s.spin n).gap = 0 ∧ Settled (s.startRejoin n) n) := by
  unfold State.startRejoin
  split
  next hg => exact ⟨(s.finishRejoin_settled n).known, .inr ⟨hg, s.finishRejoin_settled n⟩⟩
  next =>
    refine ⟨?_, .inl (State.setSpinFlag_same _ _ _ _ (by decide))⟩
    rw [State.setSpinFlag_spin, State.setSpin_spin, hk]

/-- A source whose angle is known is rejoined. -/
theorem State.sourceKnown_shows : ((s.sourceKnown n).spin n).known = true ∧
    ((s.sourceKnown n).spinFlag n Spn.rejoin = true ∨ (s.spin n).gap = 0 ∧ Settled (s.sourceKnown n) n) := by
  have hspin : (((s.setSpin n { s.spin n with known := true }).setSpinFlag n Spn.seasoning false).spin n) = { s.spin n with known := true } := by
    rw [State.setSpinFlag_spin, State.setSpin_spin]
  obtain ⟨hknown, hrest⟩ := State.startRejoin_shows ((s.setSpin n { s.spin n with known := true }).setSpinFlag n Spn.seasoning false) n (by rw [hspin])
  rw [hspin] at hrest
  exact ⟨hknown, hrest⟩

end Sys2Proof.Machine
end
section
/-! The events of a spindle's source (04): a step of it, the angle it tells, and what one event of each kind makes of a spindle. -/
namespace Sys2Proof.Machine

theorem State.spindlePeriod_congr {s t : State} (h : t.blk = s.blk) (n : Nat) : t.spindlePeriod n = s.spindlePeriod n := by
  unfold State.spindlePeriod State.spindleBody State.body
  rw [h]

theorem State.spindleIndexAngle_congr {s t : State} (h : t.blk = s.blk) (n : Nat) : t.spindleIndexAngle n = s.spindleIndexAngle n := by
  unfold State.spindleIndexAngle State.spindleBody State.body
  rw [h]

/-! ### One spindle -/

section
variable (s : State) (n : Nat)

@[simp] theorem State.noteEvent_gap : ((s.noteEvent n).spin n).gap = (s.spin n).gap := by
  obtain ⟨_, _, _, _, _, _, e⟩ := s.noteEvent_spin n
  rw [e]
  rfl

@[simp] theorem State.noteEvent_known : ((s.noteEvent n).spin n).known = (s.spin n).known := by
  obtain ⟨_, _, _, _, _, _, e⟩ := s.noteEvent_spin n
  rw [e]

theorem State.noteEvent_times : ((s.noteEvent n).spin n).eventAt = s.chip.ran ∧ ((s.noteEvent n).spin n).lost = false := by
  obtain ⟨_, _, _, _, _, _, e⟩ := s.noteEvent_spin n
  rw [e]
  exact ⟨rfl, rfl⟩

/-- A spindle moved by its difference stands at its source's angle. -/
theorem Spindle.moved_gap (p : Spindle) : (p.moved p.gap).gap = 0 := by
  unfold Spindle.moved
  split
  next h => omega
  next => exact (Spindle.gap_eq_zero_iff _).2 p.angle_add_gap

/-- The source of spindle `n` has moved by `d` units in an event. -/
structure Stepped (d : Int) (n : Nat) (s t : State) : Prop where
  src : (t.spin n).src = unsigned 64 (((s.spin n).src : Int) + d)
  gap : s.follows n = true → (t.spin n).gap = 0
  eventAt : (t.spin n).eventAt = s.chip.ran
  lost : (t.spin n).lost = false

/-- The source's step, but for its event: the source's side is that of the moved source. -/
theorem State.sourceStep_answers (d : Int) (knows : Bool) :
    Answers n (s.setSpin n ((s.spin n).moveSource d)) (s.sourceStep n d knows) := by
  unfold State.sourceStep
  dsimp only
  generalize s.setSpin n ((s.spin n).moveSource d) = u
  have hu := Answers.refl (n := n) u
  exact ((hu.moveSpindle _ _).ite ((hu.afterStep _ _).ite (hu.sourceKnown.ite hu))).noteEvent

theorem State.sourceStep_stepped (d : Int) (knows : Bool) : Stepped d n s (s.sourceStep n d knows) where
  src := by
    rw [Spindle.src_of_side (s.sourceStep_answers n d knows).side, State.setSpin_spin]
    rfl
  gap h := by
    unfold State.sourceStep
    dsimp only
    rw [if_pos h, State.noteEvent_gap, State.moveSpindle_spin, Spindle.moved_gap]
  eventAt := by
    unfold State.sourceStep
    dsimp only
    rw [(State.noteEvent_times _ n).1]
    have hu : SpinsMoved (· = n) s (s.setSpin n ((s.spin n).moveSource d)) := (SpinsMoved.refl s).setSpin (by rfl) _
    refine congrArg (·.ran) (SpinsMoved.chip (N := (· = n)) (z := s) ?_)
    exact .ite (hu.moveSpindle (by rfl) _ _) (.ite (hu.afterStep (by rfl) _ _) (.ite (hu.sourceKnown (by rfl)) hu))
  lost := (State.noteEvent_times _ n).2

/-- A step that lets the source's angle be known leaves it known, unless the spindle follows or rejoins. -/
theorem State.sourceStep_known (d : Int) (hf : s.follows n = false) (hr : s.spinFlag n Spn.rejoin = false) :
    ((s.sourceStep n d true).spin n).known = true := by
  unfold State.sourceStep
  dsimp only
  rw [if_neg (by simp [hf]), State.setSpin_spinFlag, if_neg (by simp [hr]), State.noteEvent_known]
  split
  next => exact (State.sourceKnown_shows _ n).1
  next h =>
    rw [State.setSpin_spin]
    simpa [Spindle.moveSource] using h

/-- Where only what an event does not look at differs, the step is the same. -/
theorem Stepped.of_eq {d : Int} {n : Nat} {s u t : State} (h : Stepped d n u t) (hsrc : (u.spin n).src = (s.spin n).src)
    (hf : u.follows n = s.follows n) (hc : u.chip = s.chip) : Stepped d n s t :=
  ⟨hsrc ▸ h.src, hf ▸ h.gap, hc ▸ h.eventAt, h.lost⟩

/-- A lock or direction shown before a step leaves the spindle's following. -/
theorem State.follows_setSpinFlag {b : Nat} (v : Bool) (hb : b ∉ motionFlags) (h32 : b < 32) :
    (s.setSpinFlag n b v).follows n = s.follows n := by
  unfold State.follows
  rw [State.setSpinFlag_spin, State.setSpinFlag_ne _ _ _ _ _ h32 (by rintro rfl; exact hb (by decide)),
    State.setSpinFlag_ne _ _ _ _ _ h32 (by rintro rfl; exact hb (by decide))]

/-- The source's angle has been told: its side is the new one. -/
theorem State.sourceAngle_answers (p : Spindle) (near : Bool) : Answers n (s.setSpin n p) (s.sourceAngle n p near) := by
  have hu := Answers.refl (n := n) (s.setSpin n p)
  unfold State.sourceAngle
  dsimp only
  split
  · exact hu.finishRejoin
  · split
    · exact hu.afterStep _ _
    · exact hu.sourceKnown

/-- An angle near the spindle's is taken at once. -/
theorem State.sourceAngle_near (p : Spindle) : Settled (s.sourceAngle n p true) n := by
  unfold State.sourceAngle
  dsimp only
  rw [if_pos rfl]
  exact State.finishRejoin_settled _ n

/-- Any other starts a rejoin, unless one goes on. -/
theorem State.sourceAngle_far (p : Spindle) (hr : s.spinFlag n Spn.rejoin = false) : ((s.sourceAngle n p false).spin n).known = true ∧
    ((s.sourceAngle n p false).spinFlag n Spn.rejoin = true ∨ p.gap = 0 ∧ Settled (s.sourceAngle n p false) n) := by
  have e : s.sourceAngle n p false = (s.setSpin n p).sourceKnown n := by
    unfold State.sourceAngle
    dsimp only
    rw [if_neg (by decide), State.setSpin_spinFlag, if_neg (by simp [hr])]
  have h := (s.setSpin n p).sourceKnown_shows n
  rwa [← e, State.setSpin_spin] at h

end

/-! ### Events of every kind -/

section
variable (s : State) (n : Nat)

/-- A step of the source that comes with a flag of its lock or direction, and with a new record of its side. -/
theorem State.flaggedStep_shows {p : Spindle} {b : Nat} (hsrc : p.src = (s.spin n).src) (hk : p.known = (s.spin n).known) (hb : b ∉ motionFlags)
    (h32 : b < 32) (v : Bool) (d : Int) (knows : Bool) :
    ((((s.setSpin n p).setSpinFlag n b v).sourceStep n d knows).spin n).sourceSide = (p.moveSource d).sourceSide ∧
    (((s.setSpin n p).setSpinFlag n b v).sourceStep n d knows).spinFlag n b = v ∧
    Stepped d n s (((s.setSpin n p).setSpinFlag n b v).sourceStep n d knows) := by
  have hspin : ((s.setSpin n p).setSpinFlag n b v).spin n = p := by rw [State.setSpinFlag_spin, State.setSpin_spin]
  have hfol : ((s.setSpin n p).setSpinFlag n b v).follows n = s.follows n := by
    rw [State.follows_setSpinFlag _ _ _ hb h32, State.follows, State.setSpin_spin, State.setSpin_spinFlag, State.setSpin_spinFlag, hk, State.follows]
  have hm : SpinsMoved (· = n) s ((s.setSpin n p).setSpinFlag n b v) := ((SpinsMoved.refl s).setSpin (by rfl) _).setSpinFlag (by rfl) _ _
  have hans := ((s.setSpin n p).setSpinFlag n b v).sourceStep_answers n d knows
  refine ⟨?_, ?_, (State.sourceStep_stepped _ n d knows).of_eq (by rw [hspin, hsrc]) hfol hm.chip⟩
  · rw [hans.side, State.setSpin_spin, hspin]
  · rw [hans.shown _ hb, State.setSpin_spinFlag, State.setSpinFlag_same _ _ _ _ h32]

/-- An edge of the encoder: one count in its direction (R162). -/
theorem State.shaftCount_shows (rev : Bool) : ((s.shaftCount n rev).spin n).count = (s.spin n).count + (if rev then -1 else 1) ∧
    (s.shaftCount n rev).spinFlag n Spn.reverse = rev ∧
    Stepped (shaftUnits ((s.spin n).count + (if rev then -1 else 1)) (s.spindlePeriod n) - shaftUnits (s.spin n).count (s.spindlePeriod n)) n s
      (s.shaftCount n rev) := by
  have hc : (if rev then (s.spin n).count - 1 else (s.spin n).count + 1) = (s.spin n).count + (if rev then -1 else 1) := by
    split <;> omega
  unfold State.shaftCount
  dsimp only
  rw [hc]
  obtain ⟨hside, hflag, hstep⟩ := s.flaggedStep_shows n (p := { s.spin n with count := (s.spin n).count + (if rev then -1 else 1) })
    (b := Spn.reverse) rfl rfl (by decide) (by decide) rev
    (shaftUnits ((s.spin n).count + (if rev then -1 else 1)) (s.spindlePeriod n) - shaftUnits (s.spin n).count (s.spindlePeriod n))
    (!s.spindleIndex n)
  exact ⟨Spindle.count_of_side hside, hflag, hstep⟩

/-- A crossing of the mains (R161). -/
theorem State.mainsStep_shows (err adv pll : Nat) : ((s.mainsStep n err adv pll).spin n).pll = pll ∧
    ((s.mainsStep n err adv pll).spin n).goodCycles = (if err < 2 ^ 24 then (s.spin n).goodCycles + 1 else 0) ∧
    (s.mainsStep n err adv pll).spinFlag n Spn.locked = (if 2 ^ 26 < err then false else s.spinFlag n Spn.locked ||
      decide (8 ≤ if err < 2 ^ 24 then (s.spin n).goodCycles + 1 else 0)) ∧ Stepped adv n s (s.mainsStep n err adv pll) := by
  unfold State.mainsStep
  dsimp only
  generalize (if err < 2 ^ 24 then (s.spin n).goodCycles + 1 else 0) = good
  generalize (if 2 ^ 26 < err then false else s.spinFlag n Spn.locked || decide (8 ≤ good)) = locked
  obtain ⟨hside, hflag, hstep⟩ := s.flaggedStep_shows n (p := { s.spin n with goodCycles := good, pll := pll })
    (b := Spn.locked) rfl rfl (by decide) (by decide) locked adv locked
  exact ⟨Spindle.pll_of_side hside, Spindle.goodCycles_of_side hside, hflag, hstep⟩

/-- A pulse (R160). -/
theorem State.pulseStep_shows (locked : Bool) (adv pll : Nat) : ((s.pulseStep n locked adv pll).spin n).pll = pll ∧
    (s.pulseStep n locked adv pll).spinFlag n Spn.locked = locked ∧ Stepped adv n s (s.pulseStep n locked adv pll) := by
  obtain ⟨hside, hflag, hstep⟩ := s.flaggedStep_shows n (p := { s.spin n with pll := pll })
    (b := Spn.locked) rfl rfl (by decide) (by decide) locked adv locked
  exact ⟨Spindle.pll_of_side hside, hflag, hstep⟩

/-- The difference is that of source and position. -/
theorem Spindle.gap_congr {p q : Spindle} (hs : p.src = q.src) (hp : p.pos = q.pos) : p.gap = q.gap := by
  rw [Spindle.gap, Spindle.gap, hs, hp]

theorem Spindle.gap_setCount (p : Spindle) (c : Int) : Spindle.gap { p with count := c } = p.gap := Spindle.gap_congr rfl rfl

theorem Spindle.gap_setRound (p : Spindle) (o k : Nat) : Spindle.gap { p with origin := o, period := k } = p.gap := Spindle.gap_congr rfl rfl

/-- A source event has told the angle of the source of spindle `n`, whose record was to be `p`. -/
structure Told (p : Spindle) (near : Bool) (n : Nat) (s t : State) : Prop where
  side : (t.spin n).sourceSide = p.sourceSide
  shown : ∀ b, b ∉ motionFlags → t.spinFlag n b = s.spinFlag n b
  taken : near = true → (t.spin n).gap = 0 ∧ t.spinFlag n Spn.subst = false ∧ (t.spin n).known = true
  rejoins : near = false → s.spinFlag n Spn.rejoin = false →
    (t.spin n).known = true ∧ (t.spinFlag n Spn.rejoin = true ∨ p.gap = 0 ∧ (t.spin n).gap = 0)

theorem State.sourceAngle_told (hsrc : s.spindleSrc n ≠ Src.time) (p : Spindle) (near : Bool) :
    Told p near n s ((s.sourceAngle n p near).noteEvent n) where
  side := by rw [(s.sourceAngle_answers n p near).noteEvent.side, State.setSpin_spin]
  shown b hb := by rw [(s.sourceAngle_answers n p near).noteEvent.shown b hb, State.setSpin_spinFlag]
  taken h := by
    have hset := s.sourceAngle_near n p
    rw [h, State.noteEvent_gap, State.noteEvent_known, State.noteEvent_spinFlag _ _ (by decide)]
    refine ⟨hset.gap ?_, hset.subst, hset.known⟩
    rwa [State.spindleSrc_congr ((SpinsMoved.refl (N := (· = n)) s).sourceAngle (by rfl) p true).blk]
  rejoins h hr := by
    obtain ⟨hknown, hrest⟩ := s.sourceAngle_far n p hr
    rw [h, State.noteEvent_gap, State.noteEvent_known, State.noteEvent_spinFlag _ _ (by decide)]
    refine ⟨hknown, hrest.imp_right fun ⟨hp, hset⟩ => ⟨hp, hset.gap ?_⟩⟩
    rwa [State.spindleSrc_congr ((SpinsMoved.refl (N := (· = n)) s).sourceAngle (by rfl) p false).blk]

/-- What an index makes a spindle's record, but for the event (R163). -/
def State.indexed (s : State) (n : Nat) : Spindle := { (s.spin n).sourceAt (s.spindleIndexAngle n) with count := 0 }

theorem State.indexed_gap : (s.indexed n).gap = ((s.spin n).sourceAt (s.spindleIndexAngle n)).gap := Spindle.gap_setCount _ 0

/-- The index stands within 4 counts of the spindle. -/
def State.indexNear (s : State) (n : Nat) : Bool :=
  decide ((s.indexed n).gap.natAbs * s.spindlePeriod n ≤ 4 * 2 ^ 32)

/-- An index at a substitute (R163). -/
theorem State.shaftIndex_substitute (hsrc : s.spindleSrc n ≠ Src.time) (h : s.spinFlag n Spn.subst = true) :
    Told (s.indexed n) false n s (s.shaftIndex n) := by
  have e : s.shaftIndex n = (s.sourceAngle n (s.indexed n) false).noteEvent n := by
    unfold State.shaftIndex State.indexed
    dsimp only
    rw [if_pos h]
  rw [e]
  exact s.sourceAngle_told n hsrc _ _

/-- An index at any other: INDEX_ERR shows whether it stands too far. -/
theorem State.shaftIndex_other (h : s.spinFlag n Spn.subst = false) : s.shaftIndex n =
    ((s.setSpinFlag n Spn.indexErr !(s.indexNear n)).sourceAngle n (s.indexed n) (s.indexNear n)).noteEvent n := by
  unfold State.shaftIndex State.indexNear State.indexed
  dsimp only
  rw [if_neg (by simp [h])]

/-- An index (R163): a substitute's rejoin, or for any other an angle that is taken at once or shown in INDEX_ERR. -/
theorem State.shaftIndex_shows (hsrc : s.spindleSrc n ≠ Src.time) :
    ((s.shaftIndex n).spin n).count = 0 ∧ (s.spinFlag n Spn.subst = false → (s.shaftIndex n).spinFlag n Spn.indexErr = !(s.indexNear n)) ∧
      (s.spinFlag n Spn.subst = false → s.indexNear n = true → ((s.shaftIndex n).spin n).gap = 0 ∧ ((s.shaftIndex n).spin n).known = true) ∧
      (s.spinFlag n Spn.rejoin = false → ((s.shaftIndex n).spin n).known = true ∧
        ((s.shaftIndex n).spinFlag n Spn.rejoin = true ∨ ((s.shaftIndex n).spin n).gap = 0)) := by
  cases hsub : s.spinFlag n Spn.subst
  case true =>
    have ht := s.shaftIndex_substitute n hsrc hsub
    refine ⟨Spindle.count_of_side ht.side, by simp, by simp, fun hr => ?_⟩
    obtain ⟨hknown, hrest⟩ := ht.rejoins rfl hr
    exact ⟨hknown, hrest.imp_right And.right⟩
  case false =>
    have hu : SpinsMoved (· = n) s (s.setSpinFlag n Spn.indexErr !(s.indexNear n)) := (SpinsMoved.refl s).setSpinFlag (by rfl) _ _
    have ht := (s.setSpinFlag n Spn.indexErr !(s.indexNear n)).sourceAngle_told n (by rwa [State.spindleSrc_congr hu.blk]) (s.indexed n)
      (s.indexNear n)
    rw [← s.shaftIndex_other n hsub] at ht
    refine ⟨Spindle.count_of_side ht.side, fun _ => ?_, fun _ hnear => ?_, fun hr => ?_⟩
    · rw [ht.shown _ (by decide), State.setSpinFlag_same _ _ _ _ (by decide)]
    · obtain ⟨hgap, -, hknown⟩ := ht.taken hnear
      exact ⟨hgap, hknown⟩
    · cases hnear : s.indexNear n
      case true =>
        obtain ⟨hgap, -, hknown⟩ := ht.taken hnear
        exact ⟨hknown, .inr hgap⟩
      case false =>
        obtain ⟨hknown, hrest⟩ := ht.rejoins hnear (by rw [State.setSpinFlag_ne _ _ _ _ _ (by decide) (by decide), hr])
        exact ⟨hknown, hrest.imp_right And.right⟩

/-- The difference to the angle that a tick of a round implies is at most 2^24 (R164). -/
def State.tickNear (s : State) (n start period : Nat) : Prop :=
  ((s.spin n).sourceAt (unsigned 32 (angleOf s.now start (max 1 period)))).gap.natAbs ≤ 2 ^ 24

/-- A tick of a round (R164). -/
theorem State.roundStep_shows (hsrc : s.spindleSrc n ≠ Src.time) (start period : Nat) :
    ((s.roundStep n start period).spin n).origin = start ∧ ((s.roundStep n start period).spin n).period = max 1 period ∧
      (s.tickNear n start period → ((s.roundStep n start period).spin n).gap = 0 ∧ (s.roundStep n start period).spinFlag n Spn.subst = false ∧
        ((s.roundStep n start period).spin n).known = true) ∧
      (¬ s.tickNear n start period → s.spinFlag n Spn.rejoin = false →
        (s.roundStep n start period).spinFlag n Spn.rejoin = true ∧ ((s.roundStep n start period).spin n).known = true) := by
  unfold State.roundStep State.tickNear
  dsimp only
  generalize hq : (s.spin n).sourceAt (unsigned 32 (angleOf s.now start (max 1 period))) = q
  have hgap := q.gap_setRound start (max 1 period)
  rw [hgap]
  generalize hb : decide (q.gap.natAbs ≤ 2 ^ 24) = b
  have ht := s.sourceAngle_told n hsrc { q with origin := start, period := max 1 period } b
  refine ⟨Spindle.origin_of_side ht.side, Spindle.period_of_side ht.side, fun hnear => ht.taken ?_, fun hfar hr => ?_⟩
  · rw [← hb, decide_eq_true hnear]
  · obtain ⟨hknown, hrest⟩ := ht.rejoins (by rw [← hb, decide_eq_false hfar]) hr
    refine ⟨hrest.resolve_right fun ⟨h0, _⟩ => hfar ?_, hknown⟩
    rw [← hgap, h0]
    decide

end
end Sys2Proof.Machine
end
section
/-! An event at all the spindles of a source and input (04): each is moved once, from what it was before the event. -/
namespace Sys2Proof.Machine

/-- A fold whose steps each change what is `n`'s, by a relation that says whose things change: each step starts from a state in which `n`'s things
are those at the start, and what it makes of them is there at the end. -/
theorem foldl_each {R : (Nat → Prop) → State → State → Prop} {f : State → Nat → State} (hrefl : ∀ N s, R N s s)
    (htrans : ∀ N s t u, R N s t → R N t u → R N s u) (hweaken : ∀ N M s t, R N s t → (∀ m, N m → M m) → R M s t)
    {l : List Nat} (hl : l.Nodup) (hf : ∀ n ∈ l, ∀ u, R (· = n) u (f u n)) (s : State) :
    R (· ∈ l) s (l.foldl f s) ∧ ∀ n ∈ l, ∃ u, R (· ≠ n) s u ∧ R (· ≠ n) (f u n) (l.foldl f s) := by
  induction l generalizing s with
  | nil => exact ⟨hrefl _ s, by simp⟩
  | cons a l ih =>
    obtain ⟨ha, hl⟩ := List.nodup_cons.1 hl
    have hfa := hf a List.mem_cons_self s
    obtain ⟨hrest, heach⟩ := ih hl (fun n hn => hf n (List.mem_cons_of_mem _ hn)) (f s a)
    refine ⟨htrans _ _ _ _ (hweaken _ _ _ _ hfa (by simp_all)) (hweaken _ _ _ _ hrest (by simp_all)), fun n hn => ?_⟩
    rcases List.mem_cons.1 hn with rfl | hn
    · exact ⟨s, hrefl _ s, hweaken _ _ _ _ hrest fun m hm => by rintro rfl; exact ha hm⟩
    · obtain ⟨u, hu, ht⟩ := heach n hn
      exact ⟨u, htrans _ _ _ _ (hweaken _ _ _ _ hfa fun m hm => by rintro rfl; exact ha (hm ▸ hn)) hu, ht⟩

section
variable {f : State → Nat → State} (hf : ∀ u n, SpinsMoved (· = n) u (f u n))
include hf

/-- Spindles moved one after another: each from its own state at the start, which is its state at the end. -/
theorem SpinsMoved.foldl_each {l : List Nat} (hl : l.Nodup) (s : State) : SpinsMoved (· ∈ l) s (l.foldl f s) ∧
    ∀ n ∈ l, ∃ u, SpinsMoved (· ≠ n) s u ∧ SpinsMoved (· ≠ n) (f u n) (l.foldl f s) :=
  Machine.foldl_each (R := SpinsMoved) (fun _ => .refl) (fun _ _ _ _ h k => h.trans k) (fun _ _ _ _ h k => h.weaken k) hl (fun n _ u => hf u n) s

/-- What an event leaves; each of its spindles moves while the others stand. -/
theorem SpinsMoved.event {l : List Nat} (hl : l.Nodup) (s : State) : (l.foldl f s).mem = s.mem ∧ (l.foldl f s).bus = s.bus ∧
    (∀ n, n ∉ l → (l.foldl f s).spin n = s.spin n ∧ (l.foldl f s).reg (Reg.spnState n) = s.reg (Reg.spnState n)) ∧
    ∀ n ∈ l, ∃ u, SpinsMoved (· ≠ n) s u ∧ SpinsMoved (· ≠ n) (f u n) (l.foldl f s) := by
  obtain ⟨hall, heach⟩ := SpinsMoved.foldl_each hf hl s
  exact ⟨hall.mem, hall.bus, fun n hn => ⟨hall.spin n hn, hall.state hn⟩, heach⟩

end

theorem State.spinsOf_nodup (s : State) (src input : Nat) : (s.spinsOf src input).Nodup := List.nodup_range.filter _

theorem State.spindleSrc_of_spinsOf {s : State} {src input n : Nat} (h : n ∈ s.spinsOf src input) : s.spindleSrc n = src := by
  simp only [State.spinsOf, List.mem_filter, Bool.and_eq_true, beq_iff_eq] at h
  exact h.2.1.2

section
variable {n : Nat} {s u v t : State}

/-- What moved between the start and the event, and after it, are other spindles. -/
theorem Stepped.between {d : Int} (h : Stepped d n u v) (hu : SpinsMoved (· ≠ n) s u) (ht : SpinsMoved (· ≠ n) v t) : Stepped d n s t := by
  have hs := ht.spin n (by simp)
  refine ⟨?_, fun hf => ?_, ?_, ?_⟩
  · rw [hs, h.src, hu.spin n (by simp)]
  · rw [hs, h.gap (by rw [hu.follows (by simp), hf])]
  · rw [hs, h.eventAt, hu.chip]
  · rw [hs, h.lost]

theorem SpinsMoved.spinSelf (h : SpinsMoved (· ≠ n) s t) : t.spin n = s.spin n := h.spin n (by simp)
theorem SpinsMoved.flagSelf (h : SpinsMoved (· ≠ n) s t) (b : Nat) : t.spinFlag n b = s.spinFlag n b := h.spinFlag (by simp) b

theorem State.indexNear_congr (h : SpinsMoved (· ≠ n) s t) : t.indexNear n = s.indexNear n := by
  simp only [State.indexNear, State.indexed_gap, h.spinSelf, State.spindleIndexAngle_congr h.blk, State.spindlePeriod_congr h.blk]

theorem State.tickNear_congr (h : SpinsMoved (· ≠ n) s t) (start period : Nat) : t.tickNear n start period ↔ s.tickNear n start period := by
  simp only [State.tickNear, h.spinSelf, h.now]

end

section
variable (s : State)

/-- What the obligation says of a step. -/
theorem Stepped.facts {d : Int} {n : Nat} {s t : State} (h : Stepped d n s t) : (t.spin n).src = unsigned 64 (((s.spin n).src : Int) + d) ∧
    (s.follows n = true → (t.spin n).gap = 0) ∧ (t.spin n).eventAt = s.chip.ran ∧ (t.spin n).lost = false :=
  ⟨h.src, h.gap, h.eventAt, h.lost⟩

/-- An edge of an encoder at one of its spindles, the others moving before and after (R162). -/
theorem State.shaftCount_between {s u t : State} {n : Nat} {rev : Bool} (hu : SpinsMoved (· ≠ n) s u) (ht : SpinsMoved (· ≠ n) (u.shaftCount n rev) t) :
    (t.spin n).count = (s.spin n).count + (if rev then -1 else 1) ∧ t.spinFlag n Spn.reverse = rev ∧
      Stepped (shaftUnits ((s.spin n).count + (if rev then -1 else 1)) (s.spindlePeriod n) - shaftUnits (s.spin n).count (s.spindlePeriod n)) n s t := by
  obtain ⟨hcount, hflag, hstep⟩ := u.shaftCount_shows n rev
  rw [hu.spinSelf] at hcount
  rw [hu.spinSelf, State.spindlePeriod_congr hu.blk] at hstep
  exact ⟨by rw [ht.spinSelf, hcount], by rw [ht.flagSelf, hflag], hstep.between hu ht⟩

/-- An index (R163). -/
theorem State.shaftIndex_between {s u t : State} {n : Nat} (hsrc : s.spindleSrc n ≠ Src.time) (hu : SpinsMoved (· ≠ n) s u)
    (ht : SpinsMoved (· ≠ n) (u.shaftIndex n) t) :
    (t.spin n).count = 0 ∧ (s.spinFlag n Spn.subst = false → t.spinFlag n Spn.indexErr = !(s.indexNear n)) ∧
      (s.spinFlag n Spn.subst = false → s.indexNear n = true → (t.spin n).gap = 0 ∧ (t.spin n).known = true) ∧
      (s.spinFlag n Spn.rejoin = false → (t.spin n).known = true ∧ (t.spinFlag n Spn.rejoin = true ∨ (t.spin n).gap = 0)) := by
  have h := u.shaftIndex_shows n (by rwa [State.spindleSrc_congr hu.blk])
  rwa [State.indexNear_congr hu, hu.flagSelf, hu.flagSelf, ← ht.spinSelf, ← ht.flagSelf, ← ht.flagSelf] at h

/-- A crossing of the mains (R161). -/
theorem State.mainsStep_between {s u t : State} {n err adv pll : Nat} (hu : SpinsMoved (· ≠ n) s u)
    (ht : SpinsMoved (· ≠ n) (u.mainsStep n err adv pll) t) : (t.spin n).pll = pll ∧
      (t.spin n).goodCycles = (if err < 2 ^ 24 then (s.spin n).goodCycles + 1 else 0) ∧
      t.spinFlag n Spn.locked = (if 2 ^ 26 < err then false else s.spinFlag n Spn.locked || decide (8 ≤ (t.spin n).goodCycles)) ∧
      Stepped adv n s t := by
  obtain ⟨hpll, hgood, hlocked, hstep⟩ := u.mainsStep_shows n err adv pll
  rw [← ht.spinSelf] at hpll hgood
  rw [hu.spinSelf] at hgood
  rw [← ht.flagSelf, hu.flagSelf, hu.spinSelf, ← hgood] at hlocked
  exact ⟨hpll, hgood, hlocked, hstep.between hu ht⟩

/-- A pulse (R160). -/
theorem State.pulseStep_between {s u t : State} {n adv pll : Nat} {locked : Bool} (hu : SpinsMoved (· ≠ n) s u)
    (ht : SpinsMoved (· ≠ n) (u.pulseStep n locked adv pll) t) : (t.spin n).pll = pll ∧ t.spinFlag n Spn.locked = locked ∧ Stepped adv n s t := by
  obtain ⟨hpll, hlocked, hstep⟩ := u.pulseStep_shows n locked adv pll
  exact ⟨by rw [ht.spinSelf, hpll], by rw [ht.flagSelf, hlocked], hstep.between hu ht⟩

/-- A tick of a round (R164). -/
theorem State.roundStep_between {s u t : State} {n start period : Nat} (hsrc : s.spindleSrc n ≠ Src.time) (hu : SpinsMoved (· ≠ n) s u)
    (ht : SpinsMoved (· ≠ n) (u.roundStep n start period) t) : (t.spin n).origin = start ∧ (t.spin n).period = max 1 period ∧
      (s.tickNear n start period → (t.spin n).gap = 0 ∧ t.spinFlag n Spn.subst = false ∧ (t.spin n).known = true) ∧
      (¬ s.tickNear n start period → s.spinFlag n Spn.rejoin = false → t.spinFlag n Spn.rejoin = true ∧ (t.spin n).known = true) := by
  have h := u.roundStep_shows n (by rwa [State.spindleSrc_congr hu.blk]) start period
  rwa [State.tickNear_congr hu, hu.flagSelf, ← ht.spinSelf, ← ht.flagSelf, ← ht.flagSelf] at h

/-! ### The host's advance (R189) -/

theorem State.exec_hostadv {o s : State} {w : Who} {n : Nat} {v : Word} (hn : n < 8) (h : o.admits w (Reg.spnHostadv n) v s) :
    exec (.hostadv w n v) o = .next (if v = 0#32 ∨ s.spinListens n = false then s else
      s.sourceStep n (min (2 ^ 31) v.toNat : Nat) true).replyOk := by
  show Host.Outcome.next (o.gated w (Reg.spnHostadv (n % 8)) v _) = _
  rw [Nat.mod_eq_of_lt hn, State.gated_ok _ _ _ _ _ _ h]

theorem State.hostadv_shows {o s : State} {w : Who} {n : Nat} {v : Word} (hn : n < 8) (h : o.admits w (Reg.spnHostadv n) v s) :
    if v = 0#32 ∨ s.spinListens n = false then Writes (.hostadv w n v) o s [] [] fun _ => True
    else Completes (.hostadv w n v) o fun t => Acked t ∧ t.mem = s.mem ∧ (∀ m, m ≠ n → t.spin m = s.spin m) ∧
      Stepped (min (2 ^ 31) v.toNat : Nat) n s t ∧ (s.spinFlag n Spn.rejoin = false → s.follows n = false → (t.spin n).known = true) := by
  have he := State.exec_hostadv hn h
  split
  next hc =>
    rw [if_pos hc] at he
    exact ⟨_, he, .replyOk s, (OnlyRegs.refl s []).replyOk, .nil rfl, trivial⟩
  next hc =>
    rw [if_neg hc] at he
    have hm : SpinsMoved (· = n) s (s.sourceStep n (min (2 ^ 31) v.toNat : Nat) true) := (SpinsMoved.refl s).sourceStep (by rfl) _ _
    have hst := s.sourceStep_stepped n (min (2 ^ 31) v.toNat : Nat) true
    have hkn := s.sourceStep_known n (min (2 ^ 31) v.toNat : Nat)
    generalize s.sourceStep n (min (2 ^ 31) v.toNat : Nat) true = u at *
    exact ⟨_, he, .replyOk u, hm.mem, hm.spin, ⟨hst.src, hst.gap, hst.eventAt, hst.lost⟩, fun hr hf => hkn hf hr⟩

end
end Sys2Proof.Machine
end
section
/-! What passing time leaves, and what it makes of the clocks (04): device time, the crystal, the registers and the snapshots of the calendar. -/
namespace Sys2Proof.Machine

/-- The calendar's counters after `k` ticks of the device-time clock. -/
def State.crystal (s : State) (k : Nat) : RtcState :=
  { s.rtc with phase := (s.rtc.phase + 32768 * k) % 250000000 }.cycles ((s.rtc.phase + 32768 * k) / 250000000)

/-- The clocks have counted `k` ticks. -/
def State.counted (s : State) (k : Nat) : State :=
  let d := k * s.incr
  let incrs := if s.timState = TimeState.locked ∧ 0 < k then addIncr d s.incr s.tim.incrs else s.tim.incrs
  { s with time := .ofUnits (s.time.units + d), chip := { s.chip with up := s.chip.up + 4 * k, ran := s.chip.ran + d },
           tim := { s.tim with incrs := incrs }, rtc := s.crystal k }

/-- TIM.HOLD_S counts in holdover. -/
def State.holds (s : State) : State :=
  if s.timFlag Tim.holdover then s.setNum Reg.timHoldS (min 0xFFFFFFFF ((s.chip.ran - s.tim.heldAt) / secondUnits)) else s

/-- The clocks have counted `k` ticks and shown it; the spindles have not moved yet. -/
def State.clocked (s : State) (k : Nat) : State :=
  if s.time.sec < (s.time.units + k * s.incr) / secondUnits then (s.counted k).holds.raise 64 else (s.counted k).holds

/-- The clocks count, then the spindles move, then old snapshots are released. -/
theorem State.elapse_eq (s : State) (k : Nat) : s.elapse k =
    ((List.range 8).foldl (fun u n => u.elapseSpindle n (k * s.incr) s.now u.now) (s.clocked k)).releaseSnaps := by
  unfold State.elapse State.clocked State.holds State.counted State.crystal
  simp only [decide_eq_true_eq]

/-- The calendar with other snapshots. -/
def RtcState.withSnaps (r : RtcState) (c b : Tab (Option RtcSnap)) (e : Tab Bool) : RtcState :=
  { r with cellSnaps := c, blockSnaps := b, expired := e }

theorem RtcState.withSnaps_withSnaps (r : RtcState) (c b c' b' : Tab (Option RtcSnap)) (e e' : Tab Bool) :
    (r.withSnaps c b e).withSnaps c' b' e' = r.withSnaps c' b' e' := rfl

/-- From `s` to `t` `k` ticks of the device-time clock passed. -/
structure Elapsed (k : Nat) (s t : State) : Prop where
  time : t.time = .ofUnits (s.time.units + k * s.incr)
  chip : t.chip = { s.chip with up := s.chip.up + 4 * k, ran := s.chip.ran + k * s.incr }
  tim : t.tim = { s.tim with incrs := t.tim.incrs }
  rtc : ∃ c b e, t.rtc = (s.crystal k).withSnaps c b e
  reg : ∀ q, q < 0xA0000 → q ≠ Reg.timHoldS → t.reg q = s.reg q

namespace Elapsed
variable {k : Nat} {s t u : State}

theorem counted (s : State) (k : Nat) : Elapsed k s (s.counted k) := ⟨rfl, rfl, rfl, ⟨_, _, _, rfl⟩, fun _ _ _ => rfl⟩

theorem setHoldS (h : Elapsed k s t) (v : Nat) : Elapsed k s (t.setNum Reg.timHoldS v) :=
  ⟨h.time, h.chip, h.tim, h.rtc, fun q hq hn => (State.reg_setReg_ne t _ q _ hn).trans (h.reg q hq hn)⟩

theorem raise (h : Elapsed k s t) (n : Nat) : Elapsed k s (t.raise n) := by
  rw [State.raise_only]
  exact ⟨h.time, h.chip, h.tim, h.rtc, h.reg⟩

theorem clocked (s : State) (k : Nat) : Elapsed k s (s.clocked k) := by
  have h : Elapsed k s (s.counted k).holds := by
    unfold State.holds
    split
    · exact (Elapsed.counted s k).setHoldS _
    · exact Elapsed.counted s k
  unfold State.clocked
  split
  · exact h.raise 64
  · exact h

theorem spinsMoved {N : Nat → Prop} (h : Elapsed k s t) (m : SpinsMoved N t u) : Elapsed k s u where
  time := m.time.trans h.time
  chip := m.chip.trans h.chip
  tim := by rw [m.tim, ← h.tim]
  rtc := m.rtc ▸ h.rtc
  reg q hq hn := (m.reg q fun i _ => by simp only [Reg.spnState]; omega).trans (h.reg q hq hn)

theorem withSnaps (h : Elapsed k s t) (c b : Tab (Option RtcSnap)) (e : Tab Bool) : Elapsed k s { t with rtc := t.rtc.withSnaps c b e } := by
  obtain ⟨_, _, _, hr⟩ := h.rtc
  exact ⟨h.time, h.chip, h.tim, ⟨c, b, e, (congrArg (RtcState.withSnaps · c b e) hr).trans (RtcState.withSnaps_withSnaps ..)⟩, h.reg⟩

theorem releaseSnaps (h : Elapsed k s t) : Elapsed k s t.releaseSnaps := by
  unfold State.releaseSnaps
  extract_lets old cells blocks
  split
  · exact h
  · exact (h.withSnaps _ _ _).raise 58

end Elapsed

/-- The registers that the clocks do not count stand while they count. -/
theorem State.clocked_reg (s : State) (k : Nat) {q : Nat} (hq : q ≠ Reg.timHoldS) : (s.clocked k).reg q = s.reg q := by
  have h : (s.counted k).holds.reg q = s.reg q := by
    unfold State.holds
    split
    · exact State.reg_setReg_ne _ _ q _ hq
    · rfl
  unfold State.clocked
  split
  · rw [State.raise_reg, h]
  · exact h

/-- Snapshots that are released leave all but the calendar's snapshots and source 58. -/
theorem State.releaseSnaps_only (s : State) : s.releaseSnaps = { s with rtc := s.releaseSnaps.rtc, plic := s.releaseSnaps.plic } := by
  unfold State.releaseSnaps
  extract_lets old cells blocks
  split
  · rfl
  · rw [State.raise_only]

/-- The spindles' share of passing time. -/
theorem State.clocked_spinsMoved (s : State) (k : Nat) : SpinsMoved (· < 8) (s.clocked k)
    ((List.range 8).foldl (fun u n => u.elapseSpindle n (k * s.incr) s.now u.now) (s.clocked k)) :=
  (SpinsMoved.refl _).foldl fun _ _ hn hu => hu.elapseSpindle (List.mem_range.1 hn) _ _ _

theorem State.elapse_elapsed (s : State) (k : Nat) : Elapsed k s (s.elapse k) := by
  rw [State.elapse_eq]
  exact ((Elapsed.clocked s k).spinsMoved (s.clocked_spinsMoved k)).releaseSnaps

section
variable (s : State) (k : Nat)

theorem State.elapse_steady : Steady True s (s.elapse k) := (Steady.refl s).elapse k
theorem State.elapse_mem : (s.elapse k).mem = s.mem := (s.elapse_steady k).mem trivial
theorem State.elapse_bus : (s.elapse k).bus = s.bus := (s.elapse_steady k).bus
theorem State.elapse_blk : (s.elapse k).blk = s.blk := (s.elapse_steady k).blk trivial
theorem State.elapse_reg {q : Nat} (hq : q < 0xA0000) (hn : q ≠ Reg.timHoldS) : (s.elapse k).reg q = s.reg q := (s.elapse_elapsed k).reg q hq hn
theorem State.elapse_flag {q : Nat} (hq : q < 0xA0000) (hn : q ≠ Reg.timHoldS) (b : Nat) : (s.elapse k).flag q b = s.flag q b := by
  rw [State.flag, State.elapse_reg s k hq hn, State.flag]
theorem State.elapse_fld {q : Nat} (hq : q < 0xA0000) (hn : q ≠ Reg.timHoldS) (hi lo : Nat) : (s.elapse k).fld q hi lo = s.fld q hi lo := by
  rw [State.fld, State.elapse_reg s k hq hn, State.fld]

/-- The clocks' count leaves what passing time leaves. -/
theorem State.holds_steady : Steady True s (s.counted k).holds := by
  have ha : Steady True s (s.counted k) := (Steady.refl s).alter rfl
  unfold State.holds
  split
  · exact ha.setNum _ (not_apart 9 (by decide) (by decide) (by decide))
  · exact ha

theorem State.clocked_steady : Steady True s (s.clocked k) := by
  unfold State.clocked
  exact ((s.holds_steady k).raise 64).ite (s.holds_steady k)

theorem State.moved_steady : Steady True (s.clocked k)
    ((List.range 8).foldl (fun u n => u.elapseSpindle n (k * s.incr) s.now u.now) (s.clocked k)) :=
  (Steady.refl _).foldl fun _ _ hn hu => hu.elapseSpindle (List.mem_range.1 hn) _ _ _

/-- The calendar counts and keeps its snapshots. -/
theorem State.clocked_rtc : (s.clocked k).rtc = s.crystal k := by
  have h : (s.counted k).holds.rtc = s.crystal k := by
    unfold State.holds
    split <;> rfl
  unfold State.clocked
  split
  · rw [State.raise_rtc, h]
  · exact h

/-- A second boundary that time reaches raises source 64 (R193). -/
theorem State.elapse_second (h : s.time.sec < (s.time.units + k * s.incr) / secondUnits) : Rises s (s.elapse k) 64 := by
  refine (s.holds_steady k).rises_raise 64 ?_
  have hm := s.moved_steady k
  rw [State.elapse_eq]
  have hc : s.clocked k = (s.counted k).holds.raise 64 := if_pos h
  rw [hc] at hm ⊢
  exact hm.releaseSnaps

/-- INCR stays in the range of R191. -/
theorem State.incr_bounds : 17171279249 ≤ s.incr ∧ s.incr ≤ 17188459119 := by
  unfold State.incr clampNat
  split
  · omega
  · split <;> omega

/-- Time that passes until a count of device time is reached. -/
theorem State.elapse_reaches (due : Nat) : due ≤ (s.elapse (s.ticksUntil due)).chip.ran := by
  obtain ⟨hi, -⟩ := s.incr_bounds
  rw [(s.elapse_elapsed _).chip]
  show due ≤ s.chip.ran + s.ticksUntil due * s.incr
  unfold State.ticksUntil
  generalize s.incr = i at *
  have hdiv := Nat.div_add_mod' (due - s.chip.ran + i - 1) i
  have hmod := Nat.mod_lt (due - s.chip.ran + i - 1) (show 0 < i by omega)
  omega

end

end Sys2Proof.Machine
end
section
/-! A stall, the end of a rejoin, the snapshot of a spindle and a software comparator's firing (04). -/
namespace Sys2Proof.Machine

/-! ### The stall (R169, R170) -/

theorem State.clampRate_congr {s t : State} (h : t.blk = s.blk) (n : Nat) (r : Int) : t.clampRate n r = s.clampRate n r := by
  unfold State.clampRate State.spindleRmin State.spindleRmax State.spindleBody State.body
  rw [h]

/-- A stall is counted and recorded, and the source is lost. -/
def State.stallMarked (s : State) (n : Nat) : State :=
  ((s.bump (Reg.spnStalls n) 31 0 1).blockEvent 0x28 0x0A n Act.substituted 0 n).setSpin n { s.spin n with lost := true }

section
variable (s : State) (n : Nat)

theorem State.stallMarked_only : ∃ f i r, s.stallMarked n = { s with flt := f, inj := i, regs := r, spn := (s.stallMarked n).spn } := by
  unfold State.stallMarked State.blockEvent
  rw [State.detected_only]
  exact ⟨_, _, _, rfl⟩

theorem State.stallMarked_reg {q : Nat} (hq : ¬ inFlt q) (hn : q ≠ Reg.spnStalls n) : (s.stallMarked n).reg q = s.reg q := by
  have h : (s.stallMarked n).reg q = (s.bump (Reg.spnStalls n) 31 0 1).reg q := State.detected_reg _ _ q hq
  rw [h]
  exact State.reg_setReg_ne s _ q _ hn

theorem State.stallMarked_spin : (s.stallMarked n).spin n = { s.spin n with lost := true } := State.setSpin_spin _ _ _

theorem State.stallMarked_others {m : Nat} (hm : m ≠ n) : (s.stallMarked n).spin m = s.spin m := by
  refine (Tab.get_set_ne _ _ _ _ hm).trans ?_
  unfold State.blockEvent
  rw [State.detected_only]
  rfl

theorem State.stallMarked_spinFlag (m b : Nat) : (s.stallMarked n).spinFlag m b = s.spinFlag m b := by
  have h : (s.stallMarked n).reg (Reg.spnState m) = s.reg (Reg.spnState m) := by
    refine s.stallMarked_reg n ?_ ?_
    · simp only [inFlt, Reg.spnState]; omega
    · simp only [Reg.spnStalls, Reg.spnState]; omega
  rw [State.spinFlag, State.flag, h, State.spinFlag, State.flag]

theorem State.stallMarked_stalls (hn : n < 8) : (s.stallMarked n).num (Reg.spnStalls n) = min (2 ^ 32 - 1) (s.num (Reg.spnStalls n) + 1) := by
  rw [← State.num_bump]
  refine congrArg BitVec.toNat (State.detected_reg _ _ _ ?_)
  simp only [inFlt, Reg.spnStalls]
  omega

end

/-- What a stall makes of its spindle. -/
structure Stalled (rate : Int) (n : Nat) (s t : State) : Prop where
  subst : t.spinFlag n Spn.subst = true
  rejoin : t.spinFlag n Spn.rejoin = false
  lost : (t.spin n).lost = true
  sub : s.follows n = true → (t.spin n).sub = (16 * s.clampRate n rate : Nat)
  pos : s.follows n = true → (t.spin n).pos =
    ((s.spin n).eventPos + s.clampRate n rate * 65536 * (s.chip.ran - (s.spin n).eventAt) / secondUnits) % 2 ^ 64

/-- The spindle's source is no longer known, and `r` its substitute rate. -/
def State.goesOn (s : State) (n r : Nat) : State := s.setSpin n { s.spin n with sub := (16 * r : Nat), known := false, acc := 0 }

section
variable (s : State) (n : Nat)

theorem State.goesOn_spinsMoved (r : Nat) : SpinsMoved (· = n) s (s.goesOn n r) := (SpinsMoved.refl s).setSpin (by rfl) _

/-- The substitute goes on from the position extrapolated: it keeps its rate and its position is the goal. -/
theorem State.extrapolated_spin (r goal : Nat) : ∃ p, (((s.goesOn n r).correctSpindle n (diff64 goal (s.spin n).pos)).noteSpindle n).spin n = p ∧
    p.lost = (s.spin n).lost ∧ p.sub = (16 * r : Nat) ∧ p.pos = goal % 2 ^ 64 := by
  obtain ⟨k, hk⟩ := (s.goesOn n r).correctSpindle_spin n (diff64 goal (s.spin n).pos)
  obtain ⟨_, _, _, _, hn⟩ := ((s.goesOn n r).correctSpindle n (diff64 goal (s.spin n).pos)).noteSpindle_spin n
  have hspin : (s.goesOn n r).spin n = { s.spin n with sub := (16 * r : Nat), known := false, acc := 0 } := State.setSpin_spin _ _ _
  rw [hk, hspin, unsigned_add_diff64] at hn
  exact ⟨_, hn, rfl, rfl, rfl⟩

/-- The cases of a stall: a rejoin that ends, a substitute that goes on, a spindle that had not started, and one that followed. -/
theorem State.stallSpindle_eq (rate : Int) : s.stallSpindle n rate =
    if (s.stallMarked n).spinFlag n Spn.rejoin then
      (((s.stallMarked n).goesOn n ((s.stallMarked n).clampRate n rate)).setSpinFlag n Spn.rejoin false).setSpinFlag n Spn.subst true
    else if (s.stallMarked n).spinFlag n Spn.subst then s.stallMarked n
    else if !(s.spin n).known then (s.stallMarked n).setSpinFlag n Spn.subst true
    else
      ((((s.stallMarked n).goesOn n ((s.stallMarked n).clampRate n rate)).correctSpindle n (diff64 ((s.spin n).eventPos +
        (s.stallMarked n).clampRate n rate * 65536 * ((s.stallMarked n).chip.ran - (s.spin n).eventAt) / secondUnits) (s.spin n).pos)).noteSpindle
        n).setSpinFlag n Spn.subst true := rfl

theorem State.stallSpindle_spinsMoved (rate : Int) : SpinsMoved (· = n) (s.stallMarked n) (s.stallSpindle n rate) := by
  rw [State.stallSpindle_eq]
  generalize s.stallMarked n = w
  have hw := SpinsMoved.refl (N := (· = n)) w
  have hg := w.goesOn_spinsMoved n (w.clampRate n rate)
  split
  · exact (hg.setSpinFlag (by rfl) _ _).setSpinFlag (by rfl) _ _
  · exact hw.ite ((hw.setSpinFlag (by rfl) _ _).ite (((hg.correctSpindle (by rfl) _).noteSpindle (by rfl)).setSpinFlag (by rfl) _ _))

theorem State.follows_iff : s.follows n = true ↔ s.spinFlag n Spn.subst = false ∧ s.spinFlag n Spn.rejoin = false ∧ (s.spin n).known = true := by
  simp [State.follows, and_assoc]

theorem State.stallSpindle_stalled (rate : Int) : Stalled rate n s (s.stallSpindle n rate) := by
  obtain ⟨_, _, _, honly⟩ := s.stallMarked_only n
  have hr : (s.stallMarked n).clampRate n rate = s.clampRate n rate := State.clampRate_congr (by rw [honly]) n rate
  have hc : (s.stallMarked n).chip = s.chip := by rw [honly]
  have hspin := s.stallMarked_spin n
  have hlost : ((s.stallMarked n).spin n).lost = true := by rw [hspin]
  have hpos : (s.spin n).pos = ((s.stallMarked n).spin n).pos := by rw [hspin]
  have hfollows := (s.follows_iff n).1
  rw [State.stallSpindle_eq, hr, hc, hpos]
  simp only [← s.stallMarked_spinFlag n n] at hfollows
  generalize s.stallMarked n = w at *
  split
  next hrej =>
    have hno (h : s.follows n = true) : False := by simp [hrej] at hfollows; simp [hfollows] at h
    refine ⟨State.setSpinFlag_same _ _ _ _ (by decide), ?_, ?_, fun h => (hno h).elim, fun h => (hno h).elim⟩
    · rw [State.setSpinFlag_ne _ _ _ _ _ (by decide) (by decide), State.setSpinFlag_same _ _ _ _ (by decide)]
    · rw [State.setSpinFlag_spin, State.setSpinFlag_spin, State.goesOn, State.setSpin_spin, hlost]
  next hrej =>
    have hrej := Bool.not_eq_true _ ▸ hrej
    split
    next hsub =>
      have hno (h : s.follows n = true) : False := by simp [hsub] at hfollows; simp [hfollows] at h
      exact ⟨hsub, hrej, hlost, fun h => (hno h).elim, fun h => (hno h).elim⟩
    next hsub =>
      split
      next hk =>
        have hno (h : s.follows n = true) : False := by
          obtain ⟨-, -, hknown⟩ := hfollows h
          simp [hknown] at hk
        refine ⟨State.setSpinFlag_same _ _ _ _ (by decide), ?_, by rw [State.setSpinFlag_spin, hlost], fun h => (hno h).elim, fun h => (hno h).elim⟩
        rw [State.setSpinFlag_ne _ _ _ _ _ (by decide) (by decide), hrej]
      next =>
        obtain ⟨p, hp, hpl, hps, hpp⟩ := w.extrapolated_spin n (s.clampRate n rate)
          ((s.spin n).eventPos + s.clampRate n rate * 65536 * (s.chip.ran - (s.spin n).eventAt) / secondUnits)
        refine ⟨State.setSpinFlag_same _ _ _ _ (by decide), ?_, ?_, fun _ => ?_, fun _ => ?_⟩
        · rw [State.setSpinFlag_ne _ _ _ _ _ (by decide) (by decide), State.noteSpindle_spinFlag _ _ (by decide), State.correctSpindle_spinFlag,
            State.goesOn, State.setSpin_spinFlag, hrej]
        all_goals rw [State.setSpinFlag_spin, hp]
        · rw [hpl, hlost]
        · exact hps
        · exact hpp

end

section
variable {s : State} {n : Nat}

theorem exec_spindleStall_none (hn : n < 8) (h : s.stallDue n = none) : Idles (.spindleStall n) s := by
  show execSpindleStall n s = .next s
  unfold execSpindleStall
  dsimp only
  rw [Nat.mod_eq_of_lt hn, h]

/-- The condition of a stall ends on the way. -/
theorem exec_spindleStall_over (hn : n < 8) {d : Nat × Int} (h : s.stallDue n = some d) (hu : (s.elapse (s.ticksUntil d.1)).stallDue n = none) :
    exec (.spindleStall n) s = .next (s.elapse (s.ticksUntil d.1)) := by
  show execSpindleStall n s = _
  unfold execSpindleStall
  dsimp only
  rw [Nat.mod_eq_of_lt hn, h]
  dsimp only
  rw [hu]

/-- The condition lasts, and the stall comes when it is due. -/
theorem exec_spindleStall_due (hn : n < 8) {d e : Nat × Int} (h : s.stallDue n = some d)
    (hu : (s.elapse (s.ticksUntil d.1)).stallDue n = some e) : exec (.spindleStall n) s = .next
      (if e.1 ≤ (s.elapse (s.ticksUntil d.1)).chip.ran then (s.elapse (s.ticksUntil d.1)).stallSpindle n e.2 else s.elapse (s.ticksUntil d.1)) := by
  show execSpindleStall n s = _
  unfold execSpindleStall
  dsimp only
  rw [Nat.mod_eq_of_lt hn, h]
  dsimp only
  rw [hu]

/-- A stall is counted, and moves its spindle alone. -/
theorem State.stallSpindle_leaves (hn : n < 8) (rate : Int) :
    (s.stallSpindle n rate).num (Reg.spnStalls n) = min (2 ^ 32 - 1) (s.num (Reg.spnStalls n) + 1) ∧
    (s.stallSpindle n rate).mem = s.mem ∧ ∀ m, m ≠ n → (s.stallSpindle n rate).spin m = s.spin m := by
  have hm := s.stallSpindle_spinsMoved n rate
  obtain ⟨_, _, _, honly⟩ := s.stallMarked_only n
  have hreg := hm.reg (Reg.spnStalls n) (fun m _ => by simp only [Reg.spnStalls, Reg.spnState]; omega)
  refine ⟨?_, by rw [hm.mem, honly], fun m hmn => by rw [hm.spin m hmn, s.stallMarked_others n hmn]⟩
  rw [← s.stallMarked_stalls n hn, State.num, hreg, State.num]

end

/-! ### The end of a rejoin (R174) -/

theorem Settled.between {n : Nat} {s t : State} (h : Settled s n) (m : SpinsMoved (· ≠ n) s t) : Settled t n where
  subst := by rw [m.flagSelf, h.subst]
  rejoin := by rw [m.flagSelf, h.rejoin]
  seasoning := by rw [m.flagSelf, h.seasoning]
  known := by rw [m.spinSelf, h.known]
  gap hs := by rw [m.spinSelf, h.gap (by rwa [State.spindleSrc_congr m.blk] at hs)]

/-- A sample leaves a spindle that follows. -/
theorem Settled.noteSpindle {n : Nat} {s : State} (h : Settled s n) : Settled (s.noteSpindle n) n := by
  obtain ⟨_, _, _, _, e⟩ := s.noteSpindle_spin n
  have hb : (s.noteSpindle n).blk = s.blk := ((SpinsMoved.refl (N := (· = n)) s).noteSpindle (by rfl)).blk
  refine ⟨?_, ?_, ?_, by rw [e, h.known], fun hs => ?_⟩
  · rw [State.noteSpindle_spinFlag _ _ (by decide), h.subst]
  · rw [State.noteSpindle_spinFlag _ _ (by decide), h.rejoin]
  · rw [State.noteSpindle_spinFlag _ _ (by decide), h.seasoning]
  · rw [e]
    exact h.gap (by rwa [State.spindleSrc_congr hb] at hs)

theorem State.releaseSnaps_spin (s : State) (n : Nat) : s.releaseSnaps.spin n = s.spin n := by rw [State.releaseSnaps_only]; rfl
theorem State.releaseSnaps_spinFlag (s : State) (n b : Nat) : s.releaseSnaps.spinFlag n b = s.spinFlag n b := by rw [State.releaseSnaps_only]; rfl
theorem State.releaseSnaps_blk (s : State) : s.releaseSnaps.blk = s.blk := by rw [State.releaseSnaps_only]

theorem Settled.releaseSnaps {n : Nat} {s : State} (h : Settled s n) : Settled s.releaseSnaps n where
  subst := by rw [State.releaseSnaps_spinFlag, h.subst]
  rejoin := by rw [State.releaseSnaps_spinFlag, h.rejoin]
  seasoning := by rw [State.releaseSnaps_spinFlag, h.seasoning]
  known := by rw [State.releaseSnaps_spin, h.known]
  gap hs := by rw [State.releaseSnaps_spin, h.gap (by rwa [State.spindleSrc_congr s.releaseSnaps_blk] at hs)]

/-- A rejoin goes on over passing time, or ends in it. -/
theorem State.elapseSpindle_rejoins (s : State) (n d t0 t1 : Nat) (hr : s.spinFlag n Spn.rejoin = true) :
    (s.elapseSpindle n d t0 t1).spinFlag n Spn.rejoin = true ∨ Settled (s.elapseSpindle n d t0 t1) n := by
  have hf : ¬ s.follows n = true := by simp [State.follows, hr]
  unfold State.elapseSpindle
  split
  · exact .inl hr
  · dsimp only
    split
    · exact .inr (State.finishRejoin_settled _ n).noteSpindle
    · refine .inl ?_
      rw [State.noteSpindle_spinFlag _ _ (by decide), State.moveSpindle_spinFlag, State.setSpin_spinFlag, hr]

/-- The rejoin of a spindle over passing time: it goes on, or has ended. -/
theorem State.elapse_rejoins (s : State) {n : Nat} (hn : n < 8) (k : Nat) (hr : s.spinFlag n Spn.rejoin = true) :
    (s.elapse k).spinFlag n Spn.rejoin = true ∨ Settled (s.elapse k) n := by
  have hc : (s.clocked k).spinFlag n Spn.rejoin = true := by
    rw [State.spinFlag, State.flag, State.clocked_reg _ _ (by simp only [Reg.spnState, Reg.timHoldS]; omega), ← hr]
    rfl
  obtain ⟨-, heach⟩ := SpinsMoved.foldl_each (f := fun u n => u.elapseSpindle n (k * s.incr) s.now u.now)
    (fun u n => (SpinsMoved.refl u).elapseSpindle (by rfl) _ _ _) List.nodup_range (s.clocked k)
  obtain ⟨u, hu, ht⟩ := heach n (List.mem_range.2 hn)
  rw [State.elapse_eq]
  rcases u.elapseSpindle_rejoins n (k * s.incr) s.now u.now (by rw [hu.flagSelf, hc]) with h | h
  · rw [← ht.flagSelf] at h
    exact .inl (by rw [State.releaseSnaps_spinFlag, h])
  · exact .inr (h.between ht).releaseSnaps

/-- Time passes and the rejoin is over. -/
theorem State.rejoinEnd_shows (s : State) {n : Nat} (hn : n < 8) {k : Nat} (hr : (s.spinFlag n Spn.rejoin && s.spinRuns n) = true)
    (hk : s.ticksToClose n = some k) : Completes (.rejoinEnd n) s fun t => Settled t n ∧ t.blk = s.blk ∧ t.mem = s.mem := by
  have he : exec (.rejoinEnd n) s =
      .next (if (s.elapse k).spinFlag n Spn.rejoin then (s.elapse k).finishRejoin n else s.elapse k) := by
    show execRejoinEnd n s = _
    unfold execRejoinEnd
    simp only [Nat.mod_eq_of_lt hn, hr, ↓reduceIte, hk]
  have hrej := s.elapse_rejoins hn k (Bool.and_eq_true_iff.1 hr).1
  have hmem := s.elapse_mem k
  have hblk := s.elapse_blk k
  refine ⟨_, he, ?_⟩
  generalize s.elapse k = u at *
  split
  next =>
    have hm : SpinsMoved (· = n) u (u.finishRejoin n) := (SpinsMoved.refl u).finishRejoin (by rfl)
    exact ⟨u.finishRejoin_settled n, hm.blk.trans hblk, hm.mem.trans hmem⟩
  next h => exact ⟨hrej.resolve_left h, hblk, hmem⟩

theorem exec_rejoinEnd_idle {s : State} {n : Nat} (hn : n < 8)
    (h : (s.spinFlag n Spn.rejoin && s.spinRuns n) = true → s.ticksToClose n = none) : Idles (.rejoinEnd n) s := by
  show execRejoinEnd n s = .next s
  unfold execRejoinEnd
  simp only [Nat.mod_eq_of_lt hn]
  split
  next hr => simp only [h hr]
  next => trivial

/-! ### The snapshot (R188) -/

theorem State.spnAngleRead_shows {o s : State} {w : Who} {n : Nat} (hn : n < 8) (h : o.admitsRead w (Reg.spnAngle n) s) :
    Completes (.spnAngleRead w n) o fun t => t.bus = { code := Code.ok, data := leBytes 4 ((s.spin n).pos % 2 ^ 32) } ∧
      t = { s with spn := t.spn, bus := t.bus } ∧ t.spn.snaps.get (8 * w.id + n) = s.spinWords n ∧ t.spn.spin = s.spn.spin := by
  have he : exec (.spnAngleRead w n) o = execSpnAngleRead w n o := rfl
  unfold execSpnAngleRead at he
  simp only [Nat.mod_eq_of_lt hn] at he
  rw [State.gatedRead_ok _ _ _ _ _ h] at he
  exact ⟨_, he, rfl, rfl, Tab.get_set_eq _ _ _, rfl⟩

/-! ### A software comparator fires (R165, R166) -/

theorem Raised.setFlag {s t : State} {ns : List Nat} (h : Raised s t ns) (r b : Nat) (v : Bool) : Raised s (t.setFlag r b v) ns := h

/-- The word of pending bits of comparator `c` of spindle `n`. -/
def pendWord (n c : Nat) : Nat := if c < 32 then Reg.spnPendLo n else Reg.spnPendHi n

theorem pendWord_ne_ctl (n c c' m : Nat) (hn : n < 8) : pendWord n c ≠ Reg.spnCmpCtl m c' := by
  unfold pendWord
  split
  · simp only [Reg.spnPendLo, Reg.spnCmpCtl]; omega
  · simp only [Reg.spnPendHi, Reg.spnCmpCtl]; omega

theorem pendWord_ne_mode (n c : Nat) : pendWord n c ≠ Reg.sysMode := by
  unfold pendWord
  split
  · simp only [Reg.spnPendLo, Reg.sysMode]; omega
  · simp only [Reg.spnPendHi, Reg.sysMode]; omega

/-- The firing on the state with the crossing served. -/
def State.cmpFired (u : State) (n c : Nat) : State :=
  let v := u.setFlag (pendWord n c) (c % 32) true
  let w := if v.flag (Reg.spnCmpCtl n c) 27 then v.raise (72 + n) else v
  if w.flag (Reg.spnCmpCtl n c) 26 then w.setFlag (Reg.spnCmpCtl n c) 31 false else w

theorem State.cmpFired_shows (u : State) {n : Nat} (c : Nat) (hn : n < 8) : (u.cmpFired n c).flag (pendWord n c) (c % 32) = true ∧
    (u.flag (Reg.spnCmpCtl n c) 26 = true → (u.cmpFired n c).flag (Reg.spnCmpCtl n c) 31 = false) ∧
    OnlyRegs u (u.cmpFired n c) [pendWord n c, Reg.spnCmpCtl n c] ∧
    Raised u (u.cmpFired n c) (if u.flag (Reg.spnCmpCtl n c) 27 then [72 + n] else []) := by
  have hne := pendWord_ne_ctl n c c n hn
  have hctl (b : Nat) : (u.setFlag (pendWord n c) (c % 32) true).flag (Reg.spnCmpCtl n c) b = u.flag (Reg.spnCmpCtl n c) b :=
    State.flag_setReg_ne u _ _ hne.symm
  have hpend : (u.setFlag (pendWord n c) (c % 32) true).flag (pendWord n c) (c % 32) = true := State.flag_setFlag u _ _ _ (by omega)
  have hv : OnlyRegs u (u.setFlag (pendWord n c) (c % 32) true) [pendWord n c, Reg.spnCmpCtl n c] := (OnlyRegs.refl u _).setFlag (by simp) _ _
  have hmode : (u.setFlag (pendWord n c) (c % 32) true).mode = u.mode := State.mode_setReg (pendWord_ne_mode n c) _
  have hplic : (u.setFlag (pendWord n c) (c % 32) true).plic = u.plic := rfl
  have hvar : (u.setFlag (pendWord n c) (c % 32) true).variant = u.variant := rfl
  unfold State.cmpFired
  dsimp only
  generalize u.setFlag (pendWord n c) (c % 32) true = v at *
  have hw : OnlyRegs u (if v.flag (Reg.spnCmpCtl n c) 27 then v.raise (72 + n) else v) [pendWord n c, Reg.spnCmpCtl n c] := (hv.raise _).ite hv
  have hraised : Raised u (if v.flag (Reg.spnCmpCtl n c) 27 then v.raise (72 + n) else v) (if u.flag (Reg.spnCmpCtl n c) 27 then [72 + n] else []) := by
    rw [hctl]
    split
    · exact .single hvar hmode hplic _
    · exact .nil hplic
  have hflag (r b : Nat) : (if v.flag (Reg.spnCmpCtl n c) 27 then v.raise (72 + n) else v).flag r b = v.flag r b := by
    split
    · exact State.raise_flag _ _ _ _
    · rfl
  generalize (if v.flag (Reg.spnCmpCtl n c) 27 then v.raise (72 + n) else v) = w at *
  refine ⟨?_, fun h => ?_, (hw.setFlag (by simp) _ _).ite hw, ?_⟩
  · split
    · exact (State.flag_setReg_ne w _ _ hne).trans ((hflag _ _).trans hpend)
    · exact (hflag _ _).trans hpend
  · rw [hflag, hctl, if_pos h, State.flag_setFlag _ _ _ _ (by decide)]
  · split
    · exact hraised.setFlag _ _ _
    · exact hraised

theorem exec_softwareComparatorFire_some {s u : State} {n c x : Nat} (hn : n < 8) (hc : c < 64) (hf : s.fenced Region.sense = false)
    (h : s.firing 0 n c = some (u, x)) : exec (.softwareComparatorFire n c) s = .next (u.cmpFired n c) := by
  have hp : (if c < 32 then u.setFlag (Reg.spnPendLo n) c true else u.setFlag (Reg.spnPendHi n) (c - 32) true) =
      u.setFlag (pendWord n c) (c % 32) true := by
    unfold pendWord
    split
    · rw [Nat.mod_eq_of_lt (by omega)]
    · rw [show c % 32 = c - 32 by omega]
  show execSoftwareComparatorFire n c s = _
  unfold execSoftwareComparatorFire State.cmpFired
  rw [if_pos ⟨hn, hc, hf⟩, ← hp]
  simp only [h]

theorem exec_softwareComparatorFire_none {s : State} {n c : Nat} (h : s.fenced Region.sense = false → s.firing 0 n c = none) :
    Idles (.softwareComparatorFire n c) s := by
  show execSoftwareComparatorFire n c s = .next s
  unfold execSoftwareComparatorFire
  split
  next hc => simp only [h hc.2.2]
  next => trivial

end Sys2Proof.Machine
end
section
/-! The obligation about spindles (04). -/
namespace Sys2Proof.Machine

/-- Settles O21: each spindle of an event moves from its state before it, whatever order the others move in; a stall and a rejoin's end are
read off the state time leaves. -/
theorem spindlesMoveStallRejoinAndFire : Obligations.SpindlesMoveStallRejoinAndFire := by
  unfold Obligations.SpindlesMoveStallRejoinAndFire
  refine ⟨fun s => ⟨fun enc rev => ?_, fun enc => ?_, fun ch err adv pll => ?_, fun i locked adv pll => ?_, fun port start period => ?_,
    fun o w n v hn h => ?_⟩, fun s => ⟨fun n hn => ?_, fun n hn => ?_, fun o w n hn h => State.spnAngleRead_shows hn h, fun n c hn hc => ?_⟩⟩
  · obtain ⟨hmem, hbus, hrest, heach⟩ := SpinsMoved.event (f := fun u n => u.shaftCount n rev) (fun u n => (SpinsMoved.refl u).shaftCount (by rfl) rev)
      (s.spinsOf_nodup _ _) s
    refine ⟨_, rfl, hmem, hbus, hrest, fun n hn => ?_⟩
    obtain ⟨u, hu, ht⟩ := heach n hn
    obtain ⟨hcount, hflag, hstep⟩ := State.shaftCount_between hu ht
    exact ⟨hcount, hflag, hstep.facts⟩
  · obtain ⟨hmem, hbus, hrest, heach⟩ := SpinsMoved.event (f := fun u n => u.shaftIndex n) (fun u n => (SpinsMoved.refl u).shaftIndex (by rfl))
      ((s.spinsOf_nodup _ _).filter _) s
    refine ⟨_, rfl, hmem, hbus, hrest, fun n hn => ?_⟩
    obtain ⟨u, hu, ht⟩ := heach n hn
    have hsrc := State.spindleSrc_of_spinsOf (List.mem_filter.1 hn).1
    have h := State.shaftIndex_between (by rw [hsrc]; decide) hu ht
    rwa [State.indexNear, State.indexed_gap] at h
  · obtain ⟨hmem, hbus, hrest, heach⟩ := SpinsMoved.event (f := fun u n => u.mainsStep n err adv pll) (fun u n => (SpinsMoved.refl u).mainsStep (by rfl) err adv pll)
      (s.spinsOf_nodup _ _) s
    refine ⟨_, rfl, hmem, hbus, hrest, fun n hn => ?_⟩
    obtain ⟨u, hu, ht⟩ := heach n hn
    obtain ⟨hpll, hgood, hlocked, hstep⟩ := State.mainsStep_between hu ht
    exact ⟨hpll, hgood, hlocked, hstep.facts⟩
  · obtain ⟨hmem, hbus, hrest, heach⟩ := SpinsMoved.event (f := fun u n => u.pulseStep n locked adv pll) (fun u n => (SpinsMoved.refl u).pulseStep (by rfl) locked adv pll)
      (s.spinsOf_nodup _ _) s
    refine ⟨_, rfl, hmem, hbus, hrest, fun n hn => ?_⟩
    obtain ⟨u, hu, ht⟩ := heach n hn
    obtain ⟨hpll, hlocked, hstep⟩ := State.pulseStep_between hu ht
    exact ⟨hpll, hlocked, hstep.facts⟩
  · obtain ⟨hmem, hbus, hrest, heach⟩ := SpinsMoved.event (f := fun u n => u.roundStep n start period) (fun u n => (SpinsMoved.refl u).roundStep (by rfl) start period)
      (s.spinsOf_nodup _ _) s
    refine ⟨_, rfl, hmem, hbus, hrest, fun n hn => ?_⟩
    obtain ⟨u, hu, ht⟩ := heach n hn
    exact State.roundStep_between (by rw [State.spindleSrc_of_spinsOf hn]; decide) hu ht
  · have hs := State.hostadv_shows hn h
    split
    next hc => rwa [if_pos hc] at hs
    next hc =>
      rw [if_neg hc] at hs
      obtain ⟨t, he, hack, hmem, hspin, hstep, hknown⟩ := hs
      exact ⟨t, he, hack, hmem, hspin, hstep.facts, hknown⟩
  · split
    next h => exact exec_spindleStall_none hn h
    next due rate h =>
      have hover := exec_spindleStall_over hn h
      have hdue (e : Nat × Int) := exec_spindleStall_due (e := e) hn h
      have hmem0 := s.elapse_mem (s.ticksUntil due)
      dsimp only at hover hdue ⊢
      generalize s.elapse (s.ticksUntil due) = u at *
      cases hu : u.stallDue n with
      | none => exact ⟨u, hover hu, rfl⟩
      | some e =>
        refine ⟨_, hdue e hu, ?_⟩
        dsimp only
        split
        next hlt => rw [if_neg (by exact Nat.not_le.2 hlt)]
        next hge =>
          rw [if_pos (by exact Nat.not_lt.1 hge)]
          have hst := u.stallSpindle_stalled n e.2
          obtain ⟨hnum, hmem, hspin⟩ := u.stallSpindle_leaves hn e.2
          exact ⟨hst.subst, hst.rejoin, hst.lost, hnum, hmem.trans hmem0, hspin, fun h => ⟨hst.sub h, hst.pos h⟩⟩
  · cases hk : (if s.spinFlag n Spn.rejoin && s.spinRuns n then s.ticksToClose n else none) with
    | none => exact exec_rejoinEnd_idle hn fun hr => by rwa [if_pos hr] at hk
    | some k =>
      have hr : (s.spinFlag n Spn.rejoin && s.spinRuns n) = true := by
        by_contra hr
        simp [hr] at hk
      rw [if_pos hr] at hk
      obtain ⟨t, he, hset, hblk, hmem⟩ := s.rejoinEnd_shows hn hr hk
      exact ⟨t, he, hset.subst, hset.rejoin, hset.seasoning, fun hs => hset.gap (by rwa [State.spindleSrc_congr hblk]), hmem⟩
  · split
    next hf => exact exec_softwareComparatorFire_none fun h => by simp [h] at hf
    next hf =>
      have hf := Bool.not_eq_true _ ▸ hf
      cases h : s.firing 0 n c with
      | none => exact ⟨s, exec_softwareComparatorFire_none fun _ => h, by trivial⟩
      | some e =>
        refine ⟨_, exec_softwareComparatorFire_some hn hc hf h, ?_⟩
        have hs := e.1.cmpFired_shows c hn
        generalize e.1.cmpFired n c = t at *
        exact hs

end Sys2Proof.Machine
end
section
/-! Registers that a block writes, and no other state: what that leaves, with the calendar's or TIM's own state replaced. -/
namespace Sys2Proof.Machine

/-- From `s` to `t` the registers `rs` are written, and nothing else changes. -/
structure RegsWritten (rs : List Nat) (s t : State) : Prop where
  only : t = { s with regs := t.regs }
  reg : ∀ q, q ∉ rs → t.reg q = s.reg q

namespace RegsWritten
variable {rs : List Nat} {s t : State} {r : Nat}

theorem refl (s : State) : RegsWritten rs s s := ⟨rfl, fun _ _ => rfl⟩

theorem setReg (h : RegsWritten rs s t) (hr : r ∈ rs) (v : Word) : RegsWritten rs s (t.setReg r v) where
  only := by rw [h.only]; rfl
  reg q hq := (State.reg_setReg_ne t r q v (by rintro rfl; exact hq hr)).trans (h.reg q hq)

theorem setNum (h : RegsWritten rs s t) (hr : r ∈ rs) (v : Nat) : RegsWritten rs s (t.setNum r v) := h.setReg hr _
theorem setFld (h : RegsWritten rs s t) (hr : r ∈ rs) (hi lo v : Nat) : RegsWritten rs s (t.setFld r hi lo v) := h.setReg hr _
theorem setFlag (h : RegsWritten rs s t) (hr : r ∈ rs) (b : Nat) (v : Bool) : RegsWritten rs s (t.setFlag r b v) := h.setReg hr _

theorem onlyRegs (h : RegsWritten rs s t) : OnlyRegs s t rs := ⟨h.only.trans (by rw [h.only]), h.reg⟩
theorem bus (h : RegsWritten rs s t) : t.bus = s.bus := by rw [h.only]
theorem plic (h : RegsWritten rs s t) : t.plic = s.plic := by rw [h.only]
theorem variant (h : RegsWritten rs s t) : t.variant = s.variant := by rw [h.only]
theorem rtc (h : RegsWritten rs s t) : t.rtc = s.rtc := by rw [h.only]
theorem mode (h : RegsWritten rs s t) (hm : Reg.sysMode ∉ rs) : t.mode = s.mode := by
  rw [State.mode, State.fld, h.reg _ hm, State.mode, State.fld]
theorem flag (h : RegsWritten rs s t) {q : Nat} (hq : q ∉ rs) (b : Nat) : t.flag q b = s.flag q b := by
  rw [State.flag, h.reg q hq, State.flag]

theorem raised (h : RegsWritten rs s t) (hm : Reg.sysMode ∉ rs) (n : Nat) : Raised s (t.raise n) [n] := .single h.variant (h.mode hm) h.plic n

end RegsWritten

/-- The state with another calendar. -/
def State.withRtc (s : State) (r : RtcState) : State := { s with rtc := r }

/-- What sources that rise make of the pending ones. -/
theorem State.raiseAll_plic_congr {s t : State} (hv : t.variant = s.variant) (hm : t.mode = s.mode) (hp : t.plic = s.plic) (ns : List Nat) :
    (t.raiseAll ns).plic = (s.raiseAll ns).plic := by
  induction ns generalizing s t with
  | nil => exact hp
  | cons n ns ih =>
    refine ih ?_ ?_ (State.raise_plic_congr hv hm hp n)
    · rw [State.raise_variant, State.raise_variant, hv]
    · rw [State.raise_mode, State.raise_mode, hm]

/-- A source's pending is the same whatever the calendar. -/
theorem Raised.withRtc {s t : State} {r : RtcState} {ns : List Nat} (h : Raised (s.withRtc r) t ns) : Raised s t ns :=
  h.trans (State.raiseAll_plic_congr (s := s) (t := s.withRtc r) rfl rfl rfl ns)

/-- A calendar replaced, registers written, a source raised. -/
theorem RegsWritten.rtcRaise {rs : List Nat} {s t : State} {r : RtcState} (h : RegsWritten rs (s.withRtc r) t) (hm : Reg.sysMode ∉ rs) (n : Nat) :
    (t.raise n).bus = s.bus ∧ (t.raise n).rtc = r ∧ OnlyRegs { s with rtc := (t.raise n).rtc } (t.raise n) rs ∧ Raised s (t.raise n) [n] := by
  have hr : (t.raise n).rtc = r := by rw [State.raise_rtc, h.rtc]; rfl
  refine ⟨by rw [State.raise_bus, h.bus]; rfl, hr, ?_, (h.raised hm n).withRtc⟩
  rw [hr]
  exact h.onlyRegs.raise n

end Sys2Proof.Machine
end

section
/-! Snapshots of the calendar that are released (R219), and the obligation about them and the minute's comparison (R214, R217 to R219). -/
namespace Sys2Proof.Machine

/-! ### Tables -/

theorem cellsFind_mem {α : Type} {k : Nat} {v : α} {m : List (Nat × α)} (h : cellsFind k m = some v) : (k, v) ∈ m := by
  induction m with
  | nil => simp [cellsFind] at h
  | cons c r ih =>
    obtain ⟨j, x⟩ := c
    simp only [cellsFind] at h
    split at h
    next hj => simp_all
    next => exact List.mem_cons_of_mem _ (ih h)

/-- A snapshot that is held is listed. -/
theorem Tab.mem_of_get {α : Type} {t : Tab (Option α)} {k : Nat} {x : α} (h : t.get k = some x) : (k, some x) ∈ t.cells := by
  refine cellsFind_mem ?_
  unfold Tab.get at h
  cases hf : cellsFind k t.cells with
  | none => rw [hf] at h; exact absurd h (by simp [default])
  | some y => rw [hf] at h; exact congrArg some h

theorem Tab.get_dropped {α : Type} [Inhabited α] (t : Tab α) (f : Nat → Bool) {k : Nat} (h : f k = false) : (t.keep f).get k = default := by
  have e : cellsFind k (t.cells.filter fun c => f c.1) = none := (cellsFind_filter f k t.cells).trans (if_neg (by simp [h]))
  exact congrArg (·.getD default) e

/-- A key set to true on the way reads true. -/
theorem Tab.get_foldl_set_true {l : List Nat} {k : Nat} (t : Tab Bool) (h : k ∈ l ∨ t.get k = true) :
    (l.foldl (fun t k => t.set k true) t).get k = true := by
  induction l generalizing t with
  | nil => simpa using h
  | cons a l ih =>
    refine ih _ ?_
    rw [Tab.get_set]
    by_cases hk : k = a
    · exact .inr (if_pos hk)
    · rw [if_neg hk]
      simpa [hk] using h

/-! ### Old snapshots are released (R219) -/

/-- The initiators whose snapshot has stood for 1 s. -/
def State.oldSnaps (s : State) (t : Tab (Option RtcSnap)) : List Nat := (t.cells.filter fun e => RtcSnap.old s.chip.ran e.2).map Prod.fst

section
variable {s : State} {id : Nat} {x : RtcSnap}

theorem State.mem_oldSnaps {t : Tab (Option RtcSnap)} (h : t.get id = some x) (hx : x.taken + secondUnits ≤ s.chip.ran) : id ∈ s.oldSnaps t :=
  List.mem_map.2 ⟨(id, some x), List.mem_filter.2 ⟨Tab.mem_of_get h, decide_eq_true hx⟩, rfl⟩

/-- The calendar without its old snapshots. -/
def State.renewed (s : State) : RtcState :=
  s.rtc.withSnaps (s.rtc.cellSnaps.keep fun k => !(s.oldSnaps s.rtc.cellSnaps).contains k)
    (s.rtc.blockSnaps.keep fun k => !(s.oldSnaps s.rtc.blockSnaps).contains k)
    ((s.oldSnaps s.rtc.cellSnaps ++ s.oldSnaps s.rtc.blockSnaps).foldl (fun t k => t.set k true) s.rtc.expired)

/-- Where one is old, those that are old go. -/
theorem State.releaseSnaps_some (h : id ∈ s.oldSnaps s.rtc.cellSnaps ∨ id ∈ s.oldSnaps s.rtc.blockSnaps) : s.releaseSnaps =
    ({ s with rtc := s.renewed } : State).raise 58 := by
  unfold State.releaseSnaps
  refine if_neg fun hno => ?_
  simp only [Bool.and_eq_true, List.isEmpty_iff] at hno
  obtain ⟨hc, hb⟩ := hno
  rcases h with h | h
  · rw [State.oldSnaps, hc] at h
    exact absurd h List.not_mem_nil
  · rw [State.oldSnaps, hb] at h
    exact absurd h List.not_mem_nil

/-- An old snapshot is released, marked and shown. -/
theorem State.releaseSnaps_old (cell : Bool) (h : (if cell then s.rtc.cellSnaps.get id else s.rtc.blockSnaps.get id) = some x)
    (hx : x.taken + secondUnits ≤ s.chip.ran) : s.releaseSnaps.rtc.expired.get id = true ∧
    (if cell then s.releaseSnaps.rtc.cellSnaps.get id = none else s.releaseSnaps.rtc.blockSnaps.get id = none) ∧ Rises s s.releaseSnaps 58 := by
  have hmem : (cell = true → id ∈ s.oldSnaps s.rtc.cellSnaps) ∧ (cell = false → id ∈ s.oldSnaps s.rtc.blockSnaps) := by
    constructor
    · rintro rfl; exact State.mem_oldSnaps h hx
    · rintro rfl; exact State.mem_oldSnaps h hx
  have hor : id ∈ s.oldSnaps s.rtc.cellSnaps ∨ id ∈ s.oldSnaps s.rtc.blockSnaps := by
    cases cell
    · exact .inr (hmem.2 rfl)
    · exact .inl (hmem.1 rfl)
  rw [State.releaseSnaps_some hor]
  refine ⟨?_, ?_, ?_⟩
  · rw [State.raise_rtc]
    exact Tab.get_foldl_set_true _ (.inl (List.mem_append.2 hor))
  · rw [State.raise_rtc]
    cases cell
    · exact Tab.get_dropped _ _ (by simp [hmem.2 rfl])
    · exact Tab.get_dropped _ _ (by simp [hmem.1 rfl])
  · exact State.raise_rises { s with rtc := s.renewed } 58

end

/-- Time passes until a snapshot has stood for 1 s. -/
theorem State.elapse_expires (s : State) {id k : Nat} {x : RtcSnap} (cell : Bool)
    (h : (if cell then s.rtc.cellSnaps.get id else s.rtc.blockSnaps.get id) = some x) (hx : x.taken + secondUnits ≤ (s.elapse k).chip.ran) :
    (s.elapse k).rtc.expired.get id = true ∧
    (if cell then (s.elapse k).rtc.cellSnaps.get id = none else (s.elapse k).rtc.blockSnaps.get id = none) ∧
    (s.awake = true → (s.elapse k).pendingSource 58 = true) := by
  have hc : (s.elapse k).chip.ran = s.chip.ran + k * s.incr := by rw [(s.elapse_elapsed k).chip]
  have hm := s.clocked_spinsMoved k
  have hchip := hm.chip.trans (Elapsed.clocked s k).chip
  have hsnaps : (s.clocked k).rtc.cellSnaps = s.rtc.cellSnaps ∧ (s.clocked k).rtc.blockSnaps = s.rtc.blockSnaps := by
    rw [State.clocked_rtc]
    exact ⟨rfl, rfl⟩
  rw [← hm.rtc] at hsnaps
  have hsteady := (s.clocked_steady k).trans (s.moved_steady k)
  rw [hc] at hx
  rw [State.elapse_eq]
  generalize (List.range 8).foldl (fun u n => u.elapseSpindle n (k * s.incr) s.now u.now) (s.clocked k) = v at *
  rw [← hsnaps.1, ← hsnaps.2] at h
  obtain ⟨hexp, hnone, hrise⟩ := State.releaseSnaps_old cell h (by rw [hchip]; exact hx)
  exact ⟨hexp, hnone, fun ha => hrise (State.canRise_of_awake (by rfl) (by rw [hsteady.awake, ha]))⟩

/-! ### Reads (R217, R218) -/

section
variable {s t : State} {i : Nat} {x : RtcSnap}

theorem State.cellFor_some (h : s.rtc.cellSnaps.get i = some x) : s.cellFor i = (x.sec, x.tick) := by
  unfold State.cellFor
  rw [h]

theorem State.blockFor_some (h : s.rtc.blockSnaps.get i = some x) : s.blockFor i = (x.sec, x.tick) := by
  unfold State.blockFor
  rw [h]

theorem State.cellFor_congr (h : t.rtc.cellSnaps.get i = s.rtc.cellSnaps.get i) (hs : t.rtc.cellSec = s.rtc.cellSec)
    (ht : t.rtc.cellTick = s.rtc.cellTick) : t.cellFor i = s.cellFor i := by
  unfold State.cellFor
  rw [h, hs, ht]

theorem State.blockFor_congr (h : t.rtc.blockSnaps.get i = s.rtc.blockSnaps.get i) (hs : t.rtc.blockSec = s.rtc.blockSec)
    (ht : t.rtc.blockTick = s.rtc.blockTick) : t.blockFor i = s.blockFor i := by
  unfold State.blockFor
  rw [h, hs, ht]

end

/-! ### The cell's boundaries -/

/-- Up to a boundary of the cell no time passes, or some. -/
theorem State.cellElapse_cases {P : State → Prop} (s : State) (ticks : Nat) (h0 : P s) (hk : ∀ k, P (s.elapse k)) : P (s.cellElapse ticks) := by
  unfold State.cellElapse
  split
  · exact h0
  · exact hk _

theorem State.cellElapse_bus (s : State) (ticks : Nat) : (s.cellElapse ticks).bus = s.bus :=
  s.cellElapse_cases ticks (P := fun t => t.bus = s.bus) rfl s.elapse_bus

/-- A block that differs from its cell loads from it (R214). -/
def State.blockDrifts (s : State) : State :=
  ((s.withRtc { s.rtc with blockSec := s.rtc.cellSec, blockTick := s.rtc.cellTick }).setFlag Reg.rtcStatus Rtc.drift true).raise 61

theorem State.blockDrifts_shows (s : State) : s.blockDrifts.bus = s.bus ∧ OnlyRegs { s with rtc := s.blockDrifts.rtc } s.blockDrifts [Reg.rtcStatus] ∧
    Raised s s.blockDrifts [61] ∧ s.blockDrifts.flag Reg.rtcStatus Rtc.drift = true ∧
    s.blockDrifts.rtc = { s.rtc with blockSec := s.rtc.cellSec, blockTick := s.rtc.cellTick } := by
  have hw : RegsWritten [Reg.rtcStatus] (s.withRtc { s.rtc with blockSec := s.rtc.cellSec, blockTick := s.rtc.cellTick })
      ((s.withRtc { s.rtc with blockSec := s.rtc.cellSec, blockTick := s.rtc.cellTick }).setFlag Reg.rtcStatus Rtc.drift true) :=
    (RegsWritten.refl _).setFlag (by simp) _ _
  obtain ⟨hbus, hrtc, honly, hraised⟩ := hw.rtcRaise (by decide) 61
  exact ⟨hbus, honly, hraised, by rw [State.blockDrifts, State.raise_flag, State.flag_setFlag _ _ _ _ (by decide)], hrtc⟩

theorem exec_rtcCompare (s : State) :
    let u := s.cellElapse ((60 * 32768 - (s.rtc.cellSec % 60 * 32768 + s.rtc.cellTick)) % (60 * 32768))
    exec .rtcCompare s = .next (if u.rtc.blockSec = u.rtc.cellSec ∧ u.rtc.blockTick = u.rtc.cellTick then u else u.blockDrifts) := by
  intro u
  show execRtcCompare s = _
  unfold execRtcCompare
  exact (apply_ite Host.Outcome.next _ _ _).symm

/-- Settles O24: reads are served as admitted reads are; time that passes to a snapshot's end releases it. -/
theorem calendarSnapshotsAndTheBlock : Obligations.CalendarSnapshotsAndTheBlock := by
  unfold Obligations.CalendarSnapshotsAndTheBlock
  refine ⟨fun o s w => ⟨fun h => ?_, fun h => ?_, fun cell h => ?_⟩, fun s => ⟨fun id cell => ?_, ?_⟩⟩
  · refine ⟨_, congrArg Host.Outcome.next (State.gatedRead_ok o w Reg.rtcSubsec _ s h), rfl, rfl, ?_, Tab.get_set_eq _ _ _, fun i hi => ?_⟩
    · exact State.cellFor_some (x := ⟨s.rtc.cellSec, s.rtc.cellTick, s.chip.ran⟩) (Tab.get_set_eq _ _ _)
    · exact State.cellFor_congr (Tab.get_set_ne _ _ _ _ hi) rfl rfl
  · refine ⟨_, congrArg Host.Outcome.next (State.gatedRead_ok o w Reg.rtcFrac _ s h), rfl, rfl, ?_, Tab.get_set_eq _ _ _, fun i hi => ?_⟩
    · exact State.blockFor_some (x := ⟨s.rtc.blockSec, s.rtc.blockTick, s.chip.ran⟩) (Tab.get_set_eq _ _ _)
    · exact State.blockFor_congr (Tab.get_set_ne _ _ _ _ hi) rfl rfl
  · refine ⟨_, congrArg Host.Outcome.next (State.gatedRead_ok o w (if cell then Reg.rtcYear else Reg.rtcSecHi) _ s h), ?_⟩
    cases cell
    · exact ⟨rfl, rfl, rfl⟩
    · exact ⟨rfl, rfl, rfl⟩
  · cases hx : (if cell then s.rtc.cellSnaps.get id else s.rtc.blockSnaps.get id) with
    | none =>
      show Host.Outcome.next _ = _
      simp only [hx]
    | some x =>
      have he : exec (.freezeExpired id cell) s = .next (s.elapse (s.ticksUntil (x.taken + secondUnits))) := by
        show Host.Outcome.next _ = _
        simp only [hx]
      exact ⟨_, he, rfl, s.elapse_expires cell hx (s.elapse_reaches _)⟩
  · have he := exec_rtcCompare s
    have hbus := s.cellElapse_bus ((60 * 32768 - (s.rtc.cellSec % 60 * 32768 + s.rtc.cellTick)) % (60 * 32768))
    dsimp only at he ⊢
    generalize s.cellElapse ((60 * 32768 - (s.rtc.cellSec % 60 * 32768 + s.rtc.cellTick)) % (60 * 32768)) = u at *
    refine ⟨_, he, ?_⟩
    split
    next => rfl
    next =>
      obtain ⟨hb, honly, hraised, hflag, hrtc⟩ := u.blockDrifts_shows
      exact ⟨hb.trans hbus, honly, hraised, hflag, hrtc⟩

end Sys2Proof.Machine
end
section
/-! Commits, the trim accumulator and trim measurements (04), and the obligation about them (R221 to R228). -/
namespace Sys2Proof.Machine

/-- A bit after a bit was written. -/
theorem State.flag_setFlag_eq (s : State) (r a b : Nat) (v : Bool) (h : a < 32) : (s.setFlag r a v).flag r b = if b = a then v else s.flag r b := by
  split
  next e => rw [e]; exact s.flag_setFlag r a v h
  next e => exact s.flag_setFlag_ne r a b v h e

/-! ### Commits (R221 to R224) -/

/-- The staged time is what the block's registers and FORM say. -/
theorem State.stagedSec_congr {s t : State} (hf : t.rtc.form = s.rtc.form) (hr : ∀ q ∈ [Reg.rtcSetTime, Reg.rtcSetDate, Reg.rtcSetBinLo, Reg.rtcSetBinHi],
    t.reg q = s.reg q) : t.stagedSec = s.stagedSec := by
  have ht := hr Reg.rtcSetTime (by simp)
  have hd := hr Reg.rtcSetDate (by simp)
  have hl := hr Reg.rtcSetBinLo (by simp)
  have hh := hr Reg.rtcSetBinHi (by simp)
  unfold State.stagedSec State.num State.fld
  dsimp only
  rw [hf, ht, hd, hl, hh]

/-- Time to a boundary of the cell leaves the calendar's registers. -/
theorem State.cellElapse_reg (s : State) (ticks : Nat) {q : Nat} (hq : q < 0xA0000) (hn : q ≠ Reg.timHoldS) :
    (s.cellElapse ticks).reg q = s.reg q :=
  s.cellElapse_cases ticks (P := fun t => t.reg q = s.reg q) rfl fun k => s.elapse_reg k hq hn

theorem State.cellElapse_form (s : State) (ticks : Nat) : (s.cellElapse ticks).rtc.form = s.rtc.form := by
  refine s.cellElapse_cases ticks (P := fun t => t.rtc.form = s.rtc.form) rfl fun k => ?_
  obtain ⟨_, _, _, h⟩ := (s.elapse_elapsed k).rtc
  rw [h]
  rfl

/-- The calendar with the staged time. -/
def RtcState.loaded (r : RtcState) (n tick : Nat) : RtcState := { r with valid := true, cellSec := n, cellTick := tick, blockSec := n, blockTick := tick }

/-- The commit has failed (R223). -/
def State.commitFails (s : State) : State := ((s.setFlag Reg.rtcStatus Rtc.busy false).setFlag Reg.rtcStatus Rtc.err true).raise 57

/-- Cell and block have loaded the staged time (R221). -/
def State.commitLoads (s : State) (n : Nat) : State :=
  (((((s.setFlag Reg.rtcStatus Rtc.busy false).withRtc (s.rtc.loaded n (128 * s.fld Reg.rtcSetTime 31 24))).setFlag Reg.rtcStatus Rtc.err
    false).setFlag Reg.rtcStatus 31 true)).raise 56

section
variable (s : State)

theorem State.clearBusy_reg {q : Nat} (hq : q ≠ Reg.rtcStatus) : (s.setFlag Reg.rtcStatus Rtc.busy false).reg q = s.reg q :=
  State.reg_setReg_ne s _ q _ hq

theorem State.clearBusy_stagedSec : (s.setFlag Reg.rtcStatus Rtc.busy false).stagedSec = s.stagedSec := by
  refine State.stagedSec_congr (by rw [State.setFlag_eq, State.setReg_rtc]) fun q hq => s.clearBusy_reg ?_
  rintro rfl
  exact absurd hq (by decide)

theorem State.cellElapse_stagedSec (ticks : Nat) : (s.cellElapse ticks).stagedSec = s.stagedSec := by
  have hlow : ∀ q ∈ [Reg.rtcSetTime, Reg.rtcSetDate, Reg.rtcSetBinLo, Reg.rtcSetBinHi], q < 0xA0000 ∧ q ≠ Reg.timHoldS := by decide
  refine State.stagedSec_congr (s.cellElapse_form ticks) fun q hq => ?_
  obtain ⟨hl, hn⟩ := hlow q hq
  exact s.cellElapse_reg ticks hl hn

/-- Time passes to the boundary, and the commit loads or fails. -/
theorem exec_commitLoad (hb : s.flag Reg.rtcStatus Rtc.busy = true) : exec .commitLoad s = .next (match s.stagedSec with
    | none => (s.cellElapse (128 - s.rtc.cellTick % 128)).commitFails
    | some n => (s.cellElapse (128 - s.rtc.cellTick % 128)).commitLoads n) := by
  have hst := s.cellElapse_stagedSec (128 - s.rtc.cellTick % 128)
  show execCommitLoad s = _
  unfold execCommitLoad
  rw [if_neg (by simp [hb])]
  dsimp only
  generalize s.cellElapse (128 - s.rtc.cellTick % 128) = u at *
  rw [u.clearBusy_stagedSec, hst]
  cases s.stagedSec with
  | none => rfl
  | some n =>
    have hf : (u.setFlag Reg.rtcStatus Rtc.busy false).fld Reg.rtcSetTime 31 24 = u.fld Reg.rtcSetTime 31 24 := by
      rw [State.fld, u.clearBusy_reg (by decide), State.fld]
    have hr : (u.setFlag Reg.rtcStatus Rtc.busy false).rtc = u.rtc := by rw [State.setFlag_eq, State.setReg_rtc]
    unfold State.commitLoads RtcState.loaded State.withRtc
    dsimp only
    rw [hf, hr]

theorem exec_commitLoad_idle (hb : s.flag Reg.rtcStatus Rtc.busy = false) : Idles .commitLoad s := by
  show execCommitLoad s = _
  unfold execCommitLoad
  rw [if_pos (by simp [hb])]

theorem State.commitFails_shows : s.commitFails.flag Reg.rtcStatus Rtc.busy = false ∧ s.commitFails.bus = s.bus ∧
    OnlyRegs { s with rtc := s.commitFails.rtc } s.commitFails [Reg.rtcStatus] ∧ s.commitFails.rtc = s.rtc ∧
    s.commitFails.flag Reg.rtcStatus Rtc.err = true ∧ Raised s s.commitFails [57] := by
  have hw : RegsWritten [Reg.rtcStatus] (s.withRtc s.rtc) ((s.setFlag Reg.rtcStatus Rtc.busy false).setFlag Reg.rtcStatus Rtc.err true) :=
    ((RegsWritten.refl s).setFlag (by simp) _ _).setFlag (by simp) _ _
  obtain ⟨hbus, hrtc, honly, hraised⟩ := hw.rtcRaise (by decide) 57
  refine ⟨?_, hbus, honly, hrtc, ?_, hraised⟩
  · rw [State.commitFails, State.raise_flag, State.flag_setFlag_ne _ _ _ _ _ (by decide) (by decide), State.flag_setFlag _ _ _ _ (by decide)]
  · rw [State.commitFails, State.raise_flag, State.flag_setFlag _ _ _ _ (by decide)]

theorem State.commitLoads_shows (n : Nat) : (s.commitLoads n).flag Reg.rtcStatus Rtc.busy = false ∧ (s.commitLoads n).bus = s.bus ∧
    OnlyRegs { s with rtc := (s.commitLoads n).rtc } (s.commitLoads n) [Reg.rtcStatus] ∧
    (s.commitLoads n).rtc = s.rtc.loaded n (128 * s.fld Reg.rtcSetTime 31 24) ∧ (s.commitLoads n).flag Reg.rtcStatus Rtc.err = false ∧
    (s.commitLoads n).flag Reg.rtcStatus 31 = true ∧ Raised s (s.commitLoads n) [56] := by
  unfold State.commitLoads
  generalize s.rtc.loaded n (128 * s.fld Reg.rtcSetTime 31 24) = r
  have hcomm : (s.setFlag Reg.rtcStatus Rtc.busy false).withRtc r = (s.withRtc r).setFlag Reg.rtcStatus Rtc.busy false := rfl
  rw [hcomm]
  have hw : RegsWritten [Reg.rtcStatus] (s.withRtc r)
      ((((s.withRtc r).setFlag Reg.rtcStatus Rtc.busy false).setFlag Reg.rtcStatus Rtc.err false).setFlag Reg.rtcStatus 31 true) :=
    (((RegsWritten.refl _).setFlag (by simp) _ _).setFlag (by simp) _ _).setFlag (by simp) _ _
  obtain ⟨hbus, hrtc, honly, hraised⟩ := hw.rtcRaise (by decide) 56
  refine ⟨?_, hbus, honly, hrtc, ?_, ?_, hraised⟩
  · rw [State.raise_flag, State.flag_setFlag_ne _ _ _ _ _ (by decide) (by decide), State.flag_setFlag_ne _ _ _ _ _ (by decide) (by decide),
      State.flag_setFlag _ _ _ _ (by decide)]
  · rw [State.raise_flag, State.flag_setFlag_ne _ _ _ _ _ (by decide) (by decide), State.flag_setFlag _ _ _ _ (by decide)]
  · rw [State.raise_flag, State.flag_setFlag _ _ _ _ (by decide)]

end

end Sys2Proof.Machine
end
section
/-! The trim accumulator and trim measurements (04), and the obligation about them and commits (R221 to R228). -/
namespace Sys2Proof.Machine

/-! ### The accumulator (R225) -/

theorem RtcState.trimSize_le (r : RtcState) : r.trimSize ≤ 1024 := by
  simp only [RtcState.trimSize, signed]
  split <;> omega

/-- The crystal cycles up to the next overflow. -/
def RtcState.toOverflow (r : RtcState) : Nat := (2 ^ 23 - r.trimAcc + r.trimSize - 1) / r.trimSize

/-- At the overflow the accumulator has passed its end once. -/
theorem RtcState.overflow_bounds {r : RtcState} (ht : r.trimSize ≠ 0) (ha : r.trimAcc < 2 ^ 23) :
    2 ^ 23 ≤ r.trimAcc + r.toOverflow * r.trimSize ∧ r.trimAcc + r.toOverflow * r.trimSize < 2 ^ 23 + 1024 ∧ 0 < r.toOverflow := by
  have hle := r.trimSize_le
  have hdiv := Nat.div_add_mod' (2 ^ 23 - r.trimAcc + r.trimSize - 1) r.trimSize
  have hmod := Nat.mod_lt (2 ^ 23 - r.trimAcc + r.trimSize - 1) (Nat.pos_of_ne_zero ht)
  have hpos : 0 < r.toOverflow := Nat.div_pos (by omega) (Nat.pos_of_ne_zero ht)
  unfold RtcState.toOverflow at *
  omega

/-- Cycles that make the accumulator overflow once insert a count, or swallow one. -/
theorem RtcState.cycles_overflow {r : RtcState} (ht : r.trimSize ≠ 0) (ha : r.trimAcc < 2 ^ 23) :
    (r.cycles r.toOverflow).trimAcc < 2 ^ 23 ∧ (r.cycles r.toOverflow).raw = r.raw + r.toOverflow ∧
    (r.cycles r.toOverflow).cellSec * 32768 + (r.cycles r.toOverflow).cellTick + (if r.trimPositive then 0 else 1) =
      r.cellSec * 32768 + r.cellTick + r.toOverflow + (if r.trimPositive then 1 else 0) := by
  obtain ⟨hlo, hhi, hpos⟩ := RtcState.overflow_bounds ht ha
  have hextra : (r.trimAcc + r.toOverflow * r.trimSize) / 2 ^ 23 = 1 := by omega
  refine ⟨Nat.mod_lt _ (by norm_num), rfl, ?_⟩
  have hsec : (r.cycles r.toOverflow).cellSec = r.cellSec + (r.cellTick + (if r.trimPositive then r.toOverflow + 1 else r.toOverflow - 1)) / 32768 := by
    rw [← hextra]; rfl
  have htick : (r.cycles r.toOverflow).cellTick = (r.cellTick + (if r.trimPositive then r.toOverflow + 1 else r.toOverflow - 1)) % 32768 := by
    rw [← hextra]; rfl
  rw [hsec, htick]
  split <;> omega

/-- The ticks in which the crystal makes `c` cycles more. -/
theorem cycles_of_ticks {phase c : Nat} (hp : phase < 250000000) (hc : 0 < c) :
    (phase + 32768 * ((c * 250000000 - phase + 32767) / 32768)) / 250000000 = c := by
  omega

theorem exec_trimOverflow_idle {s : State} (h : s.rtc.trimSize = 0) : Idles .trimOverflow s := by
  show execTrimOverflow s = _
  unfold execTrimOverflow
  simp only [h, ↓reduceIte]

theorem exec_trimOverflow {s : State} (h : s.rtc.trimSize ≠ 0) :
    exec .trimOverflow s = .next (s.elapse ((s.rtc.toOverflow * 250000000 - s.rtc.phase + 32767) / 32768)) := by
  show execTrimOverflow s = _
  unfold execTrimOverflow
  simp only [h, ↓reduceIte]
  rfl

/-- The calendar, whatever its snapshots, after cycles that make the accumulator overflow once. -/
theorem RtcState.overflowed {r t : RtcState} {ph : Nat} {c b : Tab (Option RtcSnap)} {e : Tab Bool} (ht : r.trimSize ≠ 0) (ha : r.trimAcc < 2 ^ 23)
    (h : t = (RtcState.cycles { r with phase := ph } r.toOverflow).withSnaps c b e) : t.trimAcc < 2 ^ 23 ∧ t.raw = r.raw + r.toOverflow ∧
    t.cellSec * 32768 + t.cellTick + (if r.trimPositive then 0 else 1) =
      r.cellSec * 32768 + r.cellTick + r.toOverflow + (if r.trimPositive then 1 else 0) := by
  have hcy := RtcState.cycles_overflow (r := { r with phase := ph }) ht ha
  have hn : RtcState.toOverflow { r with phase := ph } = r.toOverflow := rfl
  rw [hn] at hcy
  generalize RtcState.cycles { r with phase := ph } r.toOverflow = u at *
  rw [h]
  exact hcy

theorem State.trimOverflow_shows {s : State} (h : s.rtc.trimSize ≠ 0) (ha : s.rtc.trimAcc < 2 ^ 23) (hp : s.rtc.phase < 250000000) :
    Completes .trimOverflow s fun t => t.rtc.trimAcc < 2 ^ 23 ∧ t.rtc.raw = s.rtc.raw + s.rtc.toOverflow ∧
    t.rtc.cellSec * 32768 + t.rtc.cellTick + (if s.rtc.trimPositive then 0 else 1) =
      s.rtc.cellSec * 32768 + s.rtc.cellTick + s.rtc.toOverflow + (if s.rtc.trimPositive then 1 else 0) := by
  obtain ⟨_, _, _, hr⟩ := (s.elapse_elapsed ((s.rtc.toOverflow * 250000000 - s.rtc.phase + 32767) / 32768)).rtc
  rw [State.crystal, cycles_of_ticks hp (RtcState.overflow_bounds h ha).2.2] at hr
  exact ⟨_, exec_trimOverflow h, RtcState.overflowed h ha hr⟩

end Sys2Proof.Machine
end
section
/-! Trim measurements (04), and the obligation about commits, trim and measurements (R221 to R228). -/
namespace Sys2Proof.Machine

/-- The calendar replaced after registers were written, or before. -/
theorem RegsWritten.withRtc {rs : List Nat} {s t : State} (h : RegsWritten rs s t) (r : RtcState) : RegsWritten rs (s.withRtc r) (t.withRtc r) :=
  ⟨congrArg (·.withRtc r) h.only, h.reg⟩

theorem RegsWritten.mono {rs qs : List Nat} {s t : State} (h : RegsWritten qs s t) (hq : qs ⊆ rs) : RegsWritten rs s t :=
  ⟨h.only, fun q hn => h.reg q fun hm => hn (hq hm)⟩

theorem RegsWritten.trans {rs : List Nat} {s t u : State} (h : RegsWritten rs s t) (k : RegsWritten rs t u) : RegsWritten rs s u where
  only := by rw [k.only, h.only]
  reg q hq := (k.reg q hq).trans (h.reg q hq)

theorem RegsWritten.num {rs : List Nat} {s t : State} (h : RegsWritten rs s t) {q : Nat} (hq : q ∉ rs) : t.num q = s.num q := by
  rw [State.num, h.reg q hq, State.num]

theorem RegsWritten.fld {rs : List Nat} {s t : State} (h : RegsWritten rs s t) {q : Nat} (hq : q ∉ rs) (hi lo : Nat) : t.fld q hi lo = s.fld q hi lo := by
  rw [State.fld, h.reg q hq, State.fld]

section
variable (s : State) (r : RtcState) (q : Nat)

theorem State.withRtc_flag (b : Nat) : (s.withRtc r).flag q b = s.flag q b := rfl
theorem State.withRtc_num : (s.withRtc r).num q = s.num q := rfl
theorem State.withRtc_fld (hi lo : Nat) : (s.withRtc r).fld q hi lo = s.fld q hi lo := rfl

end

theorem State.replyOk_fld (s : State) (q hi lo : Nat) : s.replyOk.fld q hi lo = s.fld q hi lo := by rw [State.fld, State.replyOk_reg, State.fld]

/-! ### A measurement begins or is aborted (R226, R228) -/

/-- HOURS of a word masked as RTC.MEAS_CTRL is. -/
theorem field_hours (v : Word) : field (v &&& 0xFFFF00F6#32) 31 16 = field v 31 16 := by
  simp only [field, BitVec.toNat_and, Nat.and_div_two_pow]
  have h := v.isLt
  rw [show (0xFFFF00F6#32 : Word).toNat / 2 ^ 16 = 2 ^ 16 - 1 by decide, Nat.and_two_pow_sub_one_eq_mod, Nat.mod_mod]

/-- RTC.MEAS_CTRL after a write: START shows whether a measurement runs. -/
def State.measTaken (s : State) (v : Word) : State :=
  (s.setReg Reg.rtcMeasCtrl (v &&& 0xFFFF00F6#32)).setFlag Reg.rtcMeasCtrl 0 (s.flag Reg.rtcStatus Rtc.measBusy)

/-- A measurement runs from here. -/
def State.measStarts (s : State) (start : Nat) : State :=
  (((s.withRtc { s.rtc with measRaw := s.rtc.raw, measFrom := start }).setFlag Reg.rtcStatus Rtc.measBusy true).setFlag Reg.rtcStatus Rtc.measAbort
    false).setFlag Reg.rtcMeasCtrl 0 true

section
variable (s : State) (v : Word)

theorem State.measTaken_written : RegsWritten [Reg.rtcMeasCtrl] s (s.measTaken v) :=
  ((RegsWritten.refl s).setReg (by simp) _).setFlag (by simp) _ _

theorem State.measTaken_hours : (s.measTaken v).fld Reg.rtcMeasCtrl 31 16 = field v 31 16 := by
  rw [State.measTaken, State.fld_setFlag_ne _ _ _ _ _ _ (by decide) (by decide), State.fld, State.reg_setReg, if_pos rfl, field_hours]

theorem State.measTaken_start : (s.measTaken v).flag Reg.rtcMeasCtrl 0 = s.flag Reg.rtcStatus Rtc.measBusy :=
  State.flag_setFlag _ _ _ _ (by decide)

/-- What the end of a measurement without a result writes. -/
theorem State.abortMeasurement_shows : (s.abortMeasurement).bus = s.bus ∧ OnlyRegs s s.abortMeasurement [Reg.rtcStatus, Reg.rtcMeasCtrl] ∧
    Raised s s.abortMeasurement [60] ∧ s.abortMeasurement.flag Reg.rtcStatus Rtc.measBusy = false ∧
    s.abortMeasurement.flag Reg.rtcMeasCtrl 0 = false ∧ s.abortMeasurement.flag Reg.rtcStatus Rtc.measAbort = true ∧
    s.abortMeasurement.fld Reg.rtcMeasCtrl 31 16 = s.fld Reg.rtcMeasCtrl 31 16 := by
  have h1 : RegsWritten [Reg.rtcStatus, Reg.rtcMeasCtrl] s ((s.setFlag Reg.rtcStatus Rtc.measBusy false).setFlag Reg.rtcMeasCtrl 0 false) :=
    ((RegsWritten.refl s).setFlag (by simp) _ _).setFlag (by simp) _ _
  have hw := h1.setFlag (r := Reg.rtcStatus) (by simp) Rtc.measAbort true
  have hb : ((s.setFlag Reg.rtcStatus Rtc.measBusy false).setFlag Reg.rtcMeasCtrl 0 false).flag Reg.rtcStatus Rtc.measBusy = false := by
    rw [State.setFlag_eq, State.flag_setReg_ne _ _ _ (by decide), State.flag_setFlag _ _ _ _ (by decide)]
  unfold State.abortMeasurement
  refine ⟨by rw [State.raise_bus, hw.bus], hw.onlyRegs.raise 60, hw.raised (by decide) 60, ?_, ?_, ?_, ?_⟩
  · rw [State.raise_flag, State.flag_setFlag_ne _ _ _ _ _ (by decide) (by decide), hb]
  · rw [State.raise_flag, State.setFlag_eq, State.flag_setReg_ne _ _ _ (by decide), State.flag_setFlag _ _ _ _ (by decide)]
  · rw [State.raise_flag, State.flag_setFlag _ _ _ _ (by decide)]
  · rw [State.raise_fld, State.setFlag_eq, State.fld_setReg_ne _ _ _ _ (by decide), State.fld_setFlag_ne _ _ _ _ _ _ (by decide) (by decide),
      State.setFlag_eq, State.fld_setReg_ne _ _ _ _ (by decide)]

theorem State.measStarts_shows (start : Nat) : RegsWritten [Reg.rtcStatus, Reg.rtcMeasCtrl]
      (s.withRtc { s.rtc with measRaw := s.rtc.raw, measFrom := start }) (s.measStarts start) ∧
    (s.measStarts start).flag Reg.rtcStatus Rtc.measBusy = true ∧ (s.measStarts start).flag Reg.rtcStatus Rtc.measAbort = false ∧
    (s.measStarts start).flag Reg.rtcMeasCtrl 0 = true ∧ (s.measStarts start).fld Reg.rtcMeasCtrl 31 16 = s.fld Reg.rtcMeasCtrl 31 16 := by
  unfold State.measStarts
  generalize hr : ({ s.rtc with measRaw := s.rtc.raw, measFrom := start } : RtcState) = r
  have hfld : (s.withRtc r).fld Reg.rtcMeasCtrl 31 16 = s.fld Reg.rtcMeasCtrl 31 16 := rfl
  rw [← hfld]
  generalize s.withRtc r = w
  refine ⟨(((RegsWritten.refl w).setFlag (by simp) _ _).setFlag (by simp) _ _).setFlag (by simp) _ _, ?_, ?_, ?_, ?_⟩
  · rw [State.setFlag_eq _ Reg.rtcMeasCtrl, State.flag_setReg_ne _ _ _ (by decide), State.flag_setFlag_ne _ _ _ _ _ (by decide) (by decide),
      State.flag_setFlag _ _ _ _ (by decide)]
  · rw [State.setFlag_eq _ Reg.rtcMeasCtrl, State.flag_setReg_ne _ _ _ (by decide), State.flag_setFlag _ _ _ _ (by decide)]
  · rw [State.flag_setFlag _ _ _ _ (by decide)]
  · rw [State.fld_setFlag_ne _ _ _ _ _ _ (by decide) (by decide), State.setFlag_eq, State.fld_setReg_ne _ _ _ _ (by decide), State.setFlag_eq,
      State.fld_setReg_ne _ _ _ _ (by decide)]

end

/-- HOURS below its minimum. -/
def fewHours (v : Word) : Bool := decide (field v 31 16 < (if bit v.toNat 1 then 24 else 1))

/-- Where a measurement's reference interval begins. -/
def State.measOrigin (s : State) (v : Word) : Nat :=
  if bit v.toNat 1 then ((s.measTaken v).spin (s.measTaken v).measSpindle).travel else (s.measTaken v).chip.ran

section
variable {o s : State} {w : Who} {v : Word} (h : o.admits w Reg.rtcMeasCtrl v s)
include h

theorem exec_measStart_takes (hb : ¬ (s.flag Reg.rtcStatus Rtc.measBusy = false ∧ bit v.toNat 0 = true)) :
    exec (.measStart w v) o = .next (s.measTaken v).replyOk := by
  refine (congrArg Host.Outcome.next (State.gated_ok o w Reg.rtcMeasCtrl v _ s h)).trans ?_
  unfold State.measTaken
  dsimp only
  split
  next => rfl
  next hbusy =>
    have hstart : bit v.toNat 0 = false := by simp_all
    rw [if_pos (by rw [hstart]; rfl)]

theorem exec_measStart_starts (hb : s.flag Reg.rtcStatus Rtc.measBusy = false) (hs : bit v.toNat 0 = true) : exec (.measStart w v) o =
    .next (if fewHours v then (s.measTaken v).abortMeasurement else (s.measTaken v).measStarts (s.measOrigin v)).replyOk := by
  refine (congrArg Host.Outcome.next (State.gated_ok o w Reg.rtcMeasCtrl v _ s h)).trans ?_
  unfold State.measOrigin State.measTaken State.measStarts fewHours
  dsimp only
  rw [if_neg (by simp [hb]), if_neg (by simp [hs])]
  simp only [decide_eq_true_eq]
  rfl

end

/-! ### A measurement ends (R227) -/

theorem State.num_setNum_mod (s : State) (r v : Nat) : (s.setNum r v).num r = v % 2 ^ 32 := by
  rw [State.num, State.setNum, State.reg_setReg, if_pos rfl, BitVec.toNat_ofNat]

theorem unsigned_lt (k : Nat) (i : Int) : unsigned k i < 2 ^ k := by
  have hp : 0 < ((2 ^ k : Nat) : Int) := by positivity
  have hlo := Int.emod_nonneg i hp.ne'
  have hhi := Int.emod_lt_of_pos i hp
  unfold unsigned
  omega

/-- The result word: VALID, whether the trim was clamped, and the trim. -/
def measWord (clamped : Bool) (trim : Int) : Nat := 2 ^ 31 + ofBool clamped * 2 ^ 30 + unsigned 11 trim

theorem State.measWord_shows (s : State) (r : Nat) (clamped : Bool) (trim : Int) :
    (s.setNum r (measWord clamped trim)).flag r 31 = true ∧ (s.setNum r (measWord clamped trim)).fld r 10 0 = unsigned 11 trim := by
  have hlt := unsigned_lt 11 trim
  have hone : ofBool clamped ≤ 1 := by cases clamped <;> decide
  have hreg : ((s.setNum r (measWord clamped trim)).reg r).toNat = measWord clamped trim % 2 ^ 32 := s.num_setNum_mod r _
  rw [State.flag, State.fld, bit, field, hreg, measWord, beq_iff_eq]
  omega

/-- The cycles counted and the result are shown, and the measurement is over. -/
def State.measShown (s : State) (cycles word : Nat) : State :=
  ((((s.setNum Reg.rtcMeasCycLo cycles).setNum Reg.rtcMeasCycHi (cycles / 2 ^ 32)).setNum Reg.rtcMeasResult word).setFlag Reg.rtcStatus
    Rtc.measBusy false).setFlag Reg.rtcMeasCtrl 0 false

/-- With APPLY the trim is taken. -/
def State.measApplied (s : State) (trim : Nat) : State :=
  if s.flag Reg.rtcMeasCtrl 7 then (s.setFld Reg.rtcTrim 10 0 trim).withRtc { s.rtc with trim := trim } else s

section
variable (s : State)

/-- The registers that the end of a measurement writes. -/
def measRegs : List Nat := [Reg.rtcMeasCycLo, Reg.rtcMeasCycHi, Reg.rtcMeasResult, Reg.rtcStatus, Reg.rtcMeasCtrl]

theorem State.measShown_written (cycles word : Nat) : RegsWritten measRegs s (s.measShown cycles word) :=
  (((((RegsWritten.refl s).setNum (by decide) _).setNum (by decide) _).setNum (by decide) _).setFlag (by decide) _ _).setFlag (by decide) _ _

theorem State.measShown_counts (cycles word : Nat) : (s.measShown cycles word).num Reg.rtcMeasCycLo = cycles % 2 ^ 32 ∧
    (s.measShown cycles word).num Reg.rtcMeasCycHi = cycles / 2 ^ 32 % 2 ^ 32 := by
  have hafter (u : State) : RegsWritten [Reg.rtcMeasResult, Reg.rtcStatus, Reg.rtcMeasCtrl] u
      (((u.setNum Reg.rtcMeasResult word).setFlag Reg.rtcStatus Rtc.measBusy false).setFlag Reg.rtcMeasCtrl 0 false) :=
    (((RegsWritten.refl u).setNum (by decide) _).setFlag (by decide) _ _).setFlag (by decide) _ _
  constructor
  · rw [State.measShown, (hafter _).num (by decide), State.setNum_eq _ Reg.rtcMeasCycHi, State.num_setReg_ne _ _ (by decide), State.num_setNum_mod]
  · rw [State.measShown, (hafter _).num (by decide), State.num_setNum_mod]

theorem State.measShown_result (cycles : Nat) (clamped : Bool) (trim : Int) : (s.measShown cycles (measWord clamped trim)).flag Reg.rtcMeasResult 31 = true ∧
    (s.measShown cycles (measWord clamped trim)).fld Reg.rtcMeasResult 10 0 = unsigned 11 trim := by
  have hafter (u : State) : RegsWritten [Reg.rtcStatus, Reg.rtcMeasCtrl] u ((u.setFlag Reg.rtcStatus Rtc.measBusy false).setFlag Reg.rtcMeasCtrl 0 false) :=
    ((RegsWritten.refl u).setFlag (by decide) _ _).setFlag (by decide) _ _
  rw [State.measShown, (hafter _).flag (by decide), (hafter _).fld (by decide)]
  exact State.measWord_shows _ _ _ _

theorem State.measShown_flags (cycles word : Nat) : (s.measShown cycles word).flag Reg.rtcStatus Rtc.measBusy = false ∧
    (s.measShown cycles word).flag Reg.rtcMeasCtrl 0 = false ∧ (s.measShown cycles word).flag Reg.rtcMeasCtrl 7 = s.flag Reg.rtcMeasCtrl 7 := by
  have hbefore : RegsWritten [Reg.rtcMeasCycLo, Reg.rtcMeasCycHi, Reg.rtcMeasResult, Reg.rtcStatus] s
      ((((s.setNum Reg.rtcMeasCycLo cycles).setNum Reg.rtcMeasCycHi (cycles / 2 ^ 32)).setNum Reg.rtcMeasResult word).setFlag Reg.rtcStatus
        Rtc.measBusy false) :=
    ((((RegsWritten.refl s).setNum (by decide) _).setNum (by decide) _).setNum (by decide) _).setFlag (by decide) _ _
  refine ⟨?_, ?_, ?_⟩
  · rw [State.measShown, State.setFlag_eq _ Reg.rtcMeasCtrl, State.flag_setReg_ne _ _ _ (by decide), State.flag_setFlag _ _ _ _ (by decide)]
  · rw [State.measShown, State.flag_setFlag _ _ _ _ (by decide)]
  · rw [State.measShown, State.flag_setFlag_ne _ _ _ _ _ (by decide) (by decide), hbefore.flag (by decide)]

/-- What stands when the trim is taken, or not. -/
theorem State.measApplied_written (trim : Nat) : RegsWritten [Reg.rtcTrim] (s.withRtc (s.measApplied trim).rtc) (s.measApplied trim) := by
  unfold State.measApplied
  split
  · exact ((RegsWritten.refl s).setFld (by simp) _ _ _).withRtc _
  · exact .refl s

theorem State.measApplied_on (trim : Nat) (h : s.flag Reg.rtcMeasCtrl 7 = true) : (s.measApplied trim).rtc = { s.rtc with trim := trim } ∧
    (s.measApplied trim).fld Reg.rtcTrim 10 0 = trim % 2 ^ 11 := by
  rw [State.measApplied, if_pos h]
  exact ⟨rfl, State.fld_setFld s _ _ _ _ (by decide) (by decide)⟩

theorem State.measApplied_off (trim : Nat) (h : s.flag Reg.rtcMeasCtrl 7 = false) : s.measApplied trim = s := by
  rw [State.measApplied, if_neg (by simp [h])]

end

/-- The result of a measurement: the trim that the cycles counted over `t` seconds give. -/
def measRaw (cycles t : Nat) : Int := roundDiv (-((cycles : Int) - 32768 * t) * 256) t

/-- The cycles a measurement counted, and the trim they give within its range. -/
def State.measCycles (s : State) : Nat := s.rtc.raw - s.rtc.measRaw
def State.measTrim (s : State) : Int := clampInt (-1024) 1023 (measRaw s.measCycles (s.fld Reg.rtcMeasCtrl 31 16 * 3600))

/-- The measurement of a count of cycles ends. -/
def State.measEnds (s : State) : State :=
  ((s.measShown s.measCycles (measWord (decide (measRaw s.measCycles (s.fld Reg.rtcMeasCtrl 31 16 * 3600) ≠ s.measTrim)) s.measTrim)).measApplied
    (unsigned 11 s.measTrim)).raise 59

theorem exec_measDone {s : State} {k : Nat} (hb : s.flag Reg.rtcStatus Rtc.measBusy = true) (hl : s.measLost = false) (hk : s.measTicks = some k) :
    exec .measDone s = .next (s.elapse k).measEnds := by
  show execMeasDone s = _
  unfold execMeasDone
  rw [if_neg (by simp [hb]), if_neg (by simp [hl]), hk]
  rfl

/-- What the end of a measurement leaves, shows and takes. -/
theorem State.measEnds_shows (u : State) : u.measEnds.bus = u.bus ∧ Raised u u.measEnds [59] ∧
    OnlyRegs { u with rtc := u.measEnds.rtc } u.measEnds (measRegs ++ [Reg.rtcTrim]) ∧
    u.measEnds.flag Reg.rtcStatus Rtc.measBusy = false ∧ u.measEnds.flag Reg.rtcMeasCtrl 0 = false ∧ u.measEnds.flag Reg.rtcMeasResult 31 = true ∧
    u.measEnds.num Reg.rtcMeasCycLo = u.measCycles % 2 ^ 32 ∧ u.measEnds.num Reg.rtcMeasCycHi = u.measCycles / 2 ^ 32 % 2 ^ 32 ∧
    u.measEnds.fld Reg.rtcMeasResult 10 0 = unsigned 11 u.measTrim ∧
    (u.flag Reg.rtcMeasCtrl 7 = true → u.measEnds.rtc.trim = unsigned 11 u.measTrim ∧ u.measEnds.fld Reg.rtcTrim 10 0 = unsigned 11 u.measTrim) ∧
    (u.flag Reg.rtcMeasCtrl 7 = false → u.measEnds.rtc = u.rtc ∧ u.measEnds.reg Reg.rtcTrim = u.reg Reg.rtcTrim) := by
  unfold State.measEnds
  generalize decide (measRaw u.measCycles (u.fld Reg.rtcMeasCtrl 31 16 * 3600) ≠ u.measTrim) = clamped
  have hlt : unsigned 11 u.measTrim % 2 ^ 11 = unsigned 11 u.measTrim := Nat.mod_eq_of_lt (unsigned_lt 11 _)
  have hw := u.measShown_written u.measCycles (measWord clamped u.measTrim)
  obtain ⟨hlo, hhi⟩ := u.measShown_counts u.measCycles (measWord clamped u.measTrim)
  obtain ⟨hvalid, hresult⟩ := u.measShown_result u.measCycles clamped u.measTrim
  obtain ⟨hbusy, hstart, hauto⟩ := u.measShown_flags u.measCycles (measWord clamped u.measTrim)
  generalize u.measShown u.measCycles (measWord clamped u.measTrim) = v at *
  generalize unsigned 11 u.measTrim = x at *
  have ha := v.measApplied_written x
  have hon := v.measApplied_on x
  have hoff := v.measApplied_off x
  rw [hauto] at hon hoff
  generalize v.measApplied x = a at *
  have hall : RegsWritten (measRegs ++ [Reg.rtcTrim]) (u.withRtc a.rtc) a :=
    ((hw.withRtc _).mono (List.subset_append_left _ _)).trans (ha.mono (List.subset_append_right _ _))
  obtain ⟨hbus, hrtc, honly, hraised⟩ := hall.rtcRaise (by decide) 59
  refine ⟨hbus, hraised, honly, ?_, ?_, ?_, ?_, ?_, ?_, fun h => ?_, fun h => ?_⟩
  · rw [State.raise_flag, ha.flag (by decide), State.withRtc_flag, hbusy]
  · rw [State.raise_flag, ha.flag (by decide), State.withRtc_flag, hstart]
  · rw [State.raise_flag, ha.flag (by decide), State.withRtc_flag, hvalid]
  · rw [State.raise_num, ha.num (by decide), State.withRtc_num, hlo]
  · rw [State.raise_num, ha.num (by decide), State.withRtc_num, hhi]
  · rw [State.raise_fld, ha.fld (by decide), State.withRtc_fld, hresult]
  · obtain ⟨hr, hf⟩ := hon h
    exact ⟨by rw [hrtc, hr], by rw [State.raise_fld, hf, hlt]⟩
  · rw [hrtc, State.raise_reg, hoff h, hw.rtc, hw.reg _ (by decide)]
    exact ⟨rfl, rfl⟩

theorem exec_measLost {s : State} (hb : s.flag Reg.rtcStatus Rtc.measBusy = true) (hl : s.measLost = true) :
    ∀ c ∈ [Instr.measAbort, .measDone], exec c s = .next s.abortMeasurement := by
  intro c hc
  rcases List.mem_pair.1 hc with rfl | rfl
  · show execMeasAbort s = _
    unfold execMeasAbort
    rw [if_pos (by simp [hb, hl])]
  · show execMeasDone s = _
    unfold execMeasDone
    rw [if_neg (by simp [hb]), if_pos hl]

theorem exec_measAbort_idle {s : State} (h : (s.flag Reg.rtcStatus Rtc.measBusy && s.measLost) = false) : Idles .measAbort s := by
  show execMeasAbort s = _
  unfold execMeasAbort
  rw [if_neg (by simp [h])]

theorem exec_measDone_idle {s : State} (h : s.flag Reg.rtcStatus Rtc.measBusy = false) : Idles .measDone s := by
  show execMeasDone s = _
  unfold execMeasDone
  rw [if_pos (by simp [h])]

theorem exec_measDone_never {s : State} (hl : s.measLost = false) (hk : s.measTicks = none) : Idles .measDone s := by
  show execMeasDone s = _
  unfold execMeasDone
  split
  next => rfl
  next =>
    rw [if_neg (by simp [hl]), hk]

section
variable {o s : State} {w : Who} {v : Word}

/-- A measurement that HOURS aborts at once. -/
theorem State.measTaken_aborts : OnlyRegs s (s.measTaken v).abortMeasurement [Reg.rtcMeasCtrl, Reg.rtcStatus] ∧
    Raised s (s.measTaken v).abortMeasurement [60] ∧ (s.measTaken v).abortMeasurement.fld Reg.rtcMeasCtrl 31 16 = field v 31 16 := by
  have hw := s.measTaken_written v
  have hh := s.measTaken_hours v
  obtain ⟨-, honly, hraised, -, -, -, hfld⟩ := (s.measTaken v).abortMeasurement_shows
  generalize s.measTaken v = u at *
  refine ⟨(hw.onlyRegs.mono (by simp)).trans (honly.mono (by simp)), ?_, by rw [hfld, hh]⟩
  exact hraised.trans (State.raiseAll_plic_congr hw.variant (hw.mode (by decide)) hw.plic [60])

/-- A measurement that begins. -/
theorem State.measTaken_starts (start : Nat) :
    OnlyRegs { s with rtc := ((s.measTaken v).measStarts start).rtc } ((s.measTaken v).measStarts start) [Reg.rtcMeasCtrl, Reg.rtcStatus] ∧
    Raised s ((s.measTaken v).measStarts start) [] ∧ ((s.measTaken v).measStarts start).fld Reg.rtcMeasCtrl 31 16 = field v 31 16 ∧
    ((s.measTaken v).measStarts start).rtc = { s.rtc with measRaw := s.rtc.raw, measFrom := start } := by
  have hw := s.measTaken_written v
  have hh := s.measTaken_hours v
  obtain ⟨hst, -, -, -, hfld⟩ := (s.measTaken v).measStarts_shows start
  rw [hw.rtc] at hst
  generalize (s.measTaken v).measStarts start = t at *
  generalize s.measTaken v = u at *
  have hall := ((hw.withRtc { s.rtc with measRaw := s.rtc.raw, measFrom := start }).mono (rs := [Reg.rtcMeasCtrl, Reg.rtcStatus]) (by simp)).trans
    (hst.mono (by simp))
  refine ⟨?_, Raised.withRtc (.nil hall.plic), by rw [hfld, hh], hall.rtc⟩
  rw [hall.rtc]
  exact hall.onlyRegs

/-- What a write that asks for a measurement leaves: `few` if HOURS are too few. -/
structure MeasAsked (few : Bool) (v : Word) (s t : State) : Prop where
  only : OnlyRegs { s with rtc := t.rtc } t [Reg.rtcMeasCtrl, Reg.rtcStatus]
  raised : Raised s t (if few then [60] else [])
  busy : t.flag Reg.rtcStatus Rtc.measBusy = !few
  aborted : t.flag Reg.rtcStatus Rtc.measAbort = few
  start : t.flag Reg.rtcMeasCtrl 0 = !few
  hours : t.fld Reg.rtcMeasCtrl 31 16 = field v 31 16
  rtc : t.rtc = (if few then s.rtc else { s.rtc with measRaw := s.rtc.raw, measFrom := t.rtc.measFrom })

theorem MeasAsked.replyOk {few : Bool} {s t : State} (h : MeasAsked few v s t) : MeasAsked few v s t.replyOk where
  only := h.only.replyOk
  raised := h.raised.replyOk
  busy := by rw [State.replyOk_flag, h.busy]
  aborted := by rw [State.replyOk_flag, h.aborted]
  start := by rw [State.replyOk_flag, h.start]
  hours := by rw [State.replyOk_fld, h.hours]
  rtc := h.rtc

theorem State.measTaken_asked : MeasAsked (fewHours v) v s
    (if fewHours v then (s.measTaken v).abortMeasurement else (s.measTaken v).measStarts (s.measOrigin v)) := by
  cases fewHours v with
  | true =>
    rw [if_pos rfl]
    obtain ⟨honly, hraised, hfld⟩ := State.measTaken_aborts (s := s) (v := v)
    obtain ⟨-, -, -, hbusy, hstart, habort, -⟩ := (s.measTaken v).abortMeasurement_shows
    have hrtc : (s.measTaken v).abortMeasurement.rtc = s.rtc := by rw [honly.1]
    exact ⟨by rw [hrtc]; exact honly, hraised, hbusy, habort, hstart, hfld, hrtc⟩
  | false =>
    rw [if_neg (by decide)]
    obtain ⟨honly, hraised, hfld, hrtc⟩ := State.measTaken_starts (s := s) (v := v) (s.measOrigin v)
    obtain ⟨-, hbusy, habort, hstart, -⟩ := (s.measTaken v).measStarts_shows (s.measOrigin v)
    exact ⟨honly, hraised, hbusy, habort, hstart, hfld, by rw [hrtc]; rfl⟩

/-- A write of RTC.MEAS_CTRL that begins a measurement, or aborts it with HOURS too few. -/
theorem State.measStart_shows (h : o.admits w Reg.rtcMeasCtrl v s) (hb : s.flag Reg.rtcStatus Rtc.measBusy = false) (hs : bit v.toNat 0 = true) :
    Completes (.measStart w v) o fun t => Acked t ∧ MeasAsked (fewHours v) v s t :=
  ⟨_, exec_measStart_starts h hb hs, .replyOk _, State.measTaken_asked.replyOk⟩

/-- Any other write of RTC.MEAS_CTRL. -/
theorem State.measStart_takes (h : o.admits w Reg.rtcMeasCtrl v s) (hb : ¬ (s.flag Reg.rtcStatus Rtc.measBusy = false ∧ bit v.toNat 0 = true)) :
    Writes (.measStart w v) o s [Reg.rtcMeasCtrl] [] fun t => t.fld Reg.rtcMeasCtrl 31 16 = field v 31 16 ∧
      t.flag Reg.rtcMeasCtrl 0 = s.flag Reg.rtcStatus Rtc.measBusy :=
  ⟨_, exec_measStart_takes h hb, .replyOk _, (s.measTaken_written v).onlyRegs.replyOk, .nil (s.measTaken_written v).plic,
    by rw [State.replyOk_fld, s.measTaken_hours v], by rw [State.replyOk_flag, s.measTaken_start v]⟩

/-! ### A write of RTC.COMMIT (R221, R224) -/

theorem State.commit_denied (h : o.admits w Reg.rtcCommit v s) (hb : s.flag Reg.rtcStatus Rtc.busy = true) :
    Completes (.commit w v) o fun t => t.bus = { code := Code.denied, data := [] } ∧ OnlyRegsFlt s t [] :=
  ⟨_, congrArg Host.Outcome.next (State.gatedOr_error h (if_pos hb)), State.busError_frame _ _ _ _ _⟩

theorem State.commit_keyed (h : o.admits w Reg.rtcCommit v s) (hb : s.flag Reg.rtcStatus Rtc.busy = false) (hk : field v 31 16 = 0x5254)
    (hg : bit v.toNat 0 = true) : Completes (.commit w v) o fun t => Acked t ∧
      OnlyRegs { s with rtc := { s.rtc with form := bit v.toNat 1 } } t [Reg.rtcStatus] ∧ t.flag Reg.rtcStatus Rtc.busy = true ∧ Raised s t [] := by
  have hw : RegsWritten [Reg.rtcStatus] (s.withRtc { s.rtc with form := bit v.toNat 1 })
      ((s.withRtc { s.rtc with form := bit v.toNat 1 }).setFlag Reg.rtcStatus Rtc.busy true) := (RegsWritten.refl _).setFlag (by simp) _ _
  have hf := State.flag_setFlag (s.withRtc { s.rtc with form := bit v.toNat 1 }) Reg.rtcStatus Rtc.busy true (by decide)
  generalize ht : (s.withRtc { s.rtc with form := bit v.toNat 1 }).setFlag Reg.rtcStatus Rtc.busy true = t at *
  have he : exec (.commit w v) o = .next t.replyOk := by
    refine congrArg Host.Outcome.next (State.gatedOr_ok o w Reg.rtcCommit v _ s t h ?_)
    rw [if_neg (by simp [hb]), if_pos ⟨hk, hg⟩, ← ht]
    rfl
  exact ⟨_, he, .replyOk t, hw.onlyRegs.replyOk, by rw [State.replyOk_flag, hf], (Raised.withRtc (.nil hw.plic)).replyOk⟩

theorem State.commit_keyless (h : o.admits w Reg.rtcCommit v s) (hb : s.flag Reg.rtcStatus Rtc.busy = false)
    (hk : field v 31 16 ≠ 0x5254 ∨ bit v.toNat 0 = false) : Writes (.commit w v) o s [] [] fun _ => True := by
  have hno : ¬ (field v 31 16 = 0x5254 ∧ bit v.toNat 0 = true) := fun ⟨hkey, hgo⟩ => by simp [hkey, hgo] at hk
  refine ⟨_, congrArg Host.Outcome.next (State.gatedOr_ok o w Reg.rtcCommit v _ s s h ?_), .replyOk s, (OnlyRegs.refl s _).replyOk, .nil rfl, trivial⟩
  rw [if_neg (by simp [hb]), if_neg hno]

end

/-- Settles O25: what is staged is read after the time to the cell's boundary; the accumulator overflows once; a measurement's registers are
written after the time its reference takes. -/
theorem calendarCommitsTrimsAndMeasures : Obligations.CalendarCommitsTrimsAndMeasures := by
  unfold Obligations.CalendarCommitsTrimsAndMeasures
  refine ⟨fun s => ⟨fun o w v h => ⟨State.commit_denied h, State.commit_keyed h, State.commit_keyless h⟩, fun hb => ?_, exec_commitLoad_idle s⟩,
    fun s => ⟨exec_trimOverflow_idle, State.trimOverflow_shows, fun o w v h => ?_, fun hb hl => ?_, fun c hc hb hl => ?_, fun hb => ?_, fun hl => ?_⟩⟩
  · have he := exec_commitLoad s hb
    have hbus := s.cellElapse_bus (128 - s.rtc.cellTick % 128)
    have htick : (s.cellElapse (128 - s.rtc.cellTick % 128)).fld Reg.rtcSetTime 31 24 = s.fld Reg.rtcSetTime 31 24 := by
      rw [State.fld, State.cellElapse_reg _ _ (by decide) (by decide), State.fld]
    dsimp only
    generalize s.cellElapse (128 - s.rtc.cellTick % 128) = u at *
    refine ⟨_, he, ?_⟩
    cases s.stagedSec with
    | none =>
      obtain ⟨hbusy, hb', honly, hrtc, herr, hraised⟩ := u.commitFails_shows
      exact ⟨hbusy, hb'.trans hbus, honly, hrtc, herr, hraised⟩
    | some n =>
      obtain ⟨hbusy, hb', honly, hrtc, herr, hvalid, hraised⟩ := u.commitLoads_shows n
      rw [htick] at hrtc
      refine ⟨hbusy, hb'.trans hbus, honly, ?_⟩
      dsimp only
      rw [hrtc]
      exact ⟨rfl, rfl, rfl, rfl, rfl, herr, hvalid, hraised⟩
  · intro few
    split
    next hb =>
      obtain ⟨t, he, hack, honly, hraised, hbusy, habort, hstart, hhours, hrtc⟩ := State.measStart_shows h hb.1 hb.2
      exact ⟨t, he, hack, honly, hraised, hbusy, habort, hstart, hhours, hrtc⟩
    next hb => exact State.measStart_takes h hb
  · cases hk : s.measTicks with
    | none => exact exec_measDone_never hl hk
    | some k =>
      have he := exec_measDone hb hl hk
      have hbus := s.elapse_bus k
      have hhours : (s.elapse k).fld Reg.rtcMeasCtrl 31 16 = s.fld Reg.rtcMeasCtrl 31 16 := s.elapse_fld k (by decide) (by decide) _ _
      have hauto : (s.elapse k).flag Reg.rtcMeasCtrl 7 = s.flag Reg.rtcMeasCtrl 7 := s.elapse_flag k (by decide) (by decide) _
      dsimp only
      generalize s.elapse k = u at *
      have hs := u.measEnds_shows
      rw [State.measTrim, State.measCycles, hhours, hauto] at hs
      obtain ⟨hb', hraised, honly, hbusy, hstart, hvalid, hlo, hhi, hres, hon, hoff⟩ := hs
      refine ⟨_, he, hb'.trans hbus, hraised, honly, hbusy, hstart, hvalid, hlo, hhi, hres, fun h => ?_, hoff⟩
      obtain ⟨htrim, hfld⟩ := hon h
      exact ⟨htrim.trans hres.symm, hfld.trans hres.symm⟩
  · obtain ⟨hbus, honly, hraised, hbusy, hstart, habort, -⟩ := s.abortMeasurement_shows
    exact ⟨_, exec_measLost hb hl c hc, hbus, honly, hraised, hbusy, hstart, habort⟩
  · exact ⟨exec_measAbort_idle (by simp [hb]), exec_measDone_idle hb⟩
  · exact exec_measAbort_idle (by simp [hl])

end Sys2Proof.Machine
end
section
/-! A step of device time (R193), a new master (R203), the second boundary and the servo's lock (04). -/
namespace Sys2Proof.Machine

/-! ### What a step leaves of TIM -/

/-- From `z` to `t` device time, TIM's own state and every register below the spindles' stand, and no pending source falls. -/
structure TimStands (z t : State) : Prop where
  time : t.time = z.time
  tim : t.tim = z.tim
  reg : ∀ q, q < 0xA0000 → t.reg q = z.reg q
  rises : ∀ n, z.pendingSource n = true → t.pendingSource n = true

namespace TimStands
variable {z s t : State} {r : Nat}

theorem refl (s : State) : TimStands s s := ⟨rfl, rfl, fun _ _ => rfl, fun _ h => h⟩

theorem trans (h : TimStands z s) (k : TimStands s t) : TimStands z t :=
  ⟨k.time.trans h.time, k.tim.trans h.tim, fun q hq => (k.reg q hq).trans (h.reg q hq), fun n hn => k.rises n (h.rises n hn)⟩

theorem ite {c : Prop} [Decidable c] {a b : State} (h : TimStands z a) (k : TimStands z b) : TimStands z (if c then a else b) := by
  split <;> assumption

theorem foldl {α : Type} {l : List α} {f : State → α → State} (h : TimStands z s)
    (hf : ∀ u x, x ∈ l → TimStands z u → TimStands z (f u x)) : TimStands z (l.foldl f s) :=
  List.foldlRecOn l f h fun u hu x hx => hf u x hx hu

theorem setReg (h : TimStands z s) (hr : 0xA0000 ≤ r) (v : Word) : TimStands z (s.setReg r v) :=
  h.trans ⟨rfl, rfl, fun q hq => State.reg_setReg_ne s r q v (by omega), fun _ hn => hn⟩

theorem setNum (h : TimStands z s) (hr : 0xA0000 ≤ r) (v : Nat) : TimStands z (s.setNum r v) := h.setReg hr _
theorem setFld (h : TimStands z s) (hr : 0xA0000 ≤ r) (hi lo v : Nat) : TimStands z (s.setFld r hi lo v) := h.setReg hr _
theorem setFlag (h : TimStands z s) (hr : 0xA0000 ≤ r) (b : Nat) (v : Bool) : TimStands z (s.setFlag r b v) := h.setReg hr _

theorem raise (h : TimStands z s) (n : Nat) : TimStands z (s.raise n) :=
  h.trans ⟨by rw [State.raise_time], by rw [State.raise_tim], fun q _ => s.raise_reg n q, s.pendingSource_raise n⟩

theorem spinsMoved {N : Nat → Prop} (h : TimStands z s) (m : SpinsMoved N s t) : TimStands z t :=
  h.trans ⟨m.time, m.tim, fun q hq => m.reg q fun i _ => by simp only [Reg.spnState]; omega, m.rises⟩

theorem setStream (h : TimStands z s) (i : Nat) (x : FusStream) : TimStands z (s.setStream i x) := h.trans ⟨rfl, rfl, fun _ _ => rfl, fun _ hn => hn⟩
theorem setGraph (h : TimStands z s) (g : Nat) (x : FusGraph) : TimStands z (s.setGraph g x) := h.trans ⟨rfl, rfl, fun _ _ => rfl, fun _ hn => hn⟩

theorem showStream (h : TimStands z s) (i : Nat) : TimStands z (s.showStream i) := by
  have hs : 0xA0000 ≤ Reg.fusSstate i := by simp only [Reg.fusSstate]; omega
  have hd : 0xA0000 ≤ Reg.fusSdrift i := by simp only [Reg.fusSdrift]; omega
  have hr : 0xA0000 ≤ Reg.fusSresid i := by simp only [Reg.fusSresid]; omega
  have hall (a b c : Bool) (x y v w : Nat) : TimStands z (((((((s.setFlag (Reg.fusSstate i) Fus.unaligned a).setFlag (Reg.fusSstate i) Fus.healthy b).setFlag
      (Reg.fusSstate i) Fus.seasoning c).setFld (Reg.fusSstate i) 23 16 x).setFld (Reg.fusSstate i) 15 0 y).setNum (Reg.fusSdrift i) v).setNum
      (Reg.fusSresid i) w) :=
    ((((((h.setFlag hs _ _).setFlag hs _ _).setFlag hs _ _).setFld hs _ _ _).setFld hs _ _ _).setNum hd _).setNum hr _
  unfold State.showStream
  exact ite ((hall _ _ _ _ _ _ _).raise 325) (hall _ _ _ _ _ _ _)

theorem clearModel (h : TimStands z s) (i : Nat) : TimStands z (s.clearModel i) := (h.setStream i _).showStream i

theorem fusTimeStep (h : TimStands z s) : TimStands z s.fusTimeStep := by
  unfold State.fusTimeStep
  refine foldl (h.foldl fun u i _ hu => hu.clearModel i) fun u g _ hu => ?_
  exact (hu.setGraph g _).setFlag (by simp only [Reg.fusGstate]; omega) _ _

theorem withMet (h : TimStands z s) (m : MetState) : TimStands z { s with met := m } := h.trans ⟨rfl, rfl, fun _ _ => rfl, fun _ hn => hn⟩

theorem openNext (h : TimStands z s) (t0 : Nat) : TimStands z (s.openNext t0) := (h.withMet _).ite h

theorem inProgress (h : TimStands z s) (f : MetInterval → MetInterval) : TimStands z (s.inProgress f) := by
  unfold State.inProgress
  split
  · exact h.withMet _
  · exact h.withMet _

theorem metTimeStep (h : TimStands z s) (t0 : Nat) : TimStands z (s.metTimeStep t0) := h.ite ((h.openNext t0).inProgress _)

end TimStands

/-! ### The step (R193) -/

/-- Sources that every member of the family has. -/
def timSources : List Nat := [58, 64, 65, 66, 67, 68, 69]

theorem State.tim_canRise {s : State} {n : Nat} (hn : n ∈ timSources) (ha : s.awake = true) : s.canRise n = true := by
  refine State.canRise_of_awake ?_ ha
  simp only [timSources, List.mem_cons, List.not_mem_nil, or_false] at hn
  rcases hn with rfl | rfl | rfl | rfl | rfl | rfl | rfl <;> rfl

/-- From `s` to `t` device time has been stepped to `u` units. -/
structure StepMade (u : Nat) (s t : State) : Prop where
  time : t.time = .ofUnits u
  tim : t.tim = s.tim
  steps : t.num Reg.timSteps = min (2 ^ 32 - 1) (s.num Reg.timSteps + 1)
  flag : ∀ b, t.timFlag b = if b = Tim.stepRefused then false else s.timFlag b
  reg : ∀ q, q < 0xA0000 → q ≠ Reg.timSteps → q ≠ Reg.timStatus → t.reg q = s.reg q
  awake : t.awake = s.awake
  source : s.awake = true → t.pendingSource 68 = true

section
variable (s : State)

/-- The count jumps and is counted. -/
def State.jumped (u : Nat) : State := ((State.bump { s with time := .ofUnits u } Reg.timSteps 31 0 1).raise 68).setTimFlag Tim.stepRefused false

theorem State.setTimFlag_timFlag (b c : Nat) (v : Bool) (h : b < 32) : (s.setTimFlag b v).timFlag c = if c = b then v else s.timFlag c :=
  State.flag_setFlag_eq s _ _ _ _ h

theorem State.setTimFlag_reg (b : Nat) (v : Bool) {q : Nat} (h : q ≠ Reg.timStatus) : (s.setTimFlag b v).reg q = s.reg q :=
  State.reg_setReg_ne s _ q _ h

theorem State.awake_congr {t : State} (h : t.reg Reg.sysMode = s.reg Reg.sysMode) : t.awake = s.awake := by
  rw [State.awake, State.mode, State.fld, h, State.awake, State.mode, State.fld]

theorem State.jumped_made (u : Nat) : StepMade u s (s.jumped u) := by
  unfold State.jumped
  obtain ⟨z, hz⟩ : ∃ z : State, z = { s with time := .ofUnits u } := ⟨_, rfl⟩
  have htime : z.time = .ofUnits u := by rw [hz]
  have htim : z.tim = s.tim := by rw [hz]
  have hreg (q : Nat) : z.reg q = s.reg q := by rw [hz]; rfl
  rw [← hz]
  have hb (q : Nat) (hq : q ≠ Reg.timSteps) : ((z.bump Reg.timSteps 31 0 1).raise 68).reg q = s.reg q := by
    rw [State.raise_reg, ← hreg]
    exact State.reg_setReg_ne z _ q _ hq
  have haw : z.awake = s.awake := s.awake_congr (hreg _)
  refine ⟨?_, ?_, ?_, fun b => ?_, fun q _ hst hs => ?_, s.awake_congr ?_, fun ha => ?_⟩
  · exact (State.raise_time _ _).trans htime
  · exact (State.raise_tim _ _).trans htim
  · rw [State.num, State.setTimFlag_reg _ _ _ (by decide), State.raise_reg]
    refine (z.num_bump Reg.timSteps 1).trans ?_
    rw [State.num, hreg, State.num]
  · rw [State.setTimFlag_timFlag _ _ _ _ (by decide), State.timFlag, State.flag, hb _ (by decide)]
    rfl
  · rw [State.setTimFlag_reg _ _ _ hs, hb _ hst]
  · rw [State.setTimFlag_reg _ _ _ (by decide), hb _ (by decide)]
  · refine State.raise_rises _ 68 (State.tim_canRise (by decide) ?_)
    rw [← ha, ← haw]
    exact z.awake_congr (State.reg_setReg_ne z _ _ _ (by decide))

theorem StepMade.stands {u : Nat} {s t v : State} (h : StepMade u s t) (k : TimStands t v) : StepMade u s v where
  time := k.time.trans h.time
  tim := k.tim.trans h.tim
  steps := by rw [State.num, k.reg _ (by decide), ← State.num, h.steps]
  flag b := by rw [State.timFlag, State.flag, k.reg _ (by decide), ← State.flag, ← State.timFlag, h.flag]
  reg q hq hst hs := (k.reg q hq).trans (h.reg q hq hst hs)
  awake := by rw [State.awake_congr _ (k.reg _ (by decide)), h.awake]
  source ha := k.rises 68 (h.source ha)

/-- A step that stays at 0 or above is made. -/
theorem State.stepTime_made {d : Int} (h : 0 ≤ (s.time.units : Int) + d * 2 ^ 32) :
    ∃ t, s.stepTime d = (t, true) ∧ StepMade ((s.time.units : Int) + d * 2 ^ 32).toNat s t := by
  have he : s.stepTime d = (((((List.range 8).foldl State.reanchor (s.jumped ((s.time.units : Int) + d * 2 ^ 32).toNat)).fusTimeStep).metTimeStep
      s.now), true) := by
    unfold State.stepTime State.jumped
    dsimp only
    rw [if_neg (by omega)]
  refine ⟨_, he, (s.jumped_made _).stands (TimStands.metTimeStep (TimStands.fusTimeStep ?_) _)⟩
  refine (TimStands.refl _).foldl fun u n _ hu => hu.spinsMoved (N := (· = n)) ?_
  exact (SpinsMoved.refl u).reanchor (by rfl)

theorem State.stepTime_refused {d : Int} (h : (s.time.units : Int) + d * 2 ^ 32 < 0) : s.stepTime d = (s.setTimFlag Tim.stepRefused true, false) := by
  unfold State.stepTime
  dsimp only
  rw [if_pos h]

end

/-! ### A keyed step -/

/-- The write has the key of TIM.STEP_GO. -/
def stepKeyed (v : Word) : Bool := decide (field v 31 16 = 0x5354) && bit v.toNat 0

section
variable {o s : State} {w : Who} {v : Word} (h : o.admits w Reg.timStepGo v s)
include h

theorem exec_timeStep_keyless (hk : stepKeyed v = false) : exec (.timeStep w v) o = .next s.replyOk := by
  refine (congrArg Host.Outcome.next (State.gated_ok o w Reg.timStepGo v _ s h)).trans ?_
  rw [if_neg (by simpa [stepKeyed] using hk)]

theorem exec_timeStep_range (hk : stepKeyed v = true) (hn : signed 32 (s.num Reg.timStepNs) < -999999999 ∨ 999999999 < signed 32 (s.num Reg.timStepNs)) :
    exec (.timeStep w v) o = .next (s.setTimFlag Tim.stepRefused true).replyOk := by
  refine (congrArg Host.Outcome.next (State.gated_ok o w Reg.timStepGo v _ s h)).trans ?_
  rw [if_pos (by simpa [stepKeyed] using hk)]
  dsimp only
  rw [if_pos hn]

theorem exec_timeStep_keyed (hk : stepKeyed v = true) (hn : ¬ (signed 32 (s.num Reg.timStepNs) < -999999999 ∨ 999999999 < signed 32 (s.num Reg.timStepNs))) :
    exec (.timeStep w v) o = .next (s.stepTime (signed 32 (s.num Reg.timStepSec) * 1000000000 + signed 32 (s.num Reg.timStepNs))).1.replyOk := by
  refine (congrArg Host.Outcome.next (State.gated_ok o w Reg.timStepGo v _ s h)).trans ?_
  rw [if_pos (by simpa [stepKeyed] using hk)]
  dsimp only
  rw [if_neg hn]

end

/-- A refused step changes STEP_REFUSED alone. -/
theorem State.stepRefused_shows {o s : State} {w : Who} {v : Word} (he : exec (.timeStep w v) o = .next (s.setTimFlag Tim.stepRefused true).replyOk) :
    Writes (.timeStep w v) o s [Reg.timStatus] [] fun t =>
      t.flag Reg.timStatus 7 = true ∧ ∀ b, b ≠ 7 → t.flag Reg.timStatus b = s.flag Reg.timStatus b := by
  have hw : RegsWritten [Reg.timStatus] s (s.setTimFlag Tim.stepRefused true) := (RegsWritten.refl s).setFlag (by simp) _ _
  refine ⟨_, he, .replyOk _, hw.onlyRegs.replyOk, .nil hw.plic, ?_, fun b hb => ?_⟩
  · rw [State.replyOk_flag]
    exact State.flag_setFlag _ _ _ _ (by decide)
  · rw [State.replyOk_flag]
    exact State.flag_setFlag_ne _ _ _ _ _ (by decide) hb

/-! ### The second boundary (R193) -/

/-- Units of 2^-32 ns in a second, as a number. -/
theorem secondUnits_eq : secondUnits = 4294967296000000000 := by decide

theorem TimeCounter.units_eq (t : TimeCounter) : t.units = t.sec * secondUnits + t.sub := rfl
theorem TimeCounter.ofUnits_sec (u : Nat) : (TimeCounter.ofUnits u).sec = u / secondUnits % 2 ^ 64 := rfl
theorem TimeCounter.ofUnits_sub (u : Nat) : (TimeCounter.ofUnits u).sub = u % secondUnits := rfl

/-- Ticks that bring a sub-second count to the end of its second, and less than one tick past it. -/
theorem ticks_to_second {sub incr k : Nat} (hi : 0 < incr) (hk : k = (secondUnits - sub + incr - 1) / incr) :
    secondUnits ≤ sub + k * incr ∧ (sub < secondUnits → sub + k * incr < secondUnits + incr) ∧ (secondUnits ≤ sub → k = 0) := by
  have hdiv := Nat.div_add_mod' (secondUnits - sub + incr - 1) incr
  have hmod := Nat.mod_lt (secondUnits - sub + incr - 1) hi
  rw [← hk] at hdiv
  refine ⟨by omega, fun hs => by omega, fun hs => ?_⟩
  rw [hk]
  exact Nat.div_eq_of_lt (by omega)

theorem State.second_shows (s : State) (ha : s.awake = true) (hmax : s.time.sec + s.time.sub / secondUnits + 2 < 2 ^ 64) :
    Completes .second s fun t => s.time.sec < t.time.sec ∧
      (s.time.sub < secondUnits → t.time.sec = s.time.sec + 1 ∧ t.time.sub < s.incr) ∧ t.pendingSource 64 = true ∧ t.mem = s.mem := by
  obtain ⟨hilo, hihi⟩ := s.incr_bounds
  obtain ⟨k, hk⟩ : ∃ k, k = (secondUnits - s.time.sub + s.incr - 1) / s.incr := ⟨_, rfl⟩
  have he : exec .second s = .next (s.elapse k) := by rw [hk]; rfl
  obtain ⟨hreach, hnear, hpast⟩ := ticks_to_second (by omega) hk
  have htime := (s.elapse_elapsed k).time
  have hunits : s.time.units + k * s.incr = s.time.sec * secondUnits + (s.time.sub + k * s.incr) := by rw [TimeCounter.units_eq, Nat.add_assoc]
  rw [hunits] at htime
  have hsecond := s.elapse_second k
  rw [hunits] at hsecond
  rw [secondUnits_eq] at *
  refine ⟨_, he, ?_, fun hs => ?_, hsecond (by omega) (State.tim_canRise (by decide) ha), s.elapse_mem k⟩
  · rw [htime, TimeCounter.ofUnits_sec, secondUnits_eq]
    rcases Nat.lt_or_ge s.time.sub 4294967296000000000 with hs | hs
    · have := hnear hs
      omega
    · rw [hpast hs]
      omega
  · have := hnear hs
    rw [htime, TimeCounter.ofUnits_sec, TimeCounter.ofUnits_sub, secondUnits_eq]
    omega

/-! ### The servo locks (R195) -/

/-- The state with other contents of TIM. -/
def State.withTim (s : State) (x : TimState) : State := { s with tim := x }

theorem OnlyRegs.withTim {s t : State} {rs : List Nat} (h : OnlyRegs s t rs) (x : TimState) : OnlyRegs (s.withTim x) (t.withTim x) rs :=
  ⟨congrArg (·.withTim x) h.1, h.2⟩

section
variable (s : State)

theorem State.withTim_timFlag (x : TimState) (b : Nat) : (s.withTim x).timFlag b = s.timFlag b := rfl
theorem State.withTim_timState (x : TimState) : (s.withTim x).timState = s.timState := rfl
theorem State.withTim_reg (x : TimState) (q : Nat) : (s.withTim x).reg q = s.reg q := rfl

theorem State.setTimState_timState {v : Nat} (h : v < 8) : (s.setTimState v).timState = v :=
  (State.fld_setFld s _ _ _ _ (by decide) (by decide)).trans (Nat.mod_eq_of_lt h)

theorem State.setTimFlag_timState (b : Nat) (v : Bool) (hb : 2 < b ∧ b < 32) : (s.setTimFlag b v).timState = s.timState :=
  State.fld_setFlag_ne s _ _ _ _ _ hb.2 (.inl hb.1)

theorem State.raise_timFlag (n b : Nat) : (s.raise n).timFlag b = s.timFlag b := State.raise_flag s n _ b
theorem State.raise_timState (n : Nat) : (s.raise n).timState = s.timState := State.raise_fld s n _ _ _

/-- LOCKED, with no more seasoning and with INCR remembered from here. -/
def State.locks (s : State) : State :=
  (((s.setTimState TimeState.locked).setTimFlag Tim.seasoning false).raise 65).withTim
    { (((s.setTimState TimeState.locked).setTimFlag Tim.seasoning false).raise 65).tim with incrs := [] }

theorem State.locks_shows : s.locks.timState = TimeState.locked ∧ s.locks.timFlag Tim.seasoning = false ∧ s.locks.bus = s.bus ∧
    OnlyRegs { s with tim := s.locks.tim } s.locks [Reg.timStatus] ∧ Raised s s.locks [65] := by
  have hw : RegsWritten [Reg.timStatus] s ((s.setTimState TimeState.locked).setTimFlag Tim.seasoning false) :=
    ((RegsWritten.refl s).setFld (by simp) _ _ _).setFlag (by simp) _ _
  refine ⟨?_, ?_, ?_, (hw.onlyRegs.raise 65).withTim _, hw.raised (by decide) 65⟩
  · rw [State.locks, State.withTim_timState, State.raise_timState, State.setTimFlag_timState _ _ _ (by decide), State.setTimState_timState _ (by decide)]
  · rw [State.locks, State.withTim_timFlag, State.raise_timFlag, State.setTimFlag_timFlag _ _ _ _ (by decide), if_pos rfl]
  · exact (State.raise_bus _ _).trans hw.bus

end

theorem exec_servoLocked_idle {s : State} (h : (if s.timState = TimeState.acquiring then s.tim.goodSince else none) = none) : Idles .servoLocked s := by
  show execServoLocked s = _
  unfold execServoLocked
  split
  next => rfl
  next t ht =>
    rw [ht] at h
    split
    next => rfl
    next hst => exact absurd h (by rw [if_pos (Classical.not_not.1 hst)]; simp)

theorem exec_servoLocked {s : State} {t0 : Nat} (h : (if s.timState = TimeState.acquiring then s.tim.goodSince else none) = some t0) :
    exec .servoLocked s = .next (s.elapse (s.ticksUntil (t0 + 16 * secondUnits))).locks := by
  have hst : s.timState = TimeState.acquiring := by
    by_contra hne
    simp [hne] at h
  rw [if_pos hst] at h
  show execServoLocked s = _
  unfold execServoLocked
  rw [h]
  dsimp only
  rw [if_neg (by simp [hst])]
  rfl

/-! ### A slew ends, a jump is accepted (R205 to R208) -/

/-- INCR after a slew: the servo's own rate. -/
def State.slewEnds (s : State) : State :=
  (s.setIncr (incrOf (clampInt (-500000 * 2 ^ 15) (500000 * 2 ^ 15) s.tim.integ))).setTimFlag Tim.slewing false

theorem State.setIncr_written (s : State) (v : Nat) : RegsWritten [Reg.timIncrFrac, Reg.timIncrInt] s (s.setIncr v) :=
  ((RegsWritten.refl s).setNum (by simp) _).setFld (by simp) _ _ _

theorem State.slewEnds_shows (s : State) : s.slewEnds.bus = s.bus ∧ OnlyRegs s s.slewEnds [Reg.timStatus, Reg.timIncrFrac, Reg.timIncrInt] ∧
    Raised s s.slewEnds [] ∧ s.slewEnds.timFlag Tim.slewing = false ∧ ∀ b, b ≠ Tim.slewing → s.slewEnds.timFlag b = s.timFlag b := by
  have hi := s.setIncr_written (incrOf (clampInt (-500000 * 2 ^ 15) (500000 * 2 ^ 15) s.tim.integ))
  have hw : RegsWritten [Reg.timStatus, Reg.timIncrFrac, Reg.timIncrInt] s s.slewEnds := (hi.mono (by simp)).setFlag (by simp) _ _
  refine ⟨hw.bus, hw.onlyRegs, .nil hw.plic, ?_, fun b hb => ?_⟩
  · rw [State.slewEnds, State.setTimFlag_timFlag _ _ _ _ (by decide), if_pos rfl]
  · rw [State.slewEnds, State.setTimFlag_timFlag _ _ _ _ (by decide), if_neg hb]
    exact hi.flag (by decide) b

theorem exec_slewDone_idle {s : State} (h : s.timFlag Tim.slewing = false) : Idles .slewDone s := by
  show execSlewDone s = _
  unfold execSlewDone
  rw [if_pos (by simp [h])]

theorem exec_slewDone {s : State} (h : s.timFlag Tim.slewing = true) : exec .slewDone s =
    .next (s.elapse (s.ticksUntil (s.tim.measured.getD s.chip.ran + (signed 32 (s.num Reg.timOffset)).natAbs * 10000 * 2 ^ 32))).slewEnds := by
  show execSlewDone s = _
  unfold execSlewDone
  rw [if_neg (by simp [h])]
  rfl

/-- A refused master is accepted by a write (R207). -/
theorem State.acceptJump_shows {o s : State} {w : Who} {v : Word} (h : o.admits w Reg.timAcceptJump v s) : Completes (.acceptJump w v) o fun t => Acked t ∧
    t = { s with bus := t.bus, tim := { s.tim with accepted := t.tim.accepted } } ∧
      t.tim.accepted = (s.tim.accepted || (bit v.toNat 0 && s.timFlag Tim.jumpRefused)) := by
  refine ⟨_, congrArg Host.Outcome.next (State.gated_ok o w Reg.timAcceptJump v _ s h), .replyOk _, ?_⟩
  split
  next hj => exact ⟨rfl, by rw [hj, Bool.or_true]; rfl⟩
  next hj => exact ⟨rfl, by rw [Bool.eq_false_of_not_eq_true hj, Bool.or_false]; rfl⟩

/-! ### A new master (R203 to R208) -/

/-- What taking a master makes of TIM. -/
theorem State.takeMaster_shows (s : State) (gm : Nat) : (s.takeMaster gm).tim.gm = some gm ∧ (s.takeMaster gm).tim.candidate = none ∧
    (s.takeMaster gm).timState = TimeState.acquiring ∧ (s.takeMaster gm).timFlag Tim.jumpRefused = false ∧
    (s.takeMaster gm).time = s.time ∧ (s.awake = true → (s.takeMaster gm).pendingSource 69 = true) := by
  have hw : RegsWritten [Reg.timStatus] s (((s.setTimState TimeState.acquiring).setTimFlag Tim.holdover false).setTimFlag Tim.jumpRefused false) :=
    (((RegsWritten.refl s).setFld (by simp) _ _ _).setFlag (by simp) _ _).setFlag (by simp) _ _
  have haw : (((s.setTimState TimeState.acquiring).setTimFlag Tim.holdover false).setTimFlag Tim.jumpRefused false).awake = s.awake :=
    s.awake_congr (hw.reg _ (by decide))
  have hstate : (((s.setTimState TimeState.acquiring).setTimFlag Tim.holdover false).setTimFlag Tim.jumpRefused false).timState =
      TimeState.acquiring := by
    rw [State.setTimFlag_timState _ _ _ (by decide), State.setTimFlag_timState _ _ _ (by decide), State.setTimState_timState _ (by decide)]
  have hflag : (((s.setTimState TimeState.acquiring).setTimFlag Tim.holdover false).setTimFlag Tim.jumpRefused false).timFlag Tim.jumpRefused =
      false := by rw [State.setTimFlag_timFlag _ _ _ _ (by decide), if_pos rfl]
  have htime : (((s.setTimState TimeState.acquiring).setTimFlag Tim.holdover false).setTimFlag Tim.jumpRefused false).time = s.time := by rw [hw.only]
  unfold State.takeMaster
  dsimp only
  obtain ⟨u, hu⟩ : ∃ u, u = ((s.setTimState TimeState.acquiring).setTimFlag Tim.holdover false).setTimFlag Tim.jumpRefused false := ⟨_, rfl⟩
  rw [← hu] at haw hstate hflag htime ⊢
  refine ⟨by rw [State.raise_tim], by rw [State.raise_tim], ?_, ?_, ?_, fun ha => ?_⟩
  · rw [State.raise_timState]
    exact hstate
  · rw [State.raise_timFlag]
    exact hflag
  · rw [State.raise_time]
    exact htime
  · refine State.raise_rises _ 69 (State.tim_canRise (by decide) ?_)
    rw [← ha, ← haw]
    rfl

/-- A step that brings the clock to its new master. -/
theorem State.stepToMaster_shows {s : State} {gm : Nat} {o : Int} (h : 0 ≤ (s.time.units : Int) + -o * 2 ^ 32) :
    (s.stepToMaster gm o).tim.gm = some gm ∧ (s.stepToMaster gm o).tim.candidate = none ∧ (s.stepToMaster gm o).timState = TimeState.acquiring ∧
    (s.stepToMaster gm o).timFlag Tim.jumpRefused = false ∧ (s.stepToMaster gm o).time = .ofUnits ((s.time.units : Int) + -o * 2 ^ 32).toNat ∧
    (s.awake = true → (s.stepToMaster gm o).pendingSource 69 = true) := by
  obtain ⟨t, he, hmade⟩ := s.stepTime_made h
  have hs : s.stepToMaster gm o = t.takeMaster gm := by rw [State.stepToMaster, he]
  obtain ⟨hgm, hcand, hstate, hflag, htime, hrise⟩ := t.takeMaster_shows gm
  rw [hs]
  exact ⟨hgm, hcand, hstate, hflag, htime.trans hmade.time, fun ha => hrise (hmade.awake.trans ha)⟩

theorem exec_jumpConfirmed {s : State} {gm t0 n : Nat} {o : Int} (hc : s.tim.candidate = some gm) (ht : s.tim.candSince = some t0)
    (hl : s.tim.candLast = some (o, n)) (ha : s.timFlag Tim.selfAccept = true) (hr : s.timFlag Tim.jumpRefused = true) :
    exec .jumpConfirmed s = .next ((s.elapse (s.ticksUntil (t0 + s.num Reg.timJumpConfirm * secondUnits))).stepToMaster gm o) := by
  show execJumpConfirmed s = _
  unfold execJumpConfirmed
  rw [hc, ht, hl]
  dsimp only
  rw [if_pos (by simp [ha, hr])]

theorem exec_jumpConfirmed_idle {s : State} (h : s.tim.candidate = none ∨ s.timFlag Tim.selfAccept = false ∨ s.timFlag Tim.jumpRefused = false) :
    Idles .jumpConfirmed s := by
  show execJumpConfirmed s = _
  unfold execJumpConfirmed
  split
  next hc _ _ =>
    refine if_neg fun hb => ?_
    simp_all
  next => rfl

end Sys2Proof.Machine
end
section
/-! The decision of the PTP ports' states (04, R202): what it writes, and what it makes of a port that has lost its master or found its first. -/
namespace Sys2Proof.Machine

/-- The registers that the decision writes. -/
def decideRegs : List Nat := Reg.timStatus :: (List.range 6).map Reg.timPortState

/-- From `z` to `t` the states of ports of `N` are decided, and of no other; nothing changes but the ports' registers, JUMP_REFUSED and the
master that TIM looks at. -/
structure Decided (N : Nat → Prop) (z t : State) : Prop where
  only : t = { z with regs := t.regs, tim := t.tim }
  ports : t.tim.ports = z.tim.ports
  reg : ∀ q, q ∉ decideRegs → t.reg q = z.reg q
  flag : ∀ b, b ≠ Tim.jumpRefused → t.timFlag b = z.timFlag b
  state : t.timState = z.timState
  others : ∀ q, 1 ≤ q → ¬ N q → t.portState q = z.portState q

namespace Decided
variable {N M : Nat → Prop} {z s t : State} {p : Nat}

theorem refl (s : State) : Decided N s s := ⟨rfl, rfl, fun _ _ => rfl, fun _ _ => rfl, rfl, fun _ _ _ => rfl⟩

theorem trans (h : Decided N z s) (k : Decided N s t) : Decided N z t where
  only := k.only.trans (congrArg (fun x : State => { x with regs := t.regs, tim := t.tim }) h.only)
  ports := k.ports.trans h.ports
  reg q hq := (k.reg q hq).trans (h.reg q hq)
  flag b hb := (k.flag b hb).trans (h.flag b hb)
  state := k.state.trans h.state
  others q hq hn := (k.others q hq hn).trans (h.others q hq hn)

theorem weaken (h : Decided N z t) (hM : ∀ m, N m → M m) : Decided M z t :=
  ⟨h.only, h.ports, h.reg, h.flag, h.state, fun q hq hn => h.others q hq fun hm => hn (hM q hm)⟩

theorem ite {c : Prop} [Decidable c] {a b : State} (h : Decided N z a) (k : Decided N z b) : Decided N z (if c then a else b) := by
  split <;> assumption

theorem setPortState (h : Decided N z s) (hp : 1 ≤ p ∧ p ≤ 6) (hn : N p) (v : Nat) : Decided N z (s.setPortState p v) := by
  have hmem : Reg.timPortState (p - 1) ∈ decideRegs :=
    List.mem_cons_of_mem _ (List.mem_map.2 ⟨p - 1, List.mem_range.2 (by omega), rfl⟩)
  have hst : Reg.timStatus ≠ Reg.timPortState (p - 1) := by simp only [Reg.timStatus, Reg.timPortState]; omega
  refine h.trans ⟨rfl, rfl, fun q hq => State.reg_setReg_ne s _ q _ (by rintro rfl; exact hq hmem), fun b _ => ?_, ?_, fun q hq hne => ?_⟩
  · exact State.flag_setReg_ne s _ _ hst
  · exact State.fld_setReg_ne s _ _ _ hst
  · refine State.fld_setReg_ne s _ _ _ ?_
    have hqp : q ≠ p := by rintro rfl; exact hne hn
    simp only [Reg.timPortState]
    omega

theorem chooseMaster (h : Decided N z s) (gm : Nat) : Decided N z (s.chooseMaster gm) := by
  unfold State.chooseMaster
  refine h.ite (h.trans ?_)
  have hst (i : Nat) : Reg.timPortState i ≠ Reg.timStatus := by simp only [Reg.timStatus, Reg.timPortState]; omega
  refine ⟨rfl, rfl, fun q hq => ?_, fun b hb => ?_, ?_, fun q _ _ => ?_⟩
  · exact State.setTimFlag_reg s _ _ (by rintro rfl; exact hq List.mem_cons_self)
  · exact (State.setTimFlag_timFlag s _ b _ (by decide)).trans (if_neg hb)
  · exact State.setTimFlag_timState s _ _ (by decide)
  · exact State.fld_setReg_ne s _ _ _ (hst _)

theorem recommendMaster (h : Decided N z s) (hp : 1 ≤ p ∧ p ≤ 6) (hn : N p) : Decided N z (s.recommendMaster p) :=
  (h.setPortState hp hn _).ite (h.ite (h.setPortState hp hn _))

theorem decidePort (h : Decided N z s) (hp : 1 ≤ p ∧ p ≤ 6) (hn : N p) : Decided N z (s.decidePort p) := by
  unfold State.decidePort
  have hr := h.recommendMaster hp hn
  have hset := fun v => h.setPortState hp hn v
  refine h.ite ?_
  split
  · exact h.ite hr
  · refine hr.ite (ite ?_ ?_)
    · exact (h.ite (h.ite (hset _))).chooseMaster _
    · split
      · exact (hset _).ite hr
      · exact hr

theorem ptpPort (h : Decided N z t) (q : Nat) : t.ptpPort q = z.ptpPort q := by rw [State.ptpPort, h.ports, State.ptpPort]
theorem blk (h : Decided N z t) : t.blk = z.blk := by rw [h.only]

/-- With TIM's own state replaced only registers were written. -/
theorem onlyRegs (h : Decided N z t) : OnlyRegs { z with tim := t.tim } t decideRegs :=
  ⟨h.only.trans (by rw [h.only]), h.reg⟩

theorem plic (h : Decided N z t) : t.plic = z.plic := by rw [h.only]
theorem bus (h : Decided N z t) : t.bus = z.bus := by rw [h.only]

end Decided

/-! ### The ports together -/

theorem State.bestMaster_congr {s t : State} (h : t.tim.ports = s.tim.ports) : t.bestMaster = s.bestMaster := by
  unfold State.bestMaster State.ptpPort
  rw [h]

theorem State.ptpSlaveOnly_congr {s t : State} (h : t.blk = s.blk) : t.ptpSlaveOnly = s.ptpSlaveOnly := by
  unfold State.ptpSlaveOnly State.linkStruct State.body
  rw [h]

/-- Each port is decided once; the others are decided before or after it. -/
theorem State.decidePorts_decided (s : State) {p : Nat} (hp : 1 ≤ p ∧ p ≤ 6) : Decided (fun _ => True) s s.decidePorts ∧
    ∃ u, Decided (· ≠ p) s u ∧ Decided (· ≠ p) (u.decidePort p) s.decidePorts := by
  have hmem : ∀ n ∈ ([1, 2, 3, 4, 5, 6] : List Nat), 1 ≤ n ∧ n ≤ 6 := by decide
  have hpm : p ∈ ([1, 2, 3, 4, 5, 6] : List Nat) := by simp; omega
  obtain ⟨hall, heach⟩ := Machine.foldl_each (R := Decided) (f := State.decidePort) (fun _ => .refl) (fun _ _ _ _ h k => h.trans k)
    (fun _ _ _ _ h k => h.weaken k) (l := [1, 2, 3, 4, 5, 6]) (by decide) (fun n hn u => (Decided.refl u).decidePort (hmem n hn) (by rfl)) s
  exact ⟨hall.weaken fun _ _ => trivial, heach p hpm⟩

/-! ### The best master -/

/-- The better of the best so far and a port's own. -/
def State.bestOf (s : State) (best : Option (Nat × PtpDataSet)) (p : Nat) : Option (Nat × PtpDataSet) :=
  match (s.ptpPort p).best with
  | none => best
  | some d =>
    match best with
    | none => some (p, d)
    | some (q, e) => if dataSetBetter d e then some (p, d) else some (q, e)

theorem State.bestMaster_eq (s : State) : s.bestMaster = ([1, 2, 3, 4, 5, 6] : List Nat).foldl s.bestOf none := rfl

section
variable {s : State} {p : Nat} {best : Option (Nat × PtpDataSet)}

theorem State.bestOf_none (h : (s.ptpPort p).best = none) : s.bestOf best p = best := by
  unfold State.bestOf
  rw [h]

theorem State.bestOf_first {d : PtpDataSet} (h : (s.ptpPort p).best = some d) : s.bestOf none p = some (p, d) := by
  unfold State.bestOf
  rw [h]

theorem State.bestOf_isSome (h : best.isSome = true ∨ (s.ptpPort p).best.isSome = true) : (s.bestOf best p).isSome = true := by
  unfold State.bestOf
  split
  next hp => simpa [hp] using h
  next =>
    split
    · rfl
    · split <;> rfl

/-- The best of the ports is what its port has heard. -/
theorem State.bestMaster_best {q : Nat} {d : PtpDataSet} (h : s.bestMaster = some (q, d)) : (s.ptpPort q).best = some d := by
  have hall : ∀ e, s.bestMaster = some e → (s.ptpPort e.1).best = some e.2 := by
    rw [State.bestMaster_eq]
    refine List.foldlRecOn (motive := fun (b : Option (Nat × PtpDataSet)) => ∀ e, b = some e → (s.ptpPort e.1).best = some e.2) _ _ (by simp) fun b hb p _ e he => ?_
    unfold State.bestOf at he
    split at he
    next => exact hb e he
    next x hx =>
      split at he
      next => obtain rfl := Option.some.inj he; exact hx
      next =>
        split at he
        · obtain rfl := Option.some.inj he; exact hx
        · exact hb e he
  exact hall _ h

/-- Where no master is known no port has heard one. -/
theorem State.bestMaster_none (h : s.bestMaster = none) : ∀ q ∈ ([1, 2, 3, 4, 5, 6] : List Nat), (s.ptpPort q).best = none := by
  have hsome {l : List Nat} : ∀ {b}, (b.isSome = true ∨ ∃ q ∈ l, (s.ptpPort q).best.isSome = true) → (l.foldl s.bestOf b).isSome = true := by
    induction l with
    | nil => intro b hb; simpa using hb
    | cons a l ih =>
      intro b hb
      refine ih ?_
      rcases hb with hb | ⟨q, hq, hb⟩
      · exact .inl (State.bestOf_isSome (.inl hb))
      · rcases List.mem_cons.1 hq with rfl | hq
        · exact .inl (State.bestOf_isSome (.inr hb))
        · exact .inr ⟨q, hq, hb⟩
  intro q hq
  by_contra hne
  have := hsome (b := none) (.inr ⟨q, hq, Option.isSome_iff_ne_none.2 hne⟩)
  rw [← State.bestMaster_eq, h] at this
  exact absurd this (by decide)

/-- The only master that a port has heard is the best. -/
theorem State.bestMaster_only {d : PtpDataSet} (hp : 1 ≤ p ∧ p ≤ 6) (hd : (s.ptpPort p).best = some d) (h : ∀ q, q ≠ p → 1 ≤ q → q ≤ 6 → (s.ptpPort q).best = none) :
    s.bestMaster = some (p, d) := by
  have hskip {l : List Nat} (hl : ∀ q ∈ l, q ≠ p ∧ 1 ≤ q ∧ q ≤ 6) (b : Option (Nat × PtpDataSet)) : l.foldl s.bestOf b = b :=
    List.foldlRecOn (motive := fun x => x = b) l _ rfl fun x hx q hq => by
      obtain ⟨hne, hlo, hhi⟩ := hl q hq
      rw [State.bestOf_none (h q hne hlo hhi), hx]
  have hsplit : ∃ a b, ([1, 2, 3, 4, 5, 6] : List Nat) = a ++ p :: b ∧ (∀ q ∈ a, q ≠ p ∧ 1 ≤ q ∧ q ≤ 6) ∧ ∀ q ∈ b, q ≠ p ∧ 1 ≤ q ∧ q ≤ 6 := by
    obtain ⟨hlo, hhi⟩ := hp
    refine ⟨([1, 2, 3, 4, 5, 6] : List Nat).take (p - 1), ([1, 2, 3, 4, 5, 6] : List Nat).drop p, ?_, ?_, ?_⟩ <;> interval_cases p <;> decide
  obtain ⟨a, b, he, ha, hb⟩ := hsplit
  rw [State.bestMaster_eq, he, List.foldl_append, hskip ha, List.foldl_cons, State.bestOf_first hd, hskip hb]

end

/-! ### One port -/

section
variable (s : State) (p : Nat)

theorem State.setPortState_portState {v : Nat} (h : v < 16) : (s.setPortState p v).portState p = v :=
  (State.fld_setFld s _ _ _ _ (by decide) (by decide)).trans (Nat.mod_eq_of_lt h)

theorem State.chooseMaster_portState (gm : Nat) : (s.chooseMaster gm).portState p = s.portState p := by
  unfold State.chooseMaster
  split
  · rfl
  · exact State.fld_setReg_ne s _ _ _ (by simp only [Reg.timStatus, Reg.timPortState]; omega)

/-- The state that a port takes when it hears nobody any more. -/
def State.lostState (s : State) : Nat := if s.ptpSlaveOnly then PortState.listening else PortState.master

theorem State.recommendMaster_lost (h : s.portState p = s.lostState) : (s.recommendMaster p).portState p = s.lostState := by
  unfold State.recommendMaster State.lostState at *
  split
  next hs => exact State.setPortState_portState s p (by decide)
  next hs =>
    rw [if_neg hs] at h
    rw [if_pos (.inl h), h]

/-- A port that has heard nobody keeps that state. -/
theorem State.decidePort_lost (hb : (s.ptpPort p).best = none) (h : s.portState p = s.lostState) : (s.decidePort p).portState p = s.lostState := by
  have hr := s.recommendMaster_lost p h
  unfold State.decidePort
  dsimp only
  split
  · exact h
  · split
    · split
      · exact h
      · exact hr
    next q best hbest =>
      split
      · exact hr
      · split
        next hq =>
          have := State.bestMaster_best hbest
          rw [hq, hb] at this
          exact absurd this (by simp)
        next =>
          rw [hb]
          exact hr

/-- A port that alone has heard a master better than the part itself becomes UNCALIBRATED. -/
theorem State.decidePort_uncalibrated {d : PtpDataSet} (hrole : s.ptpRole p = 1) (hbest : s.bestMaster = some (p, d))
    (hown : dataSetBetter s.ptpDefault d = false)
    (hst : s.portState p ∈ [PortState.listening, PortState.master, PortState.passive, PortState.preMaster]) :
    (s.decidePort p).portState p = PortState.uncalibrated := by
  have hne : s.portState p ≠ PortState.initializing ∧ s.portState p ≠ PortState.disabled ∧ s.portState p ≠ PortState.slave := by
    generalize s.portState p = x at *
    revert x
    decide
  obtain ⟨hi, hd, hs⟩ := hne
  unfold State.decidePort
  dsimp only
  rw [if_neg (by simp [hrole, hi, hd]), hbest]
  dsimp only
  rw [if_neg (by simp [hown]), if_pos rfl, State.chooseMaster_portState, if_neg (by simp [hs]), if_neg (by simp [hs])]
  exact State.setPortState_portState s p (by decide)

end

end Sys2Proof.Machine
end
section
/-! HOLDOVER and a port that loses its master (04, R201), and the obligation about device time (R193 to R208). -/
namespace Sys2Proof.Machine

/-- From `z` to `t` the registers `rs` and those of the detectors change, the records of detectors, pending sources, the reply and TIM's own
state; nothing else. -/
structure TimChanged (rs : List Nat) (z t : State) : Prop where
  only : t = { z with regs := t.regs, plic := t.plic, bus := t.bus, flt := t.flt, inj := t.inj, tim := t.tim }
  reg : ∀ q, q ∉ rs → ¬ inFlt q → t.reg q = z.reg q

namespace TimChanged
variable {rs : List Nat} {z s t : State} {r : Nat}

theorem refl (s : State) : TimChanged rs s s := ⟨rfl, fun _ _ _ => rfl⟩

theorem trans (h : TimChanged rs z s) (k : TimChanged rs s t) : TimChanged rs z t where
  only := k.only.trans (congrArg (fun x : State => { x with regs := t.regs, plic := t.plic, bus := t.bus, flt := t.flt, inj := t.inj, tim := t.tim }) h.only)
  reg q hq hf := (k.reg q hq hf).trans (h.reg q hq hf)

theorem mono {qs : List Nat} (h : TimChanged qs z t) (hrs : qs ⊆ rs) : TimChanged rs z t := ⟨h.only, fun q hq => h.reg q fun hm => hq (hrs hm)⟩

theorem ite {c : Prop} [Decidable c] {a b : State} (h : TimChanged rs z a) (k : TimChanged rs z b) : TimChanged rs z (if c then a else b) := by
  split <;> assumption

theorem setReg (h : TimChanged rs z s) (hr : r ∈ rs) (v : Word) : TimChanged rs z (s.setReg r v) :=
  h.trans ⟨rfl, fun q hq _ => State.reg_setReg_ne s r q v (by rintro rfl; exact hq hr)⟩

theorem setNum (h : TimChanged rs z s) (hr : r ∈ rs) (v : Nat) : TimChanged rs z (s.setNum r v) := h.setReg hr _
theorem setTimFlag (h : TimChanged rs z s) (hr : Reg.timStatus ∈ rs) (b : Nat) (v : Bool) : TimChanged rs z (s.setTimFlag b v) := h.setReg hr _
theorem setTimState (h : TimChanged rs z s) (hr : Reg.timStatus ∈ rs) (v : Nat) : TimChanged rs z (s.setTimState v) := h.setReg hr _

theorem raise (h : TimChanged rs z s) (n : Nat) : TimChanged rs z (s.raise n) := by
  refine h.trans ⟨?_, fun q _ _ => s.raise_reg n q⟩
  rw [State.raise_only]

theorem detected (h : TimChanged rs z s) (d : Detection) : TimChanged rs z (s.detected d) := by
  refine h.trans ⟨?_, fun q _ hf => s.detected_reg d q hf⟩
  rw [s.detected_only d]

theorem withTim (h : TimChanged rs z s) (x : TimState) : TimChanged rs z (s.withTim x) := h.trans ⟨rfl, fun _ _ _ => rfl⟩

theorem decided {N : Nat → Prop} (h : TimChanged rs z s) (d : Decided N s t) (hrs : decideRegs ⊆ rs) : TimChanged rs z t :=
  h.trans ⟨d.only.trans (by rw [d.only]), fun q hq _ => d.reg q fun hm => hq (hrs hm)⟩

theorem setIncr (h : TimChanged rs z s) (hf : Reg.timIncrFrac ∈ rs) (hi : Reg.timIncrInt ∈ rs) (v : Nat) : TimChanged rs z (s.setIncr v) :=
  (h.setNum hf _).setReg hi _

/-- TIM's own state being the new one, registers were written and records made. -/
theorem onlyRegsFlt (h : TimChanged rs z t) : OnlyRegsFlt { z with tim := t.tim } t rs := ⟨h.only.trans (by rw [h.only]), h.reg⟩

theorem blk (h : TimChanged rs z t) : t.blk = z.blk := by rw [h.only]

end TimChanged

/-! ### HOLDOVER (R201) -/

/-- The registers that HOLDOVER writes. -/
def holdRegs : List Nat := [Reg.timIncrFrac, Reg.timIncrInt, Reg.timStatus, Reg.timHoldS]

/-- TIM is in HOLDOVER, with INCR at its mean, no slew, and HOLD_S at 0. -/
structure Held (mean : Nat) (t : State) : Prop where
  state : t.timState = TimeState.holdover
  flag : t.timFlag Tim.holdover = true
  slewing : t.timFlag Tim.slewing = false
  seconds : t.num Reg.timHoldS = 0
  incr : t.num Reg.timIncrFrac = mean % 2 ^ 32

theorem Held.unrefused {mean : Nat} {s : State} (h : Held mean s) (x : TimState) : Held mean ((s.setTimFlag Tim.jumpRefused false).withTim x) where
  state := (State.setTimFlag_timState s _ _ (by decide)).trans h.state
  flag := (State.setTimFlag_timFlag s _ _ _ (by decide)).trans ((if_neg (by decide)).trans h.flag)
  slewing := (State.setTimFlag_timFlag s _ _ _ (by decide)).trans ((if_neg (by decide)).trans h.slewing)
  seconds := (State.num_setReg_ne s _ (by decide)).trans h.seconds
  incr := (State.num_setReg_ne s _ (by decide)).trans h.incr

theorem Held.decided {N : Nat → Prop} {mean : Nat} {s t : State} (h : Held mean s) (d : Decided N s t) : Held mean t where
  state := d.state.trans h.state
  flag := (d.flag _ (by decide)).trans h.flag
  slewing := (d.flag _ (by decide)).trans h.slewing
  seconds := by rw [State.num, d.reg _ (by decide), ← State.num, h.seconds]
  incr := by rw [State.num, d.reg _ (by decide), ← State.num, h.incr]

section
variable (s : State)

/-- INCR is frozen, and the state says so. -/
def State.frozen : State :=
  (((s.setIncr s.meanIncr).setTimState TimeState.holdover).setTimFlag Tim.holdover true).setTimFlag Tim.slewing false

/-- The entry of HOLDOVER is told, and HOLD_S counts from here. -/
def State.tellsHoldover (s : State) : State :=
  ((s.raise 66).detected { det := 0x29, level := 2, loc := location (regionOfReg (9 * 0x10000)) 9 0, action := Act.substituted }).setNum Reg.timHoldS 0

theorem State.freezeIncr_eq (h : s.timFlag Tim.holdover = false) : s.freezeIncr =
    s.frozen.tellsHoldover.withTim { s.frozen.tellsHoldover.tim with heldAt := s.frozen.tellsHoldover.chip.ran, goodSince := none } := by
  unfold State.freezeIncr
  rw [if_neg (by simp [h])]
  rfl

theorem State.frozen_changed : TimChanged holdRegs s s.frozen :=
  ((((TimChanged.refl s).setIncr (by decide) (by decide) _).setTimState (by decide) _).setTimFlag (by decide) _ _).setTimFlag (by decide) _ _

theorem State.tellsHoldover_changed : TimChanged [Reg.timHoldS] s s.tellsHoldover :=
  (((TimChanged.refl s).raise 66).detected _).setNum (by decide) _

theorem State.tellsHoldover_tim : s.tellsHoldover.tim = s.tim := by
  rw [State.tellsHoldover, State.setNum, State.setReg, State.detected_only, State.raise_tim]

theorem State.freezeIncr_changed : TimChanged holdRegs s s.freezeIncr := by
  cases h : s.timFlag Tim.holdover
  · rw [s.freezeIncr_eq h]
    exact (s.frozen_changed.trans (s.frozen.tellsHoldover_changed.mono (by decide))).withTim _
  · rw [State.freezeIncr, if_pos h]
    exact .refl s

theorem State.freezeIncr_ports : s.freezeIncr.tim.ports = s.tim.ports := by
  cases h : s.timFlag Tim.holdover
  · rw [s.freezeIncr_eq h, s.frozen.tellsHoldover_tim]
    rfl
  · rw [State.freezeIncr, if_pos h]

theorem State.freezeIncr_held (h : s.timFlag Tim.holdover = false) : Held s.meanIncr s.freezeIncr := by
  have hk {q : Nat} (hq : q ≠ Reg.timHoldS) (hf : ¬ inFlt q) : s.freezeIncr.reg q = s.frozen.reg q := by
    rw [s.freezeIncr_eq h, State.withTim_reg]
    exact s.frozen.tellsHoldover_changed.reg q (by simpa using hq) hf
  have hst : s.freezeIncr.reg Reg.timStatus = s.frozen.reg Reg.timStatus := hk (by decide) (by unfold inFlt; decide)
  refine ⟨?_, ?_, ?_, ?_, ?_⟩
  · rw [State.timState, State.fld, hst, ← State.fld, ← State.timState, State.frozen, State.setTimFlag_timState _ _ _ (by decide),
      State.setTimFlag_timState _ _ _ (by decide), State.setTimState_timState _ (by decide)]
  · rw [State.timFlag, State.flag, hst, ← State.flag, ← State.timFlag, State.frozen, State.setTimFlag_timFlag _ _ _ _ (by decide), if_neg (by decide),
      State.setTimFlag_timFlag _ _ _ _ (by decide), if_pos rfl]
  · rw [State.timFlag, State.flag, hst, ← State.flag, ← State.timFlag, State.frozen, State.setTimFlag_timFlag _ _ _ _ (by decide), if_pos rfl]
  · rw [s.freezeIncr_eq h, State.num, State.withTim_reg, ← State.num]
    exact State.num_setNum _ _ _ (by decide)
  · rw [State.num, hk (by decide) (by unfold inFlt; decide), State.frozen, State.setTimFlag_reg _ _ _ (by decide), State.setTimFlag_reg _ _ _ (by decide), ← State.num]
    exact (State.num_setReg_ne _ _ (by decide)).trans ((State.num_setReg_ne _ _ (by decide)).trans (State.num_setNum _ _ _ (Nat.mod_lt _ (by decide))))

/-- HOLDOVER entered by a lost master. -/
theorem State.enterHoldover_changed : TimChanged holdRegs s s.enterHoldover :=
  (s.freezeIncr_changed.setTimFlag (by decide) _ _).withTim _

theorem State.enterHoldover_ports : s.enterHoldover.tim.ports = s.tim.ports := s.freezeIncr_ports

theorem State.enterHoldover_held (h : s.timFlag Tim.holdover = false) : Held s.meanIncr s.enterHoldover := by
  unfold State.enterHoldover
  exact (s.freezeIncr_held h).unrefused _

end

end Sys2Proof.Machine
end
section
/-! A port that loses its master (04, R198, R201), and the obligation about device time (R193 to R208). -/
namespace Sys2Proof.Machine

section
variable {s : State} {p : Nat}

/-- Only the ports 1 to 6 have a role. -/
theorem State.ptpRole_port (h : s.ptpRole p ≠ 0) : 1 ≤ p ∧ p ≤ 6 := by
  unfold State.ptpRole State.ptpEntryRole at h
  split at h
  · split at h
    · assumption
    · exact absurd rfl h
  · exact absurd rfl h

theorem State.ptpPort_setPtpPort (s : State) (p : Nat) (x : PtpPort) : (s.setPtpPort p x).ptpPort p = x :=
  (Tab.get_set _ _ _ _).trans (if_pos rfl)

end

/-! ### What a port has heard is gone -/

section
variable (s : State) (p : Nat)

/-- The port hears nobody. -/
def State.deaf : State := s.setPtpPort p { s.ptpPort p with best := none }

theorem State.lostState_lt : s.lostState < 16 := by
  unfold State.lostState
  split <;> decide

theorem State.loseAnnounce_portState : (s.loseAnnounce p).portState p = s.lostState := State.setPortState_portState _ _ s.lostState_lt
theorem State.loseAnnounce_best : ((s.loseAnnounce p).ptpPort p).best = none := congrArg PtpPort.best (s.ptpPort_setPtpPort p _)
theorem State.loseAnnounce_blk : (s.loseAnnounce p).blk = s.blk := rfl

theorem State.loseAnnounce_decided {p : Nat} (hp : 1 ≤ p ∧ p ≤ 6) : Decided (· = p) (s.deaf p) (s.loseAnnounce p) :=
  (Decided.refl (s.deaf p)).setPortState hp (by rfl) s.lostState

theorem State.lostState_congr {t : State} (h : t.blk = s.blk) : t.lostState = s.lostState := by
  rw [State.lostState, State.ptpSlaveOnly_congr h, State.lostState]

/-- A port that has lost its master keeps the state it has then over the decision. -/
theorem State.decidePorts_lost {p : Nat} (hp : 1 ≤ p ∧ p ≤ 6) (hb : (s.ptpPort p).best = none) (hst : s.portState p = s.lostState) :
    s.decidePorts.portState p = s.lostState ∧ (s.decidePorts.ptpPort p).best = none := by
  obtain ⟨hall, u, hbefore, hafter⟩ := s.decidePorts_decided hp
  have hlost : u.lostState = s.lostState := s.lostState_congr hbefore.blk
  refine ⟨?_, by rw [hall.ptpPort, hb]⟩
  rw [hafter.others p hp.1 (by simp), u.decidePort_lost p ?_ ?_, hlost]
  · rw [hbefore.ptpPort, hb]
  · rw [hbefore.others p hp.1 (by simp), hst, hlost]

theorem State.meanIncr_congr {t : State} (h : t.tim.incrs = s.tim.incrs) (hf : t.reg Reg.timIncrFrac = s.reg Reg.timIncrFrac)
    (hi : t.reg Reg.timIncrInt = s.reg Reg.timIncrInt) : t.meanIncr = s.meanIncr := by
  have hincr : t.incr = s.incr := by rw [State.incr, State.fld, State.num, hi, hf, State.incr, State.fld, State.num]
  rw [State.meanIncr, State.meanIncr, h, hincr]

end

/-! ### The announce timeout of a port that follows (R201) -/

/-- The registers that a lost master changes. -/
def lostRegs : List Nat := (List.range 6).map Reg.timPortState ++ [Reg.timIncrFrac, Reg.timIncrInt, Reg.timStatus, Reg.timHoldS]

section
variable (s : State) (p : Nat)

/-- What the loss of a master leaves TIM in. -/
def State.masterLost : State := if s.tim.followed then s.enterHoldover else s.withTim { s.tim with candidate := none }

theorem State.masterLost_changed : TimChanged holdRegs s s.masterLost := s.enterHoldover_changed.ite ((TimChanged.refl s).withTim _)

theorem State.masterLost_ports : s.masterLost.tim.ports = s.tim.ports := by
  unfold State.masterLost
  split
  · exact s.enterHoldover_ports
  · rfl

theorem State.masterLost_portState : s.masterLost.portState p = s.portState p := by
  have h : s.masterLost.reg (Reg.timPortState (p - 1)) = s.reg (Reg.timPortState (p - 1)) := by
    refine s.masterLost_changed.reg _ ?_ ?_
    · simp only [holdRegs, Reg.timPortState, Reg.timIncrFrac, Reg.timIncrInt, Reg.timStatus, Reg.timHoldS, List.mem_cons, List.not_mem_nil, or_false]
      omega
    · simp only [inFlt, Reg.timPortState]
      omega
  rw [State.portState, State.fld, h, State.portState, State.fld]

variable {s p}

theorem exec_announceTimeout_idle (h : ¬ (s.ptpRole p = 1 ∧ s.portState p ∈ [PortState.slave, PortState.uncalibrated])) : Idles (.announceTimeout p) s :=
  if_neg (by simpa using h)

theorem exec_announceTimeout (h : s.ptpRole p = 1 ∧ s.portState p ∈ [PortState.slave, PortState.uncalibrated]) :
    exec (.announceTimeout p) s = .next (s.loseAnnounce p).masterLost.decidePorts := if_pos (by simpa using h)

theorem State.announceTimeout_shows (h : s.ptpRole p = 1 ∧ s.portState p ∈ [PortState.slave, PortState.uncalibrated]) :
    Completes (.announceTimeout p) s fun t => t.portState p = s.lostState ∧ (t.ptpPort p).best = none ∧
      OnlyRegsFlt { s with tim := t.tim } t lostRegs ∧
      (s.tim.followed = true → s.timFlag Tim.holdover = false → Held s.meanIncr t) := by
  have hp : 1 ≤ p ∧ p ≤ 6 := State.ptpRole_port (by rw [h.1]; decide)
  obtain ⟨u, hu⟩ : ∃ u, u = s.loseAnnounce p := ⟨_, rfl⟩
  have hdeaf : Decided (· = p) (s.deaf p) u := hu ▸ s.loseAnnounce_decided hp
  have hdeafened : TimChanged lostRegs s (s.deaf p) := (TimChanged.refl s).withTim _
  have hchanged : TimChanged lostRegs s u := hdeafened.decided hdeaf (by decide)
  have hblk : u.masterLost.blk = s.blk := u.masterLost_changed.blk.trans (hu ▸ s.loseAnnounce_blk p)
  have hlost : u.masterLost.lostState = s.lostState := s.lostState_congr hblk
  obtain ⟨hstate, hbest⟩ := u.masterLost.decidePorts_lost hp (by rw [State.ptpPort, u.masterLost_ports, hu]; exact s.loseAnnounce_best p)
    (by rw [u.masterLost_portState, hlost, hu, s.loseAnnounce_portState])
  obtain ⟨hall, -⟩ := u.masterLost.decidePorts_decided hp
  refine ⟨_, hu ▸ exec_announceTimeout h, hstate.trans hlost, hbest, ?_, fun hfol hhold => ?_⟩
  · refine TimChanged.onlyRegsFlt ((hchanged.trans (u.masterLost_changed.mono (by decide))).decided hall (by decide))
  · have htim : u.tim.incrs = s.tim.incrs ∧ u.tim.followed = s.tim.followed := hu ▸ ⟨rfl, rfl⟩
    have hreg {q : Nat} (hq : q ∉ decideRegs) : u.reg q = s.reg q := hdeaf.reg q hq
    have hmean : u.meanIncr = s.meanIncr := s.meanIncr_congr htim.1 (hreg (by decide)) (hreg (by decide))
    have hnot : u.timFlag Tim.holdover = false := (hdeaf.flag _ (by decide)).trans hhold
    have hl : u.masterLost = u.enterHoldover := if_pos (htim.2.trans hfol)
    rw [← hmean, hl]
    exact (u.enterHoldover_held hnot).decided (hl ▸ hall)

end

end Sys2Proof.Machine
end
section
/-! The obligation about device time, its servo and its masters (04, R193 to R208). -/
namespace Sys2Proof.Machine

/-- A keyed step of device time that is made (R193). -/
theorem State.timeStep_shows {o s : State} {w : Who} {v : Word} (h : o.admits w Reg.timStepGo v s) (hk : stepKeyed v = true)
    (hn : ¬ (signed 32 (s.num Reg.timStepNs) < -999999999 ∨ 999999999 < signed 32 (s.num Reg.timStepNs)))
    (hu : 0 ≤ (s.time.units : Int) + (signed 32 (s.num Reg.timStepSec) * 1000000000 + signed 32 (s.num Reg.timStepNs)) * 2 ^ 32) :
    Completes (.timeStep w v) o fun t => Acked t ∧ t.time = TimeCounter.ofUnits ((s.time.units : Int) +
        (signed 32 (s.num Reg.timStepSec) * 1000000000 + signed 32 (s.num Reg.timStepNs)) * 2 ^ 32).toNat ∧
      t.num Reg.timSteps = min (2 ^ 32 - 1) (s.num Reg.timSteps + 1) ∧ t.flag Reg.timStatus 7 = false ∧ t.pendingSource 68 = true := by
  have he := exec_timeStep_keyed h hk hn
  obtain ⟨t, ht, hmade⟩ := s.stepTime_made hu
  rw [ht] at he
  refine ⟨_, he, .replyOk _, hmade.time, ?_, ?_, hmade.source (State.admits_awake h)⟩
  · rw [State.replyOk_num, hmade.steps]
  · rw [State.replyOk_flag]
    exact (hmade.flag Tim.stepRefused).trans (if_pos rfl)

/-- A keyed step of device time that is out of range (R193). -/
theorem State.timeStep_out {o s : State} {w : Who} {v : Word} (h : o.admits w Reg.timStepGo v s) (hk : stepKeyed v = true)
    (hout : signed 32 (s.num Reg.timStepNs) < -999999999 ∨ 999999999 < signed 32 (s.num Reg.timStepNs) ∨
      (s.time.units : Int) + (signed 32 (s.num Reg.timStepSec) * 1000000000 + signed 32 (s.num Reg.timStepNs)) * 2 ^ 32 < 0) :
    exec (.timeStep w v) o = .next (s.setTimFlag Tim.stepRefused true).replyOk := by
  by_cases hn : signed 32 (s.num Reg.timStepNs) < -999999999 ∨ 999999999 < signed 32 (s.num Reg.timStepNs)
  · exact exec_timeStep_range h hk hn
  · have hu := (hout.imp_left fun hl => absurd (Or.inl hl) hn).resolve_left id
    have hu := hu.resolve_left fun hl => hn (.inr hl)
    rw [exec_timeStep_keyed h hk hn, s.stepTime_refused hu]

/-- A write that finds nothing to do. -/
theorem State.timeStep_keyless {o s : State} {w : Who} {v : Word} (h : o.admits w Reg.timStepGo v s) (hk : stepKeyed v = false) :
    Writes (.timeStep w v) o s [] [] fun _ => True :=
  ⟨_, exec_timeStep_keyless h hk, .replyOk _, (RegsWritten.refl s).onlyRegs.replyOk, .nil rfl, trivial⟩

/-- The offsets of a refused master have agreed long enough (R208). -/
theorem State.jumpConfirmed_shows {s : State} {gm t0 n : Nat} {o : Int} (hc : s.tim.candidate = some gm) (ht : s.tim.candSince = some t0)
    (hl : s.tim.candLast = some (o, n)) (ha : s.timFlag Tim.selfAccept = true) (hr : s.timFlag Tim.jumpRefused = true) (haw : s.awake = true) :
    let u := s.elapse (s.ticksUntil (t0 + s.num Reg.timJumpConfirm * secondUnits))
    0 ≤ (u.time.units : Int) + -o * 2 ^ 32 →
    Completes .jumpConfirmed s fun t => t.tim.gm = some gm ∧ t.tim.candidate = none ∧ t.timState = TimeState.acquiring ∧
      t.timFlag Tim.jumpRefused = false ∧ t.pendingSource 69 = true ∧ t.time = .ofUnits ((u.time.units : Int) + -o * 2 ^ 32).toNat := by
  intro u hu
  obtain ⟨hgm, hcand, hstate, hflag, htime, hrise⟩ := State.stepToMaster_shows (gm := gm) hu
  refine ⟨_, exec_jumpConfirmed hc ht hl ha hr, hgm, hcand, hstate, hflag, hrise ?_, htime⟩
  rw [← haw]
  exact s.awake_congr (s.elapse_reg _ (by decide) (by decide))

/-- The servo locks in the state `u` that time has reached (R195). -/
theorem State.servoLocked_shows {s u : State} (he : exec .servoLocked s = .next u.locks) (hbus : u.bus = s.bus) : Completes .servoLocked s fun t =>
    t.timState = TimeState.locked ∧ t.timFlag Tim.seasoning = false ∧ t.bus = s.bus ∧ OnlyRegs { u with tim := t.tim } t [Reg.timStatus] ∧
      Raised u t [65] := by
  obtain ⟨hstate, hseason, hb, honly, hraised⟩ := u.locks_shows
  exact ⟨_, he, hstate, hseason, hb.trans hbus, honly, hraised⟩

/-- The slew ends in the state `u` that time has reached (R205). -/
theorem State.slewDone_shows {s u : State} (he : exec .slewDone s = .next u.slewEnds) (hbus : u.bus = s.bus) : Completes .slewDone s fun t =>
    t.bus = s.bus ∧ OnlyRegs u t [Reg.timStatus, Reg.timIncrFrac, Reg.timIncrInt] ∧ Raised u t [] ∧
      t.timFlag Tim.slewing = false ∧ ∀ b, b ≠ Tim.slewing → t.timFlag b = u.timFlag b := by
  obtain ⟨hb, honly, hraised, hslew, hflags⟩ := u.slewEnds_shows
  exact ⟨_, he, hb.trans hbus, honly, hraised, hslew, hflags⟩

/-- Settles O22. A command that has something to act on first lets the time pass at which it acts; what it then changes is told for any state of
that time. -/
theorem timeStepsSecondsAndMasters : Obligations.TimeStepsSecondsAndMasters := by
  unfold Obligations.TimeStepsSecondsAndMasters
  refine ⟨fun s => ⟨fun o w v h => ⟨State.timeStep_keyless h, fun hk hout => State.stepRefused_shows (State.timeStep_out h hk hout),
      fun hk hlo hhi hu => State.timeStep_shows h hk (by omega) hu⟩, s.second_shows⟩,
    fun s => ⟨?_, fun p => ?_, ?_, fun o w v h => State.acceptJump_shows h, fun gm t0 o n hc ht hl ha hr haw => State.jumpConfirmed_shows hc ht hl ha hr haw,
      exec_jumpConfirmed_idle⟩⟩
  · split
    next h => exact exec_servoLocked_idle h
    next t0 h => exact State.servoLocked_shows (exec_servoLocked h) (s.elapse_bus _)
  · split
    next h =>
      obtain ⟨t, he, hport, hbest, honly, hheld⟩ := State.announceTimeout_shows h
      refine ⟨t, he, hport, hbest, honly, fun hf hh => ?_⟩
      obtain ⟨hstate, hflag, hslew, hsec, hincr⟩ := hheld hf hh
      exact ⟨hstate, hflag, hslew, hsec, hincr⟩
    next h => exact exec_announceTimeout_idle h
  · split
    next h => exact State.slewDone_shows (exec_slewDone h) (s.elapse_bus _)
    next h => exact exec_slewDone_idle (by simpa using h)

end Sys2Proof.Machine
end
section
/-! The offset that a port measures (04, R192 to R200): what it shows, and what the servo makes of INCR. -/
namespace Sys2Proof.Machine

/-- From `z` to `t` the registers below the spindles' stand but for `rs` and those of the detectors. -/
def TimKeeps (rs : List Nat) (z t : State) : Prop := ∀ q, q < 0xA0000 → q ∉ rs → ¬ inFlt q → t.reg q = z.reg q

namespace TimKeeps
variable {rs qs : List Nat} {z s t : State} {r : Nat}

theorem refl (s : State) : TimKeeps rs s s := fun _ _ _ _ => rfl
theorem trans (h : TimKeeps rs z s) (k : TimKeeps rs s t) : TimKeeps rs z t := fun q hq hr hf => (k q hq hr hf).trans (h q hq hr hf)
theorem mono (h : TimKeeps qs z t) (hrs : qs ⊆ rs) : TimKeeps rs z t := fun q hq hr hf => h q hq (fun hm => hr (hrs hm)) hf

theorem ite {c : Prop} [Decidable c] {a b : State} (h : TimKeeps rs z a) (k : TimKeeps rs z b) : TimKeeps rs z (if c then a else b) := by
  split <;> assumption

theorem setReg (h : TimKeeps rs z s) (hr : r ∈ rs) (v : Word) : TimKeeps rs z (s.setReg r v) :=
  h.trans fun q _ hq _ => State.reg_setReg_ne s r q v (by rintro rfl; exact hq hr)

theorem setTimFlag (h : TimKeeps rs z s) (hr : Reg.timStatus ∈ rs) (b : Nat) (v : Bool) : TimKeeps rs z (s.setTimFlag b v) := h.setReg hr _
theorem setTimState (h : TimKeeps rs z s) (hr : Reg.timStatus ∈ rs) (v : Nat) : TimKeeps rs z (s.setTimState v) := h.setReg hr _
theorem setIncr (h : TimKeeps rs z s) (hf : Reg.timIncrFrac ∈ rs) (hi : Reg.timIncrInt ∈ rs) (v : Nat) : TimKeeps rs z (s.setIncr v) :=
  (h.setReg hf _).setReg hi _
theorem raise (h : TimKeeps rs z s) (n : Nat) : TimKeeps rs z (s.raise n) := h.trans fun q _ _ _ => s.raise_reg n q
theorem detected (h : TimKeeps rs z s) (d : Detection) : TimKeeps rs z (s.detected d) := h.trans fun q _ _ hf => s.detected_reg d q hf
theorem withTim (h : TimKeeps rs z s) (x : TimState) : TimKeeps rs z (s.withTim x) := h
theorem changed (h : TimKeeps rs z s) (k : TimChanged qs s t) (hrs : qs ⊆ rs) : TimKeeps rs z t :=
  h.trans (mono (fun q _ hq hf => k.reg q hq hf) hrs)

theorem noteLock (h : TimKeeps rs z s) (hr : Reg.timStatus ∈ rs) (o : Int) : TimKeeps rs z (s.noteLock o) := by
  unfold State.noteLock
  exact ite (h.withTim _) (ite (TimKeeps.setTimState (h.withTim _) hr _) (h.withTim _))

end TimKeeps

/-! ### A measurement (R200) -/

/-- The registers that a measurement may change besides OFFSET. -/
def measureRegs : List Nat :=
  [Reg.timStatus, Reg.timIncrFrac, Reg.timIncrInt, Reg.timHoldS, Reg.timCandSec, Reg.timCandNs, Reg.timSteps]

section
variable {z s : State}

namespace TimKeeps

theorem servo (h : TimKeeps measureRegs z s) (o : Int) : TimKeeps measureRegs z (s.servo o) := by
  unfold State.servo
  exact ite (TimKeeps.setIncr (h.withTim _) (by decide) (by decide) _) (h.withTim _)

theorem takeMaster (h : TimKeeps measureRegs z s) (gm : Nat) : TimKeeps measureRegs z (s.takeMaster gm) :=
  ((((h.setTimState (by decide) _).setTimFlag (by decide) _ _).setTimFlag (by decide) _ _).withTim _).raise 69

theorem slew (h : TimKeeps measureRegs z s) (o : Int) : TimKeeps measureRegs z (s.slew o) :=
  (h.setIncr (by decide) (by decide) _).setTimFlag (by decide) _ _

theorem noteCandidate (h : TimKeeps measureRegs z s) (o : Int) : TimKeeps measureRegs z (s.noteCandidate o) :=
  ((h.setReg (r := Reg.timCandSec) (by decide) _).setReg (r := Reg.timCandNs) (by decide) _).withTim _

theorem stepToMaster (h : TimKeeps measureRegs z s) (gm : Nat) (o : Int) : TimKeeps measureRegs z (s.stepToMaster gm o) := by
  unfold State.stepToMaster
  rcases lt_or_ge ((s.time.units : Int) + -o * 2 ^ 32) 0 with hu | hu
  · rw [s.stepTime_refused hu]
    exact h.setTimFlag (by decide) _ _
  · obtain ⟨t, ht, hmade⟩ := s.stepTime_made hu
    rw [ht]
    refine TimKeeps.takeMaster (h.trans fun q hq hm _ => hmade.reg q hq ?_ ?_) gm <;> rintro rfl <;> exact hm (by decide)

theorem newMaster (h : TimKeeps measureRegs z s) (gm : Nat) (o : Int) : TimKeeps measureRegs z (s.newMaster gm o) := by
  have hstep := h.stepToMaster gm o
  have hn : TimKeeps measureRegs z (s.freezeIncr.noteCandidate o) := (h.changed s.freezeIncr_changed (by decide)).noteCandidate o
  exact ite hstep (ite ((h.takeMaster gm).servo o) (ite hstep (ite ((h.takeMaster gm).slew o)
    (ite hn (((hn.setTimFlag (by decide) _ _).raise 67).detected _)))))

end TimKeeps

theorem State.measureOffset_timKeeps (s : State) (p : Nat) (raw : Int) :
    TimKeeps measureRegs (s.setReg Reg.timOffset (BitVec.ofInt 32 (sat32 (raw - (signed 32 (s.num (Reg.timAsym (p - 1)))).tdiv 1000))))
      (s.measureOffset p raw) := by
  have h := TimKeeps.refl (rs := measureRegs) (s.setReg Reg.timOffset (BitVec.ofInt 32 (sat32 (raw - (signed 32 (s.num (Reg.timAsym (p - 1)))).tdiv 1000))))
  unfold State.measureOffset
  dsimp only
  split
  · exact TimKeeps.ite (((h.newMaster _ _).noteLock (by decide) _).withTim _) (h.newMaster _ _)
  · exact h.ite ((TimKeeps.noteLock (TimKeeps.ite (h.slew _) (h.servo _)) (by decide) _).withTim _)

end

/-! ### The servo (R192, R194) -/

/-- The servo's integral after an offset. -/
def State.servoInteg (s : State) (o : Int) : Int := s.tim.integ - s.normalised o / 2 ^ s.fld Reg.timServo 11 8

/-- INCR as the servo sets it. -/
def State.servoIncr (s : State) (o : Int) : Nat :=
  incrOf (clampInt (-500000 * 2 ^ 15) (500000 * 2 ^ 15) (s.servoInteg o - s.normalised o / 2 ^ s.fld Reg.timServo 3 0))

/-- The servo has taken an offset. -/
structure Servoed (o : Int) (z t : State) : Prop where
  integ : t.tim.integ = z.servoInteg o
  on : z.flag Reg.timCtrl 0 = true → t.num Reg.timIncrFrac = z.servoIncr o % 2 ^ 32 ∧ t.fld Reg.timIncrInt 7 0 = z.servoIncr o / 2 ^ 32 % 256
  off : z.flag Reg.timCtrl 0 = false → t.num Reg.timIncrFrac = z.num Reg.timIncrFrac

theorem State.setIncr_num (s : State) (v : Nat) : (s.setIncr v).num Reg.timIncrFrac = v % 2 ^ 32 :=
  (State.num_setReg_ne _ _ (by decide)).trans (State.num_setNum _ _ _ (Nat.mod_lt _ (by decide)))

theorem State.setIncr_fld (s : State) (v : Nat) : (s.setIncr v).fld Reg.timIncrInt 7 0 = v / 2 ^ 32 % 256 :=
  State.fld_setFld _ _ _ _ _ (by decide) (by decide)

section
variable (s : State) (o : Int)

theorem State.servo_servoed : Servoed o s (s.servo o) := by
  cases hc : s.flag Reg.timCtrl 0
  · have he : s.servo o = s.withTim { s.tim with integ := s.servoInteg o } := if_neg (fun h => absurd (hc.symm.trans h) (by decide))
    rw [he]
    exact ⟨rfl, fun h => absurd (hc.symm.trans h) (by decide), fun _ => rfl⟩
  · have he : s.servo o = (s.withTim { s.tim with integ := s.servoInteg o }).setIncr (s.servoIncr o) := if_pos hc
    rw [he]
    exact ⟨rfl, fun _ => ⟨State.setIncr_num _ _, State.setIncr_fld _ _⟩, fun h => absurd (hc.symm.trans h) (by decide)⟩

theorem State.noteLock_integ : (s.noteLock o).tim.integ = s.tim.integ := by
  unfold State.noteLock
  split
  · rfl
  · dsimp only
    split <;> rfl

theorem State.noteLock_reg {q : Nat} (hq : q < 0xA0000) (hf : ¬ inFlt q) (hs : q ≠ Reg.timStatus) : (s.noteLock o).reg q = s.reg q :=
  (TimKeeps.refl (rs := [Reg.timStatus]) s).noteLock (by decide) o q hq (by simpa using hs) hf

/-- The offset of the master that TIM follows: the servo runs, and the lock is watched. -/
def State.tracks : State :=
  ((s.servo o).noteLock o).withTim { ((s.servo o).noteLock o).tim with measured := some ((s.servo o).noteLock o).chip.ran }

theorem State.tracks_servoed : Servoed o s (s.tracks o) := by
  obtain ⟨hi, hon, hoff⟩ := s.servo_servoed o
  have hfrac : (s.tracks o).num Reg.timIncrFrac = (s.servo o).num Reg.timIncrFrac := by
    rw [State.num, State.tracks, State.withTim_reg, State.noteLock_reg _ _ (by decide) (by unfold inFlt; decide) (by decide), State.num]
  have hint : (s.tracks o).fld Reg.timIncrInt 7 0 = (s.servo o).fld Reg.timIncrInt 7 0 := by
    rw [State.fld, State.tracks, State.withTim_reg, State.noteLock_reg _ _ (by decide) (by unfold inFlt; decide) (by decide), State.fld]
  exact ⟨((s.servo o).noteLock_integ o).trans hi, fun hc => ⟨hfrac.trans (hon hc).1, hint.trans (hon hc).2⟩, fun hc => hfrac.trans (hoff hc)⟩

end

/-- A following state measures the same way as one with the same servo. -/
theorem Servoed.congr {o : Int} {z s t : State} (h : Servoed o s t) (htim : s.tim = z.tim) (hchip : s.chip = z.chip)
    (hreg : ∀ q ∈ [Reg.timServo, Reg.timCtrl, Reg.timIncrFrac], s.reg q = z.reg q) : Servoed o z t := by
  have hn : s.normalised o = z.normalised o := by rw [State.normalised, htim, hchip, State.normalised]
  have hs (hi lo : Nat) : s.fld Reg.timServo hi lo = z.fld Reg.timServo hi lo := by rw [State.fld, hreg _ (by decide), State.fld]
  have hc : s.flag Reg.timCtrl 0 = z.flag Reg.timCtrl 0 := by rw [State.flag, hreg _ (by decide), State.flag]
  have hf : s.num Reg.timIncrFrac = z.num Reg.timIncrFrac := by rw [State.num, hreg _ (by decide), State.num]
  have hinteg : s.servoInteg o = z.servoInteg o := by rw [State.servoInteg, htim, hn, hs, State.servoInteg]
  have hincr : s.servoIncr o = z.servoIncr o := by rw [State.servoIncr, hinteg, hn, hs, State.servoIncr]
  obtain ⟨hi, hon, hoff⟩ := h
  rw [hc, hincr] at hon
  rw [hc, hf] at hoff
  exact ⟨hi.trans hinteg, hon, hoff⟩

end Sys2Proof.Machine
end
section
/-! The messages of a PTP port of role 1 or 2 (04, R198 to R202). -/
namespace Sys2Proof.Machine

/-! ### Offsets (R200) -/

section
variable {s : State} {p : Nat}

/-- An offset is measured at a port that is SLAVE from here. -/
theorem State.takeOffset_measures (h : s.portState p ∈ [PortState.slave, PortState.uncalibrated]) (raw : Int) :
    ∃ u : State, s.takeOffset p raw = u.measureOffset p raw ∧ u.portState p = PortState.slave ∧ u.tim = s.tim ∧ u.chip = s.chip ∧
      ∀ q, q ≠ Reg.timPortState (p - 1) → u.reg q = s.reg q := by
  unfold State.takeOffset
  by_cases hs : s.portState p = PortState.slave
  · exact ⟨s, if_pos hs, hs, rfl, rfl, fun _ _ => rfl⟩
  · have hu : s.portState p = PortState.uncalibrated := by simpa [hs] using h
    rw [if_neg hs, if_pos hu]
    exact ⟨_, rfl, s.setPortState_portState p (by decide), rfl, rfl, fun q hq => State.reg_setReg_ne s _ q _ hq⟩

/-- A measurement at the master that TIM follows runs the servo. -/
theorem State.measureOffset_tracks (hc : s.tim.candidate = none) (hgm : s.tim.gm ≠ none) (hs : s.timFlag Tim.slewing = false) (raw : Int) :
    s.measureOffset p raw = (s.setReg Reg.timOffset (BitVec.ofInt 32 (sat32 (raw - (signed 32 (s.num (Reg.timAsym (p - 1)))).tdiv 1000)))).tracks
      (raw - (signed 32 (s.num (Reg.timAsym (p - 1)))).tdiv 1000) := by
  obtain ⟨g, hg⟩ := Option.ne_none_iff_exists'.1 hgm
  obtain ⟨o, ho⟩ : ∃ o, o = raw - (signed 32 (s.num (Reg.timAsym (p - 1)))).tdiv 1000 := ⟨_, rfl⟩
  obtain ⟨u, hu⟩ : ∃ u, u = s.setReg Reg.timOffset (BitVec.ofInt 32 (sat32 o)) := ⟨_, rfl⟩
  have huc : u.tim.candidate = none := hu ▸ hc
  have hug : u.tim.gm = some g := hu ▸ hg
  have hus : u.timFlag Tim.slewing = false := by
    rw [hu]
    exact (State.flag_setReg_ne s _ _ (by decide)).trans hs
  unfold State.measureOffset
  dsimp only
  rw [← ho, ← hu]
  simp only [huc, hug, hus]
  rfl

/-- A measurement shows itself below the ports' registers. -/
theorem measured_below : ∀ q ∈ Reg.timOffset :: measureRegs, q < Reg.timPortState 0 := by decide

/-- The registers of a port and of the servo stand over a measurement. -/
theorem State.measureOffset_reg (raw : Int) {q : Nat} (hq : q < 0xA0000) (hf : ¬ inFlt q) (hm : q ∉ Reg.timOffset :: measureRegs) :
    (s.measureOffset p raw).reg q = s.reg q := by
  rw [List.mem_cons, not_or] at hm
  exact (s.measureOffset_timKeeps p raw q hq hm.2 hf).trans (State.reg_setReg_ne s _ q _ hm.1)

/-- What an offset from a master shows (R192 to R200). -/
theorem State.takeOffset_shows (hp : 1 ≤ p ∧ p ≤ 6) (h : s.portState p ∈ [PortState.slave, PortState.uncalibrated]) (raw : Int) :
    let o := raw - (signed 32 (s.num (Reg.timAsym (p - 1)))).tdiv 1000
    (s.takeOffset p raw).portState p = PortState.slave ∧ (s.takeOffset p raw).reg Reg.timOffset = BitVec.ofInt 32 (sat32 o) ∧
      (s.tim.candidate = none → s.tim.gm ≠ none → s.timFlag Tim.slewing = false → Servoed o s (s.takeOffset p raw)) := by
  obtain ⟨u, he, hst, htim, hchip, hreg⟩ := State.takeOffset_measures h raw
  have hport {q : Nat} (hq : q ∈ [Reg.timStatus, Reg.timOffset, Reg.timServo, Reg.timCtrl, Reg.timIncrFrac]) : q ≠ Reg.timPortState (p - 1) := by
    have : q < 0x90100 := by revert q; decide
    simp only [Reg.timPortState]
    omega
  have hasym : u.num (Reg.timAsym (p - 1)) = s.num (Reg.timAsym (p - 1)) := by
    rw [State.num, hreg _ (by simp only [Reg.timAsym, Reg.timPortState]; omega), State.num]
  intro o
  have ho : o = raw - (signed 32 (u.num (Reg.timAsym (p - 1)))).tdiv 1000 := by rw [hasym]
  rw [he]
  refine ⟨?_, ?_, fun hc hgm hs => ?_⟩
  · rw [State.portState, State.fld, State.measureOffset_reg, ← State.fld, ← State.portState, hst]
    · simp only [Reg.timPortState]; omega
    · simp only [inFlt, Reg.timPortState]; omega
    · intro hm
      have := measured_below _ hm
      simp only [Reg.timPortState] at this
      omega
  · rw [u.measureOffset_timKeeps p raw _ (by decide) (by decide) (by unfold inFlt; decide), ← ho]
    exact (State.reg_setReg _ _ _ _).trans (if_pos rfl)
  · have hus : u.timFlag Tim.slewing = false := by rw [State.timFlag, State.flag, hreg _ (hport (by decide)), ← State.flag, ← State.timFlag, hs]
    rw [State.measureOffset_tracks (htim ▸ hc) (htim ▸ hgm) hus, ← ho]
    refine (State.tracks_servoed _ o).congr (htim ▸ rfl) (hchip ▸ rfl) fun q hq => ?_
    have hq' : q ∈ [Reg.timStatus, Reg.timOffset, Reg.timServo, Reg.timCtrl, Reg.timIncrFrac] := by revert q; decide
    exact (State.reg_setReg_ne u _ q _ (by revert q; decide)).trans (hreg q (hport hq'))

end

end Sys2Proof.Machine
end
section
/-! Announcements, events and requests at a PTP port (04, R198 to R202), and the messages that it sends. -/
namespace Sys2Proof.Machine

/-! ### What hangs on the configuration alone -/

section
variable {s t : State} (h : t.blk = s.blk)
include h

theorem State.linkStruct_congr : t.linkStruct = s.linkStruct := by rw [State.linkStruct, State.body, h, State.linkStruct, State.body]

theorem State.ptpRole_congr (p : Nat) : t.ptpRole p = s.ptpRole p := by
  unfold State.ptpRole State.ptpUsable State.ptpEntryRole State.ethUsed
  rw [State.linkStruct_congr h]

theorem State.ptpDefault_congr : t.ptpDefault = s.ptpDefault := by
  unfold State.ptpDefault State.clockIdentity State.ptpPrio1 State.ptpPrio2 State.ptpSlaveOnly
  rw [State.linkStruct_congr h]

end

/-! ### Announcements -/

section
variable {s : State} {p : Nat} {d : PtpDataSet}

/-- The best that a port knows once it hears `d`. -/
def State.bestHeard (s : State) (p : Nat) (d : PtpDataSet) : Option PtpDataSet :=
  match (s.ptpPort p).best with
  | none => some d
  | some e => if (e.sender = d.sender ∧ e.senderPort = d.senderPort) ∨ dataSetBetter d e = true then some d else some e

/-- The port keeps the better announcement. -/
def State.hears (s : State) (p : Nat) (d : PtpDataSet) : State := s.setPtpPort p { s.ptpPort p with best := s.bestHeard p d }

/-- An announcement is kept if it is the first, of the same sender, or better. -/
theorem State.bestHeard_eq : s.bestHeard p d =
    if (match (s.ptpPort p).best with
      | none => true
      | some e => (e.sender == d.sender && e.senderPort == d.senderPort) || dataSetBetter d e) then some d else (s.ptpPort p).best := by
  unfold State.bestHeard
  cases (s.ptpPort p).best with
  | none => rfl
  | some e => simp only [Bool.or_eq_true, Bool.and_eq_true, beq_iff_eq]

theorem State.takeAnnounce_none (h : ¬ (d.sender = s.clockIdentity ∨ 255 ≤ d.steps)) : s.takeAnnounce p d none = (s.hears p d).decidePorts := by
  rw [State.hears, State.bestHeard_eq]
  exact if_neg h

theorem State.hears_best : ((s.hears p d).ptpPort p).best = s.bestHeard p d := congrArg PtpPort.best (s.ptpPort_setPtpPort p _)

theorem State.hears_others {q : Nat} (hq : q ≠ p) : (s.hears p d).ptpPort q = s.ptpPort q := (Tab.get_set _ _ _ _).trans (if_neg hq)

/-- The first master that is heard at all, and better than the part itself, makes its port UNCALIBRATED (R202). -/
theorem State.hears_uncalibrated (hrole : s.ptpRole p = 1) (hb : s.bestMaster = none)
    (hst : s.portState p ∈ [PortState.listening, PortState.master, PortState.passive, PortState.preMaster]) (hown : dataSetBetter s.ptpDefault d = false) :
    (s.hears p d).decidePorts.portState p = PortState.uncalibrated := by
  have hp : 1 ≤ p ∧ p ≤ 6 := State.ptpRole_port (by rw [hrole]; decide)
  have hmem {q : Nat} (hlo : 1 ≤ q) (hhi : q ≤ 6) : q ∈ ([1, 2, 3, 4, 5, 6] : List Nat) := by
    simp only [List.mem_cons, List.not_mem_nil, or_false]
    omega
  have hnone {q : Nat} (hlo : 1 ≤ q) (hhi : q ≤ 6) : (s.ptpPort q).best = none := State.bestMaster_none hb q (hmem hlo hhi)
  have hd : ((s.hears p d).ptpPort p).best = some d := by rw [State.hears_best, State.bestHeard, hnone hp.1 hp.2]
  have hbest : (s.hears p d).bestMaster = some (p, d) :=
    State.bestMaster_only hp hd fun q hne hlo hhi => by rw [State.hears_others hne, hnone hlo hhi]
  obtain ⟨-, u, hbefore, hafter⟩ := (s.hears p d).decidePorts_decided hp
  have hblk : u.blk = s.blk := hbefore.blk
  rw [hafter.others p hp.1 (by simp)]
  refine u.decidePort_uncalibrated p (d := d) ?_ ?_ ?_ ?_
  · rw [State.ptpRole_congr hblk, hrole]
  · rw [State.bestMaster_congr hbefore.ports, hbest]
  · rw [State.ptpDefault_congr hblk, hown]
  · rw [hbefore.others p hp.1 (by simp)]
    exact hst

end

/-! ### Events, requests and timers: the messages that leave -/

section
variable (s : State) (p : Nat)

/-- The state with a longer outbox. -/
def State.sends (l : List Sent) : State := { s with outbox := s.outbox ++ l }

theorem State.sends_nil : s.sends [] = s := by rw [State.sends, List.append_nil]
theorem State.sends_sends (a b : List Sent) : (s.sends a).sends b = s.sends (a ++ b) := by
  rw [State.sends, State.sends, List.append_assoc]
  rfl

/-- The message that an event becomes at another transparent port (R199). -/
def forwarded (bs : List Byte) (ns : List Nat) (i : Nat) : Sent := { kind := .ptp, dest := i + 1, bytes := correctResidence bs (ns.getD i 0) }

/-- A port that an event at port `p` leaves by. -/
def State.forwards (i : Nat) : Bool := decide (i + 1 ≠ p) && s.ptpRole (i + 1) == 2

/-- Each of the ports of a list that is transparent and another one sends the event on. -/
theorem State.forward_sends (bs : List Byte) (ns : List Nat) (l : List Nat) :
    l.foldl (fun s i => if i + 1 ≠ p ∧ s.ptpRole (i + 1) = 2 then s.send .ptp (i + 1) (correctResidence bs (ns.getD i 0)) else s) s =
      s.sends ((l.filter (s.forwards p)).map (forwarded bs ns)) := by
  induction l generalizing s with
  | nil => exact s.sends_nil.symm
  | cons i l ih =>
    rw [List.foldl_cons, ih]
    by_cases h : i + 1 ≠ p ∧ s.ptpRole (i + 1) = 2
    · have hf : s.forwards p i = true := by simpa [State.forwards] using h
      have hsame : (s.send .ptp (i + 1) (correctResidence bs (ns.getD i 0))).forwards p = s.forwards p := by
        funext j
        rw [State.forwards, State.ptpRole_congr (s := s) (by rfl), State.forwards]
      rw [if_pos h, List.filter_cons_of_pos hf, List.map_cons, hsame]
      exact s.sends_sends [forwarded bs ns i] _
    · have hf : ¬ s.forwards p i = true := by simpa [State.forwards] using h
      rw [if_neg h, List.filter_cons_of_neg hf]

end

end Sys2Proof.Machine
end
section
/-! The commands of the PTP ports and the snapshot of NOW (04, R196 to R202), and the obligation about them. -/
namespace Sys2Proof.Machine

section
variable {s : State} {p : Nat}

theorem exec_ptpMessage (m : PtpMessage) : exec (.ptpMessage p m) s = .next (s.takePtp p m) := rfl

theorem State.takePtp_idle (h : s.ptpRuns = false ∨ s.ptpRole p = 0) (m : PtpMessage) : s.takePtp p m = s := by
  unfold State.takePtp
  rcases h with h | h
  · exact if_pos (by simp [h])
  · simp only [h]
    cases m <;> simp

variable (hr : s.ptpRuns = true)
include hr

theorem State.takePtp_announce (h : s.ptpRole p = 1) (d : PtpDataSet) (u : Option Int) :
    s.takePtp p (.announce s.ptpDomain d u) = s.takeAnnounce p d u := by
  simp only [State.takePtp, hr, h, Bool.not_true, Bool.false_eq_true, and_self, if_true, if_false]

theorem State.takePtp_offset (h : s.ptpRole p = 1) (o : Int) : s.takePtp p (.offset s.ptpDomain o) = s.takeOffset p o := by
  simp only [State.takePtp, hr, h, Bool.not_true, Bool.false_eq_true, and_self, if_true, if_false]

theorem State.takePtp_pathDelay (h : s.ptpRole p ≠ 0) (ps : Nat) : s.takePtp p (.pathDelay s.ptpDomain ps) =
    s.setReg (Reg.timPdelay (p - 1)) (BitVec.ofInt 32 ((ps : Int) - signed 32 (s.num (Reg.timAsym (p - 1))))) := by
  simp only [State.takePtp, hr, h, Bool.not_true, Bool.false_eq_true, ne_eq, not_true_eq_false, or_self, if_false]

theorem State.takePtp_event (h : s.ptpRole p = 2) (dom : Nat) (bs : List Byte) (ns : List Nat) : s.takePtp p (.event dom bs ns) =
    s.sends (((List.range 6).filter (s.forwards p)).map (forwarded bs ns)) := by
  rw [← s.forward_sends p bs ns]
  simp only [State.takePtp, hr, h, Bool.not_true, Bool.false_eq_true, ne_eq, not_true_eq_false, if_false]

theorem State.takePtp_request (h : s.ptpRole p ≠ 0) {peer : Bool} (hpeer : s.ptpPeer = peer) (requester seq : Nat) :
    s.takePtp p (.request s.ptpDomain peer requester seq) = s.answerRequest p peer requester seq := by
  simp only [State.takePtp, hr, h, hpeer, Bool.not_true, Bool.false_eq_true, ne_eq, not_true_eq_false, or_self, if_false]

end

/-! ### Timers (R198) -/

section
variable {s : State} {p : Nat}

/-- What a timer does at a port with a role. -/
def State.onTimer (s : State) (p : Nat) : PtpTimer → State
  | .announceReceipt =>
    if s.ptpRole p = 1 ∧ (s.portState p = PortState.listening ∨ s.portState p = PortState.passive ∨ s.portState p = PortState.preMaster) then
      ((s.loseAnnounce p).decidePorts).ownsTime p else s
  | .qualification => if s.ptpRole p = 1 ∧ s.portState p = PortState.preMaster then (s.setPortState p PortState.master).ownsTime p else s
  | .sync => if s.ptpRole p = 1 ∧ s.portState p = PortState.master then s.sendSync p else s
  | .announce => if s.ptpRole p = 1 ∧ s.portState p = PortState.master then s.sendAnnounce p else s
  | .delayReq =>
    if s.ptpRole p = 1 ∧ (s.portState p = PortState.slave ∨ s.portState p = PortState.uncalibrated) ∧ s.ptpPeer = false then
      s.sendSeq p 1 fun q => s.ptpHeader 1 44 0 p q 1 0x7F ++ List.replicate 10 0#8 else s
  | .peerDelay => if s.ptpPeer then s.sendSeq p 2 fun q => s.ptpHeader 2 54 0 p q 5 0x7F ++ List.replicate 20 0#8 else s

theorem exec_ptpPortTimer_idle (h : s.ptpRuns = false ∨ s.ptpRole p = 0) (timer : PtpTimer) : Idles (.ptpPortTimer p timer) s :=
  if_pos (by simpa using h)

theorem exec_ptpPortTimer (hr : s.ptpRuns = true) (h : s.ptpRole p ≠ 0) (timer : PtpTimer) : exec (.ptpPortTimer p timer) s = .next (s.onTimer p timer) := by
  refine (if_neg (by simp [hr, h])).trans ?_
  cases timer <;> rfl

/-- From `s` to `t` port `p` sends a message that begins with `byte`, and `k` more. -/
def SendsPtp (p : Nat) (byte : Byte) (k : Nat) (s t : State) : Prop :=
  t = { s with tim := { s.tim with ports := t.tim.ports }, outbox := t.outbox } ∧
    ∃ m r, t.outbox = s.outbox ++ m :: r ∧ m.kind = .ptp ∧ m.dest = p + (if s.ptpUdp then 16 else 0) ∧ m.bytes.head? = some byte ∧ r.length = k

/-- A message's first byte tells its type. -/
theorem State.ptpHeader_head (type len flags port seq control log : Nat) :
    (s.ptpHeader type len flags port seq control log).head? = some (BitVec.ofNat 8 type) := rfl

/-- A message with a sequence number is the one message that leaves. -/
theorem State.sendSeq_sends (type : Nat) {message : Nat → List Byte} {byte : Byte} (hb : ∀ q, (message q).head? = some byte) :
    SendsPtp p byte 0 s (s.sendSeq p type message) := ⟨rfl, _, [], rfl, rfl, rfl, hb _, rfl⟩

/-- What follows a message's first byte does not hide it. -/
theorem head_of_append {a b : List Byte} {x : Byte} (h : a.head? = some x) : (a ++ b).head? = some x := by rw [List.head?_append, h, Option.some_or]

/-- A Sync that does not carry its time is followed by one that tells it. -/
theorem State.sendSync_sends : SendsPtp p 0#8 (if s.ptpOneStep = false then 1 else 0) s (s.sendSync p) := by
  unfold State.sendSync
  cases s.ptpOneStep
  · exact ⟨rfl, _, _, List.append_assoc _ [_] [_], rfl, rfl, rfl, rfl⟩
  · exact State.sendSeq_sends 0 fun q => head_of_append (s.ptpHeader_head ..)

theorem State.sendAnnounce_sends : SendsPtp p 0xB#8 0 s (s.sendAnnounce p) := by
  unfold State.sendAnnounce
  extract_lets own d
  refine State.sendSeq_sends 0xB fun q => ?_
  simp only [List.head?_append, State.ptpHeader_head, Option.some_or]

/-- When a timer that is not a timeout makes a port send. -/
def State.timerSends (s : State) (p : Nat) (timer : PtpTimer) : Prop :=
  (timer = .peerDelay ∧ s.ptpRole p ≠ 0 ∧ s.ptpPeer = true) ∨
  (timer = .delayReq ∧ s.ptpRole p = 1 ∧ s.portState p ∈ [PortState.slave, PortState.uncalibrated] ∧ s.ptpPeer = false) ∨
  (timer ∈ [.sync, .announce] ∧ s.ptpRole p = 1 ∧ s.portState p = PortState.master)

theorem State.timerSends_role {timer : PtpTimer} (h : s.timerSends p timer) : s.ptpRole p ≠ 0 := by
  rcases h with ⟨-, h, -⟩ | ⟨-, h, -, -⟩ | ⟨-, h, -⟩
  · exact h
  · rw [h]; decide
  · rw [h]; decide

theorem State.onTimer_sends {timer : PtpTimer} {byte : Byte}
    (hm : (timer, byte) ∈ [(PtpTimer.sync, 0#8), (.announce, 0xB#8), (.delayReq, 1#8), (.peerDelay, 2#8)]) (h : s.timerSends p timer) :
    SendsPtp p byte (if timer = .sync ∧ s.ptpOneStep = false then 1 else 0) s (s.onTimer p timer) := by
  simp only [List.mem_cons, Prod.mk.injEq, List.not_mem_nil, or_false] at hm
  rcases hm with ⟨rfl, rfl⟩ | ⟨rfl, rfl⟩ | ⟨rfl, rfl⟩ | ⟨rfl, rfl⟩
  · have h : s.ptpRole p = 1 ∧ s.portState p = PortState.master := by simpa [State.timerSends] using h
    simp only [State.onTimer, h, and_self, if_true, true_and]
    exact State.sendSync_sends
  · have h : s.ptpRole p = 1 ∧ s.portState p = PortState.master := by simpa [State.timerSends] using h
    simp only [State.onTimer, h, and_self, if_true]
    exact State.sendAnnounce_sends
  · have h : s.ptpRole p = 1 ∧ (s.portState p = PortState.slave ∨ s.portState p = PortState.uncalibrated) ∧ s.ptpPeer = false := by
      simpa [State.timerSends] using h
    simp only [State.onTimer, if_pos h]
    exact State.sendSeq_sends 1 fun q => head_of_append (s.ptpHeader_head ..)
  · have h : s.ptpRole p ≠ 0 ∧ s.ptpPeer = true := by simpa [State.timerSends] using h
    simp only [State.onTimer, if_pos h.2]
    exact State.sendSeq_sends 2 fun q => head_of_append (s.ptpHeader_head ..)

theorem State.onTimer_silent {timer : PtpTimer} (hrole : s.ptpRole p ≠ 0) (hm : timer ∈ [PtpTimer.sync, .announce, .delayReq, .peerDelay])
    (h : ¬ s.timerSends p timer) : s.onTimer p timer = s := by
  simp only [List.mem_cons, List.not_mem_nil, or_false] at hm
  rcases hm with rfl | rfl | rfl | rfl
  · exact if_neg (by simpa [State.timerSends] using h)
  · exact if_neg (by simpa [State.timerSends] using h)
  · exact if_neg (by simpa [State.timerSends] using h)
  · exact if_neg (by simpa [State.timerSends, hrole] using h)

end

end Sys2Proof.Machine
end
section
/-! Timeouts of the PTP ports, the snapshot of NOW (04, R196 to R202), and the obligation about them. -/
namespace Sys2Proof.Machine

/-! ### Timeouts (R198) -/

/-- A clock whose port is MASTER owns the time from here if it has never followed. -/
structure Owns (z t : State) (p v : Nat) : Prop where
  bus : t.bus = z.bus
  raised : Raised z t []
  only : OnlyRegs { z with tim := t.tim } t decideRegs
  port : t.portState p = v
  state : t.timState = if z.timState = TimeState.free ∧ v = PortState.master then TimeState.grandmaster else z.timState

section
variable {s z u : State} {p v : Nat}

theorem Decided.ownsTime {N : Nat → Prop} (d : Decided N z u) (hp : u.portState p = v) : Owns z (u.ownsTime p) p v := by
  unfold State.ownsTime
  rw [d.state, hp]
  by_cases h : v = PortState.master ∧ z.timState = TimeState.free
  · have hw : Reg.timPortState (p - 1) ≠ Reg.timStatus := by simp only [Reg.timStatus, Reg.timPortState]; omega
    rw [if_pos h]
    refine ⟨d.bus, .nil d.plic, d.onlyRegs.setReg List.mem_cons_self _, ?_, ?_⟩
    · exact (State.fld_setReg_ne u _ _ _ hw).trans hp
    · rw [State.setTimState_timState _ (by decide), if_pos h.symm]
  · rw [if_neg h]
    exact ⟨d.bus, .nil d.plic, d.onlyRegs, hp, by rw [d.state, if_neg fun hc => h hc.symm]⟩

/-- A port whose qualification ends is MASTER. -/
theorem State.qualification_owns (hp : 1 ≤ p ∧ p ≤ 6) : Owns s ((s.setPortState p PortState.master).ownsTime p) p PortState.master :=
  ((Decided.refl (N := fun _ => True) s).setPortState hp trivial _).ownsTime (s.setPortState_portState p (by decide))

/-- A port that has heard nobody for long is MASTER, or listens. -/
theorem State.announceReceipt_owns (hp : 1 ≤ p ∧ p ≤ 6) : Owns s ((s.loseAnnounce p).decidePorts.ownsTime p) p s.lostState := by
  obtain ⟨hall, -⟩ := (s.loseAnnounce p).decidePorts_decided hp
  have hd := ((s.loseAnnounce_decided hp).weaken fun _ _ => trivial).trans hall
  have hport := ((s.loseAnnounce p).decidePorts_lost hp (s.loseAnnounce_best p) (s.loseAnnounce_portState p)).1
  obtain ⟨hbus, hraised, honly, hst, hstate⟩ := hd.ownsTime hport
  exact ⟨hbus, hraised, honly, hst, hstate⟩

/-- When a timeout moves a port on. -/
def State.timerAdvances (s : State) (p : Nat) (timer : PtpTimer) : Prop :=
  s.ptpRole p = 1 ∧ (s.portState p = PortState.preMaster ∨ (timer = .announceReceipt ∧ s.portState p ∈ [PortState.listening, PortState.passive]))

theorem State.onTimer_owns {timer : PtpTimer} (hm : timer ∈ [PtpTimer.announceReceipt, .qualification]) (h : s.timerAdvances p timer) :
    Owns s (s.onTimer p timer) p (if timer = .announceReceipt ∧ s.ptpSlaveOnly = true then PortState.listening else PortState.master) := by
  have hp : 1 ≤ p ∧ p ≤ 6 := State.ptpRole_port (by rw [h.1]; decide)
  simp only [List.mem_cons, List.not_mem_nil, or_false] at hm
  rcases hm with rfl | rfl
  · have h : s.ptpRole p = 1 ∧ (s.portState p = PortState.listening ∨ s.portState p = PortState.passive ∨ s.portState p = PortState.preMaster) := by
      obtain ⟨hrole, hst⟩ := h
      simp only [true_and, List.mem_cons, List.not_mem_nil, or_false] at hst
      tauto
    simp only [State.onTimer, if_pos h, true_and]
    exact State.announceReceipt_owns hp
  · have h : s.ptpRole p = 1 ∧ s.portState p = PortState.preMaster := by simpa [State.timerAdvances] using h
    simp only [State.onTimer, if_pos h]
    exact State.qualification_owns hp

theorem State.onTimer_stays {timer : PtpTimer} (hm : timer ∈ [PtpTimer.announceReceipt, .qualification]) (h : ¬ s.timerAdvances p timer) :
    s.onTimer p timer = s := by
  simp only [List.mem_cons, List.not_mem_nil, or_false] at hm
  rcases hm with rfl | rfl
  · refine if_neg fun hc => h ?_
    obtain ⟨hrole, hst⟩ := hc
    refine ⟨hrole, ?_⟩
    simp only [true_and, List.mem_cons, List.not_mem_nil, or_false]
    tauto
  · exact if_neg (by simpa [State.timerAdvances] using h)

end

/-! ### The snapshot of NOW (R196) -/

section
variable {o s : State} {w : Who}

/-- The seconds are held for a reader. -/
def State.holdsSeconds (s : State) (id : Nat) : State :=
  ((s.setNum (bankOf id Reg.timNowSlo) s.time.sec).setNum (bankOf id Reg.timNowShi) (s.time.sec / 2 ^ 32)).setNum (bankOf id Reg.timNowNs) 1

theorem State.holdsSeconds_written (id : Nat) :
    RegsWritten [bankOf id Reg.timNowSlo, bankOf id Reg.timNowShi, bankOf id Reg.timNowNs] s (s.holdsSeconds id) :=
  (((RegsWritten.refl s).setNum (by simp) _).setNum (by simp) _).setNum (by simp) _

theorem State.holdsSeconds_secondsFor (id : Nat) : (s.holdsSeconds id).secondsFor id = s.time.sec % 2 ^ 64 := by
  have hne : bankOf id Reg.timNowSlo ≠ bankOf id Reg.timNowNs ∧ bankOf id Reg.timNowShi ≠ bankOf id Reg.timNowNs ∧
      bankOf id Reg.timNowSlo ≠ bankOf id Reg.timNowShi := by
    simp only [bankOf, Reg.timNowSlo, Reg.timNowShi, Reg.timNowNs, ne_eq]
    omega
  obtain ⟨hlo, hhi, hlohi⟩ := hne
  have hns : (s.holdsSeconds id).num (bankOf id Reg.timNowNs) = 1 := State.num_setNum _ _ _ (by decide)
  have hsh : (s.holdsSeconds id).num (bankOf id Reg.timNowShi) = s.time.sec / 2 ^ 32 % 2 ^ 32 :=
    (State.num_setReg_ne _ _ hhi).trans (State.num_setNum_mod _ _ _)
  have hsl : (s.holdsSeconds id).num (bankOf id Reg.timNowSlo) = s.time.sec % 2 ^ 32 :=
    (State.num_setReg_ne _ _ hlo).trans ((State.num_setReg_ne _ _ hlohi).trans (State.num_setNum_mod _ _ _))
  rw [State.secondsFor, if_pos hns, hsh, hsl]
  omega

theorem State.replyWord_secondsFor (s : State) (v id : Nat) : (s.replyWord v).secondsFor id = s.secondsFor id := rfl

theorem State.timeNowRead_shows (h : o.admitsRead w Reg.timNowNs s) : Completes (.timeNowRead w) o fun t =>
    t.bus = { code := Code.ok, data := leBytes 4 (s.time.sub / 2 ^ 32) } ∧ t.secondsFor w.id = s.time.sec % 2 ^ 64 ∧
      OnlyRegs s t [bankOf w.id Reg.timNowSlo, bankOf w.id Reg.timNowShi, bankOf w.id Reg.timNowNs] := by
  have hw := s.holdsSeconds_written w.id
  refine ⟨_, congrArg Host.Outcome.next (State.gatedRead_ok o w Reg.timNowNs _ s h), rfl, ?_, hw.onlyRegs.reply _ _⟩
  exact (State.replyWord_secondsFor (s.holdsSeconds w.id) _ _).trans (State.holdsSeconds_secondsFor w.id)

end

end Sys2Proof.Machine
end
section
/-! The obligation about the PTP ports and the snapshot of NOW (04, R196 to R202). -/
namespace Sys2Proof.Machine

section
variable {s : State} {p : Nat} (hr : s.ptpRuns = true)
include hr

theorem exec_ptpAnnounce_idle (h : s.ptpRole p = 1) {d : PtpDataSet} (hd : d.sender = s.clockIdentity ∨ 255 ≤ d.steps) :
    Idles (.ptpMessage p (.announce s.ptpDomain d none)) s := by
  rw [Idles, exec_ptpMessage, State.takePtp_announce hr h]
  exact congrArg Host.Outcome.next (if_pos hd)

theorem State.ptpAnnounce_shows (h : s.ptpRole p = 1) {d : PtpDataSet} (hd : ¬ (d.sender = s.clockIdentity ∨ 255 ≤ d.steps)) :
    Completes (.ptpMessage p (.announce s.ptpDomain d none)) s fun t => t.bus = s.bus ∧ Raised s t [] ∧
      OnlyRegs { s with tim := t.tim } t decideRegs ∧ (t.ptpPort p).best = s.bestHeard p d ∧
      (s.bestMaster = none → s.portState p ∈ [PortState.listening, PortState.master, PortState.passive, PortState.preMaster] →
        dataSetBetter s.ptpDefault d = false → t.portState p = PortState.uncalibrated) := by
  have hp : 1 ≤ p ∧ p ≤ 6 := State.ptpRole_port (by rw [h]; decide)
  obtain ⟨hall, -⟩ := (s.hears p d).decidePorts_decided hp
  refine ⟨(s.hears p d).decidePorts, ?_, hall.bus, .nil hall.plic, hall.onlyRegs, ?_, State.hears_uncalibrated h⟩
  · rw [exec_ptpMessage, State.takePtp_announce hr h, State.takeAnnounce_none hd]
  · rw [hall.ptpPort, State.hears_best]

theorem State.ptpOffset_shows (h : s.ptpRole p = 1) (hst : s.portState p ∈ [PortState.slave, PortState.uncalibrated]) (raw : Int) :
    let o := raw - (signed 32 (s.num (Reg.timAsym (p - 1)))).tdiv 1000
    Completes (.ptpMessage p (.offset s.ptpDomain raw)) s fun t => t.portState p = PortState.slave ∧
      t.reg Reg.timOffset = BitVec.ofInt 32 (sat32 o) ∧
      (s.tim.candidate = none → s.tim.gm ≠ none → s.timFlag Tim.slewing = false → Servoed o s t) :=
  ⟨_, by rw [exec_ptpMessage, State.takePtp_offset hr h], State.takeOffset_shows (State.ptpRole_port (by rw [h]; decide)) hst raw⟩

theorem State.ptpPathDelay_shows (h : s.ptpRole p ≠ 0) (ps : Nat) :
    Alters (.ptpMessage p (.pathDelay s.ptpDomain ps)) s [Reg.timPdelay (p - 1)] [] fun t =>
      t.reg (Reg.timPdelay (p - 1)) = BitVec.ofInt 32 ((ps : Int) - signed 32 (s.num (Reg.timAsym (p - 1)))) := by
  exact ⟨_, congrArg Host.Outcome.next (State.takePtp_pathDelay hr h ps), rfl, (OnlyRegs.refl s _).setReg (by simp) _, .nil rfl, (State.reg_setReg s _ _ _).trans (if_pos rfl)⟩

theorem State.ptpEvent_shows (h : s.ptpRole p = 2) (dom : Nat) (bs : List Byte) (ns : List Nat) :
    Completes (.ptpMessage p (.event dom bs ns)) s fun t => t = { s with outbox := t.outbox } ∧
      t.outbox = s.outbox ++ ((List.range 6).filter (s.forwards p)).map (forwarded bs ns) :=
  ⟨s.sends _, by rw [exec_ptpMessage, State.takePtp_event hr h], rfl, rfl⟩

/-- A request is answered where delays are measured peer to peer by a response and what follows it. -/
theorem State.ptpRequest_peer (h : s.ptpRole p ≠ 0) (requester seq : Nat) (hpeer : s.ptpPeer = true) :
    Completes (.ptpMessage p (.request s.ptpDomain true requester seq)) s fun t =>
      t = { s with outbox := t.outbox } ∧ ∃ a b, t.outbox = s.outbox ++ [a, b] ∧ a.bytes.head? = some 3#8 ∧ b.bytes.head? = some 0xA#8 := by
  refine ⟨s.answerRequest p true requester seq, ?_, rfl, _, _, List.append_assoc _ [_] [_], ?_, ?_⟩
  · rw [exec_ptpMessage, State.takePtp_request hr h hpeer]
  · exact head_of_append (head_of_append (s.ptpHeader_head ..))
  · exact head_of_append (head_of_append (State.ptpHeader_head ..))

theorem State.ptpRequest_master (h : s.ptpRole p ≠ 0) (requester seq : Nat) (hpeer : s.ptpPeer = false) (hm : s.portState p = PortState.master) :
    Completes (.ptpMessage p (.request s.ptpDomain false requester seq)) s fun t =>
      t = { s with outbox := t.outbox } ∧ ∃ a, t.outbox = s.outbox ++ [a] ∧ a.bytes.head? = some 9#8 := by
  refine ⟨s.sendPtp p (s.ptpHeader 9 54 0 p seq 3 0 ++ s.ptpStamp ++ beBytes 10 requester), ?_, rfl, _, rfl,
    head_of_append (head_of_append (s.ptpHeader_head ..))⟩
  rw [exec_ptpMessage, State.takePtp_request hr h hpeer]
  exact congrArg Host.Outcome.next (if_pos hm)

theorem exec_ptpPortTimer_silent {timer : PtpTimer} (hm : timer ∈ [PtpTimer.sync, .announce, .delayReq, .peerDelay]) (h : ¬ s.timerSends p timer) :
    Idles (.ptpPortTimer p timer) s := by
  by_cases hrole : s.ptpRole p = 0
  · exact exec_ptpPortTimer_idle (.inr hrole) timer
  · rw [Idles, exec_ptpPortTimer hr hrole, State.onTimer_silent hrole hm h]

theorem exec_ptpPortTimer_stays {timer : PtpTimer} (hm : timer ∈ [PtpTimer.announceReceipt, .qualification]) (h : ¬ s.timerAdvances p timer) :
    Idles (.ptpPortTimer p timer) s := by
  by_cases hrole : s.ptpRole p = 0
  · exact exec_ptpPortTimer_idle (.inr hrole) timer
  · rw [Idles, exec_ptpPortTimer hr hrole, State.onTimer_stays hm h]

end

/-- A port without a role does nothing. -/
theorem exec_ptpMessage_idle {s : State} {p : Nat} (h : s.ptpRuns = false ∨ s.ptpRole p = 0) (m : PtpMessage) : Idles (.ptpMessage p m) s := by
  rw [Idles, exec_ptpMessage, State.takePtp_idle h]

/-- Settles O23: each kind of message and of timer by its own lemma. -/
theorem ptpPortsAndTheTimeSnapshot : Obligations.PtpPortsAndTheTimeSnapshot := by
  unfold Obligations.PtpPortsAndTheTimeSnapshot
  refine ⟨fun s p hr => ⟨fun hrole d => ?_, fun hrole hst raw => ?_, fun hrole ps => State.ptpPathDelay_shows hr hrole ps,
      fun hrole dom bs ns => State.ptpEvent_shows hr hrole dom bs ns,
      fun hrole requester seq => ⟨State.ptpRequest_peer hr hrole requester seq, State.ptpRequest_master hr hrole requester seq⟩,
      fun timer byte hm => ⟨fun h => ?_, fun h => ?_⟩, fun timer hm => ⟨fun h => ?_, exec_ptpPortTimer_stays hr hm⟩⟩,
    fun s p h => ⟨exec_ptpMessage_idle h, exec_ptpPortTimer_idle h⟩, fun o s w h => State.timeNowRead_shows h⟩
  · split
    next hd => exact exec_ptpAnnounce_idle hr hrole hd
    next hd => exact State.ptpAnnounce_shows hr hrole hd
  · obtain ⟨t, he, hport, hoffset, hservo⟩ := State.ptpOffset_shows hr hrole hst raw
    refine ⟨t, he, hport, hoffset, fun hc hgm hs => ?_⟩
    obtain ⟨hinteg, hon, hoff⟩ := hservo hc hgm hs
    exact ⟨hinteg, hon, hoff⟩
  · exact ⟨_, exec_ptpPortTimer hr (State.timerSends_role h) timer, State.onTimer_sends hm h⟩
  · refine exec_ptpPortTimer_silent hr ?_ h
    revert hm
    cases timer <;> simp
  · have hrole : s.ptpRole p ≠ 0 := by rw [h.1]; decide
    obtain ⟨hbus, hraised, honly, hport, hstate⟩ := State.onTimer_owns hm h
    exact ⟨_, exec_ptpPortTimer hr hrole timer, hbus, hraised, honly, hport, hstate⟩

end Sys2Proof.Machine
end
